-- ==== Sys2Proof/Word.lean ====
section
/-! DEFINITION. The word, byte and time types, the four radios, and the plainest arithmetic on them. -/

namespace Sys2Proof

/-- A block register: 32 bits (R5). -/
abbrev Word := BitVec 32
/-- A byte of memory. -/
abbrev Byte := BitVec 8
/-- A grid-time value: bits [63:24] the cycle count, bits [23:0] the angle (R3). -/
abbrev GTime := BitVec 64

/-- A sparse table: pairs of a key and a value, keys strictly rising. -/
abbrev Sparse (α : Type) := List (Nat × α)

/-- The four radios (00_scope, Names). -/
inductive Radio where
  | l | m | h | s
deriving DecidableEq, Repr

/-- The three Wi-Fi radios. -/
inductive WRadio where
  | l | m | h
deriving DecidableEq, Repr

/-- Radio numbers in the order L, M, H, S (R23). -/
def Radio.idx : Radio → Nat
  | .l => 0 | .m => 1 | .h => 2 | .s => 3

/-- Radio numbers in the order L, M, H (R23). -/
def WRadio.idx : WRadio → Nat
  | .l => 0 | .m => 1 | .h => 2

/-- A Wi-Fi radio as a radio. -/
def WRadio.toRadio : WRadio → Radio
  | .l => .l | .m => .m | .h => .h

/-- The value of a `w`-bit two's-complement field. -/
def toSigned (w n : Nat) : Int :=
  if n % 2 ^ w < 2 ^ (w - 1) then (n % 2 ^ w : Nat) else (n % 2 ^ w : Nat) - (2 ^ w : Nat)

/-- The `w`-bit two's-complement field of a number. -/
def ofSigned (w : Nat) (i : Int) : Nat := (i % (2 ^ w : Nat)).toNat

end Sys2Proof
end

