-- ==== Sys2Proof/Syntax.lean ====
section
/-! DEFINITION. The commands of the block: one constructor per row of the table of operations and events.
A command that is a register access names its initiator (R25); an event that the outside world or a sequencer brings names
what it brings (a measured level, an outcome, the bytes of a frame). -/

namespace Sys2Proof

/-- The initiators of R25, 0 to 20. -/
abbrev Init := Fin 21

/-- How a signalling field's check ends (R110, R117): passed, passed as the last field before the data, failed, or passed
with a format that R103 to R107 exclude. -/
inductive FieldOutcome where
  | pass | passLast | fail | unsupported
deriving DecidableEq, Repr

/-- What the receiver measured for one user of a reception (R128): status words 0 to 2 and 5 to 7, and whether the user of
a TB reception was absent. -/
structure RxMeas where
  w0 : BitVec 32
  w1 : BitVec 32
  len : Nat
  rssi0 : BitVec 32
  rssi1 : BitVec 32
  w7 : BitVec 32
  absent : Bool
deriving DecidableEq, Repr

/-- The six words of a front-end command (R73). -/
structure SixWords where
  w0 : BitVec 32
  w1 : BitVec 32
  w2 : BitVec 32
  w3 : BitVec 32
  w4 : BitVec 32
  w5 : BitVec 32
deriving DecidableEq, Repr

/-- The seven words of a transmit vector (R129). -/
structure SevenWords where
  w0 : BitVec 32
  w1 : BitVec 32
  w2 : BitVec 32
  w3 : BitVec 32
  w4 : BitVec 32
  w5 : BitVec 32
  w6 : BitVec 32
deriving DecidableEq, Repr

/-- A receiving MAC or port (R15). -/
inductive RxSource where
  | eth (p : Fin 6)
  | wifi (r : WRadio)
  | field
deriving DecidableEq, Repr

/-- What an inline block hands to the cipher engine (R391): the mode and direction of R376, the slot, the tag length, the
nonce, the AAD, the data, and the tag to compare. -/
structure InlineOp where
  mode : Fin 7
  dir : Bool
  slot : Fin 1024
  tagLen : Nat
  nonce : List (BitVec 8)
  aad : List (BitVec 8)
  data : List (BitVec 8)
  tag : List (BitVec 8)
deriving DecidableEq, Repr

/-- The outcome of an exchange for one client (R195): the acknowledged fraction, whether it was reported ABSENT, the MPDUs
acknowledged and not acknowledged by their numbers, the airtime in 1/16 µs, and its share of the tones. -/
structure ExchangeIn where
  a : BitVec 8
  absent : Bool
  acked : List Nat
  failed : List Nat
  airtime : Nat
  tones : Nat
  total : Nat
deriving DecidableEq, Repr

/-- An exchange that a MAC starts (R142, R168): its transmit vector, the power per chain in 0.5 dBm, the chains, the
duration of the PPDU, and the time from its end to the end of the last response it solicits, both in µs. -/
structure ExchangeOut where
  vec : SevenWords
  power : BitVec 8
  chains : BitVec 8
  ppdu : Nat
  resp : Nat
deriving DecidableEq, Repr

/-- What an MPDU or a BAR that a Wi-Fi MAC receives brings (R144 to R152, R158, R159): its FCS, the BSS, client, TID and SN
(the starting SN of a BAR), the protection with key ID and PN, whether its MIC is right and its cipher operation was not
aborted, the power-management bit, EAPOL, the 802.3 frame it carries, and a buffer status report (BK, BE, VI, VO) if any. -/
structure RxFrame where
  fcs : Bool
  bar : Bool
  bss : Fin 16
  client : BitVec 12
  tid : Fin 8
  sn : BitVec 12
  prot : Bool
  kid : Bool
  pn : BitVec 48
  mic : Bool
  aborted : Bool
  pm : Bool
  eapol : Bool
  bsr : Option (Nat × Nat × Nat × Nat)
  data : List (BitVec 8)
deriving DecidableEq, Repr

/-- The grid-time element of a Wi-Fi beacon (R147). -/
structure GteIn where
  state : Fin 8
  qual : Fin 8
  role : Fin 4
  depth : BitVec 8
  gt : GTime
  dig : BitVec 64
  gen : BitVec 32
  planId : BitVec 32
  mask : BitVec 64
deriving DecidableEq, Repr

/-- A received Wi-Fi beacon: transmitter address, FCS, its BSSID is the node's own, it was received on the primary channel,
its element, and the STAMP of its status block (R148, R173). -/
structure WifiBeacon where
  addr : BitVec 48
  fcs : Bool
  own : Bool
  primary : Bool
  gte : Option GteIn
  stamp : GTime
deriving DecidableEq, Repr

/-- A field frame as Radio S delivers it (R126, R128, R221): the PSDU with its FCS, whether its FCS has 2 bytes, the grid
times of its first and its last sample, its RSSI, and whether the cipher engine aborted its check. -/
structure FieldRx where
  data : List (BitVec 8)
  fcs2 : Bool
  stamp : GTime
  last : GTime
  rssi : BitVec 8
  aborted : Bool
deriving DecidableEq, Repr

/-- A read of so many bytes, or a write of bytes. -/
inductive MemOp where
  | read (len : Nat)
  | write (data : List (BitVec 8))
deriving DecidableEq, Repr

/-- A request that reaches the DRAM controller: its source (an initiator of R25, 21 Steppe's history port, 22 the scrubber)
and its offset in the DRAM window. -/
structure DramArrival where
  src : Fin 23
  offset : BitVec 34
deriving DecidableEq, Repr

/-- What a neighbour answers to a pull (R471): whether it answered every step in time, its generation and digest, its area
prefixes, and the element records of the areas that were read. -/
structure PullIn where
  answered : Bool
  gen : BitVec 32
  digest : List (BitVec 8)
  areas : List (BitVec 8 × List (BitVec 8))
  records : List (BitVec 8)
deriving DecidableEq, Repr

/-- The commands: one constructor per row of opcode_table.json. -/
inductive Instr where
  /-- REGISTER_WRITE (R8). A write to a block register that has no row of its own is checked for range, RWI state and access, and then takes effect field by field. -/
  | registerWrite (i : Init) (a : Nat) (v : Word)
  /-- COUNTER_READ (R7). A read of an RC counter register returns the value and then clears it. -/
  | counterRead (i : Init) (a : Nat)
  /-- MEMORY_ACCESS (R413). An initiator reads or writes an SRAM or DRAM word through the ECC. -/
  | memoryAccess (i : Init) (a : BitVec 36) (op : MemOp)
  /-- RECEIVE_RESERVE (R15). A receiving MAC or port reserves the frame's credit units at the start of a frame, or discards the frame when they cannot be granted. -/
  | receiveReserve (src : RxSource) (len : Nat)
  /-- FRAME_STORED (R12). The whole frame has been stored downstream; the upstream buffer and credits are released and unused reserved units are returned. -/
  | frameStored (r : WRadio) (release : Bool)
  /-- FRAME_FORWARD (R16). A stage sends the head frame of a queue once the downstream pool holds credits for the whole frame. -/
  | frameForward (r : WRadio)
  /-- CREDIT_RETURN (R17). A downstream stage releases a buffer and returns its credits to the pool. -/
  | creditReturn (r : Radio) (a : Nat)
  /-- READINESS_SET (R35). A function's readiness bit is set once its start step has passed and every bit it depends on is set. -/
  | readinessSet (k : Fin 26)
  /-- READINESS_CLEAR (R35). A readiness bit clears, and every bit that depends on it clears within 1 µs. -/
  | readinessClear (k : Fin 26)
  /-- MAINS_CROSSING (R39). A mains crossing arrives on the sense pair or GZX and is judged valid or not. -/
  | mainsCrossing (spacing : Nat) (amp : Nat)
  /-- CROSSING_MISSING (R51). A predicted crossing window ends without a valid crossing and the crossing counts as missing. -/
  | crossingMissing
  /-- HOLD_ESTIMATE_UPDATE (R52). ERR_EST is updated once per cycle in HOLDOVER or SLEW. -/
  | holdEstimateUpdate
  /-- BEACON_SAMPLE (R47). A MAC delivers a beacon timing sample Δ to the GTU. -/
  | beaconSample (src : Fin 4) (carried : GTime) (stamp : GTime)
  /-- SEED (R49). Command SEED aligns a REFERENCE node with the Δ in GTU_SEED, or is rejected with STATE outside FREE and LOCAL. -/
  | seed (i : Init)
  /-- RELEARN (R67). Command RELEARN restarts beacon sampling in LOCAL or ALIGNED. -/
  | relearn (i : Init)
  /-- HOLD (R54). Command HOLD enters a holdover from ALIGNED that lasts until RESUME. -/
  | hold (i : Init)
  /-- RESUME (R54). Command RESUME ends a commanded holdover, applying R53 at once when the recent crossings qualify. -/
  | resume (i : Init)
  /-- GTU_FREE (R68). Command FREE returns the GTU to FREE, disarms every compare channel and discards any slew. -/
  | gtuFree (i : Init)
  /-- PMAP_COMMIT (R50). A commit of a grid-time and PTP pair updates the PTP ratio and sets PMAP_VALID. -/
  | pmapCommit (i : Init)
  /-- PMAP_EXPIRE (R50). PMAP_VALID clears when no PTP pair is younger than 10 s. -/
  | pmapExpire
  /-- BCN_VALID_EXPIRE (R67). BCN_VALID clears when no beacon sample is younger than 10 s. -/
  | bcnValidExpire
  /-- GTU_CTRL_WRITE (R68). A write to GTU_CTRL that changes NOM reloads GTU_INC with the nominal increment, without a step in grid time. -/
  | gtuCtrlWrite (i : Init) (v : Word)
  /-- GTU_NOW_READ (R55). A read of GTU_NOW_LO returns bits [31:0] and latches bits [63:32] for this initiator. -/
  | gtuNowRead (i : Init)
  /-- XLAST_READ (R67). A read of GTU_XLAST_LO returns the low word of the last crossing and latches the high word. -/
  | xlastRead (i : Init)
  /-- REPLICA_BROADCAST (R56). Every 256 GTF ticks the GTU broadcasts grid time and GTU_INC, and each replica catches up or holds. -/
  | replicaBroadcast
  /-- GC_ARM (R58). An ARM write to a compare channel is checked in order and arms the channel, fires it at once, or records the failure. -/
  | gcArm (i : Init) (n : Fin 64) (v : Word)
  /-- GC_DISARM (R58). A DISARM write ends an arming without firing and records OK. -/
  | gcDisarm (i : Init) (n : Fin 64) (v : Word)
  /-- GC_FIRE (R57). An armed compare channel fires at the first tick with grid time at or past its compare value and strobes its targets. -/
  | gcFire (n : Fin 64)
  /-- PIN_PULSE_END (R552). A PULSE ends after GCn_WIDTH ticks and drives its ball low. -/
  | pinPulseEnd (pin : Fin 48)
  /-- EVENT_OCCURRENCE (R63). An event occurrence sets its pending bit at each routed destination and is counted in EVR_CNT. -/
  | eventOccurrence (ev : Fin 256)
  /-- EIRQ_PULSE (R64). In pulse mode, an EIRQ pin emits one pulse per occurrence after the gap that follows the previous pulse. -/
  | eirqPulse (p : Fin 4)
  /-- PENDING_CLEAR (R64). A W1C write to EVR_PEND clears pending bits and may deassert interrupt lines. -/
  | pendingClear (i : Init) (d : Fin 14) (w : Fin 8) (v : Word)
  /-- SOFTWARE_EVENT (R66). A write of 1 to bit k of EVR_SWSET raises one occurrence of EV240+k. -/
  | softwareEvent (i : Init) (v : Word)
  /-- SUBSCRIPTION_POP (R69). A read of EVR_SUB0 pops one FIFO entry and latches its stamp, or is refused with STATE while SUBEN is set. -/
  | subscriptionPop (i : Init)
  /-- RFC_CMD_PUSH (R74). A push of a staged front-end command is checked for format and enters the firmware queue. -/
  | rfcCmdPush (i : Init) (r : Radio) (v : Word)
  /-- MAC_PORT_COMMAND (R78). A MAC issues an RX, TX, IDLE or ABORT through the one-entry MAC port. -/
  | macPortCommand (r : Radio) (w : SixWords)
  /-- RFC_SLEEP (R76). Command SLEEP takes the radio to SLEEP when its state accepts it. -/
  | rfcSleep (r : Radio)
  /-- RFC_WAKE (R76). Command WAKE takes the radio from SLEEP to STANDBY. -/
  | rfcWake (r : Radio)
  /-- RFC_TUNE (R87). Command TUNE retunes the synthesiser from a valid record, or runs OSC when there is none. -/
  | rfcTune (r : Radio)
  /-- RFC_PREP (R88). Command PREP loads and checks a record in the prepared-record register without touching the synthesiser. -/
  | rfcPrep (r : Radio)
  /-- RFC_RX (R81). Command RX moves the radio into receive, or is held when the synthesiser is not locked. -/
  | rfcRx (r : Radio)
  /-- RFC_TX (R81). Command TX moves the radio into transmit for a PPDU at its on-air instant, or is held for lock. -/
  | rfcTx (r : Radio)
  /-- RFC_IDLE (R76). Command IDLE returns the radio from RX to SYNTH. -/
  | rfcIdle (r : Radio)
  /-- RFC_STANDBY (R76). Command STANDBY takes the radio to STANDBY. -/
  | rfcStandby (r : Radio)
  /-- RFC_CAL (R92). Command CAL runs the due steps of the calibrations named in MASK. -/
  | rfcCal (r : Radio)
  /-- RFC_DPDUP (R98). Command DPDUP arms a DPD fit for a chain into a model. -/
  | rfcDpdup (r : Radio)
  /-- RFC_ABORT (R84). Command ABORT ends a held command, a calibration, a reception or a transmission, and leaves the radio in SYNTH. -/
  | rfcAbort (r : Radio)
  /-- RFC_STORE (R89). Command STORE writes the active record, with GEN incremented and a fresh CRC, to INDEX. -/
  | rfcStore (r : Radio)
  /-- RFC_TRANSITION_DONE (R71). A radio state transition completes after its transition time. -/
  | rfcTransitionDone (r : Radio)
  /-- SYNTH_LOCK (R81). The synthesiser locks, and a held command executes if its deadline can still be met. -/
  | synthLock (r : Radio) (codes : BitVec 24)
  /-- LOCK_LOSS (R72). The synthesiser loses lock; PA and LNA drop, the command ends with HW, EVb+3 is raised and relocking begins. -/
  | lockLoss (r : Radio)
  /-- HELD_DEADLINE (R82). A held RX or TX whose deadline can no longer be met is rejected with LATE without emitting RF energy. -/
  | heldDeadline (r : Radio)
  /-- CAL_STEP_DONE (R93). A calibration step reaches its safe point, and applies its result or records a failure. -/
  | calStepDone (r : Radio) (ok : Bool) (codes : List (BitVec 32))
  /-- CAL_PERIOD_DUE (R90). The calibration period RFC_CALPER expires and makes IQ, FBW and DCO due. -/
  | calPeriodDue (r : Radio)
  /-- CAL_TEMP_DUE (R90). A temperature change past a threshold makes a calibration due. -/
  | calTempDue (r : Radio) (temp : BitVec 16)
  /-- CAL_OVERDUE (R91). A calibration due for RFC_CALGRACE seconds raises EVb+3. -/
  | calOverdue (r : Radio)
  /-- AUTOCAL_START (R94). With AUTOCAL set, the controller starts due calibrations itself in SYNTH with lock and no command due. -/
  | autocalStart (r : Radio)
  /-- DPD_FIT_DONE (R98). The least-squares fit ends and writes the model, or fails above NMAX with HW. -/
  | dpdFitDone (r : WRadio) (nmse plo phi : BitVec 8) (coef : List (BitVec 32))
  /-- DPD_TIMEOUT (R98). No qualifying PPDU arrives within RFC_DPD_TMO, and DPDUP ends with ABORTED. -/
  | dpdTimeout (r : WRadio)
  /-- DPD_DUE (R98). RFC_CALDUE.DPD is set on a 4 °C change or after 10 s of transmitting since the last fit. -/
  | dpdDue (r : WRadio)
  /-- FEMT_WRITE (R101). A write to RFC_FEMT0–2 is checked against the FEM timing constraints. -/
  | femtWrite (i : Init) (r : Radio) (k : Fin 3) (v : Word)
  /-- RFC_RESULT_POP (R79). A read of RFC_RES pops a command result and latches its grid time. -/
  | rfcResultPop (i : Init) (r : Radio)
  /-- PACKET_DETECT (R109). The modem detects an L-STF on the primary 20 MHz and begins a reception. -/
  | packetDetect (r : Radio) (pwr : Int) (stamp : GTime)
  /-- FIELD_CHECK (R110). A signalling field is checked at the end of the symbol that carries it. -/
  | fieldCheck (r : Radio) (first : Bool) (res : FieldOutcome) (w0 : Word)
  /-- UNSUPPORTED_HOLD_END (R117). At the computed PPDU end, HOLD ends with a TYPE status block. -/
  | unsupportedHoldEnd (r : Radio)
  /-- SECOND_DETECTION (R112). The armed restart detector finds a second preamble during a reception. -/
  | secondDetection (r : Radio) (pwr : Int) (stamp : GTime)
  /-- CLIP_RESTART (R115). Half the chains clipping for 0.4 µs resets the AGC and restarts the search. -/
  | clipRestart (r : Radio)
  /-- TB_RECEPTION_ARM (R120). The MAC arms a solicited TB reception with the trigger's parameters. -/
  | tbReceptionArm (r : WRadio) (users : List (BitVec 12)) (target : BitVec 8)
  /-- TB_WINDOW_END (R120). No L-STF arrives in the TB window, so every user is reported ABSENT and EVb+5 is raised. -/
  | tbWindowEnd (r : WRadio)
  /-- CODEWORD_DECODED (R122). An LDPC codeword finishes decoding, and the iteration limit adjusts to the backlog. -/
  | codewordDecoded (r : WRadio) (fail half quarter : Bool)
  /-- PPDU_RECEIVE_END (R124). The last decoded byte reaches the MAC, followed by the status block. -/
  | ppduReceiveEnd (r : Radio) (blocks : List RxMeas)
  /-- TRANSMIT_VECTOR (R130). The MAC passes a transmit vector, which is checked and accepted or refused together with its TX command. -/
  | transmitVector (r : Radio) (w : SevenWords) (stored : Bool)
  /-- PPDU_TX_END (R133). A PPDU ends at its last sample with OK, or early with ABORTED or HW. -/
  | ppduTxEnd (r : Radio) (us : Nat)
  /-- SMODE_WRITE (R137). A write to MDM_SMODE selects the Radio S receive mode, deferred during a reception. -/
  | smodeWrite (i : Init) (v : Word)
  /-- NOISE_ALARM (R138). The 1 s noise-floor average exceeds MDM_NFALM and raises EVb+6. -/
  | noiseAlarm (r : Radio) (nf : BitVec 16)
  /-- RX_ANOMALY_ALARM (R138). Receive anomalies exceed MDM_RXALM within one second and raise EVb+7. -/
  | rxAnomalyAlarm (r : Radio) (grew : Nat)
  /-- EDCA_COMMIT (R142). At the last backoff slot boundary, the MAC commits an EDCA transmission and issues TX and the vector. -/
  | edcaCommit (r : WRadio) (x : ExchangeOut) (exempt : Bool) (mpdus : List Nat)
  /-- MPDU_RECEIVE (R144). A received MPDU is checked for FCS and units, acknowledged, decrypted and placed in reorder. -/
  | mpduReceive (r : WRadio) (f : RxFrame)
  /-- CONTROL_RESPONSE (R143). The MAC starts an Ack, BlockAck, multi-STA BlockAck or CTS a SIFS after the eliciting PPDU. -/
  | controlResponse (r : WRadio) (kind : Fin 4) (users : List (BitVec 12 × Fin 8))
  /-- BEACON_TBTT (R145). At each TBTT, each BSS begins to contend for its beacon. -/
  | beaconTbtt (r : WRadio)
  /-- BEACON_DROP (R145). A beacon not started by TBTT + MAC_BCNMAXDLY is dropped and raises EVm+1. -/
  | beaconDrop (r : WRadio) (bss : Fin 16)
  /-- BEACON_COMMIT (R147). At commit, the MAC writes the Timestamp and the grid-time element into the staged beacon. -/
  | beaconCommit (r : WRadio) (bss : Fin 16) (x : ExchangeOut)
  /-- TSF_READ (R146). A read of MAC_TSF_LO latches the TSF high word and the grid time of the same tick. -/
  | tsfRead (i : Init) (r : WRadio)
  /-- WIFI_BEACON_RECEIVE (R148). A received beacon yields a GTU timing sample when it comes from the parent and qualifies. -/
  | wifiBeaconReceive (r : WRadio) (b : WifiBeacon)
  /-- NOTCH_FLAG_EXPIRE (R173). OVL or MIS clears 10 s after the last beacon that set it. -/
  | notchFlagExpire (r : WRadio) (mis : Bool)
  /-- MPDU_LIFETIME_DROP (R150). An MPDU whose lifetime MAC_RETRY.LIFE has passed is dropped and its units released. -/
  | mpduLifetimeDrop (n : Nat)
  /-- REORDER_TIMEOUT (R151). The oldest held MPDU has waited MAC_ROTMO behind a hole, so the context skips the hole and raises EVm+3. -/
  | reorderTimeout (r : WRadio) (client : BitVec 12) (tid : Fin 8)
  /-- MPDU_MOVE (R156). An unacknowledged MPDU's ciphertext is copied to another link's radio buffer. -/
  | mpduMove (r : WRadio)
  /-- TWT_SLIP_CHECK (R162). Before a service period the slip is computed, and beyond MAC_TWTSLIP the agreement is realigned. -/
  | twtSlipCheck (r : WRadio) (client : BitVec 12) (flow : Fin 8)
  /-- DL_MU_PPDU (R164). The MAC builds per-user A-MPDUs from the RU table and passes the MU vector. -/
  | dlMuPpdu (r : WRadio) (x : ExchangeOut)
  /-- TRIGGER_SEND (R165). The MAC sends a Trigger frame at its START and arms the TB reception. -/
  | triggerSend (r : WRadio) (x : ExchangeOut)
  /-- SOUNDING (R166). The MAC runs NDPA, NDP and BFRP for up to 8 users and stores their steering feedback. -/
  | sounding (r : WRadio) (sets : List (BitVec 12 × Nat))
  /-- NOTCH_SUSPEND_CHANGE (R171). The GTU condition or the plan policy changes whether the windows are in use, and SUSP toggles with EVm+6. -/
  | notchSuspendChange (r : WRadio)
  /-- NOTCH_ARM (R172). A write to MAC_NOTCH_ACT_HI arms the pending Notch set and sets PEND. -/
  | notchArm (i : Init) (r : WRadio) (v : Word)
  /-- NOTCH_PLAN_APPLY (R172). At the first period start at or after ACT, the pending set becomes active and raises EVm+5. -/
  | notchPlanApply (r : WRadio)
  /-- MAC_CMD_PUSH (R175). A push of a staged Wi-Fi MAC command is checked and queued. -/
  | macCmdPush (i : Init) (r : WRadio) (v : Word)
  /-- BSS_START (R176). Command BSS_START starts a BSS. -/
  | bssStart (r : WRadio)
  /-- BSS_STOP (R176). Command BSS_STOP stops a BSS, deletes its links and may move the MAC to DRAIN. -/
  | bssStop (r : WRadio)
  /-- LINK_ADD (R176). Command LINK_ADD links a client to a BSS. -/
  | linkAdd (r : WRadio)
  /-- LINK_DEL (R176). Command LINK_DEL removes a client's link. -/
  | linkDel (r : WRadio)
  /-- BA_ADD (R176). Command BA_ADD creates a block-ack agreement. -/
  | baAdd (r : WRadio)
  /-- BA_DEL (R176). Command BA_DEL deletes a block-ack agreement. -/
  | baDel (r : WRadio)
  /-- TWT_SET (R176). Command TWT_SET installs a placed TWT schedule for a flow. -/
  | twtSet (r : WRadio)
  /-- TWT_DEL (R176). Command TWT_DEL removes a TWT flow. -/
  | twtDel (r : WRadio)
  /-- MESH_START (R176). Command MESH_START starts the mesh. -/
  | meshStart (r : WRadio)
  /-- MESH_STOP (R176). Command MESH_STOP stops the mesh and deletes its links. -/
  | meshStop (r : WRadio)
  /-- MAC_DRAIN_DONE (R174). A draining MAC finishes its exchanges and enters IDLE. -/
  | macDrainDone (r : WRadio)
  /-- MAC_RESULT_POP (R179). A read of MAC_RES pops a command result. -/
  | macResultPop (i : Init) (r : WRadio)
  /-- MAC_DROP_ALARM (R180). NORES and RETRYDROP together exceed MAC_DROPALM within one second and raise EVm+7. -/
  | macDropAlarm (r : WRadio) (grew : Nat)
  /-- STP_CMD_PUSH (R187). A push of a staged Steppe command is checked and queued. -/
  | stpCmdPush (i : Init) (v : Word)
  /-- STP_RUN (R189). Command RUN starts Steppe's decisions, staging and learning. -/
  | stpRun
  /-- STP_STOP (R190). Command STOP returns Steppe to IDLE and clears every STGLIM. -/
  | stpStop
  /-- CL_ADD (R188). Command CL_ADD fills an EMPTY record from an image. -/
  | clAdd
  /-- CL_DEL (R188). Command CL_DEL returns a record to EMPTY. -/
  | clDel
  /-- CL_WORD (R188). Command CL_WORD replaces the firmware bits of one record word. -/
  | clWord
  /-- CL_SUSP (R188). Command CL_SUSP suspends a client. -/
  | clSusp
  /-- CL_RESUME (R188). Command CL_RESUME ends a client's suspension. -/
  | clResume
  /-- TWT_PLACE (R205). Command TWT_PLACE places a TWT entry in grid time with the least overlap. -/
  | twtPlace
  /-- TWT_FREE (R188). Command TWT_FREE frees a TWT entry. -/
  | twtFree
  /-- DRIFT_RESET (R188). Command DRIFT_RESET zeroes a client's learned drift and restarts fast learning. -/
  | driftReset
  /-- STAGE_MPDU (R191). TMG selects a client frame, and Steppe chooses its link and stages it into that radio buffer. -/
  | stageMpdu (aborted : Bool)
  /-- EXCHANGE_RESULT (R195). After each exchange, Steppe updates SUCC, FAILRUN, MCS and RATE for the link. -/
  | exchangeResult (r : WRadio) (client : BitVec 12) (x : ExchangeIn)
  /-- PLAN_REQUEST (R198). A MAC requests a plan near the end of its backoff, and Steppe delivers a user list and RU table. -/
  | planRequest (r : WRadio) (ac : Fin 4) (bw : Fin 5) (punct : BitVec 16) (limit : Nat)
  /-- SP_DECISION_START (R198). Steppe begins a decision for its own service-period PPDU 30 µs before START. -/
  | spDecisionStart (r : WRadio) (client : BitVec 12) (bw : Fin 5) (punct : BitVec 16) (limit : Nat)
  /-- PLAN_DISCARD (R199). The medium goes busy during backoff, and the MAC discards its plan. -/
  | planDiscard (r : WRadio)
  /-- DECISION_OVERRUN (R203). A decision not complete at 12 µs is ended with HW, and the MAC falls back to SU EDCA. -/
  | decisionOverrun (r : WRadio) (ac : Fin 4) (limit : Nat)
  /-- DRIFT_SAMPLE (R207). A timing or CFO sample updates a client's DRIFT, RESID, OFFSET and PRED. -/
  | driftSample (client : BitVec 12) (timing : Bool) (stamp : GTime)
  /-- SP_WINDOW_END (R209). A wake window closes without a frame; the miss widens the window, or enters LISTEN at GMAX. -/
  | spWindowEnd (client : BitVec 12)
  /-- LISTEN_END (R211). A LISTEN ends without a frame, and the record becomes LOST. -/
  | listenEnd (client : BitVec 12)
  /-- STP_PEND_WRITE (R212). MC4 writes a field record's PENDING count through STP_PEND. -/
  | stpPendWrite (i : Init) (v : Word)
  /-- STP_RESULT_POP (R190). A read of STP_RES pops a command result. -/
  | stpResultPop (i : Init)
  /-- SUPERFRAME_START (R216). A field superframe begins at GT kN:0. -/
  | superframeStart
  /-- SCHEDULE_ARM (R220). A write to FMAC_ACT_HI arms the pending schedule, or is refused with RANGE. -/
  | scheduleArm (i : Init) (v : Word)
  /-- SCHEDULE_APPLY (R219). The pending schedule is applied at a common boundary of both superframes and raises EV079. -/
  | scheduleApply
  /-- OWNER_MAP_BUILD (R232). At the start of the last cycle of a superframe, the owner map of the next one is built. -/
  | ownerMapBuild
  /-- FIELD_BEACON_COMMIT (R228). MAC S commits its beacon 100 µs before BSLOT, writes GT and the MIC, and issues TX. -/
  | fieldBeaconCommit
  /-- FIELD_FRAME_RECEIVE (R237). A received field frame is checked for FCS, addressing, CCM* and counter. -/
  | fieldFrameReceive (f : FieldRx)
  /-- FIELD_RESPONSE (R235). FMAC_TURN after a hit, the MAC sends DATA or an ACK with TC. -/
  | fieldResponse
  /-- POLL_WINDOW_END (R242). A child's poll window closes without a valid frame, and the miss increases MISSP. -/
  | pollWindowEnd (entry : Fin 1024)
  /-- PASS_REGION_START (R238). The radio is put in RX for the Pass region. -/
  | passRegionStart
  /-- VALLEY_START (R239). At the start of each Valley run, MAC S issues IDLE. -/
  | valleyStart
  /-- UP_BEACON_LISTEN_END (R245). An upstream beacon window closes without a valid beacon, and MISSB increases. -/
  | upBeaconListenEnd
  /-- UP_HOLD_END (R247). The parent hold ends, and a long listen of one parent superframe begins. -/
  | upHoldEnd
  /-- LONG_LISTEN_END (R248). The long listen ends without the parent; the best candidate is selected, or USTATE becomes SEARCH. -/
  | longListenEnd
  /-- LONG_LISTEN_RETRY (R248). In SEARCH, a long listen is repeated every FMAC_LLRETRY superframes. -/
  | longListenRetry
  /-- PTAB_AGE_EXPIRE (R249). A parent-table entry not heard for AGE seconds is cleared. -/
  | ptabAgeExpire (j : Fin 8)
  /-- PTAB_WRITE (R249). MC4 writes an entry of the parent table, which counts as heard. -/
  | ptabWrite (i : Init) (j : Fin 8) (k : Fin 4) (v : Word)
  /-- DWELL_BIN_ROLL (R250). A dwell group's bin period WIN/32 expires and the oldest bin drops out. -/
  | dwellBinRoll (g : Fin 8)
  /-- FMAC_CMD_PUSH (R257). A push of a staged field MAC command is checked and queued. -/
  | fmacCmdPush (i : Init) (v : Word)
  /-- SF_START (R258). Command SF_START begins the parent role at the next superframe. -/
  | sfStart
  /-- SF_STOP (R258). Command SF_STOP ends the parent role. -/
  | sfStop
  /-- UP_ATTACH (R258). Command UP_ATTACH begins the upstream role in TRACK. -/
  | upAttach
  /-- UP_DETACH (R258). Command UP_DETACH ends the upstream role. -/
  | upDetach
  /-- ASSIGN (R258). Command ASSIGN installs a child assignment entry from an image. -/
  | assign
  /-- RELEASE (R258). Command RELEASE clears an assignment and discards any staged frame. -/
  | release
  /-- DL_STAGE (R236). Command DL_STAGE encrypts and stages a downlink frame for a child. -/
  | dlStage
  /-- DL_CANCEL (R258). Command DL_CANCEL discards a staged frame with a 0x87 ABORTED result. -/
  | dlCancel
  /-- KEYSET (R258). Command KEYSET replaces a child's pairwise key slot. -/
  | keyset
  /-- FIELD_DRAIN_DONE (R256). A draining MAC S enters IDLE at the end of the superframe. -/
  | fieldDrainDone
  /-- FMAC_RESULT_POP (R259). A read of FMAC_RES pops a result. -/
  | fmacResultPop (i : Init)
  /-- PACKET_CLASSIFY (R263). The PPE takes a stored frame, decides it and hands the result to QMG. -/
  | packetClassify
  /-- ESP_RESULT (R295). The cipher engine returns an ESP result, and a failed one drops the frame. -/
  | espResult
  /-- REWRITE_UNITS_GRANT (R298). A frame lengthened by a rewrite obtains its extra units and continues. -/
  | rewriteUnitsGrant
  /-- LEGACY_REORDER_RELEASE (R266). In legacy mode, the reorder stage releases results per IPORT in sequence order. -/
  | legacyReorderRelease
  /-- PIPE_TAB_WRITE (R265). A write to PIPE_TAB pauses dispatch until earlier frames have left their pipelines. -/
  | pipeTabWrite (i : Init) (w : Fin 32) (v : Word)
  /-- PIPE_TAB_APPLY (R265). The pipelines drain and the new PIPE_TAB entry takes effect. -/
  | pipeTabApply
  /-- FENCE_START (R284). A write of 1 to PPE_FENCE.START begins a fence. -/
  | fenceStart (i : Init) (v : Word)
  /-- FENCE_DONE (R284). Every earlier lookup and action completes, and the fence reads DONE. -/
  | fenceDone
  /-- UPD_WRITE (R286). PPE_UPD WRITE places an entry as one step between lookups. -/
  | updWrite (i : Init) (dram : Bool) (slot : BitVec 24)
  /-- UPD_CLEAR (R286). PPE_UPD CLEAR zeroes an entry in one step. -/
  | updClear (i : Init) (dram : Bool) (slot : BitVec 24)
  /-- UPD_HASH (R286). PPE_UPD HASH computes H1 and H2 of the staged key. -/
  | updHash (i : Init) (dram : Bool) (slot : BitVec 24)
  /-- UPD_COMPLETE (R287). A table update operation completes and reports its status in PPE_UPD_RES. -/
  | updComplete
  /-- MISS_ALARM (R308). Misses exceed PPE_ALM.MISS within one second and raise EV098. -/
  | missAlarm (grew : Nat)
  /-- ODD_ALARM (R308). ODD and TRUNC frames exceed PPE_ALM.ODD within one second and raise EV099. -/
  | oddAlarm (grew : Nat)
  /-- PPE_COUNTER_READ (R310). A read of the low word of a PPE flow counter latches its high word. -/
  | ppeCounterRead (i : Init) (n : Fin 2048) (bytes : Bool)
  /-- ETH_FRAME_RECEIVE (R303). A port receives a frame, checks length and FCS, and stamps it. -/
  | ethFrameReceive (p : Fin 6) (data : List (BitVec 8)) (stamp : GTime) (ns : BitVec 64)
  /-- ETH_FRAME_TRANSMIT (R303). A port transmits a frame and releases its units after the last byte. -/
  | ethFrameTransmit (p : Fin 6) (stamp : GTime) (ns : BitVec 64)
  /-- PAUSE_RECEIVE (R304). A received PAUSE frame halts transmission on the port. -/
  | pauseReceive (p : Fin 6) (quanta : BitVec 16)
  /-- PAUSE_REPEAT (R304). While reservations keep failing, the PAUSE is repeated every half of its time. -/
  | pauseRepeat (p : Fin 6)
  /-- LINK_CHANGE (R309). A port's link changes and raises EV208+p. -/
  | linkChange (p : Fin 6) (up : Bool) (mode : Fin 4) (speed : Fin 6)
  /-- PTP_READ (R306). A read of ETH_PTP_NS_LO latches the PTP clock and the grid time of the same tick. -/
  | ptpRead (i : Init)
  /-- PTP_STEP (R306). A write to ETH_PTP_STEP_HI steps the PTP clock and raises EV214. -/
  | ptpStep (i : Init) (v : Word)
  /-- TXTS_POP (R307). A read of ETH_TXTS pops a transmit stamp. -/
  | txtsPop (i : Init) (p : Fin 6)
  /-- MDIO_GO (R311). A write of GO starts an MDIO transaction. -/
  | mdioGo (i : Init) (v : Word)
  /-- MDIO_DONE (R311). The MDIO transaction completes and BUSY clears. -/
  | mdioDone (d : BitVec 16)
  /-- ENQUEUE (R321). QMG enqueues a PPE result after its queue, policer and depth checks. -/
  | enqueue
  /-- POOL_APPLY (R314). A write to QMG_POOLAPPLY applies the pending reservations at once or refuses them. -/
  | poolApply (i : Init) (v : Word)
  /-- RPOOL_WRITE (R315). A write to QMG_RPOOL splits a radio buffer into receive and transmit pools. -/
  | rpoolWrite (i : Init) (r : Radio) (v : Word)
  /-- QMG_FREE (R317). A write to QMG_FREE releases a frame delivered to a core port. -/
  | qmgFree (i : Init) (v : Word)
  /-- QMG_CMD_PUSH (R319). A push of a staged queue command is checked and queued. -/
  | qmgCmdPush (i : Init) (v : Word)
  /-- Q_CREATE (R319). Command Q_CREATE creates a queue in STOPPED. -/
  | qCreate
  /-- Q_DELETE (R319). Command Q_DELETE frees an empty queue. -/
  | qDelete
  /-- Q_SET (R319). Command Q_SET replaces a queue's shaping, weight, limits, sampling and policer. -/
  | qSet
  /-- Q_MOVE (R319). Command Q_MOVE changes an empty queue's port, class and client. -/
  | qMove
  /-- Q_START (R319). Command Q_START makes a queue ACTIVE. -/
  | qStart
  /-- Q_STOP (R319). Command Q_STOP makes a queue STOPPED. -/
  | qStop
  /-- Q_FLUSH (R319). Command Q_FLUSH drops every frame queued. -/
  | qFlush
  /-- QMG_RESULT_POP (R320). A read of QMG_RES pops a command result. -/
  | qmgResultPop (i : Init)
  /-- TMG_SELECT (R325). TMG offers selection to a port and picks a frame through strict and DRR levels. -/
  | tmgSelect
  /-- SAMPLE_ROUND (R328). At each grid-aligned period, TMG writes stamp and queue records to the telemetry rings. -/
  | sampleRound
  /-- RING_CONFIG_WRITE (R328). A write to a ring's BASE or SIZE is checked for placement and EN. -/
  | ringConfigWrite (i : Init) (delivery : Bool) (n : Fin 16) (k : Fin 3) (v : Word)
  /-- PORT_STALL (R331). A port with a waiting frame makes no selection for TMG_STALL µs and raises EV119. -/
  | portStall (p : Fin 16)
  /-- TAIL_ALARM (R331). Tail drops exceed QMG_DROPALM within one second and raise EV114. -/
  | tailAlarm (grew : Nat)
  /-- RED_ALARM (R331). Red drops exceed QMG_DROPALM within one second and raise EV120. -/
  | redAlarm (grew : Nat)
  /-- DOORBELL (R338). A write to CHn_DOORBELL makes an IDLE channel fetch at HEAD. -/
  | doorbell (i : Init) (n : Fin 128) (v : Word)
  /-- DESCRIPTOR_FETCH (R338). A channel at a boundary fetches the descriptor at HEAD and enters RUN, ARMED or IDLE. -/
  | descriptorFetch (n : Fin 128) (hw : Bool)
  /-- DMA_BURST (R341). At a burst boundary, the arbiter grants a mover and one burst moves whole. -/
  | dmaBurst (n : Fin 128) (request : Bool) (withdrawn : Bool) (fail : Fin 3)
  /-- DESCRIPTOR_COMPLETE (R337). A descriptor ends; the channel writes it back, advances HEAD and may enter HALT. -/
  | descriptorComplete (n : Fin 128) (fail : Bool)
  /-- DMA_TRIGGER_STROBE (R343). A GTU strobe starts an ARMED channel's descriptor, or counts as a missed trigger. -/
  | dmaTriggerStrobe (n : Fin 128) (stamp : GTime)
  /-- DMA_ENABLE (R345). Command ENABLE leaves OFF and fetches at HEAD. -/
  | dmaEnable (i : Init) (n : Fin 128)
  /-- DMA_START (R343). Command START triggers an ARMED descriptor. -/
  | dmaStart (i : Init) (n : Fin 128)
  /-- DMA_PAUSE (R345). Command PAUSE holds the channel at a descriptor boundary. -/
  | dmaPause (i : Init) (n : Fin 128)
  /-- DMA_RESUME (R345). Command RESUME fetches at HEAD again. -/
  | dmaResume (i : Init) (n : Fin 128)
  /-- DMA_STOP (R345). Command STOP takes the channel to OFF at a boundary. -/
  | dmaStop (i : Init) (n : Fin 128)
  /-- DMA_ABORT (R348). Command ABORT ends the descriptor at its next burst boundary and halts the channel. -/
  | dmaAbort (i : Init) (n : Fin 128)
  /-- DMA_CLEAR (R345). Command CLEAR leaves HALT and fetches at HEAD. -/
  | dmaClear (i : Init) (n : Fin 128)
  /-- INJECT_UNITS_GRANT (R340). An INJECT whose units were refused obtains them and stores the frame. -/
  | injectUnitsGrant (n : Fin 128)
  /-- SHADOW_WRITE (R353). A write to a shadow register is range-checked and sets DIRTY. -/
  | shadowWrite (i : Init) (n : Fin 128) (k : Fin 4) (v : Word)
  /-- SADDLE_ARM (R351). A write of ARM to CHn_SADDLE arms a hand-over for its WHEN condition. -/
  | saddleArm (i : Init) (n : Fin 128) (v : Word)
  /-- SADDLE (R351). At the Saddle, the shadow set becomes the active set and GEN increments. -/
  | saddle (n : Fin 128)
  /-- CHK_PRESET (R356). A write of PRESET loads the unit's configuration and performs INIT. -/
  | chkPreset (i : Init) (u : Fin 16) (v : Word)
  /-- CHK_CONFIG_WRITE (R356). A write to POLY, INIT, XOROUT or PCFG changes the calculation and may set PRESET to 6. -/
  | chkConfigWrite (i : Init) (u : Fin 16) (k : Fin 4) (v : Word)
  /-- CHK_DATA_FEED (R357). A core write to CHK_u_DATA, DATA1 or DATA2 feeds bytes to the unit. -/
  | chkDataFeed (i : Init) (u : Fin 16) (k : Fin 3) (v : Word)
  /-- CHK_INIT (R358). Command INIT loads VAL and clears AUX and COUNT. -/
  | chkInit (i : Init) (u : Fin 16) (v : Word)
  /-- SCAN_GO (R361). A write of GO starts a SINGLE or PAIR scan, or is refused. -/
  | scanGo (i : Init) (v : Word)
  /-- SCAN_STOP (R362). A write of STOP ends the scan at the next 256 B boundary with ABORTED. -/
  | scanStop (i : Init) (v : Word)
  /-- SCAN_END (R362). A scan ends, records its outcome and raises EV160, and EV161 when not OK. -/
  | scanEnd (hw : Bool) (read : BitVec 32)
  /-- PAGE_DOORBELL (R376). A write to PG_DOORBELL makes a firmware page fetch its ring. -/
  | pageDoorbell (i : Init) (n : Fin 32) (v : Word)
  /-- CRY_DESCRIPTOR_FETCH (R376). A firmware page fetches an operation descriptor and checks it. -/
  | cryDescriptorFetch (n : Fin 32)
  /-- INLINE_OPERATION (R391). An inline block hands CRY a WHOLE operation on its page. -/
  | inlineOperation (n : Fin 6) (op : InlineOp)
  /-- CORE_ASSIGN (R375). A free or preempted AES core takes a waiting operation by priority. -/
  | coreAssign
  /-- CRY_OPERATION_COMPLETE (R376). An operation completes and is handed back in ring order with status and KGEN. -/
  | cryOperationComplete (c : Fin 12)
  /-- CRY_LOAD (R383). Key command LOAD places a key in clear into a slot. -/
  | cryLoad (i : Init) (tag : BitVec 8) (slot : Fin 1024)
  /-- CRY_UNWRAP (R383). Key command UNWRAP unwraps a blob into a slot. -/
  | cryUnwrap (i : Init) (tag : BitVec 8) (slot : Fin 1024)
  /-- CRY_GEN (R383). Key command GEN draws a random key into a slot. -/
  | cryGen (i : Init) (tag : BitVec 8) (slot : Fin 1024)
  /-- CRY_EXPORT (R383). Key command EXPORT writes a wrapped blob of a slot. -/
  | cryExport (i : Init) (tag : BitVec 8) (slot : Fin 1024)
  /-- CRY_ERASE (R386). Key command ERASE puts a slot in ERASING and waits for its users. -/
  | cryErase (i : Init) (tag : BitVec 8) (slot : Fin 1024)
  /-- ERASE_COMPLETE (R386). The erase wait ends, remaining users abort, material is overwritten and EV166 is raised. -/
  | eraseComplete (slot : Fin 1024)
  /-- CRY_ATTR (R383). Key command ATTR clears bits of USAGE and PAGEMASK. -/
  | cryAttr (i : Init) (tag : BitVec 8) (slot : Fin 1024)
  /-- CRY_INFO (R383). Key command INFO latches a slot's attributes into CRY_KINFO. -/
  | cryInfo (i : Init) (tag : BitVec 8) (slot : Fin 1024)
  /-- CRY_KEY_RESULT_POP (R410). A read of CRY_KRES pops a key or SA command result. -/
  | cryKeyResultPop (i : Init)
  /-- PAGE_ENABLE (R390). Page command ENABLE fetches at HEAD. -/
  | pageEnable (i : Init) (n : Fin 32) (tag : BitVec 8)
  /-- PAGE_STOP (R390). Page command STOP lets in-flight descriptors complete and enters OFF. -/
  | pageStop (i : Init) (n : Fin 32) (tag : BitVec 8)
  /-- PAGE_CLEAR (R390). Page command CLEAR leaves HALT. -/
  | pageClear (i : Init) (n : Fin 32) (tag : BitVec 8)
  /-- CTX_SAVE (R388). Page command CTX_SAVE writes a context in clear or wrapped form and frees it. -/
  | ctxSave (i : Init) (n : Fin 32) (tag : BitVec 8) (c : Fin 4)
  /-- CTX_RESTORE (R389). Page command CTX_RESTORE reads a saved context into a FREE context after its checks. -/
  | ctxRestore (i : Init) (n : Fin 32) (tag : BitVec 8) (c : Fin 4)
  /-- CTX_DROP (R390). Page command CTX_DROP frees a context without saving it. -/
  | ctxDrop (i : Init) (n : Fin 32) (tag : BitVec 8) (c : Fin 4)
  /-- PAGE_RESULT_POP (R410). A read of PG_RES pops a page command result. -/
  | pageResultPop (i : Init) (n : Fin 32)
  /-- SA_LOAD (R392). SACMD LOAD installs an SA from an image. -/
  | saLoad (i : Init) (tag : BitVec 8) (sa : Fin 256)
  /-- SA_ERASE (R392). SACMD ERASE invalidates an SA for later packets. -/
  | saErase (i : Init) (tag : BitVec 8) (sa : Fin 256)
  /-- SA_READ (R392). SACMD READ writes an SA's words back to memory. -/
  | saRead (i : Init) (tag : BitVec 8) (sa : Fin 256)
  /-- ALARM_CONDITION (R394). A watched condition sets its alarm bit and event, and answers with ERASE or REPORT. -/
  | alarmCondition (k : Fin 10)
  /-- ALARM_ERASE_DONE (R395). Key material is overwritten, the DRBG reinstantiated, ALARM set and EV168 raised. -/
  | alarmEraseDone
  /-- ALARM_CLEAR (R395). A write of 1 to CRY_ALMCLR by MC5 clears CRY_STAT.ALARM. -/
  | alarmClear (i : Init) (v : Word)
  /-- ALARM_LOCK (R394). A write to CRY_ALMLOCK locks the alarm policy until reset. -/
  | alarmLock (i : Init) (v : Word)
  /-- PKE_CMD_PUSH (R396). A push of a staged PKE command is checked and queued. -/
  | pkeCmdPush (i : Init) (v : Word)
  /-- PKE_HASH (R397). Command HASH computes SHA-256 or SHA-384. -/
  | pkeHash
  /-- PKE_HMAC (R397). Command HMAC computes an HMAC with a slot. -/
  | pkeHmac
  /-- PKE_KDF (R397). Command KDF derives a key into SLOT2. -/
  | pkeKdf
  /-- PKE_KEYGEN (R397). Command KEYGEN generates a P-384 key pair. -/
  | pkeKeygen
  /-- PKE_PUBKEY (R397). Command PUBKEY outputs the public key of a slot. -/
  | pkePubkey
  /-- PKE_SIGN (R397). Command SIGN produces an ECDSA P-384 signature. -/
  | pkeSign
  /-- PKE_VERIFY (R397). Command VERIFY checks an ECDSA signature. -/
  | pkeVerify
  /-- PKE_ECDH (R397). Command ECDH places a shared secret into SLOT2. -/
  | pkeEcdh
  /-- PKE_RANDOM (R397). Command RANDOM writes DRBG output. -/
  | pkeRandom
  /-- PKE_RESEED (R397). Command RESEED reseeds the CTR_DRBG. -/
  | pkeReseed
  /-- PKE_MEXTEND (R400). Command MEXTEND extends a measurement register, subject to initiator rights. -/
  | pkeMextend
  /-- PKE_ATTEST (R405). Command ATTEST builds and signs an attestation report. -/
  | pkeAttest
  /-- PKE_SVNSET (R404). Command SVNSET raises a target's MINSVN fuses. -/
  | pkeSvnset
  /-- PKE_REVOKE (R404). Command REVOKE blows a root-key revocation fuse. -/
  | pkeRevoke
  /-- PKE_RESULT_POP (R396). A read of PKE_RES pops a result. -/
  | pkeResultPop (i : Init)
  /-- RNG_READ (R411). A read of PKE_RNG returns one DRBG word. -/
  | rngRead (i : Init)
  /-- ENTROPY_STARTUP_TEST (R398). The entropy start-up test of 1,024 samples completes, and PKE may become ready. -/
  | entropyStartupTest (ok : Bool)
  /-- HEALTH_TEST_FAIL (R398). A continuous health test fails; the DRBG stops, PKE readiness clears and EV172 is raised. -/
  | healthTestFail
  /-- RESEED_INTERVAL (R398). PKE_RESEEDINT or 2^20 requests elapse and the DRBG reseeds. -/
  | reseedInterval
  /-- IMAGE_VERIFY (R404). The verifier checks a boot image in order, copies and hashes its payload, and extends the measurement. -/
  | imageVerify (rom : Bool) (target : Fin 8) (off : Nat)
  /-- DEBUG_CHALLENGE (R407). The debugger reads a challenge through the JTAG mailbox. -/
  | debugChallenge
  /-- DEBUG_TOKEN (R407). A returned token is verified and opens the debug port to its scope, or fails with AUTH. -/
  | debugToken (scope : BitVec 8) (challenge pubkey sig : List (BitVec 8))
  /-- SCRUB_READ (R416). The scrubber reads and corrects the next word at its pacing rate. -/
  | scrubRead (dram : Bool)
  /-- SCRUB_OVERDUE (R417). A scrub pass not complete at the end of its period raises EV178 or EV182 and sets BEHIND. -/
  | scrubOverdue (dram : Bool)
  /-- BACKGROUND_WINDOW_OPEN (R417). An open strobe opens a scrubber's background window. -/
  | backgroundWindowOpen (dram : Bool)
  /-- BACKGROUND_WINDOW_CLOSE (R417). A close strobe closes a scrubber's background window. -/
  | backgroundWindowClose (dram : Bool)
  /-- CE_ALARM (R418). Corrections exceed CEALM within one second and raise EV176 or EV180. -/
  | ceAlarm (dram : Bool)
  /-- DRAM_REQUEST (R422). The DRC schedules and serves a DRAM request by class, age and row hits. -/
  | dramRequest (arrive : List DramArrival) (chan : Fin 4)
  /-- REQUEST_PROMOTE (R422). A class 1 or 2 request that has waited DRC_AGE is promoted one class. -/
  | requestPromote (k : Nat)
  /-- DRAM_REFRESH (R425). A per-bank refresh falls due at the rate mode register 4 requires. -/
  | dramRefresh (chan : Fin 4) (bank : Fin 16)
  /-- MR4_POLL (R425). Every 16 ms the DRC reads mode register 4, raising EV187 on a change. -/
  | mr4Poll (codes : Word)
  /-- RAA_TABLE_CLEAR (R426). Every 32 ms the row-activation tables are cleared. -/
  | raaTableClear
  /-- NREF_ALARM (R427). Neighbour refreshes exceed DRC_NREFALM within one second and raise EV183. -/
  | nrefAlarm
  /-- DRC_TRAIN (R432). Command TRAIN trains all channels at a speed. -/
  | drcTrain (i : Init) (tag : BitVec 8) (speed : Fin 4)
  /-- DRC_RESTORE (R432). Command RESTORE loads a training record and runs INIT, ZQ and TEST. -/
  | drcRestore (i : Init) (tag : BitVec 8) (speed : Fin 4)
  /-- TRAIN_STEP_DONE (R432). A training step ends, and the next step begins or training fails or completes. -/
  | trainStepDone (fail : BitVec 4) (mismatch : Bool) (dens : Fin 6) (ranks : Bool)
  /-- SR_ENTER (R429). Command SR_ENTER puts the DRAM in self-refresh and enters SRDEEP. -/
  | srEnter (i : Init) (tag : BitVec 8) (speed : Fin 4)
  /-- SR_EXIT (R429). Command SR_EXIT restarts the PLL and enters RUN. -/
  | srExit (i : Init) (tag : BitVec 8) (speed : Fin 4)
  /-- DRC_STOP (R429). Command STOP ends any training with ABORTED and enters OFF. -/
  | drcStop (i : Init) (tag : BitVec 8) (speed : Fin 4)
  /-- DRC_RESULT_POP (R430). A read of DRC_RES pops a result. -/
  | drcResultPop (i : Init)
  /-- SRIDLE_ENTER (R431). After DRC_SRIDLE µs idle in RUN, the DRC enters SRIDLE. -/
  | sridleEnter
  /-- DUMP_UNLOCK (R435). A W1C write to DRC_DUMP.LOCK unlocks the dump basin. -/
  | dumpUnlock (i : Init) (v : Word)
  /-- INJECT_ARM (R436). A write of ARM to an INJ register arms an ECC injection, or is refused for an unusable target. -/
  | injectArm (i : Init) (dram : Bool) (v : Word)
  /-- DICTIONARY_IMAGE_LOAD (R445). The ODE loads a dictionary image, writes defaults, replays the journal and sets its readiness. -/
  | dictionaryImageLoad
  /-- HELD_VALUES_APPLY (R465). Held persisted values are applied once their function becomes ready. -/
  | heldValuesApply
  /-- HDP_PDU_RECEIVE (R452). The ODE takes a PDU and checks its header, session, tag and SEQ. -/
  | hdpPduReceive
  /-- HDP_OPEN (R455). OPEN allocates a session and returns a device nonce. -/
  | hdpOpen
  /-- HDP_AUTH (R455). AUTH checks the client proof and opens the session. -/
  | hdpAuth
  /-- HDP_CLOSE (R453). CLOSE ends a session. -/
  | hdpClose
  /-- HDP_PING (R453). PING answers with an empty response. -/
  | hdpPing
  /-- HDP_READ (R453). READ returns the values of up to n references with a status each. -/
  | hdpRead
  /-- HDP_WRITE (R447). WRITE checks and applies one parameter value. -/
  | hdpWrite
  /-- HDP_WRITE_MULTI (R454). WRITE_MULTI checks every entry and applies all of them in one apply, or none. -/
  | hdpWriteMulti
  /-- HDP_INVOKE (R453). INVOKE runs a CMD parameter with an argument and returns a result. -/
  | hdpInvoke
  /-- HDP_DESCRIBE (R453). DESCRIBE returns a parameter's descriptor and range. -/
  | hdpDescribe
  /-- HDP_SUBSCRIBE (R461). SUBSCRIBE sets the session's event mask and the EVR subscription routes. -/
  | hdpSubscribe
  /-- HDP_EVENT_ACK (R462). EVENT_ACK acknowledges the outstanding EVENT of the session. -/
  | hdpEventAck
  /-- HDP_DIGEST (R453). DIGEST returns the generation, digest, DIRTY and the area prefixes. -/
  | hdpDigest
  /-- HDP_READ_NET (R467). READ_NET returns element records of an area's NET parameters from a cursor. -/
  | hdpReadNet
  /-- MBXIN_PUSH (R458). MC5 pushes a UDP or mesh PDU to the ODE through ODE_MBXIN. -/
  | mbxinPush (i : Init) (v : Word)
  /-- MBXOUT_POP (R458). A read of ODE_MBXOUT pops a reply for MC5 to send. -/
  | mbxoutPop (i : Init)
  /-- CAN_SEGMENT_RECEIVE (R459). A CAN FD frame on the HDP identifier adds a PDU segment. -/
  | canSegmentReceive (p : Fin 2) (fd : Bool) (data : List (BitVec 8))
  /-- CAN_SEGMENT_TIMEOUT (R459). A transfer whose next segment does not arrive within 100 ms is discarded. -/
  | canSegmentTimeout (p : Fin 2)
  /-- SPI_PDU_WRITE (R460). SPI command 0x01 delivers a PDU with a CRC, which is checked. -/
  | spiPduWrite (len : BitVec 16) (pdu : List (BitVec 8)) (crc : BitVec 32)
  /-- SPI_PDU_READ (R460). SPI command 0x02 reads the next pending PDU. -/
  | spiPduRead
  /-- SPI_STATUS_READ (R460). SPI command 0x03 returns the pending and busy byte. -/
  | spiStatusRead
  /-- FW_REQUEST_POP (R473). A read of ODE_FWREQ_c pops a firmware-bound request and latches its value buffer. -/
  | fwRequestPop (i : Init) (c : Fin 6)
  /-- FW_ANSWER (R448). A core writes ODE_FWRES_c to answer a request. -/
  | fwAnswer (i : Init) (c : Fin 6) (v : Word)
  /-- FW_TIMEOUT (R448). No answer arrives within ODE_FWTMO, so the access completes with HW and raises EV206. -/
  | fwTimeout
  /-- SESSION_TIMEOUT (R457). A session with no request for ODE_SESTMO is closed. -/
  | sessionTimeout (sid : Fin 256)
  /-- AUTH_LOCKOUT_END (R456). The 60 s refusal of a transport address after failed AUTHs ends. -/
  | authLockoutEnd
  /-- SUBSCRIPTION_DELIVER (R461). The ODE pops a FIFO entry and copies it to every subscribed session's queue. -/
  | subscriptionDeliver
  /-- EVENT_SEND (R462). After ODE_EVBATCH or 32 records, the ODE sends an EVENT to the session. -/
  | eventSend (sid : Fin 256)
  /-- EVENT_ACK_TIMEOUT (R462). No EVENT_ACK within 500 ms resends the EVENT, and the records are lost after 3 tries. -/
  | eventAckTimeout (sid : Fin 256)
  /-- STATECMD (R449). MC5 writes ODE_STATECMD to end BOOT or to enter DUMP. -/
  | statecmd (i : Init) (v : Word)
  /-- STATE_AUTO_CHANGE (R449). The device moves between OPERATIONAL and LIMITED as readiness and LIMITED marks change. -/
  | stateAutoChange
  /-- JOURNAL_COMMIT (R464). Buffered journal records reach flash within ODE_JCOMMIT. -/
  | journalCommit (fail : Bool)
  /-- JOURNAL_COMPACT (R466). A full pair triggers compaction into the least-worn free pair. -/
  | journalCompact (bad : Nat)
  /-- DIGEST_PULL (R471). After a random wait, the ODE pulls a NEWER configuration from a neighbour. -/
  | digestPull (p : PullIn)
  /-- PULL_RETRY (R471). A failed pull is retried after ODE_PULLBACK seconds. -/
  | pullRetry (p : PullIn)
  /-- CAN_TXF_PUSH (R474). A write to CAN_TXF_PUSH queues a firmware CAN frame. -/
  | canTxfPush (i : Init) (p : Fin 2) (v : Word)
  /-- CAN_FRAME_SENT (R474). A CAN frame completes transmission. -/
  | canFrameSent (p : Fin 2)
  /-- CAN_FRAME_RECEIVE (R474). A CAN frame on a non-HDP identifier enters the firmware FIFO, or is dropped. -/
  | canFrameReceive (p : Fin 2) (hdr : BitVec 31) (info : BitVec 6) (data : List (BitVec 8))
  /-- CAN_BUS_STATE (R474). A CAN port changes bus state and raises EV203 or EV204. -/
  | canBusState (p : Fin 2) (code : Fin 3) (tec rec : BitVec 8)
  /-- CAN_RXF_POP (R474). A read of CAN_RXF_HDR pops a firmware frame. -/
  | canRxfPop (i : Init) (p : Fin 2)
  /-- STATE_REQ (R450). Invoke 01.001 requests MAINTENANCE or OPERATIONAL. -/
  | stateReq
  /-- SAVE (R464). Invoke 01.002 completes once every earlier journal record is in flash. -/
  | save
  /-- RESTART (R496). Invoke 01.003 makes a warm or cold reset. -/
  | restart
  /-- FALLBACK_CLEAR (R516). Invoke 02.004 writes a ledger with every fallback cleared. -/
  | fallbackClear
  /-- ATTEST (R405). Invoke 30.003 returns a signed attestation report for a nonce. -/
  | attest
  /-- KEY_UNWRAP (R490). Invoke 30.015 unwraps a key blob into a slot. -/
  | keyUnwrap
  /-- KEY_LOAD (R490). Invoke 30.016 loads a clear key into a slot. -/
  | keyLoad
  /-- COMMIT (R468). Invoke 40.002 computes and commits the configuration digest with a new generation. -/
  | commit
  /-- RELAY_CMD (R492). Invoke 38.001 schedules a relay switch at the next local voltage zero on GC62. -/
  | relayCmd
  /-- LEVEL_CMD (R494). Invoke 38.011 sets the lamp level, closing the relay first when needed. -/
  | levelCmd
  /-- PROFILE_STEP (R491). A step of the active dimming profile applies at its cycle. -/
  | profileStep
  /-- DAPC_SEND (R494). GEAR_DELAY after the contacts close, DAPC is sent on DALI0. -/
  | dapcSend
  /-- RELAY_FADE_OPEN (R494). After a level-0 fade time, the relay is opened. -/
  | relayFadeOpen
  /-- COUNTER_COLLECT (R478). Every 3F.001 ms, MC5 reads the counter registers into the counter parameters. -/
  | counterCollect
  /-- POWER_ON_RESET (R534). A monitored supply below its falling threshold makes a cold reset with cause 1. -/
  | powerOnReset
  /-- RESET_PIN (R544). RESET_N low for at least 10 µs makes a cold reset with cause 2. -/
  | resetPin
  /-- COLD_RESET_CMD (R496). SYS_RSTCMD COLD makes a cold reset. -/
  | coldResetCmd (i : Init) (key : BitVec 16)
  /-- WARM_RESET_CMD (R496). SYS_RSTCMD WARM makes a warm reset, with cause 6 in DUMP. -/
  | warmResetCmd (i : Init) (key : BitVec 16)
  /-- WATCHDOG_EXPIRY (R498). The watchdog count reaches its timeout and makes a warm reset with cause 5. -/
  | watchdogExpiry
  /-- WDT_ENABLE (R498). SYS_WDT.EN is set and the watchdog runs until reset. -/
  | wdtEnable (i : Init) (v : Word)
  /-- WDT_KICK (R498). A write of 0xA5A5 by MC5 restarts the watchdog count with the timeout in force. -/
  | wdtKick (i : Init) (v : Word)
  /-- RESET_RELEASE (R501). Reset is released and the device begins its start sequence. -/
  | resetRelease (rlyNc : Bool)
  /-- REF_VALID (R544). REF has stayed within 2 % for 1.6 ms; the PLLs lock, and the GTU and EVR steps pass. -/
  | refValid
  /-- SRAM_CLEAR_DONE (R501). All SRAM is zeroed; the SRAM and CRY steps pass and MC5 is released at the boot ROM. -/
  | sramClearDone (flashSize : BitVec 32)
  /-- RECOVERY_IMAGE (R503). SPI command 0x10 in recovery delivers an MC5 image that is verified and run. -/
  | recoveryImage (d : List (BitVec 8))
  /-- RDYEN_SET (R504). MC5 sets SYS_CTRL.RDYEN and readiness becomes visible. -/
  | rdyenSet (i : Init) (v : Word)
  /-- STEPSET (R505). A write to SYS_STEPSET sets owned start-step bits. -/
  | stepset (i : Init) (v : Word)
  /-- STEPCLR (R505). A write to SYS_STEPCLR clears owned start-step bits. -/
  | stepclr (i : Init) (v : Word)
  /-- CLKEN_WRITE (R505). A write to SYS_CLKEN gates domains and clears their start-step bits. -/
  | clkenWrite (i : Init) (v : Word)
  /-- BOOT_TIMEOUT (R509). 30 s after MC5 starts, unfinished steps are recorded LATE and BOOT ends, or a warm reset is made. -/
  | bootTimeout (journal : Bool) (status : Option (BitVec 8))
  /-- LEDGER_WRITE (R512). MC5 writes the next ledger record, copy B first. -/
  | ledgerWrite (data : List (BitVec 32))
  /-- OTPCNT_INC (R513). A write to SYS_OTPCNT_INC starts blowing the next epoch fuse. -/
  | otpcntInc (i : Init) (v : Word)
  /-- OTP_FUSE_DONE (R513). The epoch fuse is blown and BUSY clears. -/
  | otpFuseDone
  /-- XSPI_OP_PUSH (R527). A push of a staged flash operation is checked and queued. -/
  | xspiOpPush (i : Init) (v : Word)
  /-- XSPI_READ (R511). A READ operation starts on the flash. -/
  | xspiRead
  /-- XSPI_PROGRAM (R511). A PROGRAM operation starts on the flash. -/
  | xspiProgram
  /-- XSPI_ERASE (R511). An ERASE operation starts on the flash. -/
  | xspiErase
  /-- XSPI_RAW (R511). A RAW operation starts on the flash. -/
  | xspiRaw
  /-- XSPI_OP_DONE (R511). A flash operation ends with its status, raising EV216 when not OK. -/
  | xspiOpDone (fail : Fin 3) (data : List (BitVec 8))
  /-- XSPI_RESULT_POP (R527). A read of XSPI_RES pops a result. -/
  | xspiResultPop (i : Init)
  /-- DUMP_COPY (R523). At a start with a retained basin, MC5 copies a valid dump to flash and unlocks the basin. -/
  | dumpCopy
  /-- SYS_ACCERR_POP (R526). A read of SYS_ACCERR pops the oldest held denial and latches its address. -/
  | sysAccerrPop (i : Init)
  /-- SUPPLY_OUT_OF_RANGE (R534). A monitored rail outside its operating range for 1 µs raises EV236. -/
  | supplyOutOfRange (k : Fin 4)
  /-- UPSTREAM_POLL (R233). In its upstream role the DN-8600 sends its own POLL or DATA with AR = 1 at slot SLOT + TXOFS of each parent superframe it owns under FMAC_UP_ASSIGN, or in the parent's Pass region. -/
  | upstreamPoll (start : GTime) (queued : BitVec 8) (status : BitVec 7) (data : Option (List (BitVec 8))) (enc : Bool)
  /-- PAUSE_TIME_EXPIRY (R304). The quanta of a received PAUSE frame run out and the port resumes transmission. -/
  | pauseTimeExpiry (p : Fin 6)
  /-- SUPPLY_BACK_IN_RANGE (R534). Every monitored rail has been back within its operating range for 1 ms, and EV236 is re-armed. -/
  | supplyBackInRange
  /-- NET_PLL_RETRY (R515). Every 1 s while the NET PLL is not locked, MC5 retries the Ethernet start step and the ports may become ready. -/
  | netPllRetry (locked : Bool)
deriving DecidableEq, Repr

end Sys2Proof
end

