-- ==== Sys2Proof/Config.lean ====
section
/-! DEFINITION. What the spec leaves open: free values, as opaque constants without a body, so that no proof can see
what they are. -/

namespace Sys2Proof

/-- The free values of the model, one after another: the state's counter says which one is next. -/
opaque Config.freeNat : Nat → Nat
/-- How an inexact quotient `num / den` that the spec computes is rounded where the spec gives no rounding rule:
true takes the integer above. -/
opaque Config.roundUp : Nat → Nat → Bool
/-- The 8-byte attribute block of a key blob (R383): TYPE, USAGE and the key's length, in a layout that is not given. -/
opaque Config.attrBlock : Nat → Nat → Nat → List Nat
/-- The TYPE, USAGE and length that such a block spells. -/
opaque Config.attrRead : List Nat → Nat × Nat × Nat
/-- The fixed input of SP 800-108 from the label and context at IN and the output's length in bits (R397). -/
opaque Config.kdfFixed : List Nat → Nat → List Nat
/-- The private key that PKE derives from the hardware unique key (R406). -/
opaque Config.dak : Nat
/-- The part of an XPN nonce that does not depend on the packet number (R305), by key slot. -/
opaque Config.xpnSalt : Nat → Nat

/-- The 13-byte CCM* nonce of a field frame from the sender's EUI-64, the frame counter and the LEVEL (R223): the order of
the bytes within its parts is not given. -/
opaque Config.fieldNonce : List Nat → Nat → Nat → List Nat
/-- The header bytes that the MIC of a field frame covers (R223): how the FP bit and the TC, which the MAC writes after the
encryption (R235, R236), enter it is not given. -/
opaque Config.fieldAad : List Nat → List Nat
/-- The airtime in ns of a field PPDU by mode byte and PSDU length, where the spec states none: SUN-OFDM, and SUN-FSK with
FEC (R227). -/
opaque Config.fieldAirtime : Nat → Nat → Nat
/-- The EUI-64 of the sender of a beacon or a join frame that is neither a child nor the upstream parent, by NETID and short
address: no field of the frame and no register carries it. -/
opaque Config.fieldEui : Nat → Nat → List Nat

/-- Whether the fitted DRAM advertises refresh management (R426): the spec names no register that shows it. -/
opaque Config.rfmAdvertised : Bool
/-- Whether a refresh-rate code of mode register 4 requires more than the base rate (R425): its encoding is not given. -/
opaque Config.refreshAbove : Nat → Bool
/-- The bytes of a DRAM training record before its CRC (R432), whose layout is not given, by the training's number of free
values used so far, and the speed that such bytes carry. -/
opaque Config.trainByte : Nat → Nat → Nat
opaque Config.trainSpeed : List Nat → Nat

/-- Which kilobyte of the shared work area holds the value buffer of a firmware-bound access, by its number, and from which
one a reply that MC5 pops stands, by the number of free values used so far: the spec gives the area alone (R443, R473). -/
opaque Config.fwBuf : Nat → Nat
opaque Config.mbxBuf : Nat → Nat

end Sys2Proof
end

