-- ==== Sys2Proof/Machine/Regs.lean ====
section
/-! DEFINITION. The address of every block register, by its name in the register tables (R67, R69, R102, R139, R181, R215, R261, R310, R311, R332, R333, R368, R369, R410, R411, R438, R439, R473, R474, R526, R527), and the place of every named field.
A register of an array takes its indexes in the order of the table; a register of a radio block takes the radio first. -/

namespace Sys2Proof.Machine

namespace R

/-- GTU_ID, R67. -/
def GTU_ID : Nat := 0x40000000
/-- GTU_CTRL, R67. -/
def GTU_CTRL : Nat := 0x40000004
/-- GTU_STAT, R67. -/
def GTU_STAT : Nat := 0x40000008
/-- GTU_NOW_LO, R67. -/
def GTU_NOW_LO : Nat := 0x40000010
/-- GTU_NOW_HI, R67. -/
def GTU_NOW_HI : Nat := 0x40000014
/-- GTU_INC, R67. -/
def GTU_INC : Nat := 0x40000018
/-- GTU_FREQ, R67. -/
def GTU_FREQ : Nat := 0x4000001C
/-- GTU_OFS, R67. -/
def GTU_OFS : Nat := 0x40000020
/-- GTU_OFS_INFO, R67. -/
def GTU_OFS_INFO : Nat := 0x40000024
/-- GTU_BAND_LO, R67. -/
def GTU_BAND_LO : Nat := 0x40000028
/-- GTU_BAND_HI, R67. -/
def GTU_BAND_HI : Nat := 0x4000002C
/-- GTU_SDLY, R67. -/
def GTU_SDLY : Nat := 0x40000030
/-- GTU_ZDLY, R67. -/
def GTU_ZDLY : Nat := 0x40000034
/-- GTU_AMP, R67. -/
def GTU_AMP : Nat := 0x40000038
/-- GTU_AMP_MIN, R67. -/
def GTU_AMP_MIN : Nat := 0x4000003C
/-- GTU_HOLD, R67. -/
def GTU_HOLD : Nat := 0x40000040
/-- GTU_HO_RATE_D, R67. -/
def GTU_HO_RATE_D : Nat := 0x40000044
/-- GTU_HO_RATE_F, R67. -/
def GTU_HO_RATE_F : Nat := 0x40000048
/-- GTU_SLEW, R67. -/
def GTU_SLEW : Nat := 0x4000004C
/-- GTU_PERR, R67. -/
def GTU_PERR : Nat := 0x40000050
/-- GTU_XLAST_LO, R67. -/
def GTU_XLAST_LO : Nat := 0x40000054
/-- GTU_XLAST_HI, R67. -/
def GTU_XLAST_HI : Nat := 0x40000058
/-- GTU_BCN_CTRL, R67. -/
def GTU_BCN_CTRL : Nat := 0x4000005C
/-- GTU_BCN_TOL, R67. -/
def GTU_BCN_TOL : Nat := 0x40000060
/-- GTU_BCN_LAST, R67. -/
def GTU_BCN_LAST : Nat := 0x40000064
/-- GTU_BCN_CNT, R67. -/
def GTU_BCN_CNT : Nat := 0x40000068
/-- GTU_SEED_LO, R67. -/
def GTU_SEED_LO : Nat := 0x40000070
/-- GTU_SEED_HI, R67. -/
def GTU_SEED_HI : Nat := 0x40000074
/-- GTU_CMD, R67. -/
def GTU_CMD : Nat := 0x40000078
/-- GTU_PMAP_GT_LO, R67. -/
def GTU_PMAP_GT_LO : Nat := 0x40000080
/-- GTU_PMAP_GT_HI, R67. -/
def GTU_PMAP_GT_HI : Nat := 0x40000084
/-- GTU_PMAP_NS_LO, R67. -/
def GTU_PMAP_NS_LO : Nat := 0x40000088
/-- GTU_PMAP_NS_HI, R67. -/
def GTU_PMAP_NS_HI : Nat := 0x4000008C
/-- GTU_PMAP_CTRL, R67. -/
def GTU_PMAP_CTRL : Nat := 0x40000090
/-- GTU_PMAP_RATIO, R67. -/
def GTU_PMAP_RATIO : Nat := 0x40000094
/-- GTU_ERR, R67. -/
def GTU_ERR : Nat := 0x400000A0
/-- GTU_GCFIRE0, R67. -/
def GTU_GCFIRE0 : Nat := 0x40000100
/-- GTU_GCFIRE1, R67. -/
def GTU_GCFIRE1 : Nat := 0x40000104
/-- GC_CTRL, R67. -/
def GC_CTRL (n : Nat) : Nat := 0x40001000 + 0x20 * n
/-- GC_STAT, R67. -/
def GC_STAT (n : Nat) : Nat := 0x40001004 + 0x20 * n
/-- GC_CMP_LO, R67. -/
def GC_CMP_LO (n : Nat) : Nat := 0x40001008 + 0x20 * n
/-- GC_CMP_HI, R67. -/
def GC_CMP_HI (n : Nat) : Nat := 0x4000100C + 0x20 * n
/-- GC_PER_ANG, R67. -/
def GC_PER_ANG (n : Nat) : Nat := 0x40001010 + 0x20 * n
/-- GC_PER_CYC, R67. -/
def GC_PER_CYC (n : Nat) : Nat := 0x40001014 + 0x20 * n
/-- GC_TGT, R67. -/
def GC_TGT (n : Nat) : Nat := 0x40001018 + 0x20 * n
/-- GC_WIDTH, R67. -/
def GC_WIDTH (n : Nat) : Nat := 0x4000101C + 0x20 * n
/-- EVR_ID, R69. -/
def EVR_ID : Nat := 0x40010000
/-- EVR_PEND, R69. -/
def EVR_PEND (n m : Nat) : Nat := 0x40010100 + 0x20 * n + 0x4 * m
/-- EVR_ROUTE, R69. -/
def EVR_ROUTE (n : Nat) : Nat := 0x40010400 + 0x4 * n
/-- EVR_CNT, R69. -/
def EVR_CNT (n : Nat) : Nat := 0x40010800 + 0x4 * n
/-- EVR_SWSET, R69. -/
def EVR_SWSET : Nat := 0x40010C00
/-- EVR_PINCFG, R69. -/
def EVR_PINCFG : Nat := 0x40010C04
/-- EVR_PINW, R69. -/
def EVR_PINW : Nat := 0x40010C08
/-- EVR_SUBSTAT, R69. -/
def EVR_SUBSTAT : Nat := 0x40010C10
/-- EVR_SUB0, R69. -/
def EVR_SUB0 : Nat := 0x40010C20
/-- EVR_SUB1, R69. -/
def EVR_SUB1 : Nat := 0x40010C24
/-- EVR_SUB2, R69. -/
def EVR_SUB2 : Nat := 0x40010C28
/-- EVR_ERR, R69. -/
def EVR_ERR : Nat := 0x40010C30
/-- DMA_ID, R368. -/
def DMA_ID : Nat := 0x40020000
/-- DMA_CTRL, R368. -/
def DMA_CTRL : Nat := 0x40020004
/-- DMA_STAT, R368. -/
def DMA_STAT : Nat := 0x40020008
/-- DMA_ERR, R368. -/
def DMA_ERR : Nat := 0x4002000C
/-- DMA_CNT_STATE, R368. -/
def DMA_CNT_STATE : Nat := 0x40020010
/-- DMA_CNT_PATHERR, R368. -/
def DMA_CNT_PATHERR : Nat := 0x40020014
/-- DMA_PEND, R368. -/
def DMA_PEND (n : Nat) : Nat := 0x40020020 + 0x4 * n
/-- CH_CMD, R368. -/
def CH_CMD (n : Nat) : Nat := 0x40021000 + 0x40 * n
/-- CH_STAT, R368. -/
def CH_STAT (n : Nat) : Nat := 0x40021004 + 0x40 * n
/-- CH_ERR, R368. -/
def CH_ERR (n : Nat) : Nat := 0x40021008 + 0x40 * n
/-- CH_DOORBELL, R368. -/
def CH_DOORBELL (n : Nat) : Nat := 0x4002100C + 0x40 * n
/-- CH_CFG, R368. -/
def CH_CFG (n : Nat) : Nat := 0x40021010 + 0x40 * n
/-- CH_RING_LO, R368. -/
def CH_RING_LO (n : Nat) : Nat := 0x40021014 + 0x40 * n
/-- CH_RING_HI, R368. -/
def CH_RING_HI (n : Nat) : Nat := 0x40021018 + 0x40 * n
/-- CH_HEAD, R368. -/
def CH_HEAD (n : Nat) : Nat := 0x4002101C + 0x40 * n
/-- CH_SCFG, R368. -/
def CH_SCFG (n : Nat) : Nat := 0x40021020 + 0x40 * n
/-- CH_SRING_LO, R368. -/
def CH_SRING_LO (n : Nat) : Nat := 0x40021024 + 0x40 * n
/-- CH_SRING_HI, R368. -/
def CH_SRING_HI (n : Nat) : Nat := 0x40021028 + 0x40 * n
/-- CH_SHEAD, R368. -/
def CH_SHEAD (n : Nat) : Nat := 0x4002102C + 0x40 * n
/-- CH_SADDLE, R368. -/
def CH_SADDLE (n : Nat) : Nat := 0x40021030 + 0x40 * n
/-- CH_TSTART_LO, R368. -/
def CH_TSTART_LO (n : Nat) : Nat := 0x40021034 + 0x40 * n
/-- CH_TSTART_HI, R368. -/
def CH_TSTART_HI (n : Nat) : Nat := 0x40021038 + 0x40 * n
/-- CH_CNT, R368. -/
def CH_CNT (n : Nat) : Nat := 0x4002103C + 0x40 * n
/-- CHK_ID, R369. -/
def CHK_ID : Nat := 0x40030000
/-- SCAN_CTRL, R369. -/
def SCAN_CTRL : Nat := 0x40030100
/-- SCAN_ADDR_LO, R369. -/
def SCAN_ADDR_LO : Nat := 0x40030104
/-- SCAN_ADDR_HI, R369. -/
def SCAN_ADDR_HI : Nat := 0x40030108
/-- SCAN_ADDR2_LO, R369. -/
def SCAN_ADDR2_LO : Nat := 0x4003010C
/-- SCAN_ADDR2_HI, R369. -/
def SCAN_ADDR2_HI : Nat := 0x40030110
/-- SCAN_LEN, R369. -/
def SCAN_LEN : Nat := 0x40030114
/-- SCAN_EXP, R369. -/
def SCAN_EXP : Nat := 0x40030118
/-- SCAN_VAL, R369. -/
def SCAN_VAL : Nat := 0x4003011C
/-- SCAN_RATE, R369. -/
def SCAN_RATE : Nat := 0x40030120
/-- SCAN_RES, R369. -/
def SCAN_RES : Nat := 0x40030124
/-- SCAN_ERRADDR_LO, R369. -/
def SCAN_ERRADDR_LO : Nat := 0x40030128
/-- SCAN_ERRADDR_HI, R369. -/
def SCAN_ERRADDR_HI : Nat := 0x4003012C
/-- CHK_CFG, R369. -/
def CHK_CFG (n : Nat) : Nat := 0x40031000 + 0x40 * n
/-- CHK_POLY, R369. -/
def CHK_POLY (n : Nat) : Nat := 0x40031004 + 0x40 * n
/-- CHK_INIT, R369. -/
def CHK_INIT (n : Nat) : Nat := 0x40031008 + 0x40 * n
/-- CHK_XOROUT, R369. -/
def CHK_XOROUT (n : Nat) : Nat := 0x4003100C + 0x40 * n
/-- CHK_PCFG, R369. -/
def CHK_PCFG (n : Nat) : Nat := 0x40031010 + 0x40 * n
/-- CHK_VAL, R369. -/
def CHK_VAL (n : Nat) : Nat := 0x40031014 + 0x40 * n
/-- CHK_AUX, R369. -/
def CHK_AUX (n : Nat) : Nat := 0x40031018 + 0x40 * n
/-- CHK_FINAL, R369. -/
def CHK_FINAL (n : Nat) : Nat := 0x4003101C + 0x40 * n
/-- CHK_DATA, R369. -/
def CHK_DATA (n : Nat) : Nat := 0x40031020 + 0x40 * n
/-- CHK_DATA1, R369. -/
def CHK_DATA1 (n : Nat) : Nat := 0x40031024 + 0x40 * n
/-- CHK_DATA2, R369. -/
def CHK_DATA2 (n : Nat) : Nat := 0x40031028 + 0x40 * n
/-- CHK_CMD, R369. -/
def CHK_CMD (n : Nat) : Nat := 0x4003102C + 0x40 * n
/-- CHK_COUNT, R369. -/
def CHK_COUNT (n : Nat) : Nat := 0x40031030 + 0x40 * n
/-- CHK_STAT, R369. -/
def CHK_STAT (n : Nat) : Nat := 0x40031034 + 0x40 * n
/-- CRY_ID, R410. -/
def CRY_ID : Nat := 0x40040000
/-- CRY_CTRL, R410. -/
def CRY_CTRL : Nat := 0x40040004
/-- CRY_STAT, R410. -/
def CRY_STAT : Nat := 0x40040008
/-- CRY_ERR, R410. -/
def CRY_ERR : Nat := 0x4004000C
/-- CRY_KCMD, R410. -/
def CRY_KCMD : Nat := 0x40040010
/-- CRY_KARG0, R410. -/
def CRY_KARG0 : Nat := 0x40040014
/-- CRY_KARG1, R410. -/
def CRY_KARG1 : Nat := 0x40040018
/-- CRY_KADDR_LO, R410. -/
def CRY_KADDR_LO : Nat := 0x4004001C
/-- CRY_KADDR_HI, R410. -/
def CRY_KADDR_HI : Nat := 0x40040020
/-- CRY_KRES, R410. -/
def CRY_KRES : Nat := 0x40040024
/-- CRY_KRESLVL, R410. -/
def CRY_KRESLVL : Nat := 0x40040028
/-- CRY_KDATA, R410. -/
def CRY_KDATA (n : Nat) : Nat := 0x40040040 + 0x4 * n
/-- CRY_KINFO0, R410. -/
def CRY_KINFO0 : Nat := 0x40040080
/-- CRY_KINFO1, R410. -/
def CRY_KINFO1 : Nat := 0x40040084
/-- CRY_KGEN, R410. -/
def CRY_KGEN : Nat := 0x40040088
/-- CRY_KERASEGEN, R410. -/
def CRY_KERASEGEN : Nat := 0x4004008C
/-- CRY_KKCV, R410. -/
def CRY_KKCV : Nat := 0x40040090
/-- CRY_SACMD, R410. -/
def CRY_SACMD : Nat := 0x40040100
/-- CRY_SAADDR_LO, R410. -/
def CRY_SAADDR_LO : Nat := 0x40040104
/-- CRY_SAADDR_HI, R410. -/
def CRY_SAADDR_HI : Nat := 0x40040108
/-- CRY_PGCFG, R410. -/
def CRY_PGCFG (n : Nat) : Nat := 0x40040200 + 0x4 * n
/-- CRY_PGMW_BASE0, R410. -/
def CRY_PGMW_BASE0 (n : Nat) : Nat := 0x40040400 + 0x10 * n
/-- CRY_PGMW_SIZE0, R410. -/
def CRY_PGMW_SIZE0 (n : Nat) : Nat := 0x40040404 + 0x10 * n
/-- CRY_PGMW_BASE1, R410. -/
def CRY_PGMW_BASE1 (n : Nat) : Nat := 0x40040408 + 0x10 * n
/-- CRY_PGMW_SIZE1, R410. -/
def CRY_PGMW_SIZE1 (n : Nat) : Nat := 0x4004040C + 0x10 * n
/-- CRY_ALMSTAT, R410. -/
def CRY_ALMSTAT : Nat := 0x40040600
/-- CRY_ALMPOL, R410. -/
def CRY_ALMPOL : Nat := 0x40040604
/-- CRY_ALMLOCK, R410. -/
def CRY_ALMLOCK : Nat := 0x40040608
/-- CRY_ALMCLR, R410. -/
def CRY_ALMCLR : Nat := 0x4004060C
/-- CRY_ALMCNT, R410. -/
def CRY_ALMCNT : Nat := 0x40040610
/-- CRY_PGPEND, R410. -/
def CRY_PGPEND : Nat := 0x40040700
/-- CRY_CNT_OPS, R410. -/
def CRY_CNT_OPS : Nat := 0x40040800
/-- CRY_CNT_AUTH, R410. -/
def CRY_CNT_AUTH : Nat := 0x40040804
/-- CRY_CNT_NOKEY, R410. -/
def CRY_CNT_NOKEY : Nat := 0x40040808
/-- CRY_CNT_ABORT, R410. -/
def CRY_CNT_ABORT : Nat := 0x4004080C
/-- CRY_CNT_SUSP, R410. -/
def CRY_CNT_SUSP : Nat := 0x40040810
/-- CRY_CNT_ERASEABORT, R410. -/
def CRY_CNT_ERASEABORT : Nat := 0x40040814
/-- CRY_CNT_STATE, R410. -/
def CRY_CNT_STATE : Nat := 0x40040818
/-- CRY_CNT_RESOVF, R410. -/
def CRY_CNT_RESOVF : Nat := 0x4004081C
/-- PG_ID, R410. -/
def PG_ID (n : Nat) : Nat := 0x40048000 + 0x400 * n
/-- PG_CMD, R410. -/
def PG_CMD (n : Nat) : Nat := 0x40048004 + 0x400 * n
/-- PG_STAT, R410. -/
def PG_STAT (n : Nat) : Nat := 0x40048008 + 0x400 * n
/-- PG_ERR, R410. -/
def PG_ERR (n : Nat) : Nat := 0x4004800C + 0x400 * n
/-- PG_RING_LO, R410. -/
def PG_RING_LO (n : Nat) : Nat := 0x40048010 + 0x400 * n
/-- PG_RING_HI, R410. -/
def PG_RING_HI (n : Nat) : Nat := 0x40048014 + 0x400 * n
/-- PG_HEAD, R410. -/
def PG_HEAD (n : Nat) : Nat := 0x40048018 + 0x400 * n
/-- PG_DOORBELL, R410. -/
def PG_DOORBELL (n : Nat) : Nat := 0x4004801C + 0x400 * n
/-- PG_CTXADDR_LO, R410. -/
def PG_CTXADDR_LO (n : Nat) : Nat := 0x40048020 + 0x400 * n
/-- PG_CTXADDR_HI, R410. -/
def PG_CTXADDR_HI (n : Nat) : Nat := 0x40048024 + 0x400 * n
/-- PG_CTXFMT, R410. -/
def PG_CTXFMT (n : Nat) : Nat := 0x40048028 + 0x400 * n
/-- PG_RES, R410. -/
def PG_RES (n : Nat) : Nat := 0x4004802C + 0x400 * n
/-- PG_CNT, R410. -/
def PG_CNT (n : Nat) : Nat := 0x40048030 + 0x400 * n
/-- PKE_ID, R411. -/
def PKE_ID : Nat := 0x40050000
/-- PKE_CTRL, R411. -/
def PKE_CTRL : Nat := 0x40050004
/-- PKE_STAT, R411. -/
def PKE_STAT : Nat := 0x40050008
/-- PKE_ERR, R411. -/
def PKE_ERR : Nat := 0x4005000C
/-- PKE_CMD_W, R411. -/
def PKE_CMD_W (n : Nat) : Nat := 0x40050010 + 0x4 * n
/-- PKE_CMD_PUSH, R411. -/
def PKE_CMD_PUSH : Nat := 0x40050030
/-- PKE_RES, R411. -/
def PKE_RES : Nat := 0x40050034
/-- PKE_RESLVL, R411. -/
def PKE_RESLVL : Nat := 0x40050038
/-- PKE_RNG, R411. -/
def PKE_RNG : Nat := 0x40050040
/-- PKE_RESEEDINT, R411. -/
def PKE_RESEEDINT : Nat := 0x40050044
/-- PKE_DBGSTAT, R411. -/
def PKE_DBGSTAT : Nat := 0x40050050
/-- PKE_MRSEL, R411. -/
def PKE_MRSEL : Nat := 0x40050060
/-- PKE_MR, R411. -/
def PKE_MR (n : Nat) : Nat := 0x40050064 + 0x4 * n
/-- PKE_DAKPUB, R411. -/
def PKE_DAKPUB (n : Nat) : Nat := 0x400500A0 + 0x4 * n
/-- PKE_CNT_OPS, R411. -/
def PKE_CNT_OPS : Nat := 0x40050100
/-- PKE_CNT_FAIL, R411. -/
def PKE_CNT_FAIL : Nat := 0x40050104
/-- PKE_CNT_HTFAIL, R411. -/
def PKE_CNT_HTFAIL : Nat := 0x40050108
/-- PKE_CNT_RESEED, R411. -/
def PKE_CNT_RESEED : Nat := 0x4005010C
/-- PKE_CNT_RESOVF, R411. -/
def PKE_CNT_RESOVF : Nat := 0x40050110
/-- PKE_OTP, R411. -/
def PKE_OTP (n : Nat) : Nat := 0x40050400 + 0x4 * n
/-- DRC_ID, R439. -/
def DRC_ID : Nat := 0x40060000
/-- DRC_CTRL, R439. -/
def DRC_CTRL : Nat := 0x40060004
/-- DRC_STAT, R439. -/
def DRC_STAT : Nat := 0x40060008
/-- DRC_ERR, R439. -/
def DRC_ERR : Nat := 0x4006000C
/-- DRC_CMD, R439. -/
def DRC_CMD : Nat := 0x40060010
/-- DRC_RES, R439. -/
def DRC_RES : Nat := 0x40060014
/-- DRC_TRSTAT, R439. -/
def DRC_TRSTAT : Nat := 0x40060018
/-- DRC_TRREC_LO, R439. -/
def DRC_TRREC_LO : Nat := 0x4006001C
/-- DRC_TRREC_HI, R439. -/
def DRC_TRREC_HI : Nat := 0x40060020
/-- DRC_SRIDLE, R439. -/
def DRC_SRIDLE : Nat := 0x40060024
/-- DRC_USABLE, R439. -/
def DRC_USABLE : Nat := 0x40060028
/-- DRC_CLASS_LO, R439. -/
def DRC_CLASS_LO : Nat := 0x40060030
/-- DRC_CLASS_HI, R439. -/
def DRC_CLASS_HI : Nat := 0x40060034
/-- DRC_AGE, R439. -/
def DRC_AGE : Nat := 0x40060038
/-- DRC_HITCAP, R439. -/
def DRC_HITCAP : Nat := 0x4006003C
/-- DRC_RAA, R439. -/
def DRC_RAA : Nat := 0x40060040
/-- DRC_NREFALM, R439. -/
def DRC_NREFALM : Nat := 0x40060044
/-- DRC_SCRUBPER, R439. -/
def DRC_SCRUBPER : Nat := 0x40060048
/-- DRC_WINRATE, R439. -/
def DRC_WINRATE : Nat := 0x4006004C
/-- DRC_SCRUBPOS, R439. -/
def DRC_SCRUBPOS : Nat := 0x40060050
/-- DRC_CEALM, R439. -/
def DRC_CEALM : Nat := 0x40060054
/-- DRC_DUMP_BASE, R439. -/
def DRC_DUMP_BASE : Nat := 0x40060060
/-- DRC_DUMP_SIZE, R439. -/
def DRC_DUMP_SIZE : Nat := 0x40060064
/-- DRC_DUMP, R439. -/
def DRC_DUMP : Nat := 0x40060068
/-- DRC_CEADDR_LO, R439. -/
def DRC_CEADDR_LO : Nat := 0x40060070
/-- DRC_CEADDR_HI, R439. -/
def DRC_CEADDR_HI : Nat := 0x40060074
/-- DRC_UEADDR_LO, R439. -/
def DRC_UEADDR_LO : Nat := 0x40060078
/-- DRC_UEADDR_HI, R439. -/
def DRC_UEADDR_HI : Nat := 0x4006007C
/-- DRC_UEINFO, R439. -/
def DRC_UEINFO : Nat := 0x40060080
/-- DRC_INJ_ADDR_LO, R439. -/
def DRC_INJ_ADDR_LO : Nat := 0x40060084
/-- DRC_INJ_ADDR_HI, R439. -/
def DRC_INJ_ADDR_HI : Nat := 0x40060088
/-- DRC_INJ_CTRL, R439. -/
def DRC_INJ_CTRL : Nat := 0x4006008C
/-- DRC_TEMP, R439. -/
def DRC_TEMP : Nat := 0x40060090
/-- DRC_CNT_CE, R439. -/
def DRC_CNT_CE : Nat := 0x40060100
/-- DRC_CNT_UE, R439. -/
def DRC_CNT_UE : Nat := 0x40060104
/-- DRC_CNT_SCRUBCE, R439. -/
def DRC_CNT_SCRUBCE : Nat := 0x40060108
/-- DRC_CNT_NREF, R439. -/
def DRC_CNT_NREF : Nat := 0x4006010C
/-- DRC_CNT_RFM, R439. -/
def DRC_CNT_RFM : Nat := 0x40060110
/-- DRC_CNT_PROMOTE, R439. -/
def DRC_CNT_PROMOTE : Nat := 0x40060114
/-- DRC_CNT_STATE, R439. -/
def DRC_CNT_STATE : Nat := 0x40060118
/-- DRC_CNT_SREXIT, R439. -/
def DRC_CNT_SREXIT : Nat := 0x4006011C
/-- SRM_ID, R438. -/
def SRM_ID : Nat := 0x40070000
/-- SRM_CTRL, R438. -/
def SRM_CTRL : Nat := 0x40070004
/-- SRM_STAT, R438. -/
def SRM_STAT : Nat := 0x40070008
/-- SRM_ERR, R438. -/
def SRM_ERR : Nat := 0x4007000C
/-- SRM_SCRUBPER, R438. -/
def SRM_SCRUBPER : Nat := 0x40070010
/-- SRM_WINRATE, R438. -/
def SRM_WINRATE : Nat := 0x40070014
/-- SRM_POS, R438. -/
def SRM_POS : Nat := 0x40070018
/-- SRM_PASSAGE, R438. -/
def SRM_PASSAGE : Nat := 0x4007001C
/-- SRM_CEADDR, R438. -/
def SRM_CEADDR : Nat := 0x40070020
/-- SRM_UEADDR, R438. -/
def SRM_UEADDR : Nat := 0x40070024
/-- SRM_UEINFO, R438. -/
def SRM_UEINFO : Nat := 0x40070028
/-- SRM_CEALM, R438. -/
def SRM_CEALM : Nat := 0x4007002C
/-- SRM_INJ_ADDR, R438. -/
def SRM_INJ_ADDR : Nat := 0x40070030
/-- SRM_INJ_CTRL, R438. -/
def SRM_INJ_CTRL : Nat := 0x40070034
/-- SRM_CNT_CE, R438. -/
def SRM_CNT_CE : Nat := 0x40070100
/-- SRM_CNT_UE, R438. -/
def SRM_CNT_UE : Nat := 0x40070104
/-- SRM_CNT_SCRUBCE, R438. -/
def SRM_CNT_SCRUBCE : Nat := 0x40070108
/-- SRM_CNT_PASS, R438. -/
def SRM_CNT_PASS : Nat := 0x4007010C
/-- PPE_ID, R310. -/
def PPE_ID : Nat := 0x40080000
/-- PPE_CTRL, R310. -/
def PPE_CTRL : Nat := 0x40080004
/-- PPE_STAT, R310. -/
def PPE_STAT : Nat := 0x40080008
/-- PPE_ERR, R310. -/
def PPE_ERR : Nat := 0x4008000C
/-- PPE_HSEED1, R310. -/
def PPE_HSEED1 : Nat := 0x40080010
/-- PPE_HSEED2, R310. -/
def PPE_HSEED2 : Nat := 0x40080014
/-- PPE_TKEY, R310. -/
def PPE_TKEY (n : Nat) : Nat := 0x40080020 + 0x4 * n
/-- PPE_DRAMBASE_LO, R310. -/
def PPE_DRAMBASE_LO : Nat := 0x40080050
/-- PPE_DRAMBASE_HI, R310. -/
def PPE_DRAMBASE_HI : Nat := 0x40080054
/-- PPE_DRAMCFG, R310. -/
def PPE_DRAMCFG : Nat := 0x40080058
/-- PPE_FENCE, R310. -/
def PPE_FENCE : Nat := 0x40080060
/-- PPE_HDPPORT, R310. -/
def PPE_HDPPORT : Nat := 0x40080064
/-- PPE_VXLANPORT, R310. -/
def PPE_VXLANPORT : Nat := 0x40080068
/-- PPE_TUNCFG, R310. -/
def PPE_TUNCFG : Nat := 0x4008006C
/-- PPE_ODD, R310. -/
def PPE_ODD : Nat := 0x40080070
/-- PPE_MISSQ, R310. -/
def PPE_MISSQ : Nat := 0x40080074
/-- PPE_PUNTQ, R310. -/
def PPE_PUNTQ : Nat := 0x40080078
/-- PPE_ESPPG, R310. -/
def PPE_ESPPG : Nat := 0x4008007C
/-- PPE_TRAP, R310. -/
def PPE_TRAP (n : Nat) : Nat := 0x40080080 + 0x4 * n
/-- PPE_ALM, R310. -/
def PPE_ALM : Nat := 0x400800C0
/-- PPE_PORTCFG, R310. -/
def PPE_PORTCFG (n : Nat) : Nat := 0x40080100 + 0x4 * n
/-- PPE_UPD_W, R310. -/
def PPE_UPD_W (n : Nat) : Nat := 0x40080200 + 0x4 * n
/-- PPE_UPD_CMD, R310. -/
def PPE_UPD_CMD : Nat := 0x40080260
/-- PPE_UPD_RES, R310. -/
def PPE_UPD_RES : Nat := 0x40080264
/-- PPE_HQ_H1, R310. -/
def PPE_HQ_H1 : Nat := 0x40080268
/-- PPE_HQ_H2, R310. -/
def PPE_HQ_H2 : Nat := 0x4008026C
/-- PPE_PSEL, R310. -/
def PPE_PSEL (n m : Nat) : Nat := 0x40080300 + 0x20 * n + 0x4 * m
/-- PPE_PIPE_TAB, R310. -/
def PPE_PIPE_TAB (n : Nat) : Nat := 0x40080400 + 0x4 * n
/-- PPE_CNT_RX, R310. -/
def PPE_CNT_RX : Nat := 0x40080800
/-- PPE_CNT_HIT, R310. -/
def PPE_CNT_HIT : Nat := 0x40080804
/-- PPE_CNT_HITDRAM, R310. -/
def PPE_CNT_HITDRAM : Nat := 0x40080808
/-- PPE_CNT_MISS, R310. -/
def PPE_CNT_MISS : Nat := 0x4008080C
/-- PPE_CNT_NOPROF, R310. -/
def PPE_CNT_NOPROF : Nat := 0x40080810
/-- PPE_CNT_TRAP, R310. -/
def PPE_CNT_TRAP : Nat := 0x40080814
/-- PPE_CNT_ODD, R310. -/
def PPE_CNT_ODD : Nat := 0x40080818
/-- PPE_CNT_TRUNC, R310. -/
def PPE_CNT_TRUNC : Nat := 0x4008081C
/-- PPE_CNT_FRAG, R310. -/
def PPE_CNT_FRAG : Nat := 0x40080820
/-- PPE_CNT_DUPKEY, R310. -/
def PPE_CNT_DUPKEY : Nat := 0x40080824
/-- PPE_CNT_DRAMERR, R310. -/
def PPE_CNT_DRAMERR : Nat := 0x40080828
/-- PPE_CNT_TTL, R310. -/
def PPE_CNT_TTL : Nat := 0x4008082C
/-- PPE_CNT_VLANERR, R310. -/
def PPE_CNT_VLANERR : Nat := 0x40080830
/-- PPE_CNT_RECIRC, R310. -/
def PPE_CNT_RECIRC : Nat := 0x40080834
/-- PPE_CNT_CRYERR, R310. -/
def PPE_CNT_CRYERR : Nat := 0x40080838
/-- PPE_CNT_MIRDROP, R310. -/
def PPE_CNT_MIRDROP : Nat := 0x4008083C
/-- PPE_CNT_DROP, R310. -/
def PPE_CNT_DROP : Nat := 0x40080840
/-- PPE_PROF_INSTR, R310. -/
def PPE_PROF_INSTR (n m : Nat) : Nat := 0x40081000 + 0x100 * n + 0x4 * m
/-- PPE_PROF_MASK_LO, R310. -/
def PPE_PROF_MASK_LO (n : Nat) : Nat := 0x40081040 + 0x100 * n
/-- PPE_PROF_MASK_HI, R310. -/
def PPE_PROF_MASK_HI (n : Nat) : Nat := 0x40081044 + 0x100 * n
/-- PPE_PROF_KLEN, R310. -/
def PPE_PROF_KLEN (n : Nat) : Nat := 0x40081048 + 0x100 * n
/-- PPE_IND, R310. -/
def PPE_IND (n m : Nat) : Nat := 0x40082000 + 0x200 * n + 0x4 * m
/-- PPE_TMPL_W0, R310. -/
def PPE_TMPL_W0 (n : Nat) : Nat := 0x40084000 + 0x80 * n
/-- PPE_TMPL_W, R310. -/
def PPE_TMPL_W (n m : Nat) : Nat := 0x40084010 + 0x80 * n + 0x4 * m
/-- PPE_CTR, R310. -/
def PPE_CTR (n m : Nat) : Nat := 0x40088000 + 0x10 * n + 0x4 * m
/-- PPE_ACTREC, R310. -/
def PPE_ACTREC (n m : Nat) : Nat := 0x40090000 + 0x20 * n + 0x4 * m
/-- TMG_ID, R333. -/
def TMG_ID : Nat := 0x400A0000
/-- TMG_CTRL, R333. -/
def TMG_CTRL : Nat := 0x400A0004
/-- TMG_STAT, R333. -/
def TMG_STAT : Nat := 0x400A0008
/-- TMG_ERR, R333. -/
def TMG_ERR : Nat := 0x400A000C
/-- TMG_SMP_CTRL, R333. -/
def TMG_SMP_CTRL : Nat := 0x400A0010
/-- TMG_STALL, R333. -/
def TMG_STALL : Nat := 0x400A0014
/-- TMG_CNT_SEL, R333. -/
def TMG_CNT_SEL : Nat := 0x400A0020
/-- TMG_CNT_SMPOVF, R333. -/
def TMG_CNT_SMPOVF : Nat := 0x400A0024
/-- TMG_CNT_STALL, R333. -/
def TMG_CNT_STALL : Nat := 0x400A0028
/-- TMG_RING_BASE, R333. -/
def TMG_RING_BASE (n : Nat) : Nat := 0x400A0100 + 0x20 * n
/-- TMG_RING_BHI, R333. -/
def TMG_RING_BHI (n : Nat) : Nat := 0x400A0104 + 0x20 * n
/-- TMG_RING_CFG, R333. -/
def TMG_RING_CFG (n : Nat) : Nat := 0x400A0108 + 0x20 * n
/-- TMG_RING_PROD, R333. -/
def TMG_RING_PROD (n : Nat) : Nat := 0x400A010C + 0x20 * n
/-- TMG_RING_CONS, R333. -/
def TMG_RING_CONS (n : Nat) : Nat := 0x400A0110 + 0x20 * n
/-- TMG_DRING_BASE, R333. -/
def TMG_DRING_BASE (n : Nat) : Nat := 0x400A0200 + 0x20 * n
/-- TMG_DRING_BHI, R333. -/
def TMG_DRING_BHI (n : Nat) : Nat := 0x400A0204 + 0x20 * n
/-- TMG_DRING_CFG, R333. -/
def TMG_DRING_CFG (n : Nat) : Nat := 0x400A0208 + 0x20 * n
/-- TMG_DRING_PROD, R333. -/
def TMG_DRING_PROD (n : Nat) : Nat := 0x400A020C + 0x20 * n
/-- TMG_DRING_CONS, R333. -/
def TMG_DRING_CONS (n : Nat) : Nat := 0x400A0210 + 0x20 * n
/-- TMG_PORT_CFG, R333. -/
def TMG_PORT_CFG (n : Nat) : Nat := 0x400A1000 + 0x40 * n
/-- TMG_PORT_RATE, R333. -/
def TMG_PORT_RATE (n : Nat) : Nat := 0x400A1004 + 0x40 * n
/-- TMG_PORT_BURST, R333. -/
def TMG_PORT_BURST (n : Nat) : Nat := 0x400A1008 + 0x40 * n
/-- TMG_PORT_TOKENS, R333. -/
def TMG_PORT_TOKENS (n : Nat) : Nat := 0x400A100C + 0x40 * n
/-- TMG_PORT_WIN, R333. -/
def TMG_PORT_WIN (n : Nat) : Nat := 0x400A1010 + 0x40 * n
/-- TMG_PORT_CW_LO, R333. -/
def TMG_PORT_CW_LO (n : Nat) : Nat := 0x400A1014 + 0x40 * n
/-- TMG_PORT_CW_HI, R333. -/
def TMG_PORT_CW_HI (n : Nat) : Nat := 0x400A1018 + 0x40 * n
/-- TMG_PORT_STALLT, R333. -/
def TMG_PORT_STALLT (n : Nat) : Nat := 0x400A101C + 0x40 * n
/-- TMG_CSHP_CFG, R333. -/
def TMG_CSHP_CFG (n : Nat) : Nat := 0x400A2000 + 0x10 * n
/-- TMG_CSHP_BURST, R333. -/
def TMG_CSHP_BURST (n : Nat) : Nat := 0x400A2004 + 0x10 * n
/-- TMG_CSHP_TOKENS, R333. -/
def TMG_CSHP_TOKENS (n : Nat) : Nat := 0x400A2008 + 0x10 * n
/-- TMG_QSHP_CFG, R333. -/
def TMG_QSHP_CFG (n : Nat) : Nat := 0x400A4000 + 0x10 * n
/-- TMG_QSHP_BURST, R333. -/
def TMG_QSHP_BURST (n : Nat) : Nat := 0x400A4004 + 0x10 * n
/-- TMG_QSHP_TOKENS, R333. -/
def TMG_QSHP_TOKENS (n : Nat) : Nat := 0x400A4008 + 0x10 * n
/-- QMG_ID, R332. -/
def QMG_ID : Nat := 0x400C0000
/-- QMG_CTRL, R332. -/
def QMG_CTRL : Nat := 0x400C0004
/-- QMG_STAT, R332. -/
def QMG_STAT : Nat := 0x400C0008
/-- QMG_ERR, R332. -/
def QMG_ERR : Nat := 0x400C000C
/-- QMG_CMD_W, R332. -/
def QMG_CMD_W (n : Nat) : Nat := 0x400C0010 + 0x4 * n
/-- QMG_CMD_PUSH, R332. -/
def QMG_CMD_PUSH : Nat := 0x400C0020
/-- QMG_RES, R332. -/
def QMG_RES : Nat := 0x400C0024
/-- QMG_RESLVL, R332. -/
def QMG_RESLVL : Nat := 0x400C0028
/-- QMG_FREE, R332. -/
def QMG_FREE : Nat := 0x400C0030
/-- QMG_DROPALM, R332. -/
def QMG_DROPALM : Nat := 0x400C0034
/-- QMG_POOL, R332. -/
def QMG_POOL (n : Nat) : Nat := 0x400C0040 + 0x4 * n
/-- QMG_POOLACT, R332. -/
def QMG_POOLACT (n : Nat) : Nat := 0x400C0080 + 0x4 * n
/-- QMG_POOLUSE, R332. -/
def QMG_POOLUSE (n : Nat) : Nat := 0x400C00C0 + 0x4 * n
/-- QMG_POOLAPPLY, R332. -/
def QMG_POOLAPPLY : Nat := 0x400C0100
/-- QMG_SHARED, R332. -/
def QMG_SHARED : Nat := 0x400C0104
/-- QMG_RPOOL, R332. -/
def QMG_RPOOL (n : Nat) : Nat := 0x400C0110 + 0x4 * n
/-- QMG_RPOOLUSE, R332. -/
def QMG_RPOOLUSE (n : Nat) : Nat := 0x400C0120 + 0x4 * n
/-- QMG_CNT_ENQ, R332. -/
def QMG_CNT_ENQ : Nat := 0x400C0200
/-- QMG_CNT_TAIL, R332. -/
def QMG_CNT_TAIL : Nat := 0x400C0204
/-- QMG_CNT_NOQ, R332. -/
def QMG_CNT_NOQ : Nat := 0x400C0208
/-- QMG_CNT_RED, R332. -/
def QMG_CNT_RED : Nat := 0x400C020C
/-- QMG_CNT_FLUSH, R332. -/
def QMG_CNT_FLUSH : Nat := 0x400C0210
/-- QMG_CNT_REFUSE, R332. -/
def QMG_CNT_REFUSE : Nat := 0x400C0214
/-- QMG_CNT_STATE, R332. -/
def QMG_CNT_STATE : Nat := 0x400C0218
/-- QMG_CNT_RESOVF, R332. -/
def QMG_CNT_RESOVF : Nat := 0x400C021C
/-- QMG_POL_CFG, R332. -/
def QMG_POL_CFG (n : Nat) : Nat := 0x400D0000 + 0x20 * n
/-- QMG_POL_CIR, R332. -/
def QMG_POL_CIR (n : Nat) : Nat := 0x400D0004 + 0x20 * n
/-- QMG_POL_PIR, R332. -/
def QMG_POL_PIR (n : Nat) : Nat := 0x400D0008 + 0x20 * n
/-- QMG_POL_CBS, R332. -/
def QMG_POL_CBS (n : Nat) : Nat := 0x400D000C + 0x20 * n
/-- QMG_POL_PBS, R332. -/
def QMG_POL_PBS (n : Nat) : Nat := 0x400D0010 + 0x20 * n
/-- QMG_POL_TC, R332. -/
def QMG_POL_TC (n : Nat) : Nat := 0x400D0014 + 0x20 * n
/-- QMG_POL_TP, R332. -/
def QMG_POL_TP (n : Nat) : Nat := 0x400D0018 + 0x20 * n
/-- QMG_POL_RED, R332. -/
def QMG_POL_RED (n : Nat) : Nat := 0x400D001C + 0x20 * n
/-- RFC_ID, R102. -/
def RFC_ID (r : Radio) : Nat := 0x40100000 + 0x10000 * r.idx
/-- RFC_CTRL, R102. -/
def RFC_CTRL (r : Radio) : Nat := 0x40100004 + 0x10000 * r.idx
/-- RFC_STAT, R102. -/
def RFC_STAT (r : Radio) : Nat := 0x40100008 + 0x10000 * r.idx
/-- RFC_CMD_W, R102. -/
def RFC_CMD_W (r : Radio) (n : Nat) : Nat := 0x40100010 + 0x10000 * r.idx + 0x4 * n
/-- RFC_CMD_PUSH, R102. -/
def RFC_CMD_PUSH (r : Radio) : Nat := 0x40100028 + 0x10000 * r.idx
/-- RFC_RES, R102. -/
def RFC_RES (r : Radio) : Nat := 0x40100030 + 0x10000 * r.idx
/-- RFC_RES_GT_LO, R102. -/
def RFC_RES_GT_LO (r : Radio) : Nat := 0x40100034 + 0x10000 * r.idx
/-- RFC_RES_GT_HI, R102. -/
def RFC_RES_GT_HI (r : Radio) : Nat := 0x40100038 + 0x10000 * r.idx
/-- RFC_RESLVL, R102. -/
def RFC_RESLVL (r : Radio) : Nat := 0x4010003C + 0x10000 * r.idx
/-- RFC_ERR, R102. -/
def RFC_ERR (r : Radio) : Nat := 0x40100040 + 0x10000 * r.idx
/-- RFC_DLDEF, R102. -/
def RFC_DLDEF (r : Radio) : Nat := 0x40100044 + 0x10000 * r.idx
/-- RFC_TEMP, R102. -/
def RFC_TEMP (r : Radio) : Nat := 0x40100050 + 0x10000 * r.idx
/-- RFC_CALDUE, R102. -/
def RFC_CALDUE (r : Radio) : Nat := 0x40100054 + 0x10000 * r.idx
/-- RFC_CALSTAT, R102. -/
def RFC_CALSTAT (r : Radio) : Nat := 0x40100058 + 0x10000 * r.idx
/-- RFC_CALAGE, R102. -/
def RFC_CALAGE (r : Radio) : Nat := 0x4010005C + 0x10000 * r.idx
/-- RFC_CALPER, R102. -/
def RFC_CALPER (r : Radio) : Nat := 0x40100060 + 0x10000 * r.idx
/-- RFC_CALGRACE, R102. -/
def RFC_CALGRACE (r : Radio) : Nat := 0x40100064 + 0x10000 * r.idx
/-- RFC_CALTHR, R102. -/
def RFC_CALTHR (r : Radio) : Nat := 0x40100068 + 0x10000 * r.idx
/-- RFC_REC_ACT, R102. -/
def RFC_REC_ACT (r : Radio) : Nat := 0x40100070 + 0x10000 * r.idx
/-- RFC_REC_NEXT, R102. -/
def RFC_REC_NEXT (r : Radio) : Nat := 0x40100074 + 0x10000 * r.idx
/-- RFC_FEMT0, R102. -/
def RFC_FEMT0 (r : Radio) : Nat := 0x40100080 + 0x10000 * r.idx
/-- RFC_FEMT1, R102. -/
def RFC_FEMT1 (r : Radio) : Nat := 0x40100084 + 0x10000 * r.idx
/-- RFC_FEMT2, R102. -/
def RFC_FEMT2 (r : Radio) : Nat := 0x40100088 + 0x10000 * r.idx
/-- RFC_FEMPOL, R102. -/
def RFC_FEMPOL (r : Radio) : Nat := 0x4010008C + 0x10000 * r.idx
/-- RFC_DPD_CTRL, R102. -/
def RFC_DPD_CTRL (r : Radio) : Nat := 0x401000A0 + 0x10000 * r.idx
/-- RFC_DPD_TMO, R102. -/
def RFC_DPD_TMO (r : Radio) : Nat := 0x401000A4 + 0x10000 * r.idx
/-- RFC_DPD_SEL, R102. -/
def RFC_DPD_SEL (r : Radio) (n : Nat) : Nat := 0x401000C0 + 0x10000 * r.idx + 0x4 * n
/-- RFC_DPD_GEN, R102. -/
def RFC_DPD_GEN (r : Radio) (n : Nat) : Nat := 0x401000E0 + 0x10000 * r.idx + 0x4 * n
/-- RFC_CNT_STATE, R102. -/
def RFC_CNT_STATE (r : Radio) : Nat := 0x40100100 + 0x10000 * r.idx
/-- RFC_CNT_LATE, R102. -/
def RFC_CNT_LATE (r : Radio) : Nat := 0x40100104 + 0x10000 * r.idx
/-- RFC_CNT_HELD, R102. -/
def RFC_CNT_HELD (r : Radio) : Nat := 0x40100108 + 0x10000 * r.idx
/-- RFC_CNT_LOCKLOSS, R102. -/
def RFC_CNT_LOCKLOSS (r : Radio) : Nat := 0x4010010C + 0x10000 * r.idx
/-- RFC_CNT_RECBAD, R102. -/
def RFC_CNT_RECBAD (r : Radio) : Nat := 0x40100110 + 0x10000 * r.idx
/-- RFC_CNT_CALPRE, R102. -/
def RFC_CNT_CALPRE (r : Radio) : Nat := 0x40100114 + 0x10000 * r.idx
/-- RFC_CNT_RESOVF, R102. -/
def RFC_CNT_RESOVF (r : Radio) : Nat := 0x40100118 + 0x10000 * r.idx
/-- MDM_ID, R139. -/
def MDM_ID (r : Radio) : Nat := 0x40200000 + 0x10000 * r.idx
/-- MDM_CTRL, R139. -/
def MDM_CTRL (r : Radio) : Nat := 0x40200004 + 0x10000 * r.idx
/-- MDM_STAT, R139. -/
def MDM_STAT (r : Radio) : Nat := 0x40200008 + 0x10000 * r.idx
/-- MDM_ERR, R139. -/
def MDM_ERR (r : Radio) : Nat := 0x4020000C + 0x10000 * r.idx
/-- MDM_CAPM, R139. -/
def MDM_CAPM (r : Radio) : Nat := 0x40200010 + 0x10000 * r.idx
/-- MDM_DETTHR, R139. -/
def MDM_DETTHR (r : Radio) : Nat := 0x40200014 + 0x10000 * r.idx
/-- MDM_EDTHR, R139. -/
def MDM_EDTHR (r : Radio) : Nat := 0x40200018 + 0x10000 * r.idx
/-- MDM_RXDLY, R139. -/
def MDM_RXDLY (r : Radio) : Nat := 0x4020001C + 0x10000 * r.idx
/-- MDM_LDPC, R139. -/
def MDM_LDPC (r : Radio) : Nat := 0x40200020 + 0x10000 * r.idx
/-- MDM_CFR, R139. -/
def MDM_CFR (r : Radio) : Nat := 0x40200024 + 0x10000 * r.idx
/-- MDM_TXCAP, R139. -/
def MDM_TXCAP (r : Radio) (n : Nat) : Nat := 0x40200030 + 0x10000 * r.idx + 0x4 * n
/-- MDM_NODPDCAP, R139. -/
def MDM_NODPDCAP (r : Radio) : Nat := 0x40200040 + 0x10000 * r.idx
/-- MDM_CCA, R139. -/
def MDM_CCA (r : Radio) : Nat := 0x40200050 + 0x10000 * r.idx
/-- MDM_NOISE, R139. -/
def MDM_NOISE (r : Radio) : Nat := 0x40200054 + 0x10000 * r.idx
/-- MDM_NFALM, R139. -/
def MDM_NFALM (r : Radio) : Nat := 0x40200058 + 0x10000 * r.idx
/-- MDM_RXALM, R139. -/
def MDM_RXALM (r : Radio) : Nat := 0x4020005C + 0x10000 * r.idx
/-- MDM_SMODE, R139. -/
def MDM_SMODE (r : Radio) : Nat := 0x40200060 + 0x10000 * r.idx
/-- MDM_LASTRX, R139. -/
def MDM_LASTRX (r : Radio) (n : Nat) : Nat := 0x40200080 + 0x10000 * r.idx + 0x4 * n
/-- MDM_LASTTX, R139. -/
def MDM_LASTTX (r : Radio) : Nat := 0x402000A0 + 0x10000 * r.idx
/-- MDM_CNT_DET, R139. -/
def MDM_CNT_DET (r : Radio) : Nat := 0x40200100 + 0x10000 * r.idx
/-- MDM_CNT_FALSE, R139. -/
def MDM_CNT_FALSE (r : Radio) : Nat := 0x40200104 + 0x10000 * r.idx
/-- MDM_CNT_CAPT, R139. -/
def MDM_CNT_CAPT (r : Radio) : Nat := 0x40200108 + 0x10000 * r.idx
/-- MDM_CNT_CAPTPRE, R139. -/
def MDM_CNT_CAPTPRE (r : Radio) : Nat := 0x4020010C + 0x10000 * r.idx
/-- MDM_CNT_CLIPRST, R139. -/
def MDM_CNT_CLIPRST (r : Radio) : Nat := 0x40200110 + 0x10000 * r.idx
/-- MDM_CNT_LOSTWEAK, R139. -/
def MDM_CNT_LOSTWEAK (r : Radio) : Nat := 0x40200114 + 0x10000 * r.idx
/-- MDM_CNT_OVLP, R139. -/
def MDM_CNT_OVLP (r : Radio) : Nat := 0x40200118 + 0x10000 * r.idx
/-- MDM_CNT_UNSUP, R139. -/
def MDM_CNT_UNSUP (r : Radio) : Nat := 0x4020011C + 0x10000 * r.idx
/-- MDM_CNT_RXPRE, R139. -/
def MDM_CNT_RXPRE (r : Radio) : Nat := 0x40200120 + 0x10000 * r.idx
/-- MDM_CNT_CWFAIL, R139. -/
def MDM_CNT_CWFAIL (r : Radio) : Nat := 0x40200124 + 0x10000 * r.idx
/-- MDM_CNT_ITRED, R139. -/
def MDM_CNT_ITRED (r : Radio) : Nat := 0x40200128 + 0x10000 * r.idx
/-- MDM_CNT_TBABS, R139. -/
def MDM_CNT_TBABS (r : Radio) : Nat := 0x4020012C + 0x10000 * r.idx
/-- MDM_CNT_TXOK, R139. -/
def MDM_CNT_TXOK (r : Radio) : Nat := 0x40200130 + 0x10000 * r.idx
/-- MDM_CNT_TXREJ, R139. -/
def MDM_CNT_TXREJ (r : Radio) : Nat := 0x40200134 + 0x10000 * r.idx
/-- MDM_CNT_TXCAP, R139. -/
def MDM_CNT_TXCAP (r : Radio) : Nat := 0x40200138 + 0x10000 * r.idx
/-- MAC_ID, R181. -/
def MAC_ID (r : WRadio) : Nat := 0x40300000 + 0x10000 * r.idx
/-- MAC_CTRL, R181. -/
def MAC_CTRL (r : WRadio) : Nat := 0x40300004 + 0x10000 * r.idx
/-- MAC_STAT, R181. -/
def MAC_STAT (r : WRadio) : Nat := 0x40300008 + 0x10000 * r.idx
/-- MAC_ERR, R181. -/
def MAC_ERR (r : WRadio) : Nat := 0x4030000C + 0x10000 * r.idx
/-- MAC_CMD_W, R181. -/
def MAC_CMD_W (r : WRadio) (n : Nat) : Nat := 0x40300010 + 0x10000 * r.idx + 0x4 * n
/-- MAC_CMD_PUSH, R181. -/
def MAC_CMD_PUSH (r : WRadio) : Nat := 0x40300020 + 0x10000 * r.idx
/-- MAC_RES, R181. -/
def MAC_RES (r : WRadio) : Nat := 0x40300024 + 0x10000 * r.idx
/-- MAC_RESLVL, R181. -/
def MAC_RESLVL (r : WRadio) : Nat := 0x40300028 + 0x10000 * r.idx
/-- MAC_CRYPG, R181. -/
def MAC_CRYPG (r : WRadio) : Nat := 0x4030002C + 0x10000 * r.idx
/-- MAC_TSF_LO, R181. -/
def MAC_TSF_LO (r : WRadio) : Nat := 0x40300030 + 0x10000 * r.idx
/-- MAC_TSF_HI, R181. -/
def MAC_TSF_HI (r : WRadio) : Nat := 0x40300034 + 0x10000 * r.idx
/-- MAC_TSFGT_LO, R181. -/
def MAC_TSFGT_LO (r : WRadio) : Nat := 0x40300038 + 0x10000 * r.idx
/-- MAC_TSFGT_HI, R181. -/
def MAC_TSFGT_HI (r : WRadio) : Nat := 0x4030003C + 0x10000 * r.idx
/-- MAC_BCNCTRL, R181. -/
def MAC_BCNCTRL (r : WRadio) : Nat := 0x40300040 + 0x10000 * r.idx
/-- MAC_BCNMAXDLY, R181. -/
def MAC_BCNMAXDLY (r : WRadio) : Nat := 0x40300044 + 0x10000 * r.idx
/-- MAC_PARENT_LO, R181. -/
def MAC_PARENT_LO (r : WRadio) : Nat := 0x40300048 + 0x10000 * r.idx
/-- MAC_PARENT_HI, R181. -/
def MAC_PARENT_HI (r : WRadio) : Nat := 0x4030004C + 0x10000 * r.idx
/-- MAC_EDCA_BE, R181. -/
def MAC_EDCA_BE (r : WRadio) : Nat := 0x40300050 + 0x10000 * r.idx
/-- MAC_EDCA_BK, R181. -/
def MAC_EDCA_BK (r : WRadio) : Nat := 0x40300054 + 0x10000 * r.idx
/-- MAC_EDCA_VI, R181. -/
def MAC_EDCA_VI (r : WRadio) : Nat := 0x40300058 + 0x10000 * r.idx
/-- MAC_EDCA_VO, R181. -/
def MAC_EDCA_VO (r : WRadio) : Nat := 0x4030005C + 0x10000 * r.idx
/-- MAC_RETRY, R181. -/
def MAC_RETRY (r : WRadio) : Nat := 0x40300060 + 0x10000 * r.idx
/-- MAC_ROTMO, R181. -/
def MAC_ROTMO (r : WRadio) : Nat := 0x40300064 + 0x10000 * r.idx
/-- MAC_MLCTRL, R181. -/
def MAC_MLCTRL (r : WRadio) : Nat := 0x40300068 + 0x10000 * r.idx
/-- MAC_TWTSLIP, R181. -/
def MAC_TWTSLIP (r : WRadio) : Nat := 0x4030006C + 0x10000 * r.idx
/-- MAC_SNDAGE, R181. -/
def MAC_SNDAGE (r : WRadio) : Nat := 0x40300070 + 0x10000 * r.idx
/-- MAC_OBSSPD, R181. -/
def MAC_OBSSPD (r : WRadio) : Nat := 0x40300074 + 0x10000 * r.idx
/-- MAC_DROPALM, R181. -/
def MAC_DROPALM (r : WRadio) : Nat := 0x40300078 + 0x10000 * r.idx
/-- MAC_NOTCH_CTRL, R181. -/
def MAC_NOTCH_CTRL (r : WRadio) : Nat := 0x40300080 + 0x10000 * r.idx
/-- MAC_NOTCH_MASK_LO, R181. -/
def MAC_NOTCH_MASK_LO (r : WRadio) : Nat := 0x40300084 + 0x10000 * r.idx
/-- MAC_NOTCH_MASK_HI, R181. -/
def MAC_NOTCH_MASK_HI (r : WRadio) : Nat := 0x40300088 + 0x10000 * r.idx
/-- MAC_NOTCH_GUARD, R181. -/
def MAC_NOTCH_GUARD (r : WRadio) : Nat := 0x4030008C + 0x10000 * r.idx
/-- MAC_NOTCH_PLANID, R181. -/
def MAC_NOTCH_PLANID (r : WRadio) : Nat := 0x40300090 + 0x10000 * r.idx
/-- MAC_NOTCH_STAT, R181. -/
def MAC_NOTCH_STAT (r : WRadio) : Nat := 0x40300094 + 0x10000 * r.idx
/-- MAC_NOTCH_MINTX, R181. -/
def MAC_NOTCH_MINTX (r : WRadio) : Nat := 0x40300098 + 0x10000 * r.idx
/-- MAC_NOTCH_PCTRL, R181. -/
def MAC_NOTCH_PCTRL (r : WRadio) : Nat := 0x403000A0 + 0x10000 * r.idx
/-- MAC_NOTCH_PMASK_LO, R181. -/
def MAC_NOTCH_PMASK_LO (r : WRadio) : Nat := 0x403000A4 + 0x10000 * r.idx
/-- MAC_NOTCH_PMASK_HI, R181. -/
def MAC_NOTCH_PMASK_HI (r : WRadio) : Nat := 0x403000A8 + 0x10000 * r.idx
/-- MAC_NOTCH_PGUARD, R181. -/
def MAC_NOTCH_PGUARD (r : WRadio) : Nat := 0x403000AC + 0x10000 * r.idx
/-- MAC_NOTCH_PPLANID, R181. -/
def MAC_NOTCH_PPLANID (r : WRadio) : Nat := 0x403000B0 + 0x10000 * r.idx
/-- MAC_NOTCH_ACT_LO, R181. -/
def MAC_NOTCH_ACT_LO (r : WRadio) : Nat := 0x403000B4 + 0x10000 * r.idx
/-- MAC_NOTCH_ACT_HI, R181. -/
def MAC_NOTCH_ACT_HI (r : WRadio) : Nat := 0x403000B8 + 0x10000 * r.idx
/-- MAC_CNT_FCS, R181. -/
def MAC_CNT_FCS (r : WRadio) : Nat := 0x40300100 + 0x10000 * r.idx
/-- MAC_CNT_NORES, R181. -/
def MAC_CNT_NORES (r : WRadio) : Nat := 0x40300104 + 0x10000 * r.idx
/-- MAC_CNT_BCNDROP, R181. -/
def MAC_CNT_BCNDROP (r : WRadio) : Nat := 0x40300108 + 0x10000 * r.idx
/-- MAC_CNT_GTREJ, R181. -/
def MAC_CNT_GTREJ (r : WRadio) : Nat := 0x4030010C + 0x10000 * r.idx
/-- MAC_CNT_RETRYDROP, R181. -/
def MAC_CNT_RETRYDROP (r : WRadio) : Nat := 0x40300110 + 0x10000 * r.idx
/-- MAC_CNT_DUP, R181. -/
def MAC_CNT_DUP (r : WRadio) : Nat := 0x40300114 + 0x10000 * r.idx
/-- MAC_CNT_ROHOLE, R181. -/
def MAC_CNT_ROHOLE (r : WRadio) : Nat := 0x40300118 + 0x10000 * r.idx
/-- MAC_CNT_REPLAY, R181. -/
def MAC_CNT_REPLAY (r : WRadio) : Nat := 0x4030011C + 0x10000 * r.idx
/-- MAC_CNT_MICFAIL, R181. -/
def MAC_CNT_MICFAIL (r : WRadio) : Nat := 0x40300120 + 0x10000 * r.idx
/-- MAC_CNT_NOKEY, R181. -/
def MAC_CNT_NOKEY (r : WRadio) : Nat := 0x40300124 + 0x10000 * r.idx
/-- MAC_CNT_CRYABORT, R181. -/
def MAC_CNT_CRYABORT (r : WRadio) : Nat := 0x40300128 + 0x10000 * r.idx
/-- MAC_CNT_TWTRE, R181. -/
def MAC_CNT_TWTRE (r : WRadio) : Nat := 0x4030012C + 0x10000 * r.idx
/-- MAC_CNT_TRIM, R181. -/
def MAC_CNT_TRIM (r : WRadio) : Nat := 0x40300130 + 0x10000 * r.idx
/-- MAC_CNT_NOTCHOVL, R181. -/
def MAC_CNT_NOTCHOVL (r : WRadio) : Nat := 0x40300134 + 0x10000 * r.idx
/-- MAC_CNT_NOTCHMIS, R181. -/
def MAC_CNT_NOTCHMIS (r : WRadio) : Nat := 0x40300138 + 0x10000 * r.idx
/-- MAC_CNT_STATE, R181. -/
def MAC_CNT_STATE (r : WRadio) : Nat := 0x4030013C + 0x10000 * r.idx
/-- MAC_CNT_RESOVF, R181. -/
def MAC_CNT_RESOVF (r : WRadio) : Nat := 0x40300140 + 0x10000 * r.idx
/-- FMAC_ID, R261. -/
def FMAC_ID : Nat := 0x40330000
/-- FMAC_CTRL, R261. -/
def FMAC_CTRL : Nat := 0x40330004
/-- FMAC_STAT, R261. -/
def FMAC_STAT : Nat := 0x40330008
/-- FMAC_ERR, R261. -/
def FMAC_ERR : Nat := 0x4033000C
/-- FMAC_CMD_W, R261. -/
def FMAC_CMD_W (n : Nat) : Nat := 0x40330010 + 0x4 * n
/-- FMAC_CMD_PUSH, R261. -/
def FMAC_CMD_PUSH : Nat := 0x40330020
/-- FMAC_RES, R261. -/
def FMAC_RES : Nat := 0x40330024
/-- FMAC_RESLVL, R261. -/
def FMAC_RESLVL : Nat := 0x40330028
/-- FMAC_CRYPG, R261. -/
def FMAC_CRYPG : Nat := 0x4033002C
/-- FMAC_SFN, R261. -/
def FMAC_SFN : Nat := 0x40330030
/-- FMAC_SF, R261. -/
def FMAC_SF : Nat := 0x40330040
/-- FMAC_PLAIN, R261. -/
def FMAC_PLAIN : Nat := 0x40330044
/-- FMAC_PASS, R261. -/
def FMAC_PASS : Nat := 0x40330048
/-- FMAC_CHAN, R261. -/
def FMAC_CHAN : Nat := 0x4033004C
/-- FMAC_PSF, R261. -/
def FMAC_PSF : Nat := 0x40330050
/-- FMAC_PPLAIN, R261. -/
def FMAC_PPLAIN : Nat := 0x40330054
/-- FMAC_PPASS, R261. -/
def FMAC_PPASS : Nat := 0x40330058
/-- FMAC_PCHAN, R261. -/
def FMAC_PCHAN : Nat := 0x4033005C
/-- FMAC_ACT_LO, R261. -/
def FMAC_ACT_LO : Nat := 0x40330060
/-- FMAC_ACT_HI, R261. -/
def FMAC_ACT_HI : Nat := 0x40330064
/-- FMAC_NETID, R261. -/
def FMAC_NETID : Nat := 0x40330068
/-- FMAC_SADDR, R261. -/
def FMAC_SADDR : Nat := 0x4033006C
/-- FMAC_EUI_LO, R261. -/
def FMAC_EUI_LO : Nat := 0x40330070
/-- FMAC_EUI_HI, R261. -/
def FMAC_EUI_HI : Nat := 0x40330074
/-- FMAC_KEYS, R261. -/
def FMAC_KEYS : Nat := 0x40330078
/-- FMAC_MODES, R261. -/
def FMAC_MODES : Nat := 0x4033007C
/-- FMAC_TXOFS, R261. -/
def FMAC_TXOFS : Nat := 0x40330080
/-- FMAC_TURN, R261. -/
def FMAC_TURN : Nat := 0x40330084
/-- FMAC_GBASE, R261. -/
def FMAC_GBASE : Nat := 0x40330088
/-- FMAC_GMAX, R261. -/
def FMAC_GMAX : Nat := 0x4033008C
/-- FMAC_GFALL, R261. -/
def FMAC_GFALL : Nat := 0x40330090
/-- FMAC_HOLD, R261. -/
def FMAC_HOLD : Nat := 0x40330094
/-- FMAC_DLTRY, R261. -/
def FMAC_DLTRY : Nat := 0x40330098
/-- FMAC_PATH, R261. -/
def FMAC_PATH : Nat := 0x4033009C
/-- FMAC_PENDMAX, R261. -/
def FMAC_PENDMAX : Nat := 0x403300A0
/-- FMAC_LLRETRY, R261. -/
def FMAC_LLRETRY : Nat := 0x403300A4
/-- FMAC_UP_CTRL, R261. -/
def FMAC_UP_CTRL : Nat := 0x403300C0
/-- FMAC_UP_PARENT, R261. -/
def FMAC_UP_PARENT : Nat := 0x403300C4
/-- FMAC_UP_EUI_LO, R261. -/
def FMAC_UP_EUI_LO : Nat := 0x403300C8
/-- FMAC_UP_EUI_HI, R261. -/
def FMAC_UP_EUI_HI : Nat := 0x403300CC
/-- FMAC_UP_SF, R261. -/
def FMAC_UP_SF : Nat := 0x403300D0
/-- FMAC_UP_ASSIGN, R261. -/
def FMAC_UP_ASSIGN : Nat := 0x403300D4
/-- FMAC_UP_MODE, R261. -/
def FMAC_UP_MODE : Nat := 0x403300D8
/-- FMAC_UP_KEY, R261. -/
def FMAC_UP_KEY : Nat := 0x403300DC
/-- FMAC_UP_DRIFT, R261. -/
def FMAC_UP_DRIFT : Nat := 0x403300E0
/-- FMAC_UP_LAST_LO, R261. -/
def FMAC_UP_LAST_LO : Nat := 0x403300E4
/-- FMAC_UP_LAST_HI, R261. -/
def FMAC_UP_LAST_HI : Nat := 0x403300E8
/-- FMAC_UP_TC, R261. -/
def FMAC_UP_TC : Nat := 0x403300EC
/-- FMAC_UP_SEL, R261. -/
def FMAC_UP_SEL : Nat := 0x403300F0
/-- FMAC_UP_MISC, R261. -/
def FMAC_UP_MISC : Nat := 0x403300F4
/-- FMAC_PTAB_W0, R261. -/
def FMAC_PTAB_W0 (n : Nat) : Nat := 0x40330100 + 0x10 * n
/-- FMAC_PTAB_W1, R261. -/
def FMAC_PTAB_W1 (n : Nat) : Nat := 0x40330104 + 0x10 * n
/-- FMAC_PTAB_W2, R261. -/
def FMAC_PTAB_W2 (n : Nat) : Nat := 0x40330108 + 0x10 * n
/-- FMAC_PTAB_W3, R261. -/
def FMAC_PTAB_W3 (n : Nat) : Nat := 0x4033010C + 0x10 * n
/-- FMAC_DW_CTRL, R261. -/
def FMAC_DW_CTRL (n : Nat) : Nat := 0x40330200 + 0x20 * n
/-- FMAC_DW_FHI, R261. -/
def FMAC_DW_FHI (n : Nat) : Nat := 0x40330204 + 0x20 * n
/-- FMAC_DW_WIN, R261. -/
def FMAC_DW_WIN (n : Nat) : Nat := 0x40330208 + 0x20 * n
/-- FMAC_DW_LIMIT, R261. -/
def FMAC_DW_LIMIT (n : Nat) : Nat := 0x4033020C + 0x20 * n
/-- FMAC_DW_RSV, R261. -/
def FMAC_DW_RSV (n : Nat) : Nat := 0x40330210 + 0x20 * n
/-- FMAC_DW_USED, R261. -/
def FMAC_DW_USED (n : Nat) : Nat := 0x40330214 + 0x20 * n
/-- FMAC_CNT_BCN, R261. -/
def FMAC_CNT_BCN : Nat := 0x40330400
/-- FMAC_CNT_BCNSKIP, R261. -/
def FMAC_CNT_BCNSKIP : Nat := 0x40330404
/-- FMAC_CNT_POLL, R261. -/
def FMAC_CNT_POLL : Nat := 0x40330408
/-- FMAC_CNT_PASSRX, R261. -/
def FMAC_CNT_PASSRX : Nat := 0x4033040C
/-- FMAC_CNT_MISSP, R261. -/
def FMAC_CNT_MISSP : Nat := 0x40330410
/-- FMAC_CNT_ABSENT, R261. -/
def FMAC_CNT_ABSENT : Nat := 0x40330414
/-- FMAC_CNT_RELEASE, R261. -/
def FMAC_CNT_RELEASE : Nat := 0x40330418
/-- FMAC_CNT_REACQ, R261. -/
def FMAC_CNT_REACQ : Nat := 0x4033041C
/-- FMAC_CNT_DLOK, R261. -/
def FMAC_CNT_DLOK : Nat := 0x40330420
/-- FMAC_CNT_DLFAIL, R261. -/
def FMAC_CNT_DLFAIL : Nat := 0x40330424
/-- FMAC_CNT_FCS, R261. -/
def FMAC_CNT_FCS : Nat := 0x40330428
/-- FMAC_CNT_AUTH, R261. -/
def FMAC_CNT_AUTH : Nat := 0x4033042C
/-- FMAC_CNT_REPLAY, R261. -/
def FMAC_CNT_REPLAY : Nat := 0x40330430
/-- FMAC_CNT_DUP, R261. -/
def FMAC_CNT_DUP : Nat := 0x40330434
/-- FMAC_CNT_NOKEY, R261. -/
def FMAC_CNT_NOKEY : Nat := 0x40330438
/-- FMAC_CNT_NORES, R261. -/
def FMAC_CNT_NORES : Nat := 0x4033043C
/-- FMAC_CNT_DWELL, R261. -/
def FMAC_CNT_DWELL : Nat := 0x40330440
/-- FMAC_CNT_RADIOREJ, R261. -/
def FMAC_CNT_RADIOREJ : Nat := 0x40330444
/-- FMAC_CNT_UPMISSB, R261. -/
def FMAC_CNT_UPMISSB : Nat := 0x40330448
/-- FMAC_CNT_UPSILENT, R261. -/
def FMAC_CNT_UPSILENT : Nat := 0x4033044C
/-- FMAC_CNT_UPLISTEN, R261. -/
def FMAC_CNT_UPLISTEN : Nat := 0x40330450
/-- FMAC_CNT_UPSELECT, R261. -/
def FMAC_CNT_UPSELECT : Nat := 0x40330454
/-- FMAC_CNT_STATE, R261. -/
def FMAC_CNT_STATE : Nat := 0x40330458
/-- FMAC_CNT_RESOVF, R261. -/
def FMAC_CNT_RESOVF : Nat := 0x4033045C
/-- STP_ID, R215. -/
def STP_ID : Nat := 0x40400000
/-- STP_CTRL, R215. -/
def STP_CTRL : Nat := 0x40400004
/-- STP_STAT, R215. -/
def STP_STAT : Nat := 0x40400008
/-- STP_ERR, R215. -/
def STP_ERR : Nat := 0x4040000C
/-- STP_CMD_W, R215. -/
def STP_CMD_W (n : Nat) : Nat := 0x40400010 + 0x4 * n
/-- STP_CMD_PUSH, R215. -/
def STP_CMD_PUSH : Nat := 0x40400020
/-- STP_RES, R215. -/
def STP_RES : Nat := 0x40400024
/-- STP_RESLVL, R215. -/
def STP_RESLVL : Nat := 0x40400028
/-- STP_PEND, R215. -/
def STP_PEND : Nat := 0x4040002C
/-- STP_HISTBASE_LO, R215. -/
def STP_HISTBASE_LO : Nat := 0x40400030
/-- STP_HISTBASE_HI, R215. -/
def STP_HISTBASE_HI : Nat := 0x40400034
/-- STP_GBASE, R215. -/
def STP_GBASE : Nat := 0x40400040
/-- STP_GMAX, R215. -/
def STP_GMAX : Nat := 0x40400044
/-- STP_DRIFT, R215. -/
def STP_DRIFT : Nat := 0x40400048
/-- STP_PLANLEAD, R215. -/
def STP_PLANLEAD : Nat := 0x4040004C
/-- STP_MUMAX, R215. -/
def STP_MUMAX : Nat := 0x40400050
/-- STP_ULMAX, R215. -/
def STP_ULMAX : Nat := 0x40400054
/-- STP_FILL, R215. -/
def STP_FILL : Nat := 0x40400058
/-- STP_PPDUMAX, R215. -/
def STP_PPDUMAX : Nat := 0x4040005C
/-- STP_STGTIME, R215. -/
def STP_STGTIME : Nat := 0x40400060
/-- STP_STGCAP, R215. -/
def STP_STGCAP : Nat := 0x40400064
/-- STP_PRESTAGE, R215. -/
def STP_PRESTAGE : Nat := 0x40400068
/-- STP_RATE, R215. -/
def STP_RATE : Nat := 0x4040006C
/-- STP_MOVE, R215. -/
def STP_MOVE : Nat := 0x40400070
/-- STP_ULRATIO, R215. -/
def STP_ULRATIO : Nat := 0x40400074
/-- STP_BSRPPER, R215. -/
def STP_BSRPPER : Nat := 0x40400078
/-- STP_TWTLEAD, R215. -/
def STP_TWTLEAD : Nat := 0x4040007C
/-- STP_SPTRY, R215. -/
def STP_SPTRY : Nat := 0x40400080
/-- STP_LWAIT, R215. -/
def STP_LWAIT (n : Nat) : Nat := 0x40400090 + 0x4 * n
/-- STP_DECMAX, R215. -/
def STP_DECMAX : Nat := 0x404000A0
/-- STP_CNT_DEC, R215. -/
def STP_CNT_DEC : Nat := 0x40400100
/-- STP_CNT_SU, R215. -/
def STP_CNT_SU : Nat := 0x40400104
/-- STP_CNT_MU, R215. -/
def STP_CNT_MU : Nat := 0x40400108
/-- STP_CNT_TRIG, R215. -/
def STP_CNT_TRIG : Nat := 0x4040010C
/-- STP_CNT_MOVE, R215. -/
def STP_CNT_MOVE : Nat := 0x40400110
/-- STP_CNT_LINKDROP, R215. -/
def STP_CNT_LINKDROP : Nat := 0x40400114
/-- STP_CNT_MISS, R215. -/
def STP_CNT_MISS : Nat := 0x40400118
/-- STP_CNT_LISTEN, R215. -/
def STP_CNT_LISTEN : Nat := 0x4040011C
/-- STP_CNT_REACQ, R215. -/
def STP_CNT_REACQ : Nat := 0x40400120
/-- STP_CNT_LOST, R215. -/
def STP_CNT_LOST : Nat := 0x40400124
/-- STP_CNT_HISTERR, R215. -/
def STP_CNT_HISTERR : Nat := 0x40400128
/-- STP_CNT_OVERRUN, R215. -/
def STP_CNT_OVERRUN : Nat := 0x4040012C
/-- STP_CNT_STATE, R215. -/
def STP_CNT_STATE : Nat := 0x40400130
/-- STP_CNT_RESOVF, R215. -/
def STP_CNT_RESOVF : Nat := 0x40400134
/-- ODE_ID, R473. -/
def ODE_ID : Nat := 0x40500000
/-- ODE_CTRL, R473. -/
def ODE_CTRL : Nat := 0x40500004
/-- ODE_STAT, R473. -/
def ODE_STAT : Nat := 0x40500008
/-- ODE_ERR, R473. -/
def ODE_ERR : Nat := 0x4050000C
/-- ODE_STATECMD, R473. -/
def ODE_STATECMD : Nat := 0x40500010
/-- ODE_IMGID, R473. -/
def ODE_IMGID : Nat := 0x40500014
/-- ODE_NPARAM, R473. -/
def ODE_NPARAM : Nat := 0x40500018
/-- ODE_DIG, R473. -/
def ODE_DIG (n : Nat) : Nat := 0x40500020 + 0x4 * n
/-- ODE_GEN, R473. -/
def ODE_GEN : Nat := 0x40500050
/-- ODE_DIGPOL, R473. -/
def ODE_DIGPOL : Nat := 0x40500054
/-- ODE_PULLBACK, R473. -/
def ODE_PULLBACK : Nat := 0x40500058
/-- ODE_UDPPORT, R473. -/
def ODE_UDPPORT : Nat := 0x40500060
/-- ODE_CANID, R473. -/
def ODE_CANID : Nat := 0x40500064
/-- ODE_SPICFG, R473. -/
def ODE_SPICFG : Nat := 0x40500068
/-- ODE_SESTMO, R473. -/
def ODE_SESTMO : Nat := 0x4050006C
/-- ODE_FWTMO, R473. -/
def ODE_FWTMO : Nat := 0x40500070
/-- ODE_EVBATCH, R473. -/
def ODE_EVBATCH : Nat := 0x40500074
/-- ODE_JBASE, R473. -/
def ODE_JBASE : Nat := 0x40500080
/-- ODE_JGEOM, R473. -/
def ODE_JGEOM : Nat := 0x40500088
/-- ODE_JCOMMIT, R473. -/
def ODE_JCOMMIT : Nat := 0x4050008C
/-- ODE_JSTAT, R473. -/
def ODE_JSTAT : Nat := 0x40500090
/-- ODE_JWEAR, R473. -/
def ODE_JWEAR : Nat := 0x40500094
/-- ODE_JWEARALM, R473. -/
def ODE_JWEARALM : Nat := 0x40500098
/-- ODE_MBXIN_ADDR, R473. -/
def ODE_MBXIN_ADDR : Nat := 0x405000A0
/-- ODE_MBXIN_PUSH, R473. -/
def ODE_MBXIN_PUSH : Nat := 0x405000A4
/-- ODE_MBXOUT, R473. -/
def ODE_MBXOUT : Nat := 0x405000A8
/-- ODE_MBXOUT_ADDR, R473. -/
def ODE_MBXOUT_ADDR : Nat := 0x405000AC
/-- ODE_FWREQ, R473. -/
def ODE_FWREQ (n : Nat) : Nat := 0x405000C0 + 0x4 * n
/-- ODE_FWRES, R473. -/
def ODE_FWRES (n : Nat) : Nat := 0x405000E0 + 0x4 * n
/-- ODE_FWREF, R473. -/
def ODE_FWREF : Nat := 0x405000F8
/-- ODE_FWBUF, R473. -/
def ODE_FWBUF : Nat := 0x405000FC
/-- ODE_FWLEN, R473. -/
def ODE_FWLEN : Nat := 0x40500100
/-- ODE_CNT_REQ, R473. -/
def ODE_CNT_REQ : Nat := 0x40500200
/-- ODE_CNT_STATE, R473. -/
def ODE_CNT_STATE : Nat := 0x40500204
/-- ODE_CNT_RIGHTS, R473. -/
def ODE_CNT_RIGHTS : Nat := 0x40500208
/-- ODE_CNT_AUTH, R473. -/
def ODE_CNT_AUTH : Nat := 0x4050020C
/-- ODE_CNT_REPLAY, R473. -/
def ODE_CNT_REPLAY : Nat := 0x40500210
/-- ODE_CNT_FWLATE, R473. -/
def ODE_CNT_FWLATE : Nat := 0x40500214
/-- ODE_CNT_CANSEG, R473. -/
def ODE_CNT_CANSEG : Nat := 0x40500218
/-- ODE_CNT_SPICRC, R473. -/
def ODE_CNT_SPICRC : Nat := 0x4050021C
/-- ODE_CNT_EVLOST, R473. -/
def ODE_CNT_EVLOST : Nat := 0x40500220
/-- ODE_CNT_JLOST, R473. -/
def ODE_CNT_JLOST : Nat := 0x40500224
/-- ODE_CNT_JSKIP, R473. -/
def ODE_CNT_JSKIP : Nat := 0x40500228
/-- ODE_CNT_JRETIRE, R473. -/
def ODE_CNT_JRETIRE : Nat := 0x4050022C
/-- ODE_CNT_DIGNEW, R473. -/
def ODE_CNT_DIGNEW : Nat := 0x40500230
/-- ODE_CNT_DIGOLD, R473. -/
def ODE_CNT_DIGOLD : Nat := 0x40500234
/-- ODE_CNT_DIGCONF, R473. -/
def ODE_CNT_DIGCONF : Nat := 0x40500238
/-- ODE_CNT_PULLOK, R473. -/
def ODE_CNT_PULLOK : Nat := 0x4050023C
/-- ODE_CNT_PULLFAIL, R473. -/
def ODE_CNT_PULLFAIL : Nat := 0x40500240
/-- ODE_NBR_ADDR, R473. -/
def ODE_NBR_ADDR (n m : Nat) : Nat := 0x40500400 + 0x20 * n + 0x4 * m
/-- ODE_NBR_INFO, R473. -/
def ODE_NBR_INFO (n : Nat) : Nat := 0x40500408 + 0x20 * n
/-- ODE_NBR_GEN, R473. -/
def ODE_NBR_GEN (n : Nat) : Nat := 0x4050040C + 0x20 * n
/-- ODE_NBR_DIG, R473. -/
def ODE_NBR_DIG (n m : Nat) : Nat := 0x40500410 + 0x20 * n + 0x4 * m
/-- ODE_NBR_AGE, R473. -/
def ODE_NBR_AGE (n : Nat) : Nat := 0x40500418 + 0x20 * n
/-- ETH_ID, R311. -/
def ETH_ID (n : Nat) : Nat := 0x40600000 + 0x1000 * n
/-- ETH_CTRL, R311. -/
def ETH_CTRL (n : Nat) : Nat := 0x40600004 + 0x1000 * n
/-- ETH_STAT, R311. -/
def ETH_STAT (n : Nat) : Nat := 0x40600008 + 0x1000 * n
/-- ETH_ERR, R311. -/
def ETH_ERR (n : Nat) : Nat := 0x4060000C + 0x1000 * n
/-- ETH_MAXLEN, R311. -/
def ETH_MAXLEN (n : Nat) : Nat := 0x40600010 + 0x1000 * n
/-- ETH_TSDLY, R311. -/
def ETH_TSDLY (n : Nat) : Nat := 0x40600014 + 0x1000 * n
/-- ETH_PAUSEQ, R311. -/
def ETH_PAUSEQ (n : Nat) : Nat := 0x40600018 + 0x1000 * n
/-- ETH_TXTS, R311. -/
def ETH_TXTS (n : Nat) : Nat := 0x40600020 + 0x1000 * n
/-- ETH_TXTS_GT_LO, R311. -/
def ETH_TXTS_GT_LO (n : Nat) : Nat := 0x40600024 + 0x1000 * n
/-- ETH_TXTS_GT_HI, R311. -/
def ETH_TXTS_GT_HI (n : Nat) : Nat := 0x40600028 + 0x1000 * n
/-- ETH_TXTS_NS_LO, R311. -/
def ETH_TXTS_NS_LO (n : Nat) : Nat := 0x4060002C + 0x1000 * n
/-- ETH_TXTS_NS_HI, R311. -/
def ETH_TXTS_NS_HI (n : Nat) : Nat := 0x40600030 + 0x1000 * n
/-- ETH_CNT_RXOK, R311. -/
def ETH_CNT_RXOK (n : Nat) : Nat := 0x40600040 + 0x1000 * n
/-- ETH_CNT_RXFCS, R311. -/
def ETH_CNT_RXFCS (n : Nat) : Nat := 0x40600044 + 0x1000 * n
/-- ETH_CNT_RXLEN, R311. -/
def ETH_CNT_RXLEN (n : Nat) : Nat := 0x40600048 + 0x1000 * n
/-- ETH_CNT_RXDROP, R311. -/
def ETH_CNT_RXDROP (n : Nat) : Nat := 0x4060004C + 0x1000 * n
/-- ETH_CNT_TXOK, R311. -/
def ETH_CNT_TXOK (n : Nat) : Nat := 0x40600050 + 0x1000 * n
/-- ETH_CNT_MSINV, R311. -/
def ETH_CNT_MSINV (n : Nat) : Nat := 0x40600054 + 0x1000 * n
/-- ETH_CNT_MSUNT, R311. -/
def ETH_CNT_MSUNT (n : Nat) : Nat := 0x40600058 + 0x1000 * n
/-- ETH_CNT_MSREPLAY, R311. -/
def ETH_CNT_MSREPLAY (n : Nat) : Nat := 0x4060005C + 0x1000 * n
/-- ETH_CNT_PNEXH, R311. -/
def ETH_CNT_PNEXH (n : Nat) : Nat := 0x40600060 + 0x1000 * n
/-- ETH_CNT_TSOVF, R311. -/
def ETH_CNT_TSOVF (n : Nat) : Nat := 0x40600064 + 0x1000 * n
/-- ETH_RXSC_SCI_LO, R311. -/
def ETH_RXSC_SCI_LO (n m : Nat) : Nat := 0x40600200 + 0x1000 * n + 0x40 * m
/-- ETH_RXSC_SCI_HI, R311. -/
def ETH_RXSC_SCI_HI (n m : Nat) : Nat := 0x40600204 + 0x1000 * n + 0x40 * m
/-- ETH_RXSC_CFG, R311. -/
def ETH_RXSC_CFG (n m : Nat) : Nat := 0x40600208 + 0x1000 * n + 0x40 * m
/-- ETH_RXSC_RPW, R311. -/
def ETH_RXSC_RPW (n m : Nat) : Nat := 0x4060020C + 0x1000 * n + 0x40 * m
/-- ETH_RXSC_KEY, R311. -/
def ETH_RXSC_KEY (n m k : Nat) : Nat := 0x40600210 + 0x1000 * n + 0x40 * m + 0x4 * k
/-- ETH_RXSC_PN_LO, R311. -/
def ETH_RXSC_PN_LO (n m k : Nat) : Nat := 0x40600220 + 0x1000 * n + 0x40 * m + 0x8 * k
/-- ETH_RXSC_PN_HI, R311. -/
def ETH_RXSC_PN_HI (n m k : Nat) : Nat := 0x40600224 + 0x1000 * n + 0x40 * m + 0x8 * k
/-- ETH_TXSC_SCI_LO, R311. -/
def ETH_TXSC_SCI_LO (n : Nat) : Nat := 0x40600300 + 0x1000 * n
/-- ETH_TXSC_SCI_HI, R311. -/
def ETH_TXSC_SCI_HI (n : Nat) : Nat := 0x40600304 + 0x1000 * n
/-- ETH_TXSC_CFG, R311. -/
def ETH_TXSC_CFG (n : Nat) : Nat := 0x40600308 + 0x1000 * n
/-- ETH_TXSC_KEY, R311. -/
def ETH_TXSC_KEY (n m : Nat) : Nat := 0x40600310 + 0x1000 * n + 0x4 * m
/-- ETH_TXSC_PN_LO, R311. -/
def ETH_TXSC_PN_LO (n m : Nat) : Nat := 0x40600320 + 0x1000 * n + 0x8 * m
/-- ETH_TXSC_PN_HI, R311. -/
def ETH_TXSC_PN_HI (n m : Nat) : Nat := 0x40600324 + 0x1000 * n + 0x8 * m
/-- ETH_PTP_CTRL, R311. -/
def ETH_PTP_CTRL : Nat := 0x40608000
/-- ETH_PTP_NS_LO, R311. -/
def ETH_PTP_NS_LO : Nat := 0x40608004
/-- ETH_PTP_NS_HI, R311. -/
def ETH_PTP_NS_HI : Nat := 0x40608008
/-- ETH_PTP_GT_LO, R311. -/
def ETH_PTP_GT_LO : Nat := 0x4060800C
/-- ETH_PTP_GT_HI, R311. -/
def ETH_PTP_GT_HI : Nat := 0x40608010
/-- ETH_PTP_RATE, R311. -/
def ETH_PTP_RATE : Nat := 0x40608014
/-- ETH_PTP_STEP_LO, R311. -/
def ETH_PTP_STEP_LO : Nat := 0x40608018
/-- ETH_PTP_STEP_HI, R311. -/
def ETH_PTP_STEP_HI : Nat := 0x4060801C
/-- ETH_MDIO_CMD, R311. -/
def ETH_MDIO_CMD : Nat := 0x40608020
/-- ETH_MDIO_DATA, R311. -/
def ETH_MDIO_DATA : Nat := 0x40608024
/-- ETH_MDIO_DIV, R311. -/
def ETH_MDIO_DIV : Nat := 0x40608028
/-- CAN_ID, R474. -/
def CAN_ID (n : Nat) : Nat := 0x40700000 + 0x1000 * n
/-- CAN_CTRL, R474. -/
def CAN_CTRL (n : Nat) : Nat := 0x40700004 + 0x1000 * n
/-- CAN_STAT, R474. -/
def CAN_STAT (n : Nat) : Nat := 0x40700008 + 0x1000 * n
/-- CAN_ERR, R474. -/
def CAN_ERR (n : Nat) : Nat := 0x4070000C + 0x1000 * n
/-- CAN_NBT, R474. -/
def CAN_NBT (n : Nat) : Nat := 0x40700010 + 0x1000 * n
/-- CAN_DBT, R474. -/
def CAN_DBT (n : Nat) : Nat := 0x40700014 + 0x1000 * n
/-- CAN_TDC, R474. -/
def CAN_TDC (n : Nat) : Nat := 0x40700018 + 0x1000 * n
/-- CAN_RXF_HDR, R474. -/
def CAN_RXF_HDR (n : Nat) : Nat := 0x40700020 + 0x1000 * n
/-- CAN_RXF_INFO, R474. -/
def CAN_RXF_INFO (n : Nat) : Nat := 0x40700024 + 0x1000 * n
/-- CAN_RXF_DATA, R474. -/
def CAN_RXF_DATA (n m : Nat) : Nat := 0x40700040 + 0x1000 * n + 0x4 * m
/-- CAN_TXF_HDR, R474. -/
def CAN_TXF_HDR (n : Nat) : Nat := 0x40700080 + 0x1000 * n
/-- CAN_TXF_INFO, R474. -/
def CAN_TXF_INFO (n : Nat) : Nat := 0x40700084 + 0x1000 * n
/-- CAN_TXF_PUSH, R474. -/
def CAN_TXF_PUSH (n : Nat) : Nat := 0x40700088 + 0x1000 * n
/-- CAN_TXF_DATA, R474. -/
def CAN_TXF_DATA (n m : Nat) : Nat := 0x407000C0 + 0x1000 * n + 0x4 * m
/-- CAN_CNT_RXOK, R474. -/
def CAN_CNT_RXOK (n : Nat) : Nat := 0x40700100 + 0x1000 * n
/-- CAN_CNT_TXOK, R474. -/
def CAN_CNT_TXOK (n : Nat) : Nat := 0x40700104 + 0x1000 * n
/-- CAN_CNT_RXOVF, R474. -/
def CAN_CNT_RXOVF (n : Nat) : Nat := 0x40700108 + 0x1000 * n
/-- CAN_CNT_BUSOFF, R474. -/
def CAN_CNT_BUSOFF (n : Nat) : Nat := 0x4070010C + 0x1000 * n
/-- XSPI_ID, R527. -/
def XSPI_ID : Nat := 0x40720000
/-- XSPI_CTRL, R527. -/
def XSPI_CTRL : Nat := 0x40720004
/-- XSPI_STAT, R527. -/
def XSPI_STAT : Nat := 0x40720008
/-- XSPI_ERR, R527. -/
def XSPI_ERR : Nat := 0x4072000C
/-- XSPI_OP_W0, R527. -/
def XSPI_OP_W0 : Nat := 0x40720010
/-- XSPI_OP_W1, R527. -/
def XSPI_OP_W1 : Nat := 0x40720014
/-- XSPI_OP_W2, R527. -/
def XSPI_OP_W2 : Nat := 0x40720018
/-- XSPI_OP_W3, R527. -/
def XSPI_OP_W3 : Nat := 0x4072001C
/-- XSPI_OP_W4, R527. -/
def XSPI_OP_W4 : Nat := 0x40720020
/-- XSPI_OP_PUSH, R527. -/
def XSPI_OP_PUSH : Nat := 0x40720024
/-- XSPI_RES, R527. -/
def XSPI_RES : Nat := 0x40720028
/-- XSPI_FIFO, R527. -/
def XSPI_FIFO : Nat := 0x4072002C
/-- XSPI_WP_BASE, R527. -/
def XSPI_WP_BASE (n : Nat) : Nat := 0x40720030 + 0x8 * n
/-- XSPI_WP_SIZE, R527. -/
def XSPI_WP_SIZE (n : Nat) : Nat := 0x40720034 + 0x8 * n
/-- XSPI_CNT_OPS, R527. -/
def XSPI_CNT_OPS : Nat := 0x40720050
/-- XSPI_CNT_FAIL, R527. -/
def XSPI_CNT_FAIL : Nat := 0x40720054
/-- XSPI_CNT_SUSP, R527. -/
def XSPI_CNT_SUSP : Nat := 0x40720058
/-- SYS_ID, R526. -/
def SYS_ID : Nat := 0x407F0000
/-- SYS_CTRL, R526. -/
def SYS_CTRL : Nat := 0x407F0004
/-- SYS_STEPOK, R526. -/
def SYS_STEPOK : Nat := 0x407F0008
/-- SYS_STEPSET, R526. -/
def SYS_STEPSET : Nat := 0x407F000C
/-- SYS_STEPCLR, R526. -/
def SYS_STEPCLR : Nat := 0x407F0010
/-- SYS_READY, R526. -/
def SYS_READY : Nat := 0x407F0014
/-- SYS_RSTCAUSE, R526. -/
def SYS_RSTCAUSE : Nat := 0x407F0018
/-- SYS_RSTCMD, R526. -/
def SYS_RSTCMD : Nat := 0x407F001C
/-- SYS_WDT, R526. -/
def SYS_WDT : Nat := 0x407F0020
/-- SYS_WDT_KICK, R526. -/
def SYS_WDT_KICK : Nat := 0x407F0024
/-- SYS_BOOTSTAT, R526. -/
def SYS_BOOTSTAT : Nat := 0x407F0028
/-- SYS_OTPCNT, R526. -/
def SYS_OTPCNT : Nat := 0x407F002C
/-- SYS_OTPCNT_INC, R526. -/
def SYS_OTPCNT_INC : Nat := 0x407F0030
/-- SYS_AONSCR, R526. -/
def SYS_AONSCR (n : Nat) : Nat := 0x407F0040 + 0x4 * n
/-- SYS_ACCERR, R526. -/
def SYS_ACCERR : Nat := 0x407F0050
/-- SYS_ACCADDR_LO, R526. -/
def SYS_ACCADDR_LO : Nat := 0x407F0054
/-- SYS_ACCADDR_HI, R526. -/
def SYS_ACCADDR_HI : Nat := 0x407F0058
/-- SYS_CLKEN, R526. -/
def SYS_CLKEN : Nat := 0x407F0060
/-- SYS_TEL_TEMP, R526. -/
def SYS_TEL_TEMP : Nat := 0x407F0064
/-- SYS_TEL_VMON, R526. -/
def SYS_TEL_VMON : Nat := 0x407F0068
/-- SYS_TEL_GT_LO, R526. -/
def SYS_TEL_GT_LO : Nat := 0x407F006C
/-- SYS_TEL_GT_HI, R526. -/
def SYS_TEL_GT_HI : Nat := 0x407F0070
/-- SYS_ERR, R526. -/
def SYS_ERR : Nat := 0x407F0074
/-- SYS_ACC, R526. -/
def SYS_ACC (n : Nat) : Nat := 0x407F0100 + 0x4 * n
/-- SYS_ACCPG, R526. -/
def SYS_ACCPG (n : Nat) : Nat := 0x407F0180 + 0x4 * n
/-- SYS_GPIOFN, R526. -/
def SYS_GPIOFN (n : Nat) : Nat := 0x407F0200 + 0x4 * n
/-- SYS_GPIO_OUT_LO, R526. -/
def SYS_GPIO_OUT_LO : Nat := 0x407F0220
/-- SYS_GPIO_OUT_HI, R526. -/
def SYS_GPIO_OUT_HI : Nat := 0x407F0224
/-- SYS_GPIO_OE_LO, R526. -/
def SYS_GPIO_OE_LO : Nat := 0x407F0228
/-- SYS_GPIO_OE_HI, R526. -/
def SYS_GPIO_OE_HI : Nat := 0x407F022C
/-- SYS_GPIO_IN_LO, R526. -/
def SYS_GPIO_IN_LO : Nat := 0x407F0230
/-- SYS_GPIO_IN_HI, R526. -/
def SYS_GPIO_IN_HI : Nat := 0x407F0234

end R

/-- A field of a register: the register's address and the field's highest and lowest bit (R5). -/
structure Fld where
  addr : Nat
  hi : Nat
  lo : Nat
deriving DecidableEq, Repr

namespace F

def GTU_CTRL_ROLE : Fld := ⟨R.GTU_CTRL, 31, 30⟩
def GTU_CTRL_NOM : Fld := ⟨R.GTU_CTRL, 29, 29⟩
def GTU_CTRL_SRC : Fld := ⟨R.GTU_CTRL, 28, 28⟩
def GTU_CTRL_ZXPOL : Fld := ⟨R.GTU_CTRL, 27, 27⟩
def GTU_CTRL_LEARN_K : Fld := ⟨R.GTU_CTRL, 19, 16⟩
def GTU_CTRL_PLL_EN : Fld := ⟨R.GTU_CTRL, 0, 0⟩
def GTU_STAT_STATE : Fld := ⟨R.GTU_STAT, 31, 29⟩
def GTU_STAT_INBAND : Fld := ⟨R.GTU_STAT, 28, 28⟩
def GTU_STAT_PMAP_VALID : Fld := ⟨R.GTU_STAT, 27, 27⟩
def GTU_STAT_BCN_VALID : Fld := ⟨R.GTU_STAT, 26, 26⟩
def GTU_STAT_MISS : Fld := ⟨R.GTU_STAT, 23, 16⟩
def GTU_STAT_LOCKCNT : Fld := ⟨R.GTU_STAT, 15, 0⟩
def GTU_OFS_OFS : Fld := ⟨R.GTU_OFS, 23, 0⟩
def GTU_OFS_INFO_SECTOR : Fld := ⟨R.GTU_OFS_INFO, 27, 24⟩
def GTU_OFS_INFO_RESID : Fld := ⟨R.GTU_OFS_INFO, 23, 0⟩
def GTU_HOLD_QUAL : Fld := ⟨R.GTU_HOLD, 31, 28⟩
def GTU_HOLD_ERR_EST : Fld := ⟨R.GTU_HOLD, 23, 0⟩
def GTU_BCN_CTRL_AUTO : Fld := ⟨R.GTU_BCN_CTRL, 31, 31⟩
def GTU_BCN_CTRL_BSRC : Fld := ⟨R.GTU_BCN_CTRL, 17, 16⟩
def GTU_BCN_CTRL_PROP_NS : Fld := ⟨R.GTU_BCN_CTRL, 15, 0⟩
def GTU_CMD_OPC : Fld := ⟨R.GTU_CMD, 7, 0⟩
def GTU_PMAP_CTRL_COMMIT : Fld := ⟨R.GTU_PMAP_CTRL, 0, 0⟩
def GTU_ERR_ERR : Fld := ⟨R.GTU_ERR, 8, 8⟩
def GTU_ERR_STATUS : Fld := ⟨R.GTU_ERR, 7, 0⟩
def GC_CTRL_ARM (n : Nat) : Fld := ⟨(R.GC_CTRL n), 31, 31⟩
def GC_CTRL_DISARM (n : Nat) : Fld := ⟨(R.GC_CTRL n), 30, 30⟩
def GC_CTRL_MODE (n : Nat) : Fld := ⟨(R.GC_CTRL n), 27, 27⟩
def GC_CTRL_IMM (n : Nat) : Fld := ⟨(R.GC_CTRL n), 26, 26⟩
def GC_CTRL_EVT (n : Nat) : Fld := ⟨(R.GC_CTRL n), 25, 25⟩
def GC_STAT_ARMED (n : Nat) : Fld := ⟨(R.GC_STAT n), 31, 31⟩
def GC_STAT_FIRED (n : Nat) : Fld := ⟨(R.GC_STAT n), 30, 30⟩
def GC_STAT_LATEF (n : Nat) : Fld := ⟨(R.GC_STAT n), 29, 29⟩
def GC_STAT_ABORTF (n : Nat) : Fld := ⟨(R.GC_STAT n), 28, 28⟩
def GC_STAT_STATUS (n : Nat) : Fld := ⟨(R.GC_STAT n), 7, 0⟩
def GC_PER_ANG_ANG (n : Nat) : Fld := ⟨(R.GC_PER_ANG n), 23, 0⟩
def GC_PER_CYC_CYC (n : Nat) : Fld := ⟨(R.GC_PER_CYC n), 15, 0⟩
def GC_TGT_KIND (n : Nat) : Fld := ⟨(R.GC_TGT n), 31, 30⟩
def GC_TGT_ACT (n : Nat) : Fld := ⟨(R.GC_TGT n), 29, 28⟩
def GC_TGT_INDEX (n : Nat) : Fld := ⟨(R.GC_TGT n), 11, 0⟩
def GC_WIDTH_WIDTH (n : Nat) : Fld := ⟨(R.GC_WIDTH n), 15, 0⟩
def EVR_ROUTE_SUB (n : Nat) : Fld := ⟨(R.EVR_ROUTE n), 31, 31⟩
def EVR_ROUTE_PIN (n : Nat) : Fld := ⟨(R.EVR_ROUTE n), 25, 22⟩
def EVR_ROUTE_MCM (n : Nat) : Fld := ⟨(R.EVR_ROUTE n), 15, 10⟩
def EVR_ROUTE_ACM (n : Nat) : Fld := ⟨(R.EVR_ROUTE n), 3, 0⟩
def EVR_CNT_CNT (n : Nat) : Fld := ⟨(R.EVR_CNT n), 15, 0⟩
def EVR_SWSET_SET : Fld := ⟨R.EVR_SWSET, 15, 0⟩
def EVR_PINCFG_PIN3 : Fld := ⟨R.EVR_PINCFG, 13, 12⟩
def EVR_PINCFG_PIN2 : Fld := ⟨R.EVR_PINCFG, 9, 8⟩
def EVR_PINCFG_PIN1 : Fld := ⟨R.EVR_PINCFG, 5, 4⟩
def EVR_PINCFG_PIN0 : Fld := ⟨R.EVR_PINCFG, 1, 0⟩
def EVR_PINW_W : Fld := ⟨R.EVR_PINW, 15, 0⟩
def EVR_SUBSTAT_SUBEN : Fld := ⟨R.EVR_SUBSTAT, 31, 31⟩
def EVR_SUBSTAT_OVF : Fld := ⟨R.EVR_SUBSTAT, 23, 16⟩
def EVR_SUBSTAT_LEVEL : Fld := ⟨R.EVR_SUBSTAT, 6, 0⟩
def EVR_SUB0_VALID : Fld := ⟨R.EVR_SUB0, 31, 31⟩
def EVR_SUB0_COUNT : Fld := ⟨R.EVR_SUB0, 23, 16⟩
def EVR_SUB0_EVENT : Fld := ⟨R.EVR_SUB0, 7, 0⟩
def EVR_ERR_ERR : Fld := ⟨R.EVR_ERR, 8, 8⟩
def EVR_ERR_STATUS : Fld := ⟨R.EVR_ERR, 7, 0⟩
def DMA_CTRL_EN : Fld := ⟨R.DMA_CTRL, 31, 31⟩
def DMA_STAT_IDLE : Fld := ⟨R.DMA_STAT, 31, 31⟩
def DMA_STAT_RUNNING : Fld := ⟨R.DMA_STAT, 23, 16⟩
def DMA_STAT_MOVERS : Fld := ⟨R.DMA_STAT, 3, 0⟩
def DMA_ERR_ERR : Fld := ⟨R.DMA_ERR, 8, 8⟩
def DMA_ERR_STATUS : Fld := ⟨R.DMA_ERR, 7, 0⟩
def CH_CMD_OPC (n : Nat) : Fld := ⟨(R.CH_CMD n), 3, 0⟩
def CH_STAT_STATE (n : Nat) : Fld := ⟨(R.CH_STAT n), 31, 29⟩
def CH_STAT_DONE (n : Nat) : Fld := ⟨(R.CH_STAT n), 28, 28⟩
def CH_STAT_ERRC (n : Nat) : Fld := ⟨(R.CH_STAT n), 27, 27⟩
def CH_STAT_TRIGMISS (n : Nat) : Fld := ⟨(R.CH_STAT n), 26, 26⟩
def CH_STAT_SADF (n : Nat) : Fld := ⟨(R.CH_STAT n), 25, 25⟩
def CH_STAT_PPEND (n : Nat) : Fld := ⟨(R.CH_STAT n), 24, 24⟩
def CH_STAT_SPEND (n : Nat) : Fld := ⟨(R.CH_STAT n), 23, 23⟩
def CH_STAT_LSTATUS (n : Nat) : Fld := ⟨(R.CH_STAT n), 15, 8⟩
def CH_ERR_ERR (n : Nat) : Fld := ⟨(R.CH_ERR n), 8, 8⟩
def CH_ERR_STATUS (n : Nat) : Fld := ⟨(R.CH_ERR n), 7, 0⟩
def CH_DOORBELL_RING (n : Nat) : Fld := ⟨(R.CH_DOORBELL n), 0, 0⟩
def CH_CFG_PRIO (n : Nat) : Fld := ⟨(R.CH_CFG n), 31, 30⟩
def CH_CFG_BURST (n : Nat) : Fld := ⟨(R.CH_CFG n), 29, 26⟩
def CH_CFG_REQ (n : Nat) : Fld := ⟨(R.CH_CFG n), 25, 21⟩
def CH_CFG_TRIG (n : Nat) : Fld := ⟨(R.CH_CFG n), 20, 20⟩
def CH_CFG_SADEV (n : Nat) : Fld := ⟨(R.CH_CFG n), 19, 19⟩
def CH_CFG_IPORT (n : Nat) : Fld := ⟨(R.CH_CFG n), 17, 16⟩
def CH_RING_HI_SIZE (n : Nat) : Fld := ⟨(R.CH_RING_HI n), 11, 8⟩
def CH_RING_HI_BASE (n : Nat) : Fld := ⟨(R.CH_RING_HI n), 3, 0⟩
def CH_HEAD_HEAD (n : Nat) : Fld := ⟨(R.CH_HEAD n), 11, 0⟩
def CH_SCFG_PRIO (n : Nat) : Fld := ⟨(R.CH_SCFG n), 31, 30⟩
def CH_SCFG_BURST (n : Nat) : Fld := ⟨(R.CH_SCFG n), 29, 26⟩
def CH_SCFG_REQ (n : Nat) : Fld := ⟨(R.CH_SCFG n), 25, 21⟩
def CH_SCFG_TRIG (n : Nat) : Fld := ⟨(R.CH_SCFG n), 20, 20⟩
def CH_SCFG_SADEV (n : Nat) : Fld := ⟨(R.CH_SCFG n), 19, 19⟩
def CH_SCFG_IPORT (n : Nat) : Fld := ⟨(R.CH_SCFG n), 17, 16⟩
def CH_SRING_HI_SIZE (n : Nat) : Fld := ⟨(R.CH_SRING_HI n), 11, 8⟩
def CH_SRING_HI_BASE (n : Nat) : Fld := ⟨(R.CH_SRING_HI n), 3, 0⟩
def CH_SHEAD_HEAD (n : Nat) : Fld := ⟨(R.CH_SHEAD n), 11, 0⟩
def CH_SADDLE_ARM (n : Nat) : Fld := ⟨(R.CH_SADDLE n), 31, 31⟩
def CH_SADDLE_TAKEN (n : Nat) : Fld := ⟨(R.CH_SADDLE n), 30, 30⟩
def CH_SADDLE_DIRTY (n : Nat) : Fld := ⟨(R.CH_SADDLE n), 29, 29⟩
def CH_SADDLE_WHEN (n : Nat) : Fld := ⟨(R.CH_SADDLE n), 28, 28⟩
def CH_SADDLE_GEN (n : Nat) : Fld := ⟨(R.CH_SADDLE n), 15, 0⟩
def CH_CNT_LATEWD (n : Nat) : Fld := ⟨(R.CH_CNT n), 31, 16⟩
def CH_CNT_TRIGMISS (n : Nat) : Fld := ⟨(R.CH_CNT n), 15, 0⟩
def SCAN_CTRL_GO : Fld := ⟨R.SCAN_CTRL, 31, 31⟩
def SCAN_CTRL_BUSY : Fld := ⟨R.SCAN_CTRL, 30, 30⟩
def SCAN_CTRL_STOP : Fld := ⟨R.SCAN_CTRL, 29, 29⟩
def SCAN_CTRL_MODE : Fld := ⟨R.SCAN_CTRL, 28, 28⟩
def SCAN_CTRL_CONT : Fld := ⟨R.SCAN_CTRL, 27, 27⟩
def SCAN_CTRL_CMP : Fld := ⟨R.SCAN_CTRL, 26, 26⟩
def SCAN_CTRL_UNIT : Fld := ⟨R.SCAN_CTRL, 19, 16⟩
def SCAN_ADDR_HI_HI : Fld := ⟨R.SCAN_ADDR_HI, 3, 0⟩
def SCAN_ADDR2_HI_HI : Fld := ⟨R.SCAN_ADDR2_HI, 3, 0⟩
def SCAN_RATE_RATE : Fld := ⟨R.SCAN_RATE, 15, 0⟩
def SCAN_RES_MISMATCH : Fld := ⟨R.SCAN_RES, 31, 31⟩
def SCAN_RES_MEMERR : Fld := ⟨R.SCAN_RES, 30, 30⟩
def SCAN_RES_AOK : Fld := ⟨R.SCAN_RES, 29, 29⟩
def SCAN_RES_BOK : Fld := ⟨R.SCAN_RES, 28, 28⟩
def SCAN_RES_TIE : Fld := ⟨R.SCAN_RES, 27, 27⟩
def SCAN_RES_WIN : Fld := ⟨R.SCAN_RES, 25, 24⟩
def SCAN_RES_STATUS : Fld := ⟨R.SCAN_RES, 7, 0⟩
def SCAN_ERRADDR_HI_HI : Fld := ⟨R.SCAN_ERRADDR_HI, 3, 0⟩
def CHK_CFG_BOUND (n : Nat) : Fld := ⟨(R.CHK_CFG n), 31, 31⟩
def CHK_CFG_PRESET (n : Nat) : Fld := ⟨(R.CHK_CFG n), 2, 0⟩
def CHK_PCFG_REFIN (n : Nat) : Fld := ⟨(R.CHK_PCFG n), 31, 31⟩
def CHK_PCFG_REFOUT (n : Nat) : Fld := ⟨(R.CHK_PCFG n), 30, 30⟩
def CHK_PCFG_WIDTH (n : Nat) : Fld := ⟨(R.CHK_PCFG n), 5, 0⟩
def CHK_AUX_ODD (n : Nat) : Fld := ⟨(R.CHK_AUX n), 16, 16⟩
def CHK_AUX_BYTE (n : Nat) : Fld := ⟨(R.CHK_AUX n), 7, 0⟩
def CHK_DATA1_B (n : Nat) : Fld := ⟨(R.CHK_DATA1 n), 7, 0⟩
def CHK_DATA2_H (n : Nat) : Fld := ⟨(R.CHK_DATA2 n), 15, 0⟩
def CHK_CMD_INIT (n : Nat) : Fld := ⟨(R.CHK_CMD n), 0, 0⟩
def CHK_STAT_ERR (n : Nat) : Fld := ⟨(R.CHK_STAT n), 8, 8⟩
def CHK_STAT_STATUS (n : Nat) : Fld := ⟨(R.CHK_STAT n), 7, 0⟩
def CRY_CTRL_EN : Fld := ⟨R.CRY_CTRL, 31, 31⟩
def CRY_STAT_IDLE : Fld := ⟨R.CRY_STAT, 31, 31⟩
def CRY_STAT_ALARM : Fld := ⟨R.CRY_STAT, 30, 30⟩
def CRY_STAT_DBGERASE : Fld := ⟨R.CRY_STAT, 29, 29⟩
def CRY_STAT_HUKBLK : Fld := ⟨R.CRY_STAT, 28, 28⟩
def CRY_STAT_CORES : Fld := ⟨R.CRY_STAT, 27, 24⟩
def CRY_ERR_ERR : Fld := ⟨R.CRY_ERR, 8, 8⟩
def CRY_ERR_STATUS : Fld := ⟨R.CRY_ERR, 7, 0⟩
def CRY_KCMD_OPC : Fld := ⟨R.CRY_KCMD, 31, 24⟩
def CRY_KCMD_TAG : Fld := ⟨R.CRY_KCMD, 23, 16⟩
def CRY_KCMD_SLOT : Fld := ⟨R.CRY_KCMD, 9, 0⟩
def CRY_KARG0_TYPE : Fld := ⟨R.CRY_KARG0, 31, 28⟩
def CRY_KARG0_USAGE : Fld := ⟨R.CRY_KARG0, 23, 16⟩
def CRY_KARG0_KLEN8 : Fld := ⟨R.CRY_KARG0, 14, 10⟩
def CRY_KARG0_KEK : Fld := ⟨R.CRY_KARG0, 9, 0⟩
def CRY_KADDR_HI_HI : Fld := ⟨R.CRY_KADDR_HI, 3, 0⟩
def CRY_KRES_VALID : Fld := ⟨R.CRY_KRES, 31, 31⟩
def CRY_KRES_TAG : Fld := ⟨R.CRY_KRES, 23, 16⟩
def CRY_KRES_OPC : Fld := ⟨R.CRY_KRES, 15, 8⟩
def CRY_KRES_STATUS : Fld := ⟨R.CRY_KRES, 7, 0⟩
def CRY_KRESLVL_LVL : Fld := ⟨R.CRY_KRESLVL, 4, 0⟩
def CRY_KINFO0_STATE : Fld := ⟨R.CRY_KINFO0, 31, 30⟩
def CRY_KINFO0_TYPE : Fld := ⟨R.CRY_KINFO0, 27, 24⟩
def CRY_KINFO0_USAGE : Fld := ⟨R.CRY_KINFO0, 23, 16⟩
def CRY_KINFO0_KLEN8 : Fld := ⟨R.CRY_KINFO0, 14, 10⟩
def CRY_KKCV_KCV : Fld := ⟨R.CRY_KKCV, 23, 0⟩
def CRY_SACMD_OPC : Fld := ⟨R.CRY_SACMD, 31, 24⟩
def CRY_SACMD_TAG : Fld := ⟨R.CRY_SACMD, 23, 16⟩
def CRY_SACMD_SA : Fld := ⟨R.CRY_SACMD, 7, 0⟩
def CRY_SAADDR_HI_HI : Fld := ⟨R.CRY_SAADDR_HI, 3, 0⟩
def CRY_PGCFG_CLRCTX (n : Nat) : Fld := ⟨(R.CRY_PGCFG n), 30, 30⟩
def CRY_PGCFG_PRIO (n : Nat) : Fld := ⟨(R.CRY_PGCFG n), 29, 28⟩
def CRY_PGCFG_MAXC (n : Nat) : Fld := ⟨(R.CRY_PGCFG n), 27, 24⟩
def CRY_PGMW_BASE0_BASE (n : Nat) : Fld := ⟨(R.CRY_PGMW_BASE0 n), 23, 0⟩
def CRY_PGMW_SIZE0_SIZE (n : Nat) : Fld := ⟨(R.CRY_PGMW_SIZE0 n), 23, 0⟩
def CRY_PGMW_BASE1_BASE (n : Nat) : Fld := ⟨(R.CRY_PGMW_BASE1 n), 23, 0⟩
def CRY_PGMW_SIZE1_SIZE (n : Nat) : Fld := ⟨(R.CRY_PGMW_SIZE1 n), 23, 0⟩
def CRY_ALMSTAT_ALM : Fld := ⟨R.CRY_ALMSTAT, 9, 0⟩
def CRY_ALMPOL_POL : Fld := ⟨R.CRY_ALMPOL, 9, 0⟩
def CRY_ALMLOCK_LOCK : Fld := ⟨R.CRY_ALMLOCK, 0, 0⟩
def CRY_ALMCLR_CLR : Fld := ⟨R.CRY_ALMCLR, 0, 0⟩
def CRY_ALMCNT_CNT : Fld := ⟨R.CRY_ALMCNT, 15, 0⟩
def PG_ID_N (n : Nat) : Fld := ⟨(R.PG_ID n), 4, 0⟩
def PG_CMD_OPC (n : Nat) : Fld := ⟨(R.PG_CMD n), 31, 24⟩
def PG_CMD_TAG (n : Nat) : Fld := ⟨(R.PG_CMD n), 23, 16⟩
def PG_CMD_CTX (n : Nat) : Fld := ⟨(R.PG_CMD n), 1, 0⟩
def PG_STAT_STATE (n : Nat) : Fld := ⟨(R.PG_STAT n), 31, 30⟩
def PG_STAT_DONE (n : Nat) : Fld := ⟨(R.PG_STAT n), 29, 29⟩
def PG_STAT_ERRC (n : Nat) : Fld := ⟨(R.PG_STAT n), 28, 28⟩
def PG_STAT_CTXS (n : Nat) : Fld := ⟨(R.PG_STAT n), 23, 20⟩
def PG_STAT_LSTATUS (n : Nat) : Fld := ⟨(R.PG_STAT n), 15, 8⟩
def PG_ERR_ERR (n : Nat) : Fld := ⟨(R.PG_ERR n), 8, 8⟩
def PG_ERR_STATUS (n : Nat) : Fld := ⟨(R.PG_ERR n), 7, 0⟩
def PG_RING_HI_SIZE (n : Nat) : Fld := ⟨(R.PG_RING_HI n), 11, 8⟩
def PG_RING_HI_BASE (n : Nat) : Fld := ⟨(R.PG_RING_HI n), 3, 0⟩
def PG_HEAD_HEAD (n : Nat) : Fld := ⟨(R.PG_HEAD n), 10, 0⟩
def PG_DOORBELL_RING (n : Nat) : Fld := ⟨(R.PG_DOORBELL n), 0, 0⟩
def PG_CTXADDR_HI_HI (n : Nat) : Fld := ⟨(R.PG_CTXADDR_HI n), 3, 0⟩
def PG_CTXFMT_WRAPPED (n : Nat) : Fld := ⟨(R.PG_CTXFMT n), 0, 0⟩
def PG_RES_VALID (n : Nat) : Fld := ⟨(R.PG_RES n), 31, 31⟩
def PG_RES_TAG (n : Nat) : Fld := ⟨(R.PG_RES n), 23, 16⟩
def PG_RES_OPC (n : Nat) : Fld := ⟨(R.PG_RES n), 15, 8⟩
def PG_RES_STATUS (n : Nat) : Fld := ⟨(R.PG_RES n), 7, 0⟩
def PG_CNT_AUTH (n : Nat) : Fld := ⟨(R.PG_CNT n), 31, 16⟩
def PG_CNT_ABORTED (n : Nat) : Fld := ⟨(R.PG_CNT n), 15, 0⟩
def PKE_CTRL_EN : Fld := ⟨R.PKE_CTRL, 31, 31⟩
def PKE_CTRL_PR : Fld := ⟨R.PKE_CTRL, 30, 30⟩
def PKE_STAT_IDLE : Fld := ⟨R.PKE_STAT, 31, 31⟩
def PKE_STAT_ESOK : Fld := ⟨R.PKE_STAT, 30, 30⟩
def PKE_STAT_DRBGOK : Fld := ⟨R.PKE_STAT, 29, 29⟩
def PKE_STAT_QLEVEL : Fld := ⟨R.PKE_STAT, 27, 24⟩
def PKE_STAT_OPC : Fld := ⟨R.PKE_STAT, 7, 0⟩
def PKE_ERR_ERR : Fld := ⟨R.PKE_ERR, 8, 8⟩
def PKE_ERR_STATUS : Fld := ⟨R.PKE_ERR, 7, 0⟩
def PKE_CMD_PUSH_PUSH : Fld := ⟨R.PKE_CMD_PUSH, 0, 0⟩
def PKE_RES_VALID : Fld := ⟨R.PKE_RES, 31, 31⟩
def PKE_RES_TAG : Fld := ⟨R.PKE_RES, 23, 16⟩
def PKE_RES_OPC : Fld := ⟨R.PKE_RES, 15, 8⟩
def PKE_RES_STATUS : Fld := ⟨R.PKE_RES, 7, 0⟩
def PKE_RESLVL_LVL : Fld := ⟨R.PKE_RESLVL, 4, 0⟩
def PKE_RESEEDINT_SEC : Fld := ⟨R.PKE_RESEEDINT, 5, 0⟩
def PKE_DBGSTAT_SCOPE : Fld := ⟨R.PKE_DBGSTAT, 31, 30⟩
def PKE_DBGSTAT_FAIL : Fld := ⟨R.PKE_DBGSTAT, 3, 0⟩
def PKE_MRSEL_SEL : Fld := ⟨R.PKE_MRSEL, 2, 0⟩
def DRC_CTRL_SCRUB : Fld := ⟨R.DRC_CTRL, 31, 31⟩
def DRC_CTRL_SRIDLEEN : Fld := ⟨R.DRC_CTRL, 30, 30⟩
def DRC_CTRL_BLAST2 : Fld := ⟨R.DRC_CTRL, 29, 29⟩
def DRC_CTRL_RFMEN : Fld := ⟨R.DRC_CTRL, 28, 28⟩
def DRC_STAT_STATE : Fld := ⟨R.DRC_STAT, 31, 29⟩
def DRC_STAT_BEHIND : Fld := ⟨R.DRC_STAT, 28, 28⟩
def DRC_STAT_SPEED : Fld := ⟨R.DRC_STAT, 27, 26⟩
def DRC_STAT_RANKS : Fld := ⟨R.DRC_STAT, 25, 25⟩
def DRC_STAT_INWIN : Fld := ⟨R.DRC_STAT, 24, 24⟩
def DRC_STAT_DENS : Fld := ⟨R.DRC_STAT, 23, 20⟩
def DRC_STAT_CHOK : Fld := ⟨R.DRC_STAT, 19, 16⟩
def DRC_ERR_ERR : Fld := ⟨R.DRC_ERR, 8, 8⟩
def DRC_ERR_STATUS : Fld := ⟨R.DRC_ERR, 7, 0⟩
def DRC_CMD_OPC : Fld := ⟨R.DRC_CMD, 31, 24⟩
def DRC_CMD_TAG : Fld := ⟨R.DRC_CMD, 23, 16⟩
def DRC_CMD_SPEED : Fld := ⟨R.DRC_CMD, 1, 0⟩
def DRC_RES_VALID : Fld := ⟨R.DRC_RES, 31, 31⟩
def DRC_RES_TAG : Fld := ⟨R.DRC_RES, 23, 16⟩
def DRC_RES_OPC : Fld := ⟨R.DRC_RES, 15, 8⟩
def DRC_RES_STATUS : Fld := ⟨R.DRC_RES, 7, 0⟩
def DRC_TRSTAT_STEP : Fld := ⟨R.DRC_TRSTAT, 31, 28⟩
def DRC_TRSTAT_CHANS : Fld := ⟨R.DRC_TRSTAT, 27, 24⟩
def DRC_TRSTAT_STATUS : Fld := ⟨R.DRC_TRSTAT, 7, 0⟩
def DRC_TRREC_HI_HI : Fld := ⟨R.DRC_TRREC_HI, 3, 0⟩
def DRC_SRIDLE_US : Fld := ⟨R.DRC_SRIDLE, 13, 0⟩
def DRC_USABLE_N : Fld := ⟨R.DRC_USABLE, 7, 0⟩
def DRC_CLASS_HI_STP : Fld := ⟨R.DRC_CLASS_HI, 11, 10⟩
def DRC_CLASS_HI_INIT : Fld := ⟨R.DRC_CLASS_HI, 9, 0⟩
def DRC_AGE_C2 : Fld := ⟨R.DRC_AGE, 15, 8⟩
def DRC_AGE_C1 : Fld := ⟨R.DRC_AGE, 7, 0⟩
def DRC_HITCAP_CAP : Fld := ⟨R.DRC_HITCAP, 4, 0⟩
def DRC_RAA_THR : Fld := ⟨R.DRC_RAA, 31, 16⟩
def DRC_NREFALM_N : Fld := ⟨R.DRC_NREFALM, 15, 0⟩
def DRC_SCRUBPER_SEC : Fld := ⟨R.DRC_SCRUBPER, 19, 0⟩
def DRC_WINRATE_RATE : Fld := ⟨R.DRC_WINRATE, 12, 0⟩
def DRC_SCRUBPOS_POS : Fld := ⟨R.DRC_SCRUBPOS, 27, 0⟩
def DRC_CEALM_N : Fld := ⟨R.DRC_CEALM, 15, 0⟩
def DRC_DUMP_BASE_MB : Fld := ⟨R.DRC_DUMP_BASE, 15, 0⟩
def DRC_DUMP_SIZE_MB : Fld := ⟨R.DRC_DUMP_SIZE, 8, 0⟩
def DRC_DUMP_RETAINED : Fld := ⟨R.DRC_DUMP, 31, 31⟩
def DRC_DUMP_LOCK : Fld := ⟨R.DRC_DUMP, 30, 30⟩
def DRC_CEADDR_HI_HI : Fld := ⟨R.DRC_CEADDR_HI, 3, 0⟩
def DRC_UEADDR_HI_HI : Fld := ⟨R.DRC_UEADDR_HI, 3, 0⟩
def DRC_UEINFO_INIT : Fld := ⟨R.DRC_UEINFO, 31, 24⟩
def DRC_UEINFO_KIND : Fld := ⟨R.DRC_UEINFO, 7, 0⟩
def DRC_INJ_ADDR_HI_HI : Fld := ⟨R.DRC_INJ_ADDR_HI, 3, 0⟩
def DRC_INJ_CTRL_ARM : Fld := ⟨R.DRC_INJ_CTRL, 31, 31⟩
def DRC_INJ_CTRL_TWO : Fld := ⟨R.DRC_INJ_CTRL, 30, 30⟩
def DRC_INJ_CTRL_BIT2 : Fld := ⟨R.DRC_INJ_CTRL, 14, 8⟩
def DRC_INJ_CTRL_BIT1 : Fld := ⟨R.DRC_INJ_CTRL, 6, 0⟩
def SRM_CTRL_SCRUB : Fld := ⟨R.SRM_CTRL, 31, 31⟩
def SRM_STAT_BEHIND : Fld := ⟨R.SRM_STAT, 31, 31⟩
def SRM_STAT_INWIN : Fld := ⟨R.SRM_STAT, 30, 30⟩
def SRM_STAT_PROG : Fld := ⟨R.SRM_STAT, 15, 0⟩
def SRM_ERR_ERR : Fld := ⟨R.SRM_ERR, 8, 8⟩
def SRM_ERR_STATUS : Fld := ⟨R.SRM_ERR, 7, 0⟩
def SRM_SCRUBPER_SEC : Fld := ⟨R.SRM_SCRUBPER, 15, 0⟩
def SRM_WINRATE_RATE : Fld := ⟨R.SRM_WINRATE, 12, 0⟩
def SRM_POS_POS : Fld := ⟨R.SRM_POS, 24, 0⟩
def SRM_PASSAGE_SEC : Fld := ⟨R.SRM_PASSAGE, 15, 0⟩
def SRM_UEINFO_INIT : Fld := ⟨R.SRM_UEINFO, 31, 24⟩
def SRM_UEINFO_KIND : Fld := ⟨R.SRM_UEINFO, 7, 0⟩
def SRM_CEALM_N : Fld := ⟨R.SRM_CEALM, 15, 0⟩
def SRM_INJ_CTRL_ARM : Fld := ⟨R.SRM_INJ_CTRL, 31, 31⟩
def SRM_INJ_CTRL_TWO : Fld := ⟨R.SRM_INJ_CTRL, 30, 30⟩
def SRM_INJ_CTRL_BIT2 : Fld := ⟨R.SRM_INJ_CTRL, 14, 8⟩
def SRM_INJ_CTRL_BIT1 : Fld := ⟨R.SRM_INJ_CTRL, 6, 0⟩
def PPE_CTRL_EN : Fld := ⟨R.PPE_CTRL, 31, 31⟩
def PPE_CTRL_SPMODE : Fld := ⟨R.PPE_CTRL, 30, 30⟩
def PPE_CTRL_DRAMEN : Fld := ⟨R.PPE_CTRL, 29, 29⟩
def PPE_CTRL_SYMM : Fld := ⟨R.PPE_CTRL, 28, 28⟩
def PPE_STAT_IDLE : Fld := ⟨R.PPE_STAT, 31, 31⟩
def PPE_STAT_DRAMACT : Fld := ⟨R.PPE_STAT, 30, 30⟩
def PPE_STAT_FENCEBUSY : Fld := ⟨R.PPE_STAT, 29, 29⟩
def PPE_STAT_UPDBUSY : Fld := ⟨R.PPE_STAT, 28, 28⟩
def PPE_STAT_INPIPE : Fld := ⟨R.PPE_STAT, 15, 0⟩
def PPE_ERR_ERR : Fld := ⟨R.PPE_ERR, 8, 8⟩
def PPE_ERR_STATUS : Fld := ⟨R.PPE_ERR, 7, 0⟩
def PPE_DRAMBASE_HI_HI : Fld := ⟨R.PPE_DRAMBASE_HI, 3, 0⟩
def PPE_DRAMCFG_DSZ : Fld := ⟨R.PPE_DRAMCFG, 4, 0⟩
def PPE_FENCE_DONE : Fld := ⟨R.PPE_FENCE, 31, 31⟩
def PPE_FENCE_START : Fld := ⟨R.PPE_FENCE, 0, 0⟩
def PPE_HDPPORT_PORT : Fld := ⟨R.PPE_HDPPORT, 15, 0⟩
def PPE_VXLANPORT_PORT : Fld := ⟨R.PPE_VXLANPORT, 15, 0⟩
def PPE_TUNCFG_IPIP : Fld := ⟨R.PPE_TUNCFG, 2, 2⟩
def PPE_TUNCFG_GRE : Fld := ⟨R.PPE_TUNCFG, 1, 1⟩
def PPE_TUNCFG_VXLAN : Fld := ⟨R.PPE_TUNCFG, 0, 0⟩
def PPE_ODD_CSUMCHK : Fld := ⟨R.PPE_ODD, 2, 2⟩
def PPE_ODD_TRUNCPUNT : Fld := ⟨R.PPE_ODD, 1, 1⟩
def PPE_ODD_ODDPUNT : Fld := ⟨R.PPE_ODD, 0, 0⟩
def PPE_MISSQ_SPREAD : Fld := ⟨R.PPE_MISSQ, 31, 31⟩
def PPE_MISSQ_TABLE : Fld := ⟨R.PPE_MISSQ, 18, 16⟩
def PPE_MISSQ_QUEUE : Fld := ⟨R.PPE_MISSQ, 12, 0⟩
def PPE_PUNTQ_SPREAD : Fld := ⟨R.PPE_PUNTQ, 31, 31⟩
def PPE_PUNTQ_TABLE : Fld := ⟨R.PPE_PUNTQ, 18, 16⟩
def PPE_PUNTQ_QUEUE : Fld := ⟨R.PPE_PUNTQ, 12, 0⟩
def PPE_ESPPG_PAGE : Fld := ⟨R.PPE_ESPPG, 4, 0⟩
def PPE_TRAP_EN (n : Nat) : Fld := ⟨(R.PPE_TRAP n), 31, 31⟩
def PPE_TRAP_QUEUE (n : Nat) : Fld := ⟨(R.PPE_TRAP n), 12, 0⟩
def PPE_ALM_MISS : Fld := ⟨R.PPE_ALM, 31, 16⟩
def PPE_ALM_ODD : Fld := ⟨R.PPE_ALM, 15, 0⟩
def PPE_PORTCFG_VRF (n : Nat) : Fld := ⟨(R.PPE_PORTCFG n), 27, 16⟩
def PPE_PORTCFG_PGRP (n : Nat) : Fld := ⟨(R.PPE_PORTCFG n), 5, 4⟩
def PPE_UPD_CMD_OPC : Fld := ⟨R.PPE_UPD_CMD, 31, 28⟩
def PPE_UPD_CMD_DRAM : Fld := ⟨R.PPE_UPD_CMD, 27, 27⟩
def PPE_UPD_CMD_SLOT : Fld := ⟨R.PPE_UPD_CMD, 23, 0⟩
def PPE_UPD_RES_DONE : Fld := ⟨R.PPE_UPD_RES, 31, 31⟩
def PPE_UPD_RES_STATUS : Fld := ⟨R.PPE_UPD_RES, 7, 0⟩
def PPE_PSEL_EN3 (n m : Nat) : Fld := ⟨(R.PPE_PSEL n m), 31, 31⟩
def PPE_PSEL_PROF3 (n m : Nat) : Fld := ⟨(R.PPE_PSEL n m), 27, 24⟩
def PPE_PSEL_EN2 (n m : Nat) : Fld := ⟨(R.PPE_PSEL n m), 23, 23⟩
def PPE_PSEL_PROF2 (n m : Nat) : Fld := ⟨(R.PPE_PSEL n m), 19, 16⟩
def PPE_PSEL_EN1 (n m : Nat) : Fld := ⟨(R.PPE_PSEL n m), 15, 15⟩
def PPE_PSEL_PROF1 (n m : Nat) : Fld := ⟨(R.PPE_PSEL n m), 11, 8⟩
def PPE_PSEL_EN0 (n m : Nat) : Fld := ⟨(R.PPE_PSEL n m), 7, 7⟩
def PPE_PSEL_PROF0 (n m : Nat) : Fld := ⟨(R.PPE_PSEL n m), 3, 0⟩
def PPE_PIPE_TAB_P7 (n : Nat) : Fld := ⟨(R.PPE_PIPE_TAB n), 30, 28⟩
def PPE_PIPE_TAB_P6 (n : Nat) : Fld := ⟨(R.PPE_PIPE_TAB n), 26, 24⟩
def PPE_PIPE_TAB_P5 (n : Nat) : Fld := ⟨(R.PPE_PIPE_TAB n), 22, 20⟩
def PPE_PIPE_TAB_P4 (n : Nat) : Fld := ⟨(R.PPE_PIPE_TAB n), 18, 16⟩
def PPE_PIPE_TAB_P3 (n : Nat) : Fld := ⟨(R.PPE_PIPE_TAB n), 14, 12⟩
def PPE_PIPE_TAB_P2 (n : Nat) : Fld := ⟨(R.PPE_PIPE_TAB n), 10, 8⟩
def PPE_PIPE_TAB_P1 (n : Nat) : Fld := ⟨(R.PPE_PIPE_TAB n), 6, 4⟩
def PPE_PIPE_TAB_P0 (n : Nat) : Fld := ⟨(R.PPE_PIPE_TAB n), 2, 0⟩
def PPE_PROF_INSTR_EN (n m : Nat) : Fld := ⟨(R.PPE_PROF_INSTR n m), 31, 31⟩
def PPE_PROF_INSTR_SRC (n m : Nat) : Fld := ⟨(R.PPE_PROF_INSTR n m), 30, 28⟩
def PPE_PROF_INSTR_OFFSET (n m : Nat) : Fld := ⟨(R.PPE_PROF_INSTR n m), 21, 16⟩
def PPE_PROF_INSTR_LEN (n m : Nat) : Fld := ⟨(R.PPE_PROF_INSTR n m), 4, 0⟩
def PPE_PROF_KLEN_KLEN (n : Nat) : Fld := ⟨(R.PPE_PROF_KLEN n), 7, 0⟩
def PPE_IND_QB (n m : Nat) : Fld := ⟨(R.PPE_IND n m), 28, 16⟩
def PPE_IND_QA (n m : Nat) : Fld := ⟨(R.PPE_IND n m), 12, 0⟩
def PPE_TMPL_W0_CSUM (n : Nat) : Fld := ⟨(R.PPE_TMPL_W0 n), 11, 11⟩
def PPE_TMPL_W0_IPLEN (n : Nat) : Fld := ⟨(R.PPE_TMPL_W0 n), 10, 10⟩
def PPE_TMPL_W0_UDPLEN (n : Nat) : Fld := ⟨(R.PPE_TMPL_W0 n), 9, 9⟩
def PPE_TMPL_W0_IPV6 (n : Nat) : Fld := ⟨(R.PPE_TMPL_W0 n), 8, 8⟩
def PPE_TMPL_W0_LEN (n : Nat) : Fld := ⟨(R.PPE_TMPL_W0 n), 6, 0⟩
def TMG_CTRL_EN : Fld := ⟨R.TMG_CTRL, 31, 31⟩
def TMG_STAT_PORTS : Fld := ⟨R.TMG_STAT, 15, 0⟩
def TMG_ERR_ERR : Fld := ⟨R.TMG_ERR, 8, 8⟩
def TMG_ERR_STATUS : Fld := ⟨R.TMG_ERR, 7, 0⟩
def TMG_SMP_CTRL_EN : Fld := ⟨R.TMG_SMP_CTRL, 31, 31⟩
def TMG_SMP_CTRL_PER : Fld := ⟨R.TMG_SMP_CTRL, 15, 0⟩
def TMG_STALL_US : Fld := ⟨R.TMG_STALL, 23, 0⟩
def TMG_RING_BHI_HI (n : Nat) : Fld := ⟨(R.TMG_RING_BHI n), 3, 0⟩
def TMG_RING_CFG_EN (n : Nat) : Fld := ⟨(R.TMG_RING_CFG n), 31, 31⟩
def TMG_RING_CFG_SIZE (n : Nat) : Fld := ⟨(R.TMG_RING_CFG n), 4, 0⟩
def TMG_DRING_BHI_HI (n : Nat) : Fld := ⟨(R.TMG_DRING_BHI n), 3, 0⟩
def TMG_DRING_CFG_EN (n : Nat) : Fld := ⟨(R.TMG_DRING_CFG n), 31, 31⟩
def TMG_DRING_CFG_SIZE (n : Nat) : Fld := ⟨(R.TMG_DRING_CFG n), 4, 0⟩
def TMG_PORT_CFG_SHEN (n : Nat) : Fld := ⟨(R.TMG_PORT_CFG n), 31, 31⟩
def TMG_PORT_CFG_NSTRICT (n : Nat) : Fld := ⟨(R.TMG_PORT_CFG n), 30, 28⟩
def TMG_PORT_CFG_OVH (n : Nat) : Fld := ⟨(R.TMG_PORT_CFG n), 23, 16⟩
def TMG_PORT_CFG_QUANT (n : Nat) : Fld := ⟨(R.TMG_PORT_CFG n), 15, 0⟩
def TMG_PORT_WIN_USE (n : Nat) : Fld := ⟨(R.TMG_PORT_WIN n), 31, 16⟩
def TMG_PORT_WIN_WIN (n : Nat) : Fld := ⟨(R.TMG_PORT_WIN n), 15, 0⟩
def TMG_PORT_CW_LO_CW3 (n : Nat) : Fld := ⟨(R.TMG_PORT_CW_LO n), 31, 24⟩
def TMG_PORT_CW_LO_CW2 (n : Nat) : Fld := ⟨(R.TMG_PORT_CW_LO n), 23, 16⟩
def TMG_PORT_CW_LO_CW1 (n : Nat) : Fld := ⟨(R.TMG_PORT_CW_LO n), 15, 8⟩
def TMG_PORT_CW_LO_CW0 (n : Nat) : Fld := ⟨(R.TMG_PORT_CW_LO n), 7, 0⟩
def TMG_PORT_CW_HI_CW7 (n : Nat) : Fld := ⟨(R.TMG_PORT_CW_HI n), 31, 24⟩
def TMG_PORT_CW_HI_CW6 (n : Nat) : Fld := ⟨(R.TMG_PORT_CW_HI n), 23, 16⟩
def TMG_PORT_CW_HI_CW5 (n : Nat) : Fld := ⟨(R.TMG_PORT_CW_HI n), 15, 8⟩
def TMG_PORT_CW_HI_CW4 (n : Nat) : Fld := ⟨(R.TMG_PORT_CW_HI n), 7, 0⟩
def TMG_PORT_STALLT_US (n : Nat) : Fld := ⟨(R.TMG_PORT_STALLT n), 23, 0⟩
def TMG_CSHP_CFG_EN (n : Nat) : Fld := ⟨(R.TMG_CSHP_CFG n), 31, 31⟩
def TMG_CSHP_CFG_RATE (n : Nat) : Fld := ⟨(R.TMG_CSHP_CFG n), 27, 0⟩
def TMG_QSHP_CFG_EN (n : Nat) : Fld := ⟨(R.TMG_QSHP_CFG n), 31, 31⟩
def TMG_QSHP_CFG_RATE (n : Nat) : Fld := ⟨(R.TMG_QSHP_CFG n), 27, 0⟩
def QMG_CTRL_EN : Fld := ⟨R.QMG_CTRL, 31, 31⟩
def QMG_STAT_IDLE : Fld := ⟨R.QMG_STAT, 31, 31⟩
def QMG_STAT_QUEUES : Fld := ⟨R.QMG_STAT, 13, 0⟩
def QMG_ERR_ERR : Fld := ⟨R.QMG_ERR, 8, 8⟩
def QMG_ERR_STATUS : Fld := ⟨R.QMG_ERR, 7, 0⟩
def QMG_CMD_PUSH_PUSH : Fld := ⟨R.QMG_CMD_PUSH, 0, 0⟩
def QMG_RES_VALID : Fld := ⟨R.QMG_RES, 31, 31⟩
def QMG_RES_TAG : Fld := ⟨R.QMG_RES, 23, 16⟩
def QMG_RES_OPC : Fld := ⟨R.QMG_RES, 15, 8⟩
def QMG_RES_STATUS : Fld := ⟨R.QMG_RES, 7, 0⟩
def QMG_RESLVL_LVL : Fld := ⟨R.QMG_RESLVL, 4, 0⟩
def QMG_DROPALM_N : Fld := ⟨R.QMG_DROPALM, 15, 0⟩
def QMG_POOL_SHCAP (n : Nat) : Fld := ⟨(R.QMG_POOL n), 31, 16⟩
def QMG_POOL_RSV (n : Nat) : Fld := ⟨(R.QMG_POOL n), 15, 0⟩
def QMG_POOLACT_SHCAP (n : Nat) : Fld := ⟨(R.QMG_POOLACT n), 31, 16⟩
def QMG_POOLACT_RSV (n : Nat) : Fld := ⟨(R.QMG_POOLACT n), 15, 0⟩
def QMG_POOLUSE_SHARED (n : Nat) : Fld := ⟨(R.QMG_POOLUSE n), 31, 16⟩
def QMG_POOLUSE_RSVD (n : Nat) : Fld := ⟨(R.QMG_POOLUSE n), 15, 0⟩
def QMG_POOLAPPLY_APPLY : Fld := ⟨R.QMG_POOLAPPLY, 0, 0⟩
def QMG_SHARED_FREE : Fld := ⟨R.QMG_SHARED, 31, 16⟩
def QMG_SHARED_SIZE : Fld := ⟨R.QMG_SHARED, 15, 0⟩
def QMG_RPOOL_TXSZ (n : Nat) : Fld := ⟨(R.QMG_RPOOL n), 31, 16⟩
def QMG_RPOOL_RXSZ (n : Nat) : Fld := ⟨(R.QMG_RPOOL n), 15, 0⟩
def QMG_RPOOLUSE_TXUSE (n : Nat) : Fld := ⟨(R.QMG_RPOOLUSE n), 31, 16⟩
def QMG_RPOOLUSE_RXUSE (n : Nat) : Fld := ⟨(R.QMG_RPOOLUSE n), 15, 0⟩
def QMG_POL_CFG_EN (n : Nat) : Fld := ⟨(R.QMG_POL_CFG n), 31, 31⟩
def QMG_POL_CFG_RACT (n : Nat) : Fld := ⟨(R.QMG_POL_CFG n), 30, 30⟩
def RFC_CTRL_AUTOCAL (r : Radio) : Fld := ⟨(R.RFC_CTRL r), 31, 31⟩
def RFC_CTRL_DPD_EN (r : Radio) : Fld := ⟨(R.RFC_CTRL r), 30, 30⟩
def RFC_CTRL_CHAINS (r : Radio) : Fld := ⟨(R.RFC_CTRL r), 7, 0⟩
def RFC_STAT_STATE (r : Radio) : Fld := ⟨(R.RFC_STAT r), 31, 29⟩
def RFC_STAT_LOCK (r : Radio) : Fld := ⟨(R.RFC_STAT r), 28, 28⟩
def RFC_STAT_CALRUN (r : Radio) : Fld := ⟨(R.RFC_STAT r), 27, 27⟩
def RFC_STAT_HELD (r : Radio) : Fld := ⟨(R.RFC_STAT r), 26, 26⟩
def RFC_STAT_DPDARM (r : Radio) : Fld := ⟨(R.RFC_STAT r), 25, 25⟩
def RFC_STAT_QLEVEL (r : Radio) : Fld := ⟨(R.RFC_STAT r), 20, 16⟩
def RFC_STAT_ACTREC (r : Radio) : Fld := ⟨(R.RFC_STAT r), 10, 0⟩
def RFC_CMD_PUSH_PUSH (r : Radio) : Fld := ⟨(R.RFC_CMD_PUSH r), 0, 0⟩
def RFC_RES_VALID (r : Radio) : Fld := ⟨(R.RFC_RES r), 31, 31⟩
def RFC_RES_TAG (r : Radio) : Fld := ⟨(R.RFC_RES r), 23, 16⟩
def RFC_RES_OPC (r : Radio) : Fld := ⟨(R.RFC_RES r), 15, 8⟩
def RFC_RES_STATUS (r : Radio) : Fld := ⟨(R.RFC_RES r), 7, 0⟩
def RFC_RESLVL_LVL (r : Radio) : Fld := ⟨(R.RFC_RESLVL r), 4, 0⟩
def RFC_ERR_ERR (r : Radio) : Fld := ⟨(R.RFC_ERR r), 8, 8⟩
def RFC_ERR_STATUS (r : Radio) : Fld := ⟨(R.RFC_ERR r), 7, 0⟩
def RFC_DLDEF_US (r : Radio) : Fld := ⟨(R.RFC_DLDEF r), 15, 0⟩
def RFC_TEMP_T (r : Radio) : Fld := ⟨(R.RFC_TEMP r), 15, 0⟩
def RFC_CALDUE_DPD (r : Radio) : Fld := ⟨(R.RFC_CALDUE r), 4, 4⟩
def RFC_CALDUE_DCO (r : Radio) : Fld := ⟨(R.RFC_CALDUE r), 3, 3⟩
def RFC_CALDUE_FBW (r : Radio) : Fld := ⟨(R.RFC_CALDUE r), 2, 2⟩
def RFC_CALDUE_IQ (r : Radio) : Fld := ⟨(R.RFC_CALDUE r), 1, 1⟩
def RFC_CALDUE_OSC (r : Radio) : Fld := ⟨(R.RFC_CALDUE r), 0, 0⟩
def RFC_CALSTAT_FAIL (r : Radio) : Fld := ⟨(R.RFC_CALSTAT r), 31, 28⟩
def RFC_CALSTAT_PART (r : Radio) : Fld := ⟨(R.RFC_CALSTAT r), 27, 24⟩
def RFC_CALSTAT_STATUS (r : Radio) : Fld := ⟨(R.RFC_CALSTAT r), 15, 8⟩
def RFC_CALSTAT_REMAIN (r : Radio) : Fld := ⟨(R.RFC_CALSTAT r), 7, 0⟩
def RFC_CALAGE_SEC (r : Radio) : Fld := ⟨(R.RFC_CALAGE r), 15, 0⟩
def RFC_CALPER_SEC (r : Radio) : Fld := ⟨(R.RFC_CALPER r), 7, 0⟩
def RFC_CALGRACE_SEC (r : Radio) : Fld := ⟨(R.RFC_CALGRACE r), 7, 0⟩
def RFC_CALTHR_DCO (r : Radio) : Fld := ⟨(R.RFC_CALTHR r), 23, 16⟩
def RFC_CALTHR_FBW (r : Radio) : Fld := ⟨(R.RFC_CALTHR r), 15, 8⟩
def RFC_CALTHR_IQ (r : Radio) : Fld := ⟨(R.RFC_CALTHR r), 7, 0⟩
def RFC_REC_ACT_GEN (r : Radio) : Fld := ⟨(R.RFC_REC_ACT r), 31, 16⟩
def RFC_REC_ACT_INDEX (r : Radio) : Fld := ⟨(R.RFC_REC_ACT r), 10, 0⟩
def RFC_REC_NEXT_VALID (r : Radio) : Fld := ⟨(R.RFC_REC_NEXT r), 31, 31⟩
def RFC_REC_NEXT_GEN (r : Radio) : Fld := ⟨(R.RFC_REC_NEXT r), 30, 16⟩
def RFC_REC_NEXT_INDEX (r : Radio) : Fld := ⟨(R.RFC_REC_NEXT r), 10, 0⟩
def RFC_FEMT0_TRSW_LEAD (r : Radio) : Fld := ⟨(R.RFC_FEMT0 r), 31, 16⟩
def RFC_FEMT0_PA_LEAD (r : Radio) : Fld := ⟨(R.RFC_FEMT0 r), 15, 0⟩
def RFC_FEMT1_PA_LAG (r : Radio) : Fld := ⟨(R.RFC_FEMT1 r), 31, 16⟩
def RFC_FEMT1_TRSW_LAG (r : Radio) : Fld := ⟨(R.RFC_FEMT1 r), 15, 0⟩
def RFC_FEMT2_LNA_LAG (r : Radio) : Fld := ⟨(R.RFC_FEMT2 r), 31, 16⟩
def RFC_FEMT2_PATH_DLY (r : Radio) : Fld := ⟨(R.RFC_FEMT2 r), 15, 0⟩
def RFC_DPD_CTRL_PMIN (r : Radio) : Fld := ⟨(R.RFC_DPD_CTRL r), 15, 8⟩
def RFC_DPD_CTRL_NMAX (r : Radio) : Fld := ⟨(R.RFC_DPD_CTRL r), 7, 0⟩
def RFC_DPD_TMO_MS (r : Radio) : Fld := ⟨(R.RFC_DPD_TMO r), 15, 0⟩
def RFC_DPD_SEL_EN (r : Radio) (n : Nat) : Fld := ⟨(R.RFC_DPD_SEL r n), 31, 31⟩
def RFC_DPD_SEL_MODEL (r : Radio) (n : Nat) : Fld := ⟨(R.RFC_DPD_SEL r n), 9, 0⟩
def RFC_DPD_GEN_GEN (r : Radio) (n : Nat) : Fld := ⟨(R.RFC_DPD_GEN r n), 15, 0⟩
def RFC_CNT_STATE_N (r : Radio) : Fld := ⟨(R.RFC_CNT_STATE r), 15, 0⟩
def RFC_CNT_LATE_N (r : Radio) : Fld := ⟨(R.RFC_CNT_LATE r), 15, 0⟩
def RFC_CNT_HELD_N (r : Radio) : Fld := ⟨(R.RFC_CNT_HELD r), 15, 0⟩
def RFC_CNT_LOCKLOSS_N (r : Radio) : Fld := ⟨(R.RFC_CNT_LOCKLOSS r), 15, 0⟩
def RFC_CNT_RECBAD_N (r : Radio) : Fld := ⟨(R.RFC_CNT_RECBAD r), 15, 0⟩
def RFC_CNT_CALPRE_N (r : Radio) : Fld := ⟨(R.RFC_CNT_CALPRE r), 15, 0⟩
def RFC_CNT_RESOVF_N (r : Radio) : Fld := ⟨(R.RFC_CNT_RESOVF r), 15, 0⟩
def MDM_CTRL_MIDCAP (r : Radio) : Fld := ⟨(R.MDM_CTRL r), 31, 31⟩
def MDM_CTRL_CLIPRST (r : Radio) : Fld := ⟨(R.MDM_CTRL r), 30, 30⟩
def MDM_CTRL_SMOOTH (r : Radio) : Fld := ⟨(R.MDM_CTRL r), 29, 29⟩
def MDM_CTRL_PRIM (r : Radio) : Fld := ⟨(R.MDM_CTRL r), 23, 16⟩
def MDM_STAT_PHASE (r : Radio) : Fld := ⟨(R.MDM_STAT r), 31, 28⟩
def MDM_STAT_RSTARM (r : Radio) : Fld := ⟨(R.MDM_STAT r), 27, 27⟩
def MDM_STAT_DETPWR (r : Radio) : Fld := ⟨(R.MDM_STAT r), 23, 16⟩
def MDM_ERR_ERR (r : Radio) : Fld := ⟨(R.MDM_ERR r), 8, 8⟩
def MDM_ERR_STATUS (r : Radio) : Fld := ⟨(R.MDM_ERR r), 7, 0⟩
def MDM_CAPM_M (r : Radio) : Fld := ⟨(R.MDM_CAPM r), 7, 0⟩
def MDM_DETTHR_T (r : Radio) : Fld := ⟨(R.MDM_DETTHR r), 7, 0⟩
def MDM_EDTHR_T (r : Radio) : Fld := ⟨(R.MDM_EDTHR r), 7, 0⟩
def MDM_RXDLY_NS (r : Radio) : Fld := ⟨(R.MDM_RXDLY r), 15, 0⟩
def MDM_LDPC_FLOOR (r : Radio) : Fld := ⟨(R.MDM_LDPC r), 11, 8⟩
def MDM_LDPC_MAXIT (r : Radio) : Fld := ⟨(R.MDM_LDPC r), 3, 0⟩
def MDM_CFR_EN (r : Radio) : Fld := ⟨(R.MDM_CFR r), 31, 31⟩
def MDM_CFR_MAXMCS (r : Radio) : Fld := ⟨(R.MDM_CFR r), 11, 8⟩
def MDM_CFR_PAPR (r : Radio) : Fld := ⟨(R.MDM_CFR r), 7, 0⟩
def MDM_TXCAP_B3 (r : Radio) (n : Nat) : Fld := ⟨(R.MDM_TXCAP r n), 31, 24⟩
def MDM_TXCAP_B2 (r : Radio) (n : Nat) : Fld := ⟨(R.MDM_TXCAP r n), 23, 16⟩
def MDM_TXCAP_B1 (r : Radio) (n : Nat) : Fld := ⟨(R.MDM_TXCAP r n), 15, 8⟩
def MDM_TXCAP_B0 (r : Radio) (n : Nat) : Fld := ⟨(R.MDM_TXCAP r n), 7, 0⟩
def MDM_NODPDCAP_CAP (r : Radio) : Fld := ⟨(R.MDM_NODPDCAP r), 7, 0⟩
def MDM_CCA_ENERGY (r : Radio) : Fld := ⟨(R.MDM_CCA r), 31, 16⟩
def MDM_CCA_PREAMBLE (r : Radio) : Fld := ⟨(R.MDM_CCA r), 15, 0⟩
def MDM_NOISE_NF (r : Radio) : Fld := ⟨(R.MDM_NOISE r), 15, 0⟩
def MDM_NFALM_L (r : Radio) : Fld := ⟨(R.MDM_NFALM r), 7, 0⟩
def MDM_RXALM_N (r : Radio) : Fld := ⟨(R.MDM_RXALM r), 15, 0⟩
def MDM_SMODE_MODE (r : Radio) : Fld := ⟨(R.MDM_SMODE r), 3, 0⟩
def MDM_LASTTX_PWR (r : Radio) : Fld := ⟨(R.MDM_LASTTX r), 31, 24⟩
def MDM_LASTTX_TAG (r : Radio) : Fld := ⟨(R.MDM_LASTTX r), 23, 16⟩
def MDM_LASTTX_STATUS (r : Radio) : Fld := ⟨(R.MDM_LASTTX r), 7, 0⟩
def MAC_CTRL_SLOT (r : WRadio) : Fld := ⟨(R.MAC_CTRL r), 31, 31⟩
def MAC_CTRL_SREN (r : WRadio) : Fld := ⟨(R.MAC_CTRL r), 30, 30⟩
def MAC_STAT_STATE (r : WRadio) : Fld := ⟨(R.MAC_STAT r), 31, 30⟩
def MAC_STAT_MESHN (r : WRadio) : Fld := ⟨(R.MAC_STAT r), 21, 16⟩
def MAC_STAT_BSSACT (r : WRadio) : Fld := ⟨(R.MAC_STAT r), 15, 0⟩
def MAC_ERR_ERR (r : WRadio) : Fld := ⟨(R.MAC_ERR r), 8, 8⟩
def MAC_ERR_STATUS (r : WRadio) : Fld := ⟨(R.MAC_ERR r), 7, 0⟩
def MAC_CMD_PUSH_PUSH (r : WRadio) : Fld := ⟨(R.MAC_CMD_PUSH r), 0, 0⟩
def MAC_RES_VALID (r : WRadio) : Fld := ⟨(R.MAC_RES r), 31, 31⟩
def MAC_RES_TAG (r : WRadio) : Fld := ⟨(R.MAC_RES r), 23, 16⟩
def MAC_RES_OPC (r : WRadio) : Fld := ⟨(R.MAC_RES r), 15, 8⟩
def MAC_RES_STATUS (r : WRadio) : Fld := ⟨(R.MAC_RES r), 7, 0⟩
def MAC_RESLVL_LVL (r : WRadio) : Fld := ⟨(R.MAC_RESLVL r), 4, 0⟩
def MAC_CRYPG_PAGE (r : WRadio) : Fld := ⟨(R.MAC_CRYPG r), 4, 0⟩
def MAC_BCNCTRL_GTE (r : WRadio) : Fld := ⟨(R.MAC_BCNCTRL r), 31, 31⟩
def MAC_BCNCTRL_DTIM (r : WRadio) : Fld := ⟨(R.MAC_BCNCTRL r), 23, 16⟩
def MAC_BCNCTRL_BI (r : WRadio) : Fld := ⟨(R.MAC_BCNCTRL r), 15, 0⟩
def MAC_BCNMAXDLY_US (r : WRadio) : Fld := ⟨(R.MAC_BCNMAXDLY r), 15, 0⟩
def MAC_PARENT_HI_A (r : WRadio) : Fld := ⟨(R.MAC_PARENT_HI r), 15, 0⟩
def MAC_EDCA_BE_TXOP (r : WRadio) : Fld := ⟨(R.MAC_EDCA_BE r), 27, 16⟩
def MAC_EDCA_BE_AIFSN (r : WRadio) : Fld := ⟨(R.MAC_EDCA_BE r), 11, 8⟩
def MAC_EDCA_BE_ECWMAX (r : WRadio) : Fld := ⟨(R.MAC_EDCA_BE r), 7, 4⟩
def MAC_EDCA_BE_ECWMIN (r : WRadio) : Fld := ⟨(R.MAC_EDCA_BE r), 3, 0⟩
def MAC_EDCA_BK_TXOP (r : WRadio) : Fld := ⟨(R.MAC_EDCA_BK r), 27, 16⟩
def MAC_EDCA_BK_AIFSN (r : WRadio) : Fld := ⟨(R.MAC_EDCA_BK r), 11, 8⟩
def MAC_EDCA_BK_ECWMAX (r : WRadio) : Fld := ⟨(R.MAC_EDCA_BK r), 7, 4⟩
def MAC_EDCA_BK_ECWMIN (r : WRadio) : Fld := ⟨(R.MAC_EDCA_BK r), 3, 0⟩
def MAC_EDCA_VI_TXOP (r : WRadio) : Fld := ⟨(R.MAC_EDCA_VI r), 27, 16⟩
def MAC_EDCA_VI_AIFSN (r : WRadio) : Fld := ⟨(R.MAC_EDCA_VI r), 11, 8⟩
def MAC_EDCA_VI_ECWMAX (r : WRadio) : Fld := ⟨(R.MAC_EDCA_VI r), 7, 4⟩
def MAC_EDCA_VI_ECWMIN (r : WRadio) : Fld := ⟨(R.MAC_EDCA_VI r), 3, 0⟩
def MAC_EDCA_VO_TXOP (r : WRadio) : Fld := ⟨(R.MAC_EDCA_VO r), 27, 16⟩
def MAC_EDCA_VO_AIFSN (r : WRadio) : Fld := ⟨(R.MAC_EDCA_VO r), 11, 8⟩
def MAC_EDCA_VO_ECWMAX (r : WRadio) : Fld := ⟨(R.MAC_EDCA_VO r), 7, 4⟩
def MAC_EDCA_VO_ECWMIN (r : WRadio) : Fld := ⟨(R.MAC_EDCA_VO r), 3, 0⟩
def MAC_RETRY_LIFE (r : WRadio) : Fld := ⟨(R.MAC_RETRY r), 31, 16⟩
def MAC_RETRY_LIMIT (r : WRadio) : Fld := ⟨(R.MAC_RETRY r), 4, 0⟩
def MAC_ROTMO_MS (r : WRadio) : Fld := ⟨(R.MAC_ROTMO r), 15, 0⟩
def MAC_MLCTRL_LINKS (r : WRadio) : Fld := ⟨(R.MAC_MLCTRL r), 2, 0⟩
def MAC_TWTSLIP_US (r : WRadio) : Fld := ⟨(R.MAC_TWTSLIP r), 15, 0⟩
def MAC_SNDAGE_MS (r : WRadio) : Fld := ⟨(R.MAC_SNDAGE r), 15, 0⟩
def MAC_OBSSPD_DBM (r : WRadio) : Fld := ⟨(R.MAC_OBSSPD r), 7, 0⟩
def MAC_DROPALM_N (r : WRadio) : Fld := ⟨(R.MAC_DROPALM r), 15, 0⟩
def MAC_NOTCH_CTRL_EN (r : WRadio) : Fld := ⟨(R.MAC_NOTCH_CTRL r), 31, 31⟩
def MAC_NOTCH_CTRL_TRIM (r : WRadio) : Fld := ⟨(R.MAC_NOTCH_CTRL r), 30, 30⟩
def MAC_NOTCH_CTRL_OMODE (r : WRadio) : Fld := ⟨(R.MAC_NOTCH_CTRL r), 29, 29⟩
def MAC_NOTCH_CTRL_MISPOL (r : WRadio) : Fld := ⟨(R.MAC_NOTCH_CTRL r), 28, 28⟩
def MAC_NOTCH_CTRL_OPWR (r : WRadio) : Fld := ⟨(R.MAC_NOTCH_CTRL r), 23, 16⟩
def MAC_NOTCH_CTRL_OBW (r : WRadio) : Fld := ⟨(R.MAC_NOTCH_CTRL r), 15, 12⟩
def MAC_NOTCH_CTRL_PEXP (r : WRadio) : Fld := ⟨(R.MAC_NOTCH_CTRL r), 2, 0⟩
def MAC_NOTCH_GUARD_G (r : WRadio) : Fld := ⟨(R.MAC_NOTCH_GUARD r), 23, 0⟩
def MAC_NOTCH_STAT_ACTIVE (r : WRadio) : Fld := ⟨(R.MAC_NOTCH_STAT r), 31, 31⟩
def MAC_NOTCH_STAT_SUSP (r : WRadio) : Fld := ⟨(R.MAC_NOTCH_STAT r), 30, 30⟩
def MAC_NOTCH_STAT_OVL (r : WRadio) : Fld := ⟨(R.MAC_NOTCH_STAT r), 29, 29⟩
def MAC_NOTCH_STAT_MIS (r : WRadio) : Fld := ⟨(R.MAC_NOTCH_STAT r), 28, 28⟩
def MAC_NOTCH_STAT_INWIN (r : WRadio) : Fld := ⟨(R.MAC_NOTCH_STAT r), 27, 27⟩
def MAC_NOTCH_STAT_PEND (r : WRadio) : Fld := ⟨(R.MAC_NOTCH_STAT r), 26, 26⟩
def MAC_NOTCH_STAT_UNIT (r : WRadio) : Fld := ⟨(R.MAC_NOTCH_STAT r), 5, 0⟩
def MAC_NOTCH_MINTX_US (r : WRadio) : Fld := ⟨(R.MAC_NOTCH_MINTX r), 15, 0⟩
def MAC_NOTCH_PCTRL_EN (r : WRadio) : Fld := ⟨(R.MAC_NOTCH_PCTRL r), 31, 31⟩
def MAC_NOTCH_PCTRL_TRIM (r : WRadio) : Fld := ⟨(R.MAC_NOTCH_PCTRL r), 30, 30⟩
def MAC_NOTCH_PCTRL_OMODE (r : WRadio) : Fld := ⟨(R.MAC_NOTCH_PCTRL r), 29, 29⟩
def MAC_NOTCH_PCTRL_MISPOL (r : WRadio) : Fld := ⟨(R.MAC_NOTCH_PCTRL r), 28, 28⟩
def MAC_NOTCH_PCTRL_OPWR (r : WRadio) : Fld := ⟨(R.MAC_NOTCH_PCTRL r), 23, 16⟩
def MAC_NOTCH_PCTRL_OBW (r : WRadio) : Fld := ⟨(R.MAC_NOTCH_PCTRL r), 15, 12⟩
def MAC_NOTCH_PCTRL_PEXP (r : WRadio) : Fld := ⟨(R.MAC_NOTCH_PCTRL r), 2, 0⟩
def MAC_NOTCH_PGUARD_G (r : WRadio) : Fld := ⟨(R.MAC_NOTCH_PGUARD r), 23, 0⟩
def MAC_NOTCH_ACT_HI_C (r : WRadio) : Fld := ⟨(R.MAC_NOTCH_ACT_HI r), 7, 0⟩
def FMAC_CTRL_JOIN : Fld := ⟨R.FMAC_CTRL, 31, 31⟩
def FMAC_CTRL_PENDL : Fld := ⟨R.FMAC_CTRL, 30, 30⟩
def FMAC_STAT_STATE : Fld := ⟨R.FMAC_STAT, 31, 30⟩
def FMAC_STAT_PARENT : Fld := ⟨R.FMAC_STAT, 29, 29⟩
def FMAC_STAT_UP : Fld := ⟨R.FMAC_STAT, 28, 28⟩
def FMAC_STAT_USTATE : Fld := ⟨R.FMAC_STAT, 27, 25⟩
def FMAC_STAT_SCHPEND : Fld := ⟨R.FMAC_STAT, 24, 24⟩
def FMAC_STAT_REGION : Fld := ⟨R.FMAC_STAT, 23, 22⟩
def FMAC_STAT_LL : Fld := ⟨R.FMAC_STAT, 21, 21⟩
def FMAC_STAT_SLOT : Fld := ⟨R.FMAC_STAT, 9, 0⟩
def FMAC_ERR_ERR : Fld := ⟨R.FMAC_ERR, 8, 8⟩
def FMAC_ERR_STATUS : Fld := ⟨R.FMAC_ERR, 7, 0⟩
def FMAC_CMD_PUSH_PUSH : Fld := ⟨R.FMAC_CMD_PUSH, 0, 0⟩
def FMAC_RES_VALID : Fld := ⟨R.FMAC_RES, 31, 31⟩
def FMAC_RES_TAG : Fld := ⟨R.FMAC_RES, 23, 16⟩
def FMAC_RES_OPC : Fld := ⟨R.FMAC_RES, 15, 8⟩
def FMAC_RES_STATUS : Fld := ⟨R.FMAC_RES, 7, 0⟩
def FMAC_RESLVL_LVL : Fld := ⟨R.FMAC_RESLVL, 4, 0⟩
def FMAC_CRYPG_PAGE : Fld := ⟨R.FMAC_CRYPG, 4, 0⟩
def FMAC_SF_N1 : Fld := ⟨R.FMAC_SF, 29, 24⟩
def FMAC_SF_BSLEN : Fld := ⟨R.FMAC_SF, 23, 20⟩
def FMAC_SF_BSLOT : Fld := ⟨R.FMAC_SF, 19, 16⟩
def FMAC_PLAIN_PLN : Fld := ⟨R.FMAC_PLAIN, 26, 16⟩
def FMAC_PLAIN_PLF : Fld := ⟨R.FMAC_PLAIN, 9, 0⟩
def FMAC_PASS_PSN : Fld := ⟨R.FMAC_PASS, 26, 16⟩
def FMAC_PASS_PSF : Fld := ⟨R.FMAC_PASS, 9, 0⟩
def FMAC_CHAN_REC : Fld := ⟨R.FMAC_CHAN, 10, 0⟩
def FMAC_PSF_N1 : Fld := ⟨R.FMAC_PSF, 29, 24⟩
def FMAC_PSF_BSLEN : Fld := ⟨R.FMAC_PSF, 23, 20⟩
def FMAC_PSF_BSLOT : Fld := ⟨R.FMAC_PSF, 19, 16⟩
def FMAC_PPLAIN_PLN : Fld := ⟨R.FMAC_PPLAIN, 26, 16⟩
def FMAC_PPLAIN_PLF : Fld := ⟨R.FMAC_PPLAIN, 9, 0⟩
def FMAC_PPASS_PSN : Fld := ⟨R.FMAC_PPASS, 26, 16⟩
def FMAC_PPASS_PSF : Fld := ⟨R.FMAC_PPASS, 9, 0⟩
def FMAC_PCHAN_REC : Fld := ⟨R.FMAC_PCHAN, 10, 0⟩
def FMAC_ACT_HI_C : Fld := ⟨R.FMAC_ACT_HI, 7, 0⟩
def FMAC_NETID_ID : Fld := ⟨R.FMAC_NETID, 15, 0⟩
def FMAC_SADDR_A : Fld := ⟨R.FMAC_SADDR, 15, 0⟩
def FMAC_KEYS_JOIN : Fld := ⟨R.FMAC_KEYS, 25, 16⟩
def FMAC_KEYS_NET : Fld := ⟨R.FMAC_KEYS, 9, 0⟩
def FMAC_MODES_BCN : Fld := ⟨R.FMAC_MODES, 31, 24⟩
def FMAC_MODES_PASS : Fld := ⟨R.FMAC_MODES, 23, 16⟩
def FMAC_TXOFS_OFS : Fld := ⟨R.FMAC_TXOFS, 23, 0⟩
def FMAC_TURN_US : Fld := ⟨R.FMAC_TURN, 15, 0⟩
def FMAC_GBASE_G : Fld := ⟨R.FMAC_GBASE, 23, 0⟩
def FMAC_GMAX_G : Fld := ⟨R.FMAC_GMAX, 23, 0⟩
def FMAC_GFALL_G : Fld := ⟨R.FMAC_GFALL, 23, 0⟩
def FMAC_HOLD_SF : Fld := ⟨R.FMAC_HOLD, 7, 0⟩
def FMAC_DLTRY_N : Fld := ⟨R.FMAC_DLTRY, 3, 0⟩
def FMAC_PATH_PCBASE : Fld := ⟨R.FMAC_PATH, 31, 16⟩
def FMAC_PATH_MAXDEPTH : Fld := ⟨R.FMAC_PATH, 11, 8⟩
def FMAC_PATH_HOPPEN : Fld := ⟨R.FMAC_PATH, 7, 0⟩
def FMAC_PENDMAX_N : Fld := ⟨R.FMAC_PENDMAX, 3, 0⟩
def FMAC_LLRETRY_SF : Fld := ⟨R.FMAC_LLRETRY, 7, 0⟩
def FMAC_UP_CTRL_REC : Fld := ⟨R.FMAC_UP_CTRL, 26, 16⟩
def FMAC_UP_CTRL_BLI : Fld := ⟨R.FMAC_UP_CTRL, 15, 8⟩
def FMAC_UP_PARENT_NETID : Fld := ⟨R.FMAC_UP_PARENT, 31, 16⟩
def FMAC_UP_PARENT_SADDR : Fld := ⟨R.FMAC_UP_PARENT, 15, 0⟩
def FMAC_UP_SF_N1 : Fld := ⟨R.FMAC_UP_SF, 29, 24⟩
def FMAC_UP_SF_BSLEN : Fld := ⟨R.FMAC_UP_SF, 23, 20⟩
def FMAC_UP_SF_BSLOT : Fld := ⟨R.FMAC_UP_SF, 19, 16⟩
def FMAC_UP_ASSIGN_VALID : Fld := ⟨R.FMAC_UP_ASSIGN, 31, 31⟩
def FMAC_UP_ASSIGN_A : Fld := ⟨R.FMAC_UP_ASSIGN, 29, 0⟩
def FMAC_UP_MODE_POLL : Fld := ⟨R.FMAC_UP_MODE, 15, 8⟩
def FMAC_UP_MODE_BCN : Fld := ⟨R.FMAC_UP_MODE, 7, 0⟩
def FMAC_UP_KEY_SLOT : Fld := ⟨R.FMAC_UP_KEY, 9, 0⟩
def FMAC_UP_DRIFT_DRIFT : Fld := ⟨R.FMAC_UP_DRIFT, 31, 16⟩
def FMAC_UP_DRIFT_RESID : Fld := ⟨R.FMAC_UP_DRIFT, 15, 0⟩
def FMAC_UP_TC_TC : Fld := ⟨R.FMAC_UP_TC, 15, 0⟩
def FMAC_UP_SEL_VALID : Fld := ⟨R.FMAC_UP_SEL, 31, 31⟩
def FMAC_UP_SEL_ENTRY : Fld := ⟨R.FMAC_UP_SEL, 2, 0⟩
def FMAC_UP_MISC_RSSIMIN : Fld := ⟨R.FMAC_UP_MISC, 31, 24⟩
def FMAC_UP_MISC_AGE : Fld := ⟨R.FMAC_UP_MISC, 15, 0⟩
def FMAC_PTAB_W0_VALID (n : Nat) : Fld := ⟨(R.FMAC_PTAB_W0 n), 31, 31⟩
def FMAC_PTAB_W0_CUR (n : Nat) : Fld := ⟨(R.FMAC_PTAB_W0 n), 30, 30⟩
def FMAC_PTAB_W0_RDEPTH (n : Nat) : Fld := ⟨(R.FMAC_PTAB_W0 n), 27, 24⟩
def FMAC_PTAB_W0_TDEPTH (n : Nat) : Fld := ⟨(R.FMAC_PTAB_W0 n), 23, 16⟩
def FMAC_PTAB_W0_SADDR (n : Nat) : Fld := ⟨(R.FMAC_PTAB_W0 n), 15, 0⟩
def FMAC_PTAB_W1_NETID (n : Nat) : Fld := ⟨(R.FMAC_PTAB_W1 n), 31, 16⟩
def FMAC_PTAB_W1_CHAN (n : Nat) : Fld := ⟨(R.FMAC_PTAB_W1 n), 10, 0⟩
def FMAC_PTAB_W2_PCOST (n : Nat) : Fld := ⟨(R.FMAC_PTAB_W2 n), 31, 16⟩
def FMAC_PTAB_W2_RSSI (n : Nat) : Fld := ⟨(R.FMAC_PTAB_W2 n), 15, 8⟩
def FMAC_PTAB_W2_RR (n : Nat) : Fld := ⟨(R.FMAC_PTAB_W2 n), 7, 0⟩
def FMAC_PTAB_W3_TOTAL (n : Nat) : Fld := ⟨(R.FMAC_PTAB_W3 n), 31, 16⟩
def FMAC_PTAB_W3_N1 (n : Nat) : Fld := ⟨(R.FMAC_PTAB_W3 n), 13, 8⟩
def FMAC_PTAB_W3_BSLOT (n : Nat) : Fld := ⟨(R.FMAC_PTAB_W3 n), 3, 0⟩
def FMAC_DW_CTRL_EN (n : Nat) : Fld := ⟨(R.FMAC_DW_CTRL n), 31, 31⟩
def FMAC_DW_CTRL_PERCH (n : Nat) : Fld := ⟨(R.FMAC_DW_CTRL n), 30, 30⟩
def FMAC_DW_CTRL_FLO (n : Nat) : Fld := ⟨(R.FMAC_DW_CTRL n), 19, 0⟩
def FMAC_DW_FHI_FHI (n : Nat) : Fld := ⟨(R.FMAC_DW_FHI n), 19, 0⟩
def FMAC_DW_WIN_WIN (n : Nat) : Fld := ⟨(R.FMAC_DW_WIN n), 31, 16⟩
def FMAC_DW_WIN_TMAX (n : Nat) : Fld := ⟨(R.FMAC_DW_WIN n), 15, 0⟩
def STP_CTRL_ULEN : Fld := ⟨R.STP_CTRL, 2, 2⟩
def STP_CTRL_MIMO : Fld := ⟨R.STP_CTRL, 1, 1⟩
def STP_CTRL_LEARN : Fld := ⟨R.STP_CTRL, 0, 0⟩
def STP_STAT_STATE : Fld := ⟨R.STP_STAT, 31, 30⟩
def STP_STAT_RECS : Fld := ⟨R.STP_STAT, 27, 16⟩
def STP_STAT_LOST : Fld := ⟨R.STP_STAT, 11, 0⟩
def STP_ERR_ERR : Fld := ⟨R.STP_ERR, 8, 8⟩
def STP_ERR_STATUS : Fld := ⟨R.STP_ERR, 7, 0⟩
def STP_CMD_PUSH_PUSH : Fld := ⟨R.STP_CMD_PUSH, 0, 0⟩
def STP_RES_VALID : Fld := ⟨R.STP_RES, 31, 31⟩
def STP_RES_TAG : Fld := ⟨R.STP_RES, 23, 16⟩
def STP_RES_OPC : Fld := ⟨R.STP_RES, 15, 8⟩
def STP_RES_STATUS : Fld := ⟨R.STP_RES, 7, 0⟩
def STP_RESLVL_LVL : Fld := ⟨R.STP_RESLVL, 4, 0⟩
def STP_PEND_PENDING : Fld := ⟨R.STP_PEND, 31, 16⟩
def STP_PEND_REC : Fld := ⟨R.STP_PEND, 11, 0⟩
def STP_HISTBASE_HI_HI : Fld := ⟨R.STP_HISTBASE_HI, 3, 0⟩
def STP_GBASE_G : Fld := ⟨R.STP_GBASE, 23, 0⟩
def STP_GMAX_G : Fld := ⟨R.STP_GMAX, 23, 0⟩
def STP_DRIFT_FASTN : Fld := ⟨R.STP_DRIFT, 19, 16⟩
def STP_DRIFT_SHIFTF : Fld := ⟨R.STP_DRIFT, 11, 8⟩
def STP_DRIFT_SHIFT : Fld := ⟨R.STP_DRIFT, 3, 0⟩
def STP_PLANLEAD_SLOTS : Fld := ⟨R.STP_PLANLEAD, 3, 0⟩
def STP_MUMAX_H : Fld := ⟨R.STP_MUMAX, 23, 16⟩
def STP_MUMAX_M : Fld := ⟨R.STP_MUMAX, 15, 8⟩
def STP_MUMAX_L : Fld := ⟨R.STP_MUMAX, 7, 0⟩
def STP_ULMAX_N : Fld := ⟨R.STP_ULMAX, 4, 0⟩
def STP_FILL_F : Fld := ⟨R.STP_FILL, 7, 0⟩
def STP_PPDUMAX_US : Fld := ⟨R.STP_PPDUMAX, 15, 0⟩
def STP_STGTIME_US : Fld := ⟨R.STP_STGTIME, 15, 0⟩
def STP_STGCAP_U : Fld := ⟨R.STP_STGCAP, 15, 0⟩
def STP_PRESTAGE_US : Fld := ⟨R.STP_PRESTAGE, 15, 0⟩
def STP_RATE_RUP : Fld := ⟨R.STP_RATE, 31, 24⟩
def STP_RATE_RDOWN : Fld := ⟨R.STP_RATE, 23, 16⟩
def STP_RATE_PROBE : Fld := ⟨R.STP_RATE, 15, 0⟩
def STP_MOVE_GAIN : Fld := ⟨R.STP_MOVE, 31, 16⟩
def STP_MOVE_AFTER : Fld := ⟨R.STP_MOVE, 7, 0⟩
def STP_ULRATIO_R : Fld := ⟨R.STP_ULRATIO, 7, 0⟩
def STP_BSRPPER_MS : Fld := ⟨R.STP_BSRPPER, 15, 0⟩
def STP_TWTLEAD_US : Fld := ⟨R.STP_TWTLEAD, 23, 0⟩
def STP_SPTRY_N : Fld := ⟨R.STP_SPTRY, 3, 0⟩
def STP_LWAIT_US (n : Nat) : Fld := ⟨(R.STP_LWAIT n), 23, 0⟩
def STP_DECMAX_NS : Fld := ⟨R.STP_DECMAX, 15, 0⟩
def ODE_CTRL_EN : Fld := ⟨R.ODE_CTRL, 31, 31⟩
def ODE_CTRL_CAN0 : Fld := ⟨R.ODE_CTRL, 29, 29⟩
def ODE_CTRL_CAN1 : Fld := ⟨R.ODE_CTRL, 28, 28⟩
def ODE_CTRL_SPI : Fld := ⟨R.ODE_CTRL, 27, 27⟩
def ODE_CTRL_UDP : Fld := ⟨R.ODE_CTRL, 26, 26⟩
def ODE_STAT_STATE : Fld := ⟨R.ODE_STAT, 31, 29⟩
def ODE_STAT_DIRTY : Fld := ⟨R.ODE_STAT, 28, 28⟩
def ODE_STAT_IDLE : Fld := ⟨R.ODE_STAT, 24, 24⟩
def ODE_STAT_SESS : Fld := ⟨R.ODE_STAT, 20, 16⟩
def ODE_ERR_ERR : Fld := ⟨R.ODE_ERR, 8, 8⟩
def ODE_ERR_STATUS : Fld := ⟨R.ODE_ERR, 7, 0⟩
def ODE_STATECMD_OPC : Fld := ⟨R.ODE_STATECMD, 2, 0⟩
def ODE_NPARAM_N : Fld := ⟨R.ODE_NPARAM, 14, 0⟩
def ODE_DIGPOL_PULLJIT : Fld := ⟨R.ODE_DIGPOL, 31, 16⟩
def ODE_DIGPOL_POL : Fld := ⟨R.ODE_DIGPOL, 1, 0⟩
def ODE_PULLBACK_SEC : Fld := ⟨R.ODE_PULLBACK, 15, 0⟩
def ODE_UDPPORT_PORT : Fld := ⟨R.ODE_UDPPORT, 15, 0⟩
def ODE_CANID_ID : Fld := ⟨R.ODE_CANID, 6, 0⟩
def ODE_SPICFG_EN : Fld := ⟨R.ODE_SPICFG, 31, 31⟩
def ODE_SPICFG_MODE3 : Fld := ⟨R.ODE_SPICFG, 30, 30⟩
def ODE_SPICFG_IRQ : Fld := ⟨R.ODE_SPICFG, 5, 0⟩
def ODE_SESTMO_SEC : Fld := ⟨R.ODE_SESTMO, 11, 0⟩
def ODE_FWTMO_MS : Fld := ⟨R.ODE_FWTMO, 9, 0⟩
def ODE_EVBATCH_MS : Fld := ⟨R.ODE_EVBATCH, 9, 0⟩
def ODE_JGEOM_SEGLOG : Fld := ⟨R.ODE_JGEOM, 20, 16⟩
def ODE_JGEOM_NPAIR : Fld := ⟨R.ODE_JGEOM, 7, 0⟩
def ODE_JCOMMIT_MS : Fld := ⟨R.ODE_JCOMMIT, 13, 0⟩
def ODE_JSTAT_STATE : Fld := ⟨R.ODE_JSTAT, 31, 30⟩
def ODE_JSTAT_PAIR : Fld := ⟨R.ODE_JSTAT, 23, 16⟩
def ODE_JSTAT_WAIT : Fld := ⟨R.ODE_JSTAT, 15, 0⟩
def ODE_MBXIN_PUSH_SRC : Fld := ⟨R.ODE_MBXIN_PUSH, 31, 16⟩
def ODE_MBXIN_PUSH_LEN : Fld := ⟨R.ODE_MBXIN_PUSH, 10, 0⟩
def ODE_MBXOUT_VALID : Fld := ⟨R.ODE_MBXOUT, 31, 31⟩
def ODE_MBXOUT_SRC : Fld := ⟨R.ODE_MBXOUT, 30, 16⟩
def ODE_MBXOUT_LEN : Fld := ⟨R.ODE_MBXOUT, 10, 0⟩
def ODE_FWREQ_VALID (n : Nat) : Fld := ⟨(R.ODE_FWREQ n), 31, 31⟩
def ODE_FWREQ_KIND (n : Nat) : Fld := ⟨(R.ODE_FWREQ n), 30, 28⟩
def ODE_FWREQ_REQ (n : Nat) : Fld := ⟨(R.ODE_FWREQ n), 27, 16⟩
def ODE_FWREQ_HANDLER (n : Nat) : Fld := ⟨(R.ODE_FWREQ n), 15, 0⟩
def ODE_FWRES_Z (n : Nat) : Fld := ⟨(R.ODE_FWRES n), 31, 28⟩
def ODE_FWRES_REQ (n : Nat) : Fld := ⟨(R.ODE_FWRES n), 27, 16⟩
def ODE_FWRES_STATUS (n : Nat) : Fld := ⟨(R.ODE_FWRES n), 7, 0⟩
def ODE_FWLEN_LEN : Fld := ⟨R.ODE_FWLEN, 10, 0⟩
def ODE_NBR_INFO_VALID (n : Nat) : Fld := ⟨(R.ODE_NBR_INFO n), 31, 31⟩
def ODE_NBR_INFO_CLASS (n : Nat) : Fld := ⟨(R.ODE_NBR_INFO n), 25, 24⟩
def ODE_NBR_INFO_LINK (n : Nat) : Fld := ⟨(R.ODE_NBR_INFO n), 19, 16⟩
def ETH_CTRL_EN (n : Nat) : Fld := ⟨(R.ETH_CTRL n), 31, 31⟩
def ETH_CTRL_MODE (n : Nat) : Fld := ⟨(R.ETH_CTRL n), 30, 28⟩
def ETH_CTRL_PAUSE (n : Nat) : Fld := ⟨(R.ETH_CTRL n), 23, 23⟩
def ETH_CTRL_MSEC (n : Nat) : Fld := ⟨(R.ETH_CTRL n), 22, 22⟩
def ETH_CTRL_VALIDATE (n : Nat) : Fld := ⟨(R.ETH_CTRL n), 21, 20⟩
def ETH_CTRL_OSTEP (n : Nat) : Fld := ⟨(R.ETH_CTRL n), 19, 19⟩
def ETH_STAT_LINK (n : Nat) : Fld := ⟨(R.ETH_STAT n), 31, 31⟩
def ETH_STAT_MODE (n : Nat) : Fld := ⟨(R.ETH_STAT n), 30, 28⟩
def ETH_STAT_SPEED (n : Nat) : Fld := ⟨(R.ETH_STAT n), 27, 24⟩
def ETH_ERR_ERR (n : Nat) : Fld := ⟨(R.ETH_ERR n), 8, 8⟩
def ETH_ERR_STATUS (n : Nat) : Fld := ⟨(R.ETH_ERR n), 7, 0⟩
def ETH_MAXLEN_LEN (n : Nat) : Fld := ⟨(R.ETH_MAXLEN n), 13, 0⟩
def ETH_TSDLY_RX (n : Nat) : Fld := ⟨(R.ETH_TSDLY n), 31, 16⟩
def ETH_TSDLY_TX (n : Nat) : Fld := ⟨(R.ETH_TSDLY n), 15, 0⟩
def ETH_PAUSEQ_Q (n : Nat) : Fld := ⟨(R.ETH_PAUSEQ n), 15, 0⟩
def ETH_TXTS_VALID (n : Nat) : Fld := ⟨(R.ETH_TXTS n), 31, 31⟩
def ETH_TXTS_SEQID (n : Nat) : Fld := ⟨(R.ETH_TXTS n), 15, 0⟩
def ETH_RXSC_CFG_EN (n m : Nat) : Fld := ⟨(R.ETH_RXSC_CFG n m), 31, 31⟩
def ETH_RXSC_CFG_XPN (n m : Nat) : Fld := ⟨(R.ETH_RXSC_CFG n m), 1, 1⟩
def ETH_RXSC_KEY_EN (n m k : Nat) : Fld := ⟨(R.ETH_RXSC_KEY n m k), 31, 31⟩
def ETH_RXSC_KEY_SLOT (n m k : Nat) : Fld := ⟨(R.ETH_RXSC_KEY n m k), 9, 0⟩
def ETH_TXSC_CFG_EN (n : Nat) : Fld := ⟨(R.ETH_TXSC_CFG n), 31, 31⟩
def ETH_TXSC_CFG_XPN (n : Nat) : Fld := ⟨(R.ETH_TXSC_CFG n), 9, 9⟩
def ETH_TXSC_CFG_E (n : Nat) : Fld := ⟨(R.ETH_TXSC_CFG n), 8, 8⟩
def ETH_TXSC_CFG_SCIINC (n : Nat) : Fld := ⟨(R.ETH_TXSC_CFG n), 7, 7⟩
def ETH_TXSC_CFG_AN (n : Nat) : Fld := ⟨(R.ETH_TXSC_CFG n), 1, 0⟩
def ETH_TXSC_KEY_EN (n m : Nat) : Fld := ⟨(R.ETH_TXSC_KEY n m), 31, 31⟩
def ETH_TXSC_KEY_SLOT (n m : Nat) : Fld := ⟨(R.ETH_TXSC_KEY n m), 9, 0⟩
def ETH_PTP_CTRL_EN : Fld := ⟨R.ETH_PTP_CTRL, 31, 31⟩
def ETH_MDIO_CMD_GO : Fld := ⟨R.ETH_MDIO_CMD, 31, 31⟩
def ETH_MDIO_CMD_C45 : Fld := ⟨R.ETH_MDIO_CMD, 30, 30⟩
def ETH_MDIO_CMD_OP : Fld := ⟨R.ETH_MDIO_CMD, 29, 28⟩
def ETH_MDIO_CMD_PHYAD : Fld := ⟨R.ETH_MDIO_CMD, 25, 21⟩
def ETH_MDIO_CMD_REGAD : Fld := ⟨R.ETH_MDIO_CMD, 20, 16⟩
def ETH_MDIO_DATA_D : Fld := ⟨R.ETH_MDIO_DATA, 15, 0⟩
def ETH_MDIO_DIV_DIV : Fld := ⟨R.ETH_MDIO_DIV, 7, 0⟩
def CAN_CTRL_EN (n : Nat) : Fld := ⟨(R.CAN_CTRL n), 31, 31⟩
def CAN_CTRL_LISTEN (n : Nat) : Fld := ⟨(R.CAN_CTRL n), 30, 30⟩
def CAN_CTRL_AUTOREC (n : Nat) : Fld := ⟨(R.CAN_CTRL n), 29, 29⟩
def CAN_STAT_STATE (n : Nat) : Fld := ⟨(R.CAN_STAT n), 31, 30⟩
def CAN_STAT_TEC (n : Nat) : Fld := ⟨(R.CAN_STAT n), 15, 8⟩
def CAN_STAT_REC (n : Nat) : Fld := ⟨(R.CAN_STAT n), 7, 0⟩
def CAN_ERR_ERR (n : Nat) : Fld := ⟨(R.CAN_ERR n), 8, 8⟩
def CAN_ERR_STATUS (n : Nat) : Fld := ⟨(R.CAN_ERR n), 7, 0⟩
def CAN_NBT_BRP (n : Nat) : Fld := ⟨(R.CAN_NBT n), 31, 24⟩
def CAN_NBT_TSEG1 (n : Nat) : Fld := ⟨(R.CAN_NBT n), 23, 16⟩
def CAN_NBT_TSEG2 (n : Nat) : Fld := ⟨(R.CAN_NBT n), 14, 8⟩
def CAN_NBT_SJW (n : Nat) : Fld := ⟨(R.CAN_NBT n), 6, 0⟩
def CAN_DBT_BRP (n : Nat) : Fld := ⟨(R.CAN_DBT n), 31, 24⟩
def CAN_DBT_TSEG1 (n : Nat) : Fld := ⟨(R.CAN_DBT n), 23, 16⟩
def CAN_DBT_TSEG2 (n : Nat) : Fld := ⟨(R.CAN_DBT n), 14, 8⟩
def CAN_DBT_SJW (n : Nat) : Fld := ⟨(R.CAN_DBT n), 6, 0⟩
def CAN_TDC_TDC (n : Nat) : Fld := ⟨(R.CAN_TDC n), 7, 0⟩
def CAN_RXF_HDR_VALID (n : Nat) : Fld := ⟨(R.CAN_RXF_HDR n), 31, 31⟩
def CAN_RXF_HDR_IDE (n : Nat) : Fld := ⟨(R.CAN_RXF_HDR n), 30, 30⟩
def CAN_RXF_HDR_FDF (n : Nat) : Fld := ⟨(R.CAN_RXF_HDR n), 29, 29⟩
def CAN_RXF_HDR_ID (n : Nat) : Fld := ⟨(R.CAN_RXF_HDR n), 28, 0⟩
def CAN_RXF_INFO_BRS (n : Nat) : Fld := ⟨(R.CAN_RXF_INFO n), 5, 5⟩
def CAN_RXF_INFO_DLC (n : Nat) : Fld := ⟨(R.CAN_RXF_INFO n), 3, 0⟩
def CAN_TXF_HDR_IDE (n : Nat) : Fld := ⟨(R.CAN_TXF_HDR n), 30, 30⟩
def CAN_TXF_HDR_FDF (n : Nat) : Fld := ⟨(R.CAN_TXF_HDR n), 29, 29⟩
def CAN_TXF_HDR_ID (n : Nat) : Fld := ⟨(R.CAN_TXF_HDR n), 28, 0⟩
def CAN_TXF_INFO_BRS (n : Nat) : Fld := ⟨(R.CAN_TXF_INFO n), 5, 5⟩
def CAN_TXF_INFO_DLC (n : Nat) : Fld := ⟨(R.CAN_TXF_INFO n), 3, 0⟩
def CAN_TXF_PUSH_PUSH (n : Nat) : Fld := ⟨(R.CAN_TXF_PUSH n), 0, 0⟩
def XSPI_CTRL_EN : Fld := ⟨R.XSPI_CTRL, 31, 31⟩
def XSPI_CTRL_WIDTH : Fld := ⟨R.XSPI_CTRL, 30, 29⟩
def XSPI_CTRL_DTR : Fld := ⟨R.XSPI_CTRL, 28, 28⟩
def XSPI_CTRL_NAND : Fld := ⟨R.XSPI_CTRL, 27, 27⟩
def XSPI_CTRL_SUSP : Fld := ⟨R.XSPI_CTRL, 26, 26⟩
def XSPI_CTRL_DIV : Fld := ⟨R.XSPI_CTRL, 7, 0⟩
def XSPI_STAT_IDLE : Fld := ⟨R.XSPI_STAT, 31, 31⟩
def XSPI_STAT_WIP : Fld := ⟨R.XSPI_STAT, 30, 30⟩
def XSPI_STAT_SUSPENDED : Fld := ⟨R.XSPI_STAT, 29, 29⟩
def XSPI_STAT_QLEVEL : Fld := ⟨R.XSPI_STAT, 4, 0⟩
def XSPI_ERR_ERR : Fld := ⟨R.XSPI_ERR, 8, 8⟩
def XSPI_ERR_STATUS : Fld := ⟨R.XSPI_ERR, 7, 0⟩
def XSPI_OP_W0_KIND : Fld := ⟨R.XSPI_OP_W0, 31, 28⟩
def XSPI_OP_W0_PRIO : Fld := ⟨R.XSPI_OP_W0, 25, 24⟩
def XSPI_OP_W0_TAG : Fld := ⟨R.XSPI_OP_W0, 23, 16⟩
def XSPI_OP_W0_OPC : Fld := ⟨R.XSPI_OP_W0, 7, 0⟩
def XSPI_OP_PUSH_PUSH : Fld := ⟨R.XSPI_OP_PUSH, 0, 0⟩
def XSPI_RES_VALID : Fld := ⟨R.XSPI_RES, 31, 31⟩
def XSPI_RES_TAG : Fld := ⟨R.XSPI_RES, 23, 16⟩
def XSPI_RES_KIND : Fld := ⟨R.XSPI_RES, 15, 12⟩
def XSPI_RES_STATUS : Fld := ⟨R.XSPI_RES, 7, 0⟩
def XSPI_WP_BASE_BASE (n : Nat) : Fld := ⟨(R.XSPI_WP_BASE n), 23, 0⟩
def XSPI_WP_SIZE_SIZE (n : Nat) : Fld := ⟨(R.XSPI_WP_SIZE n), 23, 0⟩
def SYS_CTRL_RDYEN : Fld := ⟨R.SYS_CTRL, 31, 31⟩
def SYS_STEPOK_STEPS : Fld := ⟨R.SYS_STEPOK, 25, 0⟩
def SYS_STEPSET_SET : Fld := ⟨R.SYS_STEPSET, 25, 0⟩
def SYS_STEPCLR_CLR : Fld := ⟨R.SYS_STEPCLR, 25, 0⟩
def SYS_READY_READY : Fld := ⟨R.SYS_READY, 25, 0⟩
def SYS_RSTCAUSE_THIS : Fld := ⟨R.SYS_RSTCAUSE, 31, 24⟩
def SYS_RSTCAUSE_PREV : Fld := ⟨R.SYS_RSTCAUSE, 23, 16⟩
def SYS_RSTCMD_KEY : Fld := ⟨R.SYS_RSTCMD, 31, 16⟩
def SYS_RSTCMD_OPC : Fld := ⟨R.SYS_RSTCMD, 1, 0⟩
def SYS_WDT_EN : Fld := ⟨R.SYS_WDT, 31, 31⟩
def SYS_WDT_MS : Fld := ⟨R.SYS_WDT, 15, 0⟩
def SYS_BOOTSTAT_SRC : Fld := ⟨R.SYS_BOOTSTAT, 31, 30⟩
def SYS_BOOTSTAT_LVALID : Fld := ⟨R.SYS_BOOTSTAT, 29, 29⟩
def SYS_BOOTSTAT_SLOTA : Fld := ⟨R.SYS_BOOTSTAT, 23, 16⟩
def SYS_BOOTSTAT_SLOTB : Fld := ⟨R.SYS_BOOTSTAT, 15, 8⟩
def SYS_OTPCNT_BUSY : Fld := ⟨R.SYS_OTPCNT, 31, 31⟩
def SYS_OTPCNT_EPOCH : Fld := ⟨R.SYS_OTPCNT, 8, 0⟩
def SYS_OTPCNT_INC_INC : Fld := ⟨R.SYS_OTPCNT_INC, 0, 0⟩
def SYS_ACCERR_VALID : Fld := ⟨R.SYS_ACCERR, 31, 31⟩
def SYS_ACCERR_OVF : Fld := ⟨R.SYS_ACCERR, 30, 30⟩
def SYS_ACCERR_INIT : Fld := ⟨R.SYS_ACCERR, 20, 16⟩
def SYS_ACCADDR_HI_HI : Fld := ⟨R.SYS_ACCADDR_HI, 3, 0⟩
def SYS_CLKEN_PER : Fld := ⟨R.SYS_CLKEN, 7, 7⟩
def SYS_CLKEN_NET : Fld := ⟨R.SYS_CLKEN, 6, 6⟩
def SYS_CLKEN_DRC : Fld := ⟨R.SYS_CLKEN, 5, 5⟩
def SYS_CLKEN_MDS : Fld := ⟨R.SYS_CLKEN, 4, 4⟩
def SYS_CLKEN_MDL : Fld := ⟨R.SYS_CLKEN, 3, 3⟩
def SYS_CLKEN_MDH : Fld := ⟨R.SYS_CLKEN, 2, 2⟩
def SYS_CLKEN_PKT : Fld := ⟨R.SYS_CLKEN, 1, 1⟩
def SYS_CLKEN_CPU : Fld := ⟨R.SYS_CLKEN, 0, 0⟩
def SYS_TEL_TEMP_T : Fld := ⟨R.SYS_TEL_TEMP, 15, 0⟩
def SYS_ERR_ERR : Fld := ⟨R.SYS_ERR, 8, 8⟩
def SYS_ERR_STATUS : Fld := ⟨R.SYS_ERR, 7, 0⟩
def SYS_ACC_INIT (n : Nat) : Fld := ⟨(R.SYS_ACC n), 20, 0⟩
def SYS_ACCPG_INIT (n : Nat) : Fld := ⟨(R.SYS_ACCPG n), 20, 0⟩
def SYS_GPIOFN_F7 (n : Nat) : Fld := ⟨(R.SYS_GPIOFN n), 31, 28⟩
def SYS_GPIOFN_F6 (n : Nat) : Fld := ⟨(R.SYS_GPIOFN n), 27, 24⟩
def SYS_GPIOFN_F5 (n : Nat) : Fld := ⟨(R.SYS_GPIOFN n), 23, 20⟩
def SYS_GPIOFN_F4 (n : Nat) : Fld := ⟨(R.SYS_GPIOFN n), 19, 16⟩
def SYS_GPIOFN_F3 (n : Nat) : Fld := ⟨(R.SYS_GPIOFN n), 15, 12⟩
def SYS_GPIOFN_F2 (n : Nat) : Fld := ⟨(R.SYS_GPIOFN n), 11, 8⟩
def SYS_GPIOFN_F1 (n : Nat) : Fld := ⟨(R.SYS_GPIOFN n), 7, 4⟩
def SYS_GPIOFN_F0 (n : Nat) : Fld := ⟨(R.SYS_GPIOFN n), 3, 0⟩
def SYS_GPIO_OUT_HI_B : Fld := ⟨R.SYS_GPIO_OUT_HI, 15, 0⟩
def SYS_GPIO_OE_HI_B : Fld := ⟨R.SYS_GPIO_OE_HI, 15, 0⟩
def SYS_GPIO_IN_HI_B : Fld := ⟨R.SYS_GPIO_IN_HI, 15, 0⟩

end F

end Sys2Proof.Machine
end

