-- ==== Sys2Proof/Machine/RegMap.lean ====
section
/-! DEFINITION. The register map: for every block register its fields, their access codes (R7), their reset values and
their stated ranges, as the register tables of the spec give them. A field the table marks reserved has no entry: it
reads as zero (R6). -/

namespace Sys2Proof.Machine

/-- The access codes of R7; `rwm` is RW with writes by MC5 alone (R373, R527). -/
inductive Acc where
  | ro | rw | w1c | w1s | rc | wo | rwi | rwm
deriving DecidableEq, Repr

/-- One field of a register row: its bits, access, reset value and stated range (`sgn`: the range is of the signed value). -/
structure RegField where
  hi : Nat
  lo : Nat
  acc : Acc
  rst : Nat
  rng : Option (Int × Int)
  sgn : Bool
deriving DecidableEq, Repr

/-- One row of a register table: its offset, its array dimensions (stride, count) and its fields. -/
structure RegRow where
  off : Nat
  dims : List (Nat × Nat)
  fields : List RegField
deriving DecidableEq, Repr

namespace RegMap

/-- A field whose every value is in range. -/
def f (hi lo : Nat) (acc : Acc) (rst : Nat) : RegField := ⟨hi, lo, acc, rst, none, false⟩
/-- A field with a stated unsigned range. -/
def fr (hi lo : Nat) (acc : Acc) (rst : Nat) (a b : Int) : RegField := ⟨hi, lo, acc, rst, some (a, b), false⟩
/-- A field with a stated signed range. -/
def fs (hi lo : Nat) (acc : Acc) (rst : Nat) (a b : Int) : RegField := ⟨hi, lo, acc, rst, some (a, b), true⟩
/-- A row of a register table. -/
def row (off : Nat) (dims : List (Nat × Nat)) (fields : List RegField) : RegRow := ⟨off, dims, fields⟩
/-- The value that differs by radio, given as L / M / H / S (R102, R139, R181). -/
def pick (r : Nat) (l m h s : Nat) : Nat := if r = 0 then l else if r = 1 then m else if r = 2 then h else s
/-- The bound that differs by radio (R139). -/
def pickI (r : Nat) (l m h s : Int) : Int := if r = 0 then l else if r = 1 then m else if r = 2 then h else s

/-- Rows of the register table of GTU (R67), part 0. -/
def gtuRows0 : List RegRow := [
  row 0x0 [] [f 31 0 .ro 0x86000201],  -- GTU_ID
  row 0x4 [] [fr 31 30 .rwi 0 0 2, f 29 29 .rwi 0, f 28 28 .rwi 0, f 27 27 .rwi 0, fr 19 16 .rwi 8 4 15, f 0 0 .rw 0],  -- GTU_CTRL
  row 0x8 [] [f 31 29 .ro 0, f 28 28 .ro 0, f 27 27 .ro 0, f 26 26 .ro 0, f 23 16 .ro 0, f 15 0 .ro 0],  -- GTU_STAT
  row 0x10 [] [f 31 0 .ro 0],  -- GTU_NOW_LO
  row 0x14 [] [f 31 0 .ro 0],  -- GTU_NOW_HI
  row 0x18 [] [f 31 0 .ro 0xD6BF94D],  -- GTU_INC
  row 0x1C [] [f 31 0 .ro 0x2FAF080],  -- GTU_FREQ
  row 0x20 [] [f 23 0 .rwi 0],  -- GTU_OFS
  row 0x24 [] [f 27 24 .ro 0, f 23 0 .ro 0],  -- GTU_OFS_INFO
  row 0x28 [] [f 31 0 .rw 0x2F7E340],  -- GTU_BAND_LO
  row 0x2C [] [f 31 0 .rw 0x2FDFDC0],  -- GTU_BAND_HI
  row 0x30 [] [fr 31 0 .rw 0 0 200000],  -- GTU_SDLY
  row 0x34 [] [fr 31 0 .rw 0 0 200000],  -- GTU_ZDLY
  row 0x38 [] [f 31 0 .ro 0],  -- GTU_AMP
  row 0x3C [] [f 31 0 .rw 0x1F4],  -- GTU_AMP_MIN
  row 0x40 [] [f 31 28 .ro 4, f 23 0 .ro 0],  -- GTU_HOLD
  row 0x44 [] [f 31 0 .rw 0xA8],  -- GTU_HO_RATE_D
  row 0x48 [] [f 31 0 .rw 0x10625],  -- GTU_HO_RATE_F
  row 0x4C [] [f 31 0 .ro 0],  -- GTU_SLEW
  row 0x50 [] [f 31 0 .ro 0],  -- GTU_PERR
  row 0x54 [] [f 31 0 .ro 0],  -- GTU_XLAST_LO
  row 0x58 [] [f 31 0 .ro 0],  -- GTU_XLAST_HI
  row 0x5C [] [f 31 31 .rw 0, f 17 16 .rw 0, f 15 0 .rw 0],  -- GTU_BCN_CTRL
  row 0x60 [] [f 31 0 .rw 0x10000]]  -- GTU_BCN_TOL

/-- Rows of the register table of GTU (R67), part 1. -/
def gtuRows1 : List RegRow := [
  row 0x64 [] [f 31 0 .ro 0],  -- GTU_BCN_LAST
  row 0x68 [] [f 31 0 .rc 0],  -- GTU_BCN_CNT
  row 0x70 [] [f 31 0 .rw 0],  -- GTU_SEED_LO
  row 0x74 [] [f 31 0 .rw 0],  -- GTU_SEED_HI
  row 0x78 [] [fr 7 0 .wo 0 1 5],  -- GTU_CMD
  row 0x80 [] [f 31 0 .rw 0],  -- GTU_PMAP_GT_LO
  row 0x84 [] [f 31 0 .rw 0],  -- GTU_PMAP_GT_HI
  row 0x88 [] [f 31 0 .rw 0],  -- GTU_PMAP_NS_LO
  row 0x8C [] [f 31 0 .rw 0],  -- GTU_PMAP_NS_HI
  row 0x90 [] [f 0 0 .wo 0],  -- GTU_PMAP_CTRL
  row 0x94 [] [f 31 0 .ro 0],  -- GTU_PMAP_RATIO
  row 0xA0 [] [f 8 8 .w1c 0, f 7 0 .ro 0],  -- GTU_ERR
  row 0x100 [] [f 31 0 .w1c 0],  -- GTU_GCFIRE0
  row 0x104 [] [f 31 0 .w1c 0],  -- GTU_GCFIRE1
  row 0x1000 [(0x20, 64)] [f 31 31 .w1s 0, f 30 30 .w1s 0, f 27 27 .rwi 0, f 26 26 .rwi 0, f 25 25 .rwi 0],  -- GC_CTRL
  row 0x1004 [(0x20, 64)] [f 31 31 .ro 0, f 30 30 .w1c 0, f 29 29 .w1c 0, f 28 28 .w1c 0, f 7 0 .ro 0],  -- GC_STAT
  row 0x1008 [(0x20, 64)] [f 31 0 .rw 0],  -- GC_CMP_LO
  row 0x100C [(0x20, 64)] [f 31 0 .rw 0],  -- GC_CMP_HI
  row 0x1010 [(0x20, 64)] [f 23 0 .rwi 0],  -- GC_PER_ANG
  row 0x1014 [(0x20, 64)] [f 15 0 .rwi 0],  -- GC_PER_CYC
  row 0x1018 [(0x20, 64)] [fr 31 30 .rwi 0 0 2, f 29 28 .rwi 0, f 11 0 .rwi 0],  -- GC_TGT
  row 0x101C [(0x20, 64)] [fr 15 0 .rwi 1 1 65535]]  -- GC_WIDTH

/-- The register table of GTU (R67). -/
def gtu : List RegRow := gtuRows0 ++ gtuRows1

/-- Rows of the register table of EVR (R69), part 0. -/
def evrRows0 : List RegRow := [
  row 0x0 [] [f 31 0 .ro 0x86000101],  -- EVR_ID
  row 0x100 [(0x20, 14), (0x4, 8)] [f 31 0 .w1c 0],  -- EVR_PEND
  row 0x400 [(0x4, 256)] [f 31 31 .rw 0, f 25 22 .rw 0, f 15 10 .rw 0, f 3 0 .rw 0],  -- EVR_ROUTE
  row 0x800 [(0x4, 256)] [f 15 0 .ro 0],  -- EVR_CNT
  row 0xC00 [] [f 15 0 .wo 0],  -- EVR_SWSET
  row 0xC04 [] [f 13 12 .rw 0, f 9 8 .rw 0, f 5 4 .rw 0, f 1 0 .rw 0],  -- EVR_PINCFG
  row 0xC08 [] [fr 15 0 .rw 0x64 1 65535],  -- EVR_PINW
  row 0xC10 [] [f 31 31 .rw 0, f 23 16 .rc 0, f 6 0 .ro 0],  -- EVR_SUBSTAT
  row 0xC20 [] [f 31 31 .rc 0, f 23 16 .rc 0, f 7 0 .rc 0],  -- EVR_SUB0
  row 0xC24 [] [f 31 0 .ro 0],  -- EVR_SUB1
  row 0xC28 [] [f 31 0 .ro 0],  -- EVR_SUB2
  row 0xC30 [] [f 8 8 .w1c 0, f 7 0 .ro 0]]  -- EVR_ERR

/-- The register table of EVR (R69). -/
def evr : List RegRow := evrRows0

/-- Rows of the register table of DMA (R368), part 0. -/
def dmaRows0 : List RegRow := [
  row 0x0 [] [f 31 0 .ro 0x86000C01],  -- DMA_ID
  row 0x4 [] [f 31 31 .rw 0],  -- DMA_CTRL
  row 0x8 [] [f 31 31 .ro 1, f 23 16 .ro 0, f 3 0 .ro 0],  -- DMA_STAT
  row 0xC [] [f 8 8 .w1c 0, f 7 0 .ro 0],  -- DMA_ERR
  row 0x10 [] [f 31 0 .rc 0],  -- DMA_CNT_STATE
  row 0x14 [] [f 31 0 .rc 0],  -- DMA_CNT_PATHERR
  row 0x20 [(0x4, 4)] [f 31 0 .ro 0],  -- DMA_PEND
  row 0x1000 [(0x40, 128)] [f 3 0 .wo 0],  -- CH_CMD
  row 0x1004 [(0x40, 128)] [f 31 29 .ro 0, f 28 28 .w1c 0, f 27 27 .w1c 0, f 26 26 .w1c 0, f 25 25 .w1c 0, f 24 24 .ro 0, f 23 23 .ro 0, f 15 8 .ro 0],  -- CH_STAT
  row 0x1008 [(0x40, 128)] [f 8 8 .w1c 0, f 7 0 .ro 0],  -- CH_ERR
  row 0x100C [(0x40, 128)] [f 0 0 .wo 0],  -- CH_DOORBELL
  row 0x1010 [(0x40, 128)] [f 31 30 .ro 0, f 29 26 .ro 0, f 25 21 .ro 0, f 20 20 .ro 0, f 19 19 .ro 0, f 17 16 .ro 0],  -- CH_CFG
  row 0x1014 [(0x40, 128)] [f 31 0 .ro 0],  -- CH_RING_LO
  row 0x1018 [(0x40, 128)] [f 11 8 .ro 0, f 3 0 .ro 0],  -- CH_RING_HI
  row 0x101C [(0x40, 128)] [f 11 0 .ro 0],  -- CH_HEAD
  row 0x1020 [(0x40, 128)] [f 31 30 .rw 0, fr 29 26 .rw 0 5 12, fr 25 21 .rw 0 0 20, f 20 20 .rw 0, f 19 19 .rw 0, f 17 16 .rw 0],  -- CH_SCFG
  row 0x1024 [(0x40, 128)] [f 31 0 .rw 0],  -- CH_SRING_LO
  row 0x1028 [(0x40, 128)] [fr 11 8 .rw 0 0 12, f 3 0 .rw 0],  -- CH_SRING_HI
  row 0x102C [(0x40, 128)] [f 11 0 .rw 0],  -- CH_SHEAD
  row 0x1030 [(0x40, 128)] [f 31 31 .w1s 0, f 30 30 .w1c 0, f 29 29 .ro 0, f 28 28 .rw 0, f 15 0 .ro 0],  -- CH_SADDLE
  row 0x1034 [(0x40, 128)] [f 31 0 .ro 0],  -- CH_TSTART_LO
  row 0x1038 [(0x40, 128)] [f 31 0 .ro 0],  -- CH_TSTART_HI
  row 0x103C [(0x40, 128)] [f 31 16 .rc 0, f 15 0 .rc 0]]  -- CH_CNT

/-- The register table of DMA (R368). -/
def dma : List RegRow := dmaRows0

/-- Rows of the register table of CHK (R369), part 0. -/
def chkRows0 : List RegRow := [
  row 0x0 [] [f 31 0 .ro 0x86000D01],  -- CHK_ID
  row 0x100 [] [f 31 31 .w1s 0, f 30 30 .ro 0, f 29 29 .w1s 0, f 28 28 .rw 0, f 27 27 .rw 0, f 26 26 .rw 0, f 19 16 .rw 0],  -- SCAN_CTRL
  row 0x104 [] [f 31 0 .rw 0],  -- SCAN_ADDR_LO
  row 0x108 [] [f 3 0 .rw 0],  -- SCAN_ADDR_HI
  row 0x10C [] [f 31 0 .rw 0],  -- SCAN_ADDR2_LO
  row 0x110 [] [f 3 0 .rw 0],  -- SCAN_ADDR2_HI
  row 0x114 [] [fr 31 0 .rw 0 1 4294967295],  -- SCAN_LEN
  row 0x118 [] [f 31 0 .rw 0],  -- SCAN_EXP
  row 0x11C [] [f 31 0 .ro 0],  -- SCAN_VAL
  row 0x120 [] [fr 15 0 .rw 0x400 1 38400],  -- SCAN_RATE
  row 0x124 [] [f 31 31 .ro 0, f 30 30 .ro 0, f 29 29 .ro 0, f 28 28 .ro 0, f 27 27 .ro 0, f 25 24 .ro 0, f 7 0 .ro 0],  -- SCAN_RES
  row 0x128 [] [f 31 0 .ro 0],  -- SCAN_ERRADDR_LO
  row 0x12C [] [f 3 0 .ro 0],  -- SCAN_ERRADDR_HI
  row 0x1000 [(0x40, 16)] [f 31 31 .ro 0, fr 2 0 .rw 0 0 6],  -- CHK_CFG
  row 0x1004 [(0x40, 16)] [f 31 0 .rw 0x1EDC6F41],  -- CHK_POLY
  row 0x1008 [(0x40, 16)] [f 31 0 .rw 0xFFFFFFFF],  -- CHK_INIT
  row 0x100C [(0x40, 16)] [f 31 0 .rw 0xFFFFFFFF],  -- CHK_XOROUT
  row 0x1010 [(0x40, 16)] [f 31 31 .rw 1, f 30 30 .rw 1, fr 5 0 .rw 0x20 8 32],  -- CHK_PCFG
  row 0x1014 [(0x40, 16)] [f 31 0 .rw 0xFFFFFFFF],  -- CHK_VAL
  row 0x1018 [(0x40, 16)] [f 16 16 .rw 0, f 7 0 .rw 0],  -- CHK_AUX
  row 0x101C [(0x40, 16)] [f 31 0 .ro 0],  -- CHK_FINAL
  row 0x1020 [(0x40, 16)] [f 31 0 .wo 0],  -- CHK_DATA
  row 0x1024 [(0x40, 16)] [f 7 0 .wo 0],  -- CHK_DATA1
  row 0x1028 [(0x40, 16)] [f 15 0 .wo 0]]  -- CHK_DATA2

/-- Rows of the register table of CHK (R369), part 1. -/
def chkRows1 : List RegRow := [
  row 0x102C [(0x40, 16)] [f 0 0 .wo 0],  -- CHK_CMD
  row 0x1030 [(0x40, 16)] [f 31 0 .rw 0],  -- CHK_COUNT
  row 0x1034 [(0x40, 16)] [f 8 8 .w1c 0, f 7 0 .ro 0]]  -- CHK_STAT

/-- The register table of CHK (R369). -/
def chk : List RegRow := chkRows0 ++ chkRows1

/-- Rows of the register table of CRY (R410), part 0. -/
def cryRows0 : List RegRow := [
  row 0x0 [] [f 31 0 .ro 0x86000E01],  -- CRY_ID
  row 0x4 [] [f 31 31 .rw 0],  -- CRY_CTRL
  row 0x8 [] [f 31 31 .ro 1, f 30 30 .ro 0, f 29 29 .ro 0, f 28 28 .ro 0, f 27 24 .ro 0],  -- CRY_STAT
  row 0xC [] [f 8 8 .w1c 0, f 7 0 .ro 0],  -- CRY_ERR
  row 0x10 [] [f 31 24 .wo 0, f 23 16 .wo 0, f 9 0 .wo 0],  -- CRY_KCMD
  row 0x14 [] [f 31 28 .rw 0, f 23 16 .rw 0, f 14 10 .rw 0, f 9 0 .rw 0],  -- CRY_KARG0
  row 0x18 [] [f 31 0 .rw 0],  -- CRY_KARG1
  row 0x1C [] [f 31 0 .rw 0],  -- CRY_KADDR_LO
  row 0x20 [] [f 3 0 .rw 0],  -- CRY_KADDR_HI
  row 0x24 [] [f 31 31 .rc 0, f 23 16 .rc 0, f 15 8 .rc 0, f 7 0 .rc 0],  -- CRY_KRES
  row 0x28 [] [f 4 0 .ro 0],  -- CRY_KRESLVL
  row 0x40 [(0x4, 16)] [f 31 0 .wo 0],  -- CRY_KDATA
  row 0x80 [] [f 31 30 .ro 0, f 27 24 .ro 0, f 23 16 .ro 0, f 14 10 .ro 0],  -- CRY_KINFO0
  row 0x84 [] [f 31 0 .ro 0],  -- CRY_KINFO1
  row 0x88 [] [f 31 0 .ro 0],  -- CRY_KGEN
  row 0x8C [] [f 31 0 .ro 0],  -- CRY_KERASEGEN
  row 0x90 [] [f 23 0 .ro 0],  -- CRY_KKCV
  row 0x100 [] [f 31 24 .wo 0, f 23 16 .wo 0, f 7 0 .wo 0],  -- CRY_SACMD
  row 0x104 [] [f 31 0 .rw 0],  -- CRY_SAADDR_LO
  row 0x108 [] [f 3 0 .rw 0],  -- CRY_SAADDR_HI
  row 0x200 [(0x4, 32)] [f 30 30 .rwm 0, f 29 28 .rwm 0, fr 27 24 .rwm 0 1 12],  -- CRY_PGCFG
  row 0x400 [(0x10, 32)] [f 23 0 .rwm 0],  -- CRY_PGMW_BASE0
  row 0x404 [(0x10, 32)] [f 23 0 .rwm 0],  -- CRY_PGMW_SIZE0
  row 0x408 [(0x10, 32)] [f 23 0 .rwm 0]]  -- CRY_PGMW_BASE1

/-- Rows of the register table of CRY (R410), part 1. -/
def cryRows1 : List RegRow := [
  row 0x40C [(0x10, 32)] [f 23 0 .rwm 0],  -- CRY_PGMW_SIZE1
  row 0x600 [] [f 9 0 .w1c 0],  -- CRY_ALMSTAT
  row 0x604 [] [f 9 0 .rw 0x2EF],  -- CRY_ALMPOL
  row 0x608 [] [f 0 0 .w1s 0],  -- CRY_ALMLOCK
  row 0x60C [] [f 0 0 .wo 0],  -- CRY_ALMCLR
  row 0x610 [] [f 15 0 .ro 0],  -- CRY_ALMCNT
  row 0x700 [] [f 31 0 .ro 0],  -- CRY_PGPEND
  row 0x800 [] [f 31 0 .rc 0],  -- CRY_CNT_OPS
  row 0x804 [] [f 31 0 .rc 0],  -- CRY_CNT_AUTH
  row 0x808 [] [f 31 0 .rc 0],  -- CRY_CNT_NOKEY
  row 0x80C [] [f 31 0 .rc 0],  -- CRY_CNT_ABORT
  row 0x810 [] [f 31 0 .rc 0],  -- CRY_CNT_SUSP
  row 0x814 [] [f 31 0 .rc 0],  -- CRY_CNT_ERASEABORT
  row 0x818 [] [f 31 0 .rc 0],  -- CRY_CNT_STATE
  row 0x81C [] [f 31 0 .rc 0],  -- CRY_CNT_RESOVF
  row 0x8000 [(0x400, 32)] [f 4 0 .ro 0],  -- PG_ID
  row 0x8004 [(0x400, 32)] [f 31 24 .wo 0, f 23 16 .wo 0, f 1 0 .wo 0],  -- PG_CMD
  row 0x8008 [(0x400, 32)] [f 31 30 .ro 0, f 29 29 .w1c 0, f 28 28 .w1c 0, f 23 20 .ro 0, f 15 8 .ro 0],  -- PG_STAT
  row 0x800C [(0x400, 32)] [f 8 8 .w1c 0, f 7 0 .ro 0],  -- PG_ERR
  row 0x8010 [(0x400, 32)] [f 31 0 .rwi 0],  -- PG_RING_LO
  row 0x8014 [(0x400, 32)] [fr 11 8 .rwi 0 0 10, f 3 0 .rwi 0],  -- PG_RING_HI
  row 0x8018 [(0x400, 32)] [f 10 0 .ro 0],  -- PG_HEAD
  row 0x801C [(0x400, 32)] [f 0 0 .wo 0],  -- PG_DOORBELL
  row 0x8020 [(0x400, 32)] [f 31 0 .rw 0]]  -- PG_CTXADDR_LO

/-- Rows of the register table of CRY (R410), part 2. -/
def cryRows2 : List RegRow := [
  row 0x8024 [(0x400, 32)] [f 3 0 .rw 0],  -- PG_CTXADDR_HI
  row 0x8028 [(0x400, 32)] [f 0 0 .rw 1],  -- PG_CTXFMT
  row 0x802C [(0x400, 32)] [f 31 31 .rc 0, f 23 16 .rc 0, f 15 8 .rc 0, f 7 0 .rc 0],  -- PG_RES
  row 0x8030 [(0x400, 32)] [f 31 16 .rc 0, f 15 0 .rc 0]]  -- PG_CNT

/-- The register table of CRY (R410). -/
def cry : List RegRow := cryRows0 ++ cryRows1 ++ cryRows2

/-- Rows of the register table of PKE (R411), part 0. -/
def pkeRows0 : List RegRow := [
  row 0x0 [] [f 31 0 .ro 0x86000F01],  -- PKE_ID
  row 0x4 [] [f 31 31 .rw 0, f 30 30 .rw 0],  -- PKE_CTRL
  row 0x8 [] [f 31 31 .ro 1, f 30 30 .ro 0, f 29 29 .ro 0, f 27 24 .ro 0, f 7 0 .ro 0],  -- PKE_STAT
  row 0xC [] [f 8 8 .w1c 0, f 7 0 .ro 0],  -- PKE_ERR
  row 0x10 [(0x4, 8)] [f 31 0 .rw 0],  -- PKE_CMD_W
  row 0x30 [] [f 0 0 .wo 0],  -- PKE_CMD_PUSH
  row 0x34 [] [f 31 31 .rc 0, f 23 16 .rc 0, f 15 8 .rc 0, f 7 0 .rc 0],  -- PKE_RES
  row 0x38 [] [f 4 0 .ro 0],  -- PKE_RESLVL
  row 0x40 [] [f 31 0 .ro 0],  -- PKE_RNG
  row 0x44 [] [fr 5 0 .rw 0xA 1 60],  -- PKE_RESEEDINT
  row 0x50 [] [f 31 30 .ro 0, f 3 0 .ro 0],  -- PKE_DBGSTAT
  row 0x60 [] [f 2 0 .rw 0],  -- PKE_MRSEL
  row 0x64 [(0x4, 12)] [f 31 0 .ro 0],  -- PKE_MR
  row 0xA0 [(0x4, 24)] [f 31 0 .ro 0],  -- PKE_DAKPUB
  row 0x100 [] [f 31 0 .rc 0],  -- PKE_CNT_OPS
  row 0x104 [] [f 31 0 .rc 0],  -- PKE_CNT_FAIL
  row 0x108 [] [f 31 0 .rc 0],  -- PKE_CNT_HTFAIL
  row 0x10C [] [f 31 0 .rc 0],  -- PKE_CNT_RESEED
  row 0x110 [] [f 31 0 .rc 0],  -- PKE_CNT_RESOVF
  row 0x400 [(0x4, 92)] [f 31 0 .ro 0]]  -- PKE_OTP

/-- The register table of PKE (R411). -/
def pke : List RegRow := pkeRows0

/-- Rows of the register table of DRC (R439), part 0. -/
def drcRows0 : List RegRow := [
  row 0x0 [] [f 31 0 .ro 0x86001101],  -- DRC_ID
  row 0x4 [] [f 31 31 .rw 1, f 30 30 .rw 0, f 29 29 .rw 0, f 28 28 .rw 1],  -- DRC_CTRL
  row 0x8 [] [f 31 29 .ro 0, f 28 28 .ro 0, f 27 26 .ro 0, f 25 25 .ro 0, f 24 24 .ro 0, f 23 20 .ro 0, f 19 16 .ro 0],  -- DRC_STAT
  row 0xC [] [f 8 8 .w1c 0, f 7 0 .ro 0],  -- DRC_ERR
  row 0x10 [] [f 31 24 .wo 0, f 23 16 .wo 0, fr 1 0 .wo 0 0 2],  -- DRC_CMD
  row 0x14 [] [f 31 31 .rc 0, f 23 16 .rc 0, f 15 8 .rc 0, f 7 0 .rc 0],  -- DRC_RES
  row 0x18 [] [f 31 28 .ro 0, f 27 24 .ro 0, f 7 0 .ro 0],  -- DRC_TRSTAT
  row 0x1C [] [f 31 0 .rwi 0],  -- DRC_TRREC_LO
  row 0x20 [] [f 3 0 .rwi 0],  -- DRC_TRREC_HI
  row 0x24 [] [fr 13 0 .rw 0x32 1 10000],  -- DRC_SRIDLE
  row 0x28 [] [f 7 0 .ro 0],  -- DRC_USABLE
  row 0x30 [] [f 31 0 .rw 0xA2A55555],  -- DRC_CLASS_LO
  row 0x34 [] [f 11 10 .rw 0, f 9 0 .rw 0x2AA],  -- DRC_CLASS_HI
  row 0x38 [] [fr 15 8 .rw 0x20 1 255, fr 7 0 .rw 0x10 1 255],  -- DRC_AGE
  row 0x3C [] [fr 4 0 .rw 4 1 16],  -- DRC_HITCAP
  row 0x40 [] [fr 31 16 .rw 0x800 256 32768],  -- DRC_RAA
  row 0x44 [] [fr 15 0 .rw 0x2710 1 65535],  -- DRC_NREFALM
  row 0x48 [] [fr 19 0 .rwi 0x15180 3600 604800],  -- DRC_SCRUBPER
  row 0x4C [] [fr 12 0 .rw 0x100 1 4096],  -- DRC_WINRATE
  row 0x50 [] [f 27 0 .ro 0],  -- DRC_SCRUBPOS
  row 0x54 [] [fr 15 0 .rw 0x10 1 65535],  -- DRC_CEALM
  row 0x60 [] [f 15 0 .rwi 0],  -- DRC_DUMP_BASE
  row 0x64 [] [fr 8 0 .rwi 0 0 256],  -- DRC_DUMP_SIZE
  row 0x68 [] [f 31 31 .ro 0, f 30 30 .w1c 0]]  -- DRC_DUMP

/-- Rows of the register table of DRC (R439), part 1. -/
def drcRows1 : List RegRow := [
  row 0x70 [] [f 31 0 .ro 0],  -- DRC_CEADDR_LO
  row 0x74 [] [f 3 0 .ro 0],  -- DRC_CEADDR_HI
  row 0x78 [] [f 31 0 .ro 0],  -- DRC_UEADDR_LO
  row 0x7C [] [f 3 0 .ro 0],  -- DRC_UEADDR_HI
  row 0x80 [] [f 31 24 .ro 0, f 7 0 .ro 0],  -- DRC_UEINFO
  row 0x84 [] [f 31 0 .rw 0],  -- DRC_INJ_ADDR_LO
  row 0x88 [] [f 3 0 .rw 0],  -- DRC_INJ_ADDR_HI
  row 0x8C [] [f 31 31 .w1s 0, f 30 30 .rw 0, fr 14 8 .rw 0 0 71, fr 6 0 .rw 0 0 71],  -- DRC_INJ_CTRL
  row 0x90 [] [f 31 0 .ro 0],  -- DRC_TEMP
  row 0x100 [] [f 31 0 .rc 0],  -- DRC_CNT_CE
  row 0x104 [] [f 31 0 .rc 0],  -- DRC_CNT_UE
  row 0x108 [] [f 31 0 .rc 0],  -- DRC_CNT_SCRUBCE
  row 0x10C [] [f 31 0 .rc 0],  -- DRC_CNT_NREF
  row 0x110 [] [f 31 0 .rc 0],  -- DRC_CNT_RFM
  row 0x114 [] [f 31 0 .rc 0],  -- DRC_CNT_PROMOTE
  row 0x118 [] [f 31 0 .rc 0],  -- DRC_CNT_STATE
  row 0x11C [] [f 31 0 .rc 0]]  -- DRC_CNT_SREXIT

/-- The register table of DRC (R439). -/
def drc : List RegRow := drcRows0 ++ drcRows1

/-- Rows of the register table of SRM (R438), part 0. -/
def srmRows0 : List RegRow := [
  row 0x0 [] [f 31 0 .ro 0x86001001],  -- SRM_ID
  row 0x4 [] [f 31 31 .rw 1],  -- SRM_CTRL
  row 0x8 [] [f 31 31 .ro 0, f 30 30 .ro 0, f 15 0 .ro 0],  -- SRM_STAT
  row 0xC [] [f 8 8 .w1c 0, f 7 0 .ro 0],  -- SRM_ERR
  row 0x10 [] [fr 15 0 .rwi 0x258 60 3600],  -- SRM_SCRUBPER
  row 0x14 [] [fr 12 0 .rw 0x40 1 4096],  -- SRM_WINRATE
  row 0x18 [] [f 24 0 .ro 0],  -- SRM_POS
  row 0x1C [] [f 15 0 .ro 0],  -- SRM_PASSAGE
  row 0x20 [] [f 31 0 .ro 0],  -- SRM_CEADDR
  row 0x24 [] [f 31 0 .ro 0],  -- SRM_UEADDR
  row 0x28 [] [f 31 24 .ro 0, f 7 0 .ro 0],  -- SRM_UEINFO
  row 0x2C [] [fr 15 0 .rw 0x10 1 65535],  -- SRM_CEALM
  row 0x30 [] [f 31 0 .rw 0],  -- SRM_INJ_ADDR
  row 0x34 [] [f 31 31 .w1s 0, f 30 30 .rw 0, fr 14 8 .rw 0 0 71, fr 6 0 .rw 0 0 71],  -- SRM_INJ_CTRL
  row 0x100 [] [f 31 0 .rc 0],  -- SRM_CNT_CE
  row 0x104 [] [f 31 0 .rc 0],  -- SRM_CNT_UE
  row 0x108 [] [f 31 0 .rc 0],  -- SRM_CNT_SCRUBCE
  row 0x10C [] [f 31 0 .rc 0]]  -- SRM_CNT_PASS

/-- The register table of SRM (R438). -/
def srm : List RegRow := srmRows0

/-- Rows of the register table of PPE (R310), part 0. -/
def ppeRows0 : List RegRow := [
  row 0x0 [] [f 31 0 .ro 0x86000801],  -- PPE_ID
  row 0x4 [] [f 31 31 .rw 0, f 30 30 .rwi 0, f 29 29 .rw 1, f 28 28 .rwi 0],  -- PPE_CTRL
  row 0x8 [] [f 31 31 .ro 1, f 30 30 .ro 0, f 29 29 .ro 0, f 28 28 .ro 0, f 15 0 .ro 0],  -- PPE_STAT
  row 0xC [] [f 8 8 .w1c 0, f 7 0 .ro 0],  -- PPE_ERR
  row 0x10 [] [f 31 0 .rwi 0xFFFFFFFF],  -- PPE_HSEED1
  row 0x14 [] [f 31 0 .rwi 0xFFFFFFFF],  -- PPE_HSEED2
  row 0x20 [(0x4, 10)] [f 31 0 .rwi 0],  -- PPE_TKEY
  row 0x50 [] [f 31 0 .rwi 0],  -- PPE_DRAMBASE_LO
  row 0x54 [] [f 3 0 .rwi 0],  -- PPE_DRAMBASE_HI
  row 0x58 [] [fr 4 0 .rwi 0xA 10 18],  -- PPE_DRAMCFG
  row 0x60 [] [f 31 31 .ro 1, f 0 0 .w1s 0],  -- PPE_FENCE
  row 0x64 [] [f 15 0 .rw 0],  -- PPE_HDPPORT
  row 0x68 [] [f 15 0 .rw 0x12B5],  -- PPE_VXLANPORT
  row 0x6C [] [f 2 2 .rw 0, f 1 1 .rw 0, f 0 0 .rw 0],  -- PPE_TUNCFG
  row 0x70 [] [f 2 2 .rw 1, f 1 1 .rw 0, f 0 0 .rw 0],  -- PPE_ODD
  row 0x74 [] [f 31 31 .rw 0, f 18 16 .rw 0, f 12 0 .rw 0],  -- PPE_MISSQ
  row 0x78 [] [f 31 31 .rw 0, f 18 16 .rw 0, f 12 0 .rw 0],  -- PPE_PUNTQ
  row 0x7C [] [f 4 0 .ro 4],  -- PPE_ESPPG
  row 0x80 [(0x4, 8)] [f 31 31 .rw 0, f 12 0 .rw 0],  -- PPE_TRAP
  row 0xC0 [] [fr 31 16 .rw 0x3E8 1 65535, fr 15 0 .rw 0x3E8 1 65535],  -- PPE_ALM
  row 0x100 [(0x4, 16)] [f 27 16 .rw 0, f 5 4 .rw 0],  -- PPE_PORTCFG
  row 0x200 [(0x4, 24)] [f 31 0 .rw 0],  -- PPE_UPD_W
  row 0x260 [] [f 31 28 .wo 0, f 27 27 .wo 0, f 23 0 .wo 0],  -- PPE_UPD_CMD
  row 0x264 [] [f 31 31 .ro 1, f 7 0 .ro 0]]  -- PPE_UPD_RES

/-- Rows of the register table of PPE (R310), part 1. -/
def ppeRows1 : List RegRow := [
  row 0x268 [] [f 31 0 .ro 0],  -- PPE_HQ_H1
  row 0x26C [] [f 31 0 .ro 0],  -- PPE_HQ_H2
  row 0x300 [(0x20, 4), (0x4, 8)] [f 31 31 .rw 0, f 27 24 .rw 0, f 23 23 .rw 0, f 19 16 .rw 0, f 15 15 .rw 0, f 11 8 .rw 0, f 7 7 .rw 0, f 3 0 .rw 0],  -- PPE_PSEL
  row 0x400 [(0x4, 32)] [f 30 28 .rw 7, f 26 24 .rw 6, f 22 20 .rw 5, f 18 16 .rw 4, f 14 12 .rw 3, f 10 8 .rw 2, f 6 4 .rw 1, f 2 0 .rw 0],  -- PPE_PIPE_TAB
  row 0x800 [] [f 31 0 .rc 0],  -- PPE_CNT_RX
  row 0x804 [] [f 31 0 .rc 0],  -- PPE_CNT_HIT
  row 0x808 [] [f 31 0 .rc 0],  -- PPE_CNT_HITDRAM
  row 0x80C [] [f 31 0 .rc 0],  -- PPE_CNT_MISS
  row 0x810 [] [f 31 0 .rc 0],  -- PPE_CNT_NOPROF
  row 0x814 [] [f 31 0 .rc 0],  -- PPE_CNT_TRAP
  row 0x818 [] [f 31 0 .rc 0],  -- PPE_CNT_ODD
  row 0x81C [] [f 31 0 .rc 0],  -- PPE_CNT_TRUNC
  row 0x820 [] [f 31 0 .rc 0],  -- PPE_CNT_FRAG
  row 0x824 [] [f 31 0 .rc 0],  -- PPE_CNT_DUPKEY
  row 0x828 [] [f 31 0 .rc 0],  -- PPE_CNT_DRAMERR
  row 0x82C [] [f 31 0 .rc 0],  -- PPE_CNT_TTL
  row 0x830 [] [f 31 0 .rc 0],  -- PPE_CNT_VLANERR
  row 0x834 [] [f 31 0 .rc 0],  -- PPE_CNT_RECIRC
  row 0x838 [] [f 31 0 .rc 0],  -- PPE_CNT_CRYERR
  row 0x83C [] [f 31 0 .rc 0],  -- PPE_CNT_MIRDROP
  row 0x840 [] [f 31 0 .rc 0],  -- PPE_CNT_DROP
  row 0x1000 [(0x100, 16), (0x4, 16)] [f 31 31 .rwi 0, f 30 28 .rwi 0, f 21 16 .rwi 0, fr 4 0 .rwi 0 0 16],  -- PPE_PROF_INSTR
  row 0x1040 [(0x100, 16)] [f 31 0 .rwi 0xFFFFFFFF],  -- PPE_PROF_MASK_LO
  row 0x1044 [(0x100, 16)] [f 31 0 .rwi 0xFFFFFFFF]]  -- PPE_PROF_MASK_HI

/-- Rows of the register table of PPE (R310), part 2. -/
def ppeRows2 : List RegRow := [
  row 0x1048 [(0x100, 16)] [f 7 0 .ro 0],  -- PPE_PROF_KLEN
  row 0x2000 [(0x200, 8), (0x4, 128)] [f 28 16 .rw 0, f 12 0 .rw 0],  -- PPE_IND
  row 0x4000 [(0x80, 64)] [f 11 11 .rw 0, f 10 10 .rw 0, f 9 9 .rw 0, f 8 8 .rw 0, fr 6 0 .rw 0 14 112],  -- PPE_TMPL_W0
  row 0x4010 [(0x80, 64), (0x4, 28)] [f 31 0 .rw 0],  -- PPE_TMPL_W
  row 0x8000 [(0x10, 2048), (0x4, 4)] [f 31 0 .ro 0],  -- PPE_CTR
  row 0x10000 [(0x20, 2048), (0x4, 8)] [f 31 0 .rw 0]]  -- PPE_ACTREC

/-- The register table of PPE (R310). -/
def ppe : List RegRow := ppeRows0 ++ ppeRows1 ++ ppeRows2

/-- Rows of the register table of TMG (R333), part 0. -/
def tmgRows0 : List RegRow := [
  row 0x0 [] [f 31 0 .ro 0x86000A01],  -- TMG_ID
  row 0x4 [] [f 31 31 .rw 0],  -- TMG_CTRL
  row 0x8 [] [f 15 0 .ro 0],  -- TMG_STAT
  row 0xC [] [f 8 8 .w1c 0, f 7 0 .ro 0],  -- TMG_ERR
  row 0x10 [] [f 31 31 .rw 0, fr 15 0 .rw 0x50 1 65535],  -- TMG_SMP_CTRL
  row 0x14 [] [fr 23 0 .rw 0x2710 100 10000000],  -- TMG_STALL
  row 0x20 [] [f 31 0 .rc 0],  -- TMG_CNT_SEL
  row 0x24 [] [f 31 0 .rc 0],  -- TMG_CNT_SMPOVF
  row 0x28 [] [f 31 0 .rc 0],  -- TMG_CNT_STALL
  row 0x100 [(0x20, 8)] [f 31 0 .rw 0],  -- TMG_RING_BASE
  row 0x104 [(0x20, 8)] [f 3 0 .rw 0],  -- TMG_RING_BHI
  row 0x108 [(0x20, 8)] [f 31 31 .rw 0, fr 4 0 .rw 0 6 20],  -- TMG_RING_CFG
  row 0x10C [(0x20, 8)] [f 31 0 .ro 0],  -- TMG_RING_PROD
  row 0x110 [(0x20, 8)] [f 31 0 .rw 0],  -- TMG_RING_CONS
  row 0x200 [(0x20, 15)] [f 31 0 .rw 0],  -- TMG_DRING_BASE
  row 0x204 [(0x20, 15)] [f 3 0 .rw 0],  -- TMG_DRING_BHI
  row 0x208 [(0x20, 15)] [f 31 31 .rw 0, fr 4 0 .rw 0 6 20],  -- TMG_DRING_CFG
  row 0x20C [(0x20, 15)] [f 31 0 .ro 0],  -- TMG_DRING_PROD
  row 0x210 [(0x20, 15)] [f 31 0 .rw 0],  -- TMG_DRING_CONS
  row 0x1000 [(0x40, 16)] [f 31 31 .rw 0, fr 30 28 .rw 0 0 4, f 23 16 .rw 0, fr 15 0 .rw 0x100 64 2048],  -- TMG_PORT_CFG
  row 0x1004 [(0x40, 16)] [f 31 0 .rw 0],  -- TMG_PORT_RATE
  row 0x1008 [(0x40, 16)] [f 31 0 .rw 0x4000],  -- TMG_PORT_BURST
  row 0x100C [(0x40, 16)] [f 31 0 .ro 0x4000],  -- TMG_PORT_TOKENS
  row 0x1010 [(0x40, 16)] [f 31 16 .ro 0, f 15 0 .rw 0]]  -- TMG_PORT_WIN

/-- Rows of the register table of TMG (R333), part 1. -/
def tmgRows1 : List RegRow := [
  row 0x1014 [(0x40, 16)] [fr 31 24 .rw 8 1 255, fr 23 16 .rw 8 1 255, fr 15 8 .rw 8 1 255, fr 7 0 .rw 8 1 255],  -- TMG_PORT_CW_LO
  row 0x1018 [(0x40, 16)] [fr 31 24 .rw 8 1 255, fr 23 16 .rw 8 1 255, fr 15 8 .rw 8 1 255, fr 7 0 .rw 8 1 255],  -- TMG_PORT_CW_HI
  row 0x101C [(0x40, 16)] [f 23 0 .ro 0],  -- TMG_PORT_STALLT
  row 0x2000 [(0x10, 128)] [f 31 31 .rw 0, f 27 0 .rw 0],  -- TMG_CSHP_CFG
  row 0x2004 [(0x10, 128)] [f 31 0 .rw 0x4000],  -- TMG_CSHP_BURST
  row 0x2008 [(0x10, 128)] [f 31 0 .ro 0],  -- TMG_CSHP_TOKENS
  row 0x4000 [(0x10, 2048)] [f 31 31 .rw 0, f 27 0 .rw 0],  -- TMG_QSHP_CFG
  row 0x4004 [(0x10, 2048)] [f 31 0 .rw 0x4000],  -- TMG_QSHP_BURST
  row 0x4008 [(0x10, 2048)] [f 31 0 .ro 0]]  -- TMG_QSHP_TOKENS

/-- The register table of TMG (R333). -/
def tmg : List RegRow := tmgRows0 ++ tmgRows1

/-- Rows of the register table of QMG (R332), part 0. -/
def qmgRows0 : List RegRow := [
  row 0x0 [] [f 31 0 .ro 0x86000B01],  -- QMG_ID
  row 0x4 [] [f 31 31 .rw 0],  -- QMG_CTRL
  row 0x8 [] [f 31 31 .ro 1, f 13 0 .ro 0],  -- QMG_STAT
  row 0xC [] [f 8 8 .w1c 0, f 7 0 .ro 0],  -- QMG_ERR
  row 0x10 [(0x4, 4)] [f 31 0 .rw 0],  -- QMG_CMD_W
  row 0x20 [] [f 0 0 .wo 0],  -- QMG_CMD_PUSH
  row 0x24 [] [f 31 31 .rc 0, f 23 16 .rc 0, f 15 8 .rc 0, f 7 0 .rc 0],  -- QMG_RES
  row 0x28 [] [f 4 0 .ro 0],  -- QMG_RESLVL
  row 0x30 [] [f 31 0 .wo 0],  -- QMG_FREE
  row 0x34 [] [fr 15 0 .rw 0x3E8 1 65535],  -- QMG_DROPALM
  row 0x40 [(0x4, 16)] [f 31 16 .rw 0, fr 15 0 .rw 0 0 8192],  -- QMG_POOL
  row 0x80 [(0x4, 16)] [f 31 16 .ro 0, f 15 0 .ro 0],  -- QMG_POOLACT
  row 0xC0 [(0x4, 16)] [f 31 16 .ro 0, f 15 0 .ro 0],  -- QMG_POOLUSE
  row 0x100 [] [f 0 0 .wo 0],  -- QMG_POOLAPPLY
  row 0x104 [] [f 31 16 .ro 0x4D00, f 15 0 .ro 0x4D00],  -- QMG_SHARED
  row 0x110 [(0x4, 4)] [f 31 16 .rw 0, f 15 0 .rw 0],  -- QMG_RPOOL
  row 0x120 [(0x4, 4)] [f 31 16 .ro 0, f 15 0 .ro 0],  -- QMG_RPOOLUSE
  row 0x200 [] [f 31 0 .rc 0],  -- QMG_CNT_ENQ
  row 0x204 [] [f 31 0 .rc 0],  -- QMG_CNT_TAIL
  row 0x208 [] [f 31 0 .rc 0],  -- QMG_CNT_NOQ
  row 0x20C [] [f 31 0 .rc 0],  -- QMG_CNT_RED
  row 0x210 [] [f 31 0 .rc 0],  -- QMG_CNT_FLUSH
  row 0x214 [] [f 31 0 .rc 0],  -- QMG_CNT_REFUSE
  row 0x218 [] [f 31 0 .rc 0]]  -- QMG_CNT_STATE

/-- Rows of the register table of QMG (R332), part 1. -/
def qmgRows1 : List RegRow := [
  row 0x21C [] [f 31 0 .rc 0],  -- QMG_CNT_RESOVF
  row 0x10000 [(0x20, 1024)] [f 31 31 .rw 0, f 30 30 .rw 0],  -- QMG_POL_CFG
  row 0x10004 [(0x20, 1024)] [f 31 0 .rw 0],  -- QMG_POL_CIR
  row 0x10008 [(0x20, 1024)] [f 31 0 .rw 0],  -- QMG_POL_PIR
  row 0x1000C [(0x20, 1024)] [f 31 0 .rw 0],  -- QMG_POL_CBS
  row 0x10010 [(0x20, 1024)] [f 31 0 .rw 0],  -- QMG_POL_PBS
  row 0x10014 [(0x20, 1024)] [f 31 0 .ro 0],  -- QMG_POL_TC
  row 0x10018 [(0x20, 1024)] [f 31 0 .ro 0],  -- QMG_POL_TP
  row 0x1001C [(0x20, 1024)] [f 31 0 .rc 0]]  -- QMG_POL_RED

/-- The register table of QMG (R332). -/
def qmg : List RegRow := qmgRows0 ++ qmgRows1

/-- Rows of the register table of RFC (R102), part 0. -/
def rfcRows0 (r : Nat) : List RegRow := [
  row 0x0 [] [f 31 0 .ro (pick r 0x86000301 0x86000311 0x86000321 0x86000331)],  -- RFC_ID
  row 0x4 [] [f 31 31 .rw 0, f 30 30 .rw 0, f 7 0 .rwi (pick r 0xF 0xFF 0xFF 3)],  -- RFC_CTRL
  row 0x8 [] [f 31 29 .ro 0, f 28 28 .ro 0, f 27 27 .ro 0, f 26 26 .ro 0, f 25 25 .ro 0, f 20 16 .ro 0, f 10 0 .ro 0x7FF],  -- RFC_STAT
  row 0x10 [(0x4, 6)] [f 31 0 .rw 0],  -- RFC_CMD_W
  row 0x28 [] [f 0 0 .wo 0],  -- RFC_CMD_PUSH
  row 0x30 [] [f 31 31 .rc 0, f 23 16 .rc 0, f 15 8 .rc 0, f 7 0 .rc 0],  -- RFC_RES
  row 0x34 [] [f 31 0 .ro 0],  -- RFC_RES_GT_LO
  row 0x38 [] [f 31 0 .ro 0],  -- RFC_RES_GT_HI
  row 0x3C [] [f 4 0 .ro 0],  -- RFC_RESLVL
  row 0x40 [] [f 8 8 .w1c 0, f 7 0 .ro 0],  -- RFC_ERR
  row 0x44 [] [fr 15 0 .rw 0xC8 1 10000],  -- RFC_DLDEF
  row 0x50 [] [f 15 0 .ro 0],  -- RFC_TEMP
  row 0x54 [] [f 4 4 .ro 0, f 3 3 .ro 1, f 2 2 .ro 1, f 1 1 .ro 1, f 0 0 .ro 0],  -- RFC_CALDUE
  row 0x58 [] [f 31 28 .w1c 0, f 27 24 .ro 0, f 15 8 .ro 0, f 7 0 .ro 0],  -- RFC_CALSTAT
  row 0x5C [] [f 15 0 .ro 0xFFFF],  -- RFC_CALAGE
  row 0x60 [] [fr 7 0 .rw 0x3C 10 60],  -- RFC_CALPER
  row 0x64 [] [fr 7 0 .rw 0xA 1 60],  -- RFC_CALGRACE
  row 0x68 [] [fr 23 16 .rw 5 1 40, fr 15 8 .rw 0xF 1 40, fr 7 0 .rw 8 1 40],  -- RFC_CALTHR
  row 0x70 [] [f 31 16 .ro 0, f 10 0 .ro 0x7FF],  -- RFC_REC_ACT
  row 0x74 [] [f 31 31 .ro 0, f 30 16 .ro 0, f 10 0 .ro 0x7FF],  -- RFC_REC_NEXT
  row 0x80 [] [f 31 16 .rwi (pick r 0x578 0x578 0x578 0x2328), f 15 0 .rwi (pick r 0x3E8 0x3E8 0x3E8 0x1F40)],  -- RFC_FEMT0
  row 0x84 [] [f 31 16 .rwi (pick r 0x64 0x64 0x64 0x7D0), f 15 0 .rwi (pick r 0x12C 0x12C 0x12C 0xFA0)],  -- RFC_FEMT1
  row 0x88 [] [f 31 16 .rwi (pick r 0x1F4 0x1F4 0x1F4 0x1770), f 15 0 .rwi (pick r 0x28 0x28 0x28 0x78)],  -- RFC_FEMT2
  row 0x8C [] [f 23 0 .rwi 0xFFFFFF]]  -- RFC_FEMPOL

/-- Rows of the register table of RFC (R102), part 1. -/
def rfcRows1 (r : Nat) : List RegRow := [
  row 0xA0 [] [f 15 8 .rw (pick r 0x1C 0x1C 0x1C 0), f 7 0 .rw (pick r 0x3C 0x3C 0x3C 0)],  -- RFC_DPD_CTRL
  row 0xA4 [] [fr 15 0 .rw (pick r 0x3E8 0x3E8 0x3E8 0) 1 60000],  -- RFC_DPD_TMO
  row 0xC0 [(0x4, 8)] [f 31 31 .rw 0, f 9 0 .rw 0],  -- RFC_DPD_SEL
  row 0xE0 [(0x4, 8)] [f 15 0 .ro 0],  -- RFC_DPD_GEN
  row 0x100 [] [f 15 0 .rc 0],  -- RFC_CNT_STATE
  row 0x104 [] [f 15 0 .rc 0],  -- RFC_CNT_LATE
  row 0x108 [] [f 15 0 .rc 0],  -- RFC_CNT_HELD
  row 0x10C [] [f 15 0 .rc 0],  -- RFC_CNT_LOCKLOSS
  row 0x110 [] [f 15 0 .rc 0],  -- RFC_CNT_RECBAD
  row 0x114 [] [f 15 0 .rc 0],  -- RFC_CNT_CALPRE
  row 0x118 [] [f 15 0 .rc 0]]  -- RFC_CNT_RESOVF

/-- The register table of RFC (R102). -/
def rfc (r : Nat) : List RegRow := rfcRows0 r ++ rfcRows1 r

/-- Rows of the register table of MDM (R139), part 0. -/
def mdmRows0 (r : Nat) : List RegRow := [
  row 0x0 [] [f 31 0 .ro (pick r 0x86000401 0x86000411 0x86000421 0x86000431)],  -- MDM_ID
  row 0x4 [] [f 31 31 .rw 0, f 30 30 .rw 1, f 29 29 .rw 1, f 23 16 .rwi 0],  -- MDM_CTRL
  row 0x8 [] [f 31 28 .ro 0, f 27 27 .ro 0, f 23 16 .ro 0],  -- MDM_STAT
  row 0xC [] [f 8 8 .w1c 0, f 7 0 .ro 0],  -- MDM_ERR
  row 0x10 [] [fr 7 0 .rw 0x10 6 40],  -- MDM_CAPM
  row 0x14 [] [fs 7 0 .rw (pick r 0xAE 0xAE 0xAE 0x98) (pickI r (-100) (-100) (-100) (-120)) (pickI r (-40) (-40) (-40) (-60))],  -- MDM_DETTHR
  row 0x18 [] [fs 7 0 .rw (pick r 0xC2 0xC2 0xC2 0xAC) (pickI r (-100) (-100) (-100) (-120)) (pickI r (-40) (-40) (-40) (-60))],  -- MDM_EDTHR
  row 0x1C [] [fr 15 0 .rwi (pick r 0x28 0x28 0x28 0x78) 0 2000],  -- MDM_RXDLY
  row 0x20 [] [fr 11 8 .rw (pick r 3 3 3 0) 2 6, fr 3 0 .rw (pick r 8 8 8 0) 3 12],  -- MDM_LDPC
  row 0x24 [] [f 31 31 .rw 0, fr 11 8 .rw (pick r 7 7 7 0) 0 13, fr 7 0 .rw (pick r 0x20 0x20 0x20 0) 16 48],  -- MDM_CFR
  row 0x30 [(0x4, 4)] [f 31 24 .rw 0, f 23 16 .rw 0, f 15 8 .rw 0, f 7 0 .rw 0],  -- MDM_TXCAP
  row 0x40 [] [f 7 0 .rw (pick r 0x20 0x20 0x20 0)],  -- MDM_NODPDCAP
  row 0x50 [] [f 31 16 .ro 0, f 15 0 .ro 0],  -- MDM_CCA
  row 0x54 [] [f 15 0 .ro 0],  -- MDM_NOISE
  row 0x58 [] [f 7 0 .rw (pick r 0xAB 0xAB 0xAB 0x9C)],  -- MDM_NFALM
  row 0x5C [] [fr 15 0 .rw 0x3E8 1 65535],  -- MDM_RXALM
  row 0x60 [] [f 3 0 .rw (pick r 0 0 0 8)],  -- MDM_SMODE
  row 0x80 [(0x4, 8)] [f 31 0 .ro 0],  -- MDM_LASTRX
  row 0xA0 [] [f 31 24 .ro 0, f 23 16 .ro 0, f 7 0 .ro 0],  -- MDM_LASTTX
  row 0x100 [] [f 31 0 .rc 0],  -- MDM_CNT_DET
  row 0x104 [] [f 31 0 .rc 0],  -- MDM_CNT_FALSE
  row 0x108 [] [f 31 0 .rc 0],  -- MDM_CNT_CAPT
  row 0x10C [] [f 31 0 .rc 0],  -- MDM_CNT_CAPTPRE
  row 0x110 [] [f 31 0 .rc 0]]  -- MDM_CNT_CLIPRST

/-- Rows of the register table of MDM (R139), part 1. -/
def mdmRows1 (_r : Nat) : List RegRow := [
  row 0x114 [] [f 31 0 .rc 0],  -- MDM_CNT_LOSTWEAK
  row 0x118 [] [f 31 0 .rc 0],  -- MDM_CNT_OVLP
  row 0x11C [] [f 31 0 .rc 0],  -- MDM_CNT_UNSUP
  row 0x120 [] [f 31 0 .rc 0],  -- MDM_CNT_RXPRE
  row 0x124 [] [f 31 0 .rc 0],  -- MDM_CNT_CWFAIL
  row 0x128 [] [f 31 0 .rc 0],  -- MDM_CNT_ITRED
  row 0x12C [] [f 31 0 .rc 0],  -- MDM_CNT_TBABS
  row 0x130 [] [f 31 0 .rc 0],  -- MDM_CNT_TXOK
  row 0x134 [] [f 31 0 .rc 0],  -- MDM_CNT_TXREJ
  row 0x138 [] [f 31 0 .rc 0]]  -- MDM_CNT_TXCAP

/-- The register table of MDM (R139). -/
def mdm (r : Nat) : List RegRow := mdmRows0 r ++ mdmRows1 r

/-- Rows of the register table of MAC (R181), part 0. -/
def macRows0 (r : Nat) : List RegRow := [
  row 0x0 [] [f 31 0 .ro (pick r 0x86000501 0x86000511 0x86000521 0)],  -- MAC_ID
  row 0x4 [] [f 31 31 .rwi 0, f 30 30 .rw 0],  -- MAC_CTRL
  row 0x8 [] [f 31 30 .ro 0, f 21 16 .ro 0, f 15 0 .ro 0],  -- MAC_STAT
  row 0xC [] [f 8 8 .w1c 0, f 7 0 .ro 0],  -- MAC_ERR
  row 0x10 [(0x4, 4)] [f 31 0 .rw 0],  -- MAC_CMD_W
  row 0x20 [] [f 0 0 .wo 0],  -- MAC_CMD_PUSH
  row 0x24 [] [f 31 31 .rc 0, f 23 16 .rc 0, f 15 8 .rc 0, f 7 0 .rc 0],  -- MAC_RES
  row 0x28 [] [f 4 0 .ro 0],  -- MAC_RESLVL
  row 0x2C [] [f 4 0 .ro (pick r 0 1 2 0)],  -- MAC_CRYPG
  row 0x30 [] [f 31 0 .ro 0],  -- MAC_TSF_LO
  row 0x34 [] [f 31 0 .ro 0],  -- MAC_TSF_HI
  row 0x38 [] [f 31 0 .ro 0],  -- MAC_TSFGT_LO
  row 0x3C [] [f 31 0 .ro 0],  -- MAC_TSFGT_HI
  row 0x40 [] [f 31 31 .rwi 1, fr 23 16 .rwi 1 1 255, fr 15 0 .rwi 0x64 15 1000],  -- MAC_BCNCTRL
  row 0x44 [] [fr 15 0 .rw 0x2710 100 50000],  -- MAC_BCNMAXDLY
  row 0x48 [] [f 31 0 .rw 0],  -- MAC_PARENT_LO
  row 0x4C [] [f 15 0 .rw 0],  -- MAC_PARENT_HI
  row 0x50 [] [f 27 16 .rw 0, fr 11 8 .rw 3 1 15, f 7 4 .rw 6, f 3 0 .rw 4],  -- MAC_EDCA_BE
  row 0x54 [] [f 27 16 .rw 0, fr 11 8 .rw 7 1 15, f 7 4 .rw 0xA, f 3 0 .rw 4],  -- MAC_EDCA_BK
  row 0x58 [] [f 27 16 .rw 0x5E, fr 11 8 .rw 1 1 15, f 7 4 .rw 4, f 3 0 .rw 3],  -- MAC_EDCA_VI
  row 0x5C [] [f 27 16 .rw 0x2F, fr 11 8 .rw 1 1 15, f 7 4 .rw 3, f 3 0 .rw 2],  -- MAC_EDCA_VO
  row 0x60 [] [fr 31 16 .rw 0xC8 1 10000, fr 4 0 .rw 7 1 31],  -- MAC_RETRY
  row 0x64 [] [fr 15 0 .rw 0x14 1 1000],  -- MAC_ROTMO
  row 0x68 [] [f 2 0 .rwi 0]]  -- MAC_MLCTRL

/-- Rows of the register table of MAC (R181), part 1. -/
def macRows1 (_r : Nat) : List RegRow := [
  row 0x6C [] [fr 15 0 .rw 0x100 16 10000],  -- MAC_TWTSLIP
  row 0x70 [] [fr 15 0 .rw 0x32 5 1000],  -- MAC_SNDAGE
  row 0x74 [] [fs 7 0 .rw 0xB8 (-82) (-62)],  -- MAC_OBSSPD
  row 0x78 [] [fr 15 0 .rw 0x3E8 1 65535],  -- MAC_DROPALM
  row 0x80 [] [f 31 31 .ro 0, f 30 30 .ro 1, f 29 29 .ro 0, f 28 28 .ro 0, f 23 16 .ro 0x14, f 15 12 .ro 1, f 2 0 .ro 2],  -- MAC_NOTCH_CTRL
  row 0x84 [] [f 31 0 .ro 0],  -- MAC_NOTCH_MASK_LO
  row 0x88 [] [f 31 0 .ro 0],  -- MAC_NOTCH_MASK_HI
  row 0x8C [] [f 23 0 .ro 0x10000],  -- MAC_NOTCH_GUARD
  row 0x90 [] [f 31 0 .ro 0],  -- MAC_NOTCH_PLANID
  row 0x94 [] [f 31 31 .ro 0, f 30 30 .ro 0, f 29 29 .ro 0, f 28 28 .ro 0, f 27 27 .ro 0, f 26 26 .ro 0, f 5 0 .ro 0],  -- MAC_NOTCH_STAT
  row 0x98 [] [fr 15 0 .rw 0xC8 50 5000],  -- MAC_NOTCH_MINTX
  row 0xA0 [] [f 31 31 .rw 0, f 30 30 .rw 1, f 29 29 .rw 0, f 28 28 .rw 0, f 23 16 .rw 0x14, f 15 12 .rw 1, fr 2 0 .rw 2 0 4],  -- MAC_NOTCH_PCTRL
  row 0xA4 [] [f 31 0 .rw 0],  -- MAC_NOTCH_PMASK_LO
  row 0xA8 [] [f 31 0 .rw 0],  -- MAC_NOTCH_PMASK_HI
  row 0xAC [] [fr 23 0 .rw 0x10000 256 1048576],  -- MAC_NOTCH_PGUARD
  row 0xB0 [] [f 31 0 .rw 0],  -- MAC_NOTCH_PPLANID
  row 0xB4 [] [f 31 0 .rw 0],  -- MAC_NOTCH_ACT_LO
  row 0xB8 [] [f 7 0 .rw 0],  -- MAC_NOTCH_ACT_HI
  row 0x100 [] [f 31 0 .rc 0],  -- MAC_CNT_FCS
  row 0x104 [] [f 31 0 .rc 0],  -- MAC_CNT_NORES
  row 0x108 [] [f 31 0 .rc 0],  -- MAC_CNT_BCNDROP
  row 0x10C [] [f 31 0 .rc 0],  -- MAC_CNT_GTREJ
  row 0x110 [] [f 31 0 .rc 0],  -- MAC_CNT_RETRYDROP
  row 0x114 [] [f 31 0 .rc 0]]  -- MAC_CNT_DUP

/-- Rows of the register table of MAC (R181), part 2. -/
def macRows2 (_r : Nat) : List RegRow := [
  row 0x118 [] [f 31 0 .rc 0],  -- MAC_CNT_ROHOLE
  row 0x11C [] [f 31 0 .rc 0],  -- MAC_CNT_REPLAY
  row 0x120 [] [f 31 0 .rc 0],  -- MAC_CNT_MICFAIL
  row 0x124 [] [f 31 0 .rc 0],  -- MAC_CNT_NOKEY
  row 0x128 [] [f 31 0 .rc 0],  -- MAC_CNT_CRYABORT
  row 0x12C [] [f 31 0 .rc 0],  -- MAC_CNT_TWTRE
  row 0x130 [] [f 31 0 .rc 0],  -- MAC_CNT_TRIM
  row 0x134 [] [f 31 0 .rc 0],  -- MAC_CNT_NOTCHOVL
  row 0x138 [] [f 31 0 .rc 0],  -- MAC_CNT_NOTCHMIS
  row 0x13C [] [f 31 0 .rc 0],  -- MAC_CNT_STATE
  row 0x140 [] [f 31 0 .rc 0]]  -- MAC_CNT_RESOVF

/-- The register table of MAC (R181). -/
def mac (r : Nat) : List RegRow := macRows0 r ++ macRows1 r ++ macRows2 r

/-- Rows of the register table of FMAC (R261), part 0. -/
def fmacRows0 : List RegRow := [
  row 0x0 [] [f 31 0 .ro 0x86000531],  -- FMAC_ID
  row 0x4 [] [f 31 31 .rw 0, f 30 30 .rw 1],  -- FMAC_CTRL
  row 0x8 [] [f 31 30 .ro 0, f 29 29 .ro 0, f 28 28 .ro 0, f 27 25 .ro 0, f 24 24 .ro 0, f 23 22 .ro 0, f 21 21 .ro 0, f 9 0 .ro 0],  -- FMAC_STAT
  row 0xC [] [f 8 8 .w1c 0, f 7 0 .ro 0],  -- FMAC_ERR
  row 0x10 [(0x4, 4)] [f 31 0 .rw 0],  -- FMAC_CMD_W
  row 0x20 [] [f 0 0 .wo 0],  -- FMAC_CMD_PUSH
  row 0x24 [] [f 31 31 .rc 0, f 23 16 .rc 0, f 15 8 .rc 0, f 7 0 .rc 0],  -- FMAC_RES
  row 0x28 [] [f 4 0 .ro 0],  -- FMAC_RESLVL
  row 0x2C [] [f 4 0 .ro 3],  -- FMAC_CRYPG
  row 0x30 [] [f 31 0 .ro 0],  -- FMAC_SFN
  row 0x40 [] [f 29 24 .ro 7, f 23 20 .ro 4, f 19 16 .ro 2],  -- FMAC_SF
  row 0x44 [] [f 26 16 .ro 0x40, f 9 0 .ro 0x10],  -- FMAC_PLAIN
  row 0x48 [] [f 26 16 .ro 0x10, f 9 0 .ro 0x50],  -- FMAC_PASS
  row 0x4C [] [f 10 0 .ro 0x7FF],  -- FMAC_CHAN
  row 0x50 [] [f 29 24 .rw 7, f 23 20 .rw 4, f 19 16 .rw 2],  -- FMAC_PSF
  row 0x54 [] [fr 26 16 .rw 0x40 0 1024, f 9 0 .rw 0x10],  -- FMAC_PPLAIN
  row 0x58 [] [f 26 16 .rw 0x10, f 9 0 .rw 0x50],  -- FMAC_PPASS
  row 0x5C [] [f 10 0 .rw 0x7FF],  -- FMAC_PCHAN
  row 0x60 [] [f 31 0 .rw 0],  -- FMAC_ACT_LO
  row 0x64 [] [f 7 0 .rw 0],  -- FMAC_ACT_HI
  row 0x68 [] [f 15 0 .rwi 0],  -- FMAC_NETID
  row 0x6C [] [fr 15 0 .rwi 0 0 65533],  -- FMAC_SADDR
  row 0x70 [] [f 31 0 .rwi 0],  -- FMAC_EUI_LO
  row 0x74 [] [f 31 0 .rwi 0]]  -- FMAC_EUI_HI

/-- Rows of the register table of FMAC (R261), part 1. -/
def fmacRows1 : List RegRow := [
  row 0x78 [] [f 25 16 .rwi 0, f 9 0 .rwi 0],  -- FMAC_KEYS
  row 0x7C [] [f 31 24 .rw 0xA0, f 23 16 .rw 0xA0],  -- FMAC_MODES
  row 0x80 [] [fr 23 0 .rwi 0x40000 4096 524288],  -- FMAC_TXOFS
  row 0x84 [] [fr 15 0 .rwi 0x3E8 200 5000],  -- FMAC_TURN
  row 0x88 [] [fr 23 0 .rw 0x10000 256 262144],  -- FMAC_GBASE
  row 0x8C [] [fr 23 0 .rw 0x40000 256 8388608],  -- FMAC_GMAX
  row 0x90 [] [fr 23 0 .rw 0x40000 256 8388608],  -- FMAC_GFALL
  row 0x94 [] [fr 7 0 .rw 4 1 255],  -- FMAC_HOLD
  row 0x98 [] [fr 3 0 .rw 3 1 15],  -- FMAC_DLTRY
  row 0x9C [] [f 31 16 .rw 0, fr 11 8 .rw 2 0 3, f 7 0 .rw 0x10],  -- FMAC_PATH
  row 0xA0 [] [fr 3 0 .rw 8 0 8],  -- FMAC_PENDMAX
  row 0xA4 [] [fr 7 0 .rw 0x10 1 255],  -- FMAC_LLRETRY
  row 0xC0 [] [f 26 16 .rwi 0x7FF, fr 15 8 .rwi 1 1 255],  -- FMAC_UP_CTRL
  row 0xC4 [] [f 31 16 .rwi 0, f 15 0 .rwi 0],  -- FMAC_UP_PARENT
  row 0xC8 [] [f 31 0 .rwi 0],  -- FMAC_UP_EUI_LO
  row 0xCC [] [f 31 0 .rwi 0],  -- FMAC_UP_EUI_HI
  row 0xD0 [] [f 29 24 .rwi 7, f 23 20 .rwi 4, f 19 16 .rwi 2],  -- FMAC_UP_SF
  row 0xD4 [] [f 31 31 .rwi 0, f 29 0 .rwi 0],  -- FMAC_UP_ASSIGN
  row 0xD8 [] [f 15 8 .rwi 0xA0, f 7 0 .rwi 0xA0],  -- FMAC_UP_MODE
  row 0xDC [] [f 9 0 .rwi 0],  -- FMAC_UP_KEY
  row 0xE0 [] [f 31 16 .ro 0, f 15 0 .ro 0],  -- FMAC_UP_DRIFT
  row 0xE4 [] [f 31 0 .ro 0],  -- FMAC_UP_LAST_LO
  row 0xE8 [] [f 31 0 .ro 0],  -- FMAC_UP_LAST_HI
  row 0xEC [] [f 15 0 .ro 0]]  -- FMAC_UP_TC

/-- Rows of the register table of FMAC (R261), part 2. -/
def fmacRows2 : List RegRow := [
  row 0xF0 [] [f 31 31 .ro 0, f 2 0 .ro 0],  -- FMAC_UP_SEL
  row 0xF4 [] [f 31 24 .rw 0x9C, fr 15 0 .rw 0x258 10 65535],  -- FMAC_UP_MISC
  row 0x100 [(0x10, 8)] [f 31 31 .rw 0, f 30 30 .ro 0, f 27 24 .rw 0, f 23 16 .rw 0, f 15 0 .rw 0],  -- FMAC_PTAB_W0
  row 0x104 [(0x10, 8)] [f 31 16 .rw 0, f 10 0 .rw 0],  -- FMAC_PTAB_W1
  row 0x108 [(0x10, 8)] [f 31 16 .rw 0, f 15 8 .rw 0, f 7 0 .rw 0],  -- FMAC_PTAB_W2
  row 0x10C [(0x10, 8)] [f 31 16 .ro 0, f 13 8 .rw 0, f 3 0 .rw 0],  -- FMAC_PTAB_W3
  row 0x200 [(0x20, 4)] [f 31 31 .rw 0, f 30 30 .rw 0, f 19 0 .rw 0],  -- FMAC_DW_CTRL
  row 0x204 [(0x20, 4)] [f 19 0 .rw 0],  -- FMAC_DW_FHI
  row 0x208 [(0x20, 4)] [fr 31 16 .rw 0 1 65535, f 15 0 .rw 0],  -- FMAC_DW_WIN
  row 0x20C [(0x20, 4)] [f 31 0 .rw 0],  -- FMAC_DW_LIMIT
  row 0x210 [(0x20, 4)] [f 31 0 .rw 0],  -- FMAC_DW_RSV
  row 0x214 [(0x20, 4)] [f 31 0 .ro 0],  -- FMAC_DW_USED
  row 0x400 [] [f 31 0 .rc 0],  -- FMAC_CNT_BCN
  row 0x404 [] [f 31 0 .rc 0],  -- FMAC_CNT_BCNSKIP
  row 0x408 [] [f 31 0 .rc 0],  -- FMAC_CNT_POLL
  row 0x40C [] [f 31 0 .rc 0],  -- FMAC_CNT_PASSRX
  row 0x410 [] [f 31 0 .rc 0],  -- FMAC_CNT_MISSP
  row 0x414 [] [f 31 0 .rc 0],  -- FMAC_CNT_ABSENT
  row 0x418 [] [f 31 0 .rc 0],  -- FMAC_CNT_RELEASE
  row 0x41C [] [f 31 0 .rc 0],  -- FMAC_CNT_REACQ
  row 0x420 [] [f 31 0 .rc 0],  -- FMAC_CNT_DLOK
  row 0x424 [] [f 31 0 .rc 0],  -- FMAC_CNT_DLFAIL
  row 0x428 [] [f 31 0 .rc 0],  -- FMAC_CNT_FCS
  row 0x42C [] [f 31 0 .rc 0]]  -- FMAC_CNT_AUTH

/-- Rows of the register table of FMAC (R261), part 3. -/
def fmacRows3 : List RegRow := [
  row 0x430 [] [f 31 0 .rc 0],  -- FMAC_CNT_REPLAY
  row 0x434 [] [f 31 0 .rc 0],  -- FMAC_CNT_DUP
  row 0x438 [] [f 31 0 .rc 0],  -- FMAC_CNT_NOKEY
  row 0x43C [] [f 31 0 .rc 0],  -- FMAC_CNT_NORES
  row 0x440 [] [f 31 0 .rc 0],  -- FMAC_CNT_DWELL
  row 0x444 [] [f 31 0 .rc 0],  -- FMAC_CNT_RADIOREJ
  row 0x448 [] [f 31 0 .rc 0],  -- FMAC_CNT_UPMISSB
  row 0x44C [] [f 31 0 .rc 0],  -- FMAC_CNT_UPSILENT
  row 0x450 [] [f 31 0 .rc 0],  -- FMAC_CNT_UPLISTEN
  row 0x454 [] [f 31 0 .rc 0],  -- FMAC_CNT_UPSELECT
  row 0x458 [] [f 31 0 .rc 0],  -- FMAC_CNT_STATE
  row 0x45C [] [f 31 0 .rc 0]]  -- FMAC_CNT_RESOVF

/-- The register table of FMAC (R261). -/
def fmac : List RegRow := fmacRows0 ++ fmacRows1 ++ fmacRows2 ++ fmacRows3

/-- Rows of the register table of STP (R215), part 0. -/
def stpRows0 : List RegRow := [
  row 0x0 [] [f 31 0 .ro 0x86000601],  -- STP_ID
  row 0x4 [] [f 2 2 .rw 1, f 1 1 .rw 1, f 0 0 .rw 1],  -- STP_CTRL
  row 0x8 [] [f 31 30 .ro 0, f 27 16 .ro 0, f 11 0 .ro 0],  -- STP_STAT
  row 0xC [] [f 8 8 .w1c 0, f 7 0 .ro 0],  -- STP_ERR
  row 0x10 [(0x4, 4)] [f 31 0 .rw 0],  -- STP_CMD_W
  row 0x20 [] [f 0 0 .wo 0],  -- STP_CMD_PUSH
  row 0x24 [] [f 31 31 .rc 0, f 23 16 .rc 0, f 15 8 .rc 0, f 7 0 .rc 0],  -- STP_RES
  row 0x28 [] [f 4 0 .ro 0],  -- STP_RESLVL
  row 0x2C [] [f 31 16 .wo 0, f 11 0 .wo 0],  -- STP_PEND
  row 0x30 [] [f 31 0 .rwi 0],  -- STP_HISTBASE_LO
  row 0x34 [] [f 3 0 .rwi 0],  -- STP_HISTBASE_HI
  row 0x40 [] [fr 23 0 .rw 0x20000 256 4194304],  -- STP_GBASE
  row 0x44 [] [fr 23 0 .rw 0x400000 256 8388608],  -- STP_GMAX
  row 0x48 [] [fr 19 16 .rw 8 1 15, fr 11 8 .rw 1 0 7, fr 3 0 .rw 4 0 10],  -- STP_DRIFT
  row 0x4C [] [fr 3 0 .rw 4 2 15],  -- STP_PLANLEAD
  row 0x50 [] [fr 23 16 .rw 0x10 1 148, fr 15 8 .rw 0x10 1 74, fr 7 0 .rw 8 1 18],  -- STP_MUMAX
  row 0x54 [] [fr 4 0 .rw 0x10 1 16],  -- STP_ULMAX
  row 0x58 [] [f 7 0 .rw 0xC0],  -- STP_FILL
  row 0x5C [] [fr 15 0 .rw 0x7D0 100 5484],  -- STP_PPDUMAX
  row 0x60 [] [fr 15 0 .rw 0x7D0 100 20000],  -- STP_STGTIME
  row 0x64 [] [fr 15 0 .rw 0x400 8 8192],  -- STP_STGCAP
  row 0x68 [] [fr 15 0 .rw 0x3E8 0 50000],  -- STP_PRESTAGE
  row 0x6C [] [f 31 24 .rw 0xE6, f 23 16 .rw 0x60, fr 15 0 .rw 0x20 1 65535],  -- STP_RATE
  row 0x70 [] [f 31 16 .rw 0x1F4, fr 7 0 .rw 2 1 31]]  -- STP_MOVE

/-- Rows of the register table of STP (R215), part 1. -/
def stpRows1 : List RegRow := [
  row 0x74 [] [fr 7 0 .rw 0x10 1 255],  -- STP_ULRATIO
  row 0x78 [] [fr 15 0 .rw 0x14 1 1000],  -- STP_BSRPPER
  row 0x7C [] [fr 23 0 .rw 0x7D0 100 10000000],  -- STP_TWTLEAD
  row 0x80 [] [fr 3 0 .rw 2 1 15],  -- STP_SPTRY
  row 0x90 [(0x4, 3)] [f 23 0 .ro 0],  -- STP_LWAIT
  row 0xA0 [] [f 15 0 .rc 0],  -- STP_DECMAX
  row 0x100 [] [f 31 0 .rc 0],  -- STP_CNT_DEC
  row 0x104 [] [f 31 0 .rc 0],  -- STP_CNT_SU
  row 0x108 [] [f 31 0 .rc 0],  -- STP_CNT_MU
  row 0x10C [] [f 31 0 .rc 0],  -- STP_CNT_TRIG
  row 0x110 [] [f 31 0 .rc 0],  -- STP_CNT_MOVE
  row 0x114 [] [f 31 0 .rc 0],  -- STP_CNT_LINKDROP
  row 0x118 [] [f 31 0 .rc 0],  -- STP_CNT_MISS
  row 0x11C [] [f 31 0 .rc 0],  -- STP_CNT_LISTEN
  row 0x120 [] [f 31 0 .rc 0],  -- STP_CNT_REACQ
  row 0x124 [] [f 31 0 .rc 0],  -- STP_CNT_LOST
  row 0x128 [] [f 31 0 .rc 0],  -- STP_CNT_HISTERR
  row 0x12C [] [f 31 0 .rc 0],  -- STP_CNT_OVERRUN
  row 0x130 [] [f 31 0 .rc 0],  -- STP_CNT_STATE
  row 0x134 [] [f 31 0 .rc 0]]  -- STP_CNT_RESOVF

/-- The register table of STP (R215). -/
def stp : List RegRow := stpRows0 ++ stpRows1

/-- Rows of the register table of ODE (R473), part 0. -/
def odeRows0 : List RegRow := [
  row 0x0 [] [f 31 0 .ro 0x86001201],  -- ODE_ID
  row 0x4 [] [f 31 31 .rw 0, f 29 29 .rw 0, f 28 28 .rw 0, f 27 27 .rw 0, f 26 26 .rw 0],  -- ODE_CTRL
  row 0x8 [] [f 31 29 .ro 0, f 28 28 .ro 0, f 24 24 .ro 1, f 20 16 .ro 0],  -- ODE_STAT
  row 0xC [] [f 8 8 .w1c 0, f 7 0 .ro 0],  -- ODE_ERR
  row 0x10 [] [f 2 0 .wo 0],  -- ODE_STATECMD
  row 0x14 [] [f 31 0 .ro 0],  -- ODE_IMGID
  row 0x18 [] [f 14 0 .ro 0],  -- ODE_NPARAM
  row 0x20 [(0x4, 12)] [f 31 0 .ro 0],  -- ODE_DIG
  row 0x50 [] [f 31 0 .ro 0],  -- ODE_GEN
  row 0x54 [] [fr 31 16 .rw 0x3E8 0 60000, fr 1 0 .rw 2 0 2],  -- ODE_DIGPOL
  row 0x58 [] [fr 15 0 .rw 0x3C 10 65535],  -- ODE_PULLBACK
  row 0x60 [] [fr 15 0 .rw 0x4844 1024 65535],  -- ODE_UDPPORT
  row 0x64 [] [f 6 0 .rw 0],  -- ODE_CANID
  row 0x68 [] [f 31 31 .rwi 0, f 30 30 .rwi 0, fr 5 0 .rwi 0 0 47],  -- ODE_SPICFG
  row 0x6C [] [fr 11 0 .rw 0x3C 10 3600],  -- ODE_SESTMO
  row 0x70 [] [fr 9 0 .rw 0x14 1 1000],  -- ODE_FWTMO
  row 0x74 [] [fr 9 0 .rw 0x14 1 1000],  -- ODE_EVBATCH
  row 0x80 [] [f 31 0 .rwi 0],  -- ODE_JBASE
  row 0x88 [] [fr 20 16 .rwi 0xC 12 18, fr 7 0 .rwi 4 2 128],  -- ODE_JGEOM
  row 0x8C [] [fr 13 0 .rw 0xC8 10 10000],  -- ODE_JCOMMIT
  row 0x90 [] [f 31 30 .ro 0, f 23 16 .ro 0, f 15 0 .ro 0],  -- ODE_JSTAT
  row 0x94 [] [f 31 0 .ro 0],  -- ODE_JWEAR
  row 0x98 [] [f 31 0 .rw 0x13880],  -- ODE_JWEARALM
  row 0xA0 [] [f 31 0 .rw 0]]  -- ODE_MBXIN_ADDR

/-- Rows of the register table of ODE (R473), part 1. -/
def odeRows1 : List RegRow := [
  row 0xA4 [] [f 31 16 .wo 0, fr 10 0 .wo 0 12 1400],  -- ODE_MBXIN_PUSH
  row 0xA8 [] [f 31 31 .rc 0, f 30 16 .rc 0, f 10 0 .rc 0],  -- ODE_MBXOUT
  row 0xAC [] [f 31 0 .ro 0],  -- ODE_MBXOUT_ADDR
  row 0xC0 [(0x4, 6)] [f 31 31 .rc 0, f 30 28 .rc 0, f 27 16 .rc 0, f 15 0 .rc 0],  -- ODE_FWREQ
  row 0xE0 [(0x4, 6)] [f 31 28 .wo 0, f 27 16 .wo 0, f 7 0 .wo 0],  -- ODE_FWRES
  row 0xF8 [] [f 31 0 .ro 0],  -- ODE_FWREF
  row 0xFC [] [f 31 0 .ro 0],  -- ODE_FWBUF
  row 0x100 [] [f 10 0 .rw 0],  -- ODE_FWLEN
  row 0x200 [] [f 31 0 .rc 0],  -- ODE_CNT_REQ
  row 0x204 [] [f 31 0 .rc 0],  -- ODE_CNT_STATE
  row 0x208 [] [f 31 0 .rc 0],  -- ODE_CNT_RIGHTS
  row 0x20C [] [f 31 0 .rc 0],  -- ODE_CNT_AUTH
  row 0x210 [] [f 31 0 .rc 0],  -- ODE_CNT_REPLAY
  row 0x214 [] [f 31 0 .rc 0],  -- ODE_CNT_FWLATE
  row 0x218 [] [f 31 0 .rc 0],  -- ODE_CNT_CANSEG
  row 0x21C [] [f 31 0 .rc 0],  -- ODE_CNT_SPICRC
  row 0x220 [] [f 31 0 .rc 0],  -- ODE_CNT_EVLOST
  row 0x224 [] [f 31 0 .rc 0],  -- ODE_CNT_JLOST
  row 0x228 [] [f 31 0 .rc 0],  -- ODE_CNT_JSKIP
  row 0x22C [] [f 31 0 .rc 0],  -- ODE_CNT_JRETIRE
  row 0x230 [] [f 31 0 .rc 0],  -- ODE_CNT_DIGNEW
  row 0x234 [] [f 31 0 .rc 0],  -- ODE_CNT_DIGOLD
  row 0x238 [] [f 31 0 .rc 0],  -- ODE_CNT_DIGCONF
  row 0x23C [] [f 31 0 .rc 0]]  -- ODE_CNT_PULLOK

/-- Rows of the register table of ODE (R473), part 2. -/
def odeRows2 : List RegRow := [
  row 0x240 [] [f 31 0 .rc 0],  -- ODE_CNT_PULLFAIL
  row 0x400 [(0x20, 32), (0x4, 2)] [f 31 0 .ro 0],  -- ODE_NBR_ADDR
  row 0x408 [(0x20, 32)] [f 31 31 .ro 0, f 25 24 .ro 0, f 19 16 .ro 0],  -- ODE_NBR_INFO
  row 0x40C [(0x20, 32)] [f 31 0 .ro 0],  -- ODE_NBR_GEN
  row 0x410 [(0x20, 32), (0x4, 2)] [f 31 0 .ro 0],  -- ODE_NBR_DIG
  row 0x418 [(0x20, 32)] [f 31 0 .ro 0]]  -- ODE_NBR_AGE

/-- The register table of ODE (R473). -/
def ode : List RegRow := odeRows0 ++ odeRows1 ++ odeRows2

/-- Rows of the register table of ETH (R311), part 0. -/
def ethRows0 : List RegRow := [
  row 0x0 [(0x1000, 6)] [f 31 0 .ro 0],  -- ETH_ID
  row 0x4 [(0x1000, 6)] [f 31 31 .rw 0, fr 30 28 .rwi 0 0 3, f 23 23 .rw 0, f 22 22 .rw 0, fr 21 20 .rw 0 0 2, f 19 19 .rwi 0],  -- ETH_CTRL
  row 0x8 [(0x1000, 6)] [f 31 31 .ro 0, f 30 28 .ro 0, f 27 24 .ro 0],  -- ETH_STAT
  row 0xC [(0x1000, 6)] [f 8 8 .w1c 0, f 7 0 .ro 0],  -- ETH_ERR
  row 0x10 [(0x1000, 6)] [fr 13 0 .rwi 0x5F2 64 11454],  -- ETH_MAXLEN
  row 0x14 [(0x1000, 6)] [f 31 16 .rw 0, f 15 0 .rw 0],  -- ETH_TSDLY
  row 0x18 [(0x1000, 6)] [f 15 0 .rw 0xFFFF],  -- ETH_PAUSEQ
  row 0x20 [(0x1000, 6)] [f 31 31 .rc 0, f 15 0 .rc 0],  -- ETH_TXTS
  row 0x24 [(0x1000, 6)] [f 31 0 .ro 0],  -- ETH_TXTS_GT_LO
  row 0x28 [(0x1000, 6)] [f 31 0 .ro 0],  -- ETH_TXTS_GT_HI
  row 0x2C [(0x1000, 6)] [f 31 0 .ro 0],  -- ETH_TXTS_NS_LO
  row 0x30 [(0x1000, 6)] [f 31 0 .ro 0],  -- ETH_TXTS_NS_HI
  row 0x40 [(0x1000, 6)] [f 31 0 .rc 0],  -- ETH_CNT_RXOK
  row 0x44 [(0x1000, 6)] [f 31 0 .rc 0],  -- ETH_CNT_RXFCS
  row 0x48 [(0x1000, 6)] [f 31 0 .rc 0],  -- ETH_CNT_RXLEN
  row 0x4C [(0x1000, 6)] [f 31 0 .rc 0],  -- ETH_CNT_RXDROP
  row 0x50 [(0x1000, 6)] [f 31 0 .rc 0],  -- ETH_CNT_TXOK
  row 0x54 [(0x1000, 6)] [f 31 0 .rc 0],  -- ETH_CNT_MSINV
  row 0x58 [(0x1000, 6)] [f 31 0 .rc 0],  -- ETH_CNT_MSUNT
  row 0x5C [(0x1000, 6)] [f 31 0 .rc 0],  -- ETH_CNT_MSREPLAY
  row 0x60 [(0x1000, 6)] [f 31 0 .rc 0],  -- ETH_CNT_PNEXH
  row 0x64 [(0x1000, 6)] [f 31 0 .rc 0],  -- ETH_CNT_TSOVF
  row 0x200 [(0x1000, 6), (0x40, 4)] [f 31 0 .rw 0],  -- ETH_RXSC_SCI_LO
  row 0x204 [(0x1000, 6), (0x40, 4)] [f 31 0 .rw 0]]  -- ETH_RXSC_SCI_HI

/-- Rows of the register table of ETH (R311), part 1. -/
def ethRows1 : List RegRow := [
  row 0x208 [(0x1000, 6), (0x40, 4)] [f 31 31 .rw 0, f 1 1 .rw 0],  -- ETH_RXSC_CFG
  row 0x20C [(0x1000, 6), (0x40, 4)] [f 31 0 .rw 0],  -- ETH_RXSC_RPW
  row 0x210 [(0x1000, 6), (0x40, 4), (0x4, 4)] [f 31 31 .rw 0, f 9 0 .rw 0],  -- ETH_RXSC_KEY
  row 0x220 [(0x1000, 6), (0x40, 4), (0x8, 4)] [f 31 0 .rw 0],  -- ETH_RXSC_PN_LO
  row 0x224 [(0x1000, 6), (0x40, 4), (0x8, 4)] [f 31 0 .rw 0],  -- ETH_RXSC_PN_HI
  row 0x300 [(0x1000, 6)] [f 31 0 .rw 0],  -- ETH_TXSC_SCI_LO
  row 0x304 [(0x1000, 6)] [f 31 0 .rw 0],  -- ETH_TXSC_SCI_HI
  row 0x308 [(0x1000, 6)] [f 31 31 .rw 0, f 9 9 .rw 0, f 8 8 .rw 0, f 7 7 .rw 0, f 1 0 .rw 0],  -- ETH_TXSC_CFG
  row 0x310 [(0x1000, 6), (0x4, 4)] [f 31 31 .rw 0, f 9 0 .rw 0],  -- ETH_TXSC_KEY
  row 0x320 [(0x1000, 6), (0x8, 4)] [f 31 0 .rw 0],  -- ETH_TXSC_PN_LO
  row 0x324 [(0x1000, 6), (0x8, 4)] [f 31 0 .rw 0],  -- ETH_TXSC_PN_HI
  row 0x8000 [] [f 31 31 .rw 0],  -- ETH_PTP_CTRL
  row 0x8004 [] [f 31 0 .ro 0],  -- ETH_PTP_NS_LO
  row 0x8008 [] [f 31 0 .ro 0],  -- ETH_PTP_NS_HI
  row 0x800C [] [f 31 0 .ro 0],  -- ETH_PTP_GT_LO
  row 0x8010 [] [f 31 0 .ro 0],  -- ETH_PTP_GT_HI
  row 0x8014 [] [f 31 0 .rw 0],  -- ETH_PTP_RATE
  row 0x8018 [] [f 31 0 .rw 0],  -- ETH_PTP_STEP_LO
  row 0x801C [] [f 31 0 .rw 0],  -- ETH_PTP_STEP_HI
  row 0x8020 [] [f 31 31 .w1s 0, f 30 30 .rw 0, f 29 28 .rw 0, f 25 21 .rw 0, f 20 16 .rw 0],  -- ETH_MDIO_CMD
  row 0x8024 [] [f 15 0 .rw 0],  -- ETH_MDIO_DATA
  row 0x8028 [] [f 7 0 .rw 0x27]]  -- ETH_MDIO_DIV

/-- The register table of ETH (R311). -/
def eth : List RegRow := ethRows0 ++ ethRows1

/-- Rows of the register table of CAN (R474), part 0. -/
def canRows0 : List RegRow := [
  row 0x0 [(0x1000, 2)] [f 31 0 .ro 0],  -- CAN_ID
  row 0x4 [(0x1000, 2)] [f 31 31 .rw 0, f 30 30 .rw 0, f 29 29 .rw 1],  -- CAN_CTRL
  row 0x8 [(0x1000, 2)] [f 31 30 .ro 0, f 15 8 .ro 0, f 7 0 .ro 0],  -- CAN_STAT
  row 0xC [(0x1000, 2)] [f 8 8 .w1c 0, f 7 0 .ro 0],  -- CAN_ERR
  row 0x10 [(0x1000, 2)] [f 31 24 .rwi 4, f 23 16 .rwi 0x3E, f 14 8 .rwi 0xF, f 6 0 .rwi 0xF],  -- CAN_NBT
  row 0x14 [(0x1000, 2)] [f 31 24 .rwi 0, f 23 16 .rwi 0x1E, f 14 8 .rwi 7, f 6 0 .rwi 7],  -- CAN_DBT
  row 0x18 [(0x1000, 2)] [f 7 0 .rwi 0x1F],  -- CAN_TDC
  row 0x20 [(0x1000, 2)] [f 31 31 .rc 0, f 30 30 .rc 0, f 29 29 .rc 0, f 28 0 .rc 0],  -- CAN_RXF_HDR
  row 0x24 [(0x1000, 2)] [f 5 5 .ro 0, f 3 0 .ro 0],  -- CAN_RXF_INFO
  row 0x40 [(0x1000, 2), (0x4, 16)] [f 31 0 .ro 0],  -- CAN_RXF_DATA
  row 0x80 [(0x1000, 2)] [f 30 30 .rw 0, f 29 29 .rw 0, f 28 0 .rw 0],  -- CAN_TXF_HDR
  row 0x84 [(0x1000, 2)] [f 5 5 .rw 0, f 3 0 .rw 0],  -- CAN_TXF_INFO
  row 0x88 [(0x1000, 2)] [f 0 0 .wo 0],  -- CAN_TXF_PUSH
  row 0xC0 [(0x1000, 2), (0x4, 16)] [f 31 0 .rw 0],  -- CAN_TXF_DATA
  row 0x100 [(0x1000, 2)] [f 31 0 .rc 0],  -- CAN_CNT_RXOK
  row 0x104 [(0x1000, 2)] [f 31 0 .rc 0],  -- CAN_CNT_TXOK
  row 0x108 [(0x1000, 2)] [f 31 0 .rc 0],  -- CAN_CNT_RXOVF
  row 0x10C [(0x1000, 2)] [f 31 0 .rc 0]]  -- CAN_CNT_BUSOFF

/-- The register table of CAN (R474). -/
def can : List RegRow := canRows0

/-- The register table of DALI (R23): the spec gives this window no register. -/
def dali : List RegRow := []

/-- Rows of the register table of XSPI (R527), part 0. -/
def xspiRows0 : List RegRow := [
  row 0x0 [] [f 31 0 .ro 0x86001501],  -- XSPI_ID
  row 0x4 [] [f 31 31 .rwi 0, fr 30 29 .rwi 0 0 2, f 28 28 .rwi 0, f 27 27 .rwi 0, f 26 26 .rwi 0, f 7 0 .rwi 7],  -- XSPI_CTRL
  row 0x8 [] [f 31 31 .ro 1, f 30 30 .ro 0, f 29 29 .ro 0, f 4 0 .ro 0],  -- XSPI_STAT
  row 0xC [] [f 8 8 .w1c 0, f 7 0 .ro 0],  -- XSPI_ERR
  row 0x10 [] [f 31 28 .rw 0, f 25 24 .rw 0, f 23 16 .rw 0, f 7 0 .rw 0],  -- XSPI_OP_W0
  row 0x14 [] [f 31 0 .rw 0],  -- XSPI_OP_W1
  row 0x18 [] [f 31 0 .rw 0],  -- XSPI_OP_W2
  row 0x1C [] [f 31 0 .rw 0],  -- XSPI_OP_W3
  row 0x20 [] [f 31 0 .rw 0],  -- XSPI_OP_W4
  row 0x24 [] [f 0 0 .wo 0],  -- XSPI_OP_PUSH
  row 0x28 [] [f 31 31 .rc 0, f 23 16 .rc 0, f 15 12 .rc 0, f 7 0 .rc 0],  -- XSPI_RES
  row 0x2C [] [f 31 0 .rw 0],  -- XSPI_FIFO
  row 0x30 [(0x8, 4)] [f 23 0 .rwm 0],  -- XSPI_WP_BASE
  row 0x34 [(0x8, 4)] [f 23 0 .rwm 0],  -- XSPI_WP_SIZE
  row 0x50 [] [f 31 0 .rc 0],  -- XSPI_CNT_OPS
  row 0x54 [] [f 31 0 .rc 0],  -- XSPI_CNT_FAIL
  row 0x58 [] [f 31 0 .rc 0]]  -- XSPI_CNT_SUSP

/-- The register table of XSPI (R527). -/
def xspi : List RegRow := xspiRows0

/-- Rows of the register table of SYS (R526), part 0. -/
def sysRows0 : List RegRow := [
  row 0x0 [] [f 31 0 .ro 0x86001401],  -- SYS_ID
  row 0x4 [] [f 31 31 .w1s 0],  -- SYS_CTRL
  row 0x8 [] [f 25 0 .ro 0],  -- SYS_STEPOK
  row 0xC [] [f 25 0 .w1s 0],  -- SYS_STEPSET
  row 0x10 [] [f 25 0 .w1c 0],  -- SYS_STEPCLR
  row 0x14 [] [f 25 0 .ro 0],  -- SYS_READY
  row 0x18 [] [f 31 24 .ro 0, f 23 16 .ro 0],  -- SYS_RSTCAUSE
  row 0x1C [] [f 31 16 .wo 0, f 1 0 .wo 0],  -- SYS_RSTCMD
  row 0x20 [] [f 31 31 .w1s 0, fr 15 0 .rw 0x1F40 100 60000],  -- SYS_WDT
  row 0x24 [] [f 31 0 .wo 0],  -- SYS_WDT_KICK
  row 0x28 [] [f 31 30 .ro 0, f 29 29 .ro 0, f 23 16 .ro 0, f 15 8 .ro 0],  -- SYS_BOOTSTAT
  row 0x2C [] [f 31 31 .ro 0, f 8 0 .ro 0],  -- SYS_OTPCNT
  row 0x30 [] [f 0 0 .wo 0],  -- SYS_OTPCNT_INC
  row 0x40 [(0x4, 4)] [f 31 0 .rw 0],  -- SYS_AONSCR
  row 0x50 [] [f 31 31 .rc 0, f 30 30 .rc 0, f 20 16 .rc 0],  -- SYS_ACCERR
  row 0x54 [] [f 31 0 .ro 0],  -- SYS_ACCADDR_LO
  row 0x58 [] [f 3 0 .ro 0],  -- SYS_ACCADDR_HI
  row 0x60 [] [f 7 7 .rw 1, f 6 6 .rw 1, f 5 5 .rw 1, f 4 4 .rw 1, f 3 3 .rw 1, f 2 2 .rw 1, f 1 1 .rw 1, f 0 0 .rw 1],  -- SYS_CLKEN
  row 0x64 [] [f 15 0 .ro 0],  -- SYS_TEL_TEMP
  row 0x68 [] [f 31 0 .ro 0],  -- SYS_TEL_VMON
  row 0x6C [] [f 31 0 .ro 0],  -- SYS_TEL_GT_LO
  row 0x70 [] [f 31 0 .ro 0],  -- SYS_TEL_GT_HI
  row 0x74 [] [f 8 8 .w1c 0, f 7 0 .ro 0],  -- SYS_ERR
  row 0x100 [(0x4, 30)] [f 20 0 .rw 0x1FFFFF]]  -- SYS_ACC

/-- Rows of the register table of SYS (R526), part 1. -/
def sysRows1 : List RegRow := [
  row 0x180 [(0x4, 32)] [f 20 0 .rw 0x1FFFFF],  -- SYS_ACCPG
  row 0x200 [(0x4, 6)] [fr 31 28 .rw 0 0 3, fr 27 24 .rw 0 0 3, fr 23 20 .rw 0 0 3, fr 19 16 .rw 0 0 3, fr 15 12 .rw 0 0 3, fr 11 8 .rw 0 0 3, fr 7 4 .rw 0 0 3, fr 3 0 .rw 0 0 3],  -- SYS_GPIOFN
  row 0x220 [] [f 31 0 .rw 0],  -- SYS_GPIO_OUT_LO
  row 0x224 [] [f 15 0 .rw 0],  -- SYS_GPIO_OUT_HI
  row 0x228 [] [f 31 0 .rw 0],  -- SYS_GPIO_OE_LO
  row 0x22C [] [f 15 0 .rw 0],  -- SYS_GPIO_OE_HI
  row 0x230 [] [f 31 0 .ro 0],  -- SYS_GPIO_IN_LO
  row 0x234 [] [f 15 0 .ro 0]]  -- SYS_GPIO_IN_HI

/-- The register table of SYS (R526). -/
def sys : List RegRow := sysRows0 ++ sysRows1

end RegMap

end Sys2Proof.Machine
end

