-- ==== Sys2Proof/Machine/State.lean ====
section
/-! DEFINITION. The state of the DN-8600, as plain data: the registers, the memories, and per block the state that no
register shows. What a register shows has the register as its one home. -/

namespace Sys2Proof.Machine

/-- Why the machine stops with a fault. No meaning of this model raises one: every access the spec forbids ends with a
bus error, which is a next state (R5, R21, R22, R25). -/
inductive Fault where
  /-- Raised by nobody; safe. -/
  | unreachable
deriving DecidableEq, Repr

/-- Why the machine refuses a command. -/
inductive Refusal where
  /-- Raised by the arm of a command that has no meaning yet, in Machine/Dispatch.lean; safe. -/
  | notModelled (mnemonic : String)
deriving DecidableEq, Repr

/-- What the part puts out: bus answers, pin levels, strobes, frames and messages. The newest stands first. -/
inductive Out where
  /-- Data returned to an initiator by a read. -/
  | busData (i : Init) (v : Word)
  /-- A bus error returned to an initiator (R5, R21, R22, R25). -/
  | busError (i : Init) (a : Nat)
  /-- The strobe of a compare channel reaches a strobe input (R32). -/
  | strobe (index : Nat) (at_ : GTime)
  /-- A pulse on an EIRQ pin (R64). -/
  | eirqPulse (p : Nat)
  /-- A status block goes from a modem to its MAC (R128). -/
  | rxBlock (r : Radio) (words : List Word)
  /-- A PPDU ended: the transmit vector, the applied power and the status (R131, R133). -/
  | ppduSent (r : Radio) (vector : List Word) (power status : Nat)
  /-- A beacon is committed: its Timestamp, its grid-time element, and the next Target Wake Time of each broadcast TWT ID
  (R147, R161). -/
  | beacon (radio bss timestamp : Nat) (gte : List Byte) (twts : List (Nat × Nat))
  /-- A control response: 0 Ack, 1 BlockAck, 2 multi-STA BlockAck, 3 CTS, with the SNs acknowledged per client and TID (R143). -/
  | response (radio kind : Nat) (acks : List (Nat × Nat × List Nat))
  /-- A Trigger frame: its RU table and its padding in µs (R165). -/
  | trigger (radio table pad : Nat)
  /-- An unsolicited TWT Setup frame with the corrected Target Wake Time and wake interval (R162). -/
  | twtSetup (radio client flow target interval : Nat)
  /-- A port sends a PAUSE frame of so many quanta (R304). -/
  | pause (p : Nat) (quanta : Nat)
  /-- Steppe gives a MAC a plan: none, one user, or an RU table at an address (R200, R202). -/
  | plan (radio kind : Nat) (users : List Nat) (table ac limit : Nat)
  /-- MAC S commits a transmission: its PSDU with FCS, its mode byte, and the grid time of its first sample (R228, R235). -/
  | fieldTx (psdu : List Byte) (mode : Nat) (start : GTime)
  /-- A frame leaves an Ethernet port, with its FCS (R303). -/
  | ethTx (p : Nat) (bytes : List Byte)
  /-- An MDIO transaction starts: the command word and the data (R311). -/
  | mdio (cmd data : Nat)
  /-- The cipher engine answers an inline block: the page, the status, the output bytes and the tag (R391). -/
  | cryResult (page status : Nat) (data tag : List Byte)
  /-- The JTAG mailbox shows a challenge (R407). -/
  | challenge (bytes : List Byte)
  /-- Memory data returned to an initiator (R413). -/
  | memData (i : Init) (data : List (BitVec 8))
  /-- The verifier ends: its target and status (R404). -/
  | verified (target status : Nat)
  /-- A frame leaves a CAN port: its header word and data (R474). -/
  | canTx (p hdr : Nat) (data : List Byte)
  /-- A forward frame on DALI0: a direct level, or OFF at level 0 (R494). -/
  | dali (level : Nat)
  /-- Bytes that the SPI target port returns (R460). -/
  | spi (bytes : List Byte)
deriving DecidableEq, Repr

/-- State of the GTU that no register holds (R37 to R62, R552). -/
structure GtuSt where
  /-- The accumulator: grid time in [91:28], the fraction of an angle unit below. -/
  acc : BitVec 92
  /-- GTF ticks since reset. -/
  ticks : Nat
  /-- Each initiator's latch of GTU_NOW_HI (R55). -/
  nowHi : Sparse Word
  /-- Grid time of the last valid crossing, shown by GTU_XLAST (R67). -/
  xlast : GTime
  /-- The grid time predicted for the next crossing, when there is a prediction (R39). -/
  pred : Option GTime
  /-- Spacings of the latest consecutive crossings in ns, newest first, at most 8 (R53). -/
  spacings : List Nat
  /-- Phase error at the last crossing that counts for R53. -/
  lastE : Int
  /-- Consecutive valid crossings with |e| below 0x1000 in FREE (R44). -/
  lockRun : Nat
  /-- The present holdover was entered by command HOLD (R54). -/
  holdCmd : Bool
  /-- RELEARN was accepted in ALIGNED and its samples are being collected (R67). -/
  relearn : Bool
  /-- Beacon samples collected under R47, newest first. -/
  samples : List Int
  /-- Consecutive samples outside the tolerance in ALIGNED, newest first (R48). -/
  outRun : List Int
  /-- Grid time at which GTU_OFS last changed, for the limit of 336 units per cycle (R48). -/
  ofsAt : GTime
  /-- The last discipline event: its grid time and the magnitude of its error (R52). -/
  disc : Option (GTime × Nat)
  /-- Grid time of the last sample or pair that agreed with grid time (R53). -/
  agreeAt : Option GTime
  /-- The last committed pair of grid time and PTP time (R50). -/
  pair : Option (GTime × Nat)
  /-- Compare value in force of each armed channel (R57). -/
  gcCmp : Sparse Nat
  /-- Period in force of each armed channel (R57). -/
  gcPer : Sparse Nat
  /-- The level the GTU drives on each GPIO ball assigned to it (R552). -/
  pins : BitVec 48
  /-- For a pulsing ball, one more than the tick at which its pulse ends (R552). -/
  pulseEnd : Sparse Nat
  /-- What each replica of grid time reads (R34, R56): 0-3 RFC, 4-7 MDM, 8-11 MAC, 12 STP, 13 ETH, 14 ODE. -/
  replica : Sparse Nat
  /-- The increment last broadcast to the replicas (R56). -/
  replicaInc : Nat
deriving DecidableEq, Repr

/-- One entry of the subscription FIFO (R65). -/
structure SubEntry where
  event : Nat
  count : Nat
  stamp : GTime
deriving DecidableEq, Repr

/-- State of the event router that no register holds (R63 to R69). -/
structure EvrSt where
  /-- The subscription FIFO, oldest first, at most 64 entries. -/
  fifo : List SubEntry
  /-- Pulses each EIRQ pin still owes in pulse mode (R64). -/
  pulses : Sparse Nat
deriving DecidableEq, Repr

/-- State of SYS that no register holds, the part that records denied accesses (R25, R526). -/
structure AccSt where
  /-- Held denials, oldest first, at most 16: the initiator's number and the address. -/
  held : List (Nat × Nat)
  /-- A denial was lost because 16 were held. -/
  ovf : Bool
deriving DecidableEq, Repr

/-- One result of a command queue: TAG, OPC, STATUS and the grid time of completion (R79, R179, R190, R259, R320). -/
structure Res where
  tag : Nat
  opc : Nat
  status : Nat
  stamp : GTime
deriving DecidableEq, Repr
/-- One item for each radio. -/
structure Per4 (α : Type) where
  l : α
  m : α
  h : α
  s : α
deriving DecidableEq, Repr

/-- A front-end command (R73). -/
structure RfcCmd where
  opc : Nat
  tag : Nat
  trig : Nat
  notify : Bool
  ret : Bool
  store : Bool
  index : Nat
  start : Nat
  deadline : Nat
  arg : Nat
deriving DecidableEq, Repr

/-- What a front-end controller is carrying out. -/
inductive RfcWork where
  /-- A transition to a radio state (R71). -/
  | trans (target : Nat)
  /-- A run of calibration steps (R92). -/
  | cal
  /-- A PPDU on the air. -/
  | tx
deriving DecidableEq, Repr

/-- The command in execution; a run without a command is an automatic calibration or the way back from a PPDU. -/
structure RfcRun where
  cmd : Option RfcCmd
  fw : Bool
  work : RfcWork
deriving DecidableEq, Repr

/-- A command held under R81 or behind a calibration (R83). -/
structure RfcHeld where
  cmd : RfcCmd
  fw : Bool
  onAir : Nat
  deadline : Nat
deriving DecidableEq, Repr

/-- The prepared-record register (R88). -/
structure RfcPrep where
  index : Nat
  words : List Word
  valid : Bool
  fresh : Bool
deriving DecidableEq, Repr

/-- An armed DPDUP (R98). -/
structure RfcDpd where
  cmd : RfcCmd
  captured : Bool
deriving DecidableEq, Repr

/-- State of a front-end controller that no register holds (R70 to R102). -/
structure RfcSt where
  /-- The firmware queue, at most 16 (R73). -/
  queue : List RfcCmd
  /-- The MAC port (R73). -/
  port : Option RfcCmd
  /-- The command in execution. -/
  run : Option RfcRun
  /-- The held command (R81). -/
  held : Option RfcHeld
  /-- A strobe on trigger A or B that the awaiting command has not used (R73). -/
  trigA : Option Nat
  trigB : Option Nat
  /-- The result FIFO, oldest first, at most 16 (R79). -/
  results : List Res
  /-- The record loaded into the synthesiser and the analogue chains, 16 words (R86). -/
  active : List Word
  /-- The prepared-record register (R88). -/
  prep : Option RfcPrep
  /-- OSC runs as part of this lock (R87). -/
  osc : Bool
  /-- The record index that lock after OSC writes back to (R87). -/
  storeAt : Option Nat
  /-- Steps not yet completed of IQ, FBW and DCO since they became due (R92). -/
  leftIq : Nat
  leftFbw : Nat
  leftDco : Nat
  /-- Calibrations of the running CAL still to run, by mask bit (R92). -/
  calMask : Nat
  /-- The calibration stops at its next safe point (R83, R84). -/
  calStop : Bool
  /-- Temperature and grid time at the last completion of IQ, FBW and DCO (R90). -/
  tempIq : Int
  tempFbw : Int
  tempDco : Int
  atIq : Option GTime
  atFbw : Option GTime
  atDco : Option GTime
  /-- Channel centre at which IQ last completed, width code at which FBW last completed (R90). -/
  iqFreq : Option Nat
  fbwBw : Option Nat
  /-- DC offset codes of each group of chains (R90). -/
  dco : List Word
  /-- The armed DPDUP (R98). -/
  dpd : Option RfcDpd
  /-- The chains selected by the last RX or TX (R73). -/
  chains : Nat
  /-- FEM lines, one bit per chain, 1 = asserted: TRSW at transmit, PA_EN, LNA_EN (R99). -/
  trsw : BitVec 8
  paEn : BitVec 8
  lnaEn : BitVec 8
deriving DecidableEq, Repr

/-- A solicited TB reception (R120). -/
structure TbRx where
  users : List (BitVec 12)
  target : BitVec 8
deriving DecidableEq, Repr

/-- State of a modem that no register holds (R103 to R139). -/
structure MdmSt where
  /-- The current reception has passed its L-SIG (R114). -/
  lsig : Bool
  /-- Weaker packets lost during the current reception (R116). -/
  weak : Nat
  /-- Status word 0 of the current reception as its SIG gave it. -/
  w0 : Word
  /-- Grid time of the first sample of the current reception (R126). -/
  stamp : GTime
  /-- Failed codewords of the current reception (R123). -/
  cwFail : Nat
  /-- The armed TB reception (R120). -/
  tb : Option TbRx
  /-- A write to MDM_SMODE that waits for the reception's end (R137). -/
  smode : Option Word
  /-- The iteration limit in force (R122). -/
  ldpcMax : Nat
  /-- The transmit vector accepted for the coming PPDU (R129). -/
  vector : Option SevenWords
  /-- Applied power of the PPDU on the air and whether it was lowered (R131). -/
  txPower : Nat
  txLowered : Bool
deriving DecidableEq, Repr
/-- An MPDU in a transmit pool (R155 to R157). `client` 0xFFF is a frame without a client record. -/
structure Mpdu where
  num : Nat
  radio : Nat
  cells : List Nat
  units : Nat
  client : Nat
  tid : Nat
  sn : Nat
  pn : Nat
  kid : Nat
  len : Nat
  /-- Transmissions so far (R150). -/
  sent : Nat
  /-- Grid time of staging (R150). -/
  staged : GTime
  /-- Stored whole in the radio buffer (R12). -/
  stored : Bool
  /-- Part of a PPDU being built or sent (R156). -/
  busy : Bool
  /-- The 802.3 frame it carries. -/
  data : List Byte
deriving DecidableEq, Repr

/-- An MPDU in a receive pool: held in reorder, or released and waiting for its move to the packet buffer (R151). -/
structure RxMpdu where
  num : Nat
  radio : Nat
  cells : List Nat
  units : Nat
  bss : Nat
  client : Nat
  tid : Nat
  sn : Nat
  pn : Nat
  kid : Nat
  /-- Its place in the packet buffer: the 802.3 frame it carries. -/
  data : List Byte
  /-- Grid time of its first sample. -/
  stamp : GTime
  /-- Grid time at which it was held. -/
  since : GTime
  released : Bool
deriving DecidableEq, Repr
/-- A client's link in a MAC (R175): `bss` 16 is the mesh. -/
structure MacLink where
  radio : Nat
  client : Nat
  bss : Nat
  mld : Bool
  aid : Nat
deriving DecidableEq, Repr

/-- A block-ack agreement (R149); an MLD has one on all its links. -/
structure BaAgr where
  client : Nat
  tid : Nat
  tx : Bool
  size : Nat
deriving DecidableEq, Repr

/-- The reorder context of a receive agreement (R151) with its scoreboard (R149). -/
structure Reorder where
  client : Nat
  tid : Nat
  size : Nat
  /-- The lowest SN not yet released. -/
  next : Nat
  /-- Highest SN of the scoreboard, and the SNs acknowledged in it. -/
  top : Nat
  acked : List Nat
deriving DecidableEq, Repr

/-- An individual TWT agreement (R162): the slot-table entry, the Target Wake Time in TSF µs and the wake interval in µs. -/
structure TwtAgr where
  radio : Nat
  client : Nat
  flow : Nat
  entry : Nat
  target : Nat
  interval : Nat
deriving DecidableEq, Repr

/-- A user's compressed feedback: the steering matrix set's place and the grid time it was stored (R166). -/
structure SndSet where
  radio : Nat
  client : Nat
  addr : Nat
  units : Nat
  since : GTime
deriving DecidableEq, Repr

/-- A Wi-Fi MAC's state that no register holds (R140 to R181). -/
structure MacSt where
  cmds : List (List Word)
  results : List Res
  mesh : Bool
  /-- BSSs that contend for their beacon (R145). -/
  contend : List Nat
  /-- Grid time of the last beacon that set OVL, and MIS (R173). -/
  ovlAt : Option GTime
  misAt : Option GTime
  /-- Depth in the latest beacon of the parent (R147). -/
  depth : Nat
deriving DecidableEq, Repr

/-- State of the Wi-Fi MACs together. -/
structure WlanSt where
  macs : Sparse MacSt
  links : List MacLink
  bas : List BaAgr
  reorders : List Reorder
  twts : List TwtAgr
  /-- The latest sounding sets, oldest first. -/
  snds : List SndSet
  /-- Last accepted PN of each client's TID, key 8 × client + TID, one more than the PN (R152). -/
  lastPn : Sparse Nat
  /-- Moves of an MPDU to a link that Steppe has decided (R193, R194), oldest first. -/
  moves : List (Nat × Nat)
deriving DecidableEq, Repr
/-- A frame in the packet buffer (R13, R300): its header stands at `addr`; `cells` are its 256 B cells in order. -/
structure Frame where
  addr : Nat
  cells : List Nat
  len : Nat
  /-- The ingress source its units are charged to (R313). -/
  src : Nat
  units : Nat
  /-- The TID that QMG reports to Steppe (R321). -/
  tid : Nat
deriving DecidableEq, Repr

/-- A buffer in a radio buffer that is no MPDU: an RU table, a steering matrix set, a field frame (R315). -/
structure RadioBuf where
  radio : Nat
  addr : Nat
  units : Nat
  /-- True in the receive pool. -/
  rx : Bool
deriving DecidableEq, Repr

/-- A queue command (R319). -/
structure QCmd where
  opc : Nat
  tag : Nat
  q : Nat
  w1 : Word
  w2 : Word
  w3 : Word
deriving DecidableEq, Repr

/-- A move that a path channel has begun and not completed (R12, R334): staging, a moved copy, or a release. -/
structure Xfer where
  radio : Nat
  release : Bool
  /-- The header address of the packet-buffer frame that is staged, or the number of the MPDU that is moved. -/
  frame : Option Nat
  /-- The staged or received MPDU, by its number. -/
  mpdu : Nat
  /-- A moved copy (R156). -/
  moved : Bool
deriving DecidableEq, Repr

/-- State of the packet buffer, QMG and TMG that no register and no descriptor holds (R12 to R18, R312 to R333). -/
structure PktSt where
  /-- Frames in the packet buffer. -/
  frames : List Frame
  /-- Stored frames that wait for the PPE, oldest first (R263). -/
  ppeIn : List Nat
  /-- PPE results that wait for QMG: the header address and the queue (R321). -/
  qmgIn : List (Nat × Nat)
  /-- The frames of each queue, head first, by header address. -/
  queues : Sparse (List Nat)
  /-- Frames selected for a port and not yet sent, or delivered to a core port and not yet freed, oldest first (R316). -/
  sel : Sparse (List Nat)
  /-- Round-robin lists of R326: key 16p + c the queues of class c of port p, key 16p + 8 the port's weighted classes. -/
  drr : Sparse (List Nat)
  /-- DEFICIT of each weighted class, key 16p + c (R326). -/
  cdef : Sparse Int
  /-- Tick of the last refill of each shaper and the remainder below a byte: key 0-15 port, 16-143 class, from 144 queue
  shaper; policer i: committed 4000 + 2i, peak 4001 + 2i (R323, R327). -/
  refillAt : Sparse Nat
  refillRem : Sparse Nat
  /-- Waiting queue commands, at most 16 (R319). -/
  qcmds : List QCmd
  /-- Results, at most 16 (R320). -/
  qres : List Res
  /-- The port to which selection is offered next (R325). -/
  nextPort : Nat
  /-- Drops of each queue since its last sample, and its largest sojourn in ns (R328). -/
  smpDrop : Sparse Nat
  smpMax : Sparse Nat
  /-- Tick at which each port began to wait: its last selection, or the arrival of a waiting frame (R331). -/
  waitAt : Sparse Nat
  /-- The port has raised EV119 since its last selection (R331). -/
  stalled : Sparse Nat
  /-- Units reserved for the frame now arriving: key 0-5 port, 8-10 MAC L, M, H, 11 MAC S; one more than the units (R15). -/
  rsvd : Sparse Nat
  /-- A port is repeating PAUSE because its reservations keep failing (R304). -/
  pauseSend : Sparse Nat
  /-- A received PAUSE halts the port's transmission: one more than its quanta (R304). -/
  paused : Sparse Nat
  /-- Buffers in the radio buffers that are no MPDU. -/
  rbufs : List RadioBuf
  /-- Moves in progress, oldest first. -/
  xfers : List Xfer
deriving DecidableEq, Repr
/-- A plan that a MAC holds (R198 to R202). -/
structure PlanSt where
  /-- 0 none, 1 SU, 2 DL MU PPDU, 3 Basic Trigger, 4 BSRP. -/
  kind : Nat
  /-- The users, by client record. -/
  users : List Nat
  /-- Address of the RU table; 0 for SU and none. -/
  table : Nat
  /-- The access category it was asked for. -/
  ac : Nat
  /-- The duration limit, µs. -/
  limit : Nat
deriving DecidableEq, Repr

/-- State of Steppe that no register and no client record holds (R182 to R215). -/
structure StpSt where
  cmds : List (List Word)
  results : List Res
  /-- Records not EMPTY, ascending. -/
  recs : List Nat
  /-- The plan each MAC holds. -/
  plans : Sparse (Option PlanSt)
  /-- Grid time of each radio's last BSRP (R200). -/
  bsrpAt : Sparse (Option GTime)
  /-- Grid time of each client's last uplink buffer status report (R200). -/
  ulAt : Sparse (Option GTime)
  /-- Service periods of clients that have been served: the NEXT they belong to (R200). -/
  served : Sparse (Option GTime)
  /-- A frame has been heard in the wake window of NEXT, per client (R208). -/
  hit : Sparse Nat
  /-- The power-management bit of each client's latest frame (R184). -/
  pm : Sparse Nat
  /-- The state a suspended record left (R188). -/
  before : Sparse Nat
  /-- Opportunities of each link within the last second, newest first (STP_LWAIT). -/
  opps : Sparse (List GTime)
deriving DecidableEq, Repr
/-- An entry of the owner map: the entry's number and its words 0, 1, 6, 8 and 9 as they stood when the map was built
(R232). -/
structure FieldOwner where
  entry : Nat
  w0 : Word
  w1 : Word
  w6 : Word
  w8 : Word
  w9 : Word
deriving DecidableEq, Repr

/-- A response that MAC S owes (R235): the entry, the SEQ it answers, the last sample of the frame, whether it answers a
Plain hit, the TC it carries, whether a frame was staged then, whether the frame was a duplicate (R237), the end of the last
slot it may use, and the mode byte. -/
structure FieldResp where
  entry : Option Nat
  seq : Byte
  last : GTime
  plain : Bool
  tc : Int
  staged : Bool
  dup : Bool
  limit : GTime
  mode : Nat
deriving DecidableEq, Repr

/-- State of the field MAC that no register and no entry holds (R216 to R261). -/
structure FieldSt where
  cmds : List (List Word)
  results : List Res
  /-- SF_START completed; the parent role begins at the next superframe (R258). -/
  starting : Bool
  /-- The owner map of this superframe and of the next (R232). -/
  own : List FieldOwner
  nextOwn : List FieldOwner
  /-- The entry that a RELEASE, directly before its ASSIGN in the queue, leaves in the map (R232). -/
  kept : Option FieldOwner
  /-- Entries heard in their window in this superframe, or whose window has closed (R234, R242). -/
  heard : List Nat
  resp : Option FieldResp
  /-- The DATA whose ACK is awaited: its entry and SEQ (R236). -/
  await : Option (Nat × Byte)
  /-- Entries with a staged downlink frame, oldest staging first (R228). -/
  staged : List Nat
  /-- The next SEQ, and the next frame counter of beacons and of upstream frames (R222, R223). -/
  seq : Byte
  bcnCnt : Nat
  upCnt : Nat
  /-- Bins of each dwell group in ns of on-air time, the current one first (R250). -/
  bins : Sparse (List Nat)
  /-- The per-channel counters: group, centre frequency in kHz, bins (R250). -/
  chBins : List (Nat × Nat × List Nat)
  /-- Upstream role: consecutive missed beacons, a valid beacon heard in this window, exchanges left on the fast filter, the
  sample state of R207, the SEQ of the poll whose response is awaited, and the time of the last valid frame (R245 to R248). -/
  missb : Nat
  bcnHeard : Bool
  upFast : Nat
  upAnchor : GTime
  upPred : Int
  upAwait : Option Byte
  upLast : GTime
  /-- Timing depth that the upstream parent's last beacon carried (R226). -/
  depth : Nat
deriving DecidableEq, Repr
/-- A frame in the packet engine between two steps of its action (R290): its data as rewritten so far, the action word, the
words of its entry, and what the parse gave. -/
structure PpeRun where
  addr : Nat
  iport : Nat
  second : Bool
  data : List Byte
  /-- 0 before the lookup's action; 1 waits for ESP decryption, 2 for ESP encryption, 3 for units (R295, R298). -/
  step : Nat
  act : Word
  w9 : Word
  tag : Word
  w15 : Word
  h1 : Word
  t : Word
  pclass : Nat
  frag : Bool
  inner : Bool
  offs : Nat
  profile : Nat
  result : Nat
  reason : Nat
  queue : Nat
deriving DecidableEq, Repr

/-- A result in the reorder stage of legacy mode (R266): done, and the queue it goes to unless it is a drop. -/
structure LegRes where
  iport : Nat
  addr : Nat
  done : Bool
  queue : Option Nat
deriving DecidableEq, Repr

/-- State of the packet engine that no register holds (R262 to R301). -/
structure PpeSt where
  /-- Frames that wait for the cipher engine or for units. -/
  waits : List PpeRun
  /-- Results of legacy mode in sequence, oldest first, at most 1,024. -/
  legacy : List LegRes
  /-- Writes to PIPE_TAB not yet applied: the word's number and its value. -/
  pipePend : List (Nat × Word)
  /-- A fence in progress: the frames it waits for. -/
  fence : Option (List Nat)
  /-- A table update in progress: operation, DRAM, slot index. -/
  upd : Option (Nat × Bool × Nat)
  /-- The 64-bit counters: key 2n packets, 2n + 1 bytes. -/
  ctr : Sparse Nat
deriving DecidableEq, Repr

/-- A transmit stamp (R307). -/
structure TxStamp where
  seq : Nat
  gt : GTime
  ns : Nat
deriving DecidableEq, Repr

/-- State of the Ethernet ports and the PTP clock that no register holds (R302 to R307). -/
structure EthSt where
  /-- PTP time in ns, and the part of a ns below it in units of 1/(65536 × 10⁹). -/
  ptp : Nat
  frac : Nat
  stamps : Sparse (List TxStamp)
deriving DecidableEq, Repr
/-- What a DMA channel holds beside its registers (R338 to R351). -/
structure DmaChan where
  /-- The eight words of the descriptor that is fetched: waiting (ARMED), kept (PAUSED) or in progress (RUN). -/
  desc : Option (List Word)
  /-- The ring was read and the descriptor at HEAD was not owned: no further fetch until a doorbell (R338). -/
  parked : Bool
  /-- A doorbell landed during a fetch (R338). -/
  bell : Bool
  /-- A WHEN 1 Saddle consumed the trigger: the next descriptor begins without waiting (R351). -/
  noWait : Bool
  /-- The first burst has begun. -/
  begun : Bool
  /-- The check unit that the descriptor names is bound to it (R359). -/
  bound : Bool
  /-- Bytes moved by bursts that completed whole. -/
  moved : Nat
  /-- The bytes of an INJECT frame stored so far (R340). -/
  data : List Byte
  /-- An INJECT whose units are charged (R340). -/
  charged : Bool
  /-- The status with which the descriptor ended, before its write-back (R337, R349). -/
  ended : Option Nat
deriving DecidableEq, Repr

/-- A channel with nothing fetched. -/
def DmaChan.none : DmaChan := ⟨.none, false, false, false, false, false, 0, [], false, .none⟩

/-- State of the DMA engine and the check units that no register holds (R334 to R363). -/
structure DmaSt where
  /-- The channels that hold something. -/
  chans : Sparse DmaChan
  /-- The upper half of the grid time of each channel's last trigger, before a read of CHn_TSTART_LO latches it. -/
  tstart : Sparse Nat
deriving DecidableEq, Repr
/-- A key slot (R382). GEN and ERASEGEN count from the number of alarm erases. -/
structure KeySlot where
  /-- 0 EMPTY, 1 LOADED, 2 ERASING. -/
  st : Nat
  typ : Nat
  /-- ENC, DEC, MAC, WRAP, SIGN, ECDH, DERIVE, EXPORT from bit 7 down. -/
  usage : Nat
  mask : Word
  gen : Word
  eraseGen : Word
  key : List Byte
  /-- TAG of the ERASE in progress. -/
  tag : Nat
deriving DecidableEq, Repr

/-- A chaining context (R381, R388). -/
structure CryCtx where
  /-- 0 FREE, 1 ACTIVE, 2 DEAD. -/
  st : Nat
  mode : Nat
  dir : Bool
  slot : Nat
  gen : Word
  key : List Byte
  aadBytes : Nat
  dataBytes : Nat
  /-- Counter or chaining value. -/
  chain : List Byte
  /-- GHASH or CMAC accumulator. -/
  acc : List Byte
deriving DecidableEq, Repr

/-- An operation in flight: a descriptor of a firmware page (R376) or the operation of an inline block (R391). -/
structure CryOp where
  page : Nat
  fw : Bool
  int : Bool
  mode : Nat
  dir : Bool
  chain : Nat
  ctx : Nat
  pad : Nat
  tagLen : Nat
  slot : Nat
  iv : List Byte
  aadLen : Nat
  len : Nat
  src : Nat
  dst : Nat
  aadAt : Nat
  tagAt : Nat
  /-- Inline: the AAD, the data and the tag handed over. -/
  aad : List Byte
  data : List Byte
  tag : List Byte
  /-- ESP: the header address of the frame and the SA (R393). -/
  esp : Option (Nat × Nat)
  /-- ESP: the SA has not been erased since the operation began (R392). -/
  saLive : Bool
  /-- The core that holds it. -/
  core : Option Nat
  /-- A core has taken it, and the key snapshot is held (R385). -/
  started : Bool
  key : List Byte
  gen : Word
  /-- Its outcome, once it has one: STATUS and BYTES. -/
  final : Option (Nat × Nat)
deriving DecidableEq, Repr

/-- A result of CRY_KRES, PG_RES or PKE_RES. -/
structure KRes where
  tag : Nat
  opc : Nat
  status : Nat
deriving DecidableEq, Repr

/-- What a firmware page holds beside its registers (R376, R390). -/
structure CryPage where
  /-- A fetch found OWN = 0; the page waits for its doorbell. -/
  parked : Bool
  /-- A STOP waits for the descriptors in flight. -/
  stopping : Bool
  results : List KRes
deriving DecidableEq, Repr

/-- A security association: its 32 words and its replay bitmap (R392). -/
structure Sa where
  words : List Word
  /-- Bit k: the number SEQ - k has been accepted. -/
  bitmap : Nat
  /-- EV167 has been raised for the soft limit, and for the hard limit (R393). -/
  soft : Bool
  hard : Bool
deriving DecidableEq, Repr

/-- State of the cipher engine that no register holds (R370 to R395). -/
structure CrySt where
  slots : Sparse KeySlot
  /-- Alarm erases since reset: each increments every GEN, and every ERASEGEN follows (R395). -/
  genBase : Word
  /-- An alarm erase has begun and is not complete: no slot is usable (R395). -/
  almErase : Bool
  /-- The contexts, key 4 × page + context. -/
  ctx : Sparse CryCtx
  pages : Sparse CryPage
  /-- Operations in flight, oldest first. -/
  ops : List CryOp
  kres : List KRes
  /-- The page that a core was last assigned to at each priority (R375). -/
  rr : Sparse Nat
  sas : Sparse Sa
  /-- The context key (R388). -/
  ctxk : List Byte
  /-- ESP results that wait for the PPE: the frame's header address, the status, the rewritten frame (R295). -/
  espDone : List (Nat × Nat × List Byte)
deriving DecidableEq, Repr

/-- A hash context of PKE (R396, R397). -/
structure HashCtx where
  active : Bool
  /-- SHA-256. -/
  alg256 : Bool
  /-- The key snapshot of an HMAC. -/
  key : List Byte
  data : List Byte
deriving DecidableEq, Repr

/-- A queued PKE command: the initiator that pushed it and its eight words (R396). -/
structure PkeCmd where
  ini : Nat
  w : List Word
deriving DecidableEq, Repr

/-- State of the public-key engine that no register holds (R396 to R408). -/
structure PkeSt where
  queue : List PkeCmd
  results : List KRes
  hctx : Sparse HashCtx
  /-- Measurement registers, 48 bytes each (R400). -/
  mr : Sparse (List Byte)
  /-- Generate requests since the last reseed (R398). -/
  gens : Nat
  /-- The outstanding challenge of the JTAG mailbox (R407). -/
  challenge : Option (List Byte)
deriving DecidableEq, Repr
/-- A request that waits in the DRAM controller (R421, R422): its source (an initiator, 21 Steppe's history port, 22 the
scrubber), its offset in the DRAM window, and the class it has now. -/
structure DramReq where
  src : Nat
  offset : Nat
  cls : Nat
deriving DecidableEq, Repr

/-- TRAIN or RESTORE in progress (R432): its code, TAG, speed and step. -/
structure DrcTrain where
  opc : Nat
  tag : Nat
  speed : Nat
  step : Nat
deriving DecidableEq, Repr

/-- State of SRM and DRC that no register holds (R416 to R432). Banks are numbered 16 × channel + bank. -/
structure DrcSt where
  results : List Res
  train : Option DrcTrain
  /-- Requests that wait, oldest first. -/
  reqs : List DramReq
  /-- One more than the open row of a bank, and its consecutive row hits (R422). -/
  openRow : Sparse Nat
  hits : Sparse Nat
  /-- The row-activation table of a bank: rows and counts (R426). -/
  raa : Sparse (List (Nat × Nat))
  /-- Ticks of the latest neighbour refreshes and RFMs, and of the latest corrections of SRAM and of DRAM, newest first
  (R418, R427). -/
  nrefAt : List Nat
  ceSram : List Nat
  ceDram : List Nat
  /-- Ticks at which the present pass of each scrubber began, and at which the latest SRAM pass ended (R416, R438). -/
  passSram : Nat
  passDram : Nat
  doneSram : Nat
deriving DecidableEq, Repr
/-- A queued event record of a session (R461): event, count, stamp. -/
structure EvRec where
  event : Nat
  count : Nat
  stamp : GTime
deriving DecidableEq, Repr

/-- An EVENT that waits for its EVENT_ACK: its SEQ, its records, and how often it was resent (R462). -/
structure EvSent where
  seq : Nat
  recs : List EvRec
  tries : Nat
deriving DecidableEq, Repr

/-- A session (R455 to R457). A transport address is 0 for the SPI target port, 1 and 2 for CAN0 and CAN1, 3 + t for the
source tag t of a mailbox PDU. -/
structure Session where
  sid : Nat
  cls : Nat
  src : Nat
  net : Bool
  /-- Its PDUs carry tags. -/
  auth : Bool
  /-- Open; before that OPEN was answered and AUTH awaited. -/
  up : Bool
  /-- The key slot of K. -/
  slot : Nat
  nc : List Byte
  nd : List Byte
  /-- SEQ of the last request accepted, and of the last PDU sent. -/
  seqIn : Nat
  seqOut : Nat
  /-- The stored response to the last request. -/
  last : List Byte
  /-- The subscription mask. -/
  mask : Nat
  evq : List EvRec
  sent : Option EvSent
deriving DecidableEq, Repr

/-- The request that the ODE carries out (R448), taken and checked by HDP_PDU_RECEIVE. -/
structure OdeReq where
  src : Nat
  op : Nat
  /-- The byte 0 of its header. -/
  flags : Nat
  sid : Nat
  rtag : Nat
  seq : Nat
  payload : List Byte
  /-- READ: the references still to answer, and the answer so far. -/
  todo : List Nat
  acc : List Byte
  /-- It waits for the answer of this number of a firmware-bound access. -/
  waits : Option Nat
deriving DecidableEq, Repr

/-- A firmware-bound access (R448): number, core (6: the ODE itself), 1 read, 2 write, 3 invoke, handler, REF, value. -/
structure FwReq where
  num : Nat
  core : Nat
  kind : Nat
  handler : Nat
  ref : Nat
  typ : Nat
  value : List Byte
  /-- A core has popped it and owes the answer. -/
  taken : Bool
deriving DecidableEq, Repr

/-- A value record of the journal (R463): REF, TYPE, GROUP, value. -/
structure JVal where
  ref : Nat
  typ : Nat
  group : Bool
  value : List Byte
deriving DecidableEq, Repr

/-- State of the object dictionary engine that no register holds (R440 to R474). -/
structure OdeSt where
  /-- Grid time of each neighbour's latest report (R470). -/
  nbrAt : Sparse (Option GTime)
  /-- Neighbours whose NEWER report the policy lets the ODE pull, oldest first (R471). -/
  pulls : List Nat
  /-- PDUs that wait to be taken, oldest first: transport address and bytes. -/
  rxq : List (Nat × List Byte)
  req : Option OdeReq
  sessions : List Session
  /-- Consecutive failed AUTHs of a transport address, and the addresses refused for 60 s, oldest first (R456). -/
  fails : Sparse Nat
  locked : List Nat
  /-- PDUs that wait to be read over the SPI target port, and by MC5 with their source tags (R458, R460). -/
  spiOut : List (List Byte)
  mbxOut : List (Nat × List Byte)
  /-- The bytes of a CAN transfer so far and the next segment number, by port (R459). -/
  canIn : Sparse (Option (List Byte × Nat))
  /-- Firmware-bound accesses that wait in the queues, oldest first; the number of the next (R448). -/
  fwq : List FwReq
  fwNum : Nat
  /-- Accesses posted by a journal replay, an apply or an end of BOOT, whose answers no request waits for. -/
  fwQuiet : List Nat
  /-- What a core was given and accepted for an element of a firmware-bound parameter, by REF. -/
  fwVals : Sparse (Option (List Byte))
  /-- GEN of the key slot at an assignment entry's last ASSIGN through 18.100 (R485). -/
  asgGen : Sparse (Option Word)
  /-- Grid time of the last change of the device state (01.030), and of the anchor's apply (R481). -/
  since : GTime
  anchorAt : Option GTime
  /-- The journal: records that wait, the value last journaled by REF, values held for a function (R465), the next SEQ, the
  offset of the next record in the active pair, its pair SEQ, and the pairs retired (R466). -/
  jbuf : List (List JVal)
  jlast : Sparse (Option (List Byte))
  held : List (List JVal)
  jseq : Nat
  joff : Nat
  jpair : Nat
  retired : List Nat
  /-- A pull failed and is retried (R471). -/
  retry : Option Nat
  /-- Totals of the counter parameters by register address (R478). -/
  totals : Sparse Nat
deriving DecidableEq, Repr
/-- A CAN frame: its header and info words as the registers hold them, and its data (R474). -/
structure CanFrame where
  hdr : Nat
  info : Nat
  data : List Byte
deriving DecidableEq, Repr

/-- A CAN port's FIFOs: firmware frames received (at most 32) and to send (at most 16), HDP frames to send (R459, R474). -/
structure CanSt where
  rx : List CanFrame
  tx : List CanFrame
  hdp : List CanFrame
deriving DecidableEq, Repr

/-- State of the luminaire (R491 to R494). -/
structure LumSt where
  /-- The switch armed on GC62: the contacts' new state (true closed) and the instant at which they meet it. -/
  want : Option (Bool × GTime)
  /-- The instant at which the contacts meet the last switch. -/
  busyTo : GTime
  /-- Untimed switches, 38.007. -/
  untimed : Nat
  /-- The lamp level, 38.010. -/
  level : Nat
  /-- A level that waits for GEAR_DELAY after the contacts close. -/
  dapc : Option Nat
  /-- The relay opens after the fade time. -/
  fadeOpen : Bool
deriving DecidableEq, Repr
/-- A flash operation (R511, R527). -/
structure FlashOp where
  kind : Nat
  prio : Nat
  tag : Nat
  opc : Nat
  off : Nat
  len : Nat
  addr : Nat
deriving DecidableEq, Repr

/-- State of XSPI that no register holds (R511, R527). -/
structure XspiSt where
  /-- Operations that wait, oldest first; the one that runs; the one that is suspended. -/
  queue : List FlashOp
  run : Option FlashOp
  susp : Option FlashOp
  results : List Res
  /-- Bytes written to and read from XSPI_FIFO by RAW operations. -/
  txf : List Byte
  rxf : List Byte
  /-- The flash size that SFDP reports (R511); 0 before it is read. -/
  size : Nat
deriving DecidableEq, Repr

/-- State of SYS and of the start sequence that no register holds (R496 to R549). -/
structure SysSt where
  /-- 0 reset held, 1 waiting for REF, 2 clearing SRAM, 3 MC5 released (R501). -/
  phase : Nat
  /-- The last reset was cold. -/
  cold : Bool
  /-- MC5 runs its image; the boot ROM serves recovery; it has refused an image (R502, R503). -/
  mc5 : Bool
  recovery : Bool
  refused : Bool
  /-- The strap RLY_NC as sampled, and RLY_OUT: AON domain (R499, R531). -/
  rlyNc : Bool
  rlyOut : Bool
  /-- The watchdog timeout in force, ms (R498). -/
  wdtMs : Nat
  /-- EV236 has been raised and is not armed again (R534); EV237 has been raised and EV238 not yet (R548). -/
  supplyOut : Bool
  hot : Bool
  /-- LIMITED marks, parameter 01.011 (R508). -/
  limited : Nat
  /-- The copy of a retained dump to flash was tried in this start (R523). -/
  dumpDone : Bool
deriving DecidableEq, Repr

/-- The state of the machine. -/
structure State where
  /-- Commands that wait, first in, first out. -/
  pending : List Instr
  /-- The block registers that differ from their reset value, by physical address. -/
  regs : Sparse Word
  /-- The bytes of memory that differ from what an unlisted address reads as. -/
  mem : List Host.Cell
  /-- What the part has put out, newest first (the model's own record). -/
  out : List Out
  /-- Which free value is next (the model's own counter). -/
  freeCtr : Nat
  gtu : GtuSt
  evr : EvrSt
  acc : AccSt
  rfc : Per4 RfcSt
  mdm : Per4 MdmSt
  /-- MPDUs in the transmit pools of L, M and H, oldest first. -/
  mpdus : List Mpdu
  /-- MPDUs in the receive pools of L, M and H, oldest first. -/
  rxmpdus : List RxMpdu
  /-- The number the next MPDU gets. -/
  mpduNum : Nat
  wlan : WlanSt
  pkt : PktSt
  stp : StpSt
  fld : FieldSt
  ppe : PpeSt
  eth : EthSt
  dma : DmaSt
  cry : CrySt
  pke : PkeSt
  /-- Words of SRAM and DRAM (by the address of their 8 bytes) whose codeword is not clean: 1 one bit flipped, 2 two bits
  flipped, 3 marked with the poison pattern (R413 to R415). -/
  ecc : Sparse Nat
  drc : DrcSt
  ode : OdeSt
  can0 : CanSt
  can1 : CanSt
  lum : LumSt
  /-- The bytes of the external flash that differ from the erased value 0xFF (R511). -/
  flash : List Host.Cell
  xspi : XspiSt
  sys : SysSt
deriving DecidableEq, Repr

/-- The GTU at reset: FREE, with nothing learned. The phase of grid time is arbitrary (R43); DESIGN CHOICE 0. -/
def GtuSt.reset : GtuSt where
  acc := 0
  ticks := 0
  nowHi := []
  xlast := 0
  pred := none
  spacings := []
  lastE := 0
  lockRun := 0
  holdCmd := false
  relearn := false
  samples := []
  outRun := []
  ofsAt := 0
  disc := none
  agreeAt := none
  pair := none
  gcCmp := []
  gcPer := []
  pins := 0
  pulseEnd := []
  replica := []
  replicaInc := 0

/-- The event router at reset. -/
def EvrSt.reset : EvrSt where
  fifo := []
  pulses := []

/-- A front-end controller at reset: IQ, FBW and DCO due, with all their steps (R90, R102). -/
def RfcSt.reset (groups : Nat) : RfcSt where
  queue := []
  port := none
  run := none
  held := none
  trigA := none
  trigB := none
  results := []
  active := []
  prep := none
  osc := false
  storeAt := none
  leftIq := 5 * groups
  leftFbw := groups
  leftDco := 3 * groups
  calMask := 0
  calStop := false
  tempIq := 0
  tempFbw := 0
  tempDco := 0
  atIq := none
  atFbw := none
  atDco := none
  iqFreq := none
  fbwBw := none
  dco := []
  dpd := none
  chains := 0
  trsw := 0
  paEn := 0
  lnaEn := 0

/-- A modem at reset. -/
def MdmSt.reset : MdmSt where
  lsig := false
  weak := 0
  w0 := 0
  stamp := 0
  cwFail := 0
  tb := none
  smode := none
  ldpcMax := 8
  vector := none
  txPower := 0
  txLowered := false

/-- The Wi-Fi MACs at reset: nothing linked. -/
def WlanSt.reset : WlanSt where
  macs := []
  links := []
  bas := []
  reorders := []
  twts := []
  snds := []
  lastPn := []
  moves := []
/-- The packet path at reset: empty. -/
def PktSt.reset : PktSt where
  frames := []
  ppeIn := []
  qmgIn := []
  queues := []
  sel := []
  drr := []
  cdef := []
  refillAt := []
  refillRem := []
  qcmds := []
  qres := []
  nextPort := 0
  smpDrop := []
  smpMax := []
  waitAt := []
  stalled := []
  rsvd := []
  pauseSend := []
  paused := []
  rbufs := []
  xfers := []

/-- Steppe at reset: every record EMPTY (R183). -/
def StpSt.reset : StpSt where
  cmds := []
  results := []
  recs := []
  plans := []
  bsrpAt := []
  ulAt := []
  served := []
  hit := []
  pm := []
  before := []
  opps := []
/-- The field MAC at reset. -/
def FieldSt.reset : FieldSt where
  cmds := []
  results := []
  starting := false
  own := []
  nextOwn := []
  kept := none
  heard := []
  resp := none
  await := none
  staged := []
  seq := 0
  bcnCnt := 0
  upCnt := 0
  bins := []
  chBins := []
  missb := 0
  bcnHeard := false
  upFast := 0
  upAnchor := 0
  upPred := 0
  upAwait := none
  upLast := 0
  depth := 0
/-- The packet engine at reset. -/
def PpeSt.reset : PpeSt where
  waits := []
  legacy := []
  pipePend := []
  fence := none
  upd := none
  ctr := []

/-- The Ethernet block at reset; the PTP clock's value is not given: DESIGN CHOICE 0. -/
def EthSt.reset : EthSt where
  ptp := 0
  frac := 0
  stamps := []
/-- The cipher engine at reset: every slot EMPTY with GEN 0 (R382). -/
def CrySt.reset : CrySt where
  slots := []
  genBase := 0
  almErase := false
  ctx := []
  pages := []
  ops := []
  kres := []
  rr := []
  sas := []
  ctxk := []
  espDone := []

/-- The public-key engine at reset (R396, R400). -/
def PkeSt.reset : PkeSt where
  queue := []
  results := []
  hctx := []
  mr := []
  gens := 0
  challenge := none
/-- SRM and DRC at reset. -/
def DrcSt.reset : DrcSt where
  results := []
  train := none
  reqs := []
  openRow := []
  hits := []
  raa := []
  nrefAt := []
  ceSram := []
  ceDram := []
  passSram := 0
  passDram := 0
  doneSram := 0
/-- The ODE at reset. -/
def OdeSt.reset : OdeSt where
  nbrAt := []
  pulls := []
  rxq := []
  req := none
  sessions := []
  fails := []
  locked := []
  spiOut := []
  mbxOut := []
  canIn := []
  fwq := []
  fwNum := 0
  fwQuiet := []
  fwVals := []
  asgGen := []
  since := 0
  anchorAt := none
  jbuf := []
  jlast := []
  held := []
  jseq := 0
  joff := 0
  jpair := 0
  retired := []
  retry := none
  totals := []
/-- The luminaire at reset. -/
def LumSt.reset : LumSt where
  want := none
  busyTo := 0
  untimed := 0
  level := 0
  dapc := none
  fadeOpen := false
/-- SYS at power-on, with reset held. -/
def SysSt.reset : SysSt where
  phase := 0
  cold := true
  mc5 := false
  recovery := false
  refused := false
  rlyNc := false
  rlyOut := false
  wdtMs := 8000
  supplyOut := false
  hot := false
  limited := 0
  dumpDone := false

/-- The machine right after power-on, with reset still to be released (R496, R501). -/
def State.reset : State where
  pending := []
  regs := []
  mem := []
  out := []
  freeCtr := 0
  gtu := GtuSt.reset
  evr := EvrSt.reset
  acc := { held := [], ovf := false }
  rfc := { l := RfcSt.reset 1, m := RfcSt.reset 2, h := RfcSt.reset 2, s := RfcSt.reset 1 }
  mdm := { l := MdmSt.reset, m := MdmSt.reset, h := MdmSt.reset, s := MdmSt.reset }
  mpdus := []
  rxmpdus := []
  mpduNum := 0
  wlan := WlanSt.reset
  pkt := PktSt.reset
  stp := StpSt.reset
  fld := FieldSt.reset
  ppe := PpeSt.reset
  eth := EthSt.reset
  dma := { chans := [], tstart := [] }
  cry := CrySt.reset
  pke := PkeSt.reset
  ecc := []
  drc := DrcSt.reset
  ode := OdeSt.reset
  can0 := { rx := [], tx := [], hdp := [] }
  can1 := { rx := [], tx := [], hdp := [] }
  lum := LumSt.reset
  flash := []
  xspi := { queue := [], run := none, susp := none, results := [], txf := [], rxf := [], size := 0 }
  sys := SysSt.reset

end Sys2Proof.Machine
end

