-- ==== Sys2Proof/Machine/Store.lean ====
section
/-! DEFINITION. Sparse tables in one canonical form: keys strictly rising, and no entry equal to what an unlisted key
reads as. Memory and the register file are such tables. -/

namespace Sys2Proof

/-- What the table holds at key `k`; an unlisted key reads as `d k`. -/
def Sparse.get {α : Type} (d : Nat → α) : Sparse α → Nat → α
  | [], k => d k
  | (a, v) :: t, k => if k = a then v else Sparse.get d t k

/-- The entry for `k`, or none where `v` is what an unlisted key reads as. -/
def Sparse.entry {α : Type} [DecidableEq α] (d : Nat → α) (k : Nat) (v : α) : Sparse α :=
  if v = d k then [] else [(k, v)]

/-- The entries `e` of key `k` put before the first greater key. -/
def Sparse.ins {α : Type} (e : Sparse α) (k : Nat) : Sparse α → Sparse α
  | [] => e
  | (a, w) :: t => if k < a then e ++ (a, w) :: t else (a, w) :: Sparse.ins e k t

/-- The table without key `k`. -/
def Sparse.del {α : Type} (k : Nat) : Sparse α → Sparse α
  | [] => []
  | (a, w) :: t => if a = k then Sparse.del k t else (a, w) :: Sparse.del k t

/-- The table with `v` at key `k`. -/
def Sparse.put {α : Type} [DecidableEq α] (d : Nat → α) (t : Sparse α) (k : Nat) (v : α) : Sparse α :=
  Sparse.ins (Sparse.entry d k v) k (Sparse.del k t)

/-- Every key of the table is above `b`, the keys rise, and no entry is what an unlisted key reads as. -/
def Sparse.wfFrom {α : Type} [DecidableEq α] (d : Nat → α) : Nat → Sparse α → Bool
  | _, [] => true
  | b, (a, v) :: t => decide (b ≤ a) && decide (v ≠ d a) && Sparse.wfFrom d (a + 1) t

/-- The canonical form of a table. -/
def Sparse.wf {α : Type} [DecidableEq α] (d : Nat → α) (t : Sparse α) : Bool := Sparse.wfFrom d 0 t

/-- A table of numbers reads 0 at an unlisted key. -/
def Sparse.getN (t : Sparse Nat) (k : Nat) : Nat := Sparse.get (fun _ => 0) t k
/-- Write to a table of numbers. -/
def Sparse.putN (t : Sparse Nat) (k v : Nat) : Sparse Nat := Sparse.put (fun _ => 0) t k v
/-- A table of records reads `none` at an unlisted key. -/
def Sparse.getO {α : Type} (t : Sparse (Option α)) (k : Nat) : Option α := Sparse.get (fun _ => none) t k

/-- The table without the entries whose key satisfies `p`. -/
def Sparse.drop {α : Type} (p : Nat → Bool) (t : Sparse α) : Sparse α := t.filter (fun e => !p e.1)

end Sys2Proof
end

