-- ==== Sys2Proof/Machine/RegFile.lean ====
section
/-! DEFINITION. The register file: which row an address belongs to, what a register holds at reset, and reads and writes
of whole registers and of fields. -/

namespace Sys2Proof.Machine

/-- The index along each dimension that offset `o` has in an array, when it is one of its elements. -/
def dimIndex : List (Nat × Nat) → Nat → Option (List Nat)
  | [], o => if o = 0 then some [] else none
  | (s, n) :: ds, o =>
    if o / s < n then (dimIndex ds (o % s)).map (fun l => (o / s) :: l) else none

/-- The index of a register within a row of the table. -/
def RegRow.index (r : RegRow) (o : Nat) : Option (List Nat) :=
  if o < r.off then none else dimIndex r.dims (o - r.off)

/-- The row of a table that an offset belongs to. -/
def findRow : List RegRow → Nat → Option (RegRow × List Nat)
  | [], _ => none
  | r :: rs, o =>
    match r.index o with
    | some ix => some (r, ix)
    | none => findRow rs o

/-- One register window of R23: its number in R526's order, its base, its end, and its register table. -/
structure Window where
  num : Nat
  base : Nat
  last : Nat
  rows : List RegRow

/-- The register window an address lies in (R23). The numbers are those of R526: GTU 0 … SYS 29. -/
def windowOf (a : Nat) : Option Window :=
  if a < 0x40000000 then none
  else if a < 0x40010000 then some ⟨0, 0x40000000, 0x4000FFFF, RegMap.gtu⟩
  else if a < 0x40020000 then some ⟨1, 0x40010000, 0x4001FFFF, RegMap.evr⟩
  else if a < 0x40030000 then some ⟨2, 0x40020000, 0x4002FFFF, RegMap.dma⟩
  else if a < 0x40040000 then some ⟨3, 0x40030000, 0x4003FFFF, RegMap.chk⟩
  else if a < 0x40050000 then some ⟨4, 0x40040000, 0x4004FFFF, RegMap.cry⟩
  else if a < 0x40060000 then some ⟨5, 0x40050000, 0x4005FFFF, RegMap.pke⟩
  else if a < 0x40070000 then some ⟨6, 0x40060000, 0x4006FFFF, RegMap.drc⟩
  else if a < 0x40080000 then some ⟨7, 0x40070000, 0x4007FFFF, RegMap.srm⟩
  else if a < 0x400A0000 then some ⟨8, 0x40080000, 0x4009FFFF, RegMap.ppe⟩
  else if a < 0x400C0000 then some ⟨9, 0x400A0000, 0x400BFFFF, RegMap.tmg⟩
  else if a < 0x40100000 then some ⟨10, 0x400C0000, 0x400FFFFF, RegMap.qmg⟩
  else if a < 0x40140000 then
    some ⟨11 + (a - 0x40100000) / 0x10000, a / 0x10000 * 0x10000, a / 0x10000 * 0x10000 + 0xFFFF,
      RegMap.rfc ((a - 0x40100000) / 0x10000)⟩
  else if a < 0x40200000 then none
  else if a < 0x40240000 then
    some ⟨15 + (a - 0x40200000) / 0x10000, a / 0x10000 * 0x10000, a / 0x10000 * 0x10000 + 0xFFFF,
      RegMap.mdm ((a - 0x40200000) / 0x10000)⟩
  else if a < 0x40300000 then none
  else if a < 0x40330000 then
    some ⟨19 + (a - 0x40300000) / 0x10000, a / 0x10000 * 0x10000, a / 0x10000 * 0x10000 + 0xFFFF,
      RegMap.mac ((a - 0x40300000) / 0x10000)⟩
  else if a < 0x40340000 then some ⟨22, 0x40330000, 0x4033FFFF, RegMap.fmac⟩
  else if a < 0x40400000 then none
  else if a < 0x40410000 then some ⟨23, 0x40400000, 0x4040FFFF, RegMap.stp⟩
  else if a < 0x40500000 then none
  else if a < 0x40510000 then some ⟨24, 0x40500000, 0x4050FFFF, RegMap.ode⟩
  else if a < 0x40600000 then none
  else if a < 0x40610000 then some ⟨25, 0x40600000, 0x4060FFFF, RegMap.eth⟩
  else if a < 0x40700000 then none
  else if a < 0x40710000 then some ⟨26, 0x40700000, 0x4070FFFF, RegMap.can⟩
  else if a < 0x40720000 then some ⟨27, 0x40710000, 0x4071FFFF, RegMap.dali⟩
  else if a < 0x40730000 then some ⟨28, 0x40720000, 0x4072FFFF, RegMap.xspi⟩
  else if a < 0x407F0000 then none
  else if a < 0x40800000 then some ⟨29, 0x407F0000, 0x407FFFFF, RegMap.sys⟩
  else none

/-- The row of the register tables an address belongs to. -/
def rowOf (a : Nat) : Option (RegRow × List Nat) :=
  match windowOf a with
  | none => none
  | some w => findRow w.rows (a - w.base)

/-- The reset word that the fields of a row give. -/
def fieldsReset : List RegField → Nat
  | [] => 0
  | f :: fs => f.rst * 2 ^ f.lo + fieldsReset fs

/-- Egress windows at reset (R316). -/
def winReset (p : Nat) : Nat :=
  if p ≤ 1 then 96 else if p ≤ 5 then 48 else if p = 7 then 512 else if p = 12 then 1024
  else if p = 13 then 256 else if p = 14 then 256 else 0

/-- Reservations at reset (R312). -/
def rsvReset (i : Nat) : Nat :=
  if i ≤ 1 then 2048 else if i ≤ 5 then 768 else if i = 8 then 1024 else if i = 9 then 1536
  else if i = 10 then 2048 else if i = 11 then 512 else if i = 12 then 512 else if i = 13 then 256 else 0

/-- Shared caps at reset (R312). -/
def shcapReset (i : Nat) : Nat :=
  if i ≤ 1 then 8192 else if i ≤ 5 then 4096 else if i = 8 then 4096 else if i = 9 then 6144
  else if i = 10 then 8192 else if i = 11 then 1024 else if i = 12 then 4096 else if i = 13 then 1024 else 0

/-- Receive pools at reset, and the radio buffers' totals (R315). -/
def rxszReset (r : Nat) : Nat := RegMap.pick r 1536 2560 3072 384
/-- Transmit pools at reset (R315). -/
def txszReset (r : Nat) : Nat := RegMap.pick r 2560 4608 5120 640

/-- MDM_TXCAP at reset (R139). -/
def txcapReset (radio k : Nat) : Nat :=
  if radio = 3 then (if k = 0 then 0x1C else 0)
  else if k ≤ 1 then 0x30303030 else if k = 2 then 0x28282C2C else 0x30302424

/-- The grants of SYS_ACCPG at reset (R504, R373). -/
def accpgReset (n : Nat) : Nat :=
  if n ≤ 3 then 2 ^ (14 + n) else if n = 4 then 2 ^ 13 else if n = 5 then 0 else if n = 6 then 2 ^ 18 else 2 ^ 9

/-- The reset values that differ along an array, by the window and the offset of the row. -/
def indexedReset (win off : Nat) (ix : List Nat) : Option Nat :=
  let n := ix.headD 0
  if win = 2 ∧ off = 0x1010 then some (if n < 12 then 0xE8000000 else 0x14000000)
  else if win = 2 ∧ off = 0x1020 then some (if n < 12 then 0 else 0x14000000)
  else if win = 4 ∧ off = 0x0200 then
    some (if n ≤ 5 then 0x30000000 + (RegMap.pick n 1 2 3 (if n = 4 then 2 else if n = 5 then 3 else 1)) * 0x1000000
          else 0x01000000)
  else if win = 4 ∧ off = 0x8000 then some n
  else if win = 5 ∧ off = 0x0400 then some (if n = 0 then 3 else 0)
  else if win = 9 ∧ off = 0x1000 then some (if n ≤ 5 then 0x00140100 else 0x00000100)
  else if win = 9 ∧ off = 0x1010 then some (winReset n)
  else if win = 10 ∧ (off = 0x0040 ∨ off = 0x0080) then some (shcapReset n * 0x10000 + rsvReset n)
  else if win = 10 ∧ off = 0x0110 then some (txszReset n * 0x10000 + rxszReset n)
  else if 15 ≤ win ∧ win ≤ 18 ∧ off = 0x0030 then some (txcapReset (win - 15) n)
  else if win = 25 ∧ off = 0x000 then some (0x86000901 + 0x10 * n)
  else if win = 26 ∧ off = 0x000 then some (0x86001301 + 0x10 * n)
  else if win = 29 ∧ off = 0x0100 then some (if n = 29 then 0x200 else 0xFFFFF)
  else if win = 29 ∧ off = 0x0180 then some (accpgReset n)
  else if win = 29 ∧ off = 0x0018 then some 0x01000000
  else none

/-- What a register holds at reset, and what an address without a register reads as (R6): the register tables, with
SYS_RSTCAUSE as a power-on leaves it (R496) and the tables of SYS as the first-stage boot sets them (R25, R504). -/
def regDefault (a : Nat) : Word :=
  match windowOf a with
  | none => 0
  | some w =>
    match findRow w.rows (a - w.base) with
    | none => 0
    | some (r, ix) =>
      match indexedReset w.num r.off ix with
      | some v => BitVec.ofNat 32 v
      | none => BitVec.ofNat 32 (fieldsReset r.fields)

/-- The register at an address, as stored. -/
def State.reg (s : State) (a : Nat) : Word := Sparse.get regDefault s.regs a

/-- Store a register. -/
def State.setReg (s : State) (a : Nat) (v : Word) : State := { s with regs := Sparse.put regDefault s.regs a v }

/-- A register as a number. -/
def State.regN (s : State) (a : Nat) : Nat := (s.reg a).toNat
/-- Store a number in a register, by its low 32 bits. -/
def State.setRegN (s : State) (a : Nat) (n : Nat) : State := s.setReg a (BitVec.ofNat 32 n)

/-- The bits [hi:lo] of a word. -/
def bits (v : Word) (hi lo : Nat) : Nat := v.toNat / 2 ^ lo % 2 ^ (hi - lo + 1)

/-- A word with the bits [hi:lo] replaced by the low bits of `n`. -/
def setBits (v : Word) (hi lo : Nat) (n : Nat) : Word :=
  BitVec.ofNat 32 (v.toNat % 2 ^ lo + n % 2 ^ (hi - lo + 1) * 2 ^ lo + v.toNat / 2 ^ (hi + 1) * 2 ^ (hi + 1))

/-- The value of a field. -/
def State.rf (s : State) (f : Fld) : Nat := bits (s.reg f.addr) f.hi f.lo
/-- The value of a one-bit field as a truth value. -/
def State.rb (s : State) (f : Fld) : Bool := s.rf f == 1
/-- Write a field, leaving the other bits of its register. -/
def State.wf (s : State) (f : Fld) (n : Nat) : State := s.setReg f.addr (setBits (s.reg f.addr) f.hi f.lo n)
/-- Write a one-bit field. -/
def State.wb (s : State) (f : Fld) (b : Bool) : State := s.wf f (if b then 1 else 0)

/-- A pair of registers holding the low and the high 32 bits. -/
def State.reg64 (s : State) (lo hi : Nat) : Nat := s.regN lo + s.regN hi * 2 ^ 32
/-- Store the low and the high 32 bits in a pair of registers. -/
def State.setReg64 (s : State) (lo hi : Nat) (n : Nat) : State := (s.setRegN lo n).setRegN hi (n / 2 ^ 32)

end Sys2Proof.Machine
end

