-- ==== Sys2Proof/Machine/Ops.lean ====
section
/-! DEFINITION. Operations that every block uses: free values, grid time, status codes, counters, events, access control,
readiness, refusals. -/

namespace Sys2Proof.Machine

/-! Status codes (R9). -/
namespace St
def OK : Nat := 0x00
def STATE : Nat := 0x01
def RANGE : Nat := 0x02
def TYPE : Nat := 0x03
def RIGHTS : Nat := 0x04
def BUSY : Nat := 0x05
def LATE : Nat := 0x06
def DWELL : Nat := 0x07
def AUTH : Nat := 0x08
def ABSENT : Nat := 0x09
def NOKEY : Nat := 0x0A
def ABORTED : Nat := 0x0B
def DIGEST : Nat := 0x0C
def NOTREADY : Nat := 0x0D
def CHECK : Nat := 0x0E
def HW : Nat := 0x0F
end St

/-! Initiator numbers (R25). -/
namespace Ini
def MC0 : Nat := 4
def MC5 : Nat := 9
def DMA : Nat := 10
def CRY : Nat := 11
def PKE : Nat := 12
def PPE : Nat := 13
def ODE : Nat := 18
def XSPI : Nat := 19
def DEBUG : Nat := 20
end Ini

/-- The next free value: nothing constrains it. -/
def State.free (s : State) : Nat := Config.freeNat s.freeCtr
/-- The state after one free value has been used. -/
def State.used (s : State) : State := { s with freeCtr := s.freeCtr + 1 }

/-- Record something the part puts out. -/
def State.emit (s : State) (o : Out) : State := { s with out := o :: s.out }

/-- Grid time now: the upper 64 bits of the accumulator (R40). -/
def State.gt (s : State) : GTime := BitVec.ofNat 64 (s.gtu.acc.toNat / 2 ^ 28)
/-- Grid time as a number. -/
def State.gtN (s : State) : Nat := s.gt.toNat

/-- A quotient that the spec computes without a rounding rule: exact where it is exact, else one of the two neighbours. -/
def divOpen (num den : Nat) : Nat :=
  if num % den = 0 then num / den else num / den + (if Config.roundUp num den then 1 else 0)

/-- An integer quotient that the spec computes without a rounding rule. -/
def divOpenInt (num : Int) (den : Nat) : Int :=
  if num % (den : Int) = 0 then num / (den : Int)
  else num / (den : Int) + (if Config.roundUp num.natAbs den then 1 else 0)

/-- Nanoseconds to angle units at the present increment (R4, R40). -/
def State.nsToUnits (s : State) (ns : Nat) : Nat := divOpen (ns * s.regN R.GTU_INC) (2 ^ 28)
/-- Whether a span of grid time is at most `sec` seconds, by the reported frequency in µHz (R4). -/
def State.withinSec (s : State) (units sec : Nat) : Bool :=
  decide (units * 10 ^ 6 ≤ sec * s.regN R.GTU_FREQ * 2 ^ 24)

/-- Add one to a counter that saturates at `max`. -/
def State.bumpTo (s : State) (a max : Nat) : State := if s.regN a < max then s.setRegN a (s.regN a + 1) else s
/-- Add one to a 32-bit counter that saturates (R139, R181 and the other counter notes). -/
def State.bump (s : State) (a : Nat) : State := s.bumpTo a 0xFFFFFFFF
/-- Add `n` to a 32-bit counter that saturates. -/
def State.bumpBy (s : State) (a n : Nat) : State := s.setRegN a (min (s.regN a + n) 0xFFFFFFFF)

/-! ## Events (R63, R64, R65) -/

/-- Whether the route of an event names destination `d`: 0-3 AC0-AC3, 4-9 MC0-MC5, 10-13 EIRQ0-EIRQ3 (R69). -/
def routed (route : Word) (d : Nat) : Bool :=
  if d < 4 then route.getLsbD d else if d < 10 then route.getLsbD (d + 6) else route.getLsbD (d + 12)

/-- Set the pending bit of an event for one destination (R63). -/
def State.pend (s : State) (n d : Nat) : State :=
  s.setReg (R.EVR_PEND d (n / 32)) (s.reg (R.EVR_PEND d (n / 32)) ||| BitVec.ofNat 32 (2 ^ (n % 32)))

/-- One more pulse is owed on an EIRQ pin that is in pulse mode (R64). -/
def State.owePulse (s : State) (d : Nat) : State :=
  if 10 ≤ d ∧ bits (s.reg R.EVR_PINCFG) (4 * (d - 10)) (4 * (d - 10)) = 1 then
    { s with evr := { s.evr with pulses := Sparse.putN s.evr.pulses (d - 10) (Sparse.getN s.evr.pulses (d - 10) + 1) } }
  else s

/-- Set the pending bit of an event at every routed destination of a list (R63). -/
def State.pendAll (s : State) (n : Nat) : List Nat → State
  | [] => s
  | d :: ds =>
    (if routed (s.reg (R.EVR_ROUTE n)) d then (s.pend n d).owePulse d else s).pendAll n ds

/-- The destinations with a pending vector. -/
def dests : List Nat := [0, 1, 2, 3, 4, 5, 6, 7, 8, 9, 10, 11, 12, 13]

/-- Count an occurrence in EVR_CNT, which wraps at 16 bits (R63, R69). -/
def State.countEvent (s : State) (n : Nat) : State := s.wf (F.EVR_CNT_CNT n) (s.rf (F.EVR_CNT_CNT n) + 1)

/-- Count and pend an occurrence, without the subscription FIFO. -/
def State.raisePins (s : State) (n : Nat) : State := (s.countEvent n).pendAll n dests

/-- Add one to the COUNT of the entry for an event, saturating at 255 (R65). -/
def coalesce (n : Nat) : List SubEntry → List SubEntry
  | [] => []
  | e :: es => if e.event = n then { e with count := min (e.count + 1) 255 } :: es else e :: coalesce n es

/-- Put an occurrence into the subscription FIFO (R65). -/
def State.subscribe (s : State) (n : Nat) : State :=
  if s.evr.fifo.any (fun e => e.event == n) then { s with evr := { s.evr with fifo := coalesce n s.evr.fifo } }
  else if s.evr.fifo.length < 64 then
    { s with evr := { s.evr with fifo := s.evr.fifo ++ [⟨n, 1, s.gt⟩] } }
  else (s.wf F.EVR_SUBSTAT_OVF (min (s.rf F.EVR_SUBSTAT_OVF + 1) 255)).raisePins 11

/-- One occurrence of an event (R63): counted, pending at every routed destination, and in the FIFO when routed there. -/
def State.raise (s : State) (n : Nat) : State :=
  if (s.reg (R.EVR_ROUTE n)).getLsbD 31 then (s.raisePins n).subscribe n else s.raisePins n

/-- Raise several events in ascending order (R65). -/
def State.raiseAll (s : State) : List Nat → State
  | [] => s
  | n :: ns => (s.raise n).raiseAll ns

/-- A core's interrupt line: asserted while any pending bit of its vector is set (R64). -/
def State.irqLine (s : State) (d : Nat) : Bool :=
  [0, 1, 2, 3, 4, 5, 6, 7].any (fun w => s.reg (R.EVR_PEND d w) != 0)

/-! ## Status registers -/

/-- Record a status in an ERR register: ERR set, STATUS the code. -/
def State.errSet (s : State) (errReg code : Nat) : State := s.setRegN errReg (0x100 + code % 256)
/-- Refuse: record the status and raise the block's event. -/
def State.refuse (s : State) (errReg code ev : Nat) : State := (s.errSet errReg code).raise ev
/-- Record the status of a command that is not an error, leaving ERR (R67). -/
def State.okSet (s : State) (errReg code : Nat) : State :=
  s.setReg errReg (setBits (s.reg errReg) 7 0 code)

/-! ## Access control (R21 to R25, R526) -/

/-- Whether initiator `i` may make the access: the SYS access table (R25), its exceptions for the SYS window (R526) and
the page windows of CRY (R24). The debug port is closed until it is unlocked; scope 1 opens what a core AC0-AC3 may reach,
scope 2 every block (R25, R407). -/
def State.accOk (s : State) (i : Init) (a : Nat) (write : Bool) : Bool :=
  match windowOf a with
  | none => false
  | some w =>
    let o := a - w.base
    if i.val = Ini.DEBUG then
      s.rf F.PKE_DBGSTAT_SCOPE == 2 || (s.rf F.PKE_DBGSTAT_SCOPE == 1 && bits (s.reg (R.SYS_ACC w.num)) 3 0 != 0)
    else if w.num = 29 then
      if write then (if 0x0100 ≤ o ∧ o ≤ 0x0237 then (s.reg (R.SYS_ACC 29)).getLsbD i.val else true) else true
    else if w.num = 4 ∧ 0x8000 ≤ o then (s.reg (R.SYS_ACCPG ((o - 0x8000) / 0x400))).getLsbD i.val
    else (s.reg (R.SYS_ACC w.num)).getLsbD i.val

/-- Record a denied access: at most 16 are held, each raises EV217, and the initiator gets a bus error (R25, R526). -/
def State.deny (s : State) (i : Init) (a : Nat) : State :=
  let s := if s.acc.held.length < 16 then { s with acc := { s.acc with held := s.acc.held ++ [(i.val, a)] } }
           else { s with acc := { s.acc with ovf := true } }
  (s.raise 217).emit (.busError i a)

/-- A bus error that is no denial: an address outside every region, or an access that is not an aligned 32-bit one. -/
def State.busErr (s : State) (i : Init) (a : Nat) : State := s.emit (.busError i a)

/-- The SYS registers below 0x0100 other than SYS_STEPSET and SYS_STEPCLR are writable only by MC5; the refusal records
RIGHTS in SYS_ERR and raises EV217 (R526). -/
def sysMc5Only (a : Nat) : Bool :=
  decide (0x407F0000 ≤ a ∧ a < 0x407F0100 ∧ a ≠ R.SYS_STEPSET ∧ a ≠ R.SYS_STEPCLR)

/-- The bits of SYS_CLKEN whose domains drive a window (the block table of the architecture, R28, R505). -/
def clkBits (w : Nat) : List Nat :=
  if w = 6 then [5] else if w = 8 ∨ w = 9 ∨ w = 10 ∨ w = 23 then [1]
  else if w = 11 ∨ w = 12 ∨ w = 15 ∨ w = 16 ∨ w = 19 ∨ w = 20 then [3]
  else if w = 13 ∨ w = 17 ∨ w = 21 then [2] else if w = 14 ∨ w = 18 ∨ w = 22 then [4]
  else if w = 25 then [6, 1] else if w = 26 ∨ w = 27 ∨ w = 28 then [7] else []

/-- The clock of the block an address belongs to is stopped (R28). -/
def State.clockOff (s : State) (a : Nat) : Bool :=
  match windowOf a with
  | none => false
  | some w => (clkBits w.num).any (fun k => !(s.reg R.SYS_CLKEN).getLsbD k)

/-- Run the effect of a register write when the initiator may make it. -/
def State.onWrite (s : State) (i : Init) (a : Nat) (k : State → State) : State :=
  if s.accOk i a true then
    if s.clockOff a then s.busErr i a
    else if sysMc5Only a && i.val != Ini.MC5 then s.refuse R.SYS_ERR St.RIGHTS 217 else k s
  else s.deny i a

/-- Run the effect of a register read when the initiator may make it. -/
def State.onRead (s : State) (i : Init) (a : Nat) (k : State → State) : State :=
  if s.accOk i a false then (if s.clockOff a then s.busErr i a else k s) else s.deny i a

/-- Answer a read. -/
def State.answer (s : State) (i : Init) (v : Word) : State := s.emit (.busData i v)

/-! ## Readiness (R35, R505) -/

/-! Readiness bit numbers (R477, R505). -/
namespace Fn
def GTU : Nat := 0
def EVR : Nat := 1
def SRAM : Nat := 2
def DRAM : Nat := 3
def CRY : Nat := 4
def PKE : Nat := 5
def DICT : Nat := 6
def PACKET : Nat := 7
def ETH (p : Nat) : Nat := 8 + p
def RADIO (r : Nat) : Nat := 14 + r
def FMAC : Nat := 18
def STP : Nat := 19
def WIFIMU : Nat := 20
def MESH : Nat := 21
def NOTCH : Nat := 22
def LUM : Nat := 23
def DICTUDP : Nat := 24
def SLOW : Nat := 25
end Fn

/-- The start-step bit of a function (R505). -/
def State.step1 (s : State) (k : Nat) : Bool := (s.reg R.SYS_STEPOK).getLsbD k

/-- The readiness of functions 0 to 19, which depend on single functions (R35, the table of R36). -/
def State.readyA (s : State) (k : Nat) : Bool :=
  let b := s.step1
  if k = 1 then b 1 && b 0
  else if k = 4 then b 4 && b 2
  else if k = 5 then b 5 && b 2
  else if k = 6 then b 6 && b 2
  else if k = 7 then b 7 && b 2
  else if 8 ≤ k ∧ k ≤ 13 then b k && b 7 && b 2
  else if 14 ≤ k ∧ k ≤ 16 then b k && b 2 && b 4 && b 0
  else if k = 17 then b 17 && b 2 && b 4 && b 0
  else if k = 18 then b 18 && b 17 && b 2 && b 4 && b 0
  else if k = 19 then b 19 && b 2 && b 3 && b 0
  else b k

/-- Whether mesh is ready: radio M or H, and the packet path (R36). -/
def State.readyMesh (s : State) : Bool := s.step1 21 && (s.readyA 15 || s.readyA 16) && s.readyA 7

/-- Whether a function is ready: its start step has passed and everything it depends on is ready (R35, R36). Where the
table names "the radios concerned" or "the radio", at least one Wi-Fi radio is asked for. DEDUCED. -/
def State.ready (s : State) (k : Nat) : Bool :=
  if k = 20 then s.step1 20 && (s.readyA 14 || s.readyA 15 || s.readyA 16) && s.readyA 19
  else if k = 21 then s.readyMesh
  else if k = 22 then
    s.step1 22 && (s.readyA 14 || s.readyA 15 || s.readyA 16) && s.readyA 0 && s.readyA 6
  else if k = 23 then s.step1 23 && s.readyA 0
  else if k = 24 then
    s.step1 24 && s.readyA 6 && s.readyA 7 &&
      (s.readyA 8 || s.readyA 9 || s.readyA 10 || s.readyA 11 || s.readyA 12 || s.readyA 13 || s.readyMesh)
  else if k = 25 then s.step1 25 && s.readyA 3
  else s.readyA k

/-- The word of readiness bits 0 to 25. -/
def readyWord (s : State) : Nat → Nat
  | 0 => 0
  | k + 1 => readyWord s k + (if s.ready k then 2 ^ k else 0)

/-- EV207 for each of the functions 0 to `n`-1 whose readiness differs between two words (R35). -/
def State.readyEvents (s : State) (a b : Nat) : Nat → State
  | 0 => s
  | k + 1 =>
    let s := s.readyEvents a b k
    if a / 2 ^ k % 2 ≠ b / 2 ^ k % 2 then s.raise 207 else s

/-- The state field of a block that is OFF while a function is not ready, and IDLE from when it is (R174, R186, R256). -/
def State.syncState (s : State) (k : Nat) (f : Fld) : State :=
  if s.ready k then (if s.rf f = 0 then s.wf f 1 else s) else if s.rf f = 0 then s else s.wf f 0

/-- The states that follow readiness: the Wi-Fi MACs', the field MAC's, and Steppe's with EV088 (R186). -/
def State.syncStates (s : State) : State :=
  let s := ((s.syncState 14 (F.MAC_STAT_STATE .l)).syncState 15 (F.MAC_STAT_STATE .m)).syncState 16 (F.MAC_STAT_STATE .h)
  let s := s.syncState 18 F.FMAC_STAT_STATE
  let old := s.rf F.STP_STAT_STATE
  let s := s.syncState 19 F.STP_STAT_STATE
  if s.rf F.STP_STAT_STATE = old then s else s.raise 88

/-- Start-step bits change: readiness follows at once, and once RDYEN is set each bit of it that changes raises EV207
(R35, R504, R505). -/
def State.setSteps (s : State) (steps : Nat) : State :=
  let old := readyWord s 26
  let s := (s.setRegN R.SYS_STEPOK steps).syncStates
  if s.rb F.SYS_CTRL_RDYEN then s.readyEvents old (readyWord s 26) 26 else s

/-- Set or clear one start-step bit. -/
def State.setStep (s : State) (k : Nat) (b : Bool) : State :=
  s.setSteps (setBits (s.reg R.SYS_STEPOK) k k (if b then 1 else 0)).toNat

/-! ## LIMITED marks (R508) -/

/-- Change the state of SYS. -/
def State.setSys (s : State) (f : SysSt → SysSt) : State := { s with sys := f s.sys }

/-- MC5 marks a function LIMITED, or clears its mark (R508, parameter 01.011). -/
def State.limit (s : State) (k : Nat) (b : Bool) : State :=
  s.setSys (fun y => { y with limited := (setBits (BitVec.ofNat 32 y.limited) k k (if b then 1 else 0)).toNat })

end Sys2Proof.Machine
end

