-- ==== Sys2Proof/Machine/RegWrite.lean ====
section
/-! DEFINITION. The rule for a register write (R8): the range first, then the RWI fields, then every field by its access
code (R7). With it: when each block is idle for R8, where each block records a refused write and which event it raises, and
the ranges that compare one field with another or with memory. -/

namespace Sys2Proof.Machine

/-- Bytes of usable DRAM for the density code in DRC_STAT.DENS (R419). -/
def usableOf (dens : Nat) : Nat :=
  if dens = 1 then 0x70000000 else if dens = 2 then 0xE0000000 else if dens = 3 then 0x150000000
  else if dens = 4 then 0x1C0000000 else if dens = 5 then 0x2A0000000 else if dens = 6 then 0x380000000 else 0

/-- Bytes of usable DRAM now. -/
def State.usable (s : State) : Nat := usableOf (s.rf F.DRC_STAT_DENS)

/-- The DRAM window's base (R22). -/
def dramBase : Nat := 0x800000000

/-- A range of addresses lies in usable DRAM. -/
def State.inDram (s : State) (a len : Nat) : Bool := decide (dramBase ≤ a ∧ a + len ≤ dramBase + s.usable)
/-- A range of addresses lies in the addressable SRAM outside secure SRAM (R21). -/
def inSram (a len : Nat) : Bool :=
  decide (0x10000000 ≤ a ∧ a + len ≤ 0x11380000) || decide (0x113C0000 ≤ a ∧ a + len ≤ 0x11400000)
/-- A range lies in shared real-time memory (R21). -/
def inShared (a len : Nat) : Bool := decide (0x11300000 ≤ a ∧ a + len ≤ 0x11380000)
/-- A range lies in one TCM (R21). -/
def inTcm (a len : Nat) : Bool :=
  decide (0x11180000 ≤ a ∧ a + len ≤ 0x11300000 ∧ (len = 0 ∨ (a - 0x11180000) / 0x40000 = (a + len - 1 - 0x11180000) / 0x40000))

/-- A ring's placement under R328: usable DRAM, shared real-time memory or a TCM. -/
def State.ringPlaced (s : State) (a len : Nat) : Bool := s.inDram a len || inShared a len || inTcm a len

/-! ## Idle, for R8 -/

/-- Radio `r` (0 to 3) is in one of the states below `n` (R70: SLEEP 0, STANDBY 1, SYNTH 2). -/
def State.radioBelow (s : State) (r n : Nat) : Bool :=
  decide (bits (s.reg (0x40100008 + 0x10000 * r)) 31 29 < n)

/-- Whether the block a register belongs to is idle for R8. -/
def State.idleFor (s : State) (w o : Nat) : Bool :=
  if w = 0 then
    if 0x1000 ≤ o then !s.rb (F.GC_STAT_ARMED ((o - 0x1000) / 0x20)) else decide (s.rf F.GTU_STAT_STATE ≤ 1)
  else if w = 4 then
    if 0x8000 ≤ o then s.rf (F.PG_STAT_STATE ((o - 0x8000) / 0x400)) == 0
    else !s.rb F.CRY_CTRL_EN && s.rb F.CRY_STAT_IDLE
  else if w = 5 then !s.rb F.PKE_CTRL_EN
  else if w = 6 then s.rf F.DRC_STAT_STATE == 0 || s.rf F.DRC_STAT_STATE == 4
  else if w = 7 then !s.rb F.SRM_CTRL_SCRUB
  else if w = 8 then !s.rb F.PPE_CTRL_EN && s.rb F.PPE_STAT_IDLE
  else if w = 9 then !s.rb F.TMG_CTRL_EN
  else if w = 10 then !s.rb F.QMG_CTRL_EN && s.rb F.QMG_STAT_IDLE
  else if 11 ≤ w ∧ w ≤ 14 then s.radioBelow (w - 11) 2
  else if 15 ≤ w ∧ w ≤ 18 then s.radioBelow (w - 15) 3
  else if 19 ≤ w ∧ w ≤ 21 then decide (bits (s.reg (0x40300008 + 0x10000 * (w - 19))) 31 30 ≤ 1)
  else if w = 22 then decide (s.rf F.FMAC_STAT_STATE ≤ 1)
  else if w = 23 then decide (s.rf F.STP_STAT_STATE ≤ 1)
  else if w = 24 then !s.rb F.ODE_CTRL_EN
  else if w = 25 then !s.rb (F.ETH_CTRL_EN (o / 0x1000))
  else if w = 26 then !s.rb (F.CAN_CTRL_EN (o / 0x1000))
  else if w = 28 then s.rb F.XSPI_STAT_IDLE
  else true

/-! ## Where a refused write is recorded, and its event -/

/-- The ERR register of the block and the event a refused register write raises, by window and offset. -/
def errOf (w o : Nat) : Nat × Nat :=
  if w = 0 then (R.GTU_ERR, 9)
  else if w = 1 then (R.EVR_ERR, 9)
  else if w = 2 then
    if 0x1000 ≤ o then (R.CH_ERR ((o - 0x1000) / 0x40), 128 + (o - 0x1000) / 0x40 / 4) else (R.DMA_ERR, 128)
  else if w = 3 then
    if 0x1000 ≤ o then (R.CHK_STAT ((o - 0x1000) / 0x40), 162) else (R.SCAN_RES, 162)
  else if w = 4 then
    if 0x8000 ≤ o then (R.PG_ERR ((o - 0x8000) / 0x400), 164) else (R.CRY_ERR, 164)
  else if w = 5 then (R.PKE_ERR, 171)
  else if w = 6 then (R.DRC_ERR, 186)
  else if w = 7 then (R.SRM_ERR, 179)
  else if w = 8 then (R.PPE_ERR, 96)
  else if w = 9 then (R.TMG_ERR, 117)
  else if w = 10 then (R.QMG_ERR, 112)
  else if 11 ≤ w ∧ w ≤ 14 then (0x40100040 + 0x10000 * (w - 11), 17 + 8 * (w - 11))
  else if 15 ≤ w ∧ w ≤ 18 then (0x4020000C + 0x10000 * (w - 15), 20 + 8 * (w - 15))
  else if 19 ≤ w ∧ w ≤ 21 then (0x4030000C + 0x10000 * (w - 19), 48 + 8 * (w - 19))
  else if w = 22 then (R.FMAC_ERR, 72)
  else if w = 23 then (R.STP_ERR, 80)
  else if w = 24 then (R.ODE_ERR, 192)
  else if w = 25 then
    if 0x8000 ≤ o then (0, 214) else (R.ETH_ERR (o / 0x1000), 208 + o / 0x1000)
  else if w = 26 then (R.CAN_ERR (o / 0x1000), 192)
  else if w = 28 then (R.XSPI_ERR, 216)
  else (R.SYS_ERR, 217)

/-- Record a refused register write in the block's status register and raise its event. The scan engine's status register
is SCAN_RES, which has no ERR bit (R369); the common registers of ETH have no status register (R311). -/
def State.refuseWrite (s : State) (w o code : Nat) : State :=
  let e := errOf w o
  (if e.1 = R.SCAN_RES then s.wf F.SCAN_RES_STATUS code
   else if e.1 = 0 then s
   else s.errSet e.1 code).raise e.2

/-! ## Ranges -/

/-- A field value lies in the field's own stated range. -/
def RegField.inRange (f : RegField) (v : Word) : Bool :=
  match f.rng with
  | none => true
  | some (a, b) =>
    let x : Int := if f.sgn then toSigned (f.hi - f.lo + 1) (bits v f.hi f.lo) else (bits v f.hi f.lo : Nat)
    decide (a ≤ x ∧ x ≤ b)

/-- Every writable field of a row is in its stated range. -/
def fieldsInRange : List RegField → Word → Bool
  | [], _ => true
  | f :: fs, v =>
    (match f.acc with
     | .ro | .rc | .w1c => true
     | _ => f.inRange v) && fieldsInRange fs v

/-- The times of R71 that bound the FEM lines, in ns: SYNTH to TX and TX to RX. -/
def synthToTx (r : Nat) : Nat := RegMap.pick r 1600 1600 1600 10000
def txToRx (r : Nat) : Nat := RegMap.pick r 1000 1000 1000 8000

/-- The FEM timing a write would leave (R101). -/
def State.femtOk (s : State) (r o : Nat) (v : Word) : Bool :=
  let base := 0x40100000 + 0x10000 * r
  let w0 := if o = 0x80 then v else s.reg (base + 0x80)
  let w1 := if o = 0x84 then v else s.reg (base + 0x84)
  let w2 := if o = 0x88 then v else s.reg (base + 0x88)
  decide (bits w0 15 0 + 200 ≤ bits w0 31 16 ∧ bits w1 31 16 + 200 ≤ bits w1 15 0 ∧
    bits w1 15 0 + 100 ≤ bits w2 31 16 ∧ bits w0 31 16 ≤ synthToTx r ∧ bits w2 31 16 ≤ txToRx r)

/-- The widest BW code of a Wi-Fi radio (R73). -/
def bwMax (r : Nat) : Nat := RegMap.pick r 1 3 4 4

/-- KLEN of a profile with INSTR `k` replaced by `v`: the sum of the LEN fields (R274). -/
def State.klenWith (s : State) (n k : Nat) (v : Word) : Nat → Nat
  | 0 => 0
  | j + 1 => s.klenWith n k v j +
      (if j = k then bits v 4 0 else s.rf (F.PPE_PROF_INSTR_LEN n j))

/-- A CAN bit timing in bit/s stays at or below a limit: 200 MHz / (BRP × (1 + TSEG1 + TSEG2)) (R474). -/
def canRateOk (v : Word) (limit : Nat) : Bool :=
  decide (200000000 ≤ limit * ((bits v 31 24 + 1) * (1 + (bits v 23 16 + 1) + (bits v 14 8 + 1))))

/-- Window and offset ranges that are not a field's own, first part: radios, MACs, Steppe. -/
def State.extraA (s : State) (w o : Nat) (v : Word) : Bool :=
  if 11 ≤ w ∧ w ≤ 14 then (if o = 0x80 ∨ o = 0x84 ∨ o = 0x88 then s.femtOk (w - 11) o v else true)
  else if 15 ≤ w ∧ w ≤ 17 then
    (if o = 0x20 then decide (bits v 11 8 ≤ bits v 3 0) else true)
  else if 19 ≤ w ∧ w ≤ 21 then
    (if 0x50 ≤ o ∧ o ≤ 0x5C then decide (bits v 3 0 ≤ bits v 7 4)
     else if o = 0xA0 then decide (bits v 15 12 ≤ bwMax (w - 19)) else true)
  else if w = 22 then
    (if o = 0x8C then decide (s.rf F.FMAC_GBASE_G ≤ bits v 23 0)
     else if o = 0x90 then decide (bits v 23 0 ≤ s.rf F.FMAC_GMAX_G)
     else if o = 0x204 ∨ o = 0x224 ∨ o = 0x244 ∨ o = 0x264 then
       decide (s.rf (F.FMAC_DW_CTRL_FLO ((o - 0x204) / 0x20)) ≤ bits v 19 0)
     else if o = 0x210 ∨ o = 0x230 ∨ o = 0x250 ∨ o = 0x270 then
       decide (v.toNat ≤ s.regN (R.FMAC_DW_LIMIT ((o - 0x210) / 0x20)))
     else true)
  else if w = 23 then
    (if o = 0x44 then decide (s.rf F.STP_GBASE_G ≤ bits v 23 0)
     else if o = 0x48 then decide (bits v 11 8 ≤ bits v 3 0)
     else if o = 0x6C then decide (bits v 23 16 < bits v 31 24)
     else if o = 0x30 then decide (v.toNat % 0x400 = 0)
     else if o = 0x34 then s.inDram (s.regN R.STP_HISTBASE_LO + bits v 3 0 * 2 ^ 32) 0x300000
     else true)
  else true

/-- Second part: DMA, check units, cipher engine, memories. -/
def State.extraB (s : State) (w o : Nat) (v : Word) : Bool :=
  if w = 2 then
    (if 0x1000 ≤ o ∧ (o - 0x1000) % 0x40 = 0x24 then decide (v.toNat % 32 = 0)
     else if 0x1000 ≤ o ∧ (o - 0x1000) % 0x40 = 0x2C then
       decide (bits v 11 0 < 2 ^ s.rf (F.CH_SRING_HI_SIZE ((o - 0x1000) / 0x40)))
     else true)
  else if w = 3 then
    (if o = 0x10C then decide (v.toNat % 4 = 0)
     else if 0x1000 ≤ o ∧ (o - 0x1000) % 0x40 = 0x10 then decide (8 ≤ bits v 5 0 ∧ bits v 5 0 ≤ 32)
     else true)
  else if w = 4 then
    (if 0x8000 ≤ o ∧ (o - 0x8000) % 0x400 = 0x10 then decide (v.toNat % 64 = 0)
     else if 0x218 ≤ o ∧ o < 0x280 then decide (bits v 29 28 ≤ 2)
     else if 0x400 ≤ o ∧ o < 0x600 then
       let other := s.reg (0x40040000 + (if o % 8 = 0 then o + 4 else o - 4))
       let b := 0x1000 * bits (if o % 8 = 0 then v else other) 23 0
       let n := 0x1000 * bits (if o % 8 = 0 then other else v) 23 0
       decide (n = 0 ∨ 0x113C0000 ≤ b ∨ b + n ≤ 0x11380000)
     else true)
  else if w = 6 then
    (if o = 0x1C then decide (v.toNat % 64 = 0)
     else if o = 0x60 then
       decide (s.rf F.DRC_DUMP_SIZE_MB = 0) ||
         s.inDram (dramBase + bits v 15 0 * 2 ^ 20) (s.rf F.DRC_DUMP_SIZE_MB * 2 ^ 20)
     else if o = 0x64 then
       decide (bits v 8 0 = 0) ||
         s.inDram (dramBase + s.rf F.DRC_DUMP_BASE_MB * 2 ^ 20) (bits v 8 0 * 2 ^ 20)
     else if o = 0x84 then
       decide (v.toNat % 8 = 0) && s.inDram (s.rf F.DRC_INJ_ADDR_HI_HI * 2 ^ 32 + v.toNat) 8
     else if o = 0x88 then s.inDram (bits v 3 0 * 2 ^ 32 + s.regN R.DRC_INJ_ADDR_LO) 8
     else true)
  else if w = 7 then
    (if o = 0x30 then decide (v.toNat % 8 = 0) && inSram v.toNat 8 else true)
  else true

/-- Third part: packet engine, traffic, dictionary, ports, SYS. -/
def State.extraC (s : State) (w o : Nat) (v : Word) : Bool :=
  if w = 8 then
    (if o = 0x50 then decide (v.toNat % 256 = 0)
     else if 0x1000 ≤ o ∧ o < 0x2000 ∧ (o - 0x1000) % 0x100 < 0x40 then
       decide (s.klenWith ((o - 0x1000) / 0x100) ((o - 0x1000) % 0x100 / 4) v 16 ≤ 64)
     else true)
  else if w = 9 then
    (if 0x1000 ≤ o ∧ o < 0x1400 ∧ (o - 0x1000) % 0x40 = 4 then decide (1 ≤ bits v 27 0 ∧ bits v 27 0 ≤ 100000000)
     else if 0x1000 ≤ o ∧ o < 0x1400 ∧ (o - 0x1000) % 0x40 = 8 then decide (64 ≤ bits v 23 0)
     else if 0x1000 ≤ o ∧ o < 0x1400 ∧ (o - 0x1000) % 0x40 = 0 then
       decide (-32 ≤ toSigned 8 (bits v 23 16))
     else if 0x1000 ≤ o ∧ o < 0x1400 ∧ (o - 0x1000) % 0x40 = 0x10 then
       decide (45 ≤ bits v 15 0 ∧ bits v 15 0 ≤ 8192)
     else if 0x2000 ≤ o ∧ o % 0x10 = 0 then decide (1 ≤ bits v 27 0 ∧ bits v 27 0 ≤ 100000000)
     else if 0x2000 ≤ o ∧ o % 0x10 = 4 then decide (64 ≤ bits v 23 0)
     else true)
  else if w = 10 then
    (if 0x10000 ≤ o ∧ (o - 0x10000) % 0x20 = 4 then
       decide (v.toNat ≤ s.regN (R.QMG_POL_PIR ((o - 0x10000) / 0x20)))
     else if 0x10000 ≤ o ∧ (o - 0x10000) % 0x20 = 8 then
       decide (s.regN (R.QMG_POL_CIR ((o - 0x10000) / 0x20)) ≤ v.toNat)
     else true)
  else if w = 24 then
    (if o = 0x80 then decide (v.toNat % 2 ^ s.rf F.ODE_JGEOM_SEGLOG = 0) else true)
  else if w = 26 then
    (if o % 0x1000 = 0x10 then canRateOk v 1000000
     else if o % 0x1000 = 0x14 then canRateOk v 5000000 else true)
  else if w = 29 then
    (if o = 0x174 then v.getLsbD 9 else true)
  else true

/-- The ranges that are not a field's own. -/
def State.extraOk (s : State) (w o : Nat) (v : Word) : Bool :=
  s.extraA w o v && s.extraB w o v && s.extraC w o v

/-! ## Field effects -/

/-- A field's bits after a write, by its access code (R7). -/
def RegField.after (f : RegField) (old v : Word) : Nat :=
  let o := bits old f.hi f.lo
  let n := bits v f.hi f.lo
  match f.acc with
  | .rw | .rwi | .rwm => n
  | .w1c => o - (o &&& n)
  | .w1s => o ||| n
  | .ro | .rc | .wo => o

/-- The register after a write, field by field. -/
def applyFields : List RegField → Word → Word → Word → Word
  | [], _, _, acc => acc
  | f :: fs, old, v, acc => applyFields fs old v (setBits acc f.hi f.lo (f.after old v))

/-- The write would change an RWI field. -/
def changesRwi : List RegField → Word → Word → Bool
  | [], _, _ => false
  | f :: fs, old, v => (f.acc == .rwi && bits old f.hi f.lo != bits v f.hi f.lo) || changesRwi fs old v

/-- The write carries a field that MC5 alone may write (R373, R527). -/
def hasMc5 : List RegField → Bool
  | [] => false
  | f :: fs => f.acc == .rwm || hasMc5 fs

/-- A field that a block of this kind does not have, by window, offset and highest bit: a write leaves it as it
is (R102, R139, R181, R311, R316, R373). -/
def absentField (w o hi : Nat) : Bool :=
  (w == 14 && ((o == 4 && hi == 30) || (0xA0 ≤ o && o < 0x100))) ||
  (w == 4 && ((0x200 ≤ o && o < 0x218 && hi == 29) ||
    (0x8000 ≤ o && o < 0x9800 && (o % 0x400 == 0x10 || o % 0x400 == 0x14)))) ||
  (w == 18 && (o == 0x20 || o == 0x24 || o == 0x40 || (o == 4 && hi == 23))) ||
  (15 ≤ w && w ≤ 17 && o == 0x60) ||
  (20 ≤ w && w ≤ 21 && o == 4 && hi == 31) ||
  (w == 25 && 0x2000 ≤ o && o < 0x6000 && o % 0x1000 == 4 && hi == 19) ||
  (w == 9 && o % 0x40 == 0x10 && (o == 0x1190 || (0x1210 ≤ o && o ≤ 0x1290)) && hi == 15)

/-- A write to a register of the map (R8): refused with RANGE, refused with STATE, or taking effect field by field. A
write by another initiator to a register that MC5 alone may write is refused with RIGHTS (R374). -/
def State.fieldWrite (s : State) (i : Nat) (w : Window) (row : RegRow) (a : Nat) (v : Word) : State :=
  let o := a - w.base
  let old := s.reg a
  let fields := row.fields.filter (fun f => !absentField w.num o f.hi)
  if hasMc5 row.fields && i != Ini.MC5 then s.refuseWrite w.num o St.RIGHTS
  else if !(fieldsInRange fields v && (fields.isEmpty || s.extraOk w.num o v)) then s.refuseWrite w.num o St.RANGE
  else if changesRwi fields old v && !s.idleFor w.num o then s.refuseWrite w.num o St.STATE
  else s.setReg a (applyFields fields old v old)

/-- The same, by address alone; an offset without a register takes no effect (R6). -/
def State.writeReg (s : State) (i : Nat) (a : Nat) (v : Word) : State :=
  match windowOf a with
  | none => s
  | some w =>
    match findRow w.rows (a - w.base) with
    | none => s
    | some (row, _) => s.fieldWrite i w row a v

/-- Whether a write to a register of the map would be refused (for an operation that goes on only when it is not). -/
def State.writeRefused (s : State) (i : Nat) (a : Nat) (v : Word) : Bool :=
  match windowOf a with
  | none => false
  | some w =>
    match findRow w.rows (a - w.base) with
    | none => false
    | some (row, _) =>
      let fields := row.fields.filter (fun f => !absentField w.num (a - w.base) f.hi)
      (hasMc5 row.fields && i != Ini.MC5) ||
        !(fieldsInRange fields v && (fields.isEmpty || s.extraOk w.num (a - w.base) v)) ||
        (changesRwi fields (s.reg a) v && !s.idleFor w.num (a - w.base))

end Sys2Proof.Machine
end

