-- ==== Sys2Proof/Machine/Mem.lean ====
section
/-! DEFINITION. Memory: the one read and the one write of a byte, and the wider accesses built from them, little-endian
(R3, R5). The error codes of a word stand beside it (R413). -/

namespace Sys2Proof.Machine

/-- What a byte that nothing has written reads as: SRAM is cleared at start (R501); DRAM after power-on is not given
(DESIGN CHOICE 0). -/
def memDefault (_a : Nat) : Byte := 0

/-- The canonical form of memory: addresses rising, and no byte equal to what an unlisted address reads as. -/
def Memory.wf (m : List Host.Cell) : Bool := Sparse.wf memDefault m

/-- The byte at an address. -/
def State.byte (s : State) (a : Nat) : Byte := Sparse.get memDefault s.mem a
/-- Store one byte. -/
def State.setByte (s : State) (a : Nat) (b : Byte) : State := { s with mem := Sparse.put memDefault s.mem a b }

/-- The little-endian number of `n` bytes from an address. -/
def State.readN (s : State) (a : Nat) : Nat → Nat
  | 0 => 0
  | n + 1 => (s.byte a).toNat + 256 * s.readN (a + 1) n

/-- Store a number as `n` little-endian bytes. -/
def State.writeN (s : State) (a : Nat) : Nat → Nat → State
  | 0, _ => s
  | n + 1, v => (s.setByte a (BitVec.ofNat 8 v)).writeN (a + 1) n (v / 256)

/-- The 32-bit word at an address. -/
def State.read32 (s : State) (a : Nat) : Word := BitVec.ofNat 32 (s.readN a 4)
/-- Store a 32-bit word. -/
def State.write32 (s : State) (a : Nat) (w : Word) : State := s.writeN a 4 w.toNat

/-- The bytes of a range. -/
def State.bytes (s : State) (a : Nat) : Nat → List Byte
  | 0 => []
  | n + 1 => s.byte a :: s.bytes (a + 1) n
/-- Store a list of bytes. -/
def State.setBytes (s : State) (a : Nat) : List Byte → State
  | [] => s
  | b :: bs => (s.setByte a b).setBytes (a + 1) bs

/-- The words of a range. -/
def State.words (s : State) (a : Nat) : Nat → List Word
  | 0 => []
  | n + 1 => s.read32 a :: s.words (a + 4) n
/-- Store a list of words. -/
def State.setWords (s : State) (a : Nat) : List Word → State
  | [] => s
  | w :: ws => (s.write32 a w).setWords (a + 4) ws

/-- A field of a memory word. -/
def State.mf (s : State) (a hi lo : Nat) : Nat := bits (s.read32 a) hi lo
/-- Write a field of a memory word. -/
def State.wmf (s : State) (a hi lo n : Nat) : State := s.write32 a (setBits (s.read32 a) hi lo n)

/-- The error code of the word an address lies in: 0 clean, 1 correctable, 2 or 3 uncorrectable (R413, R414). -/
def State.eccOf (s : State) (a : Nat) : Nat := Sparse.getN s.ecc (a / 8)
/-- Set the error code of a word. -/
def State.setEcc (s : State) (a code : Nat) : State := { s with ecc := Sparse.putN s.ecc (a / 8) code }
/-- Some word of a range is uncorrectable. -/
def State.eccBad (s : State) (a len : Nat) : Bool :=
  s.ecc.any (fun e => decide (2 ≤ e.2 ∧ a / 8 ≤ e.1 ∧ e.1 * 8 < a + len))
/-! ## The error-correcting code (R412 to R415, R436) -/

/-- An address of the DRAM window. -/
def isDram (a : Nat) : Bool := decide (dramBase ≤ a)

/-- Change the state of SRM and DRC. -/
def State.setDrc (s : State) (f : DrcSt → DrcSt) : State := { s with drc := f s.drc }

/-- A correction is counted and its address latched (R413). The ticks of the latest corrections, one more than the widest
alarm limit, are kept for R418. -/
def State.noteCe (s : State) (a : Nat) : State :=
  let t := s.gtu.ticks
  if isDram a then
    ((s.setDrc (fun d => { d with ceDram := (t :: d.ceDram).take 65536 })).bump R.DRC_CNT_CE).setReg64
      R.DRC_CEADDR_LO R.DRC_CEADDR_HI a
  else
    ((s.setDrc (fun d => { d with ceSram := (t :: d.ceSram).take 65536 })).bump R.SRM_CNT_CE).setRegN R.SRM_CEADDR a

/-- An uncorrectable read is counted and latched with its reader's code, and raises EV177 or EV181 (R415). -/
def State.noteUe (s : State) (reader a : Nat) : State :=
  let info := reader * 2 ^ 24 + (if s.eccOf a = 3 then 1 else 0)
  if isDram a then
    (((s.bump R.DRC_CNT_UE).setReg64 R.DRC_UEADDR_LO R.DRC_UEADDR_HI a).setRegN R.DRC_UEINFO info).raise 181
  else (((s.bump R.SRM_CNT_UE).setRegN R.SRM_UEADDR a).setRegN R.SRM_UEINFO info).raise 177

/-- A read meets word `k`: clean, corrected and written back, or uncorrectable (R413, R415). -/
def State.eccWord (s : State) (reader k : Nat) : State :=
  if s.eccOf (8 * k) = 0 then s
  else if s.eccOf (8 * k) = 1 then (s.setEcc (8 * k) 0).noteCe (8 * k)
  else s.noteUe reader (8 * k)

/-- A list of words is read. -/
def State.eccWords (s : State) (reader : Nat) : List Nat → State
  | [] => s
  | k :: ks => (s.eccWord reader k).eccWords reader ks

/-- The words of a range that are not clean. -/
def State.eccKeys (s : State) (a len : Nat) : List Nat :=
  (s.ecc.filter (fun e => decide (a / 8 ≤ e.1 ∧ e.1 * 8 < a + len))).map (fun e => e.1)


/-- Word `k` lies whole in a range. -/
def covers (a len k : Nat) : Bool := decide (a ≤ k * 8 ∧ k * 8 + 8 ≤ a + len)

/-- The words that a write reads and rewrites are read first; those found uncorrectable are poisoned (R414). -/
def State.eccRmw (s : State) (writer : Nat) : List Nat → State
  | [] => s
  | k :: ks =>
    let bad := decide (2 ≤ s.eccOf (8 * k))
    let s := s.eccWord writer k
    (if bad then s.setEcc (8 * k) 3 else s).eccRmw writer ks

/-- The unit in which memory is rewritten: a word of SRAM, a line of DRAM (R414, R420). -/
def granule (a : Nat) : Nat := if isDram a then 64 else 8

/-- The words that a write of a range rewrites without supplying them whole. -/
def State.rmwKeys (s : State) (a len : Nat) : List Nat :=
  let g := granule a
  (s.eccKeys (a / g * g) ((a + len + g - 1) / g * g - a / g * g)).filter (fun k => !covers a len k)

/-- The address an injection register holds. -/
def State.injAddr (s : State) (dram : Bool) : Nat :=
  if dram then s.regN R.DRC_INJ_ADDR_LO + s.rf F.DRC_INJ_ADDR_HI_HI * 2 ^ 32 else s.regN R.SRM_INJ_ADDR

/-- An armed injection flips its bits at a full write to its word, and disarms (R436). Two names of one bit are one bit. -/
def State.inject (s : State) (dram : Bool) (a len : Nat) : State :=
  let ctrl := if dram then R.DRC_INJ_CTRL else R.SRM_INJ_CTRL
  if bits (s.reg ctrl) 31 31 = 1 ∧ covers a len (s.injAddr dram / 8) then
    let two := bits (s.reg ctrl) 30 30 = 1 ∧ bits (s.reg ctrl) 14 8 ≠ bits (s.reg ctrl) 6 0
    (s.setEcc (s.injAddr dram) (if two then 2 else 1)).setReg ctrl (setBits (s.reg ctrl) 31 31 0)
  else s

/-- Words written in full are left clean (R414). -/
def State.eccClean (s : State) (a len : Nat) : State :=
  { s with ecc := Sparse.drop (covers a len) s.ecc }

/-- The DRAM controller serves requests: RUN or SRIDLE (R429, R431). -/
def State.dramServes (s : State) : Bool := s.rf F.DRC_STAT_STATE == 2 || s.rf F.DRC_STAT_STATE == 3

/-- A request for DRAM brings the controller back from SRIDLE (R431). -/
def State.dramTouch (s : State) (a : Nat) : State :=
  if isDram a && s.rf F.DRC_STAT_STATE == 3 then ((s.wf F.DRC_STAT_STATE 2).bump R.DRC_CNT_SREXIT).raise 185 else s

/-- A read of a range through the code: the state after it. It returns data when `eccBad` is false before it. -/
def State.eccRead (s : State) (reader a len : Nat) : State :=
  if len = 0 then s else (s.dramTouch a).eccWords reader (s.eccKeys a len)

/-- An initiator stores a list of bytes: the words not supplied whole are read, merged and rewritten; the others are left
clean, or as an armed injection leaves them. -/
def State.store (s : State) (writer a : Nat) (l : List Byte) : State :=
  if l.isEmpty then s
  else (((((s.dramTouch a).eccRmw writer (s.rmwKeys a l.length)).setBytes a l).eccClean a l.length).inject (isDram a) a l.length)

/-! ## Which addresses answer (R21, R22, R419, R429, R435, R443) -/

/-- A range reaches into the dump basin. -/
def State.inBasin (s : State) (a len : Nat) : Bool :=
  let b := dramBase + s.rf F.DRC_DUMP_BASE_MB * 2 ^ 20
  decide (a < b + s.rf F.DRC_DUMP_SIZE_MB * 2 ^ 20 ∧ b < a + len)

/-- A read of a range of memory by an initiator other than CRY and PKE ends without a bus error. -/
def State.readable (s : State) (a len : Nat) : Bool :=
  decide (a + len ≤ 0x40000) || inSram a len || (s.inDram a len && s.dramServes)

/-- A write of a range of memory by initiator `i` ends without a bus error: not the boot ROM, not the dictionary image once
the dictionary is ready, not a locked dump basin. -/
def State.writable (s : State) (i a len : Nat) : Bool :=
  (inSram a len && !(s.ready Fn.DICT && i != Ini.MC5 && i != Ini.ODE && decide (a < 0x11370000 ∧ 0x11300000 < a + len))) ||
    (s.inDram a len && s.dramServes && !(s.rb F.DRC_DUMP_LOCK && s.inBasin a len))

/-- The little-endian bytes of a list of words. -/
def wordBytes : List Word → List Byte
  | [] => []
  | w :: ws => w.extractLsb' 0 8 :: w.extractLsb' 8 8 :: w.extractLsb' 16 8 :: w.extractLsb' 24 8 :: wordBytes ws

/-- The little-endian bytes of a number. -/
def natBytes : Nat → Nat → List Byte
  | 0, _ => []
  | n + 1, v => BitVec.ofNat 8 v :: natBytes n (v / 256)

/-- The little-endian number of a list of bytes. -/
def bytesNat : List Byte → Nat
  | [] => 0
  | b :: bs => b.toNat + 256 * bytesNat bs

/-- The big-endian number of a list of bytes. -/
def bytesNatBe (l : List Byte) : Nat := l.foldl (fun n b => n * 256 + b.toNat) 0

end Sys2Proof.Machine
end

