-- ==== Sys2Proof/Machine/OdeNbr.lean ====
section
/-! DEFINITION. What other blocks do to the ODE: the digest reports of neighbours (R470), and an alarm erase (R449, R457);
with them the device state and the sessions' trace in the registers. -/

namespace Sys2Proof.Machine

/-- Change the ODE's state. -/
def State.setOde (s : State) (f : OdeSt → OdeSt) : State := { s with ode := f s.ode }

/-- A neighbour's report: its address, its link (0 L, 1 M, 2 H, 3 S), its generation, the 8 bytes of its digest prefix. -/
structure NbrReport where
  addr : BitVec 64
  link : Nat
  gen : BitVec 32
  dig : BitVec 64

/-- The neighbour numbers. -/
def nbrs : List Nat := List.range 32

/-- The entry that a report goes to: its neighbour's, else an unused one, else the oldest. -/
def State.nbrSlot (s : State) (n : NbrReport) : Nat :=
  let same (j : Nat) : Bool := s.rb (F.ODE_NBR_INFO_VALID j) && s.rf (F.ODE_NBR_INFO_LINK j) == n.link &&
    s.reg (R.ODE_NBR_ADDR j 0) == n.addr.extractLsb' 0 32 && s.reg (R.ODE_NBR_ADDR j 1) == n.addr.extractLsb' 32 32
  match nbrs.find? same with
  | some j => j
  | none =>
    match nbrs.find? (fun j => !s.rb (F.ODE_NBR_INFO_VALID j)) with
    | some j => j
    | none =>
      let at_ (j : Nat) : Nat := (Sparse.getO s.ode.nbrAt j).elim 0 (·.toNat)
      nbrs.foldl (fun b j => if at_ j < at_ b then j else b) 0

/-- The class of a report: 0 SAME, 1 NEWER, 2 OLDER, 3 CONFLICT (R470). -/
def State.nbrClass (s : State) (n : NbrReport) : Nat :=
  let d := (n.gen - s.reg R.ODE_GEN).toNat
  let same := n.dig.extractLsb' 0 32 == s.reg (R.ODE_DIG 0) && n.dig.extractLsb' 32 32 == s.reg (R.ODE_DIG 1)
  if d = 0 then (if same then 0 else 3) else if d < 2 ^ 31 then 1 else 2

/-- The ODE may pull from a NEWER neighbour (R471): the policy, OPERATIONAL (2) or LIMITED (3), DIRTY clear, and M or H. -/
def State.mayPull (s : State) (link : Nat) : Bool :=
  let pol := s.rf F.ODE_DIGPOL_POL
  (pol == 1 || (pol == 2 && s.reg R.ODE_GEN == 0)) && (link == 1 || link == 2) && !s.rb F.ODE_STAT_DIRTY &&
    (s.rf F.ODE_STAT_STATE == 2 || s.rf F.ODE_STAT_STATE == 3)

/-- Keep a report; a change of it is classed (R470). -/
def State.nbrReport (s : State) (n : NbrReport) : State :=
  let j := s.nbrSlot n
  let c := s.nbrClass n
  let same := s.rb (F.ODE_NBR_INFO_VALID j) && s.rf (F.ODE_NBR_INFO_LINK j) == n.link &&
    s.reg (R.ODE_NBR_ADDR j 0) == n.addr.extractLsb' 0 32 && s.reg (R.ODE_NBR_ADDR j 1) == n.addr.extractLsb' 32 32 &&
    s.reg (R.ODE_NBR_GEN j) == n.gen && s.reg (R.ODE_NBR_DIG j 0) == n.dig.extractLsb' 0 32 &&
    s.reg (R.ODE_NBR_DIG j 1) == n.dig.extractLsb' 32 32
  let old := s.rf (F.ODE_NBR_INFO_CLASS j)
  let s := (s.setReg (R.ODE_NBR_ADDR j 0) (n.addr.extractLsb' 0 32)).setReg (R.ODE_NBR_ADDR j 1) (n.addr.extractLsb' 32 32)
  let s := ((s.wb (F.ODE_NBR_INFO_VALID j) true).wf (F.ODE_NBR_INFO_CLASS j) c).wf (F.ODE_NBR_INFO_LINK j) n.link
  let s := (s.setReg (R.ODE_NBR_GEN j) n.gen).setReg (R.ODE_NBR_DIG j 0) (n.dig.extractLsb' 0 32)
  let s := s.setReg (R.ODE_NBR_DIG j 1) (n.dig.extractLsb' 32 32)
  let s := s.setOde (fun o => { o with nbrAt := Sparse.put (fun _ => none) o.nbrAt j (some s.gt) })
  if same ∧ old = c then s
  else if c = 1 then
    let s := (s.bump R.ODE_CNT_DIGNEW).raise 196
    if s.mayPull n.link && !s.ode.pulls.contains j then s.setOde (fun o => { o with pulls := o.pulls ++ [j] }) else s
  else if c = 2 then s.bump R.ODE_CNT_DIGOLD
  else if c = 3 then (s.bump R.ODE_CNT_DIGCONF).raise 197
  else s

/-! ## Device state and sessions -/

/-- The device state (R449). -/
def State.dev (s : State) : Nat := s.rf F.ODE_STAT_STATE

/-! Device states (R449). -/
namespace Dev
def BOOT : Nat := 0
def MAINTENANCE : Nat := 1
def OPERATIONAL : Nat := 2
def LIMITED : Nat := 3
def ALARM : Nat := 4
def DUMP : Nat := 5
end Dev

/-- Change the device state; each change raises EV195 (R449). -/
def State.setDev (s : State) (k : Nat) : State :=
  if s.dev = k then s else ((s.wf F.ODE_STAT_STATE k).setOde (fun o => { o with since := s.gt })).raise 195

/-- ODE_STAT shows IDLE and the sessions open (R473). -/
def State.odeKeep (s : State) : State :=
  (s.wb F.ODE_STAT_IDLE (s.ode.req.isNone && s.ode.rxq.isEmpty)).wf F.ODE_STAT_SESS
    (s.ode.sessions.filter (fun x => x.up)).length

/-- The OR of all subscription masks. -/
def State.allMasks (s : State) : Nat := s.ode.sessions.foldl (fun m x => m ||| x.mask) 0

/-- Bit SUB of the routes of events 0 to `n`-1 follows the masks (R461). -/
def State.subRoutes (s : State) (m : Nat) : Nat → State
  | 0 => s
  | n + 1 =>
    let s := s.subRoutes m n
    s.setReg (R.EVR_ROUTE n) (setBits (s.reg (R.EVR_ROUTE n)) 31 31 (m / 2 ^ n % 2))

/-- While SUBEN is set, every route's SUB equals the OR of the masks (R461). -/
def State.syncSubs (s : State) : State :=
  if s.rb F.EVR_SUBSTAT_SUBEN then s.subRoutes s.allMasks 256 else s

/-- Change the sessions. -/
def State.setSessions (s : State) (f : List Session → List Session) : State :=
  ((s.setOde (fun o => { o with sessions := f o.sessions })).syncSubs).odeKeep

/-- An alarm erase closes every session and discards its pending responses (R457); the device state becomes ALARM from any
state other than DUMP (R449). -/
def State.odeAlarm (s : State) : State :=
  let s := s.setSessions (fun _ => [])
  let s := (s.setOde (fun o => { o with req := none, spiOut := [], mbxOut := [] })).odeKeep
  let s := { s with can0 := { s.can0 with hdp := [] }, can1 := { s.can1 with hdp := [] } }
  if s.dev = Dev.DUMP then s else s.setDev Dev.ALARM

end Sys2Proof.Machine
end

