-- ==== Sys2Proof/Machine/Can.lean ====
section
/-! DEFINITION. The CAN FD ports (R459, R474): firmware frames in both directions, bus states, and the segments of HDP. -/

namespace Sys2Proof.Machine

/-- A port's FIFOs. -/
def State.can (s : State) (p : Nat) : CanSt := if p = 0 then s.can0 else s.can1
/-- Change a port's FIFOs. -/
def State.setCan (s : State) (p : Nat) (f : CanSt → CanSt) : State :=
  if p = 0 then { s with can0 := f s.can0 } else { s with can1 := f s.can1 }

/-- The data bytes of a length code: ISO 11898-1. -/
def dlcLen (fdf : Bool) (dlc : Nat) : Nat :=
  if dlc ≤ 8 then dlc else if !fdf then 8 else [12, 16, 20, 24, 32, 48, 64].getD (dlc - 9) 64
/-- The least length code of an FD frame that holds `n` bytes. -/
def dlcOf (n : Nat) : Nat :=
  if n ≤ 8 then n else 9 + ([12, 16, 20, 24, 32, 48].filter (fun k => decide (k < n))).length

/-- The bit FDF of a header word. -/
def hdrFd (hdr : Nat) : Bool := hdr / 2 ^ 29 % 2 == 1

/-- A frame's data bytes, as its header and length code give them; bytes not given are 0. -/
def CanFrame.bytes (c : CanFrame) : List Byte :=
  let n := dlcLen (hdrFd c.hdr) (c.info % 16)
  (c.data ++ List.replicate n 0).take n

/-- A write to CAN_TXF_PUSH. -/
def State.canPush (p : Nat) (v : Word) (s : State) : State :=
  if !v.getLsbD 0 then s
  else if 16 ≤ (s.can p).tx.length then s.refuse (R.CAN_ERR p) St.BUSY 192
  else
    let f : CanFrame := ⟨s.regN (R.CAN_TXF_HDR p), s.regN (R.CAN_TXF_INFO p),
      wordBytes ((List.range 16).map (fun k => s.reg (R.CAN_TXF_DATA p k)))⟩
    s.setCan p (fun c => { c with tx := c.tx ++ [f] })

/-- CAN_TXF_PUSH (R474). -/
def execCanTxfPush (i : Init) (p : Fin 2) (v : Word) (s : State) : Host.Outcome State Fault Refusal :=
  .next (s.onWrite i (R.CAN_TXF_PUSH p.val) (State.canPush p.val v))

/-- The port takes part on the bus. -/
def State.canOn (s : State) (p : Nat) : Bool := s.rb (F.CAN_CTRL_EN p)

/-- A frame has left the port. -/
def State.canSentOne (s : State) (p : Nat) (f : CanFrame) : State :=
  (s.bump (R.CAN_CNT_TXOK p)).emit (.canTx p f.hdr f.bytes)

/-- CAN_FRAME_SENT (R474): an HDP frame before a firmware frame; none in LISTEN and in bus-off. -/
def execCanFrameSent (p : Fin 2) (s : State) : Host.Outcome State Fault Refusal :=
  if !s.canOn p.val || s.rb (F.CAN_CTRL_LISTEN p.val) || s.rf (F.CAN_STAT_STATE p.val) == 2 then .next s
  else
    match (s.can p.val).hdp, (s.can p.val).tx with
    | f :: fs, _ => .next ((s.setCan p.val (fun c => { c with hdp := fs })).canSentOne p.val f)
    | [], f :: fs => .next ((s.setCan p.val (fun c => { c with tx := fs })).canSentOne p.val f)
    | [], [] => .next s

/-- The port serves HDP, and its node identifier is set (R459, R473). -/
def State.canServes (s : State) (p : Nat) : Bool :=
  s.rb F.ODE_CTRL_EN && s.rb (if p = 0 then F.ODE_CTRL_CAN0 else F.ODE_CTRL_CAN1) && s.rf F.ODE_CANID_ID != 0

/-- A header names the node's HDP request identifier. -/
def State.hdpId (s : State) (p hdr : Nat) : Bool :=
  s.canServes p && hdr / 2 ^ 30 % 2 == 0 && hdr % 2 ^ 29 == 0x400 + s.rf F.ODE_CANID_ID

/-- CAN_FRAME_RECEIVE (R474): a frame on another identifier enters the firmware FIFO, or is dropped when 32 wait. A classic
frame on the HDP identifier is discarded (R459). -/
def execCanFrameReceive (p : Fin 2) (hdr : BitVec 31) (info : BitVec 6) (data : List (BitVec 8)) (s : State) :
    Host.Outcome State Fault Refusal :=
  if !s.canOn p.val then .next s
  else
    let hdp := s.hdpId p.val hdr.toNat
    let s := s.bump (R.CAN_CNT_RXOK p.val)
    if hdp then (if hdrFd hdr.toNat then .next s else .next (s.bump R.ODE_CNT_CANSEG))
    else if 32 ≤ (s.can p.val).rx.length then .next (s.bump (R.CAN_CNT_RXOVF p.val))
    else .next (s.setCan p.val (fun c => { c with rx := c.rx ++ [⟨hdr.toNat, info.toNat, data⟩] }))

/-- CAN_BUS_STATE (R474): each change raises EV203 or EV204. -/
def execCanBusState (p : Fin 2) (code : Fin 3) (tec rec : BitVec 8) (s : State) : Host.Outcome State Fault Refusal :=
  let old := s.rf (F.CAN_STAT_STATE p.val)
  let s := (s.wf (F.CAN_STAT_TEC p.val) tec.toNat).wf (F.CAN_STAT_REC p.val) rec.toNat
  if old = code.val then .next s
  else
    let s := s.wf (F.CAN_STAT_STATE p.val) code.val
    let s := if code.val = 2 then s.bump (R.CAN_CNT_BUSOFF p.val) else s
    .next (s.raise (203 + p.val))

/-- Show sixteen data words. -/
def State.canData (s : State) (p : Nat) (l : List Byte) : Nat → State
  | 0 => s
  | k + 1 => (s.canData p l k).setRegN (R.CAN_RXF_DATA p k) (bytesNat ((l.drop (4 * k)).take 4))

/-- A read of CAN_RXF_HDR. -/
def State.canPop (p : Nat) (i : Init) (s : State) : State :=
  match (s.can p).rx with
  | [] => s.answer i 0
  | f :: fs =>
    let s := (s.setCan p (fun c => { c with rx := fs })).setRegN (R.CAN_RXF_INFO p) f.info
    (s.canData p f.bytes 16).answer i (BitVec.ofNat 32 (2 ^ 31 + f.hdr % 2 ^ 31))

/-- CAN_RXF_POP (R474). -/
def execCanRxfPop (i : Init) (p : Fin 2) (s : State) : Host.Outcome State Fault Refusal :=
  .next (s.onRead i (R.CAN_RXF_HDR p.val) (State.canPop p.val i))

/-! ## Segments of HDP (R459) -/

/-- Set the transfer under way on a port. -/
def State.setSeg (s : State) (p : Nat) (x : Option (List Byte × Nat)) : State :=
  s.setOde (fun o => { o with canIn := Sparse.put (fun _ => none) o.canIn p x })

/-- A transfer is discarded and counted. -/
def State.segDrop (s : State) (p : Nat) : State := (s.setSeg p none).bump R.ODE_CNT_CANSEG

/-- A PDU arrives from a transport address. -/
def State.pduIn (s : State) (src : Nat) (l : List Byte) : State :=
  (s.setOde (fun o => { o with rxq := o.rxq ++ [(src, l)] })).odeKeep

/-- A segment joins the transfer; the LAST one completes the PDU. -/
def State.segJoin (s : State) (p : Nat) (sofar : List Byte) (num : Nat) (last : Bool) (l : List Byte) : State :=
  if last then (s.setSeg p none).pduIn (1 + p) (sofar ++ l) else s.setSeg p (some (sofar ++ l, (num + 1) % 64))

/-- CAN_SEGMENT_RECEIVE (R459): a frame on the HDP identifier. -/
def execCanSegmentReceive (p : Fin 2) (fd : Bool) (data : List (BitVec 8)) (s : State) :
    Host.Outcome State Fault Refusal :=
  if !s.canOn p.val || !s.canServes p.val then .next s
  else
    let s := s.bump (R.CAN_CNT_RXOK p.val)
    let b := (data.headD 0).toNat
    let old := Sparse.getO s.ode.canIn p.val
    if !fd || data.isEmpty then .next (s.bump R.ODE_CNT_CANSEG)
    else if 128 ≤ b then
      let s := if old.isSome then s.bump R.ODE_CNT_CANSEG else s
      if b % 64 = 0 then .next (s.segJoin p.val [] 0 (b / 64 % 2 == 1) data.tail) else .next (s.segDrop p.val)
    else
      match old with
      | none => .next (s.bump R.ODE_CNT_CANSEG)
      | some (l, n) =>
        if b % 64 = n then .next (s.segJoin p.val l n (b / 64 % 2 == 1) data.tail) else .next (s.segDrop p.val)

/-- CAN_SEGMENT_TIMEOUT (R459). -/
def execCanSegmentTimeout (p : Fin 2) (s : State) : Host.Outcome State Fault Refusal :=
  if (Sparse.getO s.ode.canIn p.val).isSome then .next (s.segDrop p.val) else .next s

/-- The frames of a PDU on the response identifier: 63 bytes each, FIRST and LAST marked. -/
def canSegs (id num : Nat) : Nat → List Byte → List CanFrame
  | 0, _ => []
  | n + 1, l =>
    let last := decide (l.length ≤ 63)
    let d := BitVec.ofNat 8 ((if num = 0 then 128 else 0) + (if last then 64 else 0) + num % 64) :: l.take 63
    let f : CanFrame := ⟨2 ^ 29 + 0x480 + id, 32 + dlcOf d.length, d⟩
    f :: (if last then [] else canSegs id (num + 1) n (l.drop 63))

/-- A PDU of the device goes out to a transport address (R458 to R460). -/
def State.pduOut (s : State) (src : Nat) (l : List Byte) : State :=
  if src = 0 then s.setOde (fun o => { o with spiOut := o.spiOut ++ [l] })
  else if src ≤ 2 then
    s.setCan (src - 1) (fun c => { c with hdp := c.hdp ++ canSegs (s.rf F.ODE_CANID_ID) 0 (l.length + 1) l })
  else s.setOde (fun o => { o with mbxOut := o.mbxOut ++ [(src - 3, l)] })

end Sys2Proof.Machine
end

