-- ==== Sys2Proof/Machine/Aes.lean ====
section
/-! DEFINITION. AES and its modes, which R370, R378 to R383 and R391 name: FIPS 197, SP 800-38A to 38D, RFC 3394. Bytes are
lists of numbers below 256. -/

namespace Sys2Proof.Machine.Aes

/-- The S-box. -/
def sbox : List Nat :=
  [0x63, 0x7c, 0x77, 0x7b, 0xf2, 0x6b, 0x6f, 0xc5, 0x30, 0x01, 0x67, 0x2b, 0xfe, 0xd7, 0xab, 0x76] ++
  [0xca, 0x82, 0xc9, 0x7d, 0xfa, 0x59, 0x47, 0xf0, 0xad, 0xd4, 0xa2, 0xaf, 0x9c, 0xa4, 0x72, 0xc0] ++
  [0xb7, 0xfd, 0x93, 0x26, 0x36, 0x3f, 0xf7, 0xcc, 0x34, 0xa5, 0xe5, 0xf1, 0x71, 0xd8, 0x31, 0x15] ++
  [0x04, 0xc7, 0x23, 0xc3, 0x18, 0x96, 0x05, 0x9a, 0x07, 0x12, 0x80, 0xe2, 0xeb, 0x27, 0xb2, 0x75] ++
  [0x09, 0x83, 0x2c, 0x1a, 0x1b, 0x6e, 0x5a, 0xa0, 0x52, 0x3b, 0xd6, 0xb3, 0x29, 0xe3, 0x2f, 0x84] ++
  [0x53, 0xd1, 0x00, 0xed, 0x20, 0xfc, 0xb1, 0x5b, 0x6a, 0xcb, 0xbe, 0x39, 0x4a, 0x4c, 0x58, 0xcf] ++
  [0xd0, 0xef, 0xaa, 0xfb, 0x43, 0x4d, 0x33, 0x85, 0x45, 0xf9, 0x02, 0x7f, 0x50, 0x3c, 0x9f, 0xa8] ++
  [0x51, 0xa3, 0x40, 0x8f, 0x92, 0x9d, 0x38, 0xf5, 0xbc, 0xb6, 0xda, 0x21, 0x10, 0xff, 0xf3, 0xd2] ++
  [0xcd, 0x0c, 0x13, 0xec, 0x5f, 0x97, 0x44, 0x17, 0xc4, 0xa7, 0x7e, 0x3d, 0x64, 0x5d, 0x19, 0x73] ++
  [0x60, 0x81, 0x4f, 0xdc, 0x22, 0x2a, 0x90, 0x88, 0x46, 0xee, 0xb8, 0x14, 0xde, 0x5e, 0x0b, 0xdb] ++
  [0xe0, 0x32, 0x3a, 0x0a, 0x49, 0x06, 0x24, 0x5c, 0xc2, 0xd3, 0xac, 0x62, 0x91, 0x95, 0xe4, 0x79] ++
  [0xe7, 0xc8, 0x37, 0x6d, 0x8d, 0xd5, 0x4e, 0xa9, 0x6c, 0x56, 0xf4, 0xea, 0x65, 0x7a, 0xae, 0x08] ++
  [0xba, 0x78, 0x25, 0x2e, 0x1c, 0xa6, 0xb4, 0xc6, 0xe8, 0xdd, 0x74, 0x1f, 0x4b, 0xbd, 0x8b, 0x8a] ++
  [0x70, 0x3e, 0xb5, 0x66, 0x48, 0x03, 0xf6, 0x0e, 0x61, 0x35, 0x57, 0xb9, 0x86, 0xc1, 0x1d, 0x9e] ++
  [0xe1, 0xf8, 0x98, 0x11, 0x69, 0xd9, 0x8e, 0x94, 0x9b, 0x1e, 0x87, 0xe9, 0xce, 0x55, 0x28, 0xdf] ++
  [0x8c, 0xa1, 0x89, 0x0d, 0xbf, 0xe6, 0x42, 0x68, 0x41, 0x99, 0x2d, 0x0f, 0xb0, 0x54, 0xbb, 0x16]

/-- The inverse S-box. -/
def sboxInv : List Nat :=
  [0x52, 0x09, 0x6a, 0xd5, 0x30, 0x36, 0xa5, 0x38, 0xbf, 0x40, 0xa3, 0x9e, 0x81, 0xf3, 0xd7, 0xfb] ++
  [0x7c, 0xe3, 0x39, 0x82, 0x9b, 0x2f, 0xff, 0x87, 0x34, 0x8e, 0x43, 0x44, 0xc4, 0xde, 0xe9, 0xcb] ++
  [0x54, 0x7b, 0x94, 0x32, 0xa6, 0xc2, 0x23, 0x3d, 0xee, 0x4c, 0x95, 0x0b, 0x42, 0xfa, 0xc3, 0x4e] ++
  [0x08, 0x2e, 0xa1, 0x66, 0x28, 0xd9, 0x24, 0xb2, 0x76, 0x5b, 0xa2, 0x49, 0x6d, 0x8b, 0xd1, 0x25] ++
  [0x72, 0xf8, 0xf6, 0x64, 0x86, 0x68, 0x98, 0x16, 0xd4, 0xa4, 0x5c, 0xcc, 0x5d, 0x65, 0xb6, 0x92] ++
  [0x6c, 0x70, 0x48, 0x50, 0xfd, 0xed, 0xb9, 0xda, 0x5e, 0x15, 0x46, 0x57, 0xa7, 0x8d, 0x9d, 0x84] ++
  [0x90, 0xd8, 0xab, 0x00, 0x8c, 0xbc, 0xd3, 0x0a, 0xf7, 0xe4, 0x58, 0x05, 0xb8, 0xb3, 0x45, 0x06] ++
  [0xd0, 0x2c, 0x1e, 0x8f, 0xca, 0x3f, 0x0f, 0x02, 0xc1, 0xaf, 0xbd, 0x03, 0x01, 0x13, 0x8a, 0x6b] ++
  [0x3a, 0x91, 0x11, 0x41, 0x4f, 0x67, 0xdc, 0xea, 0x97, 0xf2, 0xcf, 0xce, 0xf0, 0xb4, 0xe6, 0x73] ++
  [0x96, 0xac, 0x74, 0x22, 0xe7, 0xad, 0x35, 0x85, 0xe2, 0xf9, 0x37, 0xe8, 0x1c, 0x75, 0xdf, 0x6e] ++
  [0x47, 0xf1, 0x1a, 0x71, 0x1d, 0x29, 0xc5, 0x89, 0x6f, 0xb7, 0x62, 0x0e, 0xaa, 0x18, 0xbe, 0x1b] ++
  [0xfc, 0x56, 0x3e, 0x4b, 0xc6, 0xd2, 0x79, 0x20, 0x9a, 0xdb, 0xc0, 0xfe, 0x78, 0xcd, 0x5a, 0xf4] ++
  [0x1f, 0xdd, 0xa8, 0x33, 0x88, 0x07, 0xc7, 0x31, 0xb1, 0x12, 0x10, 0x59, 0x27, 0x80, 0xec, 0x5f] ++
  [0x60, 0x51, 0x7f, 0xa9, 0x19, 0xb5, 0x4a, 0x0d, 0x2d, 0xe5, 0x7a, 0x9f, 0x93, 0xc9, 0x9c, 0xef] ++
  [0xa0, 0xe0, 0x3b, 0x4d, 0xae, 0x2a, 0xf5, 0xb0, 0xc8, 0xeb, 0xbb, 0x3c, 0x83, 0x53, 0x99, 0x61] ++
  [0x17, 0x2b, 0x04, 0x7e, 0xba, 0x77, 0xd6, 0x26, 0xe1, 0x69, 0x14, 0x63, 0x55, 0x21, 0x0c, 0x7d]

/-- Multiply by x in the field of AES. -/
def xtime (a : Nat) : Nat := if a < 128 then 2 * a else (2 * a - 256) ^^^ 0x1B
/-- Multiply in the field of AES, by the low `n` bits of `b`. -/
def mul : Nat → Nat → Nat → Nat
  | 0, _, _ => 0
  | n + 1, a, b => (if b % 2 = 1 then a else 0) ^^^ mul n (xtime a) (b / 2)

/-- Xor of two lists. -/
def xorL (a b : List Nat) : List Nat := List.zipWith (fun x y => x ^^^ y) a b
/-- The S-box on a list. -/
def sub (t : List Nat) (l : List Nat) : List Nat := l.map (fun x => t.getD x 0)

/-- Extend a key schedule (words, newest first) by `n` words; `i` is the number of the next word. -/
def expand (nk : Nat) : Nat → Nat → Nat → List (List Nat) → List (List Nat)
  | 0, _, _, l => l
  | n + 1, i, rc, l =>
    let prev := l.headD []
    let t :=
      if i % nk = 0 then xorL (sub sbox (prev.drop 1 ++ prev.take 1)) [rc, 0, 0, 0]
      else if 6 < nk ∧ i % nk = 4 then sub sbox prev else prev
    expand nk n (i + 1) (if i % nk = 0 then xtime rc else rc) (xorL (l.getD (nk - 1) []) t :: l)

/-- The round keys, 16 bytes each. -/
def roundKeys (key : List Nat) : List (List Nat) :=
  let nk := key.length / 4
  let w := (Sha.pieces 4 nk key).reverse
  let all := (expand nk (4 * (nk + 7) - nk) nk 1 w).reverse.flatten
  Sha.pieces 16 (nk + 7) all

/-- ShiftRows: byte r + 4c comes from column c + r. -/
def shiftRows (s : List Nat) : List Nat := (List.range 16).map (fun i => s.getD ((i + 4 * (i % 4)) % 16) 0)
/-- InvShiftRows. -/
def shiftRowsInv (s : List Nat) : List Nat := (List.range 16).map (fun i => s.getD ((i + 12 * (i % 4)) % 16) 0)
/-- A column times the circulant matrix of `m`. -/
def mixCol (m : List Nat) (c : List Nat) : List Nat :=
  (List.range 4).map (fun r => (List.range 4).foldl (fun a k => a ^^^ mul 4 (c.getD k 0) (m.getD ((k + 4 - r) % 4) 0)) 0)
/-- MixColumns with `m`. -/
def mix (m : List Nat) (s : List Nat) : List Nat := (Sha.pieces 4 4 s).flatMap (mixCol m)

/-- The rounds of the cipher with the keys that remain. -/
def encRounds : List (List Nat) → List Nat → List Nat
  | [], s => s
  | [k], s => xorL (shiftRows (sub sbox s)) k
  | k :: ks, s => encRounds ks (xorL (mix [2, 3, 1, 1] (shiftRows (sub sbox s))) k)

/-- Encrypt one block with round keys. -/
def encBlock (rk : List (List Nat)) (b : List Nat) : List Nat :=
  match rk with
  | [] => b
  | k :: ks => encRounds ks (xorL b k)

/-- The rounds of the inverse cipher, the round keys reversed. -/
def decRounds : List (List Nat) → List Nat → List Nat
  | [], s => s
  | [k], s => xorL (sub sboxInv (shiftRowsInv s)) k
  | k :: ks, s => decRounds ks (mix [14, 11, 13, 9] (xorL (sub sboxInv (shiftRowsInv s)) k))

/-- Decrypt one block with round keys. -/
def decBlock (rk : List (List Nat)) (b : List Nat) : List Nat :=
  match rk.reverse with
  | [] => b
  | k :: ks => decRounds ks (xorL b k)

/-- Blocks of 16 bytes; the last may be short. -/
def blocks (l : List Nat) : List (List Nat) := Sha.pieces 16 ((l.length + 15) / 16) l
/-- A block filled with zeros. -/
def fill (b : List Nat) : List Nat := b ++ List.replicate (16 - b.length) 0

/-- ECB. -/
def ecb (rk : List (List Nat)) (dec : Bool) (d : List Nat) : List Nat :=
  (blocks d).flatMap (if dec then decBlock rk else encBlock rk)

/-- CBC encryption from a chaining value: the output and the next chaining value. -/
def cbcEnc (rk : List (List Nat)) (iv : List Nat) (d : List Nat) : List Nat × List Nat :=
  (blocks d).foldl (fun (o, c) b => let x := encBlock rk (xorL b c); (o ++ x, x)) ([], iv)
/-- CBC decryption. -/
def cbcDec (rk : List (List Nat)) (iv : List Nat) (d : List Nat) : List Nat × List Nat :=
  (blocks d).foldl (fun (o, c) b => (o ++ xorL (decBlock rk b) c, b)) ([], iv)

/-- The next counter block: `w` bytes at the end count as a big-endian number. -/
def inc (w : Nat) (c : List Nat) : List Nat := c.take (16 - w) ++ Sha.toBe w (Sha.be (c.drop (16 - w)) + 1)
/-- CTR from a counter block: the output and the next counter block. -/
def ctr (w : Nat) (rk : List (List Nat)) (c0 : List Nat) (d : List Nat) : List Nat × List Nat :=
  (blocks d).foldl (fun (o, c) b => (o ++ xorL b (encBlock rk c), inc w c)) ([], c0)

/-- Multiply in the field of GHASH: `n` bits of `x` remain, most significant first. -/
def gmul : Nat → Nat → Nat → Nat
  | 0, _, _ => 0
  | n + 1, x, v =>
    (if x / 2 ^ n % 2 = 1 then v else 0) ^^^ gmul n x (if v % 2 = 1 then (v / 2) ^^^ (0xE1 * 2 ^ 120) else v / 2)

/-- GHASH from an accumulator, over data filled to whole blocks. -/
def ghash (h acc : Nat) (d : List Nat) : Nat := (blocks d).foldl (fun a b => gmul 128 (a ^^^ Sha.be (fill b)) h) acc
/-- The subkey of GHASH. -/
def subkey (rk : List (List Nat)) : Nat := Sha.be (encBlock rk (List.replicate 16 0))
/-- The first counter block for a 12-byte IV. -/
def j0 (iv : List Nat) : List Nat := iv.take 12 ++ [0, 0, 0, 1]
/-- The tag of GCM from the accumulator over the padded AAD and ciphertext. -/
def gcmTag (rk : List (List Nat)) (iv : List Nat) (acc aadLen dLen : Nat) : List Nat :=
  let s := gmul 128 (acc ^^^ (aadLen * 8 * 2 ^ 64 + dLen * 8)) (subkey rk)
  xorL (Sha.toBe 16 s) (encBlock rk (j0 iv))
/-- GCM encryption: ciphertext and tag. -/
def gcmEnc (key iv aad d : List Nat) : List Nat × List Nat :=
  let rk := roundKeys key
  let c := (ctr 4 rk (inc 4 (j0 iv)) d).1
  let h := subkey rk
  (c, gcmTag rk iv (ghash h (ghash h 0 aad) c) aad.length d.length)
/-- GCM decryption: plaintext and the tag over the ciphertext. -/
def gcmDec (key iv aad c : List Nat) : List Nat × List Nat :=
  let rk := roundKeys key
  let h := subkey rk
  ((ctr 4 rk (inc 4 (j0 iv)) c).1, gcmTag rk iv (ghash h (ghash h 0 aad) c) aad.length c.length)

/-- CBC-MAC from a value. -/
def cbcMac (rk : List (List Nat)) (x : List Nat) (d : List Nat) : List Nat :=
  (blocks d).foldl (fun a b => encBlock rk (xorL a (fill b))) x
/-- The tag of CCM before it is cut, and the keystream's start. -/
def ccmTag (rk : List (List Nat)) (n aad p : List Nat) (t : Nat) : List Nat :=
  let q := 15 - n.length
  let flags := (if aad.isEmpty then 0 else 64) + (t - 2) / 2 * 8 + (q - 1)
  let b0 := [flags] ++ n ++ Sha.toBe q p.length
  let a := if aad.isEmpty then [] else Sha.toBe 2 aad.length ++ aad
  let m := cbcMac rk (cbcMac rk (encBlock rk b0) a) p
  xorL m (encBlock rk ([q - 1] ++ n ++ List.replicate q 0))
/-- The keystream of CCM over data. -/
def ccmCtr (rk : List (List Nat)) (n d : List Nat) : List Nat :=
  let q := 15 - n.length
  (ctr q rk ([q - 1] ++ n ++ Sha.toBe q 1) d).1
/-- CCM encryption: ciphertext and tag of `t` bytes. With `t` 0 there is no tag (CCM*). -/
def ccmEnc (key n aad p : List Nat) (t : Nat) : List Nat × List Nat :=
  let rk := roundKeys key
  (ccmCtr rk n p, (ccmTag rk n aad p t).take t)
/-- CCM decryption: plaintext and the tag over it. -/
def ccmDec (key n aad c : List Nat) (t : Nat) : List Nat × List Nat :=
  let rk := roundKeys key
  let p := ccmCtr rk n c
  (p, (ccmTag rk n aad p t).take t)

/-- Double in the field of CMAC. -/
def dbl (l : List Nat) : List Nat :=
  let v := Sha.be l * 2
  Sha.toBe 16 (if v < 2 ^ 128 then v else (v - 2 ^ 128) ^^^ 0x87)
/-- The last step of CMAC, from the value over the blocks before it. -/
def cmacLast (rk : List (List Nat)) (x last : List Nat) : List Nat :=
  let k1 := dbl (encBlock rk (List.replicate 16 0))
  let m := if last.length = 16 then xorL last k1 else xorL (fill (last ++ [0x80])) (dbl k1)
  encBlock rk (xorL x m)
/-- CMAC continued from a value: all blocks but the last, then the last. -/
def cmacFrom (rk : List (List Nat)) (x d : List Nat) : List Nat :=
  let n := if d.isEmpty then 0 else (d.length - 1) / 16 * 16
  cmacLast rk (cbcMac rk x (d.take n)) (d.drop n)
/-- CMAC. -/
def cmac (key d : List Nat) : List Nat := cmacFrom (roundKeys key) (List.replicate 16 0) d

/-- One pass of RFC 3394 over the registers, `t` the step count so far. -/
def wrapPass (rk : List (List Nat)) (a : List Nat) (t : Nat) : List (List Nat) → List Nat × List (List Nat)
  | [] => (a, [])
  | r :: rs =>
    let b := encBlock rk (a ++ r)
    let p := wrapPass rk (xorL (b.take 8) (Sha.toBe 8 (t + 1))) (t + 1) rs
    (p.1, b.drop 8 :: p.2)
/-- The six passes. -/
def wrapLoop (rk : List (List Nat)) : Nat → List Nat → Nat → List (List Nat) → List Nat × List (List Nat)
  | 0, a, _, r => (a, r)
  | n + 1, a, t, r => let p := wrapPass rk a t r; wrapLoop rk n p.1 (t + r.length) p.2
/-- AES key wrap. -/
def keyWrap (kek p : List Nat) : List Nat :=
  let r := wrapLoop (roundKeys kek) 6 (List.replicate 8 0xA6) 0 (Sha.pieces 8 (p.length / 8) p)
  r.1 ++ r.2.flatten
/-- One pass of unwrapping, from the last register; the registers are reversed. -/
def unwrapPass (rk : List (List Nat)) (a : List Nat) (t : Nat) : List (List Nat) → List Nat × List (List Nat)
  | [] => (a, [])
  | r :: rs =>
    let b := decBlock rk (xorL a (Sha.toBe 8 t) ++ r)
    let p := unwrapPass rk (b.take 8) (t - 1) rs
    (p.1, b.drop 8 :: p.2)
/-- The six passes of unwrapping. -/
def unwrapLoop (rk : List (List Nat)) : Nat → List Nat → Nat → List (List Nat) → List Nat × List (List Nat)
  | 0, a, _, r => (a, r)
  | n + 1, a, t, r => let p := unwrapPass rk a t r; unwrapLoop rk n p.1 (t - r.length) p.2
/-- AES key unwrap; none when the integrity check fails. -/
def keyUnwrap (kek c : List Nat) : Option (List Nat) :=
  let r := (Sha.pieces 8 (c.length / 8 - 1) (c.drop 8)).reverse
  let u := unwrapLoop (roundKeys kek) 6 (c.take 8) (6 * r.length) r
  if u.1 = List.replicate 8 0xA6 then some u.2.reverse.flatten else none

end Sys2Proof.Machine.Aes
end

