-- ==== Sys2Proof/Machine/Crc.lean ====
section
/-! DEFINITION. The check values of R355 to R358: CRCs of 8 to 32 bits, bit by bit, and the Internet checksum. -/

namespace Sys2Proof.Machine

/-- The low `n` bits of a number in reverse order. -/
def reflect (n v : Nat) : Nat :=
  match n with
  | 0 => 0
  | k + 1 => (v % 2) * 2 ^ k + reflect k (v / 2)

/-- One bit of a CRC in normal form: shift out the top bit of `width`, and xor the polynomial when it was one. -/
def crcBit (width poly v : Nat) : Nat :=
  let t := v * 2 % 2 ^ width
  if v / 2 ^ (width - 1) % 2 = 1 then t ^^^ (poly % 2 ^ width) else t

/-- `n` bits of a CRC. -/
def crcBits (width poly : Nat) : Nat → Nat → Nat
  | 0, v => v
  | n + 1, v => crcBits width poly n (crcBit width poly v)

/-- One byte of a CRC (R356): reflected first where REFIN says so, then into the top of the register. -/
def crcByte (width poly : Nat) (refin : Bool) (v : Nat) (b : Byte) : Nat :=
  let x := if refin then reflect 8 b.toNat else b.toNat
  crcBits width poly 8 (v ^^^ (x * 2 ^ (width - 8)))

/-- A list of bytes. -/
def crcFeed (width poly : Nat) (refin : Bool) (v : Nat) (l : List Byte) : Nat := l.foldl (crcByte width poly refin) v

/-- The finished value: reflected where REFOUT says so, then the final xor. -/
def crcFinal (width xorout : Nat) (refout : Bool) (v : Nat) : Nat :=
  (if refout then reflect width v else v) ^^^ (xorout % 2 ^ width)

/-- CRC-32C, preset 0 (R355). -/
def crc32c (l : List Byte) : Nat := crcFinal 32 0xFFFFFFFF true (crcFeed 32 0x1EDC6F41 true 0xFFFFFFFF l)
/-- CRC-32, preset 1 (R355). -/
def crc32 (l : List Byte) : Nat := crcFinal 32 0xFFFFFFFF true (crcFeed 32 0x04C11DB7 true 0xFFFFFFFF l)
/-- CRC-16/IBM-3740, preset 3 (R355). -/
def crc16ibm (l : List Byte) : Nat := crcFinal 16 0 false (crcFeed 16 0x1021 false 0xFFFF l)
/-- CRC-16/KERMIT, preset 2 (R355). -/
def crc16k (l : List Byte) : Nat := crcFinal 16 0 true (crcFeed 16 0x1021 true 0 l)

/-- Ones' complement addition of 16-bit words. -/
def ocAdd (a b : Nat) : Nat := let t := a + b; if t ≥ 0x10000 then t - 0xFFFF else t

/-- The ones' complement sum of byte pairs, the first byte high; a final odd byte is padded with zero (R355). -/
def ocSum : Nat → List Byte → Nat
  | v, [] => v
  | v, [b] => ocAdd v (b.toNat * 256)
  | v, a :: b :: t => ocSum (ocAdd v (a.toNat * 256 + b.toNat)) t

/-- The Internet checksum, preset 5 (R355). -/
def inetSum (l : List Byte) : Nat := 0xFFFF - ocSum 0 l

end Sys2Proof.Machine
end

