-- ==== Sys2Proof/Machine/CrySlot.lean ====
section
/-! DEFINITION. The cipher engine's key slots and key commands (R382 to R386), its results, and random bytes. -/

namespace Sys2Proof.Machine

/-- Bytes as numbers. -/
def nats (l : List Byte) : List Nat := l.map (fun b => b.toNat)
/-- Numbers as bytes. -/
def toBytes (l : List Nat) : List Byte := l.map (fun n => BitVec.ofNat 8 n)

/-- Change the cipher engine's state. -/
def State.setCry (s : State) (f : CrySt → CrySt) : State := { s with cry := f s.cry }
/-- Change the public-key engine's state. -/
def State.setPke (s : State) (f : PkeSt → PkeSt) : State := { s with pke := f s.pke }

/-! Slot states (R382). -/
namespace Slot
def EMPTY : Nat := 0
def LOADED : Nat := 1
def ERASING : Nat := 2
end Slot

/-! USAGE bits (R382, R410). -/
namespace Usage
def ENC : Nat := 0x80
def DEC : Nat := 0x40
def MAC : Nat := 0x20
def WRAP : Nat := 0x10
def SIGN : Nat := 0x08
def ECDH : Nat := 0x04
def DERIVE : Nat := 0x02
def EXPORT : Nat := 0x01
end Usage

/-- A slot at reset: EMPTY with GEN 0 (R382). -/
def KeySlot.empty : KeySlot := ⟨Slot.EMPTY, 0, 0, 0, 0, 0, [], 0⟩

/-- The content of a slot. -/
def State.slot (s : State) (n : Nat) : KeySlot := Sparse.get (fun _ => KeySlot.empty) s.cry.slots n
/-- Replace the content of a slot. -/
def State.setSlot (s : State) (n : Nat) (k : KeySlot) : State :=
  s.setCry (fun c => { c with slots := Sparse.put (fun _ => KeySlot.empty) c.slots n k })

/-- The state a slot shows: during an alarm erase every slot is unusable (R395). -/
def State.slotState (s : State) (n : Nat) : Nat := if s.cry.almErase then Slot.ERASING else (s.slot n).st
/-- GEN and ERASEGEN of a slot (R382, R395). -/
def State.slotGen (s : State) (n : Nat) : Word := s.cry.genBase + (s.slot n).gen
def State.slotEraseGen (s : State) (n : Nat) : Word := s.cry.genBase + (s.slot n).eraseGen

/-- The USAGE bits that suit a TYPE (R382). DEDUCED from the names of the bits. -/
def suits (typ usage : Nat) : Bool :=
  let ok := if typ ≤ 1 then 0xE1 else if typ = 2 then 0x23 else if typ = 3 then 0x0D else 0x11
  usage &&& ok == usage

/-- Bytes of a key of a TYPE: of an HMAC key as given (R382). -/
def keyLen (typ klen : Nat) : Nat := if typ = 0 then 16 else if typ = 2 then klen else if typ = 3 then 48 else 32

/-- KCV (R382). -/
def kcvOf (typ : Nat) (key : List Byte) : Nat :=
  if typ = 2 ∨ typ = 3 then 0
  else bytesNat (toBytes ((Aes.encBlock (Aes.roundKeys (nats key)) (List.replicate 16 0)).take 3))

/-- Count an outcome other than OK in its counter (R384, R410). -/
def State.cryCount (s : State) (status : Nat) : State :=
  if status = St.AUTH then s.bump R.CRY_CNT_AUTH
  else if status = St.NOKEY then s.bump R.CRY_CNT_NOKEY
  else if status = St.ABORTED then s.bump R.CRY_CNT_ABORT
  else if status = St.STATE ∨ status = St.BUSY then s.bump R.CRY_CNT_STATE
  else s

/-- Post a result in CRY_KRES; a result that finds 16 waiting is dropped (R410). -/
def State.postKey (s : State) (tag opc status : Nat) : State :=
  if s.cry.kres.length < 16 then s.setCry (fun c => { c with kres := c.kres ++ [⟨tag, opc, status⟩] })
  else s.bump R.CRY_CNT_RESOVF

/-- A command of the common window completes: every outcome other than OK is counted, recorded and raises EV164 (R384). -/
def State.keyDone (s : State) (tag opc status : Nat) : State :=
  let s := if status = St.OK then s else ((s.cryCount status).errSet R.CRY_ERR status).raise 164
  s.postKey tag opc status

/-- Random bytes from the CTR_DRBG: a free value. The 2²⁰-th generate request since a reseed makes one (R398). -/
def State.draw (s : State) (n : Nat) : State × List Byte :=
  let d := natBytes n s.free
  let s := s.used
  if s.pke.gens + 1 < 2 ^ 20 then (s.setPke (fun p => { p with gens := p.gens + 1 }), d)
  else ((s.setPke (fun p => { p with gens := 0 })).bump R.PKE_CNT_RESEED, d)

/-- Load a key into a slot: a rewrite of a loaded slot, or a first load; GEN is incremented (R382, R385). -/
def State.loadSlot (s : State) (n typ usage : Nat) (mask : Word) (key : List Byte) : State :=
  let k := s.slot n
  s.setSlot n { k with st := Slot.LOADED, typ := typ, usage := usage, mask := mask, gen := k.gen + 1, key := key }

/-- The blob address in CRY_KADDR. -/
def State.kaddr (s : State) : Nat := s.reg64 R.CRY_KADDR_LO R.CRY_KADDR_HI

/-- A key-encryption key that may wrap: LOADED, TYPE 4, USAGE WRAP (R382, R383). -/
def State.kek (s : State) (n : Nat) : Option (List Byte) :=
  let k := s.slot n
  if s.slotState n = Slot.LOADED ∧ k.typ = 4 ∧ k.usage &&& Usage.WRAP ≠ 0 then some k.key else none

/-- The checks every key command meets first: readiness (R36), slot 1023 (R382), an alarm (R384), the state (R384). -/
def State.keyGate (s : State) (opc slot : Nat) : Option Nat :=
  let st := s.slotState slot
  if !s.ready Fn.CRY then some St.NOTREADY
  else if slot = 1023 then some St.RIGHTS
  else if opc ≤ 3 ∧ (s.rb F.CRY_STAT_ALARM ∨ s.rb F.CRY_STAT_DBGERASE) then some St.STATE
  else if opc ≤ 3 ∧ st = Slot.ERASING then some St.BUSY
  else if (opc = 4 ∨ opc = 6) ∧ st = Slot.EMPTY then some St.NOKEY
  else if (opc = 4 ∨ opc = 6) ∧ st = Slot.ERASING then some St.BUSY
  else none

/-- TYPE, USAGE and KLEN of CRY_KARG0 are in range (R382, R410). -/
def State.keyArgsOk (s : State) : Bool :=
  let t := s.rf F.CRY_KARG0_TYPE
  decide (t ≤ 4) && suits t (s.rf F.CRY_KARG0_USAGE) &&
    (t != 2 || decide (2 ≤ s.rf F.CRY_KARG0_KLEN8 ∧ s.rf F.CRY_KARG0_KLEN8 ≤ 8))

/-- The key bytes in CRY_KDATA. -/
def State.kdata (s : State) : Nat → List Byte
  | 0 => []
  | n + 1 => s.kdata n ++ wordBytes [s.reg (R.CRY_KDATA n)]

/-- CRY_KDATA is cleared after every LOAD (R410). -/
def State.clearKdata (s : State) : Nat → State
  | 0 => s
  | n + 1 => (s.clearKdata n).setReg (R.CRY_KDATA n) 0

/-- LOAD (R383). -/
def State.keyLoad (s : State) (slot : Nat) : State × Nat :=
  if !s.keyArgsOk then (s.clearKdata 16, St.RANGE)
  else
    let t := s.rf F.CRY_KARG0_TYPE
    let key := (s.kdata 16).take (keyLen t (8 * s.rf F.CRY_KARG0_KLEN8))
    ((s.loadSlot slot t (s.rf F.CRY_KARG0_USAGE) (s.reg R.CRY_KARG1) key).clearKdata 16, St.OK)

/-- GEN (R383): TYPE 3 is refused; the CTR_DRBG must be running. -/
def State.keyGen (s : State) (slot : Nat) : State × Nat :=
  let t := s.rf F.CRY_KARG0_TYPE
  if !s.keyArgsOk || t == 3 then (s, St.RANGE)
  else if !s.rb F.PKE_STAT_DRBGOK then (s, St.NOTREADY)
  else
    let r := s.draw (keyLen t (8 * s.rf F.CRY_KARG0_KLEN8))
    (r.1.loadSlot slot t (s.rf F.CRY_KARG0_USAGE) (s.reg R.CRY_KARG1) r.2, St.OK)

/-- UNWRAP (R383). -/
def State.keyUnwrapCmd (s : State) (slot : Nat) : State × Nat :=
  match s.kek (s.rf F.CRY_KARG0_KEK) with
  | none => (s, St.NOKEY)
  | some kek =>
    let klen := keyLen (s.rf F.CRY_KARG0_TYPE) (8 * s.rf F.CRY_KARG0_KLEN8)
    let bad := s.eccBad s.kaddr (16 + klen)
    if !s.readable s.kaddr (16 + klen) then (s, St.HW)
    else
      let s := s.eccRead Ini.CRY s.kaddr (16 + klen)
      if bad then (s, St.CHECK) else
      match Aes.keyUnwrap (nats kek) (nats (s.bytes s.kaddr (16 + klen))) with
      | none => (s, St.AUTH)
      | some p =>
        let a := Config.attrRead (p.take 8)
        let usage := a.2.1 &&& s.rf F.CRY_KARG0_USAGE
        if 4 < a.1 ∨ !suits a.1 usage ∨ keyLen a.1 a.2.2 ≠ klen then (s, St.RANGE)
        else (s.loadSlot slot a.1 usage (s.reg R.CRY_KARG1) (toBytes (p.drop 8)), St.OK)

/-- EXPORT (R383). -/
def State.keyExport (s : State) (slot : Nat) : State × Nat :=
  let k := s.slot slot
  match s.kek (s.rf F.CRY_KARG0_KEK) with
  | none => (s, St.NOKEY)
  | some kek =>
    if k.usage &&& Usage.EXPORT = 0 then (s, St.NOKEY)
    else if !s.writable Ini.CRY s.kaddr (16 + k.key.length) then (s, St.HW)
    else
      let blob := Aes.keyWrap (nats kek) (((Config.attrBlock k.typ k.usage k.key.length).take 8 ++
        List.replicate (8 - (Config.attrBlock k.typ k.usage k.key.length).length) 0) ++ nats k.key)
      (s.store Ini.CRY s.kaddr (toBytes blob), St.OK)

/-- ATTR: only clears bits of USAGE and PAGEMASK (R383). -/
def State.keyAttr (s : State) (slot : Nat) : State × Nat :=
  let k := s.slot slot
  (s.setSlot slot { k with usage := k.usage &&& s.rf F.CRY_KARG0_USAGE, mask := k.mask &&& s.reg R.CRY_KARG1 }, St.OK)

/-- INFO latches the attributes (R382, R383). -/
def State.keyInfo (s : State) (slot : Nat) : State × Nat :=
  let k := s.slot slot
  let st := s.slotState slot
  let t := if st = Slot.EMPTY then { k with typ := 0, usage := 0, mask := 0, key := [] } else k
  let s := s.setRegN R.CRY_KINFO0 (st * 2 ^ 30 + t.typ * 2 ^ 24 + t.usage * 2 ^ 16 + t.key.length / 8 * 2 ^ 10)
  let s := (s.setReg R.CRY_KINFO1 t.mask).setReg R.CRY_KGEN (s.slotGen slot)
  let s := s.setReg R.CRY_KERASEGEN (s.slotEraseGen slot)
  (s.setRegN R.CRY_KKCV (if st = Slot.EMPTY then 0 else kcvOf t.typ t.key), St.OK)

/-- ERASE: on a LOADED slot the erase begins and its result waits; else it completes with no action (R384, R386). -/
def State.keyErase (s : State) (tag slot : Nat) : State :=
  if s.slotState slot = Slot.LOADED then s.setSlot slot { s.slot slot with st := Slot.ERASING, tag := tag }
  else s.keyDone tag 5 St.OK

/-- A key command with a command's effect and status. -/
def State.keyRun (s : State) (tag opc slot : Nat) (f : State → Nat → State × Nat) : State :=
  match s.keyGate opc slot with
  | some st => s.keyDone tag opc st
  | none => let r := f s slot; r.1.keyDone tag opc r.2

/-- A key command (R383, R384); an unknown OPC is refused with TYPE. -/
def State.keyCmd (s : State) (opc tag slot : Nat) : State :=
  if opc = 1 then s.keyRun tag opc slot State.keyLoad
  else if opc = 2 then s.keyRun tag opc slot State.keyUnwrapCmd
  else if opc = 3 then s.keyRun tag opc slot State.keyGen
  else if opc = 4 then s.keyRun tag opc slot State.keyExport
  else if opc = 5 then
    match s.keyGate opc slot with
    | some st => s.keyDone tag opc st
    | none => s.keyErase tag slot
  else if opc = 6 then s.keyRun tag opc slot State.keyAttr
  else if opc = 7 then s.keyRun tag opc slot State.keyInfo
  else s.keyDone tag opc St.TYPE

/-- CRY_LOAD (R383). -/
def execCryLoad (i : Init) (tag : BitVec 8) (slot : Fin 1024) (s : State) : Host.Outcome State Fault Refusal :=
  .next (s.onWrite i R.CRY_KCMD (fun s => s.keyCmd 1 tag.toNat slot.val))
/-- CRY_UNWRAP (R383). -/
def execCryUnwrap (i : Init) (tag : BitVec 8) (slot : Fin 1024) (s : State) : Host.Outcome State Fault Refusal :=
  .next (s.onWrite i R.CRY_KCMD (fun s => s.keyCmd 2 tag.toNat slot.val))
/-- CRY_GEN (R383). -/
def execCryGen (i : Init) (tag : BitVec 8) (slot : Fin 1024) (s : State) : Host.Outcome State Fault Refusal :=
  .next (s.onWrite i R.CRY_KCMD (fun s => s.keyCmd 3 tag.toNat slot.val))
/-- CRY_EXPORT (R383). -/
def execCryExport (i : Init) (tag : BitVec 8) (slot : Fin 1024) (s : State) : Host.Outcome State Fault Refusal :=
  .next (s.onWrite i R.CRY_KCMD (fun s => s.keyCmd 4 tag.toNat slot.val))
/-- CRY_ERASE (R386). -/
def execCryErase (i : Init) (tag : BitVec 8) (slot : Fin 1024) (s : State) : Host.Outcome State Fault Refusal :=
  .next (s.onWrite i R.CRY_KCMD (fun s => s.keyCmd 5 tag.toNat slot.val))
/-- CRY_ATTR (R383). -/
def execCryAttr (i : Init) (tag : BitVec 8) (slot : Fin 1024) (s : State) : Host.Outcome State Fault Refusal :=
  .next (s.onWrite i R.CRY_KCMD (fun s => s.keyCmd 6 tag.toNat slot.val))
/-- CRY_INFO (R383). -/
def execCryInfo (i : Init) (tag : BitVec 8) (slot : Fin 1024) (s : State) : Host.Outcome State Fault Refusal :=
  .next (s.onWrite i R.CRY_KCMD (fun s => s.keyCmd 7 tag.toNat slot.val))

/-- The word a result FIFO shows (R410, R411). -/
def KRes.word (r : KRes) : Word := BitVec.ofNat 32 (2 ^ 31 + r.tag % 256 * 2 ^ 16 + r.opc % 256 * 2 ^ 8 + r.status % 256)

/-- Pop CRY_KRES. -/
def State.keyPop (i : Init) (s : State) : State :=
  match s.cry.kres with
  | [] => s.answer i 0
  | r :: rs => (s.setCry (fun c => { c with kres := rs })).answer i r.word

/-- CRY_KEY_RESULT_POP (R410). -/
def execCryKeyResultPop (i : Init) (s : State) : Host.Outcome State Fault Refusal :=
  .next (s.onRead i R.CRY_KRES (State.keyPop i))

end Sys2Proof.Machine
end

