-- ==== Sys2Proof/Machine/CryPage.lean ====
section
/-! DEFINITION. The cipher engine's operations: descriptors (R376, R377), modes and lengths (R378 to R381), the cores (R375),
the key snapshot (R385), and the end of an operation (R380, R387). -/

namespace Sys2Proof.Machine

/-! Page states (R390). -/
namespace Pg
def OFF : Nat := 0
def RUN : Nat := 1
def HALT : Nat := 2
end Pg

/-- A page at reset. -/
def CryPage.empty : CryPage := ⟨false, false, []⟩
/-- A FREE context. -/
def CryCtx.free : CryCtx := ⟨0, 0, false, 0, 0, [], 0, 0, [], []⟩

/-- What a page holds beside its registers. -/
def State.page (s : State) (n : Nat) : CryPage := Sparse.get (fun _ => CryPage.empty) s.cry.pages n
/-- Change it. -/
def State.setPage (s : State) (n : Nat) (f : CryPage → CryPage) : State :=
  s.setCry (fun c => { c with pages := Sparse.put (fun _ => CryPage.empty) c.pages n (f (s.page n)) })
/-- A context of a page. -/
def State.ctx (s : State) (n c : Nat) : CryCtx := Sparse.get (fun _ => CryCtx.free) s.cry.ctx (4 * n + c)
/-- Replace it. -/
def State.setCtx (s : State) (n c : Nat) (x : CryCtx) : State :=
  s.setCry (fun y => { y with ctx := Sparse.put (fun _ => CryCtx.free) y.ctx (4 * n + c) x })

/-- CRY_STAT.IDLE and the number of busy cores follow the operations in flight (R410). -/
def State.crySync (s : State) : State :=
  (s.wb F.CRY_STAT_IDLE s.cry.ops.isEmpty).wf F.CRY_STAT_CORES (s.cry.ops.filter (fun o => o.core.isSome)).length

/-- A range lies wholly in one of a page's windows (R374). -/
def State.pgInWindow (s : State) (n a len : Nat) : Bool :=
  let b0 := 4096 * s.rf (F.CRY_PGMW_BASE0_BASE n)
  let b1 := 4096 * s.rf (F.CRY_PGMW_BASE1_BASE n)
  decide (b0 ≤ a ∧ a + len ≤ b0 + 4096 * s.rf (F.CRY_PGMW_SIZE0_SIZE n)) ||
    decide (b1 ≤ a ∧ a + len ≤ b1 + 4096 * s.rf (F.CRY_PGMW_SIZE1_SIZE n))

/-- The base and the number of descriptors of a page's ring (R376). -/
def State.pgRing (s : State) (n : Nat) : Nat × Nat :=
  (s.regN (R.PG_RING_LO n) + s.rf (F.PG_RING_HI_BASE n) * 2 ^ 32, 2 ^ s.rf (F.PG_RING_HI_SIZE n))

/-! ## Descriptors -/

/-- Bytes a mode puts out for LEN bytes of a piece (R379); CMAC and GMAC put out none. -/
def CryOp.outLen (o : CryOp) : Nat :=
  if 5 ≤ o.mode then 0
  else if o.mode ≤ 1 ∧ !o.dir ∧ o.pad ≠ 0 ∧ (o.chain = 0 ∨ o.chain = 3) then (o.len / 16 + 1) * 16
  else o.len

/-- An operation from the sixteen words of a descriptor (R376). -/
def descOp (n : Nat) (w : List Word) : CryOp :=
  let g (k hi lo : Nat) : Nat := bits (w.getD k 0) hi lo
  let addr (k : Nat) : Nat := g k 31 0 + g (k + 1) 3 0 * 2 ^ 32
  { page := n, fw := true, int := g 0 30 30 == 1, mode := g 0 29 26, dir := g 0 25 25 == 1, chain := g 0 24 23,
    ctx := g 0 22 21, pad := g 0 20 19, tagLen := g 0 18 14, slot := g 0 9 0,
    iv := (wordBytes [w.getD 8 0, w.getD 9 0, w.getD 10 0, w.getD 11 0]).take
      (if g 0 29 26 ≤ 2 then 16 else g 0 13 10),
    aadLen := g 1 31 16, len := g 1 15 0, src := addr 2, dst := addr 4, aadAt := addr 6, tagAt := addr 12,
    aad := [], data := [], tag := [], esp := none, saLive := false, core := none, started := false, key := [], gen := 0,
    final := none }

/-- TAGLEN suits the mode (R378). -/
def tagLenOk (mode t : Nat) : Bool :=
  if mode = 3 ∨ mode = 6 then t == 8 || decide (12 ≤ t ∧ t ≤ 16)
  else if mode = 4 then t == 0 || (t % 2 == 0 && decide (4 ≤ t ∧ t ≤ 16))
  else if mode = 5 then decide (1 ≤ t ∧ t ≤ 16)
  else true

/-- NLEN suits the mode (R376). -/
def nLenOk (mode n : Nat) : Bool :=
  if mode = 3 ∨ mode = 6 then n == 12 else if mode = 4 then decide (7 ≤ n ∧ n ≤ 13) else n == 0

/-- Lengths and chaining suit the mode (R379, R381). -/
def CryOp.lenOk (o : CryOp) : Bool :=
  let m16 := o.len % 16 == 0
  decide (o.aadLen ≤ 1024) && (o.aadLen == 0 || o.chain ≤ 1) && (o.mode != 4 || o.chain == 0) &&
    (!(o.mode == 3 && o.dir) || o.chain == 0) && (!(o.chain == 1 || o.chain == 2) || m16) &&
    (!(o.mode ≤ 1 && (o.pad == 0 || o.dir)) || m16)

/-- The status a descriptor is refused with, if any (R374, R376, R378, R379, R381). -/
def State.descCheck (s : State) (o : CryOp) (w : List Word) : Option Nat :=
  let rsv (k : Nat) : Bool := bits (w.getD k 0) 31 4 != 0
  let n := o.page
  if 6 < o.mode then some St.TYPE
  else if o.pad = 3 ∨ rsv 3 ∨ rsv 5 ∨ rsv 7 ∨ rsv 13 then some St.RANGE
  else if !tagLenOk o.mode o.tagLen ∨ !nLenOk o.mode (bits (w.getD 0 0) 13 10) ∨ !o.lenOk then some St.RANGE
  else if (o.len ≠ 0 ∧ !s.pgInWindow n o.src o.len) ∨ (o.outLen ≠ 0 ∧ !s.pgInWindow n o.dst o.outLen) ∨
      (o.aadLen ≠ 0 ∧ !s.pgInWindow n o.aadAt o.aadLen) ∨
      (3 ≤ o.mode ∧ o.tagLen ≠ 0 ∧ !s.pgInWindow n o.tagAt o.tagLen) then some St.RANGE
  else if o.outLen ≠ 0 ∧ o.len ≠ 0 ∧ o.src ≠ o.dst ∧ o.src < o.dst + o.outLen ∧ o.dst < o.src + o.len then some St.RANGE
  else none

/-! ## Hand-back (R376, R377) -/

/-- A status that halts the page (R377). -/
def halts (status : Nat) : Bool := status == St.TYPE || status == St.RANGE || status == St.HW

/-- Put a page in HALT with a status (R377). -/
def State.pageHalt (s : State) (n status : Nat) : State :=
  ((s.wf (F.PG_STAT_STATE n) Pg.HALT).wf (F.PG_STAT_ERRC n) 1).wf (F.PG_STAT_LSTATUS n) status

/-- Hand a descriptor back: word 14, word 15, then word 0 with OWN 0; HEAD advances (R337, R376). -/
def State.pgHandBack (s : State) (o : CryOp) (status bytes : Nat) : State :=
  let n := o.page
  let ring := s.pgRing n
  let head := s.rf (F.PG_HEAD_HEAD n)
  let a := ring.1 + 64 * head
  let s := s.write32 (a + 56) (BitVec.ofNat 32 (bytes * 256 + status))
  let s := s.write32 (a + 60) o.gen
  let s := s.wmf a 31 31 0
  let s := (s.wf (F.PG_HEAD_HEAD n) ((head + 1) % ring.2)).wf (F.PG_STAT_LSTATUS n) status
  let s := if o.int then s.wf (F.PG_STAT_DONE n) 1 else s
  let s := if halts status then s.pageHalt n status else s
  if o.int || halts status then s.raise 165 else s

/-- The first descriptor in flight of a page. -/
def State.pgFirst (s : State) (n : Nat) : Option CryOp := s.cry.ops.find? (fun o => o.fw && o.page == n)

/-- Take the first descriptor in flight of a page out of the list. -/
def dropFirst (n : Nat) : List CryOp → List CryOp
  | [] => []
  | o :: os => if o.fw && o.page == n then os else o :: dropFirst n os

/-- Hand back, in ring order, every descriptor whose turn has come (R376); a STOP ends when none is left (R390). -/
def State.pgFlush (s : State) (n : Nat) : Nat → State
  | 0 => s
  | fuel + 1 =>
    match s.pgFirst n with
    | none =>
      if (s.page n).stopping then
        (s.wf (F.PG_STAT_STATE n) Pg.OFF).setPage n (fun p => { p with stopping := false })
      else s
    | some o =>
      match o.final with
      | none => s
      | some r => ((s.pgHandBack o r.1 r.2).setCry (fun c => { c with ops := dropFirst n c.ops })).pgFlush n fuel

/-- Flush a page and bring CRY_STAT up to date. -/
def State.pgSettle (s : State) (n : Nat) : State := (s.pgFlush n (s.cry.ops.length + 1)).crySync

/-- Count the end of an operation (R410). -/
def State.opCount (s : State) (o : CryOp) (status : Nat) : State :=
  let s := if status = St.OK then s.bump R.CRY_CNT_OPS else s.cryCount status
  if !o.fw then s
  else if status = St.AUTH then s.wf (F.PG_CNT_AUTH o.page) (min (s.rf (F.PG_CNT_AUTH o.page) + 1) 0xFFFF)
  else if status = St.ABORTED then s.wf (F.PG_CNT_ABORTED o.page) (min (s.rf (F.PG_CNT_ABORTED o.page) + 1) 0xFFFF)
  else s

/-- Operation number `k` ends: a descriptor waits for its turn; an inline block, or the PPE, gets the result. -/
def State.opEnd (s : State) (k status : Nat) (out tag : List Byte) : State :=
  match s.cry.ops[k]? with
  | none => s
  | some o =>
    let s := s.opCount o status
    if o.fw then
      (s.setCry (fun c => { c with ops := c.ops.set k { o with core := none, final := some (status, out.length) } })).pgSettle o.page
    else
      let s := (s.setCry (fun c => { c with ops := c.ops.eraseIdx k })).crySync
      match o.esp with
      | some e => s.setCry (fun c => { c with espDone := c.espDone ++ [(e.1, status, out)] })
      | none => s.emit (.cryResult o.page status out tag)

/-- Overwrite with zeros what an operation has written (R387); how much that is, nothing constrains. -/
def State.discard (s : State) (o : CryOp) : State :=
  if o.fw then s.used.store Ini.CRY o.dst (List.replicate (s.free % (o.outLen + 1)) 0) else s

/-- An operation in flight ends with ABORTED and its output is discarded (R386, R387, R395). -/
def State.opAbort (s : State) (k : Nat) : State :=
  match s.cry.ops[k]? with
  | none => s
  | some o => if o.final.isSome then s else (s.discard o).opEnd k St.ABORTED [] []

/-- The last operation in flight that satisfies `p` and has no outcome. -/
def lastOp (p : CryOp → Bool) (l : List CryOp) : Option Nat :=
  match l.reverse.findIdx? (fun o => p o && o.final.isNone) with
  | none => none
  | some j => some (l.length - 1 - j)

/-- Abort every operation in flight that satisfies `p`, newest first. -/
def State.abortAll (s : State) (p : CryOp → Bool) (cnt : State → State) : Nat → State
  | 0 => s
  | fuel + 1 =>
    match lastOp p s.cry.ops with
    | none => s
    | some k => (cnt (s.opAbort k)).abortAll p cnt fuel

/-! ## Fetch -/

/-- A page may fetch: a firmware page in RUN, not stopping and not parked, with no refused descriptor in flight, while
CRY_CTRL.EN is set and a descriptor of the ring is not in flight. -/
def State.pgCanFetch (s : State) (n : Nat) : Bool :=
  let mine := s.cry.ops.filter (fun o => o.fw && o.page == n)
  decide (6 ≤ n) && s.rb F.CRY_CTRL_EN && s.rf (F.PG_STAT_STATE n) == Pg.RUN && !(s.page n).stopping && !(s.page n).parked &&
    mine.all (fun o => match o.final with | some r => !halts r.1 | none => true) &&
    decide (mine.length < (s.pgRing n).2)

/-- The next descriptor of a page is taken in (R376, R377). -/
def State.pgTake (s : State) (n a : Nat) : State :=
  let w := s.words a 16
  if !(w.getD 0 0).getLsbD 31 then s.setPage n (fun p => { p with parked := true })
  else
    let o := descOp n w
    let f := if !s.ready Fn.CRY then some St.NOTREADY else s.descCheck o w
    let o := { o with final := f.map (fun st => (st, 0)) }
    (s.setCry (fun c => { c with ops := c.ops ++ [o] })).pgSettle n

/-- CRY_DESCRIPTOR_FETCH (R376): a ring outside the page's windows halts the page with RANGE (R374); a fetch that fails
halts it with HW or CHECK and leaves HEAD (R338). -/
def execCryDescriptorFetch (n : Fin 32) (s : State) : Host.Outcome State Fault Refusal :=
  if !s.pgCanFetch n.val then .next s
  else
    let ring := s.pgRing n.val
    let inFlight := (s.cry.ops.filter (fun o => o.fw && o.page == n.val)).length
    let a := ring.1 + 64 * ((s.rf (F.PG_HEAD_HEAD n.val) + inFlight) % ring.2)
    if !s.pgInWindow n.val ring.1 (64 * ring.2) then .next ((s.pageHalt n.val St.RANGE).raise 165)
    else if !s.readable a 64 then .next ((s.pageHalt n.val St.HW).raise 165)
    else if s.eccBad a 64 then .next (((s.eccRead Ini.CRY a 64).pageHalt n.val St.CHECK).raise 165)
    else .next ((s.eccRead Ini.CRY a 64).pgTake n.val a)

/-- PAGE_DOORBELL (R376): the page fetches at HEAD again. -/
def execPageDoorbell (i : Init) (n : Fin 32) (v : Word) (s : State) : Host.Outcome State Fault Refusal :=
  .next (s.onWrite i (R.PG_DOORBELL n.val) (fun s =>
    if v.getLsbD 0 && decide (6 ≤ n.val) then s.setPage n.val (fun p => { p with parked := false }) else s))

/-! ## Inline operations (R391, R393) -/

/-- The operation an inline block hands over. -/
def inlineOp (n : Nat) (op : InlineOp) : CryOp :=
  { page := n, fw := false, int := false, mode := op.mode.val, dir := op.dir, chain := 0, ctx := 0, pad := 0,
    tagLen := op.tagLen, slot := op.slot.val, iv := op.nonce, aadLen := op.aad.length, len := op.data.length, src := 0,
    dst := 0, aadAt := 0, tagAt := 0, aad := op.aad, data := op.data, tag := op.tag, esp := none, saLive := false,
    core := none, started := false, key := [], gen := 0, final := none }

/-- INLINE_OPERATION (R391): a WHOLE operation waits for a core. Page 4 takes only the PPE's ESP packets, which the PPE
hands over itself (R295). While CRY is not ready the block gets NOTREADY (R36); a tag or nonce length that R378 excludes
gives RANGE. -/
def execInlineOperation (n : Fin 6) (op : InlineOp) (s : State) : Host.Outcome State Fault Refusal :=
  let o := inlineOp n.val op
  if n.val = 4 then .next s
  else if !s.ready Fn.CRY then .next (s.emit (.cryResult n.val St.NOTREADY [] []))
  else if !tagLenOk o.mode o.tagLen || !nLenOk o.mode (if o.mode ≤ 2 then 0 else o.iv.length) || !o.lenOk then
    .next (s.emit (.cryResult n.val St.RANGE [] []))
  else .next (s.setCry (fun c => { c with ops := c.ops ++ [o] })).crySync

/-! ## Cores (R375) and the key snapshot (R385) -/

/-- The USAGE a mode and direction need (R391). DEDUCED. -/
def needs (mode : Nat) (dir : Bool) : Nat := if 5 ≤ mode then Usage.MAC else if dir then Usage.DEC else Usage.ENC

/-- A slot's snapshot for an operation of a page: LOADED, the page's bit set, an AES key with the USAGE. -/
def State.snapshot (s : State) (n slot usage : Nat) : Option KeySlot :=
  let k := s.slot slot
  if s.slotState slot = Slot.LOADED ∧ k.mask.getLsbD n ∧ k.typ ≤ 1 ∧ k.usage &&& usage ≠ 0 then some k else none

/-- What an operation does when a core takes it: it goes on with a key, or ends with a status (R381, R385). -/
def State.opKey (s : State) (o : CryOp) : Except Nat (List Byte × Word) :=
  if 2 ≤ o.chain then
    let c := s.ctx o.page o.ctx
    if c.st = 0 then .error St.STATE else if c.st = 2 then .error St.ABORTED else .ok (c.key, c.gen)
  else if o.chain = 1 ∧ (s.ctx o.page o.ctx).st ≠ 0 then .error St.STATE
  else
    match s.snapshot o.page o.slot (needs o.mode o.dir) with
    | none => .error St.NOKEY
    | some k => .ok (k.key, s.slotGen o.slot)

/-- Operation `k` may be given a core: it has none, no outcome, no earlier piece of its context is unfinished, and its page
holds fewer than MAXC cores. -/
def State.opReady (s : State) (k : Nat) (o : CryOp) : Bool :=
  o.core.isNone && o.final.isNone &&
    (o.chain == 0 || (s.cry.ops.take k).all (fun x => !(x.fw && x.page == o.page && x.chain != 0 && x.ctx == o.ctx && x.final.isNone))) &&
    decide ((s.cry.ops.filter (fun x => x.page == o.page && x.core.isSome)).length < s.rf (F.CRY_PGCFG_MAXC o.page))

/-- Its priority. -/
def State.opPrio (s : State) (o : CryOp) : Nat := s.rf (F.CRY_PGCFG_PRIO o.page)

/-- How far a page stands after the one served last at its priority (R375). -/
def State.rrDist (s : State) (o : CryOp) : Nat := (o.page + 31 - Sparse.getN s.cry.rr (s.opPrio o)) % 32

/-- The better of two waiting operations: a suspended one first, then the higher priority, then round-robin. -/
def State.opBetter (s : State) (a b : CryOp) : Bool :=
  if a.started ≠ b.started then a.started
  else if s.opPrio a ≠ s.opPrio b then decide (s.opPrio b < s.opPrio a)
  else decide (s.rrDist a < s.rrDist b)

/-- The operation that gets the next core, by its number; `sus` admits suspended ones. -/
def State.opPick (s : State) (sus : Bool) : List (CryOp × Nat) → Option (CryOp × Nat)
  | [] => none
  | (o, k) :: t =>
    let best := s.opPick sus t
    if s.opReady k o && (sus || !o.started) then
      match best with
      | none => some (o, k)
      | some (b, j) => if s.opBetter b o then some (b, j) else some (o, k)
    else best

/-- The first core that nobody holds. -/
def State.freeCore (s : State) : Option Nat :=
  (List.range 12).find? (fun c => !s.cry.ops.any (fun o => o.core == some c))

/-- Give core `c` to operation `k` (R375, R385). -/
def State.giveCore (s : State) (k c : Nat) : State :=
  match s.cry.ops[k]? with
  | none => s
  | some o =>
    let s := s.setCry (fun y => { y with rr := Sparse.putN y.rr (s.opPrio o) o.page })
    if o.started then (s.setCry (fun y => { y with ops := y.ops.set k { o with core := some c } })).crySync
    else
      match s.opKey o with
      | .error st =>
        let s := if st = St.ABORTED then s.setCtx o.page o.ctx CryCtx.free else s
        s.opEnd k st [] []
      | .ok (key, gen) =>
        (s.setCry (fun y => { y with ops := y.ops.set k { o with core := some c, started := true, key := key, gen := gen } })).crySync

/-- The operation that is suspended for one of priority `p`: the first core that serves a lower one. -/
def State.victim (s : State) (p : Nat) : Option (CryOp × Nat) :=
  s.cry.ops.zipIdx.find? (fun x => x.1.core.isSome && decide (s.opPrio x.1 < p))

/-- CORE_ASSIGN (R375). -/
def execCoreAssign (s : State) : Host.Outcome State Fault Refusal :=
  match s.freeCore with
  | some c =>
    match s.opPick true s.cry.ops.zipIdx with
    | none => .next s
    | some (_, k) => .next (s.giveCore k c)
  | none =>
    match s.opPick false s.cry.ops.zipIdx with
    | none => .next s
    | some (o, k) =>
      match s.victim (s.opPrio o) with
      | none => .next s
      | some (v, j) =>
        let s := (s.setCry (fun y => { y with ops := y.ops.set j { v with core := none } })).bump R.CRY_CNT_SUSP
        .next (s.giveCore k (v.core.getD 0))

/-! ## What an operation computes (R378 to R381) -/

/-- Padding for encryption (R376, R379). -/
def padData (pad : Nat) (d : List Nat) : List Nat :=
  let n := 16 - d.length % 16
  if pad = 1 then d ++ List.replicate n n else d ++ [0x80] ++ List.replicate (n - 1) 0

/-- The bytes left when the padding is taken off; none when it is malformed (R379). -/
def unpad (pad : Nat) (d : List Nat) : Option (List Nat) :=
  if pad = 1 then
    let n := d.getLastD 0
    if 1 ≤ n ∧ n ≤ 16 ∧ n ≤ d.length ∧ (d.drop (d.length - n)).all (fun x => x == n) then some (d.take (d.length - n)) else none
  else
    let z := (d.reverse.takeWhile (fun x => x == 0)).length
    if z < 16 ∧ z < d.length ∧ d.getD (d.length - 1 - z) 0 = 0x80 then some (d.take (d.length - 1 - z)) else none

/-- What an operation yields: a status, the data to DST, the tag it computed, and the context's next value. -/
structure OpYield where
  status : Nat
  out : List Nat
  tag : List Nat
  chain : List Nat
  acc : List Nat
deriving DecidableEq, Repr

/-- ECB, CBC and CTR from a chaining value (R378, R379). -/
def blockMode (o : CryOp) (rk : List (List Nat)) (c d : List Nat) : OpYield :=
  let last := o.chain = 0 ∨ o.chain = 3
  if o.mode = 2 then let r := Aes.ctr 16 rk c d; ⟨St.OK, r.1, [], r.2, []⟩
  else if !o.dir then
    let d := if last ∧ o.pad ≠ 0 then padData o.pad d else d
    if o.mode = 0 then ⟨St.OK, Aes.ecb rk false d, [], c, []⟩
    else let r := Aes.cbcEnc rk c d; ⟨St.OK, r.1, [], r.2, []⟩
  else
    let r := if o.mode = 0 then (Aes.ecb rk true d, c) else Aes.cbcDec rk c d
    if last ∧ o.pad ≠ 0 then
      match unpad o.pad r.1 with
      | none => ⟨St.AUTH, [], [], r.2, []⟩
      | some p => ⟨St.OK, p, [], r.2, []⟩
    else ⟨St.OK, r.1, [], r.2, []⟩

/-- A piece of a GCM encryption or of GMAC (R378, R381): the counter and the accumulator pass through the context; the tag
counts at the last piece. -/
def gcmPiece (o : CryOp) (rk : List (List Nat)) (x : CryCtx) (aad d : List Nat) : OpYield :=
  let first := o.chain ≤ 1
  let h := Aes.subkey rk
  let c := if first then Aes.inc 4 (Aes.j0 (nats o.iv)) else nats x.chain
  let a := if first then 0 else Sha.be (nats x.acc)
  if o.mode = 6 then
    let a := Aes.ghash h a (aad ++ d)
    ⟨St.OK, [], Aes.gcmTag rk c a (x.aadBytes + x.dataBytes + aad.length + d.length) 0, c, Sha.toBe 16 a⟩
  else
    let r := Aes.ctr 4 rk c d
    let a := Aes.ghash h (Aes.ghash h a aad) r.1
    ⟨St.OK, r.1, Aes.gcmTag rk c a (x.aadBytes + aad.length) (x.dataBytes + d.length), r.2, Sha.toBe 16 a⟩

/-- A piece of CMAC. The last block before an empty last piece is found again from the two values around it. -/
def cmacPiece (o : CryOp) (rk : List (List Nat)) (x : CryCtx) (d : List Nat) : OpYield :=
  let z := List.replicate 16 0
  let acc := if o.chain ≤ 1 then z else nats x.acc
  let pre := if o.chain ≤ 1 then z else nats x.chain
  if o.chain = 1 ∨ o.chain = 2 then
    if d.isEmpty then ⟨St.OK, [], [], pre, acc⟩
    else
      let p := Aes.cbcMac rk acc (d.take (d.length - 16))
      ⟨St.OK, [], [], p, Aes.cbcMac rk p (d.drop (d.length - 16))⟩
  else if d.isEmpty ∧ o.chain = 3 ∧ x.dataBytes ≠ 0 then
    ⟨St.OK, [], Aes.cmacLast rk pre (Aes.xorL (Aes.decBlock rk acc) pre), pre, acc⟩
  else ⟨St.OK, [], Aes.cmacFrom rk acc d, pre, acc⟩

/-- The result of an operation on its input, its tag not yet compared. -/
def CryOp.yield (o : CryOp) (x : CryCtx) (aad d : List Nat) : OpYield :=
  let key := nats o.key
  let rk := Aes.roundKeys key
  if o.mode ≤ 2 then blockMode o rk (if o.chain ≤ 1 then nats o.iv else nats x.chain) d
  else if o.mode = 3 ∧ o.dir then let r := Aes.gcmDec key (nats o.iv) aad d; ⟨St.OK, r.1, r.2, [], []⟩
  else if o.mode = 4 then
    let r := if o.dir then Aes.ccmDec key (nats o.iv) aad d o.tagLen else Aes.ccmEnc key (nats o.iv) aad d o.tagLen
    ⟨St.OK, r.1, r.2, [], []⟩
  else if o.mode = 5 then cmacPiece o rk x d
  else gcmPiece o rk x aad d

/-- The tag is compared: authenticated decryption and verification at the last piece (R380). -/
def CryOp.compares (o : CryOp) : Bool := o.dir && decide (3 ≤ o.mode) && (o.chain == 0 || o.chain == 3) && o.tagLen != 0
/-- A tag is written. -/
def CryOp.writesTag (o : CryOp) : Bool := !o.dir && decide (3 ≤ o.mode) && (o.chain == 0 || o.chain == 3) && o.tagLen != 0

/-- The context after a piece (R381). -/
def State.pieceCtx (s : State) (o : CryOp) (x : CryCtx) (y : OpYield) : State :=
  if o.chain = 0 then s
  else if o.chain = 3 then s.setCtx o.page o.ctx CryCtx.free
  else s.setCtx o.page o.ctx
    { st := 1, mode := o.mode, dir := o.dir, slot := (if o.chain = 1 then o.slot else x.slot), gen := o.gen, key := o.key,
      aadBytes := x.aadBytes + o.aadLen, dataBytes := x.dataBytes + o.len, chain := toBytes y.chain, acc := toBytes y.acc }

/-- The end of operation `k` of a firmware page, on memory (R378 to R381). -/
def State.fwRun (s : State) (k : Nat) (o : CryOp) : State :=
  let x := if o.chain ≤ 1 then CryCtx.free else s.ctx o.page o.ctx
  let rd := [(o.src, o.len), (o.aadAt, o.aadLen), (o.tagAt, if o.compares then o.tagLen else 0)]
  if rd.any (fun p => p.2 != 0 && !s.readable p.1 p.2) || (o.outLen != 0 && !s.writable Ini.CRY o.dst o.outLen) then s.opEnd k St.HW [] []
  else
    let bad := rd.any (fun p => p.2 != 0 && s.eccBad p.1 p.2)
    let s := rd.foldl (fun s p => s.eccRead Ini.CRY p.1 p.2) s
    if bad then s.opEnd k St.CHECK [] [] else
    let y := o.yield x (nats (s.bytes o.aadAt o.aadLen)) (nats (s.bytes o.src o.len))
    let s := s.pieceCtx o x y
    let tag := toBytes (y.tag.take o.tagLen)
    if y.status ≠ St.OK then s.opEnd k y.status [] []
    else if o.compares && tag != s.bytes o.tagAt o.tagLen then s.opEnd k St.AUTH [] []
    else
      let out := toBytes y.out
      let s := s.store Ini.CRY o.dst out
      let s := if o.writesTag then s.store Ini.CRY o.tagAt tag else s
      s.opEnd k St.OK out tag

/-- The end of an inline operation (R391). -/
def State.inlineRun (s : State) (k : Nat) (o : CryOp) : State :=
  let y := o.yield CryCtx.free (nats o.aad) (nats o.data)
  let tag := toBytes (y.tag.take o.tagLen)
  if y.status ≠ St.OK then s.opEnd k y.status [] []
  else if o.compares && tag != o.tag then s.opEnd k St.AUTH [] []
  else s.opEnd k St.OK (toBytes y.out) tag

end Sys2Proof.Machine
end

