-- ==== Sys2Proof/Machine/CryEsp.lean ====
section
/-! DEFINITION. Page commands and saved contexts (R388 to R390), security associations and ESP (R392, R393), the end of an
operation and of an erase (R376, R386), and alarms (R394, R395). -/

namespace Sys2Proof.Machine

/-! ## Page commands (R390) -/

/-- A page command completes: an outcome other than OK is counted and recorded; `ev` is the event it raises. -/
def State.pgDone (s : State) (n tag opc status ev : Nat) : State :=
  let s := if status = St.OK then s else ((s.cryCount status).errSet (R.PG_ERR n) status).raise ev
  if (s.page n).results.length < 16 then s.setPage n (fun p => { p with results := p.results ++ [⟨tag, opc, status⟩] })
  else s.bump R.CRY_CNT_RESOVF

/-- ENABLE: OFF to RUN, and the page fetches at HEAD. -/
def State.pgEnable (s : State) (n tag : Nat) : State :=
  let st := s.rf (F.PG_STAT_STATE n)
  if st = Pg.HALT then s.pgDone n tag 1 St.STATE 164
  else
    let s := if st = Pg.OFF then (s.wf (F.PG_STAT_STATE n) Pg.RUN).setPage n (fun p => { p with parked := false, stopping := false }) else s
    s.pgDone n tag 1 St.OK 164

/-- STOP: no new descriptor; OFF once the descriptors in flight have completed. -/
def State.pgStop (s : State) (n tag : Nat) : State :=
  let s := if s.rf (F.PG_STAT_STATE n) = Pg.OFF then s else (s.setPage n (fun p => { p with stopping := true })).pgSettle n
  s.pgDone n tag 2 St.OK 164

/-- CLEAR: leaves HALT and fetches at HEAD. -/
def State.pgClear (s : State) (n tag : Nat) : State :=
  if s.rf (F.PG_STAT_STATE n) = Pg.HALT then
    ((s.wf (F.PG_STAT_STATE n) Pg.RUN).setPage n (fun p => { p with parked := false })).pgDone n tag 3 St.OK 164
  else s.pgDone n tag 3 St.STATE 164

/-- The address in PG_CTXADDR. -/
def State.ctxAddr (s : State) (n : Nat) : Nat := s.regN (R.PG_CTXADDR_LO n) + s.rf (F.PG_CTXADDR_HI_HI n) * 2 ^ 32

/-- Words 0 to 14 of the clear form (R388). -/
def clearWords (n : Nat) (x : CryCtx) : List Word :=
  let four (l : List Byte) : List Word := (List.range 4).map (fun k => BitVec.ofNat 32 (bytesNat ((l.drop (4 * k)).take 4)))
  [BitVec.ofNat 32 (x.mode * 2 ^ 24 + (if x.dir then 2 ^ 23 else 0) + n * 2 ^ 16 + x.slot), x.gen,
   BitVec.ofNat 32 x.aadBytes, BitVec.ofNat 32 x.dataBytes] ++ four x.chain ++ four x.acc ++ [0, 0, 0]

/-- The clear form, 64 bytes. -/
def clearRecord (n : Nat) (x : CryCtx) : List Byte :=
  let b := wordBytes (clearWords n x)
  b ++ natBytes 4 (crc32c b)

/-- The wrapped form, 144 bytes, under CTXK with a 12-byte IV. -/
def wrappedRecord (ctxk : List Byte) (n : Nat) (x : CryCtx) (iv : List Byte) : List Byte :=
  let aad := wordBytes [BitVec.ofNat 32 (2 ^ 28 + n * 2 ^ 16)]
  let key := x.key ++ List.replicate (32 - x.key.length) 0
  let sub := toBytes (Sha.toBe 16 (Aes.subkey (Aes.roundKeys (nats x.key))))
  let r := Aes.gcmEnc (nats ctxk) (nats iv) (nats aad) (nats ((wordBytes (clearWords n x)).take 56 ++ key ++ sub))
  aad ++ iv ++ toBytes r.1 ++ toBytes r.2 ++ List.replicate 8 0

/-- A descriptor in flight uses a context. -/
def State.ctxBusy (s : State) (n c : Nat) : Bool :=
  s.cry.ops.any (fun o => o.fw && o.page == n && o.chain != 0 && o.ctx == c && o.final.isNone)

/-- CTX_SAVE (R388). A context that is not ACTIVE has nothing to save: STATE. -/
def State.ctxSave (s : State) (n tag c : Nat) : State :=
  let x := s.ctx n c
  let wrapped := s.rb (F.PG_CTXFMT_WRAPPED n)
  let len := if wrapped then 144 else 64
  let a := s.ctxAddr n
  if s.ctxBusy n c then s.pgDone n tag 4 St.BUSY 164
  else if !wrapped && !s.rb (F.CRY_PGCFG_CLRCTX n) then s.pgDone n tag 4 St.RIGHTS 164
  else if x.st ≠ 1 then s.pgDone n tag 4 St.STATE 164
  else if !s.pgInWindow n a len then s.pgDone n tag 4 St.RANGE 164
  else if !s.writable Ini.CRY a len then s.pgDone n tag 4 St.HW 164
  else
    let r := if wrapped then s.draw 12 else (s, [])
    let rec_ := if wrapped then wrappedRecord s.cry.ctxk n x r.2 else clearRecord n x
    ((r.1.store Ini.CRY a rec_).setCtx n c CryCtx.free).pgDone n tag 4 St.OK 164

/-- The context that the first 14 words of a clear form spell, with a key. -/
def ctxOf (b : List Byte) (gen : Word) (key : List Byte) : CryCtx :=
  let w0 := bytesNat (b.take 4)
  { st := 1, mode := w0 / 2 ^ 24 % 16, dir := w0 / 2 ^ 23 % 2 == 1, slot := w0 % 1024, gen := gen, key := key,
    aadBytes := bytesNat ((b.drop 8).take 4), dataBytes := bytesNat ((b.drop 12).take 4), chain := (b.drop 16).take 16,
    acc := (b.drop 32).take 16 }

/-- The checks of a clear record, and the context it gives (R389). -/
def State.restoreClear (s : State) (n : Nat) (b : List Byte) : Except Nat CryCtx :=
  let gen : Word := BitVec.ofNat 32 (bytesNat ((b.drop 4).take 4))
  let slot := bytesNat (b.take 4) % 1024
  if crc32c (b.take 60) ≠ bytesNat ((b.drop 60).take 4) then .error St.CHECK
  else if s.slotState slot ≠ Slot.LOADED ∨ s.slotGen slot ≠ gen ∨ !(s.slot slot).mask.getLsbD n then .error St.NOKEY
  else .ok (ctxOf b gen (s.slot slot).key)

/-- The checks of a wrapped record, and the context it gives (R389). -/
def State.restoreWrapped (s : State) (b : List Byte) : Except Nat CryCtx :=
  let r := Aes.gcmDec (nats s.cry.ctxk) (nats ((b.drop 4).take 12)) (nats (b.take 4)) (nats ((b.drop 16).take 104))
  if toBytes r.2 ≠ (b.drop 120).take 16 then .error St.AUTH
  else
    let p := toBytes r.1
    let gen : Word := BitVec.ofNat 32 (bytesNat ((p.drop 4).take 4))
    let slot := bytesNat (p.take 4) % 1024
    let key := (p.drop 56).take 32
    let late := s.slotEraseGen slot - gen
    if late ≠ 0 ∧ late.toNat < 2 ^ 31 then .error St.NOKEY
    else .ok (ctxOf p gen (if (s.slot slot).typ = 0 then key.take 16 else key))

/-- CTX_RESTORE (R389): each failure raises EV169. -/
def State.ctxRestore (s : State) (n tag c : Nat) : State :=
  let a := s.ctxAddr n
  let wrapped := s.rb (F.PG_CTXFMT_WRAPPED n)
  let len := if wrapped then 144 else 64
  if (s.ctx n c).st ≠ 0 then s.pgDone n tag 5 St.STATE 169
  else if !s.pgInWindow n a len then s.pgDone n tag 5 St.RANGE 169
  else if !s.readable a len then s.pgDone n tag 5 St.HW 169
  else if s.eccBad a len then (s.eccRead Ini.CRY a len).pgDone n tag 5 St.CHECK 169
  else
    let s := s.eccRead Ini.CRY a len
    let b := s.bytes a len
    if bytesNat (b.take 4) / 2 ^ 16 % 32 ≠ n then s.pgDone n tag 5 St.RIGHTS 169
    else
      match (if wrapped then s.restoreWrapped b else s.restoreClear n b) with
      | .error st => s.pgDone n tag 5 st 169
      | .ok x => (s.setCtx n c x).pgDone n tag 5 St.OK 169

/-- CTX_DROP: frees a context; one that a descriptor in flight uses is BUSY, as at CTX_SAVE. -/
def State.ctxDrop (s : State) (n tag c : Nat) : State :=
  if s.ctxBusy n c then s.pgDone n tag 6 St.BUSY 164 else (s.setCtx n c CryCtx.free).pgDone n tag 6 St.OK 164

/-- A page command (R390); every one is refused with RIGHTS on an inline page (R373), with NOTREADY while CRY is not ready
(R36), and with TYPE when its OPC is unknown. -/
def State.pgCmd (s : State) (n opc tag c : Nat) : State :=
  if n < 6 then s.pgDone n tag opc St.RIGHTS 164
  else if !s.ready Fn.CRY then s.pgDone n tag opc St.NOTREADY 164
  else if opc = 1 then s.pgEnable n tag
  else if opc = 2 then s.pgStop n tag
  else if opc = 3 then s.pgClear n tag
  else if opc = 4 then s.ctxSave n tag c
  else if opc = 5 then s.ctxRestore n tag c
  else if opc = 6 then s.ctxDrop n tag c
  else s.pgDone n tag opc St.TYPE 164

/-- PAGE_ENABLE (R390). -/
def execPageEnable (i : Init) (n : Fin 32) (tag : BitVec 8) (s : State) : Host.Outcome State Fault Refusal :=
  .next (s.onWrite i (R.PG_CMD n.val) (fun s => s.pgCmd n.val 1 tag.toNat 0))
/-- PAGE_STOP (R390). -/
def execPageStop (i : Init) (n : Fin 32) (tag : BitVec 8) (s : State) : Host.Outcome State Fault Refusal :=
  .next (s.onWrite i (R.PG_CMD n.val) (fun s => s.pgCmd n.val 2 tag.toNat 0))
/-- PAGE_CLEAR (R390). -/
def execPageClear (i : Init) (n : Fin 32) (tag : BitVec 8) (s : State) : Host.Outcome State Fault Refusal :=
  .next (s.onWrite i (R.PG_CMD n.val) (fun s => s.pgCmd n.val 3 tag.toNat 0))
/-- CTX_SAVE (R388). -/
def execCtxSave (i : Init) (n : Fin 32) (tag : BitVec 8) (c : Fin 4) (s : State) : Host.Outcome State Fault Refusal :=
  .next (s.onWrite i (R.PG_CMD n.val) (fun s => s.pgCmd n.val 4 tag.toNat c.val))
/-- CTX_RESTORE (R389). -/
def execCtxRestore (i : Init) (n : Fin 32) (tag : BitVec 8) (c : Fin 4) (s : State) : Host.Outcome State Fault Refusal :=
  .next (s.onWrite i (R.PG_CMD n.val) (fun s => s.pgCmd n.val 5 tag.toNat c.val))
/-- CTX_DROP (R390). -/
def execCtxDrop (i : Init) (n : Fin 32) (tag : BitVec 8) (c : Fin 4) (s : State) : Host.Outcome State Fault Refusal :=
  .next (s.onWrite i (R.PG_CMD n.val) (fun s => s.pgCmd n.val 6 tag.toNat c.val))

/-- Pop PG_RES. -/
def State.pgPop (i : Init) (n : Nat) (s : State) : State :=
  match (s.page n).results with
  | [] => s.answer i 0
  | r :: rs => (s.setPage n (fun p => { p with results := rs })).answer i r.word

/-- PAGE_RESULT_POP (R410). -/
def execPageResultPop (i : Init) (n : Fin 32) (s : State) : Host.Outcome State Fault Refusal :=
  .next (s.onRead i (R.PG_RES n.val) (State.pgPop i n.val))

/-! ## Security associations (R392) -/

/-- An SA that is not valid. -/
def Sa.none : Sa := ⟨[], 0, false, false⟩
/-- SA `i`. -/
def State.sa (s : State) (i : Nat) : Sa := Sparse.get (fun _ => Sa.none) s.cry.sas i
/-- Replace SA `i`. -/
def State.setSa (s : State) (i : Nat) (x : Sa) : State :=
  s.setCry (fun c => { c with sas := Sparse.put (fun _ => Sa.none) c.sas i x })
/-- A word of an SA. -/
def Sa.w (x : Sa) (k : Nat) : Nat := (x.words.getD k 0).toNat
/-- VALID. -/
def Sa.valid (x : Sa) : Bool := (x.words.getD 0 0).getLsbD 31
/-- A 64-bit number of two words. -/
def Sa.w64 (x : Sa) (k : Nat) : Nat := x.w k + x.w (k + 1) * 2 ^ 32
/-- Store words. -/
def Sa.put (x : Sa) (k n : Nat) : Sa := { x with words := x.words.set k (BitVec.ofNat 32 n) }
def Sa.put64 (x : Sa) (k n : Nat) : Sa := (x.put k n).put (k + 1) (n / 2 ^ 32)

/-- The SA image address. -/
def State.saAddr (s : State) : Nat := s.reg64 R.CRY_SAADDR_LO R.CRY_SAADDR_HI

/-- SA LOAD: the record from the image, VALID set, counters and bitmap reset (R392). -/
def State.saLoad (s : State) (i : Nat) : State × Nat :=
  let a := s.saAddr
  if (s.sa i).valid then (s, St.STATE)
  else if !s.readable a 128 then (s, St.HW)
  else if s.eccBad a 128 then (s.eccRead Ini.CRY a 128, St.CHECK)
  else
    let s := s.eccRead Ini.CRY a 128
    let w := s.words a 32
    let win := bits (w.getD 3 0) 10 0
    if win % 64 ≠ 0 ∨ win < 64 ∨ 1024 < win then (s, St.RANGE)
    else
      let keep (k : Nat) : Word :=
        if k = 0 then (w.getD 0 0 &&& 0x700003FF) ||| 0x80000000
        else if k = 3 then BitVec.ofNat 32 win
        else if k ≤ 10 then w.getD k 0 else 0
      (s.setSa i ⟨(List.range 32).map keep, 0, false, false⟩, St.OK)

/-- SA ERASE: the counter updates of packets in flight are discarded (R392). -/
def State.saErase (s : State) (i : Nat) : State :=
  (s.setSa i Sa.none).setCry (fun c => { c with ops := c.ops.map (fun o =>
    if o.esp.any (fun e => e.2 == i) && o.started then { o with saLive := false } else o) })

/-- SA READ: words 0 to 31 go back to the image (R392). -/
def State.saRead (s : State) (i : Nat) : State × Nat :=
  if !s.writable Ini.CRY s.saAddr 128 then (s, St.HW)
  else (s.store Ini.CRY s.saAddr (wordBytes ((List.range 32).map (fun k => (s.sa i).words.getD k 0))), St.OK)

/-- CRY_SACMD (R392, R410): results carry 0x81 to 0x83. -/
def State.saCmd (s : State) (opc tag i : Nat) : State :=
  if !s.ready Fn.CRY then s.keyDone tag (0x80 + opc) St.NOTREADY
  else if opc = 1 then let r := s.saLoad i; r.1.keyDone tag 0x81 r.2
  else if opc = 2 then (s.saErase i).keyDone tag 0x82 St.OK
  else if opc = 3 then let r := s.saRead i; r.1.keyDone tag 0x83 r.2
  else s.keyDone tag (0x80 + opc) St.TYPE

/-- SA_LOAD (R392). -/
def execSaLoad (i : Init) (tag : BitVec 8) (sa : Fin 256) (s : State) : Host.Outcome State Fault Refusal :=
  .next (s.onWrite i R.CRY_SACMD (fun s => s.saCmd 1 tag.toNat sa.val))
/-- SA_ERASE (R392). -/
def execSaErase (i : Init) (tag : BitVec 8) (sa : Fin 256) (s : State) : Host.Outcome State Fault Refusal :=
  .next (s.onWrite i R.CRY_SACMD (fun s => s.saCmd 2 tag.toNat sa.val))
/-- SA_READ (R392). -/
def execSaRead (i : Init) (tag : BitVec 8) (sa : Fin 256) (s : State) : Host.Outcome State Fault Refusal :=
  .next (s.onWrite i R.CRY_SACMD (fun s => s.saCmd 3 tag.toNat sa.val))

/-! ## ESP (R393) -/

/-- Where the outer IP header of a frame begins, and its length; none when the frame carries no IP. -/
def ipAt (d : List Byte) : Option (Nat × Nat) :=
  let b (k : Nat) : Nat := (d.getD k 0).toNat
  let et (k : Nat) : Nat := b k * 256 + b (k + 1)
  let tag1 := et 12 = 0x8100 ∨ et 12 = 0x88A8
  let tag2 := tag1 ∧ et 16 = 0x8100
  let o := if tag2 then 20 else if tag1 then 16 else 12
  if et o = 0x0800 then some (o + 2, 4 * (b (o + 2) % 16)) else if et o = 0x86DD then some (o + 2, 40) else none

/-- Where the IP packet ends in its frame, by its own length field. -/
def ipEnd (d : List Byte) (o : Nat) : Nat :=
  let b (k : Nat) : Nat := (d.getD k 0).toNat
  min d.length (o + (if b o / 16 = 4 then b (o + 2) * 256 + b (o + 3) else 40 + b (o + 4) * 256 + b (o + 5)))

/-- Where the next-protocol byte of an IP header stands. -/
def protoAt (d : List Byte) (o : Nat) : Nat := if (d.getD o 0).toNat / 16 = 4 then o + 9 else o + 6

/-- The AAD of ESP: SPI and sequence number (RFC 4106). -/
def espAad (x : Sa) (seq : Nat) : List Nat := Sha.toBe 4 (x.w 1) ++ (if bits (x.words.getD 0 0) 29 29 = 1 then Sha.toBe 8 seq else Sha.toBe 4 seq)

/-- NATT of an SA. -/
def Sa.natt (x : Sa) : Bool := (x.words.getD 0 0).getLsbD 28
/-- ESN of an SA. -/
def Sa.esn (x : Sa) : Bool := (x.words.getD 0 0).getLsbD 29
/-- The salt as bytes, most significant first. -/
def Sa.salt (x : Sa) : List Nat := Sha.toBe 4 (x.w 2)

/-- The frame after ESP encapsulation with a sequence number (R393). -/
def espOut (x : Sa) (key : List Byte) (seq : Nat) (d : List Byte) : Option (List Byte) :=
  match ipAt d with
  | none => none
  | some (o, h) =>
    let e := ipEnd d o
    let proto := (d.getD (protoAt d o) 0).toNat
    let pay := nats ((d.drop (o + h)).take (e - (o + h)))
    let pad := (4 - (pay.length + 2) % 4) % 4
    let p := pay ++ (List.range pad).map (fun k => k + 1) ++ [pad, proto]
    let iv := Sha.toBe 8 seq
    let r := Aes.gcmEnc (nats key) (x.salt ++ iv) (espAad x seq) p
    let esp := Sha.toBe 4 (x.w 1) ++ Sha.toBe 4 (seq % 2 ^ 32) ++ iv ++ r.1 ++ r.2
    let udp := if x.natt then Sha.toBe 2 (x.w 10 / 2 ^ 16) ++ Sha.toBe 2 (x.w 10) ++ Sha.toBe 2 (8 + esp.length) ++ [0, 0] else []
    some ((d.take (o + h)).set (protoAt d o) (BitVec.ofNat 8 (if x.natt then 17 else 50)) ++ toBytes (udp ++ esp))

/-- Count a processed packet of an SA, and raise EV167 at its limits (R393). -/
def State.saCount (s : State) (i : Nat) (x : Sa) (len : Nat) : State :=
  let n := x.w64 12 + 1
  let x := (x.put64 12 n).put64 14 (x.w64 14 + len)
  let soft := !x.soft && decide (x.w64 6 < n)
  let hard := !x.hard && decide (x.w64 8 ≤ n)
  let s := s.setSa i { x with soft := x.soft || soft, hard := x.hard || hard }
  let s := if soft then s.raise 167 else s
  if hard then s.raise 167 else s

/-- Outbound ESP (R393): the new state, the status and the frame. -/
def State.espOutRun (s : State) (o : CryOp) (i : Nat) : State × Nat × List Byte :=
  let x := s.sa i
  let seq := x.w64 4 + 1
  if !x.valid then (s, St.NOKEY, [])
  else if (if x.esn then 2 ^ 64 ≤ seq else 2 ^ 32 ≤ seq) ∨ x.w64 8 ≤ x.w64 12 then (s, St.NOKEY, [])
  else
    match espOut x o.key seq o.data with
    | none => (s, St.RANGE, [])
    | some d => (if o.saLive then s.saCount i (x.put64 4 seq) o.data.length else s, St.OK, d)

/-- The sequence number a received low half stands for (RFC 4303, ESN): within the window around the highest accepted. -/
def espSeq (x : Sa) (lo : Nat) : Nat :=
  if !x.esn then lo
  else
    let win := x.w 3
    let hi := x.w64 4 / 2 ^ 32
    let tl := x.w64 4 % 2 ^ 32
    if win - 1 ≤ tl then (if tl + 1 - win ≤ lo then hi * 2 ^ 32 + lo else (hi + 1) * 2 ^ 32 + lo)
    else if 2 ^ 32 + tl + 1 - win ≤ lo ∧ 0 < hi then (hi - 1) * 2 ^ 32 + lo
    else hi * 2 ^ 32 + lo

/-- The replay check (R393). -/
def Sa.fresh (x : Sa) (seq : Nat) : Bool :=
  let top := x.w64 4
  decide (seq ≠ 0) && (decide (top < seq) || (decide (top - seq < x.w 3) && x.bitmap / 2 ^ (top - seq) % 2 == 0))

/-- The window after a number has been accepted. -/
def Sa.accept (x : Sa) (seq : Nat) : Sa :=
  let top := x.w64 4
  if top < seq then
    { x.put64 4 seq with bitmap := (if seq - top < 1024 then x.bitmap * 2 ^ (seq - top) % 2 ^ 1024 else 0) + 1 }
  else { x with bitmap := x.bitmap ||| 2 ^ (top - seq) }

/-- A received ESP packet, taken apart: where it begins in the frame, its SPI, its low sequence number, and the rest. -/
def espParse (x : Sa) (d : List Byte) : Option (Nat × Nat × Nat × List Nat) :=
  match ipAt d with
  | none => none
  | some (o, h) =>
    let e := ipEnd d o
    let body := nats ((d.drop (o + h + (if x.natt then 8 else 0))).take (e - (o + h + (if x.natt then 8 else 0))))
    if body.length < 34 then none
    else some (o, Sha.be (body.take 4), Sha.be ((body.drop 4).take 4), body.drop 8)

/-- The payload and its protocol, when the pad bytes are 1, 2, 3 and so on. -/
def espUnpad (p : List Nat) : Option (List Nat × Nat) :=
  let n := p.getD (p.length - 2) 0
  if p.length < 2 + n then none
  else
    let pad := (p.drop (p.length - 2 - n)).take n
    if pad = (List.range n).map (fun k => k + 1) then some (p.take (p.length - 2 - n), p.getLastD 0) else none

/-- A failure of an inbound packet, counted in word 16 (replay) or word 17 (R393). -/
def State.espFail (s : State) (o : CryOp) (i k : Nat) : State × Nat × List Byte :=
  (if o.saLive then s.setSa i ((s.sa i).put k ((s.sa i).w k + 1)) else s, St.AUTH, [])

/-- Inbound ESP (R393). -/
def State.espInRun (s : State) (o : CryOp) (i : Nat) : State × Nat × List Byte :=
  let x := s.sa i
  if !x.valid then (s, St.NOKEY, [])
  else
    match espParse x o.data with
    | none => s.espFail o i 17
    | some (at_, spi, lo, rest) =>
      let seq := espSeq x lo
      let c := (rest.drop 8).take (rest.length - 24)
      if spi ≠ x.w 1 then s.espFail o i 17
      else if !x.fresh seq then s.espFail o i 16
      else
        let r := Aes.gcmDec (nats o.key) (x.salt ++ rest.take 8) (espAad x seq) c
        if r.2 ≠ rest.drop (rest.length - 16) then s.espFail o i 17
        else
          match espUnpad r.1 with
          | none => s.espFail o i 17
          | some (p, proto) =>
            let h := (ipAt o.data).map (fun q => q.2) |>.getD 0
            let d := (o.data.take (at_ + h)).set (protoAt o.data at_) (BitVec.ofNat 8 proto) ++ toBytes p
            (if o.saLive then s.saCount i (x.accept seq) o.data.length else s, St.OK, d)

/-- The PPE hands an ESP packet to page 4 (R295, R391): an index above 255 or an SA that is not valid yields NOKEY. -/
def State.espStart (s : State) (frame sa : Nat) (d : List Byte) : State :=
  let x := s.sa sa
  if sa > 255 ∨ !x.valid ∨ !s.ready Fn.CRY then
    (s.cryCount St.NOKEY).setCry (fun c => { c with espDone := c.espDone ++ [(frame, St.NOKEY, [])] })
  else
    let dir := (x.words.getD 0 0).getLsbD 30
    let o := inlineOp 4 ⟨3, dir, ⟨x.w 0 % 1024, Nat.mod_lt _ (by decide)⟩, 16, [], [], d, []⟩
    (s.setCry (fun c => { c with ops := c.ops ++ [{ o with esp := some (frame, sa), saLive := true }] })).crySync

/-! ## The end of an operation -/

/-- CRY_OPERATION_COMPLETE (R376, R380, R391): the operation on core `c` ends. -/
def execCryOperationComplete (c : Fin 12) (s : State) : Host.Outcome State Fault Refusal :=
  match s.cry.ops.findIdx? (fun o => o.core == some c.val) with
  | none => .next s
  | some k =>
    match s.cry.ops[k]? with
    | none => .next s
    | some o =>
      match o.esp with
      | some e =>
        let r := if o.dir then s.espInRun o e.2 else s.espOutRun o e.2
        .next (r.1.opEnd k r.2.1 r.2.2 [])
      | none => .next (if o.fw then s.fwRun k o else s.inlineRun k o)

/-! ## The end of an erase (R386) -/

/-- Every ACTIVE context that satisfies `p` becomes DEAD; its snapshot is overwritten. -/
def State.killCtx (s : State) (p : CryCtx → Bool) : State :=
  s.setCry (fun c => { c with ctx := c.ctx.map (fun e =>
    if e.2.st = 1 && p e.2 then (e.1, { e.2 with st := 2, key := [], chain := [], acc := [] }) else e) })

/-- ERASE_COMPLETE (R386): the wait is over; users that still run end with ABORTED; contexts become DEAD; the material is
overwritten; GEN is incremented and ERASEGEN takes it; the slot is EMPTY, the result is posted and EV166 raised. -/
def execEraseComplete (slot : Fin 1024) (s : State) : Host.Outcome State Fault Refusal :=
  let k := s.slot slot.val
  if k.st ≠ Slot.ERASING then .next s
  else
    let s := s.abortAll (fun o => o.started && o.slot == slot.val) (fun s => s.bump R.CRY_CNT_ERASEABORT) (s.cry.ops.length + 1)
    let s := s.killCtx (fun c => c.slot == slot.val)
    let s := s.setSlot slot.val { KeySlot.empty with gen := k.gen + 1, eraseGen := k.gen + 1 }
    .next ((s.keyDone k.tag 5 St.OK).raise 166)

/-! ## Alarms (R394, R395) -/

/-- Steps 1 to 5 of an alarm erase; the device state becomes ALARM. -/
def State.alarmErase (s : State) : State :=
  let s := s.setCry (fun c => { c with almErase := true })
  let s := s.abortAll (fun o => o.started) (fun s => s) (s.cry.ops.length + 1)
  let s := s.killCtx (fun _ => true)
  let s := s.setCry (fun c => { c with ctxk := [] })
  (s.wf F.PKE_STAT_DRBGOK 0).odeAlarm

/-- PKE's running command ends with ABORTED (R395). -/
def State.pkeAbort (s : State) : State :=
  match s.pke.queue with
  | [] => s
  | c :: cs =>
    if !s.rb F.PKE_CTRL_EN then s
    else
      let w0 := c.w.getD 0 0
      let s := s.setPke (fun p => { p with queue := cs })
      let s := s.wf F.PKE_STAT_QLEVEL cs.length
      let s := (s.errSet R.PKE_ERR St.ABORTED).bump R.PKE_CNT_FAIL
      let s := if s.pke.results.length < 16 then
          s.setPke (fun p => { p with results := p.results ++ [⟨bits w0 23 16, bits w0 31 24, St.ABORTED⟩] })
        else s.bump R.PKE_CNT_RESOVF
      s.raise 171

/-- A slot after an alarm erase: EMPTY, with GEN and ERASEGEN equal (the base counts the increment). -/
def wipe (e : Nat × KeySlot) : Nat × KeySlot := (e.1, { KeySlot.empty with gen := e.2.gen, eraseGen := e.2.gen })

/-- Step 6: all key material is overwritten, every slot is EMPTY, every SA invalid. -/
def State.alarmWipe (s : State) : State :=
  s.setCry (fun c => { c with
    slots := (c.slots.map wipe).filter (fun e => e.2 != KeySlot.empty), genBase := c.genBase + 1, sas := [],
    ops := c.ops.map (fun o => { o with saLive := false }) })

/-- A watched condition (R394, R395): the bit and the event, and an erase where the policy or a forced bit asks for one. -/
def State.alarm (s : State) (k : Nat) : State :=
  let s := s.setReg R.CRY_ALMSTAT (s.reg R.CRY_ALMSTAT ||| BitVec.ofNat 32 (2 ^ k))
  let s := s.raise (224 + k)
  if (s.reg R.CRY_ALMPOL ||| 0x2C9#32).getLsbD k then s.alarmErase.pkeAbort else s

/-- ALARM_CONDITION (R394). -/
def execAlarmCondition (k : Fin 10) (s : State) : Host.Outcome State Fault Refusal := .next (s.alarm k.val)

/-- ALARM_ERASE_DONE (R395, steps 6 and 7). -/
def execAlarmEraseDone (s : State) : Host.Outcome State Fault Refusal :=
  if !s.cry.almErase then .next s
  else
    let s := s.alarmWipe
    let s := (s.setCry (fun c => { c with almErase := false })).wf F.PKE_STAT_DRBGOK 1
    let r := s.draw 32
    let s := r.1.setCry (fun c => { c with ctxk := r.2 })
    let s := (s.wf F.CRY_STAT_ALARM 1).wf F.CRY_STAT_HUKBLK 1
    .next ((s.bumpTo R.CRY_ALMCNT 0xFFFF).raise 168)

/-- ALARM_CLEAR (R395): by MC5 alone; another initiator is refused with RIGHTS. -/
def execAlarmClear (i : Init) (v : Word) (s : State) : Host.Outcome State Fault Refusal :=
  .next (s.onWrite i R.CRY_ALMCLR (fun s =>
    if i.val ≠ Ini.MC5 then s.refuse R.CRY_ERR St.RIGHTS 164
    else if v.getLsbD 0 then s.wf F.CRY_STAT_ALARM 0 else s))

/-- ALARM_LOCK (R394): sets CRY_ALMLOCK until the next reset. -/
def execAlarmLock (i : Init) (v : Word) (s : State) : Host.Outcome State Fault Refusal :=
  .next (s.onWrite i R.CRY_ALMLOCK (fun s => s.setReg R.CRY_ALMLOCK (s.reg R.CRY_ALMLOCK ||| (v &&& 1))))

/-- A write to CRY_ALMPOL (R394): refused with RIGHTS while locked; forced bits read 1. -/
def State.almPolWrite (s : State) (v : Word) : State :=
  if s.rb F.CRY_ALMLOCK_LOCK then s.refuse R.CRY_ERR St.RIGHTS 164
  else s.setReg R.CRY_ALMPOL ((v &&& 0x3FF) ||| 0x2C9)

end Sys2Proof.Machine
end

