-- ==== Sys2Proof/Machine/MdmBase.lean ====
section
/-! DEFINITION. What the front-end controllers and the modems share: the per-radio state, the status block, and the end of
a reception and of a PPDU (R114, R116, R125, R128, R133). -/

namespace Sys2Proof.Machine

/-- The item of one radio. -/
def Per4.get {α : Type} (p : Per4 α) : Radio → α
  | .l => p.l | .m => p.m | .h => p.h | .s => p.s

/-- Replace the item of one radio. -/
def Per4.set {α : Type} (p : Per4 α) (r : Radio) (x : α) : Per4 α :=
  match r with
  | .l => { p with l := x } | .m => { p with m := x } | .h => { p with h := x } | .s => { p with s := x }

/-- The first event number of a radio (chapter 3, before R70). -/
def radioEv (r : Radio) : Nat := 16 + 8 * r.idx

/-- Change the front-end controller of a radio. -/
def State.setRfc (s : State) (r : Radio) (f : RfcSt → RfcSt) : State := { s with rfc := s.rfc.set r (f (s.rfc.get r)) }
/-- Change the modem of a radio. -/
def State.setMdm (s : State) (r : Radio) (f : MdmSt → MdmSt) : State := { s with mdm := s.mdm.set r (f (s.mdm.get r)) }

/-- RFC_STAT.STATE (R70). -/
def State.rfcState (s : State) (r : Radio) : Nat := s.rf (F.RFC_STAT_STATE r)
/-- MDM_STAT.PHASE (R139): 0 SEARCH, 1 ACQUIRE, 2 HEADER, 3 PAYLOAD, 4 HOLD, 5 TBWAIT, 6 MISMATCH, 8 TX, 15 OFF. -/
def State.mdmPhase (s : State) (r : Radio) : Nat := s.rf (F.MDM_STAT_PHASE r)
/-- A reception is in progress. -/
def State.mdmReceiving (s : State) (r : Radio) : Bool := decide (1 ≤ s.mdmPhase r ∧ s.mdmPhase r ≤ 4)

/-- The BW code and the channel centre of the record in the synthesiser (R86). -/
def State.synthBw (s : State) (r : Radio) : Nat := bits ((s.rfc.get r).active.headD 0) 27 24
def State.synthFreq (s : State) (r : Radio) : Nat := bits ((s.rfc.get r).active.headD 0) 23 0

/-- The BW code of a Radio S mode (R134). -/
def smodeBw (mode : Nat) : Nat := if mode ≤ 3 then 8 + mode else if mode = 8 then 12 else 13

/-- The phase of a receiver that is not receiving: MISMATCH while the mode of Radio S does not fit the active record
(R137), TBWAIT while a TB reception is armed (R120), else SEARCH. -/
def State.idlePhase (s : State) (r : Radio) : Nat :=
  if r = .s ∧ smodeBw (s.rf (F.MDM_SMODE_MODE r)) ≠ s.synthBw r then 6
  else if (s.mdm.get r).tb.isSome then 5 else 0

/-- Take a pending write to MDM_SMODE into effect (R137). -/
def State.smodeApply (s : State) (r : Radio) : State :=
  match (s.mdm.get r).smode with
  | none => s
  | some v => (s.setReg (R.MDM_SMODE r) (v &&& 0xF)).setMdm r (fun m => { m with smode := none })

/-- A reception is over: weak packets are counted (R116), MDM_CCA clears, a pending MDM_SMODE takes effect, and the modem
is in phase `ph`. -/
def State.rxOver (s : State) (r : Radio) (false_ : Bool) (off : Bool) : State :=
  let weak := (s.mdm.get r).weak
  let s := s.bumpBy (if false_ then R.MDM_CNT_LOSTWEAK r else R.MDM_CNT_OVLP r) weak
  let s := s.setMdm r (fun m => { m with lsig := false, weak := 0, tb := none })
  let s := (s.setReg (R.MDM_CCA r) 0).smodeApply r
  let s := (s.wf (F.MDM_STAT_RSTARM r) 0).wf (F.MDM_STAT_DETPWR r) 0
  s.wf (F.MDM_STAT_PHASE r) (if off then 15 else s.idlePhase r)

/-- Deliver a status block (R128). -/
def State.deliverBlock (s : State) (r : Radio) (ws : List Word) : State :=
  let s := [0, 1, 2, 3, 4, 5, 6, 7].foldl (fun s k => s.setReg (R.MDM_LASTRX r k) (ws.getD k 0)) s
  s.emit (.rxBlock r ws)

/-- A free word: a value that nothing constrains. -/
def State.freeWord (s : State) : Word := BitVec.ofNat 32 s.free

/-- The status block of a reception that did not end with OK: LEN is 0; what was measured is not given. -/
def State.failBlock (s : State) (r : Radio) (status : Nat) (w1 : Word) : State :=
  let m := s.mdm.get r
  let s1 := s.used
  let s2 := s1.used
  let ws := [setBits m.w0 23 16 status, w1, 0, m.stamp.extractLsb' 0 32, m.stamp.extractLsb' 32 32,
    s.freeWord, s1.freeWord, setBits s2.freeWord 7 0 m.cwFail]
  s2.used.deliverBlock r ws

/-- A reception ends because the radio leaves RX (R125). -/
def State.rxLeave (s : State) (r : Radio) (lockLoss : Bool) : State :=
  if s.mdmReceiving r then
    let s := if (s.mdm.get r).lsig then s.failBlock r (if lockLoss then St.HW else St.ABORTED) 0 else s
    (s.bump (R.MDM_CNT_RXPRE r)).rxOver r false true
  else (s.setMdm r (fun m => { m with tb := none })).wf (F.MDM_STAT_PHASE r) 15

/-! ## The power of a PPDU (R95, R131) -/

/-- Address of a DPD model (R96). -/
def modelAddr (i : Nat) : Nat := 0x113E0000 + 128 * i

/-- DPD is active on chain `c` for a PPDU of power `p` (R95). -/
def State.dpdActive (s : State) (r : Radio) (c p : Nat) : Bool :=
  r != .s && s.rb (F.RFC_CTRL_DPD_EN r) && s.rb (F.RFC_DPD_SEL_EN r c) &&
    (s.read32 (modelAddr (s.rf (F.RFC_DPD_SEL_MODEL r c)) + 8)).getLsbD 0 &&
    decide (s.rf (F.RFC_DPD_CTRL_PMIN r) ≤ p)

/-- The chains of a mask. -/
def chainsOf (mask : Nat) : List Nat := [0, 1, 2, 3, 4, 5, 6, 7].filter (fun c => mask / 2 ^ c % 2 == 1)

/-- The power cap of MDM_TXCAP for an MCS (R131); on Radio S byte 0 caps every mode (R139). -/
def State.txCap (s : State) (r : Radio) (mcs : Nat) : Nat :=
  if r = .s then bits (s.reg (R.MDM_TXCAP r 0)) 7 0
  else bits (s.reg (R.MDM_TXCAP r (mcs / 4))) (8 * (mcs % 4) + 7) (8 * (mcs % 4))

/-- The highest MCS among the users of an RU table (R202). -/
def State.ruMaxMcs (s : State) (a : Nat) : Nat → Nat
  | 0 => 0
  | n + 1 => max (s.mf (a + 8 + 16 * n) 15 12) (s.ruMaxMcs a n)

/-- The MCS of a transmit vector, or the highest among its users (R131). -/
def State.vectorMcs (s : State) (v : SevenWords) : Nat :=
  if (bits v.w0 31 28 = 7 ∨ bits v.w0 31 28 = 9) ∧ v.w2 = 0 then s.ruMaxMcs v.w3.toNat (s.mf v.w3.toNat 31 24)
  else bits v.w0 11 8

/-- The applied power per chain (R131). -/
def State.appliedPower (s : State) (r : Radio) (power chains mcs : Nat) : Nat :=
  let p := min power (s.txCap r mcs)
  if r ≠ .s ∧ 10 ≤ mcs ∧ !(chainsOf chains).all (fun c => s.dpdActive r c p) then
    min p (s.rf (F.MDM_NODPDCAP_CAP r))
  else p

/-- A PPDU starts (R97, R131): each chain takes its model, and the power is fixed. -/
def State.ppduStart (s : State) (r : Radio) (power chains : Nat) : State :=
  let mcs := match (s.mdm.get r).vector with | some v => s.vectorMcs v | none => 0
  let p := s.appliedPower r power chains mcs
  let s := (chainsOf chains).foldl (fun s c =>
    if s.dpdActive r c p then
      s.wf (F.RFC_DPD_GEN_GEN r c) (s.mf (modelAddr (s.rf (F.RFC_DPD_SEL_MODEL r c)) + 8) 31 16) else s) s
  let s := s.setMdm r (fun m => { m with txPower := p, txLowered := decide (p < power) })
  s.wf (F.MDM_STAT_PHASE r) 8

/-- A PPDU ends with a status (R133). -/
def State.ppduEnd (s : State) (r : Radio) (tag status : Nat) : State :=
  let m := s.mdm.get r
  let tag := match m.vector with | some v => bits v.w0 23 16 | none => tag
  let s := s.setRegN (R.MDM_LASTTX r) (m.txPower % 256 * 2 ^ 24 + tag % 256 * 2 ^ 16 + status % 256)
  let s := if status = St.OK then s.bump (R.MDM_CNT_TXOK r) else s
  let s := if m.txLowered then s.bump (R.MDM_CNT_TXCAP r) else s
  let vec := match m.vector with | some v => [v.w0, v.w1, v.w2, v.w3, v.w4, v.w5, v.w6] | none => []
  let s := s.emit (.ppduSent r vec m.txPower status)
  (s.setMdm r (fun m => { m with vector := none })).wf (F.MDM_STAT_PHASE r) 15

end Sys2Proof.Machine
end

