-- ==== Sys2Proof/Machine/Pkt.lean ====
section
/-! DEFINITION. Frames and credits: cells and units (R13), the pools of the packet buffer and of the radio buffers (R312 to
R315), the release of units, and the events of R12 and R15 to R17 that are common to the paths. -/

namespace Sys2Proof.Machine

/-- Credit units of a frame of L bytes (R13). -/
def unitsOf (len : Nat) : Nat := (len + 64 + 255) / 256

/-- The longest frame the device stores (R14). -/
def maxFrame : Nat := 11454

/-! ## Cells -/

/-- The packet buffer and the radio buffers (R21): base address and cells. -/
def pktBase : Nat := 0x10000000
def pktCells : Nat := 32768
def rbBase (r : Nat) : Nat := RegMap.pick r 0x10800000 0x10900000 0x10AC0000 0x10CC0000
def rbCells (r : Nat) : Nat := RegMap.pick r 4096 7168 8192 1024

/-- The first cell at or after `c`, around the end, that is not in use. -/
def probeCell (used : List Nat) (total : Nat) : Nat → Nat → Nat
  | 0, c => c
  | fuel + 1, c => if used.contains c then probeCell used total fuel ((c + 1) % total) else c

/-- Choose `n` free cells. Which free cells a block takes is not given: each choice starts at a free value. -/
def State.takeCells (s : State) (used : List Nat) (total : Nat) : Nat → State × List Nat
  | 0 => (s, [])
  | n + 1 =>
    let c := probeCell used total (used.length + 1) (s.free % total)
    let r := s.used.takeCells (c :: used) total n
    (r.1, c :: r.2)

/-- `n` consecutive cells from `c` are free and exist. -/
def runFree (used : List Nat) (total c n : Nat) : Bool :=
  decide (c + n ≤ total) && used.all (fun u => decide (u < c ∨ c + n ≤ u))

/-- A free run of `n` cells, searched from `c`. -/
def probeRun (used : List Nat) (total n : Nat) : Nat → Nat → Option Nat
  | 0, _ => none
  | fuel + 1, c => if runFree used total c n then some c else probeRun used total n fuel ((c + 1) % total)

/-- Cells of the packet buffer in use. -/
def State.pktUsed (s : State) : List Nat := s.pkt.frames.flatMap (fun f => f.cells)

/-- Cells of a radio buffer in use. -/
def State.rbUsed (s : State) (r : Nat) : List Nat :=
  (s.mpdus.filter (fun m => m.radio == r)).flatMap (fun m => m.cells) ++
    (s.rxmpdus.filter (fun m => m.radio == r)).flatMap (fun m => m.cells) ++
    (s.pkt.rbufs.filter (fun b => b.radio == r)).flatMap (fun b =>
      (List.range b.units).map (fun k => (b.addr - rbBase r) / 256 + k))

/-- The address of byte `o` of a frame's storage, the header included. -/
def Frame.byteAddr (f : Frame) (o : Nat) : Nat := pktBase + 256 * f.cells.getD (o / 256) 0 + o % 256

/-- The `n` bytes of a frame from byte `o` after its header. -/
def State.frameBytes (s : State) (f : Frame) (o : Nat) : Nat → List Byte
  | 0 => []
  | n + 1 => s.byte (f.byteAddr (64 + o)) :: s.frameBytes f (o + 1) n

/-- Store bytes of a frame from byte `o` after its header. -/
def State.setFrameBytes (s : State) (f : Frame) (o : Nat) : List Byte → State
  | [] => s
  | b :: bs => (s.setByte (f.byteAddr (64 + o)) b).setFrameBytes f (o + 1) bs

/-- Header word `k` of the frame whose header stands at `a` (R300). -/
def State.hdr (s : State) (a k : Nat) : Word := s.read32 (a + 4 * k)
/-- Write header word `k`. -/
def State.setHdr (s : State) (a k : Nat) (w : Word) : State := s.write32 (a + 4 * k) w

/-- The frame whose header stands at `a`. -/
def State.frame (s : State) (a : Nat) : Option Frame := s.pkt.frames.find? (fun f => f.addr == a)

/-- Change the packet path's state. -/
def State.setPkt (s : State) (f : PktSt → PktSt) : State := { s with pkt := f s.pkt }

/-- Replace the frame at its address. -/
def State.setFrame (s : State) (f : Frame) : State :=
  s.setPkt (fun p => { p with frames := p.frames.map (fun g => if g.addr = f.addr then f else g) })

/-! ## The packet-buffer pool (R312, R313) -/

/-- Charge units of a source to its reservation, and the rest to the shared pool; none when neither covers them. -/
def State.charge (s : State) (src u : Nat) : Option State :=
  let room := s.rf (F.QMG_POOLACT_RSV src) - s.rf (F.QMG_POOLUSE_RSVD src)
  let r := min u room
  let sh := u - r
  let held := s.rf (F.QMG_POOLUSE_SHARED src)
  let freeU := s.rf F.QMG_SHARED_FREE
  if sh = 0 then some (s.wf (F.QMG_POOLUSE_RSVD src) (s.rf (F.QMG_POOLUSE_RSVD src) + r))
  else if held + sh ≤ s.rf (F.QMG_POOLACT_SHCAP src) ∧ sh ≤ freeU then
    let s := s.wf (F.QMG_POOLUSE_RSVD src) (s.rf (F.QMG_POOLUSE_RSVD src) + r)
    let s := (s.wf (F.QMG_POOLUSE_SHARED src) (held + sh)).wf F.QMG_SHARED_FREE (freeU - sh)
    some (if freeU = sh then s.raise 115 else s)
  else none

/-- A refused reservation is counted (R332). -/
def State.countRefused (s : State) : State := s.bump R.QMG_CNT_REFUSE

/-- Released units return first to the source's shared holding and then to its reservation (R313). -/
def State.release (s : State) (src u : Nat) : State :=
  let held := s.rf (F.QMG_POOLUSE_SHARED src)
  let sh := min u held
  let s := (s.wf (F.QMG_POOLUSE_SHARED src) (held - sh)).wf F.QMG_SHARED_FREE (s.rf F.QMG_SHARED_FREE + sh)
  s.wf (F.QMG_POOLUSE_RSVD src) (s.rf (F.QMG_POOLUSE_RSVD src) - (u - sh))

/-- Take the frame at `a` out of the packet buffer and release its units (R313). -/
def State.dropFrame (s : State) (a : Nat) : State :=
  match s.frame a with
  | none => s
  | some f => (s.setPkt (fun p => { p with frames := p.frames.filter (fun g => g.addr != a) })).release f.src f.units

/-! ## The pools of the radio buffers (R315) -/

/-- Free units of a transmit pool. -/
def State.txFree (s : State) (r : Nat) : Nat := s.rf (F.QMG_RPOOL_TXSZ r) - s.rf (F.QMG_RPOOLUSE_TXUSE r)
/-- Free units of a receive pool. -/
def State.rxFree (s : State) (r : Nat) : Nat := s.rf (F.QMG_RPOOL_RXSZ r) - s.rf (F.QMG_RPOOLUSE_RXUSE r)
/-- Take units of a transmit pool. -/
def State.txTake (s : State) (r u : Nat) : State := s.wf (F.QMG_RPOOLUSE_TXUSE r) (s.rf (F.QMG_RPOOLUSE_TXUSE r) + u)
/-- Return units to a transmit pool. -/
def State.txGive (s : State) (r u : Nat) : State := s.wf (F.QMG_RPOOLUSE_TXUSE r) (s.rf (F.QMG_RPOOLUSE_TXUSE r) - u)
/-- Take units of a receive pool. -/
def State.rxTake (s : State) (r u : Nat) : State := s.wf (F.QMG_RPOOLUSE_RXUSE r) (s.rf (F.QMG_RPOOLUSE_RXUSE r) + u)
/-- Return units to a receive pool. -/
def State.rxGive (s : State) (r u : Nat) : State := s.wf (F.QMG_RPOOLUSE_RXUSE r) (s.rf (F.QMG_RPOOLUSE_RXUSE r) - u)

/-! ## Storing a frame -/

/-- The TID of a frame (R321): DSCP [5:3] of the outer IP header, else the PCP of the outer VLAN tag, else 0. -/
def tidOf (d : List Byte) : Nat :=
  let b (k : Nat) : Nat := (d.getD k 0).toNat
  let et (k : Nat) : Nat := b k * 256 + b (k + 1)
  let tag1 := et 12 = 0x8100 ∨ et 12 = 0x88A8
  let tag2 := tag1 ∧ et 16 = 0x8100
  let o := if tag2 then 20 else if tag1 then 16 else 12
  if et o = 0x0800 then b (o + 3) / 32
  else if et o = 0x86DD then (b (o + 2) * 256 + b (o + 3)) / 2 ^ 9 % 8
  else if tag1 then b 14 / 32 else 0

/-- Put a frame of `d` into the packet buffer, its units already charged to `src`; header words 0 to 7 as given (R263, R300). -/
def State.putFrame (s : State) (src : Nat) (d : List Byte) (hdr : List Word) : State × Nat :=
  let n := unitsOf d.length
  let r := s.takeCells s.pktUsed pktCells n
  let s := r.1
  let a := pktBase + 256 * r.2.headD 0
  let f : Frame := ⟨a, r.2, d.length, src, n, tidOf d⟩
  let s := s.setPkt (fun p => { p with frames := p.frames ++ [f] })
  let s := s.setWords a (hdr ++ List.replicate (16 - hdr.length) 0)
  (s.setFrameBytes f 0 d, a)

/-- Header words 0 to 7 (R300). -/
def hdrWords (iport len : Nat) (ptpev msec : Bool) (gt : GTime) (ns bssClient : Nat) : List Word :=
  [BitVec.ofNat 32 (iport * 2 ^ 28 + (if ptpev then 2 ^ 25 else 0) + (if msec then 2 ^ 24 else 0) + len),
   gt.extractLsb' 0 32, gt.extractLsb' 32 32, BitVec.ofNat 32 ns, BitVec.ofNat 32 (ns / 2 ^ 32),
   BitVec.ofNat 32 bssClient, 0, 0]

/-- A stored frame waits for the PPE (R263). -/
def State.toPpe (s : State) (a : Nat) : State := s.setPkt (fun p => { p with ppeIn := p.ppeIn ++ [a] })

/-! ## Reservations (R15) -/

/-- The key of a source in the table of reservations. -/
def rxKey : RxSource → Nat
  | .eth p => p.val
  | .wifi r => 8 + r.idx
  | .field => 11

/-- Return what is still reserved for a source, and forget the reservation. -/
def State.unreserve (s : State) (src : RxSource) : State :=
  let n := Sparse.getN s.pkt.rsvd (rxKey src) - 1
  let s := s.setPkt (fun p => { p with rsvd := Sparse.putN p.rsvd (rxKey src) 0 })
  match src with
  | .eth p => s.release p.val n
  | .wifi r => s.rxGive r.idx n
  | .field => s.rxGive 3 n

/-- A reservation is granted. -/
def State.reserved (s : State) (src : RxSource) (n : Nat) : State :=
  s.setPkt (fun p => { p with rsvd := Sparse.putN p.rsvd (rxKey src) (n + 1) })

/-- A port sends a PAUSE of ETH_PAUSEQ quanta (R304). -/
def State.sendPause (s : State) (p : Nat) : State :=
  if s.rb (F.ETH_CTRL_PAUSE p) then
    (s.emit (.pause p (s.rf (F.ETH_PAUSEQ_Q p)))).setPkt (fun q => { q with pauseSend := Sparse.putN q.pauseSend p 1 })
  else s

/-- A port reserves the units of its configured maximum length (R15); a refusal discards the frame, is counted, and sends
a PAUSE where PAUSE is set (R303, R304). -/
def State.reserveEth (s : State) (p : Fin 6) : State :=
  let n := unitsOf (s.rf (F.ETH_MAXLEN_LEN p.val))
  match s.charge p.val n with
  | some s => (s.reserved (.eth p) n).setPkt (fun q => { q with pauseSend := Sparse.putN q.pauseSend p.val 0 })
  | none => ((s.countRefused).bump (R.ETH_CNT_RXDROP p.val)).sendPause p.val

/-- A MAC reserves for the length of the delimiter or of the PHR, in its radio's receive pool (R15, R315). -/
def State.reserveRadio (s : State) (src : RxSource) (r len : Nat) : State :=
  let n := unitsOf len
  if len ≤ maxFrame ∧ n ≤ s.rxFree r then (s.rxTake r n).reserved src n else s

/-- RECEIVE_RESERVE (R15): what an earlier frame of the source left reserved has been returned at its end. -/
def execReceiveReserve (src : RxSource) (len : Nat) (s : State) : Host.Outcome State Fault Refusal :=
  let s := s.unreserve src
  match src with
  | .eth p => .next (s.reserveEth p)
  | .wifi r => .next (s.reserveRadio src r.idx len)
  | .field => .next (s.reserveRadio src 3 len)

/-! ## Moves between buffers (R12, R16, R17) -/

/-- The received MPDU with a number. -/
def State.rxmpdu (s : State) (n : Nat) : Option RxMpdu := s.rxmpdus.find? (fun m => m.num == n)
/-- The staged MPDU with a number. -/
def State.mpdu (s : State) (n : Nat) : Option Mpdu := s.mpdus.find? (fun m => m.num == n)

/-- Take an MPDU out of its transmit pool and release its units. -/
def State.dropMpdu (s : State) (n : Nat) : State :=
  match s.mpdu n with
  | none => s
  | some m => { s with mpdus := s.mpdus.filter (fun x => x.num != n) }.txGive m.radio m.units

/-- The address of client record `i` (R182). -/
def clAddr (i : Nat) : Nat := 0x11040000 + 0x100 * i
/-- A field of a client record: word, highest and lowest bit (R183). -/
def State.cr (s : State) (i w hi lo : Nat) : Nat := s.mf (clAddr i + 4 * w) hi lo
/-- Write a field of a client record. -/
def State.setRec (s : State) (i w hi lo n : Nat) : State := s.wmf (clAddr i + 4 * w) hi lo n
/-- Units of an MPDU leave a client's staged counts. -/
def State.unstage (s : State) (m : Mpdu) : State :=
  if m.client = 0xFFF then s
  else
    let s := s.setRec m.client 7 15 0 (s.cr m.client 7 15 0 - m.units)
    s.setRec m.client (17 + 4 * m.radio) 15 0 (s.cr m.client (17 + 4 * m.radio) 15 0 - m.units)

/-- An MPDU leaves its transmit pool and its client's staged counts. -/
def State.endMpdu (s : State) (n : Nat) : State :=
  match s.mpdu n with
  | none => s
  | some m => (s.unstage m).dropMpdu n

/-- Take a received MPDU out of its receive pool and release its units. -/
def State.dropRx (s : State) (n : Nat) : State :=
  match s.rxmpdu n with
  | none => s
  | some m => { s with rxmpdus := s.rxmpdus.filter (fun x => x.num != n) }.rxGive m.radio m.units

/-- The first released MPDU of a radio that has no move yet (R16, R151). -/
def State.releaseHead (s : State) (r : Nat) : Option RxMpdu :=
  s.rxmpdus.find? (fun m => m.radio == r && m.released &&
    !s.pkt.xfers.any (fun x => x.release && x.mpdu == m.num))

/-- FRAME_FORWARD (R16): the head of the released MPDUs of a radio goes to the packet buffer once the pool holds credits
for the whole frame. -/
def execFrameForward (r : WRadio) (s : State) : Host.Outcome State Fault Refusal :=
  match s.releaseHead r.idx with
  | none => .next s
  | some m =>
    match s.charge (8 + r.idx) (unitsOf m.data.length) with
    | none => .next s.countRefused
    | some s => .next (s.setPkt (fun p => { p with xfers := p.xfers ++ [⟨r.idx, true, none, m.num, false⟩] }))

/-- The first move of a radio in one direction. -/
def State.firstXfer (s : State) (r : Nat) (release : Bool) : Option Xfer :=
  s.pkt.xfers.find? (fun x => x.radio == r && x.release == release)

/-- A release has been stored in the packet buffer (R12): the frame waits for the PPE, and the radio buffer is free. -/
def State.releaseStored (s : State) (m : RxMpdu) : State :=
  let h := hdrWords (8 + m.radio) m.data.length false false m.stamp 0 (m.bss * 2 ^ 12 + m.client)
  let r := s.putFrame (8 + m.radio) m.data h
  (r.1.toPpe r.2).dropRx m.num

/-- A staging or a moved copy has been stored in the radio buffer (R12): the packet buffer's frame, or the original, is
free. -/
def State.stageStored (s : State) (x : Xfer) : State :=
  let s := { s with mpdus := s.mpdus.map (fun m => if m.num = x.mpdu then { m with stored := true } else m) }
  match x.frame with
  | none => s
  | some a => if x.moved then s.endMpdu a else s.dropFrame a

/-- The address and length of what each cell of a frame holds of its `len` stored bytes. -/
def cellSpans (base len : Nat) : List Nat → List (Nat × Nat)
  | [] => []
  | c :: cs => (base + 256 * c, min 256 len) :: cellSpans base (len - 256) cs

/-- Some word of a list of ranges is uncorrectable. -/
def State.spansBad (s : State) (l : List (Nat × Nat)) : Bool := l.any (fun p => p.2 != 0 && s.eccBad p.1 p.2)
/-- A list of ranges is read through the code. -/
def State.spansRead (s : State) (reader : Nat) (l : List (Nat × Nat)) : State :=
  l.foldl (fun s p => s.eccRead reader p.1 p.2) s

/-- A path channel's error is counted and raises its event (R334). -/
def State.pathCount (s : State) (n : Nat) : State := (s.bump R.DMA_CNT_PATHERR).raise (128 + n / 4)

/-- A path channel's error drops the frame that it moves and releases its units (R334). -/
def State.pathDrop (s : State) (x : Xfer) : State :=
  let s := s.setPkt (fun p => { p with xfers := p.xfers.erase x })
  if x.release then
    match s.rxmpdu x.mpdu with
    | none => s.pathCount (9 + x.radio)
    | some m => ((s.release (8 + m.radio) (unitsOf m.data.length)).dropRx m.num).pathCount (9 + x.radio)
  else
    let s := s.endMpdu x.mpdu
    (match x.frame with
     | none => s
     | some a => if x.moved then s.endMpdu a else s.dropFrame a).pathCount (6 + x.radio)

/-- What a path channel reads for a move. -/
def State.xferSpans (s : State) (x : Xfer) : List (Nat × Nat) :=
  if x.release then
    match s.rxmpdu x.mpdu with
    | none => []
    | some m => cellSpans (rbBase m.radio) m.data.length m.cells
  else
    match x.frame with
    | none => []
    | some a =>
      if x.moved then
        match s.mpdu a with
        | none => []
        | some m => cellSpans (rbBase m.radio) (256 * m.cells.length) m.cells
      else
        match s.frame a with
        | none => []
        | some f => cellSpans pktBase (64 + f.len) f.cells

/-- FRAME_STORED (R12): a staging to radio `r`, or a release from it, has been stored whole downstream. -/
def execFrameStored (r : WRadio) (release : Bool) (s : State) : Host.Outcome State Fault Refusal :=
  match s.firstXfer r.idx release with
  | none => .next s
  | some x =>
    let bad := s.spansBad (s.xferSpans x)
    let s := s.spansRead Ini.DMA (s.xferSpans x)
    if bad then .next (s.pathDrop x) else
    let s := s.setPkt (fun p => { p with xfers := p.xfers.erase x })
    if release then
      match s.rxmpdu x.mpdu with
      | none => .next s
      | some m => .next (s.releaseStored m)
    else .next (s.stageStored x)

/-- CREDIT_RETURN (R17): a buffer of a radio buffer that is no MPDU is released, and its units return to its pool. -/
def execCreditReturn (r : Radio) (a : Nat) (s : State) : Host.Outcome State Fault Refusal :=
  match s.pkt.rbufs.find? (fun b => b.radio == r.idx && b.addr == a) with
  | none => .next s
  | some b =>
    let s := s.setPkt (fun p => { p with rbufs := p.rbufs.erase b })
    .next (if b.rx then s.rxGive r.idx b.units else s.txGive r.idx b.units)

/-- Put a buffer of `n` consecutive units into a radio buffer's pool, when it holds the credits: the new state and the
buffer's address. -/
def State.takeRun (s : State) (r n : Nat) (rx : Bool) : Option (State × Nat) :=
  if (if rx then s.rxFree r else s.txFree r) < n then none
  else
    let used := s.rbUsed r
    match probeRun used (rbCells r) n (rbCells r) (s.free % rbCells r) with
    | none => none
    | some c =>
      let a := rbBase r + 256 * c
      let s := if rx then s.used.rxTake r n else s.used.txTake r n
      some (s.setPkt (fun p => { p with rbufs := p.rbufs ++ [⟨r, a, n, rx⟩] }), a)

end Sys2Proof.Machine
end

