-- ==== Sys2Proof/Machine/PpeParse.lean ====
section
/-! DEFINITION. The packet engine's parse graph, classes and spread hash, as functions of a frame's bytes (R264, R267 to
R271), and its rewrites of those bytes (R290 to R294). A frame's bytes end with its 4-byte FCS (R13). -/

namespace Sys2Proof.Machine

/-- Byte `k` of a frame; 0 beyond its end. -/
def b8 (d : List Byte) (k : Nat) : Nat := (d.getD k 0).toNat
/-- Two bytes, the first high. -/
def b16 (d : List Byte) (k : Nat) : Nat := b8 d k * 256 + b8 d (k + 1)
/-- A range of bytes; those beyond the frame are zero. -/
def sub (d : List Byte) (k n : Nat) : List Byte := (List.range n).map (fun j => d.getD (k + j) 0)
/-- Bytes put in the place of others. -/
def splice (d : List Byte) (k : Nat) (l : List Byte) : List Byte := d.take k ++ l ++ d.drop (k + l.length)
/-- A 16-bit number as two bytes, the high one first. -/
def be16 (n : Nat) : List Byte := [BitVec.ofNat 8 (n / 256), BitVec.ofNat 8 n]
/-- A 32-bit number, the high byte first. -/
def be32 (n : Nat) : List Byte := be16 (n / 65536) ++ be16 n

/-- What the tunnel settings recognise: VXLAN and its port, GRE, IP-in-IP, the IPv4 checksum check. -/
structure ParseCfg where
  vxlan : Bool
  vxPort : Nat
  gre : Bool
  ipip : Bool
  csum : Bool

/-- An Ethernet header with its tags: EtherType, the offset after it, tags, their TCIs; `trunc` says that the tag limit was
exceeded (R267, R269). -/
structure L2 where
  et : Nat
  next : Nat
  tags : Nat
  tci1 : Nat
  tci2 : Nat
  trunc : Bool

/-- Parse an Ethernet header at `o`. -/
def parseL2 (d : List Byte) (o : Nat) : L2 :=
  let e0 := b16 d (o + 12)
  let isTag (e : Nat) : Bool := e == 0x8100 || e == 0x88A8
  if isTag e0 then
    let e1 := b16 d (o + 16)
    if e1 = 0x8100 then
      let e2 := b16 d (o + 20)
      ⟨e2, o + 22, 2, b16 d (o + 14), b16 d (o + 18), isTag e2⟩
    else ⟨e1, o + 18, 1, b16 d (o + 14), 0, false⟩
  else ⟨e0, o + 14, 0, 0, 0, false⟩

/-- An IP header with its extension headers: version, protocol, the offset of the L4 header, the end of the IP payload,
fragment, a failed check (ODD), a limit exceeded (TRUNC). -/
structure L3 where
  v6 : Bool
  proto : Nat
  l4 : Nat
  stop : Nat
  frag : Bool
  /-- The fragment offset is not zero. -/
  later : Bool
  odd : Bool
  trunc : Bool

/-- Walk extension headers and AH: at most 6 (R267). -/
def extWalk (d : List Byte) (stop : Nat) (v6 : Bool) : Nat → L3 → L3
  | 0, x =>
    if x.proto = 51 ∨ (v6 ∧ (x.proto = 0 ∨ x.proto = 43 ∨ x.proto = 44 ∨ x.proto = 60)) then { x with trunc := true } else x
  | n + 1, x =>
    let o := x.l4
    let len :=
      if x.proto = 51 then (b8 d (o + 1) + 2) * 4
      else if x.proto = 44 then 8
      else (b8 d (o + 1) + 1) * 8
    if x.proto = 51 ∨ (v6 ∧ (x.proto = 0 ∨ x.proto = 43 ∨ x.proto = 44 ∨ x.proto = 60)) then
      if stop < o + len then { x with odd := true }
      else
        let isF := decide (x.proto = 44)
        extWalk d stop v6 n { x with
          proto := b8 d o
          l4 := o + len
          frag := x.frag || isF
          later := x.later || (isF && b16 d (o + 2) / 8 != 0) }
    else x

/-- Parse an IP header at `o`; `len` is the frame's length without its FCS. -/
def parseL3 (c : ParseCfg) (d : List Byte) (o len : Nat) (v6 : Bool) : L3 :=
  if v6 then
    let pl := b16 d (o + 4)
    let bad := b8 d o / 16 ≠ 6 ∨ len < o + 40 + pl
    let x : L3 := ⟨true, b8 d (o + 6), o + 40, o + 40 + pl, false, false, decide bad, false⟩
    if bad then x else extWalk d x.stop true 6 x
  else
    let ihl := b8 d o % 16
    let tot := b16 d (o + 2)
    let f := b16 d (o + 6)
    let bad := b8 d o / 16 ≠ 4 ∨ ihl < 5 ∨ tot < ihl * 4 ∨ len < o + tot ∨ (c.csum ∧ inetSum (sub d o (ihl * 4)) ≠ 0)
    let x : L3 := ⟨false, b8 d (o + 9), o + ihl * 4, o + tot, f / 0x2000 % 2 == 1 || f % 0x2000 != 0, f % 0x2000 != 0,
      decide bad, false⟩
    if bad then x else extWalk d x.stop false 6 x

/-- L4 checks of R269. -/
def l4Odd (d : List Byte) (x : L3) : Bool :=
  if x.proto = 6 then decide (b8 d (x.l4 + 12) / 16 < 5)
  else if x.proto = 17 then decide (b16 d (x.l4 + 4) < 8 ∨ x.stop < x.l4 + b16 d (x.l4 + 4))
  else false

/-- Bytes of the L4 header that the parser needs. -/
def l4Need (x : L3) : Nat := if x.proto = 6 then 20 else if x.proto = 17 ∨ x.proto = 50 then 8 else if x.proto = 47 then 4 else 4

/-- ESP behind UDP port 4500 (R267). -/
def natT (d : List Byte) (x : L3) : Bool := x.proto == 17 && b16 d (x.l4 + 2) == 4500 && sub d (x.l4 + 8) 4 != [0, 0, 0, 0]

/-- What the parser found in a frame. -/
structure Parsed where
  pclass : Nat
  et : Nat
  tci1 : Nat
  tci2 : Nat
  tags : Nat
  l3 : Option Nat
  l4 : Option Nat
  ip : Option L3
  inEth : Option Nat
  inL3 : Option Nat
  inL4 : Option Nat
  frag : Bool
  odd : Bool
  trunc : Bool

/-- The inner packet at `o`: its Ethernet offset if it has one, its L3 and L4 offsets, ODD, TRUNC. -/
def parseInner (c : ParseCfg) (d : List Byte) (o len et : Nat) : Option Nat × Option Nat × Option Nat × Bool × Bool :=
  let e := parseL2 d o
  let eth := decide (et = 0x6558)
  let et' := if eth then e.et else et
  let at_ := if eth then e.next else o
  if eth && e.trunc then (some o, none, none, false, true)
  else if et' = 0x0800 ∨ et' = 0x86DD then
    let x := parseL3 c d at_ len (decide (et' = 0x86DD))
    let l4 := if x.frag ∨ x.odd ∨ x.trunc ∨ !([6, 17, 1, 58, 2, 50].contains x.proto) then none else some x.l4
    (if eth then some o else none, some at_, l4, x.odd || (l4.isSome && l4Odd d x), x.trunc || decide (256 < x.l4 + 8))
  else (if eth then some o else none, none, none, false, false)

/-- The tunnel of an outer packet: its class, the inner packet's offset and EtherType (R267). -/
def tunnelOf (c : ParseCfg) (d : List Byte) (x : L3) : Option (Nat × Nat × Nat) :=
  if x.proto = 17 ∧ c.vxlan ∧ b16 d (x.l4 + 2) = c.vxPort then some (16, x.l4 + 16, 0x6558)
  else if x.proto = 47 ∧ c.gre ∧ b8 d (x.l4 + 1) % 8 = 0 then
    let g := b8 d x.l4
    let o := x.l4 + 4 + 4 * (g / 128 % 2 + g / 32 % 2 + g / 16 % 2)
    let t := b16 d (x.l4 + 2)
    if t = 0x6558 ∨ t = 0x0800 ∨ t = 0x86DD then some (17, o, t) else none
  else if (x.proto = 4 ∨ x.proto = 41) ∧ c.ipip then some (18, x.l4, if x.proto = 4 then 0x0800 else 0x86DD)
  else none

/-- The class of an outer IP packet without a tunnel (R268). -/
def ipClass (d : List Byte) (x : L3) : Nat :=
  if x.frag then (if x.v6 then 13 else 12)
  else if x.proto = 6 then (if x.v6 then 7 else 2)
  else if x.proto = 50 ∨ natT d x then (if x.v6 then 10 else 5)
  else if x.proto = 17 then (if x.v6 then 8 else 3)
  else if x.v6 then (if x.proto = 58 then 9 else 11)
  else if x.proto = 1 ∨ x.proto = 2 then 4 else 6

/-- Parse a frame (R267 to R270). -/
def parse (c : ParseCfg) (d : List Byte) : Parsed :=
  let len := d.length - 4
  let e := parseL2 d 0
  let base : Parsed := ⟨0, e.et, e.tci1, e.tci2, e.tags, none, none, none, none, none, none, false, false, false⟩
  if e.trunc then { base with pclass := 21, trunc := true }
  else if e.et = 0x0806 then { base with pclass := 1 }
  else if e.et = 0x888E then { base with pclass := 14 }
  else if e.et = 0x88F7 ∨ e.et = 0x88CC then { base with pclass := 15 }
  else if e.et = 0x0800 ∨ e.et = 0x86DD then
    let x := parseL3 c d e.next len (decide (e.et = 0x86DD))
    let p := { base with l3 := some e.next, ip := some x, frag := x.frag }
    if x.odd then { p with pclass := 20, odd := true }
    else if x.trunc ∨ 256 < x.l4 then { p with pclass := 21, trunc := true }
    else if x.frag then { p with pclass := ipClass d x }
    else
      let known := [6, 17, 1, 2, 50, 47, 4, 41].contains x.proto || (x.v6 && x.proto == 58)
      let p := { p with l4 := if known then some x.l4 else none }
      if l4Odd d x then { p with pclass := 20, odd := true }
      else if known && decide (256 < x.l4 + l4Need x) then { p with pclass := 21, trunc := true }
      else
        match tunnelOf c d x with
        | none => { p with pclass := ipClass d x }
        | some (k, o, t) =>
          if 256 < o then { p with pclass := 21, trunc := true }
          else
            let i := parseInner c d o len t
            let p := { p with inEth := i.1, inL3 := i.2.1, inL4 := i.2.2.1 }
            if i.2.2.2.1 then { p with pclass := 20, odd := true }
            else if i.2.2.2.2 then { p with pclass := 21, trunc := true }
            else { p with pclass := k }
  else base

/-- An inner packet was parsed. -/
def Parsed.inner (p : Parsed) : Bool := p.inL3.isSome || p.inEth.isSome

/-! ## The spread hash (R264) -/

/-- A list of bits, the msb of byte 0 first. -/
def bitsOf (l : List Nat) : List Bool := l.flatMap (fun b => [7, 6, 5, 4, 3, 2, 1, 0].map (fun k => b / 2 ^ k % 2 == 1))

/-- The Toeplitz hash of some bits under a key: 32 key bits from the key's bit `i`. -/
def toeplitz (key : Nat) (bitsLen : Nat) : Nat → List Bool → Nat
  | _, [] => 0
  | i, b :: bs => (if b then key / 2 ^ (bitsLen - 32 - i) % 2 ^ 32 else 0) ^^^ toeplitz key bitsLen (i + 1) bs

/-- The spread input: the addresses, then the ports; with `symm` the numerically lower pair first. -/
def spreadInput (d : List Byte) (p : Parsed) (symm : Bool) : List Nat :=
  let n (l : List Byte) : List Nat := l.map (·.toNat)
  let ord (a b pa pb : List Nat) : List Nat :=
    let swap := symm && decide (Sha.be b < Sha.be a ∨ (a = b ∧ Sha.be pb < Sha.be pa))
    if swap then b ++ a ++ pb ++ pa else a ++ b ++ pa ++ pb
  match p.l3, p.ip with
  | some o, some x =>
    let w := if x.v6 then 16 else 4
    let sa := n (sub d (o + (if x.v6 then 8 else 12)) w)
    let da := n (sub d (o + (if x.v6 then 24 else 16)) w)
    if (x.proto = 6 ∨ x.proto = 17) ∧ !x.frag ∧ p.l4.isSome then ord sa da (n (sub d x.l4 2)) (n (sub d (x.l4 + 2) 2))
    else ord sa da [] []
  | _, _ => ord (n (sub d 0 6)) (n (sub d 6 6)) [] []

/-! ## Rewrites (R290 to R294) -/

/-- An Internet checksum after 16-bit words changed from `old` to `new`. -/
def ckAdjust (ck : Nat) (old new : List Byte) : Nat :=
  0xFFFF - ocSum (ocSum (0xFFFF - ck) (old.map (fun b => 255 - b))) new

/-- Recompute the checksum of the IPv4 header at `o`. -/
def ipv4Sum (d : List Byte) (o : Nat) : List Byte :=
  let n := b8 d o % 16 * 4
  let z := splice d (o + 10) [0, 0]
  splice z (o + 10) (be16 (inetSum (sub z o n)))

/-- Decrement the TTL or hop limit of the IP header at `o`. -/
def decTtl (d : List Byte) (o : Nat) (v6 : Bool) : List Byte :=
  if v6 then splice d (o + 7) [BitVec.ofNat 8 (b8 d (o + 7) - 1)]
  else ipv4Sum (splice d (o + 8) [BitVec.ofNat 8 (b8 d (o + 8) - 1)]) o

/-- Change `n` bytes at `k`, and the L4 checksum at `ck` with them, where there is one. -/
def natField (ck : Option Nat) (d : List Byte) (k : Nat) (l : List Byte) : List Byte :=
  let old := sub d k l.length
  let d := splice d k l
  match ck with
  | none => d
  | some c => splice d c (be16 (ckAdjust (b16 d c) old l))

/-- NAT on the IPv4 packet at `o` (R290, R292): `l4` holds when the packet carries its L4 header. -/
def natRewrite (d : List Byte) (o : Nat) (x : L3) (w0 w1 w2 w3 : Nat) : List Byte :=
  let hasL4 := !x.later && (x.proto == 6 || x.proto == 17) && decide (x.l4 + (if x.proto = 6 then 18 else 8) ≤ x.stop)
  let ck := if !hasL4 then none
    else if x.proto = 6 then some (x.l4 + 16)
    else if b16 d (x.l4 + 6) = 0 then none else some (x.l4 + 6)
  let d := if w3 / 2 ^ 31 % 2 = 1 then natField ck d (o + 12) (be32 w0) else d
  let d := if w3 / 2 ^ 30 % 2 = 1 then natField ck d (o + 16) (be32 w1) else d
  let d := if w3 / 2 ^ 29 % 2 = 1 ∧ hasL4 then natField ck d x.l4 (be16 (w2 / 65536)) else d
  let d := if w3 / 2 ^ 28 % 2 = 1 ∧ hasL4 then natField ck d (x.l4 + 2) (be16 w2) else d
  let d := match ck with
    | some c => if x.proto = 17 ∧ b16 d c = 0 then splice d c [0xFF, 0xFF] else d
    | none => d
  ipv4Sum d o

/-- A VLAN operation (R293): 1 push, 2 pop, 3 replace; none where it is not applied. -/
def vlanOp (d : List Byte) (op tags tpid tci : Nat) : Option (List Byte) :=
  if op = 1 then
    if tags = 2 then none else some (d.take 12 ++ be16 tpid ++ be16 tci ++ d.drop 12)
  else if tags = 0 then none
  else if op = 2 then some (d.take 12 ++ d.drop 16)
  else some (splice d 14 (be16 (tci / 0x2000 * 0x2000 + b16 d 14 / 0x1000 % 2 * 0x1000 + tci % 0x1000)))

/-- Remove the outer headers through the tunnel header (R294): an inner Ethernet frame stands for itself; an inner IP packet
keeps the outer Ethernet header, with its own EtherType. -/
def decap (d : List Byte) (p : Parsed) : List Byte :=
  match p.inEth, p.inL3, p.l3 with
  | some o, _, _ => d.drop o
  | none, some o, some l3 => splice (d.take l3) (l3 - 2) (be16 (if b8 d o / 16 = 6 then 0x86DD else 0x0800)) ++ d.drop o
  | _, _, _ => d

/-- Prepend a template after the Ethernet header (R294): flags [11] IPv4 checksum, [10] IP length, [9] UDP length, [8] IPv6. -/
def encap (d : List Byte) (l3 : Nat) (tmpl : List Byte) (flags : Nat) : List Byte :=
  let n := d.length - 4 - l3 + tmpl.length
  let v6 := flags / 256 % 2 = 1
  let t := if flags / 1024 % 2 = 1 then (if v6 then splice tmpl 4 (be16 (n - 40)) else splice tmpl 2 (be16 n)) else tmpl
  let t := if flags / 512 % 2 = 1 then (if v6 then splice t 44 (be16 (n - 40)) else splice t 24 (be16 (n - 20))) else t
  let t := if flags / 2048 % 2 = 1 ∧ !v6 then ipv4Sum t 0 else t
  d.take l3 ++ t ++ d.drop l3

end Sys2Proof.Machine
end

