-- ==== Sys2Proof/Machine/Ppe.lean ====
section
/-! DEFINITION. The packet engine (R262 to R301, R308, R310): dispatch, traps, keys, the exact-match table, actions and
dispositions, and the table update operations. -/

namespace Sys2Proof.Machine

/-- Change the packet engine's state. -/
def State.setPpe (s : State) (f : PpeSt → PpeSt) : State := { s with ppe := f s.ppe }

/-- PPE_STAT.IDLE: no frame waits in the engine. -/
def State.ppeSync (s : State) : State := s.wb F.PPE_STAT_IDLE (s.ppe.waits.isEmpty && s.ppe.legacy.isEmpty)

/-- The parser's settings. -/
def State.parseCfg (s : State) : ParseCfg :=
  ⟨s.rb F.PPE_TUNCFG_VXLAN, s.rf F.PPE_VXLANPORT_PORT, s.rb F.PPE_TUNCFG_GRE, s.rb F.PPE_TUNCFG_IPIP, s.rb F.PPE_ODD_CSUMCHK⟩

/-- The 40-byte Toeplitz key (R264). -/
def State.tKey (s : State) : Nat := (List.range 10).foldl (fun n k => n * 2 ^ 32 + s.regN (R.PPE_TKEY k)) 0

/-- T of a frame. -/
def State.spread (s : State) (d : List Byte) (p : Parsed) : Word :=
  BitVec.ofNat 32 (toeplitz s.tKey 320 0 (bitsOf (spreadInput d p (s.rb F.PPE_CTRL_SYMM))))

/-- A queue from an indirection table (R288, R299). -/
def State.indQueue (s : State) (t : Nat) (h : Word) : Nat :=
  let e := h.toNat % 256
  if e % 2 = 1 then s.rf (F.PPE_IND_QB t (e / 2)) else s.rf (F.PPE_IND_QA t (e / 2))

/-- The queue of misses, and that of the other punts (R299). -/
def State.missQueue (s : State) (h : Word) : Nat :=
  if s.rb F.PPE_MISSQ_SPREAD then s.indQueue (s.rf F.PPE_MISSQ_TABLE) h else s.rf F.PPE_MISSQ_QUEUE
def State.puntQueue (s : State) (h : Word) : Nat :=
  if s.rb F.PPE_PUNTQ_SPREAD then s.indQueue (s.rf F.PPE_PUNTQ_TABLE) h else s.rf F.PPE_PUNTQ_QUEUE

/-! ## Results (R266, R300) -/

/-- A result goes to the queue manager, in legacy mode through the reorder stage; none is a drop. -/
def State.ppeResult (s : State) (a : Nat) (q : Option Nat) : State :=
  if s.ppe.legacy.any (fun e => e.addr == a && !e.done) then
    s.setPpe (fun p => { p with legacy := p.legacy.map (fun (e : LegRes) =>
      if e.addr == a && !e.done then { e with done := true, queue := q } else e) })
  else
    match q with
    | some q => s.setPkt (fun p => { p with qmgIn := p.qmgIn ++ [(a, q)] })
    | none => s

/-- Drop a frame: its units are released (R299). -/
def State.ppeDrop (s : State) (a : Nat) : State := (s.ppeResult a none).dropFrame a

/-- Header words 8 to 15 (R300). -/
def PpeRun.header (r : PpeRun) (mod : Bool) : List Word :=
  [BitVec.ofNat 32 (r.pclass * 2 ^ 27 + (if r.frag then 2 ^ 26 else 0) + (if r.inner then 2 ^ 25 else 0) +
      (if r.second then 2 ^ 24 else 0) + r.profile % 16 * 2 ^ 20 + r.result * 2 ^ 16 + r.reason * 2 ^ 8 + (if mod then 128 else 0)),
   BitVec.ofNat 32 r.offs, r.h1, r.t, r.act, r.w9, r.tag, r.w15]

/-- The frame's bytes as they stand in the packet buffer. -/
def State.storedBytes (s : State) (a : Nat) : List Byte :=
  match s.frame a with
  | some f => s.frameBytes f 0 f.len
  | none => []

/-- Hand a frame to a queue, unchanged. -/
def State.ppePunt (s : State) (r : PpeRun) (reason q : Nat) : State :=
  (s.setWords (r.addr + 32) (({ r with reason := reason }).header false)).ppeResult r.addr (some q)

/-- A rewritten frame has its units: it is stored, and goes to its queue. -/
def State.ppeStore (s : State) (r : PpeRun) : State :=
  match s.frame r.addr with
  | none => s
  | some f =>
    let n := unitsOf r.data.length
    let mod := r.data != s.frameBytes f 0 f.len
    let x := s.takeCells s.pktUsed pktCells (n - f.cells.length)
    let g : Frame := { f with cells := f.cells ++ x.2, len := r.data.length, units := max n f.units, tid := tidOf r.data }
    let s := x.1.setFrame g
    let s := if mod then s.setFrameBytes g 0 r.data else s
    (s.setWords (r.addr + 32) (r.header mod)).ppeResult r.addr (some r.queue)

/-- The end of an action (R298): a lengthened frame takes its extra units from the pool, or waits for them. -/
def State.ppeFinish (s : State) (r : PpeRun) : State :=
  match s.frame r.addr with
  | none => s
  | some f =>
    let n := unitsOf r.data.length
    if maxFrame < r.data.length then (s.bump R.PPE_CNT_DROP).ppeDrop r.addr
    else if n ≤ f.units then s.ppeStore r
    else
      match s.charge f.src (n - f.units) with
      | some s => s.ppeStore r
      | none => s.countRefused.setPpe (fun p => { p with waits := p.waits ++ [{ r with step := 3 }] })

/-! ## Actions (R288 to R297) -/

/-- A word of the run's action record (R289). -/
def State.actRec (s : State) (r : PpeRun) (k : Nat) : Nat := s.regN (R.PPE_ACTREC (bits r.w9 26 16) k)

/-- A template's bytes and its flags. -/
def State.template (s : State) (n : Nat) : List Byte × Nat :=
  let w := s.reg (R.PPE_TMPL_W0 n)
  ((wordBytes ((List.range 28).map (fun k => s.reg (R.PPE_TMPL_W n k)))).take (bits w 6 0), w.toNat)

/-- The mirror copy (R296): a new frame, when the pool grants its units at once. -/
def State.mirror (s : State) (r : PpeRun) : State :=
  match s.frame r.addr with
  | none => s
  | some f =>
    let len := s.actRec r 5 % 2 ^ 14
    let d := if len = 0 then r.data else r.data.take len
    match s.charge f.src (unitsOf d.length) with
    | none => s.countRefused.bump R.PPE_CNT_MIRDROP
    | some s =>
      let x := s.putFrame f.src d (s.words r.addr 8)
      let s := x.1.setWords (x.2 + 32) (r.header false)
      s.setPkt (fun p => { p with qmgIn := p.qmgIn ++ [(x.2, bits (BitVec.ofNat 32 (s.actRec r 5)) 28 16)] })

/-- Count a frame in its flow counter (R297). -/
def State.flowCount (s : State) (r : PpeRun) : State :=
  let n := bits r.w9 10 0
  let add (t : Sparse Nat) (k v : Nat) : Sparse Nat := Sparse.putN t k ((Sparse.getN t k + v) % 2 ^ 64)
  let l := bits (s.hdr r.addr 0) 13 0
  s.setPpe (fun p => { p with ctr := add (add p.ctr (2 * n) 1) (2 * n + 1) l })

/-- The disposition (R288, R299): `again` classifies the frame a second time. -/
def State.dispose (again : State → PpeRun → State) (s : State) (r : PpeRun) : State :=
  let a := r.act
  let recirc := s.actRec r 4 / 2 ^ 31 = 1 ∧ (bits a 25 24 = 2 ∨ bits a 23 22 = 2)
  if recirc then again s r
  else if bits a 31 30 = 0 then (s.bump R.PPE_CNT_DROP).ppeDrop r.addr
  else if bits a 31 30 = 1 then s.ppeFinish { r with queue := bits a 12 0 }
  else if bits a 31 30 = 2 then s.ppeFinish { r with queue := bits a 12 0, reason := 0x80 }
  else s.ppeFinish { r with queue := s.indQueue (bits a 15 13) r.t }

/-- From the VLAN operation on (R290). -/
def State.ppeTail (again : State → PpeRun → State) (s : State) (r : PpeRun) : State :=
  let op := bits r.act 27 26
  let w3 := s.actRec r 3
  let p := parse s.parseCfg r.data
  let x :=
    if op = 0 then (s, r)
    else
      match vlanOp r.data op p.tags (if w3 / 2 ^ 16 % 2 = 1 then 0x88A8 else 0x8100) (w3 % 2 ^ 16) with
      | some d => (s, { r with data := d })
      | none => (s.bump R.PPE_CNT_VLANERR, r)
  let s := if x.2.act.getLsbD 20 then x.1.flowCount x.2 else x.1
  s.dispose again x.2

/-- Pass a frame to the cipher engine (R295). -/
def State.ppeCrypt (s : State) (r : PpeRun) (step : Nat) : State :=
  (s.setPpe (fun p => { p with waits := p.waits ++ [{ r with step := step }] })).espStart r.addr (s.actRec r 4 % 2 ^ 16) r.data

/-- From NAT to encapsulation (R290). -/
def State.ppeMiddle (again : State → PpeRun → State) (s : State) (r : PpeRun) : State :=
  let p := parse s.parseCfg r.data
  let nat := r.act.getLsbD 29
  let w3 := s.actRec r 3
  let punt (reason : Nat) : State := s.ppePunt r reason (s.puntQueue r.t)
  let go (r : PpeRun) : State :=
    let r :=
      if bits r.act 25 24 = 1 then
        let t := s.template (s.actRec r 4 / 2 ^ 24 % 64)
        let q := parse s.parseCfg r.data
        { r with data := encap r.data (q.l3.getD 14) t.1 t.2 }
      else r
    if bits r.act 23 22 = 1 then s.ppeCrypt r 2 else s.ppeTail again r
  match p.l3, p.ip with
  | some o, some x =>
    if !nat then go r
    else if x.v6 then punt 0x08
    else if x.frag ∧ w3 / 2 ^ 28 % 4 ≠ 0 then punt 0x06
    else go { r with data := natRewrite r.data o x (s.actRec r 0) (s.actRec r 1) (s.actRec r 2) w3 }
  | _, _ => go r

/-- The action of an entry (R290), from its beginning. -/
def State.ppeAction (again : State → PpeRun → State) (s : State) (r : PpeRun) : State :=
  let p := parse s.parseCfg r.data
  let ttl := match p.l3, p.ip with
    | some o, some x => some (o, x.v6, if x.v6 then b8 r.data (o + 7) else b8 r.data (o + 8))
    | _, _ => none
  let dec := r.act.getLsbD 28
  if dec && ttl.any (fun t => decide (t.2.2 ≤ 1)) then (s.bump R.PPE_CNT_TTL).ppePunt r 0x05 (s.puntQueue r.t)
  else
    let s := if r.act.getLsbD 21 then s.mirror r else s
    let r := match ttl with
      | some (o, v6, _) => if dec then { r with data := decTtl r.data o v6 } else r
      | none => r
    let r := if bits r.act 25 24 = 2 then { r with data := decap r.data (parse s.parseCfg r.data) } else r
    if bits r.act 23 22 = 2 then s.ppeCrypt r 1 else s.ppeMiddle again r

/-! ## The exact-match table (R272 to R281) -/

/-- The DRAM stage takes part in lookups (R277, R281). -/
def State.dramStage (s : State) : Bool := s.rb F.PPE_CTRL_DRAMEN && s.ready Fn.DRAM

/-- The address of a slot (R276, R277). -/
def State.slotAddr (s : State) (dram : Bool) (k : Nat) : Nat :=
  if dram then s.reg64 R.PPE_DRAMBASE_LO R.PPE_DRAMBASE_HI + 256 * (k / 5) + 48 * (k % 5)
  else 0x10D00000 + 192 * (k / 4) + 48 * (k % 4)

/-- KLEN of a profile: the sum of its LEN fields (R274). -/
def State.profLen (s : State) (n : Nat) : Nat := (List.range 16).foldl (fun t k => t + s.rf (F.PPE_PROF_INSTR_LEN n k)) 0

/-- The key of an entry: the bytes of words 1 to 7, and of words 1 to 9 of the second slot of a wide entry. -/
def State.entryKey (s : State) (a klen : Nat) (wide : Bool) : List Byte :=
  (s.bytes (a + 4) 28 ++ (if wide then s.bytes (a + 52) 36 else [])).take klen

/-- A slot matches a key (R279). -/
def State.slotMatch (s : State) (a prof : Nat) (key : List Byte) : Bool :=
  let w := s.read32 a
  w.getLsbD 31 && !w.getLsbD 29 && bits w 27 24 == prof && bits w 23 16 == key.length &&
    s.entryKey a key.length (w.getLsbD 30) == key

/-- H1 and H2 of a key (R275). -/
def State.hash1 (s : State) (prof : Nat) (key : List Byte) : Nat :=
  crcFinal 32 0xFFFFFFFF true (crcFeed 32 0x1EDC6F41 true (reflect 32 (s.regN R.PPE_HSEED1))
    (BitVec.ofNat 8 prof :: BitVec.ofNat 8 key.length :: key))
def State.hash2 (s : State) (prof : Nat) (key : List Byte) : Nat :=
  crcFinal 32 0xFFFFFFFF true (crcFeed 32 0x04C11DB7 true (reflect 32 (s.regN R.PPE_HSEED2))
    (BitVec.ofNat 8 prof :: BitVec.ofNat 8 key.length :: key))

/-- The lookup (R279): the slot, whether it is in DRAM, and the state with what the lookup counts. -/
def State.lookup (s : State) (prof : Nat) (key : List Byte) : State × Option (Nat × Bool) :=
  let h1 := s.hash1 prof key
  let b1 := h1 % 2 ^ 14
  let h2 := s.hash2 prof key % 2 ^ 14
  let b2 := if h2 = b1 then b1 ^^^ 1 else h2
  let slots := [0, 1, 2, 3].map (fun k => 4 * b1 + k) ++ [0, 1, 2, 3].map (fun k => 4 * b2 + k)
  match slots.filter (fun k => s.slotMatch (s.slotAddr false k) prof key) with
  | k :: more => (if more.isEmpty then s else (s.bump R.PPE_CNT_DUPKEY).raise 100, some (k, false))
  | [] =>
    if !s.dramStage then (s, none)
    else
      let d := h1 / 2 ^ 14 % 2 ^ s.rf F.PPE_DRAMCFG_DSZ
      if s.eccBad (s.slotAddr true (5 * d)) 256 then (((s.eccRead Ini.PPE (s.slotAddr true (5 * d)) 256).bump R.PPE_CNT_DRAMERR).raise 97, none)
      else
        (s, (([0, 1, 2, 3, 4].map (fun k => 5 * d + k)).find? (fun k => s.slotMatch (s.slotAddr true k) prof key)).map
          (fun k => (k, true)))

/-- The HIT word of an entry (R280). -/
def State.hitStamp (s : State) (k : Nat) (dram : Bool) : State :=
  let a := s.slotAddr dram k + 44
  let c := s.gtN / 2 ^ 24 % 2 ^ 32
  let old := (s.read32 a).toNat
  if dram then (if 255 < (c + 2 ^ 32 - old) % 2 ^ 32 then s.write32 a (BitVec.ofNat 32 c) else s)
  else if c = old then s else s.write32 a (BitVec.ofNat 32 c)

/-- The metadata block (R273). -/
def State.metadata (s : State) (iport : Nat) (second : Bool) (p : Parsed) : List Byte :=
  be16 (s.rf (F.PPE_PORTCFG_VRF iport)) ++ [BitVec.ofNat 8 iport, BitVec.ofNat 8 p.pclass] ++ be16 p.tci1 ++ be16 p.tci2 ++
    [BitVec.ofNat 8 ((if p.frag then 1 else 0) + (if p.inner then 2 else 0) + (if second then 4 else 0)), 0, 0, 0, 0, 0, 0, 0]

/-- The bytes an extract instruction takes (R273). -/
def extract (d md : List Byte) (p : Parsed) (src off len : Nat) : List Byte :=
  let from_ (o : Option Nat) : List Byte := match o with | some k => sub d (k + off) len | none => List.replicate len 0
  if src = 0 then sub md off len
  else if src = 1 then sub d off len
  else if src = 2 then from_ p.l3
  else if src = 3 then from_ (if p.frag then none else p.l4)
  else if src = 4 then from_ p.inEth
  else if src = 5 then from_ p.inL3
  else if src = 6 then from_ p.inL4
  else List.replicate len 0

/-- The key of a frame under a profile (R273). -/
def State.keyOf (s : State) (prof iport : Nat) (second : Bool) (d : List Byte) (p : Parsed) : List Byte :=
  let md := s.metadata iport second p
  let raw := (List.range 16).flatMap (fun k =>
    if s.rb (F.PPE_PROF_INSTR_EN prof k) then
      extract (d.take 256) md p (s.rf (F.PPE_PROF_INSTR_SRC prof k)) (s.rf (F.PPE_PROF_INSTR_OFFSET prof k))
        (s.rf (F.PPE_PROF_INSTR_LEN prof k))
    else [])
  let mask := s.reg64 (R.PPE_PROF_MASK_LO prof) (R.PPE_PROF_MASK_HI prof)
  let n := s.profLen prof
  (List.range n).map (fun j => if mask / 2 ^ j % 2 = 1 then raw.getD j 0 else 0)

/-- The profile of a port group and class (R272). -/
def State.profileOf (s : State) (iport pclass : Nat) : Option Nat :=
  let b := bits (s.reg (R.PPE_PSEL (s.rf (F.PPE_PORTCFG_PGRP iport)) (pclass / 4))) (8 * (pclass % 4) + 7) (8 * (pclass % 4))
  if b / 128 = 1 then some (b % 16) else none

/-! ## Classification (R263, R271) -/

/-- The traps a frame matches (R271). -/
def State.trapMatch (s : State) (d : List Byte) (p : Parsed) (t : Nat) : Bool :=
  let l4 := p.l4.getD 0
  let proto := (p.ip.map (·.proto)).getD 0
  let udp := p.l4.isSome && proto == 17
  let dport := b16 d (l4 + 2)
  let icmp6 := p.l4.isSome && proto == 58
  let ty := b8 d l4
  if t = 0 then p.pclass == 1
  else if t = 1 then icmp6 && decide (133 ≤ ty ∧ ty ≤ 137)
  else if t = 2 then p.pclass == 14
  else if t = 3 then p.et == 0x88F7 || (udp && (dport == 319 || dport == 320))
  else if t = 4 then udp && s.rf F.PPE_HDPPORT_PORT != 0 && dport == s.rf F.PPE_HDPPORT_PORT
  else if t = 5 then (p.l4.isSome && proto == 2) || (icmp6 && (decide (130 ≤ ty ∧ ty ≤ 132) || ty == 143))
  else if t = 6 then p.et == 0x88CC
  else sub d 0 5 == [0x01, 0x80, 0xC2, 0x00, 0x00] && decide (b8 d 5 < 16)

/-- The lowest enabled trap that matches. -/
def State.trapOf (s : State) (d : List Byte) (p : Parsed) : Option Nat :=
  [0, 1, 2, 3, 4, 5, 6, 7].find? (fun t => s.rb (F.PPE_TRAP_EN t) && s.trapMatch d p t)

/-- Header word 9. -/
def offsWord (p : Parsed) : Nat :=
  let o (x : Option Nat) : Nat := match x with | some k => if k < 255 then k else 255 | none => 255
  o p.l3 * 2 ^ 24 + o p.l4 * 2 ^ 16 + o p.inL3 * 2 ^ 8 + o p.inL4

/-- Decide a frame (R263 to R290): `again` is what a recirculation does. -/
def State.classify (again : State → PpeRun → State) (s : State) (a iport : Nat) (second : Bool) (d : List Byte) : State :=
  let p := parse s.parseCfg d
  let t := s.spread d p
  let r : PpeRun := ⟨a, iport, second, d, 0, 0, 0, 0, 0xFFFFFFFF, 0, t, p.pclass, p.frag, p.inner, offsWord p, 0, 0, 0, 0⟩
  let s := if p.frag then s.bump R.PPE_CNT_FRAG else s
  if p.odd then
    let s := s.bump R.PPE_CNT_ODD
    if s.rb F.PPE_ODD_ODDPUNT then s.ppePunt { r with result := 4 } 0x03 (s.puntQueue t) else s.ppeDrop a
  else if p.trunc then
    let s := s.bump R.PPE_CNT_TRUNC
    if s.rb F.PPE_ODD_TRUNCPUNT then s.ppePunt { r with result := 5 } 0x04 (s.puntQueue t) else s.ppeDrop a
  else
    match s.trapOf d p with
    | some k => (s.bump R.PPE_CNT_TRAP).ppePunt { r with result := 3 } (0x10 + k) (s.rf (F.PPE_TRAP_QUEUE k))
    | none =>
      match s.profileOf iport p.pclass with
      | none => (s.bump R.PPE_CNT_NOPROF).ppePunt { r with result := 6 } 0x02 (s.missQueue t)
      | some prof =>
        let key := s.keyOf prof iport second d p
        let r := { r with profile := prof, h1 := BitVec.ofNat 32 (s.hash1 prof key) }
        let x := s.lookup prof key
        match x.2 with
        | none => (x.1.bump R.PPE_CNT_MISS).ppePunt { r with result := 2 } 0x01 (s.missQueue t)
        | some (k, dram) =>
          let e := s.slotAddr dram k
          let s := (x.1.bump (if dram then R.PPE_CNT_HITDRAM else R.PPE_CNT_HIT)).hitStamp k dram
          let r := { r with
            result := if dram then 1 else 0
            act := s.read32 (e + 32)
            w9 := s.read32 (e + 36)
            tag := s.read32 (e + 40)
            w15 := BitVec.ofNat 32 ((if dram then 2 ^ 31 else 0) + k) }
          s.ppeAction again r

/-- A second recirculation: the frame is punted as it stands (R294). -/
def State.puntAsIs (s : State) (r : PpeRun) : State := s.ppeFinish { r with queue := s.puntQueue r.t, reason := 0x07 }

/-- A recirculation: the frame is classified again with IPORT 14 (R294). -/
def State.recirculate (s : State) (r : PpeRun) : State :=
  (s.bump R.PPE_CNT_RECIRC).classify State.puntAsIs r.addr 14 true r.data

/-- What a run does when its action asks for a recirculation. -/
def State.againOf (r : PpeRun) : State → PpeRun → State := if r.second then State.puntAsIs else State.recirculate

/-- PACKET_CLASSIFY (R263): the oldest stored frame. While a write to PIPE_TAB waits, or the reorder stage of legacy mode is
full, no frame is dispatched (R265, R266). -/
def execPacketClassify (s : State) : Host.Outcome State Fault Refusal :=
  match s.pkt.ppeIn with
  | [] => .next s
  | a :: rest =>
    if !s.rb F.PPE_CTRL_EN ∨ !s.ready Fn.PACKET ∨ !s.ppe.pipePend.isEmpty ∨ 1024 ≤ s.ppe.legacy.length then .next s
    else
      let s := (s.setPkt (fun p => { p with ppeIn := rest })).bump R.PPE_CNT_RX
      let iport := bits (s.hdr a 0) 31 28
      let s := if s.rb F.PPE_CTRL_SPMODE then
          s.setPpe (fun p => { p with legacy := p.legacy ++ [⟨iport, a, false, none⟩] }) else s
      .next (s.classify State.recirculate a iport false (s.storedBytes a)).ppeSync

/-- ESP_RESULT (R295): the oldest answer of the cipher engine for a frame of the packet engine. -/
def execEspResult (s : State) : Host.Outcome State Fault Refusal :=
  match s.cry.espDone with
  | [] => .next s
  | (a, status, d) :: rest =>
    let s := s.setCry (fun c => { c with espDone := rest })
    match s.ppe.waits.find? (fun r => r.addr == a && (r.step == 1 || r.step == 2)) with
    | none => .next s
    | some r =>
      let s := s.setPpe (fun p => { p with waits := p.waits.erase r })
      if status ≠ St.OK then .next (((s.bump R.PPE_CNT_CRYERR).raise 101).ppeDrop a).ppeSync
      else
        let r' := { r with data := d }
        .next (if r.step = 1 then s.ppeMiddle (State.againOf r) r' else s.ppeTail (State.againOf r) r').ppeSync

/-- REWRITE_UNITS_GRANT (R298): the first frame that waits for units and for which the pool now holds them. -/
def execRewriteUnitsGrant (s : State) : Host.Outcome State Fault Refusal :=
  match s.ppe.waits.find? (fun r => r.step == 3) with
  | none => .next s
  | some r =>
    match s.frame r.addr with
    | none => .next s
    | some f =>
      match s.charge f.src (unitsOf r.data.length - f.units) with
      | none => .next s
      | some s => .next ((s.setPpe (fun p => { p with waits := p.waits.erase r })).ppeStore r).ppeSync

/-- The first result of each ingress port of a list that is done, when it is its port's oldest. -/
def legHead : List Nat → List LegRes → Option LegRes
  | _, [] => none
  | seen, e :: es => if seen.contains e.iport then legHead seen es else if e.done then some e else legHead (e.iport :: seen) es

/-- LEGACY_REORDER_RELEASE (R266). -/
def execLegacyReorderRelease (s : State) : Host.Outcome State Fault Refusal :=
  match legHead [] s.ppe.legacy with
  | none => .next s
  | some e =>
    let s := s.setPpe (fun p => { p with legacy := p.legacy.erase e })
    match e.queue with
    | some q => .next (s.setPkt (fun p => { p with qmgIn := p.qmgIn ++ [(e.addr, q)] })).ppeSync
    | none => .next s.ppeSync

/-! ## PIPE_TAB, fences and table updates (R265, R284 to R287) -/

/-- PIPE_TAB_WRITE (R265). -/
def execPipeTabWrite (i : Init) (w : Fin 32) (v : Word) (s : State) : Host.Outcome State Fault Refusal :=
  .next (s.onWrite i (R.PPE_PIPE_TAB w.val) (fun s => s.setPpe (fun p => { p with pipePend := p.pipePend ++ [(w.val, v &&& 0x77777777)] })))

/-- PIPE_TAB_APPLY (R265). -/
def execPipeTabApply (s : State) : Host.Outcome State Fault Refusal :=
  match s.ppe.pipePend with
  | [] => .next s
  | (w, v) :: rest => .next ((s.setPpe (fun p => { p with pipePend := rest })).setReg (R.PPE_PIPE_TAB w) v)

/-- FENCE_START (R284). -/
def execFenceStart (i : Init) (v : Word) (s : State) : Host.Outcome State Fault Refusal :=
  .next (s.onWrite i R.PPE_FENCE (fun s =>
    if !v.getLsbD 0 then s
    else ((s.setPpe (fun p => { p with fence := some (p.waits.map (·.addr)) })).wb F.PPE_FENCE_DONE false).wb F.PPE_STAT_FENCEBUSY true))

/-- FENCE_DONE (R284): once no frame whose lookup began before the START is still in the engine. -/
def execFenceDone (s : State) : Host.Outcome State Fault Refusal :=
  match s.ppe.fence with
  | none => .next s
  | some l =>
    if s.ppe.waits.any (fun r => l.contains r.addr) then .next s
    else .next (((s.setPpe (fun p => { p with fence := none })).wb F.PPE_FENCE_DONE true).wb F.PPE_STAT_FENCEBUSY false)

/-- A write to PPE_UPD_CMD (R286, R287). -/
def State.updStart (s : State) (i : Init) (opc : Nat) (dram : Bool) (slot : Nat) : State :=
  s.onWrite i R.PPE_UPD_CMD (fun s =>
    if s.rb F.PPE_STAT_UPDBUSY then s.refuse R.PPE_ERR St.BUSY 96
    else ((s.setPpe (fun p => { p with upd := some (opc, dram, slot) })).wb F.PPE_STAT_UPDBUSY true).wb F.PPE_UPD_RES_DONE false)

/-- UPD_WRITE (R286). -/
def execUpdWrite (i : Init) (dram : Bool) (slot : BitVec 24) (s : State) : Host.Outcome State Fault Refusal :=
  .next (s.updStart i 1 dram slot.toNat)
/-- UPD_CLEAR (R286). -/
def execUpdClear (i : Init) (dram : Bool) (slot : BitVec 24) (s : State) : Host.Outcome State Fault Refusal :=
  .next (s.updStart i 2 dram slot.toNat)
/-- UPD_HASH (R286). -/
def execUpdHash (i : Init) (dram : Bool) (slot : BitVec 24) (s : State) : Host.Outcome State Fault Refusal :=
  .next (s.updStart i 3 dram slot.toNat)

/-- A staged word, and the staged key. -/
def State.updW (s : State) (k : Nat) : Word := s.reg (R.PPE_UPD_W k)
def State.updKey (s : State) : List Byte :=
  (wordBytes ((List.range 7).map (fun k => s.updW (1 + k)) ++ (List.range 9).map (fun k => s.updW (13 + k)))).take (bits (s.updW 0) 23 16)

/-- A slot index lies in its table, and a wide entry starts where it may. -/
def State.slotOk (s : State) (dram : Bool) (k : Nat) (wide : Bool) : Bool :=
  if dram then decide (k < 5 * 2 ^ s.rf F.PPE_DRAMCFG_DSZ) && !(wide && k % 5 == 4)
  else decide (k < 65536) && !(wide && k % 2 == 1)

/-- The operation itself, with its status (R287). -/
def State.updRun (s : State) (opc : Nat) (dram : Bool) (k : Nat) : State × Nat :=
  let prof := bits (s.updW 0) 27 24
  let lenOk := bits (s.updW 0) 23 16 == s.profLen prof
  let a := s.slotAddr dram k
  if opc = 3 then
    if !lenOk then (s, St.RANGE)
    else ((s.setRegN R.PPE_HQ_H1 (s.hash1 prof s.updKey)).setRegN R.PPE_HQ_H2 (s.hash2 prof s.updKey), St.OK)
  else if dram && !s.dramStage then (s, St.NOTREADY)
  else if opc = 1 then
    let wide := (s.updW 0).getLsbD 30
    if !s.slotOk dram k wide || !lenOk then (s, St.RANGE)
    else (s.setWords a ((List.range (if wide then 24 else 12)).map s.updW), St.OK)
  else if !s.slotOk dram k false then (s, St.RANGE)
  else (s.setWords a (List.replicate (if (s.read32 a).getLsbD 30 then 24 else 12) 0), St.OK)

/-- UPD_COMPLETE (R287). -/
def execUpdComplete (s : State) : Host.Outcome State Fault Refusal :=
  match s.ppe.upd with
  | none => .next s
  | some (opc, dram, k) =>
    let x := s.updRun opc dram k
    let s := (x.1.setPpe (fun p => { p with upd := none })).wb F.PPE_STAT_UPDBUSY false
    let s := (s.wf F.PPE_UPD_RES_STATUS x.2).wb F.PPE_UPD_RES_DONE true
    .next (if x.2 = St.OK then s else s.raise 96)

/-- MISS_ALARM (R308). -/
def execMissAlarm (grew : Nat) (s : State) : Host.Outcome State Fault Refusal :=
  if s.rf F.PPE_ALM_MISS < grew then .next (s.raise 98) else .next s
/-- ODD_ALARM (R308). -/
def execOddAlarm (grew : Nat) (s : State) : Host.Outcome State Fault Refusal :=
  if s.rf F.PPE_ALM_ODD < grew then .next (s.raise 99) else .next s

/-- PPE_COUNTER_READ (R310): the low word, which latches the high word. -/
def execPpeCounterRead (i : Init) (n : Fin 2048) (bytes : Bool) (s : State) : Host.Outcome State Fault Refusal :=
  let k := if bytes then 2 else 0
  .next (s.onRead i (R.PPE_CTR n.val k) (fun s =>
    let v := Sparse.getN s.ppe.ctr (2 * n.val + k / 2)
    (s.setRegN (R.PPE_CTR n.val (k + 1)) (v / 2 ^ 32)).answer i (BitVec.ofNat 32 v)))

end Sys2Proof.Machine
end

