-- ==== Sys2Proof/Machine/StpBase.lean ====
section
/-! DEFINITION. Steppe's client records (R182 to R185), the staging allowance (R188), the choice of a link and staging (R155
to R158, R191, R192), and what QMG's depth reports change (R185, R197, R321). -/

namespace Sys2Proof.Machine

/-! Record states (R184) and Steppe's own (R186). -/
namespace Cl
def AWAKE : Nat := 0
def DOZE : Nat := 1
def SP : Nat := 2
def WIDEN : Nat := 3
def LISTEN : Nat := 4
def LOST : Nat := 5
def ABSENT : Nat := 6
def SUSP : Nat := 7
end Cl
namespace Stp
def OFF : Nat := 0
def IDLE : Nat := 1
def RUN : Nat := 2
end Stp

/-- A 64-bit grid time in two words of a record. -/
def State.recGt (s : State) (i w : Nat) : GTime := BitVec.ofNat 64 (s.readN (clAddr i + 4 * w) 8)
/-- Write it. -/
def State.setRecGt (s : State) (i w : Nat) (g : GTime) : State := s.writeN (clAddr i + 4 * w) 8 g.toNat
/-- KIND and STATE of a record. -/
def State.recKind (s : State) (i : Nat) : Nat := s.cr i 0 31 28
def State.recState (s : State) (i : Nat) : Nat := s.cr i 0 27 24

/-- Change Steppe's state. -/
def State.setStp (s : State) (f : StpSt → StpSt) : State := { s with stp := f s.stp }

/-- STP_STAT.LOST counts the records in LISTEN or LOST (R215). -/
def lostBit (st : Nat) : Nat := if st = Cl.LISTEN ∨ st = Cl.LOST then 1 else 0

/-- A record changes its state; STP_STAT follows. -/
def State.setRecState (s : State) (i st : Nat) : State :=
  let n := s.rf F.STP_STAT_LOST + lostBit st - lostBit (s.recState i)
  (s.setRec i 0 27 24 st).wf F.STP_STAT_LOST n

/-! ## The staging allowance (R188) -/

/-- Microseconds as a span of grid time. -/
def State.usToUnits (s : State) (us : Nat) : Nat := s.nsToUnits (us * 1000)

/-- A record's next wake lies within STP_PRESTAGE from now (R188). -/
def State.preStage (s : State) (i : Nat) : Bool :=
  let d := (s.recGt i 36 - s.gt).toNat
  decide (d < 2 ^ 63 ∧ d ≤ s.usToUnits (s.rf F.STP_PRESTAGE_US))

/-- Link `k` is one a client may use at all: in LINKS and ready (R192, R194). -/
def State.linkUp (s : State) (i k : Nat) : Bool := s.cr i 0 (12 + k) (12 + k) == 1 && s.ready (Fn.RADIO k)

/-- RATE of a client on link `k`. -/
def State.linkRate (s : State) (i k : Nat) : Nat := s.cr i (17 + 4 * k) 31 16

/-- The highest RATE among the links a client may use. -/
def State.bestRate (s : State) (i : Nat) : Nat :=
  [0, 1, 2].foldl (fun m k => if s.linkUp i k then max m (s.linkRate i k) else m) 0

/-- STGLIM as it is now (R188). -/
def State.stgLim (s : State) (i : Nat) : Nat :=
  let st := s.recState i
  if s.rf F.STP_STAT_STATE ≠ Stp.RUN then 0
  else if st = Cl.LISTEN ∨ st = Cl.LOST ∨ st = Cl.SUSP ∨ (st = Cl.DOZE ∧ !s.preStage i) then 0
  else min (max 8 ((s.bestRate i * s.rf F.STP_STGTIME_US + 2047) / 2048)) (s.rf F.STP_STGCAP_U)

/-- Keep STGLIM of a WIFI record. -/
def State.keepLim (s : State) (i : Nat) : State := if s.recKind i = 1 then s.setRec i 7 31 16 (s.stgLim i) else s

/-! ## Backlog (R185, R197) -/

/-- Units a client has queued or staged. -/
def State.backlog (s : State) (i : Nat) : Nat :=
  [0, 1, 2, 3, 4, 5, 6, 7].foldl (fun n t => n + s.cr i (8 + t) 31 16) (s.cr i 7 15 0)

/-- Serial order of 32-bit numbers: `a` is before `b` (R197). -/
def serialLt (a b : Nat) : Bool := let d := (b + 2 ^ 32 - a % 2 ^ 32) % 2 ^ 32; decide (d ≠ 0 ∧ d < 2 ^ 31)

/-- The lowest of a list of DEBT values, as serial numbers. -/
def serialMin : List Nat → Option Nat
  | [] => none
  | x :: xs => match serialMin xs with | none => some x | some m => some (if serialLt x m then x else m)

/-- A client becomes backlogged: its DEBT is raised to the lowest among the clients backlogged on a radio it shares (R197). -/
def State.raiseDebt (s : State) (i : Nat) : State :=
  let others := s.stp.recs.filter (fun j => j != i && decide (j < 2048) && (s.cr j 0 14 12 &&& s.cr i 0 14 12) != 0 &&
    s.backlog j != 0)
  match serialMin (others.map (fun j => s.cr j 40 31 0)) with
  | none => s
  | some m => if serialLt (s.cr i 40 31 0) m then s.setRec i 40 31 0 m else s

/-- Age of a grid time in 64 µs units, saturating at 16 bits. -/
def State.age64 (s : State) (g : GTime) : Nat := min ((s.gt - g).toNat * 2 ^ 28 / (s.regN R.GTU_INC * 64000)) 0xFFFF

/-- The headers of the frames of a TID of a client that wait in the packet buffer, in queue order. -/
def State.tidFrames (s : State) (i t : Nat) : List Nat :=
  let qs := [s.cr i 4 28 16, s.cr i 4 12 0, s.cr i 5 28 16, s.cr i 5 12 0]
  (s.pkt.queues.filter (fun e => qs.contains e.1)).flatMap (fun e =>
    e.2.filter (fun a => match s.frame a with | some f => f.tid == t | none => false))

/-- HOLAGE follows the oldest queued frame of a TID at each report. -/
def State.keepHol (s : State) (i t : Nat) : State :=
  let ages := (s.tidFrames i t).map (fun a => s.age64 (BitVec.ofNat 64 (s.readN (a + 4) 8)))
  s.setRec i (8 + t) 15 0 (ages.foldl max 0)

/-- QMG reports an enqueue of `u` units of a TID (R185, R321). -/
def State.reportIn (s : State) (i t u : Nat) : State :=
  if s.recKind i ≠ 1 then s
  else
    let idle := s.backlog i == 0
    let s := if idle then s.raiseDebt i else s
    (s.setRec i (8 + t) 31 16 (min (s.cr i (8 + t) 31 16 + u) 0xFFFF)).keepHol i t

/-- QMG reports a dequeue (R185). -/
def State.reportOut (s : State) (i t u : Nat) : State :=
  if s.recKind i ≠ 1 then s
  else (s.setRec i (8 + t) 31 16 (s.cr i (8 + t) 31 16 - u)).keepHol i t

/-! ## Staging (R155, R157, R191, R192) -/

/-- Length of a payload as an MPDU: a QoS data header of 26 bytes, LLC/SNAP of 8, the FCS, and under protection a header of
8 and a MIC of 16 (AES-256) or 8 (AES-128). -/
def mpduLen (payload mic : Nat) : Nat := 26 + 8 + payload + 4 + (if mic = 0 then 0 else 8 + mic)

/-- The payload of an 802.3 frame: without its addresses, tags, type and FCS. -/
def payloadLen (d : List Byte) : Nat :=
  let et (k : Nat) : Nat := (d.getD k 0).toNat * 256 + (d.getD (k + 1) 0).toNat
  let tag1 := et 12 = 0x8100 ∨ et 12 = 0x88A8
  let tags := if tag1 ∧ et 16 = 0x8100 then 2 else if tag1 then 1 else 0
  d.length - (18 + 4 * tags)

/-- The key slot of a client's active key ID (R159). -/
def State.actSlot (s : State) (i : Nat) : Nat := if s.cr i 6 31 31 = 1 then s.cr i 6 25 16 else s.cr i 6 9 0

/-- MIC bytes of a client's protection. -/
def State.micOf (s : State) (i : Nat) : Nat :=
  if s.cr i 6 30 30 = 0 then 0
  else if (s.slot (s.actSlot i)).typ = 0 then 8 else 16

/-- Link `k` is eligible for a TID of a client (R192): it may be used, TIDLINK allows it, and the client is not in doze. -/
def State.linkOk (s : State) (i t k : Nat) : Bool :=
  s.linkUp i k && s.cr i 50 (3 * t + k) (3 * t + k) == 1 && (s.recState i != Cl.DOZE || s.preStage i)

/-- The cost of a link as a fraction (R192). -/
def State.linkCost (s : State) (i k u : Nat) : Nat × Nat :=
  let rate := s.linkRate i k
  ((s.cr i (17 + 4 * k) 15 0 + u) * 2048 + s.rf (F.STP_LWAIT_US k) * rate, rate)

/-- One cost is below another; a RATE of zero costs most. -/
def costLt (a b : Nat × Nat) : Bool := decide (a.1 * b.2 < b.1 * a.2)

/-- The link for an MPDU of `u` units: the least cost among the eligible links with credits, ties to H, then M, then L (R192). -/
def State.chooseLink (s : State) (i t u : Nat) : Option Nat :=
  [2, 1, 0].foldl (fun best k =>
    if s.linkOk i t k && decide (u ≤ s.txFree k) then
      match best with
      | none => some k
      | some b => if costLt (s.linkCost i k u) (s.linkCost i b u) then some k else best
    else best) none

/-- The first event number of a Wi-Fi MAC. -/
def macEv (k : Nat) : Nat := 48 + 8 * k

/-- A Wi-Fi radio by its number. -/
def wradio (k : Nat) : WRadio := if k = 0 then .l else if k = 1 then .m else .h

/-- Take an SN of a TID (R155, R183). -/
def State.takeSn (s : State) (i t : Nat) : State × Nat :=
  let w := 42 + t / 2
  let lo := if t % 2 = 1 then 16 else 0
  let n := s.cr i w (lo + 11) lo
  (s.setRec i w (lo + 11) lo (n + 1), n)

/-- Take a PN of a key ID (R155, R183). -/
def State.takePn (s : State) (i kid : Nat) : State × Nat :=
  let a := clAddr i + 4 * (46 + 2 * kid)
  let n := s.readN a 6
  (s.writeN a 6 (n + 1), n)

/-- Put an MPDU in a transmit pool: it is stored when DMA has moved it. -/
def State.putMpdu (s : State) (m : Mpdu) (frame : Option Nat) (moved : Bool) : State :=
  let r := s.takeCells (s.rbUsed m.radio) (rbCells m.radio) m.units
  let m := { m with cells := r.2, num := s.mpduNum }
  let s := { r.1 with mpdus := r.1.mpdus ++ [m], mpduNum := s.mpduNum + 1 }
  (s.txTake m.radio m.units).setPkt (fun p => { p with xfers := p.xfers ++ [⟨m.radio, false, frame, m.num, moved⟩] })

/-- An encryption at staging that does not end with OK: the MPDU is dropped (R158). -/
def State.encFail (s : State) (k : Nat) (aborted : Bool) : State :=
  let r := wradio k
  (s.bump (if aborted then R.MAC_CNT_CRYABORT r else R.MAC_CNT_NOKEY r)).raise (macEv k + 2)

/-- Stage a client's frame on link `k` (R155, R157, R191): SN and PN are taken, the units of the radio's pool are taken, and
the record's staged units follow. -/
def State.stageOn (s : State) (i k : Nat) (f : Frame) (aborted : Bool) : State :=
  let d := s.frameBytes f 0 f.len
  let len := mpduLen (payloadLen d) (s.micOf i)
  let u := unitsOf len
  let prot := s.cr i 6 30 30 = 1
  let kid := s.cr i 6 31 31
  let sn := s.takeSn i f.tid
  let pn := if prot then sn.1.takePn i kid else (sn.1, 0)
  let s := pn.1
  if prot && (aborted || (s.snapshot k (s.actSlot i) Usage.ENC).isNone) then
    (s.encFail k (aborted && (s.snapshot k (s.actSlot i) Usage.ENC).isSome)).dropFrame f.addr
  else
    let m : Mpdu := ⟨0, k, [], u, i, f.tid, sn.2, pn.2, kid, len, 0, s.gt, false, false, d⟩
    let s := s.putMpdu m (some f.addr) false
    let s := s.setRec i 7 15 0 (s.cr i 7 15 0 + u)
    s.setRec i (17 + 4 * k) 15 0 (s.cr i (17 + 4 * k) 15 0 + u)

end Sys2Proof.Machine
end

