-- ==== Sys2Proof/Machine/Qmg.lean ====
section
/-! DEFINITION. The queue manager (R312 to R323, R332): queue descriptors, commands, enqueue, policers, pools. -/

namespace Sys2Proof.Machine

/-! ## Descriptors (R318) -/

/-- The address of queue descriptor `q`. -/
def qAddr (q : Nat) : Nat := 0x11000000 + 0x20 * q
/-- A field of a descriptor. -/
def State.qd (s : State) (q w hi lo : Nat) : Nat := s.mf (qAddr q + 4 * w) hi lo
/-- Write a field of a descriptor. -/
def State.setQd (s : State) (q w hi lo n : Nat) : State := s.wmf (qAddr q + 4 * w) hi lo n

/-! Queue states. -/
namespace Qs
def FREE : Nat := 0
def STOPPED : Nat := 1
def ACTIVE : Nat := 2
end Qs

/-- The frames of a queue, head first. -/
def State.queue (s : State) (q : Nat) : List Nat := Sparse.get (fun _ => []) s.pkt.queues q

/-- HEAD, TAIL and FRAMES follow the queue's list. -/
def State.setQueue (s : State) (q : Nat) (l : List Nat) : State :=
  let s := s.setPkt (fun p => { p with queues := Sparse.put (fun _ => []) p.queues q l })
  let cell (a : Nat) : Nat := if a = 0 then 0 else (a - pktBase) / 256
  let s := s.setQd q 3 30 16 (cell (l.headD 0))
  (s.setQd q 3 14 0 (cell (l.getLastD 0))).setQd q 2 15 0 l.length

/-- QMG_STAT.IDLE: no command waits and no result of the PPE waits. -/
def State.qmgSync (s : State) : State := s.wb F.QMG_STAT_IDLE (s.pkt.qcmds.isEmpty && s.pkt.qmgIn.isEmpty)

/-- Add one to a wrapping 32-bit word of memory. -/
def State.incWord (s : State) (a : Nat) : State := s.write32 a (s.read32 a + 1)

/-! ## Pools (R314, R315, R317) -/

/-- The sum of the pending reservations. -/
def State.rsvSum (s : State) : Nat → Nat
  | 0 => 0
  | n + 1 => s.rsvSum n + s.rf (F.QMG_POOL_RSV n)

/-- Units source `i` holds beyond its pending reservation. -/
def State.beyond (s : State) (i : Nat) : Nat :=
  s.rf (F.QMG_POOLUSE_RSVD i) + s.rf (F.QMG_POOLUSE_SHARED i) - s.rf (F.QMG_POOL_RSV i)

/-- The sum of those units. -/
def State.beyondSum (s : State) : Nat → Nat
  | 0 => 0
  | n + 1 => s.beyondSum n + s.beyond n

/-- Every source takes its pending values; what it holds beyond them counts as shared holding. -/
def State.applyPools (s : State) : Nat → State
  | 0 => s
  | n + 1 =>
    let s := s.applyPools n
    let total := s.rf (F.QMG_POOLUSE_RSVD n) + s.rf (F.QMG_POOLUSE_SHARED n)
    let r := min total (s.rf (F.QMG_POOL_RSV n))
    let s := s.setReg (R.QMG_POOLACT n) (s.reg (R.QMG_POOL n))
    (s.wf (F.QMG_POOLUSE_RSVD n) r).wf (F.QMG_POOLUSE_SHARED n) (total - r)

/-- Record a refusal of QMG and raise EV112. -/
def State.qmgRefuse (s : State) (st : Nat) : State := s.refuse R.QMG_ERR st 112

/-- POOL_APPLY (R314). -/
def execPoolApply (i : Init) (v : Word) (s : State) : Host.Outcome State Fault Refusal :=
  .next (s.onWrite i R.QMG_POOLAPPLY (fun s =>
    if !v.getLsbD 0 then s
    else if 31744 < s.rsvSum 16 then s.qmgRefuse St.RANGE
    else
      let size := 32768 - s.rsvSum 16
      let held := s.beyondSum 16
      if size < held then s.qmgRefuse St.BUSY
      else (((s.applyPools 16).wf F.QMG_SHARED_SIZE size).wf F.QMG_SHARED_FREE (size - held)).raise 116))

/-- A MAC is in OFF or IDLE (R174, R256). -/
def State.macIdle (s : State) (r : Radio) : Bool :=
  match r with
  | .l => decide (s.rf (F.MAC_STAT_STATE .l) ≤ 1)
  | .m => decide (s.rf (F.MAC_STAT_STATE .m) ≤ 1)
  | .h => decide (s.rf (F.MAC_STAT_STATE .h) ≤ 1)
  | .s => decide (s.rf F.FMAC_STAT_STATE ≤ 1)

/-- A write to a radio's pools: the sum is fixed (R315). -/
def State.rpoolWrite (s : State) (r : Radio) (v : Word) : State :=
  if bits v 31 16 + bits v 15 0 ≠ rbCells r.idx then s.qmgRefuse St.RANGE
  else if !s.macIdle r then s.qmgRefuse St.STATE
  else s.setReg (R.QMG_RPOOL r.idx) v

/-- RPOOL_WRITE (R315). -/
def execRpoolWrite (i : Init) (r : Radio) (v : Word) (s : State) : Host.Outcome State Fault Refusal :=
  .next (s.onWrite i (R.QMG_RPOOL r.idx) (fun s => s.rpoolWrite r v))

/-- The frames selected for a port, oldest first. -/
def State.selOf (s : State) (p : Nat) : List Nat := Sparse.get (fun _ => []) s.pkt.sel p
/-- Replace them. -/
def State.setSel (s : State) (p : Nat) (l : List Nat) : State :=
  s.setPkt (fun k => { k with sel := Sparse.put (fun _ => []) k.sel p l })

/-- A frame leaves a port's window and the packet buffer. -/
def State.freeSel (s : State) (p a : Nat) : State :=
  let u := match s.frame a with | some f => f.units | none => 0
  let s := s.setSel p ((s.selOf p).filter (fun x => x != a))
  (s.wf (F.TMG_PORT_WIN_USE p) (s.rf (F.TMG_PORT_WIN_USE p) - u)).dropFrame a

/-- A delivered frame is freed (R317). -/
def State.qmgFree (s : State) (v : Word) : State :=
  match [7, 12, 13, 14].find? (fun p => (s.selOf p).contains v.toNat) with
  | none => s.qmgRefuse St.ABSENT
  | some p => s.freeSel p v.toNat

/-- QMG_FREE (R317). -/
def execQmgFree (i : Init) (v : Word) (s : State) : Host.Outcome State Fault Refusal :=
  .next (s.onWrite i R.QMG_FREE (fun s => s.qmgFree v))

/-! ## Token buckets (R323, R327) -/

/-- Add what a bucket has gained since its last refill, capped: `key` is its place in the tables of refills; a rate of
RATE kbit/s is RATE bytes in 8,000,000 ticks. -/
def State.refill (s : State) (key rate cap : Nat) (tokens : Int) : State × Int :=
  let dt := s.gtu.ticks - Sparse.getN s.pkt.refillAt key
  let x := dt * rate + Sparse.getN s.pkt.refillRem key
  let t := tokens + (x / 8000000 : Nat)
  let full := (cap : Int) ≤ t
  (s.setPkt (fun p => { p with
      refillAt := Sparse.putN p.refillAt key s.gtu.ticks
      refillRem := Sparse.putN p.refillRem key (if full then 0 else x % 8000000) }),
    if full then (cap : Int) else t)

/-- A signed 32-bit register. -/
def State.regI (s : State) (a : Nat) : Int := toSigned 32 (s.regN a)
/-- Write it. -/
def State.setRegI (s : State) (a : Nat) (i : Int) : State := s.setRegN a (ofSigned 32 i)

/-- Policer `i` adds the time since its last frame to both buckets (R323). -/
def State.polRefill (s : State) (i : Nat) : State :=
  let c := s.refill (4000 + 2 * i) (s.regN (R.QMG_POL_CIR i)) (s.regN (R.QMG_POL_CBS i)) (s.regI (R.QMG_POL_TC i))
  let s := c.1.setRegI (R.QMG_POL_TC i) c.2
  let p := s.refill (4001 + 2 * i) (s.regN (R.QMG_POL_PIR i)) (s.regN (R.QMG_POL_PBS i)) (s.regI (R.QMG_POL_TP i))
  p.1.setRegI (R.QMG_POL_TP i) p.2

/-- Both buckets are filled (R319, R323). -/
def State.polFill (s : State) (i : Nat) : State :=
  let s := (s.setReg (R.QMG_POL_TC i) (s.reg (R.QMG_POL_CBS i))).setReg (R.QMG_POL_TP i) (s.reg (R.QMG_POL_PBS i))
  s.setPkt (fun p => { p with
    refillAt := Sparse.putN (Sparse.putN p.refillAt (4000 + 2 * i) s.gtu.ticks) (4001 + 2 * i) s.gtu.ticks
    refillRem := Sparse.putN (Sparse.putN p.refillRem (4000 + 2 * i) 0) (4001 + 2 * i) 0 })

/-- Colours (R323). -/
inductive Colour where
  | green | yellow | red
deriving DecidableEq, Repr

/-- The mark of a frame of `b` bytes (R323). -/
def State.mark (s : State) (i b : Nat) : State × Colour :=
  if 1023 < i ∨ !s.rb (F.QMG_POL_CFG_EN i) then (s, .green)
  else
    let s := s.polRefill i
    let tc := s.regI (R.QMG_POL_TC i)
    let tp := s.regI (R.QMG_POL_TP i)
    if tp < b then (s, .red)
    else if tc < b then (s.setRegI (R.QMG_POL_TP i) (tp - b), .yellow)
    else ((s.setRegI (R.QMG_POL_TP i) (tp - b)).setRegI (R.QMG_POL_TC i) (tc - b), .green)

/-! ## Enqueue (R321) -/

/-- A frame is dropped at a queue: DROP counts it, and its units are released. -/
def State.qDrop (s : State) (q a : Nat) : State :=
  let s := s.setPkt (fun p => { p with smpDrop := Sparse.putN p.smpDrop q (Sparse.getN p.smpDrop q + 1) })
  (s.incWord (qAddr q + 28)).dropFrame a

/-- The ports' wait for a selection begins when a frame first waits (R331, TMG_PORT_p_STALLT). -/
def State.beginWait (s : State) (p : Nat) : State :=
  if s.pkt.queues.any (fun e => s.qd e.1 0 29 26 == p && !e.2.isEmpty) then s
  else s.setPkt (fun k => { k with waitAt := Sparse.putN k.waitAt p s.gtu.ticks })

/-- A frame is appended at the tail (R321). -/
def State.qAppend (s : State) (q : Nat) (f : Frame) : State :=
  let s := s.beginWait (s.qd q 0 29 26)
  let s := s.setQueue q (s.queue q ++ [f.addr])
  let s := s.setQd q 2 31 16 (s.qd q 2 31 16 + f.units)
  let s := (s.incWord (qAddr q + 24)).bump R.QMG_CNT_ENQ
  let c := s.qd q 5 27 16
  if c = 0xFFF then s else s.reportIn c f.tid f.units

/-- The checks of an enqueue, in their order (R321). -/
def State.enqueue (s : State) (q : Nat) (f : Frame) : State :=
  if s.qd q 0 31 30 = Qs.FREE then ((s.dropFrame f.addr).bump R.QMG_CNT_NOQ).raise 113
  else
    let pol := s.qd q 5 10 0
    let m := s.mark pol f.len
    let s := m.1
    let depth := s.qd q 2 31 16 + f.units
    let lim := if m.2 = .green then s.qd q 1 31 16 else s.qd q 1 15 0
    if m.2 = .red ∧ !s.rb (F.QMG_POL_CFG_RACT pol) then
      ((s.bump R.QMG_CNT_RED).bump (R.QMG_POL_RED pol)).qDrop q f.addr
    else if lim < depth then (s.bump R.QMG_CNT_TAIL).qDrop q f.addr
    else s.qAppend q f

/-- ENQUEUE (R321): QMG takes the oldest result of the PPE while QMG_CTRL.EN is set (R332). -/
def execEnqueue (s : State) : Host.Outcome State Fault Refusal :=
  match s.pkt.qmgIn with
  | [] => .next s
  | (a, q) :: rest =>
    if !s.rb F.QMG_CTRL_EN then .next s
    else
      let s := s.setPkt (fun p => { p with qmgIn := rest })
      match s.frame a with
      | none => .next s.qmgSync
      | some f => .next (s.enqueue q f).qmgSync

/-! ## Commands (R319, R320) -/

/-- A port, class or client of W1 and W3 that Q_CREATE, Q_SET and Q_MOVE name. -/
def portOk (w1 w3 : Word) : Bool :=
  let t := bits w1 29 26
  let c := bits w3 27 16
  t != 11 && t != 15 && decide (c ≤ 2047 ∨ c = 0xFFF) && (if t = 6 then c != 0xFFF else c == 0xFFF)

/-- The other fields of W1 to W3 (R318). -/
def qFieldsOk (w1 w2 w3 : Word) : Bool :=
  let sh := bits w1 21 10
  let pol := bits w3 10 0
  bits w1 31 30 == 0 && bits w1 22 22 == 0 && bits w1 9 8 == 0 && decide (sh ≤ 2047 ∨ sh = 0xFFF) &&
    decide (1 ≤ bits w1 7 0) && decide (45 ≤ bits w2 31 16 ∧ bits w2 31 16 ≤ 32768) &&
    decide (bits w2 15 0 ≤ bits w2 31 16) && decide (pol ≤ 1023 ∨ pol = 0x7FF) && bits w3 15 11 == 0

/-- The status a push is refused with, if any (R319). -/
def State.qPushCheck (s : State) : Option Nat :=
  let w (k : Nat) : Word := s.reg (R.QMG_CMD_W k)
  let opc := bits (w 0) 31 24
  if opc < 1 ∨ 7 < opc then some St.TYPE
  else if (opc = 1 ∨ opc = 3) ∧ !(qFieldsOk (w 1) (w 2) (w 3) && portOk (w 1) (w 3)) then some St.RANGE
  else if opc = 4 ∧ !portOk (w 1) (w 3) then some St.RANGE
  else if 16 ≤ s.pkt.qcmds.length then some St.BUSY
  else none

/-- A push of the staged command. -/
def State.qPush (s : State) (v : Word) : State :=
  if !v.getLsbD 0 then s
  else
    match s.qPushCheck with
    | some st => s.qmgRefuse st
    | none =>
      let w (k : Nat) : Word := s.reg (R.QMG_CMD_W k)
      (s.setPkt (fun p => { p with
        qcmds := p.qcmds ++ [⟨bits (w 0) 31 24, bits (w 0) 23 16, bits (w 0) 12 0, w 1, w 2, w 3⟩] })).qmgSync

/-- QMG_CMD_PUSH (R319). -/
def execQmgCmdPush (i : Init) (v : Word) (s : State) : Host.Outcome State Fault Refusal :=
  .next (s.onWrite i R.QMG_CMD_PUSH (fun s => s.qPush v))

/-- The command at the head completes (R320). -/
def State.qDone (s : State) (c : QCmd) (st : Nat) : State :=
  let s := s.setPkt (fun p => { p with qcmds := p.qcmds.drop 1 })
  let s := if s.pkt.qres.length < 16 then
      s.setPkt (fun p => { p with qres := p.qres ++ [⟨c.tag, c.opc, st, s.gt⟩] })
    else s.bump R.QMG_CNT_RESOVF
  let s := if st = St.STATE then s.bump R.QMG_CNT_STATE else s
  (if st = St.OK then s else s.raise 112).qmgSync

/-- Run the command at the head when its OPC is `opc`. -/
def State.qRun (s : State) (opc : Nat) (f : State → QCmd → Nat → State × Nat) : State :=
  match s.pkt.qcmds with
  | [] => s
  | c :: _ =>
    if c.opc ≠ opc then s
    else if !s.ready Fn.PACKET then s.qDone c St.NOTREADY
    else let r := f s c (s.qd c.q 0 31 30); r.1.qDone c r.2

/-- The queue shaper of a queue is filled, and its policer (R319). -/
def State.qFill (s : State) (q : Nat) : State :=
  let sh := s.qd q 0 21 10
  let pol := s.qd q 5 10 0
  let s := if sh ≤ 2047 then
      (s.setReg (R.TMG_QSHP_TOKENS sh) (s.reg (R.TMG_QSHP_BURST sh))).setPkt (fun p => { p with
        refillAt := Sparse.putN p.refillAt (144 + sh) s.gtu.ticks, refillRem := Sparse.putN p.refillRem (144 + sh) 0 })
    else s
  if pol ≤ 1023 then s.polFill pol else s

/-- Q_CREATE. -/
def qCreate (s : State) (c : QCmd) (st : Nat) : State × Nat :=
  if st ≠ Qs.FREE then (s, St.STATE)
  else
    let a := qAddr c.q
    let s := s.setWords a [setBits c.w1 31 30 Qs.STOPPED, c.w2, 0, 0, 0, c.w3, 0, 0]
    ((s.wf F.QMG_STAT_QUEUES (s.rf F.QMG_STAT_QUEUES + 1)).qFill c.q, St.OK)

/-- Q_DELETE. -/
def qDelete (s : State) (c : QCmd) (st : Nat) : State × Nat :=
  if st = Qs.FREE then (s, St.OK)
  else if st = Qs.ACTIVE ∨ s.qd c.q 2 31 16 ≠ 0 then (s, St.STATE)
  else ((s.setQd c.q 0 31 30 Qs.FREE).wf F.QMG_STAT_QUEUES (s.rf F.QMG_STAT_QUEUES - 1), St.OK)

/-- Q_SET. -/
def qSet (s : State) (c : QCmd) (st : Nat) : State × Nat :=
  if st = Qs.FREE then (s, St.STATE)
  else if bits c.w1 29 23 ≠ s.qd c.q 0 29 23 ∨ bits c.w3 27 16 ≠ s.qd c.q 5 27 16 then (s, St.RANGE)
  else
    let s := (s.setQd c.q 0 21 10 (bits c.w1 21 10)).setQd c.q 0 7 0 (bits c.w1 7 0)
    let s := s.write32 (qAddr c.q + 4) c.w2
    ((s.setQd c.q 5 31 28 (bits c.w3 31 28)).setQd c.q 5 10 0 (bits c.w3 10 0), St.OK)

/-- Q_MOVE. -/
def qMove (s : State) (c : QCmd) (st : Nat) : State × Nat :=
  if st ≠ Qs.STOPPED ∨ s.qd c.q 2 31 16 ≠ 0 then (s, St.STATE)
  else ((s.setQd c.q 0 29 23 (bits c.w1 29 23)).setQd c.q 5 27 16 (bits c.w3 27 16), St.OK)

/-- Q_START. -/
def qStart (s : State) (c : QCmd) (st : Nat) : State × Nat :=
  if st = Qs.FREE then (s, St.STATE) else (s.setQd c.q 0 31 30 Qs.ACTIVE, St.OK)

/-- Q_STOP. -/
def qStop (s : State) (c : QCmd) (st : Nat) : State × Nat :=
  if st = Qs.FREE then (s, St.STATE) else (s.setQd c.q 0 31 30 Qs.STOPPED, St.OK)

/-- Drop the frames of a queue, each counted. -/
def State.flushAll (s : State) (q : Nat) : List Nat → State
  | [] => s
  | a :: as =>
    let c := s.qd q 5 27 16
    let s := match s.frame a with
      | some f => if c = 0xFFF then s else s.reportOut c f.tid f.units
      | none => s
    ((s.bump R.QMG_CNT_FLUSH).qDrop q a).flushAll q as

/-- A queue becomes empty: its DEFICIT is 0 and it leaves its round-robin list (R326). -/
def State.drrLeave (s : State) (q : Nat) : State :=
  (s.setQd q 4 23 0 0).setPkt (fun p => { p with drr := p.drr.map (fun e => if e.1 % 16 < 8 then (e.1, e.2.filter (fun x => x != q)) else e) })

/-- Q_FLUSH. -/
def qFlush (s : State) (c : QCmd) (st : Nat) : State × Nat :=
  if st ≠ Qs.STOPPED then (s, St.STATE)
  else
    let l := s.queue c.q
    let s := s.setQueue c.q []
    let s := (s.setQd c.q 2 31 16 0).drrLeave c.q
    (s.flushAll c.q l, St.OK)

/-- Q_CREATE (R319). -/
def execQCreate (s : State) : Host.Outcome State Fault Refusal := .next (s.qRun 1 qCreate)
/-- Q_DELETE (R319). -/
def execQDelete (s : State) : Host.Outcome State Fault Refusal := .next (s.qRun 2 qDelete)
/-- Q_SET (R319). -/
def execQSet (s : State) : Host.Outcome State Fault Refusal := .next (s.qRun 3 qSet)
/-- Q_MOVE (R319). -/
def execQMove (s : State) : Host.Outcome State Fault Refusal := .next (s.qRun 4 qMove)
/-- Q_START (R319). -/
def execQStart (s : State) : Host.Outcome State Fault Refusal := .next (s.qRun 5 qStart)
/-- Q_STOP (R319). -/
def execQStop (s : State) : Host.Outcome State Fault Refusal := .next (s.qRun 6 qStop)
/-- Q_FLUSH (R319). -/
def execQFlush (s : State) : Host.Outcome State Fault Refusal := .next (s.qRun 7 qFlush)

/-- Pop QMG_RES. -/
def State.qPop (i : Init) (s : State) : State :=
  match s.pkt.qres with
  | [] => s.answer i 0
  | x :: xs => (s.setPkt (fun p => { p with qres := xs })).answer i
      (BitVec.ofNat 32 (2 ^ 31 + x.tag * 2 ^ 16 + x.opc * 2 ^ 8 + x.status))

/-- QMG_RESULT_POP (R320). -/
def execQmgResultPop (i : Init) (s : State) : Host.Outcome State Fault Refusal :=
  .next (s.onRead i R.QMG_RES (State.qPop i))

/-- TAIL_ALARM (R331): QMG_CNT_TAIL grew by `grew` within one second. -/
def execTailAlarm (grew : Nat) (s : State) : Host.Outcome State Fault Refusal :=
  .next (if s.rf F.QMG_DROPALM_N < grew then s.raise 114 else s)
/-- RED_ALARM (R331): QMG_CNT_RED grew by `grew` within one second. -/
def execRedAlarm (grew : Nat) (s : State) : Host.Outcome State Fault Refusal :=
  .next (if s.rf F.QMG_DROPALM_N < grew then s.raise 120 else s)

end Sys2Proof.Machine
end

