-- ==== Sys2Proof/Machine/Eth.lean ====
section
/-! DEFINITION. The Ethernet ports (R302 to R307, R309, R311): reception and transmission with MACsec, PAUSE, the PTP clock and
transmit stamps, MDIO. -/

namespace Sys2Proof.Machine

/-- Change the Ethernet block's state. -/
def State.setEth (s : State) (f : EthSt → EthSt) : State := { s with eth := f s.eth }

/-- A port's event (R309). -/
def ethEv (p : Nat) : Nat := 208 + p

/-- Bytes as numbers, big-endian numbers and back. -/
def byteNats (l : List Byte) : List Nat := l.map (·.toNat)
def natsBytes (l : List Nat) : List Byte := l.map (BitVec.ofNat 8)

/-- A frame without its FCS gets a fresh one (R303): CRC-32, low byte first. -/
def withFcs (l : List Byte) : List Byte := l ++ natBytes 4 (crc32 l)
/-- A frame's FCS is right. -/
def fcsOk (d : List Byte) : Bool := d.drop (d.length - 4) == natBytes 4 (crc32 (d.take (d.length - 4)))

/-! ## MACsec (R305) -/

/-- The page of MACsec's keys (R305). -/
def macsecPage : Nat := 5

/-- A SecTAG: TCI and AN byte, packet number, SCI if present, and where the secure data begins. -/
structure SecTag where
  tci : Nat
  an : Nat
  pn : Nat
  sci : Option Nat
  next : Nat

/-- The SecTAG of a protected frame. -/
def secTag (d : List Byte) : SecTag :=
  let t := b8 d 14
  let sc := t / 32 % 2 = 1
  ⟨t, t % 4, bytesNatBe (sub d 16 4), if sc then some (bytesNatBe (sub d 20 8)) else none, if sc then 28 else 20⟩

/-- The nonce: SCI and PN; for XPN the SSCI, the 64-bit PN and the salt, of which the part that does not depend on the PN is
not among the port's registers. -/
def secNonce (xpn : Bool) (slot sci pn : Nat) : List Nat :=
  if xpn then List.zipWith (fun a b => a ^^^ b) (Sha.toBe 12 (Config.xpnSalt slot)) (Sha.toBe 4 0 ++ Sha.toBe 8 pn)
  else Sha.toBe 8 sci ++ Sha.toBe 4 pn

/-- A 64-bit packet number from its low half, nearest above the lowest acceptable one. -/
def xpnOf (lowest lo : Nat) : Nat := if lo < lowest % 2 ^ 32 ∧ 2 ^ 31 ≤ lowest % 2 ^ 32 - lo then (lowest / 2 ^ 32 + 1) * 2 ^ 32 + lo
  else lowest / 2 ^ 32 * 2 ^ 32 + lo

/-- The receive SC of a frame: by its SCI, or the only one enabled. -/
def State.rxSc (s : State) (p : Nat) (sci : Option Nat) : Option Nat :=
  let on := [0, 1, 2, 3].filter (fun k => s.rb (F.ETH_RXSC_CFG_EN p k))
  match sci with
  | some n => on.find? (fun k => bytesNatBe (natBytes 4 (s.regN (R.ETH_RXSC_SCI_LO p k)) ++ natBytes 4 (s.regN (R.ETH_RXSC_SCI_HI p k))) == n)
  | none => if on.length = 1 then on.head? else none

/-- What MACsec makes of a received frame: accepted with its bytes and whether it was validated, or discarded with the
counter that notes it. -/
inductive SecRx where
  | accept (data : List Byte) (validated : Bool)
  | drop (counter : Nat)

/-- MACsec on reception (R305): the state notes the lowest acceptable PN. -/
def State.secReceive (s : State) (p : Nat) (d : List Byte) : State × SecRx :=
  let pol := s.rf (F.ETH_CTRL_VALIDATE p)
  if !s.rb (F.ETH_CTRL_MSEC p) then (s, .accept d false)
  else if b16 d 12 ≠ 0x88E5 then
    (s, if pol = 2 ∧ b16 d 12 ≠ 0x888E then .drop (R.ETH_CNT_MSUNT p) else .accept d false)
  else
    let t := secTag d
    let body := (d.drop t.next).take (d.length - 4 - 16 - t.next)
    let icv := sub d (d.length - 20) 16
    let enc := t.tci / 8 % 2 = 1
    let clear := withFcs (d.take 12 ++ body)
    let invalid : State × SecRx := (s.bump (R.ETH_CNT_MSINV p), .drop 0)
    match s.rxSc p t.sci with
    | none => if pol = 2 ∨ enc then invalid else if pol = 1 then (s.bump (R.ETH_CNT_MSINV p), .accept clear false) else (s, .accept clear false)
    | some k =>
      let slot := s.rf (F.ETH_RXSC_KEY_SLOT p k t.an)
      let xpn := s.rb (F.ETH_RXSC_CFG_XPN p k)
      let low := s.reg64 (R.ETH_RXSC_PN_LO p k t.an) (R.ETH_RXSC_PN_HI p k t.an)
      let pn := if xpn then xpnOf low t.pn else t.pn
      let sci := bytesNatBe (natBytes 4 (s.regN (R.ETH_RXSC_SCI_LO p k)) ++ natBytes 4 (s.regN (R.ETH_RXSC_SCI_HI p k)))
      match (if s.rb (F.ETH_RXSC_KEY_EN p k t.an) then s.snapshot macsecPage slot Usage.DEC else none) with
      | none => if pol = 2 ∨ enc then invalid else if pol = 1 then (s.bump (R.ETH_CNT_MSINV p), .accept clear false) else (s, .accept clear false)
      | some key =>
        let nonce := secNonce xpn slot sci pn
        let aad := byteNats (d.take t.next)
        let x := if enc then Aes.gcmDec (byteNats key.key) nonce aad (byteNats body)
          else ([], (Aes.gcmDec (byteNats key.key) nonce (aad ++ byteNats body) []).2)
        let good := x.2 == byteNats icv
        let plain := if enc then natsBytes x.1 else body
        let rpw := s.regN (R.ETH_RXSC_RPW p k)
        if pn < low then
          (if pol = 0 ∧ !enc then (s, .accept clear false) else (s, .drop (R.ETH_CNT_MSREPLAY p)))
        else if !good then
          if pol = 2 ∨ enc then invalid
          else if pol = 1 then (s.bump (R.ETH_CNT_MSINV p), .accept clear false)
          else (s, .accept clear false)
        else
          let low' := max low (pn + 1 - rpw)
          (s.setReg64 (R.ETH_RXSC_PN_LO p k t.an) (R.ETH_RXSC_PN_HI p k t.an) low', .accept (withFcs (d.take 12 ++ plain)) true)

/-- The limit of a transmit SA's packet number, and where its warning begins (R305). -/
def pnMax (xpn : Bool) : Nat := if xpn then 2 ^ 64 - 1 else 2 ^ 32 - 1
def pnWarn (xpn : Bool) : Nat := if xpn then 2 ^ 62 else 0xC0000000

/-- MACsec on transmission (R305): the frame without its FCS; none when no PN is left or no key is usable. EAPOL goes out in
the clear. -/
def State.secTransmit (s : State) (p : Nat) (d : List Byte) : State × Option (List Byte) :=
  let an := s.rf (F.ETH_TXSC_CFG_AN p)
  if !s.rb (F.ETH_CTRL_MSEC p) ∨ !s.rb (F.ETH_TXSC_CFG_EN p) ∨ b16 d 12 = 0x888E then (s, some d)
  else
    let xpn := s.rb (F.ETH_TXSC_CFG_XPN p)
    let pn := s.reg64 (R.ETH_TXSC_PN_LO p an) (R.ETH_TXSC_PN_HI p an)
    let slot := s.rf (F.ETH_TXSC_KEY_SLOT p an)
    if pnMax xpn < pn + 1 then ((s.bump (R.ETH_CNT_PNEXH p)).raise (ethEv p), none)
    else
      match (if s.rb (F.ETH_TXSC_KEY_EN p an) then s.snapshot macsecPage slot Usage.ENC else none) with
      | none => (s, none)
      | some key =>
        let e := s.rb (F.ETH_TXSC_CFG_E p)
        let scb := s.rb (F.ETH_TXSC_CFG_SCIINC p)
        let sci := bytesNatBe (natBytes 4 (s.regN (R.ETH_TXSC_SCI_LO p)) ++ natBytes 4 (s.regN (R.ETH_TXSC_SCI_HI p)))
        let body := d.drop 12
        let tci := (if scb then 32 else 0) + (if e then 12 else 0) + an
        let sl := if body.length < 48 then body.length else 0
        let head := d.take 12 ++ be16 0x88E5 ++ [BitVec.ofNat 8 tci, BitVec.ofNat 8 sl] ++ be32 pn ++
          (if scb then natsBytes (Sha.toBe 8 sci) else [])
        let nonce := secNonce xpn slot sci pn
        let x := if e then Aes.gcmEnc (byteNats key.key) nonce (byteNats head) (byteNats body)
          else ([], (Aes.gcmEnc (byteNats key.key) nonce (byteNats (head ++ body)) []).2)
        let s := s.setReg64 (R.ETH_TXSC_PN_LO p an) (R.ETH_TXSC_PN_HI p an) (pn + 1)
        let s := if pn + 1 = pnWarn xpn then s.raise (ethEv p) else s
        (s, some (head ++ (if e then natsBytes x.1 else body) ++ natsBytes x.2))

/-! ## PTP (R306, R307) -/

/-- Where a PTP message stands in a frame: over Ethernet, or over UDP/IPv4 or IPv6 on the event port 319. -/
def ptpAt (d : List Byte) : Option Nat :=
  let p := parse ⟨false, 0, false, false, false⟩ d
  if p.et = 0x88F7 then some ((parseL2 d 0).next)
  else
    match p.l4, p.ip with
    | some o, some x => if x.proto = 17 ∧ b16 d (o + 2) = 319 then some (o + 8) else none
    | _, _ => none

/-- The frame is a PTP event message: messageType 0 to 3. -/
def ptpEvent (d : List Byte) : Option Nat := match ptpAt d with | some o => if b8 d o % 16 ≤ 3 then some o else none | none => none

/-- One-step Sync (R307): the originTimestamp is written, the correctionField updated by an amount that is not given, and a
UDP/IPv4 checksum becomes zero. -/
def State.oneStep (s : State) (p : Nat) (d : List Byte) (ns : Nat) : State × List Byte :=
  match ptpEvent d with
  | none => (s, d)
  | some o =>
    let x := parse ⟨false, 0, false, false, false⟩ d
    let v6 := (x.ip.map (·.v6)).getD false
    if !s.rb (F.ETH_CTRL_OSTEP p) ∨ 1 < p ∨ b8 d o % 16 ≠ 0 ∨ v6 then (s, d)
    else
      let d := splice d (o + 34) (natsBytes (Sha.toBe 6 (ns / 10 ^ 9)) ++ be32 (ns % 10 ^ 9))
      let d := splice d (o + 8) (natsBytes (Sha.toBe 8 (bytesNatBe (sub d (o + 8) 8) + s.free)))
      let s := s.used
      match x.l4 with
      | some l4 => (s, splice d (l4 + 6) [0, 0])
      | none => (s, d)

/-- The stamps of a port. -/
def State.txStamps (s : State) (p : Nat) : List TxStamp := Sparse.get (fun _ => []) s.eth.stamps p

/-- The transmit stamp of a PTP event message (R307). -/
def State.stampTx (s : State) (p : Nat) (d : List Byte) (gt : GTime) (ns : Nat) : State :=
  match ptpEvent d with
  | none => s
  | some o =>
    if 16 ≤ (s.txStamps p).length then (s.bump (R.ETH_CNT_TSOVF p)).raise (ethEv p)
    else s.setEth (fun e => { e with stamps := Sparse.put (fun _ => []) e.stamps p (s.txStamps p ++ [⟨b16 d (o + 30), gt, ns⟩]) })

/-- TXTS_POP (R307). -/
def execTxtsPop (i : Init) (p : Fin 6) (s : State) : Host.Outcome State Fault Refusal :=
  .next (s.onRead i (R.ETH_TXTS p.val) (fun s =>
    match s.txStamps p.val with
    | [] => s.answer i 0
    | x :: xs =>
      let s := s.setEth (fun e => { e with stamps := Sparse.put (fun _ => []) e.stamps p.val xs })
      let s := s.setReg64 (R.ETH_TXTS_GT_LO p.val) (R.ETH_TXTS_GT_HI p.val) x.gt.toNat
      let s := s.setReg64 (R.ETH_TXTS_NS_LO p.val) (R.ETH_TXTS_NS_HI p.val) x.ns
      s.answer i (BitVec.ofNat 32 (2 ^ 31 + x.seq % 2 ^ 16))))

/-- The PTP clock advances at a GTF tick (R306): 1 ns, corrected by ETH_PTP_RATE. -/
def State.ptpTick (s : State) : State :=
  if !s.rb F.ETH_PTP_CTRL_EN then s
  else
    let n := ((s.eth.frac : Int) + 65536000000000 + toSigned 32 (s.regN R.ETH_PTP_RATE)).toNat
    s.setEth (fun e => { e with ptp := (e.ptp + n / 65536000000000) % 2 ^ 64, frac := n % 65536000000000 })

/-- PTP_READ (R306). -/
def execPtpRead (i : Init) (s : State) : Host.Outcome State Fault Refusal :=
  .next (s.onRead i R.ETH_PTP_NS_LO (fun s =>
    let s := s.setReg64 R.ETH_PTP_NS_LO R.ETH_PTP_NS_HI s.eth.ptp
    let s := s.setReg64 R.ETH_PTP_GT_LO R.ETH_PTP_GT_HI s.gtN
    s.answer i (BitVec.ofNat 32 s.eth.ptp)))

/-- PTP_STEP (R306): a write to ETH_PTP_STEP_HI. -/
def execPtpStep (i : Init) (v : Word) (s : State) : Host.Outcome State Fault Refusal :=
  .next (s.onWrite i R.ETH_PTP_STEP_HI (fun s =>
    let s := s.setReg R.ETH_PTP_STEP_HI v
    let n := s.reg64 R.ETH_PTP_STEP_LO R.ETH_PTP_STEP_HI
    (s.setEth (fun e => { e with ptp := (e.ptp + n) % 2 ^ 64 })).raise 214))

/-! ## Frames (R303) -/

/-- ETH_FRAME_RECEIVE (R303, R305, R306): the stamps are the SerDes's, before their correction by ETH_TSDLY. -/
def execEthFrameReceive (p : Fin 6) (data : List (BitVec 8)) (stamp : GTime) (ns : BitVec 64) (s : State) :
    Host.Outcome State Fault Refusal :=
  let k := p.val
  let src := RxSource.eth p
  if !s.rb (F.ETH_CTRL_EN k) then .next s
  else if data.length < 64 ∨ s.rf (F.ETH_MAXLEN_LEN k) < data.length then .next ((s.unreserve src).bump (R.ETH_CNT_RXLEN k))
  else if !fcsOk data then .next ((s.unreserve src).bump (R.ETH_CNT_RXFCS k))
  else if Sparse.getN s.pkt.rsvd (rxKey src) = 0 then .next s
  else
    let s := s.unreserve src
    let x := s.secReceive k data
    let s := x.1
    match x.2 with
    | .drop c => .next (if c = 0 then s else s.bump c)
    | .accept d val =>
      let dly := s.rf (F.ETH_TSDLY_RX k)
      let gt := stamp - BitVec.ofNat 64 (s.nsToUnits dly)
      match s.charge k (unitsOf d.length) with
      | none => .next (s.countRefused.bump (R.ETH_CNT_RXDROP k))
      | some s =>
        let h := hdrWords k d.length (ptpEvent d).isSome val gt ((ns.toNat + 2 ^ 64 - dly) % 2 ^ 64) 0
        let y := s.putFrame k d h
        .next ((y.1.bump (R.ETH_CNT_RXOK k)).toPpe y.2)

/-- The bytes of a frame for the wire (R303): a frame that the device did not change, and that came from an Ethernet port,
keeps the FCS it was received with. -/
def State.wireBytes (s : State) (k : Nat) (f : Frame) (ns : Nat) : State × Option (List Byte) :=
  let d := s.frameBytes f 0 f.len
  let body := d.take (d.length - 4)
  let x := s.oneStep k d ns
  let y := x.1.secTransmit k (x.2.take (x.2.length - 4))
  match y.2 with
  | none => (y.1, none)
  | some out =>
    let kept := out == body && !(s.hdr f.addr 8).getLsbD 7 && decide (f.src ≤ 5)
    (y.1, some (if kept then d else withFcs out))

/-- ETH_FRAME_TRANSMIT (R303, R304, R307, R313): the oldest frame that TMG selected for the port goes out, and its units are
released after its last byte. -/
def execEthFrameTransmit (p : Fin 6) (stamp : GTime) (ns : BitVec 64) (s : State) : Host.Outcome State Fault Refusal :=
  let k := p.val
  match s.selOf k with
  | [] => .next s
  | a :: _ =>
    if !s.rb (F.ETH_CTRL_EN k) ∨ Sparse.getN s.pkt.paused k ≠ 0 then .next s
    else
      match s.frame a with
      | none => .next (s.setSel k ((s.selOf k).drop 1))
      | some f =>
        let bad := s.spansBad (cellSpans pktBase (64 + f.len) f.cells)
        let s := s.spansRead Ini.DMA (cellSpans pktBase (64 + f.len) f.cells)
        let dly := s.rf (F.ETH_TSDLY_TX k)
        let t := (ns.toNat + dly) % 2 ^ 64
        let x := s.wireBytes k f t
        match x.2 with
        | none => .next (x.1.freeSel k a)
        | some out =>
          let out := if bad then out.take (out.length - 4) ++ (out.drop (out.length - 4)).map (fun b => ~~~ b) else out
          let s := (x.1.emit (.ethTx k out)).bump (R.ETH_CNT_TXOK k)
          let s := s.stampTx k (s.frameBytes f 0 f.len) (stamp + BitVec.ofNat 64 (s.nsToUnits dly)) t
          .next (s.freeSel k a)

/-! ## PAUSE, link, MDIO (R304, R309, R311) -/

/-- PAUSE_RECEIVE (R304). -/
def execPauseReceive (p : Fin 6) (quanta : BitVec 16) (s : State) : Host.Outcome State Fault Refusal :=
  if s.rb (F.ETH_CTRL_PAUSE p.val) then
    .next (s.setPkt (fun k => { k with paused := Sparse.putN k.paused p.val (if quanta = 0 then 0 else quanta.toNat + 1) }))
  else .next s

/-- PAUSE_TIME_EXPIRY (R304). -/
def execPauseTimeExpiry (p : Fin 6) (s : State) : Host.Outcome State Fault Refusal :=
  .next (s.setPkt (fun k => { k with paused := Sparse.putN k.paused p.val 0 }))

/-- PAUSE_REPEAT (R304): while reservations keep failing. -/
def execPauseRepeat (p : Fin 6) (s : State) : Host.Outcome State Fault Refusal :=
  if Sparse.getN s.pkt.pauseSend p.val = 1 then .next (s.sendPause p.val) else .next s

/-- LINK_CHANGE (R309, R311). -/
def execLinkChange (p : Fin 6) (up : Bool) (mode : Fin 4) (speed : Fin 6) (s : State) : Host.Outcome State Fault Refusal :=
  let s := (s.wb (F.ETH_STAT_LINK p.val) up).wf (F.ETH_STAT_MODE p.val) mode.val
  .next ((s.wf (F.ETH_STAT_SPEED p.val) speed.val).raise (ethEv p.val))

/-- MDIO_GO (R311): a write with GO while a transaction runs changes nothing and raises the event of a refused write. -/
def execMdioGo (i : Init) (v : Word) (s : State) : Host.Outcome State Fault Refusal :=
  .next (s.onWrite i R.ETH_MDIO_CMD (fun s =>
    if s.rb F.ETH_MDIO_CMD_GO then s.raise 214
    else
      let s := s.setReg R.ETH_MDIO_CMD (v &&& 0xF3FF0000)
      if v.getLsbD 31 then s.emit (.mdio (v &&& 0xF3FF0000).toNat (s.rf F.ETH_MDIO_DATA_D)) else s))

/-- MDIO_DONE (R311): BUSY clears; a read operation (OP 2 or 3) brings its data. -/
def execMdioDone (d : BitVec 16) (s : State) : Host.Outcome State Fault Refusal :=
  if !s.rb F.ETH_MDIO_CMD_GO then .next s
  else
    let s := if 2 ≤ s.rf F.ETH_MDIO_CMD_OP then s.wf F.ETH_MDIO_DATA_D d.toNat else s
    .next (s.wb F.ETH_MDIO_CMD_GO false)

end Sys2Proof.Machine
end

