-- ==== Sys2Proof/Machine/Evr.lean ====
section
/-! DEFINITION. The event router (R63 to R66, R69). -/

namespace Sys2Proof.Machine

/-- EVENT_OCCURRENCE (R63). -/
def execEventOccurrence (ev : Fin 256) (s : State) : Host.Outcome State Fault Refusal := .next (s.raise ev.val)

/-- EIRQ_PULSE (R64): a pin in pulse mode emits one of the pulses it owes. -/
def execEirqPulse (p : Fin 4) (s : State) : Host.Outcome State Fault Refusal :=
  if Sparse.getN s.evr.pulses p.val = 0 then .next s
  else .next ({ s with evr := { s.evr with
    pulses := Sparse.putN s.evr.pulses p.val (Sparse.getN s.evr.pulses p.val - 1) } }.emit (.eirqPulse p.val))

/-- PENDING_CLEAR (R64): a W1C write to EVR_PEND. -/
def execPendingClear (i : Init) (d : Fin 14) (w : Fin 8) (v : Word) (s : State) : Host.Outcome State Fault Refusal :=
  .next (s.onWrite i (R.EVR_PEND d.val w.val)
    (fun s => s.setReg (R.EVR_PEND d.val w.val) (s.reg (R.EVR_PEND d.val w.val) &&& ~~~v)))

/-- The events that a write to EVR_SWSET raises, in ascending order (R66). -/
def swEvents (v : Word) : Nat → List Nat
  | 0 => []
  | k + 1 => swEvents v k ++ (if v.getLsbD k then [240 + k] else [])

/-- SOFTWARE_EVENT (R66). -/
def execSoftwareEvent (i : Init) (v : Word) (s : State) : Host.Outcome State Fault Refusal :=
  .next (s.onWrite i R.EVR_SWSET (fun s => s.raiseAll (swEvents v 16)))

/-- A read of EVR_SUB0 (R69): while SUBEN is set it answers zero, pops nothing, records STATE and raises EV009; else it pops
the oldest entry and latches its stamp. -/
def State.subPop (i : Init) (s : State) : State :=
  if s.rb F.EVR_SUBSTAT_SUBEN then (s.refuse R.EVR_ERR St.STATE 9).answer i 0
  else
    match s.evr.fifo with
    | [] => s.answer i 0
    | e :: es =>
      let s := { s with evr := { s.evr with fifo := es } }
      let s := (s.setReg R.EVR_SUB1 (e.stamp.extractLsb' 0 32)).setReg R.EVR_SUB2 (e.stamp.extractLsb' 32 32)
      s.answer i (BitVec.ofNat 32 (2 ^ 31 + e.count * 2 ^ 16 + e.event))

/-- SUBSCRIPTION_POP (R69). -/
def execSubscriptionPop (i : Init) (s : State) : Host.Outcome State Fault Refusal :=
  .next (s.onRead i R.EVR_SUB0 (State.subPop i))

end Sys2Proof.Machine
end

