-- ==== Sys2Proof/Machine/Rfc.lean ====
section
/-! DEFINITION. The front-end controllers (R70 to R102): the two command ports, the state table, transitions, the
synthesiser and its records, calibrations, pre-distortion fits, FEM lines. -/

namespace Sys2Proof.Machine

/-! Radio states (R70). -/
namespace Rs
def SLEEP : Nat := 0
def STANDBY : Nat := 1
def SYNTH : Nat := 2
def RX : Nat := 3
def TX : Nat := 4
end Rs

/-! ## Commands -/

/-- A command from its six words (R73). -/
def rfcCmdOf (w : SixWords) : RfcCmd where
  opc := bits w.w0 31 24
  tag := bits w.w0 23 16
  trig := bits w.w0 15 14
  notify := w.w0.getLsbD 13
  ret := w.w0.getLsbD 12
  store := w.w0.getLsbD 11
  index := bits w.w0 10 0
  start := w.w1.toNat + w.w2.toNat * 2 ^ 32
  deadline := w.w3.toNat + w.w4.toNat * 2 ^ 32
  arg := w.w5.toNat

/-- The BW code exists on the radio (R73). -/
def bwOk (r : Radio) (bw : Nat) : Bool :=
  match r with
  | .l => decide (bw ≤ 1)
  | .m => decide (bw ≤ 3)
  | .h => decide (bw ≤ 4)
  | .s => decide (8 ≤ bw ∧ bw ≤ 13)

/-- The frequency lies in the radio's band (R73). -/
def freqOk (r : Radio) (f : Nat) : Bool :=
  match r with
  | .l => decide (2400000 ≤ f ∧ f ≤ 2500000)
  | .m => decide (5150000 ≤ f ∧ f ≤ 5895000)
  | .h => decide (5925000 ≤ f ∧ f ≤ 7125000)
  | .s => decide ((863000 ≤ f ∧ f ≤ 876000) ∨ (902000 ≤ f ∧ f ≤ 928000))

/-- Records of a radio in the calibration store (R85). -/
def recCount (r : Radio) : Nat := RegMap.pick r.idx 256 512 1024 256
/-- Address of a record (R85). -/
def recAddr (r : Radio) (i : Nat) : Nat := RegMap.pick r.idx 0x113C0000 0x113C4000 0x113CC000 0x113DC000 + 64 * i
/-- The model index belongs to the radio (R96). -/
def modelOk (r : Radio) (i : Nat) : Bool :=
  match r with
  | .l => decide (i ≤ 127)
  | .m => decide (128 ≤ i ∧ i ≤ 447)
  | .h => decide (448 ≤ i ∧ i ≤ 767)
  | .s => false

/-- The INDEX is in the command's range (R74). -/
def indexOk (r : Radio) (c : RfcCmd) : Bool :=
  if c.opc = 3 then decide (c.index < recCount r) || c.index == 0x7FF
  else if c.opc = 4 ∨ c.opc = 12 then decide (c.index < recCount r)
  else if c.opc = 10 then modelOk r c.index
  else true

/-- The ARG and the chains are allowed (R74). -/
def State.argOk (s : State) (r : Radio) (c : RfcCmd) : Bool :=
  let fitted := s.rf (F.RFC_CTRL_CHAINS r)
  let sub (m : Nat) : Bool := m &&& fitted == m
  if c.opc = 3 ∨ c.opc = 4 then
    bwOk r (c.arg / 2 ^ 28) && freqOk r (c.arg % 2 ^ 24) && c.arg / 2 ^ 24 % 16 == 0
  else if c.opc = 5 then sub (c.arg % 256) && decide (c.arg < 256)
  else if c.opc = 6 then
    sub (c.arg % 256) && decide (c.arg / 2 ^ 8 % 2 ^ 16 = 0) && (r != .s || c.arg % 256 / 2 == 0)
  else if c.opc = 9 then decide (c.arg < 16)
  else if c.opc = 10 then
    decide (c.arg < 512 ∧ c.arg / 16 % 16 = 0 ∧ c.arg % 16 < 8) && sub (2 ^ (c.arg % 16))
  else c.arg == 0

/-- The format check of R74, without the check for room. -/
def State.rfcFormat (s : State) (r : Radio) (c : RfcCmd) : Nat :=
  if c.opc = 0 ∨ 12 < c.opc then St.TYPE
  else if indexOk r c && s.argOk r c then St.OK else St.RANGE

/-- The staged words (R73). -/
def State.rfcStaged (s : State) (r : Radio) : SixWords where
  w0 := s.reg (R.RFC_CMD_W r 0)
  w1 := s.reg (R.RFC_CMD_W r 1)
  w2 := s.reg (R.RFC_CMD_W r 2)
  w3 := s.reg (R.RFC_CMD_W r 3)
  w4 := s.reg (R.RFC_CMD_W r 4)
  w5 := s.reg (R.RFC_CMD_W r 5)

/-- A refused push (R74, R78). -/
def State.rfcRefuse (s : State) (r : Radio) (code : Nat) : State := s.refuse (R.RFC_ERR r) code (radioEv r + 1)

/-- A push of the staged command by initiator `i` (R74, R78). -/
def State.rfcPush (i : Nat) (r : Radio) (v : Word) (s : State) : State :=
  if !v.getLsbD 0 then s
  else
    let c := rfcCmdOf (s.rfcStaged r)
    if !s.ready (Fn.RADIO r.idx) && i != Ini.MC0 + r.idx then s.rfcRefuse r St.NOTREADY
    else if s.rfcFormat r c ≠ St.OK then s.rfcRefuse r (s.rfcFormat r c)
    else if 16 ≤ (s.rfc.get r).queue.length then s.rfcRefuse r St.BUSY
    else s.setRfc r (fun f => { f with queue := f.queue ++ [c] })

/-- RFC_CMD_PUSH (R74). -/
def execRfcCmdPush (i : Init) (r : Radio) (v : Word) (s : State) : Host.Outcome State Fault Refusal :=
  .next (s.onWrite i (R.RFC_CMD_PUSH r) (State.rfcPush i.val r v))

/-- A command at the MAC port: RX, TX, IDLE or ABORT (R73, R78). -/
def State.macPort (r : Radio) (w : SixWords) (s : State) : State :=
  let c := rfcCmdOf w
  if !s.ready (Fn.RADIO r.idx) then s.rfcRefuse r St.NOTREADY
  else if !(c.opc == 5 || c.opc == 6 || c.opc == 7 || c.opc == 11) then s.rfcRefuse r St.TYPE
  else if s.rfcFormat r c ≠ St.OK then s.rfcRefuse r (s.rfcFormat r c)
  else if (s.rfc.get r).port.isSome then s.rfcRefuse r St.BUSY
  else s.setRfc r (fun f => { f with port := some c })

/-- MAC_PORT_COMMAND (R78). -/
def execMacPortCommand (r : Radio) (w : SixWords) (s : State) : Host.Outcome State Fault Refusal :=
  .next (s.macPort r w)

/-! ## Results -/

/-- A command's result (R79), and the event of its status (R77, R80). The events of HW are raised where the hardware fault
is found, once. -/
def State.rfcResult (s : State) (r : Radio) (c : RfcCmd) (status : Nat) : State :=
  let s :=
    if (s.rfc.get r).results.length < 16 then
      s.setRfc r (fun f => { f with results := f.results ++ [⟨c.tag, c.opc, status, s.gt⟩] })
    else s.bumpTo (R.RFC_CNT_RESOVF r) 0xFFFF
  if status = St.OK then (if c.notify then s.raise (radioEv r) else s)
  else if status = St.LATE ∨ status = St.ABORTED then s.raise (radioEv r + 2)
  else if status = St.HW then s
  else s.raise (radioEv r + 1)

/-- Take a command from its port. -/
def State.rfcTake (s : State) (r : Radio) (fw : Bool) : State :=
  s.setRfc r (fun f => if fw then { f with queue := f.queue.drop 1 } else { f with port := none })

/-- A command that has not begun, or that begins and ends at once, completes. -/
def State.rfcDone (s : State) (r : Radio) (c : RfcCmd) (fw : Bool) (status : Nat) : State :=
  ((s.rfcTake r fw).setRfc r (fun f => { f with
    trigA := (if c.trig = 1 then none else f.trigA)
    trigB := (if c.trig = 2 then none else f.trigB) })).rfcResult r c status

/-- The command in execution ends (a firmware command leaves the head; a MAC command has left its port already). -/
def State.rfcEndRun (s : State) (r : Radio) (status : Nat) : State :=
  match (s.rfc.get r).run with
  | none => s
  | some x =>
    let s := s.setRfc r (fun f => { f with run := none, queue := if x.fw && x.cmd.isSome then f.queue.drop 1 else f.queue })
    match x.cmd with
    | none => s
    | some c => s.rfcResult r c status

/-- Pop a result (R79, R102). -/
def State.rfcPop (i : Init) (r : Radio) (s : State) : State :=
  match (s.rfc.get r).results with
  | [] => s.answer i 0
  | x :: xs =>
    let s := s.setRfc r (fun f => { f with results := xs })
    let s := (s.setReg (R.RFC_RES_GT_LO r) (x.stamp.extractLsb' 0 32)).setReg (R.RFC_RES_GT_HI r) (x.stamp.extractLsb' 32 32)
    s.answer i (BitVec.ofNat 32 (2 ^ 31 + x.tag * 2 ^ 16 + x.opc * 2 ^ 8 + x.status))

/-- RFC_RESULT_POP (R79). -/
def execRfcResultPop (i : Init) (r : Radio) (s : State) : Host.Outcome State Fault Refusal :=
  .next (s.onRead i (R.RFC_RES r) (State.rfcPop i r))

/-! ## When a command is due (R71, R73) -/

/-- Transition time in ns from a state to a target state (R71). -/
def rfcTime (r : Radio) (a b : Nat) : Nat :=
  let p := RegMap.pick r.idx
  if b = 1 then (if a = 0 then p 30000 40000 40000 25000 else p 500 500 500 2000)
  else if b = 3 then (if a = 4 then p 1000 1000 1000 8000 else p 1000 1000 1000 6000)
  else if b = 4 then (if a = 3 then p 1600 1600 1600 12000 else p 1600 1600 1600 10000)
  else if b = 2 then p 400 400 400 2000
  else if b = 0 then (if a ≤ 1 then 2000 else p 2500 2500 2500 4000)
  else 0

/-- The retune time in ns (R71, R73). -/
def State.tuneTime (s : State) (r : Radio) (c : RfcCmd) : Nat :=
  let p := RegMap.pick r.idx
  let prep := (s.rfc.get r).prep
  if c.index = 0x7FF then
    if prep.any (fun x => x.valid && x.fresh) then p 9000 13000 17000 29000 else p 110000 140000 170000 220000
  else if s.rfcState r = 1 then p 14000 18000 22000 40000 else p 10000 14000 18000 30000

/-- The transition time of a command in the present state, in angle units. -/
def State.rfcLead (s : State) (r : Radio) (c : RfcCmd) : Nat :=
  let st := s.rfcState r
  if c.opc = 1 then s.nsToUnits (rfcTime r st 0)
  else if c.opc = 2 ∨ c.opc = 8 then s.nsToUnits (rfcTime r st 1)
  else if c.opc = 3 then s.nsToUnits (s.tuneTime r c)
  else if c.opc = 5 then s.nsToUnits (rfcTime r st 3)
  else if c.opc = 6 then s.nsToUnits (rfcTime r st 4)
  else if c.opc = 7 ∨ c.opc = 11 then s.nsToUnits (rfcTime r st 2)
  else 0

/-- The command's trigger has come (R73). -/
def State.rfcDue (s : State) (r : Radio) (c : RfcCmd) : Bool :=
  if c.trig = 0 then decide (c.start ≤ s.gtN + s.rfcLead r c)
  else if c.trig = 1 then (s.rfc.get r).trigA.isSome
  else if c.trig = 2 then (s.rfc.get r).trigB.isSome
  else true

/-- The instant of the trigger: START, the strobe, or now. -/
def State.trigInstant (s : State) (r : Radio) (c : RfcCmd) : Nat :=
  if c.trig = 0 then c.start
  else if c.trig = 1 then (s.rfc.get r).trigA.getD s.gtN
  else if c.trig = 2 then (s.rfc.get r).trigB.getD s.gtN
  else s.gtN

/-- The on-air instant a command asks for (R73). -/
def State.rfcOnAir (s : State) (r : Radio) (c : RfcCmd) : Nat :=
  if c.trig = 0 then c.start else s.trigInstant r c + s.rfcLead r c

/-- The latest on-air instant (R73). -/
def State.rfcDeadline (s : State) (r : Radio) (c : RfcCmd) : Nat :=
  if c.deadline = 0 then s.trigInstant r c + s.nsToUnits (1000 * s.rf (F.RFC_DLDEF_US r)) else c.deadline

/-- A firmware command has begun. -/
def RfcSt.fwBegun (f : RfcSt) : Bool :=
  match f.run with
  | some x => x.fw && x.cmd.isSome
  | none => false
/-- A firmware command is held, or another command is and `opc` is not ABORT (R84). -/
def RfcSt.fwWaits (f : RfcSt) (opc : Nat) : Bool :=
  match f.held with
  | some x => x.fw || opc != 11
  | none => false
/-- A command of the MAC port is held. -/
def RfcSt.macHeld (f : RfcSt) : Bool :=
  match f.held with
  | some x => !x.fw
  | none => false

/-- The command of an opcode that may execute now: the MAC port goes first (R75); a command that has begun, or that is
held, does not begin again. -/
def State.rfcPick (s : State) (r : Radio) (opc : Nat) : Option (RfcCmd × Bool) :=
  let f := s.rfc.get r
  let mac := match f.port with
    | some c => if c.opc = opc ∧ !f.macHeld ∧ s.rfcDue r c then some (c, false) else none
    | none => none
  match mac with
  | some x => some x
  | none =>
    match f.queue with
    | c :: _ =>
      if c.opc = opc ∧ !f.fwBegun ∧ !f.fwWaits opc ∧ s.rfcDue r c then some (c, true)
      else none
    | [] => none

/-! ## The state table (R76) -/

/-- Entries of the table. -/
inductive RfcEntry where
  | accept | noop | hold | reject
deriving DecidableEq, Repr

/-- The table of R76. -/
def rfcTable (opc st : Nat) : RfcEntry :=
  let row (a b c d e : RfcEntry) : RfcEntry :=
    if st = 0 then a else if st = 1 then b else if st = 2 then c else if st = 3 then d else e
  if opc = 1 then row .noop .accept .accept .accept .reject
  else if opc = 2 then row .accept .noop .reject .reject .reject
  else if opc = 3 then row .reject .accept .accept .reject .reject
  else if opc = 4 then row .reject .accept .accept .accept .accept
  else if opc = 5 then row .reject .reject .hold .noop .reject
  else if opc = 6 then row .reject .reject .hold .accept .reject
  else if opc = 7 then row .reject .reject .noop .accept .reject
  else if opc = 8 then row .reject .noop .accept .accept .reject
  else if opc = 9 then row .reject .reject .hold .reject .reject
  else if opc = 10 then row .reject .accept .accept .accept .accept
  else if opc = 11 then row .reject .noop .accept .accept .accept
  else row .reject .reject .hold .accept .accept

/-! ## FEM lines (R99, R100) -/

/-- PA_EN and LNA_EN go, and TRSW is at receive. -/
def State.femRest (s : State) (r : Radio) : State := s.setRfc r (fun f => { f with trsw := 0, paEn := 0, lnaEn := 0 })

/-! ## Transitions -/

/-- A transition begins: the command is in execution, and its strobe is used. -/
def State.rfcBegin (s : State) (r : Radio) (c : RfcCmd) (fw : Bool) (work : RfcWork) : State :=
  s.setRfc r (fun f => { f with
    run := some ⟨some c, fw, work⟩
    port := if fw then f.port else none
    held := none
    trigA := if c.trig = 1 then none else f.trigA
    trigB := if c.trig = 2 then none else f.trigB })

/-- The radio leaves SYNTH, RX or TX for STANDBY or SLEEP: the synthesiser is off. -/
def State.synthOff (s : State) (r : Radio) : State :=
  let s := s.wf (F.RFC_STAT_LOCK r) 0
  let s := (s.wf (F.RFC_STAT_ACTREC r) 0x7FF).setReg (R.RFC_REC_ACT r) 0x7FF
  s.setRfc r (fun f => { f with active := [], osc := false, storeAt := none })

/-- Leave RX for another state: the reception ends (R125) and LNA_EN goes. -/
def State.leaveRx (s : State) (r : Radio) : State :=
  if s.rfcState r = Rs.RX then (s.rxLeave r false).setRfc r (fun f => { f with lnaEn := 0 }) else s

/-- SLEEP, WAKE, IDLE and STANDBY (R76). -/
def State.rfcMove (s : State) (r : Radio) (c : RfcCmd) (fw : Bool) (target : Nat) : State :=
  let s := (s.leaveRx r).femRest r
  (if target ≤ Rs.STANDBY ∧ Rs.SYNTH ≤ s.rfcState r then s.synthOff r else s).rfcBegin r c fw (.trans target)

/-- RX begins (R81). -/
def State.rfcRxBegin (s : State) (r : Radio) (c : RfcCmd) (fw : Bool) : State :=
  (s.setRfc r (fun f => { f with chains := c.arg % 256 })).rfcBegin r c fw (.trans Rs.RX)

/-- TX begins (R81): from RX the reception ends. -/
def State.rfcTxBegin (s : State) (r : Radio) (c : RfcCmd) (fw : Bool) : State :=
  ((s.leaveRx r).setRfc r (fun f => { f with chains := c.arg % 256 })).rfcBegin r c fw (.trans Rs.TX)

/-- Hold a command (R81). -/
def State.rfcHold (s : State) (r : Radio) (c : RfcCmd) (fw : Bool) (forLock : Bool) : State :=
  let oa := s.rfcOnAir r c
  let dl := s.rfcDeadline r c
  let s := s.setRfc r (fun f => { f with held := some ⟨c, fw, oa, dl⟩ })
  if forLock then (s.wf (F.RFC_STAT_HELD r) 1).bumpTo (R.RFC_CNT_HELD r) 0xFFFF else s

/-- A held command is held no longer. -/
def State.rfcUnhold (s : State) (r : Radio) : State :=
  (s.setRfc r (fun f => { f with held := none })).wf (F.RFC_STAT_HELD r) 0

/-- A command too late: rejected with LATE, without RF energy (R82). -/
def State.rfcLate (s : State) (r : Radio) (c : RfcCmd) (fw : Bool) : State :=
  (s.bumpTo (R.RFC_CNT_LATE r) 0xFFFF).rfcDone r c fw St.LATE

/-- RX or TX in SYNTH with lock: rejected when its transition would begin too late (R82), else begun. -/
def State.rfcGo (s : State) (r : Radio) (c : RfcCmd) (fw : Bool) (deadline : Nat) : State :=
  if s.rfcState r = Rs.SYNTH ∧ deadline < s.gtN + s.rfcLead r c then s.rfcLate r c fw
  else if c.opc = 5 then s.rfcRxBegin r c fw else s.rfcTxBegin r c fw

/-! ## Records (R85 to R89) -/

/-- RFC_TEMP, in 1/16 °C. -/
def State.rfcTemp (s : State) (r : Radio) : Int := toSigned 16 (s.rf (F.RFC_TEMP_T r))

/-- The record's CRC checks (R86). -/
def recCrcOk (ws : List Word) : Bool := crc32c (wordBytes (ws.take 15)) == (ws.getD 15 0).toNat

/-- A record is valid for a tune to BW and FREQ_KHZ (R87). -/
def State.recValid (s : State) (r : Radio) (ws : List Word) (arg : Nat) : Bool :=
  recCrcOk ws && (ws.getD 3 0).getLsbD 0 &&
    bits (ws.getD 0 0) 31 28 == r.idx && bits (ws.getD 0 0) 27 24 == arg / 2 ^ 28 &&
    bits (ws.getD 0 0) 23 0 == arg % 2 ^ 24 &&
    decide ((s.rfcTemp r - 16 * toSigned 8 (bits (ws.getD 1 0) 7 0)).natAbs < 400)

/-- A record with its CRC. -/
def recSeal (ws : List Word) : List Word := ws.take 15 ++ [BitVec.ofNat 32 (crc32c (wordBytes (ws.take 15)))]

/-- A record as the RFC reads it; one with an uncorrectable word counts as invalid, as a failed CRC does, and what its
words are is a free value (R415). -/
def State.recRead (s : State) (r : Radio) (idx : Nat) : State × List Word :=
  let a := recAddr r idx
  if s.eccBad a 64 then
    let w := List.replicate 15 (BitVec.ofNat 32 s.free)
    ((s.used.eccRead (0x18 + r.idx) a 64), w ++ [~~~ (BitVec.ofNat 32 (crc32c (wordBytes w)))])
  else (s.eccRead (0x18 + r.idx) a 64, s.words a 16)

/-- The active record goes to INDEX, GEN incremented and the CRC recomputed (R87, R89). -/
def State.recWrite (s : State) (r : Radio) (idx : Nat) : State :=
  let ws := (s.rfc.get r).active
  let g := bits (ws.getD 3 0) 31 16 + 1
  let ws := recSeal (ws.set 3 (setBits (setBits (ws.getD 3 0) 31 16 g) 0 0 1))
  let s := s.store (0x18 + r.idx) (recAddr r idx) (wordBytes ws)
  let s := s.setRfc r (fun f => { f with active := ws })
  s.wf (F.RFC_REC_ACT_GEN r) g

/-- Count a record whose CRC fails (R87). -/
def State.countRecBad (s : State) (r : Radio) (ws : List Word) : State :=
  if recCrcOk ws then s else s.bumpTo (R.RFC_CNT_RECBAD r) 0xFFFF

/-- PREP (R88). -/
def State.rfcPrep (s : State) (r : Radio) (c : RfcCmd) (fw : Bool) : State :=
  let rd := s.recRead r c.index
  let s := rd.1
  let ws := rd.2
  let v := s.recValid r ws c.arg
  let s := s.countRecBad r ws
  let s := s.setRfc r (fun f => { f with prep := some ⟨c.index, ws, v, true⟩ })
  let s := s.setRegN (R.RFC_REC_NEXT r)
    ((if v then 2 ^ 31 else 0) + bits (ws.getD 3 0) 30 16 * 2 ^ 16 + c.index)
  s.rfcDone r c fw St.OK

/-- The 80 MHz segment, or the band on S, of a channel centre (R90). -/
def segmentOf (r : Radio) (f : Nat) : Nat :=
  match r with
  | .l => (f - 2400000) / 80000
  | .m => (f - 5150000) / 80000
  | .h => (f - 5925000) / 80000
  | .s => if f ≤ 876000 then 0 else 1

/-- Groups of four chains (R90). -/
def groupsOf (r : Radio) : Nat := RegMap.pick r.idx 1 2 2 1

/-- Make IQ, FBW or DCO (mask bits 1 to 3) due, with all its steps (R91, R92). -/
def State.calDue (s : State) (r : Radio) (k : Nat) : State :=
  if (s.reg (R.RFC_CALDUE r)).getLsbD k then s
  else
    let g := groupsOf r
    let s := s.setReg (R.RFC_CALDUE r) (s.reg (R.RFC_CALDUE r) ||| BitVec.ofNat 32 (2 ^ k))
    s.setRfc r (fun f => if k = 1 then { f with leftIq := 5 * g } else if k = 2 then { f with leftFbw := g }
      else if k = 3 then { f with leftDco := 3 * g } else f)

/-- What a TUNE makes due: IQ in another segment, FBW at another width (R90). -/
def State.tuneDue (s : State) (r : Radio) (arg : Nat) : State :=
  let f := s.rfc.get r
  let s := if f.iqFreq.any (fun x => segmentOf r x != segmentOf r (arg % 2 ^ 24)) then s.calDue r 1 else s
  if f.fbwBw.any (fun x => x != arg / 2 ^ 28) then s.calDue r 2 else s

/-- TUNE (R73, R87, R88): the retune begins and the command completes. -/
def State.rfcTune (s : State) (r : Radio) (c : RfcCmd) (fw : Bool) : State :=
  let f := s.rfc.get r
  let named := c.index ≠ 0x7FF
  let rd := if named then s.recRead r c.index else (s, (f.prep.map (·.words)).getD [])
  let s := rd.1
  let ws := rd.2
  let valid :=
    if named then s.recValid r ws c.arg
    else f.prep.any (fun p => p.valid && p.fresh) && bits (ws.getD 0 0) 27 24 == c.arg / 2 ^ 28 &&
      bits (ws.getD 0 0) 23 0 == c.arg % 2 ^ 24
  let s := if named then s.countRecBad r ws else s
  let idx := if named then c.index else (f.prep.map (·.index)).getD 0x7FF
  let fresh : List Word := [BitVec.ofNat 32 (r.idx * 2 ^ 28 + c.arg % 2 ^ 28 + c.arg / 2 ^ 28 * 2 ^ 24), 0, 0,
    setBits 0 31 16 (bits (ws.getD 3 0) 31 16), 0, 0, 0, 0, 0, 0, 0, 0, 0, 0, 0, 0]
  let act := if valid then ws else fresh
  let s := s.setRfc r (fun f => { f with
    active := act
    osc := !valid
    storeAt := if !valid ∧ c.store ∧ named then some c.index else none
    prep := f.prep.map (fun p => { p with fresh := false })
    trigA := if c.trig = 1 then none else f.trigA
    trigB := if c.trig = 2 then none else f.trigB })
  let s := if valid then s else s.setReg (R.RFC_CALDUE r) (s.reg (R.RFC_CALDUE r) ||| 1)
  let s := s.tuneDue r c.arg
  let s := (s.wf (F.RFC_STAT_STATE r) Rs.SYNTH).wf (F.RFC_STAT_LOCK r) 0
  let s := s.wf (F.RFC_STAT_ACTREC r) (if valid then idx else 0x7FF)
  let s := s.setRegN (R.RFC_REC_ACT r)
    ((if valid then bits (ws.getD 3 0) 31 16 * 2 ^ 16 else 0) + (if valid then idx else 0x7FF))
  s.rfcDone r c fw St.OK

/-- STORE (R89): the active record, with the current temperature, to INDEX. -/
def State.rfcStore (s : State) (r : Radio) (c : RfcCmd) (fw : Bool) : State :=
  let t := ofSigned 8 (divOpenInt (s.rfcTemp r) 16)
  let s := s.setRfc r (fun f => { f with active := f.active.set 1 (setBits (f.active.getD 1 0) 7 0 t) })
  (s.recWrite r c.index).rfcDone r c fw St.OK

/-! ## Calibrations (R90 to R94) -/

/-- Steps left of one calibration. -/
def RfcSt.left (f : RfcSt) (k : Nat) : Nat :=
  if k = 0 then 1 else if k = 1 then f.leftIq else if k = 2 then f.leftFbw else if k = 3 then f.leftDco else 0

/-- The calibrations named in a mask, in the order of R92. -/
def calList (mask : Nat) : List Nat := [0, 1, 2, 3].filter (fun k => mask / 2 ^ k % 2 == 1)

/-- The calibrations of a mask that have steps to run. -/
def RfcSt.calTodo (f : RfcSt) (mask : Nat) : List Nat := (calList mask).filter (fun k => f.left k != 0)

/-- Steps remaining of a mask. -/
def RfcSt.calRemain (f : RfcSt) (mask : Nat) : Nat := (calList mask).foldl (fun n k => n + f.left k) 0

/-- A run of calibrations ends (R92, R93). -/
def State.calEnd (s : State) (r : Radio) (status : Nat) : State :=
  let s := s.wf (F.RFC_STAT_CALRUN r) 0
  let s := s.wf (F.RFC_CALSTAT_STATUS r) status
  let s := s.setRfc r (fun f => { f with calMask := 0, calStop := false })
  s.rfcEndRun r status

/-- A run of calibrations begins, with the command or without one (R92, R94). -/
def State.calBegin (s : State) (r : Radio) (cmd : Option RfcCmd) (fw : Bool) (mask : Nat) : State :=
  let s := s.setRfc r (fun f => { f with
    run := some ⟨cmd, fw, .cal⟩
    held := none
    calMask := mask
    calStop := false
    trigA := (if cmd.any (fun c => c.trig == 1) then none else f.trigA)
    trigB := (if cmd.any (fun c => c.trig == 2) then none else f.trigB) })
  let s := (s.wf (F.RFC_CALSTAT_REMAIN r) ((s.rfc.get r).calRemain mask)).wf (F.RFC_CALSTAT_PART r) 0
  if ((s.rfc.get r).calTodo mask).isEmpty then s.calEnd r St.OK else s.wf (F.RFC_STAT_CALRUN r) 1

/-- The running calibration is to stop at its next safe point (R83, R84). -/
def State.calStopNow (s : State) (r : Radio) : State := s.setRfc r (fun f => { f with calStop := true })

/-- A calibration step runs. -/
def State.calRunning (s : State) (r : Radio) : Bool := (s.rfc.get r).run.any (fun x => x.work == .cal)
/-- A transition is under way. -/
def State.rfcMoving (s : State) (r : Radio) : Bool :=
  (s.rfc.get r).run.any (fun x => match x.work with | .trans _ => true | _ => false)

/-! ## Execution of a due command -/

/-- A rejection by the state table (R77). -/
def State.rfcReject (s : State) (r : Radio) (c : RfcCmd) (fw : Bool) : State :=
  (s.bumpTo (R.RFC_CNT_STATE r) 0xFFFF).rfcDone r c fw St.STATE

/-- Carry out a due command of an opcode: the table of R76 first, then `go`. A command due while a transition is under way
waits for it; one due during a calibration waits for it unless R83 or R84 stops it. -/
def State.rfcRun (s : State) (r : Radio) (opc : Nat) (go : State → RfcCmd → Bool → State) : State :=
  match s.rfcPick r opc with
  | none => s
  | some (c, fw) =>
    if s.rfcMoving r then s
    else
      match rfcTable opc (s.rfcState r) with
      | .reject => s.rfcReject r c fw
      | .noop => s.rfcDone r c fw St.OK
      | .accept =>
        if s.calRunning r && opc != 11 then s else go s c fw
      | .hold =>
        if !s.rb (F.RFC_STAT_LOCK r) then s.rfcHold r c fw true
        else if s.calRunning r then
          (if opc = 5 ∨ opc = 6 then
            ((s.calStopNow r).bumpTo (R.RFC_CNT_CALPRE r) 0xFFFF).rfcHold r c fw false
           else s)
        else go s c fw

/-- RFC_SLEEP (R76). -/
def execRfcSleep (r : Radio) (s : State) : Host.Outcome State Fault Refusal :=
  .next (s.rfcRun r 1 (fun s c fw => s.rfcMove r c fw Rs.SLEEP))
/-- RFC_WAKE (R76). -/
def execRfcWake (r : Radio) (s : State) : Host.Outcome State Fault Refusal :=
  .next (s.rfcRun r 2 (fun s c fw => s.rfcMove r c fw Rs.STANDBY))
/-- RFC_TUNE (R73, R87). -/
def execRfcTune (r : Radio) (s : State) : Host.Outcome State Fault Refusal :=
  .next (s.rfcRun r 3 (fun s c fw => s.rfcTune r c fw))
/-- RFC_PREP (R88). -/
def execRfcPrep (r : Radio) (s : State) : Host.Outcome State Fault Refusal :=
  .next (s.rfcRun r 4 (fun s c fw => s.rfcPrep r c fw))
/-- RFC_RX (R81). -/
def execRfcRx (r : Radio) (s : State) : Host.Outcome State Fault Refusal :=
  .next (s.rfcRun r 5 (fun s c fw => s.rfcGo r c fw (s.rfcDeadline r c)))
/-- RFC_TX (R81). -/
def execRfcTx (r : Radio) (s : State) : Host.Outcome State Fault Refusal :=
  .next (s.rfcRun r 6 (fun s c fw => s.rfcGo r c fw (s.rfcDeadline r c)))
/-- RFC_IDLE (R76). -/
def execRfcIdle (r : Radio) (s : State) : Host.Outcome State Fault Refusal :=
  .next (s.rfcRun r 7 (fun s c fw => s.rfcMove r c fw Rs.SYNTH))
/-- RFC_STANDBY (R76). -/
def execRfcStandby (r : Radio) (s : State) : Host.Outcome State Fault Refusal :=
  .next (s.rfcRun r 8 (fun s c fw => s.rfcMove r c fw Rs.STANDBY))
/-- RFC_CAL (R92). -/
def execRfcCal (r : Radio) (s : State) : Host.Outcome State Fault Refusal :=
  .next (s.rfcRun r 9 (fun s c fw => s.calBegin r (some c) fw (c.arg % 16)))

/-- DPDUP (R98): refused with BUSY while one is armed; else armed, and the head is free. -/
def State.rfcDpdup (s : State) (r : Radio) (c : RfcCmd) (fw : Bool) : State :=
  if s.rb (F.RFC_STAT_DPDARM r) then s.rfcDone r c fw St.BUSY
  else ((s.rfcTake r fw).setRfc r (fun f => { f with dpd := some ⟨c, false⟩ })).wf (F.RFC_STAT_DPDARM r) 1

/-- RFC_DPDUP (R98). -/
def execRfcDpdup (r : Radio) (s : State) : Host.Outcome State Fault Refusal :=
  .next (s.rfcRun r 10 (fun s c fw => s.rfcDpdup r c fw))

/-- ABORT ends what is going on: a held command, a calibration, a reception, a PPDU (R84). -/
def State.rfcAbort (s : State) (r : Radio) (c : RfcCmd) (fw : Bool) : State :=
  let s := s.rfcTake r fw
  let s := match (s.rfc.get r).held with
    | some x => (s.rfcUnhold r).rfcDone r x.cmd x.fw St.ABORTED
    | none => s
  let s := if s.calRunning r then s.calStopNow r else s
  let s := s.rfcResult r c St.OK
  if s.rfcState r = Rs.RX then
    ((s.leaveRx r).femRest r).setRfc r (fun f => { f with run := some ⟨none, false, .trans Rs.SYNTH⟩ })
  else if s.rfcState r = Rs.TX then
    let tag := ((s.rfc.get r).run.bind (·.cmd)).map (·.tag)
    let s := s.ppduEnd r (tag.getD 0) St.ABORTED
    ((s.rfcEndRun r St.ABORTED).femRest r).setRfc r (fun f => { f with run := some ⟨none, false, .trans Rs.SYNTH⟩ })
  else s

/-- RFC_ABORT (R84). -/
def execRfcAbort (r : Radio) (s : State) : Host.Outcome State Fault Refusal :=
  .next (s.rfcRun r 11 (fun s c fw => s.rfcAbort r c fw))
/-- RFC_STORE (R89). -/
def execRfcStore (r : Radio) (s : State) : Host.Outcome State Fault Refusal :=
  .next (s.rfcRun r 12 (fun s c fw => s.rfcStore r c fw))

/-! ## Ends of transitions, lock and its loss -/

/-- A transition ends (R70, R71, R100). A TX is now on the air; any other command completes with OK. -/
def State.transDone (s : State) (r : Radio) (x : RfcRun) (t : Nat) : State :=
  let s := s.wf (F.RFC_STAT_STATE r) t
  let ch := BitVec.ofNat 8 (s.rfc.get r).chains
  if t = Rs.TX then
    let power := (x.cmd.map (·.arg)).getD 0 / 2 ^ 24
    let s := s.setRfc r (fun f => { f with trsw := ch, paEn := ch, lnaEn := 0, run := some { x with work := .tx } })
    s.ppduStart r power (s.rfc.get r).chains
  else if t = Rs.RX then
    let s := s.setRfc r (fun f => { f with trsw := 0, paEn := 0, lnaEn := ch })
    (s.wf (F.MDM_STAT_PHASE r) (s.idlePhase r)).rfcEndRun r St.OK
  else (s.wf (F.MDM_STAT_PHASE r) 15).rfcEndRun r St.OK

/-- RFC_TRANSITION_DONE (R71). -/
def execRfcTransitionDone (r : Radio) (s : State) : Host.Outcome State Fault Refusal :=
  match (s.rfc.get r).run with
  | some x =>
    match x.work with
    | .trans t => .next (s.transDone r x t)
    | _ => .next s
  | none => .next s

/-- A held command goes on (R81): RX and TX when their on-air instant is no later than the deadline, CAL and STORE at once. -/
def State.heldGo (s : State) (r : Radio) : State :=
  match (s.rfc.get r).held with
  | none => s
  | some x =>
    let s := s.rfcUnhold r
    if x.cmd.opc = 9 then s.calBegin r (some x.cmd) x.fw (x.cmd.arg % 16)
    else if x.cmd.opc = 12 then s.rfcStore r x.cmd x.fw
    else if x.deadline < max x.onAir (s.gtN + s.rfcLead r x.cmd) then s.rfcLate r x.cmd x.fw
    else if x.cmd.opc = 5 then s.rfcRxBegin r x.cmd x.fw else s.rfcTxBegin r x.cmd x.fw

/-- Lock arrives (R81, R87): OSC has given `codes` (VCO band, amplitude, charge-pump code), and a record that is to be
written back is written. -/
def State.synthLock (s : State) (r : Radio) (codes : BitVec 24) : State :=
  let f := s.rfc.get r
  let s := s.wf (F.RFC_STAT_LOCK r) 1
  let s :=
    if f.osc then
      let w1 := BitVec.ofNat 32 (codes.toNat * 2 ^ 8 + ofSigned 8 (divOpenInt (s.rfcTemp r) 16))
      let freq := s.synthFreq r
      let ndiv := BitVec.ofNat 32 (freq / 40000 * 2 ^ 24 + divOpen (freq % 40000 * 2 ^ 24) 40000)
      let s := s.setRfc r (fun f => { f with osc := false, storeAt := none, active := (f.active.set 1 w1).set 2 ndiv })
      let s := s.setReg (R.RFC_CALDUE r) (s.reg (R.RFC_CALDUE r) &&& ~~~(1 : Word))
      match f.storeAt with
      | some i =>
        let s := s.recWrite r i
        (s.wf (F.RFC_STAT_ACTREC r) i).wf (F.RFC_REC_ACT_INDEX r) i
      | none => s
    else s
  s.heldGo r

/-- SYNTH_LOCK (R81). -/
def execSynthLock (r : Radio) (codes : BitVec 24) (s : State) : Host.Outcome State Fault Refusal :=
  if s.rfcState r = Rs.SYNTH ∧ !s.rb (F.RFC_STAT_LOCK r) then .next (s.synthLock r codes) else .next s

/-- Lock is lost (R72). -/
def State.lockLoss (s : State) (r : Radio) : State :=
  let s := s.femRest r
  let s := if s.rfcState r = Rs.RX then s.rxLeave r true else s
  let onAir := (s.rfc.get r).run.any (fun x => x.work == .tx)
  let tag := (((s.rfc.get r).run.bind (·.cmd)).map (·.tag)).getD 0
  let s := if onAir then s.ppduEnd r tag St.HW else s
  let s := (s.wf (F.RFC_STAT_STATE r) Rs.SYNTH).wf (F.RFC_STAT_LOCK r) 0
  let s := s.bumpTo (R.RFC_CNT_LOCKLOSS r) 0xFFFF
  let s := if s.calRunning r then s.calEnd r St.HW else s.rfcEndRun r St.HW
  s.raise (radioEv r + 3)

/-- LOCK_LOSS (R72). -/
def execLockLoss (r : Radio) (s : State) : Host.Outcome State Fault Refusal :=
  if Rs.SYNTH ≤ s.rfcState r ∧ s.rb (F.RFC_STAT_LOCK r) then .next (s.lockLoss r) else .next s

/-- HELD_DEADLINE (R82): the deadline of the held RX or TX can no longer be met. -/
def execHeldDeadline (r : Radio) (s : State) : Host.Outcome State Fault Refusal :=
  match (s.rfc.get r).held with
  | some x =>
    if (x.cmd.opc = 5 ∨ x.cmd.opc = 6) ∧ x.deadline < s.gtN + s.rfcLead r x.cmd then
      .next ((s.rfcUnhold r).rfcLate r x.cmd x.fw)
    else .next s
  | none => .next s

/-! ## Calibration steps -/

/-- Record words that a step of IQ (words 6 to 13) or FBW (words 4 and 5) of group `g` replaces. -/
def applyCodes (ws : List Word) (k : Nat) : List Word → List Word
  | [] => ws
  | c :: cs => applyCodes (ws.set k c) (k + 1) cs

/-- One step of calibration `k` completes (R92): its result is applied, and its count goes down. -/
def RfcSt.stepDone (f : RfcSt) (r : Radio) (k : Nat) (codes : List Word) : RfcSt :=
  if k = 1 then
    let g := (5 * groupsOf r - f.leftIq) / 5
    { f with leftIq := f.leftIq - 1, active := applyCodes f.active (6 + 4 * g) (codes.take 4) }
  else if k = 2 then
    let g := groupsOf r - f.leftFbw
    { f with leftFbw := f.leftFbw - 1, active := applyCodes f.active (4 + g) (codes.take 1) }
  else if k = 3 then { f with leftDco := f.leftDco - 1, dco := codes }
  else
    { f with active := f.active.set 1 (setBits (f.active.getD 1 0) 31 8 (bits (codes.headD 0) 31 8)) }

/-- The bookkeeping when the last step of calibration `k` completes (R90, R91). -/
def State.calComplete (s : State) (r : Radio) (k : Nat) : State :=
  let s := s.setReg (R.RFC_CALDUE r) (s.reg (R.RFC_CALDUE r) &&& ~~~(BitVec.ofNat 32 (2 ^ k)))
  let t := s.rfcTemp r
  let freq := s.synthFreq r
  let bw := s.synthBw r
  s.setRfc r (fun f =>
    let f := { f with calMask := f.calMask - 2 ^ k }
    if k = 1 then { f with tempIq := t, atIq := some s.gt, iqFreq := some freq }
    else if k = 2 then { f with tempFbw := t, atFbw := some s.gt, fbwBw := some bw }
    else if k = 3 then { f with tempDco := t, atDco := some s.gt }
    else { f with active := f.active.set 1 (setBits (f.active.getD 1 0) 7 0 (ofSigned 8 (divOpenInt t 16))) })

/-- A step reaches its safe point with a good result (R92). -/
def State.calStepOk (s : State) (r : Radio) (k : Nat) (codes : List Word) : State :=
  let s := s.setRfc r (fun f => f.stepDone r k codes)
  let s := if k = 0 ∨ (s.rfc.get r).left k = 0 then s.calComplete r k else s
  let f := s.rfc.get r
  let s := s.wf (F.RFC_CALSTAT_REMAIN r) (f.calRemain f.calMask)
  if (f.calTodo f.calMask).isEmpty then (s.calEnd r St.OK).heldGo r
  else if f.calStop then
    let s := s.wf (F.RFC_CALSTAT_PART r) f.calMask
    (s.calEnd r St.ABORTED).heldGo r
  else s

/-- A step's result lies outside its limit (R93). -/
def State.calStepFail (s : State) (r : Radio) (k : Nat) : State :=
  let s := s.wf (F.RFC_CALSTAT_FAIL r) (s.rf (F.RFC_CALSTAT_FAIL r) ||| 2 ^ k)
  ((s.calEnd r St.HW).raise (radioEv r + 3)).heldGo r

/-- CAL_STEP_DONE (R92, R93). -/
def execCalStepDone (r : Radio) (ok : Bool) (codes : List (BitVec 32)) (s : State) : Host.Outcome State Fault Refusal :=
  let f := s.rfc.get r
  if s.calRunning r then
    match f.calTodo f.calMask with
    | [] => .next s
    | k :: _ => .next (if ok then s.calStepOk r k codes else s.calStepFail r k)
  else .next s

/-- CAL_PERIOD_DUE (R90): IQ, FBW and DCO are due. -/
def execCalPeriodDue (r : Radio) (s : State) : Host.Outcome State Fault Refusal :=
  .next (((s.calDue r 1).calDue r 2).calDue r 3)

/-- A new temperature (R90): what has moved by its threshold or more is due; OSC at 25 °C from the active record. -/
def State.newTemp (s : State) (r : Radio) (temp : BitVec 16) : State :=
  let s := s.wf (F.RFC_TEMP_T r) temp.toNat
  let t := s.rfcTemp r
  let f := s.rfc.get r
  let far (x : Int) (thr : Nat) : Bool := decide (16 * thr ≤ (t - x).natAbs)
  let s := if far f.tempIq (s.rf (F.RFC_CALTHR_IQ r)) then s.calDue r 1 else s
  let s := if far f.tempFbw (s.rf (F.RFC_CALTHR_FBW r)) then s.calDue r 2 else s
  let s := if far f.tempDco (s.rf (F.RFC_CALTHR_DCO r)) then s.calDue r 3 else s
  if f.active ≠ [] ∧ far (16 * toSigned 8 (bits (f.active.getD 1 0) 7 0)) 25 then
    s.setReg (R.RFC_CALDUE r) (s.reg (R.RFC_CALDUE r) ||| 1) else s

/-- CAL_TEMP_DUE (R90). -/
def execCalTempDue (r : Radio) (temp : BitVec 16) (s : State) : Host.Outcome State Fault Refusal :=
  .next (s.newTemp r temp)

/-- CAL_OVERDUE (R91). -/
def execCalOverdue (r : Radio) (s : State) : Host.Outcome State Fault Refusal :=
  if s.reg (R.RFC_CALDUE r) &&& 0xE ≠ 0 then .next (s.raise (radioEv r + 3)) else .next s

/-- Some command is due. -/
def State.rfcAnyDue (s : State) (r : Radio) : Bool :=
  (s.rfc.get r).port.any (fun c => s.rfcDue r c) || (s.rfc.get r).queue.head?.any (fun c => s.rfcDue r c)

/-- AUTOCAL_START (R94). -/
def execAutocalStart (r : Radio) (s : State) : Host.Outcome State Fault Refusal :=
  let f := s.rfc.get r
  let mask := bits (s.reg (R.RFC_CALDUE r)) 3 0
  if s.rb (F.RFC_CTRL_AUTOCAL r) ∧ s.rfcState r = Rs.SYNTH ∧ s.rb (F.RFC_STAT_LOCK r) ∧ f.run.isNone ∧ f.held.isNone ∧
      !s.rfcAnyDue r ∧ mask ≠ 0 then
    .next (s.calBegin r none false mask)
  else .next s

/-! ## Pre-distortion fits (R96, R98) -/

/-- The model a fit writes (R96). -/
def State.dpdModel (s : State) (r : Radio) (chain index nmse plo phi : Nat) (coef : List Word) : List Word :=
  let gen := s.mf (modelAddr index + 8) 31 16 + 1
  let t := ofSigned 8 (divOpenInt (s.rfcTemp r) 16)
  let head : List Word := [
    BitVec.ofNat 32 (r.idx * 2 ^ 28 + chain * 2 ^ 24 + s.synthFreq r),
    BitVec.ofNat 32 (s.synthBw r * 2 ^ 24 + plo * 2 ^ 16 + phi * 2 ^ 8 + t),
    BitVec.ofNat 32 (gen % 2 ^ 16 * 2 ^ 16 + nmse * 2 ^ 8 + 1), 0]
  let body := head ++ (coef ++ List.replicate 16 (0 : Word)).take 16 ++ List.replicate 11 (0 : Word)
  body ++ [BitVec.ofNat 32 (crc32c (wordBytes body))]

/-- A DPDUP ends. -/
def State.dpdEnd (s : State) (r : Radio) (d : RfcDpd) (status : Nat) : State :=
  ((s.setRfc r (fun f => { f with dpd := none })).wf (F.RFC_STAT_DPDARM r) 0).rfcResult r d.cmd status

/-- The fit ends (R98): the model is written only when its error is at or below NMAX (both in −dB). -/
def State.dpdFit (s : State) (r : Radio) (d : RfcDpd) (nmse plo phi : Nat) (coef : List Word) : State :=
  if nmse < s.rf (F.RFC_DPD_CTRL_NMAX r) then (s.dpdEnd r d St.HW).raise (radioEv r + 3)
  else
    let chain := d.cmd.arg % 16
    let s := s.store (0x18 + r.idx) (modelAddr d.cmd.index) (wordBytes (s.dpdModel r chain d.cmd.index nmse plo phi coef))
    let s := if d.cmd.arg / 256 % 2 = 1 then s.wf (F.RFC_DPD_SEL_MODEL r chain) d.cmd.index else s
    (s.wf (F.RFC_CALDUE_DPD r) 0).dpdEnd r d St.OK

/-- DPD_FIT_DONE (R98). -/
def execDpdFitDone (r : WRadio) (nmse plo phi : BitVec 8) (coef : List (BitVec 32)) (s : State) :
    Host.Outcome State Fault Refusal :=
  match (s.rfc.get r.toRadio).dpd with
  | some d => if d.captured then .next (s.dpdFit r.toRadio d nmse.toNat plo.toNat phi.toNat coef) else .next s
  | none => .next s

/-- DPD_TIMEOUT (R98). -/
def execDpdTimeout (r : WRadio) (s : State) : Host.Outcome State Fault Refusal :=
  match (s.rfc.get r.toRadio).dpd with
  | some d => if d.captured then .next s else .next (s.dpdEnd r.toRadio d St.ABORTED)
  | none => .next s

/-- DPD_DUE (R98). -/
def execDpdDue (r : WRadio) (s : State) : Host.Outcome State Fault Refusal :=
  .next (s.wf (F.RFC_CALDUE_DPD r.toRadio) 1)

/-! ## FEM timing -/

/-- The register RFC_FEMT0, 1 or 2. -/
def femtReg (r : Radio) (k : Nat) : Nat := R.RFC_FEMT0 r + 4 * k

/-- FEMT_WRITE (R101). -/
def execFemtWrite (i : Init) (r : Radio) (k : Fin 3) (v : Word) (s : State) : Host.Outcome State Fault Refusal :=
  .next (s.onWrite i (femtReg r k.val) (fun s => s.writeReg i.val (femtReg r k.val) v))

/-- A strobe on sequencer trigger A (true) or B reaches the controller (R32, R73): the command that awaits it takes it. -/
def State.rfcStrobe (s : State) (r : Radio) (a : Bool) : State :=
  let f := s.rfc.get r
  let t := if a then 1 else 2
  let waits := f.port.any (fun c => c.trig == t) ||
    (f.queue.head?.any (fun c => c.trig == t) && !f.fwBegun)
  if waits then s.setRfc r (fun f => if a then { f with trigA := some s.gtN } else { f with trigB := some s.gtN }) else s

end Sys2Proof.Machine
end

