-- ==== Sys2Proof/Machine/Mdm.lean ====
section
/-! DEFINITION. The modems (R103 to R139): detection, field checks, capture, TB receptions, decoding, transmit vectors. -/

namespace Sys2Proof.Machine

/-- The bit of MDM_CCA of the primary subchannel. -/
def State.primBit (s : State) (r : Radio) : Nat := if r = .s then 0 else s.rf (F.MDM_CTRL_PRIM r) % 16

/-- A reception begins (R109, R112, R126): the stamp is the measured instant less MDM_RXDLY. -/
def State.rxBegin (s : State) (r : Radio) (pwr : Int) (stamp : GTime) : State :=
  let st := stamp - BitVec.ofNat 64 (s.nsToUnits (s.rf (F.MDM_RXDLY_NS r)))
  let tb := (s.mdm.get r).tb.isSome
  let s := s.setMdm r (fun m => { m with lsig := tb, weak := 0, w0 := 0, stamp := st, cwFail := 0 })
  let energy := decide (toSigned 8 (s.rf (F.MDM_EDTHR_T r)) ≤ pwr)
  let s := s.setRegN (R.MDM_CCA r) (2 ^ s.primBit r + (if energy then 2 ^ (16 + s.primBit r) else 0))
  let s := (s.wf (F.MDM_STAT_DETPWR r) (ofSigned 8 pwr)).wf (F.MDM_STAT_RSTARM r) (if tb then 0 else 1)
  (s.wf (F.MDM_STAT_PHASE r) 1).bump (R.MDM_CNT_DET r)

/-- PACKET_DETECT (R109, R120). -/
def execPacketDetect (r : Radio) (pwr : Int) (stamp : GTime) (s : State) : Host.Outcome State Fault Refusal :=
  if s.rfcState r = Rs.RX ∧ (s.mdmPhase r = 0 ∨ s.mdmPhase r = 5) ∧
      toSigned 8 (s.rf (F.MDM_DETTHR_T r)) ≤ pwr then
    .next (s.rxBegin r pwr stamp)
  else .next s

/-- A failed check abandons the reception (R110, R111). -/
def State.falseDetection (s : State) (r : Radio) : State := (s.bump (R.MDM_CNT_FALSE r)).rxOver r true false

/-- A check that passed: the L-SIG first (R114); the last one leads to the data symbols (R113). -/
def State.fieldPass (s : State) (r : Radio) (last : Bool) (w0 : Word) : State :=
  let s := s.setMdm r (fun m => { m with lsig := true, w0 := w0 })
  if last then
    let s := s.wf (F.MDM_STAT_RSTARM r) (if (s.mdm.get r).tb.isSome then 0 else s.rf (F.MDM_CTRL_MIDCAP r))
    s.wf (F.MDM_STAT_PHASE r) 3
  else s.wf (F.MDM_STAT_PHASE r) 2

/-- FIELD_CHECK (R110, R117): `first` is the L-SIG, the PLCP header or the PHR; `w0` is what the fields gave so far. -/
def execFieldCheck (r : Radio) (first : Bool) (res : FieldOutcome) (w0 : Word) (s : State) :
    Host.Outcome State Fault Refusal :=
  if (first ∧ s.mdmPhase r = 1) ∨ (!first ∧ s.mdmPhase r = 2) then
    match res with
    | .fail => .next (s.falseDetection r)
    | .pass => .next (s.fieldPass r false w0)
    | .passLast => .next (s.fieldPass r true w0)
    | .unsupported =>
      .next ((s.setMdm r (fun m => { m with lsig := true, w0 := w0 })).wf (F.MDM_STAT_PHASE r) 4)
  else .next s

/-- UNSUPPORTED_HOLD_END (R117). -/
def execUnsupportedHoldEnd (r : Radio) (s : State) : Host.Outcome State Fault Refusal :=
  if s.mdmPhase r = 4 then .next (((s.failBlock r St.TYPE 0).bump (R.MDM_CNT_UNSUP r)).rxOver r false false)
  else .next s

/-- The ending reception is accounted for by how far it had progressed (R114). -/
def State.rxCaptured (s : State) (r : Radio) : State :=
  if (s.mdm.get r).lsig then (s.failBlock r St.ABORTED 0).bump (R.MDM_CNT_CAPT r)
  else s.bump (R.MDM_CNT_CAPTPRE r)

/-- SECOND_DETECTION (R112, R116). -/
def execSecondDetection (r : Radio) (pwr : Int) (stamp : GTime) (s : State) : Host.Outcome State Fault Refusal :=
  if s.mdmReceiving r ∧ s.rb (F.MDM_STAT_RSTARM r) then
    if 2 * toSigned 8 (s.rf (F.MDM_STAT_DETPWR r)) + (s.rf (F.MDM_CAPM_M r) : Int) ≤ 2 * pwr then
      .next (((s.rxCaptured r).rxOver r false false).rxBegin r pwr stamp)
    else .next (s.setMdm r (fun m => { m with weak := m.weak + 1 }))
  else .next s

/-- CLIP_RESTART (R115). -/
def execClipRestart (r : Radio) (s : State) : Host.Outcome State Fault Refusal :=
  if s.mdmReceiving r ∧ s.rb (F.MDM_STAT_RSTARM r) ∧ s.rb (F.MDM_CTRL_CLIPRST r) then
    .next (((s.rxCaptured r).bump (R.MDM_CNT_CLIPRST r)).rxOver r false false)
  else .next s

/-! ## TB receptions (R120) -/

/-- A TB reception is armed (R120): at most 16 users (R105). -/
def State.tbArm (s : State) (r : Radio) (users : List (BitVec 12)) (target : BitVec 8) : State :=
  if users.length ≤ 16 ∧ !s.mdmReceiving r then
    let s := s.setMdm r (fun m => { m with tb := some ⟨users, target⟩ })
    if s.rfcState r = Rs.RX then s.wf (F.MDM_STAT_PHASE r) 5 else s
  else s

/-- TB_RECEPTION_ARM (R120). -/
def execTbReceptionArm (r : WRadio) (users : List (BitVec 12)) (target : BitVec 8) (s : State) :
    Host.Outcome State Fault Refusal :=
  .next (s.tbArm r.toRadio users target)

/-- A block with ABSENT for every user of a list. -/
def State.absentBlocks (s : State) (r : Radio) : List (BitVec 12) → State
  | [] => s
  | u :: us => ((s.failBlock r St.ABSENT (BitVec.ofNat 32 u.toNat)).bump (R.MDM_CNT_TBABS r)).absentBlocks r us

/-- TB_WINDOW_END (R120): no L-STF energy arrived. -/
def execTbWindowEnd (r : WRadio) (s : State) : Host.Outcome State Fault Refusal :=
  let r := r.toRadio
  match (s.mdm.get r).tb with
  | none => .next s
  | some t =>
    if s.mdmPhase r = 5 then .next (((s.absentBlocks r t.users).rxOver r false false).raise (radioEv r + 5))
    else .next s

/-! ## Decoding (R122, R123) -/

/-- CODEWORD_DECODED (R122, R123): `half` and `quarter` say that the decoder's input buffer is more than half full, or less
than a quarter full. -/
def execCodewordDecoded (r : WRadio) (fail half quarter : Bool) (s : State) : Host.Outcome State Fault Refusal :=
  let r := r.toRadio
  let maxit := s.rf (F.MDM_LDPC_MAXIT r)
  let now := min (s.mdm.get r).ldpcMax maxit
  let s := if now < maxit then s.bump (R.MDM_CNT_ITRED r) else s
  let s := if fail then s.bump (R.MDM_CNT_CWFAIL r) else s
  .next (s.setMdm r (fun m => { m with
    cwFail := if fail then min (m.cwFail + 1) 255 else m.cwFail
    ldpcMax := if half then max (s.rf (F.MDM_LDPC_FLOOR r)) (now - 1) else if quarter then min maxit (now + 1) else now }))

/-- Deliver the status blocks of a reception that reached its end (R120, R128). -/
def State.deliverBlocks (s : State) (r : Radio) (tb : Bool) : List RxMeas → State
  | [] => s
  | b :: bs =>
    let m := s.mdm.get r
    let w0 := setBits (if tb then b.w0 else m.w0) 23 16 (if b.absent then St.ABSENT else St.OK)
    let len := if b.absent then 0 else b.len
    let w7 := if tb then b.w7 else setBits b.w7 7 0 m.cwFail
    let s := if b.absent then s.bump (R.MDM_CNT_TBABS r) else s
    (s.deliverBlock r [w0, b.w1, BitVec.ofNat 32 len, m.stamp.extractLsb' 0 32, m.stamp.extractLsb' 32 32, b.rssi0,
      b.rssi1, w7]).deliverBlocks r tb bs

/-- PPDU_RECEIVE_END (R124, R128): what was measured for the user, or for each user of a TB reception. -/
def execPpduReceiveEnd (r : Radio) (blocks : List RxMeas) (s : State) : Host.Outcome State Fault Refusal :=
  if s.mdmPhase r = 3 then
    let tb := (s.mdm.get r).tb.isSome
    let blocks := if tb then blocks else (blocks.take 1).map (fun b => { b with absent := false })
    let s := s.deliverBlocks r tb blocks
    let s := s.rxOver r false false
    .next (if tb ∧ blocks.all (fun b => b.absent) then s.raise (radioEv r + 5) else s)
  else .next s

/-! ## Transmission (R129 to R133) -/

/-- The radio sends the format (R103, R107, R134). -/
def fmtOk (r : Radio) (fmt : Nat) : Bool :=
  match r with
  | .l => [0, 1, 2, 3, 5, 6, 7, 9].contains fmt
  | .m => [1, 2, 3, 4, 5, 6, 7, 9].contains fmt
  | .h => [1, 2, 5, 6, 7, 9].contains fmt
  | .s => fmt == 12 || fmt == 13

/-- The MCS exists in the format at this width and these streams, with these flags (R103 to R105). -/
def mcsOk (r : Radio) (fmt bw nss mcs flags : Nat) : Bool :=
  let dcm := flags / 2 ^ 5 % 2 == 1
  let stbc := flags / 2 ^ 6 % 2 == 1
  if fmt = 0 then decide (mcs ≤ 3)
  else if fmt ≤ 2 then decide (mcs ≤ 7)
  else if fmt = 3 then decide (mcs ≤ 7 ∧ nss ≤ 3)
  else if fmt = 4 then decide (mcs ≤ 9)
  else if fmt = 9 then
    !stbc && (decide (mcs ≤ 13) || (mcs == 15 && nss == 0) || (mcs == 14 && r == .h && decide (2 ≤ bw)))
  else decide (mcs ≤ 11) && (!dcm || [0, 1, 3, 4].contains mcs) && (!stbc || nss == 1)

/-- The width fits the radio and the format (R103, R105). -/
def vecBwOk (r : Radio) (fmt bw : Nat) : Bool :=
  bwOk r bw && (fmt != 0 || bw == 0) && (fmt != 1 || bw == 0) && (fmt != 2 || bw != 0) && (fmt != 4 || decide (bw ≤ 3))

/-- The puncturing is allowed (R105, R106): only at the widths of the radio, inside the width, never the primary. -/
def State.punctOk (s : State) (r : Radio) (bw p : Nat) : Bool :=
  p == 0 ||
    ((r == .m && (bw == 2 || bw == 3) || r == .h && decide (2 ≤ bw ∧ bw ≤ 4)) && decide (p < 2 ^ (2 ^ bw)) &&
      p / 2 ^ s.primBit r % 2 == 0)

/-- The mode of a Radio S vector exists and fits the active record (R134, R137). -/
def State.smodeVecOk (s : State) (fmt bw mcs : Nat) : Bool :=
  bw == s.synthBw .s &&
    (if fmt = 12 then
      (bw == 8 && decide (mcs ≤ 3)) || (bw == 9 && decide (mcs ≤ 5)) || (bw == 10 && decide (1 ≤ mcs ∧ mcs ≤ 6)) ||
        (bw == 11 && decide (2 ≤ mcs ∧ mcs ≤ 6))
     else decide (mcs % 8 ≤ 2) && smodeBw (8 + mcs % 8) == bw)

/-- The check of a vector (R130). -/
def State.vectorCheck (s : State) (r : Radio) (v : SevenWords) (stored : Bool) : Nat :=
  let fmt := bits v.w0 31 28
  let bw := bits v.w0 27 24
  let nss := bits v.w0 15 12
  let mcs := bits v.w0 11 8
  let flags := bits v.w0 7 0
  let mu := (fmt = 7 ∨ fmt = 9) ∧ v.w2 = 0
  let start := v.w4.toNat + v.w5.toNat * 2 ^ 32
  let lead := s.nsToUnits (if r = .s then 40000 else if mu then 8000 else 4000)
  let inRange :=
    if r = .s then s.smodeVecOk fmt bw mcs && nss == 0 && bits v.w1 31 16 == 0
    else vecBwOk r fmt bw && decide (nss ≤ RegMap.pick r.idx 3 7 7 0) && mcsOk r fmt bw nss mcs flags &&
      s.punctOk r bw (bits v.w1 31 16)
  if !fmtOk r fmt then St.TYPE
  else if !inRange then St.RANGE
  else if !stored ∨ start < s.gtN + lead then St.LATE
  else St.OK

/-- Withdraw the TX command that belongs to a refused vector: it completes with ABORTED (R130). -/
def State.withdrawTx (s : State) (r : Radio) (start : Nat) : State :=
  let f := s.rfc.get r
  let matches_ (c : RfcCmd) : Bool := c.opc == 6 && c.start == start
  match f.held with
  | some x =>
    if matches_ x.cmd then (s.rfcUnhold r).rfcDone r x.cmd x.fw St.ABORTED
    else s
  | none =>
    if f.port.any matches_ then
      match f.port with
      | some c => s.rfcDone r c false St.ABORTED
      | none => s
    else
      match f.queue.find? matches_ with
      | some c =>
        if f.run.any (fun x => x.fw && x.cmd == some c) then s
        else (s.setRfc r (fun f => { f with queue := f.queue.erase c })).rfcResult r c St.ABORTED
      | none => s

/-- A transmit vector reaches the modem (R129, R130): `stored` says that its PSDUs are whole in the radio buffer. -/
def State.transmitVector (s : State) (r : Radio) (w : SevenWords) (stored : Bool) : State :=
  let code := s.vectorCheck r w stored
  if code = St.OK then s.setMdm r (fun m => { m with vector := some w })
  else
    let s := (s.errSet (R.MDM_ERR r) code).bump (R.MDM_CNT_TXREJ r)
    (s.withdrawTx r (w.w4.toNat + w.w5.toNat * 2 ^ 32)).raise (radioEv r + 4)

/-- TRANSMIT_VECTOR (R129, R130). -/
def execTransmitVector (r : Radio) (w : SevenWords) (stored : Bool) (s : State) : Host.Outcome State Fault Refusal :=
  .next (s.transmitVector r w stored)

/-- The PPDU qualifies for an armed fit: its chain, 40 µs and PMIN (R98). -/
def State.dpdCapture (s : State) (r : Radio) (us : Nat) : State :=
  match (s.rfc.get r).dpd with
  | some d =>
    if !d.captured ∧ (s.rfc.get r).chains / 2 ^ (d.cmd.arg % 16) % 2 = 1 ∧ 40 ≤ us ∧
        s.rf (F.RFC_DPD_CTRL_PMIN r) ≤ (s.mdm.get r).txPower then
      s.setRfc r (fun f => { f with dpd := some { d with captured := true } })
    else s
  | none => s

/-- PPDU_TX_END (R133): the last sample of a PPDU of `us` microseconds; the radio goes to RX or to SYNTH (R73). -/
def execPpduTxEnd (r : Radio) (us : Nat) (s : State) : Host.Outcome State Fault Refusal :=
  match (s.rfc.get r).run with
  | some x =>
    if x.work = .tx then
      let s := s.dpdCapture r us
      let s := s.ppduEnd r ((x.cmd.map (·.tag)).getD 0) St.OK
      let s := s.rfcEndRun r St.OK
      let t := if x.cmd.any (fun c => c.ret) then Rs.RX else Rs.SYNTH
      .next ((s.femRest r).setRfc r (fun f => { f with run := some ⟨none, false, .trans t⟩ }))
    else .next s
  | none => .next s

/-- A write to MDM_SMODE (R137): during a reception it waits for the end. -/
def State.smodeWrite (i : Nat) (v : Word) (s : State) : State :=
  if s.writeRefused i (R.MDM_SMODE .s) v then s.writeReg i (R.MDM_SMODE .s) v
  else if s.mdmReceiving .s then s.setMdm .s (fun m => { m with smode := some v })
  else
    let s := s.writeReg i (R.MDM_SMODE .s) v
    if s.rfcState .s = Rs.RX then s.wf (F.MDM_STAT_PHASE .s) (s.idlePhase .s) else s

/-- SMODE_WRITE (R137). -/
def execSmodeWrite (i : Init) (v : Word) (s : State) : Host.Outcome State Fault Refusal :=
  .next (s.onWrite i (R.MDM_SMODE .s) (State.smodeWrite i.val v))

/-- NOISE_ALARM (R138): the 1 s average of the primary's noise floor, in 0.25 dBm. -/
def execNoiseAlarm (r : Radio) (nf : BitVec 16) (s : State) : Host.Outcome State Fault Refusal :=
  let s := s.wf (F.MDM_NOISE_NF r) nf.toNat
  .next (if 4 * toSigned 8 (s.rf (F.MDM_NFALM_L r)) < toSigned 16 nf.toNat then s.raise (radioEv r + 6) else s)

/-- RX_ANOMALY_ALARM (R138): how much the four counters grew within one second. -/
def execRxAnomalyAlarm (r : Radio) (grew : Nat) (s : State) : Host.Outcome State Fault Refusal :=
  .next (if s.rf (F.MDM_RXALM_N r) < grew then s.raise (radioEv r + 7) else s)

end Sys2Proof.Machine
end

