-- ==== Sys2Proof/Machine/Phy.lean ====
section
/-! DEFINITION. The PHY rates of HE and EHT PPDUs (R104), the RUs and MRUs of a channel (R105, R106, R202). -/

namespace Sys2Proof.Machine

/-! ## Rates (R104) -/

/-- PHY rate of one stream with a 0.8 µs guard interval, in 0.1 Mbit/s, by width code and MCS. -/
def rateTable : List (List Nat) := [
  [86, 172, 258, 344, 516, 688, 774, 860, 1032, 1147, 1290, 1434, 1549, 1721],
  [172, 344, 516, 688, 1032, 1376, 1549, 1721, 2065, 2294, 2581, 2868, 3097, 3441],
  [360, 721, 1081, 1441, 2162, 2882, 3243, 3603, 4324, 4804, 5404, 6005, 6485, 7206],
  [721, 1441, 2162, 2882, 4324, 5765, 6485, 7206, 8647, 9608, 10809, 12010, 12971, 14412],
  [1441, 2882, 4324, 5765, 8647, 11529, 12971, 14412, 17294, 19216, 21618, 24020, 25941, 28824]]

/-- The rate of `nss` streams as a fraction of 0.1 Mbit/s: 1.6 µs (GI 1) scales by 13.6/14.4, 3.2 µs (GI 2) by 13.6/16. -/
def phyRate (bw mcs nss gi : Nat) : Nat × Nat :=
  let r := nss * (rateTable.getD bw []).getD mcs 0
  if gi = 1 then (r * 136, 144) else if gi = 2 then (r * 136, 160) else (r, 1)

/-! ## RUs (R106): sets of 26-tone RUs, as bit masks over the channel -/

/-- A run of `n` bits from bit `lo`. -/
def runMask (lo n : Nat) : Nat := (2 ^ n - 1) * 2 ^ lo

/-- 20 MHz subchannels of a width, and the first 26-tone RU of subchannel `b`: 37 in each 80 MHz, the middle one between
the second and the third subchannel. -/
def subCount (bw : Nat) : Nat := 2 ^ bw
def subLo (b : Nat) : Nat := 37 * (b / 4) + [0, 9, 19, 28].getD (b % 4) 0

/-- 26-tone RUs of a channel: 9, 18, 37, 74, 148 (R105). -/
def slotCount (bw : Nat) : Nat := if bw = 0 then 9 else if bw = 1 then 18 else 37 * 2 ^ (bw - 2)

/-- The 242-tone, 484-tone and 996-tone RUs. -/
def ru242 (b : Nat) : Nat := runMask (subLo b) 9
def ru484 (k : Nat) : Nat := ru242 (2 * k) ||| ru242 (2 * k + 1)
def ru996 (q : Nat) : Nat := runMask (37 * q) 37

/-- RUs at offsets within each 20 MHz subchannel. -/
def perSub (bw : Nat) (l : List (Nat × Nat)) : List Nat :=
  (List.range (subCount bw)).flatMap (fun b => l.map (fun x => runMask (subLo b + x.1) x.2))

/-- The union of some masks. -/
def unionMask (l : List Nat) : Nat := l.foldl (fun a b => a ||| b) 0

/-- All 80 MHz segments of `n` from `lo` but the 484-tone half `k` (numbered within them) gone. -/
def but484 (lo n k : Nat) : Nat :=
  unionMask ((List.range n).map (fun q =>
    if q = k / 2 then ru484 (2 * (lo + q) + (1 - k % 2)) else ru996 (lo + q)))

/-- The RUs or MRUs of a size code (R202) in a channel, lowest frequency first; an MRU is numbered by what it leaves out. -/
def ruList (bw size : Nat) : List Nat :=
  let n80 := subCount bw / 4
  if size = 0 then (List.range (slotCount bw)).map (fun k => runMask k 1)
  else if size = 1 then perSub bw [(0, 2), (2, 2), (5, 2), (7, 2)]
  else if size = 2 then perSub bw [(0, 4), (5, 4)]
  else if size = 3 then (List.range (subCount bw)).map ru242
  else if size = 4 then (List.range (subCount bw / 2)).map ru484
  else if size = 5 then (List.range n80).map ru996
  else if size = 6 then (List.range (n80 / 2)).map (fun k => runMask (74 * k) 74)
  else if size = 7 then (List.range (n80 / 4)).map (fun k => runMask (148 * k) 148)
  else if size = 8 then perSub bw [(1, 3), (2, 3), (5, 3)]
  else if size = 9 then perSub bw [(0, 5), (4, 5)]
  else if size = 10 then
    (List.range (4 * n80)).map (fun b =>
      unionMask ((List.range 4).map (fun j => if j = b % 4 then 0 else ru242 (b / 4 * 4 + j))))
  else if size = 11 then (List.range (4 * (n80 / 2))).map (fun k => but484 (2 * (k / 4)) 2 (k % 4))
  else if size = 12 then
    (List.range (8 * (n80 / 2))).map (fun b =>
      let q := b / 4
      ru996 (if q % 2 = 0 then q + 1 else q - 1) |||
        unionMask ((List.range 4).map (fun j => if j = b % 4 then 0 else ru242 (4 * q + j))))
  else if size = 13 then
    if n80 = 4 then (List.range 6).map (fun k => but484 0 3 k) ++ (List.range 6).map (fun k => but484 1 3 k) else []
  else if size = 14 then
    if n80 = 4 then (List.range 4).map (fun q => unionMask ((List.range 4).map (fun j => if j = q then 0 else ru996 j))) else []
  else if size = 15 then (if n80 = 4 then (List.range 8).map (fun k => but484 0 4 k) else [])
  else []

/-- Tones of each size code (R202). -/
def ruTones (size : Nat) : Nat :=
  [26, 52, 106, 242, 484, 996, 1992, 3984, 78, 132, 726, 1480, 1722, 2476, 2988, 3472].getD size 0

/-- The size codes by falling tones. -/
def sizesDown : List Nat := [7, 15, 14, 13, 6, 12, 11, 5, 10, 4, 3, 9, 2, 8, 1, 0]
/-- The size codes by rising tones. -/
def sizesUp : List Nat := [0, 1, 8, 2, 9, 3, 4, 10, 5, 11, 12, 6, 13, 14, 15, 7]

/-- The 26-tone RUs that a channel with punctured subchannels leaves: those of the subchannels not punctured, and a middle
RU of an 80 MHz segment that has no punctured subchannel. -/
def usableMask (bw punct : Nat) : Nat :=
  let subs := unionMask ((List.range (subCount bw)).map (fun b => if punct / 2 ^ b % 2 = 1 then 0 else ru242 b))
  unionMask (subs :: (List.range (subCount bw / 4)).map (fun q =>
    if punct / 2 ^ (4 * q) % 16 = 0 then runMask (37 * q + 18) 1 else 0))

/-- Tones of a channel's usable part: that of its largest RU or MRU that fits. -/
def usableTones (bw punct : Nat) : Nat :=
  let m := usableMask bw punct
  (sizesDown.find? (fun z => (ruList bw z).any (fun r => r &&& m == r))).elim 0 ruTones

/-- The largest size code of an RU or MRU of a channel that does not exceed `tones`; a 26-tone RU at least. -/
def sizeFor (bw tones : Nat) : Nat :=
  (sizesDown.find? (fun z => !(ruList bw z).isEmpty && decide (ruTones z ≤ tones))).getD 0

/-- The lowest free position of a size within a mask of free 26-tone RUs: its index and its mask. -/
def placeRu (bw size free : Nat) : Option (Nat × Nat) :=
  let l := ruList bw size
  ((List.range l.length).find? (fun k => l.getD k 0 &&& free == l.getD k 0)).map (fun k => (k, l.getD k 0))

end Sys2Proof.Machine
end

