-- ==== Sys2Proof/Machine/Stp.lean ====
section
/-! DEFINITION. Steppe's commands (R187 to R190), what it learns from exchanges (R193 to R197), target wake time placement
(R204, R205), and drift and wake windows (R206 to R212). -/

namespace Sys2Proof.Machine

/-! ## Commands: push and results (R187, R190) -/

/-- The operation code, the record and the other fields of a command. -/
def cmdOpc (w : List Word) : Nat := bits (w.getD 0 0) 31 24
def cmdTag (w : List Word) : Nat := bits (w.getD 0 0) 23 16
def stpIndex (w : List Word) : Nat := bits (w.getD 0 0) 11 0
def stpFlow (w : List Word) : Nat := bits (w.getD 1 0) 3 0
def stpWord (w : List Word) : Nat := bits (w.getD 1 0) 29 24

/-- The bits of word `k` of a record that firmware writes (R183, the fields marked F). -/
def fMask (field : Bool) (k : Nat) : Nat :=
  if k = 0 then 0x00FFFFFF else if k = 1 then 0xFFCFFFFF else if k = 2 ∨ k = 3 then 0xFFFFFFFF
  else if k = 4 ∨ k = 5 then 0x1FFF1FFF else if k = 6 then 0xC3FF03FF
  else if k = 38 then (if field then 0 else 0x1FFF)
  else if k = 50 then 0xFFFFFF
  else if k = 51 then (if field then 0xFF000FFF else 0)
  else 0

/-- The check of a push (R187): unused fields are zero, and every field is in its range. -/
def State.stpCheck (s : State) (w : List Word) : Nat :=
  let opc := cmdOpc w
  let idx := stpIndex w
  let w1 := (w.getD 1 0).toNat
  let w2 := (w.getD 2 0).toNat
  let w3 := (w.getD 3 0).toNat
  let fm := fMask (decide (2048 ≤ idx)) (stpWord w)
  let ptrOk := inTcm w3 256 || inShared w3 256
  if opc = 0 ∨ 0x0A < opc then St.TYPE
  else if bits (w.getD 0 0) 15 12 ≠ 0 ∨ 3072 ≤ idx then St.RANGE
  else if opc ≤ 2 ∧ (idx ≠ 0 ∨ w1 ≠ 0 ∨ w2 ≠ 0 ∨ w3 ≠ 0) then St.RANGE
  else if opc = 3 ∧ (w1 ≠ 0 ∨ w2 ≠ 0 ∨ !ptrOk) then St.RANGE
  else if opc = 5 ∧ (w1 ≠ stpWord w * 2 ^ 24 ∨ w3 ≠ 0 ∨ fm = 0 ∨ w2 &&& fm ≠ w2) then St.RANGE
  else if (opc = 8 ∨ opc = 9) ∧ (7 < w1 ∨ w2 ≠ 0 ∨ w3 ≠ 0) then St.RANGE
  else if (opc = 4 ∨ opc = 6 ∨ opc = 7 ∨ opc = 10) ∧ (w1 ≠ 0 ∨ w2 ≠ 0 ∨ w3 ≠ 0) then St.RANGE
  else if 16 ≤ s.stp.cmds.length then St.BUSY
  else St.OK

/-- A push of the staged command. -/
def State.stpPush (v : Word) (s : State) : State :=
  if !v.getLsbD 0 then s
  else
    let w := [0, 1, 2, 3].map (fun k => s.reg (R.STP_CMD_W k))
    let code := s.stpCheck w
    if code = St.OK then s.setStp (fun t => { t with cmds := t.cmds ++ [w] }) else s.refuse R.STP_ERR code 80

/-- STP_CMD_PUSH (R187). -/
def execStpCmdPush (i : Init) (v : Word) (s : State) : Host.Outcome State Fault Refusal :=
  .next (s.onWrite i R.STP_CMD_PUSH (State.stpPush v))

/-- The command at the head completes with a status (R190). -/
def State.stpDone (s : State) (w : List Word) (status : Nat) : State :=
  let s := s.setStp (fun t => { t with cmds := t.cmds.drop 1 })
  let s := if s.stp.results.length < 16 then
      s.setStp (fun t => { t with results := t.results ++ [⟨cmdTag w, cmdOpc w, status, s.gt⟩] })
    else s.bump R.STP_CNT_RESOVF
  let s := if status = St.STATE then s.bump R.STP_CNT_STATE else s
  if status = St.OK then s else s.raise 80

/-- Pop a result. -/
def State.stpPop (i : Init) (s : State) : State :=
  match s.stp.results with
  | [] => s.answer i 0
  | x :: xs => (s.setStp (fun t => { t with results := xs })).answer i
      (BitVec.ofNat 32 (2 ^ 31 + x.tag * 2 ^ 16 + x.opc * 2 ^ 8 + x.status))

/-- STP_RESULT_POP (R190). -/
def execStpResultPop (i : Init) (s : State) : Host.Outcome State Fault Refusal :=
  .next (s.onRead i R.STP_RES (State.stpPop i))

/-- Steppe changes its state (R186). -/
def State.stpEnter (s : State) (st : Nat) : State :=
  if s.rf F.STP_STAT_STATE = st then s else (s.wf F.STP_STAT_STATE st).raise 88

/-- Recompute every STGLIM (R188, R190). -/
def State.keepAllLim (s : State) : State := s.stp.recs.foldl (fun s i => s.keepLim i) s

/-- Run the head of the queue when it is command `opc`: the state table (R189: `idle` and `run` give 0 rejected, 1 accepted,
2 accepted with no action), then the record's own conditions, then the effect with its status. -/
def State.stpRun (s : State) (opc idle run : Nat) (f : State → List Word → State × Nat) : State :=
  match s.stp.cmds with
  | [] => s
  | w :: _ =>
    let st := s.rf F.STP_STAT_STATE
    let a := if st = Stp.RUN then run else idle
    if cmdOpc w ≠ opc then s
    else if st = Stp.OFF then s.stpDone w St.NOTREADY
    else if a = 0 then s.stpDone w St.STATE
    else if a = 2 then s.stpDone w St.OK
    else
      let r := f s w
      r.1.stpDone w r.2

/-- STP_RUN (R189). -/
def execStpRun (s : State) : Host.Outcome State Fault Refusal :=
  .next (s.stpRun 1 1 2 (fun s _ => ((s.stpEnter Stp.RUN).keepAllLim, St.OK)))

/-- STP_STOP (R190): every STGLIM is cleared at once. -/
def execStpStop (s : State) : Host.Outcome State Fault Refusal :=
  .next (s.stpRun 2 2 1 (fun s _ => ((s.stpEnter Stp.IDLE).keepAllLim, St.OK)))

/-! ## Records (R188) -/

/-- Keep a word of a record, but for its (F) bits, which come from the image, and its (S) bits, which become zero: `keep`
has the bits that stay. -/
def State.addWord (s : State) (i ptr k keep : Nat) (field : Bool) : State :=
  let old := (s.read32 (clAddr i + 4 * k)).toNat &&& keep
  s.write32 (clAddr i + 4 * k) (BitVec.ofNat 32 (old ||| ((s.read32 (ptr + 4 * k)).toNat &&& fMask field k)))

/-- The bits of word `k` that CL_ADD leaves: those a MAC writes, and those that no rule gives to Steppe (R183). -/
def keepMask (field : Bool) (k : Nat) : Nat :=
  if k = 16 ∨ k = 20 ∨ k = 24 then 0xFF
  else if k = 29 then 0xFFFF
  else if k = 34 then (if field then 0xFFFFFF else 0)
  else if k = 38 then (if field then 0xFFFFFFFF else 0)
  else if k = 39 then 0xFFFF
  else if 42 ≤ k ∧ k ≤ 49 then 0xFFFFFFFF
  else if k = 51 then (if field then 0x00FFF000 else 0)
  else if 52 ≤ k ∧ k ≤ 55 then 0xFFFFFFFF
  else 0

/-- Insert into an ascending list. -/
def insertNat (n : Nat) : List Nat → List Nat
  | [] => [n]
  | m :: ms => if n < m then n :: m :: ms else if n = m then m :: ms else m :: insertNat n ms

/-- CL_ADD (R188). -/
def State.clAdd (s : State) (i ptr : Nat) : State :=
  let field := decide (2048 ≤ i)
  let s := (List.range 64).foldl (fun s k => s.addWord i ptr k (keepMask field k) field) s
  let s := (s.setRec i 0 31 28 (if field then 2 else 1)).setRec i 0 27 24 Cl.AWAKE
  let s := [18, 22, 26].foldl (fun s w => s.setRec i w 23 20 0xF) s
  let s := if field then s else s.setRec i 34 23 0 (s.regN R.STP_GBASE)
  let s := s.setRec i 7 31 16 8
  let s := s.setStp (fun t => { t with recs := insertNat i t.recs, pm := Sparse.putN t.pm i 0 })
  s.wf F.STP_STAT_RECS s.stp.recs.length

/-- A command on the record it names: ABSENT when the record is EMPTY (R190). -/
def State.onRec (s : State) (w : List Word) (f : State → Nat → State × Nat) : State × Nat :=
  if s.recKind (stpIndex w) = 0 then (s, St.ABSENT) else f s (stpIndex w)

/-- CL_ADD (R188). -/
def execClAdd (s : State) : Host.Outcome State Fault Refusal :=
  .next (s.stpRun 3 1 1 (fun s w =>
    if s.recKind (stpIndex w) ≠ 0 then (s, St.STATE) else (s.clAdd (stpIndex w) (w.getD 3 0).toNat, St.OK)))

/-- A WIFI record that a MAC links, or a FIELD record that holds a Plain slot, that is, has a poll interval (R190). -/
def State.recHeld (s : State) (i : Nat) : Bool :=
  if s.recKind i = 2 then s.cr i 38 31 16 != 0 else s.wlan.links.any (fun l => l.client == i)

/-- CL_DEL (R188). -/
def execClDel (s : State) : Host.Outcome State Fault Refusal :=
  .next (s.stpRun 4 1 1 (fun s w => s.onRec w (fun s i =>
    if s.recHeld i then (s, St.STATE)
    else
      let s := (s.setRecState i Cl.AWAKE).setRec i 0 31 28 0
      let s := s.setStp (fun t => { t with recs := t.recs.erase i })
      (s.wf F.STP_STAT_RECS s.stp.recs.length, St.OK))))

/-- CL_WORD (R188). -/
def execClWord (s : State) : Host.Outcome State Fault Refusal :=
  .next (s.stpRun 5 1 1 (fun s w => s.onRec w (fun s i =>
    let k := stpWord w
    let m := fMask (decide (2048 ≤ i)) k
    let old := (s.read32 (clAddr i + 4 * k)).toNat
    let s := s.write32 (clAddr i + 4 * k) (BitVec.ofNat 32 ((old &&& (0xFFFFFFFF - m)) ||| ((w.getD 2 0).toNat &&& m)))
    (s.keepLim i, St.OK))))

/-- CL_SUSP (R188). -/
def execClSusp (s : State) : Host.Outcome State Fault Refusal :=
  .next (s.stpRun 6 0 1 (fun s w => s.onRec w (fun s i =>
    if s.recState i = Cl.SUSP then (s, St.STATE)
    else
      let s := s.setStp (fun t => { t with before := Sparse.putN t.before i (s.recState i) })
      ((s.setRecState i Cl.SUSP).keepLim i, St.OK))))

/-- CL_RESUME (R188): the record takes up the state it had. -/
def execClResume (s : State) : Host.Outcome State Fault Refusal :=
  .next (s.stpRun 7 0 1 (fun s w => s.onRec w (fun s i =>
    if s.recState i ≠ Cl.SUSP then (s, St.STATE)
    else ((s.setRecState i (Sparse.getN s.stp.before i)).keepLim i, St.OK))))

/-- AWAKE or DOZE, by the power-management bit of the client's latest frame. -/
def State.pmState (s : State) (i : Nat) : Nat := if Sparse.getN s.stp.pm i = 1 then Cl.DOZE else Cl.AWAKE

/-- DRIFT_RESET (R188). -/
def execDriftReset (s : State) : Host.Outcome State Fault Refusal :=
  .next (s.stpRun 10 0 1 (fun s w => s.onRec w (fun s i =>
    let s := ((s.setRec i 28 31 0 0).setRec i 32 31 0 0).setRec i 29 23 20 0
    let s := (s.setRec i 29 31 28 (s.rf F.STP_DRIFT_FASTN)).setRec i 29 27 24 0
    ((s.setRecState i (s.pmState i)).keepLim i, St.OK))))

/-! ## Target wake time (R204, R205) -/

/-- Address of a TWT entry. -/
def twtAddr (e : Nat) : Nat := 0x11100000 + 0x20 * e
/-- A field of an entry. -/
def State.te (s : State) (e w hi lo : Nat) : Nat := s.mf (twtAddr e + 4 * w) hi lo
/-- Period of a placed entry in angle units, its start, and the length of its service period. -/
def State.tePeriod (s : State) (e : Nat) : Nat := s.te e 3 15 0 * 2 ^ 24 + s.te e 4 23 0
def State.teStart (s : State) (e : Nat) : Nat := s.readN (twtAddr e + 24) 8
def State.teDur (s : State) (e : Nat) : Nat := s.usToUnits (s.te e 2 31 16 * 256)

/-- The placed entries: PLACED is bit 7 of byte 3 of an entry. -/
def State.placedEntries (s : State) : List Nat :=
  s.mem.filterMap (fun c =>
    let e := (c.1 - twtAddr 0) / 32
    if twtAddr 0 ≤ c.1 ∧ e < 8192 ∧ c.1 % 32 = 3 ∧ c.2.getLsbD 7 then some e else none)

/-- The first start of a placed entry after grid time `t`. -/
def State.teNext (s : State) (e t : Nat) : Nat :=
  let p := s.tePeriod e
  let a := s.teStart e
  if t < a ∨ p = 0 then a else a + ((t - a) / p + 1) * p

/-- Microseconds to a period in 1/256 cycle, rounded to the nearest (R205), at the frequency of R4. -/
def State.twtPeriod (s : State) (us : Nat) : Nat := (us * s.regN R.GTU_FREQ * 256 * 2 + 10 ^ 12) / (2 * 10 ^ 12)

/-- The units of a span [x, y) that lie inside the Notch windows of a Wi-Fi radio. -/
def State.inNotch (s : State) (k x y : Nat) : Nat :=
  let r := wradio k
  if !s.rb (F.MAC_NOTCH_CTRL_EN r) then 0
  else
    let u := 2 ^ (18 + s.rf (F.MAC_NOTCH_CTRL_PEXP r))
    let mask := s.reg64 (R.MAC_NOTCH_MASK_LO r) (R.MAC_NOTCH_MASK_HI r)
    (List.range ((y - x) / u + 2)).foldl (fun n j =>
      let b := (x / u + j) * u
      if mask / 2 ^ ((x / u + j) % 64) % 2 = 1 then n + (min y (b + u) - max x b) else n) 0

/-- Overlap of [x, x + d) with entry `e`, twice counted outside the Notch windows. -/
def State.overlap (s : State) (k x d e : Nat) : Nat :=
  let p := max 1 (s.tePeriod e)
  let a := s.teStart e
  let d' := s.teDur e
  let first := if x + d ≤ a then 0 else (x + d - 1 - a) / p
  (List.range (d / p + d' / p + 2)).foldl (fun n j =>
    if first < j ∨ x + d ≤ a then n
    else
      let b := a + (first - j) * p
      let lo := max x b
      let hi := min (x + d) (b + d')
      if hi ≤ lo then n else n + 2 * (hi - lo) - s.inNotch k lo hi) 0

/-- How many service periods of a candidate the overlap is summed over. -/
def twtLook : Nat := 64

/-- The overlap of a candidate start with the placed entries of its link. -/
def State.candOverlap (s : State) (k start p d : Nat) (l : List Nat) : Nat :=
  (List.range twtLook).foldl (fun n j => l.foldl (fun n e => n + s.overlap k (start + j * p) d e) n) 0

/-- The entry a flow of a record uses (R183). -/
def State.flowEntry (s : State) (i f : Nat) : Nat := s.cr i 38 12 0 + f

/-- TWT_PLACE (R205). -/
def State.twtPlace (s : State) (i f : Nat) : State × Nat :=
  let e := s.flowEntry i f
  if s.recKind i = 2 ∨ 8192 ≤ e then (s, St.RANGE)
  else if s.te e 0 31 31 = 1 then (s, St.STATE)
  else
    let n := s.twtPeriod (s.te e 1 31 0)
    let p := n * 2 ^ 16
    let d := s.teDur e
    if 65535 * 256 < n ∨ n = 0 ∨ p < d then (s, St.RANGE)
    else
      let k := s.te e 0 13 12
      let l := s.placedEntries.filter (fun x => s.te x 0 13 12 == k)
      let base := ((s.gtN + s.usToUnits (s.regN R.STP_TWTLEAD)) / p + 1) * p
      let cand (j : Nat) : Nat := base + j * (n * 2 ^ 10)
      let cost (j : Nat) : Nat := s.candOverlap k (cand j) p d l
      let best := (List.range 64).foldl (fun (b : Nat × Nat) j => if cost j < b.2 then (j, cost j) else b) (0, cost 0)
      let s := s.setWords (twtAddr e + 12) [BitVec.ofNat 32 (n / 256), BitVec.ofNat 32 (n % 256 * 2 ^ 16), 0]
      let s := (s.writeN (twtAddr e + 24) 8 (cand best.1)).wmf (twtAddr e) 31 31 1
      let s := s.setRec i 38 (24 + f) (24 + f) 1
      ((s.setRecGt i 36 (BitVec.ofNat 64 (cand best.1))).keepLim i, St.OK)

/-- TWT_PLACE (R205). -/
def execTwtPlace (s : State) : Host.Outcome State Fault Refusal :=
  .next (s.stpRun 8 0 1 (fun s w => s.onRec w (fun s i => s.twtPlace i (stpFlow w))))

/-- TWT_FREE (R188): PLACED and the flow's bit are cleared. -/
def execTwtFree (s : State) : Host.Outcome State Fault Refusal :=
  .next (s.stpRun 9 1 1 (fun s w => s.onRec w (fun s i =>
    let e := s.flowEntry i (stpFlow w)
    if s.recKind i = 2 ∨ 8192 ≤ e then (s, St.RANGE)
    else ((s.wmf (twtAddr e) 31 31 0).setRec i 38 (24 + stpFlow w) (24 + stpFlow w) 0, St.OK))))

/-! ## Exchanges (R150, R193, R195 to R197) -/

/-- The history entry of record `i` (R196). -/
def State.histAddr (s : State) (i k n m : Nat) : Nat :=
  s.reg64 R.STP_HISTBASE_LO R.STP_HISTBASE_HI + 0x400 * i + 224 * k + 28 * (n - 1) + 2 * m

/-- Count an exchange in the history (R196): ATT, and SUCC as the record has it. -/
def State.histCount (s : State) (i k n m succ : Nat) : State :=
  let a := s.histAddr i k n m
  if !s.ready Fn.DRAM then s
  else if s.eccBad a 2 then
    let b := s.histAddr i 0 1 0
    (((s.eccRead 0x1C a 2).store 0x1C b (List.replicate 0x400 0)).bump R.STP_CNT_HISTERR).raise 86
  else
    let att := (s.byte (a + 1)).toNat + 1
    if 255 < att then (s.setByte (a + 1) (BitVec.ofNat 8 (att / 2))).setByte a (BitVec.ofNat 8 (succ / 2))
    else (s.setByte (a + 1) (BitVec.ofNat 8 att)).setByte a (BitVec.ofNat 8 succ)

/-- The highest MCS of a client: 13 EHT, 11 HE, else 9. -/
def State.topMcs (s : State) (i : Nat) : Nat := if s.cr i 1 27 27 = 1 then 13 else if s.cr i 1 26 26 = 1 then 11 else 9

/-- Set MCS and streams of a link; each change resets SUCC to 192 (R195). -/
def State.setMcs (s : State) (i k mcs nss : Nat) : State :=
  let w := 16 + 4 * k
  if s.cr i w 31 28 = mcs ∧ s.cr i w 27 24 = nss then s
  else ((s.setRec i w 31 28 mcs).setRec i w 27 24 nss).setRec i w 15 8 192

/-- The rate adjustments of R195, in their order, after an exchange with the acknowledged fraction `a`. -/
def State.rateStep (s : State) (i k a : Nat) : State :=
  let w := 16 + 4 * k
  let probe := s.cr i (w + 2) 23 20
  let s := if probe = 0xF then s
    else
      let s := s.setRec i (w + 2) 23 20 0xF
      if s.rf F.STP_RATE_RUP ≤ a then s.setMcs i k probe (s.cr i w 27 24) else s
  let mcs := s.cr i w 31 28
  let nss := s.cr i w 27 24
  let s :=
    if s.cr i w 15 8 < s.rf F.STP_RATE_RDOWN then
      if mcs = 0 then (if nss = 0 then s else s.setMcs i k 2 (nss - 1)) else s.setMcs i k (mcs - 1) nss
    else s
  let mcs := s.cr i w 31 28
  let nss := s.cr i w 27 24
  if s.rf F.STP_RATE_RUP ≤ s.cr i w 15 8 ∧ s.rf F.STP_RATE_PROBE ≤ s.cr i (w + 2) 15 0 ∧ mcs < s.topMcs i then
    let h := s.histAddr i k (nss + 1) (mcs + 1)
    let bad := 16 ≤ (s.byte (h + 1)).toNat ∧ (s.byte h).toNat < s.rf F.STP_RATE_RDOWN
    let s := s.setRec i (w + 2) 15 0 0
    if bad then s else s.setRec i (w + 2) 23 20 (mcs + 1)
  else s

/-- RATE follows the MCS, the streams, the width, the GI and SUCC (R195). -/
def State.keepRate (s : State) (i k : Nat) : State :=
  let w := 16 + 4 * k
  let r := phyRate (s.cr i w 23 20) (s.cr i w 31 28) (s.cr i w 27 24 + 1) (s.cr i w 19 18)
  s.setRec i (w + 1) 31 16 (divOpen (r.1 * s.cr i w 15 8) (r.2 * 2560))

/-- A cost is lower than another by at least `g` µs (R193). -/
def costGain (a b : Nat × Nat) (g : Nat) : Bool :=
  if a.2 = 0 then false else if b.2 = 0 then true else decide (a.1 * b.2 + g * a.2 * b.2 ≤ b.1 * a.2)

/-- The decision to move an unacknowledged MPDU (R193). -/
def State.moveDecide (s : State) (i k : Nat) (n : Nat) : State :=
  match s.mpdu n with
  | none => s
  | some m =>
    let cost (j : Nat) : Nat × Nat := s.linkCost i j m.units
    let dst := [2, 1, 0].find? (fun j => j != k && s.linkOk i m.tid j && costGain (cost j) (cost k) (s.rf F.STP_MOVE_GAIN))
    match dst with
    | some j =>
      if s.rf F.STP_MOVE_AFTER ≤ s.cr i (18 + 4 * k) 31 24 ∧ !s.wlan.moves.any (fun x => x.1 == n) then
        { s with wlan := { s.wlan with moves := s.wlan.moves ++ [(n, j)] } }
      else s
    | none => s

/-- An MPDU is no longer part of a PPDU. -/
def State.idleMpdu (s : State) (n : Nat) : State :=
  { s with mpdus := s.mpdus.map (fun m => if m.num = n then { m with busy := false } else m) }

/-- An MPDU that was not acknowledged: dropped at the retry limit (R150), else perhaps moved. -/
def State.failMpdu (s : State) (i k n : Nat) : State :=
  match s.mpdu n with
  | none => s
  | some m =>
    let r := wradio k
    if s.rf (F.MAC_RETRY_LIMIT r) ≤ m.sent then (s.endMpdu n).bump (R.MAC_CNT_RETRYDROP r)
    else (s.idleMpdu n).moveDecide i k n

/-- The charge of an exchange (R197). -/
def State.debtCharge (s : State) (i airtime tones total : Nat) : State :=
  let d := total * s.cr i 0 23 16
  let s := if d = 0 then s else s.setRec i 40 31 0 (s.cr i 40 31 0 + divOpen (airtime * tones * 64) d)
  s.setRec i 41 31 0 (s.cr i 41 31 0 + divOpen airtime 16)

/-- EXCHANGE_RESULT (R195). -/
def execExchangeResult (r : WRadio) (client : BitVec 12) (x : ExchangeIn) (s : State) : Host.Outcome State Fault Refusal :=
  let i := client.toNat
  let k := r.idx
  let w := 16 + 4 * k
  if s.recKind i ≠ 1 then .next s
  else
    let a := x.a.toNat
    let used := if s.cr i (w + 2) 23 20 = 0xF then s.cr i w 31 28 else s.cr i (w + 2) 23 20
    let nss := s.cr i w 27 24 + 1
    let succ := ((s.cr i w 15 8 : Int) + divOpenInt ((a : Int) - (s.cr i w 15 8 : Int)) 8).toNat
    let s := s.setRec i w 15 8 succ
    let s := s.setRec i (w + 2) 31 24 (if a = 0 then min (s.cr i (w + 2) 31 24 + 1) 255 else 0)
    let s := s.setRec i (w + 2) 15 0 (min (s.cr i (w + 2) 15 0 + 1) 0xFFFF)
    let s := if a = 0 then s else s.setRec i (w + 3) 31 0 (s.gtN / 2 ^ 24)
    let s := if x.absent then s.setRec i 39 31 16 (s.cr i 39 31 16 + 1) else s
    let s := s.histCount i k nss used succ
    let s := (s.rateStep i k a).keepRate i k
    let s := s.debtCharge i x.airtime x.tones x.total
    let s := x.acked.foldl (fun s n => s.endMpdu n) s
    let s := x.failed.foldl (fun s n => s.failMpdu i k n) s
    .next (s.keepLim i)

/-! ## Drift and wake windows (R206 to R212) -/

/-- A signed number of 0.01 ppm of a span. -/
def ppmOf (x : Int) (span : Int) : Int := divOpenInt (x * span) (10 ^ 8)

/-- Signed fields of a record. -/
def State.drift (s : State) (i : Nat) : Int := toSigned 16 (s.cr i 28 31 16)
/-- NEXT − ANCHOR as a signed span. -/
def State.sinceAnchor (s : State) (i : Nat) : Int := toSigned 64 (s.recGt i 36 - s.recGt i 30).toNat

/-- The half-width G of the next window (R208). -/
def State.guardOf (s : State) (i : Nat) : Nat :=
  let base := s.regN R.STP_GBASE + (ppmOf (s.cr i 28 15 0) (s.sinceAnchor i)).toNat
  min (base * 2 ^ s.cr i 29 23 20) (s.regN R.STP_GMAX)

/-- Recompute PRED for the next wake, and GUARD for a WIFI record (R207, R208). -/
def State.predict (s : State) (i : Nat) : State :=
  let p := toSigned 32 (s.cr i 32 31 0) + ppmOf (s.drift i) (s.sinceAnchor i)
  let s := s.setRec i 33 31 0 (ofSigned 32 p)
  if s.recKind i = 1 then s.setRec i 34 23 0 (s.guardOf i) else s

/-- Clamp a value, and say whether it was clamped. -/
def clampTo (lo hi x : Int) : Int × Bool := (max lo (min hi x), decide (x < lo ∨ hi < x))

/-- A sample updates a record (R207). -/
def State.driftLearn (s : State) (i : Nat) (timing : Bool) (stamp : GTime) : State :=
  if !s.rb F.STP_CTRL_LEARN ∨ s.recKind i = 0 ∨ s.recState i = Cl.SUSP then s
  else
    let fast := s.cr i 29 31 28
    let sh := if 0 < fast then s.rf F.STP_DRIFT_SHIFTF else s.rf F.STP_DRIFT_SHIFT
    let dt := (stamp - s.recGt i 30).toNat
    let w := toSigned 64 (stamp - s.recGt i 36).toNat
    let r0 := if dt = 0 then (toSigned 32 s.free, s.used)
      else (divOpenInt ((w - toSigned 32 (s.cr i 33 31 0)) * 10 ^ 8) dt, s)
    let rr := if timing then r0.1 else toSigned 16 (s.cr i 29 15 0) - s.drift i
    let s := if timing then (r0.2.setRec i 32 31 0 (ofSigned 32 w)).setRecGt i 30 stamp else s
    let d := clampTo (-32768) 32767 (s.drift i + rr / (2 ^ sh : Nat))
    let res : Int := s.cr i 28 15 0
    let e := clampTo 0 65535 (res + ((rr.natAbs : Int) - res) / (2 ^ sh : Nat))
    let s := (s.setRec i 28 31 16 (ofSigned 16 d.1)).setRec i 28 15 0 e.1.toNat
    let s := if 0 < fast then s.setRec i 29 31 28 (fast - 1) else s
    let s := if d.2 || e.2 then s.raise 85 else s
    s.predict i

/-- DRIFT_SAMPLE (R207). -/
def execDriftSample (client : BitVec 12) (timing : Bool) (stamp : GTime) (s : State) : Host.Outcome State Fault Refusal :=
  .next (s.driftLearn client.toNat timing stamp)

/-- The flows of a WIFI record that have a placed entry. -/
def State.flows (s : State) (i : Nat) : List Nat :=
  [0, 1, 2, 3, 4, 5, 6, 7].filter (fun f => s.cr i 38 (24 + f) (24 + f) == 1)

/-- NEXT moves to the first service period after it (R183). -/
def State.advanceNext (s : State) (i : Nat) : State :=
  let t := (s.recGt i 36).toNat
  match (s.flows i).map (fun f => s.teNext (s.flowEntry i f) t) with
  | [] => s
  | x :: xs => s.setRecGt i 36 (BitVec.ofNat 64 (xs.foldl min x))

/-- The record leaves its service period. -/
def State.spOver (s : State) (i : Nat) : State :=
  let s := if s.recState i = Cl.SP then s.setRecState i (s.pmState i) else s
  let s := s.setStp (fun t => { t with hit := Sparse.putN t.hit i 0 })
  (s.advanceNext i).predict i

/-- A miss (R209, R210). -/
def State.spMiss (s : State) (i : Nat) : State :=
  let g := s.guardOf i
  let full := decide (s.regN R.STP_GMAX ≤ g)
  let s := s.setRec i 29 27 24 (min (s.cr i 29 27 24 + 1) 15)
  let s := s.setRecState i (if full then Cl.LISTEN else Cl.WIDEN)
  let s := if full then s else s.setRec i 29 23 20 (min (s.cr i 29 23 20 + 1) 15)
  let s := (s.bump R.STP_CNT_MISS).raise 81
  if full then (s.bump R.STP_CNT_LISTEN).raise 82 else s

/-- SP_WINDOW_END (R209): the wake window closes; a frame heard in it has made it a hit. -/
def execSpWindowEnd (client : BitVec 12) (s : State) : Host.Outcome State Fault Refusal :=
  let i := client.toNat
  let st := s.recState i
  if s.recKind i ≠ 1 ∨ st = Cl.LISTEN ∨ st = Cl.LOST ∨ st = Cl.SUSP ∨ s.flows i = [] then .next s
  else
    let s := if Sparse.getN s.stp.hit i = 1 then s else s.spMiss i
    .next ((s.spOver i).keepLim i)

/-- A frame with a correct FCS from a client: a hit inside its window (R209), or a re-acquisition (R210). -/
def State.heardFrom (s : State) (i : Nat) (stamp : GTime) (pm : Bool) : State :=
  if s.recKind i ≠ 1 then s
  else
    let s := s.setRecGt i 52 stamp
    let s := s.setStp (fun t => { t with pm := Sparse.putN t.pm i (if pm then 1 else 0) })
    let st := s.recState i
    let s :=
      if st = Cl.SUSP then s
      else if st = Cl.LISTEN ∨ st = Cl.LOST then
        let starts := (s.flows i).flatMap (fun f =>
          let b := s.teNext (s.flowEntry i f) stamp.toNat
          [b, b - s.tePeriod (s.flowEntry i f)])
        let diff (b : Nat) : Int := toSigned 64 (stamp - BitVec.ofNat 64 b).toNat
        let best := starts.foldl (fun (x : Int) b => if (diff b).natAbs < x.natAbs then diff b else x)
          (diff (starts.headD stamp.toNat))
        let s := (s.setRec i 32 31 0 (ofSigned 32 best)).setRecGt i 30 stamp
        let s := ((s.setRec i 29 27 24 0).setRec i 29 23 20 0).setRec i 29 31 28 (s.rf F.STP_DRIFT_FASTN)
        (((s.setRecState i (s.pmState i)).bump R.STP_CNT_REACQ).raise 83).predict i
      else
        let w := toSigned 64 (stamp - s.recGt i 36).toNat - toSigned 32 (s.cr i 33 31 0)
        let g : Int := s.guardOf i
        let d : Int := (s.flows i).foldl (fun m f => max m (s.teDur (s.flowEntry i f))) 0
        if s.flows i ≠ [] ∧ -g ≤ w ∧ w + toSigned 32 (s.cr i 33 31 0) ≤ d + g then
          let s := (s.setRec i 29 27 24 0).setRec i 29 23 20 0
          let s := if st = Cl.WIDEN then s.setRecState i Cl.SP else s
          s.setStp (fun t => { t with hit := Sparse.putN t.hit i 1 })
        else if st = Cl.AWAKE ∨ st = Cl.DOZE then s.setRecState i (s.pmState i)
        else s
    s.keepLim i

/-- LISTEN_END (R211). -/
def execListenEnd (client : BitVec 12) (s : State) : Host.Outcome State Fault Refusal :=
  let i := client.toNat
  if s.recKind i = 1 ∧ s.recState i = Cl.LISTEN then
    .next ((((s.setRecState i Cl.LOST).bump R.STP_CNT_LOST).raise 84).keepLim i)
  else .next s

/-- STP_PEND_WRITE (R212, R215). -/
def execStpPendWrite (i : Init) (v : Word) (s : State) : Host.Outcome State Fault Refusal :=
  .next (s.onWrite i R.STP_PEND (fun s =>
    let k := bits v 11 0
    if 2048 ≤ k ∧ k < 3072 then s.setRec k 39 15 0 (bits v 31 16) else s.refuse R.STP_ERR St.RANGE 80))

end Sys2Proof.Machine
end

