-- ==== Sys2Proof/Machine/FieldBase.lean ====
section
/-! DEFINITION. What the rules of the field MAC share (R216 to R261): schedule, entries, frames and their protection, airtime,
the dwell guard, transmissions, results. -/

namespace Sys2Proof.Machine

/-- Change the field MAC's state. -/
def State.setFld (s : State) (f : FieldSt → FieldSt) : State := { s with fld := f s.fld }

/-! States (R256) and upstream states (R261). -/
namespace Fm
def OFF : Nat := 0
def IDLE : Nat := 1
def RUN : Nat := 2
def DRAIN : Nat := 3
def TRACK : Nat := 1
def WIDEN : Nat := 2
def HOLD : Nat := 3
def LISTEN : Nat := 4
def SELECTED : Nat := 5
def SEARCH : Nat := 6
end Fm

def State.fmState (s : State) : Nat := s.rf F.FMAC_STAT_STATE
def State.ustate (s : State) : Nat := s.rf F.FMAC_STAT_USTATE
/-- The parent role serves: it runs and no long listen preempts it (R247). -/
def State.serving (s : State) : Bool := s.rb F.FMAC_STAT_PARENT && !s.rb F.FMAC_STAT_LL

/-! ## Superframes and slots (R216 to R218) -/

/-- N of the active schedule. -/
def State.sfN (s : State) : Nat := s.rf F.FMAC_SF_N1 + 1
/-- The number of the superframe in progress. -/
def State.sfNum (s : State) : Nat := s.gtN / 2 ^ 24 / s.sfN
/-- The start of slot `n` of superframe `k`. -/
def State.slotStart (s : State) (k n : Nat) : Nat := (k * s.sfN * 16 + n) * 2 ^ 20
/-- The slot of the superframe in which a grid time lies. -/
def State.slotOf (s : State) (t : Nat) : Nat := t / 2 ^ 20 % (16 * s.sfN)
/-- A slot lies in a region. -/
def inRegion (first n slot : Nat) : Bool := decide (first ≤ slot ∧ slot < first + n)

/-- The region of a slot: 0 Valley, 1 beacon, 2 Plain, 3 Pass. -/
def State.regionAt (s : State) (slot : Nat) : Nat :=
  if inRegion (s.rf F.FMAC_SF_BSLOT) (s.rf F.FMAC_SF_BSLEN) slot then 1
  else if inRegion (s.rf F.FMAC_PLAIN_PLF) (s.rf F.FMAC_PLAIN_PLN) slot then 2
  else if inRegion (s.rf F.FMAC_PASS_PSF) (s.rf F.FMAC_PASS_PSN) slot then 3 else 0

/-- Two slot ranges do not overlap. -/
def apart (a n b m : Nat) : Bool := decide (n = 0 ∨ m = 0 ∨ a + n ≤ b ∨ b + m ≤ a)

/-- Regions keep R218. -/
def regionsOk (sf plain pass : Word) : Bool :=
  let total := 16 * (bits sf 29 24 + 1)
  let bs := bits sf 19 16
  let bl := bits sf 23 20
  let pf := bits plain 9 0
  let pn := bits plain 26 16
  let qf := bits pass 9 0
  let qn := bits pass 26 16
  decide (1 ≤ bl ∧ bs + bl ≤ 16 ∧ pf + pn ≤ total ∧ qf + qn ≤ total) && apart bs bl pf pn && apart bs bl qf qn && apart pf pn qf qn

/-! ## Assignment entries (R230, R231) -/

/-- The address of entry `e`. -/
def feAddr (e : Nat) : Nat := 0x11140000 + 0x40 * e
/-- A field of an entry. -/
def State.fe (s : State) (e w hi lo : Nat) : Nat := s.mf (feAddr e + 4 * w) hi lo
/-- Write it. -/
def State.setFe (s : State) (e w hi lo n : Nat) : State := s.wmf (feAddr e + 4 * w) hi lo n
/-- A word of an entry. -/
def State.feW (s : State) (e w : Nat) : Word := s.read32 (feAddr e + 4 * w)
def State.feValid (s : State) (e : Nat) : Bool := s.fe e 0 31 31 == 1
def State.feHold (s : State) (e : Nat) : Bool := s.fe e 0 30 30 == 1

/-- The valid entries, ascending: VALID is bit 7 of byte 3. -/
def State.validEntries (s : State) : List Nat :=
  s.mem.filterMap (fun c =>
    let e := (c.1 - feAddr 0) / 64
    if feAddr 0 ≤ c.1 ∧ e < 1024 ∧ c.1 % 64 = 3 ∧ c.2.getLsbD 7 then some e else none)

/-- SLOT, SLEN, PHASE and PEXP of a word 0. -/
def w0Slot (w : Word) : Nat := bits w 9 0
def w0Slen (w : Word) : Nat := bits w 13 10
def w0Phase (w : Word) : Nat := bits w 25 14
def w0Pexp (w : Word) : Nat := bits w 29 26

/-- An assignment lies wholly in a Plain region. -/
def inPlain (w plain : Word) : Bool :=
  decide (bits plain 9 0 ≤ w0Slot w ∧ w0Slot w + w0Slen w ≤ bits plain 9 0 + bits plain 26 16)

/-- Two assignments collide (R231). -/
def collide (a b : Word) : Bool :=
  !apart (w0Slot a) (w0Slen a) (w0Slot b) (w0Slen b) &&
    w0Phase a % 2 ^ min (w0Pexp a) (w0Pexp b) == w0Phase b % 2 ^ min (w0Pexp a) (w0Pexp b)

/-- An assignment owns superframe `k` (R231). -/
def owns (w : Word) (k : Nat) : Bool := k % 2 ^ w0Pexp w == w0Phase w

/-- An entry as an owner. -/
def State.ownerOf (s : State) (e : Nat) : FieldOwner := ⟨e, s.feW e 0, s.feW e 1, s.feW e 6, s.feW e 8, s.feW e 9⟩

/-- The record of an entry, when it is a FIELD record (R183). -/
def feRec (e : Nat) : Nat := 2048 + e
def State.hasRec (s : State) (e : Nat) : Bool := s.recKind (feRec e) == 2
/-- Steppe is in RUN and holds the record. -/
def State.stpServes (s : State) (e : Nat) : Bool := s.hasRec e && s.rf F.STP_STAT_STATE == Stp.RUN

/-- NEXT of an assignment in superframe `k`: the start of SLOT + TXOFS (R234). -/
def State.nextIn (s : State) (w : Word) (k : Nat) : Nat := s.slotStart k (w0Slot w) + s.rf F.FMAC_TXOFS_OFS
/-- The first superframe from `k` that the assignment owns. -/
def ownedFrom (w : Word) (k : Nat) : Nat := k + (w0Phase w + 2 ^ w0Pexp w - k % 2 ^ w0Pexp w) % 2 ^ w0Pexp w

/-- The half-width G of a child's window (R234, R243). -/
def State.fieldGuard (s : State) (e next : Nat) : Nat :=
  if s.feHold e then s.rf F.FMAC_GMAX_G
  else if !s.stpServes e then s.rf F.FMAC_GFALL_G
  else
    let i := feRec e
    let span := toSigned 64 (BitVec.ofNat 64 next - s.recGt i 30).toNat
    let base := s.rf F.FMAC_GBASE_G + (ppmOf (s.cr i 28 15 0) span).toNat
    min (base * 2 ^ min (s.fe e 1 15 12) 2) (s.rf F.FMAC_GMAX_G)

/-- C = PRED − OFFSET while Steppe is in RUN (R234). -/
def State.fieldCentre (s : State) (e : Nat) : Int :=
  if s.stpServes e then toSigned 32 (s.cr (feRec e) 33 31 0) - toSigned 32 (s.cr (feRec e) 32 31 0) else 0

/-- The first sample at `t` lies in the window of an owner in superframe `k` (R234). -/
def State.inFieldWindow (s : State) (o : FieldOwner) (k t : Nat) : Bool :=
  let next := s.nextIn o.w0 k
  let c := s.fieldCentre o.entry
  let g : Int := s.fieldGuard o.entry next
  decide (max (s.slotStart k (w0Slot o.w0) : Int) (next + c - g) ≤ t ∧ (t : Int) ≤ next + c + g)

/-- Steppe's NEXT, PRED and GUARD for the next owned superframe after `k` (R212, R234, R241). -/
def State.fieldNext (s : State) (e k : Nat) : State :=
  if !s.hasRec e ∨ !s.feValid e then s
  else
    let next := s.nextIn (s.feW e 0) (ownedFrom (s.feW e 0) (k + 1))
    let s := if s.stpServes e then (s.setRecGt (feRec e) 36 (BitVec.ofNat 64 next)).predict (feRec e) else s
    s.setRec (feRec e) 34 23 0 (s.fieldGuard e next)

/-- Set the state of a child's record (R241). -/
def State.fieldRecState (s : State) (e st : Nat) : State := if s.hasRec e then s.setRecState (feRec e) st else s

/-! ## Frames (R221 to R224) -/

/-- TYPE, AR, TC, SEC, VER of a frame control. -/
def fcType (fc : Nat) : Nat := fc / 2 ^ 13 % 8
def fcBit (fc k : Nat) : Bool := fc / 2 ^ k % 2 == 1
def fcVer (fc : Nat) : Nat := fc / 2 ^ 6 % 4
/-- A frame control: TYPE, SEC, FP, AR, TC. -/
def fcOf (typ : Nat) (sec fp ar tc : Bool) : Nat :=
  typ * 2 ^ 13 + (if sec then 2 ^ 12 else 0) + (if fp then 2 ^ 11 else 0) + (if ar then 2 ^ 10 else 0) +
    (if tc then 2 ^ 9 else 0) + 2 ^ 6

/-- A little-endian number in a frame. -/
def fnum (d : List Byte) (o n : Nat) : Nat := bytesNat ((d.drop o).take n)
/-- Bytes of the MAC header, with TC when it is present. -/
def hdrLen (d : List Byte) : Nat := if fcBit (fnum d 0 2) 9 then 11 else 9

/-- The key slot of a KIND (R223): pairwise, network, join; none for KIND 3. -/
def State.fieldKey (s : State) (kind pair : Nat) : Option Nat :=
  if kind = 0 then some pair else if kind = 1 then some (s.rf F.FMAC_KEYS_NET)
  else if kind = 2 then some (s.rf F.FMAC_KEYS_JOIN) else none

/-- Page 3, which MAC S uses (R223). -/
def State.fieldSnap (s : State) (slot : Nat) (usage : Nat) : Option KeySlot := s.snapshot (s.rf F.FMAC_CRYPG_PAGE) slot usage

/-- Protect a frame without MIC and FCS: its header with the security header, and its payload (R223). -/
def fieldSeal (key : List Byte) (eui : List Nat) (cnt level : Nat) (head pay : List Byte) : List Byte :=
  let n := Config.fieldNonce eui cnt level
  let aad := Config.fieldAad (nats head)
  if level = 2 then
    let t := (Aes.ccmEnc (nats key) n (aad ++ nats pay) [] 8).2
    head ++ pay ++ toBytes (t ++ List.replicate (8 - t.length) 0)
  else
    let r := Aes.ccmEnc (nats key) n aad (nats pay) 8
    head ++ toBytes r.1 ++ toBytes (r.2 ++ List.replicate (8 - r.2.length) 0)

/-- Check a frame without its FCS: the plaintext payload when its MIC holds. -/
def fieldOpen (key : List Byte) (eui : List Nat) (cnt level : Nat) (head body mic : List Byte) : Option (List Byte) :=
  let n := Config.fieldNonce eui cnt level
  let aad := Config.fieldAad (nats head)
  if level = 2 then
    if toBytes (Aes.ccmDec (nats key) n (aad ++ nats body) [] 8).2 = mic then some body else none
  else
    let r := Aes.ccmDec (nats key) n aad (nats body) 8
    if toBytes r.2 = mic then some (toBytes r.1) else none

/-- A PSDU with its FCS (R221, R355). -/
def fieldFcs (d : List Byte) : List Byte := d ++ natBytes 4 (crc32 d)
/-- The FCS of a PSDU checks. -/
def fieldFcsOk (d : List Byte) : Bool := decide (7 ≤ d.length) && fieldFcs (d.take (d.length - 4)) == d

/-- The 9-byte header. -/
def fieldHdr (fc : Nat) (seq : Byte) (net dst src : Nat) : List Byte :=
  natBytes 2 fc ++ [seq] ++ natBytes 2 net ++ natBytes 2 dst ++ natBytes 2 src
/-- The security header (R223). -/
def fieldSec (kind level cnt : Nat) : List Byte := BitVec.ofNat 8 (kind * 64 + level) :: natBytes 4 cnt

/-- The 8 octets of an EUI-64 in two registers or words. -/
def euiOf (lo hi : Word) : List Nat := nats (wordBytes [lo, hi])

/-! ## Airtime (R227) -/

/-- The airtime of a PSDU of `len` bytes in ns: stated for uncoded SUN-FSK, else a free value. -/
def fieldAirNs (mode len : Nat) : Nat :=
  if 128 ≤ mode ∧ mode < 176 ∧ mode % 2 = 0 then
    divOpen ((12 + len) * 8 * 10 ^ 9) (if mode / 16 = 8 then 50000 else if mode / 16 = 9 then 100000 else 150000)
  else Config.fieldAirtime mode len

/-! ## Dwell guard (R250, R251) -/

/-- The channel spacing of a BW code in kHz (R134). -/
def spacing (bw : Nat) : Nat :=
  if bw = 8 then 1200 else if bw = 9 then 800 else if bw = 10 ∨ bw = 13 then 400 else 200

/-- The lowest enabled group that contains the whole occupied channel. -/
def State.dwellGroup (s : State) (freq bw : Nat) : Option Nat :=
  (List.range 8).find? (fun g => s.rb (F.FMAC_DW_CTRL_EN g) &&
    decide (2 * s.rf (F.FMAC_DW_CTRL_FLO g) + spacing bw ≤ 2 * freq ∧ 2 * freq + spacing bw ≤ 2 * s.rf (F.FMAC_DW_FHI_FHI g)))

/-- The sum of a list of numbers. -/
def sumN (l : List Nat) : Nat := l.foldl (fun a b => a + b) 0
/-- Add to the current bin. -/
def chargeBin (l : List Nat) (t : Nat) : List Nat := (l.headD 0 + t) :: l.drop 1

/-- The bins that count for a transmission: the group's, or the channel's; none when no channel counter is free. -/
def State.dwellBins (s : State) (g freq : Nat) : Option (List Nat) :=
  if s.rb (F.FMAC_DW_CTRL_PERCH g) then
    match s.fld.chBins.find? (fun x => x.1 == g && x.2.1 == freq) with
    | some x => some x.2.2
    | none => if (s.fld.chBins.filter (fun x => sumN x.2.2 != 0)).length < 64 then some [] else none
  else some (Sparse.get (fun _ => []) s.fld.bins g)

/-- Keep the bins of a group or channel. A channel without a counter takes one that is empty. -/
def State.setDwell (s : State) (g freq : Nat) (l : List Nat) : State :=
  if s.rb (F.FMAC_DW_CTRL_PERCH g) then
    s.setFld (fun f =>
      if f.chBins.any (fun x => x.1 == g && x.2.1 == freq) then
        { f with chBins := f.chBins.map (fun x => if x.1 = g ∧ x.2.1 = freq then (g, freq, l) else x) }
      else { f with chBins := f.chBins.filter (fun x => sumN x.2.2 != 0) ++ [(g, freq, l)] })
  else s.setFld (fun f => { f with bins := Sparse.put (fun _ => []) f.bins g l })

/-- FMAC_DWg_USED: the usage in ms, for PERCH the highest channel. -/
def State.dwellUsed (s : State) (g : Nat) : Nat :=
  (if s.rb (F.FMAC_DW_CTRL_PERCH g) then
    ((s.fld.chBins.filter (fun x => x.1 == g)).map (fun x => sumN x.2.2)).foldl max 0
   else sumN (Sparse.get (fun _ => []) s.fld.bins g)) / 10 ^ 6

/-- DWELL_CHECK (R251): charge a transmission of `ns`, or refuse it. `ctl` marks a beacon or an ACK. -/
def State.dwell (s : State) (ns : Nat) (ctl : Bool) : Option State :=
  let freq := s.synthFreq .s
  match s.dwellGroup freq (s.synthBw .s) with
  | none => none
  | some g =>
    match s.dwellBins g freq with
    | none => none
    | some l =>
      let tmax := s.rf (F.FMAC_DW_WIN_TMAX g) * 10 ^ 6
      let lim := (if ctl then s.regN (R.FMAC_DW_LIMIT g) else s.regN (R.FMAC_DW_LIMIT g) - s.regN (R.FMAC_DW_RSV g)) * 10 ^ 6
      if (tmax ≠ 0 ∧ tmax < ns) ∨ lim < sumN l + ns then none else some (s.setDwell g freq (chargeBin l ns))

/-- A transmission refused with DWELL (R251). -/
def State.dwellRefused (s : State) : State := (s.bump R.FMAC_CNT_DWELL).raise 76

/-- DWELL_BIN_ROLL (R250): the bins of a group move by one; 33 count. -/
def execDwellBinRoll (g : Fin 8) (s : State) : Host.Outcome State Fault Refusal :=
  let roll (l : List Nat) : List Nat := (0 :: l).take 33
  .next (s.setFld (fun f => { f with
    bins := Sparse.put (fun _ => []) f.bins g.val
      (let l := Sparse.get (fun _ => []) f.bins g.val
       if sumN (roll l) = 0 then [] else roll l)
    chBins := f.chBins.map (fun x => if x.1 = g.val then (x.1, x.2.1, roll x.2.2) else x) }))

/-- A write to FMAC_DWg_WIN (R250): a change of WIN clears the group's bins. -/
def State.dwWinWrite (i g : Nat) (v : Word) (s : State) : State :=
  let old := s.rf (F.FMAC_DW_WIN_WIN g)
  let s := s.writeReg i (R.FMAC_DW_WIN g) v
  if s.rf (F.FMAC_DW_WIN_WIN g) = old then s
  else s.setFld (fun f => { f with
    bins := Sparse.put (fun _ => []) f.bins g []
    chBins := f.chBins.filter (fun x => x.1 != g) })

/-! ## Radio S (R228, R239) -/

/-- The radio is on record `rec` and takes a command at its MAC port (R76, R78, R239). -/
def State.radioTakes (s : State) (rec_ : Nat) : Bool :=
  s.ready (Fn.RADIO 3) && s.rf (F.RFC_STAT_ACTREC .s) == rec_ && (s.rfc.get .s).port.isNone &&
    decide (2 ≤ s.rfcState .s ∧ s.rfcState .s ≤ 4)

/-- A region or a transmission is lost to the radio (R239). -/
def State.radioRejected (s : State) : State := (s.bump R.FMAC_CNT_RADIOREJ).raise 72

/-- MDM_SMODE follows the field schedule (R137). -/
def State.fieldMode (s : State) (modeb : Nat) : State := s.smodeWrite 17 (BitVec.ofNat 32 (modeb / 16))

/-- The RX command of the MAC port: chains as fitted, at once. -/
def rxCommand (chains : Nat) : SixWords := ⟨0x0500C000, 0, 0, 0, 0, BitVec.ofNat 32 chains⟩
/-- The IDLE command of the MAC port, at once. -/
def idleCommand : SixWords := ⟨0x0700C000, 0, 0, 0, 0, 0⟩

/-- The TX command: chain 0 at START, and back to RX. Which power the field MAC asks for is not given: a free value. -/
def fieldTxCommand (tag : Byte) (start : Nat) (power : Nat) : SixWords :=
  ⟨BitVec.ofNat 32 (6 * 2 ^ 24 + tag.toNat * 2 ^ 16 + 2 ^ 12), BitVec.ofNat 32 start, BitVec.ofNat 32 (start / 2 ^ 32), 0, 0,
    BitVec.ofNat 32 (power % 256 * 2 ^ 24 + 1)⟩

/-- The transmit vector (R129, R134). Where the PSDU lies in radio buffer S and the scrambler's seed are not given: free
values. -/
def fieldVector (tag : Byte) (modeb len start addr seed : Nat) : SevenWords :=
  let mode := modeb / 16
  let fsk := decide (8 ≤ mode)
  ⟨BitVec.ofNat 32 ((if fsk then 13 else 12) * 2 ^ 28 + smodeBw mode * 2 ^ 24 + tag.toNat * 2 ^ 16 +
      (if fsk then mode - 8 else modeb % 16) * 2 ^ 8 + (if fsk then modeb % 2 * 128 else 0)),
    0, BitVec.ofNat 32 len, BitVec.ofNat 32 addr, BitVec.ofNat 32 start, BitVec.ofNat 32 (start / 2 ^ 32),
    BitVec.ofNat 32 (seed % 2 ^ 16 * 2 ^ 16)⟩

/-- Issue a transmission through the MAC port of RFC_S. -/
def State.fieldSend (s : State) (psdu : List Byte) (tag : Byte) (modeb start : Nat) : State :=
  let p := s.free
  let a := s.used.free
  let d := s.used.used.free
  let s := s.used.used.used.emit (.fieldTx psdu modeb (BitVec.ofNat 64 start))
  (s.macPort .s (fieldTxCommand tag start p)).transmitVector .s (fieldVector tag modeb psdu.length start a d) true

/-! ## Results (R259) -/

/-- Post a result. -/
def State.fmPost (s : State) (tag opc status : Nat) : State :=
  if s.fld.results.length < 16 then
    s.setFld (fun f => { f with results := f.results ++ [⟨tag, opc, status, s.gt⟩] })
  else s.bump R.FMAC_CNT_RESOVF

/-- The units of the buffer at an address of radio buffer S return to their pool (R17). -/
def State.freeRbuf (s : State) (a : Nat) : State :=
  match s.pkt.rbufs.find? (fun b => b.radio == 3 && decide (b.addr ≤ a ∧ a < b.addr + 256 * b.units)) with
  | none => s
  | some b =>
    let s := s.setPkt (fun p => { p with rbufs := p.rbufs.erase b })
    if b.rx then s.rxGive 3 b.units else s.txGive 3 b.units

/-- A staged downlink frame leaves its entry with a 0x87 result (R236). -/
def State.dlEnd (s : State) (e status : Nat) : State :=
  if s.fe e 2 31 0 = 0 then s
  else
    let s := (s.freeRbuf (s.fe e 2 31 0)).fmPost (s.fe e 3 15 8) 0x87 status
    let s := (s.setFe e 2 31 0 0).write32 (feAddr e + 12) 0
    let s := s.setFld (fun f => { f with staged := f.staged.filter (fun x => x != e), await := if f.await.any (fun x => x.1 == e) then none else f.await })
    if status = St.OK then s.bump R.FMAC_CNT_DLOK else s.bump R.FMAC_CNT_DLFAIL

/-- A DATA that was sent FMAC_DLTRY times and whose ACK can come no more is discarded (R236). -/
def State.dlRetry (s : State) (e : Nat) : State :=
  if s.fe e 2 31 0 ≠ 0 ∧ s.rf F.FMAC_DLTRY_N ≤ s.fe e 3 3 0 ∧ !s.fld.await.any (fun x => x.1 == e) then s.dlEnd e St.ABORTED
  else s

/-- An assignment is released (R243, R258). -/
def State.feRelease (s : State) (e : Nat) : State :=
  let s := ((s.setFe e 0 31 31 0).setFe e 0 30 30 0).dlEnd e St.ABSENT
  if s.hasRec e then (s.setRec (feRec e) 38 31 16 0).setRec (feRec e) 38 9 0 0 else s

/-- FMAC_RES (R259). -/
def State.fmPop (i : Init) (s : State) : State :=
  match s.fld.results with
  | [] => s.answer i 0
  | x :: xs => (s.setFld (fun f => { f with results := xs })).answer i
      (BitVec.ofNat 32 (2 ^ 31 + x.tag * 2 ^ 16 + x.opc * 2 ^ 8 + x.status))

/-- FMAC_RESULT_POP (R259). -/
def execFmacResultPop (i : Init) (s : State) : Host.Outcome State Fault Refusal :=
  .next (s.onRead i R.FMAC_RES (State.fmPop i))

end Sys2Proof.Machine
end

