-- ==== Sys2Proof/Machine/Gtu.lean ====
section
/-! DEFINITION. The Grid Time Unit (R37 to R62, R67, R68): crossings, the mains loop, states, phase offset, beacon samples,
pairs, holdover and return, reads of grid time, replicas. The compare channels stand in Gc.lean. -/

namespace Sys2Proof.Machine

/-! GTU states (R44). -/
namespace Gtu
def FREE : Nat := 0
def LOCAL : Nat := 1
def ALIGNED : Nat := 2
def HOLDOVER : Nat := 3
def SLEW : Nat := 4

/-- The nominal increment for GTU_CTRL.NOM (R40). -/
def nominalInc (nom60 : Bool) : Nat := if nom60 then 0x101B2B2A else 0x0D6BF94D

/-- An angle difference wrapped to ±0x80_0000 (R41). -/
def wrap24 (i : Int) : Int := toSigned 24 (ofSigned 24 i)

/-- A list in ascending order. -/
def insertInt (x : Int) : List Int → List Int
  | [] => [x]
  | y :: ys => if x ≤ y then x :: y :: ys else y :: insertInt x ys
def sortInt : List Int → List Int
  | [] => []
  | x :: xs => insertInt x (sortInt xs)

/-- The median of R47: the sample of rank floor((n + 1) / 2) in ascending order. -/
def median (l : List Int) : Int := (sortInt l).getD ((l.length + 1) / 2 - 1) 0

/-- The spread of R47: the largest less the smallest. -/
def sampleSpread (l : List Int) : Int := (sortInt l).getLastD 0 - (sortInt l).headD 0

/-- SECTOR of an offset: the nearest multiple of 30 degrees (R46). At an exact middle either neighbour is open. -/
def sector (ofs : Nat) : Nat :=
  let q := ofs * 24 / 2 ^ 24
  (if ofs * 24 % 2 ^ 24 = 0 ∧ q % 2 = 1 then q / 2 + (if Config.roundUp ofs 24 then 1 else 0) else (q + 1) / 2) % 12

/-- k × 2²⁴ / 12, rounded (R46). -/
def sectorAngle (k : Nat) : Nat := (k * 2 ^ 24 * 2 + 12) / 24

/-- RESID of an offset: the signed remainder (R46). -/
def resid (ofs : Nat) : Int := wrap24 ((ofs : Int) - (sectorAngle (sector ofs) : Nat))

/-- The class of ERR_EST (R52). -/
def qualOf (state err : Nat) : Nat :=
  if state = ALIGNED then 0
  else if state = HOLDOVER ∨ state = SLEW then
    if err ≤ 0x2000 then 1 else if err ≤ 0x10000 then 2 else if err ≤ 0x80000 then 3 else 4
  else 4

/-- A spacing in ns lies in the capture range (R39). -/
def inCapture (nom60 : Bool) (ns : Nat) : Bool :=
  if nom60 then decide (54 * ns ≤ 10 ^ 9 ∧ 10 ^ 9 ≤ 66 * ns) else decide (45 * ns ≤ 10 ^ 9 ∧ 10 ^ 9 ≤ 55 * ns)

/-- The least and the greatest increment of the capture range. -/
def incBounds (nom60 : Bool) : Nat × Nat :=
  if nom60 then (54 * 2 ^ 52 / 10 ^ 9, 66 * 2 ^ 52 / 10 ^ 9) else (45 * 2 ^ 52 / 10 ^ 9, 55 * 2 ^ 52 / 10 ^ 9)

/-- The nominal grid frequency in Hz. -/
def nominalHz (nom60 : Bool) : Nat := if nom60 then 60 else 50
end Gtu

open Gtu

/-- The present state of the GTU (R44). -/
def State.gtuState (s : State) : Nat := s.rf F.GTU_STAT_STATE
/-- GTU_CTRL.NOM selects 60 Hz. -/
def State.nom60 (s : State) : Bool := s.rb F.GTU_CTRL_NOM

/-- The frequency f in µHz, as a fraction: INC × 10¹⁵ / 2⁵², corrected by the PTP rate ratio while PMAP_VALID (R40). -/
def State.freqNum (s : State) : Nat :=
  s.regN R.GTU_INC * 10 ^ 6 *
    (if s.rb F.GTU_STAT_PMAP_VALID then ((10 ^ 9 : Int) + toSigned 32 (s.regN R.GTU_PMAP_RATIO)).toNat else 10 ^ 9)
def freqDen : Nat := 2 ^ 52

/-- Load GTU_INC; GTU_FREQ follows (R40). -/
def State.setInc (s : State) (inc : Nat) : State :=
  let s := s.setRegN R.GTU_INC inc
  s.setRegN R.GTU_FREQ (divOpen s.freqNum freqDen)

/-- Whether f lies within the normal band (R42). -/
def State.inBand (s : State) : Bool :=
  decide (s.regN R.GTU_BAND_LO * freqDen ≤ s.freqNum ∧ s.freqNum ≤ s.regN R.GTU_BAND_HI * freqDen)

/-- An ascending list of event numbers with `n` put in its place. -/
def insertEvent (n : Nat) : List Nat → List Nat
  | [] => [n]
  | m :: ms => if n ≤ m then n :: m :: ms else m :: insertEvent n ms

/-- The end of a GTU step: INBAND (R42) and QUAL (R52) are evaluated again, and the events of the tick are raised in
ascending order (R65), EV006 and EV007 among them when INBAND or QUAL changed. -/
def State.gtuEnd (s : State) (evs : List Nat) : State :=
  let b := s.inBand
  let evs := if s.rb F.GTU_STAT_INBAND != b then insertEvent 6 evs else evs
  let s := s.wb F.GTU_STAT_INBAND b
  let q := qualOf s.gtuState (s.rf F.GTU_HOLD_ERR_EST)
  let evs := if s.rf F.GTU_HOLD_QUAL ≠ q then insertEvent 7 evs else evs
  (s.wf F.GTU_HOLD_QUAL q).raiseAll evs

/-- Enter a state (R44): a slew outside SLEW, a commanded hold outside HOLDOVER, and samples under way outside ALIGNED end. -/
def State.gtuEnter (s : State) (st : Nat) : State :=
  let s := s.wf F.GTU_STAT_STATE st
  let s := if st = SLEW then s else s.setRegN R.GTU_SLEW 0
  let s := if st = HOLDOVER ∨ st = SLEW then s else s.wf F.GTU_HOLD_ERR_EST 0
  { s with gtu := { s.gtu with
      holdCmd := s.gtu.holdCmd && st == HOLDOVER
      relearn := s.gtu.relearn && st == ALIGNED
      outRun := if st = ALIGNED then s.gtu.outRun else []
      lockRun := if st = FREE then 0 else s.gtu.lockRun
      pred := if st = FREE then none else s.gtu.pred } }

/-- Write GTU_OFS; GTU_OFS_INFO follows (R46). -/
def State.setOfs (s : State) (ofs : Int) : State :=
  let o := ofSigned 24 ofs
  let s := s.setRegN R.GTU_OFS o
  let s := (s.wf F.GTU_OFS_INFO_SECTOR (sector o)).wf F.GTU_OFS_INFO_RESID (ofSigned 24 (resid o))
  { s with gtu := { s.gtu with ofsAt := s.gt } }

/-- GTU_OFS as a number. -/
def State.ofs (s : State) : Nat := s.rf F.GTU_OFS_OFS

/-- Set the remaining slew and its error estimate (R52, R53). -/
def State.setSlew (s : State) (rem : Int) : State :=
  (s.setRegN R.GTU_SLEW (ofSigned 32 rem)).wf F.GTU_HOLD_ERR_EST (min rem.natAbs 0xFFFFFF)

/-- The mains loop updates GTU_INC once per cycle (R41). The loop's gains are not given: the new increment is a free value
within the capture range (R43). -/
def State.loopInc (s : State) : State :=
  if s.rb F.GTU_CTRL_PLL_EN then
    let b := incBounds s.nom60
    (s.setInc (max b.1 (min s.free b.2))).used
  else s

/-- Eight consecutive crossings whose spacings lie in the capture range and differ by at most 0x1_0000 units, with none
counted missing since (R53, R54). -/
def State.returnMet (s : State) : Bool :=
  let l := s.gtu.spacings
  l.length == 8 && l.all (inCapture s.nom60) &&
    decide ((l.foldl max 0 - l.foldl min (l.headD 0)) * s.regN R.GTU_INC ≤ 0x10000 * 2 ^ 28) &&
    s.rf F.GTU_STAT_MISS == 0

/-- A sample or pair agreed with grid time within the last 10 s (R53). -/
def State.agreed (s : State) : Bool :=
  match s.gtu.agreeAt with
  | none => false
  | some t => s.withinSec (s.gtN - t.toNat) 10

/-- The mains counts as returned (R53): confirmed, GTU_OFS takes e and the GTU is ALIGNED; unconfirmed, it slews. -/
def State.mainsReturn (s : State) : State :=
  let e := s.gtu.lastE
  let s := { s with gtu := { s.gtu with spacings := [], pred := some (s.gt + BitVec.ofNat 64 (2 ^ 24)) } }
  if s.agreed then
    let old := sector s.ofs
    let s := (s.setOfs ((s.ofs : Int) + e)).gtuEnter ALIGNED
    s.gtuEnd (if sector s.ofs ≠ old then [0, 4] else [0])
  else
    let s := (s.gtuEnter SLEW).setSlew (-e)
    if e.natAbs < 0x400 then (s.gtuEnter ALIGNED).gtuEnd [0, 2, 3] else s.gtuEnd [2]

/-- Enter HOLDOVER (R51, R54, R47): the error estimate starts from the last discipline event. -/
def State.enterHoldover (s : State) (cmd : Bool) : State :=
  let s := s.gtuEnter HOLDOVER
  { s with gtu := { s.gtu with
      holdCmd := cmd
      spacings := if cmd then s.gtu.spacings else []
      pred := if cmd then s.gtu.pred else none
      disc := some (s.gtu.disc.getD (s.gt, 0)) } }

/-- ERR_EST in HOLDOVER: the error at the last discipline event plus the drift since, saturating (R52). -/
def State.holdErr (s : State) : Nat :=
  let d := s.gtu.disc.getD (s.gt, 0)
  let recent := if s.rf F.GTU_CTRL_ROLE = 0 then s.rb F.GTU_STAT_BCN_VALID else s.rb F.GTU_STAT_PMAP_VALID
  let rate := if recent then s.regN R.GTU_HO_RATE_D else s.regN R.GTU_HO_RATE_F
  min (d.2 + rate * ((s.gtN - d.1.toNat) / 2 ^ 24)) 0xFFFFFF

/-- A crossing is within the window of its prediction (R39). -/
def State.inWindow (s : State) (gx : GTime) : Bool :=
  match s.gtu.pred with
  | none => false
  | some p => decide ((toSigned 64 (gx - p).toNat).natAbs ≤ 0x100000)

/-- A prediction is in force: LOCAL, ALIGNED, SLEW, and a holdover entered by HOLD (R39, R54). -/
def State.predicts (s : State) : Bool :=
  s.gtuState == LOCAL || s.gtuState == ALIGNED || s.gtuState == SLEW || (s.gtuState == HOLDOVER && s.gtu.holdCmd)

/-- The delay the GTU subtracts from a crossing, in ns (R37, R38). -/
def State.senseDelay (s : State) : Nat := if s.rb F.GTU_CTRL_SRC then s.regN R.GTU_ZDLY else s.regN R.GTU_SDLY

/-- The grid time of a crossing that arrives now. -/
def State.crossingTime (s : State) : GTime := s.gt - BitVec.ofNat 64 (s.nsToUnits s.senseDelay)

/-- A crossing is valid (R39). -/
def State.crossingValid (s : State) (spacing amp : Nat) : Bool :=
  (s.rb F.GTU_CTRL_SRC || decide (s.regN R.GTU_AMP_MIN ≤ amp)) &&
    (if s.predicts then s.inWindow s.crossingTime else inCapture s.nom60 spacing)

/-- A crossing that is not valid. -/
def State.crossingBad (s : State) : State :=
  let s := s.wf F.GTU_STAT_LOCKCNT 0
  { s with gtu := { s.gtu with lockRun := 0, spacings := [] } }

/-- What every valid crossing leaves: its time, e, the counts, the next prediction, and the spacing history. -/
def State.crossingMark (s : State) (spacing : Nat) : State :=
  let gx := s.crossingTime
  let e := wrap24 ((gx.toNat : Int) - s.ofs)
  let s := s.setRegN R.GTU_PERR (ofSigned 32 e)
  let s := (s.wf F.GTU_STAT_MISS 0).wf F.GTU_STAT_LOCKCNT (min (s.rf F.GTU_STAT_LOCKCNT + 1) 0xFFFF)
  { s with gtu := { s.gtu with
      xlast := gx
      lastE := e
      pred := if s.predicts then some (gx + BitVec.ofNat 64 (2 ^ 24)) else s.gtu.pred
      spacings := (spacing :: s.gtu.spacings).take 8
      lockRun := if s.gtuState = FREE then (if e.natAbs < 0x1000 then s.gtu.lockRun + 1 else 0) else s.gtu.lockRun } }

/-- What a valid crossing does in the present state. -/
def State.crossingAct (s : State) : State :=
  let e := s.gtu.lastE
  let st := s.gtuState
  if st = HOLDOVER then
    (if !s.gtu.holdCmd && s.returnMet then s.mainsReturn else s)
  else if st = SLEW then
    let s := (s.setSlew (-e)).loopInc
    (if e.natAbs < 0x400 then (s.gtuEnter ALIGNED).gtuEnd [0, 3] else s.gtuEnd [])
  else if st = FREE ∧ 50 ≤ s.gtu.lockRun then
    let s := (s.loopInc).gtuEnter (if s.rf F.GTU_CTRL_ROLE = 2 then ALIGNED else LOCAL)
    let s := { s with gtu := { s.gtu with pred := some (s.gtu.xlast + BitVec.ofNat 64 (2 ^ 24)) } }
    s.gtuEnd [0]
  else s.loopInc.gtuEnd []

/-- MAINS_CROSSING (R39): a crossing arrives `spacing` ns after the previous one, with the sensed amplitude `amp` in mV. A
GZX edge within 40 % of the nominal period is ignored (R38). -/
def execMainsCrossing (spacing amp : Nat) (s : State) : Host.Outcome State Fault Refusal :=
  if s.rb F.GTU_CTRL_SRC && decide (spacing * 5 * nominalHz s.nom60 < 2 * 10 ^ 9) then .next s
  else
    let s := if s.rb F.GTU_CTRL_SRC then s else s.setRegN R.GTU_AMP amp
    if s.crossingValid spacing amp then .next (s.crossingMark spacing).crossingAct
    else .next s.crossingBad

/-- A predicted crossing is counted missing (R39, R51, R54). -/
def State.missCrossing (s : State) : State :=
  let s := (s.wf F.GTU_STAT_MISS (min (s.rf F.GTU_STAT_MISS + 1) 255)).wf F.GTU_STAT_LOCKCNT 0
  { s with gtu := { s.gtu with
      lockRun := 0
      spacings := []
      pred := s.gtu.pred.map (fun p => p + BitVec.ofNat 64 (2 ^ 24)) } }

/-- CROSSING_MISSING (R51): at the third consecutive one, ALIGNED or SLEW goes to HOLDOVER and LOCAL to FREE. In a holdover
entered by HOLD the crossing is counted only (R54). Without a prediction nothing can be missing (R39). -/
def execCrossingMissing (s : State) : Host.Outcome State Fault Refusal :=
  if s.predicts then
    let st := s.gtuState
    let s := s.missCrossing
    if st = HOLDOVER ∨ s.rf F.GTU_STAT_MISS < 3 then .next s
    else if st = LOCAL then .next ((s.gtuEnter FREE).gtuEnd [1])
    else
      let s := s.enterHoldover false
      .next ((s.wf F.GTU_HOLD_ERR_EST s.holdErr).gtuEnd [1])
  else .next s

/-- HOLD_ESTIMATE_UPDATE (R52): ERR_EST once per cycle in HOLDOVER or SLEW. -/
def execHoldEstimateUpdate (s : State) : Host.Outcome State Fault Refusal :=
  if s.gtuState = HOLDOVER then .next ((s.wf F.GTU_HOLD_ERR_EST s.holdErr).gtuEnd [])
  else if s.gtuState = SLEW then
    .next ((s.wf F.GTU_HOLD_ERR_EST (min (toSigned 32 (s.regN R.GTU_SLEW)).natAbs 0xFFFFFF)).gtuEnd [])
  else .next s

/-! ## Alignment (R47 to R49) -/

/-- Channels 0 to 63. -/
def gcList : Nat → List Nat
  | 0 => []
  | n + 1 => gcList n ++ [n]

/-- Disarm every armed compare channel of a list with ABORTED (R61, R68). -/
def State.gcAbort (s : State) : List Nat → State
  | [] => s
  | n :: ns =>
    (if s.rb (F.GC_STAT_ARMED n) then
      ((s.wf (F.GC_STAT_ARMED n) 0).wf (F.GC_STAT_ABORTF n) 1).wf (F.GC_STAT_STATUS n) St.ABORTED
     else s).gcAbort ns

/-- Some compare channel is armed. -/
def State.anyArmed (s : State) : Bool := (gcList 64).any (fun n => s.rb (F.GC_STAT_ARMED n))

/-- An alignment step by Δ (R47, R49): grid time and GTU_OFS move, every armed channel is aborted, and LOCAL goes to
ALIGNED, FREE to HOLDOVER. -/
def State.alignStep (s : State) (d : Int) (beacon : Bool) : State :=
  let armed := s.anyArmed
  let s := s.gcAbort (gcList 64)
  let acc := BitVec.ofInt 92 ((s.gtu.acc.toNat : Int) + d * (2 ^ 28 : Nat))
  let s := { s with gtu := { s.gtu with
      acc := acc
      samples := []
      pred := s.gtu.pred.map (fun p => p + BitVec.ofInt 64 d) } }
  let s := s.setOfs ((s.ofs : Int) + d)
  let s := { s with gtu := { s.gtu with disc := if beacon then some (s.gt, 0) else s.gtu.disc } }
  let evs := if armed then [4, 8, 10] else [4, 10]
  if s.gtuState = LOCAL then (s.gtuEnter ALIGNED).gtuEnd (0 :: evs)
  else
    let s := s.enterHoldover false
    (s.wf F.GTU_HOLD_ERR_EST s.holdErr).gtuEnd (1 :: evs)

/-- A sample is collected for an alignment (R47); in ALIGNED under RELEARN the result is applied as a slew (R67). -/
def State.learn (s : State) (d : Int) : State :=
  let l := d :: s.gtu.samples
  let s := { s with gtu := { s.gtu with samples := l } }
  if l.length < s.rf F.GTU_CTRL_LEARN_K then s.gtuEnd []
  else if (s.regN R.GTU_BCN_TOL : Int) < sampleSpread l then
    { s with gtu := { s.gtu with samples := l.dropLast } }.gtuEnd []
  else
    let m := median l
    if s.gtuState = ALIGNED then
      let s := { s with gtu := { s.gtu with samples := [] } }
      let s := (s.setOfs ((s.ofs : Int) + m)).gtuEnter SLEW
      (s.setSlew (wrap24 m)).gtuEnd [2, 4]
    else s.alignStep m true

/-- A sample in ALIGNED (R48): within tolerance it adds b/64 to GTU_OFS, at most 336 units per cycle; the eighth in a row
outside raises EV005 and, with AUTO, moves GTU_OFS by the median and slews. -/
def State.track (s : State) (b : Int) : State :=
  if b.natAbs ≤ s.regN R.GTU_BCN_TOL then
    let s := { s with gtu := { s.gtu with outRun := [] } }
    let step := min (divOpen b.natAbs 64) (336 * ((s.gtN - s.gtu.ofsAt.toNat) / 2 ^ 24))
    let old := sector s.ofs
    if step = 0 then s.gtuEnd []
    else
      let s := s.setOfs ((s.ofs : Int) + (if b < 0 then -(step : Int) else step))
      s.gtuEnd (if sector s.ofs ≠ old then [4] else [])
  else
    let l := b :: s.gtu.outRun
    if l.length < 8 then { s with gtu := { s.gtu with outRun := l } }.gtuEnd []
    else
      let s := { s with gtu := { s.gtu with outRun := [] } }
      if s.rb F.GTU_BCN_CTRL_AUTO then
        let old := sector s.ofs
        let s := (s.setOfs ((s.ofs : Int) + median l)).gtuEnter SLEW
        (s.setSlew (wrap24 (median l))).gtuEnd (if sector s.ofs ≠ old then [2, 4, 5] else [2, 5])
      else s.gtuEnd [5]

/-- Count a sample in GTU_BCN_CNT; what 2³² samples leave there is not given, so that value is free. -/
def State.countSample (s : State) : State :=
  if s.regN R.GTU_BCN_CNT = 0xFFFFFFFF then (s.setRegN R.GTU_BCN_CNT s.free).used
  else s.setRegN R.GTU_BCN_CNT (s.regN R.GTU_BCN_CNT + 1)

/-- What a MEMBER does with a sample in the present state (R47, R48, R52). -/
def State.memberSample (s : State) (d : Int) : State :=
  let s := { s with gtu := { s.gtu with
      agreeAt := if d.natAbs ≤ s.regN R.GTU_BCN_TOL then some s.gt else s.gtu.agreeAt
      disc := some (s.gt, min d.natAbs 0xFFFFFF) } }
  let st := s.gtuState
  if st = FREE ∨ st = LOCAL ∨ (st = ALIGNED ∧ s.gtu.relearn) then s.learn d
  else if st = ALIGNED then s.track d
  else if st = HOLDOVER then
    let b := incBounds s.nom60
    let s := (s.setInc (max b.1 (min s.free b.2))).used
    (s.wf F.GTU_HOLD_ERR_EST s.holdErr).gtuEnd []
  else s.gtuEnd []

/-- A beacon timing sample reaches the GTU (R47): Δ = GT_carried + PROP − GT_local. A sample from a MAC that BSRC does not
select is no sample of this GTU; a REFERENCE or MASTER ignores it (R49). -/
def State.beaconSample (s : State) (src : Nat) (carried stamp : GTime) : State :=
  if src = 0 ∨ src ≠ s.rf F.GTU_BCN_CTRL_BSRC then s
  else
    let prop := s.nsToUnits (s.rf F.GTU_BCN_CTRL_PROP_NS)
    let d := toSigned 64 (carried + BitVec.ofNat 64 prop - stamp).toNat
    let s := (s.setRegN R.GTU_BCN_LAST (ofSigned 32 d)).countSample
    let s := s.wf F.GTU_STAT_BCN_VALID 1
    if s.rf F.GTU_CTRL_ROLE = 0 then s.memberSample d else s

/-- BEACON_SAMPLE (R47): MAC `src` (1 S, 2 M, 3 H) delivers the grid time a beacon carried and this node's stamp. -/
def execBeaconSample (src : Fin 4) (carried stamp : GTime) (s : State) : Host.Outcome State Fault Refusal :=
  .next (s.beaconSample src.val carried stamp)

/-! ## Commands (R49, R54, R67, R68) -/

/-- The rejection of a GTU command (R67). -/
def State.gtuReject (s : State) : State := s.refuse R.GTU_ERR St.STATE 9
/-- A GTU command completes with OK. -/
def State.gtuOk (s : State) : State := s.okSet R.GTU_ERR St.OK

/-- Command SEED (R49). -/
def State.gtuSeed (s : State) : State :=
  if s.gtuState = FREE ∨ s.gtuState = LOCAL then
    (s.alignStep (toSigned 64 (s.reg64 R.GTU_SEED_LO R.GTU_SEED_HI)) false).gtuOk
  else s.gtuReject

/-- Command RELEARN (R67): sampling starts again, in LOCAL and ALIGNED. -/
def State.gtuRelearn (s : State) : State :=
  if s.gtuState = LOCAL ∨ s.gtuState = ALIGNED then
    { s with gtu := { s.gtu with samples := [], relearn := s.gtuState == ALIGNED } }.gtuOk
  else s.gtuReject

/-- Command HOLD (R54, R67): a holdover until RESUME, from ALIGNED only. -/
def State.gtuHold (s : State) : State :=
  if s.gtuState = ALIGNED then
    let s := s.enterHoldover true
    ((s.wf F.GTU_HOLD_ERR_EST s.holdErr).gtuEnd [1]).gtuOk
  else s.gtuReject

/-- Command RESUME (R54, R67): R53 at once when the return condition is met; else the holdover goes on as one entered by
mains loss. -/
def State.gtuResume (s : State) : State :=
  if s.gtuState = HOLDOVER ∧ s.gtu.holdCmd = true then
    if s.returnMet then s.mainsReturn.gtuOk
    else { s with gtu := { s.gtu with holdCmd := false, pred := none } }.gtuOk
  else s.gtuReject

/-- Command FREE (R68): OK without action in FREE; else every armed channel is aborted and the GTU returns to FREE. -/
def State.gtuFree (s : State) : State :=
  if s.gtuState = FREE then s.gtuOk
  else
    let armed := s.anyArmed
    (((s.gcAbort (gcList 64)).gtuEnter FREE).gtuEnd (if armed then [1, 8] else [1])).gtuOk

/-- A write to GTU_CMD (R67): another code is outside the stated range. -/
def State.gtuCmd (s : State) (opc : Nat) : State :=
  if opc = 1 then s.gtuSeed else if opc = 2 then s.gtuRelearn else if opc = 3 then s.gtuHold
  else if opc = 4 then s.gtuResume else if opc = 5 then s.gtuFree
  else s.refuse R.GTU_ERR St.RANGE 9

/-- SEED (R49). -/
def execSeed (i : Init) (s : State) : Host.Outcome State Fault Refusal := .next (s.onWrite i R.GTU_CMD State.gtuSeed)
/-- RELEARN (R67). -/
def execRelearn (i : Init) (s : State) : Host.Outcome State Fault Refusal := .next (s.onWrite i R.GTU_CMD State.gtuRelearn)
/-- HOLD (R54). -/
def execHold (i : Init) (s : State) : Host.Outcome State Fault Refusal := .next (s.onWrite i R.GTU_CMD State.gtuHold)
/-- RESUME (R54). -/
def execResume (i : Init) (s : State) : Host.Outcome State Fault Refusal := .next (s.onWrite i R.GTU_CMD State.gtuResume)
/-- GTU_FREE (R68). -/
def execGtuFree (i : Init) (s : State) : Host.Outcome State Fault Refusal := .next (s.onWrite i R.GTU_CMD State.gtuFree)

/-! ## Pairs of grid time and PTP time (R50) -/

/-- The rate error in ppb that two consecutive pairs show: GTF ticks against PTP nanoseconds. -/
def State.pairRatio (s : State) (g0 g1 : GTime) (n0 n1 : Nat) : Int :=
  let inc := s.regN R.GTU_INC
  let dn := n1 - n0
  let num : Int := ((g1 - g0).toNat * 2 ^ 28 : Nat) - (dn * inc : Nat)
  let q := divOpen (num.natAbs * 10 ^ 9) (dn * inc)
  if num < 0 then -(q : Int) else q

/-- The grid time that the earlier pair predicts for a PTP time, against the committed one, is within GTU_BCN_TOL. -/
def State.pairAgrees (s : State) (g0 g1 : GTime) (n0 n1 : Nat) : Bool :=
  let exp := (n1 - n0) * s.regN R.GTU_FREQ * 2 ^ 24
  decide ((g1 - g0).toNat * 10 ^ 15 ≤ exp + s.regN R.GTU_BCN_TOL * 10 ^ 15 ∧
    exp ≤ (g1 - g0).toNat * 10 ^ 15 + s.regN R.GTU_BCN_TOL * 10 ^ 15)

/-- A commit of the pair in the GTU_PMAP registers (R50). In HOLDOVER a REFERENCE or MASTER is disciplined by it (R52). -/
def State.pmapCommit (s : State) : State :=
  let g := BitVec.ofNat 64 (s.reg64 R.GTU_PMAP_GT_LO R.GTU_PMAP_GT_HI)
  let n := s.reg64 R.GTU_PMAP_NS_LO R.GTU_PMAP_NS_HI
  let old := s.gtu.pair
  let s := { s with gtu := { s.gtu with pair := some (g, n) } }
  let s := match old with
    | none => s
    | some (g0, n0) =>
      let s := if n0 < n then s.setRegN R.GTU_PMAP_RATIO (ofSigned 32 (s.pairRatio g0 g n0 n)) else s
      { s with gtu := { s.gtu with agreeAt := if s.pairAgrees g0 g n0 n then some s.gt else s.gtu.agreeAt } }
  let s := s.wf F.GTU_STAT_PMAP_VALID 1
  let s := s.setRegN R.GTU_FREQ (divOpen s.freqNum freqDen)
  if s.gtuState = HOLDOVER ∧ s.rf F.GTU_CTRL_ROLE ≠ 0 then
    let b := incBounds s.nom60
    let s := (s.setInc (max b.1 (min s.free b.2))).used
    let s := { s with gtu := { s.gtu with disc := some (s.gt, (s.gtu.disc.getD (s.gt, 0)).2) } }
    (s.wf F.GTU_HOLD_ERR_EST s.holdErr).gtuEnd []
  else s.gtuEnd []

/-- PMAP_COMMIT (R50). -/
def execPmapCommit (i : Init) (s : State) : Host.Outcome State Fault Refusal :=
  .next (s.onWrite i R.GTU_PMAP_CTRL State.pmapCommit)

/-- PMAP_EXPIRE (R50): no pair is younger than 10 s. -/
def execPmapExpire (s : State) : Host.Outcome State Fault Refusal :=
  let s := s.wf F.GTU_STAT_PMAP_VALID 0
  .next ((s.setRegN R.GTU_FREQ (divOpen s.freqNum freqDen)).gtuEnd [])

/-- BCN_VALID_EXPIRE (R67): no beacon sample is younger than 10 s. -/
def execBcnValidExpire (s : State) : Host.Outcome State Fault Refusal :=
  .next (s.wf F.GTU_STAT_BCN_VALID 0)

/-! ## Registers of the GTU with an effect of their own -/

/-- A write to GTU_CTRL (R68): under R8, and a change of NOM loads the nominal increment (R40). -/
def State.gtuCtrlWrite (i : Nat) (v : Word) (s : State) : State :=
  let nom := s.nom60
  let s := s.writeReg i R.GTU_CTRL v
  if s.nom60 != nom then (s.setInc (nominalInc s.nom60)).gtuEnd [] else s

/-- GTU_CTRL_WRITE (R68). -/
def execGtuCtrlWrite (i : Init) (v : Word) (s : State) : Host.Outcome State Fault Refusal :=
  .next (s.onWrite i R.GTU_CTRL (State.gtuCtrlWrite i.val v))

/-- A read of GTU_NOW_LO: the low word, and the high word into this initiator's latch (R55). -/
def State.gtuNowRead (i : Init) (s : State) : State :=
  { s with gtu := { s.gtu with nowHi := Sparse.put (fun _ => 0) s.gtu.nowHi i.val (s.gt.extractLsb' 32 32) } }.answer i
    (s.gt.extractLsb' 0 32)

/-- GTU_NOW_READ (R55). -/
def execGtuNowRead (i : Init) (s : State) : Host.Outcome State Fault Refusal :=
  .next (s.onRead i R.GTU_NOW_LO (State.gtuNowRead i))

/-- A read of GTU_XLAST_LO: the low word of the last crossing, and the high word into GTU_XLAST_HI (R67). -/
def State.xlastRead (i : Init) (s : State) : State :=
  (s.setReg R.GTU_XLAST_HI (s.gtu.xlast.extractLsb' 32 32)).answer i (s.gtu.xlast.extractLsb' 0 32)

/-- XLAST_READ (R67). -/
def execXlastRead (i : Init) (s : State) : Host.Outcome State Fault Refusal :=
  .next (s.onRead i R.GTU_XLAST_LO (State.xlastRead i))

/-- One replica at a broadcast: behind, it adds the difference at once; ahead, it holds its value (R56). -/
def replicaStep (now : Nat) (r : Sparse Nat) : List Nat → Sparse Nat
  | [] => r
  | k :: ks => replicaStep now (Sparse.putN r k (max (Sparse.getN r k) now)) ks

/-- The fifteen replicas (R34). -/
def replicas : List Nat := [0, 1, 2, 3, 4, 5, 6, 7, 8, 9, 10, 11, 12, 13, 14]

/-- REPLICA_BROADCAST (R56). -/
def execReplicaBroadcast (s : State) : Host.Outcome State Fault Refusal :=
  .next { s with gtu := { s.gtu with
    replica := replicaStep s.gtN s.gtu.replica replicas, replicaInc := s.regN R.GTU_INC } }

/-- One GTF tick: the accumulator adds GTU_INC (text above R40). -/
def State.tick (s : State) : State :=
  { s with gtu := { s.gtu with acc := s.gtu.acc + BitVec.ofNat 92 (s.regN R.GTU_INC), ticks := s.gtu.ticks + 1 } }

end Sys2Proof.Machine
end

