-- ==== Sys2Proof/Machine/FieldUp.lean ====
section
/-! DEFINITION. The upstream role of MAC S (R233, R240, R245 to R249): beacons of a parent, the ranked parent table, the
hold, the long listen. -/

namespace Sys2Proof.Machine

/-! ## The ranked parent table (R248, R249) -/

/-- TOTAL of an entry (R248). -/
def State.ptabTotal (s : State) (cost rr : Nat) : Nat :=
  min 0xFFFF (cost + (16 * 256 + rr) / (rr + 1) + s.rf F.FMAC_PATH_HOPPEN)

/-- Recompute TOTAL and CUR of entry `j`: CUR marks the present parent. -/
def State.ptabKeep (s : State) (j : Nat) : State :=
  let s := s.wf (F.FMAC_PTAB_W3_TOTAL j) (s.ptabTotal (s.rf (F.FMAC_PTAB_W2_PCOST j)) (s.rf (F.FMAC_PTAB_W2_RR j)))
  s.wb (F.FMAC_PTAB_W0_CUR j) (s.rb F.FMAC_STAT_UP && s.rb (F.FMAC_PTAB_W0_VALID j) &&
    s.rf (F.FMAC_PTAB_W0_SADDR j) == s.rf F.FMAC_UP_PARENT_SADDR && s.rf (F.FMAC_PTAB_W1_NETID j) == s.rf F.FMAC_UP_PARENT_NETID)

/-- The entry numbers. -/
def ptabs : List Nat := List.range 8
/-- Recompute every entry. -/
def State.ptabKeepAll (s : State) : State := ptabs.foldl (fun s j => s.ptabKeep j) s

/-- RR after a listened beacon (R248). -/
def State.rrStep (s : State) (j : Nat) (hit : Bool) : State :=
  let rr : Int := s.rf (F.FMAC_PTAB_W2_RR j)
  let t := rr + divOpenInt ((if hit then 255 else 0) - rr) 8
  (s.wf (F.FMAC_PTAB_W2_RR j) t.toNat).ptabKeep j

/-- What a received beacon carries (R226). -/
structure FieldBeacon where
  net : Nat
  src : Nat
  chan : Nat
  rssi : Nat
  state : Nat
  qual : Nat
  depth : Nat
  n1 : Nat
  rdepth : Nat
  gt : GTime
  cost : Nat
  dig : BitVec 64
  gen : BitVec 32
  bslot : Nat

/-- Write a beacon into entry `j`. -/
def State.ptabFill (s : State) (j : Nat) (b : FieldBeacon) : State :=
  let s := ((s.wb (F.FMAC_PTAB_W0_VALID j) true).wf (F.FMAC_PTAB_W0_RDEPTH j) b.rdepth).wf (F.FMAC_PTAB_W0_TDEPTH j) b.depth
  let s := ((s.wf (F.FMAC_PTAB_W0_SADDR j) b.src).wf (F.FMAC_PTAB_W1_NETID j) b.net).wf (F.FMAC_PTAB_W1_CHAN j) b.chan
  let s := (s.wf (F.FMAC_PTAB_W2_PCOST j) b.cost).wf (F.FMAC_PTAB_W2_RSSI j) b.rssi
  ((s.wf (F.FMAC_PTAB_W3_N1 j) b.n1).wf (F.FMAC_PTAB_W3_BSLOT j) b.bslot).ptabKeep j

/-- The entry with the highest TOTAL that is not CUR, ties to the higher index. -/
def State.ptabWorst (s : State) : Option Nat :=
  ptabs.foldl (fun w j =>
    if s.rb (F.FMAC_PTAB_W0_CUR j) then w
    else
      match w with
      | none => some j
      | some k => if s.rf (F.FMAC_PTAB_W3_TOTAL k) ≤ s.rf (F.FMAC_PTAB_W3_TOTAL j) then some j else w) none

/-- PTAB_UPDATE (R249): a valid beacon with the node's own NETID. -/
def State.ptabUpdate (s : State) (b : FieldBeacon) : State :=
  match ptabs.find? (fun j => s.rb (F.FMAC_PTAB_W0_VALID j) && s.rf (F.FMAC_PTAB_W0_SADDR j) == b.src &&
      s.rf (F.FMAC_PTAB_W1_CHAN j) == b.chan) with
  | some j => (s.ptabFill j b).rrStep j true
  | none =>
    match ptabs.find? (fun j => !s.rb (F.FMAC_PTAB_W0_VALID j)) with
    | some j => (s.wf (F.FMAC_PTAB_W2_RR j) 128).ptabFill j b
    | none =>
      match s.ptabWorst with
      | none => s
      | some j =>
        if s.ptabTotal b.cost 128 < s.rf (F.FMAC_PTAB_W3_TOTAL j) then (s.wf (F.FMAC_PTAB_W2_RR j) 128).ptabFill j b else s

/-- PTAB_AGE_EXPIRE (R249). -/
def execPtabAgeExpire (j : Fin 8) (s : State) : Host.Outcome State Fault Refusal :=
  if s.rb (F.FMAC_PTAB_W0_CUR j.val) then .next s else .next (s.wb (F.FMAC_PTAB_W0_VALID j.val) false)

/-- The word `k` of entry `j`. -/
def ptabReg (j k : Nat) : Nat := R.FMAC_PTAB_W0 j + 4 * k

/-- A write to the table by firmware (R249): the entry marked CUR is not written (DESIGN CHOICE: STATE). -/
def State.ptabWrite (i j k : Nat) (v : Word) (s : State) : State :=
  if s.rb (F.FMAC_PTAB_W0_CUR j) then s.refuse R.FMAC_ERR St.STATE 72
  else if s.writeRefused i (ptabReg j k) v then s.writeReg i (ptabReg j k) v
  else (s.writeReg i (ptabReg j k) v).ptabKeep j

/-- PTAB_WRITE (R249). -/
def execPtabWrite (i : Init) (j : Fin 8) (k : Fin 4) (v : Word) (s : State) : Host.Outcome State Fault Refusal :=
  .next (s.onWrite i (ptabReg j.val k.val) (State.ptabWrite i.val j.val k.val v))

/-! ## Drift of the upstream parent (FMAC_UP_DRIFT) -/

/-- N of the parent's superframe, and the start of its beacon in superframe `k` (R228). -/
def State.upN (s : State) : Nat := s.rf F.FMAC_UP_SF_N1 + 1
def State.upBeacon (s : State) (k : Nat) : Nat := (k * s.upN * 16 + s.rf F.FMAC_UP_SF_BSLOT) * 2 ^ 20

/-- The drift toward the parent is learned from its beacons as R207 learns a client's. DEDUCED. -/
def State.upLearn (s : State) (stamp : GTime) : State :=
  let k := stamp.toNat / 2 ^ 24 / s.upN
  let next := s.upBeacon k
  let sh := if 0 < s.fld.upFast then s.rf F.STP_DRIFT_SHIFTF else s.rf F.STP_DRIFT_SHIFT
  let dt := (stamp - s.fld.upAnchor).toNat
  let w : Int := (stamp.toNat : Int) - next
  let r := if dt = 0 then (toSigned 32 s.free, s.used) else (divOpenInt ((w - s.fld.upPred) * 10 ^ 8) dt, s)
  let s := r.2
  let d := clampTo (-32768) 32767 (toSigned 16 (s.rf F.FMAC_UP_DRIFT_DRIFT) + r.1 / (2 ^ sh : Nat))
  let res : Int := s.rf F.FMAC_UP_DRIFT_RESID
  let e := clampTo 0 65535 (res + ((r.1.natAbs : Int) - res) / (2 ^ sh : Nat))
  let s := (s.wf F.FMAC_UP_DRIFT_DRIFT (ofSigned 16 d.1)).wf F.FMAC_UP_DRIFT_RESID e.1.toNat
  let ahead : Int := (s.upBeacon (k + s.rf F.FMAC_UP_CTRL_BLI) : Int) - stamp.toNat
  s.setFld (fun f => { f with upFast := f.upFast - 1, upAnchor := stamp, upPred := w + ppmOf d.1 ahead })

/-! ## Loss and recovery (R245 to R248) -/

/-- Enter an upstream state. -/
def State.upEnter (s : State) (st : Nat) : State := s.wf F.FMAC_STAT_USTATE st

/-- A valid frame from the parent (R245, R248): it clears MISSB; during the hold or the long listen it re-acquires. -/
def State.upHeard (s : State) (stamp : GTime) : State :=
  if !s.rb F.FMAC_STAT_UP then s
  else
    let st := s.ustate
    let s := s.setFld (fun f => { f with missb := 0, upLast := stamp })
    if st = Fm.HOLD ∨ st = Fm.LISTEN then
      (((s.setFld (fun f => { f with upFast := 8 })).upEnter Fm.TRACK).wb F.FMAC_STAT_LL false).raise 77
    else if st = Fm.WIDEN then s.upEnter Fm.TRACK else s

/-- A valid beacon (R226, R229, R245, R249, R470). -/
def State.fieldBeacon (s : State) (b : FieldBeacon) (stamp : GTime) : State :=
  let parent := b.src == s.rf F.FMAC_UP_PARENT_SADDR && b.net == s.rf F.FMAC_UP_PARENT_NETID
  let s := if parent && decide (2 ≤ b.state ∧ b.state ≤ 4 ∧ b.qual ≤ 2) then s.beaconSample 1 b.gt stamp else s
  let s := if s.rb F.FMAC_STAT_UP && b.net == s.rf F.FMAC_NETID_ID then s.ptabUpdate b else s
  if parent then
    let s := s.setFld (fun f => { f with depth := b.depth })
    if s.rb F.FMAC_STAT_UP then
      let s := (s.upHeard stamp).setFld (fun f => { f with bcnHeard := true })
      let eui := s.reg64 R.FMAC_UP_EUI_LO R.FMAC_UP_EUI_HI
      (s.upLearn stamp).nbrReport ⟨BitVec.ofNat 64 eui, 3, b.gen, b.dig⟩
    else s
  else s

/-- The entry of the present parent. -/
def State.ptabCur (s : State) : Option Nat := ptabs.find? (fun j => s.rb (F.FMAC_PTAB_W0_CUR j))

/-- Beacon windows are opened in TRACK, WIDEN and HOLD (R244, R246). -/
def State.upWindows (s : State) : Bool :=
  s.rb F.FMAC_STAT_UP && (s.ustate == Fm.TRACK || s.ustate == Fm.WIDEN || s.ustate == Fm.HOLD)

/-- A beacon window missed (R245, R246). -/
def State.upMiss (s : State) : State :=
  let st := s.ustate
  let third := s.fld.missb + 1 == 3
  let s := s.setFld (fun f => { f with missb := f.missb + 1 })
  let s := (s.bump R.FMAC_CNT_UPMISSB).raise 75
  let s := match s.ptabCur with
    | some j => s.rrStep j false
    | none => s
  let s := if st = Fm.TRACK then s.upEnter Fm.WIDEN else s
  if third then ((s.upEnter Fm.HOLD).bump R.FMAC_CNT_UPSILENT).raise 75 else s

/-- UP_BEACON_LISTEN_END (R245, R246): a beacon window closes; without a valid beacon it is a miss, and the third consecutive
miss begins the hold. -/
def execUpBeaconListenEnd (s : State) : Host.Outcome State Fault Refusal :=
  if s.upWindows = false then .next s
  else if s.fld.bcnHeard then .next (s.setFld (fun f => { f with bcnHeard := false }))
  else .next s.upMiss

/-- A long listen begins (R247). -/
def State.longListen (s : State) : State :=
  (((s.upEnter Fm.LISTEN).wb F.FMAC_STAT_LL true).bump R.FMAC_CNT_UPLISTEN).raise 75

/-- UP_HOLD_END (R247). -/
def execUpHoldEnd (s : State) : Host.Outcome State Fault Refusal :=
  if s.rb F.FMAC_STAT_UP ∧ s.ustate = Fm.HOLD then .next s.longListen else .next s

/-- LONG_LISTEN_RETRY (R248). -/
def execLongListenRetry (s : State) : Host.Outcome State Fault Refusal :=
  if s.rb F.FMAC_STAT_UP ∧ s.ustate = Fm.SEARCH then .next s.longListen else .next s

/-- An entry that may be chosen (R248): those not heard for AGE seconds have lost VALID. -/
def State.ptabQualifies (s : State) (j : Nat) : Bool :=
  s.rb (F.FMAC_PTAB_W0_VALID j) && !s.rb (F.FMAC_PTAB_W0_CUR j) &&
    s.rf (F.FMAC_PTAB_W1_NETID j) == s.rf F.FMAC_NETID_ID &&
    decide (toSigned 8 (s.rf F.FMAC_UP_MISC_RSSIMIN) ≤ toSigned 8 (s.rf (F.FMAC_PTAB_W2_RSSI j))) &&
    decide (s.rf (F.FMAC_PTAB_W0_RDEPTH j) < s.rf F.FMAC_PATH_MAXDEPTH)

/-- Entry `a` ranks before entry `b`: lower total, then lower relay depth, then higher RSSI. -/
def State.ptabBefore (s : State) (a b : Nat) : Bool :=
  let ta := s.rf (F.FMAC_PTAB_W3_TOTAL a)
  let tb := s.rf (F.FMAC_PTAB_W3_TOTAL b)
  let da := s.rf (F.FMAC_PTAB_W0_RDEPTH a)
  let db := s.rf (F.FMAC_PTAB_W0_RDEPTH b)
  decide (ta < tb ∨ (ta = tb ∧ (da < db ∨
    (da = db ∧ toSigned 8 (s.rf (F.FMAC_PTAB_W2_RSSI b)) < toSigned 8 (s.rf (F.FMAC_PTAB_W2_RSSI a))))))

/-- The best candidate, ties to the lower index. -/
def State.ptabBest (s : State) : Option Nat :=
  (ptabs.filter (fun j => s.ptabQualifies j)).foldl (fun w j =>
    match w with
    | none => some j
    | some k => if s.ptabBefore j k then some j else w) none

/-- LONG_LISTEN_END (R248): without the parent, the best candidate is selected, or the search begins. -/
def execLongListenEnd (s : State) : Host.Outcome State Fault Refusal :=
  if !s.rb F.FMAC_STAT_UP ∨ s.ustate ≠ Fm.LISTEN then .next s
  else
    let s := s.wb F.FMAC_STAT_LL false
    match s.ptabBest with
    | some j =>
      let s := (s.wb F.FMAC_UP_SEL_VALID true).wf F.FMAC_UP_SEL_ENTRY j
      .next (((s.upEnter Fm.SELECTED).bump R.FMAC_CNT_UPSELECT).raise 75)
    | none => .next ((s.upEnter Fm.SEARCH).raise 75)

/-- The PSDU of a POLL, or of a DATA, toward the parent, protected with a key (R224, R225, R233). -/
def State.upPsdu (s : State) (key : List Byte) (queued : BitVec 8) (status : BitVec 7) (data : Option (List (BitVec 8)))
    (enc : Bool) : List Byte :=
  let pay : List Byte := match data with
    | none => [queued, status.zeroExtend 8]
    | some d => d
  let fc := fcOf (if data.isSome then 1 else 3) true false true false
  let level := if enc then 6 else 2
  let head := fieldHdr fc s.fld.seq (s.rf F.FMAC_UP_PARENT_NETID) (s.rf F.FMAC_UP_PARENT_SADDR) (s.rf F.FMAC_SADDR_A) ++
    fieldSec 0 level s.fld.upCnt
  fieldFcs (fieldSeal key (euiOf (s.reg R.FMAC_EUI_LO) (s.reg R.FMAC_EUI_HI)) s.fld.upCnt level head pay)

/-- The node polls its parent (R233): the upstream role runs with a valid assignment and no long listen. -/
def State.upPolls (s : State) : Bool :=
  s.rb F.FMAC_STAT_UP && s.rb F.FMAC_UP_ASSIGN_VALID && s.ustate != Fm.LISTEN && decide (s.ustate < Fm.SELECTED)

/-- UPSTREAM_POLL (R233, R240): the node's own POLL, with TCA 0, or a DATA, toward its parent with AR = 1. Whether the frame
is encrypted, LEVEL 6 or 2, is not given for a POLL: `enc` says it. The dwell guard checks it as the parent role's frames. -/
def execUpstreamPoll (start : GTime) (queued : BitVec 8) (status : BitVec 7) (data : Option (List (BitVec 8))) (enc : Bool)
    (s : State) : Host.Outcome State Fault Refusal :=
  if !s.upPolls then .next s
  else
    let modeb := s.rf F.FMAC_UP_MODE_POLL
    match s.fieldSnap (s.rf F.FMAC_UP_KEY_SLOT) Usage.ENC with
    | none => .next ((s.bump R.FMAC_CNT_NOKEY).raise 78)
    | some k =>
      let psdu := s.upPsdu k.key queued status data enc
      if !s.radioTakes (s.rf F.FMAC_UP_CTRL_REC) then .next s.radioRejected
      else
        match s.dwell (fieldAirNs modeb psdu.length) false with
        | none => .next s.dwellRefused
        | some s =>
          let q := s.fld.seq
          let s := s.setFld (fun f => { f with seq := q + 1, upCnt := f.upCnt + 1, upAwait := some q })
          .next (s.fieldSend psdu q modeb start.toNat)

end Sys2Proof.Machine
end

