-- ==== Sys2Proof/Machine/StpPlan.lean ====
section
/-! DEFINITION. Steppe's decisions (R198 to R203): candidates, single-user plans, OFDMA and MU-MIMO groups, RU tables. -/

namespace Sys2Proof.Machine

/-- The access category of a TID: 0 BK, 1 BE, 2 VI, 3 VO, in rising order (R183, as IEEE 802.11 maps them). -/
def acOf (tid : Nat) : Nat := if tid = 1 ∨ tid = 2 then 0 else if tid = 0 ∨ tid = 3 then 1 else if tid ≤ 5 then 2 else 3

/-! ## Candidates (R200) -/

/-- The staged MPDUs of a client on a link in an AC or a higher one, oldest first. -/
def State.staged (s : State) (k ac i : Nat) : List Mpdu :=
  s.mpdus.filter (fun m => m.radio == k && m.client == i && decide (ac ≤ acOf m.tid) && m.stored && !m.busy)

/-- Units of MPDUs. -/
def unitsSum (l : List Mpdu) : Nat := l.foldl (fun n m => n + m.units) 0

/-- Uplink backlog of a client in an AC and higher ones. -/
def State.uplink (s : State) (ac i : Nat) : Nat :=
  (if ac = 0 then s.cr i 54 31 16 else 0) + (if ac ≤ 1 then s.cr i 54 15 0 else 0) +
    (if ac ≤ 2 then s.cr i 55 15 0 else 0) + s.cr i 55 31 16

/-- A record is a candidate of a link and AC. -/
def State.qualifies (s : State) (k ac i : Nat) : Bool :=
  s.recKind i == 1 && s.linkUp i k && (s.recState i == Cl.AWAKE || s.recState i == Cl.SP || s.recState i == Cl.WIDEN) &&
    (!(s.staged k ac i).isEmpty || s.uplink ac i != 0)

/-- A client in its service period that has not been served in it. -/
def State.unserved (s : State) (i : Nat) : Bool :=
  s.recState i == Cl.SP && Sparse.getO s.stp.served i != some (s.recGt i 36)

/-- Insert into a list kept in an order. -/
def insertBy (lt : Nat → Nat → Bool) (x : Nat) : List Nat → List Nat
  | [] => [x]
  | y :: ys => if lt x y then x :: y :: ys else y :: insertBy lt x ys

/-- Sort by an order; equal elements keep their order. -/
def sortBy (lt : Nat → Nat → Bool) (l : List Nat) : List Nat := l.foldl (fun a x => insertBy lt x a) []

/-- At most 64 candidates, in the order of R200. -/
def State.candidates (s : State) (k ac : Nat) : List Nat :=
  let l := s.stp.recs.filter (fun i => decide (i < 2048) && s.qualifies k ac i)
  let first := sortBy (fun a b => decide ((s.recGt a 36).toNat < (s.recGt b 36).toNat)) (l.filter s.unserved)
  let rest := sortBy (fun a b => serialLt (s.cr a 40 31 0) (s.cr b 40 31 0)) (l.filter (fun i => !s.unserved i))
  (first ++ rest).take 64

/-! ## What a user needs -/

/-- Bytes of MPDUs in an A-MPDU: each with its delimiter, padded to 4. -/
def ampduBytes (l : List Mpdu) : Nat := l.foldl (fun n m => n + 4 + (m.len + 3) / 4 * 4) 0

/-- A client's rate on link k in a width, as a fraction of 0.1 Mbit/s. -/
def State.clientRate (s : State) (i k bw : Nat) : Nat × Nat :=
  let w := 16 + 4 * k
  phyRate bw (s.cr i w 31 28) (s.cr i w 27 24 + 1) (s.cr i w 19 18)

/-- Airtime of some bytes on `part` of `whole` tones, µs. -/
def airtimeUs (rate : Nat × Nat) (bytes part whole : Nat) : Nat :=
  divOpen (bytes * 80 * rate.2 * whole) (max 1 (rate.1 * part))

/-- The longest prefix of MPDUs that fits in some bytes. -/
def fitBytes (cap : Nat) : List Mpdu → List Mpdu
  | [] => []
  | m :: ms => if ampduBytes [m] ≤ cap then m :: fitBytes (cap - ampduBytes [m]) ms else []

/-- Bytes that fit in a time. -/
def bytesIn (rate : Nat × Nat) (us part whole : Nat) : Nat := us * rate.1 * part / max 1 (80 * rate.2 * whole)

/-! ## Allocation (R201) -/

/-- A user's place in a plan. -/
structure RuUse where
  client : Nat
  size : Nat
  index : Nat
  mask : Nat
  ss0 : Nat

/-- Users with the size their share gives, largest first. -/
def shareSizes (bw tones : Nat) (l : List (Nat × Nat)) : List (Nat × Nat) :=
  let sum := l.foldl (fun n x => n + x.2) 0
  let z := l.map (fun x => (x.1, sizeFor bw (tones * x.2 / max 1 sum)))
  sizesDown.flatMap (fun c => z.filter (fun x => x.2 == c))

/-- Place users at the lowest free positions; a user that cannot be placed is dropped. -/
def placeAll (bw : Nat) : Nat → List (Nat × Nat) → List RuUse × Nat
  | free, [] => ([], free)
  | free, (i, z) :: t =>
    match placeRu bw z free with
    | some (k, m) => let r := placeAll bw (free ^^^ m) t; (⟨i, z, k, m, 0⟩ :: r.1, r.2)
    | none => placeAll bw free t

/-- Widen a user's RU to the next larger RU or MRU that holds it and fits in the free space. -/
def widen (bw : Nat) (u : RuUse) (free : Nat) : RuUse × Nat :=
  let up := sizesUp.filter (fun z => decide (ruTones u.size < ruTones z))
  let opt := up.filterMap (fun z =>
    let l := ruList bw z
    ((List.range l.length).find? (fun k => l.getD k 0 &&& u.mask == u.mask && l.getD k 0 &&& (free ||| u.mask) == l.getD k 0)).map
      (fun k => (z, k, l.getD k 0)))
  match opt with
  | [] => (u, free)
  | (z, k, m) :: _ => ({ u with size := z, index := k, mask := m }, (free ||| u.mask) ^^^ m)

/-- Left-over tones go to the users that were placed last. -/
def widenAll (bw : Nat) (free : Nat) : List RuUse → List RuUse × Nat
  | [] => ([], free)
  | u :: us =>
    let r := widenAll bw free us
    let w := widen bw u r.2
    (w.1 :: r.1, w.2)

/-- OFDMA: users with their demands (bytes over the per-tone rate) to RUs. -/
def ofdma (bw punct : Nat) (l : List (Nat × Nat)) : List RuUse :=
  let r := placeAll bw (usableMask bw punct) (shareSizes bw (usableTones bw punct) l)
  (widenAll bw r.2 r.1).1

/-- A user's demand. -/
def State.demand (s : State) (k bw ac : Nat) (ul : Bool) (i : Nat) : Nat :=
  let r := s.clientRate i k bw
  let bytes := if ul then s.uplink ac i * 256 else ampduBytes (s.staged k ac i)
  divOpen (bytes * 2 ^ 32 * r.2) (max 1 r.1)

/-! ## MU-MIMO (R102, R166, R200) -/

/-- A user's feedback in the latest sounding set of a radio, not older than MAC_SNDAGE. -/
def State.sounded (s : State) (k i : Nat) : Bool :=
  s.wlan.snds.any (fun x => x.radio == k && x.client == i &&
    decide ((s.gt - x.since).toNat ≤ s.nsToUnits (s.rf (F.MAC_SNDAGE_MS (wradio k)) * 1000000)))

/-- Users and streams of one RU (R105). -/
def mimoMax (k : Nat) : Nat := if k = 0 then 4 else 8

/-- Users of a group, with their first stream, while users and streams fit. -/
def State.mimoGroup (s : State) (k size index mask : Nat) : Nat → Nat → List Nat → List RuUse
  | _, _, [] => []
  | n, ss, i :: is =>
    let nss := s.cr i (16 + 4 * k) 27 24 + 1
    if s.cr i 1 25 25 = 1 ∧ n < mimoMax k ∧ ss + nss ≤ mimoMax k then
      ⟨i, size, index, mask, ss⟩ :: s.mimoGroup k size index mask (n + 1) (ss + nss) is
    else s.mimoGroup k size index mask n ss is

/-- The full usable width as one RU. -/
def fullRu (bw punct : Nat) : Option (Nat × Nat × Nat) :=
  sizesDown.findSome? (fun z => (placeRu bw z (usableMask bw punct)).map (fun x => (z, x.1, x.2)))

/-! ## RU tables (R202) -/

/-- The words of one user's entry. -/
def State.ruEntry (s : State) (k : Nat) (u : RuUse) (ul : Bool) (ptr bytes : Nat) : List Word :=
  let w := 16 + 4 * k
  let open_ := s.free % 4
  [BitVec.ofNat 32 (u.size * 2 ^ 28 + (u.index + 1) * 2 ^ 20 + s.cr u.client w 27 24 * 2 ^ 16 +
      s.cr u.client w 31 28 * 2 ^ 12 + u.ss0 * 2 ^ 8 + open_ * 2 ^ 6),
   BitVec.ofNat 32 (s.cr u.client 0 11 0 * 2 ^ 16 + u.client),
   BitVec.ofNat 32 (if ul then s.used.free % 256 else ptr), BitVec.ofNat 32 bytes]

/-- The entries of a table. -/
def State.ruEntries (s : State) (k ac bw dur : Nat) (ul : Bool) : List RuUse → State × List Word
  | [] => (s, [])
  | u :: us =>
    let rate := s.clientRate u.client k bw
    let l := s.staged k ac u.client
    let fit := fitBytes (bytesIn rate dur (ruTones u.size) (usableTones bw 0)) l
    let ptr := rbBase k + 256 * (((fit.headD (l.headD ⟨0, 0, [], 0, 0, 0, 0, 0, 0, 0, 0, 0, false, false, []⟩)).cells).headD 0)
    let e := s.ruEntry k u ul ptr (if ul then s.uplink ac u.client * 256 else ampduBytes fit)
    let r := s.used.used.ruEntries k ac bw dur ul us
    (r.1, e ++ r.2)

/-- The time of a set of users: the longest user's need, capped by the limit. -/
def State.planDur (s : State) (k ac bw limit : Nat) (ul : Bool) (us : List RuUse) : Nat :=
  min limit (us.foldl (fun n u => max n (airtimeUs (s.clientRate u.client k bw)
    (if ul then s.uplink ac u.client * 256 else ampduBytes (s.staged k ac u.client)) (ruTones u.size) (usableTones bw 0))) 0)

/-- Record a plan and give it to the MAC. How long the decision took, at most 12 µs (R198), is a free value. -/
def State.givePlan (s : State) (k : Nat) (p : PlanSt) : State :=
  let s := s.setStp (fun t => { t with plans := Sparse.put (fun _ => none) t.plans k (some p) })
  let s := p.users.foldl (fun s i =>
    if s.recState i = Cl.SP then
      s.setStp (fun t => { t with served := Sparse.put (fun _ => none) t.served i (some (s.recGt i 36)) }) else s) s
  let s := s.emit (.plan k p.kind p.users p.table p.ac p.limit)
  let s := (s.setRegN R.STP_DECMAX (max (s.regN R.STP_DECMAX) (s.free % 12001))).used
  if p.kind = 0 then s
  else
    let s := s.bump R.STP_CNT_DEC
    if p.kind = 1 then s.bump R.STP_CNT_SU else if p.kind = 2 then s.bump R.STP_CNT_MU else s.bump R.STP_CNT_TRIG

/-- Write an RU table into the radio's transmit pool and give the plan; without credits for it the opportunity serves the
first user alone. Kinds: 2 DL MU PPDU, 3 Basic Trigger, 4 BSRP. -/
def State.tablePlan (s : State) (k ac bw limit kind : Nat) (us : List RuUse) (top : Nat) : State :=
  let ul := kind != 2
  let dur := s.planDur k ac bw limit ul us
  match s.takeRun k (unitsOf (8 + 16 * us.length)) false with
  | none => s.givePlan k ⟨1, [top], 0, ac, limit⟩
  | some (s, a) =>
    let e := s.ruEntries k ac bw dur ul us
    let h : List Word := [BitVec.ofNat 32 (us.length * 2 ^ 24 + (kind - 2) * 2 ^ 20 + bw * 2 ^ 16),
      BitVec.ofNat 32 (dur * 2 ^ 16 + s.free % 16)]
    let s := e.1.used.setWords a (h ++ e.2)
    s.givePlan k ⟨kind, us.map (·.client), a, ac, limit⟩

/-- A BSRP is due on a radio (R200). -/
def State.older (s : State) (g : Option GTime) (ms : Nat) : Bool :=
  match g with
  | none => true
  | some t => decide (s.nsToUnits (ms * 1000000) ≤ (s.gt - t).toNat)

/-- The plan of R200. -/
def State.plan (s : State) (k ac bw punct limit : Nat) : State :=
  let cands := s.candidates k ac
  let mu := s.ready Fn.WIFIMU
  match cands with
  | [] => s.givePlan k ⟨0, [], 0, ac, limit⟩
  | top :: _ =>
    let dl := cands.foldl (fun n i => n + unitsSum (s.staged k ac i)) 0
    let ul := cands.foldl (fun n i => n + s.uplink ac i) 0
    let ulUsers := (cands.filter (fun i => s.cr i 1 24 24 == 1)).take (s.rf F.STP_ULMAX_N)
    let ask (i : Nat) : Nat × Nat := (i, s.demand k bw ac true i)
    if mu ∧ s.rb F.STP_CTRL_ULEN ∧ s.rf F.STP_ULRATIO_R * dl ≤ ul * 16 ∧ ulUsers ≠ [] then
      let stale := ulUsers.filter (fun i => s.older (Sparse.getO s.stp.ulAt i) (s.rf F.STP_BSRPPER_MS))
      if stale ≠ [] ∧ s.older (Sparse.getO s.stp.bsrpAt k) (s.rf F.STP_BSRPPER_MS) then
        let us := ofdma bw punct (stale.map (fun i => (i, 1)))
        (s.setStp (fun t => { t with bsrpAt := Sparse.put (fun _ => none) t.bsrpAt k (some s.gt) })).tablePlan k ac bw limit 4 us top
      else s.tablePlan k ac bw limit 3 (ofdma bw punct (ulUsers.map ask)) top
    else
      let he (i : Nat) : Bool := s.cr i 1 26 26 == 1
      let long := s.rf F.STP_FILL_F * limit ≤
        256 * airtimeUs (s.clientRate top k bw) (ampduBytes (s.staged k ac top)) 1 1
      if !mu ∨ !he top ∨ long then s.givePlan k ⟨1, [top], 0, ac, limit⟩
      else
        let cap := if k = 0 then s.rf F.STP_MUMAX_L else if k = 1 then s.rf F.STP_MUMAX_M else s.rf F.STP_MUMAX_H
        let users := (cands.filter he).take cap
        let group := match fullRu bw punct with
          | some (z, n, m) => if users.all (s.sounded k) && s.rb F.STP_CTRL_MIMO then s.mimoGroup k z n m 0 0 users else []
          | none => []
        if group ≠ [] then s.tablePlan k ac bw limit 2 group top
        else s.tablePlan k ac bw limit 2 (ofdma bw punct (users.map (fun i => (i, s.demand k bw ac false i)))) top

/-- The RU table of a plan that is over returns its units. -/
def State.freeRun (s : State) (r a : Nat) : State :=
  match s.pkt.rbufs.find? (fun b => b.radio == r && b.addr == a) with
  | none => s
  | some b => (s.setPkt (fun p => { p with rbufs := p.rbufs.erase b })).txGive r b.units

/-- Forget the plan of a MAC. -/
def State.dropPlan (s : State) (k : Nat) : State :=
  match Sparse.getO s.stp.plans k with
  | none => s
  | some p =>
    let s := s.setStp (fun t => { t with plans := Sparse.put (fun _ => none) t.plans k none })
    if p.table = 0 then s else s.freeRun k p.table

/-- The duration limit: STP_PPDUMAX, or less where the TXOP limit or a Notch limit says so (R198). -/
def State.planLimit (s : State) (limit : Nat) : Nat := min (s.rf F.STP_PPDUMAX_US) limit

/-- The width code of a channel that a radio allows (R105). -/
def bwCap (r : WRadio) (bw : Nat) : Nat := min bw (RegMap.pick r.idx 1 3 4 4)

/-- PLAN_REQUEST (R198): outside RUN there are no decisions (R186). -/
def execPlanRequest (r : WRadio) (ac : Fin 4) (bw : Fin 5) (punct : BitVec 16) (limit : Nat) (s : State) :
    Host.Outcome State Fault Refusal :=
  if s.rf F.STP_STAT_STATE ≠ Stp.RUN then .next s
  else .next ((s.dropPlan r.idx).plan r.idx ac.val (bwCap r bw.val) punct.toNat (s.planLimit limit))

/-- SP_DECISION_START (R198): the client's service period is about to begin; it is served as one in SP. -/
def execSpDecisionStart (r : WRadio) (client : BitVec 12) (bw : Fin 5) (punct : BitVec 16) (limit : Nat) (s : State) :
    Host.Outcome State Fault Refusal :=
  let i := client.toNat
  let st := s.recState i
  if s.rf F.STP_STAT_STATE ≠ Stp.RUN ∨ s.recKind i ≠ 1 ∨ st = Cl.LISTEN ∨ st = Cl.LOST ∨ st = Cl.SUSP then .next s
  else
    let s := if st = Cl.WIDEN then s else s.setRecState i Cl.SP
    let s := s.keepLim i
    .next ((s.dropPlan r.idx).plan r.idx 0 (bwCap r bw.val) punct.toNat (s.planLimit limit))

/-- PLAN_DISCARD (R199). -/
def execPlanDiscard (r : WRadio) (s : State) : Host.Outcome State Fault Refusal := .next (s.dropPlan r.idx)

/-- DECISION_OVERRUN (R203): no plan, and the MAC sends SU EDCA to the first candidate. -/
def execDecisionOverrun (r : WRadio) (ac : Fin 4) (limit : Nat) (s : State) : Host.Outcome State Fault Refusal :=
  if s.rf F.STP_STAT_STATE ≠ Stp.RUN then .next s
  else
    let k := r.idx
    let s := ((s.dropPlan k).refuse R.STP_ERR St.HW 87).bump R.STP_CNT_OVERRUN
    let s := s.emit (.plan k 0 [] 0 ac.val (s.planLimit limit))
    match s.candidates k ac.val with
    | [] => .next s
    | top :: _ =>
      let p : PlanSt := ⟨1, [top], 0, ac.val, s.planLimit limit⟩
      .next (s.setStp (fun t => { t with plans := Sparse.put (fun _ => none) t.plans k (some p) }))

end Sys2Proof.Machine
end

