-- ==== Sys2Proof/Machine/Mac.lean ====
section
/-! DEFINITION. The Wi-Fi MACs' states and commands (R174 to R179): BSSs, links, block-ack agreements, TWT agreements, the
mesh; and the TSF (R146). -/

namespace Sys2Proof.Machine

/-! MAC states (R174). -/
namespace Ms
def OFF : Nat := 0
def IDLE : Nat := 1
def RUN : Nat := 2
def DRAIN : Nat := 3
end Ms

/-- A MAC at reset. -/
def MacSt.empty : MacSt := ⟨[], [], false, [], none, none, 0⟩

/-- The state of a MAC. -/
def State.mac (s : State) (r : WRadio) : MacSt := Sparse.get (fun _ => MacSt.empty) s.wlan.macs r.idx
/-- Change it. -/
def State.setMac (s : State) (r : WRadio) (f : MacSt → MacSt) : State :=
  { s with wlan := { s.wlan with macs := Sparse.put (fun _ => MacSt.empty) s.wlan.macs r.idx (f (s.mac r)) } }
/-- Change what the MACs share. -/
def State.setWlan (s : State) (f : WlanSt → WlanSt) : State := { s with wlan := f s.wlan }

/-- MAC_STAT.STATE. -/
def State.macState (s : State) (r : WRadio) : Nat := s.rf (F.MAC_STAT_STATE r)
/-- The MAC's event EVm+k (R180). -/
def mev (r : WRadio) (k : Nat) : Nat := macEv r.idx + k

/-! ## TSF (R146) -/

/-- The TSF now: one count per 1,000 GTF ticks. -/
def State.tsf (s : State) : Nat := s.gtu.ticks / 1000

/-- A quotient rounded to the nearest integer. -/
def roundDiv (num : Int) (den : Nat) : Int := (2 * num + den) / ((2 * den : Nat) : Int)

/-- The TSF of a grid time. -/
def State.tsfOf (s : State) (g : Nat) : Nat :=
  ((s.tsf : Int) + roundDiv (toSigned 64 (BitVec.ofNat 64 g - s.gt).toNat * 10 ^ 12) (2 ^ 24 * s.regN R.GTU_FREQ)).toNat

/-- A read of MAC_TSF_LO. -/
def State.tsfRead (i : Init) (r : WRadio) (s : State) : State :=
  let t := s.tsf
  let s := (s.setRegN (R.MAC_TSF_LO r) t).setRegN (R.MAC_TSF_HI r) (t / 2 ^ 32)
  let s := s.setReg64 (R.MAC_TSFGT_LO r) (R.MAC_TSFGT_HI r) s.gtN
  s.answer i (BitVec.ofNat 32 t)

/-- TSF_READ (R146). -/
def execTsfRead (i : Init) (r : WRadio) (s : State) : Host.Outcome State Fault Refusal :=
  .next (s.onRead i (R.MAC_TSF_LO r) (State.tsfRead i r))

/-! ## Push and results (R175, R179) -/

/-- Fields of a command. -/
def mcBss (w : List Word) : Nat := bits (w.getD 0 0) 15 12
def mcClient (w : List Word) : Nat := bits (w.getD 0 0) 11 0
def mcAid (w : List Word) : Nat := bits (w.getD 1 0) 27 16
def mcTid (w : List Word) : Nat := bits (w.getD 1 0) 11 8
def mcDir (w : List Word) : Bool := (w.getD 1 0).getLsbD 4
def mcSub (w : List Word) : Nat := bits (w.getD 1 0) 2 0

/-- The check of a push (R175). -/
def State.macCheck (s : State) (r : WRadio) (w : List Word) : Nat :=
  let opc := cmdOpc w
  let w1 := (w.getD 1 0).toNat
  let w2 := (w.getD 2 0).toNat
  let w3 := (w.getD 3 0).toNat
  let w1Ok :=
    if opc = 3 then w1 == mcAid w * 2 ^ 16 + mcSub w % 2 && decide (1 ≤ mcAid w ∧ mcAid w ≤ 2007)
    else if opc = 5 then w1 == mcTid w * 2 ^ 8 + (if mcDir w then 16 else 0) + mcSub w % 4 && decide (mcTid w ≤ 7)
    else if opc = 6 then w1 == mcTid w * 2 ^ 8 + (if mcDir w then 16 else 0) && decide (mcTid w ≤ 7)
    else if opc = 7 ∨ opc = 8 then w1 == mcSub w
    else w1 == 0
  let bssUsed := opc == 1 || opc == 2 || opc == 3 || opc == 4
  let cliUsed := decide (3 ≤ opc ∧ opc ≤ 8)
  if opc = 0 ∨ 0x0A < opc then St.TYPE
  else if !w1Ok ∨ (!bssUsed ∧ mcBss w ≠ 0) ∨ (!cliUsed ∧ mcClient w ≠ 0) ∨ 2048 ≤ mcClient w then St.RANGE
  else if (opc = 5 ∧ 4096 ≤ w2) ∨ (opc ≠ 5 ∧ w2 ≠ 0) ∨ (opc = 7 ∧ 8192 ≤ w3) ∨ (opc ≠ 7 ∧ w3 ≠ 0) then St.RANGE
  else if 16 ≤ (s.mac r).cmds.length then St.BUSY
  else St.OK

/-- A push of the staged command. -/
def State.macPush (r : WRadio) (v : Word) (s : State) : State :=
  if !v.getLsbD 0 then s
  else
    let w := [0, 1, 2, 3].map (fun k => s.reg (R.MAC_CMD_W r k))
    let code := s.macCheck r w
    if code = St.OK then s.setMac r (fun m => { m with cmds := m.cmds ++ [w] })
    else s.refuse (R.MAC_ERR r) code (mev r 0)

/-- MAC_CMD_PUSH (R175). -/
def execMacCmdPush (i : Init) (r : WRadio) (v : Word) (s : State) : Host.Outcome State Fault Refusal :=
  .next (s.onWrite i (R.MAC_CMD_PUSH r) (State.macPush r v))

/-- The command at the head completes (R177 to R179). -/
def State.macDone (s : State) (r : WRadio) (w : List Word) (status : Nat) : State :=
  let s := s.setMac r (fun m => { m with cmds := m.cmds.drop 1 })
  let s := if (s.mac r).results.length < 16 then
      s.setMac r (fun m => { m with results := m.results ++ [⟨cmdTag w, cmdOpc w, status, s.gt⟩] })
    else s.bump (R.MAC_CNT_RESOVF r)
  let s := if status = St.STATE then s.bump (R.MAC_CNT_STATE r) else s
  if status = St.OK then s else s.raise (mev r 0)

/-- Pop a result. -/
def State.macPop (i : Init) (r : WRadio) (s : State) : State :=
  match (s.mac r).results with
  | [] => s.answer i 0
  | x :: xs => (s.setMac r (fun m => { m with results := xs })).answer i
      (BitVec.ofNat 32 (2 ^ 31 + x.tag * 2 ^ 16 + x.opc * 2 ^ 8 + x.status))

/-- MAC_RESULT_POP (R179). -/
def execMacResultPop (i : Init) (r : WRadio) (s : State) : Host.Outcome State Fault Refusal :=
  .next (s.onRead i (R.MAC_RES r) (State.macPop i r))

/-- Run the head of a MAC's queue when it is command `opc`: the state table (R176: 0 rejected, 1 accepted, 2 accepted with
no action, for IDLE, RUN and DRAIN), then the command's own conditions and effect, with its status. -/
def State.macRun (s : State) (r : WRadio) (opc idle run drain : Nat) (f : State → List Word → State × Nat) : State :=
  match (s.mac r).cmds with
  | [] => s
  | w :: _ =>
    let st := s.macState r
    let a := if st = Ms.IDLE then idle else if st = Ms.RUN then run else drain
    if cmdOpc w ≠ opc then s
    else if st = Ms.OFF then s.macDone r w St.NOTREADY
    else if a = 0 then s.macDone r w St.STATE
    else if a = 2 then s.macDone r w St.OK
    else
      let x := f s w
      x.1.macDone r w x.2

/-! ## BSSs, the mesh and links -/

/-- The MAC enters a state. -/
def State.macEnter (s : State) (r : WRadio) (st : Nat) : State := s.wf (F.MAC_STAT_STATE r) st

/-- Something is active: a BSS or the mesh. -/
def State.macActive (s : State) (r : WRadio) : Bool := s.rf (F.MAC_STAT_BSSACT r) != 0 || (s.mac r).mesh
/-- A BSS is active. -/
def State.bssOn (s : State) (r : WRadio) (b : Nat) : Bool := s.rf (F.MAC_STAT_BSSACT r) / 2 ^ b % 2 == 1

/-- The links of a MAC. -/
def State.macLinks (s : State) (r : WRadio) : List MacLink := s.wlan.links.filter (fun l => l.radio == r.idx)
/-- The link of a client in a MAC. -/
def State.macLink (s : State) (r : WRadio) (c : Nat) : Option MacLink := (s.macLinks r).find? (fun l => l.client == c)

/-- MESHN follows the links. -/
def State.keepMesh (s : State) (r : WRadio) : State :=
  s.wf (F.MAC_STAT_MESHN r) ((s.macLinks r).filter (fun l => l.bss == 16)).length

/-- The key ID that marks an MPDU without protection. -/
def noKid : Nat := 2

/-- An MPDU is marked as released: it waits for its move to the packet buffer (R151). -/
def State.markReleased (s : State) (n : Nat) : State :=
  { s with rxmpdus := s.rxmpdus.map (fun (m : RxMpdu) => if m.num = n then { m with released := true } else m) }

/-- A received MPDU leaves reorder (R152): a PN not greater than the last accepted one of its TID discards it. -/
def State.rxRelease (s : State) (n : Nat) : State :=
  match s.rxmpdu n with
  | none => s
  | some m =>
    let k := 8 * m.client + m.tid
    if m.kid = noKid then s.markReleased n
    else if m.pn + 1 ≤ Sparse.getN s.wlan.lastPn k then
      ((s.dropRx n).bump (R.MAC_CNT_REPLAY (wradio m.radio))).raise (macEv m.radio + 2)
    else (s.setWlan (fun w => { w with lastPn := Sparse.putN w.lastPn k (m.pn + 1) })).markReleased n

/-- The SN distance of an MPDU from a context's next SN. -/
def snDist (next sn : Nat) : Nat := (sn + 4096 - next % 4096) % 4096

/-- The MPDUs that a context holds. -/
def State.held (s : State) (c t : Nat) : List RxMpdu :=
  s.rxmpdus.filter (fun m => m.client == c && m.tid == t && !m.released)

/-- Release held MPDUs in SN order from `next`, those at a distance below `n`. -/
def State.releaseBelow (s : State) (c t next : Nat) : Nat → State
  | 0 => s
  | n + 1 =>
    let s := s.releaseBelow c t next n
    match (s.held c t).find? (fun m => snDist next m.sn == n) with
    | some m => s.rxRelease m.num
    | none => s

/-- What the context of an agreement holds is released. -/
def State.flushHeld (s : State) (c t : Nat) : State :=
  match s.wlan.reorders.find? (fun o => o.client == c && o.tid == t) with
  | some o => s.releaseBelow c t o.next o.size
  | none => s

/-- The block-ack agreements of a client end, and what its contexts hold is released. -/
def State.dropBas (s : State) (c : Nat) : State :=
  let s := [0, 1, 2, 3, 4, 5, 6, 7].foldl (fun s t => s.flushHeld c t) s
  s.setWlan (fun w => { w with bas := w.bas.filter (fun b => b.client != c), reorders := w.reorders.filter (fun b => b.client != c) })

/-- A link is deleted: its TWT agreements go with it, and with the client's last link its block-ack agreements. -/
def State.linkDrop (s : State) (r : WRadio) (c : Nat) : State :=
  let s := s.setWlan (fun w => { w with
    links := w.links.filter (fun l => !(l.radio == r.idx && l.client == c))
    twts := w.twts.filter (fun t => !(t.radio == r.idx && t.client == c)) })
  let s := if s.wlan.links.any (fun l => l.client == c) then s else s.dropBas c
  s.keepMesh r

/-- Every link of a BSS, or of the mesh (16), is deleted. -/
def State.linksDrop (s : State) (r : WRadio) (b : Nat) : State :=
  ((s.macLinks r).filter (fun l => l.bss == b)).foldl (fun s l => s.linkDrop r l.client) s

/-- A stop that leaves nothing active moves the MAC to DRAIN (R176). -/
def State.afterStop (s : State) (r : WRadio) : State := if s.macActive r then s else s.macEnter r Ms.DRAIN

/-- Every MAC that LINKS names holds the same LINKS (R153). -/
def State.linksAgree (s : State) (r : WRadio) : Bool :=
  let m := s.rf (F.MAC_MLCTRL_LINKS r)
  [WRadio.l, .m, .h].all (fun q => m / 2 ^ q.idx % 2 == 0 || s.rf (F.MAC_MLCTRL_LINKS q) == m)

/-- BSS_START (R176, R153). -/
def execBssStart (r : WRadio) (s : State) : Host.Outcome State Fault Refusal :=
  .next (s.macRun r 1 1 1 0 (fun s w =>
    if !s.linksAgree r then (s, St.RANGE)
    else (((s.wf (F.MAC_STAT_BSSACT r) (s.rf (F.MAC_STAT_BSSACT r) ||| 2 ^ mcBss w)).macEnter r Ms.RUN), St.OK)))

/-- BSS_STOP (R176). -/
def execBssStop (r : WRadio) (s : State) : Host.Outcome State Fault Refusal :=
  .next (s.macRun r 2 0 1 2 (fun s w =>
    let b := mcBss w
    if !s.bssOn r b then (s, St.ABSENT)
    else
      let s := s.wf (F.MAC_STAT_BSSACT r) (s.rf (F.MAC_STAT_BSSACT r) - 2 ^ b)
      let s := s.setMac r (fun m => { m with contend := m.contend.filter (fun x => x != b) })
      ((s.linksDrop r b).afterStop r, St.OK)))

/-- MESH_START (R176): the mesh runs on M and H (R140). -/
def execMeshStart (r : WRadio) (s : State) : Host.Outcome State Fault Refusal :=
  .next (s.macRun r 9 1 1 0 (fun s _ =>
    if r = .l then (s, St.RANGE) else ((s.setMac r (fun m => { m with mesh := true })).macEnter r Ms.RUN, St.OK)))

/-- MESH_STOP (R176). -/
def execMeshStop (r : WRadio) (s : State) : Host.Outcome State Fault Refusal :=
  .next (s.macRun r 10 0 1 2 (fun s _ =>
    if !(s.mac r).mesh then (s, St.ABSENT)
    else (((s.setMac r (fun m => { m with mesh := false })).linksDrop r 16).afterStop r, St.OK)))

/-- LINK_ADD (R176, R178, R179). A link whose BSS is not active joins the mesh where that is active. -/
def execLinkAdd (r : WRadio) (s : State) : Host.Outcome State Fault Refusal :=
  .next (s.macRun r 3 0 1 0 (fun s w =>
    let c := mcClient w
    let b := if s.bssOn r (mcBss w) then mcBss w else 16
    let mld := mcSub w % 2 == 1
    if s.recKind c ≠ 1 ∨ (b = 16 ∧ !(s.mac r).mesh) then (s, St.ABSENT)
    else if mld && s.wlan.links.any (fun l => l.client == c && l.radio != r.idx) && !s.ready Fn.WIFIMU then (s, St.NOTREADY)
    else if (s.macLink r c).isSome ∨ (b = 16 ∧ 32 ≤ s.rf (F.MAC_STAT_MESHN r)) then (s, St.RANGE)
    else ((s.setWlan (fun x => { x with links := x.links ++ [⟨r.idx, c, b, mld, mcAid w⟩] })).keepMesh r, St.OK)))

/-- LINK_DEL (R176). -/
def execLinkDel (r : WRadio) (s : State) : Host.Outcome State Fault Refusal :=
  .next (s.macRun r 4 0 1 1 (fun s w =>
    match s.macLink r (mcClient w) with
    | none => (s, St.ABSENT)
    | some l => if mcBss w ≠ l.bss % 16 then (s, St.ABSENT) else (s.linkDrop r (mcClient w), St.OK)))

/-! ## Block ack (R149) -/

/-- The largest buffer of a client. -/
def State.baMax (s : State) (c : Nat) : Nat := if s.cr c 1 27 27 = 1 then 1024 else if s.cr c 1 26 26 = 1 then 256 else 64
/-- The buffer sizes of SUB. -/
def baSize (sub : Nat) : Nat := [64, 256, 512, 1024].getD (sub % 4) 64

/-- BA_ADD (R176, R149). -/
def execBaAdd (r : WRadio) (s : State) : Host.Outcome State Fault Refusal :=
  .next (s.macRun r 5 0 1 0 (fun s w =>
    let c := mcClient w
    let t := mcTid w
    let size := baSize (mcSub w)
    if (s.macLink r c).isNone then (s, St.ABSENT)
    else if s.baMax c < size ∨ s.wlan.bas.any (fun b => b.client == c && b.tid == t && b.tx == mcDir w) ∨
        4096 ≤ (s.wlan.bas.filter (fun b => b.tx == mcDir w)).length then (s, St.RANGE)
    else
      let s := s.setWlan (fun x => { x with bas := x.bas ++ [⟨c, t, mcDir w, size⟩] })
      let n := (w.getD 2 0).toNat % 4096
      let ro : Reorder := ⟨c, t, size, n, (n + 4095) % 4096, []⟩
      (if mcDir w then s else s.setWlan (fun x => { x with reorders := x.reorders ++ [ro] }), St.OK)))

/-- BA_DEL (R176): what the context of a receive agreement holds is released. -/
def execBaDel (r : WRadio) (s : State) : Host.Outcome State Fault Refusal :=
  .next (s.macRun r 6 0 1 1 (fun s w =>
    let c := mcClient w
    let t := mcTid w
    let is_ (b : BaAgr) : Bool := b.client == c && b.tid == t && b.tx == mcDir w
    if (s.macLink r c).isNone ∨ !s.wlan.bas.any is_ then (s, St.ABSENT)
    else
      let s := s.setWlan (fun x => { x with bas := x.bas.filter (fun b => !is_ b) })
      if mcDir w then (s, St.OK)
      else
        ((s.flushHeld c t).setWlan (fun x => { x with reorders := x.reorders.filter (fun b => !(b.client == c && b.tid == t)) }), St.OK)))

/-! ## TWT (R160, R162) -/

/-- The wake interval nearest a number of µs: a 16-bit mantissa and a power of two. -/
def wakeInterval : Nat → Nat → Nat
  | 0, us => us
  | fuel + 1, us => if us ≤ 65535 then us else 2 * wakeInterval fuel ((us + 1) / 2)

/-- The period of an entry in µs at the present frequency, rounded to the nearest. -/
def State.periodUs (s : State) (e : Nat) : Nat :=
  (s.tePeriod e * 10 ^ 12 * 2 + 2 ^ 24 * s.regN R.GTU_FREQ) / (2 * max 1 (2 ^ 24 * s.regN R.GTU_FREQ))

/-- TWT_SET (R176, R178, R205). -/
def execTwtSet (r : WRadio) (s : State) : Host.Outcome State Fault Refusal :=
  .next (s.macRun r 7 0 1 0 (fun s w =>
    let c := mcClient w
    let e := (w.getD 3 0).toNat
    let f := mcSub w
    if !s.ready Fn.WIFIMU then (s, St.NOTREADY)
    else if (s.macLink r c).isNone ∨ s.te e 0 31 31 = 0 then (s, St.ABSENT)
    else
      let a : TwtAgr := ⟨r.idx, c, f, e, s.tsfOf (s.teNext e s.gtN), wakeInterval 32 (s.periodUs e)⟩
      (s.setWlan (fun x => { x with twts := x.twts.filter (fun t => !(t.client == c && t.flow == f)) ++ [a] }), St.OK)))

/-- TWT_DEL (R176). -/
def execTwtDel (r : WRadio) (s : State) : Host.Outcome State Fault Refusal :=
  .next (s.macRun r 8 0 1 1 (fun s w =>
    let is_ (t : TwtAgr) : Bool := t.radio == r.idx && t.client == mcClient w && t.flow == mcSub w
    if !s.wlan.twts.any is_ then (s, St.ABSENT)
    else (s.setWlan (fun x => { x with twts := x.twts.filter (fun t => !is_ t) }), St.OK)))

/-- TWT_SLIP_CHECK (R162). -/
def execTwtSlipCheck (r : WRadio) (client : BitVec 12) (flow : Fin 8) (s : State) : Host.Outcome State Fault Refusal :=
  let is_ (t : TwtAgr) : Bool := t.radio == r.idx && t.client == client.toNat && t.flow == flow.val
  match s.wlan.twts.find? is_ with
  | none => .next s
  | some t =>
    let start := s.tsfOf (s.teNext t.entry s.gtN)
    let slip := ((t.target : Int) - (start : Int)).natAbs
    let set (s : State) (target interval : Nat) : State :=
      s.setWlan (fun x => { x with twts := x.twts.map (fun y => if is_ y then { y with target := target, interval := interval } else y) })
    if s.rf (F.MAC_TWTSLIP_US r) < slip then
      let iv := wakeInterval 32 (s.periodUs t.entry)
      let s := s.emit (.twtSetup r.idx t.client t.flow start iv)
      .next (((set s (start + iv) iv).bump (R.MAC_CNT_TWTRE r)).raise (mev r 4))
    else .next (set s (t.target + t.interval) t.interval)

/-- MAC_DRAIN_DONE (R174). -/
def execMacDrainDone (r : WRadio) (s : State) : Host.Outcome State Fault Refusal :=
  if s.macState r = Ms.DRAIN then .next (s.macEnter r Ms.IDLE) else .next s

/-- MAC_DROP_ALARM (R180): drops without units and at the retry limits grew by `grew` within one second. -/
def execMacDropAlarm (r : WRadio) (grew : Nat) (s : State) : Host.Outcome State Fault Refusal :=
  if s.rf (F.MAC_DROPALM_N r) < grew then .next (s.raise (mev r 7)) else .next s

end Sys2Proof.Machine
end

