-- ==== Sys2Proof/Machine/Field.lean ====
section
/-! DEFINITION. The parent role of MAC S (R216 to R244): superframes, owner maps, beacons, polls and responses. -/

namespace Sys2Proof.Machine

/-! ## Schedule (R219, R220) -/

/-- A write to FMAC_ACT_HI (R219, R220). -/
def State.schedArm (i : Nat) (v : Word) (s : State) : State :=
  if !regionsOk (s.reg R.FMAC_PSF) (s.reg R.FMAC_PPLAIN) (s.reg R.FMAC_PPASS) ||
      s.validEntries.any (fun e => !inPlain (s.feW e 0) (s.reg R.FMAC_PPLAIN)) then s.refuse R.FMAC_ERR St.RANGE 72
  else (s.writeReg i R.FMAC_ACT_HI v).wb F.FMAC_STAT_SCHPEND true

/-- SCHEDULE_ARM (R220). -/
def execScheduleArm (i : Init) (v : Word) (s : State) : Host.Outcome State Fault Refusal :=
  .next (s.onWrite i R.FMAC_ACT_HI (State.schedArm i.val v))

/-- SCHEDULE_APPLY (R219). -/
def execScheduleApply (s : State) : Host.Outcome State Fault Refusal :=
  if !s.rb F.FMAC_STAT_SCHPEND then .next s
  else
    let s := (s.setReg R.FMAC_SF (s.reg R.FMAC_PSF)).setReg R.FMAC_PLAIN (s.reg R.FMAC_PPLAIN)
    let s := (s.setReg R.FMAC_PASS (s.reg R.FMAC_PPASS)).setReg R.FMAC_CHAN (s.reg R.FMAC_PCHAN)
    .next ((s.wb F.FMAC_STAT_SCHPEND false).raise 79)

/-! ## Superframes (R216, R232, R243) -/

/-- HOLD_COUNTDOWN (R243). -/
def State.holdStep (s : State) (e : Nat) : State :=
  if !s.feHold e then s
  else
    let n := s.fe e 1 23 16 - 1
    let s := s.setFe e 1 23 16 n
    if n = 0 then ((s.feRelease e).bump R.FMAC_CNT_RELEASE).raise 74 else s

/-- SUPERFRAME_START (R216): the next owner map takes effect, a role that was to start starts, and holds count down. -/
def execSuperframeStart (s : State) : Host.Outcome State Fault Refusal :=
  if s.fmState = Fm.OFF then .next s
  else
    let s := s.setFld (fun f => { f with own := f.nextOwn, heard := [], await := none })
    let s := if s.fld.starting then (s.wb F.FMAC_STAT_PARENT true).setFld (fun f => { f with starting := false }) else s
    .next (s.validEntries.foldl (fun s e => s.holdStep e) s)

/-- OWNER_MAP_BUILD (R232): the map of the next superframe, with the entry that a RELEASE before its ASSIGN leaves in it. -/
def execOwnerMapBuild (s : State) : Host.Outcome State Fault Refusal :=
  let k := s.sfNum + 1
  let l := (s.validEntries.map (fun e => s.ownerOf e)).filter (fun o => owns o.w0 k)
  let l := match s.fld.kept with
    | some o => if owns o.w0 k && !l.any (fun x => x.entry == o.entry) then o :: l else l
    | none => l
  .next (s.setFld (fun f => { f with nextOwn := l }))

/-! ## Beacons (R226, R228) -/

/-- Timing depth, as in octet 8 of the grid-time element (R147): of the parent that GTU_BCN_CTRL selects. -/
def State.fieldDepth (s : State) : Nat :=
  if s.rf F.GTU_CTRL_ROLE ≠ 0 then 0
  else
    let src := s.rf F.GTU_BCN_CTRL_BSRC
    min 255 (1 + (if src = 2 then (s.mac .m).depth else if src = 3 then (s.mac .h).depth else s.fld.depth))

/-- The payload of a beacon without its pending list (R226). -/
def State.beaconHead (s : State) (start n : Nat) : List Byte :=
  let flags := s.rf F.GTU_STAT_STATE * 32 + s.rf F.GTU_HOLD_QUAL * 4 + s.rf F.GTU_CTRL_ROLE
  [1, BitVec.ofNat 8 flags, BitVec.ofNat 8 s.fieldDepth,
    BitVec.ofNat 8 ((if s.rb F.FMAC_CTRL_JOIN then 128 else 0) + s.rf F.FMAC_SF_N1), BitVec.ofNat 8 (n * 16)] ++
    natBytes 8 start ++ natBytes 2 (s.rf F.FMAC_PLAIN_PLF) ++ natBytes 2 (s.rf F.FMAC_PLAIN_PLN) ++
    natBytes 2 (s.rf F.FMAC_PASS_PSF) ++ natBytes 2 (s.rf F.FMAC_PASS_PSN) ++ natBytes 2 (s.rf F.FMAC_PATH_PCBASE) ++
    wordBytes [s.reg (R.ODE_DIG 0), s.reg (R.ODE_DIG 1), s.reg R.ODE_GEN]

/-- The longest pending list of at most `n` addresses with which the beacon fits its region (R228). -/
def State.pendFit (s : State) (modeb : Nat) : Nat → Nat
  | 0 => 0
  | n + 1 =>
    if s.nsToUnits (fieldAirNs modeb (61 + 2 * (n + 1))) ≤ s.rf F.FMAC_SF_BSLEN * 2 ^ 20 then n + 1 else s.pendFit modeb n

/-- The pending list: children with staged frames, oldest staging first (R228). -/
def State.pendList (s : State) (modeb : Nat) : List Nat :=
  if s.rb F.FMAC_CTRL_PENDL then
    let l := (s.fld.staged.take (min 8 (s.rf F.FMAC_PENDMAX_N))).map (fun e => s.fe e 6 31 16)
    l.take (s.pendFit modeb l.length)
  else []

/-- A beacon is not sent (R228). -/
def State.beaconSkip (s : State) : State := (s.bump R.FMAC_CNT_BCNSKIP).raise 73

/-- The superframe whose beacon a commit is for: the first whose BSLOT has not begun. -/
def State.beaconStart (s : State) : Nat :=
  let b := s.slotStart s.sfNum (s.rf F.FMAC_SF_BSLOT)
  if s.gtN ≤ b then b else s.slotStart (s.sfNum + 1) (s.rf F.FMAC_SF_BSLOT)

/-- The PSDU of a beacon, protected with a key (R226, R223). -/
def State.beaconPsdu (s : State) (key : List Byte) : List Byte :=
  let l := s.pendList (s.rf F.FMAC_MODES_BCN)
  let head := fieldHdr (fcOf 0 true false false false) s.fld.seq (s.rf F.FMAC_NETID_ID) 0xFFFF (s.rf F.FMAC_SADDR_A) ++
    fieldSec 1 2 s.fld.bcnCnt
  let pay := s.beaconHead s.beaconStart l.length ++ l.flatMap (fun a => natBytes 2 a)
  fieldFcs (fieldSeal key (euiOf (s.reg R.FMAC_EUI_LO) (s.reg R.FMAC_EUI_HI)) s.fld.bcnCnt 2 head pay)

/-- The beacon is built, protected and issued, or refused (R226, R228, R251). -/
def State.beaconGo (s : State) : State :=
  let modeb := s.rf F.FMAC_MODES_BCN
  let start := s.beaconStart
  match s.fieldSnap (s.rf F.FMAC_KEYS_NET) Usage.ENC with
  | none => s.beaconSkip
  | some k =>
    let psdu := s.beaconPsdu k.key
    if !s.radioTakes (s.rf F.FMAC_CHAN_REC) then s.radioRejected.beaconSkip
    else
      match s.dwell (fieldAirNs modeb psdu.length) true with
      | none => s.dwellRefused.beaconSkip
      | some s =>
        let q := s.fld.seq
        let s := (s.setFld (fun f => { f with seq := q + 1, bcnCnt := f.bcnCnt + 1 })).bump R.FMAC_CNT_BCN
        (s.fieldMode modeb).fieldSend psdu q modeb start

/-- FIELD_BEACON_COMMIT (R228): in DRAIN no beacon is sent (R256); a long listen preempts it (R247). -/
def execFieldBeaconCommit (s : State) : Host.Outcome State Fault Refusal :=
  if s.fmState ≠ Fm.RUN ∨ !s.rb F.FMAC_STAT_PARENT then .next s
  else if s.rb F.FMAC_STAT_LL then .next s.beaconSkip
  else .next s.beaconGo

/-! ## Regions (R238, R239) -/

/-- PASS_REGION_START (R238). -/
def execPassRegionStart (s : State) : Host.Outcome State Fault Refusal :=
  if !s.serving ∨ s.rf F.FMAC_PASS_PSN = 0 then .next s
  else if !s.radioTakes (s.rf F.FMAC_CHAN_REC) then .next s.radioRejected
  else .next ((s.fieldMode (s.rf F.FMAC_MODES_PASS)).macPort .s (rxCommand (s.rf (F.RFC_CTRL_CHAINS .s))))

/-- VALLEY_START (R239). -/
def execValleyStart (s : State) : Host.Outcome State Fault Refusal :=
  if s.serving then .next ((s.setFld (fun f => { f with await := none })).macPort .s idleCommand) else .next s

/-! ## Missed polls (R242, R243) -/

/-- The third consecutive miss (R243). -/
def State.childAbsent (s : State) (e : Nat) : State :=
  let s := (s.setFe e 0 30 30 1).setFe e 1 23 16 (s.rf F.FMAC_HOLD_SF)
  ((s.fieldRecState e Cl.ABSENT).bump R.FMAC_CNT_ABSENT).raise 74

/-- A miss (R242). -/
def State.pollMiss (s : State) (e : Nat) : State :=
  let m := s.fe e 1 15 12
  let s := s.setFe e 1 15 12 (min (m + 1) 3)
  let s := if s.hasRec e then s.setRec (feRec e) 51 15 12 (min (m + 1) 3) else s
  let s := (s.bump R.FMAC_CNT_MISSP).raise 74
  if m = 2 then s.childAbsent e
  else if s.feHold e then s
  else s.fieldRecState e Cl.WIDEN

/-- POLL_WINDOW_END (R234, R242): without a hit it is a miss, unless the record is SUSP, a long listen preempts the
superframe, or the radio refused the RX. -/
def execPollWindowEnd (entry : Fin 1024) (s : State) : Host.Outcome State Fault Refusal :=
  let e := entry.val
  if !s.rb F.FMAC_STAT_PARENT || !s.fld.own.any (fun o => o.entry == e) || s.fld.heard.contains e || !s.feValid e then .next s
  else
    let s := s.setFld (fun f => { f with heard := e :: f.heard, await := none })
    let k := s.sfNum
    if s.rb F.FMAC_STAT_LL || (s.hasRec e && s.recState (feRec e) == Cl.SUSP) then .next (s.fieldNext e k)
    else if !s.ready (Fn.RADIO 3) || s.rf (F.RFC_STAT_ACTREC .s) != s.rf F.FMAC_CHAN_REC then .next (s.radioRejected.fieldNext e k)
    else .next ((s.pollMiss e).fieldNext e k)

/-! ## Reception (R229, R234, R236, R237, R240, R241, R244) -/

/-- A frame is discarded: nothing but the return of its reserved units. -/
def State.fieldDrop (s : State) : State := s.unreserve .field
/-- Discarded as AUTH, NOKEY or replay (R237). -/
def State.fieldBad (s : State) (cnt : Nat) : State := (s.fieldDrop.bump cnt).raise 78

/-- Store an accepted frame in radio buffer S for MC4 and return the units it does not use (R12, R15): none when no units were
reserved or no buffer is free. -/
def State.fieldStore (s : State) (d : List Byte) (stamp : GTime) : Option State :=
  if Sparse.getN s.pkt.rsvd (rxKey .field) = 0 then none
  else
    match (s.unreserve .field).takeRun 3 (unitsOf d.length) true with
    | none => none
    | some r =>
      let s := r.1.setWords r.2 (hdrWords (r.1.free % 16) d.length false false stamp 0 0)
      some (s.used.setBytes (r.2 + 64) d)

/-- A valid frame from a child clears MISSP and, from an ABSENT child, re-acquires it (R242, R244). -/
def State.childHeard (s : State) (e : Nat) (f : FieldRx) : State :=
  let held := s.feHold e || (s.hasRec e && s.recState (feRec e) == Cl.ABSENT)
  let s := ((s.setFe e 1 15 12 0).setFe e 0 30 30 0).setFe e 1 23 16 0
  let s := if s.hasRec e then
      ((s.setRecGt (feRec e) 52 f.stamp).setRec (feRec e) 51 23 16 f.rssi.toNat).setRec (feRec e) 51 15 12 0
    else s
  let s := if s.hasRec e ∧ s.recState (feRec e) = Cl.WIDEN then s.fieldRecState e Cl.DOZE else s
  if held then
    let s := s.fieldRecState e Cl.DOZE
    let s := if s.hasRec e then s.setRec (feRec e) 29 31 28 (s.rf F.STP_DRIFT_FASTN) else s
    (s.bump R.FMAC_CNT_REACQ).raise 77
  else s

/-- Steppe moves OFFSET and PRED of a record (R185, R240). -/
def State.moveOffset (s : State) (e : Nat) (d : Int) : State :=
  if s.stpServes e then
    let i := feRec e
    let s := s.setRec i 32 31 0 (ofSigned 32 (toSigned 32 (s.cr i 32 31 0) + d))
    s.setRec i 33 31 0 (ofSigned 32 (toSigned 32 (s.cr i 33 31 0) + d))
  else s

/-- The TCA bit of a POLL (R225, R240): a correction that the child did not apply is restored. -/
def State.tcSettle (s : State) (e : Nat) (typ : Nat) (pay : List Byte) : State :=
  if typ = 3 ∧ s.fe e 7 15 15 = 1 then
    let s := if (pay.getD 1 0).getLsbD 7 then s else s.moveOffset e (toSigned 16 (s.fe e 7 31 16) * 16)
    s.setFe e 7 15 15 0
  else s

/-- TC of a poll (R240): the error in 16 units, rounded, saturating. -/
def tcOf (stamp next : Nat) : Int := max (-32767) (min 32767 (((stamp : Int) - next + 8) / 16))

/-- POLL_HIT and TIMING_SAMPLE_POST (R234, R241). -/
def State.pollHit (s : State) (o : FieldOwner) (k : Nat) (stamp : GTime) : State :=
  let e := o.entry
  let s := (s.bump R.FMAC_CNT_POLL).setFld (fun f => { f with heard := e :: f.heard })
  let s := if s.stpServes e then
      (s.setRecGt (feRec e) 36 (BitVec.ofNat 64 (s.nextIn o.w0 k))).driftLearn (feRec e) true stamp
    else s
  (s.fieldRecState e Cl.SP).fieldNext e k

/-- What a frame from a child leads to after its checks (R235 to R244). `dup` marks a repeated counter. -/
def State.childFrame (s : State) (e : Nat) (typ : Nat) (ar : Bool) (seq : Byte) (pay : List Byte) (f : FieldRx) (dup : Bool) :
    State :=
  let s := s.dlRetry e
  let slot := s.slotOf f.stamp.toNat
  let k := f.stamp.toNat / 2 ^ 24 / s.sfN
  let pass := s.regionAt slot == 3
  let own := s.fld.own.find? (fun o => o.entry == e)
  let s := if dup then s else (s.tcSettle e typ pay).childHeard e f
  let staged := s.fe e 2 31 0 != 0
  if pass then
    let s := if dup then s else s.bump R.FMAC_CNT_PASSRX
    let lim := s.slotStart k (s.rf F.FMAC_PASS_PSF + s.rf F.FMAC_PASS_PSN)
    if ar then s.setFld (fun x => { x with
      resp := some ⟨some e, seq, f.last, false, 0, staged, dup, BitVec.ofNat 64 lim, s.rf F.FMAC_MODES_PASS⟩ }) else s
  else
    match own with
    | none => s
    | some o =>
      if !s.inFieldWindow o k f.stamp.toNat then s
      else
        let tc := tcOf f.stamp.toNat (s.nextIn o.w0 k)
        let lim := s.slotStart k (w0Slot o.w0 + w0Slen o.w0)
        let s := if dup then s else s.pollHit o k f.stamp
        if ar then s.setFld (fun x => { x with
          resp := some ⟨some e, seq, f.last, true, tc, staged, dup, BitVec.ofNat 64 lim, bits o.w1 31 24⟩ }) else s

/-- The entry a frame from `src` belongs to: an owner of this superframe, as the map has it, else a valid entry. -/
def State.childOf (s : State) (src : Nat) : Option FieldOwner :=
  match s.fld.own.find? (fun o => bits o.w6 31 16 == src) with
  | some o => some o
  | none => (s.validEntries.find? (fun e => s.fe e 6 31 16 == src)).map (fun e => s.ownerOf e)

/-- The outcome of CCM* (R223, R237): the payload, or the counter that the frame goes to. -/
def State.fieldCheck (s : State) (d : List Byte) (pair : Nat) (eui : List Nat) (aborted : Bool) : Except Nat (List Byte) :=
  let h := hdrLen d
  let kind := (d.getD h 0).toNat / 64
  let level := (d.getD h 0).toNat % 8
  let body := (d.take (d.length - 4)).drop (h + 5)
  if !fcBit (fnum d 0 2) 12 ∨ !(level = 2 ∨ level = 6) ∨ body.length < 8 then .error R.FMAC_CNT_AUTH
  else
    match s.fieldKey kind pair with
    | none => .error R.FMAC_CNT_AUTH
    | some slot =>
      match s.fieldSnap slot Usage.DEC with
      | none => .error R.FMAC_CNT_NOKEY
      | some k =>
        if aborted then .error R.FMAC_CNT_NOKEY
        else
          match fieldOpen k.key eui (fnum d (h + 1) 4) level (d.take (h + 5)) (body.take (body.length - 8))
              (body.drop (body.length - 8)) with
          | none => .error R.FMAC_CNT_AUTH
          | some p => .ok p

/-- A frame from a child: CCM*, counter, units (R237). -/
def State.fromChild (s : State) (o : FieldOwner) (f : FieldRx) : State :=
  let d := f.data
  let fc := fnum d 0 2
  match s.fieldCheck d (bits o.w6 9 0) (euiOf o.w8 o.w9) f.aborted with
  | .error cnt => s.fieldBad cnt
  | .ok pay =>
    let cnt := fnum d (hdrLen d + 1) 4
    let e := o.entry
    let old := s.fe e 4 31 0
    if cnt < old then s.fieldBad R.FMAC_CNT_REPLAY
    else if cnt = old then
      (s.fieldDrop.bump R.FMAC_CNT_DUP).childFrame e (fcType fc) (fcBit fc 10) (d.getD 2 0) pay f true
    else
      match s.fieldStore (d.take (hdrLen d) ++ pay) f.stamp with
      | none => s.fieldDrop.bump R.FMAC_CNT_NORES
      | some s => (s.write32 (feAddr e + 16) (BitVec.ofNat 32 cnt)).childFrame e (fcType fc) (fcBit fc 10) (d.getD 2 0) pay f false

/-- A COMMAND under the join key from a device without an entry (R227, R238): JOIN_REQ carries its EUI-64. -/
def State.fromJoiner (s : State) (f : FieldRx) : State :=
  let d := f.data
  let fc := fnum d 0 2
  let lim := s.slotStart (f.stamp.toNat / 2 ^ 24 / s.sfN) (s.rf F.FMAC_PASS_PSF + s.rf F.FMAC_PASS_PSN)
  if fcType fc ≠ 4 ∨ !s.rb F.FMAC_CTRL_JOIN ∨ (d.getD (hdrLen d) 0).toNat / 64 ≠ 2 then s.fieldDrop
  else
    match s.fieldCheck d 0 (Config.fieldEui (fnum d 3 2) (fnum d 7 2)) f.aborted with
    | .error cnt => s.fieldBad cnt
    | .ok pay =>
      match s.fieldStore (d.take (hdrLen d) ++ pay) f.stamp with
      | none => s.fieldDrop.bump R.FMAC_CNT_NORES
      | some s =>
        let s := s.bump R.FMAC_CNT_PASSRX
        if fcBit fc 10 then s.setFld (fun x => { x with
          resp := some ⟨none, d.getD 2 0, f.last, false, 0, false, false, BitVec.ofNat 64 lim, s.rf F.FMAC_MODES_PASS⟩ })
        else s

/-- A frame from the upstream parent: its TC is shown and never applied (R240). -/
def State.fromParent (s : State) (f : FieldRx) : State :=
  let d := f.data
  let fc := fnum d 0 2
  match s.fieldCheck d (s.rf F.FMAC_UP_KEY_SLOT) (euiOf (s.reg R.FMAC_UP_EUI_LO) (s.reg R.FMAC_UP_EUI_HI)) f.aborted with
  | .error cnt => s.fieldBad cnt
  | .ok pay =>
    match s.fieldStore (d.take (hdrLen d) ++ pay) f.stamp with
    | none => s.fieldDrop.bump R.FMAC_CNT_NORES
    | some s =>
      let s := if fcBit fc 9 then s.wf F.FMAC_UP_TC_TC (fnum d 9 2) else s
      let s := (s.upHeard f.stamp).setFld (fun x => { x with upAwait := none })
      if fcBit fc 10 then s.setFld (fun x => { x with
        resp := some ⟨none, d.getD 2 0, f.last, false, 0, false, false, -1, s.rf F.FMAC_UP_MODE_POLL⟩ })
      else s

/-- An ACK (R224, R236, R240): of a DATA to a child, or of the node's own upstream frame. -/
def State.fieldAck (s : State) (f : FieldRx) : State :=
  let d := f.data
  let seq := d.getD 2 0
  match s.fld.await with
  | some (e, q) =>
    if q = seq then (s.fieldDrop.dlEnd e St.OK).setFld (fun x => { x with await := none }) else s.fieldDrop
  | none =>
    if s.fld.upAwait = some seq then
      let s := if fcBit (fnum d 0 2) 9 then s.wf F.FMAC_UP_TC_TC (fnum d 3 2) else s
      (s.fieldDrop.upHeard f.stamp).setFld (fun x => { x with upAwait := none })
    else s.fieldDrop

/-- A beacon (R226): its MIC is under the network key, with the EUI-64 of its sender. -/
def State.fromBeacon (s : State) (f : FieldRx) : State :=
  let d := f.data
  let net := fnum d 3 2
  let src := fnum d 7 2
  let parent := src == s.rf F.FMAC_UP_PARENT_SADDR && net == s.rf F.FMAC_UP_PARENT_NETID
  let h := hdrLen d
  if !(net == s.rf F.FMAC_NETID_ID || parent) || fnum d 5 2 != 0xFFFF then s.fieldDrop
  else if (d.getD h 0).toNat / 64 ≠ 1 ∨ (d.getD h 0).toNat % 8 ≠ 2 then s.fieldBad R.FMAC_CNT_AUTH
  else
    match s.fieldCheck d 0 (if parent then euiOf (s.reg R.FMAC_UP_EUI_LO) (s.reg R.FMAC_UP_EUI_HI) else Config.fieldEui net src)
        f.aborted with
    | .error cnt => s.fieldBad cnt
    | .ok p =>
      let b (o : Nat) : Nat := (p.getD o 0).toNat
      s.fieldDrop.fieldBeacon ⟨net, src, s.rf (F.RFC_STAT_ACTREC .s), f.rssi.toNat, b 1 / 32, b 1 / 4 % 8, b 2, b 3 % 64,
        b 4 % 16, BitVec.ofNat 64 (fnum p 5 8), fnum p 21 2, BitVec.ofNat 64 (fnum p 23 8), BitVec.ofNat 32 (fnum p 31 4),
        f.stamp.toNat / 2 ^ 20 % 16⟩ f.stamp

/-- FIELD_FRAME_RECEIVE (R221, R222, R237): FCS, then type and addressing, then CCM* and counter. -/
def execFieldFrameReceive (f : FieldRx) (s : State) : Host.Outcome State Fault Refusal :=
  let d := f.data
  let fc := fnum d 0 2
  let typ := fcType fc
  if s.fmState < Fm.RUN then .next s.fieldDrop
  else if f.fcs2 || !fieldFcsOk d then .next (s.fieldDrop.bump R.FMAC_CNT_FCS)
  else if 5 ≤ typ ∨ fcVer fc ≠ 1 then .next s.fieldDrop
  else if typ = 2 then .next (s.fieldAck f)
  else if d.length < 9 + 4 then .next s.fieldDrop
  else if typ = 0 then .next (s.fromBeacon f)
  else
    let net := fnum d 3 2
    let dst := fnum d 5 2
    let src := fnum d 7 2
    if dst ≠ s.rf F.FMAC_SADDR_A then .next s.fieldDrop
    else if s.rb F.FMAC_STAT_UP && net == s.rf F.FMAC_UP_PARENT_NETID && src == s.rf F.FMAC_UP_PARENT_SADDR then
      .next (s.fromParent f)
    else if net ≠ s.rf F.FMAC_NETID_ID ∨ !s.serving then .next s.fieldDrop
    else
      match s.childOf src with
      | some o => .next (s.fromChild o f)
      | none => .next (s.fromJoiner f)

/-! ## Responses (R235, R236, R240) -/

/-- The DATA of a child: the staged frame with FP, and with TC where the response carries one. -/
def dataPsdu (stored : List Byte) (plain fp : Bool) (tc : Int) : List Byte :=
  let fc0 := fnum stored 0 2
  let fc := fcOf (fcType fc0) (fcBit fc0 12) fp (fcBit fc0 10) plain + (if fcBit fc0 8 then 2 ^ 8 else 0)
  let rest := stored.drop (hdrLen stored)
  fieldFcs (natBytes 2 fc ++ (stored.drop 2).take 7 ++ (if plain then natBytes 2 (ofSigned 16 tc) else []) ++ rest)

/-- An ACK (R224). -/
def ackPsdu (seq : Byte) (fp tcOn : Bool) (tc : Int) : List Byte :=
  fieldFcs (natBytes 2 (fcOf 2 false fp false tcOn) ++ [seq] ++ (if tcOn then natBytes 2 (ofSigned 16 tc) else []))

/-- TC_POST (R240). -/
def State.tcPost (s : State) (e : Nat) (tc : Int) : State :=
  let s := s.setFe e 7 31 16 (ofSigned 16 tc)
  if s.stpServes e then (s.moveOffset e (-(tc * 16))).setFe e 7 15 15 1 else s

/-- The end of an exchange: the record leaves its field wake (R241). -/
def State.exchangeOver (s : State) (e : Option Nat) : State :=
  match e with
  | none => s
  | some e => if s.hasRec e ∧ s.recState (feRec e) = Cl.SP then s.fieldRecState e Cl.DOZE else s

/-- Send an ACK (R235, R252). -/
def State.sendAck (s : State) (r : FieldResp) (start : Nat) : State :=
  let tcOn := r.plain && !r.dup
  let fp := match r.entry with
    | none => false
    | some e => s.fe e 2 31 0 != 0 || (s.hasRec e && s.cr (feRec e) 39 15 0 != 0)
  let psdu := ackPsdu r.seq fp tcOn r.tc
  match s.dwell (fieldAirNs r.mode psdu.length) true with
  | none => s.dwellRefused
  | some s =>
    let s := match r.entry with
      | some e => if tcOn then s.tcPost e r.tc else s
      | none => s
    s.fieldSend psdu r.seq r.mode start

/-- The response (R235): DATA when a frame is staged, fits and is permitted by the dwell guard, else an ACK. -/
def State.fieldRespond (s : State) (r : FieldResp) : State :=
  let start := r.last.toNat + s.usToUnits (s.rf F.FMAC_TURN_US)
  match r.entry with
  | none => s.sendAck r start
  | some e =>
    let ptr := s.fe e 2 31 0
    if !r.staged || r.dup || ptr == 0 then s.sendAck r start
    else
      let pend := s.hasRec e && s.cr (feRec e) 39 15 0 != 0
      let stored := s.bytes ptr (s.fe e 3 31 16 - 4)
      let psdu := dataPsdu stored r.plain pend r.tc
      let air := fieldAirNs r.mode psdu.length
      let tail := s.nsToUnits (air + fieldAirNs r.mode 7) + s.usToUnits (s.rf F.FMAC_TURN_US)
      if r.limit.toNat < start + tail then s.sendAck r start
      else
        match s.dwell air false with
        | none => (s.dwellRefused).sendAck r start
        | some s =>
          let s := if r.plain then s.tcPost e r.tc else s
          let s := s.setFe e 3 3 0 (min 15 (s.fe e 3 3 0 + 1))
          let s := s.setFld (fun f => { f with await := some (e, psdu.getD 2 0) })
          s.fieldSend psdu (psdu.getD 2 0) r.mode start

/-- FIELD_RESPONSE (R235): FMAC_TURN after the frame's last sample. -/
def execFieldResponse (s : State) : Host.Outcome State Fault Refusal :=
  match s.fld.resp with
  | none => .next s
  | some r =>
    let s := s.setFld (fun f => { f with resp := none })
    if !s.radioTakes (s.rf (F.RFC_STAT_ACTREC .s)) then .next (s.radioRejected.exchangeOver r.entry)
    else .next ((s.fieldRespond r).exchangeOver r.entry)

end Sys2Proof.Machine
end

