-- ==== Sys2Proof/Machine/FieldCmd.lean ====
section
/-! DEFINITION. MAC S's commands (R256 to R259): push, check against the state, effect, result. -/

namespace Sys2Proof.Machine

/-- The assignment entry of a command. -/
def fmEntry (w : List Word) : Nat := bits (w.getD 0 0) 9 0

/-- A range lies in radio buffer S (R21). -/
def inRadioS (a len : Nat) : Bool := decide (0x10CC0000 ≤ a ∧ a + len ≤ 0x10D00000)

/-- The check of a push (R257): the largest PSDU, 2,047 B, bounds LEN with MIC and FCS (R221). -/
def State.fmCheck (s : State) (w : List Word) : Nat :=
  let opc := cmdOpc w
  let w1 := w.getD 1 0
  let w2 := (w.getD 2 0).toNat
  let w3 := (w.getD 3 0).toNat
  let len := bits w1 31 16
  if opc = 0 ∨ 9 < opc then St.TYPE
  else if bits (w.getD 0 0) 15 10 ≠ 0 ∨ w2 ≠ 0 then St.RANGE
  else if opc ≤ 4 ∧ (fmEntry w ≠ 0 ∨ w1 ≠ 0 ∨ w3 ≠ 0) then St.RANGE
  else if opc = 5 ∧ (w1 ≠ 0 ∨ !(inTcm w3 64 || inShared w3 64)) then St.RANGE
  else if opc = 7 ∧ (bits w1 15 0 ≠ 0 ∨ 2047 < len + 12 ∨ !inRadioS w3 (len + 12)) then St.RANGE
  else if (opc = 6 ∨ opc = 8) ∧ (w1 ≠ 0 ∨ w3 ≠ 0) then St.RANGE
  else if opc = 9 ∧ (bits w1 31 10 ≠ 0 ∨ w3 ≠ 0) then St.RANGE
  else if 16 ≤ s.fld.cmds.length then St.BUSY
  else St.OK

/-- A push of the staged command. -/
def State.fmPush (v : Word) (s : State) : State :=
  if !v.getLsbD 0 then s
  else
    let w := [0, 1, 2, 3].map (fun k => s.reg (R.FMAC_CMD_W k))
    let code := s.fmCheck w
    if code = St.OK then s.setFld (fun f => { f with cmds := f.cmds ++ [w] }) else s.refuse R.FMAC_ERR code 72

/-- FMAC_CMD_PUSH (R257). -/
def execFmacCmdPush (i : Init) (v : Word) (s : State) : Host.Outcome State Fault Refusal :=
  .next (s.onWrite i R.FMAC_CMD_PUSH (State.fmPush v))

/-- The command at the head completes with a status (R259). -/
def State.fmDone (s : State) (w : List Word) (status : Nat) : State :=
  let s := (s.setFld (fun f => { f with cmds := f.cmds.drop 1 })).fmPost (cmdTag w) (cmdOpc w) status
  let s := if status = St.STATE then s.bump R.FMAC_CNT_STATE else s
  if status = St.OK then s else s.raise 72

/-- Run the command at the head of the queue when its code is `opc`; `idle`, `run` and `drain` are its row in the table of
R258: 0 rejected, 1 accepted, 2 accepted with no action. -/
def State.fmRun (s : State) (opc idle run drain : Nat) (f : State → List Word → State × Nat) : State :=
  match s.fld.cmds with
  | [] => s
  | w :: _ =>
    let st := s.fmState
    let a := if st = Fm.IDLE then idle else if st = Fm.RUN then run else drain
    if cmdOpc w ≠ opc then s
    else if st = Fm.OFF then s.fmDone w St.NOTREADY
    else if a = 0 then s.fmDone w St.STATE
    else if a = 2 then s.fmDone w St.OK
    else
      let r := f s w
      r.1.fmDone w r.2

/-! ## Roles (R258) -/

/-- Enter a state of R256. -/
def State.fmEnter (s : State) (st : Nat) : State := s.wf F.FMAC_STAT_STATE st

/-- SF_START (R258): the parent role begins at the next superframe. -/
def execSfStart (s : State) : Host.Outcome State Fault Refusal :=
  .next (s.fmRun 1 1 1 0 (fun s _ =>
    if s.rb F.FMAC_STAT_PARENT || s.fld.starting then (s, St.STATE)
    else if s.rf F.FMAC_CHAN_REC = 0x7FF ∨ s.rf F.FMAC_NETID_ID = 0 then (s, St.RANGE)
    else ((s.setFld (fun f => { f with starting := true })).fmEnter Fm.RUN, St.OK)))

/-- A role has ended: when none is left the MAC drains (R258). -/
def State.roleEnd (s : State) : State :=
  if s.rb F.FMAC_STAT_PARENT || s.fld.starting || s.rb F.FMAC_STAT_UP then s else s.fmEnter Fm.DRAIN

/-- SF_STOP (R258). -/
def execSfStop (s : State) : Host.Outcome State Fault Refusal :=
  .next (s.fmRun 2 2 1 2 (fun s _ =>
    (((s.wb F.FMAC_STAT_PARENT false).setFld (fun f => { f with starting := false })).roleEnd, St.OK)))

/-- UP_ATTACH (R258). -/
def execUpAttach (s : State) : Host.Outcome State Fault Refusal :=
  .next (s.fmRun 3 1 1 0 (fun s _ =>
    if s.rb F.FMAC_STAT_UP then (s, St.STATE)
    else
      let s := s.setFld (fun f => { f with missb := 0, bcnHeard := false, upAwait := none })
      ((((s.wb F.FMAC_STAT_UP true).upEnter Fm.TRACK).fmEnter Fm.RUN).ptabKeepAll, St.OK)))

/-- UP_DETACH (R258). -/
def execUpDetach (s : State) : Host.Outcome State Fault Refusal :=
  .next (s.fmRun 4 2 1 2 (fun s _ =>
    ((((s.wb F.FMAC_STAT_UP false).wb F.FMAC_STAT_LL false).upEnter 0).ptabKeepAll.roleEnd, St.OK)))

/-- FIELD_DRAIN_DONE (R256): the superframe ends. -/
def execFieldDrainDone (s : State) : Host.Outcome State Fault Refusal :=
  if s.fmState = Fm.DRAIN then .next (s.fmEnter Fm.IDLE) else .next s

/-! ## Assignments (R230 to R232, R258, R259) -/

/-- The image breaks no range of R230. -/
def imageOk (w0 w6 : Word) : Bool :=
  decide (w0Pexp w0 ≤ 12 ∧ w0Phase w0 < 2 ^ w0Pexp w0 ∧ 1 ≤ w0Slen w0 ∧ bits w6 15 10 = 0)

/-- The BW code of the synthesiser record that FMAC_CHAN names (R73). -/
def State.chanBw (s : State) : Nat := bits (s.read32 (recAddr .s (s.rf F.FMAC_CHAN_REC))) 27 24

/-- Copy the image: words 0 with VALID set, 1, 4, 5, 6, 8 and 9; the rest is cleared. -/
def State.feInstall (s : State) (e ptr : Nat) : State :=
  let w k := s.read32 (ptr + 4 * k)
  let s := s.setWords (feAddr e)
    [w 0 ||| 0x80000000, w 1, 0, 0, w 4, w 5, w 6, 0, w 8, w 9, 0, 0, 0, 0, 0, 0]
  if s.hasRec e then (s.setRec (feRec e) 38 31 16 (2 ^ s.fe e 0 29 26)).setRec (feRec e) 38 9 0 (s.fe e 0 9 0) else s

/-- The status of an ASSIGN (R259). -/
def State.assignStatus (s : State) (e ptr : Nat) : Nat :=
  let w0 := s.read32 ptr
  if s.feValid e then St.STATE
  else if !imageOk w0 (s.read32 (ptr + 24)) || !inPlain w0 (s.reg R.FMAC_PLAIN) ||
      (s.rb F.FMAC_STAT_SCHPEND && !inPlain w0 (s.reg R.FMAC_PPLAIN)) ||
      smodeBw (bits (s.read32 (ptr + 4)) 31 28) != s.chanBw then St.RANGE
  else if s.validEntries.any (fun x => collide (s.feW x 0) w0) then St.BUSY
  else St.OK

/-- ASSIGN (R258, R259). -/
def execAssign (s : State) : Host.Outcome State Fault Refusal :=
  .next (s.fmRun 5 1 1 0 (fun s w =>
    let e := fmEntry w
    let ptr := (w.getD 3 0).toNat
    let code := s.assignStatus e ptr
    let s := s.setFld (fun f => { f with kept := if f.kept.any (fun o => o.entry == e) then none else f.kept })
    if code = St.OK then (s.feInstall e ptr, code) else (s, code)))

/-- The next command in the queue is an ASSIGN of entry `e` (R232). -/
def State.assignNext (s : State) (e : Nat) : Bool :=
  match s.fld.cmds with
  | _ :: w :: _ => cmdOpc w == 5 && fmEntry w == e
  | _ => false

/-- RELEASE (R232, R258): taken as one change with an ASSIGN of the same entry that follows it. -/
def execRelease (s : State) : Host.Outcome State Fault Refusal :=
  .next (s.fmRun 6 1 1 1 (fun s w =>
    let e := fmEntry w
    if !s.feValid e then (s, St.ABSENT)
    else
      let s := if s.assignNext e then s.setFld (fun f => { f with kept := some (s.ownerOf e) }) else s
      (s.feRelease e, St.OK)))

/-- KEYSET (R258): effective for the owner map under R232. -/
def execKeyset (s : State) : Host.Outcome State Fault Refusal :=
  .next (s.fmRun 9 1 1 0 (fun s w =>
    let e := fmEntry w
    if s.feValid e then (s.setFe e 6 9 0 (bits (w.getD 1 0) 9 0), St.OK) else (s, St.ABSENT)))

/-! ## Downlink frames (R236, R258, R259) -/

/-- Encrypt a frame in place with FCNT_TX, which its security header then carries (R223, R236). -/
def State.dlSeal (s : State) (e ptr len : Nat) (key : List Byte) : State :=
  let d := s.bytes ptr len
  let h := hdrLen d
  let cnt := s.fe e 5 31 0
  let sec := d.getD h 0
  let head := d.take h ++ (sec :: natBytes 4 cnt)
  let eui := euiOf (s.reg R.FMAC_EUI_LO) (s.reg R.FMAC_EUI_HI)
  (s.setBytes ptr (fieldSeal key eui cnt (sec.toNat % 8) head (d.drop (h + 5)))).setFe e 5 31 0 (cnt + 1)

/-- The child of an entry is ABSENT (R243). -/
def State.feAbsent (s : State) (e : Nat) : Bool := s.feHold e || (s.hasRec e && s.recState (feRec e) == Cl.ABSENT)

/-- DL_STAGE (R236, R258, R259). -/
def execDlStage (s : State) : Host.Outcome State Fault Refusal :=
  .next (s.fmRun 7 0 1 0 (fun s w =>
    let e := fmEntry w
    let len := bits (w.getD 1 0) 31 16
    let ptr := (w.getD 3 0).toNat
    if !s.feValid e || s.feAbsent e then (s, St.ABSENT)
    else
      let s := s.dlRetry e
      if s.fe e 2 31 0 ≠ 0 then (s, St.BUSY)
      else
        match s.fieldSnap (s.fe e 6 9 0) Usage.ENC with
        | none => (s, St.NOKEY)
        | some k =>
          let s := (s.dlSeal e ptr len k.key).setFe e 2 31 0 ptr
          let s := s.write32 (feAddr e + 12) (BitVec.ofNat 32 ((len + 12) * 2 ^ 16 + cmdTag w * 2 ^ 8))
          (s.setFld (fun f => { f with staged := f.staged ++ [e] }), St.OK)))

/-- DL_CANCEL (R258). -/
def execDlCancel (s : State) : Host.Outcome State Fault Refusal :=
  .next (s.fmRun 8 0 1 1 (fun s w =>
    let e := fmEntry w
    if s.feValid e then (s.dlEnd e St.ABORTED, St.OK) else (s, St.ABSENT)))

end Sys2Proof.Machine
end

