-- ==== Sys2Proof/Machine/Chk.lean ====
section
/-! DEFINITION. The check units (R355 to R359) and the scan engine's commands (R361, R362). -/

namespace Sys2Proof.Machine

/-! ## DMA channels, as far as the check units need them -/

/-- What channel `n` holds. -/
def State.ch (s : State) (n : Nat) : DmaChan := Sparse.get (fun _ => DmaChan.none) s.dma.chans n
/-- Replace what channel `n` holds. -/
def State.setCh (s : State) (n : Nat) (c : DmaChan) : State :=
  { s with dma := { s.dma with chans := Sparse.put (fun _ => DmaChan.none) s.dma.chans n c } }

/-- Word `k` of a fetched descriptor. -/
def DmaChan.word (c : DmaChan) (k : Nat) : Word := (c.desc.getD []).getD k 0
/-- The descriptor feeds check unit `u` (R335). -/
def DmaChan.feeds (c : DmaChan) (u : Nat) : Bool := (c.word 0).getLsbD 21 && bits (c.word 0) 15 12 == u

/-- A scan uses check unit `u` (R361). -/
def State.scanUses (s : State) (u : Nat) : Bool :=
  s.rb F.SCAN_CTRL_BUSY && s.rf F.SCAN_CTRL_MODE == 0 && s.rf F.SCAN_CTRL_UNIT == u

/-- The unit is bound: a scan uses it, or a descriptor in RUN holds it (R359). -/
def State.chkBound (s : State) (u : Nat) : Bool :=
  s.scanUses u || s.dma.chans.any (fun e => e.2.bound && e.2.feeds u)

/-! ## Units (R355 to R358) -/

/-- The unit computes the Internet checksum (R356). -/
def State.chkSum (s : State) (u : Nat) : Bool := s.rf (F.CHK_CFG_PRESET u) == 5
/-- Bits of the final value that are compared: WIDTH, or 16 for the checksum (R360, R361). -/
def State.chkWidth (s : State) (u : Nat) : Nat := if s.chkSum u then 16 else s.rf (F.CHK_PCFG_WIDTH u)

/-- INIT (R358). -/
def State.chkInit (s : State) (u : Nat) : State :=
  let s := s.setRegN (R.CHK_VAL u) (s.regN (R.CHK_INIT u) % 2 ^ s.chkWidth u)
  (s.setRegN (R.CHK_AUX u) 0).setRegN (R.CHK_COUNT u) 0

/-- One byte of the Internet checksum: the first of a pair waits in AUX, the second adds the word (R355, R358). -/
def State.sumByte (s : State) (u : Nat) (b : Byte) : State :=
  let aux := s.reg (R.CHK_AUX u)
  if aux.getLsbD 16 then
    (s.setRegN (R.CHK_VAL u) (ocAdd (s.regN (R.CHK_VAL u) % 2 ^ 16) (bits aux 7 0 * 256 + b.toNat))).setRegN (R.CHK_AUX u) 0
  else s.setRegN (R.CHK_AUX u) (2 ^ 16 + b.toNat)

/-- Feed bytes (R357, R358). -/
def State.chkFeed (s : State) (u : Nat) (l : List Byte) : State :=
  let s := s.setRegN (R.CHK_COUNT u) (s.regN (R.CHK_COUNT u) + l.length)
  if s.chkSum u then l.foldl (fun s b => s.sumByte u b) s
  else
    let w := s.rf (F.CHK_PCFG_WIDTH u)
    s.setRegN (R.CHK_VAL u)
      (crcFeed w (s.regN (R.CHK_POLY u)) (s.rb (F.CHK_PCFG_REFIN u)) (s.regN (R.CHK_VAL u) % 2 ^ w) l)

/-- FINAL (R358). -/
def State.chkFinal (s : State) (u : Nat) : Nat :=
  let v := s.regN (R.CHK_VAL u)
  if s.chkSum u then
    let aux := s.reg (R.CHK_AUX u)
    0xFFFF - (if aux.getLsbD 16 then ocAdd (v % 2 ^ 16) (bits aux 7 0 * 256) else v % 2 ^ 16)
  else
    let w := s.rf (F.CHK_PCFG_WIDTH u)
    crcFinal w (s.regN (R.CHK_XOROUT u)) (s.rb (F.CHK_PCFG_REFOUT u)) (v % 2 ^ w)

/-- POLY, INIT, XOROUT and PCFG of a preset (R355, R356). -/
def presetRegs (p : Nat) : Nat × Nat × Nat × Nat :=
  if p = 0 then (0x1EDC6F41, 0xFFFFFFFF, 0xFFFFFFFF, 0xC0000020)
  else if p = 1 then (0x04C11DB7, 0xFFFFFFFF, 0xFFFFFFFF, 0xC0000020)
  else if p = 2 then (0x1021, 0, 0, 0xC0000010)
  else if p = 3 then (0x1021, 0xFFFF, 0, 0x00000010)
  else if p = 4 then (0x07, 0, 0, 0x00000008)
  else (0, 0, 0, 0x00000010)

/-- Refuse a write to a unit: the status in CHK_u_STAT, and EV162 (R359, R369). -/
def State.chkRefuse (s : State) (u code : Nat) : State := s.refuse (R.CHK_STAT u) code 162

/-- A write of PRESET (R356). -/
def State.chkPreset (u : Nat) (v : Word) (s : State) : State :=
  let p := bits v 2 0
  if 6 < p then s.chkRefuse u St.RANGE
  else if s.chkBound u then s.chkRefuse u St.BUSY
  else
    let s := s.wf (F.CHK_CFG_PRESET u) p
    if p = 6 then s.chkInit u
    else
      let r := presetRegs p
      let s := ((s.setRegN (R.CHK_POLY u) r.1).setRegN (R.CHK_INIT u) r.2.1).setRegN (R.CHK_XOROUT u) r.2.2.1
      (s.setRegN (R.CHK_PCFG u) r.2.2.2).chkInit u

/-- CHK_PRESET (R356). -/
def execChkPreset (i : Init) (u : Fin 16) (v : Word) (s : State) : Host.Outcome State Fault Refusal :=
  .next (s.onWrite i (R.CHK_CFG u.val) (State.chkPreset u.val v))

/-- POLY, INIT, XOROUT, PCFG: register `k` of the configuration. -/
def chkCfgReg (u k : Nat) : Nat := R.CHK_POLY u + 4 * k

/-- A write to the configuration (R356): from a preset other than 5 it leads to PRESET 6. -/
def State.chkConfig (i u k : Nat) (v : Word) (s : State) : State :=
  if s.writeRefused i (chkCfgReg u k) v then s.writeReg i (chkCfgReg u k) v
  else if s.chkBound u then s.chkRefuse u St.BUSY
  else
    let s := s.writeReg i (chkCfgReg u k) v
    if s.rf (F.CHK_CFG_PRESET u) ≤ 4 then s.wf (F.CHK_CFG_PRESET u) 6 else s

/-- CHK_CONFIG_WRITE (R356). -/
def execChkConfigWrite (i : Init) (u : Fin 16) (k : Fin 4) (v : Word) (s : State) : Host.Outcome State Fault Refusal :=
  .next (s.onWrite i (chkCfgReg u.val k.val) (State.chkConfig i.val u.val k.val v))

/-- VAL, AUX and COUNT as a core writes them (R358, R359). -/
def State.chkStateWrite (i u a : Nat) (v : Word) (s : State) : State :=
  if s.chkBound u then s.chkRefuse u St.BUSY else s.writeReg i a v

/-- The data registers: DATA, DATA1, DATA2, and the bytes each feeds (R357, R369). -/
def chkDataReg (u k : Nat) : Nat := R.CHK_DATA u + 4 * k
def chkDataLen (k : Nat) : Nat := if k = 0 then 4 else k

/-- A core feeds bytes from bits [7:0] upward (R357). -/
def State.chkData (u k : Nat) (v : Word) (s : State) : State :=
  if s.chkBound u then s.chkRefuse u St.BUSY else s.chkFeed u (natBytes (chkDataLen k) v.toNat)

/-- CHK_DATA_FEED (R357). -/
def execChkDataFeed (i : Init) (u : Fin 16) (k : Fin 3) (v : Word) (s : State) : Host.Outcome State Fault Refusal :=
  .next (s.onWrite i (chkDataReg u.val k.val) (State.chkData u.val k.val v))

/-- A write of CMD (R358, R359). -/
def State.chkCmd (u : Nat) (v : Word) (s : State) : State :=
  if s.chkBound u then s.chkRefuse u St.BUSY else if v.getLsbD 0 then s.chkInit u else s

/-- CHK_INIT (R358). -/
def execChkInit (i : Init) (u : Fin 16) (v : Word) (s : State) : Host.Outcome State Fault Refusal :=
  .next (s.onWrite i (R.CHK_CMD u.val) (State.chkCmd u.val v))

/-! ## Scan engine (R361, R362) -/

/-- The start addresses of a scan. -/
def State.scanAddr (s : State) : Nat := s.regN R.SCAN_ADDR_LO + s.rf F.SCAN_ADDR_HI_HI * 2 ^ 32
def State.scanAddr2 (s : State) : Nat := s.regN R.SCAN_ADDR2_LO + s.rf F.SCAN_ADDR2_HI_HI * 2 ^ 32

/-- A refused GO (R362): BUSY in SCAN_RES, and EV162; the running scan continues. -/
def State.scanBusy (s : State) : State := (s.wf F.SCAN_RES_STATUS St.BUSY).raise 162

/-- A write to SCAN_CTRL (R361): GO starts a scan, which initialises its unit unless CONT is set; STOP asks a running scan to
end. A STOP with no scan running, or beside GO, has nothing to stop. -/
def State.scanCtrl (i : Nat) (v : Word) (s : State) : State :=
  if v.getLsbD 31 then
    if s.rb F.SCAN_CTRL_BUSY then s.scanBusy
    else if !v.getLsbD 28 && s.chkBound (bits v 19 16) then s.scanBusy
    else
      let s := (s.writeReg i R.SCAN_CTRL (v &&& 0xDFFFFFFF)).wb F.SCAN_CTRL_BUSY true
      if s.rf F.SCAN_CTRL_MODE = 0 ∧ !s.rb F.SCAN_CTRL_CONT then s.chkInit (s.rf F.SCAN_CTRL_UNIT) else s
  else if v.getLsbD 29 && !s.rb F.SCAN_CTRL_BUSY then s.writeReg i R.SCAN_CTRL (v &&& 0xDFFFFFFF)
  else if s.rb F.SCAN_CTRL_BUSY then
    -- the running scan keeps the mode and the unit with which it started
    if v.getLsbD 29 then s.wb F.SCAN_CTRL_STOP true else s
  else s.writeReg i R.SCAN_CTRL v

/-- SCAN_GO (R361): a write to SCAN_CTRL with GO. -/
def execScanGo (i : Init) (v : Word) (s : State) : Host.Outcome State Fault Refusal :=
  .next (s.onWrite i R.SCAN_CTRL (State.scanCtrl i.val (v ||| 0x80000000)))

/-- SCAN_STOP (R362): a write to SCAN_CTRL with STOP and without GO. -/
def execScanStop (i : Init) (v : Word) (s : State) : Host.Outcome State Fault Refusal :=
  .next (s.onWrite i R.SCAN_CTRL (State.scanCtrl i.val ((v ||| 0x20000000) &&& 0x7FFFFFFF)))

end Sys2Proof.Machine
end

