-- ==== Sys2Proof/Machine/Dma.lean ====
section
/-! DEFINITION. The DMA channels (R334 to R354): commands, doorbells, fetches, completion, triggers, the Saddle. The bursts
stand in Machine/DmaMove.lean. -/

namespace Sys2Proof.Machine

/-! Channel states (R344). -/
namespace Cs
def OFF : Nat := 0
def IDLE : Nat := 1
def ARMED : Nat := 2
def RUN : Nat := 3
def PAUSED : Nat := 4
def HALT : Nat := 5
end Cs

/-- Channels 0 to 11 are path channels (R334). -/
def isPath (n : Nat) : Bool := decide (n < 12)

/-- The state of a firmware channel. -/
def State.chState (s : State) (n : Nat) : Nat := s.rf (F.CH_STAT_STATE n)
/-- A channel raises its event (R350). -/
def State.chEvent (s : State) (n : Nat) : State := s.raise (128 + n / 4)
/-- Set a cause bit of CHn_STAT, and raise the event (R350). -/
def State.chCause (s : State) (n : Nat) (f : Fld) : State := (s.wb f true).chEvent n
/-- Refuse in CHn_ERR (R345, R368). -/
def State.chRefuse (s : State) (n code : Nat) : State := (s.errSet (R.CH_ERR n) code).chEvent n
/-- Enter a state. -/
def State.chEnter (s : State) (n st : Nat) : State := s.wf (F.CH_STAT_STATE n) st

/-- Enter IDLE with a fetch at HEAD in progress (R338). -/
def State.chFetch (s : State) (n : Nat) : State :=
  (s.setCh n { DmaChan.none with noWait := (s.ch n).noWait }).chEnter n Cs.IDLE

/-- The active ring: base and descriptors (R337). -/
def State.chRing (s : State) (n : Nat) : Nat × Nat :=
  (s.regN (R.CH_RING_LO n) + bits (s.reg (R.CH_RING_HI n)) 3 0 * 2 ^ 32, 2 ^ bits (s.reg (R.CH_RING_HI n)) 11 8)
/-- HEAD. -/
def State.chHead (s : State) (n : Nat) : Nat := bits (s.reg (R.CH_HEAD n)) 11 0
/-- The address of the descriptor at HEAD. -/
def State.chAt (s : State) (n : Nat) : Nat := (s.chRing n).1 + 32 * s.chHead n

/-- Halt with a status (R338, R349). -/
def State.chHalt (s : State) (n st : Nat) : State :=
  let s := s.setCh n DmaChan.none
  ((s.chEnter n Cs.HALT).wf (F.CH_STAT_LSTATUS n) st).chCause n (F.CH_STAT_ERRC n)

/-! ## Checks at the fetch (R336) -/

/-- The region of R22 that holds a range whole. -/
def regionOf (a len : Nat) : Option Nat :=
  if a + len ≤ 0x40000 then some 0
  else if 0x10000000 ≤ a ∧ a + len ≤ 0x11800000 then some 1
  else if 0x40000000 ≤ a ∧ a + len ≤ 0x40800000 then some 2
  else if 0x800000000 ≤ a ∧ a + len ≤ 0xC00000000 then some 3
  else none

/-- The element of a fixed address in bytes (R335). -/
def fwidOf (w0 : Word) : Nat := 2 ^ (2 + bits w0 23 22)
/-- KIND of a descriptor. -/
def kindOf (w0 : Word) : Nat := bits w0 27 26
/-- The source and destination addresses of a descriptor. -/
def srcOf (d : List Word) : Nat := (d.getD 2 0).toNat + bits (d.getD 3 0) 3 0 * 2 ^ 32
def dstOf (d : List Word) : Nat := (d.getD 4 0).toNat + bits (d.getD 5 0) 3 0 * 2 ^ 32
/-- LEN. -/
def lenOf (d : List Word) : Nat := bits (d.getD 1 0) 23 0

/-- The fields that must be zero are zero (R335, R336). -/
def zerosOk (d : List Word) : Bool :=
  let w0 := d.getD 0 0
  bits w0 18 16 == 0 && bits w0 11 0 == 0 && bits (d.getD 1 0) 31 24 == 0 &&
    bits (d.getD 3 0) 31 4 == 0 && bits (d.getD 5 0) 31 4 == 0 &&
    (kindOf w0 != 1 || srcOf d == 0) && (kindOf w0 != 2 || (dstOf d == 0 && bits (d.getD 6 0) 30 13 == 0))

/-- A source or destination: its range, and the rules for a fixed address (R336). -/
def sideOk (a len fwid : Nat) (fixed : Bool) : Bool :=
  if fixed then (regionOf a fwid).isSome && a % fwid == 0 && len % fwid == 0 && (regionOf a fwid != some 2 || fwid == 4)
  else (regionOf a len).isSome

/-- The outcome of the check of a fetched descriptor (R336): OK, or the refusal. -/
def State.dmaCheck (s : State) (n : Nat) (d : List Word) : Nat :=
  let w0 := d.getD 0 0
  let k := kindOf w0
  let len := lenOf d
  if k = 3 then St.TYPE
  else if !zerosOk d || (if k = 2 then decide (len < 14 ∨ 11454 < len) else decide (len < 1)) ||
      (w0.getLsbD 21 && k != 0) || (w0.getLsbD 19 && !w0.getLsbD 21) then St.RANGE
  else if (k != 1 && !sideOk (srcOf d) len (fwidOf w0) (w0.getLsbD 25)) ||
      (k != 2 && !sideOk (dstOf d) len (fwidOf w0) (w0.getLsbD 24)) then St.RANGE
  else if (k = 1 ∧ w0.getLsbD 25) ∨ (k = 2 ∧ w0.getLsbD 24) then St.RANGE
  else if k = 2 ∧ s.rf (F.CH_CFG_IPORT n) = 0 then St.RANGE
  else if ((k != 1 && isDram (srcOf d)) || (k != 2 && isDram (dstOf d))) && !s.ready Fn.DRAM then St.NOTREADY
  else if k = 2 ∧ !s.ready Fn.PACKET then St.NOTREADY
  else St.OK

/-! ## Fetch (R338) -/

/-- A descriptor enters RUN, and holds the unit it names when that unit is free (R359). -/
def State.chRun (s : State) (n : Nat) : State :=
  let c := s.ch n
  let u := bits (c.word 0) 15 12
  (s.setCh n { c with bound := (c.word 0).getLsbD 21 && !s.chkBound u }).chEnter n Cs.RUN

/-- An owned descriptor has been fetched (R336, R338). -/
def State.chTake (s : State) (n : Nat) (d : List Word) : State :=
  let st := s.dmaCheck n d
  let go := (s.ch n).noWait
  let c := { DmaChan.none with desc := some d }
  if st ≠ St.OK then (s.setCh n { c with ended := some st }).chEnter n Cs.RUN
  else if (d.getD 0 0).getLsbD 29 && !go then (s.setCh n c).chEnter n Cs.ARMED
  else (s.setCh n c).chRun n

/-- DESCRIPTOR_FETCH (R338): a fetch in progress ends; `hw` says that it ended with a bus error. -/
def execDescriptorFetch (n : Fin 128) (hw : Bool) (s : State) : Host.Outcome State Fault Refusal :=
  let k := n.val
  let c := s.ch k
  if isPath k || s.chState k != Cs.IDLE || c.parked then .next s
  else
    let a := s.chAt k
    if hw || !s.readable a 32 then .next (s.chHalt k St.HW)
    else if s.eccBad a 32 then .next ((s.eccRead Ini.DMA a 32).chHalt k St.CHECK)
    else
      let s := s.eccRead Ini.DMA a 32
      let d := s.words a 8
      if (d.getD 0 0).getLsbD 31 then .next (s.chTake k d)
      else if c.bell then .next (s.setCh k { c with bell := false })
      else .next (s.setCh k { c with parked := true })

/-- A doorbell (R338). -/
def State.chDoorbell (n : Nat) (v : Word) (s : State) : State :=
  if isPath n then s.chRefuse n St.RIGHTS
  else if v.getLsbD 0 && s.chState n == Cs.IDLE then
    let c := s.ch n
    if c.parked then s.setCh n { c with parked := false } else s.setCh n { c with bell := true }
  else s

/-- DOORBELL (R338). -/
def execDoorbell (i : Init) (n : Fin 128) (v : Word) (s : State) : Host.Outcome State Fault Refusal :=
  .next (s.onWrite i (R.CH_DOORBELL n.val) (State.chDoorbell n.val v))

/-! ## The end of a descriptor (R337, R349, R360) -/

/-- CHECK_COMPARE (R360): the status and word 6 after the unit's final value. -/
def State.chCompare (s : State) (c : DmaChan) (st : Nat) : Nat × Option Word :=
  let w0 := c.word 0
  let u := bits w0 15 12
  if !w0.getLsbD 21 ∨ !c.begun then (st, none)
  else
    let f := s.chkFinal u
    if !w0.getLsbD 19 then (st, some (BitVec.ofNat 32 f))
    else
      let m := 2 ^ s.chkWidth u
      (if st = St.OK ∧ f % m ≠ (c.word 6).toNat % m then St.CHECK else st, none)

/-- A partly moved INJECT frame is discarded and its units are released (R348, R349). -/
def State.chDiscard (s : State) (n : Nat) (c : DmaChan) : State :=
  if c.charged then s.release (10 + s.rf (F.CH_CFG_IPORT n)) (unitsOf (lenOf (c.desc.getD []))) else s

/-- HEAD advances, modulo the ring size. -/
def State.chAdvance (s : State) (n : Nat) : State := s.setRegN (R.CH_HEAD n) ((s.chHead n + 1) % (s.chRing n).2)

/-- The words of a descriptor are in an unknown state: free values (R337). -/
def State.chUnknown (s : State) (a : Nat) : Nat → State
  | 0 => s
  | k + 1 => (s.used.chUnknown a k).write32 (a + 4 * k) (BitVec.ofNat 32 s.free)

/-- After the hand-back: what waits at the boundary takes effect (R345, R347, R349). -/
def State.chBoundary (s : State) (n : Nat) (halts : Bool) : State :=
  let stop := s.rb (F.CH_STAT_SPEND n)
  let pause := s.rb (F.CH_STAT_PPEND n)
  let s := ((s.wb (F.CH_STAT_SPEND n) false).wb (F.CH_STAT_PPEND n) false).setCh n DmaChan.none
  if stop then s.chEnter n Cs.OFF
  else if halts then s.chEnter n Cs.HALT
  else if pause then s.chEnter n Cs.PAUSED
  else s.chFetch n

/-- A descriptor ends with `st`: the write-back of words 6, 7 and 0 in this order, HEAD, and the channel's next state. `fail`
says that a write of the write-back ended with a bus error (R337). -/
def State.chComplete (s : State) (n st : Nat) (fail : Bool) : State :=
  let c := s.ch n
  let a := s.chAt n
  let x := s.chCompare c st
  let s := if st = St.OK then s else s.chDiscard n c
  if fail || !s.writable Ini.DMA a 32 then
    let s := (if s.writable Ini.DMA a 32 then s.chUnknown a 8 else s).chAdvance n
    ((s.wf (F.CH_STAT_LSTATUS n) St.HW).chCause n (F.CH_STAT_ERRC n)).chBoundary n true
  else
    let s := match x.2 with
      | none => s
      | some w => s.store Ini.DMA (a + 24) (wordBytes [w])
    let s := s.store Ini.DMA (a + 28) (wordBytes [BitVec.ofNat 32 (c.moved * 256 + x.1)])
    let s := (s.store Ini.DMA a (wordBytes [c.word 0 &&& 0x7FFFFFFF])).chAdvance n
    let s := s.wf (F.CH_STAT_LSTATUS n) x.1
    if st ≠ St.OK then (s.chCause n (F.CH_STAT_ERRC n)).chBoundary n true
    else if x.1 ≠ St.OK then ((s.wb (F.CH_STAT_DONE n) true).chCause n (F.CH_STAT_ERRC n)).chBoundary n false
    else (if (c.word 0).getLsbD 30 then s.chCause n (F.CH_STAT_DONE n) else s).chBoundary n false

/-- DESCRIPTOR_COMPLETE (R337): a descriptor that has ended is written back. -/
def execDescriptorComplete (n : Fin 128) (fail : Bool) (s : State) : Host.Outcome State Fault Refusal :=
  if isPath n.val || s.chState n.val != Cs.RUN then .next s
  else
    match (s.ch n.val).ended with
    | none => .next s
    | some st => .next (s.chComplete n.val st fail)

/-! ## The Saddle (R351 to R354) -/

/-- The shadow ring: base and descriptors. -/
def State.shRing (s : State) (n : Nat) : Nat × Nat :=
  (s.regN (R.CH_SRING_LO n) + s.rf (F.CH_SRING_HI_BASE n) * 2 ^ 32, 2 ^ s.rf (F.CH_SRING_HI_SIZE n))

/-- The checks at the Saddle (R354). -/
def State.saddleOk (s : State) (n : Nat) : Bool :=
  s.ringPlaced (s.shRing n).1 (32 * (s.shRing n).2) && decide (s.rf (F.CH_SHEAD_HEAD n) < (s.shRing n).2)

/-- A hand-over that fails its checks (R354). -/
def State.saddleFail (s : State) (n : Nat) : State := (s.wb (F.CH_SADDLE_ARM n) false).chRefuse n St.RANGE

/-- The hand-over (R351, R353). -/
def State.saddleTake (s : State) (n : Nat) : State :=
  let s := (s.setReg (R.CH_CFG n) (s.reg (R.CH_SCFG n))).setReg (R.CH_RING_LO n) (s.reg (R.CH_SRING_LO n))
  let s := (s.setReg (R.CH_RING_HI n) (s.reg (R.CH_SRING_HI n))).setRegN (R.CH_HEAD n) (s.rf (F.CH_SHEAD_HEAD n))
  let s := (s.wf (F.CH_SADDLE_GEN n) (s.rf (F.CH_SADDLE_GEN n) + 1)).wb (F.CH_SADDLE_TAKEN n) true
  let s := (s.wb (F.CH_SADDLE_ARM n) false).wb (F.CH_SADDLE_DIRTY n) false
  let s := if s.rb (F.CH_CFG_SADEV n) then s.chCause n (F.CH_STAT_SADF n) else s
  if s.chState n = Cs.ARMED ∨ s.chState n = Cs.IDLE then s.chFetch n else s.setCh n DmaChan.none

/-- SADDLE (R351): a hand-over for WHEN 0, at a descriptor boundary. -/
def execSaddle (n : Fin 128) (s : State) : Host.Outcome State Fault Refusal :=
  let k := n.val
  if isPath k || !s.rb (F.CH_SADDLE_ARM k) || s.rb (F.CH_SADDLE_WHEN k) || s.chState k == Cs.RUN then .next s
  else if s.saddleOk k then .next (s.saddleTake k) else .next (s.saddleFail k)

/-- A write to a shadow register (R353, R354, R368). -/
def State.shadowWrite (i n a : Nat) (v : Word) (s : State) : State :=
  if isPath n then s.chRefuse n St.RIGHTS
  else if s.writeRefused i a v then s.writeReg i a v
  else (s.writeReg i a v).wb (F.CH_SADDLE_DIRTY n) true

/-- The shadow registers in the order of R368. -/
def shadowReg (n k : Nat) : Nat := R.CH_SCFG n + 4 * k

/-- SHADOW_WRITE (R353). -/
def execShadowWrite (i : Init) (n : Fin 128) (k : Fin 4) (v : Word) (s : State) : Host.Outcome State Fault Refusal :=
  .next (s.onWrite i (shadowReg n.val k.val) (State.shadowWrite i.val n.val (shadowReg n.val k.val) v))

/-- A write to CHn_SADDLE. -/
def State.saddleWrite (i n : Nat) (v : Word) (s : State) : State :=
  if isPath n then s.chRefuse n St.RIGHTS else s.writeReg i (R.CH_SADDLE n) v

/-- SADDLE_ARM (R351): a write to CHn_SADDLE with ARM. -/
def execSaddleArm (i : Init) (n : Fin 128) (v : Word) (s : State) : Host.Outcome State Fault Refusal :=
  .next (s.onWrite i (R.CH_SADDLE n.val) (State.saddleWrite i.val n.val (v ||| 0x80000000)))

/-! ## Triggers (R343, R351) -/

/-- CHn_TSTART records the grid time of a trigger. -/
def State.setTstart (s : State) (n t : Nat) : State :=
  { s.setRegN (R.CH_TSTART_LO n) t with dma := { s.dma with tstart := Sparse.putN s.dma.tstart n (t / 2 ^ 32) } }

/-- A read of CHn_TSTART_LO latches the upper half (R368). -/
def State.tstartLatch (s : State) (n : Nat) : State := s.setRegN (R.CH_TSTART_HI n) (Sparse.getN s.dma.tstart n)

/-- A start trigger taken in ARMED: a WHEN 1 hand-over consumes it unless its checks fail. -/
def State.chTrigger (s : State) (n t : Nat) : State :=
  let s := s.setTstart n t
  if s.rb (F.CH_SADDLE_ARM n) && s.rb (F.CH_SADDLE_WHEN n) then
    if s.saddleOk n then
      let s := s.saddleTake n
      s.setCh n { s.ch n with noWait := true }
    else (s.saddleFail n).chRun n
  else s.chRun n

/-- A start strobe reaches channel `k` (R343). -/
def State.dmaStrobe (s : State) (k t : Nat) : State :=
  if isPath k || !s.rb (F.CH_CFG_TRIG k) then s
  else if s.chState k = Cs.ARMED then s.chTrigger k t
  else (s.wf (F.CH_CNT_TRIGMISS k) (min (s.rf (F.CH_CNT_TRIGMISS k) + 1) 0xFFFF)).chCause k (F.CH_STAT_TRIGMISS k)

/-- DMA_TRIGGER_STROBE (R343). -/
def execDmaTriggerStrobe (n : Fin 128) (stamp : GTime) (s : State) : Host.Outcome State Fault Refusal :=
  .next (s.dmaStrobe n.val stamp.toNat)

/-! ## Commands (R345 to R348) -/

/-- A command that the table rejects (R346). -/
def State.chReject (s : State) (n : Nat) : State := (s.bump R.DMA_CNT_STATE).chRefuse n St.STATE

/-- ENABLE. -/
def State.chEnable (s : State) (n : Nat) : State :=
  let st := s.chState n
  if st = Cs.OFF then s.chFetch n else if st = Cs.HALT then s.chReject n else s

/-- START. -/
def State.chStart (s : State) (n : Nat) : State := if s.chState n = Cs.ARMED then s.chTrigger n s.gtN else s.chReject n

/-- PAUSE. -/
def State.chPause (s : State) (n : Nat) : State :=
  let st := s.chState n
  if st = Cs.IDLE ∨ st = Cs.ARMED then s.chEnter n Cs.PAUSED
  else if st = Cs.RUN then s.wb (F.CH_STAT_PPEND n) true
  else if st = Cs.PAUSED then s else s.chReject n

/-- RESUME: an ARMED channel that was paused returns to ARMED with its descriptor (R347). -/
def State.chResume (s : State) (n : Nat) : State :=
  if s.chState n ≠ Cs.PAUSED then s.chReject n
  else if (s.ch n).desc.isSome then s.chEnter n Cs.ARMED else s.chFetch n

/-- STOP. -/
def State.chStop (s : State) (n : Nat) : State :=
  let st := s.chState n
  if st = Cs.OFF then s
  else if st = Cs.RUN then s.wb (F.CH_STAT_SPEND n) true
  else (s.setCh n DmaChan.none).chEnter n Cs.OFF

/-- ABORT (R348): commands stand between bursts, so the descriptor in RUN ends at once, unless it has ended already. -/
def State.chAbort (s : State) (n : Nat) : State :=
  let st := s.chState n
  let u := (s.wb (F.CH_STAT_PPEND n) false).wb (F.CH_STAT_SPEND n) false
  if st = Cs.RUN then
    let c := u.ch n
    if c.ended.isSome then u else u.setCh n { c with ended := some St.ABORTED }
  else if st = Cs.ARMED then u.chComplete n St.ABORTED false
  else if st = Cs.HALT then s else s.chReject n

/-- CLEAR. -/
def State.chClear (s : State) (n : Nat) : State := if s.chState n = Cs.HALT then s.chFetch n else s.chReject n

/-- A write of `opc` to CHn_CMD (R345). -/
def State.chCmd (n opc : Nat) (s : State) : State :=
  if isPath n then s.chRefuse n St.RIGHTS
  else if opc = 1 then s.chEnable n
  else if opc = 2 then s.chStart n
  else if opc = 3 then s.chPause n
  else if opc = 4 then s.chResume n
  else if opc = 5 then s.chStop n
  else if opc = 6 then s.chAbort n
  else if opc = 7 then s.chClear n
  else s.chRefuse n St.TYPE

/-- DMA_ENABLE (R345). -/
def execDmaEnable (i : Init) (n : Fin 128) (s : State) : Host.Outcome State Fault Refusal :=
  .next (s.onWrite i (R.CH_CMD n.val) (State.chCmd n.val 1))
/-- DMA_START (R343, R345). -/
def execDmaStart (i : Init) (n : Fin 128) (s : State) : Host.Outcome State Fault Refusal :=
  .next (s.onWrite i (R.CH_CMD n.val) (State.chCmd n.val 2))
/-- DMA_PAUSE (R345). -/
def execDmaPause (i : Init) (n : Fin 128) (s : State) : Host.Outcome State Fault Refusal :=
  .next (s.onWrite i (R.CH_CMD n.val) (State.chCmd n.val 3))
/-- DMA_RESUME (R345). -/
def execDmaResume (i : Init) (n : Fin 128) (s : State) : Host.Outcome State Fault Refusal :=
  .next (s.onWrite i (R.CH_CMD n.val) (State.chCmd n.val 4))
/-- DMA_STOP (R345). -/
def execDmaStop (i : Init) (n : Fin 128) (s : State) : Host.Outcome State Fault Refusal :=
  .next (s.onWrite i (R.CH_CMD n.val) (State.chCmd n.val 5))
/-- DMA_ABORT (R348). -/
def execDmaAbort (i : Init) (n : Fin 128) (s : State) : Host.Outcome State Fault Refusal :=
  .next (s.onWrite i (R.CH_CMD n.val) (State.chCmd n.val 6))
/-- DMA_CLEAR (R345). -/
def execDmaClear (i : Init) (n : Fin 128) (s : State) : Host.Outcome State Fault Refusal :=
  .next (s.onWrite i (R.CH_CMD n.val) (State.chCmd n.val 7))

/-! ## INJECT (R340) -/

/-- INJECT_UNITS_GRANT (R340): an INJECT whose units were refused obtains them; its bursts then store the frame. -/
def execInjectUnitsGrant (n : Fin 128) (s : State) : Host.Outcome State Fault Refusal :=
  let k := n.val
  let c := s.ch k
  if isPath k || s.chState k != Cs.RUN || c.ended.isSome || kindOf (c.word 0) != 2 || !c.begun || c.charged then .next s
  else
    match s.charge (10 + s.rf (F.CH_CFG_IPORT k)) (unitsOf (lenOf (c.desc.getD []))) with
    | none => .next s
    | some s => .next (s.setCh k { c with charged := true })

/-- The last byte of an INJECT frame has been stored (R340): header words 0 to 2, and the PPE or the named queue. -/
def State.injectStore (s : State) (n : Nat) (d : List Word) (data : List Byte) : State :=
  let ip := 10 + s.rf (F.CH_CFG_IPORT n)
  let r := s.putFrame ip data (hdrWords ip data.length false false s.gt 0 0)
  let arg := d.getD 6 0
  if arg.getLsbD 31 then
    let q := bits arg 12 0
    let s := r.1.setHdr r.2 12 (BitVec.ofNat 32 (0x40000000 + q))
    (s.setPkt (fun p => { p with qmgIn := p.qmgIn ++ [(r.2, q)] })).qmgSync
  else r.1.toPpe r.2

end Sys2Proof.Machine
end

