-- ==== Sys2Proof/Machine/Drc.lean ====
section
/-! DEFINITION. On-chip SRAM and the DRAM controller (R412 to R439): memory accesses through the code, scrubbing, request
scheduling, row-activation counting, training, self-refresh, the dump basin, error injection. -/

namespace Sys2Proof.Machine

/-! ## Memory accesses (R21, R413 to R415, R435, R443) -/

/-- A range lies in secure SRAM. -/
def inSecure (a len : Nat) : Bool := decide (0x11380000 ≤ a ∧ a + len ≤ 0x113C0000)

/-- CRY and PKE alone reach secure SRAM (R21). -/
def secureOf (i a len : Nat) : Bool := (i == Ini.CRY || i == Ini.PKE) && inSecure a len

/-- The debug port is closed until it is unlocked (R407). -/
def State.debugShut (s : State) (i : Nat) : Bool := i == Ini.DEBUG && s.rf F.PKE_DBGSTAT_SCOPE == 0

/-- A read of memory by an initiator: the data, or a bus error on an uncorrectable word, which in secure SRAM is an alarm
(R394, R415). -/
def State.memRead (s : State) (i : Init) (a len : Nat) : State :=
  let d := s.bytes a len
  if s.eccBad a len then
    let s := (s.eccRead i.val a len).busErr i a
    if inSecure a len then s.alarm 6 else s
  else (s.eccRead i.val a len).emit (.memData i d)

/-- MEMORY_ACCESS (R413). -/
def execMemoryAccess (i : Init) (a : BitVec 36) (op : MemOp) (s : State) : Host.Outcome State Fault Refusal :=
  match op with
  | .read n =>
    if !s.debugShut i.val && (s.readable a.toNat n || secureOf i.val a.toNat n) then .next (s.memRead i a.toNat n)
    else .next (s.busErr i a.toNat)
  | .write d =>
    if !s.debugShut i.val && (s.writable i.val a.toNat d.length || secureOf i.val a.toNat d.length) then
      .next (s.store i.val a.toNat d)
    else .next (s.busErr i a.toNat)

/-! ## Scrubbing (R416 to R418) -/

/-- Bytes of SRAM; bytes of DRAM fitted: the usable part is seven eighths (R419, R420). -/
def sramSize : Nat := 0x1800000
def State.fitted (s : State) : Nat := s.usable / 7 * 8

/-- A fraction of a pass done is behind the fraction of its period elapsed by more than 1/16 (R417): `done` of `total` after
`el` of `per` ticks. -/
def behind (done total el per : Nat) : Bool := decide (16 * done * per + total * per < 16 * el * total)

/-- The scrubber reads now: inside its window, or while it is behind. -/
def State.scrubs (s : State) (dram : Bool) : Bool :=
  let t := s.gtu.ticks
  if dram then
    s.rb F.DRC_CTRL_SCRUB && s.rf F.DRC_STAT_STATE == 2 &&
      (s.rb F.DRC_STAT_INWIN || behind (64 * s.rf F.DRC_SCRUBPOS_POS) s.fitted (t - s.drc.passDram) (s.rf F.DRC_SCRUBPER_SEC * 10 ^ 9))
  else
    s.rb F.SRM_CTRL_SCRUB &&
      (s.rb F.SRM_STAT_INWIN || behind (s.rf F.SRM_POS_POS) sramSize (t - s.drc.passSram) (s.rf F.SRM_SCRUBPER_SEC * 10 ^ 9))

/-- Correctable words of a range. -/
def State.ceWords (s : State) (a len : Nat) : Nat := ((s.eccKeys a len).filter (fun k => s.eccOf (8 * k) == 1)).length

/-- The SRAM scrubber's next word. -/
def State.scrubSram (s : State) : State :=
  let pos := s.rf F.SRM_POS_POS
  let a := 0x10000000 + pos
  let s := (s.bumpBy R.SRM_CNT_SCRUBCE (s.ceWords a 8)).eccWords 0xFF (s.eccKeys a 8)
  if pos + 8 < sramSize then
    (s.wf F.SRM_POS_POS (pos + 8)).wf F.SRM_STAT_PROG ((pos + 8) * 65536 / sramSize)
  else
    let s := (((s.wf F.SRM_POS_POS 0).wf F.SRM_STAT_PROG 0).wb F.SRM_STAT_BEHIND false).bump R.SRM_CNT_PASS
    s.setDrc (fun d => { d with passSram := s.gtu.ticks, doneSram := s.gtu.ticks })

/-- The DRAM scrubber's next line; beyond the usable part lie the check lines, which no initiator reaches (R420). -/
def State.scrubDram (s : State) : State :=
  let pos := s.rf F.DRC_SCRUBPOS_POS
  let a := dramBase + 64 * pos
  let s := (s.bumpBy R.DRC_CNT_SCRUBCE (s.ceWords a 64)).eccWords 0xFF (s.eccKeys a 64)
  if 64 * (pos + 1) < s.fitted then s.wf F.DRC_SCRUBPOS_POS (pos + 1)
  else
    ((s.wf F.DRC_SCRUBPOS_POS 0).wb F.DRC_STAT_BEHIND false).setDrc (fun d => { d with passDram := s.gtu.ticks })

/-- SCRUB_READ (R416, R417). -/
def execScrubRead (dram : Bool) (s : State) : Host.Outcome State Fault Refusal :=
  if !s.scrubs dram then .next s
  else if dram then .next s.scrubDram else .next s.scrubSram

/-- SCRUB_OVERDUE (R417): a pass is not complete at the end of its period; it runs on. -/
def execScrubOverdue (dram : Bool) (s : State) : Host.Outcome State Fault Refusal :=
  if dram then
    if s.rb F.DRC_CTRL_SCRUB then .next ((s.wb F.DRC_STAT_BEHIND true).raise 182) else .next s
  else if s.rb F.SRM_CTRL_SCRUB then .next ((s.wb F.SRM_STAT_BEHIND true).raise 178) else .next s

/-- The strobes of a background window (R417): an unreached memory has none. -/
def State.bgWindow (s : State) (dram openIt : Bool) : State :=
  if dram then s.wb F.DRC_STAT_INWIN openIt else s.wb F.SRM_STAT_INWIN openIt

/-- BACKGROUND_WINDOW_OPEN (R417). -/
def execBackgroundWindowOpen (dram : Bool) (s : State) : Host.Outcome State Fault Refusal := .next (s.bgWindow dram true)
/-- BACKGROUND_WINDOW_CLOSE (R417). -/
def execBackgroundWindowClose (dram : Bool) (s : State) : Host.Outcome State Fault Refusal := .next (s.bgWindow dram false)

/-- How many of a list of ticks lie within the last second. -/
def State.lastSecond (s : State) (l : List Nat) : Nat := (l.filter (fun t => decide (s.gtu.ticks < t + 10 ^ 9))).length

/-- CE_ALARM (R418): the corrections of the last second exceed the limit; they count for one alarm. -/
def execCeAlarm (dram : Bool) (s : State) : Host.Outcome State Fault Refusal :=
  if dram then
    if s.rf F.DRC_CEALM_N < s.lastSecond s.drc.ceDram then .next ((s.setDrc (fun d => { d with ceDram := [] })).raise 180)
    else .next s
  else if s.rf F.SRM_CEALM_N < s.lastSecond s.drc.ceSram then
    .next ((s.setDrc (fun d => { d with ceSram := [] })).raise 176)
  else .next s

/-! ## Where a DRAM address lies (R420) -/

/-- Channel, bank (0 to 15) and row of an offset. -/
def dramChan (a : Nat) : Nat := (a / 2 ^ 8 % 4) ^^^ (a / 2 ^ 17 % 4)
def dramBank (a : Nat) : Nat := (a / 2 ^ 10 % 16) ^^^ (a / 2 ^ 17 % 16)
def dramRow (a : Nat) : Nat := a / 2 ^ 17
/-- The number of a bank over all channels. -/
def bankKey (a : Nat) : Nat := 16 * dramChan a + dramBank a

/-! ## Row-activation counting (R426, R427) -/

/-- The lowest count of a table. -/
def raaMin (l : List (Nat × Nat)) : Nat := l.foldl (fun m e => min m e.2) (l.headD (0, 0)).2

/-- Replace the `k`-th of the entries whose count is `m`. -/
def raaPut (m row : Nat) : Nat → List (Nat × Nat) → List (Nat × Nat)
  | _, [] => []
  | k, e :: l => if e.2 = m then (if k = 0 then (row, m + 1) :: l else e :: raaPut m row (k - 1) l) else e :: raaPut m row k l

/-- Count an activation; which of several lowest entries is replaced is not given: a free value. -/
def State.raaCount (s : State) (bank row : Nat) : State :=
  let l := Sparse.get (fun _ => []) s.drc.raa bank
  let put (s : State) (l : List (Nat × Nat)) : State := s.setDrc (fun d => { d with raa := Sparse.put (fun _ => []) d.raa bank l })
  if l.any (fun e => e.1 == row) then put s (l.map (fun e => if e.1 = row then (row, e.2 + 1) else e))
  else if l.length < 32 then put s (l ++ [(row, 1)])
  else
    let m := raaMin l
    put s.used (raaPut m row (s.free % max 1 (l.filter (fun e => e.2 == m)).length) l)

/-- The neighbours of a row that exist. -/
def State.raaRows (s : State) (row : Nat) : List Nat :=
  let near := [row + 1] ++ (if 1 ≤ row then [row - 1] else [])
  let far := if s.rb F.DRC_CTRL_BLAST2 then [row + 2] ++ (if 2 ≤ row then [row - 2] else []) else []
  (near ++ far).filter (fun r => decide (r < s.fitted / 2 ^ 17))

/-- Neighbour refreshes or RFMs are counted, with their ticks (R427). -/
def State.nrefs (s : State) (cnt n : Nat) : State :=
  (s.bumpBy cnt n).setDrc (fun d => { d with nrefAt := (List.replicate n s.gtu.ticks ++ d.nrefAt).take 65536 })

/-- A row that has reached THR activations (R426). -/
def State.raaServe (s : State) (bank row : Nat) : State :=
  let l := Sparse.get (fun _ => []) s.drc.raa bank
  if l.any (fun e => e.1 == row && decide (s.rf F.DRC_RAA_THR ≤ e.2)) then
    let s := if s.rb F.DRC_CTRL_RFMEN && Config.rfmAdvertised then s.nrefs R.DRC_CNT_RFM 1
      else s.nrefs R.DRC_CNT_NREF (s.raaRows row).length
    s.setDrc (fun d => { d with raa := Sparse.put (fun _ => []) d.raa bank (l.map (fun e => if e.1 = row then (row, 0) else e)) })
  else s

/-- RAA_TABLE_CLEAR (R426). -/
def execRaaTableClear (s : State) : Host.Outcome State Fault Refusal := .next (s.setDrc (fun d => { d with raa := [] }))

/-- NREF_ALARM (R427). -/
def execNrefAlarm (s : State) : Host.Outcome State Fault Refusal :=
  if s.rf F.DRC_NREFALM_N < s.lastSecond s.drc.nrefAt then .next ((s.setDrc (fun d => { d with nrefAt := [] })).raise 183)
  else .next s

/-! ## Request scheduling (R421, R422) -/

/-- The class of a source (R421). -/
def State.dramClass (s : State) (src : Nat) : Nat :=
  if src < 16 then bits (s.reg R.DRC_CLASS_LO) (2 * src + 1) (2 * src)
  else if src ≤ 20 then bits (s.reg R.DRC_CLASS_HI) (2 * (src - 16) + 1) (2 * (src - 16))
  else if src = 21 then s.rf F.DRC_CLASS_HI_STP else 3

/-- A request reaches the controller (R419, R429, R431): a bus error outside RUN and SRIDLE, or beyond the usable size. -/
def State.dramArrive (s : State) (x : DramArrival) : State :=
  let o := x.offset.toNat
  if !s.dramServes || !decide (o < s.usable) then
    if h : x.src.val < 21 then s.busErr ⟨x.src.val, h⟩ (dramBase + o) else s
  else (s.dramTouch (dramBase + o)).setDrc (fun d => { d with reqs := d.reqs ++ [⟨x.src.val, o, s.dramClass x.src.val⟩] })

/-- The requests of a channel in the lowest class. -/
def classFirst (l : List DramReq) : List DramReq :=
  l.filter (fun r => decide (∀ x ∈ l, r.cls ≤ x.cls))

/-- A request goes to the open row of its bank. -/
def State.rowHit (s : State) (r : DramReq) : Bool := Sparse.getN s.drc.openRow (bankKey r.offset) == dramRow r.offset + 1

/-- The request a channel serves next: of the lowest class the oldest, or an older hit's precedence within HITCAP (R422). -/
def State.dramPick (s : State) (chan : Nat) : Option DramReq :=
  let l := classFirst (s.drc.reqs.filter (fun r => dramChan r.offset == chan))
  match l.find? (fun r => s.rowHit r && decide (Sparse.getN s.drc.hits (bankKey r.offset) < s.rf F.DRC_HITCAP_CAP)) with
  | some r => some r
  | none => l.head?

/-- Serve a request: a hit, or an activation of its row. -/
def State.dramServe (s : State) (r : DramReq) : State :=
  let b := bankKey r.offset
  let hit := s.rowHit r
  let s := s.setDrc (fun d => { d with reqs := d.reqs.erase r })
  if hit then s.setDrc (fun d => { d with hits := Sparse.putN d.hits b (Sparse.getN d.hits b + 1) })
  else
    let s := s.setDrc (fun d => { d with openRow := Sparse.putN d.openRow b (dramRow r.offset + 1), hits := Sparse.putN d.hits b 0 })
    (s.raaCount b (dramRow r.offset)).raaServe b (dramRow r.offset)

/-- DRAM_REQUEST (R422): requests arrive, and a channel serves its next one. The bytes that a request moves are those of the
command that issued it; this command is its passage through the controller. -/
def execDramRequest (arrive : List DramArrival) (chan : Fin 4) (s : State) : Host.Outcome State Fault Refusal :=
  let s := arrive.foldl (fun s x => s.dramArrive x) s
  match s.dramPick chan.val with
  | none => .next s
  | some r => if s.rf F.DRC_STAT_STATE = 2 then .next (s.dramServe r) else .next s

/-- REQUEST_PROMOTE (R422): the `k`-th waiting request, when its class is 1 or 2. -/
def execRequestPromote (k : Nat) (s : State) : Host.Outcome State Fault Refusal :=
  match s.drc.reqs[k]? with
  | none => .next s
  | some r =>
    if r.cls = 1 ∨ r.cls = 2 then
      .next ((s.setDrc (fun d => { d with reqs := d.reqs.set k { r with cls := r.cls - 1 } })).bump R.DRC_CNT_PROMOTE)
    else .next s

/-- DRAM_REFRESH (R425): a bank is refreshed, which closes its row. Refreshes are not issued outside RUN (R431). -/
def execDramRefresh (chan : Fin 4) (bank : Fin 16) (s : State) : Host.Outcome State Fault Refusal :=
  if s.rf F.DRC_STAT_STATE ≠ 2 then .next s
  else
    let b := 16 * chan.val + bank.val
    .next (s.setDrc (fun d => { d with openRow := Sparse.putN d.openRow b 0, hits := Sparse.putN d.hits b 0 }))

/-- Some channel's code requires more than the base rate. -/
def rateAbove (codes : Word) : Bool :=
  [0, 1, 2, 3].any (fun c => Config.refreshAbove (bits codes (8 * c + 7) (8 * c)))

/-- MR4_POLL (R425): the codes of the four channels; EV187 when a channel needs more than the base rate, once per change. -/
def execMr4Poll (codes : Word) (s : State) : Host.Outcome State Fault Refusal :=
  if s.rf F.DRC_STAT_STATE ≠ 2 then .next s
  else
    let old := s.reg R.DRC_TEMP
    let s := s.setReg R.DRC_TEMP codes
    if rateAbove codes && codes != old then .next (s.raise 187) else .next s

/-! ## States, commands and training (R428 to R432) -/

/-- Whole DRAM contents that are not kept read as after power-on. -/
def State.dramLost (s : State) : State :=
  { s with mem := s.mem.filter (fun c => !isDram c.1), ecc := Sparse.drop (fun k => isDram (8 * k)) s.ecc }

/-- Enter a state (R428): EV185 on a change, and the DRAM step of R505 holds in RUN and SRIDLE. -/
def State.drcEnter (s : State) (st : Nat) : State :=
  let old := s.rf F.DRC_STAT_STATE
  if st = old then s
  else
    let s := (s.wf F.DRC_STAT_STATE st).raise 185
    let s := if st = 2 ∨ st = 3 then s else s.setDrc (fun d => { d with openRow := [], hits := [], raa := [] })
    let s := if st = 0 ∧ old ≠ 1 then s.dramLost else s
    (s.setStep Fn.DRAM (st == 2 || st == 3)).keepAllLim

/-- A command completes (R430). -/
def State.drcDone (s : State) (tag opc status : Nat) : State :=
  let s := if s.drc.results.length < 16 then s.setDrc (fun d => { d with results := d.results ++ [⟨tag, opc, status, s.gt⟩] }) else s
  if status = St.STATE then (s.bump R.DRC_CNT_STATE).raise 186 else s

/-- TRAIN or RESTORE completes (R432): TRSTAT, the result, EV184. -/
def State.trainEnd (s : State) (step chans status : Nat) : State :=
  match s.drc.train with
  | none => s
  | some t =>
    let s := s.setDrc (fun d => { d with train := none })
    let s := s.setRegN R.DRC_TRSTAT (step * 2 ^ 28 + chans * 2 ^ 24 + status)
    (s.drcDone t.tag t.opc status).raise 184

/-- The address of the training record. -/
def State.trrec (s : State) : Nat := s.regN R.DRC_TRREC_LO + s.rf F.DRC_TRREC_HI_HI * 2 ^ 32

/-- The CRC-32C of a training record fails. The CRC is taken to stand in its last four bytes. -/
def State.trrecBad (s : State) : Bool :=
  let d := s.bytes s.trrec 2044
  natBytes 4 (crc32c d) != s.bytes (s.trrec + 2044) 4

/-- Write the training record (R432). -/
def State.trrecWrite (s : State) : State :=
  if s.trrec = 0 then s
  else
    let d := (List.range 2044).map (fun k => BitVec.ofNat 8 (Config.trainByte s.freeCtr k))
    s.used.setBytes s.trrec (d ++ natBytes 4 (crc32c d))

/-- TRAIN begins with INIT. -/
def State.trainGo (s : State) (opc tag speed : Nat) : State :=
  (s.setDrc (fun d => { d with train := some ⟨opc, tag, speed, 1⟩ })).drcEnter 1

/-- Serve what a list of channels still holds, the oldest of the lowest class first. -/
def State.dramDrain (s : State) : Nat → State
  | 0 => s
  | n + 1 =>
    match s.drc.reqs with
    | [] => s
    | r :: _ =>
      match s.dramPick (dramChan r.offset) with
      | none => s
      | some x => (s.dramServe x).dramDrain n

/-- Accepted requests that STOP leaves unserved end with a bus error. -/
def State.dramAbort (s : State) : State :=
  let l := s.drc.reqs
  let s := s.setDrc (fun d => { d with reqs := [] })
  l.foldl (fun s r => if h : r.src < 21 then s.busErr ⟨r.src, h⟩ (dramBase + r.offset) else s) s

/-- A command's effect in a state that accepts it (R429). -/
def State.drcAccept (s : State) (opc tag speed : Nat) : State :=
  let st := s.rf F.DRC_STAT_STATE
  if opc = 1 then s.trainGo 1 tag speed
  else if opc = 2 then
    if s.trrecBad then (s.setDrc (fun d => { d with train := some ⟨2, tag, 0, 0⟩ })).trainEnd 0 0 St.CHECK
    else s.trainGo 2 tag (Config.trainSpeed (nats (s.bytes s.trrec 2044)))
  else if opc = 3 then ((s.dramDrain s.drc.reqs.length).drcEnter 4).drcDone tag 3 St.OK
  else if opc = 4 then ((s.bump R.DRC_CNT_SREXIT).drcEnter 2).drcDone tag 4 St.OK
  else
    let s := if st = 1 then s.trainEnd 0 0 St.ABORTED else s
    (s.dramAbort.drcEnter 0).drcDone tag 5 St.OK

/-- The table of R429: 0 rejected, 1 accepted, 2 accepted with no action. -/
def drcTable (opc st : Nat) : Nat :=
  if opc ≤ 2 then (if st = 0 then 1 else 0)
  else if opc = 3 then (if st = 2 ∨ st = 3 then 1 else if st = 4 then 2 else 0)
  else if opc = 4 then (if st = 2 ∨ st = 3 then 2 else if st = 4 then 1 else 0)
  else if st = 0 then 2 else 1

/-- A write to DRC_CMD (R429, R439): a code or a speed outside its range is refused. -/
def State.drcCmd (opc tag speed : Nat) (s : State) : State :=
  if opc = 0 ∨ 5 < opc ∨ 2 < speed then s.refuse R.DRC_ERR St.RANGE 186
  else
    let a := drcTable opc (s.rf F.DRC_STAT_STATE)
    if a = 0 then s.drcDone tag opc St.STATE
    else if a = 2 then s.drcDone tag opc St.OK
    else s.drcAccept opc tag speed

/-- DRC_TRAIN (R429, R432). -/
def execDrcTrain (i : Init) (tag : BitVec 8) (speed : Fin 4) (s : State) : Host.Outcome State Fault Refusal :=
  .next (s.onWrite i R.DRC_CMD (State.drcCmd 1 tag.toNat speed.val))
/-- DRC_RESTORE (R429, R432). -/
def execDrcRestore (i : Init) (tag : BitVec 8) (speed : Fin 4) (s : State) : Host.Outcome State Fault Refusal :=
  .next (s.onWrite i R.DRC_CMD (State.drcCmd 2 tag.toNat speed.val))
/-- SR_ENTER (R429). -/
def execSrEnter (i : Init) (tag : BitVec 8) (speed : Fin 4) (s : State) : Host.Outcome State Fault Refusal :=
  .next (s.onWrite i R.DRC_CMD (State.drcCmd 3 tag.toNat speed.val))
/-- SR_EXIT (R429). -/
def execSrExit (i : Init) (tag : BitVec 8) (speed : Fin 4) (s : State) : Host.Outcome State Fault Refusal :=
  .next (s.onWrite i R.DRC_CMD (State.drcCmd 4 tag.toNat speed.val))
/-- DRC_STOP (R429). -/
def execDrcStop (i : Init) (tag : BitVec 8) (speed : Fin 4) (s : State) : Host.Outcome State Fault Refusal :=
  .next (s.onWrite i R.DRC_CMD (State.drcCmd 5 tag.toNat speed.val))

/-- All steps have passed (R432). -/
def State.trainPass (s : State) (t : DrcTrain) : State :=
  let s := ((s.wf F.DRC_STAT_CHOK 15).wf F.DRC_STAT_SPEED t.speed).wf F.DRC_USABLE_N (s.usable / 2 ^ 28)
  let s := if t.opc = 1 then s.trrecWrite else s
  ((s.trainEnd 0 0 St.OK).drcEnter 2).limit Fn.DRAM (t.speed != 0)

/-- A step fails (R432). -/
def State.trainFail (s : State) (t : DrcTrain) (fail status : Nat) : State :=
  (((s.wf F.DRC_STAT_CHOK (15 - fail)).trainEnd t.step fail status).drcEnter 0).limit Fn.DRAM true

/-- TRAIN_STEP_DONE (R432): the channels that fail the step; for INIT also what the devices report, and whether it disagrees
among the channels or with the record. -/
def execTrainStepDone (fail : BitVec 4) (mismatch : Bool) (dens : Fin 6) (ranks : Bool) (s : State) :
    Host.Outcome State Fault Refusal :=
  match s.drc.train with
  | none => .next s
  | some t =>
    if t.step = 1 ∧ mismatch then .next (s.trainFail t fail.toNat St.RANGE)
    else if fail ≠ 0 then .next (s.trainFail t fail.toNat St.HW)
    else
      let s := if t.step = 1 then (s.wf F.DRC_STAT_DENS (dens.val + 1)).wb F.DRC_STAT_RANKS ranks else s
      if t.step = 7 then .next (s.trainPass t)
      else
        let n := if t.opc = 2 ∧ t.step = 2 then 7 else t.step + 1
        .next (s.setDrc (fun d => { d with train := some { t with step := n } }))

/-- A read of DRC_RES (R430). -/
def State.drcPop (i : Init) (s : State) : State :=
  match s.drc.results with
  | [] => s.answer i 0
  | x :: xs => (s.setDrc (fun d => { d with results := xs })).answer i
      (BitVec.ofNat 32 (2 ^ 31 + x.tag * 2 ^ 16 + x.opc * 2 ^ 8 + x.status))

/-- DRC_RESULT_POP (R430). -/
def execDrcResultPop (i : Init) (s : State) : Host.Outcome State Fault Refusal :=
  .next (s.onRead i R.DRC_RES (State.drcPop i))

/-- SRIDLE_ENTER (R431). -/
def execSridleEnter (s : State) : Host.Outcome State Fault Refusal :=
  if s.rb F.DRC_CTRL_SRIDLEEN && s.rf F.DRC_STAT_STATE == 2 && s.drc.reqs.isEmpty then .next (s.drcEnter 3) else .next s

/-! ## Dump basin and error injection (R435, R436) -/

/-- DUMP_UNLOCK (R435): a W1C write to DRC_DUMP. -/
def execDumpUnlock (i : Init) (v : Word) (s : State) : Host.Outcome State Fault Refusal :=
  .next (s.onWrite i R.DRC_DUMP (fun s => s.writeReg i.val R.DRC_DUMP v))

/-- An injection target that the rule refuses (R436). -/
def State.injUnusable (s : State) (dram : Bool) : Bool :=
  let a := s.injAddr dram
  if dram then !s.inDram a 8 else !inSram a 8

/-- A write to an INJ_CTRL register (R436). -/
def State.injWrite (i : Nat) (dram : Bool) (v : Word) (s : State) : State :=
  if v.getLsbD 31 && s.injUnusable dram then
    s.refuse (if dram then R.DRC_ERR else R.SRM_ERR) St.RANGE (if dram then 186 else 179)
  else s.writeReg i (if dram then R.DRC_INJ_CTRL else R.SRM_INJ_CTRL) v

/-- INJECT_ARM (R436). -/
def execInjectArm (i : Init) (dram : Bool) (v : Word) (s : State) : Host.Outcome State Fault Refusal :=
  .next (s.onWrite i (if dram then R.DRC_INJ_CTRL else R.SRM_INJ_CTRL) (State.injWrite i.val dram v))

end Sys2Proof.Machine
end

