-- ==== Sys2Proof/Machine/Gc.lean ====
section
/-! DEFINITION. The compare channels of the GTU (R57 to R62, R552): arming, firing, and what their targets do: pins, start
triggers, sequencer triggers, the relay driver, a DALI0 frame, background windows, the telemetry sample (R548). -/

namespace Sys2Proof.Machine

/-! ## Targets -/

/-- The function that SYS assigns to a GPIO ball (R526): 0 GPIO, 1 GTU output, 2 TAMPER, 3 ODE IRQ. -/
def State.gpioFn (s : State) (p : Nat) : Nat := bits (s.reg (R.SYS_GPIOFN (p / 8))) (4 * (p % 8) + 3) (4 * (p % 8))

/-- The index names a target for this KIND (R58, R552): a pin GPIO0 to GPIO47, or a strobe input of the table. -/
def gcIndexOk (kind index : Nat) : Bool :=
  if kind = 1 then decide (index ≤ 47) else if kind = 2 then decide (index ≤ 0x8E) else true

/-- The level the GTU drives on a ball. -/
def State.drivePin (s : State) (p : Nat) (b : Bool) : State :=
  let w := s.gtu.pins &&& ~~~(1#48 <<< p)
  { s with gtu := { s.gtu with pins := if b then w ||| 1#48 <<< p else w } }

/-- The end of a ball's pulse: 0 for none, else one more than the tick. -/
def State.setPulse (s : State) (p n : Nat) : State :=
  { s with gtu := { s.gtu with pulseEnd := Sparse.putN s.gtu.pulseEnd p n } }

/-- A pin action (R552): 0 SET, 1 CLEAR, 2 TOGGLE, 3 PULSE of `width` ticks. -/
def State.pinAct (s : State) (act p width : Nat) : State :=
  if act = 0 then (s.setPulse p 0).drivePin p true
  else if act = 1 then (s.setPulse p 0).drivePin p false
  else if act = 2 then (s.setPulse p 0).drivePin p (!s.gtu.pins.getLsbD p)
  else (s.setPulse p (max (Sparse.getN s.gtu.pulseEnd p) (s.gtu.ticks + width + 1))).drivePin p true

/-- The relay driver switches on its strobe (R32, R492, R531). -/
def State.relayFire (s : State) : State :=
  match s.lum.want with
  | none => s
  | some (c, t) =>
    { s with
      sys := { s.sys with rlyOut := c != s.sys.rlyNc }
      lum := { s.lum with want := none, busyTo := t } }

/-- The DALI0 frame that waits is sent (R494). -/
def State.daliStart (s : State) : State :=
  match s.lum.dapc with
  | none => s
  | some l => ({ s with lum := { s.lum with dapc := none, level := l } }).emit (.dali l)

/-- A sensor reads at least, or at most, a temperature in 1/16 °C. -/
def tempAtLeast (t : Nat) (c : Int) : Bool := decide (16 * c ≤ toSigned 16 t)
def tempAtMost (t : Nat) (c : Int) : Bool := decide (toSigned 16 t ≤ 16 * c)

/-- RFC_TEMP of the four radios takes what the sensors read: free values. -/
def State.sampleRadios (s : State) : List Radio → State
  | [] => s
  | r :: rs => ((s.wf (F.RFC_TEMP_T r) s.free).used).sampleRadios rs

/-- The telemetry sample (R548): every sensor and supply is read (free values), and EV237 to EV239 are raised from it. -/
def State.telemetry (s : State) : State :=
  let s := ((s.wf F.SYS_TEL_TEMP_T s.free).used).sampleRadios [.l, .m, .h, .s]
  let s := ((s.setRegN R.SYS_TEL_VMON s.free).used).setReg64 R.SYS_TEL_GT_LO R.SYS_TEL_GT_HI s.gtN
  let ts := s.rf F.SYS_TEL_TEMP_T :: [Radio.l, .m, .h, .s].map (fun r => s.rf (F.RFC_TEMP_T r))
  let hot := ts.any (fun t => tempAtLeast t 120)
  let cool := s.sys.hot && ts.all (fun t => tempAtMost t 110)
  let cold := !tempAtLeast (s.rf F.SYS_TEL_TEMP_T) (-40)
  let s := if hot then (s.setSys (fun y => { y with hot := true })).raise 237 else s
  let s := if cool then (s.setSys (fun y => { y with hot := false })).raise 238 else s
  if cold then s.raise 239 else s

/-- The radio of a number: 0 L, 1 M, 2 H, 3 S. -/
def radioOf (k : Nat) : Radio := if k = 0 then .l else if k = 1 then .m else if k = 2 then .h else .s

/-- A strobe reaches its input (R32, R552). -/
def State.strobeIn (s : State) (x : Nat) : State :=
  if x ≤ 0x7F then s.dmaStrobe x s.gtN
  else if x ≤ 0x83 then s.rfcStrobe (radioOf (x - 0x80)) true
  else if x ≤ 0x87 then s.rfcStrobe (radioOf (x - 0x84)) false
  else if x = 0x88 then s.relayFire
  else if x = 0x89 then s.daliStart
  else if x = 0x8A then s.bgWindow false true
  else if x = 0x8B then s.bgWindow false false
  else if x = 0x8C then s.bgWindow true true
  else if x = 0x8D then s.bgWindow true false
  else if x = 0x8E then s.telemetry
  else s

/-- What the target of channel `n` does at a firing. -/
def State.gcTarget (s : State) (n : Nat) : State :=
  let x := s.rf (F.GC_TGT_INDEX n)
  if s.rf (F.GC_TGT_KIND n) = 1 then
    s.pinAct (s.rf (F.GC_TGT_ACT n)) x (s.rf (F.GC_WIDTH_WIDTH n))
  else if s.rf (F.GC_TGT_KIND n) = 2 then (s.emit (.strobe x s.gt)).strobeIn x
  else s

/-! ## Firing (R57, R60) -/

/-- The compare value in force of a channel. -/
def State.gcCmp (s : State) (n : Nat) : Nat := Sparse.getN s.gtu.gcCmp n
/-- Set the compare value in force. -/
def State.setCmp (s : State) (n v : Nat) : State :=
  { s with gtu := { s.gtu with gcCmp := Sparse.putN s.gtu.gcCmp n (v % 2 ^ 64) } }

/-- The channel is armed and grid time has reached its compare value. -/
def State.gcDue (s : State) (n : Nat) : Bool := s.rb (F.GC_STAT_ARMED n) && decide (s.gcCmp n ≤ s.gtN)

/-- A firing: FIRED is set; a periodic channel adds its period, a one-shot channel is disarmed; the target acts; with EVT
the group event is raised. -/
def State.gcFireNow (s : State) (n : Nat) : State :=
  let s := s.wf (F.GC_STAT_FIRED n) 1
  let s := if s.rb (F.GC_CTRL_MODE n) then s.setCmp n (s.gcCmp n + Sparse.getN s.gtu.gcPer n)
    else s.wf (F.GC_STAT_ARMED n) 0
  let evt := s.rb (F.GC_CTRL_EVT n)
  let s := s.gcTarget n
  if evt then s.raise (12 + n / 16) else s

/-- GC_FIRE (R57). -/
def execGcFire (n : Fin 64) (s : State) : Host.Outcome State Fault Refusal :=
  if s.gcDue n.val then .next (s.gcFireNow n.val) else .next s

/-! ## Arming (R58, R59) -/

/-- The period in a channel's registers, in angle units. -/
def State.gcPeriod (s : State) (n : Nat) : Nat := s.rf (F.GC_PER_CYC_CYC n) * 2 ^ 24 + s.rf (F.GC_PER_ANG_ANG n)

/-- An ARM that fails: the channel is disarmed and STATUS holds the failure. -/
def State.gcFail (s : State) (n code ev : Nat) : State :=
  ((s.wf (F.GC_STAT_ARMED n) 0).wf (F.GC_STAT_STATUS n) code).raise ev

/-- An ARM (R58). -/
def State.gcArmNow (s : State) (n : Nat) : State :=
  let kind := s.rf (F.GC_TGT_KIND n)
  let x := s.rf (F.GC_TGT_INDEX n)
  let cmp := s.reg64 (R.GC_CMP_LO n) (R.GC_CMP_HI n)
  if !gcIndexOk kind x then s.gcFail n St.RANGE 9
  else if s.rb (F.GC_CTRL_MODE n) && decide (s.gcPeriod n < 0x1000) then s.gcFail n St.RANGE 9
  else if kind = 1 ∧ s.gpioFn x ≠ 1 then s.gcFail n St.STATE 9
  else if cmp ≤ s.gtN ∧ !s.rb (F.GC_CTRL_IMM n) then (s.wf (F.GC_STAT_LATEF n) 1).gcFail n St.LATE 8
  else
    let s := (s.wf (F.GC_STAT_ARMED n) 1).wf (F.GC_STAT_STATUS n) St.OK
    let s := s.setCmp n cmp
    let s := { s with gtu := { s.gtu with gcPer := Sparse.putN s.gtu.gcPer n (s.gcPeriod n) } }
    if cmp ≤ s.gtN then s.gcFireNow n else s

/-- A DISARM (R58). -/
def State.gcDisarmNow (s : State) (n : Nat) : State :=
  if s.rb (F.GC_STAT_ARMED n) then (s.wf (F.GC_STAT_ARMED n) 0).wf (F.GC_STAT_STATUS n) St.OK else s

/-- A write to GCn_CTRL: under R8; a match of the same tick fires first (R59); DISARM acts before ARM. -/
def State.gcCtrlWrite (i n : Nat) (v : Word) (s : State) : State :=
  let f := v &&& 0x3FFFFFFF#32
  if s.writeRefused i (R.GC_CTRL n) f then s.writeReg i (R.GC_CTRL n) f
  else
    let s := if v.toNat / 2 ^ 30 ≠ 0 ∧ s.gcDue n = true then s.gcFireNow n else s
    let s := s.writeReg i (R.GC_CTRL n) f
    let s := if v.getLsbD 30 then s.gcDisarmNow n else s
    if v.getLsbD 31 then s.gcArmNow n else s

/-- GC_ARM (R58): a write to GCn_CTRL with ARM. -/
def execGcArm (i : Init) (n : Fin 64) (v : Word) (s : State) : Host.Outcome State Fault Refusal :=
  .next (s.onWrite i (R.GC_CTRL n.val) (State.gcCtrlWrite i.val n.val (v ||| 0x80000000#32)))

/-- GC_DISARM (R58): a write to GCn_CTRL with DISARM and without ARM. -/
def execGcDisarm (i : Init) (n : Fin 64) (v : Word) (s : State) : Host.Outcome State Fault Refusal :=
  .next (s.onWrite i (R.GC_CTRL n.val)
    (State.gcCtrlWrite i.val n.val ((v ||| 0x40000000#32) &&& 0x7FFFFFFF#32)))

/-- PIN_PULSE_END (R552): the pulse on a ball has lasted its ticks, and the ball goes low. -/
def execPinPulseEnd (pin : Fin 48) (s : State) : Host.Outcome State Fault Refusal :=
  let e := Sparse.getN s.gtu.pulseEnd pin.val
  if e ≠ 0 ∧ e ≤ s.gtu.ticks + 1 then .next ((s.setPulse pin.val 0).drivePin pin.val false) else .next s

end Sys2Proof.Machine
end

