-- ==== Sys2Proof/Machine/MacAir.lean ====
section
/-! DEFINITION. What the Wi-Fi MACs do on the air: Notch windows (R167 to R173), exchanges and responses (R142, R143, R164 to
R166), beacons (R145, R147, R148), received MPDUs and reorder (R144, R150 to R152, R156). -/

namespace Sys2Proof.Machine

/-! ## Notch windows (R167 to R173) -/

/-- The windows are in use (R171, R173). -/
def State.notchUsed (s : State) (r : WRadio) : Bool :=
  let g := s.regN (R.MAC_NOTCH_GUARD r)
  let st := s.rf F.GTU_STAT_STATE
  s.rb (F.MAC_NOTCH_CTRL_EN r) &&
    (st == 2 || (st == 4 && decide ((toSigned 32 (s.regN R.GTU_SLEW)).natAbs ≤ g)) ||
      (st == 3 && decide (s.rf F.GTU_HOLD_ERR_EST ≤ g))) &&
    !(s.rb (F.MAC_NOTCH_CTRL_MISPOL r) && s.rb (F.MAC_NOTCH_STAT_MIS r))

/-- ACTIVE and SUSP follow; each change of SUSP raises EVm+6 (R171). -/
def State.notchSync (s : State) (r : WRadio) : State :=
  let u := s.notchUsed r
  let old := s.rb (F.MAC_NOTCH_STAT_SUSP r)
  let s := (s.wb (F.MAC_NOTCH_STAT_ACTIVE r) u).wb (F.MAC_NOTCH_STAT_SUSP r) (!u)
  if old = !u then s else s.raise (mev r 6)

/-- NOTCH_SUSPEND_CHANGE (R171). -/
def execNotchSuspendChange (r : WRadio) (s : State) : Host.Outcome State Fault Refusal := .next (s.notchSync r)

/-- The node's mask. -/
def State.notchMask (s : State) (r : WRadio) : Nat := s.reg64 (R.MAC_NOTCH_MASK_LO r) (R.MAC_NOTCH_MASK_HI r)

/-- Units of the mask that are set in a row from unit `u` on, step +1 or 63 (= −1), at most `n`. -/
def runFrom (mask step : Nat) : Nat → Nat → Nat
  | 0, _ => 0
  | n + 1, u => if mask / 2 ^ (u % 64) % 2 = 1 then runFrom mask step n (u + step) + 1 else 0

/-- The window a grid time lies in (R167): its start and its end; a mask that is full has no edge near. -/
def State.notchWindow (s : State) (r : WRadio) (t : Nat) : Option (Nat × Nat) :=
  let u := 2 ^ (18 + s.rf (F.MAC_NOTCH_CTRL_PEXP r))
  let m := s.notchMask r
  let k := t / u
  let f := runFrom m 1 64 (k % 64)
  let b := runFrom m 63 64 (k % 64)
  if f = 0 then none
  else if f = 64 then some (0, t + 2 ^ 48)
  else some ((k + 1 - b) * u, (k + f) * u)

/-- What the Notch rules make of an exchange (R168, R169): full mode, full mode trimmed to a PPDU of so many angle units,
outside mode, or no exchange. -/
inductive NotchMode where
  | full
  | trim (units : Nat)
  | outside
  | off
deriving DecidableEq, Repr

/-- The mode of an exchange that starts at `t`. -/
def State.notchMode (s : State) (r : WRadio) (t : Nat) (ppdu resp : Nat) : NotchMode :=
  let g := s.regN (R.MAC_NOTCH_GUARD r)
  let out := if s.rb (F.MAC_NOTCH_CTRL_OMODE r) then NotchMode.off else .outside
  if !s.notchUsed r then out
  else
    match s.notchWindow r t with
    | none => out
    | some (a, e) =>
      let p := s.usToUnits ppdu
      let q := s.usToUnits resp
      if t < a + g then out
      else if t + p + q + g ≤ e then .full
      else if s.rb (F.MAC_NOTCH_CTRL_TRIM r) ∧ t + s.usToUnits (s.rf (F.MAC_NOTCH_MINTX_US r)) + q + g ≤ e then
        .trim (e - g - q - t)
      else out

/-- The width and power of an exchange in outside mode (R168). -/
def State.reduce (s : State) (r : WRadio) (x : ExchangeOut) : ExchangeOut :=
  let bw := min (bits x.vec.w0 27 24) (s.rf (F.MAC_NOTCH_CTRL_OBW r))
  { x with
    vec := { x.vec with w0 := setBits x.vec.w0 27 24 bw, w1 := setBits x.vec.w1 31 16 (bits x.vec.w1 31 16 % 2 ^ 2 ^ bw) }
    power := BitVec.ofNat 8 (min x.power.toNat (s.rf (F.MAC_NOTCH_CTRL_OPWR r))) }

/-- NOTCH_ARM (R172): a write to MAC_NOTCH_ACT_HI. -/
def execNotchArm (i : Init) (r : WRadio) (v : Word) (s : State) : Host.Outcome State Fault Refusal :=
  .next (s.onWrite i (R.MAC_NOTCH_ACT_HI r) (fun s => (s.setReg (R.MAC_NOTCH_ACT_HI r) (v &&& 0xFF)).wb (F.MAC_NOTCH_STAT_PEND r) true))

/-- NOTCH_PLAN_APPLY (R172): at the start of the first period, counted with the new P, whose cycle is at or after ACT. -/
def execNotchPlanApply (r : WRadio) (s : State) : Host.Outcome State Fault Refusal :=
  let c := s.gtN / 2 ^ 24
  let act := s.reg64 (R.MAC_NOTCH_ACT_LO r) (R.MAC_NOTCH_ACT_HI r)
  if !s.rb (F.MAC_NOTCH_STAT_PEND r) ∨ c < act ∨ c % 2 ^ s.rf (F.MAC_NOTCH_PCTRL_PEXP r) ≠ 0 then .next s
  else
    let s := s.setReg (R.MAC_NOTCH_CTRL r) (s.reg (R.MAC_NOTCH_PCTRL r))
    let s := s.setReg (R.MAC_NOTCH_MASK_LO r) (s.reg (R.MAC_NOTCH_PMASK_LO r))
    let s := s.setReg (R.MAC_NOTCH_MASK_HI r) (s.reg (R.MAC_NOTCH_PMASK_HI r))
    let s := s.setReg (R.MAC_NOTCH_GUARD r) (s.reg (R.MAC_NOTCH_PGUARD r))
    let s := s.setReg (R.MAC_NOTCH_PLANID r) (s.reg (R.MAC_NOTCH_PPLANID r))
    .next (((s.wb (F.MAC_NOTCH_STAT_PEND r) false).raise (mev r 5)).notchSync r)

/-! ## Exchanges (R142, R164, R165) -/

/-- MPDUs become part of a PPDU: each counts one transmission (R150, R156). -/
def State.markSent (s : State) (l : List Nat) : State :=
  { s with mpdus := s.mpdus.map (fun (m : Mpdu) => if l.contains m.num then { m with busy := true, sent := m.sent + 1 } else m) }

/-- An opportunity on a link: STP_LWAIT is the mean interval over the last second. -/
def State.opportunity (s : State) (k : Nat) : State :=
  let old := Sparse.get (fun _ => []) s.stp.opps k
  let l := s.gt :: old.filter (fun g => s.withinSec (s.gt - g).toNat 1)
  let s := s.setStp (fun t => { t with opps := Sparse.put (fun _ => []) t.opps k l })
  if l.length < 2 then s
  else
    let span := (s.gt - l.getLastD s.gt).toNat
    s.setRegN (R.STP_LWAIT k) (divOpen (span * 2 ^ 28) (1000 * max 1 (s.regN R.GTU_INC) * (l.length - 1)))

/-- The TX command of an exchange (R73, R142): TRIG = START, and back to RX for the responses. -/
def txCommand (x : ExchangeOut) : SixWords where
  w0 := BitVec.ofNat 32 (6 * 2 ^ 24 + bits x.vec.w0 23 16 * 2 ^ 16 + 2 ^ 12)
  w1 := x.vec.w4
  w2 := x.vec.w5
  w3 := 0
  w4 := 0
  w5 := BitVec.ofNat 32 (x.power.toNat * 2 ^ 24 + x.chains.toNat)

/-- Issue the TX command and the vector (R142). -/
def State.transmit (s : State) (r : WRadio) (x : ExchangeOut) (stored : Bool) : State :=
  (s.macPort r.toRadio (txCommand x)).transmitVector r.toRadio x.vec stored

/-- START of a vector. -/
def vecStart (v : SevenWords) : Nat := v.w4.toNat + v.w5.toNat * 2 ^ 32

/-- The MPDUs of a list that are staged on a radio. -/
def State.stagedOn (s : State) (r : WRadio) (l : List Nat) : List Mpdu :=
  (l.filterMap s.mpdu).filter (fun m => m.radio == r.idx && !m.busy)

/-- Send: the MPDUs become part of the PPDU, and the TX command and the vector go out. -/
def State.sendMpdus (s : State) (r : WRadio) (x : ExchangeOut) (l : List Mpdu) : State :=
  let s := s.markSent (l.map (fun m => m.num))
  (s.transmit r x (l.all (fun m => m.stored))).opportunity r.idx

/-- The exchange and its MPDUs as the Notch rules leave them, and the state with a trim counted; none is no exchange. -/
def State.notchExchange (s : State) (r : WRadio) (x : ExchangeOut) (l : List Mpdu) : Option (State × ExchangeOut × List Mpdu) :=
  match s.notchMode r (vecStart x.vec) x.ppdu x.resp with
  | .full => some (s, x, l)
  | .off => none
  | .outside => some (s, s.reduce r x, l)
  | .trim u =>
    let fit := fitBytes (x.vec.w2.toNat * u / max 1 (s.usToUnits x.ppdu)) l
    if fit.isEmpty then (if s.rb (F.MAC_NOTCH_CTRL_OMODE r) then none else some (s, s.reduce r x, l))
    else some (s.bump (R.MAC_CNT_TRIM r), { x with vec := { x.vec with w2 := BitVec.ofNat 32 (ampduBytes fit) } }, fit)

/-- EDCA_COMMIT (R142): `exempt` marks a management frame to an unassociated station (R170). -/
def execEdcaCommit (r : WRadio) (x : ExchangeOut) (exempt : Bool) (mpdus : List Nat) (s : State) :
    Host.Outcome State Fault Refusal :=
  if s.macState r ≠ Ms.RUN then .next s
  else
    let l := s.stagedOn r mpdus
    if exempt then .next (s.sendMpdus r x l)
    else
      match s.notchExchange r x l with
      | none => .next s
      | some (s, x, l) => .next (s.sendMpdus r x l)

/-- CONTROL_RESPONSE (R143, R149): an Ack (0), a BlockAck (1), a multi-STA BlockAck (2) or a CTS (3); a BlockAck reports the
scoreboard of each agreement. -/
def execControlResponse (r : WRadio) (kind : Fin 4) (users : List (BitVec 12 × Fin 8)) (s : State) :
    Host.Outcome State Fault Refusal :=
  if s.macState r = Ms.OFF then .next s
  else
    let acks := users.map (fun u =>
      (u.1.toNat, u.2.val, ((s.wlan.reorders.find? (fun o => o.client == u.1.toNat && o.tid == u.2.val)).map (·.acked)).getD []))
    .next (s.emit (.response r.idx kind.val (if kind.val = 1 ∨ kind.val = 2 then acks else [])))

/-- The address of entry `u` of an RU table, and its fields. -/
def State.tblClient (s : State) (a u : Nat) : Nat := s.mf (a + 12 + 16 * u) 11 0
def State.tblBytes (s : State) (a u : Nat) : Nat := s.mf (a + 20 + 16 * u) 31 0

/-- The MPDUs of a DL RU table: each user's staged MPDUs, up to its BYTES (R164). -/
def State.tblMpdus (s : State) (k ac a : Nat) : Nat → List Mpdu
  | 0 => []
  | n + 1 => s.tblMpdus k ac a n ++ fitBytes (s.tblBytes a n) (s.staged k ac (s.tblClient a n))

/-- Shorten a table to a time: DUR, and each user's BYTES at an MPDU boundary (R169, R201). -/
def State.tblTrim (s : State) (k ac a us old : Nat) : Nat → State
  | 0 => s.wmf (a + 4) 31 16 us
  | n + 1 =>
    let s := s.tblTrim k ac a us old n
    let fit := fitBytes (s.tblBytes a n * us / max 1 old) (s.staged k ac (s.tblClient a n))
    s.wmf (a + 20 + 16 * n) 31 0 (ampduBytes fit)

/-- The plan of a MAC, of one of some kinds. -/
def State.planOf (s : State) (k : Nat) (kinds : List Nat) : Option PlanSt :=
  match Sparse.getO s.stp.plans k with
  | some p => if kinds.contains p.kind then some p else none
  | none => none

/-- A plan has been used; its RU table stays until CREDIT_RETURN. -/
def State.planDone (s : State) (k : Nat) : State :=
  s.setStp (fun t => { t with plans := Sparse.put (fun _ => none) t.plans k none })

/-- DL_MU_PPDU (R164). -/
def execDlMuPpdu (r : WRadio) (x : ExchangeOut) (s : State) : Host.Outcome State Fault Refusal :=
  match s.planOf r.idx [2] with
  | none => .next s
  | some p =>
    if s.macState r ≠ Ms.RUN then .next s
    else
      let x := { x with vec := { x.vec with w2 := 0, w3 := BitVec.ofNat 32 p.table } }
      let n := s.mf p.table 31 24
      let go (s : State) (x : ExchangeOut) : State := (s.sendMpdus r x (s.tblMpdus r.idx p.ac p.table n)).planDone r.idx
      match s.notchMode r (vecStart x.vec) x.ppdu x.resp with
      | .full => .next (go s x)
      | .off => .next s
      | .outside => .next (go s (s.reduce r x))
      | .trim u =>
        let us := x.ppdu * u / max 1 (s.usToUnits x.ppdu)
        .next (go ((s.tblTrim r.idx p.ac p.table us x.ppdu n).bump (R.MAC_CNT_TRIM r)) x)

/-- TRIGGER_SEND (R165): the padding for the largest MU padding of the users, the trigger, and the TB reception. -/
def execTriggerSend (r : WRadio) (x : ExchangeOut) (s : State) : Host.Outcome State Fault Refusal :=
  match s.planOf r.idx [3, 4] with
  | none => .next s
  | some p =>
    if s.macState r ≠ Ms.RUN then .next s
    else
      let pad := p.users.foldl (fun m i => max m (s.cr i 1 23 22)) 0
      let aids := (List.range (s.mf p.table 31 24)).map (fun u => BitVec.ofNat 12 (s.mf (p.table + 12 + 16 * u) 27 16))
      match s.notchMode r (vecStart x.vec) x.ppdu x.resp with
      | .off => .next s
      | m =>
        let x := if m = .full then x else s.reduce r x
        let s := ((s.emit (.trigger r.idx p.table (8 * pad))).transmit r x true).opportunity r.idx
        .next ((s.tbArm r.toRadio aids (BitVec.ofNat 8 (s.mf (p.table + 16) 7 0))).planDone r.idx)

/-- Store the steering matrix set of each user, as long as the transmit pool has credits. -/
def State.storeSets (s : State) (r : WRadio) : List (BitVec 12 × Nat) → State
  | [] => s
  | (c, n) :: t =>
    match s.takeRun r.idx (max 1 ((n + 255) / 256)) false with
    | none => s.storeSets r t
    | some (s, a) =>
      (s.setWlan (fun w => { w with snds := w.snds ++ [⟨r.idx, c.toNat, a, max 1 ((n + 255) / 256), s.gt⟩] })).storeSets r t

/-- SOUNDING (R166): the compressed feedback of up to 8 users, each with its length in bytes, replaces the radio's sets. -/
def execSounding (r : WRadio) (sets : List (BitVec 12 × Nat)) (s : State) : Host.Outcome State Fault Refusal :=
  if s.macState r ≠ Ms.RUN then .next s
  else
    let old := s.wlan.snds.filter (fun x => x.radio == r.idx)
    let s := old.foldl (fun s x => s.freeRun r.idx x.addr) s
    let s := s.setWlan (fun w => { w with snds := w.snds.filter (fun x => x.radio != r.idx) })
    .next (s.storeSets r (sets.take 8))

/-! ## Beacons (R145, R147, R148) -/

/-- BEACON_TBTT (R145): each active BSS begins to contend. -/
def execBeaconTbtt (r : WRadio) (s : State) : Host.Outcome State Fault Refusal :=
  if s.macState r ≠ Ms.RUN then .next s
  else .next (s.setMac r (fun m => { m with contend := (List.range 16).filter (fun b => s.bssOn r b) }))

/-- A BSS no longer contends. -/
def State.endContend (s : State) (r : WRadio) (b : Nat) : State :=
  s.setMac r (fun m => { m with contend := m.contend.filter (fun x => x != b) })

/-- BEACON_DROP (R145): the beacon has not started by TBTT + MAC_BCNMAXDLY. -/
def execBeaconDrop (r : WRadio) (bss : Fin 16) (s : State) : Host.Outcome State Fault Refusal :=
  if (s.mac r).contend.contains bss.val then
    .next (((s.endContend r bss.val).bump (R.MAC_CNT_BCNDROP r)).raise (mev r 1))
  else .next s

/-- Depth (R147): 0 at a MASTER or REFERENCE. -/
def State.bcnDepth (s : State) (r : WRadio) : Nat := if s.rf F.GTU_CTRL_ROLE = 0 then min 255 ((s.mac r).depth + 1) else 0

/-- The grid-time element (R147). -/
def State.gteBytes (s : State) (r : WRadio) (start : Nat) : List Byte :=
  [221, 39, 0x4A, 0xD7, 0x26, 1, 1,
    BitVec.ofNat 8 (s.rf F.GTU_STAT_STATE * 32 + s.rf F.GTU_HOLD_QUAL % 8 * 4 + s.rf F.GTU_CTRL_ROLE % 4),
    BitVec.ofNat 8 (s.bcnDepth r)] ++
  natBytes 8 start ++ natBytes 4 (s.regN (R.ODE_DIG 0)) ++ natBytes 4 (s.regN (R.ODE_DIG 1)) ++
  natBytes 4 (s.regN R.ODE_GEN) ++ natBytes 4 (s.regN (R.MAC_NOTCH_PLANID r)) ++ natBytes 8 (s.notchMask r)

/-- The next Target Wake Time of every broadcast TWT ID of a BSS (R161). -/
def State.bcastTwt (s : State) (r : WRadio) (bss : Nat) : List (Nat × Nat) :=
  (s.placedEntries.filter (fun e => s.te e 0 28 28 == 1 && s.te e 0 27 24 == bss && s.te e 0 13 12 == r.idx)).map
    (fun e => (s.te e 0 23 19, s.tsfOf (s.teNext e s.gtN)))

/-- BEACON_COMMIT (R142, R147, R161): Notch windows do not apply (R170). -/
def execBeaconCommit (r : WRadio) (bss : Fin 16) (x : ExchangeOut) (s : State) : Host.Outcome State Fault Refusal :=
  if (s.mac r).contend.contains bss.val then
    let start := vecStart x.vec
    let gte := if s.rb (F.MAC_BCNCTRL_GTE r) then s.gteBytes r start else []
    let s := (s.endContend r bss.val).emit (.beacon r.idx bss.val (s.tsfOf start) gte (s.bcastTwt r bss.val))
    .next (s.transmit r x true)
  else .next s

/-- The source code of a Wi-Fi MAC in GTU_BCN_CTRL.BSRC: M 2, H 3; L has none (R68). -/
def bsrcOf (r : WRadio) : Nat := RegMap.pick r.idx 0 2 3 3

/-- A parent beacon's timing sample (R148). -/
def State.parentBeacon (s : State) (r : WRadio) (b : WifiBeacon) : State :=
  let s := match b.gte with | some g => s.setMac r (fun m => { m with depth := g.depth.toNat }) | none => s
  if bsrcOf r = 0 ∨ bsrcOf r ≠ s.rf F.GTU_BCN_CTRL_BSRC then s
  else
    match b.gte with
    | some g =>
      if 2 ≤ g.state.val ∧ g.state.val ≤ 4 ∧ g.qual.val ≤ 2 then s.beaconSample (bsrcOf r) g.gt b.stamp
      else s.bump (R.MAC_CNT_GTREJ r)
    | none => s.bump (R.MAC_CNT_GTREJ r)

/-- The neighbour check of R173. -/
def State.notchNeighbour (s : State) (r : WRadio) (g : GteIn) : State :=
  if g.planId = s.reg (R.MAC_NOTCH_PLANID r) then
    if g.mask.toNat &&& s.notchMask r = 0 then s
    else
      let s := (s.wb (F.MAC_NOTCH_STAT_OVL r) true).setMac r (fun m => { m with ovlAt := some s.gt })
      (s.bump (R.MAC_CNT_NOTCHOVL r)).raise (mev r 5)
  else
    let s := (s.wb (F.MAC_NOTCH_STAT_MIS r) true).setMac r (fun m => { m with misAt := some s.gt })
    let s := (s.bump (R.MAC_CNT_NOTCHMIS r)).raise (mev r 5)
    if s.rb (F.MAC_NOTCH_CTRL_MISPOL r) then s.notchSync r else s

/-- WIFI_BEACON_RECEIVE (R148, R173, R470). -/
def execWifiBeaconReceive (r : WRadio) (b : WifiBeacon) (s : State) : Host.Outcome State Fault Refusal :=
  if s.macState r = Ms.OFF then .next s
  else if !b.fcs then .next (s.bump (R.MAC_CNT_FCS r))
  else
    let parent := b.addr.extractLsb' 0 32 == s.reg (R.MAC_PARENT_LO r) &&
      (b.addr.extractLsb' 32 16).toNat == s.rf (F.MAC_PARENT_HI_A r)
    let s := if parent then s.parentBeacon r b else s
    match b.gte with
    | none => .next s
    | some g =>
      if b.own then .next s
      else
        let s := if b.primary then s.notchNeighbour r g else s
        .next (s.nbrReport ⟨b.addr.zeroExtend 64, r.idx, g.gen, g.dig⟩)

/-- NOTCH_FLAG_EXPIRE (R173): 10 s have passed since the last beacon that set OVL, or MIS. -/
def execNotchFlagExpire (r : WRadio) (mis : Bool) (s : State) : Host.Outcome State Fault Refusal :=
  if mis then
    let s := (s.wb (F.MAC_NOTCH_STAT_MIS r) false).setMac r (fun m => { m with misAt := none })
    .next (if s.rb (F.MAC_NOTCH_CTRL_MISPOL r) then s.notchSync r else s)
  else .next ((s.wb (F.MAC_NOTCH_STAT_OVL r) false).setMac r (fun m => { m with ovlAt := none }))

/-! ## Received MPDUs (R144, R151, R152, R158, R159) -/

/-- Change the reorder context of a client's TID. -/
def State.setReorder (s : State) (c t : Nat) (f : Reorder → Reorder) : State :=
  s.setWlan (fun w => { w with reorders := w.reorders.map (fun o => if o.client == c && o.tid == t then f o else o) })

/-- Release the run of held MPDUs from a context's next SN on. -/
def State.releaseRun (s : State) (c t : Nat) : Nat → Nat → State
  | 0, next => s.setReorder c t (fun o => { o with next := next % 4096 })
  | n + 1, next =>
    match (s.held c t).find? (fun m => m.sn == next % 4096) with
    | some m => (s.rxRelease m.num).releaseRun c t n (next + 1)
    | none => s.setReorder c t (fun o => { o with next := next % 4096 })

/-- The window moves to `sn`: what it passes is released, then the run that follows (R151). -/
def State.moveWindow (s : State) (o : Reorder) (sn : Nat) : State :=
  let d := snDist o.next sn
  (s.releaseBelow o.client o.tid o.next (min d o.size)).releaseRun o.client o.tid o.size sn

/-- The scoreboard of an agreement notes an SN (R149). -/
def scoreAdd (o : Reorder) (sn : Nat) : Reorder :=
  let top := if snDist o.top sn < 2048 then sn else o.top
  { o with top := top, acked := (sn :: o.acked.filter (fun x => x != sn)).filter (fun x => decide (snDist x top < o.size)) }

/-- A received MPDU is put in reorder, or is released at once where no agreement holds it (R151). -/
def State.intoReorder (s : State) (m : RxMpdu) : State :=
  let put (s : State) : State := { s with rxmpdus := s.rxmpdus ++ [m] }
  match s.wlan.reorders.find? (fun o => o.client == m.client && o.tid == m.tid) with
  | none => (put s).rxRelease m.num
  | some o =>
    let d := snDist o.next m.sn
    if 2048 ≤ d ∨ (s.held o.client o.tid).any (fun x => x.sn == m.sn) then
      (s.bump (R.MAC_CNT_DUP (wradio m.radio))).rxGive m.radio m.units
    else if d < o.size then (put s).releaseRun o.client o.tid o.size o.next
    else
      let next := (m.sn + 4096 - o.size + 1) % 4096
      (put s).moveWindow o next

/-- The outcome of the inline decryption (R158): OK where the frame needs none. -/
def State.decrypt (s : State) (r : WRadio) (f : RxFrame) : Nat :=
  let i := f.client.toNat
  if !f.prot then St.OK
  else
    let slot := if f.kid then s.cr i 6 25 16 else s.cr i 6 9 0
    if (s.snapshot r.idx slot Usage.DEC).isNone then St.NOKEY
    else if f.aborted then St.ABORTED
    else if !f.mic then St.AUTH
    else St.OK

/-- The (M) fields of a received frame (R183): SNR, CFO and the uplink backlog. -/
def State.noteRx (s : State) (r : WRadio) (f : RxFrame) : State :=
  let i := f.client.toNat
  if s.recKind i ≠ 1 then s
  else
    let w7 := s.reg (R.MDM_LASTRX r.toRadio 7)
    let s := (s.setRec i (16 + 4 * r.idx) 7 0 (bits w7 15 8)).setRec i 29 15 0 (bits w7 31 16)
    match f.bsr with
    | none => s
    | some (bk, be, vi, vo) =>
      let s := ((s.setRec i 54 31 16 bk).setRec i 54 15 0 be).setRec i 55 15 0 vi
      (s.setRec i 55 31 16 vo).setStp (fun t => { t with ulAt := Sparse.put (fun _ => none) t.ulAt i (some s.gt) })

/-- MPDU_RECEIVE (R144). -/
def execMpduReceive (r : WRadio) (f : RxFrame) (s : State) : Host.Outcome State Fault Refusal :=
  let i := f.client.toNat
  let src := RxSource.wifi r
  if s.macState r = Ms.OFF then .next s
  else if !f.fcs then .next ((s.unreserve src).bump (R.MAC_CNT_FCS r))
  else
    let s := (s.noteRx r f).heardFrom i (s.mdm.get r.toRadio).stamp f.pm
    if f.bar then
      match s.wlan.reorders.find? (fun o => o.client == i && o.tid == f.tid.val) with
      | none => .next s
      | some o => .next (if snDist o.next f.sn.toNat < 2048 then s.moveWindow o f.sn.toNat else s)
    else
      let n := Sparse.getN s.pkt.rsvd (rxKey src)
      if n = 0 then .next (s.bump (R.MAC_CNT_NORES r))
      else
        let s := s.setReorder i f.tid.val (fun o => scoreAdd o f.sn.toNat)
        let open_ := !f.prot && s.recKind i == 1 && s.cr i 6 30 30 == 1 && !f.eapol
        let st := s.decrypt r f
        if open_ then .next ((s.unreserve src).bump (R.MAC_CNT_NOKEY r))
        else if st ≠ St.OK then
          let c := if st = St.AUTH then R.MAC_CNT_MICFAIL r else if st = St.NOKEY then R.MAC_CNT_NOKEY r else R.MAC_CNT_CRYABORT r
          .next (((s.unreserve src).bump c).raise (mev r 2))
        else
          let x := s.takeCells (s.rbUsed r.idx) (rbCells r.idx) (n - 1)
          let m : RxMpdu := ⟨x.1.mpduNum, r.idx, x.2, n - 1, f.bss.val, i, f.tid.val, f.sn.toNat, f.pn.toNat,
            if f.prot then (if f.kid then 1 else 0) else noKid, f.data, (s.mdm.get r.toRadio).stamp, s.gt, false⟩
          let s := { x.1 with mpduNum := x.1.mpduNum + 1 }
          let s := s.setPkt (fun p => { p with rsvd := Sparse.putN p.rsvd (rxKey src) 0 })
          .next (s.intoReorder m)

/-- REORDER_TIMEOUT (R151): the oldest held MPDU has waited MAC_ROTMO behind a hole. -/
def execReorderTimeout (r : WRadio) (client : BitVec 12) (tid : Fin 8) (s : State) : Host.Outcome State Fault Refusal :=
  match s.wlan.reorders.find? (fun o => o.client == client.toNat && o.tid == tid.val) with
  | none => .next s
  | some o =>
    match s.held o.client o.tid with
    | [] => .next s
    | m :: ms =>
      let d := ms.foldl (fun d x => min d (snDist o.next x.sn)) (snDist o.next m.sn)
      let s := s.releaseRun o.client o.tid o.size (o.next + d)
      .next ((s.bump (R.MAC_CNT_ROHOLE r)).raise (mev r 3))

/-! ## Staged MPDUs (R150, R156) -/

/-- MPDU_LIFETIME_DROP (R150): MAC_RETRY.LIFE has passed since the MPDU was staged. -/
def execMpduLifetimeDrop (n : Nat) (s : State) : Host.Outcome State Fault Refusal :=
  match s.mpdu n with
  | none => .next s
  | some m => if m.busy then .next s else .next ((s.endMpdu n).bump (R.MAC_CNT_RETRYDROP (wradio m.radio)))

/-- Copy an MPDU to a radio's transmit pool (R156): DMA moves the staged ciphertext. -/
def State.moveMpdu (s : State) (m : Mpdu) (k : Nat) : State :=
  let s := { s with mpdus := s.mpdus.map (fun (x : Mpdu) => if x.num = m.num then { x with busy := true } else x) }
  let s := s.putMpdu { m with radio := k, stored := false, busy := false } (some m.num) true
  let s := if m.client = 0xFFF then s
    else
      let s := s.setRec m.client 7 15 0 (s.cr m.client 7 15 0 + m.units)
      s.setRec m.client (17 + 4 * k) 15 0 (s.cr m.client (17 + 4 * k) 15 0 + m.units)
  s.bump R.STP_CNT_MOVE

/-- MPDU_MOVE (R156): the first move to radio `r` that Steppe has decided and whose MPDU is in no PPDU, once the radio's
transmit pool has credits for it. -/
def execMpduMove (r : WRadio) (s : State) : Host.Outcome State Fault Refusal :=
  let ready_ (x : Nat × Nat) : Bool := x.2 == r.idx && (match s.mpdu x.1 with
    | some m => !m.busy && m.stored && decide (m.units ≤ s.txFree r.idx)
    | none => true)
  match s.wlan.moves.find? ready_ with
  | none => .next s
  | some x =>
    let s := s.setWlan (fun w => { w with moves := w.moves.erase x })
    match s.mpdu x.1 with
    | none => .next s
    | some m => .next (s.moveMpdu m r.idx)

end Sys2Proof.Machine
end

