-- ==== Sys2Proof/Machine/P384.lean ====
section
/-! DEFINITION. The curve P-384 and ECDSA over it, which R397 names. Numbers are natural numbers below the field prime. -/

namespace Sys2Proof.Machine.P384

/-- The field prime. -/
def p : Nat := 2 ^ 384 - 2 ^ 128 - 2 ^ 96 + 2 ^ 32 - 1
/-- The coefficient b; a is -3. -/
def b : Nat := 0xb3312fa7e23ee7e4988e056be3f82d19181d9c6efe8141120314088f5013875ac656398d8a2ed19d2a85c8edd3ec2aef
/-- The order of the base point. -/
def n : Nat := 0xffffffffffffffffffffffffffffffffffffffffffffffffc7634d81f4372ddf581a0db248b0a77aecec196accc52973
/-- The base point. -/
def gx : Nat := 0xaa87ca22be8b05378eb1c71ef320ad746e1d3b628ba79b9859f741e082542a385502f25dbf55296c3a545e3872760ab7
def gy : Nat := 0x3617de4a96262c6f5d9e98bf9292dc29f8f41dbd289a147ce9da3113b5f0b8c00a60b1ce1d7e819d7a431d7c90ea0e5f

/-- A point: none is the point at infinity. -/
abbrev Point := Option (Nat × Nat)

/-- A power modulo `m`, over `k` bits of the exponent. -/
def powMod (m : Nat) : Nat → Nat → Nat → Nat
  | 0, _, _ => 1
  | k + 1, x, e => (if e % 2 = 1 then x else 1) * powMod m k (x * x % m) (e / 2) % m

/-- The inverse modulo a prime. -/
def inv (m x : Nat) : Nat := powMod m 384 (x % m) (m - 2)

/-- Subtraction modulo the field prime. -/
def fsub (x y : Nat) : Nat := (x + p - y % p) % p

/-- The sum of two points. -/
def add : Point → Point → Point
  | none, q => q
  | q, none => q
  | some (x1, y1), some (x2, y2) =>
    if x1 = x2 ∧ (y1 + y2) % p = 0 then none
    else
      let l :=
        if x1 = x2 then fsub (3 * x1 * x1) 3 * inv p (2 * y1) % p
        else fsub y2 y1 * inv p (fsub x2 x1) % p
      let x3 := fsub (fsub (l * l) x1) x2
      some (x3, fsub (l * fsub x1 x3) y1)

/-- A multiple of a point, over `k` bits of the factor. -/
def smul : Nat → Nat → Point → Point
  | 0, _, _ => none
  | k + 1, d, q => add (if d % 2 = 1 then q else none) (smul k (d / 2) (add q q))

/-- The base point. -/
def g : Point := some (gx, gy)

/-- The point lies on the curve. -/
def onCurve (x y : Nat) : Bool := decide (x < p ∧ y < p ∧ y * y % p = (x * x * x + b + 3 * (p - x)) % p)

/-- The public key of a private key. -/
def pub (d : Nat) : Nat × Nat := (smul 384 d g).getD (0, 0)

/-- An ECDSA signature of hash `e` with key `d` and nonce `k`. -/
def sign (d k e : Nat) : Nat × Nat :=
  let r := (pub k).1 % n
  (r, inv n k * ((e + r * d) % n) % n)

/-- The ECDSA check of a signature. -/
def verify (qx qy e r s : Nat) : Bool :=
  decide (0 < r ∧ r < n ∧ 0 < s ∧ s < n) &&
    (let w := inv n s
     match add (smul 384 (e * w % n) g) (smul 384 (r * w % n) (some (qx, qy))) with
     | some (x, _) => x % n == r
     | none => false)

end Sys2Proof.Machine.P384
end

