-- ==== Sys2Proof/Machine/Pke.lean ====
section
/-! DEFINITION. The public-key engine (R396 to R408): commands, measurements, OTP, image verification, attestation, debug
unlock. -/

namespace Sys2Proof.Machine

/-! ## OTP and measurements (R400, R401) -/

/-- An OTP byte, by its offset from 0x400. -/
def State.otpByte (s : State) (o : Nat) : Byte := (s.reg (R.PKE_OTP (o / 4))).extractLsb' (8 * (o % 4)) 8
/-- OTP bytes from an offset. -/
def State.otpBytes (s : State) (o n : Nat) : List Byte := (List.range n).map (fun k => s.otpByte (o + k))
/-- LIFECYCLE. -/
def State.lifecycle (s : State) : Nat := bits (s.reg (R.PKE_OTP 0)) 7 0
/-- MINSVN of a target. -/
def State.minSvn (s : State) (t : Nat) : Nat := bits (s.reg (R.PKE_OTP (16 + t))) 5 0
/-- The revocation bits. -/
def State.revoked (s : State) : Nat := bits (s.reg (R.PKE_OTP 1)) 3 0
/-- DEVID as eight bytes. -/
def State.devid (s : State) : List Byte := s.otpBytes 8 8

/-- A measurement register. -/
def State.mr (s : State) (k : Nat) : List Byte := Sparse.get (fun _ => List.replicate 48 0) s.pke.mr k
/-- MRk := SHA-384(MRk ‖ value) (R400). -/
def State.extendMr (s : State) (k : Nat) (v : List Byte) : State :=
  s.setPke (fun p => { p with
    mr := Sparse.put (fun _ => List.replicate 48 0) p.mr k (toBytes (Sha.sha384 (nats (s.mr k ++ v)))) })

/-- SHA-384 of bytes. -/
def sha384b (l : List Byte) : List Byte := toBytes (Sha.sha384 (nats l))

/-! ## The queue (R396) -/

/-- A field of a queued command. -/
def PkeCmd.f (c : PkeCmd) (k hi lo : Nat) : Nat := bits (c.w.getD k 0) hi lo
/-- IN and OUT. -/
def PkeCmd.inp (c : PkeCmd) : Nat := c.f 2 31 0 + c.f 3 3 0 * 2 ^ 32
def PkeCmd.outp (c : PkeCmd) : Nat := c.f 4 31 0 + c.f 5 3 0 * 2 ^ 32
/-- OPC, slot, target slot and LEN. -/
def PkeCmd.opc (c : PkeCmd) : Nat := c.f 0 31 24
def PkeCmd.slot (c : PkeCmd) : Nat := c.f 0 9 0
def PkeCmd.slot2 (c : PkeCmd) : Nat := c.f 1 25 16
def PkeCmd.len (c : PkeCmd) : Nat := c.f 1 15 0
def PkeCmd.chain (c : PkeCmd) : Nat := c.f 0 15 14
def PkeCmd.sha256 (c : PkeCmd) : Bool := c.f 0 12 12 == 1

/-- The status a push is refused with, if any (R396, R397). -/
def State.pkePushCheck (s : State) (c : PkeCmd) : Option Nat :=
  let blk := if c.sha256 then 64 else 128
  if c.opc < 1 ∨ 0x0E < c.opc then some St.TYPE
  else if (c.opc = 1 ∨ c.opc = 2) ∧ (c.chain = 1 ∨ c.chain = 2) ∧ c.len % blk ≠ 0 then some St.RANGE
  else if c.opc = 9 ∧ (c.len < 1 ∨ 4096 < c.len) then some St.RANGE
  else if (c.opc = 3 ∧ (4 < c.f 6 31 28 ∨ !suits (c.f 6 31 28) (c.f 6 23 16))) ∨ (c.opc = 4 ∧ !suits 3 (c.f 6 23 16)) ∨
      (c.opc = 8 ∧ !suits 2 (c.f 6 23 16)) then some St.RANGE
  else if (c.opc = 0x0B ∨ c.opc = 0x0D) ∧ 7 < c.f 6 7 0 then some St.RANGE
  else if c.opc = 0x0D ∧ 63 < c.len then some St.RANGE
  else if c.opc = 0x0E ∧ 3 < c.f 6 7 0 then some St.RANGE
  else if 8 ≤ s.pke.queue.length then some St.BUSY
  else none

/-- The queue's level and IDLE follow the queue (R411). -/
def State.pkeSync (s : State) : State :=
  (s.wf F.PKE_STAT_QLEVEL s.pke.queue.length).wb F.PKE_STAT_IDLE s.pke.queue.isEmpty

/-- A push of the staging words by an initiator (R396). -/
def State.pkePush (i : Init) (v : Word) (s : State) : State :=
  if !v.getLsbD 0 then s
  else
    let c : PkeCmd := ⟨i.val, (List.range 8).map (fun k => s.reg (R.PKE_CMD_W k))⟩
    match s.pkePushCheck c with
    | some st => (s.refuse R.PKE_ERR st 171).bump R.PKE_CNT_FAIL
    | none => (s.setPke (fun p => { p with queue := p.queue ++ [c] })).pkeSync

/-- PKE_CMD_PUSH (R396). -/
def execPkeCmdPush (i : Init) (v : Word) (s : State) : Host.Outcome State Fault Refusal :=
  .next (s.onWrite i R.PKE_CMD_PUSH (State.pkePush i v))

/-- The command at the head completes with a status (R396, R409). -/
def State.pkeDone (s : State) (c : PkeCmd) (status : Nat) : State :=
  let s := (s.setPke (fun p => { p with queue := p.queue.drop 1 })).pkeSync
  let s := if s.pke.results.length < 16 then
      s.setPke (fun p => { p with results := p.results ++ [⟨c.f 0 23 16, c.opc, status⟩] })
    else s.bump R.PKE_CNT_RESOVF
  if status = St.OK then
    let s := s.bump R.PKE_CNT_OPS
    if c.f 0 13 13 = 1 then s.raise 170 else s
  else (s.bump R.PKE_CNT_FAIL).refuse R.PKE_ERR status 171

/-- The bytes of input a command reads. -/
def PkeCmd.inLen (c : PkeCmd) : Nat :=
  if c.opc = 0x07 then 240 else if c.opc = 0x08 then 96 else if c.opc = 0x06 ∨ c.opc = 0x0B ∨ c.opc = 0x0C then 48
  else if c.opc ≤ 0x03 then c.len else 0

/-- Run the command at the head when its OPC is `opc`: with NOTREADY while PKE is not ready (R36). -/
def State.pkeRun (s : State) (opc : Nat) (f : State → PkeCmd → State × Nat) : State :=
  match s.pke.queue with
  | [] => s
  | c :: _ =>
    if c.opc ≠ opc ∨ !s.rb F.PKE_CTRL_EN then s
    else if !s.ready Fn.PKE then s.pkeDone c St.NOTREADY
    else
      let st := (f s c).2
      let r := f (if st = St.OK ∨ st = St.CHECK then s.eccRead Ini.PKE c.inp c.inLen else s) c
      r.1.pkeDone c r.2

/-- Input bytes: HW where no memory answers, CHECK where a word is uncorrectable. -/
def State.pkeIn (s : State) (a n : Nat) : Except Nat (List Byte) :=
  if n = 0 then .ok []
  else if !s.readable a n then .error St.HW else if s.eccBad a n then .error St.CHECK else .ok (s.bytes a n)

/-- Output bytes to OUT. -/
def State.pkeOut (s : State) (a : Nat) (d : List Byte) : State × Nat :=
  if !s.writable Ini.PKE a d.length then (s, St.HW) else (s.store Ini.PKE a d, St.OK)

/-- The key snapshot of a slot of a TYPE with a USAGE (R397); slot 1023 serves attestation alone (R382, R406). -/
def State.pkeKey (s : State) (slot typ usage : Nat) : Except Nat (List Byte) :=
  let k := s.slot slot
  if slot = 1023 then .error St.RIGHTS
  else if s.slotState slot = Slot.LOADED ∧ k.typ = typ ∧ (usage = 0 ∨ k.usage &&& usage ≠ 0) then .ok k.key
  else .error St.NOKEY

/-- Whether a target slot may be loaded now: the rules of LOAD (R384). -/
def State.pkeTarget (s : State) (slot : Nat) : Nat :=
  if slot = 1023 then St.RIGHTS
  else if s.rb F.CRY_STAT_ALARM ∨ s.rb F.CRY_STAT_DBGERASE then St.STATE
  else if s.slotState slot = Slot.ERASING then St.BUSY
  else St.OK

/-- The hash of the command's algorithm. -/
def hashOf (c256 : Bool) (m : List Byte) : List Byte := toBytes (if c256 then Sha.sha256 (nats m) else Sha.sha384 (nats m))
/-- HMAC with it. -/
def hmacOf (c256 : Bool) (key m : List Byte) : List Byte :=
  toBytes (if c256 then Sha.hmac Sha.sha256 64 (nats key) (nats m) else Sha.hmac Sha.sha384 128 (nats key) (nats m))

/-- A hash context. -/
def State.hctx (s : State) (k : Nat) : HashCtx := Sparse.get (fun _ => ⟨false, false, [], []⟩) s.pke.hctx k
/-- Replace it. -/
def State.setHctx (s : State) (k : Nat) (x : HashCtx) : State :=
  s.setPke (fun p => { p with hctx := Sparse.put (fun _ => ⟨false, false, [], []⟩) p.hctx k x })

/-- A piece of HASH or HMAC, with the key of its first piece (R396, R397). MIDDLE or LAST without a FIRST is STATE. -/
def State.hashPiece (s : State) (c : PkeCmd) (key : List Byte) (fin : HashCtx → List Byte) : State × Nat :=
  let k := c.f 0 11 10
  match s.pkeIn c.inp c.len with
  | .error st => (s, st)
  | .ok d =>
    let x : HashCtx := if c.chain ≤ 1 then ⟨true, c.sha256, key, []⟩ else s.hctx k
    if !x.active then (s, St.STATE)
    else
      let x := { x with data := x.data ++ d }
      if c.chain = 1 ∨ c.chain = 2 then (s.setHctx k x, St.OK)
      else
        let r := s.pkeOut c.outp (fin x)
        (if c.chain = 3 then r.1.setHctx k ⟨false, false, [], []⟩ else r.1, r.2)

/-- HASH. -/
def State.pkeHash (s : State) (c : PkeCmd) : State × Nat := s.hashPiece c [] (fun x => hashOf x.alg256 x.data)

/-- HMAC: the key snapshot is taken at the first piece. -/
def State.pkeHmac (s : State) (c : PkeCmd) : State × Nat :=
  if 2 ≤ c.chain then s.hashPiece c [] (fun x => hmacOf x.alg256 x.key x.data)
  else
    match s.pkeKey c.slot 2 Usage.MAC with
    | .error st => (s, st)
    | .ok key => s.hashPiece c key (fun x => hmacOf x.alg256 x.key x.data)

/-- `n` blocks of SP 800-108 in counter mode, the first with counter `i` (R397). -/
def kdfBlocks (key fixed : List Nat) (i : Nat) : Nat → List Nat
  | 0 => []
  | n + 1 => Sha.hmac Sha.sha384 128 key (Sha.toBe 4 i ++ fixed) ++ kdfBlocks key fixed (i + 1) n

/-- KDF: an HMAC target takes one block of output, 48 bytes. -/
def State.pkeKdf (s : State) (c : PkeCmd) : State × Nat :=
  match s.pkeKey c.slot 2 Usage.DERIVE, s.pkeIn c.inp c.len with
  | .error st, _ => (s, st)
  | _, .error st => (s, st)
  | .ok key, .ok d =>
    let t := s.pkeTarget c.slot2
    if t ≠ St.OK then (s, t)
    else
      let n := keyLen (c.f 6 31 28) 48
      let out := (kdfBlocks (nats key) (Config.kdfFixed (nats d) (8 * n)) 1 ((n + 47) / 48)).take n
      (s.loadSlot c.slot2 (c.f 6 31 28) (c.f 6 23 16) (c.w.getD 7 0) (toBytes out), St.OK)

/-- A private scalar from random bytes. -/
def scalarOf (l : List Byte) : Nat := bytesNat l % (P384.n - 1) + 1
/-- A point as 96 bytes. -/
def pointBytes (p : Nat × Nat) : List Byte := toBytes (Sha.toBe 48 p.1 ++ Sha.toBe 48 p.2)

/-- KEYGEN. -/
def State.pkeKeygen (s : State) (c : PkeCmd) : State × Nat :=
  let t := s.pkeTarget c.slot2
  if t ≠ St.OK then (s, t)
  else if !s.writable Ini.PKE c.outp 96 then (s, St.HW)
  else
    let r := s.draw 56
    let d := scalarOf r.2
    (r.1.loadSlot c.slot2 3 (c.f 6 23 16) (c.w.getD 7 0) (toBytes (Sha.toBe 48 d))).pkeOut c.outp (pointBytes (P384.pub d))

/-- PUBKEY. -/
def State.pkePubkey (s : State) (c : PkeCmd) : State × Nat :=
  match s.pkeKey c.slot 3 0 with
  | .error st => (s, st)
  | .ok key => s.pkeOut c.outp (pointBytes (P384.pub (bytesNatBe key)))

/-- SIGN. -/
def State.pkeSign (s : State) (c : PkeCmd) : State × Nat :=
  match s.pkeKey c.slot 3 Usage.SIGN, s.pkeIn c.inp 48 with
  | .error st, _ => (s, st)
  | _, .error st => (s, st)
  | .ok key, .ok h =>
    let r := s.draw 56
    r.1.pkeOut c.outp (pointBytes (P384.sign (bytesNatBe key) (scalarOf r.2) (bytesNatBe h)))

/-- An ECDSA check over a 48-byte hash with a 96-byte public key, which must lie on the curve (R397). -/
def ecdsaOk (h pub sig : List Byte) : Bool :=
  let x := bytesNatBe (pub.take 48)
  let y := bytesNatBe ((pub.drop 48).take 48)
  P384.onCurve x y && P384.verify x y (bytesNatBe h) (bytesNatBe (sig.take 48)) (bytesNatBe ((sig.drop 48).take 48))

/-- The status of VERIFY from what its input read as: the hash, then the public key, then r ‖ s. -/
def verifyCode : Except Nat (List Byte) → Nat
  | .error st => st
  | .ok d => if ecdsaOk (d.take 48) ((d.drop 48).take 96) (d.drop 144) then St.OK else St.AUTH

/-- VERIFY. -/
def State.pkeVerify (s : State) (c : PkeCmd) : State × Nat := (s, verifyCode (s.pkeIn c.inp 240))

/-- ECDH. -/
def State.pkeEcdh (s : State) (c : PkeCmd) : State × Nat :=
  match s.pkeKey c.slot 3 Usage.ECDH, s.pkeIn c.inp 96 with
  | .error st, _ => (s, st)
  | _, .error st => (s, st)
  | .ok key, .ok d =>
    let x := bytesNatBe (d.take 48)
    let y := bytesNatBe (d.drop 48)
    let t := s.pkeTarget c.slot2
    if !P384.onCurve x y then (s, St.AUTH)
    else if t ≠ St.OK then (s, t)
    else
      let z := (P384.smul 384 (bytesNatBe key) (some (x, y))).getD (0, 0)
      (s.loadSlot c.slot2 2 (c.f 6 23 16) (c.w.getD 7 0) (toBytes (Sha.toBe 48 z.1)), St.OK)

/-- A reseed of the CTR_DRBG. -/
def State.reseed (s : State) : State := (s.setPke (fun p => { p with gens := 0 })).bump R.PKE_CNT_RESEED

/-- RANDOM: with PR set, a reseed comes first (R398). -/
def State.pkeRandom (s : State) (c : PkeCmd) : State × Nat :=
  let s := if s.rb F.PKE_CTRL_PR then s.reseed else s
  let r := s.draw c.len
  r.1.pkeOut c.outp r.2

/-- MEXTEND: each register has its own extenders (R400). -/
def State.pkeMextend (s : State) (c : PkeCmd) : State × Nat :=
  let k := c.f 6 7 0
  if k = 0 ∨ (k ≤ 3 ∧ c.ini ≠ Ini.MC5) then (s, St.RIGHTS)
  else
    match s.pkeIn c.inp 48 with
    | .error st => (s, st)
    | .ok d => (s.extendMr k d, St.OK)

/-- The report before its signature (R405). -/
def State.report (s : State) (nonce : List Byte) : List Byte :=
  natBytes 4 0x54414E44 ++ natBytes 2 1 ++ natBytes 2 624 ++ s.devid ++ natBytes 1 s.lifecycle ++
    natBytes 1 (s.rf F.PKE_DBGSTAT_SCOPE) ++ natBytes 1 (s.rf F.ODE_STAT_STATE) ++
    natBytes 1 ((if s.rf F.CRY_ALMCNT_CNT = 0 then 0 else 1) + (if s.rf F.SYS_BOOTSTAT_SRC = 1 then 2 else 0)) ++
    natBytes 4 (s.rf F.CRY_ALMCNT_CNT) ++ natBytes 8 s.gtN ++ nonce ++
    (List.range 8).map (fun t => BitVec.ofNat 8 (s.minSvn t)) ++ natBytes 1 s.revoked ++ natBytes 3 0 ++
    natBytes 4 (s.regN R.ODE_GEN) ++ (List.range 12).flatMap (fun k => natBytes 4 (s.regN (R.ODE_DIG k))) ++
    (List.range 8).flatMap (fun k => s.mr k)

/-- No report can be signed (R406): in RMA, while the HUK is blocked, and while no attestation key has been derived. -/
def State.attestStop (s : State) : Bool :=
  s.lifecycle == 7 || s.rb F.CRY_STAT_HUKBLK || s.slotState 1023 != Slot.LOADED

/-- The report for a nonce with its signature (R405). -/
def State.attested (s : State) (nonce : List Byte) : State × List Byte :=
  let rep := s.report nonce
  let r := s.draw 56
  let sig := P384.sign (bytesNatBe (s.slot 1023).key) (scalarOf r.2) (bytesNatBe (sha384b rep))
  (r.1, rep ++ pointBytes sig)

/-- ATTEST (R405, R406): else NOKEY. -/
def State.pkeAttest (s : State) (c : PkeCmd) : State × Nat :=
  if s.attestStop then (s, St.NOKEY)
  else
    match s.pkeIn c.inp 48 with
    | .error st => (s, st)
    | .ok nonce =>
      let r := s.attested nonce
      r.1.pkeOut c.outp r.2

/-- SVNSET (R404): the target is Index in word 6, the value stands in LEN. -/
def State.pkeSvnset (s : State) (c : PkeCmd) : State × Nat :=
  let t := c.f 6 7 0
  if c.ini ≠ Ini.MC5 ∨ s.lifecycle ≠ 3 then (s, St.RIGHTS)
  else if c.len < s.minSvn t then (s, St.RANGE)
  else ((s.setReg (R.PKE_OTP (16 + t)) (setBits (s.reg (R.PKE_OTP (16 + t))) 5 0 c.len)).raise 174, St.OK)

/-- REVOKE (R404). -/
def State.pkeRevoke (s : State) (c : PkeCmd) : State × Nat :=
  let rev := s.revoked ||| 2 ^ c.f 6 7 0
  if c.ini ≠ Ini.MC5 ∨ s.lifecycle ≠ 3 then (s, St.RIGHTS)
  else if rev = 15 then (s, St.RANGE)
  else ((s.setReg (R.PKE_OTP 1) (setBits (s.reg (R.PKE_OTP 1)) 3 0 rev)).raise 174, St.OK)

/-- PKE_HASH (R397). -/
def execPkeHash (s : State) : Host.Outcome State Fault Refusal := .next (s.pkeRun 0x01 State.pkeHash)
/-- PKE_HMAC (R397). -/
def execPkeHmac (s : State) : Host.Outcome State Fault Refusal := .next (s.pkeRun 0x02 State.pkeHmac)
/-- PKE_KDF (R397). -/
def execPkeKdf (s : State) : Host.Outcome State Fault Refusal := .next (s.pkeRun 0x03 State.pkeKdf)
/-- PKE_KEYGEN (R397). -/
def execPkeKeygen (s : State) : Host.Outcome State Fault Refusal := .next (s.pkeRun 0x04 State.pkeKeygen)
/-- PKE_PUBKEY (R397). -/
def execPkePubkey (s : State) : Host.Outcome State Fault Refusal := .next (s.pkeRun 0x05 State.pkePubkey)
/-- PKE_SIGN (R397). -/
def execPkeSign (s : State) : Host.Outcome State Fault Refusal := .next (s.pkeRun 0x06 State.pkeSign)
/-- PKE_VERIFY (R397). -/
def execPkeVerify (s : State) : Host.Outcome State Fault Refusal := .next (s.pkeRun 0x07 State.pkeVerify)
/-- PKE_ECDH (R397). -/
def execPkeEcdh (s : State) : Host.Outcome State Fault Refusal := .next (s.pkeRun 0x08 State.pkeEcdh)
/-- PKE_RANDOM (R397). -/
def execPkeRandom (s : State) : Host.Outcome State Fault Refusal := .next (s.pkeRun 0x09 State.pkeRandom)
/-- PKE_RESEED (R397). -/
def execPkeReseed (s : State) : Host.Outcome State Fault Refusal := .next (s.pkeRun 0x0A (fun s _ => (s.reseed, St.OK)))
/-- PKE_MEXTEND (R397, R400). -/
def execPkeMextend (s : State) : Host.Outcome State Fault Refusal := .next (s.pkeRun 0x0B State.pkeMextend)
/-- PKE_ATTEST (R405). -/
def execPkeAttest (s : State) : Host.Outcome State Fault Refusal := .next (s.pkeRun 0x0C State.pkeAttest)
/-- PKE_SVNSET (R404). -/
def execPkeSvnset (s : State) : Host.Outcome State Fault Refusal := .next (s.pkeRun 0x0D State.pkeSvnset)
/-- PKE_REVOKE (R404). -/
def execPkeRevoke (s : State) : Host.Outcome State Fault Refusal := .next (s.pkeRun 0x0E State.pkeRevoke)

/-- Pop PKE_RES. -/
def State.pkePop (i : Init) (s : State) : State :=
  match s.pke.results with
  | [] => s.answer i 0
  | r :: rs => (s.setPke (fun p => { p with results := rs })).answer i r.word

/-- PKE_RESULT_POP (R396). -/
def execPkeResultPop (i : Init) (s : State) : Host.Outcome State Fault Refusal :=
  .next (s.onRead i R.PKE_RES (State.pkePop i))

/-- One word from the CTR_DRBG; 0 while DRBGOK is clear (R411). -/
def State.rngRead (i : Init) (s : State) : State :=
  if s.rb F.PKE_STAT_DRBGOK then let r := s.draw 4; r.1.answer i (BitVec.ofNat 32 (bytesNat r.2)) else s.answer i 0

/-- RNG_READ (R411). -/
def execRngRead (i : Init) (s : State) : Host.Outcome State Fault Refusal :=
  .next (s.onRead i R.PKE_RNG (State.rngRead i))

/-! ## Entropy (R398) -/

/-- The device attestation key is derived once the HUK may be used (R406). -/
def State.deriveDak (s : State) : State :=
  if s.lifecycle = 7 ∨ s.rb F.CRY_STAT_HUKBLK ∨ (s.slot 1023).st = Slot.LOADED then s
  else
    let d := Config.dak % (P384.n - 1) + 1
    let s := s.loadSlot 1023 3 Usage.SIGN 0 (toBytes (Sha.toBe 48 d))
    let pub := pointBytes (P384.pub d)
    (List.range 24).foldl (fun s k => s.setRegN (R.PKE_DAKPUB k) (bytesNat ((pub.drop (4 * k)).take 4))) s

/-- ENTROPY_STARTUP_TEST (R398, R501): when the 1,024 samples pass, the DRBG runs and PKE's start step passes; the context
key is drawn. When they fail, the test counts as a health test failure. -/
def execEntropyStartupTest (ok : Bool) (s : State) : Host.Outcome State Fault Refusal :=
  if ok then
    let s := (s.wf F.PKE_STAT_ESOK 1).wf F.PKE_STAT_DRBGOK 1
    let s := s.setPke (fun p => { p with gens := 0 })
    let s := if s.cry.ctxk.isEmpty && !s.cry.almErase then let r := s.draw 32; r.1.setCry (fun c => { c with ctxk := r.2 }) else s
    .next ((s.deriveDak.setStep Fn.PKE true).limit Fn.PKE false)
  else .next ((((s.wf F.PKE_STAT_ESOK 0).wf F.PKE_STAT_DRBGOK 0).bump R.PKE_CNT_HTFAIL |>.raise 172).limit Fn.PKE true)

/-- HEALTH_TEST_FAIL (R398): the DRBG stops, PKE's readiness clears. -/
def execHealthTestFail (s : State) : Host.Outcome State Fault Refusal :=
  let s := (s.wf F.PKE_STAT_ESOK 0).wf F.PKE_STAT_DRBGOK 0
  .next (((s.bump R.PKE_CNT_HTFAIL).setStep Fn.PKE false).raise 172)

/-- RESEED_INTERVAL (R398). -/
def execReseedInterval (s : State) : Host.Outcome State Fault Refusal :=
  .next (if s.rb F.PKE_STAT_DRBGOK then s.reseed else s)

/-! ## Secure boot (R402 to R404) -/

/-- A number of an image header. -/
def hdrNum (g : Nat → Byte) (o n : Nat) : Nat := bytesNat ((List.range n).map (fun k => g (o + k)))
/-- Bytes of an image. -/
def imgBytes (g : Nat → Byte) (o n : Nat) : List Byte := (List.range n).map (fun k => g (o + k))

/-- The load range of a target (R403). -/
def State.loadRange (s : State) (t : Nat) : Nat × Nat :=
  if t = 0 then (0x112C0000, 0x11300000)
  else if t ≤ 5 then (0x11180000 + 0x40000 * (t - 1), 0x11180000 + 0x40000 * t)
  else if t = 6 then (dramBase, dramBase + s.usable)
  else (0x11300000, 0x11370000)

/-- Steps 1 to 6 of the verifier: the status of the first failure, or OK (R404). -/
def State.verifyHeader (s : State) (g : Nat → Byte) (target : Nat) : Nat :=
  let z (o n : Nat) : Bool := (imgBytes g o n).all (fun b => b == 0)
  let load := hdrNum g 0x10 8
  let len := hdrNum g 0x18 4
  let range := s.loadRange target
  let key := hdrNum g 7 1
  let pub := imgBytes g 0x70 96
  if hdrNum g 0 4 ≠ 0x4D494E44 ∨ hdrNum g 4 2 ≠ 1 ∨ !z 0x0C 4 ∨ !z 0x30 16 ∨ !z 0x130 16 then St.TYPE
  else if hdrNum g 6 1 ≠ target ∨ load < range.1 ∨ range.2 < load + len ∨ len ≤ hdrNum g 0x1C 4 then St.RANGE
  else if 3 < key ∨ s.revoked / 2 ^ key % 2 = 1 ∨ sha384b pub ≠ s.otpBytes (0x80 + 0x30 * key) 48 then St.AUTH
  else if hdrNum g 8 4 < s.minSvn target then St.AUTH
  else if !z 0x20 16 && imgBytes g 0x20 16 != (sha384b s.devid).take 16 then St.AUTH
  else if !ecdsaOk (sha384b (imgBytes g 0 0xD0)) pub (imgBytes g 0xD0 96) then St.AUTH
  else St.OK

/-- The measurement register of a target: MC5, MC0 to MC4 and dictionary, AC (R400). -/
def mrOf (t : Nat) : Nat := if t = 0 then 0 else if t = 6 then 2 else 1

/-- The verifier (R404): the state it leaves and the status. -/
def State.verifyImage (s : State) (g : Nat → Byte) (target : Nat) : State × Nat :=
  let st := s.verifyHeader g target
  if st ≠ St.OK then (s, st)
  else
    let load := hdrNum g 0x10 8
    let pay := imgBytes g 0x140 (hdrNum g 0x18 4)
    if sha384b pay = imgBytes g 0x40 48 then
      ((s.store Ini.PKE load pay).extendMr (mrOf target) (sha384b (imgBytes g 0 0xD0)), St.OK)
    else (s.store Ini.PKE load (List.replicate pay.length 0), St.AUTH)

/-- A byte of the external flash; an erased byte reads 0xFF. -/
def State.flashByte (s : State) (a : Nat) : Byte := Sparse.get (fun _ => 0xFF#8) s.flash a

/-! ## Debug unlock (R407, R408) -/

/-- DEBUG_CHALLENGE (R407): 32 random bytes, DEVID, LIFECYCLE and the failure count. -/
def execDebugChallenge (s : State) : Host.Outcome State Fault Refusal :=
  if 3 ≤ s.rf F.PKE_DBGSTAT_FAIL then .next s
  else
    let r := s.draw 32
    .next ((r.1.setPke (fun p => { p with challenge := some r.2 })).emit
      (.challenge (r.2 ++ r.1.devid ++ natBytes 1 r.1.lifecycle ++ natBytes 1 (r.1.rf F.PKE_DBGSTAT_FAIL))))

/-- A scope 2 unlock erases as an alarm erase does in its steps 1 to 6, and sets DBGERASE (R407). -/
def State.debugErase (s : State) : State :=
  let s := (s.alarmErase.pkeAbort).alarmWipe
  (s.setCry (fun c => { c with almErase := false })).wf F.CRY_STAT_DBGERASE 1

/-- DEBUG_TOKEN (R407, R408). -/
def execDebugToken (scope : BitVec 8) (challenge pubkey sig : List (BitVec 8)) (s : State) : Host.Outcome State Fault Refusal :=
  let msg := [scope] ++ challenge ++ pubkey
  if 3 ≤ s.rf F.PKE_DBGSTAT_FAIL then .next s
  else if s.pke.challenge = some challenge ∧ (scope = 1 ∨ scope = 2) ∧ sha384b pubkey = s.otpBytes 0x140 48 ∧
      ecdsaOk (sha384b msg) pubkey sig then
    let s := s.setPke (fun p => { p with challenge := none })
    let s := if scope = 2 then s.debugErase else s
    let s := s.wf F.PKE_DBGSTAT_SCOPE scope.toNat
    .next ((s.extendMr 3 (sha384b (msg ++ sig))).raise 173)
  else
    let s := s.setPke (fun p => { p with challenge := none })
    let n := s.rf F.PKE_DBGSTAT_FAIL + 1
    let s := ((s.wf F.PKE_DBGSTAT_FAIL n).errSet R.PKE_ERR St.AUTH).raise 173
    .next (if n < 3 then s else s.alarm 8)

end Sys2Proof.Machine
end

