-- ==== Sys2Proof/Machine/Xspi.lean ====
section
/-! DEFINITION. The external flash and XSPI (R363, R511, R527): flash contents, stored records in two copies, the operation
queue. -/

namespace Sys2Proof.Machine

/-! ## Flash contents -/

/-- An erased flash byte. -/
def ffByte (_a : Nat) : Byte := 0xFF#8
/-- Bytes of the flash. -/
def State.flashBytes (s : State) (a : Nat) : Nat → List Byte
  | 0 => []
  | n + 1 => s.flashByte a :: s.flashBytes (a + 1) n
/-- A word of the flash. -/
def State.flashWord (s : State) (a : Nat) : Nat := bytesNat (s.flashBytes a 4)
/-- Set a byte of the flash. -/
def State.setFlash (s : State) (a : Nat) (b : Byte) : State := { s with flash := Sparse.put ffByte s.flash a b }
/-- Set bytes of the flash. -/
def State.setFlashAll (s : State) (a : Nat) : List Byte → State
  | [] => s
  | b :: bs => (s.setFlash a b).setFlashAll (a + 1) bs
/-- Program bytes: a program clears bits and sets none. PRESUMED, as flash memories work. -/
def State.flashProgram (s : State) (a : Nat) : List Byte → State
  | [] => s
  | b :: bs => (s.setFlash a (s.flashByte a &&& b)).flashProgram (a + 1) bs
/-- Erase a range. -/
def State.flashErase (s : State) (a len : Nat) : State :=
  { s with flash := Sparse.drop (fun k => decide (a ≤ k ∧ k < a + len)) s.flash }

/-! ## Stored records (R363, R364) -/

/-- A copy of a stored record: TYPE, SEQ and data words. -/
structure StoredRec where
  typ : Nat
  seq : Nat
  data : List Nat
deriving DecidableEq, Repr

/-- The words of a list of bytes. -/
def wordsOf : List Byte → List Nat
  | a :: b :: c :: d :: l => bytesNat [a, b, c, d] :: wordsOf l
  | _ => []

/-- The bytes of a copy. -/
def StoredRec.bytes (r : StoredRec) : List Byte :=
  let d := (natBytes 4 (r.typ * 2 ^ 16 + r.data.length) ++ natBytes 4 r.seq) ++ r.data.flatMap (fun w => natBytes 4 w)
  d ++ natBytes 4 (crc32c d)

/-- Bytes that a copy of `n` data words takes. -/
def recSize (n : Nat) : Nat := 4 * (n + 3)

/-- A copy at a flash offset, when it is valid and ends by `lim`. -/
def State.recAt (s : State) (a lim : Nat) : Option StoredRec :=
  let w0 := s.flashWord a
  let n := w0 % 2 ^ 16
  if n = 0 ∨ 16383 < n ∨ lim < a + recSize n then none
  else
    let d := s.flashBytes a (4 * (n + 2))
    if s.flashBytes (a + 4 * (n + 2)) 4 = natBytes 4 (crc32c d) then
      some ⟨w0 / 2 ^ 16, s.flashWord (a + 4), (wordsOf d).drop 2⟩
    else none

/-- The winner of two copies (R363). -/
def recWin (a b : Option StoredRec) : Option StoredRec :=
  match a, b with
  | some x, some y => if 1 ≤ (y.seq + 2 ^ 32 - x.seq) % 2 ^ 32 ∧ (y.seq + 2 ^ 32 - x.seq) % 2 ^ 32 < 2 ^ 31 then some y else some x
  | some x, none => some x
  | none, y => y

/-- The records of a pair of segments from `o`, each decided between its copies, and the offset behind the last one. Both
copies erased, or no copy valid, ends the pair; the flag tells the second case. -/
def State.recWalk (s : State) (a b size : Nat) : Nat → Nat → List StoredRec × Nat × Bool
  | 0, o => ([], o, false)
  | n + 1, o =>
    if size < o + 4 ∨ (s.flashWord (a + o) = 0xFFFFFFFF ∧ s.flashWord (b + o) = 0xFFFFFFFF) then ([], o, false)
    else
      match recWin (s.recAt (a + o) (a + size)) (s.recAt (b + o) (b + size)) with
      | none => ([], o, true)
      | some r =>
        let t := s.recWalk a b size n (o + recSize r.data.length)
        (r :: t.1, t.2)

/-- Write a record at the same offset of a pair's segments, copy B first, then copy A. -/
def State.pairWrite (s : State) (a b o : Nat) (r : StoredRec) : State :=
  (s.flashProgram (b + o) r.bytes).flashProgram (a + o) r.bytes

/-! ## The operation queue (R511, R527) -/

/-- Change XSPI's state. -/
def State.setXspi (s : State) (f : XspiSt → XspiSt) : State := { s with xspi := f s.xspi }

/-- Keep IDLE, WIP, SUSPENDED and the queue level of XSPI_STAT. -/
def State.xspiKeep (s : State) : State :=
  let x := s.xspi
  let s := s.wb F.XSPI_STAT_IDLE (x.run.isNone && x.queue.isEmpty)
  let s := s.wb F.XSPI_STAT_WIP (x.run.any (fun o => o.kind == 2 || o.kind == 3))
  (s.wb F.XSPI_STAT_SUSPENDED x.susp.isSome).wf F.XSPI_STAT_QLEVEL x.queue.length

/-- Operations that the ODE's journal, the ledger and the boot ROM perform through their internal ports count as others do. -/
def State.flashOps (s : State) (n : Nat) : State := s.bumpBy R.XSPI_CNT_OPS n

/-- The staged operation. -/
def State.stagedOp (s : State) : FlashOp :=
  ⟨s.rf F.XSPI_OP_W0_KIND, s.rf F.XSPI_OP_W0_PRIO, s.rf F.XSPI_OP_W0_TAG, s.rf F.XSPI_OP_W0_OPC, s.regN R.XSPI_OP_W1,
    s.regN R.XSPI_OP_W2, s.regN R.XSPI_OP_W3 + s.regN R.XSPI_OP_W4 * 2 ^ 32⟩

/-- The check of a push (R527). -/
def State.opCheck (s : State) (o : FlashOp) : Nat :=
  if o.kind = 0 ∨ 4 < o.kind then St.TYPE
  else if s.reg R.XSPI_OP_W0 &&& 0x0C00FF00 ≠ 0 ∨ (o.kind ≠ 4 ∧ o.opc ≠ 0) ∨ 2 ^ 36 ≤ o.addr ∨ (3 ≤ o.kind ∧ o.addr ≠ 0) then
    St.RANGE
  else if o.kind ≤ 2 ∧ (o.len = 0 ∨ 16777215 < o.len) then St.RANGE
  else if o.kind = 3 ∧ (o.len < 12 ∨ 18 < o.len) then St.RANGE
  else if o.kind = 4 ∧ 256 < o.len then St.RANGE
  else if 16 ≤ s.xspi.queue.length then St.BUSY
  else St.OK

/-- A push. -/
def State.opPush (v : Word) (s : State) : State :=
  if !v.getLsbD 0 then s
  else
    let o := s.stagedOp
    let code := s.opCheck o
    if code = St.OK then (s.setXspi (fun x => { x with queue := x.queue ++ [o] })).xspiKeep
    else s.refuse R.XSPI_ERR code 216

/-- XSPI_OP_PUSH (R527). -/
def execXspiOpPush (i : Init) (v : Word) (s : State) : Host.Outcome State Fault Refusal :=
  .next (s.onWrite i R.XSPI_OP_PUSH (State.opPush v))

/-- The operation that is taken next: the highest PRIO, within it the oldest. -/
def nextOp (l : List FlashOp) : Option FlashOp :=
  l.find? (fun o => l.all (fun x => decide (x.prio ≤ o.prio)))

/-- The READ that suspends a running PROGRAM or ERASE. -/
def State.suspender (s : State) : Option FlashOp :=
  match s.xspi.run with
  | none => none
  | some r =>
    if s.rb F.XSPI_CTRL_SUSP && (r.kind == 2 || r.kind == 3) && s.xspi.susp.isNone then
      nextOp (s.xspi.queue.filter (fun o => o.kind == 1 && decide (r.prio < o.prio)))
    else none

/-- An operation of a kind starts, when it is the one to be taken; a READ may suspend the one that runs. -/
def State.opStart (s : State) (kind : Nat) : State :=
  if !s.rb F.XSPI_CTRL_EN then s
  else
    match s.xspi.run with
    | none =>
      match nextOp s.xspi.queue with
      | some o =>
        if o.kind = kind then (s.setXspi (fun x => { x with queue := x.queue.erase o, run := some o })).xspiKeep else s
      | none => s
    | some r =>
      match s.suspender with
      | some o =>
        if kind = 1 then
          ((s.setXspi (fun x => { x with queue := x.queue.erase o, run := some o, susp := some r })).bump R.XSPI_CNT_SUSP).xspiKeep
        else s
      | none => s

/-- XSPI_READ (R511). -/
def execXspiRead (s : State) : Host.Outcome State Fault Refusal := .next (s.opStart 1)
/-- XSPI_PROGRAM (R511). -/
def execXspiProgram (s : State) : Host.Outcome State Fault Refusal := .next (s.opStart 2)
/-- XSPI_ERASE (R511). -/
def execXspiErase (s : State) : Host.Outcome State Fault Refusal := .next (s.opStart 3)
/-- XSPI_RAW (R511). -/
def execXspiRaw (s : State) : Host.Outcome State Fault Refusal := .next (s.opStart 4)

/-- The flash range of an operation; an ERASE takes the unit that its offset lies in. -/
def opRange (o : FlashOp) : Nat × Nat :=
  if o.kind = 3 then (o.off / 2 ^ o.len * 2 ^ o.len, 2 ^ o.len) else (o.off, o.len)

/-- A range overlaps a protected one (R511). -/
def State.flashWp (s : State) (a len : Nat) : Bool :=
  [0, 1, 2, 3].any (fun k =>
    let b := s.rf (F.XSPI_WP_BASE_BASE k) * 4096
    let n := s.rf (F.XSPI_WP_SIZE_SIZE k) * 4096
    decide (0 < n ∧ a < b + n ∧ b < a + len))

/-- How the flash and the memory answer an operation: 0 well, 1 the flash reports a failure, 2 an uncorrectable read. -/
def State.opStatus (s : State) (o : FlashOp) (fail : Nat) : Nat :=
  let r := opRange o
  if o.kind = 4 then (if fail = 1 then St.HW else St.OK)
  else if s.xspi.size < r.1 + r.2 then St.RANGE
  else if o.kind ≠ 1 ∧ s.flashWp r.1 r.2 then St.RIGHTS
  else if fail = 1 ∧ o.kind ≠ 1 then St.HW
  else if fail = 2 ∧ o.kind = 1 ∧ s.rb F.XSPI_CTRL_NAND then St.CHECK
  else if o.kind = 1 ∧ !s.writable Ini.XSPI o.addr o.len then St.HW
  else if o.kind = 2 ∧ (!s.readable o.addr o.len ∨ s.eccBad o.addr o.len) then St.HW
  else St.OK

/-- `n` free bytes. -/
def State.freeBytes (s : State) : Nat → List Byte × State
  | 0 => ([], s)
  | n + 1 =>
    let r := s.used.freeBytes n
    (BitVec.ofNat 8 s.free :: r.1, r.2)

/-- What an operation does. A PROGRAM or ERASE that the flash reports as failed leaves contents that are not given. -/
def State.opEffect (s : State) (o : FlashOp) (status : Nat) (data : List Byte) : State :=
  let r := opRange o
  if status = St.OK then
    if o.kind = 1 then s.store Ini.XSPI o.addr (s.flashBytes o.off o.len)
    else if o.kind = 2 then (s.eccRead Ini.XSPI o.addr o.len).flashProgram o.off (s.bytes o.addr o.len)
    else if o.kind = 3 then s.flashErase r.1 r.2
    else s.setXspi (fun x => { x with txf := x.txf.drop o.len, rxf := x.rxf ++ data.take o.len })
  else if status = St.HW ∧ (o.kind = 2 ∨ o.kind = 3) then
    let b := s.freeBytes r.2
    b.2.setFlashAll r.1 b.1
  else s

/-- XSPI_OP_DONE (R511): the running operation ends; a suspended one resumes. `data` is what the flash answers to a RAW. -/
def execXspiOpDone (fail : Fin 3) (data : List (BitVec 8)) (s : State) : Host.Outcome State Fault Refusal :=
  match s.xspi.run with
  | none => .next s
  | some o =>
    let status := s.opStatus o fail.val
    let s := (s.opEffect o status data).bump R.XSPI_CNT_OPS
    let s := s.setXspi (fun x => { x with
      run := x.susp, susp := none,
      results := if x.results.length < 16 then x.results ++ [⟨o.tag, o.kind, status, s.gt⟩] else x.results })
    let s := s.xspiKeep
    if status = St.OK then .next s else .next ((s.bump R.XSPI_CNT_FAIL).raise 216)

/-- A read of XSPI_RES (R527). -/
def State.xspiPop (i : Init) (s : State) : State :=
  match s.xspi.results with
  | [] => s.answer i 0
  | x :: xs => (s.setXspi (fun y => { y with results := xs })).answer i
      (BitVec.ofNat 32 (2 ^ 31 + x.tag * 2 ^ 16 + x.opc * 2 ^ 12 + x.status))

/-- XSPI_RESULT_POP (R527). -/
def execXspiResultPop (i : Init) (s : State) : Host.Outcome State Fault Refusal :=
  .next (s.onRead i R.XSPI_RES (State.xspiPop i))

/-- A read of XSPI_FIFO takes four bytes; an empty FIFO reads a free value. -/
def State.fifoRead (s : State) : State × Word :=
  if s.xspi.rxf.length < 4 then (s.used, BitVec.ofNat 32 s.free)
  else (s.setXspi (fun x => { x with rxf := x.rxf.drop 4 }), BitVec.ofNat 32 (bytesNat (s.xspi.rxf.take 4)))

/-- A write to XSPI_FIFO adds four bytes. -/
def State.fifoWrite (v : Word) (s : State) : State := s.setXspi (fun x => { x with txf := x.txf ++ wordBytes [v] })

end Sys2Proof.Machine
end

