-- ==== Sys2Proof/Machine/Sys.lean ====
section
/-! DEFINITION. SYS and the start of the device (R496 to R527, R531, R534): resets, watchdog, start sequence and boot ROM,
start steps and readiness, clock gating, boot ledger, denials, supplies, the copy of a crash dump. -/

namespace Sys2Proof.Machine

/-! ## Start steps and readiness (R35, R194, R504, R505) -/

/-- A radio that is no longer ready (R174, R194): its MAC's BSSs and mesh end, and of the MPDUs staged on its link those that
have another eligible link move there; the others are dropped. -/
def State.radioLost (s : State) (r : WRadio) : State :=
  let s := (s.wf (F.MAC_STAT_BSSACT r) 0).setMac r (fun m => { m with mesh := false, contend := [] })
  let s := s.setWlan (fun w => { w with moves := w.moves.filter (fun x => x.2 != r.idx) })
  (s.mpdus.filter (fun m => m.radio == r.idx)).foldl (fun s m =>
    let dst := if m.client = 0xFFF then none else [2, 1, 0].find? (fun k => k != r.idx && s.linkOk m.client m.tid k)
    match dst with
    | some k => s.setWlan (fun w => { w with moves := (w.moves.filter (fun x => x.1 != m.num)) ++ [(m.num, k)] })
    | none => (s.endMpdu m.num).bump R.STP_CNT_LINKDROP) s

/-- The field MAC is no longer ready (R256). -/
def State.fieldLost (s : State) : State :=
  let s := (s.wb F.FMAC_STAT_PARENT false).wb F.FMAC_STAT_UP false
  ((s.wb F.FMAC_STAT_LL false).wf F.FMAC_STAT_USTATE 0).setFld (fun f => { f with starting := false, resp := none, await := none })

/-- Start-step bits change by a write or a step: what follows from a radio, the field MAC or Steppe that is lost. -/
def State.stepsTo (s : State) (steps : Nat) : State :=
  let was (k : Nat) : Bool := s.ready k
  let n := s.setSteps steps
  let n := if was 14 && !n.ready 14 then n.radioLost .l else n
  let n := if was 15 && !n.ready 15 then n.radioLost .m else n
  let n := if was 16 && !n.ready 16 then n.radioLost .h else n
  let n := if was 18 && !n.ready 18 then n.fieldLost else n
  if was 19 != n.ready 19 then n.keepAllLim else n

/-- The bits of SYS_STEPOK that an initiator owns (R505). -/
def stepOwned (i : Nat) : Nat :=
  if i = 18 then 2 ^ 6
  else if 4 ≤ i ∧ i ≤ 7 then 2 ^ (14 + (i - 4))
  else if i = 8 then 2 ^ 18 + 2 ^ 23
  else if i = 9 then 0x3F80 + 0x3C000 + 2 ^ 18 + 2 ^ 23 + 0x780000 + 2 ^ 24 + 2 ^ 25
  else 0

/-- A write to SYS_STEPSET or SYS_STEPCLR (R505). -/
def State.stepWrite (set : Bool) (i : Nat) (v : Word) (s : State) : State :=
  if v.toNat &&& stepOwned i ≠ v.toNat then s.refuse R.SYS_ERR St.RIGHTS 217
  else
    let old := s.regN R.SYS_STEPOK
    s.stepsTo (if set then old ||| v.toNat else old - (old &&& v.toNat))

/-- STEPSET (R505). -/
def execStepset (i : Init) (v : Word) (s : State) : Host.Outcome State Fault Refusal :=
  .next (s.onWrite i R.SYS_STEPSET (State.stepWrite true i.val v))
/-- STEPCLR (R505). -/
def execStepclr (i : Init) (v : Word) (s : State) : Host.Outcome State Fault Refusal :=
  .next (s.onWrite i R.SYS_STEPCLR (State.stepWrite false i.val v))

/-- READINESS_SET (R35): the start step of function `k` passes; its readiness bit follows from it and from what it depends
on. -/
def execReadinessSet (k : Fin 26) (s : State) : Host.Outcome State Fault Refusal :=
  .next (s.stepsTo (s.regN R.SYS_STEPOK ||| 2 ^ k.val))

/-- READINESS_CLEAR (R35): the start step of function `k` no longer holds; every bit that depends on it clears with it. -/
def execReadinessClear (k : Fin 26) (s : State) : Host.Outcome State Fault Refusal :=
  .next (s.stepsTo (s.regN R.SYS_STEPOK - (s.regN R.SYS_STEPOK &&& 2 ^ k.val)))

/-- RDYEN_SET (R504): readiness becomes visible; no EV207 is raised. -/
def execRdyenSet (i : Init) (v : Word) (s : State) : Host.Outcome State Fault Refusal :=
  .next (s.onWrite i R.SYS_CTRL (fun s => s.writeReg i.val R.SYS_CTRL v))

/-- The start-step bits that a clear of a SYS_CLKEN bit clears (R505). -/
def clkSteps (k : Nat) : Nat :=
  if k = 0 then 2 ^ 25 else if k = 1 then 2 ^ 7 + 2 ^ 19 else if k = 2 then 2 ^ 16 else if k = 3 then 2 ^ 14 + 2 ^ 15
  else if k = 4 then 2 ^ 17 + 2 ^ 18 else if k = 5 then 2 ^ 3 else if k = 6 then 0x3F00 else 2 ^ 6 + 2 ^ 23

/-- A write to SYS_CLKEN (R505). -/
def State.clkWrite (i : Nat) (v : Word) (s : State) : State :=
  let old := s.reg R.SYS_CLKEN
  let s := s.writeReg i R.SYS_CLKEN v
  let gone := [0, 1, 2, 3, 4, 5, 6, 7].filter (fun k => old.getLsbD k && !(s.reg R.SYS_CLKEN).getLsbD k)
  if gone.isEmpty then s
  else
    let m := gone.foldl (fun m k => m ||| clkSteps k) 0
    s.stepsTo (s.regN R.SYS_STEPOK - (s.regN R.SYS_STEPOK &&& m))

/-- CLKEN_WRITE (R505). -/
def execClkenWrite (i : Init) (v : Word) (s : State) : Host.Outcome State Fault Refusal :=
  .next (s.onWrite i R.SYS_CLKEN (State.clkWrite i.val v))

/-- NET_PLL_RETRY (R515): MC5 retries the Ethernet start step; ETH0 to ETH5 stay LIMITED while the PLL is not locked. -/
def execNetPllRetry (locked : Bool) (s : State) : Host.Outcome State Fault Refusal :=
  if !s.sys.mc5 then .next s
  else
    let s := [8, 9, 10, 11, 12, 13].foldl (fun s k => s.limit k (!locked)) s
    if locked then .next (s.stepsTo (s.regN R.SYS_STEPOK ||| 0x3F00)) else .next s

/-! ## Resets (R496, R497, R434) -/

/-- Registers that every reset keeps: the fuses and the reset causes. -/
def keptCold (a : Nat) : Bool :=
  decide (0x40050400 ≤ a ∧ a < 0x40050600) || a == R.SYS_OTPCNT || a == R.SYS_RSTCAUSE

/-- Registers that a warm reset keeps beside them: the AON scratch words, the alarm count, and with retained DRAM the
controller's trained values and the basin. -/
def keptWarm (dram : Bool) (a : Nat) : Bool :=
  keptCold a || decide (R.SYS_AONSCR 0 ≤ a ∧ a ≤ R.SYS_AONSCR 3) || a == R.CRY_ALMCNT ||
    (dram && (a == R.DRC_STAT || a == R.DRC_USABLE || a == R.DRC_DUMP_BASE || a == R.DRC_DUMP_SIZE || a == R.DRC_DUMP))

/-- What a reset leaves (R497): SRAM keeps its bytes until step 3 of R501 clears it. -/
def State.resetKeep (s : State) (keep : Nat → Bool) (dram warm : Bool) : State :=
  { State.reset with
    pending := s.pending, out := s.out, freeCtr := s.freeCtr, flash := s.flash
    regs := Sparse.drop (fun a => !keep a) s.regs
    mem := if dram then s.mem else s.mem.filter (fun c => !isDram c.1)
    ecc := if dram then s.ecc else Sparse.drop (fun k => isDram (8 * k)) s.ecc
    sys := { SysSt.reset with
      cold := !warm
      rlyNc := s.sys.rlyNc
      rlyOut := warm && s.sys.rlyOut } }

/-- The causes of this and of the previous reset (R526); a power-on clears the previous one. -/
def State.rstCause (s : State) (cause old : Nat) : State :=
  s.setRegN R.SYS_RSTCAUSE (cause * 2 ^ 24 + (if cause = 1 then 0 else old) * 2 ^ 16)

/-- A cold reset. -/
def State.coldReset (s : State) (cause : Nat) : State :=
  let old := s.rf F.SYS_RSTCAUSE_THIS
  ((s.resetKeep keptCold false false).wf F.SYS_OTPCNT_BUSY 0).rstCause cause old

/-- A warm reset, with DUMP_RETAIN (R434): a controller that holds data goes into self-refresh. -/
def State.warmReset (s : State) (cause : Nat) : State :=
  let old := s.rf F.SYS_RSTCAUSE_THIS
  let dram := decide (2 ≤ s.rf F.DRC_STAT_STATE)
  let s := ((s.resetKeep (keptWarm dram) dram true).wf F.SYS_OTPCNT_BUSY 0).rstCause cause old
  if dram then ((s.setRegN R.DRC_STAT (s.regN R.DRC_STAT % 2 ^ 28 / 2 ^ 25 * 2 ^ 25 + s.regN R.DRC_STAT % 2 ^ 24)).wf F.DRC_STAT_STATE 4
    |>.wb F.DRC_DUMP_RETAINED true).wb F.DRC_DUMP_LOCK true
  else s

/-- POWER_ON_RESET (R534). -/
def execPowerOnReset (s : State) : Host.Outcome State Fault Refusal := .next (s.coldReset 1)
/-- RESET_PIN (R544). -/
def execResetPin (s : State) : Host.Outcome State Fault Refusal := .next (s.coldReset 2)

/-- A write to SYS_RSTCMD (R496, R526): 6 is the cause of a warm reset in DUMP. -/
def State.rstCmd (key opc : Nat) (s : State) : State :=
  if key ≠ 0x5253 ∨ opc = 0 ∨ 2 < opc then s.refuse R.SYS_ERR St.RANGE 217
  else if opc = 2 then s.coldReset 3
  else s.warmReset (if s.rf F.ODE_STAT_STATE = 5 then 6 else 4)

/-- COLD_RESET_CMD (R496). -/
def execColdResetCmd (i : Init) (key : BitVec 16) (s : State) : Host.Outcome State Fault Refusal :=
  .next (s.onWrite i R.SYS_RSTCMD (State.rstCmd key.toNat 2))
/-- WARM_RESET_CMD (R496). -/
def execWarmResetCmd (i : Init) (key : BitVec 16) (s : State) : Host.Outcome State Fault Refusal :=
  .next (s.onWrite i R.SYS_RSTCMD (State.rstCmd key.toNat 1))

/-! ## Watchdog (R498) -/

/-- WATCHDOG_EXPIRY (R498). -/
def execWatchdogExpiry (s : State) : Host.Outcome State Fault Refusal :=
  if s.rb F.SYS_WDT_EN then .next (s.warmReset 5) else .next s

/-- A write to SYS_WDT: a timeout is in force at once while EN is clear, else from the next kick. -/
def State.wdtWrite (i : Nat) (v : Word) (s : State) : State :=
  let was := s.rb F.SYS_WDT_EN
  let s := s.writeReg i R.SYS_WDT v
  if was then s else s.setSys (fun y => { y with wdtMs := s.rf F.SYS_WDT_MS })

/-- WDT_ENABLE (R498). -/
def execWdtEnable (i : Init) (v : Word) (s : State) : Host.Outcome State Fault Refusal :=
  .next (s.onWrite i R.SYS_WDT (State.wdtWrite i.val v))

/-- A write to SYS_WDT_KICK. -/
def State.wdtKick (v : Word) (s : State) : State :=
  if v = 0x0000A5A5 then s.setSys (fun y => { y with wdtMs := s.rf F.SYS_WDT_MS }) else s.refuse R.SYS_ERR St.RANGE 217

/-- WDT_KICK (R498). -/
def execWdtKick (i : Init) (v : Word) (s : State) : Host.Outcome State Fault Refusal :=
  .next (s.onWrite i R.SYS_WDT_KICK (State.wdtKick v))

/-! ## Boot ledger (R512, R513) -/

/-- A segment of the ledger. -/
def ledgerSeg (k : Nat) : Nat := 0x10000 + 0x10000 * k

/-- The records of pair `p`, and the offset behind the last. -/
def State.ledgerPair (s : State) (p : Nat) : List StoredRec × Nat × Bool :=
  s.recWalk (ledgerSeg (2 * p)) (ledgerSeg (2 * p + 1)) 0x10000 1700 0

/-- A record is a ledger whose epoch is valid. -/
def State.ledgerOk (s : State) (r : StoredRec) : Bool :=
  let e := r.data.getD 0 0 % 2 ^ 9
  let c := s.rf F.SYS_OTPCNT_EPOCH
  r.typ == 0x4C00 && decide (r.data.length = 7 + r.data.getD 2 0 % 64) && (e == c || e == c + 1)

/-- The latest of a list of records. -/
def latestRec (l : List StoredRec) : Option StoredRec :=
  l.foldl (fun b r =>
    match b with
    | none => some r
    | some x => if x.seq < r.seq then some r else some x) none

/-- The pairs with the latest valid record of each. -/
def State.ledgers (s : State) : List (Nat × StoredRec) :=
  [0, 1, 2, 3].filterMap (fun p => (latestRec ((s.ledgerPair p).1.filter s.ledgerOk)).map (fun r => (p, r)))

/-- The ledger in force and its pair: the valid record with the highest SEQ. -/
def State.ledgerAt (s : State) : Option (Nat × StoredRec) :=
  s.ledgers.foldl (fun b x =>
    match b with
    | none => some x
    | some y => if y.2.seq < x.2.seq then some x else some y) none

/-- Its data words. -/
def State.ledger (s : State) : Option (List Nat) := s.ledgerAt.map (fun x => x.2.data)
/-- Bits of a data word of the ledger in force, or what holds without one. -/
def State.ledgerBits (s : State) (w hi lo dflt : Nat) : Nat :=
  match s.ledger with
  | none => dflt
  | some d => d.getD w 0 / 2 ^ lo % 2 ^ (hi - lo + 1)

/-- Blow the next epoch fuse (R513). -/
def State.otpStart (s : State) : State := s.wb F.SYS_OTPCNT_BUSY true

/-- Write the next ledger record (R512): at the next free offset of the active pair, or at the start of the next pair, which
is erased first. -/
def State.ledgerPut (s : State) (data : List Nat) : State :=
  let r (seq : Nat) : StoredRec := ⟨0x4C00, seq % 2 ^ 32, data⟩
  match s.ledgerAt with
  | none =>
    let s := (s.flashErase (ledgerSeg 0) 0x20000).flashOps 4
    s.pairWrite (ledgerSeg 0) (ledgerSeg 1) 0 (r 1)
  | some (p, x) =>
    let o := (s.ledgerPair p).2.1
    if o + recSize data.length ≤ 0x10000 then
      (s.flashOps 2).pairWrite (ledgerSeg (2 * p)) (ledgerSeg (2 * p + 1)) o (r (x.seq + 1))
    else
      let q := (p + 1) % 4
      let s := (s.flashErase (ledgerSeg (2 * q)) 0x20000).flashOps 4
      s.pairWrite (ledgerSeg (2 * q)) (ledgerSeg (2 * q + 1)) 0 (r (x.seq + 1))

/-- MC5 writes a ledger; while the record in force is one epoch ahead the fuse is blown first (R513). -/
def State.ledgerWrite (s : State) (data : List Nat) : State :=
  let c := s.rf F.SYS_OTPCNT_EPOCH
  if s.ledgerBits 0 8 0 c = c + 1 ∧ c < 256 then s.otpStart else s.ledgerPut data

/-- LEDGER_WRITE (R512). -/
def execLedgerWrite (data : List (BitVec 32)) (s : State) : Host.Outcome State Fault Refusal :=
  if s.sys.mc5 ∧ 7 ≤ data.length ∧ data.length ≤ 39 then .next (s.ledgerWrite (data.map (fun w => w.toNat))) else .next s

/-- A write to SYS_OTPCNT_INC (R526). -/
def State.otpInc (v : Word) (s : State) : State :=
  if !v.getLsbD 0 then s
  else if s.rb F.SYS_OTPCNT_BUSY then s.refuse R.SYS_ERR St.BUSY 217
  else if 256 ≤ s.rf F.SYS_OTPCNT_EPOCH then s.refuse R.SYS_ERR St.RANGE 217
  else s.otpStart

/-- OTPCNT_INC (R513). -/
def execOtpcntInc (i : Init) (v : Word) (s : State) : Host.Outcome State Fault Refusal :=
  .next (s.onWrite i R.SYS_OTPCNT_INC (State.otpInc v))

/-- OTP_FUSE_DONE (R513). -/
def execOtpFuseDone (s : State) : Host.Outcome State Fault Refusal :=
  if s.rb F.SYS_OTPCNT_BUSY then
    .next ((s.wf F.SYS_OTPCNT_EPOCH (min 256 (s.rf F.SYS_OTPCNT_EPOCH + 1))).wb F.SYS_OTPCNT_BUSY false)
  else .next s

/-- The ledger that MC5 writes when none is valid (R510, R515): the flash map's defaults, no step entries. -/
def State.freshLedger (s : State) : List Nat :=
  [s.rf F.SYS_OTPCNT_EPOCH, 1, s.rf F.SYS_RSTCAUSE_THIS * 2 ^ 16, 0, 9 * 2 ^ 16 + 0x29, 0x100 * 2 ^ 16 + 0x19, 0x000C0004]

/-- The ledger in force, or a fresh one. -/
def State.ledgerNow (s : State) : List Nat := s.ledger.getD s.freshLedger

/-- Replace or add the entry of a step: its status, and FAILRUN one higher, or 0 when it passed (R514, R515). -/
def ledgerStep (d : List Nat) (step status : Nat) : List Nat :=
  let ents := d.drop 7
  let old := (ents.find? (fun e => e / 2 ^ 24 == step)).getD (step * 2 ^ 24)
  let run := if status = 0 then 0 else min 15 (old / 2 ^ 16 % 16 + 1)
  let new := step * 2 ^ 24 + old / 2 ^ 20 % 16 * 2 ^ 20 + run * 2 ^ 16 + status * 2 ^ 8 + old % 2 ^ 8
  let ents := if ents.any (fun e => e / 2 ^ 24 == step) then ents.map (fun e => if e / 2 ^ 24 = step then new else e)
    else if ents.length < 32 then ents ++ [new] else ents
  let w2 := d.getD 2 0 / 64 * 64 + ents.length
  (d.take 7).set 2 w2 ++ ents

/-- FAILRUN of a step in a ledger. -/
def failRun (d : List Nat) (step : Nat) : Nat := ((d.drop 7).find? (fun e => e / 2 ^ 24 == step)).getD 0 / 2 ^ 16 % 16

/-! ## Start sequence and boot ROM (R501 to R503, R531) -/

/-- RESET_RELEASE (R501, R531): at the release of a cold reset RLY_NC is sampled. -/
def execResetRelease (rlyNc : Bool) (s : State) : Host.Outcome State Fault Refusal :=
  if s.sys.phase ≠ 0 then .next s
  else .next (s.setSys (fun y => { y with phase := 1, rlyNc := if y.cold then rlyNc else y.rlyNc }))

/-- REF_VALID (R501, R544): the PLLs lock; GTU and EVR pass their start steps. -/
def execRefValid (s : State) : Host.Outcome State Fault Refusal :=
  if s.sys.phase ≠ 1 then .next s
  else .next ((s.setSys (fun y => { y with phase := 2 })).stepsTo (s.regN R.SYS_STEPOK ||| 3))

/-- The first image of a target in a slot: images stand back to back, each on a 4 KB boundary (R402). -/
def State.findImage (s : State) (target : Nat) : Nat → Nat → Option Nat
  | 0, _ => none
  | n + 1, a =>
    if s.flashWord a = 0xFFFFFFFF then none
    else if (s.flashByte (a + 6)).toNat = target then some a
    else s.findImage target n ((a + 0x140 + s.flashWord (a + 0x18) + 4095) / 4096 * 4096)

/-- Flash offsets of the boot slots (R401). -/
def State.slotBase (s : State) (k : Nat) : Nat := s.regN (R.PKE_OTP (4 + k))

/-- Verify the MC5 image of a slot; TYPE where the slot holds none. -/
def State.bootTry (s : State) (k : Nat) : State × Nat :=
  match s.findImage 0 64 (s.slotBase k) with
  | none => (s, St.TYPE)
  | some a => s.verifyImage (fun o => s.flashByte (a + o)) 0

/-- Record the outcome of a slot in SYS_BOOTSTAT. -/
def State.bootNote (s : State) (k status : Nat) : State :=
  if k = 0 then s.wf F.SYS_BOOTSTAT_SLOTA status else s.wf F.SYS_BOOTSTAT_SLOTB status

/-- MC5 runs a verified image from a source: 0 slot A, 1 slot B, 2 recovery. -/
def State.mc5Runs (s : State) (src : Nat) : State :=
  (s.wf F.SYS_BOOTSTAT_SRC src).setSys (fun y => { y with mc5 := true, recovery := false })

/-- The boot ROM serves recovery on the SPI target port (R503). -/
def State.recover (s : State) : State := s.setSys (fun y => { y with recovery := true })

/-- BOOT_ROM_START (R502). -/
def State.bootRom (s : State) (flashSize : Nat) : State :=
  let s := (s.setXspi (fun x => { x with size := flashSize })).setReg R.SYS_BOOTSTAT 0x00FFFF00
  if s.lifecycle = 0 then s.recover
  else
    let s := s.wb F.SYS_BOOTSTAT_LVALID s.ledger.isSome
    let k := s.ledgerBits 2 31 31 0
    let t := s.bootTry k
    let s := t.1.bootNote k t.2
    if t.2 = St.OK then s.mc5Runs k
    else
      let t := s.bootTry (1 - k)
      let s := t.1.bootNote (1 - k) t.2
      if t.2 = St.OK then s.mc5Runs (1 - k) else s.recover

/-- Zero, with valid check bits, in all SRAM. -/
def State.clearSram (s : State) : State :=
  { s with mem := s.mem.filter (fun c => isDram c.1), ecc := Sparse.drop (fun k => !isDram (8 * k)) s.ecc }

/-- SRAM_CLEAR_DONE (R501, R502): SRAM and CRY pass their start steps; MC5 is released at the boot ROM, which enables the
watchdog. The flash's size is what its SFDP table reports. -/
def execSramClearDone (flashSize : BitVec 32) (s : State) : Host.Outcome State Fault Refusal :=
  if s.sys.phase ≠ 2 then .next s
  else
    let s := (s.clearSram.setSys (fun y => { y with phase := 3 })).stepsTo (s.regN R.SYS_STEPOK ||| (2 ^ 2 + 2 ^ 4))
    .next ((s.wb F.SYS_WDT_EN true).bootRom flashSize.toNat)

/-- RECOVERY_IMAGE (R503): a 4-byte length, an image and a CRC-32C over both. -/
def execRecoveryImage (d : List (BitVec 8)) (s : State) : Host.Outcome State Fault Refusal :=
  let n := bytesNat (d.take 4)
  let body := d.take (4 + n)
  if !s.sys.recovery then .next s
  else if d.length ≠ n + 8 ∨ d.drop (4 + n) ≠ natBytes 4 (crc32c body) then
    .next (s.setSys (fun y => { y with refused := true }))
  else
    let t := s.verifyImage (fun o => d.getD (4 + o) 0) 0
    if t.2 = St.OK then .next ((t.1.setSys (fun y => { y with refused := false })).mc5Runs 2)
    else .next (t.1.setSys (fun y => { y with refused := true }))

/-- IMAGE_VERIFY (R404): the image at a flash offset is verified for a target: the MC5 image by the boot ROM, the others by
MC5's image, once PKE is ready (R36). -/
def execImageVerify (rom : Bool) (target : Fin 8) (off : Nat) (s : State) : Host.Outcome State Fault Refusal :=
  if s.sys.phase ≠ 3 ∨ (rom ∧ target ≠ 0) ∨ (!rom ∧ (target = 0 ∨ !s.sys.mc5 ∨ !s.ready Fn.PKE)) then .next s
  else
    let t := s.verifyImage (fun o => s.flashByte (off + o)) target.val
    .next (t.1.emit (.verified target.val t.2))

/-! ## Denials (R526) -/

/-- A read of SYS_ACCERR. -/
def State.accPop (i : Init) (s : State) : State :=
  let o := if s.acc.ovf then 2 ^ 30 else 0
  match s.acc.held with
  | [] => ({ s with acc := { s.acc with ovf := false } }).answer i (BitVec.ofNat 32 o)
  | x :: xs =>
    let s := ({ s with acc := ⟨xs, false⟩ }).setReg64 R.SYS_ACCADDR_LO R.SYS_ACCADDR_HI x.2
    s.answer i (BitVec.ofNat 32 (2 ^ 31 + o + x.1 * 2 ^ 16))

/-- SYS_ACCERR_POP (R526). -/
def execSysAccerrPop (i : Init) (s : State) : Host.Outcome State Fault Refusal :=
  .next (s.onRead i R.SYS_ACCERR (State.accPop i))

/-! ## Supplies (R534) -/

/-- SUPPLY_OUT_OF_RANGE (R534): rail `k` left its operating range; EV236, once until every rail is back. -/
def execSupplyOutOfRange (_k : Fin 4) (s : State) : Host.Outcome State Fault Refusal :=
  if s.sys.supplyOut then .next s else .next ((s.setSys (fun y => { y with supplyOut := true })).raise 236)

/-- SUPPLY_BACK_IN_RANGE (R534). -/
def execSupplyBackInRange (s : State) : Host.Outcome State Fault Refusal :=
  .next (s.setSys (fun y => { y with supplyOut := false }))

/-! ## Crash dumps (R522 to R524) -/

/-- The dump area of the flash: offset and size (R510, R512). -/
def State.dumpArea (s : State) : Nat × Nat :=
  (s.ledgerBits 4 15 0 0x29 * 0x10000, s.ledgerBits 5 31 16 0x100 * 0x10000)

/-- A dump header of 256 bytes checks: MAGIC and CRC-32C. -/
def dumpOk (h : List Byte) : Bool :=
  bytesNat (h.take 4) == 0x504D5544 && (h.drop 0xFC).take 4 == natBytes 4 (crc32c (h.take 0xFC))

/-- 02.005 DUMP_PRESENT (R524). -/
def State.dumpPresent (s : State) : Bool := dumpOk (s.flashBytes s.dumpArea.1 256)

/-- The section table with BAD set on every section whose CRC fails. -/
def dumpTable (d : List Byte) : Nat → List Byte
  | 0 => []
  | n + 1 =>
    let e := (d.drop (0x100 + 16 * n)).take 16
    let off := bytesNat ((e.drop 4).take 4)
    let len := bytesNat ((e.drop 8).take 4)
    let bad := (e.drop 12).take 4 != natBytes 4 (crc32c ((d.drop off).take len))
    dumpTable d n ++ (e.take 2 ++ [(e.getD 2 0) ||| (if bad then 1 else 0)] ++ e.drop 3)

/-- The header with TRUNC set where the copy is cut, and its CRC. -/
def dumpHeader (h : List Byte) (trunc : Bool) : List Byte :=
  let h := if trunc then h.take 0x31 ++ [(h.getD 0x31 0) ||| 1] ++ h.drop 0x32 else h
  h.take 0xFC ++ natBytes 4 (crc32c (h.take 0xFC))

/-- Copy a dump of `total` bytes at the basin's base to the dump area: sections and table, the header last. -/
def State.dumpWrite (s : State) (base total : Nat) : State :=
  let area := s.dumpArea
  let d := s.bytes base total
  let n := min 32 (bytesNat ((d.drop 0x0C).take 4))
  let body := dumpTable d n ++ d.drop (0x100 + 16 * n)
  let s := (s.flashErase area.1 area.2).flashProgram (area.1 + 0x100) (body.take (area.2 - 0x100))
  (s.flashProgram area.1 (dumpHeader (d.take 256) (decide (area.2 < total)))).flashOps 3

/-- DUMP_COPY (R523): at a start with a retained basin; the basin is unlocked in every case, and a dump that is not copied
because the area holds one counts in DUMPLOST. -/
def execDumpCopy (s : State) : Host.Outcome State Fault Refusal :=
  if !s.sys.mc5 ∨ !s.rb F.DRC_DUMP_RETAINED ∨ s.sys.dumpDone then .next s
  else
    let s := s.setSys (fun y => { y with dumpDone := true })
    let s := if s.rf F.DRC_STAT_STATE = 4 then s.drcAccept 4 0 0 else s
    let base := dramBase + s.rf F.DRC_DUMP_BASE_MB * 2 ^ 20
    let total := bytesNat (s.bytes (base + 8) 4)
    let good := dumpOk (s.bytes base 256) && decide (256 ≤ total ∧ total ≤ s.rf F.DRC_DUMP_SIZE_MB * 2 ^ 20)
    let s := if !good || s.ledgerBits 3 5 5 0 == 1 then s
      else if s.dumpPresent then
        let d := s.ledgerNow
        let w := d.getD 2 0
        s.ledgerWrite (d.set 2 (w / 2 ^ 16 * 2 ^ 16 + min 255 (w / 2 ^ 8 % 256 + 1) * 2 ^ 8 + w % 2 ^ 8))
      else s.dumpWrite base total
    .next (s.wb F.DRC_DUMP_LOCK false)

end Sys2Proof.Machine
end

