-- ==== Sys2Proof/Machine/Tmg.lean ====
section
/-! DEFINITION. The traffic manager (R324 to R328, R333): shapers, selection, delivery rings, sampling, stalls. -/

namespace Sys2Proof.Machine

/-! ## Shapers (R327) -/

/-- A token bucket: its place in the tables of refills, whether it is enabled, its rate and burst, and its TOKENS register. -/
structure Shaper where
  key : Nat
  en : Bool
  rate : Nat
  burst : Nat
  tokens : Nat
deriving DecidableEq, Repr

/-- The shaper of a port. -/
def State.portShaper (s : State) (p : Nat) : Shaper :=
  ⟨p, s.rb (F.TMG_PORT_CFG_SHEN p), s.regN (R.TMG_PORT_RATE p), s.regN (R.TMG_PORT_BURST p), R.TMG_PORT_TOKENS p⟩
/-- The shaper of a class. -/
def State.classShaper (s : State) (p c : Nat) : Shaper :=
  let k := 8 * p + c
  ⟨16 + k, s.rb (F.TMG_CSHP_CFG_EN k), s.rf (F.TMG_CSHP_CFG_RATE k), s.regN (R.TMG_CSHP_BURST k), R.TMG_CSHP_TOKENS k⟩
/-- Queue shaper `i`. -/
def State.queueShaper (s : State) (i : Nat) : Shaper :=
  ⟨144 + i, s.rb (F.TMG_QSHP_CFG_EN i), s.rf (F.TMG_QSHP_CFG_RATE i), s.regN (R.TMG_QSHP_BURST i), R.TMG_QSHP_TOKENS i⟩

/-- Bring a shaper up to date: a disabled one holds TOKENS at BURST. -/
def State.shaperSync (s : State) (h : Shaper) : State :=
  if h.en then
    let r := s.refill h.key h.rate h.burst (s.regI h.tokens)
    r.1.setRegI h.tokens r.2
  else
    (s.setRegN h.tokens h.burst).setPkt (fun p => { p with
      refillAt := Sparse.putN p.refillAt h.key s.gtu.ticks, refillRem := Sparse.putN p.refillRem h.key 0 })

/-- A shaper lets a frame go: it is disabled or has TOKENS above zero. -/
def State.shaperOk (s : State) (h : Shaper) : Bool := !h.en || decide (0 < s.regI h.tokens)

/-- Charge a shaper (R327). -/
def State.shaperCharge (s : State) (h : Shaper) (n : Int) : State :=
  if h.en then s.setRegI h.tokens (s.regI h.tokens - n) else s

/-- The shapers on the path of queue `q`, the queue's first. -/
def State.path (s : State) (q : Nat) : List Shaper :=
  let p := s.qd q 0 29 26
  let sh := s.qd q 0 21 10
  (if sh ≤ 2047 then [s.queueShaper sh] else []) ++ [s.classShaper p (s.qd q 0 25 23), s.portShaper p]

/-! ## Eligibility (R316, R317, R324) -/

/-- The delivery ring of a core port: base, records, and whether it has room (R317). PROD and CONS count on. -/
def State.dring (s : State) (p : Nat) : Nat × Nat × Bool :=
  let base := s.regN (R.TMG_DRING_BASE p) + s.rf (F.TMG_DRING_BHI_HI p) * 2 ^ 32
  let n := 2 ^ s.rf (F.TMG_DRING_CFG_SIZE p)
  let held := (s.regN (R.TMG_DRING_PROD p) + 2 ^ 32 - s.regN (R.TMG_DRING_CONS p)) % 2 ^ 32
  (base, n, s.rb (F.TMG_DRING_CFG_EN p) && decide (held < n) && (decide (base < dramBase) || s.ready Fn.DRAM))

/-- The readiness bit of a port's destination is set (R324). -/
def State.portReady (s : State) (p : Nat) : Bool :=
  if p ≤ 5 then s.ready (Fn.ETH p)
  else if p = 6 then s.ready Fn.STP
  else if p = 7 then s.ready Fn.FMAC
  else if 8 ≤ p ∧ p ≤ 10 then s.ready (Fn.RADIO (p - 8))
  else if p = 12 then s.ready Fn.SLOW
  else if p = 13 then s.ready Fn.DICT
  else s.ready Fn.PACKET

/-- Units a frame takes in a radio's transmit pool, for a client, or for a frame without a client. -/
def State.txUnits (s : State) (client : Nat) (f : Frame) : Nat :=
  unitsOf (mpduLen (payloadLen (s.frameBytes f 0 f.len)) (if client = 0xFFF then 0 else s.micOf client))

/-- The frame fits the port's window or pool (R316), and for a client, Steppe lets it be selected (R191). -/
def State.fits (s : State) (q : Nat) (f : Frame) : Bool :=
  let p := s.qd q 0 29 26
  if p ≤ 5 then decide (s.rf (F.TMG_PORT_WIN_USE p) + f.units ≤ s.rf (F.TMG_PORT_WIN_WIN p))
  else if p = 6 then
    let i := s.qd q 5 27 16
    s.rf F.STP_STAT_STATE == Stp.RUN && s.recKind i == 1 && decide (s.cr i 7 15 0 < s.stgLim i) &&
      (s.chooseLink i f.tid (s.txUnits i f)).isSome
  else if 8 ≤ p ∧ p ≤ 10 then decide (s.txUnits 0xFFF f ≤ s.txFree (p - 8))
  else decide (s.rf (F.TMG_PORT_WIN_USE p) + f.units ≤ s.rf (F.TMG_PORT_WIN_WIN p)) && (s.dring p).2.2

/-- The head frame of a queue. -/
def State.headFrame (s : State) (q : Nat) : Option Frame :=
  match s.queue q with
  | [] => none
  | a :: _ => s.frame a

/-- A queue is eligible (R324). -/
def State.eligible (s : State) (q : Nat) : Bool :=
  s.qd q 0 31 30 == Qs.ACTIVE && s.portReady (s.qd q 0 29 26) && (s.path q).all s.shaperOk &&
    match s.headFrame q with
    | none => false
    | some f => s.fits q f

/-- The queues of a port and class that are not empty, ascending. -/
def State.queuesOf (s : State) (p c : Nat) : List Nat :=
  (s.pkt.queues.filter (fun e => !e.2.isEmpty && s.qd e.1 0 29 26 == p && s.qd e.1 0 25 23 == c)).map (fun e => e.1)

/-- A class is eligible. -/
def State.classOk (s : State) (p c : Nat) : Bool := (s.queuesOf p c).any s.eligible

/-- Bring every shaper of a port's paths up to date. -/
def State.portSync (s : State) (p : Nat) : State :=
  let qs := [0, 1, 2, 3, 4, 5, 6, 7].flatMap (fun c => s.queuesOf p c)
  let sh := qs.filterMap (fun q => if s.qd q 0 21 10 ≤ 2047 then some (s.qd q 0 21 10) else none)
  let s := (sh.map s.queueShaper).foldl State.shaperSync s
  let s := ([0, 1, 2, 3, 4, 5, 6, 7].map (fun c => s.classShaper p c)).foldl State.shaperSync s
  s.shaperSync (s.portShaper p)

/-! ## Round robin (R325, R326) -/

/-- A round-robin list: key 16p + c the queues of a class, 16p + 8 the weighted classes of a port. -/
def State.drrList (s : State) (k : Nat) : List Nat := Sparse.get (fun _ => []) s.pkt.drr k
/-- Replace it. -/
def State.setDrr (s : State) (k : Nat) (l : List Nat) : State :=
  s.setPkt (fun p => { p with drr := Sparse.put (fun _ => []) p.drr k l })
/-- DEFICIT of a queue, and of a class. -/
def State.qDeficit (s : State) (q : Nat) : Int := toSigned 24 (s.qd q 4 23 0)
def State.setQDeficit (s : State) (q : Nat) (d : Int) : State := s.setQd q 4 23 0 (ofSigned 24 d)
def State.cDeficit (s : State) (p c : Nat) : Int := Sparse.get (fun _ => (0 : Int)) s.pkt.cdef (16 * p + c)
def State.setCDeficit (s : State) (p c : Nat) (d : Int) : State :=
  s.setPkt (fun k => { k with cdef := Sparse.put (fun _ => (0 : Int)) k.cdef (16 * p + c) d })

/-- Members that have become eligible join a list at its tail with DEFICIT 0 (R326). -/
def joinTail (l new : List Nat) : List Nat := l ++ new.filter (fun x => !l.contains x)

/-- Bring the lists of one class up to date. -/
def State.drrClass (s : State) (p c : Nat) : State :=
  let l := s.drrList (16 * p + c)
  let new := (s.queuesOf p c).filter (fun q => s.eligible q && !l.contains q)
  (new.foldl (fun s q => s.setQDeficit q 0) s).setDrr (16 * p + c) (joinTail l new)

/-- Bring the list of a port's weighted classes up to date. -/
def State.drrPort (s : State) (p : Nat) : State :=
  let n := s.rf (F.TMG_PORT_CFG_NSTRICT p)
  let cls := [0, 1, 2, 3, 4, 5, 6, 7].filter (fun c => decide (n ≤ c))
  let old := s.drrList (16 * p + 8)
  let keep := old.filter (fun c => decide (n ≤ c) && !(s.queuesOf p c).isEmpty)
  let new := cls.filter (fun c => s.classOk p c && !keep.contains c)
  let s := ((old.filter (fun c => !keep.contains c)) ++ new).foldl (fun s c => s.setCDeficit p c 0) s
  s.setDrr (16 * p + 8) (joinTail keep new)

/-- The shaping length of a frame at a port: L + OVH (R327). -/
def State.shapeLen (s : State) (p : Nat) (f : Frame) : Int := (f.len : Int) + toSigned 8 (s.rf (F.TMG_PORT_CFG_OVH p))

/-- The queue a class would send from, and the state its round robin leaves (R326). -/
def State.pickQueue (p c : Nat) : Nat → State → Option (State × Nat)
  | 0, _ => none
  | fuel + 1, s =>
    let l := s.drrList (16 * p + c)
    match l.find? s.eligible with
    | none => none
    | some q =>
      let need := match s.headFrame q with | some f => s.shapeLen p f | none => 0
      let d := s.qDeficit q
      if need ≤ d then some (s.setQDeficit q (d - need), q)
      else
        let s := s.setQDeficit q (d + (s.qd q 0 7 0 * s.rf (F.TMG_PORT_CFG_QUANT p) : Nat))
        State.pickQueue p c fuel (s.setDrr (16 * p + c) (l.filter (fun x => x != q) ++ [q]))

/-- Rounds that suffice: a quantum is at least 64 bytes, and no shaping length passes 11,581. -/
def drrFuel (n : Nat) : Nat := 200 * (n + 1)

/-- The weight of a class. -/
def State.classWeight (s : State) (p c : Nat) : Nat :=
  if c < 4 then bits (s.reg (R.TMG_PORT_CW_LO p)) (8 * c + 7) (8 * c)
  else bits (s.reg (R.TMG_PORT_CW_HI p)) (8 * (c - 4) + 7) (8 * (c - 4))

/-- The weighted class that sends, with the queue it sends from. -/
def State.pickClass (p : Nat) : Nat → State → Option (State × Nat)
  | 0, _ => none
  | fuel + 1, s =>
    let l := s.drrList (16 * p + 8)
    match l.find? (fun c => s.classOk p c) with
    | none => none
    | some c =>
      match State.pickQueue p c (drrFuel (s.queuesOf p c).length) s with
      | none => none
      | some (s', q) =>
        let need := match s.headFrame q with | some f => s.shapeLen p f | none => 0
        let d := s.cDeficit p c
        if need ≤ d then some (s'.setCDeficit p c (d - need), q)
        else
          let s := s.setCDeficit p c (d + (s.classWeight p c * s.rf (F.TMG_PORT_CFG_QUANT p) : Nat))
          State.pickClass p fuel (s.setDrr (16 * p + 8) (l.filter (fun x => x != c) ++ [c]))

/-- The first strict class of a port that is eligible (R325). -/
def State.strictClass (s : State) (p : Nat) : Option Nat :=
  (List.range (s.rf (F.TMG_PORT_CFG_NSTRICT p))).find? (fun c => s.classOk p c)

/-- The queue a port sends from (R325). -/
def State.select (s : State) (p : Nat) : Option (State × Nat) :=
  let s := s.portSync p
  let s := [0, 1, 2, 3, 4, 5, 6, 7].foldl (fun s c => s.drrClass p c) s
  match s.strictClass p with
  | some c => State.pickQueue p c (drrFuel (s.queuesOf p c).length) s
  | none => State.pickClass p (drrFuel 8) (s.drrPort p)

/-! ## A selection -/

/-- Nanoseconds between a grid time and now. -/
def State.nsSince (s : State) (g : GTime) : Nat := (s.gt - g).toNat * 2 ^ 28 / s.regN R.GTU_INC

/-- The head frame leaves its queue: depth, sojourn, round robin, Steppe's report, shapers (R321, R326 to R328). -/
def State.dequeue (s : State) (q : Nat) (f : Frame) : State :=
  let p := s.qd q 0 29 26
  let c := s.qd q 5 27 16
  let path := s.path q
  let s := s.setQueue q ((s.queue q).drop 1)
  let s := s.setQd q 2 31 16 (s.qd q 2 31 16 - f.units)
  let s := if (s.queue q).isEmpty then s.drrLeave q else s
  let age := min (s.nsSince (BitVec.ofNat 64 (s.readN (f.addr + 4) 8))) 0xFFFFFFFF
  let s := s.setPkt (fun k => { k with
    smpMax := Sparse.putN k.smpMax q (max (Sparse.getN k.smpMax q) age), stalled := Sparse.putN k.stalled p 0,
    waitAt := Sparse.putN k.waitAt p s.gtu.ticks })
  let s := if c = 0xFFF then s else s.reportOut c f.tid f.units
  let n := s.shapeLen p f
  (path.foldl (fun s h => s.shaperCharge h n) s).bump R.TMG_CNT_SEL

/-- A frame selected for a port takes part of its window. -/
def State.enterWindow (s : State) (p : Nat) (f : Frame) : State :=
  (s.setSel p (s.selOf p ++ [f.addr])).wf (F.TMG_PORT_WIN_USE p) (s.rf (F.TMG_PORT_WIN_USE p) + f.units)

/-- A record goes into a core port's delivery ring (R317). -/
def State.deliver (s : State) (p q : Nat) (f : Frame) : State :=
  let d := s.dring p
  let prod := s.regN (R.TMG_DRING_PROD p)
  let a := d.1 + 16 * (prod % d.2.1)
  let s := s.setWords a [BitVec.ofNat 32 (q * 2 ^ 16 + f.len), BitVec.ofNat 32 f.addr, s.gt.extractLsb' 0 32,
    s.gt.extractLsb' 32 32]
  (s.setRegN (R.TMG_DRING_PROD p) (prod + 1)).enterWindow p f

/-- A group-addressed or firmware-staged frame goes to a radio's transmit pool (R316). -/
def State.stageDirect (s : State) (k : Nat) (f : Frame) : State :=
  let d := s.frameBytes f 0 f.len
  let len := mpduLen (payloadLen d) 0
  s.putMpdu ⟨0, k, [], unitsOf len, 0xFFF, f.tid, 0, 0, 0, len, 0, s.gt, false, false, d⟩ (some f.addr) false

/-- The frame that queue `q` sends goes to its port's destination. -/
def State.send (s : State) (q : Nat) (aborted : Bool) : State :=
  match s.headFrame q with
  | none => s
  | some f =>
    let p := s.qd q 0 29 26
    let i := s.qd q 5 27 16
    let link := s.chooseLink i f.tid (s.txUnits i f)
    let s := s.dequeue q f
    if p ≤ 5 then s.enterWindow p f
    else if p = 6 then match link with | some k => s.stageOn i k f aborted | none => s
    else if 8 ≤ p ∧ p ≤ 10 then s.stageDirect (p - 8) f
    else s.deliver p q f

/-- Offer selection to a port (R325). -/
def State.offer (s : State) (p : Nat) (aborted : Bool) : State :=
  match s.select p with
  | none => s.portSync p
  | some (s', q) => s'.send q aborted

/-- TMG_SELECT (R325): selection is offered to the ports in turn. -/
def execTmgSelect (s : State) : Host.Outcome State Fault Refusal :=
  if !s.rb F.TMG_CTRL_EN then .next s
  else
    let p := s.pkt.nextPort
    let s := s.setPkt (fun k => { k with nextPort := (k.nextPort + 1) % 16 })
    .next (s.offer p false)

/-- STAGE_MPDU (R191): TMG selects a client's frame, on port 6, and Steppe stages it; `aborted` says that a cipher operation
of the staging ends with ABORTED (R158). -/
def execStageMpdu (aborted : Bool) (s : State) : Host.Outcome State Fault Refusal :=
  if !s.rb F.TMG_CTRL_EN then .next s else .next (s.offer 6 aborted)

/-! ## Sampling (R328) -/

/-- A telemetry ring: base, records, and whether a record can be written now. -/
def State.tring (s : State) (r : Nat) : Nat × Nat × Bool :=
  let base := s.regN (R.TMG_RING_BASE r) + s.rf (F.TMG_RING_BHI_HI r) * 2 ^ 32
  let n := 2 ^ s.rf (F.TMG_RING_CFG_SIZE r)
  let held := (s.regN (R.TMG_RING_PROD r) + 2 ^ 32 - s.regN (R.TMG_RING_CONS r)) % 2 ^ 32
  (base, n, decide (held < n) && (decide (base < dramBase) || s.ready Fn.DRAM))

/-- Write one record, or drop it: the second part says that it was dropped. -/
def State.smpRecord (s : State) (r : Nat) (w : List Word) : State × Bool :=
  let d := s.tring r
  if d.2.2 then
    let prod := s.regN (R.TMG_RING_PROD r)
    ((s.setWords (d.1 + 16 * (prod % d.2.1)) w).setRegN (R.TMG_RING_PROD r) (prod + 1), false)
  else (s.bump R.TMG_CNT_SMPOVF, true)

/-- The sampled queues of a ring, ascending: SMP is bit 7 of byte 23 of a descriptor. -/
def State.smpQueues (s : State) (r : Nat) : List Nat :=
  s.mem.filterMap (fun e =>
    let q := (e.1 - qAddr 0) / 32
    if qAddr 0 ≤ e.1 ∧ q < 8192 ∧ e.1 % 32 = 23 ∧ s.qd q 0 31 30 ≠ Qs.FREE ∧ s.qd q 5 31 31 = 1 ∧ s.qd q 5 30 28 = r then some q
    else none)

/-- The record of a queue. -/
def State.smpQueue (s : State) (q : Nat) : List Word :=
  let age := match s.headFrame q with
    | none => 0
    | some f => min (s.nsSince (BitVec.ofNat 64 (s.readN (f.addr + 4) 8))) 0xFFFFFFFF
  [BitVec.ofNat 32 (q * 2 ^ 16 + s.qd q 2 31 16),
   BitVec.ofNat 32 (s.qd q 2 15 0 * 2 ^ 16 + min (Sparse.getN s.pkt.smpDrop q) 0xFFFF),
   BitVec.ofNat 32 age, BitVec.ofNat 32 (Sparse.getN s.pkt.smpMax q)]

/-- A sample round on one ring: the stamp record, then the queues; the second part counts dropped records. -/
def State.smpRing (s : State) (r : Nat) : State × Bool :=
  if !s.rb (F.TMG_RING_CFG_EN r) then (s, false)
  else
    let qs := s.smpQueues r
    let st := s.smpRecord r [BitVec.ofNat 32 (2 ^ 31 + qs.length), 0, s.gt.extractLsb' 0 32, s.gt.extractLsb' 32 32]
    qs.foldl (fun x q =>
      let y := x.1.smpRecord r (s.smpQueue q)
      (y.1.setPkt (fun k => { k with smpDrop := Sparse.putN k.smpDrop q 0, smpMax := Sparse.putN k.smpMax q 0 }), x.2 || y.2)) st

/-- SAMPLE_ROUND (R328). -/
def execSampleRound (s : State) : Host.Outcome State Fault Refusal :=
  if !s.rb F.TMG_SMP_CTRL_EN then .next s
  else
    let x := [0, 1, 2, 3, 4, 5, 6, 7].foldl (fun (x : State × Bool) r =>
      let y := x.1.smpRing r
      (y.1, x.2 || y.2)) (s, false)
    .next (if x.2 then x.1.raise 118 else x.1)

/-! ## Rings and stalls -/

/-- The base a write would leave, and the records. -/
def State.ringAfter (s : State) (base bhi cfg k : Nat) (v : Word) : Nat × Nat :=
  let lo := if k = 0 then v else s.reg base
  let hi := if k = 1 then v else s.reg bhi
  let c := if k = 2 then v else s.reg cfg
  (lo.toNat + bits hi 3 0 * 2 ^ 32, 2 ^ bits c 4 0)

/-- A write to a ring's BASE (0), its high part (1) or its SIZE and EN (2) (R328). -/
def State.ringWrite (s : State) (base bhi cfg k : Nat) (v : Word) : State :=
  let en := (s.reg cfg).getLsbD 31
  let a := s.ringAfter base bhi cfg k v
  if k = 2 ∧ (bits v 4 0 < 6 ∨ 20 < bits v 4 0) then s.refuse R.TMG_ERR St.RANGE 117
  else if en ∧ (k < 2 ∨ bits v 4 0 ≠ bits (s.reg cfg) 4 0) then s.refuse R.TMG_ERR St.STATE 117
  else if (k < 2 ∨ bits v 4 0 ≠ bits (s.reg cfg) 4 0) ∧ !s.ringPlaced a.1 (16 * a.2) then s.refuse R.TMG_ERR St.RANGE 117
  else if k = 0 then s.setReg base v
  else if k = 1 then s.setReg bhi (v &&& 0xF)
  else s.setReg cfg (v &&& 0x8000001F)

/-- RING_CONFIG_WRITE (R328): telemetry rings 0 to 7, delivery rings of TPORT 7, 12, 13 and 14; others are reserved. -/
def execRingConfigWrite (i : Init) (delivery : Bool) (n : Fin 16) (k : Fin 3) (v : Word) (s : State) :
    Host.Outcome State Fault Refusal :=
  let b := if delivery then R.TMG_DRING_BASE n.val else R.TMG_RING_BASE n.val
  if !delivery && decide (8 ≤ n.val) || delivery && !([7, 12, 13, 14].contains n.val) then .next (s.onWrite i R.TMG_ID (fun s => s))
  else .next (s.onWrite i (b + 4 * k.val) (fun s => s.ringWrite b (b + 4) (b + 8) k.val v))

/-- A frame waits for a port. -/
def State.portWaits (s : State) (p : Nat) : Bool := s.pkt.queues.any (fun e => !e.2.isEmpty && s.qd e.1 0 29 26 == p)

/-- PORT_STALL (R331): a frame waits for the port, and it has raised no stall since its last selection. -/
def execPortStall (p : Fin 16) (s : State) : Host.Outcome State Fault Refusal :=
  if s.portWaits p.val && Sparse.getN s.pkt.stalled p.val == 0 then
    .next (((s.setPkt (fun k => { k with stalled := Sparse.putN k.stalled p.val 1 })).bump R.TMG_CNT_STALL).raise 119)
  else .next s

end Sys2Proof.Machine
end

