-- ==== Sys2Proof/Machine/BusWrite.lean ====
section
/-! DEFINITION. A register write by any initiator (R8, R25, R526): for each block the registers whose write does more than
set fields, and the rule of R8 for all others. The ODE's own registers come in Bus.lean. -/

namespace Sys2Proof.Machine

/-- The state that a row's effect leaves. -/
def nextOr (s : State) (x : Host.Outcome State Fault Refusal) : State :=
  match x with
  | .next t => t
  | _ => s

/-- The Wi-Fi radio of a MAC window. -/
def macRadio (w : Nat) : WRadio := if w = 19 then .l else if w = 20 then .m else .h

/-- A write to GTU_OFS (R46, R67): GTU_OFS_INFO follows, and a change of SECTOR raises EV004. -/
def State.gtuOfsWrite (i : Nat) (v : Word) (s : State) : State :=
  if s.writeRefused i R.GTU_OFS v then s.writeReg i R.GTU_OFS v
  else
    let old := s.rf F.GTU_OFS_INFO_SECTOR
    let s := (s.writeReg i R.GTU_OFS v).setOfs (bits v 23 0 : Nat)
    if s.rf F.GTU_OFS_INFO_SECTOR = old then s else s.raise 4

/-- A write to GTU_GCFIRE clears FIRED of the channels it names (R67). -/
def State.gcFireClear (s : State) (base : Nat) (v : Word) : Nat → State
  | 0 => s
  | k + 1 =>
    let s := s.gcFireClear base v k
    if v.getLsbD k then s.wf (F.GC_STAT_FIRED (base + k)) 0 else s

/-- GTU. -/
def State.gtuOwn (s : State) (i : Init) (a o : Nat) (v : Word) : Option State :=
  if o = 0x04 then some (s.gtuCtrlWrite i.val v)
  else if o = 0x20 then some (s.gtuOfsWrite i.val v)
  else if o = 0x28 ∨ o = 0x2C then some ((s.writeReg i.val a v).gtuEnd [])
  else if o = 0x78 then some (s.gtuCmd (bits v 7 0))
  else if o = 0x90 then some (if v.getLsbD 0 then s.pmapCommit else s)
  else if o = 0x100 then some (s.gcFireClear 0 v 32)
  else if o = 0x104 then some (s.gcFireClear 32 v 32)
  else if 0x1000 ≤ o ∧ o < 0x1800 ∧ o % 0x20 = 0 then some (s.gcCtrlWrite i.val ((o - 0x1000) / 0x20) v)
  else none

/-- EVR: software events (R66); a change of a route or of SUBEN keeps the subscription routes (R461). -/
def State.evrOwn (s : State) (i : Init) (a o : Nat) (v : Word) : Option State :=
  if o = 0xC00 then some (s.raiseAll (swEvents v 16))
  else if (0x400 ≤ o ∧ o < 0x800) ∨ o = 0xC10 then some (s.writeReg i.val a v).syncSubs
  else none

/-- DMA: the registers of a channel (R334, R345, R353). -/
def State.dmaOwn (s : State) (i : Init) (a o : Nat) (v : Word) : Option State :=
  if o < 0x1000 ∨ 0x3000 ≤ o then none
  else
    let n := (o - 0x1000) / 0x40
    let k := o % 0x40
    if isPath n then some (s.chRefuse n St.RIGHTS)
    else if k = 0 then some (s.chCmd n (bits v 3 0))
    else if k = 0x0C then some (s.chDoorbell n v)
    else if 0x20 ≤ k ∧ k ≤ 0x2C then some (s.shadowWrite i.val n a v)
    else if k = 0x30 then some (s.saddleWrite i.val n v)
    else none

/-- CHK: the check units and the scan engine (R356 to R362). -/
def State.chkOwn (s : State) (i : Init) (a o : Nat) (v : Word) : Option State :=
  if o = 0x100 then some (s.scanCtrl i.val v)
  else if o < 0x1000 ∨ 0x1400 ≤ o then none
  else
    let u := (o - 0x1000) / 0x40
    let k := o % 0x40
    if k = 0 then some (s.chkPreset u v)
    else if k ≤ 0x10 then some (s.chkConfig i.val u (k / 4 - 1) v)
    else if k = 0x14 ∨ k = 0x18 ∨ k = 0x30 then some (s.chkStateWrite i.val u a v)
    else if 0x20 ≤ k ∧ k ≤ 0x28 then some (s.chkData u ((k - 0x20) / 4) v)
    else if k = 0x2C then some (s.chkCmd u v)
    else none

/-- CRY: key and SA commands, alarm policy, and the page windows (R382, R390 to R395). -/
def State.cryOwn (s : State) (i : Init) (a o : Nat) (v : Word) : Option State :=
  if o = 0x10 then some (s.keyCmd (bits v 31 24) (bits v 23 16) (bits v 9 0))
  else if 0x40 ≤ o ∧ o < 0x80 then some (s.setReg a v)
  else if o = 0x100 then some (s.saCmd (bits v 31 24) (bits v 23 16) (bits v 7 0))
  else if o = 0x604 then some (s.almPolWrite v)
  else if o = 0x608 then some (nextOr s (execAlarmLock i v s))
  else if o = 0x60C then some (nextOr s (execAlarmClear i v s))
  else if 0x8000 ≤ o then
    let n := (o - 0x8000) / 0x400
    let k := o % 0x400
    if k = 0x04 then some (s.pgCmd n (bits v 31 24) (bits v 23 16) (bits v 1 0))
    else if k = 0x1C then
      some (if v.getLsbD 0 && decide (6 ≤ n) then s.setPage n (fun p => { p with parked := false }) else s)
    else none
  else none

/-- A write to a scrubber's control register: a pass begins when SCRUB is set (R416). -/
def State.scrubCtrlWrite (s : State) (i : Nat) (dram : Bool) (v : Word) : State :=
  let old := if dram then s.rb F.DRC_CTRL_SCRUB else s.rb F.SRM_CTRL_SCRUB
  let s := s.writeReg i (if dram then R.DRC_CTRL else R.SRM_CTRL) v
  let now := if dram then s.rb F.DRC_CTRL_SCRUB else s.rb F.SRM_CTRL_SCRUB
  if old || !now then s
  else s.setDrc (fun d => if dram then { d with passDram := s.gtu.ticks } else { d with passSram := s.gtu.ticks })

/-- PKE, DRC and SRM. -/
def State.secOwn (s : State) (i : Init) (w o : Nat) (v : Word) : Option State :=
  if w = 5 then (if o = 0x30 then some (s.pkePush i v) else none)
  else if w = 6 then
    if o = 0x04 then some (s.scrubCtrlWrite i.val true v)
    else if o = 0x10 then some (s.drcCmd (bits v 31 24) (bits v 23 16) (bits v 1 0))
    else if o = 0x8C then some (s.injWrite i.val true v)
    else none
  else if o = 0x04 then some (s.scrubCtrlWrite i.val false v)
  else if o = 0x34 then some (s.injWrite i.val false v)
  else none

/-- PPE: fence, table updates, PIPE_TAB (R272, R286). -/
def State.ppeOwn (s : State) (i : Init) (o : Nat) (v : Word) : Option State :=
  if o = 0x60 then some (nextOr s (execFenceStart i v s))
  else if o = 0x260 then
    let opc := bits v 31 28
    some (if opc = 0 ∨ 3 < opc then s.refuse R.PPE_ERR St.RANGE 96 else s.updStart i opc (v.getLsbD 27) (bits v 23 0))
  else if h : o < 0x480 then
    if 0x400 ≤ o then some (nextOr s (execPipeTabWrite i ⟨(o - 0x400) / 4, by omega⟩ v s)) else none
  else none

/-- A write to a shaper's registers: TOKENS count up to the write by the old settings, and a disabled shaper holds BURST
(R327). -/
def State.shaperWrite (s : State) (i : Nat) (a : Nat) (v : Word) (h : State → Shaper) : State :=
  let s := (s.shaperSync (h s)).writeReg i a v
  s.shaperSync (h s)

/-- TMG: rings (R328) and shapers (R327). -/
def State.tmgOwn (s : State) (i : Init) (a o : Nat) (v : Word) : Option State :=
  if o < 0x100 then none
  else if h : o < 0x400 then
    let k := o % 0x20 / 4
    if hk : k < 3 then
      some (nextOr s (execRingConfigWrite i (decide (0x200 ≤ o)) ⟨o % 0x200 / 0x20 % 16, by omega⟩ ⟨k, hk⟩ v s))
    else none
  else if o < 0x1000 then none
  else if o < 0x1400 then
    if o % 0x40 = 4 ∨ o % 0x40 = 8 ∨ o % 0x40 = 0 then
      some (s.shaperWrite i.val a v (fun s => s.portShaper ((o - 0x1000) / 0x40)))
    else none
  else if 0x2000 ≤ o ∧ o < 0x2800 ∧ o % 0x10 ≤ 4 then
    some (s.shaperWrite i.val a v (fun s => s.classShaper ((o - 0x2000) / 0x80) ((o - 0x2000) / 0x10 % 8)))
  else if 0x4000 ≤ o ∧ o < 0xC000 ∧ o % 0x10 ≤ 4 then
    some (s.shaperWrite i.val a v (fun s => s.queueShaper ((o - 0x4000) / 0x10)))
  else none

/-- QMG: commands, pools, policers (R312 to R323). -/
def State.qmgOwn (s : State) (i : Init) (a o : Nat) (v : Word) : Option State :=
  if o = 0x20 then some (s.qPush v)
  else if o = 0x30 then some (s.qmgFree v)
  else if o = 0x100 then some (nextOr s (execPoolApply i v s))
  else if 0x110 ≤ o ∧ o < 0x120 then some (s.rpoolWrite (radioOf ((o - 0x110) / 4)) v)
  else if 0x10000 ≤ o ∧ o < 0x18000 ∧ o % 0x20 ≤ 0x10 then
    let n := (o - 0x10000) / 0x20
    let old := s.rb (F.QMG_POL_CFG_EN n)
    let s := (if old then s.polRefill n else s).writeReg i.val a v
    some (if !old && s.rb (F.QMG_POL_CFG_EN n) then s.polFill n else s)
  else none

/-- RFC, MDM and the Wi-Fi MACs. -/
def State.radioOwn (s : State) (i : Init) (w a o : Nat) (v : Word) : Option State :=
  if w ≤ 14 then (if o = 0x28 then some (s.rfcPush i.val (radioOf (w - 11)) v) else none)
  else if w ≤ 18 then (if w = 18 ∧ o = 0x60 then some (s.smodeWrite i.val v) else none)
  else
    let r := macRadio w
    if o = 0x20 then some (s.macPush r v)
    else if o = 0x80 ∨ o = 0x8C then some ((s.writeReg i.val a v).notchSync r)
    else if o = 0xB8 then some (nextOr s (execNotchArm i r v s))
    else none

/-- FMAC and Steppe. -/
def State.schedOwn (s : State) (i : Init) (w o : Nat) (v : Word) : Option State :=
  if w = 22 then
    if o = 0x20 then some (s.fmPush v)
    else if o = 0x64 then some (s.schedArm i.val v)
    else if 0x100 ≤ o ∧ o < 0x180 then some (s.ptabWrite i.val ((o - 0x100) / 0x10) (o % 0x10 / 4) v)
    else if 0x200 ≤ o ∧ o < 0x300 ∧ o % 0x20 = 8 then some (s.dwWinWrite i.val ((o - 0x200) / 0x20) v)
    else none
  else if o = 0x20 then some (s.stpPush v)
  else if o = 0x2C then some (nextOr s (execStpPendWrite i v s))
  else none

/-- ETH, CAN, XSPI and SYS. -/
def State.edgeOwn (s : State) (i : Init) (w o : Nat) (v : Word) : Option State :=
  if w = 25 then
    if o = 0x801C then some (nextOr s (execPtpStep i v s))
    else if o = 0x8020 then some (nextOr s (execMdioGo i v s))
    else none
  else if w = 26 then (if o % 0x1000 = 0x88 then some (s.canPush (o / 0x1000) v) else none)
  else if w = 28 then
    if o = 0x24 then some (s.opPush v) else if o = 0x2C then some (s.fifoWrite v) else none
  else if w = 29 then
    if o = 0x0C then some (s.stepWrite true i.val v)
    else if o = 0x10 then some (s.stepWrite false i.val v)
    else if o = 0x1C then some (s.rstCmd (bits v 31 16) (bits v 1 0))
    else if o = 0x20 then some (s.wdtWrite i.val v)
    else if o = 0x24 then some (s.wdtKick v)
    else if o = 0x30 then some (s.otpInc v)
    else if o = 0x60 then some (s.clkWrite i.val v)
    else none
  else none

/-- The effect of a write of a register that does more than set fields. -/
def State.ownWrite (s : State) (i : Init) (w a o : Nat) (v : Word) : Option State :=
  if w = 0 then s.gtuOwn i a o v
  else if w = 1 then s.evrOwn i a o v
  else if w = 2 then s.dmaOwn i a o v
  else if w = 3 then s.chkOwn i a o v
  else if w = 4 then s.cryOwn i a o v
  else if w ≤ 7 then s.secOwn i w o v
  else if w = 8 then s.ppeOwn i o v
  else if w = 9 then s.tmgOwn i a o v
  else if w = 10 then s.qmgOwn i a o v
  else if w ≤ 21 then s.radioOwn i w a o v
  else if w ≤ 23 then s.schedOwn i w o v
  else s.edgeOwn i w o v

/-- The write of a register by an initiator that may make it, with the hooks of a block named beside. -/
def State.regWriteWith (more : State → Nat → Word → Option State) (i : Init) (a : Nat) (v : Word) (s : State) : State :=
  match windowOf a with
  | none => s.busErr i a
  | some w =>
    if a % 4 ≠ 0 then s.busErr i a
    else s.onWrite i a (fun s =>
      match (if w.num = 24 then more s (a - w.base) v else s.ownWrite i w.num a (a - w.base) v) with
      | some t => t
      | none => s.writeReg i.val a v)

/-- A register write by a block's engine: the ODE's own registers only set fields. -/
def State.regWrite (i : Init) (a : Nat) (v : Word) (s : State) : State := s.regWriteWith (fun _ _ _ => none) i a v

end Sys2Proof.Machine
end

