-- ==== Sys2Proof/Machine/BusRead.lean ====
section
/-! DEFINITION. A register read by any initiator (R6, R7, R25): for each block what its registers show of the state that has
another home, the reads that pop or latch, and the clearing of RC fields. The ODE's own pops come in Bus.lean. -/

namespace Sys2Proof.Machine

/-! ## What registers show -/

/-- The bits 0 to `n`-1 of a word from a predicate. -/
def flags (p : Nat → Bool) : Nat → Nat
  | 0 => 0
  | k + 1 => flags p k + (if p k then 2 ^ k else 0)

/-- Whole seconds between a grid time and now, saturating. -/
def State.secSince (s : State) (g : GTime) (max : Nat) : Nat := min (s.nsSince g / 10 ^ 9) max

/-- A path channel shows OFF, RUN or IDLE (R344). -/
def State.pathState (s : State) (n : Nat) : Nat :=
  if !s.ready Fn.PACKET then Cs.OFF
  else if 6 ≤ n ∧ n ≤ 8 then (if (s.firstXfer (n - 6) false).isSome then Cs.RUN else Cs.IDLE)
  else if 9 ≤ n ∧ n ≤ 11 then (if (s.firstXfer (n - 9) true).isSome then Cs.RUN else Cs.IDLE)
  else Cs.IDLE

/-- The state of any channel. -/
def State.anyChState (s : State) (n : Nat) : Nat := if isPath n then s.pathState n else s.chState n

/-- A channel holds one of DONE, ERRC, TRIGMISS, SADF (R350). -/
def State.chPend (s : State) (n : Nat) : Bool :=
  s.rb (F.CH_STAT_DONE n) || s.rb (F.CH_STAT_ERRC n) || s.rb (F.CH_STAT_TRIGMISS n) || s.rb (F.CH_STAT_SADF n)

/-- Channels in RUN. -/
def State.running (s : State) : Nat := ((List.range 128).filter (fun n => s.anyChState n == Cs.RUN)).length

/-- GTU, EVR and DMA: the word at an offset, from what the register holds. -/
def State.viewA (s : State) (i : Init) (w o : Nat) (v : Word) : Word :=
  if w = 0 then
    if o = 0x14 then Sparse.get (fun _ => 0) s.gtu.nowHi i.val
    else if o = 0x100 then BitVec.ofNat 32 (flags (fun k => s.rb (F.GC_STAT_FIRED k)) 32)
    else if o = 0x104 then BitVec.ofNat 32 (flags (fun k => s.rb (F.GC_STAT_FIRED (32 + k))) 32)
    else v
  else if w = 1 then (if o = 0xC10 then setBits v 6 0 s.evr.fifo.length else v)
  else if w = 2 then
    if o = 8 then BitVec.ofNat 32 (s.running * 2 ^ 16 + (if s.running = 0 then 2 ^ 31 else 0))
    else if 0x20 ≤ o ∧ o < 0x30 then BitVec.ofNat 32 (flags (fun k => s.chPend (8 * (o - 0x20) + k)) 32)
    else if 0x1000 ≤ o ∧ o < 0x1300 ∧ o % 0x40 = 4 then setBits v 31 29 (s.pathState ((o - 0x1000) / 0x40))
    else v
  else v

/-- The contexts of a page that are not FREE. -/
def State.ctxFlags (s : State) (n : Nat) : Nat := flags (fun c => (s.ctx n c).st != 0) 4

/-- CHK, CRY, PKE and SRM. -/
def State.viewB (s : State) (w o : Nat) (v : Word) : Word :=
  if w = 3 then
    if o < 0x1000 ∨ 0x1400 ≤ o then v
    else if o % 0x40 = 0 then setBits v 31 31 (if s.chkBound ((o - 0x1000) / 0x40) then 1 else 0)
    else if o % 0x40 = 0x1C then BitVec.ofNat 32 (s.chkFinal ((o - 0x1000) / 0x40))
    else v
  else if w = 4 then
    if o = 0x28 then BitVec.ofNat 32 s.cry.kres.length
    else if 0x40 ≤ o ∧ o < 0x80 then 0
    else if o = 0x700 then BitVec.ofNat 32 (flags (fun n => s.rb (F.PG_STAT_DONE n) || s.rb (F.PG_STAT_ERRC n)) 32)
    else if 0x8000 ≤ o ∧ o % 0x400 = 8 then setBits v 23 20 (s.ctxFlags ((o - 0x8000) / 0x400))
    else v
  else if w = 5 then
    if o = 0x38 then BitVec.ofNat 32 s.pke.results.length
    else if 0x64 ≤ o ∧ o < 0x94 then
      BitVec.ofNat 32 (bytesNat (((s.mr (s.rf F.PKE_MRSEL_SEL)).drop (o - 0x64)).take 4))
    else v
  else if w = 7 then
    (if o = 0x1C then BitVec.ofNat 32 (min ((s.gtu.ticks - s.drc.doneSram) / 10 ^ 9) 0xFFFF) else v)
  else v

/-- The ports with an eligible queue (TMG_STAT). -/
def State.portFlags (s : State) : Nat := flags (fun p => (List.range 8).any (fun c => s.classOk p c)) 16

/-- PPE, TMG and QMG. -/
def State.viewC (s : State) (w o : Nat) (v : Word) : Word :=
  if w = 8 then
    if o = 8 then setBits (setBits v 30 30 (if s.dramStage then 1 else 0)) 15 0 s.ppe.waits.length
    else if 0x1000 ≤ o ∧ o < 0x2000 ∧ o % 0x100 = 0x48 then BitVec.ofNat 32 (s.profLen ((o - 0x1000) / 0x100))
    else v
  else if w = 9 then
    if o = 8 then BitVec.ofNat 32 s.portFlags
    else if 0x1000 ≤ o ∧ o < 0x1400 ∧ o % 0x40 = 0x1C then
      let p := (o - 0x1000) / 0x40
      if s.portWaits p then BitVec.ofNat 32 (min ((s.gtu.ticks - Sparse.getN s.pkt.waitAt p) / 1000) 0xFFFFFF) else 0
    else v
  else if w = 10 then (if o = 0x28 then BitVec.ofNat 32 s.pkt.qres.length else v)
  else v

/-- The time since IQ, FBW and DCO had all completed (RFC_CALAGE). -/
def State.calAge (s : State) (r : Radio) : Nat :=
  match (s.rfc.get r).atIq, (s.rfc.get r).atFbw, (s.rfc.get r).atDco with
  | some a, some b, some c => max (s.secSince a 0xFFFF) (max (s.secSince b 0xFFFF) (s.secSince c 0xFFFF))
  | _, _, _ => 0xFFFF

/-- Grid time lies within a full-mode region: a window in use, but for the guard after its start and before its end. -/
def State.notchIn (s : State) (r : WRadio) : Bool :=
  s.notchUsed r &&
    (match s.notchWindow r s.gtN with
     | none => false
     | some (a, e) => decide (a + s.regN (R.MAC_NOTCH_GUARD r) ≤ s.gtN ∧ s.gtN + s.regN (R.MAC_NOTCH_GUARD r) ≤ e))

/-- RFC and the MACs. -/
def State.viewD (s : State) (w o : Nat) (v : Word) : Word :=
  if 11 ≤ w ∧ w ≤ 14 then
    let r := radioOf (w - 11)
    if o = 0x08 then setBits v 20 16 (s.rfc.get r).queue.length
    else if o = 0x3C then BitVec.ofNat 32 (s.rfc.get r).results.length
    else if o = 0x5C then BitVec.ofNat 32 (s.calAge r)
    else v
  else if 19 ≤ w ∧ w ≤ 21 then
    let r := macRadio w
    if o = 0x28 then BitVec.ofNat 32 (s.mac r).results.length
    else if o = 0x94 then
      setBits (setBits v 27 27 (if s.notchIn r then 1 else 0)) 5 0 (s.gtN / 2 ^ (18 + s.rf (F.MAC_NOTCH_CTRL_PEXP r)) % 64)
    else v
  else if w = 22 then
    if o = 0x08 then setBits (setBits v 23 22 (s.regionAt (s.slotOf s.gtN))) 9 0 (s.slotOf s.gtN)
    else if o = 0x28 then BitVec.ofNat 32 s.fld.results.length
    else if o = 0x30 then BitVec.ofNat 32 s.sfNum
    else if 0x200 ≤ o ∧ o < 0x300 ∧ o % 0x20 = 0x14 then BitVec.ofNat 32 (s.dwellUsed ((o - 0x200) / 0x20))
    else v
  else if w = 23 then (if o = 0x28 then BitVec.ofNat 32 s.stp.results.length else v)
  else v

/-- The level of a GPIO ball (R526, R552, R460): what the device drives, or the outside level, bit `p` of `x`. -/
def State.gpioLevel (s : State) (x p : Nat) : Bool :=
  let f := s.gpioFn p
  if f = 0 ∧ (s.reg (if p < 32 then R.SYS_GPIO_OE_LO else R.SYS_GPIO_OE_HI)).getLsbD (p % 32) then
    (s.reg (if p < 32 then R.SYS_GPIO_OUT_LO else R.SYS_GPIO_OUT_HI)).getLsbD (p % 32)
  else if f = 1 then s.gtu.pins.getLsbD p
  else if f = 3 ∧ s.rb F.ODE_SPICFG_EN ∧ s.rf F.ODE_SPICFG_IRQ = p then !s.ode.spiOut.isEmpty
  else x / 2 ^ p % 2 == 1

/-- ODE and SYS. -/
def State.viewE (s : State) (w o : Nat) (v : Word) : Word :=
  if w = 24 then
    if 0x400 ≤ o ∧ o < 0x800 ∧ o % 0x20 = 0x18 then
      match Sparse.getO s.ode.nbrAt ((o - 0x400) / 0x20) with
      | none => 0
      | some g => BitVec.ofNat 32 (s.secSince g 0xFFFFFFFF)
    else v
  else if w = 29 then
    if o = 0x14 then (if s.rb F.SYS_CTRL_RDYEN then BitVec.ofNat 32 (readyWord s 26) else 0)
    else if o = 0x230 then BitVec.ofNat 32 (flags (fun k => s.gpioLevel s.free k) 32)
    else if o = 0x234 then BitVec.ofNat 32 (flags (fun k => s.gpioLevel (s.free * 2 ^ 32) (32 + k)) 16)
    else v
  else v

/-- The word a register shows to an initiator, before a pop or a latch. -/
def State.view (s : State) (i : Init) (w : Window) (a : Nat) : Word :=
  let o := a - w.base
  let v := s.reg a
  if w.num ≤ 2 then s.viewA i w.num o v
  else if w.num ≤ 7 then s.viewB w.num o v
  else if w.num ≤ 10 then s.viewC w.num o v
  else if w.num ≤ 23 then s.viewD w.num o v
  else s.viewE w.num o v

/-! ## Reads that do more -/

/-- Token buckets count up before they are shown (R323, R327). -/
def State.readSync (s : State) (w o : Nat) : State :=
  if w = 9 then
    if o = 8 then (List.range 16).foldl (fun s p => s.portSync p) s
    else if 0x1000 ≤ o ∧ o < 0x1400 ∧ o % 0x40 = 0x0C then s.shaperSync (s.portShaper ((o - 0x1000) / 0x40))
    else if 0x2000 ≤ o ∧ o < 0x2800 ∧ o % 0x10 = 8 then
      s.shaperSync (s.classShaper ((o - 0x2000) / 0x80) ((o - 0x2000) / 0x10 % 8))
    else if 0x4000 ≤ o ∧ o < 0xC000 ∧ o % 0x10 = 8 then s.shaperSync (s.queueShaper ((o - 0x4000) / 0x10))
    else s
  else if w = 10 ∧ 0x10000 ≤ o ∧ o < 0x18000 ∧ (o % 0x20 = 0x14 ∨ o % 0x20 = 0x18) then
    (if s.rb (F.QMG_POL_CFG_EN ((o - 0x10000) / 0x20)) then s.polRefill ((o - 0x10000) / 0x20) else s)
  else if w = 2 ∧ 0x1000 ≤ o ∧ o < 0x3000 ∧ o % 0x40 = 0x34 then s.tstartLatch ((o - 0x1000) / 0x40)
  else if w = 22 ∧ o = 0xE4 then s.setReg64 R.FMAC_UP_LAST_LO R.FMAC_UP_LAST_HI s.fld.upLast.toNat
  else s

/-- Pops and latching reads, first part: GTU to the memories. -/
def State.popA (s : State) (i : Init) (w o : Nat) : Option State :=
  if w = 0 then
    (if o = 0x10 then some (s.gtuNowRead i) else if o = 0x54 then some (s.xlastRead i) else none)
  else if w = 1 then (if o = 0xC20 then some (s.subPop i) else none)
  else if w = 4 then
    if o = 0x24 then some (s.keyPop i)
    else if 0x8000 ≤ o ∧ o % 0x400 = 0x2C then some (s.pgPop i ((o - 0x8000) / 0x400))
    else none
  else if w = 5 then
    (if o = 0x34 then some (s.pkePop i) else if o = 0x40 then some (s.rngRead i) else none)
  else if w = 6 then (if o = 0x14 then some (s.drcPop i) else none)
  else none

/-- Second part: the packet path and the radios. -/
def State.popB (s : State) (i : Init) (w o : Nat) : Option State :=
  if w = 8 then
    if h : 0x8000 ≤ o ∧ o < 0x10000 then
      if o % 0x10 = 0 ∨ o % 0x10 = 8 then
        some (nextOr s (execPpeCounterRead i ⟨(o - 0x8000) / 0x10, by omega⟩ (o % 0x10 == 8) s))
      else none
    else none
  else if w = 10 then (if o = 0x24 then some (s.qPop i) else none)
  else if 11 ≤ w ∧ w ≤ 14 then (if o = 0x30 then some (s.rfcPop i (radioOf (w - 11))) else none)
  else if 19 ≤ w ∧ w ≤ 21 then
    if o = 0x24 then some (s.macPop i (macRadio w))
    else if o = 0x30 then some (s.tsfRead i (macRadio w))
    else none
  else if w = 22 then (if o = 0x24 then some (s.fmPop i) else none)
  else if w = 23 then (if o = 0x24 then some (s.stpPop i) else none)
  else none

/-- Third part: the ports and SYS. -/
def State.popC (s : State) (i : Init) (w o : Nat) : Option State :=
  if w = 25 then
    if o = 0x8004 then some (nextOr s (execPtpRead i s))
    else if h : o / 0x1000 < 6 then
      if o % 0x1000 = 0x20 then some (nextOr s (execTxtsPop i ⟨o / 0x1000, h⟩ s)) else none
    else none
  else if w = 26 then (if o % 0x1000 = 0x20 ∧ o / 0x1000 < 2 then some (s.canPop (o / 0x1000) i) else none)
  else if w = 28 then
    if o = 0x28 then some (s.xspiPop i)
    else if o = 0x2C then some (s.fifoRead.1.answer i s.fifoRead.2)
    else none
  else if w = 29 then
    if o = 0x50 then some (s.accPop i)
    else if o = 0x230 ∨ o = 0x234 then
      match windowOf R.SYS_ID with
      | some win => some ((s.answer i (s.view i win (win.base + o))).used)
      | none => none
    else none
  else none

/-- A read with an effect of its own. -/
def State.ownRead (s : State) (i : Init) (w o : Nat) : Option State :=
  if w ≤ 7 then s.popA i w o else if w ≤ 23 then s.popB i w o else s.popC i w o

/-- RC fields are cleared by the read (R7). -/
def clearRc : List RegField → Word → Word
  | [], v => v
  | f :: fs, v => clearRc fs (if f.acc = .rc then setBits v f.hi f.lo 0 else v)

/-- A read that shows a register and clears its RC fields. -/
def State.plainRead (s : State) (i : Init) (w : Window) (a : Nat) : State :=
  let s := s.readSync w.num (a - w.base)
  match findRow w.rows (a - w.base) with
  | none => s.answer i 0
  | some (row, _) => (s.setReg a (clearRc row.fields (s.reg a))).answer i (s.view i w a)

/-- The read of a register by an initiator, with the pops of a block named beside. -/
def State.regReadWith (more : State → Nat → Option State) (i : Init) (a : Nat) (s : State) : State :=
  match windowOf a with
  | none => s.busErr i a
  | some w =>
    if a % 4 ≠ 0 then s.busErr i a
    else s.onRead i a (fun s =>
      match (if w.num = 24 then more s (a - w.base) else s.ownRead i w.num (a - w.base)) with
      | some t => t
      | none => s.plainRead i w a)

/-- A register read by a block's engine. -/
def State.regRead (i : Init) (a : Nat) (s : State) : State := s.regReadWith (fun _ _ => none) i a

/-- The word a read returned, with the read's record taken back: an engine keeps what it reads. -/
def State.taken (s : State) : State × Option Word :=
  match s.out with
  | .busData _ v :: rest => ({ s with out := rest }, some v)
  | _ => (s, none)

end Sys2Proof.Machine
end

