-- ==== Sys2Proof/Machine/OdeImage.lean ====
section
/-! DEFINITION. The dictionary image in shared real-time memory (R440 to R444): descriptors, ranges, references, values, and
the elements of register-bound and store-bound parameters. -/

namespace Sys2Proof.Machine

/-- A descriptor (R444). -/
structure Desc where
  area : Nat
  item : Nat
  typ : Nat
  rdr : Nat
  wrr : Nat
  access : Nat
  array : Bool
  persist : Bool
  net : Bool
  bind : Nat
  wstates : Nat
  count : Nat
  maxlen : Nat
  target : Nat
  ridx : Nat
  lsb : Nat
  width : Nat
  nodef : Bool
  func : Nat
deriving DecidableEq, Repr

/-! Access codes (R442). -/
namespace Ac
def RO : Nat := 0
def RW : Nat := 1
def RWC : Nat := 2
def WO : Nat := 3
def CMD : Nat := 4
end Ac

/-! Value types (R441). -/
namespace Ty
def BOOL : Nat := 0
def ENUM : Nat := 6
def I32 : Nat := 5
def STR : Nat := 7
def BLOB : Nat := 8
end Ty

/-- The base of the dictionary image, its descriptors, its range entries and its value store (R442). -/
def imgBase : Nat := 0x11300000
def imgDesc : Nat := 0x11301000
def imgRange : Nat := 0x11341000
def imgStore : Nat := 0x11359000

/-- The words of a descriptor. -/
def descOf (w0 w1 w2 w3 : Word) : Desc where
  area := bits w0 31 24
  item := bits w0 23 12
  typ := bits w0 11 8
  rdr := bits w0 7 6
  wrr := bits w0 5 4
  access := bits w0 3 1
  array := w0.getLsbD 0
  persist := w1.getLsbD 31
  net := w1.getLsbD 30
  bind := bits w1 29 28
  wstates := bits w1 27 22
  count := bits w1 21 12 + 1
  maxlen := bits w1 11 0
  target := w2.toNat
  ridx := bits w3 31 16
  lsb := bits w3 15 11
  width := bits w3 10 6 + 1
  nodef := w3.getLsbD 5
  func := bits w3 4 0

/-- Descriptor `k` of the image. -/
def State.descAt (s : State) (k : Nat) : Desc :=
  let a := imgDesc + 16 * k
  descOf (s.read32 a) (s.read32 (a + 4)) (s.read32 (a + 8)) (s.read32 (a + 12))

/-- Every descriptor of the loaded image, in order. -/
def State.descs (s : State) : List Desc := (List.range (s.rf F.ODE_NPARAM_N)).map s.descAt

/-- The descriptor of a parameter, by the area index (R442). -/
def State.findDesc (s : State) (area item : Nat) : Option Desc :=
  let first := s.readN (imgBase + 0x800 + 8 * area) 4
  let n := min (s.readN (imgBase + 0x804 + 8 * area) 4) (s.rf F.ODE_NPARAM_N - first)
  ((List.range n).map (fun k => s.descAt (first + k))).find? (fun d => d.area == area && d.item == item)

/-- The elements of a parameter: 1 for a scalar. -/
def Desc.elems (d : Desc) : Nat := if d.array then d.count else 1

/-- The reference of an element, and of the whole parameter (R440). -/
def Desc.ref (d : Desc) (e : Nat) : Nat := d.area * 2 ^ 24 + d.item * 2 ^ 12 + (if d.array then e else 0xFFF)
def Desc.whole (d : Desc) : Nat := d.area * 2 ^ 24 + d.item * 2 ^ 12 + 0xFFF

/-- A type whose length varies. -/
def isText (typ : Nat) : Bool := typ == Ty.STR || typ == Ty.BLOB
/-- Bytes of a value of a fixed type (R441). -/
def typeSize (typ : Nat) : Nat := [1, 1, 2, 4, 8, 4, 1, 0, 0, 8].getD typ 0

/-- The parameter and the elements that a reference names, or ABSENT or RANGE (R440, R446 step 1). -/
def State.refCheck (s : State) (ref : Nat) : Except Nat (Desc × List Nat) :=
  match s.findDesc (ref / 2 ^ 24 % 256) (ref / 2 ^ 12 % 4096) with
  | none => .error St.ABSENT
  | some d =>
    let ix := ref % 4096
    if ix = 0xFFF then .ok (d, List.range d.elems)
    else if d.array ∧ ix < d.count then .ok (d, [ix])
    else .error St.RANGE

/-! ## Values (R441, R446 steps 3 and 4) -/

/-- The elements of `n` values that stand one after another: fixed types by their size, STR and BLOB as a 2-byte length and
the bytes, as the value store holds them (DESIGN CHOICE for a whole array in a PDU). -/
def splitElems (typ : Nat) : Nat → List Byte → Option (List (List Byte))
  | 0, l => if l.isEmpty then some [] else none
  | n + 1, l =>
    let k := if isText typ then bytesNat (l.take 2) else typeSize typ
    let l := if isText typ then (if l.length < 2 then [] else l.drop 2) else l
    if (isText typ ∧ k = 0 ∧ l.isEmpty) ∨ k ≤ l.length then (splitElems typ n (l.drop k)).map (fun t => l.take k :: t) else none

/-- The bytes of one element within a whole array. -/
def elemBytes (typ : Nat) (v : List Byte) : List Byte := if isText typ then natBytes 2 v.length ++ v else v

/-- The elements that a value gives the named elements of a parameter, or TYPE (R446 step 3). -/
def Desc.split (d : Desc) (ref typ : Nat) (v : List Byte) : Except Nat (List (List Byte)) :=
  let ok (x : List Byte) : Bool := if isText d.typ then decide (x.length ≤ d.maxlen) else x.length == typeSize d.typ
  if typ ≠ d.typ then .error St.TYPE
  else
    match (if d.array ∧ ref % 4096 = 0xFFF then splitElems d.typ d.count v else some [v]) with
    | none => .error St.TYPE
    | some l => if l.all ok then .ok l else .error St.TYPE

/-- A range entry: MIN, MAX and DEFAULT as 8 bytes each (R444). -/
def State.rangeAt (s : State) (k : Nat) : Nat × Nat × Nat :=
  let a := imgRange + 24 * k
  (s.readN a 8, s.readN (a + 8) 8, s.readN (a + 16) 8)

/-- A value lies in its type's and its parameter's range (R441, R444). -/
def State.valueOk (s : State) (d : Desc) (v : List Byte) : Bool :=
  let r := s.rangeAt d.ridx
  let n := bytesNat v
  (d.typ != Ty.BOOL || decide (n ≤ 1)) &&
    (d.ridx == 0xFFFF ||
      (if isText d.typ then decide (r.1 ≤ v.length ∧ v.length ≤ r.2.1)
       else if d.typ = Ty.I32 then decide (toSigned 32 r.1 ≤ toSigned 32 n ∧ toSigned 32 n ≤ toSigned 32 r.2.1)
       else decide (r.1 ≤ n ∧ n ≤ r.2.1)))

/-- A parameter's default: zero or empty without a range entry; of STR and BLOB the bytes that DEFAULT names in the value
store, by their offset in it (R444). -/
def State.dfltOf (s : State) (d : Desc) : List Byte :=
  let r := s.rangeAt d.ridx
  if isText d.typ then
    (if d.ridx = 0xFFFF then [] else s.bytes (imgStore + r.2.2 % 2 ^ 32) (min (r.2.2 / 2 ^ 32 % 2 ^ 16) d.maxlen))
  else natBytes (typeSize d.typ) (if d.ridx = 0xFFFF then 0 else r.2.2)

/-! ## Elements of registers and of the store (R444) -/

/-- The registers that one element takes: two for U64 and GTIME, all that a BLOB fills, else one. -/
def Desc.words (d : Desc) : Nat := if isText d.typ then (d.maxlen + 3) / 4 else if typeSize d.typ = 8 then 2 else 1
/-- The address of a register-bound element. -/
def Desc.regAt (d : Desc) (e : Nat) : Nat := d.target + 4 * e * d.words
/-- The address of a store-bound element. -/
def Desc.storeAt (d : Desc) (e : Nat) : Nat := imgBase + d.target + e * (if isText d.typ then d.maxlen + 2 else typeSize d.typ)

/-- The ODE as an initiator. -/
def odeIni : Init := 18

/-- The ODE reads `n` registers in a row; none where one read ends with a bus error. -/
def State.odeRegs (s : State) (a : Nat) : Nat → State × Option (List Word)
  | 0 => (s, some [])
  | n + 1 =>
    let r := (s.regRead odeIni a).taken
    let t := r.1.odeRegs (a + 4) n
    match r.2, t.2 with
    | some v, some l => (t.1, some (v :: l))
    | _, _ => (t.1, none)

/-- The value that a register word holds for a parameter: the field, sign-extended for I32. -/
def Desc.field (d : Desc) (w : Word) : List Byte :=
  let n := w.toNat / 2 ^ d.lsb % 2 ^ d.width
  natBytes (typeSize d.typ) (if d.typ = Ty.I32 then ofSigned 32 (toSigned d.width n) else n)

/-- Read an element of a register-bound or store-bound parameter; none where a register answers with a bus error. -/
def State.elemRead (s : State) (d : Desc) (e : Nat) : State × Option (List Byte) :=
  if d.bind = 0 then
    let r := s.odeRegs (d.regAt e) d.words
    match r.2 with
    | none => (r.1, none)
    | some l =>
      (r.1, some (if isText d.typ then (wordBytes l).take d.maxlen
        else if d.words = 2 then wordBytes l else d.field (l.headD 0)))
  else
    let a := d.storeAt e
    (s, some (if isText d.typ then s.bytes (a + 2) (min (s.readN a 2) d.maxlen) else s.bytes a (typeSize d.typ)))

/-- The same in the store only: the present bytes of a store-bound element. -/
def State.storeWrite (s : State) (d : Desc) (e : Nat) (v : List Byte) : State :=
  if isText d.typ then s.setBytes (d.storeAt e) (natBytes 2 v.length ++ v) else s.setBytes (d.storeAt e) v

/-! ## What a core holds for a firmware-bound parameter -/

/-- The value of an element that a core was given, or the default. -/
def State.fwVal (s : State) (d : Desc) (e : Nat) : List Byte := (Sparse.getO s.ode.fwVals (d.ref e)).getD (s.dfltOf d)
/-- A core takes a value. -/
def State.setFwVal (s : State) (d : Desc) (e : Nat) (v : List Byte) : State :=
  s.setOde (fun o => { o with fwVals := Sparse.put (fun _ => none) o.fwVals (d.ref e) (some v) })

/-- The value of element `e` of a parameter named by number, from whichever binding its descriptor has; where the image has
no such parameter, the catalogue's default. -/
def State.paramAt (s : State) (area item e : Nat) (dflt : List Byte) : List Byte :=
  match s.findDesc area item with
  | none => dflt
  | some d => if d.bind = 2 then s.fwVal d e else (s.elemRead d e).2.getD dflt

/-- A number among them. -/
def State.paramN (s : State) (area item e dflt : Nat) : Nat :=
  match s.findDesc area item with
  | none => dflt
  | some _ => bytesNat (s.paramAt area item e [])

/-- A boolean or mask among them, whose default the catalogue gives. -/
def State.configured (s : State) : Nat := s.paramN 0x01 0x020 0 0x03FFFFFF

end Sys2Proof.Machine
end

