-- ==== Sys2Proof/Machine/Lum.lean ====
section
/-! DEFINITION. The luminaire as MC4 runs it (R491 to R494, R520): timed relay switches through GC62, lamp levels over
DALI0, profile steps. -/

namespace Sys2Proof.Machine

/-- Change the luminaire's state. -/
def State.setLum (s : State) (f : LumSt → LumSt) : State := { s with lum := f s.lum }

/-- The relay's contacts are closed: RLY_OUT differs from the strap of a normally closed relay (R531). -/
def State.relayClosed (s : State) : Bool := s.sys.rlyOut != s.sys.rlyNc

/-- Arm GC62 as a one-shot channel with strobe 0x088 at a grid time (R492). -/
def State.armRelay (s : State) (at_ : Nat) : State :=
  let s := (s.setReg (R.GC_CTRL 62) 0).setRegN (R.GC_TGT 62) (2 * 2 ^ 30 + 0x088)
  (s.setReg64 (R.GC_CMP_LO 62) (R.GC_CMP_HI 62) at_).gcArmNow 62

/-- End an armed switch. -/
def State.dropRelay (s : State) : State :=
  let s := s.setLum (fun l => { l with want := none })
  if s.rb (F.GC_STAT_ARMED 62) then s.gcDisarmNow 62 else s

/-- OPERATE_US (38.004) in angle units. -/
def State.operate (s : State) : Nat := s.usToUnits (s.paramN 0x38 0x004 0 6000)

/-- The voltage zero at which the contacts meet (R492): the first T at an A_z, half a cycle apart, at or after `lo`. -/
def zeroAfter (az lo : Nat) : Nat := lo + (az % 2 ^ 23 + 2 ^ 23 - lo % 2 ^ 23) % 2 ^ 23

/-- A relay command as MC4 takes it (R492, R493). -/
def State.relayTake (s : State) (close : Bool) : State :=
  if s.lum.want.isNone && s.relayClosed == close then s
  else
    let s := s.dropRelay
    let op := s.operate
    let st := s.rf F.GTU_STAT_STATE
    if st = 0 ∨ st = 3 then
      { s with
        sys := { s.sys with rlyOut := close != s.sys.rlyNc }
        lum := { s.lum with untimed := s.lum.untimed + 1, busyTo := BitVec.ofNat 64 (s.gtN + op) } }
    else
      let ang := toSigned 32 (s.paramN 0x38 (if close then 0x002 else 0x003) 0 0)
      let az := ofSigned 24 ((s.rf F.GTU_OFS_OFS : Int) + ang)
      let t := zeroAfter az (max s.gtN s.lum.busyTo.toNat + s.usToUnits 100 + op)
      (s.setLum (fun l => { l with want := some (close, BitVec.ofNat 64 t) })).armRelay (t - op)

/-- A level that a LEVEL_CMD or a step asks for (R494). -/
def State.levelTake (s : State) (level : Nat) : State :=
  if level = 0 then
    (s.setLum (fun l => { l with dapc := none, level := 0, fadeOpen := true })).emit (.dali 0)
  else
    let s := s.setLum (fun l => { l with dapc := some level, fadeOpen := false })
    if s.paramN 0x38 0x006 0 1 = 1 ∧ !s.relayClosed then s.relayTake true else s.daliStart

/-- DAPC_SEND (R494): GEAR_DELAY after the contacts have closed, the level that waits is sent. -/
def execDapcSend (s : State) : Host.Outcome State Fault Refusal :=
  if s.lum.dapc.isSome && s.relayClosed && decide (s.lum.busyTo.toNat ≤ s.gtN) then .next s.daliStart else .next s

/-- RELAY_FADE_OPEN (R494): the fade time after OFF has passed; the relay opens. -/
def execRelayFadeOpen (s : State) : Host.Outcome State Fault Refusal :=
  if s.lum.fadeOpen then .next ((s.setLum (fun l => { l with fadeOpen := false })).relayTake false) else .next s

/-- The layout of a PROFILE element (R491): empty, or the anchor, the period, the steps in ascending order. -/
def profileOk (v : List Byte) : Bool :=
  let n := bytesNat ((v.drop 12).take 1)
  let per := bytesNat ((v.drop 8).take 4)
  let step (k : Nat) : List Byte := (v.drop (16 + 8 * k)).take 8
  let off (k : Nat) : Nat := bytesNat ((step k).take 4)
  v.isEmpty ||
    (decide (v.length = 16 + 8 * n ∧ 1 ≤ n ∧ n ≤ 30 ∧ 1 ≤ per) && bytesNat ((v.drop 13).take 3) == 0 &&
      (List.range n).all (fun k => decide (off k < per ∧ bytesNat (((step k).drop 4).take 1) ≤ 254 ∧
        bytesNat (((step k).drop 5).take 1) ≤ 15 ∧ bytesNat ((step k).drop 6) = 0)) &&
      (List.range (n - 1)).all (fun k => decide (off k < off (k + 1))))

/-- The level of the step of a profile that applies in cycle `c` (R491). -/
def profileStep (v : List Byte) (c : Nat) : Option Nat :=
  let n := bytesNat ((v.drop 12).take 1)
  let per := bytesNat ((v.drop 8).take 4)
  let anchor := bytesNat (v.take 8) / 2 ^ 24
  if v.isEmpty ∨ c < anchor then none
  else
    ((List.range n).find? (fun k => bytesNat ((v.drop (16 + 8 * k)).take 4) == (c - anchor) % per)).map (fun k =>
      bytesNat ((v.drop (20 + 8 * k)).take 1))

/-- PROFILE_STEP (R491, R494): the step of the active profile that the present cycle holds, if any. -/
def execProfileStep (s : State) : Host.Outcome State Fault Refusal :=
  let p := s.paramN 0x38 0x013 0 0xFF
  if 8 ≤ p ∨ !s.ready Fn.LUM then .next s
  else
    match profileStep (s.paramAt 0x38 0x012 p []) (s.gtN / 2 ^ 24) with
    | none => .next s
    | some level => .next (s.levelTake level)

/-- A relay switch whose arming was aborted is taken again (R520). -/
def State.relayRetake (s : State) : State :=
  match s.lum.want with
  | none => s
  | some (c, _) => if s.rb (F.GC_STAT_ARMED 62) then s else s.relayTake c

end Sys2Proof.Machine
end

