-- ==== Sys2Proof/Machine/OdeFw.lean ====
section
/-! DEFINITION. Firmware-bound parameters (R448, R478 to R491): what MC4 and MC5 do at once, and the queues to the cores for
everything else. -/

namespace Sys2Proof.Machine

/-- The cores as initiators. -/
def mc4 : Init := 8
def mc5 : Init := 9

/-- The number of a parameter: area and item. -/
def Desc.num (d : Desc) : Nat := d.area * 4096 + d.item

/-! ## Register writes with their outcome -/

/-- A register write whose outcome the writer reads from the block's status register (R447). -/
def State.tryWrite (s : State) (i : Init) (a : Nat) (v : Word) : State × Nat :=
  match windowOf a with
  | none => (s.regWrite i a v, St.HW)
  | some w =>
    let e := (errOf w.num (a - w.base)).1
    if !s.accOk i a true || s.clockOff a then (s.regWrite i a v, St.HW)
    else if e = 0 ∨ e = R.SCAN_RES then (s.regWrite i a v, if s.writeRefused i.val a v then St.RANGE else St.OK)
    else
      let t := (s.setReg e 0).regWrite i a v
      if bits (t.reg e) 8 8 = 1 then (t, bits (t.reg e) 7 0) else (t.setReg e (s.reg e), St.OK)

/-- Several writes, up to the first that is refused. -/
def State.tryWrites (s : State) (i : Init) : List (Nat × Word) → State × Nat
  | [] => (s, St.OK)
  | x :: xs =>
    let r := s.tryWrite i x.1 x.2
    if r.2 = St.OK then r.1.tryWrites i xs else r

/-- A register with a field changed, as a write. -/
def State.withField (s : State) (f : Fld) (n : Nat) : Nat × Word := (f.addr, setBits (s.reg f.addr) f.hi f.lo n)

/-- A core's register read. -/
def State.mcRead (s : State) (a : Nat) : State × Word :=
  let r := (s.regRead mc5 a).taken
  (r.1, r.2.getD 0)

/-- The words of a value. -/
def valWords : List Byte → List Word
  | a :: b :: c :: d :: l => BitVec.ofNat 32 (bytesNat [a, b, c, d]) :: valWords l
  | _ => []

/-! ## Writes that MC4 and MC5 carry out -/

/-- GTU_PARAM_WRITE (R480): FREE first unless the GTU is in FREE or LOCAL, then the field of GTU_CTRL. -/
def State.gtuParamWrite (s : State) (f : Fld) (n : Nat) : State × Nat :=
  let st := s.rf F.GTU_STAT_STATE
  let s := if st = Gtu.FREE ∨ st = Gtu.LOCAL then s else s.regWrite mc5 R.GTU_CMD 5
  let x := s.withField f n
  (s.regWrite mc5 x.1 x.2, St.OK)

/-- The bytes of an ASSIGN image (R230, R485): words 0, 1, 6, 8, 9 of the value, the counters in words 4 and 5. -/
def assignImage (w : List Word) (rx tx : Nat) : List Word :=
  let g k := w.getD k 0
  [g 0, g 1, 0, 0, BitVec.ofNat 32 rx, BitVec.ofNat 32 tx, g 2, 0, g 3, g 4, 0, 0, 0, 0, 0, 0]

/-- Run RELEASE and ASSIGN of an entry as consecutive commands at the head of the queue; MC4 takes their results. The status
is that of the last. -/
def State.fmIssue (s : State) (cmds : List (List Word)) : State × Nat :=
  let q := s.fld.cmds
  let res := s.fld.results
  let s := s.setFld (fun f => { f with cmds := cmds ++ q, results := [] })
  let s := cmds.foldl (fun s w => nextOr s (if cmdOpc w = 5 then execAssign s else execRelease s)) s
  let code := match s.fld.results.getLast? with
    | some r => r.status
    | none => St.OK
  (s.setFld (fun f => { f with results := res }), code)

/-- ASSIGN_PARAM_WRITE (R485). The image lies in a buffer of the work area (R443). -/
def State.assignWrite (s : State) (e : Nat) (v : List Byte) : State × Nat :=
  if v.length ≠ 0 ∧ v.length ≠ 20 then (s, St.RANGE)
  else if v.isEmpty then s.fmIssue [[BitVec.ofNat 32 (6 * 2 ^ 24 + e), 0, 0, 0]]
  else
    let w := valWords v
    let key := bits (w.getD 2 0) 9 0
    let gen := s.slotGen key
    let keep := s.feW e 6 == w.getD 2 0 && s.feW e 8 == w.getD 3 0 && s.feW e 9 == w.getD 4 0 &&
      Sparse.getO s.ode.asgGen e == some gen
    let at_ := 0x11370000 + 1024 * (Config.fwBuf s.ode.fwNum % 64)
    let img := if keep then assignImage w (s.feW e 4).toNat (s.feW e 5).toNat else assignImage w 0 0
    let rel : List (List Word) := if s.feValid e then [[BitVec.ofNat 32 (6 * 2 ^ 24 + e), 0, 0, 0]] else []
    let s := s.store mc4.val at_ (wordBytes img)
    let r := s.fmIssue (rel ++ [[BitVec.ofNat 32 (5 * 2 ^ 24 + e), 0, 0, BitVec.ofNat 32 at_]])
    if r.2 = St.OK then
      (r.1.setOde (fun o => { o with asgGen := Sparse.put (fun _ => none) o.asgGen e (some gen) }), St.OK)
    else r

/-- A staged value of area 18, or its default. -/
def State.fwStaged (s : State) (item dflt : Nat) : Nat := s.paramN 0x18 item 0 dflt

/-- SCHEDULE_PARAM_WRITE (R484): the pending set, then the activation cycle, which arms it. The pending record keeps the
channel in force (DEDUCED: no entry of area 18 names one). -/
def State.scheduleWrite (s : State) (act : Nat) : State × Nat :=
  let sf := setBits (setBits (setBits (s.reg R.FMAC_PSF) 29 24 (s.fwStaged 0 8 - 1)) 23 20 (s.fwStaged 2 4)) 19 16 (s.fwStaged 1 2)
  s.tryWrites mc4 [(R.FMAC_PSF, sf), (R.FMAC_PPLAIN, BitVec.ofNat 32 (s.fwStaged 3 0x00400010)),
    (R.FMAC_PPASS, BitVec.ofNat 32 (s.fwStaged 4 0x00100050)), (R.FMAC_PCHAN, s.reg R.FMAC_CHAN),
    (R.FMAC_ACT_LO, BitVec.ofNat 32 act), (R.FMAC_ACT_HI, BitVec.ofNat 32 (act / 2 ^ 32))]

/-- The writes of a row of the Notch plan into a radio's pending set; the one to ACT_HI completes it (R172). -/
def notchRow (r : WRadio) (v : List Byte) : List (Nat × Word) :=
  let w (o : Nat) : Word := BitVec.ofNat 32 (bytesNat ((v.drop o).take 4))
  [(R.MAC_NOTCH_PCTRL r, w 20), (R.MAC_NOTCH_PMASK_LO r, w 24), (R.MAC_NOTCH_PMASK_HI r, w 28),
    (R.MAC_NOTCH_PGUARD r, w 32), (R.MAC_NOTCH_PPLANID r, w 16), (R.MAC_NOTCH_ACT_LO r, w 9),
    (R.MAC_NOTCH_ACT_HI r, BitVec.ofNat 32 (bytesNat ((v.drop 13).take 1)))]

/-- The row of a radio: the lowest element that names this node and the radio (R487). -/
def State.ownRow (s : State) (d : Desc) (r : Nat) : Option (List Byte) :=
  ((List.range d.elems).map (fun e => s.fwVal d e)).find? (fun v =>
    v.length == 36 && v.take 8 == s.devid && bytesNat ((v.drop 8).take 1) == r)

/-- The row that goes into a radio's pending set: its own, or one with EN clear and the activation cycle of the
highest-indexed changed element (R487). -/
def State.rowFor (s : State) (d : Desc) (last : List Byte) (r : Nat) : List Byte :=
  match s.ownRow d r with
  | some v => v
  | none => List.replicate 9 0 ++ ((last.drop 9).take 5 ++ List.replicate (5 - ((last.drop 9).take 5).length) 0) ++
      List.replicate 22 0

/-- NOTCH_PLAN_SELECT (R487): after an apply, the rows of the three radios; `last` is the highest-indexed changed element. -/
def State.notchSelect (s : State) (d : Desc) (last : List Byte) : State :=
  let one (s : State) (r : WRadio) : State := (s.tryWrites mc5 (notchRow r (s.rowFor d last r.idx))).1
  one (one (one s .l) .m) .h

/-- A POLICER element: the two rates in the order that CIR ≤ PIR allows, the bursts, then the settings. -/
def State.policerWrite (s : State) (e : Nat) (v : List Byte) : State × Nat :=
  let w := valWords v
  let cir := (R.QMG_POL_CIR e, w.getD 1 0)
  let pir := (R.QMG_POL_PIR e, w.getD 2 0)
  let rates := if (s.regN (R.QMG_POL_CIR e)) ≤ (w.getD 2 0).toNat then [pir, cir] else [cir, pir]
  if v.isEmpty then s.tryWrites mc5 [s.withField (F.QMG_POL_CFG_EN e) 0]
  else
    s.tryWrites mc5 (rates ++ [(R.QMG_POL_CBS e, w.getD 3 0), (R.QMG_POL_PBS e, w.getD 4 0), (R.QMG_POL_CFG e, w.getD 0 0)])

/-- A CLASS_SHAPER element. -/
def State.shaperParam (s : State) (e : Nat) (v : List Byte) : State × Nat :=
  let w := valWords v
  if v.isEmpty then s.tryWrites mc5 [s.withField (F.TMG_CSHP_CFG_EN e) 0]
  else s.tryWrites mc5 [(R.TMG_CSHP_BURST e, w.getD 1 0), (R.TMG_CSHP_CFG e, w.getD 0 0)]

/-- A DWELL element (R483). -/
def State.dwellParam (s : State) (e : Nat) (v : List Byte) : State × Nat :=
  let w := valWords v
  if v.isEmpty then s.tryWrites mc4 [s.withField (F.FMAC_DW_CTRL_EN e) 0]
  else
    s.tryWrites mc4 [(R.FMAC_DW_CTRL e, w.getD 0 0), (R.FMAC_DW_FHI e, w.getD 1 0), (R.FMAC_DW_WIN e, w.getD 2 0),
      (R.FMAC_DW_LIMIT e, w.getD 3 0), (R.FMAC_DW_RSV e, w.getD 4 0)]

/-- The lengths that an element of the parameter may have (R483 to R491): other lengths are outside its range. -/
def fwLenOk (n len : Nat) : Bool :=
  if n = 0x13020 ∨ n = 0x18100 ∨ n = 0x28020 then len == 0 || len == 20
  else if n = 0x1C100 then len == 0 || len == 36
  else if n = 0x28010 then len == 0 || len == 8
  else true

/-- A channel of a Wi-Fi radio lies within its band (R482, R105): centre in kHz, width code. -/
def channelOk (r : Radio) (khz width : Nat) : Bool :=
  decide (width ≤ 4) && freqOk r (khz - 10000 * 2 ^ width) && freqOk r (khz + 10000 * 2 ^ width)

/-- What the catalogue asks of an element beyond its range entry (R482, R483, R487, R491). -/
def State.fwExtraOk (s : State) (n : Nat) (v : List Byte) : Bool :=
  let area := n / 4096
  let k := bytesNat v
  let r : Radio := radioOf (area - 0x10)
  if 0x10 ≤ area ∧ area ≤ 0x12 ∧ n % 4096 = 0 then
    channelOk r k (s.paramN area 1 0 (RegMap.pick (area - 0x10) 0 2 4 0))
  else if 0x10 ≤ area ∧ area ≤ 0x12 ∧ n % 4096 = 1 then
    channelOk r (s.paramN area 0 0 (RegMap.pick (area - 0x10) 2412000 5210000 6105000 0)) k
  else if n = 0x13000 then freqOk .s k
  else if n = 0x1C100 then v.isEmpty || decide (bytesNat ((v.drop 8).take 1) ≤ 2)
  else if n = 0x38012 then profileOk v
  else true

/-- One element of a firmware-bound parameter that a register carries: its writes; none where no register carries it. -/
def State.fwOne (s : State) (n e : Nat) (v : List Byte) : Option (State × Nat) :=
  let k := bytesNat v
  if n = 0x08010 then some (s.gtuParamWrite F.GTU_CTRL_ROLE k)
  else if n = 0x08011 then some (s.gtuParamWrite F.GTU_CTRL_NOM k)
  else if n = 0x08012 then some (s.gtuParamWrite F.GTU_CTRL_SRC k)
  else if n = 0x08013 then some (s.gtuParamWrite F.GTU_CTRL_ZXPOL k)
  else if n = 0x13010 then some (s.tryWrites mc4 [(R.FMAC_UP_PARENT, BitVec.ofNat 32 k)])
  else if n = 0x13020 then some (s.dwellParam e v)
  else if n = 0x18005 then some (s.scheduleWrite k)
  else if n = 0x18100 then some (s.assignWrite e v)
  else if n = 0x1C002 then
    some (s.tryWrites mc5 [s.withField (F.MAC_NOTCH_MINTX_US .l) k, s.withField (F.MAC_NOTCH_MINTX_US .m) k,
      s.withField (F.MAC_NOTCH_MINTX_US .h) k])
  else if n = 0x20020 then some (s.tryWrites mc5 [s.withField (F.ETH_CTRL_MODE e) k])
  else if n = 0x20021 then some (s.tryWrites mc5 [s.withField (F.ETH_MAXLEN_LEN e) k])
  else if n = 0x20022 then
    let c := s.reg (R.ETH_CTRL e)
    some (s.tryWrites mc5 [(R.ETH_CTRL e, setBits (setBits c 22 22 (if k = 0 then 0 else 1)) 21 20 k)])
  else if n = 0x28000 then some (s.tryWrites mc5 [(R.TMG_PORT_CFG e, BitVec.ofNat 32 k)])
  else if n = 0x28001 then
    some (s.tryWrites mc5 (if k = 0 then [s.withField (F.TMG_PORT_CFG_SHEN e) 0]
      else [(R.TMG_PORT_RATE e, BitVec.ofNat 32 k), s.withField (F.TMG_PORT_CFG_SHEN e) 1]))
  else if n = 0x28002 then some (s.tryWrites mc5 [(R.TMG_PORT_BURST e, BitVec.ofNat 32 k)])
  else if n = 0x28003 then
    some (s.tryWrites mc5 [(R.TMG_PORT_CW_LO e, BitVec.ofNat 32 k), (R.TMG_PORT_CW_HI e, BitVec.ofNat 32 (k / 2 ^ 32))])
  else if n = 0x28010 then some (s.shaperParam e v)
  else if n = 0x28020 then some (s.policerWrite e v)
  else none

/-- Parameters whose value MC4 or MC5 only keeps, for use when something else happens. -/
def fwKept (n : Nat) : Bool :=
  n == 0x08030 || n == 0x08031 || (decide (0x18000 ≤ n ∧ n ≤ 0x18004)) || n == 0x1C100 || n == 0x20011 ||
    (decide (0x38002 ≤ n ∧ n ≤ 0x38006)) || n == 0x38012 || n == 0x38013 || n == 0x3F001

/-- Elements that MC4 and MC5 write one after another, up to the first refusal; each accepted one is kept. None where a
queue carries the parameter. -/
def State.fwElems (s : State) (d : Desc) : List (Nat × List Byte) → Option (State × Nat)
  | [] => some (s, St.OK)
  | x :: xs =>
    match (if fwKept d.num then some (s, St.OK) else s.fwOne d.num x.1 x.2) with
    | none => none
    | some r => if r.2 = St.OK then (r.1.setFwVal d x.1 x.2).fwElems d xs else some r

/-- A write of a firmware-bound parameter: RANGE, what MC4 and MC5 do, or none where a queue carries it. -/
def State.fwWrite (s : State) (d : Desc) (l : List (Nat × List Byte)) : Option (State × Nat) :=
  if l.any (fun x => !fwLenOk d.num x.2.length || !s.fwExtraOk d.num x.2) then some (s, St.RANGE)
  else
    match s.fwElems d l with
    | none => none
    | some r =>
      if r.2 = St.OK ∧ d.num = 0x1C100 then
        some (r.1.notchSelect d ((l.getLast?.map (fun x => x.2)).getD []), St.OK)
      else some r

/-! ## Reads that MC4 and MC5 answer -/

/-- The counter registers of a counter parameter (R478): the first and their number. -/
def counterRegs (n : Nat) : Option (Nat × Nat) :=
  let k := n / 4096 - 0x10
  if n % 4096 = 0xF0 ∧ 0x10 ≤ n / 4096 ∧ n / 4096 ≤ 0x12 then some (0x40300100 + 0x10000 * k, 17)
  else if n % 4096 = 0xF1 ∧ 0x10 ≤ n / 4096 ∧ n / 4096 ≤ 0x13 then some (0x40200100 + 0x10000 * k, 15)
  else if n % 4096 = 0xF2 ∧ 0x10 ≤ n / 4096 ∧ n / 4096 ≤ 0x13 then some (0x40100100 + 0x10000 * k, 7)
  else if n = 0x130F0 then some (R.FMAC_CNT_BCN, 24)
  else if n = 0x200F0 then some (R.PPE_CNT_RX, 17)
  else if 0x200F1 ≤ n ∧ n ≤ 0x200F6 then some (R.ETH_CNT_RXOK (n - 0x200F1), 10)
  else if n = 0x280F0 then some (R.QMG_CNT_ENQ, 8)
  else if n = 0x280F1 then some (R.TMG_CNT_SEL, 3)
  else if n = 0x281F0 then some (R.STP_CNT_DEC, 14)
  else if n = 0x300F0 then some (R.CRY_CNT_OPS, 8)
  else if n = 0x300F1 then some (R.PKE_CNT_OPS, 5)
  else if n = 0x3F010 then some (R.SRM_CNT_CE, 4)
  else if n = 0x3F011 then some (R.DRC_CNT_CE, 8)
  else if n = 0x3F012 then some (R.DMA_CNT_STATE, 2)
  else if n = 0x3F013 then some (R.ODE_CNT_REQ, 17)
  else none

/-- LIFECYCLE as 00.002 codes it. -/
def State.lifeCode (s : State) : Nat := if s.lifecycle = 0 then 0 else if s.lifecycle = 7 then 2 else 1

/-- SLOT_INFO of a key slot (R490). -/
def State.slotInfo (s : State) (n : Nat) : Nat :=
  let k := s.slot n
  let st := s.slotState n
  st * 2 ^ 62 + (if st = Slot.EMPTY then 0 else k.typ * 2 ^ 56 + k.usage * 2 ^ 48) + (s.slotGen n).toNat

/-- SA_COUNT of an SA (R490): its words 4, 5 and 12 to 17; the last 16 of the 48 bytes are not given. -/
def State.saCounts (s : State) (n : Nat) : State × List Byte :=
  (s.used, ([4, 5, 12, 13, 14, 15, 16, 17].flatMap (fun k => natBytes 4 ((s.sa n).w k))) ++ natBytes 16 s.free)

/-- The areas 00 to 02. -/
def State.fwReadA (s : State) (n : Nat) : Option (List Byte) :=
  if n = 0x00002 then some (natBytes 1 s.lifeCode)
  else if n = 0x00005 then some (wordBytes ((List.range 24).map (fun k => s.reg (R.PKE_DAKPUB k))))
  else if n = 0x01011 then some (natBytes 4 s.sys.limited)
  else if n = 0x01030 then some (natBytes 8 s.ode.since.toNat)
  else if n = 0x02000 then some (natBytes 1 (if s.rf F.SYS_BOOTSTAT_SRC = 1 then 1 else 0))
  else if n = 0x02001 then some (natBytes 4 (s.ledgerNow.getD 1 0))
  else if n = 0x02002 then some (natBytes 1 (if s.rf F.DRC_STAT_STATE < 2 then 3 else s.rf F.DRC_STAT_SPEED))
  else if n = 0x02003 then some (s.ledgerNow.flatMap (fun w => natBytes 4 w))
  else if n = 0x02005 then some (natBytes 1 (if s.dumpPresent then 1 else 0))
  else none

/-- The areas 13 to 3F. -/
def State.fwReadB (s : State) (n e : Nat) : Option (List Byte) :=
  let i := feRec e
  if n = 0x18010 then some (natBytes 2 s.validEntries.length)
  else if n = 0x18101 then some (natBytes 1 (if s.hasRec e then s.recState i else if s.feHold e then Cl.ABSENT else 0))
  else if n = 0x18102 then some (natBytes 4 (if s.hasRec e then ofSigned 32 (toSigned 16 (s.cr i 28 31 16)) else 0))
  else if n = 0x18103 then some (natBytes 8 (if s.hasRec e then s.readN (clAddr i + 208) 8 else 0))
  else if n = 0x30050 then some (s.mr e)
  else if n = 0x30030 then some (natBytes 8 (s.slotInfo e))
  else if n = 0x38000 then some (natBytes 1 (if s.relayClosed then 1 else 0))
  else if n = 0x38007 then some (natBytes 4 s.lum.untimed)
  else if n = 0x38010 then some (natBytes 1 s.lum.level)
  else
    match counterRegs n with
    | some (a, k) => if e < k then some (natBytes 8 (Sparse.getN s.ode.totals (a + 4 * e))) else none
    | none => none

/-- The reads that take a register's word. -/
def fwReadReg (n e : Nat) : Option Nat :=
  let r : WRadio := if e = 0 then .l else if e = 1 then .m else .h
  if n = 0x1C000 then some (R.MAC_NOTCH_PLANID r)
  else if n = 0x1C001 then some (R.MAC_NOTCH_STAT r)
  else if n = 0x3F000 then some (R.RFC_TEMP (radioOf e))
  else if n = 0x3F002 then some (R.EVR_CNT e)
  else none

/-- A read of an element that MC4 or MC5 answers at once; none where a queue carries it. -/
def State.fwRead (s : State) (d : Desc) (e : Nat) : State × Option (List Byte) :=
  let n := d.num
  match fwReadReg n e with
  | some a =>
    let r := s.mcRead a
    let v := if n = 0x3F000 then ofSigned 32 (toSigned 16 r.2.toNat) else r.2.toNat
    (r.1, some (natBytes (if n = 0x3F002 then 2 else 4) v))
  | none =>
    if n = 0x30040 then let r := s.saCounts e; (r.1, some r.2)
    else
      match (if n / 4096 ≤ 2 then s.fwReadA n else s.fwReadB n e) with
      | some v => (s, some v)
      | none => (s, if d.access = Ac.RW ∨ d.access = Ac.RWC then some (s.fwVal d e) else none)

/-! ## The queues to the cores (R448) -/

/-- The core that serves a firmware-bound parameter; 6 is the ODE itself, which serves 40.002. -/
def Desc.core (d : Desc) : Nat := if d.num = 0x40002 then 6 else d.target / 2 ^ 29

/-- FW_REQUEST_POST (R448): a firmware-bound access joins the queue of its core; its number. -/
def State.fwPost (s : State) (d : Desc) (kind ref typ : Nat) (v : List Byte) : State × Nat :=
  let n := s.ode.fwNum
  let r : FwReq := ⟨n, d.core, kind, d.target % 2 ^ 16, ref, typ, v, false⟩
  (s.setOde (fun o => { o with fwq := o.fwq ++ [r], fwNum := (n + 1) % 4096 }), n)

/-- A post whose answer no request waits for. -/
def State.fwPostQuiet (s : State) (d : Desc) (ref : Nat) (v : List Byte) : State :=
  let r := s.fwPost d 2 ref d.typ v
  r.1.setOde (fun o => { o with fwQuiet := o.fwQuiet ++ [r.2] })

/-- The access that a number names. -/
def State.fwFind (s : State) (num : Nat) : Option FwReq := s.ode.fwq.find? (fun r => r.num == num)
/-- It leaves the queue. -/
def State.fwDrop (s : State) (num : Nat) : State :=
  s.setOde (fun o => { o with fwq := o.fwq.filter (fun r => r.num != num), fwQuiet := o.fwQuiet.filter (fun k => k != num) })

/-- The first access in the queues to a parameter, when a request waits for it. -/
def State.fwOf (s : State) (area item : Nat) : Option FwReq :=
  s.ode.fwq.find? (fun r => r.ref / 2 ^ 24 == area && r.ref / 2 ^ 12 % 4096 == item)

end Sys2Proof.Machine
end

