-- ==== Sys2Proof/Machine/OdeAccess.lean ====
section
/-! DEFINITION. One access to the dictionary (R446, R447, R464): the checks in their order, reads, the apply of register-bound
and store-bound values with its undo, DIRTY, and what goes to the journal's buffer. -/

namespace Sys2Proof.Machine

/-! The three operations on a parameter, as ODE_FWREQ codes them (R473). -/
namespace Acc
def READ : Nat := 1
def WRITE : Nat := 2
def INVOKE : Nat := 3
end Acc

/-! Journal states (R473). -/
namespace Js
def OFF : Nat := 0
def RUN : Nat := 1
def COMPACT : Nat := 2
def FAIL : Nat := 3
end Js

/-! ## The checks (R446) -/

/-- The access code permits the operation and the class reaches (step 2). -/
def Desc.permits (d : Desc) (op cls : Nat) : Bool :=
  if op = Acc.READ then d.access != Ac.WO && d.access != Ac.CMD && decide (d.rdr ≤ cls)
  else if op = Acc.WRITE then
    (d.access == Ac.RW || d.access == Ac.RWC || d.access == Ac.WO) && decide (d.wrr ≤ cls)
  else d.access == Ac.CMD && decide (d.wrr ≤ cls)

/-- The device state permits the operation (step 6, R449). -/
def Desc.inState (d : Desc) (op dev : Nat) : Bool :=
  if op = Acc.READ then dev != Dev.DUMP || d.area ≤ 2 || d.area == 0x3F
  else d.wstates / 2 ^ dev % 2 == 1 && (d.access != Ac.RWC || dev == Dev.MAINTENANCE)

/-- Steps 1, 3 and 4: the parameter, its elements and their values. A read carries no value. -/
def State.checkValue (s : State) (op ref typ : Nat) (v : List Byte) : Except Nat (Desc × List (Nat × List Byte)) :=
  match s.refCheck ref with
  | .error e => .error e
  | .ok (d, es) =>
    if op = Acc.READ then .ok (d, es.map (fun e => (e, [])))
    else
      match d.split ref typ v with
      | .error e => .error e
      | .ok l => if l.all (fun x => s.valueOk d x) then .ok (d, es.zip l) else .error St.RANGE

/-- A persisted parameter cannot be journaled now: FAIL, or no room in the 16 KB buffer (R464). -/
def State.journalStop (s : State) (d : Desc) (need : Nat) : Option Nat :=
  if !d.persist then none
  else if s.rf F.ODE_JSTAT_STATE = Js.FAIL then some St.NOTREADY
  else if 16384 < s.rf F.ODE_JSTAT_WAIT + need then some St.BUSY
  else none

/-- Bytes that a value record of `n` value bytes takes (R463). -/
def valSize (n : Nat) : Nat := recSize (2 + (n + 3) / 4)

/-- The access check in its order (R446); the journal's own refusals come last (R464). -/
def State.accessCheck (s : State) (op cls ref typ : Nat) (v : List Byte) :
    Except Nat (Desc × List (Nat × List Byte)) :=
  match s.refCheck ref with
  | .error e => .error e
  | .ok (d, _) =>
    if !d.permits op cls then .error St.RIGHTS
    else
      match s.checkValue op ref typ v with
      | .error e => .error e
      | .ok (d, l) =>
        if d.func ≠ 31 ∧ !s.ready d.func then .error St.NOTREADY
        else if !d.inState op s.dev then .error St.STATE
        else if op = Acc.WRITE then
          match s.journalStop d ((l.map (fun x => valSize x.2.length)).sum + valSize 1 + recSize 1) with
          | some st => .error st
          | none => .ok (d, l)
        else .ok (d, l)

/-! ## Reads -/

/-- What a read of a parameter gives: a value, a status, or the number of an access that waits for a core. -/
inductive ReadRes where
  | val (v : List Byte)
  | err (status : Nat)
  | wait (num : Nat)
deriving DecidableEq, Repr

/-- The elements read one after another, until one is not read at once. -/
def State.readElems (s : State) (d : Desc) : List Nat → State × Option (List (List Byte))
  | [] => (s, some [])
  | e :: es =>
    let r := if d.bind = 2 then s.fwRead d e else s.elemRead d e
    let t := r.1.readElems d es
    match r.2, t.2 with
    | some v, some l => (t.1, some (v :: l))
    | _, _ => (t.1, none)

/-- The value of the elements that a reference names: one value, or a whole array's in index order (R453). -/
def Desc.join (d : Desc) (ref : Nat) (l : List (List Byte)) : List Byte :=
  if d.array ∧ ref % 4096 = 0xFFF then l.flatMap (elemBytes d.typ) else l.headD []

/-- Read a parameter that passed its checks. -/
def State.readParam (s : State) (d : Desc) (ref : Nat) (es : List Nat) : State × ReadRes :=
  let r := s.readElems d es
  match r.2 with
  | some l => (r.1, .val (d.join ref l))
  | none =>
    if d.bind = 2 then let p := s.fwPost d Acc.READ ref d.typ []; (p.1, .wait p.2)
    else (r.1, .err St.HW)

/-! ## The journal's buffer and DIRTY (R464, R468) -/

/-- Bytes of a group in flash, one copy. -/
def groupSize (g : List JVal) : Nat :=
  (g.map (fun x => valSize x.value.length)).sum + (if g.any (fun x => x.group) then recSize 1 else 0)

/-- ODE_JSTAT shows the bytes that wait. -/
def State.jKeep (s : State) : State := s.wf F.ODE_JSTAT_WAIT (s.ode.jbuf.map groupSize).sum

/-- Values go to the buffer, those that differ from the last value journaled, as one group (R464). -/
def State.journal (s : State) (l : List (Desc × Nat × List Byte)) : State :=
  let new := l.filter (fun x => x.1.persist && Sparse.getO s.ode.jlast (x.1.ref x.2.1) != some x.2.2)
  if new.isEmpty then s
  else
    let g := new.map (fun x => (⟨x.1.ref x.2.1, x.1.typ, decide (1 < new.length), x.2.2⟩ : JVal))
    (s.setOde (fun o => { o with
      jbuf := o.jbuf ++ [g]
      jlast := g.foldl (fun m x => Sparse.put (fun _ => none) m x.ref (some x.value)) o.jlast })).jKeep

/-- A parameter of area 40 that the ODE itself journals. -/
def State.ownVal (s : State) (item : Nat) (v : List Byte) : List (Desc × Nat × List Byte) :=
  match s.findDesc 0x40 item with
  | none => []
  | some d => [(d, 0, v)]

/-- Values are in force: a NET parameter among them sets DIRTY (R468); persisted ones are journaled. -/
def State.wrote (s : State) (l : List (Desc × Nat × List Byte)) : State :=
  if l.any (fun x => x.1.net) then (s.wb F.ODE_STAT_DIRTY true).journal (l ++ s.ownVal 3 [1]) else s.journal l

/-! ## The apply (R27, R447) -/

/-- A register write of an apply: the entry it belongs to, the address, the field and its value. -/
structure RegOp where
  entry : Nat
  fld : Fld
  value : Nat
deriving DecidableEq, Repr

/-- The register writes of an element of a register-bound parameter. -/
def Desc.regOps (d : Desc) (entry e : Nat) (v : List Byte) : List RegOp :=
  let a := d.regAt e
  if d.words = 1 ∧ !isText d.typ then [⟨entry, ⟨a, d.lsb + d.width - 1, d.lsb⟩, bytesNat v⟩]
  else (List.range d.words).map (fun k => ⟨entry, ⟨a + 4 * k, 31, 0⟩, bytesNat ((v.drop (4 * k)).take 4)⟩)

/-- Write the fields by read-modify-write, noting the words the registers held and the first entry that was refused. -/
def State.applyOps (s : State) : List RegOp → State × List (Nat × Word) × Option (Nat × Nat)
  | [] => (s, [], none)
  | x :: xs =>
    let r := (s.regRead odeIni x.fld.addr).taken
    match r.2 with
    | none =>
      let t := r.1.applyOps xs
      (t.1, t.2.1, some (x.entry, St.HW))
    | some old =>
      let w := r.1.tryWrite odeIni x.fld.addr (setBits old x.fld.hi x.fld.lo x.value)
      let t := w.1.applyOps xs
      if w.2 = St.OK then (t.1, t.2.1 ++ [(x.fld.addr, old)], t.2.2) else (t.1, t.2.1, some (x.entry, w.2))

/-- Write the register words back. -/
def State.undo (s : State) : List (Nat × Word) → State
  | [] => s
  | x :: xs => (s.regWrite odeIni x.1 x.2).undo xs

/-- Store the elements of store-bound parameters. -/
def State.applyStore (s : State) : List (Desc × Nat × List Byte) → State
  | [] => s
  | x :: xs => (if x.1.bind = 1 then s.storeWrite x.1 x.2.1 x.2.2 else s).applyStore xs

/-- The elements of the entries, each with the number of its entry. -/
abbrev Entries := List (Nat × Desc × List (Nat × List Byte))

/-- The register writes of an apply. -/
def Entries.ops (l : Entries) : List RegOp :=
  l.flatMap (fun x => if x.2.1.bind = 0 then x.2.2.flatMap (fun v => x.2.1.regOps x.1 v.1 v.2) else [])

/-- The values of an apply. -/
def Entries.vals (l : Entries) : List (Desc × Nat × List Byte) :=
  l.flatMap (fun x => x.2.2.map (fun v => (x.2.1, v.1, v.2)))

/-- DICTIONARY_APPLY_HOLD (R27, R447): all the entries, or none with the entry that decides and its status. -/
def State.applyAll (s : State) (l : Entries) : State × Option (Nat × Nat) :=
  let r := s.applyOps l.ops
  match r.2.2 with
  | some f => (r.1.undo r.2.1, some f)
  | none => (r.1.applyStore l.vals, none)

end Sys2Proof.Machine
end

