-- ==== Sys2Proof/Machine/OdeJournal.lean ====
section
/-! DEFINITION. The persistence journal (R463 to R466) and the load of the dictionary image (R445). -/

namespace Sys2Proof.Machine

/-! Record types (R463). -/
namespace Jr
def HEADER : Nat := 0x4A00
def VALUE : Nat := 0x4A01
def GROUP : Nat := 0x4A02
def SNAP : Nat := 0x4A03
end Jr

/-- Bytes of a segment. -/
def State.jSize (s : State) : Nat := 2 ^ s.rf F.ODE_JGEOM_SEGLOG
/-- The flash offset of segment `k` of the region. -/
def State.jSeg (s : State) (k : Nat) : Nat := s.regN R.ODE_JBASE + k * s.jSize

/-- The data words of a value record (R463). -/
def JVal.words (x : JVal) : List Nat :=
  [x.ref, x.typ * 2 ^ 28 + (if x.group then 2 ^ 16 else 0) + x.value.length] ++
    wordsOf (x.value ++ List.replicate ((4 - x.value.length % 4) % 4) 0)

/-- The value of a value record. -/
def jvalOf (d : List Nat) : JVal where
  ref := d.getD 0 0
  typ := d.getD 1 0 / 2 ^ 28
  group := d.getD 1 0 / 2 ^ 16 % 2 == 1
  value := ((d.drop 2).flatMap (fun w => natBytes 4 w)).take (d.getD 1 0 % 2 ^ 16)

/-- Write the next record at the end of the active pair, copy B first (R463). -/
def State.jPut (s : State) (typ : Nat) (data : List Nat) : State :=
  let p := s.rf F.ODE_JSTAT_PAIR
  let s := (s.pairWrite (s.jSeg (2 * p)) (s.jSeg (2 * p + 1)) s.ode.joff ⟨typ, s.ode.jseq % 2 ^ 32, data⟩).flashOps 2
  s.setOde (fun o => { o with jseq := o.jseq + 1, joff := o.joff + recSize data.length })

/-- Write a group: its values, and its end when it is one (R463). -/
def State.jPutGroup (s : State) (g : List JVal) : State :=
  let t := g.foldl (fun s x => s.jPut Jr.VALUE x.words) s
  if g.any (fun x => x.group) then t.jPut Jr.GROUP [g.length] else t

/-- Write the groups that wait while the pair has room; without room the ODE compacts (R464, R466). -/
def State.jDrain (s : State) : List (List JVal) → State
  | [] => s
  | g :: gs =>
    if s.ode.jpair = 0 ∨ s.jSize < s.ode.joff + groupSize g then s.wf F.ODE_JSTAT_STATE Js.COMPACT
    else ((s.jPutGroup g).setOde (fun o => { o with jbuf := gs })).jDrain gs

/-- A pair is retired until the next start (R466). -/
def State.retire (s : State) (p : Nat) : State :=
  (s.setOde (fun o => { o with retired := p :: o.retired })).bump R.ODE_CNT_JRETIRE

/-- JOURNAL_COMMIT (R464): within JCOMMIT the records that wait reach flash; `fail` says that a program failed. -/
def execJournalCommit (fail : Bool) (s : State) : Host.Outcome State Fault Refusal :=
  if s.rf F.ODE_JSTAT_STATE ≠ Js.RUN ∨ s.ode.jbuf.isEmpty then .next s
  else if fail ∧ s.ode.jpair ≠ 0 then .next ((s.retire (s.rf F.ODE_JSTAT_PAIR)).wf F.ODE_JSTAT_STATE Js.COMPACT)
  else .next (s.jDrain s.ode.jbuf).jKeep

/-- The header record of a pair: pair SEQ and erase count. -/
def State.jHeader (s : State) (p : Nat) : Option (Nat × Nat) :=
  let a := s.jSeg (2 * p)
  let b := s.jSeg (2 * p + 1)
  match recWin (s.recAt a (a + s.jSize)) (s.recAt b (b + s.jSize)) with
  | some r => if r.typ = Jr.HEADER then some (r.data.getD 0 0, r.data.getD 1 0) else none
  | none => none

/-- Its erase count; a pair without a header counts from 0. -/
def State.jErases (s : State) (p : Nat) : Nat := ((s.jHeader p).map (fun h => h.2)).getD 0

/-- The pairs that a compaction may take: neither active nor retired. -/
def State.jFree (s : State) : List Nat :=
  (List.range (s.rf F.ODE_JGEOM_NPAIR)).filter (fun p =>
    !s.ode.retired.contains p && (s.ode.jpair == 0 || p != s.rf F.ODE_JSTAT_PAIR))

/-- The free pair with the lowest erase count. -/
def State.jNext (s : State) : Option Nat :=
  s.jFree.find? (fun p => s.jFree.all (fun q => decide (s.jErases p ≤ s.jErases q)))

/-- A value that is held for its function (R465). -/
def State.heldVal (s : State) (ref : Nat) : Option (List Byte) :=
  ((s.ode.held.flatten.filter (fun x => x.ref == ref)).getLast?).map (fun x => x.value)

/-- The value of an element now. -/
def State.valueNow (s : State) (d : Desc) (e : Nat) : List Byte :=
  match s.heldVal (d.ref e) with
  | some v => v
  | none => if d.bind = 2 then s.fwVal d e else (s.elemRead d e).2.getD []

/-- The current value of every persisted parameter. -/
def State.snapVals (s : State) : List JVal :=
  (s.descs.filter (fun d => d.persist)).flatMap (fun d =>
    (List.range d.elems).map (fun e => ⟨d.ref e, d.typ, false, s.valueNow d e⟩))

/-- The journal enters FAIL (R464). -/
def State.jFail (s : State) : State := (s.wf F.ODE_JSTAT_STATE Js.FAIL).raise 200

/-- The pairs with a header, by rising pair SEQ. -/
def State.jPairs (s : State) : List (Nat × Nat) :=
  let l := (List.range (s.rf F.ODE_JGEOM_NPAIR)).filterMap (fun p => (s.jHeader p).map (fun h => (h.1, p)))
  l.mergeSort (fun a b => decide (a.1 ≤ b.1))

/-- A pair is erased and becomes the active one: header, snapshot, snapshot end (R466). -/
def State.jStart (s : State) (p : Nat) : State :=
  let n := s.jErases p + 1
  let next := (s.jPairs.map (fun x => x.1)).foldl max s.ode.jpair + 1
  let vals := s.snapVals
  let wear := max n (s.regN R.ODE_JWEAR)
  let alarm := decide (s.regN R.ODE_JWEAR ≤ s.regN R.ODE_JWEARALM ∧ s.regN R.ODE_JWEARALM < wear)
  let s := ((s.flashErase (s.jSeg (2 * p)) (2 * s.jSize)).flashOps 2).wf F.ODE_JSTAT_PAIR p
  let s := s.setOde (fun o => { o with joff := 0, jpair := next })
  let s := s.jPut Jr.HEADER [s.ode.jpair, n]
  let s := vals.foldl (fun s x => s.jPut Jr.VALUE x.words) s
  let s := s.jPut Jr.SNAP [vals.length]
  let s := s.setOde (fun o => { o with
    jlast := vals.foldl (fun m x => Sparse.put (fun _ => none) m x.ref (some x.value)) o.jlast })
  let s := (s.setRegN R.ODE_JWEAR wear).wf F.ODE_JSTAT_STATE Js.RUN
  if alarm then s.raise 201 else s

/-- Compaction: the first `bad` pairs it takes fail to erase or to program (R466). A snapshot that is larger than a pair
leaves no pair that could take it. -/
def State.jCompact (s : State) : Nat → State
  | 0 =>
    match s.jNext with
    | none => s.jFail
    | some p =>
      let need := recSize 2 + (s.snapVals.map (fun x => valSize x.value.length)).sum + recSize 1
      if s.jSize < need then s.jFail else s.jStart p
  | n + 1 =>
    match s.jNext with
    | none => s.jFail
    | some p => (s.retire p).jCompact n

/-- JOURNAL_COMPACT (R466). -/
def execJournalCompact (bad : Nat) (s : State) : Host.Outcome State Fault Refusal :=
  if s.rf F.ODE_JSTAT_STATE = Js.COMPACT then .next (s.jCompact bad).jKeep else .next s

/-! ## Replay (R465) -/

/-- The records of a pair behind its header. -/
def State.jWalk (s : State) (p : Nat) : List StoredRec × Nat × Bool :=
  s.recWalk (s.jSeg (2 * p)) (s.jSeg (2 * p + 1)) s.jSize (s.jSize / 16) (recSize 2)

/-- The pairs to read: from the highest whose snapshot is complete through every newer one. -/
def State.jRead (s : State) : List (Nat × Nat) :=
  let l := s.jPairs
  match (l.filter (fun x => (s.jWalk x.2).1.any (fun r => r.typ == Jr.SNAP))).getLast? with
  | none => []
  | some x => l.filter (fun y => decide (x.1 ≤ y.1))

/-- The groups of a list of records: a GROUP record counts only when its group end follows it. -/
def jGroups (acc : List JVal) : List StoredRec → List (List JVal)
  | [] => []
  | r :: rs =>
    if r.typ = Jr.VALUE then
      let x := jvalOf r.data
      if x.group then jGroups (acc ++ [x]) rs else [x] :: jGroups [] rs
    else if r.typ = Jr.GROUP then
      (if acc.length = r.data.getD 0 0 ∧ !acc.isEmpty then [acc] else []) ++ jGroups [] rs
    else jGroups [] rs

/-- The parameters of area 40 that the ODE journals by itself: read-only, so they are restored directly. DEDUCED. -/
def ownRef (ref : Nat) : Bool := ref == 0x40000FFF || ref == 0x40001FFF || ref == 0x40003FFF

/-- Restore one of them. -/
def State.restoreOwn (s : State) (x : JVal) : State :=
  if x.ref = 0x40000FFF then
    (List.range 12).foldl (fun s k => s.setRegN (R.ODE_DIG k) (bytesNat ((x.value.drop (4 * k)).take 4))) s
  else if x.ref = 0x40001FFF then s.setRegN R.ODE_GEN (bytesNat x.value)
  else s.wb F.ODE_STAT_DIRTY (x.value != [0])

/-- A value is skipped (R465). -/
def State.jSkip (s : State) (n : Nat) : State := s.bumpBy R.ODE_CNT_JSKIP n

/-- A firmware-bound value is given to its core. -/
def State.fwGive (s : State) (d : Desc) (ref : Nat) (l : List (Nat × List Byte)) : State :=
  match s.fwWrite d l with
  | some r => if r.2 = St.OK then r.1 else r.1.jSkip 1
  | none => s.fwPostQuiet d ref (d.join ref (l.map (fun x => x.2)))

/-- The values of a group whose checks pass, each with its descriptor; the others are skipped. -/
def State.jCheck (s : State) : List JVal → State × Entries
  | [] => (s, [])
  | x :: xs =>
    match s.refCheck x.ref with
    | .error _ => (s.jSkip 1).jCheck xs
    | .ok (d, _) =>
      match (if d.permits Acc.WRITE 3 then s.checkValue Acc.WRITE x.ref x.typ x.value else .error St.RIGHTS) with
      | .error _ => (s.jSkip 1).jCheck xs
      | .ok (d, l) =>
        let t := s.jCheck xs
        (t.1, (x.ref, d, l) :: t.2)

/-- Apply the values of a group whose functions are ready: registers and store in one apply, then the cores. -/
def State.jApply (s : State) (g : List JVal) : State :=
  let s := (g.filter (fun x => ownRef x.ref)).foldl (fun s x => s.restoreOwn x) s
  let r := s.jCheck (g.filter (fun x => !ownRef x.ref))
  let t := r.1.applyAll r.2
  let s := if t.2.isSome then t.1.jSkip (r.2.filter (fun x => x.2.1.bind != 2)).length else t.1
  (r.2.filter (fun x => x.2.1.bind == 2)).foldl (fun s x => s.fwGive x.2.1 x.1 x.2.2) s

/-- A value must be held: its parameter exists and its function is not ready. -/
def State.mustHold (s : State) (x : JVal) : Bool :=
  match s.refCheck x.ref with
  | .ok (d, _) => d.func != 31 && !s.ready d.func
  | .error _ => false

/-- Replay a group: what is ready is applied, what is not is held. -/
def State.jReplayGroup (s : State) (g : List JVal) : State :=
  let h := g.filter (fun x => s.mustHold x)
  let s := s.setOde (fun o => { o with
    jlast := g.foldl (fun m x => Sparse.put (fun _ => none) m x.ref (some x.value)) o.jlast
    held := if h.isEmpty then o.held else o.held ++ [h] })
  s.jApply (g.filter (fun x => !h.contains x))

/-- JOURNAL_REPLAY (R465). The active pair is the newest; where its replay ended at an undecided record, it has no room for
the next record. -/
def State.jReplay (s : State) : State :=
  let l := s.jRead
  let walks := l.map (fun x => s.jWalk x.2)
  let recs := walks.flatMap (fun w => w.1)
  let lost := (walks.filter (fun w => w.2.2)).length
  let s := s.wf F.ODE_JSTAT_STATE Js.RUN
  let s := s.setRegN R.ODE_JWEAR ((s.jPairs.map (fun x => s.jErases x.2)).foldl max 0)
  let s := match l.getLast?, walks.getLast? with
    | some x, some w =>
      ((s.wf F.ODE_JSTAT_PAIR x.2).setOde (fun o => { o with jpair := x.1, joff := w.2.1 })).wf F.ODE_JSTAT_STATE
        (if w.2.2 then Js.COMPACT else Js.RUN)
    | _, _ => s.setOde (fun o => { o with jpair := 0, joff := 0 })
  let s := s.setOde (fun o => { o with jseq := (recs.map (fun r => r.seq)).foldl max 0 + 1 })
  let s := (List.range lost).foldl (fun s _ => (s.bump R.ODE_CNT_JLOST).raise 200) s
  (jGroups [] recs).foldl (fun s g => s.jReplayGroup g) s

/-- HELD_VALUES_APPLY (R465): between two requests the held values of the functions that are ready are applied, in SEQ order
and group by group. -/
def State.heldApply (s : State) : State :=
  let now := s.ode.held.map (fun g => g.filter (fun x => !s.mustHold x))
  let rest := (s.ode.held.map (fun g => g.filter (fun x => s.mustHold x))).filter (fun g => !g.isEmpty)
  now.foldl (fun s g => s.jApply g) (s.setOde (fun o => { o with held := rest }))

/-- HELD_VALUES_APPLY (R465). -/
def execHeldValuesApply (s : State) : Host.Outcome State Fault Refusal :=
  if s.ode.req.isSome then .next s else .next s.heldApply

/-! ## Load (R445) -/

/-- The image at the start of shared real-time memory is good: MAGIC, version, ascending references, BIND, and WSTATES of RWC
(R444, R445). More descriptors than the image range holds are refused with them. -/
def State.imageGood (s : State) : Bool :=
  let n := s.readN (imgBase + 8) 4
  let ds := (List.range n).map s.descAt
  s.readN imgBase 4 == 0x49444F44 && s.readN (imgBase + 4) 4 == 1 && decide (n ≤ 16384) &&
    (ds.zip ds.tail).all (fun x => decide (x.1.num < x.2.num)) &&
    ds.all (fun d => d.bind != 3 && (d.access != Ac.RWC || d.wstates &&& (63 - 2) == 0))

/-- The defaults of a parameter's elements: registers unless NODEF is set, and the value store (R445). -/
def State.putDefaults (s : State) (d : Desc) : State :=
  let v := s.dfltOf d
  let es := List.range d.elems
  if d.bind = 0 then
    (if d.nodef then s else (s.applyOps (es.flatMap (fun e => d.regOps 0 e v))).1)
  else if d.bind = 1 then es.foldl (fun s e => s.storeWrite d e v) s
  else s

/-- DICTIONARY_IMAGE_LOAD (R445). The STATUS of a refused load is not given: a free value. -/
def execDictionaryImageLoad (s : State) : Host.Outcome State Fault Refusal :=
  if !s.sys.mc5 || s.step1 Fn.DICT then .next s
  else if !s.imageGood then .next (s.used.refuse R.ODE_ERR s.free 192)
  else
    let s := (s.wf F.ODE_NPARAM_N (s.readN (imgBase + 8) 4)).setRegN R.ODE_IMGID (s.readN (imgBase + 16) 4)
    let s := s.descs.foldl (fun s d => s.putDefaults d) s
    let s := s.jReplay.jKeep
    .next (s.stepsTo (s.regN R.SYS_STEPOK ||| 2 ^ Fn.DICT))

end Sys2Proof.Machine
end

