-- ==== Sys2Proof/Machine/OdeDigest.lean ====
section
/-! DEFINITION. The configuration digest (R467, R468) and the pull from a neighbour (R471). -/

namespace Sys2Proof.Machine

/-- The element record of an element (R467). -/
def netRecord (d : Desc) (e : Nat) (v : List Byte) : List Byte :=
  natBytes 1 d.area ++ natBytes 2 d.item ++ natBytes 2 (if d.array then e else 0xFFFF) ++ natBytes 1 d.typ ++
    natBytes 2 v.length ++ v

/-- The element records of some NET parameters, with the value of each element given. -/
def netRecords (val : Desc → Nat → List Byte) (ds : List Desc) : List (List Byte) :=
  ds.flatMap (fun d => (List.range d.elems).map (fun e => netRecord d e (val d e)))

/-- The NET parameters, and those of an area. -/
def State.netDescs (s : State) : List Desc := s.descs.filter (fun d => d.net)
def State.netArea (s : State) (area : Nat) : List Desc := s.netDescs.filter (fun d => d.area == area)

/-- The areas that hold a NET parameter. -/
def State.netAreas (s : State) : List Nat := (List.range 256).filter (fun a => s.netDescs.any (fun d => d.area == a))

/-- The area digest (R467). -/
def State.areaDigest (s : State) (area : Nat) : List Byte := sha384b (netRecords s.valueNow (s.netArea area)).flatten

/-- The configuration digest over a generation and values. -/
def State.digestOf (s : State) (gen : Nat) (val : Desc → Nat → List Byte) : List Byte :=
  sha384b (natBytes 4 gen ++ (netRecords val s.netDescs).flatten)

/-- The committed digest. -/
def State.digest (s : State) : List Byte := (List.range 12).flatMap (fun k => natBytes 4 (s.regN (R.ODE_DIG k)))

/-- Store digest and generation as one change, clear DIRTY, journal all three, raise EV199, extend MR4 (R468). -/
def State.commitTo (s : State) (gen : Nat) (dig : List Byte) : State :=
  let s := (List.range 12).foldl (fun s k => s.setRegN (R.ODE_DIG k) (bytesNat ((dig.drop (4 * k)).take 4))) s
  let s := (s.setRegN R.ODE_GEN gen).wb F.ODE_STAT_DIRTY false
  let s := (s.journal (s.ownVal 0 dig ++ s.ownVal 1 (natBytes 4 gen) ++ s.ownVal 3 [0])).raise 199
  s.extendMr 4 dig

/-- A new generation follows the present one (R468). -/
def State.genOk (s : State) (g : Nat) : Bool :=
  let d := (g + 2 ^ 32 - s.regN R.ODE_GEN) % 2 ^ 32
  decide (1 ≤ d ∧ d < 2 ^ 31)

/-- COMMIT with an argument: its status. -/
def State.commit (s : State) (g : Nat) : State × Nat :=
  if s.genOk g then (s.commitTo g (s.digestOf g s.valueNow), St.OK) else (s, St.RANGE)

/-! ## Pulls (R471) -/

/-- An element record taken apart: reference, type, value. -/
def takeRecord (l : List Byte) : Option ((Nat × Nat × List Byte) × List Byte) :=
  let n := bytesNat ((l.drop 6).take 2)
  if l.length < 8 + n then none
  else
    let ix := bytesNat ((l.drop 3).take 2)
    let ref := bytesNat (l.take 1) * 2 ^ 24 + bytesNat ((l.drop 1).take 2) * 2 ^ 12 + (if ix = 0xFFFF then 0xFFF else ix)
    some ((ref, bytesNat ((l.drop 5).take 1), (l.drop 8).take n), l.drop (8 + n))

/-- The element records of a list of bytes; none where one is cut short. -/
def takeRecords : Nat → List Byte → Option (List (Nat × Nat × List Byte))
  | 0, l => if l.isEmpty then some [] else none
  | n + 1, l =>
    if l.isEmpty then some []
    else
      match takeRecord l with
      | none => none
      | some (r, rest) => (takeRecords n rest).map (fun t => r :: t)

/-- The staged value of an element, or its present one. -/
def State.stagedVal (s : State) (l : List (Nat × Nat × List Byte)) (d : Desc) (e : Nat) : List Byte :=
  match l.find? (fun x => x.1 == d.ref e) with
  | some x => x.2.2
  | none => s.valueNow d e

/-- The parameters that the staged values name, ascending, with their elements. -/
def State.stagedParams (s : State) (l : List (Nat × Nat × List Byte)) : Entries :=
  s.netDescs.filterMap (fun d =>
    let es := (List.range d.elems).filterMap (fun e => (l.find? (fun x => x.1 == d.ref e)).map (fun x => (e, x.2.2)))
    if es.isEmpty then none else some (d.whole, d, es))

/-- One apply of a pull: registers and store, then the cores; the state check is waived. -/
def State.pullApply (s : State) (l : Entries) : State :=
  let t := s.applyAll l
  let s := if t.2.isSome then t.1 else t.1.journal (Entries.vals (l.filter (fun x => x.2.1.bind != 2)))
  (l.filter (fun x => x.2.1.bind == 2)).foldl (fun s x =>
    match s.fwWrite x.2.1 x.2.2 with
    | some r => if r.2 = St.OK then r.1.journal (x.2.2.map (fun v => (x.2.1, v.1, v.2))) else r.1
    | none => x.2.2.foldl (fun s v => s.fwPostQuiet x.2.1 (x.2.1.ref v.1) v.2) s) s

/-- The applies of a pull, of at most 32 parameters each. -/
def State.pullAll (s : State) : Nat → Entries → State
  | 0, _ => s
  | n + 1, l => if l.isEmpty then s else (s.pullApply (l.take 32)).pullAll n (l.drop 32)

/-- A pull ends (R471). -/
def State.pullEnd (s : State) (ok : Bool) (j : Nat) : State :=
  let s := s.setOde (fun o => { o with retry := if ok then none else some j })
  (s.bump (if ok then R.ODE_CNT_PULLOK else R.ODE_CNT_PULLFAIL)).raise 198

/-- The conditions of a pull that hold at its start: the policy, the device state, DIRTY clear, the network key. -/
def State.pullMay (s : State) (j : Nat) : Bool := s.mayPull (s.rf (F.ODE_NBR_INFO_LINK j)) && s.ready Fn.DICT

/-- The neighbour's digest, the areas whose prefixes differ and their records, staged and checked (R471, items 2 to 4). -/
def State.pull (s : State) (j : Nat) (p : PullIn) : State :=
  let key := s.snapshot 6 (s.paramN 0x30 0x014 0 1020) Usage.MAC
  let differ := (p.areas.filter (fun x => (s.areaDigest x.1.toNat).take 8 != x.2)).map (fun x => x.1.toNat)
  match takeRecords p.records.length p.records with
  | none => s.pullEnd false j
  | some l =>
    let l := l.filter (fun x => differ.contains (x.1 / 2 ^ 24))
    if !p.answered || key.isNone then s.pullEnd false j
    else if s.digestOf p.gen.toNat (s.stagedVal l) ≠ p.digest then (s.errSet R.ODE_ERR St.DIGEST).pullEnd false j
    else
      let s := s.pullAll l.length (s.stagedParams l)
      (s.commitTo p.gen.toNat p.digest).pullEnd true j

/-- DIGEST_PULL (R471): the random wait for the oldest NEWER report has passed. -/
def execDigestPull (p : PullIn) (s : State) : Host.Outcome State Fault Refusal :=
  match s.ode.pulls with
  | [] => .next s
  | j :: js =>
    if s.ode.req.isSome then .next s
    else
      let s := s.setOde (fun o => { o with pulls := js })
      if s.pullMay j then .next (s.pull j p) else .next s

/-- PULL_RETRY (R471): ODE_PULLBACK has passed since a pull failed. -/
def execPullRetry (p : PullIn) (s : State) : Host.Outcome State Fault Refusal :=
  match s.ode.retry with
  | none => .next s
  | some j =>
    if s.ode.req.isSome then .next s
    else
      let s := s.setOde (fun o => { o with retry := none })
      if s.pullMay j && s.rf (F.ODE_NBR_INFO_CLASS j) == 1 then .next (s.pull j p) else .next s

end Sys2Proof.Machine
end

