-- ==== Sys2Proof/Machine/OdeHdp.lean ====
section
/-! DEFINITION. The Haroz Dictionary Protocol (R452 to R457, R461): PDUs, tags, sessions, and the operations. -/

namespace Sys2Proof.Machine

/-! Operations (R453). -/
namespace Hdp
def OPEN : Nat := 0x01
def AUTH : Nat := 0x02
def CLOSE : Nat := 0x03
def PING : Nat := 0x04
def READ : Nat := 0x10
def WRITE : Nat := 0x11
def WRITE_MULTI : Nat := 0x12
def INVOKE : Nat := 0x13
def DESCRIBE : Nat := 0x14
def SUBSCRIBE : Nat := 0x20
def EVENT : Nat := 0x21
def EVENT_ACK : Nat := 0x22
def DIGEST : Nat := 0x30
def READ_NET : Nat := 0x31
end Hdp

/-- The operations that a request may name. -/
def hdpOps : List Nat := [Hdp.OPEN, Hdp.AUTH, Hdp.CLOSE, Hdp.PING, Hdp.READ, Hdp.WRITE, Hdp.WRITE_MULTI, Hdp.INVOKE,
  Hdp.DESCRIBE, Hdp.SUBSCRIBE, Hdp.EVENT_ACK, Hdp.DIGEST, Hdp.READ_NET]

/-! ## Sessions and tags (R455) -/

/-- A session by its SID. -/
def State.session (s : State) (sid : Nat) : Option Session := s.ode.sessions.find? (fun x => x.sid == sid)
/-- Change a session. -/
def State.setSession (s : State) (sid : Nat) (f : Session → Session) : State :=
  s.setSessions (fun l => l.map (fun x => if x.sid = sid then f x else x))
/-- End a session. -/
def State.endSession (s : State) (sid : Nat) : State := s.setSessions (fun l => l.filter (fun x => x.sid != sid))

/-- K of a key slot: LOADED, TYPE AES-256, USAGE MAC, page 6 in PAGEMASK (R455). -/
def State.hdpKey (s : State) (slot : Nat) : Option (List Byte) :=
  match s.snapshot 6 slot Usage.MAC with
  | some k => if k.typ = 1 then some k.key else none
  | none => none

/-- CMAC over bytes. -/
def macOf (key l : List Byte) : List Byte := toBytes (Aes.cmac (nats key) (nats l))

/-- The tag of a PDU of a session: direction 0 toward the device, 1 from it. -/
def Session.tag (x : Session) (key : List Byte) (dir : Nat) (pdu : List Byte) : List Byte :=
  macOf key ([BitVec.ofNat 8 x.sid, BitVec.ofNat 8 dir] ++ x.nc ++ x.nd ++ pdu)

/-- The header of a PDU of the device (R452); `flags` is its byte 0. -/
def hdpHead (flags op sid rtag seq len status detail : Nat) : List Byte :=
  [BitVec.ofNat 8 flags, BitVec.ofNat 8 op, BitVec.ofNat 8 sid, BitVec.ofNat 8 rtag] ++ natBytes 4 seq ++ natBytes 2 len ++
    [BitVec.ofNat 8 status, BitVec.ofNat 8 detail]

/-! ## Responses -/

/-- The counters and the event of an outcome (R451, R472, R473). -/
def State.noteStatus (s : State) (st : Nat) : State :=
  if st = St.STATE then (s.bump R.ODE_CNT_STATE).raise 193
  else if st = St.NOTREADY then s.raise 193
  else if st = St.RIGHTS then s.bump R.ODE_CNT_RIGHTS
  else s

/-- The request is done with. -/
def State.reqDone (s : State) : State := (s.setOde (fun o => { o with req := none })).odeKeep

/-- A PDU of a session leaves with the next SEQ and, on an authenticated session, its tag; none where its key is no longer
usable. -/
def State.sessionPdu (s : State) (x : Session) (flags op rtag status detail : Nat) (payload : List Byte) :
    Option (List Byte) :=
  let body := hdpHead (flags + (if x.auth then 2 else 0)) op x.sid rtag (x.seqOut + 1) payload.length status detail ++ payload
  if x.auth then (s.hdpKey x.slot).map (fun k => body ++ x.tag k 1 body) else some body

/-- The response to a request of an open session: it is stored for a repeated SEQ (R456). -/
def State.reply (s : State) (r : OdeReq) (status detail : Nat) (payload : List Byte) : State :=
  let s := ((s.bump R.ODE_CNT_REQ).noteStatus status).reqDone
  match s.session r.sid with
  | none => s
  | some x =>
    match s.sessionPdu x 0x18 r.op r.rtag status detail payload with
    | none => s
    | some pdu => (s.setSession r.sid (fun y => { y with seqOut := y.seqOut + 1, last := pdu })).pduOut r.src pdu

/-- A response before a session is open: to OPEN and AUTH. It carries no tag (R455: every PDU after that does; DEDUCED), and
its SEQ, which is not given, is a free value. -/
def State.replyPlain (s : State) (r : OdeReq) (sid status : Nat) (payload : List Byte) : State :=
  (((s.used.bump R.ODE_CNT_REQ).noteStatus status).reqDone).pduOut r.src
    (hdpHead 0x18 r.op sid r.rtag s.free payload.length status 0 ++ payload)

/-- The answer to a malformed PDU of an open session (R452): TYPE. It was no request: it is neither accepted nor stored.
DEDUCED. -/
def State.replyBad (s : State) (x : Session) (r : OdeReq) : State :=
  let s := (s.bump R.ODE_CNT_REQ).noteStatus St.TYPE
  match s.sessionPdu x 0x18 r.op r.rtag St.TYPE 0 [] with
  | none => s
  | some pdu => (s.setSession x.sid (fun y => { y with seqOut := y.seqOut + 1 })).pduOut r.src pdu

/-- A response without a payload. -/
def State.replySt (s : State) (r : OdeReq) (status : Nat) : State := s.reply r status 0 []

/-! ## Taking a PDU (R448, R452, R456) -/

/-- A tag or an AUTH failed (R456). -/
def State.tagFail (s : State) : State := (s.bump R.ODE_CNT_AUTH).raise 194

/-- The request that a PDU spells; `tag` bytes at its end are its tag. -/
def reqOf (src : Nat) (l : List Byte) (tag : Nat) : OdeReq where
  src := src
  op := bytesNat ((l.drop 1).take 1)
  flags := bytesNat (l.take 1)
  sid := bytesNat ((l.drop 2).take 1)
  rtag := bytesNat ((l.drop 3).take 1)
  seq := bytesNat ((l.drop 4).take 4)
  payload := (l.drop 12).take (l.length - 12 - tag)
  todo := []
  acc := []
  waits := none

/-- OPEN and AUTH: a tag stands where AUTHT is set (R452), and there is no key to check it with. -/
def firstReq (src : Nat) (l : List Byte) : OdeReq := reqOf src l (if bytesNat (l.take 1) / 2 % 2 = 1 then 16 else 0)

/-- The format of a request: version 1, no reserved bit, LEN as long as the payload, a known operation, at most 1,400
bytes (R452, R453). -/
def formatOk (l : List Byte) (r : OdeReq) : Bool :=
  r.flags / 16 == 1 && r.flags % 2 == 0 && r.flags / 4 % 2 == 0 && r.flags / 8 % 2 == 0 &&
    bytesNat ((l.drop 8).take 2) == r.payload.length && decide (l.length ≤ 1400)

/-- A request is refused before it is read: its address is locked (R456), or the dictionary, or the dictionary over UDP, is
not ready (R36). -/
def State.turnedAway (s : State) (src : Nat) : Option Nat :=
  if s.ode.locked.contains src then some St.AUTH
  else if !s.ready Fn.DICT || (decide (3 ≤ src) && !s.ready Fn.DICTUDP) then some St.NOTREADY
  else none

/-- Accept a request for its operation. -/
def State.reqStart (s : State) (r : OdeReq) : State := (s.setOde (fun o => { o with req := some r })).odeKeep

/-- OPEN, whose SID is 0 (R452), and AUTH of a session that is not open yet. -/
def State.takeFirst (s : State) (l : List Byte) (r : OdeReq) : State :=
  if r.op = Hdp.OPEN ∧ r.sid ≠ 0 then s
  else if !formatOk l r then s.replyPlain r r.sid St.TYPE []
  else
    match s.turnedAway r.src with
    | some st => s.replyPlain r r.sid st []
    | none => s.reqStart r

/-- A request of an open session whose tag checks. -/
def State.takeOpen (s : State) (x : Session) (l : List Byte) (r : OdeReq) : State :=
  if !formatOk l r then s.replyBad x r
  else if r.seq = x.seqIn ∧ x.seqIn ≠ 0 then s.pduOut r.src x.last
  else if r.seq ≤ x.seqIn then (s.bump R.ODE_CNT_REPLAY).raise 194
  else
    let s := s.setSession x.sid (fun y => { y with seqIn := r.seq })
    match s.turnedAway r.src with
    | some st => s.replySt r st
    | none =>
      if !hdpOps.contains r.op || (r.flags / 2 % 2 == 1) != x.auth then s.replySt r St.TYPE else s.reqStart r

/-- Take a PDU from a transport address. -/
def State.pduTake (s : State) (src : Nat) (l : List Byte) : State :=
  let r := reqOf src l 0
  if l.length < 12 then s
  else if r.op = Hdp.OPEN then s.takeFirst l (firstReq src l)
  else
    match s.session r.sid with
    | none => s
    | some x =>
      if x.src ≠ src then s
      else if !x.up then (if r.op = Hdp.AUTH then s.takeFirst l (firstReq src l) else s)
      else if !x.auth then s.takeOpen x l r
      else
        match s.hdpKey x.slot with
        | none => s.tagFail
        | some k =>
          let body := l.take (l.length - 16)
          if r.flags / 2 % 2 = 1 ∧ 28 ≤ l.length ∧ l.drop (l.length - 16) = x.tag k 0 body then s.takeOpen x l (reqOf src l 16)
          else s.tagFail

/-- HDP_PDU_RECEIVE (R448, R452): the oldest PDU that waits is taken; held values come first (R465). -/
def execHdpPduReceive (s : State) : Host.Outcome State Fault Refusal :=
  if s.ode.req.isSome || !s.rb F.ODE_CTRL_EN then .next s
  else
    match s.ode.rxq with
    | [] => .next s
    | x :: xs =>
      let s := (s.setOde (fun o => { o with rxq := xs })).heldApply
      .next ((s.pduTake x.1 x.2).odeKeep)

/-- Run an operation on the request that was taken, unless it waits for a core. -/
def State.withReq (s : State) (op : Nat) (f : State → OdeReq → State) : State :=
  match s.ode.req with
  | some r => if r.op = op ∧ r.waits.isNone then f s r else s
  | none => s

/-- The class of a request's session. -/
def State.clsOf (s : State) (r : OdeReq) : Nat := ((s.session r.sid).map (fun x => x.cls)).getD 0

/-! ## OPEN, AUTH, CLOSE, PING -/

/-- An unused SID: which one is not given, a free value. -/
def State.newSid (s : State) : Nat :=
  (((List.range 255).map (fun k => (s.free + k) % 255 + 1)).find? (fun n => (s.session n).isNone)).getD 0

/-- The key slot of a session's class, or of the network (R455). -/
def State.slotOfClass (s : State) (cls : Nat) (net : Bool) : Nat :=
  if net then s.paramN 0x30 0x014 0 1020 else s.paramN 0x30 (0x010 + cls) 0 (1016 + cls)

/-- The cases in which a session opens without authentication (R457). -/
def State.openFree (s : State) (src cls : Nat) (net : Bool) : Bool :=
  !net && ((cls == 0 && (s.paramN 0x30 0x020 0 0 == 1 || s.dev == Dev.ALARM)) ||
    (cls == 2 && src == 0 && (s.paramN 0x30 0x021 0 1 == 1 || s.dev == Dev.ALARM)))

/-- Add a session and answer with its SID, the device nonce and the largest PDU. -/
def State.openSession (s : State) (r : OdeReq) (cls slot : Nat) (net auth : Bool) : State :=
  let sid := s.newSid
  let t := s.used.draw 16
  let x : Session := ⟨sid, cls, r.src, net, auth, !auth, slot, r.payload.drop 1, t.2, 0, 0, [], 0, [], none⟩
  (t.1.setSessions (fun l => l ++ [x])).replyPlain r sid St.OK (t.2 ++ natBytes 2 1400)

/-- OPEN. AUTHT in its header asks for an authenticated session. -/
def State.hdpOpen (s : State) (r : OdeReq) : State :=
  let b := bytesNat (r.payload.take 1)
  let cls := b % 4
  let net := decide (128 ≤ b)
  let auth := r.flags / 2 % 2 == 1
  let slot := s.slotOfClass cls net
  let no (st : Nat) : State := s.replyPlain r 0 st []
  if r.payload.length ≠ 17 ∨ b / 4 % 32 ≠ 0 then no St.TYPE
  else if net ∧ cls ≠ 0 then no St.RIGHTS
  else if 16 ≤ s.ode.sessions.length then no St.BUSY
  else if auth then (if (s.hdpKey slot).isNone then no St.NOKEY else s.openSession r cls slot net true)
  else if s.openFree r.src cls net then s.openSession r cls slot net false
  else no St.AUTH

/-- HDP_OPEN (R455, R457). -/
def execHdpOpen (s : State) : Host.Outcome State Fault Refusal := .next (s.withReq Hdp.OPEN State.hdpOpen)

/-- The text of a proof. -/
def proofText (a b c d : Nat) : List Byte := [BitVec.ofNat 8 a, BitVec.ofNat 8 b, BitVec.ofNat 8 c, BitVec.ofNat 8 d]

/-- An AUTH failed: the session is dropped; the fifth failure in a row locks the address (R456). -/
def State.authFail (s : State) (r : OdeReq) : State :=
  let n := Sparse.getN s.ode.fails r.src + 1
  let s := s.setOde (fun o => { o with
    fails := Sparse.putN o.fails r.src (if n < 5 then n else 0)
    locked := if n < 5 then o.locked else o.locked ++ [r.src] })
  ((s.tagFail).endSession r.sid).replyPlain r r.sid St.AUTH []

/-- AUTH: the client's proof is "HDPc", the device's "HDPd". On a session that is open it is refused with STATE. DEDUCED. -/
def State.hdpAuth (s : State) (r : OdeReq) : State :=
  match s.session r.sid with
  | none => s.reqDone
  | some x =>
    let cls := BitVec.ofNat 8 (if x.net then 128 else x.cls)
    let sid := BitVec.ofNat 8 x.sid
    if x.up then s.replySt r St.STATE
    else if r.payload.length ≠ 16 then s.replyPlain r x.sid St.TYPE []
    else
      match s.hdpKey x.slot with
      | none => s.authFail r
      | some k =>
        if r.payload = macOf k (proofText 0x48 0x44 0x50 0x63 ++ [cls, sid] ++ x.nc ++ x.nd) then
          let s := s.setOde (fun o => { o with fails := Sparse.putN o.fails r.src 0 })
          (s.replyPlain r x.sid St.OK (macOf k (proofText 0x48 0x44 0x50 0x64 ++ [cls, sid] ++ x.nd ++ x.nc))).setSession x.sid
            (fun y => { y with up := true })
        else s.authFail r

/-- HDP_AUTH (R455, R456). -/
def execHdpAuth (s : State) : Host.Outcome State Fault Refusal := .next (s.withReq Hdp.AUTH State.hdpAuth)

/-- A request without a payload, or TYPE. -/
def State.bare (s : State) (r : OdeReq) (f : State → State) : State :=
  if r.payload.isEmpty then f s else s.replySt r St.TYPE

/-- HDP_CLOSE (R453): the response leaves before the session ends. -/
def execHdpClose (s : State) : Host.Outcome State Fault Refusal :=
  .next (s.withReq Hdp.CLOSE (fun s r => s.bare r (fun s => (s.replySt r St.OK).endSession r.sid)))

/-- HDP_PING (R453). -/
def execHdpPing (s : State) : Host.Outcome State Fault Refusal :=
  .next (s.withReq Hdp.PING (fun s r => s.bare r (fun s => s.replySt r St.OK)))

/-! ## READ (R453) -/

/-- An entry of a READ response. -/
def readEntry (status typ : Nat) (v : List Byte) : List Byte :=
  [BitVec.ofNat 8 status, BitVec.ofNat 8 typ] ++ natBytes 2 v.length ++ v

/-- References, four bytes each. -/
def refsOf : List Byte → List Nat
  | a :: b :: c :: d :: l => bytesNat [a, b, c, d] :: refsOf l
  | _ => []

/-- The type code of the parameter that a reference names. -/
def State.typOf (s : State) (ref : Nat) : Nat :=
  match s.refCheck ref with
  | .ok (d, _) => d.typ
  | .error _ => 0

/-- Answer references one after another; an access that a core must answer suspends the request. -/
def State.readRefs (s : State) (r : OdeReq) (acc : List Byte) : List Nat → State
  | [] => if 1372 < acc.length then s.replySt r St.RANGE else s.reply r St.OK 0 acc
  | ref :: refs =>
    match s.accessCheck Acc.READ (s.clsOf r) ref 0 [] with
    | .error st => (s.noteStatus st).readRefs r (acc ++ readEntry st 0 []) refs
    | .ok (d, l) =>
      let t := s.readParam d ref (l.map (fun x => x.1))
      match t.2 with
      | .val v => t.1.readRefs r (acc ++ readEntry St.OK d.typ v) refs
      | .err st => t.1.readRefs r (acc ++ readEntry st 0 []) refs
      | .wait n => t.1.reqStart { r with todo := refs, acc := acc, waits := some n }

/-- READ. -/
def State.hdpRead (s : State) (r : OdeReq) : State :=
  let n := bytesNat (r.payload.take 1)
  if r.payload.length ≠ 1 + 4 * n then s.replySt r St.TYPE else s.readRefs r [] (refsOf r.payload.tail)

/-- HDP_READ (R453). -/
def execHdpRead (s : State) : Host.Outcome State Fault Refusal := .next (s.withReq Hdp.READ State.hdpRead)

/-! ## WRITE, WRITE_MULTI, INVOKE -/

/-- REF, type and value, with the bytes behind them. -/
def takeWrite (l : List Byte) : Option ((Nat × Nat × List Byte) × List Byte) :=
  let n := bytesNat ((l.drop 5).take 2)
  if l.length < 7 + n then none
  else some ((bytesNat (l.take 4), bytesNat ((l.drop 4).take 1), (l.drop 7).take n), l.drop (7 + n))

/-- `n` of them that fill a list of bytes. -/
def takeWrites : Nat → List Byte → Option (List (Nat × Nat × List Byte))
  | 0, l => if l.isEmpty then some [] else none
  | n + 1, l =>
    match takeWrite l with
    | none => none
    | some (x, rest) => (takeWrites n rest).map (fun t => x :: t)

/-- Suspend a request on a firmware-bound access; a value longer than the value buffer is out of its range. -/
def State.postReq (s : State) (r : OdeReq) (d : Desc) (kind ref typ : Nat) (v : List Byte) : State :=
  if 1024 < v.length then s.replySt r St.RANGE
  else
    let p := s.fwPost d kind ref typ v
    p.1.reqStart { r with waits := some p.2 }

/-- The values of one parameter. -/
def entryVals (d : Desc) (l : List (Nat × List Byte)) : List (Desc × Nat × List Byte) := l.map (fun v => (d, v.1, v.2))

/-- A checked write of one parameter. -/
def State.writeParam (s : State) (r : OdeReq) (d : Desc) (ref typ : Nat) (v : List Byte) (l : List (Nat × List Byte)) :
    State :=
  if d.bind = 2 then
    match s.fwWrite d l with
    | none => s.postReq r d Acc.WRITE ref typ v
    | some t => if t.2 = St.OK then (t.1.wrote (entryVals d l)).replySt r St.OK else t.1.replySt r t.2
  else
    let t := s.applyAll [(0, d, l)]
    match t.2 with
    | some (k, st) => t.1.reply r st k []
    | none => (t.1.wrote (entryVals d l)).replySt r St.OK

/-- WRITE. -/
def State.hdpWrite (s : State) (r : OdeReq) : State :=
  match takeWrites 1 r.payload with
  | some [(ref, typ, v)] =>
    match s.accessCheck Acc.WRITE (s.clsOf r) ref typ v with
    | .error st => s.replySt r st
    | .ok (d, l) => s.writeParam r d ref typ v l
  | _ => s.replySt r St.TYPE

/-- HDP_WRITE (R447). -/
def execHdpWrite (s : State) : Host.Outcome State Fault Refusal := .next (s.withReq Hdp.WRITE State.hdpWrite)

/-- The anchor's two parameters, which one WRITE_MULTI must carry together (R481); it may, although they are
firmware-bound. DEDUCED. -/
def Desc.isAnchor (d : Desc) : Bool := d.num == 0x08030 || d.num == 0x08031

/-- The checks of all entries, or the first that fails with its index (R454). -/
def State.checkMulti (s : State) (cls k : Nat) : List (Nat × Nat × List Byte) → Except (Nat × Nat) Entries
  | [] => .ok []
  | (ref, typ, v) :: xs =>
    match s.accessCheck Acc.WRITE cls ref typ v with
    | .error st => .error (k, st)
    | .ok (d, l) =>
      if d.bind = 2 ∧ !d.isAnchor then .error (k, St.TYPE)
      else
        match s.checkMulti cls (k + 1) xs with
        | .error e => .error e
        | .ok t => .ok ((k, d, l) :: t)

/-- ANCHOR_WRITE (R481): both halves together set the anchor's age. -/
def State.anchorWrite (s : State) (l : Entries) : State :=
  let a := l.filter (fun x => x.2.1.isAnchor)
  let s := a.foldl (fun s x => x.2.2.foldl (fun s v => s.setFwVal x.2.1 v.1 v.2) s) s
  if a.any (fun x => x.2.1.num == 0x08030) && a.any (fun x => x.2.1.num == 0x08031) then
    s.setOde (fun o => { o with anchorAt := some s.gt })
  else s

/-- The first persisted entry of a list that would overflow the journal's buffer, when the entries do so together. -/
def State.multiBusy (s : State) (l : Entries) : Bool :=
  let p := (Entries.vals l).filter (fun x => x.1.persist)
  !p.isEmpty && decide (16384 < s.rf F.ODE_JSTAT_WAIT + (p.map (fun x => valSize x.2.2.length)).sum + valSize 1 + recSize 1)

/-- WRITE_MULTI. -/
def State.hdpWriteMulti (s : State) (r : OdeReq) : State :=
  let n := bytesNat (r.payload.take 1)
  match takeWrites n r.payload.tail with
  | none => s.replySt r St.TYPE
  | some ws =>
    if n < 1 ∨ 32 < n then s.replySt r St.TYPE
    else
      match s.checkMulti (s.clsOf r) 0 ws with
      | .error (k, st) => s.reply r st k []
      | .ok l =>
        if s.multiBusy l then s.replySt r St.BUSY
        else
          let t := s.applyAll l
          match t.2 with
          | some (k, st) => t.1.reply r st k []
          | none => ((t.1.anchorWrite l).wrote (Entries.vals l)).replySt r St.OK

/-- HDP_WRITE_MULTI (R454). -/
def execHdpWriteMulti (s : State) : Host.Outcome State Fault Refusal :=
  .next (s.withReq Hdp.WRITE_MULTI State.hdpWriteMulti)

/-- The response of an INVOKE. -/
def State.replyInvoke (s : State) (r : OdeReq) (typ : Nat) (v : List Byte) : State :=
  s.reply r St.OK 0 (natBytes 1 typ ++ natBytes 2 v.length ++ v)

/-- INVOKE: a register-bound command writes its argument; 28.032, whose argument is 0, sets bit 0 of QMG_POOLAPPLY. DEDUCED. -/
def State.hdpInvoke (s : State) (r : OdeReq) : State :=
  match takeWrites 1 r.payload with
  | some [(ref, typ, v)] =>
    match s.accessCheck Acc.INVOKE (s.clsOf r) ref typ v with
    | .error st => s.replySt r st
    | .ok (d, l) =>
      if d.bind = 2 then s.postReq r d Acc.INVOKE ref typ v
      else
        let l := if d.num = 0x28032 then l.map (fun x => (x.1, [1])) else l
        let t := s.applyAll [(0, d, l)]
        match t.2 with
        | some (k, st) => t.1.reply r st k []
        | none => t.1.replyInvoke r d.typ []
  | _ => s.replySt r St.TYPE

/-- HDP_INVOKE (R453). -/
def execHdpInvoke (s : State) : Host.Outcome State Fault Refusal := .next (s.withReq Hdp.INVOKE State.hdpInvoke)

/-! ## DESCRIBE, SUBSCRIBE, EVENT_ACK -/

/-- The address of a parameter's descriptor. -/
def State.descAddr (s : State) (area item : Nat) : Option Nat :=
  ((List.range (s.rf F.ODE_NPARAM_N)).find? (fun k => (s.descAt k).area == area && (s.descAt k).item == item)).map
    (fun k => imgDesc + 16 * k)

/-- DESCRIBE: the range entry's bytes, or zeros where there is none. -/
def State.hdpDescribe (s : State) (r : OdeReq) : State :=
  let ref := bytesNat r.payload
  if r.payload.length ≠ 4 then s.replySt r St.TYPE
  else
    match s.refCheck ref with
    | .error st => s.replySt r st
    | .ok (d, _) =>
      let range := if d.ridx = 0xFFFF then List.replicate 24 0 else s.bytes (imgRange + 24 * d.ridx) 24
      match s.descAddr d.area d.item with
      | none => s.replySt r St.ABSENT
      | some a => s.reply r St.OK 0 (s.bytes a 16 ++ range)

/-- HDP_DESCRIBE (R453). -/
def execHdpDescribe (s : State) : Host.Outcome State Fault Refusal := .next (s.withReq Hdp.DESCRIBE State.hdpDescribe)

/-- SUBSCRIBE: while SUBEN is clear it completes with STATE (R461). -/
def State.hdpSubscribe (s : State) (r : OdeReq) : State :=
  if r.payload.length ≠ 32 then s.replySt r St.TYPE
  else if !s.rb F.EVR_SUBSTAT_SUBEN then s.replySt r St.STATE
  else (s.setSession r.sid (fun x => { x with mask := bytesNat r.payload })).replySt r St.OK

/-- HDP_SUBSCRIBE (R461). -/
def execHdpSubscribe (s : State) : Host.Outcome State Fault Refusal := .next (s.withReq Hdp.SUBSCRIBE State.hdpSubscribe)

/-- EVENT_ACK: the SEQ of the outstanding EVENT ends it; another SEQ has no effect. -/
def State.hdpEventAck (s : State) (r : OdeReq) : State :=
  if r.payload.length ≠ 4 then s.replySt r St.TYPE
  else
    (s.setSession r.sid (fun x =>
      match x.sent with
      | some e => if e.seq = bytesNat r.payload then { x with sent := none } else x
      | none => x)).replySt r St.OK

/-- HDP_EVENT_ACK (R462). -/
def execHdpEventAck (s : State) : Host.Outcome State Fault Refusal := .next (s.withReq Hdp.EVENT_ACK State.hdpEventAck)

/-! ## DIGEST and READ_NET (R453, R467) -/

/-- HDP_DIGEST (R453). -/
def execHdpDigest (s : State) : Host.Outcome State Fault Refusal :=
  .next (s.withReq Hdp.DIGEST (fun s r => s.bare r (fun s =>
    let areas := s.netAreas
    s.reply r St.OK 0 (natBytes 4 (s.regN R.ODE_GEN) ++ s.digest ++ natBytes 1 (if s.rb F.ODE_STAT_DIRTY then 1 else 0) ++
      natBytes 1 areas.length ++ areas.flatMap (fun a => natBytes 1 a ++ (s.areaDigest a).take 8)))))

/-- As many whole records as fit in `room` bytes, and how many they are. -/
def fitRecords : Nat → List (List Byte) → List Byte × Nat
  | _, [] => ([], 0)
  | room, x :: xs =>
    if room < x.length then ([], 0)
    else
      let t := fitRecords (room - x.length) xs
      (x ++ t.1, t.2 + 1)

/-- READ_NET: the cursor counts the area's element records. DESIGN CHOICE. -/
def State.hdpReadNet (s : State) (r : OdeReq) : State :=
  let cur := bytesNat (r.payload.drop 1)
  if r.payload.length ≠ 3 then s.replySt r St.TYPE
  else
    let recs := netRecords s.valueNow (s.netArea (bytesNat (r.payload.take 1)))
    let f := fitRecords 1370 (recs.drop cur)
    let next := if recs.length ≤ cur + f.2 then 0xFFFF else cur + f.2
    s.reply r St.OK 0 (natBytes 2 next ++ f.1)

/-- HDP_READ_NET (R467). -/
def execHdpReadNet (s : State) : Host.Outcome State Fault Refusal := .next (s.withReq Hdp.READ_NET State.hdpReadNet)

/-! ## Answers of the cores (R448) -/

/-- The number that a request waits for. -/
def State.waiter (s : State) (num : Nat) : Option OdeReq :=
  match s.ode.req with
  | some r => if r.waits = some num then some r else none
  | none => none

/-- What an accepted write of a firmware-bound parameter leaves. -/
def State.fwTook (s : State) (q : FwReq) (net : Bool) : State :=
  match s.checkValue Acc.WRITE q.ref q.typ q.value with
  | .error _ => s
  | .ok (d, l) =>
    let s := l.foldl (fun s v => s.setFwVal d v.1 v.2) s
    if net then s.wrote (entryVals d l) else s.journal (entryVals d l)

/-- A firmware-bound access completes with a status and a value: the request that waits for it goes on. -/
def State.fwDone (s : State) (q : FwReq) (status : Nat) (v : List Byte) : State :=
  let s := s.fwDrop q.num
  match s.waiter q.num with
  | none => if status = St.OK ∧ q.kind = Acc.WRITE then s.fwTook q false else s
  | some r =>
    let r := { r with waits := none }
    if q.kind = Acc.READ then
      let e := if status = St.OK then readEntry St.OK q.typ v else readEntry status 0 []
      (s.noteStatus status).readRefs r (r.acc ++ e) r.todo
    else if status ≠ St.OK then s.replySt r status
    else if q.kind = Acc.WRITE then (s.fwTook q true).replySt r St.OK
    else s.replyInvoke r q.typ v

end Sys2Proof.Machine
end

