-- ==== Sys2Proof/Machine/OdeIo.lean ====
section
/-! DEFINITION. The ODE's transports over the mailbox and the SPI target port, the queues to the cores, the session timers, and
the event queues (R448, R456 to R462, R473). -/

namespace Sys2Proof.Machine

/-! ## Mailbox (R458, R473) -/

/-- A push of a PDU: its length and its place in shared real-time memory; taken while UDP is served. -/
def State.mbxPush (v : Word) (s : State) : State :=
  let n := bits v 10 0
  let a := s.regN R.ODE_MBXIN_ADDR
  if n < 12 ∨ 1400 < n ∨ !inShared a n then s.refuse R.ODE_ERR St.RANGE 192
  else if s.eccBad a n then (s.eccRead Ini.ODE a n).refuse R.ODE_ERR St.CHECK 192
  else if !s.rb F.ODE_CTRL_UDP then s
  else (s.eccRead Ini.ODE a n).pduIn (3 + bits v 31 16) (s.bytes a n)

/-- MBXIN_PUSH (R458). -/
def execMbxinPush (i : Init) (v : Word) (s : State) : Host.Outcome State Fault Refusal :=
  .next (s.onWrite i R.ODE_MBXIN_PUSH (State.mbxPush v))

/-- A read of ODE_MBXOUT: the oldest reply goes to a buffer of the work area. -/
def State.mbxPop (i : Init) (s : State) : State :=
  match s.ode.mbxOut with
  | [] => s.answer i 0
  | (src, l) :: rest =>
    let a := 0x11370000 + 1024 * (Config.mbxBuf s.freeCtr % 62)
    let s := (s.used.setOde (fun o => { o with mbxOut := rest })).store Ini.ODE a l
    (s.setRegN R.ODE_MBXOUT_ADDR a).answer i (BitVec.ofNat 32 (2 ^ 31 + src % 2 ^ 15 * 2 ^ 16 + l.length))

/-- MBXOUT_POP (R458). -/
def execMbxoutPop (i : Init) (s : State) : Host.Outcome State Fault Refusal :=
  .next (s.onRead i R.ODE_MBXOUT (State.mbxPop i))

/-! ## SPI target port (R460) -/

/-- The port serves HDP. -/
def State.spiOn (s : State) : Bool := s.rb F.ODE_CTRL_EN && s.rb F.ODE_CTRL_SPI && s.rb F.ODE_SPICFG_EN

/-- SPI_PDU_WRITE (R460): length, PDU, CRC-32C over both; a failed CRC discards the PDU whole. -/
def execSpiPduWrite (len : BitVec 16) (pdu : List (BitVec 8)) (crc : BitVec 32) (s : State) :
    Host.Outcome State Fault Refusal :=
  if !s.spiOn then .next s
  else if crc.toNat ≠ crc32c (natBytes 2 len.toNat ++ pdu) ∨ len.toNat ≠ pdu.length then
    .next ((s.bump R.ODE_CNT_SPICRC).raise 205)
  else .next (s.pduIn 0 pdu)

/-- A PDU in the form of the SPI target port. -/
def spiForm (l : List Byte) : List Byte :=
  let b := natBytes 2 l.length ++ l
  b ++ natBytes 4 (crc32c b)

/-- SPI_PDU_READ (R460): the next pending PDU, or length 0. -/
def execSpiPduRead (s : State) : Host.Outcome State Fault Refusal :=
  if !s.spiOn then .next s
  else
    match s.ode.spiOut with
    | [] => .next (s.emit (.spi (spiForm [])))
    | l :: ls => .next ((s.setOde (fun o => { o with spiOut := ls })).emit (.spi (spiForm l)))

/-- SPI_STATUS_READ (R460): bit 0 a PDU is pending, bit 1 the input is busy, while a PDU of the port waits to be taken. -/
def execSpiStatusRead (s : State) : Host.Outcome State Fault Refusal :=
  if !s.spiOn then .next s
  else
    let b := (if s.ode.spiOut.isEmpty then 0 else 1) + (if s.ode.rxq.any (fun x => x.1 == 0) then 2 else 0)
    .next (s.emit (.spi (natBytes 1 b)))

/-! ## The queues to the cores (R448, R473) -/

/-- The value buffer of a firmware-bound access. -/
def fwBufAt (num : Nat) : Nat := 0x11370000 + 1024 * (Config.fwBuf num % 64)

/-- A read of ODE_FWREQ_c. -/
def State.fwPop (c : Nat) (i : Init) (s : State) : State :=
  match s.ode.fwq.find? (fun r => r.core == c && !r.taken) with
  | none => s.answer i 0
  | some r =>
    let s := s.setOde (fun o => { o with fwq := o.fwq.map (fun x => if x.num = r.num then { x with taken := true } else x) })
    let s := ((s.setRegN R.ODE_FWREF r.ref).setRegN R.ODE_FWBUF (fwBufAt r.num)).setRegN R.ODE_FWLEN r.value.length
    (s.store Ini.ODE (fwBufAt r.num) r.value).answer i (BitVec.ofNat 32 (2 ^ 31 + r.kind * 2 ^ 28 + r.num * 2 ^ 16 + r.handler))

/-- FW_REQUEST_POP (R473). -/
def execFwRequestPop (i : Init) (c : Fin 6) (s : State) : Host.Outcome State Fault Refusal :=
  .next (s.onRead i (R.ODE_FWREQ c.val) (State.fwPop c.val i))

/-- A write to ODE_FWRES_c: an answer that no access waits for is discarded and counted. -/
def State.fwAnswer (c : Nat) (v : Word) (s : State) : State :=
  if bits v 31 28 ≠ 0 then s.refuse R.ODE_ERR St.RANGE 192
  else
    match s.ode.fwq.find? (fun r => r.core == c && r.taken && r.num == bits v 27 16) with
    | none => s.bump R.ODE_CNT_FWLATE
    | some r =>
      let n := min (s.rf F.ODE_FWLEN_LEN) 1024
      (s.eccRead Ini.ODE (fwBufAt r.num) n).fwDone r (bits v 7 0) (if r.kind = Acc.WRITE then [] else s.bytes (fwBufAt r.num) n)

/-- FW_ANSWER (R448). -/
def execFwAnswer (i : Init) (c : Fin 6) (v : Word) (s : State) : Host.Outcome State Fault Refusal :=
  .next (s.onWrite i (R.ODE_FWRES c.val) (State.fwAnswer c.val v))

/-- FW_TIMEOUT (R448): the access posted first completes with HW. -/
def execFwTimeout (s : State) : Host.Outcome State Fault Refusal :=
  match s.ode.fwq with
  | [] => .next s
  | r :: _ => .next ((s.raise 206).fwDone r St.HW [])

/-! ## Timers of sessions and addresses (R456, R457) -/

/-- SESSION_TIMEOUT (R457): not while a request of the session is carried out. -/
def execSessionTimeout (sid : Fin 256) (s : State) : Host.Outcome State Fault Refusal :=
  if s.ode.req.any (fun r => r.sid == sid.val) then .next s else .next (s.endSession sid.val)

/-- AUTH_LOCKOUT_END (R456): of the address locked first. -/
def execAuthLockoutEnd (s : State) : Host.Outcome State Fault Refusal :=
  .next (s.setOde (fun o => { o with locked := o.locked.drop 1 }))

/-! ## Events (R461, R462) -/

/-- Records of a session are lost. -/
def State.evLost (s : State) (n : Nat) : State := (s.bumpBy R.ODE_CNT_EVLOST n).raise 202

/-- A record goes to the queues of the sessions that subscribe it; a full queue of 64 drops it. -/
def State.evDeliver (s : State) (r : EvRec) : List Session → State
  | [] => s
  | x :: xs =>
    let s :=
      if x.mask / 2 ^ r.event % 2 = 0 then s
      else if 64 ≤ x.evq.length then s.evLost 1
      else s.setSession x.sid (fun y => { y with evq := y.evq ++ [r] })
    s.evDeliver r xs

/-- SUBSCRIPTION_DELIVER (R461): while SUBEN is set, the oldest FIFO entry. -/
def execSubscriptionDeliver (s : State) : Host.Outcome State Fault Refusal :=
  if !s.rb F.EVR_SUBSTAT_SUBEN then .next s
  else
    match s.evr.fifo with
    | [] => .next s
    | e :: es =>
      let s := { s with evr := { s.evr with fifo := es } }
      .next (s.evDeliver ⟨e.event, e.count, e.stamp⟩ s.ode.sessions)

/-- An event record (R461). -/
def evBytes (r : EvRec) : List Byte := natBytes 1 r.event ++ natBytes 1 r.count ++ natBytes 2 0 ++ natBytes 8 r.stamp.toNat

/-- Send an EVENT with a SEQ, when the session's key is usable. -/
def State.evPdu (s : State) (x : Session) (seq : Nat) (l : List EvRec) : Option (List Byte) :=
  s.sessionPdu { x with seqOut := seq - 1 } 0x10 Hdp.EVENT 0 0 0 (natBytes 1 l.length ++ l.flatMap evBytes)

/-- EVENT_SEND (R462): up to 32 records, when no EVENT is outstanding. -/
def execEventSend (sid : Fin 256) (s : State) : Host.Outcome State Fault Refusal :=
  match s.session sid.val with
  | none => .next s
  | some x =>
    let l := x.evq.take 32
    if !x.up || x.sent.isSome || l.isEmpty then .next s
    else
      match s.evPdu x (x.seqOut + 1) l with
      | none => .next s
      | some pdu =>
        .next ((s.setSession x.sid (fun y => { y with
          seqOut := y.seqOut + 1, evq := y.evq.drop 32, sent := some ⟨y.seqOut + 1, l, 0⟩ })).pduOut x.src pdu)

/-- EVENT_ACK_TIMEOUT (R462): resent at most 3 times, then its records are lost. -/
def execEventAckTimeout (sid : Fin 256) (s : State) : Host.Outcome State Fault Refusal :=
  match s.session sid.val with
  | none => .next s
  | some x =>
    match x.sent with
    | none => .next s
    | some e =>
      if 3 ≤ e.tries then .next ((s.setSession x.sid (fun y => { y with sent := none })).evLost e.recs.length)
      else
        let t := s.setSession x.sid (fun y => { y with sent := some { e with tries := e.tries + 1 } })
        match s.evPdu x e.seq e.recs with
        | none => .next t
        | some pdu => .next (t.pduOut x.src pdu)

end Sys2Proof.Machine
end

