-- ==== Sys2Proof/Machine/OdeCmd.lean ====
section
/-! DEFINITION. Device states (R449, R450, R509), and the commands of the dictionary that MC4, MC5 and the ODE carry out: they
answer the oldest invoke that waits for them. -/

namespace Sys2Proof.Machine

/-! ## Device states -/

/-- OPERATIONAL when every configured function is ready and none of them is marked LIMITED, else LIMITED (R449). -/
def State.opTarget (s : State) : Nat :=
  let cfg := s.configured
  if (List.range 26).all (fun k => cfg / 2 ^ k % 2 == 0 || (s.ready k && s.sys.limited / 2 ^ k % 2 == 0)) then
    Dev.OPERATIONAL
  else Dev.LIMITED

/-- A write to ODE_STATECMD (R449, R473): MC5 alone; 2 ends BOOT once the dictionary is ready, 5 enters DUMP. -/
def State.stateCmd (i : Nat) (v : Word) (s : State) : State :=
  let k := bits v 2 0
  if i ≠ Ini.MC5 then s.refuse R.ODE_ERR St.RIGHTS 192
  else if k = 5 then s.setDev Dev.DUMP
  else if k ≠ 2 then s.refuse R.ODE_ERR St.RANGE 192
  else if s.dev ≠ Dev.BOOT ∨ !s.ready Fn.DICT then s.refuse R.ODE_ERR St.STATE 192
  else s.setDev s.opTarget

/-- STATECMD (R449). -/
def execStatecmd (i : Init) (v : Word) (s : State) : Host.Outcome State Fault Refusal :=
  .next (s.onWrite i R.ODE_STATECMD (State.stateCmd i.val v))

/-- STATE_AUTO_CHANGE (R449): between two requests. -/
def execStateAutoChange (s : State) : Host.Outcome State Fault Refusal :=
  if s.ode.req.isNone && (s.dev == Dev.OPERATIONAL || s.dev == Dev.LIMITED) then .next (s.setDev s.opTarget) else .next s

/-! ## Invokes -/

/-- Carry out the invoke of a parameter that waits: the effect gives a status and a result. -/
def State.onInvoke (s : State) (area item : Nat) (f : State → List Byte → State × Nat × List Byte) : State :=
  match s.fwOf area item with
  | none => s
  | some q =>
    let r := f s q.value
    r.1.fwDone q r.2.1 r.2.2

/-- STATE_REQ (R450). From ALARM, MC5 writes CRY_ALMCLR first; while the alarm remains, the transition is not made. -/
def State.stateReq (s : State) (v : List Byte) : State × Nat × List Byte :=
  let k := bytesNat v
  if k = 1 ∧ (s.dev = Dev.OPERATIONAL ∨ s.dev = Dev.LIMITED) then (s.setDev Dev.MAINTENANCE, St.OK, [])
  else if k = 2 ∧ s.dev = Dev.MAINTENANCE then (s.setDev s.opTarget, St.OK, [])
  else if k = 1 ∧ s.dev = Dev.ALARM then
    let s := nextOr s (execAlarmClear mc5 1 s)
    if s.rb F.CRY_STAT_ALARM then (s, St.STATE, []) else (s.setDev Dev.MAINTENANCE, St.OK, [])
  else (s, St.STATE, [])

/-- STATE_REQ (R450). -/
def execStateReq (s : State) : Host.Outcome State Fault Refusal := .next (s.onInvoke 0x01 0x001 State.stateReq)

/-- SAVE (R464): it completes once no record waits. -/
def execSave (s : State) : Host.Outcome State Fault Refusal :=
  if s.ode.jbuf.isEmpty then .next (s.onInvoke 0x01 0x002 (fun s _ => (s, St.OK, []))) else .next s

/-- RESTART (R496): the answer leaves, then the reset. -/
def execRestart (s : State) : Host.Outcome State Fault Refusal :=
  match s.fwOf 0x01 0x003 with
  | none => .next s
  | some q => .next ((s.fwDone q St.OK []).rstCmd 0x5253 (if bytesNat q.value = 1 then 2 else 1))

/-- MC5 writes a ledger; the fuse of an epoch that the ledger in force is ahead of is blown before (R513). -/
def State.ledgerAfterFuse (s : State) (data : List Nat) : State :=
  let c := s.rf F.SYS_OTPCNT_EPOCH
  (if s.ledgerBits 0 8 0 c = c + 1 ∧ c < 256 then s.wf F.SYS_OTPCNT_EPOCH (c + 1) else s).ledgerPut data

/-- The ledger with every fallback cleared (R516): BADA, BADB, JRESET, DSPD, SKIP and each FAILRUN. -/
def clearedLedger (d : List Nat) (epoch : Nat) : List Nat :=
  let w2 := d.getD 2 0
  let w2 := w2 / 2 ^ 31 * 2 ^ 31 + w2 % 2 ^ 24
  [d.getD 0 0 / 2 ^ 9 * 2 ^ 9 + epoch, d.getD 1 0, w2, d.getD 3 0 / 64 * 64] ++ (d.drop 4).take 3 ++
    (d.drop 7).map (fun e => e / 2 ^ 20 * 2 ^ 20 + e % 2 ^ 16)

/-- FALLBACK_CLEAR (R513, R516): the ledger with EPOCH + 1 first, then the fuse. -/
def State.fallbackClear (s : State) : State :=
  let c := s.rf F.SYS_OTPCNT_EPOCH
  let e := s.ledgerBits 0 8 0 c
  let s := s.ledgerAfterFuse (clearedLedger s.ledgerNow (min 256 (e + 1)))
  if e < 256 then s.otpStart else s

/-- FALLBACK_CLEAR carried out for an invocation. -/
def State.fallbackArg (s : State) (_v : List Byte) : State × Nat × List Byte := (s.fallbackClear, St.OK, [])

/-- FALLBACK_CLEAR (R516). -/
def execFallbackClear (s : State) : Host.Outcome State Fault Refusal :=
  .next (s.onInvoke 0x02 0x004 State.fallbackArg)

/-- ATTEST of a nonce of 48 bytes (R405, R490): MC5 has PKE sign the report. -/
def State.attestArg (s : State) (v : List Byte) : State × Nat × List Byte :=
  if v.length ≠ 48 then (s, St.RANGE, [])
  else if !s.ready Fn.PKE then (s, St.NOTREADY, [])
  else if s.attestStop then (s, St.NOKEY, [])
  else let r := s.attested v; (r.1, St.OK, r.2)

/-- ATTEST (R405). -/
def execAttest (s : State) : Host.Outcome State Fault Refusal := .next (s.onInvoke 0x30 0x003 State.attestArg)

/-- An outcome other than OK of a key command is counted, recorded and raises EV164 (R384). -/
def State.keyNote (s : State) (st : Nat) : State :=
  if st = St.OK then s else ((s.cryCount st).errSet R.CRY_ERR st).raise 164

/-- Run a key command of MC5 with its arguments in CRY_KARG0 and CRY_KARG1. -/
def State.keyArg (s : State) (opc slot arg0 mask : Nat) (f : State → Nat → State × Nat) : State × Nat × List Byte :=
  match s.keyGate opc slot with
  | some st => ((if opc = 1 then s.clearKdata 16 else s).keyNote st, st, [])
  | none =>
    let r := f ((s.setRegN R.CRY_KARG0 arg0).setRegN R.CRY_KARG1 mask) slot
    (r.1.keyNote r.2, r.2, [])

/-- CRY_KARG0 of TYPE, USAGE, KLEN8 and KEK (R410). -/
def State.karg0 (s : State) (typ usage klen8 kek : Nat) : Nat :=
  let t := ((s.setRegN R.CRY_KARG0 0).wf F.CRY_KARG0_TYPE typ).wf F.CRY_KARG0_USAGE usage
  ((t.wf F.CRY_KARG0_KLEN8 klen8).wf F.CRY_KARG0_KEK kek).regN R.CRY_KARG0

/-- KEY_UNWRAP (R383, R490): target slot, KEK slot, USAGE mask, zero, PAGEMASK, blob. The blob stands in a buffer of the work
area for UNWRAP; its length gives the key's, and with it a TYPE of that length. -/
def State.keyUnwrapArg (s : State) (v : List Byte) : State × Nat × List Byte :=
  let num (o n : Nat) : Nat := bytesNat ((v.drop o).take n)
  let blob := v.drop 12
  let klen := blob.length - 16
  let a := 0x11370000 + 1024 * (Config.fwBuf s.ode.fwNum % 64)
  let typ := if klen = 16 then 0 else if klen = 48 then 3 else if klen = 32 then 1 else 2
  if v.length < 32 ∨ num 5 3 ≠ 0 ∨ 1023 < num 0 2 ∨ 1022 < num 2 2 ∨ klen % 8 ≠ 0 then (s, St.RANGE, [])
  else
    let s := (s.store mc5.val a blob).setReg64 R.CRY_KADDR_LO R.CRY_KADDR_HI a
    s.keyArg 2 (num 0 2) (s.karg0 typ (num 4 1) (klen / 8) (num 2 2)) (num 8 4) State.keyUnwrapCmd

/-- KEY_UNWRAP (R490). -/
def execKeyUnwrap (s : State) : Host.Outcome State Fault Refusal := .next (s.onInvoke 0x30 0x015 State.keyUnwrapArg)

/-- Key bytes in CRY_KDATA. -/
def State.putKdata (s : State) (key : List Byte) : Nat → State
  | 0 => s
  | k + 1 => (s.putKdata key k).setRegN (R.CRY_KDATA k) (bytesNat ((key.drop (4 * k)).take 4))

/-- KEY_LOAD (R383, R490): target slot, TYPE, USAGE mask, PAGEMASK, key in clear. -/
def State.keyLoadArg (s : State) (v : List Byte) : State × Nat × List Byte :=
  let num (o n : Nat) : Nat := bytesNat ((v.drop o).take n)
  let key := v.drop 8
  if v.length < 24 ∨ 72 < v.length ∨ 1023 < num 0 2 ∨ 4 < num 2 1 ∨
      key.length ≠ keyLen (num 2 1) key.length ∨ key.length % 8 ≠ 0 then (s, St.RANGE, [])
  else
    (s.putKdata key 16).keyArg 1 (num 0 2) (s.karg0 (num 2 1) (num 3 1) (key.length / 8) 0) (num 4 4) State.keyLoad

/-- KEY_LOAD (R490). -/
def execKeyLoad (s : State) : Host.Outcome State Fault Refusal := .next (s.onInvoke 0x30 0x016 State.keyLoadArg)

/-- COMMIT carried out for an invocation. -/
def State.commitArg (s : State) (v : List Byte) : State × Nat × List Byte :=
  ((s.commit (bytesNat v)).1, (s.commit (bytesNat v)).2, [])

/-- COMMIT (R468). -/
def execCommit (s : State) : Host.Outcome State Fault Refusal :=
  .next (s.onInvoke 0x40 0x002 State.commitArg)

/-- RELAY_CMD (R492, R493): MC4 takes the command and completes it with OK. -/
def execRelayCmd (s : State) : Host.Outcome State Fault Refusal :=
  .next (s.onInvoke 0x38 0x001 (fun s v => (s.relayTake (bytesNat v == 1), St.OK, [])))

/-- LEVEL_CMD (R494). -/
def execLevelCmd (s : State) : Host.Outcome State Fault Refusal :=
  .next (s.onInvoke 0x38 0x011 (fun s v => (s.levelTake (bytesNat v), St.OK, [])))

/-! ## Counters (R478) -/

/-- The counter parameters. -/
def counterParams : List Nat :=
  [0x100F0, 0x110F0, 0x120F0, 0x100F1, 0x110F1, 0x120F1, 0x130F1, 0x100F2, 0x110F2, 0x120F2, 0x130F2, 0x130F0, 0x200F0,
    0x200F1, 0x200F2, 0x200F3, 0x200F4, 0x200F5, 0x200F6, 0x280F0, 0x280F1, 0x281F0, 0x300F0, 0x300F1, 0x3F010, 0x3F011,
    0x3F012, 0x3F013]

/-- Read one counter register and add it to its total; one whose block has no clock is left. -/
def State.collect (s : State) (a : Nat) : State :=
  if s.clockOff a || !s.accOk mc5 a false then s
  else
    let r := s.mcRead a
    r.1.setOde (fun o => { o with totals := Sparse.putN o.totals a (Sparse.getN o.totals a + r.2.toNat) })

/-- COUNTER_COLLECT (R478): MC5 reads every listed counter register. -/
def execCounterCollect (s : State) : Host.Outcome State Fault Refusal :=
  if !s.sys.mc5 then .next s
  else
    .next ((counterParams.flatMap (fun n =>
      match counterRegs n with
      | some (a, k) => (List.range k).map (fun j => a + 4 * j)
      | none => [])).foldl (fun s a => s.collect a) s)

/-! ## The end of BOOT (R509) -/

/-- The step of a function (R514), where it has one of its own. -/
def stepOfFn (k : Nat) : Option Nat :=
  if k = Fn.DRAM then some 0x0C
  else if k = Fn.PKE then some 0x03
  else if 8 ≤ k ∧ k ≤ 13 then some 0x12
  else if 14 ≤ k ∧ k ≤ 17 then some (0x0D + (k - 14))
  else if k = Fn.FMAC then some 0x0B
  else if k = Fn.STP then some 0x11
  else if k = Fn.SLOW then some 0x13
  else none

/-- The configured functions whose start step still runs: not passed, and not marked LIMITED. -/
def State.stillRuns (s : State) : List Nat :=
  (List.range 26).filter (fun k => s.configured / 2 ^ k % 2 == 1 && !s.step1 k && s.sys.limited / 2 ^ k % 2 == 0)

/-- BOOT_TIMEOUT (R509): 30 s after MC5 starts. `journal` names the step that keeps the dictionary from being ready, and
`status` its failure, if it has ended. -/
def execBootTimeout (journal : Bool) (status : Option (BitVec 8)) (s : State) : Host.Outcome State Fault Refusal :=
  if !s.sys.mc5 || s.dev != Dev.BOOT then .next s
  else if s.ready Fn.DICT then
    let late := s.stillRuns
    let d := (late.filterMap stepOfFn).eraseDups.foldl (fun d k => ledgerStep d k St.LATE) s.ledgerNow
    let s := if late.isEmpty then s else s.ledgerAfterFuse d
    let s := late.foldl (fun s k => s.limit k true) s
    .next (s.setDev s.opTarget)
  else
    let step := if journal then 6 else 5
    let d := ledgerStep s.ledgerNow step ((status.map (fun x => x.toNat)).getD St.LATE)
    let s := s.ledgerAfterFuse d
    if failRun d step < 3 then .next (s.warmReset 4) else .next s

end Sys2Proof.Machine
end

