-- ==== Sys2Proof/Machine/Bus.lean ====
section
/-! DEFINITION. Register accesses as the fabric carries them, with the ODE's own registers (R5 to R8, R25, R473). -/

namespace Sys2Proof.Machine

/-- ODE registers whose write does more than set fields (R473). -/
def odeHookWrite (i : Init) (s : State) (o : Nat) (v : Word) : Option State :=
  if o = 0x10 then some (s.stateCmd i.val v)
  else if o = 0xA4 then some (s.mbxPush v)
  else if 0xE0 ≤ o ∧ o ≤ 0xF4 then some (s.fwAnswer ((o - 0xE0) / 4) v)
  else none

/-- ODE registers whose read pops (R473). -/
def odeHookRead (i : Init) (s : State) (o : Nat) : Option State :=
  if o = 0xA8 then some (s.mbxPop i)
  else if 0xC0 ≤ o ∧ o ≤ 0xD4 then some (s.fwPop ((o - 0xC0) / 4) i)
  else none

/-- A register write by an initiator. -/
def State.busWrite (i : Init) (a : Nat) (v : Word) (s : State) : State := s.regWriteWith (odeHookWrite i) i a v
/-- A register read by an initiator. -/
def State.busRead (i : Init) (a : Nat) (s : State) : State := s.regReadWith (odeHookRead i) i a

/-- REGISTER_WRITE (R8): range, RWI state and access are checked, then the write takes effect. -/
def execRegisterWrite (i : Init) (a : Nat) (v : Word) (s : State) : Host.Outcome State Fault Refusal := .next (s.busWrite i a v)

/-- COUNTER_READ (R7): the read returns the register and clears its RC fields. -/
def execCounterRead (i : Init) (a : Nat) (s : State) : Host.Outcome State Fault Refusal := .next (s.busRead i a)

end Sys2Proof.Machine
end

