-- ==== Sys2Proof/Machine/DmaMove.lean ====
section
/-! DEFINITION. What the DMA engine and the scan engine move (R339 to R342, R349, R361 to R363): bursts and scans. -/

namespace Sys2Proof.Machine

/-- The DMA engine as an initiator. -/
def dmaIni : Init := 10

/-! ## Sources and destinations (R339) -/

/-- A register answers the DMA engine. -/
def State.dmaReach (s : State) (a : Nat) (write : Bool) : Bool :=
  (windowOf a).isSome && a % 4 == 0 && s.accOk dmaIni a write && !s.clockOff a

/-- Read `n` registers, `step` bytes apart; none at the first bus error. -/
def State.dmaRegs (s : State) (a step : Nat) : Nat → State × Option (List Byte)
  | 0 => (s, some [])
  | n + 1 =>
    let ok := s.dmaReach a false
    let r := (s.busRead dmaIni a).taken
    if !ok then (r.1, none)
    else
      let t := r.1.dmaRegs (a + step) step n
      (t.1, t.2.map (fun l => natBytes 4 ((r.2.getD 0).toNat) ++ l))

/-- The bytes of a read by the DMA engine, or HW or CHECK. In the register region an access is one aligned word (R5). -/
def State.dmaRead (s : State) (a n : Nat) : State × Except Nat (List Byte) :=
  if regionOf a n = some 2 then
    if a % 4 ≠ 0 ∨ n % 4 ≠ 0 then (s.busErr dmaIni a, .error St.HW)
    else
      let r := s.dmaRegs a 4 (n / 4)
      (r.1, match r.2 with
        | some l => .ok l
        | none => .error St.HW)
  else if !s.readable a n then (s, .error St.HW)
  else if s.eccBad a n then (s.eccRead Ini.DMA a n, .error St.CHECK)
  else (s.eccRead Ini.DMA a n, .ok (s.bytes a n))

/-- Read `k` elements of a fixed address. -/
def State.dmaFixed (s : State) (a w : Nat) : Nat → State × Except Nat (List Byte)
  | 0 => (s, .ok [])
  | k + 1 =>
    let r := s.dmaRead a w
    match r.2 with
    | .error e => (r.1, .error e)
    | .ok l =>
      let t := r.1.dmaFixed a w k
      match t.2 with
      | .error e => (t.1, .error e)
      | .ok l2 => (t.1, .ok (l ++ l2))

/-- The words of a list of bytes go to registers; a bus error ends it. -/
def State.dmaWriteRegs (s : State) (a step : Nat) : List Byte → State × Bool
  | b0 :: b1 :: b2 :: b3 :: l =>
    let ok := s.dmaReach a true
    let t := s.busWrite dmaIni a (BitVec.ofNat 32 (bytesNat [b0, b1, b2, b3]))
    if ok then t.dmaWriteRegs (a + step) step l else (t, false)
  | _ => (s, true)

/-- A write of bytes; false where it ends with a bus error. -/
def State.dmaWrite (s : State) (a : Nat) (l : List Byte) : State × Bool :=
  if regionOf a l.length = some 2 then
    if a % 4 ≠ 0 ∨ l.length % 4 ≠ 0 then (s.busErr dmaIni a, false) else s.dmaWriteRegs a 4 l
  else if s.writable Ini.DMA a l.length then (s.store Ini.DMA a l, true)
  else (s, false)

/-- The elements of `w` bytes go to a fixed address, one after another. -/
def State.dmaWriteFixed (s : State) (a w : Nat) : Nat → List Byte → State × Bool
  | 0, _ => (s, true)
  | k + 1, l =>
    let t := s.dmaWrite a (l.take w)
    if t.2 then t.1.dmaWriteFixed a w k (l.drop w) else t

/-- Bytes of which any may or may not have been written: which ones, free values (R349). -/
def State.maybeWritten (s : State) (a : Nat) : List Byte → State
  | [] => s
  | b :: bs => ((if s.free % 2 = 1 then s.used.setByte a b else s.used).maybeWritten (a + 1) bs)

/-! ## Bursts (R340, R341) -/

/-- The bytes of the next burst of a channel: all the source gives, or a status. -/
def State.burstIn (s : State) (c : DmaChan) (n : Nat) : State × Except Nat (List Byte) :=
  let w0 := c.word 0
  let d := c.desc.getD []
  if kindOf w0 = 1 then
    let a := if w0.getLsbD 24 then dstOf d else dstOf d + c.moved
    let w := fwidOf w0
    let pat := natBytes 4 (c.word 6).toNat
    (s, .ok ((List.range n).map (fun k => pat.getD ((a + (if w0.getLsbD 24 then k % w else k)) % 4) 0)))
  else if w0.getLsbD 25 then s.dmaFixed (srcOf d) (fwidOf w0) (n / fwidOf w0)
  else s.dmaRead (srcOf d + c.moved) n

/-- The bytes of a burst go to the destination; `fail` says that a write ends with a bus error. -/
def State.burstOut (s : State) (c : DmaChan) (l : List Byte) (fail : Bool) : State × Bool :=
  let w0 := c.word 0
  let d := c.desc.getD []
  let a := if w0.getLsbD 24 then dstOf d else dstOf d + c.moved
  if fail then
    (if regionOf a l.length = some 2 ∨ !s.writable Ini.DMA a l.length then s
     else s.maybeWritten a (if w0.getLsbD 24 then l.take (fwidOf w0) else l), false)
  else if w0.getLsbD 24 then s.dmaWriteFixed a (fwidOf w0) (l.length / fwidOf w0) l
  else s.dmaWrite a l

/-- A channel's descriptor ends with a status, before its write-back. -/
def State.chEnd (s : State) (n : Nat) (c : DmaChan) (st : Nat) : State := s.setCh n { c with ended := some st }

/-- A burst of a channel whose descriptor has begun: `fail` is 0 for none, 1 where a read, 2 where a write ends with a bus
error. -/
def State.burst (s : State) (n fail : Nat) : State :=
  let c := s.ch n
  let w0 := c.word 0
  let len := lenOf (c.desc.getD [])
  let k := min (2 ^ s.rf (F.CH_CFG_BURST n)) (len - c.moved)
  let r := s.burstIn c k
  match (if fail = 1 then .error St.HW else r.2) with
  | .error st => r.1.chEnd n c st
  | .ok l =>
    let done := decide (len ≤ c.moved + k)
    if kindOf w0 = 2 then
      let c := { c with moved := c.moved + k, data := c.data ++ l }
      if done then (r.1.injectStore n (c.desc.getD []) c.data).chEnd n { c with data := [] } St.OK else r.1.setCh n c
    else
      let t := r.1.burstOut c l (fail == 2)
      if !t.2 then t.1.chEnd n c St.HW
      else
        let s := if w0.getLsbD 21 then t.1.chkFeed (bits w0 15 12) l else t.1
        let c := { c with moved := c.moved + k }
        if done then s.chEnd n c St.OK else s.setCh n c

/-- The first burst of a descriptor: the unit it names is bound and initialised (R359, R360), an INJECT frame's units are
charged (R340). None where it must wait. -/
def State.burstBegin (s : State) (n : Nat) : State × Bool :=
  let c := s.ch n
  let w0 := c.word 0
  let u := bits w0 15 12
  if c.begun then (s, kindOf w0 != 2 || c.charged)
  else if kindOf w0 = 2 then
    match s.charge (10 + s.rf (F.CH_CFG_IPORT n)) (unitsOf (lenOf (c.desc.getD []))) with
    | none => (s.setCh n { c with begun := true }, false)
    | some s => (s.setCh n { c with begun := true, charged := true }, true)
  else if w0.getLsbD 21 then
    if !c.bound ∧ s.chkBound u then (s, false)
    else
      let s := s.setCh n { c with begun := true, bound := true }
      (if w0.getLsbD 20 then s.chkInit u else s, true)
  else (s.setCh n { c with begun := true }, true)

/-- PATH_CHANNEL_ERROR (R334): the frame that a path channel moves is dropped; without an error its bursts show only when
the frame is whole. -/
def State.pathBurst (s : State) (n fail : Nat) : State :=
  if fail = 0 ∨ !s.ready Fn.PACKET then s
  else if n < 6 then
    match s.selOf n with
    | [] => s
    | a :: _ => (s.freeSel n a).pathCount n
  else
    match s.firstXfer (if n < 9 then n - 6 else n - 9) (decide (9 ≤ n)) with
    | none => s
    | some x => s.pathDrop x

/-- DMA_BURST (R341, R342): the arbiter grants channel `n` a mover. `request` is the peripheral request at the burst boundary,
`withdrawn` says that it went away before the last beat. -/
def execDmaBurst (n : Fin 128) (request withdrawn : Bool) (fail : Fin 3) (s : State) : Host.Outcome State Fault Refusal :=
  let k := n.val
  let c := s.ch k
  let paced := (c.word 0).getLsbD 28 && s.rf (F.CH_CFG_REQ k) != 0
  if isPath k then .next (s.pathBurst k fail.val)
  else if !s.rb F.DMA_CTRL_EN || s.chState k != Cs.RUN || c.ended.isSome || (paced && !request) then .next s
  else
    let r := s.burstBegin k
    if !r.2 then .next r.1
    else
      let s := if paced && withdrawn then
          r.1.wf (F.CH_CNT_LATEWD k) (min (r.1.rf (F.CH_CNT_LATEWD k) + 1) 0xFFFF) else r.1
      .next (s.burst k fail.val)

/-! ## Scans (R361 to R363) -/

/-- The first uncorrectable word of a range. -/
def State.firstBad (s : State) (a len : Nat) : Nat :=
  8 * (((s.ecc.filter (fun e => decide (2 ≤ e.2 ∧ a / 8 ≤ e.1 ∧ e.1 * 8 < a + len))).map (fun e => e.1)).headD (a / 8))

/-- The outcome of a scan: the state, SCAN_RES, and whether WIN is not 0. -/
structure ScanEnd where
  st : State
  res : Nat
  win : Nat

/-- The end of a SINGLE scan whose bytes have been read, as far as they were sound. -/
def State.scanRead (s : State) (r : Except Nat (List Byte)) (u bad : Nat) (part : List Byte) (stopped : Bool) : ScanEnd :=
  match r with
  | .error st =>
    if st = St.CHECK then
      ⟨(s.chkFeed u part).setReg64 R.SCAN_ERRADDR_LO R.SCAN_ERRADDR_HI bad, 2 ^ 30 + St.CHECK, 0⟩
    else ⟨s, st, 0⟩
  | .ok l =>
    let s := s.chkFeed u l
    if stopped then ⟨s, St.ABORTED, 0⟩
    else
      let f := s.chkFinal u
      let m := 2 ^ s.chkWidth u
      let s := s.setRegN R.SCAN_VAL f
      if s.rb F.SCAN_CTRL_CMP && f % m != s.regN R.SCAN_EXP % m then ⟨s, 2 ^ 31 + St.CHECK, 0⟩ else ⟨s, St.OK, 0⟩

/-- A SINGLE scan that was stopped has read whole blocks of 256 bytes. -/
def State.scanSingle (s : State) (hw : Bool) (read : Nat) : ScanEnd :=
  let a := s.scanAddr
  let len := s.regN R.SCAN_LEN
  let stopped := s.rb F.SCAN_CTRL_STOP && decide (read % 256 = 0 ∧ read < len)
  let n := if stopped then read else len
  if len = 0 ∨ (regionOf a len).isNone then ⟨s, St.RANGE, 0⟩
  else if isDram a && !s.ready Fn.DRAM then ⟨s, St.NOTREADY, 0⟩
  else if hw then ⟨s, St.HW, 0⟩
  else
    (s.dmaRead a n).1.scanRead (s.dmaRead a n).2 (s.rf F.SCAN_CTRL_UNIT) (s.firstBad a n)
      (s.bytes a (s.firstBad a n - a)) stopped

/-- The end of the region that an address lies in. -/
def regionEnd (a : Nat) : Nat :=
  match regionOf a 1 with
  | some 0 => 0x40000
  | some 1 => 0x11800000
  | some 2 => 0x40800000
  | _ => 0xC00000000

/-- The bytes that a copy would take: its word 0 tells, and no more than its region holds. -/
def State.copyLen (s : State) (a : Nat) : Nat :=
  let n := s.readN a 4 % 2 ^ 16
  if regionEnd a < a + 4 then 0
  else if n = 0 ∨ 16383 < n ∨ regionEnd a < a + recSize n then 4
  else recSize n

/-- A copy in memory, when it is valid: its bytes (R363). -/
def State.copyAt (s : State) (a : Nat) : Option (List Byte) :=
  let n := s.copyLen a
  let d := s.bytes a n
  if n ≤ 4 ∨ s.eccBad a n then none
  else if d.drop (n - 4) = natBytes 4 (crc32c (d.take (n - 4))) then some d
  else none

/-- PAIR_DECIDE (R363): WIN and TIE of two copies. -/
def pairWin (a b : Option (List Byte)) : Nat × Bool :=
  match a, b with
  | some x, some y =>
    let d := (bytesNat ((y.drop 4).take 4) + 2 ^ 32 - bytesNat ((x.drop 4).take 4)) % 2 ^ 32
    if x = y then (0, false)
    else if 1 ≤ d ∧ d < 2 ^ 31 then (2, false)
    else (1, d == 0)
  | some _, none => (1, false)
  | none, some _ => (2, false)
  | none, none => (3, false)

/-- A PAIR scan. -/
def State.scanPair (s : State) (hw : Bool) : ScanEnd :=
  let a := s.scanAddr
  let b := s.scanAddr2
  if (regionOf a 1).isNone ∨ (regionOf b 1).isNone then ⟨s, St.RANGE, 0⟩
  else if (isDram a || isDram b) && !s.ready Fn.DRAM then ⟨s, St.NOTREADY, 0⟩
  else if hw || !s.readable a (s.copyLen a) || !s.readable b (s.copyLen b) then ⟨s, St.HW, 0⟩
  else if s.rb F.SCAN_CTRL_STOP then ⟨s, St.ABORTED, 0⟩
  else
    let ca := s.copyAt a
    let cb := s.copyAt b
    let w := pairWin ca cb
    let badA := s.eccBad a (s.copyLen a)
    let badB := s.eccBad b (s.copyLen b)
    let bad := if badA then s.firstBad a (s.copyLen a) else s.firstBad b (s.copyLen b)
    let t := (s.eccRead Ini.DMA a (s.copyLen a)).eccRead Ini.DMA b (s.copyLen b)
    let t := if badA || badB then t.setReg64 R.SCAN_ERRADDR_LO R.SCAN_ERRADDR_HI bad else t
    let flags := (if badA || badB then 2 ^ 30 else 0) + (if ca.isSome then 2 ^ 29 else 0) +
      (if cb.isSome then 2 ^ 28 else 0) + (if w.2 then 2 ^ 27 else 0) + w.1 * 2 ^ 24
    ⟨t, flags + (if badA || badB || w.1 == 3 then St.CHECK else St.OK), w.1⟩

/-- SCAN_END (R362): the running scan ends; `hw` says with a bus error, `read` how far it had come when STOP ended it. -/
def execScanEnd (hw : Bool) (read : BitVec 32) (s : State) : Host.Outcome State Fault Refusal :=
  if !s.rb F.SCAN_CTRL_BUSY then .next s
  else
    let x := if s.rf F.SCAN_CTRL_MODE = 1 then s.scanPair hw else s.scanSingle hw read.toNat
    let t := (x.st.wb F.SCAN_CTRL_BUSY false).wb F.SCAN_CTRL_STOP false
    let t := ((t.wb F.SCAN_CTRL_GO false).setRegN R.SCAN_RES x.res).raise 160
    .next (if x.res % 256 ≠ St.OK ∨ x.win ≠ 0 then t.raise 161 else t)

end Sys2Proof.Machine
end

