-- ==== Sys2Proof/Machine/Dispatch.lean ====
section
/-! DEFINITION. One arm per command, each one direct call of its meaning. -/

namespace Sys2Proof.Machine

def exec (i : Instr) (s : State) : Host.Outcome State Fault Refusal :=
  match i with
  | .registerWrite ini a v => Sys2Proof.Machine.execRegisterWrite ini a v s
  | .counterRead ini a => Sys2Proof.Machine.execCounterRead ini a s
  | .memoryAccess ini a op => Sys2Proof.Machine.execMemoryAccess ini a op s
  | .receiveReserve src len => Sys2Proof.Machine.execReceiveReserve src len s
  | .frameStored r release => Sys2Proof.Machine.execFrameStored r release s
  | .frameForward r => Sys2Proof.Machine.execFrameForward r s
  | .creditReturn r a => Sys2Proof.Machine.execCreditReturn r a s
  | .readinessSet k => Sys2Proof.Machine.execReadinessSet k s
  | .readinessClear k => Sys2Proof.Machine.execReadinessClear k s
  | .mainsCrossing spacing amp => Sys2Proof.Machine.execMainsCrossing spacing amp s
  | .crossingMissing => Sys2Proof.Machine.execCrossingMissing s
  | .holdEstimateUpdate => Sys2Proof.Machine.execHoldEstimateUpdate s
  | .beaconSample src carried stamp => Sys2Proof.Machine.execBeaconSample src carried stamp s
  | .seed ini => Sys2Proof.Machine.execSeed ini s
  | .relearn ini => Sys2Proof.Machine.execRelearn ini s
  | .hold ini => Sys2Proof.Machine.execHold ini s
  | .resume ini => Sys2Proof.Machine.execResume ini s
  | .gtuFree ini => Sys2Proof.Machine.execGtuFree ini s
  | .pmapCommit ini => Sys2Proof.Machine.execPmapCommit ini s
  | .pmapExpire => Sys2Proof.Machine.execPmapExpire s
  | .bcnValidExpire => Sys2Proof.Machine.execBcnValidExpire s
  | .gtuCtrlWrite ini v => Sys2Proof.Machine.execGtuCtrlWrite ini v s
  | .gtuNowRead ini => Sys2Proof.Machine.execGtuNowRead ini s
  | .xlastRead ini => Sys2Proof.Machine.execXlastRead ini s
  | .replicaBroadcast => Sys2Proof.Machine.execReplicaBroadcast s
  | .gcArm ini n v => Sys2Proof.Machine.execGcArm ini n v s
  | .gcDisarm ini n v => Sys2Proof.Machine.execGcDisarm ini n v s
  | .gcFire n => Sys2Proof.Machine.execGcFire n s
  | .pinPulseEnd pin => Sys2Proof.Machine.execPinPulseEnd pin s
  | .eventOccurrence ev => Sys2Proof.Machine.execEventOccurrence ev s
  | .eirqPulse p => Sys2Proof.Machine.execEirqPulse p s
  | .pendingClear ini d w v => Sys2Proof.Machine.execPendingClear ini d w v s
  | .softwareEvent ini v => Sys2Proof.Machine.execSoftwareEvent ini v s
  | .subscriptionPop ini => Sys2Proof.Machine.execSubscriptionPop ini s
  | .rfcCmdPush ini r v => Sys2Proof.Machine.execRfcCmdPush ini r v s
  | .macPortCommand r w => Sys2Proof.Machine.execMacPortCommand r w s
  | .rfcSleep r => Sys2Proof.Machine.execRfcSleep r s
  | .rfcWake r => Sys2Proof.Machine.execRfcWake r s
  | .rfcTune r => Sys2Proof.Machine.execRfcTune r s
  | .rfcPrep r => Sys2Proof.Machine.execRfcPrep r s
  | .rfcRx r => Sys2Proof.Machine.execRfcRx r s
  | .rfcTx r => Sys2Proof.Machine.execRfcTx r s
  | .rfcIdle r => Sys2Proof.Machine.execRfcIdle r s
  | .rfcStandby r => Sys2Proof.Machine.execRfcStandby r s
  | .rfcCal r => Sys2Proof.Machine.execRfcCal r s
  | .rfcDpdup r => Sys2Proof.Machine.execRfcDpdup r s
  | .rfcAbort r => Sys2Proof.Machine.execRfcAbort r s
  | .rfcStore r => Sys2Proof.Machine.execRfcStore r s
  | .rfcTransitionDone r => Sys2Proof.Machine.execRfcTransitionDone r s
  | .synthLock r codes => Sys2Proof.Machine.execSynthLock r codes s
  | .lockLoss r => Sys2Proof.Machine.execLockLoss r s
  | .heldDeadline r => Sys2Proof.Machine.execHeldDeadline r s
  | .calStepDone r ok codes => Sys2Proof.Machine.execCalStepDone r ok codes s
  | .calPeriodDue r => Sys2Proof.Machine.execCalPeriodDue r s
  | .calTempDue r temp => Sys2Proof.Machine.execCalTempDue r temp s
  | .calOverdue r => Sys2Proof.Machine.execCalOverdue r s
  | .autocalStart r => Sys2Proof.Machine.execAutocalStart r s
  | .dpdFitDone r nmse plo phi coef => Sys2Proof.Machine.execDpdFitDone r nmse plo phi coef s
  | .dpdTimeout r => Sys2Proof.Machine.execDpdTimeout r s
  | .dpdDue r => Sys2Proof.Machine.execDpdDue r s
  | .femtWrite ini r k v => Sys2Proof.Machine.execFemtWrite ini r k v s
  | .rfcResultPop ini r => Sys2Proof.Machine.execRfcResultPop ini r s
  | .packetDetect r pwr stamp => Sys2Proof.Machine.execPacketDetect r pwr stamp s
  | .fieldCheck r first res w0 => Sys2Proof.Machine.execFieldCheck r first res w0 s
  | .unsupportedHoldEnd r => Sys2Proof.Machine.execUnsupportedHoldEnd r s
  | .secondDetection r pwr stamp => Sys2Proof.Machine.execSecondDetection r pwr stamp s
  | .clipRestart r => Sys2Proof.Machine.execClipRestart r s
  | .tbReceptionArm r users target => Sys2Proof.Machine.execTbReceptionArm r users target s
  | .tbWindowEnd r => Sys2Proof.Machine.execTbWindowEnd r s
  | .codewordDecoded r fail half quarter => Sys2Proof.Machine.execCodewordDecoded r fail half quarter s
  | .ppduReceiveEnd r blocks => Sys2Proof.Machine.execPpduReceiveEnd r blocks s
  | .transmitVector r w stored => Sys2Proof.Machine.execTransmitVector r w stored s
  | .ppduTxEnd r us => Sys2Proof.Machine.execPpduTxEnd r us s
  | .smodeWrite ini v => Sys2Proof.Machine.execSmodeWrite ini v s
  | .noiseAlarm r nf => Sys2Proof.Machine.execNoiseAlarm r nf s
  | .rxAnomalyAlarm r grew => Sys2Proof.Machine.execRxAnomalyAlarm r grew s
  | .edcaCommit r x exempt mpdus => Sys2Proof.Machine.execEdcaCommit r x exempt mpdus s
  | .mpduReceive r f => Sys2Proof.Machine.execMpduReceive r f s
  | .controlResponse r kind users => Sys2Proof.Machine.execControlResponse r kind users s
  | .beaconTbtt r => Sys2Proof.Machine.execBeaconTbtt r s
  | .beaconDrop r bss => Sys2Proof.Machine.execBeaconDrop r bss s
  | .beaconCommit r bss x => Sys2Proof.Machine.execBeaconCommit r bss x s
  | .tsfRead ini r => Sys2Proof.Machine.execTsfRead ini r s
  | .wifiBeaconReceive r b => Sys2Proof.Machine.execWifiBeaconReceive r b s
  | .notchFlagExpire r mis => Sys2Proof.Machine.execNotchFlagExpire r mis s
  | .mpduLifetimeDrop n => Sys2Proof.Machine.execMpduLifetimeDrop n s
  | .reorderTimeout r client tid => Sys2Proof.Machine.execReorderTimeout r client tid s
  | .mpduMove r => Sys2Proof.Machine.execMpduMove r s
  | .twtSlipCheck r client flow => Sys2Proof.Machine.execTwtSlipCheck r client flow s
  | .dlMuPpdu r x => Sys2Proof.Machine.execDlMuPpdu r x s
  | .triggerSend r x => Sys2Proof.Machine.execTriggerSend r x s
  | .sounding r sets => Sys2Proof.Machine.execSounding r sets s
  | .notchSuspendChange r => Sys2Proof.Machine.execNotchSuspendChange r s
  | .notchArm ini r v => Sys2Proof.Machine.execNotchArm ini r v s
  | .notchPlanApply r => Sys2Proof.Machine.execNotchPlanApply r s
  | .macCmdPush ini r v => Sys2Proof.Machine.execMacCmdPush ini r v s
  | .bssStart r => Sys2Proof.Machine.execBssStart r s
  | .bssStop r => Sys2Proof.Machine.execBssStop r s
  | .linkAdd r => Sys2Proof.Machine.execLinkAdd r s
  | .linkDel r => Sys2Proof.Machine.execLinkDel r s
  | .baAdd r => Sys2Proof.Machine.execBaAdd r s
  | .baDel r => Sys2Proof.Machine.execBaDel r s
  | .twtSet r => Sys2Proof.Machine.execTwtSet r s
  | .twtDel r => Sys2Proof.Machine.execTwtDel r s
  | .meshStart r => Sys2Proof.Machine.execMeshStart r s
  | .meshStop r => Sys2Proof.Machine.execMeshStop r s
  | .macDrainDone r => Sys2Proof.Machine.execMacDrainDone r s
  | .macResultPop ini r => Sys2Proof.Machine.execMacResultPop ini r s
  | .macDropAlarm r grew => Sys2Proof.Machine.execMacDropAlarm r grew s
  | .stpCmdPush ini v => Sys2Proof.Machine.execStpCmdPush ini v s
  | .stpRun => Sys2Proof.Machine.execStpRun s
  | .stpStop => Sys2Proof.Machine.execStpStop s
  | .clAdd => Sys2Proof.Machine.execClAdd s
  | .clDel => Sys2Proof.Machine.execClDel s
  | .clWord => Sys2Proof.Machine.execClWord s
  | .clSusp => Sys2Proof.Machine.execClSusp s
  | .clResume => Sys2Proof.Machine.execClResume s
  | .twtPlace => Sys2Proof.Machine.execTwtPlace s
  | .twtFree => Sys2Proof.Machine.execTwtFree s
  | .driftReset => Sys2Proof.Machine.execDriftReset s
  | .stageMpdu aborted => Sys2Proof.Machine.execStageMpdu aborted s
  | .exchangeResult r client x => Sys2Proof.Machine.execExchangeResult r client x s
  | .planRequest r ac bw punct limit => Sys2Proof.Machine.execPlanRequest r ac bw punct limit s
  | .spDecisionStart r client bw punct limit => Sys2Proof.Machine.execSpDecisionStart r client bw punct limit s
  | .planDiscard r => Sys2Proof.Machine.execPlanDiscard r s
  | .decisionOverrun r ac limit => Sys2Proof.Machine.execDecisionOverrun r ac limit s
  | .driftSample client timing stamp => Sys2Proof.Machine.execDriftSample client timing stamp s
  | .spWindowEnd client => Sys2Proof.Machine.execSpWindowEnd client s
  | .listenEnd client => Sys2Proof.Machine.execListenEnd client s
  | .stpPendWrite ini v => Sys2Proof.Machine.execStpPendWrite ini v s
  | .stpResultPop ini => Sys2Proof.Machine.execStpResultPop ini s
  | .superframeStart => Sys2Proof.Machine.execSuperframeStart s
  | .scheduleArm ini v => Sys2Proof.Machine.execScheduleArm ini v s
  | .scheduleApply => Sys2Proof.Machine.execScheduleApply s
  | .ownerMapBuild => Sys2Proof.Machine.execOwnerMapBuild s
  | .fieldBeaconCommit => Sys2Proof.Machine.execFieldBeaconCommit s
  | .fieldFrameReceive f => Sys2Proof.Machine.execFieldFrameReceive f s
  | .fieldResponse => Sys2Proof.Machine.execFieldResponse s
  | .pollWindowEnd entry => Sys2Proof.Machine.execPollWindowEnd entry s
  | .passRegionStart => Sys2Proof.Machine.execPassRegionStart s
  | .valleyStart => Sys2Proof.Machine.execValleyStart s
  | .upBeaconListenEnd => Sys2Proof.Machine.execUpBeaconListenEnd s
  | .upHoldEnd => Sys2Proof.Machine.execUpHoldEnd s
  | .longListenEnd => Sys2Proof.Machine.execLongListenEnd s
  | .longListenRetry => Sys2Proof.Machine.execLongListenRetry s
  | .ptabAgeExpire j => Sys2Proof.Machine.execPtabAgeExpire j s
  | .ptabWrite ini j k v => Sys2Proof.Machine.execPtabWrite ini j k v s
  | .dwellBinRoll g => Sys2Proof.Machine.execDwellBinRoll g s
  | .fmacCmdPush ini v => Sys2Proof.Machine.execFmacCmdPush ini v s
  | .sfStart => Sys2Proof.Machine.execSfStart s
  | .sfStop => Sys2Proof.Machine.execSfStop s
  | .upAttach => Sys2Proof.Machine.execUpAttach s
  | .upDetach => Sys2Proof.Machine.execUpDetach s
  | .assign => Sys2Proof.Machine.execAssign s
  | .release => Sys2Proof.Machine.execRelease s
  | .dlStage => Sys2Proof.Machine.execDlStage s
  | .dlCancel => Sys2Proof.Machine.execDlCancel s
  | .keyset => Sys2Proof.Machine.execKeyset s
  | .fieldDrainDone => Sys2Proof.Machine.execFieldDrainDone s
  | .fmacResultPop ini => Sys2Proof.Machine.execFmacResultPop ini s
  | .packetClassify => Sys2Proof.Machine.execPacketClassify s
  | .espResult => Sys2Proof.Machine.execEspResult s
  | .rewriteUnitsGrant => Sys2Proof.Machine.execRewriteUnitsGrant s
  | .legacyReorderRelease => Sys2Proof.Machine.execLegacyReorderRelease s
  | .pipeTabWrite ini w v => Sys2Proof.Machine.execPipeTabWrite ini w v s
  | .pipeTabApply => Sys2Proof.Machine.execPipeTabApply s
  | .fenceStart ini v => Sys2Proof.Machine.execFenceStart ini v s
  | .fenceDone => Sys2Proof.Machine.execFenceDone s
  | .updWrite ini dram slot => Sys2Proof.Machine.execUpdWrite ini dram slot s
  | .updClear ini dram slot => Sys2Proof.Machine.execUpdClear ini dram slot s
  | .updHash ini dram slot => Sys2Proof.Machine.execUpdHash ini dram slot s
  | .updComplete => Sys2Proof.Machine.execUpdComplete s
  | .missAlarm grew => Sys2Proof.Machine.execMissAlarm grew s
  | .oddAlarm grew => Sys2Proof.Machine.execOddAlarm grew s
  | .ppeCounterRead ini n bytes => Sys2Proof.Machine.execPpeCounterRead ini n bytes s
  | .ethFrameReceive p data stamp ns => Sys2Proof.Machine.execEthFrameReceive p data stamp ns s
  | .ethFrameTransmit p stamp ns => Sys2Proof.Machine.execEthFrameTransmit p stamp ns s
  | .pauseReceive p quanta => Sys2Proof.Machine.execPauseReceive p quanta s
  | .pauseRepeat p => Sys2Proof.Machine.execPauseRepeat p s
  | .linkChange p up mode speed => Sys2Proof.Machine.execLinkChange p up mode speed s
  | .ptpRead ini => Sys2Proof.Machine.execPtpRead ini s
  | .ptpStep ini v => Sys2Proof.Machine.execPtpStep ini v s
  | .txtsPop ini p => Sys2Proof.Machine.execTxtsPop ini p s
  | .mdioGo ini v => Sys2Proof.Machine.execMdioGo ini v s
  | .mdioDone d => Sys2Proof.Machine.execMdioDone d s
  | .enqueue => Sys2Proof.Machine.execEnqueue s
  | .poolApply ini v => Sys2Proof.Machine.execPoolApply ini v s
  | .rpoolWrite ini r v => Sys2Proof.Machine.execRpoolWrite ini r v s
  | .qmgFree ini v => Sys2Proof.Machine.execQmgFree ini v s
  | .qmgCmdPush ini v => Sys2Proof.Machine.execQmgCmdPush ini v s
  | .qCreate => Sys2Proof.Machine.execQCreate s
  | .qDelete => Sys2Proof.Machine.execQDelete s
  | .qSet => Sys2Proof.Machine.execQSet s
  | .qMove => Sys2Proof.Machine.execQMove s
  | .qStart => Sys2Proof.Machine.execQStart s
  | .qStop => Sys2Proof.Machine.execQStop s
  | .qFlush => Sys2Proof.Machine.execQFlush s
  | .qmgResultPop ini => Sys2Proof.Machine.execQmgResultPop ini s
  | .tmgSelect => Sys2Proof.Machine.execTmgSelect s
  | .sampleRound => Sys2Proof.Machine.execSampleRound s
  | .ringConfigWrite ini delivery n k v => Sys2Proof.Machine.execRingConfigWrite ini delivery n k v s
  | .portStall p => Sys2Proof.Machine.execPortStall p s
  | .tailAlarm grew => Sys2Proof.Machine.execTailAlarm grew s
  | .redAlarm grew => Sys2Proof.Machine.execRedAlarm grew s
  | .doorbell ini n v => Sys2Proof.Machine.execDoorbell ini n v s
  | .descriptorFetch n hw => Sys2Proof.Machine.execDescriptorFetch n hw s
  | .dmaBurst n request withdrawn fail => Sys2Proof.Machine.execDmaBurst n request withdrawn fail s
  | .descriptorComplete n fail => Sys2Proof.Machine.execDescriptorComplete n fail s
  | .dmaTriggerStrobe n stamp => Sys2Proof.Machine.execDmaTriggerStrobe n stamp s
  | .dmaEnable ini n => Sys2Proof.Machine.execDmaEnable ini n s
  | .dmaStart ini n => Sys2Proof.Machine.execDmaStart ini n s
  | .dmaPause ini n => Sys2Proof.Machine.execDmaPause ini n s
  | .dmaResume ini n => Sys2Proof.Machine.execDmaResume ini n s
  | .dmaStop ini n => Sys2Proof.Machine.execDmaStop ini n s
  | .dmaAbort ini n => Sys2Proof.Machine.execDmaAbort ini n s
  | .dmaClear ini n => Sys2Proof.Machine.execDmaClear ini n s
  | .injectUnitsGrant n => Sys2Proof.Machine.execInjectUnitsGrant n s
  | .shadowWrite ini n k v => Sys2Proof.Machine.execShadowWrite ini n k v s
  | .saddleArm ini n v => Sys2Proof.Machine.execSaddleArm ini n v s
  | .saddle n => Sys2Proof.Machine.execSaddle n s
  | .chkPreset ini u v => Sys2Proof.Machine.execChkPreset ini u v s
  | .chkConfigWrite ini u k v => Sys2Proof.Machine.execChkConfigWrite ini u k v s
  | .chkDataFeed ini u k v => Sys2Proof.Machine.execChkDataFeed ini u k v s
  | .chkInit ini u v => Sys2Proof.Machine.execChkInit ini u v s
  | .scanGo ini v => Sys2Proof.Machine.execScanGo ini v s
  | .scanStop ini v => Sys2Proof.Machine.execScanStop ini v s
  | .scanEnd hw read => Sys2Proof.Machine.execScanEnd hw read s
  | .pageDoorbell ini n v => Sys2Proof.Machine.execPageDoorbell ini n v s
  | .cryDescriptorFetch n => Sys2Proof.Machine.execCryDescriptorFetch n s
  | .inlineOperation n op => Sys2Proof.Machine.execInlineOperation n op s
  | .coreAssign => Sys2Proof.Machine.execCoreAssign s
  | .cryOperationComplete c => Sys2Proof.Machine.execCryOperationComplete c s
  | .cryLoad ini tag slot => Sys2Proof.Machine.execCryLoad ini tag slot s
  | .cryUnwrap ini tag slot => Sys2Proof.Machine.execCryUnwrap ini tag slot s
  | .cryGen ini tag slot => Sys2Proof.Machine.execCryGen ini tag slot s
  | .cryExport ini tag slot => Sys2Proof.Machine.execCryExport ini tag slot s
  | .cryErase ini tag slot => Sys2Proof.Machine.execCryErase ini tag slot s
  | .eraseComplete slot => Sys2Proof.Machine.execEraseComplete slot s
  | .cryAttr ini tag slot => Sys2Proof.Machine.execCryAttr ini tag slot s
  | .cryInfo ini tag slot => Sys2Proof.Machine.execCryInfo ini tag slot s
  | .cryKeyResultPop ini => Sys2Proof.Machine.execCryKeyResultPop ini s
  | .pageEnable ini n tag => Sys2Proof.Machine.execPageEnable ini n tag s
  | .pageStop ini n tag => Sys2Proof.Machine.execPageStop ini n tag s
  | .pageClear ini n tag => Sys2Proof.Machine.execPageClear ini n tag s
  | .ctxSave ini n tag c => Sys2Proof.Machine.execCtxSave ini n tag c s
  | .ctxRestore ini n tag c => Sys2Proof.Machine.execCtxRestore ini n tag c s
  | .ctxDrop ini n tag c => Sys2Proof.Machine.execCtxDrop ini n tag c s
  | .pageResultPop ini n => Sys2Proof.Machine.execPageResultPop ini n s
  | .saLoad ini tag sa => Sys2Proof.Machine.execSaLoad ini tag sa s
  | .saErase ini tag sa => Sys2Proof.Machine.execSaErase ini tag sa s
  | .saRead ini tag sa => Sys2Proof.Machine.execSaRead ini tag sa s
  | .alarmCondition k => Sys2Proof.Machine.execAlarmCondition k s
  | .alarmEraseDone => Sys2Proof.Machine.execAlarmEraseDone s
  | .alarmClear ini v => Sys2Proof.Machine.execAlarmClear ini v s
  | .alarmLock ini v => Sys2Proof.Machine.execAlarmLock ini v s
  | .pkeCmdPush ini v => Sys2Proof.Machine.execPkeCmdPush ini v s
  | .pkeHash => Sys2Proof.Machine.execPkeHash s
  | .pkeHmac => Sys2Proof.Machine.execPkeHmac s
  | .pkeKdf => Sys2Proof.Machine.execPkeKdf s
  | .pkeKeygen => Sys2Proof.Machine.execPkeKeygen s
  | .pkePubkey => Sys2Proof.Machine.execPkePubkey s
  | .pkeSign => Sys2Proof.Machine.execPkeSign s
  | .pkeVerify => Sys2Proof.Machine.execPkeVerify s
  | .pkeEcdh => Sys2Proof.Machine.execPkeEcdh s
  | .pkeRandom => Sys2Proof.Machine.execPkeRandom s
  | .pkeReseed => Sys2Proof.Machine.execPkeReseed s
  | .pkeMextend => Sys2Proof.Machine.execPkeMextend s
  | .pkeAttest => Sys2Proof.Machine.execPkeAttest s
  | .pkeSvnset => Sys2Proof.Machine.execPkeSvnset s
  | .pkeRevoke => Sys2Proof.Machine.execPkeRevoke s
  | .pkeResultPop ini => Sys2Proof.Machine.execPkeResultPop ini s
  | .rngRead ini => Sys2Proof.Machine.execRngRead ini s
  | .entropyStartupTest ok => Sys2Proof.Machine.execEntropyStartupTest ok s
  | .healthTestFail => Sys2Proof.Machine.execHealthTestFail s
  | .reseedInterval => Sys2Proof.Machine.execReseedInterval s
  | .imageVerify rom target off => Sys2Proof.Machine.execImageVerify rom target off s
  | .debugChallenge => Sys2Proof.Machine.execDebugChallenge s
  | .debugToken scope challenge pubkey sig => Sys2Proof.Machine.execDebugToken scope challenge pubkey sig s
  | .scrubRead dram => Sys2Proof.Machine.execScrubRead dram s
  | .scrubOverdue dram => Sys2Proof.Machine.execScrubOverdue dram s
  | .backgroundWindowOpen dram => Sys2Proof.Machine.execBackgroundWindowOpen dram s
  | .backgroundWindowClose dram => Sys2Proof.Machine.execBackgroundWindowClose dram s
  | .ceAlarm dram => Sys2Proof.Machine.execCeAlarm dram s
  | .dramRequest arrive chan => Sys2Proof.Machine.execDramRequest arrive chan s
  | .requestPromote k => Sys2Proof.Machine.execRequestPromote k s
  | .dramRefresh chan bank => Sys2Proof.Machine.execDramRefresh chan bank s
  | .mr4Poll codes => Sys2Proof.Machine.execMr4Poll codes s
  | .raaTableClear => Sys2Proof.Machine.execRaaTableClear s
  | .nrefAlarm => Sys2Proof.Machine.execNrefAlarm s
  | .drcTrain ini tag speed => Sys2Proof.Machine.execDrcTrain ini tag speed s
  | .drcRestore ini tag speed => Sys2Proof.Machine.execDrcRestore ini tag speed s
  | .trainStepDone fail mismatch dens ranks => Sys2Proof.Machine.execTrainStepDone fail mismatch dens ranks s
  | .srEnter ini tag speed => Sys2Proof.Machine.execSrEnter ini tag speed s
  | .srExit ini tag speed => Sys2Proof.Machine.execSrExit ini tag speed s
  | .drcStop ini tag speed => Sys2Proof.Machine.execDrcStop ini tag speed s
  | .drcResultPop ini => Sys2Proof.Machine.execDrcResultPop ini s
  | .sridleEnter => Sys2Proof.Machine.execSridleEnter s
  | .dumpUnlock ini v => Sys2Proof.Machine.execDumpUnlock ini v s
  | .injectArm ini dram v => Sys2Proof.Machine.execInjectArm ini dram v s
  | .dictionaryImageLoad => Sys2Proof.Machine.execDictionaryImageLoad s
  | .heldValuesApply => Sys2Proof.Machine.execHeldValuesApply s
  | .hdpPduReceive => Sys2Proof.Machine.execHdpPduReceive s
  | .hdpOpen => Sys2Proof.Machine.execHdpOpen s
  | .hdpAuth => Sys2Proof.Machine.execHdpAuth s
  | .hdpClose => Sys2Proof.Machine.execHdpClose s
  | .hdpPing => Sys2Proof.Machine.execHdpPing s
  | .hdpRead => Sys2Proof.Machine.execHdpRead s
  | .hdpWrite => Sys2Proof.Machine.execHdpWrite s
  | .hdpWriteMulti => Sys2Proof.Machine.execHdpWriteMulti s
  | .hdpInvoke => Sys2Proof.Machine.execHdpInvoke s
  | .hdpDescribe => Sys2Proof.Machine.execHdpDescribe s
  | .hdpSubscribe => Sys2Proof.Machine.execHdpSubscribe s
  | .hdpEventAck => Sys2Proof.Machine.execHdpEventAck s
  | .hdpDigest => Sys2Proof.Machine.execHdpDigest s
  | .hdpReadNet => Sys2Proof.Machine.execHdpReadNet s
  | .mbxinPush ini v => Sys2Proof.Machine.execMbxinPush ini v s
  | .mbxoutPop ini => Sys2Proof.Machine.execMbxoutPop ini s
  | .canSegmentReceive p fd data => Sys2Proof.Machine.execCanSegmentReceive p fd data s
  | .canSegmentTimeout p => Sys2Proof.Machine.execCanSegmentTimeout p s
  | .spiPduWrite len pdu crc => Sys2Proof.Machine.execSpiPduWrite len pdu crc s
  | .spiPduRead => Sys2Proof.Machine.execSpiPduRead s
  | .spiStatusRead => Sys2Proof.Machine.execSpiStatusRead s
  | .fwRequestPop ini c => Sys2Proof.Machine.execFwRequestPop ini c s
  | .fwAnswer ini c v => Sys2Proof.Machine.execFwAnswer ini c v s
  | .fwTimeout => Sys2Proof.Machine.execFwTimeout s
  | .sessionTimeout sid => Sys2Proof.Machine.execSessionTimeout sid s
  | .authLockoutEnd => Sys2Proof.Machine.execAuthLockoutEnd s
  | .subscriptionDeliver => Sys2Proof.Machine.execSubscriptionDeliver s
  | .eventSend sid => Sys2Proof.Machine.execEventSend sid s
  | .eventAckTimeout sid => Sys2Proof.Machine.execEventAckTimeout sid s
  | .statecmd ini v => Sys2Proof.Machine.execStatecmd ini v s
  | .stateAutoChange => Sys2Proof.Machine.execStateAutoChange s
  | .journalCommit fail => Sys2Proof.Machine.execJournalCommit fail s
  | .journalCompact bad => Sys2Proof.Machine.execJournalCompact bad s
  | .digestPull p => Sys2Proof.Machine.execDigestPull p s
  | .pullRetry p => Sys2Proof.Machine.execPullRetry p s
  | .canTxfPush ini p v => Sys2Proof.Machine.execCanTxfPush ini p v s
  | .canFrameSent p => Sys2Proof.Machine.execCanFrameSent p s
  | .canFrameReceive p hdr info data => Sys2Proof.Machine.execCanFrameReceive p hdr info data s
  | .canBusState p code tec rec => Sys2Proof.Machine.execCanBusState p code tec rec s
  | .canRxfPop ini p => Sys2Proof.Machine.execCanRxfPop ini p s
  | .stateReq => Sys2Proof.Machine.execStateReq s
  | .save => Sys2Proof.Machine.execSave s
  | .restart => Sys2Proof.Machine.execRestart s
  | .fallbackClear => Sys2Proof.Machine.execFallbackClear s
  | .attest => Sys2Proof.Machine.execAttest s
  | .keyUnwrap => Sys2Proof.Machine.execKeyUnwrap s
  | .keyLoad => Sys2Proof.Machine.execKeyLoad s
  | .commit => Sys2Proof.Machine.execCommit s
  | .relayCmd => Sys2Proof.Machine.execRelayCmd s
  | .levelCmd => Sys2Proof.Machine.execLevelCmd s
  | .profileStep => Sys2Proof.Machine.execProfileStep s
  | .dapcSend => Sys2Proof.Machine.execDapcSend s
  | .relayFadeOpen => Sys2Proof.Machine.execRelayFadeOpen s
  | .counterCollect => Sys2Proof.Machine.execCounterCollect s
  | .powerOnReset => Sys2Proof.Machine.execPowerOnReset s
  | .resetPin => Sys2Proof.Machine.execResetPin s
  | .coldResetCmd ini key => Sys2Proof.Machine.execColdResetCmd ini key s
  | .warmResetCmd ini key => Sys2Proof.Machine.execWarmResetCmd ini key s
  | .watchdogExpiry => Sys2Proof.Machine.execWatchdogExpiry s
  | .wdtEnable ini v => Sys2Proof.Machine.execWdtEnable ini v s
  | .wdtKick ini v => Sys2Proof.Machine.execWdtKick ini v s
  | .resetRelease rlyNc => Sys2Proof.Machine.execResetRelease rlyNc s
  | .refValid => Sys2Proof.Machine.execRefValid s
  | .sramClearDone flashSize => Sys2Proof.Machine.execSramClearDone flashSize s
  | .recoveryImage d => Sys2Proof.Machine.execRecoveryImage d s
  | .rdyenSet ini v => Sys2Proof.Machine.execRdyenSet ini v s
  | .stepset ini v => Sys2Proof.Machine.execStepset ini v s
  | .stepclr ini v => Sys2Proof.Machine.execStepclr ini v s
  | .clkenWrite ini v => Sys2Proof.Machine.execClkenWrite ini v s
  | .bootTimeout journal status => Sys2Proof.Machine.execBootTimeout journal status s
  | .ledgerWrite data => Sys2Proof.Machine.execLedgerWrite data s
  | .otpcntInc ini v => Sys2Proof.Machine.execOtpcntInc ini v s
  | .otpFuseDone => Sys2Proof.Machine.execOtpFuseDone s
  | .xspiOpPush ini v => Sys2Proof.Machine.execXspiOpPush ini v s
  | .xspiRead => Sys2Proof.Machine.execXspiRead s
  | .xspiProgram => Sys2Proof.Machine.execXspiProgram s
  | .xspiErase => Sys2Proof.Machine.execXspiErase s
  | .xspiRaw => Sys2Proof.Machine.execXspiRaw s
  | .xspiOpDone fail data => Sys2Proof.Machine.execXspiOpDone fail data s
  | .xspiResultPop ini => Sys2Proof.Machine.execXspiResultPop ini s
  | .dumpCopy => Sys2Proof.Machine.execDumpCopy s
  | .sysAccerrPop ini => Sys2Proof.Machine.execSysAccerrPop ini s
  | .supplyOutOfRange k => Sys2Proof.Machine.execSupplyOutOfRange k s
  | .upstreamPoll start queued status data enc => Sys2Proof.Machine.execUpstreamPoll start queued status data enc s
  | .pauseTimeExpiry p => Sys2Proof.Machine.execPauseTimeExpiry p s
  | .supplyBackInRange => Sys2Proof.Machine.execSupplyBackInRange s
  | .netPllRetry locked => Sys2Proof.Machine.execNetPllRetry locked s

end Sys2Proof.Machine
end

