-- ==== Sys2Proof/Machine/Tick.lean ====
section
/-! DEFINITION. What one GTF tick does when no command waits: time passes once the PLLs have locked (R40, R306, R501), and a
relay switch whose arming was aborted is taken again (R520). -/

namespace Sys2Proof.Machine

/-- One tick of GTF, 1 ns. -/
def State.idleTick (s : State) : State := if s.sys.phase < 2 then s else s.tick.ptpTick.relayRetake

end Sys2Proof.Machine
end

