-- ==== Sys2Proof/Safety.lean ====
section
/-! DEFINITION. What a good state is, what a step may not undo, and the frames that statements use. -/

namespace Sys2Proof.Machine

/-- Every sparse table of the state that the bus can reach is in its canonical form: the registers, memory, the flash and
the error codes. -/
def State.Canon (s : State) : Prop :=
  Sparse.wf regDefault s.regs = true ∧ Memory.wf s.mem = true ∧ Sparse.wf ffByte s.flash = true ∧
    Sparse.wf (fun _ => 0) s.ecc = true

/-- The subscription FIFO holds at most 64 entries (R65) and SYS at most 16 denials (R526). -/
def State.Bounded (s : State) : Prop := s.evr.fifo.length ≤ 64 ∧ s.acc.held.length ≤ 16

/-- The invariant of the model: canonical tables and bounded FIFOs. -/
def State.Inv (s : State) : Prop := s.Canon ∧ s.Bounded

/-- What a change of state never does: break the invariant, touch the queue of waiting commands, or use a free value
again. -/
def Keeps (s t : State) : Prop :=
  (s.Inv → t.Inv) ∧ t.pending = s.pending ∧ s.freeCtr ≤ t.freeCtr

/-! ## What statements assume and say of a register access -/

/-- Initiator `i` may write the register at `a` now: the access table, the block's clock and the SYS rule allow it
(R25, R28, R526). -/
abbrev State.MayWrite (s : State) (i : Init) (a : Nat) : Prop :=
  s.accOk i a true = true ∧ s.clockOff a = false ∧ (sysMc5Only a = true → i.val = Ini.MC5)

/-- Initiator `i` may read the register at `a` now (R25, R28). -/
abbrev State.MayRead (s : State) (i : Init) (a : Nat) : Prop := s.accOk i a false = true ∧ s.clockOff a = false

/-- An address of the EVR window, whose registers count and pend occurrences of events (R63, R69). -/
def evrAddr (a : Nat) : Prop := 0x40010000 ≤ a ∧ a < 0x40020000

/-- Every register keeps its value but those of a list, and those of the EVR, which an occurrence of an event updates. -/
def RegsBut (l : List Nat) (s t : State) : Prop := ∀ a, a ∉ l → ¬ evrAddr a → t.reg a = s.reg a

/-- A 32-bit counter that has room counts one. -/
def Counted (a : Nat) (s t : State) : Prop := s.regN a < 0xFFFFFFFF → t.regN a = s.regN a + 1

/-- Every byte of memory keeps its value. -/
def SameBytes (s t : State) : Prop := ∀ a, t.byte a = s.byte a

/-- The parts of the state that a frame speaks of: each a field of `State`. -/
inductive Part where
  | regs | mem | out | gtu | evr | acc | rfc | mdm
  | mpdus | rxmpdus | mpduNum | wlan | pkt | stp | fld | ppe
  | eth | dma | cry | pke | ecc | drc | ode | can0
  | can1 | lum | flash | xspi | sys
  deriving DecidableEq, Repr

/-- A part of the state stands as it stood. -/
def SamePart (p : Part) (s t : State) : Prop :=
  match p with
  | .regs => t.regs = s.regs
  | .mem => t.mem = s.mem
  | .out => t.out = s.out
  | .gtu => t.gtu = s.gtu
  | .evr => t.evr = s.evr
  | .acc => t.acc = s.acc
  | .rfc => t.rfc = s.rfc
  | .mdm => t.mdm = s.mdm
  | .mpdus => t.mpdus = s.mpdus
  | .rxmpdus => t.rxmpdus = s.rxmpdus
  | .mpduNum => t.mpduNum = s.mpduNum
  | .wlan => t.wlan = s.wlan
  | .pkt => t.pkt = s.pkt
  | .stp => t.stp = s.stp
  | .fld => t.fld = s.fld
  | .ppe => t.ppe = s.ppe
  | .eth => t.eth = s.eth
  | .dma => t.dma = s.dma
  | .cry => t.cry = s.cry
  | .pke => t.pke = s.pke
  | .ecc => t.ecc = s.ecc
  | .drc => t.drc = s.drc
  | .ode => t.ode = s.ode
  | .can0 => t.can0 = s.can0
  | .can1 => t.can1 = s.can1
  | .lum => t.lum = s.lum
  | .flash => t.flash = s.flash
  | .xspi => t.xspi = s.xspi
  | .sys => t.sys = s.sys

/-- Every part. -/
def allParts : List Part :=
  [.regs, .mem, .out, .gtu, .evr, .acc, .rfc, .mdm, .mpdus, .rxmpdus, .mpduNum, .wlan, .pkt, .stp, .fld,
    .ppe, .eth, .dma, .cry, .pke, .ecc, .drc, .ode, .can0, .can1, .lum, .flash, .xspi, .sys]

/-- The parts of the state that a command may touch: its own block's, and those of the blocks it reaches by the spec's
rules (an event reaches the EVR, a bus access the access control, a reset everything). -/
def touched (c : Instr) : List Part :=
  match c with
  | .registerWrite _ _ _ | .dmaBurst _ _ _ _ | .dictionaryImageLoad | .heldValuesApply | .hdpPduReceive | .hdpWrite
  | .hdpWriteMulti | .hdpInvoke | .digestPull _ | .pullRetry _ | .restart | .powerOnReset | .resetPin
  | .coldResetCmd _ _ | .warmResetCmd _ _ | .watchdogExpiry | .bootTimeout _ _ =>
    allParts
  | .counterRead _ _ | .scanEnd _ _ | .keyUnwrap =>
    [.regs, .mem, .out, .gtu, .evr, .acc, .rfc, .wlan, .pkt, .stp, .fld, .eth, .cry, .pke, .ecc, .drc, .ode,
      .can0, .can1, .xspi]
  | .memoryAccess _ _ _ | .alarmCondition _ | .debugToken _ _ _ _ =>
    [.regs, .mem, .out, .evr, .cry, .pke, .ecc, .drc, .ode, .can0, .can1]
  | .receiveReserve _ _ =>
    [.regs, .out, .evr, .pkt]
  | .frameStored _ _ =>
    [.regs, .mem, .evr, .mpdus, .rxmpdus, .pkt, .ecc, .drc]
  | .frameForward _ | .portStall _ =>
    [.regs, .evr, .pkt]
  | .creditReturn _ _ =>
    [.regs, .pkt]
  | .readinessSet _ | .readinessClear _ =>
    [.regs, .mem, .evr, .mpdus, .wlan, .fld]
  | .mainsCrossing _ _ | .crossingMissing | .beaconSample _ _ _ =>
    [.regs, .gtu, .evr]
  | .holdEstimateUpdate | .pmapExpire | .eventOccurrence _ | .calOverdue _ | .noiseAlarm _ _ | .rxAnomalyAlarm _ _
  | .notchSuspendChange _ | .notchPlanApply _ | .macDropAlarm _ _ | .scheduleApply | .upHoldEnd | .longListenEnd
  | .longListenRetry | .missAlarm _ | .oddAlarm _ | .linkChange _ _ _ _ | .tailAlarm _ | .redAlarm _
  | .healthTestFail | .scrubOverdue _ | .mr4Poll _ | .canBusState _ _ _ _ =>
    [.regs, .evr]
  | .seed _ | .relearn _ | .hold _ | .resume _ | .gtuFree _ | .pmapCommit _ | .gtuNowRead _ =>
    [.regs, .out, .gtu, .evr, .acc]
  | .bcnValidExpire | .dpdDue _ | .macDrainDone _ | .ptabAgeExpire _ | .fieldDrainDone | .mdioDone _
  | .backgroundWindowOpen _ | .backgroundWindowClose _ | .otpFuseDone =>
    [.regs]
  | .gtuCtrlWrite _ _ | .xlastRead _ | .pendingClear _ _ _ _ | .softwareEvent _ _ | .subscriptionPop _
  | .femtWrite _ _ _ _ | .tsfRead _ _ | .notchArm _ _ _ | .scheduleArm _ _ | .ptabWrite _ _ _ _
  | .ppeCounterRead _ _ _ | .ptpRead _ | .mdioGo _ _ | .poolApply _ _ | .rpoolWrite _ _ _
  | .ringConfigWrite _ _ _ _ _ | .shadowWrite _ _ _ _ | .saddleArm _ _ _ | .chkPreset _ _ _
  | .chkConfigWrite _ _ _ _ | .chkDataFeed _ _ _ _ | .chkInit _ _ _ | .scanGo _ _ | .scanStop _ _ | .alarmClear _ _
  | .alarmLock _ _ | .dumpUnlock _ _ | .injectArm _ _ _ | .rdyenSet _ _ | .otpcntInc _ _ | .sysAccerrPop _ =>
    [.regs, .out, .evr, .acc]
  | .replicaBroadcast | .pinPulseEnd _ =>
    [.gtu]
  | .gcArm _ _ _ | .gcDisarm _ _ _ =>
    [.regs, .out, .gtu, .evr, .acc, .rfc, .dma, .lum, .sys]
  | .gcFire _ =>
    [.regs, .out, .gtu, .evr, .rfc, .dma, .lum, .sys]
  | .eirqPulse _ =>
    [.out, .evr]
  | .rfcCmdPush _ _ _ | .rfcResultPop _ _ =>
    [.regs, .out, .evr, .acc, .rfc]
  | .macPortCommand _ _ | .rfcCal _ | .rfcDpdup _ | .heldDeadline _ | .autocalStart _ | .dpdTimeout _ =>
    [.regs, .evr, .rfc]
  | .rfcSleep _ | .rfcWake _ | .rfcRx _ | .rfcTx _ | .rfcIdle _ | .rfcStandby _ | .rfcAbort _ | .lockLoss _
  | .ppduTxEnd _ _ =>
    [.regs, .out, .evr, .rfc, .mdm]
  | .rfcTune _ | .rfcPrep _ =>
    [.regs, .evr, .rfc, .ecc, .drc]
  | .rfcStore _ | .dpdFitDone _ _ _ _ _ =>
    [.regs, .mem, .evr, .rfc, .ecc, .drc]
  | .rfcTransitionDone _ | .transmitVector _ _ _ | .passRegionStart =>
    [.regs, .evr, .rfc, .mdm]
  | .synthLock _ _ | .calStepDone _ _ _ =>
    [.regs, .mem, .out, .evr, .rfc, .mdm, .ecc, .drc]
  | .calPeriodDue _ | .calTempDue _ _ =>
    [.regs, .rfc]
  | .packetDetect _ _ _ | .fieldCheck _ _ _ _ | .tbReceptionArm _ _ _ | .codewordDecoded _ _ _ _ =>
    [.regs, .mdm]
  | .unsupportedHoldEnd _ | .secondDetection _ _ _ | .clipRestart _ =>
    [.regs, .out, .mdm]
  | .tbWindowEnd _ | .ppduReceiveEnd _ _ =>
    [.regs, .out, .evr, .mdm]
  | .smodeWrite _ _ =>
    [.regs, .out, .evr, .acc, .mdm]
  | .edcaCommit _ _ _ _ =>
    [.regs, .evr, .rfc, .mdm, .mpdus, .stp]
  | .mpduReceive _ _ =>
    [.regs, .mem, .evr, .rxmpdus, .mpduNum, .wlan, .pkt, .stp]
  | .controlResponse _ _ _ | .spiStatusRead =>
    [.out]
  | .beaconTbtt _ =>
    [.wlan]
  | .beaconDrop _ _ | .notchFlagExpire _ _ | .bssStart _ | .linkAdd _ | .baAdd _ | .twtSet _ | .twtDel _
  | .meshStart _ =>
    [.regs, .evr, .wlan]
  | .beaconCommit _ _ _ =>
    [.regs, .out, .evr, .rfc, .mdm, .wlan]
  | .wifiBeaconReceive _ _ =>
    [.regs, .gtu, .evr, .wlan, .ode]
  | .mpduLifetimeDrop _ =>
    [.regs, .mem, .mpdus]
  | .reorderTimeout _ _ _ | .bssStop _ | .linkDel _ | .baDel _ | .meshStop _ =>
    [.regs, .evr, .rxmpdus, .wlan]
  | .mpduMove _ =>
    [.regs, .mem, .mpdus, .mpduNum, .wlan, .pkt]
  | .twtSlipCheck _ _ _ =>
    [.regs, .out, .evr, .wlan]
  | .dlMuPpdu _ _ =>
    [.regs, .mem, .evr, .rfc, .mdm, .mpdus, .stp]
  | .triggerSend _ _ =>
    [.regs, .out, .evr, .rfc, .mdm, .stp]
  | .sounding _ _ =>
    [.regs, .wlan, .pkt]
  | .macCmdPush _ _ _ | .macResultPop _ _ =>
    [.regs, .out, .evr, .acc, .wlan]
  | .stpCmdPush _ _ | .stpResultPop _ =>
    [.regs, .out, .evr, .acc, .stp]
  | .stpRun | .stpStop | .clAdd | .clDel | .clWord | .clSusp | .clResume | .twtPlace | .twtFree | .driftReset
  | .spWindowEnd _ =>
    [.regs, .mem, .evr, .stp]
  | .stageMpdu _ | .tmgSelect =>
    [.regs, .mem, .evr, .mpdus, .mpduNum, .pkt]
  | .exchangeResult _ _ _ =>
    [.regs, .mem, .evr, .mpdus, .wlan, .ecc, .drc]
  | .planRequest _ _ _ _ _ | .spDecisionStart _ _ _ _ _ =>
    [.regs, .mem, .out, .pkt, .stp]
  | .planDiscard _ =>
    [.regs, .pkt, .stp]
  | .decisionOverrun _ _ _ =>
    [.regs, .out, .evr, .pkt, .stp]
  | .driftSample _ _ _ | .listenEnd _ =>
    [.regs, .mem, .evr]
  | .stpPendWrite _ _ =>
    [.regs, .mem, .out, .evr, .acc]
  | .superframeStart | .release | .dlStage | .dlCancel =>
    [.regs, .mem, .evr, .pkt, .fld]
  | .ownerMapBuild | .dwellBinRoll _ =>
    [.fld]
  | .fieldBeaconCommit | .upstreamPoll _ _ _ _ _ =>
    [.regs, .out, .evr, .rfc, .mdm, .fld]
  | .fieldFrameReceive _ =>
    [.regs, .mem, .gtu, .evr, .pkt, .fld, .ode]
  | .fieldResponse =>
    [.regs, .mem, .out, .evr, .rfc, .mdm, .fld]
  | .pollWindowEnd _ | .assign | .keyset =>
    [.regs, .mem, .evr, .fld]
  | .valleyStart =>
    [.regs, .evr, .rfc, .fld]
  | .upBeaconListenEnd | .sfStart | .sfStop | .upAttach | .upDetach =>
    [.regs, .evr, .fld]
  | .fmacCmdPush _ _ | .fmacResultPop _ =>
    [.regs, .out, .evr, .acc, .fld]
  | .packetClassify | .espResult =>
    [.regs, .mem, .evr, .pkt, .ppe, .cry, .ecc, .drc]
  | .rewriteUnitsGrant =>
    [.regs, .mem, .evr, .pkt, .ppe]
  | .legacyReorderRelease =>
    [.regs, .pkt, .ppe]
  | .pipeTabWrite _ _ _ | .fenceStart _ _ | .updWrite _ _ _ | .updClear _ _ _ | .updHash _ _ _ =>
    [.regs, .out, .evr, .acc, .ppe]
  | .pipeTabApply | .fenceDone =>
    [.regs, .ppe]
  | .updComplete =>
    [.regs, .mem, .evr, .ppe]
  | .ethFrameReceive _ _ _ _ | .enqueue | .qCreate | .qDelete | .qSet | .qMove | .qStart | .qStop | .qFlush
  | .sampleRound =>
    [.regs, .mem, .evr, .pkt]
  | .ethFrameTransmit _ _ _ =>
    [.regs, .out, .evr, .pkt, .eth, .ecc, .drc]
  | .pauseReceive _ _ | .pauseTimeExpiry _ =>
    [.pkt]
  | .pauseRepeat _ =>
    [.out, .pkt]
  | .ptpStep _ _ | .txtsPop _ _ =>
    [.regs, .out, .evr, .acc, .eth]
  | .qmgFree _ _ | .qmgCmdPush _ _ | .qmgResultPop _ =>
    [.regs, .out, .evr, .acc, .pkt]
  | .doorbell _ _ _ =>
    [.regs, .out, .evr, .acc, .dma]
  | .descriptorFetch _ _ =>
    [.regs, .evr, .dma, .ecc, .drc]
  | .descriptorComplete _ _ =>
    [.regs, .mem, .evr, .dma, .ecc, .drc]
  | .dmaTriggerStrobe _ _ | .injectUnitsGrant _ | .saddle _ =>
    [.regs, .evr, .dma]
  | .dmaEnable _ _ | .dmaStart _ _ | .dmaPause _ _ | .dmaResume _ _ | .dmaStop _ _ | .dmaAbort _ _ | .dmaClear _ _ =>
    [.regs, .mem, .out, .evr, .acc, .dma, .ecc, .drc]
  | .pageDoorbell _ _ _ | .cryKeyResultPop _ | .pageResultPop _ _ =>
    [.regs, .out, .evr, .acc, .cry]
  | .cryDescriptorFetch _ =>
    [.regs, .mem, .evr, .cry, .ecc, .drc]
  | .inlineOperation _ _ =>
    [.regs, .out, .cry]
  | .coreAssign =>
    [.regs, .mem, .out, .evr, .cry]
  | .cryOperationComplete _ | .eraseComplete _ =>
    [.regs, .mem, .out, .evr, .cry, .ecc, .drc]
  | .cryLoad _ _ _ | .cryUnwrap _ _ _ | .cryGen _ _ _ | .cryExport _ _ _ | .cryErase _ _ _ | .cryAttr _ _ _
  | .cryInfo _ _ _ | .pageEnable _ _ _ | .pageStop _ _ _ | .pageClear _ _ _ | .ctxSave _ _ _ _
  | .ctxRestore _ _ _ _ | .ctxDrop _ _ _ _ =>
    [.regs, .mem, .out, .evr, .acc, .cry, .pke, .ecc, .drc]
  | .saLoad _ _ _ | .saErase _ _ _ | .saRead _ _ _ =>
    [.regs, .mem, .out, .evr, .acc, .cry, .ecc, .drc]
  | .alarmEraseDone =>
    [.regs, .evr, .cry, .pke]
  | .pkeCmdPush _ _ | .pkeResultPop _ | .rngRead _ =>
    [.regs, .out, .evr, .acc, .pke]
  | .pkeHash | .pkeHmac | .pkePubkey | .pkeSign | .pkeRandom | .pkeAttest =>
    [.regs, .mem, .evr, .pke, .ecc, .drc]
  | .pkeKdf | .pkeEcdh =>
    [.regs, .evr, .cry, .pke, .ecc, .drc]
  | .pkeKeygen =>
    [.regs, .mem, .evr, .cry, .pke, .ecc, .drc]
  | .pkeVerify | .pkeReseed | .pkeMextend | .pkeSvnset | .pkeRevoke =>
    [.regs, .evr, .pke, .ecc, .drc]
  | .entropyStartupTest _ =>
    [.regs, .evr, .cry, .pke, .sys]
  | .reseedInterval =>
    [.regs, .pke]
  | .imageVerify _ _ _ =>
    [.regs, .mem, .out, .evr, .pke, .ecc, .drc]
  | .debugChallenge =>
    [.regs, .out, .pke]
  | .scrubRead _ =>
    [.regs, .evr, .ecc, .drc]
  | .ceAlarm _ | .nrefAlarm =>
    [.regs, .evr, .drc]
  | .dramRequest _ _ =>
    [.regs, .out, .evr, .drc]
  | .requestPromote _ =>
    [.regs, .drc]
  | .dramRefresh _ _ | .raaTableClear =>
    [.drc]
  | .drcTrain _ _ _ | .drcRestore _ _ _ | .srEnter _ _ _ | .srExit _ _ _ | .drcStop _ _ _ =>
    [.regs, .mem, .out, .evr, .acc, .ecc, .drc]
  | .trainStepDone _ _ _ _ =>
    [.regs, .mem, .evr, .ecc, .drc, .sys]
  | .drcResultPop _ =>
    [.regs, .out, .evr, .acc, .drc]
  | .sridleEnter =>
    [.regs, .mem, .evr, .ecc, .drc]
  | .hdpOpen | .hdpRead | .hdpDigest | .hdpReadNet | .fwTimeout | .statecmd _ _ | .stateAutoChange | .stateReq
  | .save | .attest | .keyLoad | .commit | .counterCollect =>
    [.regs, .out, .gtu, .evr, .acc, .rfc, .wlan, .pkt, .stp, .fld, .eth, .cry, .pke, .drc, .ode, .can0, .can1,
      .xspi]
  | .hdpAuth | .hdpClose | .hdpPing | .hdpDescribe | .hdpSubscribe | .hdpEventAck | .eventAckTimeout _ =>
    [.regs, .evr, .ode, .can0, .can1]
  | .mbxinPush _ _ =>
    [.regs, .out, .evr, .acc, .ecc, .drc, .ode]
  | .mbxoutPop _ | .fwRequestPop _ _ =>
    [.regs, .mem, .out, .evr, .acc, .ecc, .drc, .ode]
  | .canSegmentReceive _ _ _ | .canSegmentTimeout _ | .sessionTimeout _ =>
    [.regs, .ode]
  | .spiPduWrite _ _ _ | .subscriptionDeliver =>
    [.regs, .evr, .ode]
  | .spiPduRead =>
    [.out, .ode]
  | .fwAnswer _ _ _ =>
    [.regs, .out, .gtu, .evr, .acc, .rfc, .wlan, .pkt, .stp, .fld, .eth, .cry, .pke, .ecc, .drc, .ode, .can0,
      .can1, .xspi]
  | .authLockoutEnd =>
    [.ode]
  | .eventSend _ =>
    [.regs, .ode, .can0, .can1]
  | .journalCommit _ =>
    [.regs, .ode, .flash]
  | .journalCompact _ | .fallbackClear =>
    [.regs, .out, .gtu, .evr, .acc, .rfc, .wlan, .pkt, .stp, .fld, .eth, .cry, .pke, .drc, .ode, .can0, .can1,
      .flash, .xspi]
  | .canTxfPush _ _ _ | .canRxfPop _ _ =>
    [.regs, .out, .evr, .acc, .can0, .can1]
  | .canFrameSent _ =>
    [.regs, .out, .can0, .can1]
  | .canFrameReceive _ _ _ _ =>
    [.regs, .can0, .can1]
  | .relayCmd | .levelCmd =>
    [.regs, .out, .gtu, .evr, .acc, .rfc, .wlan, .pkt, .stp, .fld, .eth, .dma, .cry, .pke, .drc, .ode, .can0,
      .can1, .lum, .xspi, .sys]
  | .profileStep | .relayFadeOpen =>
    [.regs, .out, .gtu, .evr, .acc, .rfc, .wlan, .pkt, .stp, .fld, .eth, .dma, .cry, .pke, .drc, .can0, .can1,
      .lum, .xspi, .sys]
  | .dapcSend =>
    [.out, .lum]
  | .wdtEnable _ _ | .wdtKick _ _ =>
    [.regs, .out, .evr, .acc, .sys]
  | .resetRelease _ | .supplyBackInRange =>
    [.sys]
  | .refValid | .netPllRetry _ =>
    [.regs, .mem, .evr, .mpdus, .wlan, .fld, .sys]
  | .sramClearDone _ =>
    [.regs, .mem, .evr, .mpdus, .wlan, .fld, .pke, .ecc, .drc, .xspi, .sys]
  | .recoveryImage _ =>
    [.regs, .mem, .evr, .pke, .ecc, .drc, .sys]
  | .stepset _ _ | .stepclr _ _ | .clkenWrite _ _ =>
    [.regs, .mem, .out, .evr, .acc, .mpdus, .wlan, .fld]
  | .ledgerWrite _ =>
    [.regs, .flash]
  | .xspiOpPush _ _ | .xspiResultPop _ =>
    [.regs, .out, .evr, .acc, .xspi]
  | .xspiRead | .xspiProgram | .xspiErase | .xspiRaw =>
    [.regs, .xspi]
  | .xspiOpDone _ _ =>
    [.regs, .mem, .evr, .ecc, .drc, .flash, .xspi]
  | .dumpCopy =>
    [.regs, .mem, .out, .evr, .ecc, .drc, .flash, .sys]
  | .supplyOutOfRange _ =>
    [.regs, .evr, .sys]

/-- Memory and the external flash stand as they stood. -/
def Quiet (s t : State) : Prop := t.mem = s.mem ∧ t.flash = s.flash

/-- A command answers a next state, and that state has a property. -/
def Runs (c : Instr) (s : State) (P : State → Prop) : Prop := ∃ t, exec c s = .next t ∧ P t

end Sys2Proof.Machine
end

