-- ==== Sys2Proof/WellFormed.lean ====
section
/-! DEFINITION. What a well-formed command is: the bounds on its operands that the types of Instr do not already state. -/

namespace Sys2Proof

/-- Addresses are below 2^36: the map ends with the DRAM window at 0xB_FFFF_FFFF (R22). -/
def addrSpace : Nat := 2 ^ 36

/-- A memory access moves at least one byte and stays in the address space (R22, R413). -/
def MemOp.wf (a : Nat) : MemOp → Bool
  | .read len => decide (0 < len ∧ a + len ≤ addrSpace)
  | .write data => decide (0 < data.length ∧ a + data.length ≤ addrSpace)

/-- A command is well formed: an address lies in the address space; an access moves and a reservation asks for something
(R15, R413); a TB reception has users and a reception has a status block (R120, R124); a sounding names at most 8 users
(R166); a tag has at most 16 bytes (R391); a token has its challenge, key and signature whole (R407); a CAN frame has at
most 64 bytes (R459, R474); a digest has 48 bytes (R467); a ledger record has 7 to 39 words (R512). -/
def Instr.wf : Instr → Bool
  | .registerWrite _ a _ => decide (a < addrSpace)
  | .counterRead _ a => decide (a < addrSpace)
  | .memoryAccess _ a op => op.wf a.toNat
  | .receiveReserve _ len => decide (0 < len)
  | .frameStored _ _ => true
  | .frameForward _ => true
  | .creditReturn _ a => decide (a < addrSpace)
  | .readinessSet _ => true
  | .readinessClear _ => true
  | .mainsCrossing _ _ => true
  | .crossingMissing => true
  | .holdEstimateUpdate => true
  | .beaconSample _ _ _ => true
  | .seed _ => true
  | .relearn _ => true
  | .hold _ => true
  | .resume _ => true
  | .gtuFree _ => true
  | .pmapCommit _ => true
  | .pmapExpire => true
  | .bcnValidExpire => true
  | .gtuCtrlWrite _ _ => true
  | .gtuNowRead _ => true
  | .xlastRead _ => true
  | .replicaBroadcast => true
  | .gcArm _ _ _ => true
  | .gcDisarm _ _ _ => true
  | .gcFire _ => true
  | .pinPulseEnd _ => true
  | .eventOccurrence _ => true
  | .eirqPulse _ => true
  | .pendingClear _ _ _ _ => true
  | .softwareEvent _ _ => true
  | .subscriptionPop _ => true
  | .rfcCmdPush _ _ _ => true
  | .macPortCommand _ _ => true
  | .rfcSleep _ => true
  | .rfcWake _ => true
  | .rfcTune _ => true
  | .rfcPrep _ => true
  | .rfcRx _ => true
  | .rfcTx _ => true
  | .rfcIdle _ => true
  | .rfcStandby _ => true
  | .rfcCal _ => true
  | .rfcDpdup _ => true
  | .rfcAbort _ => true
  | .rfcStore _ => true
  | .rfcTransitionDone _ => true
  | .synthLock _ _ => true
  | .lockLoss _ => true
  | .heldDeadline _ => true
  | .calStepDone _ _ _ => true
  | .calPeriodDue _ => true
  | .calTempDue _ _ => true
  | .calOverdue _ => true
  | .autocalStart _ => true
  | .dpdFitDone _ _ _ _ _ => true
  | .dpdTimeout _ => true
  | .dpdDue _ => true
  | .femtWrite _ _ _ _ => true
  | .rfcResultPop _ _ => true
  | .packetDetect _ _ _ => true
  | .fieldCheck _ _ _ _ => true
  | .unsupportedHoldEnd _ => true
  | .secondDetection _ _ _ => true
  | .clipRestart _ => true
  | .tbReceptionArm _ users _ => !users.isEmpty
  | .tbWindowEnd _ => true
  | .codewordDecoded _ _ _ _ => true
  | .ppduReceiveEnd _ blocks => !blocks.isEmpty
  | .transmitVector _ _ _ => true
  | .ppduTxEnd _ _ => true
  | .smodeWrite _ _ => true
  | .noiseAlarm _ _ => true
  | .rxAnomalyAlarm _ _ => true
  | .edcaCommit _ _ _ _ => true
  | .mpduReceive _ _ => true
  | .controlResponse _ _ _ => true
  | .beaconTbtt _ => true
  | .beaconDrop _ _ => true
  | .beaconCommit _ _ _ => true
  | .tsfRead _ _ => true
  | .wifiBeaconReceive _ _ => true
  | .notchFlagExpire _ _ => true
  | .mpduLifetimeDrop _ => true
  | .reorderTimeout _ _ _ => true
  | .mpduMove _ => true
  | .twtSlipCheck _ _ _ => true
  | .dlMuPpdu _ _ => true
  | .triggerSend _ _ => true
  | .sounding _ sets => decide (sets.length ≤ 8)
  | .notchSuspendChange _ => true
  | .notchArm _ _ _ => true
  | .notchPlanApply _ => true
  | .macCmdPush _ _ _ => true
  | .bssStart _ => true
  | .bssStop _ => true
  | .linkAdd _ => true
  | .linkDel _ => true
  | .baAdd _ => true
  | .baDel _ => true
  | .twtSet _ => true
  | .twtDel _ => true
  | .meshStart _ => true
  | .meshStop _ => true
  | .macDrainDone _ => true
  | .macResultPop _ _ => true
  | .macDropAlarm _ _ => true
  | .stpCmdPush _ _ => true
  | .stpRun => true
  | .stpStop => true
  | .clAdd => true
  | .clDel => true
  | .clWord => true
  | .clSusp => true
  | .clResume => true
  | .twtPlace => true
  | .twtFree => true
  | .driftReset => true
  | .stageMpdu _ => true
  | .exchangeResult _ _ _ => true
  | .planRequest _ _ _ _ _ => true
  | .spDecisionStart _ _ _ _ _ => true
  | .planDiscard _ => true
  | .decisionOverrun _ _ _ => true
  | .driftSample _ _ _ => true
  | .spWindowEnd _ => true
  | .listenEnd _ => true
  | .stpPendWrite _ _ => true
  | .stpResultPop _ => true
  | .superframeStart => true
  | .scheduleArm _ _ => true
  | .scheduleApply => true
  | .ownerMapBuild => true
  | .fieldBeaconCommit => true
  | .fieldFrameReceive _ => true
  | .fieldResponse => true
  | .pollWindowEnd _ => true
  | .passRegionStart => true
  | .valleyStart => true
  | .upBeaconListenEnd => true
  | .upHoldEnd => true
  | .longListenEnd => true
  | .longListenRetry => true
  | .ptabAgeExpire _ => true
  | .ptabWrite _ _ _ _ => true
  | .dwellBinRoll _ => true
  | .fmacCmdPush _ _ => true
  | .sfStart => true
  | .sfStop => true
  | .upAttach => true
  | .upDetach => true
  | .assign => true
  | .release => true
  | .dlStage => true
  | .dlCancel => true
  | .keyset => true
  | .fieldDrainDone => true
  | .fmacResultPop _ => true
  | .packetClassify => true
  | .espResult => true
  | .rewriteUnitsGrant => true
  | .legacyReorderRelease => true
  | .pipeTabWrite _ _ _ => true
  | .pipeTabApply => true
  | .fenceStart _ _ => true
  | .fenceDone => true
  | .updWrite _ _ _ => true
  | .updClear _ _ _ => true
  | .updHash _ _ _ => true
  | .updComplete => true
  | .missAlarm _ => true
  | .oddAlarm _ => true
  | .ppeCounterRead _ _ _ => true
  | .ethFrameReceive _ _ _ _ => true
  | .ethFrameTransmit _ _ _ => true
  | .pauseReceive _ _ => true
  | .pauseRepeat _ => true
  | .linkChange _ _ _ _ => true
  | .ptpRead _ => true
  | .ptpStep _ _ => true
  | .txtsPop _ _ => true
  | .mdioGo _ _ => true
  | .mdioDone _ => true
  | .enqueue => true
  | .poolApply _ _ => true
  | .rpoolWrite _ _ _ => true
  | .qmgFree _ _ => true
  | .qmgCmdPush _ _ => true
  | .qCreate => true
  | .qDelete => true
  | .qSet => true
  | .qMove => true
  | .qStart => true
  | .qStop => true
  | .qFlush => true
  | .qmgResultPop _ => true
  | .tmgSelect => true
  | .sampleRound => true
  | .ringConfigWrite _ _ _ _ _ => true
  | .portStall _ => true
  | .tailAlarm _ => true
  | .redAlarm _ => true
  | .doorbell _ _ _ => true
  | .descriptorFetch _ _ => true
  | .dmaBurst _ _ _ _ => true
  | .descriptorComplete _ _ => true
  | .dmaTriggerStrobe _ _ => true
  | .dmaEnable _ _ => true
  | .dmaStart _ _ => true
  | .dmaPause _ _ => true
  | .dmaResume _ _ => true
  | .dmaStop _ _ => true
  | .dmaAbort _ _ => true
  | .dmaClear _ _ => true
  | .injectUnitsGrant _ => true
  | .shadowWrite _ _ _ _ => true
  | .saddleArm _ _ _ => true
  | .saddle _ => true
  | .chkPreset _ _ _ => true
  | .chkConfigWrite _ _ _ _ => true
  | .chkDataFeed _ _ _ _ => true
  | .chkInit _ _ _ => true
  | .scanGo _ _ => true
  | .scanStop _ _ => true
  | .scanEnd _ _ => true
  | .pageDoorbell _ _ _ => true
  | .cryDescriptorFetch _ => true
  | .inlineOperation _ op => decide (op.tagLen ≤ 16)
  | .coreAssign => true
  | .cryOperationComplete _ => true
  | .cryLoad _ _ _ => true
  | .cryUnwrap _ _ _ => true
  | .cryGen _ _ _ => true
  | .cryExport _ _ _ => true
  | .cryErase _ _ _ => true
  | .eraseComplete _ => true
  | .cryAttr _ _ _ => true
  | .cryInfo _ _ _ => true
  | .cryKeyResultPop _ => true
  | .pageEnable _ _ _ => true
  | .pageStop _ _ _ => true
  | .pageClear _ _ _ => true
  | .ctxSave _ _ _ _ => true
  | .ctxRestore _ _ _ _ => true
  | .ctxDrop _ _ _ _ => true
  | .pageResultPop _ _ => true
  | .saLoad _ _ _ => true
  | .saErase _ _ _ => true
  | .saRead _ _ _ => true
  | .alarmCondition _ => true
  | .alarmEraseDone => true
  | .alarmClear _ _ => true
  | .alarmLock _ _ => true
  | .pkeCmdPush _ _ => true
  | .pkeHash => true
  | .pkeHmac => true
  | .pkeKdf => true
  | .pkeKeygen => true
  | .pkePubkey => true
  | .pkeSign => true
  | .pkeVerify => true
  | .pkeEcdh => true
  | .pkeRandom => true
  | .pkeReseed => true
  | .pkeMextend => true
  | .pkeAttest => true
  | .pkeSvnset => true
  | .pkeRevoke => true
  | .pkeResultPop _ => true
  | .rngRead _ => true
  | .entropyStartupTest _ => true
  | .healthTestFail => true
  | .reseedInterval => true
  | .imageVerify _ _ off => decide (off < addrSpace)
  | .debugChallenge => true
  | .debugToken _ challenge pubkey sig => decide (challenge.length = 32 ∧ pubkey.length = 96 ∧ sig.length = 96)
  | .scrubRead _ => true
  | .scrubOverdue _ => true
  | .backgroundWindowOpen _ => true
  | .backgroundWindowClose _ => true
  | .ceAlarm _ => true
  | .dramRequest _ _ => true
  | .requestPromote _ => true
  | .dramRefresh _ _ => true
  | .mr4Poll _ => true
  | .raaTableClear => true
  | .nrefAlarm => true
  | .drcTrain _ _ _ => true
  | .drcRestore _ _ _ => true
  | .trainStepDone _ _ _ _ => true
  | .srEnter _ _ _ => true
  | .srExit _ _ _ => true
  | .drcStop _ _ _ => true
  | .drcResultPop _ => true
  | .sridleEnter => true
  | .dumpUnlock _ _ => true
  | .injectArm _ _ _ => true
  | .dictionaryImageLoad => true
  | .heldValuesApply => true
  | .hdpPduReceive => true
  | .hdpOpen => true
  | .hdpAuth => true
  | .hdpClose => true
  | .hdpPing => true
  | .hdpRead => true
  | .hdpWrite => true
  | .hdpWriteMulti => true
  | .hdpInvoke => true
  | .hdpDescribe => true
  | .hdpSubscribe => true
  | .hdpEventAck => true
  | .hdpDigest => true
  | .hdpReadNet => true
  | .mbxinPush _ _ => true
  | .mbxoutPop _ => true
  | .canSegmentReceive _ _ data => decide (data.length ≤ 64)
  | .canSegmentTimeout _ => true
  | .spiPduWrite _ _ _ => true
  | .spiPduRead => true
  | .spiStatusRead => true
  | .fwRequestPop _ _ => true
  | .fwAnswer _ _ _ => true
  | .fwTimeout => true
  | .sessionTimeout _ => true
  | .authLockoutEnd => true
  | .subscriptionDeliver => true
  | .eventSend _ => true
  | .eventAckTimeout _ => true
  | .statecmd _ _ => true
  | .stateAutoChange => true
  | .journalCommit _ => true
  | .journalCompact _ => true
  | .digestPull p => decide (p.digest.length = 48)
  | .pullRetry p => decide (p.digest.length = 48)
  | .canTxfPush _ _ _ => true
  | .canFrameSent _ => true
  | .canFrameReceive _ _ _ data => decide (data.length ≤ 64)
  | .canBusState _ _ _ _ => true
  | .canRxfPop _ _ => true
  | .stateReq => true
  | .save => true
  | .restart => true
  | .fallbackClear => true
  | .attest => true
  | .keyUnwrap => true
  | .keyLoad => true
  | .commit => true
  | .relayCmd => true
  | .levelCmd => true
  | .profileStep => true
  | .dapcSend => true
  | .relayFadeOpen => true
  | .counterCollect => true
  | .powerOnReset => true
  | .resetPin => true
  | .coldResetCmd _ _ => true
  | .warmResetCmd _ _ => true
  | .watchdogExpiry => true
  | .wdtEnable _ _ => true
  | .wdtKick _ _ => true
  | .resetRelease _ => true
  | .refValid => true
  | .sramClearDone _ => true
  | .recoveryImage _ => true
  | .rdyenSet _ _ => true
  | .stepset _ _ => true
  | .stepclr _ _ => true
  | .clkenWrite _ _ => true
  | .bootTimeout _ _ => true
  | .ledgerWrite data => decide (7 ≤ data.length ∧ data.length ≤ 39)
  | .otpcntInc _ _ => true
  | .otpFuseDone => true
  | .xspiOpPush _ _ => true
  | .xspiRead => true
  | .xspiProgram => true
  | .xspiErase => true
  | .xspiRaw => true
  | .xspiOpDone _ _ => true
  | .xspiResultPop _ => true
  | .dumpCopy => true
  | .sysAccerrPop _ => true
  | .supplyOutOfRange _ => true
  | .upstreamPoll _ _ _ _ _ => true
  | .pauseTimeExpiry _ => true
  | .supplyBackInRange => true
  | .netPllRetry _ => true

/-- The address that a command names among its operands; 0 where it names none. -/
def Instr.addr : Instr → Nat
  | .registerWrite _ a _ => a
  | .counterRead _ a => a
  | .memoryAccess _ a _ => a.toNat
  | .receiveReserve _ _ => 0
  | .frameStored _ _ => 0
  | .frameForward _ => 0
  | .creditReturn _ a => a
  | .readinessSet _ => 0
  | .readinessClear _ => 0
  | .mainsCrossing _ _ => 0
  | .crossingMissing => 0
  | .holdEstimateUpdate => 0
  | .beaconSample _ _ _ => 0
  | .seed _ => 0
  | .relearn _ => 0
  | .hold _ => 0
  | .resume _ => 0
  | .gtuFree _ => 0
  | .pmapCommit _ => 0
  | .pmapExpire => 0
  | .bcnValidExpire => 0
  | .gtuCtrlWrite _ _ => 0
  | .gtuNowRead _ => 0
  | .xlastRead _ => 0
  | .replicaBroadcast => 0
  | .gcArm _ _ _ => 0
  | .gcDisarm _ _ _ => 0
  | .gcFire _ => 0
  | .pinPulseEnd _ => 0
  | .eventOccurrence _ => 0
  | .eirqPulse _ => 0
  | .pendingClear _ _ _ _ => 0
  | .softwareEvent _ _ => 0
  | .subscriptionPop _ => 0
  | .rfcCmdPush _ _ _ => 0
  | .macPortCommand _ _ => 0
  | .rfcSleep _ => 0
  | .rfcWake _ => 0
  | .rfcTune _ => 0
  | .rfcPrep _ => 0
  | .rfcRx _ => 0
  | .rfcTx _ => 0
  | .rfcIdle _ => 0
  | .rfcStandby _ => 0
  | .rfcCal _ => 0
  | .rfcDpdup _ => 0
  | .rfcAbort _ => 0
  | .rfcStore _ => 0
  | .rfcTransitionDone _ => 0
  | .synthLock _ _ => 0
  | .lockLoss _ => 0
  | .heldDeadline _ => 0
  | .calStepDone _ _ _ => 0
  | .calPeriodDue _ => 0
  | .calTempDue _ _ => 0
  | .calOverdue _ => 0
  | .autocalStart _ => 0
  | .dpdFitDone _ _ _ _ _ => 0
  | .dpdTimeout _ => 0
  | .dpdDue _ => 0
  | .femtWrite _ _ _ _ => 0
  | .rfcResultPop _ _ => 0
  | .packetDetect _ _ _ => 0
  | .fieldCheck _ _ _ _ => 0
  | .unsupportedHoldEnd _ => 0
  | .secondDetection _ _ _ => 0
  | .clipRestart _ => 0
  | .tbReceptionArm _ _ _ => 0
  | .tbWindowEnd _ => 0
  | .codewordDecoded _ _ _ _ => 0
  | .ppduReceiveEnd _ _ => 0
  | .transmitVector _ _ _ => 0
  | .ppduTxEnd _ _ => 0
  | .smodeWrite _ _ => 0
  | .noiseAlarm _ _ => 0
  | .rxAnomalyAlarm _ _ => 0
  | .edcaCommit _ _ _ _ => 0
  | .mpduReceive _ _ => 0
  | .controlResponse _ _ _ => 0
  | .beaconTbtt _ => 0
  | .beaconDrop _ _ => 0
  | .beaconCommit _ _ _ => 0
  | .tsfRead _ _ => 0
  | .wifiBeaconReceive _ _ => 0
  | .notchFlagExpire _ _ => 0
  | .mpduLifetimeDrop _ => 0
  | .reorderTimeout _ _ _ => 0
  | .mpduMove _ => 0
  | .twtSlipCheck _ _ _ => 0
  | .dlMuPpdu _ _ => 0
  | .triggerSend _ _ => 0
  | .sounding _ _ => 0
  | .notchSuspendChange _ => 0
  | .notchArm _ _ _ => 0
  | .notchPlanApply _ => 0
  | .macCmdPush _ _ _ => 0
  | .bssStart _ => 0
  | .bssStop _ => 0
  | .linkAdd _ => 0
  | .linkDel _ => 0
  | .baAdd _ => 0
  | .baDel _ => 0
  | .twtSet _ => 0
  | .twtDel _ => 0
  | .meshStart _ => 0
  | .meshStop _ => 0
  | .macDrainDone _ => 0
  | .macResultPop _ _ => 0
  | .macDropAlarm _ _ => 0
  | .stpCmdPush _ _ => 0
  | .stpRun => 0
  | .stpStop => 0
  | .clAdd => 0
  | .clDel => 0
  | .clWord => 0
  | .clSusp => 0
  | .clResume => 0
  | .twtPlace => 0
  | .twtFree => 0
  | .driftReset => 0
  | .stageMpdu _ => 0
  | .exchangeResult _ _ _ => 0
  | .planRequest _ _ _ _ _ => 0
  | .spDecisionStart _ _ _ _ _ => 0
  | .planDiscard _ => 0
  | .decisionOverrun _ _ _ => 0
  | .driftSample _ _ _ => 0
  | .spWindowEnd _ => 0
  | .listenEnd _ => 0
  | .stpPendWrite _ _ => 0
  | .stpResultPop _ => 0
  | .superframeStart => 0
  | .scheduleArm _ _ => 0
  | .scheduleApply => 0
  | .ownerMapBuild => 0
  | .fieldBeaconCommit => 0
  | .fieldFrameReceive _ => 0
  | .fieldResponse => 0
  | .pollWindowEnd _ => 0
  | .passRegionStart => 0
  | .valleyStart => 0
  | .upBeaconListenEnd => 0
  | .upHoldEnd => 0
  | .longListenEnd => 0
  | .longListenRetry => 0
  | .ptabAgeExpire _ => 0
  | .ptabWrite _ _ _ _ => 0
  | .dwellBinRoll _ => 0
  | .fmacCmdPush _ _ => 0
  | .sfStart => 0
  | .sfStop => 0
  | .upAttach => 0
  | .upDetach => 0
  | .assign => 0
  | .release => 0
  | .dlStage => 0
  | .dlCancel => 0
  | .keyset => 0
  | .fieldDrainDone => 0
  | .fmacResultPop _ => 0
  | .packetClassify => 0
  | .espResult => 0
  | .rewriteUnitsGrant => 0
  | .legacyReorderRelease => 0
  | .pipeTabWrite _ _ _ => 0
  | .pipeTabApply => 0
  | .fenceStart _ _ => 0
  | .fenceDone => 0
  | .updWrite _ _ _ => 0
  | .updClear _ _ _ => 0
  | .updHash _ _ _ => 0
  | .updComplete => 0
  | .missAlarm _ => 0
  | .oddAlarm _ => 0
  | .ppeCounterRead _ _ _ => 0
  | .ethFrameReceive _ _ _ _ => 0
  | .ethFrameTransmit _ _ _ => 0
  | .pauseReceive _ _ => 0
  | .pauseRepeat _ => 0
  | .linkChange _ _ _ _ => 0
  | .ptpRead _ => 0
  | .ptpStep _ _ => 0
  | .txtsPop _ _ => 0
  | .mdioGo _ _ => 0
  | .mdioDone _ => 0
  | .enqueue => 0
  | .poolApply _ _ => 0
  | .rpoolWrite _ _ _ => 0
  | .qmgFree _ _ => 0
  | .qmgCmdPush _ _ => 0
  | .qCreate => 0
  | .qDelete => 0
  | .qSet => 0
  | .qMove => 0
  | .qStart => 0
  | .qStop => 0
  | .qFlush => 0
  | .qmgResultPop _ => 0
  | .tmgSelect => 0
  | .sampleRound => 0
  | .ringConfigWrite _ _ _ _ _ => 0
  | .portStall _ => 0
  | .tailAlarm _ => 0
  | .redAlarm _ => 0
  | .doorbell _ _ _ => 0
  | .descriptorFetch _ _ => 0
  | .dmaBurst _ _ _ _ => 0
  | .descriptorComplete _ _ => 0
  | .dmaTriggerStrobe _ _ => 0
  | .dmaEnable _ _ => 0
  | .dmaStart _ _ => 0
  | .dmaPause _ _ => 0
  | .dmaResume _ _ => 0
  | .dmaStop _ _ => 0
  | .dmaAbort _ _ => 0
  | .dmaClear _ _ => 0
  | .injectUnitsGrant _ => 0
  | .shadowWrite _ _ _ _ => 0
  | .saddleArm _ _ _ => 0
  | .saddle _ => 0
  | .chkPreset _ _ _ => 0
  | .chkConfigWrite _ _ _ _ => 0
  | .chkDataFeed _ _ _ _ => 0
  | .chkInit _ _ _ => 0
  | .scanGo _ _ => 0
  | .scanStop _ _ => 0
  | .scanEnd _ _ => 0
  | .pageDoorbell _ _ _ => 0
  | .cryDescriptorFetch _ => 0
  | .inlineOperation _ _ => 0
  | .coreAssign => 0
  | .cryOperationComplete _ => 0
  | .cryLoad _ _ _ => 0
  | .cryUnwrap _ _ _ => 0
  | .cryGen _ _ _ => 0
  | .cryExport _ _ _ => 0
  | .cryErase _ _ _ => 0
  | .eraseComplete _ => 0
  | .cryAttr _ _ _ => 0
  | .cryInfo _ _ _ => 0
  | .cryKeyResultPop _ => 0
  | .pageEnable _ _ _ => 0
  | .pageStop _ _ _ => 0
  | .pageClear _ _ _ => 0
  | .ctxSave _ _ _ _ => 0
  | .ctxRestore _ _ _ _ => 0
  | .ctxDrop _ _ _ _ => 0
  | .pageResultPop _ _ => 0
  | .saLoad _ _ _ => 0
  | .saErase _ _ _ => 0
  | .saRead _ _ _ => 0
  | .alarmCondition _ => 0
  | .alarmEraseDone => 0
  | .alarmClear _ _ => 0
  | .alarmLock _ _ => 0
  | .pkeCmdPush _ _ => 0
  | .pkeHash => 0
  | .pkeHmac => 0
  | .pkeKdf => 0
  | .pkeKeygen => 0
  | .pkePubkey => 0
  | .pkeSign => 0
  | .pkeVerify => 0
  | .pkeEcdh => 0
  | .pkeRandom => 0
  | .pkeReseed => 0
  | .pkeMextend => 0
  | .pkeAttest => 0
  | .pkeSvnset => 0
  | .pkeRevoke => 0
  | .pkeResultPop _ => 0
  | .rngRead _ => 0
  | .entropyStartupTest _ => 0
  | .healthTestFail => 0
  | .reseedInterval => 0
  | .imageVerify _ _ off => off
  | .debugChallenge => 0
  | .debugToken _ _ _ _ => 0
  | .scrubRead _ => 0
  | .scrubOverdue _ => 0
  | .backgroundWindowOpen _ => 0
  | .backgroundWindowClose _ => 0
  | .ceAlarm _ => 0
  | .dramRequest _ _ => 0
  | .requestPromote _ => 0
  | .dramRefresh _ _ => 0
  | .mr4Poll _ => 0
  | .raaTableClear => 0
  | .nrefAlarm => 0
  | .drcTrain _ _ _ => 0
  | .drcRestore _ _ _ => 0
  | .trainStepDone _ _ _ _ => 0
  | .srEnter _ _ _ => 0
  | .srExit _ _ _ => 0
  | .drcStop _ _ _ => 0
  | .drcResultPop _ => 0
  | .sridleEnter => 0
  | .dumpUnlock _ _ => 0
  | .injectArm _ _ _ => 0
  | .dictionaryImageLoad => 0
  | .heldValuesApply => 0
  | .hdpPduReceive => 0
  | .hdpOpen => 0
  | .hdpAuth => 0
  | .hdpClose => 0
  | .hdpPing => 0
  | .hdpRead => 0
  | .hdpWrite => 0
  | .hdpWriteMulti => 0
  | .hdpInvoke => 0
  | .hdpDescribe => 0
  | .hdpSubscribe => 0
  | .hdpEventAck => 0
  | .hdpDigest => 0
  | .hdpReadNet => 0
  | .mbxinPush _ _ => 0
  | .mbxoutPop _ => 0
  | .canSegmentReceive _ _ _ => 0
  | .canSegmentTimeout _ => 0
  | .spiPduWrite _ _ _ => 0
  | .spiPduRead => 0
  | .spiStatusRead => 0
  | .fwRequestPop _ _ => 0
  | .fwAnswer _ _ _ => 0
  | .fwTimeout => 0
  | .sessionTimeout _ => 0
  | .authLockoutEnd => 0
  | .subscriptionDeliver => 0
  | .eventSend _ => 0
  | .eventAckTimeout _ => 0
  | .statecmd _ _ => 0
  | .stateAutoChange => 0
  | .journalCommit _ => 0
  | .journalCompact _ => 0
  | .digestPull _ => 0
  | .pullRetry _ => 0
  | .canTxfPush _ _ _ => 0
  | .canFrameSent _ => 0
  | .canFrameReceive _ _ _ _ => 0
  | .canBusState _ _ _ _ => 0
  | .canRxfPop _ _ => 0
  | .stateReq => 0
  | .save => 0
  | .restart => 0
  | .fallbackClear => 0
  | .attest => 0
  | .keyUnwrap => 0
  | .keyLoad => 0
  | .commit => 0
  | .relayCmd => 0
  | .levelCmd => 0
  | .profileStep => 0
  | .dapcSend => 0
  | .relayFadeOpen => 0
  | .counterCollect => 0
  | .powerOnReset => 0
  | .resetPin => 0
  | .coldResetCmd _ _ => 0
  | .warmResetCmd _ _ => 0
  | .watchdogExpiry => 0
  | .wdtEnable _ _ => 0
  | .wdtKick _ _ => 0
  | .resetRelease _ => 0
  | .refValid => 0
  | .sramClearDone _ => 0
  | .recoveryImage _ => 0
  | .rdyenSet _ _ => 0
  | .stepset _ _ => 0
  | .stepclr _ _ => 0
  | .clkenWrite _ _ => 0
  | .bootTimeout _ _ => 0
  | .ledgerWrite _ => 0
  | .otpcntInc _ _ => 0
  | .otpFuseDone => 0
  | .xspiOpPush _ _ => 0
  | .xspiRead => 0
  | .xspiProgram => 0
  | .xspiErase => 0
  | .xspiRaw => 0
  | .xspiOpDone _ _ => 0
  | .xspiResultPop _ => 0
  | .dumpCopy => 0
  | .sysAccerrPop _ => 0
  | .supplyOutOfRange _ => 0
  | .upstreamPoll _ _ _ _ _ => 0
  | .pauseTimeExpiry _ => 0
  | .supplyBackInRange => 0
  | .netPllRetry _ => 0

end Sys2Proof
end

