-- ==== Sys2Proof/Certificates/Slice0/Obligations.lean ====
section
/-! DEFINITION. The statements for the provers, family by family in the order of the spec's chapters. `Runs c s P` says that
command `c` answers a next state, and that it has property `P`. -/

open Sys2Proof Sys2Proof.Machine

/-- The step of the block. The tick on an empty queue is a DESIGN CHOICE (log entry 5). -/
def Obligations.StepRunsFront : Prop :=
  ∀ s : State,
    (∀ (c : Instr) (rest : List Instr), s.pending = c :: rest → step s = exec c (s.withPending rest)) ∧
    (s.pending = [] → s.sys.phase < 2 → step s = .next s) ∧
    (s.pending = [] → 2 ≤ s.sys.phase → ∃ t, step s = .next t ∧ t.pending = [] ∧
      t.gtu.acc = s.gtu.acc + BitVec.ofNat 92 (s.regN R.GTU_INC) ∧ t.mem = s.mem)

/-- R6, R25, R40, R449, R497, R504, R526: the state after reset. Memory and flash contents are DESIGN CHOICEs (log entry 1). -/
def Obligations.ResetValues : Prop :=
  let s := State.reset
  s.pending = [] ∧ s.out = [] ∧ s.evr.fifo = [] ∧ s.acc.held = [] ∧ s.acc.ovf = false ∧ (∀ a, s.reg a = regDefault a) ∧
    s.regN R.GTU_INC = 0x0D6BF94D ∧ s.rf F.GTU_STAT_STATE = 0 ∧ s.reg R.SYS_CLKEN = 0xFF ∧ s.reg R.SYS_WDT = 0x1F40 ∧
    s.reg R.SYS_RSTCAUSE = 0x01000000 ∧ (∀ n, n < 29 → s.reg (R.SYS_ACC n) = 0xFFFFF) ∧ s.reg (R.SYS_ACC 29) = 0x200 ∧
    s.rb F.SYS_CTRL_RDYEN = false ∧ (∀ k, k < 26 → s.ready k = false) ∧ s.dev = Dev.BOOT ∧ s.rf F.DRC_STAT_STATE = 0 ∧
    (∀ r : Radio, s.rfcState r = Rs.SLEEP) ∧ s.rf F.STP_STAT_STATE = 0 ∧ (∀ r : WRadio, s.macState r = 0) ∧
    s.rf F.FMAC_STAT_STATE = 0 ∧ s.rb F.CRY_STAT_ALARM = false ∧ s.sys.phase = 0 ∧ s.sys.mc5 = false ∧
    (∀ a, a < 0x40000000 → s.reg a = 0) ∧ (∀ a, s.byte a = 0) ∧ (∀ a, s.flashByte a = 0xFF)

/-- The invariant of the model at reset. -/
def Obligations.InvAtReset : Prop := State.reset.Inv

/-- R65, R526, and the canonical form of every table: the invariant is kept by every step from every state that has it. -/
def Obligations.InvKept : Prop :=
  ∀ s t : State, s.Inv → step s = .next t → t.Inv ∧ t.pending = s.pending.tail ∧ s.freeCtr ≤ t.freeCtr

/-- No command stops the model (R6, R25, R28: refusals are outcomes within the state). -/
def Obligations.EveryCommandAnswers : Prop :=
  ∀ (c : Instr) (s : State), ∃ t, exec c s = .next t ∧ t.pending = s.pending ∧ s.freeCtr ≤ t.freeCtr

/-- The frame of every command, part by part. -/
def Obligations.FramesByPart : Prop :=
  ∀ (c : Instr) (s t : State), exec c s = .next t → ∀ p : Part, p ∉ touched c → SamePart p s t

/-- R22, R413: the addresses of well-formed commands; the end of the address space is DEDUCED from the map. -/
def Obligations.WellFormedAddresses : Prop :=
  (∀ c : Instr, c.wf = true → c.addr < addrSpace) ∧
  (∀ (i : Init) (a : BitVec 36) (n : Nat), (Instr.memoryAccess i a (.read n)).wf = true → 0 < n ∧ a.toNat + n ≤ addrSpace) ∧
  (∀ (i : Init) (a : BitVec 36) (l : List Byte), (Instr.memoryAccess i a (.write l)).wf = true →
    l ≠ [] ∧ a.toNat + l.length ≤ addrSpace)

/-- R8: a write to a register of the map that has no effect of its own. `fields` are the fields that the register has. A
refused write leaves every register but the block's status register (and the EVR's, which its event updates). -/
def Obligations.RegisterWrite : Prop :=
  ∀ (s : State) (i : Init) (a : Nat) (v : Word) (w : Window) (row : RegRow) (ix : List Nat),
    s.MayWrite i a → a % 4 = 0 → windowOf a = some w → findRow w.rows (a - w.base) = some (row, ix) →
    (if w.num = 24 then odeHookWrite i s (a - w.base) v else s.ownWrite i w.num a (a - w.base) v) = none →
    (hasMc5 row.fields = false ∨ i.val = Ini.MC5) →
    let fields := row.fields.filter (fun f => !absentField w.num (a - w.base) f.hi)
    let ranged := fieldsInRange fields v && (fields.isEmpty || s.extraOk w.num (a - w.base) v)
    let blocked := changesRwi fields (s.reg a) v && !s.idleFor w.num (a - w.base)
    (ranged = true → blocked = false → Runs (.registerWrite i a v) s fun t =>
      t.reg a = applyFields fields (s.reg a) v (s.reg a) ∧ (∀ b, b ≠ a → t.reg b = s.reg b) ∧ SameBytes s t ∧ t.out = s.out) ∧
    (ranged = false → exec (.registerWrite i a v) s = .next (s.refuseWrite w.num (a - w.base) St.RANGE)) ∧
    (ranged = true → blocked = true → exec (.registerWrite i a v) s = .next (s.refuseWrite w.num (a - w.base) St.STATE))

/-- R7: the access codes, over every list of fields that share no bit; and every row of the map is such a list. -/
def Obligations.FieldAccessCodes : Prop :=
  (∀ (fs : List RegField) (old v : Word),
    (∀ f ∈ fs, f.lo ≤ f.hi ∧ f.hi < 32) → fs.Pairwise (fun f g => f.hi < g.lo ∨ g.hi < f.lo) →
      (∀ f ∈ fs, bits (applyFields fs old v old) f.hi f.lo = f.after old v) ∧
      (∀ f ∈ fs, bits (clearRc fs old) f.hi f.lo = if f.acc = .rc then 0 else bits old f.hi f.lo) ∧
      (∀ k, k < 32 → (∀ f ∈ fs, k < f.lo ∨ f.hi < k) →
        bits (applyFields fs old v old) k k = bits old k k ∧ bits (clearRc fs old) k k = bits old k k)) ∧
  (∀ (f : RegField) (old v : Word),
    (f.acc = .rw ∨ f.acc = .rwi ∨ f.acc = .rwm → f.after old v = bits v f.hi f.lo) ∧
    (f.acc = .ro ∨ f.acc = .rc ∨ f.acc = .wo → f.after old v = bits old f.hi f.lo)) ∧
  (∀ (a : Nat) (w : Window), windowOf a = some w → ∀ row ∈ w.rows,
    (∀ f ∈ row.fields, f.lo ≤ f.hi ∧ f.hi < 32) ∧ row.fields.Pairwise (fun f g => f.hi < g.lo ∨ g.hi < f.lo))

/-- R7: a read of a register of the map whose read pops or latches nothing. -/
def Obligations.CounterRead : Prop :=
  ∀ (s : State) (i : Init) (a : Nat) (w : Window) (row : RegRow) (ix : List Nat),
    s.MayRead i a → a % 4 = 0 → windowOf a = some w → findRow w.rows (a - w.base) = some (row, ix) →
    (if w.num = 24 then odeHookRead i s (a - w.base) else s.ownRead i w.num (a - w.base)) = none →
    s.readSync w.num (a - w.base) = s →
    Runs (.counterRead i a) s fun t =>
      t.out = .busData i (s.view i w a) :: s.out ∧ t.reg a = clearRc row.fields (s.reg a) ∧
        (∀ b, b ≠ a → t.reg b = s.reg b) ∧ SameBytes s t

/-- R25: a denied register access; R28: an access to a block whose clock is stopped. -/
def Obligations.AccessControl : Prop :=
  ∀ (s : State) (i : Init) (a : Nat) (v : Word) (w : Window), windowOf a = some w → a % 4 = 0 →
    (s.accOk i a true = false → Runs (.registerWrite i a v) s fun t =>
      t.out.head? = some (.busError i a) ∧ RegsBut [] s t ∧ SameBytes s t) ∧
    (s.accOk i a false = false → Runs (.counterRead i a) s fun t =>
      t.out.head? = some (.busError i a) ∧ RegsBut [] s t ∧ SameBytes s t) ∧
    (s.accOk i a true = true → s.clockOff a = true → exec (.registerWrite i a v) s = .next (s.emit (.busError i a))) ∧
    (s.accOk i a false = true → s.clockOff a = true → exec (.counterRead i a) s = .next (s.emit (.busError i a)))

/-- R413, R415: reads and writes of SRAM and DRAM. -/
def Obligations.MemoryAccess : Prop :=
  ∀ (s : State) (i : Init) (a : BitVec 36), s.debugShut i.val = false →
    (∀ d : List Byte, s.writable i.val a.toNat d.length = true → Runs (.memoryAccess i a (.write d)) s fun t =>
      ∀ b, t.byte b = if a.toNat ≤ b ∧ b < a.toNat + d.length then d.getD (b - a.toNat) 0 else s.byte b) ∧
    (∀ n : Nat, s.readable a.toNat n = true → s.eccKeys a.toNat n = [] → (isDram a.toNat = true → s.rf F.DRC_STAT_STATE = 2) →
      exec (.memoryAccess i a (.read n)) s = .next (s.emit (.memData i (s.bytes a.toNat n)))) ∧
    (∀ n : Nat, s.readable a.toNat n = true → inSecure a.toNat n = false → s.eccBad a.toNat n = true →
      Runs (.memoryAccess i a (.read n)) s fun t => t.out.head? = some (.busError i a.toNat) ∧ SameBytes s t) ∧
    (∀ n : Nat, s.readable a.toNat n = false → secureOf i.val a.toNat n = false →
      exec (.memoryAccess i a (.read n)) s = .next (s.emit (.busError i a.toNat))) ∧
    (∀ d : List Byte, s.writable i.val a.toNat d.length = false → secureOf i.val a.toNat d.length = false →
      exec (.memoryAccess i a (.write d)) s = .next (s.emit (.busError i a.toNat)))

/-- R12, R13, R15 to R17: the credit units of a frame through the stages. -/
def Obligations.CreditFlow : Prop :=
  ∀ (s : State),
    (∀ (r : WRadio) (len : Nat), Sparse.getN s.pkt.rsvd (rxKey (.wifi r)) ≤ 1 → len ≤ maxFrame → unitsOf len ≤ s.rxFree r.idx →
      Runs (.receiveReserve (.wifi r) len) s fun t =>
        t.rf (F.QMG_RPOOLUSE_RXUSE r.idx) = s.rf (F.QMG_RPOOLUSE_RXUSE r.idx) + unitsOf len ∧
        Sparse.getN t.pkt.rsvd (rxKey (.wifi r)) = unitsOf len + 1 ∧ RegsBut [R.QMG_RPOOLUSE r.idx] s t ∧ SameBytes s t) ∧
    (∀ (r : WRadio) (len : Nat), Sparse.getN s.pkt.rsvd (rxKey (.wifi r)) ≤ 1 → s.rxFree r.idx < unitsOf len →
      Runs (.receiveReserve (.wifi r) len) s fun t =>
        t.rf (F.QMG_RPOOLUSE_RXUSE r.idx) = s.rf (F.QMG_RPOOLUSE_RXUSE r.idx) ∧
        Sparse.getN t.pkt.rsvd (rxKey (.wifi r)) = 0 ∧ RegsBut [R.QMG_RPOOLUSE r.idx] s t ∧ SameBytes s t) ∧
    (∀ (r : WRadio) (m : RxMpdu) (s' : State), s.releaseHead r.idx = some m →
      s.charge (8 + r.idx) (unitsOf m.data.length) = some s' → Runs (.frameForward r) s fun t =>
        t.pkt.xfers = s.pkt.xfers ++ [⟨r.idx, true, none, m.num, false⟩] ∧ (∀ a, t.reg a = s'.reg a) ∧ SameBytes s t) ∧
    (∀ (r : WRadio) (m : RxMpdu), s.releaseHead r.idx = some m →
      s.charge (8 + r.idx) (unitsOf m.data.length) = none → exec (.frameForward r) s = .next (s.bump R.QMG_CNT_REFUSE)) ∧
    (∀ (r : WRadio) (x : Xfer) (m : RxMpdu), s.firstXfer r.idx true = some x → s.spansBad (s.xferSpans x) = false →
      s.rxmpdu x.mpdu = some m → Runs (.frameStored r true) s fun t =>
        t.pkt.xfers = s.pkt.xfers.erase x ∧ t.pkt.ppeIn.length = s.pkt.ppeIn.length + 1 ∧ t.rxmpdu x.mpdu = none) ∧
    (∀ (r : Radio) (a : Nat) (b : RadioBuf), s.pkt.rbufs.find? (fun b => b.radio == r.idx && b.addr == a) = some b → b.rx = true →
      Runs (.creditReturn r a) s fun t =>
        t.pkt.rbufs = s.pkt.rbufs.erase b ∧ t.rf (F.QMG_RPOOLUSE_RXUSE r.idx) = s.rf (F.QMG_RPOOLUSE_RXUSE r.idx) - b.units ∧
        RegsBut [R.QMG_RPOOLUSE r.idx] s t ∧ SameBytes s t)

/-- R35, R36: the start-step bits and readiness. -/
def Obligations.ReadinessFollows : Prop :=
  ∀ (s : State) (k : Fin 26),
    (Runs (.readinessSet k) s fun t =>
      t.step1 k.val = true ∧ (∀ j, j ≠ k.val → t.step1 j = s.step1 j)) ∧
    (Runs (.readinessClear k) s fun t =>
      t.step1 k.val = false ∧ (∀ j, j ≠ k.val → t.step1 j = s.step1 j) ∧ t.ready k.val = false)



/-- R49, R54, R67, R68: the commands of GTU_CMD. -/
def Obligations.GridTimeCommands : Prop :=
  ∀ (s : State) (i : Init), s.MayWrite i R.GTU_CMD →
    (s.gtuState = Gtu.LOCAL → Runs (.seed i) s fun t =>
      t.gtuState = Gtu.ALIGNED ∧ t.gtu.samples = [] ∧ SameBytes s t ∧
        t.gtu.acc = BitVec.ofInt 92 ((s.gtu.acc.toNat : Int) + toSigned 64 (s.reg64 R.GTU_SEED_LO R.GTU_SEED_HI) * (2 ^ 28 : Nat))) ∧
    (s.gtuState = Gtu.FREE → Runs (.seed i) s fun t => t.gtuState = Gtu.HOLDOVER ∧ t.gtu.holdCmd = false) ∧
    (s.gtuState = Gtu.LOCAL ∨ s.gtuState = Gtu.ALIGNED → Runs (.relearn i) s fun t =>
      t.gtu.samples = [] ∧ bits (t.reg R.GTU_ERR) 7 0 = St.OK ∧ RegsBut [R.GTU_ERR] s t ∧ SameBytes s t) ∧
    (s.gtuState = Gtu.ALIGNED → Runs (.hold i) s fun t =>
      t.gtuState = Gtu.HOLDOVER ∧ t.gtu.holdCmd = true ∧ t.gtu.acc = s.gtu.acc ∧ SameBytes s t) ∧
    (s.gtuState = Gtu.HOLDOVER → s.gtu.holdCmd = true → s.returnMet = false → Runs (.resume i) s fun t =>
      t.gtuState = Gtu.HOLDOVER ∧ t.gtu.holdCmd = false ∧ RegsBut [R.GTU_ERR] s t ∧ SameBytes s t) ∧
    (s.gtuState ≠ Gtu.FREE → Runs (.gtuFree i) s fun t =>
      t.gtuState = Gtu.FREE ∧ t.reg R.GTU_SLEW = 0 ∧ t.gtu.acc = s.gtu.acc ∧ SameBytes s t) ∧
    (s.gtuState = Gtu.FREE → Runs (.hold i) s fun t =>
      t.reg R.GTU_ERR = 0x101 ∧ t.gtu = s.gtu ∧ RegsBut [R.GTU_ERR] s t ∧ SameBytes s t)

/-- R40, R50, R56, R67, R68: GTU_CTRL, pairs, validity bits, the last crossing, the replicas. -/
def Obligations.GridTimeSettings : Prop :=
  (∀ (s : State) (i : Init),
    (∀ v : Word, s.MayWrite i R.GTU_CTRL → s.writeRefused i.val R.GTU_CTRL v = false → v.getLsbD 29 = !s.nom60 →
      Runs (.gtuCtrlWrite i v) s fun t =>
        t.regN R.GTU_INC = Gtu.nominalInc (v.getLsbD 29) ∧ t.gtu.acc = s.gtu.acc ∧ SameBytes s t) ∧
    (s.MayWrite i R.GTU_PMAP_CTRL → Runs (.pmapCommit i) s fun t =>
      t.gtu.pair = some (BitVec.ofNat 64 (s.reg64 R.GTU_PMAP_GT_LO R.GTU_PMAP_GT_HI), s.reg64 R.GTU_PMAP_NS_LO R.GTU_PMAP_NS_HI) ∧
        t.rb F.GTU_STAT_PMAP_VALID = true ∧ t.gtu.acc = s.gtu.acc ∧ SameBytes s t) ∧
    (Runs .pmapExpire s fun t =>
      t.rb F.GTU_STAT_PMAP_VALID = false ∧ RegsBut [R.GTU_STAT, R.GTU_FREQ, R.GTU_HOLD] s t ∧ SameBytes s t) ∧
    (Runs .bcnValidExpire s fun t =>
      t.rb F.GTU_STAT_BCN_VALID = false ∧ t.gtuState = s.gtuState ∧ RegsBut [R.GTU_STAT] s t ∧ SameBytes s t)) ∧
  (∀ (s : State) (i : Init),
    (s.MayRead i R.GTU_XLAST_LO → Runs (.xlastRead i) s fun t =>
      t.out = .busData i (s.gtu.xlast.extractLsb' 0 32) :: s.out ∧ t.reg R.GTU_XLAST_HI = s.gtu.xlast.extractLsb' 32 32 ∧
        RegsBut [R.GTU_XLAST_HI] s t ∧ SameBytes s t) ∧
    (Runs .replicaBroadcast s fun t =>
      (∀ k, k < 15 → Sparse.getN t.gtu.replica k = max (Sparse.getN s.gtu.replica k) s.gtN) ∧
        t.gtu.replicaInc = s.regN R.GTU_INC ∧ t.regs = s.regs ∧ SameBytes s t))

/-- R39, R47, R51, R52: what the mains and the MACs bring to the GTU. -/
def Obligations.GridTimeInputs : Prop :=
  ∀ (s : State),
    (∀ spacing amp : Nat, s.rb F.GTU_CTRL_SRC = false → s.crossingValid spacing amp = false →
      Runs (.mainsCrossing spacing amp) s fun t =>
        t.rf F.GTU_STAT_LOCKCNT = 0 ∧ t.gtu.spacings = [] ∧ RegsBut [R.GTU_STAT, R.GTU_AMP] s t ∧ SameBytes s t) ∧
    (∀ spacing amp : Nat, s.rb F.GTU_CTRL_SRC = false → s.crossingValid spacing amp = true →
      Runs (.mainsCrossing spacing amp) s fun t =>
        t.gtu.xlast = s.crossingTime ∧ t.gtu.lastE = Gtu.wrap24 ((s.crossingTime.toNat : Int) - s.ofs) ∧
          t.gtu.acc = s.gtu.acc ∧ SameBytes s t) ∧
    (s.predicts = true → s.rf F.GTU_STAT_MISS < 2 → Runs .crossingMissing s fun t =>
      t.rf F.GTU_STAT_MISS = s.rf F.GTU_STAT_MISS + 1 ∧ t.gtuState = s.gtuState ∧ RegsBut [R.GTU_STAT] s t ∧ SameBytes s t) ∧
    (s.predicts = true → 2 ≤ s.rf F.GTU_STAT_MISS → s.gtuState = Gtu.ALIGNED ∨ s.gtuState = Gtu.SLEW →
      Runs .crossingMissing s fun t => t.gtuState = Gtu.HOLDOVER ∧ t.reg R.GTU_SLEW = 0 ∧ t.reg R.GTU_INC = s.reg R.GTU_INC) ∧
    (s.predicts = true → 2 ≤ s.rf F.GTU_STAT_MISS → s.gtuState = Gtu.LOCAL →
      Runs .crossingMissing s fun t => t.gtuState = Gtu.FREE ∧ t.reg R.GTU_INC = s.reg R.GTU_INC) ∧
    (s.gtuState = Gtu.HOLDOVER → Runs .holdEstimateUpdate s fun t =>
      t.rf F.GTU_HOLD_ERR_EST = s.holdErr ∧ t.gtu = s.gtu ∧ RegsBut [R.GTU_HOLD, R.GTU_STAT] s t ∧ SameBytes s t) ∧
    (∀ (src : Fin 4) (carried stamp : GTime), src.val ≠ 0 → src.val = s.rf F.GTU_BCN_CTRL_BSRC → s.rf F.GTU_CTRL_ROLE ≠ 0 →
      Runs (.beaconSample src carried stamp) s fun t =>
        t.regN R.GTU_BCN_LAST = (carried + BitVec.ofNat 64 (s.nsToUnits (s.rf F.GTU_BCN_CTRL_PROP_NS)) - stamp).toNat % 2 ^ 32 ∧
          t.rb F.GTU_STAT_BCN_VALID = true ∧ t.gtu = s.gtu ∧
          RegsBut [R.GTU_BCN_LAST, R.GTU_BCN_CNT, R.GTU_STAT] s t ∧ SameBytes s t) ∧
    (∀ (src : Fin 4) (carried stamp : GTime), src.val ≠ s.rf F.GTU_BCN_CTRL_BSRC →
      exec (.beaconSample src carried stamp) s = .next s)

/-- R55: reads of grid time. -/
def Obligations.GridTimeReads : Prop :=
  ∀ (s : State) (i : Init),
    (s.MayRead i R.GTU_NOW_LO → Runs (.gtuNowRead i) s fun t =>
      t.out = .busData i (s.gt.extractLsb' 0 32) :: s.out ∧
        Sparse.get (fun _ => 0) t.gtu.nowHi i.val = s.gt.extractLsb' 32 32 ∧
        (∀ j : Init, j ≠ i → Sparse.get (fun _ => 0) t.gtu.nowHi j.val = Sparse.get (fun _ => 0) s.gtu.nowHi j.val) ∧
        t.regs = s.regs ∧ SameBytes s t) ∧
    (s.MayRead i R.GTU_NOW_HI → Runs (.counterRead i R.GTU_NOW_HI) s fun t =>
      t.out = .busData i (Sparse.get (fun _ => 0) s.gtu.nowHi i.val) :: s.out ∧ (∀ a, t.reg a = s.reg a) ∧ t.gtu = s.gtu ∧
        SameBytes s t)

/-- R57, R58, R59, R552: arming, firing and pins. `u` is the state with the channel's control fields written. -/
def Obligations.CompareChannels : Prop :=
  ∀ (s : State) (i : Init) (n : Fin 64) (v : Word),
    (let f := (v ||| 0x80000000#32) &&& 0x3FFFFFFF#32
     let u := s.writeReg i.val (R.GC_CTRL n.val) f
     s.MayWrite i (R.GC_CTRL n.val) → s.writeRefused i.val (R.GC_CTRL n.val) f = false → s.gcDue n.val = false →
     v.getLsbD 30 = false → gcIndexOk (u.rf (F.GC_TGT_KIND n.val)) (u.rf (F.GC_TGT_INDEX n.val)) = true →
      (u.rb (F.GC_CTRL_MODE n.val) && decide (u.gcPeriod n.val < 0x1000)) = false →
      (u.rf (F.GC_TGT_KIND n.val) = 1 → u.gpioFn (u.rf (F.GC_TGT_INDEX n.val)) = 1) →
        (u.gtN < u.reg64 (R.GC_CMP_LO n.val) (R.GC_CMP_HI n.val) → Runs (.gcArm i n v) s fun t =>
          t.rb (F.GC_STAT_ARMED n.val) = true ∧ t.rf (F.GC_STAT_STATUS n.val) = St.OK ∧
            t.gcCmp n.val = u.reg64 (R.GC_CMP_LO n.val) (R.GC_CMP_HI n.val) ∧
            Sparse.getN t.gtu.gcPer n.val = u.gcPeriod n.val ∧
            RegsBut [R.GC_CTRL n.val, R.GC_STAT n.val] s t ∧ SameBytes s t) ∧
        (u.reg64 (R.GC_CMP_LO n.val) (R.GC_CMP_HI n.val) ≤ u.gtN → u.rb (F.GC_CTRL_IMM n.val) = false →
          Runs (.gcArm i n v) s fun t =>
            t.rb (F.GC_STAT_ARMED n.val) = false ∧ t.rf (F.GC_STAT_STATUS n.val) = St.LATE ∧
              RegsBut [R.GC_CTRL n.val, R.GC_STAT n.val] s t ∧ SameBytes s t)) ∧
    (let f := ((v ||| 0x40000000#32) &&& 0x7FFFFFFF#32) &&& 0x3FFFFFFF#32
     s.MayWrite i (R.GC_CTRL n.val) → s.writeRefused i.val (R.GC_CTRL n.val) f = false → s.gcDue n.val = false →
     s.rb (F.GC_STAT_ARMED n.val) = true → Runs (.gcDisarm i n v) s fun t =>
      t.rb (F.GC_STAT_ARMED n.val) = false ∧ t.rf (F.GC_STAT_STATUS n.val) = St.OK ∧
        RegsBut [R.GC_CTRL n.val, R.GC_STAT n.val] s t ∧ SameBytes s t) ∧
    (s.gcDue n.val = true → s.rf (F.GC_TGT_KIND n.val) = 1 → s.rf (F.GC_TGT_ACT n.val) ≤ 1 →
     s.rf (F.GC_TGT_INDEX n.val) < 48 → Runs (.gcFire n) s fun t =>
      t.rb (F.GC_STAT_FIRED n.val) = true ∧
        t.gtu.pins.getLsbD (s.rf (F.GC_TGT_INDEX n.val)) = decide (s.rf (F.GC_TGT_ACT n.val) = 0) ∧
        (s.rb (F.GC_CTRL_MODE n.val) = false → t.rb (F.GC_STAT_ARMED n.val) = false) ∧
        (s.rb (F.GC_CTRL_MODE n.val) = true → t.rb (F.GC_STAT_ARMED n.val) = true ∧
          t.gcCmp n.val = (s.gcCmp n.val + Sparse.getN s.gtu.gcPer n.val) % 2 ^ 64) ∧
        RegsBut [R.GC_STAT n.val] s t ∧ SameBytes s t) ∧
    (s.gcDue n.val = false → exec (.gcFire n) s = .next s) ∧
    (∀ p : Fin 48, Sparse.getN s.gtu.pulseEnd p.val ≠ 0 → Sparse.getN s.gtu.pulseEnd p.val ≤ s.gtu.ticks + 1 →
      Runs (.pinPulseEnd p) s fun t =>
        t.gtu.pins.getLsbD p.val = false ∧ (∀ q, q < 48 → q ≠ p.val → t.gtu.pins.getLsbD q = s.gtu.pins.getLsbD q) ∧
          t.regs = s.regs ∧ SameBytes s t)

/-- R66: software events. -/
def Obligations.SoftwareEvents : Prop :=
  ∀ (s : State) (i : Init), s.MayWrite i R.EVR_SWSET →
    (∀ k : Fin 16, exec (.softwareEvent i (1#32 <<< k.val)) s = exec (.eventOccurrence ⟨240 + k.val, by omega⟩) s) ∧
    (∀ v : Word, (∀ k, k < 16 → v.getLsbD k = false) → exec (.softwareEvent i v) s = .next s) ∧
    (∀ v : Word, Runs (.softwareEvent i v) s fun t => t.reg R.EVR_SWSET = s.reg R.EVR_SWSET ∧ RegsBut [] s t ∧ SameBytes s t) ∧
    (s.MayRead i R.EVR_SWSET → s.reg R.EVR_SWSET = 0 → Runs (.counterRead i R.EVR_SWSET) s fun t => t.out = .busData i 0 :: s.out) ∧
    State.reset.reg R.EVR_SWSET = 0

/-- R63 to R65, R69: the event router. -/
def Obligations.EventRouter : Prop :=
  ∀ (s : State),
    (∀ ev : Fin 256, (s.reg (R.EVR_ROUTE ev.val)).getLsbD 31 = false ∨ s.evr.fifo.length < 64 →
      Runs (.eventOccurrence ev) s fun t =>
        (∀ d, d < 14 → routed (s.reg (R.EVR_ROUTE ev.val)) d = true →
          (t.reg (R.EVR_PEND d (ev.val / 32))).getLsbD (ev.val % 32) = true) ∧
        (∀ d, d < 14 → routed (s.reg (R.EVR_ROUTE ev.val)) d = false → ∀ w, w < 8 → t.reg (R.EVR_PEND d w) = s.reg (R.EVR_PEND d w)) ∧
        t.rf (F.EVR_CNT_CNT ev.val) = (s.rf (F.EVR_CNT_CNT ev.val) + 1) % 2 ^ 16 ∧ RegsBut [] s t ∧ SameBytes s t) ∧
    (∀ (i : Init) (d : Fin 14) (w : Fin 8) (v : Word), s.MayWrite i (R.EVR_PEND d.val w.val) →
      Runs (.pendingClear i d w v) s fun t =>
        t.reg (R.EVR_PEND d.val w.val) = s.reg (R.EVR_PEND d.val w.val) &&& ~~~v ∧
          (∀ a, a ≠ R.EVR_PEND d.val w.val → t.reg a = s.reg a) ∧ t.evr = s.evr ∧ SameBytes s t) ∧
    (∀ p : Fin 4, Sparse.getN s.evr.pulses p.val ≠ 0 → Runs (.eirqPulse p) s fun t =>
      t.out = .eirqPulse p.val :: s.out ∧ Sparse.getN t.evr.pulses p.val = Sparse.getN s.evr.pulses p.val - 1 ∧ t.regs = s.regs ∧
        SameBytes s t) ∧
    (∀ (i : Init) (e : SubEntry) (es : List SubEntry), s.MayRead i R.EVR_SUB0 → s.rb F.EVR_SUBSTAT_SUBEN = false →
      s.evr.fifo = e :: es → Runs (.subscriptionPop i) s fun t =>
        t.out = .busData i (BitVec.ofNat 32 (2 ^ 31 + e.count * 2 ^ 16 + e.event)) :: s.out ∧ t.evr.fifo = es ∧
          t.reg R.EVR_SUB1 = e.stamp.extractLsb' 0 32 ∧ t.reg R.EVR_SUB2 = e.stamp.extractLsb' 32 32 ∧ RegsBut [] s t ∧ SameBytes s t) ∧
    (∀ i : Init, s.MayRead i R.EVR_SUB0 → s.rb F.EVR_SUBSTAT_SUBEN = true → Runs (.subscriptionPop i) s fun t =>
      t.out.head? = some (.busData i 0) ∧ t.reg R.EVR_ERR = 0x101 ∧ RegsBut [] s t ∧ SameBytes s t)


/-- R71, R75, R76, R81: the commands of the front end that move the radio. `c` is the command that is due. -/
def Obligations.FrontEndCommandsBegin : Prop :=
  ∀ (s : State) (r : Radio) (c : RfcCmd) (fw : Bool), s.rfcMoving r = false →
    (∀ p ∈ [(Instr.rfcSleep r, 1, Rs.SLEEP), (.rfcWake r, 2, Rs.STANDBY), (.rfcIdle r, 7, Rs.SYNTH), (.rfcStandby r, 8, Rs.STANDBY)],
      s.rfcPick r p.2.1 = some (c, fw) → rfcTable p.2.1 (s.rfcState r) = .accept → s.calRunning r = false →
      Runs p.1 s fun t => (t.rfc.get r).run = some ⟨some c, fw, .trans p.2.2⟩ ∧
        (t.rfc.get r).trsw = 0 ∧ (t.rfc.get r).paEn = 0 ∧ (t.rfc.get r).lnaEn = 0 ∧ (t.rfc.get r).held = none ∧ SameBytes s t) ∧
    (∀ p ∈ [(Instr.rfcRx r, 5, Rs.RX), (.rfcTx r, 6, Rs.TX)],
      s.rfcPick r p.2.1 = some (c, fw) → c.opc = p.2.1 → s.rfcState r = Rs.SYNTH → s.rb (F.RFC_STAT_LOCK r) = true →
      s.calRunning r = false → s.gtN + s.rfcLead r c ≤ s.rfcDeadline r c →
      Runs p.1 s fun t => (t.rfc.get r).run = some ⟨some c, fw, .trans p.2.2⟩ ∧ (t.rfc.get r).chains = c.arg % 256 ∧
        RegsBut [] s t ∧ SameBytes s t) ∧
    (∀ p ∈ [(Instr.rfcRx r, 5), (.rfcTx r, 6)],
      s.rfcPick r p.2 = some (c, fw) → s.rfcState r = Rs.SYNTH → s.rb (F.RFC_STAT_LOCK r) = false →
      Runs p.1 s fun t => (t.rfc.get r).held = some ⟨c, fw, s.rfcOnAir r c, s.rfcDeadline r c⟩ ∧ t.rb (F.RFC_STAT_HELD r) = true ∧
        RegsBut [R.RFC_STAT r, R.RFC_CNT_HELD r] s t ∧ SameBytes s t) ∧
    (∀ p ∈ [(Instr.rfcSleep r, 1), (.rfcWake r, 2), (.rfcTune r, 3), (.rfcPrep r, 4), (.rfcRx r, 5), (.rfcTx r, 6), (.rfcIdle r, 7),
        (.rfcStandby r, 8), (.rfcCal r, 9), (.rfcDpdup r, 10), (.rfcAbort r, 11), (.rfcStore r, 12)],
      s.rfcPick r p.2 = some (c, fw) → rfcTable p.2 (s.rfcState r) = .reject → Runs p.1 s fun t =>
        t.rfcState r = s.rfcState r ∧ t.regN (R.RFC_CNT_STATE r) = min (s.regN (R.RFC_CNT_STATE r) + 1) (max 0xFFFF (s.regN (R.RFC_CNT_STATE r))) ∧
          (t.rfc.get r).run = (s.rfc.get r).run ∧ (t.rfc.get r).active = (s.rfc.get r).active ∧
          RegsBut [R.RFC_CNT_STATE r, R.RFC_CNT_RESOVF r] s t ∧ SameBytes s t)

/-- R84, R87 to R89, R92, R98: the commands of the front end that act on the synthesiser, records, calibrations and fits. -/
def Obligations.FrontEndCommandsAct : Prop :=
  ∀ (s : State) (r : Radio) (c : RfcCmd) (fw : Bool), s.rfcMoving r = false → s.calRunning r = false →
    (s.rfcPick r 3 = some (c, fw) → rfcTable 3 (s.rfcState r) = .accept → Runs (.rfcTune r) s fun t =>
      t.rfcState r = Rs.SYNTH ∧ t.rb (F.RFC_STAT_LOCK r) = false ∧ SameBytes s t) ∧
    (s.rfcPick r 4 = some (c, fw) → rfcTable 4 (s.rfcState r) = .accept → Runs (.rfcPrep r) s fun t =>
      (t.rfc.get r).prep.map (fun p => (p.index, p.fresh)) = some (c.index, true) ∧ t.rfcState r = s.rfcState r ∧ SameBytes s t) ∧
    (s.rfcPick r 9 = some (c, fw) → s.rfcState r = Rs.SYNTH → s.rb (F.RFC_STAT_LOCK r) = true →
      (s.rfc.get r).calTodo (c.arg % 16) ≠ [] → Runs (.rfcCal r) s fun t =>
        t.rb (F.RFC_STAT_CALRUN r) = true ∧ (t.rfc.get r).calMask = c.arg % 16 ∧ (t.rfc.get r).run = some ⟨some c, fw, .cal⟩ ∧
          SameBytes s t) ∧
    (s.rfcPick r 10 = some (c, fw) → rfcTable 10 (s.rfcState r) = .accept → s.rb (F.RFC_STAT_DPDARM r) = false →
      Runs (.rfcDpdup r) s fun t => t.rb (F.RFC_STAT_DPDARM r) = true ∧ (t.rfc.get r).dpd = some ⟨c, false⟩ ∧
        RegsBut [R.RFC_STAT r] s t ∧ SameBytes s t) ∧
    (s.rfcPick r 11 = some (c, fw) → s.rfcState r = Rs.RX → (s.rfc.get r).held = none → Runs (.rfcAbort r) s fun t =>
      (t.rfc.get r).run = some ⟨none, false, .trans Rs.SYNTH⟩ ∧ (t.rfc.get r).lnaEn = 0 ∧ (t.rfc.get r).paEn = 0 ∧ SameBytes s t) ∧
    (s.rfcPick r 12 = some (c, fw) → s.rfcState r = Rs.RX → (s.rfc.get r).active.length = 16 → Runs (.rfcStore r) s fun t =>
      (t.rfc.get r).active.length = 16 ∧ t.read32 (recAddr r c.index) = (s.rfc.get r).active.getD 0 0 ∧
        (∀ a, a < recAddr r c.index ∨ recAddr r c.index + 64 ≤ a → t.byte a = s.byte a))

/-- R70, R72, R81, R82, R90, R91, R93, R94, R98, R101: what the front end's hardware brings, calibrations, fits, FEM timing. -/
def Obligations.FrontEndProgress : Prop :=
  (∀ (s : State) (r : Radio),
    (∀ (x : RfcRun) (tgt : Nat), (s.rfc.get r).run = some x → x.work = .trans tgt → tgt ≤ Rs.RX →
      Runs (.rfcTransitionDone r) s fun t => t.rfcState r = tgt ∧ (t.rfc.get r).run = none ∧ SameBytes s t) ∧
    (∀ codes : BitVec 24, s.rfcState r = Rs.SYNTH → s.rb (F.RFC_STAT_LOCK r) = false → (s.rfc.get r).held = none →
      (s.rfc.get r).osc = false → Runs (.synthLock r codes) s fun t =>
        t.rb (F.RFC_STAT_LOCK r) = true ∧ t.rfcState r = Rs.SYNTH ∧ RegsBut [R.RFC_STAT r] s t ∧ SameBytes s t) ∧
    (Rs.SYNTH ≤ s.rfcState r → s.rb (F.RFC_STAT_LOCK r) = true → Runs (.lockLoss r) s fun t =>
      t.rfcState r = Rs.SYNTH ∧ t.rb (F.RFC_STAT_LOCK r) = false ∧ (t.rfc.get r).paEn = 0 ∧ (t.rfc.get r).lnaEn = 0) ∧
    (∀ x : RfcHeld, (s.rfc.get r).held = some x → x.cmd.opc = 5 ∨ x.cmd.opc = 6 → x.deadline < s.gtN + s.rfcLead r x.cmd →
      Runs (.heldDeadline r) s fun t => (t.rfc.get r).held = none ∧ t.rb (F.RFC_STAT_HELD r) = false ∧
        (s.regN (R.RFC_CNT_LATE r) < 0xFFFF → t.regN (R.RFC_CNT_LATE r) = s.regN (R.RFC_CNT_LATE r) + 1) ∧
        t.rfcState r = s.rfcState r ∧ SameBytes s t) ∧
    (∀ (k : Nat) (ks : List Nat) (codes : List (BitVec 32)), s.calRunning r = true → (s.rfc.get r).held = none →
      (s.rfc.get r).calTodo (s.rfc.get r).calMask = k :: ks → Runs (.calStepDone r false codes) s fun t =>
        t.rf (F.RFC_CALSTAT_FAIL r) = s.rf (F.RFC_CALSTAT_FAIL r) ||| 2 ^ k ∧ t.rb (F.RFC_STAT_CALRUN r) = false ∧ SameBytes s t) ∧
    (∀ (ks : List Nat) (codes : List (BitVec 32)), s.calRunning r = true → (s.rfc.get r).held = none →
      (s.rfc.get r).calTodo (s.rfc.get r).calMask = 1 :: ks → Runs (.calStepDone r true codes) s fun t =>
        (t.rfc.get r).leftIq = (s.rfc.get r).leftIq - 1 ∧ SameBytes s t)) ∧
  (∀ (s : State) (r : Radio),
    (Runs (.calPeriodDue r) s fun t =>
      (∀ k, 1 ≤ k → k ≤ 3 → (t.reg (R.RFC_CALDUE r)).getLsbD k = true) ∧ RegsBut [R.RFC_CALDUE r] s t ∧ SameBytes s t) ∧
    (∀ temp : BitVec 16, Runs (.calTempDue r temp) s fun t =>
      t.rf (F.RFC_TEMP_T r) = temp.toNat ∧
        (16 * s.rf (F.RFC_CALTHR_IQ r) ≤ (toSigned 16 temp.toNat - (s.rfc.get r).tempIq).natAbs →
          (t.reg (R.RFC_CALDUE r)).getLsbD 1 = true) ∧
        RegsBut [R.RFC_CALDUE r, R.RFC_TEMP r] s t ∧ SameBytes s t) ∧
    (s.reg (R.RFC_CALDUE r) &&& 0xE ≠ 0 → exec (.calOverdue r) s = .next (s.raise (radioEv r + 3))) ∧
    (s.rb (F.RFC_CTRL_AUTOCAL r) = true → s.rfcState r = Rs.SYNTH → s.rb (F.RFC_STAT_LOCK r) = true →
      (s.rfc.get r).run = none → (s.rfc.get r).held = none → s.rfcAnyDue r = false →
      (s.rfc.get r).calTodo (bits (s.reg (R.RFC_CALDUE r)) 3 0) ≠ [] → Runs (.autocalStart r) s fun t =>
        t.rb (F.RFC_STAT_CALRUN r) = true ∧ (t.rfc.get r).run = some ⟨none, false, .cal⟩ ∧ SameBytes s t) ∧
    (∀ (w : WRadio) (d : RfcDpd), (s.rfc.get w.toRadio).dpd = some d → d.captured = false → Runs (.dpdTimeout w) s fun t =>
      (t.rfc.get w.toRadio).dpd = none ∧ t.rb (F.RFC_STAT_DPDARM w.toRadio) = false ∧ SameBytes s t) ∧
    (∀ (w : WRadio) (d : RfcDpd) (nmse plo phi : BitVec 8) (coef : List (BitVec 32)), (s.rfc.get w.toRadio).dpd = some d →
      d.captured = true → Runs (.dpdFitDone w nmse plo phi coef) s fun t =>
        (t.rfc.get w.toRadio).dpd = none ∧ t.rb (F.RFC_STAT_DPDARM w.toRadio) = false ∧
          (nmse.toNat < s.rf (F.RFC_DPD_CTRL_NMAX w.toRadio) → SameBytes s t) ∧
          (∀ a, a < modelAddr d.cmd.index ∨ modelAddr d.cmd.index + 128 ≤ a → t.byte a = s.byte a)) ∧
    (∀ w : WRadio, Runs (.dpdDue w) s fun t =>
      t.rf (F.RFC_CALDUE_DPD w.toRadio) = 1 ∧ RegsBut [R.RFC_CALDUE w.toRadio] s t ∧ SameBytes s t) ∧
    (∀ (i : Init) (k : Fin 3) (v : Word), s.MayWrite i (femtReg r k.val) → s.femtOk r.idx (0x80 + 4 * k.val) v = false →
      Runs (.femtWrite i r k v) s fun t =>
        t.reg (femtReg r k.val) = s.reg (femtReg r k.val) ∧ bits (t.reg (R.RFC_ERR r)) 7 0 = St.RANGE ∧ SameBytes s t) ∧
    (∀ (i : Init) (k : Fin 3) (v : Word), s.MayWrite i (femtReg r k.val) → s.writeRefused i.val (femtReg r k.val) v = false →
      Runs (.femtWrite i r k v) s fun t => t.reg (femtReg r k.val) = v ∧ RegsBut [femtReg r k.val] s t ∧ SameBytes s t))

/-- R74, R75, R78, R79: the command ports and the results of the front end. -/
def Obligations.FrontEndPorts : Prop :=
  ∀ (s : State) (r : Radio),
    (∀ (i : Init) (v : Word), s.MayWrite i (R.RFC_CMD_PUSH r) → v.getLsbD 0 = true → s.ready (Fn.RADIO r.idx) = true →
      s.rfcFormat r (rfcCmdOf (s.rfcStaged r)) = St.OK →
      ((s.rfc.get r).queue.length < 16 → Runs (.rfcCmdPush i r v) s fun t =>
        (t.rfc.get r).queue = (s.rfc.get r).queue ++ [rfcCmdOf (s.rfcStaged r)] ∧ t.regs = s.regs ∧ SameBytes s t) ∧
      (16 ≤ (s.rfc.get r).queue.length → Runs (.rfcCmdPush i r v) s fun t =>
        t.reg (R.RFC_ERR r) = 0x105 ∧ t.rfc = s.rfc ∧ RegsBut [R.RFC_ERR r] s t ∧ SameBytes s t)) ∧
    (∀ w : SixWords, s.ready (Fn.RADIO r.idx) = true → (rfcCmdOf w).opc ∈ [5, 6, 7, 11] → s.rfcFormat r (rfcCmdOf w) = St.OK →
      (s.rfc.get r).port = none → Runs (.macPortCommand r w) s fun t =>
        (t.rfc.get r).port = some (rfcCmdOf w) ∧ t.regs = s.regs ∧ SameBytes s t) ∧
    (∀ (i : Init) (x : Res) (xs : List Res), s.MayRead i (R.RFC_RES r) → (s.rfc.get r).results = x :: xs →
      Runs (.rfcResultPop i r) s fun t =>
        t.out = .busData i (BitVec.ofNat 32 (2 ^ 31 + x.tag * 2 ^ 16 + x.opc * 2 ^ 8 + x.status)) :: s.out ∧
          (t.rfc.get r).results = xs ∧ t.reg (R.RFC_RES_GT_LO r) = x.stamp.extractLsb' 0 32 ∧
          t.reg (R.RFC_RES_GT_HI r) = x.stamp.extractLsb' 32 32 ∧
          RegsBut [R.RFC_RES_GT_LO r, R.RFC_RES_GT_HI r] s t ∧ SameBytes s t)

/-- R109, R110, R112, R115, R117, R124, R128: the course of a reception. -/
def Obligations.ModemReceive : Prop :=
  ∀ (s : State) (r : Radio),
    (∀ (pwr : Int) (stamp : GTime), s.rfcState r = Rs.RX → s.mdmPhase r = 0 ∨ s.mdmPhase r = 5 →
      toSigned 8 (s.rf (F.MDM_DETTHR_T r)) ≤ pwr → Runs (.packetDetect r pwr stamp) s fun t =>
        t.mdmPhase r = 1 ∧ (t.mdm.get r).stamp = stamp - BitVec.ofNat 64 (s.nsToUnits (s.rf (F.MDM_RXDLY_NS r))) ∧
          Counted (R.MDM_CNT_DET r) s t ∧ RegsBut [R.MDM_CNT_DET r, R.MDM_CCA r, R.MDM_STAT r] s t ∧ SameBytes s t) ∧
    (∀ (first : Bool) (w0 : Word), s.mdmPhase r = (if first then 1 else 2) →
      (Runs (.fieldCheck r first .pass w0) s fun t =>
        t.mdmPhase r = 2 ∧ (t.mdm.get r).lsig = true ∧ (t.mdm.get r).w0 = w0 ∧ RegsBut [R.MDM_STAT r] s t ∧ SameBytes s t) ∧
      (Runs (.fieldCheck r first .passLast w0) s fun t =>
        t.mdmPhase r = 3 ∧ (t.mdm.get r).lsig = true ∧ RegsBut [R.MDM_STAT r] s t ∧ SameBytes s t) ∧
      (Runs (.fieldCheck r first .unsupported w0) s fun t =>
        t.mdmPhase r = 4 ∧ RegsBut [R.MDM_STAT r] s t ∧ SameBytes s t) ∧
      (Runs (.fieldCheck r first .fail w0) s fun t =>
        t.mdmReceiving r = false ∧ Counted (R.MDM_CNT_FALSE r) s t ∧ SameBytes s t)) ∧
    (s.mdmPhase r = 4 → Runs (.unsupportedHoldEnd r) s fun t =>
      t.mdmReceiving r = false ∧ Counted (R.MDM_CNT_UNSUP r) s t ∧
        (∃ ws, t.out = .rxBlock r ws :: s.out ∧ bits (ws.headD 0) 23 16 = St.TYPE) ∧ SameBytes s t) ∧
    (∀ (pwr : Int) (stamp : GTime), s.mdmReceiving r = true → s.rb (F.MDM_STAT_RSTARM r) = true →
      (2 * toSigned 8 (s.rf (F.MDM_STAT_DETPWR r)) + (s.rf (F.MDM_CAPM_M r) : Int) ≤ 2 * pwr →
        Runs (.secondDetection r pwr stamp) s fun t =>
          t.mdmPhase r = 1 ∧ Counted (R.MDM_CNT_DET r) s t ∧
            Counted (if (s.mdm.get r).lsig then R.MDM_CNT_CAPT r else R.MDM_CNT_CAPTPRE r) s t ∧ SameBytes s t) ∧
      (2 * pwr < 2 * toSigned 8 (s.rf (F.MDM_STAT_DETPWR r)) + (s.rf (F.MDM_CAPM_M r) : Int) →
        Runs (.secondDetection r pwr stamp) s fun t =>
          (t.mdm.get r).weak = (s.mdm.get r).weak + 1 ∧ t.regs = s.regs ∧ SameBytes s t)) ∧
    (s.mdmReceiving r = true → s.rb (F.MDM_STAT_RSTARM r) = true → s.rb (F.MDM_CTRL_CLIPRST r) = true →
      Runs (.clipRestart r) s fun t =>
        t.mdmReceiving r = false ∧ Counted (R.MDM_CNT_CLIPRST r) s t ∧ SameBytes s t) ∧
    (∀ (b : RxMeas) (bs : List RxMeas), s.mdmPhase r = 3 → (s.mdm.get r).tb = none → Runs (.ppduReceiveEnd r (b :: bs)) s fun t =>
      t.mdmReceiving r = false ∧ (∃ ws, t.out = .rxBlock r ws :: s.out ∧ bits (ws.headD 0) 23 16 = St.OK ∧
        ws.getD 2 0 = BitVec.ofNat 32 b.len) ∧ SameBytes s t)

/-- R120, R122, R123, R129, R130, R133, R137, R138: the rest of the modem's commands. -/
def Obligations.ModemCommands : Prop :=
  ∀ (s : State) (r : Radio) (w : WRadio),
    (∀ (users : List (BitVec 12)) (target : BitVec 8), users.length ≤ 16 → s.mdmReceiving w.toRadio = false →
      Runs (.tbReceptionArm w users target) s fun t =>
        (t.mdm.get w.toRadio).tb = some ⟨users, target⟩ ∧ (s.rfcState w.toRadio = Rs.RX → t.mdmPhase w.toRadio = 5) ∧
          RegsBut [R.MDM_STAT w.toRadio] s t ∧ SameBytes s t) ∧
    (∀ x : TbRx, (s.mdm.get w.toRadio).tb = some x → s.mdmPhase w.toRadio = 5 → Runs (.tbWindowEnd w) s fun t =>
      (t.mdm.get w.toRadio).tb = none ∧ t.out.length = s.out.length + x.users.length ∧ t.mdmReceiving w.toRadio = false ∧
        SameBytes s t) ∧
    (∀ fail half quarter : Bool, Runs (.codewordDecoded w fail half quarter) s fun t =>
      let maxit := s.rf (F.MDM_LDPC_MAXIT w.toRadio)
      let now := min (s.mdm.get w.toRadio).ldpcMax maxit
      (t.mdm.get w.toRadio).ldpcMax =
          (if half then max (s.rf (F.MDM_LDPC_FLOOR w.toRadio)) (now - 1) else if quarter then min maxit (now + 1) else now) ∧
        (fail = true → Counted (R.MDM_CNT_CWFAIL w.toRadio) s t) ∧
        (now < maxit → Counted (R.MDM_CNT_ITRED w.toRadio) s t) ∧
        RegsBut [R.MDM_CNT_CWFAIL w.toRadio, R.MDM_CNT_ITRED w.toRadio] s t ∧ SameBytes s t) ∧
    (∀ (v : SevenWords) (stored : Bool),
      (s.vectorCheck r v stored = St.OK → Runs (.transmitVector r v stored) s fun t =>
        (t.mdm.get r).vector = some v ∧ t.regs = s.regs ∧ SameBytes s t) ∧
      (s.vectorCheck r v stored ≠ St.OK → Runs (.transmitVector r v stored) s fun t =>
        t.regN (R.MDM_ERR r) = 0x100 + s.vectorCheck r v stored ∧ (t.mdm.get r).vector = (s.mdm.get r).vector ∧
          Counted (R.MDM_CNT_TXREJ r) s t ∧ SameBytes s t)) ∧
    (∀ (us : Nat) (x : RfcRun), (s.rfc.get r).run = some x → x.work = .tx → Runs (.ppduTxEnd r us) s fun t =>
      (t.rfc.get r).run = some ⟨none, false, .trans (if x.cmd.any (fun c => c.ret) then Rs.RX else Rs.SYNTH)⟩ ∧
        (t.rfc.get r).trsw = 0 ∧ (t.rfc.get r).paEn = 0 ∧ bits (t.reg (R.MDM_LASTTX r)) 7 0 = St.OK ∧
        Counted (R.MDM_CNT_TXOK r) s t ∧ (t.mdm.get r).vector = none ∧ SameBytes s t) ∧
    (∀ (i : Init) (v : Word), s.MayWrite i (R.MDM_SMODE .s) → s.writeRefused i.val (R.MDM_SMODE .s) v = false →
      (s.mdmReceiving .s = true → Runs (.smodeWrite i v) s fun t =>
        (t.mdm.get .s).smode = some v ∧ t.regs = s.regs ∧ SameBytes s t) ∧
      (s.mdmReceiving .s = false → Runs (.smodeWrite i v) s fun t =>
        t.rf (F.MDM_SMODE_MODE .s) = bits v 3 0 ∧ t.mdm = s.mdm ∧ RegsBut [R.MDM_SMODE .s, R.MDM_STAT .s] s t ∧ SameBytes s t)) ∧
    (∀ nf : BitVec 16, Runs (.noiseAlarm r nf) s fun t =>
      t.rf (F.MDM_NOISE_NF r) = nf.toNat ∧ RegsBut [R.MDM_NOISE r] s t ∧ SameBytes s t) ∧
    (∀ grew : Nat,
      (s.rf (F.MDM_RXALM_N r) < grew → exec (.rxAnomalyAlarm r grew) s = .next (s.raise (radioEv r + 7))) ∧
      (grew ≤ s.rf (F.MDM_RXALM_N r) → exec (.rxAnomalyAlarm r grew) s = .next s))


/-- R149, R160, R174, R176, R178, R179: the commands of a MAC. `w` is the command at the head of its queue. -/
def Obligations.MacCommands : Prop :=
  ∀ (s : State) (r : WRadio) (w : List Word) (ws : List (List Word)), (s.mac r).cmds = w :: ws →
    (cmdOpc w = 1 → s.macState r = Ms.IDLE ∨ s.macState r = Ms.RUN → s.linksAgree r = true → Runs (.bssStart r) s fun t =>
      t.macState r = Ms.RUN ∧ t.bssOn r (mcBss w) = true ∧ (t.mac r).cmds = ws ∧ SameBytes s t) ∧
    (cmdOpc w = 2 → s.macState r = Ms.RUN → s.bssOn r (mcBss w) = true → Runs (.bssStop r) s fun t =>
      t.rf (F.MAC_STAT_BSSACT r) = s.rf (F.MAC_STAT_BSSACT r) - 2 ^ mcBss w ∧ (t.mac r).cmds = ws ∧ SameBytes s t) ∧
    (cmdOpc w = 9 → r ≠ .l → s.macState r = Ms.IDLE ∨ s.macState r = Ms.RUN → Runs (.meshStart r) s fun t =>
      t.macState r = Ms.RUN ∧ (t.mac r).mesh = true ∧ (t.mac r).cmds = ws ∧ SameBytes s t) ∧
    (cmdOpc w = 9 → r = .l → s.macState r = Ms.IDLE ∨ s.macState r = Ms.RUN → (s.mac r).results.length < 16 →
      Runs (.meshStart r) s fun t =>
        (t.mac r).mesh = (s.mac r).mesh ∧ (t.mac r).results = (s.mac r).results ++ [⟨cmdTag w, 9, St.RANGE, s.gt⟩] ∧
          RegsBut [] s t ∧ SameBytes s t) ∧
    (cmdOpc w = 10 → s.macState r = Ms.RUN → (s.mac r).mesh = true → Runs (.meshStop r) s fun t =>
      (t.mac r).mesh = false ∧ (t.mac r).cmds = ws ∧ SameBytes s t) ∧
    (cmdOpc w = 3 → s.macState r = Ms.RUN → s.recKind (mcClient w) = 1 → s.bssOn r (mcBss w) = true →
      mcSub w % 2 = 0 ∨ s.ready Fn.WIFIMU = true → s.macLink r (mcClient w) = none → Runs (.linkAdd r) s fun t =>
        t.wlan.links = s.wlan.links ++ [⟨r.idx, mcClient w, mcBss w, decide (mcSub w % 2 = 1), mcAid w⟩] ∧ (t.mac r).cmds = ws ∧
          RegsBut [R.MAC_STAT r, R.MAC_CNT_RESOVF r] s t ∧ SameBytes s t) ∧
    (∀ l : MacLink, cmdOpc w = 4 → s.macState r = Ms.RUN ∨ s.macState r = Ms.DRAIN → s.macLink r (mcClient w) = some l →
      mcBss w = l.bss % 16 → Runs (.linkDel r) s fun t =>
        t.wlan.links = s.wlan.links.filter (fun l => !(l.radio == r.idx && l.client == mcClient w)) ∧ SameBytes s t) ∧
    (cmdOpc w = 5 → s.macState r = Ms.RUN → (s.macLink r (mcClient w)).isSome = true →
      baSize (mcSub w) ≤ s.baMax (mcClient w) →
      s.wlan.bas.any (fun b => b.client == mcClient w && b.tid == mcTid w && b.tx == mcDir w) = false →
      (s.wlan.bas.filter (fun b => b.tx == mcDir w)).length < 4096 → Runs (.baAdd r) s fun t =>
        t.wlan.bas = s.wlan.bas ++ [⟨mcClient w, mcTid w, mcDir w, baSize (mcSub w)⟩] ∧
          (mcDir w = false → t.wlan.reorders.length = s.wlan.reorders.length + 1) ∧
          RegsBut [R.MAC_CNT_RESOVF r] s t ∧ SameBytes s t) ∧
    (cmdOpc w = 6 → s.macState r = Ms.RUN ∨ s.macState r = Ms.DRAIN → (s.macLink r (mcClient w)).isSome = true →
      s.wlan.bas.any (fun b => b.client == mcClient w && b.tid == mcTid w && b.tx == mcDir w) = true → Runs (.baDel r) s fun t =>
        t.wlan.bas.any (fun b => b.client == mcClient w && b.tid == mcTid w && b.tx == mcDir w) = false ∧ SameBytes s t) ∧
    (cmdOpc w = 7 → s.macState r = Ms.RUN → s.ready Fn.WIFIMU = true → (s.macLink r (mcClient w)).isSome = true →
      s.te (w.getD 3 0).toNat 0 31 31 ≠ 0 → Runs (.twtSet r) s fun t =>
        (∃ a ∈ t.wlan.twts, a.radio = r.idx ∧ a.client = mcClient w ∧ a.flow = mcSub w ∧ a.entry = (w.getD 3 0).toNat ∧
          a.target = s.tsfOf (s.teNext (w.getD 3 0).toNat s.gtN)) ∧ RegsBut [R.MAC_CNT_RESOVF r] s t ∧ SameBytes s t) ∧
    (cmdOpc w = 8 → s.macState r = Ms.RUN ∨ s.macState r = Ms.DRAIN →
      s.wlan.twts.any (fun x => x.radio == r.idx && x.client == mcClient w && x.flow == mcSub w) = true →
      Runs (.twtDel r) s fun t =>
        t.wlan.twts.any (fun x => x.radio == r.idx && x.client == mcClient w && x.flow == mcSub w) = false ∧
          RegsBut [R.MAC_CNT_RESOVF r] s t ∧ SameBytes s t)

/-- R142, R143, R145, R147, R161, R164 to R166: what a MAC sends. -/
def Obligations.MacAir : Prop :=
  ∀ (s : State) (r : WRadio) (x : ExchangeOut),
    (∀ ids : List Nat, s.macState r = Ms.RUN →
      (Runs (.edcaCommit r x true ids) s fun t =>
        t.mpdus = (s.markSent ((s.stagedOn r ids).map (fun m => m.num))).mpdus ∧ SameBytes s t) ∧
      (∀ p : State × ExchangeOut × List Mpdu, s.notchExchange r x (s.stagedOn r ids) = some p →
        Runs (.edcaCommit r x false ids) s fun t =>
          t.mpdus = (s.markSent (p.2.2.map (fun m => m.num))).mpdus ∧ SameBytes s t) ∧
      (s.notchExchange r x (s.stagedOn r ids) = none → exec (.edcaCommit r x false ids) s = .next s)) ∧
    (∀ (kind : Fin 4) (users : List (BitVec 12 × Fin 8)), s.macState r ≠ Ms.OFF → Runs (.controlResponse r kind users) s fun t =>
      (∃ acks, t.out = .response r.idx kind.val acks :: s.out ∧
        (kind.val = 1 ∨ kind.val = 2 → acks.length = users.length)) ∧ t.regs = s.regs ∧ SameBytes s t) ∧
    (∀ p : PlanSt, s.macState r = Ms.RUN → s.planOf r.idx [2] = some p →
      s.notchMode r (vecStart x.vec) x.ppdu x.resp = .full → Runs (.dlMuPpdu r x) s fun t =>
        t.planOf r.idx [0, 1, 2, 3, 4] = none ∧
          t.mpdus = (s.markSent ((s.tblMpdus r.idx p.ac p.table (s.mf p.table 31 24)).map (fun m => m.num))).mpdus ∧
          SameBytes s t) ∧
    (∀ p : PlanSt, s.macState r = Ms.RUN → s.planOf r.idx [3, 4] = some p →
      s.notchMode r (vecStart x.vec) x.ppdu x.resp ≠ .off → Runs (.triggerSend r x) s fun t =>
        (∃ pad, t.out = .trigger r.idx p.table pad :: s.out) ∧ t.planOf r.idx [0, 1, 2, 3, 4] = none ∧ SameBytes s t) ∧
    (∀ sets : List (BitVec 12 × Nat), s.macState r = Ms.RUN → Runs (.sounding r sets) s fun t =>
      (∀ y ∈ t.wlan.snds, y.radio = r.idx → y.client ∈ (sets.take 8).map (fun c => c.1.toNat)) ∧
        t.wlan.snds.filter (fun y => y.radio != r.idx) = s.wlan.snds.filter (fun y => y.radio != r.idx) ∧ SameBytes s t) ∧
    (s.macState r = Ms.RUN → Runs (.beaconTbtt r) s fun t =>
      (t.mac r).contend = (List.range 16).filter (fun b => s.bssOn r b) ∧ t.regs = s.regs ∧ SameBytes s t) ∧
    (∀ b : Fin 16, (s.mac r).contend.contains b.val = true →
      (Runs (.beaconDrop r b) s fun t =>
        (t.mac r).contend.contains b.val = false ∧ Counted (R.MAC_CNT_BCNDROP r) s t ∧ RegsBut [R.MAC_CNT_BCNDROP r] s t ∧
          SameBytes s t) ∧
      (Runs (.beaconCommit r b x) s fun t =>
        (t.mac r).contend.contains b.val = false ∧ SameBytes s t ∧
          t.out = .beacon r.idx b.val (s.tsfOf (vecStart x.vec))
            (if s.rb (F.MAC_BCNCTRL_GTE r) then s.gteBytes r (vecStart x.vec) else []) (s.bcastTwt r b.val) :: s.out))

/-- R144, R148, R150, R151, R156, R158. `u` is the state with the client's record and the scoreboard noted. -/
def Obligations.MacReceive : Prop :=
  ∀ (s : State) (r : WRadio),
    (∀ f : RxFrame, s.macState r ≠ Ms.OFF →
      let u := ((s.noteRx r f).heardFrom f.client.toNat (s.mdm.get r.toRadio).stamp f.pm).setReorder f.client.toNat f.tid.val
        (fun o => scoreAdd o f.sn.toNat)
      let n := Sparse.getN u.pkt.rsvd (rxKey (.wifi r))
      (f.fcs = false → Runs (.mpduReceive r f) s fun t =>
        t.rxmpdus = s.rxmpdus ∧ Counted (R.MAC_CNT_FCS r) s t ∧ SameBytes s t) ∧
      (f.fcs = true → f.bar = false → n = 0 → Runs (.mpduReceive r f) s fun t => t.rxmpdus = s.rxmpdus) ∧
      (f.fcs = true → f.bar = false → n ≠ 0 → f.prot = true → u.decrypt r f ≠ St.OK → Runs (.mpduReceive r f) s fun t =>
        t.rxmpdus = s.rxmpdus ∧ Sparse.getN t.pkt.rsvd (rxKey (.wifi r)) = 0) ∧
      (f.fcs = true → f.bar = false → n ≠ 0 → f.prot = true ∨ f.eapol = true → u.decrypt r f = St.OK →
        Runs (.mpduReceive r f) s fun t =>
          Sparse.getN t.pkt.rsvd (rxKey (.wifi r)) = 0 ∧ t.mpduNum = s.mpduNum + 1 ∧
            (f.prot = false → u.wlan.reorders.find? (fun o => o.client == f.client.toNat && o.tid == f.tid.val) = none →
              u.rxmpdu s.mpduNum = none → ∃ m ∈ t.rxmpdus, m.num = s.mpduNum ∧ m.data = f.data ∧ m.released = true))) ∧
    (∀ (c : BitVec 12) (tid : Fin 8) (o : Reorder),
      s.wlan.reorders.find? (fun o => o.client == c.toNat && o.tid == tid.val) = some o → s.held o.client o.tid ≠ [] →
      Runs (.reorderTimeout r c tid) s fun t => Counted (R.MAC_CNT_ROHOLE r) s t ∧ SameBytes s t) ∧
    (∀ (n : Nat) (m : Mpdu), s.mpdu n = some m → m.busy = false → Runs (.mpduLifetimeDrop n) s fun t =>
      t.mpdu n = none ∧ Counted (R.MAC_CNT_RETRYDROP (wradio m.radio)) s t) ∧
    (∀ (x : Nat × Nat) (m : Mpdu), s.wlan.moves.find? (fun y => y.2 == r.idx && (match s.mpdu y.1 with
        | some m => !m.busy && m.stored && decide (m.units ≤ s.txFree r.idx)
        | none => true)) = some x → s.mpdu x.1 = some m → Runs (.mpduMove r) s fun t =>
      t.wlan.moves = s.wlan.moves.erase x ∧ t.mpdus.length = s.mpdus.length + 1 ∧ Counted R.STP_CNT_MOVE s t) ∧
    (∀ b : WifiBeacon, s.macState r ≠ Ms.OFF →
      (b.fcs = false → Runs (.wifiBeaconReceive r b) s fun t =>
        Counted (R.MAC_CNT_FCS r) s t ∧ RegsBut [R.MAC_CNT_FCS r] s t ∧ SameBytes s t) ∧
      (∀ g : GteIn, b.fcs = true → b.gte = some g → b.addr.extractLsb' 0 32 = s.reg (R.MAC_PARENT_LO r) →
        (b.addr.extractLsb' 32 16).toNat = s.rf (F.MAC_PARENT_HI_A r) → Runs (.wifiBeaconReceive r b) s fun t =>
          (t.mac r).depth = g.depth.toNat ∧ SameBytes s t))

/-- R171 to R173: the notch plans. -/
def Obligations.NotchPlans : Prop :=
  ∀ (s : State) (r : WRadio),
    (∀ (i : Init) (v : Word), s.MayWrite i (R.MAC_NOTCH_ACT_HI r) → Runs (.notchArm i r v) s fun t =>
      t.reg (R.MAC_NOTCH_ACT_HI r) = v &&& 0xFF ∧ t.rb (F.MAC_NOTCH_STAT_PEND r) = true ∧
        RegsBut [R.MAC_NOTCH_ACT_HI r, R.MAC_NOTCH_STAT r] s t ∧ SameBytes s t) ∧
    (let c := s.gtN / 2 ^ 24
     let act := s.reg64 (R.MAC_NOTCH_ACT_LO r) (R.MAC_NOTCH_ACT_HI r)
     (s.rb (F.MAC_NOTCH_STAT_PEND r) = true → act ≤ c → c % 2 ^ s.rf (F.MAC_NOTCH_PCTRL_PEXP r) = 0 →
      Runs (.notchPlanApply r) s fun t =>
        t.reg (R.MAC_NOTCH_CTRL r) = s.reg (R.MAC_NOTCH_PCTRL r) ∧ t.notchMask r = s.reg64 (R.MAC_NOTCH_PMASK_LO r) (R.MAC_NOTCH_PMASK_HI r) ∧
          t.reg (R.MAC_NOTCH_GUARD r) = s.reg (R.MAC_NOTCH_PGUARD r) ∧ t.reg (R.MAC_NOTCH_PLANID r) = s.reg (R.MAC_NOTCH_PPLANID r) ∧
          t.rb (F.MAC_NOTCH_STAT_PEND r) = false ∧
          RegsBut [R.MAC_NOTCH_CTRL r, R.MAC_NOTCH_MASK_LO r, R.MAC_NOTCH_MASK_HI r, R.MAC_NOTCH_GUARD r, R.MAC_NOTCH_PLANID r,
            R.MAC_NOTCH_STAT r] s t ∧ SameBytes s t) ∧
     (c < act → exec (.notchPlanApply r) s = .next s)) ∧
    (Runs (.notchSuspendChange r) s fun t =>
      t.rb (F.MAC_NOTCH_STAT_ACTIVE r) = s.notchUsed r ∧ t.rb (F.MAC_NOTCH_STAT_SUSP r) = !s.notchUsed r ∧
        RegsBut [R.MAC_NOTCH_STAT r] s t ∧ SameBytes s t) ∧
    (Runs (.notchFlagExpire r true) s fun t =>
      t.rb (F.MAC_NOTCH_STAT_MIS r) = false ∧ RegsBut [R.MAC_NOTCH_STAT r] s t ∧ SameBytes s t) ∧
    (Runs (.notchFlagExpire r false) s fun t =>
      t.rb (F.MAC_NOTCH_STAT_OVL r) = false ∧ RegsBut [R.MAC_NOTCH_STAT r] s t ∧ SameBytes s t)


/-- R186, R188 to R190, R204, R205: the commands of Steppe. `w` is the command at the head of the queue. -/
def Obligations.SteppeCommands : Prop :=
  ∀ (s : State) (w : List Word) (ws : List (List Word)), s.stp.cmds = w :: ws → stpIndex w < 3072 → stpFlow w ≤ 7 →
    let i := stpIndex w
    let e := s.flowEntry i (stpFlow w)
    let kept (t : State) : Prop := t.stp.cmds = ws ∧ ∀ a, a < clAddr i ∨ clAddr i + 256 ≤ a → t.byte a = s.byte a
    (cmdOpc w = 1 → s.rf F.STP_STAT_STATE = Stp.IDLE → Runs .stpRun s fun t =>
      t.rf F.STP_STAT_STATE = Stp.RUN ∧ t.stp.cmds = ws ∧ RegsBut [R.STP_STAT, R.STP_CNT_RESOVF] s t) ∧
    (cmdOpc w = 2 → s.rf F.STP_STAT_STATE = Stp.RUN → Runs .stpStop s fun t =>
      t.rf F.STP_STAT_STATE = Stp.IDLE ∧ t.stp.cmds = ws ∧ RegsBut [R.STP_STAT, R.STP_CNT_RESOVF] s t) ∧
    (cmdOpc w = 3 → s.rf F.STP_STAT_STATE ≠ Stp.OFF → s.recKind i = 0 → Runs .clAdd s fun t =>
      t.recKind i = (if 2048 ≤ i then 2 else 1) ∧ t.recState i = Cl.AWAKE ∧ t.stp.recs = insertNat i s.stp.recs ∧ kept t) ∧
    (cmdOpc w = 4 → s.rf F.STP_STAT_STATE ≠ Stp.OFF → s.recKind i ≠ 0 → s.recHeld i = false → Runs .clDel s fun t =>
      t.recKind i = 0 ∧ t.stp.recs = s.stp.recs.erase i ∧ kept t) ∧
    (cmdOpc w = 5 → s.rf F.STP_STAT_STATE ≠ Stp.OFF → s.recKind i ≠ 0 → stpWord w ≠ 7 → Runs .clWord s fun t =>
      let m := fMask (decide (2048 ≤ i)) (stpWord w)
      (t.read32 (clAddr i + 4 * stpWord w)).toNat =
          ((s.read32 (clAddr i + 4 * stpWord w)).toNat &&& (0xFFFFFFFF - m)) ||| ((w.getD 2 0).toNat &&& m) ∧ kept t) ∧
    (cmdOpc w = 6 → s.rf F.STP_STAT_STATE = Stp.RUN → s.recKind i ≠ 0 → s.recState i ≠ Cl.SUSP → Runs .clSusp s fun t =>
      t.recState i = Cl.SUSP ∧ Sparse.getN t.stp.before i = s.recState i ∧ kept t) ∧
    (cmdOpc w = 7 → s.rf F.STP_STAT_STATE = Stp.RUN → s.recKind i ≠ 0 → s.recState i = Cl.SUSP → Runs .clResume s fun t =>
      t.recState i = Sparse.getN s.stp.before i % 16 ∧ kept t) ∧
    (cmdOpc w = 10 → s.rf F.STP_STAT_STATE = Stp.RUN → s.recKind i ≠ 0 → Runs .driftReset s fun t =>
      t.recState i = s.pmState i ∧ t.cr i 28 31 0 = 0 ∧ t.cr i 29 31 28 = s.rf F.STP_DRIFT_FASTN % 16 ∧ kept t) ∧
    (cmdOpc w = 8 → s.rf F.STP_STAT_STATE = Stp.RUN → s.recKind i ≠ 0 → s.recKind i ≠ 2 → e < 8192 → s.te e 0 31 31 = 0 →
      0 < s.twtPeriod (s.te e 1 31 0) → s.twtPeriod (s.te e 1 31 0) ≤ 65535 * 256 →
      s.teDur e ≤ s.twtPeriod (s.te e 1 31 0) * 2 ^ 16 → Runs .twtPlace s fun t =>
        t.te e 0 31 31 = 1 ∧ t.tePeriod e = s.twtPeriod (s.te e 1 31 0) * 2 ^ 16 ∧
          t.cr i 38 (24 + stpFlow w) (24 + stpFlow w) = 1 ∧ t.stp.cmds = ws) ∧
    (cmdOpc w = 9 → s.rf F.STP_STAT_STATE ≠ Stp.OFF → s.recKind i ≠ 0 → s.recKind i ≠ 2 → e < 8192 → Runs .twtFree s fun t =>
      t.te e 0 31 31 = 0 ∧ t.cr i 38 (24 + stpFlow w) (24 + stpFlow w) = 0 ∧ t.stp.cmds = ws)

/-- R186, R198 to R200, R203: Steppe's decisions. -/
def Obligations.SteppePlans : Prop :=
  ∀ (s : State) (r : WRadio) (ac : Fin 4) (bw : Fin 5) (punct : BitVec 16) (limit : Nat) (c : BitVec 12),
    (s.rf F.STP_STAT_STATE = Stp.RUN → Runs (.planRequest r ac bw punct limit) s fun t =>
      ∃ p, Sparse.getO t.stp.plans r.idx = some p ∧
        t.out = .plan r.idx p.kind p.users p.table ac.val (s.planLimit limit) :: s.out) ∧
    (s.rf F.STP_STAT_STATE ≠ Stp.RUN → exec (.planRequest r ac bw punct limit) s = .next s) ∧
    (s.rf F.STP_STAT_STATE = Stp.RUN → s.recKind c.toNat = 1 →
      s.recState c.toNat ≠ Cl.LISTEN → s.recState c.toNat ≠ Cl.LOST → s.recState c.toNat ≠ Cl.SUSP →
      Runs (.spDecisionStart r c bw punct limit) s fun t =>
        ∃ p, Sparse.getO t.stp.plans r.idx = some p ∧
          t.out = .plan r.idx p.kind p.users p.table 0 (s.planLimit limit) :: s.out) ∧
    (Runs (.planDiscard r) s fun t => Sparse.getO t.stp.plans r.idx = none ∧ t.out = s.out ∧ SameBytes s t) ∧
    (s.rf F.STP_STAT_STATE = Stp.RUN → Runs (.decisionOverrun r ac limit) s fun t =>
      t.out = .plan r.idx 0 [] 0 ac.val (s.planLimit limit) :: s.out ∧ t.regN R.STP_ERR = 0x100 + St.HW ∧
        Counted R.STP_CNT_OVERRUN s t ∧ SameBytes s t)

/-- R195, R197, R207, R209, R211: what Steppe learns. -/
def Obligations.SteppeLearns : Prop :=
  ∀ (s : State) (c : BitVec 12),
    (∀ (r : WRadio) (x : ExchangeIn), s.recKind c.toNat = 1 → dramBase ≤ s.reg64 R.STP_HISTBASE_LO R.STP_HISTBASE_HI →
      (∀ m ∈ s.mpdus, m.radio ≤ 2) → Runs (.exchangeResult r c x) s fun t =>
        t.cr c.toNat 41 31 0 = (s.cr c.toNat 41 31 0 + divOpen x.airtime 16) % 2 ^ 32 ∧ ∀ n ∈ x.acked, t.mpdu n = none) ∧
    (∀ stamp : GTime, s.rb F.STP_CTRL_LEARN = true → s.recKind c.toNat ≠ 0 → s.recState c.toNat ≠ Cl.SUSP →
      Runs (.driftSample c true stamp) s fun t => t.recGt c.toNat 30 = stamp ∧ RegsBut [] s t ∧
        ∀ a, a < clAddr c.toNat ∨ clAddr c.toNat + 256 ≤ a → t.byte a = s.byte a) ∧
    (∀ (timing : Bool) (stamp : GTime), s.rb F.STP_CTRL_LEARN = false → exec (.driftSample c timing stamp) s = .next s) ∧
    (s.recKind c.toNat = 1 → s.recState c.toNat ≠ Cl.LISTEN → s.recState c.toNat ≠ Cl.LOST → s.recState c.toNat ≠ Cl.SUSP →
      s.flows c.toNat ≠ [] → Runs (.spWindowEnd c) s fun t =>
        Sparse.getN t.stp.hit c.toNat = 0 ∧ (Sparse.getN s.stp.hit c.toNat ≠ 1 → Counted R.STP_CNT_MISS s t) ∧
          ∀ a, a < clAddr c.toNat ∨ clAddr c.toNat + 256 ≤ a → t.byte a = s.byte a) ∧
    (s.recKind c.toNat = 1 → s.recState c.toNat = Cl.LISTEN → Runs (.listenEnd c) s fun t =>
      t.recState c.toNat = Cl.LOST ∧ Counted R.STP_CNT_LOST s t ∧ RegsBut [R.STP_STAT, R.STP_CNT_LOST] s t ∧
        ∀ a, a < clAddr c.toNat ∨ clAddr c.toNat + 256 ≤ a → t.byte a = s.byte a)


/-- R230, R232, R236, R256 to R259: the commands of the field MAC. `w` is the command at the head of its queue. -/
def Obligations.FieldCommands : Prop :=
  ∀ (s : State) (w : List Word) (ws : List (List Word)), s.fld.cmds = w :: ws →
    let e := fmEntry w
    let ptr := (w.getD 3 0).toNat
    let open_ : Prop := s.fmState = Fm.IDLE ∨ s.fmState = Fm.RUN
    (cmdOpc w = 1 → open_ → s.rb F.FMAC_STAT_PARENT = false → s.fld.starting = false → s.rf F.FMAC_CHAN_REC ≠ 0x7FF →
      s.rf F.FMAC_NETID_ID ≠ 0 → Runs .sfStart s fun t =>
        t.fld.starting = true ∧ t.fmState = Fm.RUN ∧ t.fld.cmds = ws ∧
          RegsBut [R.FMAC_STAT, R.FMAC_CNT_RESOVF] s t ∧ SameBytes s t) ∧
    (cmdOpc w = 2 → s.fmState = Fm.RUN → Runs .sfStop s fun t =>
      t.rb F.FMAC_STAT_PARENT = false ∧ t.fld.starting = false ∧ (s.rb F.FMAC_STAT_UP = false → t.fmState = Fm.DRAIN) ∧
        t.fld.cmds = ws ∧ RegsBut [R.FMAC_STAT, R.FMAC_CNT_RESOVF] s t ∧ SameBytes s t) ∧
    (cmdOpc w = 3 → open_ → s.rb F.FMAC_STAT_UP = false → Runs .upAttach s fun t =>
      t.rb F.FMAC_STAT_UP = true ∧ t.ustate = Fm.TRACK ∧ t.fmState = Fm.RUN ∧ t.fld.missb = 0 ∧ t.fld.cmds = ws ∧ SameBytes s t) ∧
    (cmdOpc w = 4 → s.fmState = Fm.RUN → Runs .upDetach s fun t =>
      t.rb F.FMAC_STAT_UP = false ∧ t.rb F.FMAC_STAT_LL = false ∧ t.ustate = 0 ∧
        (s.rb F.FMAC_STAT_PARENT = false → s.fld.starting = false → t.fmState = Fm.DRAIN) ∧ t.fld.cmds = ws ∧ SameBytes s t) ∧
    (cmdOpc w = 5 → open_ → s.assignStatus e ptr = St.OK → Runs .assign s fun t =>
      t.feValid e = true ∧ t.feW e 0 = s.read32 ptr ||| 0x80000000 ∧ t.feW e 4 = s.read32 (ptr + 16) ∧
        t.feW e 6 = s.read32 (ptr + 24) ∧ t.feW e 2 = 0 ∧ t.fld.cmds = ws ∧
        ∀ a, a < feAddr e ∨ feAddr e + 64 ≤ a → a < clAddr (feRec e) ∨ clAddr (feRec e) + 256 ≤ a → t.byte a = s.byte a) ∧
    (cmdOpc w = 6 → s.fmState ≠ Fm.OFF → s.feValid e = true → Runs .release s fun t =>
      t.feValid e = false ∧ t.fe e 2 31 0 = 0 ∧ t.fld.cmds = ws) ∧
    (cmdOpc w = 9 → open_ → s.feValid e = true → Runs .keyset s fun t =>
      t.fe e 6 9 0 = bits (w.getD 1 0) 9 0 ∧ t.fld.cmds = ws ∧ RegsBut [R.FMAC_CNT_RESOVF] s t ∧
        ∀ a, a < feAddr e + 24 ∨ feAddr e + 28 ≤ a → t.byte a = s.byte a) ∧
    (∀ k : KeySlot, cmdOpc w = 7 → s.fmState = Fm.RUN → s.feValid e = true → s.feAbsent e = false → s.fe e 2 31 0 = 0 →
      s.fieldSnap (s.fe e 6 9 0) Usage.ENC = some k → Runs .dlStage s fun t =>
        t.fe e 2 31 0 = ptr ∧ t.fe e 3 15 8 = cmdTag w ∧ t.fe e 5 31 0 = (s.fe e 5 31 0 + 1) % 2 ^ 32 ∧
          t.fld.staged = s.fld.staged ++ [e] ∧ t.fld.cmds = ws) ∧
    (cmdOpc w = 8 → s.fmState = Fm.RUN ∨ s.fmState = Fm.DRAIN → s.feValid e = true → s.fe e 2 31 0 ≠ 0 → Runs .dlCancel s fun t =>
      t.fe e 2 31 0 = 0 ∧ e ∉ t.fld.staged ∧ Counted R.FMAC_CNT_DLFAIL s t ∧ t.fld.cmds = ws)

/-- R146, R162, R174, R175, R179, R180, R187, R190, R212, R219, R220, R249, R250, R256, R257, R259: the ports of the MACs, of
Steppe and of the field MAC. -/
def Obligations.RadioPorts : Prop :=
  (∀ (s : State) (r : WRadio),
    (∀ (i : Init) (v : Word), s.MayWrite i (R.MAC_CMD_PUSH r) → v.getLsbD 0 = true →
      let w := [0, 1, 2, 3].map (fun k => s.reg (R.MAC_CMD_W r k))
      (s.macCheck r w = St.OK → Runs (.macCmdPush i r v) s fun t =>
        (t.mac r).cmds = (s.mac r).cmds ++ [w] ∧ t.regs = s.regs ∧ SameBytes s t) ∧
      (s.macCheck r w ≠ St.OK → Runs (.macCmdPush i r v) s fun t =>
        t.regN (R.MAC_ERR r) = 0x100 + s.macCheck r w ∧ t.wlan = s.wlan ∧ RegsBut [R.MAC_ERR r] s t ∧ SameBytes s t)) ∧
    (∀ (i : Init) (x : Res) (xs : List Res), s.MayRead i (R.MAC_RES r) → (s.mac r).results = x :: xs →
      Runs (.macResultPop i r) s fun t =>
        t.out = .busData i (BitVec.ofNat 32 (2 ^ 31 + x.tag * 2 ^ 16 + x.opc * 2 ^ 8 + x.status)) :: s.out ∧
          (t.mac r).results = xs ∧ t.regs = s.regs ∧ SameBytes s t) ∧
    (∀ i : Init, s.MayRead i (R.MAC_TSF_LO r) → Runs (.tsfRead i r) s fun t =>
      t.out = .busData i (BitVec.ofNat 32 s.tsf) :: s.out ∧ t.reg (R.MAC_TSF_HI r) = BitVec.ofNat 32 (s.tsf / 2 ^ 32) ∧
        t.reg64 (R.MAC_TSFGT_LO r) (R.MAC_TSFGT_HI r) = s.gtN ∧
        RegsBut [R.MAC_TSF_LO r, R.MAC_TSF_HI r, R.MAC_TSFGT_LO r, R.MAC_TSFGT_HI r] s t ∧ SameBytes s t) ∧
    (∀ (c : BitVec 12) (f : Fin 8) (x : TwtAgr),
      s.wlan.twts.find? (fun y => y.radio == r.idx && y.client == c.toNat && y.flow == f.val) = some x →
      let start := s.tsfOf (s.teNext x.entry s.gtN)
      let slip := ((x.target : Int) - (start : Int)).natAbs
      (s.rf (F.MAC_TWTSLIP_US r) < slip → Runs (.twtSlipCheck r c f) s fun t =>
        t.out = .twtSetup r.idx x.client x.flow start (wakeInterval 32 (s.periodUs x.entry)) :: s.out ∧
          Counted (R.MAC_CNT_TWTRE r) s t ∧ RegsBut [R.MAC_CNT_TWTRE r] s t ∧ SameBytes s t) ∧
      (slip ≤ s.rf (F.MAC_TWTSLIP_US r) → Runs (.twtSlipCheck r c f) s fun t =>
        (∀ y ∈ t.wlan.twts, y.radio = r.idx → y.client = c.toNat → y.flow = f.val →
          y.target = x.target + x.interval ∧ y.interval = x.interval) ∧ t.regs = s.regs ∧ t.out = s.out ∧ SameBytes s t)) ∧
    (s.macState r = Ms.DRAIN → Runs (.macDrainDone r) s fun t =>
      t.macState r = Ms.IDLE ∧ RegsBut [R.MAC_STAT r] s t ∧ SameBytes s t) ∧
    (∀ grew : Nat,
      (s.rf (F.MAC_DROPALM_N r) < grew → exec (.macDropAlarm r grew) s = .next (s.raise (mev r 7))) ∧
      (grew ≤ s.rf (F.MAC_DROPALM_N r) → exec (.macDropAlarm r grew) s = .next s))) ∧
  (∀ (s : State) (i : Init),
    (∀ v : Word, s.MayWrite i R.STP_CMD_PUSH → v.getLsbD 0 = true →
      let w := [0, 1, 2, 3].map (fun k => s.reg (R.STP_CMD_W k))
      (s.stpCheck w = St.OK → Runs (.stpCmdPush i v) s fun t =>
        t.stp.cmds = s.stp.cmds ++ [w] ∧ t.regs = s.regs ∧ SameBytes s t) ∧
      (s.stpCheck w ≠ St.OK → Runs (.stpCmdPush i v) s fun t =>
        t.regN R.STP_ERR = 0x100 + s.stpCheck w ∧ t.stp = s.stp ∧ RegsBut [R.STP_ERR] s t ∧ SameBytes s t)) ∧
    (∀ (x : Res) (xs : List Res), s.MayRead i R.STP_RES → s.stp.results = x :: xs → Runs (.stpResultPop i) s fun t =>
      t.out = .busData i (BitVec.ofNat 32 (2 ^ 31 + x.tag * 2 ^ 16 + x.opc * 2 ^ 8 + x.status)) :: s.out ∧
        t.stp.results = xs ∧ t.regs = s.regs ∧ SameBytes s t) ∧
    (∀ v : Word, s.MayWrite i R.STP_PEND →
      (2048 ≤ bits v 11 0 → bits v 11 0 < 3072 → Runs (.stpPendWrite i v) s fun t =>
        t.cr (bits v 11 0) 39 15 0 = bits v 31 16 ∧ t.regs = s.regs ∧
          ∀ a, a < clAddr (bits v 11 0) + 156 ∨ clAddr (bits v 11 0) + 160 ≤ a → t.byte a = s.byte a) ∧
      (bits v 11 0 < 2048 ∨ 3072 ≤ bits v 11 0 → exec (.stpPendWrite i v) s = .next (s.refuse R.STP_ERR St.RANGE 80)))) ∧
  (∀ (s : State) (i : Init),
    (∀ v : Word, s.MayWrite i R.FMAC_CMD_PUSH → v.getLsbD 0 = true →
      let w := [0, 1, 2, 3].map (fun k => s.reg (R.FMAC_CMD_W k))
      (s.fmCheck w = St.OK → Runs (.fmacCmdPush i v) s fun t =>
        t.fld.cmds = s.fld.cmds ++ [w] ∧ t.regs = s.regs ∧ SameBytes s t) ∧
      (s.fmCheck w ≠ St.OK → Runs (.fmacCmdPush i v) s fun t =>
        t.regN R.FMAC_ERR = 0x100 + s.fmCheck w ∧ t.fld = s.fld ∧ RegsBut [R.FMAC_ERR] s t ∧ SameBytes s t)) ∧
    (∀ (x : Res) (xs : List Res), s.MayRead i R.FMAC_RES → s.fld.results = x :: xs → Runs (.fmacResultPop i) s fun t =>
      t.out = .busData i (BitVec.ofNat 32 (2 ^ 31 + x.tag * 2 ^ 16 + x.opc * 2 ^ 8 + x.status)) :: s.out ∧
        t.fld.results = xs ∧ t.regs = s.regs ∧ SameBytes s t) ∧
    (∀ v : Word, s.MayWrite i R.FMAC_ACT_HI →
      let ok := regionsOk (s.reg R.FMAC_PSF) (s.reg R.FMAC_PPLAIN) (s.reg R.FMAC_PPASS) &&
        s.validEntries.all (fun e => inPlain (s.feW e 0) (s.reg R.FMAC_PPLAIN))
      (ok = true → s.writeRefused i.val R.FMAC_ACT_HI v = false → Runs (.scheduleArm i v) s fun t =>
        t.rb F.FMAC_STAT_SCHPEND = true ∧ RegsBut [R.FMAC_ACT_HI, R.FMAC_STAT] s t ∧ SameBytes s t) ∧
      (ok = false → exec (.scheduleArm i v) s = .next (s.refuse R.FMAC_ERR St.RANGE 72))) ∧
    (s.rb F.FMAC_STAT_SCHPEND = true → Runs .scheduleApply s fun t =>
      t.reg R.FMAC_SF = s.reg R.FMAC_PSF ∧ t.reg R.FMAC_PLAIN = s.reg R.FMAC_PPLAIN ∧ t.reg R.FMAC_PASS = s.reg R.FMAC_PPASS ∧
        t.reg R.FMAC_CHAN = s.reg R.FMAC_PCHAN ∧ t.rb F.FMAC_STAT_SCHPEND = false ∧
        RegsBut [R.FMAC_SF, R.FMAC_PLAIN, R.FMAC_PASS, R.FMAC_CHAN, R.FMAC_STAT] s t ∧ SameBytes s t) ∧
    (∀ (j : Fin 8) (k : Fin 4) (v : Word), s.MayWrite i (ptabReg j.val k.val) →
      (s.rb (F.FMAC_PTAB_W0_CUR j.val) = true →
        exec (.ptabWrite i j k v) s = .next (s.refuse R.FMAC_ERR St.STATE 72)) ∧
      (s.rb (F.FMAC_PTAB_W0_CUR j.val) = false → s.writeRefused i.val (ptabReg j.val k.val) v = false →
        Runs (.ptabWrite i j k v) s fun t =>
          (k = 0 → t.rf (F.FMAC_PTAB_W0_SADDR j.val) = bits v 15 0) ∧
            RegsBut [ptabReg j.val 0, ptabReg j.val 1, ptabReg j.val 2, ptabReg j.val 3] s t ∧ SameBytes s t)) ∧
    (∀ j : Fin 8, s.rb (F.FMAC_PTAB_W0_CUR j.val) = false → Runs (.ptabAgeExpire j) s fun t =>
      t.rb (F.FMAC_PTAB_W0_VALID j.val) = false ∧ RegsBut [R.FMAC_PTAB_W0 j.val] s t ∧ SameBytes s t) ∧
    (∀ g : Fin 8, Runs (.dwellBinRoll g) s fun t =>
      (let l := (0 :: Sparse.get (fun _ => []) s.fld.bins g.val).take 33
       Sparse.get (fun _ => []) t.fld.bins g.val = if sumN l = 0 then [] else l) ∧
        (∀ j, j ≠ g.val → Sparse.get (fun _ => []) t.fld.bins j = Sparse.get (fun _ => []) s.fld.bins j) ∧
        t.regs = s.regs ∧ SameBytes s t) ∧
    (s.fmState = Fm.DRAIN → Runs .fieldDrainDone s fun t =>
      t.fmState = Fm.IDLE ∧ RegsBut [R.FMAC_STAT] s t ∧ SameBytes s t))

/-- R216, R226, R228, R232, R235 to R239, R242: the course of a superframe. -/
def Obligations.FieldSuperframe : Prop :=
  ∀ (s : State),
    (s.fmState ≠ Fm.OFF → Runs .superframeStart s fun t =>
      t.fld.own = s.fld.nextOwn ∧ t.fld.heard = [] ∧ t.fld.starting = false ∧
        (s.fld.starting = true → t.rb F.FMAC_STAT_PARENT = true)) ∧
    (Runs .ownerMapBuild s fun t =>
      (∀ o ∈ t.fld.nextOwn, owns o.w0 (s.sfNum + 1) = true) ∧
        (∀ e ∈ s.validEntries, owns (s.ownerOf e).w0 (s.sfNum + 1) = true → s.ownerOf e ∈ t.fld.nextOwn) ∧
        t.regs = s.regs ∧ SameBytes s t) ∧
    (∀ (k : KeySlot) (u : State), s.fmState = Fm.RUN → s.rb F.FMAC_STAT_PARENT = true → s.rb F.FMAC_STAT_LL = false →
      s.fieldSnap (s.rf F.FMAC_KEYS_NET) Usage.ENC = some k → s.radioTakes (s.rf F.FMAC_CHAN_REC) = true →
      s.dwell (fieldAirNs (s.rf F.FMAC_MODES_BCN) (s.beaconPsdu k.key).length) true = some u →
      Runs .fieldBeaconCommit s fun t =>
        t.out = .fieldTx (s.beaconPsdu k.key) (s.rf F.FMAC_MODES_BCN) (BitVec.ofNat 64 s.beaconStart) :: s.out ∧
          t.fld.bcnCnt = s.fld.bcnCnt + 1 ∧ t.fld.seq = s.fld.seq + 1 ∧ Counted R.FMAC_CNT_BCN s t ∧ SameBytes s t) ∧
    (s.fmState = Fm.RUN → s.rb F.FMAC_STAT_PARENT = true → s.rb F.FMAC_STAT_LL = true → Runs .fieldBeaconCommit s fun t =>
      Counted R.FMAC_CNT_BCNSKIP s t ∧ RegsBut [R.FMAC_CNT_BCNSKIP] s t ∧ SameBytes s t) ∧
    (s.serving = true → s.rf F.FMAC_PASS_PSN ≠ 0 → s.radioTakes (s.rf F.FMAC_CHAN_REC) = true →
      s.rfcFormat .s (rfcCmdOf (rxCommand (s.rf (F.RFC_CTRL_CHAINS .s)))) = St.OK → Runs .passRegionStart s fun t =>
        (t.rfc.get .s).port = some (rfcCmdOf (rxCommand (s.rf (F.RFC_CTRL_CHAINS .s)))) ∧ SameBytes s t) ∧
    (s.serving = true → s.ready (Fn.RADIO 3) = true → (s.rfc.get .s).port = none → s.rfcFormat .s (rfcCmdOf idleCommand) = St.OK →
      Runs .valleyStart s fun t =>
        (t.rfc.get .s).port = some (rfcCmdOf idleCommand) ∧ t.fld.await = none ∧ t.regs = s.regs ∧ SameBytes s t) ∧
    (∀ e : Fin 1024, s.rb F.FMAC_STAT_PARENT = true → s.fld.own.any (fun o => o.entry == e.val) = true →
      s.fld.heard.contains e.val = false → s.feValid e.val = true → s.rb F.FMAC_STAT_LL = false →
      (s.hasRec e.val = true → s.recState (feRec e.val) ≠ Cl.SUSP) → s.ready (Fn.RADIO 3) = true →
      s.rf (F.RFC_STAT_ACTREC .s) = s.rf F.FMAC_CHAN_REC → Runs (.pollWindowEnd e) s fun t =>
        t.fe e.val 1 15 12 = min (s.fe e.val 1 15 12 + 1) 3 ∧ Counted R.FMAC_CNT_MISSP s t ∧ t.fld.heard.contains e.val = true) ∧
    (∀ f : FieldRx, Fm.RUN ≤ s.fmState →
      (f.fcs2 = true ∨ fieldFcsOk f.data = false → Runs (.fieldFrameReceive f) s fun t =>
        Counted R.FMAC_CNT_FCS s t ∧ t.fld = s.fld ∧ SameBytes s t) ∧
      (∀ e : Nat, f.fcs2 = false → fieldFcsOk f.data = true → fcType (fnum f.data 0 2) = 2 → fcVer (fnum f.data 0 2) = 1 →
        s.fld.await = some (e, f.data.getD 2 0) → Runs (.fieldFrameReceive f) s fun t =>
          t.fld.await = none ∧ t.fe e 2 31 0 = 0)) ∧
    (∀ r : FieldResp, s.fld.resp = some r →
      let u := s.setFld (fun f => { f with resp := none })
      (Runs .fieldResponse s fun t => t.fld.resp = none) ∧
      (∀ v : State, r.entry = none → s.radioTakes (s.rf (F.RFC_STAT_ACTREC .s)) = true →
        u.dwell (fieldAirNs r.mode (ackPsdu r.seq false (r.plain && !r.dup) r.tc).length) true = some v →
        Runs .fieldResponse s fun t =>
          t.out = .fieldTx (ackPsdu r.seq false (r.plain && !r.dup) r.tc) r.mode
            (BitVec.ofNat 64 (r.last.toNat + s.usToUnits (s.rf F.FMAC_TURN_US))) :: s.out ∧ t.fld.resp = none ∧ SameBytes s t))

/-- R233, R245 to R248: the upstream role. -/
def Obligations.FieldUpstream : Prop :=
  ∀ (s : State),
    (∀ (start : GTime) (queued : BitVec 8) (status : BitVec 7) (data : Option (List (BitVec 8))) (enc : Bool) (k : KeySlot)
        (u : State), s.upPolls = true → s.fieldSnap (s.rf F.FMAC_UP_KEY_SLOT) Usage.ENC = some k →
      s.radioTakes (s.rf F.FMAC_UP_CTRL_REC) = true →
      s.dwell (fieldAirNs (s.rf F.FMAC_UP_MODE_POLL) (s.upPsdu k.key queued status data enc).length) false = some u →
      Runs (.upstreamPoll start queued status data enc) s fun t =>
        t.out = .fieldTx (s.upPsdu k.key queued status data enc) (s.rf F.FMAC_UP_MODE_POLL) start :: s.out ∧
          t.fld.upCnt = s.fld.upCnt + 1 ∧ t.fld.upAwait = some s.fld.seq ∧ SameBytes s t) ∧
    (s.upWindows = true → s.fld.bcnHeard = true → Runs .upBeaconListenEnd s fun t =>
      t.fld.bcnHeard = false ∧ t.regs = s.regs ∧ SameBytes s t) ∧
    (s.upWindows = true → s.fld.bcnHeard = false → Runs .upBeaconListenEnd s fun t =>
      t.fld.missb = s.fld.missb + 1 ∧ Counted R.FMAC_CNT_UPMISSB s t ∧
        (s.fld.missb = 2 → t.ustate = Fm.HOLD) ∧ (s.fld.missb ≠ 2 → s.ustate = Fm.TRACK → t.ustate = Fm.WIDEN) ∧ SameBytes s t) ∧
    (∀ p ∈ [(Instr.upHoldEnd, Fm.HOLD), (.longListenRetry, Fm.SEARCH)], s.rb F.FMAC_STAT_UP = true → s.ustate = p.2 →
      Runs p.1 s fun t =>
        t.ustate = Fm.LISTEN ∧ t.rb F.FMAC_STAT_LL = true ∧ Counted R.FMAC_CNT_UPLISTEN s t ∧
          RegsBut [R.FMAC_STAT, R.FMAC_CNT_UPLISTEN] s t ∧ SameBytes s t) ∧
    (s.rb F.FMAC_STAT_UP = true → s.ustate = Fm.LISTEN →
      (∀ j, s.ptabBest = some j → Runs .longListenEnd s fun t =>
        t.ustate = Fm.SELECTED ∧ t.rf F.FMAC_UP_SEL_ENTRY = j ∧ t.rb F.FMAC_UP_SEL_VALID = true ∧ t.rb F.FMAC_STAT_LL = false ∧
          RegsBut [R.FMAC_STAT, R.FMAC_UP_SEL, R.FMAC_CNT_UPSELECT] s t ∧ SameBytes s t) ∧
      (s.ptabBest = none → Runs .longListenEnd s fun t =>
        t.ustate = Fm.SEARCH ∧ t.rb F.FMAC_STAT_LL = false ∧ RegsBut [R.FMAC_STAT] s t ∧ SameBytes s t))

/-- R263, R266, R271, R272, R295, R298, R299: dispatch and results of the packet engine. -/
def Obligations.PacketEngine : Prop :=
  ∀ (s : State),
    (∀ (a : Nat) (rest : List Nat), s.pkt.ppeIn = a :: rest → s.rb F.PPE_CTRL_EN = true → s.ready Fn.PACKET = true →
      s.ppe.pipePend = [] → s.ppe.legacy = [] → s.rb F.PPE_CTRL_SPMODE = false →
      let d := s.storedBytes a
      let p := parse s.parseCfg d
      let t0 := s.spread d p
      (Runs .packetClassify s fun t => t.pkt.ppeIn = rest ∧ Counted R.PPE_CNT_RX s t) ∧
      (p.odd = false → p.trunc = false → ∀ k, s.trapOf d p = some k → Runs .packetClassify s fun t =>
        t.pkt.qmgIn = s.pkt.qmgIn ++ [(a, s.rf (F.PPE_TRAP_QUEUE k))] ∧ Counted R.PPE_CNT_TRAP s t) ∧
      (p.odd = false → p.trunc = false → s.trapOf d p = none → s.profileOf (bits (s.hdr a 0) 31 28) p.pclass = none →
        Runs .packetClassify s fun t =>
          t.pkt.qmgIn = s.pkt.qmgIn ++ [(a, s.missQueue t0)] ∧ Counted R.PPE_CNT_NOPROF s t)) ∧
    (∀ (a status : Nat) (d : List Byte) (rest : List (Nat × Nat × List Byte)) (r : PpeRun),
      s.cry.espDone = (a, status, d) :: rest → s.ppe.waits.find? (fun r => r.addr == a && (r.step == 1 || r.step == 2)) = some r →
      s.ppe.legacy = [] →
      (status ≠ St.OK → Runs .espResult s fun t =>
        t.frame a = none ∧ t.cry.espDone = rest ∧ t.ppe.waits = s.ppe.waits.erase r ∧ Counted R.PPE_CNT_CRYERR s t) ∧
      (∀ f : Frame, status = St.OK → s.frame a = some f → unitsOf d.length ≤ f.units → d.length ≤ maxFrame → r.step = 2 →
        bits r.act 31 30 = 1 → bits r.act 27 26 = 0 → r.act.getLsbD 20 = false → s.actRec r 4 / 2 ^ 31 ≠ 1 →
        Runs .espResult s fun t =>
          t.pkt.qmgIn = s.pkt.qmgIn ++ [(a, bits r.act 12 0)] ∧ t.cry.espDone = rest ∧ t.ppe.waits = s.ppe.waits.erase r)) ∧
    (∀ (r : PpeRun) (f : Frame) (u : State), s.ppe.waits.find? (fun r => r.step == 3) = some r → s.frame r.addr = some f →
      s.charge f.src (unitsOf r.data.length - f.units) = some u → s.ppe.legacy = [] → Runs .rewriteUnitsGrant s fun t =>
        t.ppe.waits = s.ppe.waits.erase r ∧ t.pkt.qmgIn = s.pkt.qmgIn ++ [(r.addr, r.queue)]) ∧
    (∀ (e : LegRes) (q : Nat), legHead [] s.ppe.legacy = some e → e.queue = some q → Runs .legacyReorderRelease s fun t =>
      t.ppe.legacy = s.ppe.legacy.erase e ∧ t.pkt.qmgIn = s.pkt.qmgIn ++ [(e.addr, q)] ∧ RegsBut [R.PPE_STAT] s t ∧ SameBytes s t)

/-- R265, R284, R286, R287, R308, R310: the tables of the packet engine. -/
def Obligations.PacketTables : Prop :=
  ∀ (s : State) (i : Init),
    (∀ (w : Fin 32) (v : Word), s.MayWrite i (R.PPE_PIPE_TAB w.val) → Runs (.pipeTabWrite i w v) s fun t =>
      t.ppe.pipePend = s.ppe.pipePend ++ [(w.val, v &&& 0x77777777)] ∧ t.regs = s.regs ∧ SameBytes s t) ∧
    (∀ (w : Nat) (v : Word) (rest : List (Nat × Word)), s.ppe.pipePend = (w, v) :: rest → Runs .pipeTabApply s fun t =>
      t.reg (R.PPE_PIPE_TAB w) = v ∧ t.ppe.pipePend = rest ∧ RegsBut [R.PPE_PIPE_TAB w] s t ∧ SameBytes s t) ∧
    (∀ v : Word, s.MayWrite i R.PPE_FENCE → v.getLsbD 0 = true → Runs (.fenceStart i v) s fun t =>
      t.ppe.fence = some (s.ppe.waits.map (fun r => r.addr)) ∧ t.rb F.PPE_FENCE_DONE = false ∧ t.rb F.PPE_STAT_FENCEBUSY = true ∧
        RegsBut [R.PPE_FENCE, R.PPE_STAT] s t ∧ SameBytes s t) ∧
    (∀ l : List Nat, s.ppe.fence = some l → s.ppe.waits.any (fun r => l.contains r.addr) = false → Runs .fenceDone s fun t =>
      t.ppe.fence = none ∧ t.rb F.PPE_FENCE_DONE = true ∧ t.rb F.PPE_STAT_FENCEBUSY = false ∧
        RegsBut [R.PPE_FENCE, R.PPE_STAT] s t ∧ SameBytes s t) ∧
    (∀ (dram : Bool) (slot : BitVec 24), s.MayWrite i R.PPE_UPD_CMD →
      ∀ p ∈ [(Instr.updWrite i dram slot, 1), (.updClear i dram slot, 2), (.updHash i dram slot, 3)],
        (s.rb F.PPE_STAT_UPDBUSY = false → Runs p.1 s fun t =>
          t.ppe.upd = some (p.2, dram, slot.toNat) ∧ t.rb F.PPE_STAT_UPDBUSY = true ∧ t.rb F.PPE_UPD_RES_DONE = false ∧
            RegsBut [R.PPE_STAT, R.PPE_UPD_RES] s t ∧ SameBytes s t) ∧
        (s.rb F.PPE_STAT_UPDBUSY = true → Runs p.1 s fun t =>
          t.reg R.PPE_ERR = 0x105 ∧ t.ppe = s.ppe ∧ RegsBut [R.PPE_ERR] s t ∧ SameBytes s t)) ∧
    (∀ k : Nat, s.slotOk false k ((s.updW 0).getLsbD 30) = true → bits (s.updW 0) 23 16 = s.profLen (bits (s.updW 0) 27 24) →
      s.ppe.upd = some (1, false, k) → Runs .updComplete s fun t =>
        let n := if (s.updW 0).getLsbD 30 then 24 else 12
        (∀ j, j < n → t.read32 (s.slotAddr false k + 4 * j) = s.updW j) ∧
          (∀ a, a < s.slotAddr false k ∨ s.slotAddr false k + 4 * n ≤ a → t.byte a = s.byte a) ∧
          t.ppe.upd = none ∧ t.rf F.PPE_UPD_RES_STATUS = St.OK ∧ t.rb F.PPE_UPD_RES_DONE = true ∧ t.rb F.PPE_STAT_UPDBUSY = false) ∧
    (∀ k : Nat, s.slotOk false k false = true → s.ppe.upd = some (2, false, k) → Runs .updComplete s fun t =>
      (∀ j, j < 12 → t.read32 (s.slotAddr false k + 4 * j) = 0) ∧ t.ppe.upd = none ∧ t.rf F.PPE_UPD_RES_STATUS = St.OK) ∧
    (∀ (dram : Bool) (k : Nat), bits (s.updW 0) 23 16 = s.profLen (bits (s.updW 0) 27 24) → s.ppe.upd = some (3, dram, k) →
      Runs .updComplete s fun t =>
        t.regN R.PPE_HQ_H1 = s.hash1 (bits (s.updW 0) 27 24) s.updKey % 2 ^ 32 ∧
          t.regN R.PPE_HQ_H2 = s.hash2 (bits (s.updW 0) 27 24) s.updKey % 2 ^ 32 ∧ t.ppe.upd = none ∧ SameBytes s t) ∧
    (∀ (n : Fin 2048) (bytes : Bool), let k := if bytes then 2 else 0
      s.MayRead i (R.PPE_CTR n.val k) → Runs (.ppeCounterRead i n bytes) s fun t =>
        let v := Sparse.getN s.ppe.ctr (2 * n.val + if bytes then 1 else 0)
        t.out = .busData i (BitVec.ofNat 32 v) :: s.out ∧ t.reg (R.PPE_CTR n.val (k + 1)) = BitVec.ofNat 32 (v / 2 ^ 32) ∧
          RegsBut [R.PPE_CTR n.val (k + 1)] s t ∧ SameBytes s t) ∧
    (∀ grew : Nat,
      (s.rf F.PPE_ALM_MISS < grew → exec (.missAlarm grew) s = .next (s.raise 98)) ∧
      (s.rf F.PPE_ALM_ODD < grew → exec (.oddAlarm grew) s = .next (s.raise 99)) ∧
      (grew ≤ s.rf F.PPE_ALM_MISS → exec (.missAlarm grew) s = .next s) ∧
      (grew ≤ s.rf F.PPE_ALM_ODD → exec (.oddAlarm grew) s = .next s))

/-- R303, R304, R306, R307, R309, R311: the Ethernet ports. -/
def Obligations.EthernetPorts : Prop :=
  ∀ (s : State) (p : Fin 6) (i : Init),
    (∀ (data : List Byte) (stamp : GTime) (ns : BitVec 64), s.rb (F.ETH_CTRL_EN p.val) = true →
      (data.length < 64 → Runs (.ethFrameReceive p data stamp ns) s fun t =>
        Counted (R.ETH_CNT_RXLEN p.val) s t ∧ t.pkt.ppeIn = s.pkt.ppeIn ∧ SameBytes s t) ∧
      (64 ≤ data.length → data.length ≤ s.rf (F.ETH_MAXLEN_LEN p.val) → fcsOk data = false →
        Runs (.ethFrameReceive p data stamp ns) s fun t =>
          Counted (R.ETH_CNT_RXFCS p.val) s t ∧ t.pkt.ppeIn = s.pkt.ppeIn ∧ SameBytes s t) ∧
      (∀ u : State, 64 ≤ data.length → data.length ≤ s.rf (F.ETH_MAXLEN_LEN p.val) → fcsOk data = true →
        Sparse.getN s.pkt.rsvd (rxKey (.eth p)) ≠ 0 → s.rb (F.ETH_CTRL_MSEC p.val) = false →
        (s.unreserve (.eth p)).charge p.val (unitsOf data.length) = some u → Runs (.ethFrameReceive p data stamp ns) s fun t =>
          Counted (R.ETH_CNT_RXOK p.val) s t ∧ t.pkt.frames.length = s.pkt.frames.length + 1 ∧
            t.pkt.ppeIn.length = s.pkt.ppeIn.length + 1 ∧ Sparse.getN t.pkt.rsvd (rxKey (.eth p)) = 0)) ∧
    (∀ (a : Nat) (l : List Nat) (f : Frame) (stamp : GTime) (ns : BitVec 64), s.selOf p.val = a :: l → s.frame a = some f →
      s.rb (F.ETH_CTRL_EN p.val) = true → Sparse.getN s.pkt.paused p.val = 0 → s.rb (F.ETH_CTRL_MSEC p.val) = false →
      s.rb (F.ETH_CTRL_OSTEP p.val) = false → s.spansBad (cellSpans pktBase (64 + f.len) f.cells) = false →
      Runs (.ethFrameTransmit p stamp ns) s fun t =>
        let d := s.frameBytes f 0 f.len
        t.out = .ethTx p.val (if (s.hdr f.addr 8).getLsbD 7 = false ∧ f.src ≤ 5 then d else withFcs (d.take (d.length - 4))) :: s.out ∧
          Counted (R.ETH_CNT_TXOK p.val) s t ∧ t.frame a = none ∧ SameBytes s t) ∧
    (∀ q : BitVec 16, s.rb (F.ETH_CTRL_PAUSE p.val) = true → Runs (.pauseReceive p q) s fun t =>
      Sparse.getN t.pkt.paused p.val = (if q = 0 then 0 else q.toNat + 1) ∧ t.regs = s.regs ∧ SameBytes s t) ∧
    (Runs (.pauseTimeExpiry p) s fun t => Sparse.getN t.pkt.paused p.val = 0 ∧ t.regs = s.regs ∧ SameBytes s t) ∧
    (Sparse.getN s.pkt.pauseSend p.val = 1 → s.rb (F.ETH_CTRL_PAUSE p.val) = true → Runs (.pauseRepeat p) s fun t =>
      t.out = .pause p.val (s.rf (F.ETH_PAUSEQ_Q p.val)) :: s.out ∧ t.regs = s.regs ∧ SameBytes s t) ∧
    (∀ (up : Bool) (mode : Fin 4) (speed : Fin 6), Runs (.linkChange p up mode speed) s fun t =>
      t.rb (F.ETH_STAT_LINK p.val) = up ∧ t.rf (F.ETH_STAT_MODE p.val) = mode.val ∧ t.rf (F.ETH_STAT_SPEED p.val) = speed.val ∧
        RegsBut [R.ETH_STAT p.val] s t ∧ SameBytes s t) ∧
    (s.MayRead i R.ETH_PTP_NS_LO → Runs (.ptpRead i) s fun t =>
      t.out = .busData i (BitVec.ofNat 32 s.eth.ptp) :: s.out ∧ t.reg64 R.ETH_PTP_NS_LO R.ETH_PTP_NS_HI = s.eth.ptp % 2 ^ 64 ∧
        t.reg64 R.ETH_PTP_GT_LO R.ETH_PTP_GT_HI = s.gtN ∧
        RegsBut [R.ETH_PTP_NS_LO, R.ETH_PTP_NS_HI, R.ETH_PTP_GT_LO, R.ETH_PTP_GT_HI] s t ∧ SameBytes s t) ∧
    (∀ v : Word, s.MayWrite i R.ETH_PTP_STEP_HI → Runs (.ptpStep i v) s fun t =>
      t.eth.ptp = (s.eth.ptp + (s.regN R.ETH_PTP_STEP_LO + v.toNat * 2 ^ 32)) % 2 ^ 64 ∧
        RegsBut [R.ETH_PTP_STEP_HI] s t ∧ SameBytes s t) ∧
    (∀ (x : TxStamp) (xs : List TxStamp), s.MayRead i (R.ETH_TXTS p.val) → s.txStamps p.val = x :: xs → Runs (.txtsPop i p) s fun t =>
      t.out = .busData i (BitVec.ofNat 32 (2 ^ 31 + x.seq % 2 ^ 16)) :: s.out ∧ t.txStamps p.val = xs ∧
        t.reg64 (R.ETH_TXTS_GT_LO p.val) (R.ETH_TXTS_GT_HI p.val) = x.gt.toNat ∧
        RegsBut [R.ETH_TXTS_GT_LO p.val, R.ETH_TXTS_GT_HI p.val, R.ETH_TXTS_NS_LO p.val, R.ETH_TXTS_NS_HI p.val] s t ∧
        SameBytes s t) ∧
    (∀ v : Word, s.MayWrite i R.ETH_MDIO_CMD →
      (s.rb F.ETH_MDIO_CMD_GO = false → v.getLsbD 31 = true → Runs (.mdioGo i v) s fun t =>
        t.out = .mdio (v &&& 0xF3FF0000).toNat (s.rf F.ETH_MDIO_DATA_D) :: s.out ∧ t.rb F.ETH_MDIO_CMD_GO = true ∧
          RegsBut [R.ETH_MDIO_CMD] s t ∧ SameBytes s t) ∧
      (s.rb F.ETH_MDIO_CMD_GO = true → exec (.mdioGo i v) s = .next (s.raise 214))) ∧
    (∀ d : BitVec 16, s.rb F.ETH_MDIO_CMD_GO = true → Runs (.mdioDone d) s fun t =>
      t.rb F.ETH_MDIO_CMD_GO = false ∧ (2 ≤ s.rf F.ETH_MDIO_CMD_OP → t.rf F.ETH_MDIO_DATA_D = d.toNat) ∧
        RegsBut [R.ETH_MDIO_CMD, R.ETH_MDIO_DATA] s t ∧ SameBytes s t)

/-- R318 to R320, R326: the queue commands. `c` is the command at the head of the queue. -/
def Obligations.QueueCommands : Prop :=
  ∀ (s : State) (c : QCmd) (cs : List QCmd), s.pkt.qcmds = c :: cs → s.ready Fn.PACKET = true → c.q < 8192 →
    let kept (t : State) : Prop := t.pkt.qcmds = cs ∧ ∀ a, a < qAddr c.q ∨ qAddr c.q + 32 ≤ a → t.byte a = s.byte a
    (c.opc = 1 → s.qd c.q 0 31 30 = Qs.FREE → Runs .qCreate s fun t =>
      t.qd c.q 0 31 30 = Qs.STOPPED ∧ t.read32 (qAddr c.q + 4) = c.w2 ∧ t.read32 (qAddr c.q + 20) = c.w3 ∧
        t.qd c.q 2 31 16 = 0 ∧ kept t) ∧
    (c.opc = 2 → s.qd c.q 0 31 30 = Qs.STOPPED → s.qd c.q 2 31 16 = 0 → Runs .qDelete s fun t =>
      t.qd c.q 0 31 30 = Qs.FREE ∧ t.rf F.QMG_STAT_QUEUES = s.rf F.QMG_STAT_QUEUES - 1 ∧ kept t) ∧
    (c.opc = 3 → s.qd c.q 0 31 30 ≠ Qs.FREE → bits c.w1 29 23 = s.qd c.q 0 29 23 → bits c.w3 27 16 = s.qd c.q 5 27 16 →
      Runs .qSet s fun t =>
        t.read32 (qAddr c.q + 4) = c.w2 ∧ t.qd c.q 0 21 10 = bits c.w1 21 10 ∧ t.qd c.q 0 7 0 = bits c.w1 7 0 ∧
          t.qd c.q 5 10 0 = bits c.w3 10 0 ∧ t.qd c.q 0 31 30 = s.qd c.q 0 31 30 ∧ kept t) ∧
    (c.opc = 4 → s.qd c.q 0 31 30 = Qs.STOPPED → s.qd c.q 2 31 16 = 0 → Runs .qMove s fun t =>
      t.qd c.q 0 29 23 = bits c.w1 29 23 ∧ t.qd c.q 5 27 16 = bits c.w3 27 16 ∧ kept t) ∧
    (c.opc = 5 → s.qd c.q 0 31 30 ≠ Qs.FREE → Runs .qStart s fun t => t.qd c.q 0 31 30 = Qs.ACTIVE ∧ kept t) ∧
    (c.opc = 6 → s.qd c.q 0 31 30 ≠ Qs.FREE → Runs .qStop s fun t => t.qd c.q 0 31 30 = Qs.STOPPED ∧ kept t) ∧
    (c.opc = 7 → s.qd c.q 0 31 30 = Qs.STOPPED → Runs .qFlush s fun t =>
      t.queue c.q = [] ∧ t.qd c.q 2 31 16 = 0 ∧ (∀ a ∈ s.queue c.q, t.frame a = none) ∧ t.pkt.qcmds = cs)

/-- R314, R315, R317, R319 to R321, R331: the registers of the queue manager, and enqueueing. -/
def Obligations.QueuePorts : Prop :=
  ∀ (s : State) (i : Init),
    (∀ v : Word, s.MayWrite i R.QMG_CMD_PUSH → v.getLsbD 0 = true →
      (s.qPushCheck = none → Runs (.qmgCmdPush i v) s fun t =>
        (∃ c : QCmd, t.pkt.qcmds = s.pkt.qcmds ++ [c] ∧ c.opc = bits (s.reg (R.QMG_CMD_W 0)) 31 24 ∧
          c.q = bits (s.reg (R.QMG_CMD_W 0)) 12 0) ∧ RegsBut [R.QMG_STAT] s t ∧ SameBytes s t) ∧
      (∀ st, s.qPushCheck = some st → exec (.qmgCmdPush i v) s = .next (s.qmgRefuse st))) ∧
    (∀ (x : Res) (xs : List Res), s.MayRead i R.QMG_RES → s.pkt.qres = x :: xs → Runs (.qmgResultPop i) s fun t =>
      t.out = .busData i (BitVec.ofNat 32 (2 ^ 31 + x.tag * 2 ^ 16 + x.opc * 2 ^ 8 + x.status)) :: s.out ∧
        t.pkt.qres = xs ∧ t.regs = s.regs ∧ SameBytes s t) ∧
    (∀ v : Word, s.MayWrite i R.QMG_POOLAPPLY → v.getLsbD 0 = true →
      (s.rsvSum 16 ≤ 31744 → s.beyondSum 16 ≤ 32768 - s.rsvSum 16 → Runs (.poolApply i v) s fun t =>
        (∀ n, n < 16 → t.reg (R.QMG_POOLACT n) = s.reg (R.QMG_POOL n)) ∧ t.rf F.QMG_SHARED_SIZE = 32768 - s.rsvSum 16 ∧
          t.rf F.QMG_SHARED_FREE = 32768 - s.rsvSum 16 - s.beyondSum 16 ∧ SameBytes s t) ∧
      (31744 < s.rsvSum 16 → exec (.poolApply i v) s = .next (s.qmgRefuse St.RANGE))) ∧
    (∀ (r : Radio) (v : Word), s.MayWrite i (R.QMG_RPOOL r.idx) →
      (bits v 31 16 + bits v 15 0 = rbCells r.idx → s.macIdle r = true → Runs (.rpoolWrite i r v) s fun t =>
        t.reg (R.QMG_RPOOL r.idx) = v ∧ RegsBut [R.QMG_RPOOL r.idx] s t ∧ SameBytes s t) ∧
      (bits v 31 16 + bits v 15 0 = rbCells r.idx → s.macIdle r = false →
        exec (.rpoolWrite i r v) s = .next (s.qmgRefuse St.STATE)) ∧
      (bits v 31 16 + bits v 15 0 ≠ rbCells r.idx → exec (.rpoolWrite i r v) s = .next (s.qmgRefuse St.RANGE))) ∧
    (∀ v : Word, s.MayWrite i R.QMG_FREE →
      (∀ p, [7, 12, 13, 14].find? (fun p => (s.selOf p).contains v.toNat) = some p → Runs (.qmgFree i v) s fun t =>
        t.frame v.toNat = none ∧ t.selOf p = (s.selOf p).filter (fun x => x != v.toNat) ∧ SameBytes s t) ∧
      ([7, 12, 13, 14].find? (fun p => (s.selOf p).contains v.toNat) = none →
        exec (.qmgFree i v) s = .next (s.qmgRefuse St.ABSENT))) ∧
    (∀ (a q : Nat) (rest : List (Nat × Nat)) (f : Frame), s.pkt.qmgIn = (a, q) :: rest → s.rb F.QMG_CTRL_EN = true →
      s.frame a = some f → q < 8192 →
      let m := (s.setPkt (fun p => { p with qmgIn := rest })).mark (s.qd q 5 10 0) f.len
      (s.qd q 0 31 30 = Qs.FREE → Runs .enqueue s fun t =>
        t.frame a = none ∧ t.pkt.qmgIn = rest ∧ Counted R.QMG_CNT_NOQ s t ∧ SameBytes s t) ∧
      (s.qd q 0 31 30 ≠ Qs.FREE → m.2 ≠ .red →
        s.qd q 2 31 16 + f.units ≤ (if m.2 = .green then s.qd q 1 31 16 else s.qd q 1 15 0) → Runs .enqueue s fun t =>
          t.queue q = s.queue q ++ [a] ∧ t.qd q 2 31 16 = (s.qd q 2 31 16 + f.units) % 2 ^ 16 ∧ t.pkt.qmgIn = rest ∧
            Counted R.QMG_CNT_ENQ s t)) ∧
    (∀ grew : Nat, s.rf F.QMG_DROPALM_N < grew →
      exec (.tailAlarm grew) s = .next (s.raise 114) ∧ exec (.redAlarm grew) s = .next (s.raise 120))

/-- R191, R316, R324, R325, R328, R331: the traffic manager. -/
def Obligations.TrafficManager : Prop :=
  ∀ (s : State),
    (s.rb F.TMG_CTRL_EN = true →
      let u := s.setPkt (fun k => { k with nextPort := (k.nextPort + 1) % 16 })
      ∀ (v : State) (q : Nat) (f : Frame), u.select s.pkt.nextPort = some (v, q) → v.headFrame q = some f →
        v.qd q 0 29 26 = s.pkt.nextPort → s.pkt.nextPort ≤ 5 → Runs .tmgSelect s fun t =>
          t.queue q = (v.queue q).drop 1 ∧ t.selOf s.pkt.nextPort = v.selOf s.pkt.nextPort ++ [f.addr] ∧ Counted R.TMG_CNT_SEL v t) ∧
    (s.rb F.TMG_CTRL_EN = false → exec .tmgSelect s = .next s) ∧
    (∀ (aborted : Bool) (v : State) (q : Nat) (f : Frame) (k : Nat), s.rb F.TMG_CTRL_EN = true → s.select 6 = some (v, q) →
      q < 8192 → v.headFrame q = some f → v.qd q 0 29 26 = 6 →
      v.chooseLink (v.qd q 5 27 16) f.tid (v.txUnits (v.qd q 5 27 16) f) = some k → v.cr (v.qd q 5 27 16) 6 30 30 = 0 →
      Runs (.stageMpdu aborted) s fun t =>
        t.queue q = (v.queue q).drop 1 ∧ t.mpdus.length = v.mpdus.length + 1 ∧ t.mpduNum = v.mpduNum + 1) ∧
    (∀ k : Fin 8, s.rb F.TMG_SMP_CTRL_EN = true → s.rb (F.TMG_RING_CFG_EN k.val) = true →
      (∀ j, j < 8 → j ≠ k.val → s.rb (F.TMG_RING_CFG_EN j) = false) → (s.tring k.val).2.2 = true → s.smpQueues k.val = [] →
      Runs .sampleRound s fun t =>
        let a := (s.tring k.val).1 + 16 * (s.regN (R.TMG_RING_PROD k.val) % (s.tring k.val).2.1)
        t.reg (R.TMG_RING_PROD k.val) = s.reg (R.TMG_RING_PROD k.val) + 1 ∧ t.read32 (a + 8) = s.gt.extractLsb' 0 32 ∧
          t.read32 (a + 12) = s.gt.extractLsb' 32 32 ∧ (∀ b, b < a ∨ a + 16 ≤ b → t.byte b = s.byte b) ∧
          RegsBut [R.TMG_RING_PROD k.val] s t) ∧
    (∀ (i : Init) (delivery : Bool) (n : Fin 16) (k : Fin 3) (v : Word),
      (if delivery then n.val = 7 ∨ n.val = 12 ∨ n.val = 13 ∨ n.val = 14 else n.val < 8) →
      let b := if delivery then R.TMG_DRING_BASE n.val else R.TMG_RING_BASE n.val
      s.MayWrite i (b + 4 * k.val) → (s.reg (b + 8)).getLsbD 31 = false → (k = 2 → 6 ≤ bits v 4 0 ∧ bits v 4 0 ≤ 20) →
      s.ringPlaced (s.ringAfter b (b + 4) (b + 8) k.val v).1 (16 * (s.ringAfter b (b + 4) (b + 8) k.val v).2) = true →
      Runs (.ringConfigWrite i delivery n k v) s fun t =>
        t.reg (b + 4 * k.val) = (if k = 0 then v else if k = 1 then v &&& 0xF else v &&& 0x8000001F) ∧
          RegsBut [b + 4 * k.val] s t ∧ SameBytes s t) ∧
    (∀ p : Fin 16, s.portWaits p.val = true → Sparse.getN s.pkt.stalled p.val = 0 → Runs (.portStall p) s fun t =>
      Sparse.getN t.pkt.stalled p.val = 1 ∧ Counted R.TMG_CNT_STALL s t ∧ RegsBut [R.TMG_CNT_STALL] s t ∧ SameBytes s t)

/-- R345 to R348: the channel commands, state by state; R334: path channels; R343: START. -/
def Obligations.DmaCommands : Prop :=
  ∀ (s : State) (i : Init) (n : Fin 128), s.MayWrite i (R.CH_CMD n.val) →
    let k := n.val
    let st := s.chState k
    let own (t : State) : Prop := RegsBut [R.CH_STAT k] s t ∧ SameBytes s t
    (k < 12 → ∀ c ∈ [Instr.dmaEnable i n, .dmaStart i n, .dmaPause i n, .dmaResume i n, .dmaStop i n, .dmaAbort i n, .dmaClear i n],
      exec c s = .next (s.chRefuse k St.RIGHTS)) ∧
    (12 ≤ k →
      (∀ p ∈ [(Instr.dmaEnable i n, [Cs.HALT]), (.dmaStart i n, [Cs.OFF, Cs.IDLE, Cs.RUN, Cs.PAUSED, Cs.HALT]),
          (.dmaPause i n, [Cs.OFF, Cs.HALT]), (.dmaResume i n, [Cs.OFF, Cs.IDLE, Cs.ARMED, Cs.RUN, Cs.HALT]),
          (.dmaAbort i n, [Cs.OFF, Cs.IDLE, Cs.PAUSED]), (.dmaClear i n, [Cs.OFF, Cs.IDLE, Cs.ARMED, Cs.RUN, Cs.PAUSED])],
        st ∈ p.2 → Runs p.1 s fun t =>
          t.reg (R.CH_ERR k) = 0x101 ∧ Counted R.DMA_CNT_STATE s t ∧ t.dma = s.dma ∧
            RegsBut [R.CH_ERR k, R.DMA_CNT_STATE] s t ∧ SameBytes s t) ∧
      (∀ p ∈ [(Instr.dmaEnable i n, [Cs.IDLE, Cs.ARMED, Cs.RUN, Cs.PAUSED]), (.dmaPause i n, [Cs.PAUSED]),
          (.dmaStop i n, [Cs.OFF]), (.dmaAbort i n, [Cs.HALT])], st ∈ p.2 → exec p.1 s = .next s) ∧
      (∀ p ∈ [(Instr.dmaEnable i n, Cs.OFF), (.dmaClear i n, Cs.HALT)], st = p.2 → Runs p.1 s fun t =>
        t.chState k = Cs.IDLE ∧ (t.ch k).desc = none ∧ (t.ch k).parked = false ∧ own t) ∧
      (st = Cs.ARMED → (s.rb (F.CH_SADDLE_ARM k) && s.rb (F.CH_SADDLE_WHEN k)) = false → Runs (.dmaStart i n) s fun t =>
        t.chState k = Cs.RUN ∧ (t.ch k).desc = (s.ch k).desc ∧ t.reg (R.CH_TSTART_LO k) = s.gt.extractLsb' 0 32 ∧
          RegsBut [R.CH_STAT k, R.CH_TSTART_LO k] s t ∧ SameBytes s t) ∧
      (st = Cs.IDLE ∨ st = Cs.ARMED → Runs (.dmaPause i n) s fun t => t.chState k = Cs.PAUSED ∧ t.dma = s.dma ∧ own t) ∧
      (st = Cs.RUN → Runs (.dmaPause i n) s fun t =>
        t.chState k = Cs.RUN ∧ t.rb (F.CH_STAT_PPEND k) = true ∧ t.dma = s.dma ∧ own t) ∧
      (st = Cs.PAUSED → Runs (.dmaResume i n) s fun t =>
        t.chState k = (if (s.ch k).desc.isSome then Cs.ARMED else Cs.IDLE) ∧ (t.ch k).desc = (s.ch k).desc ∧ own t) ∧
      (st = Cs.IDLE ∨ st = Cs.ARMED ∨ st = Cs.PAUSED ∨ st = Cs.HALT → Runs (.dmaStop i n) s fun t =>
        t.chState k = Cs.OFF ∧ (t.ch k).desc = none ∧ own t) ∧
      (st = Cs.RUN → Runs (.dmaStop i n) s fun t =>
        t.chState k = Cs.RUN ∧ t.rb (F.CH_STAT_SPEND k) = true ∧ t.dma = s.dma ∧ own t) ∧
      (st = Cs.RUN → (s.ch k).ended = none → Runs (.dmaAbort i n) s fun t =>
        (t.ch k).ended = some St.ABORTED ∧ (t.ch k).moved = (s.ch k).moved ∧ t.rb (F.CH_STAT_PPEND k) = false ∧
          t.rb (F.CH_STAT_SPEND k) = false ∧ own t) ∧
      (st = Cs.ARMED → (s.ch k).moved = 0 → (s.ch k).begun = false → s.writable Ini.DMA (s.chAt k) 32 = true →
        Runs (.dmaAbort i n) s fun t =>
          t.chState k = Cs.HALT ∧ t.read32 (s.chAt k + 28) = 0x0B ∧ t.rb (F.CH_STAT_ERRC k) = true ∧
            t.read32 (s.chAt k) = (s.ch k).word 0 &&& 0x7FFFFFFF ∧
            ∀ b, b < s.chAt k ∨ s.chAt k + 32 ≤ b → t.byte b = s.byte b))

/-- R336 to R343, R349, R360: descriptors of firmware channels. The bursts are those between memories. -/
def Obligations.DmaTransfers : Prop :=
  ∀ (s : State) (n : Fin 128), 12 ≤ n.val →
    let k := n.val
    let c := s.ch k
    let a := s.chAt k
    let outside (b len : Nat) (t : State) : Prop := ∀ x, x < b ∨ b + len ≤ x → t.byte x = s.byte x
    (∀ (i : Init) (v : Word), s.MayWrite i (R.CH_DOORBELL k) → v.getLsbD 0 = true →
      (s.chState k = Cs.IDLE → Runs (.doorbell i n v) s fun t =>
        (t.ch k).parked = false ∧ (c.parked = false → (t.ch k).bell = true) ∧ t.regs = s.regs ∧ SameBytes s t) ∧
      (s.chState k ≠ Cs.IDLE → exec (.doorbell i n v) s = .next s)) ∧
    (s.chState k = Cs.IDLE → c.parked = false →
      (s.readable a 32 = true → s.eccBad a 32 = false →
        ((s.read32 a).getLsbD 31 = true → s.dmaCheck k (s.words a 8) = St.OK → Runs (.descriptorFetch n false) s fun t =>
          t.chState k = (if (s.read32 a).getLsbD 29 && !c.noWait then Cs.ARMED else Cs.RUN) ∧
            (t.ch k).desc = some (s.words a 8) ∧ (t.ch k).ended = none ∧ (t.ch k).moved = 0 ∧ SameBytes s t) ∧
        ((s.read32 a).getLsbD 31 = true → s.dmaCheck k (s.words a 8) ≠ St.OK → Runs (.descriptorFetch n false) s fun t =>
          t.chState k = Cs.RUN ∧ (t.ch k).ended = some (s.dmaCheck k (s.words a 8)) ∧ (t.ch k).moved = 0 ∧ SameBytes s t) ∧
        ((s.read32 a).getLsbD 31 = false → Runs (.descriptorFetch n false) s fun t =>
          t.chState k = Cs.IDLE ∧ (t.ch k).parked = !c.bell ∧ (t.ch k).bell = false ∧ SameBytes s t)) ∧
      (∀ hw : Bool, hw = true ∨ s.readable a 32 = false → Runs (.descriptorFetch n hw) s fun t =>
        t.chState k = Cs.HALT ∧ t.rf (F.CH_STAT_LSTATUS k) = St.HW ∧ t.rb (F.CH_STAT_ERRC k) = true ∧
          RegsBut [R.CH_STAT k] s t ∧ SameBytes s t) ∧
      (s.readable a 32 = true → s.eccBad a 32 = true → Runs (.descriptorFetch n false) s fun t =>
        t.chState k = Cs.HALT ∧ t.rf (F.CH_STAT_LSTATUS k) = St.CHECK ∧ t.chHead k = s.chHead k ∧ SameBytes s t)) ∧
    (∀ request withdrawn : Bool, c.ended = none → c.begun = true → (c.word 0).getLsbD 21 = false →
      let paced := (c.word 0).getLsbD 28 && s.rf (F.CH_CFG_REQ k) != 0
      let d := c.desc.getD []
      let m := min (2 ^ s.rf (F.CH_CFG_BURST k)) (lenOf d - c.moved)
      let src := srcOf d + c.moved
      let dst := dstOf d + c.moved
      let whole (t : State) : Prop := (t.ch k).moved = c.moved + m ∧ outside dst m t ∧
        (t.ch k).ended = (if lenOf d ≤ c.moved + m then some St.OK else none) ∧
        t.rf (F.CH_CNT_LATEWD k) = (if paced && withdrawn then min (s.rf (F.CH_CNT_LATEWD k) + 1) 0xFFFF else s.rf (F.CH_CNT_LATEWD k))
      (s.rb F.DMA_CTRL_EN = false ∨ s.chState k ≠ Cs.RUN ∨ (paced = true ∧ request = false) → ∀ fail : Fin 3,
        exec (.dmaBurst n request withdrawn fail) s = .next s) ∧
      (s.rb F.DMA_CTRL_EN = true → s.chState k = Cs.RUN → paced = false ∨ request = true → (c.word 0).getLsbD 24 = false →
        regionOf dst m ≠ some 2 → s.writable Ini.DMA dst m = true →
        (kindOf (c.word 0) = 1 → Runs (.dmaBurst n request withdrawn 0) s fun t =>
          (∀ x, dst ≤ x → x < dst + m → t.byte x = (c.word 6).extractLsb' (8 * (x % 4)) 8) ∧ whole t) ∧
        (kindOf (c.word 0) = 0 → (c.word 0).getLsbD 25 = false → regionOf src m ≠ some 2 → s.readable src m = true →
          (s.eccBad src m = false →
            (Runs (.dmaBurst n request withdrawn 0) s fun t => (∀ j, j < m → t.byte (dst + j) = s.byte (src + j)) ∧ whole t) ∧
            (Runs (.dmaBurst n request withdrawn 2) s fun t =>
              (t.ch k).ended = some St.HW ∧ (t.ch k).moved = c.moved ∧ outside dst m t)) ∧
          (Runs (.dmaBurst n request withdrawn 1) s fun t =>
            (t.ch k).ended = some St.HW ∧ (t.ch k).moved = c.moved ∧ SameBytes s t) ∧
          (s.eccBad src m = true → Runs (.dmaBurst n request withdrawn 0) s fun t =>
            (t.ch k).ended = some St.CHECK ∧ (t.ch k).moved = c.moved ∧ SameBytes s t)))) ∧
    (s.chState k = Cs.RUN → c.ended = none → kindOf (c.word 0) = 2 → c.begun = true → c.charged = false →
      (∀ u, s.charge (10 + s.rf (F.CH_CFG_IPORT k)) (unitsOf (lenOf (c.desc.getD []))) = some u →
        Runs (.injectUnitsGrant n) s fun t => (t.ch k).charged = true ∧ t.regs = u.regs ∧ SameBytes s t) ∧
      (s.charge (10 + s.rf (F.CH_CFG_IPORT k)) (unitsOf (lenOf (c.desc.getD []))) = none →
        exec (.injectUnitsGrant n) s = .next s)) ∧
    (∀ st : Nat, s.chState k = Cs.RUN → c.ended = some st → s.writable Ini.DMA a 32 = true →
      let x := s.chCompare c st
      (Runs (.descriptorComplete n false) s fun t =>
        t.read32 a = c.word 0 &&& 0x7FFFFFFF ∧ t.read32 (a + 28) = BitVec.ofNat 32 (c.moved * 256 + x.1) ∧
          (∀ w, x.2 = some w → t.read32 (a + 24) = w) ∧ (x.2 = none → t.read32 (a + 24) = s.read32 (a + 24)) ∧
          (∀ b, b < a ∨ (a + 4 ≤ b ∧ b < a + 24) ∨ a + 32 ≤ b → t.byte b = s.byte b) ∧
          t.regN (R.CH_HEAD k) = (s.chHead k + 1) % (s.chRing k).2 ∧ t.rf (F.CH_STAT_LSTATUS k) = x.1 % 256 ∧
          t.chState k = (if s.rb (F.CH_STAT_SPEND k) then Cs.OFF else if st ≠ St.OK then Cs.HALT
            else if s.rb (F.CH_STAT_PPEND k) then Cs.PAUSED else Cs.IDLE) ∧
          (st ≠ St.OK ∨ x.1 ≠ St.OK → t.rb (F.CH_STAT_ERRC k) = true) ∧ t.rb (F.CH_STAT_SPEND k) = false ∧
          t.rb (F.CH_STAT_PPEND k) = false) ∧
      (Runs (.descriptorComplete n true) s fun t =>
        outside a 32 t ∧ t.regN (R.CH_HEAD k) = (s.chHead k + 1) % (s.chRing k).2 ∧ t.rf (F.CH_STAT_LSTATUS k) = St.HW ∧
          t.chState k = (if s.rb (F.CH_STAT_SPEND k) then Cs.OFF else Cs.HALT) ∧ t.rb (F.CH_STAT_ERRC k) = true)) ∧
    (∀ stamp : GTime,
      (s.rb (F.CH_CFG_TRIG k) = false → exec (.dmaTriggerStrobe n stamp) s = .next s) ∧
      (s.rb (F.CH_CFG_TRIG k) = true → s.chState k = Cs.ARMED →
        (s.rb (F.CH_SADDLE_ARM k) && s.rb (F.CH_SADDLE_WHEN k)) = false → Runs (.dmaTriggerStrobe n stamp) s fun t =>
          t.chState k = Cs.RUN ∧ (t.ch k).desc = c.desc ∧ t.reg (R.CH_TSTART_LO k) = stamp.extractLsb' 0 32 ∧
            RegsBut [R.CH_STAT k, R.CH_TSTART_LO k] s t ∧ SameBytes s t) ∧
      (s.rb (F.CH_CFG_TRIG k) = true → s.chState k ≠ Cs.ARMED → Runs (.dmaTriggerStrobe n stamp) s fun t =>
        t.rf (F.CH_CNT_TRIGMISS k) = min (s.rf (F.CH_CNT_TRIGMISS k) + 1) 0xFFFF ∧ t.rb (F.CH_STAT_TRIGMISS k) = true ∧
          t.chState k = s.chState k ∧ t.dma = s.dma ∧ RegsBut [R.CH_STAT k, R.CH_CNT k] s t ∧ SameBytes s t))

/-- R351, R353, R354: the Saddle of a firmware channel. -/
def Obligations.SaddleHandover : Prop :=
  ∀ (s : State) (n : Fin 128), 12 ≤ n.val →
    let k := n.val
    (∀ (i : Init) (j : Fin 4) (v : Word), s.MayWrite i (shadowReg k j.val) →
      let inRange := (j = 0 → 5 ≤ bits v 29 26 ∧ bits v 29 26 ≤ 12 ∧ bits v 25 21 ≤ 20) ∧ (j = 1 → v.toNat % 32 = 0) ∧
        (j = 2 → bits v 11 8 ≤ 12) ∧ (j = 3 → bits v 11 0 < 2 ^ s.rf (F.CH_SRING_HI_SIZE k))
      let mask : Word := if j = 0 then 0xFFFB0000 else if j = 1 then 0xFFFFFFFF else if j = 2 then 0xF0F else 0xFFF
      (inRange → Runs (.shadowWrite i n j v) s fun t =>
        t.reg (shadowReg k j.val) = (s.reg (shadowReg k j.val) &&& ~~~mask) ||| (v &&& mask) ∧
          t.rb (F.CH_SADDLE_DIRTY k) = true ∧ RegsBut [shadowReg k j.val, R.CH_SADDLE k] s t ∧ SameBytes s t) ∧
      (¬ inRange → Runs (.shadowWrite i n j v) s fun t =>
        t.reg (R.CH_ERR k) = 0x102 ∧ RegsBut [R.CH_ERR k] s t ∧ SameBytes s t)) ∧
    (∀ (i : Init) (v : Word), s.MayWrite i (R.CH_SADDLE k) → Runs (.saddleArm i n v) s fun t =>
      t.rb (F.CH_SADDLE_ARM k) = true ∧ t.rb (F.CH_SADDLE_WHEN k) = v.getLsbD 28 ∧
        t.rb (F.CH_SADDLE_TAKEN k) = (s.rb (F.CH_SADDLE_TAKEN k) && !v.getLsbD 30) ∧
        t.rf (F.CH_SADDLE_GEN k) = s.rf (F.CH_SADDLE_GEN k) ∧ RegsBut [R.CH_SADDLE k] s t ∧ SameBytes s t) ∧
    (s.rb (F.CH_SADDLE_ARM k) = true → s.rb (F.CH_SADDLE_WHEN k) = false → s.chState k ≠ Cs.RUN →
      (s.saddleOk k = true → Runs (.saddle n) s fun t =>
        t.reg (R.CH_CFG k) = s.reg (R.CH_SCFG k) ∧ t.reg (R.CH_RING_LO k) = s.reg (R.CH_SRING_LO k) ∧
          t.reg (R.CH_RING_HI k) = s.reg (R.CH_SRING_HI k) ∧ t.regN (R.CH_HEAD k) = s.rf (F.CH_SHEAD_HEAD k) ∧
          t.rf (F.CH_SADDLE_GEN k) = (s.rf (F.CH_SADDLE_GEN k) + 1) % 2 ^ 16 ∧ t.rb (F.CH_SADDLE_TAKEN k) = true ∧
          t.rb (F.CH_SADDLE_ARM k) = false ∧ t.rb (F.CH_SADDLE_DIRTY k) = false ∧ (t.ch k).desc = none ∧
          RegsBut [R.CH_CFG k, R.CH_RING_LO k, R.CH_RING_HI k, R.CH_HEAD k, R.CH_SADDLE k, R.CH_STAT k] s t ∧ SameBytes s t) ∧
      (s.saddleOk k = false → Runs (.saddle n) s fun t =>
        t.rb (F.CH_SADDLE_ARM k) = false ∧ t.reg (R.CH_ERR k) = 0x102 ∧
          t.rf (F.CH_SADDLE_GEN k) = s.rf (F.CH_SADDLE_GEN k) ∧ t.rb (F.CH_SADDLE_TAKEN k) = s.rb (F.CH_SADDLE_TAKEN k) ∧
          t.dma = s.dma ∧ RegsBut [R.CH_SADDLE k, R.CH_ERR k] s t ∧ SameBytes s t))

/-- R356 to R359: the check units; R361 to R363: the scan engine. -/
def Obligations.CheckUnitsAndScans : Prop :=
  ∀ (s : State) (i : Init),
    (∀ (u : Fin 16) (v : Word),
      let x := u.val
      let init (t : State) : Prop :=
        t.regN (R.CHK_VAL x) = t.regN (R.CHK_INIT x) % 2 ^ t.chkWidth x ∧ t.reg (R.CHK_AUX x) = 0 ∧ t.reg (R.CHK_COUNT x) = 0
      let busy (c : Instr) : Prop := s.chkBound x = true → Runs c s fun t =>
        t.reg (R.CHK_STAT x) = 0x105 ∧ RegsBut [R.CHK_STAT x] s t ∧ SameBytes s t
      (s.MayWrite i (R.CHK_CFG x) →
        (bits v 2 0 ≤ 5 → s.chkBound x = false → Runs (.chkPreset i u v) s fun t =>
          let p := presetRegs (bits v 2 0)
          t.rf (F.CHK_CFG_PRESET x) = bits v 2 0 ∧ t.regN (R.CHK_POLY x) = p.1 ∧ t.regN (R.CHK_INIT x) = p.2.1 ∧
            t.regN (R.CHK_XOROUT x) = p.2.2.1 ∧ t.regN (R.CHK_PCFG x) = p.2.2.2 ∧ init t) ∧
        (bits v 2 0 = 6 → s.chkBound x = false → Runs (.chkPreset i u v) s fun t =>
          t.rf (F.CHK_CFG_PRESET x) = 6 ∧ init t ∧
            RegsBut [R.CHK_CFG x, R.CHK_VAL x, R.CHK_AUX x, R.CHK_COUNT x] s t) ∧
        (bits v 2 0 ≤ 6 → busy (.chkPreset i u v))) ∧
      (∀ j : Fin 4, s.MayWrite i (chkCfgReg x j.val) → (j = 3 → 8 ≤ bits v 5 0 ∧ bits v 5 0 ≤ 32) →
        (s.chkBound x = false → Runs (.chkConfigWrite i u j v) s fun t =>
          (j ≠ 3 → t.reg (chkCfgReg x j.val) = v) ∧ (j = 3 → t.rf (F.CHK_PCFG_WIDTH x) = bits v 5 0) ∧
            t.rf (F.CHK_CFG_PRESET x) = (if s.rf (F.CHK_CFG_PRESET x) ≤ 4 then 6 else s.rf (F.CHK_CFG_PRESET x)) ∧
            RegsBut [chkCfgReg x j.val, R.CHK_CFG x] s t ∧ SameBytes s t) ∧
        busy (.chkConfigWrite i u j v)) ∧
      (∀ j : Fin 3, s.MayWrite i (chkDataReg x j.val) →
        (s.chkBound x = false → Runs (.chkDataFeed i u j v) s fun t =>
          t.regN (R.CHK_COUNT x) = (s.regN (R.CHK_COUNT x) + chkDataLen j.val) % 2 ^ 32 ∧
            (s.rf (F.CHK_CFG_PRESET x) ≠ 5 → 8 ≤ s.rf (F.CHK_PCFG_WIDTH x) → s.rf (F.CHK_PCFG_WIDTH x) ≤ 32 →
              t.regN (R.CHK_VAL x) = crcFeed (s.rf (F.CHK_PCFG_WIDTH x)) (s.regN (R.CHK_POLY x)) (s.rb (F.CHK_PCFG_REFIN x))
                (s.regN (R.CHK_VAL x) % 2 ^ s.rf (F.CHK_PCFG_WIDTH x)) (natBytes (chkDataLen j.val) v.toNat) % 2 ^ 32) ∧
            RegsBut [R.CHK_VAL x, R.CHK_AUX x, R.CHK_COUNT x] s t ∧ SameBytes s t) ∧
        busy (.chkDataFeed i u j v)) ∧
      (s.MayWrite i (R.CHK_CMD x) → v.getLsbD 0 = true →
        (s.chkBound x = false → Runs (.chkInit i u v) s fun t =>
          init t ∧ RegsBut [R.CHK_VAL x, R.CHK_AUX x, R.CHK_COUNT x] s t ∧ SameBytes s t) ∧
        busy (.chkInit i u v))) ∧
    (∀ v : Word, s.MayWrite i R.SCAN_CTRL →
      (s.rb F.SCAN_CTRL_BUSY = true ∨ (v.getLsbD 28 = false ∧ s.chkBound (bits v 19 16) = true) → Runs (.scanGo i v) s fun t =>
        t.rf F.SCAN_RES_STATUS = St.BUSY ∧ RegsBut [R.SCAN_RES] s t ∧ SameBytes s t) ∧
      (s.rb F.SCAN_CTRL_BUSY = false → v.getLsbD 28 = true ∨ s.chkBound (bits v 19 16) = false → Runs (.scanGo i v) s fun t =>
        t.rb F.SCAN_CTRL_BUSY = true ∧ t.rb F.SCAN_CTRL_MODE = v.getLsbD 28 ∧ t.rf F.SCAN_CTRL_UNIT = bits v 19 16 ∧
          (v.getLsbD 28 = true ∨ v.getLsbD 27 = true → RegsBut [R.SCAN_CTRL] s t) ∧ SameBytes s t) ∧
      (s.rb F.SCAN_CTRL_BUSY = true → Runs (.scanStop i v) s fun t =>
        t.rb F.SCAN_CTRL_STOP = true ∧ t.rb F.SCAN_CTRL_BUSY = true ∧ RegsBut [R.SCAN_CTRL] s t ∧ SameBytes s t)) ∧
    (∀ read : BitVec 32, s.rb F.SCAN_CTRL_BUSY = false → exec (.scanEnd false read) s = .next s) ∧
    (∀ read : BitVec 32, s.rb F.SCAN_CTRL_BUSY = true → s.rf F.SCAN_CTRL_MODE = 0 → s.rb F.SCAN_CTRL_STOP = false →
      let a := s.scanAddr
      let len := s.regN R.SCAN_LEN
      let u := s.rf F.SCAN_CTRL_UNIT
      (len = 0 ∨ regionOf a len = none → Runs (.scanEnd false read) s fun t =>
        t.reg R.SCAN_RES = 2 ∧ t.rb F.SCAN_CTRL_BUSY = false ∧ RegsBut [R.SCAN_RES, R.SCAN_CTRL] s t ∧ SameBytes s t) ∧
      (len ≠ 0 → (regionOf a len).isSome → regionOf a len ≠ some 2 → (isDram a = true → s.ready Fn.DRAM = true) →
        s.readable a len = true → s.eccBad a len = false → Runs (.scanEnd false read) s fun t =>
          let f := (s.chkFeed u (s.bytes a len)).chkFinal u
          let ok := s.rb F.SCAN_CTRL_CMP = false ∨ f % 2 ^ s.chkWidth u = s.regN R.SCAN_EXP % 2 ^ s.chkWidth u
          t.regN R.SCAN_VAL = f % 2 ^ 32 ∧ (ok → t.reg R.SCAN_RES = 0) ∧ (¬ ok → t.reg R.SCAN_RES = 0x8000000E) ∧
            t.rb F.SCAN_CTRL_BUSY = false ∧ SameBytes s t)) ∧
    (∀ read : BitVec 32, s.rb F.SCAN_CTRL_BUSY = true → s.rf F.SCAN_CTRL_MODE = 1 → s.rb F.SCAN_CTRL_STOP = false →
      let a := s.scanAddr
      let b := s.scanAddr2
      (regionOf a 1).isSome → (regionOf b 1).isSome → ((isDram a || isDram b) = true → s.ready Fn.DRAM = true) →
        s.readable a (s.copyLen a) = true → s.readable b (s.copyLen b) = true →
        s.eccBad a (s.copyLen a) = false → s.eccBad b (s.copyLen b) = false → Runs (.scanEnd false read) s fun t =>
          t.rb F.SCAN_RES_AOK = (s.copyAt a).isSome ∧ t.rb F.SCAN_RES_BOK = (s.copyAt b).isSome ∧
            (∀ x y, s.copyAt a = some x → s.copyAt b = some y →
              let d := (bytesNat ((y.drop 4).take 4) + 2 ^ 32 - bytesNat ((x.drop 4).take 4)) % 2 ^ 32
              t.rf F.SCAN_RES_WIN = (if x = y then 0 else if 1 ≤ d ∧ d < 2 ^ 31 then 2 else 1) ∧
                t.rb F.SCAN_RES_TIE = (decide (x ≠ y) && d == 0)) ∧
            ((s.copyAt a).isSome → s.copyAt b = none → t.rf F.SCAN_RES_WIN = 1) ∧
            (s.copyAt a = none → (s.copyAt b).isSome → t.rf F.SCAN_RES_WIN = 2) ∧
            (s.copyAt a = none → s.copyAt b = none → t.rf F.SCAN_RES_WIN = 3 ∧ t.rf F.SCAN_RES_STATUS = St.CHECK) ∧
            t.rb F.SCAN_CTRL_BUSY = false ∧ SameBytes s t)

/-- R382 to R386, R392, R394, R395, R410: keys, security associations and alarms. -/
def Obligations.CipherKeys : Prop :=
  ∀ (s : State) (i : Init) (tag : BitVec 8) (slot : Fin 1024),
    let n := slot.val
    let k := s.slot n
    let others (t : State) : Prop := ∀ m, m ≠ n → t.slot m = s.slot m
    let posted (opc st : Nat) (t : State) : Prop :=
      s.cry.kres.length < 16 → t.cry.kres = s.cry.kres ++ [⟨tag.toNat, opc, st⟩]
    let loaded (typ usage : Nat) (t : State) : Prop :=
      (t.slot n).st = Slot.LOADED ∧ (t.slot n).typ = typ ∧ (t.slot n).usage = usage ∧ (t.slot n).mask = s.reg R.CRY_KARG1 ∧
        (t.slot n).gen = k.gen + 1 ∧ others t ∧ SameBytes s t
    (s.MayWrite i R.CRY_KCMD →
      (∀ p ∈ [(Instr.cryLoad i tag slot, 1), (.cryUnwrap i tag slot, 2), (.cryGen i tag slot, 3), (.cryExport i tag slot, 4),
          (.cryErase i tag slot, 5), (.cryAttr i tag slot, 6), (.cryInfo i tag slot, 7)],
        ∀ st, s.keyGate p.2 n = some st → Runs p.1 s fun t =>
          posted p.2 st t ∧ t.reg R.CRY_ERR = BitVec.ofNat 32 (0x100 + st % 256) ∧ t.cry.slots = s.cry.slots ∧ SameBytes s t) ∧
      (s.keyGate 1 n = none → (s.keyArgsOk = true → Runs (.cryLoad i tag slot) s fun t =>
          loaded (s.rf F.CRY_KARG0_TYPE) (s.rf F.CRY_KARG0_USAGE) t ∧ posted 1 St.OK t ∧
            (t.slot n).key = (s.kdata 16).take (keyLen (s.rf F.CRY_KARG0_TYPE) (8 * s.rf F.CRY_KARG0_KLEN8)) ∧
            ∀ j, j < 16 → t.reg (R.CRY_KDATA j) = 0) ∧
        (s.keyArgsOk = false → Runs (.cryLoad i tag slot) s fun t => t.cry.slots = s.cry.slots ∧ posted 1 St.RANGE t)) ∧
      (s.keyGate 3 n = none → s.keyArgsOk = true → s.rf F.CRY_KARG0_TYPE ≠ 3 → s.rb F.PKE_STAT_DRBGOK = true →
        Runs (.cryGen i tag slot) s fun t =>
          loaded (s.rf F.CRY_KARG0_TYPE) (s.rf F.CRY_KARG0_USAGE) t ∧ posted 3 St.OK t ∧
            (t.slot n).key.length = keyLen (s.rf F.CRY_KARG0_TYPE) (8 * s.rf F.CRY_KARG0_KLEN8)) ∧
      (s.keyGate 2 n = none →
        let klen := keyLen (s.rf F.CRY_KARG0_TYPE) (8 * s.rf F.CRY_KARG0_KLEN8)
        (s.kek (s.rf F.CRY_KARG0_KEK) = none → Runs (.cryUnwrap i tag slot) s fun t =>
          t.cry.slots = s.cry.slots ∧ posted 2 St.NOKEY t) ∧
        (∀ kek, s.kek (s.rf F.CRY_KARG0_KEK) = some kek → s.readable s.kaddr (16 + klen) = true → s.eccBad s.kaddr (16 + klen) = false →
          (Aes.keyUnwrap (nats kek) (nats (s.bytes s.kaddr (16 + klen))) = none → Runs (.cryUnwrap i tag slot) s fun t =>
            t.cry.slots = s.cry.slots ∧ posted 2 St.AUTH t) ∧
          (∀ p, Aes.keyUnwrap (nats kek) (nats (s.bytes s.kaddr (16 + klen))) = some p →
            let a := Config.attrRead (p.take 8)
            let usage := a.2.1 &&& s.rf F.CRY_KARG0_USAGE
            a.1 ≤ 4 → suits a.1 usage = true → keyLen a.1 a.2.2 = klen → Runs (.cryUnwrap i tag slot) s fun t =>
              loaded a.1 usage t ∧ (t.slot n).key = toBytes (p.drop 8) ∧ posted 2 St.OK t))) ∧
      (s.keyGate 4 n = none → ∀ kek, s.kek (s.rf F.CRY_KARG0_KEK) = some kek →
        (k.usage &&& Usage.EXPORT = 0 → Runs (.cryExport i tag slot) s fun t =>
          posted 4 St.NOKEY t ∧ t.cry.slots = s.cry.slots ∧ SameBytes s t) ∧
        (k.usage &&& Usage.EXPORT ≠ 0 → s.writable Ini.CRY s.kaddr (16 + k.key.length) = true →
          let blob := toBytes (Aes.keyWrap (nats kek) (((Config.attrBlock k.typ k.usage k.key.length).take 8 ++
            List.replicate (8 - (Config.attrBlock k.typ k.usage k.key.length).length) 0) ++ nats k.key))
          Runs (.cryExport i tag slot) s fun t =>
            t.bytes s.kaddr blob.length = blob ∧ (∀ a, a < s.kaddr ∨ s.kaddr + blob.length ≤ a → t.byte a = s.byte a) ∧
              posted 4 St.OK t ∧ t.cry.slots = s.cry.slots)) ∧
      (s.keyGate 5 n = none →
        (s.slotState n = Slot.LOADED → Runs (.cryErase i tag slot) s fun t =>
          (t.slot n).st = Slot.ERASING ∧ (t.slot n).key = k.key ∧ (t.slot n).gen = k.gen ∧ others t ∧ t.cry.kres = s.cry.kres ∧
            t.regs = s.regs ∧ SameBytes s t) ∧
        (s.slotState n ≠ Slot.LOADED → Runs (.cryErase i tag slot) s fun t =>
          t.cry.slots = s.cry.slots ∧ posted 5 St.OK t ∧ SameBytes s t)) ∧
      (s.keyGate 6 n = none → Runs (.cryAttr i tag slot) s fun t =>
        t.slot n = { k with usage := k.usage &&& s.rf F.CRY_KARG0_USAGE, mask := k.mask &&& s.reg R.CRY_KARG1 } ∧ others t ∧
          posted 6 St.OK t ∧ SameBytes s t) ∧
      (s.keyGate 7 n = none → Runs (.cryInfo i tag slot) s fun t =>
        t.reg R.CRY_KGEN = s.slotGen n ∧ t.reg R.CRY_KERASEGEN = s.slotEraseGen n ∧
          t.reg R.CRY_KINFO1 = (if s.slotState n = Slot.EMPTY then 0 else k.mask) ∧ t.cry.slots = s.cry.slots ∧
          posted 7 St.OK t ∧ SameBytes s t)) ∧
    (k.st = Slot.ERASING → Runs (.eraseComplete slot) s fun t =>
      t.slot n = { KeySlot.empty with gen := k.gen + 1, eraseGen := k.gen + 1 } ∧ others t ∧
        (s.cry.kres.length < 16 → t.cry.kres = s.cry.kres ++ [⟨k.tag, 5, St.OK⟩]) ∧
        (∀ o ∈ t.cry.ops, o.started = true → o.slot = n → o.final.isSome)) ∧
    (k.st ≠ Slot.ERASING → exec (.eraseComplete slot) s = .next s) ∧
    (s.MayRead i R.CRY_KRES → (s.cry.kres = [] → Runs (.cryKeyResultPop i) s fun t => t.out = .busData i 0 :: s.out ∧ t.cry = s.cry) ∧
      (∀ x xs, s.cry.kres = x :: xs → Runs (.cryKeyResultPop i) s fun t =>
        t.out = .busData i x.word :: s.out ∧ t.cry.kres = xs ∧ t.cry.slots = s.cry.slots ∧ t.regs = s.regs)) ∧
    (∀ j : Fin 256, s.MayWrite i R.CRY_SACMD → s.ready Fn.CRY = true →
      let a := s.saAddr
      let otherSas (t : State) : Prop := ∀ m, m ≠ j.val → t.sa m = s.sa m
      ((s.sa j.val).valid = true → Runs (.saLoad i tag j) s fun t => t.cry.sas = s.cry.sas ∧ posted 0x81 St.STATE t ∧ SameBytes s t) ∧
      ((s.sa j.val).valid = false → s.readable a 128 = true → s.eccBad a 128 = false →
        let win := bits (s.read32 (a + 12)) 10 0
        (win % 64 = 0 ∧ 64 ≤ win ∧ win ≤ 1024 → Runs (.saLoad i tag j) s fun t =>
          (t.sa j.val).valid = true ∧ (t.sa j.val).bitmap = 0 ∧ (t.sa j.val).w 3 = win ∧
            (∀ m, 1 ≤ m → m ≤ 10 → m ≠ 3 → (t.sa j.val).w m = (s.read32 (a + 4 * m)).toNat) ∧
            (∀ m, 11 ≤ m → m < 32 → (t.sa j.val).w m = 0) ∧ otherSas t ∧ posted 0x81 St.OK t ∧ SameBytes s t) ∧
        (¬ (win % 64 = 0 ∧ 64 ≤ win ∧ win ≤ 1024) → Runs (.saLoad i tag j) s fun t =>
          t.cry.sas = s.cry.sas ∧ posted 0x81 St.RANGE t)) ∧
      (Runs (.saErase i tag j) s fun t => (t.sa j.val).valid = false ∧ otherSas t ∧ posted 0x82 St.OK t ∧ SameBytes s t) ∧
      (s.writable Ini.CRY a 128 = true → Runs (.saRead i tag j) s fun t =>
        (∀ m, m < 32 → t.read32 (a + 4 * m) = (s.sa j.val).words.getD m 0) ∧
          (∀ b, b < a ∨ a + 128 ≤ b → t.byte b = s.byte b) ∧ posted 0x83 St.OK t ∧ t.cry.sas = s.cry.sas)) ∧
    (∀ c : Fin 10,
      ((s.reg R.CRY_ALMPOL ||| 0x2C9#32).getLsbD c.val = false → Runs (.alarmCondition c) s fun t =>
        t.reg R.CRY_ALMSTAT = s.reg R.CRY_ALMSTAT ||| BitVec.ofNat 32 (2 ^ c.val) ∧ t.cry = s.cry ∧ t.pke = s.pke ∧
          RegsBut [R.CRY_ALMSTAT] s t ∧ SameBytes s t) ∧
      ((s.reg R.CRY_ALMPOL ||| 0x2C9#32).getLsbD c.val = true → Runs (.alarmCondition c) s fun t =>
        t.reg R.CRY_ALMSTAT = s.reg R.CRY_ALMSTAT ||| BitVec.ofNat 32 (2 ^ c.val) ∧ t.cry.ctxk = [] ∧
          (∀ m, t.slotState m = Slot.ERASING) ∧ t.rb F.PKE_STAT_DRBGOK = false ∧
          ∀ o ∈ t.cry.ops, o.started = true → o.final.isSome)) ∧
    (s.cry.almErase = true → Runs .alarmEraseDone s fun t =>
      (∀ m, t.slotState m = Slot.EMPTY ∧ (t.slot m).key = [] ∧ t.slotEraseGen m = t.slotGen m) ∧
        (Sparse.wf (fun _ => KeySlot.empty) s.cry.slots = true → ∀ m, t.slotGen m = s.slotGen m + 1) ∧ t.cry.sas = [] ∧
        t.rb F.CRY_STAT_ALARM = true ∧ t.rb F.CRY_STAT_HUKBLK = true ∧ t.rb F.PKE_STAT_DRBGOK = true ∧ t.cry.ctxk.length = 32 ∧
        SameBytes s t) ∧
    (s.cry.almErase = false → exec .alarmEraseDone s = .next s) ∧
    (∀ v : Word, s.MayWrite i R.CRY_ALMCLR →
      (i.val = Ini.MC5 → v.getLsbD 0 = true → Runs (.alarmClear i v) s fun t =>
        t.rb F.CRY_STAT_ALARM = false ∧ RegsBut [R.CRY_STAT] s t ∧ t.cry = s.cry ∧ SameBytes s t) ∧
      (i.val ≠ Ini.MC5 → Runs (.alarmClear i v) s fun t =>
        t.reg R.CRY_ERR = 0x104 ∧ RegsBut [R.CRY_ERR] s t ∧ t.cry = s.cry ∧ SameBytes s t)) ∧
    (∀ v : Word, s.MayWrite i R.CRY_ALMLOCK → Runs (.alarmLock i v) s fun t =>
      t.reg R.CRY_ALMLOCK = s.reg R.CRY_ALMLOCK ||| (v &&& 1) ∧ RegsBut [R.CRY_ALMLOCK] s t ∧ t.cry = s.cry ∧ SameBytes s t)

/-- R373 to R378, R380, R388 to R391, R410: the pages of the cipher engine. -/
def Obligations.CipherPages : Prop :=
  ∀ (s : State) (i : Init),
    (∀ n : Fin 32, let p := n.val
      let ring := s.pgRing p
      let a := ring.1 + 64 * (s.rf (F.PG_HEAD_HEAD p) % ring.2)
      (∀ v : Word, s.MayWrite i (R.PG_DOORBELL p) → v.getLsbD 0 = true → 6 ≤ p → Runs (.pageDoorbell i n v) s fun t =>
        (t.page p).parked = false ∧ (t.page p).results = (s.page p).results ∧ t.regs = s.regs ∧ SameBytes s t) ∧
      (s.pgCanFetch p = false → exec (.cryDescriptorFetch n) s = .next s) ∧
      (s.pgCanFetch p = true → s.pgInWindow p ring.1 (64 * ring.2) = false → Runs (.cryDescriptorFetch n) s fun t =>
        t.rf (F.PG_STAT_STATE p) = Pg.HALT ∧ t.rf (F.PG_STAT_LSTATUS p) = St.RANGE ∧ t.rb (F.PG_STAT_ERRC p) = true ∧
          t.cry = s.cry ∧ RegsBut [R.PG_STAT p] s t ∧ SameBytes s t) ∧
      (s.pgCanFetch p = true → s.pgInWindow p ring.1 (64 * ring.2) = true → s.cry.ops = [] → s.readable a 64 = true →
        s.eccBad a 64 = false → s.ready Fn.CRY = true →
        ((s.read32 a).getLsbD 31 = false → Runs (.cryDescriptorFetch n) s fun t =>
          (t.page p).parked = true ∧ t.cry.ops = [] ∧ SameBytes s t) ∧
        ((s.read32 a).getLsbD 31 = true → s.descCheck (descOp p (s.words a 16)) (s.words a 16) = none →
          Runs (.cryDescriptorFetch n) s fun t => t.cry.ops = [descOp p (s.words a 16)] ∧ SameBytes s t) ∧
        (∀ st, (s.read32 a).getLsbD 31 = true → s.descCheck (descOp p (s.words a 16)) (s.words a 16) = some st →
          s.rf (F.PG_HEAD_HEAD p) < ring.2 → Runs (.cryDescriptorFetch n) s fun t =>
            t.read32 (a + 56) = BitVec.ofNat 32 st ∧ t.read32 a = s.read32 a &&& 0x7FFFFFFF ∧
              t.rf (F.PG_HEAD_HEAD p) = (s.rf (F.PG_HEAD_HEAD p) + 1) % ring.2 % 2 ^ 11 ∧
              t.rf (F.PG_STAT_STATE p) = (if halts st then Pg.HALT else s.rf (F.PG_STAT_STATE p)) ∧ t.cry.ops = [] ∧
              ∀ b, b < a ∨ (a + 4 ≤ b ∧ b < a + 56) ∨ a + 64 ≤ b → t.byte b = s.byte b))) ∧
    (∀ (n : Fin 6) (op : InlineOp), n.val ≠ 4 →
      let o := inlineOp n.val op
      let fits := tagLenOk o.mode o.tagLen && nLenOk o.mode (if o.mode ≤ 2 then 0 else o.iv.length) && o.lenOk
      (s.ready Fn.CRY = true → fits = true → Runs (.inlineOperation n op) s fun t =>
        t.cry.ops = s.cry.ops ++ [o] ∧ t.out = s.out ∧ RegsBut [R.CRY_STAT] s t ∧ SameBytes s t) ∧
      (s.ready Fn.CRY = false → exec (.inlineOperation n op) s = .next (s.emit (.cryResult n.val St.NOTREADY [] []))) ∧
      (s.ready Fn.CRY = true → fits = false → exec (.inlineOperation n op) s = .next (s.emit (.cryResult n.val St.RANGE [] [])))) ∧
    (∀ c, s.freeCore = some c →
      (s.opPick true s.cry.ops.zipIdx = none → exec .coreAssign s = .next s) ∧
      (∀ o k key gen, s.opPick true s.cry.ops.zipIdx = some (o, k) → o.started = false → s.opKey o = .ok (key, gen) →
        Runs .coreAssign s fun t =>
          t.cry.ops = s.cry.ops.set k { o with core := some c, started := true, key := key, gen := gen } ∧
            RegsBut [R.CRY_STAT] s t ∧ SameBytes s t) ∧
      (∀ o k, s.opPick true s.cry.ops.zipIdx = some (o, k) → o.fw = false → o.esp = none → o.started = false →
        s.opKey o = .error St.NOKEY → Runs .coreAssign s fun t =>
          t.cry.ops = s.cry.ops.eraseIdx k ∧ t.out = .cryResult o.page St.NOKEY [] [] :: s.out ∧
            Counted R.CRY_CNT_NOKEY s t ∧ SameBytes s t)) ∧
    (∀ c : Fin 12, (s.cry.ops.all (fun o => o.core != some c.val) = true → exec (.cryOperationComplete c) s = .next s) ∧
      (∀ k o, s.cry.ops.findIdx? (fun o => o.core == some c.val) = some k → s.cry.ops[k]? = some o → o.esp = none →
        (o.fw = false →
          let y := o.yield CryCtx.free (nats o.aad) (nats o.data)
          let tag := toBytes (y.tag.take o.tagLen)
          (y.status = St.OK → (o.compares && tag != o.tag) = false → Runs (.cryOperationComplete c) s fun t =>
            t.out = .cryResult o.page St.OK (toBytes y.out) tag :: s.out ∧ t.cry.ops = s.cry.ops.eraseIdx k ∧
              Counted R.CRY_CNT_OPS s t ∧ SameBytes s t) ∧
          (y.status = St.OK → (o.compares && tag != o.tag) = true → Runs (.cryOperationComplete c) s fun t =>
            t.out = .cryResult o.page St.AUTH [] [] :: s.out ∧ t.cry.ops = s.cry.ops.eraseIdx k ∧
              Counted R.CRY_CNT_AUTH s t ∧ SameBytes s t)) ∧
        (∀ f, o.fw = true → o.mode ≤ 2 → o.chain = 0 → o.aadLen = 0 → s.pgFirst o.page = some f → f.final = none →
          f.core ≠ some c.val → (o.len ≠ 0 → s.readable o.src o.len = true ∧ s.eccBad o.src o.len = false) →
          (o.outLen ≠ 0 → s.writable Ini.CRY o.dst o.outLen = true) →
          let y := o.yield CryCtx.free [] (nats (s.bytes o.src o.len))
          y.status = St.OK → Runs (.cryOperationComplete c) s fun t =>
            t.bytes o.dst y.out.length = toBytes y.out ∧
              (∀ b, b < o.dst ∨ o.dst + y.out.length ≤ b → t.byte b = s.byte b) ∧
              t.cry.ops = s.cry.ops.set k { o with core := none, final := some (St.OK, y.out.length) }))) ∧
    (∀ (n : Fin 32) (tag : BitVec 8), s.MayWrite i (R.PG_CMD n.val) → let p := n.val
      let st := s.rf (F.PG_STAT_STATE p)
      let posted (opc code : Nat) (t : State) : Prop := (s.page p).results.length < 16 →
        (t.page p).results = (s.page p).results ++ [⟨tag.toNat, opc, code⟩]
      (p < 6 → ∀ d : Fin 4, ∀ c ∈ [(Instr.pageEnable i n tag, 1), (.pageStop i n tag, 2), (.pageClear i n tag, 3),
          (.ctxSave i n tag d, 4), (.ctxRestore i n tag d, 5), (.ctxDrop i n tag d, 6)], Runs c.1 s fun t =>
        posted c.2 St.RIGHTS t ∧ t.cry.ops = s.cry.ops ∧ t.cry.ctx = s.cry.ctx ∧ SameBytes s t) ∧
      (6 ≤ p → s.ready Fn.CRY = true →
        (Runs (.pageEnable i n tag) s fun t =>
          t.rf (F.PG_STAT_STATE p) = (if st = Pg.OFF then Pg.RUN else st) ∧
            posted 1 (if st = Pg.HALT then St.STATE else St.OK) t ∧ (st = Pg.OFF → (t.page p).parked = false) ∧
            t.cry.ops = s.cry.ops ∧ SameBytes s t) ∧
        (Runs (.pageClear i n tag) s fun t =>
          t.rf (F.PG_STAT_STATE p) = (if st = Pg.HALT then Pg.RUN else st) ∧
            posted 3 (if st = Pg.HALT then St.OK else St.STATE) t ∧ t.cry.ops = s.cry.ops ∧ SameBytes s t) ∧
        (st ≠ Pg.OFF → s.pgFirst p = none → Runs (.pageStop i n tag) s fun t =>
          t.rf (F.PG_STAT_STATE p) = Pg.OFF ∧ (t.page p).stopping = false ∧ posted 2 St.OK t ∧ SameBytes s t) ∧
        (∀ f, st ≠ Pg.OFF → s.pgFirst p = some f → f.final = none → Runs (.pageStop i n tag) s fun t =>
          t.rf (F.PG_STAT_STATE p) = st ∧ (t.page p).stopping = true ∧ t.cry.ops = s.cry.ops ∧ posted 2 St.OK t ∧ SameBytes s t) ∧
        (∀ c : Fin 4, let x := s.ctx p c.val
          let at_ := s.ctxAddr p
          let same (t : State) : Prop := ∀ q d, (q ≠ p ∨ d ≠ c.val) → d < 4 → t.ctx q d = s.ctx q d
          (s.ctxBusy p c.val = true → ∀ y ∈ [(Instr.ctxSave i n tag c, 4), (.ctxDrop i n tag c, 6)], Runs y.1 s fun t =>
            posted y.2 St.BUSY t ∧ t.cry.ctx = s.cry.ctx ∧ SameBytes s t) ∧
          (s.ctxBusy p c.val = false →
            (Runs (.ctxDrop i n tag c) s fun t => t.ctx p c.val = CryCtx.free ∧ same t ∧ posted 6 St.OK t ∧ SameBytes s t) ∧
            (s.rb (F.PG_CTXFMT_WRAPPED p) = false → s.rb (F.CRY_PGCFG_CLRCTX p) = false → Runs (.ctxSave i n tag c) s fun t =>
              posted 4 St.RIGHTS t ∧ t.cry.ctx = s.cry.ctx ∧ SameBytes s t) ∧
            (s.rb (F.PG_CTXFMT_WRAPPED p) = false → s.rb (F.CRY_PGCFG_CLRCTX p) = true → x.st = 1 →
              s.pgInWindow p at_ 64 = true → s.writable Ini.CRY at_ 64 = true → Runs (.ctxSave i n tag c) s fun t =>
                t.bytes at_ 64 = clearRecord p x ∧ (∀ b, b < at_ ∨ at_ + 64 ≤ b → t.byte b = s.byte b) ∧
                  t.ctx p c.val = CryCtx.free ∧ same t ∧ posted 4 St.OK t)) ∧
          (x.st ≠ 0 → Runs (.ctxRestore i n tag c) s fun t => posted 5 St.STATE t ∧ t.cry.ctx = s.cry.ctx ∧ SameBytes s t) ∧
          (let wrapped := s.rb (F.PG_CTXFMT_WRAPPED p)
            let len := if wrapped then 144 else 64
            let b := s.bytes at_ len
            x.st = 0 → s.pgInWindow p at_ len = true → s.readable at_ len = true → s.eccBad at_ len = false →
              (bytesNat (b.take 4) / 2 ^ 16 % 32 ≠ p → Runs (.ctxRestore i n tag c) s fun t =>
                posted 5 St.RIGHTS t ∧ t.cry.ctx = s.cry.ctx ∧ SameBytes s t) ∧
              (bytesNat (b.take 4) / 2 ^ 16 % 32 = p →
                (∀ code, (if wrapped then s.restoreWrapped b else s.restoreClear p b) = .error code → Runs (.ctxRestore i n tag c) s fun t =>
                  posted 5 code t ∧ t.cry.ctx = s.cry.ctx ∧ SameBytes s t) ∧
                (∀ y, (if wrapped then s.restoreWrapped b else s.restoreClear p b) = .ok y → Runs (.ctxRestore i n tag c) s fun t =>
                  t.ctx p c.val = y ∧ same t ∧ posted 5 St.OK t ∧ SameBytes s t)))))) ∧
    (∀ (n : Fin 32) (x : KRes) (xs : List KRes), s.MayRead i (R.PG_RES n.val) → (s.page n.val).results = x :: xs →
      Runs (.pageResultPop i n) s fun t =>
        t.out = .busData i x.word :: s.out ∧ (t.page n.val).results = xs ∧ t.regs = s.regs ∧ SameBytes s t)

/-- R396 to R398, R400, R404 to R409, R411: PKE. `c` is the command at the head of the queue. -/
def Obligations.PublicKeyEngine : Prop :=
  ∀ (s : State) (i : Init),
    (∀ v : Word, s.MayWrite i R.PKE_CMD_PUSH → v.getLsbD 0 = true →
      let c : PkeCmd := ⟨i.val, (List.range 8).map (fun k => s.reg (R.PKE_CMD_W k))⟩
      (s.pkePushCheck c = none → Runs (.pkeCmdPush i v) s fun t =>
        t.pke.queue = s.pke.queue ++ [c] ∧ RegsBut [R.PKE_STAT] s t ∧ SameBytes s t) ∧
      (∀ st, s.pkePushCheck c = some st → Runs (.pkeCmdPush i v) s fun t =>
        t.reg R.PKE_ERR = BitVec.ofNat 32 (0x100 + st % 256) ∧ Counted R.PKE_CNT_FAIL s t ∧ t.pke = s.pke ∧ SameBytes s t)) ∧
    (∀ p ∈ [(Instr.pkeHash, 1), (.pkeHmac, 2), (.pkeKdf, 3), (.pkeKeygen, 4), (.pkePubkey, 5), (.pkeSign, 6), (.pkeVerify, 7),
        (.pkeEcdh, 8), (.pkeRandom, 9), (.pkeReseed, 10), (.pkeMextend, 11), (.pkeAttest, 12), (.pkeSvnset, 13), (.pkeRevoke, 14)],
      (s.pke.queue = [] → exec p.1 s = .next s) ∧
      (∀ c cs, s.pke.queue = c :: cs → c.opc ≠ p.2 ∨ s.rb F.PKE_CTRL_EN = false → exec p.1 s = .next s) ∧
      (∀ c cs, s.pke.queue = c :: cs → c.opc = p.2 → s.rb F.PKE_CTRL_EN = true → s.ready Fn.PKE = false →
        exec p.1 s = .next (s.pkeDone c St.NOTREADY))) ∧
    (∀ (c : PkeCmd) (cs : List PkeCmd), s.pke.queue = c :: cs → s.rb F.PKE_CTRL_EN = true → s.ready Fn.PKE = true →
      let ended (st : Nat) (t : State) : Prop := t.pke.queue = cs ∧
        (s.pke.results.length < 16 → t.pke.results = s.pke.results ++ [⟨c.f 0 23 16, c.opc, st⟩])
      let wrote (d : List Byte) (t : State) : Prop := t.bytes c.outp d.length = d ∧
        (∀ b, b < c.outp ∨ c.outp + d.length ≤ b → t.byte b = s.byte b)
      let loaded (typ : Nat) (t : State) : Prop :=
        (t.slot c.slot2).st = Slot.LOADED ∧ (t.slot c.slot2).typ = typ ∧ (t.slot c.slot2).usage = c.f 6 23 16 ∧
          (t.slot c.slot2).mask = c.w.getD 7 0 ∧ (t.slot c.slot2).gen = (s.slot c.slot2).gen + 1 ∧
          ∀ m, m ≠ c.slot2 → t.slot m = s.slot m
      (∀ d, c.opc = 1 → c.chain = 0 → s.pkeIn c.inp c.len = .ok d →
        s.writable Ini.PKE c.outp (hashOf c.sha256 d).length = true → Runs .pkeHash s fun t =>
          wrote (hashOf c.sha256 d) t ∧ ended St.OK t ∧ t.cry.slots = s.cry.slots) ∧
      (∀ d key, c.opc = 2 → c.chain = 0 → s.pkeKey c.slot 2 Usage.MAC = .ok key → s.pkeIn c.inp c.len = .ok d →
        s.writable Ini.PKE c.outp (hmacOf c.sha256 key d).length = true → Runs .pkeHmac s fun t =>
          wrote (hmacOf c.sha256 key d) t ∧ ended St.OK t ∧ t.cry.slots = s.cry.slots) ∧
      (∀ st, c.opc = 2 → c.chain = 0 → s.pkeKey c.slot 2 Usage.MAC = .error st → Runs .pkeHmac s fun t =>
        ended st t ∧ SameBytes s t) ∧
      (∀ d key, c.opc = 3 → s.pkeKey c.slot 2 Usage.DERIVE = .ok key → s.pkeIn c.inp c.len = .ok d →
        s.pkeTarget c.slot2 = St.OK → Runs .pkeKdf s fun t =>
          loaded (c.f 6 31 28) t ∧ ended St.OK t ∧ SameBytes s t ∧
            let n := keyLen (c.f 6 31 28) 48
            (t.slot c.slot2).key = toBytes ((kdfBlocks (nats key) (Config.kdfFixed (nats d) (8 * n)) 1 ((n + 47) / 48)).take n)) ∧
      (c.opc = 4 → s.pkeTarget c.slot2 = St.OK → s.writable Ini.PKE c.outp 96 = true → Runs .pkeKeygen s fun t =>
        loaded 3 t ∧ ended St.OK t ∧ ∃ d, 1 ≤ d ∧ d < P384.n ∧ (t.slot c.slot2).key = toBytes (Sha.toBe 48 d) ∧
          wrote (pointBytes (P384.pub d)) t) ∧
      (∀ st, c.opc = 4 → s.pkeTarget c.slot2 = st → st ≠ St.OK → Runs .pkeKeygen s fun t =>
        ended st t ∧ t.cry.slots = s.cry.slots ∧ SameBytes s t) ∧
      (∀ key, c.opc = 5 → s.pkeKey c.slot 3 0 = .ok key →
        s.writable Ini.PKE c.outp (pointBytes (P384.pub (bytesNatBe key))).length = true → Runs .pkePubkey s fun t =>
          wrote (pointBytes (P384.pub (bytesNatBe key))) t ∧ ended St.OK t ∧ t.cry.slots = s.cry.slots) ∧
      (∀ key h, c.opc = 6 → s.pkeKey c.slot 3 Usage.SIGN = .ok key → s.pkeIn c.inp 48 = .ok h →
        s.writable Ini.PKE c.outp 96 = true → Runs .pkeSign s fun t =>
          ended St.OK t ∧ ∃ k, 1 ≤ k ∧ k < P384.n ∧ wrote (pointBytes (P384.sign (bytesNatBe key) k (bytesNatBe h))) t) ∧
      (c.opc = 7 → Runs .pkeVerify s fun t => ended (verifyCode (s.pkeIn c.inp 240)) t ∧ SameBytes s t ∧ t.cry.slots = s.cry.slots) ∧
      (∀ key d, c.opc = 8 → s.pkeKey c.slot 3 Usage.ECDH = .ok key → s.pkeIn c.inp 96 = .ok d → s.pkeTarget c.slot2 = St.OK →
        let x := bytesNatBe (d.take 48)
        let y := bytesNatBe (d.drop 48)
        (P384.onCurve x y = false → Runs .pkeEcdh s fun t => ended St.AUTH t ∧ t.cry.slots = s.cry.slots ∧ SameBytes s t) ∧
        (P384.onCurve x y = true → Runs .pkeEcdh s fun t => loaded 2 t ∧ ended St.OK t ∧ SameBytes s t ∧
          (t.slot c.slot2).key = toBytes (Sha.toBe 48 ((P384.smul 384 (bytesNatBe key) (some (x, y))).getD (0, 0)).1))) ∧
      (c.opc = 9 → s.writable Ini.PKE c.outp c.len = true → Runs .pkeRandom s fun t =>
        ended St.OK t ∧ ∀ b, b < c.outp ∨ c.outp + c.len ≤ b → t.byte b = s.byte b) ∧
      (c.opc = 10 → Runs .pkeReseed s fun t =>
        ended St.OK t ∧ t.pke.gens = 0 ∧ Counted R.PKE_CNT_RESEED s t ∧ t.cry = s.cry ∧ SameBytes s t) ∧
      (c.opc = 11 → (c.f 6 7 0 = 0 ∨ (c.f 6 7 0 ≤ 3 ∧ c.ini ≠ Ini.MC5) → Runs .pkeMextend s fun t =>
          ended St.RIGHTS t ∧ t.pke.mr = s.pke.mr ∧ SameBytes s t) ∧
        (∀ d, c.f 6 7 0 ≠ 0 → (c.f 6 7 0 ≤ 3 → c.ini = Ini.MC5) → s.pkeIn c.inp 48 = .ok d → Runs .pkeMextend s fun t =>
          t.mr (c.f 6 7 0) = sha384b (s.mr (c.f 6 7 0) ++ d) ∧ (∀ m, m ≠ c.f 6 7 0 → t.mr m = s.mr m) ∧ ended St.OK t ∧
            SameBytes s t)) ∧
      (c.opc = 12 → (s.attestStop = true → Runs .pkeAttest s fun t => ended St.NOKEY t ∧ SameBytes s t) ∧
        (∀ nonce, s.attestStop = false → s.pkeIn c.inp 48 = .ok nonce →
          s.writable Ini.PKE c.outp ((s.report nonce).length + 96) = true → Runs .pkeAttest s fun t =>
            ended St.OK t ∧ ∃ k, 1 ≤ k ∧ k < P384.n ∧ wrote (s.report nonce ++
              pointBytes (P384.sign (bytesNatBe (s.slot 1023).key) k (bytesNatBe (sha384b (s.report nonce))))) t)) ∧
      (c.opc = 13 → let x := c.f 6 7 0
        (c.ini ≠ Ini.MC5 ∨ s.lifecycle ≠ 3 → Runs .pkeSvnset s fun t => ended St.RIGHTS t ∧ t.minSvn x = s.minSvn x) ∧
        (c.ini = Ini.MC5 → s.lifecycle = 3 → x ≤ 7 → c.len < s.minSvn x → Runs .pkeSvnset s fun t =>
          ended St.RANGE t ∧ t.minSvn x = s.minSvn x) ∧
        (c.ini = Ini.MC5 → s.lifecycle = 3 → x ≤ 7 → s.minSvn x ≤ c.len → c.len ≤ 63 → Runs .pkeSvnset s fun t =>
          ended St.OK t ∧ t.minSvn x = c.len ∧ (∀ y, y ≤ 7 → y ≠ x → t.minSvn y = s.minSvn y) ∧ SameBytes s t)) ∧
      (c.opc = 14 → let rev := s.revoked ||| 2 ^ c.f 6 7 0
        (c.ini ≠ Ini.MC5 ∨ s.lifecycle ≠ 3 → Runs .pkeRevoke s fun t => ended St.RIGHTS t ∧ t.revoked = s.revoked) ∧
        (c.ini = Ini.MC5 → s.lifecycle = 3 → rev = 15 → Runs .pkeRevoke s fun t => ended St.RANGE t ∧ t.revoked = s.revoked) ∧
        (c.ini = Ini.MC5 → s.lifecycle = 3 → c.f 6 7 0 ≤ 3 → rev ≠ 15 → Runs .pkeRevoke s fun t =>
          ended St.OK t ∧ t.revoked = rev ∧ SameBytes s t))) ∧
    (∀ x xs, s.MayRead i R.PKE_RES → s.pke.results = x :: xs → Runs (.pkeResultPop i) s fun t =>
      t.out = .busData i x.word :: s.out ∧ t.pke.results = xs ∧ t.regs = s.regs) ∧
    (s.MayRead i R.PKE_RNG → (s.rb F.PKE_STAT_DRBGOK = false → exec (.rngRead i) s = .next (s.answer i 0)) ∧
      (s.rb F.PKE_STAT_DRBGOK = true → Runs (.rngRead i) s fun t =>
        (∃ w, t.out = .busData i w :: s.out) ∧ RegsBut [R.PKE_CNT_RESEED] s t ∧ SameBytes s t)) ∧
    (Runs (.entropyStartupTest true) s fun t =>
      t.rb F.PKE_STAT_ESOK = true ∧ t.rb F.PKE_STAT_DRBGOK = true ∧ t.step1 Fn.PKE = true ∧ SameBytes s t) ∧
    (∀ c ∈ [Instr.entropyStartupTest false, .healthTestFail], Runs c s fun t =>
      t.rb F.PKE_STAT_ESOK = false ∧ t.rb F.PKE_STAT_DRBGOK = false ∧ Counted R.PKE_CNT_HTFAIL s t ∧
        (c = .healthTestFail → t.ready Fn.PKE = false) ∧ SameBytes s t) ∧
    (s.rb F.PKE_STAT_DRBGOK = true → Runs .reseedInterval s fun t =>
      t.pke.gens = 0 ∧ Counted R.PKE_CNT_RESEED s t ∧ RegsBut [R.PKE_CNT_RESEED] s t ∧ SameBytes s t) ∧
    (∀ (target : Fin 8) (off : Nat), s.sys.phase = 3 → target ≠ 0 → s.sys.mc5 = true → s.ready Fn.PKE = true →
      let g : Nat → Byte := fun o => s.flashByte (off + o)
      let load := hdrNum g 0x10 8
      let pay := imgBytes g 0x140 (hdrNum g 0x18 4)
      (s.verifyHeader g target.val ≠ St.OK → Runs (.imageVerify false target off) s fun t =>
        t.out = .verified target.val (s.verifyHeader g target.val) :: s.out ∧ t.pke.mr = s.pke.mr ∧ SameBytes s t) ∧
      (s.verifyHeader g target.val = St.OK → sha384b pay = imgBytes g 0x40 48 → Runs (.imageVerify false target off) s fun t =>
        t.out = .verified target.val St.OK :: s.out ∧ t.bytes load pay.length = pay ∧
          (∀ b, b < load ∨ load + pay.length ≤ b → t.byte b = s.byte b) ∧
          t.mr (mrOf target.val) = sha384b (s.mr (mrOf target.val) ++ sha384b (imgBytes g 0 0xD0))) ∧
      (s.verifyHeader g target.val = St.OK → sha384b pay ≠ imgBytes g 0x40 48 → Runs (.imageVerify false target off) s fun t =>
        t.out = .verified target.val St.AUTH :: s.out ∧ t.bytes load pay.length = List.replicate pay.length 0 ∧
          t.pke.mr = s.pke.mr)) ∧
    (3 ≤ s.rf F.PKE_DBGSTAT_FAIL → exec .debugChallenge s = .next s) ∧
    (s.rf F.PKE_DBGSTAT_FAIL < 3 → Runs .debugChallenge s fun t =>
      ∃ r, t.pke.challenge = some r ∧ r.length = 32 ∧
        t.out = .challenge (r ++ s.devid ++ natBytes 1 s.lifecycle ++ natBytes 1 (s.rf F.PKE_DBGSTAT_FAIL)) :: s.out) ∧
    (∀ (scope : BitVec 8) (challenge pubkey sig : List (BitVec 8)), s.rf F.PKE_DBGSTAT_FAIL < 3 →
      let good := s.pke.challenge = some challenge ∧ (scope = 1 ∨ scope = 2) ∧ sha384b pubkey = s.otpBytes 0x140 48 ∧
        ecdsaOk (sha384b ([scope] ++ challenge ++ pubkey)) pubkey sig = true
      (good → Runs (.debugToken scope challenge pubkey sig) s fun t =>
        t.rf F.PKE_DBGSTAT_SCOPE = scope.toNat ∧ t.pke.challenge = none ∧
          t.mr 3 = sha384b (s.mr 3 ++ sha384b ([scope] ++ challenge ++ pubkey ++ sig)) ∧
          (scope = 2 → t.rb F.CRY_STAT_DBGERASE = true ∧ ∀ m, (t.slot m).key = [])) ∧
      (¬ good → Runs (.debugToken scope challenge pubkey sig) s fun t =>
        t.rf F.PKE_DBGSTAT_FAIL = s.rf F.PKE_DBGSTAT_FAIL + 1 ∧ t.rf F.PKE_DBGSTAT_SCOPE = s.rf F.PKE_DBGSTAT_SCOPE ∧
          t.pke.challenge = none ∧ t.pke.mr = s.pke.mr))

/-- R416 to R418, R421, R422, R425 to R427, R435, R436: memory care. -/
def Obligations.MemoryCare : Prop :=
  ∀ (s : State),
    (∀ dram : Bool, s.scrubs dram = false → exec (.scrubRead dram) s = .next s) ∧
    (s.scrubs false = true → Runs (.scrubRead false) s fun t =>
      let p := s.rf F.SRM_POS_POS
      t.rf F.SRM_POS_POS = (if p + 8 < sramSize then p + 8 else 0) ∧ (s.eccOf (0x10000000 + p) = 1 → t.eccOf (0x10000000 + p) = 0) ∧
        (sramSize ≤ p + 8 → t.rb F.SRM_STAT_BEHIND = false ∧ Counted R.SRM_CNT_PASS s t) ∧ SameBytes s t) ∧
    (s.scrubs true = true → Runs (.scrubRead true) s fun t =>
      let p := s.rf F.DRC_SCRUBPOS_POS
      t.rf F.DRC_SCRUBPOS_POS = (if 64 * (p + 1) < s.fitted then (p + 1) % 2 ^ 28 else 0) ∧
        (s.eccOf (dramBase + 64 * p) = 1 → t.eccOf (dramBase + 64 * p) = 0) ∧ SameBytes s t) ∧
    (s.rb F.SRM_CTRL_SCRUB = true → Runs (.scrubOverdue false) s fun t =>
      t.rb F.SRM_STAT_BEHIND = true ∧ RegsBut [R.SRM_STAT] s t ∧ SameBytes s t) ∧
    (s.rb F.DRC_CTRL_SCRUB = true → Runs (.scrubOverdue true) s fun t =>
      t.rb F.DRC_STAT_BEHIND = true ∧ RegsBut [R.DRC_STAT] s t ∧ SameBytes s t) ∧
    (∀ p ∈ [(Instr.backgroundWindowOpen false, F.SRM_STAT_INWIN, R.SRM_STAT, true),
        (.backgroundWindowClose false, F.SRM_STAT_INWIN, R.SRM_STAT, false),
        (.backgroundWindowOpen true, F.DRC_STAT_INWIN, R.DRC_STAT, true),
        (.backgroundWindowClose true, F.DRC_STAT_INWIN, R.DRC_STAT, false)],
      Runs p.1 s fun t => t.rb p.2.1 = p.2.2.2 ∧ RegsBut [p.2.2.1] s t ∧ t.drc = s.drc ∧ SameBytes s t) ∧
    (s.rf F.SRM_CEALM_N < s.lastSecond s.drc.ceSram → Runs (.ceAlarm false) s fun t =>
      t.drc = { s.drc with ceSram := [] } ∧ t.rf (F.EVR_CNT_CNT 176) = (s.rf (F.EVR_CNT_CNT 176) + 1) % 2 ^ 16 ∧ RegsBut [] s t ∧ SameBytes s t) ∧
    (s.rf F.DRC_CEALM_N < s.lastSecond s.drc.ceDram → Runs (.ceAlarm true) s fun t =>
      t.drc = { s.drc with ceDram := [] } ∧ t.rf (F.EVR_CNT_CNT 180) = (s.rf (F.EVR_CNT_CNT 180) + 1) % 2 ^ 16 ∧ RegsBut [] s t ∧ SameBytes s t) ∧
    (s.rf F.DRC_NREFALM_N < s.lastSecond s.drc.nrefAt → Runs .nrefAlarm s fun t =>
      t.drc = { s.drc with nrefAt := [] } ∧ t.rf (F.EVR_CNT_CNT 183) = (s.rf (F.EVR_CNT_CNT 183) + 1) % 2 ^ 16 ∧ RegsBut [] s t ∧ SameBytes s t) ∧
    (s.lastSecond s.drc.ceSram ≤ s.rf F.SRM_CEALM_N → exec (.ceAlarm false) s = .next s) ∧
    (s.lastSecond s.drc.ceDram ≤ s.rf F.DRC_CEALM_N → exec (.ceAlarm true) s = .next s) ∧
    (s.lastSecond s.drc.nrefAt ≤ s.rf F.DRC_NREFALM_N → exec .nrefAlarm s = .next s) ∧
    (∀ (chan : Fin 4) (r : DramReq), s.rf F.DRC_STAT_STATE = 2 → s.dramPick chan.val = some r → Runs (.dramRequest [] chan) s fun t =>
      t.drc.reqs = s.drc.reqs.erase r ∧ Sparse.getN t.drc.openRow (bankKey r.offset) = dramRow r.offset + 1 ∧
        RegsBut [R.DRC_CNT_NREF, R.DRC_CNT_RFM] s t ∧ SameBytes s t) ∧
    (∀ (chan : Fin 4) (x : DramArrival), s.dramServes = false → s.drc.reqs = [] → Runs (.dramRequest [x] chan) s fun t =>
      t.drc = s.drc ∧ t.regs = s.regs ∧ (x.src.val < 21 → ∃ i : Init, t.out = .busError i (dramBase + x.offset.toNat) :: s.out) ∧
        SameBytes s t) ∧
    (∀ (k : Nat) (r : DramReq), s.drc.reqs[k]? = some r →
      (r.cls = 1 ∨ r.cls = 2 → Runs (.requestPromote k) s fun t =>
        t.drc = { s.drc with reqs := s.drc.reqs.set k { r with cls := r.cls - 1 } } ∧ Counted R.DRC_CNT_PROMOTE s t ∧
          RegsBut [R.DRC_CNT_PROMOTE] s t ∧ SameBytes s t) ∧
      (¬ (r.cls = 1 ∨ r.cls = 2) → exec (.requestPromote k) s = .next s)) ∧
    (∀ (chan : Fin 4) (bank : Fin 16), s.rf F.DRC_STAT_STATE = 2 → Runs (.dramRefresh chan bank) s fun t =>
      Sparse.getN t.drc.openRow (16 * chan.val + bank.val) = 0 ∧ t.drc.reqs = s.drc.reqs ∧ t.regs = s.regs ∧ SameBytes s t) ∧
    (∀ codes : Word, s.rf F.DRC_STAT_STATE = 2 → Runs (.mr4Poll codes) s fun t =>
      t.reg R.DRC_TEMP = codes ∧ RegsBut [R.DRC_TEMP] s t ∧ SameBytes s t) ∧
    (Runs .raaTableClear s fun t => t.drc = { s.drc with raa := [] } ∧ t.regs = s.regs ∧ SameBytes s t) ∧
    (∀ (i : Init) (v : Word), s.MayWrite i R.DRC_DUMP → v.getLsbD 30 = true → Runs (.dumpUnlock i v) s fun t =>
      t.rb F.DRC_DUMP_LOCK = false ∧ t.rb F.DRC_DUMP_RETAINED = s.rb F.DRC_DUMP_RETAINED ∧ RegsBut [R.DRC_DUMP] s t ∧ SameBytes s t) ∧
    (∀ (i : Init) (dram : Bool) (v : Word),
      let ctrl := if dram then R.DRC_INJ_CTRL else R.SRM_INJ_CTRL
      let err := if dram then R.DRC_ERR else R.SRM_ERR
      s.MayWrite i ctrl → v.getLsbD 31 = true →
        (s.injUnusable dram = true → Runs (.injectArm i dram v) s fun t => t.reg err = 0x102 ∧ RegsBut [err] s t ∧ SameBytes s t) ∧
        (s.injUnusable dram = false → bits v 14 8 ≤ 71 → bits v 6 0 ≤ 71 → Runs (.injectArm i dram v) s fun t =>
          (t.reg ctrl).getLsbD 31 = true ∧ (t.reg ctrl).getLsbD 30 = v.getLsbD 30 ∧ bits (t.reg ctrl) 6 0 = bits v 6 0 ∧
            RegsBut [ctrl] s t ∧ SameBytes s t))

/-- R428 to R432: the states of the DRAM controller. -/
def Obligations.DramController : Prop :=
  ∀ (s : State) (i : Init),
    let st := s.rf F.DRC_STAT_STATE
    let room := s.drc.results.length < 16
    (∀ (tag : BitVec 8) (speed : Fin 4), s.MayWrite i R.DRC_CMD →
      let done (opc status : Nat) (t : State) : Prop := room → t.drc.results = s.drc.results ++ [⟨tag.toNat, opc, status, s.gt⟩]
      (∀ p ∈ [(Instr.drcTrain i tag speed, 1, [1, 2, 3, 4], ([] : List Nat)), (.drcRestore i tag speed, 2, [1, 2, 3, 4], []),
          (.srEnter i tag speed, 3, [0, 1], [4]), (.srExit i tag speed, 4, [0, 1], [2, 3]), (.drcStop i tag speed, 5, [], [0])],
        (speed.val = 3 → Runs p.1 s fun t => t.reg R.DRC_ERR = 0x102 ∧ t.drc = s.drc ∧ RegsBut [R.DRC_ERR] s t ∧ SameBytes s t) ∧
        (speed.val ≤ 2 → st ∈ p.2.2.1 → Runs p.1 s fun t =>
          done p.2.1 St.STATE t ∧ Counted R.DRC_CNT_STATE s t ∧ RegsBut [R.DRC_CNT_STATE] s t ∧ SameBytes s t) ∧
        (speed.val ≤ 2 → st ∈ p.2.2.2 → Runs p.1 s fun t => done p.2.1 St.OK t ∧ t.regs = s.regs ∧ SameBytes s t)) ∧
      (speed.val ≤ 2 → st = 0 → Runs (.drcTrain i tag speed) s fun t =>
        t.rf F.DRC_STAT_STATE = 1 ∧ t.drc.train = some ⟨1, tag.toNat, speed.val, 1⟩ ∧ t.drc.results = s.drc.results) ∧
      (speed.val ≤ 2 → st = 0 → s.trrecBad = false → Runs (.drcRestore i tag speed) s fun t =>
        t.rf F.DRC_STAT_STATE = 1 ∧ (t.drc.train.map (fun x => (x.opc, x.tag, x.step))) = some (2, tag.toNat, 1) ∧
          t.drc.results = s.drc.results) ∧
      (speed.val ≤ 2 → st = 0 → s.trrecBad = true → Runs (.drcRestore i tag speed) s fun t =>
        t.rf F.DRC_STAT_STATE = 0 ∧ t.reg R.DRC_TRSTAT = 0x0E ∧ done 2 St.CHECK t ∧ RegsBut [R.DRC_TRSTAT] s t ∧ SameBytes s t) ∧
      (speed.val ≤ 2 → st = 2 ∨ st = 3 → Runs (.srEnter i tag speed) s fun t =>
        t.rf F.DRC_STAT_STATE = 4 ∧ done 3 St.OK t ∧ t.drc.reqs = [] ∧ (s.stp.recs = [] → SameBytes s t)) ∧
      (speed.val ≤ 2 → st = 4 → Runs (.srExit i tag speed) s fun t =>
        t.rf F.DRC_STAT_STATE = 2 ∧ done 4 St.OK t ∧ Counted R.DRC_CNT_SREXIT s t ∧ (s.stp.recs = [] → SameBytes s t)) ∧
      (speed.val ≤ 2 → st ≠ 0 → (st ≠ 1 → s.drc.train = none) → Runs (.drcStop i tag speed) s fun t =>
        t.rf F.DRC_STAT_STATE = 0 ∧ t.drc.train = none ∧ t.drc.reqs = [] ∧ (st ≠ 1 → done 5 St.OK t) ∧
          (s.stp.recs = [] → ∀ a, a < dramBase → t.byte a = s.byte a))) ∧
    (∀ (fail : BitVec 4) (mismatch : Bool) (dens : Fin 6) (ranks : Bool),
      (s.drc.train = none → exec (.trainStepDone fail mismatch dens ranks) s = .next s) ∧
      (∀ x, s.drc.train = some x →
        let bad (code : Nat) (t : State) : Prop := (st = 1 → t.rf F.DRC_STAT_STATE = 0) ∧ t.drc.train = none ∧
          t.rf F.DRC_STAT_CHOK = 15 - fail.toNat ∧
          (room → code ≠ St.STATE → t.drc.results = s.drc.results ++ [⟨x.tag, x.opc, code, s.gt⟩])
        (x.step = 1 → mismatch = true → Runs (.trainStepDone fail mismatch dens ranks) s (bad St.RANGE)) ∧
        (¬ (x.step = 1 ∧ mismatch = true) → fail ≠ 0 → Runs (.trainStepDone fail mismatch dens ranks) s (bad St.HW)) ∧
        (¬ (x.step = 1 ∧ mismatch = true) → fail = 0 → x.step ≠ 7 → Runs (.trainStepDone fail mismatch dens ranks) s fun t =>
          t.drc.train = some { x with step := if x.opc = 2 ∧ x.step = 2 then 7 else x.step + 1 } ∧
            (x.step = 1 → t.rf F.DRC_STAT_DENS = dens.val + 1 ∧ t.rb F.DRC_STAT_RANKS = ranks) ∧
            t.rf F.DRC_STAT_STATE = st ∧ RegsBut [R.DRC_STAT] s t ∧ SameBytes s t) ∧
        (fail = 0 → x.step = 7 → st = 1 → Runs (.trainStepDone fail mismatch dens ranks) s fun t =>
          t.rf F.DRC_STAT_STATE = 2 ∧ t.drc.train = none ∧ t.rf F.DRC_STAT_CHOK = 15 ∧ t.step1 Fn.DRAM = true ∧
            (room → t.drc.results = s.drc.results ++ [⟨x.tag, x.opc, St.OK, s.gt⟩])))) ∧
    (∀ x xs, s.MayRead i R.DRC_RES → s.drc.results = x :: xs → Runs (.drcResultPop i) s fun t =>
      t.out = .busData i (BitVec.ofNat 32 (2 ^ 31 + x.tag * 2 ^ 16 + x.opc * 2 ^ 8 + x.status)) :: s.out ∧ t.drc.results = xs ∧
        t.regs = s.regs ∧ SameBytes s t) ∧
    (s.rb F.DRC_CTRL_SRIDLEEN = true → st = 2 → s.drc.reqs = [] → Runs .sridleEnter s fun t =>
      t.rf F.DRC_STAT_STATE = 3 ∧ t.step1 Fn.DRAM = true) ∧
    (s.rb F.DRC_CTRL_SRIDLEEN = false ∨ st ≠ 2 ∨ s.drc.reqs ≠ [] → exec .sridleEnter s = .next s)

/-- R446, R447, R452 to R457, R461, R462: HDP. `r` is the request that was taken, `x` its session. -/
def Obligations.DictionaryProtocol : Prop :=
  (∀ (s : State) (src : Nat) (l : List Byte) (rest : List (Nat × List Byte)), s.ode.req = none → s.rb F.ODE_CTRL_EN = true →
    s.ode.rxq = (src, l) :: rest → s.ode.held = [] →
    let r := reqOf src l 0
    let dropped (t : State) : Prop := t.ode = { s.ode with rxq := rest } ∧ SameBytes s t
    (l.length < 12 → Runs .hdpPduReceive s dropped) ∧
    (12 ≤ l.length → r.op ≠ Hdp.OPEN → s.session r.sid = none → Runs .hdpPduReceive s dropped) ∧
    (12 ≤ l.length → r.op = Hdp.OPEN → r.sid = 0 → formatOk l (firstReq src l) = true → s.turnedAway src = none →
      Runs .hdpPduReceive s fun t =>
        t.ode.req = some (firstReq src l) ∧ t.ode.rxq = rest ∧ t.ode.sessions = s.ode.sessions ∧ SameBytes s t) ∧
    (12 ≤ l.length → r.op = Hdp.OPEN → r.sid ≠ 0 → Runs .hdpPduReceive s dropped) ∧
    (∀ x, 12 ≤ l.length → r.op ≠ Hdp.OPEN → s.session r.sid = some x → x.src = src → x.up = true → x.auth = false →
      (r.seq < x.seqIn → formatOk l r = true → Runs .hdpPduReceive s fun t => dropped t ∧ Counted R.ODE_CNT_REPLAY s t) ∧
      (r.seq = x.seqIn → x.seqIn ≠ 0 → formatOk l r = true → Runs .hdpPduReceive s fun t =>
        t.ode.req = none ∧ t.ode.sessions = s.ode.sessions ∧ (src = 0 → t.ode.spiOut = s.ode.spiOut ++ [x.last])) ∧
      (x.seqIn < r.seq → s.turnedAway src = none → formatOk l r = true → hdpOps.contains r.op = true → r.flags / 2 % 2 = 0 →
        Runs .hdpPduReceive s fun t => t.ode.req = some r ∧ (t.session r.sid).map (fun y => y.seqIn) = some r.seq)) ∧
    (∀ x, 12 ≤ l.length → r.op ≠ Hdp.OPEN → s.session r.sid = some x → x.src = src → x.up = true → x.auth = true →
      (∀ k, s.hdpKey x.slot = some k → l.drop (l.length - 16) ≠ x.tag k 0 (l.take (l.length - 16)) → Runs .hdpPduReceive s fun t =>
        dropped t ∧ Counted R.ODE_CNT_AUTH s t) ∧
      (s.hdpKey x.slot = none → Runs .hdpPduReceive s fun t => dropped t ∧ Counted R.ODE_CNT_AUTH s t))) ∧
  (∀ s : State, s.ode.req.isSome ∨ s.rb F.ODE_CTRL_EN = false ∨ s.ode.rxq = [] → exec .hdpPduReceive s = .next s) ∧
  (∀ s : State, s.ode.req = none → ∀ c ∈ [Instr.hdpOpen, .hdpAuth, .hdpClose, .hdpPing, .hdpRead, .hdpWrite, .hdpWriteMulti,
      .hdpInvoke, .hdpDescribe, .hdpSubscribe, .hdpEventAck, .hdpDigest, .hdpReadNet], exec c s = .next s) ∧
  (∀ (s : State) (r : OdeReq), s.ode.req = some r → r.waits = none → r.op = Hdp.OPEN →
    let b := bytesNat (r.payload.take 1)
    let net := decide (128 ≤ b)
    let auth := r.flags / 2 % 2 == 1
    let bad := r.payload.length ≠ 17 ∨ b / 4 % 32 ≠ 0 ∨ (net = true ∧ b % 4 ≠ 0) ∨ 16 ≤ s.ode.sessions.length ∨
      (auth = true ∧ s.hdpKey (s.slotOfClass (b % 4) net) = none) ∨ (auth = false ∧ s.openFree r.src (b % 4) net = false)
    (bad → Runs .hdpOpen s fun t => t.ode.req = none ∧ t.ode.sessions = s.ode.sessions ∧ SameBytes s t) ∧
    (¬ bad → Runs .hdpOpen s fun t => t.ode.req = none ∧ SameBytes s t ∧ ∃ y : Session,
      t.ode.sessions = s.ode.sessions ++ [y] ∧ s.session y.sid = none ∧ y.cls = b % 4 ∧ y.src = r.src ∧ y.auth = auth ∧
        y.up = !auth ∧ y.nc = r.payload.drop 1 ∧ y.nd.length = 16 ∧ y.mask = 0)) ∧
  (∀ (s : State) (r : OdeReq) (x : Session), s.ode.req = some r → r.waits = none → s.session r.sid = some x →
    let answered (status detail : Nat) (payload : List Byte) (t : State) : Prop := t.ode.req = none ∧
      ∀ pdu, s.sessionPdu x 0x18 r.op r.rtag status detail payload = some pdu →
        (t.session r.sid).map (fun y => (y.seqOut, y.last)) = some (x.seqOut + 1, pdu)
    let still (t : State) : Prop := SameBytes s t ∧
      RegsBut [R.ODE_CNT_REQ, R.ODE_CNT_STATE, R.ODE_CNT_RIGHTS, R.ODE_STAT] s t
    (r.op = Hdp.AUTH → x.up = false → r.payload.length = 16 → ∀ k, s.hdpKey x.slot = some k →
      let good := r.payload = macOf k (proofText 0x48 0x44 0x50 0x63 ++
        [BitVec.ofNat 8 (if x.net then 128 else x.cls), BitVec.ofNat 8 x.sid] ++ x.nc ++ x.nd)
      let n := Sparse.getN s.ode.fails r.src + 1
      (good → Runs .hdpAuth s fun t =>
        (t.session r.sid).map (fun y => y.up) = some true ∧ Sparse.getN t.ode.fails r.src = 0 ∧ t.ode.req = none ∧ SameBytes s t) ∧
      (¬ good → Runs .hdpAuth s fun t =>
        t.session r.sid = none ∧ t.ode.req = none ∧ Counted R.ODE_CNT_AUTH s t ∧
          t.ode.locked = (if n < 5 then s.ode.locked else s.ode.locked ++ [r.src]) ∧
          Sparse.getN t.ode.fails r.src = (if n < 5 then n else 0) ∧ SameBytes s t)) ∧
    (r.op = Hdp.CLOSE → r.payload = [] → Runs .hdpClose s fun t => t.session r.sid = none ∧ t.ode.req = none ∧ still t) ∧
    (r.op = Hdp.PING → r.payload = [] → Runs .hdpPing s fun t => answered St.OK 0 [] t ∧ still t) ∧
    (r.op = Hdp.PING → r.payload ≠ [] → Runs .hdpPing s fun t => answered St.TYPE 0 [] t ∧ still t) ∧
    (∀ ref, r.op = Hdp.READ → ref < 2 ^ 32 → r.payload = natBytes 1 1 ++ natBytes 4 ref →
      (∀ st, s.accessCheck Acc.READ (s.clsOf r) ref 0 [] = .error st → Runs .hdpRead s fun t =>
        answered St.OK 0 (readEntry st 0 []) t ∧ still t) ∧
      (∀ d l v, s.accessCheck Acc.READ (s.clsOf r) ref 0 [] = .ok (d, l) → d.bind = 1 →
        (s.readParam d ref (l.map (fun y => y.1))).2 = .val v → 4 + v.length ≤ 1372 → Runs .hdpRead s fun t =>
          answered St.OK 0 (readEntry St.OK d.typ v) t ∧ still t)) ∧
    (∀ ref typ v, r.op = Hdp.WRITE → takeWrites 1 r.payload = some [(ref, typ, v)] →
      (∀ st, s.accessCheck Acc.WRITE (s.clsOf r) ref typ v = .error st → Runs .hdpWrite s fun t => answered st 0 [] t ∧ still t) ∧
      (∀ d l, s.accessCheck Acc.WRITE (s.clsOf r) ref typ v = .ok (d, l) → d.bind = 1 → Runs .hdpWrite s fun t =>
        t.mem = (s.applyStore (entryVals d l)).mem ∧ (d.net = true → t.rb F.ODE_STAT_DIRTY = true) ∧ answered St.OK 0 [] t)) ∧
    (r.op = Hdp.WRITE → takeWrites 1 r.payload = none → Runs .hdpWrite s fun t => answered St.TYPE 0 [] t ∧ still t) ∧
    (r.op = Hdp.WRITE_MULTI →
      let n := bytesNat (r.payload.take 1)
      (takeWrites n r.payload.tail = none ∨ n < 1 ∨ 32 < n → Runs .hdpWriteMulti s fun t => answered St.TYPE 0 [] t ∧ still t) ∧
      (∀ ws, takeWrites n r.payload.tail = some ws → 1 ≤ n → n ≤ 32 →
        (∀ k st, s.checkMulti (s.clsOf r) 0 ws = .error (k, st) → Runs .hdpWriteMulti s fun t => answered st k [] t ∧ still t) ∧
        (∀ l, s.checkMulti (s.clsOf r) 0 ws = .ok l → s.multiBusy l = false → (∀ e ∈ l, e.2.1.bind = 1) →
          Runs .hdpWriteMulti s fun t => t.mem = (s.applyStore (Entries.vals l)).mem ∧ answered St.OK 0 [] t))) ∧
    (∀ ref typ v, r.op = Hdp.INVOKE → takeWrites 1 r.payload = some [(ref, typ, v)] →
      (∀ st, s.accessCheck Acc.INVOKE (s.clsOf r) ref typ v = .error st → Runs .hdpInvoke s fun t => answered st 0 [] t ∧ still t) ∧
      (∀ d l, s.accessCheck Acc.INVOKE (s.clsOf r) ref typ v = .ok (d, l) → d.bind = 2 → v.length ≤ 1024 → Runs .hdpInvoke s fun t =>
        t.ode.fwq = s.ode.fwq ++ [⟨s.ode.fwNum, d.core, Acc.INVOKE, d.target % 2 ^ 16, ref, typ, v, false⟩] ∧
          t.ode.req.map (fun q => q.waits) = some (some s.ode.fwNum) ∧ still t)) ∧
    (r.op = Hdp.DESCRIBE → r.payload.length = 4 →
      (∀ st, s.refCheck (bytesNat r.payload) = .error st → Runs .hdpDescribe s fun t => answered st 0 [] t ∧ still t) ∧
      (∀ d l a, s.refCheck (bytesNat r.payload) = .ok (d, l) → s.descAddr d.area d.item = some a → Runs .hdpDescribe s fun t =>
        answered St.OK 0 (s.bytes a 16 ++ (if d.ridx = 0xFFFF then List.replicate 24 0 else s.bytes (imgRange + 24 * d.ridx) 24)) t ∧
          still t)) ∧
    (r.op = Hdp.SUBSCRIBE → r.payload.length = 32 →
      (s.rb F.EVR_SUBSTAT_SUBEN = false → Runs .hdpSubscribe s fun t => answered St.STATE 0 [] t ∧ still t) ∧
      (s.rb F.EVR_SUBSTAT_SUBEN = true → Runs .hdpSubscribe s fun t =>
        (t.session r.sid).map (fun y => y.mask) = some (bytesNat r.payload) ∧ answered St.OK 0 [] t ∧ still t)) ∧
    (r.op = Hdp.EVENT_ACK → r.payload.length = 4 → ∀ e, x.sent = some e → e.seq = bytesNat r.payload → Runs .hdpEventAck s fun t =>
      (t.session r.sid).map (fun y => y.sent) = some none ∧ answered St.OK 0 [] t ∧ still t) ∧
    (r.op = Hdp.DIGEST → r.payload = [] → Runs .hdpDigest s fun t =>
      answered St.OK 0 (natBytes 4 (s.regN R.ODE_GEN) ++ s.digest ++ natBytes 1 (if s.rb F.ODE_STAT_DIRTY then 1 else 0) ++
        natBytes 1 s.netAreas.length ++ s.netAreas.flatMap (fun a => natBytes 1 a ++ (s.areaDigest a).take 8)) t ∧ still t) ∧
    (r.op = Hdp.READ_NET → r.payload.length ≠ 3 → Runs .hdpReadNet s fun t => answered St.TYPE 0 [] t ∧ still t) ∧
    (r.op = Hdp.READ_NET → r.payload.length = 3 → Runs .hdpReadNet s fun t =>
      let cur := bytesNat (r.payload.drop 1)
      let recs := netRecords s.valueNow (s.netArea (bytesNat (r.payload.take 1)))
      let f := fitRecords 1370 (recs.drop cur)
      answered St.OK 0 (natBytes 2 (if recs.length ≤ cur + f.2 then 0xFFFF else cur + f.2) ++ f.1) t ∧ still t))

/-- R448, R456 to R462, R473, R474: the transports, the queues to the cores, the timers. -/
def Obligations.DictionaryTransports : Prop :=
  ∀ (s : State) (i : Init),
    (∀ v : Word, s.MayWrite i R.ODE_MBXIN_PUSH →
      let n := bits v 10 0
      let a := s.regN R.ODE_MBXIN_ADDR
      (n < 12 ∨ 1400 < n ∨ inShared a n = false → Runs (.mbxinPush i v) s fun t =>
        t.reg R.ODE_ERR = 0x102 ∧ t.ode = s.ode ∧ RegsBut [R.ODE_ERR] s t ∧ SameBytes s t) ∧
      (12 ≤ n → n ≤ 1400 → inShared a n = true → s.eccBad a n = false → s.rb F.ODE_CTRL_UDP = true → Runs (.mbxinPush i v) s fun t =>
        t.ode.rxq = s.ode.rxq ++ [(3 + bits v 31 16, s.bytes a n)] ∧ SameBytes s t)) ∧
    (s.MayRead i R.ODE_MBXOUT →
      (s.ode.mbxOut = [] → Runs (.mbxoutPop i) s fun t => t.out = .busData i 0 :: s.out ∧ t.ode = s.ode ∧ SameBytes s t) ∧
      (∀ src l rest, s.ode.mbxOut = (src, l) :: rest → Runs (.mbxoutPop i) s fun t =>
        let a := t.regN R.ODE_MBXOUT_ADDR
        t.ode.mbxOut = rest ∧ t.out = .busData i (BitVec.ofNat 32 (2 ^ 31 + src % 2 ^ 15 * 2 ^ 16 + l.length)) :: s.out ∧
          t.bytes a l.length = l ∧ (∀ b, b < a ∨ a + l.length ≤ b → t.byte b = s.byte b) ∧ 0x11370000 ≤ a ∧ a < 0x11380000)) ∧
    (s.spiOn = false → exec .spiPduRead s = .next s ∧ exec .spiStatusRead s = .next s ∧
      ∀ len pdu crc, exec (.spiPduWrite len pdu crc) s = .next s) ∧
    (s.spiOn = true →
      (∀ (len : BitVec 16) (pdu : List Byte) (crc : BitVec 32),
        let good := crc.toNat = crc32c (natBytes 2 len.toNat ++ pdu) ∧ len.toNat = pdu.length
        (good → Runs (.spiPduWrite len pdu crc) s fun t => t.ode.rxq = s.ode.rxq ++ [(0, pdu)] ∧ SameBytes s t) ∧
        (¬ good → Runs (.spiPduWrite len pdu crc) s fun t =>
          t.ode = s.ode ∧ Counted R.ODE_CNT_SPICRC s t ∧ RegsBut [R.ODE_CNT_SPICRC] s t ∧ SameBytes s t)) ∧
      (s.ode.spiOut = [] → exec .spiPduRead s = .next (s.emit (.spi (spiForm [])))) ∧
      (∀ l ls, s.ode.spiOut = l :: ls → Runs .spiPduRead s fun t =>
        t.out = .spi (spiForm l) :: s.out ∧ t.ode = { s.ode with spiOut := ls } ∧ t.regs = s.regs ∧ SameBytes s t) ∧
      (Runs .spiStatusRead s fun t =>
        t.out = .spi (natBytes 1 ((if s.ode.spiOut.isEmpty then 0 else 1) + (if s.ode.rxq.any (fun x => x.1 == 0) then 2 else 0))) ::
          s.out ∧ t.ode = s.ode ∧ t.regs = s.regs ∧ SameBytes s t)) ∧
    (∀ c : Fin 6, s.MayRead i (R.ODE_FWREQ c.val) →
      (s.ode.fwq.find? (fun r => r.core == c.val && !r.taken) = none → Runs (.fwRequestPop i c) s fun t =>
        t.out = .busData i 0 :: s.out ∧ t.ode = s.ode ∧ t.regs = s.regs ∧ SameBytes s t) ∧
      (∀ r, s.ode.fwq.find? (fun r => r.core == c.val && !r.taken) = some r → Runs (.fwRequestPop i c) s fun t =>
        t.ode.fwq = s.ode.fwq.map (fun x => if x.num = r.num then { x with taken := true } else x) ∧
          t.regN R.ODE_FWREF = r.ref % 2 ^ 32 ∧ t.bytes (fwBufAt r.num) r.value.length = r.value ∧
          (∀ b, b < fwBufAt r.num ∨ fwBufAt r.num + r.value.length ≤ b → t.byte b = s.byte b))) ∧
    (∀ (c : Fin 6) (v : Word), s.MayWrite i (R.ODE_FWRES c.val) →
      (bits v 31 28 ≠ 0 → Runs (.fwAnswer i c v) s fun t => t.reg R.ODE_ERR = 0x102 ∧ t.ode = s.ode ∧ SameBytes s t) ∧
      (bits v 31 28 = 0 → s.ode.fwq.find? (fun r => r.core == c.val && r.taken && r.num == bits v 27 16) = none →
        Runs (.fwAnswer i c v) s fun t => Counted R.ODE_CNT_FWLATE s t ∧ t.ode = s.ode ∧ SameBytes s t) ∧
      (∀ r, bits v 31 28 = 0 → s.ode.fwq.find? (fun r => r.core == c.val && r.taken && r.num == bits v 27 16) = some r →
        (s.waiter r.num = none → r.kind ≠ Acc.WRITE → Runs (.fwAnswer i c v) s fun t =>
          t.ode.fwq = s.ode.fwq.filter (fun x => x.num != r.num) ∧ SameBytes s t) ∧
        (∀ q, s.waiter r.num = some q → r.kind = Acc.INVOKE → Runs (.fwAnswer i c v) s fun t =>
          t.ode.req = none ∧ t.ode.fwq = s.ode.fwq.filter (fun x => x.num != r.num) ∧ SameBytes s t))) ∧
    (s.ode.fwq = [] → exec .fwTimeout s = .next s) ∧
    (∀ r rs, s.ode.fwq = r :: rs → s.waiter r.num = none ∨ r.kind ≠ Acc.READ → Runs .fwTimeout s fun t =>
      t.ode.fwq = s.ode.fwq.filter (fun x => x.num != r.num) ∧ t.rf (F.EVR_CNT_CNT 206) = (s.rf (F.EVR_CNT_CNT 206) + 1) % 2 ^ 16 ∧
        (s.waiter r.num = none → t.ode.req = s.ode.req) ∧ ((s.waiter r.num).isSome → t.ode.req = none) ∧ SameBytes s t) ∧
    (∀ sid : Fin 256,
      (s.ode.req.any (fun r => r.sid == sid.val) = true → exec (.sessionTimeout sid) s = .next s) ∧
      (s.ode.req.any (fun r => r.sid == sid.val) = false → Runs (.sessionTimeout sid) s fun t =>
        t.ode.sessions = s.ode.sessions.filter (fun x => x.sid != sid.val) ∧ RegsBut [R.ODE_STAT] s t ∧ SameBytes s t) ∧
      (∀ x pdu, s.session sid.val = some x → x.up = true → x.sent = none → x.evq ≠ [] →
        s.evPdu x (x.seqOut + 1) (x.evq.take 32) = some pdu → Runs (.eventSend sid) s fun t =>
          (t.session sid.val).map (fun y => (y.seqOut, y.evq, y.sent.map (fun e => e.recs))) =
            some (x.seqOut + 1, x.evq.drop 32, some (x.evq.take 32)) ∧ SameBytes s t) ∧
      (∀ x, s.session sid.val = some x → x.sent.isSome → exec (.eventSend sid) s = .next s) ∧
      (s.session sid.val = none → exec (.eventSend sid) s = .next s ∧ exec (.eventAckTimeout sid) s = .next s) ∧
      (∀ x e, s.session sid.val = some x → x.sent = some e →
        (3 ≤ e.tries → Runs (.eventAckTimeout sid) s fun t => (t.session sid.val).map (fun y => y.sent) = some none ∧ SameBytes s t) ∧
        (e.tries < 3 → Runs (.eventAckTimeout sid) s fun t =>
          (t.session sid.val).map (fun y => y.sent) = some (some { e with tries := e.tries + 1 }) ∧ SameBytes s t))) ∧
    (Runs .authLockoutEnd s fun t => t.ode = { s.ode with locked := s.ode.locked.drop 1 } ∧ t.regs = s.regs ∧ SameBytes s t) ∧
    (s.rb F.EVR_SUBSTAT_SUBEN = false → exec .subscriptionDeliver s = .next s) ∧
    (∀ e es x, s.rb F.EVR_SUBSTAT_SUBEN = true → s.evr.fifo = e :: es → s.ode.sessions = [x] → Runs .subscriptionDeliver s fun t =>
      (x.mask / 2 ^ e.event % 2 = 0 → t.evr.fifo = es ∧ t.ode.sessions = [x]) ∧
        (x.mask / 2 ^ e.event % 2 = 1 → x.evq.length < 64 → t.evr.fifo = es ∧
          t.ode.sessions = [{ x with evq := x.evq ++ [⟨e.event, e.count, e.stamp⟩] }]) ∧
        (x.mask / 2 ^ e.event % 2 = 1 → 64 ≤ x.evq.length → t.ode.sessions = [x] ∧ Counted R.ODE_CNT_EVLOST s t) ∧ SameBytes s t) ∧
    (∀ (p : Fin 2) (fd : Bool) (data : List Byte),
      let b := (data.headD 0).toNat
      let old := Sparse.getO s.ode.canIn p.val
      let join (sofar : List Byte) (num : Nat) (t : State) : Prop := SameBytes s t ∧
        (if b / 64 % 2 = 1 then t.ode.rxq = s.ode.rxq ++ [(1 + p.val, sofar ++ data.tail)] ∧ Sparse.getO t.ode.canIn p.val = none
         else Sparse.getO t.ode.canIn p.val = some (sofar ++ data.tail, (num + 1) % 64) ∧ t.ode.rxq = s.ode.rxq)
      (s.canOn p.val = false ∨ s.canServes p.val = false → exec (.canSegmentReceive p fd data) s = .next s) ∧
      (s.canOn p.val = true → s.canServes p.val = true → fd = true → data ≠ [] →
        (128 ≤ b → b % 64 = 0 → Runs (.canSegmentReceive p fd data) s (join [] 0)) ∧
        (∀ l, b < 128 → old = some (l, b % 64) → Runs (.canSegmentReceive p fd data) s (join l (b % 64))) ∧
        (∀ l n, b < 128 → old = some (l, n) → b % 64 ≠ n → Runs (.canSegmentReceive p fd data) s fun t =>
          Sparse.getO t.ode.canIn p.val = none ∧ t.ode.rxq = s.ode.rxq ∧ Counted R.ODE_CNT_CANSEG s t ∧ SameBytes s t) ∧
        (b < 128 → old = none → Runs (.canSegmentReceive p fd data) s fun t =>
          t.ode = s.ode ∧ Counted R.ODE_CNT_CANSEG s t ∧ SameBytes s t)) ∧
      (old = none → exec (.canSegmentTimeout p) s = .next s) ∧
      (old.isSome → Runs (.canSegmentTimeout p) s fun t =>
        Sparse.getO t.ode.canIn p.val = none ∧ Counted R.ODE_CNT_CANSEG s t ∧ RegsBut [R.ODE_CNT_CANSEG] s t ∧ SameBytes s t)) ∧
    (∀ (p : Fin 2) (v : Word), s.MayWrite i (R.CAN_TXF_PUSH p.val) → v.getLsbD 0 = true →
      (16 ≤ (s.can p.val).tx.length → Runs (.canTxfPush i p v) s fun t =>
        t.reg (R.CAN_ERR p.val) = 0x105 ∧ t.can p.val = s.can p.val ∧ SameBytes s t) ∧
      ((s.can p.val).tx.length < 16 → Runs (.canTxfPush i p v) s fun t => t.regs = s.regs ∧ SameBytes s t ∧
        (t.can p.val).tx = (s.can p.val).tx ++ [⟨s.regN (R.CAN_TXF_HDR p.val), s.regN (R.CAN_TXF_INFO p.val),
          wordBytes ((List.range 16).map (fun k => s.reg (R.CAN_TXF_DATA p.val k)))⟩])) ∧
    (∀ p : Fin 2,
      (s.canOn p.val = false ∨ s.rb (F.CAN_CTRL_LISTEN p.val) = true ∨ s.rf (F.CAN_STAT_STATE p.val) = 2 →
        exec (.canFrameSent p) s = .next s) ∧
      (s.canOn p.val = true → s.rb (F.CAN_CTRL_LISTEN p.val) = false → s.rf (F.CAN_STAT_STATE p.val) ≠ 2 →
        (∀ f fs, (s.can p.val).hdp = f :: fs → Runs (.canFrameSent p) s fun t =>
          t.out = .canTx p.val f.hdr f.bytes :: s.out ∧ t.can p.val = { s.can p.val with hdp := fs } ∧
            Counted (R.CAN_CNT_TXOK p.val) s t ∧ SameBytes s t) ∧
        (∀ f fs, (s.can p.val).hdp = [] → (s.can p.val).tx = f :: fs → Runs (.canFrameSent p) s fun t =>
          t.out = .canTx p.val f.hdr f.bytes :: s.out ∧ t.can p.val = { s.can p.val with tx := fs } ∧
            Counted (R.CAN_CNT_TXOK p.val) s t ∧ SameBytes s t)) ∧
      (∀ (hdr : BitVec 31) (info : BitVec 6) (data : List Byte), s.canOn p.val = true → s.hdpId p.val hdr.toNat = false →
        ((s.can p.val).rx.length < 32 → Runs (.canFrameReceive p hdr info data) s fun t =>
          (t.can p.val).rx = (s.can p.val).rx ++ [⟨hdr.toNat, info.toNat, data⟩] ∧ Counted (R.CAN_CNT_RXOK p.val) s t ∧ SameBytes s t) ∧
        (32 ≤ (s.can p.val).rx.length → Runs (.canFrameReceive p hdr info data) s fun t =>
          t.can p.val = s.can p.val ∧ Counted (R.CAN_CNT_RXOVF p.val) s t ∧ SameBytes s t)) ∧
      (∀ (code : Fin 3) (tec rec : BitVec 8), Runs (.canBusState p code tec rec) s fun t =>
        t.rf (F.CAN_STAT_STATE p.val) = code.val ∧ t.rf (F.CAN_STAT_TEC p.val) = tec.toNat ∧ t.rf (F.CAN_STAT_REC p.val) = rec.toNat ∧
          RegsBut [R.CAN_STAT p.val, R.CAN_CNT_BUSOFF p.val] s t ∧ SameBytes s t) ∧
      (∀ f fs, s.MayRead i (R.CAN_RXF_HDR p.val) → (s.can p.val).rx = f :: fs → Runs (.canRxfPop i p) s fun t =>
        t.out = .busData i (BitVec.ofNat 32 (2 ^ 31 + f.hdr % 2 ^ 31)) :: s.out ∧ (t.can p.val).rx = fs ∧
          t.regN (R.CAN_RXF_INFO p.val) = f.info % 2 ^ 32 ∧ SameBytes s t))

/-- R445, R449, R450, R464 to R466, R468, R471, R490: the state of the dictionary. `q` is the invoke that waits. -/
def Obligations.DictionaryState : Prop :=
  ∀ (s : State),
    (s.sys.mc5 = false ∨ s.step1 Fn.DICT = true → exec .dictionaryImageLoad s = .next s) ∧
    (s.sys.mc5 = true → s.step1 Fn.DICT = false →
      (s.imageGood = false → Runs .dictionaryImageLoad s fun t =>
        t.rb F.ODE_ERR_ERR = true ∧ t.step1 Fn.DICT = false ∧ RegsBut [R.ODE_ERR] s t ∧ SameBytes s t) ∧
      (s.imageGood = true → Runs .dictionaryImageLoad s fun t => t.step1 Fn.DICT = true)) ∧
    (s.ode.req.isSome → exec .heldValuesApply s = .next s) ∧
    (∀ x d es l, s.ode.req = none → s.ode.held = [[x]] → s.mustHold x = false → ownRef x.ref = false →
      s.refCheck x.ref = .ok (d, es) → d.permits Acc.WRITE 3 = true → s.checkValue Acc.WRITE x.ref x.typ x.value = .ok (d, l) →
      d.bind = 1 → Runs .heldValuesApply s fun t =>
        t.ode.held = [] ∧ t.mem = (s.applyStore (entryVals d l)).mem ∧ t.regs = s.regs) ∧
    (s.rf F.ODE_JSTAT_STATE ≠ Js.RUN ∨ s.ode.jbuf = [] → ∀ f, exec (.journalCommit f) s = .next s) ∧
    (s.rf F.ODE_JSTAT_STATE = Js.RUN → s.ode.jbuf ≠ [] → s.ode.jpair ≠ 0 → Runs (.journalCommit true) s fun t =>
      t.rf F.ODE_JSTAT_STATE = Js.COMPACT ∧ t.ode.retired = s.rf F.ODE_JSTAT_PAIR :: s.ode.retired ∧ t.ode.jbuf = s.ode.jbuf ∧
        Counted R.ODE_CNT_JRETIRE s t ∧ t.flash = s.flash ∧ SameBytes s t) ∧
    (∀ g, s.rf F.ODE_JSTAT_STATE = Js.RUN → s.ode.jbuf = [g] → s.ode.jpair ≠ 0 →
      (s.ode.joff + groupSize g ≤ s.jSize → Runs (.journalCommit false) s fun t =>
        t.ode.jbuf = [] ∧ t.ode.joff = s.ode.joff + groupSize g ∧ t.rf F.ODE_JSTAT_WAIT = 0 ∧ t.rf F.ODE_JSTAT_STATE = Js.RUN ∧
          SameBytes s t) ∧
      (s.jSize < s.ode.joff + groupSize g → Runs (.journalCommit false) s fun t =>
        t.ode.jbuf = [g] ∧ t.rf F.ODE_JSTAT_STATE = Js.COMPACT ∧ t.flash = s.flash ∧ SameBytes s t)) ∧
    (s.rf F.ODE_JSTAT_STATE ≠ Js.COMPACT → ∀ bad, exec (.journalCompact bad) s = .next s) ∧
    (s.rf F.ODE_JSTAT_STATE = Js.COMPACT →
      (s.jNext = none → ∀ bad, Runs (.journalCompact bad) s fun t => t.rf F.ODE_JSTAT_STATE = Js.FAIL ∧ t.flash = s.flash ∧ SameBytes s t) ∧
      (∀ p, s.jNext = some p → recSize 2 + (s.snapVals.map (fun x => valSize x.value.length)).sum + recSize 1 ≤ s.jSize →
        Runs (.journalCompact 0) s fun t => t.rf F.ODE_JSTAT_STATE = Js.RUN ∧ t.ode.jbuf = s.ode.jbuf)) ∧
    (∀ p : PullIn, (s.ode.pulls = [] → exec (.digestPull p) s = .next s) ∧ (s.ode.retry = none → exec (.pullRetry p) s = .next s)) ∧
    (∀ (p : PullIn) (j : Nat) (js : List Nat), s.ode.req = none → s.ode.pulls = j :: js →
      let u := s.setOde (fun o => { o with pulls := js })
      (u.pullMay j = false → exec (.digestPull p) s = .next u) ∧
      (u.pullMay j = true → p.answered = false → Runs (.digestPull p) s fun t =>
        t.reg R.ODE_GEN = s.reg R.ODE_GEN ∧ t.ode.retry = some j ∧ Counted R.ODE_CNT_PULLFAIL s t ∧ SameBytes s t) ∧
      (∀ l, u.pullMay j = true → p.answered = true → takeRecords p.records.length p.records = some l →
        (u.snapshot 6 (u.paramN 0x30 0x014 0 1020) Usage.MAC).isSome →
        u.digestOf p.gen.toNat (u.stagedVal (l.filter (fun x =>
          ((p.areas.filter (fun y => (u.areaDigest y.1.toNat).take 8 != y.2)).map (fun y => y.1.toNat)).contains (x.1 / 2 ^ 24)))) = p.digest →
        Runs (.digestPull p) s fun t => t.reg R.ODE_GEN = p.gen ∧ t.rb F.ODE_STAT_DIRTY = false ∧ t.ode.retry = none)) ∧
    (∀ (p : PullIn) (j : Nat), s.ode.req = none → s.ode.retry = some j →
      let u := s.setOde (fun o => { o with retry := none })
      (u.pullMay j = false ∨ u.rf (F.ODE_NBR_INFO_CLASS j) ≠ 1 → exec (.pullRetry p) s = .next u) ∧
      (u.pullMay j = true → u.rf (F.ODE_NBR_INFO_CLASS j) = 1 → p.answered = false → Runs (.pullRetry p) s fun t =>
        t.reg R.ODE_GEN = s.reg R.ODE_GEN ∧ t.ode.retry = some j ∧ Counted R.ODE_CNT_PULLFAIL s t ∧ SameBytes s t)) ∧
    (∀ (i : Init) (v : Word), s.MayWrite i R.ODE_STATECMD →
      (i.val ≠ Ini.MC5 → Runs (.statecmd i v) s fun t => t.reg R.ODE_ERR = 0x104 ∧ t.dev = s.dev ∧ SameBytes s t) ∧
      (i.val = Ini.MC5 → bits v 2 0 = 5 → Runs (.statecmd i v) s fun t => t.dev = Dev.DUMP ∧ RegsBut [R.ODE_STAT] s t ∧ SameBytes s t) ∧
      (i.val = Ini.MC5 → bits v 2 0 = 2 → s.dev = Dev.BOOT → s.ready Fn.DICT = true → Runs (.statecmd i v) s fun t =>
        t.dev = s.opTarget ∧ RegsBut [R.ODE_STAT] s t ∧ SameBytes s t) ∧
      (i.val = Ini.MC5 → bits v 2 0 = 2 → s.dev ≠ Dev.BOOT ∨ s.ready Fn.DICT = false → Runs (.statecmd i v) s fun t =>
        t.reg R.ODE_ERR = 0x101 ∧ t.dev = s.dev ∧ SameBytes s t)) ∧
    (s.ode.req = none → s.dev = Dev.OPERATIONAL ∨ s.dev = Dev.LIMITED → Runs .stateAutoChange s fun t =>
      t.dev = s.opTarget ∧ RegsBut [R.ODE_STAT] s t ∧ SameBytes s t) ∧
    (s.ode.req.isSome ∨ (s.dev ≠ Dev.OPERATIONAL ∧ s.dev ≠ Dev.LIMITED) → exec .stateAutoChange s = .next s) ∧
    (∀ p ∈ [(Instr.stateReq, 0x01, 0x001), (.restart, 0x01, 0x003), (.fallbackClear, 0x02, 0x004), (.attest, 0x30, 0x003),
        (.keyUnwrap, 0x30, 0x015), (.keyLoad, 0x30, 0x016), (.commit, 0x40, 0x002)],
      s.fwOf p.2.1 p.2.2 = none → exec p.1 s = .next s) ∧
    (s.ode.jbuf ≠ [] → exec .save s = .next s) ∧
    (∀ q : FwReq, q.kind = Acc.INVOKE →
      let gone (t : State) : Prop := t.ode.fwq = s.ode.fwq.filter (fun x => x.num != q.num) ∧
        ((s.waiter q.num).isSome → t.ode.req = none)
      let k := bytesNat q.value
      (s.fwOf 0x01 0x001 = some q →
        (k = 1 → s.dev = Dev.OPERATIONAL ∨ s.dev = Dev.LIMITED → Runs .stateReq s fun t => t.dev = Dev.MAINTENANCE ∧ gone t ∧ SameBytes s t) ∧
        (k = 2 → s.dev = Dev.MAINTENANCE → Runs .stateReq s fun t => t.dev = s.opTarget ∧ gone t ∧ SameBytes s t) ∧
        (k = 1 → s.dev = Dev.ALARM → s.MayWrite mc5 R.CRY_ALMCLR → Runs .stateReq s fun t =>
          t.dev = Dev.MAINTENANCE ∧ t.rb F.CRY_STAT_ALARM = false ∧ gone t ∧ SameBytes s t) ∧
        (k ≠ 1 → k ≠ 2 → Runs .stateReq s fun t => t.dev = s.dev ∧ gone t ∧ SameBytes s t)) ∧
      (s.fwOf 0x01 0x002 = some q → s.ode.jbuf = [] → Runs .save s fun t => gone t ∧ t.flash = s.flash ∧ SameBytes s t) ∧
      (s.fwOf 0x01 0x003 = some q → Runs .restart s fun t =>
        t.rf F.SYS_RSTCAUSE_THIS = (if k = 1 then 3 else if s.dev = Dev.DUMP then 6 else 4) ∧ t.sys.phase = 0 ∧ t.ode.sessions = []) ∧
      (s.fwOf 0x02 0x004 = some q → Runs .fallbackClear s fun t =>
        gone t ∧ (s.ledgerBits 0 8 0 (s.rf F.SYS_OTPCNT_EPOCH) < 256 → t.rb F.SYS_OTPCNT_BUSY = true) ∧ SameBytes s t) ∧
      (s.fwOf 0x30 0x003 = some q →
        (q.value.length ≠ 48 → exec .attest s = .next (s.fwDone q St.RANGE [])) ∧
        (q.value.length = 48 → s.ready Fn.PKE = true → s.attestStop = false → Runs .attest s fun t => gone t ∧ SameBytes s t ∧
          exec .attest s = .next ((s.attested q.value).1.fwDone q St.OK (s.attested q.value).2))) ∧
      (s.fwOf 0x30 0x016 = some q →
        let n := bytesNat (q.value.take 2)
        let typ := bytesNat ((q.value.drop 2).take 1)
        let usage := bytesNat ((q.value.drop 3).take 1)
        let key := q.value.drop 8
        (24 ≤ q.value.length → q.value.length ≤ 72 → n ≤ 1023 → typ ≤ 4 → key.length = keyLen typ key.length → key.length % 8 = 0 →
          (∀ st, s.keyGate 1 n = some st → Runs .keyLoad s fun t => t.cry.slots = s.cry.slots ∧ gone t ∧ SameBytes s t) ∧
          (s.keyGate 1 n = none → suits typ usage = true → Runs .keyLoad s fun t =>
            (t.slot n).st = Slot.LOADED ∧ (t.slot n).typ = typ ∧ (t.slot n).usage = usage ∧ (t.slot n).key = key ∧
              (t.slot n).gen = (s.slot n).gen + 1 ∧ (∀ m, m ≠ n → t.slot m = s.slot m) ∧ gone t ∧ SameBytes s t)) ∧
        (q.value.length < 24 → Runs .keyLoad s fun t => t.cry.slots = s.cry.slots ∧ gone t ∧ SameBytes s t)) ∧
      (s.fwOf 0x30 0x015 = some q →
        let n := bytesNat (q.value.take 2)
        let kekAt := bytesNat ((q.value.drop 2).take 2)
        let usage := bytesNat ((q.value.drop 4).take 1)
        let blob := q.value.drop 12
        (q.value.length < 32 → Runs .keyUnwrap s fun t => t.cry.slots = s.cry.slots ∧ gone t ∧ SameBytes s t) ∧
        (∀ kek p, 32 ≤ q.value.length → q.value.length ≤ 1024 → bytesNat ((q.value.drop 5).take 3) = 0 → n ≤ 1023 → kekAt ≤ 1022 →
          blob.length % 8 = 0 → blob.length ≤ 80 → s.ecc = [] → s.rb F.SRM_INJ_CTRL_ARM = false → s.keyGate 2 n = none →
          s.kek kekAt = some kek → Aes.keyUnwrap (nats kek) (nats blob) = some p →
          let a := Config.attrRead (p.take 8)
          a.1 ≤ 4 → suits a.1 (a.2.1 &&& usage) = true → keyLen a.1 a.2.2 = blob.length - 16 → Runs .keyUnwrap s fun t =>
            (t.slot n).st = Slot.LOADED ∧ (t.slot n).typ = a.1 ∧ (t.slot n).usage = a.2.1 &&& usage ∧
              (t.slot n).key = toBytes (p.drop 8) ∧ (∀ m, m ≠ n → t.slot m = s.slot m) ∧ gone t)) ∧
      (s.fwOf 0x40 0x002 = some q →
        (s.genOk k = true → k < 2 ^ 32 → Runs .commit s fun t =>
          t.regN R.ODE_GEN = k ∧ t.rb F.ODE_STAT_DIRTY = false ∧ gone t ∧ SameBytes s t ∧
            (∀ m, m < 12 → t.regN (R.ODE_DIG m) = bytesNat (((s.digestOf k s.valueNow).drop (4 * m)).take 4)) ∧
            t.mr 4 = sha384b (s.mr 4 ++ s.digestOf k s.valueNow)) ∧
        (s.genOk k = false → Runs .commit s fun t =>
          t.reg R.ODE_GEN = s.reg R.ODE_GEN ∧ t.rb F.ODE_STAT_DIRTY = s.rb F.ODE_STAT_DIRTY ∧ gone t ∧ SameBytes s t)))

/-- R478, R491 to R494: the luminaire, and the collection of counters. -/
def Obligations.Luminaire : Prop :=
  ∀ (s : State),
    let lit (level : Nat) (t : State) : Prop := t.lum.level = level ∧ t.lum.dapc = none ∧ t.out = .dali level :: s.out ∧
      t.sys.rlyOut = s.sys.rlyOut ∧ SameBytes s t
    let off (t : State) : Prop := t.lum.level = 0 ∧ t.lum.dapc = none ∧ t.lum.fadeOpen = true ∧ t.out = .dali 0 :: s.out ∧
      t.sys.rlyOut = s.sys.rlyOut ∧ SameBytes s t
    let timeless := s.rf F.GTU_STAT_STATE = 0 ∨ s.rf F.GTU_STAT_STATE = 3
    (s.fwOf 0x38 0x001 = none → exec .relayCmd s = .next s) ∧
    (s.fwOf 0x38 0x011 = none → exec .levelCmd s = .next s) ∧
    (∀ q, s.fwOf 0x38 0x001 = some q → q.kind = Acc.INVOKE →
      let close := bytesNat q.value == 1
      (s.lum.want = none → s.relayClosed = close → Runs .relayCmd s fun t =>
        t.lum = s.lum ∧ t.sys = s.sys ∧ t.ode.fwq = s.ode.fwq.filter (fun x => x.num != q.num) ∧ SameBytes s t) ∧
      (s.relayClosed ≠ close → timeless → Runs .relayCmd s fun t =>
        t.relayClosed = close ∧ t.lum.want = none ∧ t.lum.untimed = s.lum.untimed + 1 ∧ SameBytes s t) ∧
      (s.relayClosed ≠ close → ¬ timeless → Runs .relayCmd s fun t =>
        (∃ T, t.lum.want = some (close, T)) ∧ t.sys.rlyOut = s.sys.rlyOut ∧ SameBytes s t)) ∧
    (∀ q, s.fwOf 0x38 0x011 = some q → q.kind = Acc.INVOKE →
      (bytesNat q.value = 0 → Runs .levelCmd s off) ∧
      (bytesNat q.value ≠ 0 → s.relayClosed = true → Runs .levelCmd s (lit (bytesNat q.value)))) ∧
    (let p := s.paramN 0x38 0x013 0 0xFF
      let now := profileStep (s.paramAt 0x38 0x012 p []) (s.gtN / 2 ^ 24)
      (8 ≤ p ∨ s.ready Fn.LUM = false ∨ now = none → exec .profileStep s = .next s) ∧
      (p < 8 → s.ready Fn.LUM = true → now = some 0 → Runs .profileStep s off) ∧
      (∀ level, p < 8 → s.ready Fn.LUM = true → now = some level → level ≠ 0 → s.relayClosed = true →
        Runs .profileStep s (lit level))) ∧
    (∀ level, s.lum.dapc = some level → s.relayClosed = true → s.lum.busyTo.toNat ≤ s.gtN → Runs .dapcSend s (lit level)) ∧
    (s.lum.dapc = none ∨ s.relayClosed = false ∨ s.gtN < s.lum.busyTo.toNat → exec .dapcSend s = .next s) ∧
    (s.lum.fadeOpen = false → exec .relayFadeOpen s = .next s) ∧
    (s.lum.fadeOpen = true → s.relayClosed = true → timeless → Runs .relayFadeOpen s fun t =>
      t.relayClosed = false ∧ t.lum.fadeOpen = false ∧ SameBytes s t) ∧
    (s.lum.fadeOpen = true → s.relayClosed = false → s.lum.want = none → Runs .relayFadeOpen s fun t =>
      t.lum = { s.lum with fadeOpen := false } ∧ t.sys = s.sys ∧ t.regs = s.regs ∧ SameBytes s t) ∧
    (s.sys.mc5 = false → exec .counterCollect s = .next s) ∧
    (s.sys.mc5 = true → Runs .counterCollect s fun t => ∀ a, Sparse.getN s.ode.totals a ≤ Sparse.getN t.ode.totals a)

/-- R434, R496 to R498, R501 to R503, R509, R526, R534: resets, start, watchdog. That SRAM keeps its bytes until it is
cleared is the model's reading. -/
def Obligations.ResetsAndStart : Prop :=
  ∀ (s : State) (i : Init),
    let causes (cause : Nat) (t : State) : Prop := t.reg R.SYS_RSTCAUSE =
      BitVec.ofNat 32 (cause * 2 ^ 24 + (if cause = 1 then 0 else s.rf F.SYS_RSTCAUSE_THIS) * 2 ^ 16)
    let fresh (t : State) : Prop := t.sys.phase = 0 ∧ t.sys.mc5 = false ∧ t.sys.limited = 0 ∧ t.cry = State.reset.cry ∧
      t.ode = State.reset.ode ∧ t.gtu = State.reset.gtu ∧ t.flash = s.flash ∧ t.rb F.SYS_OTPCNT_BUSY = false ∧
      t.rf F.SYS_OTPCNT_EPOCH = s.rf F.SYS_OTPCNT_EPOCH ∧ (∀ a, isDram a = false → t.byte a = s.byte a)
    let cold (cause : Nat) (t : State) : Prop := causes cause t ∧ fresh t ∧ t.sys.cold = true ∧ t.sys.rlyOut = false ∧
      (∀ a, isDram a = true → t.byte a = 0) ∧ (∀ a, keptCold a = false → t.reg a = regDefault a) ∧
      (∀ n, n < 128 → t.reg (R.PKE_OTP n) = s.reg (R.PKE_OTP n))
    let holds := decide (2 ≤ s.rf F.DRC_STAT_STATE)
    let warm (cause : Nat) (t : State) : Prop := causes cause t ∧ fresh t ∧ t.sys.cold = false ∧ t.sys.rlyOut = s.sys.rlyOut ∧
      (∀ a, keptWarm holds a = false → t.reg a = regDefault a) ∧ (∀ n, n < 4 → t.reg (R.SYS_AONSCR n) = s.reg (R.SYS_AONSCR n)) ∧
      t.reg R.CRY_ALMCNT = s.reg R.CRY_ALMCNT ∧
      (holds = true → t.rf F.DRC_STAT_STATE = 4 ∧ t.rb F.DRC_DUMP_RETAINED = true ∧ t.rb F.DRC_DUMP_LOCK = true ∧ t.mem = s.mem) ∧
      (holds = false → ∀ a, isDram a = true → t.byte a = 0)
    Runs .powerOnReset s (cold 1) ∧ Runs .resetPin s (cold 2) ∧
    (∀ key : BitVec 16, s.MayWrite i R.SYS_RSTCMD →
      (key = 0x5253 → Runs (.coldResetCmd i key) s (cold 3) ∧
        Runs (.warmResetCmd i key) s (warm (if s.rf F.ODE_STAT_STATE = 5 then 6 else 4))) ∧
      (key ≠ 0x5253 → ∀ c ∈ [Instr.coldResetCmd i key, .warmResetCmd i key], Runs c s fun t =>
        t.reg R.SYS_ERR = 0x102 ∧ RegsBut [R.SYS_ERR] s t ∧ t.sys = s.sys ∧ SameBytes s t)) ∧
    (s.rb F.SYS_WDT_EN = true → Runs .watchdogExpiry s (warm 5)) ∧
    (s.rb F.SYS_WDT_EN = false → exec .watchdogExpiry s = .next s) ∧
    (∀ v : Word, s.MayWrite i R.SYS_WDT →
      (100 ≤ bits v 15 0 → bits v 15 0 ≤ 60000 → Runs (.wdtEnable i v) s fun t =>
        t.sys.wdtMs = (if s.rb F.SYS_WDT_EN = true then s.sys.wdtMs else bits v 15 0) ∧
          t.rb F.SYS_WDT_EN = (v.getLsbD 31 || s.rb F.SYS_WDT_EN) ∧ t.rf F.SYS_WDT_MS = bits v 15 0 ∧ RegsBut [R.SYS_WDT] s t ∧
          SameBytes s t) ∧
      (bits v 15 0 < 100 ∨ 60000 < bits v 15 0 → Runs (.wdtEnable i v) s fun t =>
        t.reg R.SYS_ERR = 0x102 ∧ RegsBut [R.SYS_ERR] s t ∧ SameBytes s t)) ∧
    (∀ v : Word, s.MayWrite i R.SYS_WDT_KICK →
      (v = 0xA5A5 → Runs (.wdtKick i v) s fun t => t.sys = { s.sys with wdtMs := s.rf F.SYS_WDT_MS } ∧ t.regs = s.regs ∧ SameBytes s t) ∧
      (v ≠ 0xA5A5 → Runs (.wdtKick i v) s fun t =>
        t.reg R.SYS_ERR = 0x102 ∧ RegsBut [R.SYS_ERR] s t ∧ t.sys = s.sys ∧ SameBytes s t)) ∧
    (∀ nc, (s.sys.phase ≠ 0 → exec (.resetRelease nc) s = .next s) ∧
      (s.sys.phase = 0 → Runs (.resetRelease nc) s fun t =>
        t.sys = { s.sys with phase := 1, rlyNc := if s.sys.cold then nc else s.sys.rlyNc } ∧ t.regs = s.regs ∧ SameBytes s t)) ∧
    (s.sys.phase ≠ 1 → exec .refValid s = .next s) ∧
    (s.sys.phase = 1 → Runs .refValid s fun t => t.sys = { s.sys with phase := 2 } ∧ t.regN R.SYS_STEPOK = s.regN R.SYS_STEPOK ||| 3) ∧
    (∀ size : Word,
      (s.sys.phase ≠ 2 → exec (.sramClearDone size) s = .next s) ∧
      (s.sys.phase = 2 → Runs (.sramClearDone size) s fun t =>
        t.sys.phase = 3 ∧ t.regN R.SYS_STEPOK = s.regN R.SYS_STEPOK ||| 0x14 ∧ t.rb F.SYS_WDT_EN = true ∧ t.xspi.size = size.toNat ∧
          (s.lifecycle = 0 → t.sys.recovery = true ∧ t.sys.mc5 = s.sys.mc5 ∧
            (s.stp.recs = [] → ∀ a, isDram a = false → t.byte a = 0)) ∧
          (s.lifecycle ≠ 0 →
            (t.sys.mc5 = true ∧ t.sys.recovery = false ∧ ((t.rf F.SYS_BOOTSTAT_SRC = 0 ∧ t.rf F.SYS_BOOTSTAT_SLOTA = 0) ∨
              (t.rf F.SYS_BOOTSTAT_SRC = 1 ∧ t.rf F.SYS_BOOTSTAT_SLOTB = 0))) ∨
            (t.sys.mc5 = s.sys.mc5 ∧ t.sys.recovery = true ∧ t.rf F.SYS_BOOTSTAT_SLOTA ≠ 0 ∧ t.rf F.SYS_BOOTSTAT_SLOTB ≠ 0)))) ∧
    (∀ d : List Byte,
      let n := bytesNat (d.take 4)
      let good := d.length = n + 8 ∧ d.drop (4 + n) = natBytes 4 (crc32c (d.take (4 + n)))
      let v := s.verifyImage (fun o => d.getD (4 + o) 0) 0
      (s.sys.recovery = false → exec (.recoveryImage d) s = .next s) ∧
      (s.sys.recovery = true → ¬ good → Runs (.recoveryImage d) s fun t =>
        t.sys = { s.sys with refused := true } ∧ t.regs = s.regs ∧ SameBytes s t) ∧
      (s.sys.recovery = true → good → v.2 = St.OK → Runs (.recoveryImage d) s fun t =>
        t.sys.mc5 = true ∧ t.sys.recovery = false ∧ t.rf F.SYS_BOOTSTAT_SRC = 2 ∧ t.mem = v.1.mem) ∧
      (s.sys.recovery = true → good → v.2 ≠ St.OK → Runs (.recoveryImage d) s fun t =>
        t.sys = { s.sys with refused := true } ∧ t.mem = v.1.mem)) ∧
    (∀ (journal : Bool) (status : Option (BitVec 8)),
      let d := ledgerStep s.ledgerNow (if journal then 6 else 5) ((status.map (fun x => x.toNat)).getD St.LATE)
      (s.sys.mc5 = false ∨ s.dev ≠ Dev.BOOT → exec (.bootTimeout journal status) s = .next s) ∧
      (s.sys.mc5 = true → s.dev = Dev.BOOT →
        (s.ready Fn.DICT = true → Runs (.bootTimeout journal status) s fun t =>
          (t.dev = Dev.OPERATIONAL ∨ t.dev = Dev.LIMITED) ∧ (s.stillRuns = [] → t.dev = s.opTarget ∧ t.flash = s.flash) ∧
            (∀ k ∈ s.stillRuns, t.sys.limited / 2 ^ k % 2 = 1) ∧ SameBytes s t) ∧
        (s.ready Fn.DICT = false → failRun d (if journal then 6 else 5) < 3 → Runs (.bootTimeout journal status) s fun t =>
          t.sys.phase = 0 ∧ t.rf F.SYS_RSTCAUSE_THIS = 4 ∧ t.dev = Dev.BOOT) ∧
        (s.ready Fn.DICT = false → 3 ≤ failRun d (if journal then 6 else 5) → Runs (.bootTimeout journal status) s fun t =>
          t.sys = s.sys ∧ t.dev = Dev.BOOT ∧ SameBytes s t)))

/-- R504, R505, R512, R513, R515, R523, R526, R534. That LEDGER_WRITE blows a due fuse first is the model's reading. -/
def Obligations.SystemControl : Prop :=
  ∀ (s : State) (i : Init),
    (∀ v : Word,
      let own := v.toNat &&& stepOwned i.val = v.toNat
      let old := s.regN R.SYS_STEPOK
      (s.MayWrite i R.SYS_STEPSET → own → Runs (.stepset i v) s fun t => t.regN R.SYS_STEPOK = (old ||| v.toNat)) ∧
      (s.MayWrite i R.SYS_STEPCLR → own → Runs (.stepclr i v) s fun t => t.regN R.SYS_STEPOK = old - (old &&& v.toNat)) ∧
      (s.MayWrite i R.SYS_STEPSET → ¬ own → Runs (.stepset i v) s fun t =>
        t.reg R.SYS_ERR = 0x104 ∧ RegsBut [R.SYS_ERR] s t ∧ SameBytes s t) ∧
      (s.MayWrite i R.SYS_STEPCLR → ¬ own → Runs (.stepclr i v) s fun t =>
        t.reg R.SYS_ERR = 0x104 ∧ RegsBut [R.SYS_ERR] s t ∧ SameBytes s t)) ∧
    (∀ v : Word, s.MayWrite i R.SYS_CTRL → Runs (.rdyenSet i v) s fun t =>
      t.rb F.SYS_CTRL_RDYEN = (v.getLsbD 31 || s.rb F.SYS_CTRL_RDYEN) ∧ RegsBut [R.SYS_CTRL] s t ∧ t.evr = s.evr ∧ SameBytes s t) ∧
    (∀ v : Word, s.MayWrite i R.SYS_CLKEN → Runs (.clkenWrite i v) s fun t =>
      (∀ k, k < 8 → (t.reg R.SYS_CLKEN).getLsbD k = v.getLsbD k) ∧
        (∀ k, k < 8 → (s.reg R.SYS_CLKEN).getLsbD k = true → v.getLsbD k = false → t.regN R.SYS_STEPOK &&& clkSteps k = 0) ∧
        ((∀ k, k < 8 → (s.reg R.SYS_CLKEN).getLsbD k = true → v.getLsbD k = true) →
          RegsBut [R.SYS_CLKEN] s t ∧ SameBytes s t)) ∧
    (∀ locked : Bool, (s.sys.mc5 = false → exec (.netPllRetry locked) s = .next s) ∧
      (s.sys.mc5 = true → Runs (.netPllRetry locked) s fun t =>
        (∀ k, 8 ≤ k → k ≤ 13 → t.sys.limited / 2 ^ k % 2 = (if locked then 0 else 1)) ∧
          t.regN R.SYS_STEPOK = (if locked then s.regN R.SYS_STEPOK ||| 0x3F00 else s.regN R.SYS_STEPOK))) ∧
    (∀ v : Word, s.MayWrite i R.SYS_OTPCNT_INC →
      (v.getLsbD 0 = false → exec (.otpcntInc i v) s = .next s) ∧
      (v.getLsbD 0 = true → s.rb F.SYS_OTPCNT_BUSY = true → Runs (.otpcntInc i v) s fun t =>
        t.reg R.SYS_ERR = 0x105 ∧ RegsBut [R.SYS_ERR] s t ∧ SameBytes s t) ∧
      (v.getLsbD 0 = true → s.rb F.SYS_OTPCNT_BUSY = false → 256 ≤ s.rf F.SYS_OTPCNT_EPOCH → Runs (.otpcntInc i v) s fun t =>
        t.reg R.SYS_ERR = 0x102 ∧ RegsBut [R.SYS_ERR] s t ∧ SameBytes s t) ∧
      (v.getLsbD 0 = true → s.rb F.SYS_OTPCNT_BUSY = false → s.rf F.SYS_OTPCNT_EPOCH < 256 → Runs (.otpcntInc i v) s fun t =>
        t.rb F.SYS_OTPCNT_BUSY = true ∧ t.rf F.SYS_OTPCNT_EPOCH = s.rf F.SYS_OTPCNT_EPOCH ∧ RegsBut [R.SYS_OTPCNT] s t ∧ SameBytes s t)) ∧
    (s.rb F.SYS_OTPCNT_BUSY = false → exec .otpFuseDone s = .next s) ∧
    (s.rb F.SYS_OTPCNT_BUSY = true → Runs .otpFuseDone s fun t =>
      t.rf F.SYS_OTPCNT_EPOCH = min 256 (s.rf F.SYS_OTPCNT_EPOCH + 1) ∧ t.rb F.SYS_OTPCNT_BUSY = false ∧
        RegsBut [R.SYS_OTPCNT] s t ∧ SameBytes s t) ∧
    (∀ data : List (BitVec 32),
      let due := s.ledgerBits 0 8 0 (s.rf F.SYS_OTPCNT_EPOCH) = s.rf F.SYS_OTPCNT_EPOCH + 1 ∧ s.rf F.SYS_OTPCNT_EPOCH < 256
      (s.sys.mc5 = false ∨ data.length < 7 ∨ 39 < data.length → exec (.ledgerWrite data) s = .next s) ∧
      (s.sys.mc5 = true → 7 ≤ data.length → data.length ≤ 39 →
        (due → Runs (.ledgerWrite data) s fun t =>
          t.rb F.SYS_OTPCNT_BUSY = true ∧ t.flash = s.flash ∧ RegsBut [R.SYS_OTPCNT] s t ∧ SameBytes s t) ∧
        (¬ due → Runs (.ledgerWrite data) s fun t => RegsBut [R.XSPI_CNT_OPS] s t ∧ SameBytes s t ∧
          (∀ a, a < 0x10000 ∨ 0x90000 ≤ a → t.flashByte a = s.flashByte a) ∧
          (s.ledger = none → ∀ r : StoredRec, r = ⟨0x4C00, 1, data.map (fun w => w.toNat)⟩ →
            t.flashBytes 0x10000 r.bytes.length = r.bytes ∧ t.flashBytes 0x20000 r.bytes.length = r.bytes)))) ∧
    (s.MayRead i R.SYS_ACCERR →
      let o := if s.acc.ovf then 2 ^ 30 else 0
      (s.acc.held = [] → Runs (.sysAccerrPop i) s fun t =>
        t.out = .busData i (BitVec.ofNat 32 o) :: s.out ∧ t.acc = ⟨[], false⟩ ∧ t.regs = s.regs ∧ SameBytes s t) ∧
      (∀ x xs, s.acc.held = x :: xs → Runs (.sysAccerrPop i) s fun t =>
        t.out = .busData i (BitVec.ofNat 32 (2 ^ 31 + o + x.1 * 2 ^ 16)) :: s.out ∧ t.acc = ⟨xs, false⟩ ∧
          t.reg64 R.SYS_ACCADDR_LO R.SYS_ACCADDR_HI = x.2 % 2 ^ 64 ∧ RegsBut [R.SYS_ACCADDR_LO, R.SYS_ACCADDR_HI] s t ∧ SameBytes s t)) ∧
    (∀ k : Fin 4, (s.sys.supplyOut = true → exec (.supplyOutOfRange k) s = .next s) ∧
      (s.sys.supplyOut = false → Runs (.supplyOutOfRange k) s fun t => t.sys = { s.sys with supplyOut := true } ∧
        t.rf (F.EVR_CNT_CNT 236) = (s.rf (F.EVR_CNT_CNT 236) + 1) % 2 ^ 16 ∧ RegsBut [] s t ∧ SameBytes s t)) ∧
    (Runs .supplyBackInRange s fun t => t.sys = { s.sys with supplyOut := false } ∧ t.regs = s.regs ∧ SameBytes s t) ∧
    (s.sys.mc5 = false ∨ s.rb F.DRC_DUMP_RETAINED = false ∨ s.sys.dumpDone = true → exec .dumpCopy s = .next s) ∧
    (s.sys.mc5 = true → s.rb F.DRC_DUMP_RETAINED = true → s.sys.dumpDone = false → Runs .dumpCopy s fun t =>
      let base := dramBase + s.rf F.DRC_DUMP_BASE_MB * 2 ^ 20
      let total := bytesNat (s.bytes (base + 8) 4)
      let good := dumpOk (s.bytes base 256) = true ∧ 256 ≤ total ∧ total ≤ s.rf F.DRC_DUMP_SIZE_MB * 2 ^ 20
      let skip := s.ledgerBits 3 5 5 0 = 1
      t.rb F.DRC_DUMP_LOCK = false ∧ t.sys.dumpDone = true ∧
        (s.rf F.DRC_STAT_STATE ≠ 4 → SameBytes s t ∧ (¬ good ∨ skip → t.flash = s.flash) ∧
          (good → ¬ skip → s.dumpPresent = false → 256 ≤ s.dumpArea.2 →
            dumpOk (t.flashBytes s.dumpArea.1 256) = true ∧
              (∀ a, a < s.dumpArea.1 ∨ s.dumpArea.1 + s.dumpArea.2 ≤ a → t.flashByte a = s.flashByte a))))

/-- R511, R527: the external flash. That a PROGRAM only clears bits is the model's choice, taken from flash memories. -/
def Obligations.FlashOperations : Prop :=
  ∀ (s : State) (i : Init),
    (∀ v : Word, s.MayWrite i R.XSPI_OP_PUSH →
      (v.getLsbD 0 = false → exec (.xspiOpPush i v) s = .next s) ∧
      (v.getLsbD 0 = true → s.opCheck s.stagedOp ≠ St.OK → Runs (.xspiOpPush i v) s fun t =>
        t.regN R.XSPI_ERR = 0x100 + s.opCheck s.stagedOp ∧ t.xspi = s.xspi ∧ RegsBut [R.XSPI_ERR] s t ∧ SameBytes s t) ∧
      (v.getLsbD 0 = true → s.opCheck s.stagedOp = St.OK → Runs (.xspiOpPush i v) s fun t =>
        t.xspi = { s.xspi with queue := s.xspi.queue ++ [s.stagedOp] } ∧ t.rb F.XSPI_STAT_IDLE = false ∧
          t.rf F.XSPI_STAT_QLEVEL = s.xspi.queue.length + 1 ∧ RegsBut [R.XSPI_STAT] s t ∧ SameBytes s t)) ∧
    (∀ o : FlashOp, o.kind = 0 ∨ 4 < o.kind → s.opCheck o = St.TYPE) ∧
    (∀ p ∈ [(Instr.xspiRead, 1), (.xspiProgram, 2), (.xspiErase, 3), (.xspiRaw, 4)],
      (s.rb F.XSPI_CTRL_EN = false → exec p.1 s = .next s) ∧
      (s.rb F.XSPI_CTRL_EN = true → s.xspi.run = none →
        (nextOp s.xspi.queue = none → exec p.1 s = .next s) ∧
        (∀ o, nextOp s.xspi.queue = some o →
          (o ∈ s.xspi.queue ∧ ∀ x ∈ s.xspi.queue, x.prio ≤ o.prio) ∧ (o.kind ≠ p.2 → exec p.1 s = .next s) ∧
          (o.kind = p.2 → Runs p.1 s fun t => t.xspi = { s.xspi with queue := s.xspi.queue.erase o, run := some o } ∧
            t.rb F.XSPI_STAT_IDLE = false ∧ RegsBut [R.XSPI_STAT] s t ∧ t.flash = s.flash ∧ SameBytes s t))) ∧
      (∀ r, s.rb F.XSPI_CTRL_EN = true → s.xspi.run = some r →
        (s.rb F.XSPI_CTRL_SUSP = false ∨ (r.kind ≠ 2 ∧ r.kind ≠ 3) ∨ s.xspi.susp.isSome → exec p.1 s = .next s) ∧
        (∀ o, s.suspender = some o → o.kind = 1 ∧ r.prio < o.prio ∧ (p.2 ≠ 1 → exec p.1 s = .next s) ∧
          (p.2 = 1 → Runs p.1 s fun t => t.xspi = { s.xspi with queue := s.xspi.queue.erase o, run := some o, susp := some r } ∧
            Counted R.XSPI_CNT_SUSP s t ∧ RegsBut [R.XSPI_STAT, R.XSPI_CNT_SUSP] s t ∧ t.flash = s.flash ∧ SameBytes s t)))) ∧
    (∀ (fail : Fin 3) (data : List Byte),
      (s.xspi.run = none → exec (.xspiOpDone fail data) s = .next s) ∧
      (∀ o, s.xspi.run = some o →
        let st := s.opStatus o fail.val
        Runs (.xspiOpDone fail data) s fun t =>
          t.xspi.run = s.xspi.susp ∧ t.xspi.susp = none ∧ t.xspi.queue = s.xspi.queue ∧ Counted R.XSPI_CNT_OPS s t ∧
            (st ≠ St.OK → Counted R.XSPI_CNT_FAIL s t) ∧
            t.xspi.results = (if s.xspi.results.length < 16 then s.xspi.results ++ [⟨o.tag, o.kind, st, s.gt⟩] else s.xspi.results) ∧
            (st = St.OK → o.kind = 1 → t.flash = s.flash ∧ t.bytes o.addr o.len = s.flashBytes o.off o.len ∧
              ∀ a, a < o.addr ∨ o.addr + o.len ≤ a → t.byte a = s.byte a) ∧
            (st = St.OK → o.kind = 2 → SameBytes s t ∧
              (∀ k, k < o.len → t.flashByte (o.off + k) = s.flashByte (o.off + k) &&& s.byte (o.addr + k)) ∧
              ∀ a, a < o.off ∨ o.off + o.len ≤ a → t.flashByte a = s.flashByte a) ∧
            (st = St.OK → o.kind = 3 → SameBytes s t ∧
              let b := o.off / 2 ^ o.len * 2 ^ o.len
              (∀ a, b ≤ a → a < b + 2 ^ o.len → t.flashByte a = 0xFF) ∧
              ∀ a, a < b ∨ b + 2 ^ o.len ≤ a → t.flashByte a = s.flashByte a) ∧
            (st = St.OK → o.kind = 4 → t.flash = s.flash ∧ SameBytes s t ∧ t.xspi.txf = s.xspi.txf.drop o.len ∧
              t.xspi.rxf = s.xspi.rxf ++ data.take o.len) ∧
            (st ≠ St.OK → SameBytes s t ∧ (∀ a, a < (opRange o).1 ∨ (opRange o).1 + (opRange o).2 ≤ a → t.flashByte a = s.flashByte a) ∧
              (st ≠ St.HW ∨ o.kind = 1 ∨ o.kind = 4 → t.flash = s.flash)))) ∧
    (s.MayRead i R.XSPI_RES →
      (s.xspi.results = [] → Runs (.xspiResultPop i) s fun t => t.out = .busData i 0 :: s.out ∧ t.xspi = s.xspi ∧ t.regs = s.regs ∧
        SameBytes s t) ∧
      (∀ x xs, s.xspi.results = x :: xs → Runs (.xspiResultPop i) s fun t =>
        t.out = .busData i (BitVec.ofNat 32 (2 ^ 31 + x.tag * 2 ^ 16 + x.opc * 2 ^ 12 + x.status)) :: s.out ∧
          t.xspi = { s.xspi with results := xs } ∧ t.regs = s.regs ∧ SameBytes s t))
end

