-- ==== Sys2Proof/Laws/State.lean ====
section
/-! SUPPORT. One lemma per field per update: what each first-hand change of the state leaves alone, and what it sets. -/

set_option Elab.async false

namespace Sys2Proof.Machine

/-! setReg -/

@[simp] theorem setReg_pending (s : State) (a : Nat) (v : Word) : (s.setReg a v).pending = s.pending := rfl
@[simp] theorem setReg_mem (s : State) (a : Nat) (v : Word) : (s.setReg a v).mem = s.mem := rfl
@[simp] theorem setReg_out (s : State) (a : Nat) (v : Word) : (s.setReg a v).out = s.out := rfl
@[simp] theorem setReg_freeCtr (s : State) (a : Nat) (v : Word) : (s.setReg a v).freeCtr = s.freeCtr := rfl
@[simp] theorem setReg_gtu (s : State) (a : Nat) (v : Word) : (s.setReg a v).gtu = s.gtu := rfl
@[simp] theorem setReg_evr (s : State) (a : Nat) (v : Word) : (s.setReg a v).evr = s.evr := rfl
@[simp] theorem setReg_acc (s : State) (a : Nat) (v : Word) : (s.setReg a v).acc = s.acc := rfl
@[simp] theorem setReg_rfc (s : State) (a : Nat) (v : Word) : (s.setReg a v).rfc = s.rfc := rfl
@[simp] theorem setReg_mdm (s : State) (a : Nat) (v : Word) : (s.setReg a v).mdm = s.mdm := rfl
@[simp] theorem setReg_mpdus (s : State) (a : Nat) (v : Word) : (s.setReg a v).mpdus = s.mpdus := rfl
@[simp] theorem setReg_rxmpdus (s : State) (a : Nat) (v : Word) : (s.setReg a v).rxmpdus = s.rxmpdus := rfl
@[simp] theorem setReg_mpduNum (s : State) (a : Nat) (v : Word) : (s.setReg a v).mpduNum = s.mpduNum := rfl
@[simp] theorem setReg_wlan (s : State) (a : Nat) (v : Word) : (s.setReg a v).wlan = s.wlan := rfl
@[simp] theorem setReg_pkt (s : State) (a : Nat) (v : Word) : (s.setReg a v).pkt = s.pkt := rfl
@[simp] theorem setReg_stp (s : State) (a : Nat) (v : Word) : (s.setReg a v).stp = s.stp := rfl
@[simp] theorem setReg_fld (s : State) (a : Nat) (v : Word) : (s.setReg a v).fld = s.fld := rfl
@[simp] theorem setReg_ppe (s : State) (a : Nat) (v : Word) : (s.setReg a v).ppe = s.ppe := rfl
@[simp] theorem setReg_eth (s : State) (a : Nat) (v : Word) : (s.setReg a v).eth = s.eth := rfl
@[simp] theorem setReg_dma (s : State) (a : Nat) (v : Word) : (s.setReg a v).dma = s.dma := rfl
@[simp] theorem setReg_cry (s : State) (a : Nat) (v : Word) : (s.setReg a v).cry = s.cry := rfl
@[simp] theorem setReg_pke (s : State) (a : Nat) (v : Word) : (s.setReg a v).pke = s.pke := rfl
@[simp] theorem setReg_ecc (s : State) (a : Nat) (v : Word) : (s.setReg a v).ecc = s.ecc := rfl
@[simp] theorem setReg_drc (s : State) (a : Nat) (v : Word) : (s.setReg a v).drc = s.drc := rfl
@[simp] theorem setReg_ode (s : State) (a : Nat) (v : Word) : (s.setReg a v).ode = s.ode := rfl
@[simp] theorem setReg_can0 (s : State) (a : Nat) (v : Word) : (s.setReg a v).can0 = s.can0 := rfl
@[simp] theorem setReg_can1 (s : State) (a : Nat) (v : Word) : (s.setReg a v).can1 = s.can1 := rfl
@[simp] theorem setReg_lum (s : State) (a : Nat) (v : Word) : (s.setReg a v).lum = s.lum := rfl
@[simp] theorem setReg_flash (s : State) (a : Nat) (v : Word) : (s.setReg a v).flash = s.flash := rfl
@[simp] theorem setReg_xspi (s : State) (a : Nat) (v : Word) : (s.setReg a v).xspi = s.xspi := rfl
@[simp] theorem setReg_sys (s : State) (a : Nat) (v : Word) : (s.setReg a v).sys = s.sys := rfl
@[simp] theorem setReg_byte (s : State) (a : Nat) (v : Word) (k : Nat) : (s.setReg a v).byte k = s.byte k := rfl

/-! setByte -/

@[simp] theorem setByte_pending (s : State) (a : Nat) (b : Byte) : (s.setByte a b).pending = s.pending := rfl
@[simp] theorem setByte_regs (s : State) (a : Nat) (b : Byte) : (s.setByte a b).regs = s.regs := rfl
@[simp] theorem setByte_out (s : State) (a : Nat) (b : Byte) : (s.setByte a b).out = s.out := rfl
@[simp] theorem setByte_freeCtr (s : State) (a : Nat) (b : Byte) : (s.setByte a b).freeCtr = s.freeCtr := rfl
@[simp] theorem setByte_gtu (s : State) (a : Nat) (b : Byte) : (s.setByte a b).gtu = s.gtu := rfl
@[simp] theorem setByte_evr (s : State) (a : Nat) (b : Byte) : (s.setByte a b).evr = s.evr := rfl
@[simp] theorem setByte_acc (s : State) (a : Nat) (b : Byte) : (s.setByte a b).acc = s.acc := rfl
@[simp] theorem setByte_rfc (s : State) (a : Nat) (b : Byte) : (s.setByte a b).rfc = s.rfc := rfl
@[simp] theorem setByte_mdm (s : State) (a : Nat) (b : Byte) : (s.setByte a b).mdm = s.mdm := rfl
@[simp] theorem setByte_mpdus (s : State) (a : Nat) (b : Byte) : (s.setByte a b).mpdus = s.mpdus := rfl
@[simp] theorem setByte_rxmpdus (s : State) (a : Nat) (b : Byte) : (s.setByte a b).rxmpdus = s.rxmpdus := rfl
@[simp] theorem setByte_mpduNum (s : State) (a : Nat) (b : Byte) : (s.setByte a b).mpduNum = s.mpduNum := rfl
@[simp] theorem setByte_wlan (s : State) (a : Nat) (b : Byte) : (s.setByte a b).wlan = s.wlan := rfl
@[simp] theorem setByte_pkt (s : State) (a : Nat) (b : Byte) : (s.setByte a b).pkt = s.pkt := rfl
@[simp] theorem setByte_stp (s : State) (a : Nat) (b : Byte) : (s.setByte a b).stp = s.stp := rfl
@[simp] theorem setByte_fld (s : State) (a : Nat) (b : Byte) : (s.setByte a b).fld = s.fld := rfl
@[simp] theorem setByte_ppe (s : State) (a : Nat) (b : Byte) : (s.setByte a b).ppe = s.ppe := rfl
@[simp] theorem setByte_eth (s : State) (a : Nat) (b : Byte) : (s.setByte a b).eth = s.eth := rfl
@[simp] theorem setByte_dma (s : State) (a : Nat) (b : Byte) : (s.setByte a b).dma = s.dma := rfl
@[simp] theorem setByte_cry (s : State) (a : Nat) (b : Byte) : (s.setByte a b).cry = s.cry := rfl
@[simp] theorem setByte_pke (s : State) (a : Nat) (b : Byte) : (s.setByte a b).pke = s.pke := rfl
@[simp] theorem setByte_ecc (s : State) (a : Nat) (b : Byte) : (s.setByte a b).ecc = s.ecc := rfl
@[simp] theorem setByte_drc (s : State) (a : Nat) (b : Byte) : (s.setByte a b).drc = s.drc := rfl
@[simp] theorem setByte_ode (s : State) (a : Nat) (b : Byte) : (s.setByte a b).ode = s.ode := rfl
@[simp] theorem setByte_can0 (s : State) (a : Nat) (b : Byte) : (s.setByte a b).can0 = s.can0 := rfl
@[simp] theorem setByte_can1 (s : State) (a : Nat) (b : Byte) : (s.setByte a b).can1 = s.can1 := rfl
@[simp] theorem setByte_lum (s : State) (a : Nat) (b : Byte) : (s.setByte a b).lum = s.lum := rfl
@[simp] theorem setByte_flash (s : State) (a : Nat) (b : Byte) : (s.setByte a b).flash = s.flash := rfl
@[simp] theorem setByte_xspi (s : State) (a : Nat) (b : Byte) : (s.setByte a b).xspi = s.xspi := rfl
@[simp] theorem setByte_sys (s : State) (a : Nat) (b : Byte) : (s.setByte a b).sys = s.sys := rfl
@[simp] theorem setByte_reg (s : State) (a : Nat) (b : Byte) (k : Nat) : (s.setByte a b).reg k = s.reg k := rfl
@[simp] theorem setByte_regN (s : State) (a : Nat) (b : Byte) (k : Nat) : (s.setByte a b).regN k = s.regN k := rfl
@[simp] theorem setByte_rf (s : State) (a : Nat) (b : Byte) (k : Fld) : (s.setByte a b).rf k = s.rf k := rfl
@[simp] theorem setByte_rb (s : State) (a : Nat) (b : Byte) (k : Fld) : (s.setByte a b).rb k = s.rb k := rfl

/-! setEcc -/

@[simp] theorem setEcc_pending (s : State) (a c : Nat) : (s.setEcc a c).pending = s.pending := rfl
@[simp] theorem setEcc_regs (s : State) (a c : Nat) : (s.setEcc a c).regs = s.regs := rfl
@[simp] theorem setEcc_mem (s : State) (a c : Nat) : (s.setEcc a c).mem = s.mem := rfl
@[simp] theorem setEcc_out (s : State) (a c : Nat) : (s.setEcc a c).out = s.out := rfl
@[simp] theorem setEcc_freeCtr (s : State) (a c : Nat) : (s.setEcc a c).freeCtr = s.freeCtr := rfl
@[simp] theorem setEcc_gtu (s : State) (a c : Nat) : (s.setEcc a c).gtu = s.gtu := rfl
@[simp] theorem setEcc_evr (s : State) (a c : Nat) : (s.setEcc a c).evr = s.evr := rfl
@[simp] theorem setEcc_acc (s : State) (a c : Nat) : (s.setEcc a c).acc = s.acc := rfl
@[simp] theorem setEcc_rfc (s : State) (a c : Nat) : (s.setEcc a c).rfc = s.rfc := rfl
@[simp] theorem setEcc_mdm (s : State) (a c : Nat) : (s.setEcc a c).mdm = s.mdm := rfl
@[simp] theorem setEcc_mpdus (s : State) (a c : Nat) : (s.setEcc a c).mpdus = s.mpdus := rfl
@[simp] theorem setEcc_rxmpdus (s : State) (a c : Nat) : (s.setEcc a c).rxmpdus = s.rxmpdus := rfl
@[simp] theorem setEcc_mpduNum (s : State) (a c : Nat) : (s.setEcc a c).mpduNum = s.mpduNum := rfl
@[simp] theorem setEcc_wlan (s : State) (a c : Nat) : (s.setEcc a c).wlan = s.wlan := rfl
@[simp] theorem setEcc_pkt (s : State) (a c : Nat) : (s.setEcc a c).pkt = s.pkt := rfl
@[simp] theorem setEcc_stp (s : State) (a c : Nat) : (s.setEcc a c).stp = s.stp := rfl
@[simp] theorem setEcc_fld (s : State) (a c : Nat) : (s.setEcc a c).fld = s.fld := rfl
@[simp] theorem setEcc_ppe (s : State) (a c : Nat) : (s.setEcc a c).ppe = s.ppe := rfl
@[simp] theorem setEcc_eth (s : State) (a c : Nat) : (s.setEcc a c).eth = s.eth := rfl
@[simp] theorem setEcc_dma (s : State) (a c : Nat) : (s.setEcc a c).dma = s.dma := rfl
@[simp] theorem setEcc_cry (s : State) (a c : Nat) : (s.setEcc a c).cry = s.cry := rfl
@[simp] theorem setEcc_pke (s : State) (a c : Nat) : (s.setEcc a c).pke = s.pke := rfl
@[simp] theorem setEcc_drc (s : State) (a c : Nat) : (s.setEcc a c).drc = s.drc := rfl
@[simp] theorem setEcc_ode (s : State) (a c : Nat) : (s.setEcc a c).ode = s.ode := rfl
@[simp] theorem setEcc_can0 (s : State) (a c : Nat) : (s.setEcc a c).can0 = s.can0 := rfl
@[simp] theorem setEcc_can1 (s : State) (a c : Nat) : (s.setEcc a c).can1 = s.can1 := rfl
@[simp] theorem setEcc_lum (s : State) (a c : Nat) : (s.setEcc a c).lum = s.lum := rfl
@[simp] theorem setEcc_flash (s : State) (a c : Nat) : (s.setEcc a c).flash = s.flash := rfl
@[simp] theorem setEcc_xspi (s : State) (a c : Nat) : (s.setEcc a c).xspi = s.xspi := rfl
@[simp] theorem setEcc_sys (s : State) (a c : Nat) : (s.setEcc a c).sys = s.sys := rfl
@[simp] theorem setEcc_reg (s : State) (a c : Nat) (k : Nat) : (s.setEcc a c).reg k = s.reg k := rfl
@[simp] theorem setEcc_regN (s : State) (a c : Nat) (k : Nat) : (s.setEcc a c).regN k = s.regN k := rfl
@[simp] theorem setEcc_rf (s : State) (a c : Nat) (k : Fld) : (s.setEcc a c).rf k = s.rf k := rfl
@[simp] theorem setEcc_rb (s : State) (a c : Nat) (k : Fld) : (s.setEcc a c).rb k = s.rb k := rfl
@[simp] theorem setEcc_byte (s : State) (a c : Nat) (k : Nat) : (s.setEcc a c).byte k = s.byte k := rfl

/-! used -/

@[simp] theorem used_pending (s : State) : (s.used).pending = s.pending := rfl
@[simp] theorem used_regs (s : State) : (s.used).regs = s.regs := rfl
@[simp] theorem used_mem (s : State) : (s.used).mem = s.mem := rfl
@[simp] theorem used_out (s : State) : (s.used).out = s.out := rfl
@[simp] theorem used_gtu (s : State) : (s.used).gtu = s.gtu := rfl
@[simp] theorem used_evr (s : State) : (s.used).evr = s.evr := rfl
@[simp] theorem used_acc (s : State) : (s.used).acc = s.acc := rfl
@[simp] theorem used_rfc (s : State) : (s.used).rfc = s.rfc := rfl
@[simp] theorem used_mdm (s : State) : (s.used).mdm = s.mdm := rfl
@[simp] theorem used_mpdus (s : State) : (s.used).mpdus = s.mpdus := rfl
@[simp] theorem used_rxmpdus (s : State) : (s.used).rxmpdus = s.rxmpdus := rfl
@[simp] theorem used_mpduNum (s : State) : (s.used).mpduNum = s.mpduNum := rfl
@[simp] theorem used_wlan (s : State) : (s.used).wlan = s.wlan := rfl
@[simp] theorem used_pkt (s : State) : (s.used).pkt = s.pkt := rfl
@[simp] theorem used_stp (s : State) : (s.used).stp = s.stp := rfl
@[simp] theorem used_fld (s : State) : (s.used).fld = s.fld := rfl
@[simp] theorem used_ppe (s : State) : (s.used).ppe = s.ppe := rfl
@[simp] theorem used_eth (s : State) : (s.used).eth = s.eth := rfl
@[simp] theorem used_dma (s : State) : (s.used).dma = s.dma := rfl
@[simp] theorem used_cry (s : State) : (s.used).cry = s.cry := rfl
@[simp] theorem used_pke (s : State) : (s.used).pke = s.pke := rfl
@[simp] theorem used_ecc (s : State) : (s.used).ecc = s.ecc := rfl
@[simp] theorem used_drc (s : State) : (s.used).drc = s.drc := rfl
@[simp] theorem used_ode (s : State) : (s.used).ode = s.ode := rfl
@[simp] theorem used_can0 (s : State) : (s.used).can0 = s.can0 := rfl
@[simp] theorem used_can1 (s : State) : (s.used).can1 = s.can1 := rfl
@[simp] theorem used_lum (s : State) : (s.used).lum = s.lum := rfl
@[simp] theorem used_flash (s : State) : (s.used).flash = s.flash := rfl
@[simp] theorem used_xspi (s : State) : (s.used).xspi = s.xspi := rfl
@[simp] theorem used_sys (s : State) : (s.used).sys = s.sys := rfl
@[simp] theorem used_freeCtr (s : State) : s.used.freeCtr = s.freeCtr + 1 := rfl
@[simp] theorem used_reg (s : State) (k : Nat) : (s.used).reg k = s.reg k := rfl
@[simp] theorem used_regN (s : State) (k : Nat) : (s.used).regN k = s.regN k := rfl
@[simp] theorem used_rf (s : State) (k : Fld) : (s.used).rf k = s.rf k := rfl
@[simp] theorem used_rb (s : State) (k : Fld) : (s.used).rb k = s.rb k := rfl
@[simp] theorem used_byte (s : State) (k : Nat) : (s.used).byte k = s.byte k := rfl

/-! emit -/

@[simp] theorem emit_pending (s : State) (o : Out) : (s.emit o).pending = s.pending := rfl
@[simp] theorem emit_regs (s : State) (o : Out) : (s.emit o).regs = s.regs := rfl
@[simp] theorem emit_mem (s : State) (o : Out) : (s.emit o).mem = s.mem := rfl
@[simp] theorem emit_freeCtr (s : State) (o : Out) : (s.emit o).freeCtr = s.freeCtr := rfl
@[simp] theorem emit_gtu (s : State) (o : Out) : (s.emit o).gtu = s.gtu := rfl
@[simp] theorem emit_evr (s : State) (o : Out) : (s.emit o).evr = s.evr := rfl
@[simp] theorem emit_acc (s : State) (o : Out) : (s.emit o).acc = s.acc := rfl
@[simp] theorem emit_rfc (s : State) (o : Out) : (s.emit o).rfc = s.rfc := rfl
@[simp] theorem emit_mdm (s : State) (o : Out) : (s.emit o).mdm = s.mdm := rfl
@[simp] theorem emit_mpdus (s : State) (o : Out) : (s.emit o).mpdus = s.mpdus := rfl
@[simp] theorem emit_rxmpdus (s : State) (o : Out) : (s.emit o).rxmpdus = s.rxmpdus := rfl
@[simp] theorem emit_mpduNum (s : State) (o : Out) : (s.emit o).mpduNum = s.mpduNum := rfl
@[simp] theorem emit_wlan (s : State) (o : Out) : (s.emit o).wlan = s.wlan := rfl
@[simp] theorem emit_pkt (s : State) (o : Out) : (s.emit o).pkt = s.pkt := rfl
@[simp] theorem emit_stp (s : State) (o : Out) : (s.emit o).stp = s.stp := rfl
@[simp] theorem emit_fld (s : State) (o : Out) : (s.emit o).fld = s.fld := rfl
@[simp] theorem emit_ppe (s : State) (o : Out) : (s.emit o).ppe = s.ppe := rfl
@[simp] theorem emit_eth (s : State) (o : Out) : (s.emit o).eth = s.eth := rfl
@[simp] theorem emit_dma (s : State) (o : Out) : (s.emit o).dma = s.dma := rfl
@[simp] theorem emit_cry (s : State) (o : Out) : (s.emit o).cry = s.cry := rfl
@[simp] theorem emit_pke (s : State) (o : Out) : (s.emit o).pke = s.pke := rfl
@[simp] theorem emit_ecc (s : State) (o : Out) : (s.emit o).ecc = s.ecc := rfl
@[simp] theorem emit_drc (s : State) (o : Out) : (s.emit o).drc = s.drc := rfl
@[simp] theorem emit_ode (s : State) (o : Out) : (s.emit o).ode = s.ode := rfl
@[simp] theorem emit_can0 (s : State) (o : Out) : (s.emit o).can0 = s.can0 := rfl
@[simp] theorem emit_can1 (s : State) (o : Out) : (s.emit o).can1 = s.can1 := rfl
@[simp] theorem emit_lum (s : State) (o : Out) : (s.emit o).lum = s.lum := rfl
@[simp] theorem emit_flash (s : State) (o : Out) : (s.emit o).flash = s.flash := rfl
@[simp] theorem emit_xspi (s : State) (o : Out) : (s.emit o).xspi = s.xspi := rfl
@[simp] theorem emit_sys (s : State) (o : Out) : (s.emit o).sys = s.sys := rfl
@[simp] theorem emit_out (s : State) (o : Out) : (s.emit o).out = o :: s.out := rfl
@[simp] theorem emit_reg (s : State) (o : Out) (k : Nat) : (s.emit o).reg k = s.reg k := rfl
@[simp] theorem emit_regN (s : State) (o : Out) (k : Nat) : (s.emit o).regN k = s.regN k := rfl
@[simp] theorem emit_rf (s : State) (o : Out) (k : Fld) : (s.emit o).rf k = s.rf k := rfl
@[simp] theorem emit_rb (s : State) (o : Out) (k : Fld) : (s.emit o).rb k = s.rb k := rfl
@[simp] theorem emit_byte (s : State) (o : Out) (k : Nat) : (s.emit o).byte k = s.byte k := rfl

/-! withPending -/

@[simp] theorem withPending_regs (s : State) (q : List Instr) : (s.withPending q).regs = s.regs := rfl
@[simp] theorem withPending_mem (s : State) (q : List Instr) : (s.withPending q).mem = s.mem := rfl
@[simp] theorem withPending_out (s : State) (q : List Instr) : (s.withPending q).out = s.out := rfl
@[simp] theorem withPending_freeCtr (s : State) (q : List Instr) : (s.withPending q).freeCtr = s.freeCtr := rfl
@[simp] theorem withPending_gtu (s : State) (q : List Instr) : (s.withPending q).gtu = s.gtu := rfl
@[simp] theorem withPending_evr (s : State) (q : List Instr) : (s.withPending q).evr = s.evr := rfl
@[simp] theorem withPending_acc (s : State) (q : List Instr) : (s.withPending q).acc = s.acc := rfl
@[simp] theorem withPending_rfc (s : State) (q : List Instr) : (s.withPending q).rfc = s.rfc := rfl
@[simp] theorem withPending_mdm (s : State) (q : List Instr) : (s.withPending q).mdm = s.mdm := rfl
@[simp] theorem withPending_mpdus (s : State) (q : List Instr) : (s.withPending q).mpdus = s.mpdus := rfl
@[simp] theorem withPending_rxmpdus (s : State) (q : List Instr) : (s.withPending q).rxmpdus = s.rxmpdus := rfl
@[simp] theorem withPending_mpduNum (s : State) (q : List Instr) : (s.withPending q).mpduNum = s.mpduNum := rfl
@[simp] theorem withPending_wlan (s : State) (q : List Instr) : (s.withPending q).wlan = s.wlan := rfl
@[simp] theorem withPending_pkt (s : State) (q : List Instr) : (s.withPending q).pkt = s.pkt := rfl
@[simp] theorem withPending_stp (s : State) (q : List Instr) : (s.withPending q).stp = s.stp := rfl
@[simp] theorem withPending_fld (s : State) (q : List Instr) : (s.withPending q).fld = s.fld := rfl
@[simp] theorem withPending_ppe (s : State) (q : List Instr) : (s.withPending q).ppe = s.ppe := rfl
@[simp] theorem withPending_eth (s : State) (q : List Instr) : (s.withPending q).eth = s.eth := rfl
@[simp] theorem withPending_dma (s : State) (q : List Instr) : (s.withPending q).dma = s.dma := rfl
@[simp] theorem withPending_cry (s : State) (q : List Instr) : (s.withPending q).cry = s.cry := rfl
@[simp] theorem withPending_pke (s : State) (q : List Instr) : (s.withPending q).pke = s.pke := rfl
@[simp] theorem withPending_ecc (s : State) (q : List Instr) : (s.withPending q).ecc = s.ecc := rfl
@[simp] theorem withPending_drc (s : State) (q : List Instr) : (s.withPending q).drc = s.drc := rfl
@[simp] theorem withPending_ode (s : State) (q : List Instr) : (s.withPending q).ode = s.ode := rfl
@[simp] theorem withPending_can0 (s : State) (q : List Instr) : (s.withPending q).can0 = s.can0 := rfl
@[simp] theorem withPending_can1 (s : State) (q : List Instr) : (s.withPending q).can1 = s.can1 := rfl
@[simp] theorem withPending_lum (s : State) (q : List Instr) : (s.withPending q).lum = s.lum := rfl
@[simp] theorem withPending_flash (s : State) (q : List Instr) : (s.withPending q).flash = s.flash := rfl
@[simp] theorem withPending_xspi (s : State) (q : List Instr) : (s.withPending q).xspi = s.xspi := rfl
@[simp] theorem withPending_sys (s : State) (q : List Instr) : (s.withPending q).sys = s.sys := rfl
@[simp] theorem withPending_pending (s : State) (q : List Instr) : (s.withPending q).pending = q := rfl
@[simp] theorem withPending_reg (s : State) (q : List Instr) (k : Nat) : (s.withPending q).reg k = s.reg k := rfl
@[simp] theorem withPending_regN (s : State) (q : List Instr) (k : Nat) : (s.withPending q).regN k = s.regN k := rfl
@[simp] theorem withPending_rf (s : State) (q : List Instr) (k : Fld) : (s.withPending q).rf k = s.rf k := rfl
@[simp] theorem withPending_rb (s : State) (q : List Instr) (k : Fld) : (s.withPending q).rb k = s.rb k := rfl
@[simp] theorem withPending_byte (s : State) (q : List Instr) (k : Nat) : (s.withPending q).byte k = s.byte k := rfl

/-! setFlash -/

@[simp] theorem setFlash_pending (s : State) (a : Nat) (b : Byte) : (s.setFlash a b).pending = s.pending := rfl
@[simp] theorem setFlash_regs (s : State) (a : Nat) (b : Byte) : (s.setFlash a b).regs = s.regs := rfl
@[simp] theorem setFlash_mem (s : State) (a : Nat) (b : Byte) : (s.setFlash a b).mem = s.mem := rfl
@[simp] theorem setFlash_out (s : State) (a : Nat) (b : Byte) : (s.setFlash a b).out = s.out := rfl
@[simp] theorem setFlash_freeCtr (s : State) (a : Nat) (b : Byte) : (s.setFlash a b).freeCtr = s.freeCtr := rfl
@[simp] theorem setFlash_gtu (s : State) (a : Nat) (b : Byte) : (s.setFlash a b).gtu = s.gtu := rfl
@[simp] theorem setFlash_evr (s : State) (a : Nat) (b : Byte) : (s.setFlash a b).evr = s.evr := rfl
@[simp] theorem setFlash_acc (s : State) (a : Nat) (b : Byte) : (s.setFlash a b).acc = s.acc := rfl
@[simp] theorem setFlash_rfc (s : State) (a : Nat) (b : Byte) : (s.setFlash a b).rfc = s.rfc := rfl
@[simp] theorem setFlash_mdm (s : State) (a : Nat) (b : Byte) : (s.setFlash a b).mdm = s.mdm := rfl
@[simp] theorem setFlash_mpdus (s : State) (a : Nat) (b : Byte) : (s.setFlash a b).mpdus = s.mpdus := rfl
@[simp] theorem setFlash_rxmpdus (s : State) (a : Nat) (b : Byte) : (s.setFlash a b).rxmpdus = s.rxmpdus := rfl
@[simp] theorem setFlash_mpduNum (s : State) (a : Nat) (b : Byte) : (s.setFlash a b).mpduNum = s.mpduNum := rfl
@[simp] theorem setFlash_wlan (s : State) (a : Nat) (b : Byte) : (s.setFlash a b).wlan = s.wlan := rfl
@[simp] theorem setFlash_pkt (s : State) (a : Nat) (b : Byte) : (s.setFlash a b).pkt = s.pkt := rfl
@[simp] theorem setFlash_stp (s : State) (a : Nat) (b : Byte) : (s.setFlash a b).stp = s.stp := rfl
@[simp] theorem setFlash_fld (s : State) (a : Nat) (b : Byte) : (s.setFlash a b).fld = s.fld := rfl
@[simp] theorem setFlash_ppe (s : State) (a : Nat) (b : Byte) : (s.setFlash a b).ppe = s.ppe := rfl
@[simp] theorem setFlash_eth (s : State) (a : Nat) (b : Byte) : (s.setFlash a b).eth = s.eth := rfl
@[simp] theorem setFlash_dma (s : State) (a : Nat) (b : Byte) : (s.setFlash a b).dma = s.dma := rfl
@[simp] theorem setFlash_cry (s : State) (a : Nat) (b : Byte) : (s.setFlash a b).cry = s.cry := rfl
@[simp] theorem setFlash_pke (s : State) (a : Nat) (b : Byte) : (s.setFlash a b).pke = s.pke := rfl
@[simp] theorem setFlash_ecc (s : State) (a : Nat) (b : Byte) : (s.setFlash a b).ecc = s.ecc := rfl
@[simp] theorem setFlash_drc (s : State) (a : Nat) (b : Byte) : (s.setFlash a b).drc = s.drc := rfl
@[simp] theorem setFlash_ode (s : State) (a : Nat) (b : Byte) : (s.setFlash a b).ode = s.ode := rfl
@[simp] theorem setFlash_can0 (s : State) (a : Nat) (b : Byte) : (s.setFlash a b).can0 = s.can0 := rfl
@[simp] theorem setFlash_can1 (s : State) (a : Nat) (b : Byte) : (s.setFlash a b).can1 = s.can1 := rfl
@[simp] theorem setFlash_lum (s : State) (a : Nat) (b : Byte) : (s.setFlash a b).lum = s.lum := rfl
@[simp] theorem setFlash_xspi (s : State) (a : Nat) (b : Byte) : (s.setFlash a b).xspi = s.xspi := rfl
@[simp] theorem setFlash_sys (s : State) (a : Nat) (b : Byte) : (s.setFlash a b).sys = s.sys := rfl
@[simp] theorem setFlash_reg (s : State) (a : Nat) (b : Byte) (k : Nat) : (s.setFlash a b).reg k = s.reg k := rfl
@[simp] theorem setFlash_regN (s : State) (a : Nat) (b : Byte) (k : Nat) : (s.setFlash a b).regN k = s.regN k := rfl
@[simp] theorem setFlash_rf (s : State) (a : Nat) (b : Byte) (k : Fld) : (s.setFlash a b).rf k = s.rf k := rfl
@[simp] theorem setFlash_rb (s : State) (a : Nat) (b : Byte) (k : Fld) : (s.setFlash a b).rb k = s.rb k := rfl
@[simp] theorem setFlash_byte (s : State) (a : Nat) (b : Byte) (k : Nat) : (s.setFlash a b).byte k = s.byte k := rfl

/-! setRfc -/

@[simp] theorem setRfc_pending (s : State) (r : Radio) (f : RfcSt → RfcSt) : (s.setRfc r f).pending = s.pending := rfl
@[simp] theorem setRfc_regs (s : State) (r : Radio) (f : RfcSt → RfcSt) : (s.setRfc r f).regs = s.regs := rfl
@[simp] theorem setRfc_mem (s : State) (r : Radio) (f : RfcSt → RfcSt) : (s.setRfc r f).mem = s.mem := rfl
@[simp] theorem setRfc_out (s : State) (r : Radio) (f : RfcSt → RfcSt) : (s.setRfc r f).out = s.out := rfl
@[simp] theorem setRfc_freeCtr (s : State) (r : Radio) (f : RfcSt → RfcSt) : (s.setRfc r f).freeCtr = s.freeCtr := rfl
@[simp] theorem setRfc_gtu (s : State) (r : Radio) (f : RfcSt → RfcSt) : (s.setRfc r f).gtu = s.gtu := rfl
@[simp] theorem setRfc_evr (s : State) (r : Radio) (f : RfcSt → RfcSt) : (s.setRfc r f).evr = s.evr := rfl
@[simp] theorem setRfc_acc (s : State) (r : Radio) (f : RfcSt → RfcSt) : (s.setRfc r f).acc = s.acc := rfl
@[simp] theorem setRfc_mdm (s : State) (r : Radio) (f : RfcSt → RfcSt) : (s.setRfc r f).mdm = s.mdm := rfl
@[simp] theorem setRfc_mpdus (s : State) (r : Radio) (f : RfcSt → RfcSt) : (s.setRfc r f).mpdus = s.mpdus := rfl
@[simp] theorem setRfc_rxmpdus (s : State) (r : Radio) (f : RfcSt → RfcSt) : (s.setRfc r f).rxmpdus = s.rxmpdus := rfl
@[simp] theorem setRfc_mpduNum (s : State) (r : Radio) (f : RfcSt → RfcSt) : (s.setRfc r f).mpduNum = s.mpduNum := rfl
@[simp] theorem setRfc_wlan (s : State) (r : Radio) (f : RfcSt → RfcSt) : (s.setRfc r f).wlan = s.wlan := rfl
@[simp] theorem setRfc_pkt (s : State) (r : Radio) (f : RfcSt → RfcSt) : (s.setRfc r f).pkt = s.pkt := rfl
@[simp] theorem setRfc_stp (s : State) (r : Radio) (f : RfcSt → RfcSt) : (s.setRfc r f).stp = s.stp := rfl
@[simp] theorem setRfc_fld (s : State) (r : Radio) (f : RfcSt → RfcSt) : (s.setRfc r f).fld = s.fld := rfl
@[simp] theorem setRfc_ppe (s : State) (r : Radio) (f : RfcSt → RfcSt) : (s.setRfc r f).ppe = s.ppe := rfl
@[simp] theorem setRfc_eth (s : State) (r : Radio) (f : RfcSt → RfcSt) : (s.setRfc r f).eth = s.eth := rfl
@[simp] theorem setRfc_dma (s : State) (r : Radio) (f : RfcSt → RfcSt) : (s.setRfc r f).dma = s.dma := rfl
@[simp] theorem setRfc_cry (s : State) (r : Radio) (f : RfcSt → RfcSt) : (s.setRfc r f).cry = s.cry := rfl
@[simp] theorem setRfc_pke (s : State) (r : Radio) (f : RfcSt → RfcSt) : (s.setRfc r f).pke = s.pke := rfl
@[simp] theorem setRfc_ecc (s : State) (r : Radio) (f : RfcSt → RfcSt) : (s.setRfc r f).ecc = s.ecc := rfl
@[simp] theorem setRfc_drc (s : State) (r : Radio) (f : RfcSt → RfcSt) : (s.setRfc r f).drc = s.drc := rfl
@[simp] theorem setRfc_ode (s : State) (r : Radio) (f : RfcSt → RfcSt) : (s.setRfc r f).ode = s.ode := rfl
@[simp] theorem setRfc_can0 (s : State) (r : Radio) (f : RfcSt → RfcSt) : (s.setRfc r f).can0 = s.can0 := rfl
@[simp] theorem setRfc_can1 (s : State) (r : Radio) (f : RfcSt → RfcSt) : (s.setRfc r f).can1 = s.can1 := rfl
@[simp] theorem setRfc_lum (s : State) (r : Radio) (f : RfcSt → RfcSt) : (s.setRfc r f).lum = s.lum := rfl
@[simp] theorem setRfc_flash (s : State) (r : Radio) (f : RfcSt → RfcSt) : (s.setRfc r f).flash = s.flash := rfl
@[simp] theorem setRfc_xspi (s : State) (r : Radio) (f : RfcSt → RfcSt) : (s.setRfc r f).xspi = s.xspi := rfl
@[simp] theorem setRfc_sys (s : State) (r : Radio) (f : RfcSt → RfcSt) : (s.setRfc r f).sys = s.sys := rfl
@[simp] theorem setRfc_reg (s : State) (r : Radio) (f : RfcSt → RfcSt) (k : Nat) : (s.setRfc r f).reg k = s.reg k := rfl
@[simp] theorem setRfc_regN (s : State) (r : Radio) (f : RfcSt → RfcSt) (k : Nat) : (s.setRfc r f).regN k = s.regN k := rfl
@[simp] theorem setRfc_rf (s : State) (r : Radio) (f : RfcSt → RfcSt) (k : Fld) : (s.setRfc r f).rf k = s.rf k := rfl
@[simp] theorem setRfc_rb (s : State) (r : Radio) (f : RfcSt → RfcSt) (k : Fld) : (s.setRfc r f).rb k = s.rb k := rfl
@[simp] theorem setRfc_byte (s : State) (r : Radio) (f : RfcSt → RfcSt) (k : Nat) : (s.setRfc r f).byte k = s.byte k := rfl

/-! setMdm -/

@[simp] theorem setMdm_pending (s : State) (r : Radio) (f : MdmSt → MdmSt) : (s.setMdm r f).pending = s.pending := rfl
@[simp] theorem setMdm_regs (s : State) (r : Radio) (f : MdmSt → MdmSt) : (s.setMdm r f).regs = s.regs := rfl
@[simp] theorem setMdm_mem (s : State) (r : Radio) (f : MdmSt → MdmSt) : (s.setMdm r f).mem = s.mem := rfl
@[simp] theorem setMdm_out (s : State) (r : Radio) (f : MdmSt → MdmSt) : (s.setMdm r f).out = s.out := rfl
@[simp] theorem setMdm_freeCtr (s : State) (r : Radio) (f : MdmSt → MdmSt) : (s.setMdm r f).freeCtr = s.freeCtr := rfl
@[simp] theorem setMdm_gtu (s : State) (r : Radio) (f : MdmSt → MdmSt) : (s.setMdm r f).gtu = s.gtu := rfl
@[simp] theorem setMdm_evr (s : State) (r : Radio) (f : MdmSt → MdmSt) : (s.setMdm r f).evr = s.evr := rfl
@[simp] theorem setMdm_acc (s : State) (r : Radio) (f : MdmSt → MdmSt) : (s.setMdm r f).acc = s.acc := rfl
@[simp] theorem setMdm_rfc (s : State) (r : Radio) (f : MdmSt → MdmSt) : (s.setMdm r f).rfc = s.rfc := rfl
@[simp] theorem setMdm_mpdus (s : State) (r : Radio) (f : MdmSt → MdmSt) : (s.setMdm r f).mpdus = s.mpdus := rfl
@[simp] theorem setMdm_rxmpdus (s : State) (r : Radio) (f : MdmSt → MdmSt) : (s.setMdm r f).rxmpdus = s.rxmpdus := rfl
@[simp] theorem setMdm_mpduNum (s : State) (r : Radio) (f : MdmSt → MdmSt) : (s.setMdm r f).mpduNum = s.mpduNum := rfl
@[simp] theorem setMdm_wlan (s : State) (r : Radio) (f : MdmSt → MdmSt) : (s.setMdm r f).wlan = s.wlan := rfl
@[simp] theorem setMdm_pkt (s : State) (r : Radio) (f : MdmSt → MdmSt) : (s.setMdm r f).pkt = s.pkt := rfl
@[simp] theorem setMdm_stp (s : State) (r : Radio) (f : MdmSt → MdmSt) : (s.setMdm r f).stp = s.stp := rfl
@[simp] theorem setMdm_fld (s : State) (r : Radio) (f : MdmSt → MdmSt) : (s.setMdm r f).fld = s.fld := rfl
@[simp] theorem setMdm_ppe (s : State) (r : Radio) (f : MdmSt → MdmSt) : (s.setMdm r f).ppe = s.ppe := rfl
@[simp] theorem setMdm_eth (s : State) (r : Radio) (f : MdmSt → MdmSt) : (s.setMdm r f).eth = s.eth := rfl
@[simp] theorem setMdm_dma (s : State) (r : Radio) (f : MdmSt → MdmSt) : (s.setMdm r f).dma = s.dma := rfl
@[simp] theorem setMdm_cry (s : State) (r : Radio) (f : MdmSt → MdmSt) : (s.setMdm r f).cry = s.cry := rfl
@[simp] theorem setMdm_pke (s : State) (r : Radio) (f : MdmSt → MdmSt) : (s.setMdm r f).pke = s.pke := rfl
@[simp] theorem setMdm_ecc (s : State) (r : Radio) (f : MdmSt → MdmSt) : (s.setMdm r f).ecc = s.ecc := rfl
@[simp] theorem setMdm_drc (s : State) (r : Radio) (f : MdmSt → MdmSt) : (s.setMdm r f).drc = s.drc := rfl
@[simp] theorem setMdm_ode (s : State) (r : Radio) (f : MdmSt → MdmSt) : (s.setMdm r f).ode = s.ode := rfl
@[simp] theorem setMdm_can0 (s : State) (r : Radio) (f : MdmSt → MdmSt) : (s.setMdm r f).can0 = s.can0 := rfl
@[simp] theorem setMdm_can1 (s : State) (r : Radio) (f : MdmSt → MdmSt) : (s.setMdm r f).can1 = s.can1 := rfl
@[simp] theorem setMdm_lum (s : State) (r : Radio) (f : MdmSt → MdmSt) : (s.setMdm r f).lum = s.lum := rfl
@[simp] theorem setMdm_flash (s : State) (r : Radio) (f : MdmSt → MdmSt) : (s.setMdm r f).flash = s.flash := rfl
@[simp] theorem setMdm_xspi (s : State) (r : Radio) (f : MdmSt → MdmSt) : (s.setMdm r f).xspi = s.xspi := rfl
@[simp] theorem setMdm_sys (s : State) (r : Radio) (f : MdmSt → MdmSt) : (s.setMdm r f).sys = s.sys := rfl
@[simp] theorem setMdm_reg (s : State) (r : Radio) (f : MdmSt → MdmSt) (k : Nat) : (s.setMdm r f).reg k = s.reg k := rfl
@[simp] theorem setMdm_regN (s : State) (r : Radio) (f : MdmSt → MdmSt) (k : Nat) : (s.setMdm r f).regN k = s.regN k := rfl
@[simp] theorem setMdm_rf (s : State) (r : Radio) (f : MdmSt → MdmSt) (k : Fld) : (s.setMdm r f).rf k = s.rf k := rfl
@[simp] theorem setMdm_rb (s : State) (r : Radio) (f : MdmSt → MdmSt) (k : Fld) : (s.setMdm r f).rb k = s.rb k := rfl
@[simp] theorem setMdm_byte (s : State) (r : Radio) (f : MdmSt → MdmSt) (k : Nat) : (s.setMdm r f).byte k = s.byte k := rfl

/-! setCry -/

@[simp] theorem setCry_pending (s : State) (f : CrySt → CrySt) : (s.setCry f).pending = s.pending := rfl
@[simp] theorem setCry_regs (s : State) (f : CrySt → CrySt) : (s.setCry f).regs = s.regs := rfl
@[simp] theorem setCry_mem (s : State) (f : CrySt → CrySt) : (s.setCry f).mem = s.mem := rfl
@[simp] theorem setCry_out (s : State) (f : CrySt → CrySt) : (s.setCry f).out = s.out := rfl
@[simp] theorem setCry_freeCtr (s : State) (f : CrySt → CrySt) : (s.setCry f).freeCtr = s.freeCtr := rfl
@[simp] theorem setCry_gtu (s : State) (f : CrySt → CrySt) : (s.setCry f).gtu = s.gtu := rfl
@[simp] theorem setCry_evr (s : State) (f : CrySt → CrySt) : (s.setCry f).evr = s.evr := rfl
@[simp] theorem setCry_acc (s : State) (f : CrySt → CrySt) : (s.setCry f).acc = s.acc := rfl
@[simp] theorem setCry_rfc (s : State) (f : CrySt → CrySt) : (s.setCry f).rfc = s.rfc := rfl
@[simp] theorem setCry_mdm (s : State) (f : CrySt → CrySt) : (s.setCry f).mdm = s.mdm := rfl
@[simp] theorem setCry_mpdus (s : State) (f : CrySt → CrySt) : (s.setCry f).mpdus = s.mpdus := rfl
@[simp] theorem setCry_rxmpdus (s : State) (f : CrySt → CrySt) : (s.setCry f).rxmpdus = s.rxmpdus := rfl
@[simp] theorem setCry_mpduNum (s : State) (f : CrySt → CrySt) : (s.setCry f).mpduNum = s.mpduNum := rfl
@[simp] theorem setCry_wlan (s : State) (f : CrySt → CrySt) : (s.setCry f).wlan = s.wlan := rfl
@[simp] theorem setCry_pkt (s : State) (f : CrySt → CrySt) : (s.setCry f).pkt = s.pkt := rfl
@[simp] theorem setCry_stp (s : State) (f : CrySt → CrySt) : (s.setCry f).stp = s.stp := rfl
@[simp] theorem setCry_fld (s : State) (f : CrySt → CrySt) : (s.setCry f).fld = s.fld := rfl
@[simp] theorem setCry_ppe (s : State) (f : CrySt → CrySt) : (s.setCry f).ppe = s.ppe := rfl
@[simp] theorem setCry_eth (s : State) (f : CrySt → CrySt) : (s.setCry f).eth = s.eth := rfl
@[simp] theorem setCry_dma (s : State) (f : CrySt → CrySt) : (s.setCry f).dma = s.dma := rfl
@[simp] theorem setCry_pke (s : State) (f : CrySt → CrySt) : (s.setCry f).pke = s.pke := rfl
@[simp] theorem setCry_ecc (s : State) (f : CrySt → CrySt) : (s.setCry f).ecc = s.ecc := rfl
@[simp] theorem setCry_drc (s : State) (f : CrySt → CrySt) : (s.setCry f).drc = s.drc := rfl
@[simp] theorem setCry_ode (s : State) (f : CrySt → CrySt) : (s.setCry f).ode = s.ode := rfl
@[simp] theorem setCry_can0 (s : State) (f : CrySt → CrySt) : (s.setCry f).can0 = s.can0 := rfl
@[simp] theorem setCry_can1 (s : State) (f : CrySt → CrySt) : (s.setCry f).can1 = s.can1 := rfl
@[simp] theorem setCry_lum (s : State) (f : CrySt → CrySt) : (s.setCry f).lum = s.lum := rfl
@[simp] theorem setCry_flash (s : State) (f : CrySt → CrySt) : (s.setCry f).flash = s.flash := rfl
@[simp] theorem setCry_xspi (s : State) (f : CrySt → CrySt) : (s.setCry f).xspi = s.xspi := rfl
@[simp] theorem setCry_sys (s : State) (f : CrySt → CrySt) : (s.setCry f).sys = s.sys := rfl
@[simp] theorem setCry_cry (s : State) (f : CrySt → CrySt) : (s.setCry f).cry = f s.cry := rfl
@[simp] theorem setCry_reg (s : State) (f : CrySt → CrySt) (k : Nat) : (s.setCry f).reg k = s.reg k := rfl
@[simp] theorem setCry_regN (s : State) (f : CrySt → CrySt) (k : Nat) : (s.setCry f).regN k = s.regN k := rfl
@[simp] theorem setCry_rf (s : State) (f : CrySt → CrySt) (k : Fld) : (s.setCry f).rf k = s.rf k := rfl
@[simp] theorem setCry_rb (s : State) (f : CrySt → CrySt) (k : Fld) : (s.setCry f).rb k = s.rb k := rfl
@[simp] theorem setCry_byte (s : State) (f : CrySt → CrySt) (k : Nat) : (s.setCry f).byte k = s.byte k := rfl

/-! setPke -/

@[simp] theorem setPke_pending (s : State) (f : PkeSt → PkeSt) : (s.setPke f).pending = s.pending := rfl
@[simp] theorem setPke_regs (s : State) (f : PkeSt → PkeSt) : (s.setPke f).regs = s.regs := rfl
@[simp] theorem setPke_mem (s : State) (f : PkeSt → PkeSt) : (s.setPke f).mem = s.mem := rfl
@[simp] theorem setPke_out (s : State) (f : PkeSt → PkeSt) : (s.setPke f).out = s.out := rfl
@[simp] theorem setPke_freeCtr (s : State) (f : PkeSt → PkeSt) : (s.setPke f).freeCtr = s.freeCtr := rfl
@[simp] theorem setPke_gtu (s : State) (f : PkeSt → PkeSt) : (s.setPke f).gtu = s.gtu := rfl
@[simp] theorem setPke_evr (s : State) (f : PkeSt → PkeSt) : (s.setPke f).evr = s.evr := rfl
@[simp] theorem setPke_acc (s : State) (f : PkeSt → PkeSt) : (s.setPke f).acc = s.acc := rfl
@[simp] theorem setPke_rfc (s : State) (f : PkeSt → PkeSt) : (s.setPke f).rfc = s.rfc := rfl
@[simp] theorem setPke_mdm (s : State) (f : PkeSt → PkeSt) : (s.setPke f).mdm = s.mdm := rfl
@[simp] theorem setPke_mpdus (s : State) (f : PkeSt → PkeSt) : (s.setPke f).mpdus = s.mpdus := rfl
@[simp] theorem setPke_rxmpdus (s : State) (f : PkeSt → PkeSt) : (s.setPke f).rxmpdus = s.rxmpdus := rfl
@[simp] theorem setPke_mpduNum (s : State) (f : PkeSt → PkeSt) : (s.setPke f).mpduNum = s.mpduNum := rfl
@[simp] theorem setPke_wlan (s : State) (f : PkeSt → PkeSt) : (s.setPke f).wlan = s.wlan := rfl
@[simp] theorem setPke_pkt (s : State) (f : PkeSt → PkeSt) : (s.setPke f).pkt = s.pkt := rfl
@[simp] theorem setPke_stp (s : State) (f : PkeSt → PkeSt) : (s.setPke f).stp = s.stp := rfl
@[simp] theorem setPke_fld (s : State) (f : PkeSt → PkeSt) : (s.setPke f).fld = s.fld := rfl
@[simp] theorem setPke_ppe (s : State) (f : PkeSt → PkeSt) : (s.setPke f).ppe = s.ppe := rfl
@[simp] theorem setPke_eth (s : State) (f : PkeSt → PkeSt) : (s.setPke f).eth = s.eth := rfl
@[simp] theorem setPke_dma (s : State) (f : PkeSt → PkeSt) : (s.setPke f).dma = s.dma := rfl
@[simp] theorem setPke_cry (s : State) (f : PkeSt → PkeSt) : (s.setPke f).cry = s.cry := rfl
@[simp] theorem setPke_ecc (s : State) (f : PkeSt → PkeSt) : (s.setPke f).ecc = s.ecc := rfl
@[simp] theorem setPke_drc (s : State) (f : PkeSt → PkeSt) : (s.setPke f).drc = s.drc := rfl
@[simp] theorem setPke_ode (s : State) (f : PkeSt → PkeSt) : (s.setPke f).ode = s.ode := rfl
@[simp] theorem setPke_can0 (s : State) (f : PkeSt → PkeSt) : (s.setPke f).can0 = s.can0 := rfl
@[simp] theorem setPke_can1 (s : State) (f : PkeSt → PkeSt) : (s.setPke f).can1 = s.can1 := rfl
@[simp] theorem setPke_lum (s : State) (f : PkeSt → PkeSt) : (s.setPke f).lum = s.lum := rfl
@[simp] theorem setPke_flash (s : State) (f : PkeSt → PkeSt) : (s.setPke f).flash = s.flash := rfl
@[simp] theorem setPke_xspi (s : State) (f : PkeSt → PkeSt) : (s.setPke f).xspi = s.xspi := rfl
@[simp] theorem setPke_sys (s : State) (f : PkeSt → PkeSt) : (s.setPke f).sys = s.sys := rfl
@[simp] theorem setPke_pke (s : State) (f : PkeSt → PkeSt) : (s.setPke f).pke = f s.pke := rfl
@[simp] theorem setPke_reg (s : State) (f : PkeSt → PkeSt) (k : Nat) : (s.setPke f).reg k = s.reg k := rfl
@[simp] theorem setPke_regN (s : State) (f : PkeSt → PkeSt) (k : Nat) : (s.setPke f).regN k = s.regN k := rfl
@[simp] theorem setPke_rf (s : State) (f : PkeSt → PkeSt) (k : Fld) : (s.setPke f).rf k = s.rf k := rfl
@[simp] theorem setPke_rb (s : State) (f : PkeSt → PkeSt) (k : Fld) : (s.setPke f).rb k = s.rb k := rfl
@[simp] theorem setPke_byte (s : State) (f : PkeSt → PkeSt) (k : Nat) : (s.setPke f).byte k = s.byte k := rfl

/-! setEth -/

@[simp] theorem setEth_pending (s : State) (f : EthSt → EthSt) : (s.setEth f).pending = s.pending := rfl
@[simp] theorem setEth_regs (s : State) (f : EthSt → EthSt) : (s.setEth f).regs = s.regs := rfl
@[simp] theorem setEth_mem (s : State) (f : EthSt → EthSt) : (s.setEth f).mem = s.mem := rfl
@[simp] theorem setEth_out (s : State) (f : EthSt → EthSt) : (s.setEth f).out = s.out := rfl
@[simp] theorem setEth_freeCtr (s : State) (f : EthSt → EthSt) : (s.setEth f).freeCtr = s.freeCtr := rfl
@[simp] theorem setEth_gtu (s : State) (f : EthSt → EthSt) : (s.setEth f).gtu = s.gtu := rfl
@[simp] theorem setEth_evr (s : State) (f : EthSt → EthSt) : (s.setEth f).evr = s.evr := rfl
@[simp] theorem setEth_acc (s : State) (f : EthSt → EthSt) : (s.setEth f).acc = s.acc := rfl
@[simp] theorem setEth_rfc (s : State) (f : EthSt → EthSt) : (s.setEth f).rfc = s.rfc := rfl
@[simp] theorem setEth_mdm (s : State) (f : EthSt → EthSt) : (s.setEth f).mdm = s.mdm := rfl
@[simp] theorem setEth_mpdus (s : State) (f : EthSt → EthSt) : (s.setEth f).mpdus = s.mpdus := rfl
@[simp] theorem setEth_rxmpdus (s : State) (f : EthSt → EthSt) : (s.setEth f).rxmpdus = s.rxmpdus := rfl
@[simp] theorem setEth_mpduNum (s : State) (f : EthSt → EthSt) : (s.setEth f).mpduNum = s.mpduNum := rfl
@[simp] theorem setEth_wlan (s : State) (f : EthSt → EthSt) : (s.setEth f).wlan = s.wlan := rfl
@[simp] theorem setEth_pkt (s : State) (f : EthSt → EthSt) : (s.setEth f).pkt = s.pkt := rfl
@[simp] theorem setEth_stp (s : State) (f : EthSt → EthSt) : (s.setEth f).stp = s.stp := rfl
@[simp] theorem setEth_fld (s : State) (f : EthSt → EthSt) : (s.setEth f).fld = s.fld := rfl
@[simp] theorem setEth_ppe (s : State) (f : EthSt → EthSt) : (s.setEth f).ppe = s.ppe := rfl
@[simp] theorem setEth_dma (s : State) (f : EthSt → EthSt) : (s.setEth f).dma = s.dma := rfl
@[simp] theorem setEth_cry (s : State) (f : EthSt → EthSt) : (s.setEth f).cry = s.cry := rfl
@[simp] theorem setEth_pke (s : State) (f : EthSt → EthSt) : (s.setEth f).pke = s.pke := rfl
@[simp] theorem setEth_ecc (s : State) (f : EthSt → EthSt) : (s.setEth f).ecc = s.ecc := rfl
@[simp] theorem setEth_drc (s : State) (f : EthSt → EthSt) : (s.setEth f).drc = s.drc := rfl
@[simp] theorem setEth_ode (s : State) (f : EthSt → EthSt) : (s.setEth f).ode = s.ode := rfl
@[simp] theorem setEth_can0 (s : State) (f : EthSt → EthSt) : (s.setEth f).can0 = s.can0 := rfl
@[simp] theorem setEth_can1 (s : State) (f : EthSt → EthSt) : (s.setEth f).can1 = s.can1 := rfl
@[simp] theorem setEth_lum (s : State) (f : EthSt → EthSt) : (s.setEth f).lum = s.lum := rfl
@[simp] theorem setEth_flash (s : State) (f : EthSt → EthSt) : (s.setEth f).flash = s.flash := rfl
@[simp] theorem setEth_xspi (s : State) (f : EthSt → EthSt) : (s.setEth f).xspi = s.xspi := rfl
@[simp] theorem setEth_sys (s : State) (f : EthSt → EthSt) : (s.setEth f).sys = s.sys := rfl
@[simp] theorem setEth_eth (s : State) (f : EthSt → EthSt) : (s.setEth f).eth = f s.eth := rfl
@[simp] theorem setEth_reg (s : State) (f : EthSt → EthSt) (k : Nat) : (s.setEth f).reg k = s.reg k := rfl
@[simp] theorem setEth_regN (s : State) (f : EthSt → EthSt) (k : Nat) : (s.setEth f).regN k = s.regN k := rfl
@[simp] theorem setEth_rf (s : State) (f : EthSt → EthSt) (k : Fld) : (s.setEth f).rf k = s.rf k := rfl
@[simp] theorem setEth_rb (s : State) (f : EthSt → EthSt) (k : Fld) : (s.setEth f).rb k = s.rb k := rfl
@[simp] theorem setEth_byte (s : State) (f : EthSt → EthSt) (k : Nat) : (s.setEth f).byte k = s.byte k := rfl

/-! setFld -/

@[simp] theorem setFld_pending (s : State) (f : FieldSt → FieldSt) : (s.setFld f).pending = s.pending := rfl
@[simp] theorem setFld_regs (s : State) (f : FieldSt → FieldSt) : (s.setFld f).regs = s.regs := rfl
@[simp] theorem setFld_mem (s : State) (f : FieldSt → FieldSt) : (s.setFld f).mem = s.mem := rfl
@[simp] theorem setFld_out (s : State) (f : FieldSt → FieldSt) : (s.setFld f).out = s.out := rfl
@[simp] theorem setFld_freeCtr (s : State) (f : FieldSt → FieldSt) : (s.setFld f).freeCtr = s.freeCtr := rfl
@[simp] theorem setFld_gtu (s : State) (f : FieldSt → FieldSt) : (s.setFld f).gtu = s.gtu := rfl
@[simp] theorem setFld_evr (s : State) (f : FieldSt → FieldSt) : (s.setFld f).evr = s.evr := rfl
@[simp] theorem setFld_acc (s : State) (f : FieldSt → FieldSt) : (s.setFld f).acc = s.acc := rfl
@[simp] theorem setFld_rfc (s : State) (f : FieldSt → FieldSt) : (s.setFld f).rfc = s.rfc := rfl
@[simp] theorem setFld_mdm (s : State) (f : FieldSt → FieldSt) : (s.setFld f).mdm = s.mdm := rfl
@[simp] theorem setFld_mpdus (s : State) (f : FieldSt → FieldSt) : (s.setFld f).mpdus = s.mpdus := rfl
@[simp] theorem setFld_rxmpdus (s : State) (f : FieldSt → FieldSt) : (s.setFld f).rxmpdus = s.rxmpdus := rfl
@[simp] theorem setFld_mpduNum (s : State) (f : FieldSt → FieldSt) : (s.setFld f).mpduNum = s.mpduNum := rfl
@[simp] theorem setFld_wlan (s : State) (f : FieldSt → FieldSt) : (s.setFld f).wlan = s.wlan := rfl
@[simp] theorem setFld_pkt (s : State) (f : FieldSt → FieldSt) : (s.setFld f).pkt = s.pkt := rfl
@[simp] theorem setFld_stp (s : State) (f : FieldSt → FieldSt) : (s.setFld f).stp = s.stp := rfl
@[simp] theorem setFld_ppe (s : State) (f : FieldSt → FieldSt) : (s.setFld f).ppe = s.ppe := rfl
@[simp] theorem setFld_eth (s : State) (f : FieldSt → FieldSt) : (s.setFld f).eth = s.eth := rfl
@[simp] theorem setFld_dma (s : State) (f : FieldSt → FieldSt) : (s.setFld f).dma = s.dma := rfl
@[simp] theorem setFld_cry (s : State) (f : FieldSt → FieldSt) : (s.setFld f).cry = s.cry := rfl
@[simp] theorem setFld_pke (s : State) (f : FieldSt → FieldSt) : (s.setFld f).pke = s.pke := rfl
@[simp] theorem setFld_ecc (s : State) (f : FieldSt → FieldSt) : (s.setFld f).ecc = s.ecc := rfl
@[simp] theorem setFld_drc (s : State) (f : FieldSt → FieldSt) : (s.setFld f).drc = s.drc := rfl
@[simp] theorem setFld_ode (s : State) (f : FieldSt → FieldSt) : (s.setFld f).ode = s.ode := rfl
@[simp] theorem setFld_can0 (s : State) (f : FieldSt → FieldSt) : (s.setFld f).can0 = s.can0 := rfl
@[simp] theorem setFld_can1 (s : State) (f : FieldSt → FieldSt) : (s.setFld f).can1 = s.can1 := rfl
@[simp] theorem setFld_lum (s : State) (f : FieldSt → FieldSt) : (s.setFld f).lum = s.lum := rfl
@[simp] theorem setFld_flash (s : State) (f : FieldSt → FieldSt) : (s.setFld f).flash = s.flash := rfl
@[simp] theorem setFld_xspi (s : State) (f : FieldSt → FieldSt) : (s.setFld f).xspi = s.xspi := rfl
@[simp] theorem setFld_sys (s : State) (f : FieldSt → FieldSt) : (s.setFld f).sys = s.sys := rfl
@[simp] theorem setFld_fld (s : State) (f : FieldSt → FieldSt) : (s.setFld f).fld = f s.fld := rfl
@[simp] theorem setFld_reg (s : State) (f : FieldSt → FieldSt) (k : Nat) : (s.setFld f).reg k = s.reg k := rfl
@[simp] theorem setFld_regN (s : State) (f : FieldSt → FieldSt) (k : Nat) : (s.setFld f).regN k = s.regN k := rfl
@[simp] theorem setFld_rf (s : State) (f : FieldSt → FieldSt) (k : Fld) : (s.setFld f).rf k = s.rf k := rfl
@[simp] theorem setFld_rb (s : State) (f : FieldSt → FieldSt) (k : Fld) : (s.setFld f).rb k = s.rb k := rfl
@[simp] theorem setFld_byte (s : State) (f : FieldSt → FieldSt) (k : Nat) : (s.setFld f).byte k = s.byte k := rfl

/-! setLum -/

@[simp] theorem setLum_pending (s : State) (f : LumSt → LumSt) : (s.setLum f).pending = s.pending := rfl
@[simp] theorem setLum_regs (s : State) (f : LumSt → LumSt) : (s.setLum f).regs = s.regs := rfl
@[simp] theorem setLum_mem (s : State) (f : LumSt → LumSt) : (s.setLum f).mem = s.mem := rfl
@[simp] theorem setLum_out (s : State) (f : LumSt → LumSt) : (s.setLum f).out = s.out := rfl
@[simp] theorem setLum_freeCtr (s : State) (f : LumSt → LumSt) : (s.setLum f).freeCtr = s.freeCtr := rfl
@[simp] theorem setLum_gtu (s : State) (f : LumSt → LumSt) : (s.setLum f).gtu = s.gtu := rfl
@[simp] theorem setLum_evr (s : State) (f : LumSt → LumSt) : (s.setLum f).evr = s.evr := rfl
@[simp] theorem setLum_acc (s : State) (f : LumSt → LumSt) : (s.setLum f).acc = s.acc := rfl
@[simp] theorem setLum_rfc (s : State) (f : LumSt → LumSt) : (s.setLum f).rfc = s.rfc := rfl
@[simp] theorem setLum_mdm (s : State) (f : LumSt → LumSt) : (s.setLum f).mdm = s.mdm := rfl
@[simp] theorem setLum_mpdus (s : State) (f : LumSt → LumSt) : (s.setLum f).mpdus = s.mpdus := rfl
@[simp] theorem setLum_rxmpdus (s : State) (f : LumSt → LumSt) : (s.setLum f).rxmpdus = s.rxmpdus := rfl
@[simp] theorem setLum_mpduNum (s : State) (f : LumSt → LumSt) : (s.setLum f).mpduNum = s.mpduNum := rfl
@[simp] theorem setLum_wlan (s : State) (f : LumSt → LumSt) : (s.setLum f).wlan = s.wlan := rfl
@[simp] theorem setLum_pkt (s : State) (f : LumSt → LumSt) : (s.setLum f).pkt = s.pkt := rfl
@[simp] theorem setLum_stp (s : State) (f : LumSt → LumSt) : (s.setLum f).stp = s.stp := rfl
@[simp] theorem setLum_fld (s : State) (f : LumSt → LumSt) : (s.setLum f).fld = s.fld := rfl
@[simp] theorem setLum_ppe (s : State) (f : LumSt → LumSt) : (s.setLum f).ppe = s.ppe := rfl
@[simp] theorem setLum_eth (s : State) (f : LumSt → LumSt) : (s.setLum f).eth = s.eth := rfl
@[simp] theorem setLum_dma (s : State) (f : LumSt → LumSt) : (s.setLum f).dma = s.dma := rfl
@[simp] theorem setLum_cry (s : State) (f : LumSt → LumSt) : (s.setLum f).cry = s.cry := rfl
@[simp] theorem setLum_pke (s : State) (f : LumSt → LumSt) : (s.setLum f).pke = s.pke := rfl
@[simp] theorem setLum_ecc (s : State) (f : LumSt → LumSt) : (s.setLum f).ecc = s.ecc := rfl
@[simp] theorem setLum_drc (s : State) (f : LumSt → LumSt) : (s.setLum f).drc = s.drc := rfl
@[simp] theorem setLum_ode (s : State) (f : LumSt → LumSt) : (s.setLum f).ode = s.ode := rfl
@[simp] theorem setLum_can0 (s : State) (f : LumSt → LumSt) : (s.setLum f).can0 = s.can0 := rfl
@[simp] theorem setLum_can1 (s : State) (f : LumSt → LumSt) : (s.setLum f).can1 = s.can1 := rfl
@[simp] theorem setLum_flash (s : State) (f : LumSt → LumSt) : (s.setLum f).flash = s.flash := rfl
@[simp] theorem setLum_xspi (s : State) (f : LumSt → LumSt) : (s.setLum f).xspi = s.xspi := rfl
@[simp] theorem setLum_sys (s : State) (f : LumSt → LumSt) : (s.setLum f).sys = s.sys := rfl
@[simp] theorem setLum_lum (s : State) (f : LumSt → LumSt) : (s.setLum f).lum = f s.lum := rfl
@[simp] theorem setLum_reg (s : State) (f : LumSt → LumSt) (k : Nat) : (s.setLum f).reg k = s.reg k := rfl
@[simp] theorem setLum_regN (s : State) (f : LumSt → LumSt) (k : Nat) : (s.setLum f).regN k = s.regN k := rfl
@[simp] theorem setLum_rf (s : State) (f : LumSt → LumSt) (k : Fld) : (s.setLum f).rf k = s.rf k := rfl
@[simp] theorem setLum_rb (s : State) (f : LumSt → LumSt) (k : Fld) : (s.setLum f).rb k = s.rb k := rfl
@[simp] theorem setLum_byte (s : State) (f : LumSt → LumSt) (k : Nat) : (s.setLum f).byte k = s.byte k := rfl

/-! setWlan -/

@[simp] theorem setWlan_pending (s : State) (f : WlanSt → WlanSt) : (s.setWlan f).pending = s.pending := rfl
@[simp] theorem setWlan_regs (s : State) (f : WlanSt → WlanSt) : (s.setWlan f).regs = s.regs := rfl
@[simp] theorem setWlan_mem (s : State) (f : WlanSt → WlanSt) : (s.setWlan f).mem = s.mem := rfl
@[simp] theorem setWlan_out (s : State) (f : WlanSt → WlanSt) : (s.setWlan f).out = s.out := rfl
@[simp] theorem setWlan_freeCtr (s : State) (f : WlanSt → WlanSt) : (s.setWlan f).freeCtr = s.freeCtr := rfl
@[simp] theorem setWlan_gtu (s : State) (f : WlanSt → WlanSt) : (s.setWlan f).gtu = s.gtu := rfl
@[simp] theorem setWlan_evr (s : State) (f : WlanSt → WlanSt) : (s.setWlan f).evr = s.evr := rfl
@[simp] theorem setWlan_acc (s : State) (f : WlanSt → WlanSt) : (s.setWlan f).acc = s.acc := rfl
@[simp] theorem setWlan_rfc (s : State) (f : WlanSt → WlanSt) : (s.setWlan f).rfc = s.rfc := rfl
@[simp] theorem setWlan_mdm (s : State) (f : WlanSt → WlanSt) : (s.setWlan f).mdm = s.mdm := rfl
@[simp] theorem setWlan_mpdus (s : State) (f : WlanSt → WlanSt) : (s.setWlan f).mpdus = s.mpdus := rfl
@[simp] theorem setWlan_rxmpdus (s : State) (f : WlanSt → WlanSt) : (s.setWlan f).rxmpdus = s.rxmpdus := rfl
@[simp] theorem setWlan_mpduNum (s : State) (f : WlanSt → WlanSt) : (s.setWlan f).mpduNum = s.mpduNum := rfl
@[simp] theorem setWlan_pkt (s : State) (f : WlanSt → WlanSt) : (s.setWlan f).pkt = s.pkt := rfl
@[simp] theorem setWlan_stp (s : State) (f : WlanSt → WlanSt) : (s.setWlan f).stp = s.stp := rfl
@[simp] theorem setWlan_fld (s : State) (f : WlanSt → WlanSt) : (s.setWlan f).fld = s.fld := rfl
@[simp] theorem setWlan_ppe (s : State) (f : WlanSt → WlanSt) : (s.setWlan f).ppe = s.ppe := rfl
@[simp] theorem setWlan_eth (s : State) (f : WlanSt → WlanSt) : (s.setWlan f).eth = s.eth := rfl
@[simp] theorem setWlan_dma (s : State) (f : WlanSt → WlanSt) : (s.setWlan f).dma = s.dma := rfl
@[simp] theorem setWlan_cry (s : State) (f : WlanSt → WlanSt) : (s.setWlan f).cry = s.cry := rfl
@[simp] theorem setWlan_pke (s : State) (f : WlanSt → WlanSt) : (s.setWlan f).pke = s.pke := rfl
@[simp] theorem setWlan_ecc (s : State) (f : WlanSt → WlanSt) : (s.setWlan f).ecc = s.ecc := rfl
@[simp] theorem setWlan_drc (s : State) (f : WlanSt → WlanSt) : (s.setWlan f).drc = s.drc := rfl
@[simp] theorem setWlan_ode (s : State) (f : WlanSt → WlanSt) : (s.setWlan f).ode = s.ode := rfl
@[simp] theorem setWlan_can0 (s : State) (f : WlanSt → WlanSt) : (s.setWlan f).can0 = s.can0 := rfl
@[simp] theorem setWlan_can1 (s : State) (f : WlanSt → WlanSt) : (s.setWlan f).can1 = s.can1 := rfl
@[simp] theorem setWlan_lum (s : State) (f : WlanSt → WlanSt) : (s.setWlan f).lum = s.lum := rfl
@[simp] theorem setWlan_flash (s : State) (f : WlanSt → WlanSt) : (s.setWlan f).flash = s.flash := rfl
@[simp] theorem setWlan_xspi (s : State) (f : WlanSt → WlanSt) : (s.setWlan f).xspi = s.xspi := rfl
@[simp] theorem setWlan_sys (s : State) (f : WlanSt → WlanSt) : (s.setWlan f).sys = s.sys := rfl
@[simp] theorem setWlan_wlan (s : State) (f : WlanSt → WlanSt) : (s.setWlan f).wlan = f s.wlan := rfl
@[simp] theorem setWlan_reg (s : State) (f : WlanSt → WlanSt) (k : Nat) : (s.setWlan f).reg k = s.reg k := rfl
@[simp] theorem setWlan_regN (s : State) (f : WlanSt → WlanSt) (k : Nat) : (s.setWlan f).regN k = s.regN k := rfl
@[simp] theorem setWlan_rf (s : State) (f : WlanSt → WlanSt) (k : Fld) : (s.setWlan f).rf k = s.rf k := rfl
@[simp] theorem setWlan_rb (s : State) (f : WlanSt → WlanSt) (k : Fld) : (s.setWlan f).rb k = s.rb k := rfl
@[simp] theorem setWlan_byte (s : State) (f : WlanSt → WlanSt) (k : Nat) : (s.setWlan f).byte k = s.byte k := rfl

/-! setDrc -/

@[simp] theorem setDrc_pending (s : State) (f : DrcSt → DrcSt) : (s.setDrc f).pending = s.pending := rfl
@[simp] theorem setDrc_regs (s : State) (f : DrcSt → DrcSt) : (s.setDrc f).regs = s.regs := rfl
@[simp] theorem setDrc_mem (s : State) (f : DrcSt → DrcSt) : (s.setDrc f).mem = s.mem := rfl
@[simp] theorem setDrc_out (s : State) (f : DrcSt → DrcSt) : (s.setDrc f).out = s.out := rfl
@[simp] theorem setDrc_freeCtr (s : State) (f : DrcSt → DrcSt) : (s.setDrc f).freeCtr = s.freeCtr := rfl
@[simp] theorem setDrc_gtu (s : State) (f : DrcSt → DrcSt) : (s.setDrc f).gtu = s.gtu := rfl
@[simp] theorem setDrc_evr (s : State) (f : DrcSt → DrcSt) : (s.setDrc f).evr = s.evr := rfl
@[simp] theorem setDrc_acc (s : State) (f : DrcSt → DrcSt) : (s.setDrc f).acc = s.acc := rfl
@[simp] theorem setDrc_rfc (s : State) (f : DrcSt → DrcSt) : (s.setDrc f).rfc = s.rfc := rfl
@[simp] theorem setDrc_mdm (s : State) (f : DrcSt → DrcSt) : (s.setDrc f).mdm = s.mdm := rfl
@[simp] theorem setDrc_mpdus (s : State) (f : DrcSt → DrcSt) : (s.setDrc f).mpdus = s.mpdus := rfl
@[simp] theorem setDrc_rxmpdus (s : State) (f : DrcSt → DrcSt) : (s.setDrc f).rxmpdus = s.rxmpdus := rfl
@[simp] theorem setDrc_mpduNum (s : State) (f : DrcSt → DrcSt) : (s.setDrc f).mpduNum = s.mpduNum := rfl
@[simp] theorem setDrc_wlan (s : State) (f : DrcSt → DrcSt) : (s.setDrc f).wlan = s.wlan := rfl
@[simp] theorem setDrc_pkt (s : State) (f : DrcSt → DrcSt) : (s.setDrc f).pkt = s.pkt := rfl
@[simp] theorem setDrc_stp (s : State) (f : DrcSt → DrcSt) : (s.setDrc f).stp = s.stp := rfl
@[simp] theorem setDrc_fld (s : State) (f : DrcSt → DrcSt) : (s.setDrc f).fld = s.fld := rfl
@[simp] theorem setDrc_ppe (s : State) (f : DrcSt → DrcSt) : (s.setDrc f).ppe = s.ppe := rfl
@[simp] theorem setDrc_eth (s : State) (f : DrcSt → DrcSt) : (s.setDrc f).eth = s.eth := rfl
@[simp] theorem setDrc_dma (s : State) (f : DrcSt → DrcSt) : (s.setDrc f).dma = s.dma := rfl
@[simp] theorem setDrc_cry (s : State) (f : DrcSt → DrcSt) : (s.setDrc f).cry = s.cry := rfl
@[simp] theorem setDrc_pke (s : State) (f : DrcSt → DrcSt) : (s.setDrc f).pke = s.pke := rfl
@[simp] theorem setDrc_ecc (s : State) (f : DrcSt → DrcSt) : (s.setDrc f).ecc = s.ecc := rfl
@[simp] theorem setDrc_ode (s : State) (f : DrcSt → DrcSt) : (s.setDrc f).ode = s.ode := rfl
@[simp] theorem setDrc_can0 (s : State) (f : DrcSt → DrcSt) : (s.setDrc f).can0 = s.can0 := rfl
@[simp] theorem setDrc_can1 (s : State) (f : DrcSt → DrcSt) : (s.setDrc f).can1 = s.can1 := rfl
@[simp] theorem setDrc_lum (s : State) (f : DrcSt → DrcSt) : (s.setDrc f).lum = s.lum := rfl
@[simp] theorem setDrc_flash (s : State) (f : DrcSt → DrcSt) : (s.setDrc f).flash = s.flash := rfl
@[simp] theorem setDrc_xspi (s : State) (f : DrcSt → DrcSt) : (s.setDrc f).xspi = s.xspi := rfl
@[simp] theorem setDrc_sys (s : State) (f : DrcSt → DrcSt) : (s.setDrc f).sys = s.sys := rfl
@[simp] theorem setDrc_drc (s : State) (f : DrcSt → DrcSt) : (s.setDrc f).drc = f s.drc := rfl
@[simp] theorem setDrc_reg (s : State) (f : DrcSt → DrcSt) (k : Nat) : (s.setDrc f).reg k = s.reg k := rfl
@[simp] theorem setDrc_regN (s : State) (f : DrcSt → DrcSt) (k : Nat) : (s.setDrc f).regN k = s.regN k := rfl
@[simp] theorem setDrc_rf (s : State) (f : DrcSt → DrcSt) (k : Fld) : (s.setDrc f).rf k = s.rf k := rfl
@[simp] theorem setDrc_rb (s : State) (f : DrcSt → DrcSt) (k : Fld) : (s.setDrc f).rb k = s.rb k := rfl
@[simp] theorem setDrc_byte (s : State) (f : DrcSt → DrcSt) (k : Nat) : (s.setDrc f).byte k = s.byte k := rfl

/-! setOde -/

@[simp] theorem setOde_pending (s : State) (f : OdeSt → OdeSt) : (s.setOde f).pending = s.pending := rfl
@[simp] theorem setOde_regs (s : State) (f : OdeSt → OdeSt) : (s.setOde f).regs = s.regs := rfl
@[simp] theorem setOde_mem (s : State) (f : OdeSt → OdeSt) : (s.setOde f).mem = s.mem := rfl
@[simp] theorem setOde_out (s : State) (f : OdeSt → OdeSt) : (s.setOde f).out = s.out := rfl
@[simp] theorem setOde_freeCtr (s : State) (f : OdeSt → OdeSt) : (s.setOde f).freeCtr = s.freeCtr := rfl
@[simp] theorem setOde_gtu (s : State) (f : OdeSt → OdeSt) : (s.setOde f).gtu = s.gtu := rfl
@[simp] theorem setOde_evr (s : State) (f : OdeSt → OdeSt) : (s.setOde f).evr = s.evr := rfl
@[simp] theorem setOde_acc (s : State) (f : OdeSt → OdeSt) : (s.setOde f).acc = s.acc := rfl
@[simp] theorem setOde_rfc (s : State) (f : OdeSt → OdeSt) : (s.setOde f).rfc = s.rfc := rfl
@[simp] theorem setOde_mdm (s : State) (f : OdeSt → OdeSt) : (s.setOde f).mdm = s.mdm := rfl
@[simp] theorem setOde_mpdus (s : State) (f : OdeSt → OdeSt) : (s.setOde f).mpdus = s.mpdus := rfl
@[simp] theorem setOde_rxmpdus (s : State) (f : OdeSt → OdeSt) : (s.setOde f).rxmpdus = s.rxmpdus := rfl
@[simp] theorem setOde_mpduNum (s : State) (f : OdeSt → OdeSt) : (s.setOde f).mpduNum = s.mpduNum := rfl
@[simp] theorem setOde_wlan (s : State) (f : OdeSt → OdeSt) : (s.setOde f).wlan = s.wlan := rfl
@[simp] theorem setOde_pkt (s : State) (f : OdeSt → OdeSt) : (s.setOde f).pkt = s.pkt := rfl
@[simp] theorem setOde_stp (s : State) (f : OdeSt → OdeSt) : (s.setOde f).stp = s.stp := rfl
@[simp] theorem setOde_fld (s : State) (f : OdeSt → OdeSt) : (s.setOde f).fld = s.fld := rfl
@[simp] theorem setOde_ppe (s : State) (f : OdeSt → OdeSt) : (s.setOde f).ppe = s.ppe := rfl
@[simp] theorem setOde_eth (s : State) (f : OdeSt → OdeSt) : (s.setOde f).eth = s.eth := rfl
@[simp] theorem setOde_dma (s : State) (f : OdeSt → OdeSt) : (s.setOde f).dma = s.dma := rfl
@[simp] theorem setOde_cry (s : State) (f : OdeSt → OdeSt) : (s.setOde f).cry = s.cry := rfl
@[simp] theorem setOde_pke (s : State) (f : OdeSt → OdeSt) : (s.setOde f).pke = s.pke := rfl
@[simp] theorem setOde_ecc (s : State) (f : OdeSt → OdeSt) : (s.setOde f).ecc = s.ecc := rfl
@[simp] theorem setOde_drc (s : State) (f : OdeSt → OdeSt) : (s.setOde f).drc = s.drc := rfl
@[simp] theorem setOde_can0 (s : State) (f : OdeSt → OdeSt) : (s.setOde f).can0 = s.can0 := rfl
@[simp] theorem setOde_can1 (s : State) (f : OdeSt → OdeSt) : (s.setOde f).can1 = s.can1 := rfl
@[simp] theorem setOde_lum (s : State) (f : OdeSt → OdeSt) : (s.setOde f).lum = s.lum := rfl
@[simp] theorem setOde_flash (s : State) (f : OdeSt → OdeSt) : (s.setOde f).flash = s.flash := rfl
@[simp] theorem setOde_xspi (s : State) (f : OdeSt → OdeSt) : (s.setOde f).xspi = s.xspi := rfl
@[simp] theorem setOde_sys (s : State) (f : OdeSt → OdeSt) : (s.setOde f).sys = s.sys := rfl
@[simp] theorem setOde_ode (s : State) (f : OdeSt → OdeSt) : (s.setOde f).ode = f s.ode := rfl
@[simp] theorem setOde_reg (s : State) (f : OdeSt → OdeSt) (k : Nat) : (s.setOde f).reg k = s.reg k := rfl
@[simp] theorem setOde_regN (s : State) (f : OdeSt → OdeSt) (k : Nat) : (s.setOde f).regN k = s.regN k := rfl
@[simp] theorem setOde_rf (s : State) (f : OdeSt → OdeSt) (k : Fld) : (s.setOde f).rf k = s.rf k := rfl
@[simp] theorem setOde_rb (s : State) (f : OdeSt → OdeSt) (k : Fld) : (s.setOde f).rb k = s.rb k := rfl
@[simp] theorem setOde_byte (s : State) (f : OdeSt → OdeSt) (k : Nat) : (s.setOde f).byte k = s.byte k := rfl

/-! setSys -/

@[simp] theorem setSys_pending (s : State) (f : SysSt → SysSt) : (s.setSys f).pending = s.pending := rfl
@[simp] theorem setSys_regs (s : State) (f : SysSt → SysSt) : (s.setSys f).regs = s.regs := rfl
@[simp] theorem setSys_mem (s : State) (f : SysSt → SysSt) : (s.setSys f).mem = s.mem := rfl
@[simp] theorem setSys_out (s : State) (f : SysSt → SysSt) : (s.setSys f).out = s.out := rfl
@[simp] theorem setSys_freeCtr (s : State) (f : SysSt → SysSt) : (s.setSys f).freeCtr = s.freeCtr := rfl
@[simp] theorem setSys_gtu (s : State) (f : SysSt → SysSt) : (s.setSys f).gtu = s.gtu := rfl
@[simp] theorem setSys_evr (s : State) (f : SysSt → SysSt) : (s.setSys f).evr = s.evr := rfl
@[simp] theorem setSys_acc (s : State) (f : SysSt → SysSt) : (s.setSys f).acc = s.acc := rfl
@[simp] theorem setSys_rfc (s : State) (f : SysSt → SysSt) : (s.setSys f).rfc = s.rfc := rfl
@[simp] theorem setSys_mdm (s : State) (f : SysSt → SysSt) : (s.setSys f).mdm = s.mdm := rfl
@[simp] theorem setSys_mpdus (s : State) (f : SysSt → SysSt) : (s.setSys f).mpdus = s.mpdus := rfl
@[simp] theorem setSys_rxmpdus (s : State) (f : SysSt → SysSt) : (s.setSys f).rxmpdus = s.rxmpdus := rfl
@[simp] theorem setSys_mpduNum (s : State) (f : SysSt → SysSt) : (s.setSys f).mpduNum = s.mpduNum := rfl
@[simp] theorem setSys_wlan (s : State) (f : SysSt → SysSt) : (s.setSys f).wlan = s.wlan := rfl
@[simp] theorem setSys_pkt (s : State) (f : SysSt → SysSt) : (s.setSys f).pkt = s.pkt := rfl
@[simp] theorem setSys_stp (s : State) (f : SysSt → SysSt) : (s.setSys f).stp = s.stp := rfl
@[simp] theorem setSys_fld (s : State) (f : SysSt → SysSt) : (s.setSys f).fld = s.fld := rfl
@[simp] theorem setSys_ppe (s : State) (f : SysSt → SysSt) : (s.setSys f).ppe = s.ppe := rfl
@[simp] theorem setSys_eth (s : State) (f : SysSt → SysSt) : (s.setSys f).eth = s.eth := rfl
@[simp] theorem setSys_dma (s : State) (f : SysSt → SysSt) : (s.setSys f).dma = s.dma := rfl
@[simp] theorem setSys_cry (s : State) (f : SysSt → SysSt) : (s.setSys f).cry = s.cry := rfl
@[simp] theorem setSys_pke (s : State) (f : SysSt → SysSt) : (s.setSys f).pke = s.pke := rfl
@[simp] theorem setSys_ecc (s : State) (f : SysSt → SysSt) : (s.setSys f).ecc = s.ecc := rfl
@[simp] theorem setSys_drc (s : State) (f : SysSt → SysSt) : (s.setSys f).drc = s.drc := rfl
@[simp] theorem setSys_ode (s : State) (f : SysSt → SysSt) : (s.setSys f).ode = s.ode := rfl
@[simp] theorem setSys_can0 (s : State) (f : SysSt → SysSt) : (s.setSys f).can0 = s.can0 := rfl
@[simp] theorem setSys_can1 (s : State) (f : SysSt → SysSt) : (s.setSys f).can1 = s.can1 := rfl
@[simp] theorem setSys_lum (s : State) (f : SysSt → SysSt) : (s.setSys f).lum = s.lum := rfl
@[simp] theorem setSys_flash (s : State) (f : SysSt → SysSt) : (s.setSys f).flash = s.flash := rfl
@[simp] theorem setSys_xspi (s : State) (f : SysSt → SysSt) : (s.setSys f).xspi = s.xspi := rfl
@[simp] theorem setSys_sys (s : State) (f : SysSt → SysSt) : (s.setSys f).sys = f s.sys := rfl
@[simp] theorem setSys_reg (s : State) (f : SysSt → SysSt) (k : Nat) : (s.setSys f).reg k = s.reg k := rfl
@[simp] theorem setSys_regN (s : State) (f : SysSt → SysSt) (k : Nat) : (s.setSys f).regN k = s.regN k := rfl
@[simp] theorem setSys_rf (s : State) (f : SysSt → SysSt) (k : Fld) : (s.setSys f).rf k = s.rf k := rfl
@[simp] theorem setSys_rb (s : State) (f : SysSt → SysSt) (k : Fld) : (s.setSys f).rb k = s.rb k := rfl
@[simp] theorem setSys_byte (s : State) (f : SysSt → SysSt) (k : Nat) : (s.setSys f).byte k = s.byte k := rfl

/-! setPkt -/

@[simp] theorem setPkt_pending (s : State) (f : PktSt → PktSt) : (s.setPkt f).pending = s.pending := rfl
@[simp] theorem setPkt_regs (s : State) (f : PktSt → PktSt) : (s.setPkt f).regs = s.regs := rfl
@[simp] theorem setPkt_mem (s : State) (f : PktSt → PktSt) : (s.setPkt f).mem = s.mem := rfl
@[simp] theorem setPkt_out (s : State) (f : PktSt → PktSt) : (s.setPkt f).out = s.out := rfl
@[simp] theorem setPkt_freeCtr (s : State) (f : PktSt → PktSt) : (s.setPkt f).freeCtr = s.freeCtr := rfl
@[simp] theorem setPkt_gtu (s : State) (f : PktSt → PktSt) : (s.setPkt f).gtu = s.gtu := rfl
@[simp] theorem setPkt_evr (s : State) (f : PktSt → PktSt) : (s.setPkt f).evr = s.evr := rfl
@[simp] theorem setPkt_acc (s : State) (f : PktSt → PktSt) : (s.setPkt f).acc = s.acc := rfl
@[simp] theorem setPkt_rfc (s : State) (f : PktSt → PktSt) : (s.setPkt f).rfc = s.rfc := rfl
@[simp] theorem setPkt_mdm (s : State) (f : PktSt → PktSt) : (s.setPkt f).mdm = s.mdm := rfl
@[simp] theorem setPkt_mpdus (s : State) (f : PktSt → PktSt) : (s.setPkt f).mpdus = s.mpdus := rfl
@[simp] theorem setPkt_rxmpdus (s : State) (f : PktSt → PktSt) : (s.setPkt f).rxmpdus = s.rxmpdus := rfl
@[simp] theorem setPkt_mpduNum (s : State) (f : PktSt → PktSt) : (s.setPkt f).mpduNum = s.mpduNum := rfl
@[simp] theorem setPkt_wlan (s : State) (f : PktSt → PktSt) : (s.setPkt f).wlan = s.wlan := rfl
@[simp] theorem setPkt_stp (s : State) (f : PktSt → PktSt) : (s.setPkt f).stp = s.stp := rfl
@[simp] theorem setPkt_fld (s : State) (f : PktSt → PktSt) : (s.setPkt f).fld = s.fld := rfl
@[simp] theorem setPkt_ppe (s : State) (f : PktSt → PktSt) : (s.setPkt f).ppe = s.ppe := rfl
@[simp] theorem setPkt_eth (s : State) (f : PktSt → PktSt) : (s.setPkt f).eth = s.eth := rfl
@[simp] theorem setPkt_dma (s : State) (f : PktSt → PktSt) : (s.setPkt f).dma = s.dma := rfl
@[simp] theorem setPkt_cry (s : State) (f : PktSt → PktSt) : (s.setPkt f).cry = s.cry := rfl
@[simp] theorem setPkt_pke (s : State) (f : PktSt → PktSt) : (s.setPkt f).pke = s.pke := rfl
@[simp] theorem setPkt_ecc (s : State) (f : PktSt → PktSt) : (s.setPkt f).ecc = s.ecc := rfl
@[simp] theorem setPkt_drc (s : State) (f : PktSt → PktSt) : (s.setPkt f).drc = s.drc := rfl
@[simp] theorem setPkt_ode (s : State) (f : PktSt → PktSt) : (s.setPkt f).ode = s.ode := rfl
@[simp] theorem setPkt_can0 (s : State) (f : PktSt → PktSt) : (s.setPkt f).can0 = s.can0 := rfl
@[simp] theorem setPkt_can1 (s : State) (f : PktSt → PktSt) : (s.setPkt f).can1 = s.can1 := rfl
@[simp] theorem setPkt_lum (s : State) (f : PktSt → PktSt) : (s.setPkt f).lum = s.lum := rfl
@[simp] theorem setPkt_flash (s : State) (f : PktSt → PktSt) : (s.setPkt f).flash = s.flash := rfl
@[simp] theorem setPkt_xspi (s : State) (f : PktSt → PktSt) : (s.setPkt f).xspi = s.xspi := rfl
@[simp] theorem setPkt_sys (s : State) (f : PktSt → PktSt) : (s.setPkt f).sys = s.sys := rfl
@[simp] theorem setPkt_pkt (s : State) (f : PktSt → PktSt) : (s.setPkt f).pkt = f s.pkt := rfl
@[simp] theorem setPkt_reg (s : State) (f : PktSt → PktSt) (k : Nat) : (s.setPkt f).reg k = s.reg k := rfl
@[simp] theorem setPkt_regN (s : State) (f : PktSt → PktSt) (k : Nat) : (s.setPkt f).regN k = s.regN k := rfl
@[simp] theorem setPkt_rf (s : State) (f : PktSt → PktSt) (k : Fld) : (s.setPkt f).rf k = s.rf k := rfl
@[simp] theorem setPkt_rb (s : State) (f : PktSt → PktSt) (k : Fld) : (s.setPkt f).rb k = s.rb k := rfl
@[simp] theorem setPkt_byte (s : State) (f : PktSt → PktSt) (k : Nat) : (s.setPkt f).byte k = s.byte k := rfl

/-! setPpe -/

@[simp] theorem setPpe_pending (s : State) (f : PpeSt → PpeSt) : (s.setPpe f).pending = s.pending := rfl
@[simp] theorem setPpe_regs (s : State) (f : PpeSt → PpeSt) : (s.setPpe f).regs = s.regs := rfl
@[simp] theorem setPpe_mem (s : State) (f : PpeSt → PpeSt) : (s.setPpe f).mem = s.mem := rfl
@[simp] theorem setPpe_out (s : State) (f : PpeSt → PpeSt) : (s.setPpe f).out = s.out := rfl
@[simp] theorem setPpe_freeCtr (s : State) (f : PpeSt → PpeSt) : (s.setPpe f).freeCtr = s.freeCtr := rfl
@[simp] theorem setPpe_gtu (s : State) (f : PpeSt → PpeSt) : (s.setPpe f).gtu = s.gtu := rfl
@[simp] theorem setPpe_evr (s : State) (f : PpeSt → PpeSt) : (s.setPpe f).evr = s.evr := rfl
@[simp] theorem setPpe_acc (s : State) (f : PpeSt → PpeSt) : (s.setPpe f).acc = s.acc := rfl
@[simp] theorem setPpe_rfc (s : State) (f : PpeSt → PpeSt) : (s.setPpe f).rfc = s.rfc := rfl
@[simp] theorem setPpe_mdm (s : State) (f : PpeSt → PpeSt) : (s.setPpe f).mdm = s.mdm := rfl
@[simp] theorem setPpe_mpdus (s : State) (f : PpeSt → PpeSt) : (s.setPpe f).mpdus = s.mpdus := rfl
@[simp] theorem setPpe_rxmpdus (s : State) (f : PpeSt → PpeSt) : (s.setPpe f).rxmpdus = s.rxmpdus := rfl
@[simp] theorem setPpe_mpduNum (s : State) (f : PpeSt → PpeSt) : (s.setPpe f).mpduNum = s.mpduNum := rfl
@[simp] theorem setPpe_wlan (s : State) (f : PpeSt → PpeSt) : (s.setPpe f).wlan = s.wlan := rfl
@[simp] theorem setPpe_pkt (s : State) (f : PpeSt → PpeSt) : (s.setPpe f).pkt = s.pkt := rfl
@[simp] theorem setPpe_stp (s : State) (f : PpeSt → PpeSt) : (s.setPpe f).stp = s.stp := rfl
@[simp] theorem setPpe_fld (s : State) (f : PpeSt → PpeSt) : (s.setPpe f).fld = s.fld := rfl
@[simp] theorem setPpe_eth (s : State) (f : PpeSt → PpeSt) : (s.setPpe f).eth = s.eth := rfl
@[simp] theorem setPpe_dma (s : State) (f : PpeSt → PpeSt) : (s.setPpe f).dma = s.dma := rfl
@[simp] theorem setPpe_cry (s : State) (f : PpeSt → PpeSt) : (s.setPpe f).cry = s.cry := rfl
@[simp] theorem setPpe_pke (s : State) (f : PpeSt → PpeSt) : (s.setPpe f).pke = s.pke := rfl
@[simp] theorem setPpe_ecc (s : State) (f : PpeSt → PpeSt) : (s.setPpe f).ecc = s.ecc := rfl
@[simp] theorem setPpe_drc (s : State) (f : PpeSt → PpeSt) : (s.setPpe f).drc = s.drc := rfl
@[simp] theorem setPpe_ode (s : State) (f : PpeSt → PpeSt) : (s.setPpe f).ode = s.ode := rfl
@[simp] theorem setPpe_can0 (s : State) (f : PpeSt → PpeSt) : (s.setPpe f).can0 = s.can0 := rfl
@[simp] theorem setPpe_can1 (s : State) (f : PpeSt → PpeSt) : (s.setPpe f).can1 = s.can1 := rfl
@[simp] theorem setPpe_lum (s : State) (f : PpeSt → PpeSt) : (s.setPpe f).lum = s.lum := rfl
@[simp] theorem setPpe_flash (s : State) (f : PpeSt → PpeSt) : (s.setPpe f).flash = s.flash := rfl
@[simp] theorem setPpe_xspi (s : State) (f : PpeSt → PpeSt) : (s.setPpe f).xspi = s.xspi := rfl
@[simp] theorem setPpe_sys (s : State) (f : PpeSt → PpeSt) : (s.setPpe f).sys = s.sys := rfl
@[simp] theorem setPpe_ppe (s : State) (f : PpeSt → PpeSt) : (s.setPpe f).ppe = f s.ppe := rfl
@[simp] theorem setPpe_reg (s : State) (f : PpeSt → PpeSt) (k : Nat) : (s.setPpe f).reg k = s.reg k := rfl
@[simp] theorem setPpe_regN (s : State) (f : PpeSt → PpeSt) (k : Nat) : (s.setPpe f).regN k = s.regN k := rfl
@[simp] theorem setPpe_rf (s : State) (f : PpeSt → PpeSt) (k : Fld) : (s.setPpe f).rf k = s.rf k := rfl
@[simp] theorem setPpe_rb (s : State) (f : PpeSt → PpeSt) (k : Fld) : (s.setPpe f).rb k = s.rb k := rfl
@[simp] theorem setPpe_byte (s : State) (f : PpeSt → PpeSt) (k : Nat) : (s.setPpe f).byte k = s.byte k := rfl

/-! setStp -/

@[simp] theorem setStp_pending (s : State) (f : StpSt → StpSt) : (s.setStp f).pending = s.pending := rfl
@[simp] theorem setStp_regs (s : State) (f : StpSt → StpSt) : (s.setStp f).regs = s.regs := rfl
@[simp] theorem setStp_mem (s : State) (f : StpSt → StpSt) : (s.setStp f).mem = s.mem := rfl
@[simp] theorem setStp_out (s : State) (f : StpSt → StpSt) : (s.setStp f).out = s.out := rfl
@[simp] theorem setStp_freeCtr (s : State) (f : StpSt → StpSt) : (s.setStp f).freeCtr = s.freeCtr := rfl
@[simp] theorem setStp_gtu (s : State) (f : StpSt → StpSt) : (s.setStp f).gtu = s.gtu := rfl
@[simp] theorem setStp_evr (s : State) (f : StpSt → StpSt) : (s.setStp f).evr = s.evr := rfl
@[simp] theorem setStp_acc (s : State) (f : StpSt → StpSt) : (s.setStp f).acc = s.acc := rfl
@[simp] theorem setStp_rfc (s : State) (f : StpSt → StpSt) : (s.setStp f).rfc = s.rfc := rfl
@[simp] theorem setStp_mdm (s : State) (f : StpSt → StpSt) : (s.setStp f).mdm = s.mdm := rfl
@[simp] theorem setStp_mpdus (s : State) (f : StpSt → StpSt) : (s.setStp f).mpdus = s.mpdus := rfl
@[simp] theorem setStp_rxmpdus (s : State) (f : StpSt → StpSt) : (s.setStp f).rxmpdus = s.rxmpdus := rfl
@[simp] theorem setStp_mpduNum (s : State) (f : StpSt → StpSt) : (s.setStp f).mpduNum = s.mpduNum := rfl
@[simp] theorem setStp_wlan (s : State) (f : StpSt → StpSt) : (s.setStp f).wlan = s.wlan := rfl
@[simp] theorem setStp_pkt (s : State) (f : StpSt → StpSt) : (s.setStp f).pkt = s.pkt := rfl
@[simp] theorem setStp_fld (s : State) (f : StpSt → StpSt) : (s.setStp f).fld = s.fld := rfl
@[simp] theorem setStp_ppe (s : State) (f : StpSt → StpSt) : (s.setStp f).ppe = s.ppe := rfl
@[simp] theorem setStp_eth (s : State) (f : StpSt → StpSt) : (s.setStp f).eth = s.eth := rfl
@[simp] theorem setStp_dma (s : State) (f : StpSt → StpSt) : (s.setStp f).dma = s.dma := rfl
@[simp] theorem setStp_cry (s : State) (f : StpSt → StpSt) : (s.setStp f).cry = s.cry := rfl
@[simp] theorem setStp_pke (s : State) (f : StpSt → StpSt) : (s.setStp f).pke = s.pke := rfl
@[simp] theorem setStp_ecc (s : State) (f : StpSt → StpSt) : (s.setStp f).ecc = s.ecc := rfl
@[simp] theorem setStp_drc (s : State) (f : StpSt → StpSt) : (s.setStp f).drc = s.drc := rfl
@[simp] theorem setStp_ode (s : State) (f : StpSt → StpSt) : (s.setStp f).ode = s.ode := rfl
@[simp] theorem setStp_can0 (s : State) (f : StpSt → StpSt) : (s.setStp f).can0 = s.can0 := rfl
@[simp] theorem setStp_can1 (s : State) (f : StpSt → StpSt) : (s.setStp f).can1 = s.can1 := rfl
@[simp] theorem setStp_lum (s : State) (f : StpSt → StpSt) : (s.setStp f).lum = s.lum := rfl
@[simp] theorem setStp_flash (s : State) (f : StpSt → StpSt) : (s.setStp f).flash = s.flash := rfl
@[simp] theorem setStp_xspi (s : State) (f : StpSt → StpSt) : (s.setStp f).xspi = s.xspi := rfl
@[simp] theorem setStp_sys (s : State) (f : StpSt → StpSt) : (s.setStp f).sys = s.sys := rfl
@[simp] theorem setStp_stp (s : State) (f : StpSt → StpSt) : (s.setStp f).stp = f s.stp := rfl
@[simp] theorem setStp_reg (s : State) (f : StpSt → StpSt) (k : Nat) : (s.setStp f).reg k = s.reg k := rfl
@[simp] theorem setStp_regN (s : State) (f : StpSt → StpSt) (k : Nat) : (s.setStp f).regN k = s.regN k := rfl
@[simp] theorem setStp_rf (s : State) (f : StpSt → StpSt) (k : Fld) : (s.setStp f).rf k = s.rf k := rfl
@[simp] theorem setStp_rb (s : State) (f : StpSt → StpSt) (k : Fld) : (s.setStp f).rb k = s.rb k := rfl
@[simp] theorem setStp_byte (s : State) (f : StpSt → StpSt) (k : Nat) : (s.setStp f).byte k = s.byte k := rfl

/-! setXspi -/

@[simp] theorem setXspi_pending (s : State) (f : XspiSt → XspiSt) : (s.setXspi f).pending = s.pending := rfl
@[simp] theorem setXspi_regs (s : State) (f : XspiSt → XspiSt) : (s.setXspi f).regs = s.regs := rfl
@[simp] theorem setXspi_mem (s : State) (f : XspiSt → XspiSt) : (s.setXspi f).mem = s.mem := rfl
@[simp] theorem setXspi_out (s : State) (f : XspiSt → XspiSt) : (s.setXspi f).out = s.out := rfl
@[simp] theorem setXspi_freeCtr (s : State) (f : XspiSt → XspiSt) : (s.setXspi f).freeCtr = s.freeCtr := rfl
@[simp] theorem setXspi_gtu (s : State) (f : XspiSt → XspiSt) : (s.setXspi f).gtu = s.gtu := rfl
@[simp] theorem setXspi_evr (s : State) (f : XspiSt → XspiSt) : (s.setXspi f).evr = s.evr := rfl
@[simp] theorem setXspi_acc (s : State) (f : XspiSt → XspiSt) : (s.setXspi f).acc = s.acc := rfl
@[simp] theorem setXspi_rfc (s : State) (f : XspiSt → XspiSt) : (s.setXspi f).rfc = s.rfc := rfl
@[simp] theorem setXspi_mdm (s : State) (f : XspiSt → XspiSt) : (s.setXspi f).mdm = s.mdm := rfl
@[simp] theorem setXspi_mpdus (s : State) (f : XspiSt → XspiSt) : (s.setXspi f).mpdus = s.mpdus := rfl
@[simp] theorem setXspi_rxmpdus (s : State) (f : XspiSt → XspiSt) : (s.setXspi f).rxmpdus = s.rxmpdus := rfl
@[simp] theorem setXspi_mpduNum (s : State) (f : XspiSt → XspiSt) : (s.setXspi f).mpduNum = s.mpduNum := rfl
@[simp] theorem setXspi_wlan (s : State) (f : XspiSt → XspiSt) : (s.setXspi f).wlan = s.wlan := rfl
@[simp] theorem setXspi_pkt (s : State) (f : XspiSt → XspiSt) : (s.setXspi f).pkt = s.pkt := rfl
@[simp] theorem setXspi_stp (s : State) (f : XspiSt → XspiSt) : (s.setXspi f).stp = s.stp := rfl
@[simp] theorem setXspi_fld (s : State) (f : XspiSt → XspiSt) : (s.setXspi f).fld = s.fld := rfl
@[simp] theorem setXspi_ppe (s : State) (f : XspiSt → XspiSt) : (s.setXspi f).ppe = s.ppe := rfl
@[simp] theorem setXspi_eth (s : State) (f : XspiSt → XspiSt) : (s.setXspi f).eth = s.eth := rfl
@[simp] theorem setXspi_dma (s : State) (f : XspiSt → XspiSt) : (s.setXspi f).dma = s.dma := rfl
@[simp] theorem setXspi_cry (s : State) (f : XspiSt → XspiSt) : (s.setXspi f).cry = s.cry := rfl
@[simp] theorem setXspi_pke (s : State) (f : XspiSt → XspiSt) : (s.setXspi f).pke = s.pke := rfl
@[simp] theorem setXspi_ecc (s : State) (f : XspiSt → XspiSt) : (s.setXspi f).ecc = s.ecc := rfl
@[simp] theorem setXspi_drc (s : State) (f : XspiSt → XspiSt) : (s.setXspi f).drc = s.drc := rfl
@[simp] theorem setXspi_ode (s : State) (f : XspiSt → XspiSt) : (s.setXspi f).ode = s.ode := rfl
@[simp] theorem setXspi_can0 (s : State) (f : XspiSt → XspiSt) : (s.setXspi f).can0 = s.can0 := rfl
@[simp] theorem setXspi_can1 (s : State) (f : XspiSt → XspiSt) : (s.setXspi f).can1 = s.can1 := rfl
@[simp] theorem setXspi_lum (s : State) (f : XspiSt → XspiSt) : (s.setXspi f).lum = s.lum := rfl
@[simp] theorem setXspi_flash (s : State) (f : XspiSt → XspiSt) : (s.setXspi f).flash = s.flash := rfl
@[simp] theorem setXspi_sys (s : State) (f : XspiSt → XspiSt) : (s.setXspi f).sys = s.sys := rfl
@[simp] theorem setXspi_xspi (s : State) (f : XspiSt → XspiSt) : (s.setXspi f).xspi = f s.xspi := rfl
@[simp] theorem setXspi_reg (s : State) (f : XspiSt → XspiSt) (k : Nat) : (s.setXspi f).reg k = s.reg k := rfl
@[simp] theorem setXspi_regN (s : State) (f : XspiSt → XspiSt) (k : Nat) : (s.setXspi f).regN k = s.regN k := rfl
@[simp] theorem setXspi_rf (s : State) (f : XspiSt → XspiSt) (k : Fld) : (s.setXspi f).rf k = s.rf k := rfl
@[simp] theorem setXspi_rb (s : State) (f : XspiSt → XspiSt) (k : Fld) : (s.setXspi f).rb k = s.rb k := rfl
@[simp] theorem setXspi_byte (s : State) (f : XspiSt → XspiSt) (k : Nat) : (s.setXspi f).byte k = s.byte k := rfl

end Sys2Proof.Machine
end

