-- ==== Sys2Proof/Laws/Store.lean ====
section
/-! SUPPORT. The laws of sparse tables: a read after a write, and that every operation keeps the canonical form. -/

set_option Elab.async false

namespace Sys2Proof

variable {α : Type}

/-- Reading the entry that a write makes. -/
theorem Sparse.get_entry [DecidableEq α] (d : Nat → α) (k : Nat) (v : α) : Sparse.get d (Sparse.entry d k v) k = v := by
  unfold Sparse.entry
  split
  · rename_i h; exact h.symm
  · simp [Sparse.get]

/-- Reading another key in a table that begins with such an entry. -/
theorem Sparse.get_entry_append_ne [DecidableEq α] (d : Nat → α) (k j : Nat) (v : α) (t : Sparse α) (h : j ≠ k) :
    Sparse.get d (Sparse.entry d k v ++ t) j = Sparse.get d t j := by
  unfold Sparse.entry
  split
  · rfl
  · simp [Sparse.get, h]

/-- Inserting leaves every other key alone. -/
theorem Sparse.get_ins_ne [DecidableEq α] (d : Nat → α) (k j : Nat) (v : α) (h : j ≠ k) :
    ∀ t : Sparse α, Sparse.get d (Sparse.ins (Sparse.entry d k v) k t) j = Sparse.get d t j
  | [] => by
    have := Sparse.get_entry_append_ne d k j v [] h
    simpa [Sparse.ins] using this
  | (a, w) :: t => by
    simp only [Sparse.ins]
    split
    · exact Sparse.get_entry_append_ne d k j v _ h
    · simp only [Sparse.get]
      rw [Sparse.get_ins_ne d k j v h t]

/-- Deleting leaves every other key alone. -/
theorem Sparse.get_del_ne (d : Nat → α) (k j : Nat) (h : j ≠ k) :
    ∀ t : Sparse α, Sparse.get d (Sparse.del k t) j = Sparse.get d t j
  | [] => rfl
  | (a, v) :: t => by
    simp only [Sparse.del, Sparse.get]
    split
    · rw [if_neg (by omega)]
      exact Sparse.get_del_ne d k j h t
    · simp only [Sparse.get]
      rw [Sparse.get_del_ne d k j h t]

/-- A deleted key is no key of the table. -/
theorem Sparse.not_mem_del (k : Nat) (w : α) : ∀ t : Sparse α, (k, w) ∉ Sparse.del k t
  | [] => by simp [Sparse.del]
  | (a, v) :: t => by
    simp only [Sparse.del]
    split
    · exact Sparse.not_mem_del k w t
    · rename_i h
      simp only [List.mem_cons, Prod.mk.injEq, not_or, not_and]
      exact ⟨fun e => absurd e.symm h, Sparse.not_mem_del k w t⟩

/-- Reading the inserted key where the table has no other entry of it. -/
theorem Sparse.get_ins_same [DecidableEq α] (d : Nat → α) (k : Nat) (v : α) :
    ∀ t : Sparse α, (∀ w, (k, w) ∉ t) → Sparse.get d (Sparse.ins (Sparse.entry d k v) k t) k = v
  | [], _ => Sparse.get_entry d k v
  | (a, w) :: t, h => by
    have ha : k ≠ a := fun e => h w (by simp [e])
    simp only [Sparse.ins]
    split
    · unfold Sparse.entry
      split
      · rename_i e
        have : ∀ l : Sparse α, (∀ w, (k, w) ∉ l) → Sparse.get d l k = d k := by
          intro l
          induction l with
          | nil => intro _; rfl
          | cons x l ih =>
            intro hl
            obtain ⟨b, u⟩ := x
            have hb : k ≠ b := fun e => hl u (by simp [e])
            simp only [Sparse.get, if_neg hb]
            exact ih (fun w hw => hl w (List.mem_cons_of_mem _ hw))
        rw [List.nil_append, this _ h, e]
      · simp [Sparse.get]
    · simp only [Sparse.get, if_neg ha]
      exact Sparse.get_ins_same d k v t (fun w hw => h w (List.mem_cons_of_mem _ hw))

/-- A read after a write: the key written gives the value written, every other key what it gave. -/
theorem Sparse.get_put [DecidableEq α] (d : Nat → α) (t : Sparse α) (k j : Nat) (v : α) :
    Sparse.get d (Sparse.put d t k v) j = if j = k then v else Sparse.get d t j := by
  unfold Sparse.put
  split
  · rename_i h; subst h
    exact Sparse.get_ins_same d j v _ (fun w => Sparse.not_mem_del j w t)
  · rename_i h
    rw [Sparse.get_ins_ne d k j v h, Sparse.get_del_ne d k j h]

/-- A canonical table is canonical above every lower bound. -/
theorem Sparse.wfFrom_mono [DecidableEq α] (d : Nat → α) :
    ∀ (t : Sparse α) (b c : Nat), Sparse.wfFrom d b t = true → c ≤ b → Sparse.wfFrom d c t = true
  | [], _, _, _, _ => rfl
  | (a, v) :: t, b, c, h, hc => by
    simp only [Sparse.wfFrom, Bool.and_eq_true, decide_eq_true_eq] at h ⊢
    exact ⟨⟨by omega, h.1.2⟩, h.2⟩

/-- Deleting keeps the canonical form, and leaves nothing up to a key that the table begins with. -/
theorem Sparse.wfFrom_del [DecidableEq α] (d : Nat → α) (k : Nat) :
    ∀ (t : Sparse α) (b : Nat), Sparse.wfFrom d b t = true → Sparse.wfFrom d b (Sparse.del k t) = true
  | [], _, _ => rfl
  | (a, v) :: t, b, h => by
    simp only [Sparse.wfFrom, Bool.and_eq_true, decide_eq_true_eq] at h
    have ih := Sparse.wfFrom_del d k t (a + 1) h.2
    simp only [Sparse.del]
    split
    · exact Sparse.wfFrom_mono d _ (a + 1) b ih (by omega)
    · simp only [Sparse.wfFrom, Bool.and_eq_true, decide_eq_true_eq]
      exact ⟨h.1, ih⟩

/-- Inserting the entry of a key that is not listed keeps the canonical form. -/
theorem Sparse.wfFrom_ins [DecidableEq α] (d : Nat → α) (k : Nat) (v : α) :
    ∀ (t : Sparse α) (b : Nat), b ≤ k → (∀ w, (k, w) ∉ t) → Sparse.wfFrom d b t = true →
      Sparse.wfFrom d b (Sparse.ins (Sparse.entry d k v) k t) = true
  | [], b, hb, _, _ => by
    unfold Sparse.ins Sparse.entry
    split
    · rfl
    · rename_i h
      simp only [Sparse.wfFrom, Bool.and_eq_true, decide_eq_true_eq]
      exact ⟨⟨hb, h⟩, trivial⟩
  | (a, w) :: t, b, hb, hk, h => by
    have ha : k ≠ a := fun e => hk w (by simp [e])
    have h' := h
    simp only [Sparse.wfFrom, Bool.and_eq_true, decide_eq_true_eq] at h
    simp only [Sparse.ins]
    split
    · unfold Sparse.entry
      split
      · exact h'
      · rename_i hv
        simp only [List.cons_append, List.nil_append, Sparse.wfFrom, Bool.and_eq_true, decide_eq_true_eq]
        exact ⟨⟨hb, hv⟩, ⟨by omega, h.1.2⟩, h.2⟩
    · simp only [Sparse.wfFrom, Bool.and_eq_true, decide_eq_true_eq]
      exact ⟨h.1, Sparse.wfFrom_ins d k v t (a + 1) (by omega) (fun u hu => hk u (List.mem_cons_of_mem _ hu)) h.2⟩

/-- A write keeps the canonical form. -/
theorem Sparse.wf_put [DecidableEq α] (d : Nat → α) (t : Sparse α) (k : Nat) (v : α) (h : Sparse.wf d t = true) :
    Sparse.wf d (Sparse.put d t k v) = true :=
  Sparse.wfFrom_ins d k v _ 0 (Nat.zero_le k) (fun w => Sparse.not_mem_del k w t) (Sparse.wfFrom_del d k t 0 h)

/-- Taking entries out keeps the canonical form. -/
theorem Sparse.wfFrom_filter [DecidableEq α] (d : Nat → α) (p : Nat × α → Bool) :
    ∀ (t : Sparse α) (b : Nat), Sparse.wfFrom d b t = true → Sparse.wfFrom d b (t.filter p) = true
  | [], _, _ => rfl
  | (a, u) :: t, b, h => by
    simp only [Sparse.wfFrom, Bool.and_eq_true, decide_eq_true_eq] at h
    have ih := Sparse.wfFrom_filter d p t (a + 1) h.2
    simp only [List.filter]
    split
    · simp only [Sparse.wfFrom, Bool.and_eq_true, decide_eq_true_eq]
      exact ⟨h.1, ih⟩
    · exact Sparse.wfFrom_mono d _ (a + 1) b ih (by omega)

/-- Taking entries out keeps the canonical form. -/
theorem Sparse.wf_filter [DecidableEq α] (d : Nat → α) (p : Nat × α → Bool) (t : Sparse α)
    (h : Sparse.wf d t = true) : Sparse.wf d (t.filter p) = true := Sparse.wfFrom_filter d p t 0 h

/-- Taking keys out keeps the canonical form. -/
theorem Sparse.wf_drop [DecidableEq α] (d : Nat → α) (p : Nat → Bool) (t : Sparse α)
    (h : Sparse.wf d t = true) : Sparse.wf d (Sparse.drop p t) = true := Sparse.wf_filter d _ t h

end Sys2Proof
end

