-- ==== Sys2Proof/Laws/Ops.lean ====
section
/-! SUPPORT. What each shared operation does, said once: reads after writes of registers, fields and bytes, counters, events,
granted and denied accesses. -/

set_option Elab.async false

namespace Sys2Proof.Machine

/-! ## Registers and bytes -/

theorem reg_setReg (s : State) (a b : Nat) (v : Word) : (s.setReg a v).reg b = if b = a then v else s.reg b :=
  Sparse.get_put _ _ _ _ _

theorem byte_setByte (s : State) (a b : Nat) (v : Byte) : (s.setByte a v).byte b = if b = a then v else s.byte b :=
  Sparse.get_put _ _ _ _ _

theorem reg_setRegN (s : State) (a b n : Nat) :
    (s.setRegN a n).reg b = if b = a then BitVec.ofNat 32 n else s.reg b := reg_setReg _ _ _ _

theorem reg_wf (s : State) (f : Fld) (n b : Nat) :
    (s.wf f n).reg b = if b = f.addr then setBits (s.reg f.addr) f.hi f.lo n else s.reg b := reg_setReg _ _ _ _

theorem reg_wb (s : State) (f : Fld) (x : Bool) (b : Nat) :
    (s.wb f x).reg b = if b = f.addr then setBits (s.reg f.addr) f.hi f.lo (if x then 1 else 0) else s.reg b := reg_wf _ _ _ _

theorem reg_bumpTo (s : State) (a m b : Nat) :
    (s.bumpTo a m).reg b = if b = a ∧ s.regN a < m then BitVec.ofNat 32 (s.regN a + 1) else s.reg b := by
  unfold State.bumpTo
  split
  · rename_i h; rw [reg_setRegN]; simp [h]
  · rename_i h; simp [h]

theorem reg_bump (s : State) (a b : Nat) :
    (s.bump a).reg b = if b = a ∧ s.regN a < 0xFFFFFFFF then BitVec.ofNat 32 (s.regN a + 1) else s.reg b :=
  reg_bumpTo _ _ _ _

theorem reg_bumpBy (s : State) (a n b : Nat) :
    (s.bumpBy a n).reg b = if b = a then BitVec.ofNat 32 (min (s.regN a + n) 0xFFFFFFFF) else s.reg b := reg_setRegN _ _ _ _

theorem reg_setReg64 (s : State) (lo hi n b : Nat) :
    (s.setReg64 lo hi n).reg b =
      if b = hi then BitVec.ofNat 32 (n / 2 ^ 32) else if b = lo then BitVec.ofNat 32 n else s.reg b := by
  unfold State.setReg64
  rw [reg_setRegN, reg_setRegN]

/-! ## Bit fields -/

/-- A field written reads back, as far as it is wide. -/
theorem bits_setBits (v : Word) (hi lo n : Nat) (h : lo ≤ hi) (hw : hi < 32) :
    bits (setBits v hi lo n) hi lo = n % 2 ^ (hi - lo + 1) := by
  unfold bits setBits
  simp only [BitVec.toNat_ofNat]
  have hv := v.isLt
  generalize v.toNat = x at *
  obtain ⟨k, rfl⟩ : ∃ k, hi = lo + k := ⟨hi - lo, by omega⟩
  have e1 : lo + k - lo + 1 = k + 1 := by omega
  rw [e1]
  obtain ⟨m, hm⟩ : ∃ m, 32 = lo + (k + 1) + m := ⟨32 - (lo + (k + 1)), by omega⟩
  have hp : 2 ^ 32 = 2 ^ lo * 2 ^ (k + 1) * 2 ^ m := by rw [hm, Nat.pow_add, Nat.pow_add]
  have e2 : 2 ^ (lo + k + 1) = 2 ^ lo * 2 ^ (k + 1) := by rw [Nat.add_assoc, Nat.pow_add]
  rw [e2]
  have p1 : 0 < 2 ^ lo := Nat.two_pow_pos _
  have p2 : 0 < 2 ^ (k + 1) := Nat.two_pow_pos _
  generalize hA : 2 ^ lo = A at *
  generalize hB : 2 ^ (k + 1) = B at *
  generalize hC : 2 ^ m = C at *
  rw [hp] at hv ⊢
  have lt : x % A + n % B * A + x / (A * B) * (A * B) < A * B * C := by
    have h1 : x % A < A := Nat.mod_lt _ p1
    have h2 : n % B < B := Nat.mod_lt _ p2
    have h3 : x / (A * B) < C := Nat.div_lt_of_lt_mul hv
    have h4 : n % B * A + A ≤ B * A := by
      have := Nat.mul_le_mul_right A h2
      rw [Nat.succ_mul] at this
      exact this
    have h5 : x / (A * B) * (A * B) + A * B ≤ C * (A * B) := by
      have := Nat.mul_le_mul_right (A * B) h3
      rw [Nat.succ_mul] at this
      exact this
    rw [Nat.mul_comm (A * B) C]
    rw [Nat.mul_comm B A] at h4
    omega
  rw [Nat.mod_eq_of_lt lt]
  have e3 : x % A + n % B * A + x / (A * B) * (A * B) = x % A + A * (n % B + B * (x / (A * B))) := by
    rw [Nat.mul_add, Nat.mul_comm (n % B) A, Nat.mul_comm (x / (A * B)) (A * B), Nat.mul_assoc]
    omega
  rw [e3, Nat.add_mul_div_left _ _ p1, Nat.div_eq_of_lt (Nat.mod_lt _ p1), Nat.zero_add, Nat.add_mul_mod_self_left,
    Nat.mod_mod]

theorem rf_wf_same (s : State) (f : Fld) (n : Nat) (h : f.lo ≤ f.hi) (hw : f.hi < 32) :
    (s.wf f n).rf f = n % 2 ^ (f.hi - f.lo + 1) := by
  unfold State.rf
  rw [reg_wf, if_pos rfl]
  exact bits_setBits _ _ _ _ h hw

/-! ## Events -/

theorem reg_pend (s : State) (n d a : Nat) (hn : n < 256) (hd : d < 14) (ha : ¬ evrAddr a) : (s.pend n d).reg a = s.reg a := by
  unfold State.pend
  rw [reg_setReg, if_neg]
  intro e
  apply ha
  subst e
  unfold evrAddr R.EVR_PEND
  omega

theorem reg_owePulse (s : State) (d a : Nat) : (s.owePulse d).reg a = s.reg a := by
  unfold State.owePulse
  split <;> rfl

theorem reg_pendAll (n a : Nat) (hn : n < 256) (ha : ¬ evrAddr a) :
    ∀ (l : List Nat) (s : State), (∀ d ∈ l, d < 14) → (s.pendAll n l).reg a = s.reg a
  | [], _, _ => rfl
  | d :: l, s, hl => by
    rw [State.pendAll, reg_pendAll n a hn ha l _ (fun x hx => hl x (List.mem_cons_of_mem _ hx))]
    split
    · rw [reg_owePulse, reg_pend _ _ _ _ hn (hl d (List.mem_cons_self ..)) ha]
    · rfl

theorem reg_countEvent (s : State) (n a : Nat) (hn : n < 256) (ha : ¬ evrAddr a) : (s.countEvent n).reg a = s.reg a := by
  unfold State.countEvent
  rw [reg_wf, if_neg]
  intro e
  apply ha
  subst e
  unfold evrAddr F.EVR_CNT_CNT R.EVR_CNT
  simp only
  omega

theorem dests_lt : ∀ d ∈ dests, d < 14 := by decide

theorem reg_raisePins (s : State) (n a : Nat) (hn : n < 256) (ha : ¬ evrAddr a) : (s.raisePins n).reg a = s.reg a := by
  unfold State.raisePins
  rw [reg_pendAll n a hn ha dests _ dests_lt, reg_countEvent _ _ _ hn ha]

theorem reg_subscribe (s : State) (n a : Nat) (ha : ¬ evrAddr a) : (s.subscribe n).reg a = s.reg a := by
  unfold State.subscribe
  split
  · rfl
  · split
    · rfl
    · rw [reg_raisePins _ _ _ (by decide) ha, reg_wf, if_neg]
      intro e
      apply ha
      subst e
      exact ⟨by decide, by decide⟩

/-- An occurrence of an event leaves every register outside the EVR alone. -/
theorem reg_raise (s : State) (n a : Nat) (hn : n < 256) (ha : ¬ evrAddr a) : (s.raise n).reg a = s.reg a := by
  unfold State.raise
  split
  · rw [reg_subscribe _ _ _ ha, reg_raisePins _ _ _ hn ha]
  · exact reg_raisePins _ _ _ hn ha

/-- Everything but the registers and the EVR's own state. -/
def State.rest (s : State) : State := { s with regs := [], evr := EvrSt.reset }

theorem rest_pendAll (n : Nat) : ∀ (l : List Nat) (s : State), (s.pendAll n l).rest = s.rest
  | [], _ => rfl
  | d :: l, s => by
    rw [State.pendAll, rest_pendAll n l]
    split
    · unfold State.owePulse
      split <;> rfl
    · rfl

theorem rest_raisePins (s : State) (n : Nat) : (s.raisePins n).rest = s.rest := by
  unfold State.raisePins
  rw [rest_pendAll]
  rfl

/-- An occurrence of an event changes registers and the EVR's own state alone. -/
theorem rest_raise (s : State) (n : Nat) : (s.raise n).rest = s.rest := by
  have h : ∀ t : State, (t.subscribe n).rest = t.rest := by
    intro t
    unfold State.subscribe
    split
    · rfl
    · split
      · rfl
      · rw [rest_raisePins]; rfl
  unfold State.raise
  split
  · rw [h, rest_raisePins]
  · exact rest_raisePins _ _

@[simp] theorem raise_pending (s : State) (n : Nat) : (s.raise n).pending = s.pending := congrArg (fun t => t.pending) (rest_raise s n)
@[simp] theorem raise_mem (s : State) (n : Nat) : (s.raise n).mem = s.mem := congrArg (fun t => t.mem) (rest_raise s n)
@[simp] theorem raise_out (s : State) (n : Nat) : (s.raise n).out = s.out := congrArg (fun t => t.out) (rest_raise s n)
@[simp] theorem raise_freeCtr (s : State) (n : Nat) : (s.raise n).freeCtr = s.freeCtr := congrArg (fun t => t.freeCtr) (rest_raise s n)
@[simp] theorem raise_gtu (s : State) (n : Nat) : (s.raise n).gtu = s.gtu := congrArg (fun t => t.gtu) (rest_raise s n)
@[simp] theorem raise_acc (s : State) (n : Nat) : (s.raise n).acc = s.acc := congrArg (fun t => t.acc) (rest_raise s n)
@[simp] theorem raise_rfc (s : State) (n : Nat) : (s.raise n).rfc = s.rfc := congrArg (fun t => t.rfc) (rest_raise s n)
@[simp] theorem raise_mdm (s : State) (n : Nat) : (s.raise n).mdm = s.mdm := congrArg (fun t => t.mdm) (rest_raise s n)
@[simp] theorem raise_mpdus (s : State) (n : Nat) : (s.raise n).mpdus = s.mpdus := congrArg (fun t => t.mpdus) (rest_raise s n)
@[simp] theorem raise_rxmpdus (s : State) (n : Nat) : (s.raise n).rxmpdus = s.rxmpdus := congrArg (fun t => t.rxmpdus) (rest_raise s n)
@[simp] theorem raise_mpduNum (s : State) (n : Nat) : (s.raise n).mpduNum = s.mpduNum := congrArg (fun t => t.mpduNum) (rest_raise s n)
@[simp] theorem raise_wlan (s : State) (n : Nat) : (s.raise n).wlan = s.wlan := congrArg (fun t => t.wlan) (rest_raise s n)
@[simp] theorem raise_pkt (s : State) (n : Nat) : (s.raise n).pkt = s.pkt := congrArg (fun t => t.pkt) (rest_raise s n)
@[simp] theorem raise_stp (s : State) (n : Nat) : (s.raise n).stp = s.stp := congrArg (fun t => t.stp) (rest_raise s n)
@[simp] theorem raise_fld (s : State) (n : Nat) : (s.raise n).fld = s.fld := congrArg (fun t => t.fld) (rest_raise s n)
@[simp] theorem raise_ppe (s : State) (n : Nat) : (s.raise n).ppe = s.ppe := congrArg (fun t => t.ppe) (rest_raise s n)
@[simp] theorem raise_eth (s : State) (n : Nat) : (s.raise n).eth = s.eth := congrArg (fun t => t.eth) (rest_raise s n)
@[simp] theorem raise_dma (s : State) (n : Nat) : (s.raise n).dma = s.dma := congrArg (fun t => t.dma) (rest_raise s n)
@[simp] theorem raise_cry (s : State) (n : Nat) : (s.raise n).cry = s.cry := congrArg (fun t => t.cry) (rest_raise s n)
@[simp] theorem raise_pke (s : State) (n : Nat) : (s.raise n).pke = s.pke := congrArg (fun t => t.pke) (rest_raise s n)
@[simp] theorem raise_ecc (s : State) (n : Nat) : (s.raise n).ecc = s.ecc := congrArg (fun t => t.ecc) (rest_raise s n)
@[simp] theorem raise_drc (s : State) (n : Nat) : (s.raise n).drc = s.drc := congrArg (fun t => t.drc) (rest_raise s n)
@[simp] theorem raise_ode (s : State) (n : Nat) : (s.raise n).ode = s.ode := congrArg (fun t => t.ode) (rest_raise s n)
@[simp] theorem raise_can0 (s : State) (n : Nat) : (s.raise n).can0 = s.can0 := congrArg (fun t => t.can0) (rest_raise s n)
@[simp] theorem raise_can1 (s : State) (n : Nat) : (s.raise n).can1 = s.can1 := congrArg (fun t => t.can1) (rest_raise s n)
@[simp] theorem raise_lum (s : State) (n : Nat) : (s.raise n).lum = s.lum := congrArg (fun t => t.lum) (rest_raise s n)
@[simp] theorem raise_flash (s : State) (n : Nat) : (s.raise n).flash = s.flash := congrArg (fun t => t.flash) (rest_raise s n)
@[simp] theorem raise_xspi (s : State) (n : Nat) : (s.raise n).xspi = s.xspi := congrArg (fun t => t.xspi) (rest_raise s n)
@[simp] theorem raise_sys (s : State) (n : Nat) : (s.raise n).sys = s.sys := congrArg (fun t => t.sys) (rest_raise s n)
@[simp] theorem raise_byte (s : State) (n a : Nat) : (s.raise n).byte a = s.byte a := by unfold State.byte; rw [raise_mem]

theorem reg_refuse (s : State) (e c n a : Nat) (hn : n < 256) (ha : ¬ evrAddr a) :
    (s.refuse e c n).reg a = if a = e then BitVec.ofNat 32 (0x100 + c % 256) else s.reg a := by
  unfold State.refuse State.errSet
  rw [reg_raise _ _ _ hn ha, reg_setRegN]

/-! ## Register accesses -/

/-- A granted write has its effect (R25). -/
theorem onWrite_of_mayWrite (s : State) (i : Init) (a : Nat) (k : State → State) (h : s.MayWrite i a) :
    s.onWrite i a k = k s := by
  obtain ⟨h1, h2, h3⟩ := h
  unfold State.onWrite
  rw [if_pos h1, if_neg (by simp [h2]), if_neg]
  intro e
  rw [Bool.and_eq_true] at e
  simp [h3 e.1] at e

/-- A granted read has its effect (R25). -/
theorem onRead_of_mayRead (s : State) (i : Init) (a : Nat) (k : State → State) (h : s.MayRead i a) :
    s.onRead i a k = k s := by
  unfold State.onRead
  rw [if_pos h.1, if_neg (by simp [h.2])]

/-- A write that the access table refuses changes nothing of its block: it is recorded, raises EV217 and ends with a bus
error (R25). -/
theorem onWrite_of_denied (s : State) (i : Init) (a : Nat) (k : State → State) (h : s.accOk i a true = false) :
    s.onWrite i a k = s.deny i a := by
  unfold State.onWrite
  rw [if_neg (by simp [h])]

end Sys2Proof.Machine
end

