-- ==== Sys2Proof/Laws/Fields.lean ====
section
/-! SUPPORT. Fields after writes: what each operation on registers leaves of a field, for rewriting with concrete fields. -/

set_option Elab.async false

namespace Sys2Proof.Machine

/-- A field written leaves the bits above and below it alone. -/
theorem bits_setBits_other (v : Word) (hi lo n h l : Nat) (hw : hi < 32) (hl : lo ≤ hi) (d : hi < l ∨ h < lo) (hh : l ≤ h) :
    bits (setBits v hi lo n) h l = bits v h l := by
  unfold bits setBits
  simp only [BitVec.toNat_ofNat]
  have hv := v.isLt
  generalize v.toNat = x at *
  obtain ⟨k, rfl⟩ : ∃ k, hi = lo + k := ⟨hi - lo, by omega⟩
  have e1 : lo + k - lo + 1 = k + 1 := by omega
  rw [e1]
  have p1 : 0 < 2 ^ lo := Nat.two_pow_pos _
  have p2 : 0 < 2 ^ (k + 1) := Nat.two_pow_pos _
  have e2 : 2 ^ (lo + k + 1) = 2 ^ lo * 2 ^ (k + 1) := by rw [Nat.add_assoc, Nat.pow_add]
  rw [e2]
  have hC : ∃ m, 32 = lo + (k + 1) + m := ⟨32 - (lo + (k + 1)), by omega⟩
  obtain ⟨m, hm⟩ := hC
  have hp : 2 ^ 32 = 2 ^ lo * 2 ^ (k + 1) * 2 ^ m := by rw [hm, Nat.pow_add, Nat.pow_add]
  rw [hp] at hv ⊢
  have h1 : x % 2 ^ lo < 2 ^ lo := Nat.mod_lt _ p1
  have h2 : n % 2 ^ (k + 1) < 2 ^ (k + 1) := Nat.mod_lt _ p2
  have h3 : x / (2 ^ lo * 2 ^ (k + 1)) < 2 ^ m := Nat.div_lt_of_lt_mul hv
  have h4 : n % 2 ^ (k + 1) * 2 ^ lo + 2 ^ lo ≤ 2 ^ (k + 1) * 2 ^ lo := by
    have := Nat.mul_le_mul_right (2 ^ lo) h2
    rwa [Nat.succ_mul] at this
  have h5 : x / (2 ^ lo * 2 ^ (k + 1)) * (2 ^ lo * 2 ^ (k + 1)) + 2 ^ lo * 2 ^ (k + 1) ≤ 2 ^ lo * 2 ^ (k + 1) * 2 ^ m := by
    have := Nat.mul_le_mul_right (2 ^ lo * 2 ^ (k + 1)) h3
    rw [Nat.succ_mul, Nat.mul_comm (2 ^ m)] at this
    exact this
  rw [Nat.mul_comm (2 ^ (k + 1)) (2 ^ lo)] at h4
  have lt : x % 2 ^ lo + n % 2 ^ (k + 1) * 2 ^ lo + x / (2 ^ lo * 2 ^ (k + 1)) * (2 ^ lo * 2 ^ (k + 1)) <
      2 ^ lo * 2 ^ (k + 1) * 2 ^ m := by
    generalize 2 ^ lo = A at *
    generalize 2 ^ (k + 1) = B at *
    omega
  rw [Nat.mod_eq_of_lt lt]
  have lt2 : x % 2 ^ lo + n % 2 ^ (k + 1) * 2 ^ lo < 2 ^ lo * 2 ^ (k + 1) := by
    generalize 2 ^ lo = A at *
    generalize 2 ^ (k + 1) = B at *
    omega
  have hx := Nat.div_add_mod x (2 ^ lo * 2 ^ (k + 1))
  have hx' : x % (2 ^ lo * 2 ^ (k + 1)) % 2 ^ lo = x % 2 ^ lo := Nat.mod_mul_right_mod _ _ _
  cases d with
  | inl d =>
    obtain ⟨j, rfl⟩ : ∃ j, l = lo + (k + 1) + j := ⟨l - (lo + (k + 1)), by omega⟩
    have e3 : 2 ^ (lo + (k + 1) + j) = 2 ^ lo * 2 ^ (k + 1) * 2 ^ j := by rw [Nat.pow_add, Nat.pow_add]
    rw [e3]
    have pD : 0 < 2 ^ lo * 2 ^ (k + 1) := Nat.mul_pos p1 p2
    generalize 2 ^ lo * 2 ^ (k + 1) = D at *
    rw [← Nat.div_div_eq_div_mul, ← Nat.div_div_eq_div_mul]
    rw [Nat.add_mul_div_right _ _ pD, Nat.div_eq_of_lt lt2, Nat.zero_add]
  | inr d =>
    obtain ⟨j, rfl⟩ : ∃ j, h = l + j := ⟨h - l, by omega⟩
    have e4 : l + j - l + 1 = j + 1 := by omega
    rw [e4]
    obtain ⟨q, rfl⟩ : ∃ q, lo = l + (j + 1) + q := ⟨lo - (l + (j + 1)), by omega⟩
    have e5 : 2 ^ (l + (j + 1) + q) = 2 ^ l * (2 ^ (j + 1) * 2 ^ q) := by rw [Nat.pow_add, Nat.pow_add, Nat.mul_assoc]
    rw [e5] at *
    have pl : 0 < 2 ^ l := Nat.two_pow_pos _
    have e6 : x % (2 ^ l * (2 ^ (j + 1) * 2 ^ q)) + n % 2 ^ (k + 1) * (2 ^ l * (2 ^ (j + 1) * 2 ^ q)) +
        x / (2 ^ l * (2 ^ (j + 1) * 2 ^ q) * 2 ^ (k + 1)) * (2 ^ l * (2 ^ (j + 1) * 2 ^ q) * 2 ^ (k + 1)) =
        x % (2 ^ l * (2 ^ (j + 1) * 2 ^ q)) + 2 ^ l * (2 ^ (j + 1) * (2 ^ q * (n % 2 ^ (k + 1) +
          x / (2 ^ l * (2 ^ (j + 1) * 2 ^ q) * 2 ^ (k + 1)) * 2 ^ (k + 1)))) := by
      simp only [Nat.mul_add, Nat.add_assoc]
      congr 1
      congr 1 <;> ac_rfl
    rw [e6, Nat.add_mul_div_left _ _ pl, Nat.add_mul_mod_self_left]
    have e7 : x % (2 ^ l * (2 ^ (j + 1) * 2 ^ q)) / 2 ^ l = x / 2 ^ l % (2 ^ (j + 1) * 2 ^ q) := Nat.mod_mul_right_div_self _ _ _
    rw [e7]
    exact Nat.mod_mul_right_mod _ _ _

theorem bits_lt (v : Word) (hi lo : Nat) : bits v hi lo < 2 ^ (hi - lo + 1) := Nat.mod_lt _ (Nat.two_pow_pos _)

theorem rf_lt (s : State) (f : Fld) : s.rf f < 2 ^ (f.hi - f.lo + 1) := bits_lt _ _ _

theorem rf_setReg (s : State) (a : Nat) (v : Word) (g : Fld) :
    (s.setReg a v).rf g = if g.addr = a then bits v g.hi g.lo else s.rf g := by
  unfold State.rf
  rw [reg_setReg]
  split <;> rfl

theorem rf_setRegN (s : State) (a n : Nat) (g : Fld) :
    (s.setRegN a n).rf g = if g.addr = a then bits (BitVec.ofNat 32 n) g.hi g.lo else s.rf g := rf_setReg _ _ _ _

theorem rf_wf (s : State) (f : Fld) (n : Nat) (g : Fld) :
    (s.wf f n).rf g = if g.addr = f.addr then bits (setBits (s.reg f.addr) f.hi f.lo n) g.hi g.lo else s.rf g := rf_setReg _ _ _ _

/-- A field that shares no bit with the one written stands. -/
theorem rf_wf_other (s : State) (f g : Fld) (n : Nat) (hw : f.hi < 32) (hf : f.lo ≤ f.hi) (hg : g.lo ≤ g.hi)
    (d : g.addr ≠ f.addr ∨ f.hi < g.lo ∨ g.hi < f.lo) : (s.wf f n).rf g = s.rf g := by
  rw [rf_wf]
  split
  · rename_i e
    rw [bits_setBits_other _ _ _ _ _ _ hw hf (d.resolve_left (fun h => h e)) hg]
    unfold State.rf
    rw [e]
  · rfl

theorem rf_wb_other (s : State) (f g : Fld) (b : Bool) (hw : f.hi < 32) (hf : f.lo ≤ f.hi) (hg : g.lo ≤ g.hi)
    (d : g.addr ≠ f.addr ∨ f.hi < g.lo ∨ g.hi < f.lo) : (s.wb f b).rf g = s.rf g := rf_wf_other s f g _ hw hf hg d

theorem rf_setRegN_other (s : State) (a n : Nat) (g : Fld) (d : g.addr ≠ a) : (s.setRegN a n).rf g = s.rf g := by
  rw [rf_setRegN, if_neg d]

theorem rf_setReg_other (s : State) (a : Nat) (v : Word) (g : Fld) (d : g.addr ≠ a) : (s.setReg a v).rf g = s.rf g := by
  rw [rf_setReg, if_neg d]

theorem rf_raise (s : State) (n : Nat) (g : Fld) (hn : n < 256) (ha : ¬ evrAddr g.addr) : (s.raise n).rf g = s.rf g := by
  unfold State.rf
  rw [reg_raise _ _ _ hn ha]

theorem reg_raiseAll (a : Nat) (ha : ¬ evrAddr a) : ∀ (l : List Nat) (s : State), (∀ n ∈ l, n < 256) → (s.raiseAll l).reg a = s.reg a
  | [], _, _ => rfl
  | n :: l, s, h => by
    rw [State.raiseAll, reg_raiseAll a ha l _ (fun x hx => h x (List.mem_cons_of_mem _ hx)),
      reg_raise _ _ _ (h n (List.mem_cons_self ..)) ha]

theorem rest_raiseAll : ∀ (l : List Nat) (s : State), (s.raiseAll l).rest = s.rest
  | [], _ => rfl
  | n :: l, s => by rw [State.raiseAll, rest_raiseAll l, rest_raise]

@[simp] theorem raiseAll_gtu (s : State) (l : List Nat) : (s.raiseAll l).gtu = s.gtu := congrArg (fun t => t.gtu) (rest_raiseAll l s)
@[simp] theorem raiseAll_mem (s : State) (l : List Nat) : (s.raiseAll l).mem = s.mem := congrArg (fun t => t.mem) (rest_raiseAll l s)
@[simp] theorem raiseAll_out (s : State) (l : List Nat) : (s.raiseAll l).out = s.out := congrArg (fun t => t.out) (rest_raiseAll l s)

theorem reg_deny (s : State) (i : Init) (a b : Nat) (hb : ¬ evrAddr b) : (s.deny i a).reg b = s.reg b := by
  unfold State.deny
  show (State.raise _ 217).reg b = _
  rw [reg_raise _ _ _ (by decide) hb]
  split <;> rfl

end Sys2Proof.Machine
end

