-- ==== Sys2Proof/Laws/Within.lean ====
section
/-! SUPPORT. `Within m o s`: of the parts of the state, those whose bit is clear in `m` stand in `s` as they stood in `o`.
The lemmas for first-hand changes of the state, conditions, folds, and results that hold a state beside other things. -/

set_option Elab.async false

namespace Sys2Proof.Machine

/-- The number of a part, its bit in a mask. -/
def Part.num : Part → Nat
  | .regs => 0
  | .mem => 1
  | .out => 2
  | .gtu => 3
  | .evr => 4
  | .acc => 5
  | .rfc => 6
  | .mdm => 7
  | .mpdus => 8
  | .rxmpdus => 9
  | .mpduNum => 10
  | .wlan => 11
  | .pkt => 12
  | .stp => 13
  | .fld => 14
  | .ppe => 15
  | .eth => 16
  | .dma => 17
  | .cry => 18
  | .pke => 19
  | .ecc => 20
  | .drc => 21
  | .ode => 22
  | .can0 => 23
  | .can1 => 24
  | .lum => 25
  | .flash => 26
  | .xspi => 27
  | .sys => 28

/-- The mask of a list of parts. -/
def partMask : List Part → Nat
  | [] => 0
  | p :: l => (partMask l) ||| 2 ^ p.num

/-- Every bit of `a` is one of `b`. -/
structure Sub (a b : Nat) : Prop where
  eq : a &&& b = a

theorem Sub.le {a b m : Nat} (h : Sub b m) (g : Sub a b) : Sub a m := by
  have e : a &&& m = (a &&& b) &&& m := by rw [g.eq]
  exact ⟨by rw [e, Nat.and_assoc, h.eq, g.eq]⟩

theorem Sub.bit {a m k : Nat} (h : Sub a m) (g : a.testBit k = true) : m.testBit k = true := by
  rw [← h.eq, Nat.testBit_and, Bool.and_eq_true] at g
  exact g.2

def Within (m : Nat) (o s : State) : Prop := ∀ p : Part, m.testBit p.num = false → SamePart p o s

variable {m : Nat} {o : State}

theorem Within.refl (s : State) : Within m s s := fun p _ => by cases p <;> rfl

theorem Within.trans {s t : State} (h : Within m o s) (g : Within m s t) : Within m o t := fun p hp => by
  have a := h p hp
  have b := g p hp
  cases p <;> exact b.trans a

/-- A change of some parts. -/
theorem Within.upd {k : Nat} {s t : State} (h : Within m o s) (e : ∀ p : Part, k.testBit p.num = true ∨ SamePart p s t)
    (hm : Sub k m := by first | exact Sub.le (by assumption) ⟨rfl⟩ | exact ⟨rfl⟩) : Within m o t := fun p hp => by
  have a := h p hp
  cases e p with
  | inl x => rw [hm.bit x] at hp; cases hp
  | inr b => cases p <;> exact b.trans a

theorem Within.in_regs {s : State} {x : Sparse Word} (h : Within m o s)
    (hm : Sub 1 m := by first | exact Sub.le (by assumption) ⟨rfl⟩ | exact ⟨rfl⟩) : Within m o { s with regs := x } :=
  h.upd (k := 1) (fun p => by cases p <;> first | exact .inr rfl | exact .inl rfl) hm
theorem Within.in_mem {s : State} {x : List Host.Cell} (h : Within m o s)
    (hm : Sub 2 m := by first | exact Sub.le (by assumption) ⟨rfl⟩ | exact ⟨rfl⟩) : Within m o { s with mem := x } :=
  h.upd (k := 2) (fun p => by cases p <;> first | exact .inr rfl | exact .inl rfl) hm
theorem Within.in_out {s : State} {x : List Out} (h : Within m o s)
    (hm : Sub 4 m := by first | exact Sub.le (by assumption) ⟨rfl⟩ | exact ⟨rfl⟩) : Within m o { s with out := x } :=
  h.upd (k := 4) (fun p => by cases p <;> first | exact .inr rfl | exact .inl rfl) hm
theorem Within.in_gtu {s : State} {x : GtuSt} (h : Within m o s)
    (hm : Sub 8 m := by first | exact Sub.le (by assumption) ⟨rfl⟩ | exact ⟨rfl⟩) : Within m o { s with gtu := x } :=
  h.upd (k := 8) (fun p => by cases p <;> first | exact .inr rfl | exact .inl rfl) hm
theorem Within.in_evr {s : State} {x : EvrSt} (h : Within m o s)
    (hm : Sub 16 m := by first | exact Sub.le (by assumption) ⟨rfl⟩ | exact ⟨rfl⟩) : Within m o { s with evr := x } :=
  h.upd (k := 16) (fun p => by cases p <;> first | exact .inr rfl | exact .inl rfl) hm
theorem Within.in_acc {s : State} {x : AccSt} (h : Within m o s)
    (hm : Sub 32 m := by first | exact Sub.le (by assumption) ⟨rfl⟩ | exact ⟨rfl⟩) : Within m o { s with acc := x } :=
  h.upd (k := 32) (fun p => by cases p <;> first | exact .inr rfl | exact .inl rfl) hm
theorem Within.in_rfc {s : State} {x : Per4 RfcSt} (h : Within m o s)
    (hm : Sub 64 m := by first | exact Sub.le (by assumption) ⟨rfl⟩ | exact ⟨rfl⟩) : Within m o { s with rfc := x } :=
  h.upd (k := 64) (fun p => by cases p <;> first | exact .inr rfl | exact .inl rfl) hm
theorem Within.in_mdm {s : State} {x : Per4 MdmSt} (h : Within m o s)
    (hm : Sub 128 m := by first | exact Sub.le (by assumption) ⟨rfl⟩ | exact ⟨rfl⟩) : Within m o { s with mdm := x } :=
  h.upd (k := 128) (fun p => by cases p <;> first | exact .inr rfl | exact .inl rfl) hm
theorem Within.in_mpdus {s : State} {x : List Mpdu} (h : Within m o s)
    (hm : Sub 256 m := by first | exact Sub.le (by assumption) ⟨rfl⟩ | exact ⟨rfl⟩) : Within m o { s with mpdus := x } :=
  h.upd (k := 256) (fun p => by cases p <;> first | exact .inr rfl | exact .inl rfl) hm
theorem Within.in_rxmpdus {s : State} {x : List RxMpdu} (h : Within m o s)
    (hm : Sub 512 m := by first | exact Sub.le (by assumption) ⟨rfl⟩ | exact ⟨rfl⟩) : Within m o { s with rxmpdus := x } :=
  h.upd (k := 512) (fun p => by cases p <;> first | exact .inr rfl | exact .inl rfl) hm
theorem Within.in_mpduNum {s : State} {x : Nat} (h : Within m o s)
    (hm : Sub 1024 m := by first | exact Sub.le (by assumption) ⟨rfl⟩ | exact ⟨rfl⟩) : Within m o { s with mpduNum := x } :=
  h.upd (k := 1024) (fun p => by cases p <;> first | exact .inr rfl | exact .inl rfl) hm
theorem Within.in_wlan {s : State} {x : WlanSt} (h : Within m o s)
    (hm : Sub 2048 m := by first | exact Sub.le (by assumption) ⟨rfl⟩ | exact ⟨rfl⟩) : Within m o { s with wlan := x } :=
  h.upd (k := 2048) (fun p => by cases p <;> first | exact .inr rfl | exact .inl rfl) hm
theorem Within.in_pkt {s : State} {x : PktSt} (h : Within m o s)
    (hm : Sub 4096 m := by first | exact Sub.le (by assumption) ⟨rfl⟩ | exact ⟨rfl⟩) : Within m o { s with pkt := x } :=
  h.upd (k := 4096) (fun p => by cases p <;> first | exact .inr rfl | exact .inl rfl) hm
theorem Within.in_stp {s : State} {x : StpSt} (h : Within m o s)
    (hm : Sub 8192 m := by first | exact Sub.le (by assumption) ⟨rfl⟩ | exact ⟨rfl⟩) : Within m o { s with stp := x } :=
  h.upd (k := 8192) (fun p => by cases p <;> first | exact .inr rfl | exact .inl rfl) hm
theorem Within.in_fld {s : State} {x : FieldSt} (h : Within m o s)
    (hm : Sub 16384 m := by first | exact Sub.le (by assumption) ⟨rfl⟩ | exact ⟨rfl⟩) : Within m o { s with fld := x } :=
  h.upd (k := 16384) (fun p => by cases p <;> first | exact .inr rfl | exact .inl rfl) hm
theorem Within.in_ppe {s : State} {x : PpeSt} (h : Within m o s)
    (hm : Sub 32768 m := by first | exact Sub.le (by assumption) ⟨rfl⟩ | exact ⟨rfl⟩) : Within m o { s with ppe := x } :=
  h.upd (k := 32768) (fun p => by cases p <;> first | exact .inr rfl | exact .inl rfl) hm
theorem Within.in_eth {s : State} {x : EthSt} (h : Within m o s)
    (hm : Sub 65536 m := by first | exact Sub.le (by assumption) ⟨rfl⟩ | exact ⟨rfl⟩) : Within m o { s with eth := x } :=
  h.upd (k := 65536) (fun p => by cases p <;> first | exact .inr rfl | exact .inl rfl) hm
theorem Within.in_dma {s : State} {x : DmaSt} (h : Within m o s)
    (hm : Sub 131072 m := by first | exact Sub.le (by assumption) ⟨rfl⟩ | exact ⟨rfl⟩) : Within m o { s with dma := x } :=
  h.upd (k := 131072) (fun p => by cases p <;> first | exact .inr rfl | exact .inl rfl) hm
theorem Within.in_cry {s : State} {x : CrySt} (h : Within m o s)
    (hm : Sub 262144 m := by first | exact Sub.le (by assumption) ⟨rfl⟩ | exact ⟨rfl⟩) : Within m o { s with cry := x } :=
  h.upd (k := 262144) (fun p => by cases p <;> first | exact .inr rfl | exact .inl rfl) hm
theorem Within.in_pke {s : State} {x : PkeSt} (h : Within m o s)
    (hm : Sub 524288 m := by first | exact Sub.le (by assumption) ⟨rfl⟩ | exact ⟨rfl⟩) : Within m o { s with pke := x } :=
  h.upd (k := 524288) (fun p => by cases p <;> first | exact .inr rfl | exact .inl rfl) hm
theorem Within.in_ecc {s : State} {x : Sparse Nat} (h : Within m o s)
    (hm : Sub 1048576 m := by first | exact Sub.le (by assumption) ⟨rfl⟩ | exact ⟨rfl⟩) : Within m o { s with ecc := x } :=
  h.upd (k := 1048576) (fun p => by cases p <;> first | exact .inr rfl | exact .inl rfl) hm
theorem Within.in_drc {s : State} {x : DrcSt} (h : Within m o s)
    (hm : Sub 2097152 m := by first | exact Sub.le (by assumption) ⟨rfl⟩ | exact ⟨rfl⟩) : Within m o { s with drc := x } :=
  h.upd (k := 2097152) (fun p => by cases p <;> first | exact .inr rfl | exact .inl rfl) hm
theorem Within.in_ode {s : State} {x : OdeSt} (h : Within m o s)
    (hm : Sub 4194304 m := by first | exact Sub.le (by assumption) ⟨rfl⟩ | exact ⟨rfl⟩) : Within m o { s with ode := x } :=
  h.upd (k := 4194304) (fun p => by cases p <;> first | exact .inr rfl | exact .inl rfl) hm
theorem Within.in_can0 {s : State} {x : CanSt} (h : Within m o s)
    (hm : Sub 8388608 m := by first | exact Sub.le (by assumption) ⟨rfl⟩ | exact ⟨rfl⟩) : Within m o { s with can0 := x } :=
  h.upd (k := 8388608) (fun p => by cases p <;> first | exact .inr rfl | exact .inl rfl) hm
theorem Within.in_can1 {s : State} {x : CanSt} (h : Within m o s)
    (hm : Sub 16777216 m := by first | exact Sub.le (by assumption) ⟨rfl⟩ | exact ⟨rfl⟩) : Within m o { s with can1 := x } :=
  h.upd (k := 16777216) (fun p => by cases p <;> first | exact .inr rfl | exact .inl rfl) hm
theorem Within.in_lum {s : State} {x : LumSt} (h : Within m o s)
    (hm : Sub 33554432 m := by first | exact Sub.le (by assumption) ⟨rfl⟩ | exact ⟨rfl⟩) : Within m o { s with lum := x } :=
  h.upd (k := 33554432) (fun p => by cases p <;> first | exact .inr rfl | exact .inl rfl) hm
theorem Within.in_flash {s : State} {x : List Host.Cell} (h : Within m o s)
    (hm : Sub 67108864 m := by first | exact Sub.le (by assumption) ⟨rfl⟩ | exact ⟨rfl⟩) : Within m o { s with flash := x } :=
  h.upd (k := 67108864) (fun p => by cases p <;> first | exact .inr rfl | exact .inl rfl) hm
theorem Within.in_xspi {s : State} {x : XspiSt} (h : Within m o s)
    (hm : Sub 134217728 m := by first | exact Sub.le (by assumption) ⟨rfl⟩ | exact ⟨rfl⟩) : Within m o { s with xspi := x } :=
  h.upd (k := 134217728) (fun p => by cases p <;> first | exact .inr rfl | exact .inl rfl) hm
theorem Within.in_sys {s : State} {x : SysSt} (h : Within m o s)
    (hm : Sub 268435456 m := by first | exact Sub.le (by assumption) ⟨rfl⟩ | exact ⟨rfl⟩) : Within m o { s with sys := x } :=
  h.upd (k := 268435456) (fun p => by cases p <;> first | exact .inr rfl | exact .inl rfl) hm

theorem Within.in_freeCtr {s : State} {x : Nat} (h : Within m o s) : Within m o { s with freeCtr := x } :=
  h.trans (fun p _ => by cases p <;> rfl)
theorem Within.used {s : State} (h : Within m o s) : Within m o s.used := h.in_freeCtr

theorem Within.ite {a b : State} {c : Prop} [Decidable c] (ha : Within m o a) (hb : Within m o b) :
    Within m o (if c then a else b) := by
  split
  · exact ha
  · exact hb

theorem Within.foldl {β : Type} {f : State → β → State} (hf : ∀ {t : State} {x : β}, Within m o t → Within m o (f t x)) :
    ∀ {l : List β} {s : State}, Within m o s → Within m o (l.foldl f s)
  | [], _, h => h
  | _ :: l, _, h => Within.foldl hf (l := l) (hf h)

/-! Conditions, dependent conditions, folds, and results that hold a state beside other things. -/

theorem Within.dite {c : Prop} [Decidable c] {a : c → State} {b : ¬c → State} (ha : ∀ h, Within m o (a h))
    (hb : ∀ h, Within m o (b h)) : Within m o (dite c a b) := by
  split
  · exact ha _
  · exact hb _

theorem Within.foldlP {α β : Type} {f : State × α → β → State × α}
    (hf : ∀ {t : State × α} {x : β}, Within m o t.1 → Within m o (f t x).1) :
    ∀ {l : List β} {s : State × α}, Within m o s.1 → Within m o (l.foldl f s).1
  | [], _, h => h
  | _ :: l, _, h => Within.foldlP hf (l := l) (hf h)

theorem Within.fst {s : State} {α : Type} {p : State × α} {y : α} (h : Within m o p.1) (e : p = (s, y)) : Within m o s := by
  subst e; exact h

/-- The state that an optional answer holds. -/
def WithinOpt (m : Nat) (o : State) (x : Option State) : Prop := ∀ t, x = some t → Within m o t
/-- The state that an optional pair holds. -/
def WithinOpt1 {α : Type} (m : Nat) (o : State) (x : Option (State × α)) : Prop := ∀ t, x = some t → Within m o t.1
/-- The state that an outcome holds. -/
def WithinOut (m : Nat) (o : State) (x : Host.Outcome State Fault Refusal) : Prop := ∀ t, x = .next t → Within m o t

theorem WithinOpt.none : WithinOpt m o .none := by intro t h; cases h
theorem WithinOpt.some {s : State} (h : Within m o s) : WithinOpt m o (.some s) := by intro t e; cases e; exact h
theorem WithinOpt1.none {α : Type} : WithinOpt1 (α := α) m o .none := by intro t h; cases h
theorem WithinOpt1.some {α : Type} {s : State × α} (h : Within m o s.1) : WithinOpt1 m o (.some s) := by
  intro t e; cases e; exact h
theorem WithinOut.next {s : State} (h : Within m o s) : WithinOut m o (.next s) := by intro t e; cases e; exact h

theorem WithinOpt.ite {a b : Option State} {c : Prop} [Decidable c] (ha : WithinOpt m o a) (hb : WithinOpt m o b) :
    WithinOpt m o (if c then a else b) := by
  split
  · exact ha
  · exact hb
theorem WithinOpt1.ite {α : Type} {a b : Option (State × α)} {c : Prop} [Decidable c] (ha : WithinOpt1 m o a)
    (hb : WithinOpt1 m o b) : WithinOpt1 m o (if c then a else b) := by
  split
  · exact ha
  · exact hb
theorem WithinOut.ite {a b : Host.Outcome State Fault Refusal} {c : Prop} [Decidable c] (ha : WithinOut m o a)
    (hb : WithinOut m o b) : WithinOut m o (if c then a else b) := by
  split
  · exact ha
  · exact hb
theorem Within.iteP {α : Type} {a b : State × α} {c : Prop} [Decidable c] (ha : Within m o a.1) (hb : Within m o b.1) :
    Within m o (if c then a else b).1 := by
  split
  · exact ha
  · exact hb

end Sys2Proof.Machine
end

