-- ==== Sys2Proof/Laws/Within1.lean ====
section
/-! SUPPORT. Which parts of the state every operation touches (`Within`), one lemma for each: RegFile, Ops, RegWrite, Gtu, Mem, MdmBase. -/

namespace Sys2Proof.Machine

set_option Elab.async false
set_option linter.unusedVariables false

variable {m : Nat} {o : State}

/-! RegFile -/

theorem Within.setReg {x0 : State} {x1 : Nat} {x2 : Word} (hx0 : Within m o x0)
    (hm : Sub 1 m := by first | exact Sub.le (by assumption) ⟨rfl⟩ | exact ⟨rfl⟩) : Within m o (State.setReg x0 x1 x2) :=
  .in_regs hx0

theorem Within.wf {x0 : State} {x1 : Fld} {x2 : Nat} (hx0 : Within m o x0)
    (hm : Sub 1 m := by first | exact Sub.le (by assumption) ⟨rfl⟩ | exact ⟨rfl⟩) : Within m o (State.wf x0 x1 x2) :=
  .setReg hx0

theorem Within.setRegN {x0 : State} {x1 : Nat} {x2 : Nat} (hx0 : Within m o x0)
    (hm : Sub 1 m := by first | exact Sub.le (by assumption) ⟨rfl⟩ | exact ⟨rfl⟩) : Within m o (State.setRegN x0 x1 x2) :=
  .setReg hx0

theorem Within.setReg64 {x0 : State} {x1 : Nat} {x2 : Nat} {x3 : Nat} (hx0 : Within m o x0)
    (hm : Sub 1 m := by first | exact Sub.le (by assumption) ⟨rfl⟩ | exact ⟨rfl⟩) : Within m o (State.setReg64 x0 x1 x2 x3) :=
  .setRegN (.setRegN hx0)

theorem Within.wb {x0 : State} {x1 : Fld} {x2 : Bool} (hx0 : Within m o x0)
    (hm : Sub 1 m := by first | exact Sub.le (by assumption) ⟨rfl⟩ | exact ⟨rfl⟩) : Within m o (State.wb x0 x1 x2) :=
  .wf hx0

/-! Ops -/

theorem Within.bumpTo {x0 : State} {x1 : Nat} {x2 : Nat} (hx0 : Within m o x0)
    (hm : Sub 1 m := by first | exact Sub.le (by assumption) ⟨rfl⟩ | exact ⟨rfl⟩) : Within m o (State.bumpTo x0 x1 x2) :=
  .ite (.setRegN hx0) hx0

theorem Within.bump {x0 : State} {x1 : Nat} (hx0 : Within m o x0)
    (hm : Sub 1 m := by first | exact Sub.le (by assumption) ⟨rfl⟩ | exact ⟨rfl⟩) : Within m o (State.bump x0 x1) :=
  .bumpTo hx0

theorem Within.owePulse {x0 : State} {x1 : Nat} (hx0 : Within m o x0)
    (hm : Sub 16 m := by first | exact Sub.le (by assumption) ⟨rfl⟩ | exact ⟨rfl⟩) : Within m o (State.owePulse x0 x1) :=
  .ite (.in_evr hx0) hx0

theorem Within.pend {x0 : State} {x1 : Nat} {x2 : Nat} (hx0 : Within m o x0)
    (hm : Sub 1 m := by first | exact Sub.le (by assumption) ⟨rfl⟩ | exact ⟨rfl⟩) : Within m o (State.pend x0 x1 x2) :=
  .setReg hx0

theorem Within.pendAll {x0 : State} {x1 : Nat} {x2 : List Nat} (hx0 : Within m o x0)
    (hm : Sub 17 m := by first | exact Sub.le (by assumption) ⟨rfl⟩ | exact ⟨rfl⟩) : Within m o (State.pendAll x0 x1 x2) := by
  induction x2 generalizing x0 x1 with
  | nil =>
    exact hx0
  | cons y l ih =>
    rw [State.pendAll]
    exact ih (.ite (.owePulse (.pend hx0)) hx0)

theorem Within.countEvent {x0 : State} {x1 : Nat} (hx0 : Within m o x0)
    (hm : Sub 1 m := by first | exact Sub.le (by assumption) ⟨rfl⟩ | exact ⟨rfl⟩) : Within m o (State.countEvent x0 x1) :=
  .wf hx0

theorem Within.raisePins {x0 : State} {x1 : Nat} (hx0 : Within m o x0)
    (hm : Sub 17 m := by first | exact Sub.le (by assumption) ⟨rfl⟩ | exact ⟨rfl⟩) : Within m o (State.raisePins x0 x1) :=
  .pendAll (.countEvent hx0)

theorem Within.subscribe {x0 : State} {x1 : Nat} (hx0 : Within m o x0)
    (hm : Sub 17 m := by first | exact Sub.le (by assumption) ⟨rfl⟩ | exact ⟨rfl⟩) : Within m o (State.subscribe x0 x1) :=
  .ite (.in_evr hx0) (.ite (.in_evr hx0) (.raisePins (.wf hx0)))

theorem Within.raise {x0 : State} {x1 : Nat} (hx0 : Within m o x0)
    (hm : Sub 17 m := by first | exact Sub.le (by assumption) ⟨rfl⟩ | exact ⟨rfl⟩) : Within m o (State.raise x0 x1) :=
  .ite (.subscribe (.raisePins hx0)) (.raisePins hx0)

theorem Within.syncState {x0 : State} {x1 : Nat} {x2 : Fld} (hx0 : Within m o x0)
    (hm : Sub 1 m := by first | exact Sub.le (by assumption) ⟨rfl⟩ | exact ⟨rfl⟩) : Within m o (State.syncState x0 x1 x2) :=
  .ite (.ite (.wf hx0) hx0) (.ite hx0 (.wf hx0))

theorem Within.syncStates {x0 : State} (hx0 : Within m o x0)
    (hm : Sub 17 m := by first | exact Sub.le (by assumption) ⟨rfl⟩ | exact ⟨rfl⟩) : Within m o (State.syncStates x0) := by
  unfold State.syncStates
  extract_lets -merge +onlyGivenNames t0 t2 t4 t5
  have h1 : Within m o (t0) := .syncState (.syncState (.syncState hx0))
  have h3 : Within m o (t2) := .syncState h1
  have h6 : Within m o (t5) := .syncState h3
  clear_value t0 t2 t4 t5
  exact .ite h6 (.raise h6)

theorem Within.readyEvents {x0 : State} {x1 : Nat} {x2 : Nat} {x3 : Nat} (hx0 : Within m o x0)
    (hm : Sub 17 m := by first | exact Sub.le (by assumption) ⟨rfl⟩ | exact ⟨rfl⟩) : Within m o (State.readyEvents x0 x1 x2 x3) := by
  induction x3 generalizing x0 x1 x2 with
  | zero =>
    exact hx0
  | succ n ih =>
    rw [State.readyEvents]
    exact .ite (.raise (ih hx0)) (ih hx0)

theorem Within.setSteps {x0 : State} {x1 : Nat} (hx0 : Within m o x0)
    (hm : Sub 17 m := by first | exact Sub.le (by assumption) ⟨rfl⟩ | exact ⟨rfl⟩) : Within m o (State.setSteps x0 x1) := by
  unfold State.setSteps
  extract_lets -merge +onlyGivenNames t0 t1
  have h2 : Within m o (t1) := .syncStates (.setRegN hx0)
  clear_value t0 t1
  exact .ite (.readyEvents h2) h2

theorem Within.setSys {x0 : State} {x1 : SysSt → SysSt} (hx0 : Within m o x0)
    (hm : Sub 268435456 m := by first | exact Sub.le (by assumption) ⟨rfl⟩ | exact ⟨rfl⟩) : Within m o (State.setSys x0 x1) :=
  .in_sys hx0

theorem Within.emit {x0 : State} {x1 : Out} (hx0 : Within m o x0)
    (hm : Sub 4 m := by first | exact Sub.le (by assumption) ⟨rfl⟩ | exact ⟨rfl⟩) : Within m o (State.emit x0 x1) :=
  .in_out hx0

theorem Within.busErr {x0 : State} {x1 : Init} {x2 : Nat} (hx0 : Within m o x0)
    (hm : Sub 4 m := by first | exact Sub.le (by assumption) ⟨rfl⟩ | exact ⟨rfl⟩) : Within m o (State.busErr x0 x1 x2) :=
  .emit hx0

theorem Within.deny {x0 : State} {x1 : Init} {x2 : Nat} (hx0 : Within m o x0)
    (hm : Sub 53 m := by first | exact Sub.le (by assumption) ⟨rfl⟩ | exact ⟨rfl⟩) : Within m o (State.deny x0 x1 x2) := by
  unfold State.deny
  extract_lets -merge +onlyGivenNames d0 d1 t2
  have h3 : Within m o (t2) := .ite (.in_acc hx0) (.in_acc hx0)
  clear_value t2
  exact .emit (.raise h3)

theorem Within.onRead {x0 : State} {x1 : Init} {x2 : Nat} {x3 : State → State} (hx0 : Within m o x0) (hx3 : ∀ {y0}, Within m o y0 → Within m o (x3 y0))
    (hm : Sub 53 m := by first | exact Sub.le (by assumption) ⟨rfl⟩ | exact ⟨rfl⟩) : Within m o (State.onRead x0 x1 x2 x3) :=
  .ite (.ite (.busErr hx0) (hx3 hx0)) (.deny hx0)

theorem Within.answer {x0 : State} {x1 : Init} {x2 : Word} (hx0 : Within m o x0)
    (hm : Sub 4 m := by first | exact Sub.le (by assumption) ⟨rfl⟩ | exact ⟨rfl⟩) : Within m o (State.answer x0 x1 x2) :=
  .emit hx0

theorem Within.errSet {x0 : State} {x1 : Nat} {x2 : Nat} (hx0 : Within m o x0)
    (hm : Sub 1 m := by first | exact Sub.le (by assumption) ⟨rfl⟩ | exact ⟨rfl⟩) : Within m o (State.errSet x0 x1 x2) :=
  .setRegN hx0

theorem Within.refuse {x0 : State} {x1 : Nat} {x2 : Nat} {x3 : Nat} (hx0 : Within m o x0)
    (hm : Sub 17 m := by first | exact Sub.le (by assumption) ⟨rfl⟩ | exact ⟨rfl⟩) : Within m o (State.refuse x0 x1 x2 x3) :=
  .raise (.errSet hx0)

theorem Within.onWrite {x0 : State} {x1 : Init} {x2 : Nat} {x3 : State → State} (hx0 : Within m o x0) (hx3 : ∀ {y0}, Within m o y0 → Within m o (x3 y0))
    (hm : Sub 53 m := by first | exact Sub.le (by assumption) ⟨rfl⟩ | exact ⟨rfl⟩) : Within m o (State.onWrite x0 x1 x2 x3) :=
  .ite (.ite (.busErr hx0) (.ite (.refuse hx0) (hx3 hx0))) (.deny hx0)

theorem Within.raiseAll {x0 : State} {x1 : List Nat} (hx0 : Within m o x0)
    (hm : Sub 17 m := by first | exact Sub.le (by assumption) ⟨rfl⟩ | exact ⟨rfl⟩) : Within m o (State.raiseAll x0 x1) := by
  induction x1 generalizing x0 with
  | nil =>
    exact hx0
  | cons y l ih =>
    rw [State.raiseAll]
    exact ih (.raise hx0)

theorem Within.okSet {x0 : State} {x1 : Nat} {x2 : Nat} (hx0 : Within m o x0)
    (hm : Sub 1 m := by first | exact Sub.le (by assumption) ⟨rfl⟩ | exact ⟨rfl⟩) : Within m o (State.okSet x0 x1 x2) :=
  .setReg hx0

theorem Within.setStep {x0 : State} {x1 : Nat} {x2 : Bool} (hx0 : Within m o x0)
    (hm : Sub 17 m := by first | exact Sub.le (by assumption) ⟨rfl⟩ | exact ⟨rfl⟩) : Within m o (State.setStep x0 x1 x2) :=
  .setSteps hx0

theorem Within.bumpBy {x0 : State} {x1 : Nat} {x2 : Nat} (hx0 : Within m o x0)
    (hm : Sub 1 m := by first | exact Sub.le (by assumption) ⟨rfl⟩ | exact ⟨rfl⟩) : Within m o (State.bumpBy x0 x1 x2) :=
  .setRegN hx0

theorem Within.limit {x0 : State} {x1 : Nat} {x2 : Bool} (hx0 : Within m o x0)
    (hm : Sub 268435456 m := by first | exact Sub.le (by assumption) ⟨rfl⟩ | exact ⟨rfl⟩) : Within m o (State.limit x0 x1 x2) :=
  .setSys hx0

/-! RegWrite -/

theorem Within.refuseWrite {x0 : State} {x1 : Nat} {x2 : Nat} {x3 : Nat} (hx0 : Within m o x0)
    (hm : Sub 17 m := by first | exact Sub.le (by assumption) ⟨rfl⟩ | exact ⟨rfl⟩) : Within m o (State.refuseWrite x0 x1 x2 x3) := by
  unfold State.refuseWrite
  extract_lets -merge +onlyGivenNames t0
  clear_value t0
  exact .raise (.ite (.wf hx0) (.ite hx0 (.errSet hx0)))

theorem Within.fieldWrite {x0 : State} {x1 : Nat} {x2 : Window} {x3 : RegRow} {x4 : Nat} {x5 : Word} (hx0 : Within m o x0)
    (hm : Sub 17 m := by first | exact Sub.le (by assumption) ⟨rfl⟩ | exact ⟨rfl⟩) : Within m o (State.fieldWrite x0 x1 x2 x3 x4 x5) := by
  unfold State.fieldWrite
  extract_lets -merge +onlyGivenNames t0 t1 t2
  clear_value t0 t1 t2
  exact .ite (.refuseWrite hx0) (.ite (.refuseWrite hx0) (.ite (.refuseWrite hx0) (.setReg hx0)))

theorem Within.writeReg {x0 : State} {x1 : Nat} {x2 : Nat} {x3 : Word} (hx0 : Within m o x0)
    (hm : Sub 17 m := by first | exact Sub.le (by assumption) ⟨rfl⟩ | exact ⟨rfl⟩) : Within m o (State.writeReg x0 x1 x2 x3) := by
  unfold State.writeReg
  split
  · exact hx0
  · split
    · exact hx0
    · exact .fieldWrite hx0

/-! Gtu -/

theorem Within.gtuNowRead {x0 : Init} {x1 : State} (hx1 : Within m o x1)
    (hm : Sub 12 m := by first | exact Sub.le (by assumption) ⟨rfl⟩ | exact ⟨rfl⟩) : Within m o (State.gtuNowRead x0 x1) :=
  .answer (.in_gtu hx1)

theorem Within.xlastRead {x0 : Init} {x1 : State} (hx1 : Within m o x1)
    (hm : Sub 5 m := by first | exact Sub.le (by assumption) ⟨rfl⟩ | exact ⟨rfl⟩) : Within m o (State.xlastRead x0 x1) :=
  .answer (.setReg hx1)

theorem Within.gtuEnd {x0 : State} {x1 : List Nat} (hx0 : Within m o x0)
    (hm : Sub 17 m := by first | exact Sub.le (by assumption) ⟨rfl⟩ | exact ⟨rfl⟩) : Within m o (State.gtuEnd x0 x1) := by
  unfold State.gtuEnd
  extract_lets -merge +onlyGivenNames t0 t1 t2 t4 t5
  have h3 : Within m o (t2) := .wb hx0
  clear_value t0 t1 t2 t4 t5
  exact .raiseAll (.wf h3)

theorem Within.setInc {x0 : State} {x1 : Nat} (hx0 : Within m o x0)
    (hm : Sub 1 m := by first | exact Sub.le (by assumption) ⟨rfl⟩ | exact ⟨rfl⟩) : Within m o (State.setInc x0 x1) := by
  unfold State.setInc
  extract_lets -merge +onlyGivenNames t0
  have h1 : Within m o (t0) := .setRegN hx0
  clear_value t0
  exact .setRegN h1

theorem Within.gtuCtrlWrite {x0 : Nat} {x1 : Word} {x2 : State} (hx2 : Within m o x2)
    (hm : Sub 17 m := by first | exact Sub.le (by assumption) ⟨rfl⟩ | exact ⟨rfl⟩) : Within m o (State.gtuCtrlWrite x0 x1 x2) := by
  unfold State.gtuCtrlWrite
  extract_lets -merge +onlyGivenNames t0 t1
  have h2 : Within m o (t1) := .writeReg hx2
  clear_value t0 t1
  exact .ite (.gtuEnd (.setInc h2)) h2

theorem Within.setOfs {x0 : State} {x1 : Int} (hx0 : Within m o x0)
    (hm : Sub 9 m := by first | exact Sub.le (by assumption) ⟨rfl⟩ | exact ⟨rfl⟩) : Within m o (State.setOfs x0 x1) := by
  unfold State.setOfs
  extract_lets -merge +onlyGivenNames t0 t1 t3
  have h2 : Within m o (t1) := .setRegN hx0
  have h4 : Within m o (t3) := .wf (.wf h2)
  clear_value t0 t1 t3
  exact .in_gtu h4

theorem Within.gtuOk {x0 : State} (hx0 : Within m o x0)
    (hm : Sub 1 m := by first | exact Sub.le (by assumption) ⟨rfl⟩ | exact ⟨rfl⟩) : Within m o (State.gtuOk x0) :=
  .okSet hx0

theorem Within.gcAbort {x0 : State} {x1 : List Nat} (hx0 : Within m o x0)
    (hm : Sub 1 m := by first | exact Sub.le (by assumption) ⟨rfl⟩ | exact ⟨rfl⟩) : Within m o (State.gcAbort x0 x1) := by
  induction x1 generalizing x0 with
  | nil =>
    exact hx0
  | cons y l ih =>
    rw [State.gcAbort]
    exact ih (.ite (.wf (.wf (.wf hx0))) hx0)

theorem Within.gtuEnter {x0 : State} {x1 : Nat} (hx0 : Within m o x0)
    (hm : Sub 9 m := by first | exact Sub.le (by assumption) ⟨rfl⟩ | exact ⟨rfl⟩) : Within m o (State.gtuEnter x0 x1) := by
  unfold State.gtuEnter
  extract_lets -merge +onlyGivenNames t0 t2 t4
  have h1 : Within m o (t0) := .wf hx0
  have h3 : Within m o (t2) := .ite h1 (.setRegN h1)
  have h5 : Within m o (t4) := .ite h3 (.wf h3)
  clear_value t0 t2 t4
  exact .in_gtu h5

theorem Within.enterHoldover {x0 : State} {x1 : Bool} (hx0 : Within m o x0)
    (hm : Sub 9 m := by first | exact Sub.le (by assumption) ⟨rfl⟩ | exact ⟨rfl⟩) : Within m o (State.enterHoldover x0 x1) := by
  unfold State.enterHoldover
  extract_lets -merge +onlyGivenNames t0
  have h1 : Within m o (t0) := .gtuEnter hx0
  clear_value t0
  exact .in_gtu h1

theorem Within.alignStep {x0 : State} {x1 : Int} {x2 : Bool} (hx0 : Within m o x0)
    (hm : Sub 25 m := by first | exact Sub.le (by assumption) ⟨rfl⟩ | exact ⟨rfl⟩) : Within m o (State.alignStep x0 x1 x2) := by
  unfold State.alignStep
  extract_lets -merge +onlyGivenNames t0 t1 t3 d4 t5 t7 d9 t10 t12
  have h2 : Within m o (t1) := .gcAbort hx0
  have h6 : Within m o (t5) := .in_gtu h2
  have h8 : Within m o (t7) := .setOfs h6
  have h11 : Within m o (t10) := .in_gtu h8
  clear_value t0 t1 t3 t5 t7 t10 t12
  refine .ite ?_ ?_
  · exact .gtuEnd (.gtuEnter h11)
  · extract_lets -merge +onlyGivenNames t13
    have h14 : Within m o (t13) := .enterHoldover h11
    clear_value t13
    exact .gtuEnd (.wf h14)

theorem Within.gtuReject {x0 : State} (hx0 : Within m o x0)
    (hm : Sub 17 m := by first | exact Sub.le (by assumption) ⟨rfl⟩ | exact ⟨rfl⟩) : Within m o (State.gtuReject x0) :=
  .refuse hx0

theorem Within.gtuSeed {x0 : State} (hx0 : Within m o x0)
    (hm : Sub 25 m := by first | exact Sub.le (by assumption) ⟨rfl⟩ | exact ⟨rfl⟩) : Within m o (State.gtuSeed x0) :=
  .ite (.gtuOk (.alignStep hx0)) (.gtuReject hx0)

theorem Within.gtuRelearn {x0 : State} (hx0 : Within m o x0)
    (hm : Sub 25 m := by first | exact Sub.le (by assumption) ⟨rfl⟩ | exact ⟨rfl⟩) : Within m o (State.gtuRelearn x0) :=
  .ite (.gtuOk (.in_gtu hx0)) (.gtuReject hx0)

theorem Within.gtuHold {x0 : State} (hx0 : Within m o x0)
    (hm : Sub 25 m := by first | exact Sub.le (by assumption) ⟨rfl⟩ | exact ⟨rfl⟩) : Within m o (State.gtuHold x0) := by
  unfold State.gtuHold
  refine .ite ?_ ?_
  · extract_lets -merge +onlyGivenNames t0
    have h1 : Within m o (t0) := .enterHoldover hx0
    clear_value t0
    exact .gtuOk (.gtuEnd (.wf h1))
  · exact .gtuReject hx0

theorem Within.setSlew {x0 : State} {x1 : Int} (hx0 : Within m o x0)
    (hm : Sub 1 m := by first | exact Sub.le (by assumption) ⟨rfl⟩ | exact ⟨rfl⟩) : Within m o (State.setSlew x0 x1) :=
  .wf (.setRegN hx0)

theorem Within.mainsReturn {x0 : State} (hx0 : Within m o x0)
    (hm : Sub 25 m := by first | exact Sub.le (by assumption) ⟨rfl⟩ | exact ⟨rfl⟩) : Within m o (State.mainsReturn x0) := by
  unfold State.mainsReturn
  extract_lets -merge +onlyGivenNames t0 d1 t2
  have h3 : Within m o (t2) := .in_gtu hx0
  clear_value t0 t2
  refine .ite ?_ ?_
  · extract_lets -merge +onlyGivenNames t4 t5
    have h6 : Within m o (t5) := .gtuEnter (.setOfs h3)
    clear_value t4 t5
    exact .gtuEnd h6
  · extract_lets -merge +onlyGivenNames t7
    have h8 : Within m o (t7) := .setSlew (.gtuEnter h3)
    clear_value t7
    exact .ite (.gtuEnd (.gtuEnter h8)) (.gtuEnd h8)

theorem Within.gtuResume {x0 : State} (hx0 : Within m o x0)
    (hm : Sub 25 m := by first | exact Sub.le (by assumption) ⟨rfl⟩ | exact ⟨rfl⟩) : Within m o (State.gtuResume x0) :=
  .ite (.ite (.gtuOk (.mainsReturn hx0)) (.gtuOk (.in_gtu hx0))) (.gtuReject hx0)

theorem Within.gtuFree {x0 : State} (hx0 : Within m o x0)
    (hm : Sub 25 m := by first | exact Sub.le (by assumption) ⟨rfl⟩ | exact ⟨rfl⟩) : Within m o (State.gtuFree x0) := by
  unfold State.gtuFree
  refine .ite ?_ ?_
  · exact .gtuOk hx0
  · extract_lets -merge +onlyGivenNames t0
    clear_value t0
    exact .gtuOk (.gtuEnd (.gtuEnter (.gcAbort hx0)))

theorem Within.gtuCmd {x0 : State} {x1 : Nat} (hx0 : Within m o x0)
    (hm : Sub 25 m := by first | exact Sub.le (by assumption) ⟨rfl⟩ | exact ⟨rfl⟩) : Within m o (State.gtuCmd x0 x1) :=
  .ite (.gtuSeed hx0) (.ite (.gtuRelearn hx0) (.ite (.gtuHold hx0) (.ite (.gtuResume hx0) (.ite (.gtuFree hx0) (.refuse hx0)))))

theorem Within.pmapCommit {x0 : State} (hx0 : Within m o x0)
    (hm : Sub 25 m := by first | exact Sub.le (by assumption) ⟨rfl⟩ | exact ⟨rfl⟩) : Within m o (State.pmapCommit x0) := by
  simp only [State.pmapCommit]
  refine .ite ?_ ?_
  · exact .gtuEnd (.wf (.in_gtu (.used (.setInc (.setRegN (.wf (by
      split
      · exact .in_gtu hx0
      · exact .in_gtu (.ite (.setRegN (.in_gtu hx0)) (.in_gtu hx0)))))))))
  · exact .gtuEnd (.setRegN (.wf (by
      split
      · exact .in_gtu hx0
      · exact .in_gtu (.ite (.setRegN (.in_gtu hx0)) (.in_gtu hx0)))))

theorem Within.loopInc {x0 : State} (hx0 : Within m o x0)
    (hm : Sub 1 m := by first | exact Sub.le (by assumption) ⟨rfl⟩ | exact ⟨rfl⟩) : Within m o (State.loopInc x0) := by
  unfold State.loopInc
  refine .ite ?_ ?_
  · extract_lets -merge +onlyGivenNames t0
    clear_value t0
    exact .used (.setInc hx0)
  · exact hx0

theorem Within.crossingMark {x0 : State} {x1 : Nat} (hx0 : Within m o x0)
    (hm : Sub 9 m := by first | exact Sub.le (by assumption) ⟨rfl⟩ | exact ⟨rfl⟩) : Within m o (State.crossingMark x0 x1) := by
  unfold State.crossingMark
  extract_lets -merge +onlyGivenNames t0 t1 t2 t4
  have h3 : Within m o (t2) := .setRegN hx0
  have h5 : Within m o (t4) := .wf (.wf h3)
  clear_value t0 t1 t2 t4
  exact .in_gtu h5

theorem Within.countSample {x0 : State} (hx0 : Within m o x0)
    (hm : Sub 1 m := by first | exact Sub.le (by assumption) ⟨rfl⟩ | exact ⟨rfl⟩) : Within m o (State.countSample x0) :=
  .ite (.used (.setRegN hx0)) (.setRegN hx0)

theorem Within.learn {x0 : State} {x1 : Int} (hx0 : Within m o x0)
    (hm : Sub 25 m := by first | exact Sub.le (by assumption) ⟨rfl⟩ | exact ⟨rfl⟩) : Within m o (State.learn x0 x1) := by
  unfold State.learn
  extract_lets -merge +onlyGivenNames t0 d1 t2
  have h3 : Within m o (t2) := .in_gtu hx0
  clear_value t0 t2
  refine .ite ?_ ?_
  · exact .gtuEnd h3
  · refine .ite ?_ ?_
    · exact .gtuEnd (.in_gtu h3)
    · extract_lets -merge +onlyGivenNames t4
      clear_value t4
      refine .ite ?_ ?_
      · extract_lets -merge +onlyGivenNames d5 t6 t8
        have h7 : Within m o (t6) := .in_gtu h3
        have h9 : Within m o (t8) := .gtuEnter (.setOfs h7)
        clear_value t6 t8
        exact .gtuEnd (.setSlew h9)
      · exact .alignStep h3

theorem Within.track {x0 : State} {x1 : Int} (hx0 : Within m o x0)
    (hm : Sub 25 m := by first | exact Sub.le (by assumption) ⟨rfl⟩ | exact ⟨rfl⟩) : Within m o (State.track x0 x1) := by
  unfold State.track
  refine .ite ?_ ?_
  · extract_lets -merge +onlyGivenNames d0 t1 t3 t4
    have h2 : Within m o (t1) := .in_gtu hx0
    clear_value t1 t3 t4
    refine .ite ?_ ?_
    · exact .gtuEnd h2
    · extract_lets -merge +onlyGivenNames t5
      have h6 : Within m o (t5) := .setOfs h2
      clear_value t5
      exact .gtuEnd h6
  · extract_lets -merge +onlyGivenNames t7
    clear_value t7
    refine .ite ?_ ?_
    · exact .gtuEnd (.in_gtu hx0)
    · extract_lets -merge +onlyGivenNames d8 t9
      have h10 : Within m o (t9) := .in_gtu hx0
      clear_value t9
      refine .ite ?_ ?_
      · extract_lets -merge +onlyGivenNames t11 t12
        have h13 : Within m o (t12) := .gtuEnter (.setOfs h10)
        clear_value t11 t12
        exact .gtuEnd (.setSlew h13)
      · exact .gtuEnd h10

theorem Within.memberSample {x0 : State} {x1 : Int} (hx0 : Within m o x0)
    (hm : Sub 25 m := by first | exact Sub.le (by assumption) ⟨rfl⟩ | exact ⟨rfl⟩) : Within m o (State.memberSample x0 x1) := by
  unfold State.memberSample
  extract_lets -merge +onlyGivenNames d0 t1 t3
  have h2 : Within m o (t1) := .in_gtu hx0
  refine .ite ?_ ?_
  · exact .learn h2
  · refine .ite ?_ ?_
    · exact .track h2
    · refine .ite ?_ ?_
      · extract_lets -merge +onlyGivenNames t4 t5
        have h6 : Within m o (t5) := .used (.setInc h2)
        exact .gtuEnd (.wf h6)
      · exact .gtuEnd h2

theorem Within.beaconSample {x0 : State} {x1 : Nat} {x2 : GTime} {x3 : GTime} (hx0 : Within m o x0)
    (hm : Sub 25 m := by first | exact Sub.le (by assumption) ⟨rfl⟩ | exact ⟨rfl⟩) : Within m o (State.beaconSample x0 x1 x2 x3) := by
  unfold State.beaconSample
  refine .ite ?_ ?_
  · exact hx0
  · extract_lets -merge +onlyGivenNames t0 t1 t2 t4
    have h3 : Within m o (t2) := .countSample (.setRegN hx0)
    have h5 : Within m o (t4) := .wf h3
    clear_value t0 t1 t2 t4
    exact .ite (.memberSample h5) h5

theorem Within.missCrossing {x0 : State} (hx0 : Within m o x0)
    (hm : Sub 9 m := by first | exact Sub.le (by assumption) ⟨rfl⟩ | exact ⟨rfl⟩) : Within m o (State.missCrossing x0) := by
  unfold State.missCrossing
  extract_lets -merge +onlyGivenNames t0
  have h1 : Within m o (t0) := .wf (.wf hx0)
  clear_value t0
  exact .in_gtu h1

theorem Within.execReplicaBroadcast {x0 : State} (hx0 : Within m o x0)
    (hm : Sub 8 m := by first | exact Sub.le (by assumption) ⟨rfl⟩ | exact ⟨rfl⟩) : WithinOut m o (execReplicaBroadcast x0) := by
  unfold Sys2Proof.Machine.execReplicaBroadcast
  exact .next (.in_gtu hx0)

theorem Within.execBcnValidExpire {x0 : State} (hx0 : Within m o x0)
    (hm : Sub 1 m := by first | exact Sub.le (by assumption) ⟨rfl⟩ | exact ⟨rfl⟩) : WithinOut m o (execBcnValidExpire x0) := by
  unfold Sys2Proof.Machine.execBcnValidExpire
  exact .next (.wf hx0)

theorem Within.crossingAct {x0 : State} (hx0 : Within m o x0)
    (hm : Sub 25 m := by first | exact Sub.le (by assumption) ⟨rfl⟩ | exact ⟨rfl⟩) : Within m o (State.crossingAct x0) := by
  unfold State.crossingAct
  extract_lets -merge +onlyGivenNames t0 t1
  clear_value t0 t1
  refine .ite ?_ ?_
  · exact .ite (.mainsReturn hx0) hx0
  · refine .ite ?_ ?_
    · extract_lets -merge +onlyGivenNames t2
      have h3 : Within m o (t2) := .loopInc (.setSlew hx0)
      clear_value t2
      exact .ite (.gtuEnd (.gtuEnter h3)) (.gtuEnd h3)
    · refine .ite ?_ ?_
      · extract_lets -merge +onlyGivenNames t4 d6 t7
        have h5 : Within m o (t4) := .gtuEnter (.loopInc hx0)
        have h8 : Within m o (t7) := .in_gtu h5
        clear_value t4 t7
        exact .gtuEnd h8
      · exact .gtuEnd (.loopInc hx0)

theorem Within.crossingBad {x0 : State} (hx0 : Within m o x0)
    (hm : Sub 9 m := by first | exact Sub.le (by assumption) ⟨rfl⟩ | exact ⟨rfl⟩) : Within m o (State.crossingBad x0) := by
  unfold State.crossingBad
  extract_lets -merge +onlyGivenNames t0
  have h1 : Within m o (t0) := .wf hx0
  clear_value t0
  exact .in_gtu h1

theorem Within.execMainsCrossing {x0 : Nat} {x1 : Nat} {x2 : State} (hx2 : Within m o x2)
    (hm : Sub 25 m := by first | exact Sub.le (by assumption) ⟨rfl⟩ | exact ⟨rfl⟩) : WithinOut m o (execMainsCrossing x0 x1 x2) := by
  unfold Sys2Proof.Machine.execMainsCrossing
  refine .ite ?_ ?_
  · exact .next hx2
  · extract_lets -merge +onlyGivenNames t0
    have h1 : Within m o (t0) := .ite hx2 (.setRegN hx2)
    clear_value t0
    refine .ite ?_ ?_
    · exact .next (.crossingAct (.crossingMark h1))
    · exact .next (.crossingBad h1)

theorem Within.execCrossingMissing {x0 : State} (hx0 : Within m o x0)
    (hm : Sub 25 m := by first | exact Sub.le (by assumption) ⟨rfl⟩ | exact ⟨rfl⟩) : WithinOut m o (execCrossingMissing x0) := by
  unfold Sys2Proof.Machine.execCrossingMissing
  refine .ite ?_ ?_
  · extract_lets -merge +onlyGivenNames t0 t1
    have h2 : Within m o (t1) := .missCrossing hx0
    clear_value t0 t1
    refine .ite ?_ ?_
    · exact .next h2
    · refine .ite ?_ ?_
      · exact .next (.gtuEnd (.gtuEnter h2))
      · extract_lets -merge +onlyGivenNames t3
        have h4 : Within m o (t3) := .enterHoldover h2
        clear_value t3
        exact .next (.gtuEnd (.wf h4))
  · exact .next hx0

theorem Within.execHoldEstimateUpdate {x0 : State} (hx0 : Within m o x0)
    (hm : Sub 17 m := by first | exact Sub.le (by assumption) ⟨rfl⟩ | exact ⟨rfl⟩) : WithinOut m o (execHoldEstimateUpdate x0) := by
  unfold Sys2Proof.Machine.execHoldEstimateUpdate
  refine .ite ?_ ?_
  · exact .next (.gtuEnd (.wf hx0))
  · refine .ite ?_ ?_
    · exact .next (.gtuEnd (.wf hx0))
    · exact .next hx0

theorem Within.execBeaconSample {x0 : Fin 4} {x1 : GTime} {x2 : GTime} {x3 : State} (hx3 : Within m o x3)
    (hm : Sub 25 m := by first | exact Sub.le (by assumption) ⟨rfl⟩ | exact ⟨rfl⟩) : WithinOut m o (execBeaconSample x0 x1 x2 x3) := by
  unfold Sys2Proof.Machine.execBeaconSample
  exact .next (.beaconSample hx3)

theorem Within.execSeed {x0 : Init} {x1 : State} (hx1 : Within m o x1)
    (hm : Sub 61 m := by first | exact Sub.le (by assumption) ⟨rfl⟩ | exact ⟨rfl⟩) : WithinOut m o (execSeed x0 x1) := by
  unfold Sys2Proof.Machine.execSeed
  exact .next (.onWrite hx1 (fun h0 => .gtuSeed h0))

theorem Within.execRelearn {x0 : Init} {x1 : State} (hx1 : Within m o x1)
    (hm : Sub 61 m := by first | exact Sub.le (by assumption) ⟨rfl⟩ | exact ⟨rfl⟩) : WithinOut m o (execRelearn x0 x1) := by
  unfold Sys2Proof.Machine.execRelearn
  exact .next (.onWrite hx1 (fun h0 => .gtuRelearn h0))

theorem Within.execHold {x0 : Init} {x1 : State} (hx1 : Within m o x1)
    (hm : Sub 61 m := by first | exact Sub.le (by assumption) ⟨rfl⟩ | exact ⟨rfl⟩) : WithinOut m o (execHold x0 x1) := by
  unfold Sys2Proof.Machine.execHold
  exact .next (.onWrite hx1 (fun h0 => .gtuHold h0))

theorem Within.execResume {x0 : Init} {x1 : State} (hx1 : Within m o x1)
    (hm : Sub 61 m := by first | exact Sub.le (by assumption) ⟨rfl⟩ | exact ⟨rfl⟩) : WithinOut m o (execResume x0 x1) := by
  unfold Sys2Proof.Machine.execResume
  exact .next (.onWrite hx1 (fun h0 => .gtuResume h0))

theorem Within.execGtuFree {x0 : Init} {x1 : State} (hx1 : Within m o x1)
    (hm : Sub 61 m := by first | exact Sub.le (by assumption) ⟨rfl⟩ | exact ⟨rfl⟩) : WithinOut m o (execGtuFree x0 x1) := by
  unfold Sys2Proof.Machine.execGtuFree
  exact .next (.onWrite hx1 (fun h0 => .gtuFree h0))

theorem Within.execPmapCommit {x0 : Init} {x1 : State} (hx1 : Within m o x1)
    (hm : Sub 61 m := by first | exact Sub.le (by assumption) ⟨rfl⟩ | exact ⟨rfl⟩) : WithinOut m o (execPmapCommit x0 x1) := by
  unfold Sys2Proof.Machine.execPmapCommit
  exact .next (.onWrite hx1 (fun h0 => .pmapCommit h0))

theorem Within.execPmapExpire {x0 : State} (hx0 : Within m o x0)
    (hm : Sub 17 m := by first | exact Sub.le (by assumption) ⟨rfl⟩ | exact ⟨rfl⟩) : WithinOut m o (execPmapExpire x0) := by
  unfold Sys2Proof.Machine.execPmapExpire
  extract_lets -merge +onlyGivenNames t0
  have h1 : Within m o (t0) := .wf hx0
  clear_value t0
  exact .next (.gtuEnd (.setRegN h1))

theorem Within.execGtuCtrlWrite {x0 : Init} {x1 : Word} {x2 : State} (hx2 : Within m o x2)
    (hm : Sub 53 m := by first | exact Sub.le (by assumption) ⟨rfl⟩ | exact ⟨rfl⟩) : WithinOut m o (execGtuCtrlWrite x0 x1 x2) := by
  unfold Sys2Proof.Machine.execGtuCtrlWrite
  exact .next (.onWrite hx2 (fun h0 => .gtuCtrlWrite h0))

theorem Within.execGtuNowRead {x0 : Init} {x1 : State} (hx1 : Within m o x1)
    (hm : Sub 61 m := by first | exact Sub.le (by assumption) ⟨rfl⟩ | exact ⟨rfl⟩) : WithinOut m o (execGtuNowRead x0 x1) := by
  unfold Sys2Proof.Machine.execGtuNowRead
  exact .next (.onRead hx1 (fun h0 => .gtuNowRead h0))

theorem Within.execXlastRead {x0 : Init} {x1 : State} (hx1 : Within m o x1)
    (hm : Sub 53 m := by first | exact Sub.le (by assumption) ⟨rfl⟩ | exact ⟨rfl⟩) : WithinOut m o (execXlastRead x0 x1) := by
  unfold Sys2Proof.Machine.execXlastRead
  exact .next (.onRead hx1 (fun h0 => .xlastRead h0))

theorem Within.tick {x0 : State} (hx0 : Within m o x0)
    (hm : Sub 8 m := by first | exact Sub.le (by assumption) ⟨rfl⟩ | exact ⟨rfl⟩) : Within m o (State.tick x0) :=
  .in_gtu hx0

/-! Mem -/

theorem Within.setEcc {x0 : State} {x1 : Nat} {x2 : Nat} (hx0 : Within m o x0)
    (hm : Sub 1048576 m := by first | exact Sub.le (by assumption) ⟨rfl⟩ | exact ⟨rfl⟩) : Within m o (State.setEcc x0 x1 x2) :=
  .in_ecc hx0

theorem Within.inject {x0 : State} {x1 : Bool} {x2 : Nat} {x3 : Nat} (hx0 : Within m o x0)
    (hm : Sub 1048577 m := by first | exact Sub.le (by assumption) ⟨rfl⟩ | exact ⟨rfl⟩) : Within m o (State.inject x0 x1 x2 x3) := by
  unfold State.inject
  extract_lets -merge +onlyGivenNames t0
  clear_value t0
  refine .ite ?_ ?_
  · extract_lets -merge +onlyGivenNames t1
    exact .setReg (.setEcc hx0)
  · exact hx0

theorem Within.eccClean {x0 : State} {x1 : Nat} {x2 : Nat} (hx0 : Within m o x0)
    (hm : Sub 1048576 m := by first | exact Sub.le (by assumption) ⟨rfl⟩ | exact ⟨rfl⟩) : Within m o (State.eccClean x0 x1 x2) :=
  .in_ecc hx0

theorem Within.setByte {x0 : State} {x1 : Nat} {x2 : Byte} (hx0 : Within m o x0)
    (hm : Sub 2 m := by first | exact Sub.le (by assumption) ⟨rfl⟩ | exact ⟨rfl⟩) : Within m o (State.setByte x0 x1 x2) :=
  .in_mem hx0

theorem Within.setBytes {x0 : State} {x1 : Nat} {x2 : List Byte} (hx0 : Within m o x0)
    (hm : Sub 2 m := by first | exact Sub.le (by assumption) ⟨rfl⟩ | exact ⟨rfl⟩) : Within m o (State.setBytes x0 x1 x2) := by
  induction x2 generalizing x0 x1 with
  | nil =>
    exact hx0
  | cons y l ih =>
    rw [State.setBytes]
    exact ih (.setByte hx0)

theorem Within.setDrc {x0 : State} {x1 : DrcSt → DrcSt} (hx0 : Within m o x0)
    (hm : Sub 2097152 m := by first | exact Sub.le (by assumption) ⟨rfl⟩ | exact ⟨rfl⟩) : Within m o (State.setDrc x0 x1) :=
  .in_drc hx0

theorem Within.noteCe {x0 : State} {x1 : Nat} (hx0 : Within m o x0)
    (hm : Sub 2097153 m := by first | exact Sub.le (by assumption) ⟨rfl⟩ | exact ⟨rfl⟩) : Within m o (State.noteCe x0 x1) := by
  unfold State.noteCe
  extract_lets -merge +onlyGivenNames t0
  clear_value t0
  exact .ite (.setReg64 (.bump (.setDrc hx0))) (.setRegN (.bump (.setDrc hx0)))

theorem Within.noteUe {x0 : State} {x1 : Nat} {x2 : Nat} (hx0 : Within m o x0)
    (hm : Sub 17 m := by first | exact Sub.le (by assumption) ⟨rfl⟩ | exact ⟨rfl⟩) : Within m o (State.noteUe x0 x1 x2) := by
  unfold State.noteUe
  extract_lets -merge +onlyGivenNames t0
  clear_value t0
  exact .ite (.raise (.setRegN (.setReg64 (.bump hx0)))) (.raise (.setRegN (.setRegN (.bump hx0))))

theorem Within.eccWord {x0 : State} {x1 : Nat} {x2 : Nat} (hx0 : Within m o x0)
    (hm : Sub 3145745 m := by first | exact Sub.le (by assumption) ⟨rfl⟩ | exact ⟨rfl⟩) : Within m o (State.eccWord x0 x1 x2) :=
  .ite hx0 (.ite (.noteCe (.setEcc hx0)) (.noteUe hx0))

theorem Within.eccRmw {x0 : State} {x1 : Nat} {x2 : List Nat} (hx0 : Within m o x0)
    (hm : Sub 3145745 m := by first | exact Sub.le (by assumption) ⟨rfl⟩ | exact ⟨rfl⟩) : Within m o (State.eccRmw x0 x1 x2) := by
  induction x2 generalizing x0 x1 with
  | nil =>
    exact hx0
  | cons y l ih =>
    rw [State.eccRmw]
    exact ih (.ite (.setEcc (.eccWord hx0)) (.eccWord hx0))

theorem Within.dramTouch {x0 : State} {x1 : Nat} (hx0 : Within m o x0)
    (hm : Sub 17 m := by first | exact Sub.le (by assumption) ⟨rfl⟩ | exact ⟨rfl⟩) : Within m o (State.dramTouch x0 x1) :=
  .ite (.raise (.bump (.wf hx0))) hx0

theorem Within.store {x0 : State} {x1 : Nat} {x2 : Nat} {x3 : List Byte} (hx0 : Within m o x0)
    (hm : Sub 3145747 m := by first | exact Sub.le (by assumption) ⟨rfl⟩ | exact ⟨rfl⟩) : Within m o (State.store x0 x1 x2 x3) :=
  .ite hx0 (.inject (.eccClean (.setBytes (.eccRmw (.dramTouch hx0)))))

theorem Within.writeN {x0 : State} {x1 : Nat} {x2 : Nat} {x3 : Nat} (hx0 : Within m o x0)
    (hm : Sub 2 m := by first | exact Sub.le (by assumption) ⟨rfl⟩ | exact ⟨rfl⟩) : Within m o (State.writeN x0 x1 x2 x3) := by
  induction x2 generalizing x0 x1 x3 with
  | zero =>
    exact hx0
  | succ n ih =>
    rw [State.writeN]
    exact ih (.setByte hx0)

theorem Within.write32 {x0 : State} {x1 : Nat} {x2 : Word} (hx0 : Within m o x0)
    (hm : Sub 2 m := by first | exact Sub.le (by assumption) ⟨rfl⟩ | exact ⟨rfl⟩) : Within m o (State.write32 x0 x1 x2) :=
  .writeN hx0

theorem Within.wmf {x0 : State} {x1 : Nat} {x2 : Nat} {x3 : Nat} {x4 : Nat} (hx0 : Within m o x0)
    (hm : Sub 2 m := by first | exact Sub.le (by assumption) ⟨rfl⟩ | exact ⟨rfl⟩) : Within m o (State.wmf x0 x1 x2 x3 x4) :=
  .write32 hx0

theorem Within.eccWords {x0 : State} {x1 : Nat} {x2 : List Nat} (hx0 : Within m o x0)
    (hm : Sub 3145745 m := by first | exact Sub.le (by assumption) ⟨rfl⟩ | exact ⟨rfl⟩) : Within m o (State.eccWords x0 x1 x2) := by
  induction x2 generalizing x0 x1 with
  | nil =>
    exact hx0
  | cons y l ih =>
    rw [State.eccWords]
    exact ih (.eccWord hx0)

theorem Within.eccRead {x0 : State} {x1 : Nat} {x2 : Nat} {x3 : Nat} (hx0 : Within m o x0)
    (hm : Sub 3145745 m := by first | exact Sub.le (by assumption) ⟨rfl⟩ | exact ⟨rfl⟩) : Within m o (State.eccRead x0 x1 x2 x3) :=
  .ite hx0 (.eccWords (.dramTouch hx0))

theorem Within.setWords {x0 : State} {x1 : Nat} {x2 : List Word} (hx0 : Within m o x0)
    (hm : Sub 2 m := by first | exact Sub.le (by assumption) ⟨rfl⟩ | exact ⟨rfl⟩) : Within m o (State.setWords x0 x1 x2) := by
  induction x2 generalizing x0 x1 with
  | nil =>
    exact hx0
  | cons y l ih =>
    rw [State.setWords]
    exact ih (.write32 hx0)

/-! MdmBase -/

theorem Within.setRfc {x0 : State} {x1 : Radio} {x2 : RfcSt → RfcSt} (hx0 : Within m o x0)
    (hm : Sub 64 m := by first | exact Sub.le (by assumption) ⟨rfl⟩ | exact ⟨rfl⟩) : Within m o (State.setRfc x0 x1 x2) :=
  .in_rfc hx0

theorem Within.setMdm {x0 : State} {x1 : Radio} {x2 : MdmSt → MdmSt} (hx0 : Within m o x0)
    (hm : Sub 128 m := by first | exact Sub.le (by assumption) ⟨rfl⟩ | exact ⟨rfl⟩) : Within m o (State.setMdm x0 x1 x2) :=
  .in_mdm hx0

theorem Within.deliverBlock {x0 : State} {x1 : Radio} {x2 : List Word} (hx0 : Within m o x0)
    (hm : Sub 5 m := by first | exact Sub.le (by assumption) ⟨rfl⟩ | exact ⟨rfl⟩) : Within m o (State.deliverBlock x0 x1 x2) := by
  unfold State.deliverBlock
  extract_lets -merge +onlyGivenNames t0
  have h1 : Within m o (t0) := .foldl (fun h => .setReg h) hx0
  clear_value t0
  exact .emit h1

theorem Within.failBlock {x0 : State} {x1 : Radio} {x2 : Nat} {x3 : Word} (hx0 : Within m o x0)
    (hm : Sub 5 m := by first | exact Sub.le (by assumption) ⟨rfl⟩ | exact ⟨rfl⟩) : Within m o (State.failBlock x0 x1 x2 x3) := by
  unfold State.failBlock
  extract_lets -merge +onlyGivenNames t0 t1 t3 t5
  have h2 : Within m o (t1) := .used hx0
  have h4 : Within m o (t3) := .used h2
  clear_value t0 t1 t3 t5
  exact .deliverBlock (.used h4)

theorem Within.smodeApply {x0 : State} {x1 : Radio} (hx0 : Within m o x0)
    (hm : Sub 129 m := by first | exact Sub.le (by assumption) ⟨rfl⟩ | exact ⟨rfl⟩) : Within m o (State.smodeApply x0 x1) := by
  unfold State.smodeApply
  split
  · exact hx0
  · exact .setMdm (.setReg hx0)

theorem Within.rxOver {x0 : State} {x1 : Radio} {x2 : Bool} {x3 : Bool} (hx0 : Within m o x0)
    (hm : Sub 129 m := by first | exact Sub.le (by assumption) ⟨rfl⟩ | exact ⟨rfl⟩) : Within m o (State.rxOver x0 x1 x2 x3) := by
  unfold State.rxOver
  extract_lets -merge +onlyGivenNames t0 t1 t3 t5 t7
  have h2 : Within m o (t1) := .bumpBy hx0
  have h4 : Within m o (t3) := .setMdm h2
  have h6 : Within m o (t5) := .smodeApply (.setReg h4)
  have h8 : Within m o (t7) := .wf (.wf h6)
  clear_value t0 t1 t3 t5 t7
  exact .wf h8

theorem Within.rxLeave {x0 : State} {x1 : Radio} {x2 : Bool} (hx0 : Within m o x0)
    (hm : Sub 133 m := by first | exact Sub.le (by assumption) ⟨rfl⟩ | exact ⟨rfl⟩) : Within m o (State.rxLeave x0 x1 x2) := by
  unfold State.rxLeave
  refine .ite ?_ ?_
  · extract_lets -merge +onlyGivenNames t0
    have h1 : Within m o (t0) := .ite (.failBlock hx0) hx0
    clear_value t0
    exact .rxOver (.bump h1)
  · exact .wf (.setMdm hx0)

theorem Within.ppduEnd {x0 : State} {x1 : Radio} {x2 : Nat} {x3 : Nat} (hx0 : Within m o x0)
    (hm : Sub 133 m := by first | exact Sub.le (by assumption) ⟨rfl⟩ | exact ⟨rfl⟩) : Within m o (State.ppduEnd x0 x1 x2 x3) := by
  unfold State.ppduEnd
  extract_lets -merge +onlyGivenNames t0 t1 t2 t4 t6 t8 t9
  have h3 : Within m o (t2) := .setRegN hx0
  have h5 : Within m o (t4) := .ite (.bump h3) h3
  have h7 : Within m o (t6) := .ite (.bump h5) h5
  have h10 : Within m o (t9) := .emit h7
  clear_value t0 t1 t2 t4 t6 t8 t9
  exact .wf (.setMdm h10)

theorem Within.ppduStart {x0 : State} {x1 : Radio} {x2 : Nat} {x3 : Nat} (hx0 : Within m o x0)
    (hm : Sub 129 m := by first | exact Sub.le (by assumption) ⟨rfl⟩ | exact ⟨rfl⟩) : Within m o (State.ppduStart x0 x1 x2 x3) := by
  unfold State.ppduStart
  extract_lets -merge +onlyGivenNames t0 t1 t2 t4
  have h3 : Within m o (t2) := .foldl (fun h => .ite (.wf h) h) hx0
  have h5 : Within m o (t4) := .setMdm h3
  clear_value t0 t1 t2 t4
  exact .wf h5

end Sys2Proof.Machine
end

