-- ==== Sys2Proof/Laws/Within2.lean ====
section
/-! SUPPORT. Which parts of the state every operation touches (`Within`), one lemma for each: Rfc, Pkt, Chk. -/

namespace Sys2Proof.Machine

set_option Elab.async false
set_option linter.unusedVariables false

variable {m : Nat} {o : State}

/-! Rfc -/

theorem Within.rfcPop {x0 : Init} {x1 : Radio} {x2 : State} (hx2 : Within m o x2)
    (hm : Sub 69 m := by first | exact Sub.le (by assumption) ⟨rfl⟩ | exact ⟨rfl⟩) : Within m o (State.rfcPop x0 x1 x2) := by
  unfold State.rfcPop
  split
  · exact .answer hx2
  · extract_lets -merge +onlyGivenNames t0 t2
    have h1 : Within m o (t0) := .setRfc hx2
    have h3 : Within m o (t2) := .setReg (.setReg h1)
    clear_value t0 t2
    exact .answer h3

theorem Within.rfcStrobe {x0 : State} {x1 : Radio} {x2 : Bool} (hx0 : Within m o x0)
    (hm : Sub 64 m := by first | exact Sub.le (by assumption) ⟨rfl⟩ | exact ⟨rfl⟩) : Within m o (State.rfcStrobe x0 x1 x2) := by
  unfold State.rfcStrobe
  extract_lets -merge +onlyGivenNames t0 t1 t2
  clear_value t0 t1 t2
  exact .ite (.setRfc hx0) hx0

theorem Within.rfcRefuse {x0 : State} {x1 : Radio} {x2 : Nat} (hx0 : Within m o x0)
    (hm : Sub 17 m := by first | exact Sub.le (by assumption) ⟨rfl⟩ | exact ⟨rfl⟩) : Within m o (State.rfcRefuse x0 x1 x2) :=
  .refuse hx0

theorem Within.rfcPush {x0 : Nat} {x1 : Radio} {x2 : Word} {x3 : State} (hx3 : Within m o x3)
    (hm : Sub 81 m := by first | exact Sub.le (by assumption) ⟨rfl⟩ | exact ⟨rfl⟩) : Within m o (State.rfcPush x0 x1 x2 x3) := by
  unfold State.rfcPush
  refine .ite ?_ ?_
  · exact hx3
  · extract_lets -merge +onlyGivenNames t0
    clear_value t0
    exact .ite (.rfcRefuse hx3) (.ite (.rfcRefuse hx3) (.ite (.rfcRefuse hx3) (.setRfc hx3)))

theorem Within.rfcResult {x0 : State} {x1 : Radio} {x2 : RfcCmd} {x3 : Nat} (hx0 : Within m o x0)
    (hm : Sub 81 m := by first | exact Sub.le (by assumption) ⟨rfl⟩ | exact ⟨rfl⟩) : Within m o (State.rfcResult x0 x1 x2 x3) := by
  unfold State.rfcResult
  extract_lets -merge +onlyGivenNames t0
  have h1 : Within m o (t0) := .ite (.setRfc hx0) (.bumpTo hx0)
  clear_value t0
  exact .ite (.ite (.raise h1) h1) (.ite (.raise h1) (.ite h1 (.raise h1)))

theorem Within.rfcTake {x0 : State} {x1 : Radio} {x2 : Bool} (hx0 : Within m o x0)
    (hm : Sub 64 m := by first | exact Sub.le (by assumption) ⟨rfl⟩ | exact ⟨rfl⟩) : Within m o (State.rfcTake x0 x1 x2) :=
  .setRfc hx0

theorem Within.rfcDone {x0 : State} {x1 : Radio} {x2 : RfcCmd} {x3 : Bool} {x4 : Nat} (hx0 : Within m o x0)
    (hm : Sub 81 m := by first | exact Sub.le (by assumption) ⟨rfl⟩ | exact ⟨rfl⟩) : Within m o (State.rfcDone x0 x1 x2 x3 x4) :=
  .rfcResult (.setRfc (.rfcTake hx0))

theorem Within.rfcUnhold {x0 : State} {x1 : Radio} (hx0 : Within m o x0)
    (hm : Sub 65 m := by first | exact Sub.le (by assumption) ⟨rfl⟩ | exact ⟨rfl⟩) : Within m o (State.rfcUnhold x0 x1) :=
  .wf (.setRfc hx0)

theorem Within.calDue {x0 : State} {x1 : Radio} {x2 : Nat} (hx0 : Within m o x0)
    (hm : Sub 65 m := by first | exact Sub.le (by assumption) ⟨rfl⟩ | exact ⟨rfl⟩) : Within m o (State.calDue x0 x1 x2) := by
  unfold State.calDue
  refine .ite ?_ ?_
  · exact hx0
  · extract_lets -merge +onlyGivenNames t0 t1
    have h2 : Within m o (t1) := .setReg hx0
    clear_value t0 t1
    exact .setRfc h2

theorem Within.execCalPeriodDue {x0 : Radio} {x1 : State} (hx1 : Within m o x1)
    (hm : Sub 65 m := by first | exact Sub.le (by assumption) ⟨rfl⟩ | exact ⟨rfl⟩) : WithinOut m o (execCalPeriodDue x0 x1) := by
  unfold Sys2Proof.Machine.execCalPeriodDue
  exact .next (.calDue (.calDue (.calDue hx1)))

theorem Within.tuneDue {x0 : State} {x1 : Radio} {x2 : Nat} (hx0 : Within m o x0)
    (hm : Sub 65 m := by first | exact Sub.le (by assumption) ⟨rfl⟩ | exact ⟨rfl⟩) : Within m o (State.tuneDue x0 x1 x2) := by
  unfold State.tuneDue
  extract_lets -merge +onlyGivenNames t0 t1
  have h2 : Within m o (t1) := .ite (.calDue hx0) hx0
  clear_value t0 t1
  exact .ite (.calDue h2) h2

theorem Within.recWrite {x0 : State} {x1 : Radio} {x2 : Nat} (hx0 : Within m o x0)
    (hm : Sub 3145811 m := by first | exact Sub.le (by assumption) ⟨rfl⟩ | exact ⟨rfl⟩) : Within m o (State.recWrite x0 x1 x2) := by
  unfold State.recWrite
  extract_lets -merge +onlyGivenNames t0 t1 t2 t3 t5
  have h4 : Within m o (t3) := .store hx0
  have h6 : Within m o (t5) := .setRfc h4
  clear_value t0 t1 t2 t3 t5
  exact .wf h6

theorem Within.macPort {x0 : Radio} {x1 : SixWords} {x2 : State} (hx2 : Within m o x2)
    (hm : Sub 81 m := by first | exact Sub.le (by assumption) ⟨rfl⟩ | exact ⟨rfl⟩) : Within m o (State.macPort x0 x1 x2) := by
  unfold State.macPort
  extract_lets -merge +onlyGivenNames t0
  clear_value t0
  exact .ite (.rfcRefuse hx2) (.ite (.rfcRefuse hx2) (.ite (.rfcRefuse hx2) (.ite (.rfcRefuse hx2) (.setRfc hx2))))

theorem Within.rfcReject {x0 : State} {x1 : Radio} {x2 : RfcCmd} {x3 : Bool} (hx0 : Within m o x0)
    (hm : Sub 81 m := by first | exact Sub.le (by assumption) ⟨rfl⟩ | exact ⟨rfl⟩) : Within m o (State.rfcReject x0 x1 x2 x3) :=
  .rfcDone (.bumpTo hx0)

theorem Within.rfcHold {x0 : State} {x1 : Radio} {x2 : RfcCmd} {x3 : Bool} {x4 : Bool} (hx0 : Within m o x0)
    (hm : Sub 65 m := by first | exact Sub.le (by assumption) ⟨rfl⟩ | exact ⟨rfl⟩) : Within m o (State.rfcHold x0 x1 x2 x3 x4) := by
  unfold State.rfcHold
  extract_lets -merge +onlyGivenNames t0 t1 t2
  have h3 : Within m o (t2) := .setRfc hx0
  clear_value t0 t1 t2
  exact .ite (.bumpTo (.wf h3)) h3

theorem Within.calStopNow {x0 : State} {x1 : Radio} (hx0 : Within m o x0)
    (hm : Sub 64 m := by first | exact Sub.le (by assumption) ⟨rfl⟩ | exact ⟨rfl⟩) : Within m o (State.calStopNow x0 x1) :=
  .setRfc hx0

theorem Within.rfcRun {x0 : State} {x1 : Radio} {x2 : Nat} {x3 : State → RfcCmd → Bool → State} (hx0 : Within m o x0) (hx3 : ∀ {y0} {y1} {y2}, Within m o y0 → Within m o (x3 y0 y1 y2))
    (hm : Sub 81 m := by first | exact Sub.le (by assumption) ⟨rfl⟩ | exact ⟨rfl⟩) : Within m o (State.rfcRun x0 x1 x2 x3) := by
  unfold State.rfcRun
  split
  · exact hx0
  · refine .ite ?_ ?_
    · exact hx0
    · split
      · exact .rfcReject hx0
      · exact .rfcDone hx0
      · exact .ite hx0 (hx3 hx0)
      · exact .ite (.rfcHold hx0) (.ite (.ite (.rfcHold (.bumpTo (.calStopNow hx0))) hx0) (hx3 hx0))

theorem Within.rfcLate {x0 : State} {x1 : Radio} {x2 : RfcCmd} {x3 : Bool} (hx0 : Within m o x0)
    (hm : Sub 81 m := by first | exact Sub.le (by assumption) ⟨rfl⟩ | exact ⟨rfl⟩) : Within m o (State.rfcLate x0 x1 x2 x3) :=
  .rfcDone (.bumpTo hx0)

theorem Within.rfcBegin {x0 : State} {x1 : Radio} {x2 : RfcCmd} {x3 : Bool} {x4 : RfcWork} (hx0 : Within m o x0)
    (hm : Sub 64 m := by first | exact Sub.le (by assumption) ⟨rfl⟩ | exact ⟨rfl⟩) : Within m o (State.rfcBegin x0 x1 x2 x3 x4) :=
  .setRfc hx0

theorem Within.rfcRxBegin {x0 : State} {x1 : Radio} {x2 : RfcCmd} {x3 : Bool} (hx0 : Within m o x0)
    (hm : Sub 64 m := by first | exact Sub.le (by assumption) ⟨rfl⟩ | exact ⟨rfl⟩) : Within m o (State.rfcRxBegin x0 x1 x2 x3) :=
  .rfcBegin (.setRfc hx0)

theorem Within.leaveRx {x0 : State} {x1 : Radio} (hx0 : Within m o x0)
    (hm : Sub 197 m := by first | exact Sub.le (by assumption) ⟨rfl⟩ | exact ⟨rfl⟩) : Within m o (State.leaveRx x0 x1) :=
  .ite (.setRfc (.rxLeave hx0)) hx0

theorem Within.rfcTxBegin {x0 : State} {x1 : Radio} {x2 : RfcCmd} {x3 : Bool} (hx0 : Within m o x0)
    (hm : Sub 197 m := by first | exact Sub.le (by assumption) ⟨rfl⟩ | exact ⟨rfl⟩) : Within m o (State.rfcTxBegin x0 x1 x2 x3) :=
  .rfcBegin (.setRfc (.leaveRx hx0))

theorem Within.rfcGo {x0 : State} {x1 : Radio} {x2 : RfcCmd} {x3 : Bool} {x4 : Nat} (hx0 : Within m o x0)
    (hm : Sub 213 m := by first | exact Sub.le (by assumption) ⟨rfl⟩ | exact ⟨rfl⟩) : Within m o (State.rfcGo x0 x1 x2 x3 x4) :=
  .ite (.rfcLate hx0) (.ite (.rfcRxBegin hx0) (.rfcTxBegin hx0))

theorem Within.execRfcTx {x0 : Radio} {x1 : State} (hx1 : Within m o x1)
    (hm : Sub 213 m := by first | exact Sub.le (by assumption) ⟨rfl⟩ | exact ⟨rfl⟩) : WithinOut m o (execRfcTx x0 x1) := by
  unfold Sys2Proof.Machine.execRfcTx
  exact .next (.rfcRun hx1 (fun h0 => .rfcGo h0))

theorem Within.calComplete {x0 : State} {x1 : Radio} {x2 : Nat} (hx0 : Within m o x0)
    (hm : Sub 65 m := by first | exact Sub.le (by assumption) ⟨rfl⟩ | exact ⟨rfl⟩) : Within m o (State.calComplete x0 x1 x2) := by
  unfold State.calComplete
  extract_lets -merge +onlyGivenNames t0 t2 t3 t4
  have h1 : Within m o (t0) := .setReg hx0
  clear_value t0 t2 t3 t4
  exact .setRfc h1

theorem Within.rfcEndRun {x0 : State} {x1 : Radio} {x2 : Nat} (hx0 : Within m o x0)
    (hm : Sub 81 m := by first | exact Sub.le (by assumption) ⟨rfl⟩ | exact ⟨rfl⟩) : Within m o (State.rfcEndRun x0 x1 x2) := by
  unfold State.rfcEndRun
  split
  · exact hx0
  · extract_lets -merge +onlyGivenNames t0
    have h1 : Within m o (t0) := .setRfc hx0
    clear_value t0
    split
    · exact h1
    · exact .rfcResult h1

theorem Within.calEnd {x0 : State} {x1 : Radio} {x2 : Nat} (hx0 : Within m o x0)
    (hm : Sub 81 m := by first | exact Sub.le (by assumption) ⟨rfl⟩ | exact ⟨rfl⟩) : Within m o (State.calEnd x0 x1 x2) := by
  unfold State.calEnd
  extract_lets -merge +onlyGivenNames t0 t2 t4
  have h1 : Within m o (t0) := .wf hx0
  have h3 : Within m o (t2) := .wf h1
  have h5 : Within m o (t4) := .setRfc h3
  clear_value t0 t2 t4
  exact .rfcEndRun h5

theorem Within.calBegin {x0 : State} {x1 : Radio} {x2 : Option RfcCmd} {x3 : Bool} {x4 : Nat} (hx0 : Within m o x0)
    (hm : Sub 81 m := by first | exact Sub.le (by assumption) ⟨rfl⟩ | exact ⟨rfl⟩) : Within m o (State.calBegin x0 x1 x2 x3 x4) := by
  unfold State.calBegin
  extract_lets -merge +onlyGivenNames t0 t2
  have h1 : Within m o (t0) := .setRfc hx0
  have h3 : Within m o (t2) := .wf (.wf h1)
  clear_value t0 t2
  exact .ite (.calEnd h3) (.wf h3)

theorem Within.rfcStore {x0 : State} {x1 : Radio} {x2 : RfcCmd} {x3 : Bool} (hx0 : Within m o x0)
    (hm : Sub 3145811 m := by first | exact Sub.le (by assumption) ⟨rfl⟩ | exact ⟨rfl⟩) : Within m o (State.rfcStore x0 x1 x2 x3) := by
  unfold State.rfcStore
  extract_lets -merge +onlyGivenNames t0 t1
  have h2 : Within m o (t1) := .setRfc hx0
  clear_value t0 t1
  exact .rfcDone (.recWrite h2)

theorem Within.heldGo {x0 : State} {x1 : Radio} (hx0 : Within m o x0)
    (hm : Sub 3145943 m := by first | exact Sub.le (by assumption) ⟨rfl⟩ | exact ⟨rfl⟩) : Within m o (State.heldGo x0 x1) := by
  unfold State.heldGo
  split
  · exact hx0
  · extract_lets -merge +onlyGivenNames t0
    have h1 : Within m o (t0) := .rfcUnhold hx0
    clear_value t0
    exact .ite (.calBegin h1) (.ite (.rfcStore h1) (.ite (.rfcLate h1) (.ite (.rfcRxBegin h1) (.rfcTxBegin h1))))

theorem Within.calStepOk {x0 : State} {x1 : Radio} {x2 : Nat} {x3 : List Word} (hx0 : Within m o x0)
    (hm : Sub 3145943 m := by first | exact Sub.le (by assumption) ⟨rfl⟩ | exact ⟨rfl⟩) : Within m o (State.calStepOk x0 x1 x2 x3) := by
  unfold State.calStepOk
  extract_lets -merge +onlyGivenNames t0 t2 t4 t5
  have h1 : Within m o (t0) := .setRfc hx0
  have h3 : Within m o (t2) := .ite (.calComplete h1) h1
  have h6 : Within m o (t5) := .wf h3
  clear_value t0 t2 t4 t5
  refine .ite ?_ ?_
  · exact .heldGo (.calEnd h6)
  · refine .ite ?_ ?_
    · extract_lets -merge +onlyGivenNames t7
      have h8 : Within m o (t7) := .wf h6
      clear_value t7
      exact .heldGo (.calEnd h8)
    · exact h6

theorem Within.synthLock {x0 : State} {x1 : Radio} {x2 : BitVec 24} (hx0 : Within m o x0)
    (hm : Sub 3145943 m := by first | exact Sub.le (by assumption) ⟨rfl⟩ | exact ⟨rfl⟩) : Within m o (State.synthLock x0 x1 x2) := by
  simp only [State.synthLock]
  exact .heldGo (.ite (by
    split
    · exact .wf (.wf (.recWrite (.setReg (.setRfc (.wf hx0)))))
    · exact .setReg (.setRfc (.wf hx0))) (.wf hx0))

theorem Within.execSynthLock {x0 : Radio} {x1 : BitVec 24} {x2 : State} (hx2 : Within m o x2)
    (hm : Sub 3145943 m := by first | exact Sub.le (by assumption) ⟨rfl⟩ | exact ⟨rfl⟩) : WithinOut m o (execSynthLock x0 x1 x2) := by
  unfold Sys2Proof.Machine.execSynthLock
  refine .ite ?_ ?_
  · exact .next (.synthLock hx2)
  · exact .next hx2

theorem Within.execRfcStore {x0 : Radio} {x1 : State} (hx1 : Within m o x1)
    (hm : Sub 3145811 m := by first | exact Sub.le (by assumption) ⟨rfl⟩ | exact ⟨rfl⟩) : WithinOut m o (execRfcStore x0 x1) := by
  unfold Sys2Proof.Machine.execRfcStore
  exact .next (.rfcRun hx1 (fun h0 => .rfcStore h0))

theorem Within.femRest {x0 : State} {x1 : Radio} (hx0 : Within m o x0)
    (hm : Sub 64 m := by first | exact Sub.le (by assumption) ⟨rfl⟩ | exact ⟨rfl⟩) : Within m o (State.femRest x0 x1) :=
  .setRfc hx0

theorem Within.dpdEnd {x0 : State} {x1 : Radio} {x2 : RfcDpd} {x3 : Nat} (hx0 : Within m o x0)
    (hm : Sub 81 m := by first | exact Sub.le (by assumption) ⟨rfl⟩ | exact ⟨rfl⟩) : Within m o (State.dpdEnd x0 x1 x2 x3) :=
  .rfcResult (.wf (.setRfc hx0))

theorem Within.dpdFit {x0 : State} {x1 : Radio} {x2 : RfcDpd} {x3 : Nat} {x4 : Nat} {x5 : Nat} {x6 : List Word} (hx0 : Within m o x0)
    (hm : Sub 3145811 m := by first | exact Sub.le (by assumption) ⟨rfl⟩ | exact ⟨rfl⟩) : Within m o (State.dpdFit x0 x1 x2 x3 x4 x5 x6) := by
  unfold State.dpdFit
  refine .ite ?_ ?_
  · exact .raise (.dpdEnd hx0)
  · extract_lets -merge +onlyGivenNames t0 t1 t3
    have h2 : Within m o (t1) := .store hx0
    have h4 : Within m o (t3) := .ite (.wf h2) h2
    clear_value t0 t1 t3
    exact .dpdEnd (.wf h4)

theorem Within.execDpdFitDone {x0 : WRadio} {x1 : BitVec 8} {x2 : BitVec 8} {x3 : BitVec 8} {x4 : List (BitVec 32)} {x5 : State} (hx5 : Within m o x5)
    (hm : Sub 3145811 m := by first | exact Sub.le (by assumption) ⟨rfl⟩ | exact ⟨rfl⟩) : WithinOut m o (execDpdFitDone x0 x1 x2 x3 x4 x5) := by
  unfold Sys2Proof.Machine.execDpdFitDone
  split
  · refine .ite ?_ ?_
    · exact .next (.dpdFit hx5)
    · exact .next hx5
  · exact .next hx5

theorem Within.recRead {x0 : State} {x1 : Radio} {x2 : Nat} (hx0 : Within m o x0)
    (hm : Sub 3145745 m := by first | exact Sub.le (by assumption) ⟨rfl⟩ | exact ⟨rfl⟩) : Within m o (State.recRead x0 x1 x2).1 := by
  unfold State.recRead
  extract_lets -merge +onlyGivenNames t0
  clear_value t0
  refine .iteP ?_ ?_
  · extract_lets -merge +onlyGivenNames t1
    clear_value t1
    exact .eccRead (.used hx0)
  · exact .eccRead hx0

theorem Within.countRecBad {x0 : State} {x1 : Radio} {x2 : List Word} (hx0 : Within m o x0)
    (hm : Sub 1 m := by first | exact Sub.le (by assumption) ⟨rfl⟩ | exact ⟨rfl⟩) : Within m o (State.countRecBad x0 x1 x2) :=
  .ite hx0 (.bumpTo hx0)

theorem Within.rfcTune {x0 : State} {x1 : Radio} {x2 : RfcCmd} {x3 : Bool} (hx0 : Within m o x0)
    (hm : Sub 3145809 m := by first | exact Sub.le (by assumption) ⟨rfl⟩ | exact ⟨rfl⟩) : Within m o (State.rfcTune x0 x1 x2 x3) := by
  unfold State.rfcTune
  extract_lets -merge +onlyGivenNames t0 t1 t2 t4 t6 t7 t8 t10 t11 t12 t13 t15 t17 t19 t21 t23
  have h3 : Within m o (t2).1 := by
    unfold t2
    clear_value t0
    refine .iteP ?_ ?_
    · exact .recRead hx0
    · exact hx0
  have h5 : Within m o (t4) := h3
  have h9 : Within m o (t8) := .ite (.countRecBad h5) h5
  have h14 : Within m o (t13) := .setRfc h9
  have h16 : Within m o (t15) := .ite h14 (.setReg h14)
  have h18 : Within m o (t17) := .tuneDue h16
  have h20 : Within m o (t19) := .wf (.wf h18)
  have h22 : Within m o (t21) := .wf h20
  have h24 : Within m o (t23) := .setRegN h22
  clear_value t0 t2 t4 t6 t7 t8 t10 t11 t12 t13 t15 t17 t19 t21 t23
  exact .rfcDone h24

theorem Within.lockLoss {x0 : State} {x1 : Radio} (hx0 : Within m o x0)
    (hm : Sub 213 m := by first | exact Sub.le (by assumption) ⟨rfl⟩ | exact ⟨rfl⟩) : Within m o (State.lockLoss x0 x1) := by
  unfold State.lockLoss
  extract_lets -merge +onlyGivenNames t0 t2 t4 t5 t6 t8 t10 t12
  have h1 : Within m o (t0) := .femRest hx0
  have h3 : Within m o (t2) := .ite (.rxLeave h1) h1
  have h7 : Within m o (t6) := .ite (.ppduEnd h3) h3
  have h9 : Within m o (t8) := .wf (.wf h7)
  have h11 : Within m o (t10) := .bumpTo h9
  have h13 : Within m o (t12) := .ite (.calEnd h11) (.rfcEndRun h11)
  clear_value t0 t2 t4 t5 t6 t8 t10 t12
  exact .raise h13

theorem Within.execLockLoss {x0 : Radio} {x1 : State} (hx1 : Within m o x1)
    (hm : Sub 213 m := by first | exact Sub.le (by assumption) ⟨rfl⟩ | exact ⟨rfl⟩) : WithinOut m o (execLockLoss x0 x1) := by
  unfold Sys2Proof.Machine.execLockLoss
  refine .ite ?_ ?_
  · exact .next (.lockLoss hx1)
  · exact .next hx1

theorem Within.execRfcRx {x0 : Radio} {x1 : State} (hx1 : Within m o x1)
    (hm : Sub 213 m := by first | exact Sub.le (by assumption) ⟨rfl⟩ | exact ⟨rfl⟩) : WithinOut m o (execRfcRx x0 x1) := by
  unfold Sys2Proof.Machine.execRfcRx
  exact .next (.rfcRun hx1 (fun h0 => .rfcGo h0))

theorem Within.newTemp {x0 : State} {x1 : Radio} {x2 : BitVec 16} (hx0 : Within m o x0)
    (hm : Sub 65 m := by first | exact Sub.le (by assumption) ⟨rfl⟩ | exact ⟨rfl⟩) : Within m o (State.newTemp x0 x1 x2) := by
  unfold State.newTemp
  extract_lets -merge +onlyGivenNames t0 t2 t3 t4 t5 t7 t9
  have h1 : Within m o (t0) := .wf hx0
  have h6 : Within m o (t5) := .ite (.calDue h1) h1
  have h8 : Within m o (t7) := .ite (.calDue h6) h6
  have h10 : Within m o (t9) := .ite (.calDue h8) h8
  clear_value t0 t2 t3 t4 t5 t7 t9
  exact .ite (.setReg h10) h10

theorem Within.rfcAbort {x0 : State} {x1 : Radio} {x2 : RfcCmd} {x3 : Bool} (hx0 : Within m o x0)
    (hm : Sub 213 m := by first | exact Sub.le (by assumption) ⟨rfl⟩ | exact ⟨rfl⟩) : Within m o (State.rfcAbort x0 x1 x2 x3) := by
  unfold State.rfcAbort
  extract_lets -merge +onlyGivenNames t0 t2 t4 t6
  have h1 : Within m o (t0) := .rfcTake hx0
  have h3 : Within m o (t2) := by
    unfold t2
    split
    · exact .rfcDone (.rfcUnhold h1)
    · exact h1
  have h5 : Within m o (t4) := .ite (.calStopNow h3) h3
  have h7 : Within m o (t6) := .rfcResult h5
  clear_value t0 t2 t4 t6
  refine .ite ?_ ?_
  · exact .setRfc (.femRest (.leaveRx h7))
  · refine .ite ?_ ?_
    · extract_lets -merge +onlyGivenNames t8 t9
      have h10 : Within m o (t9) := .ppduEnd h7
      clear_value t8 t9
      exact .setRfc (.femRest (.rfcEndRun h10))
    · exact h7

theorem Within.execRfcAbort {x0 : Radio} {x1 : State} (hx1 : Within m o x1)
    (hm : Sub 213 m := by first | exact Sub.le (by assumption) ⟨rfl⟩ | exact ⟨rfl⟩) : WithinOut m o (execRfcAbort x0 x1) := by
  unfold Sys2Proof.Machine.execRfcAbort
  exact .next (.rfcRun hx1 (fun h0 => .rfcAbort h0))

theorem Within.transDone {x0 : State} {x1 : Radio} {x2 : RfcRun} {x3 : Nat} (hx0 : Within m o x0)
    (hm : Sub 209 m := by first | exact Sub.le (by assumption) ⟨rfl⟩ | exact ⟨rfl⟩) : Within m o (State.transDone x0 x1 x2 x3) := by
  unfold State.transDone
  extract_lets -merge +onlyGivenNames t0 t2
  have h1 : Within m o (t0) := .wf hx0
  clear_value t0 t2
  refine .ite ?_ ?_
  · extract_lets -merge +onlyGivenNames t3 t4
    have h5 : Within m o (t4) := .setRfc h1
    clear_value t3 t4
    exact .ppduStart h5
  · refine .ite ?_ ?_
    · extract_lets -merge +onlyGivenNames t6
      have h7 : Within m o (t6) := .setRfc h1
      clear_value t6
      exact .rfcEndRun (.wf h7)
    · exact .rfcEndRun (.wf h1)

theorem Within.execHeldDeadline {x0 : Radio} {x1 : State} (hx1 : Within m o x1)
    (hm : Sub 81 m := by first | exact Sub.le (by assumption) ⟨rfl⟩ | exact ⟨rfl⟩) : WithinOut m o (execHeldDeadline x0 x1) := by
  unfold Sys2Proof.Machine.execHeldDeadline
  split
  · refine .ite ?_ ?_
    · exact .next (.rfcLate (.rfcUnhold hx1))
    · exact .next hx1
  · exact .next hx1

theorem Within.rfcDpdup {x0 : State} {x1 : Radio} {x2 : RfcCmd} {x3 : Bool} (hx0 : Within m o x0)
    (hm : Sub 81 m := by first | exact Sub.le (by assumption) ⟨rfl⟩ | exact ⟨rfl⟩) : Within m o (State.rfcDpdup x0 x1 x2 x3) :=
  .ite (.rfcDone hx0) (.wf (.setRfc (.rfcTake hx0)))

theorem Within.calStepFail {x0 : State} {x1 : Radio} {x2 : Nat} (hx0 : Within m o x0)
    (hm : Sub 3145943 m := by first | exact Sub.le (by assumption) ⟨rfl⟩ | exact ⟨rfl⟩) : Within m o (State.calStepFail x0 x1 x2) := by
  unfold State.calStepFail
  extract_lets -merge +onlyGivenNames t0
  have h1 : Within m o (t0) := .wf hx0
  clear_value t0
  exact .heldGo (.raise (.calEnd h1))

theorem Within.execCalStepDone {x0 : Radio} {x1 : Bool} {x2 : List (BitVec 32)} {x3 : State} (hx3 : Within m o x3)
    (hm : Sub 3145943 m := by first | exact Sub.le (by assumption) ⟨rfl⟩ | exact ⟨rfl⟩) : WithinOut m o (execCalStepDone x0 x1 x2 x3) := by
  unfold Sys2Proof.Machine.execCalStepDone
  extract_lets -merge +onlyGivenNames t0
  clear_value t0
  refine .ite ?_ ?_
  · split
    · exact .next hx3
    · exact .next (.ite (.calStepOk hx3) (.calStepFail hx3))
  · exact .next hx3

theorem Within.execRfcDpdup {x0 : Radio} {x1 : State} (hx1 : Within m o x1)
    (hm : Sub 81 m := by first | exact Sub.le (by assumption) ⟨rfl⟩ | exact ⟨rfl⟩) : WithinOut m o (execRfcDpdup x0 x1) := by
  unfold Sys2Proof.Machine.execRfcDpdup
  exact .next (.rfcRun hx1 (fun h0 => .rfcDpdup h0))

theorem Within.execCalOverdue {x0 : Radio} {x1 : State} (hx1 : Within m o x1)
    (hm : Sub 17 m := by first | exact Sub.le (by assumption) ⟨rfl⟩ | exact ⟨rfl⟩) : WithinOut m o (execCalOverdue x0 x1) := by
  unfold Sys2Proof.Machine.execCalOverdue
  refine .ite ?_ ?_
  · exact .next (.raise hx1)
  · exact .next hx1

theorem Within.execCalTempDue {x0 : Radio} {x1 : BitVec 16} {x2 : State} (hx2 : Within m o x2)
    (hm : Sub 65 m := by first | exact Sub.le (by assumption) ⟨rfl⟩ | exact ⟨rfl⟩) : WithinOut m o (execCalTempDue x0 x1 x2) := by
  unfold Sys2Proof.Machine.execCalTempDue
  exact .next (.newTemp hx2)

theorem Within.synthOff {x0 : State} {x1 : Radio} (hx0 : Within m o x0)
    (hm : Sub 65 m := by first | exact Sub.le (by assumption) ⟨rfl⟩ | exact ⟨rfl⟩) : Within m o (State.synthOff x0 x1) := by
  unfold State.synthOff
  extract_lets -merge +onlyGivenNames t0 t2
  have h1 : Within m o (t0) := .wf hx0
  have h3 : Within m o (t2) := .setReg (.wf h1)
  clear_value t0 t2
  exact .setRfc h3

theorem Within.rfcMove {x0 : State} {x1 : Radio} {x2 : RfcCmd} {x3 : Bool} {x4 : Nat} (hx0 : Within m o x0)
    (hm : Sub 197 m := by first | exact Sub.le (by assumption) ⟨rfl⟩ | exact ⟨rfl⟩) : Within m o (State.rfcMove x0 x1 x2 x3 x4) := by
  unfold State.rfcMove
  extract_lets -merge +onlyGivenNames t0
  have h1 : Within m o (t0) := .femRest (.leaveRx hx0)
  clear_value t0
  exact .rfcBegin (.ite (.synthOff h1) h1)

theorem Within.execRfcStandby {x0 : Radio} {x1 : State} (hx1 : Within m o x1)
    (hm : Sub 213 m := by first | exact Sub.le (by assumption) ⟨rfl⟩ | exact ⟨rfl⟩) : WithinOut m o (execRfcStandby x0 x1) := by
  unfold Sys2Proof.Machine.execRfcStandby
  exact .next (.rfcRun hx1 (fun h0 => .rfcMove h0))

theorem Within.execDpdDue {x0 : WRadio} {x1 : State} (hx1 : Within m o x1)
    (hm : Sub 1 m := by first | exact Sub.le (by assumption) ⟨rfl⟩ | exact ⟨rfl⟩) : WithinOut m o (execDpdDue x0 x1) := by
  unfold Sys2Proof.Machine.execDpdDue
  exact .next (.wf hx1)

theorem Within.execRfcIdle {x0 : Radio} {x1 : State} (hx1 : Within m o x1)
    (hm : Sub 213 m := by first | exact Sub.le (by assumption) ⟨rfl⟩ | exact ⟨rfl⟩) : WithinOut m o (execRfcIdle x0 x1) := by
  unfold Sys2Proof.Machine.execRfcIdle
  exact .next (.rfcRun hx1 (fun h0 => .rfcMove h0))

theorem Within.execRfcCmdPush {x0 : Init} {x1 : Radio} {x2 : Word} {x3 : State} (hx3 : Within m o x3)
    (hm : Sub 117 m := by first | exact Sub.le (by assumption) ⟨rfl⟩ | exact ⟨rfl⟩) : WithinOut m o (execRfcCmdPush x0 x1 x2 x3) := by
  unfold Sys2Proof.Machine.execRfcCmdPush
  exact .next (.onWrite hx3 (fun h0 => .rfcPush h0))

theorem Within.execMacPortCommand {x0 : Radio} {x1 : SixWords} {x2 : State} (hx2 : Within m o x2)
    (hm : Sub 81 m := by first | exact Sub.le (by assumption) ⟨rfl⟩ | exact ⟨rfl⟩) : WithinOut m o (execMacPortCommand x0 x1 x2) := by
  unfold Sys2Proof.Machine.execMacPortCommand
  exact .next (.macPort hx2)

theorem Within.execRfcSleep {x0 : Radio} {x1 : State} (hx1 : Within m o x1)
    (hm : Sub 213 m := by first | exact Sub.le (by assumption) ⟨rfl⟩ | exact ⟨rfl⟩) : WithinOut m o (execRfcSleep x0 x1) := by
  unfold Sys2Proof.Machine.execRfcSleep
  exact .next (.rfcRun hx1 (fun h0 => .rfcMove h0))

theorem Within.execRfcWake {x0 : Radio} {x1 : State} (hx1 : Within m o x1)
    (hm : Sub 213 m := by first | exact Sub.le (by assumption) ⟨rfl⟩ | exact ⟨rfl⟩) : WithinOut m o (execRfcWake x0 x1) := by
  unfold Sys2Proof.Machine.execRfcWake
  exact .next (.rfcRun hx1 (fun h0 => .rfcMove h0))

theorem Within.execRfcTune {x0 : Radio} {x1 : State} (hx1 : Within m o x1)
    (hm : Sub 3145809 m := by first | exact Sub.le (by assumption) ⟨rfl⟩ | exact ⟨rfl⟩) : WithinOut m o (execRfcTune x0 x1) := by
  unfold Sys2Proof.Machine.execRfcTune
  exact .next (.rfcRun hx1 (fun h0 => .rfcTune h0))

theorem Within.rfcPrep {x0 : State} {x1 : Radio} {x2 : RfcCmd} {x3 : Bool} (hx0 : Within m o x0)
    (hm : Sub 3145809 m := by first | exact Sub.le (by assumption) ⟨rfl⟩ | exact ⟨rfl⟩) : Within m o (State.rfcPrep x0 x1 x2 x3) := by
  unfold State.rfcPrep
  extract_lets -merge +onlyGivenNames t0 t2 t4 t5 t6 t8 t10
  have h1 : Within m o (t0).1 := .recRead hx0
  have h3 : Within m o (t2) := h1
  have h7 : Within m o (t6) := .countRecBad h3
  have h9 : Within m o (t8) := .setRfc h7
  have h11 : Within m o (t10) := .setRegN h9
  clear_value t0 t2 t4 t5 t6 t8 t10
  exact .rfcDone h11

theorem Within.execRfcPrep {x0 : Radio} {x1 : State} (hx1 : Within m o x1)
    (hm : Sub 3145809 m := by first | exact Sub.le (by assumption) ⟨rfl⟩ | exact ⟨rfl⟩) : WithinOut m o (execRfcPrep x0 x1) := by
  unfold Sys2Proof.Machine.execRfcPrep
  exact .next (.rfcRun hx1 (fun h0 => .rfcPrep h0))

theorem Within.execRfcCal {x0 : Radio} {x1 : State} (hx1 : Within m o x1)
    (hm : Sub 81 m := by first | exact Sub.le (by assumption) ⟨rfl⟩ | exact ⟨rfl⟩) : WithinOut m o (execRfcCal x0 x1) := by
  unfold Sys2Proof.Machine.execRfcCal
  exact .next (.rfcRun hx1 (fun h0 => .calBegin h0))

theorem Within.execRfcTransitionDone {x0 : Radio} {x1 : State} (hx1 : Within m o x1)
    (hm : Sub 209 m := by first | exact Sub.le (by assumption) ⟨rfl⟩ | exact ⟨rfl⟩) : WithinOut m o (execRfcTransitionDone x0 x1) := by
  unfold Sys2Proof.Machine.execRfcTransitionDone
  split
  · split
    · exact .next (.transDone hx1)
    · exact .next hx1
  · exact .next hx1

theorem Within.execAutocalStart {x0 : Radio} {x1 : State} (hx1 : Within m o x1)
    (hm : Sub 81 m := by first | exact Sub.le (by assumption) ⟨rfl⟩ | exact ⟨rfl⟩) : WithinOut m o (execAutocalStart x0 x1) := by
  unfold Sys2Proof.Machine.execAutocalStart
  extract_lets -merge +onlyGivenNames t0 t1
  clear_value t0 t1
  refine .ite ?_ ?_
  · exact .next (.calBegin hx1)
  · exact .next hx1

theorem Within.execDpdTimeout {x0 : WRadio} {x1 : State} (hx1 : Within m o x1)
    (hm : Sub 81 m := by first | exact Sub.le (by assumption) ⟨rfl⟩ | exact ⟨rfl⟩) : WithinOut m o (execDpdTimeout x0 x1) := by
  unfold Sys2Proof.Machine.execDpdTimeout
  split
  · refine .ite ?_ ?_
    · exact .next hx1
    · exact .next (.dpdEnd hx1)
  · exact .next hx1

theorem Within.execFemtWrite {x0 : Init} {x1 : Radio} {x2 : Fin 3} {x3 : Word} {x4 : State} (hx4 : Within m o x4)
    (hm : Sub 53 m := by first | exact Sub.le (by assumption) ⟨rfl⟩ | exact ⟨rfl⟩) : WithinOut m o (execFemtWrite x0 x1 x2 x3 x4) := by
  unfold Sys2Proof.Machine.execFemtWrite
  exact .next (.onWrite hx4 (fun h0 => .writeReg h0))

theorem Within.execRfcResultPop {x0 : Init} {x1 : Radio} {x2 : State} (hx2 : Within m o x2)
    (hm : Sub 117 m := by first | exact Sub.le (by assumption) ⟨rfl⟩ | exact ⟨rfl⟩) : WithinOut m o (execRfcResultPop x0 x1 x2) := by
  unfold Sys2Proof.Machine.execRfcResultPop
  exact .next (.onRead hx2 (fun h0 => .rfcPop h0))

/-! Pkt -/

theorem Within.txGive {x0 : State} {x1 : Nat} {x2 : Nat} (hx0 : Within m o x0)
    (hm : Sub 1 m := by first | exact Sub.le (by assumption) ⟨rfl⟩ | exact ⟨rfl⟩) : Within m o (State.txGive x0 x1 x2) :=
  .wf hx0

theorem Within.dropMpdu {x0 : State} {x1 : Nat} (hx0 : Within m o x0)
    (hm : Sub 257 m := by first | exact Sub.le (by assumption) ⟨rfl⟩ | exact ⟨rfl⟩) : Within m o (State.dropMpdu x0 x1) := by
  unfold State.dropMpdu
  split
  · exact hx0
  · exact .txGive (.in_mpdus hx0)

theorem Within.setRec {x0 : State} {x1 : Nat} {x2 : Nat} {x3 : Nat} {x4 : Nat} {x5 : Nat} (hx0 : Within m o x0)
    (hm : Sub 2 m := by first | exact Sub.le (by assumption) ⟨rfl⟩ | exact ⟨rfl⟩) : Within m o (State.setRec x0 x1 x2 x3 x4 x5) :=
  .wmf hx0

theorem Within.unstage {x0 : State} {x1 : Mpdu} (hx0 : Within m o x0)
    (hm : Sub 2 m := by first | exact Sub.le (by assumption) ⟨rfl⟩ | exact ⟨rfl⟩) : Within m o (State.unstage x0 x1) := by
  unfold State.unstage
  refine .ite ?_ ?_
  · exact hx0
  · extract_lets -merge +onlyGivenNames t0
    have h1 : Within m o (t0) := .setRec hx0
    clear_value t0
    exact .setRec h1

theorem Within.endMpdu {x0 : State} {x1 : Nat} (hx0 : Within m o x0)
    (hm : Sub 259 m := by first | exact Sub.le (by assumption) ⟨rfl⟩ | exact ⟨rfl⟩) : Within m o (State.endMpdu x0 x1) := by
  unfold State.endMpdu
  split
  · exact hx0
  · exact .dropMpdu (.unstage hx0)

theorem Within.setPkt {x0 : State} {x1 : PktSt → PktSt} (hx0 : Within m o x0)
    (hm : Sub 4096 m := by first | exact Sub.le (by assumption) ⟨rfl⟩ | exact ⟨rfl⟩) : Within m o (State.setPkt x0 x1) :=
  .in_pkt hx0

theorem Within.release {x0 : State} {x1 : Nat} {x2 : Nat} (hx0 : Within m o x0)
    (hm : Sub 1 m := by first | exact Sub.le (by assumption) ⟨rfl⟩ | exact ⟨rfl⟩) : Within m o (State.release x0 x1 x2) := by
  unfold State.release
  extract_lets -merge +onlyGivenNames t0 t1 t2
  have h3 : Within m o (t2) := .wf (.wf hx0)
  clear_value t0 t1 t2
  exact .wf h3

theorem Within.dropFrame {x0 : State} {x1 : Nat} (hx0 : Within m o x0)
    (hm : Sub 4097 m := by first | exact Sub.le (by assumption) ⟨rfl⟩ | exact ⟨rfl⟩) : Within m o (State.dropFrame x0 x1) := by
  unfold State.dropFrame
  split
  · exact hx0
  · exact .release (.setPkt hx0)

theorem Within.rxGive {x0 : State} {x1 : Nat} {x2 : Nat} (hx0 : Within m o x0)
    (hm : Sub 1 m := by first | exact Sub.le (by assumption) ⟨rfl⟩ | exact ⟨rfl⟩) : Within m o (State.rxGive x0 x1 x2) :=
  .wf hx0

theorem Within.pathCount {x0 : State} {x1 : Nat} (hx0 : Within m o x0)
    (hm : Sub 17 m := by first | exact Sub.le (by assumption) ⟨rfl⟩ | exact ⟨rfl⟩) : Within m o (State.pathCount x0 x1) :=
  .raise (.bump hx0)

theorem Within.dropRx {x0 : State} {x1 : Nat} (hx0 : Within m o x0)
    (hm : Sub 513 m := by first | exact Sub.le (by assumption) ⟨rfl⟩ | exact ⟨rfl⟩) : Within m o (State.dropRx x0 x1) := by
  unfold State.dropRx
  split
  · exact hx0
  · exact .rxGive (.in_rxmpdus hx0)

theorem Within.pathDrop {x0 : State} {x1 : Xfer} (hx0 : Within m o x0)
    (hm : Sub 4883 m := by first | exact Sub.le (by assumption) ⟨rfl⟩ | exact ⟨rfl⟩) : Within m o (State.pathDrop x0 x1) := by
  unfold State.pathDrop
  extract_lets -merge +onlyGivenNames t0
  have h1 : Within m o (t0) := .setPkt hx0
  clear_value t0
  refine .ite ?_ ?_
  · split
    · exact .pathCount h1
    · exact .pathCount (.dropRx (.release h1))
  · extract_lets -merge +onlyGivenNames t2
    have h3 : Within m o (t2) := .endMpdu h1
    clear_value t2
    exact .pathCount (by
      split
      · exact h3
      · exact .ite (.endMpdu h3) (.dropFrame h3))

theorem Within.charge {x0 : State} {x1 : Nat} {x2 : Nat} (hx0 : Within m o x0)
    (hm : Sub 17 m := by first | exact Sub.le (by assumption) ⟨rfl⟩ | exact ⟨rfl⟩) : WithinOpt m o (State.charge x0 x1 x2) := by
  unfold State.charge
  extract_lets -merge +onlyGivenNames t0 t1 t2 t3 t4
  clear_value t0 t1 t2 t3 t4
  refine .ite ?_ ?_
  · exact .some (.wf hx0)
  · refine .ite ?_ ?_
    · extract_lets -merge +onlyGivenNames t5 t7
      have h6 : Within m o (t5) := .wf hx0
      have h8 : Within m o (t7) := .wf (.wf h6)
      clear_value t5 t7
      exact .some (.ite (.raise h8) h8)
    · exact .none

theorem Within.takeCells {x0 : State} {x1 : List Nat} {x2 : Nat} {x3 : Nat} (hx0 : Within m o x0)
    (hm : Sub 0 m := by first | exact Sub.le (by assumption) ⟨rfl⟩ | exact ⟨rfl⟩) : Within m o (State.takeCells x0 x1 x2 x3).1 := by
  induction x3 generalizing x0 x1 x2 with
  | zero =>
    exact hx0
  | succ n ih =>
    rw [State.takeCells]
    exact ih (.used hx0)

theorem Within.setFrameBytes {x0 : State} {x1 : Frame} {x2 : Nat} {x3 : List Byte} (hx0 : Within m o x0)
    (hm : Sub 2 m := by first | exact Sub.le (by assumption) ⟨rfl⟩ | exact ⟨rfl⟩) : Within m o (State.setFrameBytes x0 x1 x2 x3) := by
  induction x3 generalizing x0 x1 x2 with
  | nil =>
    exact hx0
  | cons y l ih =>
    rw [State.setFrameBytes]
    exact ih (.setByte hx0)

theorem Within.putFrame {x0 : State} {x1 : Nat} {x2 : List Byte} {x3 : List Word} (hx0 : Within m o x0)
    (hm : Sub 4098 m := by first | exact Sub.le (by assumption) ⟨rfl⟩ | exact ⟨rfl⟩) : Within m o (State.putFrame x0 x1 x2 x3).1 := by
  unfold State.putFrame
  extract_lets -merge +onlyGivenNames t0 t1 t3 t5 t6 t7 t9
  have h2 : Within m o (t1).1 := .takeCells hx0
  have h4 : Within m o (t3) := h2
  have h8 : Within m o (t7) := .setPkt h4
  have h10 : Within m o (t9) := .setWords h8
  clear_value t0 t1 t3 t5 t6 t7 t9
  exact .setFrameBytes h10

theorem Within.setHdr {x0 : State} {x1 : Nat} {x2 : Nat} {x3 : Word} (hx0 : Within m o x0)
    (hm : Sub 2 m := by first | exact Sub.le (by assumption) ⟨rfl⟩ | exact ⟨rfl⟩) : Within m o (State.setHdr x0 x1 x2 x3) :=
  .write32 hx0

theorem Within.toPpe {x0 : State} {x1 : Nat} (hx0 : Within m o x0)
    (hm : Sub 4096 m := by first | exact Sub.le (by assumption) ⟨rfl⟩ | exact ⟨rfl⟩) : Within m o (State.toPpe x0 x1) :=
  .setPkt hx0

theorem Within.setFrame {x0 : State} {x1 : Frame} (hx0 : Within m o x0)
    (hm : Sub 4096 m := by first | exact Sub.le (by assumption) ⟨rfl⟩ | exact ⟨rfl⟩) : Within m o (State.setFrame x0 x1) :=
  .setPkt hx0

theorem Within.countRefused {x0 : State} (hx0 : Within m o x0)
    (hm : Sub 1 m := by first | exact Sub.le (by assumption) ⟨rfl⟩ | exact ⟨rfl⟩) : Within m o (State.countRefused x0) :=
  .bump hx0

theorem Within.sendPause {x0 : State} {x1 : Nat} (hx0 : Within m o x0)
    (hm : Sub 4100 m := by first | exact Sub.le (by assumption) ⟨rfl⟩ | exact ⟨rfl⟩) : Within m o (State.sendPause x0 x1) :=
  .ite (.setPkt (.emit hx0)) hx0

theorem Within.unreserve {x0 : State} {x1 : RxSource} (hx0 : Within m o x0)
    (hm : Sub 4097 m := by first | exact Sub.le (by assumption) ⟨rfl⟩ | exact ⟨rfl⟩) : Within m o (State.unreserve x0 x1) := by
  unfold State.unreserve
  extract_lets -merge +onlyGivenNames t0 t1
  have h2 : Within m o (t1) := .setPkt hx0
  clear_value t0 t1
  split
  · exact .release h2
  · exact .rxGive h2
  · exact .rxGive h2

theorem Within.txTake {x0 : State} {x1 : Nat} {x2 : Nat} (hx0 : Within m o x0)
    (hm : Sub 1 m := by first | exact Sub.le (by assumption) ⟨rfl⟩ | exact ⟨rfl⟩) : Within m o (State.txTake x0 x1 x2) :=
  .wf hx0

theorem Within.spansRead {x0 : State} {x1 : Nat} {x2 : List (Nat × Nat)} (hx0 : Within m o x0)
    (hm : Sub 3145745 m := by first | exact Sub.le (by assumption) ⟨rfl⟩ | exact ⟨rfl⟩) : Within m o (State.spansRead x0 x1 x2) :=
  .foldl (fun h => .eccRead h) hx0

theorem Within.rxTake {x0 : State} {x1 : Nat} {x2 : Nat} (hx0 : Within m o x0)
    (hm : Sub 1 m := by first | exact Sub.le (by assumption) ⟨rfl⟩ | exact ⟨rfl⟩) : Within m o (State.rxTake x0 x1 x2) :=
  .wf hx0

theorem Within.takeRun {x0 : State} {x1 : Nat} {x2 : Nat} {x3 : Bool} (hx0 : Within m o x0)
    (hm : Sub 4097 m := by first | exact Sub.le (by assumption) ⟨rfl⟩ | exact ⟨rfl⟩) : WithinOpt1 m o (State.takeRun x0 x1 x2 x3) := by
  unfold State.takeRun
  refine .ite ?_ ?_
  · exact .none
  · extract_lets -merge +onlyGivenNames t0
    clear_value t0
    split
    · exact .none
    · extract_lets -merge +onlyGivenNames t1 t2
      have h3 : Within m o (t2) := .ite (.rxTake (.used hx0)) (.txTake (.used hx0))
      clear_value t1 t2
      exact .some (.setPkt h3)

theorem Within.stageStored {x0 : State} {x1 : Xfer} (hx0 : Within m o x0)
    (hm : Sub 4355 m := by first | exact Sub.le (by assumption) ⟨rfl⟩ | exact ⟨rfl⟩) : Within m o (State.stageStored x0 x1) := by
  unfold State.stageStored
  extract_lets -merge +onlyGivenNames t0
  have h1 : Within m o (t0) := .in_mpdus hx0
  clear_value t0
  split
  · exact h1
  · exact .ite (.endMpdu h1) (.dropFrame h1)

theorem Within.reserved {x0 : State} {x1 : RxSource} {x2 : Nat} (hx0 : Within m o x0)
    (hm : Sub 4096 m := by first | exact Sub.le (by assumption) ⟨rfl⟩ | exact ⟨rfl⟩) : Within m o (State.reserved x0 x1 x2) :=
  .setPkt hx0

theorem Within.reserveRadio {x0 : State} {x1 : RxSource} {x2 : Nat} {x3 : Nat} (hx0 : Within m o x0)
    (hm : Sub 4097 m := by first | exact Sub.le (by assumption) ⟨rfl⟩ | exact ⟨rfl⟩) : Within m o (State.reserveRadio x0 x1 x2 x3) := by
  unfold State.reserveRadio
  extract_lets -merge +onlyGivenNames t0
  clear_value t0
  exact .ite (.reserved (.rxTake hx0)) hx0

theorem Within.reserveEth {x0 : State} {x1 : Fin 6} (hx0 : Within m o x0)
    (hm : Sub 4117 m := by first | exact Sub.le (by assumption) ⟨rfl⟩ | exact ⟨rfl⟩) : Within m o (State.reserveEth x0 x1) := by
  unfold State.reserveEth
  extract_lets -merge +onlyGivenNames t0
  clear_value t0
  split
  · exact .setPkt (.reserved ((Within.charge hx0) _ (by assumption)))
  · exact .sendPause (.bump (.countRefused hx0))

theorem Within.execReceiveReserve {x0 : RxSource} {x1 : Nat} {x2 : State} (hx2 : Within m o x2)
    (hm : Sub 4117 m := by first | exact Sub.le (by assumption) ⟨rfl⟩ | exact ⟨rfl⟩) : WithinOut m o (execReceiveReserve x0 x1 x2) := by
  unfold Sys2Proof.Machine.execReceiveReserve
  extract_lets -merge +onlyGivenNames t0
  have h1 : Within m o (t0) := .unreserve hx2
  clear_value t0
  split
  · exact .next (.reserveEth h1)
  · exact .next (.reserveRadio h1)
  · exact .next (.reserveRadio h1)

theorem Within.releaseStored {x0 : State} {x1 : RxMpdu} (hx0 : Within m o x0)
    (hm : Sub 4611 m := by first | exact Sub.le (by assumption) ⟨rfl⟩ | exact ⟨rfl⟩) : Within m o (State.releaseStored x0 x1) := by
  unfold State.releaseStored
  extract_lets -merge +onlyGivenNames t0 t1
  have h2 : Within m o (t1).1 := .putFrame hx0
  clear_value t0 t1
  exact .dropRx (.toPpe h2)

theorem Within.execFrameStored {x0 : WRadio} {x1 : Bool} {x2 : State} (hx2 : Within m o x2)
    (hm : Sub 3150611 m := by first | exact Sub.le (by assumption) ⟨rfl⟩ | exact ⟨rfl⟩) : WithinOut m o (execFrameStored x0 x1 x2) := by
  unfold Sys2Proof.Machine.execFrameStored
  split
  · exact .next hx2
  · extract_lets -merge +onlyGivenNames t0 t1
    have h2 : Within m o (t1) := .spansRead hx2
    clear_value t0 t1
    refine .ite ?_ ?_
    · exact .next (.pathDrop h2)
    · extract_lets -merge +onlyGivenNames t3
      have h4 : Within m o (t3) := .setPkt h2
      clear_value t3
      refine .ite ?_ ?_
      · split
        · exact .next h4
        · exact .next (.releaseStored h4)
      · exact .next (.stageStored h4)

theorem Within.execFrameForward {x0 : WRadio} {x1 : State} (hx1 : Within m o x1)
    (hm : Sub 4113 m := by first | exact Sub.le (by assumption) ⟨rfl⟩ | exact ⟨rfl⟩) : WithinOut m o (execFrameForward x0 x1) := by
  unfold Sys2Proof.Machine.execFrameForward
  split
  · exact .next hx1
  · split
    · exact .next (.countRefused hx1)
    · exact .next (.setPkt ((Within.charge hx1) _ (by assumption)))

theorem Within.execCreditReturn {x0 : Radio} {x1 : Nat} {x2 : State} (hx2 : Within m o x2)
    (hm : Sub 4097 m := by first | exact Sub.le (by assumption) ⟨rfl⟩ | exact ⟨rfl⟩) : WithinOut m o (execCreditReturn x0 x1 x2) := by
  unfold Sys2Proof.Machine.execCreditReturn
  split
  · exact .next hx2
  · extract_lets -merge +onlyGivenNames t0
    have h1 : Within m o (t0) := .setPkt hx2
    clear_value t0
    exact .next (.ite (.rxGive h1) (.txGive h1))

/-! Chk -/

theorem Within.setCh {x0 : State} {x1 : Nat} {x2 : DmaChan} (hx0 : Within m o x0)
    (hm : Sub 131072 m := by first | exact Sub.le (by assumption) ⟨rfl⟩ | exact ⟨rfl⟩) : Within m o (State.setCh x0 x1 x2) :=
  .in_dma hx0

theorem Within.scanBusy {x0 : State} (hx0 : Within m o x0)
    (hm : Sub 17 m := by first | exact Sub.le (by assumption) ⟨rfl⟩ | exact ⟨rfl⟩) : Within m o (State.scanBusy x0) :=
  .raise (.wf hx0)

theorem Within.chkInit {x0 : State} {x1 : Nat} (hx0 : Within m o x0)
    (hm : Sub 1 m := by first | exact Sub.le (by assumption) ⟨rfl⟩ | exact ⟨rfl⟩) : Within m o (State.chkInit x0 x1) := by
  unfold State.chkInit
  extract_lets -merge +onlyGivenNames t0
  have h1 : Within m o (t0) := .setRegN hx0
  clear_value t0
  exact .setRegN (.setRegN h1)

theorem Within.scanCtrl {x0 : Nat} {x1 : Word} {x2 : State} (hx2 : Within m o x2)
    (hm : Sub 17 m := by first | exact Sub.le (by assumption) ⟨rfl⟩ | exact ⟨rfl⟩) : Within m o (State.scanCtrl x0 x1 x2) := by
  unfold State.scanCtrl
  refine .ite ?_ ?_
  · refine .ite ?_ ?_
    · exact .scanBusy hx2
    · refine .ite ?_ ?_
      · exact .scanBusy hx2
      · extract_lets -merge +onlyGivenNames t0
        have h1 : Within m o (t0) := .wb (.writeReg hx2)
        clear_value t0
        exact .ite (.chkInit h1) h1
  · exact .ite (.writeReg hx2) (.ite (.ite (.wb hx2) hx2) (.writeReg hx2))

theorem Within.chkRefuse {x0 : State} {x1 : Nat} {x2 : Nat} (hx0 : Within m o x0)
    (hm : Sub 17 m := by first | exact Sub.le (by assumption) ⟨rfl⟩ | exact ⟨rfl⟩) : Within m o (State.chkRefuse x0 x1 x2) :=
  .refuse hx0

theorem Within.chkPreset {x0 : Nat} {x1 : Word} {x2 : State} (hx2 : Within m o x2)
    (hm : Sub 17 m := by first | exact Sub.le (by assumption) ⟨rfl⟩ | exact ⟨rfl⟩) : Within m o (State.chkPreset x0 x1 x2) := by
  unfold State.chkPreset
  extract_lets -merge +onlyGivenNames t0
  clear_value t0
  refine .ite ?_ ?_
  · exact .chkRefuse hx2
  · refine .ite ?_ ?_
    · exact .chkRefuse hx2
    · extract_lets -merge +onlyGivenNames t1
      have h2 : Within m o (t1) := .wf hx2
      clear_value t1
      refine .ite ?_ ?_
      · exact .chkInit h2
      · extract_lets -merge +onlyGivenNames t3 t4
        have h5 : Within m o (t4) := .setRegN (.setRegN (.setRegN h2))
        clear_value t3 t4
        exact .chkInit (.setRegN h5)

theorem Within.chkConfig {x0 : Nat} {x1 : Nat} {x2 : Nat} {x3 : Word} {x4 : State} (hx4 : Within m o x4)
    (hm : Sub 17 m := by first | exact Sub.le (by assumption) ⟨rfl⟩ | exact ⟨rfl⟩) : Within m o (State.chkConfig x0 x1 x2 x3 x4) := by
  unfold State.chkConfig
  refine .ite ?_ ?_
  · exact .writeReg hx4
  · refine .ite ?_ ?_
    · exact .chkRefuse hx4
    · extract_lets -merge +onlyGivenNames t0
      have h1 : Within m o (t0) := .writeReg hx4
      clear_value t0
      exact .ite (.wf h1) h1

theorem Within.chkStateWrite {x0 : Nat} {x1 : Nat} {x2 : Nat} {x3 : Word} {x4 : State} (hx4 : Within m o x4)
    (hm : Sub 17 m := by first | exact Sub.le (by assumption) ⟨rfl⟩ | exact ⟨rfl⟩) : Within m o (State.chkStateWrite x0 x1 x2 x3 x4) :=
  .ite (.chkRefuse hx4) (.writeReg hx4)

theorem Within.sumByte {x0 : State} {x1 : Nat} {x2 : Byte} (hx0 : Within m o x0)
    (hm : Sub 1 m := by first | exact Sub.le (by assumption) ⟨rfl⟩ | exact ⟨rfl⟩) : Within m o (State.sumByte x0 x1 x2) := by
  unfold State.sumByte
  extract_lets -merge +onlyGivenNames t0
  clear_value t0
  exact .ite (.setRegN (.setRegN hx0)) (.setRegN hx0)

theorem Within.chkFeed {x0 : State} {x1 : Nat} {x2 : List Byte} (hx0 : Within m o x0)
    (hm : Sub 1 m := by first | exact Sub.le (by assumption) ⟨rfl⟩ | exact ⟨rfl⟩) : Within m o (State.chkFeed x0 x1 x2) := by
  unfold State.chkFeed
  extract_lets -merge +onlyGivenNames t0
  have h1 : Within m o (t0) := .setRegN hx0
  clear_value t0
  refine .ite ?_ ?_
  · exact .foldl (fun h => .sumByte h) h1
  · extract_lets -merge +onlyGivenNames t2
    clear_value t2
    exact .setRegN h1

theorem Within.chkData {x0 : Nat} {x1 : Nat} {x2 : Word} {x3 : State} (hx3 : Within m o x3)
    (hm : Sub 17 m := by first | exact Sub.le (by assumption) ⟨rfl⟩ | exact ⟨rfl⟩) : Within m o (State.chkData x0 x1 x2 x3) :=
  .ite (.chkRefuse hx3) (.chkFeed hx3)

theorem Within.chkCmd {x0 : Nat} {x1 : Word} {x2 : State} (hx2 : Within m o x2)
    (hm : Sub 17 m := by first | exact Sub.le (by assumption) ⟨rfl⟩ | exact ⟨rfl⟩) : Within m o (State.chkCmd x0 x1 x2) :=
  .ite (.chkRefuse hx2) (.ite (.chkInit hx2) hx2)

theorem Within.execChkPreset {x0 : Init} {x1 : Fin 16} {x2 : Word} {x3 : State} (hx3 : Within m o x3)
    (hm : Sub 53 m := by first | exact Sub.le (by assumption) ⟨rfl⟩ | exact ⟨rfl⟩) : WithinOut m o (execChkPreset x0 x1 x2 x3) := by
  unfold Sys2Proof.Machine.execChkPreset
  exact .next (.onWrite hx3 (fun h0 => .chkPreset h0))

theorem Within.execChkConfigWrite {x0 : Init} {x1 : Fin 16} {x2 : Fin 4} {x3 : Word} {x4 : State} (hx4 : Within m o x4)
    (hm : Sub 53 m := by first | exact Sub.le (by assumption) ⟨rfl⟩ | exact ⟨rfl⟩) : WithinOut m o (execChkConfigWrite x0 x1 x2 x3 x4) := by
  unfold Sys2Proof.Machine.execChkConfigWrite
  exact .next (.onWrite hx4 (fun h0 => .chkConfig h0))

theorem Within.execChkDataFeed {x0 : Init} {x1 : Fin 16} {x2 : Fin 3} {x3 : Word} {x4 : State} (hx4 : Within m o x4)
    (hm : Sub 53 m := by first | exact Sub.le (by assumption) ⟨rfl⟩ | exact ⟨rfl⟩) : WithinOut m o (execChkDataFeed x0 x1 x2 x3 x4) := by
  unfold Sys2Proof.Machine.execChkDataFeed
  exact .next (.onWrite hx4 (fun h0 => .chkData h0))

theorem Within.execChkInit {x0 : Init} {x1 : Fin 16} {x2 : Word} {x3 : State} (hx3 : Within m o x3)
    (hm : Sub 53 m := by first | exact Sub.le (by assumption) ⟨rfl⟩ | exact ⟨rfl⟩) : WithinOut m o (execChkInit x0 x1 x2 x3) := by
  unfold Sys2Proof.Machine.execChkInit
  exact .next (.onWrite hx3 (fun h0 => .chkCmd h0))

theorem Within.execScanGo {x0 : Init} {x1 : Word} {x2 : State} (hx2 : Within m o x2)
    (hm : Sub 53 m := by first | exact Sub.le (by assumption) ⟨rfl⟩ | exact ⟨rfl⟩) : WithinOut m o (execScanGo x0 x1 x2) := by
  unfold Sys2Proof.Machine.execScanGo
  exact .next (.onWrite hx2 (fun h0 => .scanCtrl h0))

theorem Within.execScanStop {x0 : Init} {x1 : Word} {x2 : State} (hx2 : Within m o x2)
    (hm : Sub 53 m := by first | exact Sub.le (by assumption) ⟨rfl⟩ | exact ⟨rfl⟩) : WithinOut m o (execScanStop x0 x1 x2) := by
  unfold Sys2Proof.Machine.execScanStop
  exact .next (.onWrite hx2 (fun h0 => .scanCtrl h0))

end Sys2Proof.Machine
end

