-- ==== Sys2Proof/Laws/Within3.lean ====
section
/-! SUPPORT. Which parts of the state every operation touches (`Within`), one lemma for each: CrySlot, CryPage, StpBase, Qmg. -/

namespace Sys2Proof.Machine

set_option Elab.async false
set_option linter.unusedVariables false

variable {m : Nat} {o : State}

/-! CrySlot -/

theorem Within.setPke {x0 : State} {x1 : PkeSt → PkeSt} (hx0 : Within m o x0)
    (hm : Sub 524288 m := by first | exact Sub.le (by assumption) ⟨rfl⟩ | exact ⟨rfl⟩) : Within m o (State.setPke x0 x1) :=
  .in_pke hx0

theorem Within.setCry {x0 : State} {x1 : CrySt → CrySt} (hx0 : Within m o x0)
    (hm : Sub 262144 m := by first | exact Sub.le (by assumption) ⟨rfl⟩ | exact ⟨rfl⟩) : Within m o (State.setCry x0 x1) :=
  .in_cry hx0

theorem Within.keyPop {x0 : Init} {x1 : State} (hx1 : Within m o x1)
    (hm : Sub 262148 m := by first | exact Sub.le (by assumption) ⟨rfl⟩ | exact ⟨rfl⟩) : Within m o (State.keyPop x0 x1) := by
  unfold State.keyPop
  split
  · exact .answer hx1
  · exact .answer (.setCry hx1)

theorem Within.draw {x0 : State} {x1 : Nat} (hx0 : Within m o x0)
    (hm : Sub 524289 m := by first | exact Sub.le (by assumption) ⟨rfl⟩ | exact ⟨rfl⟩) : Within m o (State.draw x0 x1).1 := by
  unfold State.draw
  extract_lets -merge +onlyGivenNames t0 t1
  have h2 : Within m o (t1) := .used hx0
  clear_value t0 t1
  refine .iteP ?_ ?_
  · exact .setPke h2
  · exact .bump (.setPke h2)

theorem Within.cryCount {x0 : State} {x1 : Nat} (hx0 : Within m o x0)
    (hm : Sub 1 m := by first | exact Sub.le (by assumption) ⟨rfl⟩ | exact ⟨rfl⟩) : Within m o (State.cryCount x0 x1) :=
  .ite (.bump hx0) (.ite (.bump hx0) (.ite (.bump hx0) (.ite (.bump hx0) hx0)))

theorem Within.postKey {x0 : State} {x1 : Nat} {x2 : Nat} {x3 : Nat} (hx0 : Within m o x0)
    (hm : Sub 262145 m := by first | exact Sub.le (by assumption) ⟨rfl⟩ | exact ⟨rfl⟩) : Within m o (State.postKey x0 x1 x2 x3) :=
  .ite (.setCry hx0) (.bump hx0)

theorem Within.keyDone {x0 : State} {x1 : Nat} {x2 : Nat} {x3 : Nat} (hx0 : Within m o x0)
    (hm : Sub 262161 m := by first | exact Sub.le (by assumption) ⟨rfl⟩ | exact ⟨rfl⟩) : Within m o (State.keyDone x0 x1 x2 x3) := by
  unfold State.keyDone
  extract_lets -merge +onlyGivenNames t0
  have h1 : Within m o (t0) := .ite hx0 (.raise (.errSet (.cryCount hx0)))
  clear_value t0
  exact .postKey h1

theorem Within.keyRun {x0 : State} {x1 : Nat} {x2 : Nat} {x3 : Nat} {x4 : State → Nat → State × Nat} (hx0 : Within m o x0) (hx4 : ∀ {y0} {y1}, Within m o y0 → Within m o (x4 y0 y1).1)
    (hm : Sub 262161 m := by first | exact Sub.le (by assumption) ⟨rfl⟩ | exact ⟨rfl⟩) : Within m o (State.keyRun x0 x1 x2 x3 x4) := by
  unfold State.keyRun
  split
  · exact .keyDone hx0
  · extract_lets -merge +onlyGivenNames t0
    have h1 : Within m o (t0).1 := hx4 hx0
    clear_value t0
    exact .keyDone h1

theorem Within.clearKdata {x0 : State} {x1 : Nat} (hx0 : Within m o x0)
    (hm : Sub 1 m := by first | exact Sub.le (by assumption) ⟨rfl⟩ | exact ⟨rfl⟩) : Within m o (State.clearKdata x0 x1) := by
  induction x1 generalizing x0 with
  | zero =>
    exact hx0
  | succ n ih =>
    rw [State.clearKdata]
    exact .setReg (ih hx0)

theorem Within.setSlot {x0 : State} {x1 : Nat} {x2 : KeySlot} (hx0 : Within m o x0)
    (hm : Sub 262144 m := by first | exact Sub.le (by assumption) ⟨rfl⟩ | exact ⟨rfl⟩) : Within m o (State.setSlot x0 x1 x2) :=
  .setCry hx0

theorem Within.loadSlot {x0 : State} {x1 : Nat} {x2 : Nat} {x3 : Nat} {x4 : Word} {x5 : List Byte} (hx0 : Within m o x0)
    (hm : Sub 262144 m := by first | exact Sub.le (by assumption) ⟨rfl⟩ | exact ⟨rfl⟩) : Within m o (State.loadSlot x0 x1 x2 x3 x4 x5) := by
  unfold State.loadSlot
  extract_lets -merge +onlyGivenNames t0
  clear_value t0
  exact .setSlot hx0

theorem Within.keyLoad {x0 : State} {x1 : Nat} (hx0 : Within m o x0)
    (hm : Sub 262145 m := by first | exact Sub.le (by assumption) ⟨rfl⟩ | exact ⟨rfl⟩) : Within m o (State.keyLoad x0 x1).1 := by
  unfold State.keyLoad
  refine .iteP ?_ ?_
  · exact .clearKdata hx0
  · extract_lets -merge +onlyGivenNames t0 t1
    clear_value t0 t1
    exact .clearKdata (.loadSlot hx0)

theorem Within.keyUnwrapCmd {x0 : State} {x1 : Nat} (hx0 : Within m o x0)
    (hm : Sub 3407889 m := by first | exact Sub.le (by assumption) ⟨rfl⟩ | exact ⟨rfl⟩) : Within m o (State.keyUnwrapCmd x0 x1).1 := by
  unfold State.keyUnwrapCmd
  split
  · exact hx0
  · extract_lets -merge +onlyGivenNames t0 t1
    clear_value t0 t1
    refine .iteP ?_ ?_
    · exact hx0
    · extract_lets -merge +onlyGivenNames t2
      have h3 : Within m o (t2) := .eccRead hx0
      clear_value t2
      refine .iteP ?_ ?_
      · exact h3
      · split
        · exact h3
        · extract_lets -merge +onlyGivenNames t4 t5
          clear_value t4 t5
          refine .iteP ?_ ?_
          · exact h3
          · exact .loadSlot h3

theorem Within.keyGen {x0 : State} {x1 : Nat} (hx0 : Within m o x0)
    (hm : Sub 786433 m := by first | exact Sub.le (by assumption) ⟨rfl⟩ | exact ⟨rfl⟩) : Within m o (State.keyGen x0 x1).1 := by
  unfold State.keyGen
  extract_lets -merge +onlyGivenNames t0
  clear_value t0
  refine .iteP ?_ ?_
  · exact hx0
  · refine .iteP ?_ ?_
    · exact hx0
    · extract_lets -merge +onlyGivenNames t1
      have h2 : Within m o (t1).1 := .draw hx0
      clear_value t1
      exact .loadSlot h2

theorem Within.keyExport {x0 : State} {x1 : Nat} (hx0 : Within m o x0)
    (hm : Sub 3145747 m := by first | exact Sub.le (by assumption) ⟨rfl⟩ | exact ⟨rfl⟩) : Within m o (State.keyExport x0 x1).1 := by
  unfold State.keyExport
  extract_lets -merge +onlyGivenNames t0
  clear_value t0
  split
  · exact hx0
  · refine .iteP ?_ ?_
    · exact hx0
    · refine .iteP ?_ ?_
      · exact hx0
      · extract_lets -merge +onlyGivenNames t1
        clear_value t1
        exact .store hx0

theorem Within.keyErase {x0 : State} {x1 : Nat} {x2 : Nat} (hx0 : Within m o x0)
    (hm : Sub 262161 m := by first | exact Sub.le (by assumption) ⟨rfl⟩ | exact ⟨rfl⟩) : Within m o (State.keyErase x0 x1 x2) :=
  .ite (.setSlot hx0) (.keyDone hx0)

theorem Within.keyAttr {x0 : State} {x1 : Nat} (hx0 : Within m o x0)
    (hm : Sub 262144 m := by first | exact Sub.le (by assumption) ⟨rfl⟩ | exact ⟨rfl⟩) : Within m o (State.keyAttr x0 x1).1 := by
  unfold State.keyAttr
  extract_lets -merge +onlyGivenNames t0
  clear_value t0
  exact .setSlot hx0

theorem Within.keyInfo {x0 : State} {x1 : Nat} (hx0 : Within m o x0)
    (hm : Sub 1 m := by first | exact Sub.le (by assumption) ⟨rfl⟩ | exact ⟨rfl⟩) : Within m o (State.keyInfo x0 x1).1 := by
  unfold State.keyInfo
  extract_lets -merge +onlyGivenNames t0 t1 t2 t3 t5 t7
  have h4 : Within m o (t3) := .setRegN hx0
  have h6 : Within m o (t5) := .setReg (.setReg h4)
  have h8 : Within m o (t7) := .setReg h6
  clear_value t0 t1 t2 t3 t5 t7
  exact .setRegN h8

theorem Within.keyCmd {x0 : State} {x1 : Nat} {x2 : Nat} {x3 : Nat} (hx0 : Within m o x0)
    (hm : Sub 3932179 m := by first | exact Sub.le (by assumption) ⟨rfl⟩ | exact ⟨rfl⟩) : Within m o (State.keyCmd x0 x1 x2 x3) := by
  unfold State.keyCmd
  refine .ite ?_ ?_
  · exact .keyRun hx0 (fun h0 => .keyLoad h0)
  · refine .ite ?_ ?_
    · exact .keyRun hx0 (fun h1 => .keyUnwrapCmd h1)
    · refine .ite ?_ ?_
      · exact .keyRun hx0 (fun h2 => .keyGen h2)
      · refine .ite ?_ ?_
        · exact .keyRun hx0 (fun h3 => .keyExport h3)
        · refine .ite ?_ ?_
          · split
            · exact .keyDone hx0
            · exact .keyErase hx0
          · exact .ite (.keyRun hx0 (fun h4 => .keyAttr h4)) (.ite (.keyRun hx0 (fun h5 => .keyInfo h5)) (.keyDone hx0))

theorem Within.execCryUnwrap {x0 : Init} {x1 : BitVec 8} {x2 : Fin 1024} {x3 : State} (hx3 : Within m o x3)
    (hm : Sub 3932215 m := by first | exact Sub.le (by assumption) ⟨rfl⟩ | exact ⟨rfl⟩) : WithinOut m o (execCryUnwrap x0 x1 x2 x3) := by
  unfold Sys2Proof.Machine.execCryUnwrap
  exact .next (.onWrite hx3 (fun h0 => .keyCmd h0))

theorem Within.execCryErase {x0 : Init} {x1 : BitVec 8} {x2 : Fin 1024} {x3 : State} (hx3 : Within m o x3)
    (hm : Sub 3932215 m := by first | exact Sub.le (by assumption) ⟨rfl⟩ | exact ⟨rfl⟩) : WithinOut m o (execCryErase x0 x1 x2 x3) := by
  unfold Sys2Proof.Machine.execCryErase
  exact .next (.onWrite hx3 (fun h0 => .keyCmd h0))

theorem Within.execCryExport {x0 : Init} {x1 : BitVec 8} {x2 : Fin 1024} {x3 : State} (hx3 : Within m o x3)
    (hm : Sub 3932215 m := by first | exact Sub.le (by assumption) ⟨rfl⟩ | exact ⟨rfl⟩) : WithinOut m o (execCryExport x0 x1 x2 x3) := by
  unfold Sys2Proof.Machine.execCryExport
  exact .next (.onWrite hx3 (fun h0 => .keyCmd h0))

theorem Within.execCryGen {x0 : Init} {x1 : BitVec 8} {x2 : Fin 1024} {x3 : State} (hx3 : Within m o x3)
    (hm : Sub 3932215 m := by first | exact Sub.le (by assumption) ⟨rfl⟩ | exact ⟨rfl⟩) : WithinOut m o (execCryGen x0 x1 x2 x3) := by
  unfold Sys2Proof.Machine.execCryGen
  exact .next (.onWrite hx3 (fun h0 => .keyCmd h0))

theorem Within.execCryInfo {x0 : Init} {x1 : BitVec 8} {x2 : Fin 1024} {x3 : State} (hx3 : Within m o x3)
    (hm : Sub 3932215 m := by first | exact Sub.le (by assumption) ⟨rfl⟩ | exact ⟨rfl⟩) : WithinOut m o (execCryInfo x0 x1 x2 x3) := by
  unfold Sys2Proof.Machine.execCryInfo
  exact .next (.onWrite hx3 (fun h0 => .keyCmd h0))

theorem Within.execCryLoad {x0 : Init} {x1 : BitVec 8} {x2 : Fin 1024} {x3 : State} (hx3 : Within m o x3)
    (hm : Sub 3932215 m := by first | exact Sub.le (by assumption) ⟨rfl⟩ | exact ⟨rfl⟩) : WithinOut m o (execCryLoad x0 x1 x2 x3) := by
  unfold Sys2Proof.Machine.execCryLoad
  exact .next (.onWrite hx3 (fun h0 => .keyCmd h0))

theorem Within.execCryAttr {x0 : Init} {x1 : BitVec 8} {x2 : Fin 1024} {x3 : State} (hx3 : Within m o x3)
    (hm : Sub 3932215 m := by first | exact Sub.le (by assumption) ⟨rfl⟩ | exact ⟨rfl⟩) : WithinOut m o (execCryAttr x0 x1 x2 x3) := by
  unfold Sys2Proof.Machine.execCryAttr
  exact .next (.onWrite hx3 (fun h0 => .keyCmd h0))

theorem Within.execCryKeyResultPop {x0 : Init} {x1 : State} (hx1 : Within m o x1)
    (hm : Sub 262197 m := by first | exact Sub.le (by assumption) ⟨rfl⟩ | exact ⟨rfl⟩) : WithinOut m o (execCryKeyResultPop x0 x1) := by
  unfold Sys2Proof.Machine.execCryKeyResultPop
  exact .next (.onRead hx1 (fun h0 => .keyPop h0))

/-! CryPage -/

theorem Within.setPage {x0 : State} {x1 : Nat} {x2 : CryPage → CryPage} (hx0 : Within m o x0)
    (hm : Sub 262144 m := by first | exact Sub.le (by assumption) ⟨rfl⟩ | exact ⟨rfl⟩) : Within m o (State.setPage x0 x1 x2) :=
  .setCry hx0

theorem Within.crySync {x0 : State} (hx0 : Within m o x0)
    (hm : Sub 1 m := by first | exact Sub.le (by assumption) ⟨rfl⟩ | exact ⟨rfl⟩) : Within m o (State.crySync x0) :=
  .wf (.wb hx0)

theorem Within.pageHalt {x0 : State} {x1 : Nat} {x2 : Nat} (hx0 : Within m o x0)
    (hm : Sub 1 m := by first | exact Sub.le (by assumption) ⟨rfl⟩ | exact ⟨rfl⟩) : Within m o (State.pageHalt x0 x1 x2) :=
  .wf (.wf (.wf hx0))

theorem Within.pgHandBack {x0 : State} {x1 : CryOp} {x2 : Nat} {x3 : Nat} (hx0 : Within m o x0)
    (hm : Sub 19 m := by first | exact Sub.le (by assumption) ⟨rfl⟩ | exact ⟨rfl⟩) : Within m o (State.pgHandBack x0 x1 x2 x3) := by
  unfold State.pgHandBack
  extract_lets -merge +onlyGivenNames t0 t1 t2 t3 t4 t6 t8 t10 t12 t14
  have h5 : Within m o (t4) := .write32 hx0
  have h7 : Within m o (t6) := .write32 h5
  have h9 : Within m o (t8) := .wmf h7
  have h11 : Within m o (t10) := .wf (.wf h9)
  have h13 : Within m o (t12) := .ite (.wf h11) h11
  have h15 : Within m o (t14) := .ite (.pageHalt h13) h13
  clear_value t0 t1 t2 t3 t4 t6 t8 t10 t12 t14
  exact .ite (.raise h15) h15

theorem Within.pgFlush {x0 : State} {x1 : Nat} {x2 : Nat} (hx0 : Within m o x0)
    (hm : Sub 262163 m := by first | exact Sub.le (by assumption) ⟨rfl⟩ | exact ⟨rfl⟩) : Within m o (State.pgFlush x0 x1 x2) := by
  induction x2 generalizing x0 x1 with
  | zero =>
    exact hx0
  | succ n ih =>
    rw [State.pgFlush]
    split
    · exact .ite (.setPage (.wf hx0)) hx0
    · split
      · exact hx0
      · exact ih (.setCry (.pgHandBack hx0))

theorem Within.pgSettle {x0 : State} {x1 : Nat} (hx0 : Within m o x0)
    (hm : Sub 262163 m := by first | exact Sub.le (by assumption) ⟨rfl⟩ | exact ⟨rfl⟩) : Within m o (State.pgSettle x0 x1) :=
  .crySync (.pgFlush hx0)

theorem Within.setCtx {x0 : State} {x1 : Nat} {x2 : Nat} {x3 : CryCtx} (hx0 : Within m o x0)
    (hm : Sub 262144 m := by first | exact Sub.le (by assumption) ⟨rfl⟩ | exact ⟨rfl⟩) : Within m o (State.setCtx x0 x1 x2 x3) :=
  .setCry hx0

theorem Within.execPageDoorbell {x0 : Init} {x1 : Fin 32} {x2 : Word} {x3 : State} (hx3 : Within m o x3)
    (hm : Sub 262197 m := by first | exact Sub.le (by assumption) ⟨rfl⟩ | exact ⟨rfl⟩) : WithinOut m o (execPageDoorbell x0 x1 x2 x3) := by
  unfold Sys2Proof.Machine.execPageDoorbell
  exact .next (.onWrite hx3 (fun h0 => .ite (.setPage h0) h0))

theorem Within.opCount {x0 : State} {x1 : CryOp} {x2 : Nat} (hx0 : Within m o x0)
    (hm : Sub 1 m := by first | exact Sub.le (by assumption) ⟨rfl⟩ | exact ⟨rfl⟩) : Within m o (State.opCount x0 x1 x2) := by
  unfold State.opCount
  extract_lets -merge +onlyGivenNames t0
  have h1 : Within m o (t0) := .ite (.bump hx0) (.cryCount hx0)
  clear_value t0
  exact .ite h1 (.ite (.wf h1) (.ite (.wf h1) h1))

theorem Within.opEnd {x0 : State} {x1 : Nat} {x2 : Nat} {x3 : List Byte} {x4 : List Byte} (hx0 : Within m o x0)
    (hm : Sub 262167 m := by first | exact Sub.le (by assumption) ⟨rfl⟩ | exact ⟨rfl⟩) : Within m o (State.opEnd x0 x1 x2 x3 x4) := by
  unfold State.opEnd
  split
  · exact hx0
  · extract_lets -merge +onlyGivenNames t0
    have h1 : Within m o (t0) := .opCount hx0
    clear_value t0
    refine .ite ?_ ?_
    · exact .pgSettle (.setCry h1)
    · extract_lets -merge +onlyGivenNames t2
      have h3 : Within m o (t2) := .crySync (.setCry h1)
      clear_value t2
      split
      · exact .setCry h3
      · exact .emit h3

theorem Within.discard {x0 : State} {x1 : CryOp} (hx0 : Within m o x0)
    (hm : Sub 3145747 m := by first | exact Sub.le (by assumption) ⟨rfl⟩ | exact ⟨rfl⟩) : Within m o (State.discard x0 x1) :=
  .ite (.store (.used hx0)) hx0

theorem Within.opAbort {x0 : State} {x1 : Nat} (hx0 : Within m o x0)
    (hm : Sub 3407895 m := by first | exact Sub.le (by assumption) ⟨rfl⟩ | exact ⟨rfl⟩) : Within m o (State.opAbort x0 x1) := by
  unfold State.opAbort
  split
  · exact hx0
  · exact .ite hx0 (.opEnd (.discard hx0))

theorem Within.abortAll {x0 : State} {x1 : CryOp → Bool} {x2 : State → State} {x3 : Nat} (hx0 : Within m o x0) (hx2 : ∀ {y0}, Within m o y0 → Within m o (x2 y0))
    (hm : Sub 3407895 m := by first | exact Sub.le (by assumption) ⟨rfl⟩ | exact ⟨rfl⟩) : Within m o (State.abortAll x0 x1 x2 x3) := by
  induction x3 generalizing x0 x1 x2 with
  | zero =>
    exact hx0
  | succ n ih =>
    rw [State.abortAll]
    split
    · exact hx0
    · exact ih (hx2 (.opAbort hx0)) hx2

theorem Within.giveCore {x0 : State} {x1 : Nat} {x2 : Nat} (hx0 : Within m o x0)
    (hm : Sub 262167 m := by first | exact Sub.le (by assumption) ⟨rfl⟩ | exact ⟨rfl⟩) : Within m o (State.giveCore x0 x1 x2) := by
  unfold State.giveCore
  split
  · exact hx0
  · extract_lets -merge +onlyGivenNames t0
    have h1 : Within m o (t0) := .setCry hx0
    clear_value t0
    refine .ite ?_ ?_
    · exact .crySync (.setCry h1)
    · split
      · extract_lets -merge +onlyGivenNames t2
        have h3 : Within m o (t2) := .ite (.setCtx h1) h1
        clear_value t2
        exact .opEnd h3
      · exact .crySync (.setCry h1)

theorem Within.pieceCtx {x0 : State} {x1 : CryOp} {x2 : CryCtx} {x3 : OpYield} (hx0 : Within m o x0)
    (hm : Sub 262144 m := by first | exact Sub.le (by assumption) ⟨rfl⟩ | exact ⟨rfl⟩) : Within m o (State.pieceCtx x0 x1 x2 x3) :=
  .ite hx0 (.ite (.setCtx hx0) (.setCtx hx0))

theorem Within.fwRun {x0 : State} {x1 : Nat} {x2 : CryOp} (hx0 : Within m o x0)
    (hm : Sub 3407895 m := by first | exact Sub.le (by assumption) ⟨rfl⟩ | exact ⟨rfl⟩) : Within m o (State.fwRun x0 x1 x2) := by
  unfold State.fwRun
  extract_lets -merge +onlyGivenNames t0 t1
  clear_value t0 t1
  refine .ite ?_ ?_
  · exact .opEnd hx0
  · extract_lets -merge +onlyGivenNames t2 t3
    have h4 : Within m o (t3) := .foldl (fun h => .eccRead h) hx0
    clear_value t2 t3
    refine .ite ?_ ?_
    · exact .opEnd h4
    · extract_lets -merge +onlyGivenNames t5 t6 t8
      have h7 : Within m o (t6) := .pieceCtx h4
      clear_value t5 t6 t8
      refine .ite ?_ ?_
      · exact .opEnd h7
      · refine .ite ?_ ?_
        · exact .opEnd h7
        · extract_lets -merge +onlyGivenNames t9 t10 t12
          have h11 : Within m o (t10) := .store h7
          have h13 : Within m o (t12) := .ite (.store h11) h11
          clear_value t9 t10 t12
          exact .opEnd h13

theorem Within.pgTake {x0 : State} {x1 : Nat} {x2 : Nat} (hx0 : Within m o x0)
    (hm : Sub 262163 m := by first | exact Sub.le (by assumption) ⟨rfl⟩ | exact ⟨rfl⟩) : Within m o (State.pgTake x0 x1 x2) := by
  unfold State.pgTake
  extract_lets -merge +onlyGivenNames t0
  clear_value t0
  refine .ite ?_ ?_
  · exact .setPage hx0
  · extract_lets -merge +onlyGivenNames t1 t2 t3
    clear_value t1 t2 t3
    exact .pgSettle (.setCry hx0)

theorem Within.execCryDescriptorFetch {x0 : Fin 32} {x1 : State} (hx1 : Within m o x1)
    (hm : Sub 3407891 m := by first | exact Sub.le (by assumption) ⟨rfl⟩ | exact ⟨rfl⟩) : WithinOut m o (execCryDescriptorFetch x0 x1) := by
  unfold Sys2Proof.Machine.execCryDescriptorFetch
  refine .ite ?_ ?_
  · exact .next hx1
  · extract_lets -merge +onlyGivenNames t0 t1 t2
    clear_value t0 t1 t2
    refine .ite ?_ ?_
    · exact .next (.raise (.pageHalt hx1))
    · refine .ite ?_ ?_
      · exact .next (.raise (.pageHalt hx1))
      · refine .ite ?_ ?_
        · exact .next (.raise (.pageHalt (.eccRead hx1)))
        · exact .next (.pgTake (.eccRead hx1))

theorem Within.execCoreAssign {x0 : State} (hx0 : Within m o x0)
    (hm : Sub 262167 m := by first | exact Sub.le (by assumption) ⟨rfl⟩ | exact ⟨rfl⟩) : WithinOut m o (execCoreAssign x0) := by
  unfold Sys2Proof.Machine.execCoreAssign
  split
  · split
    · exact .next hx0
    · exact .next (.giveCore hx0)
  · split
    · exact .next hx0
    · split
      · exact .next hx0
      · extract_lets -merge +onlyGivenNames t0
        have h1 : Within m o (t0) := .bump (.setCry hx0)
        clear_value t0
        exact .next (.giveCore h1)

theorem Within.execInlineOperation {x0 : Fin 6} {x1 : InlineOp} {x2 : State} (hx2 : Within m o x2)
    (hm : Sub 262149 m := by first | exact Sub.le (by assumption) ⟨rfl⟩ | exact ⟨rfl⟩) : WithinOut m o (execInlineOperation x0 x1 x2) := by
  unfold Sys2Proof.Machine.execInlineOperation
  extract_lets -merge +onlyGivenNames t0
  clear_value t0
  refine .ite ?_ ?_
  · exact .next hx2
  · refine .ite ?_ ?_
    · exact .next (.emit hx2)
    · refine .ite ?_ ?_
      · exact .next (.emit hx2)
      · exact .next (.crySync (.setCry hx2))

theorem Within.inlineRun {x0 : State} {x1 : Nat} {x2 : CryOp} (hx0 : Within m o x0)
    (hm : Sub 262167 m := by first | exact Sub.le (by assumption) ⟨rfl⟩ | exact ⟨rfl⟩) : Within m o (State.inlineRun x0 x1 x2) := by
  unfold State.inlineRun
  extract_lets -merge +onlyGivenNames t0 t1
  clear_value t0 t1
  exact .ite (.opEnd hx0) (.ite (.opEnd hx0) (.opEnd hx0))

/-! StpBase -/

theorem Within.keepLim {x0 : State} {x1 : Nat} (hx0 : Within m o x0)
    (hm : Sub 2 m := by first | exact Sub.le (by assumption) ⟨rfl⟩ | exact ⟨rfl⟩) : Within m o (State.keepLim x0 x1) :=
  .ite (.setRec hx0) hx0

theorem Within.setStp {x0 : State} {x1 : StpSt → StpSt} (hx0 : Within m o x0)
    (hm : Sub 8192 m := by first | exact Sub.le (by assumption) ⟨rfl⟩ | exact ⟨rfl⟩) : Within m o (State.setStp x0 x1) :=
  .in_stp hx0

theorem Within.setRecGt {x0 : State} {x1 : Nat} {x2 : Nat} {x3 : GTime} (hx0 : Within m o x0)
    (hm : Sub 2 m := by first | exact Sub.le (by assumption) ⟨rfl⟩ | exact ⟨rfl⟩) : Within m o (State.setRecGt x0 x1 x2 x3) :=
  .writeN hx0

theorem Within.setRecState {x0 : State} {x1 : Nat} {x2 : Nat} (hx0 : Within m o x0)
    (hm : Sub 3 m := by first | exact Sub.le (by assumption) ⟨rfl⟩ | exact ⟨rfl⟩) : Within m o (State.setRecState x0 x1 x2) := by
  unfold State.setRecState
  extract_lets -merge +onlyGivenNames t0
  clear_value t0
  exact .wf (.setRec hx0)

theorem Within.putMpdu {x0 : State} {x1 : Mpdu} {x2 : Option Nat} {x3 : Bool} (hx0 : Within m o x0)
    (hm : Sub 5377 m := by first | exact Sub.le (by assumption) ⟨rfl⟩ | exact ⟨rfl⟩) : Within m o (State.putMpdu x0 x1 x2 x3) :=
  .setPkt (.txTake (.upd (k := 1280) (.takeCells hx0) (fun p => by cases p <;> first | exact .inr rfl | exact .inl rfl)))

theorem Within.raiseDebt {x0 : State} {x1 : Nat} (hx0 : Within m o x0)
    (hm : Sub 2 m := by first | exact Sub.le (by assumption) ⟨rfl⟩ | exact ⟨rfl⟩) : Within m o (State.raiseDebt x0 x1) := by
  unfold State.raiseDebt
  extract_lets -merge +onlyGivenNames t0
  clear_value t0
  split
  · exact hx0
  · exact .ite (.setRec hx0) hx0

theorem Within.keepHol {x0 : State} {x1 : Nat} {x2 : Nat} (hx0 : Within m o x0)
    (hm : Sub 2 m := by first | exact Sub.le (by assumption) ⟨rfl⟩ | exact ⟨rfl⟩) : Within m o (State.keepHol x0 x1 x2) := by
  unfold State.keepHol
  extract_lets -merge +onlyGivenNames t0
  clear_value t0
  exact .setRec hx0

theorem Within.reportIn {x0 : State} {x1 : Nat} {x2 : Nat} {x3 : Nat} (hx0 : Within m o x0)
    (hm : Sub 2 m := by first | exact Sub.le (by assumption) ⟨rfl⟩ | exact ⟨rfl⟩) : Within m o (State.reportIn x0 x1 x2 x3) := by
  unfold State.reportIn
  refine .ite ?_ ?_
  · exact hx0
  · extract_lets -merge +onlyGivenNames t0 t1
    have h2 : Within m o (t1) := .ite (.raiseDebt hx0) hx0
    clear_value t0 t1
    exact .keepHol (.setRec h2)

theorem Within.reportOut {x0 : State} {x1 : Nat} {x2 : Nat} {x3 : Nat} (hx0 : Within m o x0)
    (hm : Sub 2 m := by first | exact Sub.le (by assumption) ⟨rfl⟩ | exact ⟨rfl⟩) : Within m o (State.reportOut x0 x1 x2 x3) :=
  .ite hx0 (.keepHol (.setRec hx0))

theorem Within.takePn {x0 : State} {x1 : Nat} {x2 : Nat} (hx0 : Within m o x0)
    (hm : Sub 2 m := by first | exact Sub.le (by assumption) ⟨rfl⟩ | exact ⟨rfl⟩) : Within m o (State.takePn x0 x1 x2).1 := by
  unfold State.takePn
  extract_lets -merge +onlyGivenNames t0 t1
  clear_value t0 t1
  exact .writeN hx0

theorem Within.encFail {x0 : State} {x1 : Nat} {x2 : Bool} (hx0 : Within m o x0)
    (hm : Sub 17 m := by first | exact Sub.le (by assumption) ⟨rfl⟩ | exact ⟨rfl⟩) : Within m o (State.encFail x0 x1 x2) := by
  unfold State.encFail
  extract_lets -merge +onlyGivenNames t0
  clear_value t0
  exact .raise (.bump hx0)

theorem Within.takeSn {x0 : State} {x1 : Nat} {x2 : Nat} (hx0 : Within m o x0)
    (hm : Sub 2 m := by first | exact Sub.le (by assumption) ⟨rfl⟩ | exact ⟨rfl⟩) : Within m o (State.takeSn x0 x1 x2).1 := by
  unfold State.takeSn
  extract_lets -merge +onlyGivenNames t0 t1 t2
  clear_value t0 t1 t2
  exact .setRec hx0

theorem Within.stageOn {x0 : State} {x1 : Nat} {x2 : Nat} {x3 : Frame} {x4 : Bool} (hx0 : Within m o x0)
    (hm : Sub 5395 m := by first | exact Sub.le (by assumption) ⟨rfl⟩ | exact ⟨rfl⟩) : Within m o (State.stageOn x0 x1 x2 x3 x4) := by
  unfold State.stageOn
  extract_lets -merge +onlyGivenNames t0 t1 t2 t3 t4 t5 t7 t9
  have h6 : Within m o (t5).1 := .takeSn hx0
  have h8 : Within m o (t7).1 := by
    unfold t7
    clear_value t0 t1 t2 t4
    refine .iteP ?_ ?_
    · exact .takePn h6
    · exact h6
  have h10 : Within m o (t9) := h8
  clear_value t0 t1 t2 t4 t5 t7 t9
  refine .ite ?_ ?_
  · exact .dropFrame (.encFail h10)
  · extract_lets -merge +onlyGivenNames t11 t12 t14
    have h13 : Within m o (t12) := .putMpdu h10
    have h15 : Within m o (t14) := .setRec h13
    clear_value t11 t12 t14
    exact .setRec h15

/-! Qmg -/

theorem Within.qPop {x0 : Init} {x1 : State} (hx1 : Within m o x1)
    (hm : Sub 4100 m := by first | exact Sub.le (by assumption) ⟨rfl⟩ | exact ⟨rfl⟩) : Within m o (State.qPop x0 x1) := by
  unfold State.qPop
  split
  · exact .answer hx1
  · exact .answer (.setPkt hx1)

theorem Within.refill {x0 : State} {x1 : Nat} {x2 : Nat} {x3 : Nat} {x4 : Int} (hx0 : Within m o x0)
    (hm : Sub 4096 m := by first | exact Sub.le (by assumption) ⟨rfl⟩ | exact ⟨rfl⟩) : Within m o (State.refill x0 x1 x2 x3 x4).1 := by
  unfold State.refill
  extract_lets -merge +onlyGivenNames t0 t1 t2 t3
  clear_value t0 t1 t2
  exact .setPkt hx0

theorem Within.setRegI {x0 : State} {x1 : Nat} {x2 : Int} (hx0 : Within m o x0)
    (hm : Sub 1 m := by first | exact Sub.le (by assumption) ⟨rfl⟩ | exact ⟨rfl⟩) : Within m o (State.setRegI x0 x1 x2) :=
  .setRegN hx0

theorem Within.polRefill {x0 : State} {x1 : Nat} (hx0 : Within m o x0)
    (hm : Sub 4097 m := by first | exact Sub.le (by assumption) ⟨rfl⟩ | exact ⟨rfl⟩) : Within m o (State.polRefill x0 x1) := by
  unfold State.polRefill
  extract_lets -merge +onlyGivenNames t0 t2 t4
  have h1 : Within m o (t0).1 := .refill hx0
  have h3 : Within m o (t2) := .setRegI h1
  have h5 : Within m o (t4).1 := .refill h3
  clear_value t0 t2 t4
  exact .setRegI h5

theorem Within.qmgRefuse {x0 : State} {x1 : Nat} (hx0 : Within m o x0)
    (hm : Sub 17 m := by first | exact Sub.le (by assumption) ⟨rfl⟩ | exact ⟨rfl⟩) : Within m o (State.qmgRefuse x0 x1) :=
  .refuse hx0

theorem Within.qmgSync {x0 : State} (hx0 : Within m o x0)
    (hm : Sub 1 m := by first | exact Sub.le (by assumption) ⟨rfl⟩ | exact ⟨rfl⟩) : Within m o (State.qmgSync x0) :=
  .wb hx0

theorem Within.qPush {x0 : State} {x1 : Word} (hx0 : Within m o x0)
    (hm : Sub 4113 m := by first | exact Sub.le (by assumption) ⟨rfl⟩ | exact ⟨rfl⟩) : Within m o (State.qPush x0 x1) := by
  unfold State.qPush
  refine .ite ?_ ?_
  · exact hx0
  · split
    · exact .qmgRefuse hx0
    · extract_lets -merge +onlyGivenNames t0
      clear_value t0
      exact .qmgSync (.setPkt hx0)

theorem Within.setSel {x0 : State} {x1 : Nat} {x2 : List Nat} (hx0 : Within m o x0)
    (hm : Sub 4096 m := by first | exact Sub.le (by assumption) ⟨rfl⟩ | exact ⟨rfl⟩) : Within m o (State.setSel x0 x1 x2) :=
  .setPkt hx0

theorem Within.freeSel {x0 : State} {x1 : Nat} {x2 : Nat} (hx0 : Within m o x0)
    (hm : Sub 4097 m := by first | exact Sub.le (by assumption) ⟨rfl⟩ | exact ⟨rfl⟩) : Within m o (State.freeSel x0 x1 x2) := by
  unfold State.freeSel
  extract_lets -merge +onlyGivenNames t0 t1
  have h2 : Within m o (t1) := .setSel hx0
  clear_value t0 t1
  exact .dropFrame (.wf h2)

theorem Within.qmgFree {x0 : State} {x1 : Word} (hx0 : Within m o x0)
    (hm : Sub 4113 m := by first | exact Sub.le (by assumption) ⟨rfl⟩ | exact ⟨rfl⟩) : Within m o (State.qmgFree x0 x1) := by
  unfold State.qmgFree
  split
  · exact .qmgRefuse hx0
  · exact .freeSel hx0

theorem Within.applyPools {x0 : State} {x1 : Nat} (hx0 : Within m o x0)
    (hm : Sub 1 m := by first | exact Sub.le (by assumption) ⟨rfl⟩ | exact ⟨rfl⟩) : Within m o (State.applyPools x0 x1) := by
  induction x1 generalizing x0 with
  | zero =>
    exact hx0
  | succ n ih =>
    rw [State.applyPools]
    exact .wf (.wf (.setReg (ih hx0)))

theorem Within.execPoolApply {x0 : Init} {x1 : Word} {x2 : State} (hx2 : Within m o x2)
    (hm : Sub 53 m := by first | exact Sub.le (by assumption) ⟨rfl⟩ | exact ⟨rfl⟩) : WithinOut m o (execPoolApply x0 x1 x2) := by
  unfold Sys2Proof.Machine.execPoolApply
  exact .next (.onWrite hx2 (fun h0 => .ite h0 (.ite (.qmgRefuse h0) (by
    extract_lets -merge +onlyGivenNames t1 t2
    clear_value t1 t2
    exact .ite (.qmgRefuse h0) (.raise (.wf (.wf (.applyPools h0))))))))

theorem Within.rpoolWrite {x0 : State} {x1 : Radio} {x2 : Word} (hx0 : Within m o x0)
    (hm : Sub 17 m := by first | exact Sub.le (by assumption) ⟨rfl⟩ | exact ⟨rfl⟩) : Within m o (State.rpoolWrite x0 x1 x2) :=
  .ite (.qmgRefuse hx0) (.ite (.qmgRefuse hx0) (.setReg hx0))

theorem Within.polFill {x0 : State} {x1 : Nat} (hx0 : Within m o x0)
    (hm : Sub 4097 m := by first | exact Sub.le (by assumption) ⟨rfl⟩ | exact ⟨rfl⟩) : Within m o (State.polFill x0 x1) := by
  unfold State.polFill
  extract_lets -merge +onlyGivenNames t0
  have h1 : Within m o (t0) := .setReg (.setReg hx0)
  clear_value t0
  exact .setPkt h1

theorem Within.setQd {x0 : State} {x1 : Nat} {x2 : Nat} {x3 : Nat} {x4 : Nat} {x5 : Nat} (hx0 : Within m o x0)
    (hm : Sub 2 m := by first | exact Sub.le (by assumption) ⟨rfl⟩ | exact ⟨rfl⟩) : Within m o (State.setQd x0 x1 x2 x3 x4 x5) :=
  .wmf hx0

theorem Within.qStart {x0 : State} {x1 : QCmd} {x2 : Nat} (hx0 : Within m o x0)
    (hm : Sub 2 m := by first | exact Sub.le (by assumption) ⟨rfl⟩ | exact ⟨rfl⟩) : Within m o (qStart x0 x1 x2).1 := by
  unfold Sys2Proof.Machine.qStart
  refine .iteP ?_ ?_
  · exact hx0
  · exact .setQd hx0

theorem Within.execQmgFree {x0 : Init} {x1 : Word} {x2 : State} (hx2 : Within m o x2)
    (hm : Sub 4149 m := by first | exact Sub.le (by assumption) ⟨rfl⟩ | exact ⟨rfl⟩) : WithinOut m o (execQmgFree x0 x1 x2) := by
  unfold Sys2Proof.Machine.execQmgFree
  exact .next (.onWrite hx2 (fun h0 => .qmgFree h0))

theorem Within.qDelete {x0 : State} {x1 : QCmd} {x2 : Nat} (hx0 : Within m o x0)
    (hm : Sub 3 m := by first | exact Sub.le (by assumption) ⟨rfl⟩ | exact ⟨rfl⟩) : Within m o (qDelete x0 x1 x2).1 := by
  unfold Sys2Proof.Machine.qDelete
  refine .iteP ?_ ?_
  · exact hx0
  · refine .iteP ?_ ?_
    · exact hx0
    · exact .wf (.setQd hx0)

theorem Within.setQueue {x0 : State} {x1 : Nat} {x2 : List Nat} (hx0 : Within m o x0)
    (hm : Sub 4098 m := by first | exact Sub.le (by assumption) ⟨rfl⟩ | exact ⟨rfl⟩) : Within m o (State.setQueue x0 x1 x2) := by
  unfold State.setQueue
  extract_lets -merge +onlyGivenNames t0 t2 t3
  have h1 : Within m o (t0) := .setPkt hx0
  have h4 : Within m o (t3) := .setQd h1
  clear_value t0 t2 t3
  exact .setQd (.setQd h4)

theorem Within.qDone {x0 : State} {x1 : QCmd} {x2 : Nat} (hx0 : Within m o x0)
    (hm : Sub 4113 m := by first | exact Sub.le (by assumption) ⟨rfl⟩ | exact ⟨rfl⟩) : Within m o (State.qDone x0 x1 x2) := by
  unfold State.qDone
  extract_lets -merge +onlyGivenNames t0 t2 t4
  have h1 : Within m o (t0) := .setPkt hx0
  have h3 : Within m o (t2) := .ite (.setPkt h1) (.bump h1)
  have h5 : Within m o (t4) := .ite (.bump h3) h3
  clear_value t0 t2 t4
  exact .qmgSync (.ite h5 (.raise h5))

theorem Within.qRun {x0 : State} {x1 : Nat} {x2 : State → QCmd → Nat → State × Nat} (hx0 : Within m o x0) (hx2 : ∀ {y0} {y1} {y2}, Within m o y0 → Within m o (x2 y0 y1 y2).1)
    (hm : Sub 4113 m := by first | exact Sub.le (by assumption) ⟨rfl⟩ | exact ⟨rfl⟩) : Within m o (State.qRun x0 x1 x2) := by
  unfold State.qRun
  split
  · exact hx0
  · refine .ite ?_ ?_
    · exact hx0
    · refine .ite ?_ ?_
      · exact .qDone hx0
      · extract_lets -merge +onlyGivenNames t0
        have h1 : Within m o (t0).1 := hx2 hx0
        clear_value t0
        exact .qDone h1

theorem Within.execQStart {x0 : State} (hx0 : Within m o x0)
    (hm : Sub 4115 m := by first | exact Sub.le (by assumption) ⟨rfl⟩ | exact ⟨rfl⟩) : WithinOut m o (execQStart x0) := by
  unfold Sys2Proof.Machine.execQStart
  exact .next (.qRun hx0 (fun h0 => .qStart h0))

theorem Within.qStop {x0 : State} {x1 : QCmd} {x2 : Nat} (hx0 : Within m o x0)
    (hm : Sub 2 m := by first | exact Sub.le (by assumption) ⟨rfl⟩ | exact ⟨rfl⟩) : Within m o (qStop x0 x1 x2).1 := by
  unfold Sys2Proof.Machine.qStop
  refine .iteP ?_ ?_
  · exact hx0
  · exact .setQd hx0

theorem Within.incWord {x0 : State} {x1 : Nat} (hx0 : Within m o x0)
    (hm : Sub 2 m := by first | exact Sub.le (by assumption) ⟨rfl⟩ | exact ⟨rfl⟩) : Within m o (State.incWord x0 x1) :=
  .write32 hx0

theorem Within.qDrop {x0 : State} {x1 : Nat} {x2 : Nat} (hx0 : Within m o x0)
    (hm : Sub 4099 m := by first | exact Sub.le (by assumption) ⟨rfl⟩ | exact ⟨rfl⟩) : Within m o (State.qDrop x0 x1 x2) := by
  unfold State.qDrop
  extract_lets -merge +onlyGivenNames t0
  have h1 : Within m o (t0) := .setPkt hx0
  clear_value t0
  exact .dropFrame (.incWord h1)

theorem Within.drrLeave {x0 : State} {x1 : Nat} (hx0 : Within m o x0)
    (hm : Sub 4098 m := by first | exact Sub.le (by assumption) ⟨rfl⟩ | exact ⟨rfl⟩) : Within m o (State.drrLeave x0 x1) :=
  .setPkt (.setQd hx0)

theorem Within.qFill {x0 : State} {x1 : Nat} (hx0 : Within m o x0)
    (hm : Sub 4097 m := by first | exact Sub.le (by assumption) ⟨rfl⟩ | exact ⟨rfl⟩) : Within m o (State.qFill x0 x1) := by
  unfold State.qFill
  extract_lets -merge +onlyGivenNames t0 t1 t2
  have h3 : Within m o (t2) := .ite (.setPkt (.setReg hx0)) hx0
  clear_value t0 t1 t2
  exact .ite (.polFill h3) h3

theorem Within.qCreate {x0 : State} {x1 : QCmd} {x2 : Nat} (hx0 : Within m o x0)
    (hm : Sub 4099 m := by first | exact Sub.le (by assumption) ⟨rfl⟩ | exact ⟨rfl⟩) : Within m o (qCreate x0 x1 x2).1 := by
  unfold Sys2Proof.Machine.qCreate
  refine .iteP ?_ ?_
  · exact hx0
  · extract_lets -merge +onlyGivenNames t0 t1
    have h2 : Within m o (t1) := .setWords hx0
    clear_value t0 t1
    exact .qFill (.wf h2)

theorem Within.mark {x0 : State} {x1 : Nat} {x2 : Nat} (hx0 : Within m o x0)
    (hm : Sub 4097 m := by first | exact Sub.le (by assumption) ⟨rfl⟩ | exact ⟨rfl⟩) : Within m o (State.mark x0 x1 x2).1 := by
  unfold State.mark
  refine .iteP ?_ ?_
  · exact hx0
  · extract_lets -merge +onlyGivenNames t0 t2 t3
    have h1 : Within m o (t0) := .polRefill hx0
    clear_value t0 t2 t3
    refine .iteP ?_ ?_
    · exact h1
    · refine .iteP ?_ ?_
      · exact .setRegI h1
      · exact .setRegI (.setRegI h1)

theorem Within.beginWait {x0 : State} {x1 : Nat} (hx0 : Within m o x0)
    (hm : Sub 4096 m := by first | exact Sub.le (by assumption) ⟨rfl⟩ | exact ⟨rfl⟩) : Within m o (State.beginWait x0 x1) :=
  .ite hx0 (.setPkt hx0)

theorem Within.qAppend {x0 : State} {x1 : Nat} {x2 : Frame} (hx0 : Within m o x0)
    (hm : Sub 4099 m := by first | exact Sub.le (by assumption) ⟨rfl⟩ | exact ⟨rfl⟩) : Within m o (State.qAppend x0 x1 x2) := by
  unfold State.qAppend
  extract_lets -merge +onlyGivenNames t0 t2 t4 t6 t8
  have h1 : Within m o (t0) := .beginWait hx0
  have h3 : Within m o (t2) := .setQueue h1
  have h5 : Within m o (t4) := .setQd h3
  have h7 : Within m o (t6) := .bump (.incWord h5)
  clear_value t0 t2 t4 t6 t8
  exact .ite h7 (.reportIn h7)

theorem Within.enqueue {x0 : State} {x1 : Nat} {x2 : Frame} (hx0 : Within m o x0)
    (hm : Sub 4115 m := by first | exact Sub.le (by assumption) ⟨rfl⟩ | exact ⟨rfl⟩) : Within m o (State.enqueue x0 x1 x2) := by
  unfold State.enqueue
  refine .ite ?_ ?_
  · exact .raise (.bump (.dropFrame hx0))
  · extract_lets -merge +onlyGivenNames t0 t1 t3 t5 t6
    have h2 : Within m o (t1).1 := .mark hx0
    have h4 : Within m o (t3) := h2
    clear_value t0 t1 t3 t5 t6
    exact .ite (.qDrop (.bump (.bump h4))) (.ite (.qDrop (.bump h4)) (.qAppend h4))

theorem Within.flushAll {x0 : State} {x1 : Nat} {x2 : List Nat} (hx0 : Within m o x0)
    (hm : Sub 4099 m := by first | exact Sub.le (by assumption) ⟨rfl⟩ | exact ⟨rfl⟩) : Within m o (State.flushAll x0 x1 x2) := by
  induction x2 generalizing x0 x1 with
  | nil =>
    exact hx0
  | cons y l ih =>
    rw [State.flushAll]
    exact ih (.qDrop (.bump (by
      split
      · exact .ite hx0 (.reportOut hx0)
      · exact hx0)))

theorem Within.qFlush {x0 : State} {x1 : QCmd} {x2 : Nat} (hx0 : Within m o x0)
    (hm : Sub 4099 m := by first | exact Sub.le (by assumption) ⟨rfl⟩ | exact ⟨rfl⟩) : Within m o (qFlush x0 x1 x2).1 := by
  unfold Sys2Proof.Machine.qFlush
  refine .iteP ?_ ?_
  · exact hx0
  · extract_lets -merge +onlyGivenNames t0 t1 t3
    have h2 : Within m o (t1) := .setQueue hx0
    have h4 : Within m o (t3) := .drrLeave (.setQd h2)
    clear_value t0 t1 t3
    exact .flushAll h4

theorem Within.execQFlush {x0 : State} (hx0 : Within m o x0)
    (hm : Sub 4115 m := by first | exact Sub.le (by assumption) ⟨rfl⟩ | exact ⟨rfl⟩) : WithinOut m o (execQFlush x0) := by
  unfold Sys2Proof.Machine.execQFlush
  exact .next (.qRun hx0 (fun h0 => .qFlush h0))

theorem Within.execQmgResultPop {x0 : Init} {x1 : State} (hx1 : Within m o x1)
    (hm : Sub 4149 m := by first | exact Sub.le (by assumption) ⟨rfl⟩ | exact ⟨rfl⟩) : WithinOut m o (execQmgResultPop x0 x1) := by
  unfold Sys2Proof.Machine.execQmgResultPop
  exact .next (.onRead hx1 (fun h0 => .qPop h0))

theorem Within.execTailAlarm {x0 : Nat} {x1 : State} (hx1 : Within m o x1)
    (hm : Sub 17 m := by first | exact Sub.le (by assumption) ⟨rfl⟩ | exact ⟨rfl⟩) : WithinOut m o (execTailAlarm x0 x1) := by
  unfold Sys2Proof.Machine.execTailAlarm
  exact .next (.ite (.raise hx1) hx1)

theorem Within.execQmgCmdPush {x0 : Init} {x1 : Word} {x2 : State} (hx2 : Within m o x2)
    (hm : Sub 4149 m := by first | exact Sub.le (by assumption) ⟨rfl⟩ | exact ⟨rfl⟩) : WithinOut m o (execQmgCmdPush x0 x1 x2) := by
  unfold Sys2Proof.Machine.execQmgCmdPush
  exact .next (.onWrite hx2 (fun h0 => .qPush h0))

theorem Within.execRedAlarm {x0 : Nat} {x1 : State} (hx1 : Within m o x1)
    (hm : Sub 17 m := by first | exact Sub.le (by assumption) ⟨rfl⟩ | exact ⟨rfl⟩) : WithinOut m o (execRedAlarm x0 x1) := by
  unfold Sys2Proof.Machine.execRedAlarm
  exact .next (.ite (.raise hx1) hx1)

theorem Within.execEnqueue {x0 : State} (hx0 : Within m o x0)
    (hm : Sub 4115 m := by first | exact Sub.le (by assumption) ⟨rfl⟩ | exact ⟨rfl⟩) : WithinOut m o (execEnqueue x0) := by
  unfold Sys2Proof.Machine.execEnqueue
  split
  · exact .next hx0
  · refine .ite ?_ ?_
    · exact .next hx0
    · extract_lets -merge +onlyGivenNames t0
      have h1 : Within m o (t0) := .setPkt hx0
      clear_value t0
      split
      · exact .next (.qmgSync h1)
      · exact .next (.qmgSync (.enqueue h1))

theorem Within.execRpoolWrite {x0 : Init} {x1 : Radio} {x2 : Word} {x3 : State} (hx3 : Within m o x3)
    (hm : Sub 53 m := by first | exact Sub.le (by assumption) ⟨rfl⟩ | exact ⟨rfl⟩) : WithinOut m o (execRpoolWrite x0 x1 x2 x3) := by
  unfold Sys2Proof.Machine.execRpoolWrite
  exact .next (.onWrite hx3 (fun h0 => .rpoolWrite h0))

theorem Within.execQCreate {x0 : State} (hx0 : Within m o x0)
    (hm : Sub 4115 m := by first | exact Sub.le (by assumption) ⟨rfl⟩ | exact ⟨rfl⟩) : WithinOut m o (execQCreate x0) := by
  unfold Sys2Proof.Machine.execQCreate
  exact .next (.qRun hx0 (fun h0 => .qCreate h0))

theorem Within.execQDelete {x0 : State} (hx0 : Within m o x0)
    (hm : Sub 4115 m := by first | exact Sub.le (by assumption) ⟨rfl⟩ | exact ⟨rfl⟩) : WithinOut m o (execQDelete x0) := by
  unfold Sys2Proof.Machine.execQDelete
  exact .next (.qRun hx0 (fun h0 => .qDelete h0))

theorem Within.qSet {x0 : State} {x1 : QCmd} {x2 : Nat} (hx0 : Within m o x0)
    (hm : Sub 2 m := by first | exact Sub.le (by assumption) ⟨rfl⟩ | exact ⟨rfl⟩) : Within m o (qSet x0 x1 x2).1 := by
  unfold Sys2Proof.Machine.qSet
  refine .iteP ?_ ?_
  · exact hx0
  · refine .iteP ?_ ?_
    · exact hx0
    · extract_lets -merge +onlyGivenNames t0 t2
      have h1 : Within m o (t0) := .setQd (.setQd hx0)
      have h3 : Within m o (t2) := .write32 h1
      clear_value t0 t2
      exact .setQd (.setQd h3)

theorem Within.execQSet {x0 : State} (hx0 : Within m o x0)
    (hm : Sub 4115 m := by first | exact Sub.le (by assumption) ⟨rfl⟩ | exact ⟨rfl⟩) : WithinOut m o (execQSet x0) := by
  unfold Sys2Proof.Machine.execQSet
  exact .next (.qRun hx0 (fun h0 => .qSet h0))

theorem Within.qMove {x0 : State} {x1 : QCmd} {x2 : Nat} (hx0 : Within m o x0)
    (hm : Sub 2 m := by first | exact Sub.le (by assumption) ⟨rfl⟩ | exact ⟨rfl⟩) : Within m o (qMove x0 x1 x2).1 := by
  unfold Sys2Proof.Machine.qMove
  refine .iteP ?_ ?_
  · exact hx0
  · exact .setQd (.setQd hx0)

theorem Within.execQMove {x0 : State} (hx0 : Within m o x0)
    (hm : Sub 4115 m := by first | exact Sub.le (by assumption) ⟨rfl⟩ | exact ⟨rfl⟩) : WithinOut m o (execQMove x0) := by
  unfold Sys2Proof.Machine.execQMove
  exact .next (.qRun hx0 (fun h0 => .qMove h0))

theorem Within.execQStop {x0 : State} (hx0 : Within m o x0)
    (hm : Sub 4115 m := by first | exact Sub.le (by assumption) ⟨rfl⟩ | exact ⟨rfl⟩) : WithinOut m o (execQStop x0) := by
  unfold Sys2Proof.Machine.execQStop
  exact .next (.qRun hx0 (fun h0 => .qStop h0))

end Sys2Proof.Machine
end

