-- ==== Sys2Proof/Laws/Within4.lean ====
section
/-! SUPPORT. Which parts of the state every operation touches (`Within`), one lemma for each: Dma, OdeNbr, CryEsp, Stp. -/

namespace Sys2Proof.Machine

set_option Elab.async false
set_option linter.unusedVariables false

variable {m : Nat} {o : State}

/-! Dma -/

theorem Within.tstartLatch {x0 : State} {x1 : Nat} (hx0 : Within m o x0)
    (hm : Sub 1 m := by first | exact Sub.le (by assumption) ⟨rfl⟩ | exact ⟨rfl⟩) : Within m o (State.tstartLatch x0 x1) :=
  .setRegN hx0

theorem Within.setTstart {x0 : State} {x1 : Nat} {x2 : Nat} (hx0 : Within m o x0)
    (hm : Sub 131073 m := by first | exact Sub.le (by assumption) ⟨rfl⟩ | exact ⟨rfl⟩) : Within m o (State.setTstart x0 x1 x2) := by
  unfold State.setTstart
  extract_lets -merge +onlyGivenNames t0
  have h1 : Within m o (t0) := .setRegN hx0
  clear_value t0
  exact .in_dma h1

theorem Within.chEvent {x0 : State} {x1 : Nat} (hx0 : Within m o x0)
    (hm : Sub 17 m := by first | exact Sub.le (by assumption) ⟨rfl⟩ | exact ⟨rfl⟩) : Within m o (State.chEvent x0 x1) :=
  .raise hx0

theorem Within.chCause {x0 : State} {x1 : Nat} {x2 : Fld} (hx0 : Within m o x0)
    (hm : Sub 17 m := by first | exact Sub.le (by assumption) ⟨rfl⟩ | exact ⟨rfl⟩) : Within m o (State.chCause x0 x1 x2) :=
  .chEvent (.wb hx0)

theorem Within.chEnter {x0 : State} {x1 : Nat} {x2 : Nat} (hx0 : Within m o x0)
    (hm : Sub 1 m := by first | exact Sub.le (by assumption) ⟨rfl⟩ | exact ⟨rfl⟩) : Within m o (State.chEnter x0 x1 x2) :=
  .wf hx0

theorem Within.chFetch {x0 : State} {x1 : Nat} (hx0 : Within m o x0)
    (hm : Sub 131073 m := by first | exact Sub.le (by assumption) ⟨rfl⟩ | exact ⟨rfl⟩) : Within m o (State.chFetch x0 x1) :=
  .chEnter (.setCh hx0)

theorem Within.saddleTake {x0 : State} {x1 : Nat} (hx0 : Within m o x0)
    (hm : Sub 131089 m := by first | exact Sub.le (by assumption) ⟨rfl⟩ | exact ⟨rfl⟩) : Within m o (State.saddleTake x0 x1) := by
  unfold State.saddleTake
  extract_lets -merge +onlyGivenNames t0 t2 t4 t6 t8
  have h1 : Within m o (t0) := .setReg (.setReg hx0)
  have h3 : Within m o (t2) := .setRegN (.setReg h1)
  have h5 : Within m o (t4) := .wb (.wf h3)
  have h7 : Within m o (t6) := .wb (.wb h5)
  have h9 : Within m o (t8) := .ite (.chCause h7) h7
  clear_value t0 t2 t4 t6 t8
  exact .ite (.chFetch h9) (.setCh h9)

theorem Within.chRun {x0 : State} {x1 : Nat} (hx0 : Within m o x0)
    (hm : Sub 131073 m := by first | exact Sub.le (by assumption) ⟨rfl⟩ | exact ⟨rfl⟩) : Within m o (State.chRun x0 x1) := by
  unfold State.chRun
  extract_lets -merge +onlyGivenNames t0 t1
  clear_value t0 t1
  exact .chEnter (.setCh hx0)

theorem Within.chRefuse {x0 : State} {x1 : Nat} {x2 : Nat} (hx0 : Within m o x0)
    (hm : Sub 17 m := by first | exact Sub.le (by assumption) ⟨rfl⟩ | exact ⟨rfl⟩) : Within m o (State.chRefuse x0 x1 x2) :=
  .chEvent (.errSet hx0)

theorem Within.saddleFail {x0 : State} {x1 : Nat} (hx0 : Within m o x0)
    (hm : Sub 17 m := by first | exact Sub.le (by assumption) ⟨rfl⟩ | exact ⟨rfl⟩) : Within m o (State.saddleFail x0 x1) :=
  .chRefuse (.wb hx0)

theorem Within.chTrigger {x0 : State} {x1 : Nat} {x2 : Nat} (hx0 : Within m o x0)
    (hm : Sub 131089 m := by first | exact Sub.le (by assumption) ⟨rfl⟩ | exact ⟨rfl⟩) : Within m o (State.chTrigger x0 x1 x2) := by
  unfold State.chTrigger
  extract_lets -merge +onlyGivenNames t0
  have h1 : Within m o (t0) := .setTstart hx0
  clear_value t0
  refine .ite ?_ ?_
  · refine .ite ?_ ?_
    · extract_lets -merge +onlyGivenNames t2
      have h3 : Within m o (t2) := .saddleTake h1
      clear_value t2
      exact .setCh h3
    · exact .chRun (.saddleFail h1)
  · exact .chRun h1

theorem Within.dmaStrobe {x0 : State} {x1 : Nat} {x2 : Nat} (hx0 : Within m o x0)
    (hm : Sub 131089 m := by first | exact Sub.le (by assumption) ⟨rfl⟩ | exact ⟨rfl⟩) : Within m o (State.dmaStrobe x0 x1 x2) :=
  .ite hx0 (.ite (.chTrigger hx0) (.chCause (.wf hx0)))

theorem Within.chReject {x0 : State} {x1 : Nat} (hx0 : Within m o x0)
    (hm : Sub 17 m := by first | exact Sub.le (by assumption) ⟨rfl⟩ | exact ⟨rfl⟩) : Within m o (State.chReject x0 x1) :=
  .chRefuse (.bump hx0)

theorem Within.chEnable {x0 : State} {x1 : Nat} (hx0 : Within m o x0)
    (hm : Sub 131089 m := by first | exact Sub.le (by assumption) ⟨rfl⟩ | exact ⟨rfl⟩) : Within m o (State.chEnable x0 x1) := by
  unfold State.chEnable
  extract_lets -merge +onlyGivenNames t0
  clear_value t0
  exact .ite (.chFetch hx0) (.ite (.chReject hx0) hx0)

theorem Within.chStart {x0 : State} {x1 : Nat} (hx0 : Within m o x0)
    (hm : Sub 131089 m := by first | exact Sub.le (by assumption) ⟨rfl⟩ | exact ⟨rfl⟩) : Within m o (State.chStart x0 x1) :=
  .ite (.chTrigger hx0) (.chReject hx0)

theorem Within.chPause {x0 : State} {x1 : Nat} (hx0 : Within m o x0)
    (hm : Sub 17 m := by first | exact Sub.le (by assumption) ⟨rfl⟩ | exact ⟨rfl⟩) : Within m o (State.chPause x0 x1) := by
  unfold State.chPause
  extract_lets -merge +onlyGivenNames t0
  clear_value t0
  exact .ite (.chEnter hx0) (.ite (.wb hx0) (.ite hx0 (.chReject hx0)))

theorem Within.chResume {x0 : State} {x1 : Nat} (hx0 : Within m o x0)
    (hm : Sub 131089 m := by first | exact Sub.le (by assumption) ⟨rfl⟩ | exact ⟨rfl⟩) : Within m o (State.chResume x0 x1) :=
  .ite (.chReject hx0) (.ite (.chEnter hx0) (.chFetch hx0))

theorem Within.chStop {x0 : State} {x1 : Nat} (hx0 : Within m o x0)
    (hm : Sub 131073 m := by first | exact Sub.le (by assumption) ⟨rfl⟩ | exact ⟨rfl⟩) : Within m o (State.chStop x0 x1) := by
  unfold State.chStop
  extract_lets -merge +onlyGivenNames t0
  clear_value t0
  exact .ite hx0 (.ite (.wb hx0) (.chEnter (.setCh hx0)))

theorem Within.chDiscard {x0 : State} {x1 : Nat} {x2 : DmaChan} (hx0 : Within m o x0)
    (hm : Sub 1 m := by first | exact Sub.le (by assumption) ⟨rfl⟩ | exact ⟨rfl⟩) : Within m o (State.chDiscard x0 x1 x2) :=
  .ite (.release hx0) hx0

theorem Within.chAdvance {x0 : State} {x1 : Nat} (hx0 : Within m o x0)
    (hm : Sub 1 m := by first | exact Sub.le (by assumption) ⟨rfl⟩ | exact ⟨rfl⟩) : Within m o (State.chAdvance x0 x1) :=
  .setRegN hx0

theorem Within.chUnknown {x0 : State} {x1 : Nat} {x2 : Nat} (hx0 : Within m o x0)
    (hm : Sub 2 m := by first | exact Sub.le (by assumption) ⟨rfl⟩ | exact ⟨rfl⟩) : Within m o (State.chUnknown x0 x1 x2) := by
  induction x2 generalizing x0 x1 with
  | zero =>
    exact hx0
  | succ n ih =>
    rw [State.chUnknown]
    exact .write32 (ih (.used hx0))

theorem Within.chBoundary {x0 : State} {x1 : Nat} {x2 : Bool} (hx0 : Within m o x0)
    (hm : Sub 131073 m := by first | exact Sub.le (by assumption) ⟨rfl⟩ | exact ⟨rfl⟩) : Within m o (State.chBoundary x0 x1 x2) := by
  unfold State.chBoundary
  extract_lets -merge +onlyGivenNames t0 t1 t2
  have h3 : Within m o (t2) := .setCh (.wb (.wb hx0))
  clear_value t0 t1 t2
  exact .ite (.chEnter h3) (.ite (.chEnter h3) (.ite (.chEnter h3) (.chFetch h3)))

theorem Within.chComplete {x0 : State} {x1 : Nat} {x2 : Nat} {x3 : Bool} (hx0 : Within m o x0)
    (hm : Sub 3276819 m := by first | exact Sub.le (by assumption) ⟨rfl⟩ | exact ⟨rfl⟩) : Within m o (State.chComplete x0 x1 x2 x3) := by
  unfold State.chComplete
  extract_lets -merge +onlyGivenNames t0 t1 t2 t3
  have h4 : Within m o (t3) := .ite hx0 (.chDiscard hx0)
  clear_value t0 t1 t2 t3
  refine .ite ?_ ?_
  · extract_lets -merge +onlyGivenNames t5
    have h6 : Within m o (t5) := .chAdvance (.ite (.chUnknown h4) h4)
    clear_value t5
    exact .chBoundary (.chCause (.wf h6))
  · extract_lets -merge +onlyGivenNames t7 t9 t11 t13
    have h8 : Within m o (t7) := by
      unfold t7
      split
      · exact h4
      · exact .store h4
    have h10 : Within m o (t9) := .store h8
    have h12 : Within m o (t11) := .chAdvance (.store h10)
    have h14 : Within m o (t13) := .wf h12
    clear_value t7 t9 t11 t13
    exact .ite (.chBoundary (.chCause h14)) (.ite (.chBoundary (.chCause (.wb h14))) (.chBoundary (.ite (.chCause h14) h14)))

theorem Within.chAbort {x0 : State} {x1 : Nat} (hx0 : Within m o x0)
    (hm : Sub 3276819 m := by first | exact Sub.le (by assumption) ⟨rfl⟩ | exact ⟨rfl⟩) : Within m o (State.chAbort x0 x1) := by
  unfold State.chAbort
  extract_lets -merge +onlyGivenNames t0 t1
  have h2 : Within m o (t1) := .wb (.wb hx0)
  clear_value t0 t1
  refine .ite ?_ ?_
  · extract_lets -merge +onlyGivenNames t3
    clear_value t3
    exact .ite h2 (.setCh h2)
  · exact .ite (.chComplete h2) (.ite hx0 (.chReject hx0))

theorem Within.chClear {x0 : State} {x1 : Nat} (hx0 : Within m o x0)
    (hm : Sub 131089 m := by first | exact Sub.le (by assumption) ⟨rfl⟩ | exact ⟨rfl⟩) : Within m o (State.chClear x0 x1) :=
  .ite (.chFetch hx0) (.chReject hx0)

theorem Within.chCmd {x0 : Nat} {x1 : Nat} {x2 : State} (hx2 : Within m o x2)
    (hm : Sub 3276819 m := by first | exact Sub.le (by assumption) ⟨rfl⟩ | exact ⟨rfl⟩) : Within m o (State.chCmd x0 x1 x2) :=
  .ite (.chRefuse hx2) (.ite (.chEnable hx2) (.ite (.chStart hx2) (.ite (.chPause hx2) (.ite (.chResume hx2) (.ite (.chStop hx2) (.ite (.chAbort hx2) (.ite (.chClear hx2) (.chRefuse hx2))))))))

theorem Within.chDoorbell {x0 : Nat} {x1 : Word} {x2 : State} (hx2 : Within m o x2)
    (hm : Sub 131089 m := by first | exact Sub.le (by assumption) ⟨rfl⟩ | exact ⟨rfl⟩) : Within m o (State.chDoorbell x0 x1 x2) := by
  unfold State.chDoorbell
  refine .ite ?_ ?_
  · exact .chRefuse hx2
  · refine .ite ?_ ?_
    · extract_lets -merge +onlyGivenNames t0
      clear_value t0
      exact .ite (.setCh hx2) (.setCh hx2)
    · exact hx2

theorem Within.shadowWrite {x0 : Nat} {x1 : Nat} {x2 : Nat} {x3 : Word} {x4 : State} (hx4 : Within m o x4)
    (hm : Sub 17 m := by first | exact Sub.le (by assumption) ⟨rfl⟩ | exact ⟨rfl⟩) : Within m o (State.shadowWrite x0 x1 x2 x3 x4) :=
  .ite (.chRefuse hx4) (.ite (.writeReg hx4) (.wb (.writeReg hx4)))

theorem Within.saddleWrite {x0 : Nat} {x1 : Nat} {x2 : Word} {x3 : State} (hx3 : Within m o x3)
    (hm : Sub 17 m := by first | exact Sub.le (by assumption) ⟨rfl⟩ | exact ⟨rfl⟩) : Within m o (State.saddleWrite x0 x1 x2 x3) :=
  .ite (.chRefuse hx3) (.writeReg hx3)

theorem Within.injectStore {x0 : State} {x1 : Nat} {x2 : List Word} {x3 : List Byte} (hx0 : Within m o x0)
    (hm : Sub 4099 m := by first | exact Sub.le (by assumption) ⟨rfl⟩ | exact ⟨rfl⟩) : Within m o (State.injectStore x0 x1 x2 x3) := by
  unfold State.injectStore
  extract_lets -merge +onlyGivenNames t0 t1 t3
  have h2 : Within m o (t1).1 := .putFrame hx0
  clear_value t0 t1 t3
  refine .ite ?_ ?_
  · extract_lets -merge +onlyGivenNames t4 t5
    have h6 : Within m o (t5) := .setHdr h2
    clear_value t4 t5
    exact .qmgSync (.setPkt h6)
  · exact .toPpe h2

theorem Within.execDmaEnable {x0 : Init} {x1 : Fin 128} {x2 : State} (hx2 : Within m o x2)
    (hm : Sub 3276855 m := by first | exact Sub.le (by assumption) ⟨rfl⟩ | exact ⟨rfl⟩) : WithinOut m o (execDmaEnable x0 x1 x2) := by
  unfold Sys2Proof.Machine.execDmaEnable
  exact .next (.onWrite hx2 (fun h0 => .chCmd h0))

theorem Within.chHalt {x0 : State} {x1 : Nat} {x2 : Nat} (hx0 : Within m o x0)
    (hm : Sub 131089 m := by first | exact Sub.le (by assumption) ⟨rfl⟩ | exact ⟨rfl⟩) : Within m o (State.chHalt x0 x1 x2) := by
  unfold State.chHalt
  extract_lets -merge +onlyGivenNames t0
  have h1 : Within m o (t0) := .setCh hx0
  clear_value t0
  exact .chCause (.wf (.chEnter h1))

theorem Within.execDoorbell {x0 : Init} {x1 : Fin 128} {x2 : Word} {x3 : State} (hx3 : Within m o x3)
    (hm : Sub 131125 m := by first | exact Sub.le (by assumption) ⟨rfl⟩ | exact ⟨rfl⟩) : WithinOut m o (execDoorbell x0 x1 x2 x3) := by
  unfold Sys2Proof.Machine.execDoorbell
  exact .next (.onWrite hx3 (fun h0 => .chDoorbell h0))

theorem Within.execDmaClear {x0 : Init} {x1 : Fin 128} {x2 : State} (hx2 : Within m o x2)
    (hm : Sub 3276855 m := by first | exact Sub.le (by assumption) ⟨rfl⟩ | exact ⟨rfl⟩) : WithinOut m o (execDmaClear x0 x1 x2) := by
  unfold Sys2Proof.Machine.execDmaClear
  exact .next (.onWrite hx2 (fun h0 => .chCmd h0))

theorem Within.chTake {x0 : State} {x1 : Nat} {x2 : List Word} (hx0 : Within m o x0)
    (hm : Sub 131073 m := by first | exact Sub.le (by assumption) ⟨rfl⟩ | exact ⟨rfl⟩) : Within m o (State.chTake x0 x1 x2) := by
  unfold State.chTake
  extract_lets -merge +onlyGivenNames t0 t1 d2 t3
  clear_value t0 t1 t3
  exact .ite (.chEnter (.setCh hx0)) (.ite (.chEnter (.setCh hx0)) (.chRun (.setCh hx0)))

theorem Within.execDmaAbort {x0 : Init} {x1 : Fin 128} {x2 : State} (hx2 : Within m o x2)
    (hm : Sub 3276855 m := by first | exact Sub.le (by assumption) ⟨rfl⟩ | exact ⟨rfl⟩) : WithinOut m o (execDmaAbort x0 x1 x2) := by
  unfold Sys2Proof.Machine.execDmaAbort
  exact .next (.onWrite hx2 (fun h0 => .chCmd h0))

theorem Within.execInjectUnitsGrant {x0 : Fin 128} {x1 : State} (hx1 : Within m o x1)
    (hm : Sub 131089 m := by first | exact Sub.le (by assumption) ⟨rfl⟩ | exact ⟨rfl⟩) : WithinOut m o (execInjectUnitsGrant x0 x1) := by
  unfold Sys2Proof.Machine.execInjectUnitsGrant
  extract_lets -merge +onlyGivenNames t0 t1
  clear_value t0 t1
  refine .ite ?_ ?_
  · exact .next hx1
  · split
    · exact .next hx1
    · exact .next (.setCh ((Within.charge hx1) _ (by assumption)))

theorem Within.execDescriptorFetch {x0 : Fin 128} {x1 : Bool} {x2 : State} (hx2 : Within m o x2)
    (hm : Sub 3276817 m := by first | exact Sub.le (by assumption) ⟨rfl⟩ | exact ⟨rfl⟩) : WithinOut m o (execDescriptorFetch x0 x1 x2) := by
  unfold Sys2Proof.Machine.execDescriptorFetch
  extract_lets -merge +onlyGivenNames t0 t1
  clear_value t0 t1
  refine .ite ?_ ?_
  · exact .next hx2
  · extract_lets -merge +onlyGivenNames t2
    clear_value t2
    refine .ite ?_ ?_
    · exact .next (.chHalt hx2)
    · refine .ite ?_ ?_
      · exact .next (.chHalt (.eccRead hx2))
      · extract_lets -merge +onlyGivenNames t3 t5
        have h4 : Within m o (t3) := .eccRead hx2
        clear_value t3 t5
        refine .ite ?_ ?_
        · exact .next (.chTake h4)
        · refine .ite ?_ ?_
          · exact .next (.setCh h4)
          · exact .next (.setCh h4)

theorem Within.execDmaStop {x0 : Init} {x1 : Fin 128} {x2 : State} (hx2 : Within m o x2)
    (hm : Sub 3276855 m := by first | exact Sub.le (by assumption) ⟨rfl⟩ | exact ⟨rfl⟩) : WithinOut m o (execDmaStop x0 x1 x2) := by
  unfold Sys2Proof.Machine.execDmaStop
  exact .next (.onWrite hx2 (fun h0 => .chCmd h0))

theorem Within.execDescriptorComplete {x0 : Fin 128} {x1 : Bool} {x2 : State} (hx2 : Within m o x2)
    (hm : Sub 3276819 m := by first | exact Sub.le (by assumption) ⟨rfl⟩ | exact ⟨rfl⟩) : WithinOut m o (execDescriptorComplete x0 x1 x2) := by
  unfold Sys2Proof.Machine.execDescriptorComplete
  refine .ite ?_ ?_
  · exact .next hx2
  · split
    · exact .next hx2
    · exact .next (.chComplete hx2)

theorem Within.execDmaResume {x0 : Init} {x1 : Fin 128} {x2 : State} (hx2 : Within m o x2)
    (hm : Sub 3276855 m := by first | exact Sub.le (by assumption) ⟨rfl⟩ | exact ⟨rfl⟩) : WithinOut m o (execDmaResume x0 x1 x2) := by
  unfold Sys2Proof.Machine.execDmaResume
  exact .next (.onWrite hx2 (fun h0 => .chCmd h0))

theorem Within.execDmaTriggerStrobe {x0 : Fin 128} {x1 : GTime} {x2 : State} (hx2 : Within m o x2)
    (hm : Sub 131089 m := by first | exact Sub.le (by assumption) ⟨rfl⟩ | exact ⟨rfl⟩) : WithinOut m o (execDmaTriggerStrobe x0 x1 x2) := by
  unfold Sys2Proof.Machine.execDmaTriggerStrobe
  exact .next (.dmaStrobe hx2)

theorem Within.execDmaStart {x0 : Init} {x1 : Fin 128} {x2 : State} (hx2 : Within m o x2)
    (hm : Sub 3276855 m := by first | exact Sub.le (by assumption) ⟨rfl⟩ | exact ⟨rfl⟩) : WithinOut m o (execDmaStart x0 x1 x2) := by
  unfold Sys2Proof.Machine.execDmaStart
  exact .next (.onWrite hx2 (fun h0 => .chCmd h0))

theorem Within.execDmaPause {x0 : Init} {x1 : Fin 128} {x2 : State} (hx2 : Within m o x2)
    (hm : Sub 3276855 m := by first | exact Sub.le (by assumption) ⟨rfl⟩ | exact ⟨rfl⟩) : WithinOut m o (execDmaPause x0 x1 x2) := by
  unfold Sys2Proof.Machine.execDmaPause
  exact .next (.onWrite hx2 (fun h0 => .chCmd h0))

theorem Within.execShadowWrite {x0 : Init} {x1 : Fin 128} {x2 : Fin 4} {x3 : Word} {x4 : State} (hx4 : Within m o x4)
    (hm : Sub 53 m := by first | exact Sub.le (by assumption) ⟨rfl⟩ | exact ⟨rfl⟩) : WithinOut m o (execShadowWrite x0 x1 x2 x3 x4) := by
  unfold Sys2Proof.Machine.execShadowWrite
  exact .next (.onWrite hx4 (fun h0 => .shadowWrite h0))

theorem Within.execSaddleArm {x0 : Init} {x1 : Fin 128} {x2 : Word} {x3 : State} (hx3 : Within m o x3)
    (hm : Sub 53 m := by first | exact Sub.le (by assumption) ⟨rfl⟩ | exact ⟨rfl⟩) : WithinOut m o (execSaddleArm x0 x1 x2 x3) := by
  unfold Sys2Proof.Machine.execSaddleArm
  exact .next (.onWrite hx3 (fun h0 => .saddleWrite h0))

theorem Within.execSaddle {x0 : Fin 128} {x1 : State} (hx1 : Within m o x1)
    (hm : Sub 131089 m := by first | exact Sub.le (by assumption) ⟨rfl⟩ | exact ⟨rfl⟩) : WithinOut m o (execSaddle x0 x1) := by
  unfold Sys2Proof.Machine.execSaddle
  extract_lets -merge +onlyGivenNames t0
  clear_value t0
  refine .ite ?_ ?_
  · exact .next hx1
  · refine .ite ?_ ?_
    · exact .next (.saddleTake hx1)
    · exact .next (.saddleFail hx1)

/-! OdeNbr -/

theorem Within.subRoutes {x0 : State} {x1 : Nat} {x2 : Nat} (hx0 : Within m o x0)
    (hm : Sub 1 m := by first | exact Sub.le (by assumption) ⟨rfl⟩ | exact ⟨rfl⟩) : Within m o (State.subRoutes x0 x1 x2) := by
  induction x2 generalizing x0 x1 with
  | zero =>
    exact hx0
  | succ n ih =>
    rw [State.subRoutes]
    exact .setReg (ih hx0)

theorem Within.syncSubs {x0 : State} (hx0 : Within m o x0)
    (hm : Sub 1 m := by first | exact Sub.le (by assumption) ⟨rfl⟩ | exact ⟨rfl⟩) : Within m o (State.syncSubs x0) :=
  .ite (.subRoutes hx0) hx0

theorem Within.setOde {x0 : State} {x1 : OdeSt → OdeSt} (hx0 : Within m o x0)
    (hm : Sub 4194304 m := by first | exact Sub.le (by assumption) ⟨rfl⟩ | exact ⟨rfl⟩) : Within m o (State.setOde x0 x1) :=
  .in_ode hx0

theorem Within.setDev {x0 : State} {x1 : Nat} (hx0 : Within m o x0)
    (hm : Sub 4194321 m := by first | exact Sub.le (by assumption) ⟨rfl⟩ | exact ⟨rfl⟩) : Within m o (State.setDev x0 x1) :=
  .ite hx0 (.raise (.setOde (.wf hx0)))

theorem Within.odeKeep {x0 : State} (hx0 : Within m o x0)
    (hm : Sub 1 m := by first | exact Sub.le (by assumption) ⟨rfl⟩ | exact ⟨rfl⟩) : Within m o (State.odeKeep x0) :=
  .wf (.wb hx0)

theorem Within.setSessions {x0 : State} {x1 : List Session → List Session} (hx0 : Within m o x0)
    (hm : Sub 4194305 m := by first | exact Sub.le (by assumption) ⟨rfl⟩ | exact ⟨rfl⟩) : Within m o (State.setSessions x0 x1) :=
  .odeKeep (.syncSubs (.setOde hx0))

theorem Within.odeAlarm {x0 : State} (hx0 : Within m o x0) (hm : Sub 29360145 m := by first | exact Sub.le (by assumption) ⟨rfl⟩ | exact ⟨rfl⟩) : Within m o x0.odeAlarm := by
  have h : ∀ {s : State} {a b : CanSt}, Within m o s → Within m o { s with can0 := a, can1 := b } :=  fun h =>
    .upd (k := 25165824) h (fun p => by cases p <;> first | exact .inr rfl | exact .inl rfl)
  unfold State.odeAlarm
  exact .ite (h (.odeKeep (.setOde (.setSessions hx0)))) (.setDev (h (.odeKeep (.setOde (.setSessions hx0)))))

theorem Within.nbrReport {x0 : State} {x1 : NbrReport} (hx0 : Within m o x0)
    (hm : Sub 4194321 m := by first | exact Sub.le (by assumption) ⟨rfl⟩ | exact ⟨rfl⟩) : Within m o (State.nbrReport x0 x1) := by
  unfold State.nbrReport
  extract_lets -merge +onlyGivenNames t0 t1 t2 t3 t4 t6 t8 t10 t12
  have h5 : Within m o (t4) := .setReg (.setReg hx0)
  have h7 : Within m o (t6) := .wf (.wf (.wb h5))
  have h9 : Within m o (t8) := .setReg (.setReg h7)
  have h11 : Within m o (t10) := .setReg h9
  have h13 : Within m o (t12) := .setOde h11
  clear_value t0 t1 t2 t3 t4 t6 t8 t10 t12
  refine .ite ?_ ?_
  · exact h13
  · refine .ite ?_ ?_
    · extract_lets -merge +onlyGivenNames t14
      have h15 : Within m o (t14) := .raise (.bump h13)
      clear_value t14
      exact .ite (.setOde h15) h15
    · exact .ite (.bump h13) (.ite (.raise (.bump h13)) h13)

/-! CryEsp -/

theorem Within.pgPop {x0 : Init} {x1 : Nat} {x2 : State} (hx2 : Within m o x2)
    (hm : Sub 262148 m := by first | exact Sub.le (by assumption) ⟨rfl⟩ | exact ⟨rfl⟩) : Within m o (State.pgPop x0 x1 x2) := by
  unfold State.pgPop
  split
  · exact .answer hx2
  · exact .answer (.setPage hx2)

theorem Within.setSa {x0 : State} {x1 : Nat} {x2 : Sa} (hx0 : Within m o x0)
    (hm : Sub 262144 m := by first | exact Sub.le (by assumption) ⟨rfl⟩ | exact ⟨rfl⟩) : Within m o (State.setSa x0 x1 x2) :=
  .setCry hx0

theorem Within.saLoad {x0 : State} {x1 : Nat} (hx0 : Within m o x0)
    (hm : Sub 3407889 m := by first | exact Sub.le (by assumption) ⟨rfl⟩ | exact ⟨rfl⟩) : Within m o (State.saLoad x0 x1).1 := by
  unfold State.saLoad
  extract_lets -merge +onlyGivenNames t0
  clear_value t0
  refine .iteP ?_ ?_
  · exact hx0
  · refine .iteP ?_ ?_
    · exact hx0
    · refine .iteP ?_ ?_
      · exact .eccRead hx0
      · extract_lets -merge +onlyGivenNames t1 t3 t4
        have h2 : Within m o (t1) := .eccRead hx0
        clear_value t1 t3 t4
        refine .iteP ?_ ?_
        · exact h2
        · extract_lets -merge +onlyGivenNames t5
          clear_value t5
          exact .setSa h2

theorem Within.saErase {x0 : State} {x1 : Nat} (hx0 : Within m o x0)
    (hm : Sub 262144 m := by first | exact Sub.le (by assumption) ⟨rfl⟩ | exact ⟨rfl⟩) : Within m o (State.saErase x0 x1) :=
  .setCry (.setSa hx0)

theorem Within.saRead {x0 : State} {x1 : Nat} (hx0 : Within m o x0)
    (hm : Sub 3145747 m := by first | exact Sub.le (by assumption) ⟨rfl⟩ | exact ⟨rfl⟩) : Within m o (State.saRead x0 x1).1 := by
  unfold State.saRead
  refine .iteP ?_ ?_
  · exact hx0
  · exact .store hx0

theorem Within.saCmd {x0 : State} {x1 : Nat} {x2 : Nat} {x3 : Nat} (hx0 : Within m o x0)
    (hm : Sub 3407891 m := by first | exact Sub.le (by assumption) ⟨rfl⟩ | exact ⟨rfl⟩) : Within m o (State.saCmd x0 x1 x2 x3) :=
  .ite (.keyDone hx0) (.ite (.keyDone (.saLoad hx0)) (.ite (.keyDone (.saErase hx0)) (.ite (.keyDone (.saRead hx0)) (.keyDone hx0))))

theorem Within.almPolWrite {x0 : State} {x1 : Word} (hx0 : Within m o x0)
    (hm : Sub 17 m := by first | exact Sub.le (by assumption) ⟨rfl⟩ | exact ⟨rfl⟩) : Within m o (State.almPolWrite x0 x1) :=
  .ite (.refuse hx0) (.setReg hx0)

theorem Within.execAlarmLock {x0 : Init} {x1 : Word} {x2 : State} (hx2 : Within m o x2)
    (hm : Sub 53 m := by first | exact Sub.le (by assumption) ⟨rfl⟩ | exact ⟨rfl⟩) : WithinOut m o (execAlarmLock x0 x1 x2) := by
  unfold Sys2Proof.Machine.execAlarmLock
  exact .next (.onWrite hx2 (fun h0 => .setReg h0))

theorem Within.execAlarmClear {x0 : Init} {x1 : Word} {x2 : State} (hx2 : Within m o x2)
    (hm : Sub 53 m := by first | exact Sub.le (by assumption) ⟨rfl⟩ | exact ⟨rfl⟩) : WithinOut m o (execAlarmClear x0 x1 x2) := by
  unfold Sys2Proof.Machine.execAlarmClear
  exact .next (.onWrite hx2 (fun h0 => .ite (.refuse h0) (.ite (.wf h0) h0)))

theorem Within.pgDone {x0 : State} {x1 : Nat} {x2 : Nat} {x3 : Nat} {x4 : Nat} {x5 : Nat} (hx0 : Within m o x0)
    (hm : Sub 262161 m := by first | exact Sub.le (by assumption) ⟨rfl⟩ | exact ⟨rfl⟩) : Within m o (State.pgDone x0 x1 x2 x3 x4 x5) := by
  unfold State.pgDone
  extract_lets -merge +onlyGivenNames t0
  have h1 : Within m o (t0) := .ite hx0 (.raise (.errSet (.cryCount hx0)))
  clear_value t0
  exact .ite (.setPage h1) (.bump h1)

theorem Within.pgEnable {x0 : State} {x1 : Nat} {x2 : Nat} (hx0 : Within m o x0)
    (hm : Sub 262161 m := by first | exact Sub.le (by assumption) ⟨rfl⟩ | exact ⟨rfl⟩) : Within m o (State.pgEnable x0 x1 x2) := by
  unfold State.pgEnable
  extract_lets -merge +onlyGivenNames t0
  clear_value t0
  refine .ite ?_ ?_
  · exact .pgDone hx0
  · extract_lets -merge +onlyGivenNames t1
    have h2 : Within m o (t1) := .ite (.setPage (.wf hx0)) hx0
    clear_value t1
    exact .pgDone h2

theorem Within.pgStop {x0 : State} {x1 : Nat} {x2 : Nat} (hx0 : Within m o x0)
    (hm : Sub 262163 m := by first | exact Sub.le (by assumption) ⟨rfl⟩ | exact ⟨rfl⟩) : Within m o (State.pgStop x0 x1 x2) := by
  unfold State.pgStop
  extract_lets -merge +onlyGivenNames t0
  have h1 : Within m o (t0) := .ite hx0 (.pgSettle (.setPage hx0))
  clear_value t0
  exact .pgDone h1

theorem Within.pgClear {x0 : State} {x1 : Nat} {x2 : Nat} (hx0 : Within m o x0)
    (hm : Sub 262161 m := by first | exact Sub.le (by assumption) ⟨rfl⟩ | exact ⟨rfl⟩) : Within m o (State.pgClear x0 x1 x2) :=
  .ite (.pgDone (.setPage (.wf hx0))) (.pgDone hx0)

theorem Within.ctxSave {x0 : State} {x1 : Nat} {x2 : Nat} {x3 : Nat} (hx0 : Within m o x0)
    (hm : Sub 3932179 m := by first | exact Sub.le (by assumption) ⟨rfl⟩ | exact ⟨rfl⟩) : Within m o (State.ctxSave x0 x1 x2 x3) := by
  unfold State.ctxSave
  extract_lets -merge +onlyGivenNames t0 t1 t2 t3
  clear_value t0 t1 t2 t3
  refine .ite ?_ ?_
  · exact .pgDone hx0
  · refine .ite ?_ ?_
    · exact .pgDone hx0
    · refine .ite ?_ ?_
      · exact .pgDone hx0
      · refine .ite ?_ ?_
        · exact .pgDone hx0
        · refine .ite ?_ ?_
          · exact .pgDone hx0
          · extract_lets -merge +onlyGivenNames t4 t6
            have h5 : Within m o (t4).1 := by
              unfold t4
              refine .iteP ?_ ?_
              · exact .draw hx0
              · exact hx0
            clear_value t4 t6
            exact .pgDone (.setCtx (.store h5))

theorem Within.ctxRestore {x0 : State} {x1 : Nat} {x2 : Nat} {x3 : Nat} (hx0 : Within m o x0)
    (hm : Sub 3407889 m := by first | exact Sub.le (by assumption) ⟨rfl⟩ | exact ⟨rfl⟩) : Within m o (State.ctxRestore x0 x1 x2 x3) := by
  unfold State.ctxRestore
  extract_lets -merge +onlyGivenNames t0 t1 t2
  clear_value t0 t1 t2
  refine .ite ?_ ?_
  · exact .pgDone hx0
  · refine .ite ?_ ?_
    · exact .pgDone hx0
    · refine .ite ?_ ?_
      · exact .pgDone hx0
      · refine .ite ?_ ?_
        · exact .pgDone (.eccRead hx0)
        · extract_lets -merge +onlyGivenNames t3 t5
          have h4 : Within m o (t3) := .eccRead hx0
          clear_value t3 t5
          refine .ite ?_ ?_
          · exact .pgDone h4
          · split
            · exact .pgDone h4
            · exact .pgDone (.setCtx h4)

theorem Within.ctxDrop {x0 : State} {x1 : Nat} {x2 : Nat} {x3 : Nat} (hx0 : Within m o x0)
    (hm : Sub 262161 m := by first | exact Sub.le (by assumption) ⟨rfl⟩ | exact ⟨rfl⟩) : Within m o (State.ctxDrop x0 x1 x2 x3) :=
  .ite (.pgDone hx0) (.pgDone (.setCtx hx0))

theorem Within.pgCmd {x0 : State} {x1 : Nat} {x2 : Nat} {x3 : Nat} {x4 : Nat} (hx0 : Within m o x0)
    (hm : Sub 3932179 m := by first | exact Sub.le (by assumption) ⟨rfl⟩ | exact ⟨rfl⟩) : Within m o (State.pgCmd x0 x1 x2 x3 x4) :=
  .ite (.pgDone hx0) (.ite (.pgDone hx0) (.ite (.pgEnable hx0) (.ite (.pgStop hx0) (.ite (.pgClear hx0) (.ite (.ctxSave hx0) (.ite (.ctxRestore hx0) (.ite (.ctxDrop hx0) (.pgDone hx0))))))))

theorem Within.espStart {x0 : State} {x1 : Nat} {x2 : Nat} {x3 : List Byte} (hx0 : Within m o x0)
    (hm : Sub 262145 m := by first | exact Sub.le (by assumption) ⟨rfl⟩ | exact ⟨rfl⟩) : Within m o (State.espStart x0 x1 x2 x3) := by
  unfold State.espStart
  extract_lets -merge +onlyGivenNames t0
  refine .ite ?_ ?_
  · exact .setCry (.cryCount hx0)
  · extract_lets -merge +onlyGivenNames t1 t2
    exact .crySync (.setCry hx0)

theorem Within.pkeAbort {x0 : State} (hx0 : Within m o x0)
    (hm : Sub 524305 m := by first | exact Sub.le (by assumption) ⟨rfl⟩ | exact ⟨rfl⟩) : Within m o (State.pkeAbort x0) := by
  unfold State.pkeAbort
  split
  · exact hx0
  · refine .ite ?_ ?_
    · exact hx0
    · extract_lets -merge +onlyGivenNames t0 t1 t3 t5 t7
      have h2 : Within m o (t1) := .setPke hx0
      have h4 : Within m o (t3) := .wf h2
      have h6 : Within m o (t5) := .bump (.errSet h4)
      have h8 : Within m o (t7) := .ite (.setPke h6) (.bump h6)
      clear_value t0 t1 t3 t5 t7
      exact .raise h8

theorem Within.killCtx {x0 : State} {x1 : CryCtx → Bool} (hx0 : Within m o x0)
    (hm : Sub 262144 m := by first | exact Sub.le (by assumption) ⟨rfl⟩ | exact ⟨rfl⟩) : Within m o (State.killCtx x0 x1) :=
  .setCry hx0

theorem Within.alarmErase {x0 : State} (hx0 : Within m o x0)
    (hm : Sub 32768023 m := by first | exact Sub.le (by assumption) ⟨rfl⟩ | exact ⟨rfl⟩) : Within m o (State.alarmErase x0) := by
  unfold State.alarmErase
  extract_lets -merge +onlyGivenNames t0 t2 t5 t7
  have h1 : Within m o (t0) := .setCry hx0
  have h4 : Within m o (t2) := .abortAll h1 (fun h3 => h3)
  have h6 : Within m o (t5) := .killCtx h4
  have h8 : Within m o (t7) := .setCry h6
  clear_value t0 t2 t5 t7
  exact .odeAlarm (.wf h8)

theorem Within.alarm {x0 : State} {x1 : Nat} (hx0 : Within m o x0)
    (hm : Sub 33292311 m := by first | exact Sub.le (by assumption) ⟨rfl⟩ | exact ⟨rfl⟩) : Within m o (State.alarm x0 x1) := by
  unfold State.alarm
  extract_lets -merge +onlyGivenNames t0 t2
  have h1 : Within m o (t0) := .setReg hx0
  have h3 : Within m o (t2) := .raise h1
  clear_value t0 t2
  exact .ite (.pkeAbort (.alarmErase h3)) h3

theorem Within.espFail {x0 : State} {x1 : CryOp} {x2 : Nat} {x3 : Nat} (hx0 : Within m o x0)
    (hm : Sub 262144 m := by first | exact Sub.le (by assumption) ⟨rfl⟩ | exact ⟨rfl⟩) : Within m o (State.espFail x0 x1 x2 x3).1 := by
  unfold State.espFail
  exact .ite (.setSa hx0) hx0

theorem Within.alarmWipe {x0 : State} (hx0 : Within m o x0)
    (hm : Sub 262144 m := by first | exact Sub.le (by assumption) ⟨rfl⟩ | exact ⟨rfl⟩) : Within m o (State.alarmWipe x0) :=
  .setCry hx0

theorem Within.execSaRead {x0 : Init} {x1 : BitVec 8} {x2 : Fin 256} {x3 : State} (hx3 : Within m o x3)
    (hm : Sub 3407927 m := by first | exact Sub.le (by assumption) ⟨rfl⟩ | exact ⟨rfl⟩) : WithinOut m o (execSaRead x0 x1 x2 x3) := by
  unfold Sys2Proof.Machine.execSaRead
  exact .next (.onWrite hx3 (fun h0 => .saCmd h0))

theorem Within.execEraseComplete {x0 : Fin 1024} {x1 : State} (hx1 : Within m o x1)
    (hm : Sub 3407895 m := by first | exact Sub.le (by assumption) ⟨rfl⟩ | exact ⟨rfl⟩) : WithinOut m o (execEraseComplete x0 x1) := by
  unfold Sys2Proof.Machine.execEraseComplete
  extract_lets -merge +onlyGivenNames t0
  clear_value t0
  refine .ite ?_ ?_
  · exact .next hx1
  · extract_lets -merge +onlyGivenNames t1 t4 d6 t7
    have h3 : Within m o (t1) := .abortAll hx1 (fun h2 => .bump h2)
    have h5 : Within m o (t4) := .killCtx h3
    have h8 : Within m o (t7) := .setSlot h5
    clear_value t1 t4 t7
    exact .next (.raise (.keyDone h8))

theorem Within.execPageEnable {x0 : Init} {x1 : Fin 32} {x2 : BitVec 8} {x3 : State} (hx3 : Within m o x3)
    (hm : Sub 3932215 m := by first | exact Sub.le (by assumption) ⟨rfl⟩ | exact ⟨rfl⟩) : WithinOut m o (execPageEnable x0 x1 x2 x3) := by
  unfold Sys2Proof.Machine.execPageEnable
  exact .next (.onWrite hx3 (fun h0 => .pgCmd h0))

theorem Within.saCount {x0 : State} {x1 : Nat} {x2 : Sa} {x3 : Nat} (hx0 : Within m o x0)
    (hm : Sub 262161 m := by first | exact Sub.le (by assumption) ⟨rfl⟩ | exact ⟨rfl⟩) : Within m o (State.saCount x0 x1 x2 x3) := by
  unfold State.saCount
  extract_lets -merge +onlyGivenNames t0 t1 t2 t3 t4 t6
  have h5 : Within m o (t4) := .setSa hx0
  have h7 : Within m o (t6) := .ite (.raise h5) h5
  clear_value t0 t1 t2 t3 t4 t6
  exact .ite (.raise h7) h7

theorem Within.espOutRun {x0 : State} {x1 : CryOp} {x2 : Nat} (hx0 : Within m o x0)
    (hm : Sub 262161 m := by first | exact Sub.le (by assumption) ⟨rfl⟩ | exact ⟨rfl⟩) : Within m o (State.espOutRun x0 x1 x2).1 := by
  unfold State.espOutRun
  extract_lets -merge +onlyGivenNames t0 t1
  clear_value t0 t1
  refine .iteP ?_ ?_
  · exact hx0
  · refine .iteP ?_ ?_
    · exact hx0
    · split
      · exact hx0
      · exact .ite (.saCount hx0) hx0

theorem Within.execPageStop {x0 : Init} {x1 : Fin 32} {x2 : BitVec 8} {x3 : State} (hx3 : Within m o x3)
    (hm : Sub 3932215 m := by first | exact Sub.le (by assumption) ⟨rfl⟩ | exact ⟨rfl⟩) : WithinOut m o (execPageStop x0 x1 x2 x3) := by
  unfold Sys2Proof.Machine.execPageStop
  exact .next (.onWrite hx3 (fun h0 => .pgCmd h0))

theorem Within.execSaErase {x0 : Init} {x1 : BitVec 8} {x2 : Fin 256} {x3 : State} (hx3 : Within m o x3)
    (hm : Sub 3407927 m := by first | exact Sub.le (by assumption) ⟨rfl⟩ | exact ⟨rfl⟩) : WithinOut m o (execSaErase x0 x1 x2 x3) := by
  unfold Sys2Proof.Machine.execSaErase
  exact .next (.onWrite hx3 (fun h0 => .saCmd h0))

theorem Within.espInRun {x0 : State} {x1 : CryOp} {x2 : Nat} (hx0 : Within m o x0)
    (hm : Sub 262161 m := by first | exact Sub.le (by assumption) ⟨rfl⟩ | exact ⟨rfl⟩) : Within m o (State.espInRun x0 x1 x2).1 := by
  unfold State.espInRun
  extract_lets -merge +onlyGivenNames t0
  clear_value t0
  refine .iteP ?_ ?_
  · exact hx0
  · split
    · exact .espFail hx0
    · extract_lets -merge +onlyGivenNames t1 t2
      clear_value t1 t2
      refine .iteP ?_ ?_
      · exact .espFail hx0
      · refine .iteP ?_ ?_
        · exact .espFail hx0
        · extract_lets -merge +onlyGivenNames t3
          clear_value t3
          refine .iteP ?_ ?_
          · exact .espFail hx0
          · split
            · exact .espFail hx0
            · extract_lets -merge +onlyGivenNames t4 t5
              clear_value t4 t5
              exact .ite (.saCount hx0) hx0

theorem Within.execCryOperationComplete {x0 : Fin 12} {x1 : State} (hx1 : Within m o x1)
    (hm : Sub 3407895 m := by first | exact Sub.le (by assumption) ⟨rfl⟩ | exact ⟨rfl⟩) : WithinOut m o (execCryOperationComplete x0 x1) := by
  unfold Sys2Proof.Machine.execCryOperationComplete
  split
  · exact .next hx1
  · split
    · exact .next hx1
    · split
      · extract_lets -merge +onlyGivenNames t0
        have h1 : Within m o (t0).1 := by
          unfold t0
          refine .iteP ?_ ?_
          · exact .espInRun hx1
          · exact .espOutRun hx1
        clear_value t0
        exact .next (.opEnd h1)
      · exact .next (.ite (.fwRun hx1) (.inlineRun hx1))

theorem Within.execPageClear {x0 : Init} {x1 : Fin 32} {x2 : BitVec 8} {x3 : State} (hx3 : Within m o x3)
    (hm : Sub 3932215 m := by first | exact Sub.le (by assumption) ⟨rfl⟩ | exact ⟨rfl⟩) : WithinOut m o (execPageClear x0 x1 x2 x3) := by
  unfold Sys2Proof.Machine.execPageClear
  exact .next (.onWrite hx3 (fun h0 => .pgCmd h0))

theorem Within.execCtxSave {x0 : Init} {x1 : Fin 32} {x2 : BitVec 8} {x3 : Fin 4} {x4 : State} (hx4 : Within m o x4)
    (hm : Sub 3932215 m := by first | exact Sub.le (by assumption) ⟨rfl⟩ | exact ⟨rfl⟩) : WithinOut m o (execCtxSave x0 x1 x2 x3 x4) := by
  unfold Sys2Proof.Machine.execCtxSave
  exact .next (.onWrite hx4 (fun h0 => .pgCmd h0))

theorem Within.execCtxRestore {x0 : Init} {x1 : Fin 32} {x2 : BitVec 8} {x3 : Fin 4} {x4 : State} (hx4 : Within m o x4)
    (hm : Sub 3932215 m := by first | exact Sub.le (by assumption) ⟨rfl⟩ | exact ⟨rfl⟩) : WithinOut m o (execCtxRestore x0 x1 x2 x3 x4) := by
  unfold Sys2Proof.Machine.execCtxRestore
  exact .next (.onWrite hx4 (fun h0 => .pgCmd h0))

theorem Within.execCtxDrop {x0 : Init} {x1 : Fin 32} {x2 : BitVec 8} {x3 : Fin 4} {x4 : State} (hx4 : Within m o x4)
    (hm : Sub 3932215 m := by first | exact Sub.le (by assumption) ⟨rfl⟩ | exact ⟨rfl⟩) : WithinOut m o (execCtxDrop x0 x1 x2 x3 x4) := by
  unfold Sys2Proof.Machine.execCtxDrop
  exact .next (.onWrite hx4 (fun h0 => .pgCmd h0))

theorem Within.execPageResultPop {x0 : Init} {x1 : Fin 32} {x2 : State} (hx2 : Within m o x2)
    (hm : Sub 262197 m := by first | exact Sub.le (by assumption) ⟨rfl⟩ | exact ⟨rfl⟩) : WithinOut m o (execPageResultPop x0 x1 x2) := by
  unfold Sys2Proof.Machine.execPageResultPop
  exact .next (.onRead hx2 (fun h0 => .pgPop h0))

theorem Within.execSaLoad {x0 : Init} {x1 : BitVec 8} {x2 : Fin 256} {x3 : State} (hx3 : Within m o x3)
    (hm : Sub 3407927 m := by first | exact Sub.le (by assumption) ⟨rfl⟩ | exact ⟨rfl⟩) : WithinOut m o (execSaLoad x0 x1 x2 x3) := by
  unfold Sys2Proof.Machine.execSaLoad
  exact .next (.onWrite hx3 (fun h0 => .saCmd h0))

theorem Within.execAlarmCondition {x0 : Fin 10} {x1 : State} (hx1 : Within m o x1)
    (hm : Sub 33292311 m := by first | exact Sub.le (by assumption) ⟨rfl⟩ | exact ⟨rfl⟩) : WithinOut m o (execAlarmCondition x0 x1) := by
  unfold Sys2Proof.Machine.execAlarmCondition
  exact .next (.alarm hx1)

theorem Within.execAlarmEraseDone {x0 : State} (hx0 : Within m o x0)
    (hm : Sub 786449 m := by first | exact Sub.le (by assumption) ⟨rfl⟩ | exact ⟨rfl⟩) : WithinOut m o (execAlarmEraseDone x0) := by
  unfold Sys2Proof.Machine.execAlarmEraseDone
  refine .ite ?_ ?_
  · exact .next hx0
  · extract_lets -merge +onlyGivenNames t0 t2 t4 t6 t8
    have h1 : Within m o (t0) := .alarmWipe hx0
    have h3 : Within m o (t2) := .wf (.setCry h1)
    have h5 : Within m o (t4).1 := .draw h3
    have h7 : Within m o (t6) := .setCry h5
    have h9 : Within m o (t8) := .wf (.wf h7)
    clear_value t0 t2 t4 t6 t8
    exact .next (.raise (.bumpTo h9))

/-! Stp -/

theorem Within.keepAllLim {x0 : State} (hx0 : Within m o x0)
    (hm : Sub 2 m := by first | exact Sub.le (by assumption) ⟨rfl⟩ | exact ⟨rfl⟩) : Within m o (State.keepAllLim x0) :=
  .foldl (fun h => .keepLim h) hx0

theorem Within.stpPop {x0 : Init} {x1 : State} (hx1 : Within m o x1)
    (hm : Sub 8196 m := by first | exact Sub.le (by assumption) ⟨rfl⟩ | exact ⟨rfl⟩) : Within m o (State.stpPop x0 x1) := by
  unfold State.stpPop
  split
  · exact .answer hx1
  · exact .answer (.setStp hx1)

theorem Within.stpPush {x0 : Word} {x1 : State} (hx1 : Within m o x1)
    (hm : Sub 8209 m := by first | exact Sub.le (by assumption) ⟨rfl⟩ | exact ⟨rfl⟩) : Within m o (State.stpPush x0 x1) := by
  unfold State.stpPush
  refine .ite ?_ ?_
  · exact hx1
  · extract_lets -merge +onlyGivenNames t0 t1
    clear_value t0 t1
    exact .ite (.setStp hx1) (.refuse hx1)

theorem Within.execStpPendWrite {x0 : Init} {x1 : Word} {x2 : State} (hx2 : Within m o x2)
    (hm : Sub 55 m := by first | exact Sub.le (by assumption) ⟨rfl⟩ | exact ⟨rfl⟩) : WithinOut m o (execStpPendWrite x0 x1 x2) := by
  unfold Sys2Proof.Machine.execStpPendWrite
  exact .next (.onWrite hx2 (fun h0 => by
    extract_lets -merge +onlyGivenNames t1
    clear_value t1
    exact .ite (.setRec h0) (.refuse h0)))

theorem Within.moveDecide {x0 : State} {x1 : Nat} {x2 : Nat} {x3 : Nat} (hx0 : Within m o x0)
    (hm : Sub 2048 m := by first | exact Sub.le (by assumption) ⟨rfl⟩ | exact ⟨rfl⟩) : Within m o (State.moveDecide x0 x1 x2 x3) := by
  unfold State.moveDecide
  split
  · exact hx0
  · extract_lets -merge +onlyGivenNames t0 t1
    clear_value t0 t1
    split
    · exact .ite (.in_wlan hx0) hx0
    · exact hx0

theorem Within.idleMpdu {x0 : State} {x1 : Nat} (hx0 : Within m o x0)
    (hm : Sub 256 m := by first | exact Sub.le (by assumption) ⟨rfl⟩ | exact ⟨rfl⟩) : Within m o (State.idleMpdu x0 x1) :=
  .in_mpdus hx0

theorem Within.failMpdu {x0 : State} {x1 : Nat} {x2 : Nat} {x3 : Nat} (hx0 : Within m o x0)
    (hm : Sub 2307 m := by first | exact Sub.le (by assumption) ⟨rfl⟩ | exact ⟨rfl⟩) : Within m o (State.failMpdu x0 x1 x2 x3) := by
  unfold State.failMpdu
  split
  · exact hx0
  · extract_lets -merge +onlyGivenNames t0
    clear_value t0
    exact .ite (.bump (.endMpdu hx0)) (.moveDecide (.idleMpdu hx0))

theorem Within.predict {x0 : State} {x1 : Nat} (hx0 : Within m o x0)
    (hm : Sub 2 m := by first | exact Sub.le (by assumption) ⟨rfl⟩ | exact ⟨rfl⟩) : Within m o (State.predict x0 x1) := by
  unfold State.predict
  extract_lets -merge +onlyGivenNames t0 t1
  have h2 : Within m o (t1) := .setRec hx0
  clear_value t0 t1
  exact .ite (.setRec h2) h2

theorem Within.driftLearn {x0 : State} {x1 : Nat} {x2 : Bool} {x3 : GTime} (hx0 : Within m o x0)
    (hm : Sub 19 m := by first | exact Sub.le (by assumption) ⟨rfl⟩ | exact ⟨rfl⟩) : Within m o (State.driftLearn x0 x1 x2 x3) := by
  unfold State.driftLearn
  refine .ite ?_ ?_
  · exact hx0
  · extract_lets -merge +onlyGivenNames t0 t1 t2 t3 t4 t6 t7 t9 t10 t11 t12 t14 t16
    have h5 : Within m o (t4).2 := by
      unfold t4
      clear_value t0 t1 t2 t3
      split
      · exact .used hx0
      · exact hx0
    have h8 : Within m o (t7) := .ite (.setRecGt (.setRec h5)) hx0
    have h13 : Within m o (t12) := .setRec (.setRec h8)
    have h15 : Within m o (t14) := .ite (.setRec h13) h13
    have h17 : Within m o (t16) := .ite (.raise h15) h15
    clear_value t0 t1 t2 t3 t4 t6 t7 t9 t10 t11 t12 t14 t16
    exact .predict h17

theorem Within.execDriftSample {x0 : BitVec 12} {x1 : Bool} {x2 : GTime} {x3 : State} (hx3 : Within m o x3)
    (hm : Sub 19 m := by first | exact Sub.le (by assumption) ⟨rfl⟩ | exact ⟨rfl⟩) : WithinOut m o (execDriftSample x0 x1 x2 x3) := by
  unfold Sys2Proof.Machine.execDriftSample
  exact .next (.driftLearn hx3)

theorem Within.stpDone {x0 : State} {x1 : List Word} {x2 : Nat} (hx0 : Within m o x0)
    (hm : Sub 8209 m := by first | exact Sub.le (by assumption) ⟨rfl⟩ | exact ⟨rfl⟩) : Within m o (State.stpDone x0 x1 x2) := by
  unfold State.stpDone
  extract_lets -merge +onlyGivenNames t0 t2 t4
  have h1 : Within m o (t0) := .setStp hx0
  have h3 : Within m o (t2) := .ite (.setStp h1) (.bump h1)
  have h5 : Within m o (t4) := .ite (.bump h3) h3
  clear_value t0 t2 t4
  exact .ite h5 (.raise h5)

theorem Within.stpRun {x0 : State} {x1 : Nat} {x2 : Nat} {x3 : Nat} {x4 : State → List Word → State × Nat} (hx0 : Within m o x0) (hx4 : ∀ {y0} {y1}, Within m o y0 → Within m o (x4 y0 y1).1)
    (hm : Sub 8209 m := by first | exact Sub.le (by assumption) ⟨rfl⟩ | exact ⟨rfl⟩) : Within m o (State.stpRun x0 x1 x2 x3 x4) := by
  unfold State.stpRun
  split
  · exact hx0
  · extract_lets -merge +onlyGivenNames t0 t1
    clear_value t0 t1
    refine .ite ?_ ?_
    · exact hx0
    · refine .ite ?_ ?_
      · exact .stpDone hx0
      · refine .ite ?_ ?_
        · exact .stpDone hx0
        · refine .ite ?_ ?_
          · exact .stpDone hx0
          · extract_lets -merge +onlyGivenNames t2
            have h3 : Within m o (t2).1 := hx4 hx0
            clear_value t2
            exact .stpDone h3

theorem Within.onRec {x0 : State} {x1 : List Word} {x2 : State → Nat → State × Nat} (hx0 : Within m o x0) (hx2 : ∀ {y0} {y1}, Within m o y0 → Within m o (x2 y0 y1).1)
    (hm : Sub 0 m := by first | exact Sub.le (by assumption) ⟨rfl⟩ | exact ⟨rfl⟩) : Within m o (State.onRec x0 x1 x2).1 := by
  unfold State.onRec
  refine .iteP ?_ ?_
  · exact hx0
  · exact hx2 hx0

theorem Within.execClResume {x0 : State} (hx0 : Within m o x0)
    (hm : Sub 8211 m := by first | exact Sub.le (by assumption) ⟨rfl⟩ | exact ⟨rfl⟩) : WithinOut m o (execClResume x0) := by
  unfold Sys2Proof.Machine.execClResume
  exact .next (.stpRun hx0 (fun h0 => by
    exact .onRec h0 (fun h1 => by
      refine .iteP ?_ ?_
      · exact h1
      · exact .keepLim (.setRecState h1))))

theorem Within.addWord {x0 : State} {x1 : Nat} {x2 : Nat} {x3 : Nat} {x4 : Nat} {x5 : Bool} (hx0 : Within m o x0)
    (hm : Sub 2 m := by first | exact Sub.le (by assumption) ⟨rfl⟩ | exact ⟨rfl⟩) : Within m o (State.addWord x0 x1 x2 x3 x4 x5) := by
  unfold State.addWord
  extract_lets -merge +onlyGivenNames t0
  clear_value t0
  exact .write32 hx0

theorem Within.clAdd {x0 : State} {x1 : Nat} {x2 : Nat} (hx0 : Within m o x0)
    (hm : Sub 8195 m := by first | exact Sub.le (by assumption) ⟨rfl⟩ | exact ⟨rfl⟩) : Within m o (State.clAdd x0 x1 x2) := by
  unfold State.clAdd
  extract_lets -merge +onlyGivenNames t0 t1 t3 t5 t7 t9 t11
  have h2 : Within m o (t1) := .foldl (fun h => .addWord h) hx0
  have h4 : Within m o (t3) := .setRec (.setRec h2)
  have h6 : Within m o (t5) := .foldl (fun h => .setRec h) h4
  have h8 : Within m o (t7) := .ite h6 (.setRec h6)
  have h10 : Within m o (t9) := .setRec h8
  have h12 : Within m o (t11) := .setStp h10
  clear_value t0 t1 t3 t5 t7 t9 t11
  exact .wf h12

theorem Within.twtPlace {x0 : State} {x1 : Nat} {x2 : Nat} (hx0 : Within m o x0)
    (hm : Sub 2 m := by first | exact Sub.le (by assumption) ⟨rfl⟩ | exact ⟨rfl⟩) : Within m o (State.twtPlace x0 x1 x2).1 := by
  simp only [State.twtPlace]
  refine .iteP ?_ ?_
  · exact hx0
  · refine .iteP ?_ ?_
    · exact hx0
    · refine .iteP ?_ ?_
      · exact hx0
      · exact .keepLim (.setRecGt (.setRec (.wmf (.writeN (.setWords hx0)))))

theorem Within.execClDel {x0 : State} (hx0 : Within m o x0)
    (hm : Sub 8211 m := by first | exact Sub.le (by assumption) ⟨rfl⟩ | exact ⟨rfl⟩) : WithinOut m o (execClDel x0) := by
  unfold Sys2Proof.Machine.execClDel
  exact .next (.stpRun hx0 (fun h0 => by
    exact .onRec h0 (fun h1 => by
      refine .iteP ?_ ?_
      · exact h1
      · extract_lets -merge +onlyGivenNames t2 t4
        have h3 : Within m o (t2) := .setRec (.setRecState h1)
        have h5 : Within m o (t4) := .setStp h3
        clear_value t2 t4
        exact .wf h5)))

theorem Within.advanceNext {x0 : State} {x1 : Nat} (hx0 : Within m o x0)
    (hm : Sub 2 m := by first | exact Sub.le (by assumption) ⟨rfl⟩ | exact ⟨rfl⟩) : Within m o (State.advanceNext x0 x1) := by
  unfold State.advanceNext
  extract_lets -merge +onlyGivenNames t0
  clear_value t0
  split
  · exact hx0
  · exact .setRecGt hx0

theorem Within.execTwtPlace {x0 : State} (hx0 : Within m o x0)
    (hm : Sub 8211 m := by first | exact Sub.le (by assumption) ⟨rfl⟩ | exact ⟨rfl⟩) : WithinOut m o (execTwtPlace x0) := by
  unfold Sys2Proof.Machine.execTwtPlace
  exact .next (.stpRun hx0 (fun h0 => .onRec h0 (fun h1 => .twtPlace h1)))

theorem Within.histCount {x0 : State} {x1 : Nat} {x2 : Nat} {x3 : Nat} {x4 : Nat} {x5 : Nat} (hx0 : Within m o x0)
    (hm : Sub 3145747 m := by first | exact Sub.le (by assumption) ⟨rfl⟩ | exact ⟨rfl⟩) : Within m o (State.histCount x0 x1 x2 x3 x4 x5) := by
  unfold State.histCount
  extract_lets -merge +onlyGivenNames t0
  clear_value t0
  refine .ite ?_ ?_
  · exact hx0
  · refine .ite ?_ ?_
    · extract_lets -merge +onlyGivenNames t1
      clear_value t1
      exact .raise (.bump (.store (.eccRead hx0)))
    · extract_lets -merge +onlyGivenNames t2
      clear_value t2
      exact .ite (.setByte (.setByte hx0)) (.setByte (.setByte hx0))

theorem Within.keepRate {x0 : State} {x1 : Nat} {x2 : Nat} (hx0 : Within m o x0)
    (hm : Sub 2 m := by first | exact Sub.le (by assumption) ⟨rfl⟩ | exact ⟨rfl⟩) : Within m o (State.keepRate x0 x1 x2) := by
  unfold State.keepRate
  extract_lets -merge +onlyGivenNames t0 t1
  clear_value t0 t1
  exact .setRec hx0

theorem Within.setMcs {x0 : State} {x1 : Nat} {x2 : Nat} {x3 : Nat} {x4 : Nat} (hx0 : Within m o x0)
    (hm : Sub 2 m := by first | exact Sub.le (by assumption) ⟨rfl⟩ | exact ⟨rfl⟩) : Within m o (State.setMcs x0 x1 x2 x3 x4) := by
  unfold State.setMcs
  extract_lets -merge +onlyGivenNames t0
  clear_value t0
  exact .ite hx0 (.setRec (.setRec (.setRec hx0)))

theorem Within.rateStep {x0 : State} {x1 : Nat} {x2 : Nat} {x3 : Nat} (hx0 : Within m o x0)
    (hm : Sub 2 m := by first | exact Sub.le (by assumption) ⟨rfl⟩ | exact ⟨rfl⟩) : Within m o (State.rateStep x0 x1 x2 x3) :=
  .ite (.ite (.setRec (.ite (.ite (.ite (.ite hx0 (.ite (.setMcs (.setRec hx0)) (.setRec hx0))) (.setMcs (.ite hx0 (.ite (.setMcs (.setRec hx0)) (.setRec hx0))))) (.setMcs (.ite hx0 (.ite (.setMcs (.setRec hx0)) (.setRec hx0))))) (.ite hx0 (.ite (.setMcs (.setRec hx0)) (.setRec hx0))))) (.setRec (.setRec (.ite (.ite (.ite (.ite hx0 (.ite (.setMcs (.setRec hx0)) (.setRec hx0))) (.setMcs (.ite hx0 (.ite (.setMcs (.setRec hx0)) (.setRec hx0))))) (.setMcs (.ite hx0 (.ite (.setMcs (.setRec hx0)) (.setRec hx0))))) (.ite hx0 (.ite (.setMcs (.setRec hx0)) (.setRec hx0))))))) (.ite (.ite (.ite (.ite hx0 (.ite (.setMcs (.setRec hx0)) (.setRec hx0))) (.setMcs (.ite hx0 (.ite (.setMcs (.setRec hx0)) (.setRec hx0))))) (.setMcs (.ite hx0 (.ite (.setMcs (.setRec hx0)) (.setRec hx0))))) (.ite hx0 (.ite (.setMcs (.setRec hx0)) (.setRec hx0))))

theorem Within.debtCharge {x0 : State} {x1 : Nat} {x2 : Nat} {x3 : Nat} {x4 : Nat} (hx0 : Within m o x0)
    (hm : Sub 2 m := by first | exact Sub.le (by assumption) ⟨rfl⟩ | exact ⟨rfl⟩) : Within m o (State.debtCharge x0 x1 x2 x3 x4) := by
  unfold State.debtCharge
  extract_lets -merge +onlyGivenNames t0 t1
  have h2 : Within m o (t1) := .ite hx0 (.setRec hx0)
  clear_value t0 t1
  exact .setRec h2

theorem Within.execExchangeResult {x0 : WRadio} {x1 : BitVec 12} {x2 : ExchangeIn} {x3 : State} (hx3 : Within m o x3)
    (hm : Sub 3148051 m := by first | exact Sub.le (by assumption) ⟨rfl⟩ | exact ⟨rfl⟩) : WithinOut m o (execExchangeResult x0 x1 x2 x3) := by
  unfold Sys2Proof.Machine.execExchangeResult
  extract_lets -merge +onlyGivenNames t0 t1 t2
  clear_value t0 t1 t2
  refine .ite ?_ ?_
  · exact .next hx3
  · extract_lets -merge +onlyGivenNames t3 t4 t5 t6 t7 t9 t11 t13 t15 t17 t19 t21 t23 t25
    have h8 : Within m o (t7) := .setRec hx3
    have h10 : Within m o (t9) := .setRec h8
    have h12 : Within m o (t11) := .setRec h10
    have h14 : Within m o (t13) := .ite h12 (.setRec h12)
    have h16 : Within m o (t15) := .ite (.setRec h14) h14
    have h18 : Within m o (t17) := .histCount h16
    have h20 : Within m o (t19) := .keepRate (.rateStep h18)
    have h22 : Within m o (t21) := .debtCharge h20
    have h24 : Within m o (t23) := .foldl (fun h => .endMpdu h) h22
    have h26 : Within m o (t25) := .foldl (fun h => .failMpdu h) h24
    clear_value t3 t4 t5 t6 t7 t9 t11 t13 t15 t17 t19 t21 t23 t25
    exact .next (.keepLim h26)

theorem Within.heardFrom {x0 : State} {x1 : Nat} {x2 : GTime} {x3 : Bool} (hx0 : Within m o x0)
    (hm : Sub 8211 m := by first | exact Sub.le (by assumption) ⟨rfl⟩ | exact ⟨rfl⟩) : Within m o (State.heardFrom x0 x1 x2 x3) :=
  .ite hx0 (.keepLim (.ite (.setStp (.setRecGt hx0)) (.ite (.predict (.raise (.bump (.setRecState (.setRec (.setRec (.setRec (.setRecGt (.setRec (.setStp (.setRecGt hx0))))))))))) (.ite (.setStp (.ite (.setRecState (.setRec (.setRec (.setStp (.setRecGt hx0))))) (.setRec (.setRec (.setStp (.setRecGt hx0)))))) (.ite (.setRecState (.setStp (.setRecGt hx0))) (.setStp (.setRecGt hx0)))))))

theorem Within.execStpCmdPush {x0 : Init} {x1 : Word} {x2 : State} (hx2 : Within m o x2)
    (hm : Sub 8245 m := by first | exact Sub.le (by assumption) ⟨rfl⟩ | exact ⟨rfl⟩) : WithinOut m o (execStpCmdPush x0 x1 x2) := by
  unfold Sys2Proof.Machine.execStpCmdPush
  exact .next (.onWrite hx2 (fun h0 => .stpPush h0))

theorem Within.execStpResultPop {x0 : Init} {x1 : State} (hx1 : Within m o x1)
    (hm : Sub 8245 m := by first | exact Sub.le (by assumption) ⟨rfl⟩ | exact ⟨rfl⟩) : WithinOut m o (execStpResultPop x0 x1) := by
  unfold Sys2Proof.Machine.execStpResultPop
  exact .next (.onRead hx1 (fun h0 => .stpPop h0))

theorem Within.execClSusp {x0 : State} (hx0 : Within m o x0)
    (hm : Sub 8211 m := by first | exact Sub.le (by assumption) ⟨rfl⟩ | exact ⟨rfl⟩) : WithinOut m o (execClSusp x0) := by
  unfold Sys2Proof.Machine.execClSusp
  exact .next (.stpRun hx0 (fun h0 => by
    exact .onRec h0 (fun h1 => by
      refine .iteP ?_ ?_
      · exact h1
      · extract_lets -merge +onlyGivenNames t2
        have h3 : Within m o (t2) := .setStp h1
        clear_value t2
        exact .keepLim (.setRecState h3))))

theorem Within.stpEnter {x0 : State} {x1 : Nat} (hx0 : Within m o x0)
    (hm : Sub 17 m := by first | exact Sub.le (by assumption) ⟨rfl⟩ | exact ⟨rfl⟩) : Within m o (State.stpEnter x0 x1) :=
  .ite hx0 (.raise (.wf hx0))

theorem Within.execStpRun {x0 : State} (hx0 : Within m o x0)
    (hm : Sub 8211 m := by first | exact Sub.le (by assumption) ⟨rfl⟩ | exact ⟨rfl⟩) : WithinOut m o (execStpRun x0) := by
  unfold Sys2Proof.Machine.execStpRun
  exact .next (.stpRun hx0 (fun h0 => .keepAllLim (.stpEnter h0)))

theorem Within.execStpStop {x0 : State} (hx0 : Within m o x0)
    (hm : Sub 8211 m := by first | exact Sub.le (by assumption) ⟨rfl⟩ | exact ⟨rfl⟩) : WithinOut m o (execStpStop x0) := by
  unfold Sys2Proof.Machine.execStpStop
  exact .next (.stpRun hx0 (fun h0 => .keepAllLim (.stpEnter h0)))

theorem Within.execClAdd {x0 : State} (hx0 : Within m o x0)
    (hm : Sub 8211 m := by first | exact Sub.le (by assumption) ⟨rfl⟩ | exact ⟨rfl⟩) : WithinOut m o (execClAdd x0) := by
  unfold Sys2Proof.Machine.execClAdd
  exact .next (.stpRun hx0 (fun h0 => by
    refine .iteP ?_ ?_
    · exact h0
    · exact .clAdd h0))

theorem Within.execClWord {x0 : State} (hx0 : Within m o x0)
    (hm : Sub 8211 m := by first | exact Sub.le (by assumption) ⟨rfl⟩ | exact ⟨rfl⟩) : WithinOut m o (execClWord x0) := by
  unfold Sys2Proof.Machine.execClWord
  exact .next (.stpRun hx0 (fun h0 => by
    exact .onRec h0 (fun h1 => by
      extract_lets -merge +onlyGivenNames t2 t3 t4 t5
      have h6 : Within m o (t5) := .write32 h1
      clear_value t2 t3 t4 t5
      exact .keepLim h6)))

theorem Within.execTwtFree {x0 : State} (hx0 : Within m o x0)
    (hm : Sub 8211 m := by first | exact Sub.le (by assumption) ⟨rfl⟩ | exact ⟨rfl⟩) : WithinOut m o (execTwtFree x0) := by
  unfold Sys2Proof.Machine.execTwtFree
  exact .next (.stpRun hx0 (fun h0 => by
    exact .onRec h0 (fun h1 => by
      extract_lets -merge +onlyGivenNames t2
      clear_value t2
      refine .iteP ?_ ?_
      · exact h1
      · exact .setRec (.wmf h1))))

theorem Within.execDriftReset {x0 : State} (hx0 : Within m o x0)
    (hm : Sub 8211 m := by first | exact Sub.le (by assumption) ⟨rfl⟩ | exact ⟨rfl⟩) : WithinOut m o (execDriftReset x0) := by
  unfold Sys2Proof.Machine.execDriftReset
  exact .next (.stpRun hx0 (fun h0 => by
    exact .onRec h0 (fun h1 => by
      extract_lets -merge +onlyGivenNames t2 t4
      have h3 : Within m o (t2) := .setRec (.setRec (.setRec h1))
      have h5 : Within m o (t4) := .setRec (.setRec h3)
      clear_value t2 t4
      exact .keepLim (.setRecState h5))))

theorem Within.spMiss {x0 : State} {x1 : Nat} (hx0 : Within m o x0)
    (hm : Sub 19 m := by first | exact Sub.le (by assumption) ⟨rfl⟩ | exact ⟨rfl⟩) : Within m o (State.spMiss x0 x1) := by
  unfold State.spMiss
  extract_lets -merge +onlyGivenNames t0 t1 t2 t4 t6 t8
  have h3 : Within m o (t2) := .setRec hx0
  have h5 : Within m o (t4) := .setRecState h3
  have h7 : Within m o (t6) := .ite h5 (.setRec h5)
  have h9 : Within m o (t8) := .raise (.bump h7)
  clear_value t0 t1 t2 t4 t6 t8
  exact .ite (.raise (.bump h9)) h9

theorem Within.spOver {x0 : State} {x1 : Nat} (hx0 : Within m o x0)
    (hm : Sub 8195 m := by first | exact Sub.le (by assumption) ⟨rfl⟩ | exact ⟨rfl⟩) : Within m o (State.spOver x0 x1) := by
  unfold State.spOver
  extract_lets -merge +onlyGivenNames t0 t2
  have h1 : Within m o (t0) := .ite (.setRecState hx0) hx0
  have h3 : Within m o (t2) := .setStp h1
  clear_value t0 t2
  exact .predict (.advanceNext h3)

theorem Within.execSpWindowEnd {x0 : BitVec 12} {x1 : State} (hx1 : Within m o x1)
    (hm : Sub 8211 m := by first | exact Sub.le (by assumption) ⟨rfl⟩ | exact ⟨rfl⟩) : WithinOut m o (execSpWindowEnd x0 x1) := by
  unfold Sys2Proof.Machine.execSpWindowEnd
  extract_lets -merge +onlyGivenNames t0 t1
  clear_value t0 t1
  refine .ite ?_ ?_
  · exact .next hx1
  · extract_lets -merge +onlyGivenNames t2
    have h3 : Within m o (t2) := .ite hx1 (.spMiss hx1)
    clear_value t2
    exact .next (.keepLim (.spOver h3))

theorem Within.execListenEnd {x0 : BitVec 12} {x1 : State} (hx1 : Within m o x1)
    (hm : Sub 19 m := by first | exact Sub.le (by assumption) ⟨rfl⟩ | exact ⟨rfl⟩) : WithinOut m o (execListenEnd x0 x1) := by
  unfold Sys2Proof.Machine.execListenEnd
  extract_lets -merge +onlyGivenNames t0
  clear_value t0
  refine .ite ?_ ?_
  · exact .next (.keepLim (.raise (.bump (.setRecState hx1))))
  · exact .next hx1

end Sys2Proof.Machine
end

