-- ==== Sys2Proof/Laws/Within5.lean ====
section
/-! SUPPORT. Which parts of the state every operation touches (`Within`), one lemma for each: Drc, Gc, Evr, Can, Pke. -/

namespace Sys2Proof.Machine

set_option Elab.async false
set_option linter.unusedVariables false

variable {m : Nat} {o : State}

/-! Drc -/

theorem Within.drcPop {x0 : Init} {x1 : State} (hx1 : Within m o x1)
    (hm : Sub 2097156 m := by first | exact Sub.le (by assumption) ⟨rfl⟩ | exact ⟨rfl⟩) : Within m o (State.drcPop x0 x1) := by
  unfold State.drcPop
  split
  · exact .answer hx1
  · exact .answer (.setDrc hx1)

theorem Within.bgWindow {x0 : State} {x1 : Bool} {x2 : Bool} (hx0 : Within m o x0)
    (hm : Sub 1 m := by first | exact Sub.le (by assumption) ⟨rfl⟩ | exact ⟨rfl⟩) : Within m o (State.bgWindow x0 x1 x2) :=
  .ite (.wb hx0) (.wb hx0)

theorem Within.drcDone {x0 : State} {x1 : Nat} {x2 : Nat} {x3 : Nat} (hx0 : Within m o x0)
    (hm : Sub 2097169 m := by first | exact Sub.le (by assumption) ⟨rfl⟩ | exact ⟨rfl⟩) : Within m o (State.drcDone x0 x1 x2 x3) := by
  unfold State.drcDone
  extract_lets -merge +onlyGivenNames t0
  have h1 : Within m o (t0) := .ite (.setDrc hx0) hx0
  clear_value t0
  exact .ite (.raise (.bump h1)) h1

theorem Within.dramLost {x0 : State} (hx0 : Within m o x0)
    (hm : Sub 1048578 m := by first | exact Sub.le (by assumption) ⟨rfl⟩ | exact ⟨rfl⟩) : Within m o (State.dramLost x0) :=
  .upd (k := 1048578) hx0 (fun p => by cases p <;> first | exact .inr rfl | exact .inl rfl)

theorem Within.drcEnter {x0 : State} {x1 : Nat} (hx0 : Within m o x0)
    (hm : Sub 3145747 m := by first | exact Sub.le (by assumption) ⟨rfl⟩ | exact ⟨rfl⟩) : Within m o (State.drcEnter x0 x1) := by
  unfold State.drcEnter
  extract_lets -merge +onlyGivenNames t0
  clear_value t0
  refine .ite ?_ ?_
  · exact hx0
  · extract_lets -merge +onlyGivenNames t1 t3 t5
    have h2 : Within m o (t1) := .raise (.wf hx0)
    have h4 : Within m o (t3) := .ite h2 (.setDrc h2)
    have h6 : Within m o (t5) := .ite (.dramLost h4) h4
    clear_value t1 t3 t5
    exact .keepAllLim (.setStep h6)

theorem Within.trainGo {x0 : State} {x1 : Nat} {x2 : Nat} {x3 : Nat} (hx0 : Within m o x0)
    (hm : Sub 3145747 m := by first | exact Sub.le (by assumption) ⟨rfl⟩ | exact ⟨rfl⟩) : Within m o (State.trainGo x0 x1 x2 x3) :=
  .drcEnter (.setDrc hx0)

theorem Within.trainEnd {x0 : State} {x1 : Nat} {x2 : Nat} {x3 : Nat} (hx0 : Within m o x0)
    (hm : Sub 2097169 m := by first | exact Sub.le (by assumption) ⟨rfl⟩ | exact ⟨rfl⟩) : Within m o (State.trainEnd x0 x1 x2 x3) := by
  unfold State.trainEnd
  split
  · exact hx0
  · extract_lets -merge +onlyGivenNames t0 t2
    have h1 : Within m o (t0) := .setDrc hx0
    have h3 : Within m o (t2) := .setRegN h1
    clear_value t0 t2
    exact .raise (.drcDone h3)

theorem Within.nrefs {x0 : State} {x1 : Nat} {x2 : Nat} (hx0 : Within m o x0)
    (hm : Sub 2097153 m := by first | exact Sub.le (by assumption) ⟨rfl⟩ | exact ⟨rfl⟩) : Within m o (State.nrefs x0 x1 x2) :=
  .setDrc (.bumpBy hx0)

theorem Within.raaServe {x0 : State} {x1 : Nat} {x2 : Nat} (hx0 : Within m o x0)
    (hm : Sub 2097153 m := by first | exact Sub.le (by assumption) ⟨rfl⟩ | exact ⟨rfl⟩) : Within m o (State.raaServe x0 x1 x2) := by
  unfold State.raaServe
  extract_lets -merge +onlyGivenNames t0
  clear_value t0
  refine .ite ?_ ?_
  · extract_lets -merge +onlyGivenNames t1
    have h2 : Within m o (t1) := .ite (.nrefs hx0) (.nrefs hx0)
    clear_value t1
    exact .setDrc h2
  · exact hx0

theorem Within.raaCount {x0 : State} {x1 : Nat} {x2 : Nat} (hx0 : Within m o x0)
    (hm : Sub 2097152 m := by first | exact Sub.le (by assumption) ⟨rfl⟩ | exact ⟨rfl⟩) : Within m o (State.raaCount x0 x1 x2) := by
  unfold State.raaCount
  extract_lets -merge +onlyGivenNames t0 t1
  have h3 : ∀ {y0} {y1}, Within m o y0 → Within m o (t1 y0 y1) := fun h2 => .setDrc h2
  clear_value t0 t1
  refine .ite ?_ ?_
  · exact h3 hx0
  · refine .ite ?_ ?_
    · exact h3 hx0
    · extract_lets -merge +onlyGivenNames t4
      clear_value t4
      exact h3 (.used hx0)

theorem Within.dramServe {x0 : State} {x1 : DramReq} (hx0 : Within m o x0)
    (hm : Sub 2097153 m := by first | exact Sub.le (by assumption) ⟨rfl⟩ | exact ⟨rfl⟩) : Within m o (State.dramServe x0 x1) := by
  unfold State.dramServe
  extract_lets -merge +onlyGivenNames t0 t1 t2
  have h3 : Within m o (t2) := .setDrc hx0
  clear_value t0 t1 t2
  refine .ite ?_ ?_
  · exact .setDrc h3
  · extract_lets -merge +onlyGivenNames t4
    have h5 : Within m o (t4) := .setDrc h3
    clear_value t4
    exact .raaServe (.raaCount h5)

theorem Within.dramDrain {x0 : State} {x1 : Nat} (hx0 : Within m o x0)
    (hm : Sub 2097153 m := by first | exact Sub.le (by assumption) ⟨rfl⟩ | exact ⟨rfl⟩) : Within m o (State.dramDrain x0 x1) := by
  induction x1 generalizing x0 with
  | zero =>
    exact hx0
  | succ n ih =>
    rw [State.dramDrain]
    split
    · exact hx0
    · split
      · exact hx0
      · exact ih (.dramServe hx0)

theorem Within.dramAbort {x0 : State} (hx0 : Within m o x0)
    (hm : Sub 2097156 m := by first | exact Sub.le (by assumption) ⟨rfl⟩ | exact ⟨rfl⟩) : Within m o (State.dramAbort x0) := by
  unfold State.dramAbort
  extract_lets -merge +onlyGivenNames t0 t1
  have h2 : Within m o (t1) := .setDrc hx0
  clear_value t0 t1
  exact .foldl (fun h => .dite (fun _ => .busErr h) (fun _ => h)) h2

theorem Within.drcAccept {x0 : State} {x1 : Nat} {x2 : Nat} {x3 : Nat} (hx0 : Within m o x0)
    (hm : Sub 3145751 m := by first | exact Sub.le (by assumption) ⟨rfl⟩ | exact ⟨rfl⟩) : Within m o (State.drcAccept x0 x1 x2 x3) := by
  unfold State.drcAccept
  extract_lets -merge +onlyGivenNames t0
  clear_value t0
  refine .ite ?_ ?_
  · exact .trainGo hx0
  · refine .ite ?_ ?_
    · exact .ite (.trainEnd (.setDrc hx0)) (.trainGo hx0)
    · refine .ite ?_ ?_
      · exact .drcDone (.drcEnter (.dramDrain hx0))
      · refine .ite ?_ ?_
        · exact .drcDone (.drcEnter (.bump hx0))
        · extract_lets -merge +onlyGivenNames t1
          have h2 : Within m o (t1) := .ite (.trainEnd hx0) hx0
          clear_value t1
          exact .drcDone (.drcEnter (.dramAbort h2))

theorem Within.drcCmd {x0 : Nat} {x1 : Nat} {x2 : Nat} {x3 : State} (hx3 : Within m o x3)
    (hm : Sub 3145751 m := by first | exact Sub.le (by assumption) ⟨rfl⟩ | exact ⟨rfl⟩) : Within m o (State.drcCmd x0 x1 x2 x3) := by
  unfold State.drcCmd
  refine .ite ?_ ?_
  · exact .refuse hx3
  · extract_lets -merge +onlyGivenNames t0
    clear_value t0
    exact .ite (.drcDone hx3) (.ite (.drcDone hx3) (.drcAccept hx3))

theorem Within.injWrite {x0 : Nat} {x1 : Bool} {x2 : Word} {x3 : State} (hx3 : Within m o x3)
    (hm : Sub 17 m := by first | exact Sub.le (by assumption) ⟨rfl⟩ | exact ⟨rfl⟩) : Within m o (State.injWrite x0 x1 x2 x3) :=
  .ite (.refuse hx3) (.writeReg hx3)

theorem Within.memRead {x0 : State} {x1 : Init} {x2 : Nat} {x3 : Nat} (hx0 : Within m o x0)
    (hm : Sub 33292311 m := by first | exact Sub.le (by assumption) ⟨rfl⟩ | exact ⟨rfl⟩) : Within m o (State.memRead x0 x1 x2 x3) := by
  unfold State.memRead
  extract_lets -merge +onlyGivenNames t0
  clear_value t0
  refine .ite ?_ ?_
  · extract_lets -merge +onlyGivenNames t1
    have h2 : Within m o (t1) := .busErr (.eccRead hx0)
    clear_value t1
    exact .ite (.alarm h2) h2
  · exact .emit (.eccRead hx0)

theorem Within.execDramRefresh {x0 : Fin 4} {x1 : Fin 16} {x2 : State} (hx2 : Within m o x2)
    (hm : Sub 2097152 m := by first | exact Sub.le (by assumption) ⟨rfl⟩ | exact ⟨rfl⟩) : WithinOut m o (execDramRefresh x0 x1 x2) := by
  unfold Sys2Proof.Machine.execDramRefresh
  refine .ite ?_ ?_
  · exact .next hx2
  · extract_lets -merge +onlyGivenNames t0
    clear_value t0
    exact .next (.setDrc hx2)

theorem Within.execNrefAlarm {x0 : State} (hx0 : Within m o x0)
    (hm : Sub 2097169 m := by first | exact Sub.le (by assumption) ⟨rfl⟩ | exact ⟨rfl⟩) : WithinOut m o (execNrefAlarm x0) := by
  unfold Sys2Proof.Machine.execNrefAlarm
  refine .ite ?_ ?_
  · exact .next (.raise (.setDrc hx0))
  · exact .next hx0

theorem Within.execMemoryAccess {x0 : Init} {x1 : BitVec 36} {x2 : MemOp} {x3 : State} (hx3 : Within m o x3)
    (hm : Sub 33292311 m := by first | exact Sub.le (by assumption) ⟨rfl⟩ | exact ⟨rfl⟩) : WithinOut m o (execMemoryAccess x0 x1 x2 x3) := by
  unfold Sys2Proof.Machine.execMemoryAccess
  split
  · refine .ite ?_ ?_
    · exact .next (.memRead hx3)
    · exact .next (.busErr hx3)
  · refine .ite ?_ ?_
    · exact .next (.store hx3)
    · exact .next (.busErr hx3)

theorem Within.execDrcResultPop {x0 : Init} {x1 : State} (hx1 : Within m o x1)
    (hm : Sub 2097205 m := by first | exact Sub.le (by assumption) ⟨rfl⟩ | exact ⟨rfl⟩) : WithinOut m o (execDrcResultPop x0 x1) := by
  unfold Sys2Proof.Machine.execDrcResultPop
  exact .next (.onRead hx1 (fun h0 => .drcPop h0))

theorem Within.execMr4Poll {x0 : Word} {x1 : State} (hx1 : Within m o x1)
    (hm : Sub 17 m := by first | exact Sub.le (by assumption) ⟨rfl⟩ | exact ⟨rfl⟩) : WithinOut m o (execMr4Poll x0 x1) := by
  unfold Sys2Proof.Machine.execMr4Poll
  refine .ite ?_ ?_
  · exact .next hx1
  · extract_lets -merge +onlyGivenNames t0 t1
    have h2 : Within m o (t1) := .setReg hx1
    clear_value t0 t1
    refine .ite ?_ ?_
    · exact .next (.raise h2)
    · exact .next h2

theorem Within.execRaaTableClear {x0 : State} (hx0 : Within m o x0)
    (hm : Sub 2097152 m := by first | exact Sub.le (by assumption) ⟨rfl⟩ | exact ⟨rfl⟩) : WithinOut m o (execRaaTableClear x0) := by
  unfold Sys2Proof.Machine.execRaaTableClear
  exact .next (.setDrc hx0)

theorem Within.scrubDram {x0 : State} (hx0 : Within m o x0)
    (hm : Sub 3145745 m := by first | exact Sub.le (by assumption) ⟨rfl⟩ | exact ⟨rfl⟩) : Within m o (State.scrubDram x0) := by
  unfold State.scrubDram
  extract_lets -merge +onlyGivenNames t0 t1 t2
  have h3 : Within m o (t2) := .eccWords (.bumpBy hx0)
  clear_value t0 t1 t2
  exact .ite (.wf h3) (.setDrc (.wb (.wf h3)))

theorem Within.execSridleEnter {x0 : State} (hx0 : Within m o x0)
    (hm : Sub 3145747 m := by first | exact Sub.le (by assumption) ⟨rfl⟩ | exact ⟨rfl⟩) : WithinOut m o (execSridleEnter x0) := by
  unfold Sys2Proof.Machine.execSridleEnter
  refine .ite ?_ ?_
  · exact .next (.drcEnter hx0)
  · exact .next hx0

theorem Within.execScrubOverdue {x0 : Bool} {x1 : State} (hx1 : Within m o x1)
    (hm : Sub 17 m := by first | exact Sub.le (by assumption) ⟨rfl⟩ | exact ⟨rfl⟩) : WithinOut m o (execScrubOverdue x0 x1) := by
  unfold Sys2Proof.Machine.execScrubOverdue
  refine .ite ?_ ?_
  · refine .ite ?_ ?_
    · exact .next (.raise (.wb hx1))
    · exact .next hx1
  · refine .ite ?_ ?_
    · exact .next (.raise (.wb hx1))
    · exact .next hx1

theorem Within.trainFail {x0 : State} {x1 : DrcTrain} {x2 : Nat} {x3 : Nat} (hx0 : Within m o x0)
    (hm : Sub 271581203 m := by first | exact Sub.le (by assumption) ⟨rfl⟩ | exact ⟨rfl⟩) : Within m o (State.trainFail x0 x1 x2 x3) :=
  .limit (.drcEnter (.trainEnd (.wf hx0)))

theorem Within.trrecWrite {x0 : State} (hx0 : Within m o x0)
    (hm : Sub 2 m := by first | exact Sub.le (by assumption) ⟨rfl⟩ | exact ⟨rfl⟩) : Within m o (State.trrecWrite x0) := by
  unfold State.trrecWrite
  refine .ite ?_ ?_
  · exact hx0
  · extract_lets -merge +onlyGivenNames t0
    clear_value t0
    exact .setBytes (.used hx0)

theorem Within.trainPass {x0 : State} {x1 : DrcTrain} (hx0 : Within m o x0)
    (hm : Sub 271581203 m := by first | exact Sub.le (by assumption) ⟨rfl⟩ | exact ⟨rfl⟩) : Within m o (State.trainPass x0 x1) := by
  unfold State.trainPass
  extract_lets -merge +onlyGivenNames t0 t2
  have h1 : Within m o (t0) := .wf (.wf (.wf hx0))
  have h3 : Within m o (t2) := .ite (.trrecWrite h1) h1
  clear_value t0 t2
  exact .limit (.drcEnter (.trainEnd h3))

theorem Within.execBackgroundWindowClose {x0 : Bool} {x1 : State} (hx1 : Within m o x1)
    (hm : Sub 1 m := by first | exact Sub.le (by assumption) ⟨rfl⟩ | exact ⟨rfl⟩) : WithinOut m o (execBackgroundWindowClose x0 x1) := by
  unfold Sys2Proof.Machine.execBackgroundWindowClose
  exact .next (.bgWindow hx1)

theorem Within.execSrEnter {x0 : Init} {x1 : BitVec 8} {x2 : Fin 4} {x3 : State} (hx3 : Within m o x3)
    (hm : Sub 3145783 m := by first | exact Sub.le (by assumption) ⟨rfl⟩ | exact ⟨rfl⟩) : WithinOut m o (execSrEnter x0 x1 x2 x3) := by
  unfold Sys2Proof.Machine.execSrEnter
  exact .next (.onWrite hx3 (fun h0 => .drcCmd h0))

theorem Within.dramArrive {x0 : State} {x1 : DramArrival} (hx0 : Within m o x0)
    (hm : Sub 2097173 m := by first | exact Sub.le (by assumption) ⟨rfl⟩ | exact ⟨rfl⟩) : Within m o (State.dramArrive x0 x1) := by
  unfold State.dramArrive
  extract_lets -merge +onlyGivenNames t0
  clear_value t0
  exact .ite (.dite (fun _ => .busErr hx0) (fun _ => hx0)) (.setDrc (.dramTouch hx0))

theorem Within.execBackgroundWindowOpen {x0 : Bool} {x1 : State} (hx1 : Within m o x1)
    (hm : Sub 1 m := by first | exact Sub.le (by assumption) ⟨rfl⟩ | exact ⟨rfl⟩) : WithinOut m o (execBackgroundWindowOpen x0 x1) := by
  unfold Sys2Proof.Machine.execBackgroundWindowOpen
  exact .next (.bgWindow hx1)

theorem Within.execInjectArm {x0 : Init} {x1 : Bool} {x2 : Word} {x3 : State} (hx3 : Within m o x3)
    (hm : Sub 53 m := by first | exact Sub.le (by assumption) ⟨rfl⟩ | exact ⟨rfl⟩) : WithinOut m o (execInjectArm x0 x1 x2 x3) := by
  unfold Sys2Proof.Machine.execInjectArm
  exact .next (.onWrite hx3 (fun h0 => .injWrite h0))

theorem Within.scrubSram {x0 : State} (hx0 : Within m o x0)
    (hm : Sub 3145745 m := by first | exact Sub.le (by assumption) ⟨rfl⟩ | exact ⟨rfl⟩) : Within m o (State.scrubSram x0) := by
  unfold State.scrubSram
  extract_lets -merge +onlyGivenNames t0 t1 t2
  have h3 : Within m o (t2) := .eccWords (.bumpBy hx0)
  clear_value t0 t1 t2
  refine .ite ?_ ?_
  · exact .wf (.wf h3)
  · extract_lets -merge +onlyGivenNames t4
    have h5 : Within m o (t4) := .bump (.wb (.wf (.wf h3)))
    clear_value t4
    exact .setDrc h5

theorem Within.execScrubRead {x0 : Bool} {x1 : State} (hx1 : Within m o x1)
    (hm : Sub 3145745 m := by first | exact Sub.le (by assumption) ⟨rfl⟩ | exact ⟨rfl⟩) : WithinOut m o (execScrubRead x0 x1) := by
  unfold Sys2Proof.Machine.execScrubRead
  refine .ite ?_ ?_
  · exact .next hx1
  · refine .ite ?_ ?_
    · exact .next (.scrubDram hx1)
    · exact .next (.scrubSram hx1)

theorem Within.execCeAlarm {x0 : Bool} {x1 : State} (hx1 : Within m o x1)
    (hm : Sub 2097169 m := by first | exact Sub.le (by assumption) ⟨rfl⟩ | exact ⟨rfl⟩) : WithinOut m o (execCeAlarm x0 x1) := by
  unfold Sys2Proof.Machine.execCeAlarm
  refine .ite ?_ ?_
  · refine .ite ?_ ?_
    · exact .next (.raise (.setDrc hx1))
    · exact .next hx1
  · refine .ite ?_ ?_
    · exact .next (.raise (.setDrc hx1))
    · exact .next hx1

theorem Within.execDramRequest {x0 : List DramArrival} {x1 : Fin 4} {x2 : State} (hx2 : Within m o x2)
    (hm : Sub 2097173 m := by first | exact Sub.le (by assumption) ⟨rfl⟩ | exact ⟨rfl⟩) : WithinOut m o (execDramRequest x0 x1 x2) := by
  unfold Sys2Proof.Machine.execDramRequest
  extract_lets -merge +onlyGivenNames t0
  have h1 : Within m o (t0) := .foldl (fun h => .dramArrive h) hx2
  clear_value t0
  split
  · exact .next h1
  · refine .ite ?_ ?_
    · exact .next (.dramServe h1)
    · exact .next h1

theorem Within.execRequestPromote {x0 : Nat} {x1 : State} (hx1 : Within m o x1)
    (hm : Sub 2097153 m := by first | exact Sub.le (by assumption) ⟨rfl⟩ | exact ⟨rfl⟩) : WithinOut m o (execRequestPromote x0 x1) := by
  unfold Sys2Proof.Machine.execRequestPromote
  split
  · exact .next hx1
  · refine .ite ?_ ?_
    · exact .next (.bump (.setDrc hx1))
    · exact .next hx1

theorem Within.execDrcTrain {x0 : Init} {x1 : BitVec 8} {x2 : Fin 4} {x3 : State} (hx3 : Within m o x3)
    (hm : Sub 3145783 m := by first | exact Sub.le (by assumption) ⟨rfl⟩ | exact ⟨rfl⟩) : WithinOut m o (execDrcTrain x0 x1 x2 x3) := by
  unfold Sys2Proof.Machine.execDrcTrain
  exact .next (.onWrite hx3 (fun h0 => .drcCmd h0))

theorem Within.execDrcRestore {x0 : Init} {x1 : BitVec 8} {x2 : Fin 4} {x3 : State} (hx3 : Within m o x3)
    (hm : Sub 3145783 m := by first | exact Sub.le (by assumption) ⟨rfl⟩ | exact ⟨rfl⟩) : WithinOut m o (execDrcRestore x0 x1 x2 x3) := by
  unfold Sys2Proof.Machine.execDrcRestore
  exact .next (.onWrite hx3 (fun h0 => .drcCmd h0))

theorem Within.execTrainStepDone {x0 : BitVec 4} {x1 : Bool} {x2 : Fin 6} {x3 : Bool} {x4 : State} (hx4 : Within m o x4)
    (hm : Sub 271581203 m := by first | exact Sub.le (by assumption) ⟨rfl⟩ | exact ⟨rfl⟩) : WithinOut m o (execTrainStepDone x0 x1 x2 x3 x4) := by
  unfold Sys2Proof.Machine.execTrainStepDone
  split
  · exact .next hx4
  · refine .ite ?_ ?_
    · exact .next (.trainFail hx4)
    · refine .ite ?_ ?_
      · exact .next (.trainFail hx4)
      · extract_lets -merge +onlyGivenNames t0
        have h1 : Within m o (t0) := .ite (.wb (.wf hx4)) hx4
        clear_value t0
        refine .ite ?_ ?_
        · exact .next (.trainPass h1)
        · extract_lets -merge +onlyGivenNames t2
          clear_value t2
          exact .next (.setDrc h1)

theorem Within.execSrExit {x0 : Init} {x1 : BitVec 8} {x2 : Fin 4} {x3 : State} (hx3 : Within m o x3)
    (hm : Sub 3145783 m := by first | exact Sub.le (by assumption) ⟨rfl⟩ | exact ⟨rfl⟩) : WithinOut m o (execSrExit x0 x1 x2 x3) := by
  unfold Sys2Proof.Machine.execSrExit
  exact .next (.onWrite hx3 (fun h0 => .drcCmd h0))

theorem Within.execDrcStop {x0 : Init} {x1 : BitVec 8} {x2 : Fin 4} {x3 : State} (hx3 : Within m o x3)
    (hm : Sub 3145783 m := by first | exact Sub.le (by assumption) ⟨rfl⟩ | exact ⟨rfl⟩) : WithinOut m o (execDrcStop x0 x1 x2 x3) := by
  unfold Sys2Proof.Machine.execDrcStop
  exact .next (.onWrite hx3 (fun h0 => .drcCmd h0))

theorem Within.execDumpUnlock {x0 : Init} {x1 : Word} {x2 : State} (hx2 : Within m o x2)
    (hm : Sub 53 m := by first | exact Sub.le (by assumption) ⟨rfl⟩ | exact ⟨rfl⟩) : WithinOut m o (execDumpUnlock x0 x1 x2) := by
  unfold Sys2Proof.Machine.execDumpUnlock
  exact .next (.onWrite hx2 (fun h0 => .writeReg h0))

/-! Gc -/

theorem Within.setCmp {x0 : State} {x1 : Nat} {x2 : Nat} (hx0 : Within m o x0)
    (hm : Sub 8 m := by first | exact Sub.le (by assumption) ⟨rfl⟩ | exact ⟨rfl⟩) : Within m o (State.setCmp x0 x1 x2) :=
  .in_gtu hx0

theorem Within.drivePin {x0 : State} {x1 : Nat} {x2 : Bool} (hx0 : Within m o x0)
    (hm : Sub 8 m := by first | exact Sub.le (by assumption) ⟨rfl⟩ | exact ⟨rfl⟩) : Within m o (State.drivePin x0 x1 x2) := by
  unfold State.drivePin
  extract_lets -merge +onlyGivenNames t0
  clear_value t0
  exact .in_gtu hx0

theorem Within.setPulse {x0 : State} {x1 : Nat} {x2 : Nat} (hx0 : Within m o x0)
    (hm : Sub 8 m := by first | exact Sub.le (by assumption) ⟨rfl⟩ | exact ⟨rfl⟩) : Within m o (State.setPulse x0 x1 x2) :=
  .in_gtu hx0

theorem Within.pinAct {x0 : State} {x1 : Nat} {x2 : Nat} {x3 : Nat} (hx0 : Within m o x0)
    (hm : Sub 8 m := by first | exact Sub.le (by assumption) ⟨rfl⟩ | exact ⟨rfl⟩) : Within m o (State.pinAct x0 x1 x2 x3) :=
  .ite (.drivePin (.setPulse hx0)) (.ite (.drivePin (.setPulse hx0)) (.ite (.drivePin (.setPulse hx0)) (.drivePin (.setPulse hx0))))

theorem Within.relayFire {x0 : State} (hx0 : Within m o x0)
    (hm : Sub 301989888 m := by first | exact Sub.le (by assumption) ⟨rfl⟩ | exact ⟨rfl⟩) : Within m o (State.relayFire x0) := by
  unfold State.relayFire
  split
  · exact hx0
  · exact .upd (k := 301989888) hx0 (fun p => by cases p <;> first | exact .inr rfl | exact .inl rfl)

theorem Within.daliStart {x0 : State} (hx0 : Within m o x0)
    (hm : Sub 33554436 m := by first | exact Sub.le (by assumption) ⟨rfl⟩ | exact ⟨rfl⟩) : Within m o (State.daliStart x0) := by
  unfold State.daliStart
  split
  · exact hx0
  · exact .emit (.in_lum hx0)

theorem Within.sampleRadios {x0 : State} {x1 : List Radio} (hx0 : Within m o x0)
    (hm : Sub 1 m := by first | exact Sub.le (by assumption) ⟨rfl⟩ | exact ⟨rfl⟩) : Within m o (State.sampleRadios x0 x1) := by
  induction x1 generalizing x0 with
  | nil =>
    exact hx0
  | cons y l ih =>
    rw [State.sampleRadios]
    exact ih (.used (.wf hx0))

theorem Within.telemetry {x0 : State} (hx0 : Within m o x0)
    (hm : Sub 268435473 m := by first | exact Sub.le (by assumption) ⟨rfl⟩ | exact ⟨rfl⟩) : Within m o (State.telemetry x0) := by
  unfold State.telemetry
  extract_lets -merge +onlyGivenNames t0 t2 t4 t5 t6 t7 t8 t10
  have h1 : Within m o (t0) := .sampleRadios (.used (.wf hx0))
  have h3 : Within m o (t2) := .setReg64 (.used (.setRegN h1))
  have h9 : Within m o (t8) := .ite (.raise (.setSys h3)) h3
  have h11 : Within m o (t10) := .ite (.raise (.setSys h9)) h9
  clear_value t0 t2 t4 t5 t6 t7 t8 t10
  exact .ite (.raise h11) h11

theorem Within.strobeIn {x0 : State} {x1 : Nat} (hx0 : Within m o x0)
    (hm : Sub 302121045 m := by first | exact Sub.le (by assumption) ⟨rfl⟩ | exact ⟨rfl⟩) : Within m o (State.strobeIn x0 x1) :=
  .ite (.dmaStrobe hx0) (.ite (.rfcStrobe hx0) (.ite (.rfcStrobe hx0) (.ite (.relayFire hx0) (.ite (.daliStart hx0) (.ite (.bgWindow hx0) (.ite (.bgWindow hx0) (.ite (.bgWindow hx0) (.ite (.bgWindow hx0) (.ite (.telemetry hx0) hx0)))))))))

theorem Within.gcTarget {x0 : State} {x1 : Nat} (hx0 : Within m o x0)
    (hm : Sub 302121053 m := by first | exact Sub.le (by assumption) ⟨rfl⟩ | exact ⟨rfl⟩) : Within m o (State.gcTarget x0 x1) := by
  unfold State.gcTarget
  extract_lets -merge +onlyGivenNames t0
  clear_value t0
  exact .ite (.pinAct hx0) (.ite (.strobeIn (.emit hx0)) hx0)

theorem Within.gcFireNow {x0 : State} {x1 : Nat} (hx0 : Within m o x0)
    (hm : Sub 302121053 m := by first | exact Sub.le (by assumption) ⟨rfl⟩ | exact ⟨rfl⟩) : Within m o (State.gcFireNow x0 x1) := by
  unfold State.gcFireNow
  extract_lets -merge +onlyGivenNames t0 t2 t4 t5
  have h1 : Within m o (t0) := .wf hx0
  have h3 : Within m o (t2) := .ite (.setCmp h1) (.wf h1)
  have h6 : Within m o (t5) := .gcTarget h3
  clear_value t0 t2 t4 t5
  exact .ite (.raise h6) h6

theorem Within.gcDisarmNow {x0 : State} {x1 : Nat} (hx0 : Within m o x0)
    (hm : Sub 1 m := by first | exact Sub.le (by assumption) ⟨rfl⟩ | exact ⟨rfl⟩) : Within m o (State.gcDisarmNow x0 x1) :=
  .ite (.wf (.wf hx0)) hx0

theorem Within.gcFail {x0 : State} {x1 : Nat} {x2 : Nat} {x3 : Nat} (hx0 : Within m o x0)
    (hm : Sub 17 m := by first | exact Sub.le (by assumption) ⟨rfl⟩ | exact ⟨rfl⟩) : Within m o (State.gcFail x0 x1 x2 x3) :=
  .raise (.wf (.wf hx0))

theorem Within.gcArmNow {x0 : State} {x1 : Nat} (hx0 : Within m o x0)
    (hm : Sub 302121053 m := by first | exact Sub.le (by assumption) ⟨rfl⟩ | exact ⟨rfl⟩) : Within m o (State.gcArmNow x0 x1) := by
  unfold State.gcArmNow
  extract_lets -merge +onlyGivenNames t0 t1 t2
  clear_value t0 t1 t2
  refine .ite ?_ ?_
  · exact .gcFail hx0
  · refine .ite ?_ ?_
    · exact .gcFail hx0
    · refine .ite ?_ ?_
      · exact .gcFail hx0
      · refine .ite ?_ ?_
        · exact .gcFail (.wf hx0)
        · extract_lets -merge +onlyGivenNames t3 t5 d7 t8
          have h4 : Within m o (t3) := .wf (.wf hx0)
          have h6 : Within m o (t5) := .setCmp h4
          have h9 : Within m o (t8) := .in_gtu h6
          clear_value t3 t5 t8
          exact .ite (.gcFireNow h9) h9

theorem Within.gcCtrlWrite {x0 : Nat} {x1 : Nat} {x2 : Word} {x3 : State} (hx3 : Within m o x3)
    (hm : Sub 302121053 m := by first | exact Sub.le (by assumption) ⟨rfl⟩ | exact ⟨rfl⟩) : Within m o (State.gcCtrlWrite x0 x1 x2 x3) := by
  unfold State.gcCtrlWrite
  extract_lets -merge +onlyGivenNames t0
  clear_value t0
  refine .ite ?_ ?_
  · exact .writeReg hx3
  · extract_lets -merge +onlyGivenNames t1 t3 t5
    have h2 : Within m o (t1) := .ite (.gcFireNow hx3) hx3
    have h4 : Within m o (t3) := .writeReg h2
    have h6 : Within m o (t5) := .ite (.gcDisarmNow h4) h4
    clear_value t1 t3 t5
    exact .ite (.gcArmNow h6) h6

theorem Within.execPinPulseEnd {x0 : Fin 48} {x1 : State} (hx1 : Within m o x1)
    (hm : Sub 8 m := by first | exact Sub.le (by assumption) ⟨rfl⟩ | exact ⟨rfl⟩) : WithinOut m o (execPinPulseEnd x0 x1) := by
  unfold Sys2Proof.Machine.execPinPulseEnd
  extract_lets -merge +onlyGivenNames t0
  clear_value t0
  refine .ite ?_ ?_
  · exact .next (.drivePin (.setPulse hx1))
  · exact .next hx1

theorem Within.execGcArm {x0 : Init} {x1 : Fin 64} {x2 : Word} {x3 : State} (hx3 : Within m o x3)
    (hm : Sub 302121085 m := by first | exact Sub.le (by assumption) ⟨rfl⟩ | exact ⟨rfl⟩) : WithinOut m o (execGcArm x0 x1 x2 x3) := by
  unfold Sys2Proof.Machine.execGcArm
  exact .next (.onWrite hx3 (fun h0 => .gcCtrlWrite h0))

theorem Within.execGcDisarm {x0 : Init} {x1 : Fin 64} {x2 : Word} {x3 : State} (hx3 : Within m o x3)
    (hm : Sub 302121085 m := by first | exact Sub.le (by assumption) ⟨rfl⟩ | exact ⟨rfl⟩) : WithinOut m o (execGcDisarm x0 x1 x2 x3) := by
  unfold Sys2Proof.Machine.execGcDisarm
  exact .next (.onWrite hx3 (fun h0 => .gcCtrlWrite h0))

theorem Within.execGcFire {x0 : Fin 64} {x1 : State} (hx1 : Within m o x1)
    (hm : Sub 302121053 m := by first | exact Sub.le (by assumption) ⟨rfl⟩ | exact ⟨rfl⟩) : WithinOut m o (execGcFire x0 x1) := by
  unfold Sys2Proof.Machine.execGcFire
  refine .ite ?_ ?_
  · exact .next (.gcFireNow hx1)
  · exact .next hx1

/-! Evr -/

theorem Within.subPop {x0 : Init} {x1 : State} (hx1 : Within m o x1)
    (hm : Sub 21 m := by first | exact Sub.le (by assumption) ⟨rfl⟩ | exact ⟨rfl⟩) : Within m o (State.subPop x0 x1) := by
  unfold State.subPop
  refine .ite ?_ ?_
  · exact .answer (.refuse hx1)
  · split
    · exact .answer hx1
    · extract_lets -merge +onlyGivenNames d0 t1 t3
      have h2 : Within m o (t1) := .in_evr hx1
      have h4 : Within m o (t3) := .setReg (.setReg h2)
      clear_value t1 t3
      exact .answer h4

theorem Within.execEventOccurrence {x0 : Fin 256} {x1 : State} (hx1 : Within m o x1)
    (hm : Sub 17 m := by first | exact Sub.le (by assumption) ⟨rfl⟩ | exact ⟨rfl⟩) : WithinOut m o (execEventOccurrence x0 x1) := by
  unfold Sys2Proof.Machine.execEventOccurrence
  exact .next (.raise hx1)

theorem Within.execEirqPulse {x0 : Fin 4} {x1 : State} (hx1 : Within m o x1)
    (hm : Sub 20 m := by first | exact Sub.le (by assumption) ⟨rfl⟩ | exact ⟨rfl⟩) : WithinOut m o (execEirqPulse x0 x1) := by
  unfold Sys2Proof.Machine.execEirqPulse
  refine .ite ?_ ?_
  · exact .next hx1
  · exact .next (.emit (.in_evr hx1))

theorem Within.execPendingClear {x0 : Init} {x1 : Fin 14} {x2 : Fin 8} {x3 : Word} {x4 : State} (hx4 : Within m o x4)
    (hm : Sub 53 m := by first | exact Sub.le (by assumption) ⟨rfl⟩ | exact ⟨rfl⟩) : WithinOut m o (execPendingClear x0 x1 x2 x3 x4) := by
  unfold Sys2Proof.Machine.execPendingClear
  exact .next (.onWrite hx4 (fun h0 => .setReg h0))

theorem Within.execSoftwareEvent {x0 : Init} {x1 : Word} {x2 : State} (hx2 : Within m o x2)
    (hm : Sub 53 m := by first | exact Sub.le (by assumption) ⟨rfl⟩ | exact ⟨rfl⟩) : WithinOut m o (execSoftwareEvent x0 x1 x2) := by
  unfold Sys2Proof.Machine.execSoftwareEvent
  exact .next (.onWrite hx2 (fun h0 => .raiseAll h0))

theorem Within.execSubscriptionPop {x0 : Init} {x1 : State} (hx1 : Within m o x1)
    (hm : Sub 53 m := by first | exact Sub.le (by assumption) ⟨rfl⟩ | exact ⟨rfl⟩) : WithinOut m o (execSubscriptionPop x0 x1) := by
  unfold Sys2Proof.Machine.execSubscriptionPop
  exact .next (.onRead hx1 (fun h0 => .subPop h0))

/-! Can -/

theorem Within.setCan {x0 : State} {x1 : Nat} {x2 : CanSt → CanSt} (hx0 : Within m o x0)
    (hm : Sub 25165824 m := by first | exact Sub.le (by assumption) ⟨rfl⟩ | exact ⟨rfl⟩) : Within m o (State.setCan x0 x1 x2) :=
  .ite (.in_can0 hx0) (.in_can1 hx0)

theorem Within.canData {x0 : State} {x1 : Nat} {x2 : List Byte} {x3 : Nat} (hx0 : Within m o x0)
    (hm : Sub 1 m := by first | exact Sub.le (by assumption) ⟨rfl⟩ | exact ⟨rfl⟩) : Within m o (State.canData x0 x1 x2 x3) := by
  induction x3 generalizing x0 x1 x2 with
  | zero =>
    exact hx0
  | succ n ih =>
    rw [State.canData]
    exact .setRegN (ih hx0)

theorem Within.canPop {x0 : Nat} {x1 : Init} {x2 : State} (hx2 : Within m o x2)
    (hm : Sub 25165829 m := by first | exact Sub.le (by assumption) ⟨rfl⟩ | exact ⟨rfl⟩) : Within m o (State.canPop x0 x1 x2) := by
  unfold State.canPop
  split
  · exact .answer hx2
  · extract_lets -merge +onlyGivenNames t0
    have h1 : Within m o (t0) := .setRegN (.setCan hx2)
    clear_value t0
    exact .answer (.canData h1)

theorem Within.canPush {x0 : Nat} {x1 : Word} {x2 : State} (hx2 : Within m o x2)
    (hm : Sub 25165841 m := by first | exact Sub.le (by assumption) ⟨rfl⟩ | exact ⟨rfl⟩) : Within m o (State.canPush x0 x1 x2) := by
  unfold State.canPush
  refine .ite ?_ ?_
  · exact hx2
  · refine .ite ?_ ?_
    · exact .refuse hx2
    · extract_lets -merge +onlyGivenNames t0
      clear_value t0
      exact .setCan hx2

theorem Within.pduIn {x0 : State} {x1 : Nat} {x2 : List Byte} (hx0 : Within m o x0)
    (hm : Sub 4194305 m := by first | exact Sub.le (by assumption) ⟨rfl⟩ | exact ⟨rfl⟩) : Within m o (State.pduIn x0 x1 x2) :=
  .odeKeep (.setOde hx0)

theorem Within.pduOut {x0 : State} {x1 : Nat} {x2 : List Byte} (hx0 : Within m o x0)
    (hm : Sub 29360128 m := by first | exact Sub.le (by assumption) ⟨rfl⟩ | exact ⟨rfl⟩) : Within m o (State.pduOut x0 x1 x2) :=
  .ite (.setOde hx0) (.ite (.setCan hx0) (.setOde hx0))

theorem Within.setSeg {x0 : State} {x1 : Nat} {x2 : Option (List Byte × Nat)} (hx0 : Within m o x0)
    (hm : Sub 4194304 m := by first | exact Sub.le (by assumption) ⟨rfl⟩ | exact ⟨rfl⟩) : Within m o (State.setSeg x0 x1 x2) :=
  .setOde hx0

theorem Within.segDrop {x0 : State} {x1 : Nat} (hx0 : Within m o x0)
    (hm : Sub 4194305 m := by first | exact Sub.le (by assumption) ⟨rfl⟩ | exact ⟨rfl⟩) : Within m o (State.segDrop x0 x1) :=
  .bump (.setSeg hx0)

theorem Within.execCanBusState {x0 : Fin 2} {x1 : Fin 3} {x2 : BitVec 8} {x3 : BitVec 8} {x4 : State} (hx4 : Within m o x4)
    (hm : Sub 17 m := by first | exact Sub.le (by assumption) ⟨rfl⟩ | exact ⟨rfl⟩) : WithinOut m o (execCanBusState x0 x1 x2 x3 x4) := by
  unfold Sys2Proof.Machine.execCanBusState
  extract_lets -merge +onlyGivenNames t0 t1
  have h2 : Within m o (t1) := .wf (.wf hx4)
  clear_value t0 t1
  refine .ite ?_ ?_
  · exact .next h2
  · extract_lets -merge +onlyGivenNames t3 t5
    have h4 : Within m o (t3) := .wf h2
    have h6 : Within m o (t5) := .ite (.bump h4) h4
    clear_value t3 t5
    exact .next (.raise h6)

theorem Within.segJoin {x0 : State} {x1 : Nat} {x2 : List Byte} {x3 : Nat} {x4 : Bool} {x5 : List Byte} (hx0 : Within m o x0)
    (hm : Sub 4194305 m := by first | exact Sub.le (by assumption) ⟨rfl⟩ | exact ⟨rfl⟩) : Within m o (State.segJoin x0 x1 x2 x3 x4 x5) :=
  .ite (.pduIn (.setSeg hx0)) (.setSeg hx0)

theorem Within.execCanSegmentReceive {x0 : Fin 2} {x1 : Bool} {x2 : List (BitVec 8)} {x3 : State} (hx3 : Within m o x3)
    (hm : Sub 4194305 m := by first | exact Sub.le (by assumption) ⟨rfl⟩ | exact ⟨rfl⟩) : WithinOut m o (execCanSegmentReceive x0 x1 x2 x3) := by
  unfold Sys2Proof.Machine.execCanSegmentReceive
  refine .ite ?_ ?_
  · exact .next hx3
  · extract_lets -merge +onlyGivenNames t0 t2 t3
    have h1 : Within m o (t0) := .bump hx3
    clear_value t0 t2 t3
    refine .ite ?_ ?_
    · exact .next (.bump h1)
    · refine .ite ?_ ?_
      · extract_lets -merge +onlyGivenNames t4
        have h5 : Within m o (t4) := .ite (.bump h1) h1
        clear_value t4
        refine .ite ?_ ?_
        · exact .next (.segJoin h5)
        · exact .next (.segDrop h5)
      · split
        · exact .next (.bump h1)
        · refine .ite ?_ ?_
          · exact .next (.segJoin h1)
          · exact .next (.segDrop h1)

theorem Within.execCanSegmentTimeout {x0 : Fin 2} {x1 : State} (hx1 : Within m o x1)
    (hm : Sub 4194305 m := by first | exact Sub.le (by assumption) ⟨rfl⟩ | exact ⟨rfl⟩) : WithinOut m o (execCanSegmentTimeout x0 x1) := by
  unfold Sys2Proof.Machine.execCanSegmentTimeout
  refine .ite ?_ ?_
  · exact .next (.segDrop hx1)
  · exact .next hx1

theorem Within.execCanTxfPush {x0 : Init} {x1 : Fin 2} {x2 : Word} {x3 : State} (hx3 : Within m o x3)
    (hm : Sub 25165877 m := by first | exact Sub.le (by assumption) ⟨rfl⟩ | exact ⟨rfl⟩) : WithinOut m o (execCanTxfPush x0 x1 x2 x3) := by
  unfold Sys2Proof.Machine.execCanTxfPush
  exact .next (.onWrite hx3 (fun h0 => .canPush h0))

theorem Within.canSentOne {x0 : State} {x1 : Nat} {x2 : CanFrame} (hx0 : Within m o x0)
    (hm : Sub 5 m := by first | exact Sub.le (by assumption) ⟨rfl⟩ | exact ⟨rfl⟩) : Within m o (State.canSentOne x0 x1 x2) :=
  .emit (.bump hx0)

theorem Within.execCanFrameSent {x0 : Fin 2} {x1 : State} (hx1 : Within m o x1)
    (hm : Sub 25165829 m := by first | exact Sub.le (by assumption) ⟨rfl⟩ | exact ⟨rfl⟩) : WithinOut m o (execCanFrameSent x0 x1) := by
  unfold Sys2Proof.Machine.execCanFrameSent
  refine .ite ?_ ?_
  · exact .next hx1
  · split
    · exact .next (.canSentOne (.setCan hx1))
    · exact .next (.canSentOne (.setCan hx1))
    · exact .next hx1

theorem Within.execCanFrameReceive {x0 : Fin 2} {x1 : BitVec 31} {x2 : BitVec 6} {x3 : List (BitVec 8)} {x4 : State} (hx4 : Within m o x4)
    (hm : Sub 25165825 m := by first | exact Sub.le (by assumption) ⟨rfl⟩ | exact ⟨rfl⟩) : WithinOut m o (execCanFrameReceive x0 x1 x2 x3 x4) := by
  unfold Sys2Proof.Machine.execCanFrameReceive
  refine .ite ?_ ?_
  · exact .next hx4
  · extract_lets -merge +onlyGivenNames t0 t1
    have h2 : Within m o (t1) := .bump hx4
    clear_value t0 t1
    refine .ite ?_ ?_
    · refine .ite ?_ ?_
      · exact .next h2
      · exact .next (.bump h2)
    · refine .ite ?_ ?_
      · exact .next (.bump h2)
      · exact .next (.setCan h2)

theorem Within.execCanRxfPop {x0 : Init} {x1 : Fin 2} {x2 : State} (hx2 : Within m o x2)
    (hm : Sub 25165877 m := by first | exact Sub.le (by assumption) ⟨rfl⟩ | exact ⟨rfl⟩) : WithinOut m o (execCanRxfPop x0 x1 x2) := by
  unfold Sys2Proof.Machine.execCanRxfPop
  exact .next (.onRead hx2 (fun h0 => .canPop h0))

/-! Pke -/

theorem Within.pkeOut {x0 : State} {x1 : Nat} {x2 : List Byte} (hx0 : Within m o x0)
    (hm : Sub 3145747 m := by first | exact Sub.le (by assumption) ⟨rfl⟩ | exact ⟨rfl⟩) : Within m o (State.pkeOut x0 x1 x2).1 := by
  unfold State.pkeOut
  refine .iteP ?_ ?_
  · exact hx0
  · exact .store hx0

theorem Within.pkePubkey {x0 : State} {x1 : PkeCmd} (hx0 : Within m o x0)
    (hm : Sub 3145747 m := by first | exact Sub.le (by assumption) ⟨rfl⟩ | exact ⟨rfl⟩) : Within m o (State.pkePubkey x0 x1).1 := by
  unfold State.pkePubkey
  split
  · exact hx0
  · exact .pkeOut hx0

theorem Within.extendMr {x0 : State} {x1 : Nat} {x2 : List Byte} (hx0 : Within m o x0)
    (hm : Sub 524288 m := by first | exact Sub.le (by assumption) ⟨rfl⟩ | exact ⟨rfl⟩) : Within m o (State.extendMr x0 x1 x2) :=
  .setPke hx0

theorem Within.verifyImage {x0 : State} {x1 : Nat → Byte} {x2 : Nat} (hx0 : Within m o x0)
    (hm : Sub 3670035 m := by first | exact Sub.le (by assumption) ⟨rfl⟩ | exact ⟨rfl⟩) : Within m o (State.verifyImage x0 x1 x2).1 := by
  unfold State.verifyImage
  extract_lets -merge +onlyGivenNames t0
  clear_value t0
  refine .iteP ?_ ?_
  · exact hx0
  · extract_lets -merge +onlyGivenNames t1 t2
    clear_value t1 t2
    refine .iteP ?_ ?_
    · exact .extendMr (.store hx0)
    · exact .store hx0

theorem Within.pkePop {x0 : Init} {x1 : State} (hx1 : Within m o x1)
    (hm : Sub 524292 m := by first | exact Sub.le (by assumption) ⟨rfl⟩ | exact ⟨rfl⟩) : Within m o (State.pkePop x0 x1) := by
  unfold State.pkePop
  split
  · exact .answer hx1
  · exact .answer (.setPke hx1)

theorem Within.rngRead {x0 : Init} {x1 : State} (hx1 : Within m o x1)
    (hm : Sub 524293 m := by first | exact Sub.le (by assumption) ⟨rfl⟩ | exact ⟨rfl⟩) : Within m o (State.rngRead x0 x1) := by
  unfold State.rngRead
  refine .ite ?_ ?_
  · extract_lets -merge +onlyGivenNames t0
    have h1 : Within m o (t0).1 := .draw hx1
    clear_value t0
    exact .answer h1
  · exact .answer hx1

theorem Within.pkeSync {x0 : State} (hx0 : Within m o x0)
    (hm : Sub 1 m := by first | exact Sub.le (by assumption) ⟨rfl⟩ | exact ⟨rfl⟩) : Within m o (State.pkeSync x0) :=
  .wb (.wf hx0)

theorem Within.pkePush {x0 : Init} {x1 : Word} {x2 : State} (hx2 : Within m o x2)
    (hm : Sub 524305 m := by first | exact Sub.le (by assumption) ⟨rfl⟩ | exact ⟨rfl⟩) : Within m o (State.pkePush x0 x1 x2) := by
  unfold State.pkePush
  refine .ite ?_ ?_
  · exact hx2
  · extract_lets -merge +onlyGivenNames t0
    clear_value t0
    split
    · exact .bump (.refuse hx2)
    · exact .pkeSync (.setPke hx2)

theorem Within.reseed {x0 : State} (hx0 : Within m o x0)
    (hm : Sub 524289 m := by first | exact Sub.le (by assumption) ⟨rfl⟩ | exact ⟨rfl⟩) : Within m o (State.reseed x0) :=
  .bump (.setPke hx0)

theorem Within.pkeMextend {x0 : State} {x1 : PkeCmd} (hx0 : Within m o x0)
    (hm : Sub 524288 m := by first | exact Sub.le (by assumption) ⟨rfl⟩ | exact ⟨rfl⟩) : Within m o (State.pkeMextend x0 x1).1 := by
  unfold State.pkeMextend
  extract_lets -merge +onlyGivenNames t0
  clear_value t0
  refine .iteP ?_ ?_
  · exact hx0
  · split
    · exact hx0
    · exact .extendMr hx0

theorem Within.deriveDak {x0 : State} (hx0 : Within m o x0)
    (hm : Sub 262145 m := by first | exact Sub.le (by assumption) ⟨rfl⟩ | exact ⟨rfl⟩) : Within m o (State.deriveDak x0) := by
  unfold State.deriveDak
  refine .ite ?_ ?_
  · exact hx0
  · extract_lets -merge +onlyGivenNames t0 t1 t3
    have h2 : Within m o (t1) := .loadSlot hx0
    clear_value t0 t1 t3
    exact .foldl (fun h => .setRegN h) h2

theorem Within.execEntropyStartupTest {x0 : Bool} {x1 : State} (hx1 : Within m o x1)
    (hm : Sub 269221905 m := by first | exact Sub.le (by assumption) ⟨rfl⟩ | exact ⟨rfl⟩) : WithinOut m o (execEntropyStartupTest x0 x1) := by
  simp only [Sys2Proof.Machine.execEntropyStartupTest]
  refine .ite ?_ ?_
  · exact .next (.limit (.setStep (.deriveDak (.ite (.setCry (.draw (.setPke (.wf (.wf hx1))))) (.setPke (.wf (.wf hx1)))))))
  · exact .next (.limit (.raise (.bump (.wf (.wf hx1)))))

theorem Within.execPkeCmdPush {x0 : Init} {x1 : Word} {x2 : State} (hx2 : Within m o x2)
    (hm : Sub 524341 m := by first | exact Sub.le (by assumption) ⟨rfl⟩ | exact ⟨rfl⟩) : WithinOut m o (execPkeCmdPush x0 x1 x2) := by
  unfold Sys2Proof.Machine.execPkeCmdPush
  exact .next (.onWrite hx2 (fun h0 => .pkePush h0))

theorem Within.debugErase {x0 : State} (hx0 : Within m o x0)
    (hm : Sub 33292311 m := by first | exact Sub.le (by assumption) ⟨rfl⟩ | exact ⟨rfl⟩) : Within m o (State.debugErase x0) := by
  unfold State.debugErase
  extract_lets -merge +onlyGivenNames t0
  have h1 : Within m o (t0) := .alarmWipe (.pkeAbort (.alarmErase hx0))
  clear_value t0
  exact .wf (.setCry h1)

theorem Within.execDebugToken {x0 : BitVec 8} {x1 : List (BitVec 8)} {x2 : List (BitVec 8)} {x3 : List (BitVec 8)} {x4 : State} (hx4 : Within m o x4)
    (hm : Sub 33292311 m := by first | exact Sub.le (by assumption) ⟨rfl⟩ | exact ⟨rfl⟩) : WithinOut m o (execDebugToken x0 x1 x2 x3 x4) := by
  unfold Sys2Proof.Machine.execDebugToken
  extract_lets -merge +onlyGivenNames t0
  clear_value t0
  refine .ite ?_ ?_
  · exact .next hx4
  · refine .ite ?_ ?_
    · extract_lets -merge +onlyGivenNames t1 t3 t5
      have h2 : Within m o (t1) := .setPke hx4
      have h4 : Within m o (t3) := .ite (.debugErase h2) h2
      have h6 : Within m o (t5) := .wf h4
      clear_value t1 t3 t5
      exact .next (.raise (.extendMr h6))
    · extract_lets -merge +onlyGivenNames t7 t9 t10
      have h8 : Within m o (t7) := .setPke hx4
      have h11 : Within m o (t10) := .raise (.errSet (.wf h8))
      clear_value t7 t9 t10
      exact .next (.ite h11 (.alarm h11))

theorem Within.execRngRead {x0 : Init} {x1 : State} (hx1 : Within m o x1)
    (hm : Sub 524341 m := by first | exact Sub.le (by assumption) ⟨rfl⟩ | exact ⟨rfl⟩) : WithinOut m o (execRngRead x0 x1) := by
  unfold Sys2Proof.Machine.execRngRead
  exact .next (.onRead hx1 (fun h0 => .rngRead h0))

theorem Within.pkeDone {x0 : State} {x1 : PkeCmd} {x2 : Nat} (hx0 : Within m o x0)
    (hm : Sub 524305 m := by first | exact Sub.le (by assumption) ⟨rfl⟩ | exact ⟨rfl⟩) : Within m o (State.pkeDone x0 x1 x2) := by
  unfold State.pkeDone
  extract_lets -merge +onlyGivenNames t0 t2
  have h1 : Within m o (t0) := .pkeSync (.setPke hx0)
  have h3 : Within m o (t2) := .ite (.setPke h1) (.bump h1)
  clear_value t0 t2
  refine .ite ?_ ?_
  · extract_lets -merge +onlyGivenNames t4
    have h5 : Within m o (t4) := .bump h3
    clear_value t4
    exact .ite (.raise h5) h5
  · exact .refuse (.bump h3)

theorem Within.pkeRun {x0 : State} {x1 : Nat} {x2 : State → PkeCmd → State × Nat} (hx0 : Within m o x0) (hx2 : ∀ {y0} {y1}, Within m o y0 → Within m o (x2 y0 y1).1)
    (hm : Sub 3670033 m := by first | exact Sub.le (by assumption) ⟨rfl⟩ | exact ⟨rfl⟩) : Within m o (State.pkeRun x0 x1 x2) := by
  unfold State.pkeRun
  split
  · exact hx0
  · refine .ite ?_ ?_
    · exact hx0
    · refine .ite ?_ ?_
      · exact .pkeDone hx0
      · extract_lets -merge +onlyGivenNames t0 t1
        have h2 : Within m o (t1).1 := hx2 (.ite (.eccRead hx0) hx0)
        clear_value t0 t1
        exact .pkeDone h2

theorem Within.pkeSign {x0 : State} {x1 : PkeCmd} (hx0 : Within m o x0)
    (hm : Sub 3670035 m := by first | exact Sub.le (by assumption) ⟨rfl⟩ | exact ⟨rfl⟩) : Within m o (State.pkeSign x0 x1).1 := by
  unfold State.pkeSign
  split
  · exact hx0
  · exact hx0
  · extract_lets -merge +onlyGivenNames t0
    have h1 : Within m o (t0).1 := .draw hx0
    clear_value t0
    exact .pkeOut h1

theorem Within.execPkeSign {x0 : State} (hx0 : Within m o x0)
    (hm : Sub 3670035 m := by first | exact Sub.le (by assumption) ⟨rfl⟩ | exact ⟨rfl⟩) : WithinOut m o (execPkeSign x0) := by
  unfold Sys2Proof.Machine.execPkeSign
  exact .next (.pkeRun hx0 (fun h0 => .pkeSign h0))

theorem Within.execPkeResultPop {x0 : Init} {x1 : State} (hx1 : Within m o x1)
    (hm : Sub 524341 m := by first | exact Sub.le (by assumption) ⟨rfl⟩ | exact ⟨rfl⟩) : WithinOut m o (execPkeResultPop x0 x1) := by
  unfold Sys2Proof.Machine.execPkeResultPop
  exact .next (.onRead hx1 (fun h0 => .pkePop h0))

theorem Within.pkeSvnset {x0 : State} {x1 : PkeCmd} (hx0 : Within m o x0)
    (hm : Sub 17 m := by first | exact Sub.le (by assumption) ⟨rfl⟩ | exact ⟨rfl⟩) : Within m o (State.pkeSvnset x0 x1).1 := by
  unfold State.pkeSvnset
  extract_lets -merge +onlyGivenNames t0
  clear_value t0
  refine .iteP ?_ ?_
  · exact hx0
  · refine .iteP ?_ ?_
    · exact hx0
    · exact .raise (.setReg hx0)

theorem Within.execPkeSvnset {x0 : State} (hx0 : Within m o x0)
    (hm : Sub 3670033 m := by first | exact Sub.le (by assumption) ⟨rfl⟩ | exact ⟨rfl⟩) : WithinOut m o (execPkeSvnset x0) := by
  unfold Sys2Proof.Machine.execPkeSvnset
  exact .next (.pkeRun hx0 (fun h0 => .pkeSvnset h0))

theorem Within.execPkePubkey {x0 : State} (hx0 : Within m o x0)
    (hm : Sub 3670035 m := by first | exact Sub.le (by assumption) ⟨rfl⟩ | exact ⟨rfl⟩) : WithinOut m o (execPkePubkey x0) := by
  unfold Sys2Proof.Machine.execPkePubkey
  exact .next (.pkeRun hx0 (fun h0 => .pkePubkey h0))

theorem Within.setHctx {x0 : State} {x1 : Nat} {x2 : HashCtx} (hx0 : Within m o x0)
    (hm : Sub 524288 m := by first | exact Sub.le (by assumption) ⟨rfl⟩ | exact ⟨rfl⟩) : Within m o (State.setHctx x0 x1 x2) :=
  .setPke hx0

theorem Within.hashPiece {x0 : State} {x1 : PkeCmd} {x2 : List Byte} {x3 : HashCtx → List Byte} (hx0 : Within m o x0)
    (hm : Sub 3670035 m := by first | exact Sub.le (by assumption) ⟨rfl⟩ | exact ⟨rfl⟩) : Within m o (State.hashPiece x0 x1 x2 x3).1 := by
  simp only [State.hashPiece]
  split
  · exact hx0
  · refine .iteP ?_ ?_
    · exact hx0
    · refine .iteP ?_ ?_
      · exact .setHctx hx0
      · exact .ite (.setHctx (.pkeOut hx0)) (.pkeOut hx0)

theorem Within.pkeHmac {x0 : State} {x1 : PkeCmd} (hx0 : Within m o x0)
    (hm : Sub 3670035 m := by first | exact Sub.le (by assumption) ⟨rfl⟩ | exact ⟨rfl⟩) : Within m o (State.pkeHmac x0 x1).1 := by
  unfold State.pkeHmac
  refine .iteP ?_ ?_
  · exact .hashPiece hx0
  · split
    · exact hx0
    · exact .hashPiece hx0

theorem Within.attested {x0 : State} {x1 : List Byte} (hx0 : Within m o x0)
    (hm : Sub 524289 m := by first | exact Sub.le (by assumption) ⟨rfl⟩ | exact ⟨rfl⟩) : Within m o (State.attested x0 x1).1 := by
  unfold State.attested
  extract_lets -merge +onlyGivenNames t0 t1 t3
  have h2 : Within m o (t1).1 := .draw hx0
  clear_value t0 t1 t3
  exact h2

theorem Within.pkeVerify {x0 : State} {x1 : PkeCmd} (hx0 : Within m o x0)
    (hm : Sub 0 m := by first | exact Sub.le (by assumption) ⟨rfl⟩ | exact ⟨rfl⟩) : Within m o (State.pkeVerify x0 x1).1 := by
  simp only [State.pkeVerify]
  exact hx0

theorem Within.execPkeVerify {x0 : State} (hx0 : Within m o x0)
    (hm : Sub 3670033 m := by first | exact Sub.le (by assumption) ⟨rfl⟩ | exact ⟨rfl⟩) : WithinOut m o (execPkeVerify x0) := by
  unfold Sys2Proof.Machine.execPkeVerify
  exact .next (.pkeRun hx0 (fun h0 => .pkeVerify h0))

theorem Within.pkeKeygen {x0 : State} {x1 : PkeCmd} (hx0 : Within m o x0)
    (hm : Sub 3932179 m := by first | exact Sub.le (by assumption) ⟨rfl⟩ | exact ⟨rfl⟩) : Within m o (State.pkeKeygen x0 x1).1 := by
  simp only [State.pkeKeygen]
  refine .iteP ?_ ?_
  · exact hx0
  · refine .iteP ?_ ?_
    · exact hx0
    · exact .pkeOut (.loadSlot (.draw hx0))

theorem Within.execPkeHmac {x0 : State} (hx0 : Within m o x0)
    (hm : Sub 3670035 m := by first | exact Sub.le (by assumption) ⟨rfl⟩ | exact ⟨rfl⟩) : WithinOut m o (execPkeHmac x0) := by
  unfold Sys2Proof.Machine.execPkeHmac
  exact .next (.pkeRun hx0 (fun h0 => .pkeHmac h0))

theorem Within.execReseedInterval {x0 : State} (hx0 : Within m o x0)
    (hm : Sub 524289 m := by first | exact Sub.le (by assumption) ⟨rfl⟩ | exact ⟨rfl⟩) : WithinOut m o (execReseedInterval x0) := by
  unfold Sys2Proof.Machine.execReseedInterval
  exact .next (.ite (.reseed hx0) hx0)

theorem Within.execHealthTestFail {x0 : State} (hx0 : Within m o x0)
    (hm : Sub 17 m := by first | exact Sub.le (by assumption) ⟨rfl⟩ | exact ⟨rfl⟩) : WithinOut m o (execHealthTestFail x0) := by
  unfold Sys2Proof.Machine.execHealthTestFail
  extract_lets -merge +onlyGivenNames t0
  have h1 : Within m o (t0) := .wf (.wf hx0)
  clear_value t0
  exact .next (.raise (.setStep (.bump h1)))

theorem Within.pkeHash {x0 : State} {x1 : PkeCmd} (hx0 : Within m o x0)
    (hm : Sub 3670035 m := by first | exact Sub.le (by assumption) ⟨rfl⟩ | exact ⟨rfl⟩) : Within m o (State.pkeHash x0 x1).1 := by
  unfold State.pkeHash
  exact .hashPiece hx0

theorem Within.execPkeKeygen {x0 : State} (hx0 : Within m o x0)
    (hm : Sub 3932179 m := by first | exact Sub.le (by assumption) ⟨rfl⟩ | exact ⟨rfl⟩) : WithinOut m o (execPkeKeygen x0) := by
  unfold Sys2Proof.Machine.execPkeKeygen
  exact .next (.pkeRun hx0 (fun h0 => .pkeKeygen h0))

theorem Within.execDebugChallenge {x0 : State} (hx0 : Within m o x0)
    (hm : Sub 524293 m := by first | exact Sub.le (by assumption) ⟨rfl⟩ | exact ⟨rfl⟩) : WithinOut m o (execDebugChallenge x0) := by
  unfold Sys2Proof.Machine.execDebugChallenge
  refine .ite ?_ ?_
  · exact .next hx0
  · extract_lets -merge +onlyGivenNames t0
    have h1 : Within m o (t0).1 := .draw hx0
    clear_value t0
    exact .next (.emit (.setPke h1))

theorem Within.pkeAttest {x0 : State} {x1 : PkeCmd} (hx0 : Within m o x0)
    (hm : Sub 3670035 m := by first | exact Sub.le (by assumption) ⟨rfl⟩ | exact ⟨rfl⟩) : Within m o (State.pkeAttest x0 x1).1 := by
  unfold State.pkeAttest
  refine .iteP ?_ ?_
  · exact hx0
  · split
    · exact hx0
    · extract_lets -merge +onlyGivenNames t0
      have h1 : Within m o (t0).1 := .attested hx0
      clear_value t0
      exact .pkeOut h1

theorem Within.execPkeAttest {x0 : State} (hx0 : Within m o x0)
    (hm : Sub 3670035 m := by first | exact Sub.le (by assumption) ⟨rfl⟩ | exact ⟨rfl⟩) : WithinOut m o (execPkeAttest x0) := by
  unfold Sys2Proof.Machine.execPkeAttest
  exact .next (.pkeRun hx0 (fun h0 => .pkeAttest h0))

theorem Within.execPkeHash {x0 : State} (hx0 : Within m o x0)
    (hm : Sub 3670035 m := by first | exact Sub.le (by assumption) ⟨rfl⟩ | exact ⟨rfl⟩) : WithinOut m o (execPkeHash x0) := by
  unfold Sys2Proof.Machine.execPkeHash
  exact .next (.pkeRun hx0 (fun h0 => .pkeHash h0))

theorem Within.pkeKdf {x0 : State} {x1 : PkeCmd} (hx0 : Within m o x0)
    (hm : Sub 262144 m := by first | exact Sub.le (by assumption) ⟨rfl⟩ | exact ⟨rfl⟩) : Within m o (State.pkeKdf x0 x1).1 := by
  unfold State.pkeKdf
  split
  · exact hx0
  · exact hx0
  · extract_lets -merge +onlyGivenNames t0
    clear_value t0
    refine .iteP ?_ ?_
    · exact hx0
    · extract_lets -merge +onlyGivenNames t1 t2
      clear_value t1 t2
      exact .loadSlot hx0

theorem Within.execPkeKdf {x0 : State} (hx0 : Within m o x0)
    (hm : Sub 3932177 m := by first | exact Sub.le (by assumption) ⟨rfl⟩ | exact ⟨rfl⟩) : WithinOut m o (execPkeKdf x0) := by
  unfold Sys2Proof.Machine.execPkeKdf
  exact .next (.pkeRun hx0 (fun h0 => .pkeKdf h0))

theorem Within.pkeEcdh {x0 : State} {x1 : PkeCmd} (hx0 : Within m o x0)
    (hm : Sub 262144 m := by first | exact Sub.le (by assumption) ⟨rfl⟩ | exact ⟨rfl⟩) : Within m o (State.pkeEcdh x0 x1).1 := by
  unfold State.pkeEcdh
  split
  · exact hx0
  · exact hx0
  · extract_lets -merge +onlyGivenNames t0 t1 t2
    clear_value t0 t1 t2
    refine .iteP ?_ ?_
    · exact hx0
    · refine .iteP ?_ ?_
      · exact hx0
      · extract_lets -merge +onlyGivenNames t3
        clear_value t3
        exact .loadSlot hx0

theorem Within.execPkeEcdh {x0 : State} (hx0 : Within m o x0)
    (hm : Sub 3932177 m := by first | exact Sub.le (by assumption) ⟨rfl⟩ | exact ⟨rfl⟩) : WithinOut m o (execPkeEcdh x0) := by
  unfold Sys2Proof.Machine.execPkeEcdh
  exact .next (.pkeRun hx0 (fun h0 => .pkeEcdh h0))

theorem Within.pkeRandom {x0 : State} {x1 : PkeCmd} (hx0 : Within m o x0)
    (hm : Sub 3670035 m := by first | exact Sub.le (by assumption) ⟨rfl⟩ | exact ⟨rfl⟩) : Within m o (State.pkeRandom x0 x1).1 := by
  unfold State.pkeRandom
  extract_lets -merge +onlyGivenNames t0 t2
  have h1 : Within m o (t0) := .ite (.reseed hx0) hx0
  have h3 : Within m o (t2).1 := .draw h1
  clear_value t0 t2
  exact .pkeOut h3

theorem Within.execPkeRandom {x0 : State} (hx0 : Within m o x0)
    (hm : Sub 3670035 m := by first | exact Sub.le (by assumption) ⟨rfl⟩ | exact ⟨rfl⟩) : WithinOut m o (execPkeRandom x0) := by
  unfold Sys2Proof.Machine.execPkeRandom
  exact .next (.pkeRun hx0 (fun h0 => .pkeRandom h0))

theorem Within.execPkeReseed {x0 : State} (hx0 : Within m o x0)
    (hm : Sub 3670033 m := by first | exact Sub.le (by assumption) ⟨rfl⟩ | exact ⟨rfl⟩) : WithinOut m o (execPkeReseed x0) := by
  unfold Sys2Proof.Machine.execPkeReseed
  exact .next (.pkeRun hx0 (fun h0 => .reseed h0))

theorem Within.execPkeMextend {x0 : State} (hx0 : Within m o x0)
    (hm : Sub 3670033 m := by first | exact Sub.le (by assumption) ⟨rfl⟩ | exact ⟨rfl⟩) : WithinOut m o (execPkeMextend x0) := by
  unfold Sys2Proof.Machine.execPkeMextend
  exact .next (.pkeRun hx0 (fun h0 => .pkeMextend h0))

theorem Within.pkeRevoke {x0 : State} {x1 : PkeCmd} (hx0 : Within m o x0)
    (hm : Sub 17 m := by first | exact Sub.le (by assumption) ⟨rfl⟩ | exact ⟨rfl⟩) : Within m o (State.pkeRevoke x0 x1).1 := by
  unfold State.pkeRevoke
  extract_lets -merge +onlyGivenNames t0
  clear_value t0
  refine .iteP ?_ ?_
  · exact hx0
  · refine .iteP ?_ ?_
    · exact hx0
    · exact .raise (.setReg hx0)

theorem Within.execPkeRevoke {x0 : State} (hx0 : Within m o x0)
    (hm : Sub 3670033 m := by first | exact Sub.le (by assumption) ⟨rfl⟩ | exact ⟨rfl⟩) : WithinOut m o (execPkeRevoke x0) := by
  unfold Sys2Proof.Machine.execPkeRevoke
  exact .next (.pkeRun hx0 (fun h0 => .pkeRevoke h0))

end Sys2Proof.Machine
end

