-- ==== Sys2Proof/Laws/Within6.lean ====
section
/-! SUPPORT. Which parts of the state every operation touches (`Within`), one lemma for each: Xspi, Mdm, FieldBase, FieldUp, StpPlan, Mac. -/

namespace Sys2Proof.Machine

set_option Elab.async false
set_option linter.unusedVariables false

variable {m : Nat} {o : State}

/-! Xspi -/

theorem Within.setXspi {x0 : State} {x1 : XspiSt → XspiSt} (hx0 : Within m o x0)
    (hm : Sub 134217728 m := by first | exact Sub.le (by assumption) ⟨rfl⟩ | exact ⟨rfl⟩) : Within m o (State.setXspi x0 x1) :=
  .in_xspi hx0

theorem Within.xspiPop {x0 : Init} {x1 : State} (hx1 : Within m o x1)
    (hm : Sub 134217732 m := by first | exact Sub.le (by assumption) ⟨rfl⟩ | exact ⟨rfl⟩) : Within m o (State.xspiPop x0 x1) := by
  unfold State.xspiPop
  split
  · exact .answer hx1
  · exact .answer (.setXspi hx1)

theorem Within.fifoRead {x0 : State} (hx0 : Within m o x0)
    (hm : Sub 134217728 m := by first | exact Sub.le (by assumption) ⟨rfl⟩ | exact ⟨rfl⟩) : Within m o (State.fifoRead x0).1 := by
  unfold State.fifoRead
  refine .iteP ?_ ?_
  · exact .used hx0
  · exact .setXspi hx0

theorem Within.xspiKeep {x0 : State} (hx0 : Within m o x0)
    (hm : Sub 1 m := by first | exact Sub.le (by assumption) ⟨rfl⟩ | exact ⟨rfl⟩) : Within m o (State.xspiKeep x0) := by
  unfold State.xspiKeep
  extract_lets -merge +onlyGivenNames t0 t1 t3
  have h2 : Within m o (t1) := .wb hx0
  have h4 : Within m o (t3) := .wb h2
  clear_value t0 t1 t3
  exact .wf (.wb h4)

theorem Within.opPush {x0 : Word} {x1 : State} (hx1 : Within m o x1)
    (hm : Sub 134217745 m := by first | exact Sub.le (by assumption) ⟨rfl⟩ | exact ⟨rfl⟩) : Within m o (State.opPush x0 x1) := by
  unfold State.opPush
  refine .ite ?_ ?_
  · exact hx1
  · extract_lets -merge +onlyGivenNames t0 t1
    clear_value t0 t1
    exact .ite (.xspiKeep (.setXspi hx1)) (.refuse hx1)

theorem Within.fifoWrite {x0 : Word} {x1 : State} (hx1 : Within m o x1)
    (hm : Sub 134217728 m := by first | exact Sub.le (by assumption) ⟨rfl⟩ | exact ⟨rfl⟩) : Within m o (State.fifoWrite x0 x1) :=
  .setXspi hx1

theorem Within.flashOps {x0 : State} {x1 : Nat} (hx0 : Within m o x0)
    (hm : Sub 1 m := by first | exact Sub.le (by assumption) ⟨rfl⟩ | exact ⟨rfl⟩) : Within m o (State.flashOps x0 x1) :=
  .bumpBy hx0

theorem Within.flashErase {x0 : State} {x1 : Nat} {x2 : Nat} (hx0 : Within m o x0)
    (hm : Sub 67108864 m := by first | exact Sub.le (by assumption) ⟨rfl⟩ | exact ⟨rfl⟩) : Within m o (State.flashErase x0 x1 x2) :=
  .in_flash hx0

theorem Within.setFlash {x0 : State} {x1 : Nat} {x2 : Byte} (hx0 : Within m o x0)
    (hm : Sub 67108864 m := by first | exact Sub.le (by assumption) ⟨rfl⟩ | exact ⟨rfl⟩) : Within m o (State.setFlash x0 x1 x2) :=
  .in_flash hx0

theorem Within.flashProgram {x0 : State} {x1 : Nat} {x2 : List Byte} (hx0 : Within m o x0)
    (hm : Sub 67108864 m := by first | exact Sub.le (by assumption) ⟨rfl⟩ | exact ⟨rfl⟩) : Within m o (State.flashProgram x0 x1 x2) := by
  induction x2 generalizing x0 x1 with
  | nil =>
    exact hx0
  | cons y l ih =>
    rw [State.flashProgram]
    exact ih (.setFlash hx0)

theorem Within.pairWrite {x0 : State} {x1 : Nat} {x2 : Nat} {x3 : Nat} {x4 : StoredRec} (hx0 : Within m o x0)
    (hm : Sub 67108864 m := by first | exact Sub.le (by assumption) ⟨rfl⟩ | exact ⟨rfl⟩) : Within m o (State.pairWrite x0 x1 x2 x3 x4) :=
  .flashProgram (.flashProgram hx0)

theorem Within.opStart {x0 : State} {x1 : Nat} (hx0 : Within m o x0)
    (hm : Sub 134217729 m := by first | exact Sub.le (by assumption) ⟨rfl⟩ | exact ⟨rfl⟩) : Within m o (State.opStart x0 x1) := by
  unfold State.opStart
  refine .ite ?_ ?_
  · exact hx0
  · split
    · split
      · exact .ite (.xspiKeep (.setXspi hx0)) hx0
      · exact hx0
    · split
      · exact .ite (.xspiKeep (.bump (.setXspi hx0))) hx0
      · exact hx0

theorem Within.freeBytes {x0 : State} {x1 : Nat} (hx0 : Within m o x0)
    (hm : Sub 0 m := by first | exact Sub.le (by assumption) ⟨rfl⟩ | exact ⟨rfl⟩) : Within m o (State.freeBytes x0 x1).2 := by
  induction x1 generalizing x0 with
  | zero =>
    exact hx0
  | succ n ih =>
    rw [State.freeBytes]
    exact ih (.used hx0)

theorem Within.setFlashAll {x0 : State} {x1 : Nat} {x2 : List Byte} (hx0 : Within m o x0)
    (hm : Sub 67108864 m := by first | exact Sub.le (by assumption) ⟨rfl⟩ | exact ⟨rfl⟩) : Within m o (State.setFlashAll x0 x1 x2) := by
  induction x2 generalizing x0 x1 with
  | nil =>
    exact hx0
  | cons y l ih =>
    rw [State.setFlashAll]
    exact ih (.setFlash hx0)

theorem Within.opEffect {x0 : State} {x1 : FlashOp} {x2 : Nat} {x3 : List Byte} (hx0 : Within m o x0)
    (hm : Sub 204472339 m := by first | exact Sub.le (by assumption) ⟨rfl⟩ | exact ⟨rfl⟩) : Within m o (State.opEffect x0 x1 x2 x3) := by
  unfold State.opEffect
  extract_lets -merge +onlyGivenNames t0
  clear_value t0
  refine .ite ?_ ?_
  · exact .ite (.store hx0) (.ite (.flashProgram (.eccRead hx0)) (.ite (.flashErase hx0) (.setXspi hx0)))
  · refine .ite ?_ ?_
    · extract_lets -merge +onlyGivenNames t1
      have h2 : Within m o (t1).2 := .freeBytes hx0
      clear_value t1
      exact .setFlashAll h2
    · exact hx0

theorem Within.execXspiRaw {x0 : State} (hx0 : Within m o x0)
    (hm : Sub 134217729 m := by first | exact Sub.le (by assumption) ⟨rfl⟩ | exact ⟨rfl⟩) : WithinOut m o (execXspiRaw x0) := by
  unfold Sys2Proof.Machine.execXspiRaw
  exact .next (.opStart hx0)

theorem Within.execXspiOpPush {x0 : Init} {x1 : Word} {x2 : State} (hx2 : Within m o x2)
    (hm : Sub 134217781 m := by first | exact Sub.le (by assumption) ⟨rfl⟩ | exact ⟨rfl⟩) : WithinOut m o (execXspiOpPush x0 x1 x2) := by
  unfold Sys2Proof.Machine.execXspiOpPush
  exact .next (.onWrite hx2 (fun h0 => .opPush h0))

theorem Within.execXspiRead {x0 : State} (hx0 : Within m o x0)
    (hm : Sub 134217729 m := by first | exact Sub.le (by assumption) ⟨rfl⟩ | exact ⟨rfl⟩) : WithinOut m o (execXspiRead x0) := by
  unfold Sys2Proof.Machine.execXspiRead
  exact .next (.opStart hx0)

theorem Within.execXspiProgram {x0 : State} (hx0 : Within m o x0)
    (hm : Sub 134217729 m := by first | exact Sub.le (by assumption) ⟨rfl⟩ | exact ⟨rfl⟩) : WithinOut m o (execXspiProgram x0) := by
  unfold Sys2Proof.Machine.execXspiProgram
  exact .next (.opStart hx0)

theorem Within.execXspiErase {x0 : State} (hx0 : Within m o x0)
    (hm : Sub 134217729 m := by first | exact Sub.le (by assumption) ⟨rfl⟩ | exact ⟨rfl⟩) : WithinOut m o (execXspiErase x0) := by
  unfold Sys2Proof.Machine.execXspiErase
  exact .next (.opStart hx0)

theorem Within.execXspiOpDone {x0 : Fin 3} {x1 : List (BitVec 8)} {x2 : State} (hx2 : Within m o x2)
    (hm : Sub 204472339 m := by first | exact Sub.le (by assumption) ⟨rfl⟩ | exact ⟨rfl⟩) : WithinOut m o (execXspiOpDone x0 x1 x2) := by
  unfold Sys2Proof.Machine.execXspiOpDone
  split
  · exact .next hx2
  · extract_lets -merge +onlyGivenNames t0 t1 t3 t5
    have h2 : Within m o (t1) := .bump (.opEffect hx2)
    have h4 : Within m o (t3) := .setXspi h2
    have h6 : Within m o (t5) := .xspiKeep h4
    clear_value t0 t1 t3 t5
    refine .ite ?_ ?_
    · exact .next h6
    · exact .next (.raise (.bump h6))

theorem Within.execXspiResultPop {x0 : Init} {x1 : State} (hx1 : Within m o x1)
    (hm : Sub 134217781 m := by first | exact Sub.le (by assumption) ⟨rfl⟩ | exact ⟨rfl⟩) : WithinOut m o (execXspiResultPop x0 x1) := by
  unfold Sys2Proof.Machine.execXspiResultPop
  exact .next (.onRead hx1 (fun h0 => .xspiPop h0))

/-! Mdm -/

theorem Within.smodeWrite {x0 : Nat} {x1 : Word} {x2 : State} (hx2 : Within m o x2)
    (hm : Sub 145 m := by first | exact Sub.le (by assumption) ⟨rfl⟩ | exact ⟨rfl⟩) : Within m o (State.smodeWrite x0 x1 x2) := by
  unfold State.smodeWrite
  refine .ite ?_ ?_
  · exact .writeReg hx2
  · refine .ite ?_ ?_
    · exact .setMdm hx2
    · extract_lets -merge +onlyGivenNames t0
      have h1 : Within m o (t0) := .writeReg hx2
      clear_value t0
      exact .ite (.wf h1) h1

theorem Within.withdrawTx {x0 : State} {x1 : Radio} {x2 : Nat} (hx0 : Within m o x0)
    (hm : Sub 81 m := by first | exact Sub.le (by assumption) ⟨rfl⟩ | exact ⟨rfl⟩) : Within m o (State.withdrawTx x0 x1 x2) := by
  unfold State.withdrawTx
  extract_lets -merge +onlyGivenNames t0 t1
  clear_value t0 t1
  split
  · exact .ite (.rfcDone (.rfcUnhold hx0)) hx0
  · refine .ite ?_ ?_
    · split
      · exact .rfcDone hx0
      · exact hx0
    · split
      · exact .ite hx0 (.rfcResult (.setRfc hx0))
      · exact hx0

theorem Within.transmitVector {x0 : State} {x1 : Radio} {x2 : SevenWords} {x3 : Bool} (hx0 : Within m o x0)
    (hm : Sub 209 m := by first | exact Sub.le (by assumption) ⟨rfl⟩ | exact ⟨rfl⟩) : Within m o (State.transmitVector x0 x1 x2 x3) := by
  unfold State.transmitVector
  extract_lets -merge +onlyGivenNames t0
  clear_value t0
  refine .ite ?_ ?_
  · exact .setMdm hx0
  · extract_lets -merge +onlyGivenNames t1
    have h2 : Within m o (t1) := .bump (.errSet hx0)
    clear_value t1
    exact .raise (.withdrawTx h2)

theorem Within.execTransmitVector {x0 : Radio} {x1 : SevenWords} {x2 : Bool} {x3 : State} (hx3 : Within m o x3)
    (hm : Sub 209 m := by first | exact Sub.le (by assumption) ⟨rfl⟩ | exact ⟨rfl⟩) : WithinOut m o (execTransmitVector x0 x1 x2 x3) := by
  unfold Sys2Proof.Machine.execTransmitVector
  exact .next (.transmitVector hx3)

theorem Within.absentBlocks {x0 : State} {x1 : Radio} {x2 : List (BitVec 12)} (hx0 : Within m o x0)
    (hm : Sub 5 m := by first | exact Sub.le (by assumption) ⟨rfl⟩ | exact ⟨rfl⟩) : Within m o (State.absentBlocks x0 x1 x2) := by
  induction x2 generalizing x0 x1 with
  | nil =>
    exact hx0
  | cons y l ih =>
    rw [State.absentBlocks]
    exact ih (.bump (.failBlock hx0))

theorem Within.falseDetection {x0 : State} {x1 : Radio} (hx0 : Within m o x0)
    (hm : Sub 129 m := by first | exact Sub.le (by assumption) ⟨rfl⟩ | exact ⟨rfl⟩) : Within m o (State.falseDetection x0 x1) :=
  .rxOver (.bump hx0)

theorem Within.deliverBlocks {x0 : State} {x1 : Radio} {x2 : Bool} {x3 : List RxMeas} (hx0 : Within m o x0)
    (hm : Sub 5 m := by first | exact Sub.le (by assumption) ⟨rfl⟩ | exact ⟨rfl⟩) : Within m o (State.deliverBlocks x0 x1 x2 x3) := by
  induction x3 generalizing x0 x1 x2 with
  | nil =>
    exact hx0
  | cons y l ih =>
    rw [State.deliverBlocks]
    exact ih (.deliverBlock (.ite (.bump hx0) hx0))

theorem Within.execPpduReceiveEnd {x0 : Radio} {x1 : List RxMeas} {x2 : State} (hx2 : Within m o x2)
    (hm : Sub 149 m := by first | exact Sub.le (by assumption) ⟨rfl⟩ | exact ⟨rfl⟩) : WithinOut m o (execPpduReceiveEnd x0 x1 x2) := by
  unfold Sys2Proof.Machine.execPpduReceiveEnd
  refine .ite ?_ ?_
  · extract_lets -merge +onlyGivenNames t0 t1 t2 t4
    have h3 : Within m o (t2) := .deliverBlocks hx2
    have h5 : Within m o (t4) := .rxOver h3
    clear_value t0 t1 t2 t4
    exact .next (.ite (.raise h5) h5)
  · exact .next hx2

theorem Within.execTbWindowEnd {x0 : WRadio} {x1 : State} (hx1 : Within m o x1)
    (hm : Sub 149 m := by first | exact Sub.le (by assumption) ⟨rfl⟩ | exact ⟨rfl⟩) : WithinOut m o (execTbWindowEnd x0 x1) := by
  unfold Sys2Proof.Machine.execTbWindowEnd
  extract_lets -merge +onlyGivenNames t0
  clear_value t0
  split
  · exact .next hx1
  · refine .ite ?_ ?_
    · exact .next (.raise (.rxOver (.absentBlocks hx1)))
    · exact .next hx1

theorem Within.fieldPass {x0 : State} {x1 : Radio} {x2 : Bool} {x3 : Word} (hx0 : Within m o x0)
    (hm : Sub 129 m := by first | exact Sub.le (by assumption) ⟨rfl⟩ | exact ⟨rfl⟩) : Within m o (State.fieldPass x0 x1 x2 x3) := by
  unfold State.fieldPass
  extract_lets -merge +onlyGivenNames t0
  have h1 : Within m o (t0) := .setMdm hx0
  clear_value t0
  refine .ite ?_ ?_
  · extract_lets -merge +onlyGivenNames t2
    have h3 : Within m o (t2) := .wf h1
    clear_value t2
    exact .wf h3
  · exact .wf h1

theorem Within.dpdCapture {x0 : State} {x1 : Radio} {x2 : Nat} (hx0 : Within m o x0)
    (hm : Sub 64 m := by first | exact Sub.le (by assumption) ⟨rfl⟩ | exact ⟨rfl⟩) : Within m o (State.dpdCapture x0 x1 x2) := by
  unfold State.dpdCapture
  split
  · exact .ite (.setRfc hx0) hx0
  · exact hx0

theorem Within.execPpduTxEnd {x0 : Radio} {x1 : Nat} {x2 : State} (hx2 : Within m o x2)
    (hm : Sub 213 m := by first | exact Sub.le (by assumption) ⟨rfl⟩ | exact ⟨rfl⟩) : WithinOut m o (execPpduTxEnd x0 x1 x2) := by
  unfold Sys2Proof.Machine.execPpduTxEnd
  split
  · refine .ite ?_ ?_
    · extract_lets -merge +onlyGivenNames t0 t2 t4 t6
      have h1 : Within m o (t0) := .dpdCapture hx2
      have h3 : Within m o (t2) := .ppduEnd h1
      have h5 : Within m o (t4) := .rfcEndRun h3
      clear_value t0 t2 t4 t6
      exact .next (.setRfc (.femRest h5))
    · exact .next hx2
  · exact .next hx2

theorem Within.rxBegin {x0 : State} {x1 : Radio} {x2 : Int} {x3 : GTime} (hx0 : Within m o x0)
    (hm : Sub 129 m := by first | exact Sub.le (by assumption) ⟨rfl⟩ | exact ⟨rfl⟩) : Within m o (State.rxBegin x0 x1 x2 x3) := by
  unfold State.rxBegin
  extract_lets -merge +onlyGivenNames t0 t1 t2 t4 t5 t7
  have h3 : Within m o (t2) := .setMdm hx0
  have h6 : Within m o (t5) := .setRegN h3
  have h8 : Within m o (t7) := .wf (.wf h6)
  clear_value t0 t1 t2 t4 t5 t7
  exact .bump (.wf h8)

theorem Within.execPacketDetect {x0 : Radio} {x1 : Int} {x2 : GTime} {x3 : State} (hx3 : Within m o x3)
    (hm : Sub 129 m := by first | exact Sub.le (by assumption) ⟨rfl⟩ | exact ⟨rfl⟩) : WithinOut m o (execPacketDetect x0 x1 x2 x3) := by
  unfold Sys2Proof.Machine.execPacketDetect
  refine .ite ?_ ?_
  · exact .next (.rxBegin hx3)
  · exact .next hx3

theorem Within.execFieldCheck {x0 : Radio} {x1 : Bool} {x2 : FieldOutcome} {x3 : Word} {x4 : State} (hx4 : Within m o x4)
    (hm : Sub 129 m := by first | exact Sub.le (by assumption) ⟨rfl⟩ | exact ⟨rfl⟩) : WithinOut m o (execFieldCheck x0 x1 x2 x3 x4) := by
  unfold Sys2Proof.Machine.execFieldCheck
  refine .ite ?_ ?_
  · split
    · exact .next (.falseDetection hx4)
    · exact .next (.fieldPass hx4)
    · exact .next (.fieldPass hx4)
    · exact .next (.wf (.setMdm hx4))
  · exact .next hx4

theorem Within.execUnsupportedHoldEnd {x0 : Radio} {x1 : State} (hx1 : Within m o x1)
    (hm : Sub 133 m := by first | exact Sub.le (by assumption) ⟨rfl⟩ | exact ⟨rfl⟩) : WithinOut m o (execUnsupportedHoldEnd x0 x1) := by
  unfold Sys2Proof.Machine.execUnsupportedHoldEnd
  refine .ite ?_ ?_
  · exact .next (.rxOver (.bump (.failBlock hx1)))
  · exact .next hx1

theorem Within.rxCaptured {x0 : State} {x1 : Radio} (hx0 : Within m o x0)
    (hm : Sub 5 m := by first | exact Sub.le (by assumption) ⟨rfl⟩ | exact ⟨rfl⟩) : Within m o (State.rxCaptured x0 x1) :=
  .ite (.bump (.failBlock hx0)) (.bump hx0)

theorem Within.execSecondDetection {x0 : Radio} {x1 : Int} {x2 : GTime} {x3 : State} (hx3 : Within m o x3)
    (hm : Sub 133 m := by first | exact Sub.le (by assumption) ⟨rfl⟩ | exact ⟨rfl⟩) : WithinOut m o (execSecondDetection x0 x1 x2 x3) := by
  unfold Sys2Proof.Machine.execSecondDetection
  refine .ite ?_ ?_
  · refine .ite ?_ ?_
    · exact .next (.rxBegin (.rxOver (.rxCaptured hx3)))
    · exact .next (.setMdm hx3)
  · exact .next hx3

theorem Within.execClipRestart {x0 : Radio} {x1 : State} (hx1 : Within m o x1)
    (hm : Sub 133 m := by first | exact Sub.le (by assumption) ⟨rfl⟩ | exact ⟨rfl⟩) : WithinOut m o (execClipRestart x0 x1) := by
  unfold Sys2Proof.Machine.execClipRestart
  refine .ite ?_ ?_
  · exact .next (.rxOver (.bump (.rxCaptured hx1)))
  · exact .next hx1

theorem Within.tbArm {x0 : State} {x1 : Radio} {x2 : List (BitVec 12)} {x3 : BitVec 8} (hx0 : Within m o x0)
    (hm : Sub 129 m := by first | exact Sub.le (by assumption) ⟨rfl⟩ | exact ⟨rfl⟩) : Within m o (State.tbArm x0 x1 x2 x3) := by
  unfold State.tbArm
  refine .ite ?_ ?_
  · extract_lets -merge +onlyGivenNames t0
    have h1 : Within m o (t0) := .setMdm hx0
    clear_value t0
    exact .ite (.wf h1) h1
  · exact hx0

theorem Within.execTbReceptionArm {x0 : WRadio} {x1 : List (BitVec 12)} {x2 : BitVec 8} {x3 : State} (hx3 : Within m o x3)
    (hm : Sub 129 m := by first | exact Sub.le (by assumption) ⟨rfl⟩ | exact ⟨rfl⟩) : WithinOut m o (execTbReceptionArm x0 x1 x2 x3) := by
  unfold Sys2Proof.Machine.execTbReceptionArm
  exact .next (.tbArm hx3)

theorem Within.execCodewordDecoded {x0 : WRadio} {x1 : Bool} {x2 : Bool} {x3 : Bool} {x4 : State} (hx4 : Within m o x4)
    (hm : Sub 129 m := by first | exact Sub.le (by assumption) ⟨rfl⟩ | exact ⟨rfl⟩) : WithinOut m o (execCodewordDecoded x0 x1 x2 x3 x4) := by
  unfold Sys2Proof.Machine.execCodewordDecoded
  extract_lets -merge +onlyGivenNames t0 t1 t2 t3 t5
  have h4 : Within m o (t3) := .ite (.bump hx4) hx4
  have h6 : Within m o (t5) := .ite (.bump h4) h4
  clear_value t0 t1 t2 t3 t5
  exact .next (.setMdm h6)

theorem Within.execSmodeWrite {x0 : Init} {x1 : Word} {x2 : State} (hx2 : Within m o x2)
    (hm : Sub 181 m := by first | exact Sub.le (by assumption) ⟨rfl⟩ | exact ⟨rfl⟩) : WithinOut m o (execSmodeWrite x0 x1 x2) := by
  unfold Sys2Proof.Machine.execSmodeWrite
  exact .next (.onWrite hx2 (fun h0 => .smodeWrite h0))

theorem Within.execNoiseAlarm {x0 : Radio} {x1 : BitVec 16} {x2 : State} (hx2 : Within m o x2)
    (hm : Sub 17 m := by first | exact Sub.le (by assumption) ⟨rfl⟩ | exact ⟨rfl⟩) : WithinOut m o (execNoiseAlarm x0 x1 x2) := by
  unfold Sys2Proof.Machine.execNoiseAlarm
  extract_lets -merge +onlyGivenNames t0
  have h1 : Within m o (t0) := .wf hx2
  clear_value t0
  exact .next (.ite (.raise h1) h1)

theorem Within.execRxAnomalyAlarm {x0 : Radio} {x1 : Nat} {x2 : State} (hx2 : Within m o x2)
    (hm : Sub 17 m := by first | exact Sub.le (by assumption) ⟨rfl⟩ | exact ⟨rfl⟩) : WithinOut m o (execRxAnomalyAlarm x0 x1 x2) := by
  unfold Sys2Proof.Machine.execRxAnomalyAlarm
  exact .next (.ite (.raise hx2) hx2)

/-! FieldBase -/

theorem Within.setFld {x0 : State} {x1 : FieldSt → FieldSt} (hx0 : Within m o x0)
    (hm : Sub 16384 m := by first | exact Sub.le (by assumption) ⟨rfl⟩ | exact ⟨rfl⟩) : Within m o (State.setFld x0 x1) :=
  .in_fld hx0

theorem Within.fmPop {x0 : Init} {x1 : State} (hx1 : Within m o x1)
    (hm : Sub 16388 m := by first | exact Sub.le (by assumption) ⟨rfl⟩ | exact ⟨rfl⟩) : Within m o (State.fmPop x0 x1) := by
  unfold State.fmPop
  split
  · exact .answer hx1
  · exact .answer (.setFld hx1)

theorem Within.dwWinWrite {x0 : Nat} {x1 : Nat} {x2 : Word} {x3 : State} (hx3 : Within m o x3)
    (hm : Sub 16401 m := by first | exact Sub.le (by assumption) ⟨rfl⟩ | exact ⟨rfl⟩) : Within m o (State.dwWinWrite x0 x1 x2 x3) := by
  unfold State.dwWinWrite
  extract_lets -merge +onlyGivenNames t0 t1
  have h2 : Within m o (t1) := .writeReg hx3
  clear_value t0 t1
  exact .ite h2 (.setFld h2)

theorem Within.fmPost {x0 : State} {x1 : Nat} {x2 : Nat} {x3 : Nat} (hx0 : Within m o x0)
    (hm : Sub 16385 m := by first | exact Sub.le (by assumption) ⟨rfl⟩ | exact ⟨rfl⟩) : Within m o (State.fmPost x0 x1 x2 x3) :=
  .ite (.setFld hx0) (.bump hx0)

theorem Within.freeRbuf {x0 : State} {x1 : Nat} (hx0 : Within m o x0)
    (hm : Sub 4097 m := by first | exact Sub.le (by assumption) ⟨rfl⟩ | exact ⟨rfl⟩) : Within m o (State.freeRbuf x0 x1) := by
  unfold State.freeRbuf
  split
  · exact hx0
  · extract_lets -merge +onlyGivenNames t0
    have h1 : Within m o (t0) := .setPkt hx0
    clear_value t0
    exact .ite (.rxGive h1) (.txGive h1)

theorem Within.setFe {x0 : State} {x1 : Nat} {x2 : Nat} {x3 : Nat} {x4 : Nat} {x5 : Nat} (hx0 : Within m o x0)
    (hm : Sub 2 m := by first | exact Sub.le (by assumption) ⟨rfl⟩ | exact ⟨rfl⟩) : Within m o (State.setFe x0 x1 x2 x3 x4 x5) :=
  .wmf hx0

theorem Within.dlEnd {x0 : State} {x1 : Nat} {x2 : Nat} (hx0 : Within m o x0)
    (hm : Sub 20483 m := by first | exact Sub.le (by assumption) ⟨rfl⟩ | exact ⟨rfl⟩) : Within m o (State.dlEnd x0 x1 x2) := by
  unfold State.dlEnd
  refine .ite ?_ ?_
  · exact hx0
  · extract_lets -merge +onlyGivenNames t0 t2 t4
    have h1 : Within m o (t0) := .fmPost (.freeRbuf hx0)
    have h3 : Within m o (t2) := .write32 (.setFe h1)
    have h5 : Within m o (t4) := .setFld h3
    clear_value t0 t2 t4
    exact .ite (.bump h5) (.bump h5)

theorem Within.feRelease {x0 : State} {x1 : Nat} (hx0 : Within m o x0)
    (hm : Sub 20483 m := by first | exact Sub.le (by assumption) ⟨rfl⟩ | exact ⟨rfl⟩) : Within m o (State.feRelease x0 x1) := by
  unfold State.feRelease
  extract_lets -merge +onlyGivenNames t0
  have h1 : Within m o (t0) := .dlEnd (.setFe (.setFe hx0))
  clear_value t0
  exact .ite (.setRec (.setRec h1)) h1

theorem Within.setDwell {x0 : State} {x1 : Nat} {x2 : Nat} {x3 : List Nat} (hx0 : Within m o x0)
    (hm : Sub 16384 m := by first | exact Sub.le (by assumption) ⟨rfl⟩ | exact ⟨rfl⟩) : Within m o (State.setDwell x0 x1 x2 x3) :=
  .ite (.setFld hx0) (.setFld hx0)

theorem Within.dwell {x0 : State} {x1 : Nat} {x2 : Bool} (hx0 : Within m o x0)
    (hm : Sub 16384 m := by first | exact Sub.le (by assumption) ⟨rfl⟩ | exact ⟨rfl⟩) : WithinOpt m o (State.dwell x0 x1 x2) := by
  unfold State.dwell
  extract_lets -merge +onlyGivenNames t0
  clear_value t0
  split
  · exact .none
  · split
    · exact .none
    · extract_lets -merge +onlyGivenNames t1 t2
      clear_value t1 t2
      refine .ite ?_ ?_
      · exact .none
      · exact .some (.setDwell hx0)

theorem Within.radioRejected {x0 : State} (hx0 : Within m o x0)
    (hm : Sub 17 m := by first | exact Sub.le (by assumption) ⟨rfl⟩ | exact ⟨rfl⟩) : Within m o (State.radioRejected x0) :=
  .raise (.bump hx0)

theorem Within.dwellRefused {x0 : State} (hx0 : Within m o x0)
    (hm : Sub 17 m := by first | exact Sub.le (by assumption) ⟨rfl⟩ | exact ⟨rfl⟩) : Within m o (State.dwellRefused x0) :=
  .raise (.bump hx0)

theorem Within.fieldSend {x0 : State} {x1 : List Byte} {x2 : Byte} {x3 : Nat} {x4 : Nat} (hx0 : Within m o x0)
    (hm : Sub 213 m := by first | exact Sub.le (by assumption) ⟨rfl⟩ | exact ⟨rfl⟩) : Within m o (State.fieldSend x0 x1 x2 x3 x4) := by
  unfold State.fieldSend
  extract_lets -merge +onlyGivenNames t0 t1 t2 t3
  have h4 : Within m o (t3) := .emit (.used (.used (.used hx0)))
  clear_value t0 t1 t2 t3
  exact .transmitVector (.macPort h4)

theorem Within.fieldMode {x0 : State} {x1 : Nat} (hx0 : Within m o x0)
    (hm : Sub 145 m := by first | exact Sub.le (by assumption) ⟨rfl⟩ | exact ⟨rfl⟩) : Within m o (State.fieldMode x0 x1) :=
  .smodeWrite hx0

theorem Within.fieldRecState {x0 : State} {x1 : Nat} {x2 : Nat} (hx0 : Within m o x0)
    (hm : Sub 3 m := by first | exact Sub.le (by assumption) ⟨rfl⟩ | exact ⟨rfl⟩) : Within m o (State.fieldRecState x0 x1 x2) :=
  .ite (.setRecState hx0) hx0

theorem Within.dlRetry {x0 : State} {x1 : Nat} (hx0 : Within m o x0)
    (hm : Sub 20483 m := by first | exact Sub.le (by assumption) ⟨rfl⟩ | exact ⟨rfl⟩) : Within m o (State.dlRetry x0 x1) :=
  .ite (.dlEnd hx0) hx0

theorem Within.fieldNext {x0 : State} {x1 : Nat} {x2 : Nat} (hx0 : Within m o x0)
    (hm : Sub 2 m := by first | exact Sub.le (by assumption) ⟨rfl⟩ | exact ⟨rfl⟩) : Within m o (State.fieldNext x0 x1 x2) := by
  unfold State.fieldNext
  refine .ite ?_ ?_
  · exact hx0
  · extract_lets -merge +onlyGivenNames t0 t1
    have h2 : Within m o (t1) := .ite (.predict (.setRecGt hx0)) hx0
    clear_value t0 t1
    exact .setRec h2

theorem Within.execFmacResultPop {x0 : Init} {x1 : State} (hx1 : Within m o x1)
    (hm : Sub 16437 m := by first | exact Sub.le (by assumption) ⟨rfl⟩ | exact ⟨rfl⟩) : WithinOut m o (execFmacResultPop x0 x1) := by
  unfold Sys2Proof.Machine.execFmacResultPop
  exact .next (.onRead hx1 (fun h0 => .fmPop h0))

theorem Within.execDwellBinRoll {x0 : Fin 8} {x1 : State} (hx1 : Within m o x1)
    (hm : Sub 16384 m := by first | exact Sub.le (by assumption) ⟨rfl⟩ | exact ⟨rfl⟩) : WithinOut m o (execDwellBinRoll x0 x1) := by
  unfold Sys2Proof.Machine.execDwellBinRoll
  extract_lets -merge +onlyGivenNames t0
  clear_value t0
  exact .next (.setFld hx1)

/-! FieldUp -/

theorem Within.ptabKeep {x0 : State} {x1 : Nat} (hx0 : Within m o x0)
    (hm : Sub 1 m := by first | exact Sub.le (by assumption) ⟨rfl⟩ | exact ⟨rfl⟩) : Within m o (State.ptabKeep x0 x1) := by
  unfold State.ptabKeep
  extract_lets -merge +onlyGivenNames t0
  have h1 : Within m o (t0) := .wf hx0
  clear_value t0
  exact .wb h1

theorem Within.ptabWrite {x0 : Nat} {x1 : Nat} {x2 : Nat} {x3 : Word} {x4 : State} (hx4 : Within m o x4)
    (hm : Sub 17 m := by first | exact Sub.le (by assumption) ⟨rfl⟩ | exact ⟨rfl⟩) : Within m o (State.ptabWrite x0 x1 x2 x3 x4) :=
  .ite (.refuse hx4) (.ite (.writeReg hx4) (.ptabKeep (.writeReg hx4)))

theorem Within.rrStep {x0 : State} {x1 : Nat} {x2 : Bool} (hx0 : Within m o x0)
    (hm : Sub 1 m := by first | exact Sub.le (by assumption) ⟨rfl⟩ | exact ⟨rfl⟩) : Within m o (State.rrStep x0 x1 x2) := by
  unfold State.rrStep
  extract_lets -merge +onlyGivenNames t0 t1
  clear_value t0 t1
  exact .ptabKeep (.wf hx0)

theorem Within.upEnter {x0 : State} {x1 : Nat} (hx0 : Within m o x0)
    (hm : Sub 1 m := by first | exact Sub.le (by assumption) ⟨rfl⟩ | exact ⟨rfl⟩) : Within m o (State.upEnter x0 x1) :=
  .wf hx0

theorem Within.upMiss {x0 : State} (hx0 : Within m o x0)
    (hm : Sub 16401 m := by first | exact Sub.le (by assumption) ⟨rfl⟩ | exact ⟨rfl⟩) : Within m o (State.upMiss x0) := by
  unfold State.upMiss
  extract_lets -merge +onlyGivenNames t0 t1 t2 t4 t6 t8
  have h3 : Within m o (t2) := .setFld hx0
  have h5 : Within m o (t4) := .raise (.bump h3)
  have h7 : Within m o (t6) := by
    unfold t6
    clear_value t0 t1
    split
    · exact .rrStep h5
    · exact h5
  have h9 : Within m o (t8) := .ite (.upEnter h7) h7
  clear_value t0 t1 t2 t4 t6 t8
  exact .ite (.raise (.bump (.upEnter h9))) h9

theorem Within.ptabKeepAll {x0 : State} (hx0 : Within m o x0)
    (hm : Sub 1 m := by first | exact Sub.le (by assumption) ⟨rfl⟩ | exact ⟨rfl⟩) : Within m o (State.ptabKeepAll x0) :=
  .foldl (fun h => .ptabKeep h) hx0

theorem Within.ptabFill {x0 : State} {x1 : Nat} {x2 : FieldBeacon} (hx0 : Within m o x0)
    (hm : Sub 1 m := by first | exact Sub.le (by assumption) ⟨rfl⟩ | exact ⟨rfl⟩) : Within m o (State.ptabFill x0 x1 x2) := by
  unfold State.ptabFill
  extract_lets -merge +onlyGivenNames t0 t2 t4
  have h1 : Within m o (t0) := .wf (.wf (.wb hx0))
  have h3 : Within m o (t2) := .wf (.wf (.wf h1))
  have h5 : Within m o (t4) := .wf (.wf h3)
  clear_value t0 t2 t4
  exact .ptabKeep (.wf (.wf h5))

theorem Within.ptabUpdate {x0 : State} {x1 : FieldBeacon} (hx0 : Within m o x0)
    (hm : Sub 1 m := by first | exact Sub.le (by assumption) ⟨rfl⟩ | exact ⟨rfl⟩) : Within m o (State.ptabUpdate x0 x1) := by
  unfold State.ptabUpdate
  split
  · exact .rrStep (.ptabFill hx0)
  · split
    · exact .ptabFill (.wf hx0)
    · split
      · exact hx0
      · exact .ite (.ptabFill (.wf hx0)) hx0

theorem Within.upHeard {x0 : State} {x1 : GTime} (hx0 : Within m o x0)
    (hm : Sub 16401 m := by first | exact Sub.le (by assumption) ⟨rfl⟩ | exact ⟨rfl⟩) : Within m o (State.upHeard x0 x1) := by
  unfold State.upHeard
  refine .ite ?_ ?_
  · exact hx0
  · extract_lets -merge +onlyGivenNames t0 t1
    have h2 : Within m o (t1) := .setFld hx0
    clear_value t0 t1
    exact .ite (.raise (.wb (.upEnter (.setFld h2)))) (.ite (.upEnter h2) h2)

theorem Within.upLearn {x0 : State} {x1 : GTime} (hx0 : Within m o x0)
    (hm : Sub 16385 m := by first | exact Sub.le (by assumption) ⟨rfl⟩ | exact ⟨rfl⟩) : Within m o (State.upLearn x0 x1) := by
  unfold State.upLearn
  extract_lets -merge +onlyGivenNames t0 t1 t2 t3 t4 t5 t7 t9 t10 t11 t12 t14
  have h6 : Within m o (t5).2 := by
    unfold t5
    clear_value t0 t1 t2 t3 t4
    split
    · exact .used hx0
    · exact hx0
  have h8 : Within m o (t7) := h6
  have h13 : Within m o (t12) := .wf (.wf h8)
  clear_value t0 t1 t2 t3 t4 t5 t7 t9 t10 t11 t12 t14
  exact .setFld h13

theorem Within.fieldBeacon {x0 : State} {x1 : FieldBeacon} {x2 : GTime} (hx0 : Within m o x0)
    (hm : Sub 4210713 m := by first | exact Sub.le (by assumption) ⟨rfl⟩ | exact ⟨rfl⟩) : Within m o (State.fieldBeacon x0 x1 x2) := by
  unfold State.fieldBeacon
  extract_lets -merge +onlyGivenNames t0 t1 t3
  have h2 : Within m o (t1) := .ite (.beaconSample hx0) hx0
  have h4 : Within m o (t3) := .ite (.ptabUpdate h2) h2
  clear_value t0 t1 t3
  refine .ite ?_ ?_
  · extract_lets -merge +onlyGivenNames t5
    have h6 : Within m o (t5) := .setFld h4
    clear_value t5
    refine .ite ?_ ?_
    · extract_lets -merge +onlyGivenNames t7 t9
      have h8 : Within m o (t7) := .setFld (.upHeard h6)
      clear_value t7 t9
      exact .nbrReport (.upLearn h8)
    · exact h6
  · exact h4

theorem Within.execPtabWrite {x0 : Init} {x1 : Fin 8} {x2 : Fin 4} {x3 : Word} {x4 : State} (hx4 : Within m o x4)
    (hm : Sub 53 m := by first | exact Sub.le (by assumption) ⟨rfl⟩ | exact ⟨rfl⟩) : WithinOut m o (execPtabWrite x0 x1 x2 x3 x4) := by
  unfold Sys2Proof.Machine.execPtabWrite
  exact .next (.onWrite hx4 (fun h0 => .ptabWrite h0))

theorem Within.longListen {x0 : State} (hx0 : Within m o x0)
    (hm : Sub 17 m := by first | exact Sub.le (by assumption) ⟨rfl⟩ | exact ⟨rfl⟩) : Within m o (State.longListen x0) :=
  .raise (.bump (.wb (.upEnter hx0)))

theorem Within.execLongListenRetry {x0 : State} (hx0 : Within m o x0)
    (hm : Sub 17 m := by first | exact Sub.le (by assumption) ⟨rfl⟩ | exact ⟨rfl⟩) : WithinOut m o (execLongListenRetry x0) := by
  unfold Sys2Proof.Machine.execLongListenRetry
  refine .ite ?_ ?_
  · exact .next (.longListen hx0)
  · exact .next hx0

theorem Within.execPtabAgeExpire {x0 : Fin 8} {x1 : State} (hx1 : Within m o x1)
    (hm : Sub 1 m := by first | exact Sub.le (by assumption) ⟨rfl⟩ | exact ⟨rfl⟩) : WithinOut m o (execPtabAgeExpire x0 x1) := by
  unfold Sys2Proof.Machine.execPtabAgeExpire
  refine .ite ?_ ?_
  · exact .next hx1
  · exact .next (.wb hx1)

theorem Within.execUpBeaconListenEnd {x0 : State} (hx0 : Within m o x0)
    (hm : Sub 16401 m := by first | exact Sub.le (by assumption) ⟨rfl⟩ | exact ⟨rfl⟩) : WithinOut m o (execUpBeaconListenEnd x0) := by
  unfold Sys2Proof.Machine.execUpBeaconListenEnd
  refine .ite ?_ ?_
  · exact .next hx0
  · refine .ite ?_ ?_
    · exact .next (.setFld hx0)
    · exact .next (.upMiss hx0)

theorem Within.execUpHoldEnd {x0 : State} (hx0 : Within m o x0)
    (hm : Sub 17 m := by first | exact Sub.le (by assumption) ⟨rfl⟩ | exact ⟨rfl⟩) : WithinOut m o (execUpHoldEnd x0) := by
  unfold Sys2Proof.Machine.execUpHoldEnd
  refine .ite ?_ ?_
  · exact .next (.longListen hx0)
  · exact .next hx0

theorem Within.execLongListenEnd {x0 : State} (hx0 : Within m o x0)
    (hm : Sub 17 m := by first | exact Sub.le (by assumption) ⟨rfl⟩ | exact ⟨rfl⟩) : WithinOut m o (execLongListenEnd x0) := by
  unfold Sys2Proof.Machine.execLongListenEnd
  refine .ite ?_ ?_
  · exact .next hx0
  · extract_lets -merge +onlyGivenNames t0
    have h1 : Within m o (t0) := .wb hx0
    clear_value t0
    split
    · extract_lets -merge +onlyGivenNames t2
      have h3 : Within m o (t2) := .wf (.wb h1)
      clear_value t2
      exact .next (.raise (.bump (.upEnter h3)))
    · exact .next (.raise (.upEnter h1))

theorem Within.execUpstreamPoll {x0 : GTime} {x1 : BitVec 8} {x2 : BitVec 7} {x3 : Option (List (BitVec 8))} {x4 : Bool} {x5 : State} (hx5 : Within m o x5)
    (hm : Sub 16597 m := by first | exact Sub.le (by assumption) ⟨rfl⟩ | exact ⟨rfl⟩) : WithinOut m o (execUpstreamPoll x0 x1 x2 x3 x4 x5) := by
  unfold Sys2Proof.Machine.execUpstreamPoll
  refine .ite ?_ ?_
  · exact .next hx5
  · extract_lets -merge +onlyGivenNames t0
    clear_value t0
    split
    · exact .next (.raise (.bump hx5))
    · extract_lets -merge +onlyGivenNames t1
      clear_value t1
      refine .ite ?_ ?_
      · exact .next (.radioRejected hx5)
      · split
        · exact .next (.dwellRefused hx5)
        · extract_lets -merge +onlyGivenNames t2 t3
          have h4 : Within m o (t3) := .setFld ((Within.dwell hx5) _ (by assumption))
          clear_value t2 t3
          exact .next (.fieldSend h4)

/-! StpPlan -/

theorem Within.givePlan {x0 : State} {x1 : Nat} {x2 : PlanSt} (hx0 : Within m o x0)
    (hm : Sub 8197 m := by first | exact Sub.le (by assumption) ⟨rfl⟩ | exact ⟨rfl⟩) : Within m o (State.givePlan x0 x1 x2) := by
  unfold State.givePlan
  extract_lets -merge +onlyGivenNames t0 t2 t4 t6
  have h1 : Within m o (t0) := .setStp hx0
  have h3 : Within m o (t2) := .foldl (fun h => .ite (.setStp h) h) h1
  have h5 : Within m o (t4) := .emit h3
  have h7 : Within m o (t6) := .used (.setRegN h5)
  clear_value t0 t2 t4 t6
  refine .ite ?_ ?_
  · exact h7
  · extract_lets -merge +onlyGivenNames t8
    have h9 : Within m o (t8) := .bump h7
    clear_value t8
    exact .ite (.bump h9) (.ite (.bump h9) (.bump h9))

theorem Within.freeRun {x0 : State} {x1 : Nat} {x2 : Nat} (hx0 : Within m o x0)
    (hm : Sub 4097 m := by first | exact Sub.le (by assumption) ⟨rfl⟩ | exact ⟨rfl⟩) : Within m o (State.freeRun x0 x1 x2) := by
  unfold State.freeRun
  split
  · exact hx0
  · exact .txGive (.setPkt hx0)

theorem Within.dropPlan {x0 : State} {x1 : Nat} (hx0 : Within m o x0)
    (hm : Sub 12289 m := by first | exact Sub.le (by assumption) ⟨rfl⟩ | exact ⟨rfl⟩) : Within m o (State.dropPlan x0 x1) := by
  unfold State.dropPlan
  split
  · exact hx0
  · extract_lets -merge +onlyGivenNames t0
    have h1 : Within m o (t0) := .setStp hx0
    clear_value t0
    exact .ite h1 (.freeRun h1)

theorem Within.ruEntries {x0 : State} {x1 : Nat} {x2 : Nat} {x3 : Nat} {x4 : Nat} {x5 : Bool} {x6 : List RuUse} (hx0 : Within m o x0)
    (hm : Sub 0 m := by first | exact Sub.le (by assumption) ⟨rfl⟩ | exact ⟨rfl⟩) : Within m o (State.ruEntries x0 x1 x2 x3 x4 x5 x6).1 := by
  induction x6 generalizing x0 x1 x2 x3 x4 x5 with
  | nil =>
    exact hx0
  | cons y l ih =>
    rw [State.ruEntries]
    exact ih (.used (.used hx0))

theorem Within.tablePlan {x0 : State} {x1 : Nat} {x2 : Nat} {x3 : Nat} {x4 : Nat} {x5 : Nat} {x6 : List RuUse} {x7 : Nat} (hx0 : Within m o x0)
    (hm : Sub 12295 m := by first | exact Sub.le (by assumption) ⟨rfl⟩ | exact ⟨rfl⟩) : Within m o (State.tablePlan x0 x1 x2 x3 x4 x5 x6 x7) := by
  unfold State.tablePlan
  extract_lets -merge +onlyGivenNames t0 t1
  clear_value t0 t1
  split
  · exact .givePlan hx0
  · extract_lets -merge +onlyGivenNames t2 t4 t5
    have h3 : Within m o (t2).1 := .ruEntries ((Within.takeRun hx0) _ (by assumption))
    have h6 : Within m o (t5) := .setWords (.used h3)
    clear_value t2 t4 t5
    exact .givePlan h6

theorem Within.plan {x0 : State} {x1 : Nat} {x2 : Nat} {x3 : Nat} {x4 : Nat} {x5 : Nat} (hx0 : Within m o x0)
    (hm : Sub 12295 m := by first | exact Sub.le (by assumption) ⟨rfl⟩ | exact ⟨rfl⟩) : Within m o (State.plan x0 x1 x2 x3 x4 x5) := by
  simp only [State.plan]
  split
  · exact .givePlan hx0
  · exact .ite (.ite (.tablePlan (.setStp hx0)) (.tablePlan hx0)) (.ite (.givePlan hx0) (.ite (.tablePlan hx0) (.tablePlan hx0)))

theorem Within.execSpDecisionStart {x0 : WRadio} {x1 : BitVec 12} {x2 : Fin 5} {x3 : BitVec 16} {x4 : Nat} {x5 : State} (hx5 : Within m o x5)
    (hm : Sub 12295 m := by first | exact Sub.le (by assumption) ⟨rfl⟩ | exact ⟨rfl⟩) : WithinOut m o (execSpDecisionStart x0 x1 x2 x3 x4 x5) := by
  unfold Sys2Proof.Machine.execSpDecisionStart
  extract_lets -merge +onlyGivenNames t0 t1
  clear_value t0 t1
  refine .ite ?_ ?_
  · exact .next hx5
  · extract_lets -merge +onlyGivenNames t2 t4
    have h3 : Within m o (t2) := .ite hx5 (.setRecState hx5)
    have h5 : Within m o (t4) := .keepLim h3
    clear_value t2 t4
    exact .next (.plan (.dropPlan h5))

theorem Within.execPlanDiscard {x0 : WRadio} {x1 : State} (hx1 : Within m o x1)
    (hm : Sub 12289 m := by first | exact Sub.le (by assumption) ⟨rfl⟩ | exact ⟨rfl⟩) : WithinOut m o (execPlanDiscard x0 x1) := by
  unfold Sys2Proof.Machine.execPlanDiscard
  exact .next (.dropPlan hx1)

theorem Within.execPlanRequest {x0 : WRadio} {x1 : Fin 4} {x2 : Fin 5} {x3 : BitVec 16} {x4 : Nat} {x5 : State} (hx5 : Within m o x5)
    (hm : Sub 12295 m := by first | exact Sub.le (by assumption) ⟨rfl⟩ | exact ⟨rfl⟩) : WithinOut m o (execPlanRequest x0 x1 x2 x3 x4 x5) := by
  unfold Sys2Proof.Machine.execPlanRequest
  refine .ite ?_ ?_
  · exact .next hx5
  · exact .next (.plan (.dropPlan hx5))

theorem Within.execDecisionOverrun {x0 : WRadio} {x1 : Fin 4} {x2 : Nat} {x3 : State} (hx3 : Within m o x3)
    (hm : Sub 12309 m := by first | exact Sub.le (by assumption) ⟨rfl⟩ | exact ⟨rfl⟩) : WithinOut m o (execDecisionOverrun x0 x1 x2 x3) := by
  unfold Sys2Proof.Machine.execDecisionOverrun
  refine .ite ?_ ?_
  · exact .next hx3
  · extract_lets -merge +onlyGivenNames t0 t1 t3
    have h2 : Within m o (t1) := .bump (.refuse (.dropPlan hx3))
    have h4 : Within m o (t3) := .emit h2
    clear_value t0 t1 t3
    split
    · exact .next h4
    · extract_lets -merge +onlyGivenNames t5
      clear_value t5
      exact .next (.setStp h4)

/-! Mac -/

theorem Within.macEnter {x0 : State} {x1 : WRadio} {x2 : Nat} (hx0 : Within m o x0)
    (hm : Sub 1 m := by first | exact Sub.le (by assumption) ⟨rfl⟩ | exact ⟨rfl⟩) : Within m o (State.macEnter x0 x1 x2) :=
  .wf hx0

theorem Within.setMac {x0 : State} {x1 : WRadio} {x2 : MacSt → MacSt} (hx0 : Within m o x0)
    (hm : Sub 2048 m := by first | exact Sub.le (by assumption) ⟨rfl⟩ | exact ⟨rfl⟩) : Within m o (State.setMac x0 x1 x2) :=
  .in_wlan hx0

theorem Within.setWlan {x0 : State} {x1 : WlanSt → WlanSt} (hx0 : Within m o x0)
    (hm : Sub 2048 m := by first | exact Sub.le (by assumption) ⟨rfl⟩ | exact ⟨rfl⟩) : Within m o (State.setWlan x0 x1) :=
  .in_wlan hx0

theorem Within.macPop {x0 : Init} {x1 : WRadio} {x2 : State} (hx2 : Within m o x2)
    (hm : Sub 2052 m := by first | exact Sub.le (by assumption) ⟨rfl⟩ | exact ⟨rfl⟩) : Within m o (State.macPop x0 x1 x2) := by
  unfold State.macPop
  split
  · exact .answer hx2
  · exact .answer (.setMac hx2)

theorem Within.tsfRead {x0 : Init} {x1 : WRadio} {x2 : State} (hx2 : Within m o x2)
    (hm : Sub 5 m := by first | exact Sub.le (by assumption) ⟨rfl⟩ | exact ⟨rfl⟩) : Within m o (State.tsfRead x0 x1 x2) := by
  unfold State.tsfRead
  extract_lets -merge +onlyGivenNames t0 t1 t3
  have h2 : Within m o (t1) := .setRegN (.setRegN hx2)
  have h4 : Within m o (t3) := .setReg64 h2
  clear_value t0 t1 t3
  exact .answer h4

theorem Within.macPush {x0 : WRadio} {x1 : Word} {x2 : State} (hx2 : Within m o x2)
    (hm : Sub 2065 m := by first | exact Sub.le (by assumption) ⟨rfl⟩ | exact ⟨rfl⟩) : Within m o (State.macPush x0 x1 x2) := by
  unfold State.macPush
  refine .ite ?_ ?_
  · exact hx2
  · extract_lets -merge +onlyGivenNames t0 t1
    clear_value t0 t1
    exact .ite (.setMac hx2) (.refuse hx2)

theorem Within.markReleased {x0 : State} {x1 : Nat} (hx0 : Within m o x0)
    (hm : Sub 512 m := by first | exact Sub.le (by assumption) ⟨rfl⟩ | exact ⟨rfl⟩) : Within m o (State.markReleased x0 x1) :=
  .in_rxmpdus hx0

theorem Within.rxRelease {x0 : State} {x1 : Nat} (hx0 : Within m o x0)
    (hm : Sub 2577 m := by first | exact Sub.le (by assumption) ⟨rfl⟩ | exact ⟨rfl⟩) : Within m o (State.rxRelease x0 x1) := by
  unfold State.rxRelease
  split
  · exact hx0
  · extract_lets -merge +onlyGivenNames t0
    clear_value t0
    exact .ite (.markReleased hx0) (.ite (.raise (.bump (.dropRx hx0))) (.markReleased (.setWlan hx0)))

theorem Within.releaseBelow {x0 : State} {x1 : Nat} {x2 : Nat} {x3 : Nat} {x4 : Nat} (hx0 : Within m o x0)
    (hm : Sub 2577 m := by first | exact Sub.le (by assumption) ⟨rfl⟩ | exact ⟨rfl⟩) : Within m o (State.releaseBelow x0 x1 x2 x3 x4) := by
  induction x4 generalizing x0 x1 x2 x3 with
  | zero =>
    exact hx0
  | succ n ih =>
    rw [State.releaseBelow]
    split
    · exact .rxRelease (ih hx0)
    · exact ih hx0

theorem Within.macDone {x0 : State} {x1 : WRadio} {x2 : List Word} {x3 : Nat} (hx0 : Within m o x0)
    (hm : Sub 2065 m := by first | exact Sub.le (by assumption) ⟨rfl⟩ | exact ⟨rfl⟩) : Within m o (State.macDone x0 x1 x2 x3) := by
  unfold State.macDone
  extract_lets -merge +onlyGivenNames t0 t2 t4
  have h1 : Within m o (t0) := .setMac hx0
  have h3 : Within m o (t2) := .ite (.setMac h1) (.bump h1)
  have h5 : Within m o (t4) := .ite (.bump h3) h3
  clear_value t0 t2 t4
  exact .ite h5 (.raise h5)

theorem Within.macRun {x0 : State} {x1 : WRadio} {x2 : Nat} {x3 : Nat} {x4 : Nat} {x5 : Nat} {x6 : State → List Word → State × Nat} (hx0 : Within m o x0) (hx6 : ∀ {y0} {y1}, Within m o y0 → Within m o (x6 y0 y1).1)
    (hm : Sub 2065 m := by first | exact Sub.le (by assumption) ⟨rfl⟩ | exact ⟨rfl⟩) : Within m o (State.macRun x0 x1 x2 x3 x4 x5 x6) := by
  unfold State.macRun
  split
  · exact hx0
  · extract_lets -merge +onlyGivenNames t0 t1
    clear_value t0 t1
    refine .ite ?_ ?_
    · exact hx0
    · refine .ite ?_ ?_
      · exact .macDone hx0
      · refine .ite ?_ ?_
        · exact .macDone hx0
        · refine .ite ?_ ?_
          · exact .macDone hx0
          · extract_lets -merge +onlyGivenNames t2
            have h3 : Within m o (t2).1 := hx6 hx0
            clear_value t2
            exact .macDone h3

theorem Within.afterStop {x0 : State} {x1 : WRadio} (hx0 : Within m o x0)
    (hm : Sub 1 m := by first | exact Sub.le (by assumption) ⟨rfl⟩ | exact ⟨rfl⟩) : Within m o (State.afterStop x0 x1) :=
  .ite hx0 (.macEnter hx0)

theorem Within.flushHeld {x0 : State} {x1 : Nat} {x2 : Nat} (hx0 : Within m o x0)
    (hm : Sub 2577 m := by first | exact Sub.le (by assumption) ⟨rfl⟩ | exact ⟨rfl⟩) : Within m o (State.flushHeld x0 x1 x2) := by
  unfold State.flushHeld
  split
  · exact .releaseBelow hx0
  · exact hx0

theorem Within.dropBas {x0 : State} {x1 : Nat} (hx0 : Within m o x0)
    (hm : Sub 2577 m := by first | exact Sub.le (by assumption) ⟨rfl⟩ | exact ⟨rfl⟩) : Within m o (State.dropBas x0 x1) := by
  unfold State.dropBas
  extract_lets -merge +onlyGivenNames t0
  have h1 : Within m o (t0) := .foldl (fun h => .flushHeld h) hx0
  clear_value t0
  exact .setWlan h1

theorem Within.keepMesh {x0 : State} {x1 : WRadio} (hx0 : Within m o x0)
    (hm : Sub 1 m := by first | exact Sub.le (by assumption) ⟨rfl⟩ | exact ⟨rfl⟩) : Within m o (State.keepMesh x0 x1) :=
  .wf hx0

theorem Within.linkDrop {x0 : State} {x1 : WRadio} {x2 : Nat} (hx0 : Within m o x0)
    (hm : Sub 2577 m := by first | exact Sub.le (by assumption) ⟨rfl⟩ | exact ⟨rfl⟩) : Within m o (State.linkDrop x0 x1 x2) := by
  unfold State.linkDrop
  extract_lets -merge +onlyGivenNames t0 t2
  have h1 : Within m o (t0) := .setWlan hx0
  have h3 : Within m o (t2) := .ite h1 (.dropBas h1)
  clear_value t0 t2
  exact .keepMesh h3

theorem Within.linksDrop {x0 : State} {x1 : WRadio} {x2 : Nat} (hx0 : Within m o x0)
    (hm : Sub 2577 m := by first | exact Sub.le (by assumption) ⟨rfl⟩ | exact ⟨rfl⟩) : Within m o (State.linksDrop x0 x1 x2) :=
  .foldl (fun h => .linkDrop h) hx0

theorem Within.execBssStop {x0 : WRadio} {x1 : State} (hx1 : Within m o x1)
    (hm : Sub 2577 m := by first | exact Sub.le (by assumption) ⟨rfl⟩ | exact ⟨rfl⟩) : WithinOut m o (execBssStop x0 x1) := by
  unfold Sys2Proof.Machine.execBssStop
  exact .next (.macRun hx1 (fun h0 => by
    extract_lets -merge +onlyGivenNames t1
    clear_value t1
    refine .iteP ?_ ?_
    · exact h0
    · extract_lets -merge +onlyGivenNames t2 t4
      have h3 : Within m o (t2) := .wf h0
      have h5 : Within m o (t4) := .setMac h3
      clear_value t2 t4
      exact .afterStop (.linksDrop h5)))

theorem Within.execBaAdd {x0 : WRadio} {x1 : State} (hx1 : Within m o x1)
    (hm : Sub 2065 m := by first | exact Sub.le (by assumption) ⟨rfl⟩ | exact ⟨rfl⟩) : WithinOut m o (execBaAdd x0 x1) := by
  unfold Sys2Proof.Machine.execBaAdd
  exact .next (.macRun hx1 (fun h0 => by
    extract_lets -merge +onlyGivenNames t1 t2 t3
    clear_value t1 t2 t3
    refine .iteP ?_ ?_
    · exact h0
    · refine .iteP ?_ ?_
      · exact h0
      · extract_lets -merge +onlyGivenNames t4 t6 t7
        have h5 : Within m o (t4) := .setWlan h0
        clear_value t4 t6 t7
        exact .ite h5 (.setWlan h5)))

theorem Within.execMacResultPop {x0 : Init} {x1 : WRadio} {x2 : State} (hx2 : Within m o x2)
    (hm : Sub 2101 m := by first | exact Sub.le (by assumption) ⟨rfl⟩ | exact ⟨rfl⟩) : WithinOut m o (execMacResultPop x0 x1 x2) := by
  unfold Sys2Proof.Machine.execMacResultPop
  exact .next (.onRead hx2 (fun h0 => .macPop h0))

theorem Within.execMacCmdPush {x0 : Init} {x1 : WRadio} {x2 : Word} {x3 : State} (hx3 : Within m o x3)
    (hm : Sub 2101 m := by first | exact Sub.le (by assumption) ⟨rfl⟩ | exact ⟨rfl⟩) : WithinOut m o (execMacCmdPush x0 x1 x2 x3) := by
  unfold Sys2Proof.Machine.execMacCmdPush
  exact .next (.onWrite hx3 (fun h0 => .macPush h0))

theorem Within.execBssStart {x0 : WRadio} {x1 : State} (hx1 : Within m o x1)
    (hm : Sub 2065 m := by first | exact Sub.le (by assumption) ⟨rfl⟩ | exact ⟨rfl⟩) : WithinOut m o (execBssStart x0 x1) := by
  unfold Sys2Proof.Machine.execBssStart
  exact .next (.macRun hx1 (fun h0 => by
    refine .iteP ?_ ?_
    · exact h0
    · exact .macEnter (.wf h0)))

theorem Within.execTwtSlipCheck {x0 : WRadio} {x1 : BitVec 12} {x2 : Fin 8} {x3 : State} (hx3 : Within m o x3)
    (hm : Sub 2069 m := by first | exact Sub.le (by assumption) ⟨rfl⟩ | exact ⟨rfl⟩) : WithinOut m o (execTwtSlipCheck x0 x1 x2 x3) := by
  unfold Sys2Proof.Machine.execTwtSlipCheck
  extract_lets -merge +onlyGivenNames t0
  clear_value t0
  split
  · exact .next hx3
  · extract_lets -merge +onlyGivenNames t1 t2 t3
    have h5 : ∀ {y0} {y1} {y2}, Within m o y0 → Within m o (t3 y0 y1 y2) := fun h4 => .setWlan h4
    clear_value t1 t2 t3
    refine .ite ?_ ?_
    · extract_lets -merge +onlyGivenNames t6 t7
      have h8 : Within m o (t7) := .emit hx3
      clear_value t6 t7
      exact .next (.raise (.bump (h5 h8)))
    · exact .next (h5 hx3)

theorem Within.execTsfRead {x0 : Init} {x1 : WRadio} {x2 : State} (hx2 : Within m o x2)
    (hm : Sub 53 m := by first | exact Sub.le (by assumption) ⟨rfl⟩ | exact ⟨rfl⟩) : WithinOut m o (execTsfRead x0 x1 x2) := by
  unfold Sys2Proof.Machine.execTsfRead
  exact .next (.onRead hx2 (fun h0 => .tsfRead h0))

theorem Within.execLinkAdd {x0 : WRadio} {x1 : State} (hx1 : Within m o x1)
    (hm : Sub 2065 m := by first | exact Sub.le (by assumption) ⟨rfl⟩ | exact ⟨rfl⟩) : WithinOut m o (execLinkAdd x0 x1) := by
  unfold Sys2Proof.Machine.execLinkAdd
  exact .next (.macRun hx1 (fun h0 => by
    extract_lets -merge +onlyGivenNames t1 t2 t3
    clear_value t1 t2 t3
    refine .iteP ?_ ?_
    · exact h0
    · refine .iteP ?_ ?_
      · exact h0
      · refine .iteP ?_ ?_
        · exact h0
        · exact .keepMesh (.setWlan h0)))

theorem Within.execLinkDel {x0 : WRadio} {x1 : State} (hx1 : Within m o x1)
    (hm : Sub 2577 m := by first | exact Sub.le (by assumption) ⟨rfl⟩ | exact ⟨rfl⟩) : WithinOut m o (execLinkDel x0 x1) := by
  unfold Sys2Proof.Machine.execLinkDel
  exact .next (.macRun hx1 (fun h0 => by
    split
    · exact h0
    · refine .iteP ?_ ?_
      · exact h0
      · exact .linkDrop h0))

theorem Within.execBaDel {x0 : WRadio} {x1 : State} (hx1 : Within m o x1)
    (hm : Sub 2577 m := by first | exact Sub.le (by assumption) ⟨rfl⟩ | exact ⟨rfl⟩) : WithinOut m o (execBaDel x0 x1) := by
  unfold Sys2Proof.Machine.execBaDel
  exact .next (.macRun hx1 (fun h0 => by
    extract_lets -merge +onlyGivenNames t1 t2 t3
    clear_value t1 t2 t3
    refine .iteP ?_ ?_
    · exact h0
    · extract_lets -merge +onlyGivenNames t4
      have h5 : Within m o (t4) := .setWlan h0
      clear_value t4
      refine .iteP ?_ ?_
      · exact h5
      · exact .setWlan (.flushHeld h5)))

theorem Within.execTwtSet {x0 : WRadio} {x1 : State} (hx1 : Within m o x1)
    (hm : Sub 2065 m := by first | exact Sub.le (by assumption) ⟨rfl⟩ | exact ⟨rfl⟩) : WithinOut m o (execTwtSet x0 x1) := by
  unfold Sys2Proof.Machine.execTwtSet
  exact .next (.macRun hx1 (fun h0 => by
    extract_lets -merge +onlyGivenNames t1 t2 t3
    clear_value t1 t2 t3
    refine .iteP ?_ ?_
    · exact h0
    · refine .iteP ?_ ?_
      · exact h0
      · extract_lets -merge +onlyGivenNames t4
        clear_value t4
        exact .setWlan h0))

theorem Within.execTwtDel {x0 : WRadio} {x1 : State} (hx1 : Within m o x1)
    (hm : Sub 2065 m := by first | exact Sub.le (by assumption) ⟨rfl⟩ | exact ⟨rfl⟩) : WithinOut m o (execTwtDel x0 x1) := by
  unfold Sys2Proof.Machine.execTwtDel
  exact .next (.macRun hx1 (fun h0 => by
    extract_lets -merge +onlyGivenNames t1
    clear_value t1
    refine .iteP ?_ ?_
    · exact h0
    · exact .setWlan h0))

theorem Within.execMeshStart {x0 : WRadio} {x1 : State} (hx1 : Within m o x1)
    (hm : Sub 2065 m := by first | exact Sub.le (by assumption) ⟨rfl⟩ | exact ⟨rfl⟩) : WithinOut m o (execMeshStart x0 x1) := by
  unfold Sys2Proof.Machine.execMeshStart
  exact .next (.macRun hx1 (fun h0 => by
    refine .iteP ?_ ?_
    · exact h0
    · exact .macEnter (.setMac h0)))

theorem Within.execMeshStop {x0 : WRadio} {x1 : State} (hx1 : Within m o x1)
    (hm : Sub 2577 m := by first | exact Sub.le (by assumption) ⟨rfl⟩ | exact ⟨rfl⟩) : WithinOut m o (execMeshStop x0 x1) := by
  unfold Sys2Proof.Machine.execMeshStop
  exact .next (.macRun hx1 (fun h0 => by
    refine .iteP ?_ ?_
    · exact h0
    · exact .afterStop (.linksDrop (.setMac h0))))

theorem Within.execMacDrainDone {x0 : WRadio} {x1 : State} (hx1 : Within m o x1)
    (hm : Sub 1 m := by first | exact Sub.le (by assumption) ⟨rfl⟩ | exact ⟨rfl⟩) : WithinOut m o (execMacDrainDone x0 x1) := by
  unfold Sys2Proof.Machine.execMacDrainDone
  refine .ite ?_ ?_
  · exact .next (.macEnter hx1)
  · exact .next hx1

theorem Within.execMacDropAlarm {x0 : WRadio} {x1 : Nat} {x2 : State} (hx2 : Within m o x2)
    (hm : Sub 17 m := by first | exact Sub.le (by assumption) ⟨rfl⟩ | exact ⟨rfl⟩) : WithinOut m o (execMacDropAlarm x0 x1 x2) := by
  unfold Sys2Proof.Machine.execMacDropAlarm
  refine .ite ?_ ?_
  · exact .next (.raise hx2)
  · exact .next hx2

end Sys2Proof.Machine
end

