-- ==== Sys2Proof/Laws/Within7.lean ====
section
/-! SUPPORT. Which parts of the state every operation touches (`Within`), one lemma for each: Field, FieldCmd, MacAir. -/

namespace Sys2Proof.Machine

set_option Elab.async false
set_option linter.unusedVariables false

variable {m : Nat} {o : State}

/-! Field -/

theorem Within.schedArm {x0 : Nat} {x1 : Word} {x2 : State} (hx2 : Within m o x2)
    (hm : Sub 17 m := by first | exact Sub.le (by assumption) ⟨rfl⟩ | exact ⟨rfl⟩) : Within m o (State.schedArm x0 x1 x2) :=
  .ite (.refuse hx2) (.wb (.writeReg hx2))

theorem Within.holdStep {x0 : State} {x1 : Nat} (hx0 : Within m o x0)
    (hm : Sub 20499 m := by first | exact Sub.le (by assumption) ⟨rfl⟩ | exact ⟨rfl⟩) : Within m o (State.holdStep x0 x1) := by
  unfold State.holdStep
  refine .ite ?_ ?_
  · exact hx0
  · extract_lets -merge +onlyGivenNames t0 t1
    have h2 : Within m o (t1) := .setFe hx0
    clear_value t0 t1
    exact .ite (.raise (.bump (.feRelease h2))) h2

theorem Within.beaconSkip {x0 : State} (hx0 : Within m o x0)
    (hm : Sub 17 m := by first | exact Sub.le (by assumption) ⟨rfl⟩ | exact ⟨rfl⟩) : Within m o (State.beaconSkip x0) :=
  .raise (.bump hx0)

theorem Within.beaconGo {x0 : State} (hx0 : Within m o x0)
    (hm : Sub 16597 m := by first | exact Sub.le (by assumption) ⟨rfl⟩ | exact ⟨rfl⟩) : Within m o (State.beaconGo x0) := by
  unfold State.beaconGo
  extract_lets -merge +onlyGivenNames t0 t1
  clear_value t0 t1
  split
  · exact .beaconSkip hx0
  · extract_lets -merge +onlyGivenNames t2
    clear_value t2
    refine .ite ?_ ?_
    · exact .beaconSkip (.radioRejected hx0)
    · split
      · exact .beaconSkip (.dwellRefused hx0)
      · extract_lets -merge +onlyGivenNames t3 t4
        have h5 : Within m o (t4) := .bump (.setFld ((Within.dwell hx0) _ (by assumption)))
        clear_value t3 t4
        exact .fieldSend (.fieldMode h5)

theorem Within.exchangeOver {x0 : State} {x1 : Option Nat} (hx0 : Within m o x0)
    (hm : Sub 3 m := by first | exact Sub.le (by assumption) ⟨rfl⟩ | exact ⟨rfl⟩) : Within m o (State.exchangeOver x0 x1) := by
  unfold State.exchangeOver
  split
  · exact hx0
  · exact .ite (.fieldRecState hx0) hx0

theorem Within.fieldDrop {x0 : State} (hx0 : Within m o x0)
    (hm : Sub 4097 m := by first | exact Sub.le (by assumption) ⟨rfl⟩ | exact ⟨rfl⟩) : Within m o (State.fieldDrop x0) :=
  .unreserve hx0

theorem Within.fieldBad {x0 : State} {x1 : Nat} (hx0 : Within m o x0)
    (hm : Sub 4113 m := by first | exact Sub.le (by assumption) ⟨rfl⟩ | exact ⟨rfl⟩) : Within m o (State.fieldBad x0 x1) :=
  .raise (.bump (.fieldDrop hx0))

theorem Within.fromBeacon {x0 : State} {x1 : FieldRx} (hx0 : Within m o x0)
    (hm : Sub 4214809 m := by first | exact Sub.le (by assumption) ⟨rfl⟩ | exact ⟨rfl⟩) : Within m o (State.fromBeacon x0 x1) := by
  unfold State.fromBeacon
  extract_lets -merge +onlyGivenNames t0 t1 t2 t3 t4
  clear_value t0 t1 t2 t3 t4
  refine .ite ?_ ?_
  · exact .fieldDrop hx0
  · refine .ite ?_ ?_
    · exact .fieldBad hx0
    · split
      · exact .fieldBad hx0
      · extract_lets -merge +onlyGivenNames t5
        clear_value t5
        exact .fieldBeacon (.fieldDrop hx0)

theorem Within.childHeard {x0 : State} {x1 : Nat} {x2 : FieldRx} (hx0 : Within m o x0)
    (hm : Sub 19 m := by first | exact Sub.le (by assumption) ⟨rfl⟩ | exact ⟨rfl⟩) : Within m o (State.childHeard x0 x1 x2) := by
  unfold State.childHeard
  extract_lets -merge +onlyGivenNames t0 t1 t3 t5
  have h2 : Within m o (t1) := .setFe (.setFe (.setFe hx0))
  have h4 : Within m o (t3) := .ite (.setRec (.setRec (.setRecGt h2))) h2
  have h6 : Within m o (t5) := .ite (.fieldRecState h4) h4
  clear_value t0 t1 t3 t5
  refine .ite ?_ ?_
  · extract_lets -merge +onlyGivenNames t7 t9
    have h8 : Within m o (t7) := .fieldRecState h6
    have h10 : Within m o (t9) := .ite (.setRec h8) h8
    clear_value t7 t9
    exact .raise (.bump h10)
  · exact h6

theorem Within.moveOffset {x0 : State} {x1 : Nat} {x2 : Int} (hx0 : Within m o x0)
    (hm : Sub 2 m := by first | exact Sub.le (by assumption) ⟨rfl⟩ | exact ⟨rfl⟩) : Within m o (State.moveOffset x0 x1 x2) := by
  unfold State.moveOffset
  refine .ite ?_ ?_
  · extract_lets -merge +onlyGivenNames t0 t1
    have h2 : Within m o (t1) := .setRec hx0
    clear_value t0 t1
    exact .setRec h2
  · exact hx0

theorem Within.tcSettle {x0 : State} {x1 : Nat} {x2 : Nat} {x3 : List Byte} (hx0 : Within m o x0)
    (hm : Sub 2 m := by first | exact Sub.le (by assumption) ⟨rfl⟩ | exact ⟨rfl⟩) : Within m o (State.tcSettle x0 x1 x2 x3) := by
  unfold State.tcSettle
  refine .ite ?_ ?_
  · extract_lets -merge +onlyGivenNames t0
    have h1 : Within m o (t0) := .ite hx0 (.moveOffset hx0)
    clear_value t0
    exact .setFe h1
  · exact hx0

theorem Within.pollHit {x0 : State} {x1 : FieldOwner} {x2 : Nat} {x3 : GTime} (hx0 : Within m o x0)
    (hm : Sub 16403 m := by first | exact Sub.le (by assumption) ⟨rfl⟩ | exact ⟨rfl⟩) : Within m o (State.pollHit x0 x1 x2 x3) := by
  unfold State.pollHit
  extract_lets -merge +onlyGivenNames t0 t1 t3
  have h2 : Within m o (t1) := .setFld (.bump hx0)
  have h4 : Within m o (t3) := .ite (.driftLearn (.setRecGt h2)) h2
  clear_value t0 t1 t3
  exact .fieldNext (.fieldRecState h4)

theorem Within.childFrame {x0 : State} {x1 : Nat} {x2 : Nat} {x3 : Bool} {x4 : Byte} {x5 : List Byte} {x6 : FieldRx} {x7 : Bool} (hx0 : Within m o x0)
    (hm : Sub 20499 m := by first | exact Sub.le (by assumption) ⟨rfl⟩ | exact ⟨rfl⟩) : Within m o (State.childFrame x0 x1 x2 x3 x4 x5 x6 x7) := by
  unfold State.childFrame
  extract_lets -merge +onlyGivenNames t0 t2 t3 t4 t5 t6 t8
  have h1 : Within m o (t0) := .dlRetry hx0
  have h7 : Within m o (t6) := .ite h1 (.childHeard (.tcSettle h1))
  clear_value t0 t2 t3 t4 t5 t6 t8
  refine .ite ?_ ?_
  · extract_lets -merge +onlyGivenNames t9 t11
    have h10 : Within m o (t9) := .ite h7 (.bump h7)
    clear_value t9 t11
    exact .ite (.setFld h10) h10
  · split
    · exact h7
    · refine .ite ?_ ?_
      · exact h7
      · extract_lets -merge +onlyGivenNames t12 t13 t14
        have h15 : Within m o (t14) := .ite h7 (.pollHit h7)
        clear_value t12 t13 t14
        exact .ite (.setFld h15) h15

theorem Within.execPassRegionStart {x0 : State} (hx0 : Within m o x0)
    (hm : Sub 209 m := by first | exact Sub.le (by assumption) ⟨rfl⟩ | exact ⟨rfl⟩) : WithinOut m o (execPassRegionStart x0) := by
  unfold Sys2Proof.Machine.execPassRegionStart
  refine .ite ?_ ?_
  · exact .next hx0
  · refine .ite ?_ ?_
    · exact .next (.radioRejected hx0)
    · exact .next (.macPort (.fieldMode hx0))

theorem Within.tcPost {x0 : State} {x1 : Nat} {x2 : Int} (hx0 : Within m o x0)
    (hm : Sub 2 m := by first | exact Sub.le (by assumption) ⟨rfl⟩ | exact ⟨rfl⟩) : Within m o (State.tcPost x0 x1 x2) := by
  unfold State.tcPost
  extract_lets -merge +onlyGivenNames t0
  have h1 : Within m o (t0) := .setFe hx0
  clear_value t0
  exact .ite (.setFe (.moveOffset h1)) h1

theorem Within.sendAck {x0 : State} {x1 : FieldResp} {x2 : Nat} (hx0 : Within m o x0)
    (hm : Sub 16599 m := by first | exact Sub.le (by assumption) ⟨rfl⟩ | exact ⟨rfl⟩) : Within m o (State.sendAck x0 x1 x2) := by
  unfold State.sendAck
  extract_lets -merge +onlyGivenNames t0 t1 t2
  clear_value t0 t1 t2
  split
  · exact .dwellRefused hx0
  · extract_lets -merge +onlyGivenNames t3
    have h4 : Within m o (t3) := by
      unfold t3
      split
      · exact .ite (.tcPost ((Within.dwell hx0) _ (by assumption))) ((Within.dwell hx0) _ (by assumption))
      · exact (Within.dwell hx0) _ (by assumption)
    clear_value t3
    exact .fieldSend h4

theorem Within.fieldRespond {x0 : State} {x1 : FieldResp} (hx0 : Within m o x0)
    (hm : Sub 16599 m := by first | exact Sub.le (by assumption) ⟨rfl⟩ | exact ⟨rfl⟩) : Within m o (State.fieldRespond x0 x1) := by
  unfold State.fieldRespond
  extract_lets -merge +onlyGivenNames t0
  clear_value t0
  split
  · exact .sendAck hx0
  · extract_lets -merge +onlyGivenNames t1
    clear_value t1
    refine .ite ?_ ?_
    · exact .sendAck hx0
    · extract_lets -merge +onlyGivenNames t2 t3 t4 t5 t6
      clear_value t2 t3 t4 t5 t6
      refine .ite ?_ ?_
      · exact .sendAck hx0
      · split
        · exact .sendAck (.dwellRefused hx0)
        · extract_lets -merge +onlyGivenNames t7 t9 t11
          have h8 : Within m o (t7) := .ite (.tcPost ((Within.dwell hx0) _ (by assumption))) ((Within.dwell hx0) _ (by assumption))
          have h10 : Within m o (t9) := .setFe h8
          have h12 : Within m o (t11) := .setFld h10
          clear_value t7 t9 t11
          exact .fieldSend h12

theorem Within.execFieldResponse {x0 : State} (hx0 : Within m o x0)
    (hm : Sub 16599 m := by first | exact Sub.le (by assumption) ⟨rfl⟩ | exact ⟨rfl⟩) : WithinOut m o (execFieldResponse x0) := by
  unfold Sys2Proof.Machine.execFieldResponse
  split
  · exact .next hx0
  · extract_lets -merge +onlyGivenNames t0
    have h1 : Within m o (t0) := .setFld hx0
    clear_value t0
    refine .ite ?_ ?_
    · exact .next (.exchangeOver (.radioRejected h1))
    · exact .next (.exchangeOver (.fieldRespond h1))

theorem Within.execOwnerMapBuild {x0 : State} (hx0 : Within m o x0)
    (hm : Sub 16384 m := by first | exact Sub.le (by assumption) ⟨rfl⟩ | exact ⟨rfl⟩) : WithinOut m o (execOwnerMapBuild x0) := by
  unfold Sys2Proof.Machine.execOwnerMapBuild
  extract_lets -merge +onlyGivenNames t0 t1 t2
  clear_value t0 t1 t2
  exact .next (.setFld hx0)

theorem Within.execValleyStart {x0 : State} (hx0 : Within m o x0)
    (hm : Sub 16465 m := by first | exact Sub.le (by assumption) ⟨rfl⟩ | exact ⟨rfl⟩) : WithinOut m o (execValleyStart x0) := by
  unfold Sys2Proof.Machine.execValleyStart
  refine .ite ?_ ?_
  · exact .next (.macPort (.setFld hx0))
  · exact .next hx0

theorem Within.childAbsent {x0 : State} {x1 : Nat} (hx0 : Within m o x0)
    (hm : Sub 19 m := by first | exact Sub.le (by assumption) ⟨rfl⟩ | exact ⟨rfl⟩) : Within m o (State.childAbsent x0 x1) := by
  unfold State.childAbsent
  extract_lets -merge +onlyGivenNames t0
  have h1 : Within m o (t0) := .setFe (.setFe hx0)
  clear_value t0
  exact .raise (.bump (.fieldRecState h1))

theorem Within.execSuperframeStart {x0 : State} (hx0 : Within m o x0)
    (hm : Sub 20499 m := by first | exact Sub.le (by assumption) ⟨rfl⟩ | exact ⟨rfl⟩) : WithinOut m o (execSuperframeStart x0) := by
  unfold Sys2Proof.Machine.execSuperframeStart
  refine .ite ?_ ?_
  · exact .next hx0
  · extract_lets -merge +onlyGivenNames t0 t2
    have h1 : Within m o (t0) := .setFld hx0
    have h3 : Within m o (t2) := .ite (.setFld (.wb h1)) h1
    clear_value t0 t2
    exact .next (.foldl (fun h => .holdStep h) h3)

theorem Within.execScheduleArm {x0 : Init} {x1 : Word} {x2 : State} (hx2 : Within m o x2)
    (hm : Sub 53 m := by first | exact Sub.le (by assumption) ⟨rfl⟩ | exact ⟨rfl⟩) : WithinOut m o (execScheduleArm x0 x1 x2) := by
  unfold Sys2Proof.Machine.execScheduleArm
  exact .next (.onWrite hx2 (fun h0 => .schedArm h0))

theorem Within.execScheduleApply {x0 : State} (hx0 : Within m o x0)
    (hm : Sub 17 m := by first | exact Sub.le (by assumption) ⟨rfl⟩ | exact ⟨rfl⟩) : WithinOut m o (execScheduleApply x0) := by
  unfold Sys2Proof.Machine.execScheduleApply
  refine .ite ?_ ?_
  · exact .next hx0
  · extract_lets -merge +onlyGivenNames t0 t2
    have h1 : Within m o (t0) := .setReg (.setReg hx0)
    have h3 : Within m o (t2) := .setReg (.setReg h1)
    clear_value t0 t2
    exact .next (.raise (.wb h3))

theorem Within.execFieldBeaconCommit {x0 : State} (hx0 : Within m o x0)
    (hm : Sub 16597 m := by first | exact Sub.le (by assumption) ⟨rfl⟩ | exact ⟨rfl⟩) : WithinOut m o (execFieldBeaconCommit x0) := by
  unfold Sys2Proof.Machine.execFieldBeaconCommit
  refine .ite ?_ ?_
  · exact .next hx0
  · refine .ite ?_ ?_
    · exact .next (.beaconSkip hx0)
    · exact .next (.beaconGo hx0)

theorem Within.fieldAck {x0 : State} {x1 : FieldRx} (hx0 : Within m o x0)
    (hm : Sub 20499 m := by first | exact Sub.le (by assumption) ⟨rfl⟩ | exact ⟨rfl⟩) : Within m o (State.fieldAck x0 x1) := by
  unfold State.fieldAck
  extract_lets -merge +onlyGivenNames t0 t1
  clear_value t0 t1
  split
  · exact .ite (.setFld (.dlEnd (.fieldDrop hx0))) (.fieldDrop hx0)
  · refine .ite ?_ ?_
    · extract_lets -merge +onlyGivenNames t2
      have h3 : Within m o (t2) := .ite (.wf hx0) hx0
      clear_value t2
      exact .setFld (.upHeard (.fieldDrop h3))
    · exact .fieldDrop hx0

theorem Within.fieldStore {x0 : State} {x1 : List Byte} {x2 : GTime} (hx0 : Within m o x0)
    (hm : Sub 4099 m := by first | exact Sub.le (by assumption) ⟨rfl⟩ | exact ⟨rfl⟩) : WithinOpt m o (State.fieldStore x0 x1 x2) := by
  unfold State.fieldStore
  refine .ite ?_ ?_
  · exact .none
  · split
    · exact .none
    · extract_lets -merge +onlyGivenNames t0
      have h1 : Within m o (t0) := .setWords ((Within.takeRun (.unreserve hx0)) _ (by assumption))
      clear_value t0
      exact .some (.setBytes (.used h1))

theorem Within.fromParent {x0 : State} {x1 : FieldRx} (hx0 : Within m o x0)
    (hm : Sub 20499 m := by first | exact Sub.le (by assumption) ⟨rfl⟩ | exact ⟨rfl⟩) : Within m o (State.fromParent x0 x1) := by
  unfold State.fromParent
  extract_lets -merge +onlyGivenNames t0 t1
  clear_value t0 t1
  split
  · exact .fieldBad hx0
  · split
    · exact .bump (.fieldDrop hx0)
    · extract_lets -merge +onlyGivenNames t2 t4
      have h3 : Within m o (t2) := .ite (.wf ((Within.fieldStore hx0) _ (by assumption))) ((Within.fieldStore hx0) _ (by assumption))
      have h5 : Within m o (t4) := .setFld (.upHeard h3)
      clear_value t2 t4
      exact .ite (.setFld h5) h5

theorem Within.fromChild {x0 : State} {x1 : FieldOwner} {x2 : FieldRx} (hx0 : Within m o x0)
    (hm : Sub 20499 m := by first | exact Sub.le (by assumption) ⟨rfl⟩ | exact ⟨rfl⟩) : Within m o (State.fromChild x0 x1 x2) := by
  unfold State.fromChild
  extract_lets -merge +onlyGivenNames t0 t1
  clear_value t0 t1
  split
  · exact .fieldBad hx0
  · extract_lets -merge +onlyGivenNames t2 t3 t4
    clear_value t2 t3 t4
    refine .ite ?_ ?_
    · exact .fieldBad hx0
    · refine .ite ?_ ?_
      · exact .childFrame (.bump (.fieldDrop hx0))
      · split
        · exact .bump (.fieldDrop hx0)
        · exact .childFrame (.write32 ((Within.fieldStore hx0) _ (by assumption)))

theorem Within.fromJoiner {x0 : State} {x1 : FieldRx} (hx0 : Within m o x0)
    (hm : Sub 20499 m := by first | exact Sub.le (by assumption) ⟨rfl⟩ | exact ⟨rfl⟩) : Within m o (State.fromJoiner x0 x1) := by
  unfold State.fromJoiner
  extract_lets -merge +onlyGivenNames t0 t1 t2
  clear_value t0 t1 t2
  refine .ite ?_ ?_
  · exact .fieldDrop hx0
  · split
    · exact .fieldBad hx0
    · split
      · exact .bump (.fieldDrop hx0)
      · extract_lets -merge +onlyGivenNames t3
        have h4 : Within m o (t3) := .bump ((Within.fieldStore hx0) _ (by assumption))
        clear_value t3
        exact .ite (.setFld h4) h4

theorem Within.execFieldFrameReceive {x0 : FieldRx} {x1 : State} (hx1 : Within m o x1)
    (hm : Sub 4214811 m := by first | exact Sub.le (by assumption) ⟨rfl⟩ | exact ⟨rfl⟩) : WithinOut m o (execFieldFrameReceive x0 x1) := by
  unfold Sys2Proof.Machine.execFieldFrameReceive
  extract_lets -merge +onlyGivenNames t0 t1 t2
  clear_value t0 t1 t2
  refine .ite ?_ ?_
  · exact .next (.fieldDrop hx1)
  · refine .ite ?_ ?_
    · exact .next (.bump (.fieldDrop hx1))
    · refine .ite ?_ ?_
      · exact .next (.fieldDrop hx1)
      · refine .ite ?_ ?_
        · exact .next (.fieldAck hx1)
        · refine .ite ?_ ?_
          · exact .next (.fieldDrop hx1)
          · refine .ite ?_ ?_
            · exact .next (.fromBeacon hx1)
            · extract_lets -merge +onlyGivenNames t3 t4 t5
              clear_value t3 t4 t5
              refine .ite ?_ ?_
              · exact .next (.fieldDrop hx1)
              · refine .ite ?_ ?_
                · exact .next (.fromParent hx1)
                · refine .ite ?_ ?_
                  · exact .next (.fieldDrop hx1)
                  · split
                    · exact .next (.fromChild hx1)
                    · exact .next (.fromJoiner hx1)

theorem Within.pollMiss {x0 : State} {x1 : Nat} (hx0 : Within m o x0)
    (hm : Sub 19 m := by first | exact Sub.le (by assumption) ⟨rfl⟩ | exact ⟨rfl⟩) : Within m o (State.pollMiss x0 x1) := by
  unfold State.pollMiss
  extract_lets -merge +onlyGivenNames t0 t1 t3 t5
  have h2 : Within m o (t1) := .setFe hx0
  have h4 : Within m o (t3) := .ite (.setRec h2) h2
  have h6 : Within m o (t5) := .raise (.bump h4)
  clear_value t0 t1 t3 t5
  exact .ite (.childAbsent h6) (.ite h6 (.fieldRecState h6))

theorem Within.execPollWindowEnd {x0 : Fin 1024} {x1 : State} (hx1 : Within m o x1)
    (hm : Sub 16403 m := by first | exact Sub.le (by assumption) ⟨rfl⟩ | exact ⟨rfl⟩) : WithinOut m o (execPollWindowEnd x0 x1) := by
  unfold Sys2Proof.Machine.execPollWindowEnd
  extract_lets -merge +onlyGivenNames t0
  clear_value t0
  refine .ite ?_ ?_
  · exact .next hx1
  · extract_lets -merge +onlyGivenNames t1 t3
    have h2 : Within m o (t1) := .setFld hx1
    clear_value t1 t3
    refine .ite ?_ ?_
    · exact .next (.fieldNext h2)
    · refine .ite ?_ ?_
      · exact .next (.fieldNext (.radioRejected h2))
      · exact .next (.fieldNext (.pollMiss h2))

/-! FieldCmd -/

theorem Within.fmPush {x0 : Word} {x1 : State} (hx1 : Within m o x1)
    (hm : Sub 16401 m := by first | exact Sub.le (by assumption) ⟨rfl⟩ | exact ⟨rfl⟩) : Within m o (State.fmPush x0 x1) := by
  unfold State.fmPush
  refine .ite ?_ ?_
  · exact hx1
  · extract_lets -merge +onlyGivenNames t0 t1
    clear_value t0 t1
    exact .ite (.setFld hx1) (.refuse hx1)

theorem Within.fmDone {x0 : State} {x1 : List Word} {x2 : Nat} (hx0 : Within m o x0)
    (hm : Sub 16401 m := by first | exact Sub.le (by assumption) ⟨rfl⟩ | exact ⟨rfl⟩) : Within m o (State.fmDone x0 x1 x2) := by
  unfold State.fmDone
  extract_lets -merge +onlyGivenNames t0 t2
  have h1 : Within m o (t0) := .fmPost (.setFld hx0)
  have h3 : Within m o (t2) := .ite (.bump h1) h1
  clear_value t0 t2
  exact .ite h3 (.raise h3)

theorem Within.fmRun {x0 : State} {x1 : Nat} {x2 : Nat} {x3 : Nat} {x4 : Nat} {x5 : State → List Word → State × Nat} (hx0 : Within m o x0) (hx5 : ∀ {y0} {y1}, Within m o y0 → Within m o (x5 y0 y1).1)
    (hm : Sub 16401 m := by first | exact Sub.le (by assumption) ⟨rfl⟩ | exact ⟨rfl⟩) : Within m o (State.fmRun x0 x1 x2 x3 x4 x5) := by
  unfold State.fmRun
  split
  · exact hx0
  · extract_lets -merge +onlyGivenNames t0 t1
    clear_value t0 t1
    refine .ite ?_ ?_
    · exact hx0
    · refine .ite ?_ ?_
      · exact .fmDone hx0
      · refine .ite ?_ ?_
        · exact .fmDone hx0
        · refine .ite ?_ ?_
          · exact .fmDone hx0
          · extract_lets -merge +onlyGivenNames t2
            have h3 : Within m o (t2).1 := hx5 hx0
            clear_value t2
            exact .fmDone h3

theorem Within.feInstall {x0 : State} {x1 : Nat} {x2 : Nat} (hx0 : Within m o x0)
    (hm : Sub 2 m := by first | exact Sub.le (by assumption) ⟨rfl⟩ | exact ⟨rfl⟩) : Within m o (State.feInstall x0 x1 x2) := by
  unfold State.feInstall
  extract_lets -merge +onlyGivenNames t0 t1
  have h2 : Within m o (t1) := .setWords hx0
  clear_value t0 t1
  exact .ite (.setRec (.setRec h2)) h2

theorem Within.execAssign {x0 : State} (hx0 : Within m o x0)
    (hm : Sub 16403 m := by first | exact Sub.le (by assumption) ⟨rfl⟩ | exact ⟨rfl⟩) : WithinOut m o (execAssign x0) := by
  unfold Sys2Proof.Machine.execAssign
  exact .next (.fmRun hx0 (fun h0 => by
    extract_lets -merge +onlyGivenNames t1 t2 t3 t4
    have h5 : Within m o (t4) := .setFld h0
    clear_value t1 t2 t3 t4
    refine .iteP ?_ ?_
    · exact .feInstall h5
    · exact h5))

theorem Within.execRelease {x0 : State} (hx0 : Within m o x0)
    (hm : Sub 20499 m := by first | exact Sub.le (by assumption) ⟨rfl⟩ | exact ⟨rfl⟩) : WithinOut m o (execRelease x0) := by
  unfold Sys2Proof.Machine.execRelease
  exact .next (.fmRun hx0 (fun h0 => by
    extract_lets -merge +onlyGivenNames t1
    clear_value t1
    refine .iteP ?_ ?_
    · exact h0
    · extract_lets -merge +onlyGivenNames t2
      have h3 : Within m o (t2) := .ite (.setFld h0) h0
      clear_value t2
      exact .feRelease h3))

theorem Within.fmEnter {x0 : State} {x1 : Nat} (hx0 : Within m o x0)
    (hm : Sub 1 m := by first | exact Sub.le (by assumption) ⟨rfl⟩ | exact ⟨rfl⟩) : Within m o (State.fmEnter x0 x1) :=
  .wf hx0

theorem Within.roleEnd {x0 : State} (hx0 : Within m o x0)
    (hm : Sub 1 m := by first | exact Sub.le (by assumption) ⟨rfl⟩ | exact ⟨rfl⟩) : Within m o (State.roleEnd x0) :=
  .ite hx0 (.fmEnter hx0)

theorem Within.execKeyset {x0 : State} (hx0 : Within m o x0)
    (hm : Sub 16403 m := by first | exact Sub.le (by assumption) ⟨rfl⟩ | exact ⟨rfl⟩) : WithinOut m o (execKeyset x0) := by
  unfold Sys2Proof.Machine.execKeyset
  exact .next (.fmRun hx0 (fun h0 => by
    extract_lets -merge +onlyGivenNames t1
    clear_value t1
    refine .iteP ?_ ?_
    · exact .setFe h0
    · exact h0))

theorem Within.execUpDetach {x0 : State} (hx0 : Within m o x0)
    (hm : Sub 16401 m := by first | exact Sub.le (by assumption) ⟨rfl⟩ | exact ⟨rfl⟩) : WithinOut m o (execUpDetach x0) := by
  unfold Sys2Proof.Machine.execUpDetach
  exact .next (.fmRun hx0 (fun h0 => .roleEnd (.ptabKeepAll (.upEnter (.wb (.wb h0))))))

theorem Within.execFieldDrainDone {x0 : State} (hx0 : Within m o x0)
    (hm : Sub 1 m := by first | exact Sub.le (by assumption) ⟨rfl⟩ | exact ⟨rfl⟩) : WithinOut m o (execFieldDrainDone x0) := by
  unfold Sys2Proof.Machine.execFieldDrainDone
  refine .ite ?_ ?_
  · exact .next (.fmEnter hx0)
  · exact .next hx0

theorem Within.execSfStart {x0 : State} (hx0 : Within m o x0)
    (hm : Sub 16401 m := by first | exact Sub.le (by assumption) ⟨rfl⟩ | exact ⟨rfl⟩) : WithinOut m o (execSfStart x0) := by
  unfold Sys2Proof.Machine.execSfStart
  exact .next (.fmRun hx0 (fun h0 => by
    refine .iteP ?_ ?_
    · exact h0
    · refine .iteP ?_ ?_
      · exact h0
      · exact .fmEnter (.setFld h0)))

theorem Within.execFmacCmdPush {x0 : Init} {x1 : Word} {x2 : State} (hx2 : Within m o x2)
    (hm : Sub 16437 m := by first | exact Sub.le (by assumption) ⟨rfl⟩ | exact ⟨rfl⟩) : WithinOut m o (execFmacCmdPush x0 x1 x2) := by
  unfold Sys2Proof.Machine.execFmacCmdPush
  exact .next (.onWrite hx2 (fun h0 => .fmPush h0))

theorem Within.execSfStop {x0 : State} (hx0 : Within m o x0)
    (hm : Sub 16401 m := by first | exact Sub.le (by assumption) ⟨rfl⟩ | exact ⟨rfl⟩) : WithinOut m o (execSfStop x0) := by
  unfold Sys2Proof.Machine.execSfStop
  exact .next (.fmRun hx0 (fun h0 => .roleEnd (.setFld (.wb h0))))

theorem Within.execUpAttach {x0 : State} (hx0 : Within m o x0)
    (hm : Sub 16401 m := by first | exact Sub.le (by assumption) ⟨rfl⟩ | exact ⟨rfl⟩) : WithinOut m o (execUpAttach x0) := by
  unfold Sys2Proof.Machine.execUpAttach
  exact .next (.fmRun hx0 (fun h0 => by
    refine .iteP ?_ ?_
    · exact h0
    · extract_lets -merge +onlyGivenNames t1
      have h2 : Within m o (t1) := .setFld h0
      clear_value t1
      exact .ptabKeepAll (.fmEnter (.upEnter (.wb h2)))))

theorem Within.dlSeal {x0 : State} {x1 : Nat} {x2 : Nat} {x3 : Nat} {x4 : List Byte} (hx0 : Within m o x0)
    (hm : Sub 2 m := by first | exact Sub.le (by assumption) ⟨rfl⟩ | exact ⟨rfl⟩) : Within m o (State.dlSeal x0 x1 x2 x3 x4) := by
  unfold State.dlSeal
  extract_lets -merge +onlyGivenNames t0 t1 t2 t3 t4 t5
  clear_value t0 t1 t2 t3 t4 t5
  exact .setFe (.setBytes hx0)

theorem Within.execDlStage {x0 : State} (hx0 : Within m o x0)
    (hm : Sub 20499 m := by first | exact Sub.le (by assumption) ⟨rfl⟩ | exact ⟨rfl⟩) : WithinOut m o (execDlStage x0) := by
  unfold Sys2Proof.Machine.execDlStage
  exact .next (.fmRun hx0 (fun h0 => by
    extract_lets -merge +onlyGivenNames t1 t2 t3
    clear_value t1 t2 t3
    refine .iteP ?_ ?_
    · exact h0
    · extract_lets -merge +onlyGivenNames t4
      have h5 : Within m o (t4) := .dlRetry h0
      clear_value t4
      refine .iteP ?_ ?_
      · exact h5
      · split
        · exact h5
        · extract_lets -merge +onlyGivenNames t6 t8
          have h7 : Within m o (t6) := .setFe (.dlSeal h5)
          have h9 : Within m o (t8) := .write32 h7
          clear_value t6 t8
          exact .setFld h9))

theorem Within.execDlCancel {x0 : State} (hx0 : Within m o x0)
    (hm : Sub 20499 m := by first | exact Sub.le (by assumption) ⟨rfl⟩ | exact ⟨rfl⟩) : WithinOut m o (execDlCancel x0) := by
  unfold Sys2Proof.Machine.execDlCancel
  exact .next (.fmRun hx0 (fun h0 => by
    extract_lets -merge +onlyGivenNames t1
    clear_value t1
    refine .iteP ?_ ?_
    · exact .dlEnd h0
    · exact h0))

/-! MacAir -/

theorem Within.notchSync {x0 : State} {x1 : WRadio} (hx0 : Within m o x0)
    (hm : Sub 17 m := by first | exact Sub.le (by assumption) ⟨rfl⟩ | exact ⟨rfl⟩) : Within m o (State.notchSync x0 x1) := by
  unfold State.notchSync
  extract_lets -merge +onlyGivenNames t0 t1 t2
  have h3 : Within m o (t2) := .wb (.wb hx0)
  clear_value t0 t1 t2
  exact .ite h3 (.raise h3)

theorem Within.execNotchArm {x0 : Init} {x1 : WRadio} {x2 : Word} {x3 : State} (hx3 : Within m o x3)
    (hm : Sub 53 m := by first | exact Sub.le (by assumption) ⟨rfl⟩ | exact ⟨rfl⟩) : WithinOut m o (execNotchArm x0 x1 x2 x3) := by
  unfold Sys2Proof.Machine.execNotchArm
  exact .next (.onWrite hx3 (fun h0 => .wb (.setReg h0)))

theorem Within.opportunity {x0 : State} {x1 : Nat} (hx0 : Within m o x0)
    (hm : Sub 8193 m := by first | exact Sub.le (by assumption) ⟨rfl⟩ | exact ⟨rfl⟩) : Within m o (State.opportunity x0 x1) := by
  unfold State.opportunity
  extract_lets -merge +onlyGivenNames t0 t1 t2
  have h3 : Within m o (t2) := .setStp hx0
  clear_value t0 t1 t2
  refine .ite ?_ ?_
  · exact h3
  · extract_lets -merge +onlyGivenNames t4
    clear_value t4
    exact .setRegN h3

theorem Within.planDone {x0 : State} {x1 : Nat} (hx0 : Within m o x0)
    (hm : Sub 8192 m := by first | exact Sub.le (by assumption) ⟨rfl⟩ | exact ⟨rfl⟩) : Within m o (State.planDone x0 x1) :=
  .setStp hx0

theorem Within.parentBeacon {x0 : State} {x1 : WRadio} {x2 : WifiBeacon} (hx0 : Within m o x0)
    (hm : Sub 2073 m := by first | exact Sub.le (by assumption) ⟨rfl⟩ | exact ⟨rfl⟩) : Within m o (State.parentBeacon x0 x1 x2) := by
  unfold State.parentBeacon
  extract_lets -merge +onlyGivenNames t0
  have h1 : Within m o (t0) := by
    unfold t0
    split
    · exact .setMac hx0
    · exact hx0
  clear_value t0
  refine .ite ?_ ?_
  · exact h1
  · split
    · exact .ite (.beaconSample h1) (.bump h1)
    · exact .bump h1

theorem Within.setReorder {x0 : State} {x1 : Nat} {x2 : Nat} {x3 : Reorder → Reorder} (hx0 : Within m o x0)
    (hm : Sub 2048 m := by first | exact Sub.le (by assumption) ⟨rfl⟩ | exact ⟨rfl⟩) : Within m o (State.setReorder x0 x1 x2 x3) :=
  .setWlan hx0

theorem Within.releaseRun {x0 : State} {x1 : Nat} {x2 : Nat} {x3 : Nat} {x4 : Nat} (hx0 : Within m o x0)
    (hm : Sub 2577 m := by first | exact Sub.le (by assumption) ⟨rfl⟩ | exact ⟨rfl⟩) : Within m o (State.releaseRun x0 x1 x2 x3 x4) := by
  induction x3 generalizing x0 x1 x2 x4 with
  | zero =>
    exact .setReorder hx0
  | succ n ih =>
    rw [State.releaseRun]
    split
    · exact ih (.rxRelease hx0)
    · exact .setReorder hx0

theorem Within.moveWindow {x0 : State} {x1 : Reorder} {x2 : Nat} (hx0 : Within m o x0)
    (hm : Sub 2577 m := by first | exact Sub.le (by assumption) ⟨rfl⟩ | exact ⟨rfl⟩) : Within m o (State.moveWindow x0 x1 x2) := by
  unfold State.moveWindow
  extract_lets -merge +onlyGivenNames t0
  clear_value t0
  exact .releaseRun (.releaseBelow hx0)

theorem Within.moveMpdu {x0 : State} {x1 : Mpdu} {x2 : Nat} (hx0 : Within m o x0)
    (hm : Sub 5379 m := by first | exact Sub.le (by assumption) ⟨rfl⟩ | exact ⟨rfl⟩) : Within m o (State.moveMpdu x0 x1 x2) :=
  .bump (.ite (.putMpdu (.in_mpdus hx0)) (.setRec (.setRec (.putMpdu (.in_mpdus hx0)))))

theorem Within.execMpduMove {x0 : WRadio} {x1 : State} (hx1 : Within m o x1)
    (hm : Sub 7427 m := by first | exact Sub.le (by assumption) ⟨rfl⟩ | exact ⟨rfl⟩) : WithinOut m o (execMpduMove x0 x1) := by
  unfold Sys2Proof.Machine.execMpduMove
  extract_lets -merge +onlyGivenNames t0
  clear_value t0
  split
  · exact .next hx1
  · extract_lets -merge +onlyGivenNames t1
    have h2 : Within m o (t1) := .setWlan hx1
    clear_value t1
    split
    · exact .next h2
    · exact .next (.moveMpdu h2)

theorem Within.execBeaconTbtt {x0 : WRadio} {x1 : State} (hx1 : Within m o x1)
    (hm : Sub 2048 m := by first | exact Sub.le (by assumption) ⟨rfl⟩ | exact ⟨rfl⟩) : WithinOut m o (execBeaconTbtt x0 x1) := by
  unfold Sys2Proof.Machine.execBeaconTbtt
  refine .ite ?_ ?_
  · exact .next hx1
  · exact .next (.setMac hx1)

theorem Within.tblTrim {x0 : State} {x1 : Nat} {x2 : Nat} {x3 : Nat} {x4 : Nat} {x5 : Nat} {x6 : Nat} (hx0 : Within m o x0)
    (hm : Sub 2 m := by first | exact Sub.le (by assumption) ⟨rfl⟩ | exact ⟨rfl⟩) : Within m o (State.tblTrim x0 x1 x2 x3 x4 x5 x6) := by
  induction x6 generalizing x0 x1 x2 x3 x4 x5 with
  | zero =>
    exact .wmf hx0
  | succ n ih =>
    rw [State.tblTrim]
    exact .wmf (ih hx0)

theorem Within.intoReorder {x0 : State} {x1 : RxMpdu} (hx0 : Within m o x0)
    (hm : Sub 2577 m := by first | exact Sub.le (by assumption) ⟨rfl⟩ | exact ⟨rfl⟩) : Within m o (State.intoReorder x0 x1) := by
  unfold State.intoReorder
  extract_lets -merge +onlyGivenNames t0
  have h2 : ∀ {y0}, Within m o y0 → Within m o (t0 y0) := fun h1 => .in_rxmpdus h1
  clear_value t0
  split
  · exact .rxRelease (h2 hx0)
  · extract_lets -merge +onlyGivenNames t3
    clear_value t3
    refine .ite ?_ ?_
    · exact .rxGive (.bump hx0)
    · refine .ite ?_ ?_
      · exact .releaseRun (h2 hx0)
      · extract_lets -merge +onlyGivenNames t4
        clear_value t4
        exact .moveWindow (h2 hx0)

theorem Within.markSent {x0 : State} {x1 : List Nat} (hx0 : Within m o x0)
    (hm : Sub 256 m := by first | exact Sub.le (by assumption) ⟨rfl⟩ | exact ⟨rfl⟩) : Within m o (State.markSent x0 x1) :=
  .in_mpdus hx0

theorem Within.transmit {x0 : State} {x1 : WRadio} {x2 : ExchangeOut} {x3 : Bool} (hx0 : Within m o x0)
    (hm : Sub 209 m := by first | exact Sub.le (by assumption) ⟨rfl⟩ | exact ⟨rfl⟩) : Within m o (State.transmit x0 x1 x2 x3) :=
  .transmitVector (.macPort hx0)

theorem Within.sendMpdus {x0 : State} {x1 : WRadio} {x2 : ExchangeOut} {x3 : List Mpdu} (hx0 : Within m o x0)
    (hm : Sub 8657 m := by first | exact Sub.le (by assumption) ⟨rfl⟩ | exact ⟨rfl⟩) : Within m o (State.sendMpdus x0 x1 x2 x3) := by
  unfold State.sendMpdus
  extract_lets -merge +onlyGivenNames t0
  have h1 : Within m o (t0) := .markSent hx0
  clear_value t0
  exact .opportunity (.transmit h1)

theorem Within.notchExchange {x0 : State} {x1 : WRadio} {x2 : ExchangeOut} {x3 : List Mpdu} (hx0 : Within m o x0)
    (hm : Sub 1 m := by first | exact Sub.le (by assumption) ⟨rfl⟩ | exact ⟨rfl⟩) : WithinOpt1 m o (State.notchExchange x0 x1 x2 x3) := by
  unfold State.notchExchange
  split
  · exact .some hx0
  · exact .none
  · exact .some hx0
  · extract_lets -merge +onlyGivenNames t0
    clear_value t0
    refine .ite ?_ ?_
    · refine .ite ?_ ?_
      · exact .none
      · exact .some hx0
    · exact .some (.bump hx0)

theorem Within.execEdcaCommit {x0 : WRadio} {x1 : ExchangeOut} {x2 : Bool} {x3 : List Nat} {x4 : State} (hx4 : Within m o x4)
    (hm : Sub 8657 m := by first | exact Sub.le (by assumption) ⟨rfl⟩ | exact ⟨rfl⟩) : WithinOut m o (execEdcaCommit x0 x1 x2 x3 x4) := by
  unfold Sys2Proof.Machine.execEdcaCommit
  refine .ite ?_ ?_
  · exact .next hx4
  · extract_lets -merge +onlyGivenNames t0
    clear_value t0
    refine .ite ?_ ?_
    · exact .next (.sendMpdus hx4)
    · split
      · exact .next hx4
      · exact .next (.sendMpdus ((Within.notchExchange hx4) _ (by assumption)))

theorem Within.execNotchSuspendChange {x0 : WRadio} {x1 : State} (hx1 : Within m o x1)
    (hm : Sub 17 m := by first | exact Sub.le (by assumption) ⟨rfl⟩ | exact ⟨rfl⟩) : WithinOut m o (execNotchSuspendChange x0 x1) := by
  unfold Sys2Proof.Machine.execNotchSuspendChange
  exact .next (.notchSync hx1)

theorem Within.execDlMuPpdu {x0 : WRadio} {x1 : ExchangeOut} {x2 : State} (hx2 : Within m o x2)
    (hm : Sub 8659 m := by first | exact Sub.le (by assumption) ⟨rfl⟩ | exact ⟨rfl⟩) : WithinOut m o (execDlMuPpdu x0 x1 x2) := by
  unfold Sys2Proof.Machine.execDlMuPpdu
  split
  · exact .next hx2
  · refine .ite ?_ ?_
    · exact .next hx2
    · extract_lets -merge +onlyGivenNames d0 t1 t2 t3
      have h5 : ∀ {y0} {y1}, Within m o y0 → Within m o (t3 y0 y1) := fun h4 => .planDone (.sendMpdus h4)
      clear_value t1 t2 t3
      split
      · exact .next (h5 hx2)
      · exact .next hx2
      · exact .next (h5 hx2)
      · extract_lets -merge +onlyGivenNames t6
        clear_value t6
        exact .next (h5 (.bump (.tblTrim hx2)))

theorem Within.execControlResponse {x0 : WRadio} {x1 : Fin 4} {x2 : List (BitVec 12 × Fin 8)} {x3 : State} (hx3 : Within m o x3)
    (hm : Sub 4 m := by first | exact Sub.le (by assumption) ⟨rfl⟩ | exact ⟨rfl⟩) : WithinOut m o (execControlResponse x0 x1 x2 x3) := by
  unfold Sys2Proof.Machine.execControlResponse
  refine .ite ?_ ?_
  · exact .next hx3
  · extract_lets -merge +onlyGivenNames t0
    clear_value t0
    exact .next (.emit hx3)

theorem Within.storeSets {x0 : State} {x1 : WRadio} {x2 : List (BitVec 12 × Nat)} (hx0 : Within m o x0)
    (hm : Sub 6145 m := by first | exact Sub.le (by assumption) ⟨rfl⟩ | exact ⟨rfl⟩) : Within m o (State.storeSets x0 x1 x2) := by
  induction x2 generalizing x0 x1 with
  | nil =>
    exact hx0
  | cons y l ih =>
    rw [State.storeSets]
    split
    · exact ih hx0
    · exact ih (.setWlan ((Within.takeRun hx0) _ (by assumption)))

theorem Within.execReorderTimeout {x0 : WRadio} {x1 : BitVec 12} {x2 : Fin 8} {x3 : State} (hx3 : Within m o x3)
    (hm : Sub 2577 m := by first | exact Sub.le (by assumption) ⟨rfl⟩ | exact ⟨rfl⟩) : WithinOut m o (execReorderTimeout x0 x1 x2 x3) := by
  unfold Sys2Proof.Machine.execReorderTimeout
  split
  · exact .next hx3
  · split
    · exact .next hx3
    · extract_lets -merge +onlyGivenNames t0 t1
      have h2 : Within m o (t1) := .releaseRun hx3
      clear_value t0 t1
      exact .next (.raise (.bump h2))

theorem Within.noteRx {x0 : State} {x1 : WRadio} {x2 : RxFrame} (hx0 : Within m o x0)
    (hm : Sub 8194 m := by first | exact Sub.le (by assumption) ⟨rfl⟩ | exact ⟨rfl⟩) : Within m o (State.noteRx x0 x1 x2) := by
  unfold State.noteRx
  extract_lets -merge +onlyGivenNames t0
  clear_value t0
  refine .ite ?_ ?_
  · exact hx0
  · extract_lets -merge +onlyGivenNames t1 t2
    have h3 : Within m o (t2) := .setRec (.setRec hx0)
    clear_value t1 t2
    split
    · exact h3
    · extract_lets -merge +onlyGivenNames t4
      have h5 : Within m o (t4) := .setRec (.setRec (.setRec h3))
      clear_value t4
      exact .setStp (.setRec h5)

theorem Within.execMpduReceive {x0 : WRadio} {x1 : RxFrame} {x2 : State} (hx2 : Within m o x2)
    (hm : Sub 15891 m := by first | exact Sub.le (by assumption) ⟨rfl⟩ | exact ⟨rfl⟩) : WithinOut m o (execMpduReceive x0 x1 x2) := by
  simp only [Sys2Proof.Machine.execMpduReceive]
  refine .ite ?_ ?_
  · exact .next hx2
  · refine .ite ?_ ?_
    · exact .next (.bump (.unreserve hx2))
    · refine .ite ?_ ?_
      · split
        · exact .next (.heardFrom (.noteRx hx2))
        · exact .next (.ite (.moveWindow (.heardFrom (.noteRx hx2))) (.heardFrom (.noteRx hx2)))
      · refine .ite ?_ ?_
        · exact .next (.bump (.heardFrom (.noteRx hx2)))
        · refine .ite ?_ ?_
          · exact .next (.bump (.unreserve (.setReorder (.heardFrom (.noteRx hx2)))))
          · refine .ite ?_ ?_
            · exact .next (.raise (.bump (.unreserve (.setReorder (.heardFrom (.noteRx hx2))))))
            · exact .next (.intoReorder (.setPkt (.in_mpduNum (.takeCells (.setReorder (.heardFrom (.noteRx hx2)))))))

theorem Within.endContend {x0 : State} {x1 : WRadio} {x2 : Nat} (hx0 : Within m o x0)
    (hm : Sub 2048 m := by first | exact Sub.le (by assumption) ⟨rfl⟩ | exact ⟨rfl⟩) : Within m o (State.endContend x0 x1 x2) :=
  .setMac hx0

theorem Within.execBeaconDrop {x0 : WRadio} {x1 : Fin 16} {x2 : State} (hx2 : Within m o x2)
    (hm : Sub 2065 m := by first | exact Sub.le (by assumption) ⟨rfl⟩ | exact ⟨rfl⟩) : WithinOut m o (execBeaconDrop x0 x1 x2) := by
  unfold Sys2Proof.Machine.execBeaconDrop
  refine .ite ?_ ?_
  · exact .next (.raise (.bump (.endContend hx2)))
  · exact .next hx2

theorem Within.execBeaconCommit {x0 : WRadio} {x1 : Fin 16} {x2 : ExchangeOut} {x3 : State} (hx3 : Within m o x3)
    (hm : Sub 2261 m := by first | exact Sub.le (by assumption) ⟨rfl⟩ | exact ⟨rfl⟩) : WithinOut m o (execBeaconCommit x0 x1 x2 x3) := by
  unfold Sys2Proof.Machine.execBeaconCommit
  refine .ite ?_ ?_
  · extract_lets -merge +onlyGivenNames t0 t1 t2
    have h3 : Within m o (t2) := .emit (.endContend hx3)
    clear_value t0 t1 t2
    exact .next (.transmit h3)
  · exact .next hx3

theorem Within.notchNeighbour {x0 : State} {x1 : WRadio} {x2 : GteIn} (hx0 : Within m o x0)
    (hm : Sub 2065 m := by first | exact Sub.le (by assumption) ⟨rfl⟩ | exact ⟨rfl⟩) : Within m o (State.notchNeighbour x0 x1 x2) := by
  unfold State.notchNeighbour
  refine .ite ?_ ?_
  · refine .ite ?_ ?_
    · exact hx0
    · extract_lets -merge +onlyGivenNames t0
      have h1 : Within m o (t0) := .setMac (.wb hx0)
      clear_value t0
      exact .raise (.bump h1)
  · extract_lets -merge +onlyGivenNames t2 t4
    have h3 : Within m o (t2) := .setMac (.wb hx0)
    have h5 : Within m o (t4) := .raise (.bump h3)
    clear_value t2 t4
    exact .ite (.notchSync h5) h5

theorem Within.execWifiBeaconReceive {x0 : WRadio} {x1 : WifiBeacon} {x2 : State} (hx2 : Within m o x2)
    (hm : Sub 4196377 m := by first | exact Sub.le (by assumption) ⟨rfl⟩ | exact ⟨rfl⟩) : WithinOut m o (execWifiBeaconReceive x0 x1 x2) := by
  unfold Sys2Proof.Machine.execWifiBeaconReceive
  refine .ite ?_ ?_
  · exact .next hx2
  · refine .ite ?_ ?_
    · exact .next (.bump hx2)
    · extract_lets -merge +onlyGivenNames t0 t1
      have h2 : Within m o (t1) := .ite (.parentBeacon hx2) hx2
      clear_value t0 t1
      split
      · exact .next h2
      · refine .ite ?_ ?_
        · exact .next h2
        · extract_lets -merge +onlyGivenNames t3
          have h4 : Within m o (t3) := .ite (.notchNeighbour h2) h2
          clear_value t3
          exact .next (.nbrReport h4)

theorem Within.execNotchFlagExpire {x0 : WRadio} {x1 : Bool} {x2 : State} (hx2 : Within m o x2)
    (hm : Sub 2065 m := by first | exact Sub.le (by assumption) ⟨rfl⟩ | exact ⟨rfl⟩) : WithinOut m o (execNotchFlagExpire x0 x1 x2) := by
  unfold Sys2Proof.Machine.execNotchFlagExpire
  refine .ite ?_ ?_
  · extract_lets -merge +onlyGivenNames t0
    have h1 : Within m o (t0) := .setMac (.wb hx2)
    clear_value t0
    exact .next (.ite (.notchSync h1) h1)
  · exact .next (.setMac (.wb hx2))

theorem Within.execMpduLifetimeDrop {x0 : Nat} {x1 : State} (hx1 : Within m o x1)
    (hm : Sub 259 m := by first | exact Sub.le (by assumption) ⟨rfl⟩ | exact ⟨rfl⟩) : WithinOut m o (execMpduLifetimeDrop x0 x1) := by
  unfold Sys2Proof.Machine.execMpduLifetimeDrop
  split
  · exact .next hx1
  · refine .ite ?_ ?_
    · exact .next hx1
    · exact .next (.bump (.endMpdu hx1))

theorem Within.execTriggerSend {x0 : WRadio} {x1 : ExchangeOut} {x2 : State} (hx2 : Within m o x2)
    (hm : Sub 8405 m := by first | exact Sub.le (by assumption) ⟨rfl⟩ | exact ⟨rfl⟩) : WithinOut m o (execTriggerSend x0 x1 x2) := by
  unfold Sys2Proof.Machine.execTriggerSend
  split
  · exact .next hx2
  · refine .ite ?_ ?_
    · exact .next hx2
    · extract_lets -merge +onlyGivenNames t0 t1
      clear_value t0 t1
      split
      · exact .next hx2
      · extract_lets -merge +onlyGivenNames t2 t3
        have h4 : Within m o (t3) := .opportunity (.transmit (.emit hx2))
        clear_value t2 t3
        exact .next (.planDone (.tbArm h4))

theorem Within.execSounding {x0 : WRadio} {x1 : List (BitVec 12 × Nat)} {x2 : State} (hx2 : Within m o x2)
    (hm : Sub 6145 m := by first | exact Sub.le (by assumption) ⟨rfl⟩ | exact ⟨rfl⟩) : WithinOut m o (execSounding x0 x1 x2) := by
  unfold Sys2Proof.Machine.execSounding
  refine .ite ?_ ?_
  · exact .next hx2
  · extract_lets -merge +onlyGivenNames t0 t1 t3
    have h2 : Within m o (t1) := .foldl (fun h => .freeRun h) hx2
    have h4 : Within m o (t3) := .setWlan h2
    clear_value t0 t1 t3
    exact .next (.storeSets h4)

theorem Within.execNotchPlanApply {x0 : WRadio} {x1 : State} (hx1 : Within m o x1)
    (hm : Sub 17 m := by first | exact Sub.le (by assumption) ⟨rfl⟩ | exact ⟨rfl⟩) : WithinOut m o (execNotchPlanApply x0 x1) := by
  unfold Sys2Proof.Machine.execNotchPlanApply
  extract_lets -merge +onlyGivenNames t0 t1
  clear_value t0 t1
  refine .ite ?_ ?_
  · exact .next hx1
  · extract_lets -merge +onlyGivenNames t2 t4 t6 t8 t10
    have h3 : Within m o (t2) := .setReg hx1
    have h5 : Within m o (t4) := .setReg h3
    have h7 : Within m o (t6) := .setReg h5
    have h9 : Within m o (t8) := .setReg h7
    have h11 : Within m o (t10) := .setReg h9
    clear_value t2 t4 t6 t8 t10
    exact .next (.notchSync (.raise (.wb h11)))

end Sys2Proof.Machine
end

