-- ==== Sys2Proof/Laws/Within8.lean ====
section
/-! SUPPORT. Which parts of the state every operation touches (`Within`), one lemma for each: Sys, Ppe, Tmg, Eth. -/

namespace Sys2Proof.Machine

set_option Elab.async false
set_option linter.unusedVariables false

variable {m : Nat} {o : State}

/-! Sys -/

theorem Within.radioLost {x0 : State} {x1 : WRadio} (hx0 : Within m o x0)
    (hm : Sub 2307 m := by first | exact Sub.le (by assumption) ⟨rfl⟩ | exact ⟨rfl⟩) : Within m o (State.radioLost x0 x1) := by
  unfold State.radioLost
  extract_lets -merge +onlyGivenNames t0 t2
  have h1 : Within m o (t0) := .setMac (.wf hx0)
  have h3 : Within m o (t2) := .setWlan h1
  clear_value t0 t2
  exact .foldl (fun h => by
    extract_lets -merge +onlyGivenNames t4
    clear_value t4
    split
    · exact .setWlan h
    · exact .bump (.endMpdu h)) h3

theorem Within.fieldLost {x0 : State} (hx0 : Within m o x0)
    (hm : Sub 16385 m := by first | exact Sub.le (by assumption) ⟨rfl⟩ | exact ⟨rfl⟩) : Within m o (State.fieldLost x0) := by
  unfold State.fieldLost
  extract_lets -merge +onlyGivenNames t0
  have h1 : Within m o (t0) := .wb (.wb hx0)
  clear_value t0
  exact .setFld (.wf (.wb h1))

theorem Within.stepsTo {x0 : State} {x1 : Nat} (hx0 : Within m o x0)
    (hm : Sub 18707 m := by first | exact Sub.le (by assumption) ⟨rfl⟩ | exact ⟨rfl⟩) : Within m o (State.stepsTo x0 x1) := by
  unfold State.stepsTo
  extract_lets -merge +onlyGivenNames t0 t1 t3 t5 t7 t9
  have h2 : Within m o (t1) := .setSteps hx0
  have h4 : Within m o (t3) := .ite (.radioLost h2) h2
  have h6 : Within m o (t5) := .ite (.radioLost h4) h4
  have h8 : Within m o (t7) := .ite (.radioLost h6) h6
  have h10 : Within m o (t9) := .ite (.fieldLost h8) h8
  clear_value t0 t1 t3 t5 t7 t9
  exact .ite (.keepAllLim h10) h10

theorem Within.clearSram {x0 : State} (hx0 : Within m o x0)
    (hm : Sub 1048578 m := by first | exact Sub.le (by assumption) ⟨rfl⟩ | exact ⟨rfl⟩) : Within m o (State.clearSram x0) :=
  .upd (k := 1048578) hx0 (fun p => by cases p <;> first | exact .inr rfl | exact .inl rfl)

theorem Within.recover {x0 : State} (hx0 : Within m o x0)
    (hm : Sub 268435456 m := by first | exact Sub.le (by assumption) ⟨rfl⟩ | exact ⟨rfl⟩) : Within m o (State.recover x0) :=
  .setSys hx0

theorem Within.bootTry {x0 : State} {x1 : Nat} (hx0 : Within m o x0)
    (hm : Sub 3670035 m := by first | exact Sub.le (by assumption) ⟨rfl⟩ | exact ⟨rfl⟩) : Within m o (State.bootTry x0 x1).1 := by
  unfold State.bootTry
  split
  · exact hx0
  · exact .verifyImage hx0

theorem Within.bootNote {x0 : State} {x1 : Nat} {x2 : Nat} (hx0 : Within m o x0)
    (hm : Sub 1 m := by first | exact Sub.le (by assumption) ⟨rfl⟩ | exact ⟨rfl⟩) : Within m o (State.bootNote x0 x1 x2) :=
  .ite (.wf hx0) (.wf hx0)

theorem Within.mc5Runs {x0 : State} {x1 : Nat} (hx0 : Within m o x0)
    (hm : Sub 268435457 m := by first | exact Sub.le (by assumption) ⟨rfl⟩ | exact ⟨rfl⟩) : Within m o (State.mc5Runs x0 x1) :=
  .setSys (.wf hx0)

theorem Within.bootRom {x0 : State} {x1 : Nat} (hx0 : Within m o x0)
    (hm : Sub 406323219 m := by first | exact Sub.le (by assumption) ⟨rfl⟩ | exact ⟨rfl⟩) : Within m o (State.bootRom x0 x1) := by
  unfold State.bootRom
  extract_lets -merge +onlyGivenNames t0
  have h1 : Within m o (t0) := .setReg (.setXspi hx0)
  clear_value t0
  refine .ite ?_ ?_
  · exact .recover h1
  · extract_lets -merge +onlyGivenNames t2 t4 t5 t7
    have h3 : Within m o (t2) := .wb h1
    have h6 : Within m o (t5).1 := .bootTry h3
    have h8 : Within m o (t7) := .bootNote h6
    clear_value t2 t4 t5 t7
    refine .ite ?_ ?_
    · exact .mc5Runs h8
    · extract_lets -merge +onlyGivenNames t9 t11
      have h10 : Within m o (t9).1 := .bootTry h8
      have h12 : Within m o (t11) := .bootNote h10
      clear_value t9 t11
      exact .ite (.mc5Runs h12) (.recover h12)

theorem Within.execSramClearDone {x0 : BitVec 32} {x1 : State} (hx1 : Within m o x1)
    (hm : Sub 406341907 m := by first | exact Sub.le (by assumption) ⟨rfl⟩ | exact ⟨rfl⟩) : WithinOut m o (execSramClearDone x0 x1) := by
  unfold Sys2Proof.Machine.execSramClearDone
  refine .ite ?_ ?_
  · exact .next hx1
  · extract_lets -merge +onlyGivenNames t0
    have h1 : Within m o (t0) := .stepsTo (.setSys (.clearSram hx1))
    clear_value t0
    exact .next (.bootRom (.wb h1))

theorem Within.accPop {x0 : Init} {x1 : State} (hx1 : Within m o x1)
    (hm : Sub 37 m := by first | exact Sub.le (by assumption) ⟨rfl⟩ | exact ⟨rfl⟩) : Within m o (State.accPop x0 x1) := by
  unfold State.accPop
  extract_lets -merge +onlyGivenNames t0
  clear_value t0
  split
  · exact .answer (.in_acc hx1)
  · extract_lets -merge +onlyGivenNames t1
    have h2 : Within m o (t1) := .setReg64 (.in_acc hx1)
    clear_value t1
    exact .answer h2

theorem Within.stepWrite {x0 : Bool} {x1 : Nat} {x2 : Word} {x3 : State} (hx3 : Within m o x3)
    (hm : Sub 18707 m := by first | exact Sub.le (by assumption) ⟨rfl⟩ | exact ⟨rfl⟩) : Within m o (State.stepWrite x0 x1 x2 x3) := by
  unfold State.stepWrite
  refine .ite ?_ ?_
  · exact .refuse hx3
  · extract_lets -merge +onlyGivenNames t0
    clear_value t0
    exact .stepsTo hx3

theorem Within.rstCause {x0 : State} {x1 : Nat} {x2 : Nat} (hx0 : Within m o x0)
    (hm : Sub 1 m := by first | exact Sub.le (by assumption) ⟨rfl⟩ | exact ⟨rfl⟩) : Within m o (State.rstCause x0 x1 x2) :=
  .setRegN hx0

theorem Within.resetKeep {x0 : State} {x1 : Nat → Bool} {x2 x3 : Bool} (_ : Within m o x0) (hm : Sub 536870911 m := by first | exact Sub.le (by assumption) ⟨rfl⟩ | exact ⟨rfl⟩) :
    Within m o (State.resetKeep x0 x1 x2 x3) := fun p hp => by
  have h : m.testBit p.num = true := hm.bit (by cases p <;> rfl)
  rw [hp] at h
  cases h

theorem Within.coldReset {x0 : State} {x1 : Nat} (hx0 : Within m o x0)
    (hm : Sub 536870911 m := by first | exact Sub.le (by assumption) ⟨rfl⟩ | exact ⟨rfl⟩) : Within m o (State.coldReset x0 x1) := by
  unfold State.coldReset
  extract_lets -merge +onlyGivenNames t0
  clear_value t0
  exact .rstCause (.wf (.resetKeep hx0))

theorem Within.warmReset {x0 : State} {x1 : Nat} (hx0 : Within m o x0)
    (hm : Sub 536870911 m := by first | exact Sub.le (by assumption) ⟨rfl⟩ | exact ⟨rfl⟩) : Within m o (State.warmReset x0 x1) := by
  unfold State.warmReset
  extract_lets -merge +onlyGivenNames t0 t1 t2
  have h3 : Within m o (t2) := .rstCause (.wf (.resetKeep hx0))
  clear_value t0 t1 t2
  exact .ite (.wb (.wb (.wf (.setRegN h3)))) h3

theorem Within.rstCmd {x0 : Nat} {x1 : Nat} {x2 : State} (hx2 : Within m o x2)
    (hm : Sub 536870911 m := by first | exact Sub.le (by assumption) ⟨rfl⟩ | exact ⟨rfl⟩) : Within m o (State.rstCmd x0 x1 x2) :=
  .ite (.refuse hx2) (.ite (.coldReset hx2) (.warmReset hx2))

theorem Within.wdtWrite {x0 : Nat} {x1 : Word} {x2 : State} (hx2 : Within m o x2)
    (hm : Sub 268435473 m := by first | exact Sub.le (by assumption) ⟨rfl⟩ | exact ⟨rfl⟩) : Within m o (State.wdtWrite x0 x1 x2) := by
  unfold State.wdtWrite
  extract_lets -merge +onlyGivenNames t0 t1
  have h2 : Within m o (t1) := .writeReg hx2
  clear_value t0 t1
  exact .ite h2 (.setSys h2)

theorem Within.wdtKick {x0 : Word} {x1 : State} (hx1 : Within m o x1)
    (hm : Sub 268435473 m := by first | exact Sub.le (by assumption) ⟨rfl⟩ | exact ⟨rfl⟩) : Within m o (State.wdtKick x0 x1) :=
  .ite (.setSys hx1) (.refuse hx1)

theorem Within.otpStart {x0 : State} (hx0 : Within m o x0)
    (hm : Sub 1 m := by first | exact Sub.le (by assumption) ⟨rfl⟩ | exact ⟨rfl⟩) : Within m o (State.otpStart x0) :=
  .wb hx0

theorem Within.otpInc {x0 : Word} {x1 : State} (hx1 : Within m o x1)
    (hm : Sub 17 m := by first | exact Sub.le (by assumption) ⟨rfl⟩ | exact ⟨rfl⟩) : Within m o (State.otpInc x0 x1) :=
  .ite hx1 (.ite (.refuse hx1) (.ite (.refuse hx1) (.otpStart hx1)))

theorem Within.clkWrite {x0 : Nat} {x1 : Word} {x2 : State} (hx2 : Within m o x2)
    (hm : Sub 18707 m := by first | exact Sub.le (by assumption) ⟨rfl⟩ | exact ⟨rfl⟩) : Within m o (State.clkWrite x0 x1 x2) := by
  unfold State.clkWrite
  extract_lets -merge +onlyGivenNames t0 t1 t3
  have h2 : Within m o (t1) := .writeReg hx2
  clear_value t0 t1 t3
  refine .ite ?_ ?_
  · exact h2
  · extract_lets -merge +onlyGivenNames t4
    clear_value t4
    exact .stepsTo h2

theorem Within.execWdtEnable {x0 : Init} {x1 : Word} {x2 : State} (hx2 : Within m o x2)
    (hm : Sub 268435509 m := by first | exact Sub.le (by assumption) ⟨rfl⟩ | exact ⟨rfl⟩) : WithinOut m o (execWdtEnable x0 x1 x2) := by
  unfold Sys2Proof.Machine.execWdtEnable
  exact .next (.onWrite hx2 (fun h0 => .wdtWrite h0))

theorem Within.ledgerPut {x0 : State} {x1 : List Nat} (hx0 : Within m o x0)
    (hm : Sub 67108865 m := by first | exact Sub.le (by assumption) ⟨rfl⟩ | exact ⟨rfl⟩) : Within m o (State.ledgerPut x0 x1) := by
  unfold State.ledgerPut
  extract_lets -merge +onlyGivenNames t0
  clear_value t0
  split
  · extract_lets -merge +onlyGivenNames t1
    have h2 : Within m o (t1) := .flashOps (.flashErase hx0)
    clear_value t1
    exact .pairWrite h2
  · extract_lets -merge +onlyGivenNames t3
    clear_value t3
    refine .ite ?_ ?_
    · exact .pairWrite (.flashOps hx0)
    · extract_lets -merge +onlyGivenNames t4 t5
      have h6 : Within m o (t5) := .flashOps (.flashErase hx0)
      clear_value t4 t5
      exact .pairWrite h6

theorem Within.execNetPllRetry {x0 : Bool} {x1 : State} (hx1 : Within m o x1)
    (hm : Sub 268454163 m := by first | exact Sub.le (by assumption) ⟨rfl⟩ | exact ⟨rfl⟩) : WithinOut m o (execNetPllRetry x0 x1) := by
  unfold Sys2Proof.Machine.execNetPllRetry
  refine .ite ?_ ?_
  · exact .next hx1
  · extract_lets -merge +onlyGivenNames t0
    have h1 : Within m o (t0) := .foldl (fun h => .limit h) hx1
    clear_value t0
    refine .ite ?_ ?_
    · exact .next (.stepsTo h1)
    · exact .next h1

theorem Within.execStepset {x0 : Init} {x1 : Word} {x2 : State} (hx2 : Within m o x2)
    (hm : Sub 18743 m := by first | exact Sub.le (by assumption) ⟨rfl⟩ | exact ⟨rfl⟩) : WithinOut m o (execStepset x0 x1 x2) := by
  unfold Sys2Proof.Machine.execStepset
  exact .next (.onWrite hx2 (fun h0 => .stepWrite h0))

theorem Within.execClkenWrite {x0 : Init} {x1 : Word} {x2 : State} (hx2 : Within m o x2)
    (hm : Sub 18743 m := by first | exact Sub.le (by assumption) ⟨rfl⟩ | exact ⟨rfl⟩) : WithinOut m o (execClkenWrite x0 x1 x2) := by
  unfold Sys2Proof.Machine.execClkenWrite
  exact .next (.onWrite hx2 (fun h0 => .clkWrite h0))

theorem Within.execStepclr {x0 : Init} {x1 : Word} {x2 : State} (hx2 : Within m o x2)
    (hm : Sub 18743 m := by first | exact Sub.le (by assumption) ⟨rfl⟩ | exact ⟨rfl⟩) : WithinOut m o (execStepclr x0 x1 x2) := by
  unfold Sys2Proof.Machine.execStepclr
  exact .next (.onWrite hx2 (fun h0 => .stepWrite h0))

theorem Within.execRdyenSet {x0 : Init} {x1 : Word} {x2 : State} (hx2 : Within m o x2)
    (hm : Sub 53 m := by first | exact Sub.le (by assumption) ⟨rfl⟩ | exact ⟨rfl⟩) : WithinOut m o (execRdyenSet x0 x1 x2) := by
  unfold Sys2Proof.Machine.execRdyenSet
  exact .next (.onWrite hx2 (fun h0 => .writeReg h0))

theorem Within.execImageVerify {x0 : Bool} {x1 : Fin 8} {x2 : Nat} {x3 : State} (hx3 : Within m o x3)
    (hm : Sub 3670039 m := by first | exact Sub.le (by assumption) ⟨rfl⟩ | exact ⟨rfl⟩) : WithinOut m o (execImageVerify x0 x1 x2 x3) := by
  unfold Sys2Proof.Machine.execImageVerify
  refine .ite ?_ ?_
  · exact .next hx3
  · extract_lets -merge +onlyGivenNames t0
    have h1 : Within m o (t0).1 := .verifyImage hx3
    clear_value t0
    exact .next (.emit h1)

theorem Within.dumpWrite {x0 : State} {x1 : Nat} {x2 : Nat} (hx0 : Within m o x0)
    (hm : Sub 67108865 m := by first | exact Sub.le (by assumption) ⟨rfl⟩ | exact ⟨rfl⟩) : Within m o (State.dumpWrite x0 x1 x2) := by
  unfold State.dumpWrite
  extract_lets -merge +onlyGivenNames t0 t1 t2 t3 t4
  have h5 : Within m o (t4) := .flashProgram (.flashErase hx0)
  clear_value t0 t1 t2 t3 t4
  exact .flashOps (.flashProgram h5)

theorem Within.ledgerWrite {x0 : State} {x1 : List Nat} (hx0 : Within m o x0)
    (hm : Sub 67108865 m := by first | exact Sub.le (by assumption) ⟨rfl⟩ | exact ⟨rfl⟩) : Within m o (State.ledgerWrite x0 x1) := by
  unfold State.ledgerWrite
  extract_lets -merge +onlyGivenNames t0
  clear_value t0
  exact .ite (.otpStart hx0) (.ledgerPut hx0)

theorem Within.execColdResetCmd {x0 : Init} {x1 : BitVec 16} {x2 : State} (hx2 : Within m o x2)
    (hm : Sub 536870911 m := by first | exact Sub.le (by assumption) ⟨rfl⟩ | exact ⟨rfl⟩) : WithinOut m o (execColdResetCmd x0 x1 x2) := by
  unfold Sys2Proof.Machine.execColdResetCmd
  exact .next (.onWrite hx2 (fun h0 => .rstCmd h0))

theorem Within.execResetPin {x0 : State} (hx0 : Within m o x0)
    (hm : Sub 536870911 m := by first | exact Sub.le (by assumption) ⟨rfl⟩ | exact ⟨rfl⟩) : WithinOut m o (execResetPin x0) := by
  unfold Sys2Proof.Machine.execResetPin
  exact .next (.coldReset hx0)

theorem Within.execResetRelease {x0 : Bool} {x1 : State} (hx1 : Within m o x1)
    (hm : Sub 268435456 m := by first | exact Sub.le (by assumption) ⟨rfl⟩ | exact ⟨rfl⟩) : WithinOut m o (execResetRelease x0 x1) := by
  unfold Sys2Proof.Machine.execResetRelease
  refine .ite ?_ ?_
  · exact .next hx1
  · exact .next (.setSys hx1)

theorem Within.execReadinessClear {x0 : Fin 26} {x1 : State} (hx1 : Within m o x1)
    (hm : Sub 18707 m := by first | exact Sub.le (by assumption) ⟨rfl⟩ | exact ⟨rfl⟩) : WithinOut m o (execReadinessClear x0 x1) := by
  unfold Sys2Proof.Machine.execReadinessClear
  exact .next (.stepsTo hx1)

theorem Within.execDumpCopy {x0 : State} (hx0 : Within m o x0)
    (hm : Sub 338690071 m := by first | exact Sub.le (by assumption) ⟨rfl⟩ | exact ⟨rfl⟩) : WithinOut m o (execDumpCopy x0) := by
  simp only [Sys2Proof.Machine.execDumpCopy]
  refine .ite ?_ ?_
  · exact .next hx0
  · exact .next (.wb (.ite (.ite (.drcAccept (.setSys hx0)) (.setSys hx0)) (.ite (.ledgerWrite (.ite (.drcAccept (.setSys hx0)) (.setSys hx0))) (.dumpWrite (.ite (.drcAccept (.setSys hx0)) (.setSys hx0))))))

theorem Within.execReadinessSet {x0 : Fin 26} {x1 : State} (hx1 : Within m o x1)
    (hm : Sub 18707 m := by first | exact Sub.le (by assumption) ⟨rfl⟩ | exact ⟨rfl⟩) : WithinOut m o (execReadinessSet x0 x1) := by
  unfold Sys2Proof.Machine.execReadinessSet
  exact .next (.stepsTo hx1)

theorem Within.execPowerOnReset {x0 : State} (hx0 : Within m o x0)
    (hm : Sub 536870911 m := by first | exact Sub.le (by assumption) ⟨rfl⟩ | exact ⟨rfl⟩) : WithinOut m o (execPowerOnReset x0) := by
  unfold Sys2Proof.Machine.execPowerOnReset
  exact .next (.coldReset hx0)

theorem Within.execWarmResetCmd {x0 : Init} {x1 : BitVec 16} {x2 : State} (hx2 : Within m o x2)
    (hm : Sub 536870911 m := by first | exact Sub.le (by assumption) ⟨rfl⟩ | exact ⟨rfl⟩) : WithinOut m o (execWarmResetCmd x0 x1 x2) := by
  unfold Sys2Proof.Machine.execWarmResetCmd
  exact .next (.onWrite hx2 (fun h0 => .rstCmd h0))

theorem Within.execWatchdogExpiry {x0 : State} (hx0 : Within m o x0)
    (hm : Sub 536870911 m := by first | exact Sub.le (by assumption) ⟨rfl⟩ | exact ⟨rfl⟩) : WithinOut m o (execWatchdogExpiry x0) := by
  unfold Sys2Proof.Machine.execWatchdogExpiry
  refine .ite ?_ ?_
  · exact .next (.warmReset hx0)
  · exact .next hx0

theorem Within.execWdtKick {x0 : Init} {x1 : Word} {x2 : State} (hx2 : Within m o x2)
    (hm : Sub 268435509 m := by first | exact Sub.le (by assumption) ⟨rfl⟩ | exact ⟨rfl⟩) : WithinOut m o (execWdtKick x0 x1 x2) := by
  unfold Sys2Proof.Machine.execWdtKick
  exact .next (.onWrite hx2 (fun h0 => .wdtKick h0))

theorem Within.execRefValid {x0 : State} (hx0 : Within m o x0)
    (hm : Sub 268454163 m := by first | exact Sub.le (by assumption) ⟨rfl⟩ | exact ⟨rfl⟩) : WithinOut m o (execRefValid x0) := by
  unfold Sys2Proof.Machine.execRefValid
  refine .ite ?_ ?_
  · exact .next hx0
  · exact .next (.stepsTo (.setSys hx0))

theorem Within.execRecoveryImage {x0 : List (BitVec 8)} {x1 : State} (hx1 : Within m o x1)
    (hm : Sub 272105491 m := by first | exact Sub.le (by assumption) ⟨rfl⟩ | exact ⟨rfl⟩) : WithinOut m o (execRecoveryImage x0 x1) := by
  unfold Sys2Proof.Machine.execRecoveryImage
  extract_lets -merge +onlyGivenNames t0 t1
  clear_value t0 t1
  refine .ite ?_ ?_
  · exact .next hx1
  · refine .ite ?_ ?_
    · exact .next (.setSys hx1)
    · extract_lets -merge +onlyGivenNames t2
      have h3 : Within m o (t2).1 := .verifyImage hx1
      clear_value t2
      refine .ite ?_ ?_
      · exact .next (.mc5Runs (.setSys h3))
      · exact .next (.setSys h3)

theorem Within.execLedgerWrite {x0 : List (BitVec 32)} {x1 : State} (hx1 : Within m o x1)
    (hm : Sub 67108865 m := by first | exact Sub.le (by assumption) ⟨rfl⟩ | exact ⟨rfl⟩) : WithinOut m o (execLedgerWrite x0 x1) := by
  unfold Sys2Proof.Machine.execLedgerWrite
  refine .ite ?_ ?_
  · exact .next (.ledgerWrite hx1)
  · exact .next hx1

theorem Within.execOtpcntInc {x0 : Init} {x1 : Word} {x2 : State} (hx2 : Within m o x2)
    (hm : Sub 53 m := by first | exact Sub.le (by assumption) ⟨rfl⟩ | exact ⟨rfl⟩) : WithinOut m o (execOtpcntInc x0 x1 x2) := by
  unfold Sys2Proof.Machine.execOtpcntInc
  exact .next (.onWrite hx2 (fun h0 => .otpInc h0))

theorem Within.execOtpFuseDone {x0 : State} (hx0 : Within m o x0)
    (hm : Sub 1 m := by first | exact Sub.le (by assumption) ⟨rfl⟩ | exact ⟨rfl⟩) : WithinOut m o (execOtpFuseDone x0) := by
  unfold Sys2Proof.Machine.execOtpFuseDone
  refine .ite ?_ ?_
  · exact .next (.wb (.wf hx0))
  · exact .next hx0

theorem Within.execSysAccerrPop {x0 : Init} {x1 : State} (hx1 : Within m o x1)
    (hm : Sub 53 m := by first | exact Sub.le (by assumption) ⟨rfl⟩ | exact ⟨rfl⟩) : WithinOut m o (execSysAccerrPop x0 x1) := by
  unfold Sys2Proof.Machine.execSysAccerrPop
  exact .next (.onRead hx1 (fun h0 => .accPop h0))

theorem Within.execSupplyOutOfRange {x0 : Fin 4} {x1 : State} (hx1 : Within m o x1)
    (hm : Sub 268435473 m := by first | exact Sub.le (by assumption) ⟨rfl⟩ | exact ⟨rfl⟩) : WithinOut m o (execSupplyOutOfRange x0 x1) := by
  unfold Sys2Proof.Machine.execSupplyOutOfRange
  refine .ite ?_ ?_
  · exact .next hx1
  · exact .next (.raise (.setSys hx1))

theorem Within.execSupplyBackInRange {x0 : State} (hx0 : Within m o x0)
    (hm : Sub 268435456 m := by first | exact Sub.le (by assumption) ⟨rfl⟩ | exact ⟨rfl⟩) : WithinOut m o (execSupplyBackInRange x0) := by
  unfold Sys2Proof.Machine.execSupplyBackInRange
  exact .next (.setSys hx0)

/-! Ppe -/

theorem Within.execPpeCounterRead {x0 : Init} {x1 : Fin 2048} {x2 : Bool} {x3 : State} (hx3 : Within m o x3)
    (hm : Sub 53 m := by first | exact Sub.le (by assumption) ⟨rfl⟩ | exact ⟨rfl⟩) : WithinOut m o (execPpeCounterRead x0 x1 x2 x3) := by
  unfold Sys2Proof.Machine.execPpeCounterRead
  extract_lets -merge +onlyGivenNames t0
  clear_value t0
  exact .next (.onRead hx3 (fun h1 => by
    extract_lets -merge +onlyGivenNames t2
    clear_value t2
    exact .answer (.setRegN h1)))

theorem Within.setPpe {x0 : State} {x1 : PpeSt → PpeSt} (hx0 : Within m o x0)
    (hm : Sub 32768 m := by first | exact Sub.le (by assumption) ⟨rfl⟩ | exact ⟨rfl⟩) : Within m o (State.setPpe x0 x1) :=
  .in_ppe hx0

theorem Within.execFenceStart {x0 : Init} {x1 : Word} {x2 : State} (hx2 : Within m o x2)
    (hm : Sub 32821 m := by first | exact Sub.le (by assumption) ⟨rfl⟩ | exact ⟨rfl⟩) : WithinOut m o (execFenceStart x0 x1 x2) := by
  unfold Sys2Proof.Machine.execFenceStart
  exact .next (.onWrite hx2 (fun h0 => .ite h0 (.wb (.wb (.setPpe h0)))))

theorem Within.updStart {x0 : State} {x1 : Init} {x2 : Nat} {x3 : Bool} {x4 : Nat} (hx0 : Within m o x0)
    (hm : Sub 32821 m := by first | exact Sub.le (by assumption) ⟨rfl⟩ | exact ⟨rfl⟩) : Within m o (State.updStart x0 x1 x2 x3 x4) :=
  .onWrite hx0 (fun h0 => .ite (.refuse h0) (.wb (.wb (.setPpe h0))))

theorem Within.execPipeTabWrite {x0 : Init} {x1 : Fin 32} {x2 : Word} {x3 : State} (hx3 : Within m o x3)
    (hm : Sub 32821 m := by first | exact Sub.le (by assumption) ⟨rfl⟩ | exact ⟨rfl⟩) : WithinOut m o (execPipeTabWrite x0 x1 x2 x3) := by
  unfold Sys2Proof.Machine.execPipeTabWrite
  exact .next (.onWrite hx3 (fun h0 => .setPpe h0))

theorem Within.ppeSync {x0 : State} (hx0 : Within m o x0)
    (hm : Sub 1 m := by first | exact Sub.le (by assumption) ⟨rfl⟩ | exact ⟨rfl⟩) : Within m o (State.ppeSync x0) :=
  .wb hx0

theorem Within.ppeResult {x0 : State} {x1 : Nat} {x2 : Option Nat} (hx0 : Within m o x0)
    (hm : Sub 36864 m := by first | exact Sub.le (by assumption) ⟨rfl⟩ | exact ⟨rfl⟩) : Within m o (State.ppeResult x0 x1 x2) := by
  unfold State.ppeResult
  refine .ite ?_ ?_
  · exact .setPpe hx0
  · split
    · exact .setPkt hx0
    · exact hx0

theorem Within.ppeDrop {x0 : State} {x1 : Nat} (hx0 : Within m o x0)
    (hm : Sub 36865 m := by first | exact Sub.le (by assumption) ⟨rfl⟩ | exact ⟨rfl⟩) : Within m o (State.ppeDrop x0 x1) :=
  .dropFrame (.ppeResult hx0)

theorem Within.ppePunt {x0 : State} {x1 : PpeRun} {x2 : Nat} {x3 : Nat} (hx0 : Within m o x0)
    (hm : Sub 36866 m := by first | exact Sub.le (by assumption) ⟨rfl⟩ | exact ⟨rfl⟩) : Within m o (State.ppePunt x0 x1 x2 x3) :=
  .ppeResult (.setWords hx0)

theorem Within.ppeCrypt {x0 : State} {x1 : PpeRun} {x2 : Nat} (hx0 : Within m o x0)
    (hm : Sub 294913 m := by first | exact Sub.le (by assumption) ⟨rfl⟩ | exact ⟨rfl⟩) : Within m o (State.ppeCrypt x0 x1 x2) :=
  .espStart (.setPpe hx0)

theorem Within.flowCount {x0 : State} {x1 : PpeRun} (hx0 : Within m o x0)
    (hm : Sub 32768 m := by first | exact Sub.le (by assumption) ⟨rfl⟩ | exact ⟨rfl⟩) : Within m o (State.flowCount x0 x1) := by
  unfold State.flowCount
  extract_lets -merge +onlyGivenNames t0 t1 t2
  clear_value t0 t1 t2
  exact .setPpe hx0

theorem Within.ppeStore {x0 : State} {x1 : PpeRun} (hx0 : Within m o x0)
    (hm : Sub 36866 m := by first | exact Sub.le (by assumption) ⟨rfl⟩ | exact ⟨rfl⟩) : Within m o (State.ppeStore x0 x1) := by
  unfold State.ppeStore
  split
  · exact hx0
  · extract_lets -merge +onlyGivenNames t0 t1 t2 t4 t5 t7
    have h3 : Within m o (t2).1 := .takeCells hx0
    have h6 : Within m o (t5) := .setFrame h3
    have h8 : Within m o (t7) := .ite (.setFrameBytes h6) h6
    clear_value t0 t1 t2 t4 t5 t7
    exact .ppeResult (.setWords h8)

theorem Within.ppeFinish {x0 : State} {x1 : PpeRun} (hx0 : Within m o x0)
    (hm : Sub 36883 m := by first | exact Sub.le (by assumption) ⟨rfl⟩ | exact ⟨rfl⟩) : Within m o (State.ppeFinish x0 x1) := by
  unfold State.ppeFinish
  split
  · exact hx0
  · extract_lets -merge +onlyGivenNames t0
    clear_value t0
    refine .ite ?_ ?_
    · exact .ppeDrop (.bump hx0)
    · refine .ite ?_ ?_
      · exact .ppeStore hx0
      · split
        · exact .ppeStore ((Within.charge hx0) _ (by assumption))
        · exact .setPpe (.countRefused hx0)

theorem Within.dispose {x0 : State → PpeRun → State} {x1 : State} {x2 : PpeRun} (hx0 : ∀ {y0} {y1}, Within m o y0 → Within m o (x0 y0 y1)) (hx1 : Within m o x1)
    (hm : Sub 36883 m := by first | exact Sub.le (by assumption) ⟨rfl⟩ | exact ⟨rfl⟩) : Within m o (State.dispose x0 x1 x2) := by
  unfold State.dispose
  extract_lets -merge +onlyGivenNames t0 t1
  clear_value t0
  exact .ite (hx0 hx1) (.ite (.ppeDrop (.bump hx1)) (.ite (.ppeFinish hx1) (.ite (.ppeFinish hx1) (.ppeFinish hx1))))

theorem Within.ppeTail {x0 : State → PpeRun → State} {x1 : State} {x2 : PpeRun} (hx0 : ∀ {y0} {y1}, Within m o y0 → Within m o (x0 y0 y1)) (hx1 : Within m o x1)
    (hm : Sub 36883 m := by first | exact Sub.le (by assumption) ⟨rfl⟩ | exact ⟨rfl⟩) : Within m o (State.ppeTail x0 x1 x2) := by
  unfold State.ppeTail
  extract_lets -merge +onlyGivenNames t0 t1 t2 t3 t5
  have h4 : Within m o (t3).1 := by
    unfold t3
    clear_value t0 t1 t2
    refine .iteP ?_ ?_
    · exact hx1
    · split
      · exact hx1
      · exact .bump hx1
  have h6 : Within m o (t5) := .ite (.flowCount h4) h4
  clear_value t0 t1 t2 t3 t5
  exact .dispose hx0 h6

theorem Within.ppeMiddle {x0 : State → PpeRun → State} {x1 : State} {x2 : PpeRun} (hx0 : ∀ {y0} {y1}, Within m o y0 → Within m o (x0 y0 y1)) (hx1 : Within m o x1)
    (hm : Sub 299027 m := by first | exact Sub.le (by assumption) ⟨rfl⟩ | exact ⟨rfl⟩) : Within m o (State.ppeMiddle x0 x1 x2) := by
  simp only [State.ppeMiddle]
  split
  · exact .ite (.ite (.ppeCrypt hx1) (.ppeTail hx0 hx1)) (.ite (.ppePunt hx1) (.ite (.ppePunt hx1) (.ite (.ppeCrypt hx1) (.ppeTail hx0 hx1))))
  · exact .ite (.ppeCrypt hx1) (.ppeTail hx0 hx1)

theorem Within.puntAsIs {x0 : State} {x1 : PpeRun} (hx0 : Within m o x0)
    (hm : Sub 36883 m := by first | exact Sub.le (by assumption) ⟨rfl⟩ | exact ⟨rfl⟩) : Within m o (State.puntAsIs x0 x1) :=
  .ppeFinish hx0

theorem Within.lookup {x0 : State} {x1 : Nat} {x2 : List Byte} (hx0 : Within m o x0)
    (hm : Sub 3145745 m := by first | exact Sub.le (by assumption) ⟨rfl⟩ | exact ⟨rfl⟩) : Within m o (State.lookup x0 x1 x2).1 := by
  unfold State.lookup
  extract_lets -merge +onlyGivenNames t0 t1 t2 t3 t4
  clear_value t0 t1 t2 t3 t4
  split
  · exact .ite hx0 (.raise (.bump hx0))
  · refine .iteP ?_ ?_
    · exact hx0
    · extract_lets -merge +onlyGivenNames t5
      clear_value t5
      refine .iteP ?_ ?_
      · exact .raise (.bump (.eccRead hx0))
      · exact hx0

theorem Within.hitStamp {x0 : State} {x1 : Nat} {x2 : Bool} (hx0 : Within m o x0)
    (hm : Sub 2 m := by first | exact Sub.le (by assumption) ⟨rfl⟩ | exact ⟨rfl⟩) : Within m o (State.hitStamp x0 x1 x2) := by
  unfold State.hitStamp
  extract_lets -merge +onlyGivenNames t0 t1 t2
  clear_value t0 t1 t2
  exact .ite (.ite (.write32 hx0) hx0) (.ite hx0 (.write32 hx0))

theorem Within.mirror {x0 : State} {x1 : PpeRun} (hx0 : Within m o x0)
    (hm : Sub 4115 m := by first | exact Sub.le (by assumption) ⟨rfl⟩ | exact ⟨rfl⟩) : Within m o (State.mirror x0 x1) := by
  unfold State.mirror
  split
  · exact hx0
  · extract_lets -merge +onlyGivenNames t0 t1
    clear_value t0 t1
    split
    · exact .bump (.countRefused hx0)
    · extract_lets -merge +onlyGivenNames t2 t4
      have h3 : Within m o (t2).1 := .putFrame ((Within.charge hx0) _ (by assumption))
      have h5 : Within m o (t4) := .setWords h3
      clear_value t2 t4
      exact .setPkt h5

theorem Within.ppeAction {x0 : State → PpeRun → State} {x1 : State} {x2 : PpeRun} (hx0 : ∀ {y0} {y1}, Within m o y0 → Within m o (x0 y0 y1)) (hx1 : Within m o x1)
    (hm : Sub 299027 m := by first | exact Sub.le (by assumption) ⟨rfl⟩ | exact ⟨rfl⟩) : Within m o (State.ppeAction x0 x1 x2) := by
  unfold State.ppeAction
  extract_lets -merge +onlyGivenNames t0 t1 t2
  clear_value t0 t1 t2
  refine .ite ?_ ?_
  · exact .ppePunt (.bump hx1)
  · extract_lets -merge +onlyGivenNames t3 t5 t6
    have h4 : Within m o (t3) := .ite (.mirror hx1) hx1
    clear_value t3 t5 t6
    exact .ite (.ppeCrypt h4) (.ppeMiddle hx0 h4)

theorem Within.classify {x0 : State → PpeRun → State} {x1 : State} {x2 : Nat} {x3 : Nat} {x4 : Bool} {x5 : List Byte} (hx0 : ∀ {y0} {y1}, Within m o y0 → Within m o (x0 y0 y1)) (hx1 : Within m o x1)
    (hm : Sub 3444755 m := by first | exact Sub.le (by assumption) ⟨rfl⟩ | exact ⟨rfl⟩) : Within m o (State.classify x0 x1 x2 x3 x4 x5) := by
  unfold State.classify
  extract_lets -merge +onlyGivenNames t0 t1 t2 t3
  have h4 : Within m o (t3) := .ite (.bump hx1) hx1
  clear_value t0 t1 t2 t3
  refine .ite ?_ ?_
  · extract_lets -merge +onlyGivenNames t5
    have h6 : Within m o (t5) := .bump h4
    clear_value t5
    exact .ite (.ppePunt h6) (.ppeDrop h6)
  · refine .ite ?_ ?_
    · extract_lets -merge +onlyGivenNames t7
      have h8 : Within m o (t7) := .bump h4
      clear_value t7
      exact .ite (.ppePunt h8) (.ppeDrop h8)
    · split
      · exact .ppePunt (.bump h4)
      · split
        · exact .ppePunt (.bump h4)
        · extract_lets -merge +onlyGivenNames t9 t10 t11
          have h12 : Within m o (t11).1 := .lookup h4
          clear_value t9 t10 t11
          split
          · exact .ppePunt (.bump h12)
          · extract_lets -merge +onlyGivenNames t13 t14 t16
            have h15 : Within m o (t14) := .hitStamp (.bump h12)
            clear_value t13 t14 t16
            exact .ppeAction hx0 h15

theorem Within.recirculate {x0 : State} {x1 : PpeRun} (hx0 : Within m o x0)
    (hm : Sub 3444755 m := by first | exact Sub.le (by assumption) ⟨rfl⟩ | exact ⟨rfl⟩) : Within m o (State.recirculate x0 x1) :=
  .classify (fun h0 => .puntAsIs h0) (.bump hx0)

theorem Within.againOf {x1 : State} {x0 x2 : PpeRun} (hx1 : Within m o x1) (hm : Sub 3444755 m := by first | exact Sub.le (by assumption) ⟨rfl⟩ | exact ⟨rfl⟩) : Within m o (State.againOf x0 x1 x2) := by
  unfold State.againOf
  split
  · exact .puntAsIs hx1
  · exact .recirculate hx1

theorem Within.execEspResult {x0 : State} (hx0 : Within m o x0)
    (hm : Sub 3444755 m := by first | exact Sub.le (by assumption) ⟨rfl⟩ | exact ⟨rfl⟩) : WithinOut m o (execEspResult x0) := by
  unfold Sys2Proof.Machine.execEspResult
  split
  · exact .next hx0
  · extract_lets -merge +onlyGivenNames t0
    have h1 : Within m o (t0) := .setCry hx0
    clear_value t0
    split
    · exact .next h1
    · extract_lets -merge +onlyGivenNames t2
      have h3 : Within m o (t2) := .setPpe h1
      clear_value t2
      refine .ite ?_ ?_
      · exact .next (.ppeSync (.ppeDrop (.raise (.bump h3))))
      · extract_lets -merge +onlyGivenNames t4
        clear_value t4
        exact .next (.ppeSync (.ite (.ppeMiddle (fun h5 => .againOf h5) h3) (.ppeTail (fun h6 => .againOf h6) h3)))

theorem Within.updRun {x0 : State} {x1 : Nat} {x2 : Bool} {x3 : Nat} (hx0 : Within m o x0)
    (hm : Sub 3 m := by first | exact Sub.le (by assumption) ⟨rfl⟩ | exact ⟨rfl⟩) : Within m o (State.updRun x0 x1 x2 x3).1 := by
  unfold State.updRun
  extract_lets -merge +onlyGivenNames t0 t1 t2
  clear_value t0 t1 t2
  refine .iteP ?_ ?_
  · refine .iteP ?_ ?_
    · exact hx0
    · exact .setRegN (.setRegN hx0)
  · refine .iteP ?_ ?_
    · exact hx0
    · refine .iteP ?_ ?_
      · extract_lets -merge +onlyGivenNames t3
        clear_value t3
        refine .iteP ?_ ?_
        · exact hx0
        · exact .setWords hx0
      · refine .iteP ?_ ?_
        · exact hx0
        · exact .setWords hx0

theorem Within.execUpdComplete {x0 : State} (hx0 : Within m o x0)
    (hm : Sub 32787 m := by first | exact Sub.le (by assumption) ⟨rfl⟩ | exact ⟨rfl⟩) : WithinOut m o (execUpdComplete x0) := by
  unfold Sys2Proof.Machine.execUpdComplete
  split
  · exact .next hx0
  · extract_lets -merge +onlyGivenNames t0 t2 t4
    have h1 : Within m o (t0).1 := .updRun hx0
    have h3 : Within m o (t2) := .wb (.setPpe h1)
    have h5 : Within m o (t4) := .wb (.wf h3)
    clear_value t0 t2 t4
    exact .next (.ite h5 (.raise h5))

theorem Within.execMissAlarm {x0 : Nat} {x1 : State} (hx1 : Within m o x1)
    (hm : Sub 17 m := by first | exact Sub.le (by assumption) ⟨rfl⟩ | exact ⟨rfl⟩) : WithinOut m o (execMissAlarm x0 x1) := by
  unfold Sys2Proof.Machine.execMissAlarm
  refine .ite ?_ ?_
  · exact .next (.raise hx1)
  · exact .next hx1

theorem Within.execLegacyReorderRelease {x0 : State} (hx0 : Within m o x0)
    (hm : Sub 36865 m := by first | exact Sub.le (by assumption) ⟨rfl⟩ | exact ⟨rfl⟩) : WithinOut m o (execLegacyReorderRelease x0) := by
  unfold Sys2Proof.Machine.execLegacyReorderRelease
  split
  · exact .next hx0
  · extract_lets -merge +onlyGivenNames t0
    have h1 : Within m o (t0) := .setPpe hx0
    clear_value t0
    split
    · exact .next (.ppeSync (.setPkt h1))
    · exact .next (.ppeSync h1)

theorem Within.execOddAlarm {x0 : Nat} {x1 : State} (hx1 : Within m o x1)
    (hm : Sub 17 m := by first | exact Sub.le (by assumption) ⟨rfl⟩ | exact ⟨rfl⟩) : WithinOut m o (execOddAlarm x0 x1) := by
  unfold Sys2Proof.Machine.execOddAlarm
  refine .ite ?_ ?_
  · exact .next (.raise hx1)
  · exact .next hx1

theorem Within.execUpdClear {x0 : Init} {x1 : Bool} {x2 : BitVec 24} {x3 : State} (hx3 : Within m o x3)
    (hm : Sub 32821 m := by first | exact Sub.le (by assumption) ⟨rfl⟩ | exact ⟨rfl⟩) : WithinOut m o (execUpdClear x0 x1 x2 x3) := by
  unfold Sys2Proof.Machine.execUpdClear
  exact .next (.updStart hx3)

theorem Within.execPacketClassify {x0 : State} (hx0 : Within m o x0)
    (hm : Sub 3444755 m := by first | exact Sub.le (by assumption) ⟨rfl⟩ | exact ⟨rfl⟩) : WithinOut m o (execPacketClassify x0) := by
  unfold Sys2Proof.Machine.execPacketClassify
  split
  · exact .next hx0
  · refine .ite ?_ ?_
    · exact .next hx0
    · extract_lets -merge +onlyGivenNames t0 t2 t3
      have h1 : Within m o (t0) := .bump (.setPkt hx0)
      have h4 : Within m o (t3) := .ite (.setPpe h1) h1
      clear_value t0 t2 t3
      exact .next (.ppeSync (.classify (fun h5 => .recirculate h5) h4))

theorem Within.execFenceDone {x0 : State} (hx0 : Within m o x0)
    (hm : Sub 32769 m := by first | exact Sub.le (by assumption) ⟨rfl⟩ | exact ⟨rfl⟩) : WithinOut m o (execFenceDone x0) := by
  unfold Sys2Proof.Machine.execFenceDone
  split
  · exact .next hx0
  · refine .ite ?_ ?_
    · exact .next hx0
    · exact .next (.wb (.wb (.setPpe hx0)))

theorem Within.execRewriteUnitsGrant {x0 : State} (hx0 : Within m o x0)
    (hm : Sub 36883 m := by first | exact Sub.le (by assumption) ⟨rfl⟩ | exact ⟨rfl⟩) : WithinOut m o (execRewriteUnitsGrant x0) := by
  unfold Sys2Proof.Machine.execRewriteUnitsGrant
  split
  · exact .next hx0
  · split
    · exact .next hx0
    · split
      · exact .next hx0
      · exact .next (.ppeSync (.ppeStore (.setPpe ((Within.charge hx0) _ (by assumption)))))

theorem Within.execPipeTabApply {x0 : State} (hx0 : Within m o x0)
    (hm : Sub 32769 m := by first | exact Sub.le (by assumption) ⟨rfl⟩ | exact ⟨rfl⟩) : WithinOut m o (execPipeTabApply x0) := by
  unfold Sys2Proof.Machine.execPipeTabApply
  split
  · exact .next hx0
  · exact .next (.setReg (.setPpe hx0))

theorem Within.execUpdWrite {x0 : Init} {x1 : Bool} {x2 : BitVec 24} {x3 : State} (hx3 : Within m o x3)
    (hm : Sub 32821 m := by first | exact Sub.le (by assumption) ⟨rfl⟩ | exact ⟨rfl⟩) : WithinOut m o (execUpdWrite x0 x1 x2 x3) := by
  unfold Sys2Proof.Machine.execUpdWrite
  exact .next (.updStart hx3)

theorem Within.execUpdHash {x0 : Init} {x1 : Bool} {x2 : BitVec 24} {x3 : State} (hx3 : Within m o x3)
    (hm : Sub 32821 m := by first | exact Sub.le (by assumption) ⟨rfl⟩ | exact ⟨rfl⟩) : WithinOut m o (execUpdHash x0 x1 x2 x3) := by
  unfold Sys2Proof.Machine.execUpdHash
  exact .next (.updStart hx3)

/-! Tmg -/

theorem Within.shaperSync {x0 : State} {x1 : Shaper} (hx0 : Within m o x0)
    (hm : Sub 4097 m := by first | exact Sub.le (by assumption) ⟨rfl⟩ | exact ⟨rfl⟩) : Within m o (State.shaperSync x0 x1) := by
  unfold State.shaperSync
  refine .ite ?_ ?_
  · extract_lets -merge +onlyGivenNames t0
    have h1 : Within m o (t0).1 := .refill hx0
    clear_value t0
    exact .setRegI h1
  · exact .setPkt (.setRegN hx0)

theorem Within.portSync {x0 : State} {x1 : Nat} (hx0 : Within m o x0)
    (hm : Sub 4097 m := by first | exact Sub.le (by assumption) ⟨rfl⟩ | exact ⟨rfl⟩) : Within m o (State.portSync x0 x1) := by
  unfold State.portSync
  extract_lets -merge +onlyGivenNames t0 t1 t2 t4
  have h3 : Within m o (t2) := .foldl .shaperSync hx0
  have h5 : Within m o (t4) := .foldl .shaperSync h3
  clear_value t0 t1 t2 t4
  exact .shaperSync h5

theorem Within.ringWrite {x0 : State} {x1 : Nat} {x2 : Nat} {x3 : Nat} {x4 : Nat} {x5 : Word} (hx0 : Within m o x0)
    (hm : Sub 17 m := by first | exact Sub.le (by assumption) ⟨rfl⟩ | exact ⟨rfl⟩) : Within m o (State.ringWrite x0 x1 x2 x3 x4 x5) := by
  unfold State.ringWrite
  extract_lets -merge +onlyGivenNames t0 t1
  clear_value t0 t1
  exact .ite (.refuse hx0) (.ite (.refuse hx0) (.ite (.refuse hx0) (.ite (.setReg hx0) (.ite (.setReg hx0) (.setReg hx0)))))

theorem Within.execRingConfigWrite {x0 : Init} {x1 : Bool} {x2 : Fin 16} {x3 : Fin 3} {x4 : Word} {x5 : State} (hx5 : Within m o x5)
    (hm : Sub 53 m := by first | exact Sub.le (by assumption) ⟨rfl⟩ | exact ⟨rfl⟩) : WithinOut m o (execRingConfigWrite x0 x1 x2 x3 x4 x5) := by
  unfold Sys2Proof.Machine.execRingConfigWrite
  extract_lets -merge +onlyGivenNames t0
  clear_value t0
  refine .ite ?_ ?_
  · exact .next (.onWrite hx5 (fun h1 => h1))
  · exact .next (.onWrite hx5 (fun h2 => .ringWrite h2))

theorem Within.setQDeficit {x0 : State} {x1 : Nat} {x2 : Int} (hx0 : Within m o x0)
    (hm : Sub 2 m := by first | exact Sub.le (by assumption) ⟨rfl⟩ | exact ⟨rfl⟩) : Within m o (State.setQDeficit x0 x1 x2) :=
  .setQd hx0

theorem Within.setDrr {x0 : State} {x1 : Nat} {x2 : List Nat} (hx0 : Within m o x0)
    (hm : Sub 4096 m := by first | exact Sub.le (by assumption) ⟨rfl⟩ | exact ⟨rfl⟩) : Within m o (State.setDrr x0 x1 x2) :=
  .setPkt hx0

theorem Within.pickQueue {x0 : Nat} {x1 : Nat} {x2 : Nat} {x3 : State} (hx3 : Within m o x3)
    (hm : Sub 4098 m := by first | exact Sub.le (by assumption) ⟨rfl⟩ | exact ⟨rfl⟩) : WithinOpt1 m o (State.pickQueue x0 x1 x2 x3) := by
  induction x2 generalizing x0 x1 x3 with
  | zero =>
    exact .none
  | succ n ih =>
    rw [State.pickQueue]
    split
    · exact .none
    · extract_lets -merge +onlyGivenNames t0 t1
      clear_value t0 t1
      refine .ite ?_ ?_
      · exact .some (.setQDeficit hx3)
      · extract_lets -merge +onlyGivenNames t2
        have h3 : Within m o (t2) := .setQDeficit hx3
        clear_value t2
        exact ih (.setDrr h3)

theorem Within.setCDeficit {x0 : State} {x1 : Nat} {x2 : Nat} {x3 : Int} (hx0 : Within m o x0)
    (hm : Sub 4096 m := by first | exact Sub.le (by assumption) ⟨rfl⟩ | exact ⟨rfl⟩) : Within m o (State.setCDeficit x0 x1 x2 x3) :=
  .setPkt hx0

theorem Within.pickClass {x0 : Nat} {x1 : Nat} {x2 : State} (hx2 : Within m o x2)
    (hm : Sub 4098 m := by first | exact Sub.le (by assumption) ⟨rfl⟩ | exact ⟨rfl⟩) : WithinOpt1 m o (State.pickClass x0 x1 x2) := by
  induction x1 generalizing x0 x2 with
  | zero =>
    exact .none
  | succ n ih =>
    rw [State.pickClass]
    split
    · exact .none
    · split
      · exact .none
      · extract_lets -merge +onlyGivenNames t0 t1
        clear_value t0 t1
        refine .ite ?_ ?_
        · exact .some (.setCDeficit ((Within.pickQueue hx2) _ (by assumption)))
        · extract_lets -merge +onlyGivenNames t2
          have h3 : Within m o (t2) := .setCDeficit hx2
          clear_value t2
          exact ih (.setDrr h3)

theorem Within.drrPort {x0 : State} {x1 : Nat} (hx0 : Within m o x0)
    (hm : Sub 4096 m := by first | exact Sub.le (by assumption) ⟨rfl⟩ | exact ⟨rfl⟩) : Within m o (State.drrPort x0 x1) := by
  unfold State.drrPort
  extract_lets -merge +onlyGivenNames t0 t1 t2 t3 t4 t5
  have h6 : Within m o (t5) := .foldl (fun h => .setCDeficit h) hx0
  clear_value t0 t1 t2 t3 t4 t5
  exact .setDrr h6

theorem Within.shaperCharge {x0 : State} {x1 : Shaper} {x2 : Int} (hx0 : Within m o x0)
    (hm : Sub 1 m := by first | exact Sub.le (by assumption) ⟨rfl⟩ | exact ⟨rfl⟩) : Within m o (State.shaperCharge x0 x1 x2) :=
  .ite (.setRegI hx0) hx0

theorem Within.dequeue {x0 : State} {x1 : Nat} {x2 : Frame} (hx0 : Within m o x0)
    (hm : Sub 4099 m := by first | exact Sub.le (by assumption) ⟨rfl⟩ | exact ⟨rfl⟩) : Within m o (State.dequeue x0 x1 x2) := by
  unfold State.dequeue
  extract_lets -merge +onlyGivenNames t0 t1 t2 t3 t5 t7 t9 t10 t12 t14
  have h4 : Within m o (t3) := .setQueue hx0
  have h6 : Within m o (t5) := .setQd h4
  have h8 : Within m o (t7) := .ite (.drrLeave h6) h6
  have h11 : Within m o (t10) := .setPkt h8
  have h13 : Within m o (t12) := .ite h11 (.reportOut h11)
  clear_value t0 t1 t2 t3 t5 t7 t9 t10 t12 t14
  exact .bump (.foldl (fun h => .shaperCharge h) h13)

theorem Within.smpRecord {x0 : State} {x1 : Nat} {x2 : List Word} (hx0 : Within m o x0)
    (hm : Sub 3 m := by first | exact Sub.le (by assumption) ⟨rfl⟩ | exact ⟨rfl⟩) : Within m o (State.smpRecord x0 x1 x2).1 := by
  unfold State.smpRecord
  extract_lets -merge +onlyGivenNames t0
  clear_value t0
  refine .iteP ?_ ?_
  · extract_lets -merge +onlyGivenNames t1
    clear_value t1
    exact .setRegN (.setWords hx0)
  · exact .bump hx0

theorem Within.smpRing {x0 : State} {x1 : Nat} (hx0 : Within m o x0)
    (hm : Sub 4099 m := by first | exact Sub.le (by assumption) ⟨rfl⟩ | exact ⟨rfl⟩) : Within m o (State.smpRing x0 x1).1 := by
  simp only [State.smpRing]
  refine .iteP ?_ ?_
  · exact hx0
  · exact .foldlP (fun h => by
      exact .setPkt (.smpRecord h)) (.smpRecord hx0)

theorem Within.execSampleRound {x0 : State} (hx0 : Within m o x0)
    (hm : Sub 4115 m := by first | exact Sub.le (by assumption) ⟨rfl⟩ | exact ⟨rfl⟩) : WithinOut m o (execSampleRound x0) := by
  unfold Sys2Proof.Machine.execSampleRound
  refine .ite ?_ ?_
  · exact .next hx0
  · extract_lets -merge +onlyGivenNames t0
    have h3 : Within m o (t0).1 := by
      unfold t0
      exact .foldlP (fun h => by
        extract_lets -merge +onlyGivenNames t1
        have h2 : Within m o (t1).1 := .smpRing h
        clear_value t1
        exact h2) hx0
    clear_value t0
    exact .next (.ite (.raise h3) h3)

theorem Within.stageDirect {x0 : State} {x1 : Nat} {x2 : Frame} (hx0 : Within m o x0)
    (hm : Sub 5377 m := by first | exact Sub.le (by assumption) ⟨rfl⟩ | exact ⟨rfl⟩) : Within m o (State.stageDirect x0 x1 x2) := by
  unfold State.stageDirect
  extract_lets -merge +onlyGivenNames t0 t1
  clear_value t0 t1
  exact .putMpdu hx0

theorem Within.enterWindow {x0 : State} {x1 : Nat} {x2 : Frame} (hx0 : Within m o x0)
    (hm : Sub 4097 m := by first | exact Sub.le (by assumption) ⟨rfl⟩ | exact ⟨rfl⟩) : Within m o (State.enterWindow x0 x1 x2) :=
  .wf (.setSel hx0)

theorem Within.drrClass {x0 : State} {x1 : Nat} {x2 : Nat} (hx0 : Within m o x0)
    (hm : Sub 4098 m := by first | exact Sub.le (by assumption) ⟨rfl⟩ | exact ⟨rfl⟩) : Within m o (State.drrClass x0 x1 x2) := by
  unfold State.drrClass
  extract_lets -merge +onlyGivenNames t0 t1
  clear_value t0 t1
  exact .setDrr (.foldl (fun h => .setQDeficit h) hx0)

theorem Within.select {x0 : State} {x1 : Nat} (hx0 : Within m o x0)
    (hm : Sub 4099 m := by first | exact Sub.le (by assumption) ⟨rfl⟩ | exact ⟨rfl⟩) : WithinOpt1 m o (State.select x0 x1) := by
  unfold State.select
  extract_lets -merge +onlyGivenNames t0 t2
  have h1 : Within m o (t0) := .portSync hx0
  have h3 : Within m o (t2) := .foldl (fun h => .drrClass h) h1
  clear_value t0 t2
  split
  · exact Within.pickQueue h3
  · exact Within.pickClass (.drrPort h3)

theorem Within.deliver {x0 : State} {x1 : Nat} {x2 : Nat} {x3 : Frame} (hx0 : Within m o x0)
    (hm : Sub 4099 m := by first | exact Sub.le (by assumption) ⟨rfl⟩ | exact ⟨rfl⟩) : Within m o (State.deliver x0 x1 x2 x3) := by
  unfold State.deliver
  extract_lets -merge +onlyGivenNames t0 t1 t2 t3
  have h4 : Within m o (t3) := .setWords hx0
  clear_value t0 t1 t2 t3
  exact .enterWindow (.setRegN h4)

theorem Within.send {x0 : State} {x1 : Nat} {x2 : Bool} (hx0 : Within m o x0)
    (hm : Sub 5395 m := by first | exact Sub.le (by assumption) ⟨rfl⟩ | exact ⟨rfl⟩) : Within m o (State.send x0 x1 x2) := by
  unfold State.send
  split
  · exact hx0
  · extract_lets -merge +onlyGivenNames t0 t1 t2 t3
    have h4 : Within m o (t3) := .dequeue hx0
    clear_value t0 t1 t2 t3
    refine .ite ?_ ?_
    · exact .enterWindow h4
    · refine .ite ?_ ?_
      · split
        · exact .stageOn h4
        · exact h4
      · exact .ite (.stageDirect h4) (.deliver h4)

theorem Within.offer {x0 : State} {x1 : Nat} {x2 : Bool} (hx0 : Within m o x0)
    (hm : Sub 5395 m := by first | exact Sub.le (by assumption) ⟨rfl⟩ | exact ⟨rfl⟩) : Within m o (State.offer x0 x1 x2) := by
  unfold State.offer
  split
  · exact .portSync hx0
  · exact .send ((Within.select hx0) _ (by assumption))

theorem Within.execStageMpdu {x0 : Bool} {x1 : State} (hx1 : Within m o x1)
    (hm : Sub 5395 m := by first | exact Sub.le (by assumption) ⟨rfl⟩ | exact ⟨rfl⟩) : WithinOut m o (execStageMpdu x0 x1) := by
  unfold Sys2Proof.Machine.execStageMpdu
  refine .ite ?_ ?_
  · exact .next hx1
  · exact .next (.offer hx1)

theorem Within.execTmgSelect {x0 : State} (hx0 : Within m o x0)
    (hm : Sub 5395 m := by first | exact Sub.le (by assumption) ⟨rfl⟩ | exact ⟨rfl⟩) : WithinOut m o (execTmgSelect x0) := by
  unfold Sys2Proof.Machine.execTmgSelect
  refine .ite ?_ ?_
  · exact .next hx0
  · extract_lets -merge +onlyGivenNames t0 t1
    have h2 : Within m o (t1) := .setPkt hx0
    clear_value t0 t1
    exact .next (.offer h2)

theorem Within.execPortStall {x0 : Fin 16} {x1 : State} (hx1 : Within m o x1)
    (hm : Sub 4113 m := by first | exact Sub.le (by assumption) ⟨rfl⟩ | exact ⟨rfl⟩) : WithinOut m o (execPortStall x0 x1) := by
  unfold Sys2Proof.Machine.execPortStall
  refine .ite ?_ ?_
  · exact .next (.raise (.bump (.setPkt hx1)))
  · exact .next hx1

/-! Eth -/

theorem Within.execPtpRead {x0 : Init} {x1 : State} (hx1 : Within m o x1)
    (hm : Sub 53 m := by first | exact Sub.le (by assumption) ⟨rfl⟩ | exact ⟨rfl⟩) : WithinOut m o (execPtpRead x0 x1) := by
  unfold Sys2Proof.Machine.execPtpRead
  exact .next (.onRead hx1 (fun h0 => by
    extract_lets -merge +onlyGivenNames t1 t3
    have h2 : Within m o (t1) := .setReg64 h0
    have h4 : Within m o (t3) := .setReg64 h2
    clear_value t1 t3
    exact .answer h4))

theorem Within.setEth {x0 : State} {x1 : EthSt → EthSt} (hx0 : Within m o x0)
    (hm : Sub 65536 m := by first | exact Sub.le (by assumption) ⟨rfl⟩ | exact ⟨rfl⟩) : Within m o (State.setEth x0 x1) :=
  .in_eth hx0

theorem Within.execTxtsPop {x0 : Init} {x1 : Fin 6} {x2 : State} (hx2 : Within m o x2)
    (hm : Sub 65589 m := by first | exact Sub.le (by assumption) ⟨rfl⟩ | exact ⟨rfl⟩) : WithinOut m o (execTxtsPop x0 x1 x2) := by
  unfold Sys2Proof.Machine.execTxtsPop
  exact .next (.onRead hx2 (fun h0 => by
    split
    · exact .answer h0
    · extract_lets -merge +onlyGivenNames t1 t3 t5
      have h2 : Within m o (t1) := .setEth h0
      have h4 : Within m o (t3) := .setReg64 h2
      have h6 : Within m o (t5) := .setReg64 h4
      clear_value t1 t3 t5
      exact .answer h6))

theorem Within.execPtpStep {x0 : Init} {x1 : Word} {x2 : State} (hx2 : Within m o x2)
    (hm : Sub 65589 m := by first | exact Sub.le (by assumption) ⟨rfl⟩ | exact ⟨rfl⟩) : WithinOut m o (execPtpStep x0 x1 x2) := by
  unfold Sys2Proof.Machine.execPtpStep
  exact .next (.onWrite hx2 (fun h0 => by
    extract_lets -merge +onlyGivenNames t1 t3
    have h2 : Within m o (t1) := .setReg h0
    clear_value t1 t3
    exact .raise (.setEth h2)))

theorem Within.execMdioGo {x0 : Init} {x1 : Word} {x2 : State} (hx2 : Within m o x2)
    (hm : Sub 53 m := by first | exact Sub.le (by assumption) ⟨rfl⟩ | exact ⟨rfl⟩) : WithinOut m o (execMdioGo x0 x1 x2) := by
  unfold Sys2Proof.Machine.execMdioGo
  exact .next (.onWrite hx2 (fun h0 => .ite (.raise h0) (by
    extract_lets -merge +onlyGivenNames t1
    have h2 : Within m o (t1) := .setReg h0
    clear_value t1
    exact .ite (.emit h2) h2)))

theorem Within.stampTx {x0 : State} {x1 : Nat} {x2 : List Byte} {x3 : GTime} {x4 : Nat} (hx0 : Within m o x0)
    (hm : Sub 65553 m := by first | exact Sub.le (by assumption) ⟨rfl⟩ | exact ⟨rfl⟩) : Within m o (State.stampTx x0 x1 x2 x3 x4) := by
  unfold State.stampTx
  split
  · exact hx0
  · exact .ite (.raise (.bump hx0)) (.setEth hx0)

theorem Within.execPauseRepeat {x0 : Fin 6} {x1 : State} (hx1 : Within m o x1)
    (hm : Sub 4100 m := by first | exact Sub.le (by assumption) ⟨rfl⟩ | exact ⟨rfl⟩) : WithinOut m o (execPauseRepeat x0 x1) := by
  unfold Sys2Proof.Machine.execPauseRepeat
  refine .ite ?_ ?_
  · exact .next (.sendPause hx1)
  · exact .next hx1

theorem Within.secTransmit {x0 : State} {x1 : Nat} {x2 : List Byte} (hx0 : Within m o x0)
    (hm : Sub 17 m := by first | exact Sub.le (by assumption) ⟨rfl⟩ | exact ⟨rfl⟩) : Within m o (State.secTransmit x0 x1 x2).1 := by
  simp only [State.secTransmit]
  refine .iteP ?_ ?_
  · exact hx0
  · refine .iteP ?_ ?_
    · exact .raise (.bump hx0)
    · split
      · exact hx0
      · exact .ite (.raise (.setReg64 hx0)) (.setReg64 hx0)

theorem Within.execPauseReceive {x0 : Fin 6} {x1 : BitVec 16} {x2 : State} (hx2 : Within m o x2)
    (hm : Sub 4096 m := by first | exact Sub.le (by assumption) ⟨rfl⟩ | exact ⟨rfl⟩) : WithinOut m o (execPauseReceive x0 x1 x2) := by
  unfold Sys2Proof.Machine.execPauseReceive
  refine .ite ?_ ?_
  · exact .next (.setPkt hx2)
  · exact .next hx2

theorem Within.oneStep {x0 : State} {x1 : Nat} {x2 : List Byte} {x3 : Nat} (hx0 : Within m o x0)
    (hm : Sub 0 m := by first | exact Sub.le (by assumption) ⟨rfl⟩ | exact ⟨rfl⟩) : Within m o (State.oneStep x0 x1 x2 x3).1 := by
  unfold State.oneStep
  split
  · exact hx0
  · extract_lets -merge +onlyGivenNames t0 t1
    clear_value t0 t1
    refine .iteP ?_ ?_
    · exact hx0
    · extract_lets -merge +onlyGivenNames t2 t3 t4
      have h5 : Within m o (t4) := .used hx0
      clear_value t2 t3 t4
      split
      · exact h5
      · exact h5

theorem Within.wireBytes {x0 : State} {x1 : Nat} {x2 : Frame} {x3 : Nat} (hx0 : Within m o x0)
    (hm : Sub 17 m := by first | exact Sub.le (by assumption) ⟨rfl⟩ | exact ⟨rfl⟩) : Within m o (State.wireBytes x0 x1 x2 x3).1 := by
  unfold State.wireBytes
  extract_lets -merge +onlyGivenNames t0 t1 t2 t4
  have h3 : Within m o (t2).1 := .oneStep hx0
  have h5 : Within m o (t4).1 := .secTransmit h3
  clear_value t0 t1 t2 t4
  split
  · exact h5
  · extract_lets -merge +onlyGivenNames t6
    clear_value t6
    exact h5

theorem Within.execEthFrameTransmit {x0 : Fin 6} {x1 : GTime} {x2 : BitVec 64} {x3 : State} (hx3 : Within m o x3)
    (hm : Sub 3215381 m := by first | exact Sub.le (by assumption) ⟨rfl⟩ | exact ⟨rfl⟩) : WithinOut m o (execEthFrameTransmit x0 x1 x2 x3) := by
  unfold Sys2Proof.Machine.execEthFrameTransmit
  extract_lets -merge +onlyGivenNames t0
  clear_value t0
  split
  · exact .next hx3
  · refine .ite ?_ ?_
    · exact .next hx3
    · split
      · exact .next (.setSel hx3)
      · extract_lets -merge +onlyGivenNames t1 t2 t4 t5 t6
        have h3 : Within m o (t2) := .spansRead hx3
        have h7 : Within m o (t6).1 := .wireBytes h3
        clear_value t1 t2 t4 t5 t6
        split
        · exact .next (.freeSel h7)
        · extract_lets -merge +onlyGivenNames t8 t9 t11
          have h10 : Within m o (t9) := .bump (.emit h7)
          have h12 : Within m o (t11) := .stampTx h10
          clear_value t8 t9 t11
          exact .next (.freeSel h12)

theorem Within.execMdioDone {x0 : BitVec 16} {x1 : State} (hx1 : Within m o x1)
    (hm : Sub 1 m := by first | exact Sub.le (by assumption) ⟨rfl⟩ | exact ⟨rfl⟩) : WithinOut m o (execMdioDone x0 x1) := by
  unfold Sys2Proof.Machine.execMdioDone
  refine .ite ?_ ?_
  · exact .next hx1
  · extract_lets -merge +onlyGivenNames t0
    have h1 : Within m o (t0) := .ite (.wf hx1) hx1
    clear_value t0
    exact .next (.wb h1)

theorem Within.secReceive {x0 : State} {x1 : Nat} {x2 : List Byte} (hx0 : Within m o x0)
    (hm : Sub 1 m := by first | exact Sub.le (by assumption) ⟨rfl⟩ | exact ⟨rfl⟩) : Within m o (State.secReceive x0 x1 x2).1 := by
  unfold State.secReceive
  extract_lets -merge +onlyGivenNames t0
  clear_value t0
  refine .iteP ?_ ?_
  · exact hx0
  · refine .iteP ?_ ?_
    · exact hx0
    · extract_lets -merge +onlyGivenNames t1 t2 t3 t4 t5 t6
      have h7 : Within m o (t6).1 := .bump hx0
      clear_value t1 t2 t3 t5 t6
      split
      · refine .iteP ?_ ?_
        · exact h7
        · refine .iteP ?_ ?_
          · exact .bump hx0
          · exact hx0
      · extract_lets -merge +onlyGivenNames t8 t9 t10 t11 t12
        clear_value t8 t9 t10 t11 t12
        split
        · refine .iteP ?_ ?_
          · exact h7
          · refine .iteP ?_ ?_
            · exact .bump hx0
            · exact hx0
        · extract_lets -merge +onlyGivenNames t13 t14 t15 t16 t17 t18
          clear_value t13 t14 t15 t16 t17 t18
          refine .iteP ?_ ?_
          · refine .iteP ?_ ?_
            · exact hx0
            · exact hx0
          · refine .iteP ?_ ?_
            · refine .iteP ?_ ?_
              · exact h7
              · refine .iteP ?_ ?_
                · exact .bump hx0
                · exact hx0
            · extract_lets -merge +onlyGivenNames t19
              clear_value t19
              exact .setReg64 hx0

theorem Within.execEthFrameReceive {x0 : Fin 6} {x1 : List (BitVec 8)} {x2 : GTime} {x3 : BitVec 64} {x4 : State} (hx4 : Within m o x4)
    (hm : Sub 4115 m := by first | exact Sub.le (by assumption) ⟨rfl⟩ | exact ⟨rfl⟩) : WithinOut m o (execEthFrameReceive x0 x1 x2 x3 x4) := by
  unfold Sys2Proof.Machine.execEthFrameReceive
  extract_lets -merge +onlyGivenNames t0 t1
  clear_value t0 t1
  refine .ite ?_ ?_
  · exact .next hx4
  · refine .ite ?_ ?_
    · exact .next (.bump (.unreserve hx4))
    · refine .ite ?_ ?_
      · exact .next (.bump (.unreserve hx4))
      · refine .ite ?_ ?_
        · exact .next hx4
        · extract_lets -merge +onlyGivenNames t2 t4 t6
          have h3 : Within m o (t2) := .unreserve hx4
          have h5 : Within m o (t4).1 := .secReceive h3
          have h7 : Within m o (t6) := h5
          clear_value t2 t4 t6
          split
          · exact .next (.ite h7 (.bump h7))
          · extract_lets -merge +onlyGivenNames t8 t9
            clear_value t8 t9
            split
            · exact .next (.bump (.countRefused h7))
            · extract_lets -merge +onlyGivenNames t10 t11
              have h12 : Within m o (t11).1 := .putFrame ((Within.charge h7) _ (by assumption))
              clear_value t10 t11
              exact .next (.toPpe (.bump h12))

theorem Within.execLinkChange {x0 : Fin 6} {x1 : Bool} {x2 : Fin 4} {x3 : Fin 6} {x4 : State} (hx4 : Within m o x4)
    (hm : Sub 17 m := by first | exact Sub.le (by assumption) ⟨rfl⟩ | exact ⟨rfl⟩) : WithinOut m o (execLinkChange x0 x1 x2 x3 x4) := by
  unfold Sys2Proof.Machine.execLinkChange
  extract_lets -merge +onlyGivenNames t0
  have h1 : Within m o (t0) := .wf (.wb hx4)
  clear_value t0
  exact .next (.raise (.wf h1))

theorem Within.execPauseTimeExpiry {x0 : Fin 6} {x1 : State} (hx1 : Within m o x1)
    (hm : Sub 4096 m := by first | exact Sub.le (by assumption) ⟨rfl⟩ | exact ⟨rfl⟩) : WithinOut m o (execPauseTimeExpiry x0 x1) := by
  unfold Sys2Proof.Machine.execPauseTimeExpiry
  exact .next (.setPkt hx1)

theorem Within.ptpTick {x0 : State} (hx0 : Within m o x0)
    (hm : Sub 65536 m := by first | exact Sub.le (by assumption) ⟨rfl⟩ | exact ⟨rfl⟩) : Within m o (State.ptpTick x0) := by
  unfold State.ptpTick
  refine .ite ?_ ?_
  · exact hx0
  · extract_lets -merge +onlyGivenNames t0
    clear_value t0
    exact .setEth hx0

end Sys2Proof.Machine
end

