-- ==== Sys2Proof/Laws/Within9.lean ====
section
/-! SUPPORT. Which parts of the state every operation touches (`Within`), one lemma for each: BusWrite, BusRead, OdeImage, Lum, OdeFw, OdeAccess, OdeJournal, OdeDigest. -/

namespace Sys2Proof.Machine

set_option Elab.async false
set_option linter.unusedVariables false

variable {m : Nat} {o : State}

/-! BusWrite -/

theorem Within.nextOr {x0 : State} {x1 : Host.Outcome State Fault Refusal} (hx0 : Within m o x0) (hx1 : WithinOut m o x1) (hm : Sub 0 m := by first | exact Sub.le (by assumption) ⟨rfl⟩ | exact ⟨rfl⟩) :
    Within m o (nextOr x0 x1) := by
  unfold Sys2Proof.Machine.nextOr
  split
  · exact hx1 _ rfl
  · exact hx0

theorem Within.gtuOfsWrite {x0 : Nat} {x1 : Word} {x2 : State} (hx2 : Within m o x2)
    (hm : Sub 25 m := by first | exact Sub.le (by assumption) ⟨rfl⟩ | exact ⟨rfl⟩) : Within m o (State.gtuOfsWrite x0 x1 x2) := by
  unfold State.gtuOfsWrite
  refine .ite ?_ ?_
  · exact .writeReg hx2
  · extract_lets -merge +onlyGivenNames t0 t1
    have h2 : Within m o (t1) := .setOfs (.writeReg hx2)
    clear_value t0 t1
    exact .ite h2 (.raise h2)

theorem Within.gcFireClear {x0 : State} {x1 : Nat} {x2 : Word} {x3 : Nat} (hx0 : Within m o x0)
    (hm : Sub 1 m := by first | exact Sub.le (by assumption) ⟨rfl⟩ | exact ⟨rfl⟩) : Within m o (State.gcFireClear x0 x1 x2 x3) := by
  induction x3 generalizing x0 x1 x2 with
  | zero =>
    exact hx0
  | succ n ih =>
    rw [State.gcFireClear]
    exact .ite (.wf (ih hx0)) (ih hx0)

theorem Within.gtuOwn {x0 : State} {x1 : Init} {x2 : Nat} {x3 : Nat} {x4 : Word} (hx0 : Within m o x0)
    (hm : Sub 302121053 m := by first | exact Sub.le (by assumption) ⟨rfl⟩ | exact ⟨rfl⟩) : WithinOpt m o (State.gtuOwn x0 x1 x2 x3 x4) := by
  unfold State.gtuOwn
  refine .ite ?_ ?_
  · exact .some (.gtuCtrlWrite hx0)
  · refine .ite ?_ ?_
    · exact .some (.gtuOfsWrite hx0)
    · refine .ite ?_ ?_
      · exact .some (.gtuEnd (.writeReg hx0))
      · refine .ite ?_ ?_
        · exact .some (.gtuCmd hx0)
        · refine .ite ?_ ?_
          · exact .some (.ite (.pmapCommit hx0) hx0)
          · refine .ite ?_ ?_
            · exact .some (.gcFireClear hx0)
            · refine .ite ?_ ?_
              · exact .some (.gcFireClear hx0)
              · refine .ite ?_ ?_
                · exact .some (.gcCtrlWrite hx0)
                · exact .none

theorem Within.evrOwn {x0 : State} {x1 : Init} {x2 : Nat} {x3 : Nat} {x4 : Word} (hx0 : Within m o x0)
    (hm : Sub 17 m := by first | exact Sub.le (by assumption) ⟨rfl⟩ | exact ⟨rfl⟩) : WithinOpt m o (State.evrOwn x0 x1 x2 x3 x4) := by
  unfold State.evrOwn
  refine .ite ?_ ?_
  · exact .some (.raiseAll hx0)
  · refine .ite ?_ ?_
    · exact .some (.syncSubs (.writeReg hx0))
    · exact .none

theorem Within.dmaOwn {x0 : State} {x1 : Init} {x2 : Nat} {x3 : Nat} {x4 : Word} (hx0 : Within m o x0)
    (hm : Sub 3276819 m := by first | exact Sub.le (by assumption) ⟨rfl⟩ | exact ⟨rfl⟩) : WithinOpt m o (State.dmaOwn x0 x1 x2 x3 x4) := by
  unfold State.dmaOwn
  refine .ite ?_ ?_
  · exact .none
  · extract_lets -merge +onlyGivenNames t0 t1
    clear_value t0 t1
    refine .ite ?_ ?_
    · exact .some (.chRefuse hx0)
    · refine .ite ?_ ?_
      · exact .some (.chCmd hx0)
      · refine .ite ?_ ?_
        · exact .some (.chDoorbell hx0)
        · refine .ite ?_ ?_
          · exact .some (.shadowWrite hx0)
          · refine .ite ?_ ?_
            · exact .some (.saddleWrite hx0)
            · exact .none

theorem Within.chkOwn {x0 : State} {x1 : Init} {x2 : Nat} {x3 : Nat} {x4 : Word} (hx0 : Within m o x0)
    (hm : Sub 17 m := by first | exact Sub.le (by assumption) ⟨rfl⟩ | exact ⟨rfl⟩) : WithinOpt m o (State.chkOwn x0 x1 x2 x3 x4) := by
  unfold State.chkOwn
  refine .ite ?_ ?_
  · exact .some (.scanCtrl hx0)
  · refine .ite ?_ ?_
    · exact .none
    · extract_lets -merge +onlyGivenNames t0 t1
      clear_value t0 t1
      refine .ite ?_ ?_
      · exact .some (.chkPreset hx0)
      · refine .ite ?_ ?_
        · exact .some (.chkConfig hx0)
        · refine .ite ?_ ?_
          · exact .some (.chkStateWrite hx0)
          · refine .ite ?_ ?_
            · exact .some (.chkData hx0)
            · refine .ite ?_ ?_
              · exact .some (.chkCmd hx0)
              · exact .none

theorem Within.cryOwn {x0 : State} {x1 : Init} {x2 : Nat} {x3 : Nat} {x4 : Word} (hx0 : Within m o x0)
    (hm : Sub 3932215 m := by first | exact Sub.le (by assumption) ⟨rfl⟩ | exact ⟨rfl⟩) : WithinOpt m o (State.cryOwn x0 x1 x2 x3 x4) := by
  unfold State.cryOwn
  refine .ite ?_ ?_
  · exact .some (.keyCmd hx0)
  · refine .ite ?_ ?_
    · exact .some (.setReg hx0)
    · refine .ite ?_ ?_
      · exact .some (.saCmd hx0)
      · refine .ite ?_ ?_
        · exact .some (.almPolWrite hx0)
        · refine .ite ?_ ?_
          · exact .some (.nextOr hx0 (Within.execAlarmLock hx0))
          · refine .ite ?_ ?_
            · exact .some (.nextOr hx0 (Within.execAlarmClear hx0))
            · refine .ite ?_ ?_
              · extract_lets -merge +onlyGivenNames t0 t1
                clear_value t0 t1
                refine .ite ?_ ?_
                · exact .some (.pgCmd hx0)
                · refine .ite ?_ ?_
                  · exact .some (.ite (.setPage hx0) hx0)
                  · exact .none
              · exact .none

theorem Within.scrubCtrlWrite {x0 : State} {x1 : Nat} {x2 : Bool} {x3 : Word} (hx0 : Within m o x0)
    (hm : Sub 2097169 m := by first | exact Sub.le (by assumption) ⟨rfl⟩ | exact ⟨rfl⟩) : Within m o (State.scrubCtrlWrite x0 x1 x2 x3) := by
  unfold State.scrubCtrlWrite
  extract_lets -merge +onlyGivenNames t0 t1 t3
  have h2 : Within m o (t1) := .writeReg hx0
  clear_value t0 t1 t3
  exact .ite h2 (.setDrc h2)

theorem Within.secOwn {x0 : State} {x1 : Init} {x2 : Nat} {x3 : Nat} {x4 : Word} (hx0 : Within m o x0)
    (hm : Sub 3670039 m := by first | exact Sub.le (by assumption) ⟨rfl⟩ | exact ⟨rfl⟩) : WithinOpt m o (State.secOwn x0 x1 x2 x3 x4) := by
  unfold State.secOwn
  refine .ite ?_ ?_
  · refine .ite ?_ ?_
    · exact .some (.pkePush hx0)
    · exact .none
  · refine .ite ?_ ?_
    · refine .ite ?_ ?_
      · exact .some (.scrubCtrlWrite hx0)
      · refine .ite ?_ ?_
        · exact .some (.drcCmd hx0)
        · refine .ite ?_ ?_
          · exact .some (.injWrite hx0)
          · exact .none
    · refine .ite ?_ ?_
      · exact .some (.scrubCtrlWrite hx0)
      · refine .ite ?_ ?_
        · exact .some (.injWrite hx0)
        · exact .none

theorem Within.ppeOwn {x0 : State} {x1 : Init} {x2 : Nat} {x3 : Word} (hx0 : Within m o x0)
    (hm : Sub 32821 m := by first | exact Sub.le (by assumption) ⟨rfl⟩ | exact ⟨rfl⟩) : WithinOpt m o (State.ppeOwn x0 x1 x2 x3) := by
  unfold State.ppeOwn
  refine .ite ?_ ?_
  · exact .some (.nextOr hx0 (Within.execFenceStart hx0))
  · refine .ite ?_ ?_
    · extract_lets -merge +onlyGivenNames t0
      clear_value t0
      exact .some (.ite (.refuse hx0) (.updStart hx0))
    · split
      · refine .ite ?_ ?_
        · exact .some (.nextOr hx0 (Within.execPipeTabWrite hx0))
        · exact .none
      · exact .none

theorem Within.shaperWrite {x0 : State} {x1 : Nat} {x2 : Nat} {x3 : Word} {x4 : State → Shaper} (hx0 : Within m o x0)
    (hm : Sub 4113 m := by first | exact Sub.le (by assumption) ⟨rfl⟩ | exact ⟨rfl⟩) : Within m o (State.shaperWrite x0 x1 x2 x3 x4) := by
  unfold State.shaperWrite
  extract_lets -merge +onlyGivenNames t0
  have h1 : Within m o (t0) := .writeReg (.shaperSync hx0)
  clear_value t0
  exact .shaperSync h1

theorem Within.tmgOwn {x0 : State} {x1 : Init} {x2 : Nat} {x3 : Nat} {x4 : Word} (hx0 : Within m o x0)
    (hm : Sub 4149 m := by first | exact Sub.le (by assumption) ⟨rfl⟩ | exact ⟨rfl⟩) : WithinOpt m o (State.tmgOwn x0 x1 x2 x3 x4) := by
  unfold State.tmgOwn
  refine .ite ?_ ?_
  · exact .none
  · split
    · extract_lets -merge +onlyGivenNames t0
      clear_value t0
      split
      · exact .some (.nextOr hx0 (Within.execRingConfigWrite hx0))
      · exact .none
    · refine .ite ?_ ?_
      · exact .none
      · refine .ite ?_ ?_
        · refine .ite ?_ ?_
          · exact .some (.shaperWrite hx0)
          · exact .none
        · refine .ite ?_ ?_
          · exact .some (.shaperWrite hx0)
          · refine .ite ?_ ?_
            · exact .some (.shaperWrite hx0)
            · exact .none

theorem Within.qmgOwn {x0 : State} {x1 : Init} {x2 : Nat} {x3 : Nat} {x4 : Word} (hx0 : Within m o x0)
    (hm : Sub 4149 m := by first | exact Sub.le (by assumption) ⟨rfl⟩ | exact ⟨rfl⟩) : WithinOpt m o (State.qmgOwn x0 x1 x2 x3 x4) := by
  unfold State.qmgOwn
  refine .ite ?_ ?_
  · exact .some (.qPush hx0)
  · refine .ite ?_ ?_
    · exact .some (.qmgFree hx0)
    · refine .ite ?_ ?_
      · exact .some (.nextOr hx0 (Within.execPoolApply hx0))
      · refine .ite ?_ ?_
        · exact .some (.rpoolWrite hx0)
        · refine .ite ?_ ?_
          · extract_lets -merge +onlyGivenNames t0 t1 t2
            have h3 : Within m o (t2) := .writeReg (.ite (.polRefill hx0) hx0)
            clear_value t0 t1 t2
            exact .some (.ite (.polFill h3) h3)
          · exact .none

theorem Within.radioOwn {x0 : State} {x1 : Init} {x2 : Nat} {x3 : Nat} {x4 : Nat} {x5 : Word} (hx0 : Within m o x0)
    (hm : Sub 2293 m := by first | exact Sub.le (by assumption) ⟨rfl⟩ | exact ⟨rfl⟩) : WithinOpt m o (State.radioOwn x0 x1 x2 x3 x4 x5) := by
  unfold State.radioOwn
  refine .ite ?_ ?_
  · refine .ite ?_ ?_
    · exact .some (.rfcPush hx0)
    · exact .none
  · refine .ite ?_ ?_
    · refine .ite ?_ ?_
      · exact .some (.smodeWrite hx0)
      · exact .none
    · extract_lets -merge +onlyGivenNames t0
      clear_value t0
      refine .ite ?_ ?_
      · exact .some (.macPush hx0)
      · refine .ite ?_ ?_
        · exact .some (.notchSync (.writeReg hx0))
        · refine .ite ?_ ?_
          · exact .some (.nextOr hx0 (Within.execNotchArm hx0))
          · exact .none

theorem Within.schedOwn {x0 : State} {x1 : Init} {x2 : Nat} {x3 : Nat} {x4 : Word} (hx0 : Within m o x0)
    (hm : Sub 24631 m := by first | exact Sub.le (by assumption) ⟨rfl⟩ | exact ⟨rfl⟩) : WithinOpt m o (State.schedOwn x0 x1 x2 x3 x4) := by
  unfold State.schedOwn
  refine .ite ?_ ?_
  · refine .ite ?_ ?_
    · exact .some (.fmPush hx0)
    · refine .ite ?_ ?_
      · exact .some (.schedArm hx0)
      · refine .ite ?_ ?_
        · exact .some (.ptabWrite hx0)
        · refine .ite ?_ ?_
          · exact .some (.dwWinWrite hx0)
          · exact .none
  · refine .ite ?_ ?_
    · exact .some (.stpPush hx0)
    · refine .ite ?_ ?_
      · exact .some (.nextOr hx0 (Within.execStpPendWrite hx0))
      · exact .none

theorem Within.edgeOwn {x0 : State} {x1 : Init} {x2 : Nat} {x3 : Nat} {x4 : Word} (hx0 : Within m o x0)
    (hm : Sub 536870911 m := by first | exact Sub.le (by assumption) ⟨rfl⟩ | exact ⟨rfl⟩) : WithinOpt m o (State.edgeOwn x0 x1 x2 x3 x4) := by
  unfold State.edgeOwn
  refine .ite ?_ ?_
  · refine .ite ?_ ?_
    · exact .some (.nextOr hx0 (Within.execPtpStep hx0))
    · refine .ite ?_ ?_
      · exact .some (.nextOr hx0 (Within.execMdioGo hx0))
      · exact .none
  · refine .ite ?_ ?_
    · refine .ite ?_ ?_
      · exact .some (.canPush hx0)
      · exact .none
    · refine .ite ?_ ?_
      · refine .ite ?_ ?_
        · exact .some (.opPush hx0)
        · refine .ite ?_ ?_
          · exact .some (.fifoWrite hx0)
          · exact .none
      · refine .ite ?_ ?_
        · refine .ite ?_ ?_
          · exact .some (.stepWrite hx0)
          · refine .ite ?_ ?_
            · exact .some (.stepWrite hx0)
            · refine .ite ?_ ?_
              · exact .some (.rstCmd hx0)
              · refine .ite ?_ ?_
                · exact .some (.wdtWrite hx0)
                · refine .ite ?_ ?_
                  · exact .some (.wdtKick hx0)
                  · refine .ite ?_ ?_
                    · exact .some (.otpInc hx0)
                    · refine .ite ?_ ?_
                      · exact .some (.clkWrite hx0)
                      · exact .none
        · exact .none

theorem Within.ownWrite {x0 : State} {x1 : Init} {x2 : Nat} {x3 : Nat} {x4 : Nat} {x5 : Word} (hx0 : Within m o x0)
    (hm : Sub 536870911 m := by first | exact Sub.le (by assumption) ⟨rfl⟩ | exact ⟨rfl⟩) : WithinOpt m o (State.ownWrite x0 x1 x2 x3 x4 x5) := by
  unfold State.ownWrite
  refine .ite ?_ ?_
  · exact Within.gtuOwn hx0
  · refine .ite ?_ ?_
    · exact Within.evrOwn hx0
    · refine .ite ?_ ?_
      · exact Within.dmaOwn hx0
      · refine .ite ?_ ?_
        · exact Within.chkOwn hx0
        · refine .ite ?_ ?_
          · exact Within.cryOwn hx0
          · refine .ite ?_ ?_
            · exact Within.secOwn hx0
            · refine .ite ?_ ?_
              · exact Within.ppeOwn hx0
              · refine .ite ?_ ?_
                · exact Within.tmgOwn hx0
                · refine .ite ?_ ?_
                  · exact Within.qmgOwn hx0
                  · refine .ite ?_ ?_
                    · exact Within.radioOwn hx0
                    · refine .ite ?_ ?_
                      · exact Within.schedOwn hx0
                      · exact Within.edgeOwn hx0

theorem Within.regWriteWith {x0 : State → Nat → Word → Option State} {x1 : Init} {x2 : Nat} {x3 : Word} {x4 : State} (hx0 : ∀ {y0} {y1} {y2}, Within m o y0 → WithinOpt m o (x0 y0 y1 y2)) (hx4 : Within m o x4)
    (hm : Sub 536870911 m := by first | exact Sub.le (by assumption) ⟨rfl⟩ | exact ⟨rfl⟩) : Within m o (State.regWriteWith x0 x1 x2 x3 x4) := by
  unfold State.regWriteWith
  split
  · exact .busErr hx4
  · refine .ite ?_ ?_
    · exact .busErr hx4
    · exact .onWrite hx4 (fun h0 => by
        split
        · exact (.ite (hx0 h0) (Within.ownWrite h0) : WithinOpt m o _) _ (by assumption)
        · exact .writeReg h0)

theorem Within.regWrite {x0 : Init} {x1 : Nat} {x2 : Word} {x3 : State} (hx3 : Within m o x3)
    (hm : Sub 536870911 m := by first | exact Sub.le (by assumption) ⟨rfl⟩ | exact ⟨rfl⟩) : Within m o (State.regWrite x0 x1 x2 x3) :=
  .regWriteWith (fun h0 => .none) hx3

/-! BusRead -/

theorem Within.taken {x0 : State} (hx0 : Within m o x0)
    (hm : Sub 4 m := by first | exact Sub.le (by assumption) ⟨rfl⟩ | exact ⟨rfl⟩) : Within m o (State.taken x0).1 := by
  unfold State.taken
  split
  · exact .in_out hx0
  · exact hx0

theorem Within.popA {x0 : State} {x1 : Init} {x2 : Nat} {x3 : Nat} (hx0 : Within m o x0)
    (hm : Sub 2883613 m := by first | exact Sub.le (by assumption) ⟨rfl⟩ | exact ⟨rfl⟩) : WithinOpt m o (State.popA x0 x1 x2 x3) := by
  unfold State.popA
  refine .ite ?_ ?_
  · refine .ite ?_ ?_
    · exact .some (.gtuNowRead hx0)
    · refine .ite ?_ ?_
      · exact .some (.xlastRead hx0)
      · exact .none
  · refine .ite ?_ ?_
    · refine .ite ?_ ?_
      · exact .some (.subPop hx0)
      · exact .none
    · refine .ite ?_ ?_
      · refine .ite ?_ ?_
        · exact .some (.keyPop hx0)
        · refine .ite ?_ ?_
          · exact .some (.pgPop hx0)
          · exact .none
      · refine .ite ?_ ?_
        · refine .ite ?_ ?_
          · exact .some (.pkePop hx0)
          · refine .ite ?_ ?_
            · exact .some (.rngRead hx0)
            · exact .none
        · refine .ite ?_ ?_
          · refine .ite ?_ ?_
            · exact .some (.drcPop hx0)
            · exact .none
          · exact .none

theorem Within.popB {x0 : State} {x1 : Init} {x2 : Nat} {x3 : Nat} (hx0 : Within m o x0)
    (hm : Sub 30837 m := by first | exact Sub.le (by assumption) ⟨rfl⟩ | exact ⟨rfl⟩) : WithinOpt m o (State.popB x0 x1 x2 x3) := by
  unfold State.popB
  refine .ite ?_ ?_
  · split
    · refine .ite ?_ ?_
      · exact .some (.nextOr hx0 (Within.execPpeCounterRead hx0))
      · exact .none
    · exact .none
  · refine .ite ?_ ?_
    · refine .ite ?_ ?_
      · exact .some (.qPop hx0)
      · exact .none
    · refine .ite ?_ ?_
      · refine .ite ?_ ?_
        · exact .some (.rfcPop hx0)
        · exact .none
      · refine .ite ?_ ?_
        · refine .ite ?_ ?_
          · exact .some (.macPop hx0)
          · refine .ite ?_ ?_
            · exact .some (.tsfRead hx0)
            · exact .none
        · refine .ite ?_ ?_
          · refine .ite ?_ ?_
            · exact .some (.fmPop hx0)
            · exact .none
          · refine .ite ?_ ?_
            · refine .ite ?_ ?_
              · exact .some (.stpPop hx0)
              · exact .none
            · exact .none

theorem Within.popC {x0 : State} {x1 : Init} {x2 : Nat} {x3 : Nat} (hx0 : Within m o x0)
    (hm : Sub 159449141 m := by first | exact Sub.le (by assumption) ⟨rfl⟩ | exact ⟨rfl⟩) : WithinOpt m o (State.popC x0 x1 x2 x3) := by
  unfold State.popC
  refine .ite ?_ ?_
  · refine .ite ?_ ?_
    · exact .some (.nextOr hx0 (Within.execPtpRead hx0))
    · split
      · refine .ite ?_ ?_
        · exact .some (.nextOr hx0 (Within.execTxtsPop hx0))
        · exact .none
      · exact .none
  · refine .ite ?_ ?_
    · refine .ite ?_ ?_
      · exact .some (.canPop hx0)
      · exact .none
    · refine .ite ?_ ?_
      · refine .ite ?_ ?_
        · exact .some (.xspiPop hx0)
        · refine .ite ?_ ?_
          · exact .some (.answer (.fifoRead hx0))
          · exact .none
      · refine .ite ?_ ?_
        · refine .ite ?_ ?_
          · exact .some (.accPop hx0)
          · refine .ite ?_ ?_
            · split
              · exact .some (.used (.answer hx0))
              · exact .none
            · exact .none
        · exact .none

theorem Within.ownRead {x0 : State} {x1 : Init} {x2 : Nat} {x3 : Nat} (hx0 : Within m o x0)
    (hm : Sub 162363517 m := by first | exact Sub.le (by assumption) ⟨rfl⟩ | exact ⟨rfl⟩) : WithinOpt m o (State.ownRead x0 x1 x2 x3) := by
  unfold State.ownRead
  refine .ite ?_ ?_
  · exact Within.popA hx0
  · refine .ite ?_ ?_
    · exact Within.popB hx0
    · exact Within.popC hx0

theorem Within.readSync {x0 : State} {x1 : Nat} {x2 : Nat} (hx0 : Within m o x0)
    (hm : Sub 4097 m := by first | exact Sub.le (by assumption) ⟨rfl⟩ | exact ⟨rfl⟩) : Within m o (State.readSync x0 x1 x2) :=
  .ite (.ite (.foldl (fun h => .portSync h) hx0) (.ite (.shaperSync hx0) (.ite (.shaperSync hx0) (.ite (.shaperSync hx0) hx0)))) (.ite (.ite (.polRefill hx0) hx0) (.ite (.tstartLatch hx0) (.ite (.setReg64 hx0) hx0)))

theorem Within.plainRead {x0 : State} {x1 : Init} {x2 : Window} {x3 : Nat} (hx0 : Within m o x0)
    (hm : Sub 4101 m := by first | exact Sub.le (by assumption) ⟨rfl⟩ | exact ⟨rfl⟩) : Within m o (State.plainRead x0 x1 x2 x3) := by
  unfold State.plainRead
  extract_lets -merge +onlyGivenNames t0
  have h1 : Within m o (t0) := .readSync hx0
  clear_value t0
  split
  · exact .answer h1
  · exact .answer (.setReg h1)

theorem Within.regReadWith {x0 : State → Nat → Option State} {x1 : Init} {x2 : Nat} {x3 : State} (hx0 : ∀ {y0} {y1}, Within m o y0 → WithinOpt m o (x0 y0 y1)) (hx3 : Within m o x3)
    (hm : Sub 162363517 m := by first | exact Sub.le (by assumption) ⟨rfl⟩ | exact ⟨rfl⟩) : Within m o (State.regReadWith x0 x1 x2 x3) := by
  unfold State.regReadWith
  split
  · exact .busErr hx3
  · refine .ite ?_ ?_
    · exact .busErr hx3
    · exact .onRead hx3 (fun h0 => by
        split
        · exact (.ite (hx0 h0) (Within.ownRead h0) : WithinOpt m o _) _ (by assumption)
        · exact .plainRead h0)

theorem Within.regRead {x0 : Init} {x1 : Nat} {x2 : State} (hx2 : Within m o x2)
    (hm : Sub 162363517 m := by first | exact Sub.le (by assumption) ⟨rfl⟩ | exact ⟨rfl⟩) : Within m o (State.regRead x0 x1 x2) :=
  .regReadWith (fun h0 => .none) hx2

/-! OdeImage -/

theorem Within.odeRegs {x0 : State} {x1 : Nat} {x2 : Nat} (hx0 : Within m o x0)
    (hm : Sub 162363517 m := by first | exact Sub.le (by assumption) ⟨rfl⟩ | exact ⟨rfl⟩) : Within m o (State.odeRegs x0 x1 x2).1 := by
  induction x2 generalizing x0 x1 with
  | zero =>
    exact hx0
  | succ n ih =>
    rw [State.odeRegs]
    split
    · exact ih (.taken (.regRead hx0))
    · exact ih (.taken (.regRead hx0))

theorem Within.elemRead {x0 : State} {x1 : Desc} {x2 : Nat} (hx0 : Within m o x0)
    (hm : Sub 162363517 m := by first | exact Sub.le (by assumption) ⟨rfl⟩ | exact ⟨rfl⟩) : Within m o (State.elemRead x0 x1 x2).1 := by
  unfold State.elemRead
  refine .iteP ?_ ?_
  · extract_lets -merge +onlyGivenNames t0
    have h1 : Within m o (t0).1 := .odeRegs hx0
    clear_value t0
    split
    · exact h1
    · exact h1
  · extract_lets -merge +onlyGivenNames t2
    clear_value t2
    exact hx0

theorem Within.setFwVal {x0 : State} {x1 : Desc} {x2 : Nat} {x3 : List Byte} (hx0 : Within m o x0)
    (hm : Sub 4194304 m := by first | exact Sub.le (by assumption) ⟨rfl⟩ | exact ⟨rfl⟩) : Within m o (State.setFwVal x0 x1 x2 x3) :=
  .setOde hx0

theorem Within.storeWrite {x0 : State} {x1 : Desc} {x2 : Nat} {x3 : List Byte} (hx0 : Within m o x0)
    (hm : Sub 2 m := by first | exact Sub.le (by assumption) ⟨rfl⟩ | exact ⟨rfl⟩) : Within m o (State.storeWrite x0 x1 x2 x3) :=
  .ite (.setBytes hx0) (.setBytes hx0)

/-! Lum -/

theorem Within.setLum {x0 : State} {x1 : LumSt → LumSt} (hx0 : Within m o x0)
    (hm : Sub 33554432 m := by first | exact Sub.le (by assumption) ⟨rfl⟩ | exact ⟨rfl⟩) : Within m o (State.setLum x0 x1) :=
  .in_lum hx0

theorem Within.dropRelay {x0 : State} (hx0 : Within m o x0)
    (hm : Sub 33554433 m := by first | exact Sub.le (by assumption) ⟨rfl⟩ | exact ⟨rfl⟩) : Within m o (State.dropRelay x0) := by
  unfold State.dropRelay
  extract_lets -merge +onlyGivenNames t0
  have h1 : Within m o (t0) := .setLum hx0
  clear_value t0
  exact .ite (.gcDisarmNow h1) h1

theorem Within.armRelay {x0 : State} {x1 : Nat} (hx0 : Within m o x0)
    (hm : Sub 302121053 m := by first | exact Sub.le (by assumption) ⟨rfl⟩ | exact ⟨rfl⟩) : Within m o (State.armRelay x0 x1) := by
  unfold State.armRelay
  extract_lets -merge +onlyGivenNames t0
  have h1 : Within m o (t0) := .setRegN (.setReg hx0)
  clear_value t0
  exact .gcArmNow (.setReg64 h1)

theorem Within.relayTake {x0 : State} {x1 : Bool} (hx0 : Within m o x0)
    (hm : Sub 464484477 m := by first | exact Sub.le (by assumption) ⟨rfl⟩ | exact ⟨rfl⟩) : Within m o (State.relayTake x0 x1) := by
  unfold State.relayTake
  refine .ite ?_ ?_
  · exact hx0
  · extract_lets -merge +onlyGivenNames t0 t2 t3
    have h1 : Within m o (t0) := .dropRelay hx0
    clear_value t0 t2 t3
    refine .ite ?_ ?_
    · exact .upd (k := 301989888) h1 (fun p => by cases p <;> first | exact .inr rfl | exact .inl rfl)
    · extract_lets -merge +onlyGivenNames t4 t5 t6
      clear_value t4 t5 t6
      exact .armRelay (.setLum h1)

theorem Within.levelTake {x0 : State} {x1 : Nat} (hx0 : Within m o x0)
    (hm : Sub 464484477 m := by first | exact Sub.le (by assumption) ⟨rfl⟩ | exact ⟨rfl⟩) : Within m o (State.levelTake x0 x1) := by
  unfold State.levelTake
  refine .ite ?_ ?_
  · exact .emit (.setLum hx0)
  · extract_lets -merge +onlyGivenNames t0
    have h1 : Within m o (t0) := .setLum hx0
    clear_value t0
    exact .ite (.relayTake h1) (.daliStart h1)

theorem Within.relayRetake {x0 : State} (hx0 : Within m o x0)
    (hm : Sub 464484477 m := by first | exact Sub.le (by assumption) ⟨rfl⟩ | exact ⟨rfl⟩) : Within m o (State.relayRetake x0) := by
  unfold State.relayRetake
  split
  · exact hx0
  · exact .ite hx0 (.relayTake hx0)

theorem Within.execProfileStep {x0 : State} (hx0 : Within m o x0)
    (hm : Sub 464484477 m := by first | exact Sub.le (by assumption) ⟨rfl⟩ | exact ⟨rfl⟩) : WithinOut m o (execProfileStep x0) := by
  unfold Sys2Proof.Machine.execProfileStep
  extract_lets -merge +onlyGivenNames t0
  clear_value t0
  refine .ite ?_ ?_
  · exact .next hx0
  · split
    · exact .next hx0
    · exact .next (.levelTake hx0)

theorem Within.execDapcSend {x0 : State} (hx0 : Within m o x0)
    (hm : Sub 33554436 m := by first | exact Sub.le (by assumption) ⟨rfl⟩ | exact ⟨rfl⟩) : WithinOut m o (execDapcSend x0) := by
  unfold Sys2Proof.Machine.execDapcSend
  refine .ite ?_ ?_
  · exact .next (.daliStart hx0)
  · exact .next hx0

theorem Within.execRelayFadeOpen {x0 : State} (hx0 : Within m o x0)
    (hm : Sub 464484477 m := by first | exact Sub.le (by assumption) ⟨rfl⟩ | exact ⟨rfl⟩) : WithinOut m o (execRelayFadeOpen x0) := by
  unfold Sys2Proof.Machine.execRelayFadeOpen
  refine .ite ?_ ?_
  · exact .next (.relayTake (.setLum hx0))
  · exact .next hx0

/-! OdeFw -/

theorem Within.gtuParamWrite {x0 : State} {x1 : Fld} {x2 : Nat} (hx0 : Within m o x0)
    (hm : Sub 536870911 m := by first | exact Sub.le (by assumption) ⟨rfl⟩ | exact ⟨rfl⟩) : Within m o (State.gtuParamWrite x0 x1 x2).1 := by
  unfold State.gtuParamWrite
  extract_lets -merge +onlyGivenNames t0 t1 t3
  have h2 : Within m o (t1) := .ite hx0 (.regWrite hx0)
  clear_value t0 t1 t3
  exact .regWrite h2

theorem Within.tryWrite {x0 : State} {x1 : Init} {x2 : Nat} {x3 : Word} (hx0 : Within m o x0)
    (hm : Sub 536870911 m := by first | exact Sub.le (by assumption) ⟨rfl⟩ | exact ⟨rfl⟩) : Within m o (State.tryWrite x0 x1 x2 x3).1 := by
  unfold State.tryWrite
  split
  · exact .regWrite hx0
  · extract_lets -merge +onlyGivenNames t0
    clear_value t0
    refine .iteP ?_ ?_
    · exact .regWrite hx0
    · refine .iteP ?_ ?_
      · exact .regWrite hx0
      · extract_lets -merge +onlyGivenNames t1
        have h2 : Within m o (t1) := .regWrite (.setReg hx0)
        clear_value t1
        refine .iteP ?_ ?_
        · exact h2
        · exact .setReg h2

theorem Within.tryWrites {x0 : State} {x1 : Init} {x2 : List (Nat × Word)} (hx0 : Within m o x0)
    (hm : Sub 536870911 m := by first | exact Sub.le (by assumption) ⟨rfl⟩ | exact ⟨rfl⟩) : Within m o (State.tryWrites x0 x1 x2).1 := by
  induction x2 generalizing x0 x1 with
  | nil =>
    exact hx0
  | cons y l ih =>
    rw [State.tryWrites]
    refine .iteP ?_ ?_
    · exact ih (.tryWrite hx0)
    · exact .tryWrite hx0

theorem Within.dwellParam {x0 : State} {x1 : Nat} {x2 : List Byte} (hx0 : Within m o x0)
    (hm : Sub 536870911 m := by first | exact Sub.le (by assumption) ⟨rfl⟩ | exact ⟨rfl⟩) : Within m o (State.dwellParam x0 x1 x2).1 := by
  unfold State.dwellParam
  extract_lets -merge +onlyGivenNames t0
  clear_value t0
  refine .iteP ?_ ?_
  · exact .tryWrites hx0
  · exact .tryWrites hx0

theorem Within.scheduleWrite {x0 : State} {x1 : Nat} (hx0 : Within m o x0)
    (hm : Sub 536870911 m := by first | exact Sub.le (by assumption) ⟨rfl⟩ | exact ⟨rfl⟩) : Within m o (State.scheduleWrite x0 x1).1 := by
  unfold State.scheduleWrite
  extract_lets -merge +onlyGivenNames t0
  clear_value t0
  exact .tryWrites hx0

theorem Within.fmIssue {x0 : State} {x1 : List (List Word)} (hx0 : Within m o x0)
    (hm : Sub 20499 m := by first | exact Sub.le (by assumption) ⟨rfl⟩ | exact ⟨rfl⟩) : Within m o (State.fmIssue x0 x1).1 := by
  unfold State.fmIssue
  extract_lets -merge +onlyGivenNames t0 t1 t2 t4 t6
  have h3 : Within m o (t2) := .setFld hx0
  have h5 : Within m o (t4) := .foldl (fun h => .nextOr h (by
    refine .ite ?_ ?_
    · exact Within.execAssign h
    · exact Within.execRelease h)) h3
  clear_value t0 t1 t2 t4 t6
  exact .setFld h5

theorem Within.assignWrite {x0 : State} {x1 : Nat} {x2 : List Byte} (hx0 : Within m o x0)
    (hm : Sub 7360531 m := by first | exact Sub.le (by assumption) ⟨rfl⟩ | exact ⟨rfl⟩) : Within m o (State.assignWrite x0 x1 x2).1 := by
  unfold State.assignWrite
  refine .iteP ?_ ?_
  · exact hx0
  · refine .iteP ?_ ?_
    · exact .fmIssue hx0
    · extract_lets -merge +onlyGivenNames t0 t1 t2 t3 t4 t5 t6 t7 t9
      have h8 : Within m o (t7) := .store hx0
      have h10 : Within m o (t9).1 := .fmIssue h8
      clear_value t0 t1 t2 t3 t4 t5 t6 t7 t9
      refine .iteP ?_ ?_
      · exact .setOde h10
      · exact h10

theorem Within.shaperParam {x0 : State} {x1 : Nat} {x2 : List Byte} (hx0 : Within m o x0)
    (hm : Sub 536870911 m := by first | exact Sub.le (by assumption) ⟨rfl⟩ | exact ⟨rfl⟩) : Within m o (State.shaperParam x0 x1 x2).1 := by
  unfold State.shaperParam
  extract_lets -merge +onlyGivenNames t0
  clear_value t0
  refine .iteP ?_ ?_
  · exact .tryWrites hx0
  · exact .tryWrites hx0

theorem Within.policerWrite {x0 : State} {x1 : Nat} {x2 : List Byte} (hx0 : Within m o x0)
    (hm : Sub 536870911 m := by first | exact Sub.le (by assumption) ⟨rfl⟩ | exact ⟨rfl⟩) : Within m o (State.policerWrite x0 x1 x2).1 := by
  unfold State.policerWrite
  extract_lets -merge +onlyGivenNames t0 t1 t2 t3
  clear_value t0 t1 t2 t3
  refine .iteP ?_ ?_
  · exact .tryWrites hx0
  · exact .tryWrites hx0

theorem Within.fwOne {x0 : State} {x1 : Nat} {x2 : Nat} {x3 : List Byte} (hx0 : Within m o x0)
    (hm : Sub 536870911 m := by first | exact Sub.le (by assumption) ⟨rfl⟩ | exact ⟨rfl⟩) : WithinOpt1 m o (State.fwOne x0 x1 x2 x3) := by
  unfold State.fwOne
  extract_lets -merge +onlyGivenNames t0
  clear_value t0
  refine .ite ?_ ?_
  · exact .some (.gtuParamWrite hx0)
  · refine .ite ?_ ?_
    · exact .some (.gtuParamWrite hx0)
    · refine .ite ?_ ?_
      · exact .some (.gtuParamWrite hx0)
      · refine .ite ?_ ?_
        · exact .some (.gtuParamWrite hx0)
        · refine .ite ?_ ?_
          · exact .some (.tryWrites hx0)
          · refine .ite ?_ ?_
            · exact .some (.dwellParam hx0)
            · refine .ite ?_ ?_
              · exact .some (.scheduleWrite hx0)
              · refine .ite ?_ ?_
                · exact .some (.assignWrite hx0)
                · refine .ite ?_ ?_
                  · exact .some (.tryWrites hx0)
                  · refine .ite ?_ ?_
                    · exact .some (.tryWrites hx0)
                    · refine .ite ?_ ?_
                      · exact .some (.tryWrites hx0)
                      · refine .ite ?_ ?_
                        · extract_lets -merge +onlyGivenNames t1
                          clear_value t1
                          exact .some (.tryWrites hx0)
                        · refine .ite ?_ ?_
                          · exact .some (.tryWrites hx0)
                          · refine .ite ?_ ?_
                            · exact .some (.tryWrites hx0)
                            · refine .ite ?_ ?_
                              · exact .some (.tryWrites hx0)
                              · refine .ite ?_ ?_
                                · exact .some (.tryWrites hx0)
                                · refine .ite ?_ ?_
                                  · exact .some (.shaperParam hx0)
                                  · refine .ite ?_ ?_
                                    · exact .some (.policerWrite hx0)
                                    · exact .none

theorem Within.fwElems {x0 : State} {x1 : Desc} {x2 : List (Nat × List Byte)} (hx0 : Within m o x0) (hm : Sub 536870911 m := by first | exact Sub.le (by assumption) ⟨rfl⟩ | exact ⟨rfl⟩) :
    WithinOpt1 m o (State.fwElems x0 x1 x2) := by
  induction x2 generalizing x0 x1 with
  | nil => exact .some hx0
  | cons y l ih =>
    rw [State.fwElems]
    have h : WithinOpt1 m o (if fwKept x1.num then some (x0, St.OK) else x0.fwOne x1.num y.1 y.2) :=
      .ite (.some hx0) (Within.fwOne hx0)
    split
    · exact .none
    · rename_i r e
      exact .ite (ih (.setFwVal (h _ e))) (.some (h _ e))

theorem Within.notchSelect {x0 : State} {x1 : Desc} {x2 : List Byte} (hx0 : Within m o x0)
    (hm : Sub 536870911 m := by first | exact Sub.le (by assumption) ⟨rfl⟩ | exact ⟨rfl⟩) : Within m o (State.notchSelect x0 x1 x2) := by
  unfold State.notchSelect
  extract_lets -merge +onlyGivenNames t0
  have h2 : ∀ {y0} {y1}, Within m o y0 → Within m o (t0 y0 y1) := fun h1 => .tryWrites h1
  clear_value t0
  exact h2 (h2 (h2 hx0))

theorem Within.fwWrite {x0 : State} {x1 : Desc} {x2 : List (Nat × List Byte)} (hx0 : Within m o x0)
    (hm : Sub 536870911 m := by first | exact Sub.le (by assumption) ⟨rfl⟩ | exact ⟨rfl⟩) : WithinOpt1 m o (State.fwWrite x0 x1 x2) := by
  unfold State.fwWrite
  refine .ite ?_ ?_
  · exact .some hx0
  · split
    · exact .none
    · refine .ite ?_ ?_
      · exact .some (.notchSelect ((Within.fwElems hx0) _ (by assumption)))
      · exact .some ((Within.fwElems hx0) _ (by assumption))

theorem Within.fwDrop {x0 : State} {x1 : Nat} (hx0 : Within m o x0)
    (hm : Sub 4194304 m := by first | exact Sub.le (by assumption) ⟨rfl⟩ | exact ⟨rfl⟩) : Within m o (State.fwDrop x0 x1) :=
  .setOde hx0

theorem Within.mcRead {x0 : State} {x1 : Nat} (hx0 : Within m o x0)
    (hm : Sub 162363517 m := by first | exact Sub.le (by assumption) ⟨rfl⟩ | exact ⟨rfl⟩) : Within m o (State.mcRead x0 x1).1 := by
  unfold State.mcRead
  extract_lets -merge +onlyGivenNames t0
  have h1 : Within m o (t0).1 := .taken (.regRead hx0)
  clear_value t0
  exact h1

theorem Within.saCounts {x0 : State} {x1 : Nat} (hx0 : Within m o x0)
    (hm : Sub 0 m := by first | exact Sub.le (by assumption) ⟨rfl⟩ | exact ⟨rfl⟩) : Within m o (State.saCounts x0 x1).1 := by
  unfold State.saCounts
  exact .used hx0

theorem Within.fwRead {x0 : State} {x1 : Desc} {x2 : Nat} (hx0 : Within m o x0)
    (hm : Sub 162363517 m := by first | exact Sub.le (by assumption) ⟨rfl⟩ | exact ⟨rfl⟩) : Within m o (State.fwRead x0 x1 x2).1 := by
  unfold State.fwRead
  extract_lets -merge +onlyGivenNames t0
  clear_value t0
  split
  · extract_lets -merge +onlyGivenNames t1 t3
    have h2 : Within m o (t1).1 := .mcRead hx0
    clear_value t1 t3
    exact h2
  · refine .iteP ?_ ?_
    · extract_lets -merge +onlyGivenNames t4
      have h5 : Within m o (t4).1 := .saCounts hx0
      clear_value t4
      exact h5
    · split
      · exact hx0
      · exact hx0

theorem Within.fwPost {x0 : State} {x1 : Desc} {x2 : Nat} {x3 : Nat} {x4 : Nat} {x5 : List Byte} (hx0 : Within m o x0)
    (hm : Sub 4194304 m := by first | exact Sub.le (by assumption) ⟨rfl⟩ | exact ⟨rfl⟩) : Within m o (State.fwPost x0 x1 x2 x3 x4 x5).1 := by
  unfold State.fwPost
  extract_lets -merge +onlyGivenNames t0 t1
  clear_value t0 t1
  exact .setOde hx0

theorem Within.fwPostQuiet {x0 : State} {x1 : Desc} {x2 : Nat} {x3 : List Byte} (hx0 : Within m o x0)
    (hm : Sub 4194304 m := by first | exact Sub.le (by assumption) ⟨rfl⟩ | exact ⟨rfl⟩) : Within m o (State.fwPostQuiet x0 x1 x2 x3) := by
  unfold State.fwPostQuiet
  extract_lets -merge +onlyGivenNames t0
  have h1 : Within m o (t0).1 := .fwPost hx0
  clear_value t0
  exact .setOde h1

/-! OdeAccess -/

theorem Within.jKeep {x0 : State} (hx0 : Within m o x0)
    (hm : Sub 1 m := by first | exact Sub.le (by assumption) ⟨rfl⟩ | exact ⟨rfl⟩) : Within m o (State.jKeep x0) :=
  .wf hx0

theorem Within.journal {x0 : State} {x1 : List (Desc × Nat × List Byte)} (hx0 : Within m o x0)
    (hm : Sub 4194305 m := by first | exact Sub.le (by assumption) ⟨rfl⟩ | exact ⟨rfl⟩) : Within m o (State.journal x0 x1) := by
  unfold State.journal
  extract_lets -merge +onlyGivenNames t0
  clear_value t0
  refine .ite ?_ ?_
  · exact hx0
  · extract_lets -merge +onlyGivenNames t1
    clear_value t1
    exact .jKeep (.setOde hx0)

theorem Within.wrote {x0 : State} {x1 : List (Desc × Nat × List Byte)} (hx0 : Within m o x0)
    (hm : Sub 4194305 m := by first | exact Sub.le (by assumption) ⟨rfl⟩ | exact ⟨rfl⟩) : Within m o (State.wrote x0 x1) :=
  .ite (.journal (.wb hx0)) (.journal hx0)

theorem Within.readElems {x0 : State} {x1 : Desc} {x2 : List Nat} (hx0 : Within m o x0)
    (hm : Sub 162363517 m := by first | exact Sub.le (by assumption) ⟨rfl⟩ | exact ⟨rfl⟩) : Within m o (State.readElems x0 x1 x2).1 := by
  induction x2 generalizing x0 x1 with
  | nil =>
    exact hx0
  | cons y l ih =>
    rw [State.readElems]
    split
    · exact ih (by
        refine .iteP ?_ ?_
        · exact .fwRead hx0
        · exact .elemRead hx0)
    · exact ih (by
        refine .iteP ?_ ?_
        · exact .fwRead hx0
        · exact .elemRead hx0)

theorem Within.readParam {x0 : State} {x1 : Desc} {x2 : Nat} {x3 : List Nat} (hx0 : Within m o x0)
    (hm : Sub 166557821 m := by first | exact Sub.le (by assumption) ⟨rfl⟩ | exact ⟨rfl⟩) : Within m o (State.readParam x0 x1 x2 x3).1 := by
  unfold State.readParam
  extract_lets -merge +onlyGivenNames t0
  have h1 : Within m o (t0).1 := .readElems hx0
  clear_value t0
  split
  · exact h1
  · refine .iteP ?_ ?_
    · extract_lets -merge +onlyGivenNames t2
      have h3 : Within m o (t2).1 := .fwPost hx0
      clear_value t2
      exact h3
    · exact h1

theorem Within.applyOps {x0 : State} {x1 : List RegOp} (hx0 : Within m o x0)
    (hm : Sub 536870911 m := by first | exact Sub.le (by assumption) ⟨rfl⟩ | exact ⟨rfl⟩) : Within m o (State.applyOps x0 x1).1 := by
  induction x1 generalizing x0 with
  | nil =>
    exact hx0
  | cons y l ih =>
    rw [State.applyOps]
    split
    · extract_lets -merge +onlyGivenNames t0
      have h1 : Within m o (t0).1 := ih (.taken (.regRead hx0))
      clear_value t0
      exact h1
    · extract_lets -merge +onlyGivenNames t2 t4
      have h3 : Within m o (t2).1 := .tryWrite (.taken (.regRead hx0))
      have h5 : Within m o (t4).1 := ih h3
      clear_value t2 t4
      refine .iteP ?_ ?_
      · exact h5
      · exact h5

theorem Within.undo {x0 : State} {x1 : List (Nat × Word)} (hx0 : Within m o x0)
    (hm : Sub 536870911 m := by first | exact Sub.le (by assumption) ⟨rfl⟩ | exact ⟨rfl⟩) : Within m o (State.undo x0 x1) := by
  induction x1 generalizing x0 with
  | nil =>
    exact hx0
  | cons y l ih =>
    rw [State.undo]
    exact ih (.regWrite hx0)

theorem Within.applyStore {x0 : State} {x1 : List (Desc × Nat × List Byte)} (hx0 : Within m o x0)
    (hm : Sub 2 m := by first | exact Sub.le (by assumption) ⟨rfl⟩ | exact ⟨rfl⟩) : Within m o (State.applyStore x0 x1) := by
  induction x1 generalizing x0 with
  | nil =>
    exact hx0
  | cons y l ih =>
    rw [State.applyStore]
    exact ih (.ite (.storeWrite hx0) hx0)

theorem Within.applyAll {x0 : State} {x1 : Entries} (hx0 : Within m o x0)
    (hm : Sub 536870911 m := by first | exact Sub.le (by assumption) ⟨rfl⟩ | exact ⟨rfl⟩) : Within m o (State.applyAll x0 x1).1 := by
  unfold State.applyAll
  extract_lets -merge +onlyGivenNames t0
  have h1 : Within m o (t0).1 := .applyOps hx0
  clear_value t0
  split
  · exact .undo h1
  · exact .applyStore h1

/-! OdeJournal -/

theorem Within.retire {x0 : State} {x1 : Nat} (hx0 : Within m o x0)
    (hm : Sub 4194305 m := by first | exact Sub.le (by assumption) ⟨rfl⟩ | exact ⟨rfl⟩) : Within m o (State.retire x0 x1) :=
  .bump (.setOde hx0)

theorem Within.jPut {x0 : State} {x1 : Nat} {x2 : List Nat} (hx0 : Within m o x0)
    (hm : Sub 71303169 m := by first | exact Sub.le (by assumption) ⟨rfl⟩ | exact ⟨rfl⟩) : Within m o (State.jPut x0 x1 x2) := by
  unfold State.jPut
  extract_lets -merge +onlyGivenNames t0 t1
  have h2 : Within m o (t1) := .flashOps (.pairWrite hx0)
  clear_value t0 t1
  exact .setOde h2

theorem Within.jPutGroup {x0 : State} {x1 : List JVal} (hx0 : Within m o x0)
    (hm : Sub 71303169 m := by first | exact Sub.le (by assumption) ⟨rfl⟩ | exact ⟨rfl⟩) : Within m o (State.jPutGroup x0 x1) := by
  unfold State.jPutGroup
  extract_lets -merge +onlyGivenNames t0
  have h1 : Within m o (t0) := .foldl (fun h => .jPut h) hx0
  clear_value t0
  exact .ite (.jPut h1) h1

theorem Within.restoreOwn {x0 : State} {x1 : JVal} (hx0 : Within m o x0)
    (hm : Sub 1 m := by first | exact Sub.le (by assumption) ⟨rfl⟩ | exact ⟨rfl⟩) : Within m o (State.restoreOwn x0 x1) :=
  .ite (.foldl (fun h => .setRegN h) hx0) (.ite (.setRegN hx0) (.wb hx0))

theorem Within.jSkip {x0 : State} {x1 : Nat} (hx0 : Within m o x0)
    (hm : Sub 1 m := by first | exact Sub.le (by assumption) ⟨rfl⟩ | exact ⟨rfl⟩) : Within m o (State.jSkip x0 x1) :=
  .bumpBy hx0

theorem Within.jCheck {x0 : State} {x1 : List JVal} (hx0 : Within m o x0)
    (hm : Sub 1 m := by first | exact Sub.le (by assumption) ⟨rfl⟩ | exact ⟨rfl⟩) : Within m o (State.jCheck x0 x1).1 := by
  induction x1 generalizing x0 with
  | nil =>
    exact hx0
  | cons y l ih =>
    rw [State.jCheck]
    split
    · exact ih (.jSkip hx0)
    · split
      · exact ih (.jSkip hx0)
      · extract_lets -merge +onlyGivenNames t0
        have h1 : Within m o (t0).1 := ih hx0
        clear_value t0
        exact h1

theorem Within.fwGive {x0 : State} {x1 : Desc} {x2 : Nat} {x3 : List (Nat × List Byte)} (hx0 : Within m o x0)
    (hm : Sub 536870911 m := by first | exact Sub.le (by assumption) ⟨rfl⟩ | exact ⟨rfl⟩) : Within m o (State.fwGive x0 x1 x2 x3) := by
  unfold State.fwGive
  split
  · exact .ite ((Within.fwWrite hx0) _ (by assumption)) (.jSkip ((Within.fwWrite hx0) _ (by assumption)))
  · exact .fwPostQuiet hx0

theorem Within.jApply {x0 : State} {x1 : List JVal} (hx0 : Within m o x0)
    (hm : Sub 536870911 m := by first | exact Sub.le (by assumption) ⟨rfl⟩ | exact ⟨rfl⟩) : Within m o (State.jApply x0 x1) := by
  unfold State.jApply
  extract_lets -merge +onlyGivenNames t0 t2 t4 t6
  have h1 : Within m o (t0) := .foldl (fun h => .restoreOwn h) hx0
  have h3 : Within m o (t2).1 := .jCheck h1
  have h5 : Within m o (t4).1 := .applyAll h3
  have h7 : Within m o (t6) := .ite (.jSkip h5) h5
  clear_value t0 t2 t4 t6
  exact .foldl (fun h => .fwGive h) h7

theorem Within.jReplayGroup {x0 : State} {x1 : List JVal} (hx0 : Within m o x0)
    (hm : Sub 536870911 m := by first | exact Sub.le (by assumption) ⟨rfl⟩ | exact ⟨rfl⟩) : Within m o (State.jReplayGroup x0 x1) := by
  unfold State.jReplayGroup
  extract_lets -merge +onlyGivenNames t0 t1
  have h2 : Within m o (t1) := .setOde hx0
  clear_value t0 t1
  exact .jApply h2

theorem Within.heldApply {x0 : State} (hx0 : Within m o x0)
    (hm : Sub 536870911 m := by first | exact Sub.le (by assumption) ⟨rfl⟩ | exact ⟨rfl⟩) : Within m o (State.heldApply x0) := by
  unfold State.heldApply
  extract_lets -merge +onlyGivenNames t0 t1
  clear_value t0 t1
  exact .foldl (fun h => .jApply h) (.setOde hx0)

theorem Within.execHeldValuesApply {x0 : State} (hx0 : Within m o x0)
    (hm : Sub 536870911 m := by first | exact Sub.le (by assumption) ⟨rfl⟩ | exact ⟨rfl⟩) : WithinOut m o (execHeldValuesApply x0) := by
  unfold Sys2Proof.Machine.execHeldValuesApply
  refine .ite ?_ ?_
  · exact .next hx0
  · exact .next (.heldApply hx0)

theorem Within.jDrain {x0 : State} {x1 : List (List JVal)} (hx0 : Within m o x0)
    (hm : Sub 71303169 m := by first | exact Sub.le (by assumption) ⟨rfl⟩ | exact ⟨rfl⟩) : Within m o (State.jDrain x0 x1) := by
  induction x1 generalizing x0 with
  | nil =>
    exact hx0
  | cons y l ih =>
    rw [State.jDrain]
    exact .ite (.wf hx0) (ih (.setOde (.jPutGroup hx0)))

theorem Within.putDefaults {x0 : State} {x1 : Desc} (hx0 : Within m o x0)
    (hm : Sub 536870911 m := by first | exact Sub.le (by assumption) ⟨rfl⟩ | exact ⟨rfl⟩) : Within m o (State.putDefaults x0 x1) := by
  unfold State.putDefaults
  extract_lets -merge +onlyGivenNames t0 t1
  clear_value t0 t1
  exact .ite (.ite hx0 (.applyOps hx0)) (.ite (.foldl (fun h => .storeWrite h) hx0) hx0)

theorem Within.jReplay {x0 : State} (hx0 : Within m o x0)
    (hm : Sub 536870911 m := by first | exact Sub.le (by assumption) ⟨rfl⟩ | exact ⟨rfl⟩) : Within m o (State.jReplay x0) := by
  unfold State.jReplay
  extract_lets -merge +onlyGivenNames t0 t1 t2 t3 t4 t6 t8 t10 t12
  have h5 : Within m o (t4) := .wf hx0
  have h7 : Within m o (t6) := .setRegN h5
  have h9 : Within m o (t8) := by
    unfold t8
    clear_value t0 t1 t2 t3
    split
    · exact .wf (.setOde (.wf h7))
    · exact .setOde h7
  have h11 : Within m o (t10) := .setOde h9
  have h13 : Within m o (t12) := .foldl (fun h => .raise (.bump h)) h11
  clear_value t0 t1 t2 t3 t4 t6 t8 t10 t12
  exact .foldl (fun h => .jReplayGroup h) h13

theorem Within.execDictionaryImageLoad {x0 : State} (hx0 : Within m o x0)
    (hm : Sub 536870911 m := by first | exact Sub.le (by assumption) ⟨rfl⟩ | exact ⟨rfl⟩) : WithinOut m o (execDictionaryImageLoad x0) := by
  unfold Sys2Proof.Machine.execDictionaryImageLoad
  refine .ite ?_ ?_
  · exact .next hx0
  · refine .ite ?_ ?_
    · exact .next (.refuse (.used hx0))
    · extract_lets -merge +onlyGivenNames t0 t2 t4
      have h1 : Within m o (t0) := .setRegN (.wf hx0)
      have h3 : Within m o (t2) := .foldl (fun h => .putDefaults h) h1
      have h5 : Within m o (t4) := .jKeep (.jReplay h3)
      clear_value t0 t2 t4
      exact .next (.stepsTo h5)

theorem Within.jFail {x0 : State} (hx0 : Within m o x0)
    (hm : Sub 17 m := by first | exact Sub.le (by assumption) ⟨rfl⟩ | exact ⟨rfl⟩) : Within m o (State.jFail x0) :=
  .raise (.wf hx0)

theorem Within.jStart {x0 : State} {x1 : Nat} (hx0 : Within m o x0)
    (hm : Sub 233666685 m := by first | exact Sub.le (by assumption) ⟨rfl⟩ | exact ⟨rfl⟩) : Within m o (State.jStart x0 x1) := by
  unfold State.jStart
  extract_lets -merge +onlyGivenNames t0 t1 t2 t3 t4 t5 t7 t9 t11 t13 t15 t17
  have h6 : Within m o (t5) := .wf (.flashOps (.flashErase hx0))
  have h8 : Within m o (t7) := .setOde h6
  have h10 : Within m o (t9) := .jPut h8
  have h12 : Within m o (t11) := .foldl (fun h => .jPut h) h10
  have h14 : Within m o (t13) := .jPut h12
  have h16 : Within m o (t15) := .setOde h14
  have h18 : Within m o (t17) := .wf (.setRegN h16)
  clear_value t0 t1 t2 t3 t4 t5 t7 t9 t11 t13 t15 t17
  exact .ite (.raise h18) h18

theorem Within.jCompact {x0 : State} {x1 : Nat} (hx0 : Within m o x0)
    (hm : Sub 233666685 m := by first | exact Sub.le (by assumption) ⟨rfl⟩ | exact ⟨rfl⟩) : Within m o (State.jCompact x0 x1) := by
  induction x1 generalizing x0 with
  | zero =>
    rw [State.jCompact]
    split
    · exact .jFail hx0
    · extract_lets -merge +onlyGivenNames t0
      clear_value t0
      exact .ite (.jFail hx0) (.jStart hx0)
  | succ n ih =>
    rw [State.jCompact]
    split
    · exact .jFail hx0
    · exact ih (.retire hx0)

theorem Within.execJournalCompact {x0 : Nat} {x1 : State} (hx1 : Within m o x1)
    (hm : Sub 233666685 m := by first | exact Sub.le (by assumption) ⟨rfl⟩ | exact ⟨rfl⟩) : WithinOut m o (execJournalCompact x0 x1) := by
  unfold Sys2Proof.Machine.execJournalCompact
  refine .ite ?_ ?_
  · exact .next (.jKeep (.jCompact hx1))
  · exact .next hx1

theorem Within.execJournalCommit {x0 : Bool} {x1 : State} (hx1 : Within m o x1)
    (hm : Sub 71303169 m := by first | exact Sub.le (by assumption) ⟨rfl⟩ | exact ⟨rfl⟩) : WithinOut m o (execJournalCommit x0 x1) := by
  unfold Sys2Proof.Machine.execJournalCommit
  refine .ite ?_ ?_
  · exact .next hx1
  · refine .ite ?_ ?_
    · exact .next (.wf (.retire hx1))
    · exact .next (.jKeep (.jDrain hx1))

/-! OdeDigest -/

theorem Within.commitTo {x0 : State} {x1 : Nat} {x2 : List Byte} (hx0 : Within m o x0)
    (hm : Sub 4718609 m := by first | exact Sub.le (by assumption) ⟨rfl⟩ | exact ⟨rfl⟩) : Within m o (State.commitTo x0 x1 x2) := by
  unfold State.commitTo
  extract_lets -merge +onlyGivenNames t0 t2 t4
  have h1 : Within m o (t0) := .foldl (fun h => .setRegN h) hx0
  have h3 : Within m o (t2) := .wb (.setRegN h1)
  have h5 : Within m o (t4) := .raise (.journal h3)
  clear_value t0 t2 t4
  exact .extendMr h5

theorem Within.commit {x0 : State} {x1 : Nat} (hx0 : Within m o x0)
    (hm : Sub 166557821 m := by first | exact Sub.le (by assumption) ⟨rfl⟩ | exact ⟨rfl⟩) : Within m o (State.commit x0 x1).1 := by
  unfold State.commit
  refine .iteP ?_ ?_
  · exact .commitTo hx0
  · exact hx0

theorem Within.pullEnd {x0 : State} {x1 : Bool} {x2 : Nat} (hx0 : Within m o x0)
    (hm : Sub 4194321 m := by first | exact Sub.le (by assumption) ⟨rfl⟩ | exact ⟨rfl⟩) : Within m o (State.pullEnd x0 x1 x2) := by
  unfold State.pullEnd
  extract_lets -merge +onlyGivenNames t0
  have h1 : Within m o (t0) := .setOde hx0
  clear_value t0
  exact .raise (.bump h1)

theorem Within.pullApply {x0 : State} {x1 : Entries} (hx0 : Within m o x0)
    (hm : Sub 536870911 m := by first | exact Sub.le (by assumption) ⟨rfl⟩ | exact ⟨rfl⟩) : Within m o (State.pullApply x0 x1) := by
  unfold State.pullApply
  extract_lets -merge +onlyGivenNames t0 t2
  have h1 : Within m o (t0).1 := .applyAll hx0
  have h3 : Within m o (t2) := .ite h1 (.journal h1)
  clear_value t0 t2
  exact .foldl (fun h => by
    split
    · exact .ite (.journal ((Within.fwWrite h) _ (by assumption))) ((Within.fwWrite h) _ (by assumption))
    · exact .foldl (fun h => .fwPostQuiet h) h) h3

theorem Within.pullAll {x0 : State} {x1 : Nat} {x2 : Entries} (hx0 : Within m o x0)
    (hm : Sub 536870911 m := by first | exact Sub.le (by assumption) ⟨rfl⟩ | exact ⟨rfl⟩) : Within m o (State.pullAll x0 x1 x2) := by
  induction x1 generalizing x0 x2 with
  | zero =>
    exact hx0
  | succ n ih =>
    rw [State.pullAll]
    exact .ite hx0 (ih (.pullApply hx0))

theorem Within.pull {x0 : State} {x1 : Nat} {x2 : PullIn} (hx0 : Within m o x0)
    (hm : Sub 536870911 m := by first | exact Sub.le (by assumption) ⟨rfl⟩ | exact ⟨rfl⟩) : Within m o (State.pull x0 x1 x2) := by
  unfold State.pull
  extract_lets -merge +onlyGivenNames t0 t1
  clear_value t0 t1
  split
  · exact .pullEnd hx0
  · extract_lets -merge +onlyGivenNames t2
    clear_value t2
    refine .ite ?_ ?_
    · exact .pullEnd hx0
    · refine .ite ?_ ?_
      · exact .pullEnd (.errSet hx0)
      · extract_lets -merge +onlyGivenNames t3
        have h4 : Within m o (t3) := .pullAll hx0
        clear_value t3
        exact .pullEnd (.commitTo h4)

theorem Within.execDigestPull {x0 : PullIn} {x1 : State} (hx1 : Within m o x1)
    (hm : Sub 536870911 m := by first | exact Sub.le (by assumption) ⟨rfl⟩ | exact ⟨rfl⟩) : WithinOut m o (execDigestPull x0 x1) := by
  unfold Sys2Proof.Machine.execDigestPull
  split
  · exact .next hx1
  · refine .ite ?_ ?_
    · exact .next hx1
    · extract_lets -merge +onlyGivenNames t0
      have h1 : Within m o (t0) := .setOde hx1
      clear_value t0
      refine .ite ?_ ?_
      · exact .next (.pull h1)
      · exact .next h1

theorem Within.execPullRetry {x0 : PullIn} {x1 : State} (hx1 : Within m o x1)
    (hm : Sub 536870911 m := by first | exact Sub.le (by assumption) ⟨rfl⟩ | exact ⟨rfl⟩) : WithinOut m o (execPullRetry x0 x1) := by
  unfold Sys2Proof.Machine.execPullRetry
  split
  · exact .next hx1
  · refine .ite ?_ ?_
    · exact .next hx1
    · extract_lets -merge +onlyGivenNames t0
      have h1 : Within m o (t0) := .setOde hx1
      clear_value t0
      refine .ite ?_ ?_
      · exact .next (.pull h1)
      · exact .next h1

end Sys2Proof.Machine
end

