-- ==== Sys2Proof/Laws/Within10.lean ====
section
/-! SUPPORT. Which parts of the state every operation touches (`Within`), one lemma for each: OdeHdp, OdeIo, OdeCmd, Bus, DmaMove. -/

namespace Sys2Proof.Machine

set_option Elab.async false
set_option linter.unusedVariables false

variable {m : Nat} {o : State}

/-! OdeHdp -/

theorem Within.fwTook {x0 : State} {x1 : FwReq} {x2 : Bool} (hx0 : Within m o x0)
    (hm : Sub 4194305 m := by first | exact Sub.le (by assumption) ⟨rfl⟩ | exact ⟨rfl⟩) : Within m o (State.fwTook x0 x1 x2) := by
  unfold State.fwTook
  split
  · exact hx0
  · extract_lets -merge +onlyGivenNames t0
    have h1 : Within m o (t0) := .foldl (fun h => .setFwVal h) hx0
    clear_value t0
    exact .ite (.wrote h1) (.journal h1)

theorem Within.reqDone {x0 : State} (hx0 : Within m o x0)
    (hm : Sub 4194305 m := by first | exact Sub.le (by assumption) ⟨rfl⟩ | exact ⟨rfl⟩) : Within m o (State.reqDone x0) :=
  .odeKeep (.setOde hx0)

theorem Within.noteStatus {x0 : State} {x1 : Nat} (hx0 : Within m o x0)
    (hm : Sub 17 m := by first | exact Sub.le (by assumption) ⟨rfl⟩ | exact ⟨rfl⟩) : Within m o (State.noteStatus x0 x1) :=
  .ite (.raise (.bump hx0)) (.ite (.raise hx0) (.ite (.bump hx0) hx0))

theorem Within.setSession {x0 : State} {x1 : Nat} {x2 : Session → Session} (hx0 : Within m o x0)
    (hm : Sub 4194305 m := by first | exact Sub.le (by assumption) ⟨rfl⟩ | exact ⟨rfl⟩) : Within m o (State.setSession x0 x1 x2) :=
  .setSessions hx0

theorem Within.reply {x0 : State} {x1 : OdeReq} {x2 : Nat} {x3 : Nat} {x4 : List Byte} (hx0 : Within m o x0)
    (hm : Sub 29360145 m := by first | exact Sub.le (by assumption) ⟨rfl⟩ | exact ⟨rfl⟩) : Within m o (State.reply x0 x1 x2 x3 x4) := by
  unfold State.reply
  extract_lets -merge +onlyGivenNames t0
  have h1 : Within m o (t0) := .reqDone (.noteStatus (.bump hx0))
  clear_value t0
  split
  · exact h1
  · split
    · exact h1
    · exact .pduOut (.setSession h1)

theorem Within.replySt {x0 : State} {x1 : OdeReq} {x2 : Nat} (hx0 : Within m o x0)
    (hm : Sub 29360145 m := by first | exact Sub.le (by assumption) ⟨rfl⟩ | exact ⟨rfl⟩) : Within m o (State.replySt x0 x1 x2) :=
  .reply hx0

theorem Within.reqStart {x0 : State} {x1 : OdeReq} (hx0 : Within m o x0)
    (hm : Sub 4194305 m := by first | exact Sub.le (by assumption) ⟨rfl⟩ | exact ⟨rfl⟩) : Within m o (State.reqStart x0 x1) :=
  .odeKeep (.setOde hx0)

theorem Within.readRefs {x0 : State} {x1 : OdeReq} {x2 : List Byte} {x3 : List Nat} (hx0 : Within m o x0)
    (hm : Sub 166557821 m := by first | exact Sub.le (by assumption) ⟨rfl⟩ | exact ⟨rfl⟩) : Within m o (State.readRefs x0 x1 x2 x3) := by
  induction x3 generalizing x0 x1 x2 with
  | nil =>
    exact .ite (.replySt hx0) (.reply hx0)
  | cons y l ih =>
    rw [State.readRefs]
    split
    · exact ih (.noteStatus hx0)
    · extract_lets -merge +onlyGivenNames t0
      have h1 : Within m o (t0).1 := .readParam hx0
      clear_value t0
      split
      · exact ih h1
      · exact ih h1
      · exact .reqStart h1

theorem Within.replyInvoke {x0 : State} {x1 : OdeReq} {x2 : Nat} {x3 : List Byte} (hx0 : Within m o x0)
    (hm : Sub 29360145 m := by first | exact Sub.le (by assumption) ⟨rfl⟩ | exact ⟨rfl⟩) : Within m o (State.replyInvoke x0 x1 x2 x3) :=
  .reply hx0

theorem Within.fwDone {x0 : State} {x1 : FwReq} {x2 : Nat} {x3 : List Byte} (hx0 : Within m o x0)
    (hm : Sub 166557821 m := by first | exact Sub.le (by assumption) ⟨rfl⟩ | exact ⟨rfl⟩) : Within m o (State.fwDone x0 x1 x2 x3) := by
  unfold State.fwDone
  extract_lets -merge +onlyGivenNames t0
  have h1 : Within m o (t0) := .fwDrop hx0
  clear_value t0
  split
  · exact .ite (.fwTook h1) h1
  · extract_lets -merge +onlyGivenNames t2
    clear_value t2
    refine .ite ?_ ?_
    · extract_lets -merge +onlyGivenNames t3
      clear_value t3
      exact .readRefs (.noteStatus h1)
    · exact .ite (.replySt h1) (.ite (.replySt (.fwTook h1)) (.replyInvoke h1))

theorem Within.hdpDescribe {x0 : State} {x1 : OdeReq} (hx0 : Within m o x0)
    (hm : Sub 29360145 m := by first | exact Sub.le (by assumption) ⟨rfl⟩ | exact ⟨rfl⟩) : Within m o (State.hdpDescribe x0 x1) := by
  unfold State.hdpDescribe
  extract_lets -merge +onlyGivenNames t0
  clear_value t0
  refine .ite ?_ ?_
  · exact .replySt hx0
  · split
    · exact .replySt hx0
    · extract_lets -merge +onlyGivenNames t1
      clear_value t1
      split
      · exact .replySt hx0
      · exact .reply hx0

theorem Within.replyPlain {x0 : State} {x1 : OdeReq} {x2 : Nat} {x3 : Nat} {x4 : List Byte} (hx0 : Within m o x0)
    (hm : Sub 29360145 m := by first | exact Sub.le (by assumption) ⟨rfl⟩ | exact ⟨rfl⟩) : Within m o (State.replyPlain x0 x1 x2 x3 x4) :=
  .pduOut (.reqDone (.noteStatus (.bump (.used hx0))))

theorem Within.replyBad {x0 : State} {x1 : Session} {x2 : OdeReq} (hx0 : Within m o x0)
    (hm : Sub 29360145 m := by first | exact Sub.le (by assumption) ⟨rfl⟩ | exact ⟨rfl⟩) : Within m o (State.replyBad x0 x1 x2) := by
  unfold State.replyBad
  extract_lets -merge +onlyGivenNames t0
  have h1 : Within m o (t0) := .noteStatus (.bump hx0)
  clear_value t0
  split
  · exact h1
  · exact .pduOut (.setSession h1)

theorem Within.endSession {x0 : State} {x1 : Nat} (hx0 : Within m o x0)
    (hm : Sub 4194305 m := by first | exact Sub.le (by assumption) ⟨rfl⟩ | exact ⟨rfl⟩) : Within m o (State.endSession x0 x1) :=
  .setSessions hx0

theorem Within.tagFail {x0 : State} (hx0 : Within m o x0)
    (hm : Sub 17 m := by first | exact Sub.le (by assumption) ⟨rfl⟩ | exact ⟨rfl⟩) : Within m o (State.tagFail x0) :=
  .raise (.bump hx0)

theorem Within.authFail {x0 : State} {x1 : OdeReq} (hx0 : Within m o x0)
    (hm : Sub 29360145 m := by first | exact Sub.le (by assumption) ⟨rfl⟩ | exact ⟨rfl⟩) : Within m o (State.authFail x0 x1) := by
  unfold State.authFail
  extract_lets -merge +onlyGivenNames t0 t1
  have h2 : Within m o (t1) := .setOde hx0
  clear_value t0 t1
  exact .replyPlain (.endSession (.tagFail h2))

theorem Within.anchorWrite {x0 : State} {x1 : Entries} (hx0 : Within m o x0)
    (hm : Sub 4194304 m := by first | exact Sub.le (by assumption) ⟨rfl⟩ | exact ⟨rfl⟩) : Within m o (State.anchorWrite x0 x1) := by
  unfold State.anchorWrite
  extract_lets -merge +onlyGivenNames t0 t1
  have h2 : Within m o (t1) := .foldl (fun h => .foldl (fun h => .setFwVal h) h) hx0
  clear_value t0 t1
  exact .ite (.setOde h2) h2

theorem Within.withReq {x0 : State} {x1 : Nat} {x2 : State → OdeReq → State} (hx0 : Within m o x0) (hx2 : ∀ {y0} {y1}, Within m o y0 → Within m o (x2 y0 y1))
    (hm : Sub 0 m := by first | exact Sub.le (by assumption) ⟨rfl⟩ | exact ⟨rfl⟩) : Within m o (State.withReq x0 x1 x2) := by
  unfold State.withReq
  split
  · exact .ite (hx2 hx0) hx0
  · exact hx0

theorem Within.bare {x0 : State} {x1 : OdeReq} {x2 : State → State} (hx0 : Within m o x0) (hx2 : ∀ {y0}, Within m o y0 → Within m o (x2 y0))
    (hm : Sub 29360145 m := by first | exact Sub.le (by assumption) ⟨rfl⟩ | exact ⟨rfl⟩) : Within m o (State.bare x0 x1 x2) :=
  .ite (hx2 hx0) (.replySt hx0)

theorem Within.execHdpPing {x0 : State} (hx0 : Within m o x0)
    (hm : Sub 29360145 m := by first | exact Sub.le (by assumption) ⟨rfl⟩ | exact ⟨rfl⟩) : WithinOut m o (execHdpPing x0) := by
  unfold Sys2Proof.Machine.execHdpPing
  exact .next (.withReq hx0 (fun h0 => .bare h0 (fun h1 => .replySt h1)))

theorem Within.hdpRead {x0 : State} {x1 : OdeReq} (hx0 : Within m o x0)
    (hm : Sub 166557821 m := by first | exact Sub.le (by assumption) ⟨rfl⟩ | exact ⟨rfl⟩) : Within m o (State.hdpRead x0 x1) := by
  unfold State.hdpRead
  extract_lets -merge +onlyGivenNames t0
  clear_value t0
  exact .ite (.replySt hx0) (.readRefs hx0)

theorem Within.openSession {x0 : State} {x1 : OdeReq} {x2 : Nat} {x3 : Nat} {x4 : Bool} {x5 : Bool} (hx0 : Within m o x0)
    (hm : Sub 29884433 m := by first | exact Sub.le (by assumption) ⟨rfl⟩ | exact ⟨rfl⟩) : Within m o (State.openSession x0 x1 x2 x3 x4 x5) := by
  unfold State.openSession
  extract_lets -merge +onlyGivenNames t0 t1 t3
  have h2 : Within m o (t1).1 := .draw (.used hx0)
  clear_value t0 t1 t3
  exact .replyPlain (.setSessions h2)

theorem Within.takeFirst {x0 : State} {x1 : List Byte} {x2 : OdeReq} (hx0 : Within m o x0)
    (hm : Sub 29360145 m := by first | exact Sub.le (by assumption) ⟨rfl⟩ | exact ⟨rfl⟩) : Within m o (State.takeFirst x0 x1 x2) := by
  unfold State.takeFirst
  refine .ite ?_ ?_
  · exact hx0
  · refine .ite ?_ ?_
    · exact .replyPlain hx0
    · split
      · exact .replyPlain hx0
      · exact .reqStart hx0

theorem Within.takeOpen {x0 : State} {x1 : Session} {x2 : List Byte} {x3 : OdeReq} (hx0 : Within m o x0)
    (hm : Sub 29360145 m := by first | exact Sub.le (by assumption) ⟨rfl⟩ | exact ⟨rfl⟩) : Within m o (State.takeOpen x0 x1 x2 x3) := by
  unfold State.takeOpen
  refine .ite ?_ ?_
  · exact .replyBad hx0
  · refine .ite ?_ ?_
    · exact .pduOut hx0
    · refine .ite ?_ ?_
      · exact .raise (.bump hx0)
      · extract_lets -merge +onlyGivenNames t0
        have h1 : Within m o (t0) := .setSession hx0
        clear_value t0
        split
        · exact .replySt h1
        · exact .ite (.replySt h1) (.reqStart h1)

theorem Within.pduTake {x0 : State} {x1 : Nat} {x2 : List Byte} (hx0 : Within m o x0)
    (hm : Sub 29360145 m := by first | exact Sub.le (by assumption) ⟨rfl⟩ | exact ⟨rfl⟩) : Within m o (State.pduTake x0 x1 x2) := by
  unfold State.pduTake
  extract_lets -merge +onlyGivenNames t0
  clear_value t0
  refine .ite ?_ ?_
  · exact hx0
  · refine .ite ?_ ?_
    · exact .takeFirst hx0
    · split
      · exact hx0
      · refine .ite ?_ ?_
        · exact hx0
        · refine .ite ?_ ?_
          · exact .ite (.takeFirst hx0) hx0
          · refine .ite ?_ ?_
            · exact .takeOpen hx0
            · split
              · exact .tagFail hx0
              · extract_lets -merge +onlyGivenNames t1
                clear_value t1
                exact .ite (.takeOpen hx0) (.tagFail hx0)

theorem Within.execHdpPduReceive {x0 : State} (hx0 : Within m o x0)
    (hm : Sub 536870911 m := by first | exact Sub.le (by assumption) ⟨rfl⟩ | exact ⟨rfl⟩) : WithinOut m o (execHdpPduReceive x0) := by
  unfold Sys2Proof.Machine.execHdpPduReceive
  refine .ite ?_ ?_
  · exact .next hx0
  · split
    · exact .next hx0
    · extract_lets -merge +onlyGivenNames t0
      have h1 : Within m o (t0) := .heldApply (.setOde hx0)
      clear_value t0
      exact .next (.odeKeep (.pduTake h1))

theorem Within.postReq {x0 : State} {x1 : OdeReq} {x2 : Desc} {x3 : Nat} {x4 : Nat} {x5 : Nat} {x6 : List Byte} (hx0 : Within m o x0)
    (hm : Sub 29360145 m := by first | exact Sub.le (by assumption) ⟨rfl⟩ | exact ⟨rfl⟩) : Within m o (State.postReq x0 x1 x2 x3 x4 x5 x6) := by
  unfold State.postReq
  refine .ite ?_ ?_
  · exact .replySt hx0
  · extract_lets -merge +onlyGivenNames t0
    have h1 : Within m o (t0).1 := .fwPost hx0
    clear_value t0
    exact .reqStart h1

theorem Within.hdpInvoke {x0 : State} {x1 : OdeReq} (hx0 : Within m o x0)
    (hm : Sub 536870911 m := by first | exact Sub.le (by assumption) ⟨rfl⟩ | exact ⟨rfl⟩) : Within m o (State.hdpInvoke x0 x1) := by
  unfold State.hdpInvoke
  split
  · split
    · exact .replySt hx0
    · refine .ite ?_ ?_
      · exact .postReq hx0
      · extract_lets -merge +onlyGivenNames t0 t1
        have h2 : Within m o (t1).1 := .applyAll hx0
        clear_value t0 t1
        split
        · exact .reply h2
        · exact .replyInvoke h2
  · exact .replySt hx0

theorem Within.execHdpInvoke {x0 : State} (hx0 : Within m o x0)
    (hm : Sub 536870911 m := by first | exact Sub.le (by assumption) ⟨rfl⟩ | exact ⟨rfl⟩) : WithinOut m o (execHdpInvoke x0) := by
  unfold Sys2Proof.Machine.execHdpInvoke
  exact .next (.withReq hx0 (fun h0 => .hdpInvoke h0))

theorem Within.execHdpClose {x0 : State} (hx0 : Within m o x0)
    (hm : Sub 29360145 m := by first | exact Sub.le (by assumption) ⟨rfl⟩ | exact ⟨rfl⟩) : WithinOut m o (execHdpClose x0) := by
  unfold Sys2Proof.Machine.execHdpClose
  exact .next (.withReq hx0 (fun h0 => .bare h0 (fun h1 => .endSession (.replySt h1))))

theorem Within.execHdpRead {x0 : State} (hx0 : Within m o x0)
    (hm : Sub 166557821 m := by first | exact Sub.le (by assumption) ⟨rfl⟩ | exact ⟨rfl⟩) : WithinOut m o (execHdpRead x0) := by
  unfold Sys2Proof.Machine.execHdpRead
  exact .next (.withReq hx0 (fun h0 => .hdpRead h0))

theorem Within.hdpOpen {x0 : State} {x1 : OdeReq} (hx0 : Within m o x0)
    (hm : Sub 166557821 m := by first | exact Sub.le (by assumption) ⟨rfl⟩ | exact ⟨rfl⟩) : Within m o (State.hdpOpen x0 x1) := by
  unfold State.hdpOpen
  extract_lets -merge +onlyGivenNames t0 t1 t2 t3 t4 t5
  have h6 : ∀ {y0}, Within m o (t5 y0) := .replyPlain hx0
  clear_value t0 t1 t2 t3 t4 t5
  exact .ite (h6 ) (.ite (h6 ) (.ite (h6 ) (.ite (.ite (h6 ) (.openSession hx0)) (.ite (.openSession hx0) (h6 )))))

theorem Within.execHdpOpen {x0 : State} (hx0 : Within m o x0)
    (hm : Sub 166557821 m := by first | exact Sub.le (by assumption) ⟨rfl⟩ | exact ⟨rfl⟩) : WithinOut m o (execHdpOpen x0) := by
  unfold Sys2Proof.Machine.execHdpOpen
  exact .next (.withReq hx0 (fun h0 => .hdpOpen h0))

theorem Within.hdpAuth {x0 : State} {x1 : OdeReq} (hx0 : Within m o x0)
    (hm : Sub 29360145 m := by first | exact Sub.le (by assumption) ⟨rfl⟩ | exact ⟨rfl⟩) : Within m o (State.hdpAuth x0 x1) := by
  unfold State.hdpAuth
  split
  · exact .reqDone hx0
  · extract_lets -merge +onlyGivenNames t0 t1
    clear_value t0 t1
    refine .ite ?_ ?_
    · exact .replySt hx0
    · refine .ite ?_ ?_
      · exact .replyPlain hx0
      · split
        · exact .authFail hx0
        · refine .ite ?_ ?_
          · extract_lets -merge +onlyGivenNames t2
            have h3 : Within m o (t2) := .setOde hx0
            clear_value t2
            exact .setSession (.replyPlain h3)
          · exact .authFail hx0

theorem Within.execHdpAuth {x0 : State} (hx0 : Within m o x0)
    (hm : Sub 29360145 m := by first | exact Sub.le (by assumption) ⟨rfl⟩ | exact ⟨rfl⟩) : WithinOut m o (execHdpAuth x0) := by
  unfold Sys2Proof.Machine.execHdpAuth
  exact .next (.withReq hx0 (fun h0 => .hdpAuth h0))

theorem Within.writeParam {x0 : State} {x1 : OdeReq} {x2 : Desc} {x3 : Nat} {x4 : Nat} {x5 : List Byte} {x6 : List (Nat × List Byte)} (hx0 : Within m o x0)
    (hm : Sub 536870911 m := by first | exact Sub.le (by assumption) ⟨rfl⟩ | exact ⟨rfl⟩) : Within m o (State.writeParam x0 x1 x2 x3 x4 x5 x6) := by
  unfold State.writeParam
  refine .ite ?_ ?_
  · split
    · exact .postReq hx0
    · exact .ite (.replySt (.wrote ((Within.fwWrite hx0) _ (by assumption)))) (.replySt ((Within.fwWrite hx0) _ (by assumption)))
  · extract_lets -merge +onlyGivenNames t0
    have h1 : Within m o (t0).1 := .applyAll hx0
    clear_value t0
    split
    · exact .reply h1
    · exact .replySt (.wrote h1)

theorem Within.hdpWrite {x0 : State} {x1 : OdeReq} (hx0 : Within m o x0)
    (hm : Sub 536870911 m := by first | exact Sub.le (by assumption) ⟨rfl⟩ | exact ⟨rfl⟩) : Within m o (State.hdpWrite x0 x1) := by
  unfold State.hdpWrite
  split
  · split
    · exact .replySt hx0
    · exact .writeParam hx0
  · exact .replySt hx0

theorem Within.execHdpWrite {x0 : State} (hx0 : Within m o x0)
    (hm : Sub 536870911 m := by first | exact Sub.le (by assumption) ⟨rfl⟩ | exact ⟨rfl⟩) : WithinOut m o (execHdpWrite x0) := by
  unfold Sys2Proof.Machine.execHdpWrite
  exact .next (.withReq hx0 (fun h0 => .hdpWrite h0))

theorem Within.hdpWriteMulti {x0 : State} {x1 : OdeReq} (hx0 : Within m o x0)
    (hm : Sub 536870911 m := by first | exact Sub.le (by assumption) ⟨rfl⟩ | exact ⟨rfl⟩) : Within m o (State.hdpWriteMulti x0 x1) := by
  unfold State.hdpWriteMulti
  extract_lets -merge +onlyGivenNames t0
  clear_value t0
  split
  · exact .replySt hx0
  · refine .ite ?_ ?_
    · exact .replySt hx0
    · split
      · exact .reply hx0
      · refine .ite ?_ ?_
        · exact .replySt hx0
        · extract_lets -merge +onlyGivenNames t1
          have h2 : Within m o (t1).1 := .applyAll hx0
          clear_value t1
          split
          · exact .reply h2
          · exact .replySt (.wrote (.anchorWrite h2))

theorem Within.execHdpWriteMulti {x0 : State} (hx0 : Within m o x0)
    (hm : Sub 536870911 m := by first | exact Sub.le (by assumption) ⟨rfl⟩ | exact ⟨rfl⟩) : WithinOut m o (execHdpWriteMulti x0) := by
  unfold Sys2Proof.Machine.execHdpWriteMulti
  exact .next (.withReq hx0 (fun h0 => .hdpWriteMulti h0))

theorem Within.execHdpDescribe {x0 : State} (hx0 : Within m o x0)
    (hm : Sub 29360145 m := by first | exact Sub.le (by assumption) ⟨rfl⟩ | exact ⟨rfl⟩) : WithinOut m o (execHdpDescribe x0) := by
  unfold Sys2Proof.Machine.execHdpDescribe
  exact .next (.withReq hx0 (fun h0 => .hdpDescribe h0))

theorem Within.hdpSubscribe {x0 : State} {x1 : OdeReq} (hx0 : Within m o x0)
    (hm : Sub 29360145 m := by first | exact Sub.le (by assumption) ⟨rfl⟩ | exact ⟨rfl⟩) : Within m o (State.hdpSubscribe x0 x1) :=
  .ite (.replySt hx0) (.ite (.replySt hx0) (.replySt (.setSession hx0)))

theorem Within.execHdpSubscribe {x0 : State} (hx0 : Within m o x0)
    (hm : Sub 29360145 m := by first | exact Sub.le (by assumption) ⟨rfl⟩ | exact ⟨rfl⟩) : WithinOut m o (execHdpSubscribe x0) := by
  unfold Sys2Proof.Machine.execHdpSubscribe
  exact .next (.withReq hx0 (fun h0 => .hdpSubscribe h0))

theorem Within.hdpEventAck {x0 : State} {x1 : OdeReq} (hx0 : Within m o x0)
    (hm : Sub 29360145 m := by first | exact Sub.le (by assumption) ⟨rfl⟩ | exact ⟨rfl⟩) : Within m o (State.hdpEventAck x0 x1) :=
  .ite (.replySt hx0) (.replySt (.setSession hx0))

theorem Within.execHdpEventAck {x0 : State} (hx0 : Within m o x0)
    (hm : Sub 29360145 m := by first | exact Sub.le (by assumption) ⟨rfl⟩ | exact ⟨rfl⟩) : WithinOut m o (execHdpEventAck x0) := by
  unfold Sys2Proof.Machine.execHdpEventAck
  exact .next (.withReq hx0 (fun h0 => .hdpEventAck h0))

theorem Within.execHdpDigest {x0 : State} (hx0 : Within m o x0)
    (hm : Sub 166557821 m := by first | exact Sub.le (by assumption) ⟨rfl⟩ | exact ⟨rfl⟩) : WithinOut m o (execHdpDigest x0) := by
  unfold Sys2Proof.Machine.execHdpDigest
  exact .next (.withReq hx0 (fun h0 => .bare h0 (fun h1 => by
    extract_lets -merge +onlyGivenNames t2
    clear_value t2
    exact .reply h1)))

theorem Within.hdpReadNet {x0 : State} {x1 : OdeReq} (hx0 : Within m o x0)
    (hm : Sub 166557821 m := by first | exact Sub.le (by assumption) ⟨rfl⟩ | exact ⟨rfl⟩) : Within m o (State.hdpReadNet x0 x1) := by
  unfold State.hdpReadNet
  extract_lets -merge +onlyGivenNames t0
  clear_value t0
  refine .ite ?_ ?_
  · exact .replySt hx0
  · extract_lets -merge +onlyGivenNames t1 t2 t3
    clear_value t1 t2 t3
    exact .reply hx0

theorem Within.execHdpReadNet {x0 : State} (hx0 : Within m o x0)
    (hm : Sub 166557821 m := by first | exact Sub.le (by assumption) ⟨rfl⟩ | exact ⟨rfl⟩) : WithinOut m o (execHdpReadNet x0) := by
  unfold Sys2Proof.Machine.execHdpReadNet
  exact .next (.withReq hx0 (fun h0 => .hdpReadNet h0))

/-! OdeIo -/

theorem Within.mbxPop {x0 : Init} {x1 : State} (hx1 : Within m o x1)
    (hm : Sub 7340055 m := by first | exact Sub.le (by assumption) ⟨rfl⟩ | exact ⟨rfl⟩) : Within m o (State.mbxPop x0 x1) := by
  unfold State.mbxPop
  split
  · exact .answer hx1
  · extract_lets -merge +onlyGivenNames t0 t1
    have h2 : Within m o (t1) := .store (.setOde (.used hx1))
    clear_value t0 t1
    exact .answer (.setRegN h2)

theorem Within.fwPop {x0 : Nat} {x1 : Init} {x2 : State} (hx2 : Within m o x2)
    (hm : Sub 7340055 m := by first | exact Sub.le (by assumption) ⟨rfl⟩ | exact ⟨rfl⟩) : Within m o (State.fwPop x0 x1 x2) := by
  unfold State.fwPop
  split
  · exact .answer hx2
  · extract_lets -merge +onlyGivenNames t0 t2
    have h1 : Within m o (t0) := .setOde hx2
    have h3 : Within m o (t2) := .setRegN (.setRegN (.setRegN h1))
    clear_value t0 t2
    exact .answer (.store h3)

theorem Within.mbxPush {x0 : Word} {x1 : State} (hx1 : Within m o x1)
    (hm : Sub 7340049 m := by first | exact Sub.le (by assumption) ⟨rfl⟩ | exact ⟨rfl⟩) : Within m o (State.mbxPush x0 x1) := by
  unfold State.mbxPush
  extract_lets -merge +onlyGivenNames t0 t1
  clear_value t0 t1
  exact .ite (.refuse hx1) (.ite (.refuse (.eccRead hx1)) (.ite hx1 (.pduIn (.eccRead hx1))))

theorem Within.fwAnswer {x0 : Nat} {x1 : Word} {x2 : State} (hx2 : Within m o x2)
    (hm : Sub 167606397 m := by first | exact Sub.le (by assumption) ⟨rfl⟩ | exact ⟨rfl⟩) : Within m o (State.fwAnswer x0 x1 x2) := by
  unfold State.fwAnswer
  refine .ite ?_ ?_
  · exact .refuse hx2
  · split
    · exact .bump hx2
    · extract_lets -merge +onlyGivenNames t0
      clear_value t0
      exact .fwDone (.eccRead hx2)

theorem Within.execFwAnswer {x0 : Init} {x1 : Fin 6} {x2 : Word} {x3 : State} (hx3 : Within m o x3)
    (hm : Sub 167606397 m := by first | exact Sub.le (by assumption) ⟨rfl⟩ | exact ⟨rfl⟩) : WithinOut m o (execFwAnswer x0 x1 x2 x3) := by
  unfold Sys2Proof.Machine.execFwAnswer
  exact .next (.onWrite hx3 (fun h0 => .fwAnswer h0))

theorem Within.evLost {x0 : State} {x1 : Nat} (hx0 : Within m o x0)
    (hm : Sub 17 m := by first | exact Sub.le (by assumption) ⟨rfl⟩ | exact ⟨rfl⟩) : Within m o (State.evLost x0 x1) :=
  .raise (.bumpBy hx0)

theorem Within.evDeliver {x0 : State} {x1 : EvRec} {x2 : List Session} (hx0 : Within m o x0)
    (hm : Sub 4194321 m := by first | exact Sub.le (by assumption) ⟨rfl⟩ | exact ⟨rfl⟩) : Within m o (State.evDeliver x0 x1 x2) := by
  induction x2 generalizing x0 x1 with
  | nil =>
    exact hx0
  | cons y l ih =>
    rw [State.evDeliver]
    exact ih (.ite hx0 (.ite (.evLost hx0) (.setSession hx0)))

theorem Within.execSubscriptionDeliver {x0 : State} (hx0 : Within m o x0)
    (hm : Sub 4194321 m := by first | exact Sub.le (by assumption) ⟨rfl⟩ | exact ⟨rfl⟩) : WithinOut m o (execSubscriptionDeliver x0) := by
  unfold Sys2Proof.Machine.execSubscriptionDeliver
  refine .ite ?_ ?_
  · exact .next hx0
  · split
    · exact .next hx0
    · extract_lets -merge +onlyGivenNames d0 t1
      have h2 : Within m o (t1) := .in_evr hx0
      clear_value t1
      exact .next (.evDeliver h2)

theorem Within.execAuthLockoutEnd {x0 : State} (hx0 : Within m o x0)
    (hm : Sub 4194304 m := by first | exact Sub.le (by assumption) ⟨rfl⟩ | exact ⟨rfl⟩) : WithinOut m o (execAuthLockoutEnd x0) := by
  unfold Sys2Proof.Machine.execAuthLockoutEnd
  exact .next (.setOde hx0)

theorem Within.execFwRequestPop {x0 : Init} {x1 : Fin 6} {x2 : State} (hx2 : Within m o x2)
    (hm : Sub 7340087 m := by first | exact Sub.le (by assumption) ⟨rfl⟩ | exact ⟨rfl⟩) : WithinOut m o (execFwRequestPop x0 x1 x2) := by
  unfold Sys2Proof.Machine.execFwRequestPop
  exact .next (.onRead hx2 (fun h0 => .fwPop h0))

theorem Within.execEventSend {x0 : Fin 256} {x1 : State} (hx1 : Within m o x1)
    (hm : Sub 29360129 m := by first | exact Sub.le (by assumption) ⟨rfl⟩ | exact ⟨rfl⟩) : WithinOut m o (execEventSend x0 x1) := by
  unfold Sys2Proof.Machine.execEventSend
  split
  · exact .next hx1
  · extract_lets -merge +onlyGivenNames t0
    clear_value t0
    refine .ite ?_ ?_
    · exact .next hx1
    · split
      · exact .next hx1
      · exact .next (.pduOut (.setSession hx1))

theorem Within.execFwTimeout {x0 : State} (hx0 : Within m o x0)
    (hm : Sub 166557821 m := by first | exact Sub.le (by assumption) ⟨rfl⟩ | exact ⟨rfl⟩) : WithinOut m o (execFwTimeout x0) := by
  unfold Sys2Proof.Machine.execFwTimeout
  split
  · exact .next hx0
  · exact .next (.fwDone (.raise hx0))

theorem Within.execMbxinPush {x0 : Init} {x1 : Word} {x2 : State} (hx2 : Within m o x2)
    (hm : Sub 7340085 m := by first | exact Sub.le (by assumption) ⟨rfl⟩ | exact ⟨rfl⟩) : WithinOut m o (execMbxinPush x0 x1 x2) := by
  unfold Sys2Proof.Machine.execMbxinPush
  exact .next (.onWrite hx2 (fun h0 => .mbxPush h0))

theorem Within.execMbxoutPop {x0 : Init} {x1 : State} (hx1 : Within m o x1)
    (hm : Sub 7340087 m := by first | exact Sub.le (by assumption) ⟨rfl⟩ | exact ⟨rfl⟩) : WithinOut m o (execMbxoutPop x0 x1) := by
  unfold Sys2Proof.Machine.execMbxoutPop
  exact .next (.onRead hx1 (fun h0 => .mbxPop h0))

theorem Within.execSpiPduWrite {x0 : BitVec 16} {x1 : List (BitVec 8)} {x2 : BitVec 32} {x3 : State} (hx3 : Within m o x3)
    (hm : Sub 4194321 m := by first | exact Sub.le (by assumption) ⟨rfl⟩ | exact ⟨rfl⟩) : WithinOut m o (execSpiPduWrite x0 x1 x2 x3) := by
  unfold Sys2Proof.Machine.execSpiPduWrite
  refine .ite ?_ ?_
  · exact .next hx3
  · refine .ite ?_ ?_
    · exact .next (.raise (.bump hx3))
    · exact .next (.pduIn hx3)

theorem Within.execSpiPduRead {x0 : State} (hx0 : Within m o x0)
    (hm : Sub 4194308 m := by first | exact Sub.le (by assumption) ⟨rfl⟩ | exact ⟨rfl⟩) : WithinOut m o (execSpiPduRead x0) := by
  unfold Sys2Proof.Machine.execSpiPduRead
  refine .ite ?_ ?_
  · exact .next hx0
  · split
    · exact .next (.emit hx0)
    · exact .next (.emit (.setOde hx0))

theorem Within.execSpiStatusRead {x0 : State} (hx0 : Within m o x0)
    (hm : Sub 4 m := by first | exact Sub.le (by assumption) ⟨rfl⟩ | exact ⟨rfl⟩) : WithinOut m o (execSpiStatusRead x0) := by
  unfold Sys2Proof.Machine.execSpiStatusRead
  refine .ite ?_ ?_
  · exact .next hx0
  · extract_lets -merge +onlyGivenNames t0
    clear_value t0
    exact .next (.emit hx0)

theorem Within.execSessionTimeout {x0 : Fin 256} {x1 : State} (hx1 : Within m o x1)
    (hm : Sub 4194305 m := by first | exact Sub.le (by assumption) ⟨rfl⟩ | exact ⟨rfl⟩) : WithinOut m o (execSessionTimeout x0 x1) := by
  unfold Sys2Proof.Machine.execSessionTimeout
  refine .ite ?_ ?_
  · exact .next hx1
  · exact .next (.endSession hx1)

theorem Within.execEventAckTimeout {x0 : Fin 256} {x1 : State} (hx1 : Within m o x1)
    (hm : Sub 29360145 m := by first | exact Sub.le (by assumption) ⟨rfl⟩ | exact ⟨rfl⟩) : WithinOut m o (execEventAckTimeout x0 x1) := by
  unfold Sys2Proof.Machine.execEventAckTimeout
  split
  · exact .next hx1
  · split
    · exact .next hx1
    · refine .ite ?_ ?_
      · exact .next (.evLost (.setSession hx1))
      · extract_lets -merge +onlyGivenNames t0
        have h1 : Within m o (t0) := .setSession hx1
        clear_value t0
        split
        · exact .next h1
        · exact .next (.pduOut h1)

/-! OdeCmd -/

theorem Within.stateCmd {x0 : Nat} {x1 : Word} {x2 : State} (hx2 : Within m o x2)
    (hm : Sub 166557821 m := by first | exact Sub.le (by assumption) ⟨rfl⟩ | exact ⟨rfl⟩) : Within m o (State.stateCmd x0 x1 x2) := by
  unfold State.stateCmd
  extract_lets -merge +onlyGivenNames t0
  clear_value t0
  exact .ite (.refuse hx2) (.ite (.setDev hx2) (.ite (.refuse hx2) (.ite (.refuse hx2) (.setDev hx2))))

theorem Within.keyNote {x0 : State} {x1 : Nat} (hx0 : Within m o x0)
    (hm : Sub 17 m := by first | exact Sub.le (by assumption) ⟨rfl⟩ | exact ⟨rfl⟩) : Within m o (State.keyNote x0 x1) :=
  .ite hx0 (.raise (.errSet (.cryCount hx0)))

theorem Within.onInvoke {x0 : State} {x1 : Nat} {x2 : Nat} {x3 : State → List Byte → State × Nat × List Byte} (hx0 : Within m o x0) (hx3 : ∀ {y0} {y1}, Within m o y0 → Within m o (x3 y0 y1).1)
    (hm : Sub 166557821 m := by first | exact Sub.le (by assumption) ⟨rfl⟩ | exact ⟨rfl⟩) : Within m o (State.onInvoke x0 x1 x2 x3) := by
  unfold State.onInvoke
  split
  · exact hx0
  · extract_lets -merge +onlyGivenNames t0
    have h1 : Within m o (t0).1 := hx3 hx0
    clear_value t0
    exact .fwDone h1

theorem Within.execLevelCmd {x0 : State} (hx0 : Within m o x0)
    (hm : Sub 468678781 m := by first | exact Sub.le (by assumption) ⟨rfl⟩ | exact ⟨rfl⟩) : WithinOut m o (execLevelCmd x0) := by
  unfold Sys2Proof.Machine.execLevelCmd
  exact .next (.onInvoke hx0 (fun h0 => .levelTake h0))

theorem Within.ledgerAfterFuse {x0 : State} {x1 : List Nat} (hx0 : Within m o x0)
    (hm : Sub 67108865 m := by first | exact Sub.le (by assumption) ⟨rfl⟩ | exact ⟨rfl⟩) : Within m o (State.ledgerAfterFuse x0 x1) := by
  unfold State.ledgerAfterFuse
  extract_lets -merge +onlyGivenNames t0
  clear_value t0
  exact .ledgerPut (.ite (.wf hx0) hx0)

theorem Within.commitArg {s : State} {v : List Byte} (h : Within m o s) (hm : Sub 166557821 m := by first | exact Sub.le (by assumption) ⟨rfl⟩ | exact ⟨rfl⟩) : Within m o (s.commitArg v).1 := by
  have e : ∀ (a : State) (b : Nat × List Byte), (a, b).1 = a := fun _ _ => rfl
  rw [State.commitArg, e]
  exact .commit h

theorem Within.execRelayCmd {x0 : State} (hx0 : Within m o x0)
    (hm : Sub 468678781 m := by first | exact Sub.le (by assumption) ⟨rfl⟩ | exact ⟨rfl⟩) : WithinOut m o (execRelayCmd x0) := by
  unfold Sys2Proof.Machine.execRelayCmd
  exact .next (.onInvoke hx0 (fun h0 => .relayTake h0))

theorem Within.execStatecmd {x0 : Init} {x1 : Word} {x2 : State} (hx2 : Within m o x2)
    (hm : Sub 166557821 m := by first | exact Sub.le (by assumption) ⟨rfl⟩ | exact ⟨rfl⟩) : WithinOut m o (execStatecmd x0 x1 x2) := by
  unfold Sys2Proof.Machine.execStatecmd
  exact .next (.onWrite hx2 (fun h0 => .stateCmd h0))

theorem Within.keyArg {x0 : State} {x1 : Nat} {x2 : Nat} {x3 : Nat} {x4 : Nat} {x5 : State → Nat → State × Nat} (hx0 : Within m o x0) (hx5 : ∀ {y0} {y1}, Within m o y0 → Within m o (x5 y0 y1).1)
    (hm : Sub 17 m := by first | exact Sub.le (by assumption) ⟨rfl⟩ | exact ⟨rfl⟩) : Within m o (State.keyArg x0 x1 x2 x3 x4 x5).1 := by
  unfold State.keyArg
  split
  · exact .keyNote (.ite (.clearKdata hx0) hx0)
  · extract_lets -merge +onlyGivenNames t0
    have h1 : Within m o (t0).1 := hx5 (.setRegN (.setRegN hx0))
    clear_value t0
    exact .keyNote h1

theorem Within.keyUnwrapArg {x0 : State} {x1 : List Byte} (hx0 : Within m o x0)
    (hm : Sub 3407891 m := by first | exact Sub.le (by assumption) ⟨rfl⟩ | exact ⟨rfl⟩) : Within m o (State.keyUnwrapArg x0 x1).1 := by
  unfold State.keyUnwrapArg
  extract_lets -merge +onlyGivenNames t0 t1 t2 t3 t4
  clear_value t0 t1 t2 t3 t4
  refine .iteP ?_ ?_
  · exact hx0
  · extract_lets -merge +onlyGivenNames t5
    have h6 : Within m o (t5) := .setReg64 (.store hx0)
    clear_value t5
    exact .keyArg h6 (fun h7 => .keyUnwrapCmd h7)

theorem Within.putKdata {x0 : State} {x1 : List Byte} {x2 : Nat} (hx0 : Within m o x0)
    (hm : Sub 1 m := by first | exact Sub.le (by assumption) ⟨rfl⟩ | exact ⟨rfl⟩) : Within m o (State.putKdata x0 x1 x2) := by
  induction x2 generalizing x0 x1 with
  | zero =>
    exact hx0
  | succ n ih =>
    rw [State.putKdata]
    exact .setRegN (ih hx0)

theorem Within.fallbackClear {x0 : State} (hx0 : Within m o x0)
    (hm : Sub 67108865 m := by first | exact Sub.le (by assumption) ⟨rfl⟩ | exact ⟨rfl⟩) : Within m o (State.fallbackClear x0) := by
  unfold State.fallbackClear
  extract_lets -merge +onlyGivenNames t0 t1 t2
  have h3 : Within m o (t2) := .ledgerAfterFuse hx0
  clear_value t0 t1 t2
  exact .ite (.otpStart h3) h3

theorem Within.fallbackArg {s : State} {v : List Byte} (h : Within m o s) (hm : Sub 67108865 m := by first | exact Sub.le (by assumption) ⟨rfl⟩ | exact ⟨rfl⟩) : Within m o (s.fallbackArg v).1 := by
  have e : ∀ (a : State) (b : Nat × List Byte), (a, b).1 = a := fun _ _ => rfl
  rw [State.fallbackArg, e]
  exact .fallbackClear h

theorem Within.keyLoadArg {x0 : State} {x1 : List Byte} (hx0 : Within m o x0)
    (hm : Sub 262161 m := by first | exact Sub.le (by assumption) ⟨rfl⟩ | exact ⟨rfl⟩) : Within m o (State.keyLoadArg x0 x1).1 := by
  unfold State.keyLoadArg
  extract_lets -merge +onlyGivenNames t0 t1
  clear_value t0 t1
  refine .iteP ?_ ?_
  · exact hx0
  · exact .keyArg (.putKdata hx0) (fun h2 => .keyLoad h2)

theorem Within.execKeyLoad {x0 : State} (hx0 : Within m o x0)
    (hm : Sub 166557821 m := by first | exact Sub.le (by assumption) ⟨rfl⟩ | exact ⟨rfl⟩) : WithinOut m o (execKeyLoad x0) := by
  unfold Sys2Proof.Machine.execKeyLoad
  exact .next (.onInvoke hx0 (fun h0 => .keyLoadArg h0))

theorem Within.attestArg {x0 : State} {x1 : List Byte} (hx0 : Within m o x0)
    (hm : Sub 524289 m := by first | exact Sub.le (by assumption) ⟨rfl⟩ | exact ⟨rfl⟩) : Within m o (State.attestArg x0 x1).1 := by
  unfold State.attestArg
  refine .iteP ?_ ?_
  · exact hx0
  · refine .iteP ?_ ?_
    · exact hx0
    · refine .iteP ?_ ?_
      · exact hx0
      · extract_lets -merge +onlyGivenNames t0
        have h1 : Within m o (t0).1 := .attested hx0
        clear_value t0
        exact h1

theorem Within.execSave {x0 : State} (hx0 : Within m o x0)
    (hm : Sub 166557821 m := by first | exact Sub.le (by assumption) ⟨rfl⟩ | exact ⟨rfl⟩) : WithinOut m o (execSave x0) := by
  unfold Sys2Proof.Machine.execSave
  refine .ite ?_ ?_
  · exact .next (.onInvoke hx0 (fun h0 => h0))
  · exact .next hx0

theorem Within.execStateAutoChange {x0 : State} (hx0 : Within m o x0)
    (hm : Sub 166557821 m := by first | exact Sub.le (by assumption) ⟨rfl⟩ | exact ⟨rfl⟩) : WithinOut m o (execStateAutoChange x0) := by
  unfold Sys2Proof.Machine.execStateAutoChange
  refine .ite ?_ ?_
  · exact .next (.setDev hx0)
  · exact .next hx0

theorem Within.stateReq {x0 : State} {x1 : List Byte} (hx0 : Within m o x0)
    (hm : Sub 166557821 m := by first | exact Sub.le (by assumption) ⟨rfl⟩ | exact ⟨rfl⟩) : Within m o (State.stateReq x0 x1).1 := by
  unfold State.stateReq
  extract_lets -merge +onlyGivenNames t0
  clear_value t0
  refine .iteP ?_ ?_
  · exact .setDev hx0
  · refine .iteP ?_ ?_
    · exact .setDev hx0
    · refine .iteP ?_ ?_
      · extract_lets -merge +onlyGivenNames t1
        have h2 : Within m o (t1) := .nextOr hx0 (Within.execAlarmClear hx0)
        clear_value t1
        refine .iteP ?_ ?_
        · exact h2
        · exact .setDev h2
      · exact hx0

theorem Within.execStateReq {x0 : State} (hx0 : Within m o x0)
    (hm : Sub 166557821 m := by first | exact Sub.le (by assumption) ⟨rfl⟩ | exact ⟨rfl⟩) : WithinOut m o (execStateReq x0) := by
  unfold Sys2Proof.Machine.execStateReq
  exact .next (.onInvoke hx0 (fun h0 => .stateReq h0))

theorem Within.execRestart {x0 : State} (hx0 : Within m o x0)
    (hm : Sub 536870911 m := by first | exact Sub.le (by assumption) ⟨rfl⟩ | exact ⟨rfl⟩) : WithinOut m o (execRestart x0) := by
  unfold Sys2Proof.Machine.execRestart
  split
  · exact .next hx0
  · exact .next (.rstCmd (.fwDone hx0))

theorem Within.execFallbackClear {x0 : State} (hx0 : Within m o x0)
    (hm : Sub 233666685 m := by first | exact Sub.le (by assumption) ⟨rfl⟩ | exact ⟨rfl⟩) : WithinOut m o (execFallbackClear x0) := by
  simp only [Sys2Proof.Machine.execFallbackClear]
  exact .next (.onInvoke hx0 (fun h0 => .fallbackArg h0))

theorem Within.execAttest {x0 : State} (hx0 : Within m o x0)
    (hm : Sub 166557821 m := by first | exact Sub.le (by assumption) ⟨rfl⟩ | exact ⟨rfl⟩) : WithinOut m o (execAttest x0) := by
  unfold Sys2Proof.Machine.execAttest
  exact .next (.onInvoke hx0 (fun h0 => .attestArg h0))

theorem Within.execKeyUnwrap {x0 : State} (hx0 : Within m o x0)
    (hm : Sub 167606399 m := by first | exact Sub.le (by assumption) ⟨rfl⟩ | exact ⟨rfl⟩) : WithinOut m o (execKeyUnwrap x0) := by
  unfold Sys2Proof.Machine.execKeyUnwrap
  exact .next (.onInvoke hx0 (fun h0 => .keyUnwrapArg h0))

theorem Within.execCommit {x0 : State} (hx0 : Within m o x0)
    (hm : Sub 166557821 m := by first | exact Sub.le (by assumption) ⟨rfl⟩ | exact ⟨rfl⟩) : WithinOut m o (execCommit x0) := by
  simp only [Sys2Proof.Machine.execCommit]
  exact .next (.onInvoke hx0 (fun h0 => .commitArg h0))

theorem Within.collect {x0 : State} {x1 : Nat} (hx0 : Within m o x0)
    (hm : Sub 166557821 m := by first | exact Sub.le (by assumption) ⟨rfl⟩ | exact ⟨rfl⟩) : Within m o (State.collect x0 x1) := by
  unfold State.collect
  refine .ite ?_ ?_
  · exact hx0
  · extract_lets -merge +onlyGivenNames t0
    have h1 : Within m o (t0).1 := .mcRead hx0
    clear_value t0
    exact .setOde h1

theorem Within.execCounterCollect {x0 : State} (hx0 : Within m o x0)
    (hm : Sub 166557821 m := by first | exact Sub.le (by assumption) ⟨rfl⟩ | exact ⟨rfl⟩) : WithinOut m o (execCounterCollect x0) := by
  unfold Sys2Proof.Machine.execCounterCollect
  refine .ite ?_ ?_
  · exact .next hx0
  · exact .next (.foldl (fun h => .collect h) hx0)

theorem Within.execBootTimeout {x0 : Bool} {x1 : Option (BitVec 8)} {x2 : State} (hx2 : Within m o x2)
    (hm : Sub 536870911 m := by first | exact Sub.le (by assumption) ⟨rfl⟩ | exact ⟨rfl⟩) : WithinOut m o (execBootTimeout x0 x1 x2) := by
  unfold Sys2Proof.Machine.execBootTimeout
  refine .ite ?_ ?_
  · exact .next hx2
  · refine .ite ?_ ?_
    · extract_lets -merge +onlyGivenNames t0 t1 t2 t4
      have h3 : Within m o (t2) := .ite hx2 (.ledgerAfterFuse hx2)
      have h5 : Within m o (t4) := .foldl (fun h => .limit h) h3
      clear_value t0 t1 t2 t4
      exact .next (.setDev h5)
    · extract_lets -merge +onlyGivenNames t6 t7 t8
      have h9 : Within m o (t8) := .ledgerAfterFuse hx2
      clear_value t6 t7 t8
      refine .ite ?_ ?_
      · exact .next (.warmReset h9)
      · exact .next h9

/-! Bus -/

theorem Within.odeHookRead {x0 : Init} {x1 : State} {x2 : Nat} (hx1 : Within m o x1)
    (hm : Sub 7340055 m := by first | exact Sub.le (by assumption) ⟨rfl⟩ | exact ⟨rfl⟩) : WithinOpt m o (odeHookRead x0 x1 x2) := by
  unfold Sys2Proof.Machine.odeHookRead
  refine .ite ?_ ?_
  · exact .some (.mbxPop hx1)
  · refine .ite ?_ ?_
    · exact .some (.fwPop hx1)
    · exact .none

theorem Within.busRead {x0 : Init} {x1 : Nat} {x2 : State} (hx2 : Within m o x2)
    (hm : Sub 167606399 m := by first | exact Sub.le (by assumption) ⟨rfl⟩ | exact ⟨rfl⟩) : Within m o (State.busRead x0 x1 x2) :=
  .regReadWith (fun h0 => Within.odeHookRead h0) hx2

theorem Within.odeHookWrite {x0 : Init} {x1 : State} {x2 : Nat} {x3 : Word} (hx1 : Within m o x1)
    (hm : Sub 167606397 m := by first | exact Sub.le (by assumption) ⟨rfl⟩ | exact ⟨rfl⟩) : WithinOpt m o (odeHookWrite x0 x1 x2 x3) := by
  unfold Sys2Proof.Machine.odeHookWrite
  refine .ite ?_ ?_
  · exact .some (.stateCmd hx1)
  · refine .ite ?_ ?_
    · exact .some (.mbxPush hx1)
    · refine .ite ?_ ?_
      · exact .some (.fwAnswer hx1)
      · exact .none

theorem Within.busWrite {x0 : Init} {x1 : Nat} {x2 : Word} {x3 : State} (hx3 : Within m o x3)
    (hm : Sub 536870911 m := by first | exact Sub.le (by assumption) ⟨rfl⟩ | exact ⟨rfl⟩) : Within m o (State.busWrite x0 x1 x2 x3) :=
  .regWriteWith (fun h0 => Within.odeHookWrite h0) hx3

theorem Within.execRegisterWrite {x0 : Init} {x1 : Nat} {x2 : Word} {x3 : State} (hx3 : Within m o x3)
    (hm : Sub 536870911 m := by first | exact Sub.le (by assumption) ⟨rfl⟩ | exact ⟨rfl⟩) : WithinOut m o (execRegisterWrite x0 x1 x2 x3) := by
  unfold Sys2Proof.Machine.execRegisterWrite
  exact .next (.busWrite hx3)

theorem Within.execCounterRead {x0 : Init} {x1 : Nat} {x2 : State} (hx2 : Within m o x2)
    (hm : Sub 167606399 m := by first | exact Sub.le (by assumption) ⟨rfl⟩ | exact ⟨rfl⟩) : WithinOut m o (execCounterRead x0 x1 x2) := by
  unfold Sys2Proof.Machine.execCounterRead
  exact .next (.busRead hx2)

/-! DmaMove -/

theorem Within.pathBurst {x0 : State} {x1 : Nat} {x2 : Nat} (hx0 : Within m o x0)
    (hm : Sub 4883 m := by first | exact Sub.le (by assumption) ⟨rfl⟩ | exact ⟨rfl⟩) : Within m o (State.pathBurst x0 x1 x2) := by
  unfold State.pathBurst
  refine .ite ?_ ?_
  · exact hx0
  · refine .ite ?_ ?_
    · split
      · exact hx0
      · exact .pathCount (.freeSel hx0)
    · split
      · exact hx0
      · exact .pathDrop hx0

theorem Within.burstBegin {x0 : State} {x1 : Nat} (hx0 : Within m o x0)
    (hm : Sub 131089 m := by first | exact Sub.le (by assumption) ⟨rfl⟩ | exact ⟨rfl⟩) : Within m o (State.burstBegin x0 x1).1 := by
  unfold State.burstBegin
  extract_lets -merge +onlyGivenNames t0 t1 t2
  clear_value t0 t1 t2
  refine .iteP ?_ ?_
  · exact hx0
  · refine .iteP ?_ ?_
    · split
      · exact .setCh hx0
      · exact .setCh ((Within.charge hx0) _ (by assumption))
    · refine .iteP ?_ ?_
      · refine .iteP ?_ ?_
        · exact hx0
        · extract_lets -merge +onlyGivenNames t3
          have h4 : Within m o (t3) := .setCh hx0
          clear_value t3
          exact .ite (.chkInit h4) h4
      · exact .setCh hx0

theorem Within.dmaRegs {x0 : State} {x1 : Nat} {x2 : Nat} {x3 : Nat} (hx0 : Within m o x0)
    (hm : Sub 167606399 m := by first | exact Sub.le (by assumption) ⟨rfl⟩ | exact ⟨rfl⟩) : Within m o (State.dmaRegs x0 x1 x2 x3).1 := by
  induction x3 generalizing x0 x1 x2 with
  | zero =>
    exact hx0
  | succ n ih =>
    rw [State.dmaRegs]
    refine .iteP ?_ ?_
    · exact .taken (.busRead hx0)
    · extract_lets -merge +onlyGivenNames t0
      have h1 : Within m o (t0).1 := ih (.taken (.busRead hx0))
      clear_value t0
      exact h1

theorem Within.dmaRead {x0 : State} {x1 : Nat} {x2 : Nat} (hx0 : Within m o x0)
    (hm : Sub 167606399 m := by first | exact Sub.le (by assumption) ⟨rfl⟩ | exact ⟨rfl⟩) : Within m o (State.dmaRead x0 x1 x2).1 := by
  unfold State.dmaRead
  refine .iteP ?_ ?_
  · refine .iteP ?_ ?_
    · exact .busErr hx0
    · extract_lets -merge +onlyGivenNames t0
      have h1 : Within m o (t0).1 := .dmaRegs hx0
      clear_value t0
      exact h1
  · refine .iteP ?_ ?_
    · exact hx0
    · refine .iteP ?_ ?_
      · exact .eccRead hx0
      · exact .eccRead hx0

theorem Within.dmaFixed {x0 : State} {x1 : Nat} {x2 : Nat} {x3 : Nat} (hx0 : Within m o x0)
    (hm : Sub 167606399 m := by first | exact Sub.le (by assumption) ⟨rfl⟩ | exact ⟨rfl⟩) : Within m o (State.dmaFixed x0 x1 x2 x3).1 := by
  induction x3 generalizing x0 x1 x2 with
  | zero =>
    exact hx0
  | succ n ih =>
    rw [State.dmaFixed]
    split
    · exact .dmaRead hx0
    · extract_lets -merge +onlyGivenNames t0
      have h1 : Within m o (t0).1 := ih (.dmaRead hx0)
      clear_value t0
      split
      · exact h1
      · exact h1

theorem Within.burstIn {x0 : State} {x1 : DmaChan} {x2 : Nat} (hx0 : Within m o x0)
    (hm : Sub 167606399 m := by first | exact Sub.le (by assumption) ⟨rfl⟩ | exact ⟨rfl⟩) : Within m o (State.burstIn x0 x1 x2).1 := by
  unfold State.burstIn
  extract_lets -merge +onlyGivenNames t0 t1
  clear_value t0 t1
  refine .iteP ?_ ?_
  · extract_lets -merge +onlyGivenNames t2 t3 t4
    clear_value t2 t3 t4
    exact hx0
  · refine .iteP ?_ ?_
    · exact .dmaFixed hx0
    · exact .dmaRead hx0

theorem Within.chEnd {x0 : State} {x1 : Nat} {x2 : DmaChan} {x3 : Nat} (hx0 : Within m o x0)
    (hm : Sub 131072 m := by first | exact Sub.le (by assumption) ⟨rfl⟩ | exact ⟨rfl⟩) : Within m o (State.chEnd x0 x1 x2 x3) :=
  .setCh hx0

theorem Within.maybeWritten {x0 : State} {x1 : Nat} {x2 : List Byte} (hx0 : Within m o x0)
    (hm : Sub 2 m := by first | exact Sub.le (by assumption) ⟨rfl⟩ | exact ⟨rfl⟩) : Within m o (State.maybeWritten x0 x1 x2) := by
  induction x2 generalizing x0 x1 with
  | nil =>
    exact hx0
  | cons y l ih =>
    rw [State.maybeWritten]
    exact ih (.ite (.setByte (.used hx0)) (.used hx0))

theorem Within.dmaWriteRegs : ∀ {s : State} {a t : Nat} {l : List Byte}, Within m o s → ∀
    (hm : Sub 536870911 m := by first | exact Sub.le (by assumption) ⟨rfl⟩ | exact ⟨rfl⟩), Within m o (State.dmaWriteRegs s a t l).1
  | s, a, t, b0 :: b1 :: b2 :: b3 :: l, h, hm => by
    rw [State.dmaWriteRegs]
    exact .iteP (Within.dmaWriteRegs (l := l) (.busWrite h) hm) (.busWrite h)
  | _, _, _, [], h, _ => h
  | _, _, _, [_], h, _ => h
  | _, _, _, [_, _], h, _ => h
  | _, _, _, [_, _, _], h, _ => h

theorem Within.dmaWrite {x0 : State} {x1 : Nat} {x2 : List Byte} (hx0 : Within m o x0)
    (hm : Sub 536870911 m := by first | exact Sub.le (by assumption) ⟨rfl⟩ | exact ⟨rfl⟩) : Within m o (State.dmaWrite x0 x1 x2).1 := by
  unfold State.dmaWrite
  refine .iteP ?_ ?_
  · refine .iteP ?_ ?_
    · exact .busErr hx0
    · exact .dmaWriteRegs hx0
  · refine .iteP ?_ ?_
    · exact .store hx0
    · exact hx0

theorem Within.dmaWriteFixed {x0 : State} {x1 : Nat} {x2 : Nat} {x3 : Nat} {x4 : List Byte} (hx0 : Within m o x0)
    (hm : Sub 536870911 m := by first | exact Sub.le (by assumption) ⟨rfl⟩ | exact ⟨rfl⟩) : Within m o (State.dmaWriteFixed x0 x1 x2 x3 x4).1 := by
  induction x3 generalizing x0 x1 x2 x4 with
  | zero =>
    exact hx0
  | succ n ih =>
    rw [State.dmaWriteFixed]
    refine .iteP ?_ ?_
    · exact ih (.dmaWrite hx0)
    · exact .dmaWrite hx0

theorem Within.burstOut {x0 : State} {x1 : DmaChan} {x2 : List Byte} {x3 : Bool} (hx0 : Within m o x0)
    (hm : Sub 536870911 m := by first | exact Sub.le (by assumption) ⟨rfl⟩ | exact ⟨rfl⟩) : Within m o (State.burstOut x0 x1 x2 x3).1 := by
  unfold State.burstOut
  extract_lets -merge +onlyGivenNames t0 t1 t2
  clear_value t0 t1 t2
  refine .iteP ?_ ?_
  · exact .ite hx0 (.maybeWritten hx0)
  · refine .iteP ?_ ?_
    · exact .dmaWriteFixed hx0
    · exact .dmaWrite hx0

theorem Within.burst {x0 : State} {x1 : Nat} {x2 : Nat} (hx0 : Within m o x0)
    (hm : Sub 536870911 m := by first | exact Sub.le (by assumption) ⟨rfl⟩ | exact ⟨rfl⟩) : Within m o (State.burst x0 x1 x2) := by
  unfold State.burst
  extract_lets -merge +onlyGivenNames t0 t1 t2 t3 t4
  have h5 : Within m o (t4).1 := .burstIn hx0
  clear_value t0 t1 t2 t3 t4
  split
  · exact .chEnd h5
  · extract_lets -merge +onlyGivenNames t6
    clear_value t6
    refine .ite ?_ ?_
    · extract_lets -merge +onlyGivenNames t7
      clear_value t7
      exact .ite (.chEnd (.injectStore h5)) (.setCh h5)
    · extract_lets -merge +onlyGivenNames t8
      have h9 : Within m o (t8).1 := .burstOut h5
      clear_value t8
      refine .ite ?_ ?_
      · exact .chEnd h9
      · extract_lets -merge +onlyGivenNames t10 t12
        have h11 : Within m o (t10) := .ite (.chkFeed h9) h9
        clear_value t10 t12
        exact .ite (.chEnd h11) (.setCh h11)

theorem Within.execDmaBurst {x0 : Fin 128} {x1 : Bool} {x2 : Bool} {x3 : Fin 3} {x4 : State} (hx4 : Within m o x4)
    (hm : Sub 536870911 m := by first | exact Sub.le (by assumption) ⟨rfl⟩ | exact ⟨rfl⟩) : WithinOut m o (execDmaBurst x0 x1 x2 x3 x4) := by
  unfold Sys2Proof.Machine.execDmaBurst
  extract_lets -merge +onlyGivenNames t0 t1 t2
  clear_value t0 t1 t2
  refine .ite ?_ ?_
  · exact .next (.pathBurst hx4)
  · refine .ite ?_ ?_
    · exact .next hx4
    · extract_lets -merge +onlyGivenNames t3
      have h4 : Within m o (t3).1 := .burstBegin hx4
      clear_value t3
      refine .ite ?_ ?_
      · exact .next h4
      · extract_lets -merge +onlyGivenNames t5
        have h6 : Within m o (t5) := .ite (.wf h4) h4
        clear_value t5
        exact .next (.burst h6)

theorem Within.scanPair {s : State} {b : Bool} (h : Within m o s) (hm : Sub 167606399 m := by first | exact Sub.le (by assumption) ⟨rfl⟩ | exact ⟨rfl⟩) : Within m o (s.scanPair b).st := by
  unfold State.scanPair
  extract_lets -merge +onlyGivenNames t0 t1
  clear_value t0 t1
  split
  · exact h
  · split
    · exact h
    · split
      · exact h
      · split
        · exact h
        · exact .ite (.setReg64 (.eccRead (.eccRead h))) (.eccRead (.eccRead h))
theorem Within.scanRead {s : State} {r : Except Nat (List Byte)} {u b : Nat} {p : List Byte} {c : Bool} (h : Within m o s) (hm : Sub 167606399 m := by first | exact Sub.le (by assumption) ⟨rfl⟩ | exact ⟨rfl⟩) :
    Within m o (s.scanRead r u b p c).st := by
  unfold State.scanRead
  split
  · split
    · exact .setReg64 (.chkFeed h)
    · exact h
  · extract_lets t0 t1 t2 t3
    have h0 : Within m o t0 := .chkFeed h
    have h3 : Within m o t3 := .setRegN h0
    clear_value t0 t1 t2 t3
    split
    · exact h0
    · split
      · exact h3
      · exact h3
theorem Within.scanSingle {s : State} {b : Bool} {n : Nat} (h : Within m o s) (hm : Sub 167606399 m := by first | exact Sub.le (by assumption) ⟨rfl⟩ | exact ⟨rfl⟩) : Within m o (s.scanSingle b n).st := by
  unfold State.scanSingle
  extract_lets -merge +onlyGivenNames t0 t1 t2 t3
  clear_value t0 t1 t2 t3
  split
  · exact h
  · split
    · exact h
    · split
      · exact h
      · exact .scanRead (.dmaRead h)
theorem Within.scanIte {c : Prop} [Decidable c] {a b : ScanEnd} (ha : Within m o a.st) (hb : Within m o b.st) :
    Within m o (if c then a else b).st := by
  split
  · exact ha
  · exact hb
theorem Within.execScanEnd {b : Bool} {n : BitVec 32} {s : State} (h : Within m o s) (hm : Sub 167606399 m := by first | exact Sub.le (by assumption) ⟨rfl⟩ | exact ⟨rfl⟩) : WithinOut m o (execScanEnd b n s) := by
  have hx := fun c => Within.scanIte (c := s.rf F.SCAN_CTRL_MODE = c) (Within.scanPair (b := b) h) (Within.scanSingle (b := b) (n := n.toNat) h)
  simp only [Sys2Proof.Machine.execScanEnd]
  exact .ite (.next h) (.next (.ite (.raise (.raise (.setRegN (.wb (.wb (.wb (hx 1))))))) (.raise (.setRegN (.wb (.wb (.wb (hx 1))))))))

end Sys2Proof.Machine
end

