-- ==== Sys2Proof/Laws/Frames.lean ====
section
/-! SUPPORT. The frame of every command over the parts of the state. -/

set_option Elab.async false

namespace Sys2Proof.Machine

/-- A command changes no part of the state that `touched` does not name. -/
theorem exec_within {c : Instr} {s t : State} (h : exec c s = .next t) : Within (partMask (touched c)) s t := by
  cases c with
  | registerWrite => exact Within.execRegisterWrite (.refl s) ⟨(rfl : 536870911 &&& 536870911 = 536870911)⟩ t h
  | counterRead => exact Within.execCounterRead (.refl s) ⟨(rfl : 167606399 &&& 167606399 = 167606399)⟩ t h
  | memoryAccess => exact Within.execMemoryAccess (.refl s) ⟨(rfl : 33292311 &&& 33292311 = 33292311)⟩ t h
  | receiveReserve => exact Within.execReceiveReserve (.refl s) ⟨(rfl : 4117 &&& 4117 = 4117)⟩ t h
  | frameStored => exact Within.execFrameStored (.refl s) ⟨(rfl : 3150611 &&& 3150611 = 3150611)⟩ t h
  | frameForward => exact Within.execFrameForward (.refl s) ⟨(rfl : 4113 &&& 4113 = 4113)⟩ t h
  | creditReturn => exact Within.execCreditReturn (.refl s) ⟨(rfl : 4097 &&& 4097 = 4097)⟩ t h
  | readinessSet => exact Within.execReadinessSet (.refl s) ⟨(rfl : 18707 &&& 18707 = 18707)⟩ t h
  | readinessClear => exact Within.execReadinessClear (.refl s) ⟨(rfl : 18707 &&& 18707 = 18707)⟩ t h
  | mainsCrossing => exact Within.execMainsCrossing (.refl s) ⟨(rfl : 25 &&& 25 = 25)⟩ t h
  | crossingMissing => exact Within.execCrossingMissing (.refl s) ⟨(rfl : 25 &&& 25 = 25)⟩ t h
  | holdEstimateUpdate => exact Within.execHoldEstimateUpdate (.refl s) ⟨(rfl : 17 &&& 17 = 17)⟩ t h
  | beaconSample => exact Within.execBeaconSample (.refl s) ⟨(rfl : 25 &&& 25 = 25)⟩ t h
  | seed => exact Within.execSeed (.refl s) ⟨(rfl : 61 &&& 61 = 61)⟩ t h
  | relearn => exact Within.execRelearn (.refl s) ⟨(rfl : 61 &&& 61 = 61)⟩ t h
  | hold => exact Within.execHold (.refl s) ⟨(rfl : 61 &&& 61 = 61)⟩ t h
  | resume => exact Within.execResume (.refl s) ⟨(rfl : 61 &&& 61 = 61)⟩ t h
  | gtuFree => exact Within.execGtuFree (.refl s) ⟨(rfl : 61 &&& 61 = 61)⟩ t h
  | pmapCommit => exact Within.execPmapCommit (.refl s) ⟨(rfl : 61 &&& 61 = 61)⟩ t h
  | pmapExpire => exact Within.execPmapExpire (.refl s) ⟨(rfl : 17 &&& 17 = 17)⟩ t h
  | bcnValidExpire => exact Within.execBcnValidExpire (.refl s) ⟨(rfl : 1 &&& 1 = 1)⟩ t h
  | gtuCtrlWrite => exact Within.execGtuCtrlWrite (.refl s) ⟨(rfl : 53 &&& 53 = 53)⟩ t h
  | gtuNowRead => exact Within.execGtuNowRead (.refl s) ⟨(rfl : 61 &&& 61 = 61)⟩ t h
  | xlastRead => exact Within.execXlastRead (.refl s) ⟨(rfl : 53 &&& 53 = 53)⟩ t h
  | replicaBroadcast => exact Within.execReplicaBroadcast (.refl s) ⟨(rfl : 8 &&& 8 = 8)⟩ t h
  | gcArm => exact Within.execGcArm (.refl s) ⟨(rfl : 302121085 &&& 302121085 = 302121085)⟩ t h
  | gcDisarm => exact Within.execGcDisarm (.refl s) ⟨(rfl : 302121085 &&& 302121085 = 302121085)⟩ t h
  | gcFire => exact Within.execGcFire (.refl s) ⟨(rfl : 302121053 &&& 302121053 = 302121053)⟩ t h
  | pinPulseEnd => exact Within.execPinPulseEnd (.refl s) ⟨(rfl : 8 &&& 8 = 8)⟩ t h
  | eventOccurrence => exact Within.execEventOccurrence (.refl s) ⟨(rfl : 17 &&& 17 = 17)⟩ t h
  | eirqPulse => exact Within.execEirqPulse (.refl s) ⟨(rfl : 20 &&& 20 = 20)⟩ t h
  | pendingClear => exact Within.execPendingClear (.refl s) ⟨(rfl : 53 &&& 53 = 53)⟩ t h
  | softwareEvent => exact Within.execSoftwareEvent (.refl s) ⟨(rfl : 53 &&& 53 = 53)⟩ t h
  | subscriptionPop => exact Within.execSubscriptionPop (.refl s) ⟨(rfl : 53 &&& 53 = 53)⟩ t h
  | rfcCmdPush => exact Within.execRfcCmdPush (.refl s) ⟨(rfl : 117 &&& 117 = 117)⟩ t h
  | macPortCommand => exact Within.execMacPortCommand (.refl s) ⟨(rfl : 81 &&& 81 = 81)⟩ t h
  | rfcSleep => exact Within.execRfcSleep (.refl s) ⟨(rfl : 213 &&& 213 = 213)⟩ t h
  | rfcWake => exact Within.execRfcWake (.refl s) ⟨(rfl : 213 &&& 213 = 213)⟩ t h
  | rfcTune => exact Within.execRfcTune (.refl s) ⟨(rfl : 3145809 &&& 3145809 = 3145809)⟩ t h
  | rfcPrep => exact Within.execRfcPrep (.refl s) ⟨(rfl : 3145809 &&& 3145809 = 3145809)⟩ t h
  | rfcRx => exact Within.execRfcRx (.refl s) ⟨(rfl : 213 &&& 213 = 213)⟩ t h
  | rfcTx => exact Within.execRfcTx (.refl s) ⟨(rfl : 213 &&& 213 = 213)⟩ t h
  | rfcIdle => exact Within.execRfcIdle (.refl s) ⟨(rfl : 213 &&& 213 = 213)⟩ t h
  | rfcStandby => exact Within.execRfcStandby (.refl s) ⟨(rfl : 213 &&& 213 = 213)⟩ t h
  | rfcCal => exact Within.execRfcCal (.refl s) ⟨(rfl : 81 &&& 81 = 81)⟩ t h
  | rfcDpdup => exact Within.execRfcDpdup (.refl s) ⟨(rfl : 81 &&& 81 = 81)⟩ t h
  | rfcAbort => exact Within.execRfcAbort (.refl s) ⟨(rfl : 213 &&& 213 = 213)⟩ t h
  | rfcStore => exact Within.execRfcStore (.refl s) ⟨(rfl : 3145811 &&& 3145811 = 3145811)⟩ t h
  | rfcTransitionDone => exact Within.execRfcTransitionDone (.refl s) ⟨(rfl : 209 &&& 209 = 209)⟩ t h
  | synthLock => exact Within.execSynthLock (.refl s) ⟨(rfl : 3145943 &&& 3145943 = 3145943)⟩ t h
  | lockLoss => exact Within.execLockLoss (.refl s) ⟨(rfl : 213 &&& 213 = 213)⟩ t h
  | heldDeadline => exact Within.execHeldDeadline (.refl s) ⟨(rfl : 81 &&& 81 = 81)⟩ t h
  | calStepDone => exact Within.execCalStepDone (.refl s) ⟨(rfl : 3145943 &&& 3145943 = 3145943)⟩ t h
  | calPeriodDue => exact Within.execCalPeriodDue (.refl s) ⟨(rfl : 65 &&& 65 = 65)⟩ t h
  | calTempDue => exact Within.execCalTempDue (.refl s) ⟨(rfl : 65 &&& 65 = 65)⟩ t h
  | calOverdue => exact Within.execCalOverdue (.refl s) ⟨(rfl : 17 &&& 17 = 17)⟩ t h
  | autocalStart => exact Within.execAutocalStart (.refl s) ⟨(rfl : 81 &&& 81 = 81)⟩ t h
  | dpdFitDone => exact Within.execDpdFitDone (.refl s) ⟨(rfl : 3145811 &&& 3145811 = 3145811)⟩ t h
  | dpdTimeout => exact Within.execDpdTimeout (.refl s) ⟨(rfl : 81 &&& 81 = 81)⟩ t h
  | dpdDue => exact Within.execDpdDue (.refl s) ⟨(rfl : 1 &&& 1 = 1)⟩ t h
  | femtWrite => exact Within.execFemtWrite (.refl s) ⟨(rfl : 53 &&& 53 = 53)⟩ t h
  | rfcResultPop => exact Within.execRfcResultPop (.refl s) ⟨(rfl : 117 &&& 117 = 117)⟩ t h
  | packetDetect => exact Within.execPacketDetect (.refl s) ⟨(rfl : 129 &&& 129 = 129)⟩ t h
  | fieldCheck => exact Within.execFieldCheck (.refl s) ⟨(rfl : 129 &&& 129 = 129)⟩ t h
  | unsupportedHoldEnd => exact Within.execUnsupportedHoldEnd (.refl s) ⟨(rfl : 133 &&& 133 = 133)⟩ t h
  | secondDetection => exact Within.execSecondDetection (.refl s) ⟨(rfl : 133 &&& 133 = 133)⟩ t h
  | clipRestart => exact Within.execClipRestart (.refl s) ⟨(rfl : 133 &&& 133 = 133)⟩ t h
  | tbReceptionArm => exact Within.execTbReceptionArm (.refl s) ⟨(rfl : 129 &&& 129 = 129)⟩ t h
  | tbWindowEnd => exact Within.execTbWindowEnd (.refl s) ⟨(rfl : 149 &&& 149 = 149)⟩ t h
  | codewordDecoded => exact Within.execCodewordDecoded (.refl s) ⟨(rfl : 129 &&& 129 = 129)⟩ t h
  | ppduReceiveEnd => exact Within.execPpduReceiveEnd (.refl s) ⟨(rfl : 149 &&& 149 = 149)⟩ t h
  | transmitVector => exact Within.execTransmitVector (.refl s) ⟨(rfl : 209 &&& 209 = 209)⟩ t h
  | ppduTxEnd => exact Within.execPpduTxEnd (.refl s) ⟨(rfl : 213 &&& 213 = 213)⟩ t h
  | smodeWrite => exact Within.execSmodeWrite (.refl s) ⟨(rfl : 181 &&& 181 = 181)⟩ t h
  | noiseAlarm => exact Within.execNoiseAlarm (.refl s) ⟨(rfl : 17 &&& 17 = 17)⟩ t h
  | rxAnomalyAlarm => exact Within.execRxAnomalyAlarm (.refl s) ⟨(rfl : 17 &&& 17 = 17)⟩ t h
  | edcaCommit => exact Within.execEdcaCommit (.refl s) ⟨(rfl : 8657 &&& 8657 = 8657)⟩ t h
  | mpduReceive => exact Within.execMpduReceive (.refl s) ⟨(rfl : 15891 &&& 15891 = 15891)⟩ t h
  | controlResponse => exact Within.execControlResponse (.refl s) ⟨(rfl : 4 &&& 4 = 4)⟩ t h
  | beaconTbtt => exact Within.execBeaconTbtt (.refl s) ⟨(rfl : 2048 &&& 2048 = 2048)⟩ t h
  | beaconDrop => exact Within.execBeaconDrop (.refl s) ⟨(rfl : 2065 &&& 2065 = 2065)⟩ t h
  | beaconCommit => exact Within.execBeaconCommit (.refl s) ⟨(rfl : 2261 &&& 2261 = 2261)⟩ t h
  | tsfRead => exact Within.execTsfRead (.refl s) ⟨(rfl : 53 &&& 53 = 53)⟩ t h
  | wifiBeaconReceive => exact Within.execWifiBeaconReceive (.refl s) ⟨(rfl : 4196377 &&& 4196377 = 4196377)⟩ t h
  | notchFlagExpire => exact Within.execNotchFlagExpire (.refl s) ⟨(rfl : 2065 &&& 2065 = 2065)⟩ t h
  | mpduLifetimeDrop => exact Within.execMpduLifetimeDrop (.refl s) ⟨(rfl : 259 &&& 259 = 259)⟩ t h
  | reorderTimeout => exact Within.execReorderTimeout (.refl s) ⟨(rfl : 2577 &&& 2577 = 2577)⟩ t h
  | mpduMove => exact Within.execMpduMove (.refl s) ⟨(rfl : 7427 &&& 7427 = 7427)⟩ t h
  | twtSlipCheck => exact Within.execTwtSlipCheck (.refl s) ⟨(rfl : 2069 &&& 2069 = 2069)⟩ t h
  | dlMuPpdu => exact Within.execDlMuPpdu (.refl s) ⟨(rfl : 8659 &&& 8659 = 8659)⟩ t h
  | triggerSend => exact Within.execTriggerSend (.refl s) ⟨(rfl : 8405 &&& 8405 = 8405)⟩ t h
  | sounding => exact Within.execSounding (.refl s) ⟨(rfl : 6145 &&& 6145 = 6145)⟩ t h
  | notchSuspendChange => exact Within.execNotchSuspendChange (.refl s) ⟨(rfl : 17 &&& 17 = 17)⟩ t h
  | notchArm => exact Within.execNotchArm (.refl s) ⟨(rfl : 53 &&& 53 = 53)⟩ t h
  | notchPlanApply => exact Within.execNotchPlanApply (.refl s) ⟨(rfl : 17 &&& 17 = 17)⟩ t h
  | macCmdPush => exact Within.execMacCmdPush (.refl s) ⟨(rfl : 2101 &&& 2101 = 2101)⟩ t h
  | bssStart => exact Within.execBssStart (.refl s) ⟨(rfl : 2065 &&& 2065 = 2065)⟩ t h
  | bssStop => exact Within.execBssStop (.refl s) ⟨(rfl : 2577 &&& 2577 = 2577)⟩ t h
  | linkAdd => exact Within.execLinkAdd (.refl s) ⟨(rfl : 2065 &&& 2065 = 2065)⟩ t h
  | linkDel => exact Within.execLinkDel (.refl s) ⟨(rfl : 2577 &&& 2577 = 2577)⟩ t h
  | baAdd => exact Within.execBaAdd (.refl s) ⟨(rfl : 2065 &&& 2065 = 2065)⟩ t h
  | baDel => exact Within.execBaDel (.refl s) ⟨(rfl : 2577 &&& 2577 = 2577)⟩ t h
  | twtSet => exact Within.execTwtSet (.refl s) ⟨(rfl : 2065 &&& 2065 = 2065)⟩ t h
  | twtDel => exact Within.execTwtDel (.refl s) ⟨(rfl : 2065 &&& 2065 = 2065)⟩ t h
  | meshStart => exact Within.execMeshStart (.refl s) ⟨(rfl : 2065 &&& 2065 = 2065)⟩ t h
  | meshStop => exact Within.execMeshStop (.refl s) ⟨(rfl : 2577 &&& 2577 = 2577)⟩ t h
  | macDrainDone => exact Within.execMacDrainDone (.refl s) ⟨(rfl : 1 &&& 1 = 1)⟩ t h
  | macResultPop => exact Within.execMacResultPop (.refl s) ⟨(rfl : 2101 &&& 2101 = 2101)⟩ t h
  | macDropAlarm => exact Within.execMacDropAlarm (.refl s) ⟨(rfl : 17 &&& 17 = 17)⟩ t h
  | stpCmdPush => exact Within.execStpCmdPush (.refl s) ⟨(rfl : 8245 &&& 8245 = 8245)⟩ t h
  | stpRun => exact Within.execStpRun (.refl s) ⟨(rfl : 8211 &&& 8211 = 8211)⟩ t h
  | stpStop => exact Within.execStpStop (.refl s) ⟨(rfl : 8211 &&& 8211 = 8211)⟩ t h
  | clAdd => exact Within.execClAdd (.refl s) ⟨(rfl : 8211 &&& 8211 = 8211)⟩ t h
  | clDel => exact Within.execClDel (.refl s) ⟨(rfl : 8211 &&& 8211 = 8211)⟩ t h
  | clWord => exact Within.execClWord (.refl s) ⟨(rfl : 8211 &&& 8211 = 8211)⟩ t h
  | clSusp => exact Within.execClSusp (.refl s) ⟨(rfl : 8211 &&& 8211 = 8211)⟩ t h
  | clResume => exact Within.execClResume (.refl s) ⟨(rfl : 8211 &&& 8211 = 8211)⟩ t h
  | twtPlace => exact Within.execTwtPlace (.refl s) ⟨(rfl : 8211 &&& 8211 = 8211)⟩ t h
  | twtFree => exact Within.execTwtFree (.refl s) ⟨(rfl : 8211 &&& 8211 = 8211)⟩ t h
  | driftReset => exact Within.execDriftReset (.refl s) ⟨(rfl : 8211 &&& 8211 = 8211)⟩ t h
  | stageMpdu => exact Within.execStageMpdu (.refl s) ⟨(rfl : 5395 &&& 5395 = 5395)⟩ t h
  | exchangeResult => exact Within.execExchangeResult (.refl s) ⟨(rfl : 3148051 &&& 3148051 = 3148051)⟩ t h
  | planRequest => exact Within.execPlanRequest (.refl s) ⟨(rfl : 12295 &&& 12295 = 12295)⟩ t h
  | spDecisionStart => exact Within.execSpDecisionStart (.refl s) ⟨(rfl : 12295 &&& 12295 = 12295)⟩ t h
  | planDiscard => exact Within.execPlanDiscard (.refl s) ⟨(rfl : 12289 &&& 12289 = 12289)⟩ t h
  | decisionOverrun => exact Within.execDecisionOverrun (.refl s) ⟨(rfl : 12309 &&& 12309 = 12309)⟩ t h
  | driftSample => exact Within.execDriftSample (.refl s) ⟨(rfl : 19 &&& 19 = 19)⟩ t h
  | spWindowEnd => exact Within.execSpWindowEnd (.refl s) ⟨(rfl : 8211 &&& 8211 = 8211)⟩ t h
  | listenEnd => exact Within.execListenEnd (.refl s) ⟨(rfl : 19 &&& 19 = 19)⟩ t h
  | stpPendWrite => exact Within.execStpPendWrite (.refl s) ⟨(rfl : 55 &&& 55 = 55)⟩ t h
  | stpResultPop => exact Within.execStpResultPop (.refl s) ⟨(rfl : 8245 &&& 8245 = 8245)⟩ t h
  | superframeStart => exact Within.execSuperframeStart (.refl s) ⟨(rfl : 20499 &&& 20499 = 20499)⟩ t h
  | scheduleArm => exact Within.execScheduleArm (.refl s) ⟨(rfl : 53 &&& 53 = 53)⟩ t h
  | scheduleApply => exact Within.execScheduleApply (.refl s) ⟨(rfl : 17 &&& 17 = 17)⟩ t h
  | ownerMapBuild => exact Within.execOwnerMapBuild (.refl s) ⟨(rfl : 16384 &&& 16384 = 16384)⟩ t h
  | fieldBeaconCommit => exact Within.execFieldBeaconCommit (.refl s) ⟨(rfl : 16597 &&& 16597 = 16597)⟩ t h
  | fieldFrameReceive => exact Within.execFieldFrameReceive (.refl s) ⟨(rfl : 4214811 &&& 4214811 = 4214811)⟩ t h
  | fieldResponse => exact Within.execFieldResponse (.refl s) ⟨(rfl : 16599 &&& 16599 = 16599)⟩ t h
  | pollWindowEnd => exact Within.execPollWindowEnd (.refl s) ⟨(rfl : 16403 &&& 16403 = 16403)⟩ t h
  | passRegionStart => exact Within.execPassRegionStart (.refl s) ⟨(rfl : 209 &&& 209 = 209)⟩ t h
  | valleyStart => exact Within.execValleyStart (.refl s) ⟨(rfl : 16465 &&& 16465 = 16465)⟩ t h
  | upBeaconListenEnd => exact Within.execUpBeaconListenEnd (.refl s) ⟨(rfl : 16401 &&& 16401 = 16401)⟩ t h
  | upHoldEnd => exact Within.execUpHoldEnd (.refl s) ⟨(rfl : 17 &&& 17 = 17)⟩ t h
  | longListenEnd => exact Within.execLongListenEnd (.refl s) ⟨(rfl : 17 &&& 17 = 17)⟩ t h
  | longListenRetry => exact Within.execLongListenRetry (.refl s) ⟨(rfl : 17 &&& 17 = 17)⟩ t h
  | ptabAgeExpire => exact Within.execPtabAgeExpire (.refl s) ⟨(rfl : 1 &&& 1 = 1)⟩ t h
  | ptabWrite => exact Within.execPtabWrite (.refl s) ⟨(rfl : 53 &&& 53 = 53)⟩ t h
  | dwellBinRoll => exact Within.execDwellBinRoll (.refl s) ⟨(rfl : 16384 &&& 16384 = 16384)⟩ t h
  | fmacCmdPush => exact Within.execFmacCmdPush (.refl s) ⟨(rfl : 16437 &&& 16437 = 16437)⟩ t h
  | sfStart => exact Within.execSfStart (.refl s) ⟨(rfl : 16401 &&& 16401 = 16401)⟩ t h
  | sfStop => exact Within.execSfStop (.refl s) ⟨(rfl : 16401 &&& 16401 = 16401)⟩ t h
  | upAttach => exact Within.execUpAttach (.refl s) ⟨(rfl : 16401 &&& 16401 = 16401)⟩ t h
  | upDetach => exact Within.execUpDetach (.refl s) ⟨(rfl : 16401 &&& 16401 = 16401)⟩ t h
  | assign => exact Within.execAssign (.refl s) ⟨(rfl : 16403 &&& 16403 = 16403)⟩ t h
  | release => exact Within.execRelease (.refl s) ⟨(rfl : 20499 &&& 20499 = 20499)⟩ t h
  | dlStage => exact Within.execDlStage (.refl s) ⟨(rfl : 20499 &&& 20499 = 20499)⟩ t h
  | dlCancel => exact Within.execDlCancel (.refl s) ⟨(rfl : 20499 &&& 20499 = 20499)⟩ t h
  | keyset => exact Within.execKeyset (.refl s) ⟨(rfl : 16403 &&& 16403 = 16403)⟩ t h
  | fieldDrainDone => exact Within.execFieldDrainDone (.refl s) ⟨(rfl : 1 &&& 1 = 1)⟩ t h
  | fmacResultPop => exact Within.execFmacResultPop (.refl s) ⟨(rfl : 16437 &&& 16437 = 16437)⟩ t h
  | packetClassify => exact Within.execPacketClassify (.refl s) ⟨(rfl : 3444755 &&& 3444755 = 3444755)⟩ t h
  | espResult => exact Within.execEspResult (.refl s) ⟨(rfl : 3444755 &&& 3444755 = 3444755)⟩ t h
  | rewriteUnitsGrant => exact Within.execRewriteUnitsGrant (.refl s) ⟨(rfl : 36883 &&& 36883 = 36883)⟩ t h
  | legacyReorderRelease => exact Within.execLegacyReorderRelease (.refl s) ⟨(rfl : 36865 &&& 36865 = 36865)⟩ t h
  | pipeTabWrite => exact Within.execPipeTabWrite (.refl s) ⟨(rfl : 32821 &&& 32821 = 32821)⟩ t h
  | pipeTabApply => exact Within.execPipeTabApply (.refl s) ⟨(rfl : 32769 &&& 32769 = 32769)⟩ t h
  | fenceStart => exact Within.execFenceStart (.refl s) ⟨(rfl : 32821 &&& 32821 = 32821)⟩ t h
  | fenceDone => exact Within.execFenceDone (.refl s) ⟨(rfl : 32769 &&& 32769 = 32769)⟩ t h
  | updWrite => exact Within.execUpdWrite (.refl s) ⟨(rfl : 32821 &&& 32821 = 32821)⟩ t h
  | updClear => exact Within.execUpdClear (.refl s) ⟨(rfl : 32821 &&& 32821 = 32821)⟩ t h
  | updHash => exact Within.execUpdHash (.refl s) ⟨(rfl : 32821 &&& 32821 = 32821)⟩ t h
  | updComplete => exact Within.execUpdComplete (.refl s) ⟨(rfl : 32787 &&& 32787 = 32787)⟩ t h
  | missAlarm => exact Within.execMissAlarm (.refl s) ⟨(rfl : 17 &&& 17 = 17)⟩ t h
  | oddAlarm => exact Within.execOddAlarm (.refl s) ⟨(rfl : 17 &&& 17 = 17)⟩ t h
  | ppeCounterRead => exact Within.execPpeCounterRead (.refl s) ⟨(rfl : 53 &&& 53 = 53)⟩ t h
  | ethFrameReceive => exact Within.execEthFrameReceive (.refl s) ⟨(rfl : 4115 &&& 4115 = 4115)⟩ t h
  | ethFrameTransmit => exact Within.execEthFrameTransmit (.refl s) ⟨(rfl : 3215381 &&& 3215381 = 3215381)⟩ t h
  | pauseReceive => exact Within.execPauseReceive (.refl s) ⟨(rfl : 4096 &&& 4096 = 4096)⟩ t h
  | pauseRepeat => exact Within.execPauseRepeat (.refl s) ⟨(rfl : 4100 &&& 4100 = 4100)⟩ t h
  | linkChange => exact Within.execLinkChange (.refl s) ⟨(rfl : 17 &&& 17 = 17)⟩ t h
  | ptpRead => exact Within.execPtpRead (.refl s) ⟨(rfl : 53 &&& 53 = 53)⟩ t h
  | ptpStep => exact Within.execPtpStep (.refl s) ⟨(rfl : 65589 &&& 65589 = 65589)⟩ t h
  | txtsPop => exact Within.execTxtsPop (.refl s) ⟨(rfl : 65589 &&& 65589 = 65589)⟩ t h
  | mdioGo => exact Within.execMdioGo (.refl s) ⟨(rfl : 53 &&& 53 = 53)⟩ t h
  | mdioDone => exact Within.execMdioDone (.refl s) ⟨(rfl : 1 &&& 1 = 1)⟩ t h
  | enqueue => exact Within.execEnqueue (.refl s) ⟨(rfl : 4115 &&& 4115 = 4115)⟩ t h
  | poolApply => exact Within.execPoolApply (.refl s) ⟨(rfl : 53 &&& 53 = 53)⟩ t h
  | rpoolWrite => exact Within.execRpoolWrite (.refl s) ⟨(rfl : 53 &&& 53 = 53)⟩ t h
  | qmgFree => exact Within.execQmgFree (.refl s) ⟨(rfl : 4149 &&& 4149 = 4149)⟩ t h
  | qmgCmdPush => exact Within.execQmgCmdPush (.refl s) ⟨(rfl : 4149 &&& 4149 = 4149)⟩ t h
  | qCreate => exact Within.execQCreate (.refl s) ⟨(rfl : 4115 &&& 4115 = 4115)⟩ t h
  | qDelete => exact Within.execQDelete (.refl s) ⟨(rfl : 4115 &&& 4115 = 4115)⟩ t h
  | qSet => exact Within.execQSet (.refl s) ⟨(rfl : 4115 &&& 4115 = 4115)⟩ t h
  | qMove => exact Within.execQMove (.refl s) ⟨(rfl : 4115 &&& 4115 = 4115)⟩ t h
  | qStart => exact Within.execQStart (.refl s) ⟨(rfl : 4115 &&& 4115 = 4115)⟩ t h
  | qStop => exact Within.execQStop (.refl s) ⟨(rfl : 4115 &&& 4115 = 4115)⟩ t h
  | qFlush => exact Within.execQFlush (.refl s) ⟨(rfl : 4115 &&& 4115 = 4115)⟩ t h
  | qmgResultPop => exact Within.execQmgResultPop (.refl s) ⟨(rfl : 4149 &&& 4149 = 4149)⟩ t h
  | tmgSelect => exact Within.execTmgSelect (.refl s) ⟨(rfl : 5395 &&& 5395 = 5395)⟩ t h
  | sampleRound => exact Within.execSampleRound (.refl s) ⟨(rfl : 4115 &&& 4115 = 4115)⟩ t h
  | ringConfigWrite => exact Within.execRingConfigWrite (.refl s) ⟨(rfl : 53 &&& 53 = 53)⟩ t h
  | portStall => exact Within.execPortStall (.refl s) ⟨(rfl : 4113 &&& 4113 = 4113)⟩ t h
  | tailAlarm => exact Within.execTailAlarm (.refl s) ⟨(rfl : 17 &&& 17 = 17)⟩ t h
  | redAlarm => exact Within.execRedAlarm (.refl s) ⟨(rfl : 17 &&& 17 = 17)⟩ t h
  | doorbell => exact Within.execDoorbell (.refl s) ⟨(rfl : 131125 &&& 131125 = 131125)⟩ t h
  | descriptorFetch => exact Within.execDescriptorFetch (.refl s) ⟨(rfl : 3276817 &&& 3276817 = 3276817)⟩ t h
  | dmaBurst => exact Within.execDmaBurst (.refl s) ⟨(rfl : 536870911 &&& 536870911 = 536870911)⟩ t h
  | descriptorComplete => exact Within.execDescriptorComplete (.refl s) ⟨(rfl : 3276819 &&& 3276819 = 3276819)⟩ t h
  | dmaTriggerStrobe => exact Within.execDmaTriggerStrobe (.refl s) ⟨(rfl : 131089 &&& 131089 = 131089)⟩ t h
  | dmaEnable => exact Within.execDmaEnable (.refl s) ⟨(rfl : 3276855 &&& 3276855 = 3276855)⟩ t h
  | dmaStart => exact Within.execDmaStart (.refl s) ⟨(rfl : 3276855 &&& 3276855 = 3276855)⟩ t h
  | dmaPause => exact Within.execDmaPause (.refl s) ⟨(rfl : 3276855 &&& 3276855 = 3276855)⟩ t h
  | dmaResume => exact Within.execDmaResume (.refl s) ⟨(rfl : 3276855 &&& 3276855 = 3276855)⟩ t h
  | dmaStop => exact Within.execDmaStop (.refl s) ⟨(rfl : 3276855 &&& 3276855 = 3276855)⟩ t h
  | dmaAbort => exact Within.execDmaAbort (.refl s) ⟨(rfl : 3276855 &&& 3276855 = 3276855)⟩ t h
  | dmaClear => exact Within.execDmaClear (.refl s) ⟨(rfl : 3276855 &&& 3276855 = 3276855)⟩ t h
  | injectUnitsGrant => exact Within.execInjectUnitsGrant (.refl s) ⟨(rfl : 131089 &&& 131089 = 131089)⟩ t h
  | shadowWrite => exact Within.execShadowWrite (.refl s) ⟨(rfl : 53 &&& 53 = 53)⟩ t h
  | saddleArm => exact Within.execSaddleArm (.refl s) ⟨(rfl : 53 &&& 53 = 53)⟩ t h
  | saddle => exact Within.execSaddle (.refl s) ⟨(rfl : 131089 &&& 131089 = 131089)⟩ t h
  | chkPreset => exact Within.execChkPreset (.refl s) ⟨(rfl : 53 &&& 53 = 53)⟩ t h
  | chkConfigWrite => exact Within.execChkConfigWrite (.refl s) ⟨(rfl : 53 &&& 53 = 53)⟩ t h
  | chkDataFeed => exact Within.execChkDataFeed (.refl s) ⟨(rfl : 53 &&& 53 = 53)⟩ t h
  | chkInit => exact Within.execChkInit (.refl s) ⟨(rfl : 53 &&& 53 = 53)⟩ t h
  | scanGo => exact Within.execScanGo (.refl s) ⟨(rfl : 53 &&& 53 = 53)⟩ t h
  | scanStop => exact Within.execScanStop (.refl s) ⟨(rfl : 53 &&& 53 = 53)⟩ t h
  | scanEnd => exact Within.execScanEnd (.refl s) ⟨(rfl : 167606399 &&& 167606399 = 167606399)⟩ t h
  | pageDoorbell => exact Within.execPageDoorbell (.refl s) ⟨(rfl : 262197 &&& 262197 = 262197)⟩ t h
  | cryDescriptorFetch => exact Within.execCryDescriptorFetch (.refl s) ⟨(rfl : 3407891 &&& 3407891 = 3407891)⟩ t h
  | inlineOperation => exact Within.execInlineOperation (.refl s) ⟨(rfl : 262149 &&& 262149 = 262149)⟩ t h
  | coreAssign => exact Within.execCoreAssign (.refl s) ⟨(rfl : 262167 &&& 262167 = 262167)⟩ t h
  | cryOperationComplete => exact Within.execCryOperationComplete (.refl s) ⟨(rfl : 3407895 &&& 3407895 = 3407895)⟩ t h
  | cryLoad => exact Within.execCryLoad (.refl s) ⟨(rfl : 3932215 &&& 3932215 = 3932215)⟩ t h
  | cryUnwrap => exact Within.execCryUnwrap (.refl s) ⟨(rfl : 3932215 &&& 3932215 = 3932215)⟩ t h
  | cryGen => exact Within.execCryGen (.refl s) ⟨(rfl : 3932215 &&& 3932215 = 3932215)⟩ t h
  | cryExport => exact Within.execCryExport (.refl s) ⟨(rfl : 3932215 &&& 3932215 = 3932215)⟩ t h
  | cryErase => exact Within.execCryErase (.refl s) ⟨(rfl : 3932215 &&& 3932215 = 3932215)⟩ t h
  | eraseComplete => exact Within.execEraseComplete (.refl s) ⟨(rfl : 3407895 &&& 3407895 = 3407895)⟩ t h
  | cryAttr => exact Within.execCryAttr (.refl s) ⟨(rfl : 3932215 &&& 3932215 = 3932215)⟩ t h
  | cryInfo => exact Within.execCryInfo (.refl s) ⟨(rfl : 3932215 &&& 3932215 = 3932215)⟩ t h
  | cryKeyResultPop => exact Within.execCryKeyResultPop (.refl s) ⟨(rfl : 262197 &&& 262197 = 262197)⟩ t h
  | pageEnable => exact Within.execPageEnable (.refl s) ⟨(rfl : 3932215 &&& 3932215 = 3932215)⟩ t h
  | pageStop => exact Within.execPageStop (.refl s) ⟨(rfl : 3932215 &&& 3932215 = 3932215)⟩ t h
  | pageClear => exact Within.execPageClear (.refl s) ⟨(rfl : 3932215 &&& 3932215 = 3932215)⟩ t h
  | ctxSave => exact Within.execCtxSave (.refl s) ⟨(rfl : 3932215 &&& 3932215 = 3932215)⟩ t h
  | ctxRestore => exact Within.execCtxRestore (.refl s) ⟨(rfl : 3932215 &&& 3932215 = 3932215)⟩ t h
  | ctxDrop => exact Within.execCtxDrop (.refl s) ⟨(rfl : 3932215 &&& 3932215 = 3932215)⟩ t h
  | pageResultPop => exact Within.execPageResultPop (.refl s) ⟨(rfl : 262197 &&& 262197 = 262197)⟩ t h
  | saLoad => exact Within.execSaLoad (.refl s) ⟨(rfl : 3407927 &&& 3407927 = 3407927)⟩ t h
  | saErase => exact Within.execSaErase (.refl s) ⟨(rfl : 3407927 &&& 3407927 = 3407927)⟩ t h
  | saRead => exact Within.execSaRead (.refl s) ⟨(rfl : 3407927 &&& 3407927 = 3407927)⟩ t h
  | alarmCondition => exact Within.execAlarmCondition (.refl s) ⟨(rfl : 33292311 &&& 33292311 = 33292311)⟩ t h
  | alarmEraseDone => exact Within.execAlarmEraseDone (.refl s) ⟨(rfl : 786449 &&& 786449 = 786449)⟩ t h
  | alarmClear => exact Within.execAlarmClear (.refl s) ⟨(rfl : 53 &&& 53 = 53)⟩ t h
  | alarmLock => exact Within.execAlarmLock (.refl s) ⟨(rfl : 53 &&& 53 = 53)⟩ t h
  | pkeCmdPush => exact Within.execPkeCmdPush (.refl s) ⟨(rfl : 524341 &&& 524341 = 524341)⟩ t h
  | pkeHash => exact Within.execPkeHash (.refl s) ⟨(rfl : 3670035 &&& 3670035 = 3670035)⟩ t h
  | pkeHmac => exact Within.execPkeHmac (.refl s) ⟨(rfl : 3670035 &&& 3670035 = 3670035)⟩ t h
  | pkeKdf => exact Within.execPkeKdf (.refl s) ⟨(rfl : 3932177 &&& 3932177 = 3932177)⟩ t h
  | pkeKeygen => exact Within.execPkeKeygen (.refl s) ⟨(rfl : 3932179 &&& 3932179 = 3932179)⟩ t h
  | pkePubkey => exact Within.execPkePubkey (.refl s) ⟨(rfl : 3670035 &&& 3670035 = 3670035)⟩ t h
  | pkeSign => exact Within.execPkeSign (.refl s) ⟨(rfl : 3670035 &&& 3670035 = 3670035)⟩ t h
  | pkeVerify => exact Within.execPkeVerify (.refl s) ⟨(rfl : 3670033 &&& 3670033 = 3670033)⟩ t h
  | pkeEcdh => exact Within.execPkeEcdh (.refl s) ⟨(rfl : 3932177 &&& 3932177 = 3932177)⟩ t h
  | pkeRandom => exact Within.execPkeRandom (.refl s) ⟨(rfl : 3670035 &&& 3670035 = 3670035)⟩ t h
  | pkeReseed => exact Within.execPkeReseed (.refl s) ⟨(rfl : 3670033 &&& 3670033 = 3670033)⟩ t h
  | pkeMextend => exact Within.execPkeMextend (.refl s) ⟨(rfl : 3670033 &&& 3670033 = 3670033)⟩ t h
  | pkeAttest => exact Within.execPkeAttest (.refl s) ⟨(rfl : 3670035 &&& 3670035 = 3670035)⟩ t h
  | pkeSvnset => exact Within.execPkeSvnset (.refl s) ⟨(rfl : 3670033 &&& 3670033 = 3670033)⟩ t h
  | pkeRevoke => exact Within.execPkeRevoke (.refl s) ⟨(rfl : 3670033 &&& 3670033 = 3670033)⟩ t h
  | pkeResultPop => exact Within.execPkeResultPop (.refl s) ⟨(rfl : 524341 &&& 524341 = 524341)⟩ t h
  | rngRead => exact Within.execRngRead (.refl s) ⟨(rfl : 524341 &&& 524341 = 524341)⟩ t h
  | entropyStartupTest => exact Within.execEntropyStartupTest (.refl s) ⟨(rfl : 269221905 &&& 269221905 = 269221905)⟩ t h
  | healthTestFail => exact Within.execHealthTestFail (.refl s) ⟨(rfl : 17 &&& 17 = 17)⟩ t h
  | reseedInterval => exact Within.execReseedInterval (.refl s) ⟨(rfl : 524289 &&& 524289 = 524289)⟩ t h
  | imageVerify => exact Within.execImageVerify (.refl s) ⟨(rfl : 3670039 &&& 3670039 = 3670039)⟩ t h
  | debugChallenge => exact Within.execDebugChallenge (.refl s) ⟨(rfl : 524293 &&& 524293 = 524293)⟩ t h
  | debugToken => exact Within.execDebugToken (.refl s) ⟨(rfl : 33292311 &&& 33292311 = 33292311)⟩ t h
  | scrubRead => exact Within.execScrubRead (.refl s) ⟨(rfl : 3145745 &&& 3145745 = 3145745)⟩ t h
  | scrubOverdue => exact Within.execScrubOverdue (.refl s) ⟨(rfl : 17 &&& 17 = 17)⟩ t h
  | backgroundWindowOpen => exact Within.execBackgroundWindowOpen (.refl s) ⟨(rfl : 1 &&& 1 = 1)⟩ t h
  | backgroundWindowClose => exact Within.execBackgroundWindowClose (.refl s) ⟨(rfl : 1 &&& 1 = 1)⟩ t h
  | ceAlarm => exact Within.execCeAlarm (.refl s) ⟨(rfl : 2097169 &&& 2097169 = 2097169)⟩ t h
  | dramRequest => exact Within.execDramRequest (.refl s) ⟨(rfl : 2097173 &&& 2097173 = 2097173)⟩ t h
  | requestPromote => exact Within.execRequestPromote (.refl s) ⟨(rfl : 2097153 &&& 2097153 = 2097153)⟩ t h
  | dramRefresh => exact Within.execDramRefresh (.refl s) ⟨(rfl : 2097152 &&& 2097152 = 2097152)⟩ t h
  | mr4Poll => exact Within.execMr4Poll (.refl s) ⟨(rfl : 17 &&& 17 = 17)⟩ t h
  | raaTableClear => exact Within.execRaaTableClear (.refl s) ⟨(rfl : 2097152 &&& 2097152 = 2097152)⟩ t h
  | nrefAlarm => exact Within.execNrefAlarm (.refl s) ⟨(rfl : 2097169 &&& 2097169 = 2097169)⟩ t h
  | drcTrain => exact Within.execDrcTrain (.refl s) ⟨(rfl : 3145783 &&& 3145783 = 3145783)⟩ t h
  | drcRestore => exact Within.execDrcRestore (.refl s) ⟨(rfl : 3145783 &&& 3145783 = 3145783)⟩ t h
  | trainStepDone => exact Within.execTrainStepDone (.refl s) ⟨(rfl : 271581203 &&& 271581203 = 271581203)⟩ t h
  | srEnter => exact Within.execSrEnter (.refl s) ⟨(rfl : 3145783 &&& 3145783 = 3145783)⟩ t h
  | srExit => exact Within.execSrExit (.refl s) ⟨(rfl : 3145783 &&& 3145783 = 3145783)⟩ t h
  | drcStop => exact Within.execDrcStop (.refl s) ⟨(rfl : 3145783 &&& 3145783 = 3145783)⟩ t h
  | drcResultPop => exact Within.execDrcResultPop (.refl s) ⟨(rfl : 2097205 &&& 2097205 = 2097205)⟩ t h
  | sridleEnter => exact Within.execSridleEnter (.refl s) ⟨(rfl : 3145747 &&& 3145747 = 3145747)⟩ t h
  | dumpUnlock => exact Within.execDumpUnlock (.refl s) ⟨(rfl : 53 &&& 53 = 53)⟩ t h
  | injectArm => exact Within.execInjectArm (.refl s) ⟨(rfl : 53 &&& 53 = 53)⟩ t h
  | dictionaryImageLoad => exact Within.execDictionaryImageLoad (.refl s) ⟨(rfl : 536870911 &&& 536870911 = 536870911)⟩ t h
  | heldValuesApply => exact Within.execHeldValuesApply (.refl s) ⟨(rfl : 536870911 &&& 536870911 = 536870911)⟩ t h
  | hdpPduReceive => exact Within.execHdpPduReceive (.refl s) ⟨(rfl : 536870911 &&& 536870911 = 536870911)⟩ t h
  | hdpOpen => exact Within.execHdpOpen (.refl s) ⟨(rfl : 166557821 &&& 166557821 = 166557821)⟩ t h
  | hdpAuth => exact Within.execHdpAuth (.refl s) ⟨(rfl : 29360145 &&& 29360145 = 29360145)⟩ t h
  | hdpClose => exact Within.execHdpClose (.refl s) ⟨(rfl : 29360145 &&& 29360145 = 29360145)⟩ t h
  | hdpPing => exact Within.execHdpPing (.refl s) ⟨(rfl : 29360145 &&& 29360145 = 29360145)⟩ t h
  | hdpRead => exact Within.execHdpRead (.refl s) ⟨(rfl : 166557821 &&& 166557821 = 166557821)⟩ t h
  | hdpWrite => exact Within.execHdpWrite (.refl s) ⟨(rfl : 536870911 &&& 536870911 = 536870911)⟩ t h
  | hdpWriteMulti => exact Within.execHdpWriteMulti (.refl s) ⟨(rfl : 536870911 &&& 536870911 = 536870911)⟩ t h
  | hdpInvoke => exact Within.execHdpInvoke (.refl s) ⟨(rfl : 536870911 &&& 536870911 = 536870911)⟩ t h
  | hdpDescribe => exact Within.execHdpDescribe (.refl s) ⟨(rfl : 29360145 &&& 29360145 = 29360145)⟩ t h
  | hdpSubscribe => exact Within.execHdpSubscribe (.refl s) ⟨(rfl : 29360145 &&& 29360145 = 29360145)⟩ t h
  | hdpEventAck => exact Within.execHdpEventAck (.refl s) ⟨(rfl : 29360145 &&& 29360145 = 29360145)⟩ t h
  | hdpDigest => exact Within.execHdpDigest (.refl s) ⟨(rfl : 166557821 &&& 166557821 = 166557821)⟩ t h
  | hdpReadNet => exact Within.execHdpReadNet (.refl s) ⟨(rfl : 166557821 &&& 166557821 = 166557821)⟩ t h
  | mbxinPush => exact Within.execMbxinPush (.refl s) ⟨(rfl : 7340085 &&& 7340085 = 7340085)⟩ t h
  | mbxoutPop => exact Within.execMbxoutPop (.refl s) ⟨(rfl : 7340087 &&& 7340087 = 7340087)⟩ t h
  | canSegmentReceive => exact Within.execCanSegmentReceive (.refl s) ⟨(rfl : 4194305 &&& 4194305 = 4194305)⟩ t h
  | canSegmentTimeout => exact Within.execCanSegmentTimeout (.refl s) ⟨(rfl : 4194305 &&& 4194305 = 4194305)⟩ t h
  | spiPduWrite => exact Within.execSpiPduWrite (.refl s) ⟨(rfl : 4194321 &&& 4194321 = 4194321)⟩ t h
  | spiPduRead => exact Within.execSpiPduRead (.refl s) ⟨(rfl : 4194308 &&& 4194308 = 4194308)⟩ t h
  | spiStatusRead => exact Within.execSpiStatusRead (.refl s) ⟨(rfl : 4 &&& 4 = 4)⟩ t h
  | fwRequestPop => exact Within.execFwRequestPop (.refl s) ⟨(rfl : 7340087 &&& 7340087 = 7340087)⟩ t h
  | fwAnswer => exact Within.execFwAnswer (.refl s) ⟨(rfl : 167606397 &&& 167606397 = 167606397)⟩ t h
  | fwTimeout => exact Within.execFwTimeout (.refl s) ⟨(rfl : 166557821 &&& 166557821 = 166557821)⟩ t h
  | sessionTimeout => exact Within.execSessionTimeout (.refl s) ⟨(rfl : 4194305 &&& 4194305 = 4194305)⟩ t h
  | authLockoutEnd => exact Within.execAuthLockoutEnd (.refl s) ⟨(rfl : 4194304 &&& 4194304 = 4194304)⟩ t h
  | subscriptionDeliver => exact Within.execSubscriptionDeliver (.refl s) ⟨(rfl : 4194321 &&& 4194321 = 4194321)⟩ t h
  | eventSend => exact Within.execEventSend (.refl s) ⟨(rfl : 29360129 &&& 29360129 = 29360129)⟩ t h
  | eventAckTimeout => exact Within.execEventAckTimeout (.refl s) ⟨(rfl : 29360145 &&& 29360145 = 29360145)⟩ t h
  | statecmd => exact Within.execStatecmd (.refl s) ⟨(rfl : 166557821 &&& 166557821 = 166557821)⟩ t h
  | stateAutoChange => exact Within.execStateAutoChange (.refl s) ⟨(rfl : 166557821 &&& 166557821 = 166557821)⟩ t h
  | journalCommit => exact Within.execJournalCommit (.refl s) ⟨(rfl : 71303169 &&& 71303169 = 71303169)⟩ t h
  | journalCompact => exact Within.execJournalCompact (.refl s) ⟨(rfl : 233666685 &&& 233666685 = 233666685)⟩ t h
  | digestPull => exact Within.execDigestPull (.refl s) ⟨(rfl : 536870911 &&& 536870911 = 536870911)⟩ t h
  | pullRetry => exact Within.execPullRetry (.refl s) ⟨(rfl : 536870911 &&& 536870911 = 536870911)⟩ t h
  | canTxfPush => exact Within.execCanTxfPush (.refl s) ⟨(rfl : 25165877 &&& 25165877 = 25165877)⟩ t h
  | canFrameSent => exact Within.execCanFrameSent (.refl s) ⟨(rfl : 25165829 &&& 25165829 = 25165829)⟩ t h
  | canFrameReceive => exact Within.execCanFrameReceive (.refl s) ⟨(rfl : 25165825 &&& 25165825 = 25165825)⟩ t h
  | canBusState => exact Within.execCanBusState (.refl s) ⟨(rfl : 17 &&& 17 = 17)⟩ t h
  | canRxfPop => exact Within.execCanRxfPop (.refl s) ⟨(rfl : 25165877 &&& 25165877 = 25165877)⟩ t h
  | stateReq => exact Within.execStateReq (.refl s) ⟨(rfl : 166557821 &&& 166557821 = 166557821)⟩ t h
  | save => exact Within.execSave (.refl s) ⟨(rfl : 166557821 &&& 166557821 = 166557821)⟩ t h
  | restart => exact Within.execRestart (.refl s) ⟨(rfl : 536870911 &&& 536870911 = 536870911)⟩ t h
  | fallbackClear => exact Within.execFallbackClear (.refl s) ⟨(rfl : 233666685 &&& 233666685 = 233666685)⟩ t h
  | attest => exact Within.execAttest (.refl s) ⟨(rfl : 166557821 &&& 166557821 = 166557821)⟩ t h
  | keyUnwrap => exact Within.execKeyUnwrap (.refl s) ⟨(rfl : 167606399 &&& 167606399 = 167606399)⟩ t h
  | keyLoad => exact Within.execKeyLoad (.refl s) ⟨(rfl : 166557821 &&& 166557821 = 166557821)⟩ t h
  | commit => exact Within.execCommit (.refl s) ⟨(rfl : 166557821 &&& 166557821 = 166557821)⟩ t h
  | relayCmd => exact Within.execRelayCmd (.refl s) ⟨(rfl : 468678781 &&& 468678781 = 468678781)⟩ t h
  | levelCmd => exact Within.execLevelCmd (.refl s) ⟨(rfl : 468678781 &&& 468678781 = 468678781)⟩ t h
  | profileStep => exact Within.execProfileStep (.refl s) ⟨(rfl : 464484477 &&& 464484477 = 464484477)⟩ t h
  | dapcSend => exact Within.execDapcSend (.refl s) ⟨(rfl : 33554436 &&& 33554436 = 33554436)⟩ t h
  | relayFadeOpen => exact Within.execRelayFadeOpen (.refl s) ⟨(rfl : 464484477 &&& 464484477 = 464484477)⟩ t h
  | counterCollect => exact Within.execCounterCollect (.refl s) ⟨(rfl : 166557821 &&& 166557821 = 166557821)⟩ t h
  | powerOnReset => exact Within.execPowerOnReset (.refl s) ⟨(rfl : 536870911 &&& 536870911 = 536870911)⟩ t h
  | resetPin => exact Within.execResetPin (.refl s) ⟨(rfl : 536870911 &&& 536870911 = 536870911)⟩ t h
  | coldResetCmd => exact Within.execColdResetCmd (.refl s) ⟨(rfl : 536870911 &&& 536870911 = 536870911)⟩ t h
  | warmResetCmd => exact Within.execWarmResetCmd (.refl s) ⟨(rfl : 536870911 &&& 536870911 = 536870911)⟩ t h
  | watchdogExpiry => exact Within.execWatchdogExpiry (.refl s) ⟨(rfl : 536870911 &&& 536870911 = 536870911)⟩ t h
  | wdtEnable => exact Within.execWdtEnable (.refl s) ⟨(rfl : 268435509 &&& 268435509 = 268435509)⟩ t h
  | wdtKick => exact Within.execWdtKick (.refl s) ⟨(rfl : 268435509 &&& 268435509 = 268435509)⟩ t h
  | resetRelease => exact Within.execResetRelease (.refl s) ⟨(rfl : 268435456 &&& 268435456 = 268435456)⟩ t h
  | refValid => exact Within.execRefValid (.refl s) ⟨(rfl : 268454163 &&& 268454163 = 268454163)⟩ t h
  | sramClearDone => exact Within.execSramClearDone (.refl s) ⟨(rfl : 406341907 &&& 406341907 = 406341907)⟩ t h
  | recoveryImage => exact Within.execRecoveryImage (.refl s) ⟨(rfl : 272105491 &&& 272105491 = 272105491)⟩ t h
  | rdyenSet => exact Within.execRdyenSet (.refl s) ⟨(rfl : 53 &&& 53 = 53)⟩ t h
  | stepset => exact Within.execStepset (.refl s) ⟨(rfl : 18743 &&& 18743 = 18743)⟩ t h
  | stepclr => exact Within.execStepclr (.refl s) ⟨(rfl : 18743 &&& 18743 = 18743)⟩ t h
  | clkenWrite => exact Within.execClkenWrite (.refl s) ⟨(rfl : 18743 &&& 18743 = 18743)⟩ t h
  | bootTimeout => exact Within.execBootTimeout (.refl s) ⟨(rfl : 536870911 &&& 536870911 = 536870911)⟩ t h
  | ledgerWrite => exact Within.execLedgerWrite (.refl s) ⟨(rfl : 67108865 &&& 67108865 = 67108865)⟩ t h
  | otpcntInc => exact Within.execOtpcntInc (.refl s) ⟨(rfl : 53 &&& 53 = 53)⟩ t h
  | otpFuseDone => exact Within.execOtpFuseDone (.refl s) ⟨(rfl : 1 &&& 1 = 1)⟩ t h
  | xspiOpPush => exact Within.execXspiOpPush (.refl s) ⟨(rfl : 134217781 &&& 134217781 = 134217781)⟩ t h
  | xspiRead => exact Within.execXspiRead (.refl s) ⟨(rfl : 134217729 &&& 134217729 = 134217729)⟩ t h
  | xspiProgram => exact Within.execXspiProgram (.refl s) ⟨(rfl : 134217729 &&& 134217729 = 134217729)⟩ t h
  | xspiErase => exact Within.execXspiErase (.refl s) ⟨(rfl : 134217729 &&& 134217729 = 134217729)⟩ t h
  | xspiRaw => exact Within.execXspiRaw (.refl s) ⟨(rfl : 134217729 &&& 134217729 = 134217729)⟩ t h
  | xspiOpDone => exact Within.execXspiOpDone (.refl s) ⟨(rfl : 204472339 &&& 204472339 = 204472339)⟩ t h
  | xspiResultPop => exact Within.execXspiResultPop (.refl s) ⟨(rfl : 134217781 &&& 134217781 = 134217781)⟩ t h
  | dumpCopy => exact Within.execDumpCopy (.refl s) ⟨(rfl : 338690071 &&& 338690071 = 338690071)⟩ t h
  | sysAccerrPop => exact Within.execSysAccerrPop (.refl s) ⟨(rfl : 53 &&& 53 = 53)⟩ t h
  | supplyOutOfRange => exact Within.execSupplyOutOfRange (x0 := ‹_›) (.refl s) ⟨(rfl : 268435473 &&& 268435473 = 268435473)⟩ t h
  | upstreamPoll => exact Within.execUpstreamPoll (.refl s) ⟨(rfl : 16597 &&& 16597 = 16597)⟩ t h
  | pauseTimeExpiry => exact Within.execPauseTimeExpiry (.refl s) ⟨(rfl : 4096 &&& 4096 = 4096)⟩ t h
  | supplyBackInRange => exact Within.execSupplyBackInRange (.refl s) ⟨(rfl : 268435456 &&& 268435456 = 268435456)⟩ t h
  | netPllRetry => exact Within.execNetPllRetry (.refl s) ⟨(rfl : 268454163 &&& 268454163 = 268454163)⟩ t h

theorem testBit_partMask {l : List Part} {p : Part} (h : p ∉ l) : (partMask l).testBit p.num = false := by
  induction l with
  | nil => exact Nat.zero_testBit _
  | cons q l ih =>
    rw [List.mem_cons, not_or] at h
    rw [partMask, Nat.testBit_or, ih h.2, Bool.false_or, Nat.testBit_two_pow]
    have : q.num ≠ p.num := by
      intro e
      apply h.1
      revert e
      cases p <;> cases q <;> first | exact fun _ => rfl | exact fun e => by cases e
    exact decide_eq_false this

/-- The same, part by part. -/
theorem exec_same {c : Instr} {s t : State} (h : exec c s = .next t) {p : Part} (hp : p ∉ touched c) : SamePart p s t :=
  exec_within h p (testBit_partMask hp)

end Sys2Proof.Machine
end

