-- ==== Sys2Proof/Laws/Gtu.lean ====
section
/-! SUPPORT. What the common ends of the grid-time operations leave: the state, the accumulator, memory. -/

set_option Elab.async false

namespace Sys2Proof.Machine

theorem rf_raiseAll (s : State) (l : List Nat) (g : Fld) (h : ∀ n ∈ l, n < 256) (ha : ¬ evrAddr g.addr) :
    (s.raiseAll l).rf g = s.rf g := by
  unfold State.rf
  rw [reg_raiseAll _ ha _ _ h]

theorem mem_insertEvent (n m : Nat) : ∀ l : List Nat, m ∈ insertEvent n l ↔ m = n ∨ m ∈ l
  | [] => by simp [insertEvent]
  | k :: l => by
    unfold insertEvent
    split
    · simp
    · simp only [List.mem_cons, mem_insertEvent n m l]
      constructor
      · rintro (h | h | h)
        · exact .inr (.inl h)
        · exact .inl h
        · exact .inr (.inr h)
      · rintro (h | h | h)
        · exact .inr (.inl h)
        · exact .inl h
        · exact .inr (.inr h)

/-- The end of a step writes INBAND, QUAL and the EVR alone. -/
theorem reg_gtuEnd (s : State) (l : List Nat) (h : ∀ n ∈ l, n < 256) (a : Nat) (ha : ¬ evrAddr a) :
    (s.gtuEnd l).reg a = if a = R.GTU_HOLD then setBits (s.reg R.GTU_HOLD) F.GTU_HOLD_QUAL.hi F.GTU_HOLD_QUAL.lo
        (Gtu.qualOf s.gtuState (s.rf F.GTU_HOLD_ERR_EST))
      else if a = R.GTU_STAT then setBits (s.reg R.GTU_STAT) F.GTU_STAT_INBAND.hi F.GTU_STAT_INBAND.lo (if s.inBand then 1 else 0)
      else s.reg a := by
  unfold State.gtuEnd
  extract_lets b e1 s1 q e2
  have hs : s1.gtuState = s.gtuState :=
    rf_wb_other s _ _ _ (by decide) (by decide) (by decide) (.inr (by decide))
  have he : s1.rf F.GTU_HOLD_ERR_EST = s.rf F.GTU_HOLD_ERR_EST :=
    rf_wb_other s _ _ _ (by decide) (by decide) (by decide) (.inl (by decide))
  rw [reg_raiseAll _ ha, reg_wf]
  · show (if a = R.GTU_HOLD then setBits (s1.reg R.GTU_HOLD) _ _ (Gtu.qualOf s1.gtuState (s1.rf F.GTU_HOLD_ERR_EST)) else s1.reg a) = _
    rw [hs, he]
    have h1 : s1.reg R.GTU_HOLD = s.reg R.GTU_HOLD := by
      show (s.wb _ _).reg _ = _
      rw [reg_wb, if_neg (by decide)]
    rw [h1]
    split
    · rfl
    · show (s.wb _ _).reg _ = _
      rw [reg_wb]
      rfl
  · intro n hn
    have h1 : ∀ n ∈ e1, n < 256 := by
      intro n hn
      simp only [e1] at hn
      split at hn
      · rw [mem_insertEvent] at hn
        cases hn with
        | inl e => omega
        | inr e => exact h n e
      · exact h n hn
    simp only [e2] at hn
    split at hn
    · rw [mem_insertEvent] at hn
      cases hn with
      | inl e => omega
      | inr e => exact h1 n e
    · exact h1 n hn

theorem gtuEnd_state (s : State) (l : List Nat) (h : ∀ n ∈ l, n < 256) : (s.gtuEnd l).gtuState = s.gtuState := by
  unfold State.gtuState State.rf
  rw [reg_gtuEnd s l h _ (by simp [evrAddr, F.GTU_STAT_STATE, R.GTU_STAT]), if_neg (by decide), if_pos (by decide),
    bits_setBits_other _ _ _ _ _ _ (by decide) (by decide) (by decide) (by decide)]
  rfl

@[simp] theorem gtuEnd_gtu (s : State) (l : List Nat) : (s.gtuEnd l).gtu = s.gtu := by
  unfold State.gtuEnd
  extract_lets b e1 s1 q e2
  rw [raiseAll_gtu]
  rfl

@[simp] theorem gtuEnd_mem (s : State) (l : List Nat) : (s.gtuEnd l).mem = s.mem := by
  unfold State.gtuEnd
  extract_lets b e1 s1 q e2
  rw [raiseAll_mem]
  rfl

theorem reg_gtuOk (s : State) (a : Nat) :
    s.gtuOk.reg a = if a = R.GTU_ERR then setBits (s.reg R.GTU_ERR) 7 0 St.OK else s.reg a := reg_setReg _ _ _ _

@[simp] theorem gtuOk_state (s : State) : s.gtuOk.gtuState = s.gtuState := by
  unfold State.gtuState State.rf
  rw [reg_gtuOk, if_neg (by decide)]

@[simp] theorem gtuOk_gtu (s : State) : s.gtuOk.gtu = s.gtu := rfl
@[simp] theorem gtuOk_mem (s : State) : s.gtuOk.mem = s.mem := rfl

/-- Entering a state writes the state, and clears the slew and the error estimate where they end. -/
theorem reg_gtuEnter (s : State) (st a : Nat) :
    (s.gtuEnter st).reg a =
      if a = R.GTU_HOLD ∧ st ≠ Gtu.HOLDOVER ∧ st ≠ Gtu.SLEW then
        setBits (s.reg R.GTU_HOLD) F.GTU_HOLD_ERR_EST.hi F.GTU_HOLD_ERR_EST.lo 0
      else if a = R.GTU_SLEW ∧ st ≠ Gtu.SLEW then 0
      else if a = R.GTU_STAT then setBits (s.reg R.GTU_STAT) F.GTU_STAT_STATE.hi F.GTU_STAT_STATE.lo st
      else s.reg a := by
  unfold State.gtuEnter
  extract_lets s1 s2 s3
  have h1 : ∀ b, s1.reg b = if b = R.GTU_STAT then setBits (s.reg R.GTU_STAT) F.GTU_STAT_STATE.hi F.GTU_STAT_STATE.lo st else s.reg b :=
    fun b => reg_wf _ _ _ _
  have h2 : ∀ b, s2.reg b = if b = R.GTU_SLEW ∧ st ≠ Gtu.SLEW then 0 else s1.reg b := by
    intro b
    simp only [s2]
    split
    · rename_i e; simp [e]
    · rename_i e; rw [reg_setRegN]; simp [e]
  have h3 : ∀ b, s3.reg b = if b = R.GTU_HOLD ∧ st ≠ Gtu.HOLDOVER ∧ st ≠ Gtu.SLEW then
      setBits (s2.reg R.GTU_HOLD) F.GTU_HOLD_ERR_EST.hi F.GTU_HOLD_ERR_EST.lo 0 else s2.reg b := by
    intro b
    simp only [s3]
    split
    · rename_i e
      rw [if_neg]
      rintro ⟨_, x, y⟩
      cases e with
      | inl e => exact x e
      | inr e => exact y e
    · rename_i e
      rw [not_or] at e
      rw [reg_wf]
      simp only [e.1, e.2, ne_eq, not_false_eq_true, and_true]
      rfl
  show s3.reg a = _
  have h4 : s2.reg R.GTU_HOLD = s.reg R.GTU_HOLD := by
    rw [h2, if_neg (by rintro ⟨e, _⟩; revert e; decide), h1, if_neg (by decide)]
  rw [h3, h4, h2, h1]

theorem gtuEnter_state (s : State) (st : Nat) (h : st < 8) : (s.gtuEnter st).gtuState = st := by
  unfold State.gtuState State.rf
  rw [reg_gtuEnter, if_neg (by rintro ⟨e, _⟩; revert e; decide), if_neg (by rintro ⟨e, _⟩; revert e; decide), if_pos (by decide),
    bits_setBits _ _ _ _ (by decide) (by decide)]
  exact Nat.mod_eq_of_lt h

end Sys2Proof.Machine
end

