-- ==== Sys2Proof/Laws/Keeps.lean ====
section
/-! SUPPORT. `Keeps o s` for the places where the state changes at first hand: a register, a byte, the
subscription FIFO, the held denials, and any change of the other fields. -/

set_option Elab.async false

namespace Sys2Proof.Machine

/-- The fields that the invariant, the queue and the free values depend on. -/
def State.kept (s : State) :
    Sparse Word × List Host.Cell × List Host.Cell × Sparse Nat × List SubEntry × List (Nat × Nat) × List Instr × Nat :=
  (s.regs, s.mem, s.flash, s.ecc, s.evr.fifo, s.acc.held, s.pending, s.freeCtr)

theorem Keeps.refl (s : State) : Keeps s s := ⟨id, rfl, Nat.le_refl _⟩

theorem Keeps.trans {o s t : State} (h : Keeps o s) (g : Keeps s t) : Keeps o t :=
  ⟨g.1 ∘ h.1, g.2.1.trans h.2.1, Nat.le_trans h.2.2 g.2.2⟩

/-- A change of the other fields alone. -/
theorem Keeps.upd {o s t : State} (h : Keeps o s) (e : t.kept = s.kept) : Keeps o t := by
  simp only [State.kept, Prod.mk.injEq] at e
  obtain ⟨h1, h2, h3, h4, h5, h6, h7, h8⟩ := e
  refine h.trans ⟨?_, h7, h8 ▸ Nat.le_refl _⟩
  rintro ⟨⟨a, b, c, d⟩, e, f⟩
  exact ⟨⟨h1 ▸ a, h2 ▸ b, h3 ▸ c, h4 ▸ d⟩, h5 ▸ e, h6 ▸ f⟩

theorem Keeps.ite {o a b : State} {c : Prop} [Decidable c] (ha : Keeps o a) (hb : Keeps o b) :
    Keeps o (if c then a else b) := by
  split
  · exact ha
  · exact hb

theorem Keeps.foldl {β : Type} {o : State} {f : State → β → State} (hf : ∀ {t : State} {x : β}, Keeps o t → Keeps o (f t x)) :
    ∀ {l : List β} {s : State}, Keeps o s → Keeps o (l.foldl f s)
  | [], _, h => h
  | _ :: l, _, h => Keeps.foldl hf (l := l) (hf h)

/-- A register is stored. -/
theorem Keeps.setReg {o s : State} {a : Nat} {v : Word} (h : Keeps o s) : Keeps o (s.setReg a v) :=
  h.trans ⟨fun i => ⟨⟨Sparse.wf_put _ _ _ _ i.1.1, i.1.2⟩, i.2⟩, rfl, Nat.le_refl _⟩

/-- A byte is stored. -/
theorem Keeps.setByte {o s : State} {a : Nat} {b : Byte} (h : Keeps o s) : Keeps o (s.setByte a b) :=
  h.trans ⟨fun i => ⟨⟨i.1.1, Sparse.wf_put _ _ _ _ i.1.2.1, i.1.2.2⟩, i.2⟩, rfl, Nat.le_refl _⟩

/-- An error code is set. -/
theorem Keeps.setEcc {o s : State} {a c : Nat} (h : Keeps o s) : Keeps o (s.setEcc a c) :=
  h.trans ⟨fun i => ⟨⟨i.1.1, i.1.2.1, i.1.2.2.1, Sparse.wf_put _ _ _ _ i.1.2.2.2⟩, i.2⟩, rfl, Nat.le_refl _⟩

/-- Error codes are cleared. -/
theorem Keeps.eccClean {o s : State} {a n : Nat} (h : Keeps o s) : Keeps o (s.eccClean a n) :=
  h.trans ⟨fun i => ⟨⟨i.1.1, i.1.2.1, i.1.2.2.1, Sparse.wf_drop _ _ _ i.1.2.2.2⟩, i.2⟩, rfl, Nat.le_refl _⟩

/-- A byte of the flash is stored. -/
theorem Keeps.setFlash {o s : State} {a : Nat} {b : Byte} (h : Keeps o s) : Keeps o (s.setFlash a b) :=
  h.trans ⟨fun i => ⟨⟨i.1.1, i.1.2.1, Sparse.wf_put _ _ _ _ i.1.2.2.1, i.1.2.2.2⟩, i.2⟩, rfl, Nat.le_refl _⟩

/-- A range of the flash is erased. -/
theorem Keeps.flashErase {o s : State} {a n : Nat} (h : Keeps o s) : Keeps o (s.flashErase a n) :=
  h.trans ⟨fun i => ⟨⟨i.1.1, i.1.2.1, Sparse.wf_drop _ (fun k => decide (a ≤ k ∧ k < a + n)) _ i.1.2.2.1, i.1.2.2.2⟩, i.2⟩, rfl, Nat.le_refl _⟩

/-- A free value is used. -/
theorem Keeps.used {o s : State} (h : Keeps o s) : Keeps o s.used :=
  h.trans ⟨id, rfl, Nat.le_succ _⟩

/-! The fields that nothing of this depends on, one by one. -/

theorem Keeps.in_out {o s : State} {x : List Out} (h : Keeps o s) : Keeps o { s with out := x } := h.trans ⟨id, rfl, Nat.le_refl _⟩
theorem Keeps.in_gtu {o s : State} {x : GtuSt} (h : Keeps o s) : Keeps o { s with gtu := x } := h.trans ⟨id, rfl, Nat.le_refl _⟩
theorem Keeps.in_rfc {o s : State} {x : Per4 RfcSt} (h : Keeps o s) : Keeps o { s with rfc := x } := h.trans ⟨id, rfl, Nat.le_refl _⟩
theorem Keeps.in_mdm {o s : State} {x : Per4 MdmSt} (h : Keeps o s) : Keeps o { s with mdm := x } := h.trans ⟨id, rfl, Nat.le_refl _⟩
theorem Keeps.in_mpdus {o s : State} {x : List Mpdu} (h : Keeps o s) : Keeps o { s with mpdus := x } := h.trans ⟨id, rfl, Nat.le_refl _⟩
theorem Keeps.in_rxmpdus {o s : State} {x : List RxMpdu} (h : Keeps o s) : Keeps o { s with rxmpdus := x } := h.trans ⟨id, rfl, Nat.le_refl _⟩
theorem Keeps.in_mpduNum {o s : State} {x : Nat} (h : Keeps o s) : Keeps o { s with mpduNum := x } := h.trans ⟨id, rfl, Nat.le_refl _⟩
theorem Keeps.in_wlan {o s : State} {x : WlanSt} (h : Keeps o s) : Keeps o { s with wlan := x } := h.trans ⟨id, rfl, Nat.le_refl _⟩
theorem Keeps.in_pkt {o s : State} {x : PktSt} (h : Keeps o s) : Keeps o { s with pkt := x } := h.trans ⟨id, rfl, Nat.le_refl _⟩
theorem Keeps.in_stp {o s : State} {x : StpSt} (h : Keeps o s) : Keeps o { s with stp := x } := h.trans ⟨id, rfl, Nat.le_refl _⟩
theorem Keeps.in_fld {o s : State} {x : FieldSt} (h : Keeps o s) : Keeps o { s with fld := x } := h.trans ⟨id, rfl, Nat.le_refl _⟩
theorem Keeps.in_ppe {o s : State} {x : PpeSt} (h : Keeps o s) : Keeps o { s with ppe := x } := h.trans ⟨id, rfl, Nat.le_refl _⟩
theorem Keeps.in_eth {o s : State} {x : EthSt} (h : Keeps o s) : Keeps o { s with eth := x } := h.trans ⟨id, rfl, Nat.le_refl _⟩
theorem Keeps.in_dma {o s : State} {x : DmaSt} (h : Keeps o s) : Keeps o { s with dma := x } := h.trans ⟨id, rfl, Nat.le_refl _⟩
theorem Keeps.in_cry {o s : State} {x : CrySt} (h : Keeps o s) : Keeps o { s with cry := x } := h.trans ⟨id, rfl, Nat.le_refl _⟩
theorem Keeps.in_pke {o s : State} {x : PkeSt} (h : Keeps o s) : Keeps o { s with pke := x } := h.trans ⟨id, rfl, Nat.le_refl _⟩
theorem Keeps.in_drc {o s : State} {x : DrcSt} (h : Keeps o s) : Keeps o { s with drc := x } := h.trans ⟨id, rfl, Nat.le_refl _⟩
theorem Keeps.in_ode {o s : State} {x : OdeSt} (h : Keeps o s) : Keeps o { s with ode := x } := h.trans ⟨id, rfl, Nat.le_refl _⟩
theorem Keeps.in_can0 {o s : State} {x : CanSt} (h : Keeps o s) : Keeps o { s with can0 := x } := h.trans ⟨id, rfl, Nat.le_refl _⟩
theorem Keeps.in_can1 {o s : State} {x : CanSt} (h : Keeps o s) : Keeps o { s with can1 := x } := h.trans ⟨id, rfl, Nat.le_refl _⟩
theorem Keeps.in_lum {o s : State} {x : LumSt} (h : Keeps o s) : Keeps o { s with lum := x } := h.trans ⟨id, rfl, Nat.le_refl _⟩
theorem Keeps.in_xspi {o s : State} {x : XspiSt} (h : Keeps o s) : Keeps o { s with xspi := x } := h.trans ⟨id, rfl, Nat.le_refl _⟩
theorem Keeps.in_sys {o s : State} {x : SysSt} (h : Keeps o s) : Keeps o { s with sys := x } := h.trans ⟨id, rfl, Nat.le_refl _⟩
theorem Keeps.in_pulses {o s : State} {x : Sparse Nat} (h : Keeps o s) : Keeps o { s with evr := { s.evr with pulses := x } } :=
  h.trans ⟨id, rfl, Nat.le_refl _⟩
theorem Keeps.in_ovf {o s : State} {x : Bool} (h : Keeps o s) : Keeps o { s with acc := { s.acc with ovf := x } } :=
  h.trans ⟨id, rfl, Nat.le_refl _⟩

theorem length_coalesce (n : Nat) : ∀ l : List SubEntry, (coalesce n l).length = l.length
  | [] => rfl
  | e :: es => by
    simp only [coalesce]
    split
    · rfl
    · simp [length_coalesce n es]

/-! Conditions, dependent conditions, folds, and results that hold a state beside other things. -/

theorem Keeps.dite {o : State} {c : Prop} [Decidable c] {a : c → State} {b : ¬c → State} (ha : ∀ h, Keeps o (a h))
    (hb : ∀ h, Keeps o (b h)) : Keeps o (dite c a b) := by
  split
  · exact ha _
  · exact hb _

theorem Keeps.foldlP {α β : Type} {o : State} {f : State × α → β → State × α}
    (hf : ∀ {t : State × α} {x : β}, Keeps o t.1 → Keeps o (f t x).1) :
    ∀ {l : List β} {s : State × α}, Keeps o s.1 → Keeps o (l.foldl f s).1
  | [], _, h => h
  | _ :: l, _, h => Keeps.foldlP hf (l := l) (hf h)

theorem Keeps.fst {o s : State} {α : Type} {p : State × α} {y : α} (h : Keeps o p.1) (e : p = (s, y)) : Keeps o s := by
  subst e; exact h

/-- The state that an optional answer holds. -/
def KeepsOpt (o : State) (x : Option State) : Prop := ∀ t, x = some t → Keeps o t
/-- The state that an optional pair holds. -/
def KeepsOpt1 {α : Type} (o : State) (x : Option (State × α)) : Prop := ∀ t, x = some t → Keeps o t.1
/-- The state that an outcome holds. -/
def KeepsOut (o : State) (x : Host.Outcome State Fault Refusal) : Prop := ∀ t, x = .next t → Keeps o t

theorem KeepsOpt.none {o : State} : KeepsOpt o .none := by intro t h; cases h
theorem KeepsOpt.some {o s : State} (h : Keeps o s) : KeepsOpt o (.some s) := by intro t e; cases e; exact h
theorem KeepsOpt1.none {α : Type} {o : State} : KeepsOpt1 (α := α) o .none := by intro t h; cases h
theorem KeepsOpt1.some {α : Type} {o : State} {s : State × α} (h : Keeps o s.1) : KeepsOpt1 o (.some s) := by
  intro t e; cases e; exact h
theorem KeepsOut.next {o s : State} (h : Keeps o s) : KeepsOut o (.next s) := by intro t e; cases e; exact h

theorem KeepsOpt.ite {o : State} {a b : Option State} {c : Prop} [Decidable c] (ha : KeepsOpt o a) (hb : KeepsOpt o b) :
    KeepsOpt o (if c then a else b) := by
  split
  · exact ha
  · exact hb
theorem KeepsOpt1.ite {α : Type} {o : State} {a b : Option (State × α)} {c : Prop} [Decidable c] (ha : KeepsOpt1 o a)
    (hb : KeepsOpt1 o b) : KeepsOpt1 o (if c then a else b) := by
  split
  · exact ha
  · exact hb
theorem KeepsOut.ite {o : State} {a b : Host.Outcome State Fault Refusal} {c : Prop} [Decidable c] (ha : KeepsOut o a)
    (hb : KeepsOut o b) : KeepsOut o (if c then a else b) := by
  split
  · exact ha
  · exact hb
theorem Keeps.iteP {α : Type} {o : State} {a b : State × α} {c : Prop} [Decidable c] (ha : Keeps o a.1) (hb : Keeps o b.1) :
    Keeps o (if c then a else b).1 := by
  split
  · exact ha
  · exact hb

end Sys2Proof.Machine
end

