-- ==== Sys2Proof/Laws/Keeps1.lean ====
section
/-! SUPPORT. What every operation keeps (`Keeps`), one lemma for each: RegFile, Ops, RegWrite, Gtu, Mem, MdmBase, Rfc. -/

set_option Elab.async false

namespace Sys2Proof.Machine

/-! RegFile -/

theorem Keeps.wf {o x0 : State} {x1 : Fld} {x2 : Nat} (hx0 : Keeps o x0) : Keeps o (State.wf x0 x1 x2) :=
  .setReg hx0

theorem Keeps.setRegN {o x0 : State} {x1 : Nat} {x2 : Nat} (hx0 : Keeps o x0) : Keeps o (State.setRegN x0 x1 x2) :=
  .setReg hx0

theorem Keeps.setReg64 {o x0 : State} {x1 : Nat} {x2 : Nat} {x3 : Nat} (hx0 : Keeps o x0) : Keeps o (State.setReg64 x0 x1 x2 x3) :=
  .setRegN (.setRegN hx0)

theorem Keeps.wb {o x0 : State} {x1 : Fld} {x2 : Bool} (hx0 : Keeps o x0) : Keeps o (State.wb x0 x1 x2) :=
  .wf hx0

/-! Ops -/

theorem Keeps.bumpTo {o x0 : State} {x1 : Nat} {x2 : Nat} (hx0 : Keeps o x0) : Keeps o (State.bumpTo x0 x1 x2) :=
  .ite (.setRegN hx0) hx0

theorem Keeps.bump {o x0 : State} {x1 : Nat} (hx0 : Keeps o x0) : Keeps o (State.bump x0 x1) :=
  .bumpTo hx0

theorem Keeps.owePulse {o x0 : State} {x1 : Nat} (hx0 : Keeps o x0) : Keeps o (State.owePulse x0 x1) :=
  .ite (.in_pulses hx0) hx0

theorem Keeps.pend {o x0 : State} {x1 : Nat} {x2 : Nat} (hx0 : Keeps o x0) : Keeps o (State.pend x0 x1 x2) :=
  .setReg hx0

theorem Keeps.pendAll {o x0 : State} {x1 : Nat} {x2 : List Nat} (hx0 : Keeps o x0) : Keeps o (State.pendAll x0 x1 x2) := by
  induction x2 generalizing x0 x1 with
  | nil =>
    exact hx0
  | cons y l ih =>
    rw [State.pendAll]
    exact ih (.ite (.owePulse (.pend hx0)) hx0)

theorem Keeps.countEvent {o x0 : State} {x1 : Nat} (hx0 : Keeps o x0) : Keeps o (State.countEvent x0 x1) :=
  .wf hx0

theorem Keeps.raisePins {o x0 : State} {x1 : Nat} (hx0 : Keeps o x0) : Keeps o (State.raisePins x0 x1) :=
  .pendAll (.countEvent hx0)

theorem Keeps.subscribe {o x0 : State} {x1 : Nat} (hx0 : Keeps o x0) : Keeps o (State.subscribe x0 x1) := by
  unfold State.subscribe
  refine .ite ?_ ?_
  · refine hx0.trans ⟨fun i => ⟨i.1, ?_, i.2.2⟩, rfl, Nat.le_refl _⟩
    show (coalesce x1 x0.evr.fifo).length ≤ 64
    rw [length_coalesce]
    exact i.2.1
  · split
    · rename_i hl
      refine hx0.trans ⟨fun i => ⟨i.1, ?_, i.2.2⟩, rfl, Nat.le_refl _⟩
      show (x0.evr.fifo ++ [_]).length ≤ 64
      simp only [List.length_append, List.length_cons, List.length_nil]
      omega
    · exact .raisePins (.wf hx0)

theorem Keeps.raise {o x0 : State} {x1 : Nat} (hx0 : Keeps o x0) : Keeps o (State.raise x0 x1) :=
  .ite (.subscribe (.raisePins hx0)) (.raisePins hx0)

theorem Keeps.syncState {o x0 : State} {x1 : Nat} {x2 : Fld} (hx0 : Keeps o x0) : Keeps o (State.syncState x0 x1 x2) :=
  .ite (.ite (.wf hx0) hx0) (.ite hx0 (.wf hx0))

theorem Keeps.syncStates {o x0 : State} (hx0 : Keeps o x0) : Keeps o (State.syncStates x0) := by
  unfold State.syncStates
  extract_lets -merge +onlyGivenNames t0 t2 t4 t5
  have h1 : Keeps o (t0) := .syncState (.syncState (.syncState hx0))
  have h3 : Keeps o (t2) := .syncState h1
  have h6 : Keeps o (t5) := .syncState h3
  clear_value t0 t2 t4 t5
  exact .ite h6 (.raise h6)

theorem Keeps.readyEvents {o x0 : State} {x1 : Nat} {x2 : Nat} {x3 : Nat} (hx0 : Keeps o x0) : Keeps o (State.readyEvents x0 x1 x2 x3) := by
  induction x3 generalizing x0 x1 x2 with
  | zero =>
    exact hx0
  | succ n ih =>
    rw [State.readyEvents]
    exact .ite (.raise (ih hx0)) (ih hx0)

theorem Keeps.setSteps {o x0 : State} {x1 : Nat} (hx0 : Keeps o x0) : Keeps o (State.setSteps x0 x1) := by
  unfold State.setSteps
  extract_lets -merge +onlyGivenNames t0 t1
  have h2 : Keeps o (t1) := .syncStates (.setRegN hx0)
  clear_value t0 t1
  exact .ite (.readyEvents h2) h2

theorem Keeps.setSys {o x0 : State} {x1 : SysSt → SysSt} (hx0 : Keeps o x0) : Keeps o (State.setSys x0 x1) :=
  .in_sys hx0

theorem Keeps.emit {o x0 : State} {x1 : Out} (hx0 : Keeps o x0) : Keeps o (State.emit x0 x1) :=
  .in_out hx0

theorem Keeps.busErr {o x0 : State} {x1 : Init} {x2 : Nat} (hx0 : Keeps o x0) : Keeps o (State.busErr x0 x1 x2) :=
  .emit hx0

theorem Keeps.deny {o x0 : State} {x1 : Init} {x2 : Nat} (hx0 : Keeps o x0) : Keeps o (State.deny x0 x1 x2) := by
  unfold State.deny
  refine .emit (.raise ?_)
  split
  · rename_i hl
    refine hx0.trans ⟨fun i => ⟨i.1, i.2.1, ?_⟩, rfl, Nat.le_refl _⟩
    show (x0.acc.held ++ [_]).length ≤ 16
    simp only [List.length_append, List.length_cons, List.length_nil]
    omega
  · exact .in_ovf hx0

theorem Keeps.onRead {o x0 : State} {x1 : Init} {x2 : Nat} {x3 : State → State} (hx0 : Keeps o x0) (hx3 : ∀ {y0}, Keeps o y0 → Keeps o (x3 y0)) : Keeps o (State.onRead x0 x1 x2 x3) :=
  .ite (.ite (.busErr hx0) (hx3 hx0)) (.deny hx0)

theorem Keeps.answer {o x0 : State} {x1 : Init} {x2 : Word} (hx0 : Keeps o x0) : Keeps o (State.answer x0 x1 x2) :=
  .emit hx0

theorem Keeps.errSet {o x0 : State} {x1 : Nat} {x2 : Nat} (hx0 : Keeps o x0) : Keeps o (State.errSet x0 x1 x2) :=
  .setRegN hx0

theorem Keeps.refuse {o x0 : State} {x1 : Nat} {x2 : Nat} {x3 : Nat} (hx0 : Keeps o x0) : Keeps o (State.refuse x0 x1 x2 x3) :=
  .raise (.errSet hx0)

theorem Keeps.onWrite {o x0 : State} {x1 : Init} {x2 : Nat} {x3 : State → State} (hx0 : Keeps o x0) (hx3 : ∀ {y0}, Keeps o y0 → Keeps o (x3 y0)) : Keeps o (State.onWrite x0 x1 x2 x3) :=
  .ite (.ite (.busErr hx0) (.ite (.refuse hx0) (hx3 hx0))) (.deny hx0)

theorem Keeps.raiseAll {o x0 : State} {x1 : List Nat} (hx0 : Keeps o x0) : Keeps o (State.raiseAll x0 x1) := by
  induction x1 generalizing x0 with
  | nil =>
    exact hx0
  | cons y l ih =>
    rw [State.raiseAll]
    exact ih (.raise hx0)

theorem Keeps.okSet {o x0 : State} {x1 : Nat} {x2 : Nat} (hx0 : Keeps o x0) : Keeps o (State.okSet x0 x1 x2) :=
  .setReg hx0

theorem Keeps.setStep {o x0 : State} {x1 : Nat} {x2 : Bool} (hx0 : Keeps o x0) : Keeps o (State.setStep x0 x1 x2) :=
  .setSteps hx0

theorem Keeps.bumpBy {o x0 : State} {x1 : Nat} {x2 : Nat} (hx0 : Keeps o x0) : Keeps o (State.bumpBy x0 x1 x2) :=
  .setRegN hx0

theorem Keeps.limit {o x0 : State} {x1 : Nat} {x2 : Bool} (hx0 : Keeps o x0) : Keeps o (State.limit x0 x1 x2) :=
  .setSys hx0

/-! RegWrite -/

theorem Keeps.refuseWrite {o x0 : State} {x1 : Nat} {x2 : Nat} {x3 : Nat} (hx0 : Keeps o x0) : Keeps o (State.refuseWrite x0 x1 x2 x3) := by
  unfold State.refuseWrite
  extract_lets -merge +onlyGivenNames t0
  clear_value t0
  exact .raise (.ite (.wf hx0) (.ite hx0 (.errSet hx0)))

theorem Keeps.fieldWrite {o x0 : State} {x1 : Nat} {x2 : Window} {x3 : RegRow} {x4 : Nat} {x5 : Word} (hx0 : Keeps o x0) : Keeps o (State.fieldWrite x0 x1 x2 x3 x4 x5) := by
  unfold State.fieldWrite
  extract_lets -merge +onlyGivenNames t0 t1 t2
  clear_value t0 t1 t2
  exact .ite (.refuseWrite hx0) (.ite (.refuseWrite hx0) (.ite (.refuseWrite hx0) (.setReg hx0)))

theorem Keeps.writeReg {o x0 : State} {x1 : Nat} {x2 : Nat} {x3 : Word} (hx0 : Keeps o x0) : Keeps o (State.writeReg x0 x1 x2 x3) := by
  unfold State.writeReg
  split
  · exact hx0
  · split
    · exact hx0
    · exact .fieldWrite hx0

/-! Gtu -/

theorem Keeps.gtuNowRead {o : State} {x0 : Init} {x1 : State} (hx1 : Keeps o x1) : Keeps o (State.gtuNowRead x0 x1) :=
  .answer (.in_gtu hx1)

theorem Keeps.xlastRead {o : State} {x0 : Init} {x1 : State} (hx1 : Keeps o x1) : Keeps o (State.xlastRead x0 x1) :=
  .answer (.setReg hx1)

theorem Keeps.gtuEnd {o x0 : State} {x1 : List Nat} (hx0 : Keeps o x0) : Keeps o (State.gtuEnd x0 x1) := by
  unfold State.gtuEnd
  extract_lets -merge +onlyGivenNames t0 t1 t2 t4 t5
  have h3 : Keeps o (t2) := .wb hx0
  clear_value t0 t1 t2 t4 t5
  exact .raiseAll (.wf h3)

theorem Keeps.setInc {o x0 : State} {x1 : Nat} (hx0 : Keeps o x0) : Keeps o (State.setInc x0 x1) := by
  unfold State.setInc
  extract_lets -merge +onlyGivenNames t0
  have h1 : Keeps o (t0) := .setRegN hx0
  clear_value t0
  exact .setRegN h1

theorem Keeps.gtuCtrlWrite {o : State} {x0 : Nat} {x1 : Word} {x2 : State} (hx2 : Keeps o x2) : Keeps o (State.gtuCtrlWrite x0 x1 x2) := by
  unfold State.gtuCtrlWrite
  extract_lets -merge +onlyGivenNames t0 t1
  have h2 : Keeps o (t1) := .writeReg hx2
  clear_value t0 t1
  exact .ite (.gtuEnd (.setInc h2)) h2

theorem Keeps.setOfs {o x0 : State} {x1 : Int} (hx0 : Keeps o x0) : Keeps o (State.setOfs x0 x1) := by
  unfold State.setOfs
  extract_lets -merge +onlyGivenNames t0 t1 t3
  have h2 : Keeps o (t1) := .setRegN hx0
  have h4 : Keeps o (t3) := .wf (.wf h2)
  clear_value t0 t1 t3
  exact .in_gtu h4

theorem Keeps.gtuOk {o x0 : State} (hx0 : Keeps o x0) : Keeps o (State.gtuOk x0) :=
  .okSet hx0

theorem Keeps.gcAbort {o x0 : State} {x1 : List Nat} (hx0 : Keeps o x0) : Keeps o (State.gcAbort x0 x1) := by
  induction x1 generalizing x0 with
  | nil =>
    exact hx0
  | cons y l ih =>
    rw [State.gcAbort]
    exact ih (.ite (.wf (.wf (.wf hx0))) hx0)

theorem Keeps.gtuEnter {o x0 : State} {x1 : Nat} (hx0 : Keeps o x0) : Keeps o (State.gtuEnter x0 x1) := by
  unfold State.gtuEnter
  extract_lets -merge +onlyGivenNames t0 t2 t4
  have h1 : Keeps o (t0) := .wf hx0
  have h3 : Keeps o (t2) := .ite h1 (.setRegN h1)
  have h5 : Keeps o (t4) := .ite h3 (.wf h3)
  clear_value t0 t2 t4
  exact .in_gtu h5

theorem Keeps.enterHoldover {o x0 : State} {x1 : Bool} (hx0 : Keeps o x0) : Keeps o (State.enterHoldover x0 x1) := by
  unfold State.enterHoldover
  extract_lets -merge +onlyGivenNames t0
  have h1 : Keeps o (t0) := .gtuEnter hx0
  clear_value t0
  exact .in_gtu h1

theorem Keeps.alignStep {o x0 : State} {x1 : Int} {x2 : Bool} (hx0 : Keeps o x0) : Keeps o (State.alignStep x0 x1 x2) := by
  unfold State.alignStep
  extract_lets -merge +onlyGivenNames t0 t1 t3 d4 t5 t7 d9 t10 t12
  have h2 : Keeps o (t1) := .gcAbort hx0
  have h6 : Keeps o (t5) := .in_gtu h2
  have h8 : Keeps o (t7) := .setOfs h6
  have h11 : Keeps o (t10) := .in_gtu h8
  clear_value t0 t1 t3 t5 t7 t10 t12
  refine .ite ?_ ?_
  · exact .gtuEnd (.gtuEnter h11)
  · extract_lets -merge +onlyGivenNames t13
    have h14 : Keeps o (t13) := .enterHoldover h11
    clear_value t13
    exact .gtuEnd (.wf h14)

theorem Keeps.gtuReject {o x0 : State} (hx0 : Keeps o x0) : Keeps o (State.gtuReject x0) :=
  .refuse hx0

theorem Keeps.gtuSeed {o x0 : State} (hx0 : Keeps o x0) : Keeps o (State.gtuSeed x0) :=
  .ite (.gtuOk (.alignStep hx0)) (.gtuReject hx0)

theorem Keeps.gtuRelearn {o x0 : State} (hx0 : Keeps o x0) : Keeps o (State.gtuRelearn x0) :=
  .ite (.gtuOk (.in_gtu hx0)) (.gtuReject hx0)

theorem Keeps.gtuHold {o x0 : State} (hx0 : Keeps o x0) : Keeps o (State.gtuHold x0) := by
  unfold State.gtuHold
  refine .ite ?_ ?_
  · extract_lets -merge +onlyGivenNames t0
    have h1 : Keeps o (t0) := .enterHoldover hx0
    clear_value t0
    exact .gtuOk (.gtuEnd (.wf h1))
  · exact .gtuReject hx0

theorem Keeps.setSlew {o x0 : State} {x1 : Int} (hx0 : Keeps o x0) : Keeps o (State.setSlew x0 x1) :=
  .wf (.setRegN hx0)

theorem Keeps.mainsReturn {o x0 : State} (hx0 : Keeps o x0) : Keeps o (State.mainsReturn x0) := by
  unfold State.mainsReturn
  extract_lets -merge +onlyGivenNames t0 d1 t2
  have h3 : Keeps o (t2) := .in_gtu hx0
  clear_value t0 t2
  refine .ite ?_ ?_
  · extract_lets -merge +onlyGivenNames t4 t5
    have h6 : Keeps o (t5) := .gtuEnter (.setOfs h3)
    clear_value t4 t5
    exact .gtuEnd h6
  · extract_lets -merge +onlyGivenNames t7
    have h8 : Keeps o (t7) := .setSlew (.gtuEnter h3)
    clear_value t7
    exact .ite (.gtuEnd (.gtuEnter h8)) (.gtuEnd h8)

theorem Keeps.gtuResume {o x0 : State} (hx0 : Keeps o x0) : Keeps o (State.gtuResume x0) :=
  .ite (.ite (.gtuOk (.mainsReturn hx0)) (.gtuOk (.in_gtu hx0))) (.gtuReject hx0)

theorem Keeps.gtuFree {o x0 : State} (hx0 : Keeps o x0) : Keeps o (State.gtuFree x0) := by
  unfold State.gtuFree
  refine .ite ?_ ?_
  · exact .gtuOk hx0
  · extract_lets -merge +onlyGivenNames t0
    clear_value t0
    exact .gtuOk (.gtuEnd (.gtuEnter (.gcAbort hx0)))

theorem Keeps.gtuCmd {o x0 : State} {x1 : Nat} (hx0 : Keeps o x0) : Keeps o (State.gtuCmd x0 x1) :=
  .ite (.gtuSeed hx0) (.ite (.gtuRelearn hx0) (.ite (.gtuHold hx0) (.ite (.gtuResume hx0) (.ite (.gtuFree hx0) (.refuse hx0)))))

theorem Keeps.pmapCommit {o x0 : State} (hx0 : Keeps o x0) : Keeps o (State.pmapCommit x0) := by
  simp only [State.pmapCommit]
  refine .ite ?_ ?_
  · exact .gtuEnd (.wf (.in_gtu (.used (.setInc (.setRegN (.wf (by
      split
      · exact .in_gtu hx0
      · exact .in_gtu (.ite (.setRegN (.in_gtu hx0)) (.in_gtu hx0)))))))))
  · exact .gtuEnd (.setRegN (.wf (by
      split
      · exact .in_gtu hx0
      · exact .in_gtu (.ite (.setRegN (.in_gtu hx0)) (.in_gtu hx0)))))

theorem Keeps.loopInc {o x0 : State} (hx0 : Keeps o x0) : Keeps o (State.loopInc x0) := by
  unfold State.loopInc
  refine .ite ?_ ?_
  · extract_lets -merge +onlyGivenNames t0
    clear_value t0
    exact .used (.setInc hx0)
  · exact hx0

theorem Keeps.crossingMark {o x0 : State} {x1 : Nat} (hx0 : Keeps o x0) : Keeps o (State.crossingMark x0 x1) := by
  unfold State.crossingMark
  extract_lets -merge +onlyGivenNames t0 t1 t2 t4
  have h3 : Keeps o (t2) := .setRegN hx0
  have h5 : Keeps o (t4) := .wf (.wf h3)
  clear_value t0 t1 t2 t4
  exact .in_gtu h5

theorem Keeps.countSample {o x0 : State} (hx0 : Keeps o x0) : Keeps o (State.countSample x0) :=
  .ite (.used (.setRegN hx0)) (.setRegN hx0)

theorem Keeps.learn {o x0 : State} {x1 : Int} (hx0 : Keeps o x0) : Keeps o (State.learn x0 x1) := by
  unfold State.learn
  extract_lets -merge +onlyGivenNames t0 d1 t2
  have h3 : Keeps o (t2) := .in_gtu hx0
  clear_value t0 t2
  refine .ite ?_ ?_
  · exact .gtuEnd h3
  · refine .ite ?_ ?_
    · exact .gtuEnd (.in_gtu h3)
    · extract_lets -merge +onlyGivenNames t4
      clear_value t4
      refine .ite ?_ ?_
      · extract_lets -merge +onlyGivenNames d5 t6 t8
        have h7 : Keeps o (t6) := .in_gtu h3
        have h9 : Keeps o (t8) := .gtuEnter (.setOfs h7)
        clear_value t6 t8
        exact .gtuEnd (.setSlew h9)
      · exact .alignStep h3

theorem Keeps.track {o x0 : State} {x1 : Int} (hx0 : Keeps o x0) : Keeps o (State.track x0 x1) := by
  unfold State.track
  refine .ite ?_ ?_
  · extract_lets -merge +onlyGivenNames d0 t1 t3 t4
    have h2 : Keeps o (t1) := .in_gtu hx0
    clear_value t1 t3 t4
    refine .ite ?_ ?_
    · exact .gtuEnd h2
    · extract_lets -merge +onlyGivenNames t5
      have h6 : Keeps o (t5) := .setOfs h2
      clear_value t5
      exact .gtuEnd h6
  · extract_lets -merge +onlyGivenNames t7
    clear_value t7
    refine .ite ?_ ?_
    · exact .gtuEnd (.in_gtu hx0)
    · extract_lets -merge +onlyGivenNames d8 t9
      have h10 : Keeps o (t9) := .in_gtu hx0
      clear_value t9
      refine .ite ?_ ?_
      · extract_lets -merge +onlyGivenNames t11 t12
        have h13 : Keeps o (t12) := .gtuEnter (.setOfs h10)
        clear_value t11 t12
        exact .gtuEnd (.setSlew h13)
      · exact .gtuEnd h10

theorem Keeps.memberSample {o x0 : State} {x1 : Int} (hx0 : Keeps o x0) : Keeps o (State.memberSample x0 x1) := by
  unfold State.memberSample
  extract_lets -merge +onlyGivenNames d0 t1 t3
  have h2 : Keeps o (t1) := .in_gtu hx0
  refine .ite ?_ ?_
  · exact .learn h2
  · refine .ite ?_ ?_
    · exact .track h2
    · refine .ite ?_ ?_
      · extract_lets -merge +onlyGivenNames t4 t5
        have h6 : Keeps o (t5) := .used (.setInc h2)
        exact .gtuEnd (.wf h6)
      · exact .gtuEnd h2

theorem Keeps.beaconSample {o x0 : State} {x1 : Nat} {x2 : GTime} {x3 : GTime} (hx0 : Keeps o x0) : Keeps o (State.beaconSample x0 x1 x2 x3) := by
  unfold State.beaconSample
  refine .ite ?_ ?_
  · exact hx0
  · extract_lets -merge +onlyGivenNames t0 t1 t2 t4
    have h3 : Keeps o (t2) := .countSample (.setRegN hx0)
    have h5 : Keeps o (t4) := .wf h3
    clear_value t0 t1 t2 t4
    exact .ite (.memberSample h5) h5

theorem Keeps.missCrossing {o x0 : State} (hx0 : Keeps o x0) : Keeps o (State.missCrossing x0) := by
  unfold State.missCrossing
  extract_lets -merge +onlyGivenNames t0
  have h1 : Keeps o (t0) := .wf (.wf hx0)
  clear_value t0
  exact .in_gtu h1

theorem Keeps.execReplicaBroadcast {o x0 : State} (hx0 : Keeps o x0) : KeepsOut o (execReplicaBroadcast x0) := by
  unfold Sys2Proof.Machine.execReplicaBroadcast
  exact .next (.in_gtu hx0)

theorem Keeps.execBcnValidExpire {o x0 : State} (hx0 : Keeps o x0) : KeepsOut o (execBcnValidExpire x0) := by
  unfold Sys2Proof.Machine.execBcnValidExpire
  exact .next (.wf hx0)

theorem Keeps.crossingAct {o x0 : State} (hx0 : Keeps o x0) : Keeps o (State.crossingAct x0) := by
  unfold State.crossingAct
  extract_lets -merge +onlyGivenNames t0 t1
  clear_value t0 t1
  refine .ite ?_ ?_
  · exact .ite (.mainsReturn hx0) hx0
  · refine .ite ?_ ?_
    · extract_lets -merge +onlyGivenNames t2
      have h3 : Keeps o (t2) := .loopInc (.setSlew hx0)
      clear_value t2
      exact .ite (.gtuEnd (.gtuEnter h3)) (.gtuEnd h3)
    · refine .ite ?_ ?_
      · extract_lets -merge +onlyGivenNames t4 d6 t7
        have h5 : Keeps o (t4) := .gtuEnter (.loopInc hx0)
        have h8 : Keeps o (t7) := .in_gtu h5
        clear_value t4 t7
        exact .gtuEnd h8
      · exact .gtuEnd (.loopInc hx0)

theorem Keeps.crossingBad {o x0 : State} (hx0 : Keeps o x0) : Keeps o (State.crossingBad x0) := by
  unfold State.crossingBad
  extract_lets -merge +onlyGivenNames t0
  have h1 : Keeps o (t0) := .wf hx0
  clear_value t0
  exact .in_gtu h1

theorem Keeps.execMainsCrossing {o : State} {x0 : Nat} {x1 : Nat} {x2 : State} (hx2 : Keeps o x2) : KeepsOut o (execMainsCrossing x0 x1 x2) := by
  unfold Sys2Proof.Machine.execMainsCrossing
  refine .ite ?_ ?_
  · exact .next hx2
  · extract_lets -merge +onlyGivenNames t0
    have h1 : Keeps o (t0) := .ite hx2 (.setRegN hx2)
    clear_value t0
    refine .ite ?_ ?_
    · exact .next (.crossingAct (.crossingMark h1))
    · exact .next (.crossingBad h1)

theorem Keeps.execCrossingMissing {o x0 : State} (hx0 : Keeps o x0) : KeepsOut o (execCrossingMissing x0) := by
  unfold Sys2Proof.Machine.execCrossingMissing
  refine .ite ?_ ?_
  · extract_lets -merge +onlyGivenNames t0 t1
    have h2 : Keeps o (t1) := .missCrossing hx0
    clear_value t0 t1
    refine .ite ?_ ?_
    · exact .next h2
    · refine .ite ?_ ?_
      · exact .next (.gtuEnd (.gtuEnter h2))
      · extract_lets -merge +onlyGivenNames t3
        have h4 : Keeps o (t3) := .enterHoldover h2
        clear_value t3
        exact .next (.gtuEnd (.wf h4))
  · exact .next hx0

theorem Keeps.execHoldEstimateUpdate {o x0 : State} (hx0 : Keeps o x0) : KeepsOut o (execHoldEstimateUpdate x0) := by
  unfold Sys2Proof.Machine.execHoldEstimateUpdate
  refine .ite ?_ ?_
  · exact .next (.gtuEnd (.wf hx0))
  · refine .ite ?_ ?_
    · exact .next (.gtuEnd (.wf hx0))
    · exact .next hx0

theorem Keeps.execBeaconSample {o : State} {x0 : Fin 4} {x1 : GTime} {x2 : GTime} {x3 : State} (hx3 : Keeps o x3) : KeepsOut o (execBeaconSample x0 x1 x2 x3) := by
  unfold Sys2Proof.Machine.execBeaconSample
  exact .next (.beaconSample hx3)

theorem Keeps.execSeed {o : State} {x0 : Init} {x1 : State} (hx1 : Keeps o x1) : KeepsOut o (execSeed x0 x1) := by
  unfold Sys2Proof.Machine.execSeed
  exact .next (.onWrite hx1 (fun h0 => .gtuSeed h0))

theorem Keeps.execRelearn {o : State} {x0 : Init} {x1 : State} (hx1 : Keeps o x1) : KeepsOut o (execRelearn x0 x1) := by
  unfold Sys2Proof.Machine.execRelearn
  exact .next (.onWrite hx1 (fun h0 => .gtuRelearn h0))

theorem Keeps.execHold {o : State} {x0 : Init} {x1 : State} (hx1 : Keeps o x1) : KeepsOut o (execHold x0 x1) := by
  unfold Sys2Proof.Machine.execHold
  exact .next (.onWrite hx1 (fun h0 => .gtuHold h0))

theorem Keeps.execResume {o : State} {x0 : Init} {x1 : State} (hx1 : Keeps o x1) : KeepsOut o (execResume x0 x1) := by
  unfold Sys2Proof.Machine.execResume
  exact .next (.onWrite hx1 (fun h0 => .gtuResume h0))

theorem Keeps.execGtuFree {o : State} {x0 : Init} {x1 : State} (hx1 : Keeps o x1) : KeepsOut o (execGtuFree x0 x1) := by
  unfold Sys2Proof.Machine.execGtuFree
  exact .next (.onWrite hx1 (fun h0 => .gtuFree h0))

theorem Keeps.execPmapCommit {o : State} {x0 : Init} {x1 : State} (hx1 : Keeps o x1) : KeepsOut o (execPmapCommit x0 x1) := by
  unfold Sys2Proof.Machine.execPmapCommit
  exact .next (.onWrite hx1 (fun h0 => .pmapCommit h0))

theorem Keeps.execPmapExpire {o x0 : State} (hx0 : Keeps o x0) : KeepsOut o (execPmapExpire x0) := by
  unfold Sys2Proof.Machine.execPmapExpire
  extract_lets -merge +onlyGivenNames t0
  have h1 : Keeps o (t0) := .wf hx0
  clear_value t0
  exact .next (.gtuEnd (.setRegN h1))

theorem Keeps.execGtuCtrlWrite {o : State} {x0 : Init} {x1 : Word} {x2 : State} (hx2 : Keeps o x2) : KeepsOut o (execGtuCtrlWrite x0 x1 x2) := by
  unfold Sys2Proof.Machine.execGtuCtrlWrite
  exact .next (.onWrite hx2 (fun h0 => .gtuCtrlWrite h0))

theorem Keeps.execGtuNowRead {o : State} {x0 : Init} {x1 : State} (hx1 : Keeps o x1) : KeepsOut o (execGtuNowRead x0 x1) := by
  unfold Sys2Proof.Machine.execGtuNowRead
  exact .next (.onRead hx1 (fun h0 => .gtuNowRead h0))

theorem Keeps.execXlastRead {o : State} {x0 : Init} {x1 : State} (hx1 : Keeps o x1) : KeepsOut o (execXlastRead x0 x1) := by
  unfold Sys2Proof.Machine.execXlastRead
  exact .next (.onRead hx1 (fun h0 => .xlastRead h0))

theorem Keeps.tick {o x0 : State} (hx0 : Keeps o x0) : Keeps o (State.tick x0) :=
  .in_gtu hx0

/-! Mem -/

theorem Keeps.inject {o x0 : State} {x1 : Bool} {x2 : Nat} {x3 : Nat} (hx0 : Keeps o x0) : Keeps o (State.inject x0 x1 x2 x3) := by
  unfold State.inject
  extract_lets -merge +onlyGivenNames t0
  clear_value t0
  refine .ite ?_ ?_
  · extract_lets -merge +onlyGivenNames t1
    exact .setReg (.setEcc hx0)
  · exact hx0

theorem Keeps.setBytes {o x0 : State} {x1 : Nat} {x2 : List Byte} (hx0 : Keeps o x0) : Keeps o (State.setBytes x0 x1 x2) := by
  induction x2 generalizing x0 x1 with
  | nil =>
    exact hx0
  | cons y l ih =>
    rw [State.setBytes]
    exact ih (.setByte hx0)

theorem Keeps.setDrc {o x0 : State} {x1 : DrcSt → DrcSt} (hx0 : Keeps o x0) : Keeps o (State.setDrc x0 x1) :=
  .in_drc hx0

theorem Keeps.noteCe {o x0 : State} {x1 : Nat} (hx0 : Keeps o x0) : Keeps o (State.noteCe x0 x1) := by
  unfold State.noteCe
  extract_lets -merge +onlyGivenNames t0
  clear_value t0
  exact .ite (.setReg64 (.bump (.setDrc hx0))) (.setRegN (.bump (.setDrc hx0)))

theorem Keeps.noteUe {o x0 : State} {x1 : Nat} {x2 : Nat} (hx0 : Keeps o x0) : Keeps o (State.noteUe x0 x1 x2) := by
  unfold State.noteUe
  extract_lets -merge +onlyGivenNames t0
  clear_value t0
  exact .ite (.raise (.setRegN (.setReg64 (.bump hx0)))) (.raise (.setRegN (.setRegN (.bump hx0))))

theorem Keeps.eccWord {o x0 : State} {x1 : Nat} {x2 : Nat} (hx0 : Keeps o x0) : Keeps o (State.eccWord x0 x1 x2) :=
  .ite hx0 (.ite (.noteCe (.setEcc hx0)) (.noteUe hx0))

theorem Keeps.eccRmw {o x0 : State} {x1 : Nat} {x2 : List Nat} (hx0 : Keeps o x0) : Keeps o (State.eccRmw x0 x1 x2) := by
  induction x2 generalizing x0 x1 with
  | nil =>
    exact hx0
  | cons y l ih =>
    rw [State.eccRmw]
    exact ih (.ite (.setEcc (.eccWord hx0)) (.eccWord hx0))

theorem Keeps.dramTouch {o x0 : State} {x1 : Nat} (hx0 : Keeps o x0) : Keeps o (State.dramTouch x0 x1) :=
  .ite (.raise (.bump (.wf hx0))) hx0

theorem Keeps.store {o x0 : State} {x1 : Nat} {x2 : Nat} {x3 : List Byte} (hx0 : Keeps o x0) : Keeps o (State.store x0 x1 x2 x3) :=
  .ite hx0 (.inject (.eccClean (.setBytes (.eccRmw (.dramTouch hx0)))))

theorem Keeps.writeN {o x0 : State} {x1 : Nat} {x2 : Nat} {x3 : Nat} (hx0 : Keeps o x0) : Keeps o (State.writeN x0 x1 x2 x3) := by
  induction x2 generalizing x0 x1 x3 with
  | zero =>
    exact hx0
  | succ n ih =>
    rw [State.writeN]
    exact ih (.setByte hx0)

theorem Keeps.write32 {o x0 : State} {x1 : Nat} {x2 : Word} (hx0 : Keeps o x0) : Keeps o (State.write32 x0 x1 x2) :=
  .writeN hx0

theorem Keeps.wmf {o x0 : State} {x1 : Nat} {x2 : Nat} {x3 : Nat} {x4 : Nat} (hx0 : Keeps o x0) : Keeps o (State.wmf x0 x1 x2 x3 x4) :=
  .write32 hx0

theorem Keeps.eccWords {o x0 : State} {x1 : Nat} {x2 : List Nat} (hx0 : Keeps o x0) : Keeps o (State.eccWords x0 x1 x2) := by
  induction x2 generalizing x0 x1 with
  | nil =>
    exact hx0
  | cons y l ih =>
    rw [State.eccWords]
    exact ih (.eccWord hx0)

theorem Keeps.eccRead {o x0 : State} {x1 : Nat} {x2 : Nat} {x3 : Nat} (hx0 : Keeps o x0) : Keeps o (State.eccRead x0 x1 x2 x3) :=
  .ite hx0 (.eccWords (.dramTouch hx0))

theorem Keeps.setWords {o x0 : State} {x1 : Nat} {x2 : List Word} (hx0 : Keeps o x0) : Keeps o (State.setWords x0 x1 x2) := by
  induction x2 generalizing x0 x1 with
  | nil =>
    exact hx0
  | cons y l ih =>
    rw [State.setWords]
    exact ih (.write32 hx0)

/-! MdmBase -/

theorem Keeps.setRfc {o x0 : State} {x1 : Radio} {x2 : RfcSt → RfcSt} (hx0 : Keeps o x0) : Keeps o (State.setRfc x0 x1 x2) :=
  .in_rfc hx0

theorem Keeps.setMdm {o x0 : State} {x1 : Radio} {x2 : MdmSt → MdmSt} (hx0 : Keeps o x0) : Keeps o (State.setMdm x0 x1 x2) :=
  .in_mdm hx0

theorem Keeps.deliverBlock {o x0 : State} {x1 : Radio} {x2 : List Word} (hx0 : Keeps o x0) : Keeps o (State.deliverBlock x0 x1 x2) := by
  unfold State.deliverBlock
  extract_lets -merge +onlyGivenNames t0
  have h1 : Keeps o (t0) := .foldl (fun h => .setReg h) hx0
  clear_value t0
  exact .emit h1

theorem Keeps.failBlock {o x0 : State} {x1 : Radio} {x2 : Nat} {x3 : Word} (hx0 : Keeps o x0) : Keeps o (State.failBlock x0 x1 x2 x3) := by
  unfold State.failBlock
  extract_lets -merge +onlyGivenNames t0 t1 t3 t5
  have h2 : Keeps o (t1) := .used hx0
  have h4 : Keeps o (t3) := .used h2
  clear_value t0 t1 t3 t5
  exact .deliverBlock (.used h4)

theorem Keeps.smodeApply {o x0 : State} {x1 : Radio} (hx0 : Keeps o x0) : Keeps o (State.smodeApply x0 x1) := by
  unfold State.smodeApply
  split
  · exact hx0
  · exact .setMdm (.setReg hx0)

theorem Keeps.rxOver {o x0 : State} {x1 : Radio} {x2 : Bool} {x3 : Bool} (hx0 : Keeps o x0) : Keeps o (State.rxOver x0 x1 x2 x3) := by
  unfold State.rxOver
  extract_lets -merge +onlyGivenNames t0 t1 t3 t5 t7
  have h2 : Keeps o (t1) := .bumpBy hx0
  have h4 : Keeps o (t3) := .setMdm h2
  have h6 : Keeps o (t5) := .smodeApply (.setReg h4)
  have h8 : Keeps o (t7) := .wf (.wf h6)
  clear_value t0 t1 t3 t5 t7
  exact .wf h8

theorem Keeps.rxLeave {o x0 : State} {x1 : Radio} {x2 : Bool} (hx0 : Keeps o x0) : Keeps o (State.rxLeave x0 x1 x2) := by
  unfold State.rxLeave
  refine .ite ?_ ?_
  · extract_lets -merge +onlyGivenNames t0
    have h1 : Keeps o (t0) := .ite (.failBlock hx0) hx0
    clear_value t0
    exact .rxOver (.bump h1)
  · exact .wf (.setMdm hx0)

theorem Keeps.ppduEnd {o x0 : State} {x1 : Radio} {x2 : Nat} {x3 : Nat} (hx0 : Keeps o x0) : Keeps o (State.ppduEnd x0 x1 x2 x3) := by
  unfold State.ppduEnd
  extract_lets -merge +onlyGivenNames t0 t1 t2 t4 t6 t8 t9
  have h3 : Keeps o (t2) := .setRegN hx0
  have h5 : Keeps o (t4) := .ite (.bump h3) h3
  have h7 : Keeps o (t6) := .ite (.bump h5) h5
  have h10 : Keeps o (t9) := .emit h7
  clear_value t0 t1 t2 t4 t6 t8 t9
  exact .wf (.setMdm h10)

theorem Keeps.ppduStart {o x0 : State} {x1 : Radio} {x2 : Nat} {x3 : Nat} (hx0 : Keeps o x0) : Keeps o (State.ppduStart x0 x1 x2 x3) := by
  unfold State.ppduStart
  extract_lets -merge +onlyGivenNames t0 t1 t2 t4
  have h3 : Keeps o (t2) := .foldl (fun h => .ite (.wf h) h) hx0
  have h5 : Keeps o (t4) := .setMdm h3
  clear_value t0 t1 t2 t4
  exact .wf h5

/-! Rfc -/

theorem Keeps.rfcPop {o : State} {x0 : Init} {x1 : Radio} {x2 : State} (hx2 : Keeps o x2) : Keeps o (State.rfcPop x0 x1 x2) := by
  unfold State.rfcPop
  split
  · exact .answer hx2
  · extract_lets -merge +onlyGivenNames t0 t2
    have h1 : Keeps o (t0) := .setRfc hx2
    have h3 : Keeps o (t2) := .setReg (.setReg h1)
    clear_value t0 t2
    exact .answer h3

theorem Keeps.rfcStrobe {o x0 : State} {x1 : Radio} {x2 : Bool} (hx0 : Keeps o x0) : Keeps o (State.rfcStrobe x0 x1 x2) := by
  unfold State.rfcStrobe
  extract_lets -merge +onlyGivenNames t0 t1 t2
  clear_value t0 t1 t2
  exact .ite (.setRfc hx0) hx0

theorem Keeps.rfcRefuse {o x0 : State} {x1 : Radio} {x2 : Nat} (hx0 : Keeps o x0) : Keeps o (State.rfcRefuse x0 x1 x2) :=
  .refuse hx0

theorem Keeps.rfcPush {o : State} {x0 : Nat} {x1 : Radio} {x2 : Word} {x3 : State} (hx3 : Keeps o x3) : Keeps o (State.rfcPush x0 x1 x2 x3) := by
  unfold State.rfcPush
  refine .ite ?_ ?_
  · exact hx3
  · extract_lets -merge +onlyGivenNames t0
    clear_value t0
    exact .ite (.rfcRefuse hx3) (.ite (.rfcRefuse hx3) (.ite (.rfcRefuse hx3) (.setRfc hx3)))

theorem Keeps.rfcResult {o x0 : State} {x1 : Radio} {x2 : RfcCmd} {x3 : Nat} (hx0 : Keeps o x0) : Keeps o (State.rfcResult x0 x1 x2 x3) := by
  unfold State.rfcResult
  extract_lets -merge +onlyGivenNames t0
  have h1 : Keeps o (t0) := .ite (.setRfc hx0) (.bumpTo hx0)
  clear_value t0
  exact .ite (.ite (.raise h1) h1) (.ite (.raise h1) (.ite h1 (.raise h1)))

theorem Keeps.rfcTake {o x0 : State} {x1 : Radio} {x2 : Bool} (hx0 : Keeps o x0) : Keeps o (State.rfcTake x0 x1 x2) :=
  .setRfc hx0

theorem Keeps.rfcDone {o x0 : State} {x1 : Radio} {x2 : RfcCmd} {x3 : Bool} {x4 : Nat} (hx0 : Keeps o x0) : Keeps o (State.rfcDone x0 x1 x2 x3 x4) :=
  .rfcResult (.setRfc (.rfcTake hx0))

theorem Keeps.rfcUnhold {o x0 : State} {x1 : Radio} (hx0 : Keeps o x0) : Keeps o (State.rfcUnhold x0 x1) :=
  .wf (.setRfc hx0)

theorem Keeps.calDue {o x0 : State} {x1 : Radio} {x2 : Nat} (hx0 : Keeps o x0) : Keeps o (State.calDue x0 x1 x2) := by
  unfold State.calDue
  refine .ite ?_ ?_
  · exact hx0
  · extract_lets -merge +onlyGivenNames t0 t1
    have h2 : Keeps o (t1) := .setReg hx0
    clear_value t0 t1
    exact .setRfc h2

theorem Keeps.execCalPeriodDue {o : State} {x0 : Radio} {x1 : State} (hx1 : Keeps o x1) : KeepsOut o (execCalPeriodDue x0 x1) := by
  unfold Sys2Proof.Machine.execCalPeriodDue
  exact .next (.calDue (.calDue (.calDue hx1)))

theorem Keeps.tuneDue {o x0 : State} {x1 : Radio} {x2 : Nat} (hx0 : Keeps o x0) : Keeps o (State.tuneDue x0 x1 x2) := by
  unfold State.tuneDue
  extract_lets -merge +onlyGivenNames t0 t1
  have h2 : Keeps o (t1) := .ite (.calDue hx0) hx0
  clear_value t0 t1
  exact .ite (.calDue h2) h2

theorem Keeps.recWrite {o x0 : State} {x1 : Radio} {x2 : Nat} (hx0 : Keeps o x0) : Keeps o (State.recWrite x0 x1 x2) := by
  unfold State.recWrite
  extract_lets -merge +onlyGivenNames t0 t1 t2 t3 t5
  have h4 : Keeps o (t3) := .store hx0
  have h6 : Keeps o (t5) := .setRfc h4
  clear_value t0 t1 t2 t3 t5
  exact .wf h6

theorem Keeps.macPort {o : State} {x0 : Radio} {x1 : SixWords} {x2 : State} (hx2 : Keeps o x2) : Keeps o (State.macPort x0 x1 x2) := by
  unfold State.macPort
  extract_lets -merge +onlyGivenNames t0
  clear_value t0
  exact .ite (.rfcRefuse hx2) (.ite (.rfcRefuse hx2) (.ite (.rfcRefuse hx2) (.ite (.rfcRefuse hx2) (.setRfc hx2))))

theorem Keeps.rfcReject {o x0 : State} {x1 : Radio} {x2 : RfcCmd} {x3 : Bool} (hx0 : Keeps o x0) : Keeps o (State.rfcReject x0 x1 x2 x3) :=
  .rfcDone (.bumpTo hx0)

theorem Keeps.rfcHold {o x0 : State} {x1 : Radio} {x2 : RfcCmd} {x3 : Bool} {x4 : Bool} (hx0 : Keeps o x0) : Keeps o (State.rfcHold x0 x1 x2 x3 x4) := by
  unfold State.rfcHold
  extract_lets -merge +onlyGivenNames t0 t1 t2
  have h3 : Keeps o (t2) := .setRfc hx0
  clear_value t0 t1 t2
  exact .ite (.bumpTo (.wf h3)) h3

theorem Keeps.calStopNow {o x0 : State} {x1 : Radio} (hx0 : Keeps o x0) : Keeps o (State.calStopNow x0 x1) :=
  .setRfc hx0

theorem Keeps.rfcRun {o x0 : State} {x1 : Radio} {x2 : Nat} {x3 : State → RfcCmd → Bool → State} (hx0 : Keeps o x0) (hx3 : ∀ {y0} {y1} {y2}, Keeps o y0 → Keeps o (x3 y0 y1 y2)) : Keeps o (State.rfcRun x0 x1 x2 x3) := by
  unfold State.rfcRun
  split
  · exact hx0
  · refine .ite ?_ ?_
    · exact hx0
    · split
      · exact .rfcReject hx0
      · exact .rfcDone hx0
      · exact .ite hx0 (hx3 hx0)
      · exact .ite (.rfcHold hx0) (.ite (.ite (.rfcHold (.bumpTo (.calStopNow hx0))) hx0) (hx3 hx0))

theorem Keeps.rfcLate {o x0 : State} {x1 : Radio} {x2 : RfcCmd} {x3 : Bool} (hx0 : Keeps o x0) : Keeps o (State.rfcLate x0 x1 x2 x3) :=
  .rfcDone (.bumpTo hx0)

theorem Keeps.rfcBegin {o x0 : State} {x1 : Radio} {x2 : RfcCmd} {x3 : Bool} {x4 : RfcWork} (hx0 : Keeps o x0) : Keeps o (State.rfcBegin x0 x1 x2 x3 x4) :=
  .setRfc hx0

theorem Keeps.rfcRxBegin {o x0 : State} {x1 : Radio} {x2 : RfcCmd} {x3 : Bool} (hx0 : Keeps o x0) : Keeps o (State.rfcRxBegin x0 x1 x2 x3) :=
  .rfcBegin (.setRfc hx0)

theorem Keeps.leaveRx {o x0 : State} {x1 : Radio} (hx0 : Keeps o x0) : Keeps o (State.leaveRx x0 x1) :=
  .ite (.setRfc (.rxLeave hx0)) hx0

theorem Keeps.rfcTxBegin {o x0 : State} {x1 : Radio} {x2 : RfcCmd} {x3 : Bool} (hx0 : Keeps o x0) : Keeps o (State.rfcTxBegin x0 x1 x2 x3) :=
  .rfcBegin (.setRfc (.leaveRx hx0))

theorem Keeps.rfcGo {o x0 : State} {x1 : Radio} {x2 : RfcCmd} {x3 : Bool} {x4 : Nat} (hx0 : Keeps o x0) : Keeps o (State.rfcGo x0 x1 x2 x3 x4) :=
  .ite (.rfcLate hx0) (.ite (.rfcRxBegin hx0) (.rfcTxBegin hx0))

theorem Keeps.execRfcTx {o : State} {x0 : Radio} {x1 : State} (hx1 : Keeps o x1) : KeepsOut o (execRfcTx x0 x1) := by
  unfold Sys2Proof.Machine.execRfcTx
  exact .next (.rfcRun hx1 (fun h0 => .rfcGo h0))

theorem Keeps.calComplete {o x0 : State} {x1 : Radio} {x2 : Nat} (hx0 : Keeps o x0) : Keeps o (State.calComplete x0 x1 x2) := by
  unfold State.calComplete
  extract_lets -merge +onlyGivenNames t0 t2 t3 t4
  have h1 : Keeps o (t0) := .setReg hx0
  clear_value t0 t2 t3 t4
  exact .setRfc h1

theorem Keeps.rfcEndRun {o x0 : State} {x1 : Radio} {x2 : Nat} (hx0 : Keeps o x0) : Keeps o (State.rfcEndRun x0 x1 x2) := by
  unfold State.rfcEndRun
  split
  · exact hx0
  · extract_lets -merge +onlyGivenNames t0
    have h1 : Keeps o (t0) := .setRfc hx0
    clear_value t0
    split
    · exact h1
    · exact .rfcResult h1

theorem Keeps.calEnd {o x0 : State} {x1 : Radio} {x2 : Nat} (hx0 : Keeps o x0) : Keeps o (State.calEnd x0 x1 x2) := by
  unfold State.calEnd
  extract_lets -merge +onlyGivenNames t0 t2 t4
  have h1 : Keeps o (t0) := .wf hx0
  have h3 : Keeps o (t2) := .wf h1
  have h5 : Keeps o (t4) := .setRfc h3
  clear_value t0 t2 t4
  exact .rfcEndRun h5

theorem Keeps.calBegin {o x0 : State} {x1 : Radio} {x2 : Option RfcCmd} {x3 : Bool} {x4 : Nat} (hx0 : Keeps o x0) : Keeps o (State.calBegin x0 x1 x2 x3 x4) := by
  unfold State.calBegin
  extract_lets -merge +onlyGivenNames t0 t2
  have h1 : Keeps o (t0) := .setRfc hx0
  have h3 : Keeps o (t2) := .wf (.wf h1)
  clear_value t0 t2
  exact .ite (.calEnd h3) (.wf h3)

theorem Keeps.rfcStore {o x0 : State} {x1 : Radio} {x2 : RfcCmd} {x3 : Bool} (hx0 : Keeps o x0) : Keeps o (State.rfcStore x0 x1 x2 x3) := by
  unfold State.rfcStore
  extract_lets -merge +onlyGivenNames t0 t1
  have h2 : Keeps o (t1) := .setRfc hx0
  clear_value t0 t1
  exact .rfcDone (.recWrite h2)

theorem Keeps.heldGo {o x0 : State} {x1 : Radio} (hx0 : Keeps o x0) : Keeps o (State.heldGo x0 x1) := by
  unfold State.heldGo
  split
  · exact hx0
  · extract_lets -merge +onlyGivenNames t0
    have h1 : Keeps o (t0) := .rfcUnhold hx0
    clear_value t0
    exact .ite (.calBegin h1) (.ite (.rfcStore h1) (.ite (.rfcLate h1) (.ite (.rfcRxBegin h1) (.rfcTxBegin h1))))

theorem Keeps.calStepOk {o x0 : State} {x1 : Radio} {x2 : Nat} {x3 : List Word} (hx0 : Keeps o x0) : Keeps o (State.calStepOk x0 x1 x2 x3) := by
  unfold State.calStepOk
  extract_lets -merge +onlyGivenNames t0 t2 t4 t5
  have h1 : Keeps o (t0) := .setRfc hx0
  have h3 : Keeps o (t2) := .ite (.calComplete h1) h1
  have h6 : Keeps o (t5) := .wf h3
  clear_value t0 t2 t4 t5
  refine .ite ?_ ?_
  · exact .heldGo (.calEnd h6)
  · refine .ite ?_ ?_
    · extract_lets -merge +onlyGivenNames t7
      have h8 : Keeps o (t7) := .wf h6
      clear_value t7
      exact .heldGo (.calEnd h8)
    · exact h6

theorem Keeps.synthLock {o x0 : State} {x1 : Radio} {x2 : BitVec 24} (hx0 : Keeps o x0) : Keeps o (State.synthLock x0 x1 x2) := by
  simp only [State.synthLock]
  exact .heldGo (.ite (by
    split
    · exact .wf (.wf (.recWrite (.setReg (.setRfc (.wf hx0)))))
    · exact .setReg (.setRfc (.wf hx0))) (.wf hx0))

theorem Keeps.execSynthLock {o : State} {x0 : Radio} {x1 : BitVec 24} {x2 : State} (hx2 : Keeps o x2) : KeepsOut o (execSynthLock x0 x1 x2) := by
  unfold Sys2Proof.Machine.execSynthLock
  refine .ite ?_ ?_
  · exact .next (.synthLock hx2)
  · exact .next hx2

theorem Keeps.execRfcStore {o : State} {x0 : Radio} {x1 : State} (hx1 : Keeps o x1) : KeepsOut o (execRfcStore x0 x1) := by
  unfold Sys2Proof.Machine.execRfcStore
  exact .next (.rfcRun hx1 (fun h0 => .rfcStore h0))

theorem Keeps.femRest {o x0 : State} {x1 : Radio} (hx0 : Keeps o x0) : Keeps o (State.femRest x0 x1) :=
  .setRfc hx0

theorem Keeps.dpdEnd {o x0 : State} {x1 : Radio} {x2 : RfcDpd} {x3 : Nat} (hx0 : Keeps o x0) : Keeps o (State.dpdEnd x0 x1 x2 x3) :=
  .rfcResult (.wf (.setRfc hx0))

theorem Keeps.dpdFit {o x0 : State} {x1 : Radio} {x2 : RfcDpd} {x3 : Nat} {x4 : Nat} {x5 : Nat} {x6 : List Word} (hx0 : Keeps o x0) : Keeps o (State.dpdFit x0 x1 x2 x3 x4 x5 x6) := by
  unfold State.dpdFit
  refine .ite ?_ ?_
  · exact .raise (.dpdEnd hx0)
  · extract_lets -merge +onlyGivenNames t0 t1 t3
    have h2 : Keeps o (t1) := .store hx0
    have h4 : Keeps o (t3) := .ite (.wf h2) h2
    clear_value t0 t1 t3
    exact .dpdEnd (.wf h4)

theorem Keeps.execDpdFitDone {o : State} {x0 : WRadio} {x1 : BitVec 8} {x2 : BitVec 8} {x3 : BitVec 8} {x4 : List (BitVec 32)} {x5 : State} (hx5 : Keeps o x5) : KeepsOut o (execDpdFitDone x0 x1 x2 x3 x4 x5) := by
  unfold Sys2Proof.Machine.execDpdFitDone
  split
  · refine .ite ?_ ?_
    · exact .next (.dpdFit hx5)
    · exact .next hx5
  · exact .next hx5

theorem Keeps.recRead {o x0 : State} {x1 : Radio} {x2 : Nat} (hx0 : Keeps o x0) : Keeps o (State.recRead x0 x1 x2).1 := by
  unfold State.recRead
  extract_lets -merge +onlyGivenNames t0
  clear_value t0
  refine .iteP ?_ ?_
  · extract_lets -merge +onlyGivenNames t1
    clear_value t1
    exact .eccRead (.used hx0)
  · exact .eccRead hx0

theorem Keeps.countRecBad {o x0 : State} {x1 : Radio} {x2 : List Word} (hx0 : Keeps o x0) : Keeps o (State.countRecBad x0 x1 x2) :=
  .ite hx0 (.bumpTo hx0)

theorem Keeps.rfcTune {o x0 : State} {x1 : Radio} {x2 : RfcCmd} {x3 : Bool} (hx0 : Keeps o x0) : Keeps o (State.rfcTune x0 x1 x2 x3) := by
  unfold State.rfcTune
  extract_lets -merge +onlyGivenNames t0 t1 t2 t4 t6 t7 t8 t10 t11 t12 t13 t15 t17 t19 t21 t23
  have h3 : Keeps o (t2).1 := by
    unfold t2
    clear_value t0
    refine .iteP ?_ ?_
    · exact .recRead hx0
    · exact hx0
  have h5 : Keeps o (t4) := h3
  have h9 : Keeps o (t8) := .ite (.countRecBad h5) h5
  have h14 : Keeps o (t13) := .setRfc h9
  have h16 : Keeps o (t15) := .ite h14 (.setReg h14)
  have h18 : Keeps o (t17) := .tuneDue h16
  have h20 : Keeps o (t19) := .wf (.wf h18)
  have h22 : Keeps o (t21) := .wf h20
  have h24 : Keeps o (t23) := .setRegN h22
  clear_value t0 t2 t4 t6 t7 t8 t10 t11 t12 t13 t15 t17 t19 t21 t23
  exact .rfcDone h24

theorem Keeps.lockLoss {o x0 : State} {x1 : Radio} (hx0 : Keeps o x0) : Keeps o (State.lockLoss x0 x1) := by
  unfold State.lockLoss
  extract_lets -merge +onlyGivenNames t0 t2 t4 t5 t6 t8 t10 t12
  have h1 : Keeps o (t0) := .femRest hx0
  have h3 : Keeps o (t2) := .ite (.rxLeave h1) h1
  have h7 : Keeps o (t6) := .ite (.ppduEnd h3) h3
  have h9 : Keeps o (t8) := .wf (.wf h7)
  have h11 : Keeps o (t10) := .bumpTo h9
  have h13 : Keeps o (t12) := .ite (.calEnd h11) (.rfcEndRun h11)
  clear_value t0 t2 t4 t5 t6 t8 t10 t12
  exact .raise h13

theorem Keeps.execLockLoss {o : State} {x0 : Radio} {x1 : State} (hx1 : Keeps o x1) : KeepsOut o (execLockLoss x0 x1) := by
  unfold Sys2Proof.Machine.execLockLoss
  refine .ite ?_ ?_
  · exact .next (.lockLoss hx1)
  · exact .next hx1

theorem Keeps.execRfcRx {o : State} {x0 : Radio} {x1 : State} (hx1 : Keeps o x1) : KeepsOut o (execRfcRx x0 x1) := by
  unfold Sys2Proof.Machine.execRfcRx
  exact .next (.rfcRun hx1 (fun h0 => .rfcGo h0))

theorem Keeps.newTemp {o x0 : State} {x1 : Radio} {x2 : BitVec 16} (hx0 : Keeps o x0) : Keeps o (State.newTemp x0 x1 x2) := by
  unfold State.newTemp
  extract_lets -merge +onlyGivenNames t0 t2 t3 t4 t5 t7 t9
  have h1 : Keeps o (t0) := .wf hx0
  have h6 : Keeps o (t5) := .ite (.calDue h1) h1
  have h8 : Keeps o (t7) := .ite (.calDue h6) h6
  have h10 : Keeps o (t9) := .ite (.calDue h8) h8
  clear_value t0 t2 t3 t4 t5 t7 t9
  exact .ite (.setReg h10) h10

theorem Keeps.rfcAbort {o x0 : State} {x1 : Radio} {x2 : RfcCmd} {x3 : Bool} (hx0 : Keeps o x0) : Keeps o (State.rfcAbort x0 x1 x2 x3) := by
  unfold State.rfcAbort
  extract_lets -merge +onlyGivenNames t0 t2 t4 t6
  have h1 : Keeps o (t0) := .rfcTake hx0
  have h3 : Keeps o (t2) := by
    unfold t2
    split
    · exact .rfcDone (.rfcUnhold h1)
    · exact h1
  have h5 : Keeps o (t4) := .ite (.calStopNow h3) h3
  have h7 : Keeps o (t6) := .rfcResult h5
  clear_value t0 t2 t4 t6
  refine .ite ?_ ?_
  · exact .setRfc (.femRest (.leaveRx h7))
  · refine .ite ?_ ?_
    · extract_lets -merge +onlyGivenNames t8 t9
      have h10 : Keeps o (t9) := .ppduEnd h7
      clear_value t8 t9
      exact .setRfc (.femRest (.rfcEndRun h10))
    · exact h7

theorem Keeps.execRfcAbort {o : State} {x0 : Radio} {x1 : State} (hx1 : Keeps o x1) : KeepsOut o (execRfcAbort x0 x1) := by
  unfold Sys2Proof.Machine.execRfcAbort
  exact .next (.rfcRun hx1 (fun h0 => .rfcAbort h0))

theorem Keeps.transDone {o x0 : State} {x1 : Radio} {x2 : RfcRun} {x3 : Nat} (hx0 : Keeps o x0) : Keeps o (State.transDone x0 x1 x2 x3) := by
  unfold State.transDone
  extract_lets -merge +onlyGivenNames t0 t2
  have h1 : Keeps o (t0) := .wf hx0
  clear_value t0 t2
  refine .ite ?_ ?_
  · extract_lets -merge +onlyGivenNames t3 t4
    have h5 : Keeps o (t4) := .setRfc h1
    clear_value t3 t4
    exact .ppduStart h5
  · refine .ite ?_ ?_
    · extract_lets -merge +onlyGivenNames t6
      have h7 : Keeps o (t6) := .setRfc h1
      clear_value t6
      exact .rfcEndRun (.wf h7)
    · exact .rfcEndRun (.wf h1)

theorem Keeps.execHeldDeadline {o : State} {x0 : Radio} {x1 : State} (hx1 : Keeps o x1) : KeepsOut o (execHeldDeadline x0 x1) := by
  unfold Sys2Proof.Machine.execHeldDeadline
  split
  · refine .ite ?_ ?_
    · exact .next (.rfcLate (.rfcUnhold hx1))
    · exact .next hx1
  · exact .next hx1

theorem Keeps.rfcDpdup {o x0 : State} {x1 : Radio} {x2 : RfcCmd} {x3 : Bool} (hx0 : Keeps o x0) : Keeps o (State.rfcDpdup x0 x1 x2 x3) :=
  .ite (.rfcDone hx0) (.wf (.setRfc (.rfcTake hx0)))

theorem Keeps.calStepFail {o x0 : State} {x1 : Radio} {x2 : Nat} (hx0 : Keeps o x0) : Keeps o (State.calStepFail x0 x1 x2) := by
  unfold State.calStepFail
  extract_lets -merge +onlyGivenNames t0
  have h1 : Keeps o (t0) := .wf hx0
  clear_value t0
  exact .heldGo (.raise (.calEnd h1))

theorem Keeps.execCalStepDone {o : State} {x0 : Radio} {x1 : Bool} {x2 : List (BitVec 32)} {x3 : State} (hx3 : Keeps o x3) : KeepsOut o (execCalStepDone x0 x1 x2 x3) := by
  unfold Sys2Proof.Machine.execCalStepDone
  extract_lets -merge +onlyGivenNames t0
  clear_value t0
  refine .ite ?_ ?_
  · split
    · exact .next hx3
    · exact .next (.ite (.calStepOk hx3) (.calStepFail hx3))
  · exact .next hx3

theorem Keeps.execRfcDpdup {o : State} {x0 : Radio} {x1 : State} (hx1 : Keeps o x1) : KeepsOut o (execRfcDpdup x0 x1) := by
  unfold Sys2Proof.Machine.execRfcDpdup
  exact .next (.rfcRun hx1 (fun h0 => .rfcDpdup h0))

theorem Keeps.execCalOverdue {o : State} {x0 : Radio} {x1 : State} (hx1 : Keeps o x1) : KeepsOut o (execCalOverdue x0 x1) := by
  unfold Sys2Proof.Machine.execCalOverdue
  refine .ite ?_ ?_
  · exact .next (.raise hx1)
  · exact .next hx1

theorem Keeps.execCalTempDue {o : State} {x0 : Radio} {x1 : BitVec 16} {x2 : State} (hx2 : Keeps o x2) : KeepsOut o (execCalTempDue x0 x1 x2) := by
  unfold Sys2Proof.Machine.execCalTempDue
  exact .next (.newTemp hx2)

theorem Keeps.synthOff {o x0 : State} {x1 : Radio} (hx0 : Keeps o x0) : Keeps o (State.synthOff x0 x1) := by
  unfold State.synthOff
  extract_lets -merge +onlyGivenNames t0 t2
  have h1 : Keeps o (t0) := .wf hx0
  have h3 : Keeps o (t2) := .setReg (.wf h1)
  clear_value t0 t2
  exact .setRfc h3

theorem Keeps.rfcMove {o x0 : State} {x1 : Radio} {x2 : RfcCmd} {x3 : Bool} {x4 : Nat} (hx0 : Keeps o x0) : Keeps o (State.rfcMove x0 x1 x2 x3 x4) := by
  unfold State.rfcMove
  extract_lets -merge +onlyGivenNames t0
  have h1 : Keeps o (t0) := .femRest (.leaveRx hx0)
  clear_value t0
  exact .rfcBegin (.ite (.synthOff h1) h1)

theorem Keeps.execRfcStandby {o : State} {x0 : Radio} {x1 : State} (hx1 : Keeps o x1) : KeepsOut o (execRfcStandby x0 x1) := by
  unfold Sys2Proof.Machine.execRfcStandby
  exact .next (.rfcRun hx1 (fun h0 => .rfcMove h0))

theorem Keeps.execDpdDue {o : State} {x0 : WRadio} {x1 : State} (hx1 : Keeps o x1) : KeepsOut o (execDpdDue x0 x1) := by
  unfold Sys2Proof.Machine.execDpdDue
  exact .next (.wf hx1)

theorem Keeps.execRfcIdle {o : State} {x0 : Radio} {x1 : State} (hx1 : Keeps o x1) : KeepsOut o (execRfcIdle x0 x1) := by
  unfold Sys2Proof.Machine.execRfcIdle
  exact .next (.rfcRun hx1 (fun h0 => .rfcMove h0))

theorem Keeps.execRfcCmdPush {o : State} {x0 : Init} {x1 : Radio} {x2 : Word} {x3 : State} (hx3 : Keeps o x3) : KeepsOut o (execRfcCmdPush x0 x1 x2 x3) := by
  unfold Sys2Proof.Machine.execRfcCmdPush
  exact .next (.onWrite hx3 (fun h0 => .rfcPush h0))

theorem Keeps.execMacPortCommand {o : State} {x0 : Radio} {x1 : SixWords} {x2 : State} (hx2 : Keeps o x2) : KeepsOut o (execMacPortCommand x0 x1 x2) := by
  unfold Sys2Proof.Machine.execMacPortCommand
  exact .next (.macPort hx2)

theorem Keeps.execRfcSleep {o : State} {x0 : Radio} {x1 : State} (hx1 : Keeps o x1) : KeepsOut o (execRfcSleep x0 x1) := by
  unfold Sys2Proof.Machine.execRfcSleep
  exact .next (.rfcRun hx1 (fun h0 => .rfcMove h0))

theorem Keeps.execRfcWake {o : State} {x0 : Radio} {x1 : State} (hx1 : Keeps o x1) : KeepsOut o (execRfcWake x0 x1) := by
  unfold Sys2Proof.Machine.execRfcWake
  exact .next (.rfcRun hx1 (fun h0 => .rfcMove h0))

theorem Keeps.execRfcTune {o : State} {x0 : Radio} {x1 : State} (hx1 : Keeps o x1) : KeepsOut o (execRfcTune x0 x1) := by
  unfold Sys2Proof.Machine.execRfcTune
  exact .next (.rfcRun hx1 (fun h0 => .rfcTune h0))

theorem Keeps.rfcPrep {o x0 : State} {x1 : Radio} {x2 : RfcCmd} {x3 : Bool} (hx0 : Keeps o x0) : Keeps o (State.rfcPrep x0 x1 x2 x3) := by
  unfold State.rfcPrep
  extract_lets -merge +onlyGivenNames t0 t2 t4 t5 t6 t8 t10
  have h1 : Keeps o (t0).1 := .recRead hx0
  have h3 : Keeps o (t2) := h1
  have h7 : Keeps o (t6) := .countRecBad h3
  have h9 : Keeps o (t8) := .setRfc h7
  have h11 : Keeps o (t10) := .setRegN h9
  clear_value t0 t2 t4 t5 t6 t8 t10
  exact .rfcDone h11

theorem Keeps.execRfcPrep {o : State} {x0 : Radio} {x1 : State} (hx1 : Keeps o x1) : KeepsOut o (execRfcPrep x0 x1) := by
  unfold Sys2Proof.Machine.execRfcPrep
  exact .next (.rfcRun hx1 (fun h0 => .rfcPrep h0))

theorem Keeps.execRfcCal {o : State} {x0 : Radio} {x1 : State} (hx1 : Keeps o x1) : KeepsOut o (execRfcCal x0 x1) := by
  unfold Sys2Proof.Machine.execRfcCal
  exact .next (.rfcRun hx1 (fun h0 => .calBegin h0))

theorem Keeps.execRfcTransitionDone {o : State} {x0 : Radio} {x1 : State} (hx1 : Keeps o x1) : KeepsOut o (execRfcTransitionDone x0 x1) := by
  unfold Sys2Proof.Machine.execRfcTransitionDone
  split
  · split
    · exact .next (.transDone hx1)
    · exact .next hx1
  · exact .next hx1

theorem Keeps.execAutocalStart {o : State} {x0 : Radio} {x1 : State} (hx1 : Keeps o x1) : KeepsOut o (execAutocalStart x0 x1) := by
  unfold Sys2Proof.Machine.execAutocalStart
  extract_lets -merge +onlyGivenNames t0 t1
  clear_value t0 t1
  refine .ite ?_ ?_
  · exact .next (.calBegin hx1)
  · exact .next hx1

theorem Keeps.execDpdTimeout {o : State} {x0 : WRadio} {x1 : State} (hx1 : Keeps o x1) : KeepsOut o (execDpdTimeout x0 x1) := by
  unfold Sys2Proof.Machine.execDpdTimeout
  split
  · refine .ite ?_ ?_
    · exact .next hx1
    · exact .next (.dpdEnd hx1)
  · exact .next hx1

theorem Keeps.execFemtWrite {o : State} {x0 : Init} {x1 : Radio} {x2 : Fin 3} {x3 : Word} {x4 : State} (hx4 : Keeps o x4) : KeepsOut o (execFemtWrite x0 x1 x2 x3 x4) := by
  unfold Sys2Proof.Machine.execFemtWrite
  exact .next (.onWrite hx4 (fun h0 => .writeReg h0))

theorem Keeps.execRfcResultPop {o : State} {x0 : Init} {x1 : Radio} {x2 : State} (hx2 : Keeps o x2) : KeepsOut o (execRfcResultPop x0 x1 x2) := by
  unfold Sys2Proof.Machine.execRfcResultPop
  exact .next (.onRead hx2 (fun h0 => .rfcPop h0))

end Sys2Proof.Machine
end

