-- ==== Sys2Proof/Laws/Keeps2.lean ====
section
/-! SUPPORT. What every operation keeps (`Keeps`), one lemma for each: Pkt, Chk, CrySlot, CryPage, StpBase, Qmg. -/

set_option Elab.async false

namespace Sys2Proof.Machine

/-! Pkt -/

theorem Keeps.txGive {o x0 : State} {x1 : Nat} {x2 : Nat} (hx0 : Keeps o x0) : Keeps o (State.txGive x0 x1 x2) :=
  .wf hx0

theorem Keeps.dropMpdu {o x0 : State} {x1 : Nat} (hx0 : Keeps o x0) : Keeps o (State.dropMpdu x0 x1) := by
  unfold State.dropMpdu
  split
  · exact hx0
  · exact .txGive (.in_mpdus hx0)

theorem Keeps.setRec {o x0 : State} {x1 : Nat} {x2 : Nat} {x3 : Nat} {x4 : Nat} {x5 : Nat} (hx0 : Keeps o x0) : Keeps o (State.setRec x0 x1 x2 x3 x4 x5) :=
  .wmf hx0

theorem Keeps.unstage {o x0 : State} {x1 : Mpdu} (hx0 : Keeps o x0) : Keeps o (State.unstage x0 x1) := by
  unfold State.unstage
  refine .ite ?_ ?_
  · exact hx0
  · extract_lets -merge +onlyGivenNames t0
    have h1 : Keeps o (t0) := .setRec hx0
    clear_value t0
    exact .setRec h1

theorem Keeps.endMpdu {o x0 : State} {x1 : Nat} (hx0 : Keeps o x0) : Keeps o (State.endMpdu x0 x1) := by
  unfold State.endMpdu
  split
  · exact hx0
  · exact .dropMpdu (.unstage hx0)

theorem Keeps.setPkt {o x0 : State} {x1 : PktSt → PktSt} (hx0 : Keeps o x0) : Keeps o (State.setPkt x0 x1) :=
  .in_pkt hx0

theorem Keeps.release {o x0 : State} {x1 : Nat} {x2 : Nat} (hx0 : Keeps o x0) : Keeps o (State.release x0 x1 x2) := by
  unfold State.release
  extract_lets -merge +onlyGivenNames t0 t1 t2
  have h3 : Keeps o (t2) := .wf (.wf hx0)
  clear_value t0 t1 t2
  exact .wf h3

theorem Keeps.dropFrame {o x0 : State} {x1 : Nat} (hx0 : Keeps o x0) : Keeps o (State.dropFrame x0 x1) := by
  unfold State.dropFrame
  split
  · exact hx0
  · exact .release (.setPkt hx0)

theorem Keeps.rxGive {o x0 : State} {x1 : Nat} {x2 : Nat} (hx0 : Keeps o x0) : Keeps o (State.rxGive x0 x1 x2) :=
  .wf hx0

theorem Keeps.pathCount {o x0 : State} {x1 : Nat} (hx0 : Keeps o x0) : Keeps o (State.pathCount x0 x1) :=
  .raise (.bump hx0)

theorem Keeps.dropRx {o x0 : State} {x1 : Nat} (hx0 : Keeps o x0) : Keeps o (State.dropRx x0 x1) := by
  unfold State.dropRx
  split
  · exact hx0
  · exact .rxGive (.in_rxmpdus hx0)

theorem Keeps.pathDrop {o x0 : State} {x1 : Xfer} (hx0 : Keeps o x0) : Keeps o (State.pathDrop x0 x1) := by
  unfold State.pathDrop
  extract_lets -merge +onlyGivenNames t0
  have h1 : Keeps o (t0) := .setPkt hx0
  clear_value t0
  refine .ite ?_ ?_
  · split
    · exact .pathCount h1
    · exact .pathCount (.dropRx (.release h1))
  · extract_lets -merge +onlyGivenNames t2
    have h3 : Keeps o (t2) := .endMpdu h1
    clear_value t2
    exact .pathCount (by
      split
      · exact h3
      · exact .ite (.endMpdu h3) (.dropFrame h3))

theorem Keeps.charge {o x0 : State} {x1 : Nat} {x2 : Nat} (hx0 : Keeps o x0) : KeepsOpt o (State.charge x0 x1 x2) := by
  unfold State.charge
  extract_lets -merge +onlyGivenNames t0 t1 t2 t3 t4
  clear_value t0 t1 t2 t3 t4
  refine .ite ?_ ?_
  · exact .some (.wf hx0)
  · refine .ite ?_ ?_
    · extract_lets -merge +onlyGivenNames t5 t7
      have h6 : Keeps o (t5) := .wf hx0
      have h8 : Keeps o (t7) := .wf (.wf h6)
      clear_value t5 t7
      exact .some (.ite (.raise h8) h8)
    · exact .none

theorem Keeps.takeCells {o x0 : State} {x1 : List Nat} {x2 : Nat} {x3 : Nat} (hx0 : Keeps o x0) : Keeps o (State.takeCells x0 x1 x2 x3).1 := by
  induction x3 generalizing x0 x1 x2 with
  | zero =>
    exact hx0
  | succ n ih =>
    rw [State.takeCells]
    exact ih (.used hx0)

theorem Keeps.setFrameBytes {o x0 : State} {x1 : Frame} {x2 : Nat} {x3 : List Byte} (hx0 : Keeps o x0) : Keeps o (State.setFrameBytes x0 x1 x2 x3) := by
  induction x3 generalizing x0 x1 x2 with
  | nil =>
    exact hx0
  | cons y l ih =>
    rw [State.setFrameBytes]
    exact ih (.setByte hx0)

theorem Keeps.putFrame {o x0 : State} {x1 : Nat} {x2 : List Byte} {x3 : List Word} (hx0 : Keeps o x0) : Keeps o (State.putFrame x0 x1 x2 x3).1 := by
  unfold State.putFrame
  extract_lets -merge +onlyGivenNames t0 t1 t3 t5 t6 t7 t9
  have h2 : Keeps o (t1).1 := .takeCells hx0
  have h4 : Keeps o (t3) := h2
  have h8 : Keeps o (t7) := .setPkt h4
  have h10 : Keeps o (t9) := .setWords h8
  clear_value t0 t1 t3 t5 t6 t7 t9
  exact .setFrameBytes h10

theorem Keeps.setHdr {o x0 : State} {x1 : Nat} {x2 : Nat} {x3 : Word} (hx0 : Keeps o x0) : Keeps o (State.setHdr x0 x1 x2 x3) :=
  .write32 hx0

theorem Keeps.toPpe {o x0 : State} {x1 : Nat} (hx0 : Keeps o x0) : Keeps o (State.toPpe x0 x1) :=
  .setPkt hx0

theorem Keeps.setFrame {o x0 : State} {x1 : Frame} (hx0 : Keeps o x0) : Keeps o (State.setFrame x0 x1) :=
  .setPkt hx0

theorem Keeps.countRefused {o x0 : State} (hx0 : Keeps o x0) : Keeps o (State.countRefused x0) :=
  .bump hx0

theorem Keeps.sendPause {o x0 : State} {x1 : Nat} (hx0 : Keeps o x0) : Keeps o (State.sendPause x0 x1) :=
  .ite (.setPkt (.emit hx0)) hx0

theorem Keeps.unreserve {o x0 : State} {x1 : RxSource} (hx0 : Keeps o x0) : Keeps o (State.unreserve x0 x1) := by
  unfold State.unreserve
  extract_lets -merge +onlyGivenNames t0 t1
  have h2 : Keeps o (t1) := .setPkt hx0
  clear_value t0 t1
  split
  · exact .release h2
  · exact .rxGive h2
  · exact .rxGive h2

theorem Keeps.txTake {o x0 : State} {x1 : Nat} {x2 : Nat} (hx0 : Keeps o x0) : Keeps o (State.txTake x0 x1 x2) :=
  .wf hx0

theorem Keeps.spansRead {o x0 : State} {x1 : Nat} {x2 : List (Nat × Nat)} (hx0 : Keeps o x0) : Keeps o (State.spansRead x0 x1 x2) :=
  .foldl (fun h => .eccRead h) hx0

theorem Keeps.rxTake {o x0 : State} {x1 : Nat} {x2 : Nat} (hx0 : Keeps o x0) : Keeps o (State.rxTake x0 x1 x2) :=
  .wf hx0

theorem Keeps.takeRun {o x0 : State} {x1 : Nat} {x2 : Nat} {x3 : Bool} (hx0 : Keeps o x0) : KeepsOpt1 o (State.takeRun x0 x1 x2 x3) := by
  unfold State.takeRun
  refine .ite ?_ ?_
  · exact .none
  · extract_lets -merge +onlyGivenNames t0
    clear_value t0
    split
    · exact .none
    · extract_lets -merge +onlyGivenNames t1 t2
      have h3 : Keeps o (t2) := .ite (.rxTake (.used hx0)) (.txTake (.used hx0))
      clear_value t1 t2
      exact .some (.setPkt h3)

theorem Keeps.stageStored {o x0 : State} {x1 : Xfer} (hx0 : Keeps o x0) : Keeps o (State.stageStored x0 x1) := by
  unfold State.stageStored
  extract_lets -merge +onlyGivenNames t0
  have h1 : Keeps o (t0) := .in_mpdus hx0
  clear_value t0
  split
  · exact h1
  · exact .ite (.endMpdu h1) (.dropFrame h1)

theorem Keeps.reserved {o x0 : State} {x1 : RxSource} {x2 : Nat} (hx0 : Keeps o x0) : Keeps o (State.reserved x0 x1 x2) :=
  .setPkt hx0

theorem Keeps.reserveRadio {o x0 : State} {x1 : RxSource} {x2 : Nat} {x3 : Nat} (hx0 : Keeps o x0) : Keeps o (State.reserveRadio x0 x1 x2 x3) := by
  unfold State.reserveRadio
  extract_lets -merge +onlyGivenNames t0
  clear_value t0
  exact .ite (.reserved (.rxTake hx0)) hx0

theorem Keeps.reserveEth {o x0 : State} {x1 : Fin 6} (hx0 : Keeps o x0) : Keeps o (State.reserveEth x0 x1) := by
  unfold State.reserveEth
  extract_lets -merge +onlyGivenNames t0
  clear_value t0
  split
  · exact .setPkt (.reserved ((Keeps.charge hx0) _ (by assumption)))
  · exact .sendPause (.bump (.countRefused hx0))

theorem Keeps.execReceiveReserve {o : State} {x0 : RxSource} {x1 : Nat} {x2 : State} (hx2 : Keeps o x2) : KeepsOut o (execReceiveReserve x0 x1 x2) := by
  unfold Sys2Proof.Machine.execReceiveReserve
  extract_lets -merge +onlyGivenNames t0
  have h1 : Keeps o (t0) := .unreserve hx2
  clear_value t0
  split
  · exact .next (.reserveEth h1)
  · exact .next (.reserveRadio h1)
  · exact .next (.reserveRadio h1)

theorem Keeps.releaseStored {o x0 : State} {x1 : RxMpdu} (hx0 : Keeps o x0) : Keeps o (State.releaseStored x0 x1) := by
  unfold State.releaseStored
  extract_lets -merge +onlyGivenNames t0 t1
  have h2 : Keeps o (t1).1 := .putFrame hx0
  clear_value t0 t1
  exact .dropRx (.toPpe h2)

theorem Keeps.execFrameStored {o : State} {x0 : WRadio} {x1 : Bool} {x2 : State} (hx2 : Keeps o x2) : KeepsOut o (execFrameStored x0 x1 x2) := by
  unfold Sys2Proof.Machine.execFrameStored
  split
  · exact .next hx2
  · extract_lets -merge +onlyGivenNames t0 t1
    have h2 : Keeps o (t1) := .spansRead hx2
    clear_value t0 t1
    refine .ite ?_ ?_
    · exact .next (.pathDrop h2)
    · extract_lets -merge +onlyGivenNames t3
      have h4 : Keeps o (t3) := .setPkt h2
      clear_value t3
      refine .ite ?_ ?_
      · split
        · exact .next h4
        · exact .next (.releaseStored h4)
      · exact .next (.stageStored h4)

theorem Keeps.execFrameForward {o : State} {x0 : WRadio} {x1 : State} (hx1 : Keeps o x1) : KeepsOut o (execFrameForward x0 x1) := by
  unfold Sys2Proof.Machine.execFrameForward
  split
  · exact .next hx1
  · split
    · exact .next (.countRefused hx1)
    · exact .next (.setPkt ((Keeps.charge hx1) _ (by assumption)))

theorem Keeps.execCreditReturn {o : State} {x0 : Radio} {x1 : Nat} {x2 : State} (hx2 : Keeps o x2) : KeepsOut o (execCreditReturn x0 x1 x2) := by
  unfold Sys2Proof.Machine.execCreditReturn
  split
  · exact .next hx2
  · extract_lets -merge +onlyGivenNames t0
    have h1 : Keeps o (t0) := .setPkt hx2
    clear_value t0
    exact .next (.ite (.rxGive h1) (.txGive h1))

/-! Chk -/

theorem Keeps.setCh {o x0 : State} {x1 : Nat} {x2 : DmaChan} (hx0 : Keeps o x0) : Keeps o (State.setCh x0 x1 x2) :=
  .in_dma hx0

theorem Keeps.scanBusy {o x0 : State} (hx0 : Keeps o x0) : Keeps o (State.scanBusy x0) :=
  .raise (.wf hx0)

theorem Keeps.chkInit {o x0 : State} {x1 : Nat} (hx0 : Keeps o x0) : Keeps o (State.chkInit x0 x1) := by
  unfold State.chkInit
  extract_lets -merge +onlyGivenNames t0
  have h1 : Keeps o (t0) := .setRegN hx0
  clear_value t0
  exact .setRegN (.setRegN h1)

theorem Keeps.scanCtrl {o : State} {x0 : Nat} {x1 : Word} {x2 : State} (hx2 : Keeps o x2) : Keeps o (State.scanCtrl x0 x1 x2) := by
  unfold State.scanCtrl
  refine .ite ?_ ?_
  · refine .ite ?_ ?_
    · exact .scanBusy hx2
    · refine .ite ?_ ?_
      · exact .scanBusy hx2
      · extract_lets -merge +onlyGivenNames t0
        have h1 : Keeps o (t0) := .wb (.writeReg hx2)
        clear_value t0
        exact .ite (.chkInit h1) h1
  · exact .ite (.writeReg hx2) (.ite (.ite (.wb hx2) hx2) (.writeReg hx2))

theorem Keeps.chkRefuse {o x0 : State} {x1 : Nat} {x2 : Nat} (hx0 : Keeps o x0) : Keeps o (State.chkRefuse x0 x1 x2) :=
  .refuse hx0

theorem Keeps.chkPreset {o : State} {x0 : Nat} {x1 : Word} {x2 : State} (hx2 : Keeps o x2) : Keeps o (State.chkPreset x0 x1 x2) := by
  unfold State.chkPreset
  extract_lets -merge +onlyGivenNames t0
  clear_value t0
  refine .ite ?_ ?_
  · exact .chkRefuse hx2
  · refine .ite ?_ ?_
    · exact .chkRefuse hx2
    · extract_lets -merge +onlyGivenNames t1
      have h2 : Keeps o (t1) := .wf hx2
      clear_value t1
      refine .ite ?_ ?_
      · exact .chkInit h2
      · extract_lets -merge +onlyGivenNames t3 t4
        have h5 : Keeps o (t4) := .setRegN (.setRegN (.setRegN h2))
        clear_value t3 t4
        exact .chkInit (.setRegN h5)

theorem Keeps.chkConfig {o : State} {x0 : Nat} {x1 : Nat} {x2 : Nat} {x3 : Word} {x4 : State} (hx4 : Keeps o x4) : Keeps o (State.chkConfig x0 x1 x2 x3 x4) := by
  unfold State.chkConfig
  refine .ite ?_ ?_
  · exact .writeReg hx4
  · refine .ite ?_ ?_
    · exact .chkRefuse hx4
    · extract_lets -merge +onlyGivenNames t0
      have h1 : Keeps o (t0) := .writeReg hx4
      clear_value t0
      exact .ite (.wf h1) h1

theorem Keeps.chkStateWrite {o : State} {x0 : Nat} {x1 : Nat} {x2 : Nat} {x3 : Word} {x4 : State} (hx4 : Keeps o x4) : Keeps o (State.chkStateWrite x0 x1 x2 x3 x4) :=
  .ite (.chkRefuse hx4) (.writeReg hx4)

theorem Keeps.sumByte {o x0 : State} {x1 : Nat} {x2 : Byte} (hx0 : Keeps o x0) : Keeps o (State.sumByte x0 x1 x2) := by
  unfold State.sumByte
  extract_lets -merge +onlyGivenNames t0
  clear_value t0
  exact .ite (.setRegN (.setRegN hx0)) (.setRegN hx0)

theorem Keeps.chkFeed {o x0 : State} {x1 : Nat} {x2 : List Byte} (hx0 : Keeps o x0) : Keeps o (State.chkFeed x0 x1 x2) := by
  unfold State.chkFeed
  extract_lets -merge +onlyGivenNames t0
  have h1 : Keeps o (t0) := .setRegN hx0
  clear_value t0
  refine .ite ?_ ?_
  · exact .foldl (fun h => .sumByte h) h1
  · extract_lets -merge +onlyGivenNames t2
    clear_value t2
    exact .setRegN h1

theorem Keeps.chkData {o : State} {x0 : Nat} {x1 : Nat} {x2 : Word} {x3 : State} (hx3 : Keeps o x3) : Keeps o (State.chkData x0 x1 x2 x3) :=
  .ite (.chkRefuse hx3) (.chkFeed hx3)

theorem Keeps.chkCmd {o : State} {x0 : Nat} {x1 : Word} {x2 : State} (hx2 : Keeps o x2) : Keeps o (State.chkCmd x0 x1 x2) :=
  .ite (.chkRefuse hx2) (.ite (.chkInit hx2) hx2)

theorem Keeps.execChkPreset {o : State} {x0 : Init} {x1 : Fin 16} {x2 : Word} {x3 : State} (hx3 : Keeps o x3) : KeepsOut o (execChkPreset x0 x1 x2 x3) := by
  unfold Sys2Proof.Machine.execChkPreset
  exact .next (.onWrite hx3 (fun h0 => .chkPreset h0))

theorem Keeps.execChkConfigWrite {o : State} {x0 : Init} {x1 : Fin 16} {x2 : Fin 4} {x3 : Word} {x4 : State} (hx4 : Keeps o x4) : KeepsOut o (execChkConfigWrite x0 x1 x2 x3 x4) := by
  unfold Sys2Proof.Machine.execChkConfigWrite
  exact .next (.onWrite hx4 (fun h0 => .chkConfig h0))

theorem Keeps.execChkDataFeed {o : State} {x0 : Init} {x1 : Fin 16} {x2 : Fin 3} {x3 : Word} {x4 : State} (hx4 : Keeps o x4) : KeepsOut o (execChkDataFeed x0 x1 x2 x3 x4) := by
  unfold Sys2Proof.Machine.execChkDataFeed
  exact .next (.onWrite hx4 (fun h0 => .chkData h0))

theorem Keeps.execChkInit {o : State} {x0 : Init} {x1 : Fin 16} {x2 : Word} {x3 : State} (hx3 : Keeps o x3) : KeepsOut o (execChkInit x0 x1 x2 x3) := by
  unfold Sys2Proof.Machine.execChkInit
  exact .next (.onWrite hx3 (fun h0 => .chkCmd h0))

theorem Keeps.execScanGo {o : State} {x0 : Init} {x1 : Word} {x2 : State} (hx2 : Keeps o x2) : KeepsOut o (execScanGo x0 x1 x2) := by
  unfold Sys2Proof.Machine.execScanGo
  exact .next (.onWrite hx2 (fun h0 => .scanCtrl h0))

theorem Keeps.execScanStop {o : State} {x0 : Init} {x1 : Word} {x2 : State} (hx2 : Keeps o x2) : KeepsOut o (execScanStop x0 x1 x2) := by
  unfold Sys2Proof.Machine.execScanStop
  exact .next (.onWrite hx2 (fun h0 => .scanCtrl h0))

/-! CrySlot -/

theorem Keeps.setPke {o x0 : State} {x1 : PkeSt → PkeSt} (hx0 : Keeps o x0) : Keeps o (State.setPke x0 x1) :=
  .in_pke hx0

theorem Keeps.setCry {o x0 : State} {x1 : CrySt → CrySt} (hx0 : Keeps o x0) : Keeps o (State.setCry x0 x1) :=
  .in_cry hx0

theorem Keeps.keyPop {o : State} {x0 : Init} {x1 : State} (hx1 : Keeps o x1) : Keeps o (State.keyPop x0 x1) := by
  unfold State.keyPop
  split
  · exact .answer hx1
  · exact .answer (.setCry hx1)

theorem Keeps.draw {o x0 : State} {x1 : Nat} (hx0 : Keeps o x0) : Keeps o (State.draw x0 x1).1 := by
  unfold State.draw
  extract_lets -merge +onlyGivenNames t0 t1
  have h2 : Keeps o (t1) := .used hx0
  clear_value t0 t1
  refine .iteP ?_ ?_
  · exact .setPke h2
  · exact .bump (.setPke h2)

theorem Keeps.cryCount {o x0 : State} {x1 : Nat} (hx0 : Keeps o x0) : Keeps o (State.cryCount x0 x1) :=
  .ite (.bump hx0) (.ite (.bump hx0) (.ite (.bump hx0) (.ite (.bump hx0) hx0)))

theorem Keeps.postKey {o x0 : State} {x1 : Nat} {x2 : Nat} {x3 : Nat} (hx0 : Keeps o x0) : Keeps o (State.postKey x0 x1 x2 x3) :=
  .ite (.setCry hx0) (.bump hx0)

theorem Keeps.keyDone {o x0 : State} {x1 : Nat} {x2 : Nat} {x3 : Nat} (hx0 : Keeps o x0) : Keeps o (State.keyDone x0 x1 x2 x3) := by
  unfold State.keyDone
  extract_lets -merge +onlyGivenNames t0
  have h1 : Keeps o (t0) := .ite hx0 (.raise (.errSet (.cryCount hx0)))
  clear_value t0
  exact .postKey h1

theorem Keeps.keyRun {o x0 : State} {x1 : Nat} {x2 : Nat} {x3 : Nat} {x4 : State → Nat → State × Nat} (hx0 : Keeps o x0) (hx4 : ∀ {y0} {y1}, Keeps o y0 → Keeps o (x4 y0 y1).1) : Keeps o (State.keyRun x0 x1 x2 x3 x4) := by
  unfold State.keyRun
  split
  · exact .keyDone hx0
  · extract_lets -merge +onlyGivenNames t0
    have h1 : Keeps o (t0).1 := hx4 hx0
    clear_value t0
    exact .keyDone h1

theorem Keeps.clearKdata {o x0 : State} {x1 : Nat} (hx0 : Keeps o x0) : Keeps o (State.clearKdata x0 x1) := by
  induction x1 generalizing x0 with
  | zero =>
    exact hx0
  | succ n ih =>
    rw [State.clearKdata]
    exact .setReg (ih hx0)

theorem Keeps.setSlot {o x0 : State} {x1 : Nat} {x2 : KeySlot} (hx0 : Keeps o x0) : Keeps o (State.setSlot x0 x1 x2) :=
  .setCry hx0

theorem Keeps.loadSlot {o x0 : State} {x1 : Nat} {x2 : Nat} {x3 : Nat} {x4 : Word} {x5 : List Byte} (hx0 : Keeps o x0) : Keeps o (State.loadSlot x0 x1 x2 x3 x4 x5) := by
  unfold State.loadSlot
  extract_lets -merge +onlyGivenNames t0
  clear_value t0
  exact .setSlot hx0

theorem Keeps.keyLoad {o x0 : State} {x1 : Nat} (hx0 : Keeps o x0) : Keeps o (State.keyLoad x0 x1).1 := by
  unfold State.keyLoad
  refine .iteP ?_ ?_
  · exact .clearKdata hx0
  · extract_lets -merge +onlyGivenNames t0 t1
    clear_value t0 t1
    exact .clearKdata (.loadSlot hx0)

theorem Keeps.keyUnwrapCmd {o x0 : State} {x1 : Nat} (hx0 : Keeps o x0) : Keeps o (State.keyUnwrapCmd x0 x1).1 := by
  unfold State.keyUnwrapCmd
  split
  · exact hx0
  · extract_lets -merge +onlyGivenNames t0 t1
    clear_value t0 t1
    refine .iteP ?_ ?_
    · exact hx0
    · extract_lets -merge +onlyGivenNames t2
      have h3 : Keeps o (t2) := .eccRead hx0
      clear_value t2
      refine .iteP ?_ ?_
      · exact h3
      · split
        · exact h3
        · extract_lets -merge +onlyGivenNames t4 t5
          clear_value t4 t5
          refine .iteP ?_ ?_
          · exact h3
          · exact .loadSlot h3

theorem Keeps.keyGen {o x0 : State} {x1 : Nat} (hx0 : Keeps o x0) : Keeps o (State.keyGen x0 x1).1 := by
  unfold State.keyGen
  extract_lets -merge +onlyGivenNames t0
  clear_value t0
  refine .iteP ?_ ?_
  · exact hx0
  · refine .iteP ?_ ?_
    · exact hx0
    · extract_lets -merge +onlyGivenNames t1
      have h2 : Keeps o (t1).1 := .draw hx0
      clear_value t1
      exact .loadSlot h2

theorem Keeps.keyExport {o x0 : State} {x1 : Nat} (hx0 : Keeps o x0) : Keeps o (State.keyExport x0 x1).1 := by
  unfold State.keyExport
  extract_lets -merge +onlyGivenNames t0
  clear_value t0
  split
  · exact hx0
  · refine .iteP ?_ ?_
    · exact hx0
    · refine .iteP ?_ ?_
      · exact hx0
      · extract_lets -merge +onlyGivenNames t1
        clear_value t1
        exact .store hx0

theorem Keeps.keyErase {o x0 : State} {x1 : Nat} {x2 : Nat} (hx0 : Keeps o x0) : Keeps o (State.keyErase x0 x1 x2) :=
  .ite (.setSlot hx0) (.keyDone hx0)

theorem Keeps.keyAttr {o x0 : State} {x1 : Nat} (hx0 : Keeps o x0) : Keeps o (State.keyAttr x0 x1).1 := by
  unfold State.keyAttr
  extract_lets -merge +onlyGivenNames t0
  clear_value t0
  exact .setSlot hx0

theorem Keeps.keyInfo {o x0 : State} {x1 : Nat} (hx0 : Keeps o x0) : Keeps o (State.keyInfo x0 x1).1 := by
  unfold State.keyInfo
  extract_lets -merge +onlyGivenNames t0 t1 t2 t3 t5 t7
  have h4 : Keeps o (t3) := .setRegN hx0
  have h6 : Keeps o (t5) := .setReg (.setReg h4)
  have h8 : Keeps o (t7) := .setReg h6
  clear_value t0 t1 t2 t3 t5 t7
  exact .setRegN h8

theorem Keeps.keyCmd {o x0 : State} {x1 : Nat} {x2 : Nat} {x3 : Nat} (hx0 : Keeps o x0) : Keeps o (State.keyCmd x0 x1 x2 x3) := by
  unfold State.keyCmd
  refine .ite ?_ ?_
  · exact .keyRun hx0 (fun h0 => .keyLoad h0)
  · refine .ite ?_ ?_
    · exact .keyRun hx0 (fun h1 => .keyUnwrapCmd h1)
    · refine .ite ?_ ?_
      · exact .keyRun hx0 (fun h2 => .keyGen h2)
      · refine .ite ?_ ?_
        · exact .keyRun hx0 (fun h3 => .keyExport h3)
        · refine .ite ?_ ?_
          · split
            · exact .keyDone hx0
            · exact .keyErase hx0
          · exact .ite (.keyRun hx0 (fun h4 => .keyAttr h4)) (.ite (.keyRun hx0 (fun h5 => .keyInfo h5)) (.keyDone hx0))

theorem Keeps.execCryUnwrap {o : State} {x0 : Init} {x1 : BitVec 8} {x2 : Fin 1024} {x3 : State} (hx3 : Keeps o x3) : KeepsOut o (execCryUnwrap x0 x1 x2 x3) := by
  unfold Sys2Proof.Machine.execCryUnwrap
  exact .next (.onWrite hx3 (fun h0 => .keyCmd h0))

theorem Keeps.execCryErase {o : State} {x0 : Init} {x1 : BitVec 8} {x2 : Fin 1024} {x3 : State} (hx3 : Keeps o x3) : KeepsOut o (execCryErase x0 x1 x2 x3) := by
  unfold Sys2Proof.Machine.execCryErase
  exact .next (.onWrite hx3 (fun h0 => .keyCmd h0))

theorem Keeps.execCryExport {o : State} {x0 : Init} {x1 : BitVec 8} {x2 : Fin 1024} {x3 : State} (hx3 : Keeps o x3) : KeepsOut o (execCryExport x0 x1 x2 x3) := by
  unfold Sys2Proof.Machine.execCryExport
  exact .next (.onWrite hx3 (fun h0 => .keyCmd h0))

theorem Keeps.execCryGen {o : State} {x0 : Init} {x1 : BitVec 8} {x2 : Fin 1024} {x3 : State} (hx3 : Keeps o x3) : KeepsOut o (execCryGen x0 x1 x2 x3) := by
  unfold Sys2Proof.Machine.execCryGen
  exact .next (.onWrite hx3 (fun h0 => .keyCmd h0))

theorem Keeps.execCryInfo {o : State} {x0 : Init} {x1 : BitVec 8} {x2 : Fin 1024} {x3 : State} (hx3 : Keeps o x3) : KeepsOut o (execCryInfo x0 x1 x2 x3) := by
  unfold Sys2Proof.Machine.execCryInfo
  exact .next (.onWrite hx3 (fun h0 => .keyCmd h0))

theorem Keeps.execCryLoad {o : State} {x0 : Init} {x1 : BitVec 8} {x2 : Fin 1024} {x3 : State} (hx3 : Keeps o x3) : KeepsOut o (execCryLoad x0 x1 x2 x3) := by
  unfold Sys2Proof.Machine.execCryLoad
  exact .next (.onWrite hx3 (fun h0 => .keyCmd h0))

theorem Keeps.execCryAttr {o : State} {x0 : Init} {x1 : BitVec 8} {x2 : Fin 1024} {x3 : State} (hx3 : Keeps o x3) : KeepsOut o (execCryAttr x0 x1 x2 x3) := by
  unfold Sys2Proof.Machine.execCryAttr
  exact .next (.onWrite hx3 (fun h0 => .keyCmd h0))

theorem Keeps.execCryKeyResultPop {o : State} {x0 : Init} {x1 : State} (hx1 : Keeps o x1) : KeepsOut o (execCryKeyResultPop x0 x1) := by
  unfold Sys2Proof.Machine.execCryKeyResultPop
  exact .next (.onRead hx1 (fun h0 => .keyPop h0))

/-! CryPage -/

theorem Keeps.setPage {o x0 : State} {x1 : Nat} {x2 : CryPage → CryPage} (hx0 : Keeps o x0) : Keeps o (State.setPage x0 x1 x2) :=
  .setCry hx0

theorem Keeps.crySync {o x0 : State} (hx0 : Keeps o x0) : Keeps o (State.crySync x0) :=
  .wf (.wb hx0)

theorem Keeps.pageHalt {o x0 : State} {x1 : Nat} {x2 : Nat} (hx0 : Keeps o x0) : Keeps o (State.pageHalt x0 x1 x2) :=
  .wf (.wf (.wf hx0))

theorem Keeps.pgHandBack {o x0 : State} {x1 : CryOp} {x2 : Nat} {x3 : Nat} (hx0 : Keeps o x0) : Keeps o (State.pgHandBack x0 x1 x2 x3) := by
  unfold State.pgHandBack
  extract_lets -merge +onlyGivenNames t0 t1 t2 t3 t4 t6 t8 t10 t12 t14
  have h5 : Keeps o (t4) := .write32 hx0
  have h7 : Keeps o (t6) := .write32 h5
  have h9 : Keeps o (t8) := .wmf h7
  have h11 : Keeps o (t10) := .wf (.wf h9)
  have h13 : Keeps o (t12) := .ite (.wf h11) h11
  have h15 : Keeps o (t14) := .ite (.pageHalt h13) h13
  clear_value t0 t1 t2 t3 t4 t6 t8 t10 t12 t14
  exact .ite (.raise h15) h15

theorem Keeps.pgFlush {o x0 : State} {x1 : Nat} {x2 : Nat} (hx0 : Keeps o x0) : Keeps o (State.pgFlush x0 x1 x2) := by
  induction x2 generalizing x0 x1 with
  | zero =>
    exact hx0
  | succ n ih =>
    rw [State.pgFlush]
    split
    · exact .ite (.setPage (.wf hx0)) hx0
    · split
      · exact hx0
      · exact ih (.setCry (.pgHandBack hx0))

theorem Keeps.pgSettle {o x0 : State} {x1 : Nat} (hx0 : Keeps o x0) : Keeps o (State.pgSettle x0 x1) :=
  .crySync (.pgFlush hx0)

theorem Keeps.setCtx {o x0 : State} {x1 : Nat} {x2 : Nat} {x3 : CryCtx} (hx0 : Keeps o x0) : Keeps o (State.setCtx x0 x1 x2 x3) :=
  .setCry hx0

theorem Keeps.execPageDoorbell {o : State} {x0 : Init} {x1 : Fin 32} {x2 : Word} {x3 : State} (hx3 : Keeps o x3) : KeepsOut o (execPageDoorbell x0 x1 x2 x3) := by
  unfold Sys2Proof.Machine.execPageDoorbell
  exact .next (.onWrite hx3 (fun h0 => .ite (.setPage h0) h0))

theorem Keeps.opCount {o x0 : State} {x1 : CryOp} {x2 : Nat} (hx0 : Keeps o x0) : Keeps o (State.opCount x0 x1 x2) := by
  unfold State.opCount
  extract_lets -merge +onlyGivenNames t0
  have h1 : Keeps o (t0) := .ite (.bump hx0) (.cryCount hx0)
  clear_value t0
  exact .ite h1 (.ite (.wf h1) (.ite (.wf h1) h1))

theorem Keeps.opEnd {o x0 : State} {x1 : Nat} {x2 : Nat} {x3 : List Byte} {x4 : List Byte} (hx0 : Keeps o x0) : Keeps o (State.opEnd x0 x1 x2 x3 x4) := by
  unfold State.opEnd
  split
  · exact hx0
  · extract_lets -merge +onlyGivenNames t0
    have h1 : Keeps o (t0) := .opCount hx0
    clear_value t0
    refine .ite ?_ ?_
    · exact .pgSettle (.setCry h1)
    · extract_lets -merge +onlyGivenNames t2
      have h3 : Keeps o (t2) := .crySync (.setCry h1)
      clear_value t2
      split
      · exact .setCry h3
      · exact .emit h3

theorem Keeps.discard {o x0 : State} {x1 : CryOp} (hx0 : Keeps o x0) : Keeps o (State.discard x0 x1) :=
  .ite (.store (.used hx0)) hx0

theorem Keeps.opAbort {o x0 : State} {x1 : Nat} (hx0 : Keeps o x0) : Keeps o (State.opAbort x0 x1) := by
  unfold State.opAbort
  split
  · exact hx0
  · exact .ite hx0 (.opEnd (.discard hx0))

theorem Keeps.abortAll {o x0 : State} {x1 : CryOp → Bool} {x2 : State → State} {x3 : Nat} (hx0 : Keeps o x0) (hx2 : ∀ {y0}, Keeps o y0 → Keeps o (x2 y0)) : Keeps o (State.abortAll x0 x1 x2 x3) := by
  induction x3 generalizing x0 x1 x2 with
  | zero =>
    exact hx0
  | succ n ih =>
    rw [State.abortAll]
    split
    · exact hx0
    · exact ih (hx2 (.opAbort hx0)) hx2

theorem Keeps.giveCore {o x0 : State} {x1 : Nat} {x2 : Nat} (hx0 : Keeps o x0) : Keeps o (State.giveCore x0 x1 x2) := by
  unfold State.giveCore
  split
  · exact hx0
  · extract_lets -merge +onlyGivenNames t0
    have h1 : Keeps o (t0) := .setCry hx0
    clear_value t0
    refine .ite ?_ ?_
    · exact .crySync (.setCry h1)
    · split
      · extract_lets -merge +onlyGivenNames t2
        have h3 : Keeps o (t2) := .ite (.setCtx h1) h1
        clear_value t2
        exact .opEnd h3
      · exact .crySync (.setCry h1)

theorem Keeps.pieceCtx {o x0 : State} {x1 : CryOp} {x2 : CryCtx} {x3 : OpYield} (hx0 : Keeps o x0) : Keeps o (State.pieceCtx x0 x1 x2 x3) :=
  .ite hx0 (.ite (.setCtx hx0) (.setCtx hx0))

theorem Keeps.fwRun {o x0 : State} {x1 : Nat} {x2 : CryOp} (hx0 : Keeps o x0) : Keeps o (State.fwRun x0 x1 x2) := by
  unfold State.fwRun
  extract_lets -merge +onlyGivenNames t0 t1
  clear_value t0 t1
  refine .ite ?_ ?_
  · exact .opEnd hx0
  · extract_lets -merge +onlyGivenNames t2 t3
    have h4 : Keeps o (t3) := .foldl (fun h => .eccRead h) hx0
    clear_value t2 t3
    refine .ite ?_ ?_
    · exact .opEnd h4
    · extract_lets -merge +onlyGivenNames t5 t6 t8
      have h7 : Keeps o (t6) := .pieceCtx h4
      clear_value t5 t6 t8
      refine .ite ?_ ?_
      · exact .opEnd h7
      · refine .ite ?_ ?_
        · exact .opEnd h7
        · extract_lets -merge +onlyGivenNames t9 t10 t12
          have h11 : Keeps o (t10) := .store h7
          have h13 : Keeps o (t12) := .ite (.store h11) h11
          clear_value t9 t10 t12
          exact .opEnd h13

theorem Keeps.pgTake {o x0 : State} {x1 : Nat} {x2 : Nat} (hx0 : Keeps o x0) : Keeps o (State.pgTake x0 x1 x2) := by
  unfold State.pgTake
  extract_lets -merge +onlyGivenNames t0
  clear_value t0
  refine .ite ?_ ?_
  · exact .setPage hx0
  · extract_lets -merge +onlyGivenNames t1 t2 t3
    clear_value t1 t2 t3
    exact .pgSettle (.setCry hx0)

theorem Keeps.execCryDescriptorFetch {o : State} {x0 : Fin 32} {x1 : State} (hx1 : Keeps o x1) : KeepsOut o (execCryDescriptorFetch x0 x1) := by
  unfold Sys2Proof.Machine.execCryDescriptorFetch
  refine .ite ?_ ?_
  · exact .next hx1
  · extract_lets -merge +onlyGivenNames t0 t1 t2
    clear_value t0 t1 t2
    refine .ite ?_ ?_
    · exact .next (.raise (.pageHalt hx1))
    · refine .ite ?_ ?_
      · exact .next (.raise (.pageHalt hx1))
      · refine .ite ?_ ?_
        · exact .next (.raise (.pageHalt (.eccRead hx1)))
        · exact .next (.pgTake (.eccRead hx1))

theorem Keeps.execCoreAssign {o x0 : State} (hx0 : Keeps o x0) : KeepsOut o (execCoreAssign x0) := by
  unfold Sys2Proof.Machine.execCoreAssign
  split
  · split
    · exact .next hx0
    · exact .next (.giveCore hx0)
  · split
    · exact .next hx0
    · split
      · exact .next hx0
      · extract_lets -merge +onlyGivenNames t0
        have h1 : Keeps o (t0) := .bump (.setCry hx0)
        clear_value t0
        exact .next (.giveCore h1)

theorem Keeps.execInlineOperation {o : State} {x0 : Fin 6} {x1 : InlineOp} {x2 : State} (hx2 : Keeps o x2) : KeepsOut o (execInlineOperation x0 x1 x2) := by
  unfold Sys2Proof.Machine.execInlineOperation
  extract_lets -merge +onlyGivenNames t0
  clear_value t0
  refine .ite ?_ ?_
  · exact .next hx2
  · refine .ite ?_ ?_
    · exact .next (.emit hx2)
    · refine .ite ?_ ?_
      · exact .next (.emit hx2)
      · exact .next (.crySync (.setCry hx2))

theorem Keeps.inlineRun {o x0 : State} {x1 : Nat} {x2 : CryOp} (hx0 : Keeps o x0) : Keeps o (State.inlineRun x0 x1 x2) := by
  unfold State.inlineRun
  extract_lets -merge +onlyGivenNames t0 t1
  clear_value t0 t1
  exact .ite (.opEnd hx0) (.ite (.opEnd hx0) (.opEnd hx0))

/-! StpBase -/

theorem Keeps.keepLim {o x0 : State} {x1 : Nat} (hx0 : Keeps o x0) : Keeps o (State.keepLim x0 x1) :=
  .ite (.setRec hx0) hx0

theorem Keeps.setStp {o x0 : State} {x1 : StpSt → StpSt} (hx0 : Keeps o x0) : Keeps o (State.setStp x0 x1) :=
  .in_stp hx0

theorem Keeps.setRecGt {o x0 : State} {x1 : Nat} {x2 : Nat} {x3 : GTime} (hx0 : Keeps o x0) : Keeps o (State.setRecGt x0 x1 x2 x3) :=
  .writeN hx0

theorem Keeps.setRecState {o x0 : State} {x1 : Nat} {x2 : Nat} (hx0 : Keeps o x0) : Keeps o (State.setRecState x0 x1 x2) := by
  unfold State.setRecState
  extract_lets -merge +onlyGivenNames t0
  clear_value t0
  exact .wf (.setRec hx0)

theorem Keeps.putMpdu {o x0 : State} {x1 : Mpdu} {x2 : Option Nat} {x3 : Bool} (hx0 : Keeps o x0) : Keeps o (State.putMpdu x0 x1 x2 x3) :=
  .setPkt (.txTake (.upd (.takeCells hx0) rfl))

theorem Keeps.raiseDebt {o x0 : State} {x1 : Nat} (hx0 : Keeps o x0) : Keeps o (State.raiseDebt x0 x1) := by
  unfold State.raiseDebt
  extract_lets -merge +onlyGivenNames t0
  clear_value t0
  split
  · exact hx0
  · exact .ite (.setRec hx0) hx0

theorem Keeps.keepHol {o x0 : State} {x1 : Nat} {x2 : Nat} (hx0 : Keeps o x0) : Keeps o (State.keepHol x0 x1 x2) := by
  unfold State.keepHol
  extract_lets -merge +onlyGivenNames t0
  clear_value t0
  exact .setRec hx0

theorem Keeps.reportIn {o x0 : State} {x1 : Nat} {x2 : Nat} {x3 : Nat} (hx0 : Keeps o x0) : Keeps o (State.reportIn x0 x1 x2 x3) := by
  unfold State.reportIn
  refine .ite ?_ ?_
  · exact hx0
  · extract_lets -merge +onlyGivenNames t0 t1
    have h2 : Keeps o (t1) := .ite (.raiseDebt hx0) hx0
    clear_value t0 t1
    exact .keepHol (.setRec h2)

theorem Keeps.reportOut {o x0 : State} {x1 : Nat} {x2 : Nat} {x3 : Nat} (hx0 : Keeps o x0) : Keeps o (State.reportOut x0 x1 x2 x3) :=
  .ite hx0 (.keepHol (.setRec hx0))

theorem Keeps.takePn {o x0 : State} {x1 : Nat} {x2 : Nat} (hx0 : Keeps o x0) : Keeps o (State.takePn x0 x1 x2).1 := by
  unfold State.takePn
  extract_lets -merge +onlyGivenNames t0 t1
  clear_value t0 t1
  exact .writeN hx0

theorem Keeps.encFail {o x0 : State} {x1 : Nat} {x2 : Bool} (hx0 : Keeps o x0) : Keeps o (State.encFail x0 x1 x2) := by
  unfold State.encFail
  extract_lets -merge +onlyGivenNames t0
  clear_value t0
  exact .raise (.bump hx0)

theorem Keeps.takeSn {o x0 : State} {x1 : Nat} {x2 : Nat} (hx0 : Keeps o x0) : Keeps o (State.takeSn x0 x1 x2).1 := by
  unfold State.takeSn
  extract_lets -merge +onlyGivenNames t0 t1 t2
  clear_value t0 t1 t2
  exact .setRec hx0

theorem Keeps.stageOn {o x0 : State} {x1 : Nat} {x2 : Nat} {x3 : Frame} {x4 : Bool} (hx0 : Keeps o x0) : Keeps o (State.stageOn x0 x1 x2 x3 x4) := by
  unfold State.stageOn
  extract_lets -merge +onlyGivenNames t0 t1 t2 t3 t4 t5 t7 t9
  have h6 : Keeps o (t5).1 := .takeSn hx0
  have h8 : Keeps o (t7).1 := by
    unfold t7
    clear_value t0 t1 t2 t4
    refine .iteP ?_ ?_
    · exact .takePn h6
    · exact h6
  have h10 : Keeps o (t9) := h8
  clear_value t0 t1 t2 t4 t5 t7 t9
  refine .ite ?_ ?_
  · exact .dropFrame (.encFail h10)
  · extract_lets -merge +onlyGivenNames t11 t12 t14
    have h13 : Keeps o (t12) := .putMpdu h10
    have h15 : Keeps o (t14) := .setRec h13
    clear_value t11 t12 t14
    exact .setRec h15

/-! Qmg -/

theorem Keeps.qPop {o : State} {x0 : Init} {x1 : State} (hx1 : Keeps o x1) : Keeps o (State.qPop x0 x1) := by
  unfold State.qPop
  split
  · exact .answer hx1
  · exact .answer (.setPkt hx1)

theorem Keeps.refill {o x0 : State} {x1 : Nat} {x2 : Nat} {x3 : Nat} {x4 : Int} (hx0 : Keeps o x0) : Keeps o (State.refill x0 x1 x2 x3 x4).1 := by
  unfold State.refill
  extract_lets -merge +onlyGivenNames t0 t1 t2 t3
  clear_value t0 t1 t2
  exact .setPkt hx0

theorem Keeps.setRegI {o x0 : State} {x1 : Nat} {x2 : Int} (hx0 : Keeps o x0) : Keeps o (State.setRegI x0 x1 x2) :=
  .setRegN hx0

theorem Keeps.polRefill {o x0 : State} {x1 : Nat} (hx0 : Keeps o x0) : Keeps o (State.polRefill x0 x1) := by
  unfold State.polRefill
  extract_lets -merge +onlyGivenNames t0 t2 t4
  have h1 : Keeps o (t0).1 := .refill hx0
  have h3 : Keeps o (t2) := .setRegI h1
  have h5 : Keeps o (t4).1 := .refill h3
  clear_value t0 t2 t4
  exact .setRegI h5

theorem Keeps.qmgRefuse {o x0 : State} {x1 : Nat} (hx0 : Keeps o x0) : Keeps o (State.qmgRefuse x0 x1) :=
  .refuse hx0

theorem Keeps.qmgSync {o x0 : State} (hx0 : Keeps o x0) : Keeps o (State.qmgSync x0) :=
  .wb hx0

theorem Keeps.qPush {o x0 : State} {x1 : Word} (hx0 : Keeps o x0) : Keeps o (State.qPush x0 x1) := by
  unfold State.qPush
  refine .ite ?_ ?_
  · exact hx0
  · split
    · exact .qmgRefuse hx0
    · extract_lets -merge +onlyGivenNames t0
      clear_value t0
      exact .qmgSync (.setPkt hx0)

theorem Keeps.setSel {o x0 : State} {x1 : Nat} {x2 : List Nat} (hx0 : Keeps o x0) : Keeps o (State.setSel x0 x1 x2) :=
  .setPkt hx0

theorem Keeps.freeSel {o x0 : State} {x1 : Nat} {x2 : Nat} (hx0 : Keeps o x0) : Keeps o (State.freeSel x0 x1 x2) := by
  unfold State.freeSel
  extract_lets -merge +onlyGivenNames t0 t1
  have h2 : Keeps o (t1) := .setSel hx0
  clear_value t0 t1
  exact .dropFrame (.wf h2)

theorem Keeps.qmgFree {o x0 : State} {x1 : Word} (hx0 : Keeps o x0) : Keeps o (State.qmgFree x0 x1) := by
  unfold State.qmgFree
  split
  · exact .qmgRefuse hx0
  · exact .freeSel hx0

theorem Keeps.applyPools {o x0 : State} {x1 : Nat} (hx0 : Keeps o x0) : Keeps o (State.applyPools x0 x1) := by
  induction x1 generalizing x0 with
  | zero =>
    exact hx0
  | succ n ih =>
    rw [State.applyPools]
    exact .wf (.wf (.setReg (ih hx0)))

theorem Keeps.execPoolApply {o : State} {x0 : Init} {x1 : Word} {x2 : State} (hx2 : Keeps o x2) : KeepsOut o (execPoolApply x0 x1 x2) := by
  unfold Sys2Proof.Machine.execPoolApply
  exact .next (.onWrite hx2 (fun h0 => .ite h0 (.ite (.qmgRefuse h0) (by
    extract_lets -merge +onlyGivenNames t1 t2
    clear_value t1 t2
    exact .ite (.qmgRefuse h0) (.raise (.wf (.wf (.applyPools h0))))))))

theorem Keeps.rpoolWrite {o x0 : State} {x1 : Radio} {x2 : Word} (hx0 : Keeps o x0) : Keeps o (State.rpoolWrite x0 x1 x2) :=
  .ite (.qmgRefuse hx0) (.ite (.qmgRefuse hx0) (.setReg hx0))

theorem Keeps.polFill {o x0 : State} {x1 : Nat} (hx0 : Keeps o x0) : Keeps o (State.polFill x0 x1) := by
  unfold State.polFill
  extract_lets -merge +onlyGivenNames t0
  have h1 : Keeps o (t0) := .setReg (.setReg hx0)
  clear_value t0
  exact .setPkt h1

theorem Keeps.setQd {o x0 : State} {x1 : Nat} {x2 : Nat} {x3 : Nat} {x4 : Nat} {x5 : Nat} (hx0 : Keeps o x0) : Keeps o (State.setQd x0 x1 x2 x3 x4 x5) :=
  .wmf hx0

theorem Keeps.qStart {o x0 : State} {x1 : QCmd} {x2 : Nat} (hx0 : Keeps o x0) : Keeps o (qStart x0 x1 x2).1 := by
  unfold Sys2Proof.Machine.qStart
  refine .iteP ?_ ?_
  · exact hx0
  · exact .setQd hx0

theorem Keeps.execQmgFree {o : State} {x0 : Init} {x1 : Word} {x2 : State} (hx2 : Keeps o x2) : KeepsOut o (execQmgFree x0 x1 x2) := by
  unfold Sys2Proof.Machine.execQmgFree
  exact .next (.onWrite hx2 (fun h0 => .qmgFree h0))

theorem Keeps.qDelete {o x0 : State} {x1 : QCmd} {x2 : Nat} (hx0 : Keeps o x0) : Keeps o (qDelete x0 x1 x2).1 := by
  unfold Sys2Proof.Machine.qDelete
  refine .iteP ?_ ?_
  · exact hx0
  · refine .iteP ?_ ?_
    · exact hx0
    · exact .wf (.setQd hx0)

theorem Keeps.setQueue {o x0 : State} {x1 : Nat} {x2 : List Nat} (hx0 : Keeps o x0) : Keeps o (State.setQueue x0 x1 x2) := by
  unfold State.setQueue
  extract_lets -merge +onlyGivenNames t0 t2 t3
  have h1 : Keeps o (t0) := .setPkt hx0
  have h4 : Keeps o (t3) := .setQd h1
  clear_value t0 t2 t3
  exact .setQd (.setQd h4)

theorem Keeps.qDone {o x0 : State} {x1 : QCmd} {x2 : Nat} (hx0 : Keeps o x0) : Keeps o (State.qDone x0 x1 x2) := by
  unfold State.qDone
  extract_lets -merge +onlyGivenNames t0 t2 t4
  have h1 : Keeps o (t0) := .setPkt hx0
  have h3 : Keeps o (t2) := .ite (.setPkt h1) (.bump h1)
  have h5 : Keeps o (t4) := .ite (.bump h3) h3
  clear_value t0 t2 t4
  exact .qmgSync (.ite h5 (.raise h5))

theorem Keeps.qRun {o x0 : State} {x1 : Nat} {x2 : State → QCmd → Nat → State × Nat} (hx0 : Keeps o x0) (hx2 : ∀ {y0} {y1} {y2}, Keeps o y0 → Keeps o (x2 y0 y1 y2).1) : Keeps o (State.qRun x0 x1 x2) := by
  unfold State.qRun
  split
  · exact hx0
  · refine .ite ?_ ?_
    · exact hx0
    · refine .ite ?_ ?_
      · exact .qDone hx0
      · extract_lets -merge +onlyGivenNames t0
        have h1 : Keeps o (t0).1 := hx2 hx0
        clear_value t0
        exact .qDone h1

theorem Keeps.execQStart {o x0 : State} (hx0 : Keeps o x0) : KeepsOut o (execQStart x0) := by
  unfold Sys2Proof.Machine.execQStart
  exact .next (.qRun hx0 (fun h0 => .qStart h0))

theorem Keeps.qStop {o x0 : State} {x1 : QCmd} {x2 : Nat} (hx0 : Keeps o x0) : Keeps o (qStop x0 x1 x2).1 := by
  unfold Sys2Proof.Machine.qStop
  refine .iteP ?_ ?_
  · exact hx0
  · exact .setQd hx0

theorem Keeps.incWord {o x0 : State} {x1 : Nat} (hx0 : Keeps o x0) : Keeps o (State.incWord x0 x1) :=
  .write32 hx0

theorem Keeps.qDrop {o x0 : State} {x1 : Nat} {x2 : Nat} (hx0 : Keeps o x0) : Keeps o (State.qDrop x0 x1 x2) := by
  unfold State.qDrop
  extract_lets -merge +onlyGivenNames t0
  have h1 : Keeps o (t0) := .setPkt hx0
  clear_value t0
  exact .dropFrame (.incWord h1)

theorem Keeps.drrLeave {o x0 : State} {x1 : Nat} (hx0 : Keeps o x0) : Keeps o (State.drrLeave x0 x1) :=
  .setPkt (.setQd hx0)

theorem Keeps.qFill {o x0 : State} {x1 : Nat} (hx0 : Keeps o x0) : Keeps o (State.qFill x0 x1) := by
  unfold State.qFill
  extract_lets -merge +onlyGivenNames t0 t1 t2
  have h3 : Keeps o (t2) := .ite (.setPkt (.setReg hx0)) hx0
  clear_value t0 t1 t2
  exact .ite (.polFill h3) h3

theorem Keeps.qCreate {o x0 : State} {x1 : QCmd} {x2 : Nat} (hx0 : Keeps o x0) : Keeps o (qCreate x0 x1 x2).1 := by
  unfold Sys2Proof.Machine.qCreate
  refine .iteP ?_ ?_
  · exact hx0
  · extract_lets -merge +onlyGivenNames t0 t1
    have h2 : Keeps o (t1) := .setWords hx0
    clear_value t0 t1
    exact .qFill (.wf h2)

theorem Keeps.mark {o x0 : State} {x1 : Nat} {x2 : Nat} (hx0 : Keeps o x0) : Keeps o (State.mark x0 x1 x2).1 := by
  unfold State.mark
  refine .iteP ?_ ?_
  · exact hx0
  · extract_lets -merge +onlyGivenNames t0 t2 t3
    have h1 : Keeps o (t0) := .polRefill hx0
    clear_value t0 t2 t3
    refine .iteP ?_ ?_
    · exact h1
    · refine .iteP ?_ ?_
      · exact .setRegI h1
      · exact .setRegI (.setRegI h1)

theorem Keeps.beginWait {o x0 : State} {x1 : Nat} (hx0 : Keeps o x0) : Keeps o (State.beginWait x0 x1) :=
  .ite hx0 (.setPkt hx0)

theorem Keeps.qAppend {o x0 : State} {x1 : Nat} {x2 : Frame} (hx0 : Keeps o x0) : Keeps o (State.qAppend x0 x1 x2) := by
  unfold State.qAppend
  extract_lets -merge +onlyGivenNames t0 t2 t4 t6 t8
  have h1 : Keeps o (t0) := .beginWait hx0
  have h3 : Keeps o (t2) := .setQueue h1
  have h5 : Keeps o (t4) := .setQd h3
  have h7 : Keeps o (t6) := .bump (.incWord h5)
  clear_value t0 t2 t4 t6 t8
  exact .ite h7 (.reportIn h7)

theorem Keeps.enqueue {o x0 : State} {x1 : Nat} {x2 : Frame} (hx0 : Keeps o x0) : Keeps o (State.enqueue x0 x1 x2) := by
  unfold State.enqueue
  refine .ite ?_ ?_
  · exact .raise (.bump (.dropFrame hx0))
  · extract_lets -merge +onlyGivenNames t0 t1 t3 t5 t6
    have h2 : Keeps o (t1).1 := .mark hx0
    have h4 : Keeps o (t3) := h2
    clear_value t0 t1 t3 t5 t6
    exact .ite (.qDrop (.bump (.bump h4))) (.ite (.qDrop (.bump h4)) (.qAppend h4))

theorem Keeps.flushAll {o x0 : State} {x1 : Nat} {x2 : List Nat} (hx0 : Keeps o x0) : Keeps o (State.flushAll x0 x1 x2) := by
  induction x2 generalizing x0 x1 with
  | nil =>
    exact hx0
  | cons y l ih =>
    rw [State.flushAll]
    exact ih (.qDrop (.bump (by
      split
      · exact .ite hx0 (.reportOut hx0)
      · exact hx0)))

theorem Keeps.qFlush {o x0 : State} {x1 : QCmd} {x2 : Nat} (hx0 : Keeps o x0) : Keeps o (qFlush x0 x1 x2).1 := by
  unfold Sys2Proof.Machine.qFlush
  refine .iteP ?_ ?_
  · exact hx0
  · extract_lets -merge +onlyGivenNames t0 t1 t3
    have h2 : Keeps o (t1) := .setQueue hx0
    have h4 : Keeps o (t3) := .drrLeave (.setQd h2)
    clear_value t0 t1 t3
    exact .flushAll h4

theorem Keeps.execQFlush {o x0 : State} (hx0 : Keeps o x0) : KeepsOut o (execQFlush x0) := by
  unfold Sys2Proof.Machine.execQFlush
  exact .next (.qRun hx0 (fun h0 => .qFlush h0))

theorem Keeps.execQmgResultPop {o : State} {x0 : Init} {x1 : State} (hx1 : Keeps o x1) : KeepsOut o (execQmgResultPop x0 x1) := by
  unfold Sys2Proof.Machine.execQmgResultPop
  exact .next (.onRead hx1 (fun h0 => .qPop h0))

theorem Keeps.execTailAlarm {o : State} {x0 : Nat} {x1 : State} (hx1 : Keeps o x1) : KeepsOut o (execTailAlarm x0 x1) := by
  unfold Sys2Proof.Machine.execTailAlarm
  exact .next (.ite (.raise hx1) hx1)

theorem Keeps.execQmgCmdPush {o : State} {x0 : Init} {x1 : Word} {x2 : State} (hx2 : Keeps o x2) : KeepsOut o (execQmgCmdPush x0 x1 x2) := by
  unfold Sys2Proof.Machine.execQmgCmdPush
  exact .next (.onWrite hx2 (fun h0 => .qPush h0))

theorem Keeps.execRedAlarm {o : State} {x0 : Nat} {x1 : State} (hx1 : Keeps o x1) : KeepsOut o (execRedAlarm x0 x1) := by
  unfold Sys2Proof.Machine.execRedAlarm
  exact .next (.ite (.raise hx1) hx1)

theorem Keeps.execEnqueue {o x0 : State} (hx0 : Keeps o x0) : KeepsOut o (execEnqueue x0) := by
  unfold Sys2Proof.Machine.execEnqueue
  split
  · exact .next hx0
  · refine .ite ?_ ?_
    · exact .next hx0
    · extract_lets -merge +onlyGivenNames t0
      have h1 : Keeps o (t0) := .setPkt hx0
      clear_value t0
      split
      · exact .next (.qmgSync h1)
      · exact .next (.qmgSync (.enqueue h1))

theorem Keeps.execRpoolWrite {o : State} {x0 : Init} {x1 : Radio} {x2 : Word} {x3 : State} (hx3 : Keeps o x3) : KeepsOut o (execRpoolWrite x0 x1 x2 x3) := by
  unfold Sys2Proof.Machine.execRpoolWrite
  exact .next (.onWrite hx3 (fun h0 => .rpoolWrite h0))

theorem Keeps.execQCreate {o x0 : State} (hx0 : Keeps o x0) : KeepsOut o (execQCreate x0) := by
  unfold Sys2Proof.Machine.execQCreate
  exact .next (.qRun hx0 (fun h0 => .qCreate h0))

theorem Keeps.execQDelete {o x0 : State} (hx0 : Keeps o x0) : KeepsOut o (execQDelete x0) := by
  unfold Sys2Proof.Machine.execQDelete
  exact .next (.qRun hx0 (fun h0 => .qDelete h0))

theorem Keeps.qSet {o x0 : State} {x1 : QCmd} {x2 : Nat} (hx0 : Keeps o x0) : Keeps o (qSet x0 x1 x2).1 := by
  unfold Sys2Proof.Machine.qSet
  refine .iteP ?_ ?_
  · exact hx0
  · refine .iteP ?_ ?_
    · exact hx0
    · extract_lets -merge +onlyGivenNames t0 t2
      have h1 : Keeps o (t0) := .setQd (.setQd hx0)
      have h3 : Keeps o (t2) := .write32 h1
      clear_value t0 t2
      exact .setQd (.setQd h3)

theorem Keeps.execQSet {o x0 : State} (hx0 : Keeps o x0) : KeepsOut o (execQSet x0) := by
  unfold Sys2Proof.Machine.execQSet
  exact .next (.qRun hx0 (fun h0 => .qSet h0))

theorem Keeps.qMove {o x0 : State} {x1 : QCmd} {x2 : Nat} (hx0 : Keeps o x0) : Keeps o (qMove x0 x1 x2).1 := by
  unfold Sys2Proof.Machine.qMove
  refine .iteP ?_ ?_
  · exact hx0
  · exact .setQd (.setQd hx0)

theorem Keeps.execQMove {o x0 : State} (hx0 : Keeps o x0) : KeepsOut o (execQMove x0) := by
  unfold Sys2Proof.Machine.execQMove
  exact .next (.qRun hx0 (fun h0 => .qMove h0))

theorem Keeps.execQStop {o x0 : State} (hx0 : Keeps o x0) : KeepsOut o (execQStop x0) := by
  unfold Sys2Proof.Machine.execQStop
  exact .next (.qRun hx0 (fun h0 => .qStop h0))

end Sys2Proof.Machine
end

