-- ==== Sys2Proof/Laws/Keeps3.lean ====
section
/-! SUPPORT. What every operation keeps (`Keeps`), one lemma for each: Dma, OdeNbr, CryEsp, Stp. -/

set_option Elab.async false

namespace Sys2Proof.Machine

/-! Dma -/

theorem Keeps.tstartLatch {o x0 : State} {x1 : Nat} (hx0 : Keeps o x0) : Keeps o (State.tstartLatch x0 x1) :=
  .setRegN hx0

theorem Keeps.setTstart {o x0 : State} {x1 : Nat} {x2 : Nat} (hx0 : Keeps o x0) : Keeps o (State.setTstart x0 x1 x2) := by
  unfold State.setTstart
  extract_lets -merge +onlyGivenNames t0
  have h1 : Keeps o (t0) := .setRegN hx0
  clear_value t0
  exact .in_dma h1

theorem Keeps.chEvent {o x0 : State} {x1 : Nat} (hx0 : Keeps o x0) : Keeps o (State.chEvent x0 x1) :=
  .raise hx0

theorem Keeps.chCause {o x0 : State} {x1 : Nat} {x2 : Fld} (hx0 : Keeps o x0) : Keeps o (State.chCause x0 x1 x2) :=
  .chEvent (.wb hx0)

theorem Keeps.chEnter {o x0 : State} {x1 : Nat} {x2 : Nat} (hx0 : Keeps o x0) : Keeps o (State.chEnter x0 x1 x2) :=
  .wf hx0

theorem Keeps.chFetch {o x0 : State} {x1 : Nat} (hx0 : Keeps o x0) : Keeps o (State.chFetch x0 x1) :=
  .chEnter (.setCh hx0)

theorem Keeps.saddleTake {o x0 : State} {x1 : Nat} (hx0 : Keeps o x0) : Keeps o (State.saddleTake x0 x1) := by
  unfold State.saddleTake
  extract_lets -merge +onlyGivenNames t0 t2 t4 t6 t8
  have h1 : Keeps o (t0) := .setReg (.setReg hx0)
  have h3 : Keeps o (t2) := .setRegN (.setReg h1)
  have h5 : Keeps o (t4) := .wb (.wf h3)
  have h7 : Keeps o (t6) := .wb (.wb h5)
  have h9 : Keeps o (t8) := .ite (.chCause h7) h7
  clear_value t0 t2 t4 t6 t8
  exact .ite (.chFetch h9) (.setCh h9)

theorem Keeps.chRun {o x0 : State} {x1 : Nat} (hx0 : Keeps o x0) : Keeps o (State.chRun x0 x1) := by
  unfold State.chRun
  extract_lets -merge +onlyGivenNames t0 t1
  clear_value t0 t1
  exact .chEnter (.setCh hx0)

theorem Keeps.chRefuse {o x0 : State} {x1 : Nat} {x2 : Nat} (hx0 : Keeps o x0) : Keeps o (State.chRefuse x0 x1 x2) :=
  .chEvent (.errSet hx0)

theorem Keeps.saddleFail {o x0 : State} {x1 : Nat} (hx0 : Keeps o x0) : Keeps o (State.saddleFail x0 x1) :=
  .chRefuse (.wb hx0)

theorem Keeps.chTrigger {o x0 : State} {x1 : Nat} {x2 : Nat} (hx0 : Keeps o x0) : Keeps o (State.chTrigger x0 x1 x2) := by
  unfold State.chTrigger
  extract_lets -merge +onlyGivenNames t0
  have h1 : Keeps o (t0) := .setTstart hx0
  clear_value t0
  refine .ite ?_ ?_
  · refine .ite ?_ ?_
    · extract_lets -merge +onlyGivenNames t2
      have h3 : Keeps o (t2) := .saddleTake h1
      clear_value t2
      exact .setCh h3
    · exact .chRun (.saddleFail h1)
  · exact .chRun h1

theorem Keeps.dmaStrobe {o x0 : State} {x1 : Nat} {x2 : Nat} (hx0 : Keeps o x0) : Keeps o (State.dmaStrobe x0 x1 x2) :=
  .ite hx0 (.ite (.chTrigger hx0) (.chCause (.wf hx0)))

theorem Keeps.chReject {o x0 : State} {x1 : Nat} (hx0 : Keeps o x0) : Keeps o (State.chReject x0 x1) :=
  .chRefuse (.bump hx0)

theorem Keeps.chEnable {o x0 : State} {x1 : Nat} (hx0 : Keeps o x0) : Keeps o (State.chEnable x0 x1) := by
  unfold State.chEnable
  extract_lets -merge +onlyGivenNames t0
  clear_value t0
  exact .ite (.chFetch hx0) (.ite (.chReject hx0) hx0)

theorem Keeps.chStart {o x0 : State} {x1 : Nat} (hx0 : Keeps o x0) : Keeps o (State.chStart x0 x1) :=
  .ite (.chTrigger hx0) (.chReject hx0)

theorem Keeps.chPause {o x0 : State} {x1 : Nat} (hx0 : Keeps o x0) : Keeps o (State.chPause x0 x1) := by
  unfold State.chPause
  extract_lets -merge +onlyGivenNames t0
  clear_value t0
  exact .ite (.chEnter hx0) (.ite (.wb hx0) (.ite hx0 (.chReject hx0)))

theorem Keeps.chResume {o x0 : State} {x1 : Nat} (hx0 : Keeps o x0) : Keeps o (State.chResume x0 x1) :=
  .ite (.chReject hx0) (.ite (.chEnter hx0) (.chFetch hx0))

theorem Keeps.chStop {o x0 : State} {x1 : Nat} (hx0 : Keeps o x0) : Keeps o (State.chStop x0 x1) := by
  unfold State.chStop
  extract_lets -merge +onlyGivenNames t0
  clear_value t0
  exact .ite hx0 (.ite (.wb hx0) (.chEnter (.setCh hx0)))

theorem Keeps.chDiscard {o x0 : State} {x1 : Nat} {x2 : DmaChan} (hx0 : Keeps o x0) : Keeps o (State.chDiscard x0 x1 x2) :=
  .ite (.release hx0) hx0

theorem Keeps.chAdvance {o x0 : State} {x1 : Nat} (hx0 : Keeps o x0) : Keeps o (State.chAdvance x0 x1) :=
  .setRegN hx0

theorem Keeps.chUnknown {o x0 : State} {x1 : Nat} {x2 : Nat} (hx0 : Keeps o x0) : Keeps o (State.chUnknown x0 x1 x2) := by
  induction x2 generalizing x0 x1 with
  | zero =>
    exact hx0
  | succ n ih =>
    rw [State.chUnknown]
    exact .write32 (ih (.used hx0))

theorem Keeps.chBoundary {o x0 : State} {x1 : Nat} {x2 : Bool} (hx0 : Keeps o x0) : Keeps o (State.chBoundary x0 x1 x2) := by
  unfold State.chBoundary
  extract_lets -merge +onlyGivenNames t0 t1 t2
  have h3 : Keeps o (t2) := .setCh (.wb (.wb hx0))
  clear_value t0 t1 t2
  exact .ite (.chEnter h3) (.ite (.chEnter h3) (.ite (.chEnter h3) (.chFetch h3)))

theorem Keeps.chComplete {o x0 : State} {x1 : Nat} {x2 : Nat} {x3 : Bool} (hx0 : Keeps o x0) : Keeps o (State.chComplete x0 x1 x2 x3) := by
  unfold State.chComplete
  extract_lets -merge +onlyGivenNames t0 t1 t2 t3
  have h4 : Keeps o (t3) := .ite hx0 (.chDiscard hx0)
  clear_value t0 t1 t2 t3
  refine .ite ?_ ?_
  · extract_lets -merge +onlyGivenNames t5
    have h6 : Keeps o (t5) := .chAdvance (.ite (.chUnknown h4) h4)
    clear_value t5
    exact .chBoundary (.chCause (.wf h6))
  · extract_lets -merge +onlyGivenNames t7 t9 t11 t13
    have h8 : Keeps o (t7) := by
      unfold t7
      split
      · exact h4
      · exact .store h4
    have h10 : Keeps o (t9) := .store h8
    have h12 : Keeps o (t11) := .chAdvance (.store h10)
    have h14 : Keeps o (t13) := .wf h12
    clear_value t7 t9 t11 t13
    exact .ite (.chBoundary (.chCause h14)) (.ite (.chBoundary (.chCause (.wb h14))) (.chBoundary (.ite (.chCause h14) h14)))

theorem Keeps.chAbort {o x0 : State} {x1 : Nat} (hx0 : Keeps o x0) : Keeps o (State.chAbort x0 x1) := by
  unfold State.chAbort
  extract_lets -merge +onlyGivenNames t0 t1
  have h2 : Keeps o (t1) := .wb (.wb hx0)
  clear_value t0 t1
  refine .ite ?_ ?_
  · extract_lets -merge +onlyGivenNames t3
    clear_value t3
    exact .ite h2 (.setCh h2)
  · exact .ite (.chComplete h2) (.ite hx0 (.chReject hx0))

theorem Keeps.chClear {o x0 : State} {x1 : Nat} (hx0 : Keeps o x0) : Keeps o (State.chClear x0 x1) :=
  .ite (.chFetch hx0) (.chReject hx0)

theorem Keeps.chCmd {o : State} {x0 : Nat} {x1 : Nat} {x2 : State} (hx2 : Keeps o x2) : Keeps o (State.chCmd x0 x1 x2) :=
  .ite (.chRefuse hx2) (.ite (.chEnable hx2) (.ite (.chStart hx2) (.ite (.chPause hx2) (.ite (.chResume hx2) (.ite (.chStop hx2) (.ite (.chAbort hx2) (.ite (.chClear hx2) (.chRefuse hx2))))))))

theorem Keeps.chDoorbell {o : State} {x0 : Nat} {x1 : Word} {x2 : State} (hx2 : Keeps o x2) : Keeps o (State.chDoorbell x0 x1 x2) := by
  unfold State.chDoorbell
  refine .ite ?_ ?_
  · exact .chRefuse hx2
  · refine .ite ?_ ?_
    · extract_lets -merge +onlyGivenNames t0
      clear_value t0
      exact .ite (.setCh hx2) (.setCh hx2)
    · exact hx2

theorem Keeps.shadowWrite {o : State} {x0 : Nat} {x1 : Nat} {x2 : Nat} {x3 : Word} {x4 : State} (hx4 : Keeps o x4) : Keeps o (State.shadowWrite x0 x1 x2 x3 x4) :=
  .ite (.chRefuse hx4) (.ite (.writeReg hx4) (.wb (.writeReg hx4)))

theorem Keeps.saddleWrite {o : State} {x0 : Nat} {x1 : Nat} {x2 : Word} {x3 : State} (hx3 : Keeps o x3) : Keeps o (State.saddleWrite x0 x1 x2 x3) :=
  .ite (.chRefuse hx3) (.writeReg hx3)

theorem Keeps.injectStore {o x0 : State} {x1 : Nat} {x2 : List Word} {x3 : List Byte} (hx0 : Keeps o x0) : Keeps o (State.injectStore x0 x1 x2 x3) := by
  unfold State.injectStore
  extract_lets -merge +onlyGivenNames t0 t1 t3
  have h2 : Keeps o (t1).1 := .putFrame hx0
  clear_value t0 t1 t3
  refine .ite ?_ ?_
  · extract_lets -merge +onlyGivenNames t4 t5
    have h6 : Keeps o (t5) := .setHdr h2
    clear_value t4 t5
    exact .qmgSync (.setPkt h6)
  · exact .toPpe h2

theorem Keeps.execDmaEnable {o : State} {x0 : Init} {x1 : Fin 128} {x2 : State} (hx2 : Keeps o x2) : KeepsOut o (execDmaEnable x0 x1 x2) := by
  unfold Sys2Proof.Machine.execDmaEnable
  exact .next (.onWrite hx2 (fun h0 => .chCmd h0))

theorem Keeps.chHalt {o x0 : State} {x1 : Nat} {x2 : Nat} (hx0 : Keeps o x0) : Keeps o (State.chHalt x0 x1 x2) := by
  unfold State.chHalt
  extract_lets -merge +onlyGivenNames t0
  have h1 : Keeps o (t0) := .setCh hx0
  clear_value t0
  exact .chCause (.wf (.chEnter h1))

theorem Keeps.execDoorbell {o : State} {x0 : Init} {x1 : Fin 128} {x2 : Word} {x3 : State} (hx3 : Keeps o x3) : KeepsOut o (execDoorbell x0 x1 x2 x3) := by
  unfold Sys2Proof.Machine.execDoorbell
  exact .next (.onWrite hx3 (fun h0 => .chDoorbell h0))

theorem Keeps.execDmaClear {o : State} {x0 : Init} {x1 : Fin 128} {x2 : State} (hx2 : Keeps o x2) : KeepsOut o (execDmaClear x0 x1 x2) := by
  unfold Sys2Proof.Machine.execDmaClear
  exact .next (.onWrite hx2 (fun h0 => .chCmd h0))

theorem Keeps.chTake {o x0 : State} {x1 : Nat} {x2 : List Word} (hx0 : Keeps o x0) : Keeps o (State.chTake x0 x1 x2) := by
  unfold State.chTake
  extract_lets -merge +onlyGivenNames t0 t1 d2 t3
  clear_value t0 t1 t3
  exact .ite (.chEnter (.setCh hx0)) (.ite (.chEnter (.setCh hx0)) (.chRun (.setCh hx0)))

theorem Keeps.execDmaAbort {o : State} {x0 : Init} {x1 : Fin 128} {x2 : State} (hx2 : Keeps o x2) : KeepsOut o (execDmaAbort x0 x1 x2) := by
  unfold Sys2Proof.Machine.execDmaAbort
  exact .next (.onWrite hx2 (fun h0 => .chCmd h0))

theorem Keeps.execInjectUnitsGrant {o : State} {x0 : Fin 128} {x1 : State} (hx1 : Keeps o x1) : KeepsOut o (execInjectUnitsGrant x0 x1) := by
  unfold Sys2Proof.Machine.execInjectUnitsGrant
  extract_lets -merge +onlyGivenNames t0 t1
  clear_value t0 t1
  refine .ite ?_ ?_
  · exact .next hx1
  · split
    · exact .next hx1
    · exact .next (.setCh ((Keeps.charge hx1) _ (by assumption)))

theorem Keeps.execDescriptorFetch {o : State} {x0 : Fin 128} {x1 : Bool} {x2 : State} (hx2 : Keeps o x2) : KeepsOut o (execDescriptorFetch x0 x1 x2) := by
  unfold Sys2Proof.Machine.execDescriptorFetch
  extract_lets -merge +onlyGivenNames t0 t1
  clear_value t0 t1
  refine .ite ?_ ?_
  · exact .next hx2
  · extract_lets -merge +onlyGivenNames t2
    clear_value t2
    refine .ite ?_ ?_
    · exact .next (.chHalt hx2)
    · refine .ite ?_ ?_
      · exact .next (.chHalt (.eccRead hx2))
      · extract_lets -merge +onlyGivenNames t3 t5
        have h4 : Keeps o (t3) := .eccRead hx2
        clear_value t3 t5
        refine .ite ?_ ?_
        · exact .next (.chTake h4)
        · refine .ite ?_ ?_
          · exact .next (.setCh h4)
          · exact .next (.setCh h4)

theorem Keeps.execDmaStop {o : State} {x0 : Init} {x1 : Fin 128} {x2 : State} (hx2 : Keeps o x2) : KeepsOut o (execDmaStop x0 x1 x2) := by
  unfold Sys2Proof.Machine.execDmaStop
  exact .next (.onWrite hx2 (fun h0 => .chCmd h0))

theorem Keeps.execDescriptorComplete {o : State} {x0 : Fin 128} {x1 : Bool} {x2 : State} (hx2 : Keeps o x2) : KeepsOut o (execDescriptorComplete x0 x1 x2) := by
  unfold Sys2Proof.Machine.execDescriptorComplete
  refine .ite ?_ ?_
  · exact .next hx2
  · split
    · exact .next hx2
    · exact .next (.chComplete hx2)

theorem Keeps.execDmaResume {o : State} {x0 : Init} {x1 : Fin 128} {x2 : State} (hx2 : Keeps o x2) : KeepsOut o (execDmaResume x0 x1 x2) := by
  unfold Sys2Proof.Machine.execDmaResume
  exact .next (.onWrite hx2 (fun h0 => .chCmd h0))

theorem Keeps.execDmaTriggerStrobe {o : State} {x0 : Fin 128} {x1 : GTime} {x2 : State} (hx2 : Keeps o x2) : KeepsOut o (execDmaTriggerStrobe x0 x1 x2) := by
  unfold Sys2Proof.Machine.execDmaTriggerStrobe
  exact .next (.dmaStrobe hx2)

theorem Keeps.execDmaStart {o : State} {x0 : Init} {x1 : Fin 128} {x2 : State} (hx2 : Keeps o x2) : KeepsOut o (execDmaStart x0 x1 x2) := by
  unfold Sys2Proof.Machine.execDmaStart
  exact .next (.onWrite hx2 (fun h0 => .chCmd h0))

theorem Keeps.execDmaPause {o : State} {x0 : Init} {x1 : Fin 128} {x2 : State} (hx2 : Keeps o x2) : KeepsOut o (execDmaPause x0 x1 x2) := by
  unfold Sys2Proof.Machine.execDmaPause
  exact .next (.onWrite hx2 (fun h0 => .chCmd h0))

theorem Keeps.execShadowWrite {o : State} {x0 : Init} {x1 : Fin 128} {x2 : Fin 4} {x3 : Word} {x4 : State} (hx4 : Keeps o x4) : KeepsOut o (execShadowWrite x0 x1 x2 x3 x4) := by
  unfold Sys2Proof.Machine.execShadowWrite
  exact .next (.onWrite hx4 (fun h0 => .shadowWrite h0))

theorem Keeps.execSaddleArm {o : State} {x0 : Init} {x1 : Fin 128} {x2 : Word} {x3 : State} (hx3 : Keeps o x3) : KeepsOut o (execSaddleArm x0 x1 x2 x3) := by
  unfold Sys2Proof.Machine.execSaddleArm
  exact .next (.onWrite hx3 (fun h0 => .saddleWrite h0))

theorem Keeps.execSaddle {o : State} {x0 : Fin 128} {x1 : State} (hx1 : Keeps o x1) : KeepsOut o (execSaddle x0 x1) := by
  unfold Sys2Proof.Machine.execSaddle
  extract_lets -merge +onlyGivenNames t0
  clear_value t0
  refine .ite ?_ ?_
  · exact .next hx1
  · refine .ite ?_ ?_
    · exact .next (.saddleTake hx1)
    · exact .next (.saddleFail hx1)

/-! OdeNbr -/

theorem Keeps.subRoutes {o x0 : State} {x1 : Nat} {x2 : Nat} (hx0 : Keeps o x0) : Keeps o (State.subRoutes x0 x1 x2) := by
  induction x2 generalizing x0 x1 with
  | zero =>
    exact hx0
  | succ n ih =>
    rw [State.subRoutes]
    exact .setReg (ih hx0)

theorem Keeps.syncSubs {o x0 : State} (hx0 : Keeps o x0) : Keeps o (State.syncSubs x0) :=
  .ite (.subRoutes hx0) hx0

theorem Keeps.setOde {o x0 : State} {x1 : OdeSt → OdeSt} (hx0 : Keeps o x0) : Keeps o (State.setOde x0 x1) :=
  .in_ode hx0

theorem Keeps.setDev {o x0 : State} {x1 : Nat} (hx0 : Keeps o x0) : Keeps o (State.setDev x0 x1) :=
  .ite hx0 (.raise (.setOde (.wf hx0)))

theorem Keeps.odeKeep {o x0 : State} (hx0 : Keeps o x0) : Keeps o (State.odeKeep x0) :=
  .wf (.wb hx0)

theorem Keeps.setSessions {o x0 : State} {x1 : List Session → List Session} (hx0 : Keeps o x0) : Keeps o (State.setSessions x0 x1) :=
  .odeKeep (.syncSubs (.setOde hx0))

theorem Keeps.odeAlarm {o x0 : State} (hx0 : Keeps o x0) : Keeps o x0.odeAlarm := by
  have h : ∀ {s : State} {a b : CanSt}, Keeps o s → Keeps o { s with can0 := a, can1 := b } := fun h =>
    h.trans ⟨id, rfl, Nat.le_refl _⟩
  unfold State.odeAlarm
  exact .ite (h (.odeKeep (.setOde (.setSessions hx0)))) (.setDev (h (.odeKeep (.setOde (.setSessions hx0)))))

theorem Keeps.nbrReport {o x0 : State} {x1 : NbrReport} (hx0 : Keeps o x0) : Keeps o (State.nbrReport x0 x1) := by
  unfold State.nbrReport
  extract_lets -merge +onlyGivenNames t0 t1 t2 t3 t4 t6 t8 t10 t12
  have h5 : Keeps o (t4) := .setReg (.setReg hx0)
  have h7 : Keeps o (t6) := .wf (.wf (.wb h5))
  have h9 : Keeps o (t8) := .setReg (.setReg h7)
  have h11 : Keeps o (t10) := .setReg h9
  have h13 : Keeps o (t12) := .setOde h11
  clear_value t0 t1 t2 t3 t4 t6 t8 t10 t12
  refine .ite ?_ ?_
  · exact h13
  · refine .ite ?_ ?_
    · extract_lets -merge +onlyGivenNames t14
      have h15 : Keeps o (t14) := .raise (.bump h13)
      clear_value t14
      exact .ite (.setOde h15) h15
    · exact .ite (.bump h13) (.ite (.raise (.bump h13)) h13)

/-! CryEsp -/

theorem Keeps.pgPop {o : State} {x0 : Init} {x1 : Nat} {x2 : State} (hx2 : Keeps o x2) : Keeps o (State.pgPop x0 x1 x2) := by
  unfold State.pgPop
  split
  · exact .answer hx2
  · exact .answer (.setPage hx2)

theorem Keeps.setSa {o x0 : State} {x1 : Nat} {x2 : Sa} (hx0 : Keeps o x0) : Keeps o (State.setSa x0 x1 x2) :=
  .setCry hx0

theorem Keeps.saLoad {o x0 : State} {x1 : Nat} (hx0 : Keeps o x0) : Keeps o (State.saLoad x0 x1).1 := by
  unfold State.saLoad
  extract_lets -merge +onlyGivenNames t0
  clear_value t0
  refine .iteP ?_ ?_
  · exact hx0
  · refine .iteP ?_ ?_
    · exact hx0
    · refine .iteP ?_ ?_
      · exact .eccRead hx0
      · extract_lets -merge +onlyGivenNames t1 t3 t4
        have h2 : Keeps o (t1) := .eccRead hx0
        clear_value t1 t3 t4
        refine .iteP ?_ ?_
        · exact h2
        · extract_lets -merge +onlyGivenNames t5
          clear_value t5
          exact .setSa h2

theorem Keeps.saErase {o x0 : State} {x1 : Nat} (hx0 : Keeps o x0) : Keeps o (State.saErase x0 x1) :=
  .setCry (.setSa hx0)

theorem Keeps.saRead {o x0 : State} {x1 : Nat} (hx0 : Keeps o x0) : Keeps o (State.saRead x0 x1).1 := by
  unfold State.saRead
  refine .iteP ?_ ?_
  · exact hx0
  · exact .store hx0

theorem Keeps.saCmd {o x0 : State} {x1 : Nat} {x2 : Nat} {x3 : Nat} (hx0 : Keeps o x0) : Keeps o (State.saCmd x0 x1 x2 x3) :=
  .ite (.keyDone hx0) (.ite (.keyDone (.saLoad hx0)) (.ite (.keyDone (.saErase hx0)) (.ite (.keyDone (.saRead hx0)) (.keyDone hx0))))

theorem Keeps.almPolWrite {o x0 : State} {x1 : Word} (hx0 : Keeps o x0) : Keeps o (State.almPolWrite x0 x1) :=
  .ite (.refuse hx0) (.setReg hx0)

theorem Keeps.execAlarmLock {o : State} {x0 : Init} {x1 : Word} {x2 : State} (hx2 : Keeps o x2) : KeepsOut o (execAlarmLock x0 x1 x2) := by
  unfold Sys2Proof.Machine.execAlarmLock
  exact .next (.onWrite hx2 (fun h0 => .setReg h0))

theorem Keeps.execAlarmClear {o : State} {x0 : Init} {x1 : Word} {x2 : State} (hx2 : Keeps o x2) : KeepsOut o (execAlarmClear x0 x1 x2) := by
  unfold Sys2Proof.Machine.execAlarmClear
  exact .next (.onWrite hx2 (fun h0 => .ite (.refuse h0) (.ite (.wf h0) h0)))

theorem Keeps.pgDone {o x0 : State} {x1 : Nat} {x2 : Nat} {x3 : Nat} {x4 : Nat} {x5 : Nat} (hx0 : Keeps o x0) : Keeps o (State.pgDone x0 x1 x2 x3 x4 x5) := by
  unfold State.pgDone
  extract_lets -merge +onlyGivenNames t0
  have h1 : Keeps o (t0) := .ite hx0 (.raise (.errSet (.cryCount hx0)))
  clear_value t0
  exact .ite (.setPage h1) (.bump h1)

theorem Keeps.pgEnable {o x0 : State} {x1 : Nat} {x2 : Nat} (hx0 : Keeps o x0) : Keeps o (State.pgEnable x0 x1 x2) := by
  unfold State.pgEnable
  extract_lets -merge +onlyGivenNames t0
  clear_value t0
  refine .ite ?_ ?_
  · exact .pgDone hx0
  · extract_lets -merge +onlyGivenNames t1
    have h2 : Keeps o (t1) := .ite (.setPage (.wf hx0)) hx0
    clear_value t1
    exact .pgDone h2

theorem Keeps.pgStop {o x0 : State} {x1 : Nat} {x2 : Nat} (hx0 : Keeps o x0) : Keeps o (State.pgStop x0 x1 x2) := by
  unfold State.pgStop
  extract_lets -merge +onlyGivenNames t0
  have h1 : Keeps o (t0) := .ite hx0 (.pgSettle (.setPage hx0))
  clear_value t0
  exact .pgDone h1

theorem Keeps.pgClear {o x0 : State} {x1 : Nat} {x2 : Nat} (hx0 : Keeps o x0) : Keeps o (State.pgClear x0 x1 x2) :=
  .ite (.pgDone (.setPage (.wf hx0))) (.pgDone hx0)

theorem Keeps.ctxSave {o x0 : State} {x1 : Nat} {x2 : Nat} {x3 : Nat} (hx0 : Keeps o x0) : Keeps o (State.ctxSave x0 x1 x2 x3) := by
  unfold State.ctxSave
  extract_lets -merge +onlyGivenNames t0 t1 t2 t3
  clear_value t0 t1 t2 t3
  refine .ite ?_ ?_
  · exact .pgDone hx0
  · refine .ite ?_ ?_
    · exact .pgDone hx0
    · refine .ite ?_ ?_
      · exact .pgDone hx0
      · refine .ite ?_ ?_
        · exact .pgDone hx0
        · refine .ite ?_ ?_
          · exact .pgDone hx0
          · extract_lets -merge +onlyGivenNames t4 t6
            have h5 : Keeps o (t4).1 := by
              unfold t4
              refine .iteP ?_ ?_
              · exact .draw hx0
              · exact hx0
            clear_value t4 t6
            exact .pgDone (.setCtx (.store h5))

theorem Keeps.ctxRestore {o x0 : State} {x1 : Nat} {x2 : Nat} {x3 : Nat} (hx0 : Keeps o x0) : Keeps o (State.ctxRestore x0 x1 x2 x3) := by
  unfold State.ctxRestore
  extract_lets -merge +onlyGivenNames t0 t1 t2
  clear_value t0 t1 t2
  refine .ite ?_ ?_
  · exact .pgDone hx0
  · refine .ite ?_ ?_
    · exact .pgDone hx0
    · refine .ite ?_ ?_
      · exact .pgDone hx0
      · refine .ite ?_ ?_
        · exact .pgDone (.eccRead hx0)
        · extract_lets -merge +onlyGivenNames t3 t5
          have h4 : Keeps o (t3) := .eccRead hx0
          clear_value t3 t5
          refine .ite ?_ ?_
          · exact .pgDone h4
          · split
            · exact .pgDone h4
            · exact .pgDone (.setCtx h4)

theorem Keeps.ctxDrop {o x0 : State} {x1 : Nat} {x2 : Nat} {x3 : Nat} (hx0 : Keeps o x0) : Keeps o (State.ctxDrop x0 x1 x2 x3) :=
  .ite (.pgDone hx0) (.pgDone (.setCtx hx0))

theorem Keeps.pgCmd {o x0 : State} {x1 : Nat} {x2 : Nat} {x3 : Nat} {x4 : Nat} (hx0 : Keeps o x0) : Keeps o (State.pgCmd x0 x1 x2 x3 x4) :=
  .ite (.pgDone hx0) (.ite (.pgDone hx0) (.ite (.pgEnable hx0) (.ite (.pgStop hx0) (.ite (.pgClear hx0) (.ite (.ctxSave hx0) (.ite (.ctxRestore hx0) (.ite (.ctxDrop hx0) (.pgDone hx0))))))))

theorem Keeps.espStart {o x0 : State} {x1 : Nat} {x2 : Nat} {x3 : List Byte} (hx0 : Keeps o x0) : Keeps o (State.espStart x0 x1 x2 x3) := by
  unfold State.espStart
  extract_lets -merge +onlyGivenNames t0
  refine .ite ?_ ?_
  · exact .setCry (.cryCount hx0)
  · extract_lets -merge +onlyGivenNames t1 t2
    exact .crySync (.setCry hx0)

theorem Keeps.pkeAbort {o x0 : State} (hx0 : Keeps o x0) : Keeps o (State.pkeAbort x0) := by
  unfold State.pkeAbort
  split
  · exact hx0
  · refine .ite ?_ ?_
    · exact hx0
    · extract_lets -merge +onlyGivenNames t0 t1 t3 t5 t7
      have h2 : Keeps o (t1) := .setPke hx0
      have h4 : Keeps o (t3) := .wf h2
      have h6 : Keeps o (t5) := .bump (.errSet h4)
      have h8 : Keeps o (t7) := .ite (.setPke h6) (.bump h6)
      clear_value t0 t1 t3 t5 t7
      exact .raise h8

theorem Keeps.killCtx {o x0 : State} {x1 : CryCtx → Bool} (hx0 : Keeps o x0) : Keeps o (State.killCtx x0 x1) :=
  .setCry hx0

theorem Keeps.alarmErase {o x0 : State} (hx0 : Keeps o x0) : Keeps o (State.alarmErase x0) := by
  unfold State.alarmErase
  extract_lets -merge +onlyGivenNames t0 t2 t5 t7
  have h1 : Keeps o (t0) := .setCry hx0
  have h4 : Keeps o (t2) := .abortAll h1 (fun h3 => h3)
  have h6 : Keeps o (t5) := .killCtx h4
  have h8 : Keeps o (t7) := .setCry h6
  clear_value t0 t2 t5 t7
  exact .odeAlarm (.wf h8)

theorem Keeps.alarm {o x0 : State} {x1 : Nat} (hx0 : Keeps o x0) : Keeps o (State.alarm x0 x1) := by
  unfold State.alarm
  extract_lets -merge +onlyGivenNames t0 t2
  have h1 : Keeps o (t0) := .setReg hx0
  have h3 : Keeps o (t2) := .raise h1
  clear_value t0 t2
  exact .ite (.pkeAbort (.alarmErase h3)) h3

theorem Keeps.espFail {o x0 : State} {x1 : CryOp} {x2 : Nat} {x3 : Nat} (hx0 : Keeps o x0) : Keeps o (State.espFail x0 x1 x2 x3).1 := by
  unfold State.espFail
  exact .ite (.setSa hx0) hx0

theorem Keeps.alarmWipe {o x0 : State} (hx0 : Keeps o x0) : Keeps o (State.alarmWipe x0) :=
  .setCry hx0

theorem Keeps.execSaRead {o : State} {x0 : Init} {x1 : BitVec 8} {x2 : Fin 256} {x3 : State} (hx3 : Keeps o x3) : KeepsOut o (execSaRead x0 x1 x2 x3) := by
  unfold Sys2Proof.Machine.execSaRead
  exact .next (.onWrite hx3 (fun h0 => .saCmd h0))

theorem Keeps.execEraseComplete {o : State} {x0 : Fin 1024} {x1 : State} (hx1 : Keeps o x1) : KeepsOut o (execEraseComplete x0 x1) := by
  unfold Sys2Proof.Machine.execEraseComplete
  extract_lets -merge +onlyGivenNames t0
  clear_value t0
  refine .ite ?_ ?_
  · exact .next hx1
  · extract_lets -merge +onlyGivenNames t1 t4 d6 t7
    have h3 : Keeps o (t1) := .abortAll hx1 (fun h2 => .bump h2)
    have h5 : Keeps o (t4) := .killCtx h3
    have h8 : Keeps o (t7) := .setSlot h5
    clear_value t1 t4 t7
    exact .next (.raise (.keyDone h8))

theorem Keeps.execPageEnable {o : State} {x0 : Init} {x1 : Fin 32} {x2 : BitVec 8} {x3 : State} (hx3 : Keeps o x3) : KeepsOut o (execPageEnable x0 x1 x2 x3) := by
  unfold Sys2Proof.Machine.execPageEnable
  exact .next (.onWrite hx3 (fun h0 => .pgCmd h0))

theorem Keeps.saCount {o x0 : State} {x1 : Nat} {x2 : Sa} {x3 : Nat} (hx0 : Keeps o x0) : Keeps o (State.saCount x0 x1 x2 x3) := by
  unfold State.saCount
  extract_lets -merge +onlyGivenNames t0 t1 t2 t3 t4 t6
  have h5 : Keeps o (t4) := .setSa hx0
  have h7 : Keeps o (t6) := .ite (.raise h5) h5
  clear_value t0 t1 t2 t3 t4 t6
  exact .ite (.raise h7) h7

theorem Keeps.espOutRun {o x0 : State} {x1 : CryOp} {x2 : Nat} (hx0 : Keeps o x0) : Keeps o (State.espOutRun x0 x1 x2).1 := by
  unfold State.espOutRun
  extract_lets -merge +onlyGivenNames t0 t1
  clear_value t0 t1
  refine .iteP ?_ ?_
  · exact hx0
  · refine .iteP ?_ ?_
    · exact hx0
    · split
      · exact hx0
      · exact .ite (.saCount hx0) hx0

theorem Keeps.execPageStop {o : State} {x0 : Init} {x1 : Fin 32} {x2 : BitVec 8} {x3 : State} (hx3 : Keeps o x3) : KeepsOut o (execPageStop x0 x1 x2 x3) := by
  unfold Sys2Proof.Machine.execPageStop
  exact .next (.onWrite hx3 (fun h0 => .pgCmd h0))

theorem Keeps.execSaErase {o : State} {x0 : Init} {x1 : BitVec 8} {x2 : Fin 256} {x3 : State} (hx3 : Keeps o x3) : KeepsOut o (execSaErase x0 x1 x2 x3) := by
  unfold Sys2Proof.Machine.execSaErase
  exact .next (.onWrite hx3 (fun h0 => .saCmd h0))

theorem Keeps.espInRun {o x0 : State} {x1 : CryOp} {x2 : Nat} (hx0 : Keeps o x0) : Keeps o (State.espInRun x0 x1 x2).1 := by
  unfold State.espInRun
  extract_lets -merge +onlyGivenNames t0
  clear_value t0
  refine .iteP ?_ ?_
  · exact hx0
  · split
    · exact .espFail hx0
    · extract_lets -merge +onlyGivenNames t1 t2
      clear_value t1 t2
      refine .iteP ?_ ?_
      · exact .espFail hx0
      · refine .iteP ?_ ?_
        · exact .espFail hx0
        · extract_lets -merge +onlyGivenNames t3
          clear_value t3
          refine .iteP ?_ ?_
          · exact .espFail hx0
          · split
            · exact .espFail hx0
            · extract_lets -merge +onlyGivenNames t4 t5
              clear_value t4 t5
              exact .ite (.saCount hx0) hx0

theorem Keeps.execCryOperationComplete {o : State} {x0 : Fin 12} {x1 : State} (hx1 : Keeps o x1) : KeepsOut o (execCryOperationComplete x0 x1) := by
  unfold Sys2Proof.Machine.execCryOperationComplete
  split
  · exact .next hx1
  · split
    · exact .next hx1
    · split
      · extract_lets -merge +onlyGivenNames t0
        have h1 : Keeps o (t0).1 := by
          unfold t0
          refine .iteP ?_ ?_
          · exact .espInRun hx1
          · exact .espOutRun hx1
        clear_value t0
        exact .next (.opEnd h1)
      · exact .next (.ite (.fwRun hx1) (.inlineRun hx1))

theorem Keeps.execPageClear {o : State} {x0 : Init} {x1 : Fin 32} {x2 : BitVec 8} {x3 : State} (hx3 : Keeps o x3) : KeepsOut o (execPageClear x0 x1 x2 x3) := by
  unfold Sys2Proof.Machine.execPageClear
  exact .next (.onWrite hx3 (fun h0 => .pgCmd h0))

theorem Keeps.execCtxSave {o : State} {x0 : Init} {x1 : Fin 32} {x2 : BitVec 8} {x3 : Fin 4} {x4 : State} (hx4 : Keeps o x4) : KeepsOut o (execCtxSave x0 x1 x2 x3 x4) := by
  unfold Sys2Proof.Machine.execCtxSave
  exact .next (.onWrite hx4 (fun h0 => .pgCmd h0))

theorem Keeps.execCtxRestore {o : State} {x0 : Init} {x1 : Fin 32} {x2 : BitVec 8} {x3 : Fin 4} {x4 : State} (hx4 : Keeps o x4) : KeepsOut o (execCtxRestore x0 x1 x2 x3 x4) := by
  unfold Sys2Proof.Machine.execCtxRestore
  exact .next (.onWrite hx4 (fun h0 => .pgCmd h0))

theorem Keeps.execCtxDrop {o : State} {x0 : Init} {x1 : Fin 32} {x2 : BitVec 8} {x3 : Fin 4} {x4 : State} (hx4 : Keeps o x4) : KeepsOut o (execCtxDrop x0 x1 x2 x3 x4) := by
  unfold Sys2Proof.Machine.execCtxDrop
  exact .next (.onWrite hx4 (fun h0 => .pgCmd h0))

theorem Keeps.execPageResultPop {o : State} {x0 : Init} {x1 : Fin 32} {x2 : State} (hx2 : Keeps o x2) : KeepsOut o (execPageResultPop x0 x1 x2) := by
  unfold Sys2Proof.Machine.execPageResultPop
  exact .next (.onRead hx2 (fun h0 => .pgPop h0))

theorem Keeps.execSaLoad {o : State} {x0 : Init} {x1 : BitVec 8} {x2 : Fin 256} {x3 : State} (hx3 : Keeps o x3) : KeepsOut o (execSaLoad x0 x1 x2 x3) := by
  unfold Sys2Proof.Machine.execSaLoad
  exact .next (.onWrite hx3 (fun h0 => .saCmd h0))

theorem Keeps.execAlarmCondition {o : State} {x0 : Fin 10} {x1 : State} (hx1 : Keeps o x1) : KeepsOut o (execAlarmCondition x0 x1) := by
  unfold Sys2Proof.Machine.execAlarmCondition
  exact .next (.alarm hx1)

theorem Keeps.execAlarmEraseDone {o x0 : State} (hx0 : Keeps o x0) : KeepsOut o (execAlarmEraseDone x0) := by
  unfold Sys2Proof.Machine.execAlarmEraseDone
  refine .ite ?_ ?_
  · exact .next hx0
  · extract_lets -merge +onlyGivenNames t0 t2 t4 t6 t8
    have h1 : Keeps o (t0) := .alarmWipe hx0
    have h3 : Keeps o (t2) := .wf (.setCry h1)
    have h5 : Keeps o (t4).1 := .draw h3
    have h7 : Keeps o (t6) := .setCry h5
    have h9 : Keeps o (t8) := .wf (.wf h7)
    clear_value t0 t2 t4 t6 t8
    exact .next (.raise (.bumpTo h9))

/-! Stp -/

theorem Keeps.keepAllLim {o x0 : State} (hx0 : Keeps o x0) : Keeps o (State.keepAllLim x0) :=
  .foldl (fun h => .keepLim h) hx0

theorem Keeps.stpPop {o : State} {x0 : Init} {x1 : State} (hx1 : Keeps o x1) : Keeps o (State.stpPop x0 x1) := by
  unfold State.stpPop
  split
  · exact .answer hx1
  · exact .answer (.setStp hx1)

theorem Keeps.stpPush {o : State} {x0 : Word} {x1 : State} (hx1 : Keeps o x1) : Keeps o (State.stpPush x0 x1) := by
  unfold State.stpPush
  refine .ite ?_ ?_
  · exact hx1
  · extract_lets -merge +onlyGivenNames t0 t1
    clear_value t0 t1
    exact .ite (.setStp hx1) (.refuse hx1)

theorem Keeps.execStpPendWrite {o : State} {x0 : Init} {x1 : Word} {x2 : State} (hx2 : Keeps o x2) : KeepsOut o (execStpPendWrite x0 x1 x2) := by
  unfold Sys2Proof.Machine.execStpPendWrite
  exact .next (.onWrite hx2 (fun h0 => by
    extract_lets -merge +onlyGivenNames t1
    clear_value t1
    exact .ite (.setRec h0) (.refuse h0)))

theorem Keeps.moveDecide {o x0 : State} {x1 : Nat} {x2 : Nat} {x3 : Nat} (hx0 : Keeps o x0) : Keeps o (State.moveDecide x0 x1 x2 x3) := by
  unfold State.moveDecide
  split
  · exact hx0
  · extract_lets -merge +onlyGivenNames t0 t1
    clear_value t0 t1
    split
    · exact .ite (.in_wlan hx0) hx0
    · exact hx0

theorem Keeps.idleMpdu {o x0 : State} {x1 : Nat} (hx0 : Keeps o x0) : Keeps o (State.idleMpdu x0 x1) :=
  .in_mpdus hx0

theorem Keeps.failMpdu {o x0 : State} {x1 : Nat} {x2 : Nat} {x3 : Nat} (hx0 : Keeps o x0) : Keeps o (State.failMpdu x0 x1 x2 x3) := by
  unfold State.failMpdu
  split
  · exact hx0
  · extract_lets -merge +onlyGivenNames t0
    clear_value t0
    exact .ite (.bump (.endMpdu hx0)) (.moveDecide (.idleMpdu hx0))

theorem Keeps.predict {o x0 : State} {x1 : Nat} (hx0 : Keeps o x0) : Keeps o (State.predict x0 x1) := by
  unfold State.predict
  extract_lets -merge +onlyGivenNames t0 t1
  have h2 : Keeps o (t1) := .setRec hx0
  clear_value t0 t1
  exact .ite (.setRec h2) h2

theorem Keeps.driftLearn {o x0 : State} {x1 : Nat} {x2 : Bool} {x3 : GTime} (hx0 : Keeps o x0) : Keeps o (State.driftLearn x0 x1 x2 x3) := by
  unfold State.driftLearn
  refine .ite ?_ ?_
  · exact hx0
  · extract_lets -merge +onlyGivenNames t0 t1 t2 t3 t4 t6 t7 t9 t10 t11 t12 t14 t16
    have h5 : Keeps o (t4).2 := by
      unfold t4
      clear_value t0 t1 t2 t3
      split
      · exact .used hx0
      · exact hx0
    have h8 : Keeps o (t7) := .ite (.setRecGt (.setRec h5)) hx0
    have h13 : Keeps o (t12) := .setRec (.setRec h8)
    have h15 : Keeps o (t14) := .ite (.setRec h13) h13
    have h17 : Keeps o (t16) := .ite (.raise h15) h15
    clear_value t0 t1 t2 t3 t4 t6 t7 t9 t10 t11 t12 t14 t16
    exact .predict h17

theorem Keeps.execDriftSample {o : State} {x0 : BitVec 12} {x1 : Bool} {x2 : GTime} {x3 : State} (hx3 : Keeps o x3) : KeepsOut o (execDriftSample x0 x1 x2 x3) := by
  unfold Sys2Proof.Machine.execDriftSample
  exact .next (.driftLearn hx3)

theorem Keeps.stpDone {o x0 : State} {x1 : List Word} {x2 : Nat} (hx0 : Keeps o x0) : Keeps o (State.stpDone x0 x1 x2) := by
  unfold State.stpDone
  extract_lets -merge +onlyGivenNames t0 t2 t4
  have h1 : Keeps o (t0) := .setStp hx0
  have h3 : Keeps o (t2) := .ite (.setStp h1) (.bump h1)
  have h5 : Keeps o (t4) := .ite (.bump h3) h3
  clear_value t0 t2 t4
  exact .ite h5 (.raise h5)

theorem Keeps.stpRun {o x0 : State} {x1 : Nat} {x2 : Nat} {x3 : Nat} {x4 : State → List Word → State × Nat} (hx0 : Keeps o x0) (hx4 : ∀ {y0} {y1}, Keeps o y0 → Keeps o (x4 y0 y1).1) : Keeps o (State.stpRun x0 x1 x2 x3 x4) := by
  unfold State.stpRun
  split
  · exact hx0
  · extract_lets -merge +onlyGivenNames t0 t1
    clear_value t0 t1
    refine .ite ?_ ?_
    · exact hx0
    · refine .ite ?_ ?_
      · exact .stpDone hx0
      · refine .ite ?_ ?_
        · exact .stpDone hx0
        · refine .ite ?_ ?_
          · exact .stpDone hx0
          · extract_lets -merge +onlyGivenNames t2
            have h3 : Keeps o (t2).1 := hx4 hx0
            clear_value t2
            exact .stpDone h3

theorem Keeps.onRec {o x0 : State} {x1 : List Word} {x2 : State → Nat → State × Nat} (hx0 : Keeps o x0) (hx2 : ∀ {y0} {y1}, Keeps o y0 → Keeps o (x2 y0 y1).1) : Keeps o (State.onRec x0 x1 x2).1 := by
  unfold State.onRec
  refine .iteP ?_ ?_
  · exact hx0
  · exact hx2 hx0

theorem Keeps.execClResume {o x0 : State} (hx0 : Keeps o x0) : KeepsOut o (execClResume x0) := by
  unfold Sys2Proof.Machine.execClResume
  exact .next (.stpRun hx0 (fun h0 => by
    exact .onRec h0 (fun h1 => by
      refine .iteP ?_ ?_
      · exact h1
      · exact .keepLim (.setRecState h1))))

theorem Keeps.addWord {o x0 : State} {x1 : Nat} {x2 : Nat} {x3 : Nat} {x4 : Nat} {x5 : Bool} (hx0 : Keeps o x0) : Keeps o (State.addWord x0 x1 x2 x3 x4 x5) := by
  unfold State.addWord
  extract_lets -merge +onlyGivenNames t0
  clear_value t0
  exact .write32 hx0

theorem Keeps.clAdd {o x0 : State} {x1 : Nat} {x2 : Nat} (hx0 : Keeps o x0) : Keeps o (State.clAdd x0 x1 x2) := by
  unfold State.clAdd
  extract_lets -merge +onlyGivenNames t0 t1 t3 t5 t7 t9 t11
  have h2 : Keeps o (t1) := .foldl (fun h => .addWord h) hx0
  have h4 : Keeps o (t3) := .setRec (.setRec h2)
  have h6 : Keeps o (t5) := .foldl (fun h => .setRec h) h4
  have h8 : Keeps o (t7) := .ite h6 (.setRec h6)
  have h10 : Keeps o (t9) := .setRec h8
  have h12 : Keeps o (t11) := .setStp h10
  clear_value t0 t1 t3 t5 t7 t9 t11
  exact .wf h12

theorem Keeps.twtPlace {o x0 : State} {x1 : Nat} {x2 : Nat} (hx0 : Keeps o x0) : Keeps o (State.twtPlace x0 x1 x2).1 := by
  simp only [State.twtPlace]
  refine .iteP ?_ ?_
  · exact hx0
  · refine .iteP ?_ ?_
    · exact hx0
    · refine .iteP ?_ ?_
      · exact hx0
      · exact .keepLim (.setRecGt (.setRec (.wmf (.writeN (.setWords hx0)))))

theorem Keeps.execClDel {o x0 : State} (hx0 : Keeps o x0) : KeepsOut o (execClDel x0) := by
  unfold Sys2Proof.Machine.execClDel
  exact .next (.stpRun hx0 (fun h0 => by
    exact .onRec h0 (fun h1 => by
      refine .iteP ?_ ?_
      · exact h1
      · extract_lets -merge +onlyGivenNames t2 t4
        have h3 : Keeps o (t2) := .setRec (.setRecState h1)
        have h5 : Keeps o (t4) := .setStp h3
        clear_value t2 t4
        exact .wf h5)))

theorem Keeps.advanceNext {o x0 : State} {x1 : Nat} (hx0 : Keeps o x0) : Keeps o (State.advanceNext x0 x1) := by
  unfold State.advanceNext
  extract_lets -merge +onlyGivenNames t0
  clear_value t0
  split
  · exact hx0
  · exact .setRecGt hx0

theorem Keeps.execTwtPlace {o x0 : State} (hx0 : Keeps o x0) : KeepsOut o (execTwtPlace x0) := by
  unfold Sys2Proof.Machine.execTwtPlace
  exact .next (.stpRun hx0 (fun h0 => .onRec h0 (fun h1 => .twtPlace h1)))

theorem Keeps.histCount {o x0 : State} {x1 : Nat} {x2 : Nat} {x3 : Nat} {x4 : Nat} {x5 : Nat} (hx0 : Keeps o x0) : Keeps o (State.histCount x0 x1 x2 x3 x4 x5) := by
  unfold State.histCount
  extract_lets -merge +onlyGivenNames t0
  clear_value t0
  refine .ite ?_ ?_
  · exact hx0
  · refine .ite ?_ ?_
    · extract_lets -merge +onlyGivenNames t1
      clear_value t1
      exact .raise (.bump (.store (.eccRead hx0)))
    · extract_lets -merge +onlyGivenNames t2
      clear_value t2
      exact .ite (.setByte (.setByte hx0)) (.setByte (.setByte hx0))

theorem Keeps.keepRate {o x0 : State} {x1 : Nat} {x2 : Nat} (hx0 : Keeps o x0) : Keeps o (State.keepRate x0 x1 x2) := by
  unfold State.keepRate
  extract_lets -merge +onlyGivenNames t0 t1
  clear_value t0 t1
  exact .setRec hx0

theorem Keeps.setMcs {o x0 : State} {x1 : Nat} {x2 : Nat} {x3 : Nat} {x4 : Nat} (hx0 : Keeps o x0) : Keeps o (State.setMcs x0 x1 x2 x3 x4) := by
  unfold State.setMcs
  extract_lets -merge +onlyGivenNames t0
  clear_value t0
  exact .ite hx0 (.setRec (.setRec (.setRec hx0)))

theorem Keeps.rateStep {o x0 : State} {x1 : Nat} {x2 : Nat} {x3 : Nat} (hx0 : Keeps o x0) : Keeps o (State.rateStep x0 x1 x2 x3) :=
  .ite (.ite (.setRec (.ite (.ite (.ite (.ite hx0 (.ite (.setMcs (.setRec hx0)) (.setRec hx0))) (.setMcs (.ite hx0 (.ite (.setMcs (.setRec hx0)) (.setRec hx0))))) (.setMcs (.ite hx0 (.ite (.setMcs (.setRec hx0)) (.setRec hx0))))) (.ite hx0 (.ite (.setMcs (.setRec hx0)) (.setRec hx0))))) (.setRec (.setRec (.ite (.ite (.ite (.ite hx0 (.ite (.setMcs (.setRec hx0)) (.setRec hx0))) (.setMcs (.ite hx0 (.ite (.setMcs (.setRec hx0)) (.setRec hx0))))) (.setMcs (.ite hx0 (.ite (.setMcs (.setRec hx0)) (.setRec hx0))))) (.ite hx0 (.ite (.setMcs (.setRec hx0)) (.setRec hx0))))))) (.ite (.ite (.ite (.ite hx0 (.ite (.setMcs (.setRec hx0)) (.setRec hx0))) (.setMcs (.ite hx0 (.ite (.setMcs (.setRec hx0)) (.setRec hx0))))) (.setMcs (.ite hx0 (.ite (.setMcs (.setRec hx0)) (.setRec hx0))))) (.ite hx0 (.ite (.setMcs (.setRec hx0)) (.setRec hx0))))

theorem Keeps.debtCharge {o x0 : State} {x1 : Nat} {x2 : Nat} {x3 : Nat} {x4 : Nat} (hx0 : Keeps o x0) : Keeps o (State.debtCharge x0 x1 x2 x3 x4) := by
  unfold State.debtCharge
  extract_lets -merge +onlyGivenNames t0 t1
  have h2 : Keeps o (t1) := .ite hx0 (.setRec hx0)
  clear_value t0 t1
  exact .setRec h2

theorem Keeps.execExchangeResult {o : State} {x0 : WRadio} {x1 : BitVec 12} {x2 : ExchangeIn} {x3 : State} (hx3 : Keeps o x3) : KeepsOut o (execExchangeResult x0 x1 x2 x3) := by
  unfold Sys2Proof.Machine.execExchangeResult
  extract_lets -merge +onlyGivenNames t0 t1 t2
  clear_value t0 t1 t2
  refine .ite ?_ ?_
  · exact .next hx3
  · extract_lets -merge +onlyGivenNames t3 t4 t5 t6 t7 t9 t11 t13 t15 t17 t19 t21 t23 t25
    have h8 : Keeps o (t7) := .setRec hx3
    have h10 : Keeps o (t9) := .setRec h8
    have h12 : Keeps o (t11) := .setRec h10
    have h14 : Keeps o (t13) := .ite h12 (.setRec h12)
    have h16 : Keeps o (t15) := .ite (.setRec h14) h14
    have h18 : Keeps o (t17) := .histCount h16
    have h20 : Keeps o (t19) := .keepRate (.rateStep h18)
    have h22 : Keeps o (t21) := .debtCharge h20
    have h24 : Keeps o (t23) := .foldl (fun h => .endMpdu h) h22
    have h26 : Keeps o (t25) := .foldl (fun h => .failMpdu h) h24
    clear_value t3 t4 t5 t6 t7 t9 t11 t13 t15 t17 t19 t21 t23 t25
    exact .next (.keepLim h26)

theorem Keeps.heardFrom {o x0 : State} {x1 : Nat} {x2 : GTime} {x3 : Bool} (hx0 : Keeps o x0) : Keeps o (State.heardFrom x0 x1 x2 x3) :=
  .ite hx0 (.keepLim (.ite (.setStp (.setRecGt hx0)) (.ite (.predict (.raise (.bump (.setRecState (.setRec (.setRec (.setRec (.setRecGt (.setRec (.setStp (.setRecGt hx0))))))))))) (.ite (.setStp (.ite (.setRecState (.setRec (.setRec (.setStp (.setRecGt hx0))))) (.setRec (.setRec (.setStp (.setRecGt hx0)))))) (.ite (.setRecState (.setStp (.setRecGt hx0))) (.setStp (.setRecGt hx0)))))))

theorem Keeps.execStpCmdPush {o : State} {x0 : Init} {x1 : Word} {x2 : State} (hx2 : Keeps o x2) : KeepsOut o (execStpCmdPush x0 x1 x2) := by
  unfold Sys2Proof.Machine.execStpCmdPush
  exact .next (.onWrite hx2 (fun h0 => .stpPush h0))

theorem Keeps.execStpResultPop {o : State} {x0 : Init} {x1 : State} (hx1 : Keeps o x1) : KeepsOut o (execStpResultPop x0 x1) := by
  unfold Sys2Proof.Machine.execStpResultPop
  exact .next (.onRead hx1 (fun h0 => .stpPop h0))

theorem Keeps.execClSusp {o x0 : State} (hx0 : Keeps o x0) : KeepsOut o (execClSusp x0) := by
  unfold Sys2Proof.Machine.execClSusp
  exact .next (.stpRun hx0 (fun h0 => by
    exact .onRec h0 (fun h1 => by
      refine .iteP ?_ ?_
      · exact h1
      · extract_lets -merge +onlyGivenNames t2
        have h3 : Keeps o (t2) := .setStp h1
        clear_value t2
        exact .keepLim (.setRecState h3))))

theorem Keeps.stpEnter {o x0 : State} {x1 : Nat} (hx0 : Keeps o x0) : Keeps o (State.stpEnter x0 x1) :=
  .ite hx0 (.raise (.wf hx0))

theorem Keeps.execStpRun {o x0 : State} (hx0 : Keeps o x0) : KeepsOut o (execStpRun x0) := by
  unfold Sys2Proof.Machine.execStpRun
  exact .next (.stpRun hx0 (fun h0 => .keepAllLim (.stpEnter h0)))

theorem Keeps.execStpStop {o x0 : State} (hx0 : Keeps o x0) : KeepsOut o (execStpStop x0) := by
  unfold Sys2Proof.Machine.execStpStop
  exact .next (.stpRun hx0 (fun h0 => .keepAllLim (.stpEnter h0)))

theorem Keeps.execClAdd {o x0 : State} (hx0 : Keeps o x0) : KeepsOut o (execClAdd x0) := by
  unfold Sys2Proof.Machine.execClAdd
  exact .next (.stpRun hx0 (fun h0 => by
    refine .iteP ?_ ?_
    · exact h0
    · exact .clAdd h0))

theorem Keeps.execClWord {o x0 : State} (hx0 : Keeps o x0) : KeepsOut o (execClWord x0) := by
  unfold Sys2Proof.Machine.execClWord
  exact .next (.stpRun hx0 (fun h0 => by
    exact .onRec h0 (fun h1 => by
      extract_lets -merge +onlyGivenNames t2 t3 t4 t5
      have h6 : Keeps o (t5) := .write32 h1
      clear_value t2 t3 t4 t5
      exact .keepLim h6)))

theorem Keeps.execTwtFree {o x0 : State} (hx0 : Keeps o x0) : KeepsOut o (execTwtFree x0) := by
  unfold Sys2Proof.Machine.execTwtFree
  exact .next (.stpRun hx0 (fun h0 => by
    exact .onRec h0 (fun h1 => by
      extract_lets -merge +onlyGivenNames t2
      clear_value t2
      refine .iteP ?_ ?_
      · exact h1
      · exact .setRec (.wmf h1))))

theorem Keeps.execDriftReset {o x0 : State} (hx0 : Keeps o x0) : KeepsOut o (execDriftReset x0) := by
  unfold Sys2Proof.Machine.execDriftReset
  exact .next (.stpRun hx0 (fun h0 => by
    exact .onRec h0 (fun h1 => by
      extract_lets -merge +onlyGivenNames t2 t4
      have h3 : Keeps o (t2) := .setRec (.setRec (.setRec h1))
      have h5 : Keeps o (t4) := .setRec (.setRec h3)
      clear_value t2 t4
      exact .keepLim (.setRecState h5))))

theorem Keeps.spMiss {o x0 : State} {x1 : Nat} (hx0 : Keeps o x0) : Keeps o (State.spMiss x0 x1) := by
  unfold State.spMiss
  extract_lets -merge +onlyGivenNames t0 t1 t2 t4 t6 t8
  have h3 : Keeps o (t2) := .setRec hx0
  have h5 : Keeps o (t4) := .setRecState h3
  have h7 : Keeps o (t6) := .ite h5 (.setRec h5)
  have h9 : Keeps o (t8) := .raise (.bump h7)
  clear_value t0 t1 t2 t4 t6 t8
  exact .ite (.raise (.bump h9)) h9

theorem Keeps.spOver {o x0 : State} {x1 : Nat} (hx0 : Keeps o x0) : Keeps o (State.spOver x0 x1) := by
  unfold State.spOver
  extract_lets -merge +onlyGivenNames t0 t2
  have h1 : Keeps o (t0) := .ite (.setRecState hx0) hx0
  have h3 : Keeps o (t2) := .setStp h1
  clear_value t0 t2
  exact .predict (.advanceNext h3)

theorem Keeps.execSpWindowEnd {o : State} {x0 : BitVec 12} {x1 : State} (hx1 : Keeps o x1) : KeepsOut o (execSpWindowEnd x0 x1) := by
  unfold Sys2Proof.Machine.execSpWindowEnd
  extract_lets -merge +onlyGivenNames t0 t1
  clear_value t0 t1
  refine .ite ?_ ?_
  · exact .next hx1
  · extract_lets -merge +onlyGivenNames t2
    have h3 : Keeps o (t2) := .ite hx1 (.spMiss hx1)
    clear_value t2
    exact .next (.keepLim (.spOver h3))

theorem Keeps.execListenEnd {o : State} {x0 : BitVec 12} {x1 : State} (hx1 : Keeps o x1) : KeepsOut o (execListenEnd x0 x1) := by
  unfold Sys2Proof.Machine.execListenEnd
  extract_lets -merge +onlyGivenNames t0
  clear_value t0
  refine .ite ?_ ?_
  · exact .next (.keepLim (.raise (.bump (.setRecState hx1))))
  · exact .next hx1

end Sys2Proof.Machine
end

