-- ==== Sys2Proof/Laws/Keeps4.lean ====
section
/-! SUPPORT. What every operation keeps (`Keeps`), one lemma for each: Drc, Gc, Evr, Can, Pke, Xspi. -/

set_option Elab.async false

namespace Sys2Proof.Machine

/-! Drc -/

theorem Keeps.drcPop {o : State} {x0 : Init} {x1 : State} (hx1 : Keeps o x1) : Keeps o (State.drcPop x0 x1) := by
  unfold State.drcPop
  split
  · exact .answer hx1
  · exact .answer (.setDrc hx1)

theorem Keeps.bgWindow {o x0 : State} {x1 : Bool} {x2 : Bool} (hx0 : Keeps o x0) : Keeps o (State.bgWindow x0 x1 x2) :=
  .ite (.wb hx0) (.wb hx0)

theorem Keeps.drcDone {o x0 : State} {x1 : Nat} {x2 : Nat} {x3 : Nat} (hx0 : Keeps o x0) : Keeps o (State.drcDone x0 x1 x2 x3) := by
  unfold State.drcDone
  extract_lets -merge +onlyGivenNames t0
  have h1 : Keeps o (t0) := .ite (.setDrc hx0) hx0
  clear_value t0
  exact .ite (.raise (.bump h1)) h1

theorem Keeps.dramLost {o x0 : State} (hx0 : Keeps o x0) : Keeps o x0.dramLost :=
  hx0.trans ⟨fun i => ⟨⟨i.1.1, Sparse.wf_filter _ _ _ i.1.2.1, i.1.2.2.1, Sparse.wf_drop _ (fun k => isDram (8 * k)) _ i.1.2.2.2⟩,
    i.2⟩, rfl, Nat.le_refl _⟩

theorem Keeps.drcEnter {o x0 : State} {x1 : Nat} (hx0 : Keeps o x0) : Keeps o (State.drcEnter x0 x1) := by
  unfold State.drcEnter
  extract_lets -merge +onlyGivenNames t0
  clear_value t0
  refine .ite ?_ ?_
  · exact hx0
  · extract_lets -merge +onlyGivenNames t1 t3 t5
    have h2 : Keeps o (t1) := .raise (.wf hx0)
    have h4 : Keeps o (t3) := .ite h2 (.setDrc h2)
    have h6 : Keeps o (t5) := .ite (.dramLost h4) h4
    clear_value t1 t3 t5
    exact .keepAllLim (.setStep h6)

theorem Keeps.trainGo {o x0 : State} {x1 : Nat} {x2 : Nat} {x3 : Nat} (hx0 : Keeps o x0) : Keeps o (State.trainGo x0 x1 x2 x3) :=
  .drcEnter (.setDrc hx0)

theorem Keeps.trainEnd {o x0 : State} {x1 : Nat} {x2 : Nat} {x3 : Nat} (hx0 : Keeps o x0) : Keeps o (State.trainEnd x0 x1 x2 x3) := by
  unfold State.trainEnd
  split
  · exact hx0
  · extract_lets -merge +onlyGivenNames t0 t2
    have h1 : Keeps o (t0) := .setDrc hx0
    have h3 : Keeps o (t2) := .setRegN h1
    clear_value t0 t2
    exact .raise (.drcDone h3)

theorem Keeps.nrefs {o x0 : State} {x1 : Nat} {x2 : Nat} (hx0 : Keeps o x0) : Keeps o (State.nrefs x0 x1 x2) :=
  .setDrc (.bumpBy hx0)

theorem Keeps.raaServe {o x0 : State} {x1 : Nat} {x2 : Nat} (hx0 : Keeps o x0) : Keeps o (State.raaServe x0 x1 x2) := by
  unfold State.raaServe
  extract_lets -merge +onlyGivenNames t0
  clear_value t0
  refine .ite ?_ ?_
  · extract_lets -merge +onlyGivenNames t1
    have h2 : Keeps o (t1) := .ite (.nrefs hx0) (.nrefs hx0)
    clear_value t1
    exact .setDrc h2
  · exact hx0

theorem Keeps.raaCount {o x0 : State} {x1 : Nat} {x2 : Nat} (hx0 : Keeps o x0) : Keeps o (State.raaCount x0 x1 x2) := by
  unfold State.raaCount
  extract_lets -merge +onlyGivenNames t0 t1
  have h3 : ∀ {y0} {y1}, Keeps o y0 → Keeps o (t1 y0 y1) := fun h2 => .setDrc h2
  clear_value t0 t1
  refine .ite ?_ ?_
  · exact h3 hx0
  · refine .ite ?_ ?_
    · exact h3 hx0
    · extract_lets -merge +onlyGivenNames t4
      clear_value t4
      exact h3 (.used hx0)

theorem Keeps.dramServe {o x0 : State} {x1 : DramReq} (hx0 : Keeps o x0) : Keeps o (State.dramServe x0 x1) := by
  unfold State.dramServe
  extract_lets -merge +onlyGivenNames t0 t1 t2
  have h3 : Keeps o (t2) := .setDrc hx0
  clear_value t0 t1 t2
  refine .ite ?_ ?_
  · exact .setDrc h3
  · extract_lets -merge +onlyGivenNames t4
    have h5 : Keeps o (t4) := .setDrc h3
    clear_value t4
    exact .raaServe (.raaCount h5)

theorem Keeps.dramDrain {o x0 : State} {x1 : Nat} (hx0 : Keeps o x0) : Keeps o (State.dramDrain x0 x1) := by
  induction x1 generalizing x0 with
  | zero =>
    exact hx0
  | succ n ih =>
    rw [State.dramDrain]
    split
    · exact hx0
    · split
      · exact hx0
      · exact ih (.dramServe hx0)

theorem Keeps.dramAbort {o x0 : State} (hx0 : Keeps o x0) : Keeps o (State.dramAbort x0) := by
  unfold State.dramAbort
  extract_lets -merge +onlyGivenNames t0 t1
  have h2 : Keeps o (t1) := .setDrc hx0
  clear_value t0 t1
  exact .foldl (fun h => .dite (fun _ => .busErr h) (fun _ => h)) h2

theorem Keeps.drcAccept {o x0 : State} {x1 : Nat} {x2 : Nat} {x3 : Nat} (hx0 : Keeps o x0) : Keeps o (State.drcAccept x0 x1 x2 x3) := by
  unfold State.drcAccept
  extract_lets -merge +onlyGivenNames t0
  clear_value t0
  refine .ite ?_ ?_
  · exact .trainGo hx0
  · refine .ite ?_ ?_
    · exact .ite (.trainEnd (.setDrc hx0)) (.trainGo hx0)
    · refine .ite ?_ ?_
      · exact .drcDone (.drcEnter (.dramDrain hx0))
      · refine .ite ?_ ?_
        · exact .drcDone (.drcEnter (.bump hx0))
        · extract_lets -merge +onlyGivenNames t1
          have h2 : Keeps o (t1) := .ite (.trainEnd hx0) hx0
          clear_value t1
          exact .drcDone (.drcEnter (.dramAbort h2))

theorem Keeps.drcCmd {o : State} {x0 : Nat} {x1 : Nat} {x2 : Nat} {x3 : State} (hx3 : Keeps o x3) : Keeps o (State.drcCmd x0 x1 x2 x3) := by
  unfold State.drcCmd
  refine .ite ?_ ?_
  · exact .refuse hx3
  · extract_lets -merge +onlyGivenNames t0
    clear_value t0
    exact .ite (.drcDone hx3) (.ite (.drcDone hx3) (.drcAccept hx3))

theorem Keeps.injWrite {o : State} {x0 : Nat} {x1 : Bool} {x2 : Word} {x3 : State} (hx3 : Keeps o x3) : Keeps o (State.injWrite x0 x1 x2 x3) :=
  .ite (.refuse hx3) (.writeReg hx3)

theorem Keeps.memRead {o x0 : State} {x1 : Init} {x2 : Nat} {x3 : Nat} (hx0 : Keeps o x0) : Keeps o (State.memRead x0 x1 x2 x3) := by
  unfold State.memRead
  extract_lets -merge +onlyGivenNames t0
  clear_value t0
  refine .ite ?_ ?_
  · extract_lets -merge +onlyGivenNames t1
    have h2 : Keeps o (t1) := .busErr (.eccRead hx0)
    clear_value t1
    exact .ite (.alarm h2) h2
  · exact .emit (.eccRead hx0)

theorem Keeps.execDramRefresh {o : State} {x0 : Fin 4} {x1 : Fin 16} {x2 : State} (hx2 : Keeps o x2) : KeepsOut o (execDramRefresh x0 x1 x2) := by
  unfold Sys2Proof.Machine.execDramRefresh
  refine .ite ?_ ?_
  · exact .next hx2
  · extract_lets -merge +onlyGivenNames t0
    clear_value t0
    exact .next (.setDrc hx2)

theorem Keeps.execNrefAlarm {o x0 : State} (hx0 : Keeps o x0) : KeepsOut o (execNrefAlarm x0) := by
  unfold Sys2Proof.Machine.execNrefAlarm
  refine .ite ?_ ?_
  · exact .next (.raise (.setDrc hx0))
  · exact .next hx0

theorem Keeps.execMemoryAccess {o : State} {x0 : Init} {x1 : BitVec 36} {x2 : MemOp} {x3 : State} (hx3 : Keeps o x3) : KeepsOut o (execMemoryAccess x0 x1 x2 x3) := by
  unfold Sys2Proof.Machine.execMemoryAccess
  split
  · refine .ite ?_ ?_
    · exact .next (.memRead hx3)
    · exact .next (.busErr hx3)
  · refine .ite ?_ ?_
    · exact .next (.store hx3)
    · exact .next (.busErr hx3)

theorem Keeps.execDrcResultPop {o : State} {x0 : Init} {x1 : State} (hx1 : Keeps o x1) : KeepsOut o (execDrcResultPop x0 x1) := by
  unfold Sys2Proof.Machine.execDrcResultPop
  exact .next (.onRead hx1 (fun h0 => .drcPop h0))

theorem Keeps.execMr4Poll {o : State} {x0 : Word} {x1 : State} (hx1 : Keeps o x1) : KeepsOut o (execMr4Poll x0 x1) := by
  unfold Sys2Proof.Machine.execMr4Poll
  refine .ite ?_ ?_
  · exact .next hx1
  · extract_lets -merge +onlyGivenNames t0 t1
    have h2 : Keeps o (t1) := .setReg hx1
    clear_value t0 t1
    refine .ite ?_ ?_
    · exact .next (.raise h2)
    · exact .next h2

theorem Keeps.execRaaTableClear {o x0 : State} (hx0 : Keeps o x0) : KeepsOut o (execRaaTableClear x0) := by
  unfold Sys2Proof.Machine.execRaaTableClear
  exact .next (.setDrc hx0)

theorem Keeps.scrubDram {o x0 : State} (hx0 : Keeps o x0) : Keeps o (State.scrubDram x0) := by
  unfold State.scrubDram
  extract_lets -merge +onlyGivenNames t0 t1 t2
  have h3 : Keeps o (t2) := .eccWords (.bumpBy hx0)
  clear_value t0 t1 t2
  exact .ite (.wf h3) (.setDrc (.wb (.wf h3)))

theorem Keeps.execSridleEnter {o x0 : State} (hx0 : Keeps o x0) : KeepsOut o (execSridleEnter x0) := by
  unfold Sys2Proof.Machine.execSridleEnter
  refine .ite ?_ ?_
  · exact .next (.drcEnter hx0)
  · exact .next hx0

theorem Keeps.execScrubOverdue {o : State} {x0 : Bool} {x1 : State} (hx1 : Keeps o x1) : KeepsOut o (execScrubOverdue x0 x1) := by
  unfold Sys2Proof.Machine.execScrubOverdue
  refine .ite ?_ ?_
  · refine .ite ?_ ?_
    · exact .next (.raise (.wb hx1))
    · exact .next hx1
  · refine .ite ?_ ?_
    · exact .next (.raise (.wb hx1))
    · exact .next hx1

theorem Keeps.trainFail {o x0 : State} {x1 : DrcTrain} {x2 : Nat} {x3 : Nat} (hx0 : Keeps o x0) : Keeps o (State.trainFail x0 x1 x2 x3) :=
  .limit (.drcEnter (.trainEnd (.wf hx0)))

theorem Keeps.trrecWrite {o x0 : State} (hx0 : Keeps o x0) : Keeps o (State.trrecWrite x0) := by
  unfold State.trrecWrite
  refine .ite ?_ ?_
  · exact hx0
  · extract_lets -merge +onlyGivenNames t0
    clear_value t0
    exact .setBytes (.used hx0)

theorem Keeps.trainPass {o x0 : State} {x1 : DrcTrain} (hx0 : Keeps o x0) : Keeps o (State.trainPass x0 x1) := by
  unfold State.trainPass
  extract_lets -merge +onlyGivenNames t0 t2
  have h1 : Keeps o (t0) := .wf (.wf (.wf hx0))
  have h3 : Keeps o (t2) := .ite (.trrecWrite h1) h1
  clear_value t0 t2
  exact .limit (.drcEnter (.trainEnd h3))

theorem Keeps.execBackgroundWindowClose {o : State} {x0 : Bool} {x1 : State} (hx1 : Keeps o x1) : KeepsOut o (execBackgroundWindowClose x0 x1) := by
  unfold Sys2Proof.Machine.execBackgroundWindowClose
  exact .next (.bgWindow hx1)

theorem Keeps.execSrEnter {o : State} {x0 : Init} {x1 : BitVec 8} {x2 : Fin 4} {x3 : State} (hx3 : Keeps o x3) : KeepsOut o (execSrEnter x0 x1 x2 x3) := by
  unfold Sys2Proof.Machine.execSrEnter
  exact .next (.onWrite hx3 (fun h0 => .drcCmd h0))

theorem Keeps.dramArrive {o x0 : State} {x1 : DramArrival} (hx0 : Keeps o x0) : Keeps o (State.dramArrive x0 x1) := by
  unfold State.dramArrive
  extract_lets -merge +onlyGivenNames t0
  clear_value t0
  exact .ite (.dite (fun _ => .busErr hx0) (fun _ => hx0)) (.setDrc (.dramTouch hx0))

theorem Keeps.execBackgroundWindowOpen {o : State} {x0 : Bool} {x1 : State} (hx1 : Keeps o x1) : KeepsOut o (execBackgroundWindowOpen x0 x1) := by
  unfold Sys2Proof.Machine.execBackgroundWindowOpen
  exact .next (.bgWindow hx1)

theorem Keeps.execInjectArm {o : State} {x0 : Init} {x1 : Bool} {x2 : Word} {x3 : State} (hx3 : Keeps o x3) : KeepsOut o (execInjectArm x0 x1 x2 x3) := by
  unfold Sys2Proof.Machine.execInjectArm
  exact .next (.onWrite hx3 (fun h0 => .injWrite h0))

theorem Keeps.scrubSram {o x0 : State} (hx0 : Keeps o x0) : Keeps o (State.scrubSram x0) := by
  unfold State.scrubSram
  extract_lets -merge +onlyGivenNames t0 t1 t2
  have h3 : Keeps o (t2) := .eccWords (.bumpBy hx0)
  clear_value t0 t1 t2
  refine .ite ?_ ?_
  · exact .wf (.wf h3)
  · extract_lets -merge +onlyGivenNames t4
    have h5 : Keeps o (t4) := .bump (.wb (.wf (.wf h3)))
    clear_value t4
    exact .setDrc h5

theorem Keeps.execScrubRead {o : State} {x0 : Bool} {x1 : State} (hx1 : Keeps o x1) : KeepsOut o (execScrubRead x0 x1) := by
  unfold Sys2Proof.Machine.execScrubRead
  refine .ite ?_ ?_
  · exact .next hx1
  · refine .ite ?_ ?_
    · exact .next (.scrubDram hx1)
    · exact .next (.scrubSram hx1)

theorem Keeps.execCeAlarm {o : State} {x0 : Bool} {x1 : State} (hx1 : Keeps o x1) : KeepsOut o (execCeAlarm x0 x1) := by
  unfold Sys2Proof.Machine.execCeAlarm
  refine .ite ?_ ?_
  · refine .ite ?_ ?_
    · exact .next (.raise (.setDrc hx1))
    · exact .next hx1
  · refine .ite ?_ ?_
    · exact .next (.raise (.setDrc hx1))
    · exact .next hx1

theorem Keeps.execDramRequest {o : State} {x0 : List DramArrival} {x1 : Fin 4} {x2 : State} (hx2 : Keeps o x2) : KeepsOut o (execDramRequest x0 x1 x2) := by
  unfold Sys2Proof.Machine.execDramRequest
  extract_lets -merge +onlyGivenNames t0
  have h1 : Keeps o (t0) := .foldl (fun h => .dramArrive h) hx2
  clear_value t0
  split
  · exact .next h1
  · refine .ite ?_ ?_
    · exact .next (.dramServe h1)
    · exact .next h1

theorem Keeps.execRequestPromote {o : State} {x0 : Nat} {x1 : State} (hx1 : Keeps o x1) : KeepsOut o (execRequestPromote x0 x1) := by
  unfold Sys2Proof.Machine.execRequestPromote
  split
  · exact .next hx1
  · refine .ite ?_ ?_
    · exact .next (.bump (.setDrc hx1))
    · exact .next hx1

theorem Keeps.execDrcTrain {o : State} {x0 : Init} {x1 : BitVec 8} {x2 : Fin 4} {x3 : State} (hx3 : Keeps o x3) : KeepsOut o (execDrcTrain x0 x1 x2 x3) := by
  unfold Sys2Proof.Machine.execDrcTrain
  exact .next (.onWrite hx3 (fun h0 => .drcCmd h0))

theorem Keeps.execDrcRestore {o : State} {x0 : Init} {x1 : BitVec 8} {x2 : Fin 4} {x3 : State} (hx3 : Keeps o x3) : KeepsOut o (execDrcRestore x0 x1 x2 x3) := by
  unfold Sys2Proof.Machine.execDrcRestore
  exact .next (.onWrite hx3 (fun h0 => .drcCmd h0))

theorem Keeps.execTrainStepDone {o : State} {x0 : BitVec 4} {x1 : Bool} {x2 : Fin 6} {x3 : Bool} {x4 : State} (hx4 : Keeps o x4) : KeepsOut o (execTrainStepDone x0 x1 x2 x3 x4) := by
  unfold Sys2Proof.Machine.execTrainStepDone
  split
  · exact .next hx4
  · refine .ite ?_ ?_
    · exact .next (.trainFail hx4)
    · refine .ite ?_ ?_
      · exact .next (.trainFail hx4)
      · extract_lets -merge +onlyGivenNames t0
        have h1 : Keeps o (t0) := .ite (.wb (.wf hx4)) hx4
        clear_value t0
        refine .ite ?_ ?_
        · exact .next (.trainPass h1)
        · extract_lets -merge +onlyGivenNames t2
          clear_value t2
          exact .next (.setDrc h1)

theorem Keeps.execSrExit {o : State} {x0 : Init} {x1 : BitVec 8} {x2 : Fin 4} {x3 : State} (hx3 : Keeps o x3) : KeepsOut o (execSrExit x0 x1 x2 x3) := by
  unfold Sys2Proof.Machine.execSrExit
  exact .next (.onWrite hx3 (fun h0 => .drcCmd h0))

theorem Keeps.execDrcStop {o : State} {x0 : Init} {x1 : BitVec 8} {x2 : Fin 4} {x3 : State} (hx3 : Keeps o x3) : KeepsOut o (execDrcStop x0 x1 x2 x3) := by
  unfold Sys2Proof.Machine.execDrcStop
  exact .next (.onWrite hx3 (fun h0 => .drcCmd h0))

theorem Keeps.execDumpUnlock {o : State} {x0 : Init} {x1 : Word} {x2 : State} (hx2 : Keeps o x2) : KeepsOut o (execDumpUnlock x0 x1 x2) := by
  unfold Sys2Proof.Machine.execDumpUnlock
  exact .next (.onWrite hx2 (fun h0 => .writeReg h0))

/-! Gc -/

theorem Keeps.setCmp {o x0 : State} {x1 : Nat} {x2 : Nat} (hx0 : Keeps o x0) : Keeps o (State.setCmp x0 x1 x2) :=
  .in_gtu hx0

theorem Keeps.drivePin {o x0 : State} {x1 : Nat} {x2 : Bool} (hx0 : Keeps o x0) : Keeps o (State.drivePin x0 x1 x2) := by
  unfold State.drivePin
  extract_lets -merge +onlyGivenNames t0
  clear_value t0
  exact .in_gtu hx0

theorem Keeps.setPulse {o x0 : State} {x1 : Nat} {x2 : Nat} (hx0 : Keeps o x0) : Keeps o (State.setPulse x0 x1 x2) :=
  .in_gtu hx0

theorem Keeps.pinAct {o x0 : State} {x1 : Nat} {x2 : Nat} {x3 : Nat} (hx0 : Keeps o x0) : Keeps o (State.pinAct x0 x1 x2 x3) :=
  .ite (.drivePin (.setPulse hx0)) (.ite (.drivePin (.setPulse hx0)) (.ite (.drivePin (.setPulse hx0)) (.drivePin (.setPulse hx0))))

theorem Keeps.relayFire {o x0 : State} (hx0 : Keeps o x0) : Keeps o (State.relayFire x0) := by
  unfold State.relayFire
  split
  · exact hx0
  · exact .upd hx0 rfl

theorem Keeps.daliStart {o x0 : State} (hx0 : Keeps o x0) : Keeps o (State.daliStart x0) := by
  unfold State.daliStart
  split
  · exact hx0
  · exact .emit (.in_lum hx0)

theorem Keeps.sampleRadios {o x0 : State} {x1 : List Radio} (hx0 : Keeps o x0) : Keeps o (State.sampleRadios x0 x1) := by
  induction x1 generalizing x0 with
  | nil =>
    exact hx0
  | cons y l ih =>
    rw [State.sampleRadios]
    exact ih (.used (.wf hx0))

theorem Keeps.telemetry {o x0 : State} (hx0 : Keeps o x0) : Keeps o (State.telemetry x0) := by
  unfold State.telemetry
  extract_lets -merge +onlyGivenNames t0 t2 t4 t5 t6 t7 t8 t10
  have h1 : Keeps o (t0) := .sampleRadios (.used (.wf hx0))
  have h3 : Keeps o (t2) := .setReg64 (.used (.setRegN h1))
  have h9 : Keeps o (t8) := .ite (.raise (.setSys h3)) h3
  have h11 : Keeps o (t10) := .ite (.raise (.setSys h9)) h9
  clear_value t0 t2 t4 t5 t6 t7 t8 t10
  exact .ite (.raise h11) h11

theorem Keeps.strobeIn {o x0 : State} {x1 : Nat} (hx0 : Keeps o x0) : Keeps o (State.strobeIn x0 x1) :=
  .ite (.dmaStrobe hx0) (.ite (.rfcStrobe hx0) (.ite (.rfcStrobe hx0) (.ite (.relayFire hx0) (.ite (.daliStart hx0) (.ite (.bgWindow hx0) (.ite (.bgWindow hx0) (.ite (.bgWindow hx0) (.ite (.bgWindow hx0) (.ite (.telemetry hx0) hx0)))))))))

theorem Keeps.gcTarget {o x0 : State} {x1 : Nat} (hx0 : Keeps o x0) : Keeps o (State.gcTarget x0 x1) := by
  unfold State.gcTarget
  extract_lets -merge +onlyGivenNames t0
  clear_value t0
  exact .ite (.pinAct hx0) (.ite (.strobeIn (.emit hx0)) hx0)

theorem Keeps.gcFireNow {o x0 : State} {x1 : Nat} (hx0 : Keeps o x0) : Keeps o (State.gcFireNow x0 x1) := by
  unfold State.gcFireNow
  extract_lets -merge +onlyGivenNames t0 t2 t4 t5
  have h1 : Keeps o (t0) := .wf hx0
  have h3 : Keeps o (t2) := .ite (.setCmp h1) (.wf h1)
  have h6 : Keeps o (t5) := .gcTarget h3
  clear_value t0 t2 t4 t5
  exact .ite (.raise h6) h6

theorem Keeps.gcDisarmNow {o x0 : State} {x1 : Nat} (hx0 : Keeps o x0) : Keeps o (State.gcDisarmNow x0 x1) :=
  .ite (.wf (.wf hx0)) hx0

theorem Keeps.gcFail {o x0 : State} {x1 : Nat} {x2 : Nat} {x3 : Nat} (hx0 : Keeps o x0) : Keeps o (State.gcFail x0 x1 x2 x3) :=
  .raise (.wf (.wf hx0))

theorem Keeps.gcArmNow {o x0 : State} {x1 : Nat} (hx0 : Keeps o x0) : Keeps o (State.gcArmNow x0 x1) := by
  unfold State.gcArmNow
  extract_lets -merge +onlyGivenNames t0 t1 t2
  clear_value t0 t1 t2
  refine .ite ?_ ?_
  · exact .gcFail hx0
  · refine .ite ?_ ?_
    · exact .gcFail hx0
    · refine .ite ?_ ?_
      · exact .gcFail hx0
      · refine .ite ?_ ?_
        · exact .gcFail (.wf hx0)
        · extract_lets -merge +onlyGivenNames t3 t5 d7 t8
          have h4 : Keeps o (t3) := .wf (.wf hx0)
          have h6 : Keeps o (t5) := .setCmp h4
          have h9 : Keeps o (t8) := .in_gtu h6
          clear_value t3 t5 t8
          exact .ite (.gcFireNow h9) h9

theorem Keeps.gcCtrlWrite {o : State} {x0 : Nat} {x1 : Nat} {x2 : Word} {x3 : State} (hx3 : Keeps o x3) : Keeps o (State.gcCtrlWrite x0 x1 x2 x3) := by
  unfold State.gcCtrlWrite
  extract_lets -merge +onlyGivenNames t0
  clear_value t0
  refine .ite ?_ ?_
  · exact .writeReg hx3
  · extract_lets -merge +onlyGivenNames t1 t3 t5
    have h2 : Keeps o (t1) := .ite (.gcFireNow hx3) hx3
    have h4 : Keeps o (t3) := .writeReg h2
    have h6 : Keeps o (t5) := .ite (.gcDisarmNow h4) h4
    clear_value t1 t3 t5
    exact .ite (.gcArmNow h6) h6

theorem Keeps.execPinPulseEnd {o : State} {x0 : Fin 48} {x1 : State} (hx1 : Keeps o x1) : KeepsOut o (execPinPulseEnd x0 x1) := by
  unfold Sys2Proof.Machine.execPinPulseEnd
  extract_lets -merge +onlyGivenNames t0
  clear_value t0
  refine .ite ?_ ?_
  · exact .next (.drivePin (.setPulse hx1))
  · exact .next hx1

theorem Keeps.execGcArm {o : State} {x0 : Init} {x1 : Fin 64} {x2 : Word} {x3 : State} (hx3 : Keeps o x3) : KeepsOut o (execGcArm x0 x1 x2 x3) := by
  unfold Sys2Proof.Machine.execGcArm
  exact .next (.onWrite hx3 (fun h0 => .gcCtrlWrite h0))

theorem Keeps.execGcDisarm {o : State} {x0 : Init} {x1 : Fin 64} {x2 : Word} {x3 : State} (hx3 : Keeps o x3) : KeepsOut o (execGcDisarm x0 x1 x2 x3) := by
  unfold Sys2Proof.Machine.execGcDisarm
  exact .next (.onWrite hx3 (fun h0 => .gcCtrlWrite h0))

theorem Keeps.execGcFire {o : State} {x0 : Fin 64} {x1 : State} (hx1 : Keeps o x1) : KeepsOut o (execGcFire x0 x1) := by
  unfold Sys2Proof.Machine.execGcFire
  refine .ite ?_ ?_
  · exact .next (.gcFireNow hx1)
  · exact .next hx1

/-! Evr -/

theorem Keeps.subPop {o : State} {x0 : Init} {x1 : State} (hx1 : Keeps o x1) : Keeps o (State.subPop x0 x1) := by
  unfold State.subPop
  refine .ite (.answer (.refuse hx1)) ?_
  split
  · exact .answer hx1
  · rename_i he
    refine .answer (.setReg (.setReg (hx1.trans ⟨fun i => ⟨i.1, ?_, i.2.2⟩, rfl, Nat.le_refl _⟩)))
    have h := i.2.1
    rw [he, List.length_cons] at h
    exact Nat.le_of_succ_le h

theorem Keeps.execEventOccurrence {o : State} {x0 : Fin 256} {x1 : State} (hx1 : Keeps o x1) : KeepsOut o (execEventOccurrence x0 x1) := by
  unfold Sys2Proof.Machine.execEventOccurrence
  exact .next (.raise hx1)

theorem Keeps.execEirqPulse {o : State} {x0 : Fin 4} {x1 : State} (hx1 : Keeps o x1) : KeepsOut o (execEirqPulse x0 x1) := by
  unfold Sys2Proof.Machine.execEirqPulse
  refine .ite ?_ ?_
  · exact .next hx1
  · exact .next (.emit (.in_pulses hx1))

theorem Keeps.execPendingClear {o : State} {x0 : Init} {x1 : Fin 14} {x2 : Fin 8} {x3 : Word} {x4 : State} (hx4 : Keeps o x4) : KeepsOut o (execPendingClear x0 x1 x2 x3 x4) := by
  unfold Sys2Proof.Machine.execPendingClear
  exact .next (.onWrite hx4 (fun h0 => .setReg h0))

theorem Keeps.execSoftwareEvent {o : State} {x0 : Init} {x1 : Word} {x2 : State} (hx2 : Keeps o x2) : KeepsOut o (execSoftwareEvent x0 x1 x2) := by
  unfold Sys2Proof.Machine.execSoftwareEvent
  exact .next (.onWrite hx2 (fun h0 => .raiseAll h0))

theorem Keeps.execSubscriptionPop {o : State} {x0 : Init} {x1 : State} (hx1 : Keeps o x1) : KeepsOut o (execSubscriptionPop x0 x1) := by
  unfold Sys2Proof.Machine.execSubscriptionPop
  exact .next (.onRead hx1 (fun h0 => .subPop h0))

/-! Can -/

theorem Keeps.setCan {o x0 : State} {x1 : Nat} {x2 : CanSt → CanSt} (hx0 : Keeps o x0) : Keeps o (State.setCan x0 x1 x2) :=
  .ite (.in_can0 hx0) (.in_can1 hx0)

theorem Keeps.canData {o x0 : State} {x1 : Nat} {x2 : List Byte} {x3 : Nat} (hx0 : Keeps o x0) : Keeps o (State.canData x0 x1 x2 x3) := by
  induction x3 generalizing x0 x1 x2 with
  | zero =>
    exact hx0
  | succ n ih =>
    rw [State.canData]
    exact .setRegN (ih hx0)

theorem Keeps.canPop {o : State} {x0 : Nat} {x1 : Init} {x2 : State} (hx2 : Keeps o x2) : Keeps o (State.canPop x0 x1 x2) := by
  unfold State.canPop
  split
  · exact .answer hx2
  · extract_lets -merge +onlyGivenNames t0
    have h1 : Keeps o (t0) := .setRegN (.setCan hx2)
    clear_value t0
    exact .answer (.canData h1)

theorem Keeps.canPush {o : State} {x0 : Nat} {x1 : Word} {x2 : State} (hx2 : Keeps o x2) : Keeps o (State.canPush x0 x1 x2) := by
  unfold State.canPush
  refine .ite ?_ ?_
  · exact hx2
  · refine .ite ?_ ?_
    · exact .refuse hx2
    · extract_lets -merge +onlyGivenNames t0
      clear_value t0
      exact .setCan hx2

theorem Keeps.pduIn {o x0 : State} {x1 : Nat} {x2 : List Byte} (hx0 : Keeps o x0) : Keeps o (State.pduIn x0 x1 x2) :=
  .odeKeep (.setOde hx0)

theorem Keeps.pduOut {o x0 : State} {x1 : Nat} {x2 : List Byte} (hx0 : Keeps o x0) : Keeps o (State.pduOut x0 x1 x2) :=
  .ite (.setOde hx0) (.ite (.setCan hx0) (.setOde hx0))

theorem Keeps.setSeg {o x0 : State} {x1 : Nat} {x2 : Option (List Byte × Nat)} (hx0 : Keeps o x0) : Keeps o (State.setSeg x0 x1 x2) :=
  .setOde hx0

theorem Keeps.segDrop {o x0 : State} {x1 : Nat} (hx0 : Keeps o x0) : Keeps o (State.segDrop x0 x1) :=
  .bump (.setSeg hx0)

theorem Keeps.execCanBusState {o : State} {x0 : Fin 2} {x1 : Fin 3} {x2 : BitVec 8} {x3 : BitVec 8} {x4 : State} (hx4 : Keeps o x4) : KeepsOut o (execCanBusState x0 x1 x2 x3 x4) := by
  unfold Sys2Proof.Machine.execCanBusState
  extract_lets -merge +onlyGivenNames t0 t1
  have h2 : Keeps o (t1) := .wf (.wf hx4)
  clear_value t0 t1
  refine .ite ?_ ?_
  · exact .next h2
  · extract_lets -merge +onlyGivenNames t3 t5
    have h4 : Keeps o (t3) := .wf h2
    have h6 : Keeps o (t5) := .ite (.bump h4) h4
    clear_value t3 t5
    exact .next (.raise h6)

theorem Keeps.segJoin {o x0 : State} {x1 : Nat} {x2 : List Byte} {x3 : Nat} {x4 : Bool} {x5 : List Byte} (hx0 : Keeps o x0) : Keeps o (State.segJoin x0 x1 x2 x3 x4 x5) :=
  .ite (.pduIn (.setSeg hx0)) (.setSeg hx0)

theorem Keeps.execCanSegmentReceive {o : State} {x0 : Fin 2} {x1 : Bool} {x2 : List (BitVec 8)} {x3 : State} (hx3 : Keeps o x3) : KeepsOut o (execCanSegmentReceive x0 x1 x2 x3) := by
  unfold Sys2Proof.Machine.execCanSegmentReceive
  refine .ite ?_ ?_
  · exact .next hx3
  · extract_lets -merge +onlyGivenNames t0 t2 t3
    have h1 : Keeps o (t0) := .bump hx3
    clear_value t0 t2 t3
    refine .ite ?_ ?_
    · exact .next (.bump h1)
    · refine .ite ?_ ?_
      · extract_lets -merge +onlyGivenNames t4
        have h5 : Keeps o (t4) := .ite (.bump h1) h1
        clear_value t4
        refine .ite ?_ ?_
        · exact .next (.segJoin h5)
        · exact .next (.segDrop h5)
      · split
        · exact .next (.bump h1)
        · refine .ite ?_ ?_
          · exact .next (.segJoin h1)
          · exact .next (.segDrop h1)

theorem Keeps.execCanSegmentTimeout {o : State} {x0 : Fin 2} {x1 : State} (hx1 : Keeps o x1) : KeepsOut o (execCanSegmentTimeout x0 x1) := by
  unfold Sys2Proof.Machine.execCanSegmentTimeout
  refine .ite ?_ ?_
  · exact .next (.segDrop hx1)
  · exact .next hx1

theorem Keeps.execCanTxfPush {o : State} {x0 : Init} {x1 : Fin 2} {x2 : Word} {x3 : State} (hx3 : Keeps o x3) : KeepsOut o (execCanTxfPush x0 x1 x2 x3) := by
  unfold Sys2Proof.Machine.execCanTxfPush
  exact .next (.onWrite hx3 (fun h0 => .canPush h0))

theorem Keeps.canSentOne {o x0 : State} {x1 : Nat} {x2 : CanFrame} (hx0 : Keeps o x0) : Keeps o (State.canSentOne x0 x1 x2) :=
  .emit (.bump hx0)

theorem Keeps.execCanFrameSent {o : State} {x0 : Fin 2} {x1 : State} (hx1 : Keeps o x1) : KeepsOut o (execCanFrameSent x0 x1) := by
  unfold Sys2Proof.Machine.execCanFrameSent
  refine .ite ?_ ?_
  · exact .next hx1
  · split
    · exact .next (.canSentOne (.setCan hx1))
    · exact .next (.canSentOne (.setCan hx1))
    · exact .next hx1

theorem Keeps.execCanFrameReceive {o : State} {x0 : Fin 2} {x1 : BitVec 31} {x2 : BitVec 6} {x3 : List (BitVec 8)} {x4 : State} (hx4 : Keeps o x4) : KeepsOut o (execCanFrameReceive x0 x1 x2 x3 x4) := by
  unfold Sys2Proof.Machine.execCanFrameReceive
  refine .ite ?_ ?_
  · exact .next hx4
  · extract_lets -merge +onlyGivenNames t0 t1
    have h2 : Keeps o (t1) := .bump hx4
    clear_value t0 t1
    refine .ite ?_ ?_
    · refine .ite ?_ ?_
      · exact .next h2
      · exact .next (.bump h2)
    · refine .ite ?_ ?_
      · exact .next (.bump h2)
      · exact .next (.setCan h2)

theorem Keeps.execCanRxfPop {o : State} {x0 : Init} {x1 : Fin 2} {x2 : State} (hx2 : Keeps o x2) : KeepsOut o (execCanRxfPop x0 x1 x2) := by
  unfold Sys2Proof.Machine.execCanRxfPop
  exact .next (.onRead hx2 (fun h0 => .canPop h0))

/-! Pke -/

theorem Keeps.pkeOut {o x0 : State} {x1 : Nat} {x2 : List Byte} (hx0 : Keeps o x0) : Keeps o (State.pkeOut x0 x1 x2).1 := by
  unfold State.pkeOut
  refine .iteP ?_ ?_
  · exact hx0
  · exact .store hx0

theorem Keeps.pkePubkey {o x0 : State} {x1 : PkeCmd} (hx0 : Keeps o x0) : Keeps o (State.pkePubkey x0 x1).1 := by
  unfold State.pkePubkey
  split
  · exact hx0
  · exact .pkeOut hx0

theorem Keeps.extendMr {o x0 : State} {x1 : Nat} {x2 : List Byte} (hx0 : Keeps o x0) : Keeps o (State.extendMr x0 x1 x2) :=
  .setPke hx0

theorem Keeps.verifyImage {o x0 : State} {x1 : Nat → Byte} {x2 : Nat} (hx0 : Keeps o x0) : Keeps o (State.verifyImage x0 x1 x2).1 := by
  unfold State.verifyImage
  extract_lets -merge +onlyGivenNames t0
  clear_value t0
  refine .iteP ?_ ?_
  · exact hx0
  · extract_lets -merge +onlyGivenNames t1 t2
    clear_value t1 t2
    refine .iteP ?_ ?_
    · exact .extendMr (.store hx0)
    · exact .store hx0

theorem Keeps.pkePop {o : State} {x0 : Init} {x1 : State} (hx1 : Keeps o x1) : Keeps o (State.pkePop x0 x1) := by
  unfold State.pkePop
  split
  · exact .answer hx1
  · exact .answer (.setPke hx1)

theorem Keeps.rngRead {o : State} {x0 : Init} {x1 : State} (hx1 : Keeps o x1) : Keeps o (State.rngRead x0 x1) := by
  unfold State.rngRead
  refine .ite ?_ ?_
  · extract_lets -merge +onlyGivenNames t0
    have h1 : Keeps o (t0).1 := .draw hx1
    clear_value t0
    exact .answer h1
  · exact .answer hx1

theorem Keeps.pkeSync {o x0 : State} (hx0 : Keeps o x0) : Keeps o (State.pkeSync x0) :=
  .wb (.wf hx0)

theorem Keeps.pkePush {o : State} {x0 : Init} {x1 : Word} {x2 : State} (hx2 : Keeps o x2) : Keeps o (State.pkePush x0 x1 x2) := by
  unfold State.pkePush
  refine .ite ?_ ?_
  · exact hx2
  · extract_lets -merge +onlyGivenNames t0
    clear_value t0
    split
    · exact .bump (.refuse hx2)
    · exact .pkeSync (.setPke hx2)

theorem Keeps.reseed {o x0 : State} (hx0 : Keeps o x0) : Keeps o (State.reseed x0) :=
  .bump (.setPke hx0)

theorem Keeps.pkeMextend {o x0 : State} {x1 : PkeCmd} (hx0 : Keeps o x0) : Keeps o (State.pkeMextend x0 x1).1 := by
  unfold State.pkeMextend
  extract_lets -merge +onlyGivenNames t0
  clear_value t0
  refine .iteP ?_ ?_
  · exact hx0
  · split
    · exact hx0
    · exact .extendMr hx0

theorem Keeps.deriveDak {o x0 : State} (hx0 : Keeps o x0) : Keeps o (State.deriveDak x0) := by
  unfold State.deriveDak
  refine .ite ?_ ?_
  · exact hx0
  · extract_lets -merge +onlyGivenNames t0 t1 t3
    have h2 : Keeps o (t1) := .loadSlot hx0
    clear_value t0 t1 t3
    exact .foldl (fun h => .setRegN h) h2

theorem Keeps.execEntropyStartupTest {o : State} {x0 : Bool} {x1 : State} (hx1 : Keeps o x1) : KeepsOut o (execEntropyStartupTest x0 x1) := by
  simp only [Sys2Proof.Machine.execEntropyStartupTest]
  refine .ite ?_ ?_
  · exact .next (.limit (.setStep (.deriveDak (.ite (.setCry (.draw (.setPke (.wf (.wf hx1))))) (.setPke (.wf (.wf hx1)))))))
  · exact .next (.limit (.raise (.bump (.wf (.wf hx1)))))

theorem Keeps.execPkeCmdPush {o : State} {x0 : Init} {x1 : Word} {x2 : State} (hx2 : Keeps o x2) : KeepsOut o (execPkeCmdPush x0 x1 x2) := by
  unfold Sys2Proof.Machine.execPkeCmdPush
  exact .next (.onWrite hx2 (fun h0 => .pkePush h0))

theorem Keeps.debugErase {o x0 : State} (hx0 : Keeps o x0) : Keeps o (State.debugErase x0) := by
  unfold State.debugErase
  extract_lets -merge +onlyGivenNames t0
  have h1 : Keeps o (t0) := .alarmWipe (.pkeAbort (.alarmErase hx0))
  clear_value t0
  exact .wf (.setCry h1)

theorem Keeps.execDebugToken {o : State} {x0 : BitVec 8} {x1 : List (BitVec 8)} {x2 : List (BitVec 8)} {x3 : List (BitVec 8)} {x4 : State} (hx4 : Keeps o x4) : KeepsOut o (execDebugToken x0 x1 x2 x3 x4) := by
  unfold Sys2Proof.Machine.execDebugToken
  extract_lets -merge +onlyGivenNames t0
  clear_value t0
  refine .ite ?_ ?_
  · exact .next hx4
  · refine .ite ?_ ?_
    · extract_lets -merge +onlyGivenNames t1 t3 t5
      have h2 : Keeps o (t1) := .setPke hx4
      have h4 : Keeps o (t3) := .ite (.debugErase h2) h2
      have h6 : Keeps o (t5) := .wf h4
      clear_value t1 t3 t5
      exact .next (.raise (.extendMr h6))
    · extract_lets -merge +onlyGivenNames t7 t9 t10
      have h8 : Keeps o (t7) := .setPke hx4
      have h11 : Keeps o (t10) := .raise (.errSet (.wf h8))
      clear_value t7 t9 t10
      exact .next (.ite h11 (.alarm h11))

theorem Keeps.execRngRead {o : State} {x0 : Init} {x1 : State} (hx1 : Keeps o x1) : KeepsOut o (execRngRead x0 x1) := by
  unfold Sys2Proof.Machine.execRngRead
  exact .next (.onRead hx1 (fun h0 => .rngRead h0))

theorem Keeps.pkeDone {o x0 : State} {x1 : PkeCmd} {x2 : Nat} (hx0 : Keeps o x0) : Keeps o (State.pkeDone x0 x1 x2) := by
  unfold State.pkeDone
  extract_lets -merge +onlyGivenNames t0 t2
  have h1 : Keeps o (t0) := .pkeSync (.setPke hx0)
  have h3 : Keeps o (t2) := .ite (.setPke h1) (.bump h1)
  clear_value t0 t2
  refine .ite ?_ ?_
  · extract_lets -merge +onlyGivenNames t4
    have h5 : Keeps o (t4) := .bump h3
    clear_value t4
    exact .ite (.raise h5) h5
  · exact .refuse (.bump h3)

theorem Keeps.pkeRun {o x0 : State} {x1 : Nat} {x2 : State → PkeCmd → State × Nat} (hx0 : Keeps o x0) (hx2 : ∀ {y0} {y1}, Keeps o y0 → Keeps o (x2 y0 y1).1) : Keeps o (State.pkeRun x0 x1 x2) := by
  unfold State.pkeRun
  split
  · exact hx0
  · refine .ite ?_ ?_
    · exact hx0
    · refine .ite ?_ ?_
      · exact .pkeDone hx0
      · extract_lets -merge +onlyGivenNames t0 t1
        have h2 : Keeps o (t1).1 := hx2 (.ite (.eccRead hx0) hx0)
        clear_value t0 t1
        exact .pkeDone h2

theorem Keeps.pkeSign {o x0 : State} {x1 : PkeCmd} (hx0 : Keeps o x0) : Keeps o (State.pkeSign x0 x1).1 := by
  unfold State.pkeSign
  split
  · exact hx0
  · exact hx0
  · extract_lets -merge +onlyGivenNames t0
    have h1 : Keeps o (t0).1 := .draw hx0
    clear_value t0
    exact .pkeOut h1

theorem Keeps.execPkeSign {o x0 : State} (hx0 : Keeps o x0) : KeepsOut o (execPkeSign x0) := by
  unfold Sys2Proof.Machine.execPkeSign
  exact .next (.pkeRun hx0 (fun h0 => .pkeSign h0))

theorem Keeps.execPkeResultPop {o : State} {x0 : Init} {x1 : State} (hx1 : Keeps o x1) : KeepsOut o (execPkeResultPop x0 x1) := by
  unfold Sys2Proof.Machine.execPkeResultPop
  exact .next (.onRead hx1 (fun h0 => .pkePop h0))

theorem Keeps.pkeSvnset {o x0 : State} {x1 : PkeCmd} (hx0 : Keeps o x0) : Keeps o (State.pkeSvnset x0 x1).1 := by
  unfold State.pkeSvnset
  extract_lets -merge +onlyGivenNames t0
  clear_value t0
  refine .iteP ?_ ?_
  · exact hx0
  · refine .iteP ?_ ?_
    · exact hx0
    · exact .raise (.setReg hx0)

theorem Keeps.execPkeSvnset {o x0 : State} (hx0 : Keeps o x0) : KeepsOut o (execPkeSvnset x0) := by
  unfold Sys2Proof.Machine.execPkeSvnset
  exact .next (.pkeRun hx0 (fun h0 => .pkeSvnset h0))

theorem Keeps.execPkePubkey {o x0 : State} (hx0 : Keeps o x0) : KeepsOut o (execPkePubkey x0) := by
  unfold Sys2Proof.Machine.execPkePubkey
  exact .next (.pkeRun hx0 (fun h0 => .pkePubkey h0))

theorem Keeps.setHctx {o x0 : State} {x1 : Nat} {x2 : HashCtx} (hx0 : Keeps o x0) : Keeps o (State.setHctx x0 x1 x2) :=
  .setPke hx0

theorem Keeps.hashPiece {o x0 : State} {x1 : PkeCmd} {x2 : List Byte} {x3 : HashCtx → List Byte} (hx0 : Keeps o x0) : Keeps o (State.hashPiece x0 x1 x2 x3).1 := by
  simp only [State.hashPiece]
  split
  · exact hx0
  · refine .iteP ?_ ?_
    · exact hx0
    · refine .iteP ?_ ?_
      · exact .setHctx hx0
      · exact .ite (.setHctx (.pkeOut hx0)) (.pkeOut hx0)

theorem Keeps.pkeHmac {o x0 : State} {x1 : PkeCmd} (hx0 : Keeps o x0) : Keeps o (State.pkeHmac x0 x1).1 := by
  unfold State.pkeHmac
  refine .iteP ?_ ?_
  · exact .hashPiece hx0
  · split
    · exact hx0
    · exact .hashPiece hx0

theorem Keeps.attested {o x0 : State} {x1 : List Byte} (hx0 : Keeps o x0) : Keeps o (State.attested x0 x1).1 := by
  unfold State.attested
  extract_lets -merge +onlyGivenNames t0 t1 t3
  have h2 : Keeps o (t1).1 := .draw hx0
  clear_value t0 t1 t3
  exact h2

theorem Keeps.pkeVerify {o x0 : State} {x1 : PkeCmd} (hx0 : Keeps o x0) : Keeps o (State.pkeVerify x0 x1).1 := by
  simp only [State.pkeVerify]
  exact hx0

theorem Keeps.execPkeVerify {o x0 : State} (hx0 : Keeps o x0) : KeepsOut o (execPkeVerify x0) := by
  unfold Sys2Proof.Machine.execPkeVerify
  exact .next (.pkeRun hx0 (fun h0 => .pkeVerify h0))

theorem Keeps.pkeKeygen {o x0 : State} {x1 : PkeCmd} (hx0 : Keeps o x0) : Keeps o (State.pkeKeygen x0 x1).1 := by
  simp only [State.pkeKeygen]
  refine .iteP ?_ ?_
  · exact hx0
  · refine .iteP ?_ ?_
    · exact hx0
    · exact .pkeOut (.loadSlot (.draw hx0))

theorem Keeps.execPkeHmac {o x0 : State} (hx0 : Keeps o x0) : KeepsOut o (execPkeHmac x0) := by
  unfold Sys2Proof.Machine.execPkeHmac
  exact .next (.pkeRun hx0 (fun h0 => .pkeHmac h0))

theorem Keeps.execReseedInterval {o x0 : State} (hx0 : Keeps o x0) : KeepsOut o (execReseedInterval x0) := by
  unfold Sys2Proof.Machine.execReseedInterval
  exact .next (.ite (.reseed hx0) hx0)

theorem Keeps.execHealthTestFail {o x0 : State} (hx0 : Keeps o x0) : KeepsOut o (execHealthTestFail x0) := by
  unfold Sys2Proof.Machine.execHealthTestFail
  extract_lets -merge +onlyGivenNames t0
  have h1 : Keeps o (t0) := .wf (.wf hx0)
  clear_value t0
  exact .next (.raise (.setStep (.bump h1)))

theorem Keeps.pkeHash {o x0 : State} {x1 : PkeCmd} (hx0 : Keeps o x0) : Keeps o (State.pkeHash x0 x1).1 := by
  unfold State.pkeHash
  exact .hashPiece hx0

theorem Keeps.execPkeKeygen {o x0 : State} (hx0 : Keeps o x0) : KeepsOut o (execPkeKeygen x0) := by
  unfold Sys2Proof.Machine.execPkeKeygen
  exact .next (.pkeRun hx0 (fun h0 => .pkeKeygen h0))

theorem Keeps.execDebugChallenge {o x0 : State} (hx0 : Keeps o x0) : KeepsOut o (execDebugChallenge x0) := by
  unfold Sys2Proof.Machine.execDebugChallenge
  refine .ite ?_ ?_
  · exact .next hx0
  · extract_lets -merge +onlyGivenNames t0
    have h1 : Keeps o (t0).1 := .draw hx0
    clear_value t0
    exact .next (.emit (.setPke h1))

theorem Keeps.pkeAttest {o x0 : State} {x1 : PkeCmd} (hx0 : Keeps o x0) : Keeps o (State.pkeAttest x0 x1).1 := by
  unfold State.pkeAttest
  refine .iteP ?_ ?_
  · exact hx0
  · split
    · exact hx0
    · extract_lets -merge +onlyGivenNames t0
      have h1 : Keeps o (t0).1 := .attested hx0
      clear_value t0
      exact .pkeOut h1

theorem Keeps.execPkeAttest {o x0 : State} (hx0 : Keeps o x0) : KeepsOut o (execPkeAttest x0) := by
  unfold Sys2Proof.Machine.execPkeAttest
  exact .next (.pkeRun hx0 (fun h0 => .pkeAttest h0))

theorem Keeps.execPkeHash {o x0 : State} (hx0 : Keeps o x0) : KeepsOut o (execPkeHash x0) := by
  unfold Sys2Proof.Machine.execPkeHash
  exact .next (.pkeRun hx0 (fun h0 => .pkeHash h0))

theorem Keeps.pkeKdf {o x0 : State} {x1 : PkeCmd} (hx0 : Keeps o x0) : Keeps o (State.pkeKdf x0 x1).1 := by
  unfold State.pkeKdf
  split
  · exact hx0
  · exact hx0
  · extract_lets -merge +onlyGivenNames t0
    clear_value t0
    refine .iteP ?_ ?_
    · exact hx0
    · extract_lets -merge +onlyGivenNames t1 t2
      clear_value t1 t2
      exact .loadSlot hx0

theorem Keeps.execPkeKdf {o x0 : State} (hx0 : Keeps o x0) : KeepsOut o (execPkeKdf x0) := by
  unfold Sys2Proof.Machine.execPkeKdf
  exact .next (.pkeRun hx0 (fun h0 => .pkeKdf h0))

theorem Keeps.pkeEcdh {o x0 : State} {x1 : PkeCmd} (hx0 : Keeps o x0) : Keeps o (State.pkeEcdh x0 x1).1 := by
  unfold State.pkeEcdh
  split
  · exact hx0
  · exact hx0
  · extract_lets -merge +onlyGivenNames t0 t1 t2
    clear_value t0 t1 t2
    refine .iteP ?_ ?_
    · exact hx0
    · refine .iteP ?_ ?_
      · exact hx0
      · extract_lets -merge +onlyGivenNames t3
        clear_value t3
        exact .loadSlot hx0

theorem Keeps.execPkeEcdh {o x0 : State} (hx0 : Keeps o x0) : KeepsOut o (execPkeEcdh x0) := by
  unfold Sys2Proof.Machine.execPkeEcdh
  exact .next (.pkeRun hx0 (fun h0 => .pkeEcdh h0))

theorem Keeps.pkeRandom {o x0 : State} {x1 : PkeCmd} (hx0 : Keeps o x0) : Keeps o (State.pkeRandom x0 x1).1 := by
  unfold State.pkeRandom
  extract_lets -merge +onlyGivenNames t0 t2
  have h1 : Keeps o (t0) := .ite (.reseed hx0) hx0
  have h3 : Keeps o (t2).1 := .draw h1
  clear_value t0 t2
  exact .pkeOut h3

theorem Keeps.execPkeRandom {o x0 : State} (hx0 : Keeps o x0) : KeepsOut o (execPkeRandom x0) := by
  unfold Sys2Proof.Machine.execPkeRandom
  exact .next (.pkeRun hx0 (fun h0 => .pkeRandom h0))

theorem Keeps.execPkeReseed {o x0 : State} (hx0 : Keeps o x0) : KeepsOut o (execPkeReseed x0) := by
  unfold Sys2Proof.Machine.execPkeReseed
  exact .next (.pkeRun hx0 (fun h0 => .reseed h0))

theorem Keeps.execPkeMextend {o x0 : State} (hx0 : Keeps o x0) : KeepsOut o (execPkeMextend x0) := by
  unfold Sys2Proof.Machine.execPkeMextend
  exact .next (.pkeRun hx0 (fun h0 => .pkeMextend h0))

theorem Keeps.pkeRevoke {o x0 : State} {x1 : PkeCmd} (hx0 : Keeps o x0) : Keeps o (State.pkeRevoke x0 x1).1 := by
  unfold State.pkeRevoke
  extract_lets -merge +onlyGivenNames t0
  clear_value t0
  refine .iteP ?_ ?_
  · exact hx0
  · refine .iteP ?_ ?_
    · exact hx0
    · exact .raise (.setReg hx0)

theorem Keeps.execPkeRevoke {o x0 : State} (hx0 : Keeps o x0) : KeepsOut o (execPkeRevoke x0) := by
  unfold Sys2Proof.Machine.execPkeRevoke
  exact .next (.pkeRun hx0 (fun h0 => .pkeRevoke h0))

/-! Xspi -/

theorem Keeps.setXspi {o x0 : State} {x1 : XspiSt → XspiSt} (hx0 : Keeps o x0) : Keeps o (State.setXspi x0 x1) :=
  .in_xspi hx0

theorem Keeps.xspiPop {o : State} {x0 : Init} {x1 : State} (hx1 : Keeps o x1) : Keeps o (State.xspiPop x0 x1) := by
  unfold State.xspiPop
  split
  · exact .answer hx1
  · exact .answer (.setXspi hx1)

theorem Keeps.fifoRead {o x0 : State} (hx0 : Keeps o x0) : Keeps o (State.fifoRead x0).1 := by
  unfold State.fifoRead
  refine .iteP ?_ ?_
  · exact .used hx0
  · exact .setXspi hx0

theorem Keeps.xspiKeep {o x0 : State} (hx0 : Keeps o x0) : Keeps o (State.xspiKeep x0) := by
  unfold State.xspiKeep
  extract_lets -merge +onlyGivenNames t0 t1 t3
  have h2 : Keeps o (t1) := .wb hx0
  have h4 : Keeps o (t3) := .wb h2
  clear_value t0 t1 t3
  exact .wf (.wb h4)

theorem Keeps.opPush {o : State} {x0 : Word} {x1 : State} (hx1 : Keeps o x1) : Keeps o (State.opPush x0 x1) := by
  unfold State.opPush
  refine .ite ?_ ?_
  · exact hx1
  · extract_lets -merge +onlyGivenNames t0 t1
    clear_value t0 t1
    exact .ite (.xspiKeep (.setXspi hx1)) (.refuse hx1)

theorem Keeps.fifoWrite {o : State} {x0 : Word} {x1 : State} (hx1 : Keeps o x1) : Keeps o (State.fifoWrite x0 x1) :=
  .setXspi hx1

theorem Keeps.flashOps {o x0 : State} {x1 : Nat} (hx0 : Keeps o x0) : Keeps o (State.flashOps x0 x1) :=
  .bumpBy hx0

theorem Keeps.flashProgram {o x0 : State} {x1 : Nat} {x2 : List Byte} (hx0 : Keeps o x0) : Keeps o (State.flashProgram x0 x1 x2) := by
  induction x2 generalizing x0 x1 with
  | nil =>
    exact hx0
  | cons y l ih =>
    rw [State.flashProgram]
    exact ih (.setFlash hx0)

theorem Keeps.pairWrite {o x0 : State} {x1 : Nat} {x2 : Nat} {x3 : Nat} {x4 : StoredRec} (hx0 : Keeps o x0) : Keeps o (State.pairWrite x0 x1 x2 x3 x4) :=
  .flashProgram (.flashProgram hx0)

theorem Keeps.opStart {o x0 : State} {x1 : Nat} (hx0 : Keeps o x0) : Keeps o (State.opStart x0 x1) := by
  unfold State.opStart
  refine .ite ?_ ?_
  · exact hx0
  · split
    · split
      · exact .ite (.xspiKeep (.setXspi hx0)) hx0
      · exact hx0
    · split
      · exact .ite (.xspiKeep (.bump (.setXspi hx0))) hx0
      · exact hx0

theorem Keeps.freeBytes {o x0 : State} {x1 : Nat} (hx0 : Keeps o x0) : Keeps o (State.freeBytes x0 x1).2 := by
  induction x1 generalizing x0 with
  | zero =>
    exact hx0
  | succ n ih =>
    rw [State.freeBytes]
    exact ih (.used hx0)

theorem Keeps.setFlashAll {o x0 : State} {x1 : Nat} {x2 : List Byte} (hx0 : Keeps o x0) : Keeps o (State.setFlashAll x0 x1 x2) := by
  induction x2 generalizing x0 x1 with
  | nil =>
    exact hx0
  | cons y l ih =>
    rw [State.setFlashAll]
    exact ih (.setFlash hx0)

theorem Keeps.opEffect {o x0 : State} {x1 : FlashOp} {x2 : Nat} {x3 : List Byte} (hx0 : Keeps o x0) : Keeps o (State.opEffect x0 x1 x2 x3) := by
  unfold State.opEffect
  extract_lets -merge +onlyGivenNames t0
  clear_value t0
  refine .ite ?_ ?_
  · exact .ite (.store hx0) (.ite (.flashProgram (.eccRead hx0)) (.ite (.flashErase hx0) (.setXspi hx0)))
  · refine .ite ?_ ?_
    · extract_lets -merge +onlyGivenNames t1
      have h2 : Keeps o (t1).2 := .freeBytes hx0
      clear_value t1
      exact .setFlashAll h2
    · exact hx0

theorem Keeps.execXspiRaw {o x0 : State} (hx0 : Keeps o x0) : KeepsOut o (execXspiRaw x0) := by
  unfold Sys2Proof.Machine.execXspiRaw
  exact .next (.opStart hx0)

theorem Keeps.execXspiOpPush {o : State} {x0 : Init} {x1 : Word} {x2 : State} (hx2 : Keeps o x2) : KeepsOut o (execXspiOpPush x0 x1 x2) := by
  unfold Sys2Proof.Machine.execXspiOpPush
  exact .next (.onWrite hx2 (fun h0 => .opPush h0))

theorem Keeps.execXspiRead {o x0 : State} (hx0 : Keeps o x0) : KeepsOut o (execXspiRead x0) := by
  unfold Sys2Proof.Machine.execXspiRead
  exact .next (.opStart hx0)

theorem Keeps.execXspiProgram {o x0 : State} (hx0 : Keeps o x0) : KeepsOut o (execXspiProgram x0) := by
  unfold Sys2Proof.Machine.execXspiProgram
  exact .next (.opStart hx0)

theorem Keeps.execXspiErase {o x0 : State} (hx0 : Keeps o x0) : KeepsOut o (execXspiErase x0) := by
  unfold Sys2Proof.Machine.execXspiErase
  exact .next (.opStart hx0)

theorem Keeps.execXspiOpDone {o : State} {x0 : Fin 3} {x1 : List (BitVec 8)} {x2 : State} (hx2 : Keeps o x2) : KeepsOut o (execXspiOpDone x0 x1 x2) := by
  unfold Sys2Proof.Machine.execXspiOpDone
  split
  · exact .next hx2
  · extract_lets -merge +onlyGivenNames t0 t1 t3 t5
    have h2 : Keeps o (t1) := .bump (.opEffect hx2)
    have h4 : Keeps o (t3) := .setXspi h2
    have h6 : Keeps o (t5) := .xspiKeep h4
    clear_value t0 t1 t3 t5
    refine .ite ?_ ?_
    · exact .next h6
    · exact .next (.raise (.bump h6))

theorem Keeps.execXspiResultPop {o : State} {x0 : Init} {x1 : State} (hx1 : Keeps o x1) : KeepsOut o (execXspiResultPop x0 x1) := by
  unfold Sys2Proof.Machine.execXspiResultPop
  exact .next (.onRead hx1 (fun h0 => .xspiPop h0))

end Sys2Proof.Machine
end

