-- ==== Sys2Proof/Laws/Keeps5.lean ====
section
/-! SUPPORT. What every operation keeps (`Keeps`), one lemma for each: Mdm, FieldBase, FieldUp, StpPlan, Mac, Field. -/

set_option Elab.async false

namespace Sys2Proof.Machine

/-! Mdm -/

theorem Keeps.smodeWrite {o : State} {x0 : Nat} {x1 : Word} {x2 : State} (hx2 : Keeps o x2) : Keeps o (State.smodeWrite x0 x1 x2) := by
  unfold State.smodeWrite
  refine .ite ?_ ?_
  · exact .writeReg hx2
  · refine .ite ?_ ?_
    · exact .setMdm hx2
    · extract_lets -merge +onlyGivenNames t0
      have h1 : Keeps o (t0) := .writeReg hx2
      clear_value t0
      exact .ite (.wf h1) h1

theorem Keeps.withdrawTx {o x0 : State} {x1 : Radio} {x2 : Nat} (hx0 : Keeps o x0) : Keeps o (State.withdrawTx x0 x1 x2) := by
  unfold State.withdrawTx
  extract_lets -merge +onlyGivenNames t0 t1
  clear_value t0 t1
  split
  · exact .ite (.rfcDone (.rfcUnhold hx0)) hx0
  · refine .ite ?_ ?_
    · split
      · exact .rfcDone hx0
      · exact hx0
    · split
      · exact .ite hx0 (.rfcResult (.setRfc hx0))
      · exact hx0

theorem Keeps.transmitVector {o x0 : State} {x1 : Radio} {x2 : SevenWords} {x3 : Bool} (hx0 : Keeps o x0) : Keeps o (State.transmitVector x0 x1 x2 x3) := by
  unfold State.transmitVector
  extract_lets -merge +onlyGivenNames t0
  clear_value t0
  refine .ite ?_ ?_
  · exact .setMdm hx0
  · extract_lets -merge +onlyGivenNames t1
    have h2 : Keeps o (t1) := .bump (.errSet hx0)
    clear_value t1
    exact .raise (.withdrawTx h2)

theorem Keeps.execTransmitVector {o : State} {x0 : Radio} {x1 : SevenWords} {x2 : Bool} {x3 : State} (hx3 : Keeps o x3) : KeepsOut o (execTransmitVector x0 x1 x2 x3) := by
  unfold Sys2Proof.Machine.execTransmitVector
  exact .next (.transmitVector hx3)

theorem Keeps.absentBlocks {o x0 : State} {x1 : Radio} {x2 : List (BitVec 12)} (hx0 : Keeps o x0) : Keeps o (State.absentBlocks x0 x1 x2) := by
  induction x2 generalizing x0 x1 with
  | nil =>
    exact hx0
  | cons y l ih =>
    rw [State.absentBlocks]
    exact ih (.bump (.failBlock hx0))

theorem Keeps.falseDetection {o x0 : State} {x1 : Radio} (hx0 : Keeps o x0) : Keeps o (State.falseDetection x0 x1) :=
  .rxOver (.bump hx0)

theorem Keeps.deliverBlocks {o x0 : State} {x1 : Radio} {x2 : Bool} {x3 : List RxMeas} (hx0 : Keeps o x0) : Keeps o (State.deliverBlocks x0 x1 x2 x3) := by
  induction x3 generalizing x0 x1 x2 with
  | nil =>
    exact hx0
  | cons y l ih =>
    rw [State.deliverBlocks]
    exact ih (.deliverBlock (.ite (.bump hx0) hx0))

theorem Keeps.execPpduReceiveEnd {o : State} {x0 : Radio} {x1 : List RxMeas} {x2 : State} (hx2 : Keeps o x2) : KeepsOut o (execPpduReceiveEnd x0 x1 x2) := by
  unfold Sys2Proof.Machine.execPpduReceiveEnd
  refine .ite ?_ ?_
  · extract_lets -merge +onlyGivenNames t0 t1 t2 t4
    have h3 : Keeps o (t2) := .deliverBlocks hx2
    have h5 : Keeps o (t4) := .rxOver h3
    clear_value t0 t1 t2 t4
    exact .next (.ite (.raise h5) h5)
  · exact .next hx2

theorem Keeps.execTbWindowEnd {o : State} {x0 : WRadio} {x1 : State} (hx1 : Keeps o x1) : KeepsOut o (execTbWindowEnd x0 x1) := by
  unfold Sys2Proof.Machine.execTbWindowEnd
  extract_lets -merge +onlyGivenNames t0
  clear_value t0
  split
  · exact .next hx1
  · refine .ite ?_ ?_
    · exact .next (.raise (.rxOver (.absentBlocks hx1)))
    · exact .next hx1

theorem Keeps.fieldPass {o x0 : State} {x1 : Radio} {x2 : Bool} {x3 : Word} (hx0 : Keeps o x0) : Keeps o (State.fieldPass x0 x1 x2 x3) := by
  unfold State.fieldPass
  extract_lets -merge +onlyGivenNames t0
  have h1 : Keeps o (t0) := .setMdm hx0
  clear_value t0
  refine .ite ?_ ?_
  · extract_lets -merge +onlyGivenNames t2
    have h3 : Keeps o (t2) := .wf h1
    clear_value t2
    exact .wf h3
  · exact .wf h1

theorem Keeps.dpdCapture {o x0 : State} {x1 : Radio} {x2 : Nat} (hx0 : Keeps o x0) : Keeps o (State.dpdCapture x0 x1 x2) := by
  unfold State.dpdCapture
  split
  · exact .ite (.setRfc hx0) hx0
  · exact hx0

theorem Keeps.execPpduTxEnd {o : State} {x0 : Radio} {x1 : Nat} {x2 : State} (hx2 : Keeps o x2) : KeepsOut o (execPpduTxEnd x0 x1 x2) := by
  unfold Sys2Proof.Machine.execPpduTxEnd
  split
  · refine .ite ?_ ?_
    · extract_lets -merge +onlyGivenNames t0 t2 t4 t6
      have h1 : Keeps o (t0) := .dpdCapture hx2
      have h3 : Keeps o (t2) := .ppduEnd h1
      have h5 : Keeps o (t4) := .rfcEndRun h3
      clear_value t0 t2 t4 t6
      exact .next (.setRfc (.femRest h5))
    · exact .next hx2
  · exact .next hx2

theorem Keeps.rxBegin {o x0 : State} {x1 : Radio} {x2 : Int} {x3 : GTime} (hx0 : Keeps o x0) : Keeps o (State.rxBegin x0 x1 x2 x3) := by
  unfold State.rxBegin
  extract_lets -merge +onlyGivenNames t0 t1 t2 t4 t5 t7
  have h3 : Keeps o (t2) := .setMdm hx0
  have h6 : Keeps o (t5) := .setRegN h3
  have h8 : Keeps o (t7) := .wf (.wf h6)
  clear_value t0 t1 t2 t4 t5 t7
  exact .bump (.wf h8)

theorem Keeps.execPacketDetect {o : State} {x0 : Radio} {x1 : Int} {x2 : GTime} {x3 : State} (hx3 : Keeps o x3) : KeepsOut o (execPacketDetect x0 x1 x2 x3) := by
  unfold Sys2Proof.Machine.execPacketDetect
  refine .ite ?_ ?_
  · exact .next (.rxBegin hx3)
  · exact .next hx3

theorem Keeps.execFieldCheck {o : State} {x0 : Radio} {x1 : Bool} {x2 : FieldOutcome} {x3 : Word} {x4 : State} (hx4 : Keeps o x4) : KeepsOut o (execFieldCheck x0 x1 x2 x3 x4) := by
  unfold Sys2Proof.Machine.execFieldCheck
  refine .ite ?_ ?_
  · split
    · exact .next (.falseDetection hx4)
    · exact .next (.fieldPass hx4)
    · exact .next (.fieldPass hx4)
    · exact .next (.wf (.setMdm hx4))
  · exact .next hx4

theorem Keeps.execUnsupportedHoldEnd {o : State} {x0 : Radio} {x1 : State} (hx1 : Keeps o x1) : KeepsOut o (execUnsupportedHoldEnd x0 x1) := by
  unfold Sys2Proof.Machine.execUnsupportedHoldEnd
  refine .ite ?_ ?_
  · exact .next (.rxOver (.bump (.failBlock hx1)))
  · exact .next hx1

theorem Keeps.rxCaptured {o x0 : State} {x1 : Radio} (hx0 : Keeps o x0) : Keeps o (State.rxCaptured x0 x1) :=
  .ite (.bump (.failBlock hx0)) (.bump hx0)

theorem Keeps.execSecondDetection {o : State} {x0 : Radio} {x1 : Int} {x2 : GTime} {x3 : State} (hx3 : Keeps o x3) : KeepsOut o (execSecondDetection x0 x1 x2 x3) := by
  unfold Sys2Proof.Machine.execSecondDetection
  refine .ite ?_ ?_
  · refine .ite ?_ ?_
    · exact .next (.rxBegin (.rxOver (.rxCaptured hx3)))
    · exact .next (.setMdm hx3)
  · exact .next hx3

theorem Keeps.execClipRestart {o : State} {x0 : Radio} {x1 : State} (hx1 : Keeps o x1) : KeepsOut o (execClipRestart x0 x1) := by
  unfold Sys2Proof.Machine.execClipRestart
  refine .ite ?_ ?_
  · exact .next (.rxOver (.bump (.rxCaptured hx1)))
  · exact .next hx1

theorem Keeps.tbArm {o x0 : State} {x1 : Radio} {x2 : List (BitVec 12)} {x3 : BitVec 8} (hx0 : Keeps o x0) : Keeps o (State.tbArm x0 x1 x2 x3) := by
  unfold State.tbArm
  refine .ite ?_ ?_
  · extract_lets -merge +onlyGivenNames t0
    have h1 : Keeps o (t0) := .setMdm hx0
    clear_value t0
    exact .ite (.wf h1) h1
  · exact hx0

theorem Keeps.execTbReceptionArm {o : State} {x0 : WRadio} {x1 : List (BitVec 12)} {x2 : BitVec 8} {x3 : State} (hx3 : Keeps o x3) : KeepsOut o (execTbReceptionArm x0 x1 x2 x3) := by
  unfold Sys2Proof.Machine.execTbReceptionArm
  exact .next (.tbArm hx3)

theorem Keeps.execCodewordDecoded {o : State} {x0 : WRadio} {x1 : Bool} {x2 : Bool} {x3 : Bool} {x4 : State} (hx4 : Keeps o x4) : KeepsOut o (execCodewordDecoded x0 x1 x2 x3 x4) := by
  unfold Sys2Proof.Machine.execCodewordDecoded
  extract_lets -merge +onlyGivenNames t0 t1 t2 t3 t5
  have h4 : Keeps o (t3) := .ite (.bump hx4) hx4
  have h6 : Keeps o (t5) := .ite (.bump h4) h4
  clear_value t0 t1 t2 t3 t5
  exact .next (.setMdm h6)

theorem Keeps.execSmodeWrite {o : State} {x0 : Init} {x1 : Word} {x2 : State} (hx2 : Keeps o x2) : KeepsOut o (execSmodeWrite x0 x1 x2) := by
  unfold Sys2Proof.Machine.execSmodeWrite
  exact .next (.onWrite hx2 (fun h0 => .smodeWrite h0))

theorem Keeps.execNoiseAlarm {o : State} {x0 : Radio} {x1 : BitVec 16} {x2 : State} (hx2 : Keeps o x2) : KeepsOut o (execNoiseAlarm x0 x1 x2) := by
  unfold Sys2Proof.Machine.execNoiseAlarm
  extract_lets -merge +onlyGivenNames t0
  have h1 : Keeps o (t0) := .wf hx2
  clear_value t0
  exact .next (.ite (.raise h1) h1)

theorem Keeps.execRxAnomalyAlarm {o : State} {x0 : Radio} {x1 : Nat} {x2 : State} (hx2 : Keeps o x2) : KeepsOut o (execRxAnomalyAlarm x0 x1 x2) := by
  unfold Sys2Proof.Machine.execRxAnomalyAlarm
  exact .next (.ite (.raise hx2) hx2)

/-! FieldBase -/

theorem Keeps.setFld {o x0 : State} {x1 : FieldSt → FieldSt} (hx0 : Keeps o x0) : Keeps o (State.setFld x0 x1) :=
  .in_fld hx0

theorem Keeps.fmPop {o : State} {x0 : Init} {x1 : State} (hx1 : Keeps o x1) : Keeps o (State.fmPop x0 x1) := by
  unfold State.fmPop
  split
  · exact .answer hx1
  · exact .answer (.setFld hx1)

theorem Keeps.dwWinWrite {o : State} {x0 : Nat} {x1 : Nat} {x2 : Word} {x3 : State} (hx3 : Keeps o x3) : Keeps o (State.dwWinWrite x0 x1 x2 x3) := by
  unfold State.dwWinWrite
  extract_lets -merge +onlyGivenNames t0 t1
  have h2 : Keeps o (t1) := .writeReg hx3
  clear_value t0 t1
  exact .ite h2 (.setFld h2)

theorem Keeps.fmPost {o x0 : State} {x1 : Nat} {x2 : Nat} {x3 : Nat} (hx0 : Keeps o x0) : Keeps o (State.fmPost x0 x1 x2 x3) :=
  .ite (.setFld hx0) (.bump hx0)

theorem Keeps.freeRbuf {o x0 : State} {x1 : Nat} (hx0 : Keeps o x0) : Keeps o (State.freeRbuf x0 x1) := by
  unfold State.freeRbuf
  split
  · exact hx0
  · extract_lets -merge +onlyGivenNames t0
    have h1 : Keeps o (t0) := .setPkt hx0
    clear_value t0
    exact .ite (.rxGive h1) (.txGive h1)

theorem Keeps.setFe {o x0 : State} {x1 : Nat} {x2 : Nat} {x3 : Nat} {x4 : Nat} {x5 : Nat} (hx0 : Keeps o x0) : Keeps o (State.setFe x0 x1 x2 x3 x4 x5) :=
  .wmf hx0

theorem Keeps.dlEnd {o x0 : State} {x1 : Nat} {x2 : Nat} (hx0 : Keeps o x0) : Keeps o (State.dlEnd x0 x1 x2) := by
  unfold State.dlEnd
  refine .ite ?_ ?_
  · exact hx0
  · extract_lets -merge +onlyGivenNames t0 t2 t4
    have h1 : Keeps o (t0) := .fmPost (.freeRbuf hx0)
    have h3 : Keeps o (t2) := .write32 (.setFe h1)
    have h5 : Keeps o (t4) := .setFld h3
    clear_value t0 t2 t4
    exact .ite (.bump h5) (.bump h5)

theorem Keeps.feRelease {o x0 : State} {x1 : Nat} (hx0 : Keeps o x0) : Keeps o (State.feRelease x0 x1) := by
  unfold State.feRelease
  extract_lets -merge +onlyGivenNames t0
  have h1 : Keeps o (t0) := .dlEnd (.setFe (.setFe hx0))
  clear_value t0
  exact .ite (.setRec (.setRec h1)) h1

theorem Keeps.setDwell {o x0 : State} {x1 : Nat} {x2 : Nat} {x3 : List Nat} (hx0 : Keeps o x0) : Keeps o (State.setDwell x0 x1 x2 x3) :=
  .ite (.setFld hx0) (.setFld hx0)

theorem Keeps.dwell {o x0 : State} {x1 : Nat} {x2 : Bool} (hx0 : Keeps o x0) : KeepsOpt o (State.dwell x0 x1 x2) := by
  unfold State.dwell
  extract_lets -merge +onlyGivenNames t0
  clear_value t0
  split
  · exact .none
  · split
    · exact .none
    · extract_lets -merge +onlyGivenNames t1 t2
      clear_value t1 t2
      refine .ite ?_ ?_
      · exact .none
      · exact .some (.setDwell hx0)

theorem Keeps.radioRejected {o x0 : State} (hx0 : Keeps o x0) : Keeps o (State.radioRejected x0) :=
  .raise (.bump hx0)

theorem Keeps.dwellRefused {o x0 : State} (hx0 : Keeps o x0) : Keeps o (State.dwellRefused x0) :=
  .raise (.bump hx0)

theorem Keeps.fieldSend {o x0 : State} {x1 : List Byte} {x2 : Byte} {x3 : Nat} {x4 : Nat} (hx0 : Keeps o x0) : Keeps o (State.fieldSend x0 x1 x2 x3 x4) := by
  unfold State.fieldSend
  extract_lets -merge +onlyGivenNames t0 t1 t2 t3
  have h4 : Keeps o (t3) := .emit (.used (.used (.used hx0)))
  clear_value t0 t1 t2 t3
  exact .transmitVector (.macPort h4)

theorem Keeps.fieldMode {o x0 : State} {x1 : Nat} (hx0 : Keeps o x0) : Keeps o (State.fieldMode x0 x1) :=
  .smodeWrite hx0

theorem Keeps.fieldRecState {o x0 : State} {x1 : Nat} {x2 : Nat} (hx0 : Keeps o x0) : Keeps o (State.fieldRecState x0 x1 x2) :=
  .ite (.setRecState hx0) hx0

theorem Keeps.dlRetry {o x0 : State} {x1 : Nat} (hx0 : Keeps o x0) : Keeps o (State.dlRetry x0 x1) :=
  .ite (.dlEnd hx0) hx0

theorem Keeps.fieldNext {o x0 : State} {x1 : Nat} {x2 : Nat} (hx0 : Keeps o x0) : Keeps o (State.fieldNext x0 x1 x2) := by
  unfold State.fieldNext
  refine .ite ?_ ?_
  · exact hx0
  · extract_lets -merge +onlyGivenNames t0 t1
    have h2 : Keeps o (t1) := .ite (.predict (.setRecGt hx0)) hx0
    clear_value t0 t1
    exact .setRec h2

theorem Keeps.execFmacResultPop {o : State} {x0 : Init} {x1 : State} (hx1 : Keeps o x1) : KeepsOut o (execFmacResultPop x0 x1) := by
  unfold Sys2Proof.Machine.execFmacResultPop
  exact .next (.onRead hx1 (fun h0 => .fmPop h0))

theorem Keeps.execDwellBinRoll {o : State} {x0 : Fin 8} {x1 : State} (hx1 : Keeps o x1) : KeepsOut o (execDwellBinRoll x0 x1) := by
  unfold Sys2Proof.Machine.execDwellBinRoll
  extract_lets -merge +onlyGivenNames t0
  clear_value t0
  exact .next (.setFld hx1)

/-! FieldUp -/

theorem Keeps.ptabKeep {o x0 : State} {x1 : Nat} (hx0 : Keeps o x0) : Keeps o (State.ptabKeep x0 x1) := by
  unfold State.ptabKeep
  extract_lets -merge +onlyGivenNames t0
  have h1 : Keeps o (t0) := .wf hx0
  clear_value t0
  exact .wb h1

theorem Keeps.ptabWrite {o : State} {x0 : Nat} {x1 : Nat} {x2 : Nat} {x3 : Word} {x4 : State} (hx4 : Keeps o x4) : Keeps o (State.ptabWrite x0 x1 x2 x3 x4) :=
  .ite (.refuse hx4) (.ite (.writeReg hx4) (.ptabKeep (.writeReg hx4)))

theorem Keeps.rrStep {o x0 : State} {x1 : Nat} {x2 : Bool} (hx0 : Keeps o x0) : Keeps o (State.rrStep x0 x1 x2) := by
  unfold State.rrStep
  extract_lets -merge +onlyGivenNames t0 t1
  clear_value t0 t1
  exact .ptabKeep (.wf hx0)

theorem Keeps.upEnter {o x0 : State} {x1 : Nat} (hx0 : Keeps o x0) : Keeps o (State.upEnter x0 x1) :=
  .wf hx0

theorem Keeps.upMiss {o x0 : State} (hx0 : Keeps o x0) : Keeps o (State.upMiss x0) := by
  unfold State.upMiss
  extract_lets -merge +onlyGivenNames t0 t1 t2 t4 t6 t8
  have h3 : Keeps o (t2) := .setFld hx0
  have h5 : Keeps o (t4) := .raise (.bump h3)
  have h7 : Keeps o (t6) := by
    unfold t6
    clear_value t0 t1
    split
    · exact .rrStep h5
    · exact h5
  have h9 : Keeps o (t8) := .ite (.upEnter h7) h7
  clear_value t0 t1 t2 t4 t6 t8
  exact .ite (.raise (.bump (.upEnter h9))) h9

theorem Keeps.ptabKeepAll {o x0 : State} (hx0 : Keeps o x0) : Keeps o (State.ptabKeepAll x0) :=
  .foldl (fun h => .ptabKeep h) hx0

theorem Keeps.ptabFill {o x0 : State} {x1 : Nat} {x2 : FieldBeacon} (hx0 : Keeps o x0) : Keeps o (State.ptabFill x0 x1 x2) := by
  unfold State.ptabFill
  extract_lets -merge +onlyGivenNames t0 t2 t4
  have h1 : Keeps o (t0) := .wf (.wf (.wb hx0))
  have h3 : Keeps o (t2) := .wf (.wf (.wf h1))
  have h5 : Keeps o (t4) := .wf (.wf h3)
  clear_value t0 t2 t4
  exact .ptabKeep (.wf (.wf h5))

theorem Keeps.ptabUpdate {o x0 : State} {x1 : FieldBeacon} (hx0 : Keeps o x0) : Keeps o (State.ptabUpdate x0 x1) := by
  unfold State.ptabUpdate
  split
  · exact .rrStep (.ptabFill hx0)
  · split
    · exact .ptabFill (.wf hx0)
    · split
      · exact hx0
      · exact .ite (.ptabFill (.wf hx0)) hx0

theorem Keeps.upHeard {o x0 : State} {x1 : GTime} (hx0 : Keeps o x0) : Keeps o (State.upHeard x0 x1) := by
  unfold State.upHeard
  refine .ite ?_ ?_
  · exact hx0
  · extract_lets -merge +onlyGivenNames t0 t1
    have h2 : Keeps o (t1) := .setFld hx0
    clear_value t0 t1
    exact .ite (.raise (.wb (.upEnter (.setFld h2)))) (.ite (.upEnter h2) h2)

theorem Keeps.upLearn {o x0 : State} {x1 : GTime} (hx0 : Keeps o x0) : Keeps o (State.upLearn x0 x1) := by
  unfold State.upLearn
  extract_lets -merge +onlyGivenNames t0 t1 t2 t3 t4 t5 t7 t9 t10 t11 t12 t14
  have h6 : Keeps o (t5).2 := by
    unfold t5
    clear_value t0 t1 t2 t3 t4
    split
    · exact .used hx0
    · exact hx0
  have h8 : Keeps o (t7) := h6
  have h13 : Keeps o (t12) := .wf (.wf h8)
  clear_value t0 t1 t2 t3 t4 t5 t7 t9 t10 t11 t12 t14
  exact .setFld h13

theorem Keeps.fieldBeacon {o x0 : State} {x1 : FieldBeacon} {x2 : GTime} (hx0 : Keeps o x0) : Keeps o (State.fieldBeacon x0 x1 x2) := by
  unfold State.fieldBeacon
  extract_lets -merge +onlyGivenNames t0 t1 t3
  have h2 : Keeps o (t1) := .ite (.beaconSample hx0) hx0
  have h4 : Keeps o (t3) := .ite (.ptabUpdate h2) h2
  clear_value t0 t1 t3
  refine .ite ?_ ?_
  · extract_lets -merge +onlyGivenNames t5
    have h6 : Keeps o (t5) := .setFld h4
    clear_value t5
    refine .ite ?_ ?_
    · extract_lets -merge +onlyGivenNames t7 t9
      have h8 : Keeps o (t7) := .setFld (.upHeard h6)
      clear_value t7 t9
      exact .nbrReport (.upLearn h8)
    · exact h6
  · exact h4

theorem Keeps.execPtabWrite {o : State} {x0 : Init} {x1 : Fin 8} {x2 : Fin 4} {x3 : Word} {x4 : State} (hx4 : Keeps o x4) : KeepsOut o (execPtabWrite x0 x1 x2 x3 x4) := by
  unfold Sys2Proof.Machine.execPtabWrite
  exact .next (.onWrite hx4 (fun h0 => .ptabWrite h0))

theorem Keeps.longListen {o x0 : State} (hx0 : Keeps o x0) : Keeps o (State.longListen x0) :=
  .raise (.bump (.wb (.upEnter hx0)))

theorem Keeps.execLongListenRetry {o x0 : State} (hx0 : Keeps o x0) : KeepsOut o (execLongListenRetry x0) := by
  unfold Sys2Proof.Machine.execLongListenRetry
  refine .ite ?_ ?_
  · exact .next (.longListen hx0)
  · exact .next hx0

theorem Keeps.execPtabAgeExpire {o : State} {x0 : Fin 8} {x1 : State} (hx1 : Keeps o x1) : KeepsOut o (execPtabAgeExpire x0 x1) := by
  unfold Sys2Proof.Machine.execPtabAgeExpire
  refine .ite ?_ ?_
  · exact .next hx1
  · exact .next (.wb hx1)

theorem Keeps.execUpBeaconListenEnd {o x0 : State} (hx0 : Keeps o x0) : KeepsOut o (execUpBeaconListenEnd x0) := by
  unfold Sys2Proof.Machine.execUpBeaconListenEnd
  refine .ite ?_ ?_
  · exact .next hx0
  · refine .ite ?_ ?_
    · exact .next (.setFld hx0)
    · exact .next (.upMiss hx0)

theorem Keeps.execUpHoldEnd {o x0 : State} (hx0 : Keeps o x0) : KeepsOut o (execUpHoldEnd x0) := by
  unfold Sys2Proof.Machine.execUpHoldEnd
  refine .ite ?_ ?_
  · exact .next (.longListen hx0)
  · exact .next hx0

theorem Keeps.execLongListenEnd {o x0 : State} (hx0 : Keeps o x0) : KeepsOut o (execLongListenEnd x0) := by
  unfold Sys2Proof.Machine.execLongListenEnd
  refine .ite ?_ ?_
  · exact .next hx0
  · extract_lets -merge +onlyGivenNames t0
    have h1 : Keeps o (t0) := .wb hx0
    clear_value t0
    split
    · extract_lets -merge +onlyGivenNames t2
      have h3 : Keeps o (t2) := .wf (.wb h1)
      clear_value t2
      exact .next (.raise (.bump (.upEnter h3)))
    · exact .next (.raise (.upEnter h1))

theorem Keeps.execUpstreamPoll {o : State} {x0 : GTime} {x1 : BitVec 8} {x2 : BitVec 7} {x3 : Option (List (BitVec 8))} {x4 : Bool} {x5 : State} (hx5 : Keeps o x5) : KeepsOut o (execUpstreamPoll x0 x1 x2 x3 x4 x5) := by
  unfold Sys2Proof.Machine.execUpstreamPoll
  refine .ite ?_ ?_
  · exact .next hx5
  · extract_lets -merge +onlyGivenNames t0
    clear_value t0
    split
    · exact .next (.raise (.bump hx5))
    · extract_lets -merge +onlyGivenNames t1
      clear_value t1
      refine .ite ?_ ?_
      · exact .next (.radioRejected hx5)
      · split
        · exact .next (.dwellRefused hx5)
        · extract_lets -merge +onlyGivenNames t2 t3
          have h4 : Keeps o (t3) := .setFld ((Keeps.dwell hx5) _ (by assumption))
          clear_value t2 t3
          exact .next (.fieldSend h4)

/-! StpPlan -/

theorem Keeps.givePlan {o x0 : State} {x1 : Nat} {x2 : PlanSt} (hx0 : Keeps o x0) : Keeps o (State.givePlan x0 x1 x2) := by
  unfold State.givePlan
  extract_lets -merge +onlyGivenNames t0 t2 t4 t6
  have h1 : Keeps o (t0) := .setStp hx0
  have h3 : Keeps o (t2) := .foldl (fun h => .ite (.setStp h) h) h1
  have h5 : Keeps o (t4) := .emit h3
  have h7 : Keeps o (t6) := .used (.setRegN h5)
  clear_value t0 t2 t4 t6
  refine .ite ?_ ?_
  · exact h7
  · extract_lets -merge +onlyGivenNames t8
    have h9 : Keeps o (t8) := .bump h7
    clear_value t8
    exact .ite (.bump h9) (.ite (.bump h9) (.bump h9))

theorem Keeps.freeRun {o x0 : State} {x1 : Nat} {x2 : Nat} (hx0 : Keeps o x0) : Keeps o (State.freeRun x0 x1 x2) := by
  unfold State.freeRun
  split
  · exact hx0
  · exact .txGive (.setPkt hx0)

theorem Keeps.dropPlan {o x0 : State} {x1 : Nat} (hx0 : Keeps o x0) : Keeps o (State.dropPlan x0 x1) := by
  unfold State.dropPlan
  split
  · exact hx0
  · extract_lets -merge +onlyGivenNames t0
    have h1 : Keeps o (t0) := .setStp hx0
    clear_value t0
    exact .ite h1 (.freeRun h1)

theorem Keeps.ruEntries {o x0 : State} {x1 : Nat} {x2 : Nat} {x3 : Nat} {x4 : Nat} {x5 : Bool} {x6 : List RuUse} (hx0 : Keeps o x0) : Keeps o (State.ruEntries x0 x1 x2 x3 x4 x5 x6).1 := by
  induction x6 generalizing x0 x1 x2 x3 x4 x5 with
  | nil =>
    exact hx0
  | cons y l ih =>
    rw [State.ruEntries]
    exact ih (.used (.used hx0))

theorem Keeps.tablePlan {o x0 : State} {x1 : Nat} {x2 : Nat} {x3 : Nat} {x4 : Nat} {x5 : Nat} {x6 : List RuUse} {x7 : Nat} (hx0 : Keeps o x0) : Keeps o (State.tablePlan x0 x1 x2 x3 x4 x5 x6 x7) := by
  unfold State.tablePlan
  extract_lets -merge +onlyGivenNames t0 t1
  clear_value t0 t1
  split
  · exact .givePlan hx0
  · extract_lets -merge +onlyGivenNames t2 t4 t5
    have h3 : Keeps o (t2).1 := .ruEntries ((Keeps.takeRun hx0) _ (by assumption))
    have h6 : Keeps o (t5) := .setWords (.used h3)
    clear_value t2 t4 t5
    exact .givePlan h6

theorem Keeps.plan {o x0 : State} {x1 : Nat} {x2 : Nat} {x3 : Nat} {x4 : Nat} {x5 : Nat} (hx0 : Keeps o x0) : Keeps o (State.plan x0 x1 x2 x3 x4 x5) := by
  simp only [State.plan]
  split
  · exact .givePlan hx0
  · exact .ite (.ite (.tablePlan (.setStp hx0)) (.tablePlan hx0)) (.ite (.givePlan hx0) (.ite (.tablePlan hx0) (.tablePlan hx0)))

theorem Keeps.execSpDecisionStart {o : State} {x0 : WRadio} {x1 : BitVec 12} {x2 : Fin 5} {x3 : BitVec 16} {x4 : Nat} {x5 : State} (hx5 : Keeps o x5) : KeepsOut o (execSpDecisionStart x0 x1 x2 x3 x4 x5) := by
  unfold Sys2Proof.Machine.execSpDecisionStart
  extract_lets -merge +onlyGivenNames t0 t1
  clear_value t0 t1
  refine .ite ?_ ?_
  · exact .next hx5
  · extract_lets -merge +onlyGivenNames t2 t4
    have h3 : Keeps o (t2) := .ite hx5 (.setRecState hx5)
    have h5 : Keeps o (t4) := .keepLim h3
    clear_value t2 t4
    exact .next (.plan (.dropPlan h5))

theorem Keeps.execPlanDiscard {o : State} {x0 : WRadio} {x1 : State} (hx1 : Keeps o x1) : KeepsOut o (execPlanDiscard x0 x1) := by
  unfold Sys2Proof.Machine.execPlanDiscard
  exact .next (.dropPlan hx1)

theorem Keeps.execPlanRequest {o : State} {x0 : WRadio} {x1 : Fin 4} {x2 : Fin 5} {x3 : BitVec 16} {x4 : Nat} {x5 : State} (hx5 : Keeps o x5) : KeepsOut o (execPlanRequest x0 x1 x2 x3 x4 x5) := by
  unfold Sys2Proof.Machine.execPlanRequest
  refine .ite ?_ ?_
  · exact .next hx5
  · exact .next (.plan (.dropPlan hx5))

theorem Keeps.execDecisionOverrun {o : State} {x0 : WRadio} {x1 : Fin 4} {x2 : Nat} {x3 : State} (hx3 : Keeps o x3) : KeepsOut o (execDecisionOverrun x0 x1 x2 x3) := by
  unfold Sys2Proof.Machine.execDecisionOverrun
  refine .ite ?_ ?_
  · exact .next hx3
  · extract_lets -merge +onlyGivenNames t0 t1 t3
    have h2 : Keeps o (t1) := .bump (.refuse (.dropPlan hx3))
    have h4 : Keeps o (t3) := .emit h2
    clear_value t0 t1 t3
    split
    · exact .next h4
    · extract_lets -merge +onlyGivenNames t5
      clear_value t5
      exact .next (.setStp h4)

/-! Mac -/

theorem Keeps.macEnter {o x0 : State} {x1 : WRadio} {x2 : Nat} (hx0 : Keeps o x0) : Keeps o (State.macEnter x0 x1 x2) :=
  .wf hx0

theorem Keeps.setMac {o x0 : State} {x1 : WRadio} {x2 : MacSt → MacSt} (hx0 : Keeps o x0) : Keeps o (State.setMac x0 x1 x2) :=
  .in_wlan hx0

theorem Keeps.setWlan {o x0 : State} {x1 : WlanSt → WlanSt} (hx0 : Keeps o x0) : Keeps o (State.setWlan x0 x1) :=
  .in_wlan hx0

theorem Keeps.macPop {o : State} {x0 : Init} {x1 : WRadio} {x2 : State} (hx2 : Keeps o x2) : Keeps o (State.macPop x0 x1 x2) := by
  unfold State.macPop
  split
  · exact .answer hx2
  · exact .answer (.setMac hx2)

theorem Keeps.tsfRead {o : State} {x0 : Init} {x1 : WRadio} {x2 : State} (hx2 : Keeps o x2) : Keeps o (State.tsfRead x0 x1 x2) := by
  unfold State.tsfRead
  extract_lets -merge +onlyGivenNames t0 t1 t3
  have h2 : Keeps o (t1) := .setRegN (.setRegN hx2)
  have h4 : Keeps o (t3) := .setReg64 h2
  clear_value t0 t1 t3
  exact .answer h4

theorem Keeps.macPush {o : State} {x0 : WRadio} {x1 : Word} {x2 : State} (hx2 : Keeps o x2) : Keeps o (State.macPush x0 x1 x2) := by
  unfold State.macPush
  refine .ite ?_ ?_
  · exact hx2
  · extract_lets -merge +onlyGivenNames t0 t1
    clear_value t0 t1
    exact .ite (.setMac hx2) (.refuse hx2)

theorem Keeps.markReleased {o x0 : State} {x1 : Nat} (hx0 : Keeps o x0) : Keeps o (State.markReleased x0 x1) :=
  .in_rxmpdus hx0

theorem Keeps.rxRelease {o x0 : State} {x1 : Nat} (hx0 : Keeps o x0) : Keeps o (State.rxRelease x0 x1) := by
  unfold State.rxRelease
  split
  · exact hx0
  · extract_lets -merge +onlyGivenNames t0
    clear_value t0
    exact .ite (.markReleased hx0) (.ite (.raise (.bump (.dropRx hx0))) (.markReleased (.setWlan hx0)))

theorem Keeps.releaseBelow {o x0 : State} {x1 : Nat} {x2 : Nat} {x3 : Nat} {x4 : Nat} (hx0 : Keeps o x0) : Keeps o (State.releaseBelow x0 x1 x2 x3 x4) := by
  induction x4 generalizing x0 x1 x2 x3 with
  | zero =>
    exact hx0
  | succ n ih =>
    rw [State.releaseBelow]
    split
    · exact .rxRelease (ih hx0)
    · exact ih hx0

theorem Keeps.macDone {o x0 : State} {x1 : WRadio} {x2 : List Word} {x3 : Nat} (hx0 : Keeps o x0) : Keeps o (State.macDone x0 x1 x2 x3) := by
  unfold State.macDone
  extract_lets -merge +onlyGivenNames t0 t2 t4
  have h1 : Keeps o (t0) := .setMac hx0
  have h3 : Keeps o (t2) := .ite (.setMac h1) (.bump h1)
  have h5 : Keeps o (t4) := .ite (.bump h3) h3
  clear_value t0 t2 t4
  exact .ite h5 (.raise h5)

theorem Keeps.macRun {o x0 : State} {x1 : WRadio} {x2 : Nat} {x3 : Nat} {x4 : Nat} {x5 : Nat} {x6 : State → List Word → State × Nat} (hx0 : Keeps o x0) (hx6 : ∀ {y0} {y1}, Keeps o y0 → Keeps o (x6 y0 y1).1) : Keeps o (State.macRun x0 x1 x2 x3 x4 x5 x6) := by
  unfold State.macRun
  split
  · exact hx0
  · extract_lets -merge +onlyGivenNames t0 t1
    clear_value t0 t1
    refine .ite ?_ ?_
    · exact hx0
    · refine .ite ?_ ?_
      · exact .macDone hx0
      · refine .ite ?_ ?_
        · exact .macDone hx0
        · refine .ite ?_ ?_
          · exact .macDone hx0
          · extract_lets -merge +onlyGivenNames t2
            have h3 : Keeps o (t2).1 := hx6 hx0
            clear_value t2
            exact .macDone h3

theorem Keeps.afterStop {o x0 : State} {x1 : WRadio} (hx0 : Keeps o x0) : Keeps o (State.afterStop x0 x1) :=
  .ite hx0 (.macEnter hx0)

theorem Keeps.flushHeld {o x0 : State} {x1 : Nat} {x2 : Nat} (hx0 : Keeps o x0) : Keeps o (State.flushHeld x0 x1 x2) := by
  unfold State.flushHeld
  split
  · exact .releaseBelow hx0
  · exact hx0

theorem Keeps.dropBas {o x0 : State} {x1 : Nat} (hx0 : Keeps o x0) : Keeps o (State.dropBas x0 x1) := by
  unfold State.dropBas
  extract_lets -merge +onlyGivenNames t0
  have h1 : Keeps o (t0) := .foldl (fun h => .flushHeld h) hx0
  clear_value t0
  exact .setWlan h1

theorem Keeps.keepMesh {o x0 : State} {x1 : WRadio} (hx0 : Keeps o x0) : Keeps o (State.keepMesh x0 x1) :=
  .wf hx0

theorem Keeps.linkDrop {o x0 : State} {x1 : WRadio} {x2 : Nat} (hx0 : Keeps o x0) : Keeps o (State.linkDrop x0 x1 x2) := by
  unfold State.linkDrop
  extract_lets -merge +onlyGivenNames t0 t2
  have h1 : Keeps o (t0) := .setWlan hx0
  have h3 : Keeps o (t2) := .ite h1 (.dropBas h1)
  clear_value t0 t2
  exact .keepMesh h3

theorem Keeps.linksDrop {o x0 : State} {x1 : WRadio} {x2 : Nat} (hx0 : Keeps o x0) : Keeps o (State.linksDrop x0 x1 x2) :=
  .foldl (fun h => .linkDrop h) hx0

theorem Keeps.execBssStop {o : State} {x0 : WRadio} {x1 : State} (hx1 : Keeps o x1) : KeepsOut o (execBssStop x0 x1) := by
  unfold Sys2Proof.Machine.execBssStop
  exact .next (.macRun hx1 (fun h0 => by
    extract_lets -merge +onlyGivenNames t1
    clear_value t1
    refine .iteP ?_ ?_
    · exact h0
    · extract_lets -merge +onlyGivenNames t2 t4
      have h3 : Keeps o (t2) := .wf h0
      have h5 : Keeps o (t4) := .setMac h3
      clear_value t2 t4
      exact .afterStop (.linksDrop h5)))

theorem Keeps.execBaAdd {o : State} {x0 : WRadio} {x1 : State} (hx1 : Keeps o x1) : KeepsOut o (execBaAdd x0 x1) := by
  unfold Sys2Proof.Machine.execBaAdd
  exact .next (.macRun hx1 (fun h0 => by
    extract_lets -merge +onlyGivenNames t1 t2 t3
    clear_value t1 t2 t3
    refine .iteP ?_ ?_
    · exact h0
    · refine .iteP ?_ ?_
      · exact h0
      · extract_lets -merge +onlyGivenNames t4 t6 t7
        have h5 : Keeps o (t4) := .setWlan h0
        clear_value t4 t6 t7
        exact .ite h5 (.setWlan h5)))

theorem Keeps.execMacResultPop {o : State} {x0 : Init} {x1 : WRadio} {x2 : State} (hx2 : Keeps o x2) : KeepsOut o (execMacResultPop x0 x1 x2) := by
  unfold Sys2Proof.Machine.execMacResultPop
  exact .next (.onRead hx2 (fun h0 => .macPop h0))

theorem Keeps.execMacCmdPush {o : State} {x0 : Init} {x1 : WRadio} {x2 : Word} {x3 : State} (hx3 : Keeps o x3) : KeepsOut o (execMacCmdPush x0 x1 x2 x3) := by
  unfold Sys2Proof.Machine.execMacCmdPush
  exact .next (.onWrite hx3 (fun h0 => .macPush h0))

theorem Keeps.execBssStart {o : State} {x0 : WRadio} {x1 : State} (hx1 : Keeps o x1) : KeepsOut o (execBssStart x0 x1) := by
  unfold Sys2Proof.Machine.execBssStart
  exact .next (.macRun hx1 (fun h0 => by
    refine .iteP ?_ ?_
    · exact h0
    · exact .macEnter (.wf h0)))

theorem Keeps.execTwtSlipCheck {o : State} {x0 : WRadio} {x1 : BitVec 12} {x2 : Fin 8} {x3 : State} (hx3 : Keeps o x3) : KeepsOut o (execTwtSlipCheck x0 x1 x2 x3) := by
  unfold Sys2Proof.Machine.execTwtSlipCheck
  extract_lets -merge +onlyGivenNames t0
  clear_value t0
  split
  · exact .next hx3
  · extract_lets -merge +onlyGivenNames t1 t2 t3
    have h5 : ∀ {y0} {y1} {y2}, Keeps o y0 → Keeps o (t3 y0 y1 y2) := fun h4 => .setWlan h4
    clear_value t1 t2 t3
    refine .ite ?_ ?_
    · extract_lets -merge +onlyGivenNames t6 t7
      have h8 : Keeps o (t7) := .emit hx3
      clear_value t6 t7
      exact .next (.raise (.bump (h5 h8)))
    · exact .next (h5 hx3)

theorem Keeps.execTsfRead {o : State} {x0 : Init} {x1 : WRadio} {x2 : State} (hx2 : Keeps o x2) : KeepsOut o (execTsfRead x0 x1 x2) := by
  unfold Sys2Proof.Machine.execTsfRead
  exact .next (.onRead hx2 (fun h0 => .tsfRead h0))

theorem Keeps.execLinkAdd {o : State} {x0 : WRadio} {x1 : State} (hx1 : Keeps o x1) : KeepsOut o (execLinkAdd x0 x1) := by
  unfold Sys2Proof.Machine.execLinkAdd
  exact .next (.macRun hx1 (fun h0 => by
    extract_lets -merge +onlyGivenNames t1 t2 t3
    clear_value t1 t2 t3
    refine .iteP ?_ ?_
    · exact h0
    · refine .iteP ?_ ?_
      · exact h0
      · refine .iteP ?_ ?_
        · exact h0
        · exact .keepMesh (.setWlan h0)))

theorem Keeps.execLinkDel {o : State} {x0 : WRadio} {x1 : State} (hx1 : Keeps o x1) : KeepsOut o (execLinkDel x0 x1) := by
  unfold Sys2Proof.Machine.execLinkDel
  exact .next (.macRun hx1 (fun h0 => by
    split
    · exact h0
    · refine .iteP ?_ ?_
      · exact h0
      · exact .linkDrop h0))

theorem Keeps.execBaDel {o : State} {x0 : WRadio} {x1 : State} (hx1 : Keeps o x1) : KeepsOut o (execBaDel x0 x1) := by
  unfold Sys2Proof.Machine.execBaDel
  exact .next (.macRun hx1 (fun h0 => by
    extract_lets -merge +onlyGivenNames t1 t2 t3
    clear_value t1 t2 t3
    refine .iteP ?_ ?_
    · exact h0
    · extract_lets -merge +onlyGivenNames t4
      have h5 : Keeps o (t4) := .setWlan h0
      clear_value t4
      refine .iteP ?_ ?_
      · exact h5
      · exact .setWlan (.flushHeld h5)))

theorem Keeps.execTwtSet {o : State} {x0 : WRadio} {x1 : State} (hx1 : Keeps o x1) : KeepsOut o (execTwtSet x0 x1) := by
  unfold Sys2Proof.Machine.execTwtSet
  exact .next (.macRun hx1 (fun h0 => by
    extract_lets -merge +onlyGivenNames t1 t2 t3
    clear_value t1 t2 t3
    refine .iteP ?_ ?_
    · exact h0
    · refine .iteP ?_ ?_
      · exact h0
      · extract_lets -merge +onlyGivenNames t4
        clear_value t4
        exact .setWlan h0))

theorem Keeps.execTwtDel {o : State} {x0 : WRadio} {x1 : State} (hx1 : Keeps o x1) : KeepsOut o (execTwtDel x0 x1) := by
  unfold Sys2Proof.Machine.execTwtDel
  exact .next (.macRun hx1 (fun h0 => by
    extract_lets -merge +onlyGivenNames t1
    clear_value t1
    refine .iteP ?_ ?_
    · exact h0
    · exact .setWlan h0))

theorem Keeps.execMeshStart {o : State} {x0 : WRadio} {x1 : State} (hx1 : Keeps o x1) : KeepsOut o (execMeshStart x0 x1) := by
  unfold Sys2Proof.Machine.execMeshStart
  exact .next (.macRun hx1 (fun h0 => by
    refine .iteP ?_ ?_
    · exact h0
    · exact .macEnter (.setMac h0)))

theorem Keeps.execMeshStop {o : State} {x0 : WRadio} {x1 : State} (hx1 : Keeps o x1) : KeepsOut o (execMeshStop x0 x1) := by
  unfold Sys2Proof.Machine.execMeshStop
  exact .next (.macRun hx1 (fun h0 => by
    refine .iteP ?_ ?_
    · exact h0
    · exact .afterStop (.linksDrop (.setMac h0))))

theorem Keeps.execMacDrainDone {o : State} {x0 : WRadio} {x1 : State} (hx1 : Keeps o x1) : KeepsOut o (execMacDrainDone x0 x1) := by
  unfold Sys2Proof.Machine.execMacDrainDone
  refine .ite ?_ ?_
  · exact .next (.macEnter hx1)
  · exact .next hx1

theorem Keeps.execMacDropAlarm {o : State} {x0 : WRadio} {x1 : Nat} {x2 : State} (hx2 : Keeps o x2) : KeepsOut o (execMacDropAlarm x0 x1 x2) := by
  unfold Sys2Proof.Machine.execMacDropAlarm
  refine .ite ?_ ?_
  · exact .next (.raise hx2)
  · exact .next hx2

/-! Field -/

theorem Keeps.schedArm {o : State} {x0 : Nat} {x1 : Word} {x2 : State} (hx2 : Keeps o x2) : Keeps o (State.schedArm x0 x1 x2) :=
  .ite (.refuse hx2) (.wb (.writeReg hx2))

theorem Keeps.holdStep {o x0 : State} {x1 : Nat} (hx0 : Keeps o x0) : Keeps o (State.holdStep x0 x1) := by
  unfold State.holdStep
  refine .ite ?_ ?_
  · exact hx0
  · extract_lets -merge +onlyGivenNames t0 t1
    have h2 : Keeps o (t1) := .setFe hx0
    clear_value t0 t1
    exact .ite (.raise (.bump (.feRelease h2))) h2

theorem Keeps.beaconSkip {o x0 : State} (hx0 : Keeps o x0) : Keeps o (State.beaconSkip x0) :=
  .raise (.bump hx0)

theorem Keeps.beaconGo {o x0 : State} (hx0 : Keeps o x0) : Keeps o (State.beaconGo x0) := by
  unfold State.beaconGo
  extract_lets -merge +onlyGivenNames t0 t1
  clear_value t0 t1
  split
  · exact .beaconSkip hx0
  · extract_lets -merge +onlyGivenNames t2
    clear_value t2
    refine .ite ?_ ?_
    · exact .beaconSkip (.radioRejected hx0)
    · split
      · exact .beaconSkip (.dwellRefused hx0)
      · extract_lets -merge +onlyGivenNames t3 t4
        have h5 : Keeps o (t4) := .bump (.setFld ((Keeps.dwell hx0) _ (by assumption)))
        clear_value t3 t4
        exact .fieldSend (.fieldMode h5)

theorem Keeps.exchangeOver {o x0 : State} {x1 : Option Nat} (hx0 : Keeps o x0) : Keeps o (State.exchangeOver x0 x1) := by
  unfold State.exchangeOver
  split
  · exact hx0
  · exact .ite (.fieldRecState hx0) hx0

theorem Keeps.fieldDrop {o x0 : State} (hx0 : Keeps o x0) : Keeps o (State.fieldDrop x0) :=
  .unreserve hx0

theorem Keeps.fieldBad {o x0 : State} {x1 : Nat} (hx0 : Keeps o x0) : Keeps o (State.fieldBad x0 x1) :=
  .raise (.bump (.fieldDrop hx0))

theorem Keeps.fromBeacon {o x0 : State} {x1 : FieldRx} (hx0 : Keeps o x0) : Keeps o (State.fromBeacon x0 x1) := by
  unfold State.fromBeacon
  extract_lets -merge +onlyGivenNames t0 t1 t2 t3 t4
  clear_value t0 t1 t2 t3 t4
  refine .ite ?_ ?_
  · exact .fieldDrop hx0
  · refine .ite ?_ ?_
    · exact .fieldBad hx0
    · split
      · exact .fieldBad hx0
      · extract_lets -merge +onlyGivenNames t5
        clear_value t5
        exact .fieldBeacon (.fieldDrop hx0)

theorem Keeps.childHeard {o x0 : State} {x1 : Nat} {x2 : FieldRx} (hx0 : Keeps o x0) : Keeps o (State.childHeard x0 x1 x2) := by
  unfold State.childHeard
  extract_lets -merge +onlyGivenNames t0 t1 t3 t5
  have h2 : Keeps o (t1) := .setFe (.setFe (.setFe hx0))
  have h4 : Keeps o (t3) := .ite (.setRec (.setRec (.setRecGt h2))) h2
  have h6 : Keeps o (t5) := .ite (.fieldRecState h4) h4
  clear_value t0 t1 t3 t5
  refine .ite ?_ ?_
  · extract_lets -merge +onlyGivenNames t7 t9
    have h8 : Keeps o (t7) := .fieldRecState h6
    have h10 : Keeps o (t9) := .ite (.setRec h8) h8
    clear_value t7 t9
    exact .raise (.bump h10)
  · exact h6

theorem Keeps.moveOffset {o x0 : State} {x1 : Nat} {x2 : Int} (hx0 : Keeps o x0) : Keeps o (State.moveOffset x0 x1 x2) := by
  unfold State.moveOffset
  refine .ite ?_ ?_
  · extract_lets -merge +onlyGivenNames t0 t1
    have h2 : Keeps o (t1) := .setRec hx0
    clear_value t0 t1
    exact .setRec h2
  · exact hx0

theorem Keeps.tcSettle {o x0 : State} {x1 : Nat} {x2 : Nat} {x3 : List Byte} (hx0 : Keeps o x0) : Keeps o (State.tcSettle x0 x1 x2 x3) := by
  unfold State.tcSettle
  refine .ite ?_ ?_
  · extract_lets -merge +onlyGivenNames t0
    have h1 : Keeps o (t0) := .ite hx0 (.moveOffset hx0)
    clear_value t0
    exact .setFe h1
  · exact hx0

theorem Keeps.pollHit {o x0 : State} {x1 : FieldOwner} {x2 : Nat} {x3 : GTime} (hx0 : Keeps o x0) : Keeps o (State.pollHit x0 x1 x2 x3) := by
  unfold State.pollHit
  extract_lets -merge +onlyGivenNames t0 t1 t3
  have h2 : Keeps o (t1) := .setFld (.bump hx0)
  have h4 : Keeps o (t3) := .ite (.driftLearn (.setRecGt h2)) h2
  clear_value t0 t1 t3
  exact .fieldNext (.fieldRecState h4)

theorem Keeps.childFrame {o x0 : State} {x1 : Nat} {x2 : Nat} {x3 : Bool} {x4 : Byte} {x5 : List Byte} {x6 : FieldRx} {x7 : Bool} (hx0 : Keeps o x0) : Keeps o (State.childFrame x0 x1 x2 x3 x4 x5 x6 x7) := by
  unfold State.childFrame
  extract_lets -merge +onlyGivenNames t0 t2 t3 t4 t5 t6 t8
  have h1 : Keeps o (t0) := .dlRetry hx0
  have h7 : Keeps o (t6) := .ite h1 (.childHeard (.tcSettle h1))
  clear_value t0 t2 t3 t4 t5 t6 t8
  refine .ite ?_ ?_
  · extract_lets -merge +onlyGivenNames t9 t11
    have h10 : Keeps o (t9) := .ite h7 (.bump h7)
    clear_value t9 t11
    exact .ite (.setFld h10) h10
  · split
    · exact h7
    · refine .ite ?_ ?_
      · exact h7
      · extract_lets -merge +onlyGivenNames t12 t13 t14
        have h15 : Keeps o (t14) := .ite h7 (.pollHit h7)
        clear_value t12 t13 t14
        exact .ite (.setFld h15) h15

theorem Keeps.execPassRegionStart {o x0 : State} (hx0 : Keeps o x0) : KeepsOut o (execPassRegionStart x0) := by
  unfold Sys2Proof.Machine.execPassRegionStart
  refine .ite ?_ ?_
  · exact .next hx0
  · refine .ite ?_ ?_
    · exact .next (.radioRejected hx0)
    · exact .next (.macPort (.fieldMode hx0))

theorem Keeps.tcPost {o x0 : State} {x1 : Nat} {x2 : Int} (hx0 : Keeps o x0) : Keeps o (State.tcPost x0 x1 x2) := by
  unfold State.tcPost
  extract_lets -merge +onlyGivenNames t0
  have h1 : Keeps o (t0) := .setFe hx0
  clear_value t0
  exact .ite (.setFe (.moveOffset h1)) h1

theorem Keeps.sendAck {o x0 : State} {x1 : FieldResp} {x2 : Nat} (hx0 : Keeps o x0) : Keeps o (State.sendAck x0 x1 x2) := by
  unfold State.sendAck
  extract_lets -merge +onlyGivenNames t0 t1 t2
  clear_value t0 t1 t2
  split
  · exact .dwellRefused hx0
  · extract_lets -merge +onlyGivenNames t3
    have h4 : Keeps o (t3) := by
      unfold t3
      split
      · exact .ite (.tcPost ((Keeps.dwell hx0) _ (by assumption))) ((Keeps.dwell hx0) _ (by assumption))
      · exact (Keeps.dwell hx0) _ (by assumption)
    clear_value t3
    exact .fieldSend h4

theorem Keeps.fieldRespond {o x0 : State} {x1 : FieldResp} (hx0 : Keeps o x0) : Keeps o (State.fieldRespond x0 x1) := by
  unfold State.fieldRespond
  extract_lets -merge +onlyGivenNames t0
  clear_value t0
  split
  · exact .sendAck hx0
  · extract_lets -merge +onlyGivenNames t1
    clear_value t1
    refine .ite ?_ ?_
    · exact .sendAck hx0
    · extract_lets -merge +onlyGivenNames t2 t3 t4 t5 t6
      clear_value t2 t3 t4 t5 t6
      refine .ite ?_ ?_
      · exact .sendAck hx0
      · split
        · exact .sendAck (.dwellRefused hx0)
        · extract_lets -merge +onlyGivenNames t7 t9 t11
          have h8 : Keeps o (t7) := .ite (.tcPost ((Keeps.dwell hx0) _ (by assumption))) ((Keeps.dwell hx0) _ (by assumption))
          have h10 : Keeps o (t9) := .setFe h8
          have h12 : Keeps o (t11) := .setFld h10
          clear_value t7 t9 t11
          exact .fieldSend h12

theorem Keeps.execFieldResponse {o x0 : State} (hx0 : Keeps o x0) : KeepsOut o (execFieldResponse x0) := by
  unfold Sys2Proof.Machine.execFieldResponse
  split
  · exact .next hx0
  · extract_lets -merge +onlyGivenNames t0
    have h1 : Keeps o (t0) := .setFld hx0
    clear_value t0
    refine .ite ?_ ?_
    · exact .next (.exchangeOver (.radioRejected h1))
    · exact .next (.exchangeOver (.fieldRespond h1))

theorem Keeps.execOwnerMapBuild {o x0 : State} (hx0 : Keeps o x0) : KeepsOut o (execOwnerMapBuild x0) := by
  unfold Sys2Proof.Machine.execOwnerMapBuild
  extract_lets -merge +onlyGivenNames t0 t1 t2
  clear_value t0 t1 t2
  exact .next (.setFld hx0)

theorem Keeps.execValleyStart {o x0 : State} (hx0 : Keeps o x0) : KeepsOut o (execValleyStart x0) := by
  unfold Sys2Proof.Machine.execValleyStart
  refine .ite ?_ ?_
  · exact .next (.macPort (.setFld hx0))
  · exact .next hx0

theorem Keeps.childAbsent {o x0 : State} {x1 : Nat} (hx0 : Keeps o x0) : Keeps o (State.childAbsent x0 x1) := by
  unfold State.childAbsent
  extract_lets -merge +onlyGivenNames t0
  have h1 : Keeps o (t0) := .setFe (.setFe hx0)
  clear_value t0
  exact .raise (.bump (.fieldRecState h1))

theorem Keeps.execSuperframeStart {o x0 : State} (hx0 : Keeps o x0) : KeepsOut o (execSuperframeStart x0) := by
  unfold Sys2Proof.Machine.execSuperframeStart
  refine .ite ?_ ?_
  · exact .next hx0
  · extract_lets -merge +onlyGivenNames t0 t2
    have h1 : Keeps o (t0) := .setFld hx0
    have h3 : Keeps o (t2) := .ite (.setFld (.wb h1)) h1
    clear_value t0 t2
    exact .next (.foldl (fun h => .holdStep h) h3)

theorem Keeps.execScheduleArm {o : State} {x0 : Init} {x1 : Word} {x2 : State} (hx2 : Keeps o x2) : KeepsOut o (execScheduleArm x0 x1 x2) := by
  unfold Sys2Proof.Machine.execScheduleArm
  exact .next (.onWrite hx2 (fun h0 => .schedArm h0))

theorem Keeps.execScheduleApply {o x0 : State} (hx0 : Keeps o x0) : KeepsOut o (execScheduleApply x0) := by
  unfold Sys2Proof.Machine.execScheduleApply
  refine .ite ?_ ?_
  · exact .next hx0
  · extract_lets -merge +onlyGivenNames t0 t2
    have h1 : Keeps o (t0) := .setReg (.setReg hx0)
    have h3 : Keeps o (t2) := .setReg (.setReg h1)
    clear_value t0 t2
    exact .next (.raise (.wb h3))

theorem Keeps.execFieldBeaconCommit {o x0 : State} (hx0 : Keeps o x0) : KeepsOut o (execFieldBeaconCommit x0) := by
  unfold Sys2Proof.Machine.execFieldBeaconCommit
  refine .ite ?_ ?_
  · exact .next hx0
  · refine .ite ?_ ?_
    · exact .next (.beaconSkip hx0)
    · exact .next (.beaconGo hx0)

theorem Keeps.fieldAck {o x0 : State} {x1 : FieldRx} (hx0 : Keeps o x0) : Keeps o (State.fieldAck x0 x1) := by
  unfold State.fieldAck
  extract_lets -merge +onlyGivenNames t0 t1
  clear_value t0 t1
  split
  · exact .ite (.setFld (.dlEnd (.fieldDrop hx0))) (.fieldDrop hx0)
  · refine .ite ?_ ?_
    · extract_lets -merge +onlyGivenNames t2
      have h3 : Keeps o (t2) := .ite (.wf hx0) hx0
      clear_value t2
      exact .setFld (.upHeard (.fieldDrop h3))
    · exact .fieldDrop hx0

theorem Keeps.fieldStore {o x0 : State} {x1 : List Byte} {x2 : GTime} (hx0 : Keeps o x0) : KeepsOpt o (State.fieldStore x0 x1 x2) := by
  unfold State.fieldStore
  refine .ite ?_ ?_
  · exact .none
  · split
    · exact .none
    · extract_lets -merge +onlyGivenNames t0
      have h1 : Keeps o (t0) := .setWords ((Keeps.takeRun (.unreserve hx0)) _ (by assumption))
      clear_value t0
      exact .some (.setBytes (.used h1))

theorem Keeps.fromParent {o x0 : State} {x1 : FieldRx} (hx0 : Keeps o x0) : Keeps o (State.fromParent x0 x1) := by
  unfold State.fromParent
  extract_lets -merge +onlyGivenNames t0 t1
  clear_value t0 t1
  split
  · exact .fieldBad hx0
  · split
    · exact .bump (.fieldDrop hx0)
    · extract_lets -merge +onlyGivenNames t2 t4
      have h3 : Keeps o (t2) := .ite (.wf ((Keeps.fieldStore hx0) _ (by assumption))) ((Keeps.fieldStore hx0) _ (by assumption))
      have h5 : Keeps o (t4) := .setFld (.upHeard h3)
      clear_value t2 t4
      exact .ite (.setFld h5) h5

theorem Keeps.fromChild {o x0 : State} {x1 : FieldOwner} {x2 : FieldRx} (hx0 : Keeps o x0) : Keeps o (State.fromChild x0 x1 x2) := by
  unfold State.fromChild
  extract_lets -merge +onlyGivenNames t0 t1
  clear_value t0 t1
  split
  · exact .fieldBad hx0
  · extract_lets -merge +onlyGivenNames t2 t3 t4
    clear_value t2 t3 t4
    refine .ite ?_ ?_
    · exact .fieldBad hx0
    · refine .ite ?_ ?_
      · exact .childFrame (.bump (.fieldDrop hx0))
      · split
        · exact .bump (.fieldDrop hx0)
        · exact .childFrame (.write32 ((Keeps.fieldStore hx0) _ (by assumption)))

theorem Keeps.fromJoiner {o x0 : State} {x1 : FieldRx} (hx0 : Keeps o x0) : Keeps o (State.fromJoiner x0 x1) := by
  unfold State.fromJoiner
  extract_lets -merge +onlyGivenNames t0 t1 t2
  clear_value t0 t1 t2
  refine .ite ?_ ?_
  · exact .fieldDrop hx0
  · split
    · exact .fieldBad hx0
    · split
      · exact .bump (.fieldDrop hx0)
      · extract_lets -merge +onlyGivenNames t3
        have h4 : Keeps o (t3) := .bump ((Keeps.fieldStore hx0) _ (by assumption))
        clear_value t3
        exact .ite (.setFld h4) h4

theorem Keeps.execFieldFrameReceive {o : State} {x0 : FieldRx} {x1 : State} (hx1 : Keeps o x1) : KeepsOut o (execFieldFrameReceive x0 x1) := by
  unfold Sys2Proof.Machine.execFieldFrameReceive
  extract_lets -merge +onlyGivenNames t0 t1 t2
  clear_value t0 t1 t2
  refine .ite ?_ ?_
  · exact .next (.fieldDrop hx1)
  · refine .ite ?_ ?_
    · exact .next (.bump (.fieldDrop hx1))
    · refine .ite ?_ ?_
      · exact .next (.fieldDrop hx1)
      · refine .ite ?_ ?_
        · exact .next (.fieldAck hx1)
        · refine .ite ?_ ?_
          · exact .next (.fieldDrop hx1)
          · refine .ite ?_ ?_
            · exact .next (.fromBeacon hx1)
            · extract_lets -merge +onlyGivenNames t3 t4 t5
              clear_value t3 t4 t5
              refine .ite ?_ ?_
              · exact .next (.fieldDrop hx1)
              · refine .ite ?_ ?_
                · exact .next (.fromParent hx1)
                · refine .ite ?_ ?_
                  · exact .next (.fieldDrop hx1)
                  · split
                    · exact .next (.fromChild hx1)
                    · exact .next (.fromJoiner hx1)

theorem Keeps.pollMiss {o x0 : State} {x1 : Nat} (hx0 : Keeps o x0) : Keeps o (State.pollMiss x0 x1) := by
  unfold State.pollMiss
  extract_lets -merge +onlyGivenNames t0 t1 t3 t5
  have h2 : Keeps o (t1) := .setFe hx0
  have h4 : Keeps o (t3) := .ite (.setRec h2) h2
  have h6 : Keeps o (t5) := .raise (.bump h4)
  clear_value t0 t1 t3 t5
  exact .ite (.childAbsent h6) (.ite h6 (.fieldRecState h6))

theorem Keeps.execPollWindowEnd {o : State} {x0 : Fin 1024} {x1 : State} (hx1 : Keeps o x1) : KeepsOut o (execPollWindowEnd x0 x1) := by
  unfold Sys2Proof.Machine.execPollWindowEnd
  extract_lets -merge +onlyGivenNames t0
  clear_value t0
  refine .ite ?_ ?_
  · exact .next hx1
  · extract_lets -merge +onlyGivenNames t1 t3
    have h2 : Keeps o (t1) := .setFld hx1
    clear_value t1 t3
    refine .ite ?_ ?_
    · exact .next (.fieldNext h2)
    · refine .ite ?_ ?_
      · exact .next (.fieldNext (.radioRejected h2))
      · exact .next (.fieldNext (.pollMiss h2))

end Sys2Proof.Machine
end

