-- ==== Sys2Proof/Laws/Keeps6.lean ====
section
/-! SUPPORT. What every operation keeps (`Keeps`), one lemma for each: FieldCmd, MacAir, Sys, Ppe. -/

set_option Elab.async false

namespace Sys2Proof.Machine

/-! FieldCmd -/

theorem Keeps.fmPush {o : State} {x0 : Word} {x1 : State} (hx1 : Keeps o x1) : Keeps o (State.fmPush x0 x1) := by
  unfold State.fmPush
  refine .ite ?_ ?_
  · exact hx1
  · extract_lets -merge +onlyGivenNames t0 t1
    clear_value t0 t1
    exact .ite (.setFld hx1) (.refuse hx1)

theorem Keeps.fmDone {o x0 : State} {x1 : List Word} {x2 : Nat} (hx0 : Keeps o x0) : Keeps o (State.fmDone x0 x1 x2) := by
  unfold State.fmDone
  extract_lets -merge +onlyGivenNames t0 t2
  have h1 : Keeps o (t0) := .fmPost (.setFld hx0)
  have h3 : Keeps o (t2) := .ite (.bump h1) h1
  clear_value t0 t2
  exact .ite h3 (.raise h3)

theorem Keeps.fmRun {o x0 : State} {x1 : Nat} {x2 : Nat} {x3 : Nat} {x4 : Nat} {x5 : State → List Word → State × Nat} (hx0 : Keeps o x0) (hx5 : ∀ {y0} {y1}, Keeps o y0 → Keeps o (x5 y0 y1).1) : Keeps o (State.fmRun x0 x1 x2 x3 x4 x5) := by
  unfold State.fmRun
  split
  · exact hx0
  · extract_lets -merge +onlyGivenNames t0 t1
    clear_value t0 t1
    refine .ite ?_ ?_
    · exact hx0
    · refine .ite ?_ ?_
      · exact .fmDone hx0
      · refine .ite ?_ ?_
        · exact .fmDone hx0
        · refine .ite ?_ ?_
          · exact .fmDone hx0
          · extract_lets -merge +onlyGivenNames t2
            have h3 : Keeps o (t2).1 := hx5 hx0
            clear_value t2
            exact .fmDone h3

theorem Keeps.feInstall {o x0 : State} {x1 : Nat} {x2 : Nat} (hx0 : Keeps o x0) : Keeps o (State.feInstall x0 x1 x2) := by
  unfold State.feInstall
  extract_lets -merge +onlyGivenNames t0 t1
  have h2 : Keeps o (t1) := .setWords hx0
  clear_value t0 t1
  exact .ite (.setRec (.setRec h2)) h2

theorem Keeps.execAssign {o x0 : State} (hx0 : Keeps o x0) : KeepsOut o (execAssign x0) := by
  unfold Sys2Proof.Machine.execAssign
  exact .next (.fmRun hx0 (fun h0 => by
    extract_lets -merge +onlyGivenNames t1 t2 t3 t4
    have h5 : Keeps o (t4) := .setFld h0
    clear_value t1 t2 t3 t4
    refine .iteP ?_ ?_
    · exact .feInstall h5
    · exact h5))

theorem Keeps.execRelease {o x0 : State} (hx0 : Keeps o x0) : KeepsOut o (execRelease x0) := by
  unfold Sys2Proof.Machine.execRelease
  exact .next (.fmRun hx0 (fun h0 => by
    extract_lets -merge +onlyGivenNames t1
    clear_value t1
    refine .iteP ?_ ?_
    · exact h0
    · extract_lets -merge +onlyGivenNames t2
      have h3 : Keeps o (t2) := .ite (.setFld h0) h0
      clear_value t2
      exact .feRelease h3))

theorem Keeps.fmEnter {o x0 : State} {x1 : Nat} (hx0 : Keeps o x0) : Keeps o (State.fmEnter x0 x1) :=
  .wf hx0

theorem Keeps.roleEnd {o x0 : State} (hx0 : Keeps o x0) : Keeps o (State.roleEnd x0) :=
  .ite hx0 (.fmEnter hx0)

theorem Keeps.execKeyset {o x0 : State} (hx0 : Keeps o x0) : KeepsOut o (execKeyset x0) := by
  unfold Sys2Proof.Machine.execKeyset
  exact .next (.fmRun hx0 (fun h0 => by
    extract_lets -merge +onlyGivenNames t1
    clear_value t1
    refine .iteP ?_ ?_
    · exact .setFe h0
    · exact h0))

theorem Keeps.execUpDetach {o x0 : State} (hx0 : Keeps o x0) : KeepsOut o (execUpDetach x0) := by
  unfold Sys2Proof.Machine.execUpDetach
  exact .next (.fmRun hx0 (fun h0 => .roleEnd (.ptabKeepAll (.upEnter (.wb (.wb h0))))))

theorem Keeps.execFieldDrainDone {o x0 : State} (hx0 : Keeps o x0) : KeepsOut o (execFieldDrainDone x0) := by
  unfold Sys2Proof.Machine.execFieldDrainDone
  refine .ite ?_ ?_
  · exact .next (.fmEnter hx0)
  · exact .next hx0

theorem Keeps.execSfStart {o x0 : State} (hx0 : Keeps o x0) : KeepsOut o (execSfStart x0) := by
  unfold Sys2Proof.Machine.execSfStart
  exact .next (.fmRun hx0 (fun h0 => by
    refine .iteP ?_ ?_
    · exact h0
    · refine .iteP ?_ ?_
      · exact h0
      · exact .fmEnter (.setFld h0)))

theorem Keeps.execFmacCmdPush {o : State} {x0 : Init} {x1 : Word} {x2 : State} (hx2 : Keeps o x2) : KeepsOut o (execFmacCmdPush x0 x1 x2) := by
  unfold Sys2Proof.Machine.execFmacCmdPush
  exact .next (.onWrite hx2 (fun h0 => .fmPush h0))

theorem Keeps.execSfStop {o x0 : State} (hx0 : Keeps o x0) : KeepsOut o (execSfStop x0) := by
  unfold Sys2Proof.Machine.execSfStop
  exact .next (.fmRun hx0 (fun h0 => .roleEnd (.setFld (.wb h0))))

theorem Keeps.execUpAttach {o x0 : State} (hx0 : Keeps o x0) : KeepsOut o (execUpAttach x0) := by
  unfold Sys2Proof.Machine.execUpAttach
  exact .next (.fmRun hx0 (fun h0 => by
    refine .iteP ?_ ?_
    · exact h0
    · extract_lets -merge +onlyGivenNames t1
      have h2 : Keeps o (t1) := .setFld h0
      clear_value t1
      exact .ptabKeepAll (.fmEnter (.upEnter (.wb h2)))))

theorem Keeps.dlSeal {o x0 : State} {x1 : Nat} {x2 : Nat} {x3 : Nat} {x4 : List Byte} (hx0 : Keeps o x0) : Keeps o (State.dlSeal x0 x1 x2 x3 x4) := by
  unfold State.dlSeal
  extract_lets -merge +onlyGivenNames t0 t1 t2 t3 t4 t5
  clear_value t0 t1 t2 t3 t4 t5
  exact .setFe (.setBytes hx0)

theorem Keeps.execDlStage {o x0 : State} (hx0 : Keeps o x0) : KeepsOut o (execDlStage x0) := by
  unfold Sys2Proof.Machine.execDlStage
  exact .next (.fmRun hx0 (fun h0 => by
    extract_lets -merge +onlyGivenNames t1 t2 t3
    clear_value t1 t2 t3
    refine .iteP ?_ ?_
    · exact h0
    · extract_lets -merge +onlyGivenNames t4
      have h5 : Keeps o (t4) := .dlRetry h0
      clear_value t4
      refine .iteP ?_ ?_
      · exact h5
      · split
        · exact h5
        · extract_lets -merge +onlyGivenNames t6 t8
          have h7 : Keeps o (t6) := .setFe (.dlSeal h5)
          have h9 : Keeps o (t8) := .write32 h7
          clear_value t6 t8
          exact .setFld h9))

theorem Keeps.execDlCancel {o x0 : State} (hx0 : Keeps o x0) : KeepsOut o (execDlCancel x0) := by
  unfold Sys2Proof.Machine.execDlCancel
  exact .next (.fmRun hx0 (fun h0 => by
    extract_lets -merge +onlyGivenNames t1
    clear_value t1
    refine .iteP ?_ ?_
    · exact .dlEnd h0
    · exact h0))

/-! MacAir -/

theorem Keeps.notchSync {o x0 : State} {x1 : WRadio} (hx0 : Keeps o x0) : Keeps o (State.notchSync x0 x1) := by
  unfold State.notchSync
  extract_lets -merge +onlyGivenNames t0 t1 t2
  have h3 : Keeps o (t2) := .wb (.wb hx0)
  clear_value t0 t1 t2
  exact .ite h3 (.raise h3)

theorem Keeps.execNotchArm {o : State} {x0 : Init} {x1 : WRadio} {x2 : Word} {x3 : State} (hx3 : Keeps o x3) : KeepsOut o (execNotchArm x0 x1 x2 x3) := by
  unfold Sys2Proof.Machine.execNotchArm
  exact .next (.onWrite hx3 (fun h0 => .wb (.setReg h0)))

theorem Keeps.opportunity {o x0 : State} {x1 : Nat} (hx0 : Keeps o x0) : Keeps o (State.opportunity x0 x1) := by
  unfold State.opportunity
  extract_lets -merge +onlyGivenNames t0 t1 t2
  have h3 : Keeps o (t2) := .setStp hx0
  clear_value t0 t1 t2
  refine .ite ?_ ?_
  · exact h3
  · extract_lets -merge +onlyGivenNames t4
    clear_value t4
    exact .setRegN h3

theorem Keeps.planDone {o x0 : State} {x1 : Nat} (hx0 : Keeps o x0) : Keeps o (State.planDone x0 x1) :=
  .setStp hx0

theorem Keeps.parentBeacon {o x0 : State} {x1 : WRadio} {x2 : WifiBeacon} (hx0 : Keeps o x0) : Keeps o (State.parentBeacon x0 x1 x2) := by
  unfold State.parentBeacon
  extract_lets -merge +onlyGivenNames t0
  have h1 : Keeps o (t0) := by
    unfold t0
    split
    · exact .setMac hx0
    · exact hx0
  clear_value t0
  refine .ite ?_ ?_
  · exact h1
  · split
    · exact .ite (.beaconSample h1) (.bump h1)
    · exact .bump h1

theorem Keeps.setReorder {o x0 : State} {x1 : Nat} {x2 : Nat} {x3 : Reorder → Reorder} (hx0 : Keeps o x0) : Keeps o (State.setReorder x0 x1 x2 x3) :=
  .setWlan hx0

theorem Keeps.releaseRun {o x0 : State} {x1 : Nat} {x2 : Nat} {x3 : Nat} {x4 : Nat} (hx0 : Keeps o x0) : Keeps o (State.releaseRun x0 x1 x2 x3 x4) := by
  induction x3 generalizing x0 x1 x2 x4 with
  | zero =>
    exact .setReorder hx0
  | succ n ih =>
    rw [State.releaseRun]
    split
    · exact ih (.rxRelease hx0)
    · exact .setReorder hx0

theorem Keeps.moveWindow {o x0 : State} {x1 : Reorder} {x2 : Nat} (hx0 : Keeps o x0) : Keeps o (State.moveWindow x0 x1 x2) := by
  unfold State.moveWindow
  extract_lets -merge +onlyGivenNames t0
  clear_value t0
  exact .releaseRun (.releaseBelow hx0)

theorem Keeps.moveMpdu {o x0 : State} {x1 : Mpdu} {x2 : Nat} (hx0 : Keeps o x0) : Keeps o (State.moveMpdu x0 x1 x2) :=
  .bump (.ite (.putMpdu (.in_mpdus hx0)) (.setRec (.setRec (.putMpdu (.in_mpdus hx0)))))

theorem Keeps.execMpduMove {o : State} {x0 : WRadio} {x1 : State} (hx1 : Keeps o x1) : KeepsOut o (execMpduMove x0 x1) := by
  unfold Sys2Proof.Machine.execMpduMove
  extract_lets -merge +onlyGivenNames t0
  clear_value t0
  split
  · exact .next hx1
  · extract_lets -merge +onlyGivenNames t1
    have h2 : Keeps o (t1) := .setWlan hx1
    clear_value t1
    split
    · exact .next h2
    · exact .next (.moveMpdu h2)

theorem Keeps.execBeaconTbtt {o : State} {x0 : WRadio} {x1 : State} (hx1 : Keeps o x1) : KeepsOut o (execBeaconTbtt x0 x1) := by
  unfold Sys2Proof.Machine.execBeaconTbtt
  refine .ite ?_ ?_
  · exact .next hx1
  · exact .next (.setMac hx1)

theorem Keeps.tblTrim {o x0 : State} {x1 : Nat} {x2 : Nat} {x3 : Nat} {x4 : Nat} {x5 : Nat} {x6 : Nat} (hx0 : Keeps o x0) : Keeps o (State.tblTrim x0 x1 x2 x3 x4 x5 x6) := by
  induction x6 generalizing x0 x1 x2 x3 x4 x5 with
  | zero =>
    exact .wmf hx0
  | succ n ih =>
    rw [State.tblTrim]
    exact .wmf (ih hx0)

theorem Keeps.intoReorder {o x0 : State} {x1 : RxMpdu} (hx0 : Keeps o x0) : Keeps o (State.intoReorder x0 x1) := by
  unfold State.intoReorder
  extract_lets -merge +onlyGivenNames t0
  have h2 : ∀ {y0}, Keeps o y0 → Keeps o (t0 y0) := fun h1 => .in_rxmpdus h1
  clear_value t0
  split
  · exact .rxRelease (h2 hx0)
  · extract_lets -merge +onlyGivenNames t3
    clear_value t3
    refine .ite ?_ ?_
    · exact .rxGive (.bump hx0)
    · refine .ite ?_ ?_
      · exact .releaseRun (h2 hx0)
      · extract_lets -merge +onlyGivenNames t4
        clear_value t4
        exact .moveWindow (h2 hx0)

theorem Keeps.markSent {o x0 : State} {x1 : List Nat} (hx0 : Keeps o x0) : Keeps o (State.markSent x0 x1) :=
  .in_mpdus hx0

theorem Keeps.transmit {o x0 : State} {x1 : WRadio} {x2 : ExchangeOut} {x3 : Bool} (hx0 : Keeps o x0) : Keeps o (State.transmit x0 x1 x2 x3) :=
  .transmitVector (.macPort hx0)

theorem Keeps.sendMpdus {o x0 : State} {x1 : WRadio} {x2 : ExchangeOut} {x3 : List Mpdu} (hx0 : Keeps o x0) : Keeps o (State.sendMpdus x0 x1 x2 x3) := by
  unfold State.sendMpdus
  extract_lets -merge +onlyGivenNames t0
  have h1 : Keeps o (t0) := .markSent hx0
  clear_value t0
  exact .opportunity (.transmit h1)

theorem Keeps.notchExchange {o x0 : State} {x1 : WRadio} {x2 : ExchangeOut} {x3 : List Mpdu} (hx0 : Keeps o x0) : KeepsOpt1 o (State.notchExchange x0 x1 x2 x3) := by
  unfold State.notchExchange
  split
  · exact .some hx0
  · exact .none
  · exact .some hx0
  · extract_lets -merge +onlyGivenNames t0
    clear_value t0
    refine .ite ?_ ?_
    · refine .ite ?_ ?_
      · exact .none
      · exact .some hx0
    · exact .some (.bump hx0)

theorem Keeps.execEdcaCommit {o : State} {x0 : WRadio} {x1 : ExchangeOut} {x2 : Bool} {x3 : List Nat} {x4 : State} (hx4 : Keeps o x4) : KeepsOut o (execEdcaCommit x0 x1 x2 x3 x4) := by
  unfold Sys2Proof.Machine.execEdcaCommit
  refine .ite ?_ ?_
  · exact .next hx4
  · extract_lets -merge +onlyGivenNames t0
    clear_value t0
    refine .ite ?_ ?_
    · exact .next (.sendMpdus hx4)
    · split
      · exact .next hx4
      · exact .next (.sendMpdus ((Keeps.notchExchange hx4) _ (by assumption)))

theorem Keeps.execNotchSuspendChange {o : State} {x0 : WRadio} {x1 : State} (hx1 : Keeps o x1) : KeepsOut o (execNotchSuspendChange x0 x1) := by
  unfold Sys2Proof.Machine.execNotchSuspendChange
  exact .next (.notchSync hx1)

theorem Keeps.execDlMuPpdu {o : State} {x0 : WRadio} {x1 : ExchangeOut} {x2 : State} (hx2 : Keeps o x2) : KeepsOut o (execDlMuPpdu x0 x1 x2) := by
  unfold Sys2Proof.Machine.execDlMuPpdu
  split
  · exact .next hx2
  · refine .ite ?_ ?_
    · exact .next hx2
    · extract_lets -merge +onlyGivenNames d0 t1 t2 t3
      have h5 : ∀ {y0} {y1}, Keeps o y0 → Keeps o (t3 y0 y1) := fun h4 => .planDone (.sendMpdus h4)
      clear_value t1 t2 t3
      split
      · exact .next (h5 hx2)
      · exact .next hx2
      · exact .next (h5 hx2)
      · extract_lets -merge +onlyGivenNames t6
        clear_value t6
        exact .next (h5 (.bump (.tblTrim hx2)))

theorem Keeps.execControlResponse {o : State} {x0 : WRadio} {x1 : Fin 4} {x2 : List (BitVec 12 × Fin 8)} {x3 : State} (hx3 : Keeps o x3) : KeepsOut o (execControlResponse x0 x1 x2 x3) := by
  unfold Sys2Proof.Machine.execControlResponse
  refine .ite ?_ ?_
  · exact .next hx3
  · extract_lets -merge +onlyGivenNames t0
    clear_value t0
    exact .next (.emit hx3)

theorem Keeps.storeSets {o x0 : State} {x1 : WRadio} {x2 : List (BitVec 12 × Nat)} (hx0 : Keeps o x0) : Keeps o (State.storeSets x0 x1 x2) := by
  induction x2 generalizing x0 x1 with
  | nil =>
    exact hx0
  | cons y l ih =>
    rw [State.storeSets]
    split
    · exact ih hx0
    · exact ih (.setWlan ((Keeps.takeRun hx0) _ (by assumption)))

theorem Keeps.execReorderTimeout {o : State} {x0 : WRadio} {x1 : BitVec 12} {x2 : Fin 8} {x3 : State} (hx3 : Keeps o x3) : KeepsOut o (execReorderTimeout x0 x1 x2 x3) := by
  unfold Sys2Proof.Machine.execReorderTimeout
  split
  · exact .next hx3
  · split
    · exact .next hx3
    · extract_lets -merge +onlyGivenNames t0 t1
      have h2 : Keeps o (t1) := .releaseRun hx3
      clear_value t0 t1
      exact .next (.raise (.bump h2))

theorem Keeps.noteRx {o x0 : State} {x1 : WRadio} {x2 : RxFrame} (hx0 : Keeps o x0) : Keeps o (State.noteRx x0 x1 x2) := by
  unfold State.noteRx
  extract_lets -merge +onlyGivenNames t0
  clear_value t0
  refine .ite ?_ ?_
  · exact hx0
  · extract_lets -merge +onlyGivenNames t1 t2
    have h3 : Keeps o (t2) := .setRec (.setRec hx0)
    clear_value t1 t2
    split
    · exact h3
    · extract_lets -merge +onlyGivenNames t4
      have h5 : Keeps o (t4) := .setRec (.setRec (.setRec h3))
      clear_value t4
      exact .setStp (.setRec h5)

theorem Keeps.execMpduReceive {o : State} {x0 : WRadio} {x1 : RxFrame} {x2 : State} (hx2 : Keeps o x2) : KeepsOut o (execMpduReceive x0 x1 x2) := by
  simp only [Sys2Proof.Machine.execMpduReceive]
  refine .ite ?_ ?_
  · exact .next hx2
  · refine .ite ?_ ?_
    · exact .next (.bump (.unreserve hx2))
    · refine .ite ?_ ?_
      · split
        · exact .next (.heardFrom (.noteRx hx2))
        · exact .next (.ite (.moveWindow (.heardFrom (.noteRx hx2))) (.heardFrom (.noteRx hx2)))
      · refine .ite ?_ ?_
        · exact .next (.bump (.heardFrom (.noteRx hx2)))
        · refine .ite ?_ ?_
          · exact .next (.bump (.unreserve (.setReorder (.heardFrom (.noteRx hx2)))))
          · refine .ite ?_ ?_
            · exact .next (.raise (.bump (.unreserve (.setReorder (.heardFrom (.noteRx hx2))))))
            · exact .next (.intoReorder (.setPkt (.in_mpduNum (.takeCells (.setReorder (.heardFrom (.noteRx hx2)))))))

theorem Keeps.endContend {o x0 : State} {x1 : WRadio} {x2 : Nat} (hx0 : Keeps o x0) : Keeps o (State.endContend x0 x1 x2) :=
  .setMac hx0

theorem Keeps.execBeaconDrop {o : State} {x0 : WRadio} {x1 : Fin 16} {x2 : State} (hx2 : Keeps o x2) : KeepsOut o (execBeaconDrop x0 x1 x2) := by
  unfold Sys2Proof.Machine.execBeaconDrop
  refine .ite ?_ ?_
  · exact .next (.raise (.bump (.endContend hx2)))
  · exact .next hx2

theorem Keeps.execBeaconCommit {o : State} {x0 : WRadio} {x1 : Fin 16} {x2 : ExchangeOut} {x3 : State} (hx3 : Keeps o x3) : KeepsOut o (execBeaconCommit x0 x1 x2 x3) := by
  unfold Sys2Proof.Machine.execBeaconCommit
  refine .ite ?_ ?_
  · extract_lets -merge +onlyGivenNames t0 t1 t2
    have h3 : Keeps o (t2) := .emit (.endContend hx3)
    clear_value t0 t1 t2
    exact .next (.transmit h3)
  · exact .next hx3

theorem Keeps.notchNeighbour {o x0 : State} {x1 : WRadio} {x2 : GteIn} (hx0 : Keeps o x0) : Keeps o (State.notchNeighbour x0 x1 x2) := by
  unfold State.notchNeighbour
  refine .ite ?_ ?_
  · refine .ite ?_ ?_
    · exact hx0
    · extract_lets -merge +onlyGivenNames t0
      have h1 : Keeps o (t0) := .setMac (.wb hx0)
      clear_value t0
      exact .raise (.bump h1)
  · extract_lets -merge +onlyGivenNames t2 t4
    have h3 : Keeps o (t2) := .setMac (.wb hx0)
    have h5 : Keeps o (t4) := .raise (.bump h3)
    clear_value t2 t4
    exact .ite (.notchSync h5) h5

theorem Keeps.execWifiBeaconReceive {o : State} {x0 : WRadio} {x1 : WifiBeacon} {x2 : State} (hx2 : Keeps o x2) : KeepsOut o (execWifiBeaconReceive x0 x1 x2) := by
  unfold Sys2Proof.Machine.execWifiBeaconReceive
  refine .ite ?_ ?_
  · exact .next hx2
  · refine .ite ?_ ?_
    · exact .next (.bump hx2)
    · extract_lets -merge +onlyGivenNames t0 t1
      have h2 : Keeps o (t1) := .ite (.parentBeacon hx2) hx2
      clear_value t0 t1
      split
      · exact .next h2
      · refine .ite ?_ ?_
        · exact .next h2
        · extract_lets -merge +onlyGivenNames t3
          have h4 : Keeps o (t3) := .ite (.notchNeighbour h2) h2
          clear_value t3
          exact .next (.nbrReport h4)

theorem Keeps.execNotchFlagExpire {o : State} {x0 : WRadio} {x1 : Bool} {x2 : State} (hx2 : Keeps o x2) : KeepsOut o (execNotchFlagExpire x0 x1 x2) := by
  unfold Sys2Proof.Machine.execNotchFlagExpire
  refine .ite ?_ ?_
  · extract_lets -merge +onlyGivenNames t0
    have h1 : Keeps o (t0) := .setMac (.wb hx2)
    clear_value t0
    exact .next (.ite (.notchSync h1) h1)
  · exact .next (.setMac (.wb hx2))

theorem Keeps.execMpduLifetimeDrop {o : State} {x0 : Nat} {x1 : State} (hx1 : Keeps o x1) : KeepsOut o (execMpduLifetimeDrop x0 x1) := by
  unfold Sys2Proof.Machine.execMpduLifetimeDrop
  split
  · exact .next hx1
  · refine .ite ?_ ?_
    · exact .next hx1
    · exact .next (.bump (.endMpdu hx1))

theorem Keeps.execTriggerSend {o : State} {x0 : WRadio} {x1 : ExchangeOut} {x2 : State} (hx2 : Keeps o x2) : KeepsOut o (execTriggerSend x0 x1 x2) := by
  unfold Sys2Proof.Machine.execTriggerSend
  split
  · exact .next hx2
  · refine .ite ?_ ?_
    · exact .next hx2
    · extract_lets -merge +onlyGivenNames t0 t1
      clear_value t0 t1
      split
      · exact .next hx2
      · extract_lets -merge +onlyGivenNames t2 t3
        have h4 : Keeps o (t3) := .opportunity (.transmit (.emit hx2))
        clear_value t2 t3
        exact .next (.planDone (.tbArm h4))

theorem Keeps.execSounding {o : State} {x0 : WRadio} {x1 : List (BitVec 12 × Nat)} {x2 : State} (hx2 : Keeps o x2) : KeepsOut o (execSounding x0 x1 x2) := by
  unfold Sys2Proof.Machine.execSounding
  refine .ite ?_ ?_
  · exact .next hx2
  · extract_lets -merge +onlyGivenNames t0 t1 t3
    have h2 : Keeps o (t1) := .foldl (fun h => .freeRun h) hx2
    have h4 : Keeps o (t3) := .setWlan h2
    clear_value t0 t1 t3
    exact .next (.storeSets h4)

theorem Keeps.execNotchPlanApply {o : State} {x0 : WRadio} {x1 : State} (hx1 : Keeps o x1) : KeepsOut o (execNotchPlanApply x0 x1) := by
  unfold Sys2Proof.Machine.execNotchPlanApply
  extract_lets -merge +onlyGivenNames t0 t1
  clear_value t0 t1
  refine .ite ?_ ?_
  · exact .next hx1
  · extract_lets -merge +onlyGivenNames t2 t4 t6 t8 t10
    have h3 : Keeps o (t2) := .setReg hx1
    have h5 : Keeps o (t4) := .setReg h3
    have h7 : Keeps o (t6) := .setReg h5
    have h9 : Keeps o (t8) := .setReg h7
    have h11 : Keeps o (t10) := .setReg h9
    clear_value t2 t4 t6 t8 t10
    exact .next (.notchSync (.raise (.wb h11)))

/-! Sys -/

theorem Keeps.radioLost {o x0 : State} {x1 : WRadio} (hx0 : Keeps o x0) : Keeps o (State.radioLost x0 x1) := by
  unfold State.radioLost
  extract_lets -merge +onlyGivenNames t0 t2
  have h1 : Keeps o (t0) := .setMac (.wf hx0)
  have h3 : Keeps o (t2) := .setWlan h1
  clear_value t0 t2
  exact .foldl (fun h => by
    extract_lets -merge +onlyGivenNames t4
    clear_value t4
    split
    · exact .setWlan h
    · exact .bump (.endMpdu h)) h3

theorem Keeps.fieldLost {o x0 : State} (hx0 : Keeps o x0) : Keeps o (State.fieldLost x0) := by
  unfold State.fieldLost
  extract_lets -merge +onlyGivenNames t0
  have h1 : Keeps o (t0) := .wb (.wb hx0)
  clear_value t0
  exact .setFld (.wf (.wb h1))

theorem Keeps.stepsTo {o x0 : State} {x1 : Nat} (hx0 : Keeps o x0) : Keeps o (State.stepsTo x0 x1) := by
  unfold State.stepsTo
  extract_lets -merge +onlyGivenNames t0 t1 t3 t5 t7 t9
  have h2 : Keeps o (t1) := .setSteps hx0
  have h4 : Keeps o (t3) := .ite (.radioLost h2) h2
  have h6 : Keeps o (t5) := .ite (.radioLost h4) h4
  have h8 : Keeps o (t7) := .ite (.radioLost h6) h6
  have h10 : Keeps o (t9) := .ite (.fieldLost h8) h8
  clear_value t0 t1 t3 t5 t7 t9
  exact .ite (.keepAllLim h10) h10

theorem Keeps.clearSram {o x0 : State} (hx0 : Keeps o x0) : Keeps o x0.clearSram :=
  hx0.trans ⟨fun i => ⟨⟨i.1.1, Sparse.wf_filter _ _ _ i.1.2.1, i.1.2.2.1, Sparse.wf_drop _ (fun k => !isDram (8 * k)) _ i.1.2.2.2⟩,
    i.2⟩, rfl, Nat.le_refl _⟩

theorem Keeps.recover {o x0 : State} (hx0 : Keeps o x0) : Keeps o (State.recover x0) :=
  .setSys hx0

theorem Keeps.bootTry {o x0 : State} {x1 : Nat} (hx0 : Keeps o x0) : Keeps o (State.bootTry x0 x1).1 := by
  unfold State.bootTry
  split
  · exact hx0
  · exact .verifyImage hx0

theorem Keeps.bootNote {o x0 : State} {x1 : Nat} {x2 : Nat} (hx0 : Keeps o x0) : Keeps o (State.bootNote x0 x1 x2) :=
  .ite (.wf hx0) (.wf hx0)

theorem Keeps.mc5Runs {o x0 : State} {x1 : Nat} (hx0 : Keeps o x0) : Keeps o (State.mc5Runs x0 x1) :=
  .setSys (.wf hx0)

theorem Keeps.bootRom {o x0 : State} {x1 : Nat} (hx0 : Keeps o x0) : Keeps o (State.bootRom x0 x1) := by
  unfold State.bootRom
  extract_lets -merge +onlyGivenNames t0
  have h1 : Keeps o (t0) := .setReg (.setXspi hx0)
  clear_value t0
  refine .ite ?_ ?_
  · exact .recover h1
  · extract_lets -merge +onlyGivenNames t2 t4 t5 t7
    have h3 : Keeps o (t2) := .wb h1
    have h6 : Keeps o (t5).1 := .bootTry h3
    have h8 : Keeps o (t7) := .bootNote h6
    clear_value t2 t4 t5 t7
    refine .ite ?_ ?_
    · exact .mc5Runs h8
    · extract_lets -merge +onlyGivenNames t9 t11
      have h10 : Keeps o (t9).1 := .bootTry h8
      have h12 : Keeps o (t11) := .bootNote h10
      clear_value t9 t11
      exact .ite (.mc5Runs h12) (.recover h12)

theorem Keeps.execSramClearDone {o : State} {x0 : BitVec 32} {x1 : State} (hx1 : Keeps o x1) : KeepsOut o (execSramClearDone x0 x1) := by
  unfold Sys2Proof.Machine.execSramClearDone
  refine .ite ?_ ?_
  · exact .next hx1
  · extract_lets -merge +onlyGivenNames t0
    have h1 : Keeps o (t0) := .stepsTo (.setSys (.clearSram hx1))
    clear_value t0
    exact .next (.bootRom (.wb h1))

theorem Keeps.accPop {o : State} {x0 : Init} {x1 : State} (hx1 : Keeps o x1) : Keeps o (State.accPop x0 x1) := by
  unfold State.accPop
  extract_lets t0
  split
  · exact .answer (.in_ovf hx1)
  · rename_i he
    refine .answer (.setReg64 (hx1.trans ⟨fun i => ⟨i.1, i.2.1, ?_⟩, rfl, Nat.le_refl _⟩))
    have h := i.2.2
    rw [he, List.length_cons] at h
    exact Nat.le_of_succ_le h

theorem Keeps.stepWrite {o : State} {x0 : Bool} {x1 : Nat} {x2 : Word} {x3 : State} (hx3 : Keeps o x3) : Keeps o (State.stepWrite x0 x1 x2 x3) := by
  unfold State.stepWrite
  refine .ite ?_ ?_
  · exact .refuse hx3
  · extract_lets -merge +onlyGivenNames t0
    clear_value t0
    exact .stepsTo hx3

theorem Keeps.rstCause {o x0 : State} {x1 : Nat} {x2 : Nat} (hx0 : Keeps o x0) : Keeps o (State.rstCause x0 x1 x2) :=
  .setRegN hx0

theorem Keeps.resetKeep {o x0 : State} {x1 : Nat → Bool} {x2 x3 : Bool} (hx0 : Keeps o x0) :
    Keeps o (State.resetKeep x0 x1 x2 x3) := by
  refine hx0.trans ⟨fun i => ⟨⟨Sparse.wf_drop _ (fun a => !x1 a) _ i.1.1, ?_, i.1.2.2.1, ?_⟩, Nat.zero_le _, Nat.zero_le _⟩,
    rfl, Nat.le_refl _⟩
  · show Memory.wf (if x2 then x0.mem else x0.mem.filter (fun c => !isDram c.1)) = true
    split
    · exact i.1.2.1
    · exact Sparse.wf_filter _ _ _ i.1.2.1
  · show Sparse.wf (fun _ => 0) (if x2 then x0.ecc else Sparse.drop (fun k => isDram (8 * k)) x0.ecc) = true
    split
    · exact i.1.2.2.2
    · exact Sparse.wf_drop _ _ _ i.1.2.2.2

theorem Keeps.coldReset {o x0 : State} {x1 : Nat} (hx0 : Keeps o x0) : Keeps o (State.coldReset x0 x1) := by
  unfold State.coldReset
  extract_lets -merge +onlyGivenNames t0
  clear_value t0
  exact .rstCause (.wf (.resetKeep hx0))

theorem Keeps.warmReset {o x0 : State} {x1 : Nat} (hx0 : Keeps o x0) : Keeps o (State.warmReset x0 x1) := by
  unfold State.warmReset
  extract_lets -merge +onlyGivenNames t0 t1 t2
  have h3 : Keeps o (t2) := .rstCause (.wf (.resetKeep hx0))
  clear_value t0 t1 t2
  exact .ite (.wb (.wb (.wf (.setRegN h3)))) h3

theorem Keeps.rstCmd {o : State} {x0 : Nat} {x1 : Nat} {x2 : State} (hx2 : Keeps o x2) : Keeps o (State.rstCmd x0 x1 x2) :=
  .ite (.refuse hx2) (.ite (.coldReset hx2) (.warmReset hx2))

theorem Keeps.wdtWrite {o : State} {x0 : Nat} {x1 : Word} {x2 : State} (hx2 : Keeps o x2) : Keeps o (State.wdtWrite x0 x1 x2) := by
  unfold State.wdtWrite
  extract_lets -merge +onlyGivenNames t0 t1
  have h2 : Keeps o (t1) := .writeReg hx2
  clear_value t0 t1
  exact .ite h2 (.setSys h2)

theorem Keeps.wdtKick {o : State} {x0 : Word} {x1 : State} (hx1 : Keeps o x1) : Keeps o (State.wdtKick x0 x1) :=
  .ite (.setSys hx1) (.refuse hx1)

theorem Keeps.otpStart {o x0 : State} (hx0 : Keeps o x0) : Keeps o (State.otpStart x0) :=
  .wb hx0

theorem Keeps.otpInc {o : State} {x0 : Word} {x1 : State} (hx1 : Keeps o x1) : Keeps o (State.otpInc x0 x1) :=
  .ite hx1 (.ite (.refuse hx1) (.ite (.refuse hx1) (.otpStart hx1)))

theorem Keeps.clkWrite {o : State} {x0 : Nat} {x1 : Word} {x2 : State} (hx2 : Keeps o x2) : Keeps o (State.clkWrite x0 x1 x2) := by
  unfold State.clkWrite
  extract_lets -merge +onlyGivenNames t0 t1 t3
  have h2 : Keeps o (t1) := .writeReg hx2
  clear_value t0 t1 t3
  refine .ite ?_ ?_
  · exact h2
  · extract_lets -merge +onlyGivenNames t4
    clear_value t4
    exact .stepsTo h2

theorem Keeps.execWdtEnable {o : State} {x0 : Init} {x1 : Word} {x2 : State} (hx2 : Keeps o x2) : KeepsOut o (execWdtEnable x0 x1 x2) := by
  unfold Sys2Proof.Machine.execWdtEnable
  exact .next (.onWrite hx2 (fun h0 => .wdtWrite h0))

theorem Keeps.ledgerPut {o x0 : State} {x1 : List Nat} (hx0 : Keeps o x0) : Keeps o (State.ledgerPut x0 x1) := by
  unfold State.ledgerPut
  extract_lets -merge +onlyGivenNames t0
  clear_value t0
  split
  · extract_lets -merge +onlyGivenNames t1
    have h2 : Keeps o (t1) := .flashOps (.flashErase hx0)
    clear_value t1
    exact .pairWrite h2
  · extract_lets -merge +onlyGivenNames t3
    clear_value t3
    refine .ite ?_ ?_
    · exact .pairWrite (.flashOps hx0)
    · extract_lets -merge +onlyGivenNames t4 t5
      have h6 : Keeps o (t5) := .flashOps (.flashErase hx0)
      clear_value t4 t5
      exact .pairWrite h6

theorem Keeps.execNetPllRetry {o : State} {x0 : Bool} {x1 : State} (hx1 : Keeps o x1) : KeepsOut o (execNetPllRetry x0 x1) := by
  unfold Sys2Proof.Machine.execNetPllRetry
  refine .ite ?_ ?_
  · exact .next hx1
  · extract_lets -merge +onlyGivenNames t0
    have h1 : Keeps o (t0) := .foldl (fun h => .limit h) hx1
    clear_value t0
    refine .ite ?_ ?_
    · exact .next (.stepsTo h1)
    · exact .next h1

theorem Keeps.execStepset {o : State} {x0 : Init} {x1 : Word} {x2 : State} (hx2 : Keeps o x2) : KeepsOut o (execStepset x0 x1 x2) := by
  unfold Sys2Proof.Machine.execStepset
  exact .next (.onWrite hx2 (fun h0 => .stepWrite h0))

theorem Keeps.execClkenWrite {o : State} {x0 : Init} {x1 : Word} {x2 : State} (hx2 : Keeps o x2) : KeepsOut o (execClkenWrite x0 x1 x2) := by
  unfold Sys2Proof.Machine.execClkenWrite
  exact .next (.onWrite hx2 (fun h0 => .clkWrite h0))

theorem Keeps.execStepclr {o : State} {x0 : Init} {x1 : Word} {x2 : State} (hx2 : Keeps o x2) : KeepsOut o (execStepclr x0 x1 x2) := by
  unfold Sys2Proof.Machine.execStepclr
  exact .next (.onWrite hx2 (fun h0 => .stepWrite h0))

theorem Keeps.execRdyenSet {o : State} {x0 : Init} {x1 : Word} {x2 : State} (hx2 : Keeps o x2) : KeepsOut o (execRdyenSet x0 x1 x2) := by
  unfold Sys2Proof.Machine.execRdyenSet
  exact .next (.onWrite hx2 (fun h0 => .writeReg h0))

theorem Keeps.execImageVerify {o : State} {x0 : Bool} {x1 : Fin 8} {x2 : Nat} {x3 : State} (hx3 : Keeps o x3) : KeepsOut o (execImageVerify x0 x1 x2 x3) := by
  unfold Sys2Proof.Machine.execImageVerify
  refine .ite ?_ ?_
  · exact .next hx3
  · extract_lets -merge +onlyGivenNames t0
    have h1 : Keeps o (t0).1 := .verifyImage hx3
    clear_value t0
    exact .next (.emit h1)

theorem Keeps.dumpWrite {o x0 : State} {x1 : Nat} {x2 : Nat} (hx0 : Keeps o x0) : Keeps o (State.dumpWrite x0 x1 x2) := by
  unfold State.dumpWrite
  extract_lets -merge +onlyGivenNames t0 t1 t2 t3 t4
  have h5 : Keeps o (t4) := .flashProgram (.flashErase hx0)
  clear_value t0 t1 t2 t3 t4
  exact .flashOps (.flashProgram h5)

theorem Keeps.ledgerWrite {o x0 : State} {x1 : List Nat} (hx0 : Keeps o x0) : Keeps o (State.ledgerWrite x0 x1) := by
  unfold State.ledgerWrite
  extract_lets -merge +onlyGivenNames t0
  clear_value t0
  exact .ite (.otpStart hx0) (.ledgerPut hx0)

theorem Keeps.execColdResetCmd {o : State} {x0 : Init} {x1 : BitVec 16} {x2 : State} (hx2 : Keeps o x2) : KeepsOut o (execColdResetCmd x0 x1 x2) := by
  unfold Sys2Proof.Machine.execColdResetCmd
  exact .next (.onWrite hx2 (fun h0 => .rstCmd h0))

theorem Keeps.execResetPin {o x0 : State} (hx0 : Keeps o x0) : KeepsOut o (execResetPin x0) := by
  unfold Sys2Proof.Machine.execResetPin
  exact .next (.coldReset hx0)

theorem Keeps.execResetRelease {o : State} {x0 : Bool} {x1 : State} (hx1 : Keeps o x1) : KeepsOut o (execResetRelease x0 x1) := by
  unfold Sys2Proof.Machine.execResetRelease
  refine .ite ?_ ?_
  · exact .next hx1
  · exact .next (.setSys hx1)

theorem Keeps.execReadinessClear {o : State} {x0 : Fin 26} {x1 : State} (hx1 : Keeps o x1) : KeepsOut o (execReadinessClear x0 x1) := by
  unfold Sys2Proof.Machine.execReadinessClear
  exact .next (.stepsTo hx1)

theorem Keeps.execDumpCopy {o x0 : State} (hx0 : Keeps o x0) : KeepsOut o (execDumpCopy x0) := by
  simp only [Sys2Proof.Machine.execDumpCopy]
  refine .ite ?_ ?_
  · exact .next hx0
  · exact .next (.wb (.ite (.ite (.drcAccept (.setSys hx0)) (.setSys hx0)) (.ite (.ledgerWrite (.ite (.drcAccept (.setSys hx0)) (.setSys hx0))) (.dumpWrite (.ite (.drcAccept (.setSys hx0)) (.setSys hx0))))))

theorem Keeps.execReadinessSet {o : State} {x0 : Fin 26} {x1 : State} (hx1 : Keeps o x1) : KeepsOut o (execReadinessSet x0 x1) := by
  unfold Sys2Proof.Machine.execReadinessSet
  exact .next (.stepsTo hx1)

theorem Keeps.execPowerOnReset {o x0 : State} (hx0 : Keeps o x0) : KeepsOut o (execPowerOnReset x0) := by
  unfold Sys2Proof.Machine.execPowerOnReset
  exact .next (.coldReset hx0)

theorem Keeps.execWarmResetCmd {o : State} {x0 : Init} {x1 : BitVec 16} {x2 : State} (hx2 : Keeps o x2) : KeepsOut o (execWarmResetCmd x0 x1 x2) := by
  unfold Sys2Proof.Machine.execWarmResetCmd
  exact .next (.onWrite hx2 (fun h0 => .rstCmd h0))

theorem Keeps.execWatchdogExpiry {o x0 : State} (hx0 : Keeps o x0) : KeepsOut o (execWatchdogExpiry x0) := by
  unfold Sys2Proof.Machine.execWatchdogExpiry
  refine .ite ?_ ?_
  · exact .next (.warmReset hx0)
  · exact .next hx0

theorem Keeps.execWdtKick {o : State} {x0 : Init} {x1 : Word} {x2 : State} (hx2 : Keeps o x2) : KeepsOut o (execWdtKick x0 x1 x2) := by
  unfold Sys2Proof.Machine.execWdtKick
  exact .next (.onWrite hx2 (fun h0 => .wdtKick h0))

theorem Keeps.execRefValid {o x0 : State} (hx0 : Keeps o x0) : KeepsOut o (execRefValid x0) := by
  unfold Sys2Proof.Machine.execRefValid
  refine .ite ?_ ?_
  · exact .next hx0
  · exact .next (.stepsTo (.setSys hx0))

theorem Keeps.execRecoveryImage {o : State} {x0 : List (BitVec 8)} {x1 : State} (hx1 : Keeps o x1) : KeepsOut o (execRecoveryImage x0 x1) := by
  unfold Sys2Proof.Machine.execRecoveryImage
  extract_lets -merge +onlyGivenNames t0 t1
  clear_value t0 t1
  refine .ite ?_ ?_
  · exact .next hx1
  · refine .ite ?_ ?_
    · exact .next (.setSys hx1)
    · extract_lets -merge +onlyGivenNames t2
      have h3 : Keeps o (t2).1 := .verifyImage hx1
      clear_value t2
      refine .ite ?_ ?_
      · exact .next (.mc5Runs (.setSys h3))
      · exact .next (.setSys h3)

theorem Keeps.execLedgerWrite {o : State} {x0 : List (BitVec 32)} {x1 : State} (hx1 : Keeps o x1) : KeepsOut o (execLedgerWrite x0 x1) := by
  unfold Sys2Proof.Machine.execLedgerWrite
  refine .ite ?_ ?_
  · exact .next (.ledgerWrite hx1)
  · exact .next hx1

theorem Keeps.execOtpcntInc {o : State} {x0 : Init} {x1 : Word} {x2 : State} (hx2 : Keeps o x2) : KeepsOut o (execOtpcntInc x0 x1 x2) := by
  unfold Sys2Proof.Machine.execOtpcntInc
  exact .next (.onWrite hx2 (fun h0 => .otpInc h0))

theorem Keeps.execOtpFuseDone {o x0 : State} (hx0 : Keeps o x0) : KeepsOut o (execOtpFuseDone x0) := by
  unfold Sys2Proof.Machine.execOtpFuseDone
  refine .ite ?_ ?_
  · exact .next (.wb (.wf hx0))
  · exact .next hx0

theorem Keeps.execSysAccerrPop {o : State} {x0 : Init} {x1 : State} (hx1 : Keeps o x1) : KeepsOut o (execSysAccerrPop x0 x1) := by
  unfold Sys2Proof.Machine.execSysAccerrPop
  exact .next (.onRead hx1 (fun h0 => .accPop h0))

theorem Keeps.execSupplyOutOfRange {o : State} {x0 : Fin 4} {x1 : State} (hx1 : Keeps o x1) : KeepsOut o (execSupplyOutOfRange x0 x1) := by
  unfold Sys2Proof.Machine.execSupplyOutOfRange
  refine .ite ?_ ?_
  · exact .next hx1
  · exact .next (.raise (.setSys hx1))

theorem Keeps.execSupplyBackInRange {o x0 : State} (hx0 : Keeps o x0) : KeepsOut o (execSupplyBackInRange x0) := by
  unfold Sys2Proof.Machine.execSupplyBackInRange
  exact .next (.setSys hx0)

/-! Ppe -/

theorem Keeps.execPpeCounterRead {o : State} {x0 : Init} {x1 : Fin 2048} {x2 : Bool} {x3 : State} (hx3 : Keeps o x3) : KeepsOut o (execPpeCounterRead x0 x1 x2 x3) := by
  unfold Sys2Proof.Machine.execPpeCounterRead
  extract_lets -merge +onlyGivenNames t0
  clear_value t0
  exact .next (.onRead hx3 (fun h1 => by
    extract_lets -merge +onlyGivenNames t2
    clear_value t2
    exact .answer (.setRegN h1)))

theorem Keeps.setPpe {o x0 : State} {x1 : PpeSt → PpeSt} (hx0 : Keeps o x0) : Keeps o (State.setPpe x0 x1) :=
  .in_ppe hx0

theorem Keeps.execFenceStart {o : State} {x0 : Init} {x1 : Word} {x2 : State} (hx2 : Keeps o x2) : KeepsOut o (execFenceStart x0 x1 x2) := by
  unfold Sys2Proof.Machine.execFenceStart
  exact .next (.onWrite hx2 (fun h0 => .ite h0 (.wb (.wb (.setPpe h0)))))

theorem Keeps.updStart {o x0 : State} {x1 : Init} {x2 : Nat} {x3 : Bool} {x4 : Nat} (hx0 : Keeps o x0) : Keeps o (State.updStart x0 x1 x2 x3 x4) :=
  .onWrite hx0 (fun h0 => .ite (.refuse h0) (.wb (.wb (.setPpe h0))))

theorem Keeps.execPipeTabWrite {o : State} {x0 : Init} {x1 : Fin 32} {x2 : Word} {x3 : State} (hx3 : Keeps o x3) : KeepsOut o (execPipeTabWrite x0 x1 x2 x3) := by
  unfold Sys2Proof.Machine.execPipeTabWrite
  exact .next (.onWrite hx3 (fun h0 => .setPpe h0))

theorem Keeps.ppeSync {o x0 : State} (hx0 : Keeps o x0) : Keeps o (State.ppeSync x0) :=
  .wb hx0

theorem Keeps.ppeResult {o x0 : State} {x1 : Nat} {x2 : Option Nat} (hx0 : Keeps o x0) : Keeps o (State.ppeResult x0 x1 x2) := by
  unfold State.ppeResult
  refine .ite ?_ ?_
  · exact .setPpe hx0
  · split
    · exact .setPkt hx0
    · exact hx0

theorem Keeps.ppeDrop {o x0 : State} {x1 : Nat} (hx0 : Keeps o x0) : Keeps o (State.ppeDrop x0 x1) :=
  .dropFrame (.ppeResult hx0)

theorem Keeps.ppePunt {o x0 : State} {x1 : PpeRun} {x2 : Nat} {x3 : Nat} (hx0 : Keeps o x0) : Keeps o (State.ppePunt x0 x1 x2 x3) :=
  .ppeResult (.setWords hx0)

theorem Keeps.ppeCrypt {o x0 : State} {x1 : PpeRun} {x2 : Nat} (hx0 : Keeps o x0) : Keeps o (State.ppeCrypt x0 x1 x2) :=
  .espStart (.setPpe hx0)

theorem Keeps.flowCount {o x0 : State} {x1 : PpeRun} (hx0 : Keeps o x0) : Keeps o (State.flowCount x0 x1) := by
  unfold State.flowCount
  extract_lets -merge +onlyGivenNames t0 t1 t2
  clear_value t0 t1 t2
  exact .setPpe hx0

theorem Keeps.ppeStore {o x0 : State} {x1 : PpeRun} (hx0 : Keeps o x0) : Keeps o (State.ppeStore x0 x1) := by
  unfold State.ppeStore
  split
  · exact hx0
  · extract_lets -merge +onlyGivenNames t0 t1 t2 t4 t5 t7
    have h3 : Keeps o (t2).1 := .takeCells hx0
    have h6 : Keeps o (t5) := .setFrame h3
    have h8 : Keeps o (t7) := .ite (.setFrameBytes h6) h6
    clear_value t0 t1 t2 t4 t5 t7
    exact .ppeResult (.setWords h8)

theorem Keeps.ppeFinish {o x0 : State} {x1 : PpeRun} (hx0 : Keeps o x0) : Keeps o (State.ppeFinish x0 x1) := by
  unfold State.ppeFinish
  split
  · exact hx0
  · extract_lets -merge +onlyGivenNames t0
    clear_value t0
    refine .ite ?_ ?_
    · exact .ppeDrop (.bump hx0)
    · refine .ite ?_ ?_
      · exact .ppeStore hx0
      · split
        · exact .ppeStore ((Keeps.charge hx0) _ (by assumption))
        · exact .setPpe (.countRefused hx0)

theorem Keeps.dispose {o : State} {x0 : State → PpeRun → State} {x1 : State} {x2 : PpeRun} (hx0 : ∀ {y0} {y1}, Keeps o y0 → Keeps o (x0 y0 y1)) (hx1 : Keeps o x1) : Keeps o (State.dispose x0 x1 x2) := by
  unfold State.dispose
  extract_lets -merge +onlyGivenNames t0 t1
  clear_value t0
  exact .ite (hx0 hx1) (.ite (.ppeDrop (.bump hx1)) (.ite (.ppeFinish hx1) (.ite (.ppeFinish hx1) (.ppeFinish hx1))))

theorem Keeps.ppeTail {o : State} {x0 : State → PpeRun → State} {x1 : State} {x2 : PpeRun} (hx0 : ∀ {y0} {y1}, Keeps o y0 → Keeps o (x0 y0 y1)) (hx1 : Keeps o x1) : Keeps o (State.ppeTail x0 x1 x2) := by
  unfold State.ppeTail
  extract_lets -merge +onlyGivenNames t0 t1 t2 t3 t5
  have h4 : Keeps o (t3).1 := by
    unfold t3
    clear_value t0 t1 t2
    refine .iteP ?_ ?_
    · exact hx1
    · split
      · exact hx1
      · exact .bump hx1
  have h6 : Keeps o (t5) := .ite (.flowCount h4) h4
  clear_value t0 t1 t2 t3 t5
  exact .dispose hx0 h6

theorem Keeps.ppeMiddle {o : State} {x0 : State → PpeRun → State} {x1 : State} {x2 : PpeRun} (hx0 : ∀ {y0} {y1}, Keeps o y0 → Keeps o (x0 y0 y1)) (hx1 : Keeps o x1) : Keeps o (State.ppeMiddle x0 x1 x2) := by
  simp only [State.ppeMiddle]
  split
  · exact .ite (.ite (.ppeCrypt hx1) (.ppeTail hx0 hx1)) (.ite (.ppePunt hx1) (.ite (.ppePunt hx1) (.ite (.ppeCrypt hx1) (.ppeTail hx0 hx1))))
  · exact .ite (.ppeCrypt hx1) (.ppeTail hx0 hx1)

theorem Keeps.puntAsIs {o x0 : State} {x1 : PpeRun} (hx0 : Keeps o x0) : Keeps o (State.puntAsIs x0 x1) :=
  .ppeFinish hx0

theorem Keeps.lookup {o x0 : State} {x1 : Nat} {x2 : List Byte} (hx0 : Keeps o x0) : Keeps o (State.lookup x0 x1 x2).1 := by
  unfold State.lookup
  extract_lets -merge +onlyGivenNames t0 t1 t2 t3 t4
  clear_value t0 t1 t2 t3 t4
  split
  · exact .ite hx0 (.raise (.bump hx0))
  · refine .iteP ?_ ?_
    · exact hx0
    · extract_lets -merge +onlyGivenNames t5
      clear_value t5
      refine .iteP ?_ ?_
      · exact .raise (.bump (.eccRead hx0))
      · exact hx0

theorem Keeps.hitStamp {o x0 : State} {x1 : Nat} {x2 : Bool} (hx0 : Keeps o x0) : Keeps o (State.hitStamp x0 x1 x2) := by
  unfold State.hitStamp
  extract_lets -merge +onlyGivenNames t0 t1 t2
  clear_value t0 t1 t2
  exact .ite (.ite (.write32 hx0) hx0) (.ite hx0 (.write32 hx0))

theorem Keeps.mirror {o x0 : State} {x1 : PpeRun} (hx0 : Keeps o x0) : Keeps o (State.mirror x0 x1) := by
  unfold State.mirror
  split
  · exact hx0
  · extract_lets -merge +onlyGivenNames t0 t1
    clear_value t0 t1
    split
    · exact .bump (.countRefused hx0)
    · extract_lets -merge +onlyGivenNames t2 t4
      have h3 : Keeps o (t2).1 := .putFrame ((Keeps.charge hx0) _ (by assumption))
      have h5 : Keeps o (t4) := .setWords h3
      clear_value t2 t4
      exact .setPkt h5

theorem Keeps.ppeAction {o : State} {x0 : State → PpeRun → State} {x1 : State} {x2 : PpeRun} (hx0 : ∀ {y0} {y1}, Keeps o y0 → Keeps o (x0 y0 y1)) (hx1 : Keeps o x1) : Keeps o (State.ppeAction x0 x1 x2) := by
  unfold State.ppeAction
  extract_lets -merge +onlyGivenNames t0 t1 t2
  clear_value t0 t1 t2
  refine .ite ?_ ?_
  · exact .ppePunt (.bump hx1)
  · extract_lets -merge +onlyGivenNames t3 t5 t6
    have h4 : Keeps o (t3) := .ite (.mirror hx1) hx1
    clear_value t3 t5 t6
    exact .ite (.ppeCrypt h4) (.ppeMiddle hx0 h4)

theorem Keeps.classify {o : State} {x0 : State → PpeRun → State} {x1 : State} {x2 : Nat} {x3 : Nat} {x4 : Bool} {x5 : List Byte} (hx0 : ∀ {y0} {y1}, Keeps o y0 → Keeps o (x0 y0 y1)) (hx1 : Keeps o x1) : Keeps o (State.classify x0 x1 x2 x3 x4 x5) := by
  unfold State.classify
  extract_lets -merge +onlyGivenNames t0 t1 t2 t3
  have h4 : Keeps o (t3) := .ite (.bump hx1) hx1
  clear_value t0 t1 t2 t3
  refine .ite ?_ ?_
  · extract_lets -merge +onlyGivenNames t5
    have h6 : Keeps o (t5) := .bump h4
    clear_value t5
    exact .ite (.ppePunt h6) (.ppeDrop h6)
  · refine .ite ?_ ?_
    · extract_lets -merge +onlyGivenNames t7
      have h8 : Keeps o (t7) := .bump h4
      clear_value t7
      exact .ite (.ppePunt h8) (.ppeDrop h8)
    · split
      · exact .ppePunt (.bump h4)
      · split
        · exact .ppePunt (.bump h4)
        · extract_lets -merge +onlyGivenNames t9 t10 t11
          have h12 : Keeps o (t11).1 := .lookup h4
          clear_value t9 t10 t11
          split
          · exact .ppePunt (.bump h12)
          · extract_lets -merge +onlyGivenNames t13 t14 t16
            have h15 : Keeps o (t14) := .hitStamp (.bump h12)
            clear_value t13 t14 t16
            exact .ppeAction hx0 h15

theorem Keeps.recirculate {o x0 : State} {x1 : PpeRun} (hx0 : Keeps o x0) : Keeps o (State.recirculate x0 x1) :=
  .classify (fun h0 => .puntAsIs h0) (.bump hx0)

theorem Keeps.againOf {o x1 : State} {x0 x2 : PpeRun} (hx1 : Keeps o x1) : Keeps o (State.againOf x0 x1 x2) := by
  unfold State.againOf
  split
  · exact .puntAsIs hx1
  · exact .recirculate hx1

theorem Keeps.execEspResult {o x0 : State} (hx0 : Keeps o x0) : KeepsOut o (execEspResult x0) := by
  unfold Sys2Proof.Machine.execEspResult
  split
  · exact .next hx0
  · extract_lets -merge +onlyGivenNames t0
    have h1 : Keeps o (t0) := .setCry hx0
    clear_value t0
    split
    · exact .next h1
    · extract_lets -merge +onlyGivenNames t2
      have h3 : Keeps o (t2) := .setPpe h1
      clear_value t2
      refine .ite ?_ ?_
      · exact .next (.ppeSync (.ppeDrop (.raise (.bump h3))))
      · extract_lets -merge +onlyGivenNames t4
        clear_value t4
        exact .next (.ppeSync (.ite (.ppeMiddle (fun h5 => .againOf h5) h3) (.ppeTail (fun h6 => .againOf h6) h3)))

theorem Keeps.updRun {o x0 : State} {x1 : Nat} {x2 : Bool} {x3 : Nat} (hx0 : Keeps o x0) : Keeps o (State.updRun x0 x1 x2 x3).1 := by
  unfold State.updRun
  extract_lets -merge +onlyGivenNames t0 t1 t2
  clear_value t0 t1 t2
  refine .iteP ?_ ?_
  · refine .iteP ?_ ?_
    · exact hx0
    · exact .setRegN (.setRegN hx0)
  · refine .iteP ?_ ?_
    · exact hx0
    · refine .iteP ?_ ?_
      · extract_lets -merge +onlyGivenNames t3
        clear_value t3
        refine .iteP ?_ ?_
        · exact hx0
        · exact .setWords hx0
      · refine .iteP ?_ ?_
        · exact hx0
        · exact .setWords hx0

theorem Keeps.execUpdComplete {o x0 : State} (hx0 : Keeps o x0) : KeepsOut o (execUpdComplete x0) := by
  unfold Sys2Proof.Machine.execUpdComplete
  split
  · exact .next hx0
  · extract_lets -merge +onlyGivenNames t0 t2 t4
    have h1 : Keeps o (t0).1 := .updRun hx0
    have h3 : Keeps o (t2) := .wb (.setPpe h1)
    have h5 : Keeps o (t4) := .wb (.wf h3)
    clear_value t0 t2 t4
    exact .next (.ite h5 (.raise h5))

theorem Keeps.execMissAlarm {o : State} {x0 : Nat} {x1 : State} (hx1 : Keeps o x1) : KeepsOut o (execMissAlarm x0 x1) := by
  unfold Sys2Proof.Machine.execMissAlarm
  refine .ite ?_ ?_
  · exact .next (.raise hx1)
  · exact .next hx1

theorem Keeps.execLegacyReorderRelease {o x0 : State} (hx0 : Keeps o x0) : KeepsOut o (execLegacyReorderRelease x0) := by
  unfold Sys2Proof.Machine.execLegacyReorderRelease
  split
  · exact .next hx0
  · extract_lets -merge +onlyGivenNames t0
    have h1 : Keeps o (t0) := .setPpe hx0
    clear_value t0
    split
    · exact .next (.ppeSync (.setPkt h1))
    · exact .next (.ppeSync h1)

theorem Keeps.execOddAlarm {o : State} {x0 : Nat} {x1 : State} (hx1 : Keeps o x1) : KeepsOut o (execOddAlarm x0 x1) := by
  unfold Sys2Proof.Machine.execOddAlarm
  refine .ite ?_ ?_
  · exact .next (.raise hx1)
  · exact .next hx1

theorem Keeps.execUpdClear {o : State} {x0 : Init} {x1 : Bool} {x2 : BitVec 24} {x3 : State} (hx3 : Keeps o x3) : KeepsOut o (execUpdClear x0 x1 x2 x3) := by
  unfold Sys2Proof.Machine.execUpdClear
  exact .next (.updStart hx3)

theorem Keeps.execPacketClassify {o x0 : State} (hx0 : Keeps o x0) : KeepsOut o (execPacketClassify x0) := by
  unfold Sys2Proof.Machine.execPacketClassify
  split
  · exact .next hx0
  · refine .ite ?_ ?_
    · exact .next hx0
    · extract_lets -merge +onlyGivenNames t0 t2 t3
      have h1 : Keeps o (t0) := .bump (.setPkt hx0)
      have h4 : Keeps o (t3) := .ite (.setPpe h1) h1
      clear_value t0 t2 t3
      exact .next (.ppeSync (.classify (fun h5 => .recirculate h5) h4))

theorem Keeps.execFenceDone {o x0 : State} (hx0 : Keeps o x0) : KeepsOut o (execFenceDone x0) := by
  unfold Sys2Proof.Machine.execFenceDone
  split
  · exact .next hx0
  · refine .ite ?_ ?_
    · exact .next hx0
    · exact .next (.wb (.wb (.setPpe hx0)))

theorem Keeps.execRewriteUnitsGrant {o x0 : State} (hx0 : Keeps o x0) : KeepsOut o (execRewriteUnitsGrant x0) := by
  unfold Sys2Proof.Machine.execRewriteUnitsGrant
  split
  · exact .next hx0
  · split
    · exact .next hx0
    · split
      · exact .next hx0
      · exact .next (.ppeSync (.ppeStore (.setPpe ((Keeps.charge hx0) _ (by assumption)))))

theorem Keeps.execPipeTabApply {o x0 : State} (hx0 : Keeps o x0) : KeepsOut o (execPipeTabApply x0) := by
  unfold Sys2Proof.Machine.execPipeTabApply
  split
  · exact .next hx0
  · exact .next (.setReg (.setPpe hx0))

theorem Keeps.execUpdWrite {o : State} {x0 : Init} {x1 : Bool} {x2 : BitVec 24} {x3 : State} (hx3 : Keeps o x3) : KeepsOut o (execUpdWrite x0 x1 x2 x3) := by
  unfold Sys2Proof.Machine.execUpdWrite
  exact .next (.updStart hx3)

theorem Keeps.execUpdHash {o : State} {x0 : Init} {x1 : Bool} {x2 : BitVec 24} {x3 : State} (hx3 : Keeps o x3) : KeepsOut o (execUpdHash x0 x1 x2 x3) := by
  unfold Sys2Proof.Machine.execUpdHash
  exact .next (.updStart hx3)

end Sys2Proof.Machine
end

