-- ==== Sys2Proof/Laws/Keeps7.lean ====
section
/-! SUPPORT. What every operation keeps (`Keeps`), one lemma for each: Tmg, Eth, BusWrite, BusRead, OdeImage, Lum, OdeFw, OdeAccess. -/

set_option Elab.async false

namespace Sys2Proof.Machine

/-! Tmg -/

theorem Keeps.shaperSync {o x0 : State} {x1 : Shaper} (hx0 : Keeps o x0) : Keeps o (State.shaperSync x0 x1) := by
  unfold State.shaperSync
  refine .ite ?_ ?_
  · extract_lets -merge +onlyGivenNames t0
    have h1 : Keeps o (t0).1 := .refill hx0
    clear_value t0
    exact .setRegI h1
  · exact .setPkt (.setRegN hx0)

theorem Keeps.portSync {o x0 : State} {x1 : Nat} (hx0 : Keeps o x0) : Keeps o (State.portSync x0 x1) := by
  unfold State.portSync
  extract_lets -merge +onlyGivenNames t0 t1 t2 t4
  have h3 : Keeps o (t2) := .foldl .shaperSync hx0
  have h5 : Keeps o (t4) := .foldl .shaperSync h3
  clear_value t0 t1 t2 t4
  exact .shaperSync h5

theorem Keeps.ringWrite {o x0 : State} {x1 : Nat} {x2 : Nat} {x3 : Nat} {x4 : Nat} {x5 : Word} (hx0 : Keeps o x0) : Keeps o (State.ringWrite x0 x1 x2 x3 x4 x5) := by
  unfold State.ringWrite
  extract_lets -merge +onlyGivenNames t0 t1
  clear_value t0 t1
  exact .ite (.refuse hx0) (.ite (.refuse hx0) (.ite (.refuse hx0) (.ite (.setReg hx0) (.ite (.setReg hx0) (.setReg hx0)))))

theorem Keeps.execRingConfigWrite {o : State} {x0 : Init} {x1 : Bool} {x2 : Fin 16} {x3 : Fin 3} {x4 : Word} {x5 : State} (hx5 : Keeps o x5) : KeepsOut o (execRingConfigWrite x0 x1 x2 x3 x4 x5) := by
  unfold Sys2Proof.Machine.execRingConfigWrite
  extract_lets -merge +onlyGivenNames t0
  clear_value t0
  refine .ite ?_ ?_
  · exact .next (.onWrite hx5 (fun h1 => h1))
  · exact .next (.onWrite hx5 (fun h2 => .ringWrite h2))

theorem Keeps.setQDeficit {o x0 : State} {x1 : Nat} {x2 : Int} (hx0 : Keeps o x0) : Keeps o (State.setQDeficit x0 x1 x2) :=
  .setQd hx0

theorem Keeps.setDrr {o x0 : State} {x1 : Nat} {x2 : List Nat} (hx0 : Keeps o x0) : Keeps o (State.setDrr x0 x1 x2) :=
  .setPkt hx0

theorem Keeps.pickQueue {o : State} {x0 : Nat} {x1 : Nat} {x2 : Nat} {x3 : State} (hx3 : Keeps o x3) : KeepsOpt1 o (State.pickQueue x0 x1 x2 x3) := by
  induction x2 generalizing x0 x1 x3 with
  | zero =>
    exact .none
  | succ n ih =>
    rw [State.pickQueue]
    split
    · exact .none
    · extract_lets -merge +onlyGivenNames t0 t1
      clear_value t0 t1
      refine .ite ?_ ?_
      · exact .some (.setQDeficit hx3)
      · extract_lets -merge +onlyGivenNames t2
        have h3 : Keeps o (t2) := .setQDeficit hx3
        clear_value t2
        exact ih (.setDrr h3)

theorem Keeps.setCDeficit {o x0 : State} {x1 : Nat} {x2 : Nat} {x3 : Int} (hx0 : Keeps o x0) : Keeps o (State.setCDeficit x0 x1 x2 x3) :=
  .setPkt hx0

theorem Keeps.pickClass {o : State} {x0 : Nat} {x1 : Nat} {x2 : State} (hx2 : Keeps o x2) : KeepsOpt1 o (State.pickClass x0 x1 x2) := by
  induction x1 generalizing x0 x2 with
  | zero =>
    exact .none
  | succ n ih =>
    rw [State.pickClass]
    split
    · exact .none
    · split
      · exact .none
      · extract_lets -merge +onlyGivenNames t0 t1
        clear_value t0 t1
        refine .ite ?_ ?_
        · exact .some (.setCDeficit ((Keeps.pickQueue hx2) _ (by assumption)))
        · extract_lets -merge +onlyGivenNames t2
          have h3 : Keeps o (t2) := .setCDeficit hx2
          clear_value t2
          exact ih (.setDrr h3)

theorem Keeps.drrPort {o x0 : State} {x1 : Nat} (hx0 : Keeps o x0) : Keeps o (State.drrPort x0 x1) := by
  unfold State.drrPort
  extract_lets -merge +onlyGivenNames t0 t1 t2 t3 t4 t5
  have h6 : Keeps o (t5) := .foldl (fun h => .setCDeficit h) hx0
  clear_value t0 t1 t2 t3 t4 t5
  exact .setDrr h6

theorem Keeps.shaperCharge {o x0 : State} {x1 : Shaper} {x2 : Int} (hx0 : Keeps o x0) : Keeps o (State.shaperCharge x0 x1 x2) :=
  .ite (.setRegI hx0) hx0

theorem Keeps.dequeue {o x0 : State} {x1 : Nat} {x2 : Frame} (hx0 : Keeps o x0) : Keeps o (State.dequeue x0 x1 x2) := by
  unfold State.dequeue
  extract_lets -merge +onlyGivenNames t0 t1 t2 t3 t5 t7 t9 t10 t12 t14
  have h4 : Keeps o (t3) := .setQueue hx0
  have h6 : Keeps o (t5) := .setQd h4
  have h8 : Keeps o (t7) := .ite (.drrLeave h6) h6
  have h11 : Keeps o (t10) := .setPkt h8
  have h13 : Keeps o (t12) := .ite h11 (.reportOut h11)
  clear_value t0 t1 t2 t3 t5 t7 t9 t10 t12 t14
  exact .bump (.foldl (fun h => .shaperCharge h) h13)

theorem Keeps.smpRecord {o x0 : State} {x1 : Nat} {x2 : List Word} (hx0 : Keeps o x0) : Keeps o (State.smpRecord x0 x1 x2).1 := by
  unfold State.smpRecord
  extract_lets -merge +onlyGivenNames t0
  clear_value t0
  refine .iteP ?_ ?_
  · extract_lets -merge +onlyGivenNames t1
    clear_value t1
    exact .setRegN (.setWords hx0)
  · exact .bump hx0

theorem Keeps.smpRing {o x0 : State} {x1 : Nat} (hx0 : Keeps o x0) : Keeps o (State.smpRing x0 x1).1 := by
  simp only [State.smpRing]
  refine .iteP ?_ ?_
  · exact hx0
  · exact .foldlP (fun h => by
      exact .setPkt (.smpRecord h)) (.smpRecord hx0)

theorem Keeps.execSampleRound {o x0 : State} (hx0 : Keeps o x0) : KeepsOut o (execSampleRound x0) := by
  unfold Sys2Proof.Machine.execSampleRound
  refine .ite ?_ ?_
  · exact .next hx0
  · extract_lets -merge +onlyGivenNames t0
    have h3 : Keeps o (t0).1 := by
      unfold t0
      exact .foldlP (fun h => by
        extract_lets -merge +onlyGivenNames t1
        have h2 : Keeps o (t1).1 := .smpRing h
        clear_value t1
        exact h2) hx0
    clear_value t0
    exact .next (.ite (.raise h3) h3)

theorem Keeps.stageDirect {o x0 : State} {x1 : Nat} {x2 : Frame} (hx0 : Keeps o x0) : Keeps o (State.stageDirect x0 x1 x2) := by
  unfold State.stageDirect
  extract_lets -merge +onlyGivenNames t0 t1
  clear_value t0 t1
  exact .putMpdu hx0

theorem Keeps.enterWindow {o x0 : State} {x1 : Nat} {x2 : Frame} (hx0 : Keeps o x0) : Keeps o (State.enterWindow x0 x1 x2) :=
  .wf (.setSel hx0)

theorem Keeps.drrClass {o x0 : State} {x1 : Nat} {x2 : Nat} (hx0 : Keeps o x0) : Keeps o (State.drrClass x0 x1 x2) := by
  unfold State.drrClass
  extract_lets -merge +onlyGivenNames t0 t1
  clear_value t0 t1
  exact .setDrr (.foldl (fun h => .setQDeficit h) hx0)

theorem Keeps.select {o x0 : State} {x1 : Nat} (hx0 : Keeps o x0) : KeepsOpt1 o (State.select x0 x1) := by
  unfold State.select
  extract_lets -merge +onlyGivenNames t0 t2
  have h1 : Keeps o (t0) := .portSync hx0
  have h3 : Keeps o (t2) := .foldl (fun h => .drrClass h) h1
  clear_value t0 t2
  split
  · exact Keeps.pickQueue h3
  · exact Keeps.pickClass (.drrPort h3)

theorem Keeps.deliver {o x0 : State} {x1 : Nat} {x2 : Nat} {x3 : Frame} (hx0 : Keeps o x0) : Keeps o (State.deliver x0 x1 x2 x3) := by
  unfold State.deliver
  extract_lets -merge +onlyGivenNames t0 t1 t2 t3
  have h4 : Keeps o (t3) := .setWords hx0
  clear_value t0 t1 t2 t3
  exact .enterWindow (.setRegN h4)

theorem Keeps.send {o x0 : State} {x1 : Nat} {x2 : Bool} (hx0 : Keeps o x0) : Keeps o (State.send x0 x1 x2) := by
  unfold State.send
  split
  · exact hx0
  · extract_lets -merge +onlyGivenNames t0 t1 t2 t3
    have h4 : Keeps o (t3) := .dequeue hx0
    clear_value t0 t1 t2 t3
    refine .ite ?_ ?_
    · exact .enterWindow h4
    · refine .ite ?_ ?_
      · split
        · exact .stageOn h4
        · exact h4
      · exact .ite (.stageDirect h4) (.deliver h4)

theorem Keeps.offer {o x0 : State} {x1 : Nat} {x2 : Bool} (hx0 : Keeps o x0) : Keeps o (State.offer x0 x1 x2) := by
  unfold State.offer
  split
  · exact .portSync hx0
  · exact .send ((Keeps.select hx0) _ (by assumption))

theorem Keeps.execStageMpdu {o : State} {x0 : Bool} {x1 : State} (hx1 : Keeps o x1) : KeepsOut o (execStageMpdu x0 x1) := by
  unfold Sys2Proof.Machine.execStageMpdu
  refine .ite ?_ ?_
  · exact .next hx1
  · exact .next (.offer hx1)

theorem Keeps.execTmgSelect {o x0 : State} (hx0 : Keeps o x0) : KeepsOut o (execTmgSelect x0) := by
  unfold Sys2Proof.Machine.execTmgSelect
  refine .ite ?_ ?_
  · exact .next hx0
  · extract_lets -merge +onlyGivenNames t0 t1
    have h2 : Keeps o (t1) := .setPkt hx0
    clear_value t0 t1
    exact .next (.offer h2)

theorem Keeps.execPortStall {o : State} {x0 : Fin 16} {x1 : State} (hx1 : Keeps o x1) : KeepsOut o (execPortStall x0 x1) := by
  unfold Sys2Proof.Machine.execPortStall
  refine .ite ?_ ?_
  · exact .next (.raise (.bump (.setPkt hx1)))
  · exact .next hx1

/-! Eth -/

theorem Keeps.execPtpRead {o : State} {x0 : Init} {x1 : State} (hx1 : Keeps o x1) : KeepsOut o (execPtpRead x0 x1) := by
  unfold Sys2Proof.Machine.execPtpRead
  exact .next (.onRead hx1 (fun h0 => by
    extract_lets -merge +onlyGivenNames t1 t3
    have h2 : Keeps o (t1) := .setReg64 h0
    have h4 : Keeps o (t3) := .setReg64 h2
    clear_value t1 t3
    exact .answer h4))

theorem Keeps.setEth {o x0 : State} {x1 : EthSt → EthSt} (hx0 : Keeps o x0) : Keeps o (State.setEth x0 x1) :=
  .in_eth hx0

theorem Keeps.execTxtsPop {o : State} {x0 : Init} {x1 : Fin 6} {x2 : State} (hx2 : Keeps o x2) : KeepsOut o (execTxtsPop x0 x1 x2) := by
  unfold Sys2Proof.Machine.execTxtsPop
  exact .next (.onRead hx2 (fun h0 => by
    split
    · exact .answer h0
    · extract_lets -merge +onlyGivenNames t1 t3 t5
      have h2 : Keeps o (t1) := .setEth h0
      have h4 : Keeps o (t3) := .setReg64 h2
      have h6 : Keeps o (t5) := .setReg64 h4
      clear_value t1 t3 t5
      exact .answer h6))

theorem Keeps.execPtpStep {o : State} {x0 : Init} {x1 : Word} {x2 : State} (hx2 : Keeps o x2) : KeepsOut o (execPtpStep x0 x1 x2) := by
  unfold Sys2Proof.Machine.execPtpStep
  exact .next (.onWrite hx2 (fun h0 => by
    extract_lets -merge +onlyGivenNames t1 t3
    have h2 : Keeps o (t1) := .setReg h0
    clear_value t1 t3
    exact .raise (.setEth h2)))

theorem Keeps.execMdioGo {o : State} {x0 : Init} {x1 : Word} {x2 : State} (hx2 : Keeps o x2) : KeepsOut o (execMdioGo x0 x1 x2) := by
  unfold Sys2Proof.Machine.execMdioGo
  exact .next (.onWrite hx2 (fun h0 => .ite (.raise h0) (by
    extract_lets -merge +onlyGivenNames t1
    have h2 : Keeps o (t1) := .setReg h0
    clear_value t1
    exact .ite (.emit h2) h2)))

theorem Keeps.stampTx {o x0 : State} {x1 : Nat} {x2 : List Byte} {x3 : GTime} {x4 : Nat} (hx0 : Keeps o x0) : Keeps o (State.stampTx x0 x1 x2 x3 x4) := by
  unfold State.stampTx
  split
  · exact hx0
  · exact .ite (.raise (.bump hx0)) (.setEth hx0)

theorem Keeps.execPauseRepeat {o : State} {x0 : Fin 6} {x1 : State} (hx1 : Keeps o x1) : KeepsOut o (execPauseRepeat x0 x1) := by
  unfold Sys2Proof.Machine.execPauseRepeat
  refine .ite ?_ ?_
  · exact .next (.sendPause hx1)
  · exact .next hx1

theorem Keeps.secTransmit {o x0 : State} {x1 : Nat} {x2 : List Byte} (hx0 : Keeps o x0) : Keeps o (State.secTransmit x0 x1 x2).1 := by
  simp only [State.secTransmit]
  refine .iteP ?_ ?_
  · exact hx0
  · refine .iteP ?_ ?_
    · exact .raise (.bump hx0)
    · split
      · exact hx0
      · exact .ite (.raise (.setReg64 hx0)) (.setReg64 hx0)

theorem Keeps.execPauseReceive {o : State} {x0 : Fin 6} {x1 : BitVec 16} {x2 : State} (hx2 : Keeps o x2) : KeepsOut o (execPauseReceive x0 x1 x2) := by
  unfold Sys2Proof.Machine.execPauseReceive
  refine .ite ?_ ?_
  · exact .next (.setPkt hx2)
  · exact .next hx2

theorem Keeps.oneStep {o x0 : State} {x1 : Nat} {x2 : List Byte} {x3 : Nat} (hx0 : Keeps o x0) : Keeps o (State.oneStep x0 x1 x2 x3).1 := by
  unfold State.oneStep
  split
  · exact hx0
  · extract_lets -merge +onlyGivenNames t0 t1
    clear_value t0 t1
    refine .iteP ?_ ?_
    · exact hx0
    · extract_lets -merge +onlyGivenNames t2 t3 t4
      have h5 : Keeps o (t4) := .used hx0
      clear_value t2 t3 t4
      split
      · exact h5
      · exact h5

theorem Keeps.wireBytes {o x0 : State} {x1 : Nat} {x2 : Frame} {x3 : Nat} (hx0 : Keeps o x0) : Keeps o (State.wireBytes x0 x1 x2 x3).1 := by
  unfold State.wireBytes
  extract_lets -merge +onlyGivenNames t0 t1 t2 t4
  have h3 : Keeps o (t2).1 := .oneStep hx0
  have h5 : Keeps o (t4).1 := .secTransmit h3
  clear_value t0 t1 t2 t4
  split
  · exact h5
  · extract_lets -merge +onlyGivenNames t6
    clear_value t6
    exact h5

theorem Keeps.execEthFrameTransmit {o : State} {x0 : Fin 6} {x1 : GTime} {x2 : BitVec 64} {x3 : State} (hx3 : Keeps o x3) : KeepsOut o (execEthFrameTransmit x0 x1 x2 x3) := by
  unfold Sys2Proof.Machine.execEthFrameTransmit
  extract_lets -merge +onlyGivenNames t0
  clear_value t0
  split
  · exact .next hx3
  · refine .ite ?_ ?_
    · exact .next hx3
    · split
      · exact .next (.setSel hx3)
      · extract_lets -merge +onlyGivenNames t1 t2 t4 t5 t6
        have h3 : Keeps o (t2) := .spansRead hx3
        have h7 : Keeps o (t6).1 := .wireBytes h3
        clear_value t1 t2 t4 t5 t6
        split
        · exact .next (.freeSel h7)
        · extract_lets -merge +onlyGivenNames t8 t9 t11
          have h10 : Keeps o (t9) := .bump (.emit h7)
          have h12 : Keeps o (t11) := .stampTx h10
          clear_value t8 t9 t11
          exact .next (.freeSel h12)

theorem Keeps.execMdioDone {o : State} {x0 : BitVec 16} {x1 : State} (hx1 : Keeps o x1) : KeepsOut o (execMdioDone x0 x1) := by
  unfold Sys2Proof.Machine.execMdioDone
  refine .ite ?_ ?_
  · exact .next hx1
  · extract_lets -merge +onlyGivenNames t0
    have h1 : Keeps o (t0) := .ite (.wf hx1) hx1
    clear_value t0
    exact .next (.wb h1)

theorem Keeps.secReceive {o x0 : State} {x1 : Nat} {x2 : List Byte} (hx0 : Keeps o x0) : Keeps o (State.secReceive x0 x1 x2).1 := by
  unfold State.secReceive
  extract_lets -merge +onlyGivenNames t0
  clear_value t0
  refine .iteP ?_ ?_
  · exact hx0
  · refine .iteP ?_ ?_
    · exact hx0
    · extract_lets -merge +onlyGivenNames t1 t2 t3 t4 t5 t6
      have h7 : Keeps o (t6).1 := .bump hx0
      clear_value t1 t2 t3 t5 t6
      split
      · refine .iteP ?_ ?_
        · exact h7
        · refine .iteP ?_ ?_
          · exact .bump hx0
          · exact hx0
      · extract_lets -merge +onlyGivenNames t8 t9 t10 t11 t12
        clear_value t8 t9 t10 t11 t12
        split
        · refine .iteP ?_ ?_
          · exact h7
          · refine .iteP ?_ ?_
            · exact .bump hx0
            · exact hx0
        · extract_lets -merge +onlyGivenNames t13 t14 t15 t16 t17 t18
          clear_value t13 t14 t15 t16 t17 t18
          refine .iteP ?_ ?_
          · refine .iteP ?_ ?_
            · exact hx0
            · exact hx0
          · refine .iteP ?_ ?_
            · refine .iteP ?_ ?_
              · exact h7
              · refine .iteP ?_ ?_
                · exact .bump hx0
                · exact hx0
            · extract_lets -merge +onlyGivenNames t19
              clear_value t19
              exact .setReg64 hx0

theorem Keeps.execEthFrameReceive {o : State} {x0 : Fin 6} {x1 : List (BitVec 8)} {x2 : GTime} {x3 : BitVec 64} {x4 : State} (hx4 : Keeps o x4) : KeepsOut o (execEthFrameReceive x0 x1 x2 x3 x4) := by
  unfold Sys2Proof.Machine.execEthFrameReceive
  extract_lets -merge +onlyGivenNames t0 t1
  clear_value t0 t1
  refine .ite ?_ ?_
  · exact .next hx4
  · refine .ite ?_ ?_
    · exact .next (.bump (.unreserve hx4))
    · refine .ite ?_ ?_
      · exact .next (.bump (.unreserve hx4))
      · refine .ite ?_ ?_
        · exact .next hx4
        · extract_lets -merge +onlyGivenNames t2 t4 t6
          have h3 : Keeps o (t2) := .unreserve hx4
          have h5 : Keeps o (t4).1 := .secReceive h3
          have h7 : Keeps o (t6) := h5
          clear_value t2 t4 t6
          split
          · exact .next (.ite h7 (.bump h7))
          · extract_lets -merge +onlyGivenNames t8 t9
            clear_value t8 t9
            split
            · exact .next (.bump (.countRefused h7))
            · extract_lets -merge +onlyGivenNames t10 t11
              have h12 : Keeps o (t11).1 := .putFrame ((Keeps.charge h7) _ (by assumption))
              clear_value t10 t11
              exact .next (.toPpe (.bump h12))

theorem Keeps.execLinkChange {o : State} {x0 : Fin 6} {x1 : Bool} {x2 : Fin 4} {x3 : Fin 6} {x4 : State} (hx4 : Keeps o x4) : KeepsOut o (execLinkChange x0 x1 x2 x3 x4) := by
  unfold Sys2Proof.Machine.execLinkChange
  extract_lets -merge +onlyGivenNames t0
  have h1 : Keeps o (t0) := .wf (.wb hx4)
  clear_value t0
  exact .next (.raise (.wf h1))

theorem Keeps.execPauseTimeExpiry {o : State} {x0 : Fin 6} {x1 : State} (hx1 : Keeps o x1) : KeepsOut o (execPauseTimeExpiry x0 x1) := by
  unfold Sys2Proof.Machine.execPauseTimeExpiry
  exact .next (.setPkt hx1)

theorem Keeps.ptpTick {o x0 : State} (hx0 : Keeps o x0) : Keeps o (State.ptpTick x0) := by
  unfold State.ptpTick
  refine .ite ?_ ?_
  · exact hx0
  · extract_lets -merge +onlyGivenNames t0
    clear_value t0
    exact .setEth hx0

/-! BusWrite -/

theorem Keeps.nextOr {o x0 : State} {x1 : Host.Outcome State Fault Refusal} (hx0 : Keeps o x0) (hx1 : KeepsOut o x1) :
    Keeps o (nextOr x0 x1) := by
  unfold Sys2Proof.Machine.nextOr
  split
  · exact hx1 _ rfl
  · exact hx0

theorem Keeps.gtuOfsWrite {o : State} {x0 : Nat} {x1 : Word} {x2 : State} (hx2 : Keeps o x2) : Keeps o (State.gtuOfsWrite x0 x1 x2) := by
  unfold State.gtuOfsWrite
  refine .ite ?_ ?_
  · exact .writeReg hx2
  · extract_lets -merge +onlyGivenNames t0 t1
    have h2 : Keeps o (t1) := .setOfs (.writeReg hx2)
    clear_value t0 t1
    exact .ite h2 (.raise h2)

theorem Keeps.gcFireClear {o x0 : State} {x1 : Nat} {x2 : Word} {x3 : Nat} (hx0 : Keeps o x0) : Keeps o (State.gcFireClear x0 x1 x2 x3) := by
  induction x3 generalizing x0 x1 x2 with
  | zero =>
    exact hx0
  | succ n ih =>
    rw [State.gcFireClear]
    exact .ite (.wf (ih hx0)) (ih hx0)

theorem Keeps.gtuOwn {o x0 : State} {x1 : Init} {x2 : Nat} {x3 : Nat} {x4 : Word} (hx0 : Keeps o x0) : KeepsOpt o (State.gtuOwn x0 x1 x2 x3 x4) := by
  unfold State.gtuOwn
  refine .ite ?_ ?_
  · exact .some (.gtuCtrlWrite hx0)
  · refine .ite ?_ ?_
    · exact .some (.gtuOfsWrite hx0)
    · refine .ite ?_ ?_
      · exact .some (.gtuEnd (.writeReg hx0))
      · refine .ite ?_ ?_
        · exact .some (.gtuCmd hx0)
        · refine .ite ?_ ?_
          · exact .some (.ite (.pmapCommit hx0) hx0)
          · refine .ite ?_ ?_
            · exact .some (.gcFireClear hx0)
            · refine .ite ?_ ?_
              · exact .some (.gcFireClear hx0)
              · refine .ite ?_ ?_
                · exact .some (.gcCtrlWrite hx0)
                · exact .none

theorem Keeps.evrOwn {o x0 : State} {x1 : Init} {x2 : Nat} {x3 : Nat} {x4 : Word} (hx0 : Keeps o x0) : KeepsOpt o (State.evrOwn x0 x1 x2 x3 x4) := by
  unfold State.evrOwn
  refine .ite ?_ ?_
  · exact .some (.raiseAll hx0)
  · refine .ite ?_ ?_
    · exact .some (.syncSubs (.writeReg hx0))
    · exact .none

theorem Keeps.dmaOwn {o x0 : State} {x1 : Init} {x2 : Nat} {x3 : Nat} {x4 : Word} (hx0 : Keeps o x0) : KeepsOpt o (State.dmaOwn x0 x1 x2 x3 x4) := by
  unfold State.dmaOwn
  refine .ite ?_ ?_
  · exact .none
  · extract_lets -merge +onlyGivenNames t0 t1
    clear_value t0 t1
    refine .ite ?_ ?_
    · exact .some (.chRefuse hx0)
    · refine .ite ?_ ?_
      · exact .some (.chCmd hx0)
      · refine .ite ?_ ?_
        · exact .some (.chDoorbell hx0)
        · refine .ite ?_ ?_
          · exact .some (.shadowWrite hx0)
          · refine .ite ?_ ?_
            · exact .some (.saddleWrite hx0)
            · exact .none

theorem Keeps.chkOwn {o x0 : State} {x1 : Init} {x2 : Nat} {x3 : Nat} {x4 : Word} (hx0 : Keeps o x0) : KeepsOpt o (State.chkOwn x0 x1 x2 x3 x4) := by
  unfold State.chkOwn
  refine .ite ?_ ?_
  · exact .some (.scanCtrl hx0)
  · refine .ite ?_ ?_
    · exact .none
    · extract_lets -merge +onlyGivenNames t0 t1
      clear_value t0 t1
      refine .ite ?_ ?_
      · exact .some (.chkPreset hx0)
      · refine .ite ?_ ?_
        · exact .some (.chkConfig hx0)
        · refine .ite ?_ ?_
          · exact .some (.chkStateWrite hx0)
          · refine .ite ?_ ?_
            · exact .some (.chkData hx0)
            · refine .ite ?_ ?_
              · exact .some (.chkCmd hx0)
              · exact .none

theorem Keeps.cryOwn {o x0 : State} {x1 : Init} {x2 : Nat} {x3 : Nat} {x4 : Word} (hx0 : Keeps o x0) : KeepsOpt o (State.cryOwn x0 x1 x2 x3 x4) := by
  unfold State.cryOwn
  refine .ite ?_ ?_
  · exact .some (.keyCmd hx0)
  · refine .ite ?_ ?_
    · exact .some (.setReg hx0)
    · refine .ite ?_ ?_
      · exact .some (.saCmd hx0)
      · refine .ite ?_ ?_
        · exact .some (.almPolWrite hx0)
        · refine .ite ?_ ?_
          · exact .some (.nextOr hx0 (Keeps.execAlarmLock hx0))
          · refine .ite ?_ ?_
            · exact .some (.nextOr hx0 (Keeps.execAlarmClear hx0))
            · refine .ite ?_ ?_
              · extract_lets -merge +onlyGivenNames t0 t1
                clear_value t0 t1
                refine .ite ?_ ?_
                · exact .some (.pgCmd hx0)
                · refine .ite ?_ ?_
                  · exact .some (.ite (.setPage hx0) hx0)
                  · exact .none
              · exact .none

theorem Keeps.scrubCtrlWrite {o x0 : State} {x1 : Nat} {x2 : Bool} {x3 : Word} (hx0 : Keeps o x0) : Keeps o (State.scrubCtrlWrite x0 x1 x2 x3) := by
  unfold State.scrubCtrlWrite
  extract_lets -merge +onlyGivenNames t0 t1 t3
  have h2 : Keeps o (t1) := .writeReg hx0
  clear_value t0 t1 t3
  exact .ite h2 (.setDrc h2)

theorem Keeps.secOwn {o x0 : State} {x1 : Init} {x2 : Nat} {x3 : Nat} {x4 : Word} (hx0 : Keeps o x0) : KeepsOpt o (State.secOwn x0 x1 x2 x3 x4) := by
  unfold State.secOwn
  refine .ite ?_ ?_
  · refine .ite ?_ ?_
    · exact .some (.pkePush hx0)
    · exact .none
  · refine .ite ?_ ?_
    · refine .ite ?_ ?_
      · exact .some (.scrubCtrlWrite hx0)
      · refine .ite ?_ ?_
        · exact .some (.drcCmd hx0)
        · refine .ite ?_ ?_
          · exact .some (.injWrite hx0)
          · exact .none
    · refine .ite ?_ ?_
      · exact .some (.scrubCtrlWrite hx0)
      · refine .ite ?_ ?_
        · exact .some (.injWrite hx0)
        · exact .none

theorem Keeps.ppeOwn {o x0 : State} {x1 : Init} {x2 : Nat} {x3 : Word} (hx0 : Keeps o x0) : KeepsOpt o (State.ppeOwn x0 x1 x2 x3) := by
  unfold State.ppeOwn
  refine .ite ?_ ?_
  · exact .some (.nextOr hx0 (Keeps.execFenceStart hx0))
  · refine .ite ?_ ?_
    · extract_lets -merge +onlyGivenNames t0
      clear_value t0
      exact .some (.ite (.refuse hx0) (.updStart hx0))
    · split
      · refine .ite ?_ ?_
        · exact .some (.nextOr hx0 (Keeps.execPipeTabWrite hx0))
        · exact .none
      · exact .none

theorem Keeps.shaperWrite {o x0 : State} {x1 : Nat} {x2 : Nat} {x3 : Word} {x4 : State → Shaper} (hx0 : Keeps o x0) : Keeps o (State.shaperWrite x0 x1 x2 x3 x4) := by
  unfold State.shaperWrite
  extract_lets -merge +onlyGivenNames t0
  have h1 : Keeps o (t0) := .writeReg (.shaperSync hx0)
  clear_value t0
  exact .shaperSync h1

theorem Keeps.tmgOwn {o x0 : State} {x1 : Init} {x2 : Nat} {x3 : Nat} {x4 : Word} (hx0 : Keeps o x0) : KeepsOpt o (State.tmgOwn x0 x1 x2 x3 x4) := by
  unfold State.tmgOwn
  refine .ite ?_ ?_
  · exact .none
  · split
    · extract_lets -merge +onlyGivenNames t0
      clear_value t0
      split
      · exact .some (.nextOr hx0 (Keeps.execRingConfigWrite hx0))
      · exact .none
    · refine .ite ?_ ?_
      · exact .none
      · refine .ite ?_ ?_
        · refine .ite ?_ ?_
          · exact .some (.shaperWrite hx0)
          · exact .none
        · refine .ite ?_ ?_
          · exact .some (.shaperWrite hx0)
          · refine .ite ?_ ?_
            · exact .some (.shaperWrite hx0)
            · exact .none

theorem Keeps.qmgOwn {o x0 : State} {x1 : Init} {x2 : Nat} {x3 : Nat} {x4 : Word} (hx0 : Keeps o x0) : KeepsOpt o (State.qmgOwn x0 x1 x2 x3 x4) := by
  unfold State.qmgOwn
  refine .ite ?_ ?_
  · exact .some (.qPush hx0)
  · refine .ite ?_ ?_
    · exact .some (.qmgFree hx0)
    · refine .ite ?_ ?_
      · exact .some (.nextOr hx0 (Keeps.execPoolApply hx0))
      · refine .ite ?_ ?_
        · exact .some (.rpoolWrite hx0)
        · refine .ite ?_ ?_
          · extract_lets -merge +onlyGivenNames t0 t1 t2
            have h3 : Keeps o (t2) := .writeReg (.ite (.polRefill hx0) hx0)
            clear_value t0 t1 t2
            exact .some (.ite (.polFill h3) h3)
          · exact .none

theorem Keeps.radioOwn {o x0 : State} {x1 : Init} {x2 : Nat} {x3 : Nat} {x4 : Nat} {x5 : Word} (hx0 : Keeps o x0) : KeepsOpt o (State.radioOwn x0 x1 x2 x3 x4 x5) := by
  unfold State.radioOwn
  refine .ite ?_ ?_
  · refine .ite ?_ ?_
    · exact .some (.rfcPush hx0)
    · exact .none
  · refine .ite ?_ ?_
    · refine .ite ?_ ?_
      · exact .some (.smodeWrite hx0)
      · exact .none
    · extract_lets -merge +onlyGivenNames t0
      clear_value t0
      refine .ite ?_ ?_
      · exact .some (.macPush hx0)
      · refine .ite ?_ ?_
        · exact .some (.notchSync (.writeReg hx0))
        · refine .ite ?_ ?_
          · exact .some (.nextOr hx0 (Keeps.execNotchArm hx0))
          · exact .none

theorem Keeps.schedOwn {o x0 : State} {x1 : Init} {x2 : Nat} {x3 : Nat} {x4 : Word} (hx0 : Keeps o x0) : KeepsOpt o (State.schedOwn x0 x1 x2 x3 x4) := by
  unfold State.schedOwn
  refine .ite ?_ ?_
  · refine .ite ?_ ?_
    · exact .some (.fmPush hx0)
    · refine .ite ?_ ?_
      · exact .some (.schedArm hx0)
      · refine .ite ?_ ?_
        · exact .some (.ptabWrite hx0)
        · refine .ite ?_ ?_
          · exact .some (.dwWinWrite hx0)
          · exact .none
  · refine .ite ?_ ?_
    · exact .some (.stpPush hx0)
    · refine .ite ?_ ?_
      · exact .some (.nextOr hx0 (Keeps.execStpPendWrite hx0))
      · exact .none

theorem Keeps.edgeOwn {o x0 : State} {x1 : Init} {x2 : Nat} {x3 : Nat} {x4 : Word} (hx0 : Keeps o x0) : KeepsOpt o (State.edgeOwn x0 x1 x2 x3 x4) := by
  unfold State.edgeOwn
  refine .ite ?_ ?_
  · refine .ite ?_ ?_
    · exact .some (.nextOr hx0 (Keeps.execPtpStep hx0))
    · refine .ite ?_ ?_
      · exact .some (.nextOr hx0 (Keeps.execMdioGo hx0))
      · exact .none
  · refine .ite ?_ ?_
    · refine .ite ?_ ?_
      · exact .some (.canPush hx0)
      · exact .none
    · refine .ite ?_ ?_
      · refine .ite ?_ ?_
        · exact .some (.opPush hx0)
        · refine .ite ?_ ?_
          · exact .some (.fifoWrite hx0)
          · exact .none
      · refine .ite ?_ ?_
        · refine .ite ?_ ?_
          · exact .some (.stepWrite hx0)
          · refine .ite ?_ ?_
            · exact .some (.stepWrite hx0)
            · refine .ite ?_ ?_
              · exact .some (.rstCmd hx0)
              · refine .ite ?_ ?_
                · exact .some (.wdtWrite hx0)
                · refine .ite ?_ ?_
                  · exact .some (.wdtKick hx0)
                  · refine .ite ?_ ?_
                    · exact .some (.otpInc hx0)
                    · refine .ite ?_ ?_
                      · exact .some (.clkWrite hx0)
                      · exact .none
        · exact .none

theorem Keeps.ownWrite {o x0 : State} {x1 : Init} {x2 : Nat} {x3 : Nat} {x4 : Nat} {x5 : Word} (hx0 : Keeps o x0) : KeepsOpt o (State.ownWrite x0 x1 x2 x3 x4 x5) := by
  unfold State.ownWrite
  refine .ite ?_ ?_
  · exact Keeps.gtuOwn hx0
  · refine .ite ?_ ?_
    · exact Keeps.evrOwn hx0
    · refine .ite ?_ ?_
      · exact Keeps.dmaOwn hx0
      · refine .ite ?_ ?_
        · exact Keeps.chkOwn hx0
        · refine .ite ?_ ?_
          · exact Keeps.cryOwn hx0
          · refine .ite ?_ ?_
            · exact Keeps.secOwn hx0
            · refine .ite ?_ ?_
              · exact Keeps.ppeOwn hx0
              · refine .ite ?_ ?_
                · exact Keeps.tmgOwn hx0
                · refine .ite ?_ ?_
                  · exact Keeps.qmgOwn hx0
                  · refine .ite ?_ ?_
                    · exact Keeps.radioOwn hx0
                    · refine .ite ?_ ?_
                      · exact Keeps.schedOwn hx0
                      · exact Keeps.edgeOwn hx0

theorem Keeps.regWriteWith {o : State} {x0 : State → Nat → Word → Option State} {x1 : Init} {x2 : Nat} {x3 : Word} {x4 : State} (hx0 : ∀ {y0} {y1} {y2}, Keeps o y0 → KeepsOpt o (x0 y0 y1 y2)) (hx4 : Keeps o x4) : Keeps o (State.regWriteWith x0 x1 x2 x3 x4) := by
  unfold State.regWriteWith
  split
  · exact .busErr hx4
  · refine .ite ?_ ?_
    · exact .busErr hx4
    · exact .onWrite hx4 (fun h0 => by
        split
        · exact (.ite (hx0 h0) (Keeps.ownWrite h0) : KeepsOpt o _) _ (by assumption)
        · exact .writeReg h0)

theorem Keeps.regWrite {o : State} {x0 : Init} {x1 : Nat} {x2 : Word} {x3 : State} (hx3 : Keeps o x3) : Keeps o (State.regWrite x0 x1 x2 x3) :=
  .regWriteWith (fun h0 => .none) hx3

/-! BusRead -/

theorem Keeps.taken {o x0 : State} (hx0 : Keeps o x0) : Keeps o (State.taken x0).1 := by
  unfold State.taken
  split
  · exact .in_out hx0
  · exact hx0

theorem Keeps.popA {o x0 : State} {x1 : Init} {x2 : Nat} {x3 : Nat} (hx0 : Keeps o x0) : KeepsOpt o (State.popA x0 x1 x2 x3) := by
  unfold State.popA
  refine .ite ?_ ?_
  · refine .ite ?_ ?_
    · exact .some (.gtuNowRead hx0)
    · refine .ite ?_ ?_
      · exact .some (.xlastRead hx0)
      · exact .none
  · refine .ite ?_ ?_
    · refine .ite ?_ ?_
      · exact .some (.subPop hx0)
      · exact .none
    · refine .ite ?_ ?_
      · refine .ite ?_ ?_
        · exact .some (.keyPop hx0)
        · refine .ite ?_ ?_
          · exact .some (.pgPop hx0)
          · exact .none
      · refine .ite ?_ ?_
        · refine .ite ?_ ?_
          · exact .some (.pkePop hx0)
          · refine .ite ?_ ?_
            · exact .some (.rngRead hx0)
            · exact .none
        · refine .ite ?_ ?_
          · refine .ite ?_ ?_
            · exact .some (.drcPop hx0)
            · exact .none
          · exact .none

theorem Keeps.popB {o x0 : State} {x1 : Init} {x2 : Nat} {x3 : Nat} (hx0 : Keeps o x0) : KeepsOpt o (State.popB x0 x1 x2 x3) := by
  unfold State.popB
  refine .ite ?_ ?_
  · split
    · refine .ite ?_ ?_
      · exact .some (.nextOr hx0 (Keeps.execPpeCounterRead hx0))
      · exact .none
    · exact .none
  · refine .ite ?_ ?_
    · refine .ite ?_ ?_
      · exact .some (.qPop hx0)
      · exact .none
    · refine .ite ?_ ?_
      · refine .ite ?_ ?_
        · exact .some (.rfcPop hx0)
        · exact .none
      · refine .ite ?_ ?_
        · refine .ite ?_ ?_
          · exact .some (.macPop hx0)
          · refine .ite ?_ ?_
            · exact .some (.tsfRead hx0)
            · exact .none
        · refine .ite ?_ ?_
          · refine .ite ?_ ?_
            · exact .some (.fmPop hx0)
            · exact .none
          · refine .ite ?_ ?_
            · refine .ite ?_ ?_
              · exact .some (.stpPop hx0)
              · exact .none
            · exact .none

theorem Keeps.popC {o x0 : State} {x1 : Init} {x2 : Nat} {x3 : Nat} (hx0 : Keeps o x0) : KeepsOpt o (State.popC x0 x1 x2 x3) := by
  unfold State.popC
  refine .ite ?_ ?_
  · refine .ite ?_ ?_
    · exact .some (.nextOr hx0 (Keeps.execPtpRead hx0))
    · split
      · refine .ite ?_ ?_
        · exact .some (.nextOr hx0 (Keeps.execTxtsPop hx0))
        · exact .none
      · exact .none
  · refine .ite ?_ ?_
    · refine .ite ?_ ?_
      · exact .some (.canPop hx0)
      · exact .none
    · refine .ite ?_ ?_
      · refine .ite ?_ ?_
        · exact .some (.xspiPop hx0)
        · refine .ite ?_ ?_
          · exact .some (.answer (.fifoRead hx0))
          · exact .none
      · refine .ite ?_ ?_
        · refine .ite ?_ ?_
          · exact .some (.accPop hx0)
          · refine .ite ?_ ?_
            · split
              · exact .some (.used (.answer hx0))
              · exact .none
            · exact .none
        · exact .none

theorem Keeps.ownRead {o x0 : State} {x1 : Init} {x2 : Nat} {x3 : Nat} (hx0 : Keeps o x0) : KeepsOpt o (State.ownRead x0 x1 x2 x3) := by
  unfold State.ownRead
  refine .ite ?_ ?_
  · exact Keeps.popA hx0
  · refine .ite ?_ ?_
    · exact Keeps.popB hx0
    · exact Keeps.popC hx0

theorem Keeps.readSync {o x0 : State} {x1 : Nat} {x2 : Nat} (hx0 : Keeps o x0) : Keeps o (State.readSync x0 x1 x2) :=
  .ite (.ite (.foldl (fun h => .portSync h) hx0) (.ite (.shaperSync hx0) (.ite (.shaperSync hx0) (.ite (.shaperSync hx0) hx0)))) (.ite (.ite (.polRefill hx0) hx0) (.ite (.tstartLatch hx0) (.ite (.setReg64 hx0) hx0)))

theorem Keeps.plainRead {o x0 : State} {x1 : Init} {x2 : Window} {x3 : Nat} (hx0 : Keeps o x0) : Keeps o (State.plainRead x0 x1 x2 x3) := by
  unfold State.plainRead
  extract_lets -merge +onlyGivenNames t0
  have h1 : Keeps o (t0) := .readSync hx0
  clear_value t0
  split
  · exact .answer h1
  · exact .answer (.setReg h1)

theorem Keeps.regReadWith {o : State} {x0 : State → Nat → Option State} {x1 : Init} {x2 : Nat} {x3 : State} (hx0 : ∀ {y0} {y1}, Keeps o y0 → KeepsOpt o (x0 y0 y1)) (hx3 : Keeps o x3) : Keeps o (State.regReadWith x0 x1 x2 x3) := by
  unfold State.regReadWith
  split
  · exact .busErr hx3
  · refine .ite ?_ ?_
    · exact .busErr hx3
    · exact .onRead hx3 (fun h0 => by
        split
        · exact (.ite (hx0 h0) (Keeps.ownRead h0) : KeepsOpt o _) _ (by assumption)
        · exact .plainRead h0)

theorem Keeps.regRead {o : State} {x0 : Init} {x1 : Nat} {x2 : State} (hx2 : Keeps o x2) : Keeps o (State.regRead x0 x1 x2) :=
  .regReadWith (fun h0 => .none) hx2

/-! OdeImage -/

theorem Keeps.odeRegs {o x0 : State} {x1 : Nat} {x2 : Nat} (hx0 : Keeps o x0) : Keeps o (State.odeRegs x0 x1 x2).1 := by
  induction x2 generalizing x0 x1 with
  | zero =>
    exact hx0
  | succ n ih =>
    rw [State.odeRegs]
    split
    · exact ih (.taken (.regRead hx0))
    · exact ih (.taken (.regRead hx0))

theorem Keeps.elemRead {o x0 : State} {x1 : Desc} {x2 : Nat} (hx0 : Keeps o x0) : Keeps o (State.elemRead x0 x1 x2).1 := by
  unfold State.elemRead
  refine .iteP ?_ ?_
  · extract_lets -merge +onlyGivenNames t0
    have h1 : Keeps o (t0).1 := .odeRegs hx0
    clear_value t0
    split
    · exact h1
    · exact h1
  · extract_lets -merge +onlyGivenNames t2
    clear_value t2
    exact hx0

theorem Keeps.setFwVal {o x0 : State} {x1 : Desc} {x2 : Nat} {x3 : List Byte} (hx0 : Keeps o x0) : Keeps o (State.setFwVal x0 x1 x2 x3) :=
  .setOde hx0

theorem Keeps.storeWrite {o x0 : State} {x1 : Desc} {x2 : Nat} {x3 : List Byte} (hx0 : Keeps o x0) : Keeps o (State.storeWrite x0 x1 x2 x3) :=
  .ite (.setBytes hx0) (.setBytes hx0)

/-! Lum -/

theorem Keeps.setLum {o x0 : State} {x1 : LumSt → LumSt} (hx0 : Keeps o x0) : Keeps o (State.setLum x0 x1) :=
  .in_lum hx0

theorem Keeps.dropRelay {o x0 : State} (hx0 : Keeps o x0) : Keeps o (State.dropRelay x0) := by
  unfold State.dropRelay
  extract_lets -merge +onlyGivenNames t0
  have h1 : Keeps o (t0) := .setLum hx0
  clear_value t0
  exact .ite (.gcDisarmNow h1) h1

theorem Keeps.armRelay {o x0 : State} {x1 : Nat} (hx0 : Keeps o x0) : Keeps o (State.armRelay x0 x1) := by
  unfold State.armRelay
  extract_lets -merge +onlyGivenNames t0
  have h1 : Keeps o (t0) := .setRegN (.setReg hx0)
  clear_value t0
  exact .gcArmNow (.setReg64 h1)

theorem Keeps.relayTake {o x0 : State} {x1 : Bool} (hx0 : Keeps o x0) : Keeps o (State.relayTake x0 x1) := by
  unfold State.relayTake
  refine .ite ?_ ?_
  · exact hx0
  · extract_lets -merge +onlyGivenNames t0 t2 t3
    have h1 : Keeps o (t0) := .dropRelay hx0
    clear_value t0 t2 t3
    refine .ite ?_ ?_
    · exact .upd h1 rfl
    · extract_lets -merge +onlyGivenNames t4 t5 t6
      clear_value t4 t5 t6
      exact .armRelay (.setLum h1)

theorem Keeps.levelTake {o x0 : State} {x1 : Nat} (hx0 : Keeps o x0) : Keeps o (State.levelTake x0 x1) := by
  unfold State.levelTake
  refine .ite ?_ ?_
  · exact .emit (.setLum hx0)
  · extract_lets -merge +onlyGivenNames t0
    have h1 : Keeps o (t0) := .setLum hx0
    clear_value t0
    exact .ite (.relayTake h1) (.daliStart h1)

theorem Keeps.relayRetake {o x0 : State} (hx0 : Keeps o x0) : Keeps o (State.relayRetake x0) := by
  unfold State.relayRetake
  split
  · exact hx0
  · exact .ite hx0 (.relayTake hx0)

theorem Keeps.execProfileStep {o x0 : State} (hx0 : Keeps o x0) : KeepsOut o (execProfileStep x0) := by
  unfold Sys2Proof.Machine.execProfileStep
  extract_lets -merge +onlyGivenNames t0
  clear_value t0
  refine .ite ?_ ?_
  · exact .next hx0
  · split
    · exact .next hx0
    · exact .next (.levelTake hx0)

theorem Keeps.execDapcSend {o x0 : State} (hx0 : Keeps o x0) : KeepsOut o (execDapcSend x0) := by
  unfold Sys2Proof.Machine.execDapcSend
  refine .ite ?_ ?_
  · exact .next (.daliStart hx0)
  · exact .next hx0

theorem Keeps.execRelayFadeOpen {o x0 : State} (hx0 : Keeps o x0) : KeepsOut o (execRelayFadeOpen x0) := by
  unfold Sys2Proof.Machine.execRelayFadeOpen
  refine .ite ?_ ?_
  · exact .next (.relayTake (.setLum hx0))
  · exact .next hx0

/-! OdeFw -/

theorem Keeps.gtuParamWrite {o x0 : State} {x1 : Fld} {x2 : Nat} (hx0 : Keeps o x0) : Keeps o (State.gtuParamWrite x0 x1 x2).1 := by
  unfold State.gtuParamWrite
  extract_lets -merge +onlyGivenNames t0 t1 t3
  have h2 : Keeps o (t1) := .ite hx0 (.regWrite hx0)
  clear_value t0 t1 t3
  exact .regWrite h2

theorem Keeps.tryWrite {o x0 : State} {x1 : Init} {x2 : Nat} {x3 : Word} (hx0 : Keeps o x0) : Keeps o (State.tryWrite x0 x1 x2 x3).1 := by
  unfold State.tryWrite
  split
  · exact .regWrite hx0
  · extract_lets -merge +onlyGivenNames t0
    clear_value t0
    refine .iteP ?_ ?_
    · exact .regWrite hx0
    · refine .iteP ?_ ?_
      · exact .regWrite hx0
      · extract_lets -merge +onlyGivenNames t1
        have h2 : Keeps o (t1) := .regWrite (.setReg hx0)
        clear_value t1
        refine .iteP ?_ ?_
        · exact h2
        · exact .setReg h2

theorem Keeps.tryWrites {o x0 : State} {x1 : Init} {x2 : List (Nat × Word)} (hx0 : Keeps o x0) : Keeps o (State.tryWrites x0 x1 x2).1 := by
  induction x2 generalizing x0 x1 with
  | nil =>
    exact hx0
  | cons y l ih =>
    rw [State.tryWrites]
    refine .iteP ?_ ?_
    · exact ih (.tryWrite hx0)
    · exact .tryWrite hx0

theorem Keeps.dwellParam {o x0 : State} {x1 : Nat} {x2 : List Byte} (hx0 : Keeps o x0) : Keeps o (State.dwellParam x0 x1 x2).1 := by
  unfold State.dwellParam
  extract_lets -merge +onlyGivenNames t0
  clear_value t0
  refine .iteP ?_ ?_
  · exact .tryWrites hx0
  · exact .tryWrites hx0

theorem Keeps.scheduleWrite {o x0 : State} {x1 : Nat} (hx0 : Keeps o x0) : Keeps o (State.scheduleWrite x0 x1).1 := by
  unfold State.scheduleWrite
  extract_lets -merge +onlyGivenNames t0
  clear_value t0
  exact .tryWrites hx0

theorem Keeps.fmIssue {o x0 : State} {x1 : List (List Word)} (hx0 : Keeps o x0) : Keeps o (State.fmIssue x0 x1).1 := by
  unfold State.fmIssue
  extract_lets -merge +onlyGivenNames t0 t1 t2 t4 t6
  have h3 : Keeps o (t2) := .setFld hx0
  have h5 : Keeps o (t4) := .foldl (fun h => .nextOr h (by
    refine .ite ?_ ?_
    · exact Keeps.execAssign h
    · exact Keeps.execRelease h)) h3
  clear_value t0 t1 t2 t4 t6
  exact .setFld h5

theorem Keeps.assignWrite {o x0 : State} {x1 : Nat} {x2 : List Byte} (hx0 : Keeps o x0) : Keeps o (State.assignWrite x0 x1 x2).1 := by
  unfold State.assignWrite
  refine .iteP ?_ ?_
  · exact hx0
  · refine .iteP ?_ ?_
    · exact .fmIssue hx0
    · extract_lets -merge +onlyGivenNames t0 t1 t2 t3 t4 t5 t6 t7 t9
      have h8 : Keeps o (t7) := .store hx0
      have h10 : Keeps o (t9).1 := .fmIssue h8
      clear_value t0 t1 t2 t3 t4 t5 t6 t7 t9
      refine .iteP ?_ ?_
      · exact .setOde h10
      · exact h10

theorem Keeps.shaperParam {o x0 : State} {x1 : Nat} {x2 : List Byte} (hx0 : Keeps o x0) : Keeps o (State.shaperParam x0 x1 x2).1 := by
  unfold State.shaperParam
  extract_lets -merge +onlyGivenNames t0
  clear_value t0
  refine .iteP ?_ ?_
  · exact .tryWrites hx0
  · exact .tryWrites hx0

theorem Keeps.policerWrite {o x0 : State} {x1 : Nat} {x2 : List Byte} (hx0 : Keeps o x0) : Keeps o (State.policerWrite x0 x1 x2).1 := by
  unfold State.policerWrite
  extract_lets -merge +onlyGivenNames t0 t1 t2 t3
  clear_value t0 t1 t2 t3
  refine .iteP ?_ ?_
  · exact .tryWrites hx0
  · exact .tryWrites hx0

theorem Keeps.fwOne {o x0 : State} {x1 : Nat} {x2 : Nat} {x3 : List Byte} (hx0 : Keeps o x0) : KeepsOpt1 o (State.fwOne x0 x1 x2 x3) := by
  unfold State.fwOne
  extract_lets -merge +onlyGivenNames t0
  clear_value t0
  refine .ite ?_ ?_
  · exact .some (.gtuParamWrite hx0)
  · refine .ite ?_ ?_
    · exact .some (.gtuParamWrite hx0)
    · refine .ite ?_ ?_
      · exact .some (.gtuParamWrite hx0)
      · refine .ite ?_ ?_
        · exact .some (.gtuParamWrite hx0)
        · refine .ite ?_ ?_
          · exact .some (.tryWrites hx0)
          · refine .ite ?_ ?_
            · exact .some (.dwellParam hx0)
            · refine .ite ?_ ?_
              · exact .some (.scheduleWrite hx0)
              · refine .ite ?_ ?_
                · exact .some (.assignWrite hx0)
                · refine .ite ?_ ?_
                  · exact .some (.tryWrites hx0)
                  · refine .ite ?_ ?_
                    · exact .some (.tryWrites hx0)
                    · refine .ite ?_ ?_
                      · exact .some (.tryWrites hx0)
                      · refine .ite ?_ ?_
                        · extract_lets -merge +onlyGivenNames t1
                          clear_value t1
                          exact .some (.tryWrites hx0)
                        · refine .ite ?_ ?_
                          · exact .some (.tryWrites hx0)
                          · refine .ite ?_ ?_
                            · exact .some (.tryWrites hx0)
                            · refine .ite ?_ ?_
                              · exact .some (.tryWrites hx0)
                              · refine .ite ?_ ?_
                                · exact .some (.tryWrites hx0)
                                · refine .ite ?_ ?_
                                  · exact .some (.shaperParam hx0)
                                  · refine .ite ?_ ?_
                                    · exact .some (.policerWrite hx0)
                                    · exact .none

theorem Keeps.fwElems {o x0 : State} {x1 : Desc} {x2 : List (Nat × List Byte)} (hx0 : Keeps o x0) :
    KeepsOpt1 o (State.fwElems x0 x1 x2) := by
  induction x2 generalizing x0 x1 with
  | nil => exact .some hx0
  | cons y l ih =>
    rw [State.fwElems]
    have h : KeepsOpt1 o (if fwKept x1.num then some (x0, St.OK) else x0.fwOne x1.num y.1 y.2) :=
      .ite (.some hx0) (Keeps.fwOne hx0)
    split
    · exact .none
    · rename_i r e
      exact .ite (ih (.setFwVal (h _ e))) (.some (h _ e))

theorem Keeps.notchSelect {o x0 : State} {x1 : Desc} {x2 : List Byte} (hx0 : Keeps o x0) : Keeps o (State.notchSelect x0 x1 x2) := by
  unfold State.notchSelect
  extract_lets -merge +onlyGivenNames t0
  have h2 : ∀ {y0} {y1}, Keeps o y0 → Keeps o (t0 y0 y1) := fun h1 => .tryWrites h1
  clear_value t0
  exact h2 (h2 (h2 hx0))

theorem Keeps.fwWrite {o x0 : State} {x1 : Desc} {x2 : List (Nat × List Byte)} (hx0 : Keeps o x0) : KeepsOpt1 o (State.fwWrite x0 x1 x2) := by
  unfold State.fwWrite
  refine .ite ?_ ?_
  · exact .some hx0
  · split
    · exact .none
    · refine .ite ?_ ?_
      · exact .some (.notchSelect ((Keeps.fwElems hx0) _ (by assumption)))
      · exact .some ((Keeps.fwElems hx0) _ (by assumption))

theorem Keeps.fwDrop {o x0 : State} {x1 : Nat} (hx0 : Keeps o x0) : Keeps o (State.fwDrop x0 x1) :=
  .setOde hx0

theorem Keeps.mcRead {o x0 : State} {x1 : Nat} (hx0 : Keeps o x0) : Keeps o (State.mcRead x0 x1).1 := by
  unfold State.mcRead
  extract_lets -merge +onlyGivenNames t0
  have h1 : Keeps o (t0).1 := .taken (.regRead hx0)
  clear_value t0
  exact h1

theorem Keeps.saCounts {o x0 : State} {x1 : Nat} (hx0 : Keeps o x0) : Keeps o (State.saCounts x0 x1).1 := by
  unfold State.saCounts
  exact .used hx0

theorem Keeps.fwRead {o x0 : State} {x1 : Desc} {x2 : Nat} (hx0 : Keeps o x0) : Keeps o (State.fwRead x0 x1 x2).1 := by
  unfold State.fwRead
  extract_lets -merge +onlyGivenNames t0
  clear_value t0
  split
  · extract_lets -merge +onlyGivenNames t1 t3
    have h2 : Keeps o (t1).1 := .mcRead hx0
    clear_value t1 t3
    exact h2
  · refine .iteP ?_ ?_
    · extract_lets -merge +onlyGivenNames t4
      have h5 : Keeps o (t4).1 := .saCounts hx0
      clear_value t4
      exact h5
    · split
      · exact hx0
      · exact hx0

theorem Keeps.fwPost {o x0 : State} {x1 : Desc} {x2 : Nat} {x3 : Nat} {x4 : Nat} {x5 : List Byte} (hx0 : Keeps o x0) : Keeps o (State.fwPost x0 x1 x2 x3 x4 x5).1 := by
  unfold State.fwPost
  extract_lets -merge +onlyGivenNames t0 t1
  clear_value t0 t1
  exact .setOde hx0

theorem Keeps.fwPostQuiet {o x0 : State} {x1 : Desc} {x2 : Nat} {x3 : List Byte} (hx0 : Keeps o x0) : Keeps o (State.fwPostQuiet x0 x1 x2 x3) := by
  unfold State.fwPostQuiet
  extract_lets -merge +onlyGivenNames t0
  have h1 : Keeps o (t0).1 := .fwPost hx0
  clear_value t0
  exact .setOde h1

/-! OdeAccess -/

theorem Keeps.jKeep {o x0 : State} (hx0 : Keeps o x0) : Keeps o (State.jKeep x0) :=
  .wf hx0

theorem Keeps.journal {o x0 : State} {x1 : List (Desc × Nat × List Byte)} (hx0 : Keeps o x0) : Keeps o (State.journal x0 x1) := by
  unfold State.journal
  extract_lets -merge +onlyGivenNames t0
  clear_value t0
  refine .ite ?_ ?_
  · exact hx0
  · extract_lets -merge +onlyGivenNames t1
    clear_value t1
    exact .jKeep (.setOde hx0)

theorem Keeps.wrote {o x0 : State} {x1 : List (Desc × Nat × List Byte)} (hx0 : Keeps o x0) : Keeps o (State.wrote x0 x1) :=
  .ite (.journal (.wb hx0)) (.journal hx0)

theorem Keeps.readElems {o x0 : State} {x1 : Desc} {x2 : List Nat} (hx0 : Keeps o x0) : Keeps o (State.readElems x0 x1 x2).1 := by
  induction x2 generalizing x0 x1 with
  | nil =>
    exact hx0
  | cons y l ih =>
    rw [State.readElems]
    split
    · exact ih (by
        refine .iteP ?_ ?_
        · exact .fwRead hx0
        · exact .elemRead hx0)
    · exact ih (by
        refine .iteP ?_ ?_
        · exact .fwRead hx0
        · exact .elemRead hx0)

theorem Keeps.readParam {o x0 : State} {x1 : Desc} {x2 : Nat} {x3 : List Nat} (hx0 : Keeps o x0) : Keeps o (State.readParam x0 x1 x2 x3).1 := by
  unfold State.readParam
  extract_lets -merge +onlyGivenNames t0
  have h1 : Keeps o (t0).1 := .readElems hx0
  clear_value t0
  split
  · exact h1
  · refine .iteP ?_ ?_
    · extract_lets -merge +onlyGivenNames t2
      have h3 : Keeps o (t2).1 := .fwPost hx0
      clear_value t2
      exact h3
    · exact h1

theorem Keeps.applyOps {o x0 : State} {x1 : List RegOp} (hx0 : Keeps o x0) : Keeps o (State.applyOps x0 x1).1 := by
  induction x1 generalizing x0 with
  | nil =>
    exact hx0
  | cons y l ih =>
    rw [State.applyOps]
    split
    · extract_lets -merge +onlyGivenNames t0
      have h1 : Keeps o (t0).1 := ih (.taken (.regRead hx0))
      clear_value t0
      exact h1
    · extract_lets -merge +onlyGivenNames t2 t4
      have h3 : Keeps o (t2).1 := .tryWrite (.taken (.regRead hx0))
      have h5 : Keeps o (t4).1 := ih h3
      clear_value t2 t4
      refine .iteP ?_ ?_
      · exact h5
      · exact h5

theorem Keeps.undo {o x0 : State} {x1 : List (Nat × Word)} (hx0 : Keeps o x0) : Keeps o (State.undo x0 x1) := by
  induction x1 generalizing x0 with
  | nil =>
    exact hx0
  | cons y l ih =>
    rw [State.undo]
    exact ih (.regWrite hx0)

theorem Keeps.applyStore {o x0 : State} {x1 : List (Desc × Nat × List Byte)} (hx0 : Keeps o x0) : Keeps o (State.applyStore x0 x1) := by
  induction x1 generalizing x0 with
  | nil =>
    exact hx0
  | cons y l ih =>
    rw [State.applyStore]
    exact ih (.ite (.storeWrite hx0) hx0)

theorem Keeps.applyAll {o x0 : State} {x1 : Entries} (hx0 : Keeps o x0) : Keeps o (State.applyAll x0 x1).1 := by
  unfold State.applyAll
  extract_lets -merge +onlyGivenNames t0
  have h1 : Keeps o (t0).1 := .applyOps hx0
  clear_value t0
  split
  · exact .undo h1
  · exact .applyStore h1

end Sys2Proof.Machine
end

