-- ==== Sys2Proof/Laws/Keeps8.lean ====
section
/-! SUPPORT. What every operation keeps (`Keeps`), one lemma for each: OdeJournal, OdeDigest, OdeHdp, OdeIo, OdeCmd, Bus, DmaMove. -/

set_option Elab.async false

namespace Sys2Proof.Machine

/-! OdeJournal -/

theorem Keeps.retire {o x0 : State} {x1 : Nat} (hx0 : Keeps o x0) : Keeps o (State.retire x0 x1) :=
  .bump (.setOde hx0)

theorem Keeps.jPut {o x0 : State} {x1 : Nat} {x2 : List Nat} (hx0 : Keeps o x0) : Keeps o (State.jPut x0 x1 x2) := by
  unfold State.jPut
  extract_lets -merge +onlyGivenNames t0 t1
  have h2 : Keeps o (t1) := .flashOps (.pairWrite hx0)
  clear_value t0 t1
  exact .setOde h2

theorem Keeps.jPutGroup {o x0 : State} {x1 : List JVal} (hx0 : Keeps o x0) : Keeps o (State.jPutGroup x0 x1) := by
  unfold State.jPutGroup
  extract_lets -merge +onlyGivenNames t0
  have h1 : Keeps o (t0) := .foldl (fun h => .jPut h) hx0
  clear_value t0
  exact .ite (.jPut h1) h1

theorem Keeps.restoreOwn {o x0 : State} {x1 : JVal} (hx0 : Keeps o x0) : Keeps o (State.restoreOwn x0 x1) :=
  .ite (.foldl (fun h => .setRegN h) hx0) (.ite (.setRegN hx0) (.wb hx0))

theorem Keeps.jSkip {o x0 : State} {x1 : Nat} (hx0 : Keeps o x0) : Keeps o (State.jSkip x0 x1) :=
  .bumpBy hx0

theorem Keeps.jCheck {o x0 : State} {x1 : List JVal} (hx0 : Keeps o x0) : Keeps o (State.jCheck x0 x1).1 := by
  induction x1 generalizing x0 with
  | nil =>
    exact hx0
  | cons y l ih =>
    rw [State.jCheck]
    split
    · exact ih (.jSkip hx0)
    · split
      · exact ih (.jSkip hx0)
      · extract_lets -merge +onlyGivenNames t0
        have h1 : Keeps o (t0).1 := ih hx0
        clear_value t0
        exact h1

theorem Keeps.fwGive {o x0 : State} {x1 : Desc} {x2 : Nat} {x3 : List (Nat × List Byte)} (hx0 : Keeps o x0) : Keeps o (State.fwGive x0 x1 x2 x3) := by
  unfold State.fwGive
  split
  · exact .ite ((Keeps.fwWrite hx0) _ (by assumption)) (.jSkip ((Keeps.fwWrite hx0) _ (by assumption)))
  · exact .fwPostQuiet hx0

theorem Keeps.jApply {o x0 : State} {x1 : List JVal} (hx0 : Keeps o x0) : Keeps o (State.jApply x0 x1) := by
  unfold State.jApply
  extract_lets -merge +onlyGivenNames t0 t2 t4 t6
  have h1 : Keeps o (t0) := .foldl (fun h => .restoreOwn h) hx0
  have h3 : Keeps o (t2).1 := .jCheck h1
  have h5 : Keeps o (t4).1 := .applyAll h3
  have h7 : Keeps o (t6) := .ite (.jSkip h5) h5
  clear_value t0 t2 t4 t6
  exact .foldl (fun h => .fwGive h) h7

theorem Keeps.jReplayGroup {o x0 : State} {x1 : List JVal} (hx0 : Keeps o x0) : Keeps o (State.jReplayGroup x0 x1) := by
  unfold State.jReplayGroup
  extract_lets -merge +onlyGivenNames t0 t1
  have h2 : Keeps o (t1) := .setOde hx0
  clear_value t0 t1
  exact .jApply h2

theorem Keeps.heldApply {o x0 : State} (hx0 : Keeps o x0) : Keeps o (State.heldApply x0) := by
  unfold State.heldApply
  extract_lets -merge +onlyGivenNames t0 t1
  clear_value t0 t1
  exact .foldl (fun h => .jApply h) (.setOde hx0)

theorem Keeps.execHeldValuesApply {o x0 : State} (hx0 : Keeps o x0) : KeepsOut o (execHeldValuesApply x0) := by
  unfold Sys2Proof.Machine.execHeldValuesApply
  refine .ite ?_ ?_
  · exact .next hx0
  · exact .next (.heldApply hx0)

theorem Keeps.jDrain {o x0 : State} {x1 : List (List JVal)} (hx0 : Keeps o x0) : Keeps o (State.jDrain x0 x1) := by
  induction x1 generalizing x0 with
  | nil =>
    exact hx0
  | cons y l ih =>
    rw [State.jDrain]
    exact .ite (.wf hx0) (ih (.setOde (.jPutGroup hx0)))

theorem Keeps.putDefaults {o x0 : State} {x1 : Desc} (hx0 : Keeps o x0) : Keeps o (State.putDefaults x0 x1) := by
  unfold State.putDefaults
  extract_lets -merge +onlyGivenNames t0 t1
  clear_value t0 t1
  exact .ite (.ite hx0 (.applyOps hx0)) (.ite (.foldl (fun h => .storeWrite h) hx0) hx0)

theorem Keeps.jReplay {o x0 : State} (hx0 : Keeps o x0) : Keeps o (State.jReplay x0) := by
  unfold State.jReplay
  extract_lets -merge +onlyGivenNames t0 t1 t2 t3 t4 t6 t8 t10 t12
  have h5 : Keeps o (t4) := .wf hx0
  have h7 : Keeps o (t6) := .setRegN h5
  have h9 : Keeps o (t8) := by
    unfold t8
    clear_value t0 t1 t2 t3
    split
    · exact .wf (.setOde (.wf h7))
    · exact .setOde h7
  have h11 : Keeps o (t10) := .setOde h9
  have h13 : Keeps o (t12) := .foldl (fun h => .raise (.bump h)) h11
  clear_value t0 t1 t2 t3 t4 t6 t8 t10 t12
  exact .foldl (fun h => .jReplayGroup h) h13

theorem Keeps.execDictionaryImageLoad {o x0 : State} (hx0 : Keeps o x0) : KeepsOut o (execDictionaryImageLoad x0) := by
  unfold Sys2Proof.Machine.execDictionaryImageLoad
  refine .ite ?_ ?_
  · exact .next hx0
  · refine .ite ?_ ?_
    · exact .next (.refuse (.used hx0))
    · extract_lets -merge +onlyGivenNames t0 t2 t4
      have h1 : Keeps o (t0) := .setRegN (.wf hx0)
      have h3 : Keeps o (t2) := .foldl (fun h => .putDefaults h) h1
      have h5 : Keeps o (t4) := .jKeep (.jReplay h3)
      clear_value t0 t2 t4
      exact .next (.stepsTo h5)

theorem Keeps.jFail {o x0 : State} (hx0 : Keeps o x0) : Keeps o (State.jFail x0) :=
  .raise (.wf hx0)

theorem Keeps.jStart {o x0 : State} {x1 : Nat} (hx0 : Keeps o x0) : Keeps o (State.jStart x0 x1) := by
  unfold State.jStart
  extract_lets -merge +onlyGivenNames t0 t1 t2 t3 t4 t5 t7 t9 t11 t13 t15 t17
  have h6 : Keeps o (t5) := .wf (.flashOps (.flashErase hx0))
  have h8 : Keeps o (t7) := .setOde h6
  have h10 : Keeps o (t9) := .jPut h8
  have h12 : Keeps o (t11) := .foldl (fun h => .jPut h) h10
  have h14 : Keeps o (t13) := .jPut h12
  have h16 : Keeps o (t15) := .setOde h14
  have h18 : Keeps o (t17) := .wf (.setRegN h16)
  clear_value t0 t1 t2 t3 t4 t5 t7 t9 t11 t13 t15 t17
  exact .ite (.raise h18) h18

theorem Keeps.jCompact {o x0 : State} {x1 : Nat} (hx0 : Keeps o x0) : Keeps o (State.jCompact x0 x1) := by
  induction x1 generalizing x0 with
  | zero =>
    rw [State.jCompact]
    split
    · exact .jFail hx0
    · extract_lets -merge +onlyGivenNames t0
      clear_value t0
      exact .ite (.jFail hx0) (.jStart hx0)
  | succ n ih =>
    rw [State.jCompact]
    split
    · exact .jFail hx0
    · exact ih (.retire hx0)

theorem Keeps.execJournalCompact {o : State} {x0 : Nat} {x1 : State} (hx1 : Keeps o x1) : KeepsOut o (execJournalCompact x0 x1) := by
  unfold Sys2Proof.Machine.execJournalCompact
  refine .ite ?_ ?_
  · exact .next (.jKeep (.jCompact hx1))
  · exact .next hx1

theorem Keeps.execJournalCommit {o : State} {x0 : Bool} {x1 : State} (hx1 : Keeps o x1) : KeepsOut o (execJournalCommit x0 x1) := by
  unfold Sys2Proof.Machine.execJournalCommit
  refine .ite ?_ ?_
  · exact .next hx1
  · refine .ite ?_ ?_
    · exact .next (.wf (.retire hx1))
    · exact .next (.jKeep (.jDrain hx1))

/-! OdeDigest -/

theorem Keeps.commitTo {o x0 : State} {x1 : Nat} {x2 : List Byte} (hx0 : Keeps o x0) : Keeps o (State.commitTo x0 x1 x2) := by
  unfold State.commitTo
  extract_lets -merge +onlyGivenNames t0 t2 t4
  have h1 : Keeps o (t0) := .foldl (fun h => .setRegN h) hx0
  have h3 : Keeps o (t2) := .wb (.setRegN h1)
  have h5 : Keeps o (t4) := .raise (.journal h3)
  clear_value t0 t2 t4
  exact .extendMr h5

theorem Keeps.commit {o x0 : State} {x1 : Nat} (hx0 : Keeps o x0) : Keeps o (State.commit x0 x1).1 := by
  unfold State.commit
  refine .iteP ?_ ?_
  · exact .commitTo hx0
  · exact hx0

theorem Keeps.pullEnd {o x0 : State} {x1 : Bool} {x2 : Nat} (hx0 : Keeps o x0) : Keeps o (State.pullEnd x0 x1 x2) := by
  unfold State.pullEnd
  extract_lets -merge +onlyGivenNames t0
  have h1 : Keeps o (t0) := .setOde hx0
  clear_value t0
  exact .raise (.bump h1)

theorem Keeps.pullApply {o x0 : State} {x1 : Entries} (hx0 : Keeps o x0) : Keeps o (State.pullApply x0 x1) := by
  unfold State.pullApply
  extract_lets -merge +onlyGivenNames t0 t2
  have h1 : Keeps o (t0).1 := .applyAll hx0
  have h3 : Keeps o (t2) := .ite h1 (.journal h1)
  clear_value t0 t2
  exact .foldl (fun h => by
    split
    · exact .ite (.journal ((Keeps.fwWrite h) _ (by assumption))) ((Keeps.fwWrite h) _ (by assumption))
    · exact .foldl (fun h => .fwPostQuiet h) h) h3

theorem Keeps.pullAll {o x0 : State} {x1 : Nat} {x2 : Entries} (hx0 : Keeps o x0) : Keeps o (State.pullAll x0 x1 x2) := by
  induction x1 generalizing x0 x2 with
  | zero =>
    exact hx0
  | succ n ih =>
    rw [State.pullAll]
    exact .ite hx0 (ih (.pullApply hx0))

theorem Keeps.pull {o x0 : State} {x1 : Nat} {x2 : PullIn} (hx0 : Keeps o x0) : Keeps o (State.pull x0 x1 x2) := by
  unfold State.pull
  extract_lets -merge +onlyGivenNames t0 t1
  clear_value t0 t1
  split
  · exact .pullEnd hx0
  · extract_lets -merge +onlyGivenNames t2
    clear_value t2
    refine .ite ?_ ?_
    · exact .pullEnd hx0
    · refine .ite ?_ ?_
      · exact .pullEnd (.errSet hx0)
      · extract_lets -merge +onlyGivenNames t3
        have h4 : Keeps o (t3) := .pullAll hx0
        clear_value t3
        exact .pullEnd (.commitTo h4)

theorem Keeps.execDigestPull {o : State} {x0 : PullIn} {x1 : State} (hx1 : Keeps o x1) : KeepsOut o (execDigestPull x0 x1) := by
  unfold Sys2Proof.Machine.execDigestPull
  split
  · exact .next hx1
  · refine .ite ?_ ?_
    · exact .next hx1
    · extract_lets -merge +onlyGivenNames t0
      have h1 : Keeps o (t0) := .setOde hx1
      clear_value t0
      refine .ite ?_ ?_
      · exact .next (.pull h1)
      · exact .next h1

theorem Keeps.execPullRetry {o : State} {x0 : PullIn} {x1 : State} (hx1 : Keeps o x1) : KeepsOut o (execPullRetry x0 x1) := by
  unfold Sys2Proof.Machine.execPullRetry
  split
  · exact .next hx1
  · refine .ite ?_ ?_
    · exact .next hx1
    · extract_lets -merge +onlyGivenNames t0
      have h1 : Keeps o (t0) := .setOde hx1
      clear_value t0
      refine .ite ?_ ?_
      · exact .next (.pull h1)
      · exact .next h1

/-! OdeHdp -/

theorem Keeps.fwTook {o x0 : State} {x1 : FwReq} {x2 : Bool} (hx0 : Keeps o x0) : Keeps o (State.fwTook x0 x1 x2) := by
  unfold State.fwTook
  split
  · exact hx0
  · extract_lets -merge +onlyGivenNames t0
    have h1 : Keeps o (t0) := .foldl (fun h => .setFwVal h) hx0
    clear_value t0
    exact .ite (.wrote h1) (.journal h1)

theorem Keeps.reqDone {o x0 : State} (hx0 : Keeps o x0) : Keeps o (State.reqDone x0) :=
  .odeKeep (.setOde hx0)

theorem Keeps.noteStatus {o x0 : State} {x1 : Nat} (hx0 : Keeps o x0) : Keeps o (State.noteStatus x0 x1) :=
  .ite (.raise (.bump hx0)) (.ite (.raise hx0) (.ite (.bump hx0) hx0))

theorem Keeps.setSession {o x0 : State} {x1 : Nat} {x2 : Session → Session} (hx0 : Keeps o x0) : Keeps o (State.setSession x0 x1 x2) :=
  .setSessions hx0

theorem Keeps.reply {o x0 : State} {x1 : OdeReq} {x2 : Nat} {x3 : Nat} {x4 : List Byte} (hx0 : Keeps o x0) : Keeps o (State.reply x0 x1 x2 x3 x4) := by
  unfold State.reply
  extract_lets -merge +onlyGivenNames t0
  have h1 : Keeps o (t0) := .reqDone (.noteStatus (.bump hx0))
  clear_value t0
  split
  · exact h1
  · split
    · exact h1
    · exact .pduOut (.setSession h1)

theorem Keeps.replySt {o x0 : State} {x1 : OdeReq} {x2 : Nat} (hx0 : Keeps o x0) : Keeps o (State.replySt x0 x1 x2) :=
  .reply hx0

theorem Keeps.reqStart {o x0 : State} {x1 : OdeReq} (hx0 : Keeps o x0) : Keeps o (State.reqStart x0 x1) :=
  .odeKeep (.setOde hx0)

theorem Keeps.readRefs {o x0 : State} {x1 : OdeReq} {x2 : List Byte} {x3 : List Nat} (hx0 : Keeps o x0) : Keeps o (State.readRefs x0 x1 x2 x3) := by
  induction x3 generalizing x0 x1 x2 with
  | nil =>
    exact .ite (.replySt hx0) (.reply hx0)
  | cons y l ih =>
    rw [State.readRefs]
    split
    · exact ih (.noteStatus hx0)
    · extract_lets -merge +onlyGivenNames t0
      have h1 : Keeps o (t0).1 := .readParam hx0
      clear_value t0
      split
      · exact ih h1
      · exact ih h1
      · exact .reqStart h1

theorem Keeps.replyInvoke {o x0 : State} {x1 : OdeReq} {x2 : Nat} {x3 : List Byte} (hx0 : Keeps o x0) : Keeps o (State.replyInvoke x0 x1 x2 x3) :=
  .reply hx0

theorem Keeps.fwDone {o x0 : State} {x1 : FwReq} {x2 : Nat} {x3 : List Byte} (hx0 : Keeps o x0) : Keeps o (State.fwDone x0 x1 x2 x3) := by
  unfold State.fwDone
  extract_lets -merge +onlyGivenNames t0
  have h1 : Keeps o (t0) := .fwDrop hx0
  clear_value t0
  split
  · exact .ite (.fwTook h1) h1
  · extract_lets -merge +onlyGivenNames t2
    clear_value t2
    refine .ite ?_ ?_
    · extract_lets -merge +onlyGivenNames t3
      clear_value t3
      exact .readRefs (.noteStatus h1)
    · exact .ite (.replySt h1) (.ite (.replySt (.fwTook h1)) (.replyInvoke h1))

theorem Keeps.hdpDescribe {o x0 : State} {x1 : OdeReq} (hx0 : Keeps o x0) : Keeps o (State.hdpDescribe x0 x1) := by
  unfold State.hdpDescribe
  extract_lets -merge +onlyGivenNames t0
  clear_value t0
  refine .ite ?_ ?_
  · exact .replySt hx0
  · split
    · exact .replySt hx0
    · extract_lets -merge +onlyGivenNames t1
      clear_value t1
      split
      · exact .replySt hx0
      · exact .reply hx0

theorem Keeps.replyPlain {o x0 : State} {x1 : OdeReq} {x2 : Nat} {x3 : Nat} {x4 : List Byte} (hx0 : Keeps o x0) : Keeps o (State.replyPlain x0 x1 x2 x3 x4) :=
  .pduOut (.reqDone (.noteStatus (.bump (.used hx0))))

theorem Keeps.replyBad {o x0 : State} {x1 : Session} {x2 : OdeReq} (hx0 : Keeps o x0) : Keeps o (State.replyBad x0 x1 x2) := by
  unfold State.replyBad
  extract_lets -merge +onlyGivenNames t0
  have h1 : Keeps o (t0) := .noteStatus (.bump hx0)
  clear_value t0
  split
  · exact h1
  · exact .pduOut (.setSession h1)

theorem Keeps.endSession {o x0 : State} {x1 : Nat} (hx0 : Keeps o x0) : Keeps o (State.endSession x0 x1) :=
  .setSessions hx0

theorem Keeps.tagFail {o x0 : State} (hx0 : Keeps o x0) : Keeps o (State.tagFail x0) :=
  .raise (.bump hx0)

theorem Keeps.authFail {o x0 : State} {x1 : OdeReq} (hx0 : Keeps o x0) : Keeps o (State.authFail x0 x1) := by
  unfold State.authFail
  extract_lets -merge +onlyGivenNames t0 t1
  have h2 : Keeps o (t1) := .setOde hx0
  clear_value t0 t1
  exact .replyPlain (.endSession (.tagFail h2))

theorem Keeps.anchorWrite {o x0 : State} {x1 : Entries} (hx0 : Keeps o x0) : Keeps o (State.anchorWrite x0 x1) := by
  unfold State.anchorWrite
  extract_lets -merge +onlyGivenNames t0 t1
  have h2 : Keeps o (t1) := .foldl (fun h => .foldl (fun h => .setFwVal h) h) hx0
  clear_value t0 t1
  exact .ite (.setOde h2) h2

theorem Keeps.withReq {o x0 : State} {x1 : Nat} {x2 : State → OdeReq → State} (hx0 : Keeps o x0) (hx2 : ∀ {y0} {y1}, Keeps o y0 → Keeps o (x2 y0 y1)) : Keeps o (State.withReq x0 x1 x2) := by
  unfold State.withReq
  split
  · exact .ite (hx2 hx0) hx0
  · exact hx0

theorem Keeps.bare {o x0 : State} {x1 : OdeReq} {x2 : State → State} (hx0 : Keeps o x0) (hx2 : ∀ {y0}, Keeps o y0 → Keeps o (x2 y0)) : Keeps o (State.bare x0 x1 x2) :=
  .ite (hx2 hx0) (.replySt hx0)

theorem Keeps.execHdpPing {o x0 : State} (hx0 : Keeps o x0) : KeepsOut o (execHdpPing x0) := by
  unfold Sys2Proof.Machine.execHdpPing
  exact .next (.withReq hx0 (fun h0 => .bare h0 (fun h1 => .replySt h1)))

theorem Keeps.hdpRead {o x0 : State} {x1 : OdeReq} (hx0 : Keeps o x0) : Keeps o (State.hdpRead x0 x1) := by
  unfold State.hdpRead
  extract_lets -merge +onlyGivenNames t0
  clear_value t0
  exact .ite (.replySt hx0) (.readRefs hx0)

theorem Keeps.openSession {o x0 : State} {x1 : OdeReq} {x2 : Nat} {x3 : Nat} {x4 : Bool} {x5 : Bool} (hx0 : Keeps o x0) : Keeps o (State.openSession x0 x1 x2 x3 x4 x5) := by
  unfold State.openSession
  extract_lets -merge +onlyGivenNames t0 t1 t3
  have h2 : Keeps o (t1).1 := .draw (.used hx0)
  clear_value t0 t1 t3
  exact .replyPlain (.setSessions h2)

theorem Keeps.takeFirst {o x0 : State} {x1 : List Byte} {x2 : OdeReq} (hx0 : Keeps o x0) : Keeps o (State.takeFirst x0 x1 x2) := by
  unfold State.takeFirst
  refine .ite ?_ ?_
  · exact hx0
  · refine .ite ?_ ?_
    · exact .replyPlain hx0
    · split
      · exact .replyPlain hx0
      · exact .reqStart hx0

theorem Keeps.takeOpen {o x0 : State} {x1 : Session} {x2 : List Byte} {x3 : OdeReq} (hx0 : Keeps o x0) : Keeps o (State.takeOpen x0 x1 x2 x3) := by
  unfold State.takeOpen
  refine .ite ?_ ?_
  · exact .replyBad hx0
  · refine .ite ?_ ?_
    · exact .pduOut hx0
    · refine .ite ?_ ?_
      · exact .raise (.bump hx0)
      · extract_lets -merge +onlyGivenNames t0
        have h1 : Keeps o (t0) := .setSession hx0
        clear_value t0
        split
        · exact .replySt h1
        · exact .ite (.replySt h1) (.reqStart h1)

theorem Keeps.pduTake {o x0 : State} {x1 : Nat} {x2 : List Byte} (hx0 : Keeps o x0) : Keeps o (State.pduTake x0 x1 x2) := by
  unfold State.pduTake
  extract_lets -merge +onlyGivenNames t0
  clear_value t0
  refine .ite ?_ ?_
  · exact hx0
  · refine .ite ?_ ?_
    · exact .takeFirst hx0
    · split
      · exact hx0
      · refine .ite ?_ ?_
        · exact hx0
        · refine .ite ?_ ?_
          · exact .ite (.takeFirst hx0) hx0
          · refine .ite ?_ ?_
            · exact .takeOpen hx0
            · split
              · exact .tagFail hx0
              · extract_lets -merge +onlyGivenNames t1
                clear_value t1
                exact .ite (.takeOpen hx0) (.tagFail hx0)

theorem Keeps.execHdpPduReceive {o x0 : State} (hx0 : Keeps o x0) : KeepsOut o (execHdpPduReceive x0) := by
  unfold Sys2Proof.Machine.execHdpPduReceive
  refine .ite ?_ ?_
  · exact .next hx0
  · split
    · exact .next hx0
    · extract_lets -merge +onlyGivenNames t0
      have h1 : Keeps o (t0) := .heldApply (.setOde hx0)
      clear_value t0
      exact .next (.odeKeep (.pduTake h1))

theorem Keeps.postReq {o x0 : State} {x1 : OdeReq} {x2 : Desc} {x3 : Nat} {x4 : Nat} {x5 : Nat} {x6 : List Byte} (hx0 : Keeps o x0) : Keeps o (State.postReq x0 x1 x2 x3 x4 x5 x6) := by
  unfold State.postReq
  refine .ite ?_ ?_
  · exact .replySt hx0
  · extract_lets -merge +onlyGivenNames t0
    have h1 : Keeps o (t0).1 := .fwPost hx0
    clear_value t0
    exact .reqStart h1

theorem Keeps.hdpInvoke {o x0 : State} {x1 : OdeReq} (hx0 : Keeps o x0) : Keeps o (State.hdpInvoke x0 x1) := by
  unfold State.hdpInvoke
  split
  · split
    · exact .replySt hx0
    · refine .ite ?_ ?_
      · exact .postReq hx0
      · extract_lets -merge +onlyGivenNames t0 t1
        have h2 : Keeps o (t1).1 := .applyAll hx0
        clear_value t0 t1
        split
        · exact .reply h2
        · exact .replyInvoke h2
  · exact .replySt hx0

theorem Keeps.execHdpInvoke {o x0 : State} (hx0 : Keeps o x0) : KeepsOut o (execHdpInvoke x0) := by
  unfold Sys2Proof.Machine.execHdpInvoke
  exact .next (.withReq hx0 (fun h0 => .hdpInvoke h0))

theorem Keeps.execHdpClose {o x0 : State} (hx0 : Keeps o x0) : KeepsOut o (execHdpClose x0) := by
  unfold Sys2Proof.Machine.execHdpClose
  exact .next (.withReq hx0 (fun h0 => .bare h0 (fun h1 => .endSession (.replySt h1))))

theorem Keeps.execHdpRead {o x0 : State} (hx0 : Keeps o x0) : KeepsOut o (execHdpRead x0) := by
  unfold Sys2Proof.Machine.execHdpRead
  exact .next (.withReq hx0 (fun h0 => .hdpRead h0))

theorem Keeps.hdpOpen {o x0 : State} {x1 : OdeReq} (hx0 : Keeps o x0) : Keeps o (State.hdpOpen x0 x1) := by
  unfold State.hdpOpen
  extract_lets -merge +onlyGivenNames t0 t1 t2 t3 t4 t5
  have h6 : ∀ {y0}, Keeps o (t5 y0) := .replyPlain hx0
  clear_value t0 t1 t2 t3 t4 t5
  exact .ite (h6 ) (.ite (h6 ) (.ite (h6 ) (.ite (.ite (h6 ) (.openSession hx0)) (.ite (.openSession hx0) (h6 )))))

theorem Keeps.execHdpOpen {o x0 : State} (hx0 : Keeps o x0) : KeepsOut o (execHdpOpen x0) := by
  unfold Sys2Proof.Machine.execHdpOpen
  exact .next (.withReq hx0 (fun h0 => .hdpOpen h0))

theorem Keeps.hdpAuth {o x0 : State} {x1 : OdeReq} (hx0 : Keeps o x0) : Keeps o (State.hdpAuth x0 x1) := by
  unfold State.hdpAuth
  split
  · exact .reqDone hx0
  · extract_lets -merge +onlyGivenNames t0 t1
    clear_value t0 t1
    refine .ite ?_ ?_
    · exact .replySt hx0
    · refine .ite ?_ ?_
      · exact .replyPlain hx0
      · split
        · exact .authFail hx0
        · refine .ite ?_ ?_
          · extract_lets -merge +onlyGivenNames t2
            have h3 : Keeps o (t2) := .setOde hx0
            clear_value t2
            exact .setSession (.replyPlain h3)
          · exact .authFail hx0

theorem Keeps.execHdpAuth {o x0 : State} (hx0 : Keeps o x0) : KeepsOut o (execHdpAuth x0) := by
  unfold Sys2Proof.Machine.execHdpAuth
  exact .next (.withReq hx0 (fun h0 => .hdpAuth h0))

theorem Keeps.writeParam {o x0 : State} {x1 : OdeReq} {x2 : Desc} {x3 : Nat} {x4 : Nat} {x5 : List Byte} {x6 : List (Nat × List Byte)} (hx0 : Keeps o x0) : Keeps o (State.writeParam x0 x1 x2 x3 x4 x5 x6) := by
  unfold State.writeParam
  refine .ite ?_ ?_
  · split
    · exact .postReq hx0
    · exact .ite (.replySt (.wrote ((Keeps.fwWrite hx0) _ (by assumption)))) (.replySt ((Keeps.fwWrite hx0) _ (by assumption)))
  · extract_lets -merge +onlyGivenNames t0
    have h1 : Keeps o (t0).1 := .applyAll hx0
    clear_value t0
    split
    · exact .reply h1
    · exact .replySt (.wrote h1)

theorem Keeps.hdpWrite {o x0 : State} {x1 : OdeReq} (hx0 : Keeps o x0) : Keeps o (State.hdpWrite x0 x1) := by
  unfold State.hdpWrite
  split
  · split
    · exact .replySt hx0
    · exact .writeParam hx0
  · exact .replySt hx0

theorem Keeps.execHdpWrite {o x0 : State} (hx0 : Keeps o x0) : KeepsOut o (execHdpWrite x0) := by
  unfold Sys2Proof.Machine.execHdpWrite
  exact .next (.withReq hx0 (fun h0 => .hdpWrite h0))

theorem Keeps.hdpWriteMulti {o x0 : State} {x1 : OdeReq} (hx0 : Keeps o x0) : Keeps o (State.hdpWriteMulti x0 x1) := by
  unfold State.hdpWriteMulti
  extract_lets -merge +onlyGivenNames t0
  clear_value t0
  split
  · exact .replySt hx0
  · refine .ite ?_ ?_
    · exact .replySt hx0
    · split
      · exact .reply hx0
      · refine .ite ?_ ?_
        · exact .replySt hx0
        · extract_lets -merge +onlyGivenNames t1
          have h2 : Keeps o (t1).1 := .applyAll hx0
          clear_value t1
          split
          · exact .reply h2
          · exact .replySt (.wrote (.anchorWrite h2))

theorem Keeps.execHdpWriteMulti {o x0 : State} (hx0 : Keeps o x0) : KeepsOut o (execHdpWriteMulti x0) := by
  unfold Sys2Proof.Machine.execHdpWriteMulti
  exact .next (.withReq hx0 (fun h0 => .hdpWriteMulti h0))

theorem Keeps.execHdpDescribe {o x0 : State} (hx0 : Keeps o x0) : KeepsOut o (execHdpDescribe x0) := by
  unfold Sys2Proof.Machine.execHdpDescribe
  exact .next (.withReq hx0 (fun h0 => .hdpDescribe h0))

theorem Keeps.hdpSubscribe {o x0 : State} {x1 : OdeReq} (hx0 : Keeps o x0) : Keeps o (State.hdpSubscribe x0 x1) :=
  .ite (.replySt hx0) (.ite (.replySt hx0) (.replySt (.setSession hx0)))

theorem Keeps.execHdpSubscribe {o x0 : State} (hx0 : Keeps o x0) : KeepsOut o (execHdpSubscribe x0) := by
  unfold Sys2Proof.Machine.execHdpSubscribe
  exact .next (.withReq hx0 (fun h0 => .hdpSubscribe h0))

theorem Keeps.hdpEventAck {o x0 : State} {x1 : OdeReq} (hx0 : Keeps o x0) : Keeps o (State.hdpEventAck x0 x1) :=
  .ite (.replySt hx0) (.replySt (.setSession hx0))

theorem Keeps.execHdpEventAck {o x0 : State} (hx0 : Keeps o x0) : KeepsOut o (execHdpEventAck x0) := by
  unfold Sys2Proof.Machine.execHdpEventAck
  exact .next (.withReq hx0 (fun h0 => .hdpEventAck h0))

theorem Keeps.execHdpDigest {o x0 : State} (hx0 : Keeps o x0) : KeepsOut o (execHdpDigest x0) := by
  unfold Sys2Proof.Machine.execHdpDigest
  exact .next (.withReq hx0 (fun h0 => .bare h0 (fun h1 => by
    extract_lets -merge +onlyGivenNames t2
    clear_value t2
    exact .reply h1)))

theorem Keeps.hdpReadNet {o x0 : State} {x1 : OdeReq} (hx0 : Keeps o x0) : Keeps o (State.hdpReadNet x0 x1) := by
  unfold State.hdpReadNet
  extract_lets -merge +onlyGivenNames t0
  clear_value t0
  refine .ite ?_ ?_
  · exact .replySt hx0
  · extract_lets -merge +onlyGivenNames t1 t2 t3
    clear_value t1 t2 t3
    exact .reply hx0

theorem Keeps.execHdpReadNet {o x0 : State} (hx0 : Keeps o x0) : KeepsOut o (execHdpReadNet x0) := by
  unfold Sys2Proof.Machine.execHdpReadNet
  exact .next (.withReq hx0 (fun h0 => .hdpReadNet h0))

/-! OdeIo -/

theorem Keeps.mbxPop {o : State} {x0 : Init} {x1 : State} (hx1 : Keeps o x1) : Keeps o (State.mbxPop x0 x1) := by
  unfold State.mbxPop
  split
  · exact .answer hx1
  · extract_lets -merge +onlyGivenNames t0 t1
    have h2 : Keeps o (t1) := .store (.setOde (.used hx1))
    clear_value t0 t1
    exact .answer (.setRegN h2)

theorem Keeps.fwPop {o : State} {x0 : Nat} {x1 : Init} {x2 : State} (hx2 : Keeps o x2) : Keeps o (State.fwPop x0 x1 x2) := by
  unfold State.fwPop
  split
  · exact .answer hx2
  · extract_lets -merge +onlyGivenNames t0 t2
    have h1 : Keeps o (t0) := .setOde hx2
    have h3 : Keeps o (t2) := .setRegN (.setRegN (.setRegN h1))
    clear_value t0 t2
    exact .answer (.store h3)

theorem Keeps.mbxPush {o : State} {x0 : Word} {x1 : State} (hx1 : Keeps o x1) : Keeps o (State.mbxPush x0 x1) := by
  unfold State.mbxPush
  extract_lets -merge +onlyGivenNames t0 t1
  clear_value t0 t1
  exact .ite (.refuse hx1) (.ite (.refuse (.eccRead hx1)) (.ite hx1 (.pduIn (.eccRead hx1))))

theorem Keeps.fwAnswer {o : State} {x0 : Nat} {x1 : Word} {x2 : State} (hx2 : Keeps o x2) : Keeps o (State.fwAnswer x0 x1 x2) := by
  unfold State.fwAnswer
  refine .ite ?_ ?_
  · exact .refuse hx2
  · split
    · exact .bump hx2
    · extract_lets -merge +onlyGivenNames t0
      clear_value t0
      exact .fwDone (.eccRead hx2)

theorem Keeps.execFwAnswer {o : State} {x0 : Init} {x1 : Fin 6} {x2 : Word} {x3 : State} (hx3 : Keeps o x3) : KeepsOut o (execFwAnswer x0 x1 x2 x3) := by
  unfold Sys2Proof.Machine.execFwAnswer
  exact .next (.onWrite hx3 (fun h0 => .fwAnswer h0))

theorem Keeps.evLost {o x0 : State} {x1 : Nat} (hx0 : Keeps o x0) : Keeps o (State.evLost x0 x1) :=
  .raise (.bumpBy hx0)

theorem Keeps.evDeliver {o x0 : State} {x1 : EvRec} {x2 : List Session} (hx0 : Keeps o x0) : Keeps o (State.evDeliver x0 x1 x2) := by
  induction x2 generalizing x0 x1 with
  | nil =>
    exact hx0
  | cons y l ih =>
    rw [State.evDeliver]
    exact ih (.ite hx0 (.ite (.evLost hx0) (.setSession hx0)))

theorem Keeps.execSubscriptionDeliver {o x0 : State} (hx0 : Keeps o x0) : KeepsOut o (execSubscriptionDeliver x0) := by
  unfold Sys2Proof.Machine.execSubscriptionDeliver
  refine .ite (.next hx0) ?_
  split
  · exact .next hx0
  · rename_i he
    refine .next (.evDeliver (hx0.trans ⟨fun i => ⟨i.1, ?_, i.2.2⟩, rfl, Nat.le_refl _⟩))
    have h := i.2.1
    rw [he, List.length_cons] at h
    exact Nat.le_of_succ_le h

theorem Keeps.execAuthLockoutEnd {o x0 : State} (hx0 : Keeps o x0) : KeepsOut o (execAuthLockoutEnd x0) := by
  unfold Sys2Proof.Machine.execAuthLockoutEnd
  exact .next (.setOde hx0)

theorem Keeps.execFwRequestPop {o : State} {x0 : Init} {x1 : Fin 6} {x2 : State} (hx2 : Keeps o x2) : KeepsOut o (execFwRequestPop x0 x1 x2) := by
  unfold Sys2Proof.Machine.execFwRequestPop
  exact .next (.onRead hx2 (fun h0 => .fwPop h0))

theorem Keeps.execEventSend {o : State} {x0 : Fin 256} {x1 : State} (hx1 : Keeps o x1) : KeepsOut o (execEventSend x0 x1) := by
  unfold Sys2Proof.Machine.execEventSend
  split
  · exact .next hx1
  · extract_lets -merge +onlyGivenNames t0
    clear_value t0
    refine .ite ?_ ?_
    · exact .next hx1
    · split
      · exact .next hx1
      · exact .next (.pduOut (.setSession hx1))

theorem Keeps.execFwTimeout {o x0 : State} (hx0 : Keeps o x0) : KeepsOut o (execFwTimeout x0) := by
  unfold Sys2Proof.Machine.execFwTimeout
  split
  · exact .next hx0
  · exact .next (.fwDone (.raise hx0))

theorem Keeps.execMbxinPush {o : State} {x0 : Init} {x1 : Word} {x2 : State} (hx2 : Keeps o x2) : KeepsOut o (execMbxinPush x0 x1 x2) := by
  unfold Sys2Proof.Machine.execMbxinPush
  exact .next (.onWrite hx2 (fun h0 => .mbxPush h0))

theorem Keeps.execMbxoutPop {o : State} {x0 : Init} {x1 : State} (hx1 : Keeps o x1) : KeepsOut o (execMbxoutPop x0 x1) := by
  unfold Sys2Proof.Machine.execMbxoutPop
  exact .next (.onRead hx1 (fun h0 => .mbxPop h0))

theorem Keeps.execSpiPduWrite {o : State} {x0 : BitVec 16} {x1 : List (BitVec 8)} {x2 : BitVec 32} {x3 : State} (hx3 : Keeps o x3) : KeepsOut o (execSpiPduWrite x0 x1 x2 x3) := by
  unfold Sys2Proof.Machine.execSpiPduWrite
  refine .ite ?_ ?_
  · exact .next hx3
  · refine .ite ?_ ?_
    · exact .next (.raise (.bump hx3))
    · exact .next (.pduIn hx3)

theorem Keeps.execSpiPduRead {o x0 : State} (hx0 : Keeps o x0) : KeepsOut o (execSpiPduRead x0) := by
  unfold Sys2Proof.Machine.execSpiPduRead
  refine .ite ?_ ?_
  · exact .next hx0
  · split
    · exact .next (.emit hx0)
    · exact .next (.emit (.setOde hx0))

theorem Keeps.execSpiStatusRead {o x0 : State} (hx0 : Keeps o x0) : KeepsOut o (execSpiStatusRead x0) := by
  unfold Sys2Proof.Machine.execSpiStatusRead
  refine .ite ?_ ?_
  · exact .next hx0
  · extract_lets -merge +onlyGivenNames t0
    clear_value t0
    exact .next (.emit hx0)

theorem Keeps.execSessionTimeout {o : State} {x0 : Fin 256} {x1 : State} (hx1 : Keeps o x1) : KeepsOut o (execSessionTimeout x0 x1) := by
  unfold Sys2Proof.Machine.execSessionTimeout
  refine .ite ?_ ?_
  · exact .next hx1
  · exact .next (.endSession hx1)

theorem Keeps.execEventAckTimeout {o : State} {x0 : Fin 256} {x1 : State} (hx1 : Keeps o x1) : KeepsOut o (execEventAckTimeout x0 x1) := by
  unfold Sys2Proof.Machine.execEventAckTimeout
  split
  · exact .next hx1
  · split
    · exact .next hx1
    · refine .ite ?_ ?_
      · exact .next (.evLost (.setSession hx1))
      · extract_lets -merge +onlyGivenNames t0
        have h1 : Keeps o (t0) := .setSession hx1
        clear_value t0
        split
        · exact .next h1
        · exact .next (.pduOut h1)

/-! OdeCmd -/

theorem Keeps.stateCmd {o : State} {x0 : Nat} {x1 : Word} {x2 : State} (hx2 : Keeps o x2) : Keeps o (State.stateCmd x0 x1 x2) := by
  unfold State.stateCmd
  extract_lets -merge +onlyGivenNames t0
  clear_value t0
  exact .ite (.refuse hx2) (.ite (.setDev hx2) (.ite (.refuse hx2) (.ite (.refuse hx2) (.setDev hx2))))

theorem Keeps.keyNote {o x0 : State} {x1 : Nat} (hx0 : Keeps o x0) : Keeps o (State.keyNote x0 x1) :=
  .ite hx0 (.raise (.errSet (.cryCount hx0)))

theorem Keeps.onInvoke {o x0 : State} {x1 : Nat} {x2 : Nat} {x3 : State → List Byte → State × Nat × List Byte} (hx0 : Keeps o x0) (hx3 : ∀ {y0} {y1}, Keeps o y0 → Keeps o (x3 y0 y1).1) : Keeps o (State.onInvoke x0 x1 x2 x3) := by
  unfold State.onInvoke
  split
  · exact hx0
  · extract_lets -merge +onlyGivenNames t0
    have h1 : Keeps o (t0).1 := hx3 hx0
    clear_value t0
    exact .fwDone h1

theorem Keeps.execLevelCmd {o x0 : State} (hx0 : Keeps o x0) : KeepsOut o (execLevelCmd x0) := by
  unfold Sys2Proof.Machine.execLevelCmd
  exact .next (.onInvoke hx0 (fun h0 => .levelTake h0))

theorem Keeps.ledgerAfterFuse {o x0 : State} {x1 : List Nat} (hx0 : Keeps o x0) : Keeps o (State.ledgerAfterFuse x0 x1) := by
  unfold State.ledgerAfterFuse
  extract_lets -merge +onlyGivenNames t0
  clear_value t0
  exact .ledgerPut (.ite (.wf hx0) hx0)

theorem Keeps.commitArg {o s : State} {v : List Byte} (h : Keeps o s) : Keeps o (s.commitArg v).1 := by
  have e : ∀ (a : State) (b : Nat × List Byte), (a, b).1 = a := fun _ _ => rfl
  rw [State.commitArg, e]
  exact .commit h

theorem Keeps.execRelayCmd {o x0 : State} (hx0 : Keeps o x0) : KeepsOut o (execRelayCmd x0) := by
  unfold Sys2Proof.Machine.execRelayCmd
  exact .next (.onInvoke hx0 (fun h0 => .relayTake h0))

theorem Keeps.execStatecmd {o : State} {x0 : Init} {x1 : Word} {x2 : State} (hx2 : Keeps o x2) : KeepsOut o (execStatecmd x0 x1 x2) := by
  unfold Sys2Proof.Machine.execStatecmd
  exact .next (.onWrite hx2 (fun h0 => .stateCmd h0))

theorem Keeps.keyArg {o x0 : State} {x1 : Nat} {x2 : Nat} {x3 : Nat} {x4 : Nat} {x5 : State → Nat → State × Nat} (hx0 : Keeps o x0) (hx5 : ∀ {y0} {y1}, Keeps o y0 → Keeps o (x5 y0 y1).1) : Keeps o (State.keyArg x0 x1 x2 x3 x4 x5).1 := by
  unfold State.keyArg
  split
  · exact .keyNote (.ite (.clearKdata hx0) hx0)
  · extract_lets -merge +onlyGivenNames t0
    have h1 : Keeps o (t0).1 := hx5 (.setRegN (.setRegN hx0))
    clear_value t0
    exact .keyNote h1

theorem Keeps.keyUnwrapArg {o x0 : State} {x1 : List Byte} (hx0 : Keeps o x0) : Keeps o (State.keyUnwrapArg x0 x1).1 := by
  unfold State.keyUnwrapArg
  extract_lets -merge +onlyGivenNames t0 t1 t2 t3 t4
  clear_value t0 t1 t2 t3 t4
  refine .iteP ?_ ?_
  · exact hx0
  · extract_lets -merge +onlyGivenNames t5
    have h6 : Keeps o (t5) := .setReg64 (.store hx0)
    clear_value t5
    exact .keyArg h6 (fun h7 => .keyUnwrapCmd h7)

theorem Keeps.putKdata {o x0 : State} {x1 : List Byte} {x2 : Nat} (hx0 : Keeps o x0) : Keeps o (State.putKdata x0 x1 x2) := by
  induction x2 generalizing x0 x1 with
  | zero =>
    exact hx0
  | succ n ih =>
    rw [State.putKdata]
    exact .setRegN (ih hx0)

theorem Keeps.fallbackClear {o x0 : State} (hx0 : Keeps o x0) : Keeps o (State.fallbackClear x0) := by
  unfold State.fallbackClear
  extract_lets -merge +onlyGivenNames t0 t1 t2
  have h3 : Keeps o (t2) := .ledgerAfterFuse hx0
  clear_value t0 t1 t2
  exact .ite (.otpStart h3) h3

theorem Keeps.fallbackArg {o s : State} {v : List Byte} (h : Keeps o s) : Keeps o (s.fallbackArg v).1 := by
  have e : ∀ (a : State) (b : Nat × List Byte), (a, b).1 = a := fun _ _ => rfl
  rw [State.fallbackArg, e]
  exact .fallbackClear h

theorem Keeps.keyLoadArg {o x0 : State} {x1 : List Byte} (hx0 : Keeps o x0) : Keeps o (State.keyLoadArg x0 x1).1 := by
  unfold State.keyLoadArg
  extract_lets -merge +onlyGivenNames t0 t1
  clear_value t0 t1
  refine .iteP ?_ ?_
  · exact hx0
  · exact .keyArg (.putKdata hx0) (fun h2 => .keyLoad h2)

theorem Keeps.execKeyLoad {o x0 : State} (hx0 : Keeps o x0) : KeepsOut o (execKeyLoad x0) := by
  unfold Sys2Proof.Machine.execKeyLoad
  exact .next (.onInvoke hx0 (fun h0 => .keyLoadArg h0))

theorem Keeps.attestArg {o x0 : State} {x1 : List Byte} (hx0 : Keeps o x0) : Keeps o (State.attestArg x0 x1).1 := by
  unfold State.attestArg
  refine .iteP ?_ ?_
  · exact hx0
  · refine .iteP ?_ ?_
    · exact hx0
    · refine .iteP ?_ ?_
      · exact hx0
      · extract_lets -merge +onlyGivenNames t0
        have h1 : Keeps o (t0).1 := .attested hx0
        clear_value t0
        exact h1

theorem Keeps.execSave {o x0 : State} (hx0 : Keeps o x0) : KeepsOut o (execSave x0) := by
  unfold Sys2Proof.Machine.execSave
  refine .ite ?_ ?_
  · exact .next (.onInvoke hx0 (fun h0 => h0))
  · exact .next hx0

theorem Keeps.execStateAutoChange {o x0 : State} (hx0 : Keeps o x0) : KeepsOut o (execStateAutoChange x0) := by
  unfold Sys2Proof.Machine.execStateAutoChange
  refine .ite ?_ ?_
  · exact .next (.setDev hx0)
  · exact .next hx0

theorem Keeps.stateReq {o x0 : State} {x1 : List Byte} (hx0 : Keeps o x0) : Keeps o (State.stateReq x0 x1).1 := by
  unfold State.stateReq
  extract_lets -merge +onlyGivenNames t0
  clear_value t0
  refine .iteP ?_ ?_
  · exact .setDev hx0
  · refine .iteP ?_ ?_
    · exact .setDev hx0
    · refine .iteP ?_ ?_
      · extract_lets -merge +onlyGivenNames t1
        have h2 : Keeps o (t1) := .nextOr hx0 (Keeps.execAlarmClear hx0)
        clear_value t1
        refine .iteP ?_ ?_
        · exact h2
        · exact .setDev h2
      · exact hx0

theorem Keeps.execStateReq {o x0 : State} (hx0 : Keeps o x0) : KeepsOut o (execStateReq x0) := by
  unfold Sys2Proof.Machine.execStateReq
  exact .next (.onInvoke hx0 (fun h0 => .stateReq h0))

theorem Keeps.execRestart {o x0 : State} (hx0 : Keeps o x0) : KeepsOut o (execRestart x0) := by
  unfold Sys2Proof.Machine.execRestart
  split
  · exact .next hx0
  · exact .next (.rstCmd (.fwDone hx0))

theorem Keeps.execFallbackClear {o x0 : State} (hx0 : Keeps o x0) : KeepsOut o (execFallbackClear x0) := by
  simp only [Sys2Proof.Machine.execFallbackClear]
  exact .next (.onInvoke hx0 (fun h0 => .fallbackArg h0))

theorem Keeps.execAttest {o x0 : State} (hx0 : Keeps o x0) : KeepsOut o (execAttest x0) := by
  unfold Sys2Proof.Machine.execAttest
  exact .next (.onInvoke hx0 (fun h0 => .attestArg h0))

theorem Keeps.execKeyUnwrap {o x0 : State} (hx0 : Keeps o x0) : KeepsOut o (execKeyUnwrap x0) := by
  unfold Sys2Proof.Machine.execKeyUnwrap
  exact .next (.onInvoke hx0 (fun h0 => .keyUnwrapArg h0))

theorem Keeps.execCommit {o x0 : State} (hx0 : Keeps o x0) : KeepsOut o (execCommit x0) := by
  simp only [Sys2Proof.Machine.execCommit]
  exact .next (.onInvoke hx0 (fun h0 => .commitArg h0))

theorem Keeps.collect {o x0 : State} {x1 : Nat} (hx0 : Keeps o x0) : Keeps o (State.collect x0 x1) := by
  unfold State.collect
  refine .ite ?_ ?_
  · exact hx0
  · extract_lets -merge +onlyGivenNames t0
    have h1 : Keeps o (t0).1 := .mcRead hx0
    clear_value t0
    exact .setOde h1

theorem Keeps.execCounterCollect {o x0 : State} (hx0 : Keeps o x0) : KeepsOut o (execCounterCollect x0) := by
  unfold Sys2Proof.Machine.execCounterCollect
  refine .ite ?_ ?_
  · exact .next hx0
  · exact .next (.foldl (fun h => .collect h) hx0)

theorem Keeps.execBootTimeout {o : State} {x0 : Bool} {x1 : Option (BitVec 8)} {x2 : State} (hx2 : Keeps o x2) : KeepsOut o (execBootTimeout x0 x1 x2) := by
  unfold Sys2Proof.Machine.execBootTimeout
  refine .ite ?_ ?_
  · exact .next hx2
  · refine .ite ?_ ?_
    · extract_lets -merge +onlyGivenNames t0 t1 t2 t4
      have h3 : Keeps o (t2) := .ite hx2 (.ledgerAfterFuse hx2)
      have h5 : Keeps o (t4) := .foldl (fun h => .limit h) h3
      clear_value t0 t1 t2 t4
      exact .next (.setDev h5)
    · extract_lets -merge +onlyGivenNames t6 t7 t8
      have h9 : Keeps o (t8) := .ledgerAfterFuse hx2
      clear_value t6 t7 t8
      refine .ite ?_ ?_
      · exact .next (.warmReset h9)
      · exact .next h9

/-! Bus -/

theorem Keeps.odeHookRead {o : State} {x0 : Init} {x1 : State} {x2 : Nat} (hx1 : Keeps o x1) : KeepsOpt o (odeHookRead x0 x1 x2) := by
  unfold Sys2Proof.Machine.odeHookRead
  refine .ite ?_ ?_
  · exact .some (.mbxPop hx1)
  · refine .ite ?_ ?_
    · exact .some (.fwPop hx1)
    · exact .none

theorem Keeps.busRead {o : State} {x0 : Init} {x1 : Nat} {x2 : State} (hx2 : Keeps o x2) : Keeps o (State.busRead x0 x1 x2) :=
  .regReadWith (fun h0 => Keeps.odeHookRead h0) hx2

theorem Keeps.odeHookWrite {o : State} {x0 : Init} {x1 : State} {x2 : Nat} {x3 : Word} (hx1 : Keeps o x1) : KeepsOpt o (odeHookWrite x0 x1 x2 x3) := by
  unfold Sys2Proof.Machine.odeHookWrite
  refine .ite ?_ ?_
  · exact .some (.stateCmd hx1)
  · refine .ite ?_ ?_
    · exact .some (.mbxPush hx1)
    · refine .ite ?_ ?_
      · exact .some (.fwAnswer hx1)
      · exact .none

theorem Keeps.busWrite {o : State} {x0 : Init} {x1 : Nat} {x2 : Word} {x3 : State} (hx3 : Keeps o x3) : Keeps o (State.busWrite x0 x1 x2 x3) :=
  .regWriteWith (fun h0 => Keeps.odeHookWrite h0) hx3

theorem Keeps.execRegisterWrite {o : State} {x0 : Init} {x1 : Nat} {x2 : Word} {x3 : State} (hx3 : Keeps o x3) : KeepsOut o (execRegisterWrite x0 x1 x2 x3) := by
  unfold Sys2Proof.Machine.execRegisterWrite
  exact .next (.busWrite hx3)

theorem Keeps.execCounterRead {o : State} {x0 : Init} {x1 : Nat} {x2 : State} (hx2 : Keeps o x2) : KeepsOut o (execCounterRead x0 x1 x2) := by
  unfold Sys2Proof.Machine.execCounterRead
  exact .next (.busRead hx2)

/-! DmaMove -/

theorem Keeps.pathBurst {o x0 : State} {x1 : Nat} {x2 : Nat} (hx0 : Keeps o x0) : Keeps o (State.pathBurst x0 x1 x2) := by
  unfold State.pathBurst
  refine .ite ?_ ?_
  · exact hx0
  · refine .ite ?_ ?_
    · split
      · exact hx0
      · exact .pathCount (.freeSel hx0)
    · split
      · exact hx0
      · exact .pathDrop hx0

theorem Keeps.burstBegin {o x0 : State} {x1 : Nat} (hx0 : Keeps o x0) : Keeps o (State.burstBegin x0 x1).1 := by
  unfold State.burstBegin
  extract_lets -merge +onlyGivenNames t0 t1 t2
  clear_value t0 t1 t2
  refine .iteP ?_ ?_
  · exact hx0
  · refine .iteP ?_ ?_
    · split
      · exact .setCh hx0
      · exact .setCh ((Keeps.charge hx0) _ (by assumption))
    · refine .iteP ?_ ?_
      · refine .iteP ?_ ?_
        · exact hx0
        · extract_lets -merge +onlyGivenNames t3
          have h4 : Keeps o (t3) := .setCh hx0
          clear_value t3
          exact .ite (.chkInit h4) h4
      · exact .setCh hx0

theorem Keeps.dmaRegs {o x0 : State} {x1 : Nat} {x2 : Nat} {x3 : Nat} (hx0 : Keeps o x0) : Keeps o (State.dmaRegs x0 x1 x2 x3).1 := by
  induction x3 generalizing x0 x1 x2 with
  | zero =>
    exact hx0
  | succ n ih =>
    rw [State.dmaRegs]
    refine .iteP ?_ ?_
    · exact .taken (.busRead hx0)
    · extract_lets -merge +onlyGivenNames t0
      have h1 : Keeps o (t0).1 := ih (.taken (.busRead hx0))
      clear_value t0
      exact h1

theorem Keeps.dmaRead {o x0 : State} {x1 : Nat} {x2 : Nat} (hx0 : Keeps o x0) : Keeps o (State.dmaRead x0 x1 x2).1 := by
  unfold State.dmaRead
  refine .iteP ?_ ?_
  · refine .iteP ?_ ?_
    · exact .busErr hx0
    · extract_lets -merge +onlyGivenNames t0
      have h1 : Keeps o (t0).1 := .dmaRegs hx0
      clear_value t0
      exact h1
  · refine .iteP ?_ ?_
    · exact hx0
    · refine .iteP ?_ ?_
      · exact .eccRead hx0
      · exact .eccRead hx0

theorem Keeps.dmaFixed {o x0 : State} {x1 : Nat} {x2 : Nat} {x3 : Nat} (hx0 : Keeps o x0) : Keeps o (State.dmaFixed x0 x1 x2 x3).1 := by
  induction x3 generalizing x0 x1 x2 with
  | zero =>
    exact hx0
  | succ n ih =>
    rw [State.dmaFixed]
    split
    · exact .dmaRead hx0
    · extract_lets -merge +onlyGivenNames t0
      have h1 : Keeps o (t0).1 := ih (.dmaRead hx0)
      clear_value t0
      split
      · exact h1
      · exact h1

theorem Keeps.burstIn {o x0 : State} {x1 : DmaChan} {x2 : Nat} (hx0 : Keeps o x0) : Keeps o (State.burstIn x0 x1 x2).1 := by
  unfold State.burstIn
  extract_lets -merge +onlyGivenNames t0 t1
  clear_value t0 t1
  refine .iteP ?_ ?_
  · extract_lets -merge +onlyGivenNames t2 t3 t4
    clear_value t2 t3 t4
    exact hx0
  · refine .iteP ?_ ?_
    · exact .dmaFixed hx0
    · exact .dmaRead hx0

theorem Keeps.chEnd {o x0 : State} {x1 : Nat} {x2 : DmaChan} {x3 : Nat} (hx0 : Keeps o x0) : Keeps o (State.chEnd x0 x1 x2 x3) :=
  .setCh hx0

theorem Keeps.maybeWritten {o x0 : State} {x1 : Nat} {x2 : List Byte} (hx0 : Keeps o x0) : Keeps o (State.maybeWritten x0 x1 x2) := by
  induction x2 generalizing x0 x1 with
  | nil =>
    exact hx0
  | cons y l ih =>
    rw [State.maybeWritten]
    exact ih (.ite (.setByte (.used hx0)) (.used hx0))

theorem Keeps.dmaWriteRegs {o : State} : ∀ {s : State} {a t : Nat} {l : List Byte}, Keeps o s →
    Keeps o (State.dmaWriteRegs s a t l).1
  | s, a, t, b0 :: b1 :: b2 :: b3 :: l, h => by
    rw [State.dmaWriteRegs]
    exact .iteP (Keeps.dmaWriteRegs (l := l) (.busWrite h)) (.busWrite h)
  | _, _, _, [], h => h
  | _, _, _, [_], h => h
  | _, _, _, [_, _], h => h
  | _, _, _, [_, _, _], h => h

theorem Keeps.dmaWrite {o x0 : State} {x1 : Nat} {x2 : List Byte} (hx0 : Keeps o x0) : Keeps o (State.dmaWrite x0 x1 x2).1 := by
  unfold State.dmaWrite
  refine .iteP ?_ ?_
  · refine .iteP ?_ ?_
    · exact .busErr hx0
    · exact .dmaWriteRegs hx0
  · refine .iteP ?_ ?_
    · exact .store hx0
    · exact hx0

theorem Keeps.dmaWriteFixed {o x0 : State} {x1 : Nat} {x2 : Nat} {x3 : Nat} {x4 : List Byte} (hx0 : Keeps o x0) : Keeps o (State.dmaWriteFixed x0 x1 x2 x3 x4).1 := by
  induction x3 generalizing x0 x1 x2 x4 with
  | zero =>
    exact hx0
  | succ n ih =>
    rw [State.dmaWriteFixed]
    refine .iteP ?_ ?_
    · exact ih (.dmaWrite hx0)
    · exact .dmaWrite hx0

theorem Keeps.burstOut {o x0 : State} {x1 : DmaChan} {x2 : List Byte} {x3 : Bool} (hx0 : Keeps o x0) : Keeps o (State.burstOut x0 x1 x2 x3).1 := by
  unfold State.burstOut
  extract_lets -merge +onlyGivenNames t0 t1 t2
  clear_value t0 t1 t2
  refine .iteP ?_ ?_
  · exact .ite hx0 (.maybeWritten hx0)
  · refine .iteP ?_ ?_
    · exact .dmaWriteFixed hx0
    · exact .dmaWrite hx0

theorem Keeps.burst {o x0 : State} {x1 : Nat} {x2 : Nat} (hx0 : Keeps o x0) : Keeps o (State.burst x0 x1 x2) := by
  unfold State.burst
  extract_lets -merge +onlyGivenNames t0 t1 t2 t3 t4
  have h5 : Keeps o (t4).1 := .burstIn hx0
  clear_value t0 t1 t2 t3 t4
  split
  · exact .chEnd h5
  · extract_lets -merge +onlyGivenNames t6
    clear_value t6
    refine .ite ?_ ?_
    · extract_lets -merge +onlyGivenNames t7
      clear_value t7
      exact .ite (.chEnd (.injectStore h5)) (.setCh h5)
    · extract_lets -merge +onlyGivenNames t8
      have h9 : Keeps o (t8).1 := .burstOut h5
      clear_value t8
      refine .ite ?_ ?_
      · exact .chEnd h9
      · extract_lets -merge +onlyGivenNames t10 t12
        have h11 : Keeps o (t10) := .ite (.chkFeed h9) h9
        clear_value t10 t12
        exact .ite (.chEnd h11) (.setCh h11)

theorem Keeps.execDmaBurst {o : State} {x0 : Fin 128} {x1 : Bool} {x2 : Bool} {x3 : Fin 3} {x4 : State} (hx4 : Keeps o x4) : KeepsOut o (execDmaBurst x0 x1 x2 x3 x4) := by
  unfold Sys2Proof.Machine.execDmaBurst
  extract_lets -merge +onlyGivenNames t0 t1 t2
  clear_value t0 t1 t2
  refine .ite ?_ ?_
  · exact .next (.pathBurst hx4)
  · refine .ite ?_ ?_
    · exact .next hx4
    · extract_lets -merge +onlyGivenNames t3
      have h4 : Keeps o (t3).1 := .burstBegin hx4
      clear_value t3
      refine .ite ?_ ?_
      · exact .next h4
      · extract_lets -merge +onlyGivenNames t5
        have h6 : Keeps o (t5) := .ite (.wf h4) h4
        clear_value t5
        exact .next (.burst h6)

theorem Keeps.scanPair {o s : State} {b : Bool} (h : Keeps o s) : Keeps o (s.scanPair b).st := by
  unfold State.scanPair
  extract_lets -merge +onlyGivenNames t0 t1
  clear_value t0 t1
  split
  · exact h
  · split
    · exact h
    · split
      · exact h
      · split
        · exact h
        · exact .ite (.setReg64 (.eccRead (.eccRead h))) (.eccRead (.eccRead h))
theorem Keeps.scanRead {o s : State} {r : Except Nat (List Byte)} {u b : Nat} {p : List Byte} {c : Bool} (h : Keeps o s) :
    Keeps o (s.scanRead r u b p c).st := by
  unfold State.scanRead
  split
  · split
    · exact .setReg64 (.chkFeed h)
    · exact h
  · extract_lets t0 t1 t2 t3
    have h0 : Keeps o t0 := .chkFeed h
    have h3 : Keeps o t3 := .setRegN h0
    clear_value t0 t1 t2 t3
    split
    · exact h0
    · split
      · exact h3
      · exact h3
theorem Keeps.scanSingle {o s : State} {b : Bool} {n : Nat} (h : Keeps o s) : Keeps o (s.scanSingle b n).st := by
  unfold State.scanSingle
  extract_lets -merge +onlyGivenNames t0 t1 t2 t3
  clear_value t0 t1 t2 t3
  split
  · exact h
  · split
    · exact h
    · split
      · exact h
      · exact .scanRead (.dmaRead h)
theorem Keeps.scanIte {o : State} {c : Prop} [Decidable c] {a b : ScanEnd} (ha : Keeps o a.st) (hb : Keeps o b.st) :
    Keeps o (if c then a else b).st := by
  split
  · exact ha
  · exact hb
theorem Keeps.execScanEnd {o : State} {b : Bool} {n : BitVec 32} {s : State} (h : Keeps o s) : KeepsOut o (execScanEnd b n s) := by
  have hx := fun c => Keeps.scanIte (c := s.rf F.SCAN_CTRL_MODE = c) (Keeps.scanPair (b := b) h) (Keeps.scanSingle (b := b) (n := n.toNat) h)
  simp only [Sys2Proof.Machine.execScanEnd]
  exact .ite (.next h) (.next (.ite (.raise (.raise (.setRegN (.wb (.wb (.wb (hx 1))))))) (.raise (.setRegN (.wb (.wb (.wb (hx 1))))))))

end Sys2Proof.Machine
end

