-- ==== Sys2Proof/Laws/Keeps9.lean ====
section
/-! SUPPORT. What every operation keeps (`Keeps`), one lemma for each: Dispatch, Tick, Step. -/

set_option Elab.async false

namespace Sys2Proof.Machine

/-! Dispatch -/

theorem Keeps.exec {o : State} {x0 : Instr} {x1 : State} (hx1 : Keeps o x1) : KeepsOut o (exec x0 x1) := by
  unfold Sys2Proof.Machine.exec
  split
  · exact Keeps.execRegisterWrite hx1
  · exact Keeps.execCounterRead hx1
  · exact Keeps.execMemoryAccess hx1
  · exact Keeps.execReceiveReserve hx1
  · exact Keeps.execFrameStored hx1
  · exact Keeps.execFrameForward hx1
  · exact Keeps.execCreditReturn hx1
  · exact Keeps.execReadinessSet hx1
  · exact Keeps.execReadinessClear hx1
  · exact Keeps.execMainsCrossing hx1
  · exact Keeps.execCrossingMissing hx1
  · exact Keeps.execHoldEstimateUpdate hx1
  · exact Keeps.execBeaconSample hx1
  · exact Keeps.execSeed hx1
  · exact Keeps.execRelearn hx1
  · exact Keeps.execHold hx1
  · exact Keeps.execResume hx1
  · exact Keeps.execGtuFree hx1
  · exact Keeps.execPmapCommit hx1
  · exact Keeps.execPmapExpire hx1
  · exact Keeps.execBcnValidExpire hx1
  · exact Keeps.execGtuCtrlWrite hx1
  · exact Keeps.execGtuNowRead hx1
  · exact Keeps.execXlastRead hx1
  · exact Keeps.execReplicaBroadcast hx1
  · exact Keeps.execGcArm hx1
  · exact Keeps.execGcDisarm hx1
  · exact Keeps.execGcFire hx1
  · exact Keeps.execPinPulseEnd hx1
  · exact Keeps.execEventOccurrence hx1
  · exact Keeps.execEirqPulse hx1
  · exact Keeps.execPendingClear hx1
  · exact Keeps.execSoftwareEvent hx1
  · exact Keeps.execSubscriptionPop hx1
  · exact Keeps.execRfcCmdPush hx1
  · exact Keeps.execMacPortCommand hx1
  · exact Keeps.execRfcSleep hx1
  · exact Keeps.execRfcWake hx1
  · exact Keeps.execRfcTune hx1
  · exact Keeps.execRfcPrep hx1
  · exact Keeps.execRfcRx hx1
  · exact Keeps.execRfcTx hx1
  · exact Keeps.execRfcIdle hx1
  · exact Keeps.execRfcStandby hx1
  · exact Keeps.execRfcCal hx1
  · exact Keeps.execRfcDpdup hx1
  · exact Keeps.execRfcAbort hx1
  · exact Keeps.execRfcStore hx1
  · exact Keeps.execRfcTransitionDone hx1
  · exact Keeps.execSynthLock hx1
  · exact Keeps.execLockLoss hx1
  · exact Keeps.execHeldDeadline hx1
  · exact Keeps.execCalStepDone hx1
  · exact Keeps.execCalPeriodDue hx1
  · exact Keeps.execCalTempDue hx1
  · exact Keeps.execCalOverdue hx1
  · exact Keeps.execAutocalStart hx1
  · exact Keeps.execDpdFitDone hx1
  · exact Keeps.execDpdTimeout hx1
  · exact Keeps.execDpdDue hx1
  · exact Keeps.execFemtWrite hx1
  · exact Keeps.execRfcResultPop hx1
  · exact Keeps.execPacketDetect hx1
  · exact Keeps.execFieldCheck hx1
  · exact Keeps.execUnsupportedHoldEnd hx1
  · exact Keeps.execSecondDetection hx1
  · exact Keeps.execClipRestart hx1
  · exact Keeps.execTbReceptionArm hx1
  · exact Keeps.execTbWindowEnd hx1
  · exact Keeps.execCodewordDecoded hx1
  · exact Keeps.execPpduReceiveEnd hx1
  · exact Keeps.execTransmitVector hx1
  · exact Keeps.execPpduTxEnd hx1
  · exact Keeps.execSmodeWrite hx1
  · exact Keeps.execNoiseAlarm hx1
  · exact Keeps.execRxAnomalyAlarm hx1
  · exact Keeps.execEdcaCommit hx1
  · exact Keeps.execMpduReceive hx1
  · exact Keeps.execControlResponse hx1
  · exact Keeps.execBeaconTbtt hx1
  · exact Keeps.execBeaconDrop hx1
  · exact Keeps.execBeaconCommit hx1
  · exact Keeps.execTsfRead hx1
  · exact Keeps.execWifiBeaconReceive hx1
  · exact Keeps.execNotchFlagExpire hx1
  · exact Keeps.execMpduLifetimeDrop hx1
  · exact Keeps.execReorderTimeout hx1
  · exact Keeps.execMpduMove hx1
  · exact Keeps.execTwtSlipCheck hx1
  · exact Keeps.execDlMuPpdu hx1
  · exact Keeps.execTriggerSend hx1
  · exact Keeps.execSounding hx1
  · exact Keeps.execNotchSuspendChange hx1
  · exact Keeps.execNotchArm hx1
  · exact Keeps.execNotchPlanApply hx1
  · exact Keeps.execMacCmdPush hx1
  · exact Keeps.execBssStart hx1
  · exact Keeps.execBssStop hx1
  · exact Keeps.execLinkAdd hx1
  · exact Keeps.execLinkDel hx1
  · exact Keeps.execBaAdd hx1
  · exact Keeps.execBaDel hx1
  · exact Keeps.execTwtSet hx1
  · exact Keeps.execTwtDel hx1
  · exact Keeps.execMeshStart hx1
  · exact Keeps.execMeshStop hx1
  · exact Keeps.execMacDrainDone hx1
  · exact Keeps.execMacResultPop hx1
  · exact Keeps.execMacDropAlarm hx1
  · exact Keeps.execStpCmdPush hx1
  · exact Keeps.execStpRun hx1
  · exact Keeps.execStpStop hx1
  · exact Keeps.execClAdd hx1
  · exact Keeps.execClDel hx1
  · exact Keeps.execClWord hx1
  · exact Keeps.execClSusp hx1
  · exact Keeps.execClResume hx1
  · exact Keeps.execTwtPlace hx1
  · exact Keeps.execTwtFree hx1
  · exact Keeps.execDriftReset hx1
  · exact Keeps.execStageMpdu hx1
  · exact Keeps.execExchangeResult hx1
  · exact Keeps.execPlanRequest hx1
  · exact Keeps.execSpDecisionStart hx1
  · exact Keeps.execPlanDiscard hx1
  · exact Keeps.execDecisionOverrun hx1
  · exact Keeps.execDriftSample hx1
  · exact Keeps.execSpWindowEnd hx1
  · exact Keeps.execListenEnd hx1
  · exact Keeps.execStpPendWrite hx1
  · exact Keeps.execStpResultPop hx1
  · exact Keeps.execSuperframeStart hx1
  · exact Keeps.execScheduleArm hx1
  · exact Keeps.execScheduleApply hx1
  · exact Keeps.execOwnerMapBuild hx1
  · exact Keeps.execFieldBeaconCommit hx1
  · exact Keeps.execFieldFrameReceive hx1
  · exact Keeps.execFieldResponse hx1
  · exact Keeps.execPollWindowEnd hx1
  · exact Keeps.execPassRegionStart hx1
  · exact Keeps.execValleyStart hx1
  · exact Keeps.execUpBeaconListenEnd hx1
  · exact Keeps.execUpHoldEnd hx1
  · exact Keeps.execLongListenEnd hx1
  · exact Keeps.execLongListenRetry hx1
  · exact Keeps.execPtabAgeExpire hx1
  · exact Keeps.execPtabWrite hx1
  · exact Keeps.execDwellBinRoll hx1
  · exact Keeps.execFmacCmdPush hx1
  · exact Keeps.execSfStart hx1
  · exact Keeps.execSfStop hx1
  · exact Keeps.execUpAttach hx1
  · exact Keeps.execUpDetach hx1
  · exact Keeps.execAssign hx1
  · exact Keeps.execRelease hx1
  · exact Keeps.execDlStage hx1
  · exact Keeps.execDlCancel hx1
  · exact Keeps.execKeyset hx1
  · exact Keeps.execFieldDrainDone hx1
  · exact Keeps.execFmacResultPop hx1
  · exact Keeps.execPacketClassify hx1
  · exact Keeps.execEspResult hx1
  · exact Keeps.execRewriteUnitsGrant hx1
  · exact Keeps.execLegacyReorderRelease hx1
  · exact Keeps.execPipeTabWrite hx1
  · exact Keeps.execPipeTabApply hx1
  · exact Keeps.execFenceStart hx1
  · exact Keeps.execFenceDone hx1
  · exact Keeps.execUpdWrite hx1
  · exact Keeps.execUpdClear hx1
  · exact Keeps.execUpdHash hx1
  · exact Keeps.execUpdComplete hx1
  · exact Keeps.execMissAlarm hx1
  · exact Keeps.execOddAlarm hx1
  · exact Keeps.execPpeCounterRead hx1
  · exact Keeps.execEthFrameReceive hx1
  · exact Keeps.execEthFrameTransmit hx1
  · exact Keeps.execPauseReceive hx1
  · exact Keeps.execPauseRepeat hx1
  · exact Keeps.execLinkChange hx1
  · exact Keeps.execPtpRead hx1
  · exact Keeps.execPtpStep hx1
  · exact Keeps.execTxtsPop hx1
  · exact Keeps.execMdioGo hx1
  · exact Keeps.execMdioDone hx1
  · exact Keeps.execEnqueue hx1
  · exact Keeps.execPoolApply hx1
  · exact Keeps.execRpoolWrite hx1
  · exact Keeps.execQmgFree hx1
  · exact Keeps.execQmgCmdPush hx1
  · exact Keeps.execQCreate hx1
  · exact Keeps.execQDelete hx1
  · exact Keeps.execQSet hx1
  · exact Keeps.execQMove hx1
  · exact Keeps.execQStart hx1
  · exact Keeps.execQStop hx1
  · exact Keeps.execQFlush hx1
  · exact Keeps.execQmgResultPop hx1
  · exact Keeps.execTmgSelect hx1
  · exact Keeps.execSampleRound hx1
  · exact Keeps.execRingConfigWrite hx1
  · exact Keeps.execPortStall hx1
  · exact Keeps.execTailAlarm hx1
  · exact Keeps.execRedAlarm hx1
  · exact Keeps.execDoorbell hx1
  · exact Keeps.execDescriptorFetch hx1
  · exact Keeps.execDmaBurst hx1
  · exact Keeps.execDescriptorComplete hx1
  · exact Keeps.execDmaTriggerStrobe hx1
  · exact Keeps.execDmaEnable hx1
  · exact Keeps.execDmaStart hx1
  · exact Keeps.execDmaPause hx1
  · exact Keeps.execDmaResume hx1
  · exact Keeps.execDmaStop hx1
  · exact Keeps.execDmaAbort hx1
  · exact Keeps.execDmaClear hx1
  · exact Keeps.execInjectUnitsGrant hx1
  · exact Keeps.execShadowWrite hx1
  · exact Keeps.execSaddleArm hx1
  · exact Keeps.execSaddle hx1
  · exact Keeps.execChkPreset hx1
  · exact Keeps.execChkConfigWrite hx1
  · exact Keeps.execChkDataFeed hx1
  · exact Keeps.execChkInit hx1
  · exact Keeps.execScanGo hx1
  · exact Keeps.execScanStop hx1
  · exact Keeps.execScanEnd hx1
  · exact Keeps.execPageDoorbell hx1
  · exact Keeps.execCryDescriptorFetch hx1
  · exact Keeps.execInlineOperation hx1
  · exact Keeps.execCoreAssign hx1
  · exact Keeps.execCryOperationComplete hx1
  · exact Keeps.execCryLoad hx1
  · exact Keeps.execCryUnwrap hx1
  · exact Keeps.execCryGen hx1
  · exact Keeps.execCryExport hx1
  · exact Keeps.execCryErase hx1
  · exact Keeps.execEraseComplete hx1
  · exact Keeps.execCryAttr hx1
  · exact Keeps.execCryInfo hx1
  · exact Keeps.execCryKeyResultPop hx1
  · exact Keeps.execPageEnable hx1
  · exact Keeps.execPageStop hx1
  · exact Keeps.execPageClear hx1
  · exact Keeps.execCtxSave hx1
  · exact Keeps.execCtxRestore hx1
  · exact Keeps.execCtxDrop hx1
  · exact Keeps.execPageResultPop hx1
  · exact Keeps.execSaLoad hx1
  · exact Keeps.execSaErase hx1
  · exact Keeps.execSaRead hx1
  · exact Keeps.execAlarmCondition hx1
  · exact Keeps.execAlarmEraseDone hx1
  · exact Keeps.execAlarmClear hx1
  · exact Keeps.execAlarmLock hx1
  · exact Keeps.execPkeCmdPush hx1
  · exact Keeps.execPkeHash hx1
  · exact Keeps.execPkeHmac hx1
  · exact Keeps.execPkeKdf hx1
  · exact Keeps.execPkeKeygen hx1
  · exact Keeps.execPkePubkey hx1
  · exact Keeps.execPkeSign hx1
  · exact Keeps.execPkeVerify hx1
  · exact Keeps.execPkeEcdh hx1
  · exact Keeps.execPkeRandom hx1
  · exact Keeps.execPkeReseed hx1
  · exact Keeps.execPkeMextend hx1
  · exact Keeps.execPkeAttest hx1
  · exact Keeps.execPkeSvnset hx1
  · exact Keeps.execPkeRevoke hx1
  · exact Keeps.execPkeResultPop hx1
  · exact Keeps.execRngRead hx1
  · exact Keeps.execEntropyStartupTest hx1
  · exact Keeps.execHealthTestFail hx1
  · exact Keeps.execReseedInterval hx1
  · exact Keeps.execImageVerify hx1
  · exact Keeps.execDebugChallenge hx1
  · exact Keeps.execDebugToken hx1
  · exact Keeps.execScrubRead hx1
  · exact Keeps.execScrubOverdue hx1
  · exact Keeps.execBackgroundWindowOpen hx1
  · exact Keeps.execBackgroundWindowClose hx1
  · exact Keeps.execCeAlarm hx1
  · exact Keeps.execDramRequest hx1
  · exact Keeps.execRequestPromote hx1
  · exact Keeps.execDramRefresh hx1
  · exact Keeps.execMr4Poll hx1
  · exact Keeps.execRaaTableClear hx1
  · exact Keeps.execNrefAlarm hx1
  · exact Keeps.execDrcTrain hx1
  · exact Keeps.execDrcRestore hx1
  · exact Keeps.execTrainStepDone hx1
  · exact Keeps.execSrEnter hx1
  · exact Keeps.execSrExit hx1
  · exact Keeps.execDrcStop hx1
  · exact Keeps.execDrcResultPop hx1
  · exact Keeps.execSridleEnter hx1
  · exact Keeps.execDumpUnlock hx1
  · exact Keeps.execInjectArm hx1
  · exact Keeps.execDictionaryImageLoad hx1
  · exact Keeps.execHeldValuesApply hx1
  · exact Keeps.execHdpPduReceive hx1
  · exact Keeps.execHdpOpen hx1
  · exact Keeps.execHdpAuth hx1
  · exact Keeps.execHdpClose hx1
  · exact Keeps.execHdpPing hx1
  · exact Keeps.execHdpRead hx1
  · exact Keeps.execHdpWrite hx1
  · exact Keeps.execHdpWriteMulti hx1
  · exact Keeps.execHdpInvoke hx1
  · exact Keeps.execHdpDescribe hx1
  · exact Keeps.execHdpSubscribe hx1
  · exact Keeps.execHdpEventAck hx1
  · exact Keeps.execHdpDigest hx1
  · exact Keeps.execHdpReadNet hx1
  · exact Keeps.execMbxinPush hx1
  · exact Keeps.execMbxoutPop hx1
  · exact Keeps.execCanSegmentReceive hx1
  · exact Keeps.execCanSegmentTimeout hx1
  · exact Keeps.execSpiPduWrite hx1
  · exact Keeps.execSpiPduRead hx1
  · exact Keeps.execSpiStatusRead hx1
  · exact Keeps.execFwRequestPop hx1
  · exact Keeps.execFwAnswer hx1
  · exact Keeps.execFwTimeout hx1
  · exact Keeps.execSessionTimeout hx1
  · exact Keeps.execAuthLockoutEnd hx1
  · exact Keeps.execSubscriptionDeliver hx1
  · exact Keeps.execEventSend hx1
  · exact Keeps.execEventAckTimeout hx1
  · exact Keeps.execStatecmd hx1
  · exact Keeps.execStateAutoChange hx1
  · exact Keeps.execJournalCommit hx1
  · exact Keeps.execJournalCompact hx1
  · exact Keeps.execDigestPull hx1
  · exact Keeps.execPullRetry hx1
  · exact Keeps.execCanTxfPush hx1
  · exact Keeps.execCanFrameSent hx1
  · exact Keeps.execCanFrameReceive hx1
  · exact Keeps.execCanBusState hx1
  · exact Keeps.execCanRxfPop hx1
  · exact Keeps.execStateReq hx1
  · exact Keeps.execSave hx1
  · exact Keeps.execRestart hx1
  · exact Keeps.execFallbackClear hx1
  · exact Keeps.execAttest hx1
  · exact Keeps.execKeyUnwrap hx1
  · exact Keeps.execKeyLoad hx1
  · exact Keeps.execCommit hx1
  · exact Keeps.execRelayCmd hx1
  · exact Keeps.execLevelCmd hx1
  · exact Keeps.execProfileStep hx1
  · exact Keeps.execDapcSend hx1
  · exact Keeps.execRelayFadeOpen hx1
  · exact Keeps.execCounterCollect hx1
  · exact Keeps.execPowerOnReset hx1
  · exact Keeps.execResetPin hx1
  · exact Keeps.execColdResetCmd hx1
  · exact Keeps.execWarmResetCmd hx1
  · exact Keeps.execWatchdogExpiry hx1
  · exact Keeps.execWdtEnable hx1
  · exact Keeps.execWdtKick hx1
  · exact Keeps.execResetRelease hx1
  · exact Keeps.execRefValid hx1
  · exact Keeps.execSramClearDone hx1
  · exact Keeps.execRecoveryImage hx1
  · exact Keeps.execRdyenSet hx1
  · exact Keeps.execStepset hx1
  · exact Keeps.execStepclr hx1
  · exact Keeps.execClkenWrite hx1
  · exact Keeps.execBootTimeout hx1
  · exact Keeps.execLedgerWrite hx1
  · exact Keeps.execOtpcntInc hx1
  · exact Keeps.execOtpFuseDone hx1
  · exact Keeps.execXspiOpPush hx1
  · exact Keeps.execXspiRead hx1
  · exact Keeps.execXspiProgram hx1
  · exact Keeps.execXspiErase hx1
  · exact Keeps.execXspiRaw hx1
  · exact Keeps.execXspiOpDone hx1
  · exact Keeps.execXspiResultPop hx1
  · exact Keeps.execDumpCopy hx1
  · exact Keeps.execSysAccerrPop hx1
  · exact Keeps.execSupplyOutOfRange hx1
  · exact Keeps.execUpstreamPoll hx1
  · exact Keeps.execPauseTimeExpiry hx1
  · exact Keeps.execSupplyBackInRange hx1
  · exact Keeps.execNetPllRetry hx1

/-! Tick -/

theorem Keeps.idleTick {o x0 : State} (hx0 : Keeps o x0) : Keeps o (State.idleTick x0) :=
  .ite hx0 (.relayRetake (.ptpTick (.tick hx0)))

/-! Step -/

theorem Keeps.withFetchWord {o s : State} {a b : Nat} (h : Keeps o s) : Keeps o (s.withFetchWord a b) := h

end Sys2Proof.Machine
end

