-- ==== Sys2Proof/Laws/PerInstr.lean ====
section
/-! SUPPORT. One lemma per command: a well-formed command names an address within the address space. -/

set_option Elab.async false

namespace Sys2Proof.Laws.WfCommand

/-- A well-formed command names only addresses of the address space. -/
def Statement (c : Instr) : Prop := c.wf = true → c.addr < addrSpace

theorem zero_lt : 0 < addrSpace := by decide

theorem registerWrite (i : Init) (a : Nat) (v : Word) : Statement (.registerWrite i a v) := of_decide_eq_true
theorem counterRead (i : Init) (a : Nat) : Statement (.counterRead i a) := of_decide_eq_true
theorem memoryAccess (i : Init) (a : BitVec 36) (op : MemOp) : Statement (.memoryAccess i a op) := fun _ => a.isLt
theorem receiveReserve (src : RxSource) (len : Nat) : Statement (.receiveReserve src len) := fun _ => zero_lt
theorem frameStored (r : WRadio) (release : Bool) : Statement (.frameStored r release) := fun _ => zero_lt
theorem frameForward (r : WRadio) : Statement (.frameForward r) := fun _ => zero_lt
theorem creditReturn (r : Radio) (a : Nat) : Statement (.creditReturn r a) := of_decide_eq_true
theorem readinessSet (k : Fin 26) : Statement (.readinessSet k) := fun _ => zero_lt
theorem readinessClear (k : Fin 26) : Statement (.readinessClear k) := fun _ => zero_lt
theorem mainsCrossing (spacing : Nat) (amp : Nat) : Statement (.mainsCrossing spacing amp) := fun _ => zero_lt
theorem crossingMissing : Statement (.crossingMissing) := fun _ => zero_lt
theorem holdEstimateUpdate : Statement (.holdEstimateUpdate) := fun _ => zero_lt
theorem beaconSample (src : Fin 4) (carried : GTime) (stamp : GTime) : Statement (.beaconSample src carried stamp) := fun _ => zero_lt
theorem seed (i : Init) : Statement (.seed i) := fun _ => zero_lt
theorem relearn (i : Init) : Statement (.relearn i) := fun _ => zero_lt
theorem hold (i : Init) : Statement (.hold i) := fun _ => zero_lt
theorem resume (i : Init) : Statement (.resume i) := fun _ => zero_lt
theorem gtuFree (i : Init) : Statement (.gtuFree i) := fun _ => zero_lt
theorem pmapCommit (i : Init) : Statement (.pmapCommit i) := fun _ => zero_lt
theorem pmapExpire : Statement (.pmapExpire) := fun _ => zero_lt
theorem bcnValidExpire : Statement (.bcnValidExpire) := fun _ => zero_lt
theorem gtuCtrlWrite (i : Init) (v : Word) : Statement (.gtuCtrlWrite i v) := fun _ => zero_lt
theorem gtuNowRead (i : Init) : Statement (.gtuNowRead i) := fun _ => zero_lt
theorem xlastRead (i : Init) : Statement (.xlastRead i) := fun _ => zero_lt
theorem replicaBroadcast : Statement (.replicaBroadcast) := fun _ => zero_lt
theorem gcArm (i : Init) (n : Fin 64) (v : Word) : Statement (.gcArm i n v) := fun _ => zero_lt
theorem gcDisarm (i : Init) (n : Fin 64) (v : Word) : Statement (.gcDisarm i n v) := fun _ => zero_lt
theorem gcFire (n : Fin 64) : Statement (.gcFire n) := fun _ => zero_lt
theorem pinPulseEnd (pin : Fin 48) : Statement (.pinPulseEnd pin) := fun _ => zero_lt
theorem eventOccurrence (ev : Fin 256) : Statement (.eventOccurrence ev) := fun _ => zero_lt
theorem eirqPulse (p : Fin 4) : Statement (.eirqPulse p) := fun _ => zero_lt
theorem pendingClear (i : Init) (d : Fin 14) (w : Fin 8) (v : Word) : Statement (.pendingClear i d w v) := fun _ => zero_lt
theorem softwareEvent (i : Init) (v : Word) : Statement (.softwareEvent i v) := fun _ => zero_lt
theorem subscriptionPop (i : Init) : Statement (.subscriptionPop i) := fun _ => zero_lt
theorem rfcCmdPush (i : Init) (r : Radio) (v : Word) : Statement (.rfcCmdPush i r v) := fun _ => zero_lt
theorem macPortCommand (r : Radio) (w : SixWords) : Statement (.macPortCommand r w) := fun _ => zero_lt
theorem rfcSleep (r : Radio) : Statement (.rfcSleep r) := fun _ => zero_lt
theorem rfcWake (r : Radio) : Statement (.rfcWake r) := fun _ => zero_lt
theorem rfcTune (r : Radio) : Statement (.rfcTune r) := fun _ => zero_lt
theorem rfcPrep (r : Radio) : Statement (.rfcPrep r) := fun _ => zero_lt
theorem rfcRx (r : Radio) : Statement (.rfcRx r) := fun _ => zero_lt
theorem rfcTx (r : Radio) : Statement (.rfcTx r) := fun _ => zero_lt
theorem rfcIdle (r : Radio) : Statement (.rfcIdle r) := fun _ => zero_lt
theorem rfcStandby (r : Radio) : Statement (.rfcStandby r) := fun _ => zero_lt
theorem rfcCal (r : Radio) : Statement (.rfcCal r) := fun _ => zero_lt
theorem rfcDpdup (r : Radio) : Statement (.rfcDpdup r) := fun _ => zero_lt
theorem rfcAbort (r : Radio) : Statement (.rfcAbort r) := fun _ => zero_lt
theorem rfcStore (r : Radio) : Statement (.rfcStore r) := fun _ => zero_lt
theorem rfcTransitionDone (r : Radio) : Statement (.rfcTransitionDone r) := fun _ => zero_lt
theorem synthLock (r : Radio) (codes : BitVec 24) : Statement (.synthLock r codes) := fun _ => zero_lt
theorem lockLoss (r : Radio) : Statement (.lockLoss r) := fun _ => zero_lt
theorem heldDeadline (r : Radio) : Statement (.heldDeadline r) := fun _ => zero_lt
theorem calStepDone (r : Radio) (ok : Bool) (codes : List (BitVec 32)) : Statement (.calStepDone r ok codes) := fun _ => zero_lt
theorem calPeriodDue (r : Radio) : Statement (.calPeriodDue r) := fun _ => zero_lt
theorem calTempDue (r : Radio) (temp : BitVec 16) : Statement (.calTempDue r temp) := fun _ => zero_lt
theorem calOverdue (r : Radio) : Statement (.calOverdue r) := fun _ => zero_lt
theorem autocalStart (r : Radio) : Statement (.autocalStart r) := fun _ => zero_lt
theorem dpdFitDone (r : WRadio) (nmse : BitVec 8) (plo : BitVec 8) (phi : BitVec 8) (coef : List (BitVec 32)) : Statement (.dpdFitDone r nmse plo phi coef) := fun _ => zero_lt
theorem dpdTimeout (r : WRadio) : Statement (.dpdTimeout r) := fun _ => zero_lt
theorem dpdDue (r : WRadio) : Statement (.dpdDue r) := fun _ => zero_lt
theorem femtWrite (i : Init) (r : Radio) (k : Fin 3) (v : Word) : Statement (.femtWrite i r k v) := fun _ => zero_lt
theorem rfcResultPop (i : Init) (r : Radio) : Statement (.rfcResultPop i r) := fun _ => zero_lt
theorem packetDetect (r : Radio) (pwr : Int) (stamp : GTime) : Statement (.packetDetect r pwr stamp) := fun _ => zero_lt
theorem fieldCheck (r : Radio) (first : Bool) (res : FieldOutcome) (w0 : Word) : Statement (.fieldCheck r first res w0) := fun _ => zero_lt
theorem unsupportedHoldEnd (r : Radio) : Statement (.unsupportedHoldEnd r) := fun _ => zero_lt
theorem secondDetection (r : Radio) (pwr : Int) (stamp : GTime) : Statement (.secondDetection r pwr stamp) := fun _ => zero_lt
theorem clipRestart (r : Radio) : Statement (.clipRestart r) := fun _ => zero_lt
theorem tbReceptionArm (r : WRadio) (users : List (BitVec 12)) (target : BitVec 8) : Statement (.tbReceptionArm r users target) := fun _ => zero_lt
theorem tbWindowEnd (r : WRadio) : Statement (.tbWindowEnd r) := fun _ => zero_lt
theorem codewordDecoded (r : WRadio) (fail : Bool) (half : Bool) (quarter : Bool) : Statement (.codewordDecoded r fail half quarter) := fun _ => zero_lt
theorem ppduReceiveEnd (r : Radio) (blocks : List RxMeas) : Statement (.ppduReceiveEnd r blocks) := fun _ => zero_lt
theorem transmitVector (r : Radio) (w : SevenWords) (stored : Bool) : Statement (.transmitVector r w stored) := fun _ => zero_lt
theorem ppduTxEnd (r : Radio) (us : Nat) : Statement (.ppduTxEnd r us) := fun _ => zero_lt
theorem smodeWrite (i : Init) (v : Word) : Statement (.smodeWrite i v) := fun _ => zero_lt
theorem noiseAlarm (r : Radio) (nf : BitVec 16) : Statement (.noiseAlarm r nf) := fun _ => zero_lt
theorem rxAnomalyAlarm (r : Radio) (grew : Nat) : Statement (.rxAnomalyAlarm r grew) := fun _ => zero_lt
theorem edcaCommit (r : WRadio) (x : ExchangeOut) (exempt : Bool) (mpdus : List Nat) : Statement (.edcaCommit r x exempt mpdus) := fun _ => zero_lt
theorem mpduReceive (r : WRadio) (f : RxFrame) : Statement (.mpduReceive r f) := fun _ => zero_lt
theorem controlResponse (r : WRadio) (kind : Fin 4) (users : List (BitVec 12 × Fin 8)) : Statement (.controlResponse r kind users) := fun _ => zero_lt
theorem beaconTbtt (r : WRadio) : Statement (.beaconTbtt r) := fun _ => zero_lt
theorem beaconDrop (r : WRadio) (bss : Fin 16) : Statement (.beaconDrop r bss) := fun _ => zero_lt
theorem beaconCommit (r : WRadio) (bss : Fin 16) (x : ExchangeOut) : Statement (.beaconCommit r bss x) := fun _ => zero_lt
theorem tsfRead (i : Init) (r : WRadio) : Statement (.tsfRead i r) := fun _ => zero_lt
theorem wifiBeaconReceive (r : WRadio) (b : WifiBeacon) : Statement (.wifiBeaconReceive r b) := fun _ => zero_lt
theorem notchFlagExpire (r : WRadio) (mis : Bool) : Statement (.notchFlagExpire r mis) := fun _ => zero_lt
theorem mpduLifetimeDrop (n : Nat) : Statement (.mpduLifetimeDrop n) := fun _ => zero_lt
theorem reorderTimeout (r : WRadio) (client : BitVec 12) (tid : Fin 8) : Statement (.reorderTimeout r client tid) := fun _ => zero_lt
theorem mpduMove (r : WRadio) : Statement (.mpduMove r) := fun _ => zero_lt
theorem twtSlipCheck (r : WRadio) (client : BitVec 12) (flow : Fin 8) : Statement (.twtSlipCheck r client flow) := fun _ => zero_lt
theorem dlMuPpdu (r : WRadio) (x : ExchangeOut) : Statement (.dlMuPpdu r x) := fun _ => zero_lt
theorem triggerSend (r : WRadio) (x : ExchangeOut) : Statement (.triggerSend r x) := fun _ => zero_lt
theorem sounding (r : WRadio) (sets : List (BitVec 12 × Nat)) : Statement (.sounding r sets) := fun _ => zero_lt
theorem notchSuspendChange (r : WRadio) : Statement (.notchSuspendChange r) := fun _ => zero_lt
theorem notchArm (i : Init) (r : WRadio) (v : Word) : Statement (.notchArm i r v) := fun _ => zero_lt
theorem notchPlanApply (r : WRadio) : Statement (.notchPlanApply r) := fun _ => zero_lt
theorem macCmdPush (i : Init) (r : WRadio) (v : Word) : Statement (.macCmdPush i r v) := fun _ => zero_lt
theorem bssStart (r : WRadio) : Statement (.bssStart r) := fun _ => zero_lt
theorem bssStop (r : WRadio) : Statement (.bssStop r) := fun _ => zero_lt
theorem linkAdd (r : WRadio) : Statement (.linkAdd r) := fun _ => zero_lt
theorem linkDel (r : WRadio) : Statement (.linkDel r) := fun _ => zero_lt
theorem baAdd (r : WRadio) : Statement (.baAdd r) := fun _ => zero_lt
theorem baDel (r : WRadio) : Statement (.baDel r) := fun _ => zero_lt
theorem twtSet (r : WRadio) : Statement (.twtSet r) := fun _ => zero_lt
theorem twtDel (r : WRadio) : Statement (.twtDel r) := fun _ => zero_lt
theorem meshStart (r : WRadio) : Statement (.meshStart r) := fun _ => zero_lt
theorem meshStop (r : WRadio) : Statement (.meshStop r) := fun _ => zero_lt
theorem macDrainDone (r : WRadio) : Statement (.macDrainDone r) := fun _ => zero_lt
theorem macResultPop (i : Init) (r : WRadio) : Statement (.macResultPop i r) := fun _ => zero_lt
theorem macDropAlarm (r : WRadio) (grew : Nat) : Statement (.macDropAlarm r grew) := fun _ => zero_lt
theorem stpCmdPush (i : Init) (v : Word) : Statement (.stpCmdPush i v) := fun _ => zero_lt
theorem stpRun : Statement (.stpRun) := fun _ => zero_lt
theorem stpStop : Statement (.stpStop) := fun _ => zero_lt
theorem clAdd : Statement (.clAdd) := fun _ => zero_lt
theorem clDel : Statement (.clDel) := fun _ => zero_lt
theorem clWord : Statement (.clWord) := fun _ => zero_lt
theorem clSusp : Statement (.clSusp) := fun _ => zero_lt
theorem clResume : Statement (.clResume) := fun _ => zero_lt
theorem twtPlace : Statement (.twtPlace) := fun _ => zero_lt
theorem twtFree : Statement (.twtFree) := fun _ => zero_lt
theorem driftReset : Statement (.driftReset) := fun _ => zero_lt
theorem stageMpdu (aborted : Bool) : Statement (.stageMpdu aborted) := fun _ => zero_lt
theorem exchangeResult (r : WRadio) (client : BitVec 12) (x : ExchangeIn) : Statement (.exchangeResult r client x) := fun _ => zero_lt
theorem planRequest (r : WRadio) (ac : Fin 4) (bw : Fin 5) (punct : BitVec 16) (limit : Nat) : Statement (.planRequest r ac bw punct limit) := fun _ => zero_lt
theorem spDecisionStart (r : WRadio) (client : BitVec 12) (bw : Fin 5) (punct : BitVec 16) (limit : Nat) : Statement (.spDecisionStart r client bw punct limit) := fun _ => zero_lt
theorem planDiscard (r : WRadio) : Statement (.planDiscard r) := fun _ => zero_lt
theorem decisionOverrun (r : WRadio) (ac : Fin 4) (limit : Nat) : Statement (.decisionOverrun r ac limit) := fun _ => zero_lt
theorem driftSample (client : BitVec 12) (timing : Bool) (stamp : GTime) : Statement (.driftSample client timing stamp) := fun _ => zero_lt
theorem spWindowEnd (client : BitVec 12) : Statement (.spWindowEnd client) := fun _ => zero_lt
theorem listenEnd (client : BitVec 12) : Statement (.listenEnd client) := fun _ => zero_lt
theorem stpPendWrite (i : Init) (v : Word) : Statement (.stpPendWrite i v) := fun _ => zero_lt
theorem stpResultPop (i : Init) : Statement (.stpResultPop i) := fun _ => zero_lt
theorem superframeStart : Statement (.superframeStart) := fun _ => zero_lt
theorem scheduleArm (i : Init) (v : Word) : Statement (.scheduleArm i v) := fun _ => zero_lt
theorem scheduleApply : Statement (.scheduleApply) := fun _ => zero_lt
theorem ownerMapBuild : Statement (.ownerMapBuild) := fun _ => zero_lt
theorem fieldBeaconCommit : Statement (.fieldBeaconCommit) := fun _ => zero_lt
theorem fieldFrameReceive (f : FieldRx) : Statement (.fieldFrameReceive f) := fun _ => zero_lt
theorem fieldResponse : Statement (.fieldResponse) := fun _ => zero_lt
theorem pollWindowEnd (entry : Fin 1024) : Statement (.pollWindowEnd entry) := fun _ => zero_lt
theorem passRegionStart : Statement (.passRegionStart) := fun _ => zero_lt
theorem valleyStart : Statement (.valleyStart) := fun _ => zero_lt
theorem upBeaconListenEnd : Statement (.upBeaconListenEnd) := fun _ => zero_lt
theorem upHoldEnd : Statement (.upHoldEnd) := fun _ => zero_lt
theorem longListenEnd : Statement (.longListenEnd) := fun _ => zero_lt
theorem longListenRetry : Statement (.longListenRetry) := fun _ => zero_lt
theorem ptabAgeExpire (j : Fin 8) : Statement (.ptabAgeExpire j) := fun _ => zero_lt
theorem ptabWrite (i : Init) (j : Fin 8) (k : Fin 4) (v : Word) : Statement (.ptabWrite i j k v) := fun _ => zero_lt
theorem dwellBinRoll (g : Fin 8) : Statement (.dwellBinRoll g) := fun _ => zero_lt
theorem fmacCmdPush (i : Init) (v : Word) : Statement (.fmacCmdPush i v) := fun _ => zero_lt
theorem sfStart : Statement (.sfStart) := fun _ => zero_lt
theorem sfStop : Statement (.sfStop) := fun _ => zero_lt
theorem upAttach : Statement (.upAttach) := fun _ => zero_lt
theorem upDetach : Statement (.upDetach) := fun _ => zero_lt
theorem assign : Statement (.assign) := fun _ => zero_lt
theorem release : Statement (.release) := fun _ => zero_lt
theorem dlStage : Statement (.dlStage) := fun _ => zero_lt
theorem dlCancel : Statement (.dlCancel) := fun _ => zero_lt
theorem keyset : Statement (.keyset) := fun _ => zero_lt
theorem fieldDrainDone : Statement (.fieldDrainDone) := fun _ => zero_lt
theorem fmacResultPop (i : Init) : Statement (.fmacResultPop i) := fun _ => zero_lt
theorem packetClassify : Statement (.packetClassify) := fun _ => zero_lt
theorem espResult : Statement (.espResult) := fun _ => zero_lt
theorem rewriteUnitsGrant : Statement (.rewriteUnitsGrant) := fun _ => zero_lt
theorem legacyReorderRelease : Statement (.legacyReorderRelease) := fun _ => zero_lt
theorem pipeTabWrite (i : Init) (w : Fin 32) (v : Word) : Statement (.pipeTabWrite i w v) := fun _ => zero_lt
theorem pipeTabApply : Statement (.pipeTabApply) := fun _ => zero_lt
theorem fenceStart (i : Init) (v : Word) : Statement (.fenceStart i v) := fun _ => zero_lt
theorem fenceDone : Statement (.fenceDone) := fun _ => zero_lt
theorem updWrite (i : Init) (dram : Bool) (slot : BitVec 24) : Statement (.updWrite i dram slot) := fun _ => zero_lt
theorem updClear (i : Init) (dram : Bool) (slot : BitVec 24) : Statement (.updClear i dram slot) := fun _ => zero_lt
theorem updHash (i : Init) (dram : Bool) (slot : BitVec 24) : Statement (.updHash i dram slot) := fun _ => zero_lt
theorem updComplete : Statement (.updComplete) := fun _ => zero_lt
theorem missAlarm (grew : Nat) : Statement (.missAlarm grew) := fun _ => zero_lt
theorem oddAlarm (grew : Nat) : Statement (.oddAlarm grew) := fun _ => zero_lt
theorem ppeCounterRead (i : Init) (n : Fin 2048) (bytes : Bool) : Statement (.ppeCounterRead i n bytes) := fun _ => zero_lt
theorem ethFrameReceive (p : Fin 6) (data : List (BitVec 8)) (stamp : GTime) (ns : BitVec 64) : Statement (.ethFrameReceive p data stamp ns) := fun _ => zero_lt
theorem ethFrameTransmit (p : Fin 6) (stamp : GTime) (ns : BitVec 64) : Statement (.ethFrameTransmit p stamp ns) := fun _ => zero_lt
theorem pauseReceive (p : Fin 6) (quanta : BitVec 16) : Statement (.pauseReceive p quanta) := fun _ => zero_lt
theorem pauseRepeat (p : Fin 6) : Statement (.pauseRepeat p) := fun _ => zero_lt
theorem linkChange (p : Fin 6) (up : Bool) (mode : Fin 4) (speed : Fin 6) : Statement (.linkChange p up mode speed) := fun _ => zero_lt
theorem ptpRead (i : Init) : Statement (.ptpRead i) := fun _ => zero_lt
theorem ptpStep (i : Init) (v : Word) : Statement (.ptpStep i v) := fun _ => zero_lt
theorem txtsPop (i : Init) (p : Fin 6) : Statement (.txtsPop i p) := fun _ => zero_lt
theorem mdioGo (i : Init) (v : Word) : Statement (.mdioGo i v) := fun _ => zero_lt
theorem mdioDone (d : BitVec 16) : Statement (.mdioDone d) := fun _ => zero_lt
theorem enqueue : Statement (.enqueue) := fun _ => zero_lt
theorem poolApply (i : Init) (v : Word) : Statement (.poolApply i v) := fun _ => zero_lt
theorem rpoolWrite (i : Init) (r : Radio) (v : Word) : Statement (.rpoolWrite i r v) := fun _ => zero_lt
theorem qmgFree (i : Init) (v : Word) : Statement (.qmgFree i v) := fun _ => zero_lt
theorem qmgCmdPush (i : Init) (v : Word) : Statement (.qmgCmdPush i v) := fun _ => zero_lt
theorem qCreate : Statement (.qCreate) := fun _ => zero_lt
theorem qDelete : Statement (.qDelete) := fun _ => zero_lt
theorem qSet : Statement (.qSet) := fun _ => zero_lt
theorem qMove : Statement (.qMove) := fun _ => zero_lt
theorem qStart : Statement (.qStart) := fun _ => zero_lt
theorem qStop : Statement (.qStop) := fun _ => zero_lt
theorem qFlush : Statement (.qFlush) := fun _ => zero_lt
theorem qmgResultPop (i : Init) : Statement (.qmgResultPop i) := fun _ => zero_lt
theorem tmgSelect : Statement (.tmgSelect) := fun _ => zero_lt
theorem sampleRound : Statement (.sampleRound) := fun _ => zero_lt
theorem ringConfigWrite (i : Init) (delivery : Bool) (n : Fin 16) (k : Fin 3) (v : Word) : Statement (.ringConfigWrite i delivery n k v) := fun _ => zero_lt
theorem portStall (p : Fin 16) : Statement (.portStall p) := fun _ => zero_lt
theorem tailAlarm (grew : Nat) : Statement (.tailAlarm grew) := fun _ => zero_lt
theorem redAlarm (grew : Nat) : Statement (.redAlarm grew) := fun _ => zero_lt
theorem doorbell (i : Init) (n : Fin 128) (v : Word) : Statement (.doorbell i n v) := fun _ => zero_lt
theorem descriptorFetch (n : Fin 128) (hw : Bool) : Statement (.descriptorFetch n hw) := fun _ => zero_lt
theorem dmaBurst (n : Fin 128) (request : Bool) (withdrawn : Bool) (fail : Fin 3) : Statement (.dmaBurst n request withdrawn fail) := fun _ => zero_lt
theorem descriptorComplete (n : Fin 128) (fail : Bool) : Statement (.descriptorComplete n fail) := fun _ => zero_lt
theorem dmaTriggerStrobe (n : Fin 128) (stamp : GTime) : Statement (.dmaTriggerStrobe n stamp) := fun _ => zero_lt
theorem dmaEnable (i : Init) (n : Fin 128) : Statement (.dmaEnable i n) := fun _ => zero_lt
theorem dmaStart (i : Init) (n : Fin 128) : Statement (.dmaStart i n) := fun _ => zero_lt
theorem dmaPause (i : Init) (n : Fin 128) : Statement (.dmaPause i n) := fun _ => zero_lt
theorem dmaResume (i : Init) (n : Fin 128) : Statement (.dmaResume i n) := fun _ => zero_lt
theorem dmaStop (i : Init) (n : Fin 128) : Statement (.dmaStop i n) := fun _ => zero_lt
theorem dmaAbort (i : Init) (n : Fin 128) : Statement (.dmaAbort i n) := fun _ => zero_lt
theorem dmaClear (i : Init) (n : Fin 128) : Statement (.dmaClear i n) := fun _ => zero_lt
theorem injectUnitsGrant (n : Fin 128) : Statement (.injectUnitsGrant n) := fun _ => zero_lt
theorem shadowWrite (i : Init) (n : Fin 128) (k : Fin 4) (v : Word) : Statement (.shadowWrite i n k v) := fun _ => zero_lt
theorem saddleArm (i : Init) (n : Fin 128) (v : Word) : Statement (.saddleArm i n v) := fun _ => zero_lt
theorem saddle (n : Fin 128) : Statement (.saddle n) := fun _ => zero_lt
theorem chkPreset (i : Init) (u : Fin 16) (v : Word) : Statement (.chkPreset i u v) := fun _ => zero_lt
theorem chkConfigWrite (i : Init) (u : Fin 16) (k : Fin 4) (v : Word) : Statement (.chkConfigWrite i u k v) := fun _ => zero_lt
theorem chkDataFeed (i : Init) (u : Fin 16) (k : Fin 3) (v : Word) : Statement (.chkDataFeed i u k v) := fun _ => zero_lt
theorem chkInit (i : Init) (u : Fin 16) (v : Word) : Statement (.chkInit i u v) := fun _ => zero_lt
theorem scanGo (i : Init) (v : Word) : Statement (.scanGo i v) := fun _ => zero_lt
theorem scanStop (i : Init) (v : Word) : Statement (.scanStop i v) := fun _ => zero_lt
theorem scanEnd (hw : Bool) (read : BitVec 32) : Statement (.scanEnd hw read) := fun _ => zero_lt
theorem pageDoorbell (i : Init) (n : Fin 32) (v : Word) : Statement (.pageDoorbell i n v) := fun _ => zero_lt
theorem cryDescriptorFetch (n : Fin 32) : Statement (.cryDescriptorFetch n) := fun _ => zero_lt
theorem inlineOperation (n : Fin 6) (op : InlineOp) : Statement (.inlineOperation n op) := fun _ => zero_lt
theorem coreAssign : Statement (.coreAssign) := fun _ => zero_lt
theorem cryOperationComplete (c : Fin 12) : Statement (.cryOperationComplete c) := fun _ => zero_lt
theorem cryLoad (i : Init) (tag : BitVec 8) (slot : Fin 1024) : Statement (.cryLoad i tag slot) := fun _ => zero_lt
theorem cryUnwrap (i : Init) (tag : BitVec 8) (slot : Fin 1024) : Statement (.cryUnwrap i tag slot) := fun _ => zero_lt
theorem cryGen (i : Init) (tag : BitVec 8) (slot : Fin 1024) : Statement (.cryGen i tag slot) := fun _ => zero_lt
theorem cryExport (i : Init) (tag : BitVec 8) (slot : Fin 1024) : Statement (.cryExport i tag slot) := fun _ => zero_lt
theorem cryErase (i : Init) (tag : BitVec 8) (slot : Fin 1024) : Statement (.cryErase i tag slot) := fun _ => zero_lt
theorem eraseComplete (slot : Fin 1024) : Statement (.eraseComplete slot) := fun _ => zero_lt
theorem cryAttr (i : Init) (tag : BitVec 8) (slot : Fin 1024) : Statement (.cryAttr i tag slot) := fun _ => zero_lt
theorem cryInfo (i : Init) (tag : BitVec 8) (slot : Fin 1024) : Statement (.cryInfo i tag slot) := fun _ => zero_lt
theorem cryKeyResultPop (i : Init) : Statement (.cryKeyResultPop i) := fun _ => zero_lt
theorem pageEnable (i : Init) (n : Fin 32) (tag : BitVec 8) : Statement (.pageEnable i n tag) := fun _ => zero_lt
theorem pageStop (i : Init) (n : Fin 32) (tag : BitVec 8) : Statement (.pageStop i n tag) := fun _ => zero_lt
theorem pageClear (i : Init) (n : Fin 32) (tag : BitVec 8) : Statement (.pageClear i n tag) := fun _ => zero_lt
theorem ctxSave (i : Init) (n : Fin 32) (tag : BitVec 8) (c : Fin 4) : Statement (.ctxSave i n tag c) := fun _ => zero_lt
theorem ctxRestore (i : Init) (n : Fin 32) (tag : BitVec 8) (c : Fin 4) : Statement (.ctxRestore i n tag c) := fun _ => zero_lt
theorem ctxDrop (i : Init) (n : Fin 32) (tag : BitVec 8) (c : Fin 4) : Statement (.ctxDrop i n tag c) := fun _ => zero_lt
theorem pageResultPop (i : Init) (n : Fin 32) : Statement (.pageResultPop i n) := fun _ => zero_lt
theorem saLoad (i : Init) (tag : BitVec 8) (sa : Fin 256) : Statement (.saLoad i tag sa) := fun _ => zero_lt
theorem saErase (i : Init) (tag : BitVec 8) (sa : Fin 256) : Statement (.saErase i tag sa) := fun _ => zero_lt
theorem saRead (i : Init) (tag : BitVec 8) (sa : Fin 256) : Statement (.saRead i tag sa) := fun _ => zero_lt
theorem alarmCondition (k : Fin 10) : Statement (.alarmCondition k) := fun _ => zero_lt
theorem alarmEraseDone : Statement (.alarmEraseDone) := fun _ => zero_lt
theorem alarmClear (i : Init) (v : Word) : Statement (.alarmClear i v) := fun _ => zero_lt
theorem alarmLock (i : Init) (v : Word) : Statement (.alarmLock i v) := fun _ => zero_lt
theorem pkeCmdPush (i : Init) (v : Word) : Statement (.pkeCmdPush i v) := fun _ => zero_lt
theorem pkeHash : Statement (.pkeHash) := fun _ => zero_lt
theorem pkeHmac : Statement (.pkeHmac) := fun _ => zero_lt
theorem pkeKdf : Statement (.pkeKdf) := fun _ => zero_lt
theorem pkeKeygen : Statement (.pkeKeygen) := fun _ => zero_lt
theorem pkePubkey : Statement (.pkePubkey) := fun _ => zero_lt
theorem pkeSign : Statement (.pkeSign) := fun _ => zero_lt
theorem pkeVerify : Statement (.pkeVerify) := fun _ => zero_lt
theorem pkeEcdh : Statement (.pkeEcdh) := fun _ => zero_lt
theorem pkeRandom : Statement (.pkeRandom) := fun _ => zero_lt
theorem pkeReseed : Statement (.pkeReseed) := fun _ => zero_lt
theorem pkeMextend : Statement (.pkeMextend) := fun _ => zero_lt
theorem pkeAttest : Statement (.pkeAttest) := fun _ => zero_lt
theorem pkeSvnset : Statement (.pkeSvnset) := fun _ => zero_lt
theorem pkeRevoke : Statement (.pkeRevoke) := fun _ => zero_lt
theorem pkeResultPop (i : Init) : Statement (.pkeResultPop i) := fun _ => zero_lt
theorem rngRead (i : Init) : Statement (.rngRead i) := fun _ => zero_lt
theorem entropyStartupTest (ok : Bool) : Statement (.entropyStartupTest ok) := fun _ => zero_lt
theorem healthTestFail : Statement (.healthTestFail) := fun _ => zero_lt
theorem reseedInterval : Statement (.reseedInterval) := fun _ => zero_lt
theorem imageVerify (rom : Bool) (target : Fin 8) (off : Nat) : Statement (.imageVerify rom target off) := of_decide_eq_true
theorem debugChallenge : Statement (.debugChallenge) := fun _ => zero_lt
theorem debugToken (scope : BitVec 8) (challenge : List (BitVec 8)) (pubkey : List (BitVec 8)) (sig : List (BitVec 8)) : Statement (.debugToken scope challenge pubkey sig) := fun _ => zero_lt
theorem scrubRead (dram : Bool) : Statement (.scrubRead dram) := fun _ => zero_lt
theorem scrubOverdue (dram : Bool) : Statement (.scrubOverdue dram) := fun _ => zero_lt
theorem backgroundWindowOpen (dram : Bool) : Statement (.backgroundWindowOpen dram) := fun _ => zero_lt
theorem backgroundWindowClose (dram : Bool) : Statement (.backgroundWindowClose dram) := fun _ => zero_lt
theorem ceAlarm (dram : Bool) : Statement (.ceAlarm dram) := fun _ => zero_lt
theorem dramRequest (arrive : List DramArrival) (chan : Fin 4) : Statement (.dramRequest arrive chan) := fun _ => zero_lt
theorem requestPromote (k : Nat) : Statement (.requestPromote k) := fun _ => zero_lt
theorem dramRefresh (chan : Fin 4) (bank : Fin 16) : Statement (.dramRefresh chan bank) := fun _ => zero_lt
theorem mr4Poll (codes : Word) : Statement (.mr4Poll codes) := fun _ => zero_lt
theorem raaTableClear : Statement (.raaTableClear) := fun _ => zero_lt
theorem nrefAlarm : Statement (.nrefAlarm) := fun _ => zero_lt
theorem drcTrain (i : Init) (tag : BitVec 8) (speed : Fin 4) : Statement (.drcTrain i tag speed) := fun _ => zero_lt
theorem drcRestore (i : Init) (tag : BitVec 8) (speed : Fin 4) : Statement (.drcRestore i tag speed) := fun _ => zero_lt
theorem trainStepDone (fail : BitVec 4) (mismatch : Bool) (dens : Fin 6) (ranks : Bool) : Statement (.trainStepDone fail mismatch dens ranks) := fun _ => zero_lt
theorem srEnter (i : Init) (tag : BitVec 8) (speed : Fin 4) : Statement (.srEnter i tag speed) := fun _ => zero_lt
theorem srExit (i : Init) (tag : BitVec 8) (speed : Fin 4) : Statement (.srExit i tag speed) := fun _ => zero_lt
theorem drcStop (i : Init) (tag : BitVec 8) (speed : Fin 4) : Statement (.drcStop i tag speed) := fun _ => zero_lt
theorem drcResultPop (i : Init) : Statement (.drcResultPop i) := fun _ => zero_lt
theorem sridleEnter : Statement (.sridleEnter) := fun _ => zero_lt
theorem dumpUnlock (i : Init) (v : Word) : Statement (.dumpUnlock i v) := fun _ => zero_lt
theorem injectArm (i : Init) (dram : Bool) (v : Word) : Statement (.injectArm i dram v) := fun _ => zero_lt
theorem dictionaryImageLoad : Statement (.dictionaryImageLoad) := fun _ => zero_lt
theorem heldValuesApply : Statement (.heldValuesApply) := fun _ => zero_lt
theorem hdpPduReceive : Statement (.hdpPduReceive) := fun _ => zero_lt
theorem hdpOpen : Statement (.hdpOpen) := fun _ => zero_lt
theorem hdpAuth : Statement (.hdpAuth) := fun _ => zero_lt
theorem hdpClose : Statement (.hdpClose) := fun _ => zero_lt
theorem hdpPing : Statement (.hdpPing) := fun _ => zero_lt
theorem hdpRead : Statement (.hdpRead) := fun _ => zero_lt
theorem hdpWrite : Statement (.hdpWrite) := fun _ => zero_lt
theorem hdpWriteMulti : Statement (.hdpWriteMulti) := fun _ => zero_lt
theorem hdpInvoke : Statement (.hdpInvoke) := fun _ => zero_lt
theorem hdpDescribe : Statement (.hdpDescribe) := fun _ => zero_lt
theorem hdpSubscribe : Statement (.hdpSubscribe) := fun _ => zero_lt
theorem hdpEventAck : Statement (.hdpEventAck) := fun _ => zero_lt
theorem hdpDigest : Statement (.hdpDigest) := fun _ => zero_lt
theorem hdpReadNet : Statement (.hdpReadNet) := fun _ => zero_lt
theorem mbxinPush (i : Init) (v : Word) : Statement (.mbxinPush i v) := fun _ => zero_lt
theorem mbxoutPop (i : Init) : Statement (.mbxoutPop i) := fun _ => zero_lt
theorem canSegmentReceive (p : Fin 2) (fd : Bool) (data : List (BitVec 8)) : Statement (.canSegmentReceive p fd data) := fun _ => zero_lt
theorem canSegmentTimeout (p : Fin 2) : Statement (.canSegmentTimeout p) := fun _ => zero_lt
theorem spiPduWrite (len : BitVec 16) (pdu : List (BitVec 8)) (crc : BitVec 32) : Statement (.spiPduWrite len pdu crc) := fun _ => zero_lt
theorem spiPduRead : Statement (.spiPduRead) := fun _ => zero_lt
theorem spiStatusRead : Statement (.spiStatusRead) := fun _ => zero_lt
theorem fwRequestPop (i : Init) (c : Fin 6) : Statement (.fwRequestPop i c) := fun _ => zero_lt
theorem fwAnswer (i : Init) (c : Fin 6) (v : Word) : Statement (.fwAnswer i c v) := fun _ => zero_lt
theorem fwTimeout : Statement (.fwTimeout) := fun _ => zero_lt
theorem sessionTimeout (sid : Fin 256) : Statement (.sessionTimeout sid) := fun _ => zero_lt
theorem authLockoutEnd : Statement (.authLockoutEnd) := fun _ => zero_lt
theorem subscriptionDeliver : Statement (.subscriptionDeliver) := fun _ => zero_lt
theorem eventSend (sid : Fin 256) : Statement (.eventSend sid) := fun _ => zero_lt
theorem eventAckTimeout (sid : Fin 256) : Statement (.eventAckTimeout sid) := fun _ => zero_lt
theorem statecmd (i : Init) (v : Word) : Statement (.statecmd i v) := fun _ => zero_lt
theorem stateAutoChange : Statement (.stateAutoChange) := fun _ => zero_lt
theorem journalCommit (fail : Bool) : Statement (.journalCommit fail) := fun _ => zero_lt
theorem journalCompact (bad : Nat) : Statement (.journalCompact bad) := fun _ => zero_lt
theorem digestPull (p : PullIn) : Statement (.digestPull p) := fun _ => zero_lt
theorem pullRetry (p : PullIn) : Statement (.pullRetry p) := fun _ => zero_lt
theorem canTxfPush (i : Init) (p : Fin 2) (v : Word) : Statement (.canTxfPush i p v) := fun _ => zero_lt
theorem canFrameSent (p : Fin 2) : Statement (.canFrameSent p) := fun _ => zero_lt
theorem canFrameReceive (p : Fin 2) (hdr : BitVec 31) (info : BitVec 6) (data : List (BitVec 8)) : Statement (.canFrameReceive p hdr info data) := fun _ => zero_lt
theorem canBusState (p : Fin 2) (code : Fin 3) (tec : BitVec 8) (rec : BitVec 8) : Statement (.canBusState p code tec rec) := fun _ => zero_lt
theorem canRxfPop (i : Init) (p : Fin 2) : Statement (.canRxfPop i p) := fun _ => zero_lt
theorem stateReq : Statement (.stateReq) := fun _ => zero_lt
theorem save : Statement (.save) := fun _ => zero_lt
theorem restart : Statement (.restart) := fun _ => zero_lt
theorem fallbackClear : Statement (.fallbackClear) := fun _ => zero_lt
theorem attest : Statement (.attest) := fun _ => zero_lt
theorem keyUnwrap : Statement (.keyUnwrap) := fun _ => zero_lt
theorem keyLoad : Statement (.keyLoad) := fun _ => zero_lt
theorem commit : Statement (.commit) := fun _ => zero_lt
theorem relayCmd : Statement (.relayCmd) := fun _ => zero_lt
theorem levelCmd : Statement (.levelCmd) := fun _ => zero_lt
theorem profileStep : Statement (.profileStep) := fun _ => zero_lt
theorem dapcSend : Statement (.dapcSend) := fun _ => zero_lt
theorem relayFadeOpen : Statement (.relayFadeOpen) := fun _ => zero_lt
theorem counterCollect : Statement (.counterCollect) := fun _ => zero_lt
theorem powerOnReset : Statement (.powerOnReset) := fun _ => zero_lt
theorem resetPin : Statement (.resetPin) := fun _ => zero_lt
theorem coldResetCmd (i : Init) (key : BitVec 16) : Statement (.coldResetCmd i key) := fun _ => zero_lt
theorem warmResetCmd (i : Init) (key : BitVec 16) : Statement (.warmResetCmd i key) := fun _ => zero_lt
theorem watchdogExpiry : Statement (.watchdogExpiry) := fun _ => zero_lt
theorem wdtEnable (i : Init) (v : Word) : Statement (.wdtEnable i v) := fun _ => zero_lt
theorem wdtKick (i : Init) (v : Word) : Statement (.wdtKick i v) := fun _ => zero_lt
theorem resetRelease (rlyNc : Bool) : Statement (.resetRelease rlyNc) := fun _ => zero_lt
theorem refValid : Statement (.refValid) := fun _ => zero_lt
theorem sramClearDone (flashSize : BitVec 32) : Statement (.sramClearDone flashSize) := fun _ => zero_lt
theorem recoveryImage (d : List (BitVec 8)) : Statement (.recoveryImage d) := fun _ => zero_lt
theorem rdyenSet (i : Init) (v : Word) : Statement (.rdyenSet i v) := fun _ => zero_lt
theorem stepset (i : Init) (v : Word) : Statement (.stepset i v) := fun _ => zero_lt
theorem stepclr (i : Init) (v : Word) : Statement (.stepclr i v) := fun _ => zero_lt
theorem clkenWrite (i : Init) (v : Word) : Statement (.clkenWrite i v) := fun _ => zero_lt
theorem bootTimeout (journal : Bool) (status : Option (BitVec 8)) : Statement (.bootTimeout journal status) := fun _ => zero_lt
theorem ledgerWrite (data : List (BitVec 32)) : Statement (.ledgerWrite data) := fun _ => zero_lt
theorem otpcntInc (i : Init) (v : Word) : Statement (.otpcntInc i v) := fun _ => zero_lt
theorem otpFuseDone : Statement (.otpFuseDone) := fun _ => zero_lt
theorem xspiOpPush (i : Init) (v : Word) : Statement (.xspiOpPush i v) := fun _ => zero_lt
theorem xspiRead : Statement (.xspiRead) := fun _ => zero_lt
theorem xspiProgram : Statement (.xspiProgram) := fun _ => zero_lt
theorem xspiErase : Statement (.xspiErase) := fun _ => zero_lt
theorem xspiRaw : Statement (.xspiRaw) := fun _ => zero_lt
theorem xspiOpDone (fail : Fin 3) (data : List (BitVec 8)) : Statement (.xspiOpDone fail data) := fun _ => zero_lt
theorem xspiResultPop (i : Init) : Statement (.xspiResultPop i) := fun _ => zero_lt
theorem dumpCopy : Statement (.dumpCopy) := fun _ => zero_lt
theorem sysAccerrPop (i : Init) : Statement (.sysAccerrPop i) := fun _ => zero_lt
theorem supplyOutOfRange (k : Fin 4) : Statement (.supplyOutOfRange k) := fun _ => zero_lt
theorem upstreamPoll (start : GTime) (queued : BitVec 8) (status : BitVec 7) (data : Option (List (BitVec 8))) (enc : Bool) : Statement (.upstreamPoll start queued status data enc) := fun _ => zero_lt
theorem pauseTimeExpiry (p : Fin 6) : Statement (.pauseTimeExpiry p) := fun _ => zero_lt
theorem supplyBackInRange : Statement (.supplyBackInRange) := fun _ => zero_lt
theorem netPllRetry (locked : Bool) : Statement (.netPllRetry locked) := fun _ => zero_lt

end Sys2Proof.Laws.WfCommand
end

