-- ==== Sys2Proof/Laws/Step.lean ====
section
/-! SUPPORT. What a command and a step keep. -/

set_option Elab.async false

namespace Sys2Proof.Machine

/-- No command breaks the invariant, touches the queue or uses a free value again. -/
theorem exec_keeps {c : Instr} {s t : State} (h : exec c s = .next t) : Keeps s t := Keeps.exec (.refl s) t h

/-- What a step keeps: everything but the queue, of which it takes the front. -/
theorem step_keeps {s t : State} (h : step s = .next t) : Keeps (s.withPending s.pending.tail) t := by
  unfold step at h
  split at h
  · rename_i e
    cases h
    have k : Keeps s s.idleTick := .idleTick (.refl s)
    rw [e]
    exact ⟨k.1, k.2.1.trans e, k.2.2⟩
  · rename_i c rest e
    rw [e]
    exact exec_keeps h

end Sys2Proof.Machine
end

