-- ==== Sys2Proof/Tests/Slice0.lean ====
section
/-! SUPPORT. Tests: ill-formed commands that the check refuses; values that the spec works out; and, for each obligation with
hypotheses, one theorem that shows states and operands meeting the hypotheses of its clauses. Not shown there: clauses whose
hypotheses ask for a valid ECDSA signature (an accepted image, an accepted debug token), for an accepted key wrap (its
attributes are read by an uninterpreted function), for a training record whose 2,044 bytes pass or fail their CRC, and for
the protected field frames whose length only a whole AES-CCM gives. -/

set_option Elab.async false

namespace Sys2Proof.Tests

open Sys2Proof Sys2Proof.Machine

/-! ## Values to build states from -/


/-- The machine after reset, and after reset with every start step passed. -/
abbrev reset : State := State.reset
def S0 : State := State.reset.setRegN R.SYS_STEPOK 0x3FFFFFF

/-- Sample values. -/
def res0 : Res := ⟨1, 2, 0, 0⟩
def rcmd (opc : Nat) : RfcCmd := ⟨opc, 0, 0, false, false, false, 0, 0, 0, 1⟩
def oreq (op : Nat) (l : List Byte) : OdeReq := ⟨3, op, 0x10, 1, 0, 1, l, [], [], none⟩
def ses : Session := ⟨1, 0, 3, false, false, true, 0, [], [], 0, 0, [], 0, [], none⟩
def fwq (ref : Nat) (l : List Byte) : FwReq := ⟨1, 0, 3, 0, ref, 0, l, false⟩
def key0 : KeySlot := ⟨Slot.LOADED, 1, 0xFF, 0xFFFFFFFF, 1, 0, List.replicate 32 0, 0⟩
def cop : CryOp := ⟨0, true, false, 0, false, 0, 0, 0, 0, 0, [], 0, 0, 0, 0, 0, 0, [], [], [], none, false, none, false, [], 0, none⟩
def mpdu0 : Mpdu := ⟨1, 0, [], 1, 0, 0, 0, 0, 0, 1, 0, 0, true, false, [0]⟩
def rxm0 : RxMpdu := ⟨1, 0, [], 1, 0, 0, 0, 0, 0, 0, [0], 0, 0, true⟩
def frame0 : Frame := ⟨0x11000000, [], 64, 0, 1, 0⟩
def fop (kind : Nat) : FlashOp := ⟨kind, 0, 0, 0, 0, 16, 0x11370000⟩
def pperun : PpeRun := ⟨0, 0, false, [], 0, 0, 0, 0, 0, 0, 0, 0, false, false, 0, 0, 0, 0, 0⟩
def pull0 : PullIn := ⟨true, 1, [], [], []⟩
def fresp : FieldResp := ⟨none, 0, 0, false, 0, false, false, 0, 0⟩
def cctx : CryCtx := ⟨0, 0, false, 0, 0, [], 0, 0, [], []⟩
def rxf0 : RxFrame := ⟨true, false, 0, 0, 0, 0, false, false, 0, true, false, false, false, none, []⟩
def gte0 : GteIn := ⟨2, 0, 0, 1, 0, 0, 0, 0, 0⟩
def wbn0 : WifiBeacon := ⟨0, true, false, true, some gte0, 0⟩
def frx0 : FieldRx := ⟨[], false, 0, 0, 0, false⟩
def iop0 : InlineOp := ⟨0, false, 0, 0, List.replicate 16 0, [], List.replicate 16 0, []⟩
def xo0 : ExchangeOut := ⟨⟨0, 0, 0, 0, 0, 0, 0⟩, 0, 0, 0, 0⟩
/-- A MAC in RUN with its Notch windows in use and a full mask. -/
def notch (r : WRadio) : State := ((((reset.wf (F.MAC_STAT_STATE r) Ms.RUN).wb (F.MAC_NOTCH_CTRL_EN r) true).wf F.GTU_STAT_STATE 2).setReg (R.MAC_NOTCH_MASK_LO r) 0xFFFFFFFF).setReg (R.MAC_NOTCH_MASK_HI r) 0xFFFFFFFF
/-- Steppe in a state with one command in its queue. -/
def stpCmd (st : Nat) (w : List Word) : State := ({ reset with stp.cmds := [w] } : State).wf F.STP_STAT_STATE st
/-- The field MAC in a state with one command in its queue. -/
def fmCmd (st : Nat) (w : List Word) : State := ({ reset with fld.cmds := [w] } : State).wf F.FMAC_STAT_STATE st
/-- A loaded key slot. -/
def withKey (s : State) (n typ usage : Nat) (key : List Byte) : State := s.setSlot n ⟨Slot.LOADED, typ, usage, 0xFFFFFFFF, 1, 0, key, 0⟩
/-- PKE enabled and ready with one command in its queue. -/
def pkeRun (c : PkeCmd) : State := { S0.wb F.PKE_CTRL_EN true with pke.queue := [c] }
/-- A queue with a frame for port 0, and for a client of radio L. -/
def tmg1 : State := (({ S0 with pkt.queues := [(0, [0])], pkt.frames := [{ frame0 with addr := 0 }] } : State).wb F.TMG_CTRL_EN true).writeN (qAddr 0) 4 0x80000001
def tmg3 : State := (((((({ S0 with pkt.queues := [(0, [0])], pkt.frames := [⟨0, [0], 64, 0, 1, 0⟩] } : State).wb F.TMG_CTRL_EN true).writeN (qAddr 0) 4 0x98000001).wf F.STP_STAT_STATE Stp.RUN).setRec 0 0 31 28 1).setRec 0 0 12 12 1).setRec 0 50 0 0 1
/-- DMA channel 12 with a ring, with a descriptor in it, and with a descriptor in progress. -/
def ring (st : Nat) : State := (reset.setReg (R.CH_RING_LO 12) 0x11300000).wf (F.CH_STAT_STATE 12) st
def ringD (st : Nat) (w0 : Nat) : State := (((((ring st).writeN 0x11300000 4 w0).writeN 0x11300004 4 16).writeN 0x11300008 4 0x11300100)).writeN 0x11300010 4 0x11300200
def dch (w0 : Word) : DmaChan := { DmaChan.none with desc := some [w0, 16, 0x11300100, 0, 0x11300200, 0, 0, 0], begun := true }
def runD (w0 : Word) : State := ((ring Cs.RUN).setCh 12 (dch w0)).wb F.DMA_CTRL_EN true
/-- Page 6 in RUN, outside and inside its windows. -/
def pg0 : State := (((S0.setReg (R.SYS_ACCPG 6) 0xFFFFF).wf (F.PG_STAT_STATE 6) Pg.RUN).wb F.CRY_CTRL_EN true).setReg (R.PG_RING_LO 6) 0x11370000
def pg : State := (((pg0.wf (F.CRY_PGMW_BASE0_BASE 6) 0x11370).wf (F.CRY_PGMW_SIZE0_SIZE 6) 16).setReg (R.PG_CTXADDR_LO 6) 0x11370000).wb (F.PG_CTXFMT_WRAPPED 6) false
def key32 : List Byte := List.replicate 32 0
def cop6 : CryOp := { cop with page := 6, fw := true }
/-- A computation gives a value. -/
def okIs {ε α : Type} [DecidableEq α] (x : Except ε α) (y : α) : Bool :=
  match x with
  | .ok a => decide (a = y)
  | .error _ => false
/-- A computation ends with an error. -/
def errIs {ε α : Type} [DecidableEq ε] (x : Except ε α) (n : ε) : Bool :=
  match x with
  | .ok _ => false
  | .error e => decide (e = n)
/-- A dictionary of two parameters, a request in progress, and a PDU that waits. -/
def dict : State := ((((((((((S0.wf F.ODE_NPARAM_N 2).wb F.ODE_CTRL_EN true).writeN 0x11300808 4 0).writeN 0x1130080C 4 2).writeN 0x11301000 4 0x01001002).writeN 0x11301004 4 0x1FC00004).writeN 0x1130100C 4 0xFFFF001F).writeN 0x11301010 4 0x01002008).writeN 0x11301014 4 0x2FC00004).writeN 0x1130101C 4 0xFFFF001F)
def dreq (op : Nat) (l : List Byte) : State := { dict with ode.req := some (oreq op l), ode.sessions := [ses] }
def pdu (op sid seq : Nat) (l : List Byte) : List Byte := [0x10, BitVec.ofNat 8 op, BitVec.ofNat 8 sid, 0] ++ natBytes 4 seq ++ natBytes 2 l.length ++ [0, 0] ++ l
def rx (l : List Byte) (x : Session) : State := { dict with ode.rxq := [(3, l)], ode.sessions := [x] }
def sesA : Session := { ses with auth := true }
def wr (ref : Nat) (l : List Byte) : List Byte := natBytes 4 ref ++ [0] ++ natBytes 2 l.length ++ l
/-- A CAN port that serves the dictionary. -/
def canHdp : State := (((reset.wb (F.CAN_CTRL_EN 0) true).wb F.ODE_CTRL_EN true).wb F.ODE_CTRL_CAN0 true).wf F.ODE_CANID_ID 5
/-- Firmware-bound accesses, a lamp profile, a neighbour to pull from, a ledger. -/
def fwS (base : State) (q : FwReq) : State := { base with ode.fwq := [q] }
def fwi (ref : Nat) (l : List Byte) : FwReq := { fwq ref l with kind := 3 }
def lamp (level : Nat) : State := ((((((((((((S0.wf F.ODE_NPARAM_N 2).writeN 0x113009C0 4 0).writeN 0x113009C4 4 2).writeN 0x11301000 4 0x38012803).writeN 0x11301004 4 0x1FC07018).writeN 0x11301008 4 0x59000).writeN 0x1130100C 4 0xFFFF001F).writeN 0x11301010 4 0x38013102).writeN 0x11301014 4 0x1FC00001).writeN 0x11301018 4 0x59100).writeN 0x1130101C 4 0xFFFF001F).writeN 0x11359000 2 24).writeN 0x1135900A 4 1 |>.writeN 0x1135900E 1 1 |>.writeN 0x11359016 1 level
def pullS : State := (((({ S0 with ode.pulls := [0] } : State).wf F.ODE_DIGPOL_POL 1).wf (F.ODE_NBR_INFO_LINK 0) 1).wf F.ODE_STAT_STATE 2)
def ledg (d : List Word) : State := match execLedgerWrite d { reset with sys.mc5 := true } with | .next t => t | _ => reset
def jv : JVal := ⟨0x01001FFF, 0, false, [1]⟩

/-! ## The well-formedness check -/

/-- Each bound of Instr.wf refuses a command that breaks it. -/
theorem test_ill_formed :
    Instr.wf (.registerWrite 9 (2 ^ 36) 0) = false ∧ Instr.wf (.counterRead 9 (2 ^ 36)) = false ∧
    Instr.wf (.memoryAccess 9 0 (.read 0)) = false ∧ Instr.wf (.memoryAccess 9 0xFFFFFFFFF (.read 2)) = false ∧
    Instr.wf (.memoryAccess 9 0 (.write [])) = false ∧ Instr.wf (.memoryAccess 9 0xFFFFFFFFF (.write [0, 0])) = false ∧
    Instr.wf (.receiveReserve (.eth 0) 0) = false ∧ Instr.wf (.creditReturn .l (2 ^ 36)) = false ∧
    Instr.wf (.tbReceptionArm .l [] 0) = false ∧ Instr.wf (.ppduReceiveEnd .l []) = false ∧
    Instr.wf (.sounding .l (List.replicate 9 (0, 0))) = false ∧
    Instr.wf (.inlineOperation 0 { iop0 with tagLen := 17 }) = false ∧ Instr.wf (.imageVerify false 0 (2 ^ 36)) = false ∧
    Instr.wf (.debugToken 1 [] [] []) = false ∧ Instr.wf (.canSegmentReceive 0 true (List.replicate 65 0)) = false ∧
    Instr.wf (.canFrameReceive 0 0 0 (List.replicate 65 0)) = false ∧ Instr.wf (.digestPull pull0) = false ∧
    Instr.wf (.pullRetry pull0) = false ∧ Instr.wf (.ledgerWrite []) = false ∧
    Instr.wf (.ledgerWrite (List.replicate 40 0)) = false := by decide +kernel

/-- Commands at the bounds that pass. -/
theorem test_well_formed :
    Instr.wf (.registerWrite 9 0xFFFFFFFFF 0) = true ∧ Instr.wf (.memoryAccess 9 0xFFFFFFFFF (.read 1)) = true ∧
    Instr.wf (.debugToken 1 (List.replicate 32 0) (List.replicate 96 0) (List.replicate 96 0)) = true ∧
    Instr.wf (.ledgerWrite (List.replicate 7 0)) = true ∧ Instr.wf (.ledgerWrite (List.replicate 39 0)) = true := by
  decide +kernel

/-! ## Values that the spec works out -/

/-- The digits 1 to 9 as bytes. -/
def digits : List Byte := [0x31, 0x32, 0x33, 0x34, 0x35, 0x36, 0x37, 0x38, 0x39]

/-- The values of presets 0 to 3 and 5 over the digits (the table of R355). -/
theorem test_check_values : crc32c digits = 0xE3069283 ∧ crc32 digits = 0xCBF43926 ∧ crc16k digits = 0x2189 ∧
    crc16ibm digits = 0x29B1 ∧ inetSum digits = 0xF62A := by decide +kernel

/-- Preset 4 over the digits (R355), by the CRC of R356. -/
theorem test_check_smbus : crcFinal 8 0 false (crcFeed 8 0x07 false 0 digits) = 0xF4 := by decide +kernel

/-- A tagged frame of 1,522 bytes takes 7 units, and so does an MPDU of 1,562 (the worked example of R13). -/
theorem test_units : unitsOf 1522 = 7 ∧ unitsOf 1562 = 7 ∧ mpduLen 1500 16 = 1562 := by decide +kernel

/-- The re-feed of the worked example after R50: the offset 0xC1_67AE is sector 9 with residue 0x01_67AE, and four sectors
are 0x55_5555. -/
theorem test_sector : Gtu.sector 0xC167AE = 9 ∧ Gtu.resid 0xC167AE = 0x0167AE ∧ Gtu.sectorAngle 4 = 0x555555 := by decide +kernel

/-- Pole B of the worked example after R172: units 21 to 41 of a period of four cycles give the window from GT 1:0x50_0000
to GT 2:0xA0_0000, seen from GT 2:0x98_0000. -/
theorem test_notch_window :
    (((reset.setRegN (R.MAC_NOTCH_MASK_LO .h) 0xFFE00000).setRegN (R.MAC_NOTCH_MASK_HI .h) 0x3FF).wf
      (F.MAC_NOTCH_CTRL_PEXP .h) 2).notchWindow .h 0x2980000 = some (0x1500000, 0x2A00000) := by decide +kernel

/-- A SHA-384 digest (FIPS 180-4's "abc", which R397 names by reference), its first eight bytes. -/
theorem test_sha384 : (sha384b [0x61, 0x62, 0x63]).take 8 = [0xCB, 0x00, 0x75, 0x3F, 0x45, 0xA3, 0x5E, 0x8B] := by
  decide +kernel

/-- The base point lies on the curve, and twice it lies there too. -/
theorem test_p384 : P384.onCurve P384.gx P384.gy = true ∧
    (match P384.add P384.g P384.g with
      | some (x, y) => P384.onCurve x y
      | none => false) = true := by decide +kernel

/-- From reset a queued command runs first, and the machine with an empty queue goes on. -/
theorem test_step_front : (match step { reset with pending := [.softwareEvent 9 5] } with
    | .next t => t.pending == []
    | _ => false) = true ∧ (match step reset with
    | .next t => t.pending == []
    | _ => false) = true := by decide +kernel

/-! ## Hypotheses that can be met -/

theorem witness_StepRunsFront :
    (∃ s : Machine.State, ∃ c : Instr, ∃ rest : List Instr, (s.pending = c :: rest)) ∧
    (∃ s : Machine.State, (s.pending = []) ∧ (s.sys.phase < 2)) ∧
    (∃ s : Machine.State, (s.pending = []) ∧ (2 ≤ s.sys.phase)) :=
    ⟨⟨{ reset with pending := .crossingMissing :: ([]) }, .crossingMissing, ([]), by decide +kernel⟩,
    ⟨{ reset with pending := [] }, by decide +kernel⟩,
    ⟨{ ({ reset with pending := [] }) with sys.phase := 2, pending := [] }, by decide +kernel⟩⟩

theorem witness_ResetValues :
    (∃ n : Nat, (n < 29)) ∧
    (∃ k : Nat, (k < 26)) ∧
    (∃ a : Nat, (a < 1073741824)) :=
    ⟨⟨0, by decide +kernel⟩,
    ⟨0, by decide +kernel⟩,
    ⟨0, by decide +kernel⟩⟩

theorem witness_InvKept :
    (∃ s : Machine.State, ∃ t : Machine.State, (s.Inv) ∧ (step s = Host.Outcome.next t)) :=
    ⟨reset, reset, by first | decide +kernel | rfl | (and_intros <;> first | decide +kernel | rfl)⟩

theorem witness_FramesByPart :
    (∃ c : Instr, ∃ s : Machine.State, ∃ t : Machine.State, ∃ p : Part, (exec c s = Host.Outcome.next t) ∧
      (¬p ∈ touched c)) :=
    ⟨.crossingMissing, reset, reset, .mem,
      by first | decide +kernel | rfl | (and_intros <;> first | decide +kernel | rfl)⟩

theorem witness_WellFormedAddresses :
    (∃ c : Instr, (c.wf = true)) ∧
    (∃ i : Init, ∃ a : BitVec 36, ∃ n : Nat, ((Instr.memoryAccess i a (MemOp.read n)).wf = true)) ∧
    (∃ i : Init, ∃ a : BitVec 36, ∃ l : List Byte, ((Instr.memoryAccess i a (MemOp.write l)).wf = true)) :=
    ⟨⟨.crossingMissing, by decide +kernel⟩,
    ⟨9, 0, 1, by decide +kernel⟩,
    ⟨9, 0, ([0]), by decide +kernel⟩⟩

theorem witness_RegisterWrite :
    (∃ s : Machine.State, ∃ i : Init, ∃ a : Nat, ∃ v : Word, ∃ w : Window, ∃ row : RegRow, ∃ ix : List Nat,
      (s.MayWrite i a) ∧ (a % 4 = 0) ∧ (windowOf a = some w) ∧ (findRow w.rows (a - w.base) = some (row, ix)) ∧
      ((if w.num = 24 then odeHookWrite i s (a - w.base) v else s.ownWrite i w.num a (a - w.base) v) = none) ∧
      (hasMc5 row.fields = false ∨ ↑i = Ini.MC5) ∧
      let fields : List RegField := List.filter (fun f => !absentField w.num (a - w.base) f.hi) row.fields;
      let ranged : Bool := fieldsInRange fields v && (fields.isEmpty || s.extraOk w.num (a - w.base) v);
      let blocked : Bool := changesRwi fields (s.reg a) v && !s.idleFor w.num (a - w.base);
      (ranged = true) ∧ (blocked = false)) ∧
    (∃ s : Machine.State, ∃ i : Init, ∃ a : Nat, ∃ v : Word, ∃ w : Window, ∃ row : RegRow, ∃ ix : List Nat,
      (s.MayWrite i a) ∧ (a % 4 = 0) ∧ (windowOf a = some w) ∧ (findRow w.rows (a - w.base) = some (row, ix)) ∧
      ((if w.num = 24 then odeHookWrite i s (a - w.base) v else s.ownWrite i w.num a (a - w.base) v) = none) ∧
      (hasMc5 row.fields = false ∨ ↑i = Ini.MC5) ∧
      let fields : List RegField := List.filter (fun f => !absentField w.num (a - w.base) f.hi) row.fields;
      let ranged : Bool := fieldsInRange fields v && (fields.isEmpty || s.extraOk w.num (a - w.base) v);
      (ranged = false)) ∧
    (∃ s : Machine.State, ∃ i : Init, ∃ a : Nat, ∃ v : Word, ∃ w : Window, ∃ row : RegRow, ∃ ix : List Nat,
      (s.MayWrite i a) ∧ (a % 4 = 0) ∧ (windowOf a = some w) ∧ (findRow w.rows (a - w.base) = some (row, ix)) ∧
      ((if w.num = 24 then odeHookWrite i s (a - w.base) v else s.ownWrite i w.num a (a - w.base) v) = none) ∧
      (hasMc5 row.fields = false ∨ ↑i = Ini.MC5) ∧
      let fields : List RegField := List.filter (fun f => !absentField w.num (a - w.base) f.hi) row.fields;
      let ranged : Bool := fieldsInRange fields v && (fields.isEmpty || s.extraOk w.num (a - w.base) v);
      let blocked : Bool := changesRwi fields (s.reg a) v && !s.idleFor w.num (a - w.base);
      (ranged = true) ∧ (blocked = true)) :=
    ⟨⟨reset, 9, ((R.GC_WIDTH 0)), 5, (⟨0, 0x40000000, 0x4000FFFF, RegMap.gtu⟩), ((RegMap.row 0x101C [(0x20, 64)] [RegMap.fr 15 0 .rwi 1 1 65535])), ([0]), by first | decide +kernel | rfl | (and_intros <;> first | decide +kernel | rfl)⟩,
    ⟨reset, 9, ((R.GC_WIDTH 0)), 0, (⟨0, 0x40000000, 0x4000FFFF, RegMap.gtu⟩),
      ((RegMap.row 0x101C [(0x20, 64)] [RegMap.fr 15 0 .rwi 1 1 65535])), ([0]),
      by first | decide +kernel | rfl | (and_intros <;> first | decide +kernel | rfl)⟩,
    ⟨(reset).wb (F.GC_STAT_ARMED 0) true, 9, ((R.GC_WIDTH 0)), 5, (⟨0, 0x40000000, 0x4000FFFF, RegMap.gtu⟩),
      ((RegMap.row 0x101C [(0x20, 64)] [RegMap.fr 15 0 .rwi 1 1 65535])), ([0]),
      by first | decide +kernel | rfl | (and_intros <;> first | decide +kernel | rfl)⟩⟩

theorem witness_FieldAccessCodes :
    (∃ fs : List RegField, ∃ f : RegField, (∀ (f : RegField), f ∈ fs → f.lo ≤ f.hi ∧ f.hi < 32) ∧
      (List.Pairwise (fun f g => f.hi < g.lo ∨ g.hi < f.lo) fs) ∧ (f ∈ fs)) ∧
    (∃ fs : List RegField, ∃ k : Nat, (∀ (f : RegField), f ∈ fs → f.lo ≤ f.hi ∧ f.hi < 32) ∧
      (List.Pairwise (fun f g => f.hi < g.lo ∨ g.hi < f.lo) fs) ∧ (k < 32) ∧
      (∀ (f : RegField), f ∈ fs → k < f.lo ∨ f.hi < k)) ∧
    (∃ f : RegField, (f.acc = Acc.rw ∨ f.acc = Acc.rwi ∨ f.acc = Acc.rwm)) ∧
    (∃ f : RegField, (f.acc = Acc.ro ∨ f.acc = Acc.rc ∨ f.acc = Acc.wo)) ∧
    (∃ a : Nat, ∃ w : Window, ∃ row : RegRow, ∃ f : RegField, (windowOf a = some w) ∧ (row ∈ w.rows) ∧
      (f ∈ row.fields)) :=
    ⟨⟨([RegMap.f 15 0 .rw 0]), ((RegMap.f 15 0 .rw 0)), by first | decide +kernel | rfl | (and_intros <;> first | decide +kernel | rfl)⟩,
    ⟨([]), 0, by first | decide +kernel | rfl | (and_intros <;> first | decide +kernel | rfl)⟩,
    ⟨((RegMap.f 15 0 .rw 0)), by first | decide +kernel | rfl | (and_intros <;> first | decide +kernel | rfl)⟩,
    ⟨((RegMap.f 15 0 .ro 0)), by first | decide +kernel | rfl | (and_intros <;> first | decide +kernel | rfl)⟩,
    ⟨0x40000000, (⟨0, 0x40000000, 0x4000FFFF, RegMap.gtu⟩),
      ((RegMap.row 0x101C [(0x20, 64)] [RegMap.fr 15 0 .rwi 1 1 65535])), ((RegMap.fr 15 0 .rwi 1 1 65535)),
      by first | decide +kernel | rfl | (and_intros <;> first | decide +kernel | rfl)⟩⟩

theorem witness_CounterRead :
    (∃ s : Machine.State, ∃ i : Init, ∃ a : Nat, ∃ w : Window, ∃ row : RegRow, ∃ ix : List Nat, (s.MayRead i a) ∧
      (a % 4 = 0) ∧ (windowOf a = some w) ∧ (findRow w.rows (a - w.base) = some (row, ix)) ∧
      ((if w.num = 24 then odeHookRead i s (a - w.base) else s.ownRead i w.num (a - w.base)) = none) ∧
      (s.readSync w.num (a - w.base) = s)) :=
    ⟨reset, 9, ((R.GC_WIDTH 0)), (⟨0, 0x40000000, 0x4000FFFF, RegMap.gtu⟩),
      ((RegMap.row 0x101C [(0x20, 64)] [RegMap.fr 15 0 .rwi 1 1 65535])), ([0]),
      by first | decide +kernel | rfl | (and_intros <;> first | decide +kernel | rfl)⟩

theorem witness_AccessControl :
    (∃ s : Machine.State, ∃ i : Init, ∃ a : Nat, ∃ w : Window, (windowOf a = some w) ∧ (a % 4 = 0) ∧
      (s.accOk i a true = false)) ∧
    (∃ s : Machine.State, ∃ i : Init, ∃ a : Nat, ∃ w : Window, (windowOf a = some w) ∧ (a % 4 = 0) ∧
      (s.accOk i a false = false)) ∧
    (∃ s : Machine.State, ∃ i : Init, ∃ a : Nat, ∃ w : Window, (windowOf a = some w) ∧ (a % 4 = 0) ∧
      (s.accOk i a true = true) ∧ (s.clockOff a = true)) ∧
    (∃ s : Machine.State, ∃ i : Init, ∃ a : Nat, ∃ w : Window, (windowOf a = some w) ∧ (a % 4 = 0) ∧
      (s.accOk i a false = true) ∧ (s.clockOff a = true)) :=
    ⟨⟨(reset).setReg (R.SYS_ACC 10) 0, 9, R.QMG_CTRL, (⟨10, 0x400C0000, 0x400FFFFF, RegMap.qmg⟩), by first | decide +kernel | rfl | (and_intros <;> first | decide +kernel | rfl)⟩,
    ⟨(reset).setReg (R.SYS_ACC 10) 0, 9, R.QMG_CTRL, (⟨10, 0x400C0000, 0x400FFFFF, RegMap.qmg⟩),
      by first | decide +kernel | rfl | (and_intros <;> first | decide +kernel | rfl)⟩,
    ⟨(reset).setReg R.SYS_CLKEN 0, 9, R.QMG_CTRL, (⟨10, 0x400C0000, 0x400FFFFF, RegMap.qmg⟩),
      by first | decide +kernel | rfl | (and_intros <;> first | decide +kernel | rfl)⟩,
    ⟨(reset).setReg R.SYS_CLKEN 0, 9, R.QMG_CTRL, (⟨10, 0x400C0000, 0x400FFFFF, RegMap.qmg⟩),
      by first | decide +kernel | rfl | (and_intros <;> first | decide +kernel | rfl)⟩⟩

theorem witness_MemoryAccess :
    (∃ s : Machine.State, ∃ i : Init, ∃ a : BitVec 36, ∃ d : List Byte, (s.debugShut ↑i = false) ∧
      (s.writable (↑i) a.toNat d.length = true)) ∧
    (∃ s : Machine.State, ∃ i : Init, ∃ a : BitVec 36, ∃ n : Nat, (s.debugShut ↑i = false) ∧
      (s.readable a.toNat n = true) ∧ (s.eccKeys a.toNat n = []) ∧ (isDram a.toNat = true → s.rf F.DRC_STAT_STATE = 2)) ∧
    (∃ s : Machine.State, ∃ i : Init, ∃ a : BitVec 36, ∃ n : Nat, (s.debugShut ↑i = false) ∧
      (s.readable a.toNat n = true) ∧ (inSecure a.toNat n = false) ∧ (s.eccBad a.toNat n = true)) ∧
    (∃ s : Machine.State, ∃ i : Init, ∃ a : BitVec 36, ∃ n : Nat, (s.debugShut ↑i = false) ∧
      (s.readable a.toNat n = false) ∧ (secureOf (↑i) a.toNat n = false)) ∧
    (∃ s : Machine.State, ∃ i : Init, ∃ a : BitVec 36, ∃ d : List Byte, (s.debugShut ↑i = false) ∧
      (s.writable (↑i) a.toNat d.length = false) ∧ (secureOf (↑i) a.toNat d.length = false)) :=
    ⟨⟨reset, 9, 0x10000000, ([1, 2]), by decide +kernel⟩,
    ⟨reset, 9, 0, 0, by decide +kernel⟩,
    ⟨{ (reset) with ecc := [(0x2000000, 2)] }, 9, 0x10000000, 1, by decide +kernel⟩,
    ⟨reset, 9, 0x20000000, 1, by decide +kernel⟩,
    ⟨reset, 9, 0, ([]), by decide +kernel⟩⟩

theorem witness_CreditFlow :
    (∃ s : Machine.State, ∃ r : WRadio, ∃ len : Nat, (s.pkt.rsvd.getN (rxKey (RxSource.wifi r)) ≤ 1) ∧ (len ≤ maxFrame) ∧
      (unitsOf len ≤ s.rxFree r.idx)) ∧
    (∃ s : Machine.State, ∃ r : WRadio, ∃ len : Nat, (s.pkt.rsvd.getN (rxKey (RxSource.wifi r)) ≤ 1) ∧
      (s.rxFree r.idx < unitsOf len)) ∧
    (∃ s : Machine.State, ∃ r : WRadio, ∃ m : RxMpdu, ∃ s' : Machine.State, (s.releaseHead r.idx = some m) ∧
      (s.charge (8 + r.idx) (unitsOf m.data.length) = some s')) ∧
    (∃ s : Machine.State, ∃ r : WRadio, ∃ m : RxMpdu, (s.releaseHead r.idx = some m) ∧
      (s.charge (8 + r.idx) (unitsOf m.data.length) = none)) ∧
    (∃ s : Machine.State, ∃ r : WRadio, ∃ x : Xfer, ∃ m : RxMpdu, (s.firstXfer r.idx true = some x) ∧
      (s.spansBad (s.xferSpans x) = false) ∧ (s.rxmpdu x.mpdu = some m)) ∧
    (∃ s : Machine.State, ∃ r : Radio, ∃ a : Nat, ∃ b : RadioBuf,
      (List.find? (fun b => b.radio == r.idx && b.addr == a) s.pkt.rbufs = some b) ∧ (b.rx = true)) :=
    ⟨⟨reset, .l, 0, by decide +kernel⟩,
    ⟨reset, .l, 10000000, by decide +kernel⟩,
    ⟨{ reset with rxmpdus := [rxm0] }, .l, rxm0, ({ reset with rxmpdus := [rxm0] } : State).wf (F.QMG_POOLUSE_RSVD 8) 1,
      by decide +kernel⟩,
    ⟨(({ reset with rxmpdus := [rxm0] } : State).wf (F.QMG_POOLACT_RSV 8) 0).wf (F.QMG_POOLACT_SHCAP 8) 0, .l, rxm0,
      by decide +kernel⟩,
    ⟨{ (reset) with rxmpdus := [rxm0], pkt.xfers := [⟨0, true, none, 1, false⟩] }, .l, (⟨0, true, none, 1, false⟩), rxm0,
      by decide +kernel⟩,
    ⟨{ (reset) with pkt.rbufs := [⟨0, 0, 1, true⟩] }, .l, 0, (⟨0, 0, 1, true⟩), by decide +kernel⟩⟩

theorem witness_GridTimeCommands :
    (∃ s : Machine.State, ∃ i : Init, (s.MayWrite i R.GTU_CMD) ∧ (s.gtuState = Gtu.LOCAL)) ∧
    (∃ s : Machine.State, ∃ i : Init, (s.MayWrite i R.GTU_CMD) ∧ (s.gtuState = Gtu.FREE)) ∧
    (∃ s : Machine.State, ∃ i : Init, (s.MayWrite i R.GTU_CMD) ∧ (s.gtuState = Gtu.LOCAL ∨ s.gtuState = Gtu.ALIGNED)) ∧
    (∃ s : Machine.State, ∃ i : Init, (s.MayWrite i R.GTU_CMD) ∧ (s.gtuState = Gtu.ALIGNED)) ∧
    (∃ s : Machine.State, ∃ i : Init, (s.MayWrite i R.GTU_CMD) ∧ (s.gtuState = Gtu.HOLDOVER) ∧ (s.gtu.holdCmd = true) ∧
      (s.returnMet = false)) ∧
    (∃ s : Machine.State, ∃ i : Init, (s.MayWrite i R.GTU_CMD) ∧ (s.gtuState ≠ Gtu.FREE)) :=
    ⟨⟨(reset).wf F.GTU_STAT_STATE Gtu.LOCAL, 9, by decide +kernel⟩,
    ⟨(reset).wf F.GTU_STAT_STATE Gtu.FREE, 9, by decide +kernel⟩,
    ⟨(reset).wf F.GTU_STAT_STATE Gtu.LOCAL, 9, by decide +kernel⟩,
    ⟨(reset).wf F.GTU_STAT_STATE Gtu.ALIGNED, 9, by decide +kernel⟩,
    ⟨({ reset with gtu.holdCmd := true } : State).wf F.GTU_STAT_STATE Gtu.HOLDOVER, 9, by decide +kernel⟩,
    ⟨(reset).wf F.GTU_STAT_STATE 1, 9, by decide +kernel⟩⟩

theorem witness_GridTimeSettings :
    (∃ s : Machine.State, ∃ i : Init, ∃ v : Word, (s.MayWrite i R.GTU_CTRL) ∧ (s.writeRefused (↑i) R.GTU_CTRL v = false) ∧
      (BitVec.getLsbD v 29 = !s.nom60)) ∧
    (∃ s : Machine.State, ∃ i : Init, (s.MayWrite i R.GTU_PMAP_CTRL)) ∧
    (∃ s : Machine.State, ∃ i : Init, (s.MayRead i R.GTU_XLAST_LO)) :=
    ⟨⟨reset, 9, 0x20080000, by decide +kernel⟩,
    ⟨reset, 9, by decide +kernel⟩,
    ⟨reset, 9, by decide +kernel⟩⟩

theorem witness_GridTimeInputs :
    (∃ s : Machine.State, ∃ spacing : Nat, ∃ amp : Nat, (s.rb F.GTU_CTRL_SRC = false) ∧
      (s.crossingValid spacing amp = false)) ∧
    (∃ s : Machine.State, ∃ spacing : Nat, ∃ amp : Nat, (s.rb F.GTU_CTRL_SRC = false) ∧
      (s.crossingValid spacing amp = true)) ∧
    (∃ s : Machine.State, (s.predicts = true) ∧ (s.rf F.GTU_STAT_MISS < 2)) ∧
    (∃ s : Machine.State, (s.predicts = true) ∧ (2 ≤ s.rf F.GTU_STAT_MISS) ∧
      (s.gtuState = Gtu.ALIGNED ∨ s.gtuState = Gtu.SLEW)) ∧
    (∃ s : Machine.State, (s.predicts = true) ∧ (2 ≤ s.rf F.GTU_STAT_MISS) ∧ (s.gtuState = Gtu.LOCAL)) ∧
    (∃ s : Machine.State, (s.gtuState = Gtu.HOLDOVER)) ∧
    (∃ s : Machine.State, ∃ src : Fin 4, (↑src ≠ 0) ∧ (↑src = s.rf F.GTU_BCN_CTRL_BSRC) ∧ (s.rf F.GTU_CTRL_ROLE ≠ 0)) ∧
    (∃ s : Machine.State, ∃ src : Fin 4, (↑src ≠ s.rf F.GTU_BCN_CTRL_BSRC)) :=
    ⟨⟨(reset).wb F.GTU_CTRL_SRC false, 0, 0, by decide +kernel⟩,
    ⟨(reset).wb F.GTU_CTRL_SRC false, 20000000, 0xFFFFFFFF, by decide +kernel⟩,
    ⟨(reset).wf F.GTU_STAT_STATE Gtu.ALIGNED, by decide +kernel⟩,
    ⟨(reset.wf F.GTU_STAT_STATE Gtu.ALIGNED).wf F.GTU_STAT_MISS 2, by decide +kernel⟩,
    ⟨(reset.wf F.GTU_STAT_STATE Gtu.LOCAL).wf F.GTU_STAT_MISS 2, by decide +kernel⟩,
    ⟨(reset).wf F.GTU_STAT_STATE Gtu.HOLDOVER, by decide +kernel⟩,
    ⟨(reset.wf F.GTU_BCN_CTRL_BSRC 1).wf F.GTU_CTRL_ROLE 1, 1, by decide +kernel⟩,
    ⟨reset, 1, by decide +kernel⟩⟩

theorem witness_GridTimeReads :
    (∃ s : Machine.State, ∃ i : Init, (s.MayRead i R.GTU_NOW_LO)) ∧
    (∃ s : Machine.State, ∃ i : Init, (s.MayRead i R.GTU_NOW_HI)) :=
    ⟨⟨reset, 9, by decide +kernel⟩,
    ⟨reset, 9, by decide +kernel⟩⟩

theorem witness_CompareChannels :
    (∃ s : Machine.State, ∃ i : Init, ∃ n : Fin 64, ∃ v : Word,
      let f : Word := (v ||| 2147483648#32) &&& 1073741823#32;
      let u : Machine.State := s.writeReg (↑i) (R.GC_CTRL ↑n) f;
      (s.MayWrite i (R.GC_CTRL ↑n)) ∧ (s.writeRefused (↑i) (R.GC_CTRL ↑n) f = false) ∧ (s.gcDue ↑n = false) ∧
      (BitVec.getLsbD v 30 = false) ∧ (gcIndexOk (u.rf (F.GC_TGT_KIND ↑n)) (u.rf (F.GC_TGT_INDEX ↑n)) = true) ∧
      ((u.rb (F.GC_CTRL_MODE ↑n) && decide (u.gcPeriod ↑n < 4096)) = false) ∧
      (u.rf (F.GC_TGT_KIND ↑n) = 1 → u.gpioFn (u.rf (F.GC_TGT_INDEX ↑n)) = 1) ∧
      (u.gtN < u.reg64 (R.GC_CMP_LO ↑n) (R.GC_CMP_HI ↑n))) ∧
    (∃ s : Machine.State, ∃ i : Init, ∃ n : Fin 64, ∃ v : Word,
      let f : Word := (v ||| 2147483648#32) &&& 1073741823#32;
      let u : Machine.State := s.writeReg (↑i) (R.GC_CTRL ↑n) f;
      (s.MayWrite i (R.GC_CTRL ↑n)) ∧ (s.writeRefused (↑i) (R.GC_CTRL ↑n) f = false) ∧ (s.gcDue ↑n = false) ∧
      (BitVec.getLsbD v 30 = false) ∧ (gcIndexOk (u.rf (F.GC_TGT_KIND ↑n)) (u.rf (F.GC_TGT_INDEX ↑n)) = true) ∧
      ((u.rb (F.GC_CTRL_MODE ↑n) && decide (u.gcPeriod ↑n < 4096)) = false) ∧
      (u.rf (F.GC_TGT_KIND ↑n) = 1 → u.gpioFn (u.rf (F.GC_TGT_INDEX ↑n)) = 1) ∧
      (u.reg64 (R.GC_CMP_LO ↑n) (R.GC_CMP_HI ↑n) ≤ u.gtN) ∧ (u.rb (F.GC_CTRL_IMM ↑n) = false)) ∧
    (∃ s : Machine.State, ∃ i : Init, ∃ n : Fin 64, ∃ v : Word,
      let f : Word := (v ||| 1073741824#32) &&& 2147483647#32 &&& 1073741823#32;
      (s.MayWrite i (R.GC_CTRL ↑n)) ∧ (s.writeRefused (↑i) (R.GC_CTRL ↑n) f = false) ∧ (s.gcDue ↑n = false) ∧
      (s.rb (F.GC_STAT_ARMED ↑n) = true)) ∧
    (∃ s : Machine.State, ∃ n : Fin 64, (s.gcDue ↑n = true) ∧ (s.rf (F.GC_TGT_KIND ↑n) = 1) ∧
      (s.rf (F.GC_TGT_ACT ↑n) ≤ 1) ∧ (s.rf (F.GC_TGT_INDEX ↑n) < 48)) ∧
    (∃ s : Machine.State, ∃ n : Fin 64, (s.gcDue ↑n = false)) ∧
    (∃ s : Machine.State, ∃ p : Fin 48, (s.gtu.pulseEnd.getN ↑p ≠ 0) ∧ (s.gtu.pulseEnd.getN ↑p ≤ s.gtu.ticks + 1)) :=
    ⟨⟨(reset).setReg (R.GC_CMP_HI 0) 1, 9, 0, 0, by decide +kernel⟩,
    ⟨reset, 9, 0, 0, by decide +kernel⟩,
    ⟨({ reset with gtu.gcCmp := [(0, 5)] } : State).wb (F.GC_STAT_ARMED 0) true, 9, 0, 0, by decide +kernel⟩,
    ⟨({ (reset.wb (F.GC_STAT_ARMED 0) true) with gtu.acc := 2 ^ 90 } : State).wf (F.GC_TGT_KIND 0) 1, 0,
      by decide +kernel⟩,
    ⟨reset, 0, by decide +kernel⟩,
    ⟨{ (reset) with gtu.pulseEnd := [(0, 1)] }, 0, by decide +kernel⟩⟩

theorem witness_SoftwareEvents :
    (∃ s : Machine.State, ∃ i : Init, (s.MayWrite i R.EVR_SWSET)) ∧
    (∃ s : Machine.State, ∃ i : Init, ∃ v : Word, (s.MayWrite i R.EVR_SWSET) ∧
      (∀ (k : Nat), k < 16 → BitVec.getLsbD v k = false)) ∧
    (∃ s : Machine.State, ∃ i : Init, (s.MayWrite i R.EVR_SWSET) ∧ (s.MayRead i R.EVR_SWSET) ∧ (s.reg R.EVR_SWSET = 0)) :=
    ⟨⟨reset, 9, by decide +kernel⟩,
    ⟨reset, 9, 0, by decide +kernel⟩,
    ⟨(reset).setReg R.EVR_SWSET 0, 9, by decide +kernel⟩⟩

theorem witness_EventRouter :
    (∃ s : Machine.State, ∃ ev : Fin 256,
      (BitVec.getLsbD (s.reg (R.EVR_ROUTE ↑ev)) 31 = false ∨ s.evr.fifo.length < 64)) ∧
    (∃ s : Machine.State, ∃ i : Init, ∃ d : Fin 14, ∃ w : Fin 8, (s.MayWrite i (R.EVR_PEND ↑d ↑w))) ∧
    (∃ s : Machine.State, ∃ p : Fin 4, (s.evr.pulses.getN ↑p ≠ 0)) ∧
    (∃ s : Machine.State, ∃ i : Init, ∃ e : SubEntry, ∃ es : List SubEntry, (s.MayRead i R.EVR_SUB0) ∧
      (s.rb F.EVR_SUBSTAT_SUBEN = false) ∧ (s.evr.fifo = e :: es)) ∧
    (∃ s : Machine.State, ∃ i : Init, (s.MayRead i R.EVR_SUB0) ∧ (s.rb F.EVR_SUBSTAT_SUBEN = true)) :=
    ⟨⟨reset, 0, by decide +kernel⟩,
    ⟨reset, 9, 0, 0, by decide +kernel⟩,
    ⟨{ (reset) with evr.pulses := [(0, 1)] }, 0, by decide +kernel⟩,
    ⟨{ ({ ((reset).wb F.EVR_SUBSTAT_SUBEN false) with evr.fifo := (⟨7,1,0⟩) :: ([]) }) with evr.fifo := [⟨7, 1, 0⟩] }, 9,
      (⟨7,1,0⟩), ([]), by decide +kernel⟩,
    ⟨(reset).wb F.EVR_SUBSTAT_SUBEN true, 9, by decide +kernel⟩⟩

theorem witness_FrontEndCommandsBegin :
    (∃ s : Machine.State, ∃ r : Radio, ∃ c : RfcCmd, ∃ fw : Bool, ∃ p : Instr × Nat × Nat, (s.rfcMoving r = false) ∧
      (p ∈ [(Instr.rfcSleep r, 1, Rs.SLEEP), (Instr.rfcWake r, 2, Rs.STANDBY), (Instr.rfcIdle r, 7, Rs.SYNTH), (Instr.rfcStandby r, 8, Rs.STANDBY)]) ∧
      (s.rfcPick r p.snd.fst = some (c, fw)) ∧ (rfcTable p.snd.fst (s.rfcState r) = RfcEntry.accept) ∧
      (s.calRunning r = false)) ∧
    (∃ s : Machine.State, ∃ r : Radio, ∃ c : RfcCmd, ∃ fw : Bool, ∃ p : Instr × Nat × Nat, (s.rfcMoving r = false) ∧
      (p ∈ [(Instr.rfcRx r, 5, Rs.RX), (Instr.rfcTx r, 6, Rs.TX)]) ∧ (s.rfcPick r p.snd.fst = some (c, fw)) ∧
      (c.opc = p.snd.fst) ∧ (s.rfcState r = Rs.SYNTH) ∧ (s.rb (F.RFC_STAT_LOCK r) = true) ∧ (s.calRunning r = false) ∧
      (s.gtN + s.rfcLead r c ≤ s.rfcDeadline r c)) ∧
    (∃ s : Machine.State, ∃ r : Radio, ∃ c : RfcCmd, ∃ fw : Bool, ∃ p : Instr × Nat, (s.rfcMoving r = false) ∧
      (p ∈ [(Instr.rfcRx r, 5), (Instr.rfcTx r, 6)]) ∧ (s.rfcPick r p.snd = some (c, fw)) ∧ (s.rfcState r = Rs.SYNTH) ∧
      (s.rb (F.RFC_STAT_LOCK r) = false)) ∧
    (∃ s : Machine.State, ∃ r : Radio, ∃ c : RfcCmd, ∃ fw : Bool, ∃ p : Instr × Nat, (s.rfcMoving r = false) ∧
      (p ∈ [(Instr.rfcSleep r, 1), (Instr.rfcWake r, 2), (Instr.rfcTune r, 3), (Instr.rfcPrep r, 4), (Instr.rfcRx r, 5), (Instr.rfcTx r, 6), (Instr.rfcIdle r, 7), (Instr.rfcStandby r, 8), (Instr.rfcCal r, 9), (Instr.rfcDpdup r, 10), (Instr.rfcAbort r, 11), (Instr.rfcStore r, 12)]) ∧
      (s.rfcPick r p.snd = some (c, fw)) ∧ (rfcTable p.snd (s.rfcState r) = RfcEntry.reject)) :=
    ⟨⟨({ reset with rfc.l.queue := [rcmd 1] } : State).wf (F.RFC_STAT_STATE .l) 1, .l, ((rcmd 1)), true, ((Instr.rfcSleep .l, 1, Rs.SLEEP)), by decide +kernel⟩,
    ⟨((({ reset with rfc.l.queue := [⟨5, 0, 0, false, false, false, 0, 0, 1000000, 1⟩] } : State).wf (F.RFC_STAT_STATE .l) 2).wb (F.RFC_STAT_LOCK .l) true).setRegN R.GTU_INC 0x10000000,
      .l, (⟨5, 0, 0, false, false, false, 0, 0, 1000000, 1⟩), true, ((Instr.rfcRx .l, 5, Rs.RX)), by decide +kernel⟩,
    ⟨({ reset with rfc.l.queue := [rcmd 5] } : State).wf (F.RFC_STAT_STATE .l) 2, .l, ((rcmd 5)), true,
      ((Instr.rfcRx .l, 5)), by decide +kernel⟩,
    ⟨{ (reset) with rfc.l.queue := [rcmd 3] }, .l, ((rcmd 3)), true, ((Instr.rfcTune .l, 3)), by decide +kernel⟩⟩

theorem witness_FrontEndCommandsAct :
    (∃ s : Machine.State, ∃ r : Radio, ∃ c : RfcCmd, ∃ fw : Bool, (s.rfcMoving r = false) ∧ (s.calRunning r = false) ∧
      (s.rfcPick r 3 = some (c, fw)) ∧ (rfcTable 3 (s.rfcState r) = RfcEntry.accept)) ∧
    (∃ s : Machine.State, ∃ r : Radio, ∃ c : RfcCmd, ∃ fw : Bool, (s.rfcMoving r = false) ∧ (s.calRunning r = false) ∧
      (s.rfcPick r 4 = some (c, fw)) ∧ (rfcTable 4 (s.rfcState r) = RfcEntry.accept)) ∧
    (∃ s : Machine.State, ∃ r : Radio, ∃ c : RfcCmd, ∃ fw : Bool, (s.rfcMoving r = false) ∧ (s.calRunning r = false) ∧
      (s.rfcPick r 9 = some (c, fw)) ∧ (s.rfcState r = Rs.SYNTH) ∧ (s.rb (F.RFC_STAT_LOCK r) = true) ∧
      ((s.rfc.get r).calTodo (c.arg % 16) ≠ [])) ∧
    (∃ s : Machine.State, ∃ r : Radio, ∃ c : RfcCmd, ∃ fw : Bool, (s.rfcMoving r = false) ∧ (s.calRunning r = false) ∧
      (s.rfcPick r 10 = some (c, fw)) ∧ (rfcTable 10 (s.rfcState r) = RfcEntry.accept) ∧
      (s.rb (F.RFC_STAT_DPDARM r) = false)) ∧
    (∃ s : Machine.State, ∃ r : Radio, ∃ c : RfcCmd, ∃ fw : Bool, (s.rfcMoving r = false) ∧ (s.calRunning r = false) ∧
      (s.rfcPick r 11 = some (c, fw)) ∧ (s.rfcState r = Rs.RX) ∧ ((s.rfc.get r).held = none)) ∧
    (∃ s : Machine.State, ∃ r : Radio, ∃ c : RfcCmd, ∃ fw : Bool, (s.rfcMoving r = false) ∧ (s.calRunning r = false) ∧
      (s.rfcPick r 12 = some (c, fw)) ∧ (s.rfcState r = Rs.RX) ∧ ((s.rfc.get r).active.length = 16)) :=
    ⟨⟨({ reset with rfc.l.queue := [rcmd 3] } : State).wf (F.RFC_STAT_STATE .l) 1, .l, ((rcmd 3)), true, by decide +kernel⟩,
    ⟨({ reset with rfc.l.queue := [rcmd 4] } : State).wf (F.RFC_STAT_STATE .l) 1, .l, ((rcmd 4)), true,
      by decide +kernel⟩,
    ⟨(({ reset with rfc.l.queue := [rcmd 9] } : State).wf (F.RFC_STAT_STATE .l) 2).wb (F.RFC_STAT_LOCK .l) true, .l,
      ((rcmd 9)), true, by decide +kernel⟩,
    ⟨({ reset with rfc.l.queue := [rcmd 10] } : State).wf (F.RFC_STAT_STATE .l) 1, .l, ((rcmd 10)), true,
      by decide +kernel⟩,
    ⟨({ reset with rfc.l.queue := [rcmd 11] } : State).wf (F.RFC_STAT_STATE .l) Rs.RX, .l, ((rcmd 11)), true,
      by decide +kernel⟩,
    ⟨({ reset with rfc.l.queue := [rcmd 12], rfc.l.active := List.replicate 16 0 } : State).wf (F.RFC_STAT_STATE .l) Rs.RX,
      .l, ((rcmd 12)), true, by decide +kernel⟩⟩

theorem witness_FrontEndProgress :
    (∃ s : Machine.State, ∃ r : Radio, ∃ x : RfcRun, ∃ tgt : Nat, ((s.rfc.get r).run = some x) ∧
      (x.work = RfcWork.trans tgt) ∧ (tgt ≤ Rs.RX)) ∧
    (∃ s : Machine.State, ∃ r : Radio, (s.rfcState r = Rs.SYNTH) ∧ (s.rb (F.RFC_STAT_LOCK r) = false) ∧
      ((s.rfc.get r).held = none) ∧ ((s.rfc.get r).osc = false)) ∧
    (∃ s : Machine.State, ∃ r : Radio, (Rs.SYNTH ≤ s.rfcState r) ∧ (s.rb (F.RFC_STAT_LOCK r) = true)) ∧
    (∃ s : Machine.State, ∃ r : Radio, ∃ x : RfcHeld, ((s.rfc.get r).held = some x) ∧ (x.cmd.opc = 5 ∨ x.cmd.opc = 6) ∧
      (x.deadline < s.gtN + s.rfcLead r x.cmd)) ∧
    (∃ s : Machine.State, ∃ r : Radio, ∃ k : Nat, ∃ ks : List Nat, (s.calRunning r = true) ∧ ((s.rfc.get r).held = none) ∧
      ((s.rfc.get r).calTodo (s.rfc.get r).calMask = k :: ks)) ∧
    (∃ s : Machine.State, ∃ r : Radio, ∃ ks : List Nat, (s.calRunning r = true) ∧ ((s.rfc.get r).held = none) ∧
      ((s.rfc.get r).calTodo (s.rfc.get r).calMask = 1 :: ks)) ∧
    (∃ s : Machine.State, ∃ r : Radio, (s.reg (R.RFC_CALDUE r) &&& 14 ≠ 0)) ∧
    (∃ s : Machine.State, ∃ r : Radio, (s.rb (F.RFC_CTRL_AUTOCAL r) = true) ∧ (s.rfcState r = Rs.SYNTH) ∧
      (s.rb (F.RFC_STAT_LOCK r) = true) ∧ ((s.rfc.get r).run = none) ∧ ((s.rfc.get r).held = none) ∧
      (s.rfcAnyDue r = false) ∧ ((s.rfc.get r).calTodo (bits (s.reg (R.RFC_CALDUE r)) 3 0) ≠ [])) ∧
    (∃ s : Machine.State, ∃ w : WRadio, ∃ d : RfcDpd, ((s.rfc.get w.toRadio).dpd = some d) ∧ (d.captured = false)) ∧
    (∃ s : Machine.State, ∃ w : WRadio, ∃ d : RfcDpd, ((s.rfc.get w.toRadio).dpd = some d) ∧ (d.captured = true)) ∧
    (∃ s : Machine.State, ∃ r : Radio, ∃ i : Init, ∃ k : Fin 3, ∃ v : Word, (s.MayWrite i (femtReg r ↑k)) ∧
      (s.femtOk r.idx (128 + 4 * ↑k) v = false)) ∧
    (∃ s : Machine.State, ∃ r : Radio, ∃ i : Init, ∃ k : Fin 3, ∃ v : Word, (s.MayWrite i (femtReg r ↑k)) ∧
      (s.writeRefused (↑i) (femtReg r ↑k) v = false)) :=
    ⟨⟨{ reset with rfc.l.run := some ⟨none, false, .trans 2⟩ }, .l, (⟨none, false, .trans 2⟩), 2, by decide +kernel⟩,
    ⟨{ ({ (((reset).wf (F.RFC_STAT_STATE .l) Rs.SYNTH).wb (F.RFC_STAT_LOCK .l) false) with rfc.l.held := none }) with rfc.l.osc := false },
      .l, by decide +kernel⟩,
    ⟨((reset).wb (F.RFC_STAT_LOCK .l) true).wf (F.RFC_STAT_STATE .l) 2, .l, by decide +kernel⟩,
    ⟨(({ reset with rfc.l.held := some ⟨rcmd 5, false, 0, 0⟩ } : State).wf (F.RFC_STAT_STATE .l) 2).setRegN R.GTU_INC 0x10000000,
      .l, (⟨rcmd 5, false, 0, 0⟩), by decide +kernel⟩,
    ⟨{ reset with rfc.l.run := some ⟨none, false, .cal⟩, rfc.l.calMask := 1 }, .l, 0, ([]), by decide +kernel⟩,
    ⟨{ reset with rfc.l.run := some ⟨none, false, .cal⟩, rfc.l.calMask := 2 }, .l, ([]), by decide +kernel⟩,
    ⟨reset, .l, by decide +kernel⟩,
    ⟨{ ({ ((((reset).wb (F.RFC_CTRL_AUTOCAL .l) true).wf (F.RFC_STAT_STATE .l) Rs.SYNTH).wb (F.RFC_STAT_LOCK .l) true) with rfc.l.run := none }) with rfc.l.held := none },
      .l, by decide +kernel⟩,
    ⟨{ reset with rfc.l.dpd := some (⟨rcmd 10,false⟩) }, .l, (⟨rcmd 10,false⟩), by decide +kernel⟩,
    ⟨{ reset with rfc.l.dpd := some ⟨rcmd 10, true⟩ }, .l, (⟨rcmd 10, true⟩), by decide +kernel⟩,
    ⟨reset, .l, 9, 0, 0, by decide +kernel⟩,
    ⟨reset, .l, 9, 0, 0x01900064, by decide +kernel⟩⟩

theorem witness_FrontEndPorts :
    (∃ s : Machine.State, ∃ r : Radio, ∃ i : Init, ∃ v : Word, (s.MayWrite i (R.RFC_CMD_PUSH r)) ∧
      (BitVec.getLsbD v 0 = true) ∧ (s.ready (Fn.RADIO r.idx) = true) ∧
      (s.rfcFormat r (rfcCmdOf (s.rfcStaged r)) = St.OK) ∧ ((s.rfc.get r).queue.length < 16)) ∧
    (∃ s : Machine.State, ∃ r : Radio, ∃ i : Init, ∃ v : Word, (s.MayWrite i (R.RFC_CMD_PUSH r)) ∧
      (BitVec.getLsbD v 0 = true) ∧ (s.ready (Fn.RADIO r.idx) = true) ∧
      (s.rfcFormat r (rfcCmdOf (s.rfcStaged r)) = St.OK) ∧ (16 ≤ (s.rfc.get r).queue.length)) ∧
    (∃ s : Machine.State, ∃ r : Radio, ∃ w : SixWords, (s.ready (Fn.RADIO r.idx) = true) ∧
      ((rfcCmdOf w).opc ∈ [5, 6, 7, 11]) ∧ (s.rfcFormat r (rfcCmdOf w) = St.OK) ∧ ((s.rfc.get r).port = none)) ∧
    (∃ s : Machine.State, ∃ r : Radio, ∃ i : Init, ∃ x : Res, ∃ xs : List Res, (s.MayRead i (R.RFC_RES r)) ∧
      ((s.rfc.get r).results = x :: xs)) :=
    ⟨⟨(S0).setReg (R.RFC_CMD_W .l 0) 0x0B000000, .l, 9, 1, by decide +kernel⟩,
    ⟨{ (({ S0 with rfc.l.queue := List.replicate 16 (rcmd 5) } : State).setReg (R.RFC_CMD_W .l 0) 0x0B000000) with rfc.l.queue := List.replicate 16 (rcmd 5) },
      .l, 9, 1, by decide +kernel⟩,
    ⟨{ S0 with rfc.l.port := none }, .l, (⟨0x0B000000, 0, 0, 0, 0, 0⟩), by decide +kernel⟩,
    ⟨{ reset with rfc.l.results := res0 :: ([]) }, .l, 9, res0, ([]), by decide +kernel⟩⟩

theorem witness_ModemReceive :
    (∃ s : Machine.State, ∃ r : Radio, ∃ pwr : Int, (s.rfcState r = Rs.RX) ∧ (s.mdmPhase r = 0 ∨ s.mdmPhase r = 5) ∧
      (toSigned 8 (s.rf (F.MDM_DETTHR_T r)) ≤ pwr)) ∧
    (∃ s : Machine.State, ∃ r : Radio, ∃ first : Bool, (s.mdmPhase r = if first = true then 1 else 2)) ∧
    (∃ s : Machine.State, ∃ r : Radio, (s.mdmPhase r = 4)) ∧
    (∃ s : Machine.State, ∃ r : Radio, ∃ pwr : Int, (s.mdmReceiving r = true) ∧ (s.rb (F.MDM_STAT_RSTARM r) = true) ∧
      (2 * toSigned 8 (s.rf (F.MDM_STAT_DETPWR r)) + ↑(s.rf (F.MDM_CAPM_M r)) ≤ 2 * pwr)) ∧
    (∃ s : Machine.State, ∃ r : Radio, ∃ pwr : Int, (s.mdmReceiving r = true) ∧ (s.rb (F.MDM_STAT_RSTARM r) = true) ∧
      (2 * pwr < 2 * toSigned 8 (s.rf (F.MDM_STAT_DETPWR r)) + ↑(s.rf (F.MDM_CAPM_M r)))) ∧
    (∃ s : Machine.State, ∃ r : Radio, (s.mdmReceiving r = true) ∧ (s.rb (F.MDM_STAT_RSTARM r) = true) ∧
      (s.rb (F.MDM_CTRL_CLIPRST r) = true)) ∧
    (∃ s : Machine.State, ∃ r : Radio, (s.mdmPhase r = 3) ∧ ((s.mdm.get r).tb = none)) :=
    ⟨⟨(reset).wf (F.RFC_STAT_STATE .l) Rs.RX, .l, 0, by decide +kernel⟩,
    ⟨(reset).wf (F.MDM_STAT_PHASE .l) 1, .l, true, by decide +kernel⟩,
    ⟨(reset).wf (F.MDM_STAT_PHASE .l) 4, .l, by decide +kernel⟩,
    ⟨((reset).wb (F.MDM_STAT_RSTARM .l) true).wf (F.MDM_STAT_PHASE .l) 2, .l, 127, by decide +kernel⟩,
    ⟨((reset).wb (F.MDM_STAT_RSTARM .l) true).wf (F.MDM_STAT_PHASE .l) 2, .l, (-1000), by decide +kernel⟩,
    ⟨(((reset).wb (F.MDM_STAT_RSTARM .l) true).wb (F.MDM_CTRL_CLIPRST .l) true).wf (F.MDM_STAT_PHASE .l) 2, .l,
      by decide +kernel⟩,
    ⟨({ reset with mdm.l.tb := none }).wf (F.MDM_STAT_PHASE .l) 3, .l, by decide +kernel⟩⟩

theorem witness_ModemCommands :
    (∃ s : Machine.State, ∃ w : WRadio, ∃ users : List (BitVec 12), (users.length ≤ 16) ∧
      (s.mdmReceiving w.toRadio = false)) ∧
    (∃ s : Machine.State, ∃ w : WRadio, ∃ x : TbRx, ((s.mdm.get w.toRadio).tb = some x) ∧ (s.mdmPhase w.toRadio = 5)) ∧
    (∃ s : Machine.State, ∃ r : Radio, ∃ v : SevenWords, ∃ stored : Bool, (s.vectorCheck r v stored = St.OK)) ∧
    (∃ s : Machine.State, ∃ r : Radio, ∃ v : SevenWords, ∃ stored : Bool, (s.vectorCheck r v stored ≠ St.OK)) ∧
    (∃ s : Machine.State, ∃ r : Radio, ∃ x : RfcRun, ((s.rfc.get r).run = some x) ∧ (x.work = RfcWork.tx)) ∧
    (∃ s : Machine.State, ∃ i : Init, ∃ v : Word, (s.MayWrite i (R.MDM_SMODE Radio.s)) ∧
      (s.writeRefused (↑i) (R.MDM_SMODE Radio.s) v = false) ∧ (s.mdmReceiving Radio.s = true)) ∧
    (∃ s : Machine.State, ∃ i : Init, ∃ v : Word, (s.MayWrite i (R.MDM_SMODE Radio.s)) ∧
      (s.writeRefused (↑i) (R.MDM_SMODE Radio.s) v = false) ∧ (s.mdmReceiving Radio.s = false)) ∧
    (∃ s : Machine.State, ∃ r : Radio, ∃ grew : Nat, (s.rf (F.MDM_RXALM_N r) < grew)) ∧
    (∃ s : Machine.State, ∃ r : Radio, ∃ grew : Nat, (grew ≤ s.rf (F.MDM_RXALM_N r))) :=
    ⟨⟨reset, .l, ([]), by decide +kernel⟩,
    ⟨({ reset with mdm.l.tb := some (⟨[],0⟩) }).wf (F.MDM_STAT_PHASE .l) 5, .l, (⟨[],0⟩), by decide +kernel⟩,
    ⟨reset.setRegN R.GTU_INC 0x10000000, .l, (⟨0, 0, 0, 0, 0, 1, 0⟩), true, by decide +kernel⟩,
    ⟨reset, .l, (⟨0,0,0,0,0,0,0⟩), false, by decide +kernel⟩,
    ⟨{ reset with rfc.l.run := some (⟨none, false, .tx⟩) }, .l, (⟨none, false, .tx⟩), by decide +kernel⟩,
    ⟨(reset).wf (F.MDM_STAT_PHASE .s) 2, 9, 0, by decide +kernel⟩,
    ⟨reset, 9, 0, by decide +kernel⟩,
    ⟨reset, .l, 100000, by decide +kernel⟩,
    ⟨reset, .l, 0, by decide +kernel⟩⟩

theorem witness_MacCommands :
    (∃ s : Machine.State, ∃ r : WRadio, ∃ w : List Word, ∃ ws : List (List Word), ((s.mac r).cmds = w :: ws) ∧
      (cmdOpc w = 1) ∧ (s.macState r = Ms.IDLE ∨ s.macState r = Ms.RUN) ∧ (s.linksAgree r = true)) ∧
    (∃ s : Machine.State, ∃ r : WRadio, ∃ w : List Word, ∃ ws : List (List Word), ((s.mac r).cmds = w :: ws) ∧
      (cmdOpc w = 2) ∧ (s.macState r = Ms.RUN) ∧ (s.bssOn r (mcBss w) = true)) ∧
    (∃ s : Machine.State, ∃ r : WRadio, ∃ w : List Word, ∃ ws : List (List Word), ((s.mac r).cmds = w :: ws) ∧
      (cmdOpc w = 9) ∧ (r ≠ WRadio.l) ∧ (s.macState r = Ms.IDLE ∨ s.macState r = Ms.RUN)) ∧
    (∃ s : Machine.State, ∃ r : WRadio, ∃ w : List Word, ∃ ws : List (List Word), ((s.mac r).cmds = w :: ws) ∧
      (cmdOpc w = 9) ∧ (r = WRadio.l) ∧ (s.macState r = Ms.IDLE ∨ s.macState r = Ms.RUN) ∧
      ((s.mac r).results.length < 16)) ∧
    (∃ s : Machine.State, ∃ r : WRadio, ∃ w : List Word, ∃ ws : List (List Word), ((s.mac r).cmds = w :: ws) ∧
      (cmdOpc w = 10) ∧ (s.macState r = Ms.RUN) ∧ ((s.mac r).mesh = true)) ∧
    (∃ s : Machine.State, ∃ r : WRadio, ∃ w : List Word, ∃ ws : List (List Word), ((s.mac r).cmds = w :: ws) ∧
      (cmdOpc w = 3) ∧ (s.macState r = Ms.RUN) ∧ (s.recKind (mcClient w) = 1) ∧ (s.bssOn r (mcBss w) = true) ∧
      (mcSub w % 2 = 0 ∨ s.ready Fn.WIFIMU = true) ∧ (s.macLink r (mcClient w) = none)) ∧
    (∃ s : Machine.State, ∃ r : WRadio, ∃ w : List Word, ∃ ws : List (List Word), ∃ l : MacLink,
      ((s.mac r).cmds = w :: ws) ∧ (cmdOpc w = 4) ∧ (s.macState r = Ms.RUN ∨ s.macState r = Ms.DRAIN) ∧
      (s.macLink r (mcClient w) = some l) ∧ (mcBss w = l.bss % 16)) ∧
    (∃ s : Machine.State, ∃ r : WRadio, ∃ w : List Word, ∃ ws : List (List Word), ((s.mac r).cmds = w :: ws) ∧
      (cmdOpc w = 5) ∧ (s.macState r = Ms.RUN) ∧ ((s.macLink r (mcClient w)).isSome = true) ∧
      (baSize (mcSub w) ≤ s.baMax (mcClient w)) ∧
      ((s.wlan.bas.any fun b => b.client == mcClient w && b.tid == mcTid w && b.tx == mcDir w) = false) ∧
      ((List.filter (fun b => b.tx == mcDir w) s.wlan.bas).length < 4096)) ∧
    (∃ s : Machine.State, ∃ r : WRadio, ∃ w : List Word, ∃ ws : List (List Word), ((s.mac r).cmds = w :: ws) ∧
      (cmdOpc w = 6) ∧ (s.macState r = Ms.RUN ∨ s.macState r = Ms.DRAIN) ∧ ((s.macLink r (mcClient w)).isSome = true) ∧
      ((s.wlan.bas.any fun b => b.client == mcClient w && b.tid == mcTid w && b.tx == mcDir w) = true)) ∧
    (∃ s : Machine.State, ∃ r : WRadio, ∃ w : List Word, ∃ ws : List (List Word), ((s.mac r).cmds = w :: ws) ∧
      (cmdOpc w = 7) ∧ (s.macState r = Ms.RUN) ∧ (s.ready Fn.WIFIMU = true) ∧ ((s.macLink r (mcClient w)).isSome = true) ∧
      (s.te (BitVec.toNat (w.getD 3 0)) 0 31 31 ≠ 0)) ∧
    (∃ s : Machine.State, ∃ r : WRadio, ∃ w : List Word, ∃ ws : List (List Word), ((s.mac r).cmds = w :: ws) ∧
      (cmdOpc w = 8) ∧ (s.macState r = Ms.RUN ∨ s.macState r = Ms.DRAIN) ∧
      ((s.wlan.twts.any fun x => x.radio == r.idx && x.client == mcClient w && x.flow == mcSub w) = true)) :=
    ⟨⟨(reset.setMac .l (fun m => { m with cmds := [[0x01000000]] })).wf (F.MAC_STAT_STATE .l) Ms.IDLE, .l, ([0x01000000]), ([]), by decide +kernel⟩,
    ⟨((reset.setMac .l (fun m => { m with cmds := [[0x02000000]] })).wf (F.MAC_STAT_STATE .l) Ms.RUN).wf (F.MAC_STAT_BSSACT .l) 1,
      .l, ([0x02000000]), ([]), by decide +kernel⟩,
    ⟨(reset.setMac .m (fun m => { m with cmds := [[0x09000000]] })).wf (F.MAC_STAT_STATE .m) Ms.IDLE, .m, ([0x09000000]),
      ([]), by decide +kernel⟩,
    ⟨(reset.setMac .l (fun m => { m with cmds := [[0x09000000]] })).wf (F.MAC_STAT_STATE .l) Ms.IDLE, .l, ([0x09000000]),
      ([]), by decide +kernel⟩,
    ⟨(reset.setMac .l (fun m => { m with cmds := [[0x0A000000]], mesh := true })).wf (F.MAC_STAT_STATE .l) Ms.RUN, .l,
      ([0x0A000000]), ([]), by decide +kernel⟩,
    ⟨(((reset.setMac .l (fun m => { m with cmds := [[0x03000000]] })).wf (F.MAC_STAT_STATE .l) Ms.RUN).wf (F.MAC_STAT_BSSACT .l) 1).setRec 0 0 31 28 1,
      .l, ([0x03000000]), ([]), by decide +kernel⟩,
    ⟨(({ reset with wlan.links := [⟨0, 0, 0, false, 1⟩] } : State).setMac .l (fun m => { m with cmds := [[0x04000000]] })).wf (F.MAC_STAT_STATE .l) Ms.RUN,
      .l, ([0x04000000]), ([]), (⟨0, 0, 0, false, 1⟩), by decide +kernel⟩,
    ⟨(({ reset with wlan.links := [⟨0, 0, 0, false, 1⟩] } : State).setMac .l (fun m => { m with cmds := [[0x05000000]] })).wf (F.MAC_STAT_STATE .l) Ms.RUN,
      .l, ([0x05000000]), ([]), by decide +kernel⟩,
    ⟨(({ reset with wlan.links := [⟨0, 0, 0, false, 1⟩], wlan.bas := [⟨0, 0, false, 64⟩] } : State).setMac .l (fun m => { m with cmds := [[0x06000000]] })).wf (F.MAC_STAT_STATE .l) Ms.RUN,
      .l, ([0x06000000]), ([]), by decide +kernel⟩,
    ⟨((({ S0 with wlan.links := [⟨0, 0, 0, false, 1⟩] } : State).setMac .l (fun m => { m with cmds := [[0x07000000]] })).wf (F.MAC_STAT_STATE .l) Ms.RUN).setByte (twtAddr 0 + 3) 0x80,
      .l, ([0x07000000]), ([]), by decide +kernel⟩,
    ⟨(({ reset with wlan.twts := [⟨0, 0, 0, 0, 0, 1⟩] } : State).setMac .l (fun m => { m with cmds := [[0x08000000]] })).wf (F.MAC_STAT_STATE .l) Ms.RUN,
      .l, ([0x08000000]), ([]), by decide +kernel⟩⟩

theorem witness_MacAir :
    (∃ s : Machine.State, ∃ r : WRadio, ∃ x : ExchangeOut, ∃ ids : List Nat,
      ∃ p : Machine.State × ExchangeOut × List Mpdu, (s.macState r = Ms.RUN) ∧
      (s.notchExchange r x (s.stagedOn r ids) = some p)) ∧
    (∃ s : Machine.State, ∃ r : WRadio, ∃ x : ExchangeOut, ∃ ids : List Nat, (s.macState r = Ms.RUN) ∧
      (s.notchExchange r x (s.stagedOn r ids) = none)) ∧
    (∃ s : Machine.State, ∃ r : WRadio, (s.macState r ≠ Ms.OFF)) ∧
    (∃ s : Machine.State, ∃ r : WRadio, ∃ x : ExchangeOut, ∃ p : PlanSt, (s.macState r = Ms.RUN) ∧
      (s.planOf r.idx [2] = some p) ∧ (s.notchMode r (vecStart x.vec) x.ppdu x.resp = NotchMode.full)) ∧
    (∃ s : Machine.State, ∃ r : WRadio, ∃ x : ExchangeOut, ∃ p : PlanSt, (s.macState r = Ms.RUN) ∧
      (s.planOf r.idx [3, 4] = some p) ∧ (s.notchMode r (vecStart x.vec) x.ppdu x.resp ≠ NotchMode.off)) ∧
    (∃ s : Machine.State, ∃ r : WRadio, (s.macState r = Ms.RUN)) ∧
    (∃ s : Machine.State, ∃ r : WRadio, (s.macState r = Ms.RUN)) ∧
    (∃ s : Machine.State, ∃ r : WRadio, ∃ b : Fin 16, ((s.mac r).contend.contains ↑b = true)) :=
    ⟨⟨(reset).wf (F.MAC_STAT_STATE .l) Ms.RUN, .l, xo0, ([]), ((((reset).wf (F.MAC_STAT_STATE .l) Ms.RUN), State.reduce ((reset).wf (F.MAC_STAT_STATE .l) Ms.RUN) .l xo0, [])), by decide +kernel⟩,
    ⟨((reset).wf (F.MAC_STAT_STATE .l) Ms.RUN).wb (F.MAC_NOTCH_CTRL_OMODE .l) true, .l, xo0, ([]), by decide +kernel⟩,
    ⟨(reset).wf (F.MAC_STAT_STATE .l) Ms.RUN, .l, by decide +kernel⟩,
    ⟨{ notch .l with stp.plans := [(0, some ⟨2, [], 0, 0, 0⟩)] }, .l, (⟨⟨0, 0, 0, 0, 0, 1, 0⟩, 0, 0, 0, 0⟩),
      (⟨2, [], 0, 0, 0⟩), by decide +kernel⟩,
    ⟨{ notch .l with stp.plans := [(0, some ⟨3, [], 0, 0, 0⟩)] }, .l, (⟨⟨0, 0, 0, 0, 0, 1, 0⟩, 0, 0, 0, 0⟩),
      (⟨3, [], 0, 0, 0⟩), by decide +kernel⟩,
    ⟨(reset).wf (F.MAC_STAT_STATE .l) Ms.RUN, .l, by decide +kernel⟩,
    ⟨(reset).wf (F.MAC_STAT_STATE .l) Ms.RUN, .l, by decide +kernel⟩,
    ⟨reset.setMac .l (fun m => { m with contend := [0] }), .l, 0, by decide +kernel⟩⟩

theorem witness_MacReceive :
    (∃ s : Machine.State, ∃ r : WRadio, ∃ f : RxFrame, (s.macState r ≠ Ms.OFF) ∧ (f.fcs = false)) ∧
    (∃ s : Machine.State, ∃ r : WRadio, ∃ f : RxFrame, (s.macState r ≠ Ms.OFF) ∧
      let u : Machine.State := ((s.noteRx r f).heardFrom f.client.toNat (s.mdm.get r.toRadio).stamp f.pm).setReorder f.client.toNat ↑f.tid fun o => scoreAdd o f.sn.toNat;
      let n : Nat := u.pkt.rsvd.getN (rxKey (RxSource.wifi r));
      (f.fcs = true) ∧ (f.bar = false) ∧ (n = 0)) ∧
    (∃ s : Machine.State, ∃ r : WRadio, ∃ f : RxFrame, (s.macState r ≠ Ms.OFF) ∧
      let u : Machine.State := ((s.noteRx r f).heardFrom f.client.toNat (s.mdm.get r.toRadio).stamp f.pm).setReorder f.client.toNat ↑f.tid fun o => scoreAdd o f.sn.toNat;
      let n : Nat := u.pkt.rsvd.getN (rxKey (RxSource.wifi r));
      (f.fcs = true) ∧ (f.bar = false) ∧ (n ≠ 0) ∧ (f.prot = true) ∧ (u.decrypt r f ≠ St.OK)) ∧
    (∃ s : Machine.State, ∃ r : WRadio, ∃ f : RxFrame, (s.macState r ≠ Ms.OFF) ∧
      let u : Machine.State := ((s.noteRx r f).heardFrom f.client.toNat (s.mdm.get r.toRadio).stamp f.pm).setReorder f.client.toNat ↑f.tid fun o => scoreAdd o f.sn.toNat;
      let n : Nat := u.pkt.rsvd.getN (rxKey (RxSource.wifi r));
      (f.fcs = true) ∧ (f.bar = false) ∧ (n ≠ 0) ∧ (f.prot = true ∨ f.eapol = true) ∧ (u.decrypt r f = St.OK)) ∧
    (∃ s : Machine.State, ∃ c : BitVec 12, ∃ tid : Fin 8, ∃ o : Reorder,
      (List.find? (fun o => o.client == c.toNat && o.tid == ↑tid) s.wlan.reorders = some o) ∧
      (s.held o.client o.tid ≠ [])) ∧
    (∃ s : Machine.State, ∃ n : Nat, ∃ m : Mpdu, (s.mpdu n = some m) ∧ (m.busy = false)) ∧
    (∃ s : Machine.State, ∃ r : WRadio, ∃ x : Nat × Nat, ∃ m : Mpdu,
      (List.find? (fun y => y.snd == r.idx && match s.mpdu y.fst with | some m => !m.busy && m.stored && decide (m.units ≤ s.txFree r.idx) | none => true) s.wlan.moves = some x) ∧
      (s.mpdu x.fst = some m)) ∧
    (∃ s : Machine.State, ∃ r : WRadio, ∃ b : WifiBeacon, (s.macState r ≠ Ms.OFF) ∧ (b.fcs = false)) ∧
    (∃ s : Machine.State, ∃ r : WRadio, ∃ b : WifiBeacon, ∃ g : GteIn, (s.macState r ≠ Ms.OFF) ∧ (b.fcs = true) ∧
      (b.gte = some g) ∧ (BitVec.extractLsb' 0 32 b.addr = s.reg (R.MAC_PARENT_LO r)) ∧
      ((BitVec.extractLsb' 32 16 b.addr).toNat = s.rf (F.MAC_PARENT_HI_A r))) :=
    ⟨⟨(reset).wf (F.MAC_STAT_STATE .l) Ms.RUN, .l, ({ rxf0 with fcs := false }), by decide +kernel⟩,
    ⟨(reset).wf (F.MAC_STAT_STATE .l) Ms.RUN, .l, rxf0, by decide +kernel⟩,
    ⟨{ ((reset).wf (F.MAC_STAT_STATE .l) Ms.RUN) with pkt.rsvd := [(8, 2)] }, .l, ({ rxf0 with prot := true }),
      by decide +kernel⟩,
    ⟨{ ((reset).wf (F.MAC_STAT_STATE .l) Ms.RUN) with pkt.rsvd := [(8, 2)] }, .l, ({ rxf0 with eapol := true }),
      by decide +kernel⟩,
    ⟨{ reset with wlan.reorders := [⟨0, 0, 1, 0, 0, []⟩], rxmpdus := [⟨1, 0, [], 1, 0, 0, 0, 0, 0, 0, [0], 0, 0, false⟩] },
      0, 0, (⟨0, 0, 1, 0, 0, []⟩), by decide +kernel⟩,
    ⟨{ reset with mpdus := [{ mpdu0 with busy := false }] }, 1, ({ mpdu0 with busy := false }), by decide +kernel⟩,
    ⟨{ reset with mpdus := [{ mpdu0 with busy := false, units := 0 }], wlan.moves := [(1, 0)] }, .l, ((1, 0)),
      ({ mpdu0 with busy := false, units := 0 }), by decide +kernel⟩,
    ⟨(reset).wf (F.MAC_STAT_STATE .l) Ms.RUN, .l, ({ wbn0 with fcs := false }), by decide +kernel⟩,
    ⟨(reset).wf (F.MAC_STAT_STATE .l) Ms.RUN, .l, wbn0, gte0, by decide +kernel⟩⟩

theorem witness_NotchPlans :
    (∃ s : Machine.State, ∃ r : WRadio, ∃ i : Init, (s.MayWrite i (R.MAC_NOTCH_ACT_HI r))) ∧
    (∃ s : Machine.State, ∃ r : WRadio,
      let c : Nat := s.gtN / 2 ^ 24;
      let act : Nat := s.reg64 (R.MAC_NOTCH_ACT_LO r) (R.MAC_NOTCH_ACT_HI r);
      (s.rb (F.MAC_NOTCH_STAT_PEND r) = true) ∧ (act ≤ c) ∧ (c % 2 ^ s.rf (F.MAC_NOTCH_PCTRL_PEXP r) = 0)) ∧
    (∃ s : Machine.State, ∃ r : WRadio,
      let c : Nat := s.gtN / 2 ^ 24;
      let act : Nat := s.reg64 (R.MAC_NOTCH_ACT_LO r) (R.MAC_NOTCH_ACT_HI r);
      (c < act)) :=
    ⟨⟨reset, .l, 9, by decide +kernel⟩,
    ⟨(reset).wb (F.MAC_NOTCH_STAT_PEND .l) true, .l, by decide +kernel⟩,
    ⟨reset.setReg (R.MAC_NOTCH_ACT_HI .l) 5, .l, by decide +kernel⟩⟩

theorem witness_SteppeCommands :
    (∃ s : Machine.State, ∃ w : List Word, ∃ ws : List (List Word), (s.stp.cmds = w :: ws) ∧ (stpIndex w < 3072) ∧
      (stpFlow w ≤ 7) ∧ (cmdOpc w = 1) ∧ (s.rf F.STP_STAT_STATE = Stp.IDLE)) ∧
    (∃ s : Machine.State, ∃ w : List Word, ∃ ws : List (List Word), (s.stp.cmds = w :: ws) ∧ (stpIndex w < 3072) ∧
      (stpFlow w ≤ 7) ∧ (cmdOpc w = 2) ∧ (s.rf F.STP_STAT_STATE = Stp.RUN)) ∧
    (∃ s : Machine.State, ∃ w : List Word, ∃ ws : List (List Word), (s.stp.cmds = w :: ws) ∧ (stpIndex w < 3072) ∧
      (stpFlow w ≤ 7) ∧
      let i : Nat := stpIndex w;
      (cmdOpc w = 3) ∧ (s.rf F.STP_STAT_STATE ≠ Stp.OFF) ∧ (s.recKind i = 0)) ∧
    (∃ s : Machine.State, ∃ w : List Word, ∃ ws : List (List Word), (s.stp.cmds = w :: ws) ∧ (stpIndex w < 3072) ∧
      (stpFlow w ≤ 7) ∧
      let i : Nat := stpIndex w;
      (cmdOpc w = 4) ∧ (s.rf F.STP_STAT_STATE ≠ Stp.OFF) ∧ (s.recKind i ≠ 0) ∧ (s.recHeld i = false)) ∧
    (∃ s : Machine.State, ∃ w : List Word, ∃ ws : List (List Word), (s.stp.cmds = w :: ws) ∧ (stpIndex w < 3072) ∧
      (stpFlow w ≤ 7) ∧
      let i : Nat := stpIndex w;
      (cmdOpc w = 5) ∧ (s.rf F.STP_STAT_STATE ≠ Stp.OFF) ∧ (s.recKind i ≠ 0) ∧ (stpWord w ≠ 7)) ∧
    (∃ s : Machine.State, ∃ w : List Word, ∃ ws : List (List Word), (s.stp.cmds = w :: ws) ∧ (stpIndex w < 3072) ∧
      (stpFlow w ≤ 7) ∧
      let i : Nat := stpIndex w;
      (cmdOpc w = 6) ∧ (s.rf F.STP_STAT_STATE = Stp.RUN) ∧ (s.recKind i ≠ 0) ∧ (s.recState i ≠ Cl.SUSP)) ∧
    (∃ s : Machine.State, ∃ w : List Word, ∃ ws : List (List Word), (s.stp.cmds = w :: ws) ∧ (stpIndex w < 3072) ∧
      (stpFlow w ≤ 7) ∧
      let i : Nat := stpIndex w;
      (cmdOpc w = 7) ∧ (s.rf F.STP_STAT_STATE = Stp.RUN) ∧ (s.recKind i ≠ 0) ∧ (s.recState i = Cl.SUSP)) ∧
    (∃ s : Machine.State, ∃ w : List Word, ∃ ws : List (List Word), (s.stp.cmds = w :: ws) ∧ (stpIndex w < 3072) ∧
      (stpFlow w ≤ 7) ∧
      let i : Nat := stpIndex w;
      (cmdOpc w = 10) ∧ (s.rf F.STP_STAT_STATE = Stp.RUN) ∧ (s.recKind i ≠ 0)) ∧
    (∃ s : Machine.State, ∃ w : List Word, ∃ ws : List (List Word), (s.stp.cmds = w :: ws) ∧ (stpIndex w < 3072) ∧
      (stpFlow w ≤ 7) ∧
      let i : Nat := stpIndex w;
      let e : Nat := s.flowEntry i (stpFlow w);
      (cmdOpc w = 8) ∧ (s.rf F.STP_STAT_STATE = Stp.RUN) ∧ (s.recKind i ≠ 0) ∧ (s.recKind i ≠ 2) ∧ (e < 8192) ∧
      (s.te e 0 31 31 = 0) ∧ (0 < s.twtPeriod (s.te e 1 31 0)) ∧ (s.twtPeriod (s.te e 1 31 0) ≤ 65535 * 256) ∧
      (s.teDur e ≤ s.twtPeriod (s.te e 1 31 0) * 2 ^ 16)) ∧
    (∃ s : Machine.State, ∃ w : List Word, ∃ ws : List (List Word), (s.stp.cmds = w :: ws) ∧ (stpIndex w < 3072) ∧
      (stpFlow w ≤ 7) ∧
      let i : Nat := stpIndex w;
      let e : Nat := s.flowEntry i (stpFlow w);
      (cmdOpc w = 9) ∧ (s.rf F.STP_STAT_STATE ≠ Stp.OFF) ∧ (s.recKind i ≠ 0) ∧ (s.recKind i ≠ 2) ∧ (e < 8192)) :=
    ⟨⟨stpCmd Stp.IDLE [0x01000000], ([0x01000000]), ([]), by decide +kernel⟩,
    ⟨stpCmd Stp.RUN [0x02000000], ([0x02000000]), ([]), by decide +kernel⟩,
    ⟨stpCmd Stp.RUN [0x03000000], ([0x03000000]), ([]), by decide +kernel⟩,
    ⟨(stpCmd Stp.RUN [0x04000000]).setRec 0 0 31 28 1, ([0x04000000]), ([]), by decide +kernel⟩,
    ⟨(stpCmd Stp.RUN [0x05000000]).setRec 0 0 31 28 1, ([0x05000000]), ([]), by decide +kernel⟩,
    ⟨(stpCmd Stp.RUN [0x06000000]).setRec 0 0 31 28 1, ([0x06000000]), ([]), by decide +kernel⟩,
    ⟨((stpCmd Stp.RUN [0x07000000]).setRec 0 0 31 28 1).setRec 0 0 27 24 Cl.SUSP, ([0x07000000]), ([]),
      by decide +kernel⟩,
    ⟨(stpCmd Stp.RUN [0x0A000000]).setRec 0 0 31 28 1, ([0x0A000000]), ([]), by decide +kernel⟩,
    ⟨((stpCmd Stp.RUN [0x08000000]).setRec 0 0 31 28 1).writeN (twtAddr 0 + 4) 4 100000, ([0x08000000]), ([]),
      by decide +kernel⟩,
    ⟨(stpCmd Stp.RUN [0x09000000]).setRec 0 0 31 28 1, ([0x09000000]), ([]), by decide +kernel⟩⟩

theorem witness_SteppePlans :
    (∃ s : Machine.State, (s.rf F.STP_STAT_STATE ≠ Stp.RUN)) ∧
    (∃ s : Machine.State, ∃ c : BitVec 12, (s.rf F.STP_STAT_STATE = Stp.RUN) ∧ (s.recKind c.toNat = 1) ∧
      (s.recState c.toNat ≠ Cl.LISTEN) ∧ (s.recState c.toNat ≠ Cl.LOST) ∧ (s.recState c.toNat ≠ Cl.SUSP)) :=
    ⟨⟨reset, by decide +kernel⟩,
    ⟨(stpCmd Stp.RUN []).setRec 0 0 31 28 1, 0, by decide +kernel⟩⟩

theorem witness_SteppeLearns :
    (∃ s : Machine.State, ∃ c : BitVec 12, (s.recKind c.toNat = 1) ∧
      (dramBase ≤ s.reg64 R.STP_HISTBASE_LO R.STP_HISTBASE_HI) ∧ (∀ (m : Mpdu), m ∈ s.mpdus → m.radio ≤ 2)) ∧
    (∃ s : Machine.State, ∃ c : BitVec 12, (s.rb F.STP_CTRL_LEARN = true) ∧ (s.recKind c.toNat ≠ 0) ∧
      (s.recState c.toNat ≠ Cl.SUSP)) ∧
    (∃ s : Machine.State, (s.rb F.STP_CTRL_LEARN = false)) ∧
    (∃ s : Machine.State, ∃ c : BitVec 12, (s.recKind c.toNat = 1) ∧ (s.recState c.toNat ≠ Cl.LISTEN) ∧
      (s.recState c.toNat ≠ Cl.LOST) ∧ (s.recState c.toNat ≠ Cl.SUSP) ∧ (s.flows c.toNat ≠ [])) ∧
    (∃ s : Machine.State, ∃ c : BitVec 12, (s.recKind c.toNat = 1) ∧ (s.recState c.toNat = Cl.LISTEN)) :=
    ⟨⟨(reset.setRec 0 0 31 28 1).setReg R.STP_HISTBASE_HI 15, 0, by decide +kernel⟩,
    ⟨((reset).wb F.STP_CTRL_LEARN true).setRec 0 0 31 28 1, 0, by decide +kernel⟩,
    ⟨(reset).wb F.STP_CTRL_LEARN false, by decide +kernel⟩,
    ⟨(reset.setRec 0 0 31 28 1).setRec 0 38 24 24 1, 0, by decide +kernel⟩,
    ⟨(reset.setRec 0 0 31 28 1).setRec 0 0 27 24 Cl.LISTEN, 0, by decide +kernel⟩⟩

theorem witness_FieldCommands :
    (∃ s : Machine.State, ∃ w : List Word, ∃ ws : List (List Word), (s.fld.cmds = w :: ws) ∧
      let open_ : Prop := s.fmState = Fm.IDLE ∨ s.fmState = Fm.RUN;
      (cmdOpc w = 1) ∧ (open_) ∧ (s.rb F.FMAC_STAT_PARENT = false) ∧ (s.fld.starting = false) ∧
      (s.rf F.FMAC_CHAN_REC ≠ 2047) ∧ (s.rf F.FMAC_NETID_ID ≠ 0)) ∧
    (∃ s : Machine.State, ∃ w : List Word, ∃ ws : List (List Word), (s.fld.cmds = w :: ws) ∧ (cmdOpc w = 2) ∧
      (s.fmState = Fm.RUN)) ∧
    (∃ s : Machine.State, ∃ w : List Word, ∃ ws : List (List Word), (s.fld.cmds = w :: ws) ∧
      let open_ : Prop := s.fmState = Fm.IDLE ∨ s.fmState = Fm.RUN;
      (cmdOpc w = 3) ∧ (open_) ∧ (s.rb F.FMAC_STAT_UP = false)) ∧
    (∃ s : Machine.State, ∃ w : List Word, ∃ ws : List (List Word), (s.fld.cmds = w :: ws) ∧ (cmdOpc w = 4) ∧
      (s.fmState = Fm.RUN)) ∧
    (∃ s : Machine.State, ∃ w : List Word, ∃ ws : List (List Word), (s.fld.cmds = w :: ws) ∧
      let e : Nat := fmEntry w;
      let ptr : Nat := BitVec.toNat (w.getD 3 0);
      let open_ : Prop := s.fmState = Fm.IDLE ∨ s.fmState = Fm.RUN;
      (cmdOpc w = 5) ∧ (open_) ∧ (s.assignStatus e ptr = St.OK)) ∧
    (∃ s : Machine.State, ∃ w : List Word, ∃ ws : List (List Word), (s.fld.cmds = w :: ws) ∧
      let e : Nat := fmEntry w;
      (cmdOpc w = 6) ∧ (s.fmState ≠ Fm.OFF) ∧ (s.feValid e = true)) ∧
    (∃ s : Machine.State, ∃ w : List Word, ∃ ws : List (List Word), (s.fld.cmds = w :: ws) ∧
      let e : Nat := fmEntry w;
      let open_ : Prop := s.fmState = Fm.IDLE ∨ s.fmState = Fm.RUN;
      (cmdOpc w = 9) ∧ (open_) ∧ (s.feValid e = true)) ∧
    (∃ s : Machine.State, ∃ w : List Word, ∃ ws : List (List Word), ∃ k : KeySlot, (s.fld.cmds = w :: ws) ∧
      let e : Nat := fmEntry w;
      (cmdOpc w = 7) ∧ (s.fmState = Fm.RUN) ∧ (s.feValid e = true) ∧ (s.feAbsent e = false) ∧ (s.fe e 2 31 0 = 0) ∧
      (s.fieldSnap (s.fe e 6 9 0) Usage.ENC = some k)) ∧
    (∃ s : Machine.State, ∃ w : List Word, ∃ ws : List (List Word), (s.fld.cmds = w :: ws) ∧
      let e : Nat := fmEntry w;
      (cmdOpc w = 8) ∧ (s.fmState = Fm.RUN ∨ s.fmState = Fm.DRAIN) ∧ (s.feValid e = true) ∧ (s.fe e 2 31 0 ≠ 0)) :=
    ⟨⟨((fmCmd Fm.RUN [0x01000000]).wf F.FMAC_NETID_ID 7).wf F.FMAC_CHAN_REC 3, ([0x01000000]), ([]), by decide +kernel⟩,
    ⟨fmCmd Fm.RUN [0x02000000], ([0x02000000]), ([]), by decide +kernel⟩,
    ⟨fmCmd Fm.RUN [0x03000000], ([0x03000000]), ([]), by decide +kernel⟩,
    ⟨fmCmd Fm.RUN [0x04000000], ([0x04000000]), ([]), by decide +kernel⟩,
    ⟨((((fmCmd Fm.RUN [0x05000000, 0, 0, 0x11370000]).wmf 0x11370000 13 10 1).setReg R.FMAC_PLAIN 0x00100000).wf F.FMAC_CHAN_REC 0).wmf (recAddr .s 0) 27 24 8,
      ([0x05000000, 0, 0, 0x11370000]), ([]), by decide +kernel⟩,
    ⟨(fmCmd Fm.RUN [0x06000000]).setFe 0 0 31 31 1, ([0x06000000]), ([]), by decide +kernel⟩,
    ⟨(fmCmd Fm.RUN [0x09000000]).setFe 0 0 31 31 1, ([0x09000000]), ([]), by decide +kernel⟩,
    ⟨withKey ((fmCmd Fm.RUN [0x07000000]).setFe 0 0 31 31 1) 0 1 0xFF (List.replicate 32 0), ([0x07000000]), ([]),
      (⟨Slot.LOADED, 1, 0xFF, 0xFFFFFFFF, 1, 0, List.replicate 32 0, 0⟩), by decide +kernel⟩,
    ⟨((fmCmd Fm.RUN [0x08000000]).setFe 0 0 31 31 1).setFe 0 2 31 0 1, ([0x08000000]), ([]), by decide +kernel⟩⟩

theorem witness_RadioPorts :
    (∃ s : Machine.State, ∃ r : WRadio, ∃ i : Init, ∃ v : Word, (s.MayWrite i (R.MAC_CMD_PUSH r)) ∧
      (BitVec.getLsbD v 0 = true) ∧
      let w : List Word := List.map (fun k => s.reg (R.MAC_CMD_W r k)) [0, 1, 2, 3];
      (s.macCheck r w = St.OK)) ∧
    (∃ s : Machine.State, ∃ r : WRadio, ∃ i : Init, ∃ v : Word, (s.MayWrite i (R.MAC_CMD_PUSH r)) ∧
      (BitVec.getLsbD v 0 = true) ∧
      let w : List Word := List.map (fun k => s.reg (R.MAC_CMD_W r k)) [0, 1, 2, 3];
      (s.macCheck r w ≠ St.OK)) ∧
    (∃ s : Machine.State, ∃ r : WRadio, ∃ i : Init, ∃ x : Res, ∃ xs : List Res, (s.MayRead i (R.MAC_RES r)) ∧
      ((s.mac r).results = x :: xs)) ∧
    (∃ s : Machine.State, ∃ r : WRadio, ∃ i : Init, (s.MayRead i (R.MAC_TSF_LO r))) ∧
    (∃ s : Machine.State, ∃ r : WRadio, ∃ c : BitVec 12, ∃ f : Fin 8, ∃ x : TwtAgr,
      (List.find? (fun y => y.radio == r.idx && y.client == c.toNat && y.flow == ↑f) s.wlan.twts = some x) ∧
      let start : Nat := s.tsfOf (s.teNext x.entry s.gtN);
      let slip : Nat := ((x.target : Int) - (start : Int)).natAbs;
      (s.rf (F.MAC_TWTSLIP_US r) < slip)) ∧
    (∃ s : Machine.State, ∃ r : WRadio, ∃ c : BitVec 12, ∃ f : Fin 8, ∃ x : TwtAgr,
      (List.find? (fun y => y.radio == r.idx && y.client == c.toNat && y.flow == ↑f) s.wlan.twts = some x) ∧
      let start : Nat := s.tsfOf (s.teNext x.entry s.gtN);
      let slip : Nat := ((x.target : Int) - (start : Int)).natAbs;
      (slip ≤ s.rf (F.MAC_TWTSLIP_US r))) ∧
    (∃ s : Machine.State, ∃ r : WRadio, (s.macState r = Ms.DRAIN)) ∧
    (∃ s : Machine.State, ∃ r : WRadio, ∃ grew : Nat, (s.rf (F.MAC_DROPALM_N r) < grew)) ∧
    (∃ s : Machine.State, ∃ r : WRadio, ∃ grew : Nat, (grew ≤ s.rf (F.MAC_DROPALM_N r))) ∧
    (∃ s : Machine.State, ∃ i : Init, ∃ v : Word, (s.MayWrite i R.STP_CMD_PUSH) ∧ (BitVec.getLsbD v 0 = true) ∧
      let w : List Word := List.map (fun k => s.reg (R.STP_CMD_W k)) [0, 1, 2, 3];
      (s.stpCheck w = St.OK)) ∧
    (∃ s : Machine.State, ∃ i : Init, ∃ v : Word, (s.MayWrite i R.STP_CMD_PUSH) ∧ (BitVec.getLsbD v 0 = true) ∧
      let w : List Word := List.map (fun k => s.reg (R.STP_CMD_W k)) [0, 1, 2, 3];
      (s.stpCheck w ≠ St.OK)) ∧
    (∃ s : Machine.State, ∃ i : Init, ∃ x : Res, ∃ xs : List Res, (s.MayRead i R.STP_RES) ∧ (s.stp.results = x :: xs)) ∧
    (∃ s : Machine.State, ∃ i : Init, ∃ v : Word, (s.MayWrite i R.STP_PEND) ∧ (2048 ≤ bits v 11 0) ∧
      (bits v 11 0 < 3072)) ∧
    (∃ s : Machine.State, ∃ i : Init, ∃ v : Word, (s.MayWrite i R.STP_PEND) ∧ (bits v 11 0 < 2048 ∨ 3072 ≤ bits v 11 0)) ∧
    (∃ s : Machine.State, ∃ i : Init, ∃ v : Word, (s.MayWrite i R.FMAC_CMD_PUSH) ∧ (BitVec.getLsbD v 0 = true) ∧
      let w : List Word := List.map (fun k => s.reg (R.FMAC_CMD_W k)) [0, 1, 2, 3];
      (s.fmCheck w = St.OK)) ∧
    (∃ s : Machine.State, ∃ i : Init, ∃ v : Word, (s.MayWrite i R.FMAC_CMD_PUSH) ∧ (BitVec.getLsbD v 0 = true) ∧
      let w : List Word := List.map (fun k => s.reg (R.FMAC_CMD_W k)) [0, 1, 2, 3];
      (s.fmCheck w ≠ St.OK)) ∧
    (∃ s : Machine.State, ∃ i : Init, ∃ x : Res, ∃ xs : List Res, (s.MayRead i R.FMAC_RES) ∧ (s.fld.results = x :: xs)) ∧
    (∃ s : Machine.State, ∃ i : Init, ∃ v : Word, (s.MayWrite i R.FMAC_ACT_HI) ∧
      let ok : Bool := regionsOk (s.reg R.FMAC_PSF) (s.reg R.FMAC_PPLAIN) (s.reg R.FMAC_PPASS) && s.validEntries.all fun e => inPlain (s.feW e 0) (s.reg R.FMAC_PPLAIN);
      (ok = true) ∧ (s.writeRefused (↑i) R.FMAC_ACT_HI v = false)) ∧
    (∃ s : Machine.State, ∃ i : Init, (s.MayWrite i R.FMAC_ACT_HI) ∧
      let ok : Bool := regionsOk (s.reg R.FMAC_PSF) (s.reg R.FMAC_PPLAIN) (s.reg R.FMAC_PPASS) && s.validEntries.all fun e => inPlain (s.feW e 0) (s.reg R.FMAC_PPLAIN);
      (ok = false)) ∧
    (∃ s : Machine.State, (s.rb F.FMAC_STAT_SCHPEND = true)) ∧
    (∃ s : Machine.State, ∃ i : Init, ∃ j : Fin 8, ∃ k : Fin 4, (s.MayWrite i (ptabReg ↑j ↑k)) ∧
      (s.rb (F.FMAC_PTAB_W0_CUR ↑j) = true)) ∧
    (∃ s : Machine.State, ∃ i : Init, ∃ j : Fin 8, ∃ k : Fin 4, ∃ v : Word, (s.MayWrite i (ptabReg ↑j ↑k)) ∧
      (s.rb (F.FMAC_PTAB_W0_CUR ↑j) = false) ∧ (s.writeRefused (↑i) (ptabReg ↑j ↑k) v = false)) ∧
    (∃ s : Machine.State, ∃ j : Fin 8, (s.rb (F.FMAC_PTAB_W0_CUR ↑j) = false)) ∧
    (∃ s : Machine.State, (s.fmState = Fm.DRAIN)) :=
    ⟨⟨reset.setReg (R.MAC_CMD_W .l 0) 0x01000000, .l, 9, 1, by decide +kernel⟩,
    ⟨reset, .l, 9, 1, by decide +kernel⟩,
    ⟨(reset).setMac .l (fun m => { m with results := res0 :: ([]) }), .l, 9, res0, ([]), by decide +kernel⟩,
    ⟨reset, .l, 9, by decide +kernel⟩,
    ⟨{ reset with wlan.twts := [⟨0, 0, 0, 0, 2000, 1⟩] }, .l, 0, 0, (⟨0, 0, 0, 0, 2000, 1⟩), by decide +kernel⟩,
    ⟨{ reset with wlan.twts := [⟨0, 0, 0, 0, 0, 1⟩] }, .l, 0, 0, (⟨0, 0, 0, 0, 0, 1⟩), by decide +kernel⟩,
    ⟨(reset).wf (F.MAC_STAT_STATE .l) Ms.DRAIN, .l, by decide +kernel⟩,
    ⟨reset, .l, 0x10000000000, by decide +kernel⟩,
    ⟨reset, .l, 0, by decide +kernel⟩,
    ⟨reset.setReg (R.STP_CMD_W 0) 0x01000000, 9, 1, by decide +kernel⟩,
    ⟨reset, 9, 1, by decide +kernel⟩,
    ⟨{ reset with stp.results := res0 :: ([]) }, 9, res0, ([]), by decide +kernel⟩,
    ⟨reset, 9, 2048, by decide +kernel⟩,
    ⟨reset, 9, 0, by decide +kernel⟩,
    ⟨reset.setReg (R.FMAC_CMD_W 0) 0x01000000, 9, 1, by decide +kernel⟩,
    ⟨reset, 9, 1, by decide +kernel⟩,
    ⟨{ reset with fld.results := res0 :: ([]) }, 9, res0, ([]), by decide +kernel⟩,
    ⟨reset, 9, 0, by decide +kernel⟩,
    ⟨reset.setReg R.FMAC_PSF 0, 9, by decide +kernel⟩,
    ⟨(reset).wb F.FMAC_STAT_SCHPEND true, by decide +kernel⟩,
    ⟨(reset).wb (F.FMAC_PTAB_W0_CUR 0) true, 9, 0, 0, by decide +kernel⟩,
    ⟨(reset).wb (F.FMAC_PTAB_W0_CUR 0) false, 9, 0, 0, 0, by decide +kernel⟩,
    ⟨(reset).wb (F.FMAC_PTAB_W0_CUR 0) false, 0, by decide +kernel⟩,
    ⟨(reset).wf F.FMAC_STAT_STATE Fm.DRAIN, by decide +kernel⟩⟩

theorem witness_FieldSuperframe :
    (∃ s : Machine.State, (s.fmState ≠ Fm.OFF)) ∧
    (∃ s : Machine.State, (s.fmState = Fm.RUN) ∧ (s.rb F.FMAC_STAT_PARENT = true) ∧ (s.rb F.FMAC_STAT_LL = true)) ∧
    (∃ s : Machine.State, (s.serving = true) ∧ (s.rf F.FMAC_PASS_PSN ≠ 0) ∧ (s.radioTakes (s.rf F.FMAC_CHAN_REC) = true) ∧
      (s.rfcFormat Radio.s (rfcCmdOf (rxCommand (s.rf (F.RFC_CTRL_CHAINS Radio.s)))) = St.OK)) ∧
    (∃ s : Machine.State, (s.serving = true) ∧ (s.ready (Fn.RADIO 3) = true) ∧ ((s.rfc.get Radio.s).port = none) ∧
      (s.rfcFormat Radio.s (rfcCmdOf idleCommand) = St.OK)) ∧
    (∃ s : Machine.State, ∃ e : Fin 1024, (s.rb F.FMAC_STAT_PARENT = true) ∧
      ((s.fld.own.any fun o => o.entry == ↑e) = true) ∧ (s.fld.heard.contains ↑e = false) ∧ (s.feValid ↑e = true) ∧
      (s.rb F.FMAC_STAT_LL = false) ∧ (s.hasRec ↑e = true → s.recState (feRec ↑e) ≠ Cl.SUSP) ∧
      (s.ready (Fn.RADIO 3) = true) ∧ (s.rf (F.RFC_STAT_ACTREC Radio.s) = s.rf F.FMAC_CHAN_REC)) ∧
    (∃ s : Machine.State, ∃ f : FieldRx, (Fm.RUN ≤ s.fmState) ∧ (f.fcs2 = true ∨ fieldFcsOk f.data = false)) ∧
    (∃ s : Machine.State, ∃ f : FieldRx, ∃ e : Nat, (Fm.RUN ≤ s.fmState) ∧ (f.fcs2 = false) ∧ (fieldFcsOk f.data = true) ∧
      (fcType (fnum f.data 0 2) = 2) ∧ (fcVer (fnum f.data 0 2) = 1) ∧ (s.fld.await = some (e, f.data.getD 2 0))) ∧
    (∃ s : Machine.State, ∃ r : FieldResp, ∃ v : Machine.State, (s.fld.resp = some r) ∧
      let u : Machine.State := s.setFld fun f => { cmds := f.cmds, results := f.results, starting := f.starting, own := f.own, nextOwn := f.nextOwn, kept := f.kept, heard := f.heard, resp := none, await := f.await, staged := f.staged, seq := f.seq, bcnCnt := f.bcnCnt, upCnt := f.upCnt, bins := f.bins, chBins := f.chBins, missb := f.missb, bcnHeard := f.bcnHeard, upFast := f.upFast, upAnchor := f.upAnchor, upPred := f.upPred, upAwait := f.upAwait, upLast := f.upLast, depth := f.depth };
      (r.entry = none) ∧ (s.radioTakes (s.rf (F.RFC_STAT_ACTREC Radio.s)) = true) ∧
      (u.dwell (fieldAirNs r.mode (ackPsdu r.seq false (r.plain && !r.dup) r.tc).length) true = some v)) :=
    ⟨⟨(reset).wf F.FMAC_STAT_STATE Fm.RUN, by decide +kernel⟩,
    ⟨(((reset).wf F.FMAC_STAT_STATE Fm.RUN).wb F.FMAC_STAT_PARENT true).wb F.FMAC_STAT_LL true, by decide +kernel⟩,
    ⟨(((S0.wb F.FMAC_STAT_PARENT true).wf F.FMAC_PASS_PSN 1).wf (F.RFC_STAT_STATE .s) 2).wf (F.RFC_CTRL_CHAINS .s) 1,
      by decide +kernel⟩,
    ⟨S0.wb F.FMAC_STAT_PARENT true, by decide +kernel⟩,
    ⟨{ ((S0.wb F.FMAC_STAT_PARENT true).setFe 0 0 31 31 1) with fld.own := [⟨0, 0, 0, 0, 0, 0⟩] }, 0, by decide +kernel⟩,
    ⟨reset.wf F.FMAC_STAT_STATE Fm.RUN, frx0, by decide +kernel⟩,
    ⟨({ reset with fld.await := some (0, 5) } : State).wf F.FMAC_STAT_STATE Fm.RUN,
      (⟨fieldFcs [0x40, 0x40, 5], false, 0, 0, 0, false⟩), 0, by decide +kernel⟩,
    ⟨((((({ S0 with rfc.s.active := [0x080D2F00], fld.resp := some ⟨none, 0, 0, false, 0, false, false, 0, 128⟩ } : State).wf F.FMAC_STAT_STATE Fm.RUN).wf (F.RFC_STAT_STATE .s) 2).wb (F.FMAC_DW_CTRL_EN 0) true).wf (F.FMAC_DW_FHI_FHI 0) 0xFFFFFF).setReg (R.FMAC_DW_LIMIT 0) 100000,
      (⟨none, 0, 0, false, 0, false, false, 0, 128⟩),
      ((State.setFld (((((({ S0 with rfc.s.active := [0x080D2F00], fld.resp := some ⟨none, 0, 0, false, 0, false, false, 0, 128⟩ } : State).wf F.FMAC_STAT_STATE Fm.RUN).wf (F.RFC_STAT_STATE .s) 2).wb (F.FMAC_DW_CTRL_EN 0) true).wf (F.FMAC_DW_FHI_FHI 0) 0xFFFFFF).setReg (R.FMAC_DW_LIMIT 0) 100000) (fun f => { f with resp := none })).dwell (fieldAirNs 128 (ackPsdu 0 false false 0).length) true).getD reset,
      by decide +kernel⟩⟩

theorem witness_FieldUpstream :
    (∃ s : Machine.State, (s.upWindows = true) ∧ (s.fld.bcnHeard = true)) ∧
    (∃ s : Machine.State, (s.upWindows = true) ∧ (s.fld.bcnHeard = false)) ∧
    (∃ s : Machine.State, ∃ p : Instr × Nat, (p ∈ [(Instr.upHoldEnd, Fm.HOLD), (Instr.longListenRetry, Fm.SEARCH)]) ∧
      (s.rb F.FMAC_STAT_UP = true) ∧ (s.ustate = p.snd)) ∧
    (∃ s : Machine.State, ∃ j : Nat, (s.rb F.FMAC_STAT_UP = true) ∧ (s.ustate = Fm.LISTEN) ∧ (s.ptabBest = some j)) ∧
    (∃ s : Machine.State, (s.rb F.FMAC_STAT_UP = true) ∧ (s.ustate = Fm.LISTEN) ∧ (s.ptabBest = none)) :=
    ⟨⟨(({ reset with fld.bcnHeard := true } : State).wb F.FMAC_STAT_UP true).wf F.FMAC_STAT_USTATE Fm.TRACK, by decide +kernel⟩,
    ⟨(reset.wb F.FMAC_STAT_UP true).wf F.FMAC_STAT_USTATE Fm.TRACK, by decide +kernel⟩,
    ⟨(reset.wb F.FMAC_STAT_UP true).wf F.FMAC_STAT_USTATE Fm.HOLD, ((.upHoldEnd, Fm.HOLD)), by decide +kernel⟩,
    ⟨(((reset.wb F.FMAC_STAT_UP true).wf F.FMAC_STAT_USTATE Fm.LISTEN).wb (F.FMAC_PTAB_W0_VALID 0) true).wf F.FMAC_PATH_MAXDEPTH 5,
      0, by decide +kernel⟩,
    ⟨(reset.wb F.FMAC_STAT_UP true).wf F.FMAC_STAT_USTATE Fm.LISTEN, by decide +kernel⟩⟩

theorem witness_PacketEngine :
    (∃ s : Machine.State, ∃ a : Nat, ∃ rest : List Nat, ∃ k : Nat, (s.pkt.ppeIn = a :: rest) ∧
      (s.rb F.PPE_CTRL_EN = true) ∧ (s.ready Fn.PACKET = true) ∧ (s.ppe.pipePend = []) ∧ (s.ppe.legacy = []) ∧
      (s.rb F.PPE_CTRL_SPMODE = false) ∧
      let d : List Byte := s.storedBytes a;
      let p : Parsed := parse s.parseCfg d;
      (p.odd = false) ∧ (p.trunc = false) ∧ (s.trapOf d p = some k)) ∧
    (∃ s : Machine.State, ∃ a : Nat, ∃ rest : List Nat, (s.pkt.ppeIn = a :: rest) ∧ (s.rb F.PPE_CTRL_EN = true) ∧
      (s.ready Fn.PACKET = true) ∧ (s.ppe.pipePend = []) ∧ (s.ppe.legacy = []) ∧ (s.rb F.PPE_CTRL_SPMODE = false) ∧
      let d : List Byte := s.storedBytes a;
      let p : Parsed := parse s.parseCfg d;
      (p.odd = false) ∧ (p.trunc = false) ∧ (s.trapOf d p = none) ∧
      (s.profileOf (bits (s.hdr a 0) 31 28) p.pclass = none)) ∧
    (∃ s : Machine.State, ∃ a : Nat, ∃ status : Nat, ∃ d : List Byte, ∃ rest : List (Nat × Nat × List Byte), ∃ r : PpeRun,
      (s.cry.espDone = (a, status, d) :: rest) ∧
      (List.find? (fun r => r.addr == a && (r.step == 1 || r.step == 2)) s.ppe.waits = some r) ∧ (s.ppe.legacy = []) ∧
      (status ≠ St.OK)) ∧
    (∃ s : Machine.State, ∃ a : Nat, ∃ status : Nat, ∃ d : List Byte, ∃ rest : List (Nat × Nat × List Byte), ∃ r : PpeRun,
      ∃ f : Frame, (s.cry.espDone = (a, status, d) :: rest) ∧
      (List.find? (fun r => r.addr == a && (r.step == 1 || r.step == 2)) s.ppe.waits = some r) ∧ (s.ppe.legacy = []) ∧
      (status = St.OK) ∧ (s.frame a = some f) ∧ (unitsOf d.length ≤ f.units) ∧ (d.length ≤ maxFrame) ∧ (r.step = 2) ∧
      (bits r.act 31 30 = 1) ∧ (bits r.act 27 26 = 0) ∧ (BitVec.getLsbD r.act 20 = false) ∧ (s.actRec r 4 / 2 ^ 31 ≠ 1)) ∧
    (∃ s : Machine.State, ∃ r : PpeRun, ∃ f : Frame, ∃ u : Machine.State,
      (List.find? (fun r => r.step == 3) s.ppe.waits = some r) ∧ (s.frame r.addr = some f) ∧
      (s.charge f.src (unitsOf r.data.length - f.units) = some u) ∧ (s.ppe.legacy = [])) ∧
    (∃ s : Machine.State, ∃ e : LegRes, ∃ q : Nat, (legHead [] s.ppe.legacy = some e) ∧ (e.queue = some q)) :=
    ⟨⟨(((({ S0 with pkt.ppeIn := [0x10000000], pkt.frames := [⟨0x10000000, [0], 64, 0, 1, 0⟩] } : State).wb F.PPE_CTRL_EN true).wb (F.PPE_TRAP_EN 0) true).setByte 0x1000004C 8).setByte 0x1000004D 6, 0x10000000, ([]), 0, by decide +kernel⟩,
    ⟨({ ({ (({ S0 with pkt.ppeIn := 0 :: ([]) }).wb F.PPE_CTRL_EN true) with ppe.pipePend := [] }) with ppe.legacy := [] }).wb F.PPE_CTRL_SPMODE false,
      0, ([]), by decide +kernel⟩,
    ⟨{ reset with cry.espDone := [(0, St.AUTH, [])], ppe.waits := [{ pperun with step := 1 }] }, 0, St.AUTH, ([]), ([]),
      ({ pperun with step := 1 }), by decide +kernel⟩,
    ⟨{ reset with cry.espDone := [(0, St.OK, [])], ppe.waits := [{ pperun with step := 2, act := 0x40000000 }], pkt.frames := [{ frame0 with addr := 0 }] },
      0, 0, ([]), ([]), ({ pperun with step := 2, act := 0x40000000 }), ({ frame0 with addr := 0 }), by decide +kernel⟩,
    ⟨{ reset with ppe.waits := [{ pperun with step := 3 }], pkt.frames := [{ frame0 with addr := 0 }] },
      ({ pperun with step := 3 }), ({ frame0 with addr := 0 }),
      (State.charge ({ reset with ppe.waits := [{ pperun with step := 3 }], pkt.frames := [{ frame0 with addr := 0 }] }) 0 0).getD reset,
      by decide +kernel⟩,
    ⟨{ reset with ppe.legacy := [⟨0, 0, true, some 5⟩] }, (⟨0, 0, true, some 5⟩), 5, by decide +kernel⟩⟩

theorem witness_PacketTables :
    (∃ s : Machine.State, ∃ i : Init, ∃ w : Fin 32, (s.MayWrite i (R.PPE_PIPE_TAB ↑w))) ∧
    (∃ s : Machine.State, ∃ w : Nat, ∃ v : Word, ∃ rest : List (Nat × Word), (s.ppe.pipePend = (w, v) :: rest)) ∧
    (∃ s : Machine.State, ∃ i : Init, ∃ v : Word, (s.MayWrite i R.PPE_FENCE) ∧ (BitVec.getLsbD v 0 = true)) ∧
    (∃ s : Machine.State, ∃ l : List Nat, (s.ppe.fence = some l) ∧
      ((s.ppe.waits.any fun r => l.contains r.addr) = false)) ∧
    (∃ s : Machine.State, ∃ i : Init, ∃ dram : Bool, ∃ slot : BitVec 24, ∃ p : Instr × Nat, (s.MayWrite i R.PPE_UPD_CMD) ∧
      (p ∈ [(Instr.updWrite i dram slot, 1), (Instr.updClear i dram slot, 2), (Instr.updHash i dram slot, 3)]) ∧
      (s.rb F.PPE_STAT_UPDBUSY = false)) ∧
    (∃ s : Machine.State, ∃ i : Init, ∃ dram : Bool, ∃ slot : BitVec 24, ∃ p : Instr × Nat, (s.MayWrite i R.PPE_UPD_CMD) ∧
      (p ∈ [(Instr.updWrite i dram slot, 1), (Instr.updClear i dram slot, 2), (Instr.updHash i dram slot, 3)]) ∧
      (s.rb F.PPE_STAT_UPDBUSY = true)) ∧
    (∃ s : Machine.State, ∃ k : Nat, (s.slotOk false k (BitVec.getLsbD (s.updW 0) 30) = true) ∧
      (bits (s.updW 0) 23 16 = s.profLen (bits (s.updW 0) 27 24)) ∧ (s.ppe.upd = some (1, false, k))) ∧
    (∃ s : Machine.State, ∃ k : Nat, (s.slotOk false k false = true) ∧ (s.ppe.upd = some (2, false, k))) ∧
    (∃ s : Machine.State, ∃ dram : Bool, ∃ k : Nat, (bits (s.updW 0) 23 16 = s.profLen (bits (s.updW 0) 27 24)) ∧
      (s.ppe.upd = some (3, dram, k))) ∧
    (∃ s : Machine.State, ∃ i : Init, ∃ n : Fin 2048, ∃ bytes : Bool,
      let k : Nat := if bytes = true then 2 else 0;
      (s.MayRead i (R.PPE_CTR (↑n) k))) ∧
    (∃ s : Machine.State, ∃ grew : Nat, (s.rf F.PPE_ALM_MISS < grew)) ∧
    (∃ s : Machine.State, ∃ grew : Nat, (s.rf F.PPE_ALM_ODD < grew)) ∧
    (∃ s : Machine.State, ∃ grew : Nat, (grew ≤ s.rf F.PPE_ALM_MISS)) ∧
    (∃ s : Machine.State, ∃ grew : Nat, (grew ≤ s.rf F.PPE_ALM_ODD)) :=
    ⟨⟨reset, 9, 0, by decide +kernel⟩,
    ⟨{ reset with ppe.pipePend := (0, 0) :: ([]) }, 0, 0, ([]), by decide +kernel⟩,
    ⟨reset, 9, 1, by decide +kernel⟩,
    ⟨{ reset with ppe.fence := some ([]) }, ([]), by decide +kernel⟩,
    ⟨(reset).wb F.PPE_STAT_UPDBUSY false, 9, false, 0, ((.updWrite 9 false 0, 1)), by decide +kernel⟩,
    ⟨reset.wb F.PPE_STAT_UPDBUSY true, 9, false, 0, ((.updWrite 9 false 0, 1)), by decide +kernel⟩,
    ⟨{ reset with ppe.upd := some (1, false, 0) }, 0, by decide +kernel⟩,
    ⟨{ reset with ppe.upd := some (2, false, 0) }, 0, by decide +kernel⟩,
    ⟨{ reset with ppe.upd := some (3, false, 0) }, false, 0, by decide +kernel⟩,
    ⟨reset, 9, 0, false, by decide +kernel⟩,
    ⟨reset, 0x10000000000, by decide +kernel⟩,
    ⟨reset, 0x10000000000, by decide +kernel⟩,
    ⟨reset, 0, by decide +kernel⟩,
    ⟨reset, 0, by decide +kernel⟩⟩

theorem witness_EthernetPorts :
    (∃ s : Machine.State, ∃ p : Fin 6, ∃ data : List Byte, (s.rb (F.ETH_CTRL_EN ↑p) = true) ∧ (data.length < 64)) ∧
    (∃ s : Machine.State, ∃ p : Fin 6, ∃ data : List Byte, (s.rb (F.ETH_CTRL_EN ↑p) = true) ∧ (64 ≤ data.length) ∧
      (data.length ≤ s.rf (F.ETH_MAXLEN_LEN ↑p)) ∧ (fcsOk data = false)) ∧
    (∃ s : Machine.State, ∃ p : Fin 6, ∃ data : List Byte, ∃ u : Machine.State, (s.rb (F.ETH_CTRL_EN ↑p) = true) ∧
      (64 ≤ data.length) ∧ (data.length ≤ s.rf (F.ETH_MAXLEN_LEN ↑p)) ∧ (fcsOk data = true) ∧
      (s.pkt.rsvd.getN (rxKey (RxSource.eth p)) ≠ 0) ∧ (s.rb (F.ETH_CTRL_MSEC ↑p) = false) ∧
      ((s.unreserve (RxSource.eth p)).charge (↑p) (unitsOf data.length) = some u)) ∧
    (∃ s : Machine.State, ∃ p : Fin 6, ∃ a : Nat, ∃ l : List Nat, ∃ f : Frame, (s.selOf ↑p = a :: l) ∧
      (s.frame a = some f) ∧ (s.rb (F.ETH_CTRL_EN ↑p) = true) ∧ (s.pkt.paused.getN ↑p = 0) ∧
      (s.rb (F.ETH_CTRL_MSEC ↑p) = false) ∧ (s.rb (F.ETH_CTRL_OSTEP ↑p) = false) ∧
      (s.spansBad (cellSpans pktBase (64 + f.len) f.cells) = false)) ∧
    (∃ s : Machine.State, ∃ p : Fin 6, (s.rb (F.ETH_CTRL_PAUSE ↑p) = true)) ∧
    (∃ s : Machine.State, ∃ p : Fin 6, (s.pkt.pauseSend.getN ↑p = 1) ∧ (s.rb (F.ETH_CTRL_PAUSE ↑p) = true)) ∧
    (∃ s : Machine.State, ∃ i : Init, (s.MayRead i R.ETH_PTP_NS_LO)) ∧
    (∃ s : Machine.State, ∃ i : Init, (s.MayWrite i R.ETH_PTP_STEP_HI)) ∧
    (∃ s : Machine.State, ∃ p : Fin 6, ∃ i : Init, ∃ x : TxStamp, ∃ xs : List TxStamp, (s.MayRead i (R.ETH_TXTS ↑p)) ∧
      (s.txStamps ↑p = x :: xs)) ∧
    (∃ s : Machine.State, ∃ i : Init, ∃ v : Word, (s.MayWrite i R.ETH_MDIO_CMD) ∧ (s.rb F.ETH_MDIO_CMD_GO = false) ∧
      (BitVec.getLsbD v 31 = true)) ∧
    (∃ s : Machine.State, ∃ i : Init, (s.MayWrite i R.ETH_MDIO_CMD) ∧ (s.rb F.ETH_MDIO_CMD_GO = true)) ∧
    (∃ s : Machine.State, (s.rb F.ETH_MDIO_CMD_GO = true)) :=
    ⟨⟨(reset).wb (F.ETH_CTRL_EN 0) true, 0, ([]), by decide +kernel⟩,
    ⟨(reset).wb (F.ETH_CTRL_EN 0) true, 0, (List.replicate 64 0), by decide +kernel⟩,
    ⟨({ reset with pkt.rsvd := [(0, 2)] } : State).wb (F.ETH_CTRL_EN 0) true, 0,
      (List.replicate 60 0 ++ natBytes 4 (crc32 (List.replicate 60 0))),
      ((State.unreserve (({ reset with pkt.rsvd := [(0, 2)] } : State).wb (F.ETH_CTRL_EN 0) true) (.eth 0)).charge 0 1).getD reset,
      by decide +kernel⟩,
    ⟨({ reset with pkt.sel := [(0, [0])], pkt.frames := [{ frame0 with addr := 0 }] } : State).wb (F.ETH_CTRL_EN 0) true,
      0, 0, ([]), ({ frame0 with addr := 0 }), by decide +kernel⟩,
    ⟨(reset).wb (F.ETH_CTRL_PAUSE 0) true, 0, by decide +kernel⟩,
    ⟨({ reset with pkt.pauseSend := [(0, 1)] } : State).wb (F.ETH_CTRL_PAUSE 0) true, 0, by decide +kernel⟩,
    ⟨reset, 9, by decide +kernel⟩,
    ⟨reset, 9, by decide +kernel⟩,
    ⟨{ reset with eth.stamps := [(0, [⟨0, 0, 0⟩])] }, 0, 9, (⟨0, 0, 0⟩), ([]), by decide +kernel⟩,
    ⟨(reset).wb F.ETH_MDIO_CMD_GO false, 9, 0x80000000, by decide +kernel⟩,
    ⟨(reset).wb F.ETH_MDIO_CMD_GO true, 9, by decide +kernel⟩,
    ⟨(reset).wb F.ETH_MDIO_CMD_GO true, by decide +kernel⟩⟩

theorem witness_QueueCommands :
    (∃ s : Machine.State, ∃ c : QCmd, ∃ cs : List QCmd, (s.pkt.qcmds = c :: cs) ∧ (s.ready Fn.PACKET = true) ∧
      (c.q < 8192) ∧ (c.opc = 1) ∧ (s.qd c.q 0 31 30 = Qs.FREE)) ∧
    (∃ s : Machine.State, ∃ c : QCmd, ∃ cs : List QCmd, (s.pkt.qcmds = c :: cs) ∧ (s.ready Fn.PACKET = true) ∧
      (c.q < 8192) ∧ (c.opc = 2) ∧ (s.qd c.q 0 31 30 = Qs.STOPPED) ∧ (s.qd c.q 2 31 16 = 0)) ∧
    (∃ s : Machine.State, ∃ c : QCmd, ∃ cs : List QCmd, (s.pkt.qcmds = c :: cs) ∧ (s.ready Fn.PACKET = true) ∧
      (c.q < 8192) ∧ (c.opc = 3) ∧ (s.qd c.q 0 31 30 ≠ Qs.FREE) ∧ (bits c.w1 29 23 = s.qd c.q 0 29 23) ∧
      (bits c.w3 27 16 = s.qd c.q 5 27 16)) ∧
    (∃ s : Machine.State, ∃ c : QCmd, ∃ cs : List QCmd, (s.pkt.qcmds = c :: cs) ∧ (s.ready Fn.PACKET = true) ∧
      (c.q < 8192) ∧ (c.opc = 4) ∧ (s.qd c.q 0 31 30 = Qs.STOPPED) ∧ (s.qd c.q 2 31 16 = 0)) ∧
    (∃ s : Machine.State, ∃ c : QCmd, ∃ cs : List QCmd, (s.pkt.qcmds = c :: cs) ∧ (s.ready Fn.PACKET = true) ∧
      (c.q < 8192) ∧ (c.opc = 5) ∧ (s.qd c.q 0 31 30 ≠ Qs.FREE)) ∧
    (∃ s : Machine.State, ∃ c : QCmd, ∃ cs : List QCmd, (s.pkt.qcmds = c :: cs) ∧ (s.ready Fn.PACKET = true) ∧
      (c.q < 8192) ∧ (c.opc = 6) ∧ (s.qd c.q 0 31 30 ≠ Qs.FREE)) ∧
    (∃ s : Machine.State, ∃ c : QCmd, ∃ cs : List QCmd, (s.pkt.qcmds = c :: cs) ∧ (s.ready Fn.PACKET = true) ∧
      (c.q < 8192) ∧ (c.opc = 7) ∧ (s.qd c.q 0 31 30 = Qs.STOPPED)) :=
    ⟨⟨{ S0 with pkt.qcmds := (⟨1,0,0,0,0,0⟩) :: ([]) }, (⟨1,0,0,0,0,0⟩), ([]), by decide +kernel⟩,
    ⟨({ S0 with pkt.qcmds := [⟨2, 0, 0, 0, 0, 0⟩] } : State).wmf (qAddr 0) 31 30 Qs.STOPPED, (⟨2, 0, 0, 0, 0, 0⟩), ([]),
      by decide +kernel⟩,
    ⟨({ S0 with pkt.qcmds := [⟨3, 0, 0, 0, 0, 0⟩] } : State).wmf (qAddr 0) 31 30 Qs.STOPPED, (⟨3, 0, 0, 0, 0, 0⟩), ([]),
      by decide +kernel⟩,
    ⟨({ S0 with pkt.qcmds := [⟨4, 0, 0, 0, 0, 0⟩] } : State).wmf (qAddr 0) 31 30 Qs.STOPPED, (⟨4, 0, 0, 0, 0, 0⟩), ([]),
      by decide +kernel⟩,
    ⟨({ S0 with pkt.qcmds := [⟨5, 0, 0, 0, 0, 0⟩] } : State).wmf (qAddr 0) 31 30 Qs.STOPPED, (⟨5, 0, 0, 0, 0, 0⟩), ([]),
      by decide +kernel⟩,
    ⟨({ S0 with pkt.qcmds := [⟨6, 0, 0, 0, 0, 0⟩] } : State).wmf (qAddr 0) 31 30 Qs.STOPPED, (⟨6, 0, 0, 0, 0, 0⟩), ([]),
      by decide +kernel⟩,
    ⟨({ S0 with pkt.qcmds := [⟨7, 0, 0, 0, 0, 0⟩] } : State).wmf (qAddr 0) 31 30 Qs.STOPPED, (⟨7, 0, 0, 0, 0, 0⟩), ([]),
      by decide +kernel⟩⟩

theorem witness_QueuePorts :
    (∃ s : Machine.State, ∃ i : Init, ∃ v : Word, (s.MayWrite i R.QMG_CMD_PUSH) ∧ (BitVec.getLsbD v 0 = true) ∧
      (s.qPushCheck = none)) ∧
    (∃ s : Machine.State, ∃ i : Init, ∃ v : Word, ∃ st : Nat, (s.MayWrite i R.QMG_CMD_PUSH) ∧
      (BitVec.getLsbD v 0 = true) ∧ (s.qPushCheck = some st)) ∧
    (∃ s : Machine.State, ∃ i : Init, ∃ x : Res, ∃ xs : List Res, (s.MayRead i R.QMG_RES) ∧ (s.pkt.qres = x :: xs)) ∧
    (∃ s : Machine.State, ∃ i : Init, ∃ v : Word, (s.MayWrite i R.QMG_POOLAPPLY) ∧ (BitVec.getLsbD v 0 = true) ∧
      (s.rsvSum 16 ≤ 31744) ∧ (s.beyondSum 16 ≤ 32768 - s.rsvSum 16)) ∧
    (∃ s : Machine.State, ∃ i : Init, ∃ v : Word, (s.MayWrite i R.QMG_POOLAPPLY) ∧ (BitVec.getLsbD v 0 = true) ∧
      (31744 < s.rsvSum 16)) ∧
    (∃ s : Machine.State, ∃ i : Init, ∃ r : Radio, ∃ v : Word, (s.MayWrite i (R.QMG_RPOOL r.idx)) ∧
      (bits v 31 16 + bits v 15 0 = rbCells r.idx) ∧ (s.macIdle r = true)) ∧
    (∃ s : Machine.State, ∃ i : Init, ∃ r : Radio, ∃ v : Word, (s.MayWrite i (R.QMG_RPOOL r.idx)) ∧
      (bits v 31 16 + bits v 15 0 = rbCells r.idx) ∧ (s.macIdle r = false)) ∧
    (∃ s : Machine.State, ∃ i : Init, ∃ r : Radio, ∃ v : Word, (s.MayWrite i (R.QMG_RPOOL r.idx)) ∧
      (bits v 31 16 + bits v 15 0 ≠ rbCells r.idx)) ∧
    (∃ s : Machine.State, ∃ i : Init, ∃ v : Word, ∃ p : Nat, (s.MayWrite i R.QMG_FREE) ∧
      (List.find? (fun p => (s.selOf p).contains (BitVec.toNat v)) [7, 12, 13, 14] = some p)) ∧
    (∃ s : Machine.State, ∃ i : Init, ∃ v : Word, (s.MayWrite i R.QMG_FREE) ∧
      (List.find? (fun p => (s.selOf p).contains (BitVec.toNat v)) [7, 12, 13, 14] = none)) ∧
    (∃ s : Machine.State, ∃ a : Nat, ∃ q : Nat, ∃ rest : List (Nat × Nat), ∃ f : Frame, (s.pkt.qmgIn = (a, q) :: rest) ∧
      (s.rb F.QMG_CTRL_EN = true) ∧ (s.frame a = some f) ∧ (q < 8192) ∧ (s.qd q 0 31 30 = Qs.FREE)) ∧
    (∃ s : Machine.State, ∃ a : Nat, ∃ q : Nat, ∃ rest : List (Nat × Nat), ∃ f : Frame, (s.pkt.qmgIn = (a, q) :: rest) ∧
      (s.rb F.QMG_CTRL_EN = true) ∧ (s.frame a = some f) ∧ (q < 8192) ∧
      let m : Machine.State × Colour := (s.setPkt fun p => { frames := p.frames, ppeIn := p.ppeIn, qmgIn := rest, queues := p.queues, sel := p.sel, drr := p.drr, cdef := p.cdef, refillAt := p.refillAt, refillRem := p.refillRem, qcmds := p.qcmds, qres := p.qres, nextPort := p.nextPort, smpDrop := p.smpDrop, smpMax := p.smpMax, waitAt := p.waitAt, stalled := p.stalled, rsvd := p.rsvd, pauseSend := p.pauseSend, paused := p.paused, rbufs := p.rbufs, xfers := p.xfers }).mark (s.qd q 5 10 0) f.len;
      (s.qd q 0 31 30 ≠ Qs.FREE) ∧ (m.snd ≠ Colour.red) ∧
      (s.qd q 2 31 16 + f.units ≤ if m.snd = Colour.green then s.qd q 1 31 16 else s.qd q 1 15 0)) ∧
    (∃ s : Machine.State, ∃ grew : Nat, (s.rf F.QMG_DROPALM_N < grew)) :=
    ⟨⟨S0.setReg (R.QMG_CMD_W 0) 0x02000000, 9, 1, by decide +kernel⟩,
    ⟨reset, 9, 1, St.TYPE, by decide +kernel⟩,
    ⟨{ reset with pkt.qres := res0 :: ([]) }, 9, res0, ([]), by decide +kernel⟩,
    ⟨reset, 9, 1, by decide +kernel⟩,
    ⟨reset.wf (F.QMG_POOL_RSV 0) 32000, 9, 1, by decide +kernel⟩,
    ⟨reset, 9, .l, 0x10000000, by decide +kernel⟩,
    ⟨reset.wf (F.MAC_STAT_STATE .l) Ms.RUN, 9, .l, 0x10000000, by decide +kernel⟩,
    ⟨reset, 9, .l, 0, by decide +kernel⟩,
    ⟨{ reset with pkt.sel := [(7, [5])] }, 9, 5, 7, by decide +kernel⟩,
    ⟨reset, 9, 0, by decide +kernel⟩,
    ⟨({ reset with pkt.qmgIn := [(0, 0)], pkt.frames := [{ frame0 with addr := 0 }] } : State).wb F.QMG_CTRL_EN true, 0,
      0, ([]), ({ frame0 with addr := 0 }), by decide +kernel⟩,
    ⟨(({ reset with pkt.qmgIn := [(0, 0)], pkt.frames := [{ frame0 with addr := 0, units := 0 }] } : State).wb F.QMG_CTRL_EN true).wmf (qAddr 0) 31 30 Qs.STOPPED,
      0, 0, ([]), ({ frame0 with addr := 0, units := 0 }), by decide +kernel⟩,
    ⟨reset, 0x10000000000, by decide +kernel⟩⟩

theorem witness_TrafficManager :
    (∃ s : Machine.State, ∃ v : Machine.State, ∃ q : Nat, ∃ f : Frame, (s.rb F.TMG_CTRL_EN = true) ∧
      let u : Machine.State := s.setPkt fun k => { frames := k.frames, ppeIn := k.ppeIn, qmgIn := k.qmgIn, queues := k.queues, sel := k.sel, drr := k.drr, cdef := k.cdef, refillAt := k.refillAt, refillRem := k.refillRem, qcmds := k.qcmds, qres := k.qres, nextPort := (k.nextPort + 1) % 16, smpDrop := k.smpDrop, smpMax := k.smpMax, waitAt := k.waitAt, stalled := k.stalled, rsvd := k.rsvd, pauseSend := k.pauseSend, paused := k.paused, rbufs := k.rbufs, xfers := k.xfers };
      (u.select s.pkt.nextPort = some (v, q)) ∧ (v.headFrame q = some f) ∧ (v.qd q 0 29 26 = s.pkt.nextPort) ∧
      (s.pkt.nextPort ≤ 5)) ∧
    (∃ s : Machine.State, (s.rb F.TMG_CTRL_EN = false)) ∧
    (∃ s : Machine.State, ∃ v : Machine.State, ∃ q : Nat, ∃ f : Frame, ∃ k : Nat, (s.rb F.TMG_CTRL_EN = true) ∧
      (s.select 6 = some (v, q)) ∧ (q < 8192) ∧ (v.headFrame q = some f) ∧ (v.qd q 0 29 26 = 6) ∧
      (v.chooseLink (v.qd q 5 27 16) f.tid (v.txUnits (v.qd q 5 27 16) f) = some k) ∧
      (v.cr (v.qd q 5 27 16) 6 30 30 = 0)) ∧
    (∃ s : Machine.State, ∃ k : Fin 8, (s.rb F.TMG_SMP_CTRL_EN = true) ∧ (s.rb (F.TMG_RING_CFG_EN ↑k) = true) ∧
      (∀ (j : Nat), j < 8 → j ≠ ↑k → s.rb (F.TMG_RING_CFG_EN j) = false) ∧ ((s.tring ↑k).snd.snd = true) ∧
      (s.smpQueues ↑k = [])) ∧
    (∃ s : Machine.State, ∃ i : Init, ∃ delivery : Bool, ∃ n : Fin 16, ∃ k : Fin 3, ∃ v : Word,
      (if delivery = true then ↑n = 7 ∨ ↑n = 12 ∨ ↑n = 13 ∨ ↑n = 14 else ↑n < 8) ∧
      let b : Nat := if delivery = true then R.TMG_DRING_BASE ↑n else R.TMG_RING_BASE ↑n;
      (s.MayWrite i (b + 4 * ↑k)) ∧ (BitVec.getLsbD (s.reg (b + 8)) 31 = false) ∧
      (k = 2 → 6 ≤ bits v 4 0 ∧ bits v 4 0 ≤ 20) ∧
      (s.ringPlaced (s.ringAfter b (b + 4) (b + 8) (↑k) v).fst (16 * (s.ringAfter b (b + 4) (b + 8) (↑k) v).snd) = true)) ∧
    (∃ s : Machine.State, ∃ p : Fin 16, (s.portWaits ↑p = true) ∧ (s.pkt.stalled.getN ↑p = 0)) :=
    ⟨⟨tmg1, ((State.select (State.setPkt (tmg1) (fun k => { k with nextPort := (k.nextPort + 1) % 16 })) 0).getD (reset, 0)).1, 0, ({ frame0 with addr := 0 }), by decide +kernel⟩,
    ⟨(reset).wb F.TMG_CTRL_EN false, by decide +kernel⟩,
    ⟨tmg3, (((State.select (tmg3) 6).getD (reset, 0))).1, 0, (⟨0, [0], 64, 0, 1, 0⟩), 0, by decide +kernel⟩,
    ⟨((reset).wb F.TMG_SMP_CTRL_EN true).wb (F.TMG_RING_CFG_EN 0) true, 0, by decide +kernel⟩,
    ⟨reset, 9, false, 0, 0, 0x11300000, by decide +kernel⟩,
    ⟨{ reset with pkt.queues := [(0, [0])] }, 0, by decide +kernel⟩⟩

theorem witness_DmaCommands :
    (∃ s : Machine.State, ∃ i : Init, ∃ n : Fin 128, ∃ c : Instr, (s.MayWrite i (R.CH_CMD ↑n)) ∧
      let k : Nat := ↑n;
      (k < 12) ∧
      (c ∈ [Instr.dmaEnable i n, Instr.dmaStart i n, Instr.dmaPause i n, Instr.dmaResume i n, Instr.dmaStop i n, Instr.dmaAbort i n, Instr.dmaClear i n])) ∧
    (∃ s : Machine.State, ∃ i : Init, ∃ n : Fin 128, ∃ p : Instr × List Nat, (s.MayWrite i (R.CH_CMD ↑n)) ∧
      let k : Nat := ↑n;
      let st : Nat := s.chState k;
      (12 ≤ k) ∧
      (p ∈ [(Instr.dmaEnable i n, [Cs.HALT]), (Instr.dmaStart i n, [Cs.OFF, Cs.IDLE, Cs.RUN, Cs.PAUSED, Cs.HALT]), (Instr.dmaPause i n, [Cs.OFF, Cs.HALT]), (Instr.dmaResume i n, [Cs.OFF, Cs.IDLE, Cs.ARMED, Cs.RUN, Cs.HALT]), (Instr.dmaAbort i n, [Cs.OFF, Cs.IDLE, Cs.PAUSED]), (Instr.dmaClear i n, [Cs.OFF, Cs.IDLE, Cs.ARMED, Cs.RUN, Cs.PAUSED])]) ∧
      (st ∈ p.snd)) ∧
    (∃ s : Machine.State, ∃ i : Init, ∃ n : Fin 128, ∃ p : Instr × List Nat, (s.MayWrite i (R.CH_CMD ↑n)) ∧
      let k : Nat := ↑n;
      let st : Nat := s.chState k;
      (12 ≤ k) ∧
      (p ∈ [(Instr.dmaEnable i n, [Cs.IDLE, Cs.ARMED, Cs.RUN, Cs.PAUSED]), (Instr.dmaPause i n, [Cs.PAUSED]), (Instr.dmaStop i n, [Cs.OFF]), (Instr.dmaAbort i n, [Cs.HALT])]) ∧
      (st ∈ p.snd)) ∧
    (∃ s : Machine.State, ∃ i : Init, ∃ n : Fin 128, ∃ p : Instr × Nat, (s.MayWrite i (R.CH_CMD ↑n)) ∧
      let k : Nat := ↑n;
      let st : Nat := s.chState k;
      (12 ≤ k) ∧ (p ∈ [(Instr.dmaEnable i n, Cs.OFF), (Instr.dmaClear i n, Cs.HALT)]) ∧ (st = p.snd)) ∧
    (∃ s : Machine.State, ∃ i : Init, ∃ n : Fin 128, (s.MayWrite i (R.CH_CMD ↑n)) ∧
      let k : Nat := ↑n;
      let st : Nat := s.chState k;
      (12 ≤ k) ∧ (st = Cs.ARMED) ∧ ((s.rb (F.CH_SADDLE_ARM k) && s.rb (F.CH_SADDLE_WHEN k)) = false)) ∧
    (∃ s : Machine.State, ∃ i : Init, ∃ n : Fin 128, (s.MayWrite i (R.CH_CMD ↑n)) ∧
      let k : Nat := ↑n;
      let st : Nat := s.chState k;
      (12 ≤ k) ∧ (st = Cs.IDLE ∨ st = Cs.ARMED)) ∧
    (∃ s : Machine.State, ∃ i : Init, ∃ n : Fin 128, (s.MayWrite i (R.CH_CMD ↑n)) ∧
      let k : Nat := ↑n;
      let st : Nat := s.chState k;
      (12 ≤ k) ∧ (st = Cs.PAUSED)) ∧
    (∃ s : Machine.State, ∃ i : Init, ∃ n : Fin 128, (s.MayWrite i (R.CH_CMD ↑n)) ∧
      let k : Nat := ↑n;
      let st : Nat := s.chState k;
      (12 ≤ k) ∧ (st = Cs.IDLE ∨ st = Cs.ARMED ∨ st = Cs.PAUSED ∨ st = Cs.HALT)) ∧
    (∃ s : Machine.State, ∃ i : Init, ∃ n : Fin 128, (s.MayWrite i (R.CH_CMD ↑n)) ∧
      let k : Nat := ↑n;
      let st : Nat := s.chState k;
      (12 ≤ k) ∧ (st = Cs.RUN) ∧ ((s.ch k).ended = none)) ∧
    (∃ s : Machine.State, ∃ i : Init, ∃ n : Fin 128, (s.MayWrite i (R.CH_CMD ↑n)) ∧
      let k : Nat := ↑n;
      let st : Nat := s.chState k;
      (12 ≤ k) ∧ (st = Cs.ARMED) ∧ ((s.ch k).moved = 0) ∧ ((s.ch k).begun = false) ∧
      (s.writable Ini.DMA (s.chAt k) 32 = true)) :=
    ⟨⟨reset, 9, 0, ((.dmaStart 9 0)), by decide +kernel⟩,
    ⟨ring Cs.HALT, 9, 12, ((.dmaEnable 9 12, [Cs.HALT])), by decide +kernel⟩,
    ⟨ring Cs.PAUSED, 9, 12, ((.dmaPause 9 12, [Cs.PAUSED])), by decide +kernel⟩,
    ⟨reset, 9, 12, ((.dmaEnable 9 12, Cs.OFF)), by decide +kernel⟩,
    ⟨ring Cs.ARMED, 9, 12, by decide +kernel⟩,
    ⟨ring Cs.ARMED, 9, 12, by decide +kernel⟩,
    ⟨ring Cs.PAUSED, 9, 12, by decide +kernel⟩,
    ⟨ring Cs.HALT, 9, 12, by decide +kernel⟩,
    ⟨ring Cs.RUN, 9, 12, by decide +kernel⟩,
    ⟨ring Cs.ARMED, 9, 12, by decide +kernel⟩⟩

theorem witness_DmaTransfers :
    (∃ s : Machine.State, ∃ n : Fin 128, ∃ i : Init, ∃ v : Word, (12 ≤ ↑n) ∧
      let k : Nat := ↑n;
      (s.MayWrite i (R.CH_DOORBELL k)) ∧ (BitVec.getLsbD v 0 = true) ∧ (s.chState k = Cs.IDLE)) ∧
    (∃ s : Machine.State, ∃ n : Fin 128, ∃ i : Init, ∃ v : Word, (12 ≤ ↑n) ∧
      let k : Nat := ↑n;
      (s.MayWrite i (R.CH_DOORBELL k)) ∧ (BitVec.getLsbD v 0 = true) ∧ (s.chState k ≠ Cs.IDLE)) ∧
    (∃ s : Machine.State, ∃ n : Fin 128, (12 ≤ ↑n) ∧
      let k : Nat := ↑n;
      let c : DmaChan := s.ch k;
      let a : Nat := s.chAt k;
      (s.chState k = Cs.IDLE) ∧ (c.parked = false) ∧ (s.readable a 32 = true) ∧ (s.eccBad a 32 = false) ∧
      (BitVec.getLsbD (s.read32 a) 31 = true) ∧ (s.dmaCheck k (s.words a 8) = St.OK)) ∧
    (∃ s : Machine.State, ∃ n : Fin 128, (12 ≤ ↑n) ∧
      let k : Nat := ↑n;
      let c : DmaChan := s.ch k;
      let a : Nat := s.chAt k;
      (s.chState k = Cs.IDLE) ∧ (c.parked = false) ∧ (s.readable a 32 = true) ∧ (s.eccBad a 32 = false) ∧
      (BitVec.getLsbD (s.read32 a) 31 = true) ∧ (s.dmaCheck k (s.words a 8) ≠ St.OK)) ∧
    (∃ s : Machine.State, ∃ n : Fin 128, (12 ≤ ↑n) ∧
      let k : Nat := ↑n;
      let c : DmaChan := s.ch k;
      let a : Nat := s.chAt k;
      (s.chState k = Cs.IDLE) ∧ (c.parked = false) ∧ (s.readable a 32 = true) ∧ (s.eccBad a 32 = false) ∧
      (BitVec.getLsbD (s.read32 a) 31 = false)) ∧
    (∃ s : Machine.State, ∃ n : Fin 128, ∃ hw : Bool, (12 ≤ ↑n) ∧
      let k : Nat := ↑n;
      let c : DmaChan := s.ch k;
      let a : Nat := s.chAt k;
      (s.chState k = Cs.IDLE) ∧ (c.parked = false) ∧ (hw = true ∨ s.readable a 32 = false)) ∧
    (∃ s : Machine.State, ∃ n : Fin 128, (12 ≤ ↑n) ∧
      let k : Nat := ↑n;
      let c : DmaChan := s.ch k;
      let a : Nat := s.chAt k;
      (s.chState k = Cs.IDLE) ∧ (c.parked = false) ∧ (s.readable a 32 = true) ∧ (s.eccBad a 32 = true)) ∧
    (∃ s : Machine.State, ∃ n : Fin 128, ∃ request : Bool, (12 ≤ ↑n) ∧
      let k : Nat := ↑n;
      let c : DmaChan := s.ch k;
      (c.ended = none) ∧ (c.begun = true) ∧ (BitVec.getLsbD (c.word 0) 21 = false) ∧
      let paced : Bool := BitVec.getLsbD (c.word 0) 28 && s.rf (F.CH_CFG_REQ k) != 0;
      (s.rb F.DMA_CTRL_EN = false ∨ s.chState k ≠ Cs.RUN ∨ paced = true ∧ request = false)) ∧
    (∃ s : Machine.State, ∃ n : Fin 128, ∃ request : Bool, (12 ≤ ↑n) ∧
      let k : Nat := ↑n;
      let c : DmaChan := s.ch k;
      (c.ended = none) ∧ (c.begun = true) ∧ (BitVec.getLsbD (c.word 0) 21 = false) ∧
      let paced : Bool := BitVec.getLsbD (c.word 0) 28 && s.rf (F.CH_CFG_REQ k) != 0;
      let d : List Word := c.desc.getD [];
      let m : Nat := min (2 ^ s.rf (F.CH_CFG_BURST k)) (lenOf d - c.moved);
      let dst : Nat := dstOf d + c.moved;
      (s.rb F.DMA_CTRL_EN = true) ∧ (s.chState k = Cs.RUN) ∧ (paced = false ∨ request = true) ∧
      (BitVec.getLsbD (c.word 0) 24 = false) ∧ (regionOf dst m ≠ some 2) ∧ (s.writable Ini.DMA dst m = true) ∧
      (kindOf (c.word 0) = 1)) ∧
    (∃ s : Machine.State, ∃ n : Fin 128, ∃ request : Bool, (12 ≤ ↑n) ∧
      let k : Nat := ↑n;
      let c : DmaChan := s.ch k;
      (c.ended = none) ∧ (c.begun = true) ∧ (BitVec.getLsbD (c.word 0) 21 = false) ∧
      let paced : Bool := BitVec.getLsbD (c.word 0) 28 && s.rf (F.CH_CFG_REQ k) != 0;
      let d : List Word := c.desc.getD [];
      let m : Nat := min (2 ^ s.rf (F.CH_CFG_BURST k)) (lenOf d - c.moved);
      let src : Nat := srcOf d + c.moved;
      let dst : Nat := dstOf d + c.moved;
      (s.rb F.DMA_CTRL_EN = true) ∧ (s.chState k = Cs.RUN) ∧ (paced = false ∨ request = true) ∧
      (BitVec.getLsbD (c.word 0) 24 = false) ∧ (regionOf dst m ≠ some 2) ∧ (s.writable Ini.DMA dst m = true) ∧
      (kindOf (c.word 0) = 0) ∧ (BitVec.getLsbD (c.word 0) 25 = false) ∧ (regionOf src m ≠ some 2) ∧
      (s.readable src m = true) ∧ (s.eccBad src m = false)) ∧
    (∃ s : Machine.State, ∃ n : Fin 128, ∃ request : Bool, (12 ≤ ↑n) ∧
      let k : Nat := ↑n;
      let c : DmaChan := s.ch k;
      (c.ended = none) ∧ (c.begun = true) ∧ (BitVec.getLsbD (c.word 0) 21 = false) ∧
      let paced : Bool := BitVec.getLsbD (c.word 0) 28 && s.rf (F.CH_CFG_REQ k) != 0;
      let d : List Word := c.desc.getD [];
      let m : Nat := min (2 ^ s.rf (F.CH_CFG_BURST k)) (lenOf d - c.moved);
      let src : Nat := srcOf d + c.moved;
      let dst : Nat := dstOf d + c.moved;
      (s.rb F.DMA_CTRL_EN = true) ∧ (s.chState k = Cs.RUN) ∧ (paced = false ∨ request = true) ∧
      (BitVec.getLsbD (c.word 0) 24 = false) ∧ (regionOf dst m ≠ some 2) ∧ (s.writable Ini.DMA dst m = true) ∧
      (kindOf (c.word 0) = 0) ∧ (BitVec.getLsbD (c.word 0) 25 = false) ∧ (regionOf src m ≠ some 2) ∧
      (s.readable src m = true) ∧ (s.eccBad src m = true)) ∧
    (∃ s : Machine.State, ∃ n : Fin 128, ∃ u : Machine.State, (12 ≤ ↑n) ∧
      let k : Nat := ↑n;
      let c : DmaChan := s.ch k;
      (s.chState k = Cs.RUN) ∧ (c.ended = none) ∧ (kindOf (c.word 0) = 2) ∧ (c.begun = true) ∧ (c.charged = false) ∧
      (s.charge (10 + s.rf (F.CH_CFG_IPORT k)) (unitsOf (lenOf (c.desc.getD []))) = some u)) ∧
    (∃ s : Machine.State, ∃ n : Fin 128, (12 ≤ ↑n) ∧
      let k : Nat := ↑n;
      let c : DmaChan := s.ch k;
      (s.chState k = Cs.RUN) ∧ (c.ended = none) ∧ (kindOf (c.word 0) = 2) ∧ (c.begun = true) ∧ (c.charged = false) ∧
      (s.charge (10 + s.rf (F.CH_CFG_IPORT k)) (unitsOf (lenOf (c.desc.getD []))) = none)) ∧
    (∃ s : Machine.State, ∃ n : Fin 128, ∃ st : Nat, (12 ≤ ↑n) ∧
      let k : Nat := ↑n;
      let c : DmaChan := s.ch k;
      let a : Nat := s.chAt k;
      (s.chState k = Cs.RUN) ∧ (c.ended = some st) ∧ (s.writable Ini.DMA a 32 = true)) ∧
    (∃ s : Machine.State, ∃ n : Fin 128, (12 ≤ ↑n) ∧
      let k : Nat := ↑n;
      (s.rb (F.CH_CFG_TRIG k) = false)) ∧
    (∃ s : Machine.State, ∃ n : Fin 128, (12 ≤ ↑n) ∧
      let k : Nat := ↑n;
      (s.rb (F.CH_CFG_TRIG k) = true) ∧ (s.chState k = Cs.ARMED) ∧
      ((s.rb (F.CH_SADDLE_ARM k) && s.rb (F.CH_SADDLE_WHEN k)) = false)) ∧
    (∃ s : Machine.State, ∃ n : Fin 128, (12 ≤ ↑n) ∧
      let k : Nat := ↑n;
      (s.rb (F.CH_CFG_TRIG k) = true) ∧ (s.chState k ≠ Cs.ARMED)) :=
    ⟨⟨ring Cs.IDLE, 12, 9, 1, by decide +kernel⟩,
    ⟨ring Cs.HALT, 12, 9, 1, by decide +kernel⟩,
    ⟨ringD Cs.IDLE 0x80000000, 12, by decide +kernel⟩,
    ⟨ringD Cs.IDLE 0x80000001, 12, by decide +kernel⟩,
    ⟨ringD Cs.IDLE 0, 12, by decide +kernel⟩,
    ⟨ring Cs.IDLE, 12, true, by decide +kernel⟩,
    ⟨{ ring Cs.IDLE with ecc := [(0x2260000, 2)] }, 12, by decide +kernel⟩,
    ⟨(ring Cs.RUN).setCh 12 (dch 0), 12, false, by decide +kernel⟩,
    ⟨runD 0x04000000, 12, true, by decide +kernel⟩,
    ⟨runD 0, 12, true, by decide +kernel⟩,
    ⟨{ runD 0 with ecc := [(0x2260020, 2)] }, 12, true, by decide +kernel⟩,
    ⟨(ring Cs.RUN).setCh 12 (dch 0x08000000), 12,
      (State.charge ((ring Cs.RUN).setCh 12 (dch 0x08000000)) 10 1).getD reset, by decide +kernel⟩,
    ⟨(ring Cs.RUN).setCh 12 { dch 0x08000000 with desc := some [0x08000000, 0xFFFFFF] }, 12, by decide +kernel⟩,
    ⟨(ring Cs.RUN).setCh 12 { dch 0 with ended := some 0 }, 12, 0, by decide +kernel⟩,
    ⟨ring Cs.ARMED, 12, by decide +kernel⟩,
    ⟨(ring Cs.ARMED).wb (F.CH_CFG_TRIG 12) true, 12, by decide +kernel⟩,
    ⟨(ring Cs.RUN).wb (F.CH_CFG_TRIG 12) true, 12, by decide +kernel⟩⟩

theorem witness_SaddleHandover :
    (∃ s : Machine.State, ∃ n : Fin 128, ∃ i : Init, ∃ j : Fin 4, ∃ v : Word, (12 ≤ ↑n) ∧
      let k : Nat := ↑n;
      (s.MayWrite i (shadowReg k ↑j)) ∧
      let inRange : Prop := (j = 0 → 5 ≤ bits v 29 26 ∧ bits v 29 26 ≤ 12 ∧ bits v 25 21 ≤ 20) ∧
      (j = 1 → BitVec.toNat v % 32 = 0) ∧ (j = 2 → bits v 11 8 ≤ 12) ∧
      (j = 3 → bits v 11 0 < 2 ^ s.rf (F.CH_SRING_HI_SIZE k));
      (inRange)) ∧
    (∃ s : Machine.State, ∃ n : Fin 128, ∃ i : Init, ∃ j : Fin 4, ∃ v : Word, (12 ≤ ↑n) ∧
      let k : Nat := ↑n;
      (s.MayWrite i (shadowReg k ↑j)) ∧
      let inRange : Prop := (j = 0 → 5 ≤ bits v 29 26 ∧ bits v 29 26 ≤ 12 ∧ bits v 25 21 ≤ 20) ∧
      (j = 1 → BitVec.toNat v % 32 = 0) ∧ (j = 2 → bits v 11 8 ≤ 12) ∧
      (j = 3 → bits v 11 0 < 2 ^ s.rf (F.CH_SRING_HI_SIZE k));
      (¬inRange)) ∧
    (∃ s : Machine.State, ∃ n : Fin 128, ∃ i : Init, (12 ≤ ↑n) ∧
      let k : Nat := ↑n;
      (s.MayWrite i (R.CH_SADDLE k))) ∧
    (∃ s : Machine.State, ∃ n : Fin 128, (12 ≤ ↑n) ∧
      let k : Nat := ↑n;
      (s.rb (F.CH_SADDLE_ARM k) = true) ∧ (s.rb (F.CH_SADDLE_WHEN k) = false) ∧ (s.chState k ≠ Cs.RUN) ∧
      (s.saddleOk k = true)) ∧
    (∃ s : Machine.State, ∃ n : Fin 128, (12 ≤ ↑n) ∧
      let k : Nat := ↑n;
      (s.rb (F.CH_SADDLE_ARM k) = true) ∧ (s.rb (F.CH_SADDLE_WHEN k) = false) ∧ (s.chState k ≠ Cs.RUN) ∧
      (s.saddleOk k = false)) :=
    ⟨⟨reset, 12, 9, 1, 32, by decide +kernel⟩,
    ⟨reset, 12, 9, 1, 1, by decide +kernel⟩,
    ⟨reset, 12, 9, by decide +kernel⟩,
    ⟨((reset.wb (F.CH_SADDLE_ARM 12) true).setReg (R.CH_SRING_LO 12) 0x11300000), 12, by decide +kernel⟩,
    ⟨(reset.wb (F.CH_SADDLE_ARM 12) true), 12, by decide +kernel⟩⟩

theorem witness_CheckUnitsAndScans :
    (∃ s : Machine.State, ∃ i : Init, ∃ u : Fin 16, ∃ v : Word,
      let x : Nat := ↑u;
      (s.MayWrite i (R.CHK_CFG x)) ∧ (bits v 2 0 ≤ 5) ∧ (s.chkBound x = false)) ∧
    (∃ s : Machine.State, ∃ i : Init, ∃ u : Fin 16, ∃ v : Word,
      let x : Nat := ↑u;
      (s.MayWrite i (R.CHK_CFG x)) ∧ (bits v 2 0 = 6) ∧ (s.chkBound x = false)) ∧
    (∃ s : Machine.State, ∃ i : Init, ∃ u : Fin 16, ∃ v : Word,
      let x : Nat := ↑u;
      (s.MayWrite i (R.CHK_CFG x)) ∧ (bits v 2 0 ≤ 6)) ∧
    (∃ s : Machine.State, ∃ i : Init, ∃ u : Fin 16, ∃ v : Word, ∃ j : Fin 4,
      let x : Nat := ↑u;
      (s.MayWrite i (chkCfgReg x ↑j)) ∧ (j = 3 → 8 ≤ bits v 5 0 ∧ bits v 5 0 ≤ 32) ∧ (s.chkBound x = false)) ∧
    (∃ s : Machine.State, ∃ i : Init, ∃ u : Fin 16, ∃ j : Fin 3,
      let x : Nat := ↑u;
      (s.MayWrite i (chkDataReg x ↑j)) ∧ (s.chkBound x = false)) ∧
    (∃ s : Machine.State, ∃ i : Init, ∃ u : Fin 16, ∃ v : Word,
      let x : Nat := ↑u;
      (s.MayWrite i (R.CHK_CMD x)) ∧ (BitVec.getLsbD v 0 = true) ∧ (s.chkBound x = false)) ∧
    (∃ s : Machine.State, ∃ i : Init, ∃ v : Word, (s.MayWrite i R.SCAN_CTRL) ∧
      (s.rb F.SCAN_CTRL_BUSY = true ∨ BitVec.getLsbD v 28 = false ∧ s.chkBound (bits v 19 16) = true)) ∧
    (∃ s : Machine.State, ∃ i : Init, ∃ v : Word, (s.MayWrite i R.SCAN_CTRL) ∧ (s.rb F.SCAN_CTRL_BUSY = false) ∧
      (BitVec.getLsbD v 28 = true ∨ s.chkBound (bits v 19 16) = false)) ∧
    (∃ s : Machine.State, ∃ i : Init, (s.MayWrite i R.SCAN_CTRL) ∧ (s.rb F.SCAN_CTRL_BUSY = true)) ∧
    (∃ s : Machine.State, (s.rb F.SCAN_CTRL_BUSY = false)) ∧
    (∃ s : Machine.State, (s.rb F.SCAN_CTRL_BUSY = true) ∧ (s.rf F.SCAN_CTRL_MODE = 0) ∧ (s.rb F.SCAN_CTRL_STOP = false) ∧
      let a : Nat := s.scanAddr;
      let len : Nat := s.regN R.SCAN_LEN;
      (len = 0 ∨ regionOf a len = none)) ∧
    (∃ s : Machine.State, (s.rb F.SCAN_CTRL_BUSY = true) ∧ (s.rf F.SCAN_CTRL_MODE = 0) ∧ (s.rb F.SCAN_CTRL_STOP = false) ∧
      let a : Nat := s.scanAddr;
      let len : Nat := s.regN R.SCAN_LEN;
      (len ≠ 0) ∧ ((regionOf a len).isSome = true) ∧ (regionOf a len ≠ some 2) ∧
      (isDram a = true → s.ready Fn.DRAM = true) ∧ (s.readable a len = true) ∧ (s.eccBad a len = false)) ∧
    (∃ s : Machine.State, (s.rb F.SCAN_CTRL_BUSY = true) ∧ (s.rf F.SCAN_CTRL_MODE = 1) ∧ (s.rb F.SCAN_CTRL_STOP = false) ∧
      let a : Nat := s.scanAddr;
      let b : Nat := s.scanAddr2;
      ((regionOf a 1).isSome = true) ∧ ((regionOf b 1).isSome = true) ∧
      ((isDram a || isDram b) = true → s.ready Fn.DRAM = true) ∧ (s.readable a (s.copyLen a) = true) ∧
      (s.readable b (s.copyLen b) = true) ∧ (s.eccBad a (s.copyLen a) = false) ∧ (s.eccBad b (s.copyLen b) = false)) :=
    ⟨⟨reset, 9, 0, 0, by decide +kernel⟩,
    ⟨reset, 9, 0, 6, by decide +kernel⟩,
    ⟨reset, 9, 0, 0, by decide +kernel⟩,
    ⟨reset, 9, 0, 0, 0, by decide +kernel⟩,
    ⟨reset, 9, 0, 0, by decide +kernel⟩,
    ⟨reset, 9, 0, 1, by decide +kernel⟩,
    ⟨(reset).wb F.SCAN_CTRL_BUSY true, 9, 0, by decide +kernel⟩,
    ⟨(reset).wb F.SCAN_CTRL_BUSY false, 9, 0, by decide +kernel⟩,
    ⟨(reset).wb F.SCAN_CTRL_BUSY true, 9, by decide +kernel⟩,
    ⟨(reset).wb F.SCAN_CTRL_BUSY false, by decide +kernel⟩,
    ⟨(((reset).wb F.SCAN_CTRL_BUSY true).wf F.SCAN_CTRL_MODE 0).wb F.SCAN_CTRL_STOP false, by decide +kernel⟩,
    ⟨((reset.wb F.SCAN_CTRL_BUSY true).setReg R.SCAN_ADDR_LO 0x11300000).setReg R.SCAN_LEN 8, by decide +kernel⟩,
    ⟨(((S0).wb F.SCAN_CTRL_BUSY true).wf F.SCAN_CTRL_MODE 1).wb F.SCAN_CTRL_STOP false, by decide +kernel⟩⟩

theorem witness_CipherKeys :
    (∃ s : Machine.State, ∃ i : Init, ∃ tag : BitVec 8, ∃ slot : Fin 1024, ∃ p : Instr × Nat, ∃ st : Nat,
      let n : Nat := ↑slot;
      (s.MayWrite i R.CRY_KCMD) ∧
      (p ∈ [(Instr.cryLoad i tag slot, 1), (Instr.cryUnwrap i tag slot, 2), (Instr.cryGen i tag slot, 3), (Instr.cryExport i tag slot, 4), (Instr.cryErase i tag slot, 5), (Instr.cryAttr i tag slot, 6), (Instr.cryInfo i tag slot, 7)]) ∧
      (s.keyGate p.snd n = some st)) ∧
    (∃ s : Machine.State, ∃ i : Init, ∃ slot : Fin 1024,
      let n : Nat := ↑slot;
      (s.MayWrite i R.CRY_KCMD) ∧ (s.keyGate 1 n = none) ∧ (s.keyArgsOk = true)) ∧
    (∃ s : Machine.State, ∃ i : Init, ∃ slot : Fin 1024,
      let n : Nat := ↑slot;
      (s.MayWrite i R.CRY_KCMD) ∧ (s.keyGate 1 n = none) ∧ (s.keyArgsOk = false)) ∧
    (∃ s : Machine.State, ∃ i : Init, ∃ slot : Fin 1024,
      let n : Nat := ↑slot;
      (s.MayWrite i R.CRY_KCMD) ∧ (s.keyGate 3 n = none) ∧ (s.keyArgsOk = true) ∧ (s.rf F.CRY_KARG0_TYPE ≠ 3) ∧
      (s.rb F.PKE_STAT_DRBGOK = true)) ∧
    (∃ s : Machine.State, ∃ i : Init, ∃ slot : Fin 1024,
      let n : Nat := ↑slot;
      (s.MayWrite i R.CRY_KCMD) ∧ (s.keyGate 2 n = none) ∧ (s.kek (s.rf F.CRY_KARG0_KEK) = none)) ∧
    (∃ s : Machine.State, ∃ i : Init, ∃ slot : Fin 1024, ∃ kek : List Byte,
      let n : Nat := ↑slot;
      (s.MayWrite i R.CRY_KCMD) ∧ (s.keyGate 2 n = none) ∧
      let klen : Nat := keyLen (s.rf F.CRY_KARG0_TYPE) (8 * s.rf F.CRY_KARG0_KLEN8);
      (s.kek (s.rf F.CRY_KARG0_KEK) = some kek) ∧ (s.readable s.kaddr (16 + klen) = true) ∧
      (s.eccBad s.kaddr (16 + klen) = false) ∧ (Aes.keyUnwrap (nats kek) (nats (s.bytes s.kaddr (16 + klen))) = none)) ∧
    (∃ s : Machine.State, ∃ i : Init, ∃ slot : Fin 1024, ∃ kek : List Byte,
      let n : Nat := ↑slot;
      let k : KeySlot := s.slot n;
      (s.MayWrite i R.CRY_KCMD) ∧ (s.keyGate 4 n = none) ∧ (s.kek (s.rf F.CRY_KARG0_KEK) = some kek) ∧
      (k.usage &&& Usage.EXPORT = 0)) ∧
    (∃ s : Machine.State, ∃ i : Init, ∃ slot : Fin 1024, ∃ kek : List Byte,
      let n : Nat := ↑slot;
      let k : KeySlot := s.slot n;
      (s.MayWrite i R.CRY_KCMD) ∧ (s.keyGate 4 n = none) ∧ (s.kek (s.rf F.CRY_KARG0_KEK) = some kek) ∧
      (k.usage &&& Usage.EXPORT ≠ 0) ∧ (s.writable Ini.CRY s.kaddr (16 + k.key.length) = true)) ∧
    (∃ s : Machine.State, ∃ i : Init, ∃ slot : Fin 1024,
      let n : Nat := ↑slot;
      (s.MayWrite i R.CRY_KCMD) ∧ (s.keyGate 5 n = none) ∧ (s.slotState n = Slot.LOADED)) ∧
    (∃ s : Machine.State, ∃ i : Init, ∃ slot : Fin 1024,
      let n : Nat := ↑slot;
      (s.MayWrite i R.CRY_KCMD) ∧ (s.keyGate 5 n = none) ∧ (s.slotState n ≠ Slot.LOADED)) ∧
    (∃ s : Machine.State, ∃ i : Init, ∃ slot : Fin 1024,
      let n : Nat := ↑slot;
      (s.MayWrite i R.CRY_KCMD) ∧ (s.keyGate 6 n = none)) ∧
    (∃ s : Machine.State, ∃ i : Init, ∃ slot : Fin 1024,
      let n : Nat := ↑slot;
      (s.MayWrite i R.CRY_KCMD) ∧ (s.keyGate 7 n = none)) ∧
    (∃ s : Machine.State, ∃ slot : Fin 1024,
      let n : Nat := ↑slot;
      let k : KeySlot := s.slot n;
      (k.st = Slot.ERASING)) ∧
    (∃ s : Machine.State, ∃ slot : Fin 1024,
      let n : Nat := ↑slot;
      let k : KeySlot := s.slot n;
      (k.st ≠ Slot.ERASING)) ∧
    (∃ s : Machine.State, ∃ i : Init, (s.MayRead i R.CRY_KRES) ∧ (s.cry.kres = [])) ∧
    (∃ s : Machine.State, ∃ i : Init, ∃ x : KRes, ∃ xs : List KRes, (s.MayRead i R.CRY_KRES) ∧ (s.cry.kres = x :: xs)) ∧
    (∃ s : Machine.State, ∃ i : Init, ∃ j : Fin 256, (s.MayWrite i R.CRY_SACMD) ∧ (s.ready Fn.CRY = true) ∧
      ((s.sa ↑j).valid = true)) ∧
    (∃ s : Machine.State, ∃ i : Init, ∃ j : Fin 256, (s.MayWrite i R.CRY_SACMD) ∧ (s.ready Fn.CRY = true) ∧
      let a : Nat := s.saAddr;
      ((s.sa ↑j).valid = false) ∧ (s.readable a 128 = true) ∧ (s.eccBad a 128 = false) ∧
      let win : Nat := bits (s.read32 (a + 12)) 10 0;
      (win % 64 = 0 ∧ 64 ≤ win ∧ win ≤ 1024)) ∧
    (∃ s : Machine.State, ∃ i : Init, ∃ j : Fin 256, (s.MayWrite i R.CRY_SACMD) ∧ (s.ready Fn.CRY = true) ∧
      let a : Nat := s.saAddr;
      ((s.sa ↑j).valid = false) ∧ (s.readable a 128 = true) ∧ (s.eccBad a 128 = false) ∧
      let win : Nat := bits (s.read32 (a + 12)) 10 0;
      (¬(win % 64 = 0 ∧ 64 ≤ win ∧ win ≤ 1024))) ∧
    (∃ s : Machine.State, ∃ i : Init, (s.MayWrite i R.CRY_SACMD) ∧ (s.ready Fn.CRY = true) ∧
      let a : Nat := s.saAddr;
      (s.writable Ini.CRY a 128 = true)) ∧
    (∃ s : Machine.State, ∃ c : Fin 10, (BitVec.getLsbD (s.reg R.CRY_ALMPOL ||| 713#32) ↑c = false)) ∧
    (∃ s : Machine.State, ∃ c : Fin 10, (BitVec.getLsbD (s.reg R.CRY_ALMPOL ||| 713#32) ↑c = true)) ∧
    (∃ s : Machine.State, (s.cry.almErase = true)) ∧
    (∃ s : Machine.State, (s.cry.almErase = false)) ∧
    (∃ s : Machine.State, ∃ i : Init, ∃ v : Word, (s.MayWrite i R.CRY_ALMCLR) ∧ (↑i = Ini.MC5) ∧
      (BitVec.getLsbD v 0 = true)) ∧
    (∃ s : Machine.State, ∃ i : Init, (s.MayWrite i R.CRY_ALMCLR) ∧ (↑i ≠ Ini.MC5)) ∧
    (∃ s : Machine.State, ∃ i : Init, (s.MayWrite i R.CRY_ALMLOCK)) :=
    ⟨⟨S0, 9, 0, 1023, ((.cryLoad 9 0 1023, 1)), St.RIGHTS, by decide +kernel⟩,
    ⟨(S0.wb F.PKE_STAT_DRBGOK true), 9, 0, by decide +kernel⟩,
    ⟨S0.wf F.CRY_KARG0_TYPE 7, 9, 0, by decide +kernel⟩,
    ⟨(S0.wb F.PKE_STAT_DRBGOK true), 9, 0, by decide +kernel⟩,
    ⟨S0, 9, 0, by decide +kernel⟩,
    ⟨withKey (S0.setReg R.CRY_KADDR_LO 0x11300000) 0 4 0x10 (List.replicate 32 0), 9, 1, (List.replicate 32 0),
      by decide +kernel⟩,
    ⟨withKey (withKey S0 0 4 0x10 (List.replicate 32 0)) 1 0 0 (List.replicate 16 0), 9, 1, (List.replicate 32 0),
      by decide +kernel⟩,
    ⟨withKey (withKey (S0.setReg R.CRY_KADDR_LO 0x11370000) 0 4 0x10 (List.replicate 32 0)) 1 0 0xFF (List.replicate 16 0),
      9, 1, (List.replicate 32 0), by decide +kernel⟩,
    ⟨withKey S0 0 4 0x10 [], 9, 0, by decide +kernel⟩,
    ⟨S0, 9, 0, by decide +kernel⟩,
    ⟨withKey S0 0 4 0x10 [], 9, 0, by decide +kernel⟩,
    ⟨S0, 9, 0, by decide +kernel⟩,
    ⟨S0.setSlot 0 { key0 with st := Slot.ERASING }, 0, by decide +kernel⟩,
    ⟨reset, 0, by decide +kernel⟩,
    ⟨{ reset with cry.kres := [] }, 9, by decide +kernel⟩,
    ⟨{ reset with cry.kres := (⟨1,2,0⟩) :: ([]) }, 9, (⟨1,2,0⟩), ([]), by decide +kernel⟩,
    ⟨S0.setSa 0 ⟨0x80000000 :: List.replicate 31 0, 0, false, false⟩, 9, 0, by decide +kernel⟩,
    ⟨(S0.setReg R.CRY_SAADDR_LO 0x11300000).writeN 0x1130000C 4 64, 9, 0, by decide +kernel⟩,
    ⟨S0, 9, 0, by decide +kernel⟩,
    ⟨S0.setReg R.CRY_SAADDR_LO 0x11370000, 9, by decide +kernel⟩,
    ⟨reset.setReg R.CRY_ALMPOL 0, 1, by decide +kernel⟩,
    ⟨reset, 0, by decide +kernel⟩,
    ⟨{ reset with cry.almErase := true }, by decide +kernel⟩,
    ⟨{ reset with cry.almErase := false }, by decide +kernel⟩,
    ⟨reset, 9, 1, by decide +kernel⟩,
    ⟨reset, 10, by decide +kernel⟩,
    ⟨reset, 9, by decide +kernel⟩⟩

theorem witness_CipherPages :
    (∃ s : Machine.State, ∃ i : Init, ∃ n : Fin 32, ∃ v : Word,
      let p : Nat := ↑n;
      (s.MayWrite i (R.PG_DOORBELL p)) ∧ (BitVec.getLsbD v 0 = true) ∧ (6 ≤ p)) ∧
    (∃ s : Machine.State, ∃ n : Fin 32,
      let p : Nat := ↑n;
      (s.pgCanFetch p = false)) ∧
    (∃ s : Machine.State, ∃ n : Fin 32,
      let p : Nat := ↑n;
      let ring : Nat × Nat := s.pgRing p;
      (s.pgCanFetch p = true) ∧ (s.pgInWindow p ring.fst (64 * ring.snd) = false)) ∧
    (∃ s : Machine.State, ∃ n : Fin 32,
      let p : Nat := ↑n;
      let ring : Nat × Nat := s.pgRing p;
      let a : Nat := ring.fst + 64 * (s.rf (F.PG_HEAD_HEAD p) % ring.snd);
      (s.pgCanFetch p = true) ∧ (s.pgInWindow p ring.fst (64 * ring.snd) = true) ∧ (s.cry.ops = []) ∧
      (s.readable a 64 = true) ∧ (s.eccBad a 64 = false) ∧ (s.ready Fn.CRY = true) ∧
      (BitVec.getLsbD (s.read32 a) 31 = false)) ∧
    (∃ s : Machine.State, ∃ n : Fin 32,
      let p : Nat := ↑n;
      let ring : Nat × Nat := s.pgRing p;
      let a : Nat := ring.fst + 64 * (s.rf (F.PG_HEAD_HEAD p) % ring.snd);
      (s.pgCanFetch p = true) ∧ (s.pgInWindow p ring.fst (64 * ring.snd) = true) ∧ (s.cry.ops = []) ∧
      (s.readable a 64 = true) ∧ (s.eccBad a 64 = false) ∧ (s.ready Fn.CRY = true) ∧
      (BitVec.getLsbD (s.read32 a) 31 = true) ∧ (s.descCheck (descOp p (s.words a 16)) (s.words a 16) = none)) ∧
    (∃ s : Machine.State, ∃ n : Fin 32, ∃ st : Nat,
      let p : Nat := ↑n;
      let ring : Nat × Nat := s.pgRing p;
      let a : Nat := ring.fst + 64 * (s.rf (F.PG_HEAD_HEAD p) % ring.snd);
      (s.pgCanFetch p = true) ∧ (s.pgInWindow p ring.fst (64 * ring.snd) = true) ∧ (s.cry.ops = []) ∧
      (s.readable a 64 = true) ∧ (s.eccBad a 64 = false) ∧ (s.ready Fn.CRY = true) ∧
      (BitVec.getLsbD (s.read32 a) 31 = true) ∧ (s.descCheck (descOp p (s.words a 16)) (s.words a 16) = some st) ∧
      (s.rf (F.PG_HEAD_HEAD p) < ring.snd)) ∧
    (∃ s : Machine.State, ∃ n : Fin 6, ∃ op : InlineOp, (↑n ≠ 4) ∧
      let o : CryOp := inlineOp (↑n) op;
      let fits : Bool := tagLenOk o.mode o.tagLen && nLenOk o.mode (if o.mode ≤ 2 then 0 else o.iv.length) && o.lenOk;
      (s.ready Fn.CRY = true) ∧ (fits = true)) ∧
    (∃ s : Machine.State, ∃ n : Fin 6, (↑n ≠ 4) ∧ (s.ready Fn.CRY = false)) ∧
    (∃ s : Machine.State, ∃ n : Fin 6, ∃ op : InlineOp, (↑n ≠ 4) ∧
      let o : CryOp := inlineOp (↑n) op;
      let fits : Bool := tagLenOk o.mode o.tagLen && nLenOk o.mode (if o.mode ≤ 2 then 0 else o.iv.length) && o.lenOk;
      (s.ready Fn.CRY = true) ∧ (fits = false)) ∧
    (∃ s : Machine.State, ∃ c : Nat, (s.freeCore = some c) ∧ (s.opPick true s.cry.ops.zipIdx = none)) ∧
    (∃ s : Machine.State, ∃ c : Nat, ∃ o : CryOp, ∃ k : Nat, ∃ key : List Byte, ∃ gen : Word, (s.freeCore = some c) ∧
      (s.opPick true s.cry.ops.zipIdx = some (o, k)) ∧ (o.started = false) ∧ (okIs (s.opKey o) (key, gen) = true)) ∧
    (∃ s : Machine.State, ∃ c : Nat, ∃ o : CryOp, ∃ k : Nat, (s.freeCore = some c) ∧
      (s.opPick true s.cry.ops.zipIdx = some (o, k)) ∧ (o.fw = false) ∧ (o.esp = none) ∧ (o.started = false) ∧
      (errIs (s.opKey o) St.NOKEY = true)) ∧
    (∃ s : Machine.State, ∃ c : Fin 12, ((s.cry.ops.all fun o => o.core != some ↑c) = true)) ∧
    (∃ s : Machine.State, ∃ c : Fin 12, ∃ k : Nat, ∃ o : CryOp,
      (List.findIdx? (fun o => o.core == some ↑c) s.cry.ops = some k) ∧ (s.cry.ops[k]? = some o) ∧ (o.esp = none) ∧
      (o.fw = false) ∧
      let y : OpYield := o.yield CryCtx.free (nats o.aad) (nats o.data);
      let tag : List Byte := toBytes (List.take o.tagLen y.tag);
      (y.status = St.OK) ∧ ((o.compares && tag != o.tag) = false)) ∧
    (∃ s : Machine.State, ∃ c : Fin 12, ∃ k : Nat, ∃ o : CryOp,
      (List.findIdx? (fun o => o.core == some ↑c) s.cry.ops = some k) ∧ (s.cry.ops[k]? = some o) ∧ (o.esp = none) ∧
      (o.fw = false) ∧
      let y : OpYield := o.yield CryCtx.free (nats o.aad) (nats o.data);
      let tag : List Byte := toBytes (List.take o.tagLen y.tag);
      (y.status = St.OK) ∧ ((o.compares && tag != o.tag) = true)) ∧
    (∃ s : Machine.State, ∃ c : Fin 12, ∃ k : Nat, ∃ o : CryOp, ∃ f : CryOp,
      (List.findIdx? (fun o => o.core == some ↑c) s.cry.ops = some k) ∧ (s.cry.ops[k]? = some o) ∧ (o.esp = none) ∧
      (o.fw = true) ∧ (o.mode ≤ 2) ∧ (o.chain = 0) ∧ (o.aadLen = 0) ∧ (s.pgFirst o.page = some f) ∧ (f.final = none) ∧
      (f.core ≠ some ↑c) ∧ (o.len ≠ 0 → s.readable o.src o.len = true ∧ s.eccBad o.src o.len = false) ∧
      (o.outLen ≠ 0 → s.writable Ini.CRY o.dst o.outLen = true) ∧
      let y : OpYield := o.yield CryCtx.free [] (nats (s.bytes o.src o.len));
      (y.status = St.OK)) ∧
    (∃ s : Machine.State, ∃ i : Init, ∃ n : Fin 32, ∃ tag : BitVec 8, ∃ d : Fin 4, ∃ c : Instr × Nat,
      (s.MayWrite i (R.PG_CMD ↑n)) ∧
      let p : Nat := ↑n;
      (p < 6) ∧
      (c ∈ [(Instr.pageEnable i n tag, 1), (Instr.pageStop i n tag, 2), (Instr.pageClear i n tag, 3), (Instr.ctxSave i n tag d, 4), (Instr.ctxRestore i n tag d, 5), (Instr.ctxDrop i n tag d, 6)])) ∧
    (∃ s : Machine.State, ∃ i : Init, ∃ n : Fin 32, (s.MayWrite i (R.PG_CMD ↑n)) ∧
      let p : Nat := ↑n;
      let st : Nat := s.rf (F.PG_STAT_STATE p);
      (6 ≤ p) ∧ (s.ready Fn.CRY = true) ∧ (st ≠ Pg.OFF) ∧ (s.pgFirst p = none)) ∧
    (∃ s : Machine.State, ∃ i : Init, ∃ n : Fin 32, ∃ f : CryOp, (s.MayWrite i (R.PG_CMD ↑n)) ∧
      let p : Nat := ↑n;
      let st : Nat := s.rf (F.PG_STAT_STATE p);
      (6 ≤ p) ∧ (s.ready Fn.CRY = true) ∧ (st ≠ Pg.OFF) ∧ (s.pgFirst p = some f) ∧ (f.final = none)) ∧
    (∃ s : Machine.State, ∃ i : Init, ∃ n : Fin 32, ∃ tag : BitVec 8, ∃ c : Fin 4, ∃ y : Instr × Nat,
      (s.MayWrite i (R.PG_CMD ↑n)) ∧
      let p : Nat := ↑n;
      (6 ≤ p) ∧ (s.ready Fn.CRY = true) ∧ (s.ctxBusy p ↑c = true) ∧
      (y ∈ [(Instr.ctxSave i n tag c, 4), (Instr.ctxDrop i n tag c, 6)])) ∧
    (∃ s : Machine.State, ∃ i : Init, ∃ n : Fin 32, ∃ c : Fin 4, (s.MayWrite i (R.PG_CMD ↑n)) ∧
      let p : Nat := ↑n;
      (6 ≤ p) ∧ (s.ready Fn.CRY = true) ∧ (s.ctxBusy p ↑c = false) ∧ (s.rb (F.PG_CTXFMT_WRAPPED p) = false) ∧
      (s.rb (F.CRY_PGCFG_CLRCTX p) = false)) ∧
    (∃ s : Machine.State, ∃ i : Init, ∃ n : Fin 32, ∃ c : Fin 4, (s.MayWrite i (R.PG_CMD ↑n)) ∧
      let p : Nat := ↑n;
      (6 ≤ p) ∧ (s.ready Fn.CRY = true) ∧
      let x : CryCtx := s.ctx p ↑c;
      let at_ : Nat := s.ctxAddr p;
      (s.ctxBusy p ↑c = false) ∧ (s.rb (F.PG_CTXFMT_WRAPPED p) = false) ∧ (s.rb (F.CRY_PGCFG_CLRCTX p) = true) ∧
      (x.st = 1) ∧ (s.pgInWindow p at_ 64 = true) ∧ (s.writable Ini.CRY at_ 64 = true)) ∧
    (∃ s : Machine.State, ∃ i : Init, ∃ n : Fin 32, ∃ c : Fin 4, (s.MayWrite i (R.PG_CMD ↑n)) ∧
      let p : Nat := ↑n;
      (6 ≤ p) ∧ (s.ready Fn.CRY = true) ∧
      let x : CryCtx := s.ctx p ↑c;
      (x.st ≠ 0)) ∧
    (∃ s : Machine.State, ∃ i : Init, ∃ n : Fin 32, ∃ c : Fin 4, (s.MayWrite i (R.PG_CMD ↑n)) ∧
      let p : Nat := ↑n;
      (6 ≤ p) ∧ (s.ready Fn.CRY = true) ∧
      let x : CryCtx := s.ctx p ↑c;
      let at_ : Nat := s.ctxAddr p;
      let wrapped : Bool := s.rb (F.PG_CTXFMT_WRAPPED p);
      let len : Nat := if wrapped = true then 144 else 64;
      let b : List Byte := s.bytes at_ len;
      (x.st = 0) ∧ (s.pgInWindow p at_ len = true) ∧ (s.readable at_ len = true) ∧ (s.eccBad at_ len = false) ∧
      (bytesNat (List.take 4 b) / 2 ^ 16 % 32 ≠ p)) ∧
    (∃ s : Machine.State, ∃ i : Init, ∃ n : Fin 32, ∃ c : Fin 4, ∃ code : Nat, (s.MayWrite i (R.PG_CMD ↑n)) ∧
      let p : Nat := ↑n;
      (6 ≤ p) ∧ (s.ready Fn.CRY = true) ∧
      let x : CryCtx := s.ctx p ↑c;
      let at_ : Nat := s.ctxAddr p;
      let wrapped : Bool := s.rb (F.PG_CTXFMT_WRAPPED p);
      let len : Nat := if wrapped = true then 144 else 64;
      let b : List Byte := s.bytes at_ len;
      (x.st = 0) ∧ (s.pgInWindow p at_ len = true) ∧ (s.readable at_ len = true) ∧ (s.eccBad at_ len = false) ∧
      (bytesNat (List.take 4 b) / 2 ^ 16 % 32 = p) ∧
      (errIs ((if wrapped = true then s.restoreWrapped b else s.restoreClear p b)) code = true)) ∧
    (∃ s : Machine.State, ∃ i : Init, ∃ n : Fin 32, ∃ c : Fin 4, ∃ y : CryCtx, (s.MayWrite i (R.PG_CMD ↑n)) ∧
      let p : Nat := ↑n;
      (6 ≤ p) ∧ (s.ready Fn.CRY = true) ∧
      let x : CryCtx := s.ctx p ↑c;
      let at_ : Nat := s.ctxAddr p;
      let wrapped : Bool := s.rb (F.PG_CTXFMT_WRAPPED p);
      let len : Nat := if wrapped = true then 144 else 64;
      let b : List Byte := s.bytes at_ len;
      (x.st = 0) ∧ (s.pgInWindow p at_ len = true) ∧ (s.readable at_ len = true) ∧ (s.eccBad at_ len = false) ∧
      (bytesNat (List.take 4 b) / 2 ^ 16 % 32 = p) ∧
      (okIs ((if wrapped = true then s.restoreWrapped b else s.restoreClear p b)) y = true)) ∧
    (∃ s : Machine.State, ∃ i : Init, ∃ n : Fin 32, ∃ x : KRes, ∃ xs : List KRes, (s.MayRead i (R.PG_RES ↑n)) ∧
      ((s.page ↑n).results = x :: xs)) :=
    ⟨⟨pg, 9, 6, 1, by decide +kernel⟩,
    ⟨reset, 0, by decide +kernel⟩,
    ⟨pg0, 6, by decide +kernel⟩,
    ⟨pg, 6, by decide +kernel⟩,
    ⟨pg.writeN 0x11370000 4 0x80000000, 6, by decide +kernel⟩,
    ⟨pg.writeN 0x11370000 4 0xBC000000, 6, St.TYPE, by decide +kernel⟩,
    ⟨S0, 0, iop0, by decide +kernel⟩,
    ⟨reset, 0, by decide +kernel⟩,
    ⟨S0, 0, ({ iop0 with mode := 3, nonce := [] }), by decide +kernel⟩,
    ⟨reset, 0, by decide +kernel⟩,
    ⟨withKey { S0 with cry.ops := [cop] } 0 1 0xFF key32, 0, cop, 0, key32, 1, by decide +kernel⟩,
    ⟨{ S0 with cry.ops := [{ cop with fw := false }] }, 0, ({ cop with fw := false }), 0, by decide +kernel⟩,
    ⟨reset, 0, by decide +kernel⟩,
    ⟨{ S0 with cry.ops := [{ cop with fw := false, core := some 0, started := true, key := key32 }] }, 0, 0,
      ({ cop with fw := false, core := some 0, started := true, key := key32 }), by decide +kernel⟩,
    ⟨{ S0 with cry.ops := [{ cop with fw := false, mode := 3, dir := true, tagLen := 16, iv := List.replicate 12 0, core := some 0, started := true, key := key32 }] },
      0, 0,
      ({ cop with fw := false, mode := 3, dir := true, tagLen := 16, iv := List.replicate 12 0, core := some 0, started := true, key := key32 }),
      by decide +kernel⟩,
    ⟨{ S0 with cry.ops := [cop6, { cop6 with core := some 0, started := true, key := key32 }] }, 0, 1,
      ({ cop6 with core := some 0, started := true, key := key32 }), cop6, by decide +kernel⟩,
    ⟨S0.setReg (R.SYS_ACCPG 0) 0xFFFFF, 9, 0, 0, 0, ((.pageEnable 9 0 0, 1)), by decide +kernel⟩,
    ⟨pg, 9, 6, by decide +kernel⟩,
    ⟨{ pg with cry.ops := [cop6] }, 9, 6, cop6, by decide +kernel⟩,
    ⟨{ pg with cry.ops := [{ cop6 with chain := 1 }] }, 9, 6, 0, 0, ((.ctxSave 9 6 0 0, 4)), by decide +kernel⟩,
    ⟨pg.wb (F.CRY_PGCFG_CLRCTX 6) false, 9, 6, 0, by decide +kernel⟩,
    ⟨(pg.wb (F.CRY_PGCFG_CLRCTX 6) true).setCtx 6 0 { cctx with st := 1 }, 9, 6, 0, by decide +kernel⟩,
    ⟨pg.setCtx 6 0 { cctx with st := 1 }, 9, 6, 0, by decide +kernel⟩,
    ⟨pg, 9, 6, 0, by decide +kernel⟩,
    ⟨pg.writeN 0x11370000 4 0x60000, 9, 6, 0, St.CHECK, by decide +kernel⟩,
    ⟨withKey (((pg.writeN 0x11370000 4 0x60000).writeN 0x11370004 4 1).writeN 0x1137003C 4 (crc32c ([0, 0, 6, 0, 1, 0, 0, 0] ++ List.replicate 52 0))) 0 1 0xFF key32,
      9, 6, 0,
      ((State.restoreClear (withKey (((pg.writeN 0x11370000 4 0x60000).writeN 0x11370004 4 1).writeN 0x1137003C 4 (crc32c ([0, 0, 6, 0, 1, 0, 0, 0] ++ List.replicate 52 0))) 0 1 0xFF key32) 6 (State.bytes (withKey (((pg.writeN 0x11370000 4 0x60000).writeN 0x11370004 4 1).writeN 0x1137003C 4 (crc32c ([0, 0, 6, 0, 1, 0, 0, 0] ++ List.replicate 52 0))) 0 1 0xFF key32) 0x11370000 64)).toOption.getD CryCtx.free),
      by decide +kernel⟩,
    ⟨({ reset with cry.pages := [(0, ⟨false, false, [⟨1, 2, 0⟩]⟩)] } : State).setReg (R.SYS_ACCPG 0) 0xFFFFF, 9, 0,
      (⟨1, 2, 0⟩), ([]), by decide +kernel⟩⟩

theorem witness_PublicKeyEngine :
    (∃ s : Machine.State, ∃ i : Init, ∃ v : Word, (s.MayWrite i R.PKE_CMD_PUSH) ∧ (BitVec.getLsbD v 0 = true) ∧
      let c : PkeCmd := { ini := ↑i, w := List.map (fun k => s.reg (R.PKE_CMD_W k)) (List.range 8) };
      (s.pkePushCheck c = none)) ∧
    (∃ s : Machine.State, ∃ i : Init, ∃ v : Word, ∃ st : Nat, (s.MayWrite i R.PKE_CMD_PUSH) ∧
      (BitVec.getLsbD v 0 = true) ∧
      let c : PkeCmd := { ini := ↑i, w := List.map (fun k => s.reg (R.PKE_CMD_W k)) (List.range 8) };
      (s.pkePushCheck c = some st)) ∧
    (∃ s : Machine.State, ∃ p : Instr × Nat,
      (p ∈ [(Instr.pkeHash, 1), (Instr.pkeHmac, 2), (Instr.pkeKdf, 3), (Instr.pkeKeygen, 4), (Instr.pkePubkey, 5), (Instr.pkeSign, 6), (Instr.pkeVerify, 7), (Instr.pkeEcdh, 8), (Instr.pkeRandom, 9), (Instr.pkeReseed, 10), (Instr.pkeMextend, 11), (Instr.pkeAttest, 12), (Instr.pkeSvnset, 13), (Instr.pkeRevoke, 14)]) ∧
      (s.pke.queue = [])) ∧
    (∃ s : Machine.State, ∃ p : Instr × Nat, ∃ c : PkeCmd, ∃ cs : List PkeCmd,
      (p ∈ [(Instr.pkeHash, 1), (Instr.pkeHmac, 2), (Instr.pkeKdf, 3), (Instr.pkeKeygen, 4), (Instr.pkePubkey, 5), (Instr.pkeSign, 6), (Instr.pkeVerify, 7), (Instr.pkeEcdh, 8), (Instr.pkeRandom, 9), (Instr.pkeReseed, 10), (Instr.pkeMextend, 11), (Instr.pkeAttest, 12), (Instr.pkeSvnset, 13), (Instr.pkeRevoke, 14)]) ∧
      (s.pke.queue = c :: cs) ∧ (c.opc ≠ p.snd ∨ s.rb F.PKE_CTRL_EN = false)) ∧
    (∃ s : Machine.State, ∃ p : Instr × Nat, ∃ c : PkeCmd, ∃ cs : List PkeCmd,
      (p ∈ [(Instr.pkeHash, 1), (Instr.pkeHmac, 2), (Instr.pkeKdf, 3), (Instr.pkeKeygen, 4), (Instr.pkePubkey, 5), (Instr.pkeSign, 6), (Instr.pkeVerify, 7), (Instr.pkeEcdh, 8), (Instr.pkeRandom, 9), (Instr.pkeReseed, 10), (Instr.pkeMextend, 11), (Instr.pkeAttest, 12), (Instr.pkeSvnset, 13), (Instr.pkeRevoke, 14)]) ∧
      (s.pke.queue = c :: cs) ∧ (c.opc = p.snd) ∧ (s.rb F.PKE_CTRL_EN = true) ∧ (s.ready Fn.PKE = false)) ∧
    (∃ s : Machine.State, ∃ c : PkeCmd, ∃ cs : List PkeCmd, ∃ d : List Byte, (s.pke.queue = c :: cs) ∧
      (s.rb F.PKE_CTRL_EN = true) ∧ (s.ready Fn.PKE = true) ∧ (c.opc = 1) ∧ (c.chain = 0) ∧
      (okIs (s.pkeIn c.inp c.len) d = true) ∧ (s.writable Ini.PKE c.outp (hashOf c.sha256 d).length = true)) ∧
    (∃ s : Machine.State, ∃ c : PkeCmd, ∃ cs : List PkeCmd, ∃ d : List Byte, ∃ key : List Byte, (s.pke.queue = c :: cs) ∧
      (s.rb F.PKE_CTRL_EN = true) ∧ (s.ready Fn.PKE = true) ∧ (c.opc = 2) ∧ (c.chain = 0) ∧
      (okIs (s.pkeKey c.slot 2 Usage.MAC) key = true) ∧ (okIs (s.pkeIn c.inp c.len) d = true) ∧
      (s.writable Ini.PKE c.outp (hmacOf c.sha256 key d).length = true)) ∧
    (∃ s : Machine.State, ∃ c : PkeCmd, ∃ cs : List PkeCmd, ∃ st : Nat, (s.pke.queue = c :: cs) ∧
      (s.rb F.PKE_CTRL_EN = true) ∧ (s.ready Fn.PKE = true) ∧ (c.opc = 2) ∧ (c.chain = 0) ∧
      (errIs (s.pkeKey c.slot 2 Usage.MAC) st = true)) ∧
    (∃ s : Machine.State, ∃ c : PkeCmd, ∃ cs : List PkeCmd, ∃ d : List Byte, ∃ key : List Byte, (s.pke.queue = c :: cs) ∧
      (s.rb F.PKE_CTRL_EN = true) ∧ (s.ready Fn.PKE = true) ∧ (c.opc = 3) ∧
      (okIs (s.pkeKey c.slot 2 Usage.DERIVE) key = true) ∧ (okIs (s.pkeIn c.inp c.len) d = true) ∧
      (s.pkeTarget c.slot2 = St.OK)) ∧
    (∃ s : Machine.State, ∃ c : PkeCmd, ∃ cs : List PkeCmd, (s.pke.queue = c :: cs) ∧ (s.rb F.PKE_CTRL_EN = true) ∧
      (s.ready Fn.PKE = true) ∧ (c.opc = 4) ∧ (s.pkeTarget c.slot2 = St.OK) ∧ (s.writable Ini.PKE c.outp 96 = true)) ∧
    (∃ s : Machine.State, ∃ c : PkeCmd, ∃ cs : List PkeCmd, ∃ st : Nat, (s.pke.queue = c :: cs) ∧
      (s.rb F.PKE_CTRL_EN = true) ∧ (s.ready Fn.PKE = true) ∧ (c.opc = 4) ∧ (s.pkeTarget c.slot2 = st) ∧ (st ≠ St.OK)) ∧
    (∃ s : Machine.State, ∃ c : PkeCmd, ∃ cs : List PkeCmd, ∃ key : List Byte, (s.pke.queue = c :: cs) ∧
      (s.rb F.PKE_CTRL_EN = true) ∧ (s.ready Fn.PKE = true) ∧ (c.opc = 5) ∧ (okIs (s.pkeKey c.slot 3 0) key = true) ∧
      (s.writable Ini.PKE c.outp (pointBytes (P384.pub (bytesNatBe key))).length = true)) ∧
    (∃ s : Machine.State, ∃ c : PkeCmd, ∃ cs : List PkeCmd, ∃ key : List Byte, ∃ h : List Byte, (s.pke.queue = c :: cs) ∧
      (s.rb F.PKE_CTRL_EN = true) ∧ (s.ready Fn.PKE = true) ∧ (c.opc = 6) ∧
      (okIs (s.pkeKey c.slot 3 Usage.SIGN) key = true) ∧ (okIs (s.pkeIn c.inp 48) h = true) ∧
      (s.writable Ini.PKE c.outp 96 = true)) ∧
    (∃ s : Machine.State, ∃ c : PkeCmd, ∃ cs : List PkeCmd, (s.pke.queue = c :: cs) ∧ (s.rb F.PKE_CTRL_EN = true) ∧
      (s.ready Fn.PKE = true) ∧ (c.opc = 7)) ∧
    (∃ s : Machine.State, ∃ c : PkeCmd, ∃ cs : List PkeCmd, ∃ key : List Byte, ∃ d : List Byte, (s.pke.queue = c :: cs) ∧
      (s.rb F.PKE_CTRL_EN = true) ∧ (s.ready Fn.PKE = true) ∧ (c.opc = 8) ∧
      (okIs (s.pkeKey c.slot 3 Usage.ECDH) key = true) ∧ (okIs (s.pkeIn c.inp 96) d = true) ∧
      (s.pkeTarget c.slot2 = St.OK) ∧
      let x : Nat := bytesNatBe (List.take 48 d);
      let y : Nat := bytesNatBe (List.drop 48 d);
      (P384.onCurve x y = false)) ∧
    (∃ s : Machine.State, ∃ c : PkeCmd, ∃ cs : List PkeCmd, ∃ key : List Byte, ∃ d : List Byte, (s.pke.queue = c :: cs) ∧
      (s.rb F.PKE_CTRL_EN = true) ∧ (s.ready Fn.PKE = true) ∧ (c.opc = 8) ∧
      (okIs (s.pkeKey c.slot 3 Usage.ECDH) key = true) ∧ (okIs (s.pkeIn c.inp 96) d = true) ∧
      (s.pkeTarget c.slot2 = St.OK) ∧
      let x : Nat := bytesNatBe (List.take 48 d);
      let y : Nat := bytesNatBe (List.drop 48 d);
      (P384.onCurve x y = true)) ∧
    (∃ s : Machine.State, ∃ c : PkeCmd, ∃ cs : List PkeCmd, (s.pke.queue = c :: cs) ∧ (s.rb F.PKE_CTRL_EN = true) ∧
      (s.ready Fn.PKE = true) ∧ (c.opc = 9) ∧ (s.writable Ini.PKE c.outp c.len = true)) ∧
    (∃ s : Machine.State, ∃ c : PkeCmd, ∃ cs : List PkeCmd, (s.pke.queue = c :: cs) ∧ (s.rb F.PKE_CTRL_EN = true) ∧
      (s.ready Fn.PKE = true) ∧ (c.opc = 10)) ∧
    (∃ s : Machine.State, ∃ c : PkeCmd, ∃ cs : List PkeCmd, (s.pke.queue = c :: cs) ∧ (s.rb F.PKE_CTRL_EN = true) ∧
      (s.ready Fn.PKE = true) ∧ (c.opc = 11) ∧ (c.f 6 7 0 = 0 ∨ c.f 6 7 0 ≤ 3 ∧ c.ini ≠ Ini.MC5)) ∧
    (∃ s : Machine.State, ∃ c : PkeCmd, ∃ cs : List PkeCmd, ∃ d : List Byte, (s.pke.queue = c :: cs) ∧
      (s.rb F.PKE_CTRL_EN = true) ∧ (s.ready Fn.PKE = true) ∧ (c.opc = 11) ∧ (c.f 6 7 0 ≠ 0) ∧
      (c.f 6 7 0 ≤ 3 → c.ini = Ini.MC5) ∧ (okIs (s.pkeIn c.inp 48) d = true)) ∧
    (∃ s : Machine.State, ∃ c : PkeCmd, ∃ cs : List PkeCmd, (s.pke.queue = c :: cs) ∧ (s.rb F.PKE_CTRL_EN = true) ∧
      (s.ready Fn.PKE = true) ∧ (c.opc = 12) ∧ (s.attestStop = true)) ∧
    (∃ s : Machine.State, ∃ c : PkeCmd, ∃ cs : List PkeCmd, ∃ nonce : List Byte, (s.pke.queue = c :: cs) ∧
      (s.rb F.PKE_CTRL_EN = true) ∧ (s.ready Fn.PKE = true) ∧ (c.opc = 12) ∧ (s.attestStop = false) ∧
      (okIs (s.pkeIn c.inp 48) nonce = true) ∧ (s.writable Ini.PKE c.outp ((s.report nonce).length + 96) = true)) ∧
    (∃ s : Machine.State, ∃ c : PkeCmd, ∃ cs : List PkeCmd, (s.pke.queue = c :: cs) ∧ (s.rb F.PKE_CTRL_EN = true) ∧
      (s.ready Fn.PKE = true) ∧ (c.opc = 13) ∧ (c.ini ≠ Ini.MC5 ∨ s.lifecycle ≠ 3)) ∧
    (∃ s : Machine.State, ∃ c : PkeCmd, ∃ cs : List PkeCmd, (s.pke.queue = c :: cs) ∧ (s.rb F.PKE_CTRL_EN = true) ∧
      (s.ready Fn.PKE = true) ∧ (c.opc = 13) ∧
      let x : Nat := c.f 6 7 0;
      (c.ini = Ini.MC5) ∧ (s.lifecycle = 3) ∧ (x ≤ 7) ∧ (c.len < s.minSvn x)) ∧
    (∃ s : Machine.State, ∃ c : PkeCmd, ∃ cs : List PkeCmd, (s.pke.queue = c :: cs) ∧ (s.rb F.PKE_CTRL_EN = true) ∧
      (s.ready Fn.PKE = true) ∧ (c.opc = 13) ∧
      let x : Nat := c.f 6 7 0;
      (c.ini = Ini.MC5) ∧ (s.lifecycle = 3) ∧ (x ≤ 7) ∧ (s.minSvn x ≤ c.len) ∧ (c.len ≤ 63)) ∧
    (∃ s : Machine.State, ∃ c : PkeCmd, ∃ cs : List PkeCmd, (s.pke.queue = c :: cs) ∧ (s.rb F.PKE_CTRL_EN = true) ∧
      (s.ready Fn.PKE = true) ∧ (c.opc = 14) ∧ (c.ini ≠ Ini.MC5 ∨ s.lifecycle ≠ 3)) ∧
    (∃ s : Machine.State, ∃ c : PkeCmd, ∃ cs : List PkeCmd, (s.pke.queue = c :: cs) ∧ (s.rb F.PKE_CTRL_EN = true) ∧
      (s.ready Fn.PKE = true) ∧ (c.opc = 14) ∧
      let rev : Nat := s.revoked ||| 2 ^ c.f 6 7 0;
      (c.ini = Ini.MC5) ∧ (s.lifecycle = 3) ∧ (rev = 15)) ∧
    (∃ s : Machine.State, ∃ c : PkeCmd, ∃ cs : List PkeCmd, (s.pke.queue = c :: cs) ∧ (s.rb F.PKE_CTRL_EN = true) ∧
      (s.ready Fn.PKE = true) ∧ (c.opc = 14) ∧
      let rev : Nat := s.revoked ||| 2 ^ c.f 6 7 0;
      (c.ini = Ini.MC5) ∧ (s.lifecycle = 3) ∧ (c.f 6 7 0 ≤ 3) ∧ (rev ≠ 15)) ∧
    (∃ s : Machine.State, ∃ i : Init, ∃ x : KRes, ∃ xs : List KRes, (s.MayRead i R.PKE_RES) ∧ (s.pke.results = x :: xs)) ∧
    (∃ s : Machine.State, ∃ i : Init, (s.MayRead i R.PKE_RNG) ∧ (s.rb F.PKE_STAT_DRBGOK = false)) ∧
    (∃ s : Machine.State, ∃ i : Init, (s.MayRead i R.PKE_RNG) ∧ (s.rb F.PKE_STAT_DRBGOK = true)) ∧
    (∃ c : Instr, (c ∈ [Instr.entropyStartupTest false, Instr.healthTestFail])) ∧
    (∃ s : Machine.State, (s.rb F.PKE_STAT_DRBGOK = true)) ∧
    (∃ s : Machine.State, ∃ target : Fin 8, ∃ off : Nat, (s.sys.phase = 3) ∧ (target ≠ 0) ∧ (s.sys.mc5 = true) ∧
      (s.ready Fn.PKE = true) ∧
      let g : Nat → Byte := fun o => s.flashByte (off + o);
      (s.verifyHeader g ↑target ≠ St.OK)) ∧
    (∃ s : Machine.State, (3 ≤ s.rf F.PKE_DBGSTAT_FAIL)) ∧
    (∃ s : Machine.State, (s.rf F.PKE_DBGSTAT_FAIL < 3)) ∧
    (∃ s : Machine.State, ∃ scope : BitVec 8, ∃ challenge : List (BitVec 8), ∃ pubkey : List (BitVec 8),
      ∃ sig : List (BitVec 8), (s.rf F.PKE_DBGSTAT_FAIL < 3) ∧
      let good : Prop := s.pke.challenge = some challenge ∧ (scope = 1 ∨ scope = 2) ∧ sha384b pubkey = s.otpBytes 320 48 ∧
      ecdsaOk (sha384b ([scope] ++ challenge ++ pubkey)) pubkey sig = true;
      (¬good)) :=
    ⟨⟨reset.setReg (R.PKE_CMD_W 0) 0x0A000000, 9, 1, by decide +kernel⟩,
    ⟨reset, 9, 1, St.TYPE, by decide +kernel⟩,
    ⟨{ reset with pke.queue := [] }, ((Instr.pkeHash, 1)), by decide +kernel⟩,
    ⟨{ reset with pke.queue := (⟨9,[]⟩) :: ([]) }, ((Instr.pkeHash, 1)), (⟨9,[]⟩), ([]), by decide +kernel⟩,
    ⟨({ reset with pke.queue := [⟨9, [0x01000000]⟩] } : State).wb F.PKE_CTRL_EN true, ((.pkeHash, 1)),
      (⟨9, [0x01000000]⟩), ([]), by decide +kernel⟩,
    ⟨pkeRun ⟨9, [0x01000000, 0, 0, 0, 0x11370000]⟩, (⟨9, [0x01000000, 0, 0, 0, 0x11370000]⟩), ([]), ([]),
      by decide +kernel⟩,
    ⟨withKey (pkeRun ⟨9, [0x02000000, 0, 0, 0, 0x11370000]⟩) 0 2 0xFF (List.replicate 32 0),
      (⟨9, [0x02000000, 0, 0, 0, 0x11370000]⟩), ([]), ([]), (List.replicate 32 0), by decide +kernel⟩,
    ⟨pkeRun ⟨9, [0x02000000]⟩, (⟨9, [0x02000000]⟩), ([]), St.NOKEY, by decide +kernel⟩,
    ⟨withKey (pkeRun ⟨9, [0x03000000, 0x00010000]⟩) 0 2 0xFF (List.replicate 32 0), (⟨9, [0x03000000, 0x00010000]⟩), ([]),
      ([]), (List.replicate 32 0), by decide +kernel⟩,
    ⟨pkeRun ⟨9, [0x04000000, 0, 0, 0, 0x11370000]⟩, (⟨9, [0x04000000, 0, 0, 0, 0x11370000]⟩), ([]), by decide +kernel⟩,
    ⟨pkeRun ⟨9, [0x04000000, 0x03FF0000]⟩, (⟨9, [0x04000000, 0x03FF0000]⟩), ([]), St.RIGHTS, by decide +kernel⟩,
    ⟨withKey (pkeRun ⟨9, [0x05000000, 0, 0, 0, 0x11370000]⟩) 0 3 0xFF (List.replicate 47 0 ++ [1]),
      (⟨9, [0x05000000, 0, 0, 0, 0x11370000]⟩), ([]), (List.replicate 47 0 ++ [1]), by decide +kernel⟩,
    ⟨withKey (pkeRun ⟨9, [0x06000000, 0, 0x11370100, 0, 0x11370000]⟩) 0 3 0xFF (List.replicate 47 0 ++ [1]),
      (⟨9, [0x06000000, 0, 0x11370100, 0, 0x11370000]⟩), ([]), (List.replicate 47 0 ++ [1]), (List.replicate 48 0),
      by decide +kernel⟩,
    ⟨pkeRun ⟨9, [0x07000000]⟩, (⟨9, [0x07000000]⟩), ([]), by decide +kernel⟩,
    ⟨withKey (pkeRun ⟨9, [0x08000000, 0x00010000, 0x11370100]⟩) 0 3 0xFF (List.replicate 47 0 ++ [1]),
      (⟨9, [0x08000000, 0x00010000, 0x11370100]⟩), ([]), (List.replicate 47 0 ++ [1]), (List.replicate 96 0),
      by decide +kernel⟩,
    ⟨withKey (State.store (pkeRun ⟨9, [0x08000000, 0x00010000, 0x11370100]⟩) 9 0x11370100 (pointBytes (P384.gx, P384.gy))) 0 3 0xFF (List.replicate 47 0 ++ [1]),
      (⟨9, [0x08000000, 0x00010000, 0x11370100]⟩), ([]), (List.replicate 47 0 ++ [1]), (pointBytes (P384.gx, P384.gy)),
      by decide +kernel⟩,
    ⟨pkeRun ⟨9, [0x09000000, 32, 0, 0, 0x11370000]⟩, (⟨9, [0x09000000, 32, 0, 0, 0x11370000]⟩), ([]), by decide +kernel⟩,
    ⟨pkeRun ⟨9, [0x0A000000]⟩, (⟨9, [0x0A000000]⟩), ([]), by decide +kernel⟩,
    ⟨pkeRun ⟨9, [0x0B000000]⟩, (⟨9, [0x0B000000]⟩), ([]), by decide +kernel⟩,
    ⟨pkeRun ⟨9, [0x0B000000, 0, 0x11370000, 0, 0, 0, 3]⟩, (⟨9, [0x0B000000, 0, 0x11370000, 0, 0, 0, 3]⟩), ([]),
      (List.replicate 48 0), by decide +kernel⟩,
    ⟨pkeRun ⟨9, [0x0C000000]⟩, (⟨9, [0x0C000000]⟩), ([]), by decide +kernel⟩,
    ⟨withKey (pkeRun ⟨9, [0x0C000000, 0, 0x11370000, 0, 0x11371000]⟩) 1023 3 0xFF (List.replicate 48 0),
      (⟨9, [0x0C000000, 0, 0x11370000, 0, 0x11371000]⟩), ([]), (List.replicate 48 0), by decide +kernel⟩,
    ⟨pkeRun ⟨4, [0x0D000000]⟩, (⟨4, [0x0D000000]⟩), ([]), by decide +kernel⟩,
    ⟨(pkeRun ⟨9, [0x0D000000]⟩).setReg (R.PKE_OTP 16) 5, (⟨9, [0x0D000000]⟩), ([]), by decide +kernel⟩,
    ⟨pkeRun ⟨9, [0x0D000000, 5]⟩, (⟨9, [0x0D000000, 5]⟩), ([]), by decide +kernel⟩,
    ⟨pkeRun ⟨4, [0x0E000000]⟩, (⟨4, [0x0E000000]⟩), ([]), by decide +kernel⟩,
    ⟨(pkeRun ⟨9, [0x0E000000]⟩).setReg (R.PKE_OTP 1) 14, (⟨9, [0x0E000000]⟩), ([]), by decide +kernel⟩,
    ⟨(pkeRun ⟨9, [0x0E000000]⟩), (⟨9, [0x0E000000]⟩), ([]), by decide +kernel⟩,
    ⟨{ reset with pke.results := (⟨1,2,0⟩) :: ([]) }, 9, (⟨1,2,0⟩), ([]), by decide +kernel⟩,
    ⟨(reset).wb F.PKE_STAT_DRBGOK false, 9, by decide +kernel⟩,
    ⟨(reset).wb F.PKE_STAT_DRBGOK true, 9, by decide +kernel⟩,
    ⟨((.healthTestFail)), by decide +kernel⟩,
    ⟨(reset).wb F.PKE_STAT_DRBGOK true, by decide +kernel⟩,
    ⟨{ ({ S0 with sys.phase := 3 }) with sys.mc5 := true }, 1, 0, by decide +kernel⟩,
    ⟨reset.wf F.PKE_DBGSTAT_FAIL 3, by decide +kernel⟩,
    ⟨reset, by decide +kernel⟩,
    ⟨reset, 0, ([]), ([]), ([]), by decide +kernel⟩⟩

theorem witness_MemoryCare :
    (∃ s : Machine.State, ∃ dram : Bool, (s.scrubs dram = false)) ∧
    (∃ s : Machine.State, (s.scrubs false = true)) ∧
    (∃ s : Machine.State, (s.scrubs true = true)) ∧
    (∃ s : Machine.State, (s.rb F.SRM_CTRL_SCRUB = true)) ∧
    (∃ s : Machine.State, (s.rb F.DRC_CTRL_SCRUB = true)) ∧
    (∃ p : Instr × Fld × Nat × Bool,
      (p ∈ [(Instr.backgroundWindowOpen false, F.SRM_STAT_INWIN, R.SRM_STAT, true), (Instr.backgroundWindowClose false, F.SRM_STAT_INWIN, R.SRM_STAT, false), (Instr.backgroundWindowOpen true, F.DRC_STAT_INWIN, R.DRC_STAT, true), (Instr.backgroundWindowClose true, F.DRC_STAT_INWIN, R.DRC_STAT, false)])) ∧
    (∃ s : Machine.State, (s.rf F.SRM_CEALM_N < s.lastSecond s.drc.ceSram)) ∧
    (∃ s : Machine.State, (s.rf F.DRC_CEALM_N < s.lastSecond s.drc.ceDram)) ∧
    (∃ s : Machine.State, (s.rf F.DRC_NREFALM_N < s.lastSecond s.drc.nrefAt)) ∧
    (∃ s : Machine.State, (s.lastSecond s.drc.ceSram ≤ s.rf F.SRM_CEALM_N)) ∧
    (∃ s : Machine.State, (s.lastSecond s.drc.ceDram ≤ s.rf F.DRC_CEALM_N)) ∧
    (∃ s : Machine.State, (s.lastSecond s.drc.nrefAt ≤ s.rf F.DRC_NREFALM_N)) ∧
    (∃ s : Machine.State, ∃ chan : Fin 4, ∃ r : DramReq, (s.rf F.DRC_STAT_STATE = 2) ∧ (s.dramPick ↑chan = some r)) ∧
    (∃ s : Machine.State, (s.dramServes = false) ∧ (s.drc.reqs = [])) ∧
    (∃ s : Machine.State, ∃ k : Nat, ∃ r : DramReq, (s.drc.reqs[k]? = some r) ∧ (r.cls = 1 ∨ r.cls = 2)) ∧
    (∃ s : Machine.State, ∃ k : Nat, ∃ r : DramReq, (s.drc.reqs[k]? = some r) ∧ (¬(r.cls = 1 ∨ r.cls = 2))) ∧
    (∃ s : Machine.State, (s.rf F.DRC_STAT_STATE = 2)) ∧
    (∃ s : Machine.State, (s.rf F.DRC_STAT_STATE = 2)) ∧
    (∃ s : Machine.State, ∃ i : Init, ∃ v : Word, (s.MayWrite i R.DRC_DUMP) ∧ (BitVec.getLsbD v 30 = true)) ∧
    (∃ s : Machine.State, ∃ i : Init, ∃ dram : Bool, ∃ v : Word,
      let ctrl : Nat := if dram = true then R.DRC_INJ_CTRL else R.SRM_INJ_CTRL;
      (s.MayWrite i ctrl) ∧ (BitVec.getLsbD v 31 = true) ∧ (s.injUnusable dram = true)) ∧
    (∃ s : Machine.State, ∃ i : Init, ∃ dram : Bool, ∃ v : Word,
      let ctrl : Nat := if dram = true then R.DRC_INJ_CTRL else R.SRM_INJ_CTRL;
      (s.MayWrite i ctrl) ∧ (BitVec.getLsbD v 31 = true) ∧ (s.injUnusable dram = false) ∧ (bits v 14 8 ≤ 71) ∧
      (bits v 6 0 ≤ 71)) :=
    ⟨⟨reset, false, by decide +kernel⟩,
    ⟨(reset.wb F.SRM_CTRL_SCRUB true).wb F.SRM_STAT_INWIN true, by decide +kernel⟩,
    ⟨((reset.wb F.DRC_CTRL_SCRUB true).wb F.DRC_STAT_INWIN true).wf F.DRC_STAT_STATE 2, by decide +kernel⟩,
    ⟨(reset).wb F.SRM_CTRL_SCRUB true, by decide +kernel⟩,
    ⟨(reset).wb F.DRC_CTRL_SCRUB true, by decide +kernel⟩,
    ⟨((Instr.backgroundWindowOpen false, F.SRM_STAT_INWIN, R.SRM_STAT, true)), by decide +kernel⟩,
    ⟨({ reset with drc.ceSram := [0] } : State).wf F.SRM_CEALM_N 0, by decide +kernel⟩,
    ⟨({ reset with drc.ceDram := [0] } : State).wf F.DRC_CEALM_N 0, by decide +kernel⟩,
    ⟨({ reset with drc.nrefAt := [0] } : State).wf F.DRC_NREFALM_N 0, by decide +kernel⟩,
    ⟨reset, by decide +kernel⟩,
    ⟨reset, by decide +kernel⟩,
    ⟨reset, by decide +kernel⟩,
    ⟨({ reset with drc.reqs := [⟨0, 0, 0⟩] } : State).wf F.DRC_STAT_STATE 2, 0, (⟨0,0,0⟩), by decide +kernel⟩,
    ⟨{ reset with drc.reqs := [] }, by decide +kernel⟩,
    ⟨{ reset with drc.reqs := [⟨0, 0, 1⟩] }, 0, (⟨0, 0, 1⟩), by decide +kernel⟩,
    ⟨{ reset with drc.reqs := [⟨0, 0, 0⟩] }, 0, (⟨0,0,0⟩), by decide +kernel⟩,
    ⟨(reset).wf F.DRC_STAT_STATE 2, by decide +kernel⟩,
    ⟨(reset).wf F.DRC_STAT_STATE 2, by decide +kernel⟩,
    ⟨reset, 9, 0x40000000, by decide +kernel⟩,
    ⟨reset, 9, true, 0x80000000, by decide +kernel⟩,
    ⟨reset.setReg R.SRM_INJ_ADDR 0x10000000, 9, false, 0x80000000, by decide +kernel⟩⟩

theorem witness_DramController :
    (∃ s : Machine.State, ∃ i : Init, ∃ tag : BitVec 8, ∃ speed : Fin 4, ∃ p : Instr × Nat × List Nat × List Nat,
      (s.MayWrite i R.DRC_CMD) ∧
      (p ∈ [(Instr.drcTrain i tag speed, 1, [1, 2, 3, 4], []), (Instr.drcRestore i tag speed, 2, [1, 2, 3, 4], []), (Instr.srEnter i tag speed, 3, [0, 1], [4]), (Instr.srExit i tag speed, 4, [0, 1], [2, 3]), (Instr.drcStop i tag speed, 5, [], [0])]) ∧
      (↑speed = 3)) ∧
    (∃ s : Machine.State, ∃ i : Init, ∃ tag : BitVec 8, ∃ speed : Fin 4, ∃ p : Instr × Nat × List Nat × List Nat,
      let st : Nat := s.rf F.DRC_STAT_STATE;
      (s.MayWrite i R.DRC_CMD) ∧
      (p ∈ [(Instr.drcTrain i tag speed, 1, [1, 2, 3, 4], []), (Instr.drcRestore i tag speed, 2, [1, 2, 3, 4], []), (Instr.srEnter i tag speed, 3, [0, 1], [4]), (Instr.srExit i tag speed, 4, [0, 1], [2, 3]), (Instr.drcStop i tag speed, 5, [], [0])]) ∧
      (↑speed ≤ 2) ∧ (st ∈ p.snd.snd.fst)) ∧
    (∃ s : Machine.State, ∃ i : Init, ∃ tag : BitVec 8, ∃ speed : Fin 4, ∃ p : Instr × Nat × List Nat × List Nat,
      let st : Nat := s.rf F.DRC_STAT_STATE;
      (s.MayWrite i R.DRC_CMD) ∧
      (p ∈ [(Instr.drcTrain i tag speed, 1, [1, 2, 3, 4], []), (Instr.drcRestore i tag speed, 2, [1, 2, 3, 4], []), (Instr.srEnter i tag speed, 3, [0, 1], [4]), (Instr.srExit i tag speed, 4, [0, 1], [2, 3]), (Instr.drcStop i tag speed, 5, [], [0])]) ∧
      (↑speed ≤ 2) ∧ (st ∈ p.snd.snd.snd)) ∧
    (∃ s : Machine.State, ∃ i : Init, ∃ speed : Fin 4,
      let st : Nat := s.rf F.DRC_STAT_STATE;
      (s.MayWrite i R.DRC_CMD) ∧ (↑speed ≤ 2) ∧ (st = 2 ∨ st = 3)) ∧
    (∃ s : Machine.State, ∃ i : Init, ∃ speed : Fin 4,
      let st : Nat := s.rf F.DRC_STAT_STATE;
      (s.MayWrite i R.DRC_CMD) ∧ (↑speed ≤ 2) ∧ (st = 4)) ∧
    (∃ s : Machine.State, ∃ i : Init, ∃ speed : Fin 4,
      let st : Nat := s.rf F.DRC_STAT_STATE;
      (s.MayWrite i R.DRC_CMD) ∧ (↑speed ≤ 2) ∧ (st ≠ 0) ∧ (st ≠ 1 → s.drc.train = none)) ∧
    (∃ s : Machine.State, (s.drc.train = none)) ∧
    (∃ s : Machine.State, ∃ mismatch : Bool, ∃ x : DrcTrain, (s.drc.train = some x) ∧ (x.step = 1) ∧ (mismatch = true)) ∧
    (∃ s : Machine.State, ∃ fail : BitVec 4, ∃ mismatch : Bool, ∃ x : DrcTrain, (s.drc.train = some x) ∧
      (¬(x.step = 1 ∧ mismatch = true)) ∧ (fail ≠ 0)) ∧
    (∃ s : Machine.State, ∃ fail : BitVec 4, ∃ mismatch : Bool, ∃ x : DrcTrain, (s.drc.train = some x) ∧
      (¬(x.step = 1 ∧ mismatch = true)) ∧ (fail = 0) ∧ (x.step ≠ 7)) ∧
    (∃ s : Machine.State, ∃ fail : BitVec 4, ∃ x : DrcTrain,
      let st : Nat := s.rf F.DRC_STAT_STATE;
      (s.drc.train = some x) ∧ (fail = 0) ∧ (x.step = 7) ∧ (st = 1)) ∧
    (∃ s : Machine.State, ∃ i : Init, ∃ x : Res, ∃ xs : List Res, (s.MayRead i R.DRC_RES) ∧ (s.drc.results = x :: xs)) ∧
    (∃ s : Machine.State,
      let st : Nat := s.rf F.DRC_STAT_STATE;
      (s.rb F.DRC_CTRL_SRIDLEEN = true) ∧ (st = 2) ∧ (s.drc.reqs = [])) ∧
    (∃ s : Machine.State,
      let st : Nat := s.rf F.DRC_STAT_STATE;
      (s.rb F.DRC_CTRL_SRIDLEEN = false ∨ st ≠ 2 ∨ s.drc.reqs ≠ [])) :=
    ⟨⟨reset, 9, 0, 3, ((.drcTrain 9 0 3, 1, [1, 2, 3, 4], [])), by decide +kernel⟩,
    ⟨reset.wf F.DRC_STAT_STATE 1, 9, 0, 0, ((.drcTrain 9 0 0, 1, [1, 2, 3, 4], [])), by decide +kernel⟩,
    ⟨reset.wf F.DRC_STAT_STATE 4, 9, 0, 0, ((.srEnter 9 0 0, 3, [0, 1], [4])), by decide +kernel⟩,
    ⟨reset.wf F.DRC_STAT_STATE 2, 9, 0, by decide +kernel⟩,
    ⟨reset.wf F.DRC_STAT_STATE 4, 9, 0, by decide +kernel⟩,
    ⟨reset.wf F.DRC_STAT_STATE 2, 9, 0, by decide +kernel⟩,
    ⟨{ reset with drc.train := none }, by decide +kernel⟩,
    ⟨{ reset with drc.train := some ⟨1, 0, 0, 1⟩ }, true, (⟨1, 0, 0, 1⟩), by decide +kernel⟩,
    ⟨{ reset with drc.train := some ⟨1, 0, 0, 1⟩ }, 1, false, (⟨1, 0, 0, 1⟩), by decide +kernel⟩,
    ⟨{ reset with drc.train := some (⟨1,0,0,0⟩) }, 0, false, (⟨1,0,0,0⟩), by decide +kernel⟩,
    ⟨({ reset with drc.train := some ⟨1, 0, 0, 7⟩ } : State).wf F.DRC_STAT_STATE 1, 0, (⟨1, 0, 0, 7⟩), by decide +kernel⟩,
    ⟨{ reset with drc.results := res0 :: ([]) }, 9, res0, ([]), by decide +kernel⟩,
    ⟨(reset.wb F.DRC_CTRL_SRIDLEEN true).wf F.DRC_STAT_STATE 2, by decide +kernel⟩,
    ⟨(reset).wb F.DRC_CTRL_SRIDLEEN false, by decide +kernel⟩⟩

theorem witness_DictionaryProtocol :
    (∃ s : Machine.State, ∃ src : Nat, ∃ l : List Byte, ∃ rest : List (Nat × List Byte), (s.ode.req = none) ∧
      (s.rb F.ODE_CTRL_EN = true) ∧ (s.ode.rxq = (src, l) :: rest) ∧ (s.ode.held = []) ∧ (l.length < 12)) ∧
    (∃ s : Machine.State, ∃ src : Nat, ∃ l : List Byte, ∃ rest : List (Nat × List Byte), (s.ode.req = none) ∧
      (s.rb F.ODE_CTRL_EN = true) ∧ (s.ode.rxq = (src, l) :: rest) ∧ (s.ode.held = []) ∧
      let r : OdeReq := reqOf src l 0;
      (12 ≤ l.length) ∧ (r.op ≠ Hdp.OPEN) ∧ (s.session r.sid = none)) ∧
    (∃ s : Machine.State, ∃ src : Nat, ∃ l : List Byte, ∃ rest : List (Nat × List Byte), (s.ode.req = none) ∧
      (s.rb F.ODE_CTRL_EN = true) ∧ (s.ode.rxq = (src, l) :: rest) ∧ (s.ode.held = []) ∧
      let r : OdeReq := reqOf src l 0;
      (12 ≤ l.length) ∧ (r.op = Hdp.OPEN) ∧ (r.sid = 0) ∧ (formatOk l (firstReq src l) = true) ∧
      (s.turnedAway src = none)) ∧
    (∃ s : Machine.State, ∃ src : Nat, ∃ l : List Byte, ∃ rest : List (Nat × List Byte), (s.ode.req = none) ∧
      (s.rb F.ODE_CTRL_EN = true) ∧ (s.ode.rxq = (src, l) :: rest) ∧ (s.ode.held = []) ∧
      let r : OdeReq := reqOf src l 0;
      (12 ≤ l.length) ∧ (r.op = Hdp.OPEN) ∧ (r.sid ≠ 0)) ∧
    (∃ s : Machine.State, ∃ src : Nat, ∃ l : List Byte, ∃ rest : List (Nat × List Byte), ∃ x : Session,
      (s.ode.req = none) ∧ (s.rb F.ODE_CTRL_EN = true) ∧ (s.ode.rxq = (src, l) :: rest) ∧ (s.ode.held = []) ∧
      let r : OdeReq := reqOf src l 0;
      (12 ≤ l.length) ∧ (r.op ≠ Hdp.OPEN) ∧ (s.session r.sid = some x) ∧ (x.src = src) ∧ (x.up = true) ∧
      (x.auth = false) ∧ (r.seq < x.seqIn) ∧ (formatOk l r = true)) ∧
    (∃ s : Machine.State, ∃ src : Nat, ∃ l : List Byte, ∃ rest : List (Nat × List Byte), ∃ x : Session,
      (s.ode.req = none) ∧ (s.rb F.ODE_CTRL_EN = true) ∧ (s.ode.rxq = (src, l) :: rest) ∧ (s.ode.held = []) ∧
      let r : OdeReq := reqOf src l 0;
      (12 ≤ l.length) ∧ (r.op ≠ Hdp.OPEN) ∧ (s.session r.sid = some x) ∧ (x.src = src) ∧ (x.up = true) ∧
      (x.auth = false) ∧ (r.seq = x.seqIn) ∧ (x.seqIn ≠ 0) ∧ (formatOk l r = true)) ∧
    (∃ s : Machine.State, ∃ src : Nat, ∃ l : List Byte, ∃ rest : List (Nat × List Byte), ∃ x : Session,
      (s.ode.req = none) ∧ (s.rb F.ODE_CTRL_EN = true) ∧ (s.ode.rxq = (src, l) :: rest) ∧ (s.ode.held = []) ∧
      let r : OdeReq := reqOf src l 0;
      (12 ≤ l.length) ∧ (r.op ≠ Hdp.OPEN) ∧ (s.session r.sid = some x) ∧ (x.src = src) ∧ (x.up = true) ∧
      (x.auth = false) ∧ (x.seqIn < r.seq) ∧ (s.turnedAway src = none) ∧ (formatOk l r = true) ∧
      (hdpOps.contains r.op = true) ∧ (r.flags / 2 % 2 = 0)) ∧
    (∃ s : Machine.State, ∃ src : Nat, ∃ l : List Byte, ∃ rest : List (Nat × List Byte), ∃ x : Session, ∃ k : List Byte,
      (s.ode.req = none) ∧ (s.rb F.ODE_CTRL_EN = true) ∧ (s.ode.rxq = (src, l) :: rest) ∧ (s.ode.held = []) ∧
      let r : OdeReq := reqOf src l 0;
      (12 ≤ l.length) ∧ (r.op ≠ Hdp.OPEN) ∧ (s.session r.sid = some x) ∧ (x.src = src) ∧ (x.up = true) ∧ (x.auth = true) ∧
      (s.hdpKey x.slot = some k) ∧ (List.drop (l.length - 16) l ≠ x.tag k 0 (List.take (l.length - 16) l))) ∧
    (∃ s : Machine.State, ∃ src : Nat, ∃ l : List Byte, ∃ rest : List (Nat × List Byte), ∃ x : Session,
      (s.ode.req = none) ∧ (s.rb F.ODE_CTRL_EN = true) ∧ (s.ode.rxq = (src, l) :: rest) ∧ (s.ode.held = []) ∧
      let r : OdeReq := reqOf src l 0;
      (12 ≤ l.length) ∧ (r.op ≠ Hdp.OPEN) ∧ (s.session r.sid = some x) ∧ (x.src = src) ∧ (x.up = true) ∧ (x.auth = true) ∧
      (s.hdpKey x.slot = none)) ∧
    (∃ s : Machine.State, (s.ode.req.isSome = true ∨ s.rb F.ODE_CTRL_EN = false ∨ s.ode.rxq = [])) ∧
    (∃ s : Machine.State, ∃ c : Instr, (s.ode.req = none) ∧
      (c ∈ [Instr.hdpOpen, Instr.hdpAuth, Instr.hdpClose, Instr.hdpPing, Instr.hdpRead, Instr.hdpWrite, Instr.hdpWriteMulti, Instr.hdpInvoke, Instr.hdpDescribe, Instr.hdpSubscribe, Instr.hdpEventAck, Instr.hdpDigest, Instr.hdpReadNet])) ∧
    (∃ s : Machine.State, ∃ r : OdeReq, (s.ode.req = some r) ∧ (r.waits = none) ∧ (r.op = Hdp.OPEN) ∧
      let b : Nat := bytesNat (List.take 1 r.payload);
      let net : Bool := decide (128 ≤ b);
      let auth : Bool := r.flags / 2 % 2 == 1;
      let bad : Prop := r.payload.length ≠ 17 ∨ b / 4 % 32 ≠ 0 ∨ net = true ∧
      b % 4 ≠ 0 ∨ 16 ≤ s.ode.sessions.length ∨ auth = true ∧ s.hdpKey (s.slotOfClass (b % 4) net) = none ∨ auth = false ∧
      s.openFree r.src (b % 4) net = false;
      (bad)) ∧
    (∃ s : Machine.State, ∃ r : OdeReq, (s.ode.req = some r) ∧ (r.waits = none) ∧ (r.op = Hdp.OPEN) ∧
      let b : Nat := bytesNat (List.take 1 r.payload);
      let net : Bool := decide (128 ≤ b);
      let auth : Bool := r.flags / 2 % 2 == 1;
      let bad : Prop := r.payload.length ≠ 17 ∨ b / 4 % 32 ≠ 0 ∨ net = true ∧
      b % 4 ≠ 0 ∨ 16 ≤ s.ode.sessions.length ∨ auth = true ∧ s.hdpKey (s.slotOfClass (b % 4) net) = none ∨ auth = false ∧
      s.openFree r.src (b % 4) net = false;
      (¬bad)) ∧
    (∃ s : Machine.State, ∃ r : OdeReq, ∃ x : Session, ∃ k : List Byte, (s.ode.req = some r) ∧ (r.waits = none) ∧
      (s.session r.sid = some x) ∧ (r.op = Hdp.AUTH) ∧ (x.up = false) ∧ (r.payload.length = 16) ∧
      (s.hdpKey x.slot = some k) ∧
      let good : Prop := r.payload = macOf k (proofText 72 68 80 99 ++ [BitVec.ofNat 8 (if x.net = true then 128 else x.cls), BitVec.ofNat 8 x.sid] ++ x.nc ++ x.nd);
      (good)) ∧
    (∃ s : Machine.State, ∃ r : OdeReq, ∃ x : Session, ∃ k : List Byte, (s.ode.req = some r) ∧ (r.waits = none) ∧
      (s.session r.sid = some x) ∧ (r.op = Hdp.AUTH) ∧ (x.up = false) ∧ (r.payload.length = 16) ∧
      (s.hdpKey x.slot = some k) ∧
      let good : Prop := r.payload = macOf k (proofText 72 68 80 99 ++ [BitVec.ofNat 8 (if x.net = true then 128 else x.cls), BitVec.ofNat 8 x.sid] ++ x.nc ++ x.nd);
      (¬good)) ∧
    (∃ s : Machine.State, ∃ r : OdeReq, ∃ x : Session, (s.ode.req = some r) ∧ (r.waits = none) ∧
      (s.session r.sid = some x) ∧ (r.op = Hdp.CLOSE) ∧ (r.payload = [])) ∧
    (∃ s : Machine.State, ∃ r : OdeReq, ∃ x : Session, (s.ode.req = some r) ∧ (r.waits = none) ∧
      (s.session r.sid = some x) ∧ (r.op = Hdp.PING) ∧ (r.payload = [])) ∧
    (∃ s : Machine.State, ∃ r : OdeReq, ∃ x : Session, (s.ode.req = some r) ∧ (r.waits = none) ∧
      (s.session r.sid = some x) ∧ (r.op = Hdp.PING) ∧ (r.payload ≠ [])) ∧
    (∃ s : Machine.State, ∃ r : OdeReq, ∃ x : Session, ∃ ref : Nat, ∃ st : Nat, (s.ode.req = some r) ∧ (r.waits = none) ∧
      (s.session r.sid = some x) ∧ (r.op = Hdp.READ) ∧ (ref < 2 ^ 32) ∧ (r.payload = natBytes 1 1 ++ natBytes 4 ref) ∧
      (errIs (s.accessCheck Acc.READ (s.clsOf r) ref 0 []) st = true)) ∧
    (∃ s : Machine.State, ∃ r : OdeReq, ∃ x : Session, ∃ ref : Nat, ∃ d : Desc, ∃ l : List (Nat × List Byte),
      ∃ v : List Byte, (s.ode.req = some r) ∧ (r.waits = none) ∧ (s.session r.sid = some x) ∧ (r.op = Hdp.READ) ∧
      (ref < 2 ^ 32) ∧ (r.payload = natBytes 1 1 ++ natBytes 4 ref) ∧
      (okIs (s.accessCheck Acc.READ (s.clsOf r) ref 0 []) (d, l) = true) ∧ (d.bind = 1) ∧
      ((s.readParam d ref (List.map (fun y => y.fst) l)).snd = ReadRes.val v) ∧ (4 + v.length ≤ 1372)) ∧
    (∃ s : Machine.State, ∃ r : OdeReq, ∃ x : Session, ∃ ref : Nat, ∃ typ : Nat, ∃ v : List Byte, ∃ st : Nat,
      (s.ode.req = some r) ∧ (r.waits = none) ∧ (s.session r.sid = some x) ∧ (r.op = Hdp.WRITE) ∧
      (takeWrites 1 r.payload = some [(ref, typ, v)]) ∧
      (errIs (s.accessCheck Acc.WRITE (s.clsOf r) ref typ v) st = true)) ∧
    (∃ s : Machine.State, ∃ r : OdeReq, ∃ x : Session, ∃ ref : Nat, ∃ typ : Nat, ∃ v : List Byte, ∃ d : Desc,
      ∃ l : List (Nat × List Byte), (s.ode.req = some r) ∧ (r.waits = none) ∧ (s.session r.sid = some x) ∧
      (r.op = Hdp.WRITE) ∧ (takeWrites 1 r.payload = some [(ref, typ, v)]) ∧
      (okIs (s.accessCheck Acc.WRITE (s.clsOf r) ref typ v) (d, l) = true) ∧ (d.bind = 1)) ∧
    (∃ s : Machine.State, ∃ r : OdeReq, ∃ x : Session, (s.ode.req = some r) ∧ (r.waits = none) ∧
      (s.session r.sid = some x) ∧ (r.op = Hdp.WRITE) ∧ (takeWrites 1 r.payload = none)) ∧
    (∃ s : Machine.State, ∃ r : OdeReq, ∃ x : Session, (s.ode.req = some r) ∧ (r.waits = none) ∧
      (s.session r.sid = some x) ∧ (r.op = Hdp.WRITE_MULTI) ∧
      let n : Nat := bytesNat (List.take 1 r.payload);
      (takeWrites n r.payload.tail = none ∨ n < 1 ∨ 32 < n)) ∧
    (∃ s : Machine.State, ∃ r : OdeReq, ∃ x : Session, ∃ ws : List (Nat × Nat × List Byte), ∃ k : Nat, ∃ st : Nat,
      (s.ode.req = some r) ∧ (r.waits = none) ∧ (s.session r.sid = some x) ∧ (r.op = Hdp.WRITE_MULTI) ∧
      let n : Nat := bytesNat (List.take 1 r.payload);
      (takeWrites n r.payload.tail = some ws) ∧ (1 ≤ n) ∧ (n ≤ 32) ∧
      (errIs (s.checkMulti (s.clsOf r) 0 ws) (k, st) = true)) ∧
    (∃ s : Machine.State, ∃ r : OdeReq, ∃ x : Session, ∃ ref : Nat, ∃ typ : Nat, ∃ v : List Byte, ∃ st : Nat,
      (s.ode.req = some r) ∧ (r.waits = none) ∧ (s.session r.sid = some x) ∧ (r.op = Hdp.INVOKE) ∧
      (takeWrites 1 r.payload = some [(ref, typ, v)]) ∧
      (errIs (s.accessCheck Acc.INVOKE (s.clsOf r) ref typ v) st = true)) ∧
    (∃ s : Machine.State, ∃ r : OdeReq, ∃ x : Session, ∃ ref : Nat, ∃ typ : Nat, ∃ v : List Byte, ∃ d : Desc,
      ∃ l : List (Nat × List Byte), (s.ode.req = some r) ∧ (r.waits = none) ∧ (s.session r.sid = some x) ∧
      (r.op = Hdp.INVOKE) ∧ (takeWrites 1 r.payload = some [(ref, typ, v)]) ∧
      (okIs (s.accessCheck Acc.INVOKE (s.clsOf r) ref typ v) (d, l) = true) ∧ (d.bind = 2) ∧ (v.length ≤ 1024)) ∧
    (∃ s : Machine.State, ∃ r : OdeReq, ∃ x : Session, ∃ st : Nat, (s.ode.req = some r) ∧ (r.waits = none) ∧
      (s.session r.sid = some x) ∧ (r.op = Hdp.DESCRIBE) ∧ (r.payload.length = 4) ∧
      (errIs (s.refCheck (bytesNat r.payload)) st = true)) ∧
    (∃ s : Machine.State, ∃ r : OdeReq, ∃ x : Session, ∃ d : Desc, ∃ l : List Nat, ∃ a : Nat, (s.ode.req = some r) ∧
      (r.waits = none) ∧ (s.session r.sid = some x) ∧ (r.op = Hdp.DESCRIBE) ∧ (r.payload.length = 4) ∧
      (okIs (s.refCheck (bytesNat r.payload)) (d, l) = true) ∧ (s.descAddr d.area d.item = some a)) ∧
    (∃ s : Machine.State, ∃ r : OdeReq, ∃ x : Session, (s.ode.req = some r) ∧ (r.waits = none) ∧
      (s.session r.sid = some x) ∧ (r.op = Hdp.SUBSCRIBE) ∧ (r.payload.length = 32) ∧
      (s.rb F.EVR_SUBSTAT_SUBEN = false)) ∧
    (∃ s : Machine.State, ∃ r : OdeReq, ∃ x : Session, (s.ode.req = some r) ∧ (r.waits = none) ∧
      (s.session r.sid = some x) ∧ (r.op = Hdp.SUBSCRIBE) ∧ (r.payload.length = 32) ∧ (s.rb F.EVR_SUBSTAT_SUBEN = true)) ∧
    (∃ s : Machine.State, ∃ r : OdeReq, ∃ x : Session, ∃ e : EvSent, (s.ode.req = some r) ∧ (r.waits = none) ∧
      (s.session r.sid = some x) ∧ (r.op = Hdp.EVENT_ACK) ∧ (r.payload.length = 4) ∧ (x.sent = some e) ∧
      (e.seq = bytesNat r.payload)) ∧
    (∃ s : Machine.State, ∃ r : OdeReq, ∃ x : Session, (s.ode.req = some r) ∧ (r.waits = none) ∧
      (s.session r.sid = some x) ∧ (r.op = Hdp.DIGEST) ∧ (r.payload = [])) ∧
    (∃ s : Machine.State, ∃ r : OdeReq, ∃ x : Session, (s.ode.req = some r) ∧ (r.waits = none) ∧
      (s.session r.sid = some x) ∧ (r.op = Hdp.READ_NET) ∧ (r.payload.length ≠ 3)) ∧
    (∃ s : Machine.State, ∃ r : OdeReq, ∃ x : Session, (s.ode.req = some r) ∧ (r.waits = none) ∧
      (s.session r.sid = some x) ∧ (r.op = Hdp.READ_NET) ∧ (r.payload.length = 3)) :=
    ⟨⟨{ ({ (({ reset with ode.req := none }).wb F.ODE_CTRL_EN true) with ode.rxq := (0, ([])) :: ([]) }) with ode.held := [] }, 0, ([]), ([]), by decide +kernel⟩,
    ⟨rx (pdu 4 9 1 []) ses, 3, (pdu 4 9 1 []), ([]), by decide +kernel⟩,
    ⟨rx (pdu 1 0 1 []) ses, 3, (pdu 1 0 1 []), ([]), by decide +kernel⟩,
    ⟨rx (pdu 1 1 1 []) ses, 3, (pdu 1 1 1 []), ([]), by decide +kernel⟩,
    ⟨rx (pdu 4 1 1 []) { ses with seqIn := 2 }, 3, (pdu 4 1 1 []), ([]), ({ ses with seqIn := 2 }), by decide +kernel⟩,
    ⟨rx (pdu 4 1 1 []) { ses with seqIn := 1 }, 3, (pdu 4 1 1 []), ([]), ({ ses with seqIn := 1 }), by decide +kernel⟩,
    ⟨rx (pdu 4 1 1 []) ses, 3, (pdu 4 1 1 []), ([]), ses, by decide +kernel⟩,
    ⟨withKey (rx (pdu 4 1 1 (List.replicate 16 0)) sesA) 0 1 0xFF key32, 3, (pdu 4 1 1 (List.replicate 16 0)), ([]), sesA,
      key32, by decide +kernel⟩,
    ⟨rx (pdu 4 1 1 (List.replicate 16 0)) sesA, 3, (pdu 4 1 1 (List.replicate 16 0)), ([]), sesA, by decide +kernel⟩,
    ⟨reset, by decide +kernel⟩,
    ⟨{ reset with ode.req := none }, .hdpOpen, by decide +kernel⟩,
    ⟨dreq 1 [], (oreq 1 []), by decide +kernel⟩,
    ⟨withKey { dreq 1 [] with ode.req := some { oreq 1 (2 :: List.replicate 16 0) with flags := 0x12 } } 1018 1 0xFF key32,
      ({ oreq 1 (2 :: List.replicate 16 0) with flags := 0x12 }), by decide +kernel⟩,
    ⟨withKey { dict with ode.req := some (oreq 2 (macOf key32 (proofText 72 68 80 99 ++ [0, 1]))), ode.sessions := [{ ses with up := false }] } 0 1 0xFF key32,
      (oreq 2 (macOf key32 (proofText 72 68 80 99 ++ [0, 1]))), ({ ses with up := false }), key32, by decide +kernel⟩,
    ⟨withKey { dict with ode.req := some (oreq 2 (List.replicate 16 0)), ode.sessions := [{ ses with up := false }] } 0 1 0xFF key32,
      (oreq 2 (List.replicate 16 0)), ({ ses with up := false }), key32, by decide +kernel⟩,
    ⟨dreq 3 [], (oreq 3 []), ses, by decide +kernel⟩,
    ⟨dreq 4 [], (oreq 4 []), ses, by decide +kernel⟩,
    ⟨dreq 4 [1], (oreq 4 [1]), ses, by decide +kernel⟩,
    ⟨dreq 16 (natBytes 1 1 ++ natBytes 4 0), (oreq 16 (natBytes 1 1 ++ natBytes 4 0)), ses, 0, St.ABSENT,
      by decide +kernel⟩,
    ⟨dreq 16 (natBytes 1 1 ++ natBytes 4 0x01001FFF), (oreq 16 (natBytes 1 1 ++ natBytes 4 0x01001FFF)), ses, 0x01001FFF,
      (descOf 0x01001002 0x1FC00004 0 0xFFFF001F), ([(0, [])]),
      (((State.readParam (dreq 16 (natBytes 1 1 ++ natBytes 4 0x01001FFF)) (descOf 0x01001002 0x1FC00004 0 0xFFFF001F) 0x01001FFF [0]).2 |> fun r => match r with | .val v => v | _ => [])),
      by decide +kernel⟩,
    ⟨dreq 17 (wr 0 [1]), (oreq 17 (wr 0 [1])), ses, 0, 0, ([1]), St.ABSENT, by decide +kernel⟩,
    ⟨dreq 17 (wr 0x01001FFF [1]), (oreq 17 (wr 0x01001FFF [1])), ses, 0x01001FFF, 0, ([1]),
      (descOf 0x01001002 0x1FC00004 0 0xFFFF001F), ([(0, [1])]), by decide +kernel⟩,
    ⟨dreq 17 [], (oreq 17 []), ses, by decide +kernel⟩,
    ⟨dreq 18 [], (oreq 18 []), ses, by decide +kernel⟩,
    ⟨dreq 18 (1 :: wr 0 [1]), (oreq 18 (1 :: wr 0 [1])), ses, ([(0, 0, [1])]), 0, St.ABSENT, by decide +kernel⟩,
    ⟨dreq 19 (wr 0 [1]), (oreq 19 (wr 0 [1])), ses, 0, 0, ([1]), St.ABSENT, by decide +kernel⟩,
    ⟨dreq 19 (wr 0x01002FFF [1]), (oreq 19 (wr 0x01002FFF [1])), ses, 0x01002FFF, 0, ([1]),
      (descOf 0x01002008 0x2FC00004 0 0xFFFF001F), ([(0, [1])]), by decide +kernel⟩,
    ⟨dreq 20 (natBytes 4 0), (oreq 20 (natBytes 4 0)), ses, St.ABSENT, by decide +kernel⟩,
    ⟨dreq 20 (natBytes 4 0x01001FFF), (oreq 20 (natBytes 4 0x01001FFF)), ses, (descOf 0x01001002 0x1FC00004 0 0xFFFF001F),
      ([0]), imgDesc, by decide +kernel⟩,
    ⟨(dreq 32 (List.replicate 32 0)).wb F.EVR_SUBSTAT_SUBEN false, (oreq 32 (List.replicate 32 0)), ses,
      by decide +kernel⟩,
    ⟨(dreq 32 (List.replicate 32 0)).wb F.EVR_SUBSTAT_SUBEN true, (oreq 32 (List.replicate 32 0)), ses,
      by decide +kernel⟩,
    ⟨{ dict with ode.req := some (oreq 34 (natBytes 4 1)), ode.sessions := [{ ses with sent := some ⟨1, [], 0⟩ }] },
      (oreq 34 (natBytes 4 1)), ({ ses with sent := some ⟨1, [], 0⟩ }), (⟨1, [], 0⟩), by decide +kernel⟩,
    ⟨dreq 48 [], (oreq 48 []), ses, by decide +kernel⟩,
    ⟨dreq 49 [], (oreq 49 []), ses, by decide +kernel⟩,
    ⟨dreq 49 [0, 0, 0], (oreq 49 [0, 0, 0]), ses, by decide +kernel⟩⟩

theorem witness_DictionaryTransports :
    (∃ s : Machine.State, ∃ i : Init, ∃ v : Word, (s.MayWrite i R.ODE_MBXIN_PUSH) ∧
      let n : Nat := bits v 10 0;
      let a : Nat := s.regN R.ODE_MBXIN_ADDR;
      (n < 12 ∨ 1400 < n ∨ inShared a n = false)) ∧
    (∃ s : Machine.State, ∃ i : Init, ∃ v : Word, (s.MayWrite i R.ODE_MBXIN_PUSH) ∧
      let n : Nat := bits v 10 0;
      let a : Nat := s.regN R.ODE_MBXIN_ADDR;
      (12 ≤ n) ∧ (n ≤ 1400) ∧ (inShared a n = true) ∧ (s.eccBad a n = false) ∧ (s.rb F.ODE_CTRL_UDP = true)) ∧
    (∃ s : Machine.State, ∃ i : Init, (s.MayRead i R.ODE_MBXOUT) ∧ (s.ode.mbxOut = [])) ∧
    (∃ s : Machine.State, ∃ i : Init, ∃ src : Nat, ∃ l : List Byte, ∃ rest : List (Nat × List Byte),
      (s.MayRead i R.ODE_MBXOUT) ∧ (s.ode.mbxOut = (src, l) :: rest)) ∧
    (∃ s : Machine.State, (s.spiOn = false)) ∧
    (∃ s : Machine.State, ∃ len : BitVec 16, ∃ pdu : List Byte, ∃ crc : BitVec 32, (s.spiOn = true) ∧
      let good : Prop := crc.toNat = crc32c (natBytes 2 len.toNat ++ pdu) ∧ len.toNat = pdu.length;
      (good)) ∧
    (∃ s : Machine.State, ∃ len : BitVec 16, ∃ pdu : List Byte, ∃ crc : BitVec 32, (s.spiOn = true) ∧
      let good : Prop := crc.toNat = crc32c (natBytes 2 len.toNat ++ pdu) ∧ len.toNat = pdu.length;
      (¬good)) ∧
    (∃ s : Machine.State, (s.spiOn = true) ∧ (s.ode.spiOut = [])) ∧
    (∃ s : Machine.State, ∃ l : List Byte, ∃ ls : List (List Byte), (s.spiOn = true) ∧ (s.ode.spiOut = l :: ls)) ∧
    (∃ s : Machine.State, ∃ i : Init, ∃ c : Fin 6, (s.MayRead i (R.ODE_FWREQ ↑c)) ∧
      (List.find? (fun r => r.core == ↑c && !r.taken) s.ode.fwq = none)) ∧
    (∃ s : Machine.State, ∃ i : Init, ∃ c : Fin 6, ∃ r : FwReq, (s.MayRead i (R.ODE_FWREQ ↑c)) ∧
      (List.find? (fun r => r.core == ↑c && !r.taken) s.ode.fwq = some r)) ∧
    (∃ s : Machine.State, ∃ i : Init, ∃ c : Fin 6, ∃ v : Word, (s.MayWrite i (R.ODE_FWRES ↑c)) ∧ (bits v 31 28 ≠ 0)) ∧
    (∃ s : Machine.State, ∃ i : Init, ∃ c : Fin 6, ∃ v : Word, (s.MayWrite i (R.ODE_FWRES ↑c)) ∧ (bits v 31 28 = 0) ∧
      (List.find? (fun r => r.core == ↑c && r.taken && r.num == bits v 27 16) s.ode.fwq = none)) ∧
    (∃ s : Machine.State, ∃ i : Init, ∃ c : Fin 6, ∃ v : Word, ∃ r : FwReq, (s.MayWrite i (R.ODE_FWRES ↑c)) ∧
      (bits v 31 28 = 0) ∧ (List.find? (fun r => r.core == ↑c && r.taken && r.num == bits v 27 16) s.ode.fwq = some r) ∧
      (s.waiter r.num = none) ∧ (r.kind ≠ Acc.WRITE)) ∧
    (∃ s : Machine.State, ∃ i : Init, ∃ c : Fin 6, ∃ v : Word, ∃ r : FwReq, ∃ q : OdeReq,
      (s.MayWrite i (R.ODE_FWRES ↑c)) ∧ (bits v 31 28 = 0) ∧
      (List.find? (fun r => r.core == ↑c && r.taken && r.num == bits v 27 16) s.ode.fwq = some r) ∧
      (s.waiter r.num = some q) ∧ (r.kind = Acc.INVOKE)) ∧
    (∃ s : Machine.State, (s.ode.fwq = [])) ∧
    (∃ s : Machine.State, ∃ r : FwReq, ∃ rs : List FwReq, (s.ode.fwq = r :: rs) ∧
      (s.waiter r.num = none ∨ r.kind ≠ Acc.READ)) ∧
    (∃ s : Machine.State, ∃ sid : Fin 256, (Option.any (fun r => r.sid == ↑sid) s.ode.req = true)) ∧
    (∃ s : Machine.State, ∃ sid : Fin 256, (Option.any (fun r => r.sid == ↑sid) s.ode.req = false)) ∧
    (∃ s : Machine.State, ∃ sid : Fin 256, ∃ x : Session, ∃ pdu : List Byte, (s.session ↑sid = some x) ∧ (x.up = true) ∧
      (x.sent = none) ∧ (x.evq ≠ []) ∧ (s.evPdu x (x.seqOut + 1) (List.take 32 x.evq) = some pdu)) ∧
    (∃ s : Machine.State, ∃ sid : Fin 256, ∃ x : Session, (s.session ↑sid = some x) ∧ (x.sent.isSome = true)) ∧
    (∃ s : Machine.State, ∃ sid : Fin 256, (s.session ↑sid = none)) ∧
    (∃ s : Machine.State, ∃ sid : Fin 256, ∃ x : Session, ∃ e : EvSent, (s.session ↑sid = some x) ∧ (x.sent = some e) ∧
      (3 ≤ e.tries)) ∧
    (∃ s : Machine.State, ∃ sid : Fin 256, ∃ x : Session, ∃ e : EvSent, (s.session ↑sid = some x) ∧ (x.sent = some e) ∧
      (e.tries < 3)) ∧
    (∃ s : Machine.State, (s.rb F.EVR_SUBSTAT_SUBEN = false)) ∧
    (∃ s : Machine.State, ∃ e : SubEntry, ∃ es : List SubEntry, ∃ x : Session, (s.rb F.EVR_SUBSTAT_SUBEN = true) ∧
      (s.evr.fifo = e :: es) ∧ (s.ode.sessions = [x])) ∧
    (∃ s : Machine.State, ∃ p : Fin 2, (s.canOn ↑p = false ∨ s.canServes ↑p = false)) ∧
    (∃ s : Machine.State, ∃ p : Fin 2, ∃ fd : Bool, ∃ data : List Byte,
      let b : Nat := BitVec.toNat (data.headD 0);
      (s.canOn ↑p = true) ∧ (s.canServes ↑p = true) ∧ (fd = true) ∧ (data ≠ []) ∧ (128 ≤ b) ∧ (b % 64 = 0)) ∧
    (∃ s : Machine.State, ∃ p : Fin 2, ∃ fd : Bool, ∃ data : List Byte, ∃ l : List Byte,
      let b : Nat := BitVec.toNat (data.headD 0);
      let old : Option (List Byte × Nat) := s.ode.canIn.getO ↑p;
      (s.canOn ↑p = true) ∧ (s.canServes ↑p = true) ∧ (fd = true) ∧ (data ≠ []) ∧ (b < 128) ∧ (old = some (l, b % 64))) ∧
    (∃ s : Machine.State, ∃ p : Fin 2, ∃ fd : Bool, ∃ data : List Byte, ∃ l : List Byte, ∃ n : Nat,
      let b : Nat := BitVec.toNat (data.headD 0);
      let old : Option (List Byte × Nat) := s.ode.canIn.getO ↑p;
      (s.canOn ↑p = true) ∧ (s.canServes ↑p = true) ∧ (fd = true) ∧ (data ≠ []) ∧ (b < 128) ∧ (old = some (l, n)) ∧
      (b % 64 ≠ n)) ∧
    (∃ s : Machine.State, ∃ p : Fin 2, ∃ fd : Bool, ∃ data : List Byte,
      let b : Nat := BitVec.toNat (data.headD 0);
      let old : Option (List Byte × Nat) := s.ode.canIn.getO ↑p;
      (s.canOn ↑p = true) ∧ (s.canServes ↑p = true) ∧ (fd = true) ∧ (data ≠ []) ∧ (b < 128) ∧ (old = none)) ∧
    (∃ s : Machine.State, ∃ p : Fin 2,
      let old : Option (List Byte × Nat) := s.ode.canIn.getO ↑p;
      (old = none)) ∧
    (∃ s : Machine.State, ∃ p : Fin 2,
      let old : Option (List Byte × Nat) := s.ode.canIn.getO ↑p;
      (old.isSome = true)) ∧
    (∃ s : Machine.State, ∃ i : Init, ∃ p : Fin 2, ∃ v : Word, (s.MayWrite i (R.CAN_TXF_PUSH ↑p)) ∧
      (BitVec.getLsbD v 0 = true) ∧ (16 ≤ (s.can ↑p).tx.length)) ∧
    (∃ s : Machine.State, ∃ i : Init, ∃ p : Fin 2, ∃ v : Word, (s.MayWrite i (R.CAN_TXF_PUSH ↑p)) ∧
      (BitVec.getLsbD v 0 = true) ∧ ((s.can ↑p).tx.length < 16)) ∧
    (∃ s : Machine.State, ∃ p : Fin 2,
      (s.canOn ↑p = false ∨ s.rb (F.CAN_CTRL_LISTEN ↑p) = true ∨ s.rf (F.CAN_STAT_STATE ↑p) = 2)) ∧
    (∃ s : Machine.State, ∃ p : Fin 2, ∃ f : CanFrame, ∃ fs : List CanFrame, (s.canOn ↑p = true) ∧
      (s.rb (F.CAN_CTRL_LISTEN ↑p) = false) ∧ (s.rf (F.CAN_STAT_STATE ↑p) ≠ 2) ∧ ((s.can ↑p).hdp = f :: fs)) ∧
    (∃ s : Machine.State, ∃ p : Fin 2, ∃ f : CanFrame, ∃ fs : List CanFrame, (s.canOn ↑p = true) ∧
      (s.rb (F.CAN_CTRL_LISTEN ↑p) = false) ∧ (s.rf (F.CAN_STAT_STATE ↑p) ≠ 2) ∧ ((s.can ↑p).hdp = []) ∧
      ((s.can ↑p).tx = f :: fs)) ∧
    (∃ s : Machine.State, ∃ p : Fin 2, ∃ hdr : BitVec 31, (s.canOn ↑p = true) ∧ (s.hdpId (↑p) hdr.toNat = false) ∧
      ((s.can ↑p).rx.length < 32)) ∧
    (∃ s : Machine.State, ∃ p : Fin 2, ∃ hdr : BitVec 31, (s.canOn ↑p = true) ∧ (s.hdpId (↑p) hdr.toNat = false) ∧
      (32 ≤ (s.can ↑p).rx.length)) ∧
    (∃ s : Machine.State, ∃ i : Init, ∃ p : Fin 2, ∃ f : CanFrame, ∃ fs : List CanFrame,
      (s.MayRead i (R.CAN_RXF_HDR ↑p)) ∧ ((s.can ↑p).rx = f :: fs)) :=
    ⟨⟨reset, 9, 0, by decide +kernel⟩,
    ⟨(reset.wb F.ODE_CTRL_UDP true).setReg R.ODE_MBXIN_ADDR 0x11370000, 9, 12, by decide +kernel⟩,
    ⟨{ reset with ode.mbxOut := [] }, 9, by decide +kernel⟩,
    ⟨{ reset with ode.mbxOut := (0, ([])) :: ([]) }, 9, 0, ([]), ([]), by decide +kernel⟩,
    ⟨reset, by decide +kernel⟩,
    ⟨((reset.wb F.ODE_CTRL_EN true).wb F.ODE_CTRL_SPI true).wb F.ODE_SPICFG_EN true, 1, ([5]),
      (BitVec.ofNat 32 (crc32c [1, 0, 5])), by decide +kernel⟩,
    ⟨((reset.wb F.ODE_CTRL_EN true).wb F.ODE_CTRL_SPI true).wb F.ODE_SPICFG_EN true, 1, ([5]), 0, by decide +kernel⟩,
    ⟨((reset.wb F.ODE_CTRL_EN true).wb F.ODE_CTRL_SPI true).wb F.ODE_SPICFG_EN true, by decide +kernel⟩,
    ⟨((({ reset with ode.spiOut := [[5]] } : State).wb F.ODE_CTRL_EN true).wb F.ODE_CTRL_SPI true).wb F.ODE_SPICFG_EN true,
      ([5]), ([]), by decide +kernel⟩,
    ⟨reset, 9, 0, by decide +kernel⟩,
    ⟨{ reset with ode.fwq := [{ fwq 0 [] with core := 0 }] }, 9, 0, ({ fwq 0 [] with core := 0 }), by decide +kernel⟩,
    ⟨reset, 9, 0, 0x10000000, by decide +kernel⟩,
    ⟨reset, 9, 0, 0, by decide +kernel⟩,
    ⟨{ reset with ode.fwq := [{ fwq 0 [] with core := 0, num := 0, kind := 1, taken := true }] }, 9, 0, 0,
      ({ fwq 0 [] with core := 0, num := 0, kind := 1, taken := true }), by decide +kernel⟩,
    ⟨{ dict with ode.req := some { oreq 19 [] with waits := some 0 }, ode.fwq := [{ fwq 0 [] with core := 0, num := 0, kind := 3, taken := true }] },
      9, 0, 0, ({ fwq 0 [] with core := 0, num := 0, kind := 3, taken := true }), ({ oreq 19 [] with waits := some 0 }),
      by decide +kernel⟩,
    ⟨{ reset with ode.fwq := [] }, by decide +kernel⟩,
    ⟨{ reset with ode.fwq := ((fwq 0 [])) :: ([]) }, ((fwq 0 [])), ([]), by decide +kernel⟩,
    ⟨dreq 4 [], 1, by decide +kernel⟩,
    ⟨reset, 0, by decide +kernel⟩,
    ⟨{ dict with ode.sessions := [{ ses with evq := [⟨7, 1, 0⟩] }] }, 1, ({ ses with evq := [⟨7, 1, 0⟩] }),
      (((State.evPdu ({ dict with ode.sessions := [{ ses with evq := [⟨7, 1, 0⟩] }] }) { ses with evq := [⟨7, 1, 0⟩] } 1 [⟨7, 1, 0⟩]).getD [])),
      by decide +kernel⟩,
    ⟨{ dict with ode.sessions := [{ ses with sent := some ⟨1, [], 0⟩ }] }, 1, ({ ses with sent := some ⟨1, [], 0⟩ }),
      by decide +kernel⟩,
    ⟨reset, 0, by decide +kernel⟩,
    ⟨{ dict with ode.sessions := [{ ses with sent := some ⟨1, [], 3⟩ }] }, 1, ({ ses with sent := some ⟨1, [], 3⟩ }),
      (⟨1, [], 3⟩), by decide +kernel⟩,
    ⟨{ dict with ode.sessions := [{ ses with sent := some ⟨1, [], 2⟩ }] }, 1, ({ ses with sent := some ⟨1, [], 2⟩ }),
      (⟨1, [], 2⟩), by decide +kernel⟩,
    ⟨(reset).wb F.EVR_SUBSTAT_SUBEN false, by decide +kernel⟩,
    ⟨{ ({ ((reset).wb F.EVR_SUBSTAT_SUBEN true) with evr.fifo := (⟨7,1,0⟩) :: ([]) }) with ode.sessions := [ses] },
      (⟨7,1,0⟩), ([]), ses, by decide +kernel⟩,
    ⟨reset, 0, by decide +kernel⟩,
    ⟨canHdp, 0, true, ([0x80, 5]), by decide +kernel⟩,
    ⟨{ canHdp with ode.canIn := [(0, some ([7], 1))] }, 0, true, ([0x41, 5]), ([7]), by decide +kernel⟩,
    ⟨{ canHdp with ode.canIn := [(0, some ([7], 1))] }, 0, true, ([0x42, 5]), ([7]), 1, by decide +kernel⟩,
    ⟨canHdp, 0, true, ([0x41, 5]), by decide +kernel⟩,
    ⟨reset, 0, by decide +kernel⟩,
    ⟨{ canHdp with ode.canIn := [(0, some ([7], 1))] }, 0, by decide +kernel⟩,
    ⟨reset.setCan 0 (fun c => { c with tx := List.replicate 16 ⟨5, 8, []⟩ }), 9, 0, 1, by decide +kernel⟩,
    ⟨reset, 9, 0, 1, by decide +kernel⟩,
    ⟨reset, 0, by decide +kernel⟩,
    ⟨(reset.setCan 0 (fun c => { c with hdp := [⟨5, 8, []⟩] })).wb (F.CAN_CTRL_EN 0) true, 0, (⟨5, 8, []⟩), ([]),
      by decide +kernel⟩,
    ⟨(reset.setCan 0 (fun c => { c with tx := [⟨5, 8, []⟩] })).wb (F.CAN_CTRL_EN 0) true, 0, (⟨5, 8, []⟩), ([]),
      by decide +kernel⟩,
    ⟨reset.wb (F.CAN_CTRL_EN 0) true, 0, 5, by decide +kernel⟩,
    ⟨(reset.wb (F.CAN_CTRL_EN 0) true).setCan 0 (fun c => { c with rx := List.replicate 32 ⟨5, 8, []⟩ }), 0, 5,
      by decide +kernel⟩,
    ⟨(reset).setCan 0 (fun m => { m with rx := (⟨5,8,[]⟩) :: ([]) }), 9, 0, (⟨5,8,[]⟩), ([]), by decide +kernel⟩⟩

theorem witness_DictionaryState :
    (∃ s : Machine.State, (s.sys.mc5 = false ∨ s.step1 Fn.DICT = true)) ∧
    (∃ s : Machine.State, (s.sys.mc5 = true) ∧ (s.step1 Fn.DICT = false) ∧ (s.imageGood = false)) ∧
    (∃ s : Machine.State, (s.sys.mc5 = true) ∧ (s.step1 Fn.DICT = false) ∧ (s.imageGood = true)) ∧
    (∃ s : Machine.State, (s.ode.req.isSome = true)) ∧
    (∃ s : Machine.State, ∃ x : JVal, ∃ d : Desc, ∃ es : List Nat, ∃ l : List (Nat × List Byte), (s.ode.req = none) ∧
      (s.ode.held = [[x]]) ∧ (s.mustHold x = false) ∧ (ownRef x.ref = false) ∧ (okIs (s.refCheck x.ref) (d, es) = true) ∧
      (d.permits Acc.WRITE 3 = true) ∧ (okIs (s.checkValue Acc.WRITE x.ref x.typ x.value) (d, l) = true) ∧ (d.bind = 1)) ∧
    (∃ s : Machine.State, (s.rf F.ODE_JSTAT_STATE ≠ Js.RUN ∨ s.ode.jbuf = [])) ∧
    (∃ s : Machine.State, (s.rf F.ODE_JSTAT_STATE = Js.RUN) ∧ (s.ode.jbuf ≠ []) ∧ (s.ode.jpair ≠ 0)) ∧
    (∃ s : Machine.State, ∃ g : List JVal, (s.rf F.ODE_JSTAT_STATE = Js.RUN) ∧ (s.ode.jbuf = [g]) ∧ (s.ode.jpair ≠ 0) ∧
      (s.ode.joff + groupSize g ≤ s.jSize)) ∧
    (∃ s : Machine.State, ∃ g : List JVal, (s.rf F.ODE_JSTAT_STATE = Js.RUN) ∧ (s.ode.jbuf = [g]) ∧ (s.ode.jpair ≠ 0) ∧
      (s.jSize < s.ode.joff + groupSize g)) ∧
    (∃ s : Machine.State, (s.rf F.ODE_JSTAT_STATE ≠ Js.COMPACT)) ∧
    (∃ s : Machine.State, (s.rf F.ODE_JSTAT_STATE = Js.COMPACT) ∧ (s.jNext = none)) ∧
    (∃ s : Machine.State, ∃ p : Nat, (s.rf F.ODE_JSTAT_STATE = Js.COMPACT) ∧ (s.jNext = some p) ∧
      (recSize 2 + (List.map (fun x => valSize x.value.length) s.snapVals).sum + recSize 1 ≤ s.jSize)) ∧
    (∃ s : Machine.State, (s.ode.pulls = [])) ∧
    (∃ s : Machine.State, (s.ode.retry = none)) ∧
    (∃ s : Machine.State, ∃ j : Nat, ∃ js : List Nat, (s.ode.req = none) ∧ (s.ode.pulls = j :: js) ∧
      let u : Machine.State := s.setOde fun o => { nbrAt := o.nbrAt, pulls := js, rxq := o.rxq, req := o.req, sessions := o.sessions, fails := o.fails, locked := o.locked, spiOut := o.spiOut, mbxOut := o.mbxOut, canIn := o.canIn, fwq := o.fwq, fwNum := o.fwNum, fwQuiet := o.fwQuiet, fwVals := o.fwVals, asgGen := o.asgGen, since := o.since, anchorAt := o.anchorAt, jbuf := o.jbuf, jlast := o.jlast, held := o.held, jseq := o.jseq, joff := o.joff, jpair := o.jpair, retired := o.retired, retry := o.retry, totals := o.totals };
      (u.pullMay j = false)) ∧
    (∃ s : Machine.State, ∃ p : PullIn, ∃ j : Nat, ∃ js : List Nat, (s.ode.req = none) ∧ (s.ode.pulls = j :: js) ∧
      let u : Machine.State := s.setOde fun o => { nbrAt := o.nbrAt, pulls := js, rxq := o.rxq, req := o.req, sessions := o.sessions, fails := o.fails, locked := o.locked, spiOut := o.spiOut, mbxOut := o.mbxOut, canIn := o.canIn, fwq := o.fwq, fwNum := o.fwNum, fwQuiet := o.fwQuiet, fwVals := o.fwVals, asgGen := o.asgGen, since := o.since, anchorAt := o.anchorAt, jbuf := o.jbuf, jlast := o.jlast, held := o.held, jseq := o.jseq, joff := o.joff, jpair := o.jpair, retired := o.retired, retry := o.retry, totals := o.totals };
      (u.pullMay j = true) ∧ (p.answered = false)) ∧
    (∃ s : Machine.State, ∃ p : PullIn, ∃ j : Nat, ∃ js : List Nat, ∃ l : List (Nat × Nat × List Byte),
      (s.ode.req = none) ∧ (s.ode.pulls = j :: js) ∧
      let u : Machine.State := s.setOde fun o => { nbrAt := o.nbrAt, pulls := js, rxq := o.rxq, req := o.req, sessions := o.sessions, fails := o.fails, locked := o.locked, spiOut := o.spiOut, mbxOut := o.mbxOut, canIn := o.canIn, fwq := o.fwq, fwNum := o.fwNum, fwQuiet := o.fwQuiet, fwVals := o.fwVals, asgGen := o.asgGen, since := o.since, anchorAt := o.anchorAt, jbuf := o.jbuf, jlast := o.jlast, held := o.held, jseq := o.jseq, joff := o.joff, jpair := o.jpair, retired := o.retired, retry := o.retry, totals := o.totals };
      (u.pullMay j = true) ∧ (p.answered = true) ∧ (takeRecords p.records.length p.records = some l) ∧
      ((u.snapshot 6 (u.paramN 48 20 0 1020) Usage.MAC).isSome = true) ∧
      (u.digestOf p.gen.toNat (u.stagedVal (List.filter (fun x => (List.map (fun y => y.fst.toNat) (List.filter (fun y => List.take 8 (u.areaDigest y.fst.toNat) != y.snd) p.areas)).contains (x.fst / 2 ^ 24)) l)) = p.digest)) ∧
    (∃ s : Machine.State, ∃ j : Nat, (s.ode.req = none) ∧ (s.ode.retry = some j) ∧
      let u : Machine.State := s.setOde fun o => { nbrAt := o.nbrAt, pulls := o.pulls, rxq := o.rxq, req := o.req, sessions := o.sessions, fails := o.fails, locked := o.locked, spiOut := o.spiOut, mbxOut := o.mbxOut, canIn := o.canIn, fwq := o.fwq, fwNum := o.fwNum, fwQuiet := o.fwQuiet, fwVals := o.fwVals, asgGen := o.asgGen, since := o.since, anchorAt := o.anchorAt, jbuf := o.jbuf, jlast := o.jlast, held := o.held, jseq := o.jseq, joff := o.joff, jpair := o.jpair, retired := o.retired, retry := none, totals := o.totals };
      (u.pullMay j = false ∨ u.rf (F.ODE_NBR_INFO_CLASS j) ≠ 1)) ∧
    (∃ s : Machine.State, ∃ p : PullIn, ∃ j : Nat, (s.ode.req = none) ∧ (s.ode.retry = some j) ∧
      let u : Machine.State := s.setOde fun o => { nbrAt := o.nbrAt, pulls := o.pulls, rxq := o.rxq, req := o.req, sessions := o.sessions, fails := o.fails, locked := o.locked, spiOut := o.spiOut, mbxOut := o.mbxOut, canIn := o.canIn, fwq := o.fwq, fwNum := o.fwNum, fwQuiet := o.fwQuiet, fwVals := o.fwVals, asgGen := o.asgGen, since := o.since, anchorAt := o.anchorAt, jbuf := o.jbuf, jlast := o.jlast, held := o.held, jseq := o.jseq, joff := o.joff, jpair := o.jpair, retired := o.retired, retry := none, totals := o.totals };
      (u.pullMay j = true) ∧ (u.rf (F.ODE_NBR_INFO_CLASS j) = 1) ∧ (p.answered = false)) ∧
    (∃ s : Machine.State, ∃ i : Init, (s.MayWrite i R.ODE_STATECMD) ∧ (↑i ≠ Ini.MC5)) ∧
    (∃ s : Machine.State, ∃ i : Init, ∃ v : Word, (s.MayWrite i R.ODE_STATECMD) ∧ (↑i = Ini.MC5) ∧ (bits v 2 0 = 5)) ∧
    (∃ s : Machine.State, ∃ i : Init, ∃ v : Word, (s.MayWrite i R.ODE_STATECMD) ∧ (↑i = Ini.MC5) ∧ (bits v 2 0 = 2) ∧
      (s.dev = Dev.BOOT) ∧ (s.ready Fn.DICT = true)) ∧
    (∃ s : Machine.State, ∃ i : Init, ∃ v : Word, (s.MayWrite i R.ODE_STATECMD) ∧ (↑i = Ini.MC5) ∧ (bits v 2 0 = 2) ∧
      (s.dev ≠ Dev.BOOT ∨ s.ready Fn.DICT = false)) ∧
    (∃ s : Machine.State, (s.ode.req = none) ∧ (s.dev = Dev.OPERATIONAL ∨ s.dev = Dev.LIMITED)) ∧
    (∃ s : Machine.State, (s.ode.req.isSome = true ∨ s.dev ≠ Dev.OPERATIONAL ∧ s.dev ≠ Dev.LIMITED)) ∧
    (∃ s : Machine.State, ∃ p : Instr × Nat × Nat,
      (p ∈ [(Instr.stateReq, 1, 1), (Instr.restart, 1, 3), (Instr.fallbackClear, 2, 4), (Instr.attest, 48, 3), (Instr.keyUnwrap, 48, 21), (Instr.keyLoad, 48, 22), (Instr.commit, 64, 2)]) ∧
      (s.fwOf p.snd.fst p.snd.snd = none)) ∧
    (∃ s : Machine.State, (s.ode.jbuf ≠ [])) ∧
    (∃ s : Machine.State, ∃ q : FwReq, (q.kind = Acc.INVOKE) ∧
      let k : Nat := bytesNat q.value;
      (s.fwOf 1 1 = some q) ∧ (k = 1) ∧ (s.dev = Dev.OPERATIONAL ∨ s.dev = Dev.LIMITED)) ∧
    (∃ s : Machine.State, ∃ q : FwReq, (q.kind = Acc.INVOKE) ∧
      let k : Nat := bytesNat q.value;
      (s.fwOf 1 1 = some q) ∧ (k = 2) ∧ (s.dev = Dev.MAINTENANCE)) ∧
    (∃ s : Machine.State, ∃ q : FwReq, (q.kind = Acc.INVOKE) ∧
      let k : Nat := bytesNat q.value;
      (s.fwOf 1 1 = some q) ∧ (k = 1) ∧ (s.dev = Dev.ALARM) ∧ (s.MayWrite mc5 R.CRY_ALMCLR)) ∧
    (∃ s : Machine.State, ∃ q : FwReq, (q.kind = Acc.INVOKE) ∧
      let k : Nat := bytesNat q.value;
      (s.fwOf 1 1 = some q) ∧ (k ≠ 1) ∧ (k ≠ 2)) ∧
    (∃ s : Machine.State, ∃ q : FwReq, (q.kind = Acc.INVOKE) ∧ (s.fwOf 1 2 = some q) ∧ (s.ode.jbuf = [])) ∧
    (∃ s : Machine.State, ∃ q : FwReq, (q.kind = Acc.INVOKE) ∧ (s.fwOf 1 3 = some q)) ∧
    (∃ s : Machine.State, ∃ q : FwReq, (q.kind = Acc.INVOKE) ∧ (s.fwOf 2 4 = some q)) ∧
    (∃ s : Machine.State, ∃ q : FwReq, (q.kind = Acc.INVOKE) ∧ (s.fwOf 48 3 = some q) ∧ (q.value.length ≠ 48)) ∧
    (∃ s : Machine.State, ∃ q : FwReq, (q.kind = Acc.INVOKE) ∧ (s.fwOf 48 3 = some q) ∧ (q.value.length = 48) ∧
      (s.ready Fn.PKE = true) ∧ (s.attestStop = false)) ∧
    (∃ s : Machine.State, ∃ q : FwReq, ∃ st : Nat, (q.kind = Acc.INVOKE) ∧ (s.fwOf 48 22 = some q) ∧
      let n : Nat := bytesNat (List.take 2 q.value);
      let typ : Nat := bytesNat (List.take 1 (List.drop 2 q.value));
      let key : List Byte := List.drop 8 q.value;
      (24 ≤ q.value.length) ∧ (q.value.length ≤ 72) ∧ (n ≤ 1023) ∧ (typ ≤ 4) ∧ (key.length = keyLen typ key.length) ∧
      (key.length % 8 = 0) ∧ (s.keyGate 1 n = some st)) ∧
    (∃ s : Machine.State, ∃ q : FwReq, (q.kind = Acc.INVOKE) ∧ (s.fwOf 48 22 = some q) ∧
      let n : Nat := bytesNat (List.take 2 q.value);
      let typ : Nat := bytesNat (List.take 1 (List.drop 2 q.value));
      let usage : Nat := bytesNat (List.take 1 (List.drop 3 q.value));
      let key : List Byte := List.drop 8 q.value;
      (24 ≤ q.value.length) ∧ (q.value.length ≤ 72) ∧ (n ≤ 1023) ∧ (typ ≤ 4) ∧ (key.length = keyLen typ key.length) ∧
      (key.length % 8 = 0) ∧ (s.keyGate 1 n = none) ∧ (suits typ usage = true)) ∧
    (∃ s : Machine.State, ∃ q : FwReq, (q.kind = Acc.INVOKE) ∧ (s.fwOf 48 22 = some q) ∧ (q.value.length < 24)) ∧
    (∃ s : Machine.State, ∃ q : FwReq, (q.kind = Acc.INVOKE) ∧ (s.fwOf 48 21 = some q) ∧ (q.value.length < 32)) ∧
    (∃ s : Machine.State, ∃ q : FwReq, (q.kind = Acc.INVOKE) ∧
      let k : Nat := bytesNat q.value;
      (s.fwOf 64 2 = some q) ∧ (s.genOk k = true) ∧ (k < 2 ^ 32)) ∧
    (∃ s : Machine.State, ∃ q : FwReq, (q.kind = Acc.INVOKE) ∧
      let k : Nat := bytesNat q.value;
      (s.fwOf 64 2 = some q) ∧ (s.genOk k = false)) :=
    ⟨⟨{ reset with sys.mc5 := false }, by decide +kernel⟩,
    ⟨{ reset with sys.mc5 := true }, by decide +kernel⟩,
    ⟨(({ reset with sys.mc5 := true } : State).writeN 0x11300000 4 0x49444F44).writeN 0x11300004 4 1, by decide +kernel⟩,
    ⟨dreq 4 [], by decide +kernel⟩,
    ⟨{ dict with ode.held := [[jv]] }, jv, (descOf 0x01001002 0x1FC00004 0 0xFFFF001F), ([0]), ([(0, [1])]),
      by decide +kernel⟩,
    ⟨reset, by decide +kernel⟩,
    ⟨({ reset with ode.jbuf := [[jv]], ode.jpair := 1 } : State).wf F.ODE_JSTAT_STATE Js.RUN, by decide +kernel⟩,
    ⟨({ reset with ode.jbuf := [[jv]], ode.jpair := 1 } : State).wf F.ODE_JSTAT_STATE Js.RUN, ([jv]), by decide +kernel⟩,
    ⟨({ reset with ode.jbuf := [[jv]], ode.jpair := 1, ode.joff := 5000 } : State).wf F.ODE_JSTAT_STATE Js.RUN, ([jv]),
      by decide +kernel⟩,
    ⟨reset, by decide +kernel⟩,
    ⟨(reset.wf F.ODE_JSTAT_STATE Js.COMPACT).wf F.ODE_JGEOM_NPAIR 0, by decide +kernel⟩,
    ⟨(reset).wf F.ODE_JSTAT_STATE Js.COMPACT, 0, by decide +kernel⟩,
    ⟨{ reset with ode.pulls := [] }, by decide +kernel⟩,
    ⟨{ reset with ode.retry := none }, by decide +kernel⟩,
    ⟨{ ({ reset with ode.req := none }) with ode.pulls := 0 :: ([]) }, 0, ([]), by decide +kernel⟩,
    ⟨pullS, ({ pull0 with answered := false }), 0, ([]), by decide +kernel⟩,
    ⟨withKey pullS 1020 1 0xFF key32, ({ pull0 with digest := sha384b (natBytes 4 1) }), 0, ([]), ([]),
      by decide +kernel⟩,
    ⟨{ ({ reset with ode.req := none }) with ode.retry := some 0 }, 0, by decide +kernel⟩,
    ⟨({ pullS with ode.retry := some 0 } : State).wf (F.ODE_NBR_INFO_CLASS 0) 1, ({ pull0 with answered := false }), 0,
      by decide +kernel⟩,
    ⟨reset, 4, by decide +kernel⟩,
    ⟨reset, 9, 5, by decide +kernel⟩,
    ⟨S0, 9, 2, by decide +kernel⟩,
    ⟨reset, 9, 2, by decide +kernel⟩,
    ⟨({ reset with ode.req := none }).wf F.ODE_STAT_STATE Dev.OPERATIONAL, by decide +kernel⟩,
    ⟨reset, by decide +kernel⟩,
    ⟨reset, ((Instr.stateReq, 1, 1)), by decide +kernel⟩,
    ⟨{ reset with ode.jbuf := [[jv]] }, by decide +kernel⟩,
    ⟨(fwS reset (fwi 0x01001FFF [1])).wf F.ODE_STAT_STATE 2, (fwi 0x01001FFF [1]), by decide +kernel⟩,
    ⟨(fwS reset (fwi 0x01001FFF [2])).wf F.ODE_STAT_STATE 1, (fwi 0x01001FFF [2]), by decide +kernel⟩,
    ⟨(fwS reset (fwi 0x01001FFF [1])).wf F.ODE_STAT_STATE 4, (fwi 0x01001FFF [1]), by decide +kernel⟩,
    ⟨fwS reset (fwi 0x01001FFF [0]), (fwi 0x01001FFF [0]), by decide +kernel⟩,
    ⟨fwS reset (fwi 0x01002FFF []), (fwi 0x01002FFF []), by decide +kernel⟩,
    ⟨fwS reset (fwi 0x01003FFF []), (fwi 0x01003FFF []), by decide +kernel⟩,
    ⟨fwS reset (fwi 0x02004FFF []), (fwi 0x02004FFF []), by decide +kernel⟩,
    ⟨fwS reset (fwi 0x30003FFF []), (fwi 0x30003FFF []), by decide +kernel⟩,
    ⟨withKey (fwS S0 (fwi 0x30003FFF (List.replicate 48 0))) 1023 3 0xFF (List.replicate 48 0),
      (fwi 0x30003FFF (List.replicate 48 0)), by decide +kernel⟩,
    ⟨fwS S0 (fwi 0x30016FFF (natBytes 2 1023 ++ List.replicate 22 0)),
      (fwi 0x30016FFF (natBytes 2 1023 ++ List.replicate 22 0)), St.RIGHTS, by decide +kernel⟩,
    ⟨fwS S0 (fwi 0x30016FFF (List.replicate 24 0)), (fwi 0x30016FFF (List.replicate 24 0)), by decide +kernel⟩,
    ⟨fwS reset (fwi 0x30016FFF []), (fwi 0x30016FFF []), by decide +kernel⟩,
    ⟨fwS reset (fwi 0x30015FFF []), (fwi 0x30015FFF []), by decide +kernel⟩,
    ⟨fwS reset (fwi 0x40002FFF (natBytes 4 1)), (fwi 0x40002FFF (natBytes 4 1)), by decide +kernel⟩,
    ⟨fwS reset (fwi 0x40002FFF []), (fwi 0x40002FFF []), by decide +kernel⟩⟩

theorem witness_Luminaire :
    (∃ s : Machine.State, (s.fwOf 56 1 = none)) ∧
    (∃ s : Machine.State, (s.fwOf 56 17 = none)) ∧
    (∃ s : Machine.State, ∃ q : FwReq, (s.fwOf 56 1 = some q) ∧ (q.kind = Acc.INVOKE) ∧
      let close : Bool := bytesNat q.value == 1;
      (s.lum.want = none) ∧ (s.relayClosed = close)) ∧
    (∃ s : Machine.State, ∃ q : FwReq,
      let timeless : Prop := s.rf F.GTU_STAT_STATE = 0 ∨ s.rf F.GTU_STAT_STATE = 3;
      (s.fwOf 56 1 = some q) ∧ (q.kind = Acc.INVOKE) ∧
      let close : Bool := bytesNat q.value == 1;
      (s.relayClosed ≠ close) ∧ (timeless)) ∧
    (∃ s : Machine.State, ∃ q : FwReq,
      let timeless : Prop := s.rf F.GTU_STAT_STATE = 0 ∨ s.rf F.GTU_STAT_STATE = 3;
      (s.fwOf 56 1 = some q) ∧ (q.kind = Acc.INVOKE) ∧
      let close : Bool := bytesNat q.value == 1;
      (s.relayClosed ≠ close) ∧ (¬timeless)) ∧
    (∃ s : Machine.State, ∃ q : FwReq, (s.fwOf 56 17 = some q) ∧ (q.kind = Acc.INVOKE) ∧ (bytesNat q.value = 0)) ∧
    (∃ s : Machine.State, ∃ q : FwReq, (s.fwOf 56 17 = some q) ∧ (q.kind = Acc.INVOKE) ∧ (bytesNat q.value ≠ 0) ∧
      (s.relayClosed = true)) ∧
    (∃ s : Machine.State,
      let p : Nat := s.paramN 56 19 0 255;
      let now : Option Nat := profileStep (s.paramAt 56 18 p []) (s.gtN / 2 ^ 24);
      (8 ≤ p ∨ s.ready Fn.LUM = false ∨ now = none)) ∧
    (∃ s : Machine.State,
      let p : Nat := s.paramN 56 19 0 255;
      let now : Option Nat := profileStep (s.paramAt 56 18 p []) (s.gtN / 2 ^ 24);
      (p < 8) ∧ (s.ready Fn.LUM = true) ∧ (now = some 0)) ∧
    (∃ s : Machine.State, ∃ level : Nat,
      let p : Nat := s.paramN 56 19 0 255;
      let now : Option Nat := profileStep (s.paramAt 56 18 p []) (s.gtN / 2 ^ 24);
      (p < 8) ∧ (s.ready Fn.LUM = true) ∧ (now = some level) ∧ (level ≠ 0) ∧ (s.relayClosed = true)) ∧
    (∃ s : Machine.State, ∃ level : Nat, (s.lum.dapc = some level) ∧ (s.relayClosed = true) ∧
      (BitVec.toNat s.lum.busyTo ≤ s.gtN)) ∧
    (∃ s : Machine.State, (s.lum.dapc = none ∨ s.relayClosed = false ∨ s.gtN < BitVec.toNat s.lum.busyTo)) ∧
    (∃ s : Machine.State, (s.lum.fadeOpen = false)) ∧
    (∃ s : Machine.State,
      let timeless : Prop := s.rf F.GTU_STAT_STATE = 0 ∨ s.rf F.GTU_STAT_STATE = 3;
      (s.lum.fadeOpen = true) ∧ (s.relayClosed = true) ∧ (timeless)) ∧
    (∃ s : Machine.State, (s.lum.fadeOpen = true) ∧ (s.relayClosed = false) ∧ (s.lum.want = none)) ∧
    (∃ s : Machine.State, (s.sys.mc5 = false)) ∧
    (∃ s : Machine.State, (s.sys.mc5 = true)) :=
    ⟨⟨reset, by decide +kernel⟩,
    ⟨reset, by decide +kernel⟩,
    ⟨fwS reset (fwi 0x38001FFF [0]), (fwi 0x38001FFF [0]), by decide +kernel⟩,
    ⟨fwS reset (fwi 0x38001FFF [1]), (fwi 0x38001FFF [1]), by decide +kernel⟩,
    ⟨(fwS reset (fwi 0x38001FFF [1])).wf F.GTU_STAT_STATE 2, (fwi 0x38001FFF [1]), by decide +kernel⟩,
    ⟨fwS reset (fwi 0x38011FFF [0]), (fwi 0x38011FFF [0]), by decide +kernel⟩,
    ⟨fwS { reset with sys.rlyOut := true } (fwi 0x38011FFF [5]), (fwi 0x38011FFF [5]), by decide +kernel⟩,
    ⟨reset, by decide +kernel⟩,
    ⟨lamp 0, by decide +kernel⟩,
    ⟨{ lamp 5 with sys.rlyOut := true }, 5, by decide +kernel⟩,
    ⟨{ reset with sys.rlyOut := true, lum.dapc := some 5 }, 5, by decide +kernel⟩,
    ⟨{ reset with lum.dapc := none }, by decide +kernel⟩,
    ⟨{ reset with lum.fadeOpen := false }, by decide +kernel⟩,
    ⟨{ reset with sys.rlyOut := true, lum.fadeOpen := true }, by decide +kernel⟩,
    ⟨{ ({ reset with lum.fadeOpen := true }) with lum.want := none }, by decide +kernel⟩,
    ⟨{ reset with sys.mc5 := false }, by decide +kernel⟩,
    ⟨{ reset with sys.mc5 := true }, by decide +kernel⟩⟩

theorem witness_ResetsAndStart :
    (∃ s : Machine.State, ∃ i : Init, ∃ key : BitVec 16, (s.MayWrite i R.SYS_RSTCMD) ∧ (key = 21075)) ∧
    (∃ s : Machine.State, ∃ i : Init, ∃ key : BitVec 16, ∃ c : Instr, (s.MayWrite i R.SYS_RSTCMD) ∧ (key ≠ 21075) ∧
      (c ∈ [Instr.coldResetCmd i key, Instr.warmResetCmd i key])) ∧
    (∃ s : Machine.State, (s.rb F.SYS_WDT_EN = true)) ∧
    (∃ s : Machine.State, (s.rb F.SYS_WDT_EN = false)) ∧
    (∃ s : Machine.State, ∃ i : Init, ∃ v : Word, (s.MayWrite i R.SYS_WDT) ∧ (100 ≤ bits v 15 0) ∧
      (bits v 15 0 ≤ 60000)) ∧
    (∃ s : Machine.State, ∃ i : Init, ∃ v : Word, (s.MayWrite i R.SYS_WDT) ∧ (bits v 15 0 < 100 ∨ 60000 < bits v 15 0)) ∧
    (∃ s : Machine.State, ∃ i : Init, ∃ v : Word, (s.MayWrite i R.SYS_WDT_KICK) ∧ (v = 42405)) ∧
    (∃ s : Machine.State, ∃ i : Init, ∃ v : Word, (s.MayWrite i R.SYS_WDT_KICK) ∧ (v ≠ 42405)) ∧
    (∃ s : Machine.State, (s.sys.phase ≠ 0)) ∧
    (∃ s : Machine.State, (s.sys.phase = 0)) ∧
    (∃ s : Machine.State, (s.sys.phase ≠ 1)) ∧
    (∃ s : Machine.State, (s.sys.phase = 1)) ∧
    (∃ s : Machine.State, (s.sys.phase ≠ 2)) ∧
    (∃ s : Machine.State, (s.sys.phase = 2)) ∧
    (∃ s : Machine.State, (s.sys.recovery = false)) ∧
    (∃ s : Machine.State, ∃ d : List Byte,
      let n : Nat := bytesNat (List.take 4 d);
      let good : Prop := d.length = n + 8 ∧ List.drop (4 + n) d = natBytes 4 (crc32c (List.take (4 + n) d));
      (s.sys.recovery = true) ∧ (¬good)) ∧
    (∃ s : Machine.State, ∃ d : List Byte,
      let n : Nat := bytesNat (List.take 4 d);
      let good : Prop := d.length = n + 8 ∧ List.drop (4 + n) d = natBytes 4 (crc32c (List.take (4 + n) d));
      let v : Machine.State × Nat := s.verifyImage (fun o => d.getD (4 + o) 0) 0;
      (s.sys.recovery = true) ∧ (good) ∧ (v.snd ≠ St.OK)) ∧
    (∃ s : Machine.State, (s.sys.mc5 = false ∨ s.dev ≠ Dev.BOOT)) ∧
    (∃ s : Machine.State, (s.sys.mc5 = true) ∧ (s.dev = Dev.BOOT) ∧ (s.ready Fn.DICT = true)) ∧
    (∃ s : Machine.State, ∃ journal : Bool, ∃ status : Option (BitVec 8),
      let d : List Nat := ledgerStep s.ledgerNow (if journal = true then 6 else 5) ((Option.map (fun x => x.toNat) status).getD St.LATE);
      (s.sys.mc5 = true) ∧ (s.dev = Dev.BOOT) ∧ (s.ready Fn.DICT = false) ∧
      (failRun d (if journal = true then 6 else 5) < 3)) ∧
    (∃ s : Machine.State, ∃ journal : Bool, ∃ status : Option (BitVec 8),
      let d : List Nat := ledgerStep s.ledgerNow (if journal = true then 6 else 5) ((Option.map (fun x => x.toNat) status).getD St.LATE);
      (s.sys.mc5 = true) ∧ (s.dev = Dev.BOOT) ∧ (s.ready Fn.DICT = false) ∧
      (3 ≤ failRun d (if journal = true then 6 else 5))) :=
    ⟨⟨reset, 9, 21075, by decide +kernel⟩,
    ⟨reset, 9, 0, ((.coldResetCmd 9 0)), by decide +kernel⟩,
    ⟨(reset).wb F.SYS_WDT_EN true, by decide +kernel⟩,
    ⟨(reset).wb F.SYS_WDT_EN false, by decide +kernel⟩,
    ⟨reset, 9, 100, by decide +kernel⟩,
    ⟨reset, 9, 0, by decide +kernel⟩,
    ⟨reset, 9, 42405, by decide +kernel⟩,
    ⟨reset, 9, 0, by decide +kernel⟩,
    ⟨{ reset with sys.phase := 1 }, by decide +kernel⟩,
    ⟨{ reset with sys.phase := 0 }, by decide +kernel⟩,
    ⟨reset, by decide +kernel⟩,
    ⟨{ reset with sys.phase := 1 }, by decide +kernel⟩,
    ⟨reset, by decide +kernel⟩,
    ⟨{ reset with sys.phase := 2 }, by decide +kernel⟩,
    ⟨{ reset with sys.recovery := false }, by decide +kernel⟩,
    ⟨{ reset with sys.recovery := true }, ([]), by decide +kernel⟩,
    ⟨{ reset with sys.recovery := true }, (natBytes 4 0 ++ natBytes 4 (crc32c (natBytes 4 0))), by decide +kernel⟩,
    ⟨{ reset with sys.mc5 := false }, by decide +kernel⟩,
    ⟨({ S0 with sys.mc5 := true }).wf F.ODE_STAT_STATE Dev.BOOT, by decide +kernel⟩,
    ⟨({ reset with sys.mc5 := true }).wf F.ODE_STAT_STATE Dev.BOOT, false, none, by decide +kernel⟩,
    ⟨{ ledg [0, 1, 1, 0, 0x90029, 0x1000019, 0xC0004, 0x05020000] with sys.mc5 := true }, false, none, by decide +kernel⟩⟩

theorem witness_SystemControl :
    (∃ s : Machine.State, ∃ i : Init, ∃ v : Word,
      let own : Prop := BitVec.toNat v &&& stepOwned ↑i = BitVec.toNat v;
      (s.MayWrite i R.SYS_STEPSET) ∧ (own)) ∧
    (∃ s : Machine.State, ∃ i : Init, ∃ v : Word,
      let own : Prop := BitVec.toNat v &&& stepOwned ↑i = BitVec.toNat v;
      (s.MayWrite i R.SYS_STEPCLR) ∧ (own)) ∧
    (∃ s : Machine.State, ∃ i : Init, ∃ v : Word,
      let own : Prop := BitVec.toNat v &&& stepOwned ↑i = BitVec.toNat v;
      (s.MayWrite i R.SYS_STEPSET) ∧ (¬own)) ∧
    (∃ s : Machine.State, ∃ i : Init, ∃ v : Word,
      let own : Prop := BitVec.toNat v &&& stepOwned ↑i = BitVec.toNat v;
      (s.MayWrite i R.SYS_STEPCLR) ∧ (¬own)) ∧
    (∃ s : Machine.State, ∃ i : Init, (s.MayWrite i R.SYS_CTRL)) ∧
    (∃ s : Machine.State, ∃ i : Init, (s.MayWrite i R.SYS_CLKEN)) ∧
    (∃ s : Machine.State, (s.sys.mc5 = false)) ∧
    (∃ s : Machine.State, (s.sys.mc5 = true)) ∧
    (∃ s : Machine.State, ∃ i : Init, ∃ v : Word, (s.MayWrite i R.SYS_OTPCNT_INC) ∧ (BitVec.getLsbD v 0 = false)) ∧
    (∃ s : Machine.State, ∃ i : Init, ∃ v : Word, (s.MayWrite i R.SYS_OTPCNT_INC) ∧ (BitVec.getLsbD v 0 = true) ∧
      (s.rb F.SYS_OTPCNT_BUSY = true)) ∧
    (∃ s : Machine.State, ∃ i : Init, ∃ v : Word, (s.MayWrite i R.SYS_OTPCNT_INC) ∧ (BitVec.getLsbD v 0 = true) ∧
      (s.rb F.SYS_OTPCNT_BUSY = false) ∧ (256 ≤ s.rf F.SYS_OTPCNT_EPOCH)) ∧
    (∃ s : Machine.State, ∃ i : Init, ∃ v : Word, (s.MayWrite i R.SYS_OTPCNT_INC) ∧ (BitVec.getLsbD v 0 = true) ∧
      (s.rb F.SYS_OTPCNT_BUSY = false) ∧ (s.rf F.SYS_OTPCNT_EPOCH < 256)) ∧
    (∃ s : Machine.State, (s.rb F.SYS_OTPCNT_BUSY = false)) ∧
    (∃ s : Machine.State, (s.rb F.SYS_OTPCNT_BUSY = true)) ∧
    (∃ s : Machine.State, ∃ data : List (BitVec 32), (s.sys.mc5 = false ∨ data.length < 7 ∨ 39 < data.length)) ∧
    (∃ s : Machine.State, ∃ data : List (BitVec 32),
      let due : Prop := s.ledgerBits 0 8 0 (s.rf F.SYS_OTPCNT_EPOCH) = s.rf F.SYS_OTPCNT_EPOCH + 1 ∧
      s.rf F.SYS_OTPCNT_EPOCH < 256;
      (s.sys.mc5 = true) ∧ (7 ≤ data.length) ∧ (data.length ≤ 39) ∧ (due)) ∧
    (∃ s : Machine.State, ∃ data : List (BitVec 32),
      let due : Prop := s.ledgerBits 0 8 0 (s.rf F.SYS_OTPCNT_EPOCH) = s.rf F.SYS_OTPCNT_EPOCH + 1 ∧
      s.rf F.SYS_OTPCNT_EPOCH < 256;
      (s.sys.mc5 = true) ∧ (7 ≤ data.length) ∧ (data.length ≤ 39) ∧ (¬due)) ∧
    (∃ s : Machine.State, ∃ i : Init, (s.MayRead i R.SYS_ACCERR) ∧ (s.acc.held = [])) ∧
    (∃ s : Machine.State, ∃ i : Init, ∃ x : Nat × Nat, ∃ xs : List (Nat × Nat), (s.MayRead i R.SYS_ACCERR) ∧
      (s.acc.held = x :: xs)) ∧
    (∃ s : Machine.State, (s.sys.supplyOut = true)) ∧
    (∃ s : Machine.State, (s.sys.supplyOut = false)) ∧
    (∃ s : Machine.State, (s.sys.mc5 = false ∨ s.rb F.DRC_DUMP_RETAINED = false ∨ s.sys.dumpDone = true)) ∧
    (∃ s : Machine.State, (s.sys.mc5 = true) ∧ (s.rb F.DRC_DUMP_RETAINED = true) ∧ (s.sys.dumpDone = false)) :=
    ⟨⟨reset, 9, 0, by decide +kernel⟩,
    ⟨reset, 9, 0, by decide +kernel⟩,
    ⟨reset, 4, 1, by decide +kernel⟩,
    ⟨reset, 4, 1, by decide +kernel⟩,
    ⟨reset, 9, by decide +kernel⟩,
    ⟨reset, 9, by decide +kernel⟩,
    ⟨{ reset with sys.mc5 := false }, by decide +kernel⟩,
    ⟨{ reset with sys.mc5 := true }, by decide +kernel⟩,
    ⟨reset, 9, 0, by decide +kernel⟩,
    ⟨(reset).wb F.SYS_OTPCNT_BUSY true, 9, 1, by decide +kernel⟩,
    ⟨reset.wf F.SYS_OTPCNT_EPOCH 256, 9, 1, by decide +kernel⟩,
    ⟨(reset).wb F.SYS_OTPCNT_BUSY false, 9, 1, by decide +kernel⟩,
    ⟨(reset).wb F.SYS_OTPCNT_BUSY false, by decide +kernel⟩,
    ⟨(reset).wb F.SYS_OTPCNT_BUSY true, by decide +kernel⟩,
    ⟨{ reset with sys.mc5 := false }, ([]), by decide +kernel⟩,
    ⟨ledg [1, 1, 0, 0, 0x90029, 0x1000019, 0xC0004], ([1, 1, 0, 0, 0, 0, 0]), by decide +kernel⟩,
    ⟨{ reset with sys.mc5 := true }, ([0, 1, 0, 0, 0, 0, 0]), by decide +kernel⟩,
    ⟨{ reset with acc.held := [] }, 9, by decide +kernel⟩,
    ⟨{ reset with acc.held := default :: ([]) }, 9, default, ([]), by decide +kernel⟩,
    ⟨{ reset with sys.supplyOut := true }, by decide +kernel⟩,
    ⟨{ reset with sys.supplyOut := false }, by decide +kernel⟩,
    ⟨{ reset with sys.mc5 := false }, by decide +kernel⟩,
    ⟨{ (({ reset with sys.mc5 := true }).wb F.DRC_DUMP_RETAINED true) with sys.dumpDone := false }, by decide +kernel⟩⟩

theorem witness_FlashOperations :
    (∃ s : Machine.State, ∃ i : Init, ∃ v : Word, (s.MayWrite i R.XSPI_OP_PUSH) ∧ (BitVec.getLsbD v 0 = false)) ∧
    (∃ s : Machine.State, ∃ i : Init, ∃ v : Word, (s.MayWrite i R.XSPI_OP_PUSH) ∧ (BitVec.getLsbD v 0 = true) ∧
      (s.opCheck s.stagedOp ≠ St.OK)) ∧
    (∃ s : Machine.State, ∃ i : Init, ∃ v : Word, (s.MayWrite i R.XSPI_OP_PUSH) ∧ (BitVec.getLsbD v 0 = true) ∧
      (s.opCheck s.stagedOp = St.OK)) ∧
    (∃ o : FlashOp, (o.kind = 0 ∨ 4 < o.kind)) ∧
    (∃ s : Machine.State, ∃ p : Instr × Nat,
      (p ∈ [(Instr.xspiRead, 1), (Instr.xspiProgram, 2), (Instr.xspiErase, 3), (Instr.xspiRaw, 4)]) ∧
      (s.rb F.XSPI_CTRL_EN = false)) ∧
    (∃ s : Machine.State, ∃ p : Instr × Nat,
      (p ∈ [(Instr.xspiRead, 1), (Instr.xspiProgram, 2), (Instr.xspiErase, 3), (Instr.xspiRaw, 4)]) ∧
      (s.rb F.XSPI_CTRL_EN = true) ∧ (s.xspi.run = none) ∧ (nextOp s.xspi.queue = none)) ∧
    (∃ s : Machine.State, ∃ p : Instr × Nat, ∃ o : FlashOp, ∃ x : FlashOp,
      (p ∈ [(Instr.xspiRead, 1), (Instr.xspiProgram, 2), (Instr.xspiErase, 3), (Instr.xspiRaw, 4)]) ∧
      (s.rb F.XSPI_CTRL_EN = true) ∧ (s.xspi.run = none) ∧ (nextOp s.xspi.queue = some o) ∧ (x ∈ s.xspi.queue)) ∧
    (∃ s : Machine.State, ∃ p : Instr × Nat, ∃ o : FlashOp,
      (p ∈ [(Instr.xspiRead, 1), (Instr.xspiProgram, 2), (Instr.xspiErase, 3), (Instr.xspiRaw, 4)]) ∧
      (s.rb F.XSPI_CTRL_EN = true) ∧ (s.xspi.run = none) ∧ (nextOp s.xspi.queue = some o) ∧ (o.kind ≠ p.snd)) ∧
    (∃ s : Machine.State, ∃ p : Instr × Nat, ∃ o : FlashOp,
      (p ∈ [(Instr.xspiRead, 1), (Instr.xspiProgram, 2), (Instr.xspiErase, 3), (Instr.xspiRaw, 4)]) ∧
      (s.rb F.XSPI_CTRL_EN = true) ∧ (s.xspi.run = none) ∧ (nextOp s.xspi.queue = some o) ∧ (o.kind = p.snd)) ∧
    (∃ s : Machine.State, ∃ p : Instr × Nat, ∃ r : FlashOp,
      (p ∈ [(Instr.xspiRead, 1), (Instr.xspiProgram, 2), (Instr.xspiErase, 3), (Instr.xspiRaw, 4)]) ∧
      (s.rb F.XSPI_CTRL_EN = true) ∧ (s.xspi.run = some r) ∧
      (s.rb F.XSPI_CTRL_SUSP = false ∨ r.kind ≠ 2 ∧ r.kind ≠ 3 ∨ s.xspi.susp.isSome = true)) ∧
    (∃ s : Machine.State, ∃ p : Instr × Nat, ∃ r : FlashOp, ∃ o : FlashOp,
      (p ∈ [(Instr.xspiRead, 1), (Instr.xspiProgram, 2), (Instr.xspiErase, 3), (Instr.xspiRaw, 4)]) ∧
      (s.rb F.XSPI_CTRL_EN = true) ∧ (s.xspi.run = some r) ∧ (s.suspender = some o) ∧ (p.snd ≠ 1)) ∧
    (∃ s : Machine.State, ∃ p : Instr × Nat, ∃ r : FlashOp, ∃ o : FlashOp,
      (p ∈ [(Instr.xspiRead, 1), (Instr.xspiProgram, 2), (Instr.xspiErase, 3), (Instr.xspiRaw, 4)]) ∧
      (s.rb F.XSPI_CTRL_EN = true) ∧ (s.xspi.run = some r) ∧ (s.suspender = some o) ∧ (p.snd = 1)) ∧
    (∃ s : Machine.State, (s.xspi.run = none)) ∧
    (∃ s : Machine.State, ∃ o : FlashOp, (s.xspi.run = some o)) ∧
    (∃ s : Machine.State, ∃ i : Init, (s.MayRead i R.XSPI_RES) ∧ (s.xspi.results = [])) ∧
    (∃ s : Machine.State, ∃ i : Init, ∃ x : Res, ∃ xs : List Res, (s.MayRead i R.XSPI_RES) ∧
      (s.xspi.results = x :: xs)) :=
    ⟨⟨reset, 9, 0, by decide +kernel⟩,
    ⟨reset, 9, 1, by decide +kernel⟩,
    ⟨(reset.wf F.XSPI_OP_W0_KIND 1).setReg R.XSPI_OP_W2 16, 9, 1, by decide +kernel⟩,
    ⟨(fop 0), by decide +kernel⟩,
    ⟨(reset).wb F.XSPI_CTRL_EN false, ((Instr.xspiRead, 1)), by decide +kernel⟩,
    ⟨{ ((reset).wb F.XSPI_CTRL_EN true) with xspi.run := none }, ((Instr.xspiRead, 1)), by decide +kernel⟩,
    ⟨({ reset with xspi.queue := [fop 1] } : State).wb F.XSPI_CTRL_EN true, ((.xspiRead, 1)), (fop 1), (fop 1),
      by decide +kernel⟩,
    ⟨({ reset with xspi.queue := [fop 1] } : State).wb F.XSPI_CTRL_EN true, ((.xspiProgram, 2)), (fop 1),
      by decide +kernel⟩,
    ⟨({ reset with xspi.queue := [fop 1] } : State).wb F.XSPI_CTRL_EN true, ((.xspiRead, 1)), (fop 1), by decide +kernel⟩,
    ⟨({ ((reset).wb F.XSPI_CTRL_EN true) with xspi.run := some ((fop 1)) }).wb F.XSPI_CTRL_SUSP false,
      ((Instr.xspiRead, 1)), ((fop 1)), by decide +kernel⟩,
    ⟨((({ reset with xspi.queue := [{ fop 1 with prio := 1 }], xspi.run := some (fop 2) } : State).wb F.XSPI_CTRL_EN true).wb F.XSPI_CTRL_SUSP true),
      ((.xspiProgram, 2)), (fop 2), ({ fop 1 with prio := 1 }), by decide +kernel⟩,
    ⟨((({ reset with xspi.queue := [{ fop 1 with prio := 1 }], xspi.run := some (fop 2) } : State).wb F.XSPI_CTRL_EN true).wb F.XSPI_CTRL_SUSP true),
      ((.xspiRead, 1)), (fop 2), ({ fop 1 with prio := 1 }), by decide +kernel⟩,
    ⟨{ reset with xspi.run := none }, by decide +kernel⟩,
    ⟨{ reset with xspi.run := some ((fop 1)) }, ((fop 1)), by decide +kernel⟩,
    ⟨{ reset with xspi.results := [] }, 9, by decide +kernel⟩,
    ⟨{ reset with xspi.results := res0 :: ([]) }, 9, res0, ([]), by decide +kernel⟩⟩

end Sys2Proof.Tests
end

section
/-! PROOFS. The scope family: that every command answers a next state (O5), the values after reset (O2), and the plain read of
a register (O10). -/

namespace Sys2Proof.Machine

/-! ### Every command answers

What the device refuses it refuses within the state (R6, R25, R28), so a meaning is a tree of conditions and matches whose
every leaf is a next state. `Answers` is closed under the tree's nodes; each proof below follows the branches of one meaning. -/

/-- An outcome is a next state: neither a fault nor a refusal. -/
def Answers (x : Host.Outcome State Fault Refusal) : Prop := ∃ t, x = .next t

theorem Answers.next {t : State} : Answers (.next t) := ⟨t, rfl⟩

theorem Answers.ite {c : Prop} [Decidable c] {x y : Host.Outcome State Fault Refusal} (hx : Answers x) (hy : Answers y) :
    Answers (if c then x else y) := by
  split
  · exact hx
  · exact hy

/-! #### Memory and the credit flow -/

theorem execMemoryAccess_answers (i : Init) (a : BitVec 36) (op : MemOp) (s : State) :
    Answers (execMemoryAccess i a op s) := by
  unfold execMemoryAccess
  split <;> exact .ite .next .next

theorem execReceiveReserve_answers (src : RxSource) (len : Nat) (s : State) : Answers (execReceiveReserve src len s) := by
  unfold execReceiveReserve
  extract_lets
  split <;> exact .next

theorem execFrameStored_answers (r : WRadio) (release : Bool) (s : State) : Answers (execFrameStored r release s) := by
  unfold execFrameStored
  split
  · exact .next
  · refine .ite .next (.ite ?_ .next)
    split <;> exact .next

theorem execFrameForward_answers (r : WRadio) (s : State) : Answers (execFrameForward r s) := by
  unfold execFrameForward
  split
  · exact .next
  · split <;> exact .next

theorem execCreditReturn_answers (r : Radio) (a : Nat) (s : State) : Answers (execCreditReturn r a s) := by
  unfold execCreditReturn
  split <;> exact .next

/-! #### Radio control and the modems -/

theorem execRfcTransitionDone_answers (r : Radio) (s : State) : Answers (execRfcTransitionDone r s) := by
  unfold execRfcTransitionDone
  split
  · split <;> exact .next
  · exact .next

theorem execHeldDeadline_answers (r : Radio) (s : State) : Answers (execHeldDeadline r s) := by
  unfold execHeldDeadline
  split
  · exact .ite .next .next
  · exact .next

theorem execCalStepDone_answers (r : Radio) (ok : Bool) (codes : List (BitVec 32)) (s : State) :
    Answers (execCalStepDone r ok codes s) := by
  unfold execCalStepDone
  refine .ite ?_ .next
  split <;> exact .next

theorem execDpdFitDone_answers (r : WRadio) (nmse plo phi : BitVec 8) (coef : List (BitVec 32)) (s : State) :
    Answers (execDpdFitDone r nmse plo phi coef s) := by
  unfold execDpdFitDone
  split
  · exact .ite .next .next
  · exact .next

theorem execDpdTimeout_answers (r : WRadio) (s : State) : Answers (execDpdTimeout r s) := by
  unfold execDpdTimeout
  split
  · exact .ite .next .next
  · exact .next

theorem execFieldCheck_answers (r : Radio) (first : Bool) (res : FieldOutcome) (w0 : Word) (s : State) :
    Answers (execFieldCheck r first res w0 s) := by
  unfold execFieldCheck
  refine .ite ?_ .next
  split <;> exact .next

theorem execTbWindowEnd_answers (r : WRadio) (s : State) : Answers (execTbWindowEnd r s) := by
  unfold execTbWindowEnd
  extract_lets
  split
  · exact .next
  · exact .ite .next .next

theorem execPpduTxEnd_answers (r : Radio) (us : Nat) (s : State) : Answers (execPpduTxEnd r us s) := by
  unfold execPpduTxEnd
  split
  · exact .ite .next .next
  · exact .next

/-! #### The Wi-Fi MACs -/

theorem execEdcaCommit_answers (r : WRadio) (x : ExchangeOut) (exempt : Bool) (mpdus : List Nat) (s : State) :
    Answers (execEdcaCommit r x exempt mpdus s) := by
  unfold execEdcaCommit
  refine .ite .next (.ite .next ?_)
  split <;> exact .next

theorem execMpduReceive_answers (r : WRadio) (f : RxFrame) (s : State) : Answers (execMpduReceive r f s) := by
  unfold execMpduReceive
  refine .ite .next (.ite .next (.ite ?_ (.ite .next (.ite .next (.ite .next .next)))))
  split <;> exact .next

theorem execWifiBeaconReceive_answers (r : WRadio) (b : WifiBeacon) (s : State) : Answers (execWifiBeaconReceive r b s) := by
  unfold execWifiBeaconReceive
  refine .ite .next (.ite .next ?_)
  extract_lets
  split
  · exact .next
  · exact .ite .next .next

theorem execMpduLifetimeDrop_answers (n : Nat) (s : State) : Answers (execMpduLifetimeDrop n s) := by
  unfold execMpduLifetimeDrop
  split
  · exact .next
  · exact .ite .next .next

theorem execReorderTimeout_answers (r : WRadio) (client : BitVec 12) (tid : Fin 8) (s : State) :
    Answers (execReorderTimeout r client tid s) := by
  unfold execReorderTimeout
  split
  · exact .next
  · split <;> exact .next

theorem execMpduMove_answers (r : WRadio) (s : State) : Answers (execMpduMove r s) := by
  unfold execMpduMove
  extract_lets
  split
  · exact .next
  · extract_lets
    split <;> exact .next

theorem execTwtSlipCheck_answers (r : WRadio) (client : BitVec 12) (flow : Fin 8) (s : State) :
    Answers (execTwtSlipCheck r client flow s) := by
  unfold execTwtSlipCheck
  extract_lets
  split
  · exact .next
  · exact .ite .next .next

theorem execDlMuPpdu_answers (r : WRadio) (x : ExchangeOut) (s : State) : Answers (execDlMuPpdu r x s) := by
  unfold execDlMuPpdu
  split
  · exact .next
  · refine .ite .next ?_
    extract_lets
    split <;> exact .next

theorem execTriggerSend_answers (r : WRadio) (x : ExchangeOut) (s : State) : Answers (execTriggerSend r x s) := by
  unfold execTriggerSend
  split
  · exact .next
  · refine .ite .next ?_
    extract_lets
    split <;> exact .next

/-! #### Steppe and the field MAC -/

theorem execDecisionOverrun_answers (r : WRadio) (ac : Fin 4) (limit : Nat) (s : State) :
    Answers (execDecisionOverrun r ac limit s) := by
  unfold execDecisionOverrun
  refine .ite .next ?_
  extract_lets
  split <;> exact .next

theorem execFieldFrameReceive_answers (f : FieldRx) (s : State) : Answers (execFieldFrameReceive f s) := by
  unfold execFieldFrameReceive
  refine .ite .next (.ite .next (.ite .next (.ite .next (.ite .next (.ite .next (.ite .next (.ite .next (.ite .next ?_))))))))
  split <;> exact .next

theorem execFieldResponse_answers (s : State) : Answers (execFieldResponse s) := by
  unfold execFieldResponse
  split
  · exact .next
  · exact .ite .next .next

theorem execLongListenEnd_answers (s : State) : Answers (execLongListenEnd s) := by
  unfold execLongListenEnd
  refine .ite .next ?_
  extract_lets
  split <;> exact .next

theorem execUpstreamPoll_answers (start : GTime) (queued : BitVec 8) (status : BitVec 7) (data : Option (List (BitVec 8)))
    (enc : Bool) (s : State) :
    Answers (execUpstreamPoll start queued status data enc s) := by
  unfold execUpstreamPoll
  refine .ite .next ?_
  extract_lets
  split
  · exact .next
  · refine .ite .next ?_
    split <;> exact .next


/-! #### The packet engine, Ethernet and the queues -/

theorem execPacketClassify_answers (s : State) : Answers (execPacketClassify s) := by
  unfold execPacketClassify
  split
  · exact .next
  · exact .ite .next .next

theorem execEspResult_answers (s : State) : Answers (execEspResult s) := by
  unfold execEspResult
  split
  · exact .next
  · extract_lets
    split
    · exact .next
    · exact .ite .next .next

theorem execRewriteUnitsGrant_answers (s : State) : Answers (execRewriteUnitsGrant s) := by
  unfold execRewriteUnitsGrant
  split
  · exact .next
  · split
    · exact .next
    · split <;> exact .next

theorem execLegacyReorderRelease_answers (s : State) : Answers (execLegacyReorderRelease s) := by
  unfold execLegacyReorderRelease
  split
  · exact .next
  · extract_lets
    split <;> exact .next

theorem execPipeTabApply_answers (s : State) : Answers (execPipeTabApply s) := by
  unfold execPipeTabApply
  split <;> exact .next

theorem execFenceDone_answers (s : State) : Answers (execFenceDone s) := by
  unfold execFenceDone
  split
  · exact .next
  · exact .ite .next .next

theorem execUpdComplete_answers (s : State) : Answers (execUpdComplete s) := by
  unfold execUpdComplete
  split <;> exact .next

theorem execEthFrameReceive_answers (p : Fin 6) (data : List (BitVec 8)) (stamp : GTime) (ns : BitVec 64) (s : State) :
    Answers (execEthFrameReceive p data stamp ns s) := by
  unfold execEthFrameReceive
  refine .ite .next (.ite .next (.ite .next (.ite .next ?_)))
  extract_lets
  split
  · exact .next
  · extract_lets
    split <;> exact .next

theorem execEthFrameTransmit_answers (p : Fin 6) (stamp : GTime) (ns : BitVec 64) (s : State) :
    Answers (execEthFrameTransmit p stamp ns s) := by
  unfold execEthFrameTransmit
  extract_lets
  split
  · exact .next
  · refine .ite .next ?_
    split
    · exact .next
    · extract_lets
      split <;> exact .next

theorem execEnqueue_answers (s : State) : Answers (execEnqueue s) := by
  unfold execEnqueue
  split
  · exact .next
  · refine .ite .next ?_
    extract_lets
    split <;> exact .next

/-! #### DMA and the ciphers -/

theorem execDescriptorComplete_answers (n : Fin 128) (fail : Bool) (s : State) :
    Answers (execDescriptorComplete n fail s) := by
  unfold execDescriptorComplete
  refine .ite .next ?_
  split <;> exact .next

theorem execInjectUnitsGrant_answers (n : Fin 128) (s : State) : Answers (execInjectUnitsGrant n s) := by
  unfold execInjectUnitsGrant
  refine .ite .next ?_
  split <;> exact .next

theorem execCoreAssign_answers (s : State) : Answers (execCoreAssign s) := by
  unfold execCoreAssign
  split
  · split <;> exact .next
  · split
    · exact .next
    · split <;> exact .next

theorem execCryOperationComplete_answers (c : Fin 12) (s : State) : Answers (execCryOperationComplete c s) := by
  unfold execCryOperationComplete
  split
  · exact .next
  · split
    · exact .next
    · split <;> exact .next

/-! #### DRAM -/

theorem execDramRequest_answers (arrive : List DramArrival) (chan : Fin 4) (s : State) :
    Answers (execDramRequest arrive chan s) := by
  unfold execDramRequest
  extract_lets
  split
  · exact .next
  · exact .ite .next .next

theorem execRequestPromote_answers (k : Nat) (s : State) : Answers (execRequestPromote k s) := by
  unfold execRequestPromote
  split
  · exact .next
  · exact .ite .next .next

theorem execTrainStepDone_answers (fail : BitVec 4) (mismatch : Bool) (dens : Fin 6) (ranks : Bool) (s : State) :
    Answers (execTrainStepDone fail mismatch dens ranks s) := by
  unfold execTrainStepDone
  split
  · exact .next
  · exact .ite .next (.ite .next (.ite .next .next))

/-! #### The dictionary and its ports, the luminaire and the flash -/

theorem execHdpPduReceive_answers (s : State) : Answers (execHdpPduReceive s) := by
  unfold execHdpPduReceive
  refine .ite .next ?_
  split <;> exact .next

theorem execCanSegmentReceive_answers (p : Fin 2) (fd : Bool) (data : List (BitVec 8)) (s : State) :
    Answers (execCanSegmentReceive p fd data s) := by
  unfold execCanSegmentReceive
  refine .ite .next (.ite .next (.ite (.ite .next .next) ?_))
  split
  · exact .next
  · exact .ite .next .next

theorem execSpiPduRead_answers (s : State) : Answers (execSpiPduRead s) := by
  unfold execSpiPduRead
  refine .ite .next ?_
  split <;> exact .next

theorem execFwTimeout_answers (s : State) : Answers (execFwTimeout s) := by
  unfold execFwTimeout
  split <;> exact .next

theorem execSubscriptionDeliver_answers (s : State) : Answers (execSubscriptionDeliver s) := by
  unfold execSubscriptionDeliver
  refine .ite .next ?_
  split <;> exact .next

theorem execEventSend_answers (sid : Fin 256) (s : State) : Answers (execEventSend sid s) := by
  unfold execEventSend
  split
  · exact .next
  · refine .ite .next ?_
    split <;> exact .next

theorem execEventAckTimeout_answers (sid : Fin 256) (s : State) : Answers (execEventAckTimeout sid s) := by
  unfold execEventAckTimeout
  split
  · exact .next
  · split
    · exact .next
    · refine .ite .next ?_
      extract_lets
      split <;> exact .next

theorem execDigestPull_answers (p : PullIn) (s : State) : Answers (execDigestPull p s) := by
  unfold execDigestPull
  split
  · exact .next
  · exact .ite .next (.ite .next .next)

theorem execPullRetry_answers (p : PullIn) (s : State) : Answers (execPullRetry p s) := by
  unfold execPullRetry
  split
  · exact .next
  · exact .ite .next (.ite .next .next)

theorem execCanFrameSent_answers (p : Fin 2) (s : State) : Answers (execCanFrameSent p s) := by
  unfold execCanFrameSent
  refine .ite .next ?_
  split <;> exact .next

theorem execRestart_answers (s : State) : Answers (execRestart s) := by
  unfold execRestart
  split <;> exact .next

theorem execProfileStep_answers (s : State) : Answers (execProfileStep s) := by
  unfold execProfileStep
  refine .ite .next ?_
  split <;> exact .next

theorem execXspiOpDone_answers (fail : Fin 3) (data : List (BitVec 8)) (s : State) :
    Answers (execXspiOpDone fail data s) := by
  unfold execXspiOpDone
  split
  · exact .next
  · exact .ite .next .next

/-! #### All commands -/

/-- Every command answers: no arm of `exec` ends in a fault or a refusal. -/
theorem exec_answers (c : Instr) (s : State) : Answers (exec c s) := by
  cases c with
  -- The meanings that are one next state: what they test, they test inside it.
  | registerWrite | counterRead | readinessSet | readinessClear | beaconSample | seed | relearn | hold | resume
  | gtuFree | pmapCommit | pmapExpire | bcnValidExpire | gtuCtrlWrite | gtuNowRead | xlastRead | replicaBroadcast
  | gcArm | gcDisarm | eventOccurrence | pendingClear | softwareEvent | subscriptionPop | rfcCmdPush
  | macPortCommand | rfcSleep | rfcWake | rfcTune | rfcPrep | rfcRx | rfcTx | rfcIdle | rfcStandby | rfcCal
  | rfcDpdup | rfcAbort | rfcStore | calPeriodDue | calTempDue | dpdDue | femtWrite | rfcResultPop | tbReceptionArm
  | codewordDecoded | transmitVector | smodeWrite | noiseAlarm | rxAnomalyAlarm | tsfRead | notchSuspendChange
  | notchArm | macCmdPush | bssStart | bssStop | linkAdd | linkDel | baAdd | baDel | twtSet | twtDel | meshStart
  | meshStop | macResultPop | stpCmdPush | stpRun | stpStop | clAdd | clDel | clWord | clSusp | clResume | twtPlace
  | twtFree | driftReset | planDiscard | driftSample | stpPendWrite | stpResultPop | scheduleArm | ownerMapBuild
  | ptabWrite | dwellBinRoll | fmacCmdPush | sfStart | sfStop | upAttach | upDetach | assign | release | dlStage
  | dlCancel | keyset | fmacResultPop | pipeTabWrite | fenceStart | updWrite | updClear | updHash | ppeCounterRead
  | linkChange | ptpRead | ptpStep | txtsPop | mdioGo | poolApply | rpoolWrite | qmgFree | qmgCmdPush | qCreate
  | qDelete | qSet | qMove | qStart | qStop | qFlush | qmgResultPop | tailAlarm | redAlarm | doorbell
  | dmaTriggerStrobe | dmaEnable | dmaStart | dmaPause | dmaResume | dmaStop | dmaAbort | dmaClear | shadowWrite
  | saddleArm | chkPreset | chkConfigWrite | chkDataFeed | chkInit | scanGo | scanStop | pageDoorbell | cryLoad
  | cryUnwrap | cryGen | cryExport | cryErase | cryAttr | cryInfo | cryKeyResultPop | pageEnable | pageStop
  | pageClear | ctxSave | ctxRestore | ctxDrop | pageResultPop | saLoad | saErase | saRead | alarmCondition
  | alarmClear | alarmLock | pkeCmdPush | pkeHash | pkeHmac | pkeKdf | pkeKeygen | pkePubkey | pkeSign | pkeVerify
  | pkeEcdh | pkeRandom | pkeReseed | pkeMextend | pkeAttest | pkeSvnset | pkeRevoke | pkeResultPop | rngRead
  | healthTestFail | reseedInterval | backgroundWindowOpen | backgroundWindowClose | raaTableClear | drcTrain
  | drcRestore | srEnter | srExit | drcStop | drcResultPop | dumpUnlock | injectArm | hdpOpen | hdpAuth | hdpClose
  | hdpPing | hdpRead | hdpWrite | hdpWriteMulti | hdpInvoke | hdpDescribe | hdpSubscribe | hdpEventAck | hdpDigest
  | hdpReadNet | mbxinPush | mbxoutPop | fwRequestPop | fwAnswer | authLockoutEnd | statecmd | canTxfPush
  | canRxfPop | stateReq | fallbackClear | attest | keyUnwrap | keyLoad | commit | relayCmd | levelCmd
  | powerOnReset | resetPin | coldResetCmd | warmResetCmd | wdtEnable | wdtKick | rdyenSet | stepset | stepclr
  | clkenWrite | otpcntInc | xspiOpPush | xspiRead | xspiProgram | xspiErase | xspiRaw | xspiResultPop
  | sysAccerrPop | pauseTimeExpiry | supplyBackInRange => exact .next
  -- The meanings that choose between next states by conditions alone, by the shape of their conditions.
  | gcFire | pinPulseEnd | eirqPulse | synthLock | lockLoss | calOverdue | autocalStart | packetDetect
  | unsupportedHoldEnd | clipRestart | ppduReceiveEnd | controlResponse | beaconTbtt | beaconDrop | beaconCommit
  | notchFlagExpire | sounding | notchPlanApply | macDrainDone | macDropAlarm | stageMpdu | exchangeResult
  | planRequest | spDecisionStart | spWindowEnd | listenEnd | superframeStart | scheduleApply | valleyStart
  | upHoldEnd | longListenRetry | ptabAgeExpire | fieldDrainDone | missAlarm | oddAlarm | pauseReceive | pauseRepeat
  | mdioDone | tmgSelect | sampleRound | ringConfigWrite | portStall | scanEnd | eraseComplete | alarmEraseDone
  | entropyStartupTest | imageVerify | debugChallenge | dramRefresh | nrefAlarm | sridleEnter | heldValuesApply
  | canSegmentTimeout | spiStatusRead | sessionTimeout | stateAutoChange | journalCompact | canBusState | save
  | dapcSend | relayFadeOpen | counterCollect | watchdogExpiry | resetRelease | refValid | sramClearDone
  | ledgerWrite | otpFuseDone | dumpCopy | supplyOutOfRange => exact .ite .next .next
  | secondDetection => exact .ite (.ite .next .next) .next
  | mainsCrossing | holdEstimateUpdate | fieldBeaconCommit | passRegionStart | upBeaconListenEnd | saddle
  | debugToken | scrubRead | mr4Poll | dictionaryImageLoad | spiPduWrite | journalCommit | netPllRetry =>
    exact .ite .next (.ite .next .next)
  | crossingMissing => exact .ite (.ite .next (.ite .next .next)) .next
  | scrubOverdue | ceAlarm => exact .ite (.ite .next .next) (.ite .next .next)
  | pollWindowEnd | dmaBurst | inlineOperation | recoveryImage | bootTimeout =>
    exact .ite .next (.ite .next (.ite .next .next))
  | canFrameReceive => exact .ite .next (.ite (.ite .next .next) (.ite .next .next))
  | cryDescriptorFetch => exact .ite .next (.ite .next (.ite .next (.ite .next .next)))
  | descriptorFetch => exact .ite .next (.ite .next (.ite .next (.ite .next (.ite .next .next))))
  -- The meanings that take a value apart, each by its lemma.
  | memoryAccess => exact execMemoryAccess_answers ..
  | receiveReserve => exact execReceiveReserve_answers ..
  | frameStored => exact execFrameStored_answers ..
  | frameForward => exact execFrameForward_answers ..
  | creditReturn => exact execCreditReturn_answers ..
  | rfcTransitionDone => exact execRfcTransitionDone_answers ..
  | heldDeadline => exact execHeldDeadline_answers ..
  | calStepDone => exact execCalStepDone_answers ..
  | dpdFitDone => exact execDpdFitDone_answers ..
  | dpdTimeout => exact execDpdTimeout_answers ..
  | fieldCheck => exact execFieldCheck_answers ..
  | tbWindowEnd => exact execTbWindowEnd_answers ..
  | ppduTxEnd => exact execPpduTxEnd_answers ..
  | edcaCommit => exact execEdcaCommit_answers ..
  | mpduReceive => exact execMpduReceive_answers ..
  | wifiBeaconReceive => exact execWifiBeaconReceive_answers ..
  | mpduLifetimeDrop => exact execMpduLifetimeDrop_answers ..
  | reorderTimeout => exact execReorderTimeout_answers ..
  | mpduMove => exact execMpduMove_answers ..
  | twtSlipCheck => exact execTwtSlipCheck_answers ..
  | dlMuPpdu => exact execDlMuPpdu_answers ..
  | triggerSend => exact execTriggerSend_answers ..
  | decisionOverrun => exact execDecisionOverrun_answers ..
  | fieldFrameReceive => exact execFieldFrameReceive_answers ..
  | fieldResponse => exact execFieldResponse_answers ..
  | longListenEnd => exact execLongListenEnd_answers ..
  | upstreamPoll => exact execUpstreamPoll_answers ..
  | packetClassify => exact execPacketClassify_answers ..
  | espResult => exact execEspResult_answers ..
  | rewriteUnitsGrant => exact execRewriteUnitsGrant_answers ..
  | legacyReorderRelease => exact execLegacyReorderRelease_answers ..
  | pipeTabApply => exact execPipeTabApply_answers ..
  | fenceDone => exact execFenceDone_answers ..
  | updComplete => exact execUpdComplete_answers ..
  | ethFrameReceive => exact execEthFrameReceive_answers ..
  | ethFrameTransmit => exact execEthFrameTransmit_answers ..
  | enqueue => exact execEnqueue_answers ..
  | descriptorComplete => exact execDescriptorComplete_answers ..
  | injectUnitsGrant => exact execInjectUnitsGrant_answers ..
  | coreAssign => exact execCoreAssign_answers ..
  | cryOperationComplete => exact execCryOperationComplete_answers ..
  | dramRequest => exact execDramRequest_answers ..
  | requestPromote => exact execRequestPromote_answers ..
  | trainStepDone => exact execTrainStepDone_answers ..
  | hdpPduReceive => exact execHdpPduReceive_answers ..
  | canSegmentReceive => exact execCanSegmentReceive_answers ..
  | spiPduRead => exact execSpiPduRead_answers ..
  | fwTimeout => exact execFwTimeout_answers ..
  | subscriptionDeliver => exact execSubscriptionDeliver_answers ..
  | eventSend => exact execEventSend_answers ..
  | eventAckTimeout => exact execEventAckTimeout_answers ..
  | digestPull => exact execDigestPull_answers ..
  | pullRetry => exact execPullRetry_answers ..
  | canFrameSent => exact execCanFrameSent_answers ..
  | restart => exact execRestart_answers ..
  | profileStep => exact execProfileStep_answers ..
  | xspiOpDone => exact execXspiOpDone_answers ..

/-! ### The state after reset -/

theorem reset_reg (a : Nat) : State.reset.reg a = regDefault a := rfl

/-- Below the first register window nothing is a register, so everything reads 0 (R6, R22). -/
theorem regDefault_eq_zero_of_lt {a : Nat} (h : a < 0x40000000) : regDefault a = 0 := by
  have hw : windowOf a = none := if_pos h
  unfold regDefault
  rw [hw]

theorem reset_stepok : State.reset.reg R.SYS_STEPOK = 0 := by decide

/-- While no start step has passed, no function is ready (R35). -/
theorem ready_eq_false_of_stepok_eq_zero {s : State} (h : s.reg R.SYS_STEPOK = 0) (k : Nat) : s.ready k = false := by
  have h1 : ∀ j, s.step1 j = false := by simp [State.step1, h]
  simp [State.ready, State.readyMesh, State.readyA, h1]

theorem reset_accessTable : ∀ n, n < 29 → State.reset.reg (R.SYS_ACC n) = 0xFFFFF := by decide

theorem reset_rfcState (r : Radio) : State.reset.rfcState r = Rs.SLEEP := by
  cases r <;> decide

theorem reset_macState (r : WRadio) : State.reset.macState r = 0 := by
  cases r <;> decide

/-! ### A plain read of a register -/

/-- A granted read of a register of the map that has no effect of its own answers what the register shows and clears its
RC fields (R7). -/
theorem busRead_eq_of_plain {s : State} {i : Init} {a : Nat} {w : Window} {row : RegRow} {ix : List Nat}
    (hr : s.MayRead i a) (ha : a % 4 = 0) (hw : windowOf a = some w)
    (hf : findRow w.rows (a - w.base) = some (row, ix))
    (hown : (if w.num = 24 then odeHookRead i s (a - w.base) else s.ownRead i w.num (a - w.base)) = none)
    (hsync : s.readSync w.num (a - w.base) = s) :
    State.busRead i a s = (s.setReg a (clearRc row.fields (s.reg a))).answer i (s.view i w a) := by
  simp only [State.busRead, State.regReadWith, hw, ha, ne_eq, not_true_eq_false, if_false, onRead_of_mayRead s i a _ hr, hown,
    State.plainRead, hsync, hf]

/-! ### The obligations -/

/-- Settles O5: the meaning ends in a next state by `exec_answers`, and `exec_keeps` says what that state keeps. -/
theorem everyCommandAnswers : Obligations.EveryCommandAnswers := by
  unfold Obligations.EveryCommandAnswers
  intro c s
  obtain ⟨t, ht⟩ := exec_answers c s
  obtain ⟨-, hpending, hfree⟩ := exec_keeps ht
  exact ⟨t, ht, hpending, hfree⟩

/-- Settles O2: the register table is empty at reset, so each register reads the value of the register map. -/
theorem resetValues : Obligations.ResetValues := by
  unfold Obligations.ResetValues
  refine ⟨rfl, rfl, rfl, rfl, rfl, reset_reg, ?gtuInc, ?gtuState, ?clken, ?wdt, ?rstcause, reset_accessTable, ?sysGrants,
    ?rdyen, fun k _ => ready_eq_false_of_stepok_eq_zero reset_stepok k, ?dev, ?drc, reset_rfcState, ?stp, reset_macState,
    ?fmac, ?alarm, rfl, rfl, fun a ha => regDefault_eq_zero_of_lt ha, fun _ => rfl, fun _ => rfl⟩
  all_goals decide

/-- Settles O10: the read is the plain one, and RC fields are cleared by a write of that register alone. -/
theorem counterRead : Obligations.CounterRead := by
  unfold Obligations.CounterRead
  intro s i a w row ix hr ha hw hf hown hsync
  have hexec : exec (.counterRead i a) s = .next ((s.setReg a (clearRc row.fields (s.reg a))).answer i (s.view i w a)) :=
    congrArg Host.Outcome.next (busRead_eq_of_plain hr ha hw hf hown hsync)
  refine ⟨_, hexec, rfl, ?_, fun b hb => ?_, fun _ => rfl⟩
  · exact (reg_setReg s a a _).trans (if_pos rfl)
  · exact (reg_setReg s a b _).trans (if_neg hb)

end Sys2Proof.Machine
end

section
/-! PROOFS. The architecture family: the frames of the commands (O6), the addresses of well-formed commands (O7), and the
start-step bits (O14). -/

namespace Sys2Proof.Machine

/-! ### Addresses of well-formed commands -/

/-- The rows that name an address bound it in `Instr.wf`; a memory access carries a 36-bit one, and every other row names 0. -/
theorem addr_lt_addrSpace_of_wf (c : Instr) : c.wf = true → c.addr < addrSpace := by
  cases c with
  | registerWrite i a v => exact Laws.WfCommand.registerWrite i a v
  | counterRead i a => exact Laws.WfCommand.counterRead i a
  | memoryAccess i a op => exact Laws.WfCommand.memoryAccess i a op
  | creditReturn r a => exact Laws.WfCommand.creditReturn r a
  | imageVerify rom target off => exact Laws.WfCommand.imageVerify rom target off
  | _ => exact fun _ => Laws.WfCommand.zero_lt

/-! ### The start-step register

A change of start-step bits (`State.stepsTo`) writes SYS_STEPOK and then the states that follow readiness, events, and what
a lost radio or field MAC gives up. `StepsStand` is closed under those operations: none of them writes SYS_STEPOK again. -/

theorem not_evrAddr_stepok : ¬ evrAddr R.SYS_STEPOK := fun h => absurd h.2 (by decide)

/-- The start-step register holds `v`, and every staged MPDU is in the pool of one of the four radios (R315). The second
part is needed because `State.txGive` computes the register of the pool from the MPDU's radio. -/
structure StepsStand (v : Word) (s : State) : Prop where
  stepok : s.reg R.SYS_STEPOK = v
  radios : ∀ m ∈ s.mpdus, m.radio < 4

namespace StepsStand

variable {v : Word} {s t : State}

theorem congr (h : StepsStand v s) (hr : t.regs = s.regs) (hm : t.mpdus = s.mpdus) : StepsStand v t :=
  ⟨(congrArg (fun l => Sparse.get regDefault l R.SYS_STEPOK) hr).trans h.stepok, hm ▸ h.radios⟩

theorem ite {c : Prop} [Decidable c] (hs : StepsStand v s) (ht : StepsStand v t) : StepsStand v (if c then s else t) := by
  split
  · exact hs
  · exact ht

theorem foldl {β : Type} {f : State → β → State} (hf : ∀ {t x}, StepsStand v t → StepsStand v (f t x)) (l : List β)
    (h : StepsStand v s) : StepsStand v (l.foldl f s) :=
  List.foldlRecOn l f h (fun _ ht _ _ => hf ht)

theorem setReg {a : Nat} {w : Word} (h : StepsStand v s) (ha : R.SYS_STEPOK ≠ a) : StepsStand v (s.setReg a w) :=
  ⟨by rw [reg_setReg, if_neg ha, h.stepok], h.radios⟩

theorem wf {f : Fld} {n : Nat} (h : StepsStand v s) (ha : R.SYS_STEPOK ≠ f.addr) : StepsStand v (s.wf f n) := h.setReg ha

theorem wb {f : Fld} {b : Bool} (h : StepsStand v s) (ha : R.SYS_STEPOK ≠ f.addr) : StepsStand v (s.wb f b) := h.wf ha

theorem setFld {g : FieldSt → FieldSt} (h : StepsStand v s) : StepsStand v (s.setFld g) := h.congr rfl rfl

theorem bump {a : Nat} (h : StepsStand v s) (ha : R.SYS_STEPOK ≠ a) : StepsStand v (s.bump a) := ite (h.setReg ha) h

theorem raise {n : Nat} (h : StepsStand v s) (hn : n < 256) : StepsStand v (s.raise n) :=
  ⟨by rw [reg_raise s n _ hn not_evrAddr_stepok, h.stepok], by rw [raise_mpdus]; exact h.radios⟩

theorem writeN (a n x : Nat) (h : StepsStand v s) : StepsStand v (s.writeN a n x) := by
  induction n generalizing s a x with
  | zero => exact h
  | succ n ih => exact ih _ _ (h.congr rfl rfl)

theorem setRec {i w hi lo n : Nat} (h : StepsStand v s) : StepsStand v (s.setRec i w hi lo n) := h.writeN ..

/-! #### Readiness follows -/

theorem syncState {k : Nat} {f : Fld} (h : StepsStand v s) (ha : R.SYS_STEPOK ≠ f.addr) : StepsStand v (s.syncState k f) :=
  ite (ite (h.wf ha) h) (ite h (h.wf ha))

theorem syncStates (h : StepsStand v s) : StepsStand v s.syncStates := by
  have hmac := ((h.syncState (k := 14) (f := F.MAC_STAT_STATE .l) (by decide)).syncState (k := 15) (f := F.MAC_STAT_STATE .m)
    (by decide)).syncState (k := 16) (f := F.MAC_STAT_STATE .h) (by decide)
  have hstp := (hmac.syncState (k := 18) (f := F.FMAC_STAT_STATE) (by decide)).syncState (k := 19) (f := F.STP_STAT_STATE)
    (by decide)
  exact ite hstp (hstp.raise (by decide))

theorem readyEvents (a b n : Nat) (h : StepsStand v s) : StepsStand v (s.readyEvents a b n) := by
  induction n with
  | zero => exact h
  | succ n ih => exact ite (ih.raise (by decide)) ih

/-- The start-step register takes the word written to it, whatever it held. -/
theorem setSteps (n : Nat) (h : StepsStand v s) : StepsStand (BitVec.ofNat 32 n) (s.setSteps n) := by
  have hset : StepsStand (BitVec.ofNat 32 n) (s.setRegN R.SYS_STEPOK n) := ⟨by rw [reg_setRegN, if_pos rfl], h.radios⟩
  exact ite (hset.syncStates.readyEvents ..) hset.syncStates

/-! #### A function is lost -/

theorem txGive {r u : Nat} (h : StepsStand v s) (hr : r < 4) : StepsStand v (s.txGive r u) :=
  h.wf (by unfold F.QMG_RPOOLUSE_TXUSE R.QMG_RPOOLUSE R.SYS_STEPOK; simp only; omega)

theorem unstage (m : Mpdu) (h : StepsStand v s) : StepsStand v (s.unstage m) := ite h h.setRec.setRec

theorem dropMpdu (n : Nat) (h : StepsStand v s) : StepsStand v (s.dropMpdu n) := by
  unfold State.dropMpdu
  split
  · exact h
  · rename_i m hm
    have hlt : m.radio < 4 := h.radios m (List.mem_of_find?_eq_some hm)
    exact txGive ⟨h.stepok, fun x hx => h.radios x (List.mem_filter.mp hx).1⟩ hlt

theorem endMpdu (n : Nat) (h : StepsStand v s) : StepsStand v (s.endMpdu n) := by
  unfold State.endMpdu
  split
  · exact h
  · exact (h.unstage _).dropMpdu n

theorem radioLost (r : WRadio) (h : StepsStand v s) : StepsStand v (s.radioLost r) := by
  have hstat : StepsStand v (s.wf (F.MAC_STAT_BSSACT r) 0) := h.wf (by cases r <;> decide)
  refine foldl (fun {t m} ht => ?_) _ (hstat.congr rfl rfl)
  extract_lets dst
  clear_value dst
  split
  · exact ht.congr rfl rfl
  · exact (ht.endMpdu _).bump (by decide)

theorem fieldLost (h : StepsStand v s) : StepsStand v s.fieldLost := by
  unfold State.fieldLost
  exact ((((h.wb (by decide)).wb (by decide)).wb (by decide)).wf (by decide)).setFld

theorem keepLim (i : Nat) (h : StepsStand v s) : StepsStand v (s.keepLim i) := ite h.setRec h

theorem keepAllLim (h : StepsStand v s) : StepsStand v s.keepAllLim := foldl (fun ht => ht.keepLim _) _ h

/-- A write of start-step bits leaves the register as written, whatever is lost with it. -/
theorem stepsTo (n : Nat) (h : StepsStand v s) : StepsStand (BitVec.ofNat 32 n) (s.stepsTo n) := by
  unfold State.stepsTo
  extract_lets was t0 tl tm th tf
  have h0 : StepsStand (BitVec.ofNat 32 n) t0 := h.setSteps n
  have hl : StepsStand (BitVec.ofNat 32 n) tl := ite (h0.radioLost .l) h0
  have hm : StepsStand (BitVec.ofNat 32 n) tm := ite (hl.radioLost .m) hl
  have hh : StepsStand (BitVec.ofNat 32 n) th := ite (hm.radioLost .h) hm
  have hf : StepsStand (BitVec.ofNat 32 n) tf := ite hh.fieldLost hh
  exact ite hf.keepAllLim hf

end StepsStand

/-! ### The start-step bits -/

theorem readyA_eq_false_of_step1_eq_false {s : State} {k : Nat} (h : s.step1 k = false) : s.readyA k = false := by
  unfold State.readyA
  repeat' split
  all_goals simp_all

/-- A function whose own start step has not passed is not ready, whatever it depends on (R35, R36). -/
theorem ready_eq_false_of_step1_eq_false {s : State} {k : Nat} (h : s.step1 k = false) : s.ready k = false := by
  have hA := readyA_eq_false_of_step1_eq_false h
  unfold State.ready State.readyMesh
  repeat' split
  all_goals simp_all

/-- Clearing the bits of a mask by the subtraction that READINESS_CLEAR and STEPCLR write. -/
theorem ofNat_toNat_sub_and (x m : Word) : BitVec.ofNat 32 (x.toNat - (x.toNat &&& m.toNat)) = x &&& ~~~m := by
  have hle : x &&& m ≤ x := by
    rw [BitVec.le_def, BitVec.toNat_and]
    exact Nat.and_le_left
  have hdisjoint : (x &&& ~~~m) &&& (x &&& m) = 0#32 := by
    ext i
    grind
  have hsplit : (x &&& ~~~m) + (x &&& m) = x := by
    rw [BitVec.add_eq_or_of_and_eq_zero _ _ hdisjoint]
    ext i
    grind
  rw [← BitVec.toNat_and, ← BitVec.toNat_sub_of_le hle, BitVec.ofNat_toNat, BitVec.setWidth_eq]
  exact BitVec.sub_eq_iff_eq_add.mpr hsplit.symm

theorem step1_stepsTo {s : State} (hs : ∀ m ∈ s.mpdus, m.radio < 4) (n j : Nat) :
    (s.stepsTo n).step1 j = (BitVec.ofNat 32 n).getLsbD j :=
  congrArg (fun w : Word => w.getLsbD j) (StepsStand.stepsTo n ⟨rfl, hs⟩).stepok

theorem toNat_twoPow_fin (k : Fin 26) : (BitVec.twoPow 32 k.val).toNat = 2 ^ k.val :=
  BitVec.toNat_twoPow_of_lt (by omega)

/-- A set moves its bit alone (R35), in every state whose staged MPDUs are in pools of radios. -/
theorem step1_readinessSet {s : State} (hs : ∀ m ∈ s.mpdus, m.radio < 4) (k : Fin 26) :
    Runs (.readinessSet k) s fun t => ∀ j, t.step1 j = (s.step1 j || decide (k.val = j)) := by
  refine ⟨_, rfl, fun j => ?_⟩
  have hk : k.val < 32 := by omega
  rw [step1_stepsTo hs, ← toNat_twoPow_fin, State.regN, ← BitVec.toNat_or, BitVec.ofNat_toNat, BitVec.setWidth_eq,
    BitVec.getLsbD_or, BitVec.getLsbD_twoPow, decide_eq_true hk, Bool.true_and, State.step1]

/-- A clear moves its bit alone, and its function is no longer ready (R35), in every state whose staged MPDUs are in pools
of radios. -/
theorem step1_readinessClear {s : State} (hs : ∀ m ∈ s.mpdus, m.radio < 4) (k : Fin 26) :
    Runs (.readinessClear k) s fun t => (∀ j, t.step1 j = (s.step1 j && !decide (k.val = j))) ∧ t.ready k.val = false := by
  have hbits : ∀ j, (s.stepsTo (s.regN R.SYS_STEPOK - (s.regN R.SYS_STEPOK &&& 2 ^ k.val))).step1 j =
      (s.step1 j && !decide (k.val = j)) := fun j => by
    have hk : k.val < 32 := by omega
    rw [step1_stepsTo hs, ← toNat_twoPow_fin, State.regN, ofNat_toNat_sub_and, BitVec.getLsbD_and, BitVec.getLsbD_not,
      BitVec.getLsbD_twoPow, decide_eq_true hk, Bool.true_and, ← State.step1]
    by_cases hj : j < 32
    · rw [decide_eq_true hj, Bool.true_and]
    · have hzero : s.step1 j = false := BitVec.getLsbD_of_ge _ _ (by omega)
      rw [hzero, Bool.false_and, Bool.false_and]
  exact ⟨_, rfl, hbits, ready_eq_false_of_step1_eq_false (by rw [hbits]; simp)⟩

/-! ### The obligations -/

/-- Settles O6: `exec_same` is the frame of every command, part by part. -/
theorem framesByPart : Obligations.FramesByPart := by
  unfold Obligations.FramesByPart
  intro c s t h p hp
  exact exec_same h hp

/-- Settles O7: by `addr_lt_addrSpace_of_wf`, and for a memory access by the bounds that `MemOp.wf` tests. -/
theorem wellFormedAddresses : Obligations.WellFormedAddresses := by
  unfold Obligations.WellFormedAddresses
  refine ⟨addr_lt_addrSpace_of_wf, fun i a n h => of_decide_eq_true h, fun i a l h => ?_⟩
  obtain ⟨hpos, hend⟩ : 0 < l.length ∧ a.toNat + l.length ≤ addrSpace := of_decide_eq_true h
  exact ⟨List.ne_nil_of_length_pos hpos, hend⟩

/-- A staged MPDU numbered 0, of one unit and no client, in pool `r`. -/
def mpduInPool (r : Nat) : Mpdu := ⟨0, r, [], 1, 0xFFF, 0, 0, 0, 0, 0, 0, 0, true, false, []⟩

/-- Every start step has passed, and two staged MPDUs share the number 0: one of radio L and, before it, one in a pool that
no radio has, whose QMG_RPOOLUSE would stand at the address of SYS_STEPOK. -/
def strayPool : State :=
  { State.reset.setRegN R.SYS_STEPOK 0x3FFFFFF with mpdus := [mpduInPool 0x1CBFBA, mpduInPool 0] }

/-- Radio L is lost with bit 14 and drops its MPDU by number; the one found first gives its unit back to the stray pool, which
takes 1 from the bits [31:16] of SYS_STEPOK. -/
theorem stepsTo_strayPool_clears_16 :
    (strayPool.stepsTo (strayPool.regN R.SYS_STEPOK - (strayPool.regN R.SYS_STEPOK &&& 2 ^ 14))).step1 16 = false := by
  decide +kernel

/-- Refutes O14: in `strayPool`, READINESS_CLEAR of radio L's bit 14 clears bit 16 as well. The state is not a sensible one,
but the statement speaks of every state; where the pools are those of radios, `step1_readinessSet` and
`step1_readinessClear` give what it asks. -/
theorem not_readinessFollows : ¬ Obligations.ReadinessFollows := by
  unfold Obligations.ReadinessFollows
  intro h
  obtain ⟨t, hexec, -, hothers, -⟩ := (h strayPool 14).2
  have ht : t = strayPool.stepsTo (strayPool.regN R.SYS_STEPOK - (strayPool.regN R.SYS_STEPOK &&& 2 ^ 14)) :=
    (Host.Outcome.next.inj hexec).symm
  have hlost : t.step1 16 = false := ht ▸ stepsTo_strayPool_clears_16
  have hkept : t.step1 16 = true := (hothers 16 (by decide)).trans (by decide)
  exact absurd (hlost.symm.trans hkept) Bool.false_ne_true

end Sys2Proof.Machine
end

section
/-! PROOFS. The grid-time family: what a step is (O1), the invariant at reset and through steps (O3, O4), the reads of grid
time (O18), and the GTU's settings (O16). -/

namespace Sys2Proof.Machine

/-! ### The step -/

theorem step_of_pending_cons {s : State} {c : Instr} {rest : List Instr} (h : s.pending = c :: rest) :
    step s = exec c (s.withPending rest) := by
  unfold step
  rw [h]

theorem step_of_pending_nil {s : State} (h : s.pending = []) : step s = .next s.idleTick := by
  unfold step
  rw [h]

/-- No time passes while the reference is not valid (R501). -/
theorem idleTick_of_phase_lt {s : State} (h : s.sys.phase < 2) : s.idleTick = s := if_pos h

theorem idleTick_of_phase_ge {s : State} (h : 2 ≤ s.sys.phase) : s.idleTick = s.tick.ptpTick.relayRetake :=
  if_neg (Nat.not_lt.mpr h)

/-! ### Grid time stands

A tick on an empty queue may take a relay switch again (R520), and that can arm and fire channel 62. No target of a compare
channel moves the accumulator. -/

/-- A strobe input is outside the GTU (R32, R552). -/
theorem strobeIn_gtu (s : State) (x : Nat) : (s.strobeIn x).gtu = s.gtu :=
  Within.strobeIn (m := 302121045) (.refl s) ⟨rfl⟩ .gtu rfl

theorem gcFail_gtu (s : State) (n code ev : Nat) : (s.gcFail n code ev).gtu = s.gtu :=
  Within.gcFail (m := 17) (.refl s) ⟨rfl⟩ .gtu rfl

theorem dropRelay_gtu (s : State) : s.dropRelay.gtu = s.gtu :=
  Within.dropRelay (m := 33554433) (.refl s) ⟨rfl⟩ .gtu rfl

theorem ptpTick_gtu (s : State) : s.ptpTick.gtu = s.gtu := Within.ptpTick (m := 65536) (.refl s) ⟨rfl⟩ .gtu rfl

theorem gtuAcc_ite {c : Prop} [Decidable c] {s t : State} {acc : BitVec 92} (hs : s.gtu.acc = acc) (ht : t.gtu.acc = acc) :
    (if c then s else t).gtu.acc = acc := by
  split
  · exact hs
  · exact ht

/-- A pin action changes levels and pulses alone (R552). -/
theorem pinAct_gtuAcc (s : State) (act p width : Nat) : (s.pinAct act p width).gtu.acc = s.gtu.acc :=
  gtuAcc_ite rfl (gtuAcc_ite rfl (gtuAcc_ite rfl rfl))

theorem gcTarget_gtuAcc (s : State) (n : Nat) : (s.gcTarget n).gtu.acc = s.gtu.acc := by
  unfold State.gcTarget
  extract_lets x
  have hstrobe : ((s.emit (.strobe x s.gt)).strobeIn x).gtu.acc = s.gtu.acc := by rw [strobeIn_gtu, emit_gtu]
  exact gtuAcc_ite (pinAct_gtuAcc ..) (gtuAcc_ite hstrobe rfl)

/-- A firing does not move grid time (R57). -/
theorem gcFireNow_gtuAcc (s : State) (n : Nat) : (s.gcFireNow n).gtu.acc = s.gtu.acc := by
  unfold State.gcFireNow
  extract_lets fired armed evt acted
  have harmed : armed.gtu.acc = s.gtu.acc := gtuAcc_ite rfl rfl
  have hacted : acted.gtu.acc = s.gtu.acc := (gcTarget_gtuAcc armed n).trans harmed
  exact gtuAcc_ite (by rw [raise_gtu, hacted]) hacted

/-- Nor does an ARM, whether it fails, waits or fires at once (R58). -/
theorem gcArmNow_gtuAcc (s : State) (n : Nat) : (s.gcArmNow n).gtu.acc = s.gtu.acc := by
  unfold State.gcArmNow
  extract_lets kind x cmp stated valued gtu armed
  have hfail : ∀ code ev, (s.gcFail n code ev).gtu.acc = s.gtu.acc := fun _ _ => by rw [gcFail_gtu]
  have hlate : ((s.wf (F.GC_STAT_LATEF n) 1).gcFail n St.LATE 8).gtu.acc = s.gtu.acc := by
    rw [gcFail_gtu]
    rfl
  have harmed : (if cmp ≤ armed.gtN then armed.gcFireNow n else armed).gtu.acc = s.gtu.acc :=
    gtuAcc_ite (gcFireNow_gtuAcc armed n) rfl
  exact gtuAcc_ite (hfail ..) (gtuAcc_ite (hfail ..) (gtuAcc_ite (hfail ..) (gtuAcc_ite hlate harmed)))

theorem armRelay_gtuAcc (s : State) (at_ : Nat) : (s.armRelay at_).gtu.acc = s.gtu.acc := gcArmNow_gtuAcc _ _

theorem relayTake_gtuAcc (s : State) (close : Bool) : (s.relayTake close).gtu.acc = s.gtu.acc := by
  unfold State.relayTake
  extract_lets dropped op st ang az t
  have hdropped : dropped.gtu.acc = s.gtu.acc := congrArg GtuSt.acc (dropRelay_gtu s)
  exact gtuAcc_ite rfl (gtuAcc_ite hdropped (by rw [armRelay_gtuAcc, setLum_gtu, hdropped]))

theorem relayRetake_gtuAcc (s : State) : s.relayRetake.gtu.acc = s.gtu.acc := by
  unfold State.relayRetake
  split
  · rfl
  · exact gtuAcc_ite rfl (relayTake_gtuAcc ..)

/-- One tick adds GTU_INC once (text above R40). -/
theorem idleTick_gtuAcc {s : State} (h : 2 ≤ s.sys.phase) :
    s.idleTick.gtu.acc = s.gtu.acc + BitVec.ofNat 92 (s.regN R.GTU_INC) := by
  rw [idleTick_of_phase_ge h, relayRetake_gtuAcc, ptpTick_gtu]
  rfl

theorem relayRetake_mem (s : State) : s.relayRetake.mem = s.mem :=
  Within.relayRetake (m := 464484477) (.refl s) ⟨rfl⟩ .mem rfl

theorem ptpTick_mem (s : State) : s.ptpTick.mem = s.mem := Within.ptpTick (m := 65536) (.refl s) ⟨rfl⟩ .mem rfl

theorem idleTick_mem {s : State} (h : 2 ≤ s.sys.phase) : s.idleTick.mem = s.mem := by
  rw [idleTick_of_phase_ge h, relayRetake_mem, ptpTick_mem]
  rfl

/-! ### What the frames give of memory and of the GTU -/

theorem sameBytes_of_exec {c : Instr} {s t : State} (h : exec c s = .next t) (hc : .mem ∉ touched c) : SameBytes s t :=
  fun a => congrArg (fun m => Sparse.get (fun _ => 0) m a) (exec_same h hc : t.mem = s.mem)

/-- No register of the GTU window is one that an occurrence of an event updates. -/
theorem not_evrAddr_of_lt {a : Nat} (h : a < 0x40010000) : ¬ evrAddr a := fun he => Nat.not_le.mpr h he.1

/-- The end of a GTU step leaves every field but INBAND and QUAL of the GTU's registers. -/
theorem rf_gtuEnd_other (s : State) (g : Fld) (hg : g.lo ≤ g.hi) (ha : g.addr < 0x40010000) (hq : g.addr ≠ R.GTU_HOLD)
    (hb : g.addr ≠ R.GTU_STAT ∨ F.GTU_STAT_INBAND.hi < g.lo ∨ g.hi < F.GTU_STAT_INBAND.lo) :
    (s.gtuEnd []).rf g = s.rf g := by
  unfold State.rf
  rw [reg_gtuEnd s [] (by simp) _ (not_evrAddr_of_lt ha), if_neg hq]
  split
  · next hstat =>
    rw [hstat, bits_setBits_other _ _ _ _ _ _ (by decide) (by decide) (hb.resolve_left (· hstat)) hg]
  · rfl

/-! ### Register accesses -/

/-- The register window of the GTU (R23). -/
def gtuWindow : Window := ⟨0, 0x40000000, 0x4000FFFF, RegMap.gtu⟩

theorem windowOf_gtu {a : Nat} (hlo : 0x40000000 ≤ a) (hhi : a < 0x40010000) : windowOf a = some gtuWindow := by
  rw [windowOf, if_neg (Nat.not_lt.mpr hlo), if_pos hhi, gtuWindow]

/-- Two fields share no bit. -/
abbrev RegField.Apart (f g : RegField) : Prop := f.hi < g.lo ∨ g.hi < f.lo

theorem bits_applyFields_other {old v : Word} {hi lo : Nat} (hlo : lo ≤ hi) :
    ∀ {fields : List RegField} {acc : Word}, (∀ g ∈ fields, g.lo ≤ g.hi ∧ g.hi < 32 ∧ (g.hi < lo ∨ hi < g.lo)) →
      bits (applyFields fields old v acc) hi lo = bits acc hi lo
  | [], _, _ => rfl
  | f :: fs, acc, h => by
    obtain ⟨⟨hwf, hwidth, hapart⟩, hrest⟩ := List.forall_mem_cons.mp h
    rw [applyFields, bits_applyFields_other hlo hrest, bits_setBits_other _ _ _ _ _ _ hwidth hwf hapart hlo]

/-- After a write each field of the row holds what its access code makes of the word written (R7, R8). -/
theorem bits_applyFields {old v : Word} {f : RegField} :
    ∀ {fields : List RegField} {acc : Word}, f ∈ fields → (∀ g ∈ fields, g.lo ≤ g.hi ∧ g.hi < 32) →
      fields.Pairwise RegField.Apart →
      bits (applyFields fields old v acc) f.hi f.lo = f.after old v % 2 ^ (f.hi - f.lo + 1)
  | g :: fs, acc, hf, hwf, hapart => by
    obtain ⟨⟨hlo, hhi⟩, hrest⟩ := List.forall_mem_cons.mp hwf
    obtain ⟨hhead, htail⟩ := List.pairwise_cons.mp hapart
    rcases List.mem_cons.mp hf with rfl | hmem
    · rw [applyFields, bits_applyFields_other hlo fun g hg => ⟨(hrest g hg).1, (hrest g hg).2, (hhead g hg).symm⟩,
        bits_setBits _ _ _ _ hlo hhi]
    · rw [applyFields, bits_applyFields hmem hrest htail]

theorem writeReg_of_not_refused {s : State} {i a : Nat} {v : Word} {w : Window} {row : RegRow} {ix : List Nat}
    (hw : windowOf a = some w) (hrow : findRow w.rows (a - w.base) = some (row, ix)) (h : s.writeRefused i a v = false) :
    s.writeReg i a v = s.setReg a
      (applyFields (row.fields.filter fun f => !absentField w.num (a - w.base) f.hi) (s.reg a) v (s.reg a)) := by
  simp only [State.writeRefused, hw, hrow, Bool.or_eq_false_iff] at h
  obtain ⟨⟨hrights, hrange⟩, hstate⟩ := h
  simp only [State.writeReg, hw, hrow, State.fieldWrite, hrights, hrange, hstate, Bool.false_eq_true, if_false]

theorem bits_bit_eq_one (v : Word) (k : Nat) : (bits v k k == 1) = v.getLsbD k := by
  unfold bits
  rw [Nat.sub_self, BitVec.getLsbD, Nat.testBit_eq_decide_div_mod_eq]
  exact Bool.beq_eq_decide_eq ..

/-! ### GTU_CTRL -/

/-- The row of GTU_CTRL in the register table (R67). -/
def gtuCtrlRow : RegRow :=
  RegMap.row 0x4 [] [RegMap.fr 31 30 .rwi 0 0 2, RegMap.f 29 29 .rwi 0, RegMap.f 28 28 .rwi 0, RegMap.f 27 27 .rwi 0,
    RegMap.fr 19 16 .rwi 8 4 15, RegMap.f 0 0 .rw 0]

theorem findRow_gtuCtrl : findRow gtuWindow.rows (R.GTU_CTRL - gtuWindow.base) = some (gtuCtrlRow, []) := by decide

/-- A write of GTU_CTRL that is not refused sets NOM to bit 29 of the word (R67, R68). -/
theorem nom60_writeReg {s : State} {i : Nat} {v : Word} (h : s.writeRefused i R.GTU_CTRL v = false) :
    (s.writeReg i R.GTU_CTRL v).nom60 = v.getLsbD 29 := by
  have hbits : bits (applyFields gtuCtrlRow.fields (s.reg R.GTU_CTRL) v (s.reg R.GTU_CTRL)) 29 29 =
      bits v 29 29 % 2 := bits_applyFields (f := RegMap.f 29 29 .rwi 0) (by decide) (by decide) (by decide)
  have hlt : bits v 29 29 < 2 := bits_lt v 29 29
  rw [writeReg_of_not_refused (windowOf_gtu (by decide) (by decide)) findRow_gtuCtrl h,
    ← bits_bit_eq_one, ← Nat.mod_eq_of_lt hlt, ← hbits, State.nom60, State.rb, State.rf, reg_setReg]
  rfl

theorem regN_setInc_inc (s : State) (inc : Nat) : (s.setInc inc).regN R.GTU_INC = inc % 2 ^ 32 := by
  unfold State.setInc State.regN
  rw [reg_setRegN, if_neg (by decide), reg_setRegN, if_pos rfl, BitVec.toNat_ofNat]

theorem regN_gtuEnd_inc (s : State) : (s.gtuEnd []).regN R.GTU_INC = s.regN R.GTU_INC := by
  unfold State.regN
  rw [reg_gtuEnd s [] (by simp) _ (not_evrAddr_of_lt (by decide)), if_neg (by decide), if_neg (by decide)]

theorem nominalInc_lt (nom60 : Bool) : Gtu.nominalInc nom60 < 2 ^ 32 := by
  cases nom60 <;> decide

/-- A change of NOM loads the nominal increment (R40). -/
theorem gtuCtrlWrite_regN_inc {s : State} {i : Nat} {v : Word} (h : s.writeRefused i R.GTU_CTRL v = false)
    (hnom : v.getLsbD 29 = !s.nom60) :
    (State.gtuCtrlWrite i v s).regN R.GTU_INC = Gtu.nominalInc (v.getLsbD 29) := by
  have hchanged : (v.getLsbD 29 != s.nom60) = true := by
    rw [hnom]
    cases s.nom60 <;> rfl
  unfold State.gtuCtrlWrite
  extract_lets nom written
  have hwritten : written.nom60 = v.getLsbD 29 := nom60_writeReg h
  rw [hwritten, if_pos hchanged, regN_gtuEnd_inc, regN_setInc_inc, Nat.mod_eq_of_lt (nominalInc_lt _)]

/-! ### Pairs -/

theorem rf_setInc_other (s : State) (inc : Nat) (g : Fld) (hinc : g.addr ≠ R.GTU_INC) (hfreq : g.addr ≠ R.GTU_FREQ) :
    (s.setInc inc).rf g = s.rf g := by
  unfold State.setInc
  rw [rf_setRegN_other _ _ _ _ hfreq, rf_setRegN_other _ _ _ _ hinc]

/-- The GTU holds the pair `p`, and its accumulator is at `acc`. -/
structure PairHeld (p : GTime × Nat) (acc : BitVec 92) (s : State) : Prop where
  pair : s.gtu.pair = some p
  acc : s.gtu.acc = acc

/-- The pair is held and counts as valid (R50). -/
structure PairValid (p : GTime × Nat) (acc : BitVec 92) (s : State) : Prop extends PairHeld p acc s where
  valid : s.rf F.GTU_STAT_PMAP_VALID = 1

section

variable {p : GTime × Nat} {acc : BitVec 92} {s t : State}

theorem PairHeld.ite {c : Prop} [Decidable c] (hs : PairHeld p acc s) (ht : PairHeld p acc t) :
    PairHeld p acc (if c then s else t) := by
  split
  · exact hs
  · exact ht

theorem PairHeld.setRegN {a n : Nat} (h : PairHeld p acc s) : PairHeld p acc (s.setRegN a n) := ⟨h.pair, h.acc⟩

theorem PairHeld.setAgreeAt {x : Option GTime} (h : PairHeld p acc s) :
    PairHeld p acc { s with gtu := { s.gtu with agreeAt := x } } := ⟨h.pair, h.acc⟩

theorem PairHeld.wf_valid (h : PairHeld p acc s) : PairValid p acc (s.wf F.GTU_STAT_PMAP_VALID 1) :=
  ⟨⟨h.pair, h.acc⟩, rf_wf_same _ _ _ (by decide) (by decide)⟩

namespace PairValid

theorem setRegN {a n : Nat} (h : PairValid p acc s) (ha : R.GTU_STAT ≠ a) : PairValid p acc (s.setRegN a n) :=
  ⟨h.toPairHeld.setRegN, (rf_setRegN_other _ _ _ _ ha).trans h.valid⟩

theorem setInc {inc : Nat} (h : PairValid p acc s) : PairValid p acc (s.setInc inc) :=
  (h.setRegN (by decide)).setRegN (by decide)

theorem used (h : PairValid p acc s) : PairValid p acc s.used := ⟨⟨h.pair, h.acc⟩, h.valid⟩

theorem setDisc {x : Option (GTime × Nat)} (h : PairValid p acc s) :
    PairValid p acc { s with gtu := { s.gtu with disc := x } } := ⟨⟨h.pair, h.acc⟩, h.valid⟩

theorem wf_errEst {n : Nat} (h : PairValid p acc s) : PairValid p acc (s.wf F.GTU_HOLD_ERR_EST n) :=
  ⟨⟨h.pair, h.acc⟩, (rf_wf_other _ _ _ _ (by decide) (by decide) (by decide) (by decide)).trans h.valid⟩

theorem gtuEnd (h : PairValid p acc s) : PairValid p acc (s.gtuEnd []) :=
  ⟨⟨by rw [gtuEnd_gtu, h.pair], by rw [gtuEnd_gtu, h.acc]⟩,
    (rf_gtuEnd_other _ _ (by decide) (by decide) (by decide) (by decide)).trans h.valid⟩

end PairValid

end

/-- A commit keeps the pair, sets PMAP_VALID and leaves grid time, in every state of the GTU (R50, R52). -/
theorem pmapCommit_pairValid (s : State) :
    PairValid (BitVec.ofNat 64 (s.reg64 R.GTU_PMAP_GT_LO R.GTU_PMAP_GT_HI), s.reg64 R.GTU_PMAP_NS_LO R.GTU_PMAP_NS_HI)
      s.gtu.acc s.pmapCommit := by
  unfold State.pmapCommit
  extract_lets g n old gtu held rated valid freq b inc src disc
  have hheld : PairHeld (g, n) s.gtu.acc held := ⟨rfl, rfl⟩
  have hrated : PairHeld (g, n) s.gtu.acc rated := by
    unfold rated old
    rcases s.gtu.pair with _ | ⟨g0, n0⟩
    · exact hheld
    · exact .setAgreeAt (.ite hheld.setRegN hheld)
  have hfreq : PairValid (g, n) s.gtu.acc freq := hrated.wf_valid.setRegN (by decide)
  have hinc : PairValid (g, n) s.gtu.acc inc := hfreq.setInc.used
  have hdisc : PairValid (g, n) s.gtu.acc disc := hinc.setDisc
  split
  · exact hdisc.wf_errEst.gtuEnd
  · exact hfreq.gtuEnd

/-- PMAP_EXPIRE clears PMAP_VALID and touches GTU_STAT, GTU_FREQ and GTU_HOLD alone (R40, R42, R50, R52). -/
theorem pmapExpire_clears_valid (s : State) :
    Runs .pmapExpire s fun t =>
      t.rf F.GTU_STAT_PMAP_VALID = 0 ∧ RegsBut [R.GTU_STAT, R.GTU_FREQ, R.GTU_HOLD] s t := by
  refine ⟨_, rfl, ?_, fun a ha he => ?_⟩
  · rw [rf_gtuEnd_other _ _ (by decide) (by decide) (by decide) (by decide), rf_setRegN_other _ _ _ _ (by decide),
      rf_wf_same _ _ _ (by decide) (by decide)]
    rfl
  · simp only [List.mem_cons, List.not_mem_nil, or_false, not_or] at ha
    obtain ⟨hstat, hfreq, hhold⟩ := ha
    rw [reg_gtuEnd _ _ (by simp) _ he, if_neg hhold, if_neg hstat, reg_setRegN, if_neg hfreq]
    exact (reg_wf ..).trans (if_neg hstat)

/-- BCN_VALID_EXPIRE clears its bit of GTU_STAT alone (R67). -/
theorem bcnValidExpire_clears_valid (s : State) :
    Runs .bcnValidExpire s fun t =>
      t.rf F.GTU_STAT_BCN_VALID = 0 ∧ t.gtuState = s.gtuState ∧ RegsBut [R.GTU_STAT] s t := by
  refine ⟨_, rfl, ?_, ?_, fun a ha _ => ?_⟩
  · exact rf_wf_same _ _ _ (by decide) (by decide)
  · exact rf_wf_other _ _ _ _ (by decide) (by decide) (by decide) (.inr (by decide))
  · exact (reg_wf ..).trans (if_neg fun e => ha (List.mem_singleton.mpr e))

/-! ### Replicas -/

/-- A broadcast moves each replica of the list to the greater of its value and grid time, and no other (R56). -/
theorem getN_replicaStep (now k : Nat) : ∀ (l : List Nat) (r : Sparse Nat),
    Sparse.getN (replicaStep now r l) k = if k ∈ l then max (Sparse.getN r k) now else Sparse.getN r k
  | [], _ => rfl
  | j :: l, r => by
    have hput : Sparse.getN (Sparse.putN r j (max (Sparse.getN r j) now)) k =
        if k = j then max (Sparse.getN r j) now else Sparse.getN r k := Sparse.get_put ..
    rw [replicaStep, getN_replicaStep now k l, hput]
    by_cases hj : k = j
    · subst hj
      simp
    · simp [hj]

theorem mem_replicas {k : Nat} (h : k < 15) : k ∈ replicas := by
  unfold replicas
  simp only [List.mem_cons, List.not_mem_nil, or_false]
  omega

theorem getN_broadcast (s : State) {k : Nat} (h : k < 15) :
    Sparse.getN (replicaStep s.gtN s.gtu.replica replicas) k = max (Sparse.getN s.gtu.replica k) s.gtN := by
  rw [getN_replicaStep, if_pos (mem_replicas h)]

/-! ### Reads of grid time -/

/-- A latch of GTU_NOW_HI is written for its own initiator alone (R55). -/
theorem nowHi_gtuNowRead (s : State) (i j : Init) :
    Sparse.get (fun _ => 0) (s.gtuNowRead i).gtu.nowHi j.val =
      if j = i then s.gt.extractLsb' 32 32 else Sparse.get (fun _ => 0) s.gtu.nowHi j.val := by
  have hput : Sparse.get (fun _ => 0) (s.gtuNowRead i).gtu.nowHi j.val =
      if j.val = i.val then s.gt.extractLsb' 32 32 else Sparse.get (fun _ => 0) s.gtu.nowHi j.val := Sparse.get_put ..
  simp only [hput, Fin.val_inj]

/-- A read of GTU_NOW_HI shows the initiator's latch; the register has no RC field, so the read clears nothing (R7, R55). -/
theorem busRead_nowHi {s : State} {i : Init} (h : s.MayRead i R.GTU_NOW_HI) :
    State.busRead i R.GTU_NOW_HI s =
      (s.setReg R.GTU_NOW_HI (s.reg R.GTU_NOW_HI)).answer i (Sparse.get (fun _ => 0) s.gtu.nowHi i.val) :=
  busRead_eq_of_plain (row := RegMap.row 0x14 [] [RegMap.f 31 0 .ro 0]) h rfl (windowOf_gtu (by decide) (by decide))
    (by decide : findRow gtuWindow.rows (R.GTU_NOW_HI - gtuWindow.base) = some (_, [])) rfl rfl

/-! ### The obligations -/

/-- Settles O4: by `step_keeps`, since the invariant does not speak of the queue. -/
theorem invKept : Obligations.InvKept := by
  unfold Obligations.InvKept
  intro s t hs h
  obtain ⟨hinv, hpending, hfree⟩ := step_keeps h
  exact ⟨hinv hs, hpending, hfree⟩

/-- Settles O16: each register by what the end of a GTU step leaves of it, memory and grid time by the command's frame. -/
theorem gridTimeSettings : Obligations.GridTimeSettings := by
  unfold Obligations.GridTimeSettings
  refine ⟨fun s i => ⟨fun v hmay hw hnom => ?ctrl, fun hmay => ?commit, ?pmapExpire, ?bcnExpire⟩,
    fun s i => ⟨fun hmay => ?xlast, ?replicas⟩⟩
  case ctrl =>
    have hexec : exec (.gtuCtrlWrite i v) s = .next (State.gtuCtrlWrite i.val v s) :=
      congrArg Host.Outcome.next (onWrite_of_mayWrite s i _ _ hmay)
    have hgtu : (State.gtuCtrlWrite i.val v s).gtu = s.gtu := exec_same hexec (p := .gtu) (by simp [touched])
    exact ⟨_, hexec, gtuCtrlWrite_regN_inc hw hnom, congrArg GtuSt.acc hgtu, sameBytes_of_exec hexec (by simp [touched])⟩
  case commit =>
    have hexec : exec (.pmapCommit i) s = .next s.pmapCommit :=
      congrArg Host.Outcome.next (onWrite_of_mayWrite s i _ _ hmay)
    obtain ⟨⟨hpair, hacc⟩, hvalid⟩ := pmapCommit_pairValid s
    exact ⟨_, hexec, hpair, beq_iff_eq.mpr hvalid, hacc, sameBytes_of_exec hexec (by simp [touched])⟩
  case pmapExpire =>
    obtain ⟨t, hexec, hvalid, hregs⟩ := pmapExpire_clears_valid s
    exact ⟨t, hexec, by rw [State.rb, hvalid]; rfl, hregs, sameBytes_of_exec hexec (by simp [touched])⟩
  case bcnExpire =>
    obtain ⟨t, hexec, hvalid, hstate, hregs⟩ := bcnValidExpire_clears_valid s
    exact ⟨t, hexec, by rw [State.rb, hvalid]; rfl, hstate, hregs, sameBytes_of_exec hexec (by simp [touched])⟩
  case xlast =>
    have hexec : exec (.xlastRead i) s = .next (s.xlastRead i) :=
      congrArg Host.Outcome.next (onRead_of_mayRead s i _ _ hmay)
    have hreg : ∀ a, (s.xlastRead i).reg a = if a = R.GTU_XLAST_HI then s.gtu.xlast.extractLsb' 32 32 else s.reg a :=
      fun a => reg_setReg ..
    exact ⟨_, hexec, rfl, (hreg _).trans (if_pos rfl),
      fun a ha _ => (hreg a).trans (if_neg fun e => ha (List.mem_singleton.mpr e)),
      sameBytes_of_exec hexec (by simp [touched])⟩
  case replicas =>
    have hexec : exec .replicaBroadcast s = .next { s with gtu := { s.gtu with
        replica := replicaStep s.gtN s.gtu.replica replicas, replicaInc := s.regN R.GTU_INC } } := rfl
    refine ⟨_, hexec, fun k hk => ?_, rfl, rfl, sameBytes_of_exec hexec (by decide)⟩
    dsimp only
    exact getN_broadcast s hk

/-- Settles O1: by the two equations of `step`; on an empty queue `idleTick` is one tick, and what follows it in the tick
leaves grid time and memory. -/
theorem stepRunsFront : Obligations.StepRunsFront := by
  unfold Obligations.StepRunsFront
  intro s
  refine ⟨fun c rest h => step_of_pending_cons h, fun h hphase => ?_, fun h hphase => ?_⟩
  · rw [step_of_pending_nil h, idleTick_of_phase_lt hphase]
  · have hstep := step_of_pending_nil h
    obtain ⟨-, hpending, -⟩ := step_keeps hstep
    have hnil : s.idleTick.pending = [] := by rw [hpending, withPending_pending, h, List.tail_nil]
    exact ⟨s.idleTick, hstep, hnil, idleTick_gtuAcc hphase, idleTick_mem hphase⟩

/-- Settles O3: at reset every table and both FIFOs are empty. -/
theorem invAtReset : Obligations.InvAtReset := by
  unfold Obligations.InvAtReset
  exact ⟨⟨rfl, rfl, rfl, rfl⟩, Nat.zero_le _, Nat.zero_le _⟩

/-- Settles O18: a read of the low word writes one latch, and a read of the high word is a plain one that shows it. -/
theorem gridTimeReads : Obligations.GridTimeReads := by
  unfold Obligations.GridTimeReads
  refine fun s i => ⟨fun hmay => ?low, fun hmay => ?high⟩
  case low =>
    have hexec : exec (.gtuNowRead i) s = .next (s.gtuNowRead i) :=
      congrArg Host.Outcome.next (onRead_of_mayRead s i _ _ hmay)
    exact ⟨_, hexec, rfl, (nowHi_gtuNowRead s i i).trans (if_pos rfl),
      fun j hj => (nowHi_gtuNowRead s i j).trans (if_neg hj), rfl, sameBytes_of_exec hexec (by simp [touched])⟩
  case high =>
    refine ⟨_, congrArg Host.Outcome.next (busRead_nowHi hmay), rfl, fun a => ?_, rfl, fun _ => rfl⟩
    refine (reg_setReg s _ a _).trans ?_
    split
    · next ha => rw [ha]
    · rfl

end Sys2Proof.Machine
end

section
/-! PROOFS. The radio-control family: what the front end's hardware brings to a radio (O24), and the command ports and the
results of the front end (O25). -/

namespace Sys2Proof.Machine

/-! ### The controller of one radio -/

@[simp] theorem Per4.get_set {α : Type} (p : Per4 α) (r : Radio) (x : α) : (p.set r x).get r = x := by
  cases r <;> rfl

@[simp] theorem setRfc_rfc_get (s : State) (r : Radio) (f : RfcSt → RfcSt) :
    (s.setRfc r f).rfc.get r = f (s.rfc.get r) := Per4.get_set ..

@[simp] theorem bumpTo_rfc (s : State) (a m : Nat) : (s.bumpTo a m).rfc = s.rfc :=
  Within.bumpTo (m := 1) (.refl s) ⟨rfl⟩ .rfc rfl

@[simp] theorem wf_rfc (s : State) (f : Fld) (n : Nat) : (s.wf f n).rfc = s.rfc := rfl

theorem rxLeave_rfc (s : State) (r : Radio) (lockLoss : Bool) : (s.rxLeave r lockLoss).rfc = s.rfc :=
  Within.rxLeave (m := 133) (.refl s) ⟨rfl⟩ .rfc rfl

theorem ppduEnd_rfc (s : State) (r : Radio) (tag status : Nat) : (s.ppduEnd r tag status).rfc = s.rfc :=
  Within.ppduEnd (m := 133) (.refl s) ⟨rfl⟩ .rfc rfl

/-- Each radio has eight events of its own (chapter 3, before R70). -/
theorem radioEv_add_lt (r : Radio) {n : Nat} (h : n < 8) : radioEv r + n < 256 := by
  cases r <;> simp only [radioEv, Radio.idx] <;> omega

/-! ### Registers of the radio-control windows -/

/-- No register above the EVR's window is one that an occurrence of an event updates. -/
theorem not_evrAddr_of_ge {a : Nat} (h : 0x40020000 ≤ a) : ¬ evrAddr a := fun he => Nat.not_lt.mpr h he.2

theorem not_evrAddr_stat (r : Radio) : ¬ evrAddr (R.RFC_STAT r) := not_evrAddr_of_ge (by cases r <;> decide)

/-- A field that shares no bit with the one written stands. -/
theorem rf_wf_apart (s : State) {f g : Fld} (n : Nat)
    (h : f.hi < 32 ∧ f.lo ≤ f.hi ∧ g.lo ≤ g.hi ∧ (g.addr ≠ f.addr ∨ f.hi < g.lo ∨ g.hi < f.lo)) :
    (s.wf f n).rf g = s.rf g := by
  obtain ⟨hwidth, hf, hg, hapart⟩ := h
  exact rf_wf_other s f g n hwidth hf hg hapart

/-- A one-bit field written reads back. -/
theorem rb_wf_bit (s : State) {f : Fld} (n : Nat) (hbit : f.hi = f.lo) (hwidth : f.hi < 32) :
    (s.wf f n).rb f = (n % 2 == 1) := by
  rw [State.rb, rf_wf_same _ _ _ (Nat.le_of_eq hbit.symm) hwidth, hbit, Nat.sub_self, Nat.zero_add, Nat.pow_one]

namespace RegsBut

variable {l : List Nat} {s t u : State}

theorem refl : RegsBut l s s := fun _ _ _ => rfl

theorem trans (h : RegsBut l s t) (g : RegsBut l t u) : RegsBut l s u := fun a ha he => (g a ha he).trans (h a ha he)

theorem weaken {l' : List Nat} (h : RegsBut l s t) (hl : l ⊆ l') : RegsBut l' s t := fun a ha => h a fun hm => ha (hl hm)

theorem ite {c : Prop} [Decidable c] (ht : RegsBut l s t) (hu : RegsBut l s u) : RegsBut l s (if c then t else u) := by
  split
  · exact ht
  · exact hu

theorem setReg {a : Nat} {v : Word} (h : RegsBut l s t) (ha : a ∈ l) : RegsBut l s (t.setReg a v) := fun b hb he =>
  (reg_setReg t a b v).trans ((if_neg fun e : b = a => hb (e ▸ ha)).trans (h b hb he))

theorem wf {f : Fld} {n : Nat} (h : RegsBut l s t) (ha : f.addr ∈ l) : RegsBut l s (t.wf f n) := h.setReg ha

theorem bumpTo {a m : Nat} (h : RegsBut l s t) (ha : a ∈ l) : RegsBut l s (t.bumpTo a m) := .ite (h.setReg ha) h

theorem raise {n : Nat} (h : RegsBut l s t) (hn : n < 256) : RegsBut l s (t.raise n) := fun a ha he =>
  (reg_raise t n a hn he).trans (h a ha he)

theorem setRfc {r : Radio} {f : RfcSt → RfcSt} (h : RegsBut l s t) : RegsBut l s (t.setRfc r f) := h

theorem rf (h : RegsBut l s t) {g : Fld} (hg : g.addr ∉ l) (he : ¬ evrAddr g.addr) : t.rf g = s.rf g := by
  rw [State.rf, h _ hg he, State.rf]

theorem rb (h : RegsBut l s t) {g : Fld} (hg : g.addr ∉ l) (he : ¬ evrAddr g.addr) : t.rb g = s.rb g := by
  rw [State.rb, h.rf hg he, State.rb]

end RegsBut

/-! ### Results, and the end of what a controller carries out -/

/-- A result is filed in the FIFO or counted as lost, and its event is raised (R79, R80). -/
theorem regsBut_rfcResult (s : State) (r : Radio) (c : RfcCmd) (status : Nat) :
    RegsBut [R.RFC_CNT_RESOVF r] s (s.rfcResult r c status) := by
  unfold State.rfcResult
  extract_lets filed
  have hfiled : RegsBut [R.RFC_CNT_RESOVF r] s filed :=
    .ite (.setRfc .refl) (RegsBut.refl.bumpTo (List.mem_singleton_self _))
  have hraised : ∀ n, n < 8 → RegsBut [R.RFC_CNT_RESOVF r] s (filed.raise (radioEv r + n)) :=
    fun n hn => hfiled.raise (radioEv_add_lt r hn)
  exact .ite (.ite (hraised 0 (by decide)) hfiled) (.ite (hraised 2 (by decide)) (.ite hfiled (hraised 1 (by decide))))

theorem rfcGet_ite {c : Prop} [Decidable c] {s t : State} {r : Radio} {f : RfcSt} (hs : s.rfc.get r = f)
    (ht : t.rfc.get r = f) : (if c then s else t).rfc.get r = f := by
  split
  · exact hs
  · exact ht

theorem rfc_rfcResult (s : State) (r : Radio) (c : RfcCmd) (status : Nat) :
    ∃ l, (s.rfcResult r c status).rfc.get r = { s.rfc.get r with results := l } := by
  unfold State.rfcResult
  extract_lets +onlyGivenNames filed
  obtain ⟨l, hl⟩ : ∃ l, filed.rfc.get r = { s.rfc.get r with results := l } := by
    unfold filed
    split
    · exact ⟨_, setRfc_rfc_get ..⟩
    · exact ⟨(s.rfc.get r).results, by rw [bumpTo_rfc]⟩
  have hraised : ∀ n, (filed.raise n).rfc.get r = { s.rfc.get r with results := l } := fun n => by rw [raise_rfc, hl]
  exact ⟨l, rfcGet_ite (rfcGet_ite (hraised _) hl) (rfcGet_ite (hraised _) (rfcGet_ite hl (hraised _)))⟩

theorem rfcResult_held (s : State) (r : Radio) (c : RfcCmd) (status : Nat) :
    ((s.rfcResult r c status).rfc.get r).held = (s.rfc.get r).held := by
  obtain ⟨l, h⟩ := rfc_rfcResult s r c status
  rw [h]

theorem regsBut_rfcEndRun (s : State) (r : Radio) (status : Nat) :
    RegsBut [R.RFC_CNT_RESOVF r] s (s.rfcEndRun r status) := by
  unfold State.rfcEndRun
  split
  · exact .refl
  · extract_lets ended
    split
    · exact .setRfc .refl
    · exact (RegsBut.setRfc .refl).trans (regsBut_rfcResult _ _ _ _)

/-- Nothing is carried out after the end of a run. -/
theorem rfc_rfcEndRun (s : State) (r : Radio) (status : Nat) :
    ∃ q l, (s.rfcEndRun r status).rfc.get r = { s.rfc.get r with run := none, queue := q, results := l } := by
  unfold State.rfcEndRun
  split
  · next hidle => exact ⟨(s.rfc.get r).queue, (s.rfc.get r).results, by rw [← hidle]⟩
  · extract_lets ended
    split
    · exact ⟨_, (s.rfc.get r).results, setRfc_rfc_get ..⟩
    · next c _ =>
      obtain ⟨l, hl⟩ := rfc_rfcResult ended r c status
      exact ⟨_, l, hl.trans (by rw [setRfc_rfc_get])⟩

/-- The end of calibrations clears CALRUN and records the status in RFC_CALSTAT (R92, R93). -/
theorem rf_calEnd (s : State) (r : Radio) (status : Nat) {g : Fld} (hg : g.addr ∉ [R.RFC_CNT_RESOVF r])
    (he : ¬ evrAddr g.addr) :
    (s.calEnd r status).rf g = ((s.wf (F.RFC_STAT_CALRUN r) 0).wf (F.RFC_CALSTAT_STATUS r) status).rf g := by
  unfold State.calEnd
  extract_lets cleared filed stopped
  exact ((regsBut_rfcEndRun stopped r status).rf hg he).trans (setRfc_rf filed r _ g)

theorem rfc_calEnd (s : State) (r : Radio) (status : Nat) :
    ∃ q l, (s.calEnd r status).rfc.get r =
      { s.rfc.get r with run := none, queue := q, results := l, calMask := 0, calStop := false } := by
  unfold State.calEnd
  extract_lets cleared filed stopped
  obtain ⟨q, l, h⟩ := rfc_rfcEndRun stopped r status
  exact ⟨q, l, h.trans (by rw [setRfc_rfc_get]; rfl)⟩

theorem calEnd_calrun (s : State) (r : Radio) (status : Nat) : (s.calEnd r status).rb (F.RFC_STAT_CALRUN r) = false := by
  rw [State.rb, rf_calEnd _ _ _ (by cases r <;> decide) (not_evrAddr_stat r),
    rf_wf_apart _ _ (by cases r <;> decide), ← State.rb]
  exact rb_wf_bit _ _ rfl (by cases r <;> decide)

/-- What the end of a run leaves of a radio: its state and lock, its FEM lines, its held command, the steps left of IQ. -/
structure RunOver (r : Radio) (s t : State) : Prop where
  state : t.rfcState r = s.rfcState r
  lock : t.rb (F.RFC_STAT_LOCK r) = s.rb (F.RFC_STAT_LOCK r)
  run : (t.rfc.get r).run = none
  paEn : (t.rfc.get r).paEn = (s.rfc.get r).paEn
  lnaEn : (t.rfc.get r).lnaEn = (s.rfc.get r).lnaEn
  held : (t.rfc.get r).held = (s.rfc.get r).held
  leftIq : (t.rfc.get r).leftIq = (s.rfc.get r).leftIq

theorem RunOver.rfcEndRun (s : State) (r : Radio) (status : Nat) : RunOver r s (s.rfcEndRun r status) := by
  have hregs := regsBut_rfcEndRun s r status
  obtain ⟨q, l, h⟩ := rfc_rfcEndRun s r status
  exact ⟨hregs.rf (by cases r <;> decide) (not_evrAddr_stat r), hregs.rb (by cases r <;> decide) (not_evrAddr_stat r),
    by rw [h], by rw [h], by rw [h], by rw [h], by rw [h]⟩

theorem RunOver.calEnd (s : State) (r : Radio) (status : Nat) : RunOver r s (s.calEnd r status) := by
  have hstat : ∀ g : Fld, g.addr = R.RFC_STAT r → g.lo ≤ g.hi → 27 < g.lo → (s.calEnd r status).rf g = s.rf g := by
    intro g hg hlo habove
    have hregs : R.RFC_STAT r ≠ R.RFC_CALSTAT r ∧ R.RFC_STAT r ∉ [R.RFC_CNT_RESOVF r] := by cases r <;> decide
    rw [rf_calEnd _ _ _ (hg ▸ hregs.2) (hg ▸ not_evrAddr_stat r),
      rf_wf_other _ _ _ _ (by cases r <;> decide) (by cases r <;> decide) hlo (.inl (hg ▸ hregs.1)),
      rf_wf_other _ _ _ _ (by cases r <;> decide) (by cases r <;> decide) hlo (.inr (.inl habove))]
  obtain ⟨q, l, h⟩ := rfc_calEnd s r status
  exact ⟨hstat _ rfl (by cases r <;> decide) (by cases r <;> decide),
    congrArg (· == 1) (hstat (F.RFC_STAT_LOCK r) rfl (by cases r <;> decide) (by cases r <;> decide)),
    by rw [h], by rw [h], by rw [h], by rw [h], by rw [h]⟩

/-- Where no command is held, none goes on (R81). -/
theorem heldGo_of_held_none {s : State} {r : Radio} (h : (s.rfc.get r).held = none) : s.heldGo r = s := by
  unfold State.heldGo
  rw [h]

/-! ### Transitions, lock and held commands -/

/-- A transition to any state but TX ends in that state, and the command that asked for it is over (R70, R71). -/
theorem rfcTransitionDone_reaches {s : State} {r : Radio} {x : RfcRun} {tgt : Nat} (hrun : (s.rfc.get r).run = some x)
    (hwork : x.work = .trans tgt) (htgt : tgt ≤ Rs.RX) :
    Runs (.rfcTransitionDone r) s fun t => t.rfcState r = tgt ∧ (t.rfc.get r).run = none := by
  have hexec : exec (.rfcTransitionDone r) s = .next (s.transDone r x tgt) := by
    show execRfcTransitionDone r s = _
    simp only [execRfcTransitionDone, hrun, hwork]
  refine ⟨_, hexec, ?_⟩
  have hlt : tgt < 2 ^ 3 := Nat.lt_of_le_of_lt htgt (by decide)
  unfold State.transDone
  extract_lets entered ch recv
  have hentered : entered.rfcState r = tgt := (rf_wf_same _ _ _ (by cases r <;> decide) (by cases r <;> decide)).trans
    (Nat.mod_eq_of_lt hlt)
  -- MDM_STAT is not RFC_STAT, so the modem's new phase leaves the state.
  have hended : ∀ (t : State) (n : Nat), t.rfcState r = tgt →
      ((t.wf (F.MDM_STAT_PHASE r) n).rfcEndRun r St.OK).rfcState r = tgt ∧
        (((t.wf (F.MDM_STAT_PHASE r) n).rfcEndRun r St.OK).rfc.get r).run = none := fun t n ht => by
    have hover := RunOver.rfcEndRun (t.wf (F.MDM_STAT_PHASE r) n) r St.OK
    refine ⟨hover.state.trans (Eq.trans ?_ ht), hover.run⟩
    exact (RegsBut.refl.wf (List.mem_singleton_self _)).rf (by cases r <;> decide) (not_evrAddr_stat r)
  rw [if_neg (Nat.ne_of_lt (Nat.lt_of_le_of_lt htgt (by decide)))]
  split
  · exact hended _ _ hentered
  · exact hended _ _ hentered

/-- Lock with no OSC to end and no command to go on sets LOCK alone (R81). -/
theorem synthLock_eq_wf_lock {s : State} {r : Radio} (codes : BitVec 24) (hheld : (s.rfc.get r).held = none)
    (hosc : (s.rfc.get r).osc = false) : s.synthLock r codes = s.wf (F.RFC_STAT_LOCK r) 1 := by
  unfold State.synthLock
  extract_lets f locked w1 freq ndiv active due result
  have hresult : result = locked := if_neg (by rw [hosc]; decide)
  rw [hresult]
  exact heldGo_of_held_none hheld

/-- What runs when lock is lost ends, a run of calibrations as well as a command (R72, R93). -/
theorem RunOver.lockLost (s : State) (r : Radio) :
    RunOver r s (if s.calRunning r then s.calEnd r St.HW else s.rfcEndRun r St.HW) := by
  split
  · exact .calEnd ..
  · exact .rfcEndRun ..

/-- The loss of lock leaves the radio in SYNTH without lock (R72). -/
theorem lockLoss_stat (s : State) (r : Radio) :
    (s.lockLoss r).rfcState r = Rs.SYNTH ∧ (s.lockLoss r).rb (F.RFC_STAT_LOCK r) = false := by
  unfold State.lockLoss
  extract_lets rest left onAir tag cut stat counted ended
  have hstate : stat.rfcState r = Rs.SYNTH :=
    (rf_wf_apart _ _ (by cases r <;> decide)).trans (rf_wf_same _ _ _ (by cases r <;> decide) (by cases r <;> decide))
  have hlock : stat.rb (F.RFC_STAT_LOCK r) = false := rb_wf_bit _ _ rfl (by cases r <;> decide)
  have hcounted : RegsBut [R.RFC_CNT_LOCKLOSS r] stat counted := RegsBut.refl.bumpTo (List.mem_singleton_self _)
  have hended : RunOver r counted ended := .lockLost counted r
  have hraised : RegsBut [] ended (ended.raise (radioEv r + 3)) := RegsBut.refl.raise (radioEv_add_lt r (by decide))
  have hown : R.RFC_STAT r ∉ [R.RFC_CNT_LOCKLOSS r] := by cases r <;> decide
  constructor
  · exact (hraised.rf List.not_mem_nil (not_evrAddr_stat r)).trans
      (hended.state.trans ((hcounted.rf hown (not_evrAddr_stat r)).trans hstate))
  · exact (hraised.rb List.not_mem_nil (not_evrAddr_stat r)).trans
      (hended.lock.trans ((hcounted.rb hown (not_evrAddr_stat r)).trans hlock))

/-- PA and LNA go off first at a loss of lock, and what follows leaves them (R72). -/
theorem lockLoss_fem (s : State) (r : Radio) :
    ((s.lockLoss r).rfc.get r).paEn = 0 ∧ ((s.lockLoss r).rfc.get r).lnaEn = 0 := by
  unfold State.lockLoss
  extract_lets rest left onAir tag cut stat counted ended
  have hleft : left.rfc = rest.rfc := by
    unfold left
    split
    · exact rxLeave_rfc ..
    · rfl
  have hcut : cut.rfc = left.rfc := by
    unfold cut
    split
    · exact ppduEnd_rfc ..
    · rfl
  have hcounted : counted.rfc = rest.rfc := by
    unfold counted stat
    rw [bumpTo_rfc, wf_rfc, wf_rfc, hcut, hleft]
  have hended : RunOver r counted ended := .lockLost counted r
  have hrest : (rest.rfc.get r).paEn = 0 ∧ (rest.rfc.get r).lnaEn = 0 := by
    unfold rest State.femRest
    rw [setRfc_rfc_get]
    exact ⟨rfl, rfl⟩
  rw [raise_rfc, hended.paEn, hended.lnaEn, hcounted]
  exact hrest

theorem rfcUnhold_held (s : State) (r : Radio) : ((s.rfcUnhold r).rfc.get r).held = none := by
  unfold State.rfcUnhold
  rw [wf_rfc, setRfc_rfc_get]

/-- A command that ends before it begins leaves what is held. -/
theorem rfcDone_held (s : State) (r : Radio) (c : RfcCmd) (fw : Bool) (status : Nat) :
    ((s.rfcDone r c fw status).rfc.get r).held = (s.rfc.get r).held := by
  unfold State.rfcDone State.rfcTake
  rw [rfcResult_held, setRfc_rfc_get, setRfc_rfc_get]
  cases fw <;> rfl

theorem regsBut_rfcDone (s : State) (r : Radio) (c : RfcCmd) (fw : Bool) (status : Nat) :
    RegsBut [R.RFC_CNT_RESOVF r] s (s.rfcDone r c fw status) :=
  (RegsBut.refl.setRfc.setRfc).trans (regsBut_rfcResult _ _ _ _)

/-- A late command is counted, up to 0xFFFF (R82). -/
theorem rfcLate_counts {s : State} {r : Radio} (c : RfcCmd) (fw : Bool) (h : s.regN (R.RFC_CNT_LATE r) < 0xFFFF) :
    (s.rfcLate r c fw).regN (R.RFC_CNT_LATE r) = s.regN (R.RFC_CNT_LATE r) + 1 := by
  unfold State.rfcLate
  have hdone := regsBut_rfcDone (s.bumpTo (R.RFC_CNT_LATE r) 0xFFFF) r c fw St.LATE
  rw [State.regN, hdone _ (by cases r <;> decide) (not_evrAddr_of_ge (by cases r <;> decide)), reg_bumpTo,
    if_pos ⟨rfl, h⟩, BitVec.toNat_ofNat, Nat.mod_eq_of_lt (by omega)]

theorem regsBut_rfcLate (s : State) (r : Radio) (c : RfcCmd) (fw : Bool) :
    RegsBut [R.RFC_CNT_LATE r, R.RFC_CNT_RESOVF r] s (s.rfcLate r c fw) :=
  (RegsBut.refl.bumpTo List.mem_cons_self).trans ((regsBut_rfcDone _ r c fw St.LATE).weaken (by simp))

/-- The held RX or TX whose deadline has passed is held no longer, is counted late and leaves the radio's state (R82). -/
theorem heldDeadline_drops {s : State} {r : Radio} {x : RfcHeld} (hheld : (s.rfc.get r).held = some x)
    (hopc : x.cmd.opc = 5 ∨ x.cmd.opc = 6) (hpast : x.deadline < s.gtN + s.rfcLead r x.cmd) :
    Runs (.heldDeadline r) s fun t => (t.rfc.get r).held = none ∧ t.rb (F.RFC_STAT_HELD r) = false ∧
      (s.regN (R.RFC_CNT_LATE r) < 0xFFFF → t.regN (R.RFC_CNT_LATE r) = s.regN (R.RFC_CNT_LATE r) + 1) ∧
      t.rfcState r = s.rfcState r := by
  have hexec : exec (.heldDeadline r) s = .next ((s.rfcUnhold r).rfcLate r x.cmd x.fw) := by
    show execHeldDeadline r s = _
    simp only [execHeldDeadline, hheld]
    rw [if_pos ⟨hopc, hpast⟩]
  have hlate := regsBut_rfcLate (s.rfcUnhold r) r x.cmd x.fw
  have hunheld : RegsBut [R.RFC_STAT r] s (s.rfcUnhold r) := RegsBut.refl.setRfc.wf (List.mem_singleton_self _)
  have hcount : (s.rfcUnhold r).regN (R.RFC_CNT_LATE r) = s.regN (R.RFC_CNT_LATE r) :=
    congrArg BitVec.toNat (hunheld _ (by cases r <;> decide) (not_evrAddr_of_ge (by cases r <;> decide)))
  refine ⟨_, hexec, ?held, ?flag, fun hroom => ?count, ?state⟩
  case held =>
    unfold State.rfcLate
    rw [rfcDone_held, bumpTo_rfc, rfcUnhold_held]
  case flag =>
    exact (hlate.rb (by cases r <;> decide) (not_evrAddr_stat r)).trans (rb_wf_bit _ _ rfl (by cases r <;> decide))
  case count => rw [rfcLate_counts _ _ (hcount ▸ hroom), hcount]
  case state =>
    refine (hlate.rf (by cases r <;> decide) (not_evrAddr_stat r)).trans ?_
    exact (rf_wf_apart _ _ (by cases r <;> decide)).trans (setRfc_rf ..)

/-! ### Calibration steps -/

/-- The mask 81 names registers, the EVR and the controllers; memory is not among them. -/
theorem sameBytes_of_within {o s : State} (h : Within 81 o s) : SameBytes o s := fun a =>
  congrArg (fun m => Sparse.get memDefault m a) (h .mem rfl : s.mem = o.mem)

/-- A failed step ends the run: its bit of FAIL is set, CALRUN is clear, and memory stands (R93). -/
theorem calStepFail_records {s : State} {r : Radio} {k : Nat} (hk : k < 4) (hheld : (s.rfc.get r).held = none) :
    (s.calStepFail r k).rf (F.RFC_CALSTAT_FAIL r) = s.rf (F.RFC_CALSTAT_FAIL r) ||| 2 ^ k ∧
      (s.calStepFail r k).rb (F.RFC_STAT_CALRUN r) = false ∧ SameBytes s (s.calStepFail r k) := by
  unfold State.calStepFail
  extract_lets failed
  have hraised : RegsBut [] (failed.calEnd r St.HW) ((failed.calEnd r St.HW).raise (radioEv r + 3)) :=
    RegsBut.refl.raise (radioEv_add_lt r (by decide))
  have hnone : (((failed.calEnd r St.HW).raise (radioEv r + 3)).rfc.get r).held = none := by
    rw [raise_rfc, (RunOver.calEnd failed r St.HW).held]
    exact hheld
  rw [heldGo_of_held_none hnone]
  refine ⟨?_, (hraised.rb List.not_mem_nil (not_evrAddr_stat r)).trans (calEnd_calrun ..),
    sameBytes_of_within (.raise (.calEnd (.wf (.refl s))))⟩
  have hcal : ¬ evrAddr (R.RFC_CALSTAT r) := not_evrAddr_of_ge (by cases r <;> decide)
  have hbits : s.rf (F.RFC_CALSTAT_FAIL r) ||| 2 ^ k < 2 ^ 4 :=
    Nat.or_lt_two_pow (rf_lt s (F.RFC_CALSTAT_FAIL r)) (Nat.pow_lt_pow_right (by decide) hk)
  refine (hraised.rf List.not_mem_nil hcal).trans ((rf_calEnd _ _ _ (by cases r <;> decide) hcal).trans ?_)
  rw [rf_wf_apart _ _ (by cases r <;> decide), rf_wf_apart _ _ (by cases r <;> decide)]
  exact (rf_wf_same _ _ _ (by cases r <;> decide) (by cases r <;> decide)).trans (Nat.mod_eq_of_lt hbits)

/-- A step that completes is one of the first calibration still to run (R92). -/
theorem calStepDone_of_running {s : State} {r : Radio} {ok : Bool} {codes : List (BitVec 32)} {k : Nat} {ks : List Nat}
    (hrun : s.calRunning r = true) (htodo : (s.rfc.get r).calTodo (s.rfc.get r).calMask = k :: ks) :
    exec (.calStepDone r ok codes) s = .next (if ok then s.calStepOk r k codes else s.calStepFail r k) := by
  show execCalStepDone r ok codes s = _
  simp only [execCalStepDone, hrun, htodo, if_true]

theorem lt_four_of_calTodo {f : RfcSt} {mask k : Nat} {ks : List Nat} (h : f.calTodo mask = k :: ks) : k < 4 := by
  have hmem : k ∈ f.calTodo mask := h ▸ List.mem_cons_self
  have hlist : k ∈ [0, 1, 2, 3] := (List.mem_filter.mp (List.mem_filter.mp hmem).1).1
  simp only [List.mem_cons, List.not_mem_nil, or_false] at hlist
  omega

/-- Inside a step of IQ: `n` steps are left, no command is held, and only registers, the EVR and the controllers have moved
since `o`. -/
structure IqStep (r : Radio) (n : Nat) (o s : State) : Prop where
  left : (s.rfc.get r).leftIq = n
  held : (s.rfc.get r).held = none
  within : Within 81 o s

section

variable {r : Radio} {n : Nat} {o s : State}

theorem IqStep.ite {c : Prop} [Decidable c] {t : State} (hs : IqStep r n o s) (ht : IqStep r n o t) :
    IqStep r n o (if c then s else t) := by
  split
  · exact hs
  · exact ht

theorem IqStep.wf {f : Fld} {v : Nat} (h : IqStep r n o s) : IqStep r n o (s.wf f v) := ⟨h.left, h.held, .wf h.within⟩

theorem IqStep.calComplete (h : IqStep r n o s) : IqStep r n o (s.calComplete r 1) := by
  obtain ⟨f, hf, hleft, hheld⟩ : ∃ f, (s.calComplete r 1).rfc.get r = f ∧ f.leftIq = (s.rfc.get r).leftIq ∧
      f.held = (s.rfc.get r).held := ⟨_, setRfc_rfc_get .., rfl, rfl⟩
  exact ⟨by rw [hf, hleft, h.left], by rw [hf, hheld, h.held], .calComplete h.within⟩

theorem IqStep.calEnd_heldGo {status : Nat} (h : IqStep r n o s) : IqStep r n o ((s.calEnd r status).heldGo r) := by
  have hover := RunOver.calEnd s r status
  rw [heldGo_of_held_none (hover.held.trans h.held)]
  exact ⟨hover.leftIq.trans h.left, hover.held.trans h.held, .calEnd h.within⟩

end

/-- A good step of IQ uses one of its steps up, whatever ends with it (R92). -/
theorem iqStep_calStepOk {s : State} {r : Radio} (codes : List Word) (hheld : (s.rfc.get r).held = none) :
    IqStep r ((s.rfc.get r).leftIq - 1) s (s.calStepOk r 1 codes) := by
  unfold State.calStepOk
  extract_lets applied complete f remain part
  have happlied : IqStep r ((s.rfc.get r).leftIq - 1) s applied := by
    have hrfc : applied.rfc.get r = (s.rfc.get r).stepDone r 1 codes := setRfc_rfc_get ..
    exact ⟨by rw [hrfc]; rfl, by rw [hrfc]; exact hheld, .setRfc (.refl s)⟩
  have hcomplete : IqStep r ((s.rfc.get r).leftIq - 1) s complete := .ite happlied.calComplete happlied
  exact .ite hcomplete.wf.calEnd_heldGo (.ite hcomplete.wf.wf.calEnd_heldGo hcomplete.wf)

/-! ### Calibrations due -/

/-- Making a calibration due sets its bit of RFC_CALDUE, whether it was set before or not (R90). -/
theorem reg_calDue (s : State) (r : Radio) (k a : Nat) :
    (s.calDue r k).reg a = if a = R.RFC_CALDUE r then s.reg (R.RFC_CALDUE r) ||| BitVec.twoPow 32 k else s.reg a := by
  unfold State.calDue
  split
  · next hset =>
    have hor : s.reg (R.RFC_CALDUE r) ||| BitVec.twoPow 32 k = s.reg (R.RFC_CALDUE r) := by
      ext j hj
      rw [BitVec.getElem_or, BitVec.getElem_twoPow]
      by_cases hjk : j = k
      · subst hjk
        simp [← BitVec.getLsbD_eq_getElem, hset]
      · simp [hjk]
    rw [hor]
    split
    · next ha => rw [ha]
    · rfl
  · extract_lets g due
    have hbit : BitVec.ofNat 32 (2 ^ k) = BitVec.twoPow 32 k :=
      BitVec.eq_of_toNat_eq (by rw [BitVec.toNat_ofNat, BitVec.toNat_twoPow])
    rw [setRfc_reg, ← hbit]
    exact reg_setReg ..

/-- From `s` to `t` RFC_CALDUE alone may change, and only by bits that are set. -/
structure DueGrows (r : Radio) (s t : State) : Prop where
  regs : RegsBut [R.RFC_CALDUE r] s t
  due : ∀ k, (s.reg (R.RFC_CALDUE r)).getLsbD k = true → (t.reg (R.RFC_CALDUE r)).getLsbD k = true

namespace DueGrows

variable {r : Radio} {s t u : State}

theorem refl : DueGrows r s s := ⟨.refl, fun _ => id⟩

theorem trans (h : DueGrows r s t) (g : DueGrows r t u) : DueGrows r s u :=
  ⟨h.regs.trans g.regs, fun k hk => g.due k (h.due k hk)⟩

theorem ite {c : Prop} [Decidable c] (ht : DueGrows r s t) (hu : DueGrows r s u) : DueGrows r s (if c then t else u) := by
  split
  · exact ht
  · exact hu

theorem or (v : Word) : DueGrows r s (s.setReg (R.RFC_CALDUE r) (s.reg (R.RFC_CALDUE r) ||| v)) :=
  ⟨RegsBut.refl.setReg (List.mem_singleton_self _), fun k hk => by
    rw [reg_setReg, if_pos rfl, BitVec.getLsbD_or, hk, Bool.true_or]⟩

theorem calDue (k : Nat) : DueGrows r s (s.calDue r k) :=
  ⟨fun a ha _ => (reg_calDue s r k a).trans (if_neg fun e => ha (List.mem_singleton.mpr e)),
    fun j hj => by rw [reg_calDue, if_pos rfl, BitVec.getLsbD_or, hj, Bool.true_or]⟩

end DueGrows

theorem getLsbD_calDue (s : State) (r : Radio) {k : Nat} (hk : k < 32) :
    ((s.calDue r k).reg (R.RFC_CALDUE r)).getLsbD k = true := by
  rw [reg_calDue, if_pos rfl, BitVec.getLsbD_or, BitVec.getLsbD_twoPow]
  simp [hk]

/-- The period makes IQ, FBW and DCO due and touches RFC_CALDUE alone (R90). -/
theorem calPeriodDue_makes_due (s : State) (r : Radio) :
    Runs (.calPeriodDue r) s fun t =>
      (∀ k, 1 ≤ k → k ≤ 3 → (t.reg (R.RFC_CALDUE r)).getLsbD k = true) ∧ RegsBut [R.RFC_CALDUE r] s t := by
  refine ⟨((s.calDue r 1).calDue r 2).calDue r 3, rfl, fun k hlo hhi => ?_,
    ((DueGrows.calDue 1).trans ((DueGrows.calDue 2).trans (.calDue 3))).regs⟩
  obtain rfl | rfl | rfl : k = 1 ∨ k = 2 ∨ k = 3 := by omega
  · exact (DueGrows.calDue 3).due 1 ((DueGrows.calDue 2).due 1 (getLsbD_calDue s r (by decide)))
  · exact (DueGrows.calDue 3).due 2 (getLsbD_calDue _ r (by decide))
  · exact getLsbD_calDue _ r (by decide)

/-- Once a new temperature is recorded, all that follows is calibrations made due (R90). -/
theorem dueGrows_newTemp (s : State) (r : Radio) (temp : BitVec 16) :
    DueGrows r (s.wf (F.RFC_TEMP_T r) temp.toNat) (s.newTemp r temp) := by
  unfold State.newTemp
  extract_lets told t f far iq fbw dco
  have hiq : DueGrows r told iq := .ite (.calDue 1) .refl
  have hfbw : DueGrows r iq fbw := .ite (.calDue 2) .refl
  have hdco : DueGrows r fbw dco := .ite (.calDue 3) .refl
  exact hiq.trans (hfbw.trans (hdco.trans (.ite (.or 1) .refl)))

/-- A temperature a threshold away from that of the last IQ calibration makes IQ due (R90). -/
theorem newTemp_makes_iq_due {s : State} {r : Radio} {temp : BitVec 16}
    (hfar : 16 * s.rf (F.RFC_CALTHR_IQ r) ≤ (toSigned 16 temp.toNat - (s.rfc.get r).tempIq).natAbs) :
    ((s.newTemp r temp).reg (R.RFC_CALDUE r)).getLsbD 1 = true := by
  unfold State.newTemp
  extract_lets told t f far iq fbw dco
  have htemp : told.rf (F.RFC_TEMP_T r) = temp.toNat :=
    (rf_wf_same _ _ _ (by cases r <;> decide) (by cases r <;> decide)).trans (Nat.mod_eq_of_lt temp.isLt)
  have hthr : told.rf (F.RFC_CALTHR_IQ r) = s.rf (F.RFC_CALTHR_IQ r) := rf_wf_apart _ _ (by cases r <;> decide)
  have hpos : far f.tempIq (told.rf (F.RFC_CALTHR_IQ r)) = true := by
    unfold far t State.rfcTemp
    rw [htemp, hthr]
    exact decide_eq_true hfar
  have hdue : (iq.reg (R.RFC_CALDUE r)).getLsbD 1 = true := by
    unfold iq
    rw [if_pos hpos]
    exact getLsbD_calDue _ r (by decide)
  have hfbw : DueGrows r iq fbw := .ite (.calDue 2) .refl
  have hdco : DueGrows r fbw dco := .ite (.calDue 3) .refl
  exact (hfbw.trans (hdco.trans (.ite (.or 1) .refl))).due 1 hdue

/-- RFC_TEMP takes a new temperature, and but for it RFC_CALDUE alone may change (R90). -/
theorem newTemp_records (s : State) (r : Radio) (temp : BitVec 16) :
    (s.newTemp r temp).rf (F.RFC_TEMP_T r) = temp.toNat ∧
      RegsBut [R.RFC_CALDUE r, R.RFC_TEMP r] s (s.newTemp r temp) := by
  have hdue := (dueGrows_newTemp s r temp).regs
  have htold : RegsBut [R.RFC_TEMP r] s (s.wf (F.RFC_TEMP_T r) temp.toNat) := RegsBut.refl.wf (List.mem_singleton_self _)
  refine ⟨?_, (htold.weaken (by simp)).trans (hdue.weaken (by simp))⟩
  rw [hdue.rf (by cases r <;> decide) (not_evrAddr_of_ge (by cases r <;> decide)),
    rf_wf_same _ _ _ (by cases r <;> decide) (by cases r <;> decide)]
  exact Nat.mod_eq_of_lt temp.isLt

/-- A run of calibrations with steps to run is carried out from now on (R92, R94). -/
theorem calBegin_runs {s : State} {r : Radio} {cmd : Option RfcCmd} {fw : Bool} {mask : Nat}
    (h : (s.rfc.get r).calTodo mask ≠ []) :
    (s.calBegin r cmd fw mask).rb (F.RFC_STAT_CALRUN r) = true ∧
      ((s.calBegin r cmd fw mask).rfc.get r).run = some ⟨cmd, fw, .cal⟩ := by
  unfold State.calBegin
  extract_lets begun told
  have htodo : (told.rfc.get r).calTodo mask = (s.rfc.get r).calTodo mask := by
    unfold told begun
    rw [wf_rfc, wf_rfc, setRfc_rfc_get]
    rfl
  have hrun : (told.rfc.get r).run = some ⟨cmd, fw, .cal⟩ := by
    unfold told begun
    rw [wf_rfc, wf_rfc, setRfc_rfc_get]
  clear_value told begun
  rw [if_neg (by rw [htodo, List.isEmpty_iff]; exact h)]
  exact ⟨rb_wf_bit _ _ rfl (by cases r <;> decide), by rw [wf_rfc, hrun]⟩

theorem calTodo_zero (f : RfcSt) : f.calTodo 0 = [] := rfl

/-- An idle controller with calibrations due and AUTOCAL set starts them without a command (R94). -/
theorem autocalStart_begins {s : State} {r : Radio} (hauto : s.rb (F.RFC_CTRL_AUTOCAL r) = true)
    (hstate : s.rfcState r = Rs.SYNTH) (hlock : s.rb (F.RFC_STAT_LOCK r) = true) (hrun : (s.rfc.get r).run = none)
    (hheld : (s.rfc.get r).held = none) (hdue : s.rfcAnyDue r = false)
    (htodo : (s.rfc.get r).calTodo (bits (s.reg (R.RFC_CALDUE r)) 3 0) ≠ []) :
    Runs (.autocalStart r) s fun t =>
      t.rb (F.RFC_STAT_CALRUN r) = true ∧ (t.rfc.get r).run = some ⟨none, false, .cal⟩ := by
  have hmask : bits (s.reg (R.RFC_CALDUE r)) 3 0 ≠ 0 := fun hzero => htodo (by rw [hzero, calTodo_zero])
  have hexec : exec (.autocalStart r) s = .next (s.calBegin r none false (bits (s.reg (R.RFC_CALDUE r)) 3 0)) := by
    show execAutocalStart r s = _
    unfold execAutocalStart
    extract_lets f mask
    exact if_pos ⟨hauto, hstate, hlock, by rw [hrun]; rfl, by rw [hheld]; rfl, by rw [hdue]; rfl, hmask⟩
  exact ⟨_, hexec, calBegin_runs htodo⟩

/-! ### Bytes of memory -/

theorem byte_setBytes_of_outside {b : Nat} :
    ∀ {l : List Byte} {s : State} {a : Nat}, b < a ∨ a + l.length ≤ b → (s.setBytes a l).byte b = s.byte b
  | [], _, _, _ => rfl
  | x :: xs, s, a, h => by
    rw [List.length_cons] at h
    rw [State.setBytes, byte_setBytes_of_outside (by omega), byte_setByte, if_neg (by omega)]

/-- A store changes no byte outside its range, whatever the error-correcting code does (R413, R414). -/
theorem byte_store_of_outside {s : State} {writer a b : Nat} {l : List Byte} (h : b < a ∨ a + l.length ≤ b) :
    (s.store writer a l).byte b = s.byte b := by
  unfold State.store
  split
  · rfl
  · generalize hread : (s.dramTouch a).eccRmw writer (s.rmwKeys a l.length) = read
    have hbefore : read.mem = s.mem :=
      hread ▸ (Within.eccRmw (m := 3145745) (.dramTouch (.refl s)) ⟨rfl⟩ .mem rfl)
    have hafter : (((read.setBytes a l).eccClean a l.length).inject (isDram a) a l.length).mem = (read.setBytes a l).mem :=
      Within.inject (m := 1048577) (.eccClean (.refl _)) ⟨rfl⟩ .mem rfl
    rw [State.byte, hafter, ← State.byte, byte_setBytes_of_outside h, State.byte, hbefore, ← State.byte]

theorem length_wordBytes : ∀ l : List Word, (wordBytes l).length = 4 * l.length
  | [] => rfl
  | w :: ws => by
    simp only [wordBytes, List.length_cons, length_wordBytes ws]
    omega

/-! ### Pre-distortion fits -/

/-- The end of a DPDUP disarms (R98). -/
theorem dpdEnd_disarms (s : State) (r : Radio) (d : RfcDpd) (status : Nat) :
    ((s.dpdEnd r d status).rfc.get r).dpd = none ∧ (s.dpdEnd r d status).rb (F.RFC_STAT_DPDARM r) = false := by
  unfold State.dpdEnd
  generalize hout : (s.setRfc r fun f => { f with dpd := none }).wf (F.RFC_STAT_DPDARM r) 0 = out
  have hdpd : (out.rfc.get r).dpd = none := by rw [← hout, wf_rfc, setRfc_rfc_get]
  have harm : out.rb (F.RFC_STAT_DPDARM r) = false := hout ▸ rb_wf_bit _ _ rfl (by cases r <;> decide)
  obtain ⟨l, h⟩ := rfc_rfcResult out r d.cmd status
  have hregs := regsBut_rfcResult out r d.cmd status
  exact ⟨by rw [h, hdpd], (hregs.rb (by cases r <;> decide) (not_evrAddr_stat r)).trans harm⟩

theorem sameBytes_dpdEnd (s : State) (r : Radio) (d : RfcDpd) (status : Nat) : SameBytes s (s.dpdEnd r d status) :=
  sameBytes_of_within (.dpdEnd (.refl s))

theorem length_dpdModel (s : State) (r : Radio) (chain index nmse plo phi : Nat) (coef : List Word) :
    (s.dpdModel r chain index nmse plo phi coef).length = 32 := by
  simp [State.dpdModel]

/-- A fit disarms in each case; one above NMAX leaves memory, and a good one writes no byte outside its model (R96, R98). -/
theorem dpdFit_disarms_and_writes_model (s : State) (r : Radio) (d : RfcDpd) (nmse plo phi : Nat) (coef : List Word) :
    ((s.dpdFit r d nmse plo phi coef).rfc.get r).dpd = none ∧
      (s.dpdFit r d nmse plo phi coef).rb (F.RFC_STAT_DPDARM r) = false ∧
      (nmse < s.rf (F.RFC_DPD_CTRL_NMAX r) → SameBytes s (s.dpdFit r d nmse plo phi coef)) ∧
      (∀ a, a < modelAddr d.cmd.index ∨ modelAddr d.cmd.index + 128 ≤ a →
        (s.dpdFit r d nmse plo phi coef).byte a = s.byte a) := by
  unfold State.dpdFit
  split
  · obtain ⟨hdpd, harm⟩ := dpdEnd_disarms s r d St.HW
    have hraised : RegsBut [] (s.dpdEnd r d St.HW) ((s.dpdEnd r d St.HW).raise (radioEv r + 3)) :=
      RegsBut.refl.raise (radioEv_add_lt r (by decide))
    have hbytes : SameBytes s ((s.dpdEnd r d St.HW).raise (radioEv r + 3)) := fun a =>
      (raise_byte ..).trans (sameBytes_dpdEnd s r d St.HW a)
    exact ⟨by rw [raise_rfc, hdpd], (hraised.rb List.not_mem_nil (not_evrAddr_stat r)).trans harm, fun _ => hbytes,
      fun a _ => hbytes a⟩
  · next hgood =>
    extract_lets chain stored selected
    obtain ⟨hdpd, harm⟩ := dpdEnd_disarms (selected.wf (F.RFC_CALDUE_DPD r) 0) r d St.OK
    refine ⟨hdpd, harm, fun hbad => absurd hbad hgood, fun a ha => ?_⟩
    have hselected : selected.byte a = stored.byte a := by
      unfold selected
      split <;> rfl
    have hlen : (wordBytes (s.dpdModel r chain d.cmd.index nmse plo phi coef)).length = 128 := by
      rw [length_wordBytes, length_dpdModel]
    exact (sameBytes_dpdEnd _ r d St.OK a).trans (hselected.trans (byte_store_of_outside (hlen.symm ▸ ha)))

/-! ### FEM timing -/

/-- The register window of a radio's front end (R23). -/
def rfcWindow (r : Radio) : Window :=
  ⟨11 + r.idx, 0x40100000 + 0x10000 * r.idx, 0x40100000 + 0x10000 * r.idx + 0xFFFF, RegMap.rfc r.idx⟩

theorem windowOf_femt (r : Radio) (k : Fin 3) : windowOf (femtReg r k.val) = some (rfcWindow r) := by
  match k with
  | 0 | 1 | 2 => cases r <;> rfl

theorem femt_offset (r : Radio) (k : Fin 3) : femtReg r k.val - (rfcWindow r).base = 0x80 + 4 * k.val := by
  unfold femtReg R.RFC_FEMT0 rfcWindow
  dsimp only
  omega

/-- The row of a FEM timing register: two halves that are written while the radio is below SYNTH (R101, R102). -/
theorem findRow_femt (r : Radio) (k : Fin 3) :
    ∃ row ix x y, findRow (rfcWindow r).rows (0x80 + 4 * k.val) = some (row, ix) ∧
      row.fields = [RegMap.f 31 16 .rwi x, RegMap.f 15 0 .rwi y] := by
  match k with
  | 0 | 1 | 2 => cases r <;> exact ⟨_, _, _, _, rfl, rfl⟩

/-- Every radio has its FEM timing fields. -/
theorem absentField_femt (r : Radio) (k : Fin 3) (hi : Nat) :
    absentField (rfcWindow r).num (0x80 + 4 * k.val) hi = false := by
  match k with
  | 0 | 1 | 2 => cases r <;> simp [absentField, rfcWindow, Radio.idx]

theorem filter_absentField_femt (r : Radio) (k : Fin 3) (fields : List RegField) :
    (fields.filter fun f => !absentField (rfcWindow r).num (0x80 + 4 * k.val) f.hi) = fields := by
  simp [absentField_femt]

/-- Two halves written are the word written. -/
theorem applyFields_halves (old v : Word) (x y : Nat) :
    applyFields [RegMap.f 31 16 .rwi x, RegMap.f 15 0 .rwi y] old v old = v := by
  have hv := v.isLt
  apply BitVec.eq_of_toNat_eq
  show (setBits (setBits old 31 16 (bits v 31 16)) 15 0 (bits v 15 0)).toNat = v.toNat
  simp only [setBits, bits, BitVec.toNat_ofNat]
  omega

/-- A write of FEM timing that is not refused takes effect whole (R8, R101). -/
theorem writeReg_femt {s : State} {r : Radio} {i : Nat} {k : Fin 3} {v : Word}
    (h : s.writeRefused i (femtReg r k.val) v = false) :
    s.writeReg i (femtReg r k.val) v = s.setReg (femtReg r k.val) v := by
  obtain ⟨row, ix, x, y, hrow, hfields⟩ := findRow_femt r k
  rw [writeReg_of_not_refused (windowOf_femt r k) (by rw [femt_offset, hrow]) h, femt_offset, filter_absentField_femt,
    hfields, applyFields_halves]

/-- The range of FEM timing registers is R101's, beside which no other range speaks of them. -/
theorem extraOk_femt (s : State) (r : Radio) (k : Fin 3) (v : Word) :
    s.extraOk (rfcWindow r).num (0x80 + 4 * k.val) v = s.femtOk r.idx (0x80 + 4 * k.val) v := by
  match k with
  | 0 | 1 | 2 => cases r <;> simp [State.extraOk, State.extraA, State.extraB, State.extraC, rfcWindow, Radio.idx]

/-- A refused write to a radio's front end is recorded in its RFC_ERR (R8, R102). -/
theorem errOf_rfc (r : Radio) (o : Nat) : errOf (rfcWindow r).num o = (R.RFC_ERR r, radioEv r + 1) := by
  cases r <;> rfl

theorem refuseWrite_rfc (s : State) (r : Radio) (o code : Nat) :
    s.refuseWrite (rfcWindow r).num o code = s.rfcRefuse r code := by
  have hown : R.RFC_ERR r ≠ R.SCAN_RES ∧ R.RFC_ERR r ≠ 0 := by cases r <;> decide
  unfold State.refuseWrite
  rw [errOf_rfc]
  dsimp only
  rw [if_neg hown.1, if_neg hown.2]
  rfl

/-- FEM timing outside its constraints is refused with RANGE (R101). -/
theorem writeReg_femt_refused {s : State} {r : Radio} {i : Nat} {k : Fin 3} {v : Word}
    (h : s.femtOk r.idx (0x80 + 4 * k.val) v = false) :
    s.writeReg i (femtReg r k.val) v = s.rfcRefuse r St.RANGE := by
  obtain ⟨row, ix, x, y, hrow, hfields⟩ := findRow_femt r k
  have hmc5 : hasMc5 row.fields = false := by
    rw [hfields]
    rfl
  simp only [State.writeReg, windowOf_femt, femt_offset, hrow, State.fieldWrite, hmc5, filter_absentField_femt,
    extraOk_femt, h, Bool.false_and, Bool.false_eq_true, if_false]
  rw [hfields]
  simp only [List.isEmpty_cons, Bool.or_self, Bool.and_false, Bool.not_false, if_true, refuseWrite_rfc]

/-! ### Command ports and results -/

theorem rfcRefuse_reg (s : State) (r : Radio) (code a : Nat) (ha : ¬ evrAddr a) :
    (s.rfcRefuse r code).reg a = if a = R.RFC_ERR r then BitVec.ofNat 32 (0x100 + code % 256) else s.reg a :=
  reg_refuse _ _ _ _ _ (radioEv_add_lt r (by decide)) ha

/-- A push of a well-formed command in a ready radio goes by the room in the queue alone (R74). -/
theorem rfcPush_of_wellFormed {s : State} {r : Radio} {i : Nat} {v : Word} (hpush : v.getLsbD 0 = true)
    (hready : s.ready (Fn.RADIO r.idx) = true) (hformat : s.rfcFormat r (rfcCmdOf (s.rfcStaged r)) = St.OK) :
    State.rfcPush i r v s =
      if 16 ≤ (s.rfc.get r).queue.length then s.rfcRefuse r St.BUSY
      else s.setRfc r fun f => { f with queue := f.queue ++ [rfcCmdOf (s.rfcStaged r)] } := by
  simp only [State.rfcPush, hpush, hready, hformat, Bool.not_true, Bool.false_and, Bool.false_eq_true, if_false, ne_eq,
    not_true_eq_false]

/-- A well-formed command of the MAC port enters it when it is free (R73, R78). -/
theorem macPort_of_wellFormed {s : State} {r : Radio} {w : SixWords} (hready : s.ready (Fn.RADIO r.idx) = true)
    (hopc : (rfcCmdOf w).opc ∈ [5, 6, 7, 11]) (hformat : s.rfcFormat r (rfcCmdOf w) = St.OK)
    (hfree : (s.rfc.get r).port = none) :
    s.macPort r w = s.setRfc r fun f => { f with port := some (rfcCmdOf w) } := by
  have htype : ((rfcCmdOf w).opc == 5 || (rfcCmdOf w).opc == 6 || (rfcCmdOf w).opc == 7 ||
      (rfcCmdOf w).opc == 11) = true := by
    simpa [or_assoc] using hopc
  simp only [State.macPort, hready, htype, hformat, hfree, Bool.not_true, Bool.false_eq_true, if_false, ne_eq,
    not_true_eq_false, Option.isSome_none]

/-- A pop takes the oldest result, latches its grid time and answers its word (R79). -/
theorem rfcPop_of_results_cons {s : State} {r : Radio} {x : Res} {xs : List Res} (i : Init)
    (h : (s.rfc.get r).results = x :: xs) :
    State.rfcPop i r s =
      (((s.setRfc r fun f => { f with results := xs }).setReg (R.RFC_RES_GT_LO r) (x.stamp.extractLsb' 0 32)).setReg
        (R.RFC_RES_GT_HI r) (x.stamp.extractLsb' 32 32)).answer i
        (BitVec.ofNat 32 (2 ^ 31 + x.tag * 2 ^ 16 + x.opc * 2 ^ 8 + x.status)) := by
  unfold State.rfcPop
  rw [h]

/-! ### The obligations -/

/-- Settles O24: each clause by the lemma that says what its command does; memory by the command's frame, or where the frame
names memory, by what the lemma says of the bytes. -/
theorem frontEndProgress : Obligations.FrontEndProgress := by
  unfold Obligations.FrontEndProgress
  refine ⟨fun s r => ⟨fun x tgt hrun hwork htgt => ?transition, fun codes hstate hlock hheld hosc => ?lock,
      fun hstate hlock => ?loss, fun x hheld hopc hpast => ?deadline, fun k ks codes hrun hheld htodo => ?stepFails,
      fun ks codes hrun hheld htodo => ?iqStep⟩,
    fun s r => ⟨?period, fun temp => ?temperature, fun hdue => if_pos hdue,
      fun hauto hstate hlock hrun hheld hdue htodo => ?autocal, fun w d hdpd hcaptured => ?timeout,
      fun w d nmse plo phi coef hdpd hcaptured => ?fit, fun w => ?dpdDue, fun i k v hmay hbad => ?femtRefused,
      fun i k v hmay hgood => ?femtWritten⟩⟩
  case transition =>
    obtain ⟨t, hexec, hstate, hover⟩ := rfcTransitionDone_reaches hrun hwork htgt
    exact ⟨t, hexec, hstate, hover, sameBytes_of_exec hexec (by simp [touched])⟩
  case lock =>
    have hexec : exec (.synthLock r codes) s = .next (s.wf (F.RFC_STAT_LOCK r) 1) := by
      rw [← synthLock_eq_wf_lock codes hheld hosc]
      exact if_pos ⟨hstate, by rw [hlock]; rfl⟩
    exact ⟨_, hexec, rb_wf_bit _ _ rfl (by cases r <;> decide), (rf_wf_apart _ _ (by cases r <;> decide)).trans hstate,
      RegsBut.refl.wf (List.mem_singleton_self _), fun _ => rfl⟩
  case loss =>
    obtain ⟨hsynth, hunlocked⟩ := lockLoss_stat s r
    exact ⟨_, if_pos ⟨hstate, hlock⟩, hsynth, hunlocked, lockLoss_fem s r⟩
  case deadline =>
    obtain ⟨t, hexec, hnone, hflag, hcount, hstate⟩ := heldDeadline_drops hheld hopc hpast
    exact ⟨t, hexec, hnone, hflag, hcount, hstate, sameBytes_of_exec hexec (by simp [touched])⟩
  case stepFails =>
    exact ⟨_, calStepDone_of_running hrun htodo, calStepFail_records (lt_four_of_calTodo htodo) hheld⟩
  case iqStep =>
    obtain ⟨hleft, -, hwithin⟩ := iqStep_calStepOk codes hheld
    exact ⟨_, calStepDone_of_running hrun htodo, hleft, sameBytes_of_within hwithin⟩
  case period =>
    obtain ⟨t, hexec, hbits, hregs⟩ := calPeriodDue_makes_due s r
    exact ⟨t, hexec, hbits, hregs, sameBytes_of_exec hexec (by simp [touched])⟩
  case temperature =>
    have hexec : exec (.calTempDue r temp) s = .next (s.newTemp r temp) := rfl
    obtain ⟨htemp, hregs⟩ := newTemp_records s r temp
    exact ⟨_, hexec, htemp, newTemp_makes_iq_due, hregs, sameBytes_of_exec hexec (by simp [touched])⟩
  case autocal =>
    obtain ⟨t, hexec, hflag, hbegun⟩ := autocalStart_begins hauto hstate hlock hrun hheld hdue htodo
    exact ⟨t, hexec, hflag, hbegun, sameBytes_of_exec hexec (by simp [touched])⟩
  case timeout =>
    have hexec : exec (.dpdTimeout w) s = .next (s.dpdEnd w.toRadio d St.ABORTED) := by
      show execDpdTimeout w s = _
      simp only [execDpdTimeout, hdpd, hcaptured, Bool.false_eq_true, if_false]
    obtain ⟨hnone, harm⟩ := dpdEnd_disarms s w.toRadio d St.ABORTED
    exact ⟨_, hexec, hnone, harm, sameBytes_dpdEnd s w.toRadio d St.ABORTED⟩
  case fit =>
    have hexec : exec (.dpdFitDone w nmse plo phi coef) s =
        .next (s.dpdFit w.toRadio d nmse.toNat plo.toNat phi.toNat coef) := by
      show execDpdFitDone w nmse plo phi coef s = _
      simp only [execDpdFitDone, hdpd, hcaptured, if_true]
    exact ⟨_, hexec, dpdFit_disarms_and_writes_model ..⟩
  case dpdDue =>
    refine ⟨_, rfl, ?_, RegsBut.refl.wf (List.mem_singleton_self _), fun _ => rfl⟩
    exact rf_wf_same _ _ _ (by cases w <;> decide) (by cases w <;> decide)
  case femtRefused =>
    have hexec : exec (.femtWrite i r k v) s = .next (s.rfcRefuse r St.RANGE) :=
      congrArg Host.Outcome.next ((onWrite_of_mayWrite s i _ _ hmay).trans (writeReg_femt_refused hbad))
    have hfemt : femtReg r k.val ≠ R.RFC_ERR r ∧ 0x40020000 ≤ femtReg r k.val := by
      unfold femtReg R.RFC_FEMT0 R.RFC_ERR
      omega
    refine ⟨_, hexec, ?_, ?_, sameBytes_of_exec hexec (by simp [touched])⟩
    · rw [rfcRefuse_reg _ _ _ _ (not_evrAddr_of_ge hfemt.2), if_neg hfemt.1]
    · rw [rfcRefuse_reg _ _ _ _ (not_evrAddr_of_ge (by cases r <;> decide)), if_pos rfl]
      rfl
  case femtWritten =>
    have hexec : exec (.femtWrite i r k v) s = .next (s.setReg (femtReg r k.val) v) :=
      congrArg Host.Outcome.next ((onWrite_of_mayWrite s i _ _ hmay).trans (writeReg_femt hgood))
    exact ⟨_, hexec, (reg_setReg ..).trans (if_pos rfl), RegsBut.refl.setReg (List.mem_singleton_self _), fun _ => rfl⟩

/-- Settles O25: a granted access has the port's effect, and that is one change of the controller, or the refusal. -/
theorem frontEndPorts : Obligations.FrontEndPorts := by
  unfold Obligations.FrontEndPorts
  refine fun s r => ⟨fun i v hmay hpush hready hformat => ⟨fun hroom => ?room, fun hfull => ?full⟩,
    fun w hready hopc hformat hfree => ?port, fun i x xs hmay hres => ?pop⟩
  case room =>
    have hexec : exec (.rfcCmdPush i r v) s =
        .next (s.setRfc r fun f => { f with queue := f.queue ++ [rfcCmdOf (s.rfcStaged r)] }) :=
      congrArg Host.Outcome.next ((onWrite_of_mayWrite s i _ _ hmay).trans
        ((rfcPush_of_wellFormed hpush hready hformat).trans (if_neg (Nat.not_le.mpr hroom))))
    exact ⟨_, hexec, by rw [setRfc_rfc_get], rfl, fun _ => rfl⟩
  case full =>
    have hexec : exec (.rfcCmdPush i r v) s = .next (s.rfcRefuse r St.BUSY) :=
      congrArg Host.Outcome.next ((onWrite_of_mayWrite s i _ _ hmay).trans
        ((rfcPush_of_wellFormed hpush hready hformat).trans (if_pos hfull)))
    refine ⟨_, hexec, ?_, raise_rfc .., fun a ha he => ?_, sameBytes_of_exec hexec (by simp [touched])⟩
    · exact (rfcRefuse_reg _ _ _ _ (not_evrAddr_of_ge (by cases r <;> decide))).trans (if_pos rfl)
    · exact (rfcRefuse_reg _ _ _ _ he).trans (if_neg fun e => ha (List.mem_singleton.mpr e))
  case port =>
    have hexec : exec (.macPortCommand r w) s = .next (s.setRfc r fun f => { f with port := some (rfcCmdOf w) }) :=
      congrArg Host.Outcome.next (macPort_of_wellFormed hready hopc hformat hfree)
    exact ⟨_, hexec, by rw [setRfc_rfc_get], rfl, fun _ => rfl⟩
  case pop =>
    have hexec : exec (.rfcResultPop i r) s = .next (State.rfcPop i r s) :=
      congrArg Host.Outcome.next (onRead_of_mayRead s i _ _ hmay)
    rw [rfcPop_of_results_cons i hres] at hexec
    have hne : R.RFC_RES_GT_LO r ≠ R.RFC_RES_GT_HI r := by cases r <;> decide
    refine ⟨_, hexec, rfl, ?_, ?_, ?_, ?_, fun _ => rfl⟩
    · unfold State.answer
      rw [emit_rfc, setReg_rfc, setReg_rfc, setRfc_rfc_get]
    · exact (reg_setReg ..).trans ((if_neg hne).trans ((reg_setReg ..).trans (if_pos rfl)))
    · exact (reg_setReg ..).trans (if_pos rfl)
    · exact (RegsBut.refl.setRfc.setReg (by simp)).setReg (by simp)

end Sys2Proof.Machine
end

section
/-! PROOFS. The modem family: the course of a reception (O26). -/

namespace Sys2Proof.Machine

/-! ### The modem of one radio -/

@[simp] theorem setMdm_mdm_get (s : State) (r : Radio) (f : MdmSt → MdmSt) :
    (s.setMdm r f).mdm.get r = f (s.mdm.get r) := Per4.get_set ..

@[simp] theorem wf_mdm (s : State) (f : Fld) (n : Nat) : (s.wf f n).mdm = s.mdm := rfl

@[simp] theorem setRegN_mdm (s : State) (a n : Nat) : (s.setRegN a n).mdm = s.mdm := rfl

@[simp] theorem bump_mdm (s : State) (a : Nat) : (s.bump a).mdm = s.mdm :=
  Within.bump (m := 1) (.refl s) ⟨rfl⟩ .mdm rfl

@[simp] theorem bump_out (s : State) (a : Nat) : (s.bump a).out = s.out :=
  Within.bump (m := 1) (.refl s) ⟨rfl⟩ .out rfl

/-! ### Phases -/

/-- A phase written reads back (R139). -/
theorem mdmPhase_wf (s : State) (r : Radio) {n : Nat} (h : n < 16) : (s.wf (F.MDM_STAT_PHASE r) n).mdmPhase r = n :=
  (rf_wf_same s (F.MDM_STAT_PHASE r) n (by cases r <;> decide) (by cases r <;> decide)).trans (Nat.mod_eq_of_lt h)

theorem mdmReceiving_eq_false {s : State} {r : Radio} (h : s.mdmPhase r = 0 ∨ 4 < s.mdmPhase r) :
    s.mdmReceiving r = false := by
  unfold State.mdmReceiving
  exact decide_eq_false (by omega)

/-- A receiver that is not receiving is in MISMATCH, TBWAIT or SEARCH (R120, R137). -/
theorem idlePhase_cases (s : State) (r : Radio) : s.idlePhase r = 6 ∨ s.idlePhase r = 5 ∨ s.idlePhase r = 0 := by
  unfold State.idlePhase
  split
  · exact .inl rfl
  · split
    · exact .inr (.inl rfl)
    · exact .inr (.inr rfl)

/-- Once a reception is over the modem is in no phase of a reception. -/
theorem mdmReceiving_rxOver (s : State) (r : Radio) (lost off : Bool) : (s.rxOver r lost off).mdmReceiving r = false := by
  unfold State.rxOver
  extract_lets weak counted cleared applied idle
  cases off with
  | true => exact mdmReceiving_eq_false (.inr (by rw [if_pos rfl, mdmPhase_wf _ _ (by decide)]; decide))
  | false =>
    have hcases := idlePhase_cases idle r
    rw [if_neg (by decide)]
    exact mdmReceiving_eq_false (by rw [mdmPhase_wf _ _ (by omega)]; omega)

/-! ### Registers and counters -/

namespace RegsBut

variable {l : List Nat} {s t : State}

theorem setMdm {r : Radio} {f : MdmSt → MdmSt} (h : RegsBut l s t) : RegsBut l s (t.setMdm r f) := h

theorem used (h : RegsBut l s t) : RegsBut l s t.used := h

theorem emit {o : Out} (h : RegsBut l s t) : RegsBut l s (t.emit o) := h

theorem bumpBy {a n : Nat} (h : RegsBut l s t) (ha : a ∈ l) : RegsBut l s (t.bumpBy a n) := h.setReg ha

theorem bump {a : Nat} (h : RegsBut l s t) (ha : a ∈ l) : RegsBut l s (t.bump a) := h.bumpTo ha

theorem foldl_setReg {β : Type} {k : β → Nat} {v : β → Word} {ks : List β} (h : RegsBut l s t)
    (hk : ∀ x ∈ ks, k x ∈ l) : RegsBut l s (ks.foldl (fun u x => u.setReg (k x) (v x)) t) :=
  List.foldlRecOn ks _ h fun _ ht x hx => ht.setReg (hk x hx)

end RegsBut

/-- A counter with room counts one when it is bumped. -/
theorem counted_bump (s : State) (a : Nat) : Counted a s (s.bump a) := fun hroom => by
  rw [State.regN, reg_bump, if_pos ⟨rfl, hroom⟩, BitVec.toNat_ofNat, Nat.mod_eq_of_lt (by omega)]

namespace Counted

variable {l : List Nat} {a : Nat} {s t u : State}

/-- What is counted stays counted through a change of other registers. -/
theorem andThen (h : Counted a s t) (hregs : RegsBut l t u) (ha : a ∉ l ∧ 0x40020000 ≤ a) : Counted a s u := by
  intro hroom
  rw [State.regN, hregs a ha.1 (not_evrAddr_of_ge ha.2)]
  exact h hroom

/-- What is counted after a change of other registers is counted from before it. -/
theorem after (h : Counted a t u) (hregs : RegsBut l s t) (ha : a ∉ l ∧ 0x40020000 ≤ a) : Counted a s u := by
  have hsame : t.regN a = s.regN a := congrArg BitVec.toNat (hregs a ha.1 (not_evrAddr_of_ge ha.2))
  unfold Counted at h
  rwa [hsame] at h

end Counted

/-- The registers that hold the last status block (R128, R139). -/
def lastRxRegs (r : Radio) : List Nat := [0, 1, 2, 3, 4, 5, 6, 7].map (R.MDM_LASTRX r)

theorem regsBut_deliverBlock (s : State) (r : Radio) (ws : List Word) :
    RegsBut (lastRxRegs r) s (s.deliverBlock r ws) :=
  (RegsBut.foldl_setReg .refl fun _ hk => List.mem_map_of_mem hk).emit

theorem regsBut_failBlock (s : State) (r : Radio) (status : Nat) (w1 : Word) :
    RegsBut (lastRxRegs r) s (s.failBlock r status w1) :=
  regsBut_deliverBlock s.used.used.used r _

theorem regsBut_smodeApply (s : State) (r : Radio) : RegsBut [R.MDM_SMODE r] s (s.smodeApply r) := by
  unfold State.smodeApply
  split
  · exact .refl
  · exact (RegsBut.refl.setReg (List.mem_singleton_self _)).setMdm

/-- The end of a reception writes the counters of weak packets, MDM_CCA, MDM_SMODE and MDM_STAT alone (R116, R137). -/
theorem regsBut_rxOver (s : State) (r : Radio) (lost off : Bool) :
    RegsBut [R.MDM_CNT_LOSTWEAK r, R.MDM_CNT_OVLP r, R.MDM_CCA r, R.MDM_SMODE r, R.MDM_STAT r] s (s.rxOver r lost off) := by
  unfold State.rxOver
  extract_lets weak counted cleared applied idle
  have hcounted : RegsBut [R.MDM_CNT_LOSTWEAK r, R.MDM_CNT_OVLP r, R.MDM_CCA r, R.MDM_SMODE r, R.MDM_STAT r] s counted :=
    RegsBut.refl.bumpBy (by cases lost <;> simp)
  have happlied := (hcounted.setMdm.setReg (a := R.MDM_CCA r) (v := 0) (by simp)).trans
    ((regsBut_smodeApply (cleared.setReg (R.MDM_CCA r) 0) r).weaken (by simp))
  exact ((happlied.wf (by simp [F.MDM_STAT_RSTARM])).wf (by simp [F.MDM_STAT_DETPWR])).wf (by simp [F.MDM_STAT_PHASE])

/-- Accounting for a reception that is cut short counts it, by how far it had progressed (R114, R115). -/
theorem counted_rxCaptured (s : State) (r : Radio) :
    Counted (if (s.mdm.get r).lsig then R.MDM_CNT_CAPT r else R.MDM_CNT_CAPTPRE r) s (s.rxCaptured r) := by
  unfold State.rxCaptured
  split
  · exact (counted_bump _ _).after (regsBut_failBlock s r _ _) (by cases r <;> decide)
  · exact counted_bump _ _

theorem regsBut_rxCaptured (s : State) (r : Radio) :
    RegsBut (R.MDM_CNT_CAPT r :: R.MDM_CNT_CAPTPRE r :: lastRxRegs r) s (s.rxCaptured r) := by
  have hblock := (regsBut_failBlock s r St.ABORTED 0).weaken
    (l' := R.MDM_CNT_CAPT r :: R.MDM_CNT_CAPTPRE r :: lastRxRegs r) (by simp)
  exact .ite (hblock.bump (by simp)) (RegsBut.refl.bump (by simp))

/-! ### The beginning of a reception -/

/-- A reception begins in ACQUIRE, stamped less the receive delay and counted once (R109, R112). -/
theorem rxBegin_acquires (s : State) (r : Radio) (pwr : Int) (stamp : GTime) :
    (s.rxBegin r pwr stamp).mdmPhase r = 1 ∧
      ((s.rxBegin r pwr stamp).mdm.get r).stamp = stamp - BitVec.ofNat 64 (s.nsToUnits (s.rf (F.MDM_RXDLY_NS r))) ∧
      Counted (R.MDM_CNT_DET r) s (s.rxBegin r pwr stamp) ∧
      RegsBut [R.MDM_CNT_DET r, R.MDM_CCA r, R.MDM_STAT r] s (s.rxBegin r pwr stamp) := by
  unfold State.rxBegin
  extract_lets st tb opened energy sensed told
  have htold : RegsBut [R.MDM_CCA r, R.MDM_STAT r] s (told.wf (F.MDM_STAT_PHASE r) 1) :=
    (((RegsBut.refl.setMdm.setReg (by simp)).wf (by simp [F.MDM_STAT_DETPWR])).wf (by simp [F.MDM_STAT_RSTARM])).wf
      (by simp [F.MDM_STAT_PHASE])
  have hbump : RegsBut [R.MDM_CNT_DET r] (told.wf (F.MDM_STAT_PHASE r) 1)
      ((told.wf (F.MDM_STAT_PHASE r) 1).bump (R.MDM_CNT_DET r)) := RegsBut.refl.bump (List.mem_singleton_self _)
  refine ⟨?phase, ?stamp, (counted_bump _ _).after htold (by cases r <;> decide),
    (htold.weaken (by simp)).trans (hbump.weaken (by simp))⟩
  case phase =>
    exact (hbump.rf (by cases r <;> decide) (not_evrAddr_of_ge (by cases r <;> decide))).trans
      (mdmPhase_wf told r (by decide))
  case stamp =>
    rw [bump_mdm]
    unfold told sensed opened
    simp only [wf_mdm, setRegN_mdm, setMdm_mdm_get]
    rfl

/-! ### Field checks -/

/-- The first check is due in ACQUIRE and the others in HEADER (R110, R113). -/
theorem fieldCheck_due {s : State} {r : Radio} {first : Bool} (h : s.mdmPhase r = if first then 1 else 2) :
    (first = true ∧ s.mdmPhase r = 1) ∨ ((!first) = true ∧ s.mdmPhase r = 2) := by
  cases first with
  | true => exact .inl ⟨rfl, h⟩
  | false => exact .inr ⟨rfl, h⟩

theorem exec_fieldCheck_of_due {s : State} {r : Radio} {first : Bool} (h : s.mdmPhase r = if first then 1 else 2)
    (w0 : Word) :
    exec (.fieldCheck r first .fail w0) s = .next (s.falseDetection r) ∧
      exec (.fieldCheck r first .pass w0) s = .next (s.fieldPass r false w0) ∧
      exec (.fieldCheck r first .passLast w0) s = .next (s.fieldPass r true w0) ∧
      exec (.fieldCheck r first .unsupported w0) s =
        .next ((s.setMdm r (fun m => { m with lsig := true, w0 := w0 })).wf (F.MDM_STAT_PHASE r) 4) :=
  ⟨if_pos (fieldCheck_due h), if_pos (fieldCheck_due h), if_pos (fieldCheck_due h), if_pos (fieldCheck_due h)⟩

/-- A check that passed leaves the L-SIG known, and leads to HEADER or, the last one, to PAYLOAD (R113, R114). -/
theorem fieldPass_advances (s : State) (r : Radio) (last : Bool) (w0 : Word) :
    (s.fieldPass r last w0).mdmPhase r = (if last then 3 else 2) ∧ ((s.fieldPass r last w0).mdm.get r).lsig = true ∧
      ((s.fieldPass r last w0).mdm.get r).w0 = w0 ∧ RegsBut [R.MDM_STAT r] s (s.fieldPass r last w0) := by
  have hstat : R.MDM_STAT r ∈ [R.MDM_STAT r] := List.mem_singleton_self _
  unfold State.fieldPass
  extract_lets told armed
  obtain ⟨hlsig, hw0⟩ : (told.mdm.get r).lsig = true ∧ (told.mdm.get r).w0 = w0 := by
    unfold told
    rw [setMdm_mdm_get]
    exact ⟨rfl, rfl⟩
  cases last with
  | true => exact ⟨mdmPhase_wf _ r (by decide), hlsig, hw0, (RegsBut.refl.setMdm.wf hstat).wf hstat⟩
  | false => exact ⟨mdmPhase_wf _ r (by decide), hlsig, hw0, RegsBut.refl.setMdm.wf hstat⟩

/-- A false detection ends the reception and is counted (R110). -/
theorem falseDetection_ends (s : State) (r : Radio) :
    (s.falseDetection r).mdmReceiving r = false ∧ Counted (R.MDM_CNT_FALSE r) s (s.falseDetection r) :=
  ⟨mdmReceiving_rxOver .., (counted_bump s _).andThen (regsBut_rxOver _ r _ _) (by cases r <;> decide)⟩

/-! ### Status blocks -/

/-- A block delivered is put out once; MDM_LASTRX holds it, which is registers alone (R128). -/
theorem out_deliverBlock (s : State) (r : Radio) (ws : List Word) :
    (s.deliverBlock r ws).out = .rxBlock r ws :: s.out := by
  unfold State.deliverBlock
  extract_lets stored
  have hstored : Within 1 s stored := .foldl (fun h => .setReg h) (.refl s)
  exact congrArg (Out.rxBlock r ws :: ·) (hstored .out rfl)

theorem out_rxOver (s : State) (r : Radio) (lost off : Bool) : (s.rxOver r lost off).out = s.out :=
  Within.rxOver (m := 129) (.refl s) ⟨rfl⟩ .out rfl

/-- The status of a block is bits 23 to 16 of its first word (R128). -/
theorem bits_setBits_status (v : Word) {status : Nat} (h : status < 256) : bits (setBits v 23 16 status) 23 16 = status :=
  (bits_setBits v 23 16 status (by decide) (by decide)).trans (Nat.mod_eq_of_lt h)

/-- A reception that did not end with OK puts out one block with its status (R128). -/
theorem out_failBlock (s : State) (r : Radio) {status : Nat} (h : status < 256) (w1 : Word) :
    ∃ ws, (s.failBlock r status w1).out = .rxBlock r ws :: s.out ∧ bits (ws.headD 0) 23 16 = status :=
  ⟨_, out_deliverBlock .., bits_setBits_status _ h⟩

/-- The end of a hold puts out one block with TYPE, and the reception is over and counted (R117). -/
theorem unsupportedHold_ends (s : State) (r : Radio) :
    let t := ((s.failBlock r St.TYPE 0).bump (R.MDM_CNT_UNSUP r)).rxOver r false false
    t.mdmReceiving r = false ∧ Counted (R.MDM_CNT_UNSUP r) s t ∧
      ∃ ws, t.out = .rxBlock r ws :: s.out ∧ bits (ws.headD 0) 23 16 = St.TYPE := by
  intro t
  have hcounted : Counted (R.MDM_CNT_UNSUP r) s ((s.failBlock r St.TYPE 0).bump (R.MDM_CNT_UNSUP r)) :=
    (counted_bump _ _).after (regsBut_failBlock s r _ _) (by cases r <;> decide)
  obtain ⟨ws, hout, hstatus⟩ := out_failBlock s r (status := St.TYPE) (by decide) 0
  exact ⟨mdmReceiving_rxOver .., hcounted.andThen (regsBut_rxOver _ r _ _) (by cases r <;> decide),
    ws, by rw [out_rxOver, bump_out, hout], hstatus⟩

/-- The end of a PPDU for one user puts out one block with OK and the length received, and the reception is over (R124). -/
theorem ppduReceiveEnd_delivers {s : State} {r : Radio} (b : RxMeas) (bs : List RxMeas) (hphase : s.mdmPhase r = 3)
    (htb : (s.mdm.get r).tb = none) : Runs (.ppduReceiveEnd r (b :: bs)) s fun t =>
      t.mdmReceiving r = false ∧ ∃ ws, t.out = .rxBlock r ws :: s.out ∧ bits (ws.headD 0) 23 16 = St.OK ∧
        ws.getD 2 0 = BitVec.ofNat 32 b.len := by
  have hexec : exec (.ppduReceiveEnd r (b :: bs)) s =
      .next ((s.deliverBlocks r false [{ b with absent := false }]).rxOver r false false) := by
    show execPpduReceiveEnd r (b :: bs) s = _
    simp [execPpduReceiveEnd, hphase, htb]
  refine ⟨_, hexec, mdmReceiving_rxOver .., _, (out_rxOver ..).trans (out_deliverBlock ..), ?_, rfl⟩
  exact bits_setBits_status _ (status := St.OK) (by decide)

/-! ### Restarts -/

/-- With the capture margin met, the reception under way is accounted for and a new one begins (R112, R114). -/
theorem secondDetection_restarts (s : State) (r : Radio) (pwr : Int) (stamp : GTime) :
    let t := ((s.rxCaptured r).rxOver r false false).rxBegin r pwr stamp
    t.mdmPhase r = 1 ∧ Counted (R.MDM_CNT_DET r) s t ∧
      Counted (if (s.mdm.get r).lsig then R.MDM_CNT_CAPT r else R.MDM_CNT_CAPTPRE r) s t := by
  intro t
  obtain ⟨hphase, -, hdet, hbegin⟩ := rxBegin_acquires ((s.rxCaptured r).rxOver r false false) r pwr stamp
  have hover := regsBut_rxOver (s.rxCaptured r) r false false
  refine ⟨hphase, ?detected, ?captured⟩
  case detected =>
    exact (hdet.after hover (by cases r <;> decide)).after (regsBut_rxCaptured s r) (by cases r <;> decide)
  case captured =>
    exact ((counted_rxCaptured s r).andThen hover (by split <;> cases r <;> decide)).andThen hbegin
      (by split <;> cases r <;> decide)

/-- A clip ends the reception, and is counted beside the reception it cut short (R115). -/
theorem clipRestart_ends (s : State) (r : Radio) :
    let t := ((s.rxCaptured r).bump (R.MDM_CNT_CLIPRST r)).rxOver r false false
    t.mdmReceiving r = false ∧ Counted (R.MDM_CNT_CLIPRST r) s t := by
  intro t
  have hcounted : Counted (R.MDM_CNT_CLIPRST r) s ((s.rxCaptured r).bump (R.MDM_CNT_CLIPRST r)) :=
    (counted_bump _ _).after (regsBut_rxCaptured s r) (by cases r <;> decide)
  exact ⟨mdmReceiving_rxOver .., hcounted.andThen (regsBut_rxOver _ r _ _) (by cases r <;> decide)⟩

/-! ### The obligation -/

/-- Settles O26: each command's condition holds by the clause's hypotheses, and what the reception then does is the lemma of
its stage; memory stands by the command's frame. -/
theorem modemReceive : Obligations.ModemReceive := by
  unfold Obligations.ModemReceive
  refine fun s r => ⟨fun pwr stamp hstate hphase hpwr => ?detection,
    fun first w0 hphase => ?checks, fun hphase => ?hold,
    fun pwr stamp hreceiving harmed => ⟨fun hmargin => ?strong, fun hweak => ?weak⟩,
    fun hreceiving harmed hclip => ?clip, fun b bs hphase htb => ?payload⟩
  case detection =>
    have hexec : exec (.packetDetect r pwr stamp) s = .next (s.rxBegin r pwr stamp) := if_pos ⟨hstate, hphase, hpwr⟩
    obtain ⟨hacquire, hstamp, hdet, hregs⟩ := rxBegin_acquires s r pwr stamp
    exact ⟨_, hexec, hacquire, hstamp, hdet, hregs, sameBytes_of_exec hexec (by simp [touched])⟩
  case checks =>
    obtain ⟨hfail, hpass, hlast, hhold⟩ := exec_fieldCheck_of_due hphase w0
    refine ⟨⟨_, hpass, ?_⟩, ⟨_, hlast, ?_⟩, ⟨_, hhold, ?_⟩, ⟨_, hfail, ?_⟩⟩
    · obtain ⟨hheader, hlsig, hw0, hregs⟩ := fieldPass_advances s r false w0
      exact ⟨hheader, hlsig, hw0, hregs, sameBytes_of_exec hpass (by simp [touched])⟩
    · obtain ⟨hpayload, hlsig, -, hregs⟩ := fieldPass_advances s r true w0
      exact ⟨hpayload, hlsig, hregs, sameBytes_of_exec hlast (by simp [touched])⟩
    · exact ⟨mdmPhase_wf _ r (by decide), RegsBut.refl.setMdm.wf (List.mem_singleton_self _),
        sameBytes_of_exec hhold (by simp [touched])⟩
    · obtain ⟨hended, hcounted⟩ := falseDetection_ends s r
      exact ⟨hended, hcounted, sameBytes_of_exec hfail (by simp [touched])⟩
  case hold =>
    have hexec : exec (.unsupportedHoldEnd r) s =
        .next (((s.failBlock r St.TYPE 0).bump (R.MDM_CNT_UNSUP r)).rxOver r false false) := if_pos hphase
    obtain ⟨hended, hcounted, hblock⟩ := unsupportedHold_ends s r
    exact ⟨_, hexec, hended, hcounted, hblock, sameBytes_of_exec hexec (by simp [touched])⟩
  case strong =>
    have hexec : exec (.secondDetection r pwr stamp) s =
        .next (((s.rxCaptured r).rxOver r false false).rxBegin r pwr stamp) :=
      (if_pos ⟨hreceiving, harmed⟩).trans (if_pos hmargin)
    obtain ⟨hacquire, hdet, hcapt⟩ := secondDetection_restarts s r pwr stamp
    exact ⟨_, hexec, hacquire, hdet, hcapt, sameBytes_of_exec hexec (by simp [touched])⟩
  case weak =>
    have hexec : exec (.secondDetection r pwr stamp) s = .next (s.setMdm r fun m => { m with weak := m.weak + 1 }) :=
      (if_pos ⟨hreceiving, harmed⟩).trans (if_neg (Int.not_le.mpr hweak))
    exact ⟨_, hexec, by rw [setMdm_mdm_get], rfl, fun _ => rfl⟩
  case clip =>
    have hexec : exec (.clipRestart r) s =
        .next (((s.rxCaptured r).bump (R.MDM_CNT_CLIPRST r)).rxOver r false false) :=
      if_pos ⟨hreceiving, harmed, hclip⟩
    obtain ⟨hended, hcounted⟩ := clipRestart_ends s r
    exact ⟨_, hexec, hended, hcounted, sameBytes_of_exec hexec (by simp [touched])⟩
  case payload =>
    obtain ⟨t, hexec, hended, hblock⟩ := ppduReceiveEnd_delivers b bs hphase htb
    exact ⟨t, hexec, hended, hblock, sameBytes_of_exec hexec (by simp [touched])⟩

end Sys2Proof.Machine
end

section
/-! PROOFS. The Wi-Fi MAC family: notch plans (O31). -/

namespace Sys2Proof.Machine

/-! ### Registers -/

/-- A one-bit field written as a truth value reads back. -/
theorem rb_wb_same (s : State) {f : Fld} (b : Bool) (hbit : f.hi = f.lo) (hwidth : f.hi < 32) : (s.wb f b).rb f = b := by
  rw [State.wb, rb_wf_bit _ _ hbit hwidth]
  cases b <;> rfl

/-- A truth value that shares no bit with the field written stands. -/
theorem rb_wb_apart (s : State) {f g : Fld} (b : Bool)
    (h : f.hi < 32 ∧ f.lo ≤ f.hi ∧ g.lo ≤ g.hi ∧ (g.addr ≠ f.addr ∨ f.hi < g.lo ∨ g.hi < f.lo)) :
    (s.wb f b).rb g = s.rb g := by
  rw [State.rb, State.wb, rf_wf_apart _ _ h, State.rb]

theorem reg_setReg_same (s : State) (a : Nat) (v : Word) : (s.setReg a v).reg a = v := (reg_setReg ..).trans (if_pos rfl)

theorem reg_setReg_other (s : State) {a b : Nat} (v : Word) (h : b ≠ a) : (s.setReg a v).reg b = s.reg b :=
  (reg_setReg ..).trans (if_neg h)

namespace RegsBut

variable {l : List Nat} {s t : State}

theorem wb {f : Fld} {b : Bool} (h : RegsBut l s t) (ha : f.addr ∈ l) : RegsBut l s (t.wb f b) := h.wf ha

theorem setWlan {f : WlanSt → WlanSt} (h : RegsBut l s t) : RegsBut l s (t.setWlan f) := h

theorem setMac {r : WRadio} {f : MacSt → MacSt} (h : RegsBut l s t) : RegsBut l s (t.setMac r f) := h

theorem reg (h : RegsBut l s t) {a : Nat} (ha : a ∉ l) (he : ¬ evrAddr a) : t.reg a = s.reg a := h a ha he

end RegsBut

/-- Copy registers to registers, one after another: each pair is a destination and its source. -/
def State.copyRegs (s : State) : List (Nat × Nat) → State
  | [] => s
  | p :: ps => (s.setReg p.1 (s.reg p.2)).copyRegs ps

theorem reg_copyRegs_of_not_mem {a : Nat} : ∀ {ps : List (Nat × Nat)} {s : State}, a ∉ ps.map Prod.fst →
    (s.copyRegs ps).reg a = s.reg a
  | [], _, _ => rfl
  | p :: ps, s, h => by
    obtain ⟨hne, hrest⟩ := not_or.mp (mt List.mem_cons.mpr h)
    rw [State.copyRegs, reg_copyRegs_of_not_mem hrest, reg_setReg_other _ _ hne]

theorem regsBut_copyRegs (s : State) (ps : List (Nat × Nat)) : RegsBut (ps.map Prod.fst) s (s.copyRegs ps) :=
  fun _ ha _ => reg_copyRegs_of_not_mem ha

/-- Where no source is a destination, each destination ends with what its source held. -/
theorem reg_copyRegs {a b : Nat} {ps : List (Nat × Nat)} (hnodup : (ps.map Prod.fst).Nodup)
    (hsrc : ∀ p ∈ ps, p.2 ∉ ps.map Prod.fst) (hmem : (a, b) ∈ ps) (s : State) : (s.copyRegs ps).reg a = s.reg b := by
  induction ps generalizing s with
  | nil => exact absurd hmem List.not_mem_nil
  | cons p ps ih =>
    obtain ⟨hnew, hrest⟩ := List.nodup_cons.mp hnodup
    have hb : b ≠ p.1 := fun e => hsrc _ hmem (e ▸ List.mem_cons_self)
    rw [State.copyRegs]
    rcases List.mem_cons.mp hmem with rfl | hlater
    · rw [reg_copyRegs_of_not_mem hnew, reg_setReg_same]
    · rw [ih hrest (fun q hq hmap => hsrc q (List.mem_cons_of_mem _ hq) (List.mem_cons_of_mem _ hmap)) hlater,
        reg_setReg_other _ _ hb]

/-! ### The state of a MAC -/

@[simp] theorem setMac_mac (s : State) (r : WRadio) (f : MacSt → MacSt) : (s.setMac r f).mac r = f (s.mac r) :=
  (Sparse.get_put ..).trans (if_pos rfl)

@[simp] theorem setMac_reg (s : State) (r : WRadio) (f : MacSt → MacSt) (a : Nat) : (s.setMac r f).reg a = s.reg a := rfl

@[simp] theorem setMac_rf (s : State) (r : WRadio) (f : MacSt → MacSt) (g : Fld) : (s.setMac r f).rf g = s.rf g := rfl

@[simp] theorem setMac_rb (s : State) (r : WRadio) (f : MacSt → MacSt) (g : Fld) : (s.setMac r f).rb g = s.rb g := rfl

/-- Each Wi-Fi MAC has eight events of its own (R180). -/
theorem mev_lt (r : WRadio) {k : Nat} (h : k < 8) : mev r k < 256 := by
  cases r <;> simp only [mev, macEv, WRadio.idx] <;> omega

/-! ### The use of the windows -/

/-- ACTIVE and SUSP follow the use of the windows, and NOTCH_STAT alone is written (R171). -/
theorem notchSync_shows_use (s : State) (r : WRadio) :
    (s.notchSync r).rb (F.MAC_NOTCH_STAT_ACTIVE r) = s.notchUsed r ∧
      (s.notchSync r).rb (F.MAC_NOTCH_STAT_SUSP r) = !s.notchUsed r ∧
      RegsBut [R.MAC_NOTCH_STAT r] s (s.notchSync r) ∧
      (s.notchSync r).rb (F.MAC_NOTCH_STAT_PEND r) = s.rb (F.MAC_NOTCH_STAT_PEND r) ∧
      (s.notchSync r).rb (F.MAC_NOTCH_STAT_MIS r) = s.rb (F.MAC_NOTCH_STAT_MIS r) := by
  unfold State.notchSync
  extract_lets used old shown
  have hown : R.MAC_NOTCH_STAT r ∈ [R.MAC_NOTCH_STAT r] := List.mem_singleton_self _
  have hshown : RegsBut [R.MAC_NOTCH_STAT r] s shown := .wb (.wb .refl hown) hown
  have htold : RegsBut [] shown (if old = !used then shown else shown.raise (mev r 6)) :=
    .ite .refl (RegsBut.refl.raise (mev_lt r (by decide)))
  have hstat : ∀ g : Fld, g.addr = R.MAC_NOTCH_STAT r →
      (if old = !used then shown else shown.raise (mev r 6)).rb g = shown.rb g := fun g hg =>
    htold.rb List.not_mem_nil (hg ▸ not_evrAddr_of_ge (by cases r <;> decide))
  refine ⟨(hstat _ rfl).trans ?_, (hstat _ rfl).trans ?_, hshown.trans (htold.weaken (List.nil_subset _)),
    (hstat _ rfl).trans ?_, (hstat _ rfl).trans ?_⟩
  · exact (rb_wb_apart _ _ (by cases r <;> decide)).trans (rb_wb_same _ _ rfl (by cases r <;> decide))
  · exact rb_wb_same _ _ rfl (by cases r <;> decide)
  · exact (rb_wb_apart _ _ (by cases r <;> decide)).trans (rb_wb_apart _ _ (by cases r <;> decide))
  · exact (rb_wb_apart _ _ (by cases r <;> decide)).trans (rb_wb_apart _ _ (by cases r <;> decide))

/-! ### A plan takes effect -/

/-- The five registers of a plan, each with the pending register it is copied from (R172). -/
def notchPlanRegs (r : WRadio) : List (Nat × Nat) :=
  [(R.MAC_NOTCH_CTRL r, R.MAC_NOTCH_PCTRL r), (R.MAC_NOTCH_MASK_LO r, R.MAC_NOTCH_PMASK_LO r),
    (R.MAC_NOTCH_MASK_HI r, R.MAC_NOTCH_PMASK_HI r), (R.MAC_NOTCH_GUARD r, R.MAC_NOTCH_PGUARD r),
    (R.MAC_NOTCH_PLANID r, R.MAC_NOTCH_PPLANID r)]

/-- A pending plan whose cycle has come at the start of a period is copied whole; it is pending no longer, and the windows
are in use or not by the new plan (R171, R172). -/
theorem notchPlanApply_of_due {s : State} {r : WRadio} (hpend : s.rb (F.MAC_NOTCH_STAT_PEND r) = true)
    (hcycle : s.reg64 (R.MAC_NOTCH_ACT_LO r) (R.MAC_NOTCH_ACT_HI r) ≤ s.gtN / 2 ^ 24)
    (hperiod : s.gtN / 2 ^ 24 % 2 ^ s.rf (F.MAC_NOTCH_PCTRL_PEXP r) = 0) :
    exec (.notchPlanApply r) s =
      .next ((((s.copyRegs (notchPlanRegs r)).wb (F.MAC_NOTCH_STAT_PEND r) false).raise (mev r 5)).notchSync r) := by
  refine if_neg ?_
  rw [hpend]
  rintro (hidle | hearly | hinside)
  · exact absurd hidle (by decide)
  · exact Nat.not_lt.mpr hcycle hearly
  · exact hinside hperiod

/-- After it the five registers hold the pending ones, and but for NOTCH_STAT no other register has changed (R172). -/
theorem notchPlanApply_copies (s : State) (r : WRadio) :
    let t := (((s.copyRegs (notchPlanRegs r)).wb (F.MAC_NOTCH_STAT_PEND r) false).raise (mev r 5)).notchSync r
    (∀ p ∈ notchPlanRegs r, t.reg p.1 = s.reg p.2) ∧ t.rb (F.MAC_NOTCH_STAT_PEND r) = false ∧
      RegsBut ((notchPlanRegs r).map Prod.fst ++ [R.MAC_NOTCH_STAT r]) s t := by
  intro t
  obtain ⟨-, -, hsync, hpend, -⟩ :=
    notchSync_shows_use (((s.copyRegs (notchPlanRegs r)).wb (F.MAC_NOTCH_STAT_PEND r) false).raise (mev r 5)) r
  have hraised : RegsBut [] ((s.copyRegs (notchPlanRegs r)).wb (F.MAC_NOTCH_STAT_PEND r) false)
      (((s.copyRegs (notchPlanRegs r)).wb (F.MAC_NOTCH_STAT_PEND r) false).raise (mev r 5)) :=
    RegsBut.refl.raise (mev_lt r (by decide))
  have hstat : RegsBut [R.MAC_NOTCH_STAT r] (s.copyRegs (notchPlanRegs r)) t :=
    ((RegsBut.refl.wb (List.mem_singleton_self _)).trans (hraised.weaken (List.nil_subset _))).trans hsync
  refine ⟨fun p hp => ?_, ?_, ((regsBut_copyRegs s _).weaken (by simp)).trans (hstat.weaken (by simp))⟩
  · have hown : p.1 ∉ [R.MAC_NOTCH_STAT r] ∧ 0x40020000 ≤ p.1 := by
      revert p
      cases r <;> decide
    rw [hstat.reg hown.1 (not_evrAddr_of_ge hown.2)]
    exact reg_copyRegs (by cases r <;> decide) (by cases r <;> decide) hp s
  · rw [hpend, hraised.rb List.not_mem_nil (not_evrAddr_of_ge (by cases r <;> decide))]
    exact rb_wb_same _ _ rfl (by cases r <;> decide)

/-! ### Flags expire -/

/-- MIS clears; where the policy lets a mismatch suspend the windows, their use follows (R171, R173). -/
theorem notchFlagExpire_clears_mis (s : State) (r : WRadio) : Runs (.notchFlagExpire r true) s fun t =>
    t.rb (F.MAC_NOTCH_STAT_MIS r) = false ∧ RegsBut [R.MAC_NOTCH_STAT r] s t := by
  refine ⟨_, rfl, ?_⟩
  generalize hcleared : (s.wb (F.MAC_NOTCH_STAT_MIS r) false).setMac r (fun m => { m with misAt := none }) = cleared
  have hmis : cleared.rb (F.MAC_NOTCH_STAT_MIS r) = false := by
    rw [← hcleared, setMac_rb, rb_wb_same _ _ rfl (by cases r <;> decide)]
  have hregs : RegsBut [R.MAC_NOTCH_STAT r] s cleared := by
    rw [← hcleared]
    exact .setMac (.wb .refl (List.mem_singleton_self _))
  obtain ⟨-, -, hsync, -, hsame⟩ := notchSync_shows_use cleared r
  split
  · exact ⟨hsame.trans hmis, hregs.trans hsync⟩
  · exact ⟨hmis, hregs⟩

/-! ### The obligation -/

/-- Settles O31: an arming write sets PEND, an apply copies the pending registers, and ACTIVE and SUSP are what the end of
each command makes of the windows' use; memory by the command's frame. -/
theorem notchPlans : Obligations.NotchPlans := by
  unfold Obligations.NotchPlans
  refine fun s r => ⟨fun i v hmay => ?arm, ⟨fun hpend hcycle hperiod => ?apply, fun hearly => ?early⟩, ?use, ?mis, ?ovl⟩
  case arm =>
    have hexec : exec (.notchArm i r v) s =
        .next ((s.setReg (R.MAC_NOTCH_ACT_HI r) (v &&& 0xFF)).wb (F.MAC_NOTCH_STAT_PEND r) true) :=
      congrArg Host.Outcome.next (onWrite_of_mayWrite s i _ _ hmay)
    refine ⟨_, hexec, ?_, rb_wb_same _ _ rfl (by cases r <;> decide), (RegsBut.refl.setReg (by simp)).wb
      (by simp [F.MAC_NOTCH_STAT_PEND]), sameBytes_of_exec hexec (by simp [touched])⟩
    exact (reg_setReg_other _ _ (by cases r <;> decide)).trans (reg_setReg_same ..)
  case apply =>
    have hexec := notchPlanApply_of_due hpend hcycle hperiod
    obtain ⟨hcopied, hdone, hregs⟩ := notchPlanApply_copies s r
    refine ⟨_, hexec, hcopied (R.MAC_NOTCH_CTRL r, R.MAC_NOTCH_PCTRL r) (by simp [notchPlanRegs]), ?_,
      hcopied (R.MAC_NOTCH_GUARD r, R.MAC_NOTCH_PGUARD r) (by simp [notchPlanRegs]),
      hcopied (R.MAC_NOTCH_PLANID r, R.MAC_NOTCH_PPLANID r) (by simp [notchPlanRegs]), hdone, hregs,
      sameBytes_of_exec hexec (by simp [touched])⟩
    rw [State.notchMask, State.reg64, State.regN, State.regN,
      hcopied (R.MAC_NOTCH_MASK_LO r, R.MAC_NOTCH_PMASK_LO r) (by simp [notchPlanRegs]),
      hcopied (R.MAC_NOTCH_MASK_HI r, R.MAC_NOTCH_PMASK_HI r) (by simp [notchPlanRegs])]
    rfl
  case early => exact if_pos (.inr (.inl hearly))
  case use =>
    have hexec : exec (.notchSuspendChange r) s = .next (s.notchSync r) := rfl
    obtain ⟨hactive, hsusp, hregs, -, -⟩ := notchSync_shows_use s r
    exact ⟨_, hexec, hactive, hsusp, hregs, sameBytes_of_exec hexec (by simp [touched])⟩
  case mis =>
    obtain ⟨t, hexec, hmis, hregs⟩ := notchFlagExpire_clears_mis s r
    exact ⟨t, hexec, hmis, hregs, sameBytes_of_exec hexec (by simp [touched])⟩
  case ovl =>
    have hexec : exec (.notchFlagExpire r false) s =
        .next ((s.wb (F.MAC_NOTCH_STAT_OVL r) false).setMac r (fun m => { m with ovlAt := none })) := rfl
    refine ⟨_, hexec, ?_, .setMac (.wb .refl (List.mem_singleton_self _)), fun _ => rfl⟩
    rw [setMac_rb, rb_wb_same _ _ rfl (by cases r <;> decide)]

end Sys2Proof.Machine
end

section
/-! PROOFS. The Wi-Fi MAC family: what a MAC sends (O29). -/

namespace Sys2Proof.Machine

/-! ### Exchanges -/

/-- What becomes part of a PPDU depends on what is staged alone. -/
theorem mpdus_markSent_congr {s t : State} (h : t.mpdus = s.mpdus) (l : List Nat) :
    (t.markSent l).mpdus = (s.markSent l).mpdus := by
  simp only [State.markSent, h]

/-- Of the staged MPDUs, sending marks those sent and touches no other. -/
theorem mpdus_sendMpdus (s : State) (r : WRadio) (x : ExchangeOut) (l : List Mpdu) :
    (s.sendMpdus r x l).mpdus = (s.markSent (l.map (fun m => m.num))).mpdus := by
  unfold State.sendMpdus
  extract_lets marked
  have hframe : Within 8401 marked ((marked.transmit r x (l.all fun m => m.stored)).opportunity r.idx) :=
    .opportunity (.transmit (.refl marked))
  exact hframe .mpdus rfl

/-- The Notch rules count a trim and leave what is staged (R169). -/
theorem mpdus_of_notchExchange {s : State} {r : WRadio} {x : ExchangeOut} {l : List Mpdu}
    {p : State × ExchangeOut × List Mpdu} (h : s.notchExchange r x l = some p) : p.1.mpdus = s.mpdus :=
  Within.notchExchange (m := 1) (.refl s) ⟨rfl⟩ p h .mpdus rfl

theorem edcaCommit_exempt {s : State} {r : WRadio} {x : ExchangeOut} {ids : List Nat} (hrun : s.macState r = Ms.RUN) :
    exec (.edcaCommit r x true ids) s = .next (s.sendMpdus r x (s.stagedOn r ids)) :=
  (if_neg (not_not_intro hrun)).trans (if_pos rfl)

/-- An exchange that is not exempt is what the Notch rules make of it, or none (R168, R169). -/
theorem edcaCommit_by_notch {s : State} {r : WRadio} {x : ExchangeOut} {ids : List Nat} (hrun : s.macState r = Ms.RUN) :
    exec (.edcaCommit r x false ids) s = .next (match s.notchExchange r x (s.stagedOn r ids) with
      | none => s
      | some p => p.1.sendMpdus r p.2.1 p.2.2) := by
  refine (if_neg (not_not_intro hrun)).trans ((if_neg Bool.false_ne_true).trans ?_)
  cases s.notchExchange r x (s.stagedOn r ids) <;> rfl

/-! ### Plans -/

/-- A plan used is no plan any more. -/
theorem planOf_planDone (s : State) (k : Nat) (kinds : List Nat) : (s.planDone k).planOf k kinds = none := by
  have hnone : Sparse.getO (s.planDone k).stp.plans k = none := (Sparse.get_put ..).trans (if_pos rfl)
  rw [State.planOf, hnone]

/-- A downlink MU PPDU that the Notch rules leave whole takes what its table names, and uses its plan up (R164). -/
theorem dlMuPpdu_sends {s : State} {r : WRadio} {x : ExchangeOut} {p : PlanSt} (hrun : s.macState r = Ms.RUN)
    (hplan : s.planOf r.idx [2] = some p) (hmode : s.notchMode r (vecStart x.vec) x.ppdu x.resp = .full) :
    ∃ y, exec (.dlMuPpdu r x) s =
      .next ((s.sendMpdus r y (s.tblMpdus r.idx p.ac p.table (s.mf p.table 31 24))).planDone r.idx) := by
  refine ⟨{ x with vec := { x.vec with w2 := 0, w3 := BitVec.ofNat 32 p.table } }, ?_⟩
  show execDlMuPpdu r x s = _
  -- START stands in words that the table's address does not touch.
  have hstart : s.notchMode r (vecStart { x.vec with w2 := 0, w3 := BitVec.ofNat 32 p.table }) x.ppdu x.resp = .full := hmode
  simp only [execDlMuPpdu, hplan, hrun, hstart, ne_eq, not_true_eq_false, if_false]

/-- A trigger that the Notch rules allow goes out, in whatever mode, and uses its plan up (R165). -/
theorem triggerSend_sends {s : State} {r : WRadio} {x : ExchangeOut} {p : PlanSt} (hrun : s.macState r = Ms.RUN)
    (hplan : s.planOf r.idx [3, 4] = some p) (hmode : s.notchMode r (vecStart x.vec) x.ppdu x.resp ≠ .off) :
    ∃ pad y users target, exec (.triggerSend r x) s =
      .next (((((s.emit (.trigger r.idx p.table pad)).transmit r y true).opportunity r.idx).tbArm r.toRadio users
        target).planDone r.idx) := by
  have hexec : exec (.triggerSend r x) s = execTriggerSend r x s := rfl
  simp only [hexec, execTriggerSend, hplan, hrun, ne_eq, not_true_eq_false, if_false]
  cases hm : s.notchMode r (vecStart x.vec) x.ppdu x.resp with
  | off => exact absurd hm hmode
  | full | outside | trim => exact ⟨_, _, _, _, rfl⟩

/-! ### Soundings -/

/-- Sets are stored after those that stand, for the radio and for users of the list (R166). -/
theorem snds_storeSets (r : WRadio) : ∀ (l : List (BitVec 12 × Nat)) (s : State), ∃ new,
    (s.storeSets r l).wlan.snds = s.wlan.snds ++ new ∧
      ∀ y ∈ new, y.radio = r.idx ∧ y.client ∈ l.map (fun c => c.1.toNat)
  | [], s => ⟨[], (List.append_nil _).symm, fun _ hy => absurd hy List.not_mem_nil⟩
  | (c, n) :: l, s => by
    unfold State.storeSets
    cases hrun : s.takeRun r.idx (max 1 ((n + 255) / 256)) false with
    | none =>
      obtain ⟨new, hsnds, hnew⟩ := snds_storeSets r l s
      exact ⟨new, hsnds, fun y hy => ⟨(hnew y hy).1, List.mem_cons_of_mem _ (hnew y hy).2⟩⟩
    | some t =>
      have hwlan : t.1.wlan = s.wlan := Within.takeRun (m := 4097) (.refl s) ⟨rfl⟩ t hrun .wlan rfl
      obtain ⟨new, hsnds, hnew⟩ := snds_storeSets r l (t.1.setWlan fun w =>
        { w with snds := w.snds ++ [⟨r.idx, c.toNat, t.2, max 1 ((n + 255) / 256), t.1.gt⟩] })
      refine ⟨⟨r.idx, c.toNat, t.2, max 1 ((n + 255) / 256), t.1.gt⟩ :: new, ?_, fun y hy => ?_⟩
      · rw [List.append_cons]
        exact hsnds.trans (by rw [setWlan_wlan, hwlan])
      · rcases List.mem_cons.mp hy with rfl | hlater
        · exact ⟨rfl, List.mem_cons_self⟩
        · exact ⟨(hnew y hlater).1, List.mem_cons_of_mem _ (hnew y hlater).2⟩

/-- A sounding forgets the radio's sets, returns their units, and stores new ones for up to 8 users (R166). -/
theorem sounding_replaces {s : State} {r : WRadio} (sets : List (BitVec 12 × Nat)) (hrun : s.macState r = Ms.RUN) :
    Runs (.sounding r sets) s fun t => ∃ new,
      t.wlan.snds = s.wlan.snds.filter (fun y => y.radio != r.idx) ++ new ∧
        ∀ y ∈ new, y.radio = r.idx ∧ y.client ∈ (sets.take 8).map (fun c => c.1.toNat) := by
  refine ⟨_, if_neg (not_not_intro hrun), ?_⟩
  generalize hfree : (s.wlan.snds.filter (fun y => y.radio == r.idx)).foldl (fun s y => s.freeRun r.idx y.addr) s = freed
  have hwlan : freed.wlan = s.wlan := hfree ▸ Within.foldl (m := 4097) (fun h => .freeRun h) (.refl s) .wlan rfl
  obtain ⟨new, hsnds, hnew⟩ := snds_storeSets r (sets.take 8)
    (freed.setWlan fun w => { w with snds := w.snds.filter (fun y => y.radio != r.idx) })
  exact ⟨new, hsnds.trans (by rw [setWlan_wlan, hwlan]), hnew⟩

/-! ### Beacons -/

/-- The state of a MAC is a part of what the MACs hold. -/
theorem mac_congr {s t : State} (h : t.wlan = s.wlan) (r : WRadio) : t.mac r = s.mac r := by
  rw [State.mac, h, State.mac]

theorem contains_endContend (s : State) (r : WRadio) (b : Nat) :
    ((s.endContend r b).mac r).contend.contains b = false := by
  rw [State.endContend, setMac_mac]
  simp

/-- A dropped beacon contends no longer and is counted (R145). -/
theorem beaconDrop_counts {s : State} {r : WRadio} {b : Fin 16} (h : (s.mac r).contend.contains b.val = true) :
    Runs (.beaconDrop r b) s fun t => (t.mac r).contend.contains b.val = false ∧ Counted (R.MAC_CNT_BCNDROP r) s t ∧
      RegsBut [R.MAC_CNT_BCNDROP r] s t := by
  have hended : RegsBut [] s (s.endContend r b.val) := .setMac .refl
  have hraised : RegsBut [] ((s.endContend r b.val).bump (R.MAC_CNT_BCNDROP r))
      (((s.endContend r b.val).bump (R.MAC_CNT_BCNDROP r)).raise (mev r 1)) := RegsBut.refl.raise (mev_lt r (by decide))
  have hge : 0x40020000 ≤ R.MAC_CNT_BCNDROP r := by cases r <;> decide
  refine ⟨_, if_pos h, ?_, ?_, ?_⟩
  · rw [mac_congr (raise_wlan ..), mac_congr (Within.bump (m := 1) (.refl _) ⟨rfl⟩ .wlan rfl), contains_endContend]
  · exact ((counted_bump _ _).after hended ⟨List.not_mem_nil, hge⟩).andThen hraised ⟨List.not_mem_nil, hge⟩
  · exact ((hended.weaken (List.nil_subset _)).trans (RegsBut.refl.bump (List.mem_singleton_self _))).trans
      (hraised.weaken (List.nil_subset _))

/-- A committed beacon contends no longer, and goes out once, before the PPDU's command and vector (R142, R147, R161). -/
theorem beaconCommit_sends {s : State} {r : WRadio} {b : Fin 16} (x : ExchangeOut)
    (h : (s.mac r).contend.contains b.val = true) :
    Runs (.beaconCommit r b x) s fun t => (t.mac r).contend.contains b.val = false ∧
      t.out = .beacon r.idx b.val (s.tsfOf (vecStart x.vec))
        (if s.rb (F.MAC_BCNCTRL_GTE r) then s.gteBytes r (vecStart x.vec) else []) (s.bcastTwt r b.val) :: s.out := by
  refine ⟨_, if_pos h, ?_, ?_⟩
  · rw [mac_congr (Within.transmit (m := 209) (.refl _) ⟨rfl⟩ .wlan rfl), mac_congr (emit_wlan ..), contains_endContend]
  · exact Within.transmit (m := 209) (.refl _) ⟨rfl⟩ .out rfl

/-! ### The obligation -/

/-- Settles O29: each command by what it sends; MPDUs, output and memory stand through the PPDU's command and vector by the
frames of those operations. -/
theorem macAir : Obligations.MacAir := by
  unfold Obligations.MacAir
  refine fun s r x => ⟨fun ids hrun => ⟨?exempt, fun p hp => ?exchange, fun hnone => ?none⟩,
    fun kind users hoff => ?response, fun p hrun hplan hmode => ?mu, fun p hrun hplan hmode => ?trigger,
    fun sets hrun => ?sounding, fun hrun => ?tbtt, fun b hb => ⟨?drop, ?commit⟩⟩
  case exempt =>
    have hexec := edcaCommit_exempt (x := x) (ids := ids) hrun
    exact ⟨_, hexec, mpdus_sendMpdus .., sameBytes_of_exec hexec (by simp [touched])⟩
  case exchange =>
    have hexec := edcaCommit_by_notch (x := x) (ids := ids) hrun
    rw [hp] at hexec
    exact ⟨_, hexec, (mpdus_sendMpdus ..).trans (mpdus_markSent_congr (mpdus_of_notchExchange hp) _),
      sameBytes_of_exec hexec (by simp [touched])⟩
  case none =>
    rw [edcaCommit_by_notch hrun, hnone]
  case response =>
    refine ⟨_, if_neg hoff, ⟨_, rfl, fun hkind => ?_⟩, rfl, fun _ => rfl⟩
    rw [if_pos hkind, List.length_map]
  case mu =>
    obtain ⟨y, hexec⟩ := dlMuPpdu_sends hrun hplan hmode
    refine ⟨_, hexec, planOf_planDone .., mpdus_sendMpdus .., fun a => ?_⟩
    have hmem := Within.planDone (m := 8657) (x1 := r.idx) (.sendMpdus (x1 := r) (x2 := y)
      (x3 := s.tblMpdus r.idx p.ac p.table (s.mf p.table 31 24)) (.refl s)) ⟨rfl⟩ .mem rfl
    exact congrArg (fun m => Sparse.get memDefault m a) hmem
  case trigger =>
    obtain ⟨pad, y, users, target, hexec⟩ := triggerSend_sends hrun hplan hmode
    refine ⟨_, hexec, ⟨pad, ?_⟩, planOf_planDone .., sameBytes_of_exec hexec (by simp [touched])⟩
    exact Within.planDone (m := 8401) (.tbArm (.opportunity (.transmit (.refl _)))) ⟨rfl⟩ .out rfl
  case sounding =>
    obtain ⟨t, hexec, new, hsnds, hnew⟩ := sounding_replaces sets hrun
    refine ⟨t, hexec, fun y hy hradio => ?_, ?_, sameBytes_of_exec hexec (by simp [touched])⟩
    · rcases List.mem_append.mp (hsnds ▸ hy) with hold | hlater
      · exact absurd hradio (bne_iff_ne.mp (List.mem_filter.mp hold).2)
      · exact (hnew y hlater).2
    · have hnone : new.filter (fun y => y.radio != r.idx) = [] :=
        List.filter_eq_nil_iff.mpr fun y hy => by simp [(hnew y hy).1]
      rw [hsnds, List.filter_append, hnone, List.append_nil, List.filter_filter]
      simp only [Bool.and_self]
  case tbtt =>
    exact ⟨_, if_neg (not_not_intro hrun), by rw [setMac_mac], rfl, fun _ => rfl⟩
  case drop =>
    obtain ⟨t, hexec, hended, hcounted, hregs⟩ := beaconDrop_counts hb
    exact ⟨t, hexec, hended, hcounted, hregs, sameBytes_of_exec hexec (by simp [touched])⟩
  case commit =>
    obtain ⟨t, hexec, hended, hout⟩ := beaconCommit_sends x hb
    exact ⟨t, hexec, hended, sameBytes_of_exec hexec (by simp [touched]), hout⟩

end Sys2Proof.Machine
end

section
/-! PROOFS. The Wi-Fi MAC family: the ports of the MACs, of Steppe and of the field MAC (O36). -/

namespace Sys2Proof.Machine

/-! ### Refusals -/

/-- A refusal records the code in the block's status register and, but for the EVR, writes no other. -/
theorem refuse_records (s : State) {e code ev : Nat} (he : ¬ evrAddr e) (hcode : code < 256) (hev : ev < 256) :
    (s.refuse e code ev).regN e = 0x100 + code ∧ RegsBut [e] s (s.refuse e code ev) := by
  refine ⟨?_, fun a ha hevr => ?_⟩
  · rw [State.regN, reg_refuse s e code ev e hev he, if_pos rfl, BitVec.toNat_ofNat]
    omega
  · rw [reg_refuse s e code ev a hev hevr, if_neg fun h => ha (List.mem_singleton.mpr h)]

@[simp] theorem refuse_mem (s : State) (e code ev : Nat) : (s.refuse e code ev).mem = s.mem := raise_mem ..
@[simp] theorem refuse_wlan (s : State) (e code ev : Nat) : (s.refuse e code ev).wlan = s.wlan := raise_wlan ..
@[simp] theorem refuse_stp (s : State) (e code ev : Nat) : (s.refuse e code ev).stp = s.stp := raise_stp ..
@[simp] theorem refuse_fld (s : State) (e code ev : Nat) : (s.refuse e code ev).fld = s.fld := raise_fld ..

theorem sameBytes_of_mem {s t : State} (h : t.mem = s.mem) : SameBytes s t := fun a =>
  congrArg (fun m => Sparse.get memDefault m a) h

/-! ### Register writes that are not refused -/

/-- A write that is not refused changes its own register alone (R8). -/
theorem regsBut_writeReg {s : State} {i a : Nat} {v : Word} (h : s.writeRefused i a v = false) :
    RegsBut [a] s (s.writeReg i a v) := by
  cases hw : windowOf a with
  | none =>
    simp only [State.writeReg, hw]
    exact .refl
  | some w =>
    cases hrow : findRow w.rows (a - w.base) with
    | none =>
      simp only [State.writeReg, hw, hrow]
      exact .refl
    | some p =>
      rw [writeReg_of_not_refused (row := p.1) (ix := p.2) hw hrow h]
      exact RegsBut.refl.setReg (List.mem_singleton_self _)

/-! ### Words of memory -/

theorem byte_writeN_of_outside {b n a v : Nat} {s : State} (h : b < a ∨ a + n ≤ b) : (s.writeN a n v).byte b = s.byte b := by
  induction n generalizing s a v with
  | zero => rfl
  | succ n ih => rw [State.writeN, ih (by omega), byte_setByte, if_neg (by omega)]

theorem readN_congr {n a : Nat} {s t : State} (h : ∀ b, a ≤ b → b < a + n → t.byte b = s.byte b) :
    t.readN a n = s.readN a n := by
  induction n generalizing a with
  | zero => rfl
  | succ n ih =>
    rw [State.readN, State.readN, h a (by omega) (by omega), ih fun b hlo hhi => h b (by omega) (by omega)]

/-- A little-endian number written reads back, as far as it is wide. -/
theorem readN_writeN (s : State) (a n v : Nat) : (s.writeN a n v).readN a n = v % 256 ^ n := by
  induction n generalizing s a v with
  | zero => exact (Nat.mod_one v).symm
  | succ n ih =>
    have hfirst : ((s.setByte a (BitVec.ofNat 8 v)).writeN (a + 1) n (v / 256)).byte a = BitVec.ofNat 8 v := by
      rw [byte_writeN_of_outside (by omega), byte_setByte, if_pos rfl]
    have hpow : 256 ^ (n + 1) = 256 * 256 ^ n := Nat.pow_succ'
    rw [State.readN, State.writeN, hfirst, ih, BitVec.toNat_ofNat, hpow, Nat.mod_mul]

theorem read32_write32 (s : State) (a : Nat) (w : Word) : (s.write32 a w).read32 a = w := by
  have hw : w.toNat < 256 ^ 4 := w.isLt
  rw [State.read32, State.write32, readN_writeN, Nat.mod_eq_of_lt hw, BitVec.ofNat_toNat, BitVec.setWidth_eq]

/-- A field of a client record written reads back, as far as it is wide. -/
theorem cr_setRec_same (s : State) (i w n : Nat) {hi lo : Nat} (h : lo ≤ hi) (hhi : hi < 32) :
    (s.setRec i w hi lo n).cr i w hi lo = n % 2 ^ (hi - lo + 1) := by
  rw [State.cr, State.mf, State.setRec, State.wmf, read32_write32, bits_setBits _ _ _ _ h hhi]

/-- A field of a client record written changes its word alone (R182, R183). -/
theorem byte_setRec_of_outside {s : State} {i w hi lo n a : Nat}
    (h : a < clAddr i + 4 * w ∨ clAddr i + 4 * w + 4 ≤ a) : (s.setRec i w hi lo n).byte a = s.byte a := by
  rw [State.setRec, State.wmf, State.write32, byte_writeN_of_outside h]

/-! ### Pushes -/

theorem ite_lt {c : Prop} [Decidable c] {a b n : Nat} (ha : a < n) (hb : b < n) : (if c then a else b) < n := by
  split
  · exact ha
  · exact hb

/-- The check of a push answers a status code, which is one byte (R9, R175). -/
theorem macCheck_lt (s : State) (r : WRadio) (w : List Word) : s.macCheck r w < 256 :=
  ite_lt (by decide) (ite_lt (by decide) (ite_lt (by decide) (ite_lt (by decide) (by decide))))

theorem stpCheck_lt (s : State) (w : List Word) : s.stpCheck w < 256 :=
  ite_lt (by decide) (ite_lt (by decide) (ite_lt (by decide) (ite_lt (by decide) (ite_lt (by decide) (ite_lt (by decide)
    (ite_lt (by decide) (ite_lt (by decide) (by decide))))))))

theorem fmCheck_lt (s : State) (w : List Word) : s.fmCheck w < 256 :=
  ite_lt (by decide) (ite_lt (by decide) (ite_lt (by decide) (ite_lt (by decide) (ite_lt (by decide) (ite_lt (by decide)
    (ite_lt (by decide) (ite_lt (by decide) (by decide))))))))

/-- A granted push of a MAC's staged command goes by its check alone (R175). -/
theorem macCmdPush_by_check {s : State} {i : Init} {r : WRadio} {v : Word} (hmay : s.MayWrite i (R.MAC_CMD_PUSH r))
    (hpush : v.getLsbD 0 = true) :
    exec (.macCmdPush i r v) s = .next
      (if s.macCheck r ([0, 1, 2, 3].map (fun k => s.reg (R.MAC_CMD_W r k))) = St.OK then
        s.setMac r (fun m => { m with cmds := m.cmds ++ [[0, 1, 2, 3].map (fun k => s.reg (R.MAC_CMD_W r k))] })
      else s.refuse (R.MAC_ERR r) (s.macCheck r ([0, 1, 2, 3].map (fun k => s.reg (R.MAC_CMD_W r k)))) (mev r 0)) :=
  congrArg Host.Outcome.next ((onWrite_of_mayWrite s i _ _ hmay).trans (if_neg (by rw [hpush]; decide)))

/-- A granted push of Steppe's staged command goes by its check alone (R187). -/
theorem stpCmdPush_by_check {s : State} {i : Init} {v : Word} (hmay : s.MayWrite i R.STP_CMD_PUSH)
    (hpush : v.getLsbD 0 = true) :
    exec (.stpCmdPush i v) s = .next
      (if s.stpCheck ([0, 1, 2, 3].map (fun k => s.reg (R.STP_CMD_W k))) = St.OK then
        s.setStp (fun t => { t with cmds := t.cmds ++ [[0, 1, 2, 3].map (fun k => s.reg (R.STP_CMD_W k))] })
      else s.refuse R.STP_ERR (s.stpCheck ([0, 1, 2, 3].map (fun k => s.reg (R.STP_CMD_W k)))) 80) :=
  congrArg Host.Outcome.next ((onWrite_of_mayWrite s i _ _ hmay).trans (if_neg (by rw [hpush]; decide)))

/-- A granted push of the field MAC's staged command goes by its check alone (R257). -/
theorem fmacCmdPush_by_check {s : State} {i : Init} {v : Word} (hmay : s.MayWrite i R.FMAC_CMD_PUSH)
    (hpush : v.getLsbD 0 = true) :
    exec (.fmacCmdPush i v) s = .next
      (if s.fmCheck ([0, 1, 2, 3].map (fun k => s.reg (R.FMAC_CMD_W k))) = St.OK then
        s.setFld (fun f => { f with cmds := f.cmds ++ [[0, 1, 2, 3].map (fun k => s.reg (R.FMAC_CMD_W k))] })
      else s.refuse R.FMAC_ERR (s.fmCheck ([0, 1, 2, 3].map (fun k => s.reg (R.FMAC_CMD_W k)))) 72) :=
  congrArg Host.Outcome.next ((onWrite_of_mayWrite s i _ _ hmay).trans (if_neg (by rw [hpush]; decide)))

/-! ### Results -/

/-- The word that a read of a result register answers for a result (R79, R179, R190, R259). -/
def resWord (x : Res) : Word := BitVec.ofNat 32 (2 ^ 31 + x.tag * 2 ^ 16 + x.opc * 2 ^ 8 + x.status)

theorem macPop_of_results_cons {s : State} {r : WRadio} {x : Res} {xs : List Res} (i : Init)
    (h : (s.mac r).results = x :: xs) :
    State.macPop i r s = (s.setMac r (fun m => { m with results := xs })).answer i (resWord x) := by
  rw [State.macPop, h, resWord]

theorem stpPop_of_results_cons {s : State} {x : Res} {xs : List Res} (i : Init) (h : s.stp.results = x :: xs) :
    State.stpPop i s = (s.setStp (fun t => { t with results := xs })).answer i (resWord x) := by
  rw [State.stpPop, h, resWord]

theorem fmPop_of_results_cons {s : State} {x : Res} {xs : List Res} (i : Init) (h : s.fld.results = x :: xs) :
    State.fmPop i s = (s.setFld (fun f => { f with results := xs })).answer i (resWord x) := by
  rw [State.fmPop, h, resWord]

/-! ### The TSF -/

/-- Two words of a pair written hold the number, as far as they are wide. -/
theorem reg64_setReg64 (s : State) {lo hi n : Nat} (hne : lo ≠ hi) (hn : n < 2 ^ 64) :
    (s.setReg64 lo hi n).reg64 lo hi = n := by
  rw [State.reg64, State.regN, State.regN, reg_setReg64, reg_setReg64, if_neg hne, if_pos rfl, if_pos rfl,
    BitVec.toNat_ofNat, BitVec.toNat_ofNat]
  omega

/-- A granted read of MAC_TSF_LO answers the TSF and latches its high word and grid time (R146). -/
theorem tsfRead_latches {s : State} {i : Init} {r : WRadio} (hmay : s.MayRead i (R.MAC_TSF_LO r)) :
    Runs (.tsfRead i r) s fun t => t.out = .busData i (BitVec.ofNat 32 s.tsf) :: s.out ∧
      t.reg (R.MAC_TSF_HI r) = BitVec.ofNat 32 (s.tsf / 2 ^ 32) ∧
      t.reg64 (R.MAC_TSFGT_LO r) (R.MAC_TSFGT_HI r) = s.gtN ∧
      RegsBut [R.MAC_TSF_LO r, R.MAC_TSF_HI r, R.MAC_TSFGT_LO r, R.MAC_TSFGT_HI r] s t := by
  refine ⟨s.tsfRead i r, congrArg Host.Outcome.next (onRead_of_mayRead s i _ _ hmay), rfl, ?_, ?_, ?_⟩ <;>
    unfold State.tsfRead State.answer
  · rw [emit_reg, reg_setReg64, if_neg (by cases r <;> decide), if_neg (by cases r <;> decide)]
    exact reg_setReg_same ..
  · rw [State.reg64, emit_regN, emit_regN, ← State.reg64]
    exact reg64_setReg64 _ (by cases r <;> decide) s.gt.isLt
  · have hlo : RegsBut [R.MAC_TSF_LO r, R.MAC_TSF_HI r, R.MAC_TSFGT_LO r, R.MAC_TSFGT_HI r] s
        (s.setRegN (R.MAC_TSF_LO r) s.tsf) := RegsBut.refl.setReg (by simp)
    exact (((hlo.setReg (by simp)).setReg (by simp)).setReg (by simp)).emit

/-! ### TWT agreements -/

/-- An agreement of a radio's client and flow gets a new target and interval (R162). -/
def State.retargetTwt (s : State) (r : WRadio) (c f target interval : Nat) : State :=
  s.setWlan (fun x => { x with twts := x.twts.map (fun y =>
    if y.radio == r.idx && y.client == c && y.flow == f then { y with target := target, interval := interval } else y) })

theorem mem_retargetTwt {s : State} {r : WRadio} {c f target interval : Nat} {y : TwtAgr}
    (hy : y ∈ (s.retargetTwt r c f target interval).wlan.twts) (hradio : y.radio = r.idx) (hclient : y.client = c)
    (hflow : y.flow = f) : y.target = target ∧ y.interval = interval := by
  obtain ⟨z, -, rfl⟩ := List.mem_map.mp hy
  split
  · exact ⟨rfl, rfl⟩
  · next hother =>
    rw [if_neg hother] at hradio hclient hflow
    exact absurd (by simp [hradio, hclient, hflow]) hother

/-- The target of an agreement found is compared with the next start of its entry: one that is off by more than the limit is
announced and counted, one within it moves on by its interval (R162). -/
theorem twtSlipCheck_of_find {s : State} {r : WRadio} {c : BitVec 12} {f : Fin 8} {x : TwtAgr}
    (h : s.wlan.twts.find? (fun y => y.radio == r.idx && y.client == c.toNat && y.flow == f.val) = some x) :
    let start := s.tsfOf (s.teNext x.entry s.gtN)
    let iv := wakeInterval 32 (s.periodUs x.entry)
    exec (.twtSlipCheck r c f) s = if s.rf (F.MAC_TWTSLIP_US r) < ((x.target : Int) - (start : Int)).natAbs then
      .next ((((s.emit (.twtSetup r.idx x.client x.flow start iv)).retargetTwt r c.toNat f.val (start + iv) iv).bump
        (R.MAC_CNT_TWTRE r)).raise (mev r 4))
    else .next (s.retargetTwt r c.toNat f.val (x.target + x.interval) x.interval) := by
  intro start iv
  show execTwtSlipCheck r c f s = _
  simp only [execTwtSlipCheck, h]
  rfl

/-! ### The schedule of the field MAC -/

/-- An arming write is refused where regions overlap or an assignment leaves the Plain region (R220). -/
theorem schedArm_by_regions (s : State) (i : Nat) (v : Word) :
    State.schedArm i v s =
      if regionsOk (s.reg R.FMAC_PSF) (s.reg R.FMAC_PPLAIN) (s.reg R.FMAC_PPASS) &&
          s.validEntries.all (fun e => inPlain (s.feW e 0) (s.reg R.FMAC_PPLAIN)) then
        (s.writeReg i R.FMAC_ACT_HI v).wb F.FMAC_STAT_SCHPEND true
      else s.refuse R.FMAC_ERR St.RANGE 72 := by
  unfold State.schedArm
  rw [← List.not_all_eq_any_not, ← Bool.not_and]
  cases regionsOk (s.reg R.FMAC_PSF) (s.reg R.FMAC_PPLAIN) (s.reg R.FMAC_PPASS) &&
    s.validEntries.all (fun e => inPlain (s.feW e 0) (s.reg R.FMAC_PPLAIN)) <;> rfl

/-- The four registers of a schedule, each with the pending register it is copied from (R219). -/
def scheduleRegs : List (Nat × Nat) :=
  [(R.FMAC_SF, R.FMAC_PSF), (R.FMAC_PLAIN, R.FMAC_PPLAIN), (R.FMAC_PASS, R.FMAC_PPASS), (R.FMAC_CHAN, R.FMAC_PCHAN)]

/-- A pending schedule is copied whole and is pending no longer (R219). -/
theorem scheduleApply_copies {s : State} (hpend : s.rb F.FMAC_STAT_SCHPEND = true) : Runs .scheduleApply s fun t =>
    (∀ p ∈ scheduleRegs, t.reg p.1 = s.reg p.2) ∧ t.rb F.FMAC_STAT_SCHPEND = false ∧
      RegsBut [R.FMAC_SF, R.FMAC_PLAIN, R.FMAC_PASS, R.FMAC_CHAN, R.FMAC_STAT] s t := by
  have hexec : exec .scheduleApply s = .next (((s.copyRegs scheduleRegs).wb F.FMAC_STAT_SCHPEND false).raise 79) := by
    have hplain : ∀ (u : State) v, (u.setReg R.FMAC_SF v).reg R.FMAC_PPLAIN = u.reg R.FMAC_PPLAIN := fun u v =>
      reg_setReg_other u v (by decide)
    have hchan : ∀ (u : State) v, (u.setReg R.FMAC_PASS v).reg R.FMAC_PCHAN = u.reg R.FMAC_PCHAN := fun u v =>
      reg_setReg_other u v (by decide)
    show execScheduleApply s = _
    simp only [execScheduleApply, hpend, Bool.not_true, Bool.false_eq_true, if_false, scheduleRegs, State.copyRegs, hplain,
      hchan]
  have hraised : RegsBut [] ((s.copyRegs scheduleRegs).wb F.FMAC_STAT_SCHPEND false)
      (((s.copyRegs scheduleRegs).wb F.FMAC_STAT_SCHPEND false).raise 79) := RegsBut.refl.raise (by decide)
  have hstat : RegsBut [R.FMAC_STAT] (s.copyRegs scheduleRegs)
      (((s.copyRegs scheduleRegs).wb F.FMAC_STAT_SCHPEND false).raise 79) :=
    (RegsBut.refl.wb (List.mem_singleton_self _)).trans (hraised.weaken (List.nil_subset _))
  refine ⟨_, hexec, fun p hp => ?_, ?_, ((regsBut_copyRegs s _).weaken (by decide)).trans (hstat.weaken (by decide))⟩
  · have hown : p.1 ∉ [R.FMAC_STAT] ∧ 0x40020000 ≤ p.1 := by
      revert p
      decide
    rw [hstat.reg hown.1 (not_evrAddr_of_ge hown.2)]
    exact reg_copyRegs (by decide) (by decide) hp s
  · rw [hraised.rb List.not_mem_nil (not_evrAddr_of_ge (by decide))]
    exact rb_wb_same _ _ rfl (by decide)

/-! ### The parent table -/

/-- The register window of the field MAC (R23). -/
def fmacWindow : Window := ⟨22, 0x40330000, 0x4033FFFF, RegMap.fmac⟩

/-- The row of word 0 of an entry of the parent table (R249, R261). -/
def ptabW0Row : RegRow :=
  RegMap.row 0x100 [(0x10, 8)] [RegMap.f 31 31 .rw 0, RegMap.f 30 30 .ro 0, RegMap.f 27 24 .rw 0, RegMap.f 23 16 .rw 0,
    RegMap.f 15 0 .rw 0]

theorem windowOf_ptab : ∀ j : Fin 8, windowOf (ptabReg j.val 0) = some fmacWindow
  | 0 | 1 | 2 | 3 | 4 | 5 | 6 | 7 => rfl

theorem findRow_ptabW0 : ∀ j : Fin 8, findRow fmacWindow.rows (ptabReg j.val 0 - fmacWindow.base) = some (ptabW0Row, [j.val])
  | 0 | 1 | 2 | 3 | 4 | 5 | 6 | 7 => by decide

/-- The field MAC has every field of its map. -/
theorem absentField_fmac (o hi : Nat) : absentField fmacWindow.num o hi = false := by
  simp [absentField, fmacWindow]

/-- A write of word 0 of an entry that is not refused sets its short address (R249). -/
theorem rf_saddr_writeReg {s : State} {i : Nat} {j : Fin 8} {v : Word}
    (h : s.writeRefused i (ptabReg j.val 0) v = false) :
    (s.writeReg i (ptabReg j.val 0) v).rf (F.FMAC_PTAB_W0_SADDR j.val) = bits v 15 0 := by
  have hfields : (ptabW0Row.fields.filter fun f =>
      !absentField fmacWindow.num (ptabReg j.val 0 - fmacWindow.base) f.hi) = ptabW0Row.fields := by
    simp [absentField_fmac]
  have hbits := bits_applyFields (old := s.reg (ptabReg j.val 0)) (v := v) (acc := s.reg (ptabReg j.val 0))
    (f := RegMap.f 15 0 .rw 0) (fields := ptabW0Row.fields) (by decide) (by decide) (by decide)
  rw [writeReg_of_not_refused (windowOf_ptab j) (findRow_ptabW0 j) h, hfields, State.rf, F.FMAC_PTAB_W0_SADDR]
  exact (congrArg (bits · 15 0) (reg_setReg_same ..)).trans (hbits.trans (Nat.mod_eq_of_lt (bits_lt v 15 0)))

/-- The registers of an entry of the parent table. -/
theorem ptabReg_mem (j : Fin 8) : ∀ k : Fin 4,
    ptabReg j.val k.val ∈ [ptabReg j.val 0, ptabReg j.val 1, ptabReg j.val 2, ptabReg j.val 3]
  | 0 => .head _
  | 1 => .tail _ (.head _)
  | 2 => .tail _ (.tail _ (.head _))
  | 3 => .tail _ (.tail _ (.tail _ (.head _)))

/-- TOTAL and CUR of an entry follow in two of its words, and its short address stands (R248, R249). -/
theorem ptabKeep_frame (s : State) (j : Fin 8) :
    RegsBut [ptabReg j.val 0, ptabReg j.val 1, ptabReg j.val 2, ptabReg j.val 3] s (s.ptabKeep j.val) ∧
      (s.ptabKeep j.val).rf (F.FMAC_PTAB_W0_SADDR j.val) = s.rf (F.FMAC_PTAB_W0_SADDR j.val) := by
  unfold State.ptabKeep
  extract_lets total
  have htotal : R.FMAC_PTAB_W3 j.val = ptabReg j.val 3 := by
    unfold ptabReg R.FMAC_PTAB_W3 R.FMAC_PTAB_W0
    omega
  have hkeep : RegsBut [ptabReg j.val 0, ptabReg j.val 1, ptabReg j.val 2, ptabReg j.val 3] s total :=
    .wf .refl (by simp [F.FMAC_PTAB_W3_TOTAL, htotal])
  refine ⟨hkeep.wb (by simp [F.FMAC_PTAB_W0_CUR, ptabReg]), ?_⟩
  refine (rf_wb_other _ _ _ _ (by simp [F.FMAC_PTAB_W0_CUR]) (Nat.le_refl _) (Nat.zero_le _)
    (.inr (.inr (by simp [F.FMAC_PTAB_W0_CUR, F.FMAC_PTAB_W0_SADDR])))).trans ?_
  refine rf_wf_other _ _ _ _ (by simp [F.FMAC_PTAB_W3_TOTAL]) (by simp [F.FMAC_PTAB_W3_TOTAL]) (Nat.zero_le _) (.inl ?_)
  simp [F.FMAC_PTAB_W0_SADDR, F.FMAC_PTAB_W3_TOTAL, R.FMAC_PTAB_W0, R.FMAC_PTAB_W3]


/-! ### The obligation -/

/-- Settles O36: a granted access has its port's effect; what the effect changes is said by the lemma of its operation, and
memory stands by the command's frame, or where a client record is written, outside the word written. -/
theorem radioPorts : Obligations.RadioPorts := by
  unfold Obligations.RadioPorts
  refine ⟨fun s r => ⟨fun i v hmay hpush => ⟨fun hok => ?macQueued, fun hbad => ?macRefused⟩,
      fun i x xs hmay hres => ?macResult, fun i hmay => ?tsf,
      fun c f x hfind => ⟨fun hslip => ?twtAnnounced, fun hslip => ?twtMoves⟩, fun hdrain => ?macDrained,
      fun grew => ⟨fun habove => if_pos habove, fun hbelow => if_neg (Nat.not_lt.mpr hbelow)⟩⟩,
    fun s i => ⟨fun v hmay hpush => ⟨fun hok => ?stpQueued, fun hbad => ?stpRefused⟩, fun x xs hmay hres => ?stpResult,
      fun v hmay => ⟨fun hlo hhi => ?pendWritten, fun hout => ?pendRefused⟩⟩,
    fun s i => ⟨fun v hmay hpush => ⟨fun hok => ?fmacQueued, fun hbad => ?fmacRefused⟩, fun x xs hmay hres => ?fmacResult,
      fun v hmay => ⟨fun hok hw => ?armed, fun hbad => ?armRefused⟩, fun hpend => ?applied,
      fun j k v hmay => ⟨fun hcur => ?ptabRefused, fun hcur hw => ?ptabWritten⟩, fun j hcur => ?ptabAged, fun g => ?rolled,
      fun hdrain => ?fmacDrained⟩⟩
  case macQueued =>
    exact ⟨_, (macCmdPush_by_check hmay hpush).trans (congrArg _ (if_pos hok)), by rw [setMac_mac], rfl, fun _ => rfl⟩
  case macRefused =>
    have hexec := (macCmdPush_by_check hmay hpush).trans (congrArg _ (if_neg hbad))
    obtain ⟨herr, hregs⟩ := refuse_records s (e := R.MAC_ERR r) (not_evrAddr_of_ge (by cases r <;> decide))
      (macCheck_lt s r _) (mev_lt r (k := 0) (by decide))
    exact ⟨_, hexec, herr, refuse_wlan .., hregs, sameBytes_of_mem (refuse_mem ..)⟩
  case macResult =>
    have hexec : exec (.macResultPop i r) s = .next (State.macPop i r s) :=
      congrArg Host.Outcome.next (onRead_of_mayRead s i _ _ hmay)
    rw [macPop_of_results_cons i hres] at hexec
    exact ⟨_, hexec, rfl, congrArg MacSt.results ((mac_congr (emit_wlan ..) r).trans (setMac_mac ..)), rfl, fun _ => rfl⟩
  case tsf =>
    obtain ⟨t, hexec, hout, hhi, hgt, hregs⟩ := tsfRead_latches hmay
    exact ⟨t, hexec, hout, hhi, hgt, hregs, sameBytes_of_exec hexec (by simp [touched])⟩
  case twtAnnounced =>
    have hexec := (twtSlipCheck_of_find hfind).trans (if_pos hslip)
    have hge : 0x40020000 ≤ R.MAC_CNT_TWTRE r := by cases r <;> decide
    have hset : ∀ o target iv, RegsBut [] s ((s.emit o).retargetTwt r c.toNat f.val target iv) := fun _ _ _ =>
      .setWlan (.emit .refl)
    have hraised : ∀ t : State, RegsBut [] t (t.raise (mev r 4)) := fun t => RegsBut.refl.raise (mev_lt r (by decide))
    refine ⟨_, hexec, ?_, ?_, ?_, sameBytes_of_exec hexec (by simp [touched])⟩
    · rw [raise_out, bump_out]
      rfl
    · exact ((counted_bump _ _).after (hset _ _ _) ⟨List.not_mem_nil, hge⟩).andThen (hraised _) ⟨List.not_mem_nil, hge⟩
    · exact (((hset _ _ _).weaken (List.nil_subset _)).trans (RegsBut.refl.bump (List.mem_singleton_self _))).trans
        ((hraised _).weaken (List.nil_subset _))
  case twtMoves =>
    have hexec := (twtSlipCheck_of_find hfind).trans (if_neg (Nat.not_lt.mpr hslip))
    exact ⟨_, hexec, fun y hy => mem_retargetTwt hy, rfl, rfl, fun _ => rfl⟩
  case macDrained =>
    refine ⟨_, if_pos hdrain, ?_, RegsBut.refl.wf (List.mem_singleton_self _), fun _ => rfl⟩
    exact rf_wf_same _ _ _ (by cases r <;> decide) (by cases r <;> decide)
  case stpQueued =>
    exact ⟨_, (stpCmdPush_by_check hmay hpush).trans (congrArg _ (if_pos hok)), rfl, rfl, fun _ => rfl⟩
  case stpRefused =>
    have hexec := (stpCmdPush_by_check hmay hpush).trans (congrArg _ (if_neg hbad))
    obtain ⟨herr, hregs⟩ := refuse_records s (e := R.STP_ERR) (not_evrAddr_of_ge (by decide)) (stpCheck_lt s _)
      (ev := 80) (by decide)
    exact ⟨_, hexec, herr, refuse_stp .., hregs, sameBytes_of_mem (refuse_mem ..)⟩
  case stpResult =>
    have hexec : exec (.stpResultPop i) s = .next (State.stpPop i s) :=
      congrArg Host.Outcome.next (onRead_of_mayRead s i _ _ hmay)
    rw [stpPop_of_results_cons i hres] at hexec
    exact ⟨_, hexec, rfl, rfl, rfl, fun _ => rfl⟩
  case pendWritten =>
    have hexec : exec (.stpPendWrite i v) s = .next (s.setRec (bits v 11 0) 39 15 0 (bits v 31 16)) :=
      congrArg Host.Outcome.next ((onWrite_of_mayWrite s i _ _ hmay).trans (if_pos ⟨hlo, hhi⟩))
    refine ⟨_, hexec, ?_, Within.setRec (m := 2) (.refl s) ⟨rfl⟩ .regs rfl, fun a ha => byte_setRec_of_outside ha⟩
    rw [cr_setRec_same _ _ _ _ (by decide) (by decide)]
    exact Nat.mod_eq_of_lt (bits_lt v 31 16)
  case pendRefused =>
    refine congrArg Host.Outcome.next ((onWrite_of_mayWrite s i _ _ hmay).trans (if_neg ?_))
    omega
  case fmacQueued =>
    exact ⟨_, (fmacCmdPush_by_check hmay hpush).trans (congrArg _ (if_pos hok)), rfl, rfl, fun _ => rfl⟩
  case fmacRefused =>
    have hexec := (fmacCmdPush_by_check hmay hpush).trans (congrArg _ (if_neg hbad))
    obtain ⟨herr, hregs⟩ := refuse_records s (e := R.FMAC_ERR) (not_evrAddr_of_ge (by decide)) (fmCheck_lt s _)
      (ev := 72) (by decide)
    exact ⟨_, hexec, herr, refuse_fld .., hregs, sameBytes_of_mem (refuse_mem ..)⟩
  case fmacResult =>
    have hexec : exec (.fmacResultPop i) s = .next (State.fmPop i s) :=
      congrArg Host.Outcome.next (onRead_of_mayRead s i _ _ hmay)
    rw [fmPop_of_results_cons i hres] at hexec
    exact ⟨_, hexec, rfl, rfl, rfl, fun _ => rfl⟩
  case armed =>
    have hexec : exec (.scheduleArm i v) s = .next ((s.writeReg i.val R.FMAC_ACT_HI v).wb F.FMAC_STAT_SCHPEND true) :=
      congrArg Host.Outcome.next ((onWrite_of_mayWrite s i _ _ hmay).trans ((schedArm_by_regions ..).trans (if_pos hok)))
    refine ⟨_, hexec, rb_wb_same _ _ rfl (by decide), ?_, sameBytes_of_exec hexec (by simp [touched])⟩
    exact ((regsBut_writeReg hw).weaken (by decide)).wb (by decide)
  case armRefused =>
    exact congrArg Host.Outcome.next ((onWrite_of_mayWrite s i _ _ hmay).trans
      ((schedArm_by_regions ..).trans (if_neg (ne_true_of_eq_false hbad))))
  case applied =>
    obtain ⟨t, hexec, hcopied, hdone, hregs⟩ := scheduleApply_copies hpend
    exact ⟨t, hexec, hcopied (R.FMAC_SF, R.FMAC_PSF) (by decide), hcopied (R.FMAC_PLAIN, R.FMAC_PPLAIN) (by decide),
      hcopied (R.FMAC_PASS, R.FMAC_PPASS) (by decide), hcopied (R.FMAC_CHAN, R.FMAC_PCHAN) (by decide), hdone, hregs,
      sameBytes_of_exec hexec (by simp [touched])⟩
  case ptabRefused =>
    exact congrArg Host.Outcome.next ((onWrite_of_mayWrite s i _ _ hmay).trans (if_pos hcur))
  case ptabWritten =>
    have hexec : exec (.ptabWrite i j k v) s =
        .next ((s.writeReg i.val (ptabReg j.val k.val) v).ptabKeep j.val) :=
      congrArg Host.Outcome.next ((onWrite_of_mayWrite s i _ _ hmay).trans
        ((if_neg (ne_true_of_eq_false hcur)).trans (if_neg (ne_true_of_eq_false hw))))
    obtain ⟨hkept, hsaddr⟩ := ptabKeep_frame (s.writeReg i.val (ptabReg j.val k.val) v) j
    refine ⟨_, hexec, fun hk => ?_, ((regsBut_writeReg hw).weaken ?_).trans hkept,
      sameBytes_of_exec hexec (by simp [touched])⟩
    · subst hk
      exact hsaddr.trans (rf_saddr_writeReg hw)
    · exact List.cons_subset.mpr ⟨ptabReg_mem j k, List.nil_subset _⟩
  case ptabAged =>
    refine ⟨_, if_neg (ne_true_of_eq_false hcur), rb_wb_same _ _ rfl (by decide : 31 < 32), ?_, fun _ => rfl⟩
    exact RegsBut.refl.wb (List.mem_singleton_self _)
  case rolled =>
    exact ⟨_, rfl, (Sparse.get_put ..).trans (if_pos rfl), fun j hj => (Sparse.get_put ..).trans (if_neg hj), rfl,
      fun _ => rfl⟩
  case fmacDrained =>
    refine ⟨_, if_pos hdrain, ?_, RegsBut.refl.wf (List.mem_singleton_self _), fun _ => rfl⟩
    exact rf_wf_same _ _ _ (by decide) (by decide)

end Sys2Proof.Machine
end

section
/-! PROOFS. The Wi-Fi MAC family: the commands of a MAC (O28), which a state with a stray receive pool refutes. -/

namespace Sys2Proof.Machine

/-! ### The end of a BSS

A stopped BSS's links are deleted, and with a client's last link what its reorder contexts hold is released (R151, R176). An
MPDU that is a replay then gives its units back to its receive pool (R152). -/

/-- MAC `r` has the active BSSs `v` and the commands and results `macs` stand, and every received MPDU is in the pool of one
of the four radios (R315). The last part is needed because `State.rxGive` computes the register of the pool, and `macEv` the
event of a replay, from the MPDU's radio. -/
structure BssStand (r : WRadio) (v : Nat) (macs : Sparse MacSt) (s : State) : Prop where
  bssact : s.rf (F.MAC_STAT_BSSACT r) = v
  macs : s.wlan.macs = macs
  radios : ∀ m ∈ s.rxmpdus, m.radio < 4

namespace BssStand

variable {r : WRadio} {v : Nat} {macs : Sparse MacSt} {s t : State}

theorem ite {c : Prop} [Decidable c] (hs : BssStand r v macs s) (ht : BssStand r v macs t) :
    BssStand r v macs (if c then s else t) := by
  split
  · exact hs
  · exact ht

theorem foldl {β : Type} {f : State → β → State} (hf : ∀ {t x}, BssStand r v macs t → BssStand r v macs (f t x))
    (l : List β) (h : BssStand r v macs s) : BssStand r v macs (l.foldl f s) :=
  List.foldlRecOn l f h (fun _ ht _ _ => hf ht)

theorem congr (h : BssStand r v macs s) (hregs : t.regs = s.regs) (hmacs : t.wlan.macs = s.wlan.macs)
    (hrx : t.rxmpdus = s.rxmpdus) : BssStand r v macs t :=
  ⟨(congrArg (fun l => bits (Sparse.get regDefault l (R.MAC_STAT r)) 15 0) hregs).trans h.bssact, hmacs.trans h.macs,
    hrx ▸ h.radios⟩

/-- A field of MAC_STAT beside BSSACT, or of another register. -/
theorem wf {f : Fld} {n : Nat} (h : BssStand r v macs s)
    (hf : f.hi < 32 ∧ f.lo ≤ f.hi ∧ (F.MAC_STAT_BSSACT r).lo ≤ (F.MAC_STAT_BSSACT r).hi ∧
      ((F.MAC_STAT_BSSACT r).addr ≠ f.addr ∨ f.hi < (F.MAC_STAT_BSSACT r).lo ∨ (F.MAC_STAT_BSSACT r).hi < f.lo)) :
    BssStand r v macs (s.wf f n) := ⟨(rf_wf_apart s n hf).trans h.bssact, h.macs, h.radios⟩

theorem bump {a : Nat} (h : BssStand r v macs s) (ha : R.MAC_STAT r ≠ a) : BssStand r v macs (s.bump a) :=
  ite ⟨(rf_setRegN_other _ _ _ _ ha).trans h.bssact, h.macs, h.radios⟩ h

theorem raise {n : Nat} (h : BssStand r v macs s) (hn : n < 256) : BssStand r v macs (s.raise n) :=
  ⟨(rf_raise _ _ _ hn (not_evrAddr_of_ge (by cases r <;> decide))).trans h.bssact, by rw [raise_wlan, h.macs],
    by rw [raise_rxmpdus]; exact h.radios⟩

theorem markReleased (n : Nat) (h : BssStand r v macs s) : BssStand r v macs (s.markReleased n) := by
  refine ⟨h.bssact, h.macs, fun m hm => ?_⟩
  obtain ⟨x, hx, rfl⟩ := List.mem_map.mp hm
  split <;> exact h.radios x hx

theorem dropRx (n : Nat) (h : BssStand r v macs s) : BssStand r v macs (s.dropRx n) := by
  unfold State.dropRx
  split
  · exact h
  · next m hm =>
    have hlt : m.radio < 4 := h.radios m (List.mem_of_find?_eq_some hm)
    have hpool : R.MAC_STAT r ≠ R.QMG_RPOOLUSE m.radio := by
      unfold R.MAC_STAT R.QMG_RPOOLUSE
      omega
    have hleft : BssStand r v macs { s with rxmpdus := s.rxmpdus.filter (fun x => x.num != n) } :=
      ⟨h.bssact, h.macs, fun x hx => h.radios x (List.mem_filter.mp hx).1⟩
    exact hleft.wf ⟨(by decide : 15 < 32), Nat.zero_le _, Nat.zero_le _, .inl hpool⟩

theorem rxRelease (n : Nat) (h : BssStand r v macs s) : BssStand r v macs (s.rxRelease n) := by
  unfold State.rxRelease
  split
  · exact h
  · next m hm =>
    have hlt : m.radio < 4 := h.radios m (List.mem_of_find?_eq_some hm)
    have hevent : macEv m.radio + 2 < 256 := by
      unfold macEv
      omega
    have hcounter : R.MAC_STAT r ≠ R.MAC_CNT_REPLAY (wradio m.radio) := by
      unfold R.MAC_STAT R.MAC_CNT_REPLAY
      omega
    refine ite (h.markReleased n) (ite (((h.dropRx n).bump hcounter).raise hevent) (markReleased n ?_))
    exact h.congr rfl rfl rfl

theorem releaseBelow (c t next n : Nat) (h : BssStand r v macs s) : BssStand r v macs (s.releaseBelow c t next n) := by
  induction n with
  | zero => exact h
  | succ n ih =>
    unfold State.releaseBelow
    extract_lets below
    split
    · exact ih.rxRelease _
    · exact ih

theorem flushHeld (c t : Nat) (h : BssStand r v macs s) : BssStand r v macs (s.flushHeld c t) := by
  unfold State.flushHeld
  split
  · exact h.releaseBelow ..
  · exact h

theorem dropBas (c : Nat) (h : BssStand r v macs s) : BssStand r v macs (s.dropBas c) := by
  unfold State.dropBas
  extract_lets flushed
  have hflushed : BssStand r v macs flushed := foldl (fun ht => ht.flushHeld ..) _ h
  clear_value flushed
  exact hflushed.congr rfl rfl rfl

theorem linkDrop (c : Nat) (h : BssStand r v macs s) : BssStand r v macs (s.linkDrop r c) := by
  unfold State.linkDrop
  extract_lets unlinked dropped
  have hunlinked : BssStand r v macs unlinked := h.congr rfl rfl rfl
  have hdropped : BssStand r v macs dropped := ite hunlinked (hunlinked.dropBas c)
  exact hdropped.wf (by cases r <;> decide)

theorem linksDrop (b : Nat) (h : BssStand r v macs s) : BssStand r v macs (s.linksDrop r b) :=
  foldl (fun ht => ht.linkDrop _) _ h

theorem afterStop (h : BssStand r v macs s) : BssStand r v macs (s.afterStop r) :=
  ite h (h.wf (by cases r <;> decide))

end BssStand

/-! ### The head of a MAC's queue -/

/-- A command that RUN accepts has its effect, and completes with the status of it (R176). -/
theorem macRun_of_run {s : State} {r : WRadio} {w : List Word} {ws : List (List Word)} {opc idle drain : Nat}
    {f : State → List Word → State × Nat} (hcmds : (s.mac r).cmds = w :: ws) (hopc : cmdOpc w = opc)
    (hrun : s.macState r = Ms.RUN) : s.macRun r opc idle 1 drain f = (f s w).1.macDone r w (f s w).2 := by
  simp only [State.macRun, hcmds, hopc, hrun, ne_eq, not_true_eq_false, if_false]
  rfl

/-- A command that completes with OK leaves the queue and posts its result, or counts it as lost (R177 to R179). -/
theorem macDone_ok (s : State) (r : WRadio) (w : List Word) :
    ((s.macDone r w St.OK).mac r).cmds = (s.mac r).cmds.drop 1 ∧
      RegsBut [R.MAC_CNT_RESOVF r] s (s.macDone r w St.OK) := by
  unfold State.macDone
  extract_lets taken posted counted
  have hcounted : counted = posted := if_neg (by decide)
  rw [if_pos rfl, hcounted]
  have htaken : (taken.mac r).cmds = (s.mac r).cmds.drop 1 := by
    unfold taken
    rw [setMac_mac]
  unfold posted
  split
  · exact ⟨by rw [setMac_mac, htaken], .setMac (.setMac .refl)⟩
  · refine ⟨?_, RegsBut.bump (.setMac .refl) (List.mem_singleton_self _)⟩
    rw [mac_congr (Within.bump (m := 1) (.refl _) ⟨rfl⟩ .wlan rfl), htaken]

/-- BSS_STOP takes the BSS from BSSACT, whatever ends with it, in every state whose received MPDUs are in pools of radios. -/
theorem bssStop_clears_bit {s : State} {r : WRadio} {w : List Word} {ws : List (List Word)}
    (hs : ∀ m ∈ s.rxmpdus, m.radio < 4) (hcmds : (s.mac r).cmds = w :: ws) (hopc : cmdOpc w = 2)
    (hrun : s.macState r = Ms.RUN) (hon : s.bssOn r (mcBss w) = true) : Runs (.bssStop r) s fun t =>
      t.rf (F.MAC_STAT_BSSACT r) = s.rf (F.MAC_STAT_BSSACT r) - 2 ^ mcBss w ∧ (t.mac r).cmds = ws := by
  refine ⟨_, congrArg Host.Outcome.next (macRun_of_run hcmds hopc hrun), ?_⟩
  rw [if_neg (by rw [hon]; decide)]
  dsimp only
  generalize hstop : (s.wf (F.MAC_STAT_BSSACT r) (s.rf (F.MAC_STAT_BSSACT r) - 2 ^ mcBss w)).setMac r (fun m =>
    { m with contend := m.contend.filter (fun x => x != mcBss w) }) = stopped
  have hlt : s.rf (F.MAC_STAT_BSSACT r) - 2 ^ mcBss w < 2 ^ 16 :=
    Nat.lt_of_le_of_lt (Nat.sub_le ..) (rf_lt s (F.MAC_STAT_BSSACT r))
  have hstopped : BssStand r (s.rf (F.MAC_STAT_BSSACT r) - 2 ^ mcBss w) stopped.wlan.macs stopped := by
    refine ⟨?_, rfl, by rw [← hstop]; exact hs⟩
    rw [← hstop, setMac_rf, rf_wf_same _ _ _ (by cases r <;> decide) (by cases r <;> decide)]
    exact Nat.mod_eq_of_lt hlt
  have hleft := (hstopped.linksDrop (mcBss w)).afterStop
  obtain ⟨hqueue, hregs⟩ := macDone_ok ((stopped.linksDrop r (mcBss w)).afterStop r) r w
  refine ⟨(hregs.rf (by cases r <;> decide) (not_evrAddr_of_ge (by cases r <;> decide))).trans hleft.bssact, ?_⟩
  have hmac : ((stopped.linksDrop r (mcBss w)).afterStop r).mac r = stopped.mac r := by
    rw [State.mac, hleft.macs, State.mac]
  rw [hqueue, hmac, ← hstop, setMac_mac]
  exact congrArg (List.drop 1) hcmds

/-! ### The obligation -/

/-- A received MPDU of client 0, TID 0 and SN 0, whose pool no radio has: its QMG_RPOOLUSE would stand at the address of
radio L's MAC_STAT, where BSSACT is what RXUSE is in a pool's register. -/
def strayRx : RxMpdu := ⟨0, 0x8FFBA, [], 1, 0, 0, 0, 0, 0, 0, [], 0, 0, false⟩

/-- Radio L runs BSSs 0 and 1 and has a BSS_STOP of BSS 0 at hand. That BSS has the one link of client 0, a reorder context
holds `strayRx`, and its PN has been accepted before. -/
def strayHeld : State :=
  ({ State.reset with
      rxmpdus := [strayRx]
      wlan.links := [⟨0, 0, 0, false, 1⟩]
      wlan.reorders := [⟨0, 0, 1, 0, 0, []⟩]
      wlan.lastPn := [(0, 1)] }.setMac .l (fun m => { m with cmds := [[0x02000000]] })).setRegN (R.MAC_STAT .l) 0x80000003

/-- The replay's one unit is taken from BSSACT, so that BSS 1 gives way to BSS 0 where it should stay alone. -/
theorem bssact_of_bssStop_strayHeld : ∃ t, exec (.bssStop .l) strayHeld = .next t ∧ t.rf (F.MAC_STAT_BSSACT .l) = 1 :=
  ⟨_, rfl, by decide +kernel⟩

/-- Refutes O28: in `strayHeld`, BSS_STOP of BSS 0 leaves BSS 0 active and BSS 1 not. The state is not a sensible one, but the
statement speaks of every state; where the pools are those of radios, `bssStop_clears_bit` gives what this clause asks. -/
theorem not_macCommands : ¬ Obligations.MacCommands := by
  unfold Obligations.MacCommands
  intro h
  obtain ⟨-, hstop, -⟩ := h strayHeld .l [0x02000000] [] (by decide +kernel)
  obtain ⟨t, hexec, hbssact, -⟩ := hstop (by decide) (by decide +kernel) (by decide +kernel)
  obtain ⟨u, hexec', hstray⟩ := bssact_of_bssStop_strayHeld
  have htu : t = u := Host.Outcome.next.inj (hexec.symm.trans hexec')
  have hbefore : strayHeld.rf (F.MAC_STAT_BSSACT .l) - 2 ^ mcBss [0x02000000] = 2 := by decide +kernel
  have hafter : t.rf (F.MAC_STAT_BSSACT .l) = 1 := htu ▸ hstray
  omega

end Sys2Proof.Machine
end

section
/-! PROOFS. The Steppe family: the plans that Steppe gives the MACs (O33). -/

namespace Sys2Proof.Machine

/-! ### Plans given -/

/-- From `s` to `t` the MAC of radio `k` is given one plan of the category and the limit: it is the one output, and it stands
for that MAC. -/
def PlanGiven (k ac limit : Nat) (s t : State) : Prop :=
  ∃ p, Sparse.getO t.stp.plans k = some p ∧ t.out = .plan k p.kind p.users p.table ac limit :: s.out

/-- What comes before a plan without output of its own does not count. -/
theorem PlanGiven.after {k ac limit : Nat} {s t u : State} (h : PlanGiven k ac limit t u) (hout : t.out = s.out) :
    PlanGiven k ac limit s u := by
  obtain ⟨p, hplan, hgiven⟩ := h
  exact ⟨p, hplan, hout ▸ hgiven⟩

theorem PlanGiven.ite {c : Prop} [Decidable c] {k ac limit : Nat} {s t u : State} (ht : PlanGiven k ac limit s t)
    (hu : PlanGiven k ac limit s u) : PlanGiven k ac limit s (if c then t else u) := by
  split
  · exact ht
  · exact hu

/-- The plan on record for a MAC is the one put there. -/
theorem getO_put_same {α : Type} [DecidableEq α] (t : Sparse (Option α)) (k : Nat) (v : Option α) :
    Sparse.getO (Sparse.put (fun _ => none) t k v) k = v := by
  rw [Sparse.getO, Sparse.get_put, if_pos rfl]

/-- A plan given stands for its MAC, and it is the one output (R199). -/
theorem givePlan_gives (s : State) (k : Nat) (p : PlanSt) : PlanGiven k p.ac p.limit s (s.givePlan k p) := by
  unfold State.givePlan
  extract_lets recorded served given dated counted
  have hserved : served.stp.plans = recorded.stp.plans ∧ served.out = s.out := by
    refine List.foldlRecOn (motive := fun t : State => t.stp.plans = recorded.stp.plans ∧ t.out = s.out) p.users _
      ⟨rfl, rfl⟩ fun t ht i _ => ?_
    split
    · exact ht
    · exact ht
  have hplan : Sparse.getO given.stp.plans k = some p :=
    (congrArg (fun l => Sparse.getO l k) hserved.1).trans (getO_put_same ..)
  have hout : given.out = .plan k p.kind p.users p.table p.ac p.limit :: s.out := congrArg (List.cons _) hserved.2
  have hframe : Within 1 given (if p.kind = 0 then dated else
      if p.kind = 1 then counted.bump R.STP_CNT_SU else
        if p.kind = 2 then counted.bump R.STP_CNT_MU else counted.bump R.STP_CNT_TRIG) := by
    have hdated : Within 1 given dated := .used (.setRegN (.refl given))
    have hcounted : Within 1 given counted := .bump hdated
    exact .ite hdated (.ite (.bump hcounted) (.ite (.bump hcounted) (.bump hcounted)))
  have hstp := hframe .stp rfl
  exact ⟨p, (congrArg (fun t => Sparse.getO t.plans k) hstp).trans hplan, (hframe .out rfl).trans hout⟩

/-- With credits for its RU table or without, a decision for several users gives one plan (R200, R202). -/
theorem tablePlan_gives (s : State) (k ac bw limit kind : Nat) (us : List RuUse) (top : Nat) :
    PlanGiven k ac limit s (s.tablePlan k ac bw limit kind us top) := by
  unfold State.tablePlan
  extract_lets ul dur
  split
  case h_1 => exact givePlan_gives ..
  case h_2 taken a htaken =>
    extract_lets entries head table
    refine (givePlan_gives ..).after ?_
    have htable : Within 4099 s table := .setWords (.used (.ruEntries (Within.takeRun (.refl s) ⟨rfl⟩ _ htaken)))
    exact htable .out rfl

/-- Whatever the candidates call for, a decision gives one plan (R198 to R200). -/
theorem plan_gives (s : State) (k ac bw punct limit : Nat) : PlanGiven k ac limit s (s.plan k ac bw punct limit) := by
  simp only [State.plan]
  split
  case h_1 => exact givePlan_gives ..
  case h_2 =>
    have hbsrp {us : List RuUse} {top : Nat} {f : StpSt → StpSt} :
        PlanGiven k ac limit s ((s.setStp f).tablePlan k ac bw limit 4 us top) := (tablePlan_gives ..).after rfl
    exact .ite (.ite hbsrp (tablePlan_gives ..))
      (.ite (givePlan_gives ..) (.ite (tablePlan_gives ..) (tablePlan_gives ..)))

/-! ### Plans forgotten -/

/-- A MAC whose plan is dropped has none, and nothing is sent (R199). -/
theorem dropPlan_forgets (s : State) (k : Nat) :
    Sparse.getO (s.dropPlan k).stp.plans k = none ∧ (s.dropPlan k).out = s.out := by
  refine ⟨?_, Within.dropPlan (m := 12289) (.refl s) ⟨rfl⟩ .out rfl⟩
  unfold State.dropPlan
  split
  case h_1 hnone => exact hnone
  case h_2 p _ =>
    extract_lets forgotten
    have hfreed : Within 4097 forgotten (if p.table = 0 then forgotten else forgotten.freeRun k p.table) :=
      .ite (.refl _) (.freeRun (.refl _))
    exact (congrArg (fun t => Sparse.getO t.plans k) (hfreed .stp rfl)).trans (getO_put_same ..)

/-- Of the registers, a dropped plan moves the use of its radio's pool alone (R315). -/
theorem regsBut_dropPlan (s : State) (k : Nat) : RegsBut [R.QMG_RPOOLUSE k] s (s.dropPlan k) := by
  unfold State.dropPlan
  split
  · exact .refl
  · refine .ite .refl ?_
    unfold State.freeRun
    split
    · exact .refl
    · exact RegsBut.refl.wf (List.mem_singleton_self _)

/-! ### The limit of a decision -/

/-- What leaves the register table leaves every register. -/
theorem regsBut_of_regs {l : List Nat} {s t : State} (h : t.regs = s.regs) : RegsBut l s t := fun a _ _ =>
  congrArg (fun m => Sparse.get regDefault m a) h

/-- The duration limit depends on STP_PPDUMAX alone (R198). -/
theorem planLimit_congr {l : List Nat} {s t : State} (h : RegsBut l s t) (hl : R.STP_PPDUMAX ∉ l) (limit : Nat) :
    t.planLimit limit = s.planLimit limit :=
  congrArg (fun n => min n limit) (h.rf (g := F.STP_PPDUMAX_US) hl (not_evrAddr_of_ge (by decide)))

/-- Serving a client's period moves its record and the count of lost records (R184, R188). -/
theorem regsBut_setRecState (s : State) (i st : Nat) : RegsBut [R.STP_STAT] s (s.setRecState i st) :=
  RegsBut.wf (regsBut_of_regs (Within.setRec (m := 2) (.refl s) ⟨rfl⟩ .regs rfl)) (List.mem_singleton_self _)

/-- A service period that is served gives one plan, of the category BK and up (R198). -/
theorem spDecisionStart_gives {s : State} {r : WRadio} {c : BitVec 12} {bw : Fin 5} {punct : BitVec 16} {limit : Nat}
    (hrun : s.rf F.STP_STAT_STATE = Stp.RUN) (hkind : s.recKind c.toNat = 1) (hlisten : s.recState c.toNat ≠ Cl.LISTEN)
    (hlost : s.recState c.toNat ≠ Cl.LOST) (hsusp : s.recState c.toNat ≠ Cl.SUSP) :
    Runs (.spDecisionStart r c bw punct limit) s (PlanGiven r.idx 0 (s.planLimit limit) s) := by
  let begun := if s.recState c.toNat = Cl.WIDEN then s else s.setRecState c.toNat Cl.SP
  let kept := begun.keepLim c.toNat
  have hexec : exec (.spDecisionStart r c bw punct limit) s =
      .next ((kept.dropPlan r.idx).plan r.idx 0 (bwCap r bw.val) punct.toNat (kept.planLimit limit)) :=
    if_neg (by simp [hrun, hkind, hlisten, hlost, hsusp])
  have hbegun : RegsBut [R.STP_STAT] s begun := .ite .refl (regsBut_setRecState s c.toNat Cl.SP)
  have hlim : Within 2 begun kept := .keepLim (.refl _)
  have hkept : RegsBut [R.STP_STAT] begun kept := regsBut_of_regs (hlim .regs rfl)
  have hout : kept.out = s.out :=
    (Within.keepLim (m := 3) (.ite (.refl s) (.setRecState (.refl s))) ⟨rfl⟩ : Within 3 s kept) .out rfl
  refine ⟨_, hexec, ?_⟩
  rw [planLimit_congr (hbegun.trans hkept) (by decide)]
  exact (plan_gives ..).after ((dropPlan_forgets ..).2.trans hout)

/-! ### Overruns -/

/-- What an overrun records: HW in STP_ERR, one more overrun, and no plan to the MAC (R203). -/
def State.overrun (s : State) (k ac limit : Nat) : State :=
  let t := ((s.dropPlan k).refuse R.STP_ERR St.HW 87).bump R.STP_CNT_OVERRUN
  t.emit (.plan k 0 [] 0 ac (t.planLimit limit))

/-- An overrun records itself; the MAC's SU transmission to the first candidate changes Steppe's own state alone (R203). -/
theorem decisionOverrun_records {s : State} (r : WRadio) (ac : Fin 4) (limit : Nat)
    (hrun : s.rf F.STP_STAT_STATE = Stp.RUN) :
    ∃ f, exec (.decisionOverrun r ac limit) s = .next ((s.overrun r.idx ac.val limit).setStp f) := by
  have hexec : exec (.decisionOverrun r ac limit) s = execDecisionOverrun r ac limit s := rfl
  rw [hexec, execDecisionOverrun, if_neg (not_not_intro hrun)]
  extract_lets k refused emitted
  split
  · exact ⟨id, rfl⟩
  · exact ⟨_, rfl⟩

/-- What an overrun leaves (R203). -/
theorem overrun_effect (s : State) (r : WRadio) (ac limit : Nat) :
    (s.overrun r.idx ac limit).out = .plan r.idx 0 [] 0 ac (s.planLimit limit) :: s.out ∧
      (s.overrun r.idx ac limit).regN R.STP_ERR = 0x100 + St.HW ∧
      Counted R.STP_CNT_OVERRUN s (s.overrun r.idx ac limit) := by
  unfold State.overrun
  extract_lets counted
  let refused := (s.dropPlan r.idx).refuse R.STP_ERR St.HW 87
  have hdrop := regsBut_dropPlan s r.idx
  obtain ⟨herr, hrefuse⟩ := refuse_records (s.dropPlan r.idx) (e := R.STP_ERR) (code := St.HW) (ev := 87)
    (not_evrAddr_of_ge (by decide)) (by decide) (by decide)
  have hbump : RegsBut [R.STP_CNT_OVERRUN] refused counted := RegsBut.refl.bump (List.mem_singleton_self _)
  refine ⟨?_, ?_, ?_⟩
  · have hlimit : counted.planLimit limit = s.planLimit limit := by
      rw [planLimit_congr hbump (by decide), planLimit_congr hrefuse (by decide),
        planLimit_congr hdrop (by cases r <;> decide)]
    have hout : counted.out = s.out := Within.bump (m := 12305) (.refuse (.dropPlan (.refl s))) ⟨rfl⟩ .out rfl
    rw [hlimit, State.emit, hout]
  · exact (congrArg BitVec.toNat (hbump.reg (a := R.STP_ERR) (by decide) (not_evrAddr_of_ge (by decide)))).trans herr
  · exact ((counted_bump refused R.STP_CNT_OVERRUN).after hrefuse (by decide)).after hdrop (by cases r <;> decide)

/-! ### The obligation -/

/-- Settles O33: a decision gives its plan by `plan_gives` once the MAC's last plan is dropped, and an overrun records itself
instead. -/
theorem steppePlans : Obligations.SteppePlans := by
  unfold Obligations.SteppePlans
  refine fun s r ac bw punct limit c => ⟨fun hrun => ?request, fun hstop => if_pos hstop,
    spDecisionStart_gives, ?discard, fun hrun => ?overrun⟩
  case request =>
    exact ⟨_, if_neg (not_not_intro hrun), (plan_gives ..).after (dropPlan_forgets ..).2⟩
  case discard =>
    have hexec : exec (.planDiscard r) s = .next (s.dropPlan r.idx) := rfl
    obtain ⟨hplans, hout⟩ := dropPlan_forgets s r.idx
    exact ⟨_, hexec, hplans, hout, sameBytes_of_exec hexec (by simp [touched])⟩
  case overrun =>
    obtain ⟨f, hexec⟩ := decisionOverrun_records r ac limit hrun
    obtain ⟨hout, herr, hcount⟩ := overrun_effect s r ac.val limit
    exact ⟨_, hexec, hout, herr, hcount, sameBytes_of_exec hexec (by simp [touched])⟩

end Sys2Proof.Machine
end

section
/-! PROOFS. The Steppe family: the traffic manager (O44). -/

namespace Sys2Proof.Machine

/-! ### What stands of the queues -/

/-- From `s` to `t` the queues and what is selected for the ports stand. -/
structure QueuesStand (s t : State) : Prop where
  queues : t.pkt.queues = s.pkt.queues
  sel : t.pkt.sel = s.pkt.sel

namespace QueuesStand

variable {s t u : State}

theorem refl : QueuesStand s s := ⟨rfl, rfl⟩

theorem trans (h : QueuesStand s t) (g : QueuesStand t u) : QueuesStand s u := ⟨g.queues.trans h.queues, g.sel.trans h.sel⟩

theorem of_within {m : Nat} (h : Within m s t) (hm : m.testBit Part.pkt.num = false) : QueuesStand s t :=
  have hpkt : t.pkt = s.pkt := h .pkt hm
  ⟨congrArg PktSt.queues hpkt, congrArg PktSt.sel hpkt⟩

theorem queue (h : QueuesStand s t) (q : Nat) : t.queue q = s.queue q :=
  congrArg (fun l => Sparse.get (fun _ => []) l q) h.queues

theorem selOf (h : QueuesStand s t) (p : Nat) : t.selOf p = s.selOf p :=
  congrArg (fun l => Sparse.get (fun _ => []) l p) h.sel

theorem setQd (q w hi lo n : Nat) (h : QueuesStand s t) : QueuesStand s (t.setQd q w hi lo n) :=
  h.trans (of_within (m := 2) (.setQd (.refl t)) rfl)

theorem setPkt {f : PktSt → PktSt} (h : QueuesStand s t) (hqueues : (f t.pkt).queues = t.pkt.queues)
    (hsel : (f t.pkt).sel = t.pkt.sel) : QueuesStand s (t.setPkt f) :=
  ⟨hqueues.trans h.queues, hsel.trans h.sel⟩

end QueuesStand

/-- A queue that leaves its round-robin list keeps its frames (R326). -/
theorem queuesStand_drrLeave (s : State) (q : Nat) : QueuesStand s (s.drrLeave q) :=
  (QueuesStand.refl.setQd q 4 23 0 0).setPkt rfl rfl

/-- A queue holds the frames put in it; what is selected for the ports stands. -/
theorem setQueue_sets (s : State) (q : Nat) (l : List Nat) :
    (s.setQueue q l).queue q = l ∧ ∀ p, (s.setQueue q l).selOf p = s.selOf p := by
  unfold State.setQueue
  extract_lets listed cell head
  have hstand : QueuesStand listed ((head.setQd q 3 14 0 (cell (l.getLastD 0))).setQd q 2 15 0 l.length) :=
    ((QueuesStand.refl.setQd ..).setQd ..).setQd ..
  refine ⟨(hstand.queue q).trans ?_, fun p => hstand.selOf p⟩
  rw [State.queue]
  exact (Sparse.get_put ..).trans (if_pos rfl)

/-! ### The head frame leaves its queue -/

/-- A dequeue takes the head of its queue and leaves what is selected for the ports (R321). -/
theorem dequeue_takes_head (s : State) (q : Nat) (f : Frame) :
    (s.dequeue q f).queue q = (s.queue q).drop 1 ∧ ∀ p, (s.dequeue q f).selOf p = s.selOf p := by
  unfold State.dequeue
  extract_lets port client path taken shortened left age noted reported len
  obtain ⟨hqueue, hsel⟩ := setQueue_sets s q ((s.queue q).drop 1)
  have hshortened : QueuesStand taken shortened := QueuesStand.refl.setQd ..
  have hleft : QueuesStand shortened left := by
    unfold left
    split
    · exact queuesStand_drrLeave ..
    · exact .refl
  have hnoted : QueuesStand left noted := QueuesStand.refl.setPkt rfl rfl
  have hcharged : Within 3 noted ((path.foldl (fun u h => u.shaperCharge h len) reported).bump R.TMG_CNT_SEL) :=
    .bump (.foldl (fun h => .shaperCharge h) (.ite (.refl noted) (.reportOut (.refl noted))))
  have hstand := ((hshortened.trans hleft).trans hnoted).trans (.of_within hcharged rfl)
  exact ⟨(hstand.queue q).trans hqueue, fun p => (hstand.selOf p).trans (hsel p)⟩

/-- The TOKENS registers of a path stand above the counters of TMG (R333). -/
theorem tokens_gt_of_mem_path {s : State} {q : Nat} {h : Shaper} (hmem : h ∈ s.path q) : R.TMG_CNT_SEL < h.tokens := by
  have hqueues (i : Nat) : R.TMG_CNT_SEL < R.TMG_QSHP_TOKENS i := by
    unfold R.TMG_CNT_SEL R.TMG_QSHP_TOKENS
    omega
  have hclasses (i : Nat) : R.TMG_CNT_SEL < R.TMG_CSHP_TOKENS i := by
    unfold R.TMG_CNT_SEL R.TMG_CSHP_TOKENS
    omega
  have hports (p : Nat) : R.TMG_CNT_SEL < R.TMG_PORT_TOKENS p := by
    unfold R.TMG_CNT_SEL R.TMG_PORT_TOKENS
    omega
  unfold State.path at hmem
  rcases List.mem_append.mp hmem with hown | hrest
  · split at hown
    · obtain rfl := List.mem_singleton.mp hown
      exact hqueues _
    · cases hown
  · rcases List.mem_cons.mp hrest with rfl | hport
    · exact hclasses _
    · obtain rfl := List.mem_singleton.mp hport
      exact hports _

/-- Charging shapers moves their TOKENS alone (R327). -/
theorem regsBut_shaperCharges (s : State) (path : List Shaper) (n : Int) :
    RegsBut (path.map Shaper.tokens) s (path.foldl (fun u h => u.shaperCharge h n) s) :=
  List.foldlRecOn path _ .refl fun _ ht _ hmem => .ite (ht.setReg (List.mem_map_of_mem hmem)) ht

/-- A dequeue is counted once (R333). -/
theorem counted_dequeue (s : State) (q : Nat) (f : Frame) : Counted R.TMG_CNT_SEL s (s.dequeue q f) := by
  unfold State.dequeue
  extract_lets port client path taken shortened left age noted reported len
  have hreported : Within 4098 s reported := by
    have hleft : Within 4098 s left :=
      .ite (.drrLeave (.setQd (.setQueue (.refl s)))) (.setQd (.setQueue (.refl s)))
    exact .ite (.setPkt hleft) (.reportOut (.setPkt hleft))
  have hregs : RegsBut (path.map Shaper.tokens) s reported := regsBut_of_regs (hreported .regs rfl)
  have hapart : R.TMG_CNT_SEL ∉ path.map Shaper.tokens := fun hmem => by
    obtain ⟨h, hpath, htokens⟩ := List.mem_map.mp hmem
    exact absurd htokens (Nat.ne_of_gt (tokens_gt_of_mem_path hpath))
  exact (counted_bump _ _).after (hregs.trans (regsBut_shaperCharges reported path len)) ⟨hapart, by decide⟩

/-! ### A selection for a port -/

theorem offer_of_select {s v : State} {p q : Nat} (aborted : Bool) (h : s.select p = some (v, q)) :
    s.offer p aborted = v.send q aborted := by
  simp only [State.offer, h]

theorem send_of_eth {s : State} {q : Nat} {f : Frame} (aborted : Bool) (hhead : s.headFrame q = some f)
    (hport : s.qd q 0 29 26 ≤ 5) : s.send q aborted = (s.dequeue q f).enterWindow (s.qd q 0 29 26) f := by
  simp only [State.send, hhead, if_pos hport]

theorem send_of_client {s : State} {q k : Nat} {f : Frame} (aborted : Bool) (hhead : s.headFrame q = some f)
    (hport : s.qd q 0 29 26 = 6)
    (hlink : s.chooseLink (s.qd q 5 27 16) f.tid (s.txUnits (s.qd q 5 27 16) f) = some k) :
    s.send q aborted = (s.dequeue q f).stageOn (s.qd q 5 27 16) k f aborted := by
  have hnot : ¬ s.qd q 0 29 26 ≤ 5 := by omega
  simp only [State.send, hhead, hlink, if_neg hnot, if_pos hport]

/-- A frame that enters a port's window is the last of those selected for it, and the queues stand (R316). -/
theorem enterWindow_selects (s : State) (p : Nat) (f : Frame) :
    (s.enterWindow p f).selOf p = s.selOf p ++ [f.addr] ∧ ∀ q, (s.enterWindow p f).queue q = s.queue q := by
  refine ⟨?_, fun q => rfl⟩
  exact (Sparse.get_put ..).trans (if_pos rfl)

/-- The registers of the windows stand above the counters of TMG (R333). -/
theorem counted_enterWindow {s t : State} (p : Nat) (f : Frame) (h : Counted R.TMG_CNT_SEL s t) :
    Counted R.TMG_CNT_SEL s (t.enterWindow p f) := by
  have hapart : R.TMG_CNT_SEL ≠ R.TMG_PORT_WIN p := by
    unfold R.TMG_CNT_SEL R.TMG_PORT_WIN
    omega
  have hregs : RegsBut [R.TMG_PORT_WIN p] t (t.enterWindow p f) := RegsBut.wf (regsBut_of_regs rfl) (List.mem_singleton_self _)
  exact h.andThen hregs ⟨fun hmem => hapart (List.mem_singleton.mp hmem), by decide⟩

/-! ### A selection for a client -/

/-- A field of a descriptor written changes its word alone (R318). -/
theorem byte_setQd_of_above {s : State} {q w hi lo n b : Nat} (hw : w < 8) (h : qAddr q + 32 ≤ b) :
    (s.setQd q w hi lo n).byte b = s.byte b :=
  byte_writeN_of_outside (.inr (by omega))

theorem byte_setQueue_of_above {s : State} {q b : Nat} {l : List Nat} (h : qAddr q + 32 ≤ b) :
    (s.setQueue q l).byte b = s.byte b := by
  rw [State.setQueue, byte_setQd_of_above (by decide) h, byte_setQd_of_above (by decide) h,
    byte_setQd_of_above (by decide) h, setPkt_byte]

/-- QMG's report of a dequeue is in the words of the TIDs of a record, from word 8 on (R183, R185). -/
theorem byte_reportOut_of_below {s : State} {i t u b : Nat} (h : b < clAddr i + 32) :
    (s.reportOut i t u).byte b = s.byte b := by
  have hword : b < clAddr i + 4 * (8 + t) := by omega
  unfold State.reportOut
  split
  · rfl
  · rw [State.keepHol, byte_setRec_of_outside (.inl hword), byte_setRec_of_outside (.inl hword)]

/-- A dequeue writes the queue's descriptor and, of its client's record, the words from 8 on (R185, R318). -/
theorem byte_dequeue {s : State} {q b : Nat} (f : Frame) (hq : qAddr q + 32 ≤ b)
    (hrec : b < clAddr (s.qd q 5 27 16) + 32) : (s.dequeue q f).byte b = s.byte b := by
  unfold State.dequeue
  extract_lets port client path taken shortened left age noted reported len
  have hleft : left.byte b = shortened.byte b := by
    unfold left
    split
    · rw [State.drrLeave, setPkt_byte, byte_setQd_of_above (by decide) hq]
    · rfl
  have hreported : reported.byte b = noted.byte b := by
    unfold reported
    split
    · rfl
    · exact byte_reportOut_of_below hrec
  have hcharged : Within 1 reported ((path.foldl (fun u h => u.shaperCharge h len) reported).bump R.TMG_CNT_SEL) :=
    .bump (.foldl (fun h => .shaperCharge h) (.refl _))
  calc ((path.foldl (fun u h => u.shaperCharge h len) reported).bump R.TMG_CNT_SEL).byte b
      = reported.byte b := congrArg (fun m => Sparse.get memDefault m b) (hcharged .mem rfl)
    _ = left.byte b := hreported
    _ = taken.byte b := hleft.trans (byte_setQd_of_above (by decide) hq)
    _ = s.byte b := byte_setQueue_of_above hq

/-- A record stands above the descriptors, so a dequeue leaves its words below 8, among them whether the client is
protected (R182, R183, R318). -/
theorem cr_dequeue {s : State} {q w hi lo : Nat} (f : Frame) (hq : q < 8192) (hw : w < 8) :
    (s.dequeue q f).cr (s.qd q 5 27 16) w hi lo = s.cr (s.qd q 5 27 16) w hi lo := by
  have habove : qAddr q + 32 ≤ clAddr (s.qd q 5 27 16) := by
    unfold qAddr clAddr
    omega
  have hword : (s.dequeue q f).readN (clAddr (s.qd q 5 27 16) + 4 * w) 4 = s.readN (clAddr (s.qd q 5 27 16) + 4 * w) 4 :=
    readN_congr fun b hlo hhi => byte_dequeue f (by omega) (by omega)
  rw [State.cr, State.mf, State.read32, hword]
  rfl

/-- An MPDU put in a transmit pool is one more, under the next number, and the queues stand (R155). -/
theorem putMpdu_adds (s : State) (m : Mpdu) (frame : Option Nat) (moved : Bool) :
    (s.putMpdu m frame moved).mpdus.length = s.mpdus.length + 1 ∧
      (s.putMpdu m frame moved).mpduNum = s.mpduNum + 1 ∧ QueuesStand s (s.putMpdu m frame moved) := by
  unfold State.putMpdu
  extract_lets cells numbered added
  have hcells : Within 0 s cells.1 := .takeCells (.refl s)
  have hmpdus : cells.1.mpdus = s.mpdus := hcells .mpdus rfl
  have hstand : QueuesStand s cells.1 := .of_within hcells rfl
  refine ⟨?_, rfl, hstand.queues, hstand.sel⟩
  show (cells.1.mpdus ++ [numbered]).length = s.mpdus.length + 1
  rw [hmpdus, List.length_append, List.length_singleton]

/-- The frame of a client that is not protected is staged as one MPDU, and the queues stand (R155, R191). -/
theorem stageOn_adds {s : State} {i : Nat} (k : Nat) (f : Frame) (aborted : Bool) (hplain : s.cr i 6 30 30 = 0) :
    (s.stageOn i k f aborted).mpdus.length = s.mpdus.length + 1 ∧
      (s.stageOn i k f aborted).mpduNum = s.mpduNum + 1 ∧ QueuesStand s (s.stageOn i k f aborted) := by
  unfold State.stageOn
  extract_lets data len units prot kid sn pn numbered m added staged
  have hprot : ¬ prot := by
    unfold prot
    rw [hplain]
    decide
  have hpn : pn.1 = sn.1 := by
    unfold pn
    rw [if_neg hprot]
  have hnumbered : Within 2 s numbered := by
    unfold numbered
    rw [hpn]
    exact .takeSn (.refl s)
  have hcounted : Within 2 added (staged.setRec i (17 + 4 * k) 15 0 (staged.cr i (17 + 4 * k) 15 0 + units)) :=
    .setRec (.setRec (.refl added))
  obtain ⟨hlength, hnum, hstand⟩ := putMpdu_adds numbered m (some f.addr) false
  rw [if_neg (by simp [hprot])]
  refine ⟨?_, ?_, ((QueuesStand.of_within hnumbered rfl).trans hstand).trans (.of_within hcounted rfl)⟩
  · rw [hcounted .mpdus rfl, hlength, hnumbered .mpdus rfl]
  · rw [hcounted .mpduNum rfl, hnum, hnumbered .mpduNum rfl]

/-! ### Words of memory -/

theorem byte_setWords_of_outside {b : Nat} : ∀ {l : List Word} {s : State} {a : Nat}, b < a ∨ a + 4 * l.length ≤ b →
    (s.setWords a l).byte b = s.byte b
  | [], _, _, _ => rfl
  | w :: l, s, a, h => by
    rw [List.length_cons] at h
    rw [State.setWords, byte_setWords_of_outside (by omega), State.write32, byte_writeN_of_outside (by omega)]

/-- Words stored read back, each at its place. -/
theorem read32_setWords {l : List Word} {k a : Nat} {w : Word} {s : State} (h : l[k]? = some w) :
    (s.setWords a l).read32 (a + 4 * k) = w := by
  induction l generalizing k a s with
  | nil => cases h
  | cons v l ih =>
    cases k with
    | zero =>
      obtain rfl : v = w := Option.some.inj h
      have hlater : ((s.write32 a v).setWords (a + 4) l).readN a 4 = (s.write32 a v).readN a 4 :=
        readN_congr fun b _ hhi => byte_setWords_of_outside (.inl hhi)
      have hplace : a + 4 * 0 = a := rfl
      rw [State.setWords, hplace, State.read32, hlater]
      exact read32_write32 ..
    | succ k =>
      have hplace : a + 4 * (k + 1) = a + 4 + 4 * k := by omega
      rw [State.setWords, hplace]
      exact ih h

/-! ### A sample round -/

/-- The state after the stamp record of ring `k`, over no queue, is written (R328). -/
def State.stamped (s : State) (k : Nat) : State :=
  (s.setWords ((s.tring k).1 + 16 * (s.regN (R.TMG_RING_PROD k) % (s.tring k).2.1))
    [BitVec.ofNat 32 (2 ^ 31), 0, s.gt.extractLsb' 0 32, s.gt.extractLsb' 32 32]).setRegN (R.TMG_RING_PROD k)
      (s.regN (R.TMG_RING_PROD k) + 1)

theorem smpRing_of_disabled {s : State} {k : Nat} (h : s.rb (F.TMG_RING_CFG_EN k) = false) : s.smpRing k = (s, false) := by
  simp [State.smpRing, h]

/-- A ring with room and without sampled queues takes its stamp record, and none is dropped (R328). -/
theorem smpRing_stamps {s : State} {k : Nat} (hen : s.rb (F.TMG_RING_CFG_EN k) = true) (hroom : (s.tring k).2.2 = true)
    (hqueues : s.smpQueues k = []) : s.smpRing k = (s.stamped k, false) := by
  simp [State.smpRing, State.smpRecord, State.stamped, hen, hroom, hqueues]

/-- A round's turn on one ring; the second part says that some record was dropped. -/
def sampleTurn (x : State × Bool) (k : Nat) : State × Bool := ((x.1.smpRing k).1, x.2 || (x.1.smpRing k).2)

theorem foldl_sampleTurn_of_disabled {s : State} {l : List Nat} (h : ∀ k ∈ l, s.rb (F.TMG_RING_CFG_EN k) = false) :
    l.foldl sampleTurn (s, false) = (s, false) := by
  induction l with
  | nil => rfl
  | cons k l ih =>
    have hturn : sampleTurn (s, false) k = (s, false) := by
      rw [sampleTurn, smpRing_of_disabled (h k List.mem_cons_self)]
      rfl
    rw [List.foldl_cons, hturn, ih fun j hj => h j (List.mem_cons_of_mem k hj)]

/-- A stamp record moves its ring's PROD alone, by one (R328). -/
theorem stamped_prod (s : State) (k : Nat) :
    (s.stamped k).reg (R.TMG_RING_PROD k) = s.reg (R.TMG_RING_PROD k) + 1 ∧
      RegsBut [R.TMG_RING_PROD k] s (s.stamped k) := by
  have hregs (a : Nat) (l : List Word) : RegsBut [R.TMG_RING_PROD k] s (s.setWords a l) :=
    regsBut_of_regs (Within.setWords (m := 2) (.refl s) ⟨rfl⟩ .regs rfl)
  refine ⟨?_, RegsBut.setReg (hregs _ _) (List.mem_singleton_self _)⟩
  rw [State.stamped, reg_setRegN, if_pos rfl, State.regN]
  exact BitVec.eq_of_toNat_eq (by simp [BitVec.toNat_add])

/-- A stamp record is written at PROD's place, and it holds the grid time (R328). -/
theorem stamped_record (s : State) (k : Nat) :
    let a := (s.tring k).1 + 16 * (s.regN (R.TMG_RING_PROD k) % (s.tring k).2.1)
    (s.stamped k).read32 (a + 8) = s.gt.extractLsb' 0 32 ∧ (s.stamped k).read32 (a + 12) = s.gt.extractLsb' 32 32 ∧
      ∀ b, b < a ∨ a + 16 ≤ b → (s.stamped k).byte b = s.byte b := by
  have hread (t : State) (p v b : Nat) : (t.setRegN p v).read32 b = t.read32 b := rfl
  have hbyte (t : State) (p v b : Nat) : (t.setRegN p v).byte b = t.byte b := rfl
  unfold State.stamped
  simp only [hread, hbyte]
  generalize (s.tring k).1 + 16 * (s.regN (R.TMG_RING_PROD k) % (s.tring k).2.1) = a
  exact ⟨read32_setWords (k := 2) rfl, read32_setWords (k := 3) rfl, fun b hb => byte_setWords_of_outside hb⟩

/-- A round in which ring `k` alone is enabled, with room and without sampled queues, is its stamp record (R328). -/
theorem sampleRound_stamps {s : State} {k : Fin 8} (hon : s.rb F.TMG_SMP_CTRL_EN = true)
    (hen : s.rb (F.TMG_RING_CFG_EN k.val) = true)
    (halone : ∀ j, j < 8 → j ≠ k.val → s.rb (F.TMG_RING_CFG_EN j) = false)
    (hroom : (s.tring k.val).2.2 = true) (hqueues : s.smpQueues k.val = []) :
    exec .sampleRound s = .next (s.stamped k.val) := by
  obtain ⟨before, after, hrings⟩ := List.append_of_mem (List.mem_range.mpr k.isLt)
  have hnodup : (before ++ k.val :: after).Nodup := hrings ▸ List.nodup_range
  obtain ⟨-, hlast, hapart⟩ := List.nodup_append.mp hnodup
  have hother : ∀ j ∈ before ++ after, s.rb (F.TMG_RING_CFG_EN j) = false := fun j hj => by
    rcases List.mem_append.mp hj with hb | ha
    · have hlt : j < 8 := List.mem_range.mp (hrings ▸ List.mem_append_left _ hb)
      exact halone j hlt (hapart j hb k.val List.mem_cons_self)
    · have hlt : j < 8 := List.mem_range.mp (hrings ▸ List.mem_append_right _ (List.mem_cons_of_mem _ ha))
      exact halone j hlt fun he => (List.nodup_cons.mp hlast).1 (he ▸ ha)
  have hturn : sampleTurn (s, false) k.val = (s.stamped k.val, false) := by
    rw [sampleTurn, smpRing_stamps hen hroom hqueues]
    rfl
  have hstill : ∀ j ∈ after, (s.stamped k.val).rb (F.TMG_RING_CFG_EN j) = false := fun j hj => by
    have hplace : (F.TMG_RING_CFG_EN j).addr ∉ [R.TMG_RING_PROD k.val] := fun hmem => by
      have heq : R.TMG_RING_CFG j = R.TMG_RING_PROD k.val := List.mem_singleton.mp hmem
      unfold R.TMG_RING_CFG R.TMG_RING_PROD at heq
      omega
    have hevr : 0x40020000 ≤ (F.TMG_RING_CFG_EN j).addr := by
      simp only [F.TMG_RING_CFG_EN, R.TMG_RING_CFG]
      omega
    rw [(stamped_prod s k.val).2.rb hplace (not_evrAddr_of_ge hevr)]
    exact hother j (List.mem_append_right _ hj)
  have hround : (List.range 8).foldl sampleTurn (s, false) = (s.stamped k.val, false) := by
    rw [hrings, List.foldl_append, foldl_sampleTurn_of_disabled fun j hj => hother j (List.mem_append_left _ hj),
      List.foldl_cons, hturn, foldl_sampleTurn_of_disabled hstill]
  have hexec : exec .sampleRound s = .next (if ((List.range 8).foldl sampleTurn (s, false)).2 then
      ((List.range 8).foldl sampleTurn (s, false)).1.raise 118 else ((List.range 8).foldl sampleTurn (s, false)).1) :=
    if_neg (by simp [hon])
  rw [hexec, hround]
  rfl

/-! ### Rings and stalls -/

/-- A ring that is disabled takes a place and a size that are allowed (R328). -/
theorem ringWrite_of_placed {s : State} {base bhi cfg k : Nat} {v : Word} (hoff : (s.reg cfg).getLsbD 31 = false)
    (hsize : k = 2 → 6 ≤ bits v 4 0 ∧ bits v 4 0 ≤ 20)
    (hplaced : s.ringPlaced (s.ringAfter base bhi cfg k v).1 (16 * (s.ringAfter base bhi cfg k v).2) = true) :
    s.ringWrite base bhi cfg k v = if k = 0 then s.setReg base v else if k = 1 then s.setReg bhi (v &&& 0xF)
      else s.setReg cfg (v &&& 0x8000001F) := by
  have hin : ¬ (k = 2 ∧ (bits v 4 0 < 6 ∨ 20 < bits v 4 0)) := by omega
  simp only [State.ringWrite, if_neg hin, hoff, hplaced]
  simp

/-- The first configuration register of a delivery ring or of a telemetry ring (R328). -/
def ringRegs (delivery : Bool) (n : Nat) : Nat := if delivery then R.TMG_DRING_BASE n else R.TMG_RING_BASE n

/-- Telemetry rings 0 to 7 and the delivery rings of the core ports exist: a granted write reaches their registers (R328). -/
theorem exec_ringConfigWrite {s : State} {i : Init} {delivery : Bool} {n : Fin 16} {k : Fin 3} {v : Word}
    (hring : if delivery then n.val = 7 ∨ n.val = 12 ∨ n.val = 13 ∨ n.val = 14 else n.val < 8)
    (hmay : s.MayWrite i (ringRegs delivery n.val + 4 * k.val)) :
    exec (.ringConfigWrite i delivery n k v) s = .next (s.ringWrite (ringRegs delivery n.val) (ringRegs delivery n.val + 4)
      (ringRegs delivery n.val + 8) k.val v) := by
  have hexists : ¬ (!delivery && decide (8 ≤ n.val) || delivery && !([7, 12, 13, 14].contains n.val)) := by
    cases delivery with
    | false => simpa using hring
    | true =>
      have hcore : n.val = 7 ∨ n.val = 12 ∨ n.val = 13 ∨ n.val = 14 := hring
      rcases hcore with h | h | h | h <;> simp [h]
  exact (if_neg hexists).trans (congrArg Host.Outcome.next (onWrite_of_mayWrite s i _ _ hmay))

/-- The register that a configuration write names takes its fields of the word, and no other register moves (R328). -/
theorem ringConfig_sets (s : State) (b : Nat) (k : Fin 3) (v : Word) :
    let t := if k.val = 0 then s.setReg b v else if k.val = 1 then s.setReg (b + 4) (v &&& 0xF)
      else s.setReg (b + 8) (v &&& 0x8000001F)
    t.reg (b + 4 * k.val) = (if k = 0 then v else if k = 1 then v &&& 0xF else v &&& 0x8000001F) ∧
      RegsBut [b + 4 * k.val] s t ∧ SameBytes s t := by
  match k with
  | 0 | 1 | 2 => exact ⟨reg_setReg_same .., RegsBut.refl.setReg (List.mem_singleton_self _), fun _ => rfl⟩

/-- A ring that is disabled takes the place and the size written, in the register named (R328). -/
theorem ringConfigWrite_sets {s : State} {i : Init} {delivery : Bool} {n : Fin 16} {k : Fin 3} {v : Word}
    (hring : if delivery then n.val = 7 ∨ n.val = 12 ∨ n.val = 13 ∨ n.val = 14 else n.val < 8)
    (hmay : s.MayWrite i (ringRegs delivery n.val + 4 * k.val))
    (hoff : (s.reg (ringRegs delivery n.val + 8)).getLsbD 31 = false) (hsize : k = 2 → 6 ≤ bits v 4 0 ∧ bits v 4 0 ≤ 20)
    (hplaced :
      let after := s.ringAfter (ringRegs delivery n.val) (ringRegs delivery n.val + 4) (ringRegs delivery n.val + 8) k.val v
      s.ringPlaced after.1 (16 * after.2) = true) :
    Runs (.ringConfigWrite i delivery n k v) s fun t =>
      t.reg (ringRegs delivery n.val + 4 * k.val) = (if k = 0 then v else if k = 1 then v &&& 0xF else v &&& 0x8000001F) ∧
        RegsBut [ringRegs delivery n.val + 4 * k.val] s t ∧ SameBytes s t := by
  have hexec := exec_ringConfigWrite (v := v) hring hmay
  rw [ringWrite_of_placed hoff (fun hk => hsize (Fin.ext hk)) hplaced] at hexec
  exact ⟨_, hexec, ringConfig_sets s (ringRegs delivery n.val) k v⟩

/-- A stall of a port that waits is noted until its next selection, and counted (R331). -/
theorem portStall_counts {s : State} {p : Fin 16} (hwaits : s.portWaits p.val = true)
    (hnew : Sparse.getN s.pkt.stalled p.val = 0) : Runs (.portStall p) s fun t =>
      Sparse.getN t.pkt.stalled p.val = 1 ∧ Counted R.TMG_CNT_STALL s t ∧ RegsBut [R.TMG_CNT_STALL] s t ∧
        SameBytes s t := by
  let noted := s.setPkt (fun k => { k with stalled := Sparse.putN k.stalled p.val 1 })
  let counted := noted.bump R.TMG_CNT_STALL
  have hexec : exec (.portStall p) s = .next (counted.raise 119) := if_pos (by simp [hwaits, hnew])
  have hcount : Counted R.TMG_CNT_STALL s counted := counted_bump noted R.TMG_CNT_STALL
  have hbump : RegsBut [R.TMG_CNT_STALL] s counted := RegsBut.bump (regsBut_of_regs rfl) (List.mem_singleton_self _)
  have hraise : RegsBut [] counted (counted.raise 119) := RegsBut.refl.raise (by decide)
  refine ⟨_, hexec, ?_, hcount.andThen hraise (by decide), hbump.raise (by decide),
    sameBytes_of_exec hexec (by simp [touched])⟩
  have hpkt : Within 17 noted (counted.raise 119) := .raise (.bump (.refl noted))
  refine (congrArg (fun k => Sparse.getN k.stalled p.val) (hpkt .pkt rfl)).trans ?_
  exact (Sparse.get_put ..).trans (if_pos rfl)

/-! ### The obligation -/

/-- Settles O44: a selection is its dequeue and then the window or the staging, a round is its one ring's stamp record, and a
configuration write and a stall are each one change of the state. -/
theorem trafficManager : Obligations.TrafficManager := by
  unfold Obligations.TrafficManager
  refine fun s => ⟨fun hen v q f hsel hhead hqueue hport => ?select, fun hoff => if_pos (by simp [hoff]),
    fun aborted v q f k hen hsel hq hhead hport hlink hplain => ?stage,
    fun k hon hen halone hroom hqueues => ?sample, fun i delivery n k v => ringConfigWrite_sets, fun p => portStall_counts⟩
  case select =>
    have hexec : exec .tmgSelect s = .next
        ((s.setPkt fun k => { k with nextPort := (k.nextPort + 1) % 16 }).offer s.pkt.nextPort false) :=
      if_neg (by simp [hen])
    rw [offer_of_select false hsel, send_of_eth false hhead (hqueue ▸ hport), hqueue] at hexec
    obtain ⟨htaken, hkept⟩ := dequeue_takes_head v q f
    obtain ⟨hselected, hqueues⟩ := enterWindow_selects (v.dequeue q f) s.pkt.nextPort f
    exact ⟨_, hexec, (hqueues q).trans htaken, by rw [hselected, hkept], counted_enterWindow _ f (counted_dequeue v q f)⟩
  case stage =>
    have hexec : exec (.stageMpdu aborted) s = .next (s.offer 6 aborted) := if_neg (by simp [hen])
    rw [offer_of_select aborted hsel, send_of_client aborted hhead hport hlink] at hexec
    obtain ⟨hlength, hnum, hstand⟩ := stageOn_adds k f aborted ((cr_dequeue f hq (by decide)).trans hplain)
    have hframe : Within 4099 v (v.dequeue q f) := .dequeue (.refl v)
    refine ⟨_, hexec, (hstand.queue q).trans (dequeue_takes_head v q f).1, ?_, ?_⟩
    · rw [hlength, hframe .mpdus rfl]
    · rw [hnum, hframe .mpduNum rfl]
  case sample =>
    obtain ⟨hprod, hregs⟩ := stamped_prod s k.val
    obtain ⟨hlow, hhigh, hbytes⟩ := stamped_record s k.val
    exact ⟨_, sampleRound_stamps hon hen halone hroom hqueues, hprod, hlow, hhigh, hbytes, hregs⟩

end Sys2Proof.Machine
end

section
/-! PROOFS. The field family: the commands of the field MAC (O35). -/

namespace Sys2Proof.Machine

/-! ### Words of assignment entries -/

/-- A word stored leaves the words it does not overlap. -/
theorem read32_write32_apart {s : State} {a b : Nat} {v : Word} (h : a + 4 ≤ b ∨ b + 4 ≤ a) :
    (s.write32 b v).read32 a = s.read32 a := by
  have hword : (s.write32 b v).readN a 4 = s.readN a 4 := readN_congr fun _ _ _ => byte_writeN_of_outside (by omega)
  rw [State.read32, hword, State.read32]

/-- A word of an entry stored is that word alone (R230). -/
theorem feW_write32 (s : State) (e w k : Nat) (v : Word) :
    (s.write32 (feAddr e + 4 * w) v).feW e k = if k = w then v else s.feW e k := by
  split
  · next h => rw [h, State.feW, read32_write32]
  · next h => exact read32_write32_apart (by omega)

/-- A field of an entry written changes its word alone (R230). -/
theorem feW_setFe (s : State) (e w hi lo n k : Nat) :
    (s.setFe e w hi lo n).feW e k = if k = w then setBits (s.feW e w) hi lo n else s.feW e k := feW_write32 ..

theorem feW_congr {s t : State} (h : t.mem = s.mem) (e k : Nat) : t.feW e k = s.feW e k := by
  rw [State.feW, State.read32, readN_congr fun b _ _ => sameBytes_of_mem h b]
  rfl

/-- A field of an entry is bits of its word. -/
theorem fe_congr {s t : State} {e w : Nat} (h : t.feW e w = s.feW e w) (hi lo : Nat) : t.fe e w hi lo = s.fe e w hi lo :=
  congrArg (fun v => bits v hi lo) h

theorem feValid_congr {s t : State} {e : Nat} (h : t.feW e 0 = s.feW e 0) : t.feValid e = s.feValid e :=
  congrArg (· == 1) (fe_congr h 31 31)

/-- A field of an entry written reads back, as far as it is wide. -/
theorem fe_setFe_same (s : State) (e w n : Nat) {hi lo : Nat} (h : lo ≤ hi) (hhi : hi < 32) :
    (s.setFe e w hi lo n).fe e w hi lo = n % 2 ^ (hi - lo + 1) := by
  rw [State.fe, State.mf, State.setFe, State.wmf, read32_write32, bits_setBits _ _ _ _ h hhi]

/-- A field of an entry that shares no bit with the one written stands. -/
theorem fe_setFe_apart (s : State) (e w n : Nat) {hi lo h l : Nat} (hb : hi < 32 ∧ lo ≤ hi ∧ l ≤ h ∧ (hi < l ∨ h < lo)) :
    (s.setFe e w hi lo n).fe e w h l = s.fe e w h l := by
  obtain ⟨hwidth, hlo, hl, hapart⟩ := hb
  show bits ((s.setFe e w hi lo n).feW e w) h l = bits (s.feW e w) h l
  rw [feW_setFe, if_pos rfl, bits_setBits_other _ _ _ _ _ _ hwidth hlo hapart hl]

/-! ### The record of a child

The records of children (R183) stand below the assignment entries, so no write of a record moves an entry. -/

/-- Between two states no byte outside client record `i` changes. -/
def RecordAlone (i : Nat) (s t : State) : Prop := ∀ b, b < clAddr i ∨ clAddr i + 256 ≤ b → t.byte b = s.byte b

namespace RecordAlone

variable {i : Nat} {s t u : State}

theorem refl : RecordAlone i s s := fun _ _ => rfl

theorem trans (h : RecordAlone i s t) (g : RecordAlone i t u) : RecordAlone i s u := fun b hb => (g b hb).trans (h b hb)

theorem ite {c : Prop} [Decidable c] (ht : RecordAlone i s t) (hu : RecordAlone i s u) :
    RecordAlone i s (if c then t else u) := by
  split
  · exact ht
  · exact hu

theorem of_mem (h : t.mem = s.mem) : RecordAlone i s t := fun b _ => sameBytes_of_mem h b

theorem setRec {w hi lo n : Nat} (hw : w < 64) : RecordAlone i s (s.setRec i w hi lo n) := fun _ _ =>
  byte_setRec_of_outside (by omega)

theorem setRecGt {w : Nat} {g : GTime} (hw : w < 63) : RecordAlone i s (s.setRecGt i w g) := fun _ _ =>
  byte_writeN_of_outside (by omega)

theorem setRecState {st : Nat} : RecordAlone i s (s.setRecState i st) :=
  (setRec (by decide)).trans (of_mem rfl)

theorem predict : RecordAlone i s (s.predict i) :=
  ite ((setRec (by decide)).trans (setRec (by decide))) (setRec (by decide))

theorem feW {e : Nat} (h : RecordAlone (feRec e) s t) (he : e < 1024) (k : Nat) : t.feW e k = s.feW e k := by
  have hword : t.readN (feAddr e + 4 * k) 4 = s.readN (feAddr e + 4 * k) 4 := readN_congr fun b hlo _ =>
    h b (.inr (by unfold feAddr at hlo; unfold clAddr feRec; omega))
  rw [State.feW, State.read32, hword]
  rfl

end RecordAlone

/-! ### Results -/

/-- The field MAC's state but its results. -/
def FieldSt.unposted (f : FieldSt) : FieldSt := { f with results := [] }

/-- A result is filed or counted as lost (R259). -/
theorem fmPost_unposted (s : State) (tag opc status : Nat) :
    (s.fmPost tag opc status).fld.unposted = s.fld.unposted := by
  unfold State.fmPost
  split
  · rfl
  · exact congrArg FieldSt.unposted (Within.bump (m := 1) (.refl s) ⟨rfl⟩ .fld rfl)

namespace RegsBut

variable {l : List Nat} {s t : State}

theorem setFld {f : FieldSt → FieldSt} (h : RegsBut l s t) : RegsBut l s (t.setFld f) := h

end RegsBut

theorem regsBut_fmPost (s : State) (tag opc status : Nat) : RegsBut [R.FMAC_CNT_RESOVF] s (s.fmPost tag opc status) :=
  .ite (.setFld .refl) (RegsBut.refl.bump (List.mem_singleton_self _))

/-! ### The head of the queue -/

/-- The command at the head has completed with OK: it has left the queue, and its result is posted or counted as lost
(R257, R259). -/
structure Completed (s t : State) : Prop where
  fld : t.fld.unposted = { s.fld with cmds := s.fld.cmds.drop 1 }.unposted
  regs : RegsBut [R.FMAC_CNT_RESOVF] s t
  mem : t.mem = s.mem

theorem completed_fmDone (s : State) (w : List Word) : Completed s (s.fmDone w St.OK) := by
  unfold State.fmDone
  extract_lets posted counted
  have hcounted : counted = posted := if_neg (by decide)
  rw [if_pos rfl, hcounted]
  exact ⟨fmPost_unposted .., (RegsBut.setFld .refl).trans (regsBut_fmPost _ _ _ _),
    Within.fmPost (m := 16385) (.setFld (.refl s)) ⟨rfl⟩ .mem rfl⟩

namespace Completed

variable {s t : State}

theorem cmds (h : Completed s t) : t.fld.cmds = s.fld.cmds.drop 1 := (congrArg FieldSt.cmds h.fld :)

theorem starting (h : Completed s t) : t.fld.starting = s.fld.starting := (congrArg FieldSt.starting h.fld :)

theorem staged (h : Completed s t) : t.fld.staged = s.fld.staged := (congrArg FieldSt.staged h.fld :)

theorem missb (h : Completed s t) : t.fld.missb = s.fld.missb := (congrArg FieldSt.missb h.fld :)

theorem rf (h : Completed s t) {g : Fld} (hg : g.addr = R.FMAC_STAT) : t.rf g = s.rf g :=
  h.regs.rf (by rw [hg]; decide) (by rw [hg]; exact not_evrAddr_of_ge (by decide))

theorem rb (h : Completed s t) {g : Fld} (hg : g.addr = R.FMAC_STAT) : t.rb g = s.rb g := congrArg (· == 1) (h.rf hg)

theorem feW (h : Completed s t) (e k : Nat) : t.feW e k = s.feW e k := feW_congr h.mem e k

theorem byte (h : Completed s t) (a : Nat) : t.byte a = s.byte a := sameBytes_of_mem h.mem a

end Completed

/-- The state accepts a command whose row in the table of R258 is `idle`, `run`, `drain`. -/
def State.Accepts (s : State) (idle run drain : Nat) : Prop :=
  s.fmState ≠ Fm.OFF ∧ (if s.fmState = Fm.IDLE then idle else if s.fmState = Fm.RUN then run else drain) = 1

theorem accepts_of_run {s : State} {idle drain : Nat} (h : s.fmState = Fm.RUN) : s.Accepts idle 1 drain := by
  rw [State.Accepts, h]
  exact ⟨by decide, rfl⟩

theorem accepts_of_open {s : State} {drain : Nat} (h : s.fmState = Fm.IDLE ∨ s.fmState = Fm.RUN) : s.Accepts 1 1 drain := by
  rcases h with h | h
  · rw [State.Accepts, h]
    exact ⟨by decide, rfl⟩
  · exact accepts_of_run h

theorem accepts_of_run_or_drain {s : State} {idle : Nat} (h : s.fmState = Fm.RUN ∨ s.fmState = Fm.DRAIN) :
    s.Accepts idle 1 1 := by
  rcases h with h | h
  · exact accepts_of_run h
  · rw [State.Accepts, h]
    exact ⟨by decide, rfl⟩

theorem accepts_of_on {s : State} (h : s.fmState ≠ Fm.OFF) : s.Accepts 1 1 1 := ⟨h, by rw [ite_self, ite_self]⟩

/-- A command that its state accepts has its effect, and completes with the status of it (R258, R259). -/
theorem fmRun_of_accepts {s : State} {w : List Word} {ws : List (List Word)} {opc idle run drain : Nat}
    {f : State → List Word → State × Nat} (hcmds : s.fld.cmds = w :: ws) (hopc : cmdOpc w = opc)
    (haccepts : s.Accepts idle run drain) : s.fmRun opc idle run drain f = (f s w).1.fmDone w (f s w).2 := by
  obtain ⟨hon, hrow⟩ := haccepts
  simp only [State.fmRun, hcmds, hopc, hon, hrow, ne_eq, not_true_eq_false, if_false]
  rfl

/-- An accepted command whose effect is OK answers a state in which it has completed. -/
theorem runs_of_accepts {c : Instr} {s t : State} {w : List Word} {ws : List (List Word)} {opc idle run drain : Nat}
    {f : State → List Word → State × Nat} {P : State → Prop} (hexec : exec c s = .next (s.fmRun opc idle run drain f))
    (hcmds : s.fld.cmds = w :: ws) (hopc : cmdOpc w = opc) (haccepts : s.Accepts idle run drain)
    (heffect : f s w = (t, St.OK)) (hP : ∀ u, exec c s = .next u → Completed t u → P u) : Runs c s P := by
  have hdone := (fmRun_of_accepts hcmds hopc haccepts).trans (congrArg (fun p => p.1.fmDone w p.2) heffect)
  rw [hdone] at hexec
  exact ⟨_, hexec, hP _ hexec (completed_fmDone t w)⟩

/-! ### Roles -/

/-- A truth value that shares no bit with the field written stands. -/
theorem rb_wf_apart (s : State) {f g : Fld} (n : Nat)
    (h : f.hi < 32 ∧ f.lo ≤ f.hi ∧ g.lo ≤ g.hi ∧ (g.addr ≠ f.addr ∨ f.hi < g.lo ∨ g.hi < f.lo)) :
    (s.wf f n).rb g = s.rb g := congrArg (· == 1) (rf_wf_apart s n h)

theorem fmState_fmEnter (s : State) {st : Nat} (h : st < 4) : (s.fmEnter st).fmState = st :=
  (rf_wf_same _ _ _ (by decide) (by decide)).trans (Nat.mod_eq_of_lt h)

theorem ustate_upEnter (s : State) {st : Nat} (h : st < 8) : (s.upEnter st).ustate = st :=
  (rf_wf_same _ _ _ (by decide) (by decide)).trans (Nat.mod_eq_of_lt h)

theorem regsBut_roleEnd (s : State) : RegsBut [R.FMAC_STAT] s s.roleEnd :=
  .ite .refl (RegsBut.refl.wf (List.mem_singleton_self _))

theorem roleEnd_fld (s : State) : s.roleEnd.fld = s.fld := Within.roleEnd (m := 1) (.refl s) ⟨rfl⟩ .fld rfl

/-- The end of a role moves STATE alone (R258). -/
theorem rf_roleEnd (s : State) {g : Fld} (h : g.lo ≤ g.hi ∧ g.hi < F.FMAC_STAT_STATE.lo) : s.roleEnd.rf g = s.rf g := by
  unfold State.roleEnd
  split
  · rfl
  · exact rf_wf_apart _ _ ⟨by decide, by decide, h.1, .inr (.inr h.2)⟩

theorem rb_roleEnd (s : State) {g : Fld} (h : g.lo ≤ g.hi ∧ g.hi < F.FMAC_STAT_STATE.lo) : s.roleEnd.rb g = s.rb g :=
  congrArg (· == 1) (rf_roleEnd s h)

/-- The MAC drains when no role is left (R258). -/
theorem fmState_roleEnd {s : State} (hparent : s.rb F.FMAC_STAT_PARENT = false) (hstarting : s.fld.starting = false)
    (hup : s.rb F.FMAC_STAT_UP = false) : s.roleEnd.fmState = Fm.DRAIN := by
  rw [State.roleEnd, hparent, hstarting, hup]
  exact fmState_fmEnter s (by decide)

/-- The registers of the parent table (R249, R261). -/
def ptabRegs : List Nat := ptabs.flatMap fun j => [ptabReg j 0, ptabReg j 1, ptabReg j 2, ptabReg j 3]

theorem regsBut_ptabKeep (s : State) {j : Nat} (hj : j ∈ ptabs) : RegsBut ptabRegs s (s.ptabKeep j) :=
  (ptabKeep_frame s ⟨j, List.mem_range.mp hj⟩).1.weaken fun _ ha => List.mem_flatMap.mpr ⟨j, hj, ha⟩

theorem regsBut_ptabKeepAll (s : State) : RegsBut ptabRegs s s.ptabKeepAll :=
  List.foldlRecOn ptabs _ .refl fun _ ht _ hj => ht.trans (regsBut_ptabKeep _ hj)

theorem ptabKeepAll_fld (s : State) : s.ptabKeepAll.fld = s.fld := Within.ptabKeepAll (m := 1) (.refl s) ⟨rfl⟩ .fld rfl

theorem stat_not_mem_ptabRegs : R.FMAC_STAT ∉ ptabRegs := by decide

/-- The parent role is over, or will not begin (R258). -/
def State.parentOver (s : State) : State :=
  (s.wb F.FMAC_STAT_PARENT false).setFld fun f => { f with starting := false }

theorem parentOver_stat (s : State) :
    s.parentOver.rb F.FMAC_STAT_PARENT = false ∧ s.parentOver.rb F.FMAC_STAT_UP = s.rb F.FMAC_STAT_UP :=
  ⟨(setFld_rb ..).trans (rb_wb_same _ _ rfl (by decide)), (setFld_rb ..).trans (rb_wb_apart _ _ (by decide))⟩

theorem regsBut_parentOver (s : State) : RegsBut [R.FMAC_STAT] s s.parentOver :=
  .setFld (RegsBut.refl.wb (List.mem_singleton_self _))

/-- The upstream role begins: it tracks its parent (R258). -/
def State.upBegun (s : State) : State :=
  ((((s.setFld fun f => { f with missb := 0, bcnHeard := false, upAwait := none }).wb F.FMAC_STAT_UP true).upEnter
    Fm.TRACK).fmEnter Fm.RUN).ptabKeepAll

theorem upBegun_stat (s : State) :
    s.upBegun.rb F.FMAC_STAT_UP = true ∧ s.upBegun.ustate = Fm.TRACK ∧ s.upBegun.fmState = Fm.RUN := by
  have hfm : ¬ evrAddr R.FMAC_STAT := not_evrAddr_of_ge (by decide)
  unfold State.upBegun
  generalize s.setFld _ = t
  have hkept := regsBut_ptabKeepAll (((t.wb F.FMAC_STAT_UP true).upEnter Fm.TRACK).fmEnter Fm.RUN)
  refine ⟨(hkept.rb stat_not_mem_ptabRegs hfm).trans ?_, (hkept.rf stat_not_mem_ptabRegs hfm).trans ?_,
    (hkept.rf stat_not_mem_ptabRegs hfm).trans (fmState_fmEnter _ (by decide))⟩
  · exact (rb_wf_apart _ _ (by decide)).trans ((rb_wf_apart _ _ (by decide)).trans (rb_wb_same _ _ rfl (by decide)))
  · exact (rf_wf_apart _ _ (by decide)).trans (ustate_upEnter _ (by decide))

theorem upBegun_fld (s : State) : s.upBegun.fld = { s.fld with missb := 0, bcnHeard := false, upAwait := none } :=
  ptabKeepAll_fld _

/-- The upstream role is over (R258). -/
def State.upOver (s : State) : State :=
  (((s.wb F.FMAC_STAT_UP false).wb F.FMAC_STAT_LL false).upEnter 0).ptabKeepAll

theorem upOver_stat (s : State) :
    s.upOver.rb F.FMAC_STAT_UP = false ∧ s.upOver.rb F.FMAC_STAT_LL = false ∧ s.upOver.ustate = 0 ∧
      s.upOver.rb F.FMAC_STAT_PARENT = s.rb F.FMAC_STAT_PARENT := by
  have hfm : ¬ evrAddr R.FMAC_STAT := not_evrAddr_of_ge (by decide)
  have hkept := regsBut_ptabKeepAll (((s.wb F.FMAC_STAT_UP false).wb F.FMAC_STAT_LL false).upEnter 0)
  have hrb : ∀ g : Fld, g.addr = R.FMAC_STAT →
      s.upOver.rb g = (((s.wb F.FMAC_STAT_UP false).wb F.FMAC_STAT_LL false).upEnter 0).rb g := fun g hg =>
    hkept.rb (hg ▸ stat_not_mem_ptabRegs) (hg ▸ hfm)
  refine ⟨(hrb _ rfl).trans ?_, (hrb _ rfl).trans ?_, (hkept.rf stat_not_mem_ptabRegs hfm).trans (ustate_upEnter _ (by decide)),
    (hrb _ rfl).trans ?_⟩
  · exact (rb_wf_apart _ _ (by decide)).trans ((rb_wb_apart _ _ (by decide)).trans (rb_wb_same _ _ rfl (by decide)))
  · exact (rb_wf_apart _ _ (by decide)).trans (rb_wb_same _ _ rfl (by decide))
  · exact (rb_wf_apart _ _ (by decide)).trans ((rb_wb_apart _ _ (by decide)).trans (rb_wb_apart _ _ (by decide)))

theorem upOver_fld (s : State) : s.upOver.fld = s.fld := ptabKeepAll_fld _

/-! ### Downlink frames -/

/-- The field MAC's state but its results, its staged frames and the ACK it awaits. -/
def FieldSt.course (f : FieldSt) : FieldSt := { f with results := [], staged := [], await := none }

theorem regsBut_freeRbuf (s : State) (a : Nat) : RegsBut [R.QMG_RPOOLUSE 3] s (s.freeRbuf a) := by
  unfold State.freeRbuf
  split
  · exact .refl
  · exact .ite (RegsBut.wf (regsBut_of_regs rfl) (List.mem_singleton_self _))
      (RegsBut.wf (regsBut_of_regs rfl) (List.mem_singleton_self _))

/-- The registers that the end of a downlink frame counts in, beside the pool of its units (R17, R236). -/
def dlEndRegs : List Nat := [R.QMG_RPOOLUSE 3, R.FMAC_CNT_RESOVF, R.FMAC_CNT_DLOK, R.FMAC_CNT_DLFAIL]

/-- A staged frame ends: its units are freed, its result is posted, and its two words of the entry are cleared (R236). -/
def State.dlUnstage (s : State) (e status : Nat) : State :=
  (((s.freeRbuf (s.fe e 2 31 0)).fmPost (s.fe e 3 15 8) 0x87 status).setFe e 2 31 0 0).write32 (feAddr e + 12) 0

/-- The end of a staged frame, with the list of staged frames and its counter. -/
theorem dlEnd_of_staged {s : State} {e : Nat} (status : Nat) (h : s.fe e 2 31 0 ≠ 0) :
    s.dlEnd e status = ((s.dlUnstage e status).setFld fun f => { f with
      staged := f.staged.filter (fun x => x != e), await := if f.await.any (fun x => x.1 == e) then none else f.await }).bump
      (if status = St.OK then R.FMAC_CNT_DLOK else R.FMAC_CNT_DLFAIL) := by
  rw [State.dlEnd, if_neg h, State.dlUnstage]
  split <;> rfl

theorem regsBut_dlUnstage (s : State) (e status : Nat) :
    RegsBut [R.QMG_RPOOLUSE 3, R.FMAC_CNT_RESOVF] s (s.dlUnstage e status) := by
  have hposted : RegsBut [R.QMG_RPOOLUSE 3, R.FMAC_CNT_RESOVF] s
      ((s.freeRbuf (s.fe e 2 31 0)).fmPost (s.fe e 3 15 8) 0x87 status) :=
    ((regsBut_freeRbuf s _).weaken (by decide)).trans ((regsBut_fmPost _ _ _ _).weaken (by decide))
  exact hposted.trans (regsBut_of_regs (Within.write32 (m := 2) (.setFe (.refl _)) ⟨rfl⟩ .regs rfl))

theorem dlUnstage_unposted (s : State) (e status : Nat) : (s.dlUnstage e status).fld.unposted = s.fld.unposted := by
  have hwords (t : State) : ((t.setFe e 2 31 0 0).write32 (feAddr e + 12) 0).fld = t.fld :=
    Within.write32 (m := 2) (.setFe (.refl _)) ⟨rfl⟩ .fld rfl
  have hfreed : (s.freeRbuf (s.fe e 2 31 0)).fld = s.fld := Within.freeRbuf (m := 4097) (.refl s) ⟨rfl⟩ .fld rfl
  rw [State.dlUnstage, hwords, fmPost_unposted, hfreed]

/-- Of the entry, words 2 and 3 are cleared (R230, R236). -/
theorem feW_dlUnstage (s : State) (e status k : Nat) :
    (s.dlUnstage e status).feW e k = if k = 3 then 0 else if k = 2 then setBits (s.feW e 2) 31 0 0 else s.feW e k := by
  have hmem : ((s.freeRbuf (s.fe e 2 31 0)).fmPost (s.fe e 3 15 8) 0x87 status).mem = s.mem :=
    Within.fmPost (m := 20481) (.freeRbuf (.refl s)) ⟨rfl⟩ .mem rfl
  rw [State.dlUnstage]
  refine (feW_write32 _ e 3 k 0).trans ?_
  rw [feW_setFe, feW_congr hmem, feW_congr hmem]

/-- A bump moves no memory. -/
@[simp] theorem bump_mem (s : State) (a : Nat) : (s.bump a).mem = s.mem := Within.bump (m := 1) (.refl s) ⟨rfl⟩ .mem rfl

@[simp] theorem bump_fld (s : State) (a : Nat) : (s.bump a).fld = s.fld := Within.bump (m := 1) (.refl s) ⟨rfl⟩ .fld rfl

theorem feW_dlEnd_of_staged {s : State} {e : Nat} (status k : Nat) (h : s.fe e 2 31 0 ≠ 0) :
    (s.dlEnd e status).feW e k = (s.dlUnstage e status).feW e k := by
  rw [dlEnd_of_staged status h]
  exact feW_congr ((bump_mem ..).trans (setFld_mem ..)) e k

/-- Whatever was staged, no frame is after the end of it (R236). -/
theorem fe_ptr_dlEnd (s : State) (e status : Nat) : (s.dlEnd e status).fe e 2 31 0 = 0 := by
  by_cases h : s.fe e 2 31 0 = 0
  · rw [State.dlEnd, if_pos h, h]
  · have hword := (feW_dlEnd_of_staged status 2 h).trans (feW_dlUnstage s e status 2)
    exact (congrArg (fun v => bits v 31 0) hword).trans (bits_setBits _ _ _ _ (by decide) (by decide))

/-- The assignment itself is in word 0, which the end of a frame leaves (R230). -/
theorem feW_zero_dlEnd (s : State) (e status : Nat) : (s.dlEnd e status).feW e 0 = s.feW e 0 := by
  by_cases h : s.fe e 2 31 0 = 0
  · rw [State.dlEnd, if_pos h]
  · exact (feW_dlEnd_of_staged status 0 h).trans (feW_dlUnstage s e status 0)

theorem dlEnd_course (s : State) (e status : Nat) : (s.dlEnd e status).fld.course = s.fld.course := by
  by_cases h : s.fe e 2 31 0 = 0
  · rw [State.dlEnd, if_pos h]
  · rw [dlEnd_of_staged status h, bump_fld]
    exact (congrArg FieldSt.course (dlUnstage_unposted s e status) :)

theorem not_mem_staged_dlEnd {s : State} {e : Nat} (status : Nat) (h : s.fe e 2 31 0 ≠ 0) :
    e ∉ (s.dlEnd e status).fld.staged := by
  rw [dlEnd_of_staged status h, bump_fld]
  exact fun hmem => absurd (List.mem_filter.mp hmem).2 (by simp)

theorem regsBut_dlEnd (s : State) (e status : Nat) : RegsBut dlEndRegs s (s.dlEnd e status) := by
  by_cases h : s.fe e 2 31 0 = 0
  · rw [State.dlEnd, if_pos h]
    exact .refl
  · rw [dlEnd_of_staged status h]
    refine RegsBut.bump (.setFld ((regsBut_dlUnstage s e status).weaken (by decide))) ?_
    split <;> decide

/-- A frame that ends without its ACK counts as failed (R236). -/
theorem counted_dlEnd {s : State} {e status : Nat} (h : s.fe e 2 31 0 ≠ 0) (hfail : status ≠ St.OK) :
    Counted R.FMAC_CNT_DLFAIL s (s.dlEnd e status) := by
  rw [dlEnd_of_staged status h, if_neg hfail]
  exact (counted_bump _ _).after (RegsBut.setFld (regsBut_dlUnstage s e status)) (by decide)

/-! ### Releases -/

theorem regsBut_setFe (s : State) (e w hi lo n : Nat) : RegsBut [] s (s.setFe e w hi lo n) :=
  regsBut_of_regs (Within.setFe (m := 2) (.refl s) ⟨rfl⟩ .regs rfl)

theorem setFe_fld (s : State) (e w hi lo n : Nat) : (s.setFe e w hi lo n).fld = s.fld :=
  Within.setFe (m := 2) (.refl s) ⟨rfl⟩ .fld rfl

/-- The entry is no longer VALID or on HOLD (R243, R258). -/
def State.feVacate (s : State) (e : Nat) : State := (s.setFe e 0 31 31 0).setFe e 0 30 30 0

theorem feVacate_fld (s : State) (e : Nat) : (s.feVacate e).fld = s.fld :=
  (setFe_fld ..).trans (setFe_fld ..)

theorem feValid_feVacate (s : State) (e : Nat) : (s.feVacate e).feValid e = false := by
  have hvalid : (s.feVacate e).fe e 0 31 31 = 0 :=
    (fe_setFe_apart _ _ _ _ (by decide)).trans (fe_setFe_same _ _ _ _ (by decide) (by decide))
  rw [State.feValid, hvalid]
  rfl

/-- What a release writes after the end of the entry's frame is in the child's record (R183). -/
theorem feRelease_record (s : State) (e : Nat) :
    Within 2 ((s.feVacate e).dlEnd e St.ABSENT) (s.feRelease e) ∧
      RecordAlone (feRec e) ((s.feVacate e).dlEnd e St.ABSENT) (s.feRelease e) :=
  ⟨.ite (.setRec (.setRec (.refl _))) (.refl _),
    .ite (.trans (.setRec (by decide)) (.setRec (by decide))) .refl⟩

theorem feRelease_course (s : State) (e : Nat) : (s.feRelease e).fld.course = s.fld.course := by
  rw [(feRelease_record s e).1 .fld rfl, dlEnd_course, feVacate_fld]

theorem regsBut_feRelease (s : State) (e : Nat) : RegsBut dlEndRegs s (s.feRelease e) := by
  have hvacated : RegsBut [] s (s.feVacate e) := (regsBut_setFe _ _ _ _ _ _).trans (regsBut_setFe _ _ _ _ _ _)
  exact ((hvacated.weaken (List.nil_subset _)).trans (regsBut_dlEnd _ _ _)).trans
    (regsBut_of_regs ((feRelease_record s e).1 .regs rfl))

/-- A released entry is not VALID, and no frame is staged in it (R258). -/
theorem feRelease_clears (s : State) {e : Nat} (he : e < 1024) :
    (s.feRelease e).feValid e = false ∧ (s.feRelease e).fe e 2 31 0 = 0 := by
  have hrecord := (feRelease_record s e).2
  exact ⟨(feValid_congr ((hrecord.feW he 0).trans (feW_zero_dlEnd ..))).trans (feValid_feVacate s e),
    (fe_congr (hrecord.feW he 2) 31 0).trans (fe_ptr_dlEnd ..)⟩

/-! ### Assignments -/

/-- An ASSIGN of entry `e` takes the place of what a RELEASE before it kept in the map (R232). -/
def State.keptTaken (s : State) (e : Nat) : State :=
  s.setFld fun f => { f with kept := if f.kept.any (fun o => o.entry == e) then none else f.kept }

/-- A RELEASE right before an ASSIGN of its entry keeps the owner in the map (R232). -/
def State.keptBefore (s : State) (e : Nat) : State :=
  if s.assignNext e then s.setFld (fun f => { f with kept := some (s.ownerOf e) }) else s

theorem keptBefore_cmds (s : State) (e : Nat) : (s.keptBefore e).fld.cmds = s.fld.cmds := by
  unfold State.keptBefore
  split <;> rfl

/-- The words that ASSIGN puts in an entry (R258). -/
def State.feImage (s : State) (ptr : Nat) : List Word :=
  let w k := s.read32 (ptr + 4 * k)
  [w 0 ||| 0x80000000, w 1, 0, 0, w 4, w 5, w 6, 0, w 8, w 9, 0, 0, 0, 0, 0, 0]

/-- What an ASSIGN writes after the entry is in the child's record (R183). -/
theorem feInstall_record (s : State) (e ptr : Nat) :
    RecordAlone (feRec e) (s.setWords (feAddr e) (s.feImage ptr)) (s.feInstall e ptr) :=
  .ite (.trans (.setRec (by decide)) (.setRec (by decide))) .refl

theorem feInstall_fld (s : State) (e ptr : Nat) : (s.feInstall e ptr).fld = s.fld :=
  Within.feInstall (m := 2) (.refl s) ⟨rfl⟩ .fld rfl

theorem feW_feInstall {s : State} {e ptr k : Nat} {w : Word} (he : e < 1024) (h : (s.feImage ptr)[k]? = some w) :
    (s.feInstall e ptr).feW e k = w :=
  ((feInstall_record s e ptr).feW he k).trans (read32_setWords h)

/-- An installed entry is VALID (R230). -/
theorem feValid_feInstall (s : State) {e : Nat} (ptr : Nat) (he : e < 1024) : (s.feInstall e ptr).feValid e = true := by
  have hword : (s.feInstall e ptr).feW e 0 = s.read32 ptr ||| 0x80000000 := feW_feInstall he rfl
  have hbit : (s.feInstall e ptr).feValid e = ((s.feInstall e ptr).feW e 0).getLsbD 31 := bits_bit_eq_one _ 31
  rw [hbit, hword, BitVec.getLsbD_or]
  simp

theorem byte_feInstall_of_outside {s : State} {e ptr a : Nat} (hentry : a < feAddr e ∨ feAddr e + 64 ≤ a)
    (hrecord : a < clAddr (feRec e) ∨ clAddr (feRec e) + 256 ≤ a) : (s.feInstall e ptr).byte a = s.byte a :=
  (feInstall_record s e ptr a hrecord).trans (byte_setWords_of_outside hentry)

/-! ### Frames staged -/

/-- An entry without a staged frame has none to give up (R236). -/
theorem dlRetry_of_empty {s : State} {e : Nat} (h : s.fe e 2 31 0 = 0) : s.dlRetry e = s :=
  if_neg fun hretry => hretry.1 h

theorem dlSeal_fld (s : State) (e ptr len : Nat) (key : List Byte) : (s.dlSeal e ptr len key).fld = s.fld :=
  Within.dlSeal (m := 2) (.refl s) ⟨rfl⟩ .fld rfl

/-- Sealing a frame counts its counter, wherever the frame lies (R223, R236). -/
theorem fe_counter_dlSeal (s : State) (e ptr len : Nat) (key : List Byte) :
    (s.dlSeal e ptr len key).fe e 5 31 0 = (s.fe e 5 31 0 + 1) % 2 ^ 32 :=
  fe_setFe_same _ _ _ _ (by decide) (by decide)

/-- The entry takes the frame: its pointer, its length and its tag (R236). -/
def State.dlHold (s : State) (e ptr len tag : Nat) : State :=
  (s.setFe e 2 31 0 ptr).write32 (feAddr e + 12) (BitVec.ofNat 32 ((len + 12) * 2 ^ 16 + tag * 2 ^ 8))

theorem dlHold_fld (s : State) (e ptr len tag : Nat) : (s.dlHold e ptr len tag).fld = s.fld :=
  Within.write32 (m := 2) (.setFe (.refl s)) ⟨rfl⟩ .fld rfl

theorem feW_dlHold (s : State) (e ptr len tag k : Nat) :
    (s.dlHold e ptr len tag).feW e k = if k = 3 then BitVec.ofNat 32 ((len + 12) * 2 ^ 16 + tag * 2 ^ 8)
      else if k = 2 then setBits (s.feW e 2) 31 0 ptr else s.feW e k :=
  (feW_write32 _ e 3 k _).trans (by rw [feW_setFe])

theorem fe_dlHold (s : State) (e len : Nat) {ptr tag : Nat} (hptr : ptr < 2 ^ 32) (htag : tag < 2 ^ 8) :
    (s.dlHold e ptr len tag).fe e 2 31 0 = ptr ∧ (s.dlHold e ptr len tag).fe e 3 15 8 = tag ∧
      (s.dlHold e ptr len tag).fe e 5 31 0 = s.fe e 5 31 0 := by
  refine ⟨?_, ?_, fe_congr (feW_dlHold s e ptr len tag 5) 31 0⟩
  · refine (congrArg (fun v => bits v 31 0) (feW_dlHold s e ptr len tag 2)).trans ?_
    exact (bits_setBits _ _ _ _ (by decide) (by decide)).trans (Nat.mod_eq_of_lt hptr)
  · refine (congrArg (fun v => bits v 15 8) (feW_dlHold s e ptr len tag 3)).trans ?_
    show (BitVec.ofNat 32 ((len + 12) * 2 ^ 16 + tag * 2 ^ 8)).toNat / 2 ^ 8 % 2 ^ (15 - 8 + 1) = tag
    rw [BitVec.toNat_ofNat]
    omega

/-- Where a frame is held and listed as staged last, the entry shows it once the command has completed. -/
theorem staged_of_completed {s u : State} {e ptr len tag : Nat}
    (h : Completed ((s.dlHold e ptr len tag).setFld fun f => { f with staged := f.staged ++ [e] }) u)
    (hptr : ptr < 2 ^ 32) (htag : tag < 2 ^ 8) :
    u.fe e 2 31 0 = ptr ∧ u.fe e 3 15 8 = tag ∧ u.fe e 5 31 0 = s.fe e 5 31 0 ∧ u.fld.staged = s.fld.staged ++ [e] ∧
      u.fld.cmds = s.fld.cmds.drop 1 := by
  obtain ⟨hfe2, hfe3, hfe5⟩ := fe_dlHold s e len hptr htag
  have hfe : ∀ k hi lo, u.fe e k hi lo = (s.dlHold e ptr len tag).fe e k hi lo := fun k hi lo =>
    fe_congr ((h.feW e k).trans (feW_congr (setFld_mem ..) e k)) hi lo
  have hstaged : u.fld.staged = (s.dlHold e ptr len tag).fld.staged ++ [e] := h.staged
  have hcmds : u.fld.cmds = (s.dlHold e ptr len tag).fld.cmds.drop 1 := h.cmds
  rw [dlHold_fld] at hstaged hcmds
  exact ⟨(hfe ..).trans hfe2, (hfe ..).trans hfe3, (hfe ..).trans hfe5, hstaged, hcmds⟩

/-- DL_STAGE for a child that is there, with no frame staged and a key to use, seals the frame and stages it last
(R236, R258). -/
theorem dlStage_stages {s : State} {w : List Word} {ws : List (List Word)} {k : KeySlot} (hcmds : s.fld.cmds = w :: ws)
    (hopc : cmdOpc w = 7) (hrun : s.fmState = Fm.RUN) (hvalid : s.feValid (fmEntry w) = true)
    (hpresent : s.feAbsent (fmEntry w) = false) (hempty : s.fe (fmEntry w) 2 31 0 = 0)
    (hkey : s.fieldSnap (s.fe (fmEntry w) 6 9 0) Usage.ENC = some k) :
    Runs .dlStage s (Completed (((s.dlSeal (fmEntry w) (w.getD 3 0).toNat (bits (w.getD 1 0) 31 16) k.key).dlHold (fmEntry w)
      (w.getD 3 0).toNat (bits (w.getD 1 0) 31 16) (cmdTag w)).setFld fun f => { f with staged := f.staged ++ [fmEntry w] })) := by
  refine runs_of_accepts rfl hcmds hopc (accepts_of_run hrun) ?_ fun _ _ hdone => hdone
  dsimp only
  rw [hvalid, hpresent, dlRetry_of_empty hempty]
  simp only [Bool.not_true, Bool.or_self, Bool.false_eq_true, if_false, hempty, hkey, ne_eq, not_true_eq_false]
  rfl

/-! ### The obligation -/

theorem fmEntry_lt (w : List Word) : fmEntry w < 1024 := bits_lt (w.getD 0 0) 9 0

theorem cmdTag_lt (w : List Word) : cmdTag w < 2 ^ 8 := bits_lt (w.getD 0 0) 23 16

theorem Completed.cmds_eq {t u : State} {w : List Word} {ws : List (List Word)} (h : Completed t u)
    (hcmds : t.fld.cmds = w :: ws) : u.fld.cmds = ws := by
  rw [h.cmds, hcmds, List.drop_one, List.tail_cons]

/-- Settles O35: the command at the head is accepted in its state (`runs_of_accepts`); its effect is said by the lemma of its
operation, and completing it leaves all but the queue, the results and their overflow counter (`Completed`). -/
theorem fieldCommands : Obligations.FieldCommands := by
  unfold Obligations.FieldCommands
  intro s w ws hcmds e ptr open_
  have hresovf : [R.FMAC_CNT_RESOVF] ⊆ [R.FMAC_STAT, R.FMAC_CNT_RESOVF] := by decide
  have hstat : [R.FMAC_STAT] ⊆ [R.FMAC_STAT, R.FMAC_CNT_RESOVF] := by decide
  refine ⟨fun hopc hopen hparent hstarting hchan hnet => ?sfStart, fun hopc hrun => ?sfStop, fun hopc hopen hup => ?upAttach,
    fun hopc hrun => ?upDetach, fun hopc hopen hok => ?assign, fun hopc hon hvalid => ?release,
    fun hopc hopen hvalid => ?keyset, fun k hopc hrun hvalid hpresent hempty hkey => ?dlStage,
    fun hopc hstate hvalid hstaged => ?dlCancel⟩
  case sfStart =>
    refine runs_of_accepts (t := (s.setFld (fun f => { f with starting := true })).fmEnter Fm.RUN) rfl hcmds hopc
      (accepts_of_open hopen) ((if_neg (by simp [hparent, hstarting])).trans (if_neg (by simp [hchan, hnet])))
      fun u hexec hdone => ⟨hdone.starting, ?_, hdone.cmds_eq hcmds, ?_, sameBytes_of_exec hexec (by simp [touched])⟩
    · exact (hdone.rf rfl).trans (fmState_fmEnter _ (by decide))
    · exact (RegsBut.wf (.setFld .refl) (hstat (List.mem_singleton_self _))).trans (hdone.regs.weaken hresovf)
  case sfStop =>
    obtain ⟨hparent, hup⟩ := parentOver_stat s
    have hfld : s.parentOver.roleEnd.fld = s.parentOver.fld := roleEnd_fld _
    have hregs := (regsBut_parentOver s).trans (regsBut_roleEnd s.parentOver)
    refine runs_of_accepts (t := s.parentOver.roleEnd) rfl hcmds hopc (accepts_of_run hrun) rfl fun u hexec hdone =>
      ⟨(hdone.rb rfl).trans ((rb_roleEnd _ (by decide)).trans hparent), ?_, fun hnone => ?_, ?_, ?_,
        sameBytes_of_exec hexec (by simp [touched])⟩
    · exact hdone.starting.trans (congrArg FieldSt.starting hfld)
    · exact (hdone.rf rfl).trans (fmState_roleEnd hparent rfl (hup.trans hnone))
    · exact hdone.cmds_eq ((congrArg FieldSt.cmds hfld :).trans hcmds)
    · exact (hregs.weaken hstat).trans (hdone.regs.weaken hresovf)
  case upAttach =>
    obtain ⟨hrole, htrack, hstate⟩ := upBegun_stat s
    refine runs_of_accepts (t := s.upBegun) rfl hcmds hopc (accepts_of_open hopen) (if_neg (by simp [hup]))
      fun u hexec hdone => ⟨(hdone.rb rfl).trans hrole, (hdone.rf rfl).trans htrack, (hdone.rf rfl).trans hstate, ?_, ?_,
        sameBytes_of_exec hexec (by simp [touched])⟩
    · exact hdone.missb.trans (congrArg FieldSt.missb (upBegun_fld s))
    · exact hdone.cmds_eq ((congrArg FieldSt.cmds (upBegun_fld s)).trans hcmds)
  case upDetach =>
    obtain ⟨hrole, hlisten, hnone, hparent⟩ := upOver_stat s
    have hfld : s.upOver.roleEnd.fld = s.fld := (roleEnd_fld _).trans (upOver_fld s)
    refine runs_of_accepts (t := s.upOver.roleEnd) rfl hcmds hopc (accepts_of_run hrun) rfl fun u hexec hdone =>
      ⟨(hdone.rb rfl).trans ((rb_roleEnd _ (by decide)).trans hrole),
        (hdone.rb rfl).trans ((rb_roleEnd _ (by decide)).trans hlisten),
        (hdone.rf rfl).trans ((rf_roleEnd _ (by decide)).trans hnone), fun hidle hstarting => ?_, ?_,
        sameBytes_of_exec hexec (by simp [touched])⟩
    · refine (hdone.rf rfl).trans (fmState_roleEnd (hparent.trans hidle) ?_ hrole)
      exact (congrArg FieldSt.starting (upOver_fld s)).trans hstarting
    · exact hdone.cmds_eq ((congrArg FieldSt.cmds hfld :).trans hcmds)
  case assign =>
    have hentry : ∀ {k v}, (s.feImage ptr)[k]? = some v → ((s.keptTaken e).feInstall e ptr).feW e k = v := fun h =>
      feW_feInstall (s := s.keptTaken e) (fmEntry_lt w) h
    refine runs_of_accepts (t := (s.keptTaken e).feInstall e ptr) rfl hcmds hopc (accepts_of_open hopen) ?_ fun u hexec hdone =>
      ⟨(feValid_congr (hdone.feW ..)).trans (feValid_feInstall _ ptr (fmEntry_lt w)), (hdone.feW ..).trans (hentry rfl),
        (hdone.feW ..).trans (hentry rfl), (hdone.feW ..).trans (hentry rfl), (hdone.feW ..).trans (hentry rfl), ?_,
        fun a houtside hrecord => (hdone.byte a).trans (byte_feInstall_of_outside (s := s.keptTaken e) houtside hrecord)⟩
    · dsimp only
      rw [if_pos hok, hok]
      rfl
    · exact hdone.cmds_eq ((congrArg FieldSt.cmds (feInstall_fld (s.keptTaken e) e ptr) :).trans hcmds)
  case release =>
    obtain ⟨hfree, hempty⟩ := feRelease_clears (s.keptBefore e) (fmEntry_lt w)
    have hcourse := feRelease_course (s.keptBefore e) e
    refine runs_of_accepts (t := (s.keptBefore e).feRelease e) rfl hcmds hopc (accepts_of_on hon)
      (if_neg (by simp [e, hvalid])) fun u hexec hdone =>
      ⟨(feValid_congr (hdone.feW ..)).trans hfree, (fe_congr (hdone.feW ..) 31 0).trans hempty, ?_⟩
    exact hdone.cmds_eq ((congrArg FieldSt.cmds hcourse :).trans ((keptBefore_cmds s e).trans hcmds))
  case keyset =>
    refine runs_of_accepts (t := s.setFe e 6 9 0 (bits (w.getD 1 0) 9 0)) rfl hcmds hopc (accepts_of_open hopen) (if_pos hvalid)
      fun u hexec hdone => ⟨?_, ?_, ?_, fun a ha => ?_⟩
    · refine (fe_congr (hdone.feW ..) 9 0).trans ((fe_setFe_same _ _ _ _ (by decide) (by decide)).trans ?_)
      exact Nat.mod_eq_of_lt (bits_lt (w.getD 1 0) 9 0)
    · exact hdone.cmds_eq ((congrArg FieldSt.cmds (setFe_fld ..) :).trans hcmds)
    · exact ((regsBut_setFe _ _ _ _ _ _).weaken (List.nil_subset _)).trans hdone.regs
    · exact (hdone.byte a).trans (byte_writeN_of_outside ha)
  case dlStage =>
    obtain ⟨u, hexec, hdone⟩ := dlStage_stages hcmds hopc hrun hvalid hpresent hempty hkey
    obtain ⟨hptr, htag, hcount, hstaged, hqueue⟩ := staged_of_completed hdone (w.getD 3 0).isLt (cmdTag_lt w)
    have hfld := dlSeal_fld s e ptr (bits (w.getD 1 0) 31 16) k.key
    exact ⟨u, hexec, hptr, htag, hcount.trans (fe_counter_dlSeal ..),
      hstaged.trans (congrArg (fun f : FieldSt => f.staged ++ [e]) hfld),
      hqueue.trans ((congrArg (fun f : FieldSt => f.cmds.drop 1) hfld).trans (congrArg (List.drop 1) hcmds))⟩
  case dlCancel =>
    refine runs_of_accepts (t := s.dlEnd e St.ABORTED) rfl hcmds hopc (accepts_of_run_or_drain hstate) (if_pos hvalid)
      fun u hexec hdone => ⟨?_, ?_, ?_, ?_⟩
    · exact (fe_congr (hdone.feW ..) 31 0).trans (fe_ptr_dlEnd ..)
    · rw [hdone.staged]
      exact not_mem_staged_dlEnd _ hstaged
    · exact (counted_dlEnd hstaged (by decide)).andThen hdone.regs (by decide)
    · exact hdone.cmds_eq ((congrArg FieldSt.cmds (dlEnd_course s e St.ABORTED) :).trans hcmds)

end Sys2Proof.Machine
end

section
/-! PROOFS. The field family: the course of a superframe of the parent role (O37). -/

namespace Sys2Proof.Machine

/-! ### Refused register writes -/

/-- A refused write is recorded in the status register of its block, and in no other but the EVR's (R8). -/
theorem regsBut_refuseWrite (s : State) {w o code : Nat} (hev : (errOf w o).2 < 256) :
    RegsBut [(errOf w o).1] s (s.refuseWrite w o code) := by
  unfold State.refuseWrite
  extract_lets err
  refine RegsBut.raise ?_ hev
  split
  · next hscan => exact RegsBut.refl.wf (hscan ▸ List.mem_singleton_self _)
  · exact .ite .refl (RegsBut.refl.setReg (List.mem_singleton_self _))

/-- A write that would be refused is refused with one code or another (R8). -/
theorem writeReg_of_refused {s : State} {i a : Nat} {v : Word} {w : Window} (hw : windowOf a = some w)
    (h : s.writeRefused i a v = true) : ∃ code, s.writeReg i a v = s.refuseWrite w.num (a - w.base) code := by
  cases hrow : findRow w.rows (a - w.base) with
  | none =>
    simp only [State.writeRefused, hw, hrow] at h
    exact absurd h Bool.false_ne_true
  | some p =>
    simp only [State.writeRefused, hw, hrow, Bool.or_eq_true] at h
    simp only [State.writeReg, hw, hrow, State.fieldWrite]
    split
    · exact ⟨_, rfl⟩
    · next hrights =>
      split
      · exact ⟨_, rfl⟩
      · next hrange => exact ⟨_, if_pos ((h.resolve_left (not_or.mpr ⟨hrights, hrange⟩)))⟩

/-! ### The mode of Radio S -/

/-- The modem's registers that a change of mode may write (R137). -/
def modeRegs : List Nat := [R.MDM_SMODE .s, R.MDM_STAT .s, R.MDM_ERR .s]

theorem regsBut_fieldMode (s : State) (modeb : Nat) : RegsBut modeRegs s (s.fieldMode modeb) := by
  unfold State.fieldMode State.smodeWrite
  split
  · next hrefused =>
    obtain ⟨code, hwrite⟩ := writeReg_of_refused (w := ⟨18, 0x40230000, 0x4023FFFF, RegMap.mdm 3⟩) rfl hrefused
    rw [hwrite]
    exact (regsBut_refuseWrite s (by decide)).weaken (by decide)
  · next haccepted =>
    refine .ite (.setMdm .refl) ?_
    have hwritten : RegsBut modeRegs s (s.writeReg 17 (R.MDM_SMODE .s) (BitVec.ofNat 32 (modeb / 16))) :=
      (regsBut_writeReg (eq_false_of_ne_true haccepted)).weaken (by decide)
    exact .ite (hwritten.wf (by decide)) hwritten

theorem fieldMode_within (s : State) (modeb : Nat) : Within 145 s (s.fieldMode modeb) := .fieldMode (.refl s)

/-- Readiness follows the start steps alone (R35, R36). -/
theorem ready_congr {s t : State} (h : t.reg R.SYS_STEPOK = s.reg R.SYS_STEPOK) (k : Nat) : t.ready k = s.ready k := by
  have hstep : t.step1 = s.step1 := funext fun j => congrArg (fun w : Word => w.getLsbD j) h
  have hA : t.readyA = s.readyA := funext fun j => by rw [State.readyA, State.readyA, hstep]
  simp only [State.ready, State.readyMesh, hstep, hA]

/-- The format check of a command reads RFC_CTRL alone (R74). -/
theorem rfcFormat_congr {s t : State} {r : Radio} (h : t.rf (F.RFC_CTRL_CHAINS r) = s.rf (F.RFC_CTRL_CHAINS r)) (c : RfcCmd) :
    t.rfcFormat r c = s.rfcFormat r c := by
  simp only [State.rfcFormat, State.argOk, h]

/-! ### Transmissions -/

theorem regsBut_macPort (s : State) (r : Radio) (w : SixWords) : RegsBut [R.RFC_ERR r] s (s.macPort r w) := by
  have hrefused : ∀ code, RegsBut [R.RFC_ERR r] s (s.rfcRefuse r code) := fun code a ha he =>
    (rfcRefuse_reg s r code a he).trans (if_neg fun h => ha (List.mem_singleton.mpr h))
  exact .ite (hrefused _) (.ite (hrefused _) (.ite (hrefused _) (.ite (hrefused _) (.setRfc .refl))))

/-- Withdrawing the TX command of a refused vector ends it (R130). -/
theorem regsBut_withdrawTx (s : State) (r : Radio) (start : Nat) :
    RegsBut [R.RFC_STAT r, R.RFC_CNT_RESOVF r] s (s.withdrawTx r start) := by
  have hdone : ∀ (t : State) (c : RfcCmd) (fw : Bool) (status : Nat),
      RegsBut [R.RFC_STAT r, R.RFC_CNT_RESOVF r] t (t.rfcDone r c fw status) := fun t c fw status =>
    (regsBut_rfcDone t r c fw status).weaken (List.subset_cons_self _ _)
  unfold State.withdrawTx
  extract_lets f matches_
  split
  · refine .ite (RegsBut.trans ?_ (hdone _ _ _ _)) .refl
    exact RegsBut.refl.setRfc.wf List.mem_cons_self
  · split
    · split
      · exact hdone _ _ _ _
      · exact .refl
    · split
      · exact .ite .refl ((RegsBut.setRfc .refl).trans ((regsBut_rfcResult _ r _ _).weaken (List.subset_cons_self _ _)))
      · exact .refl

theorem regsBut_transmitVector (s : State) (r : Radio) (w : SevenWords) (stored : Bool) :
    RegsBut [R.MDM_ERR r, R.MDM_CNT_TXREJ r, R.RFC_STAT r, R.RFC_CNT_RESOVF r] s (s.transmitVector r w stored) := by
  unfold State.transmitVector
  extract_lets code counted
  refine .ite (.setMdm .refl) (RegsBut.raise ?_ (radioEv_add_lt r (by decide)))
  have hcounted : RegsBut [R.MDM_ERR r, R.MDM_CNT_TXREJ r, R.RFC_STAT r, R.RFC_CNT_RESOVF r] s counted :=
    RegsBut.bump (RegsBut.refl.setReg List.mem_cons_self) (by simp)
  exact hcounted.trans ((regsBut_withdrawTx counted r _).weaken (by simp))

/-- The registers of Radio S and its modem that a transmission may write, with its mode (R76, R130, R137). -/
def sendRegs : List Nat :=
  modeRegs ++ [R.RFC_ERR .s, R.MDM_CNT_TXREJ .s, R.RFC_STAT .s, R.RFC_CNT_RESOVF .s]

theorem regsBut_fieldSend (s : State) (psdu : List Byte) (tag : Byte) (modeb start : Nat) :
    RegsBut sendRegs s (s.fieldSend psdu tag modeb start) := by
  unfold State.fieldSend
  extract_lets p a d emitted
  have hport := regsBut_macPort emitted .s (fieldTxCommand tag start p)
  exact ((RegsBut.refl : RegsBut _ s emitted).trans (hport.weaken (by decide))).trans
    ((regsBut_transmitVector _ .s _ true).weaken (by decide))

/-- A transmission is put out, and nothing else is (R235). -/
theorem fieldSend_out (s : State) (psdu : List Byte) (tag : Byte) (modeb start : Nat) :
    (s.fieldSend psdu tag modeb start).out = .fieldTx psdu modeb (BitVec.ofNat 64 start) :: s.out := by
  unfold State.fieldSend
  extract_lets p a d emitted
  exact Within.transmitVector (m := 209) (.macPort (.refl emitted)) ⟨rfl⟩ .out rfl

theorem fieldSend_within (s : State) (psdu : List Byte) (tag : Byte) (modeb start : Nat) :
    Within 213 s (s.fieldSend psdu tag modeb start) := .fieldSend (.refl s)

/-! ### The dwell guard -/

/-- A transmission that the dwell guard permits is charged to a bin, and nothing else changes (R250, R251). -/
theorem dwell_charges {s u : State} {ns : Nat} {ctl : Bool} (h : s.dwell ns ctl = some u) :
    ∃ bins chBins, u = s.setFld fun f => { f with bins := bins, chBins := chBins } := by
  simp only [State.dwell] at h
  split at h
  · cases h
  · next g _ =>
    split at h
    · cases h
    · next l _ =>
      obtain ⟨-, hcharged⟩ := Option.ite_none_left_eq_some.mp h
      rw [← Option.some.inj hcharged, State.setDwell]
      split
      · by_cases hlisted : s.fld.chBins.any fun x => x.1 == g && x.2.1 == s.synthFreq .s
        · exact ⟨s.fld.bins, _, congrArg (fun f => { s with fld := f }) (if_pos hlisted)⟩
        · exact ⟨s.fld.bins, _, congrArg (fun f => { s with fld := f }) (if_neg hlisted)⟩
      · exact ⟨_, s.fld.chBins, rfl⟩

/-! ### The start of a superframe -/

/-- The registers that a countdown of holds may write (R236, R243). -/
def holdRegs : List Nat := R.FMAC_CNT_RELEASE :: dlEndRegs

/-- A hold that runs out releases its entry (R243). -/
theorem regsBut_holdStep (s : State) (e : Nat) : RegsBut holdRegs s (s.holdStep e) := by
  unfold State.holdStep
  refine .ite .refl ?_
  extract_lets n counted
  have hcounted : RegsBut holdRegs s counted := (regsBut_setFe s e 1 23 16 n).weaken (List.nil_subset _)
  have hreleased := hcounted.trans ((regsBut_feRelease counted e).weaken (List.subset_cons_self _ _))
  exact .ite ((hreleased.bump List.mem_cons_self).raise (by decide)) hcounted

theorem holdStep_course (s : State) (e : Nat) : (s.holdStep e).fld.course = s.fld.course := by
  unfold State.holdStep
  split
  · rfl
  · extract_lets n counted
    have hcounted : counted.fld = s.fld := setFe_fld ..
    split
    · rw [raise_fld, bump_fld, feRelease_course, hcounted]
    · rw [hcounted]

/-- The countdown of holds leaves the course of the superframe (R243). -/
theorem holdSteps_stand (s : State) (l : List Nat) :
    (l.foldl (fun t e => t.holdStep e) s).fld.course = s.fld.course ∧
      RegsBut holdRegs s (l.foldl (fun t e => t.holdStep e) s) :=
  List.foldlRecOn (motive := fun t : State => t.fld.course = s.fld.course ∧ RegsBut holdRegs s t) l _ ⟨rfl, .refl⟩
    fun t ht e _ => ⟨(holdStep_course t e).trans ht.1, ht.2.trans (regsBut_holdStep t e)⟩

/-- The next owner map takes effect, and no poll has been heard (R216, R232). -/
def State.sfOpen (s : State) : State := s.setFld fun f => { f with own := f.nextOwn, heard := [], await := none }

/-- A parent role that was to start has started (R258). -/
def State.sfBegin (s : State) : State :=
  if s.fld.starting then (s.wb F.FMAC_STAT_PARENT true).setFld (fun f => { f with starting := false }) else s

theorem exec_superframeStart {s : State} (h : s.fmState ≠ Fm.OFF) :
    exec .superframeStart s =
      .next (s.sfOpen.sfBegin.validEntries.foldl (fun t e => t.holdStep e) s.sfOpen.sfBegin) := if_neg h

theorem sfBegin_fld (s : State) : s.sfBegin.fld = { s.fld with starting := false } := by
  unfold State.sfBegin
  split
  · rfl
  · next h => rw [← eq_false_of_ne_true h]

theorem sfBegin_parent {s : State} (h : s.fld.starting = true) : s.sfBegin.rb F.FMAC_STAT_PARENT = true := by
  rw [State.sfBegin, if_pos h, setFld_rb]
  exact rb_wb_same _ _ rfl (by decide)

/-- Owners of the next superframe: those of the valid entries, and the one that a RELEASE before its ASSIGN keeps (R232). -/
def State.nextOwners (s : State) : List FieldOwner :=
  (s.validEntries.map fun e => s.ownerOf e).filter fun o => owns o.w0 (s.sfNum + 1)

/-- The map built is that of the valid entries, or has one owner more before it (R232). -/
theorem ownerMapBuild_maps (s : State) : ∃ l : List FieldOwner,
    exec .ownerMapBuild s = .next (s.setFld fun f => { f with nextOwn := l }) ∧ s.nextOwners ⊆ l ∧
      ∀ o ∈ l, owns o.w0 (s.sfNum + 1) = true := by
  have hown : ∀ o ∈ s.nextOwners, owns o.w0 (s.sfNum + 1) = true := fun o ho => (List.mem_filter.mp ho).2
  refine ⟨_, rfl, ?_⟩
  split
  · next o _ =>
    split
    · next hkeeps =>
      refine ⟨List.subset_cons_self _ _, List.forall_mem_cons.mpr ⟨?_, hown⟩⟩
      exact (Bool.and_eq_true_iff.mp hkeeps).1
    · exact ⟨List.Subset.refl _, hown⟩
  · exact ⟨List.Subset.refl _, hown⟩

/-! ### Beacons -/

/-- A beacon that is permitted is charged, numbered, counted and sent (R226, R228). -/
theorem beaconGo_of_permitted {s u : State} {k : KeySlot}
    (hkey : s.fieldSnap (s.rf F.FMAC_KEYS_NET) Usage.ENC = some k) (hradio : s.radioTakes (s.rf F.FMAC_CHAN_REC) = true)
    (hdwell : s.dwell (fieldAirNs (s.rf F.FMAC_MODES_BCN) (s.beaconPsdu k.key).length) true = some u) :
    s.beaconGo =
      (((u.setFld fun f => { f with seq := u.fld.seq + 1, bcnCnt := f.bcnCnt + 1 }).bump R.FMAC_CNT_BCN).fieldMode
        (s.rf F.FMAC_MODES_BCN)).fieldSend (s.beaconPsdu k.key) u.fld.seq (s.rf F.FMAC_MODES_BCN) s.beaconStart := by
  simp only [State.beaconGo, hkey, hradio, hdwell, Bool.not_true, Bool.false_eq_true, if_false]

/-! ### Polls missed -/

theorem regsBut_fieldRecState (s : State) (e st : Nat) : RegsBut [R.STP_STAT] s (s.fieldRecState e st) :=
  .ite (regsBut_setRecState s (feRec e) st) .refl

theorem fieldRecState_recordAlone (s : State) (e st : Nat) : RecordAlone (feRec e) s (s.fieldRecState e st) :=
  .ite .setRecState .refl

theorem fieldRecState_fld (s : State) (e st : Nat) : (s.fieldRecState e st).fld = s.fld :=
  Within.fieldRecState (m := 3) (.refl s) ⟨rfl⟩ .fld rfl

/-- The child's next window is in its record (R212, R234). -/
theorem fieldNext_recordAlone (s : State) (e k : Nat) : RecordAlone (feRec e) s (s.fieldNext e k) := by
  unfold State.fieldNext
  refine .ite .refl ?_
  extract_lets next predicted
  have hpredicted : RecordAlone (feRec e) s predicted := .ite (.trans (.setRecGt (by decide)) .predict) .refl
  exact hpredicted.trans (.setRec (by decide))

theorem fieldNext_within (s : State) (e k : Nat) : Within 2 s (s.fieldNext e k) := .fieldNext (.refl s)

/-- The registers that a missed poll may write, beside its counter (R242, R243). -/
def missRegs : List Nat := [R.STP_STAT, R.FMAC_CNT_ABSENT]

theorem regsBut_childAbsent (s : State) (e : Nat) : RegsBut missRegs s (s.childAbsent e) := by
  unfold State.childAbsent
  extract_lets held
  have hheld : RegsBut [] s held := (regsBut_setFe _ _ _ _ _ _).trans (regsBut_setFe _ _ _ _ _ _)
  have hstate := (hheld.weaken (List.nil_subset missRegs)).trans ((regsBut_fieldRecState held e Cl.ABSENT).weaken (by decide))
  exact (hstate.bump (by decide)).raise (by decide)

theorem childAbsent_fld (s : State) (e : Nat) : (s.childAbsent e).fld = s.fld :=
  Within.childAbsent (m := 19) (.refl s) ⟨rfl⟩ .fld rfl

/-- The third miss leaves the count of misses (R243). -/
theorem misses_childAbsent (s : State) {e : Nat} (he : e < 1024) :
    (s.childAbsent e).fe e 1 15 12 = s.fe e 1 15 12 := by
  unfold State.childAbsent
  extract_lets held
  have hmem : (((held.fieldRecState e Cl.ABSENT).bump R.FMAC_CNT_ABSENT).raise 74).mem = (held.fieldRecState e Cl.ABSENT).mem := by
    rw [raise_mem, bump_mem]
  calc (((held.fieldRecState e Cl.ABSENT).bump R.FMAC_CNT_ABSENT).raise 74).fe e 1 15 12
      = (held.fieldRecState e Cl.ABSENT).fe e 1 15 12 := fe_congr (feW_congr hmem e 1) 15 12
    _ = held.fe e 1 15 12 := fe_congr ((fieldRecState_recordAlone held e Cl.ABSENT).feW he 1) 15 12
    _ = (s.setFe e 0 30 30 1).fe e 1 15 12 := fe_setFe_apart _ _ _ _ (by decide)
    _ = s.fe e 1 15 12 := fe_congr (feW_setFe s e 0 30 30 1 1) 15 12

/-- A miss noted: the entry's count of misses, and the record's where there is one (R242). -/
def State.missNoted (s : State) (e : Nat) : State :=
  let t := s.setFe e 1 15 12 (min (s.fe e 1 15 12 + 1) 3)
  if t.hasRec e then t.setRec (feRec e) 51 15 12 (min (s.fe e 1 15 12 + 1) 3) else t

/-- A miss is noted and counted; the child is then absent, still on hold, or its window widens (R242, R243). -/
theorem pollMiss_eq (s : State) (e : Nat) :
    let t := ((s.missNoted e).bump R.FMAC_CNT_MISSP).raise 74
    s.pollMiss e = if s.fe e 1 15 12 = 2 then t.childAbsent e else if t.feHold e then t else t.fieldRecState e Cl.WIDEN := rfl

theorem missNoted_within (s : State) (e : Nat) : Within 2 s (s.missNoted e) := by
  unfold State.missNoted
  extract_lets t
  exact .ite (.setRec (.setFe (.refl s))) (.setFe (.refl s))

theorem misses_missNoted (s : State) {e : Nat} (he : e < 1024) :
    (s.missNoted e).fe e 1 15 12 = min (s.fe e 1 15 12 + 1) 3 := by
  unfold State.missNoted
  extract_lets t
  have hrecord : RecordAlone (feRec e) t
      (if t.hasRec e then t.setRec (feRec e) 51 15 12 (min (s.fe e 1 15 12 + 1) 3) else t) := .ite (.setRec (by decide)) .refl
  refine (fe_congr (hrecord.feW he 1) 15 12).trans ((fe_setFe_same _ _ _ _ (by decide) (by decide)).trans ?_)
  exact Nat.mod_eq_of_lt (Nat.lt_of_le_of_lt (Nat.min_le_right ..) (by decide))

/-- A missed poll counts in the entry, up to 3, and in MISSP; of the field MAC's own state nothing changes (R242). -/
theorem pollMiss_counts (s : State) {e : Nat} (he : e < 1024) :
    (s.pollMiss e).fe e 1 15 12 = min (s.fe e 1 15 12 + 1) 3 ∧ Counted R.FMAC_CNT_MISSP s (s.pollMiss e) ∧
      (s.pollMiss e).fld = s.fld := by
  rw [pollMiss_eq]
  generalize ht : ((s.missNoted e).bump R.FMAC_CNT_MISSP).raise 74 = t
  have hnoted := missNoted_within s e
  have hmem : t.mem = (s.missNoted e).mem := by rw [← ht, raise_mem, bump_mem]
  have hmiss : t.fe e 1 15 12 = min (s.fe e 1 15 12 + 1) 3 :=
    (fe_congr (feW_congr hmem e 1) 15 12).trans (misses_missNoted s he)
  have hfld : t.fld = s.fld := by rw [← ht, raise_fld, bump_fld, hnoted .fld rfl]
  have hregs : RegsBut [] s (s.missNoted e) := regsBut_of_regs (hnoted .regs rfl)
  have hcount : Counted R.FMAC_CNT_MISSP s t :=
    ht ▸ ((counted_bump _ _).after hregs (by decide)).andThen (RegsBut.refl.raise (l := []) (by decide)) (by decide)
  split
  · exact ⟨(misses_childAbsent t he).trans hmiss, hcount.andThen (regsBut_childAbsent t e) (by decide),
      (childAbsent_fld t e).trans hfld⟩
  · split
    · exact ⟨hmiss, hcount, hfld⟩
    · exact ⟨(fe_congr ((fieldRecState_recordAlone t e Cl.WIDEN).feW he 1) 15 12).trans hmiss,
        hcount.andThen (regsBut_fieldRecState t e Cl.WIDEN) (by decide), (fieldRecState_fld t e Cl.WIDEN).trans hfld⟩

/-- The window of an entry has closed (R234). -/
def State.pollClosed (s : State) (e : Nat) : State := s.setFld fun f => { f with heard := e :: f.heard, await := none }

/-- A window of the superframe that closes unheard while its radio listened is a miss (R234, R242). -/
theorem exec_pollWindowEnd_of_unheard {s : State} {e : Fin 1024} (hparent : s.rb F.FMAC_STAT_PARENT = true)
    (howned : s.fld.own.any (fun o => o.entry == e.val) = true) (hunheard : s.fld.heard.contains e.val = false)
    (hvalid : s.feValid e.val = true) (hserving : s.rb F.FMAC_STAT_LL = false)
    (hsusp : s.hasRec e.val = true → s.recState (feRec e.val) ≠ Cl.SUSP) (hready : s.ready (Fn.RADIO 3) = true)
    (hrec : s.rf (F.RFC_STAT_ACTREC .s) = s.rf F.FMAC_CHAN_REC) :
    exec (.pollWindowEnd e) s = .next (((s.pollClosed e.val).pollMiss e.val).fieldNext e.val (s.pollClosed e.val).sfNum) := by
  have hopen : ¬ (!s.rb F.FMAC_STAT_PARENT || !s.fld.own.any (fun o => o.entry == e.val) || s.fld.heard.contains e.val ||
      !s.feValid e.val) = true := by
    rw [hparent, howned, hunheard, hvalid]
    decide
  have hlistened : ¬ (s.rb F.FMAC_STAT_LL || (s.hasRec e.val && s.recState (feRec e.val) == Cl.SUSP)) = true := by
    cases hhas : s.hasRec e.val with
    | false => simp [hserving]
    | true => simp [hserving, hsusp hhas]
  have hradio : ¬ (!s.ready (Fn.RADIO 3) || s.rf (F.RFC_STAT_ACTREC .s) != s.rf F.FMAC_CHAN_REC) = true := by
    simp [hready, hrec]
  exact (if_neg hopen).trans ((if_neg hlistened).trans (if_neg hradio))

/-! ### Frames received -/

/-- The units reserved for a field frame go back to pool 3 (R12, R17). -/
theorem regsBut_fieldDrop (s : State) : RegsBut [R.QMG_RPOOLUSE 3] s s.fieldDrop :=
  RegsBut.wf (regsBut_of_regs rfl) (List.mem_singleton_self _)

theorem fieldDrop_fld (s : State) : s.fieldDrop.fld = s.fld := Within.unreserve (m := 4097) (.refl s) ⟨rfl⟩ .fld rfl

theorem fieldDrop_mem (s : State) : s.fieldDrop.mem = s.mem := Within.unreserve (m := 4097) (.refl s) ⟨rfl⟩ .mem rfl

/-- A frame whose FCS fails is dropped and counted (R221). -/
theorem exec_fieldFrameReceive_of_badFcs {s : State} {f : FieldRx} (hrun : Fm.RUN ≤ s.fmState)
    (hfcs : f.fcs2 = true ∨ fieldFcsOk f.data = false) :
    exec (.fieldFrameReceive f) s = .next (s.fieldDrop.bump R.FMAC_CNT_FCS) :=
  (if_neg (Nat.not_lt.mpr hrun)).trans (if_pos (by rcases hfcs with h | h <;> simp [h]))

/-- A whole ACK goes to the frame it acknowledges (R224). -/
theorem exec_fieldFrameReceive_of_ack {s : State} {f : FieldRx} (hrun : Fm.RUN ≤ s.fmState) (hfirst : f.fcs2 = false)
    (hfcs : fieldFcsOk f.data = true) (htype : fcType (fnum f.data 0 2) = 2) (hver : fcVer (fnum f.data 0 2) = 1) :
    exec (.fieldFrameReceive f) s = .next (s.fieldAck f) := by
  refine (if_neg (Nat.not_lt.mpr hrun)).trans ((if_neg ?_).trans ((if_neg ?_).trans (if_pos htype)))
  · rw [hfirst, hfcs]
    decide
  · rw [htype, hver]
    decide

/-- The ACK that is awaited ends the staged frame with OK (R236). -/
theorem fieldAck_of_awaited {s : State} {f : FieldRx} {e : Nat} (h : s.fld.await = some (e, f.data.getD 2 0)) :
    s.fieldAck f = (s.fieldDrop.dlEnd e St.OK).setFld fun x => { x with await := none } := by
  simp only [State.fieldAck, h, if_true]

/-! ### Responses -/

theorem exchangeOver_within (s : State) (e : Option Nat) : Within 3 s (s.exchangeOver e) := .exchangeOver (.refl s)

theorem fieldSend_fld (s : State) (psdu : List Byte) (tag : Byte) (modeb start : Nat) :
    (s.fieldSend psdu tag modeb start).fld = s.fld := fieldSend_within s psdu tag modeb start .fld rfl

theorem tcPost_fld (s : State) (e : Nat) (tc : Int) : (s.tcPost e tc).fld = s.fld :=
  Within.tcPost (m := 2) (.refl s) ⟨rfl⟩ .fld rfl

theorem resp_of_dwell {s u : State} {ns : Nat} {ctl : Bool} (h : s.dwell ns ctl = some u) : u.fld.resp = s.fld.resp := by
  obtain ⟨bins, chBins, rfl⟩ := dwell_charges h
  rfl

theorem resp_dwellRefused (s : State) : s.dwellRefused.fld.resp = s.fld.resp :=
  congrArg FieldSt.resp (Within.dwellRefused (m := 17) (.refl s) ⟨rfl⟩ .fld rfl)

theorem resp_setAwait (s : State) (x : Option (Nat × Byte)) :
    (s.setFld fun f => { f with await := x }).fld.resp = s.fld.resp := rfl

/-- An ACK answers no other response (R235). -/
theorem resp_sendAck (s : State) (r : FieldResp) (start : Nat) : (s.sendAck r start).fld.resp = s.fld.resp := by
  simp only [State.sendAck]
  split
  · exact resp_dwellRefused s
  · next u hdwell =>
    rw [fieldSend_fld]
    refine Eq.trans ?_ (resp_of_dwell hdwell)
    split
    · split
      · rw [tcPost_fld]
      · rfl
    · rfl

/-- A response that has been given is no longer there to give, whether it is DATA or an ACK (R235). -/
theorem resp_fieldRespond (s : State) (r : FieldResp) : (s.fieldRespond r).fld.resp = s.fld.resp := by
  simp only [State.fieldRespond]
  split
  · exact resp_sendAck ..
  · next e _ =>
    split
    · exact resp_sendAck ..
    · split
      · exact resp_sendAck ..
      · split
        · exact (resp_sendAck ..).trans (resp_dwellRefused s)
        · next u hdwell =>
          rw [fieldSend_fld, resp_setAwait, setFe_fld]
          refine Eq.trans ?_ (resp_of_dwell hdwell)
          split
          · rw [tcPost_fld]
          · rfl

/-- The response is taken (R235). -/
def State.respTaken (s : State) : State := s.setFld fun f => { f with resp := none }

theorem exec_fieldResponse {s : State} {r : FieldResp} (h : s.fld.resp = some r) :
    exec .fieldResponse s =
      if !s.radioTakes (s.rf (F.RFC_STAT_ACTREC .s)) then .next (s.respTaken.radioRejected.exchangeOver r.entry)
      else .next ((s.respTaken.fieldRespond r).exchangeOver r.entry) := by
  show execFieldResponse s = _
  simp only [execFieldResponse, h]
  rfl

/-- A response goes out once, whether the radio takes it or not (R235). -/
theorem fieldResponse_once {s : State} {r : FieldResp} (h : s.fld.resp = some r) :
    Runs .fieldResponse s fun t => t.fld.resp = none := by
  have hrejected : s.respTaken.radioRejected.fld = s.respTaken.fld :=
    Within.radioRejected (m := 17) (.refl _) ⟨rfl⟩ .fld rfl
  have hover : ∀ t : State, (t.exchangeOver r.entry).fld = t.fld := fun t => exchangeOver_within t r.entry .fld rfl
  cases htakes : s.radioTakes (s.rf (F.RFC_STAT_ACTREC .s)) with
  | false =>
    exact ⟨_, (exec_fieldResponse h).trans (if_pos (by rw [htakes]; rfl)),
      (congrArg FieldSt.resp ((hover _).trans hrejected) :)⟩
  | true =>
    exact ⟨_, (exec_fieldResponse h).trans (if_neg (by rw [htakes]; decide)),
      (congrArg FieldSt.resp (hover _)).trans (resp_fieldRespond s.respTaken r)⟩

/-- To a device without an entry the response is an ACK without FP (R235, R238). -/
theorem fieldRespond_of_joiner {s v : State} {r : FieldResp} (hentry : r.entry = none)
    (hdwell : s.dwell (fieldAirNs r.mode (ackPsdu r.seq false (r.plain && !r.dup) r.tc).length) true = some v) :
    s.fieldRespond r = v.fieldSend (ackPsdu r.seq false (r.plain && !r.dup) r.tc) r.seq r.mode
      (r.last.toNat + s.usToUnits (s.rf F.FMAC_TURN_US)) := by
  simp only [State.fieldRespond, State.sendAck, hentry, hdwell]

/-! ### Regions -/

/-- The command of the Pass region is an RX (R238). -/
theorem opc_rxCommand_mem (chains : Nat) : (rfcCmdOf (rxCommand chains)).opc ∈ [5, 6, 7, 11] := by
  have hopc : (rfcCmdOf (rxCommand chains)).opc = 5 := (by decide : bits 0x0500C000 31 24 = 5)
  rw [hopc]
  decide

/-- A radio that takes a command is ready, and its MAC port is free (R78, R239). -/
theorem ready_of_radioTakes {s : State} {rec_ : Nat} (h : s.radioTakes rec_ = true) :
    s.ready (Fn.RADIO 3) = true ∧ (s.rfc.get .s).port = none := by
  simp only [State.radioTakes, Bool.and_eq_true, Option.isNone_iff_eq_none] at h
  obtain ⟨⟨⟨hready, -⟩, hfree⟩, -⟩ := h
  exact ⟨hready, hfree⟩

/-! ### The obligation -/

/-- Settles O37: each event's effect is said by the lemma of its operation; a transmission leaves all but its output, the
registers of Radio S and its modem, and their state (`fieldSend_out`, `regsBut_fieldSend`, `fieldSend_within`). -/
theorem fieldSuperframe : Obligations.FieldSuperframe := by
  unfold Obligations.FieldSuperframe
  intro s
  have hfm : ¬ evrAddr R.FMAC_STAT := not_evrAddr_of_ge (by decide)
  refine ⟨fun hon => ?start, ?map, fun k u hrun hparent hserving hkey hradio hdwell => ?beacon,
    fun hrun hparent hlisten => ?skip, fun hserving hpass hradio hformat => ?pass,
    fun hserving hready hfree hformat => ?valley,
    fun e hparent howned hunheard hvalid hserving hsusp hready hrec => ?poll,
    fun f hrun => ⟨fun hfcs => ?badFcs, fun e hfirst hfcs htype hver hawait => ?ack⟩,
    fun r hresp => ⟨fieldResponse_once hresp, fun v hentry hradio hdwell => ?response⟩⟩
  case start =>
    obtain ⟨hcourse, hregs⟩ := holdSteps_stand s.sfOpen.sfBegin s.sfOpen.sfBegin.validEntries
    rw [sfBegin_fld] at hcourse
    refine ⟨_, exec_superframeStart hon, (congrArg FieldSt.own hcourse :), (congrArg FieldSt.heard hcourse :),
      (congrArg FieldSt.starting hcourse :), fun hstarting => ?_⟩
    exact (hregs.rb (by decide) hfm).trans (sfBegin_parent hstarting)
  case map =>
    obtain ⟨l, hexec, howners, hown⟩ := ownerMapBuild_maps s
    exact ⟨_, hexec, hown,
      fun e he howns => howners (List.mem_filter.mpr ⟨List.mem_map_of_mem he, howns⟩), rfl, fun _ => rfl⟩
  case beacon =>
    have hexec : exec .fieldBeaconCommit s = .next s.beaconGo :=
      (if_neg (by simp [hrun, hparent])).trans (if_neg (by rw [hserving]; decide))
    have hbytes := sameBytes_of_exec hexec (by simp [touched])
    rw [beaconGo_of_permitted hkey hradio hdwell] at hexec hbytes
    obtain ⟨bins, chBins, rfl⟩ := dwell_charges hdwell
    refine ⟨_, hexec, ?_, ?_, ?_, ?_, hbytes⟩
    · rw [fieldSend_out, fieldMode_within _ _ .out rfl, bump_out]
      rfl
    · rw [fieldSend_fld, fieldMode_within _ _ .fld rfl, bump_fld]
      rfl
    · rw [fieldSend_fld, fieldMode_within _ _ .fld rfl, bump_fld]
      rfl
    · have hnumbered : ∀ f g, RegsBut [] s ((s.setFld f).setFld g) := fun _ _ => .setFld (.setFld .refl)
      exact (((counted_bump _ _).after (hnumbered _ _) (by decide)).andThen (regsBut_fieldMode _ _) (by decide)).andThen
        (regsBut_fieldSend _ _ _ _ _) (by decide)
  case skip =>
    have hexec : exec .fieldBeaconCommit s = .next s.beaconSkip :=
      (if_neg (by simp [hrun, hparent])).trans (if_pos hlisten)
    refine ⟨_, hexec, ?_, ?_, sameBytes_of_exec hexec (by simp [touched])⟩
    · exact (counted_bump _ _).andThen (RegsBut.refl.raise (l := []) (by decide)) (by decide)
    · exact (RegsBut.refl.bump (List.mem_singleton_self _)).raise (by decide)
  case pass =>
    obtain ⟨hready, hfree⟩ := ready_of_radioTakes hradio
    have hmode := regsBut_fieldMode s (s.rf F.FMAC_MODES_PASS)
    have hin : ∀ {a}, a ∉ modeRegs ∧ 0x40020000 ≤ a → (s.fieldMode (s.rf F.FMAC_MODES_PASS)).reg a = s.reg a := fun ha =>
      hmode.reg ha.1 (not_evrAddr_of_ge ha.2)
    have hrfc : (s.fieldMode (s.rf F.FMAC_MODES_PASS)).rfc = s.rfc := fieldMode_within s _ .rfc rfl
    have hport := macPort_of_wellFormed (s := s.fieldMode (s.rf F.FMAC_MODES_PASS)) (r := .s)
      (w := rxCommand (s.rf (F.RFC_CTRL_CHAINS .s))) ((ready_congr (hin (by decide)) _).trans hready) (opc_rxCommand_mem _)
      ((rfcFormat_congr (congrArg (fun v => bits v _ _) (hin (by decide))) _).trans hformat) (by rw [hrfc, hfree])
    have hexec : exec .passRegionStart s = .next ((s.fieldMode (s.rf F.FMAC_MODES_PASS)).macPort .s
        (rxCommand (s.rf (F.RFC_CTRL_CHAINS .s)))) :=
      (if_neg (by simp [hserving, hpass])).trans (if_neg (by rw [hradio]; decide))
    refine ⟨_, hexec, ?_, sameBytes_of_exec hexec (by simp [touched])⟩
    rw [hport, setRfc_rfc_get]
  case valley =>
    let t := s.setFld fun f => { f with await := none }
    have hexec : exec .valleyStart s = .next (t.macPort .s idleCommand) := if_pos hserving
    rw [macPort_of_wellFormed (s := t) (r := .s) (w := idleCommand) hready (by decide) hformat hfree] at hexec
    exact ⟨_, hexec, congrArg RfcSt.port (setRfc_rfc_get t .s _), rfl, rfl, fun _ => rfl⟩
  case poll =>
    obtain ⟨hmisses, hcount, hfld⟩ := pollMiss_counts (s.pollClosed e.val) e.isLt
    have hnext := fieldNext_within ((s.pollClosed e.val).pollMiss e.val) e.val (s.pollClosed e.val).sfNum
    refine ⟨_, exec_pollWindowEnd_of_unheard hparent howned hunheard hvalid hserving hsusp hready hrec, ?_, ?_, ?_⟩
    · exact (fe_congr ((fieldNext_recordAlone _ e.val _).feW e.isLt 1) 15 12).trans hmisses
    · have hclosed : Counted R.FMAC_CNT_MISSP s ((s.pollClosed e.val).pollMiss e.val) := hcount
      exact hclosed.andThen (regsBut_of_regs (l := []) (hnext .regs rfl)) (by decide)
    · rw [hnext .fld rfl, hfld]
      exact List.contains_iff_mem.mpr List.mem_cons_self
  case badFcs =>
    refine ⟨_, exec_fieldFrameReceive_of_badFcs hrun hfcs, ?_, ?_, ?_⟩
    · exact (counted_bump _ _).after (regsBut_fieldDrop s) (by decide)
    · rw [bump_fld, fieldDrop_fld]
    · exact sameBytes_of_mem ((bump_mem ..).trans (fieldDrop_mem s))
  case ack =>
    have hexec := exec_fieldFrameReceive_of_ack hrun hfirst hfcs htype hver
    rw [fieldAck_of_awaited hawait] at hexec
    exact ⟨_, hexec, rfl, (fe_congr (feW_congr (setFld_mem ..) e 2) 31 0).trans (fe_ptr_dlEnd ..)⟩
  case response =>
    have hexec := (exec_fieldResponse hresp).trans (if_neg (by rw [hradio]; decide))
    rw [fieldRespond_of_joiner (s := s.respTaken) hentry hdwell, hentry] at hexec
    obtain ⟨bins, chBins, rfl⟩ := dwell_charges hdwell
    refine ⟨_, hexec, fieldSend_out .., ?_, sameBytes_of_mem (fieldSend_within _ _ _ _ _ .mem rfl)⟩
    exact congrArg FieldSt.resp (fieldSend_fld ..)

end Sys2Proof.Machine
end

section
/-! PROOFS. The field family: the upstream role (O38). -/

namespace Sys2Proof.Machine

/-! ### Polls of the parent -/

/-- A poll that is permitted is charged, numbered and sent, and its answer awaited (R233). -/
theorem exec_upstreamPoll_of_permitted {s u : State} {start : GTime} {queued : BitVec 8} {status : BitVec 7}
    {data : Option (List (BitVec 8))} {enc : Bool} {k : KeySlot} (hpolls : s.upPolls = true)
    (hkey : s.fieldSnap (s.rf F.FMAC_UP_KEY_SLOT) Usage.ENC = some k) (hradio : s.radioTakes (s.rf F.FMAC_UP_CTRL_REC) = true)
    (hdwell : s.dwell (fieldAirNs (s.rf F.FMAC_UP_MODE_POLL) (s.upPsdu k.key queued status data enc).length) false = some u) :
    exec (.upstreamPoll start queued status data enc) s =
      .next ((u.setFld fun f => { f with seq := u.fld.seq + 1, upCnt := f.upCnt + 1, upAwait := some u.fld.seq }).fieldSend
        (s.upPsdu k.key queued status data enc) u.fld.seq (s.rf F.FMAC_UP_MODE_POLL) start.toNat) := by
  show execUpstreamPoll start queued status data enc s = _
  simp only [execUpstreamPoll, hpolls, hkey, hradio, hdwell, Bool.not_true, Bool.false_eq_true, if_false]

/-! ### Missed beacons -/

theorem mem_ptabRegs {j a : Nat} (hj : j ∈ ptabs) (h : a ∈ [ptabReg j 0, ptabReg j 1, ptabReg j 2, ptabReg j 3]) :
    a ∈ ptabRegs := List.mem_flatMap.mpr ⟨j, hj, h⟩

/-- The reception rate of an entry moves that entry alone (R248). -/
theorem regsBut_rrStep (s : State) {j : Nat} (hj : j ∈ ptabs) (hit : Bool) : RegsBut ptabRegs s (s.rrStep j hit) := by
  unfold State.rrStep
  extract_lets rr rate
  have hword : R.FMAC_PTAB_W2 j = ptabReg j 2 := by
    unfold ptabReg R.FMAC_PTAB_W2 R.FMAC_PTAB_W0
    omega
  have hrate : RegsBut ptabRegs s (s.wf (F.FMAC_PTAB_W2_RR j) rate.toNat) :=
    RegsBut.refl.wf (mem_ptabRegs hj (by simp [F.FMAC_PTAB_W2_RR, hword]))
  exact hrate.trans (regsBut_ptabKeep _ hj)

/-- The present parent's entry takes the miss into its reception rate (R248). -/
def State.missRated (s : State) : State :=
  match s.ptabCur with
  | some j => s.rrStep j false
  | none => s

theorem regsBut_missRated (s : State) : RegsBut ptabRegs s s.missRated := by
  unfold State.missRated
  split
  · next j hcur => exact regsBut_rrStep s (List.mem_of_find?_eq_some hcur) false
  · exact .refl

theorem missRated_fld (s : State) : s.missRated.fld = s.fld := by
  unfold State.missRated
  split
  · exact Within.rrStep (m := 1) (.refl s) ⟨rfl⟩ .fld rfl
  · rfl

/-- A missed beacon is counted, in the field MAC and in its counter (R245). -/
def State.missCounted (s : State) : State :=
  ((s.setFld fun f => { f with missb := f.missb + 1 }).bump R.FMAC_CNT_UPMISSB).raise 75

/-- The first miss widens the window (R245). -/
def State.missWidened (s : State) : State :=
  if s.ustate = Fm.TRACK then s.missCounted.missRated.upEnter Fm.WIDEN else s.missCounted.missRated

/-- The third consecutive miss begins the hold (R246). -/
theorem upMiss_eq (s : State) :
    s.upMiss = if s.fld.missb + 1 == 3 then ((s.missWidened.upEnter Fm.HOLD).bump R.FMAC_CNT_UPSILENT).raise 75
      else s.missWidened := rfl

theorem missCounted_fld (s : State) : s.missCounted.fld = { s.fld with missb := s.fld.missb + 1 } :=
  (raise_fld ..).trans (bump_fld ..)

theorem missWidened_fld (s : State) : s.missWidened.fld = { s.fld with missb := s.fld.missb + 1 } := by
  have hrated := (missRated_fld s.missCounted).trans (missCounted_fld s)
  unfold State.missWidened
  split
  · exact hrated
  · exact hrated

/-- The registers that a miss may write beside its counter (R245, R248). -/
def upMissRegs : List Nat := R.FMAC_STAT :: ptabRegs

theorem counted_missWidened (s : State) : Counted R.FMAC_CNT_UPMISSB s s.missWidened := by
  have hset : RegsBut [] s (s.setFld fun f => { f with missb := f.missb + 1 }) := .setFld .refl
  have hcounted : Counted R.FMAC_CNT_UPMISSB s s.missCounted :=
    ((counted_bump _ _).after hset (by decide)).andThen (RegsBut.refl.raise (l := []) (by decide)) (by decide)
  have hrated : RegsBut upMissRegs s.missCounted s.missCounted.missRated :=
    (regsBut_missRated _).weaken (List.subset_cons_self _ _)
  have hwidened : RegsBut upMissRegs s.missCounted s.missWidened := .ite (hrated.wf List.mem_cons_self) hrated
  exact hcounted.andThen hwidened (by decide)

/-- What a missed beacon leads to (R245, R246). -/
theorem upMiss_effect (s : State) :
    s.upMiss.fld.missb = s.fld.missb + 1 ∧ Counted R.FMAC_CNT_UPMISSB s s.upMiss ∧
      (s.fld.missb = 2 → s.upMiss.ustate = Fm.HOLD) ∧
      (s.fld.missb ≠ 2 → s.ustate = Fm.TRACK → s.upMiss.ustate = Fm.WIDEN) := by
  have hmissb : s.missWidened.fld.missb = s.fld.missb + 1 := congrArg FieldSt.missb (missWidened_fld s)
  have hcounted := counted_missWidened s
  rw [upMiss_eq]
  by_cases hthird : s.fld.missb = 2
  · rw [if_pos (by simp [hthird])]
    have hheld : RegsBut [R.FMAC_STAT, R.FMAC_CNT_UPSILENT] s.missWidened
        (((s.missWidened.upEnter Fm.HOLD).bump R.FMAC_CNT_UPSILENT).raise 75) :=
      RegsBut.raise (RegsBut.bump (RegsBut.wf .refl List.mem_cons_self) (by decide)) (by decide)
    have hsilent : RegsBut [R.FMAC_CNT_UPSILENT] (s.missWidened.upEnter Fm.HOLD)
        (((s.missWidened.upEnter Fm.HOLD).bump R.FMAC_CNT_UPSILENT).raise 75) :=
      (RegsBut.refl.bump (List.mem_singleton_self _)).raise (by decide)
    refine ⟨?_, hcounted.andThen hheld (by decide), fun _ => ?_, fun hfirst => absurd hthird hfirst⟩
    · rw [raise_fld, bump_fld]
      exact hmissb
    · exact (hsilent.rf (by decide) (not_evrAddr_of_ge (by decide))).trans (ustate_upEnter _ (by decide))
  · rw [if_neg (by simp [hthird])]
    refine ⟨hmissb, hcounted, fun h => absurd h hthird, fun _ htrack => ?_⟩
    rw [State.missWidened, if_pos htrack]
    exact ustate_upEnter _ (by decide)

/-! ### The long listen -/

/-- A long listen preempts the parent role and is counted (R247). -/
theorem longListen_begins (s : State) :
    s.longListen.ustate = Fm.LISTEN ∧ s.longListen.rb F.FMAC_STAT_LL = true ∧ Counted R.FMAC_CNT_UPLISTEN s s.longListen ∧
      RegsBut [R.FMAC_STAT, R.FMAC_CNT_UPLISTEN] s s.longListen := by
  unfold State.longListen
  have hfm : ¬ evrAddr R.FMAC_STAT := not_evrAddr_of_ge (by decide)
  generalize hbegun : (s.upEnter Fm.LISTEN).wb F.FMAC_STAT_LL true = begun
  have hcounted : RegsBut [R.FMAC_CNT_UPLISTEN] begun ((begun.bump R.FMAC_CNT_UPLISTEN).raise 75) :=
    (RegsBut.refl.bump (List.mem_singleton_self _)).raise (by decide)
  have hstat : RegsBut [R.FMAC_STAT] s begun :=
    hbegun ▸ RegsBut.wb (RegsBut.wf .refl (List.mem_singleton_self _)) (List.mem_singleton_self _)
  have hlisten : begun.ustate = Fm.LISTEN := by
    rw [← hbegun]
    exact (rf_wf_apart _ _ (by decide)).trans (ustate_upEnter _ (by decide))
  have hpreempts : begun.rb F.FMAC_STAT_LL = true := hbegun ▸ rb_wb_same _ _ rfl (by decide)
  refine ⟨(hcounted.rf (by decide) hfm).trans hlisten, (hcounted.rb (by decide) hfm).trans hpreempts, ?_,
    (hstat.weaken (by decide)).trans (hcounted.weaken (by decide))⟩
  exact ((counted_bump _ _).after hstat (by decide)).andThen (RegsBut.refl.raise (l := []) (by decide)) (by decide)

/-- The choice among the entries of the parent table does not read FMAC_STAT (R248). -/
theorem ptabBest_congr {s t : State} (h : RegsBut [R.FMAC_STAT] s t) : t.ptabBest = s.ptabBest := by
  have hfield : ∀ {g : Fld}, R.FMAC_STAT < g.addr → t.rf g = s.rf g := fun hg =>
    h.rf (fun hmem => Nat.ne_of_gt hg (List.mem_singleton.mp hmem))
      (not_evrAddr_of_ge (Nat.le_trans (by decide) (Nat.le_of_lt hg)))
  have habove : ∀ {a j : Nat}, R.FMAC_STAT < a → R.FMAC_STAT < a + 0x10 * j := fun ha => Nat.lt_add_right _ ha
  have hvalid : ∀ j, t.rf (F.FMAC_PTAB_W0_VALID j) = s.rf (F.FMAC_PTAB_W0_VALID j) := fun j => hfield (habove (by decide))
  have hcur : ∀ j, t.rf (F.FMAC_PTAB_W0_CUR j) = s.rf (F.FMAC_PTAB_W0_CUR j) := fun j => hfield (habove (by decide))
  have hdepth : ∀ j, t.rf (F.FMAC_PTAB_W0_RDEPTH j) = s.rf (F.FMAC_PTAB_W0_RDEPTH j) := fun j => hfield (habove (by decide))
  have hnetid : ∀ j, t.rf (F.FMAC_PTAB_W1_NETID j) = s.rf (F.FMAC_PTAB_W1_NETID j) := fun j => hfield (habove (by decide))
  have hrssi : ∀ j, t.rf (F.FMAC_PTAB_W2_RSSI j) = s.rf (F.FMAC_PTAB_W2_RSSI j) := fun j => hfield (habove (by decide))
  have htotal : ∀ j, t.rf (F.FMAC_PTAB_W3_TOTAL j) = s.rf (F.FMAC_PTAB_W3_TOTAL j) := fun j => hfield (habove (by decide))
  have hqualifies : t.ptabQualifies = s.ptabQualifies := funext fun j => by
    simp only [State.ptabQualifies, State.rb]
    rw [hvalid, hcur, hnetid, hrssi, hdepth, hfield (g := F.FMAC_NETID_ID) (by decide),
      hfield (g := F.FMAC_UP_MISC_RSSIMIN) (by decide), hfield (g := F.FMAC_PATH_MAXDEPTH) (by decide)]
  have hbefore : t.ptabBefore = s.ptabBefore := funext fun a => funext fun b => by
    simp only [State.ptabBefore]
    rw [htotal a, htotal b, hdepth a, hdepth b, hrssi a, hrssi b]
  rw [State.ptabBest, State.ptabBest, hqualifies, hbefore]

/-- The best candidate is an entry of the table. -/
theorem mem_ptabs_of_ptabBest {s : State} {j : Nat} (h : s.ptabBest = some j) : j ∈ ptabs := by
  have hall : ∀ i, s.ptabBest = some i → i ∈ ptabs := by
    refine List.foldlRecOn (motive := fun w : Option Nat => ∀ i, w = some i → i ∈ ptabs)
      (ptabs.filter fun i => s.ptabQualifies i)
      _ (fun i hi => by cases hi) fun w hw i hi k hk => ?_
    have hmem : i ∈ ptabs := (List.mem_filter.mp hi).1
    split at hk
    · exact Option.some.inj hk ▸ hmem
    · split at hk
      · exact Option.some.inj hk ▸ hmem
      · exact hw k hk
  exact hall j h

/-- The long listen is over, and entry `j` of the parent table is the one selected (R247, R248). -/
def State.parentSelected (s : State) (j : Nat) : State :=
  ((s.wb F.FMAC_STAT_LL false).wb F.FMAC_UP_SEL_VALID true).wf F.FMAC_UP_SEL_ENTRY j

/-- The end of a long listen goes by the best entry of the table as it stood (R248). -/
theorem longListenEnd_by_best {s : State} (hup : s.rb F.FMAC_STAT_UP = true) (hlisten : s.ustate = Fm.LISTEN) :
    (∀ j, s.ptabBest = some j → exec .longListenEnd s =
      .next ((((s.parentSelected j).upEnter Fm.SELECTED).bump R.FMAC_CNT_UPSELECT).raise 75)) ∧
    (s.ptabBest = none → exec .longListenEnd s = .next (((s.wb F.FMAC_STAT_LL false).upEnter Fm.SEARCH).raise 75)) := by
  have hbest : (s.wb F.FMAC_STAT_LL false).ptabBest = s.ptabBest :=
    ptabBest_congr (RegsBut.refl.wb (List.mem_singleton_self _))
  have hends : ¬ (!s.rb F.FMAC_STAT_UP ∨ s.ustate ≠ Fm.LISTEN) := by simp [hup, hlisten]
  refine ⟨fun j hj => (if_neg hends).trans ?_, fun hnone => (if_neg hends).trans ?_⟩
  · simp only [hbest, hj]
    rfl
  · simp only [hbest, hnone]

/-! ### The obligation -/

/-- Settles O38: a poll by `exec_upstreamPoll_of_permitted`, a window without a beacon by `upMiss_effect`, a long listen by
`longListen_begins`, and its end by the choice among the entries of the parent table, which the end leaves. -/
theorem fieldUpstream : Obligations.FieldUpstream := by
  unfold Obligations.FieldUpstream
  intro s
  have hfm : ¬ evrAddr R.FMAC_STAT := not_evrAddr_of_ge (by decide)
  refine ⟨fun start queued status data enc k u hpolls hkey hradio hdwell => ?poll, fun hwindows hheard => ?heard,
    fun hwindows hunheard => ?missed, fun p hp hup hstate => ?listen,
    fun hup hlisten => ⟨fun j hbest => ?selected, fun hbest => ?searches⟩⟩
  case poll =>
    have hexec := exec_upstreamPoll_of_permitted (start := start) hpolls hkey hradio hdwell
    obtain ⟨bins, chBins, rfl⟩ := dwell_charges hdwell
    refine ⟨_, hexec, ?_, ?_, ?_, sameBytes_of_exec hexec (by simp [touched])⟩
    · rw [fieldSend_out, BitVec.ofNat_toNat, BitVec.setWidth_eq]
      rfl
    · rw [fieldSend_fld]
      rfl
    · rw [fieldSend_fld]
      rfl
  case heard =>
    exact ⟨_, (if_neg (by rw [hwindows]; decide)).trans (if_pos hheard), rfl, rfl, fun _ => rfl⟩
  case missed =>
    have hexec : exec .upBeaconListenEnd s = .next s.upMiss :=
      (if_neg (by rw [hwindows]; decide)).trans (if_neg (by rw [hunheard]; decide))
    obtain ⟨hmissb, hcounted, hthird, hfirst⟩ := upMiss_effect s
    exact ⟨_, hexec, hmissb, hcounted, hthird, hfirst, sameBytes_of_exec hexec (by simp [touched])⟩
  case listen =>
    obtain ⟨hstarted, hpreempts, hcounted, hregs⟩ := longListen_begins s
    have hexec : exec p.1 s = .next s.longListen ∧ Part.mem ∉ touched p.1 := by
      rcases List.mem_cons.mp hp with rfl | hretry
      · exact ⟨if_pos ⟨hup, hstate⟩, by simp [touched]⟩
      · obtain rfl := List.mem_singleton.mp hretry
        exact ⟨if_pos ⟨hup, hstate⟩, by simp [touched]⟩
    exact ⟨_, hexec.1, hstarted, hpreempts, hcounted, hregs, sameBytes_of_exec hexec.1 hexec.2⟩
  case selected =>
    have hexec := (longListenEnd_by_best hup hlisten).1 j hbest
    have hj : j < 2 ^ 3 := List.mem_range.mp (mem_ptabs_of_ptabBest hbest)
    have hcounted : RegsBut [R.FMAC_CNT_UPSELECT] ((s.parentSelected j).upEnter Fm.SELECTED)
        ((((s.parentSelected j).upEnter Fm.SELECTED).bump R.FMAC_CNT_UPSELECT).raise 75) :=
      (RegsBut.refl.bump (List.mem_singleton_self _)).raise (by decide)
    have hsel : ¬ evrAddr R.FMAC_UP_SEL := not_evrAddr_of_ge (by decide)
    refine ⟨_, hexec, ?_, ?_, ?_, ?_, ?_, sameBytes_of_exec hexec (by simp [touched])⟩
    · exact (hcounted.rf (by decide) hfm).trans (ustate_upEnter _ (by decide))
    · refine (hcounted.rf (by decide) hsel).trans ((rf_wf_apart _ _ (by decide)).trans ?_)
      exact (rf_wf_same _ _ _ (by decide) (by decide)).trans (Nat.mod_eq_of_lt hj)
    · refine (hcounted.rb (by decide) hsel).trans ((rb_wf_apart _ _ (by decide)).trans ((rb_wf_apart _ _ (by decide)).trans ?_))
      exact rb_wb_same _ _ rfl (by decide)
    · refine (hcounted.rb (by decide) hfm).trans ((rb_wf_apart _ _ (by decide)).trans ((rb_wf_apart _ _ (by decide)).trans ?_))
      exact (rb_wb_apart _ _ (by decide)).trans (rb_wb_same _ _ rfl (by decide))
    · have hset : RegsBut [R.FMAC_STAT, R.FMAC_UP_SEL, R.FMAC_CNT_UPSELECT] s (s.parentSelected j) :=
        RegsBut.wf (RegsBut.wb (RegsBut.wb .refl (by decide)) (by decide)) (by decide)
      exact (RegsBut.wf hset (by decide)).trans (hcounted.weaken (by decide))
  case searches =>
    have hexec := (longListenEnd_by_best hup hlisten).2 hbest
    have hset : RegsBut [R.FMAC_STAT] s ((s.wb F.FMAC_STAT_LL false).upEnter Fm.SEARCH) :=
      RegsBut.wf (RegsBut.wb .refl (List.mem_singleton_self _)) (List.mem_singleton_self _)
    have hraised : RegsBut [] ((s.wb F.FMAC_STAT_LL false).upEnter Fm.SEARCH)
        (((s.wb F.FMAC_STAT_LL false).upEnter Fm.SEARCH).raise 75) := RegsBut.refl.raise (by decide)
    refine ⟨_, hexec, ?_, ?_, ?_, sameBytes_of_exec hexec (by simp [touched])⟩
    · exact (hraised.rf List.not_mem_nil hfm).trans (ustate_upEnter _ (by decide))
    · exact (hraised.rb List.not_mem_nil hfm).trans ((rb_wf_apart _ _ (by decide)).trans (rb_wb_same _ _ rfl (by decide)))
    · exact hset.trans (hraised.weaken (List.nil_subset _))

end Sys2Proof.Machine
end

section
/-! PROOFS. The packet-engine family: PIPE_TAB, fences, table updates and counters (O40). -/

namespace Sys2Proof.Machine

/-! ### Registers and words -/

namespace RegsBut

variable {l : List Nat} {s t : State}

theorem setPpe {f : PpeSt → PpeSt} (h : RegsBut l s t) : RegsBut l s (t.setPpe f) := h

theorem setRegN {a n : Nat} (h : RegsBut l s t) (ha : a ∈ l) : RegsBut l s (t.setRegN a n) := h.setReg ha

end RegsBut

@[simp] theorem refuse_ppe (s : State) (e code ev : Nat) : (s.refuse e code ev).ppe = s.ppe := raise_ppe ..

/-! ### Table updates -/

/-- An update that starts is under way: busy, and its result is not in yet (R286). -/
def State.updBegun (s : State) (opc : Nat) (dram : Bool) (k : Nat) : State :=
  ((s.setPpe fun p => { p with upd := some (opc, dram, k) }).wb F.PPE_STAT_UPDBUSY true).wb F.PPE_UPD_RES_DONE false

theorem updStart_by_busy {s : State} {i : Init} (hmay : s.MayWrite i R.PPE_UPD_CMD) (opc : Nat) (dram : Bool) (k : Nat) :
    s.updStart i opc dram k =
      if s.rb F.PPE_STAT_UPDBUSY then s.refuse R.PPE_ERR St.BUSY 96 else s.updBegun opc dram k :=
  onWrite_of_mayWrite s i _ _ hmay

theorem updBegun_records (s : State) (opc : Nat) (dram : Bool) (k : Nat) :
    (s.updBegun opc dram k).rb F.PPE_STAT_UPDBUSY = true ∧ (s.updBegun opc dram k).rb F.PPE_UPD_RES_DONE = false ∧
      RegsBut [R.PPE_STAT, R.PPE_UPD_RES] s (s.updBegun opc dram k) := by
  refine ⟨?_, rb_wb_same _ _ rfl (by decide), ((RegsBut.refl.setPpe).wb (by simp [F.PPE_STAT_UPDBUSY])).wb
    (by simp [F.PPE_UPD_RES_DONE])⟩
  exact (rb_wb_apart _ _ (by decide)).trans (rb_wb_same _ _ rfl (by decide))

/-- An update is over, and its status is in (R287). -/
def State.updEnded (s : State) (st : Nat) : State :=
  (((s.setPpe fun p => { p with upd := none }).wb F.PPE_STAT_UPDBUSY false).wf F.PPE_UPD_RES_STATUS st).wb F.PPE_UPD_RES_DONE true

theorem exec_updComplete_of_ok {s u : State} {opc k : Nat} {dram : Bool} (hupd : s.ppe.upd = some (opc, dram, k))
    (hrun : s.updRun opc dram k = (u, St.OK)) : exec .updComplete s = .next (u.updEnded St.OK) := by
  show execUpdComplete s = _
  simp only [execUpdComplete, hupd, hrun, if_true]
  rfl

theorem updEnded_records (s : State) :
    (s.updEnded St.OK).rf F.PPE_UPD_RES_STATUS = St.OK ∧ (s.updEnded St.OK).rb F.PPE_UPD_RES_DONE = true ∧
      (s.updEnded St.OK).rb F.PPE_STAT_UPDBUSY = false ∧ RegsBut [R.PPE_STAT, R.PPE_UPD_RES] s (s.updEnded St.OK) := by
  refine ⟨?status, rb_wb_same _ _ rfl (by decide), ?busy, ?regs⟩
  case status => exact (rf_wf_apart _ _ (by decide)).trans (rf_wf_same _ _ _ (by decide) (by decide))
  case busy =>
    exact (rb_wb_apart _ _ (by decide)).trans ((rb_wf_apart _ _ (by decide)).trans (rb_wb_same _ _ rfl (by decide)))
  case regs =>
    exact (((RegsBut.refl.setPpe).wb (by simp [F.PPE_STAT_UPDBUSY])).wf (by simp [F.PPE_UPD_RES_STATUS])).wb
      (by simp [F.PPE_UPD_RES_DONE])

/-- The end of an update leaves the words of memory. -/
theorem read32_updEnded (s : State) (st a : Nat) : (s.updEnded st).read32 a = s.read32 a := rfl

/-- The number of words of an entry, narrow or wide (R276). -/
def entryWords (wide : Bool) : Nat := if wide then 24 else 12

theorem twelve_le_entryWords (wide : Bool) : 12 ≤ entryWords wide := by cases wide <;> decide

theorem updRun_write {s : State} {k : Nat} (hslot : s.slotOk false k ((s.updW 0).getLsbD 30) = true)
    (hlen : bits (s.updW 0) 23 16 = s.profLen (bits (s.updW 0) 27 24)) :
    s.updRun 1 false k = (s.setWords (s.slotAddr false k)
      ((List.range (entryWords ((s.updW 0).getLsbD 30))).map s.updW), St.OK) := by
  simp [State.updRun, hslot, hlen, entryWords, -BitVec.getLsbD_eq_getElem]

theorem updRun_clear {s : State} {k : Nat} (hslot : s.slotOk false k false = true) :
    s.updRun 2 false k = (s.setWords (s.slotAddr false k)
      (List.replicate (entryWords ((s.read32 (s.slotAddr false k)).getLsbD 30)) 0), St.OK) := by
  simp [State.updRun, hslot, entryWords]

theorem updRun_hash {s : State} (dram : Bool) (k : Nat)
    (hlen : bits (s.updW 0) 23 16 = s.profLen (bits (s.updW 0) 27 24)) :
    s.updRun 3 dram k = ((s.setRegN R.PPE_HQ_H1 (s.hash1 (bits (s.updW 0) 27 24) s.updKey)).setRegN R.PPE_HQ_H2
      (s.hash2 (bits (s.updW 0) 27 24) s.updKey), St.OK) := by
  simp [State.updRun, hlen]

theorem regN_setRegN_same (s : State) (a n : Nat) : (s.setRegN a n).regN a = n % 2 ^ 32 := by
  rw [State.regN, reg_setRegN, if_pos rfl, BitVec.toNat_ofNat]

theorem regN_setRegN_other (s : State) {a b : Nat} (n : Nat) (h : b ≠ a) : (s.setRegN a n).regN b = s.regN b :=
  congrArg BitVec.toNat ((reg_setRegN ..).trans (if_neg h))

/-! ### Counters -/

/-- A granted read of the low word of a counter answers it and latches the high word (R310). -/
theorem exec_ppeCounterRead {s : State} {i : Init} {n : Fin 2048} {bytes : Bool}
    (hmay : s.MayRead i (R.PPE_CTR n.val (if bytes then 2 else 0))) :
    let v := Sparse.getN s.ppe.ctr (2 * n.val + if bytes then 1 else 0)
    exec (.ppeCounterRead i n bytes) s =
      .next ((s.setRegN (R.PPE_CTR n.val ((if bytes then 2 else 0) + 1)) (v / 2 ^ 32)).answer i (BitVec.ofNat 32 v)) := by
  have hkey : (if bytes then 2 else 0) / 2 = if bytes then 1 else 0 := by cases bytes <;> rfl
  rw [← hkey]
  exact congrArg Host.Outcome.next (onRead_of_mayRead s i _ _ hmay)

/-! ### The obligation -/

/-- Settles O40: each command is one change of the tables, and an update's completion is what it does to memory or the
registers (`updRun_write`, `updRun_clear`, `updRun_hash`) and then its end. -/
theorem packetTables : Obligations.PacketTables := by
  unfold Obligations.PacketTables
  refine fun s i => ⟨fun w v hmay => ?pipeWrite, fun w v rest hpend => ?pipeApply, fun v hmay hstart => ?fenceStart,
    fun l hfence hgone => ?fenceDone, fun dram slot hmay p hp => ?updStart, fun k hslot hlen hupd => ?write,
    fun k hslot hupd => ?clear, fun dram k hlen hupd => ?hash, fun n bytes => ?counter,
    fun grew => ⟨fun h => if_pos h, fun h => if_pos h, fun h => if_neg (Nat.not_lt.mpr h),
      fun h => if_neg (Nat.not_lt.mpr h)⟩⟩
  case pipeWrite => exact ⟨_, congrArg Host.Outcome.next (onWrite_of_mayWrite s i _ _ hmay), rfl, rfl, fun _ => rfl⟩
  case pipeApply =>
    have hexec : exec .pipeTabApply s =
        .next ((s.setPpe fun p => { p with pipePend := rest }).setReg (R.PPE_PIPE_TAB w) v) := by
      show execPipeTabApply s = _
      simp only [execPipeTabApply, hpend]
    exact ⟨_, hexec, reg_setReg_same .., rfl, RegsBut.refl.setPpe.setReg (List.mem_singleton_self _), fun _ => rfl⟩
  case fenceStart =>
    have hexec : exec (.fenceStart i v) s =
        .next (((s.setPpe fun p => { p with fence := some (p.waits.map (fun r => r.addr)) }).wb F.PPE_FENCE_DONE false).wb
          F.PPE_STAT_FENCEBUSY true) :=
      congrArg Host.Outcome.next ((onWrite_of_mayWrite s i _ _ hmay).trans (if_neg (by rw [hstart]; decide)))
    refine ⟨_, hexec, rfl, ?_, rb_wb_same _ _ rfl (by decide), ?_, fun _ => rfl⟩
    · exact (rb_wb_apart _ _ (by decide)).trans (rb_wb_same _ _ rfl (by decide))
    · exact (RegsBut.refl.setPpe.wb (by simp [F.PPE_FENCE_DONE])).wb (by simp [F.PPE_STAT_FENCEBUSY])
  case fenceDone =>
    have hexec : exec .fenceDone s =
        .next (((s.setPpe fun p => { p with fence := none }).wb F.PPE_FENCE_DONE true).wb F.PPE_STAT_FENCEBUSY false) := by
      show execFenceDone s = _
      simp only [execFenceDone, hfence, hgone, Bool.false_eq_true, if_false]
    refine ⟨_, hexec, rfl, ?_, rb_wb_same _ _ rfl (by decide), ?_, fun _ => rfl⟩
    · exact (rb_wb_apart _ _ (by decide)).trans (rb_wb_same _ _ rfl (by decide))
    · exact (RegsBut.refl.setPpe.wb (by simp [F.PPE_FENCE_DONE])).wb (by simp [F.PPE_STAT_FENCEBUSY])
  case updStart =>
    have hexec : exec p.1 s = .next (s.updStart i p.2 dram slot.toNat) := by
      simp only [List.mem_cons, List.not_mem_nil, or_false] at hp
      obtain rfl | rfl | rfl := hp <;> rfl
    rw [updStart_by_busy hmay] at hexec
    refine ⟨fun hfree => ?_, fun hbusy => ?_⟩
    · rw [if_neg (by rw [hfree]; decide)] at hexec
      obtain ⟨hbusy, hdone, hregs⟩ := updBegun_records s p.2 dram slot.toNat
      exact ⟨_, hexec, rfl, hbusy, hdone, hregs, fun _ => rfl⟩
    · rw [if_pos hbusy] at hexec
      obtain ⟨hcode, hregs⟩ := refuse_records s (e := R.PPE_ERR) (code := St.BUSY) (ev := 96)
        (not_evrAddr_of_ge (by decide)) (by decide) (by decide)
      exact ⟨_, hexec, BitVec.eq_of_toNat_eq hcode, refuse_ppe .., hregs, sameBytes_of_mem (refuse_mem ..)⟩
  case write =>
    obtain ⟨hstatus, hdone, hbusy, -⟩ := updEnded_records (s.setWords (s.slotAddr false k)
      ((List.range (entryWords ((s.updW 0).getLsbD 30))).map s.updW))
    refine ⟨_, exec_updComplete_of_ok hupd (updRun_write hslot hlen), fun j (hj : j < entryWords _) => ?_, fun a ha => ?_, rfl, hstatus, hdone,
      hbusy⟩
    · rw [read32_updEnded]
      exact read32_setWords (by rw [List.getElem?_map, List.getElem?_range hj, Option.map_some])
    · exact byte_setWords_of_outside (by rw [List.length_map, List.length_range]; exact ha)
  case clear =>
    obtain ⟨hstatus, -, -, -⟩ := updEnded_records (s.setWords (s.slotAddr false k)
      (List.replicate (entryWords ((s.read32 (s.slotAddr false k)).getLsbD 30)) 0))
    refine ⟨_, exec_updComplete_of_ok hupd (updRun_clear hslot), fun j hj => ?_, rfl, hstatus⟩
    rw [read32_updEnded]
    exact read32_setWords (List.getElem?_replicate_of_lt (Nat.lt_of_lt_of_le hj (twelve_le_entryWords _)))
  case hash =>
    obtain ⟨-, -, -, hregs⟩ := updEnded_records ((s.setRegN R.PPE_HQ_H1 (s.hash1 (bits (s.updW 0) 27 24) s.updKey)).setRegN
      R.PPE_HQ_H2 (s.hash2 (bits (s.updW 0) 27 24) s.updKey))
    refine ⟨_, exec_updComplete_of_ok hupd (updRun_hash dram k hlen), ?_, ?_, rfl, fun _ => rfl⟩
    · rw [State.regN, hregs.reg (by decide) (not_evrAddr_of_ge (by decide)), ← State.regN,
        regN_setRegN_other _ _ (by decide), regN_setRegN_same]
    · rw [State.regN, hregs.reg (by decide) (not_evrAddr_of_ge (by decide)), ← State.regN, regN_setRegN_same]
  case counter =>
    intro k hmay
    exact ⟨_, exec_ppeCounterRead hmay, rfl, reg_setReg_same ..,
      (RegsBut.refl.setRegN (List.mem_singleton_self _)).emit, fun _ => rfl⟩

end Sys2Proof.Machine
end

section
/-! PROOFS. The packet-engine family: dispatch and results (O39). -/

namespace Sys2Proof.Machine

/-! ### Units and frames -/

namespace RegsBut

variable {l : List Nat} {s t : State}

theorem setPkt {f : PktSt → PktSt} (h : RegsBut l s t) : RegsBut l s (t.setPkt f) := h

theorem of_eq (h : t.regs = s.regs) : RegsBut l s t := regsBut_of_regs h

end RegsBut

/-- The registers that account for the units of a source (R312, R313). -/
def unitRegs (src : Nat) : List Nat := [R.QMG_POOLUSE src, R.QMG_SHARED]

theorem not_mem_unitRegs_of_lt (src : Nat) {a : Nat} (h : a < 0x400C0000) : a ∉ unitRegs src := by
  simp only [unitRegs, R.QMG_POOLUSE, R.QMG_SHARED, List.mem_cons, List.not_mem_nil, or_false]
  omega

theorem regsBut_release (s : State) (src u : Nat) : RegsBut (unitRegs src) s (s.release src u) :=
  ((RegsBut.refl.wf (by simp [unitRegs, F.QMG_POOLUSE_SHARED])).wf (by simp [unitRegs, F.QMG_SHARED_FREE])).wf
    (by simp [unitRegs, F.QMG_POOLUSE_RSVD])

theorem regsBut_charge {s u : State} {src n : Nat} (h : s.charge src n = some u) : RegsBut (unitRegs src) s u := by
  have hrsvd : ∀ k, RegsBut (unitRegs src) s (s.wf (F.QMG_POOLUSE_RSVD src) k) := fun _ =>
    RegsBut.refl.wf (by simp [unitRegs, F.QMG_POOLUSE_RSVD])
  unfold State.charge at h
  extract_lets room r sh held free reserved shared at h
  split at h
  · obtain rfl := Option.some.inj h
    exact hrsvd _
  · split at h
    · obtain rfl := Option.some.inj h
      have hshared : RegsBut (unitRegs src) s shared :=
        ((hrsvd _).wf (by simp [unitRegs, F.QMG_POOLUSE_SHARED])).wf (by simp [unitRegs, F.QMG_SHARED_FREE])
      exact .ite (hshared.raise (by decide)) hshared
    · cases h

/-- A frame dropped gives its units back to its source, and no other register moves (R313). -/
theorem regsBut_dropFrame {s : State} {a : Nat} {f : Frame} (h : s.frame a = some f) :
    RegsBut (unitRegs f.src) s (s.dropFrame a) := by
  simp only [State.dropFrame, h]
  exact (RegsBut.setPkt .refl).trans (regsBut_release _ f.src f.units)

theorem dropFrame_of_absent {s : State} {a : Nat} (h : s.frame a = none) : s.dropFrame a = s := by
  simp only [State.dropFrame, h]

/-- Whatever source a frame has, no register below the queue manager's moves when it is dropped. -/
theorem reg_dropFrame_of_lt (s : State) (a : Nat) {b : Nat} (hb : 0x40020000 ≤ b ∧ b < 0x400C0000) :
    (s.dropFrame a).reg b = s.reg b := by
  cases hf : s.frame a with
  | none => rw [dropFrame_of_absent hf]
  | some f => exact regsBut_dropFrame hf b (not_mem_unitRegs_of_lt f.src hb.2) (not_evrAddr_of_ge hb.1)

/-- A drop of a frame changes nothing but registers and the packet path. -/
theorem dropFrame_within (s : State) (a : Nat) : Within 4097 s (s.dropFrame a) := .dropFrame (.refl s)

theorem release_pkt (s : State) (src u : Nat) : (s.release src u).pkt = s.pkt :=
  Within.release (m := 1) (.refl s) ⟨rfl⟩ .pkt rfl

/-- A frame dropped is no longer in the packet buffer (R313). -/
theorem frame_dropFrame (s : State) (a : Nat) : (s.dropFrame a).frame a = none := by
  unfold State.dropFrame
  split
  · next hnone => exact hnone
  · rw [State.frame, release_pkt]
    exact List.find?_eq_none.mpr fun g hg => by simpa using (List.mem_filter.mp hg).2

/-- Units charged to a source change nothing but registers and the event router. -/
theorem charge_within {s u : State} {src n : Nat} (h : s.charge src n = some u) : Within 17 s u :=
  Within.charge (m := 17) (.refl s) ⟨rfl⟩ u h

theorem frameBytes_congr {s t : State} (h : t.mem = s.mem) (f : Frame) (o n : Nat) :
    t.frameBytes f o n = s.frameBytes f o n := by
  induction n generalizing o with
  | zero => rfl
  | succ n ih => rw [State.frameBytes, State.frameBytes, ih, sameBytes_of_mem h]

theorem storedBytes_congr {s t : State} (hmem : t.mem = s.mem) (hframes : t.pkt.frames = s.pkt.frames) (a : Nat) :
    t.storedBytes a = s.storedBytes a := by
  have hframe : t.frame a = s.frame a := congrArg (fun l => l.find? (fun f => f.addr == a)) hframes
  simp only [State.storedBytes, hframe, frameBytes_congr hmem]

theorem read32_congr {s t : State} (h : t.mem = s.mem) (a : Nat) : t.read32 a = s.read32 a :=
  congrArg (BitVec.ofNat 32) (readN_congr fun b _ _ => sameBytes_of_mem h b)

/-! ### Reads through the error-correcting code -/

/-- The registers in which SRM and DRC note what reads meet (R413, R415, R431). -/
def eccRegs : List Nat :=
  [R.DRC_STAT, R.DRC_CNT_SREXIT, R.DRC_CNT_CE, R.DRC_CEADDR_LO, R.DRC_CEADDR_HI, R.SRM_CNT_CE, R.SRM_CEADDR, R.DRC_CNT_UE,
    R.DRC_UEADDR_LO, R.DRC_UEADDR_HI, R.DRC_UEINFO, R.SRM_CNT_UE, R.SRM_UEADDR, R.SRM_UEINFO]

theorem regsBut_noteCe (s : State) (a : Nat) : RegsBut eccRegs s (s.noteCe a) := by
  unfold State.noteCe
  extract_lets t
  have hdrc : ∀ f, RegsBut eccRegs s (s.setDrc f) := fun _ => .of_eq rfl
  split
  · exact (((hdrc _).bump (by simp [eccRegs])).setRegN (by simp [eccRegs])).setRegN (by simp [eccRegs])
  · exact ((hdrc _).bump (by simp [eccRegs])).setRegN (by simp [eccRegs])

theorem regsBut_noteUe (s : State) (reader a : Nat) : RegsBut eccRegs s (s.noteUe reader a) := by
  unfold State.noteUe
  extract_lets info
  split
  · exact ((((RegsBut.refl.bump (by simp [eccRegs])).setRegN (by simp [eccRegs])).setRegN (by simp [eccRegs])).setRegN
      (by simp [eccRegs])).raise (by decide)
  · exact (((RegsBut.refl.bump (by simp [eccRegs])).setRegN (by simp [eccRegs])).setRegN (by simp [eccRegs])).raise
      (by decide)

theorem regsBut_eccWords (reader : Nat) : ∀ (ks : List Nat) (s : State), RegsBut eccRegs s (s.eccWords reader ks)
  | [], _ => .refl
  | k :: ks, s => by
    have hword : RegsBut eccRegs s (s.eccWord reader k) :=
      .ite .refl (.ite ((RegsBut.of_eq rfl).trans (regsBut_noteCe _ _)) (regsBut_noteUe _ _ _))
    exact hword.trans (regsBut_eccWords reader ks _)

theorem regsBut_eccRead (s : State) (reader a len : Nat) : RegsBut eccRegs s (s.eccRead reader a len) := by
  have htouch : RegsBut eccRegs s (s.dramTouch a) :=
    .ite (((RegsBut.refl.wf (by simp [eccRegs, F.DRC_STAT_STATE])).bump (by simp [eccRegs])).raise (by decide)) .refl
  exact .ite .refl (htouch.trans (regsBut_eccWords _ _ _))

/-! ### What a dispatched frame leaves

Whatever becomes of a frame in the engine, the count of frames received and the frames that wait behind it stand.
`InputStands` is closed under the operations of a run, a second pass of a recirculated frame included. -/

/-- From `o` to `s` the count of received frames and the frames that wait for the packet engine stand (R263). -/
structure InputStands (o s : State) : Prop where
  counter : s.reg R.PPE_CNT_RX = o.reg R.PPE_CNT_RX
  waiting : s.pkt.ppeIn = o.pkt.ppeIn


namespace InputStands

variable {o s t u : State} {r : PpeRun} {again : State → PpeRun → State}

theorem refl : InputStands o o := ⟨rfl, rfl⟩

theorem trans (h : InputStands o s) (g : InputStands s t) : InputStands o t :=
  ⟨g.counter.trans h.counter, g.waiting.trans h.waiting⟩

theorem ite {c : Prop} [Decidable c] (hs : InputStands o s) (ht : InputStands o t) :
    InputStands o (if c then s else t) := by
  split
  · exact hs
  · exact ht

theorem of_regsBut {l : List Nat} (h : InputStands o s) (hregs : RegsBut l s t) (hl : R.PPE_CNT_RX ∉ l)
    (hpkt : t.pkt.ppeIn = s.pkt.ppeIn) : InputStands o t :=
  h.trans ⟨hregs _ hl (not_evrAddr_of_ge (by decide)), hpkt⟩

/-- What touches neither registers nor the packet path leaves both. -/
theorem of_within {m : Nat} (h : InputStands o s) (hw : Within m s t)
    (hm : m.testBit Part.regs.num = false ∧ m.testBit Part.pkt.num = false) : InputStands o t :=
  h.of_regsBut (l := []) (.of_eq (hw .regs hm.1)) List.not_mem_nil (congrArg PktSt.ppeIn (hw .pkt hm.2))

theorem setPkt {f : PktSt → PktSt} (h : InputStands o s) (hf : (f s.pkt).ppeIn = s.pkt.ppeIn) :
    InputStands o (s.setPkt f) := h.trans ⟨rfl, hf⟩

theorem setPpe {f : PpeSt → PpeSt} (h : InputStands o s) : InputStands o (s.setPpe f) := ⟨h.counter, h.waiting⟩

theorem setCry {f : CrySt → CrySt} (h : InputStands o s) : InputStands o (s.setCry f) := ⟨h.counter, h.waiting⟩

theorem wf {f : Fld} {n : Nat} (h : InputStands o s) (ha : R.PPE_CNT_RX ≠ f.addr) : InputStands o (s.wf f n) :=
  h.of_regsBut (l := [f.addr]) (RegsBut.refl.wf (List.mem_singleton_self _)) (mt List.mem_singleton.mp ha) rfl

theorem bump {a : Nat} (h : InputStands o s) (ha : R.PPE_CNT_RX ≠ a) : InputStands o (s.bump a) :=
  h.of_regsBut (l := [a]) (RegsBut.refl.bump (List.mem_singleton_self _)) (mt List.mem_singleton.mp ha)
    (congrArg PktSt.ppeIn (Within.bump (m := 1) (.refl s) ⟨rfl⟩ .pkt rfl))

theorem raise {n : Nat} (h : InputStands o s) (hn : n < 256) : InputStands o (s.raise n) :=
  h.of_regsBut (l := []) (RegsBut.refl.raise hn) List.not_mem_nil (congrArg PktSt.ppeIn (raise_pkt s n))

theorem setWords {a : Nat} {l : List Word} (h : InputStands o s) : InputStands o (s.setWords a l) :=
  h.of_within (m := 2) (.setWords (.refl s)) ⟨rfl, rfl⟩

theorem charge {src n : Nat} (h : InputStands o s) (hu : s.charge src n = some u) : InputStands o u :=
  h.of_regsBut (regsBut_charge hu) (not_mem_unitRegs_of_lt src (by decide)) (congrArg PktSt.ppeIn (charge_within hu .pkt rfl))

theorem dropFrame {a : Nat} (h : InputStands o s) : InputStands o (s.dropFrame a) := by
  refine h.trans ⟨reg_dropFrame_of_lt s a (by decide), ?_⟩
  unfold State.dropFrame
  split
  · rfl
  · rw [release_pkt]
    rfl

/-! #### Results -/

theorem ppeResult {a : Nat} {q : Option Nat} (h : InputStands o s) : InputStands o (s.ppeResult a q) := by
  unfold State.ppeResult
  split
  · exact h.setPpe
  · split
    · exact h.setPkt rfl
    · exact h

theorem ppeDrop {a : Nat} (h : InputStands o s) : InputStands o (s.ppeDrop a) := h.ppeResult.dropFrame

theorem ppePunt {reason q : Nat} (h : InputStands o s) : InputStands o (s.ppePunt r reason q) := h.setWords.ppeResult

theorem ppeStore (h : InputStands o s) : InputStands o (s.ppeStore r) := by
  unfold State.ppeStore
  split
  · exact h
  · extract_lets n modified x g placed stored
    have hplaced : InputStands o placed :=
      (h.of_within (m := 0) (.takeCells (.refl s)) ⟨rfl, rfl⟩).setPkt rfl
    have hstored : InputStands o stored := .ite (hplaced.of_within (m := 2) (.setFrameBytes (.refl _)) ⟨rfl, rfl⟩) hplaced
    exact hstored.setWords.ppeResult

theorem ppeFinish (h : InputStands o s) : InputStands o (s.ppeFinish r) := by
  unfold State.ppeFinish
  split
  · exact h
  · refine .ite (h.bump (by decide)).ppeDrop (.ite h.ppeStore ?_)
    split
    · next hu => exact (h.charge hu).ppeStore
    · exact (h.bump (by decide)).setPpe

/-! #### Actions -/

theorem mirror (h : InputStands o s) : InputStands o (s.mirror r) := by
  unfold State.mirror
  split
  · exact h
  · extract_lets len d
    split
    · exact (h.bump (by decide)).bump (by decide)
    · next u hu =>
      extract_lets x headed
      have hput : InputStands o x.1 := by
        unfold x State.putFrame
        extract_lets n cells taken a f listed worded
        have htaken : InputStands o taken := (h.charge hu).of_within (m := 0) (.takeCells (.refl u)) ⟨rfl, rfl⟩
        exact (htaken.setPkt rfl).setWords.of_within (m := 2) (.setFrameBytes (.refl _)) ⟨rfl, rfl⟩
      exact hput.setWords.setPkt rfl

theorem ppeCrypt {step : Nat} (h : InputStands o s) : InputStands o (s.ppeCrypt r step) := by
  unfold State.ppeCrypt State.espStart
  extract_lets x
  split
  · exact (InputStands.bump h.setPpe (by decide)).setCry
  · exact (h.setPpe.setCry.wf (by decide)).wf (by decide)

theorem flowCount (h : InputStands o s) : InputStands o (s.flowCount r) := ⟨h.counter, h.waiting⟩

section

variable (hagain : ∀ {t : State} {r : PpeRun}, InputStands o t → InputStands o (again t r))

include hagain

theorem dispose (h : InputStands o s) : InputStands o (s.dispose again r) :=
  .ite (hagain h) (.ite (h.bump (by decide)).ppeDrop (.ite h.ppeFinish (.ite h.ppeFinish h.ppeFinish)))

theorem ppeTail (h : InputStands o s) : InputStands o (s.ppeTail again r) := by
  unfold State.ppeTail
  extract_lets op w3 p x counted
  have hx : InputStands o x.1 := by
    unfold x
    split
    · exact h
    · split
      · exact h
      · exact h.bump (by decide)
  have hcounted : InputStands o counted := .ite hx.flowCount hx
  exact dispose hagain hcounted

theorem ppeMiddle (h : InputStands o s) : InputStands o (s.ppeMiddle again r) := by
  simp only [State.ppeMiddle]
  split
  · exact .ite (.ite h.ppeCrypt (ppeTail hagain h))
      (.ite h.ppePunt (.ite h.ppePunt (.ite h.ppeCrypt (ppeTail hagain h))))
  · exact .ite h.ppeCrypt (ppeTail hagain h)

theorem ppeAction (h : InputStands o s) : InputStands o (s.ppeAction again r) := by
  unfold State.ppeAction
  extract_lets p ttl dec mirrored rewritten decapped
  have hmirrored : InputStands o mirrored := .ite h.mirror h
  exact .ite (h.bump (by decide)).ppePunt (.ite hmirrored.ppeCrypt (ppeMiddle hagain hmirrored))

end

/-! #### Classification -/

theorem lookup {prof : Nat} {key : List Byte} (h : InputStands o s) : InputStands o (s.lookup prof key).1 := by
  unfold State.lookup
  extract_lets h1 b1 h2 b2 slots d
  split
  · exact .ite h ((h.bump (by decide)).raise (by decide))
  · split
    · exact h
    · split
      · have hread : InputStands o (s.eccRead Ini.PPE (s.slotAddr true (5 * d)) 256) :=
          h.of_regsBut (l := eccRegs) (regsBut_eccRead _ _ _ _) (by decide)
            (congrArg PktSt.ppeIn (Within.eccRead (m := 3145745) (.refl s) ⟨rfl⟩ .pkt rfl))
        exact (hread.bump (by decide)).raise (by decide)
      · exact h

theorem classify {a iport : Nat} {second : Bool} {d : List Byte}
    (hagain : ∀ {t : State} {r : PpeRun}, InputStands o t → InputStands o (again t r)) (h : InputStands o s) :
    InputStands o (s.classify again a iport second d) := by
  unfold State.classify
  extract_lets p t r0 counted
  have hcounted : InputStands o counted := .ite (h.bump (by decide)) h
  clear_value counted
  refine .ite ?odd (.ite ?trunc ?decided)
  case odd => exact .ite (hcounted.bump (by decide)).ppePunt (hcounted.bump (by decide)).ppeDrop
  case trunc => exact .ite (hcounted.bump (by decide)).ppePunt (hcounted.bump (by decide)).ppeDrop
  case decided =>
    split
    · exact (hcounted.bump (by decide)).ppePunt
    · split
      · exact (hcounted.bump (by decide)).ppePunt
      · extract_lets key r1 x
        have hx : InputStands o x.1 := hcounted.lookup
        clear_value key r1 x
        split
        · exact (hx.bump (by decide)).ppePunt
        · next k dram _ =>
          extract_lets e stamped r2
          have hbumped : InputStands o (x.1.bump (if dram then R.PPE_CNT_HITDRAM else R.PPE_CNT_HIT)) :=
            hx.bump (by cases dram <;> decide)
          have hstamped : InputStands o stamped := hbumped.of_within (m := 2) (.hitStamp (.refl _)) ⟨rfl, rfl⟩
          exact ppeAction hagain hstamped

theorem recirculate (h : InputStands o s) : InputStands o (s.recirculate r) :=
  classify (fun ht => ht.ppeFinish) (h.bump (by decide))

end InputStands

/-! ### Frames dispatched -/

/-- The oldest frame leaves the input and is counted (R263). -/
def State.dispatched (s : State) (rest : List Nat) : State :=
  (s.setPkt fun p => { p with ppeIn := rest }).bump R.PPE_CNT_RX

theorem regsBut_dispatched (s : State) (rest : List Nat) : RegsBut [R.PPE_CNT_RX] s (s.dispatched rest) :=
  (RegsBut.setPkt .refl).bump (List.mem_singleton_self _)

theorem dispatched_pkt (s : State) (rest : List Nat) : (s.dispatched rest).pkt = { s.pkt with ppeIn := rest } :=
  Within.bump (m := 1) (.refl (s.setPkt fun p => { p with ppeIn := rest })) ⟨rfl⟩ .pkt rfl

theorem dispatched_ppe (s : State) (rest : List Nat) : (s.dispatched rest).ppe = s.ppe :=
  Within.bump (m := 1) (.refl (s.setPkt fun p => { p with ppeIn := rest })) ⟨rfl⟩ .ppe rfl

/-- An engine that is on and ready, with no write to PIPE_TAB and no legacy result in it, decides the oldest frame. -/
theorem exec_packetClassify_of_head {s : State} {a : Nat} {rest : List Nat} (hin : s.pkt.ppeIn = a :: rest)
    (hen : s.rb F.PPE_CTRL_EN = true) (hready : s.ready Fn.PACKET = true) (hpend : s.ppe.pipePend = [])
    (hlegacy : s.ppe.legacy = []) (hsp : s.rb F.PPE_CTRL_SPMODE = false) :
    exec .packetClassify s = .next ((s.dispatched rest).classify State.recirculate a (bits (s.hdr a 0) 31 28) false
      (s.storedBytes a)).ppeSync := by
  have hmem : (s.dispatched rest).mem = s.mem := bump_mem ..
  have hmode : (s.dispatched rest).rb F.PPE_CTRL_SPMODE = false :=
    ((regsBut_dispatched s rest).rb (by decide) (not_evrAddr_of_ge (by decide))).trans hsp
  have hhdr : (s.dispatched rest).hdr a 0 = s.hdr a 0 := read32_congr hmem _
  have hstored : (s.dispatched rest).storedBytes a = s.storedBytes a :=
    storedBytes_congr hmem (by rw [dispatched_pkt]) a
  rw [← hhdr, ← hstored]
  show execPacketClassify s = _
  simp only [execPacketClassify, hin]
  rw [if_neg (by simp [hen, hready, hpend, hlegacy]), ← State.dispatched, hmode]
  rfl

/-- Whatever is decided, the frame has left the input and is counted (R263). -/
theorem classify_of_dispatched (s : State) (rest : List Nat) (a iport : Nat) (d : List Byte) :
    let t := ((s.dispatched rest).classify State.recirculate a iport false d).ppeSync
    t.pkt.ppeIn = rest ∧ Counted R.PPE_CNT_RX s t := by
  intro t
  have hstands : InputStands (s.dispatched rest) t :=
    (InputStands.classify (fun h => h.recirculate) .refl).wf (by decide)
  refine ⟨hstands.waiting.trans (by rw [dispatched_pkt]), fun hroom => ?_⟩
  rw [State.regN, hstands.counter, ← State.regN]
  exact counted_bump (s.setPkt fun p => { p with ppeIn := rest }) _ hroom

/-! ### What a decision reads

No counter of dispatch is read by a decision. -/

/-- Between `s` and `t` no register of the packet engine moves but PPE_CNT_RX and PPE_CNT_FRAG. -/
abbrev CountersMove (s t : State) : Prop := RegsBut [R.PPE_CNT_RX, R.PPE_CNT_FRAG] s t

namespace CountersMove

variable {s t : State}

theorem reg_eq (h : CountersMove s t) {a : Nat} (ha : 0x40080000 ≤ a ∧ a < 0x40080800 ∨ 0x40082000 ≤ a) :
    t.reg a = s.reg a := by
  refine h a ?_ (not_evrAddr_of_ge (by omega))
  simp only [R.PPE_CNT_RX, R.PPE_CNT_FRAG, List.mem_cons, List.not_mem_nil, or_false]
  omega

theorem rf_eq (h : CountersMove s t) {f : Fld} (ha : 0x40080000 ≤ f.addr ∧ f.addr < 0x40080800 ∨ 0x40082000 ≤ f.addr) :
    t.rf f = s.rf f := by
  rw [State.rf, h.reg_eq ha, State.rf]

theorem rb_eq (h : CountersMove s t) {f : Fld} (ha : 0x40080000 ≤ f.addr ∧ f.addr < 0x40080800 ∨ 0x40082000 ≤ f.addr) :
    t.rb f = s.rb f := congrArg (· == 1) (h.rf_eq ha)

theorem parseCfg (h : CountersMove s t) : t.parseCfg = s.parseCfg := by
  unfold State.parseCfg
  rw [h.rb_eq (by decide), h.rf_eq (by decide), h.rb_eq (by decide), h.rb_eq (by decide), h.rb_eq (by decide)]

theorem spread (h : CountersMove s t) (d : List Byte) (p : Parsed) : t.spread d p = s.spread d p := by
  have hkey : t.tKey = s.tKey := List.foldl_rel (r := (· = ·)) rfl fun k hk n _ hn => by
    rw [hn, State.regN, h.reg_eq (by have := List.mem_range.mp hk; simp only [R.PPE_TKEY]; omega), State.regN]
  rw [State.spread, hkey, h.rb_eq (by decide), State.spread]

theorem missQueue (h : CountersMove s t) (w : Word) : t.missQueue w = s.missQueue w := by
  have hind : ∀ n m, t.rf (F.PPE_IND_QA n m) = s.rf (F.PPE_IND_QA n m) ∧ t.rf (F.PPE_IND_QB n m) = s.rf (F.PPE_IND_QB n m) :=
    fun n m => ⟨h.rf_eq (by simp only [F.PPE_IND_QA, R.PPE_IND]; omega), h.rf_eq (by simp only [F.PPE_IND_QB, R.PPE_IND]; omega)⟩
  simp only [State.missQueue, State.indQueue, h.rb_eq (f := F.PPE_MISSQ_SPREAD) (by decide),
    h.rf_eq (f := F.PPE_MISSQ_TABLE) (by decide), h.rf_eq (f := F.PPE_MISSQ_QUEUE) (by decide), hind]

theorem trapOf (h : CountersMove s t) (d : List Byte) (p : Parsed) : t.trapOf d p = s.trapOf d p := by
  have hen : ∀ k < 8, t.rb (F.PPE_TRAP_EN k) = s.rb (F.PPE_TRAP_EN k) := fun k _ =>
    h.rb_eq (by simp only [F.PPE_TRAP_EN, R.PPE_TRAP]; omega)
  have hmatch : ∀ k, t.trapMatch d p k = s.trapMatch d p k := fun k => by
    simp only [State.trapMatch, h.rf_eq (f := F.PPE_HDPPORT_PORT) (by decide)]
  simp (disch := decide) only [State.trapOf, List.find?_cons, List.find?_nil, hen, hmatch]

theorem profileOf (h : CountersMove s t) {iport pclass : Nat} (hiport : iport < 16) (hclass : pclass < 32) :
    t.profileOf iport pclass = s.profileOf iport pclass := by
  have hgrp : t.rf (F.PPE_PORTCFG_PGRP iport) = s.rf (F.PPE_PORTCFG_PGRP iport) :=
    h.rf_eq (by simp only [F.PPE_PORTCFG_PGRP, R.PPE_PORTCFG]; omega)
  have hlt : s.rf (F.PPE_PORTCFG_PGRP iport) < 4 := rf_lt ..
  rw [State.profileOf, hgrp, h.reg_eq (by simp only [R.PPE_PSEL]; omega), State.profileOf]

end CountersMove

theorem ipClass_lt (d : List Byte) (x : L3) : ipClass d x < 32 := by
  unfold ipClass
  repeat' split
  all_goals decide

theorem tunnelOf_class_lt {c : ParseCfg} {d : List Byte} {x : L3} {y : Nat × Nat × Nat} (h : tunnelOf c d x = some y) :
    y.1 < 32 := by
  unfold tunnelOf at h
  extract_lets g o t at h
  split at h
  · exact Option.some.inj h ▸ (by decide : 16 < 32)
  · split at h
    · split at h
      · exact Option.some.inj h ▸ (by decide : 17 < 32)
      · cases h
    · split at h
      · exact Option.some.inj h ▸ (by decide : 18 < 32)
      · cases h

/-- The classes of R268 and R269 have five bits. -/
theorem parse_pclass_lt (c : ParseCfg) (d : List Byte) : (parse c d).pclass < 32 := by
  have hite : ∀ {q : Prop} [Decidable q] {x y : Parsed}, x.pclass < 32 → y.pclass < 32 → (if q then x else y).pclass < 32 := by
    intro q _ x y hx hy
    split
    · exact hx
    · exact hy
  unfold parse
  extract_lets len e base x ip known l4
  have h20 : 20 < 32 := by decide
  have h21 : 21 < 32 := by decide
  refine hite h21 (hite (by decide : 1 < 32) (hite (by decide : 14 < 32) (hite (by decide : 15 < 32)
    (hite ?_ (by decide : 0 < 32)))))
  refine hite h20 (hite h21 (hite (ipClass_lt ..) (hite h20 (hite h21 ?_))))
  split
  · exact ipClass_lt ..
  · next htunnel => exact hite h21 (hite h20 (hite h21 (tunnelOf_class_lt htunnel)))

/-! ### Results -/

theorem ppeResult_none_of_legacy_nil {s : State} (h : s.ppe.legacy = []) (a : Nat) : s.ppeResult a none = s :=
  if_neg (by rw [h]; exact Bool.false_ne_true)

theorem ppeResult_some_of_legacy_nil {s : State} (h : s.ppe.legacy = []) (a q : Nat) :
    s.ppeResult a (some q) = s.setPkt fun p => { p with qmgIn := p.qmgIn ++ [(a, q)] } :=
  if_neg (by rw [h]; exact Bool.false_ne_true)

/-- From `s` to `t` the frame at `a` has gone to queue `q`; registers and the engines stand (R299). -/
structure Queued (a q : Nat) (s t : State) : Prop where
  qmgIn : t.pkt.qmgIn = s.pkt.qmgIn ++ [(a, q)]
  regs : t.regs = s.regs
  ppe : t.ppe = s.ppe
  cry : t.cry = s.cry

/-- Without legacy results a frame whose header is written goes to its queue. -/
theorem queued_of_headed {s : State} (h : s.ppe.legacy = []) (b : Nat) (l : List Word) (a q : Nat) :
    Queued a q s ((s.setWords b l).ppeResult a (some q)) := by
  have hworded : Within 2 s (s.setWords b l) := .setWords (.refl s)
  generalize s.setWords b l = worded at hworded
  have hppe : worded.ppe = s.ppe := hworded .ppe rfl
  have hpkt : worded.pkt = s.pkt := hworded .pkt rfl
  rw [ppeResult_some_of_legacy_nil (by rw [hppe, h])]
  exact ⟨congrArg (fun p : PktSt => p.qmgIn ++ [(a, q)]) hpkt, hworded .regs rfl, hppe, hworded .cry rfl⟩

theorem queued_ppePunt {s : State} (h : s.ppe.legacy = []) (r : PpeRun) (reason q : Nat) :
    Queued r.addr q s (s.ppePunt r reason q) := queued_of_headed h ..

/-- A fragment is counted (R270). -/
def State.fragCounted (s : State) (p : Parsed) : State := if p.frag then s.bump R.PPE_CNT_FRAG else s

theorem regsBut_fragCounted (s : State) (p : Parsed) : RegsBut [R.PPE_CNT_FRAG] s (s.fragCounted p) :=
  .ite (RegsBut.refl.bump (List.mem_singleton_self _)) .refl

theorem fragCounted_within (s : State) (p : Parsed) : Within 1 s (s.fragCounted p) := .ite (.bump (.refl s)) (.refl s)

theorem classify_of_trap {s : State} {again : State → PpeRun → State} {a iport k : Nat} {second : Bool} {d : List Byte}
    (hodd : (parse s.parseCfg d).odd = false) (htrunc : (parse s.parseCfg d).trunc = false)
    (htrap : (s.fragCounted (parse s.parseCfg d)).trapOf d (parse s.parseCfg d) = some k) :
    ∃ r : PpeRun, r.addr = a ∧ s.classify again a iport second d =
      ((s.fragCounted (parse s.parseCfg d)).bump R.PPE_CNT_TRAP).ppePunt r (0x10 + k)
        ((s.fragCounted (parse s.parseCfg d)).rf (F.PPE_TRAP_QUEUE k)) := by
  rw [State.fragCounted] at htrap
  simp only [State.classify, State.fragCounted, hodd, htrunc, htrap, Bool.false_eq_true, if_false]
  exact ⟨_, rfl, rfl⟩

theorem classify_of_noProfile {s : State} {again : State → PpeRun → State} {a iport : Nat} {second : Bool} {d : List Byte}
    (hodd : (parse s.parseCfg d).odd = false) (htrunc : (parse s.parseCfg d).trunc = false)
    (htrap : (s.fragCounted (parse s.parseCfg d)).trapOf d (parse s.parseCfg d) = none)
    (hprof : (s.fragCounted (parse s.parseCfg d)).profileOf iport (parse s.parseCfg d).pclass = none) :
    ∃ r : PpeRun, r.addr = a ∧ s.classify again a iport second d =
      ((s.fragCounted (parse s.parseCfg d)).bump R.PPE_CNT_NOPROF).ppePunt r 0x02
        ((s.fragCounted (parse s.parseCfg d)).missQueue (s.spread d (parse s.parseCfg d))) := by
  rw [State.fragCounted] at htrap hprof
  simp only [State.classify, State.fragCounted, hodd, htrunc, htrap, hprof, Bool.false_eq_true, if_false]
  exact ⟨_, rfl, rfl⟩

/-- A frame dispatched and punted by its class stands in its queue and is counted (R271, R272). -/
theorem punted_of_dispatched {s u : State} {rest : List Nat} {c q reason : Nat} {r : PpeRun}
    (hu : Within 1 (s.dispatched rest) u) (hmoved : CountersMove s u) (hlegacy : s.ppe.legacy = [])
    (hc : c ∉ [R.PPE_CNT_RX, R.PPE_CNT_FRAG] ∧ c ∉ [R.PPE_STAT] ∧ 0x40020000 ≤ c) :
    ((u.bump c).ppePunt r reason q).ppeSync.pkt.qmgIn = s.pkt.qmgIn ++ [(r.addr, q)] ∧
      Counted c s ((u.bump c).ppePunt r reason q).ppeSync := by
  have hbumped : Within 1 (s.dispatched rest) (u.bump c) := .bump hu
  have hqueued : Queued r.addr q (u.bump c) ((u.bump c).ppePunt r reason q) :=
    queued_ppePunt (by rw [hbumped .ppe rfl, dispatched_ppe, hlegacy]) ..
  refine ⟨hqueued.qmgIn.trans (by rw [hbumped .pkt rfl, dispatched_pkt]), ?_⟩
  have hafter : RegsBut [R.PPE_STAT] (u.bump c) ((u.bump c).ppePunt r reason q).ppeSync :=
    (RegsBut.of_eq hqueued.regs).wb (List.mem_singleton_self _)
  exact ((counted_bump u c).andThen hafter hc.2).after hmoved ⟨hc.1, hc.2.2⟩

/-! ### Answers and grants -/

/-- A rewritten frame that has its units goes to its queue; the engine and the cipher engine stand (R298). -/
theorem ppeStore_queues {s : State} {r : PpeRun} {f : Frame} (hf : s.frame r.addr = some f) (hlegacy : s.ppe.legacy = []) :
    (s.ppeStore r).pkt.qmgIn = s.pkt.qmgIn ++ [(r.addr, r.queue)] ∧ (s.ppeStore r).ppe = s.ppe ∧
      (s.ppeStore r).cry = s.cry := by
  unfold State.ppeStore
  split
  · next hnone => cases hf.symm.trans hnone
  · extract_lets n modified x g placed stored
    have hx : Within 0 s x.1 := .takeCells (.refl s)
    have hplaced : placed.pkt.qmgIn = s.pkt.qmgIn := (congrArg PktSt.qmgIn (hx .pkt rfl) :)
    have hstored : Within 2 placed stored := .ite (.setFrameBytes (.refl _)) (.refl _)
    have hppe : stored.ppe = s.ppe := (hstored .ppe rfl).trans (hx .ppe rfl)
    have hqueued := queued_of_headed (s := stored) (by rw [hppe, hlegacy]) (r.addr + 32) (r.header modified) r.addr r.queue
    have hqmg : stored.pkt.qmgIn = s.pkt.qmgIn := (congrArg PktSt.qmgIn (hstored .pkt rfl)).trans hplaced
    exact ⟨hqmg ▸ hqueued.qmgIn, hqueued.ppe.trans hppe, hqueued.cry.trans ((hstored .cry rfl).trans (hx .cry rfl))⟩

/-- An action that asks for a queue, for no VLAN operation and no flow count, ends there (R288, R290). -/
theorem ppeTail_of_queue {s : State} {again : State → PpeRun → State} {r : PpeRun} (hqueue : bits r.act 31 30 = 1)
    (hvlan : bits r.act 27 26 = 0) (hcount : r.act.getLsbD 20 = false) (hrecirc : s.actRec r 4 / 2 ^ 31 ≠ 1) :
    s.ppeTail again r = s.ppeFinish { r with queue := bits r.act 12 0 } := by
  unfold State.ppeTail
  extract_lets op w3 p x counted
  have hx : x = (s, r) := if_pos hvlan
  have hcounted : counted = s := by
    unfold counted
    rw [hx]
    exact if_neg (by rw [hcount]; exact Bool.false_ne_true)
  rw [hcounted, hx]
  unfold State.dispose
  extract_lets act recirc
  rw [if_neg fun h : recirc => hrecirc h.1, if_neg (by rw [hqueue]; decide), if_pos hqueue]

theorem ppeFinish_of_fits {s : State} {r : PpeRun} {f : Frame} (hf : s.frame r.addr = some f)
    (hlen : r.data.length ≤ maxFrame) (hunits : unitsOf r.data.length ≤ f.units) : s.ppeFinish r = s.ppeStore r := by
  simp only [State.ppeFinish, hf, if_neg (Nat.not_lt.mpr hlen), if_pos hunits]

/-- The cipher engine's oldest answer is taken, and its frame waits no longer (R295). -/
def State.espTaken (s : State) (rest : List (Nat × Nat × List Byte)) (r : PpeRun) : State :=
  (s.setCry fun c => { c with espDone := rest }).setPpe fun p => { p with waits := p.waits.erase r }

/-- A frame that the cipher engine failed is counted and dropped (R295). -/
def State.espFailed (s : State) (a : Nat) : State := ((s.bump R.PPE_CNT_CRYERR).raise 101).ppeDrop a

section

variable {s : State} {a status : Nat} {d : List Byte} {rest : List (Nat × Nat × List Byte)} {r : PpeRun}
  (hdone : s.cry.espDone = (a, status, d) :: rest)
  (hwait : s.ppe.waits.find? (fun r => r.addr == a && (r.step == 1 || r.step == 2)) = some r)

include hdone hwait

theorem exec_espResult_of_failed (hstatus : status ≠ St.OK) :
    exec .espResult s = .next ((s.espTaken rest r).espFailed a).ppeSync := by
  show execEspResult s = _
  simp only [execEspResult, hdone]
  rw [show (s.setCry fun c => { c with espDone := rest }).ppe = s.ppe from rfl, hwait]
  exact if_pos hstatus

theorem exec_espResult_of_encrypted (hstatus : status = St.OK) (hstep : r.step = 2) :
    exec .espResult s = .next ((s.espTaken rest r).ppeTail (State.againOf r) { r with data := d }).ppeSync := by
  show execEspResult s = _
  simp only [execEspResult, hdone]
  rw [show (s.setCry fun c => { c with espDone := rest }).ppe = s.ppe from rfl, hwait]
  simp only [hstatus, hstep]
  rfl

end

theorem espFailed_drops {s : State} (h : s.ppe.legacy = []) (a : Nat) :
    (s.espFailed a).frame a = none ∧ (s.espFailed a).cry = s.cry ∧ (s.espFailed a).ppe = s.ppe ∧
      Counted R.PPE_CNT_CRYERR s (s.espFailed a) := by
  generalize hu : (s.bump R.PPE_CNT_CRYERR).raise 101 = u
  have hwithin : Within 17 s u := hu ▸ .raise (.bump (.refl s))
  have hlegacy : u.ppe.legacy = [] := by rw [hwithin .ppe rfl, h]
  have hdrop : s.espFailed a = u.dropFrame a := by
    rw [State.espFailed, hu, State.ppeDrop, ppeResult_none_of_legacy_nil hlegacy]
  rw [hdrop]
  have hcounted : Counted R.PPE_CNT_CRYERR s u :=
    hu ▸ (counted_bump s _).andThen (RegsBut.refl.raise (l := []) (by decide)) (by decide)
  refine ⟨frame_dropFrame u a, ((dropFrame_within u a) .cry rfl).trans (hwithin .cry rfl),
    ((dropFrame_within u a) .ppe rfl).trans (hwithin .ppe rfl), fun hroom => ?_⟩
  rw [State.regN, reg_dropFrame_of_lt u a (by decide), ← State.regN]
  exact hcounted hroom

/-! ### The obligation -/

/-- Settles O39: a dispatched frame is taken and counted whatever is decided (`classify_of_dispatched`), a decision reads none
of the counters that dispatch moves (`CountersMove`), and an answer, a grant or a release ends in a drop or in a queue. -/
theorem packetEngine : Obligations.PacketEngine := by
  unfold Obligations.PacketEngine
  refine fun s => ⟨fun a rest hin hen hready hpend hlegacy hsp => ?dispatch,
    fun a status d rest r hdone hwait hlegacy => ⟨fun hstatus => ?failed,
      fun f hstatus hf hunits hlen hstep hqueue hvlan hcount hrecirc => ?encrypted⟩,
    fun r f u hwait hf hu hlegacy => ?grant, fun e q hhead hqueue => ?release⟩
  case dispatch =>
    intro d p t0
    have hexec := exec_packetClassify_of_head hin hen hready hpend hlegacy hsp
    have hmoved : CountersMove s (s.dispatched rest) := (regsBut_dispatched s rest).weaken (by simp)
    have hwithin : Within 1 (s.dispatched rest) ((s.dispatched rest).fragCounted p) := fragCounted_within _ _
    have hcounted : CountersMove s ((s.dispatched rest).fragCounted p) :=
      hmoved.trans ((regsBut_fragCounted _ p).weaken (by simp))
    have hparse : parse (s.dispatched rest).parseCfg d = p := by rw [hmoved.parseCfg]
    refine ⟨⟨_, hexec, classify_of_dispatched s rest a _ _⟩, fun hodd htrunc k htrap => ?_,
      fun hodd htrunc htrap hprof => ?_⟩
    · have hk : k < 8 := by
        have hmem := List.mem_of_find?_eq_some htrap
        simp only [List.mem_cons, List.not_mem_nil, or_false] at hmem
        omega
      obtain ⟨r, hr, hclass⟩ := classify_of_trap (s := s.dispatched rest) (again := State.recirculate) (a := a)
        (iport := bits (s.hdr a 0) 31 28) (second := false) (d := d) (k := k) (by rw [hparse, hodd]) (by rw [hparse, htrunc])
        (by rw [hparse, hcounted.trapOf, htrap])
      rw [hclass, hparse, hcounted.rf_eq (by simp only [F.PPE_TRAP_QUEUE, R.PPE_TRAP]; omega)] at hexec
      exact ⟨_, hexec, hr ▸ punted_of_dispatched hwithin hcounted hlegacy (by decide)⟩
    · obtain ⟨r, hr, hclass⟩ := classify_of_noProfile (s := s.dispatched rest) (again := State.recirculate) (a := a)
        (iport := bits (s.hdr a 0) 31 28) (second := false) (d := d) (by rw [hparse, hodd]) (by rw [hparse, htrunc])
        (by rw [hparse, hcounted.trapOf, htrap])
        (by rw [hparse, hcounted.profileOf (bits_lt ..) (parse_pclass_lt ..), hprof])
      rw [hclass, hparse, hcounted.missQueue, hmoved.spread] at hexec
      exact ⟨_, hexec, hr ▸ punted_of_dispatched hwithin hcounted hlegacy (by decide)⟩
  case failed =>
    obtain ⟨hframe, hcry, hppe, hcounted⟩ := espFailed_drops (s := s.espTaken rest r) hlegacy a
    refine ⟨_, exec_espResult_of_failed hdone hwait hstatus, hframe, congrArg CrySt.espDone hcry, congrArg PpeSt.waits hppe,
      ?_⟩
    exact hcounted.andThen (RegsBut.refl.wb (List.mem_singleton_self _)) (by decide)
  case encrypted =>
    have hkey := List.find?_some hwait
    have haddr : r.addr = a := beq_iff_eq.mp (Bool.and_eq_true_iff.mp hkey).1
    have hexec := exec_espResult_of_encrypted hdone hwait hstatus hstep
    have hframe : (s.espTaken rest r).frame r.addr = some f := haddr ▸ hf
    rw [ppeTail_of_queue (s := s.espTaken rest r) (r := { r with data := d }) hqueue hvlan hcount hrecirc,
      ppeFinish_of_fits (r := { r with data := d, queue := bits r.act 12 0 }) hframe hlen hunits] at hexec
    obtain ⟨hqmg, hppe, hcry⟩ := ppeStore_queues (s := s.espTaken rest r)
      (r := { r with data := d, queue := bits r.act 12 0 }) hframe hlegacy
    exact ⟨_, hexec, haddr ▸ hqmg, congrArg CrySt.espDone hcry, congrArg PpeSt.waits hppe⟩
  case grant =>
    generalize hv : (u.setPpe fun p => { p with waits := p.waits.erase r }) = v
    have hexec : exec .rewriteUnitsGrant s = .next (v.ppeStore r).ppeSync := by
      show execRewriteUnitsGrant s = _
      simp only [execRewriteUnitsGrant, hwait, hf, hu, hv]
    have hpkt : v.pkt = s.pkt := hv ▸ charge_within hu .pkt rfl
    have hppe : v.ppe = { s.ppe with waits := s.ppe.waits.erase r } := by
      rw [← hv, ← charge_within hu .ppe rfl]
      rfl
    obtain ⟨hqmg, hkept, -⟩ := ppeStore_queues (s := v) (r := r) (f := f) (by rw [State.frame, hpkt]; exact hf)
      (by rw [hppe]; exact hlegacy)
    exact ⟨_, hexec, congrArg PpeSt.waits (hkept.trans hppe), hpkt ▸ hqmg⟩
  case release =>
    have hexec : exec .legacyReorderRelease s =
        .next ((s.setPpe fun p => { p with legacy := p.legacy.erase e }).setPkt fun p =>
          { p with qmgIn := p.qmgIn ++ [(e.addr, q)] }).ppeSync := by
      show execLegacyReorderRelease s = _
      simp only [execLegacyReorderRelease, hhead, hqueue]
    exact ⟨_, hexec, rfl, rfl, RegsBut.wb (RegsBut.of_eq rfl) (List.mem_singleton_self _), fun _ => rfl⟩

end Sys2Proof.Machine
end

section
/-! PROOFS. The packet-engine family: the Ethernet ports (O41), which a frame of a stray source refutes. -/

namespace Sys2Proof.Machine

/-! ### The bytes for the wire -/

theorem oneStep_of_off {s : State} {p : Nat} (h : s.rb (F.ETH_CTRL_OSTEP p) = false) (d : List Byte) (ns : Nat) :
    s.oneStep p d ns = (s, d) := by
  unfold State.oneStep
  split
  · rfl
  · exact if_pos (.inl (by rw [h]; rfl))

theorem secTransmit_of_off {s : State} {p : Nat} (h : s.rb (F.ETH_CTRL_MSEC p) = false) (d : List Byte) :
    s.secTransmit p d = (s, some d) := if_pos (.inl (by rw [h]; rfl))

/-- A frame as it goes out without MACsec: with the FCS it came with when an Ethernet port received it and nothing changed
it, else with a fresh one (R303). -/
def State.plainWire (s : State) (f : Frame) : List Byte :=
  let d := s.frameBytes f 0 f.len
  if (s.hdr f.addr 8).getLsbD 7 = false ∧ f.src ≤ 5 then d else withFcs (d.take (d.length - 4))

theorem wireBytes_of_plain {s : State} {p : Nat} (hsec : s.rb (F.ETH_CTRL_MSEC p) = false)
    (hstep : s.rb (F.ETH_CTRL_OSTEP p) = false) (f : Frame) (ns : Nat) :
    s.wireBytes p f ns = (s, some (s.plainWire f)) := by
  simp [State.wireBytes, oneStep_of_off hstep, secTransmit_of_off hsec, State.plainWire]

theorem plainWire_congr {s t : State} (h : t.mem = s.mem) (f : Frame) : t.plainWire f = s.plainWire f := by
  have hhdr : t.hdr f.addr 8 = s.hdr f.addr 8 := read32_congr h _
  simp only [State.plainWire, hhdr, frameBytes_congr h]

/-! ### A frame goes out -/

theorem ethCtrl_apart_ecc : ∀ p : Fin 6, R.ETH_CTRL p.val ∉ eccRegs ∧ 0x40020000 ≤ R.ETH_CTRL p.val := by decide

theorem cntTxok_apart_ecc : ∀ p : Fin 6, R.ETH_CNT_TXOK p.val ∉ eccRegs ∧ 0x40020000 ≤ R.ETH_CNT_TXOK p.val := by decide

theorem cntTxok_apart_cntTsovf :
    ∀ p : Fin 6, R.ETH_CNT_TXOK p.val ∉ [R.ETH_CNT_TSOVF p.val] ∧ 0x40020000 ≤ R.ETH_CNT_TXOK p.val := by decide

theorem regsBut_spansRead (s : State) (reader : Nat) (l : List (Nat × Nat)) :
    RegsBut eccRegs s (s.spansRead reader l) :=
  List.foldlRecOn l _ RegsBut.refl fun _ h _ _ => h.trans (regsBut_eccRead _ _ _ _)

theorem spansRead_within (s : State) (reader : Nat) (l : List (Nat × Nat)) : Within 3145745 s (s.spansRead reader l) :=
  .spansRead (.refl s)

theorem regsBut_stampTx (s : State) (p : Fin 6) (d : List Byte) (gt : GTime) (ns : Nat) :
    RegsBut [R.ETH_CNT_TSOVF p.val] s (s.stampTx p.val d gt ns) := by
  unfold State.stampTx
  split
  · exact .refl
  · exact .ite ((RegsBut.refl.bump (List.mem_singleton_self _)).raise (by unfold ethEv; omega)) (.of_eq rfl)

/-- A frame that leaves a port's window leaves the packet buffer, and its units go back to its source (R313, R316). -/
theorem freeSel_frees {s : State} {p a : Nat} {f : Frame} (hf : s.frame a = some f) :
    (s.freeSel p a).frame a = none ∧ RegsBut (R.TMG_PORT_WIN p :: unitRegs f.src) s (s.freeSel p a) := by
  unfold State.freeSel
  extract_lets u left
  refine ⟨frame_dropFrame _ a, ?_⟩
  have hleft : RegsBut [R.TMG_PORT_WIN p] s (left.wf (F.TMG_PORT_WIN_USE p) (left.rf (F.TMG_PORT_WIN_USE p) - u)) :=
    (RegsBut.setPkt .refl).wf (List.mem_singleton_self _)
  exact (hleft.weaken (by simp)).trans
    ((regsBut_dropFrame (s := left.wf (F.TMG_PORT_WIN_USE p) (left.rf (F.TMG_PORT_WIN_USE p) - u)) hf).weaken (by simp))

/-- What is left of a port and its frame once the frame is on the wire (R303, R307, R313). -/
def State.sent (s : State) (p : Nat) (f : Frame) (out : List Byte) (gt : GTime) (ns : Nat) : State :=
  let v := (s.emit (.ethTx p out)).bump (R.ETH_CNT_TXOK p)
  (v.stampTx p (v.frameBytes f 0 f.len) gt ns).freeSel p f.addr

/-- A frame sent is put out once, is counted and leaves the packet buffer, where its source is one of R312's. -/
theorem sent_effect {s : State} {p : Fin 6} {f : Frame} (hf : s.frame f.addr = some f) (hsrc : f.src < 16) (out : List Byte)
    (gt : GTime) (ns : Nat) :
    (s.sent p.val f out gt ns).out = .ethTx p.val out :: s.out ∧ (s.sent p.val f out gt ns).frame f.addr = none ∧
      Counted (R.ETH_CNT_TXOK p.val) s (s.sent p.val f out gt ns) := by
  unfold State.sent
  extract_lets w
  generalize hv : w.stampTx p.val (w.frameBytes f 0 f.len) gt ns = v
  have hstamped : Within 65553 (s.emit (.ethTx p.val out)) v := hv ▸ .stampTx (.bump (.refl _))
  have hframe : v.frame f.addr = some f := by
    rw [State.frame, hstamped .pkt rfl]
    exact hf
  obtain ⟨hgone, hfreed⟩ := freeSel_frees (p := p.val) hframe
  have hleft : Within 4097 v (v.freeSel p.val f.addr) := .freeSel (.refl v)
  refine ⟨(hleft .out rfl).trans (hstamped .out rfl), hgone, ?_⟩
  have hcounted : Counted (R.ETH_CNT_TXOK p.val) s v :=
    hv ▸ (counted_bump (s.emit (.ethTx p.val out)) _).andThen (regsBut_stampTx _ p _ gt ns) (cntTxok_apart_cntTsovf p)
  refine hcounted.andThen hfreed ⟨?_, by unfold R.ETH_CNT_TXOK; omega⟩
  simp only [unitRegs, R.ETH_CNT_TXOK, R.TMG_PORT_WIN, R.QMG_POOLUSE, R.QMG_SHARED, List.mem_cons, List.not_mem_nil, or_false]
  omega

theorem exec_ethFrameTransmit_of_plain {s : State} {p : Fin 6} {a : Nat} {l : List Nat} {f : Frame} (stamp : GTime)
    (ns : BitVec 64) (hsel : s.selOf p.val = a :: l) (hf : s.frame a = some f) (hen : s.rb (F.ETH_CTRL_EN p.val) = true)
    (hpause : Sparse.getN s.pkt.paused p.val = 0) (hsec : s.rb (F.ETH_CTRL_MSEC p.val) = false)
    (hstep : s.rb (F.ETH_CTRL_OSTEP p.val) = false)
    (hgood : s.spansBad (cellSpans pktBase (64 + f.len) f.cells) = false) :
    ∃ gt n, exec (.ethFrameTransmit p stamp ns) s = .next ((s.spansRead Ini.DMA (cellSpans pktBase (64 + f.len) f.cells)).sent
      p.val f (s.plainWire f) gt n) := by
  have haddr : f.addr = a := by simpa using List.find?_some hf
  generalize hu : s.spansRead Ini.DMA (cellSpans pktBase (64 + f.len) f.cells) = u
  have hregs : RegsBut eccRegs s u := hu ▸ regsBut_spansRead _ _ _
  have hmem : u.mem = s.mem := hu ▸ spansRead_within s _ _ .mem rfl
  obtain ⟨hecc, hge⟩ := ethCtrl_apart_ecc p
  have hevr : ¬ evrAddr (R.ETH_CTRL p.val) := not_evrAddr_of_ge hge
  have hwire : ∀ n, u.wireBytes p.val f n = (u, some (s.plainWire f)) := fun n => by
    rw [wireBytes_of_plain ((hregs.rb hecc hevr).trans hsec) ((hregs.rb hecc hevr).trans hstep),
      plainWire_congr hmem]
  have hon : ¬((!s.rb (F.ETH_CTRL_EN p.val)) = true ∨ Sparse.getN s.pkt.paused p.val ≠ 0) := by simp [hen, hpause]
  change ∃ gt n, execEthFrameTransmit p stamp ns s = _
  simp only [execEthFrameTransmit, hsel, hf, hgood, hu, hwire, if_neg hon, Bool.false_eq_true, if_false, State.sent, haddr]
  exact ⟨_, _, rfl⟩

/-- Without MACsec and one-step stamps the oldest selected frame goes out, is counted and leaves the packet buffer, where its
source is one of R312's. -/
theorem ethFrameTransmit_sends {s : State} {p : Fin 6} {a : Nat} {l : List Nat} {f : Frame} (stamp : GTime) (ns : BitVec 64)
    (hsrc : f.src < 16) (hsel : s.selOf p.val = a :: l) (hf : s.frame a = some f)
    (hen : s.rb (F.ETH_CTRL_EN p.val) = true) (hpause : Sparse.getN s.pkt.paused p.val = 0)
    (hsec : s.rb (F.ETH_CTRL_MSEC p.val) = false) (hstep : s.rb (F.ETH_CTRL_OSTEP p.val) = false)
    (hgood : s.spansBad (cellSpans pktBase (64 + f.len) f.cells) = false) :
    Runs (.ethFrameTransmit p stamp ns) s fun t =>
      t.out = .ethTx p.val (s.plainWire f) :: s.out ∧ Counted (R.ETH_CNT_TXOK p.val) s t ∧ t.frame a = none ∧
        SameBytes s t := by
  obtain ⟨gt, n, hexec⟩ := exec_ethFrameTransmit_of_plain stamp ns hsel hf hen hpause hsec hstep hgood
  obtain rfl : f.addr = a := by simpa using List.find?_some hf
  generalize hu : s.spansRead Ini.DMA (cellSpans pktBase (64 + f.len) f.cells) = u at hexec
  have hread : Within 3145745 s u := hu ▸ spansRead_within _ _ _
  obtain ⟨hout, hgone, hcounted⟩ := sent_effect (s := u) (p := p) (by rw [State.frame, hread .pkt rfl]; exact hf) hsrc
    (s.plainWire f) gt n
  refine ⟨_, hexec, hout.trans (by rw [hread .out rfl]), ?_, hgone, sameBytes_of_exec hexec (by simp [touched])⟩
  have hregs : RegsBut eccRegs s u := hu ▸ regsBut_spansRead _ _ _
  exact hcounted.after hregs (cntTxok_apart_ecc p)

/-! ### The obligation -/

/-- A frame of no bytes and one unit, whose source no ingress port has: its QMG_POOLUSE would stand at the address of port
0's ETH_CNT_TXOK. -/
def strayFrame : Frame := ⟨0x10000000, [], 0, 0x14FFE4, 1, 0⟩

/-- Port 0 is on, and `strayFrame` is the one frame selected for it. -/
def strayWindow : State :=
  State.wb { State.reset with pkt.frames := [strayFrame], pkt.sel := [(0, [0x10000000])] } (F.ETH_CTRL_EN 0) true

/-- The frame's one unit is taken from the count that its transmission has just moved. -/
theorem cntTxok_of_ethFrameTransmit_strayWindow :
    ∃ t, exec (.ethFrameTransmit 0 0 0) strayWindow = .next t ∧ t.regN (R.ETH_CNT_TXOK 0) = 0 :=
  ⟨_, rfl, by decide +kernel⟩

/-- Refutes O41: in `strayWindow` a frame goes out of port 0 and ETH_CNT_TXOK stays 0. The state is not a sensible one, but
the statement speaks of every state; where sources are those of R312, `ethFrameTransmit_sends` gives what this clause
asks. -/
theorem not_ethernetPorts : ¬ Obligations.EthernetPorts := by
  unfold Obligations.EthernetPorts
  intro h
  obtain ⟨-, htransmit, -⟩ := h strayWindow 0 0
  obtain ⟨t, hexec, -, hcounted, -⟩ := htransmit 0x10000000 [] strayFrame 0 0 (by decide +kernel) (by decide +kernel)
    (by decide +kernel) (by decide +kernel) (by decide +kernel) (by decide +kernel) (by decide +kernel)
  obtain ⟨u, hexec', hstray⟩ := cntTxok_of_ethFrameTransmit_strayWindow
  have htu : t = u := Host.Outcome.next.inj (hexec.symm.trans hexec')
  have hafter : t.regN (R.ETH_CNT_TXOK 0) = 0 := htu ▸ hstray
  have hbefore : strayWindow.regN (R.ETH_CNT_TXOK 0) = 0 := by decide +kernel
  have hone := hcounted (by change strayWindow.regN (R.ETH_CNT_TXOK 0) < _; omega)
  change t.regN (R.ETH_CNT_TXOK 0) = strayWindow.regN (R.ETH_CNT_TXOK 0) + 1 at hone
  omega

end Sys2Proof.Machine
end

section
/-! PROOFS. The queue family: the queue commands (O42). -/

namespace Sys2Proof.Machine

/-! ### Words and fields of descriptors -/

/-- A word of a descriptor stored is that word alone (R318). -/
theorem read32_qAddr_write32 (s : State) (q w k : Nat) (v : Word) :
    (s.write32 (qAddr q + 4 * w) v).read32 (qAddr q + 4 * k) = if k = w then v else s.read32 (qAddr q + 4 * k) := by
  split
  · next h => rw [h, read32_write32]
  · next h => exact read32_write32_apart (by omega)

/-- A field of a descriptor is bits of its word. -/
theorem qd_congr {s t : State} {q w : Nat} (h : t.read32 (qAddr q + 4 * w) = s.read32 (qAddr q + 4 * w)) (hi lo : Nat) :
    t.qd q w hi lo = s.qd q w hi lo :=
  congrArg (fun v => bits v hi lo) h

theorem qd_of_mem {s t : State} (h : t.mem = s.mem) (q w hi lo : Nat) : t.qd q w hi lo = s.qd q w hi lo :=
  qd_congr (read32_congr h _) hi lo

theorem read32_setQd_apart (s : State) {q w k : Nat} (hi lo n : Nat) (h : k ≠ w) :
    (s.setQd q w hi lo n).read32 (qAddr q + 4 * k) = s.read32 (qAddr q + 4 * k) := by
  rw [State.setQd, State.wmf, read32_qAddr_write32, if_neg h]

/-- A field of a descriptor written reads back, as far as it is wide. -/
theorem qd_setQd_same (s : State) (q w n : Nat) {hi lo : Nat} (h : lo ≤ hi ∧ hi < 32) :
    (s.setQd q w hi lo n).qd q w hi lo = n % 2 ^ (hi - lo + 1) := by
  rw [State.qd, State.mf, State.setQd, State.wmf, read32_write32, bits_setBits _ _ _ _ h.1 h.2]

/-- A field of a descriptor that shares no bit with the one written stands. -/
theorem qd_setQd_apart (s : State) (q n : Nat) {w k hi lo h l : Nat}
    (hb : hi < 32 ∧ lo ≤ hi ∧ l ≤ h ∧ (k ≠ w ∨ hi < l ∨ h < lo)) :
    (s.setQd q w hi lo n).qd q k h l = s.qd q k h l := by
  obtain ⟨hwidth, hlo, hl, hapart⟩ := hb
  by_cases hk : k = w
  · subst hk
    rw [State.qd, State.mf, State.setQd, State.wmf, read32_write32,
      bits_setBits_other _ _ _ _ _ _ hwidth hlo (hapart.resolve_left (· rfl)) hl]
    rfl
  · exact qd_congr (read32_setQd_apart s hi lo n hk) h l

/-- Between two states no byte outside queue descriptor `q` changes. -/
def DescriptorAlone (q : Nat) (s t : State) : Prop := ∀ b, b < qAddr q ∨ qAddr q + 32 ≤ b → t.byte b = s.byte b

namespace DescriptorAlone

variable {q : Nat} {s t u : State}

theorem refl : DescriptorAlone q s s := fun _ _ => rfl

theorem write32 {w : Nat} {v : Word} (h : DescriptorAlone q s t) (hw : w < 8) :
    DescriptorAlone q s (t.write32 (qAddr q + 4 * w) v) := fun b hb =>
  (byte_writeN_of_outside (by omega)).trans (h b hb)

theorem setQd {w hi lo n : Nat} (h : DescriptorAlone q s t) (hw : w < 8) : DescriptorAlone q s (t.setQd q w hi lo n) := by
  rw [State.setQd, State.wmf]
  exact h.write32 hw

theorem setWords {l : List Word} (h : DescriptorAlone q s t) (hl : l.length ≤ 8) :
    DescriptorAlone q s (t.setWords (qAddr q) l) := fun b hb =>
  (byte_setWords_of_outside (by omega)).trans (h b hb)

theorem of_mem (h : DescriptorAlone q s t) (hmem : u.mem = t.mem) : DescriptorAlone q s u := fun b hb =>
  (sameBytes_of_mem hmem b).trans (h b hb)

end DescriptorAlone

/-! ### The head of the command queue -/

/-- The command at the head has completed with OK (R320): it has left the queue, and the queues, the frames, the number of
queues and memory stand. -/
structure QueueCmdOver (s t : State) : Prop where
  qcmds : t.pkt.qcmds = s.pkt.qcmds.drop 1
  queues : t.pkt.queues = s.pkt.queues
  frames : t.pkt.frames = s.pkt.frames
  queueCount : t.rf F.QMG_STAT_QUEUES = s.rf F.QMG_STAT_QUEUES
  mem : t.mem = s.mem

theorem queueCmdOver_qDone (s : State) (c : QCmd) : QueueCmdOver s (s.qDone c St.OK) := by
  unfold State.qDone
  extract_lets dropped answered counted
  have hcounted : counted = answered := if_neg (by decide)
  have hsync (t : State) : t.qmgSync.rf F.QMG_STAT_QUEUES = t.rf F.QMG_STAT_QUEUES :=
    rf_wb_other _ _ _ _ (by decide) (by decide) (by decide) (by decide)
  rw [if_pos rfl, hcounted]
  unfold answered
  split
  · exact ⟨rfl, rfl, rfl, hsync _, rfl⟩
  · have hbump : Within 1 dropped (dropped.bump R.QMG_CNT_RESOVF) := .bump (.refl dropped)
    have hpkt : (dropped.bump R.QMG_CNT_RESOVF).pkt = dropped.pkt := hbump .pkt rfl
    have hregs : RegsBut [R.QMG_CNT_RESOVF] dropped (dropped.bump R.QMG_CNT_RESOVF) :=
      RegsBut.refl.bump (List.mem_singleton_self _)
    exact ⟨(congrArg PktSt.qcmds hpkt :), (congrArg PktSt.queues hpkt :), (congrArg PktSt.frames hpkt :),
      (hsync _).trans (hregs.rf (by decide) (not_evrAddr_of_ge (by decide))), hbump .mem rfl⟩

namespace QueueCmdOver

variable {s t u : State} {c : QCmd} {cs : List QCmd}

theorem qcmds_eq (h : QueueCmdOver t u) (hcmds : t.pkt.qcmds = c :: cs) : u.pkt.qcmds = cs := by
  rw [h.qcmds, hcmds, List.drop_one, List.tail_cons]

theorem queue (h : QueueCmdOver t u) (q : Nat) : u.queue q = t.queue q :=
  congrArg (fun l => Sparse.get (fun _ => []) l q) h.queues

theorem frame (h : QueueCmdOver t u) (a : Nat) : u.frame a = t.frame a :=
  congrArg (fun l => l.find? fun f => f.addr == a) h.frames

theorem read32 (h : QueueCmdOver t u) (a : Nat) : u.read32 a = t.read32 a := read32_congr h.mem a

theorem qd (h : QueueCmdOver t u) (q w hi lo : Nat) : u.qd q w hi lo = t.qd q w hi lo := qd_of_mem h.mem ..

/-- What every queue command but a flush keeps: the commands behind it, and the bytes outside its descriptor. -/
theorem kept (h : QueueCmdOver t u) (hcmds : t.pkt.qcmds = c :: cs) (halone : DescriptorAlone c.q s t) :
    u.pkt.qcmds = cs ∧ DescriptorAlone c.q s u := ⟨h.qcmds_eq hcmds, halone.of_mem h.mem⟩

end QueueCmdOver

/-- A command at the head whose effect is OK answers a state in which it has completed (R319). -/
theorem runs_of_qRun {i : Instr} {s t : State} {c : QCmd} {cs : List QCmd} {opc : Nat} {f : State → QCmd → Nat → State × Nat}
    {P : State → Prop} (hexec : exec i s = .next (s.qRun opc f)) (hcmds : s.pkt.qcmds = c :: cs)
    (hready : s.ready Fn.PACKET = true) (hopc : c.opc = opc) (heffect : f s c (s.qd c.q 0 31 30) = (t, St.OK))
    (hP : ∀ u, QueueCmdOver t u → P u) : Runs i s P := by
  have hrun : s.qRun opc f = t.qDone c St.OK := by
    simp only [State.qRun, hcmds, hopc, hready, heffect, ne_eq, not_true_eq_false, if_false, Bool.not_true,
      Bool.false_eq_true]
  exact ⟨_, hexec.trans (congrArg _ hrun), hP _ (queueCmdOver_qDone t c)⟩

/-! ### Creation -/

/-- Filling a queue's shaper and policer leaves the commands (R319). -/
theorem qcmds_qFill (s : State) (q : Nat) : (s.qFill q).pkt.qcmds = s.pkt.qcmds := by
  unfold State.qFill
  extract_lets shaper policer filled
  have hfilled : filled.pkt.qcmds = s.pkt.qcmds := by
    unfold filled
    split <;> rfl
  split
  · exact hfilled
  · exact hfilled

/-- The descriptor that `c` creates: its parameters, STOPPED, and empty (R318, R319). -/
def QCmd.descriptor (c : QCmd) : List Word := [setBits c.w1 31 30 Qs.STOPPED, c.w2, 0, 0, 0, c.w3, 0, 0]

/-- The state after `c` has created its queue (R319). -/
def State.queueCreated (s : State) (c : QCmd) : State :=
  let t := s.setWords (qAddr c.q) c.descriptor
  (t.wf F.QMG_STAT_QUEUES (t.rf F.QMG_STAT_QUEUES + 1)).qFill c.q

theorem queueCreated_installs (s : State) (c : QCmd) :
    (s.queueCreated c).qd c.q 0 31 30 = Qs.STOPPED ∧ (s.queueCreated c).read32 (qAddr c.q + 4 * 1) = c.w2 ∧
      (s.queueCreated c).read32 (qAddr c.q + 4 * 5) = c.w3 ∧ (s.queueCreated c).qd c.q 2 31 16 = 0 ∧
      DescriptorAlone c.q s (s.queueCreated c) := by
  have hmem : (s.queueCreated c).mem = (s.setWords (qAddr c.q) c.descriptor).mem :=
    Within.qFill (m := 4097) (.wf (.refl _)) ⟨rfl⟩ .mem rfl
  have hword {k : Nat} {v : Word} (h : c.descriptor[k]? = some v) : (s.queueCreated c).read32 (qAddr c.q + 4 * k) = v :=
    (read32_congr hmem _).trans (read32_setWords h)
  have halone : DescriptorAlone c.q s (s.setWords (qAddr c.q) c.descriptor) :=
    DescriptorAlone.refl.setWords (l := c.descriptor) (Nat.le_refl 8)
  refine ⟨(congrArg (fun v => bits v 31 30) (hword (k := 0) rfl)).trans ?_, hword rfl, hword rfl,
    congrArg (fun v => bits v 31 16) (hword (k := 2) rfl), halone.of_mem hmem⟩
  exact bits_setBits _ _ _ _ (by decide) (by decide)

/-! ### Deletion -/

/-- The state after queue `q` has been deleted (R319). -/
def State.queueFreed (s : State) (q : Nat) : State :=
  (s.setQd q 0 31 30 Qs.FREE).wf F.QMG_STAT_QUEUES (s.rf F.QMG_STAT_QUEUES - 1)

theorem queueFreed_records (s : State) (q : Nat) :
    (s.queueFreed q).qd q 0 31 30 = Qs.FREE ∧ (s.queueFreed q).rf F.QMG_STAT_QUEUES = s.rf F.QMG_STAT_QUEUES - 1 ∧
      DescriptorAlone q s (s.queueFreed q) := by
  have hmem : (s.queueFreed q).mem = (s.setQd q 0 31 30 Qs.FREE).mem := setReg_mem ..
  refine ⟨(qd_of_mem hmem ..).trans (qd_setQd_same _ _ _ _ (by decide)), ?_,
    (DescriptorAlone.refl.setQd (by decide)).of_mem hmem⟩
  have hlt : s.rf F.QMG_STAT_QUEUES - 1 < 2 ^ 14 := Nat.lt_of_le_of_lt (Nat.sub_le ..) (rf_lt s F.QMG_STAT_QUEUES)
  exact (rf_wf_same _ _ _ (by decide) (by decide)).trans (Nat.mod_eq_of_lt hlt)

/-! ### Parameters -/

/-- A field written with a field of a word, as wide as itself, holds it. -/
theorem qd_setQd_bits (s : State) (q w : Nat) (v : Word) {hi lo h l : Nat} (hb : lo ≤ hi ∧ hi < 32 ∧ h - l = hi - lo) :
    (s.setQd q w hi lo (bits v h l)).qd q w hi lo = bits v h l :=
  (qd_setQd_same s q w _ ⟨hb.1, hb.2.1⟩).trans (Nat.mod_eq_of_lt (hb.2.2 ▸ bits_lt v h l))

/-- The state after a queue has taken the parameters of descriptor word 0 from `c`. -/
def State.queueShaped (s : State) (c : QCmd) : State :=
  (s.setQd c.q 0 21 10 (bits c.w1 21 10)).setQd c.q 0 7 0 (bits c.w1 7 0)

/-- The state after `c` has replaced the parameters of its queue (R319). -/
def State.queueSet (s : State) (c : QCmd) : State :=
  (((s.queueShaped c).write32 (qAddr c.q + 4 * 1) c.w2).setQd c.q 5 31 28 (bits c.w3 31 28)).setQd c.q 5 10 0
    (bits c.w3 10 0)

theorem qSet_of_same {s : State} {c : QCmd} {st : Nat} (hst : st ≠ Qs.FREE) (hport : bits c.w1 29 23 = s.qd c.q 0 29 23)
    (hclient : bits c.w3 27 16 = s.qd c.q 5 27 16) : qSet s c st = (s.queueSet c, St.OK) :=
  (if_neg hst).trans (if_neg (by simp [hport, hclient]))

theorem qd_zero_queueSet (s : State) (c : QCmd) (hi lo : Nat) :
    (s.queueSet c).qd c.q 0 hi lo = (s.queueShaped c).qd c.q 0 hi lo :=
  qd_congr ((read32_setQd_apart _ _ _ _ (by decide)).trans ((read32_setQd_apart _ _ _ _ (by decide)).trans
    ((read32_qAddr_write32 ..).trans (if_neg (by decide))))) hi lo

/-- The parameters are those of the command, and the queue's state stands (R319). -/
theorem queueSet_replaces (s : State) (c : QCmd) :
    (s.queueSet c).read32 (qAddr c.q + 4 * 1) = c.w2 ∧ (s.queueSet c).qd c.q 0 21 10 = bits c.w1 21 10 ∧
      (s.queueSet c).qd c.q 0 7 0 = bits c.w1 7 0 ∧ (s.queueSet c).qd c.q 5 10 0 = bits c.w3 10 0 ∧
      (s.queueSet c).qd c.q 0 31 30 = s.qd c.q 0 31 30 ∧ DescriptorAlone c.q s (s.queueSet c) := by
  simp only [qd_zero_queueSet]
  refine ⟨?limits, ?shaper, qd_setQd_bits _ _ _ _ (by decide), qd_setQd_bits _ _ _ _ (by decide), ?state, ?alone⟩
  case limits =>
    exact (read32_setQd_apart _ _ _ _ (by decide)).trans ((read32_setQd_apart _ _ _ _ (by decide)).trans (read32_write32 ..))
  case shaper => exact (qd_setQd_apart _ _ _ (by decide)).trans (qd_setQd_bits _ _ _ _ (by decide))
  case state => exact (qd_setQd_apart _ _ _ (by decide)).trans (qd_setQd_apart _ _ _ (by decide))
  case alone =>
    have hshaped : DescriptorAlone c.q s (s.queueShaped c) := (DescriptorAlone.refl.setQd (by decide)).setQd (by decide)
    exact ((hshaped.write32 (by decide)).setQd (by decide)).setQd (by decide)

/-! ### Flushes -/

/-- From `s` to `t` frames are dropped: the queues and the waiting commands stand, and no frame is new. -/
structure OnlyDrops (s t : State) : Prop extends QueuesStand s t where
  qcmds : t.pkt.qcmds = s.pkt.qcmds
  frames : t.pkt.frames ⊆ s.pkt.frames

namespace OnlyDrops

variable {s t u : State}

theorem refl : OnlyDrops s s := ⟨.refl, rfl, List.Subset.refl _⟩

theorem trans (h : OnlyDrops s t) (g : OnlyDrops t u) : OnlyDrops s u :=
  ⟨h.toQueuesStand.trans g.toQueuesStand, g.qcmds.trans h.qcmds, List.Subset.trans g.frames h.frames⟩

theorem of_within {m : Nat} (h : Within m s t) (hm : m.testBit Part.pkt.num = false) : OnlyDrops s t :=
  have hpkt : t.pkt = s.pkt := h .pkt hm
  ⟨.of_within h hm, congrArg PktSt.qcmds hpkt, fun _ hf => congrArg PktSt.frames hpkt ▸ hf⟩

theorem dropFrame (a : Nat) : OnlyDrops s (s.dropFrame a) := by
  unfold State.dropFrame
  split
  · exact .refl
  · next =>
    let left := s.setPkt fun p => { p with frames := p.frames.filter fun g => g.addr != a }
    have hleft : OnlyDrops s left := ⟨⟨rfl, rfl⟩, rfl, fun _ hg => (List.mem_filter.mp hg).1⟩
    exact hleft.trans (.of_within (m := 1) (.release (.refl left)) rfl)

theorem qDrop (q a : Nat) : OnlyDrops s (s.qDrop q a) := by
  unfold State.qDrop
  extract_lets noted
  have hnoted : OnlyDrops s noted := ⟨⟨rfl, rfl⟩, rfl, List.Subset.refl _⟩
  exact (hnoted.trans (.of_within (m := 2) (.incWord (.refl noted)) rfl)).trans (.dropFrame a)

/-- A frame that is gone stays away. -/
theorem frame_eq_none (h : OnlyDrops s t) {a : Nat} (hgone : s.frame a = none) : t.frame a = none :=
  List.find?_eq_none.mpr fun f hf => List.find?_eq_none.mp hgone f (h.frames hf)

end OnlyDrops

/-- The state after a queue's client has been told that frame `a` leaves it (R321). -/
def State.flushReported (s : State) (q a : Nat) : State :=
  match s.frame a with
  | some f => if s.qd q 5 27 16 = 0xFFF then s else s.reportOut (s.qd q 5 27 16) f.tid f.units
  | none => s

theorem flushAll_cons (s : State) (q a : Nat) (l : List Nat) :
    s.flushAll q (a :: l) = (((s.flushReported q a).bump R.QMG_CNT_FLUSH).qDrop q a).flushAll q l := rfl

theorem flushReported_within (s : State) (q a : Nat) : Within 3 s (s.flushReported q a) := by
  unfold State.flushReported
  split
  · exact .ite (.refl s) (.reportOut (.refl s))
  · exact .refl s

/-- A flush drops every frame it is given, and no frame comes in its place (R319). -/
theorem flushAll_drops (s : State) (q : Nat) (l : List Nat) :
    OnlyDrops s (s.flushAll q l) ∧ ∀ a ∈ l, (s.flushAll q l).frame a = none := by
  induction l generalizing s with
  | nil => exact ⟨.refl, fun a ha => absurd ha List.not_mem_nil⟩
  | cons a l ih =>
    rw [flushAll_cons]
    let counted := (s.flushReported q a).bump R.QMG_CNT_FLUSH
    obtain ⟨hrest, hgone⟩ := ih (counted.qDrop q a)
    have hcounted : OnlyDrops s counted := .of_within (m := 3) (.bump (flushReported_within s q a)) rfl
    refine ⟨(hcounted.trans (.qDrop q a)).trans hrest, fun b hb => ?_⟩
    rcases List.mem_cons.mp hb with rfl | hlater
    · exact hrest.frame_eq_none (frame_dropFrame _ b)
    · exact hgone b hlater

/-- The records stand above the descriptors (R182, R318). -/
theorem qAddr_add_le_clAddr {q : Nat} (hq : q < 8192) (i : Nat) : qAddr q + 32 ≤ clAddr i := by
  unfold qAddr clAddr
  omega

/-- A flush writes of the descriptors no more than the queue's count of drops, its last word (R318). -/
theorem byte_flushAll {s : State} {q b : Nat} (hq : q < 8192) (hb : b < qAddr q + 28) (l : List Nat) :
    (s.flushAll q l).byte b = s.byte b := by
  induction l generalizing s with
  | nil => rfl
  | cons a l ih =>
    have hreported : (s.flushReported q a).byte b = s.byte b := by
      have hlow (i : Nat) : b < clAddr i + 32 := by
        have := qAddr_add_le_clAddr hq i
        omega
      unfold State.flushReported
      split
      · split
        · rfl
        · exact byte_reportOut_of_below (hlow _)
      · rfl
    have hdropped (t : State) : (t.qDrop q a).byte b = t.byte b :=
      (sameBytes_of_mem (dropFrame_within _ a .mem rfl) b).trans (byte_writeN_of_outside (.inl hb))
    rw [flushAll_cons, ih, hdropped, sameBytes_of_mem (bump_mem ..), hreported]

theorem setQd_pkt (s : State) (q w hi lo n : Nat) : (s.setQd q w hi lo n).pkt = s.pkt :=
  Within.setQd (m := 2) (.refl s) ⟨rfl⟩ .pkt rfl

theorem qcmds_setQueue (s : State) (q : Nat) (l : List Nat) : (s.setQueue q l).pkt.qcmds = s.pkt.qcmds := by
  simp only [State.setQueue, setQd_pkt, setPkt_pkt]

/-- The state after a queue has become empty (R319, R326). -/
def State.queueEmptied (s : State) (q : Nat) : State := ((s.setQueue q []).setQd q 2 31 16 0).drrLeave q

theorem queueEmptied_stands (s : State) (q : Nat) :
    (s.queueEmptied q).queue q = [] ∧ (s.queueEmptied q).qd q 2 31 16 = 0 ∧ (s.queueEmptied q).pkt.qcmds = s.pkt.qcmds := by
  have hstand : QueuesStand (s.setQueue q []) (s.queueEmptied q) :=
    (QueuesStand.refl.setQd q 2 31 16 0).trans (queuesStand_drrLeave _ q)
  refine ⟨(hstand.queue q).trans (setQueue_sets s q []).1, ?depth, ?commands⟩
  case depth =>
    let short := (s.setQueue q []).setQd q 2 31 16 0
    calc (short.drrLeave q).qd q 2 31 16
        = (short.setQd q 4 23 0 0).qd q 2 31 16 := qd_of_mem (setPkt_mem ..) ..
      _ = short.qd q 2 31 16 := qd_setQd_apart _ _ _ (by decide)
      _ = 0 := qd_setQd_same _ _ _ _ (by decide)
  case commands => simp only [State.queueEmptied, State.drrLeave, setPkt_pkt, setQd_pkt, qcmds_setQueue]

theorem qd_flushAll {s : State} {q w : Nat} (hq : q < 8192) (hw : w < 7) (l : List Nat) (hi lo : Nat) :
    (s.flushAll q l).qd q w hi lo = s.qd q w hi lo :=
  qd_congr (congrArg (BitVec.ofNat 32) (readN_congr fun b _ hb => byte_flushAll hq (by omega) l)) hi lo

/-! ### The obligation -/

/-- Settles O42: each command at the head has its effect and completes (`runs_of_qRun`); completing it leaves the descriptors,
the queues and the frames (`QueueCmdOver`). -/
theorem queueCommands : Obligations.QueueCommands := by
  unfold Obligations.QueueCommands
  intro s c cs hcmds hready hq kept
  have hsetQd (w hi lo n : Nat) (hw : w < 8) : DescriptorAlone c.q s (s.setQd c.q w hi lo n) :=
    DescriptorAlone.refl.setQd hw
  refine ⟨fun hopc hst => ?create, fun hopc hst hempty => ?delete, fun hopc hst hport hclient => ?set,
    fun hopc hst hempty => ?move, fun hopc hst => ?start, fun hopc hst => ?stop, fun hopc hst => ?flush⟩
  case create =>
    obtain ⟨hstate, hlimits, hpol, hdepth, halone⟩ := queueCreated_installs s c
    exact runs_of_qRun (t := s.queueCreated c) rfl hcmds hready hopc (if_neg fun hne => hne hst) fun u hover =>
      ⟨(hover.qd ..).trans hstate, (hover.read32 _).trans hlimits, (hover.read32 _).trans hpol, (hover.qd ..).trans hdepth,
        hover.kept ((qcmds_qFill ..).trans hcmds) halone⟩
  case delete =>
    have hused : s.qd c.q 0 31 30 ≠ Qs.FREE := hst ▸ by decide
    obtain ⟨hfree, hcount, halone⟩ := queueFreed_records s c.q
    exact runs_of_qRun (t := s.queueFreed c.q) rfl hcmds hready hopc
      ((if_neg hused).trans (if_neg (by simp [hst, hempty, Qs.STOPPED, Qs.ACTIVE]))) fun u hover =>
      ⟨(hover.qd ..).trans hfree, hover.queueCount.trans hcount, hover.kept hcmds halone⟩
  case set =>
    obtain ⟨hlimits, hshaper, hweight, hpol, hstate, halone⟩ := queueSet_replaces s c
    exact runs_of_qRun (t := s.queueSet c) rfl hcmds hready hopc (qSet_of_same hst hport hclient) fun u hover =>
      ⟨(hover.read32 _).trans hlimits, (hover.qd ..).trans hshaper, (hover.qd ..).trans hweight, (hover.qd ..).trans hpol,
        (hover.qd ..).trans hstate, hover.kept hcmds halone⟩
  case move =>
    let ported := s.setQd c.q 0 29 23 (bits c.w1 29 23)
    refine runs_of_qRun (t := ported.setQd c.q 5 27 16 (bits c.w3 27 16)) rfl hcmds hready hopc
      (if_neg (by simp [hst, hempty])) fun u hover => ⟨(hover.qd ..).trans ?_, (hover.qd ..).trans ?_, hover.kept hcmds ?_⟩
    · exact (qd_setQd_apart _ _ _ (by decide)).trans (qd_setQd_bits _ _ _ _ (by decide))
    · exact qd_setQd_bits _ _ _ _ (by decide)
    · exact (hsetQd _ _ _ _ (by decide)).setQd (by decide)
  case start =>
    exact runs_of_qRun (t := s.setQd c.q 0 31 30 Qs.ACTIVE) rfl hcmds hready hopc (if_neg hst) fun u hover =>
      ⟨(hover.qd ..).trans (qd_setQd_same _ _ _ _ (by decide)), hover.kept hcmds (hsetQd _ _ _ _ (by decide))⟩
  case stop =>
    exact runs_of_qRun (t := s.setQd c.q 0 31 30 Qs.STOPPED) rfl hcmds hready hopc (if_neg hst) fun u hover =>
      ⟨(hover.qd ..).trans (qd_setQd_same _ _ _ _ (by decide)), hover.kept hcmds (hsetQd _ _ _ _ (by decide))⟩
  case flush =>
    obtain ⟨hqueue, hdepth, hqcmds⟩ := queueEmptied_stands s c.q
    obtain ⟨hdrops, hgone⟩ := flushAll_drops (s.queueEmptied c.q) c.q (s.queue c.q)
    refine runs_of_qRun (t := (s.queueEmptied c.q).flushAll c.q (s.queue c.q)) rfl hcmds hready hopc
      (if_neg fun hne => hne hst) fun u hover => ⟨?_, ?_, fun a ha => (hover.frame a).trans (hgone a ha), ?_⟩
    · exact (hover.queue _).trans ((hdrops.queue _).trans hqueue)
    · exact (hover.qd ..).trans ((qd_flushAll hq (by decide) _ _ _).trans hdepth)
    · exact hover.qcmds_eq (hdrops.qcmds.trans (hqcmds.trans hcmds))

end Sys2Proof.Machine
end

section
/-! PROOFS. The queue family: the ports of the queue manager (O43), which a frame of a stray source refutes. -/

namespace Sys2Proof.Machine

/-! ### Results for a free queue -/

/-- The oldest result of the PPE has left those that wait (R321). -/
def State.resultTaken (s : State) (rest : List (Nat × Nat)) : State := s.setPkt fun p => { p with qmgIn := rest }

theorem exec_enqueue_of_head {s : State} {a q : Nat} {rest : List (Nat × Nat)} {f : Frame} (hin : s.pkt.qmgIn = (a, q) :: rest)
    (hen : s.rb F.QMG_CTRL_EN = true) (hf : s.frame a = some f) :
    exec .enqueue s = .next ((s.resultTaken rest).enqueue q f).qmgSync := by
  have hframe : (s.setPkt fun p => { p with qmgIn := rest }).frame a = some f := hf
  change execEnqueue s = _
  simp only [execEnqueue, hin, hen, hframe, Bool.not_true, Bool.false_eq_true, if_false, State.resultTaken]

/-- A frame for a free queue is dropped and counted (R321), where its source is one of R312's. -/
theorem enqueue_drops_on_free {s : State} {a q : Nat} {rest : List (Nat × Nat)} {f : Frame} (hsrc : f.src < 16)
    (hin : s.pkt.qmgIn = (a, q) :: rest) (hen : s.rb F.QMG_CTRL_EN = true) (hf : s.frame a = some f)
    (hfree : s.qd q 0 31 30 = Qs.FREE) : Runs .enqueue s fun t =>
      t.frame a = none ∧ t.pkt.qmgIn = rest ∧ Counted R.QMG_CNT_NOQ s t ∧ SameBytes s t := by
  obtain rfl : f.addr = a := by simpa using List.find?_some hf
  let dropped := (s.resultTaken rest).dropFrame f.addr
  let t := ((dropped.bump R.QMG_CNT_NOQ).raise 113).qmgSync
  have hexec : exec .enqueue s = .next t := by
    have henqueue : (s.resultTaken rest).enqueue q f = (dropped.bump R.QMG_CNT_NOQ).raise 113 := if_pos hfree
    rw [exec_enqueue_of_head hin hen hf, henqueue]
  have hend : Within 17 dropped t := .qmgSync (.raise (.bump (.refl dropped)))
  have hpkt : t.pkt = dropped.pkt := hend .pkt rfl
  have hregs : RegsBut (unitRegs f.src) s dropped := regsBut_dropFrame (s := s.resultTaken rest) hf
  have hsync : RegsBut [R.QMG_STAT] (dropped.bump R.QMG_CNT_NOQ) t :=
    (RegsBut.refl.raise (by decide)).wb (List.mem_singleton_self _)
  have hapart : R.QMG_CNT_NOQ ∉ unitRegs f.src := by
    simp only [unitRegs, R.QMG_CNT_NOQ, R.QMG_POOLUSE, R.QMG_SHARED, List.mem_cons, List.not_mem_nil, or_false]
    omega
  refine ⟨t, hexec, ?gone, ?left, ?counted, ?bytes⟩
  case gone =>
    rw [State.frame, hpkt]
    exact frame_dropFrame _ _
  case left =>
    have hkept : dropped.pkt.qmgIn = rest := by
      simp only [dropped, State.dropFrame]
      split
      · rfl
      · rw [release_pkt]
        rfl
    rw [hpkt, hkept]
  case counted => exact ((counted_bump dropped _).after hregs ⟨hapart, by decide⟩).andThen hsync (by decide)
  case bytes =>
    exact sameBytes_of_mem ((hend .mem rfl).trans (dropFrame_within (s.resultTaken rest) f.addr .mem rfl))

/-! ### The obligation -/

/-- A frame of no bytes and one unit, whose source no ingress port has: its QMG_POOLUSE would stand at the address of
QMG_CNT_NOQ. -/
def strayResultFrame : Frame := ⟨0x10000000, [], 0, 82, 1, 0⟩

/-- The one result of the PPE sends `strayResultFrame` to queue 0, which is free, and one such frame has been counted. -/
def strayResult : State :=
  let s := { State.reset with pkt.qmgIn := [(0x10000000, 0)], pkt.frames := [strayResultFrame] }
  (s.setRegN R.QMG_CNT_NOQ 1).wb F.QMG_CTRL_EN true

/-- The frame's one unit is taken from the count, which the drop then moves back. -/
theorem cntNoq_of_enqueue_strayResult :
    ∃ t, exec .enqueue strayResult = .next t ∧ t.regN R.QMG_CNT_NOQ = 1 :=
  ⟨_, rfl, by decide +kernel⟩

/-- Refutes O43: in `strayResult` a frame for a free queue is dropped and QMG_CNT_NOQ stays 1. The state is not a sensible
one, but the statement speaks of every state; where sources are those of R312, `enqueue_drops_on_free` gives what this clause
asks. -/
theorem not_queuePorts : ¬ Obligations.QueuePorts := by
  unfold Obligations.QueuePorts
  intro h
  obtain ⟨-, -, -, -, -, henqueue, -⟩ := h strayResult 0
  obtain ⟨hfree, -⟩ := henqueue 0x10000000 0 [] strayResultFrame (by decide +kernel) (by decide +kernel) (by decide +kernel)
    (by decide)
  obtain ⟨t, hexec, -, -, hcounted, -⟩ := hfree (by decide +kernel)
  obtain ⟨u, hexec', hstray⟩ := cntNoq_of_enqueue_strayResult
  have htu : t = u := Host.Outcome.next.inj (hexec.symm.trans hexec')
  have hafter : t.regN R.QMG_CNT_NOQ = 1 := htu ▸ hstray
  have hbefore : strayResult.regN R.QMG_CNT_NOQ = 1 := by decide +kernel
  have hone := hcounted (by omega)
  omega

end Sys2Proof.Machine
end


section
/-! PROOFS. The DMA family: the channel commands (O45). -/

namespace Sys2Proof.Machine

/-! ### Registers and fields of a channel -/

/-- A field keeps its value when the other is written: they share no bit. -/
def Fld.Apart (f g : Fld) : Prop :=
  f.hi < 32 ∧ f.lo ≤ f.hi ∧ g.lo ≤ g.hi ∧ (g.addr ≠ f.addr ∨ f.hi < g.lo ∨ g.hi < f.lo)

theorem Fld.apart_of_bits {a hi lo h l : Nat} (hb : hi < 32 ∧ lo ≤ hi ∧ l ≤ h ∧ (hi < l ∨ h < lo)) :
    Fld.Apart ⟨a, hi, lo⟩ ⟨a, h, l⟩ := by
  obtain ⟨hwidth, hf, hg, hapart⟩ := hb
  exact ⟨hwidth, hf, hg, .inr hapart⟩

/-- The registers of channels and of check units stand above the EVR's window (R368, R369). -/
theorem not_evrAddr_array {b k : Nat} (h : 0x40020000 ≤ b) : ¬ evrAddr (b + 0x40 * k) :=
  not_evrAddr_of_ge (Nat.le_add_right_of_le h)

namespace RegsBut

variable {l : List Nat} {s t : State} {n : Nat}

theorem setCh {c : DmaChan} (h : RegsBut l s t) : RegsBut l s (t.setCh n c) := h.trans (.of_eq rfl)

theorem chEvent (h : RegsBut l s t) (hn : n < 128) : RegsBut l s (t.chEvent n) := h.raise (by omega)

theorem chCause {f : Fld} (h : RegsBut l s t) (hf : f.addr ∈ l) (hn : n < 128) : RegsBut l s (t.chCause n f) :=
  (h.wb hf).chEvent hn

theorem chEnter {st : Nat} (h : RegsBut l s t) (ha : R.CH_STAT n ∈ l) : RegsBut l s (t.chEnter n st) := h.wf ha

end RegsBut

@[simp] theorem ch_setCh (s : State) (n : Nat) (c : DmaChan) : (s.setCh n c).ch n = c :=
  (Sparse.get_put _ _ _ _ _).trans (if_pos rfl)

@[simp] theorem wf_ch (s : State) (f : Fld) (v n : Nat) : (s.wf f v).ch n = s.ch n := rfl
@[simp] theorem wf_mem (s : State) (f : Fld) (v : Nat) : (s.wf f v).mem = s.mem := rfl
@[simp] theorem wf_dma (s : State) (f : Fld) (v : Nat) : (s.wf f v).dma = s.dma := rfl
@[simp] theorem setCh_mem (s : State) (n : Nat) (c : DmaChan) : (s.setCh n c).mem = s.mem := rfl
@[simp] theorem setCh_rf (s : State) (n : Nat) (c : DmaChan) (g : Fld) : (s.setCh n c).rf g = s.rf g := rfl

theorem ch_congr {s t : State} (h : t.dma = s.dma) (n : Nat) : t.ch n = s.ch n := by
  rw [State.ch, h, State.ch]

theorem chState_chEnter (s : State) (n : Nat) {st : Nat} (h : st < 8) : (s.chEnter n st).chState n = st :=
  (rf_wf_same s (F.CH_STAT_STATE n) st (by decide : 29 ≤ 31) (by decide : 31 < 32)).trans (Nat.mod_eq_of_lt h)

/-- A field beside the cause bit that is set keeps its value, and the event leaves the channel's registers (R350). -/
theorem rf_chCause_apart (s : State) {n : Nat} {f g : Fld} (hn : n < 128) (hfg : f.Apart g) (hg : ¬ evrAddr g.addr) :
    (s.chCause n f).rf g = s.rf g :=
  (rf_raise _ _ _ (by omega) hg).trans (rf_wf_apart s _ hfg)

theorem rb_chCause_same (s : State) {n : Nat} {f : Fld} (hn : n < 128) (hbit : f.hi = f.lo) (hwidth : f.hi < 32)
    (hf : ¬ evrAddr f.addr) : (s.chCause n f).rb f = true := by
  rw [State.rb, State.chCause, State.chEvent, rf_raise _ _ _ (by omega) hf, ← State.rb, rb_wb_same _ _ hbit hwidth]

/-! ### Changes of state -/

/-- A channel comes into a state, holding what is named; the fields of CHn_STAT below STATE stand, beside CHn_STAT and the EVR
no register moves, and memory stands. -/
structure ChannelIn (n st : Nat) (c : DmaChan) (s t : State) : Prop where
  state : t.chState n = st
  chan : t.ch n = c
  flags : ∀ {hi lo}, lo ≤ hi → hi < 29 → t.rf ⟨R.CH_STAT n, hi, lo⟩ = s.rf ⟨R.CH_STAT n, hi, lo⟩
  regs : RegsBut [R.CH_STAT n] s t
  mem : t.mem = s.mem

theorem channelIn_chEnter (s : State) (n : Nat) {st : Nat} (h : st < 8) : ChannelIn n st (s.ch n) s (s.chEnter n st) where
  state := chState_chEnter s n h
  chan := wf_ch ..
  flags hlo hhi := rf_wf_apart s _ (Fld.apart_of_bits (by omega) : Fld.Apart (F.CH_STAT_STATE n) ⟨R.CH_STAT n, _, _⟩)
  regs := RegsBut.refl.chEnter (List.mem_singleton_self _)
  mem := wf_mem ..

theorem channelIn_setCh_chEnter (s : State) (n : Nat) (c : DmaChan) {st : Nat} (h : st < 8) :
    ChannelIn n st c s ((s.setCh n c).chEnter n st) := by
  obtain ⟨hstate, hchan, hflags, hregs, hmem⟩ := channelIn_chEnter (s.setCh n c) n h
  exact ⟨hstate, hchan.trans (ch_setCh s n c), fun hlo hhi => (hflags hlo hhi).trans (setCh_rf ..),
    (RegsBut.refl.setCh).trans hregs, hmem.trans (setCh_mem ..)⟩

/-- Entering IDLE, a channel holds no descriptor: a fetch is in progress (R338). -/
theorem channelIn_chFetch (s : State) (n : Nat) :
    ChannelIn n Cs.IDLE { DmaChan.none with noWait := (s.ch n).noWait } s (s.chFetch n) :=
  channelIn_setCh_chEnter s n _ (by decide)

/-- Entering RUN, a channel keeps its descriptor, and may hold the check unit that the descriptor names (R359). -/
theorem channelIn_chRun (s : State) (n : Nat) :
    ∃ bound, ChannelIn n Cs.RUN { s.ch n with bound := bound } s (s.chRun n) :=
  ⟨_, channelIn_setCh_chEnter s n _ (by decide)⟩

/-- A flag of CHn_STAT below STATE is written: the state of the channel stands. -/
theorem chState_wb_stat (s : State) (n : Nat) {k : Nat} (b : Bool) (hk : k < 29) :
    (s.wb ⟨R.CH_STAT n, k, k⟩ b).chState n = s.chState n :=
  rf_wf_apart s _ (Fld.apart_of_bits (by omega) : Fld.Apart ⟨R.CH_STAT n, k, k⟩ (F.CH_STAT_STATE n))

/-! ### Start triggers -/

theorem ofNat_toNat_gtime (g : GTime) : BitVec.ofNat 32 g.toNat = g.extractLsb' 0 32 := by
  apply BitVec.eq_of_toNat_eq
  simp

/-- A trigger without a WHEN 1 hand-over takes an ARMED channel to RUN with its descriptor, and CHn_TSTART records its
time (R343). -/
theorem chTrigger_runs {s : State} {n : Nat} (g : GTime)
    (h : (s.rb (F.CH_SADDLE_ARM n) && s.rb (F.CH_SADDLE_WHEN n)) = false) :
    let t := s.chTrigger n g.toNat
    t.chState n = Cs.RUN ∧ (t.ch n).desc = (s.ch n).desc ∧ t.reg (R.CH_TSTART_LO n) = g.extractLsb' 0 32 ∧
      RegsBut [R.CH_STAT n, R.CH_TSTART_LO n] s t ∧ SameBytes s t := by
  intro t
  let stamped := s.setTstart n g.toNat
  have hstamped : RegsBut [R.CH_TSTART_LO n] s stamped := RegsBut.refl.setRegN (List.mem_singleton_self _)
  have hflag : ∀ k, stamped.rb ⟨R.CH_SADDLE n, k, k⟩ = s.rb ⟨R.CH_SADDLE n, k, k⟩ := fun k =>
    hstamped.rb (by simp [R.CH_SADDLE, R.CH_TSTART_LO]) (not_evrAddr_array (by decide))
  have hoff : ¬ (stamped.rb (F.CH_SADDLE_ARM n) && stamped.rb (F.CH_SADDLE_WHEN n)) = true := by
    rw [F.CH_SADDLE_ARM, F.CH_SADDLE_WHEN, hflag, hflag]
    exact Bool.eq_false_iff.mp h
  have ht : t = stamped.chRun n := if_neg hoff
  obtain ⟨bound, hrun⟩ := channelIn_chRun stamped n
  rw [ht]
  refine ⟨hrun.state, (congrArg DmaChan.desc hrun.chan :), ?stamp, ?regs, sameBytes_of_mem hrun.mem⟩
  case stamp =>
    have hkept : (stamped.chRun n).reg (R.CH_TSTART_LO n) = stamped.reg (R.CH_TSTART_LO n) :=
      hrun.regs.reg (by simp [R.CH_STAT, R.CH_TSTART_LO]) (not_evrAddr_array (by decide))
    rw [hkept, ← ofNat_toNat_gtime]
    exact reg_setReg_same ..
  case regs => exact (hstamped.weaken (by simp)).trans (hrun.regs.weaken (by simp))

/-! ### Refused and rejected commands -/

/-- A rejected command is recorded with STATE in CHn_ERR and counted, and has no side effect (R346). -/
theorem chReject_records (s : State) {n : Nat} (hn : n < 128) :
    let t := s.chReject n
    t.reg (R.CH_ERR n) = 0x101 ∧ Counted R.DMA_CNT_STATE s t ∧ t.dma = s.dma ∧
      RegsBut [R.CH_ERR n, R.DMA_CNT_STATE] s t ∧ SameBytes s t := by
  intro t
  obtain ⟨hcode, hregs⟩ := refuse_records (s.bump R.DMA_CNT_STATE) (e := R.CH_ERR n) (code := St.STATE) (ev := 128 + n / 4)
    (not_evrAddr_array (by decide)) (by decide) (by omega)
  have hdma : t.dma = s.dma := (raise_dma ..).trans (Within.bump (m := 1) (.refl s) ⟨rfl⟩ .dma rfl)
  have hmem : t.mem = s.mem := (refuse_mem ..).trans (bump_mem ..)
  refine ⟨BitVec.eq_of_toNat_eq hcode, ?counted, hdma, ?regs, sameBytes_of_mem hmem⟩
  case counted => exact (counted_bump s _).andThen hregs ⟨by simp [R.DMA_CNT_STATE, R.CH_ERR]; omega, by decide⟩
  case regs => exact (RegsBut.refl.bump (by simp)).trans (hregs.weaken (by simp))

/-! ### Commands -/

/-- A granted write of an opcode to CHn_CMD of a firmware channel (R334, R345). -/
theorem chCmd_of_firmware {s : State} {n : Nat} (h : 12 ≤ n) (opc : Nat) :
    State.chCmd n opc s =
      if opc = 1 then s.chEnable n else if opc = 2 then s.chStart n else if opc = 3 then s.chPause n
      else if opc = 4 then s.chResume n else if opc = 5 then s.chStop n else if opc = 6 then s.chAbort n
      else if opc = 7 then s.chClear n else s.chRefuse n St.TYPE :=
  if_neg (by simpa [isPath] using h)

theorem chCmd_of_path {s : State} {n : Nat} (h : n < 12) (opc : Nat) : State.chCmd n opc s = s.chRefuse n St.RIGHTS :=
  if_pos (by simpa [isPath] using h)

/-- The seven commands of a channel, each with the opcode that it writes to CHn_CMD (R345, R368). -/
def dmaCommandOpcodes (i : Init) (n : Fin 128) : List (Instr × Nat) :=
  [(.dmaEnable i n, 1), (.dmaStart i n, 2), (.dmaPause i n, 3), (.dmaResume i n, 4), (.dmaStop i n, 5), (.dmaAbort i n, 6),
    (.dmaClear i n, 7)]

section
variable {s : State} {i : Init} {n : Fin 128} (hmay : s.MayWrite i (R.CH_CMD n.val))
include hmay

theorem exec_dmaCommand {p : Instr × Nat} (hp : p ∈ dmaCommandOpcodes i n) : exec p.1 s = .next (State.chCmd n.val p.2 s) := by
  have hexec : exec p.1 s = .next (s.onWrite i (R.CH_CMD n.val) (State.chCmd n.val p.2)) := by
    simp only [dmaCommandOpcodes, List.mem_cons, List.not_mem_nil, or_false] at hp
    obtain rfl | rfl | rfl | rfl | rfl | rfl | rfl := hp <;> rfl
  rw [hexec, onWrite_of_mayWrite s i _ _ hmay]

/-- On a firmware channel each command has its row of R345's table. -/
theorem exec_dmaCommands (h : 12 ≤ n.val) :
    exec (.dmaEnable i n) s = .next (s.chEnable n.val) ∧ exec (.dmaStart i n) s = .next (s.chStart n.val) ∧
      exec (.dmaPause i n) s = .next (s.chPause n.val) ∧ exec (.dmaResume i n) s = .next (s.chResume n.val) ∧
      exec (.dmaStop i n) s = .next (s.chStop n.val) ∧ exec (.dmaAbort i n) s = .next (s.chAbort n.val) ∧
      exec (.dmaClear i n) s = .next (s.chClear n.val) := by
  have hrow : ∀ p ∈ dmaCommandOpcodes i n, exec p.1 s = .next (State.chCmd n.val p.2 s) := fun p => exec_dmaCommand hmay
  simpa [dmaCommandOpcodes, chCmd_of_firmware h] using hrow

end

/-! #### The cells of R345's table in which a command is rejected, or does nothing -/

section
variable {s : State} {n : Nat}

theorem chEnable_rejected (h : s.chState n = Cs.HALT) : s.chEnable n = s.chReject n := by
  simp [State.chEnable, h, Cs.HALT, Cs.OFF]

theorem chStart_rejected (h : s.chState n ∈ [Cs.OFF, Cs.IDLE, Cs.RUN, Cs.PAUSED, Cs.HALT]) : s.chStart n = s.chReject n :=
  if_neg (ne_of_mem_of_not_mem h (by decide))

theorem chPause_rejected (h : s.chState n ∈ [Cs.OFF, Cs.HALT]) : s.chPause n = s.chReject n := by
  simp only [List.mem_cons, List.not_mem_nil, or_false] at h
  obtain h | h := h <;> simp [State.chPause, h, Cs.OFF, Cs.IDLE, Cs.ARMED, Cs.RUN, Cs.PAUSED, Cs.HALT]

theorem chResume_rejected (h : s.chState n ∈ [Cs.OFF, Cs.IDLE, Cs.ARMED, Cs.RUN, Cs.HALT]) : s.chResume n = s.chReject n :=
  if_pos (ne_of_mem_of_not_mem h (by decide))

theorem chAbort_rejected (h : s.chState n ∈ [Cs.OFF, Cs.IDLE, Cs.PAUSED]) : s.chAbort n = s.chReject n := by
  simp only [List.mem_cons, List.not_mem_nil, or_false] at h
  obtain h | h | h := h <;> simp [State.chAbort, h, Cs.OFF, Cs.IDLE, Cs.ARMED, Cs.RUN, Cs.PAUSED, Cs.HALT]

theorem chClear_rejected (h : s.chState n ∈ [Cs.OFF, Cs.IDLE, Cs.ARMED, Cs.RUN, Cs.PAUSED]) : s.chClear n = s.chReject n :=
  if_neg (ne_of_mem_of_not_mem h (by decide))

theorem chEnable_idle (h : s.chState n ∈ [Cs.IDLE, Cs.ARMED, Cs.RUN, Cs.PAUSED]) : s.chEnable n = s :=
  (if_neg (ne_of_mem_of_not_mem h (by decide))).trans (if_neg (ne_of_mem_of_not_mem h (by decide)))

theorem chPause_idle (h : s.chState n = Cs.PAUSED) : s.chPause n = s := by
  simp [State.chPause, h, Cs.IDLE, Cs.ARMED, Cs.RUN, Cs.PAUSED]

theorem chStop_idle (h : s.chState n = Cs.OFF) : s.chStop n = s := if_pos h

theorem chAbort_idle (h : s.chState n = Cs.HALT) : s.chAbort n = s := by
  simp [State.chAbort, h, Cs.ARMED, Cs.RUN, Cs.HALT]

/-! #### The cells in which a command acts -/

theorem chEnable_of_off (h : s.chState n = Cs.OFF) : s.chEnable n = s.chFetch n := if_pos h

theorem chStart_of_armed (h : s.chState n = Cs.ARMED) : s.chStart n = s.chTrigger n s.gtN := if_pos h

theorem chPause_of_waiting (h : s.chState n = Cs.IDLE ∨ s.chState n = Cs.ARMED) : s.chPause n = s.chEnter n Cs.PAUSED :=
  if_pos h

theorem chPause_of_run (h : s.chState n = Cs.RUN) : s.chPause n = s.wb (F.CH_STAT_PPEND n) true := by
  simp [State.chPause, h, Cs.IDLE, Cs.ARMED, Cs.RUN]

theorem chStop_of_run (h : s.chState n = Cs.RUN) : s.chStop n = s.wb (F.CH_STAT_SPEND n) true := by
  simp [State.chStop, h, Cs.OFF, Cs.RUN]

theorem chStop_of_rest (h : s.chState n = Cs.IDLE ∨ s.chState n = Cs.ARMED ∨ s.chState n = Cs.PAUSED ∨ s.chState n = Cs.HALT) :
    s.chStop n = (s.setCh n DmaChan.none).chEnter n Cs.OFF := by
  obtain h | h | h | h := h <;> simp [State.chStop, h, Cs.OFF, Cs.IDLE, Cs.ARMED, Cs.RUN, Cs.PAUSED, Cs.HALT]

theorem chClear_of_halt (h : s.chState n = Cs.HALT) : s.chClear n = s.chFetch n := if_pos h

/-- RESUME gives a channel back what it waited for when it was paused (R347). -/
theorem channelIn_chResume (h : s.chState n = Cs.PAUSED) :
    ∃ c, c.desc = (s.ch n).desc ∧ ChannelIn n (if (s.ch n).desc.isSome then Cs.ARMED else Cs.IDLE) c s (s.chResume n) := by
  have hrow : s.chResume n = if (s.ch n).desc.isSome then s.chEnter n Cs.ARMED else s.chFetch n := if_neg (not_not.mpr h)
  rw [hrow]
  split
  · exact ⟨_, rfl, channelIn_chEnter s n (by decide)⟩
  · next hnone => exact ⟨_, (Option.not_isSome_iff_eq_none.mp hnone).symm, channelIn_chFetch s n⟩

end

/-- A request that waits for the boundary of a descriptor shows in CHn_STAT, and nothing else changes (R347, R348). -/
theorem wb_stat_records (s : State) {n k : Nat} (hk : k < 29) (b : Bool) :
    let t := s.wb ⟨R.CH_STAT n, k, k⟩ b
    t.chState n = s.chState n ∧ t.rb ⟨R.CH_STAT n, k, k⟩ = b ∧ t.dma = s.dma ∧ RegsBut [R.CH_STAT n] s t ∧ SameBytes s t :=
  ⟨chState_wb_stat s n b hk, rb_wb_same _ _ rfl (by simp only; omega), wf_dma .., RegsBut.refl.wb (List.mem_singleton_self _),
    sameBytes_of_mem (wf_mem ..)⟩

/-! ### Stores through the error-correcting code -/

/-- The registers that a store may write: what the code notes, and the two injections (R413, R414, R436). -/
def storeRegs : List Nat := R.DRC_INJ_CTRL :: R.SRM_INJ_CTRL :: eccRegs

theorem regsBut_eccRmw (writer : Nat) : ∀ (ks : List Nat) (s : State), RegsBut storeRegs s (s.eccRmw writer ks)
  | [], _ => .refl
  | k :: ks, s => by
    have hword : RegsBut storeRegs s (s.eccWord writer k) := (regsBut_eccWords writer [k] s).weaken (by simp [storeRegs])
    have hpoison : RegsBut storeRegs s
        (if decide (2 ≤ s.eccOf (8 * k)) = true then (s.eccWord writer k).setEcc (8 * k) 3 else s.eccWord writer k) :=
      .ite (hword.trans (.of_eq rfl)) hword
    exact hpoison.trans (regsBut_eccRmw writer ks _)

theorem regsBut_inject (s : State) (dram : Bool) (a len : Nat) : RegsBut storeRegs s (s.inject dram a len) := by
  unfold State.inject
  extract_lets ctrl two
  have hctrl : ctrl ∈ storeRegs := by cases dram <;> simp [ctrl, storeRegs]
  exact .ite ((RegsBut.of_eq rfl).setReg hctrl) .refl

theorem regsBut_dramTouch (s : State) (a : Nat) : RegsBut storeRegs s (s.dramTouch a) :=
  .ite (((RegsBut.refl.wf (by simp [storeRegs, eccRegs, F.DRC_STAT_STATE])).bump (by simp [storeRegs, eccRegs])).raise
    (by decide)) .refl

theorem regsBut_store (s : State) (writer a : Nat) (l : List Byte) : RegsBut storeRegs s (s.store writer a l) := by
  have hread : RegsBut storeRegs s ((s.dramTouch a).eccRmw writer (s.rmwKeys a l.length)) :=
    (regsBut_dramTouch s a).trans (regsBut_eccRmw writer _ _)
  have hbytes : ∀ u : State, RegsBut storeRegs u ((u.setBytes a l).eccClean a l.length) := fun u =>
    .of_eq (Within.setBytes (m := 2) (.refl u) ⟨rfl⟩ .regs rfl)
  exact .ite .refl ((hread.trans (hbytes _)).trans (regsBut_inject _ _ _ _))

theorem setBytes_mem_congr {l : List Byte} {s t : State} {a : Nat} (h : t.mem = s.mem) :
    (t.setBytes a l).mem = (s.setBytes a l).mem := by
  induction l generalizing s t a with
  | nil => exact h
  | cons b l ih => exact ih (congrArg (fun m => Sparse.put memDefault m a b) h)

/-- Of memory, a store through the code leaves what a plain store of its bytes leaves (R413, R414). -/
theorem mem_store (s : State) (writer a : Nat) (l : List Byte) : (s.store writer a l).mem = (s.setBytes a l).mem := by
  unfold State.store
  split
  · next hnil => rw [List.isEmpty_iff.mp hnil, State.setBytes]
  · generalize hread : (s.dramTouch a).eccRmw writer (s.rmwKeys a l.length) = read
    have hbefore : read.mem = s.mem :=
      hread ▸ (Within.eccRmw (m := 3145745) (.dramTouch (.refl s)) ⟨rfl⟩ .mem rfl)
    exact (Within.inject (m := 1048577) (.eccClean (.refl _)) ⟨rfl⟩ .mem rfl).trans (setBytes_mem_congr hbefore)

theorem byte_setBytes_of_inside {l : List Byte} {s : State} {a j : Nat} {b : Byte} (h : l[j]? = some b) :
    (s.setBytes a l).byte (a + j) = b := by
  induction l generalizing s a j with
  | nil => simp at h
  | cons x xs ih =>
    rw [State.setBytes]
    cases j with
    | zero =>
      rw [byte_setBytes_of_outside (by omega), byte_setByte, if_pos (Nat.add_zero a)]
      exact Option.some.inj h
    | succ j =>
      rw [← Nat.add_assoc, Nat.add_right_comm]
      exact ih h

theorem byte_store_of_inside {s : State} {writer a j : Nat} {l : List Byte} {b : Byte} (h : l[j]? = some b) :
    (s.store writer a l).byte (a + j) = b :=
  (sameBytes_of_mem (mem_store s writer a l) _).trans (byte_setBytes_of_inside h)

theorem setBytes_wordBytes (s : State) (a : Nat) (w : Word) : s.setBytes a (wordBytes [w]) = s.write32 a w := by
  have hbyte : ∀ k, w.extractLsb' k 8 = BitVec.ofNat 8 (w.toNat / 2 ^ k) := fun k =>
    BitVec.eq_of_toNat_eq (by simp [Nat.shiftRight_eq_div_pow])
  simp only [wordBytes, State.setBytes, State.write32, State.writeN, hbyte, Nat.div_div_eq_div_mul, Nat.reduceMul,
    Nat.reducePow, Nat.div_one]

theorem read32_store_word (s : State) (writer a : Nat) (w : Word) : (s.store writer a (wordBytes [w])).read32 a = w := by
  rw [read32_congr (mem_store ..), setBytes_wordBytes, read32_write32]

theorem read32_store_word_apart {s : State} {writer a b : Nat} {w : Word} (h : a + 4 ≤ b ∨ b + 4 ≤ a) :
    (s.store writer a (wordBytes [w])).read32 b = s.read32 b := by
  rw [read32_congr (mem_store ..), setBytes_wordBytes, read32_write32_apart h.symm]

/-! ### Which addresses answer -/

/-- What the answer to an access of memory depends on stands: readiness, the DRAM's size, whether it serves, and the dump basin
(R21, R419, R429, R435, R443). -/
structure SameAnswers (s t : State) : Prop where
  step : t.reg R.SYS_STEPOK = s.reg R.SYS_STEPOK
  dens : t.rf F.DRC_STAT_DENS = s.rf F.DRC_STAT_DENS
  serves : t.dramServes = s.dramServes
  lock : t.reg R.DRC_DUMP = s.reg R.DRC_DUMP
  base : t.reg R.DRC_DUMP_BASE = s.reg R.DRC_DUMP_BASE
  size : t.reg R.DRC_DUMP_SIZE = s.reg R.DRC_DUMP_SIZE

namespace SameAnswers

variable {s t u : State}

theorem trans (h : SameAnswers s t) (g : SameAnswers t u) : SameAnswers s u :=
  ⟨g.step.trans h.step, g.dens.trans h.dens, g.serves.trans h.serves, g.lock.trans h.lock, g.base.trans h.base, g.size.trans h.size⟩

theorem inDram (h : SameAnswers s t) (a len : Nat) : t.inDram a len = s.inDram a len := by
  rw [State.inDram, State.inDram, State.usable, State.usable, h.dens]

theorem readable (h : SameAnswers s t) (a len : Nat) : t.readable a len = s.readable a len := by
  rw [State.readable, State.readable, h.inDram, h.serves]

theorem writable (h : SameAnswers s t) (i a len : Nat) : t.writable i a len = s.writable i a len := by
  have hbasin : t.inBasin a len = s.inBasin a len := by
    rw [State.inBasin, State.inBasin, State.rf, State.rf, State.rf, State.rf, F.DRC_DUMP_BASE_MB, F.DRC_DUMP_SIZE_MB, h.base, h.size]
  have hlock : t.rb F.DRC_DUMP_LOCK = s.rb F.DRC_DUMP_LOCK := congrArg (fun w => bits w 30 30 == 1) h.lock
  rw [State.writable, State.writable, ready_congr h.step, h.inDram, h.serves, hlock, hbasin]

end SameAnswers

theorem sameAnswers_of_regsBut {l : List Nat} {s t : State} (h : RegsBut l s t)
    (hl : ∀ a ∈ [R.SYS_STEPOK, R.DRC_STAT, R.DRC_DUMP, R.DRC_DUMP_BASE, R.DRC_DUMP_SIZE], a ∉ l) : SameAnswers s t := by
  have hreg : ∀ b ∈ [R.SYS_STEPOK, R.DRC_STAT, R.DRC_DUMP, R.DRC_DUMP_BASE, R.DRC_DUMP_SIZE], t.reg b = s.reg b :=
    fun b hb => h b (hl b hb) (not_evrAddr_of_ge (by revert b; decide))
  simp only [List.forall_mem_cons] at hreg
  obtain ⟨hstep, hstat, hdump, hbase, hsize, -⟩ := hreg
  have hfield : ∀ {f : Fld}, f.addr = R.DRC_STAT → t.rf f = s.rf f := fun e => by rw [State.rf, State.rf, e, hstat]
  exact ⟨hstep, hfield rfl, by rw [State.dramServes, State.dramServes, hfield rfl], hdump, hbase, hsize⟩

/-- Whether a write of memory is answered depends on a few registers alone. -/
theorem writable_congr {l : List Nat} {s t : State} (h : RegsBut l s t)
    (hl : ∀ a ∈ [R.SYS_STEPOK, R.DRC_STAT, R.DRC_DUMP, R.DRC_DUMP_BASE, R.DRC_DUMP_SIZE], a ∉ l) (i a len : Nat) :
    t.writable i a len = s.writable i a len := (sameAnswers_of_regsBut h hl).writable i a len

/-! ### The end of a descriptor -/

/-- The state that a channel enters at the boundary of a descriptor (R345, R347, R349). -/
def State.boundaryState (s : State) (n : Nat) (halts : Bool) : Nat :=
  if s.rb (F.CH_STAT_SPEND n) then Cs.OFF else if halts then Cs.HALT else if s.rb (F.CH_STAT_PPEND n) then Cs.PAUSED
  else Cs.IDLE

/-- The requests that wait for the boundary are withdrawn. -/
def State.chUnpended (s : State) (n : Nat) : State := (s.wb (F.CH_STAT_SPEND n) false).wb (F.CH_STAT_PPEND n) false

theorem rf_chUnpended (s : State) {n hi lo : Nat} (h : lo ≤ hi ∧ (hi < 23 ∨ 24 < lo)) :
    (s.chUnpended n).rf ⟨R.CH_STAT n, hi, lo⟩ = s.rf ⟨R.CH_STAT n, hi, lo⟩ :=
  (rf_wf_apart _ _ (Fld.apart_of_bits (by omega) : Fld.Apart (F.CH_STAT_PPEND n) ⟨R.CH_STAT n, hi, lo⟩)).trans
    (rf_wf_apart _ _ (Fld.apart_of_bits (by omega) : Fld.Apart (F.CH_STAT_SPEND n) ⟨R.CH_STAT n, hi, lo⟩))

theorem chUnpended_clears (s : State) (n : Nat) :
    (s.chUnpended n).rb (F.CH_STAT_SPEND n) = false ∧ (s.chUnpended n).rb (F.CH_STAT_PPEND n) = false :=
  ⟨(rb_wb_apart _ _ (Fld.apart_of_bits (by decide) : Fld.Apart (F.CH_STAT_PPEND n) (F.CH_STAT_SPEND n))).trans
    (rb_wb_same _ _ rfl (by decide : 23 < 32)), rb_wb_same _ _ rfl (by decide : 24 < 32)⟩

theorem chUnpended_mem (s : State) (n : Nat) : (s.chUnpended n).mem = s.mem := (wf_mem ..).trans (wf_mem ..)

theorem regsBut_chUnpended (s : State) (n : Nat) : RegsBut [R.CH_STAT n] s (s.chUnpended n) :=
  (RegsBut.refl.wb (f := F.CH_STAT_SPEND n) (List.mem_singleton_self _)).wb (f := F.CH_STAT_PPEND n)
    (List.mem_singleton_self _)

/-- At the boundary the requests that waited are withdrawn, and the channel enters its next state. -/
theorem chBoundary_enters (s : State) (n : Nat) (halts : Bool) :
    ∃ c, ChannelIn n (s.boundaryState n halts) c (s.chUnpended n) (s.chBoundary n halts) := by
  have hsame : ∀ {st : Nat} {c : DmaChan} {t : State}, ChannelIn n st c ((s.chUnpended n).setCh n DmaChan.none) t →
      ∃ c, ChannelIn n st c (s.chUnpended n) t := fun {st c t} h =>
    ⟨c, h.state, h.chan, fun hlo hhi => (h.flags hlo hhi).trans (setCh_rf ..), (RegsBut.refl.setCh).trans h.regs,
      h.mem.trans (setCh_mem ..)⟩
  unfold State.boundaryState
  change ∃ c, ChannelIn n _ c _ (ite _ _ _)
  split
  · exact hsame (channelIn_chEnter _ n (by decide))
  · split
    · exact hsame (channelIn_chEnter _ n (by decide))
    · split
      · exact hsame (channelIn_chEnter _ n (by decide))
      · exact hsame (channelIn_chFetch _ n)

/-- What CHn_STAT shows of a descriptor that ended with `st` and reports `code`: the status and the cause bits; then the
channel's next state (R337, R349, R350). -/
def State.chClose (s : State) (n st code : Nat) (irq : Bool) : State :=
  let s := s.wf (F.CH_STAT_LSTATUS n) code
  if st ≠ St.OK then (s.chCause n (F.CH_STAT_ERRC n)).chBoundary n true
  else if code ≠ St.OK then ((s.wb (F.CH_STAT_DONE n) true).chCause n (F.CH_STAT_ERRC n)).chBoundary n false
  else (if irq then s.chCause n (F.CH_STAT_DONE n) else s).chBoundary n false

/-- What stands of a channel until its boundary: the requests that wait there, and the status that is reported. -/
structure CausesNoted (n code : Nat) (s t : State) : Prop where
  stop : t.rb (F.CH_STAT_SPEND n) = s.rb (F.CH_STAT_SPEND n)
  pause : t.rb (F.CH_STAT_PPEND n) = s.rb (F.CH_STAT_PPEND n)
  status : t.rf (F.CH_STAT_LSTATUS n) = code % 256
  regs : RegsBut [R.CH_STAT n] s t
  mem : t.mem = s.mem

namespace CausesNoted

variable {s t : State} {n code : Nat}

theorem lstatus : CausesNoted n code s (s.wf (F.CH_STAT_LSTATUS n) code) where
  stop := congrArg (· == 1) (rf_wf_apart s _ (Fld.apart_of_bits (by decide) : Fld.Apart (F.CH_STAT_LSTATUS n) (F.CH_STAT_SPEND n)))
  pause := congrArg (· == 1) (rf_wf_apart s _ (Fld.apart_of_bits (by decide) : Fld.Apart (F.CH_STAT_LSTATUS n) (F.CH_STAT_PPEND n)))
  status := rf_wf_same s (F.CH_STAT_LSTATUS n) code (by decide : 8 ≤ 15) (by decide : 15 < 32)
  regs := RegsBut.refl.wf (List.mem_singleton_self _)
  mem := wf_mem ..

theorem wb {k : Nat} (b : Bool) (h : CausesNoted n code s t) (hk : 24 < k ∧ k < 32) :
    CausesNoted n code s (t.wb ⟨R.CH_STAT n, k, k⟩ b) where
  stop := (rb_wb_apart t b (Fld.apart_of_bits (by omega) : Fld.Apart ⟨R.CH_STAT n, k, k⟩ (F.CH_STAT_SPEND n))).trans h.stop
  pause := (rb_wb_apart t b (Fld.apart_of_bits (by omega) : Fld.Apart ⟨R.CH_STAT n, k, k⟩ (F.CH_STAT_PPEND n))).trans h.pause
  status := (rf_wf_apart t _ (Fld.apart_of_bits (by omega) : Fld.Apart ⟨R.CH_STAT n, k, k⟩ (F.CH_STAT_LSTATUS n))).trans h.status
  regs := h.regs.wb (List.mem_singleton_self _)
  mem := (wf_mem ..).trans h.mem

theorem chEvent (h : CausesNoted n code s t) (hn : n < 128) : CausesNoted n code s (t.chEvent n) := by
  have hraised : RegsBut [] t (t.chEvent n) := RegsBut.refl.chEvent hn
  have hevr : ¬ evrAddr (R.CH_STAT n) := not_evrAddr_array (by decide)
  exact ⟨(hraised.rb List.not_mem_nil hevr).trans h.stop, (hraised.rb List.not_mem_nil hevr).trans h.pause,
    (hraised.rf List.not_mem_nil hevr).trans h.status, h.regs.chEvent hn, (raise_mem ..).trans h.mem⟩

theorem chCause {k : Nat} (h : CausesNoted n code s t) (hn : n < 128) (hk : 24 < k ∧ k < 32) :
    CausesNoted n code s (t.chCause n ⟨R.CH_STAT n, k, k⟩) := (h.wb true hk).chEvent hn

end CausesNoted

/-- What a closed descriptor leaves in CHn_STAT. -/
structure DescriptorClosed (n st code : Nat) (s t : State) : Prop where
  state : t.chState n = s.boundaryState n (decide (st ≠ St.OK))
  status : t.rf (F.CH_STAT_LSTATUS n) = code % 256
  stop : t.rb (F.CH_STAT_SPEND n) = false
  pause : t.rb (F.CH_STAT_PPEND n) = false
  regs : RegsBut [R.CH_STAT n] s t
  mem : t.mem = s.mem

/-- At the boundary what is reported stands. -/
theorem descriptorClosed_of_boundary {s v : State} {n st code : Nat} (h : CausesNoted n code s v) :
    DescriptorClosed n st code s (v.chBoundary n (decide (st ≠ St.OK))) := by
  obtain ⟨c, hin⟩ := chBoundary_enters v n (decide (st ≠ St.OK))
  obtain ⟨hstop, hpause⟩ := chUnpended_clears v n
  refine ⟨?state, ?status, ?stop, ?pause, h.regs.trans ((regsBut_chUnpended v n).trans hin.regs),
    hin.mem.trans ((chUnpended_mem v n).trans h.mem)⟩
  case state => rw [hin.state, State.boundaryState, State.boundaryState, h.stop, h.pause]
  case status => exact (hin.flags (by decide) (by decide)).trans ((rf_chUnpended v (by decide)).trans h.status)
  case stop => exact (congrArg (· == 1) (hin.flags (by decide) (by decide))).trans hstop
  case pause => exact (congrArg (· == 1) (hin.flags (by decide) (by decide))).trans hpause

/-- A cause bit set before the boundary shows after it. -/
theorem errc_chBoundary {v : State} {n : Nat} (hn : n < 128) (halts : Bool) :
    ((v.chCause n (F.CH_STAT_ERRC n)).chBoundary n halts).rb (F.CH_STAT_ERRC n) = true := by
  obtain ⟨c, hin⟩ := chBoundary_enters (v.chCause n (F.CH_STAT_ERRC n)) n halts
  have hset : (v.chCause n (F.CH_STAT_ERRC n)).rb (F.CH_STAT_ERRC n) = true :=
    rb_chCause_same v hn rfl (by decide : 27 < 32) (not_evrAddr_array (by decide))
  exact (congrArg (· == 1) ((hin.flags (by decide) (by decide)).trans (rf_chUnpended _ (by decide)))).trans hset

theorem chClose_closes (s : State) {n : Nat} (hn : n < 128) (st code : Nat) (irq : Bool) :
    DescriptorClosed n st code s (s.chClose n st code irq) ∧
      (st ≠ St.OK ∨ code ≠ St.OK → (s.chClose n st code irq).rb (F.CH_STAT_ERRC n) = true) := by
  have hnoted : CausesNoted n code s (s.wf (F.CH_STAT_LSTATUS n) code) := .lstatus
  unfold State.chClose
  extract_lets u
  split
  · next hbad =>
    have hclosed := descriptorClosed_of_boundary (st := st) (hnoted.chCause hn (k := 27) (by decide))
    rw [decide_eq_true hbad] at hclosed
    exact ⟨hclosed, fun _ => errc_chBoundary hn true⟩
  · next hok =>
    have hgood : decide (st ≠ St.OK) = false := decide_eq_false hok
    split
    · have hclosed := descriptorClosed_of_boundary (st := st)
        ((hnoted.wb true (k := 28) (by decide)).chCause hn (k := 27) (by decide))
      rw [hgood] at hclosed
      exact ⟨hclosed, fun _ => errc_chBoundary hn false⟩
    · next hfine =>
      have hdone : CausesNoted n code s (if irq then u.chCause n (F.CH_STAT_DONE n) else u) := by
        split
        · exact hnoted.chCause hn (k := 28) (by decide)
        · exact hnoted
      have hclosed := descriptorClosed_of_boundary (st := st) hdone
      rw [hgood] at hclosed
      exact ⟨hclosed, fun h => absurd h (not_or.mpr ⟨hok, hfine⟩)⟩

/-! #### The hand-back -/

/-- Words 6, 7 and 0 of the descriptor at `a` are written back (R337): the final value where there is one, the bytes moved
with the status, and OWN cleared. -/
def State.chWriteBack (s : State) (a : Nat) (c : DmaChan) (x : Nat × Option Word) : State :=
  let s := match x.2 with
    | none => s
    | some w => s.store Ini.DMA (a + 24) (wordBytes [w])
  let s := s.store Ini.DMA (a + 28) (wordBytes [BitVec.ofNat 32 (c.moved * 256 + x.1)])
  s.store Ini.DMA a (wordBytes [c.word 0 &&& 0x7FFFFFFF])

theorem chWriteBack_within (s : State) (a : Nat) (c : DmaChan) (x : Nat × Option Word) :
    Within 3145747 s (s.chWriteBack a c x) := by
  unfold State.chWriteBack
  extract_lets u v
  have hu : Within 3145747 s u := by
    unfold u
    split
    · exact .refl s
    · exact .store (.refl s)
  exact .store (.store hu)

theorem regsBut_chWriteBack (s : State) (a : Nat) (c : DmaChan) (x : Nat × Option Word) :
    RegsBut storeRegs s (s.chWriteBack a c x) := by
  unfold State.chWriteBack
  extract_lets u v
  have hu : RegsBut storeRegs s u := by
    unfold u
    split
    · exact .refl
    · exact regsBut_store _ _ _ _
  exact (hu.trans (regsBut_store _ _ _ _)).trans (regsBut_store _ _ _ _)

/-- The words of the descriptor at `a` after its write-back: words 6, 7 and 0 alone are written (R337). -/
structure WrittenBack (a : Nat) (c : DmaChan) (x : Nat × Option Word) (s t : State) : Prop where
  owner : t.read32 a = c.word 0 &&& 0x7FFFFFFF
  status : t.read32 (a + 28) = BitVec.ofNat 32 (c.moved * 256 + x.1)
  final : ∀ w, x.2 = some w → t.read32 (a + 24) = w
  kept : x.2 = none → t.read32 (a + 24) = s.read32 (a + 24)
  rest : ∀ b, b < a ∨ (a + 4 ≤ b ∧ b < a + 24) ∨ a + 32 ≤ b → t.byte b = s.byte b

theorem chWriteBack_writes (s : State) (a : Nat) (c : DmaChan) (x : Nat × Option Word) :
    WrittenBack a c x s (s.chWriteBack a c x) := by
  unfold State.chWriteBack
  extract_lets u v
  have hword : ∀ {b}, b = a + 24 → (v.store Ini.DMA a (wordBytes [c.word 0 &&& 0x7FFFFFFF])).read32 b = u.read32 b :=
    fun e => (read32_store_word_apart (by omega)).trans (read32_store_word_apart (by omega))
  refine ⟨read32_store_word .., ?status, fun w hw => ?final, fun hnone => ?kept, fun b hb => ?rest⟩
  case status => rw [read32_store_word_apart (by omega), read32_store_word]
  case final =>
    have hu : u = s.store Ini.DMA (a + 24) (wordBytes [w]) := by
      unfold u
      rw [hw]
    rw [hword rfl, hu, read32_store_word]
  case kept =>
    have hu : u = s := by
      unfold u
      rw [hnone]
    rw [hword rfl, hu]
  case rest =>
    have hu : u.byte b = s.byte b := by
      unfold u
      split
      · rfl
      · exact byte_store_of_outside (by rw [length_wordBytes]; simp only [List.length_singleton]; omega)
    rw [byte_store_of_outside (by rw [length_wordBytes]; simp only [List.length_singleton]; omega),
      byte_store_of_outside (by rw [length_wordBytes]; simp only [List.length_singleton]; omega), hu]

/-- A descriptor that did not end well gives its units back before its hand-back (R348, R349). -/
def State.chReleased (s : State) (n st : Nat) : State := if st = St.OK then s else s.chDiscard n (s.ch n)

/-- The registers that account for the units of a channel's INJECT frames (R340). -/
def injectRegs (s : State) (n : Nat) : List Nat := unitRegs (10 + s.rf (F.CH_CFG_IPORT n))

theorem regsBut_chReleased (s : State) (n st : Nat) : RegsBut (injectRegs s n) s (s.chReleased n st) :=
  .ite .refl (.ite (regsBut_release _ _ _) .refl)

theorem chReleased_within (s : State) (n st : Nat) : Within 1 s (s.chReleased n st) := .ite (.refl s) (.chDiscard (.refl s))

theorem injectRegs_bounds {s : State} {n a : Nat} (h : a ∈ injectRegs s n) : 0x400C0000 ≤ a ∧ a < 0x40100000 := by
  have hport : s.rf (F.CH_CFG_IPORT n) < 4 := rf_lt s (F.CH_CFG_IPORT n)
  simp only [injectRegs, unitRegs, R.QMG_POOLUSE, R.QMG_SHARED, List.mem_cons, List.not_mem_nil, or_false] at h
  omega

theorem writable_chReleased (s : State) (n st i a len : Nat) : (s.chReleased n st).writable i a len = s.writable i a len := by
  refine writable_congr (regsBut_chReleased s n st) (fun b hb hmem => ?_) i a len
  have hbounds := injectRegs_bounds hmem
  simp only [List.mem_cons, List.not_mem_nil, or_false] at hb
  obtain rfl | rfl | rfl | rfl | rfl := hb <;> exact absurd hbounds (by decide)

/-- The registers of a channel stand while its descriptor is handed back. -/
theorem reg_chReleased_writeBack (s : State) (n st a : Nat) (c : DmaChan) (x : Nat × Option Word) {b : Nat}
    (hb : 0x40020000 ≤ b ∧ b < 0x40030000) : ((s.chReleased n st).chWriteBack a c x).reg b = s.reg b := by
  have hevr : ¬ evrAddr b := not_evrAddr_of_ge hb.1
  have hstore : b ∉ storeRegs := fun h => by
    have hrange : ∀ r ∈ storeRegs, 0x40030000 ≤ r := by decide
    exact absurd (hrange b h) (by omega)
  have hunits : b ∉ injectRegs s n := fun h => absurd (injectRegs_bounds h).1 (by omega)
  rw [regsBut_chWriteBack _ _ _ _ b hstore hevr, regsBut_chReleased s n st b hunits hevr]

theorem WrittenBack.congr {a : Nat} {c : DmaChan} {x : Nat × Option Word} {r s t u : State} (h : WrittenBack a c x s t)
    (hs : s.mem = r.mem) (hu : u.mem = t.mem) : WrittenBack a c x r u where
  owner := (read32_congr hu a).trans h.owner
  status := (read32_congr hu _).trans h.status
  final w hw := (read32_congr hu _).trans (h.final w hw)
  kept hnone := (read32_congr hu _).trans ((h.kept hnone).trans (read32_congr hs _))
  rest b hb := (sameBytes_of_mem hu b).trans ((h.rest b hb).trans (sameBytes_of_mem hs b))

/-- The registers that place a channel's descriptor: its ring and HEAD (R337). -/
def ringPlaceRegs (n : Nat) : List Nat := [R.CH_RING_LO n, R.CH_RING_HI n, R.CH_HEAD n]

theorem chRing_congr {s t : State} {n : Nat} (h : ∀ a ∈ ringPlaceRegs n, t.reg a = s.reg a) : t.chRing n = s.chRing n := by
  rw [State.chRing, State.chRing, State.regN, State.regN, h (R.CH_RING_LO n) (by simp [ringPlaceRegs]),
    h (R.CH_RING_HI n) (by simp [ringPlaceRegs])]

theorem chHead_congr {s t : State} {n : Nat} (h : ∀ a ∈ ringPlaceRegs n, t.reg a = s.reg a) : t.chHead n = s.chHead n := by
  rw [State.chHead, State.chHead, h (R.CH_HEAD n) (by simp [ringPlaceRegs])]

theorem chAt_congr {s t : State} {n : Nat} (h : ∀ a ∈ ringPlaceRegs n, t.reg a = s.reg a) : t.chAt n = s.chAt n := by
  rw [State.chAt, State.chAt, chRing_congr h, chHead_congr h]

theorem regN_chAdvance (s : State) (n : Nat) : (s.chAdvance n).regN (R.CH_HEAD n) = (s.chHead n + 1) % (s.chRing n).2 := by
  have hsize : (s.chRing n).2 ≤ 2 ^ 15 := Nat.pow_le_pow_right (by decide) (Nat.le_of_lt_succ (bits_lt _ 11 8))
  have hpos : 0 < (s.chRing n).2 := Nat.two_pow_pos _
  have hlt : (s.chHead n + 1) % (s.chRing n).2 < (s.chRing n).2 := Nat.mod_lt _ hpos
  rw [State.chAdvance, regN_setRegN_same, Nat.mod_eq_of_lt (by omega)]

/-- A descriptor that ends with `st` reports `code`: HEAD advances and the channel enters its next state (R337, R349). -/
structure DescriptorOver (n st code : Nat) (s t : State) : Prop where
  head : t.regN (R.CH_HEAD n) = (s.chHead n + 1) % (s.chRing n).2
  status : t.rf (F.CH_STAT_LSTATUS n) = code % 256
  state : t.chState n = s.boundaryState n (decide (st ≠ St.OK))
  error : st ≠ St.OK ∨ code ≠ St.OK → t.rb (F.CH_STAT_ERRC n) = true
  stop : t.rb (F.CH_STAT_SPEND n) = false
  pause : t.rb (F.CH_STAT_PPEND n) = false

/-- Once memory is written, HEAD advances and the channel closes the descriptor. -/
theorem chAdvance_chClose_over {s u : State} {n : Nat} (hn : n < 128) (st code : Nat) (irq : Bool)
    (hregs : ∀ b, 0x40020000 ≤ b ∧ b < 0x40030000 → u.reg b = s.reg b) :
    DescriptorOver n st code s ((u.chAdvance n).chClose n st code irq) ∧ ((u.chAdvance n).chClose n st code irq).mem = u.mem := by
  obtain ⟨hclosed, herror⟩ := chClose_closes (u.chAdvance n) hn st code irq
  have hplace : ∀ a ∈ ringPlaceRegs n, u.reg a = s.reg a := fun a ha => hregs a (by
    simp only [ringPlaceRegs, R.CH_RING_LO, R.CH_RING_HI, R.CH_HEAD, List.mem_cons, List.not_mem_nil, or_false] at ha
    omega)
  have hstat : (u.chAdvance n).reg (R.CH_STAT n) = s.reg (R.CH_STAT n) :=
    (reg_setReg_other _ _ (by simp [R.CH_STAT, R.CH_HEAD])).trans (hregs _ (by unfold R.CH_STAT; omega))
  have hflag : ∀ k, (u.chAdvance n).rb ⟨R.CH_STAT n, k, k⟩ = s.rb ⟨R.CH_STAT n, k, k⟩ := fun k =>
    congrArg (fun w => bits w k k == 1) hstat
  refine ⟨⟨?head, hclosed.status, ?state, herror, hclosed.stop, hclosed.pause⟩, hclosed.mem.trans (setReg_mem ..)⟩
  case head =>
    have hkept : ((u.chAdvance n).chClose n st code irq).reg (R.CH_HEAD n) = (u.chAdvance n).reg (R.CH_HEAD n) :=
      hclosed.regs.reg (by simp [R.CH_HEAD, R.CH_STAT]) (not_evrAddr_array (by decide))
    rw [State.regN, hkept, ← State.regN, regN_chAdvance, chHead_congr hplace, chRing_congr hplace]
  case state =>
    rw [hclosed.state, State.boundaryState, State.boundaryState, F.CH_STAT_SPEND, F.CH_STAT_PPEND, hflag, hflag]

theorem chComplete_of_writable {s : State} {n : Nat} (h : s.writable Ini.DMA (s.chAt n) 32 = true) (st : Nat) :
    let x := s.chCompare (s.ch n) st
    s.chComplete n st false =
      (((s.chReleased n st).chWriteBack (s.chAt n) (s.ch n) x).chAdvance n).chClose n st x.1 (((s.ch n).word 0).getLsbD 30) := by
  intro x
  have hreleased : ¬(false || !(s.chReleased n st).writable Ini.DMA (s.chAt n) 32) = true := by
    rw [writable_chReleased, h]
    decide
  exact if_neg hreleased

/-- A hand-back that ends without a bus error writes words 6, 7 and 0 alone (R337, R360). -/
theorem chComplete_hands_back {s : State} {n : Nat} (hn : n < 128) (h : s.writable Ini.DMA (s.chAt n) 32 = true) (st : Nat) :
    let x := s.chCompare (s.ch n) st
    WrittenBack (s.chAt n) (s.ch n) x s (s.chComplete n st false) ∧ DescriptorOver n st x.1 s (s.chComplete n st false) := by
  intro x
  rw [chComplete_of_writable h]
  obtain ⟨hover, hmem⟩ := chAdvance_chClose_over (s := s) hn st x.1 (((s.ch n).word 0).getLsbD 30)
    fun b hb => reg_chReleased_writeBack s n st (s.chAt n) (s.ch n) x hb
  exact ⟨(chWriteBack_writes (s.chReleased n st) _ _ x).congr (chReleased_within s n st .mem rfl) hmem, hover⟩

/-! ### Aborts -/

/-- An ABORT withdraws what waits for the boundary (R348), in the order in which the model writes it. -/
def State.chUncalled (s : State) (n : Nat) : State := (s.wb (F.CH_STAT_PPEND n) false).wb (F.CH_STAT_SPEND n) false

theorem chUncalled_records (s : State) (n : Nat) :
    (s.chUncalled n).rb (F.CH_STAT_PPEND n) = false ∧ (s.chUncalled n).rb (F.CH_STAT_SPEND n) = false ∧
      RegsBut [R.CH_STAT n] s (s.chUncalled n) := by
  refine ⟨?_, rb_wb_same _ _ rfl (by decide : 23 < 32),
    (RegsBut.refl.wb (f := F.CH_STAT_PPEND n) (List.mem_singleton_self _)).wb (f := F.CH_STAT_SPEND n)
      (List.mem_singleton_self _)⟩
  exact (rb_wb_apart _ _ (Fld.apart_of_bits (by decide) : Fld.Apart (F.CH_STAT_SPEND n) (F.CH_STAT_PPEND n))).trans
    (rb_wb_same _ _ rfl (by decide : 24 < 32))

theorem chAbort_of_run {s : State} {n : Nat} (h : s.chState n = Cs.RUN) (hended : (s.ch n).ended = none) :
    s.chAbort n = (s.chUncalled n).setCh n { s.ch n with ended := some St.ABORTED } := by
  have hchan : (s.chUncalled n).ch n = s.ch n := (wf_ch ..).trans (wf_ch ..)
  have hrow : s.chAbort n = if ((s.chUncalled n).ch n).ended.isSome then s.chUncalled n
      else (s.chUncalled n).setCh n { (s.chUncalled n).ch n with ended := some St.ABORTED } := if_pos h
  rw [hrow, hchan, hended]
  exact if_neg Bool.false_ne_true

/-- An ABORT in RUN ends the descriptor at the boundary of its burst: what has moved stands (R348). -/
theorem chAbort_ends {s : State} {n : Nat} (h : s.chState n = Cs.RUN) (hended : (s.ch n).ended = none) :
    let t := s.chAbort n
    (t.ch n).ended = some St.ABORTED ∧ (t.ch n).moved = (s.ch n).moved ∧ t.rb (F.CH_STAT_PPEND n) = false ∧
      t.rb (F.CH_STAT_SPEND n) = false ∧ RegsBut [R.CH_STAT n] s t ∧ SameBytes s t := by
  intro t
  obtain ⟨hpend, hspend, hregs⟩ := chUncalled_records s n
  have ht : t = (s.chUncalled n).setCh n { s.ch n with ended := some St.ABORTED } := chAbort_of_run h hended
  have hchan : t.ch n = { s.ch n with ended := some St.ABORTED } := by rw [ht, ch_setCh]
  have hmem : t.mem = s.mem := ht ▸ (setCh_mem ..).trans ((wf_mem ..).trans (wf_mem ..))
  refine ⟨by rw [hchan], by rw [hchan], ?pause, ?stop, by rw [ht]; exact hregs.setCh, sameBytes_of_mem hmem⟩
  case pause => rw [ht, State.rb, setCh_rf]; exact hpend
  case stop => rw [ht, State.rb, setCh_rf]; exact hspend

theorem chAbort_of_armed {s : State} {n : Nat} (h : s.chState n = Cs.ARMED) :
    s.chAbort n = (s.chUncalled n).chComplete n St.ABORTED false :=
  (if_neg (by rw [h]; decide)).trans (if_pos h)

theorem chCompare_of_unbegun {s : State} {c : DmaChan} (h : c.begun = false) (st : Nat) : s.chCompare c st = (st, none) :=
  if_pos (.inr (by rw [h]; rfl))

/-- An ABORT of an ARMED channel hands its descriptor back with ABORTED and halts it (R348). -/
theorem chAbort_hands_back {s : State} {n : Nat} (hn : n < 128) (h : s.chState n = Cs.ARMED) (hmoved : (s.ch n).moved = 0)
    (hbegun : (s.ch n).begun = false) (hw : s.writable Ini.DMA (s.chAt n) 32 = true) :
    let t := s.chAbort n
    t.chState n = Cs.HALT ∧ t.read32 (s.chAt n + 28) = 0x0B ∧ t.rb (F.CH_STAT_ERRC n) = true ∧
      t.read32 (s.chAt n) = (s.ch n).word 0 &&& 0x7FFFFFFF ∧
      ∀ b, b < s.chAt n ∨ s.chAt n + 32 ≤ b → t.byte b = s.byte b := by
  intro t
  obtain ⟨-, hstop, hregs⟩ := chUncalled_records s n
  have hat : (s.chUncalled n).chAt n = s.chAt n := chAt_congr fun a ha => hregs a (by
    simp only [ringPlaceRegs, R.CH_RING_LO, R.CH_RING_HI, R.CH_HEAD, List.mem_cons, List.not_mem_nil, or_false] at ha
    simp only [R.CH_STAT, List.mem_singleton]
    omega) (not_evrAddr_of_ge (by
    simp only [ringPlaceRegs, R.CH_RING_LO, R.CH_RING_HI, R.CH_HEAD, List.mem_cons, List.not_mem_nil, or_false] at ha
    omega))
  have hwritable : (s.chUncalled n).writable Ini.DMA ((s.chUncalled n).chAt n) 32 = true := by
    rw [hat, writable_congr hregs (by simp [R.CH_STAT, R.SYS_STEPOK, R.DRC_STAT, R.DRC_DUMP, R.DRC_DUMP_BASE, R.DRC_DUMP_SIZE]; omega), hw]
  obtain ⟨hwritten, hover⟩ := chComplete_hands_back hn hwritable St.ABORTED
  have hchan : (s.chUncalled n).ch n = s.ch n := (wf_ch ..).trans (wf_ch ..)
  have hcompare : (s.chUncalled n).chCompare ((s.chUncalled n).ch n) St.ABORTED = (St.ABORTED, none) :=
    chCompare_of_unbegun (hchan ▸ hbegun) _
  rw [hcompare, hat, hchan, ← chAbort_of_armed h] at hwritten
  rw [hcompare, ← chAbort_of_armed h] at hover
  refine ⟨?state, ?status, hover.error (.inl (by decide)), hwritten.owner, fun b hb => hwritten.rest b (by omega)⟩
  case state =>
    rw [hover.state, State.boundaryState, hstop]
    rfl
  case status =>
    rw [hwritten.status, hmoved]
    rfl

/-! ### The obligation -/

/-- Settles O45, cell by cell of R345's table. -/
theorem dmaCommands : Obligations.DmaCommands := by
  unfold Obligations.DmaCommands
  intro s i n hmay k st own
  have hn : k < 128 := n.isLt
  refine ⟨fun hpath c hc => ?path, fun hfw => ?firmware⟩
  case path =>
    have hrefused : ∀ p ∈ dmaCommandOpcodes i n, exec p.1 s = .next (s.chRefuse k St.RIGHTS) := fun p hp =>
      (exec_dmaCommand hmay hp).trans (congrArg Host.Outcome.next (chCmd_of_path hpath p.2))
    obtain ⟨p, hp, rfl⟩ := List.mem_map.mp (show c ∈ (dmaCommandOpcodes i n).map Prod.fst from hc)
    exact hrefused p hp
  case firmware =>
    obtain ⟨henable, hstart, hpause, hresume, hstop, habort, hclear⟩ := exec_dmaCommands hmay hfw
    refine ⟨fun p hp hst => ?rejected, fun p hp hst => ?nothing, fun p hp hst => ?entered, fun hst hsaddle => ?started,
      fun hst => ?paused, fun hst => ?pausePending, fun hst => ?resumed, fun hst => ?stopped, fun hst => ?stopPending,
      fun hst hended => ?aborted, fun hst hmoved hbegun hw => ?handedBack⟩
    case rejected =>
      have hexec : exec p.1 s = .next (s.chReject k) := by
        simp only [List.mem_cons, List.not_mem_nil, or_false] at hp
        obtain rfl | rfl | rfl | rfl | rfl | rfl := hp
        · rw [henable, chEnable_rejected (List.mem_singleton.mp hst)]
        · rw [hstart, chStart_rejected hst]
        · rw [hpause, chPause_rejected hst]
        · rw [hresume, chResume_rejected hst]
        · rw [habort, chAbort_rejected hst]
        · rw [hclear, chClear_rejected hst]
      exact ⟨_, hexec, chReject_records s hn⟩
    case nothing =>
      simp only [List.mem_cons, List.not_mem_nil, or_false] at hp
      obtain rfl | rfl | rfl | rfl := hp
      · rw [henable, chEnable_idle hst]
      · rw [hpause, chPause_idle (List.mem_singleton.mp hst)]
      · rw [hstop, chStop_idle (List.mem_singleton.mp hst)]
      · rw [habort, chAbort_idle (List.mem_singleton.mp hst)]
    case entered =>
      have hexec : exec p.1 s = .next (s.chFetch k) := by
        simp only [List.mem_cons, List.not_mem_nil, or_false] at hp
        obtain rfl | rfl := hp
        · rw [henable, chEnable_of_off hst]
        · rw [hclear, chClear_of_halt hst]
      have hin := channelIn_chFetch s k
      exact ⟨_, hexec, hin.state, congrArg DmaChan.desc hin.chan, congrArg DmaChan.parked hin.chan, hin.regs,
        sameBytes_of_mem hin.mem⟩
    case started =>
      rw [chStart_of_armed hst] at hstart
      exact ⟨_, hstart, chTrigger_runs s.gt hsaddle⟩
    case paused =>
      rw [chPause_of_waiting hst] at hpause
      have hin := channelIn_chEnter s k (st := Cs.PAUSED) (by decide)
      exact ⟨_, hpause, hin.state, wf_dma .., hin.regs, sameBytes_of_mem hin.mem⟩
    case pausePending =>
      rw [chPause_of_run hst] at hpause
      obtain ⟨hstate, hshown, hdma, hown⟩ := wb_stat_records s (n := k) (k := 24) (by decide) true
      exact ⟨_, hpause, hstate.trans hst, hshown, hdma, hown⟩
    case resumed =>
      obtain ⟨c, hc, hin⟩ := channelIn_chResume (n := k) hst
      exact ⟨_, hresume, hin.state, (congrArg DmaChan.desc hin.chan).trans hc, hin.regs, sameBytes_of_mem hin.mem⟩
    case stopped =>
      rw [chStop_of_rest hst] at hstop
      have hin := channelIn_setCh_chEnter s k DmaChan.none (st := Cs.OFF) (by decide)
      exact ⟨_, hstop, hin.state, congrArg DmaChan.desc hin.chan, hin.regs, sameBytes_of_mem hin.mem⟩
    case stopPending =>
      rw [chStop_of_run hst] at hstop
      obtain ⟨hstate, hshown, hdma, hown⟩ := wb_stat_records s (n := k) (k := 23) (by decide) true
      exact ⟨_, hstop, hstate.trans hst, hshown, hdma, hown⟩
    case aborted => exact ⟨_, habort, chAbort_ends hst hended⟩
    case handedBack => exact ⟨_, habort, chAbort_hands_back hn hst hmoved hbegun hw⟩

end Sys2Proof.Machine
end

section
/-! PROOFS. The DMA family: writes to the registers of channels, and the Saddle (O47). -/

namespace Sys2Proof.Machine

/-! ### The bits of a register after a write -/

theorem getLsbD_setBits (v : Word) {hi lo k : Nat} (n : Nat) (h : lo ≤ hi) (hk : k < 32) :
    (setBits v hi lo n).getLsbD k = if lo ≤ k ∧ k ≤ hi then n.testBit (k - lo) else v.getLsbD k := by
  have hparts : v.toNat % 2 ^ lo + n % 2 ^ (hi - lo + 1) * 2 ^ lo + v.toNat / 2 ^ (hi + 1) * 2 ^ (hi + 1) =
      2 ^ lo * (2 ^ (hi - lo + 1) * (v.toNat / 2 ^ (hi + 1)) + n % 2 ^ (hi - lo + 1)) + v.toNat % 2 ^ lo := by
    rw [show hi + 1 = lo + (hi - lo + 1) by omega, pow_add]
    ring
  rw [setBits, BitVec.getLsbD_ofNat, decide_eq_true hk, Bool.true_and, hparts,
    Nat.testBit_two_pow_mul_add _ (Nat.mod_lt _ (Nat.two_pow_pos _)),
    Nat.testBit_two_pow_mul_add _ (Nat.mod_lt _ (Nat.two_pow_pos _)), Nat.testBit_mod_two_pow, Nat.testBit_mod_two_pow,
    Nat.testBit_div_two_pow, BitVec.getLsbD]
  by_cases hlow : k < lo
  · rw [if_pos hlow, if_neg (by omega), decide_eq_true hlow, Bool.true_and]
  · rw [if_neg hlow]
    by_cases hin : k ≤ hi
    · rw [if_pos (by omega), if_pos ⟨by omega, hin⟩, decide_eq_true (by omega), Bool.true_and]
    · rw [if_neg (by omega), if_neg (by omega)]
      exact congrArg _ (by omega)

theorem testBit_bits (v : Word) {hi lo j : Nat} (h : lo + j ≤ hi) : (bits v hi lo).testBit j = v.getLsbD (lo + j) := by
  rw [bits, Nat.testBit_mod_two_pow, decide_eq_true (by omega), Bool.true_and, Nat.testBit_div_two_pow, BitVec.getLsbD,
    Nat.add_comm]

/-- The bits of a row that a write sets. -/
def fieldsMask (fields : List RegField) (k : Nat) : Bool := fields.any fun f => decide (f.lo ≤ k ∧ k ≤ f.hi)

theorem fieldsMask_cons (f : RegField) (fs : List RegField) (k : Nat) :
    fieldsMask (f :: fs) k = (decide (f.lo ≤ k ∧ k ≤ f.hi) || fieldsMask fs k) := rfl

/-- A write to fields that are all read-write takes the bits of the word written there, and keeps the others (R7). -/
theorem getLsbD_applyFields_rw {old v : Word} {k : Nat} (hk : k < 32) :
    ∀ {fields : List RegField} {acc : Word}, (∀ f ∈ fields, f.acc = .rw ∧ f.lo ≤ f.hi) →
      (applyFields fields old v acc).getLsbD k = if fieldsMask fields k then v.getLsbD k else acc.getLsbD k
  | [], _, _ => rfl
  | f :: fs, acc, h => by
    obtain ⟨⟨hrw, hlo⟩, hrest⟩ := List.forall_mem_cons.mp h
    have hafter : f.after old v = bits v f.hi f.lo := by simp only [RegField.after, hrw]
    rw [applyFields, getLsbD_applyFields_rw hk hrest, hafter, getLsbD_setBits _ _ hlo hk, fieldsMask_cons]
    by_cases hin : f.lo ≤ k ∧ k ≤ f.hi
    · rw [if_pos hin, testBit_bits _ (by omega), Nat.add_sub_cancel' hin.1, decide_eq_true hin, Bool.true_or, if_pos rfl, ite_self]
    · rw [if_neg hin, decide_eq_false hin, Bool.false_or]

/-- The same as a mask. -/
theorem applyFields_masked {fields : List RegField} {old v mask : Word} (h : ∀ f ∈ fields, f.acc = .rw ∧ f.lo ≤ f.hi)
    (hmask : ∀ k < 32, mask.getLsbD k = fieldsMask fields k) :
    applyFields fields old v old = (old &&& ~~~mask) ||| (v &&& mask) := by
  apply BitVec.eq_of_getLsbD_eq
  intro k hk
  rw [getLsbD_applyFields_rw hk h, ← hmask k hk, BitVec.getLsbD_or, BitVec.getLsbD_and, BitVec.getLsbD_and, BitVec.getLsbD_not]
  cases mask.getLsbD k <;> simp [hk]

/-! ### Rows of plain fields -/

/-- A row whose fields any initiator may write, whatever the block does: a write is refused for its ranges alone (R8). -/
def RegRow.plain (row : RegRow) : Bool := !row.fields.isEmpty && row.fields.all fun f => f.acc != .rwi && f.acc != .rwm

theorem changesRwi_of_all {old v : Word} : ∀ {fields : List RegField},
    (fields.all fun f => f.acc != .rwi && f.acc != .rwm) = true → changesRwi fields old v = false ∧ hasMc5 fields = false
  | [], _ => ⟨rfl, rfl⟩
  | f :: fs, h => by
    simp only [List.all_cons, Bool.and_eq_true, bne_iff_ne] at h
    obtain ⟨⟨hrwi, hrwm⟩, hrest⟩ := h
    obtain ⟨hchanges, hmc5⟩ := changesRwi_of_all (old := old) (v := v) hrest
    rw [changesRwi, hasMc5, hchanges, hmc5, beq_false_of_ne hrwi, beq_false_of_ne hrwm]
    exact ⟨rfl, rfl⟩

section
variable {s : State} {i a : Nat} {v : Word} {w : Window} {row : RegRow} {ix : List Nat} (hw : windowOf a = some w)
  (hrow : findRow w.rows (a - w.base) = some (row, ix)) (hkept : ∀ hi, absentField w.num (a - w.base) hi = false)
  (hplain : row.plain = true)
include hw hrow hkept hplain

/-- A write to a row of plain fields is refused for a range, or takes effect field by field (R8). -/
theorem writeReg_of_plain :
    s.writeRefused i a v = !(fieldsInRange row.fields v && s.extraOk w.num (a - w.base) v) ∧
      s.writeReg i a v = if fieldsInRange row.fields v && s.extraOk w.num (a - w.base) v then
          s.setReg a (applyFields row.fields (s.reg a) v (s.reg a))
        else s.refuseWrite w.num (a - w.base) St.RANGE := by
  obtain ⟨hsome, hall⟩ := Bool.and_eq_true_iff.mp hplain
  obtain ⟨hchanges, hmc5⟩ := changesRwi_of_all (old := s.reg a) (v := v) hall
  have hfilter : (row.fields.filter fun f => !absentField w.num (a - w.base) f.hi) = row.fields :=
    List.filter_eq_self.mpr fun f _ => by rw [hkept, Bool.not_false]
  rw [Bool.not_eq_true'] at hsome
  simp only [State.writeRefused, State.writeReg, hw, hrow, State.fieldWrite, hfilter, hchanges, hmc5, hsome, Bool.false_and,
    Bool.false_or, Bool.or_false, Bool.false_eq_true, if_false, true_and]
  cases fieldsInRange row.fields v && s.extraOk w.num (a - w.base) v <;> rfl

end

/-! ### The registers of a firmware channel -/

/-- The register window of the DMA (R23). -/
def dmaWindow : Window := ⟨2, 0x40020000, 0x4002FFFF, RegMap.dma⟩

theorem windowOf_dma {a : Nat} (hlo : 0x40020000 ≤ a) (hhi : a < 0x40030000) : windowOf a = some dmaWindow := by
  rw [windowOf, if_neg (by omega), if_neg (by omega), if_neg (by omega), if_pos hhi, dmaWindow]

theorem absentField_dma (o hi : Nat) : absentField dmaWindow.num o hi = false := by simp [absentField, dmaWindow]

/-- Beside a field's own range, CHn_SRING_LO and CHn_SHEAD have a range each (R353, R368). -/
theorem extraOk_dma (s : State) {n r : Nat} (hr : r < 0x40) (v : Word) :
    s.extraOk dmaWindow.num (0x1000 + 0x40 * n + r) v =
      if r = 0x24 then decide (v.toNat % 32 = 0) else if r = 0x2C then decide (bits v 11 0 < 2 ^ s.rf (F.CH_SRING_HI_SIZE n))
      else true := by
  have hchannel : (0x1000 + 0x40 * n + r - 0x1000) / 0x40 = n := by omega
  have hplace : (0x1000 + 0x40 * n + r - 0x1000) % 0x40 = r := by omega
  have harray : 0x1000 ≤ 0x1000 + 0x40 * n + r := by omega
  simp only [State.extraOk, State.extraA, State.extraB, State.extraC, dmaWindow, hchannel, hplace, harray, true_and]
  simp

/-- A channel's register outside its ranges is refused in CHn_ERR (R8, R368). -/
theorem refuseWrite_dma (s : State) {n r : Nat} (hr : r < 0x40) (code : Nat) :
    s.refuseWrite dmaWindow.num (0x1000 + 0x40 * n + r) code = s.chRefuse n code := by
  have hchannel : (0x1000 + 0x40 * n + r - 0x1000) / 0x40 = n := by omega
  have herr : errOf dmaWindow.num (0x1000 + 0x40 * n + r) = (R.CH_ERR n, 128 + n / 4) := by
    simp only [errOf, dmaWindow, hchannel]
    simp [show 0x1000 ≤ 0x1000 + 0x40 * n + r by omega]
  have hscan : R.CH_ERR n ≠ R.SCAN_RES := by
    simp only [R.CH_ERR, R.SCAN_RES]
    omega
  have hzero : R.CH_ERR n ≠ 0 := by
    simp only [R.CH_ERR]
    omega
  simp only [State.refuseWrite, herr, if_neg hscan, if_neg hzero]
  rfl

theorem chRefuse_records (s : State) {n code : Nat} (hn : n < 128) (hcode : code < 256) :
    (s.chRefuse n code).regN (R.CH_ERR n) = 0x100 + code ∧ RegsBut [R.CH_ERR n] s (s.chRefuse n code) :=
  refuse_records s (not_evrAddr_array (by decide)) hcode (by omega)

theorem chRefuse_mem (s : State) (n code : Nat) : (s.chRefuse n code).mem = s.mem := refuse_mem ..

theorem chRefuse_dma (s : State) (n code : Nat) : (s.chRefuse n code).dma = s.dma := raise_dma ..

/-! ### Shadow registers -/

/-- The rows of the shadow registers (R368). -/
def shadowRow : Fin 4 → RegRow
  | 0 => RegMap.row 0x1020 [(0x40, 128)] [RegMap.f 31 30 .rw 0, RegMap.fr 29 26 .rw 0 5 12, RegMap.fr 25 21 .rw 0 0 20,
      RegMap.f 20 20 .rw 0, RegMap.f 19 19 .rw 0, RegMap.f 17 16 .rw 0]
  | 1 => RegMap.row 0x1024 [(0x40, 128)] [RegMap.f 31 0 .rw 0]
  | 2 => RegMap.row 0x1028 [(0x40, 128)] [RegMap.fr 11 8 .rw 0 0 12, RegMap.f 3 0 .rw 0]
  | 3 => RegMap.row 0x102C [(0x40, 128)] [RegMap.f 11 0 .rw 0]

theorem shadowRow_plain : ∀ j : Fin 4, (shadowRow j).plain = true := by decide

theorem findRow_shadow : ∀ (n : Fin 128) (j : Fin 4),
    findRow RegMap.dma (0x1000 + 0x40 * n.val + (0x20 + 4 * j.val)) = some (shadowRow j, [n.val]) := by decide +kernel

/-- The bits of a shadow register. -/
def shadowMask (j : Fin 4) : Word := if j = 0 then 0xFFFB0000 else if j = 1 then 0xFFFFFFFF else if j = 2 then 0xF0F else 0xFFF

theorem applyFields_shadow (j : Fin 4) (old v : Word) :
    applyFields (shadowRow j).fields old v old = (old &&& ~~~(shadowMask j)) ||| (v &&& shadowMask j) :=
  applyFields_masked (by revert j; decide) (by revert j; decide)

/-- The ranges of a shadow register (R353, R368). -/
def State.shadowInRange (s : State) (n : Nat) (j : Fin 4) (v : Word) : Prop :=
  (j = 0 → 5 ≤ bits v 29 26 ∧ bits v 29 26 ≤ 12 ∧ bits v 25 21 ≤ 20) ∧ (j = 1 → v.toNat % 32 = 0) ∧
    (j = 2 → bits v 11 8 ≤ 12) ∧ (j = 3 → bits v 11 0 < 2 ^ s.rf (F.CH_SRING_HI_SIZE n))

theorem shadow_inRange_iff (s : State) {n : Nat} (j : Fin 4) (v : Word) :
    (fieldsInRange (shadowRow j).fields v && s.extraOk dmaWindow.num (0x1000 + 0x40 * n + (0x20 + 4 * j.val)) v) = true ↔
      s.shadowInRange n j v := by
  rw [extraOk_dma s (by omega)]
  match j with
  | 0 | 1 | 2 | 3 =>
    simp [shadowRow, RegMap.row, RegMap.f, RegMap.fr, fieldsInRange, RegField.inRange, State.shadowInRange, and_assoc]

theorem shadowReg_eq (n j : Nat) : shadowReg n j = 0x40020000 + (0x1000 + 0x40 * n + (0x20 + 4 * j)) := by
  simp only [shadowReg, R.CH_SCFG]
  omega

/-- A write to a shadow register is stored in its fields, or refused with RANGE (R8, R353). -/
theorem writeReg_shadow (s : State) (i : Nat) (n : Fin 128) (j : Fin 4) (v : Word) :
    (s.shadowInRange n.val j v → s.writeRefused i (shadowReg n.val j.val) v = false ∧
      s.writeReg i (shadowReg n.val j.val) v = s.setReg (shadowReg n.val j.val)
        ((s.reg (shadowReg n.val j.val) &&& ~~~(shadowMask j)) ||| (v &&& shadowMask j))) ∧
    (¬ s.shadowInRange n.val j v → s.writeRefused i (shadowReg n.val j.val) v = true ∧
      s.writeReg i (shadowReg n.val j.val) v = s.chRefuse n.val St.RANGE) := by
  have hoff : shadowReg n.val j.val - dmaWindow.base = 0x1000 + 0x40 * n.val + (0x20 + 4 * j.val) := by
    rw [shadowReg_eq]
    exact Nat.add_sub_cancel_left ..
  obtain ⟨hrefused, hwrite⟩ := writeReg_of_plain (s := s) (i := i) (v := v)
    (windowOf_dma (a := shadowReg n.val j.val) (by rw [shadowReg_eq]; omega) (by rw [shadowReg_eq]; omega))
    (hoff ▸ findRow_shadow n j) (absentField_dma _) (shadowRow_plain j)
  rw [hoff, refuseWrite_dma s (by omega)] at hwrite
  rw [hoff] at hrefused
  rw [hrefused, hwrite]
  refine ⟨fun hin => ?_, fun hout => ?_⟩
  · rw [(shadow_inRange_iff s j v).mpr hin, applyFields_shadow]
    exact ⟨rfl, if_pos rfl⟩
  · rw [eq_false_of_ne_true (mt (shadow_inRange_iff s j v).mp hout)]
    exact ⟨rfl, if_neg Bool.false_ne_true⟩

/-- A shadow write in its range is stored, and shows in DIRTY (R353). -/
theorem shadowWrite_stores {s : State} {i : Nat} {n : Fin 128} {j : Fin 4} {v : Word} (hfw : 12 ≤ n.val)
    (h : s.shadowInRange n.val j v) :
    let t := State.shadowWrite i n.val (shadowReg n.val j.val) v s
    t.reg (shadowReg n.val j.val) = (s.reg (shadowReg n.val j.val) &&& ~~~(shadowMask j)) ||| (v &&& shadowMask j) ∧
      t.rb (F.CH_SADDLE_DIRTY n.val) = true ∧ RegsBut [shadowReg n.val j.val, R.CH_SADDLE n.val] s t := by
  intro t
  obtain ⟨haccepted, hwrite⟩ := (writeReg_shadow s i n j v).1 h
  have ht : t = (s.writeReg i (shadowReg n.val j.val) v).wb (F.CH_SADDLE_DIRTY n.val) true :=
    (if_neg (by simpa [isPath] using hfw)).trans (if_neg (by rw [haccepted]; exact Bool.false_ne_true))
  have hdirty : RegsBut [R.CH_SADDLE n.val] (s.writeReg i (shadowReg n.val j.val) v) t :=
    ht ▸ RegsBut.refl.wb (f := F.CH_SADDLE_DIRTY n.val) (List.mem_singleton_self _)
  refine ⟨?stored, by rw [ht, rb_wb_same _ _ rfl (by decide : 29 < 32)], ?regs⟩
  case stored =>
    rw [hdirty.reg (by rw [shadowReg_eq, R.CH_SADDLE, List.mem_singleton]; omega)
      (not_evrAddr_of_ge (by rw [shadowReg_eq]; omega)), hwrite, reg_setReg_same]
  case regs => exact ((regsBut_writeReg haccepted).weaken (by simp)).trans (hdirty.weaken (by simp))

theorem shadowWrite_refused {s : State} {i : Nat} {n : Fin 128} {j : Fin 4} {v : Word} (hfw : 12 ≤ n.val)
    (h : ¬ s.shadowInRange n.val j v) : State.shadowWrite i n.val (shadowReg n.val j.val) v s = s.chRefuse n.val St.RANGE := by
  obtain ⟨hrefused, hwrite⟩ := (writeReg_shadow s i n j v).2 h
  rw [State.shadowWrite, if_neg (by simpa [isPath] using hfw), if_pos hrefused, hwrite]

/-! ### The arming of a Saddle -/

/-- The row of CHn_SADDLE (R368). -/
def saddleRow : RegRow :=
  RegMap.row 0x1030 [(0x40, 128)] [RegMap.f 31 31 .w1s 0, RegMap.f 30 30 .w1c 0, RegMap.f 29 29 .ro 0, RegMap.f 28 28 .rw 0,
    RegMap.f 15 0 .ro 0]

theorem findRow_saddle : ∀ n : Fin 128, findRow RegMap.dma (0x1000 + 0x40 * n.val + 0x30) = some (saddleRow, [n.val]) := by
  decide +kernel

/-- A write to CHn_SADDLE is never refused (R8, R368). -/
theorem writeReg_saddle (s : State) (i : Nat) (n : Fin 128) (v : Word) :
    s.writeReg i (R.CH_SADDLE n.val) v = s.setReg (R.CH_SADDLE n.val)
      (applyFields saddleRow.fields (s.reg (R.CH_SADDLE n.val)) v (s.reg (R.CH_SADDLE n.val))) := by
  have haddr : R.CH_SADDLE n.val = 0x40020000 + (0x1000 + 0x40 * n.val + 0x30) := by
    rw [R.CH_SADDLE]
    omega
  have hoff : R.CH_SADDLE n.val - dmaWindow.base = 0x1000 + 0x40 * n.val + 0x30 := by
    rw [haddr]
    exact Nat.add_sub_cancel_left ..
  obtain ⟨-, hwrite⟩ := writeReg_of_plain (s := s) (i := i) (v := v)
    (windowOf_dma (a := R.CH_SADDLE n.val) (by omega) (by omega)) (hoff ▸ findRow_saddle n) (absentField_dma _) (by decide)
  rw [hoff, extraOk_dma s (by decide)] at hwrite
  rw [hwrite]
  exact if_pos rfl

/-- A write to CHn_SADDLE sets what is written of WHEN, sets ARM and clears TAKEN by ones, and keeps DIRTY and GEN. -/
theorem bits_saddleRow (old v : Word) :
    let w := applyFields saddleRow.fields old v old
    bits w 31 31 = bits old 31 31 ||| bits v 31 31 ∧ bits w 30 30 = bits old 30 30 - (bits old 30 30 &&& bits v 30 30) ∧
      bits w 28 28 = bits v 28 28 ∧ bits w 15 0 = bits old 15 0 := by
  intro w
  have hfield : ∀ {f : RegField}, f ∈ saddleRow.fields → f.after old v < 2 ^ (f.hi - f.lo + 1) →
      bits w f.hi f.lo = f.after old v := fun hf hlt =>
    (bits_applyFields hf (by decide) (by decide)).trans (Nat.mod_eq_of_lt hlt)
  have hor : bits old 31 31 ||| bits v 31 31 < 2 ^ 1 := Nat.or_lt_two_pow (bits_lt ..) (bits_lt ..)
  exact ⟨hfield (f := RegMap.f 31 31 .w1s 0) (by decide) hor,
    hfield (f := RegMap.f 30 30 .w1c 0) (by decide) (Nat.lt_of_le_of_lt (Nat.sub_le ..) (bits_lt ..)),
    hfield (f := RegMap.f 28 28 .rw 0) (by decide) (bits_lt ..), hfield (f := RegMap.f 15 0 .ro 0) (by decide) (bits_lt ..)⟩

/-- One bit cleared by a one written (R7). -/
theorem bit_cleared (x y : Word) (k : Nat) :
    (bits x k k - (bits x k k &&& bits y k k) == 1) = ((bits x k k == 1) && !y.getLsbD k) := by
  have hbit : ∀ z : Word, bits z k k = 0 ∨ bits z k k = 1 := fun z => by
    have hlt := bits_lt z k k
    rw [Nat.sub_self] at hlt
    omega
  rw [← bits_bit_eq_one y]
  rcases hbit x with hx | hx <;> rcases hbit y with hy | hy <;> rw [hx, hy] <;> rfl

/-- A write to CHn_SADDLE with ARM arms the hand-over with its WHEN (R351). -/
theorem saddleWrite_arms (s : State) (i : Nat) {n : Fin 128} (hfw : 12 ≤ n.val) (v : Word) :
    let t := State.saddleWrite i n.val (v ||| 0x80000000) s
    t.rb (F.CH_SADDLE_ARM n.val) = true ∧ t.rb (F.CH_SADDLE_WHEN n.val) = v.getLsbD 28 ∧
      t.rb (F.CH_SADDLE_TAKEN n.val) = (s.rb (F.CH_SADDLE_TAKEN n.val) && !v.getLsbD 30) ∧
      t.rf (F.CH_SADDLE_GEN n.val) = s.rf (F.CH_SADDLE_GEN n.val) ∧ RegsBut [R.CH_SADDLE n.val] s t := by
  intro t
  have ht : t = s.setReg (R.CH_SADDLE n.val) _ := (if_neg (by simpa [isPath] using hfw)).trans (writeReg_saddle ..)
  obtain ⟨harm, htaken, hwhen, hgen⟩ := bits_saddleRow (s.reg (R.CH_SADDLE n.val)) (v ||| 0x80000000)
  have hbits : ∀ hi lo, t.rf ⟨R.CH_SADDLE n.val, hi, lo⟩ = bits (applyFields saddleRow.fields (s.reg (R.CH_SADDLE n.val))
      (v ||| 0x80000000) (s.reg (R.CH_SADDLE n.val))) hi lo := fun hi lo => by rw [ht, rf_setReg, if_pos rfl]
  refine ⟨?arm, ?when, ?taken, (hbits ..).trans hgen, by rw [ht]; exact RegsBut.refl.setReg (List.mem_singleton_self _)⟩
  case arm =>
    have hone : bits (v ||| 0x80000000) 31 31 = 1 := by
      rw [← beq_iff_eq, bits_bit_eq_one, BitVec.getLsbD_or]
      simp
    rw [State.rb, F.CH_SADDLE_ARM, hbits, harm, hone]
    have hlt : bits (s.reg (R.CH_SADDLE n.val)) 31 31 < 2 := bits_lt ..
    interval_cases bits (s.reg (R.CH_SADDLE n.val)) 31 31 <;> rfl
  case when =>
    rw [State.rb, F.CH_SADDLE_WHEN, hbits, hwhen, bits_bit_eq_one, BitVec.getLsbD_or]
    simp
  case taken =>
    rw [State.rb, F.CH_SADDLE_TAKEN, hbits, htaken, bit_cleared, BitVec.getLsbD_or]
    simp [State.rb, State.rf]

/-! ### The hand-over -/

/-- The shadow set becomes the active set (R351, R353). -/
def State.saddleActive (s : State) (n : Nat) : State :=
  let s := (s.setReg (R.CH_CFG n) (s.reg (R.CH_SCFG n))).setReg (R.CH_RING_LO n) (s.reg (R.CH_SRING_LO n))
  (s.setReg (R.CH_RING_HI n) (s.reg (R.CH_SRING_HI n))).setRegN (R.CH_HEAD n) (s.rf (F.CH_SHEAD_HEAD n))

/-- CHn_SADDLE reports the hand-over (R353). -/
def State.saddleShown (s : State) (n : Nat) : State :=
  (((s.wf (F.CH_SADDLE_GEN n) (s.rf (F.CH_SADDLE_GEN n) + 1)).wb (F.CH_SADDLE_TAKEN n) true).wb (F.CH_SADDLE_ARM n) false).wb
    (F.CH_SADDLE_DIRTY n) false

/-- The channel raises its event when it asks for it (R350). -/
def State.saddleNoted (s : State) (n : Nat) : State :=
  if s.rb (F.CH_CFG_SADEV n) then s.chCause n (F.CH_STAT_SADF n) else s

theorem saddleTake_eq (s : State) (n : Nat) :
    let u := ((s.saddleActive n).saddleShown n).saddleNoted n
    s.saddleTake n = if u.chState n = Cs.ARMED ∨ u.chState n = Cs.IDLE then u.chFetch n else u.setCh n DmaChan.none := rfl

/-- The registers of the active set. -/
def activeRegs (n : Nat) : List Nat := [R.CH_CFG n, R.CH_RING_LO n, R.CH_RING_HI n, R.CH_HEAD n]

theorem saddleActive_copies (s : State) (n : Nat) :
    let t := s.saddleActive n
    t.reg (R.CH_CFG n) = s.reg (R.CH_SCFG n) ∧ t.reg (R.CH_RING_LO n) = s.reg (R.CH_SRING_LO n) ∧
      t.reg (R.CH_RING_HI n) = s.reg (R.CH_SRING_HI n) ∧ t.regN (R.CH_HEAD n) = s.rf (F.CH_SHEAD_HEAD n) ∧
      RegsBut (activeRegs n) s t := by
  intro t
  have hcopied : t.reg (R.CH_CFG n) = s.reg (R.CH_SCFG n) ∧ t.reg (R.CH_RING_LO n) = s.reg (R.CH_SRING_LO n) ∧
      t.reg (R.CH_RING_HI n) = s.reg (R.CH_SRING_HI n) ∧ t.reg (R.CH_HEAD n) = BitVec.ofNat 32 (s.rf (F.CH_SHEAD_HEAD n)) := by
    simp [t, State.saddleActive, reg_setReg, reg_setRegN, State.rf, F.CH_SHEAD_HEAD, R.CH_CFG, R.CH_RING_LO, R.CH_RING_HI,
      R.CH_HEAD, R.CH_SCFG, R.CH_SRING_LO, R.CH_SRING_HI, R.CH_SHEAD]
  obtain ⟨hcfg, hlow, hhigh, hhead⟩ := hcopied
  refine ⟨hcfg, hlow, hhigh, ?head, ?regs⟩
  case head =>
    rw [State.regN, hhead, BitVec.toNat_ofNat,
      Nat.mod_eq_of_lt ((rf_lt s (F.CH_SHEAD_HEAD n)).trans (by decide : 2 ^ 12 < 2 ^ 32))]
  case regs =>
    exact (((RegsBut.refl.setReg (by simp [activeRegs])).setReg (by simp [activeRegs])).setReg (by simp [activeRegs])).setRegN
      (by simp [activeRegs])

theorem saddleShown_shows (s : State) (n : Nat) :
    let t := s.saddleShown n
    t.rf (F.CH_SADDLE_GEN n) = (s.rf (F.CH_SADDLE_GEN n) + 1) % 2 ^ 16 ∧ t.rb (F.CH_SADDLE_TAKEN n) = true ∧
      t.rb (F.CH_SADDLE_ARM n) = false ∧ t.rb (F.CH_SADDLE_DIRTY n) = false ∧ RegsBut [R.CH_SADDLE n] s t := by
  intro t
  let counted := s.wf (F.CH_SADDLE_GEN n) (s.rf (F.CH_SADDLE_GEN n) + 1)
  let taken := counted.wb (F.CH_SADDLE_TAKEN n) true
  let disarmed := taken.wb (F.CH_SADDLE_ARM n) false
  have hgen : counted.rf (F.CH_SADDLE_GEN n) = (s.rf (F.CH_SADDLE_GEN n) + 1) % 2 ^ 16 :=
    rf_wf_same s (F.CH_SADDLE_GEN n) _ (by decide : 0 ≤ 15) (by decide : 15 < 32)
  have hclear : ∀ {u : State} {hi lo : Nat}, lo ≤ hi → hi < 29 ∨ 29 < lo → hi < 32 →
      (u.wb (F.CH_SADDLE_DIRTY n) false).rf ⟨R.CH_SADDLE n, hi, lo⟩ = u.rf ⟨R.CH_SADDLE n, hi, lo⟩ := fun h1 h2 h3 =>
    rf_wf_apart _ _ (Fld.apart_of_bits (by omega) : Fld.Apart (F.CH_SADDLE_DIRTY n) ⟨R.CH_SADDLE n, _, _⟩)
  have harm : ∀ {u : State} {hi lo : Nat}, lo ≤ hi → hi < 31 →
      (u.wb (F.CH_SADDLE_ARM n) false).rf ⟨R.CH_SADDLE n, hi, lo⟩ = u.rf ⟨R.CH_SADDLE n, hi, lo⟩ := fun h1 h2 =>
    rf_wf_apart _ _ (Fld.apart_of_bits (by omega) : Fld.Apart (F.CH_SADDLE_ARM n) ⟨R.CH_SADDLE n, _, _⟩)
  refine ⟨?gen, ?taken, ?arm, rb_wb_same _ _ rfl (by decide : 29 < 32), ?regs⟩
  case gen =>
    calc t.rf (F.CH_SADDLE_GEN n)
      _ = disarmed.rf (F.CH_SADDLE_GEN n) := hclear (by decide) (by decide) (by decide)
      _ = taken.rf (F.CH_SADDLE_GEN n) := harm (by decide) (by decide)
      _ = counted.rf (F.CH_SADDLE_GEN n) :=
        rf_wf_apart _ _ (Fld.apart_of_bits (by decide) : Fld.Apart (F.CH_SADDLE_TAKEN n) (F.CH_SADDLE_GEN n))
      _ = _ := hgen
  case taken =>
    have htaken : taken.rb (F.CH_SADDLE_TAKEN n) = true := rb_wb_same _ _ rfl (by decide : 30 < 32)
    exact (congrArg (· == 1) ((hclear (by decide) (by decide) (by decide)).trans (harm (by decide) (by decide)))).trans htaken
  case arm =>
    have hdisarmed : disarmed.rb (F.CH_SADDLE_ARM n) = false := rb_wb_same _ _ rfl (by decide : 31 < 32)
    exact (congrArg (· == 1) (hclear (by decide) (by decide) (by decide))).trans hdisarmed
  case regs =>
    exact (((RegsBut.refl.wf (f := F.CH_SADDLE_GEN n) (List.mem_singleton_self _)).wb (f := F.CH_SADDLE_TAKEN n)
      (List.mem_singleton_self _)).wb (f := F.CH_SADDLE_ARM n) (List.mem_singleton_self _)).wb (f := F.CH_SADDLE_DIRTY n)
      (List.mem_singleton_self _)

/-- After the hand-over the channel holds no descriptor, and fetches anew if it waits (R351). -/
theorem saddleTake_lets_go (s : State) {n : Nat} (hn : n < 128) :
    ((s.saddleTake n).ch n).desc = none ∧
      RegsBut [R.CH_STAT n] ((s.saddleActive n).saddleShown n) (s.saddleTake n) := by
  have hnoted : RegsBut [R.CH_STAT n] ((s.saddleActive n).saddleShown n) (((s.saddleActive n).saddleShown n).saddleNoted n) :=
    .ite (RegsBut.refl.chCause (List.mem_singleton_self _) hn) .refl
  rw [saddleTake_eq]
  split
  · have hin := channelIn_chFetch (((s.saddleActive n).saddleShown n).saddleNoted n) n
    exact ⟨congrArg DmaChan.desc hin.chan, hnoted.trans hin.regs⟩
  · exact ⟨congrArg DmaChan.desc (ch_setCh ..), hnoted.setCh⟩

/-- A hand-over whose checks pass makes the shadow set the active one, and reports it (R351, R353). -/
theorem saddleTake_hands_over (s : State) {n : Nat} (hn : n < 128) :
    let t := s.saddleTake n
    t.reg (R.CH_CFG n) = s.reg (R.CH_SCFG n) ∧ t.reg (R.CH_RING_LO n) = s.reg (R.CH_SRING_LO n) ∧
      t.reg (R.CH_RING_HI n) = s.reg (R.CH_SRING_HI n) ∧ t.regN (R.CH_HEAD n) = s.rf (F.CH_SHEAD_HEAD n) ∧
      t.rf (F.CH_SADDLE_GEN n) = (s.rf (F.CH_SADDLE_GEN n) + 1) % 2 ^ 16 ∧ t.rb (F.CH_SADDLE_TAKEN n) = true ∧
      t.rb (F.CH_SADDLE_ARM n) = false ∧ t.rb (F.CH_SADDLE_DIRTY n) = false ∧ (t.ch n).desc = none ∧
      RegsBut [R.CH_CFG n, R.CH_RING_LO n, R.CH_RING_HI n, R.CH_HEAD n, R.CH_SADDLE n, R.CH_STAT n] s t := by
  intro t
  obtain ⟨hcfg, hlow, hhigh, hhead, hactive⟩ := saddleActive_copies s n
  obtain ⟨hgen, htaken, harm, hdirty, hshown⟩ := saddleShown_shows (s.saddleActive n) n
  obtain ⟨hdesc, hlast⟩ := saddleTake_lets_go s hn
  have hafter : ∀ a ∈ activeRegs n, t.reg a = (s.saddleActive n).reg a := fun a ha => by
    simp only [activeRegs, R.CH_CFG, R.CH_RING_LO, R.CH_RING_HI, R.CH_HEAD, List.mem_cons, List.not_mem_nil, or_false] at ha
    have hevr : ¬ evrAddr a := not_evrAddr_of_ge (by omega)
    exact (hlast.reg (by rw [List.mem_singleton, R.CH_STAT]; omega) hevr).trans
      (hshown.reg (by rw [List.mem_singleton, R.CH_SADDLE]; omega) hevr)
  have hcopied : ∀ {a : Nat} {x : Word}, a ∈ activeRegs n → (s.saddleActive n).reg a = x → t.reg a = x := fun ha hx =>
    (hafter _ ha).trans hx
  have hfield : ∀ {f : Fld}, f.addr = R.CH_SADDLE n → t.rf f = ((s.saddleActive n).saddleShown n).rf f := fun hf =>
    hlast.rf (by simp [hf, R.CH_SADDLE, R.CH_STAT]) (hf ▸ not_evrAddr_array (by decide))
  have hflag : ∀ {f : Fld} {b : Bool}, f.addr = R.CH_SADDLE n → ((s.saddleActive n).saddleShown n).rb f = b → t.rb f = b :=
    fun hf hb => (congrArg (· == 1) (hfield hf)).trans hb
  have hbefore : (s.saddleActive n).rf (F.CH_SADDLE_GEN n) = s.rf (F.CH_SADDLE_GEN n) :=
    hactive.rf (by simp [activeRegs, F.CH_SADDLE_GEN, R.CH_SADDLE, R.CH_CFG, R.CH_RING_LO, R.CH_RING_HI, R.CH_HEAD])
      (not_evrAddr_array (by decide))
  refine ⟨hcopied (by simp [activeRegs]) hcfg, hcopied (by simp [activeRegs]) hlow, hcopied (by simp [activeRegs]) hhigh, ?head,
    ?gen, hflag rfl htaken, hflag rfl harm, hflag rfl hdirty, hdesc, ?regs⟩
  case head => rw [State.regN, hafter _ (by simp [activeRegs])]; exact hhead
  case gen => rw [hfield rfl, hgen, hbefore]
  case regs =>
    exact (hactive.weaken (by simp [activeRegs])).trans ((hshown.weaken (by simp)).trans (hlast.weaken (by simp)))

/-- A hand-over whose checks fail is disarmed and refused with RANGE, and hands nothing over (R354). -/
theorem saddleFail_refuses (s : State) {n : Nat} (hn : n < 128) :
    let t := s.saddleFail n
    t.rb (F.CH_SADDLE_ARM n) = false ∧ t.reg (R.CH_ERR n) = 0x102 ∧
      t.rf (F.CH_SADDLE_GEN n) = s.rf (F.CH_SADDLE_GEN n) ∧ t.rb (F.CH_SADDLE_TAKEN n) = s.rb (F.CH_SADDLE_TAKEN n) ∧
      t.dma = s.dma ∧ RegsBut [R.CH_SADDLE n, R.CH_ERR n] s t := by
  intro t
  let u := s.wb (F.CH_SADDLE_ARM n) false
  obtain ⟨hcode, hregs⟩ := chRefuse_records u hn (code := St.RANGE) (by decide)
  have hfield : ∀ {hi lo}, t.rf ⟨R.CH_SADDLE n, hi, lo⟩ = u.rf ⟨R.CH_SADDLE n, hi, lo⟩ :=
    hregs.rf (by simp [R.CH_SADDLE, R.CH_ERR]) (not_evrAddr_array (by decide))
  have hkept : ∀ {hi lo}, lo ≤ hi → hi < 31 → u.rf ⟨R.CH_SADDLE n, hi, lo⟩ = s.rf ⟨R.CH_SADDLE n, hi, lo⟩ := fun h1 h2 =>
    rf_wf_apart _ _ (Fld.apart_of_bits (by omega) : Fld.Apart (F.CH_SADDLE_ARM n) ⟨R.CH_SADDLE n, _, _⟩)
  have hdisarmed : u.rb (F.CH_SADDLE_ARM n) = false := rb_wb_same _ _ rfl (by decide : 31 < 32)
  have hu : RegsBut [R.CH_SADDLE n] s u := RegsBut.refl.wb (f := F.CH_SADDLE_ARM n) (List.mem_singleton_self _)
  exact ⟨(congrArg (· == 1) hfield).trans hdisarmed, BitVec.eq_of_toNat_eq hcode, hfield.trans (hkept (by decide) (by decide)),
    congrArg (· == 1) (hfield.trans (hkept (by decide) (by decide))), (chRefuse_dma ..).trans (wf_dma ..),
    (hu.weaken (by simp)).trans (hregs.weaken (by simp))⟩

/-- Outside RUN an armed WHEN 0 hand-over goes by its checks (R351, R354). -/
theorem exec_saddle {s : State} {n : Fin 128} (hfw : 12 ≤ n.val) (harm : s.rb (F.CH_SADDLE_ARM n.val) = true)
    (hwhen : s.rb (F.CH_SADDLE_WHEN n.val) = false) (hrest : s.chState n.val ≠ Cs.RUN) :
    exec (.saddle n) s = if s.saddleOk n.val then .next (s.saddleTake n.val) else .next (s.saddleFail n.val) := by
  have hpath : isPath n.val = false := by simpa [isPath] using hfw
  have hguard : ¬ (isPath n.val || !s.rb (F.CH_SADDLE_ARM n.val) || s.rb (F.CH_SADDLE_WHEN n.val) ||
      s.chState n.val == Cs.RUN) = true := by
    rw [hpath, harm, hwhen, beq_false_of_ne hrest]
    exact Bool.false_ne_true
  exact if_neg hguard

/-! ### The obligation -/

/-- Settles O47: shadow writes, the arming, and the hand-over with its checks. -/
theorem saddleHandover : Obligations.SaddleHandover := by
  unfold Obligations.SaddleHandover
  intro s n hfw k
  have hn : k < 128 := n.isLt
  refine ⟨fun i j v hmay => ?shadow, fun i v hmay => ?arm, fun harm hwhen hrest => ?handOver⟩
  case shadow =>
    have hexec : exec (.shadowWrite i n j v) s = .next (State.shadowWrite i.val n.val (shadowReg k j.val) v s) :=
      congrArg Host.Outcome.next (onWrite_of_mayWrite s i _ _ hmay)
    have hbytes := sameBytes_of_exec hexec (by simp [touched])
    refine ⟨fun hin => ?stored, fun hout => ?refused⟩
    case stored =>
      obtain ⟨hstored, hdirty, hregs⟩ := shadowWrite_stores (i := i.val) hfw (j := j) (v := v) hin
      exact ⟨_, hexec, hstored, hdirty, hregs, hbytes⟩
    case refused =>
      obtain ⟨hcode, hregs⟩ := chRefuse_records s hn (code := St.RANGE) (by decide)
      have hrefused := shadowWrite_refused (i := i.val) hfw (j := j) (v := v) hout
      rw [hrefused] at hexec
      exact ⟨_, hexec, BitVec.eq_of_toNat_eq hcode, hregs, sameBytes_of_mem (chRefuse_mem ..)⟩
  case arm =>
    have hexec : exec (.saddleArm i n v) s = .next (State.saddleWrite i.val n.val (v ||| 0x80000000) s) :=
      congrArg Host.Outcome.next (onWrite_of_mayWrite s i _ _ hmay)
    obtain ⟨harm, hwhen, htaken, hgen, hregs⟩ := saddleWrite_arms s i.val hfw v
    exact ⟨_, hexec, harm, hwhen, htaken, hgen, hregs, sameBytes_of_exec hexec (by simp [touched])⟩
  case handOver =>
    have hexec := exec_saddle hfw harm hwhen hrest
    refine ⟨fun hok => ?taken, fun hbad => ?failed⟩
    case taken =>
      rw [if_pos hok] at hexec
      obtain ⟨hcfg, hlow, hhigh, hhead, hgen, htaken, harm, hdirty, hdesc, hregs⟩ := saddleTake_hands_over s hn
      exact ⟨_, hexec, hcfg, hlow, hhigh, hhead, hgen, htaken, harm, hdirty, hdesc, hregs, sameBytes_of_exec hexec (by simp [touched])⟩
    case failed =>
      rw [if_neg (Bool.eq_false_iff.mp hbad)] at hexec
      obtain ⟨harm, hcode, hgen, htaken, hdma, hregs⟩ := saddleFail_refuses s hn
      exact ⟨_, hexec, harm, hcode, hgen, htaken, hdma, hregs, sameBytes_of_exec hexec (by simp [touched])⟩

end Sys2Proof.Machine
end

section
/-! PROOFS. The check units and the scan engine (O48). -/

namespace Sys2Proof.Machine

/-! ### INIT and presets -/

/-- The registers of a check unit that INIT writes (R358). -/
def chkStateRegs (u : Nat) : List Nat := [R.CHK_VAL u, R.CHK_AUX u, R.CHK_COUNT u]

/-- INIT and the feeding of bytes leave the configuration of every unit. -/
theorem chkConfig_apart (u : Nat) :
    ∀ a ∈ [R.CHK_CFG u, R.CHK_POLY u, R.CHK_INIT u, R.CHK_XOROUT u, R.CHK_PCFG u], a ∉ chkStateRegs u ∧ ¬ evrAddr a := by
  intro a ha
  simp only [R.CHK_CFG, R.CHK_POLY, R.CHK_INIT, R.CHK_XOROUT, R.CHK_PCFG, List.mem_cons, List.not_mem_nil, or_false] at ha
  refine ⟨?_, not_evrAddr_of_ge (by omega)⟩
  simp only [chkStateRegs, R.CHK_VAL, R.CHK_AUX, R.CHK_COUNT, List.mem_cons, List.not_mem_nil, or_false]
  omega

/-- WIDTH follows the configuration alone (R360). -/
theorem chkWidth_congr {s t : State} {u : Nat} (hcfg : t.reg (R.CHK_CFG u) = s.reg (R.CHK_CFG u))
    (hpcfg : t.reg (R.CHK_PCFG u) = s.reg (R.CHK_PCFG u)) : t.chkWidth u = s.chkWidth u := by
  have hpreset : t.rf (F.CHK_CFG_PRESET u) = s.rf (F.CHK_CFG_PRESET u) := congrArg (fun w => bits w 2 0) hcfg
  have hwidth : t.rf (F.CHK_PCFG_WIDTH u) = s.rf (F.CHK_PCFG_WIDTH u) := congrArg (fun w => bits w 5 0) hpcfg
  rw [State.chkWidth, State.chkSum, hpreset, hwidth, State.chkWidth, State.chkSum]

/-- A unit is at its initial value (R358). -/
def ChkInitial (u : Nat) (t : State) : Prop :=
  t.regN (R.CHK_VAL u) = t.regN (R.CHK_INIT u) % 2 ^ t.chkWidth u ∧ t.reg (R.CHK_AUX u) = 0 ∧ t.reg (R.CHK_COUNT u) = 0

theorem regsBut_chkInit (s : State) (u : Nat) : RegsBut (chkStateRegs u) s (s.chkInit u) :=
  ((RegsBut.refl.setRegN (by simp [chkStateRegs])).setRegN (by simp [chkStateRegs])).setRegN (by simp [chkStateRegs])

theorem chkInitial_chkInit (s : State) (u : Nat) : ChkInitial u (s.chkInit u) := by
  have hkept : ∀ a ∈ [R.CHK_CFG u, R.CHK_POLY u, R.CHK_INIT u, R.CHK_XOROUT u, R.CHK_PCFG u], (s.chkInit u).reg a = s.reg a :=
    fun a ha => regsBut_chkInit s u a (chkConfig_apart u a ha).1 (chkConfig_apart u a ha).2
  have hwidth : (s.chkInit u).chkWidth u = s.chkWidth u := chkWidth_congr (hkept _ (by simp)) (hkept _ (by simp))
  have hvalue : (s.chkInit u).reg (R.CHK_VAL u) = BitVec.ofNat 32 (s.regN (R.CHK_INIT u) % 2 ^ s.chkWidth u) := by
    simp [State.chkInit, reg_setRegN, R.CHK_VAL, R.CHK_AUX, R.CHK_COUNT]
  have hlt : s.regN (R.CHK_INIT u) % 2 ^ s.chkWidth u < 2 ^ 32 := Nat.lt_of_le_of_lt (Nat.mod_le ..) (BitVec.isLt _)
  refine ⟨?value, ?aux, ?count⟩
  case value =>
    have hinit : (s.chkInit u).regN (R.CHK_INIT u) = s.regN (R.CHK_INIT u) := congrArg BitVec.toNat (hkept _ (by simp))
    rw [hwidth, hinit, State.regN, hvalue, BitVec.toNat_ofNat, Nat.mod_eq_of_lt hlt]
  case aux => simp [State.chkInit, reg_setRegN, R.CHK_AUX, R.CHK_COUNT]
  case count => simp [State.chkInit, reg_setRegN]

/-- The registers that a preset loads (R356). -/
def State.chkLoad (s : State) (u : Nat) (r : Nat × Nat × Nat × Nat) : State :=
  (((s.setRegN (R.CHK_POLY u) r.1).setRegN (R.CHK_INIT u) r.2.1).setRegN (R.CHK_XOROUT u) r.2.2.1).setRegN (R.CHK_PCFG u) r.2.2.2

theorem chkLoad_loads (s : State) (u : Nat) (r : Nat × Nat × Nat × Nat) :
    let t := s.chkLoad u r
    t.regN (R.CHK_POLY u) = r.1 % 2 ^ 32 ∧ t.regN (R.CHK_INIT u) = r.2.1 % 2 ^ 32 ∧ t.regN (R.CHK_XOROUT u) = r.2.2.1 % 2 ^ 32 ∧
      t.regN (R.CHK_PCFG u) = r.2.2.2 % 2 ^ 32 ∧ t.reg (R.CHK_CFG u) = s.reg (R.CHK_CFG u) := by
  simp [State.chkLoad, State.regN, reg_setRegN, R.CHK_POLY, R.CHK_INIT, R.CHK_XOROUT, R.CHK_PCFG, R.CHK_CFG]

theorem presetRegs_lt : ∀ p < 6, (presetRegs p).1 % 2 ^ 32 = (presetRegs p).1 ∧ (presetRegs p).2.1 % 2 ^ 32 = (presetRegs p).2.1 ∧
    (presetRegs p).2.2.1 % 2 ^ 32 = (presetRegs p).2.2.1 ∧ (presetRegs p).2.2.2 % 2 ^ 32 = (presetRegs p).2.2.2 := by decide

theorem rf_preset_wf (s : State) (u : Nat) {p : Nat} (hp : p < 8) :
    (s.wf (F.CHK_CFG_PRESET u) p).rf (F.CHK_CFG_PRESET u) = p :=
  (rf_wf_same s (F.CHK_CFG_PRESET u) p (by decide : 0 ≤ 2) (by decide : 2 < 32)).trans (Nat.mod_eq_of_lt hp)

/-- A preset loads its registers, and initialises the unit (R356). -/
theorem chkPreset_loads {s : State} {u : Nat} {v : Word} (hp : bits v 2 0 ≤ 5) (hfree : s.chkBound u = false) :
    let t := State.chkPreset u v s
    let p := presetRegs (bits v 2 0)
    t.rf (F.CHK_CFG_PRESET u) = bits v 2 0 ∧ t.regN (R.CHK_POLY u) = p.1 ∧ t.regN (R.CHK_INIT u) = p.2.1 ∧
      t.regN (R.CHK_XOROUT u) = p.2.2.1 ∧ t.regN (R.CHK_PCFG u) = p.2.2.2 ∧ ChkInitial u t := by
  intro t p
  let w := s.wf (F.CHK_CFG_PRESET u) (bits v 2 0)
  have ht : t = (w.chkLoad u p).chkInit u :=
    (if_neg (by omega)).trans ((if_neg (Bool.eq_false_iff.mp hfree)).trans (if_neg (by omega)))
  obtain ⟨hpoly, hinit, hxor, hpcfg, hcfg⟩ := chkLoad_loads w u p
  obtain ⟨hpoly', hinit', hxor', hpcfg'⟩ := presetRegs_lt _ (Nat.lt_succ_of_le hp)
  have hkept : ∀ a ∈ [R.CHK_CFG u, R.CHK_POLY u, R.CHK_INIT u, R.CHK_XOROUT u, R.CHK_PCFG u], t.reg a = (w.chkLoad u p).reg a :=
    fun a ha => ht ▸ regsBut_chkInit _ u a (chkConfig_apart u a ha).1 (chkConfig_apart u a ha).2
  have hkeptN : ∀ a ∈ [R.CHK_CFG u, R.CHK_POLY u, R.CHK_INIT u, R.CHK_XOROUT u, R.CHK_PCFG u], t.regN a = (w.chkLoad u p).regN a :=
    fun a ha => congrArg BitVec.toNat (hkept a ha)
  refine ⟨?preset, (hkeptN _ (by simp)).trans (hpoly.trans hpoly'), (hkeptN _ (by simp)).trans (hinit.trans hinit'),
    (hkeptN _ (by simp)).trans (hxor.trans hxor'), (hkeptN _ (by simp)).trans (hpcfg.trans hpcfg'), ht ▸ chkInitial_chkInit _ u⟩
  rw [State.rf, F.CHK_CFG_PRESET, hkept _ (by simp), hcfg]
  exact rf_preset_wf s u (by omega)

/-- PRESET 6 keeps the configuration, and initialises the unit (R356). -/
theorem chkPreset_custom {s : State} {u : Nat} {v : Word} (hp : bits v 2 0 = 6) (hfree : s.chkBound u = false) :
    let t := State.chkPreset u v s
    t.rf (F.CHK_CFG_PRESET u) = 6 ∧ ChkInitial u t ∧ RegsBut [R.CHK_CFG u, R.CHK_VAL u, R.CHK_AUX u, R.CHK_COUNT u] s t := by
  intro t
  have ht : t = (s.wf (F.CHK_CFG_PRESET u) (bits v 2 0)).chkInit u :=
    (if_neg (by omega)).trans ((if_neg (Bool.eq_false_iff.mp hfree)).trans (if_pos hp))
  rw [hp] at ht
  have hinit := regsBut_chkInit (s.wf (F.CHK_CFG_PRESET u) 6) u
  refine ⟨?preset, ht ▸ chkInitial_chkInit _ u, ?regs⟩
  case preset =>
    rw [ht, hinit.rf (chkConfig_apart u _ (by simp [F.CHK_CFG_PRESET])).1 (not_evrAddr_array (by decide)), rf_preset_wf s u (by decide)]
  case regs =>
    rw [ht]
    exact (RegsBut.refl.wf (f := F.CHK_CFG_PRESET u) (by simp [F.CHK_CFG_PRESET])).trans (hinit.weaken (by simp [chkStateRegs]))

/-! ### Bound units -/

/-- A write to a bound unit is refused with BUSY (R359). -/
theorem chkRefuse_busy (s : State) (u : Nat) :
    let t := s.chkRefuse u St.BUSY
    t.reg (R.CHK_STAT u) = 0x105 ∧ RegsBut [R.CHK_STAT u] s t ∧ SameBytes s t := by
  intro t
  obtain ⟨hcode, hregs⟩ := refuse_records s (e := R.CHK_STAT u) (code := St.BUSY) (ev := 162) (not_evrAddr_array (by decide))
    (by decide) (by decide)
  exact ⟨BitVec.eq_of_toNat_eq hcode, hregs, sameBytes_of_mem (refuse_mem ..)⟩

/-! ### The configuration of a unit -/

/-- The register window of the check units and the scan engine (R23). -/
def chkWindow : Window := ⟨3, 0x40030000, 0x4003FFFF, RegMap.chk⟩

theorem windowOf_chk {a : Nat} (hlo : 0x40030000 ≤ a) (hhi : a < 0x40040000) : windowOf a = some chkWindow := by
  rw [windowOf, if_neg (by omega), if_neg (by omega), if_neg (by omega), if_neg (by omega), if_pos hhi, chkWindow]

theorem absentField_chk (o hi : Nat) : absentField chkWindow.num o hi = false := by simp [absentField, chkWindow]

/-- Beside a field's own range, CHK_u_PCFG has its WIDTH's (R355, R369). -/
theorem extraOk_chk (s : State) {u r : Nat} (hr : r < 0x40) (v : Word) :
    s.extraOk chkWindow.num (0x1000 + 0x40 * u + r) v =
      if r = 0x10 then decide (8 ≤ bits v 5 0 ∧ bits v 5 0 ≤ 32) else true := by
  have hplace : (0x1000 + 0x40 * u + r - 0x1000) % 0x40 = r := by omega
  have harray : 0x1000 ≤ 0x1000 + 0x40 * u + r := by omega
  have haddr : 0x1000 + 0x40 * u + r ≠ 0x10C := by omega
  simp only [State.extraOk, State.extraA, State.extraB, State.extraC, chkWindow, hplace, harray, haddr, true_and]
  simp

/-- The rows of POLY, INIT, XOROUT and PCFG (R369). -/
def chkCfgRow : Fin 4 → RegRow
  | 0 => RegMap.row 0x1004 [(0x40, 16)] [RegMap.f 31 0 .rw 0x1EDC6F41]
  | 1 => RegMap.row 0x1008 [(0x40, 16)] [RegMap.f 31 0 .rw 0xFFFFFFFF]
  | 2 => RegMap.row 0x100C [(0x40, 16)] [RegMap.f 31 0 .rw 0xFFFFFFFF]
  | 3 => RegMap.row 0x1010 [(0x40, 16)] [RegMap.f 31 31 .rw 1, RegMap.f 30 30 .rw 1, RegMap.fr 5 0 .rw 0x20 8 32]

theorem chkCfgRow_plain : ∀ j : Fin 4, (chkCfgRow j).plain = true := by decide

theorem findRow_chkCfg : ∀ (u : Fin 16) (j : Fin 4),
    findRow RegMap.chk (0x1000 + 0x40 * u.val + (4 + 4 * j.val)) = some (chkCfgRow j, [u.val]) := by decide +kernel

/-- A register that is one read-write field takes the word written (R7). -/
theorem applyFields_word (old v : Word) (x : Nat) : applyFields [RegMap.f 31 0 .rw x] old v old = v := by
  rw [applyFields_masked (mask := BitVec.allOnes 32) (by simp [RegMap.f])
    (fun k hk => by rw [BitVec.getLsbD_allOnes, fieldsMask]; simp [RegMap.f]; omega)]
  simp only [BitVec.not_allOnes, BitVec.and_zero, BitVec.and_allOnes, BitVec.zero_or]

theorem applyFields_chkCfg {j : Fin 4} (hj : j ≠ 3) (old v : Word) : applyFields (chkCfgRow j).fields old v old = v := by
  match j with
  | 0 | 1 | 2 => exact applyFields_word ..
  | 3 => exact absurd rfl hj

theorem width_applyFields_chkCfg (old v : Word) : bits (applyFields (chkCfgRow 3).fields old v old) 5 0 = bits v 5 0 :=
  (bits_applyFields (f := RegMap.fr 5 0 .rw 0x20 8 32) (by decide) (by decide) (by decide)).trans (Nat.mod_eq_of_lt (bits_lt ..))

theorem chkCfgReg_eq (u j : Nat) : chkCfgReg u j = 0x40030000 + (0x1000 + 0x40 * u + (4 + 4 * j)) := by
  simp only [chkCfgReg, R.CHK_POLY]
  omega

theorem chkCfg_inRange {j : Fin 4} {v : Word} (hv : j = 3 → 8 ≤ bits v 5 0 ∧ bits v 5 0 ≤ 32) :
    fieldsInRange (chkCfgRow j).fields v = true ∧
      (if 4 + 4 * j.val = 0x10 then decide (8 ≤ bits v 5 0 ∧ bits v 5 0 ≤ 32) else true) = true := by
  match j with
  | 0 | 1 | 2 => exact ⟨rfl, rfl⟩
  | 3 =>
    have hwidth := hv rfl
    exact ⟨by simpa [chkCfgRow, RegMap.row, RegMap.f, RegMap.fr, fieldsInRange, RegField.inRange] using hwidth, decide_eq_true hwidth⟩

/-- A write to the configuration with WIDTH in its range is stored in its fields (R8, R355). -/
theorem writeReg_chkCfg (s : State) (i : Nat) (u : Fin 16) {j : Fin 4} {v : Word} (hv : j = 3 → 8 ≤ bits v 5 0 ∧ bits v 5 0 ≤ 32) :
    s.writeRefused i (chkCfgReg u.val j.val) v = false ∧
      s.writeReg i (chkCfgReg u.val j.val) v = s.setReg (chkCfgReg u.val j.val)
        (applyFields (chkCfgRow j).fields (s.reg (chkCfgReg u.val j.val)) v (s.reg (chkCfgReg u.val j.val))) := by
  have hoff : chkCfgReg u.val j.val - chkWindow.base = 0x1000 + 0x40 * u.val + (4 + 4 * j.val) := by
    rw [chkCfgReg_eq]
    exact Nat.add_sub_cancel_left ..
  have hrange : (fieldsInRange (chkCfgRow j).fields v &&
      s.extraOk chkWindow.num (0x1000 + 0x40 * u.val + (4 + 4 * j.val)) v) = true := by
    obtain ⟨hfields, hextra⟩ := chkCfg_inRange hv
    rw [extraOk_chk s (by omega), hfields, hextra, Bool.true_and]
  obtain ⟨hrefused, hwrite⟩ := writeReg_of_plain (s := s) (i := i) (v := v)
    (windowOf_chk (a := chkCfgReg u.val j.val) (by rw [chkCfgReg_eq]; omega) (by rw [chkCfgReg_eq]; omega))
    (hoff ▸ findRow_chkCfg u j) (absentField_chk _) (chkCfgRow_plain j)
  rw [hoff, hrange] at hwrite hrefused
  exact ⟨hrefused, hwrite.trans (if_pos rfl)⟩

/-- The configuration of a unit that is not bound is written, and a preset up to 4 becomes PRESET 6 (R356). -/
theorem chkConfig_writes {s : State} {i : Nat} {u : Fin 16} {j : Fin 4} {v : Word}
    (hv : j = 3 → 8 ≤ bits v 5 0 ∧ bits v 5 0 ≤ 32) (hfree : s.chkBound u.val = false) :
    let t := State.chkConfig i u.val j.val v s
    (j ≠ 3 → t.reg (chkCfgReg u.val j.val) = v) ∧ (j = 3 → t.rf (F.CHK_PCFG_WIDTH u.val) = bits v 5 0) ∧
      t.rf (F.CHK_CFG_PRESET u.val) =
        (if s.rf (F.CHK_CFG_PRESET u.val) ≤ 4 then 6 else s.rf (F.CHK_CFG_PRESET u.val)) ∧
      RegsBut [chkCfgReg u.val j.val, R.CHK_CFG u.val] s t := by
  intro t
  obtain ⟨haccepted, hwrite⟩ := writeReg_chkCfg s i u hv
  let w := s.writeReg i (chkCfgReg u.val j.val) v
  have hw : RegsBut [chkCfgReg u.val j.val] s w := regsBut_writeReg haccepted
  have ht : t = if w.rf (F.CHK_CFG_PRESET u.val) ≤ 4 then w.wf (F.CHK_CFG_PRESET u.val) 6 else w :=
    (if_neg (by rw [haccepted]; exact Bool.false_ne_true)).trans (if_neg (Bool.eq_false_iff.mp hfree))
  have hpreset : w.rf (F.CHK_CFG_PRESET u.val) = s.rf (F.CHK_CFG_PRESET u.val) :=
    hw.rf (show R.CHK_CFG u.val ∉ _ by rw [chkCfgReg_eq, R.CHK_CFG, List.mem_singleton]; omega) (not_evrAddr_array (by decide))
  have hlast : RegsBut [R.CHK_CFG u.val] w t :=
    ht ▸ .ite (RegsBut.refl.wf (f := F.CHK_CFG_PRESET u.val) (List.mem_singleton_self _)) .refl
  have hstored : t.reg (chkCfgReg u.val j.val) =
      applyFields (chkCfgRow j).fields (s.reg (chkCfgReg u.val j.val)) v (s.reg (chkCfgReg u.val j.val)) := by
    rw [hlast.reg (by rw [chkCfgReg_eq, R.CHK_CFG, List.mem_singleton]; omega) (not_evrAddr_of_ge (by rw [chkCfgReg_eq]; omega)),
      show w = _ from hwrite, reg_setReg_same]
  refine ⟨fun hj => hstored.trans (applyFields_chkCfg hj _ v), fun hj => ?width, ?preset,
    (hw.weaken (by simp)).trans (hlast.weaken (by simp))⟩
  case width =>
    subst hj
    have haddr : R.CHK_PCFG u.val = chkCfgReg u.val (3 : Fin 4).val := by
      rw [chkCfgReg_eq, R.CHK_PCFG]
      omega
    rw [State.rf, F.CHK_PCFG_WIDTH, haddr, hstored]
    exact width_applyFields_chkCfg _ v
  case preset =>
    rw [ht, hpreset]
    split
    · exact rf_preset_wf w u.val (by decide)
    · exact hpreset

/-! ### The feeding of bytes -/

theorem regsBut_sumBytes (u : Nat) : ∀ (l : List Byte) (s : State),
    RegsBut [R.CHK_VAL u, R.CHK_AUX u] s (l.foldl (fun s b => s.sumByte u b) s)
  | [], _ => .refl
  | b :: l, s => by
    have hbyte : RegsBut [R.CHK_VAL u, R.CHK_AUX u] s (s.sumByte u b) :=
      .ite ((RegsBut.refl.setRegN (by simp)).setRegN (by simp)) (RegsBut.refl.setRegN (by simp))
    exact hbyte.trans (regsBut_sumBytes u l _)

theorem length_natBytes : ∀ n v : Nat, (natBytes n v).length = n
  | 0, _ => rfl
  | n + 1, _ => congrArg Nat.succ (length_natBytes n _)

/-- COUNT after the bytes of a feed (R358). -/
def State.chkCounted (s : State) (u n : Nat) : State := s.setRegN (R.CHK_COUNT u) (s.regN (R.CHK_COUNT u) + n)

theorem regsBut_chkCounted (s : State) (u n : Nat) : RegsBut [R.CHK_COUNT u] s (s.chkCounted u n) :=
  RegsBut.refl.setRegN (List.mem_singleton_self _)

/-- After the count, the value is fed alone. -/
theorem regsBut_chkFeed_value (s : State) (u : Nat) (l : List Byte) :
    RegsBut [R.CHK_VAL u, R.CHK_AUX u] (s.chkCounted u l.length) (s.chkFeed u l) :=
  .ite (regsBut_sumBytes u l _) (RegsBut.refl.setRegN (by simp))

theorem regsBut_chkFeed (s : State) (u : Nat) (l : List Byte) : RegsBut (chkStateRegs u) s (s.chkFeed u l) :=
  ((regsBut_chkCounted s u l.length).weaken (by simp [chkStateRegs])).trans
    ((regsBut_chkFeed_value s u l).weaken (by simp [chkStateRegs]))

theorem count_chkFeed (s : State) (u : Nat) (l : List Byte) :
    (s.chkFeed u l).regN (R.CHK_COUNT u) = (s.regN (R.CHK_COUNT u) + l.length) % 2 ^ 32 :=
  (congrArg BitVec.toNat ((regsBut_chkFeed_value s u l).reg (by simp [R.CHK_VAL, R.CHK_AUX])
    (not_evrAddr_array (by decide)))).trans (regN_setRegN_same ..)

/-- The CRC of a unit that does not compute the Internet checksum (R357). -/
theorem value_chkFeed {s : State} {u : Nat} (l : List Byte) (h : s.rf (F.CHK_CFG_PRESET u) ≠ 5) :
    (s.chkFeed u l).regN (R.CHK_VAL u) = crcFeed (s.rf (F.CHK_PCFG_WIDTH u)) (s.regN (R.CHK_POLY u)) (s.rb (F.CHK_PCFG_REFIN u))
      (s.regN (R.CHK_VAL u) % 2 ^ s.rf (F.CHK_PCFG_WIDTH u)) l % 2 ^ 32 := by
  have hkept : ∀ {a : Nat}, a = R.CHK_CFG u ∨ a = R.CHK_POLY u ∨ a = R.CHK_PCFG u ∨ a = R.CHK_VAL u →
      (s.chkCounted u l.length).reg a = s.reg a := fun ha =>
    reg_setReg_other _ _ (by
      simp only [R.CHK_CFG, R.CHK_POLY, R.CHK_PCFG, R.CHK_VAL, R.CHK_COUNT] at ha ⊢
      omega)
  have hsum : ¬ (s.chkCounted u l.length).chkSum u = true := by
    rw [State.chkSum, State.rf, F.CHK_CFG_PRESET, hkept (by simp)]
    exact mt beq_iff_eq.mp h
  have hfeed : s.chkFeed u l = (s.chkCounted u l.length).setRegN (R.CHK_VAL u)
      (crcFeed ((s.chkCounted u l.length).rf (F.CHK_PCFG_WIDTH u)) ((s.chkCounted u l.length).regN (R.CHK_POLY u))
        ((s.chkCounted u l.length).rb (F.CHK_PCFG_REFIN u))
        ((s.chkCounted u l.length).regN (R.CHK_VAL u) % 2 ^ (s.chkCounted u l.length).rf (F.CHK_PCFG_WIDTH u)) l) := if_neg hsum
  have hfield : ∀ hi lo, (s.chkCounted u l.length).rf ⟨R.CHK_PCFG u, hi, lo⟩ = s.rf ⟨R.CHK_PCFG u, hi, lo⟩ := fun hi lo =>
    congrArg (fun w => bits w hi lo) (hkept (by simp))
  have hpoly : (s.chkCounted u l.length).regN (R.CHK_POLY u) = s.regN (R.CHK_POLY u) := congrArg BitVec.toNat (hkept (by simp))
  have hval : (s.chkCounted u l.length).regN (R.CHK_VAL u) = s.regN (R.CHK_VAL u) := congrArg BitVec.toNat (hkept (by simp))
  rw [hfeed, regN_setRegN_same, F.CHK_PCFG_WIDTH, F.CHK_PCFG_REFIN, State.rb, hfield, hfield, hpoly, hval, State.rb]

/-! ### The start and the end of a scan -/

/-- The row of SCAN_CTRL (R369). -/
def scanCtrlRow : RegRow :=
  RegMap.row 0x100 [] [RegMap.f 31 31 .w1s 0, RegMap.f 30 30 .ro 0, RegMap.f 29 29 .w1s 0, RegMap.f 28 28 .rw 0,
    RegMap.f 27 27 .rw 0, RegMap.f 26 26 .rw 0, RegMap.f 19 16 .rw 0]

theorem findRow_scanCtrl : findRow RegMap.chk 0x100 = some (scanCtrlRow, []) := by decide

/-- A write to SCAN_CTRL is never refused (R8, R369). -/
theorem writeReg_scanCtrl (s : State) (i : Nat) (v : Word) :
    s.writeReg i R.SCAN_CTRL v =
      s.setReg R.SCAN_CTRL (applyFields scanCtrlRow.fields (s.reg R.SCAN_CTRL) v (s.reg R.SCAN_CTRL)) := by
  have hextra : s.extraOk 3 0x100 v = true := by simp [State.extraOk, State.extraA, State.extraB, State.extraC]
  obtain ⟨-, hwrite⟩ := writeReg_of_plain (s := s) (i := i) (v := v) (a := R.SCAN_CTRL) (w := chkWindow)
    (windowOf_chk (by decide) (by decide)) findRow_scanCtrl (absentField_chk _) (by decide)
  exact hwrite.trans (if_pos hextra)

/-- MODE, CONT and UNIT of SCAN_CTRL take what is written. -/
theorem rf_writeReg_scanCtrl (s : State) (i : Nat) (v : Word) :
    let t := s.writeReg i R.SCAN_CTRL v
    t.rf F.SCAN_CTRL_MODE = bits v 28 28 ∧ t.rf F.SCAN_CTRL_CONT = bits v 27 27 ∧ t.rf F.SCAN_CTRL_UNIT = bits v 19 16 := by
  have hfield : ∀ {f : RegField}, f ∈ scanCtrlRow.fields → f.acc = .rw →
      (s.writeReg i R.SCAN_CTRL v).rf ⟨R.SCAN_CTRL, f.hi, f.lo⟩ = bits v f.hi f.lo := fun {f} hf hrw => by
    have hafter : f.after (s.reg R.SCAN_CTRL) v = bits v f.hi f.lo := by simp only [RegField.after, hrw]
    rw [writeReg_scanCtrl, rf_setReg, if_pos rfl, bits_applyFields hf (by decide) (by decide), hafter]
    exact Nat.mod_eq_of_lt (bits_lt ..)
  exact ⟨hfield (f := RegMap.f 28 28 .rw 0) (by decide) rfl, hfield (f := RegMap.f 27 27 .rw 0) (by decide) rfl,
    hfield (f := RegMap.f 19 16 .rw 0) (by decide) rfl⟩

/-- A GO that is refused leaves the running scan as it is (R362). -/
theorem scanBusy_records (s : State) :
    let t := s.scanBusy
    t.rf F.SCAN_RES_STATUS = St.BUSY ∧ RegsBut [R.SCAN_RES] s t := by
  have hwritten : RegsBut [R.SCAN_RES] s (s.wf F.SCAN_RES_STATUS St.BUSY) :=
    RegsBut.refl.wf (f := F.SCAN_RES_STATUS) (List.mem_singleton_self _)
  have hraised : RegsBut [] (s.wf F.SCAN_RES_STATUS St.BUSY) s.scanBusy := RegsBut.refl.raise (by decide)
  exact ⟨(hraised.rf List.not_mem_nil (not_evrAddr_of_ge (by decide))).trans
    (rf_wf_same s F.SCAN_RES_STATUS St.BUSY (by decide) (by decide)), hwritten.trans (hraised.weaken (by simp))⟩

/-- A scan that starts shows BUSY, its mode and its unit (R361). -/
def State.scanBegun (s : State) (i : Nat) (v : Word) : State :=
  (s.writeReg i R.SCAN_CTRL (v &&& 0xDFFFFFFF)).wb F.SCAN_CTRL_BUSY true

theorem scanBegun_shows (s : State) (i : Nat) (v : Word) :
    let t := s.scanBegun i v
    t.rb F.SCAN_CTRL_BUSY = true ∧ t.rf F.SCAN_CTRL_MODE = bits (v &&& 0xDFFFFFFF) 28 28 ∧
      t.rf F.SCAN_CTRL_CONT = bits (v &&& 0xDFFFFFFF) 27 27 ∧ t.rf F.SCAN_CTRL_UNIT = bits (v &&& 0xDFFFFFFF) 19 16 ∧
      RegsBut [R.SCAN_CTRL] s t := by
  intro t
  obtain ⟨hmode, hcont, hunit⟩ := rf_writeReg_scanCtrl s i (v &&& 0xDFFFFFFF)
  have hwritten : RegsBut [R.SCAN_CTRL] s (s.writeReg i R.SCAN_CTRL (v &&& 0xDFFFFFFF)) := by
    rw [writeReg_scanCtrl]
    exact RegsBut.refl.setReg (List.mem_singleton_self _)
  exact ⟨rb_wb_same _ _ rfl (by decide), (rf_wf_apart _ _ (by decide)).trans hmode, (rf_wf_apart _ _ (by decide)).trans hcont,
    (rf_wf_apart _ _ (by decide)).trans hunit, hwritten.wb (f := F.SCAN_CTRL_BUSY) (List.mem_singleton_self _)⟩

theorem bits_congr {v w : Word} {hi lo : Nat} (hlo : lo ≤ hi) (h : ∀ k, lo ≤ k → k ≤ hi → v.getLsbD k = w.getLsbD k) :
    bits v hi lo = bits w hi lo := by
  apply Nat.eq_of_testBit_eq
  intro j
  by_cases hj : lo + j ≤ hi
  · rw [testBit_bits v hj, testBit_bits w hj, h _ (Nat.le_add_right ..) hj]
  · rw [bits, bits, Nat.testBit_mod_two_pow, Nat.testBit_mod_two_pow, decide_eq_false (by omega), Bool.false_and, Bool.false_and]

/-- GO beside the word written leaves MODE, CONT and UNIT as they were written, and STOP is left out. -/
theorem goWord_fields (v : Word) :
    (v ||| 0x80000000).getLsbD 31 = true ∧ (v ||| 0x80000000).getLsbD 28 = v.getLsbD 28 ∧
      bits (v ||| 0x80000000) 19 16 = bits v 19 16 ∧ ∀ hi lo, lo ≤ hi → hi < 29 →
        bits ((v ||| 0x80000000) &&& 0xDFFFFFFF) hi lo = bits v hi lo := by
  have hset : ∀ k, (v ||| 0x80000000).getLsbD k = (v.getLsbD k || (0x80000000 : Word).getLsbD k) := fun k => BitVec.getLsbD_or
  have hkeep : ∀ k < 29, (0x80000000 : Word).getLsbD k = false ∧ (0xDFFFFFFF : Word).getLsbD k = true := by decide
  refine ⟨by rw [hset]; simp, by rw [hset]; simp, bits_congr (by decide) fun k _ hk => ?_,
    fun hi lo hlo hhi => bits_congr hlo fun k _ hk => ?_⟩
  · rw [hset, (hkeep k (by omega)).1, Bool.or_false]
  · rw [BitVec.getLsbD_and, hset, (hkeep k (by omega)).1, (hkeep k (by omega)).2, Bool.or_false, Bool.and_true]

/-- A GO is refused while a scan runs, and a SINGLE one while its unit is bound (R362). -/
theorem scanCtrl_refused {s : State} {i : Nat} {v : Word}
    (h : s.rb F.SCAN_CTRL_BUSY = true ∨ (v.getLsbD 28 = false ∧ s.chkBound (bits v 19 16) = true)) :
    State.scanCtrl i (v ||| 0x80000000) s = s.scanBusy := by
  obtain ⟨hgo, hmode, hunit, -⟩ := goWord_fields v
  refine (if_pos hgo).trans ?_
  split
  · rfl
  · next hidle =>
    obtain ⟨hsingle, hbound⟩ := h.resolve_left hidle
    exact if_pos (by rw [hmode, hunit, hsingle, hbound]; rfl)

/-- A GO that is taken starts the scan, which initialises its unit unless it continues or compares copies (R361). -/
theorem scanCtrl_starts {s : State} {i : Nat} {v : Word} (hidle : s.rb F.SCAN_CTRL_BUSY = false)
    (hfree : v.getLsbD 28 = true ∨ s.chkBound (bits v 19 16) = false) :
    let t := State.scanCtrl i (v ||| 0x80000000) s
    t.rb F.SCAN_CTRL_BUSY = true ∧ t.rb F.SCAN_CTRL_MODE = v.getLsbD 28 ∧ t.rf F.SCAN_CTRL_UNIT = bits v 19 16 ∧
      (v.getLsbD 28 = true ∨ v.getLsbD 27 = true → RegsBut [R.SCAN_CTRL] s t) := by
  intro t
  obtain ⟨hgo, hmodebit, hunitbits, hbits⟩ := goWord_fields v
  obtain ⟨hbusy, hmode, hcont, hunit, hregs⟩ := scanBegun_shows s i (v ||| 0x80000000)
  let u := s.scanBegun i (v ||| 0x80000000)
  rw [hbits 28 28 (by decide) (by decide)] at hmode
  rw [hbits 27 27 (by decide) (by decide)] at hcont
  rw [hbits 19 16 (by decide) (by decide)] at hunit
  have ht : t = if u.rf F.SCAN_CTRL_MODE = 0 ∧ !u.rb F.SCAN_CTRL_CONT then u.chkInit (u.rf F.SCAN_CTRL_UNIT) else u := by
    refine (if_pos hgo).trans ((if_neg (Bool.eq_false_iff.mp hidle)).trans (if_neg ?_))
    rw [hmodebit, hunitbits]
    obtain h | h := hfree <;> simp [h]
  have hlast : ∀ {f : Fld}, f.addr = R.SCAN_CTRL → t.rf f = u.rf f := fun {f} hf => by
    rw [ht]
    split
    · refine (regsBut_chkInit u _).rf ?_ (hf ▸ not_evrAddr_of_ge (by decide))
      rw [hf]
      simp only [chkStateRegs, R.CHK_VAL, R.CHK_AUX, R.CHK_COUNT, R.SCAN_CTRL, List.mem_cons, List.not_mem_nil, or_false]
      omega
    · rfl
  refine ⟨(congrArg (· == 1) (hlast rfl)).trans hbusy, ?mode, (hlast rfl).trans hunit, fun hkeep => ?kept⟩
  case mode => rw [State.rb, hlast rfl, hmode, bits_bit_eq_one]
  case kept =>
    have hnot : ¬ (u.rf F.SCAN_CTRL_MODE = 0 ∧ !u.rb F.SCAN_CTRL_CONT) := by
      rw [hmode, State.rb, hcont, bits_bit_eq_one]
      rintro ⟨hsingle, hinit⟩
      obtain hpair | hcontinues := hkeep
      · rw [← bits_bit_eq_one, hsingle] at hpair
        exact absurd hpair (by decide)
      · rw [hcontinues] at hinit
        exact absurd hinit (by decide)
    rw [ht, if_neg hnot]
    exact hregs

/-- STOP asks the running scan to end (R362). -/
theorem scanCtrl_stops {s : State} {i : Nat} {v : Word} (hbusy : s.rb F.SCAN_CTRL_BUSY = true) :
    let t := State.scanCtrl i ((v ||| 0x20000000) &&& 0x7FFFFFFF) s
    t.rb F.SCAN_CTRL_STOP = true ∧ t.rb F.SCAN_CTRL_BUSY = true ∧ RegsBut [R.SCAN_CTRL] s t := by
  intro t
  have hgo : ((v ||| 0x20000000) &&& 0x7FFFFFFF).getLsbD 31 = false := by simp
  have hstop : ((v ||| 0x20000000) &&& 0x7FFFFFFF).getLsbD 29 = true := by simp
  have ht : t = s.wb F.SCAN_CTRL_STOP true := by
    refine (if_neg (Bool.eq_false_iff.mp hgo)).trans ((if_neg ?_).trans ((if_pos hbusy).trans (if_pos hstop)))
    rw [hstop, hbusy]
    exact Bool.false_ne_true
  rw [ht]
  exact ⟨rb_wb_same _ _ rfl (by decide), (rb_wb_apart _ _ (by decide)).trans hbusy,
    RegsBut.refl.wb (f := F.SCAN_CTRL_STOP) (List.mem_singleton_self _)⟩

/-- The end of a scan: SCAN_CTRL is at rest, SCAN_RES holds the outcome, and the events follow it (R362). -/
def ScanEnd.close (x : ScanEnd) : State :=
  let t := (x.st.wb F.SCAN_CTRL_BUSY false).wb F.SCAN_CTRL_STOP false
  let t := ((t.wb F.SCAN_CTRL_GO false).setRegN R.SCAN_RES x.res).raise 160
  if x.res % 256 ≠ St.OK ∨ x.win ≠ 0 then t.raise 161 else t

theorem ScanEnd.close_closes (x : ScanEnd) :
    x.close.reg R.SCAN_RES = BitVec.ofNat 32 x.res ∧ x.close.rb F.SCAN_CTRL_BUSY = false ∧
      RegsBut [R.SCAN_RES, R.SCAN_CTRL] x.st x.close ∧ x.close.mem = x.st.mem := by
  let idle := x.st.wb F.SCAN_CTRL_BUSY false
  let rest := (idle.wb F.SCAN_CTRL_STOP false).wb F.SCAN_CTRL_GO false
  let told := rest.setRegN R.SCAN_RES x.res
  have hclose : x.close = if x.res % 256 ≠ St.OK ∨ x.win ≠ 0 then (told.raise 160).raise 161 else told.raise 160 := rfl
  have hevents : RegsBut [] told x.close := by
    rw [hclose]
    exact .ite ((RegsBut.refl.raise (by decide)).raise (by decide)) (RegsBut.refl.raise (by decide))
  have hrest : RegsBut [R.SCAN_CTRL] x.st rest :=
    ((RegsBut.refl.wb (f := F.SCAN_CTRL_BUSY) (List.mem_singleton_self _)).wb (f := F.SCAN_CTRL_STOP)
      (List.mem_singleton_self _)).wb (f := F.SCAN_CTRL_GO) (List.mem_singleton_self _)
  have htold : RegsBut [R.SCAN_RES] rest told := RegsBut.refl.setRegN (List.mem_singleton_self _)
  have hbusy : rest.rb F.SCAN_CTRL_BUSY = false :=
    (rb_wb_apart _ _ (by decide)).trans ((rb_wb_apart _ _ (by decide)).trans (rb_wb_same _ _ rfl (by decide)))
  refine ⟨?result, ?busy, ?regs, ?bytes⟩
  case result => rw [hevents.reg List.not_mem_nil (not_evrAddr_of_ge (by decide)), reg_setRegN, if_pos rfl]
  case busy =>
    rw [hevents.rb List.not_mem_nil (not_evrAddr_of_ge (by decide)), htold.rb (by decide) (not_evrAddr_of_ge (by decide)), hbusy]
  case regs =>
    exact (hrest.weaken (by simp)).trans ((htold.weaken (by simp)).trans (hevents.weaken (by simp)))
  case bytes =>
    rw [hclose]
    split
    · exact (raise_mem ..).trans (raise_mem ..)
    · exact raise_mem ..

theorem exec_scanEnd_idle {s : State} (h : s.rb F.SCAN_CTRL_BUSY = false) (hw : Bool) (read : BitVec 32) :
    exec (.scanEnd hw read) s = .next s := if_pos (by rw [h]; rfl)

/-- The scan that runs ends by its mode (R362). -/
theorem exec_scanEnd {s : State} (h : s.rb F.SCAN_CTRL_BUSY = true) (hw : Bool) (read : BitVec 32) :
    exec (.scanEnd hw read) s =
      .next (if s.rf F.SCAN_CTRL_MODE = 1 then s.scanPair hw else s.scanSingle hw read.toNat).close :=
  if_neg (by rw [h]; exact Bool.false_ne_true)

/-! ### A SINGLE scan -/

/-- The registers of a unit (R369). -/
def chkUnitRegs (u : Nat) : List Nat :=
  [R.CHK_CFG u, R.CHK_POLY u, R.CHK_INIT u, R.CHK_XOROUT u, R.CHK_PCFG u, R.CHK_VAL u, R.CHK_AUX u, R.CHK_COUNT u]

/-- Two states agree about a unit. -/
def SameUnit (u : Nat) (s t : State) : Prop := ∀ a ∈ chkUnitRegs u, t.reg a = s.reg a

namespace SameUnit

variable {u : Nat} {s t : State}

theorem reg (h : SameUnit u s t) {a : Nat} (ha : a ∈ chkUnitRegs u) : t.reg a = s.reg a := h a ha

theorem regN (h : SameUnit u s t) {a : Nat} (ha : a ∈ chkUnitRegs u) : t.regN a = s.regN a := congrArg BitVec.toNat (h a ha)

theorem rf (h : SameUnit u s t) {f : Fld} (ha : f.addr ∈ chkUnitRegs u) : t.rf f = s.rf f :=
  congrArg (fun w => bits w f.hi f.lo) (h f.addr ha)

theorem setRegN (h : SameUnit u s t) (a n : Nat) : SameUnit u (s.setRegN a n) (t.setRegN a n) := fun b hb => by
  rw [reg_setRegN, reg_setRegN, h b hb]

theorem chkSum (h : SameUnit u s t) : t.chkSum u = s.chkSum u :=
  congrArg (· == 5) (h.rf (f := F.CHK_CFG_PRESET u) (by simp [chkUnitRegs, F.CHK_CFG_PRESET]))

theorem width (h : SameUnit u s t) : t.rf (F.CHK_PCFG_WIDTH u) = s.rf (F.CHK_PCFG_WIDTH u) :=
  h.rf (by simp [chkUnitRegs, F.CHK_PCFG_WIDTH])

theorem chkWidth (h : SameUnit u s t) : t.chkWidth u = s.chkWidth u :=
  chkWidth_congr (h.reg (by simp [chkUnitRegs])) (h.reg (by simp [chkUnitRegs]))

theorem sumByte (h : SameUnit u s t) (b : Byte) : SameUnit u (s.sumByte u b) (t.sumByte u b) := by
  rw [State.sumByte, State.sumByte, h.reg (a := R.CHK_AUX u) (by simp [chkUnitRegs]), h.regN (a := R.CHK_VAL u) (by simp [chkUnitRegs])]
  split
  · exact (h.setRegN _ _).setRegN _ _
  · exact h.setRegN _ _

theorem sumBytes : ∀ {l : List Byte} {s t : State}, SameUnit u s t →
    SameUnit u (l.foldl (fun s b => s.sumByte u b) s) (l.foldl (fun s b => s.sumByte u b) t)
  | [], _, _, h => h
  | b :: l, _, _, h => sumBytes (l := l) (h.sumByte b)

/-- What a unit makes of bytes follows its own registers (R357, R358). -/
theorem chkFeed (h : SameUnit u s t) (l : List Byte) : SameUnit u (s.chkFeed u l) (t.chkFeed u l) := by
  have hcounted : SameUnit u (s.chkCounted u l.length) (t.chkCounted u l.length) := by
    rw [State.chkCounted, State.chkCounted, h.regN (a := R.CHK_COUNT u) (by simp [chkUnitRegs])]
    exact h.setRegN _ _
  have hfeed : ∀ x : State, x.chkFeed u l = if (x.chkCounted u l.length).chkSum u then
      l.foldl (fun s b => s.sumByte u b) (x.chkCounted u l.length)
    else (x.chkCounted u l.length).setRegN (R.CHK_VAL u)
      (crcFeed ((x.chkCounted u l.length).rf (F.CHK_PCFG_WIDTH u)) ((x.chkCounted u l.length).regN (R.CHK_POLY u))
        ((x.chkCounted u l.length).rf (F.CHK_PCFG_REFIN u) == 1)
        ((x.chkCounted u l.length).regN (R.CHK_VAL u) % 2 ^ (x.chkCounted u l.length).rf (F.CHK_PCFG_WIDTH u)) l) := fun _ => rfl
  rw [hfeed, hfeed, hcounted.chkSum, hcounted.width, hcounted.regN (a := R.CHK_POLY u) (by simp [chkUnitRegs]),
    hcounted.regN (a := R.CHK_VAL u) (by simp [chkUnitRegs]),
    hcounted.rf (f := F.CHK_PCFG_REFIN u) (by simp [chkUnitRegs, F.CHK_PCFG_REFIN])]
  split
  · exact hcounted.sumBytes
  · exact hcounted.setRegN _ _

theorem chkFinal (h : SameUnit u s t) : t.chkFinal u = s.chkFinal u := by
  have hrefout : t.rb (F.CHK_PCFG_REFOUT u) = s.rb (F.CHK_PCFG_REFOUT u) :=
    congrArg (· == 1) (h.rf (by simp [chkUnitRegs, F.CHK_PCFG_REFOUT]))
  rw [State.chkFinal, State.chkFinal, h.chkSum, h.width, hrefout, h.regN (a := R.CHK_VAL u) (by simp [chkUnitRegs]),
    h.regN (a := R.CHK_XOROUT u) (by simp [chkUnitRegs]), h.reg (a := R.CHK_AUX u) (by simp [chkUnitRegs])]

end SameUnit

/-- A read of memory leaves every unit (R413). -/
theorem sameUnit_eccRead (s : State) {u : Nat} (hu : u < 16) (reader a len : Nat) : SameUnit u s (s.eccRead reader a len) := fun b hb => by
  simp only [chkUnitRegs, R.CHK_CFG, R.CHK_POLY, R.CHK_INIT, R.CHK_XOROUT, R.CHK_PCFG, R.CHK_VAL, R.CHK_AUX, R.CHK_COUNT,
    List.mem_cons, List.not_mem_nil, or_false] at hb
  have hecc : b ∉ eccRegs := by
    intro hmem
    simp only [eccRegs, R.DRC_STAT, R.DRC_CNT_SREXIT, R.DRC_CNT_CE, R.DRC_CEADDR_LO, R.DRC_CEADDR_HI, R.SRM_CNT_CE, R.SRM_CEADDR,
      R.DRC_CNT_UE, R.DRC_UEADDR_LO, R.DRC_UEADDR_HI, R.DRC_UEINFO, R.SRM_CNT_UE, R.SRM_UEADDR, R.SRM_UEINFO, List.mem_cons,
      List.not_mem_nil, or_false] at hmem
    omega
  have hevr : ¬ evrAddr b := not_evrAddr_of_ge (by omega)
  exact regsBut_eccRead s reader a len b hecc hevr

theorem scanSingle_range {s : State} (h : s.regN R.SCAN_LEN = 0 ∨ regionOf s.scanAddr (s.regN R.SCAN_LEN) = none) (read : Nat) :
    s.scanSingle false read = ⟨s, St.RANGE, 0⟩ := by
  have hbad : s.regN R.SCAN_LEN = 0 ∨ (regionOf s.scanAddr (s.regN R.SCAN_LEN)).isNone := by simpa using h
  exact if_pos hbad

/-- A read that is answered gives the bytes of memory (R5, R413). -/
theorem dmaRead_of_clean {s : State} {a n : Nat} (hmem : regionOf a n ≠ some 2) (hread : s.readable a n = true)
    (hclean : s.eccBad a n = false) : s.dmaRead a n = (s.eccRead Ini.DMA a n, .ok (s.bytes a n)) := by
  rw [State.dmaRead, if_neg hmem, if_neg (by rw [hread]; exact Bool.false_ne_true), if_neg (Bool.eq_false_iff.mp hclean)]

/-- The unit of a SINGLE scan after the bytes (R361). -/
def State.scanFed (s : State) : State :=
  (s.eccRead Ini.DMA s.scanAddr (s.regN R.SCAN_LEN)).chkFeed (s.rf F.SCAN_CTRL_UNIT) (s.bytes s.scanAddr (s.regN R.SCAN_LEN))

/-- The registers that a SINGLE scan may write before it ends. -/
def scanFedRegs (u : Nat) : List Nat := eccRegs ++ chkStateRegs u

theorem regsBut_scanFed (s : State) : RegsBut (scanFedRegs (s.rf F.SCAN_CTRL_UNIT)) s s.scanFed :=
  ((regsBut_eccRead s _ _ _).weaken (by simp [scanFedRegs])).trans ((regsBut_chkFeed _ _ _).weaken (by simp [scanFedRegs]))

theorem not_mem_scanFedRegs {u a : Nat} (h : 0x40030000 ≤ a ∧ a < 0x40031000) : a ∉ scanFedRegs u := by
  simp only [scanFedRegs, eccRegs, chkStateRegs, R.CHK_VAL, R.CHK_AUX, R.CHK_COUNT, R.DRC_STAT, R.DRC_CNT_SREXIT, R.DRC_CNT_CE,
    R.DRC_CEADDR_LO, R.DRC_CEADDR_HI, R.SRM_CNT_CE, R.SRM_CEADDR, R.DRC_CNT_UE, R.DRC_UEADDR_LO, R.DRC_UEADDR_HI, R.DRC_UEINFO,
    R.SRM_CNT_UE, R.SRM_UEADDR, R.SRM_UEINFO, List.mem_append, List.mem_cons, List.not_mem_nil, or_false]
  omega

theorem scanFed_mem (s : State) : s.scanFed.mem = s.mem :=
  Within.chkFeed (m := 3145745) (.eccRead (.refl s)) ⟨rfl⟩ .mem rfl

theorem scanRead_of_sound (s : State) (l : List Byte) (u bad : Nat) (part : List Byte) :
    let fed := s.chkFeed u l
    let t := fed.setRegN R.SCAN_VAL (fed.chkFinal u)
    s.scanRead (.ok l) u bad part false =
      if t.rb F.SCAN_CTRL_CMP && fed.chkFinal u % 2 ^ fed.chkWidth u != t.regN R.SCAN_EXP % 2 ^ fed.chkWidth u then
        ⟨t, 2 ^ 31 + St.CHECK, 0⟩ else ⟨t, St.OK, 0⟩ := by
  simp only [State.scanRead, Bool.false_eq_true, if_false]

/-- A SINGLE scan whose bytes are sound ends with the final value and its comparison (R361, R362). -/
theorem scanSingle_of_clean {s : State} (hstop : s.rb F.SCAN_CTRL_STOP = false) (hlen : s.regN R.SCAN_LEN ≠ 0)
    (hregion : (regionOf s.scanAddr (s.regN R.SCAN_LEN)).isSome) (hmem : regionOf s.scanAddr (s.regN R.SCAN_LEN) ≠ some 2)
    (hready : isDram s.scanAddr = true → s.ready Fn.DRAM = true) (hread : s.readable s.scanAddr (s.regN R.SCAN_LEN) = true)
    (hclean : s.eccBad s.scanAddr (s.regN R.SCAN_LEN) = false) (read : Nat) :
    let u := s.rf F.SCAN_CTRL_UNIT
    let f := s.scanFed.chkFinal u
    let t := s.scanFed.setRegN R.SCAN_VAL f
    s.scanSingle false read = if t.rb F.SCAN_CTRL_CMP && f % 2 ^ s.scanFed.chkWidth u != t.regN R.SCAN_EXP % 2 ^ s.scanFed.chkWidth u
      then ⟨t, 2 ^ 31 + St.CHECK, 0⟩ else ⟨t, St.OK, 0⟩ := by
  intro u f t
  have hplaced : ¬ (s.regN R.SCAN_LEN = 0 ∨ (regionOf s.scanAddr (s.regN R.SCAN_LEN)).isNone) := by
    rw [← Option.not_isSome, hregion]
    exact fun h => h.elim hlen Bool.false_ne_true
  have hdram : ¬ (isDram s.scanAddr && !s.ready Fn.DRAM) = true := by
    rw [Bool.and_eq_true, Bool.not_eq_true', not_and]
    exact fun h => Bool.not_eq_false _ |>.mpr (hready h)
  have hsingle : s.scanSingle false read = _ := (if_neg hplaced).trans ((if_neg hdram).trans (if_neg Bool.false_ne_true))
  rw [hsingle, hstop, Bool.false_and, if_neg Bool.false_ne_true, dmaRead_of_clean hmem hread hclean]
  exact scanRead_of_sound ..

/-- A SINGLE scan's final value is that of the unit (R361). -/
theorem scanSingle_ends {s : State} (hstop : s.rb F.SCAN_CTRL_STOP = false) (hlen : s.regN R.SCAN_LEN ≠ 0)
    (hregion : (regionOf s.scanAddr (s.regN R.SCAN_LEN)).isSome) (hmem : regionOf s.scanAddr (s.regN R.SCAN_LEN) ≠ some 2)
    (hready : isDram s.scanAddr = true → s.ready Fn.DRAM = true) (hread : s.readable s.scanAddr (s.regN R.SCAN_LEN) = true)
    (hclean : s.eccBad s.scanAddr (s.regN R.SCAN_LEN) = false) (read : Nat) :
    let u := s.rf F.SCAN_CTRL_UNIT
    let f := (s.chkFeed u (s.bytes s.scanAddr (s.regN R.SCAN_LEN))).chkFinal u
    let ok := s.rb F.SCAN_CTRL_CMP = false ∨ f % 2 ^ s.chkWidth u = s.regN R.SCAN_EXP % 2 ^ s.chkWidth u
    let x := s.scanSingle false read
    x.st.regN R.SCAN_VAL = f % 2 ^ 32 ∧ x.st.mem = s.mem ∧ (ok → x.res = 0) ∧ (¬ ok → x.res = 0x8000000E) := by
  intro u f ok x
  have hunit : SameUnit u (s.chkFeed u (s.bytes s.scanAddr (s.regN R.SCAN_LEN))) s.scanFed :=
    SameUnit.chkFeed (sameUnit_eccRead s (rf_lt s F.SCAN_CTRL_UNIT) _ _ _) _
  have hfinal : s.scanFed.chkFinal u = f := hunit.chkFinal
  have hfedwidth : (s.chkFeed u (s.bytes s.scanAddr (s.regN R.SCAN_LEN))).chkWidth u = s.chkWidth u :=
    chkWidth_congr (regsBut_chkFeed s u _ _ (chkConfig_apart u _ (by simp)).1 (chkConfig_apart u _ (by simp)).2)
      (regsBut_chkFeed s u _ _ (chkConfig_apart u _ (by simp)).1 (chkConfig_apart u _ (by simp)).2)
  have hwidth : s.scanFed.chkWidth u = s.chkWidth u := hunit.chkWidth.trans hfedwidth
  have hx : x = _ := scanSingle_of_clean hstop hlen hregion hmem hready hread hclean read
  have hvalue : (s.scanFed.setRegN R.SCAN_VAL f).regN R.SCAN_VAL = f % 2 ^ 32 := regN_setRegN_same ..
  have hkept : RegsBut (R.SCAN_VAL :: scanFedRegs u) s (s.scanFed.setRegN R.SCAN_VAL f) :=
    ((regsBut_scanFed s).weaken (List.subset_cons_self ..)).setRegN (List.mem_cons_self ..)
  have hcmp : (s.scanFed.setRegN R.SCAN_VAL f).rb F.SCAN_CTRL_CMP = s.rb F.SCAN_CTRL_CMP :=
    hkept.rb (List.not_mem_cons_of_ne_of_not_mem (by decide) (not_mem_scanFedRegs (by decide))) (not_evrAddr_of_ge (by decide))
  have hexp : (s.scanFed.setRegN R.SCAN_VAL f).regN R.SCAN_EXP = s.regN R.SCAN_EXP :=
    congrArg BitVec.toNat (hkept.reg (List.not_mem_cons_of_ne_of_not_mem (by decide) (not_mem_scanFedRegs (by decide)))
      (not_evrAddr_of_ge (by decide)))
  rw [hfinal, hwidth, hcmp, hexp] at hx
  have hmiss : (s.rb F.SCAN_CTRL_CMP && f % 2 ^ s.chkWidth u != s.regN R.SCAN_EXP % 2 ^ s.chkWidth u) = true ↔ ¬ ok := by
    simp only [ok, Bool.and_eq_true, bne_iff_ne, not_or, Bool.not_eq_false]
  rw [hx]
  split
  · next h => exact ⟨hvalue, scanFed_mem s, fun hok => absurd hok (hmiss.mp h), fun _ => rfl⟩
  · next h => exact ⟨hvalue, scanFed_mem s, fun _ => rfl, fun hbad => absurd (hmiss.mpr hbad) h⟩

/-! ### A PAIR scan -/

theorem ite_two_pow (b : Bool) (k : Nat) : (if b = true then 2 ^ k else 0) = b.toNat * 2 ^ k := by cases b <;> simp

/-- The flags, WIN and STATUS stand apart in SCAN_RES (R369). -/
theorem bits_scanRes {aok bok tie : Bool} {win st : Nat} (hwin : win < 4) (hst : st < 256) :
    let r := BitVec.ofNat 32 ((if aok then 2 ^ 29 else 0) + (if bok then 2 ^ 28 else 0) + (if tie then 2 ^ 27 else 0) +
      win * 2 ^ 24 + st)
    bits r 29 29 = aok.toNat ∧ bits r 28 28 = bok.toNat ∧ bits r 27 27 = tie.toNat ∧ bits r 25 24 = win ∧ bits r 7 0 = st := by
  have ha := aok.toNat_lt
  have hb := bok.toNat_lt
  have ht := tie.toNat_lt
  simp only [ite_two_pow, bits, BitVec.toNat_ofNat]
  omega

/-- SCAN_RES of a PAIR scan whose copies were read without an error. -/
def pairRes (ca cb : Option (List Byte)) : Nat :=
  (if ca.isSome then 2 ^ 29 else 0) + (if cb.isSome then 2 ^ 28 else 0) + (if (pairWin ca cb).2 then 2 ^ 27 else 0) +
    (pairWin ca cb).1 * 2 ^ 24 + (if (pairWin ca cb).1 == 3 then St.CHECK else St.OK)

/-- The winner of two valid copies is told by their SEQ, of which the later is ahead by less than 2³¹ (R363). -/
theorem pairWin_both (x y : List Byte) :
    let d := (bytesNat ((y.drop 4).take 4) + 2 ^ 32 - bytesNat ((x.drop 4).take 4)) % 2 ^ 32
    pairWin (some x) (some y) = (if x = y then 0 else if 1 ≤ d ∧ d < 2 ^ 31 then 2 else 1, decide (x ≠ y) && d == 0) := by
  intro d
  have hrow : pairWin (some x) (some y) = if x = y then (0, false) else if 1 ≤ d ∧ d < 2 ^ 31 then (2, false) else (1, d == 0) := rfl
  rw [hrow]
  by_cases hxy : x = y
  · simp [hxy]
  · by_cases hd : 1 ≤ d ∧ d < 2 ^ 31
    · rw [if_neg hxy, if_pos hd, if_neg hxy, if_pos hd, beq_false_of_ne (by omega), Bool.and_false]
    · rw [if_neg hxy, if_neg hd, if_neg hxy, if_neg hd, decide_eq_true hxy, Bool.true_and]

theorem pairWin_lt : ∀ ca cb : Option (List Byte), (pairWin ca cb).1 < 4
  | some x, some y => by
    rw [pairWin_both]
    dsimp only
    split
    · decide
    · split <;> decide
  | some _, none => (by decide : 1 < 4)
  | none, some _ => (by decide : 2 < 4)
  | none, none => (by decide : 3 < 4)

/-- What SCAN_RES tells of two copies (R363, R369). -/
theorem bits_pairRes (ca cb : Option (List Byte)) :
    let r := BitVec.ofNat 32 (pairRes ca cb)
    bits r 29 29 = ca.isSome.toNat ∧ bits r 28 28 = cb.isSome.toNat ∧ bits r 27 27 = (pairWin ca cb).2.toNat ∧
      bits r 25 24 = (pairWin ca cb).1 ∧ bits r 7 0 = if (pairWin ca cb).1 == 3 then St.CHECK else St.OK :=
  bits_scanRes (pairWin_lt ca cb) (by split <;> decide)

/-- The report of a PAIR scan: which copies are valid, and which one wins by SEQ (R363). -/
theorem pairRes_tells {t : State} {ca cb : Option (List Byte)} (h : t.reg R.SCAN_RES = BitVec.ofNat 32 (pairRes ca cb)) :
    t.rb F.SCAN_RES_AOK = ca.isSome ∧ t.rb F.SCAN_RES_BOK = cb.isSome ∧
      (∀ x y, ca = some x → cb = some y →
        let d := (bytesNat ((y.drop 4).take 4) + 2 ^ 32 - bytesNat ((x.drop 4).take 4)) % 2 ^ 32
        t.rf F.SCAN_RES_WIN = (if x = y then 0 else if 1 ≤ d ∧ d < 2 ^ 31 then 2 else 1) ∧
          t.rb F.SCAN_RES_TIE = (decide (x ≠ y) && d == 0)) ∧
      (ca.isSome → cb = none → t.rf F.SCAN_RES_WIN = 1) ∧ (ca = none → cb.isSome → t.rf F.SCAN_RES_WIN = 2) ∧
      (ca = none → cb = none → t.rf F.SCAN_RES_WIN = 3 ∧ t.rf F.SCAN_RES_STATUS = St.CHECK) := by
  obtain ⟨haok, hbok, htie, hwin, hstatus⟩ := bits_pairRes ca cb
  rw [← h] at haok hbok htie hwin hstatus
  have hflag : ∀ c : Bool, (c.toNat == 1) = c := by decide
  refine ⟨(congrArg (· == 1) haok).trans (hflag _), (congrArg (· == 1) hbok).trans (hflag _), fun x y hx hy => ?both,
    fun hx hy => ?first, fun hx hy => ?second, fun hx hy => ?neither⟩
  case both =>
    have hpair : pairWin ca cb = _ := (hx ▸ hy ▸ rfl : pairWin ca cb = pairWin (some x) (some y)).trans (pairWin_both x y)
    rw [hpair] at hwin htie
    exact ⟨hwin, (congrArg (· == 1) htie).trans (hflag _)⟩
  case first =>
    obtain ⟨x, rfl⟩ := Option.isSome_iff_exists.mp hx
    subst hy
    exact hwin
  case second =>
    obtain ⟨y, rfl⟩ := Option.isSome_iff_exists.mp hy
    subst hx
    exact hwin
  case neither =>
    subst hx hy
    exact ⟨hwin, hstatus⟩

theorem scanPair_of_clean {s : State} (ha : (regionOf s.scanAddr 1).isSome) (hb : (regionOf s.scanAddr2 1).isSome)
    (hready : (isDram s.scanAddr || isDram s.scanAddr2) = true → s.ready Fn.DRAM = true)
    (hreadA : s.readable s.scanAddr (s.copyLen s.scanAddr) = true) (hreadB : s.readable s.scanAddr2 (s.copyLen s.scanAddr2) = true)
    (hcleanA : s.eccBad s.scanAddr (s.copyLen s.scanAddr) = false) (hcleanB : s.eccBad s.scanAddr2 (s.copyLen s.scanAddr2) = false)
    (hstop : s.rb F.SCAN_CTRL_STOP = false) :
    s.scanPair false = ⟨(s.eccRead Ini.DMA s.scanAddr (s.copyLen s.scanAddr)).eccRead Ini.DMA s.scanAddr2 (s.copyLen s.scanAddr2),
      pairRes (s.copyAt s.scanAddr) (s.copyAt s.scanAddr2), (pairWin (s.copyAt s.scanAddr) (s.copyAt s.scanAddr2)).1⟩ := by
  have hplaced : ¬ ((regionOf s.scanAddr 1).isNone ∨ (regionOf s.scanAddr2 1).isNone) := by
    rw [← Option.not_isSome, ← Option.not_isSome, ha, hb]
    exact fun h => h.elim Bool.false_ne_true Bool.false_ne_true
  have hdram : ¬ ((isDram s.scanAddr || isDram s.scanAddr2) && !s.ready Fn.DRAM) = true := by
    rw [Bool.and_eq_true, Bool.not_eq_true', not_and]
    exact fun h => Bool.not_eq_false _ |>.mpr (hready h)
  have hanswered : ¬ (false || !s.readable s.scanAddr (s.copyLen s.scanAddr) ||
      !s.readable s.scanAddr2 (s.copyLen s.scanAddr2)) = true := by
    rw [hreadA, hreadB]
    exact Bool.false_ne_true
  have hpair : s.scanPair false = _ :=
    (if_neg hplaced).trans ((if_neg hdram).trans ((if_neg hanswered).trans (if_neg (Bool.eq_false_iff.mp hstop))))
  rw [hpair, hcleanA, hcleanB, pairRes]
  simp only [Bool.or_self, Bool.false_or, Bool.false_eq_true, if_false, Nat.zero_add]

/-! ### The obligation -/

/-- Settles O48, unit by unit and scan by scan. -/
theorem checkUnitsAndScans : Obligations.CheckUnitsAndScans := by
  unfold Obligations.CheckUnitsAndScans
  intro s i
  refine ⟨fun u v => ?units, fun v hmay => ?control, fun read hidle => exec_scanEnd_idle hidle false read,
    fun read hbusy hmode hstop => ?single, fun read hbusy hmode hstop => ?pair⟩
  case units =>
    intro x init busy
    have hbusy : ∀ {c : Instr}, (s.chkBound x = true → exec c s = .next (s.chkRefuse x St.BUSY)) → busy c := fun hexec hbound =>
      ⟨_, hexec hbound, chkRefuse_busy s x⟩
    refine ⟨fun hmay => ?preset, fun j hmay hv => ?config, fun j hmay => ?feed, fun hmay hinit => ?init⟩
    case preset =>
      have hexec : exec (.chkPreset i u v) s = .next (State.chkPreset x v s) :=
        congrArg Host.Outcome.next (onWrite_of_mayWrite s i _ _ hmay)
      refine ⟨fun hp hfree => ⟨_, hexec, chkPreset_loads hp hfree⟩, fun hp hfree => ⟨_, hexec, chkPreset_custom hp hfree⟩,
        fun hp => hbusy fun hbound => ?_⟩
      exact hexec.trans (congrArg Host.Outcome.next ((if_neg (Nat.not_lt.mpr hp)).trans (if_pos hbound)))
    case config =>
      have hexec : exec (.chkConfigWrite i u j v) s = .next (State.chkConfig i.val x j.val v s) :=
        congrArg Host.Outcome.next (onWrite_of_mayWrite s i _ _ hmay)
      refine ⟨fun hfree => ?writes, hbusy fun hbound => ?_⟩
      case writes =>
        obtain ⟨hword, hwidth, hpreset, hregs⟩ := chkConfig_writes (i := i.val) hv hfree
        exact ⟨_, hexec, hword, hwidth, hpreset, hregs, sameBytes_of_exec hexec (by simp [touched])⟩
      have haccepted := (writeReg_chkCfg s i.val u hv).1
      exact hexec.trans (congrArg Host.Outcome.next
        ((if_neg (by rw [haccepted]; exact Bool.false_ne_true)).trans (if_pos hbound)))
    case feed =>
      have hexec : exec (.chkDataFeed i u j v) s = .next (State.chkData x j.val v s) :=
        congrArg Host.Outcome.next (onWrite_of_mayWrite s i _ _ hmay)
      refine ⟨fun hfree => ?fed, hbusy fun hbound => hexec.trans (congrArg Host.Outcome.next (if_pos hbound))⟩
      case fed =>
        have hfed : State.chkData x j.val v s = s.chkFeed x (natBytes (chkDataLen j.val) v.toNat) :=
          if_neg (Bool.eq_false_iff.mp hfree)
        rw [hfed] at hexec
        exact ⟨_, hexec, by rw [count_chkFeed, length_natBytes], fun hcrc _ _ => value_chkFeed _ hcrc, regsBut_chkFeed s x _,
          sameBytes_of_exec hexec (by simp [touched])⟩
    case init =>
      have hexec : exec (.chkInit i u v) s = .next (State.chkCmd x v s) :=
        congrArg Host.Outcome.next (onWrite_of_mayWrite s i _ _ hmay)
      refine ⟨fun hfree => ?begun, hbusy fun hbound => hexec.trans (congrArg Host.Outcome.next (if_pos hbound))⟩
      case begun =>
        have hbegun : State.chkCmd x v s = s.chkInit x := (if_neg (Bool.eq_false_iff.mp hfree)).trans (if_pos hinit)
        rw [hbegun] at hexec
        exact ⟨_, hexec, chkInitial_chkInit s x, regsBut_chkInit s x, sameBytes_of_exec hexec (by simp [touched])⟩
  case control =>
    have hgo : exec (.scanGo i v) s = .next (State.scanCtrl i.val (v ||| 0x80000000) s) :=
      congrArg Host.Outcome.next (onWrite_of_mayWrite s i _ _ hmay)
    refine ⟨fun h => ?refused, fun hidle hfree => ?started, fun hbusy => ?stopped⟩
    case refused =>
      rw [scanCtrl_refused h] at hgo
      obtain ⟨hcode, hregs⟩ := scanBusy_records s
      exact ⟨_, hgo, hcode, hregs, sameBytes_of_exec hgo (by simp [touched])⟩
    case started =>
      obtain ⟨hbusy, hmode, hunit, hregs⟩ := scanCtrl_starts (i := i.val) hidle hfree
      exact ⟨_, hgo, hbusy, hmode, hunit, hregs, sameBytes_of_exec hgo (by simp [touched])⟩
    case stopped =>
      have hexec : exec (.scanStop i v) s = .next (State.scanCtrl i.val ((v ||| 0x20000000) &&& 0x7FFFFFFF) s) :=
        congrArg Host.Outcome.next (onWrite_of_mayWrite s i _ _ hmay)
      obtain ⟨hstop, hrunning, hregs⟩ := scanCtrl_stops (i := i.val) (v := v) hbusy
      exact ⟨_, hexec, hstop, hrunning, hregs, sameBytes_of_exec hexec (by simp [touched])⟩
  case single =>
    intro a len u
    have hexec := exec_scanEnd hbusy false read
    rw [if_neg (by rw [hmode]; decide)] at hexec
    refine ⟨fun hbad => ?range, fun hlen hregion hmem hready hread hclean => ?sound⟩
    case range =>
      rw [scanSingle_range hbad] at hexec
      obtain ⟨hres, hidle, hregs, hmem⟩ := ScanEnd.close_closes ⟨s, St.RANGE, 0⟩
      exact ⟨_, hexec, hres, hidle, hregs, sameBytes_of_mem hmem⟩
    case sound =>
      obtain ⟨hvalue, hsame, hequal, hmiss⟩ := scanSingle_ends hstop hlen hregion hmem hready hread hclean read.toNat
      obtain ⟨hres, hidle, hregs, hbytes⟩ := ScanEnd.close_closes (s.scanSingle false read.toNat)
      refine ⟨_, hexec, ?value, fun hok => ?equal, fun hbad => ?differs, hidle, sameBytes_of_mem (hbytes.trans hsame)⟩
      case value => exact (congrArg BitVec.toNat (hregs.reg (by decide) (not_evrAddr_of_ge (by decide)))).trans hvalue
      case equal => rw [hres, hequal hok]; rfl
      case differs => rw [hres, hmiss hbad]; rfl
  case pair =>
    intro a b ha hb hready hreadA hreadB hcleanA hcleanB
    have hexec := exec_scanEnd hbusy false read
    rw [if_pos hmode, scanPair_of_clean ha hb hready hreadA hreadB hcleanA hcleanB hstop] at hexec
    obtain ⟨hres, hidle, -, hbytes⟩ := ScanEnd.close_closes ⟨(s.eccRead Ini.DMA a (s.copyLen a)).eccRead Ini.DMA b (s.copyLen b),
      pairRes (s.copyAt a) (s.copyAt b), (pairWin (s.copyAt a) (s.copyAt b)).1⟩
    have hmem : ((s.eccRead Ini.DMA a (s.copyLen a)).eccRead Ini.DMA b (s.copyLen b)).mem = s.mem :=
      Within.eccRead (m := 3145745) (.eccRead (.refl s)) ⟨rfl⟩ .mem rfl
    obtain ⟨haok, hbok, hboth, hfirst, hsecond, hneither⟩ := pairRes_tells hres
    exact ⟨_, hexec, haok, hbok, hboth, hfirst, hsecond, hneither, hidle, sameBytes_of_mem (hbytes.trans hmem)⟩

end Sys2Proof.Machine
end

section
/-! PROOFS. The DMA family: the descriptors of firmware channels (O46). -/

namespace Sys2Proof.Machine

/-! ### Reads leave the channels and the answers of memory -/

/-- The registers in which a read notes corrections and errors (R413, R415). -/
def eccNoteRegs : List Nat := eccRegs.drop 2

theorem regsBut_noteCe_notes (s : State) (a : Nat) : RegsBut eccNoteRegs s (s.noteCe a) := by
  unfold State.noteCe
  extract_lets t
  have hdrc : ∀ f, RegsBut eccNoteRegs s (s.setDrc f) := fun _ => .of_eq rfl
  exact .ite ((((hdrc _).bump (by decide)).setRegN (by decide)).setRegN (by decide))
    (((hdrc _).bump (by decide)).setRegN (by decide))

theorem regsBut_noteUe_notes (s : State) (reader a : Nat) : RegsBut eccNoteRegs s (s.noteUe reader a) := by
  unfold State.noteUe
  extract_lets info
  exact .ite
    (((((RegsBut.refl.bump (by decide)).setRegN (by decide)).setRegN (by decide)).setRegN (by decide)).raise (by decide))
    ((((RegsBut.refl.bump (by decide)).setRegN (by decide)).setRegN (by decide)).raise (by decide))

theorem regsBut_eccWords_notes (reader : Nat) : ∀ (ks : List Nat) (s : State), RegsBut eccNoteRegs s (s.eccWords reader ks)
  | [], _ => .refl
  | k :: ks, s => by
    have hword : RegsBut eccNoteRegs s (s.eccWord reader k) :=
      .ite .refl (.ite ((RegsBut.of_eq rfl).trans (regsBut_noteCe_notes _ _)) (regsBut_noteUe_notes _ _ _))
    exact hword.trans (regsBut_eccWords_notes reader ks _)

/-- A DRAM that leaves SRIDLE served before and serves after (R431). -/
theorem sameAnswers_dramTouch (s : State) (a : Nat) : SameAnswers s (s.dramTouch a) := by
  unfold State.dramTouch
  split
  · next hidle =>
    have hbefore : s.dramServes = true := by
      rw [State.dramServes, (Bool.and_eq_true_iff.mp hidle).2, Bool.or_true]
    let awake := s.wf F.DRC_STAT_STATE 2
    have hlast : RegsBut [R.DRC_CNT_SREXIT] awake ((awake.bump R.DRC_CNT_SREXIT).raise 185) :=
      (RegsBut.refl.bump (List.mem_singleton_self _)).raise (by decide)
    have hawake : RegsBut [R.DRC_STAT] s awake := RegsBut.refl.wf (f := F.DRC_STAT_STATE) (List.mem_singleton_self _)
    have hserves : awake.rf F.DRC_STAT_STATE = 2 := rf_wf_same s F.DRC_STAT_STATE 2 (by decide) (by decide)
    have hother : ∀ b ∈ [R.SYS_STEPOK, R.DRC_DUMP, R.DRC_DUMP_BASE, R.DRC_DUMP_SIZE], awake.reg b = s.reg b := fun b hb =>
      hawake b (by revert b; decide) (not_evrAddr_of_ge (by revert b; decide))
    have hfirst : SameAnswers s awake :=
      ⟨hother _ (by simp), rf_wf_apart _ _ (by decide), by rw [hbefore, State.dramServes, hserves]; rfl, hother _ (by simp),
        hother _ (by simp), hother _ (by simp)⟩
    exact hfirst.trans (sameAnswers_of_regsBut hlast (by decide))
  · exact ⟨rfl, rfl, rfl, rfl, rfl, rfl⟩

/-- Which accesses of memory are answered stands across a read. -/
theorem sameAnswers_eccRead (s : State) (reader a len : Nat) : SameAnswers s (s.eccRead reader a len) := by
  unfold State.eccRead
  split
  · exact ⟨rfl, rfl, rfl, rfl, rfl, rfl⟩
  · exact (sameAnswers_dramTouch s a).trans (sameAnswers_of_regsBut (regsBut_eccWords_notes reader _ _) (by decide))

theorem eccRead_mem (s : State) (reader a len : Nat) : (s.eccRead reader a len).mem = s.mem :=
  Within.eccRead (m := 3145745) (.refl s) ⟨rfl⟩ .mem rfl

theorem eccRead_dma (s : State) (reader a len : Nat) : (s.eccRead reader a len).dma = s.dma :=
  Within.eccRead (m := 3145745) (.refl s) ⟨rfl⟩ .dma rfl

/-- The registers of channels stand across reads and stores of memory. -/
theorem not_mem_storeRegs {a : Nat} (h : a < 0x40030000) : a ∉ storeRegs := fun hmem =>
  absurd ((by decide : ∀ r ∈ storeRegs, 0x40030000 ≤ r) a hmem) (by omega)

theorem reg_eccRead (s : State) (reader a len : Nat) {b : Nat} (h : 0x40020000 ≤ b ∧ b < 0x40030000) :
    (s.eccRead reader a len).reg b = s.reg b :=
  (regsBut_eccRead s reader a len).reg (fun hmem => not_mem_storeRegs h.2 (by simp [storeRegs, hmem])) (not_evrAddr_of_ge h.1)

theorem words_congr {s t : State} (h : t.mem = s.mem) : ∀ (n a : Nat), t.words a n = s.words a n
  | 0, _ => rfl
  | n + 1, a => by rw [State.words, State.words, read32_congr h, words_congr h n]

/-- The check of a fetched descriptor depends on the port and on readiness alone (R336). -/
theorem dmaCheck_congr {s t : State} {n : Nat} (hport : t.rf (F.CH_CFG_IPORT n) = s.rf (F.CH_CFG_IPORT n))
    (hstep : t.reg R.SYS_STEPOK = s.reg R.SYS_STEPOK) (d : List Word) : t.dmaCheck n d = s.dmaCheck n d := by
  rw [State.dmaCheck, State.dmaCheck, hport, ready_congr hstep, ready_congr hstep]

/-! ### Doorbells and fetches -/

theorem isPath_of_firmware {n : Nat} (h : 12 ≤ n) : isPath n = false := decide_eq_false (by omega)

/-- A doorbell of an IDLE channel ends its wait, or is kept until the fetch ends (R338). -/
theorem chDoorbell_rings {s : State} {n : Nat} {v : Word} (hfw : 12 ≤ n) (hring : v.getLsbD 0 = true) (hidle : s.chState n = Cs.IDLE) :
    let t := State.chDoorbell n v s
    (t.ch n).parked = false ∧ ((s.ch n).parked = false → (t.ch n).bell = true) ∧ t.regs = s.regs := by
  intro t
  have ht : t = if (s.ch n).parked then s.setCh n { s.ch n with parked := false } else s.setCh n { s.ch n with bell := true } :=
    (if_neg (by rw [isPath_of_firmware hfw]; exact Bool.false_ne_true)).trans (if_pos (by rw [hring, hidle]; rfl))
  rw [ht]
  split
  · next hparked => exact ⟨by rw [ch_setCh], fun h => absurd hparked (Bool.eq_false_iff.mp h), rfl⟩
  · next hfetch => exact ⟨by rw [ch_setCh]; exact Bool.eq_false_iff.mpr hfetch, fun _ => by rw [ch_setCh], rfl⟩

theorem chDoorbell_of_other {s : State} {n : Nat} {v : Word} (hfw : 12 ≤ n) (h : s.chState n ≠ Cs.IDLE) :
    State.chDoorbell n v s = s :=
  (if_neg (by rw [isPath_of_firmware hfw]; exact Bool.false_ne_true)).trans
    (if_neg (by rw [beq_false_of_ne h, Bool.and_false]; exact Bool.false_ne_true))

/-- A channel that halts names the status, and sets its cause (R338, R349). -/
theorem chHalt_halts (s : State) {n st : Nat} (hn : n < 128) (hst : st < 256) :
    let t := s.chHalt n st
    t.chState n = Cs.HALT ∧ t.rf (F.CH_STAT_LSTATUS n) = st ∧ t.rb (F.CH_STAT_ERRC n) = true ∧ RegsBut [R.CH_STAT n] s t ∧
      t.mem = s.mem := by
  intro t
  have hin := channelIn_setCh_chEnter s n DmaChan.none (st := Cs.HALT) (by decide)
  let halted := (s.setCh n DmaChan.none).chEnter n Cs.HALT
  have hnoted : CausesNoted n st halted t := (CausesNoted.lstatus (n := n) (code := st) (s := halted)).chCause hn (k := 27) (by decide)
  refine ⟨?state, hnoted.status.trans (Nat.mod_eq_of_lt hst), rb_chCause_same _ hn rfl (by decide : 27 < 32)
    (not_evrAddr_array (by decide)), hin.regs.trans hnoted.regs, hnoted.mem.trans hin.mem⟩
  case state =>
    have hlast : t.chState n = (halted.wf (F.CH_STAT_LSTATUS n) st).chState n :=
      rf_chCause_apart _ hn (Fld.apart_of_bits (by decide) : Fld.Apart (F.CH_STAT_ERRC n) (F.CH_STAT_STATE n))
        (not_evrAddr_array (by decide))
    have hstatus : (halted.wf (F.CH_STAT_LSTATUS n) st).chState n = halted.chState n :=
      rf_wf_apart _ _ (Fld.apart_of_bits (by decide) : Fld.Apart (F.CH_STAT_LSTATUS n) (F.CH_STAT_STATE n))
    exact hlast.trans (hstatus.trans hin.state)

/-- A descriptor that passes its check waits for its trigger, or runs (R336, R338). -/
theorem chTake_of_good {s : State} {n : Nat} {d : List Word} (h : s.dmaCheck n d = St.OK) :
    let t := s.chTake n d
    t.chState n = (if (d.getD 0 0).getLsbD 29 && !(s.ch n).noWait then Cs.ARMED else Cs.RUN) ∧ (t.ch n).desc = some d ∧
      (t.ch n).ended = none ∧ (t.ch n).moved = 0 := by
  intro t
  have ht : t = if (d.getD 0 0).getLsbD 29 && !(s.ch n).noWait then (s.setCh n { DmaChan.none with desc := some d }).chEnter n Cs.ARMED
      else (s.setCh n { DmaChan.none with desc := some d }).chRun n := if_neg (not_not.mpr h)
  rw [ht]
  split
  · have hin := channelIn_setCh_chEnter s n { DmaChan.none with desc := some d } (st := Cs.ARMED) (by decide)
    exact ⟨hin.state, by rw [hin.chan], by rw [hin.chan]; rfl, by rw [hin.chan]; rfl⟩
  · obtain ⟨bound, hin⟩ := channelIn_chRun (s.setCh n { DmaChan.none with desc := some d }) n
    have hchan := hin.chan
    rw [ch_setCh] at hchan
    exact ⟨hin.state, by rw [hchan], by rw [hchan]; rfl, by rw [hchan]; rfl⟩

/-- A descriptor that fails its check runs to its end at once, with the status (R336). -/
theorem chTake_of_bad {s : State} {n : Nat} {d : List Word} (h : s.dmaCheck n d ≠ St.OK) :
    let t := s.chTake n d
    t.chState n = Cs.RUN ∧ (t.ch n).ended = some (s.dmaCheck n d) ∧ (t.ch n).moved = 0 := by
  intro t
  have ht : t = (s.setCh n { DmaChan.none with desc := some d, ended := some (s.dmaCheck n d) }).chEnter n Cs.RUN := if_pos h
  have hin := channelIn_setCh_chEnter s n { DmaChan.none with desc := some d, ended := some (s.dmaCheck n d) } (st := Cs.RUN)
    (by decide)
  rw [ht]
  exact ⟨hin.state, by rw [hin.chan], by rw [hin.chan]; rfl⟩

section
variable {s : State} {n : Fin 128} (hfw : 12 ≤ n.val) (hidle : s.chState n.val = Cs.IDLE) (hwait : (s.ch n.val).parked = false)
include hfw hidle hwait

/-- A fetch that is in progress ends with a bus error, with a word that is not sound, or with the descriptor (R338). -/
theorem exec_descriptorFetch (hw : Bool) : exec (.descriptorFetch n hw) s =
    if hw || !s.readable (s.chAt n.val) 32 then .next (s.chHalt n.val St.HW)
    else if s.eccBad (s.chAt n.val) 32 then .next ((s.eccRead Ini.DMA (s.chAt n.val) 32).chHalt n.val St.CHECK)
    else
      let t := s.eccRead Ini.DMA (s.chAt n.val) 32
      let d := t.words (s.chAt n.val) 8
      if (d.getD 0 0).getLsbD 31 then .next (t.chTake n.val d)
      else if (s.ch n.val).bell then .next (t.setCh n.val { s.ch n.val with bell := false })
      else .next (t.setCh n.val { s.ch n.val with parked := true }) := by
  have hguard : ¬ (isPath n.val || s.chState n.val != Cs.IDLE || (s.ch n.val).parked) = true := by
    rw [isPath_of_firmware hfw, hidle, hwait]
    decide
  exact if_neg hguard

theorem exec_descriptorFetch_hw {hw : Bool} (h : hw = true ∨ s.readable (s.chAt n.val) 32 = false) :
    exec (.descriptorFetch n hw) s = .next (s.chHalt n.val St.HW) := by
  rw [exec_descriptorFetch hfw hidle hwait, if_pos]
  obtain h | h := h <;> simp [h]

theorem exec_descriptorFetch_check (hread : s.readable (s.chAt n.val) 32 = true) (hbad : s.eccBad (s.chAt n.val) 32 = true) :
    exec (.descriptorFetch n false) s = .next ((s.eccRead Ini.DMA (s.chAt n.val) 32).chHalt n.val St.CHECK) := by
  rw [exec_descriptorFetch hfw hidle hwait, hread, if_neg (by decide), if_pos hbad]

theorem exec_descriptorFetch_sound (hread : s.readable (s.chAt n.val) 32 = true) (hclean : s.eccBad (s.chAt n.val) 32 = false) :
    exec (.descriptorFetch n false) s =
      let t := s.eccRead Ini.DMA (s.chAt n.val) 32
      if (s.read32 (s.chAt n.val)).getLsbD 31 then .next (t.chTake n.val (s.words (s.chAt n.val) 8))
      else if (s.ch n.val).bell then .next (t.setCh n.val { s.ch n.val with bell := false })
      else .next (t.setCh n.val { s.ch n.val with parked := true }) := by
  have hword : (s.words (s.chAt n.val) 8).getD 0 0 = s.read32 (s.chAt n.val) := rfl
  rw [exec_descriptorFetch hfw hidle hwait, hread, if_neg (by decide), if_neg (Bool.eq_false_iff.mp hclean)]
  simp only [words_congr (eccRead_mem s _ _ _), hword]

end

/-- What a fetch meets in the channel is there after the read of the descriptor. -/
theorem fetched_kept (s : State) {n : Nat} (hn : n < 128) (d : List Word) :
    let t := s.eccRead Ini.DMA (s.chAt n) 32
    t.dmaCheck n d = s.dmaCheck n d ∧ t.ch n = s.ch n ∧ t.chState n = s.chState n ∧ t.chHead n = s.chHead n := by
  intro t
  have hreg : ∀ b, 0x40021000 ≤ b ∧ b < 0x40023000 → t.reg b = s.reg b := fun b hb => reg_eccRead s _ _ _ (by omega)
  exact ⟨dmaCheck_congr (congrArg (fun w => bits w 17 16) (hreg (R.CH_CFG n) (by unfold R.CH_CFG; omega)))
      (sameAnswers_eccRead s _ _ _).step d, ch_congr (eccRead_dma s _ _ _) n,
    congrArg (fun w => bits w 31 29) (hreg (R.CH_STAT n) (by unfold R.CH_STAT; omega)),
    congrArg (fun w => bits w 11 0) (hreg (R.CH_HEAD n) (by unfold R.CH_HEAD; omega))⟩

/-- A descriptor that is not owned leaves the channel waiting for a doorbell, unless one was kept (R338). -/
theorem unowned_waits (s : State) {n : Nat} (hn : n < 128) (hidle : s.chState n = Cs.IDLE) (hwait : (s.ch n).parked = false) :
    let u := s.eccRead Ini.DMA (s.chAt n) 32
    let t := if (s.ch n).bell then u.setCh n { s.ch n with bell := false } else u.setCh n { s.ch n with parked := true }
    t.chState n = Cs.IDLE ∧ (t.ch n).parked = (!(s.ch n).bell) ∧ (t.ch n).bell = false := by
  intro u t
  have hstate : u.chState n = Cs.IDLE := (fetched_kept s hn []).2.2.1.trans hidle
  have hkept : ∀ c, (u.setCh n c).chState n = Cs.IDLE := fun c => (setCh_rf ..).trans hstate
  by_cases hbell : (s.ch n).bell = true
  · have ht : t = u.setCh n { s.ch n with bell := false } := if_pos hbell
    rw [ht, hbell]
    exact ⟨hkept _, by rw [ch_setCh]; exact hwait, by rw [ch_setCh]⟩
  · have hquiet : (s.ch n).bell = false := Bool.eq_false_iff.mpr hbell
    have ht : t = u.setCh n { s.ch n with parked := true } := if_neg hbell
    rw [ht, hquiet]
    exact ⟨hkept _, by rw [ch_setCh]; rfl, by rw [ch_setCh]; exact hquiet⟩

/-! ### The bytes of a burst -/

theorem length_bytes (s : State) : ∀ n a : Nat, (s.bytes a n).length = n
  | 0, _ => rfl
  | n + 1, a => congrArg Nat.succ (length_bytes s n (a + 1))

theorem getElem?_bytes (s : State) : ∀ {n a j : Nat}, j < n → (s.bytes a n)[j]? = some (s.byte (a + j))
  | n + 1, a, 0, _ => rfl
  | n + 1, a, j + 1, h => by
    have hnext : (s.bytes (a + 1) n)[j]? = some (s.byte (a + 1 + j)) := getElem?_bytes s (by omega)
    rw [State.bytes, List.getElem?_cons_succ, hnext, Nat.add_assoc, Nat.add_comm 1 j]

theorem bytes_congr {s t : State} (h : t.mem = s.mem) : ∀ n a : Nat, t.bytes a n = s.bytes a n
  | 0, _ => rfl
  | n + 1, a => by rw [State.bytes, State.bytes, sameBytes_of_mem h a, bytes_congr h n]

/-- Byte `j` of a word (R335). -/
theorem getD_natBytes_word (w : Word) {j : Nat} (h : j < 4) : (natBytes 4 w.toNat).getD j 0 = w.extractLsb' (8 * j) 8 := by
  apply BitVec.eq_of_toNat_eq
  rw [BitVec.extractLsb'_toNat, Nat.shiftRight_eq_div_pow]
  match j with
  | 0 | 1 | 2 | 3 => simp [natBytes, Nat.div_div_eq_div_mul]

/-- The pattern of a FILL stands at the addresses modulo 4 (R335). -/
def fillBytes (c : DmaChan) (a m : Nat) : List Byte := (List.range m).map fun k => (c.word 6).extractLsb' (8 * ((a + k) % 4)) 8

theorem burstIn_fill (s : State) {c : DmaChan} (hkind : kindOf (c.word 0) = 1) (hdst : (c.word 0).getLsbD 24 = false) (m : Nat) :
    s.burstIn c m = (s, .ok (fillBytes c (dstOf (c.desc.getD []) + c.moved) m)) := by
  have hpat : ∀ a, (natBytes 4 (c.word 6).toNat).getD (a % 4) 0 = (c.word 6).extractLsb' (8 * (a % 4)) 8 := fun a =>
    getD_natBytes_word _ (Nat.mod_lt _ (by decide))
  simp only [State.burstIn, hkind, hdst, if_true, Bool.false_eq_true, if_false, hpat, fillBytes]

theorem burstIn_copy (s : State) {c : DmaChan} (hkind : kindOf (c.word 0) = 0) (hsrc : (c.word 0).getLsbD 25 = false) (m : Nat) :
    s.burstIn c m = s.dmaRead (srcOf (c.desc.getD []) + c.moved) m := by
  simp only [State.burstIn, hkind, hsrc, Nat.zero_ne_one, if_false, Bool.false_eq_true]

theorem dmaRead_mem {s : State} {a n : Nat} (h : regionOf a n ≠ some 2) : (s.dmaRead a n).1.mem = s.mem := by
  rw [State.dmaRead, if_neg h]
  split
  · rfl
  · split <;> exact eccRead_mem ..

theorem dmaRead_of_bad {s : State} {a n : Nat} (hmem : regionOf a n ≠ some 2) (hread : s.readable a n = true)
    (hbad : s.eccBad a n = true) : s.dmaRead a n = (s.eccRead Ini.DMA a n, .error St.CHECK) := by
  rw [State.dmaRead, if_neg hmem, if_neg (by rw [hread]; exact Bool.false_ne_true), if_pos hbad]

/-- A burst to memory that is answered stores its bytes (R339). -/
theorem burstOut_stores {s : State} {c : DmaChan} {l : List Byte} (hdst : (c.word 0).getLsbD 24 = false)
    (hmem : regionOf (dstOf (c.desc.getD []) + c.moved) l.length ≠ some 2)
    (hwrite : s.writable Ini.DMA (dstOf (c.desc.getD []) + c.moved) l.length = true) :
    s.burstOut c l false = (s.store Ini.DMA (dstOf (c.desc.getD []) + c.moved) l, true) := by
  simp only [State.burstOut, State.dmaWrite, hdst, Bool.false_eq_true, if_false, if_neg hmem, hwrite, if_true]

theorem byte_maybeWritten_of_outside {b : Nat} : ∀ {l : List Byte} {s : State} {a : Nat}, b < a ∨ a + l.length ≤ b →
    (s.maybeWritten a l).byte b = s.byte b
  | [], _, _, _ => rfl
  | x :: xs, s, a, h => by
    rw [List.length_cons] at h
    rw [State.maybeWritten, byte_maybeWritten_of_outside (by omega)]
    split
    · exact (byte_setByte ..).trans (if_neg (by omega))
    · rfl

/-- A burst whose write ends with a bus error may have written of its bytes, and no others (R349). -/
theorem burstOut_fails (s : State) {c : DmaChan} (l : List Byte) (hdst : (c.word 0).getLsbD 24 = false) :
    (s.burstOut c l true).2 = false ∧
      ∀ x, x < dstOf (c.desc.getD []) + c.moved ∨ dstOf (c.desc.getD []) + c.moved + l.length ≤ x →
      (s.burstOut c l true).1.byte x = s.byte x := by
  simp only [State.burstOut, hdst, Bool.false_eq_true, if_false, if_true, true_and]
  intro x hx
  split
  · rfl
  · exact byte_maybeWritten_of_outside hx

/-! ### The course of a burst -/

/-- The bytes that the next burst of a channel moves (R341). -/
def State.burstSpan (s : State) (n : Nat) : Nat :=
  min (2 ^ s.rf (F.CH_CFG_BURST n)) (lenOf ((s.ch n).desc.getD []) - (s.ch n).moved)

/-- The bytes of a burst count as moved, and the last of them end the descriptor (R341). -/
def DmaChan.moveOn (c : DmaChan) (m : Nat) : DmaChan :=
  { c with moved := c.moved + m, ended := if lenOf (c.desc.getD []) ≤ c.moved + m then some St.OK else Option.none }

/-- A descriptor that ends keeps what it has moved. -/
theorem chEnd_ends (v : State) (n : Nat) (c : DmaChan) (st : Nat) :
    ((v.chEnd n c st).ch n).ended = some st ∧ ((v.chEnd n c st).ch n).moved = c.moved ∧ (v.chEnd n c st).mem = v.mem := by
  rw [State.chEnd, ch_setCh]
  exact ⟨rfl, rfl, setCh_mem ..⟩

section
variable {s u v : State} {n : Nat} {l : List Byte} {st : Nat}

theorem burst_of_unread (hin : s.burstIn (s.ch n) (s.burstSpan n) = (u, .error st)) : s.burst n 0 = u.chEnd n (s.ch n) st := by
  unfold State.burst
  extract_lets c w0 len k r
  have hr : r = (u, .error st) := hin
  simp [hr, c]

theorem burst_of_read_fault : s.burst n 1 = (s.burstIn (s.ch n) (s.burstSpan n)).1.chEnd n (s.ch n) St.HW := rfl

variable (hkind : kindOf ((s.ch n).word 0) ≠ 2) (hin : s.burstIn (s.ch n) (s.burstSpan n) = (u, .ok l))
include hkind hin

theorem burst_of_write_fault (hout : (u.burstOut (s.ch n) l true).2 = false) :
    s.burst n 2 = (u.burstOut (s.ch n) l true).1.chEnd n (s.ch n) St.HW := by
  unfold State.burst
  extract_lets c w0 len k r
  have hr : r = (u, .ok l) := hin
  simp [hr, c, w0, hkind, hout]

theorem burst_of_written (hended : (s.ch n).ended = none) (hunit : ((s.ch n).word 0).getLsbD 21 = false)
    (hout : u.burstOut (s.ch n) l false = (v, true)) : s.burst n 0 = v.setCh n ((s.ch n).moveOn (s.burstSpan n)) := by
  unfold State.burst
  extract_lets c w0 len k r
  have hr : r = (u, .ok l) := hin
  have hk : s.burstSpan n = k := rfl
  have hcopy : ¬ kindOf w0 = 2 := hkind
  have hstored : u.burstOut c l (0 == 2) = (v, true) := hout
  have hplain : w0.getLsbD 21 = false := hunit
  simp only [hr, Nat.zero_ne_one, if_false, hcopy, hstored, Bool.not_true, Bool.false_eq_true, hplain]
  rw [hk, DmaChan.moveOn]
  by_cases hdone : len ≤ c.moved + k
  · rw [if_pos (decide_eq_true hdone), if_pos hdone]
    rfl
  · rw [if_neg (mt of_decide_eq_true hdone), if_neg hdone, ← hended]

end

/-- A burst that is whole: its bytes stand at the destination and nothing else of memory has changed (R341). -/
theorem burst_moves {s u : State} {n : Nat} {l : List Byte} (hn : n < 128) (hended : (s.ch n).ended = none)
    (hkind : kindOf ((s.ch n).word 0) ≠ 2) (hunit : ((s.ch n).word 0).getLsbD 21 = false)
    (hdst : ((s.ch n).word 0).getLsbD 24 = false) (hin : s.burstIn (s.ch n) (s.burstSpan n) = (u, .ok l))
    (hlen : l.length = s.burstSpan n) (hregion : regionOf (dstOf ((s.ch n).desc.getD []) + (s.ch n).moved) (s.burstSpan n) ≠ some 2)
    (hwrite : u.writable Ini.DMA (dstOf ((s.ch n).desc.getD []) + (s.ch n).moved) (s.burstSpan n) = true)
    (hmem : u.mem = s.mem) (hregs : RegsBut storeRegs s u) :
    let dst := dstOf ((s.ch n).desc.getD []) + (s.ch n).moved
    let t := s.burst n 0
    t.ch n = (s.ch n).moveOn (s.burstSpan n) ∧ (∀ j b, l[j]? = some b → t.byte (dst + j) = b) ∧
      (∀ x, x < dst ∨ dst + s.burstSpan n ≤ x → t.byte x = s.byte x) ∧ t.rf (F.CH_CNT_LATEWD n) = s.rf (F.CH_CNT_LATEWD n) := by
  intro dst t
  have hout := burstOut_stores (s := u) hdst (hlen ▸ hregion) (hlen ▸ hwrite)
  have ht : t = (u.store Ini.DMA dst l).setCh n ((s.ch n).moveOn (s.burstSpan n)) := burst_of_written hkind hin hended hunit hout
  have hbyte : ∀ x, t.byte x = (u.store Ini.DMA dst l).byte x := fun x => by rw [ht]; exact sameBytes_of_mem (setCh_mem ..) x
  have hcnt : (u.store Ini.DMA dst l).rf (F.CH_CNT_LATEWD n) = s.rf (F.CH_CNT_LATEWD n) :=
    (hregs.trans (regsBut_store _ _ _ _)).rf (not_mem_storeRegs (by simp only [F.CH_CNT_LATEWD, R.CH_CNT]; omega))
      (not_evrAddr_array (by decide))
  refine ⟨by rw [ht, ch_setCh], fun j b hb => (hbyte _).trans (byte_store_of_inside hb), fun x hx => ?outside, ?late⟩
  case outside => rw [hbyte, byte_store_of_outside (hlen ▸ hx), sameBytes_of_mem hmem]
  case late => rw [ht, setCh_rf, hcnt]

/-! ### Bursts that the arbiter grants -/

/-- The bursts of a channel wait for its peripheral's request (R342). -/
def State.paced (s : State) (n : Nat) : Bool := ((s.ch n).word 0).getLsbD 28 && s.rf (F.CH_CFG_REQ n) != 0

/-- A request that goes away before the last beat of its burst is counted (R342). -/
def State.lateCounted (s : State) (n : Nat) (withdrawn : Bool) : State :=
  if s.paced n && withdrawn then s.wf (F.CH_CNT_LATEWD n) (min (s.rf (F.CH_CNT_LATEWD n) + 1) 0xFFFF) else s

theorem lateCounted_counts (s : State) (n : Nat) (withdrawn : Bool) :
    let t := s.lateCounted n withdrawn
    t.rf (F.CH_CNT_LATEWD n) =
        (if s.paced n && withdrawn then min (s.rf (F.CH_CNT_LATEWD n) + 1) 0xFFFF else s.rf (F.CH_CNT_LATEWD n)) ∧
      t.dma = s.dma ∧ t.mem = s.mem ∧ t.ecc = s.ecc ∧ RegsBut [R.CH_CNT n] s t := by
  unfold State.lateCounted
  split
  · have hlt : min (s.rf (F.CH_CNT_LATEWD n) + 1) 0xFFFF < 2 ^ 16 := Nat.lt_of_le_of_lt (Nat.min_le_right ..) (by decide)
    exact ⟨(rf_wf_same s (F.CH_CNT_LATEWD n) _ (by decide : 16 ≤ 31) (by decide : 31 < 32)).trans (Nat.mod_eq_of_lt hlt),
      wf_dma .., wf_mem .., setReg_ecc .., RegsBut.refl.wf (f := F.CH_CNT_LATEWD n) (List.mem_singleton_self _)⟩
  · exact ⟨rfl, rfl, rfl, rfl, .refl⟩

/-- Counting a withdrawn request leaves what the burst reads and where it writes. -/
theorem lateCounted_keeps (s : State) (n : Fin 128) (withdrawn : Bool) :
    let t := s.lateCounted n.val withdrawn
    t.ch n.val = s.ch n.val ∧ t.burstSpan n.val = s.burstSpan n.val ∧ SameAnswers s t ∧ t.mem = s.mem ∧
      (∀ a len, t.eccBad a len = s.eccBad a len) := by
  intro t
  have hn := n.isLt
  obtain ⟨-, hdma, hmem, hecc, hregs⟩ := lateCounted_counts s n.val withdrawn
  have hchan : t.ch n.val = s.ch n.val := ch_congr hdma _
  have hburst : t.rf (F.CH_CFG_BURST n.val) = s.rf (F.CH_CFG_BURST n.val) :=
    hregs.rf (by simp [F.CH_CFG_BURST, R.CH_CFG, R.CH_CNT]) (not_evrAddr_array (by decide))
  refine ⟨hchan, by rw [State.burstSpan, State.burstSpan, hburst, hchan], sameAnswers_of_regsBut hregs ?_, hmem,
    fun a len => by rw [State.eccBad, State.eccBad, hecc]⟩
  simp [R.CH_CNT, R.SYS_STEPOK, R.DRC_STAT, R.DRC_DUMP, R.DRC_DUMP_BASE, R.DRC_DUMP_SIZE]
  omega

/-- A channel in RUN that obtains a mover, for a descriptor that has begun, uses no check unit and writes to addresses that
advance (R341, R342). -/
structure BurstGranted (s : State) (n : Fin 128) (request : Bool) : Prop where
  firmware : 12 ≤ n.val
  on : s.rb F.DMA_CTRL_EN = true
  running : s.chState n.val = Cs.RUN
  unended : (s.ch n.val).ended = none
  begun : (s.ch n.val).begun = true
  requested : s.paced n.val = false ∨ request = true
  plain : ((s.ch n.val).word 0).getLsbD 21 = false
  advancing : ((s.ch n.val).word 0).getLsbD 24 = false

theorem exec_dmaBurst_waits {s : State} {n : Fin 128} {request : Bool} (hfw : 12 ≤ n.val)
    (h : s.rb F.DMA_CTRL_EN = false ∨ s.chState n.val ≠ Cs.RUN ∨ (s.paced n.val = true ∧ request = false)) (withdrawn : Bool)
    (fail : Fin 3) : exec (.dmaBurst n request withdrawn fail) s = .next s := by
  have hguard : (!s.rb F.DMA_CTRL_EN || s.chState n.val != Cs.RUN || (s.ch n.val).ended.isSome ||
      (s.paced n.val && !request)) = true := by
    obtain h | h | ⟨hpaced, hrequest⟩ := h
    · simp [h]
    · simp [h]
    · simp [hpaced, hrequest]
  exact (if_neg (by rw [isPath_of_firmware hfw]; exact Bool.false_ne_true)).trans (if_pos hguard)

/-- Where the next burst of a channel writes. -/
def burstDst (c : DmaChan) : Nat := dstOf (c.desc.getD []) + c.moved

/-- Where the next burst of a channel reads. -/
def burstSrc (c : DmaChan) : Nat := srcOf (c.desc.getD []) + c.moved

/-- What a burst that is whole leaves, beside the bytes that it writes (R341, R342). -/
structure BurstWhole (s t : State) (n : Nat) (withdrawn : Bool) : Prop where
  moved : (t.ch n).moved = (s.ch n).moved + s.burstSpan n
  outside : ∀ x, x < burstDst (s.ch n) ∨ burstDst (s.ch n) + s.burstSpan n ≤ x → t.byte x = s.byte x
  ended : (t.ch n).ended = if lenOf ((s.ch n).desc.getD []) ≤ (s.ch n).moved + s.burstSpan n then some St.OK else none
  late : t.rf (F.CH_CNT_LATEWD n) =
    if s.paced n && withdrawn then min (s.rf (F.CH_CNT_LATEWD n) + 1) 0xFFFF else s.rf (F.CH_CNT_LATEWD n)

namespace BurstGranted

variable {s : State} {n : Fin 128} {request : Bool} (h : BurstGranted s n request) (withdrawn : Bool)
include h

theorem exec_eq (hkind : kindOf ((s.ch n.val).word 0) ≠ 2) (fail : Fin 3) :
    exec (.dmaBurst n request withdrawn fail) s =
      .next ((s.lateCounted n.val withdrawn).burst n.val fail.val) := by
  have hguard : ¬ (!s.rb F.DMA_CTRL_EN || s.chState n.val != Cs.RUN || (s.ch n.val).ended.isSome ||
      (s.paced n.val && !request)) = true := by
    rw [h.on, h.running, h.unended]
    obtain hpaced | hrequest := h.requested
    · simp [hpaced]
    · simp [hrequest]
  have hbegin : s.burstBegin n.val = (s, true) :=
    (if_pos h.begun).trans (by rw [bne_iff_ne.mpr hkind, Bool.true_or])
  refine (if_neg (by rw [isPath_of_firmware h.firmware]; exact Bool.false_ne_true)).trans ((if_neg hguard).trans ?_)
  rw [hbegin]
  exact if_neg Bool.false_ne_true

/-- A granted burst whose bytes have been read moves them whole. -/
theorem moves {u : State} {l : List Byte} (hkind : kindOf ((s.ch n.val).word 0) ≠ 2)
    (hin : (s.lateCounted n.val withdrawn).burstIn (s.ch n.val) (s.burstSpan n.val) = (u, .ok l))
    (hlen : l.length = s.burstSpan n.val) (hregion : regionOf (burstDst (s.ch n.val)) (s.burstSpan n.val) ≠ some 2)
    (hwrite : s.writable Ini.DMA (burstDst (s.ch n.val)) (s.burstSpan n.val) = true)
    (hanswers : SameAnswers (s.lateCounted n.val withdrawn) u)
    (hmem : u.mem = (s.lateCounted n.val withdrawn).mem)
    (hregs : RegsBut storeRegs (s.lateCounted n.val withdrawn) u) :
    let t := (s.lateCounted n.val withdrawn).burst n.val 0
    (∀ j b, l[j]? = some b → t.byte (burstDst (s.ch n.val) + j) = b) ∧ BurstWhole s t n.val withdrawn := by
  obtain ⟨hchan, hspan, hsame, hbytes, -⟩ := lateCounted_keeps s n withdrawn
  obtain ⟨hlate, -⟩ := lateCounted_counts s n.val withdrawn
  generalize s.lateCounted n.val withdrawn = r at *
  have hmoves := burst_moves (s := r) (u := u) (l := l) n.isLt
  rw [hchan, hspan] at hmoves
  obtain ⟨hafter, hinside, houtside, hcnt⟩ := hmoves h.unended hkind h.plain h.advancing hin hlen hregion
    ((hsame.trans hanswers).writable .. |>.trans hwrite) hmem hregs
  exact ⟨hinside, by rw [hafter]; rfl, fun x hx => (houtside x hx).trans (sameBytes_of_mem hbytes x), by rw [hafter]; rfl,
    hcnt.trans hlate⟩

/-- A FILL writes its pattern (R335, R341). -/
theorem fills (hkind : kindOf ((s.ch n.val).word 0) = 1) (hregion : regionOf (burstDst (s.ch n.val)) (s.burstSpan n.val) ≠ some 2)
    (hwrite : s.writable Ini.DMA (burstDst (s.ch n.val)) (s.burstSpan n.val) = true) :
    let t := (s.lateCounted n.val withdrawn).burst n.val 0
    (∀ x, burstDst (s.ch n.val) ≤ x → x < burstDst (s.ch n.val) + s.burstSpan n.val →
      t.byte x = ((s.ch n.val).word 6).extractLsb' (8 * (x % 4)) 8) ∧ BurstWhole s t n.val withdrawn := by
  intro t
  obtain ⟨hinside, hwhole⟩ := h.moves withdrawn (by omega) (burstIn_fill _ hkind h.advancing _)
    (by rw [fillBytes, List.length_map, List.length_range]) hregion hwrite ⟨rfl, rfl, rfl, rfl, rfl, rfl⟩ rfl .refl
  refine ⟨fun x hlow hhigh => ?_, hwhole⟩
  obtain ⟨j, rfl⟩ := Nat.exists_eq_add_of_le hlow
  refine hinside j _ ?_
  rw [fillBytes, List.getElem?_map, List.getElem?_range (by omega)]
  rfl

/-- A COPY between memories that reads sound words copies its bytes (R341). -/
theorem copies (hkind : kindOf ((s.ch n.val).word 0) = 0) (hsrc : ((s.ch n.val).word 0).getLsbD 25 = false)
    (hfrom : regionOf (burstSrc (s.ch n.val)) (s.burstSpan n.val) ≠ some 2)
    (hread : s.readable (burstSrc (s.ch n.val)) (s.burstSpan n.val) = true)
    (hclean : s.eccBad (burstSrc (s.ch n.val)) (s.burstSpan n.val) = false)
    (hregion : regionOf (burstDst (s.ch n.val)) (s.burstSpan n.val) ≠ some 2)
    (hwrite : s.writable Ini.DMA (burstDst (s.ch n.val)) (s.burstSpan n.val) = true) :
    let t := (s.lateCounted n.val withdrawn).burst n.val 0
    (∀ j, j < s.burstSpan n.val → t.byte (burstDst (s.ch n.val) + j) = s.byte (burstSrc (s.ch n.val) + j)) ∧
      BurstWhole s t n.val withdrawn := by
  intro t
  obtain ⟨-, -, hsame, hbytes, hsound⟩ := lateCounted_keeps s n withdrawn
  have hin := (burstIn_copy _ hkind hsrc (s.burstSpan n.val)).trans
    (dmaRead_of_clean hfrom ((hsame.readable ..).trans hread) ((hsound ..).trans hclean))
  obtain ⟨hinside, hwhole⟩ := h.moves withdrawn (by omega) hin (length_bytes ..) hregion hwrite (sameAnswers_eccRead ..)
    (eccRead_mem ..) ((regsBut_eccRead _ _ _ _).weaken (by simp [storeRegs]))
  refine ⟨fun j hj => ?_, hwhole⟩
  rw [bytes_congr hbytes] at hinside
  exact hinside j _ (getElem?_bytes s hj)

section
variable (hkind : kindOf ((s.ch n.val).word 0) = 0) (hsrc : ((s.ch n.val).word 0).getLsbD 25 = false)
  (hfrom : regionOf (burstSrc (s.ch n.val)) (s.burstSpan n.val) ≠ some 2)
include hkind hsrc hfrom

omit h in
/-- A COPY whose read ends with a bus error writes nothing (R349). -/
theorem copy_read_fault :
    let t := (s.lateCounted n.val withdrawn).burst n.val 1
    (t.ch n.val).ended = some St.HW ∧ (t.ch n.val).moved = (s.ch n.val).moved ∧ SameBytes s t := by
  obtain ⟨hchan, hspan, -, hbytes, -⟩ := lateCounted_keeps s n withdrawn
  have hfault := burst_of_read_fault (s := s.lateCounted n.val withdrawn) (n := n.val)
  rw [hchan, hspan, burstIn_copy _ hkind hsrc] at hfault
  rw [hfault]
  obtain ⟨hended, hmoved, hmem⟩ := chEnd_ends (State.dmaRead _ _ _).1 n.val (s.ch n.val) St.HW
  exact ⟨hended, hmoved, sameBytes_of_mem (hmem.trans ((dmaRead_mem hfrom).trans hbytes))⟩

variable (hread : s.readable (burstSrc (s.ch n.val)) (s.burstSpan n.val) = true)
include hread

omit h in
/-- A COPY that reads a word that is not sound ends with CHECK, and writes nothing (R349). -/
theorem copy_checks (hbad : s.eccBad (burstSrc (s.ch n.val)) (s.burstSpan n.val) = true) :
    let t := (s.lateCounted n.val withdrawn).burst n.val 0
    (t.ch n.val).ended = some St.CHECK ∧ (t.ch n.val).moved = (s.ch n.val).moved ∧ SameBytes s t := by
  obtain ⟨hchan, hspan, hsame, hbytes, hsound⟩ := lateCounted_keeps s n withdrawn
  have hin := (burstIn_copy (s.lateCounted n.val withdrawn) hkind hsrc (s.burstSpan n.val)).trans
    (dmaRead_of_bad hfrom ((hsame.readable ..).trans hread) ((hsound ..).trans hbad))
  have hunread := burst_of_unread (s := s.lateCounted n.val withdrawn) (n := n.val) (hchan.symm ▸ hspan.symm ▸ hin)
  rw [hchan] at hunread
  rw [hunread]
  obtain ⟨hended, hmoved, hmem⟩ := chEnd_ends (State.eccRead _ _ _ _) n.val (s.ch n.val) St.CHECK
  exact ⟨hended, hmoved, sameBytes_of_mem (hmem.trans ((eccRead_mem ..).trans hbytes))⟩

/-- A COPY whose write ends with a bus error may have written of its bytes, and no others (R349). -/
theorem copy_write_fault (hclean : s.eccBad (burstSrc (s.ch n.val)) (s.burstSpan n.val) = false) :
    let t := (s.lateCounted n.val withdrawn).burst n.val 2
    (t.ch n.val).ended = some St.HW ∧ (t.ch n.val).moved = (s.ch n.val).moved ∧
      ∀ x, x < burstDst (s.ch n.val) ∨ burstDst (s.ch n.val) + s.burstSpan n.val ≤ x → t.byte x = s.byte x := by
  obtain ⟨hchan, hspan, hsame, hbytes, hsound⟩ := lateCounted_keeps s n withdrawn
  generalize s.lateCounted n.val withdrawn = r at *
  have hin := (burstIn_copy r hkind hsrc (s.burstSpan n.val)).trans
    (dmaRead_of_clean hfrom ((hsame.readable ..).trans hread) ((hsound ..).trans hclean))
  obtain ⟨hfailed, houtside⟩ := burstOut_fails (r.eccRead Ini.DMA (burstSrc (s.ch n.val)) (s.burstSpan n.val))
    (r.bytes (burstSrc (s.ch n.val)) (s.burstSpan n.val)) h.advancing
  have hfault := burst_of_write_fault (s := r) (n := n.val) (u := r.eccRead Ini.DMA (burstSrc (s.ch n.val)) (s.burstSpan n.val))
    (l := r.bytes (burstSrc (s.ch n.val)) (s.burstSpan n.val))
  rw [hchan, hspan] at hfault
  rw [hfault (by omega) hin hfailed]
  obtain ⟨hended, hmoved, hmem⟩ := chEnd_ends (State.burstOut _ _ _ _).1 n.val (s.ch n.val) St.HW
  rw [length_bytes] at houtside
  exact ⟨hended, hmoved, fun x hx => (sameBytes_of_mem hmem x).trans
    ((houtside x hx).trans (sameBytes_of_mem ((eccRead_mem ..).trans hbytes) x))⟩

end

end BurstGranted

/-! ### Units of INJECT frames -/

section
variable {s : State} {n : Fin 128} (hfw : 12 ≤ n.val) (hrun : s.chState n.val = Cs.RUN) (hended : (s.ch n.val).ended = none)
  (hkind : kindOf ((s.ch n.val).word 0) = 2) (hbegun : (s.ch n.val).begun = true) (hwait : (s.ch n.val).charged = false)
include hfw hrun hended hkind hbegun hwait

/-- An INJECT that waits for its units obtains them all, or goes on waiting (R340). -/
theorem exec_injectUnitsGrant : exec (.injectUnitsGrant n) s =
    match s.charge (10 + s.rf (F.CH_CFG_IPORT n.val)) (unitsOf (lenOf ((s.ch n.val).desc.getD []))) with
    | none => .next s
    | some u => .next (u.setCh n.val { s.ch n.val with charged := true }) := by
  have hguard : ¬ (isPath n.val || s.chState n.val != Cs.RUN || (s.ch n.val).ended.isSome || kindOf ((s.ch n.val).word 0) != 2 ||
      !(s.ch n.val).begun || (s.ch n.val).charged) = true := by
    rw [isPath_of_firmware hfw, hrun, hended, hkind, hbegun, hwait]
    decide
  exact (if_neg hguard).trans rfl

end

/-! ### The end of a descriptor -/

theorem byte_chUnknown_of_outside {b : Nat} :
    ∀ {k : Nat} {s : State} {a : Nat}, b < a ∨ a + 4 * k ≤ b → (s.chUnknown a k).byte b = s.byte b
  | 0, _, _, _ => rfl
  | k + 1, s, a, h => by
    have hrest : (s.used.chUnknown a k).byte b = s.used.byte b := byte_chUnknown_of_outside (by omega)
    exact (byte_writeN_of_outside (by omega)).trans hrest

/-- The words of a descriptor whose hand-back fails are in an unknown state (R337). -/
def State.chSpoiled (s : State) (n st : Nat) (a : Nat) : State :=
  if (s.chReleased n st).writable Ini.DMA a 32 then (s.chReleased n st).chUnknown a 8 else s.chReleased n st

theorem chSpoiled_spoils (s : State) (n st a : Nat) :
    (∀ b, b < a ∨ a + 32 ≤ b → (s.chSpoiled n st a).byte b = s.byte b) ∧
      ∀ b, 0x40020000 ≤ b ∧ b < 0x40030000 → (s.chSpoiled n st a).reg b = s.reg b := by
  have hbytes : ∀ b, (s.chReleased n st).byte b = s.byte b := sameBytes_of_mem (chReleased_within s n st .mem rfl)
  have hregs : ∀ b, 0x40020000 ≤ b ∧ b < 0x40030000 → (s.chReleased n st).reg b = s.reg b := fun b hb =>
    regsBut_chReleased s n st b (fun h => absurd (injectRegs_bounds h).1 (by omega)) (not_evrAddr_of_ge hb.1)
  unfold State.chSpoiled
  split
  · have hunknown : ((s.chReleased n st).chUnknown a 8).regs = (s.chReleased n st).regs :=
      Within.chUnknown (m := 524290) (.refl _) ⟨rfl⟩ .regs rfl
    exact ⟨fun b hb => (byte_chUnknown_of_outside (by omega)).trans (hbytes b), fun b hb =>
      (RegsBut.of_eq (l := []) hunknown b List.not_mem_nil (not_evrAddr_of_ge hb.1)).trans (hregs b hb)⟩
  · exact ⟨fun b _ => hbytes b, hregs⟩

theorem chClose_of_bad (s : State) (n : Nat) {st : Nat} (h : st ≠ St.OK) (code : Nat) (irq : Bool) :
    s.chClose n st code irq = ((s.wf (F.CH_STAT_LSTATUS n) code).chCause n (F.CH_STAT_ERRC n)).chBoundary n true := if_pos h

/-- A hand-back that ends with a bus error halts the channel with HW; beside the descriptor no byte changes (R337, R349). -/
theorem chComplete_fails {s : State} {n : Nat} (hn : n < 128) (st : Nat) :
    (∀ b, b < s.chAt n ∨ s.chAt n + 32 ≤ b → (s.chComplete n st true).byte b = s.byte b) ∧
      DescriptorOver n St.HW St.HW s (s.chComplete n st true) := by
  have hrow : s.chComplete n st true = ((s.chSpoiled n st (s.chAt n)).chAdvance n).chClose n St.HW St.HW false := by
    rw [chClose_of_bad _ _ (by decide), State.chComplete]
    simp only [Bool.true_or, if_true]
    rfl
  obtain ⟨hbytes, hregs⟩ := chSpoiled_spoils s n st (s.chAt n)
  rw [hrow]
  obtain ⟨hover, hmem⟩ := chAdvance_chClose_over hn St.HW St.HW false hregs
  exact ⟨fun b hb => (sameBytes_of_mem hmem b).trans (hbytes b hb), hover⟩

theorem exec_descriptorComplete {s : State} {n : Fin 128} {st : Nat} (hfw : 12 ≤ n.val) (hrun : s.chState n.val = Cs.RUN)
    (hended : (s.ch n.val).ended = some st) (fail : Bool) :
    exec (.descriptorComplete n fail) s = .next (s.chComplete n.val st fail) := by
  have hguard : ¬ (isPath n.val || s.chState n.val != Cs.RUN) = true := by
    rw [isPath_of_firmware hfw, hrun]
    decide
  refine (if_neg hguard).trans ?_
  rw [hended]

/-! ### Start strobes -/

theorem dmaStrobe_untriggered {s : State} {n : Nat} (h : s.rb (F.CH_CFG_TRIG n) = false) (t : Nat) : s.dmaStrobe n t = s :=
  if_pos (by rw [h, Bool.not_false, Bool.or_true])

theorem dmaStrobe_triggered {s : State} {n : Nat} (hfw : 12 ≤ n) (h : s.rb (F.CH_CFG_TRIG n) = true) (t : Nat) :
    s.dmaStrobe n t = if s.chState n = Cs.ARMED then s.chTrigger n t
      else (s.wf (F.CH_CNT_TRIGMISS n) (min (s.rf (F.CH_CNT_TRIGMISS n) + 1) 0xFFFF)).chCause n (F.CH_STAT_TRIGMISS n) :=
  if_neg (by rw [isPath_of_firmware hfw, h]; exact Bool.false_ne_true)

/-- A strobe that meets no ARMED channel is counted as missed (R343). -/
theorem trigger_missed (s : State) {n : Nat} (hn : n < 128) :
    let t := (s.wf (F.CH_CNT_TRIGMISS n) (min (s.rf (F.CH_CNT_TRIGMISS n) + 1) 0xFFFF)).chCause n (F.CH_STAT_TRIGMISS n)
    t.rf (F.CH_CNT_TRIGMISS n) = min (s.rf (F.CH_CNT_TRIGMISS n) + 1) 0xFFFF ∧ t.rb (F.CH_STAT_TRIGMISS n) = true ∧
      t.chState n = s.chState n ∧ t.dma = s.dma ∧ RegsBut [R.CH_STAT n, R.CH_CNT n] s t ∧ SameBytes s t := by
  intro t
  let counted := s.wf (F.CH_CNT_TRIGMISS n) (min (s.rf (F.CH_CNT_TRIGMISS n) + 1) 0xFFFF)
  have hcounted : RegsBut [R.CH_CNT n] s counted := RegsBut.refl.wf (f := F.CH_CNT_TRIGMISS n) (List.mem_singleton_self _)
  have hnoted : RegsBut [R.CH_STAT n] counted t := RegsBut.refl.chCause (f := F.CH_STAT_TRIGMISS n) (List.mem_singleton_self _) hn
  have hlt : min (s.rf (F.CH_CNT_TRIGMISS n) + 1) 0xFFFF < 2 ^ 16 := Nat.lt_of_le_of_lt (Nat.min_le_right ..) (by decide)
  have hcount : counted.rf (F.CH_CNT_TRIGMISS n) = min (s.rf (F.CH_CNT_TRIGMISS n) + 1) 0xFFFF :=
    (rf_wf_same s (F.CH_CNT_TRIGMISS n) _ (by decide : 0 ≤ 15) (by decide : 15 < 32)).trans (Nat.mod_eq_of_lt hlt)
  refine ⟨?count, rb_chCause_same _ hn rfl (by decide : 26 < 32) (not_evrAddr_array (by decide)), ?state, ?dma,
    (hcounted.weaken (by simp)).trans (hnoted.weaken (by simp)), sameBytes_of_mem ?mem⟩
  case count =>
    exact (hnoted.rf (by simp [F.CH_CNT_TRIGMISS, R.CH_CNT, R.CH_STAT]) (not_evrAddr_array (by decide))).trans hcount
  case state =>
    exact (rf_chCause_apart counted hn (Fld.apart_of_bits (by decide) : Fld.Apart (F.CH_STAT_TRIGMISS n) (F.CH_STAT_STATE n))
      (not_evrAddr_array (by decide))).trans
      (hcounted.rf (by simp [R.CH_CNT, R.CH_STAT]) (not_evrAddr_array (by decide)))
  case dma => exact (raise_dma ..).trans ((wf_dma ..).trans (wf_dma ..))
  case mem => exact (raise_mem ..).trans ((wf_mem ..).trans (wf_mem ..))

/-! ### The obligation -/

/-- Settles O46, along the course of a descriptor. -/
theorem dmaTransfers : Obligations.DmaTransfers := by
  unfold Obligations.DmaTransfers
  intro s n hfw k c a outside
  have hn : k < 128 := n.isLt
  refine ⟨fun i v hmay hring => ?doorbell, fun hidle hwait => ?fetch, fun request withdrawn hended hbegun hplain => ?burst,
    fun hrun hended hkind hbegun hwait => ?grant, fun st hrun hended hw => ?complete, fun stamp => ?strobe⟩
  case doorbell =>
    have hexec : exec (.doorbell i n v) s = .next (State.chDoorbell k v s) :=
      congrArg Host.Outcome.next (onWrite_of_mayWrite s i _ _ hmay)
    refine ⟨fun hidle => ?rings, fun hother => hexec.trans (congrArg Host.Outcome.next (chDoorbell_of_other hfw hother))⟩
    case rings =>
      obtain ⟨hparked, hbell, hregs⟩ := chDoorbell_rings hfw hring hidle
      exact ⟨_, hexec, hparked, hbell, hregs, sameBytes_of_exec hexec (by simp [touched])⟩
  case fetch =>
    refine ⟨fun hread hclean => ⟨fun hown hok => ?good, fun hown hbad => ?bad, fun hown => ?unowned⟩, fun hw hfault => ?fault,
      fun hread hbad => ?check⟩
    case good =>
      have hexec := exec_descriptorFetch_sound hfw hidle hwait hread hclean
      rw [if_pos hown] at hexec
      obtain ⟨hcheck, hchan, -, -⟩ := fetched_kept s hn (s.words a 8)
      obtain ⟨hstate, hdesc, hopen, hmoved⟩ := chTake_of_good (hcheck.trans hok)
      rw [hchan] at hstate
      exact ⟨_, hexec, hstate, hdesc, hopen, hmoved, sameBytes_of_exec hexec (by simp [touched])⟩
    case bad =>
      have hexec := exec_descriptorFetch_sound hfw hidle hwait hread hclean
      rw [if_pos hown] at hexec
      obtain ⟨hcheck, -, -, -⟩ := fetched_kept s hn (s.words a 8)
      obtain ⟨hstate, hstatus, hmoved⟩ := chTake_of_bad (hcheck ▸ hbad)
      exact ⟨_, hexec, hstate, hstatus.trans (congrArg some hcheck), hmoved, sameBytes_of_exec hexec (by simp [touched])⟩
    case unowned =>
      have hexec := exec_descriptorFetch_sound hfw hidle hwait hread hclean
      rw [if_neg (Bool.eq_false_iff.mp hown), ← apply_ite Host.Outcome.next] at hexec
      obtain ⟨hstate, hparked, hbell⟩ := unowned_waits s hn hidle hwait
      exact ⟨_, hexec, hstate, hparked, hbell, sameBytes_of_exec hexec (by simp [touched])⟩
    case fault =>
      obtain ⟨hstate, hstatus, herror, hregs, hmem⟩ := chHalt_halts s hn (st := St.HW) (by decide)
      exact ⟨_, exec_descriptorFetch_hw hfw hidle hwait hfault, hstate, hstatus, herror, hregs, sameBytes_of_mem hmem⟩
    case check =>
      obtain ⟨hstate, hstatus, -, hregs, hmem⟩ := chHalt_halts (s.eccRead Ini.DMA a 32) hn (st := St.CHECK) (by decide)
      obtain ⟨-, -, -, hhead⟩ := fetched_kept s hn []
      have hkept := hregs.reg (a := R.CH_HEAD k) (by simp [R.CH_HEAD, R.CH_STAT]) (not_evrAddr_array (by decide))
      exact ⟨_, exec_descriptorFetch_check hfw hidle hwait hread hbad, hstate, hstatus,
        (congrArg (fun w => bits w 11 0) hkept).trans hhead, sameBytes_of_mem (hmem.trans (eccRead_mem ..))⟩
  case burst =>
    intro paced d m src dst whole
    refine ⟨fun hwaits fail => exec_dmaBurst_waits hfw hwaits withdrawn fail,
      fun hon hrun hrequest hadvances hregion hwrite => ?granted⟩
    have hgranted : BurstGranted s n request := ⟨hfw, hon, hrun, hended, hbegun, hrequest, hplain, hadvances⟩
    have hmove : ∀ {j}, j < 2 → kindOf (c.word 0) = j → kindOf (c.word 0) ≠ 2 := fun hlt he h => by omega
    refine ⟨fun hkind => ?fill,
      fun hkind hsrc hfrom hread => ⟨fun hclean => ⟨?copy, ?writeFault⟩, ?readFault, fun hbad => ?check⟩⟩
    case fill =>
      obtain ⟨hinside, hmoved, houtside, hend, hlate⟩ := hgranted.fills withdrawn hkind hregion hwrite
      exact ⟨_, hgranted.exec_eq withdrawn (hmove (by decide) hkind) 0, hinside, hmoved, houtside, hend, hlate⟩
    case copy =>
      obtain ⟨hinside, hmoved, houtside, hend, hlate⟩ := hgranted.copies withdrawn hkind hsrc hfrom hread hclean hregion hwrite
      exact ⟨_, hgranted.exec_eq withdrawn (hmove (by decide) hkind) 0, hinside, hmoved, houtside, hend, hlate⟩
    case writeFault =>
      obtain ⟨hstatus, hmoved, houtside⟩ := hgranted.copy_write_fault withdrawn hkind hsrc hfrom hread hclean
      exact ⟨_, hgranted.exec_eq withdrawn (hmove (by decide) hkind) 2, hstatus, hmoved, houtside⟩
    case readFault =>
      exact ⟨_, hgranted.exec_eq withdrawn (hmove (by decide) hkind) 1, BurstGranted.copy_read_fault withdrawn hkind hsrc hfrom⟩
    case check =>
      exact ⟨_, hgranted.exec_eq withdrawn (hmove (by decide) hkind) 0, BurstGranted.copy_checks withdrawn hkind hsrc hfrom hread hbad⟩
  case grant =>
    have hexec := exec_injectUnitsGrant hfw hrun hended hkind hbegun hwait
    refine ⟨fun u hcharge => ?charged, fun hrefused => ?waits⟩
    case charged =>
      rw [hcharge] at hexec
      exact ⟨_, hexec, congrArg DmaChan.charged (ch_setCh ..), rfl, sameBytes_of_exec hexec (by simp [touched])⟩
    case waits =>
      rw [hrefused] at hexec
      exact hexec
  case complete =>
    intro x
    refine ⟨?handed, ?failed⟩
    case handed =>
      obtain ⟨hwritten, hover⟩ := chComplete_hands_back hn hw st
      have hstate := hover.state
      simp only [State.boundaryState, decide_eq_true_eq] at hstate
      exact ⟨_, exec_descriptorComplete hfw hrun hended false, hwritten.owner, hwritten.status, hwritten.final, hwritten.kept,
        hwritten.rest, hover.head, hover.status, hstate, hover.error, hover.stop, hover.pause⟩
    case failed =>
      obtain ⟨hbytes, hover⟩ := chComplete_fails (s := s) hn st
      exact ⟨_, exec_descriptorComplete hfw hrun hended true, hbytes, hover.head, hover.status, hover.state,
        hover.error (.inl (by decide))⟩
  case strobe =>
    have hexec : exec (.dmaTriggerStrobe n stamp) s = .next (s.dmaStrobe k stamp.toNat) := rfl
    refine ⟨fun hoff => hexec.trans (congrArg Host.Outcome.next (dmaStrobe_untriggered hoff _)), fun hon harmed hsaddle => ?runs,
      fun hon hother => ?missed⟩
    case runs =>
      rw [dmaStrobe_triggered hfw hon, if_pos harmed] at hexec
      exact ⟨_, hexec, chTrigger_runs stamp hsaddle⟩
    case missed =>
      rw [dmaStrobe_triggered hfw hon, if_neg hother] at hexec
      exact ⟨_, hexec, trigger_missed s hn⟩

end Sys2Proof.Machine
end

section
/-! PROOFS. System control: the start steps that a write clears (O59). -/

namespace Sys2Proof.Machine

/-- MC5 may write SYS_STEPCLR in `strayPool`. -/
theorem mayWrite_stepclr_strayPool : strayPool.MayWrite 9 R.SYS_STEPCLR := by decide +kernel

/-- Without bit 14, SYS_STEPOK of `strayPool` still holds bit 16. -/
theorem strayPool_steps_without_14 :
    (strayPool.regN R.SYS_STEPOK - (strayPool.regN R.SYS_STEPOK &&& 2 ^ 14)).testBit 16 = true := by
  decide +kernel

/-- Refutes O59: in `strayPool`, MC5 writes its own bit 14 to SYS_STEPCLR. Radio L is lost, the MPDU that it drops by number
gives its unit back to the stray pool, and bit 16 of SYS_STEPOK is cleared with bit 14. -/
theorem not_systemControl : ¬ Obligations.SystemControl := by
  unfold Obligations.SystemControl
  intro h
  obtain ⟨hsteps, -⟩ := h strayPool 9
  obtain ⟨-, hclear, -⟩ := hsteps (BitVec.ofNat 32 (2 ^ 14))
  obtain ⟨t, hexec, hword⟩ := hclear mayWrite_stepclr_strayPool (by decide)
  have ht : t = strayPool.stepsTo (strayPool.regN R.SYS_STEPOK - (strayPool.regN R.SYS_STEPOK &&& 2 ^ 14)) := by
    have hgranted : strayPool.onWrite 9 R.SYS_STEPCLR (State.stepWrite false 9 (BitVec.ofNat 32 (2 ^ 14))) =
        strayPool.stepWrite false 9 (BitVec.ofNat 32 (2 ^ 14)) := onWrite_of_mayWrite _ _ _ _ mayWrite_stepclr_strayPool
    exact (Host.Outcome.next.inj hexec).symm.trans (hgranted.trans (if_neg (by decide)))
  have hlost : t.step1 16 = false := ht ▸ stepsTo_strayPool_clears_16
  have hkept : t.step1 16 = true := by
    rw [State.step1, ← BitVec.testBit_toNat]
    exact (congrArg (fun n => Nat.testBit n 16) hword).trans strayPool_steps_without_14
  exact absurd (hlost.symm.trans hkept) Bool.false_ne_true

end Sys2Proof.Machine
end

section
/-! PROOFS. The external flash: the operations of XSPI (O60). -/

namespace Sys2Proof.Machine

/-! ### Sparse tables and flash contents -/

/-- A table without some keys reads at them as if they were unlisted, and elsewhere as before. -/
theorem get_drop {α : Type} (d : Nat → α) (p : Nat → Bool) (k : Nat) :
    ∀ t : Sparse α, Sparse.get d (Sparse.drop p t) k = if p k = true then d k else Sparse.get d t k
  | [] => (ite_self (d k)).symm
  | (a, v) :: t => by
    have ih := get_drop d p k t
    unfold Sparse.drop at ih ⊢
    by_cases hk : k = a
    · subst hk
      cases hp : p k with
      | true => simpa [hp] using ih
      | false => simp [hp, Sparse.get]
    · cases hp : p a with
      | true => simpa [hp, Sparse.get, hk] using ih
      | false => simpa [hp, Sparse.get, hk] using ih

theorem flashByte_setFlash (s : State) (a b : Nat) (v : Byte) :
    (s.setFlash a v).flashByte b = if b = a then v else s.flashByte b := Sparse.get_put ffByte ..

theorem flashByte_setFlashAll_of_outside {b : Nat} : ∀ {l : List Byte} {s : State} {a : Nat},
    b < a ∨ a + l.length ≤ b → (s.setFlashAll a l).flashByte b = s.flashByte b
  | [], _, _, _ => rfl
  | x :: xs, s, a, h => by
    rw [List.length_cons] at h
    rw [State.setFlashAll, flashByte_setFlashAll_of_outside (by omega), flashByte_setFlash, if_neg (by omega)]

theorem flashByte_flashProgram_of_outside {b : Nat} : ∀ {l : List Byte} {s : State} {a : Nat},
    b < a ∨ a + l.length ≤ b → (s.flashProgram a l).flashByte b = s.flashByte b
  | [], _, _, _ => rfl
  | x :: xs, s, a, h => by
    rw [List.length_cons] at h
    rw [State.flashProgram, flashByte_flashProgram_of_outside (by omega), flashByte_setFlash, if_neg (by omega)]

/-- A program clears bits and sets none. -/
theorem flashByte_flashProgram_of_inside {l : List Byte} {s : State} {a j : Nat} {b : Byte} (h : l[j]? = some b) :
    (s.flashProgram a l).flashByte (a + j) = s.flashByte (a + j) &&& b := by
  induction l generalizing s a j with
  | nil => cases h
  | cons x xs ih =>
    rw [State.flashProgram]
    cases j with
    | zero =>
      obtain rfl : x = b := Option.some.inj h
      rw [flashByte_flashProgram_of_outside (by omega), flashByte_setFlash, if_pos (Nat.add_zero a), Nat.add_zero]
    | succ j =>
      have hplace : a + (j + 1) = a + 1 + j := by omega
      rw [hplace, ih h, flashByte_setFlash, if_neg (by omega)]

theorem flashByte_flashErase (s : State) (a len b : Nat) :
    (s.flashErase a len).flashByte b = if a ≤ b ∧ b < a + len then 0xFF else s.flashByte b := by
  simp only [State.flashErase, State.flashByte, get_drop, decide_eq_true_eq]
  rfl

theorem flashByte_congr {s t : State} (h : t.flash = s.flash) (a : Nat) : t.flashByte a = s.flashByte a :=
  congrArg (fun f => Sparse.get ffByte f a) h

theorem length_flashBytes (s : State) : ∀ n a : Nat, (s.flashBytes a n).length = n
  | 0, _ => rfl
  | n + 1, a => congrArg Nat.succ (length_flashBytes s n (a + 1))

theorem length_freeBytes : ∀ (n : Nat) (s : State), (s.freeBytes n).1.length = n
  | 0, _ => rfl
  | n + 1, s => congrArg Nat.succ (length_freeBytes n s.used)

/-- Reading a range gives the list when each of its bytes stands at its place. -/
theorem bytes_eq_of_getElem? {s : State} : ∀ {l : List Byte} {a : Nat},
    (∀ j b, l[j]? = some b → s.byte (a + j) = b) → s.bytes a l.length = l
  | [], _, _ => rfl
  | x :: xs, a, h => by
    have hhead : s.byte a = x := h 0 x rfl
    have htail : s.bytes (a + 1) xs.length = xs := bytes_eq_of_getElem? fun j b hj => by
      rw [show a + 1 + j = a + (j + 1) by omega]
      exact h (j + 1) b hj
    rw [List.length_cons, State.bytes, hhead, htail]

/-- What an initiator has stored reads back (R413). -/
theorem bytes_store (s : State) (writer a : Nat) (l : List Byte) : (s.store writer a l).bytes a l.length = l :=
  bytes_eq_of_getElem? fun _ _ h => byte_store_of_inside h

theorem bump_xspi (s : State) (a : Nat) : (s.bump a).xspi = s.xspi := Within.bump (m := 1) (.refl s) ⟨rfl⟩ .xspi rfl

theorem bump_flash (s : State) (a : Nat) : (s.bump a).flash = s.flash := Within.bump (m := 1) (.refl s) ⟨rfl⟩ .flash rfl

/-! ### The status register -/

namespace RegsBut

variable {l : List Nat} {s t : State}

theorem setXspi {f : XspiSt → XspiSt} (h : RegsBut l s t) : RegsBut l s (t.setXspi f) := h

theorem xspiKeep (h : RegsBut l s t) (ha : R.XSPI_STAT ∈ l) : RegsBut l s t.xspiKeep :=
  (((h.wb ha).wb ha).wb ha).wf ha

end RegsBut

@[simp] theorem xspiKeep_xspi (s : State) : s.xspiKeep.xspi = s.xspi := rfl
@[simp] theorem xspiKeep_mem (s : State) : s.xspiKeep.mem = s.mem := rfl
@[simp] theorem xspiKeep_flash (s : State) : s.xspiKeep.flash = s.flash := rfl

theorem xspiKeep_idle (s : State) : s.xspiKeep.rb F.XSPI_STAT_IDLE = (s.xspi.run.isNone && s.xspi.queue.isEmpty) := by
  unfold State.xspiKeep
  extract_lets x idle wip
  rw [State.rb, rf_wf_apart _ _ (by decide), ← State.rb, rb_wb_apart _ _ (by decide), rb_wb_apart _ _ (by decide)]
  exact rb_wb_same _ _ rfl (by decide)

theorem xspiKeep_qlevel (s : State) : s.xspiKeep.rf F.XSPI_STAT_QLEVEL = s.xspi.queue.length % 2 ^ 5 :=
  rf_wf_same _ F.XSPI_STAT_QLEVEL _ (by decide) (by decide)

/-! ### A push -/

theorem exec_xspiOpPush {s : State} {i : Init} {v : Word} (h : s.MayWrite i R.XSPI_OP_PUSH) :
    exec (.xspiOpPush i v) s = .next (State.opPush v s) :=
  congrArg Host.Outcome.next (onWrite_of_mayWrite s i _ _ h)

theorem opPush_of_clear {s : State} {v : Word} (hv : v.getLsbD 0 = false) : State.opPush v s = s := by
  simp only [State.opPush, hv, Bool.not_false, if_true]

theorem opPush_of_refused {s : State} {v : Word} (hv : v.getLsbD 0 = true) (h : s.opCheck s.stagedOp ≠ St.OK) :
    State.opPush v s = s.refuse R.XSPI_ERR (s.opCheck s.stagedOp) 216 := by
  simp only [State.opPush, hv, h, Bool.not_true, Bool.false_eq_true, if_false]

theorem opPush_of_accepted {s : State} {v : Word} (hv : v.getLsbD 0 = true) (h : s.opCheck s.stagedOp = St.OK) :
    State.opPush v s = (s.setXspi (fun x => { x with queue := x.queue ++ [s.stagedOp] })).xspiKeep := by
  simp only [State.opPush, hv, h, Bool.not_true, Bool.false_eq_true, if_false, if_true]

theorem opCheck_of_kind {s : State} {o : FlashOp} (h : o.kind = 0 ∨ 4 < o.kind) : s.opCheck o = St.TYPE := if_pos h

/-- What a check answers is a status code (R9). -/
theorem opCheck_lt (s : State) (o : FlashOp) : s.opCheck o < 256 := by
  unfold State.opCheck
  repeat' split
  all_goals decide

/-- A push that passes its check finds room in the queue (R527). -/
theorem length_queue_of_opCheck {s : State} {o : FlashOp} (h : s.opCheck o = St.OK) : s.xspi.queue.length < 16 := by
  by_contra hfull
  unfold State.opCheck at h
  rw [if_pos (Nat.not_lt.mp hfull)] at h
  revert h
  repeat' split
  all_goals decide

theorem xspiOpPush_refused {s : State} {i : Init} {v : Word} (hi : s.MayWrite i R.XSPI_OP_PUSH) (hv : v.getLsbD 0 = true)
    (h : s.opCheck s.stagedOp ≠ St.OK) : Runs (.xspiOpPush i v) s fun t =>
      t.regN R.XSPI_ERR = 0x100 + s.opCheck s.stagedOp ∧ t.xspi = s.xspi ∧ RegsBut [R.XSPI_ERR] s t ∧ SameBytes s t := by
  obtain ⟨hcode, hregs⟩ := refuse_records s (e := R.XSPI_ERR) (code := s.opCheck s.stagedOp) (ev := 216)
    (not_evrAddr_of_ge (by decide)) (opCheck_lt _ _) (by decide)
  exact ⟨_, (exec_xspiOpPush hi).trans (congrArg _ (opPush_of_refused hv h)), hcode, raise_xspi .., hregs,
    sameBytes_of_mem (refuse_mem ..)⟩

theorem xspiOpPush_accepted {s : State} {i : Init} {v : Word} (hi : s.MayWrite i R.XSPI_OP_PUSH) (hv : v.getLsbD 0 = true)
    (h : s.opCheck s.stagedOp = St.OK) : Runs (.xspiOpPush i v) s fun t =>
      t.xspi = { s.xspi with queue := s.xspi.queue ++ [s.stagedOp] } ∧ t.rb F.XSPI_STAT_IDLE = false ∧
        t.rf F.XSPI_STAT_QLEVEL = s.xspi.queue.length + 1 ∧ RegsBut [R.XSPI_STAT] s t ∧ SameBytes s t := by
  have hroom := length_queue_of_opCheck h
  refine ⟨_, (exec_xspiOpPush hi).trans (congrArg _ (opPush_of_accepted hv h)), rfl, ?_, ?_,
    RegsBut.refl.setXspi.xspiKeep (by decide), sameBytes_of_mem rfl⟩
  · rw [xspiKeep_idle]
    simp
  · rw [xspiKeep_qlevel, setXspi_xspi, List.length_append, List.length_singleton]
    omega

/-! ### The start of an operation -/

/-- The operation that is taken next is in the queue, and no other is of higher priority. -/
theorem nextOp_highest {l : List FlashOp} {o : FlashOp} (h : nextOp l = some o) : o ∈ l ∧ ∀ x ∈ l, x.prio ≤ o.prio :=
  ⟨List.mem_of_find?_eq_some h, by simpa using List.find?_some h⟩

theorem suspender_outranks {s : State} {r o : FlashOp} (hr : s.xspi.run = some r) (h : s.suspender = some o) :
    o.kind = 1 ∧ r.prio < o.prio := by
  simp only [State.suspender, hr] at h
  split at h
  · obtain ⟨hmem, -⟩ := nextOp_highest h
    simpa using (List.mem_filter.mp hmem).2
  · cases h

theorem suspender_eq_none {s : State} {r : FlashOp} (hr : s.xspi.run = some r)
    (h : s.rb F.XSPI_CTRL_SUSP = false ∨ (r.kind ≠ 2 ∧ r.kind ≠ 3) ∨ s.xspi.susp.isSome) : s.suspender = none := by
  simp only [State.suspender, hr]
  refine if_neg fun hcan => ?_
  simp only [Bool.and_eq_true, Bool.or_eq_true, beq_iff_eq] at hcan
  obtain ⟨⟨hsusp, hkind⟩, hnone⟩ := hcan
  rcases h with h | h | h
  · rw [h] at hsusp
    cases hsusp
  · omega
  · rw [Option.isNone_iff_eq_none.mp hnone] at h
    cases h

theorem opStart_of_disabled {s : State} (kind : Nat) (h : s.rb F.XSPI_CTRL_EN = false) : s.opStart kind = s := by
  rw [State.opStart, h]
  rfl

theorem opStart_of_empty {s : State} (kind : Nat) (hen : s.rb F.XSPI_CTRL_EN = true) (hrun : s.xspi.run = none)
    (h : nextOp s.xspi.queue = none) : s.opStart kind = s := by
  simp [State.opStart, hen, hrun, h]

theorem opStart_of_next {s : State} {o : FlashOp} (kind : Nat) (hen : s.rb F.XSPI_CTRL_EN = true) (hrun : s.xspi.run = none)
    (h : nextOp s.xspi.queue = some o) : s.opStart kind =
      if o.kind = kind then (s.setXspi (fun x => { x with queue := x.queue.erase o, run := some o })).xspiKeep else s := by
  simp [State.opStart, hen, hrun, h]

theorem opStart_of_running {s : State} {r : FlashOp} (kind : Nat) (hen : s.rb F.XSPI_CTRL_EN = true)
    (hrun : s.xspi.run = some r) (h : s.suspender = none) : s.opStart kind = s := by
  simp [State.opStart, hen, hrun, h]

theorem opStart_of_suspender {s : State} {r o : FlashOp} (kind : Nat) (hen : s.rb F.XSPI_CTRL_EN = true)
    (hrun : s.xspi.run = some r) (h : s.suspender = some o) : s.opStart kind =
      if kind = 1 then
        ((s.setXspi (fun x => { x with queue := x.queue.erase o, run := some o, susp := some r })).bump
          R.XSPI_CNT_SUSP).xspiKeep
      else s := by
  simp [State.opStart, hen, hrun, h]

/-- The operation taken next runs. -/
theorem opStart_runs {s : State} {o : FlashOp} (hen : s.rb F.XSPI_CTRL_EN = true) (hrun : s.xspi.run = none)
    (h : nextOp s.xspi.queue = some o) {c : Instr} (hc : exec c s = .next (s.opStart o.kind)) :
    Runs c s fun t => t.xspi = { s.xspi with queue := s.xspi.queue.erase o, run := some o } ∧
      t.rb F.XSPI_STAT_IDLE = false ∧ RegsBut [R.XSPI_STAT] s t ∧ t.flash = s.flash ∧ SameBytes s t := by
  rw [opStart_of_next _ hen hrun h, if_pos rfl] at hc
  exact ⟨_, hc, rfl, xspiKeep_idle _, RegsBut.refl.setXspi.xspiKeep (by decide), rfl, sameBytes_of_mem rfl⟩

/-- A READ of higher priority runs, and the operation that ran is suspended. -/
theorem opStart_suspends {s : State} {r o : FlashOp} (hen : s.rb F.XSPI_CTRL_EN = true) (hrun : s.xspi.run = some r)
    (h : s.suspender = some o) {c : Instr} (hc : exec c s = .next (s.opStart 1)) :
    Runs c s fun t => t.xspi = { s.xspi with queue := s.xspi.queue.erase o, run := some o, susp := some r } ∧
      Counted R.XSPI_CNT_SUSP s t ∧ RegsBut [R.XSPI_STAT, R.XSPI_CNT_SUSP] s t ∧ t.flash = s.flash ∧ SameBytes s t := by
  rw [opStart_of_suspender _ hen hrun h, if_pos rfl] at hc
  refine ⟨_, hc, ?_, ?_, RegsBut.xspiKeep (.bump (.setXspi .refl) (by decide)) (by decide), ?_, ?_⟩
  · rw [xspiKeep_xspi, bump_xspi, setXspi_xspi]
  · refine Counted.andThen (l := [R.XSPI_STAT]) ?_ (RegsBut.xspiKeep .refl (by decide)) (by decide)
    exact Counted.after (l := []) (counted_bump _ _) (.setXspi .refl) (by decide)
  · rw [xspiKeep_flash, bump_flash, setXspi_flash]
  · exact sameBytes_of_mem (by rw [xspiKeep_mem, bump_mem, setXspi_mem])

/-! ### The effect of an operation -/

theorem opEffect_read {s : State} {o : FlashOp} (data : List Byte) (hkind : o.kind = 1) :
    s.opEffect o St.OK data = s.store Ini.XSPI o.addr (s.flashBytes o.off o.len) := by
  simp [State.opEffect, hkind]

theorem opEffect_program {s : State} {o : FlashOp} (data : List Byte) (hkind : o.kind = 2) :
    s.opEffect o St.OK data = (s.eccRead Ini.XSPI o.addr o.len).flashProgram o.off (s.bytes o.addr o.len) := by
  simp [State.opEffect, hkind]

theorem opEffect_erase {s : State} {o : FlashOp} (data : List Byte) (hkind : o.kind = 3) :
    s.opEffect o St.OK data = s.flashErase (opRange o).1 (opRange o).2 := by
  simp [State.opEffect, hkind]

theorem opEffect_raw {s : State} {o : FlashOp} (data : List Byte) (h1 : o.kind ≠ 1) (h2 : o.kind ≠ 2) (h3 : o.kind ≠ 3) :
    s.opEffect o St.OK data =
      s.setXspi (fun x => { x with txf := x.txf.drop o.len, rxf := x.rxf ++ data.take o.len }) := by
  simp [State.opEffect, h1, h2, h3]

theorem opEffect_failed {s : State} {o : FlashOp} {status : Nat} (data : List Byte) (hst : status ≠ St.OK) :
    s.opEffect o status data =
      if status = St.HW ∧ (o.kind = 2 ∨ o.kind = 3) then
        (s.freeBytes (opRange o).2).2.setFlashAll (opRange o).1 (s.freeBytes (opRange o).2).1
      else s := by
  simp [State.opEffect, hst]

/-- An operation that fails reads and writes no memory, and of the flash its own range at most. -/
theorem opEffect_failed_within {s : State} {o : FlashOp} {status m : Nat} (data : List Byte) (hst : status ≠ St.OK)
    (hm : Sub 67108864 m) : Within m s (s.opEffect o status data) := by
  rw [opEffect_failed data hst]
  exact .ite (.setFlashAll (.freeBytes (.refl s))) (.refl s)

theorem opEffect_failed_outside {s : State} {o : FlashOp} {status : Nat} (data : List Byte) (hst : status ≠ St.OK) {a : Nat}
    (ha : a < (opRange o).1 ∨ (opRange o).1 + (opRange o).2 ≤ a) :
    (s.opEffect o status data).flashByte a = s.flashByte a := by
  rw [opEffect_failed data hst]
  split
  · rw [flashByte_setFlashAll_of_outside (by rwa [length_freeBytes])]
    exact flashByte_congr (Within.freeBytes (m := 0) (.refl s) ⟨rfl⟩ .flash rfl) a
  · rfl

/-- What an operation leaves of XSPI beside its FIFOs, of grid time, and of the registers. -/
structure OpKeeps (s t : State) : Prop where
  run : t.xspi.run = s.xspi.run
  susp : t.xspi.susp = s.xspi.susp
  queue : t.xspi.queue = s.xspi.queue
  results : t.xspi.results = s.xspi.results
  gtu : t.gtu = s.gtu
  regs : RegsBut storeRegs s t

theorem OpKeeps.of_within {s t : State} (h : Within 70254611 s t) (hregs : RegsBut storeRegs s t) : OpKeeps s t := by
  have hx : t.xspi = s.xspi := h .xspi rfl
  exact ⟨by rw [hx], by rw [hx], by rw [hx], by rw [hx], h .gtu rfl, hregs⟩

theorem opEffect_keeps (s : State) (o : FlashOp) (status : Nat) (data : List Byte) :
    OpKeeps s (s.opEffect o status data) := by
  by_cases hst : status = St.OK
  · subst hst
    by_cases h1 : o.kind = 1
    · rw [opEffect_read data h1]
      exact .of_within (.store (.refl s)) (regsBut_store s _ _ _)
    by_cases h2 : o.kind = 2
    · rw [opEffect_program data h2]
      have hregs : ∀ u : State, (u.flashProgram o.off (s.bytes o.addr o.len)).regs = u.regs := fun u =>
        Within.flashProgram (m := 67108864) (.refl u) ⟨rfl⟩ .regs rfl
      exact .of_within (.flashProgram (.eccRead (.refl s)))
        (((regsBut_eccRead s Ini.XSPI o.addr o.len).weaken (by simp [storeRegs])).trans (regsBut_of_regs (hregs _)))
    by_cases h3 : o.kind = 3
    · rw [opEffect_erase data h3]
      exact .of_within (.flashErase (.refl s)) (regsBut_of_regs rfl)
    rw [opEffect_raw data h1 h2 h3]
    exact ⟨rfl, rfl, rfl, rfl, rfl, regsBut_of_regs rfl⟩
  · have hregs : (s.opEffect o status data).regs = s.regs := opEffect_failed_within (m := 67108864) data hst ⟨rfl⟩ .regs rfl
    exact .of_within (opEffect_failed_within data hst ⟨rfl⟩) (regsBut_of_regs hregs)

/-! ### The end of an operation -/

/-- The running operation is closed with a status: it is counted and reported, and a suspended one resumes. -/
def State.opClosed (s : State) (o : FlashOp) (status : Nat) : State :=
  let s := s.bump R.XSPI_CNT_OPS
  let u := (s.setXspi (fun x => { x with
    run := x.susp, susp := none,
    results := if x.results.length < 16 then x.results ++ [⟨o.tag, o.kind, status, s.gt⟩] else x.results })).xspiKeep
  if status = St.OK then u else (u.bump R.XSPI_CNT_FAIL).raise 216

theorem exec_xspiOpDone {s : State} {o : FlashOp} (h : s.xspi.run = some o) (fail : Fin 3) (data : List Byte) :
    exec (.xspiOpDone fail data) s =
      .next ((s.opEffect o (s.opStatus o fail.val) data).opClosed o (s.opStatus o fail.val)) := by
  have hrun : exec (.xspiOpDone fail data) s = execXspiOpDone fail data s := rfl
  rw [hrun, execXspiOpDone, h]
  exact (apply_ite Host.Outcome.next ..).symm

theorem opClosed_mem (s : State) (o : FlashOp) (status : Nat) : (s.opClosed o status).mem = s.mem := by
  unfold State.opClosed
  split
  · rw [xspiKeep_mem, setXspi_mem, bump_mem]
  · rw [raise_mem, bump_mem, xspiKeep_mem, setXspi_mem, bump_mem]

theorem opClosed_flash (s : State) (o : FlashOp) (status : Nat) : (s.opClosed o status).flash = s.flash := by
  unfold State.opClosed
  split
  · rw [xspiKeep_flash, setXspi_flash, bump_flash]
  · rw [raise_flash, bump_flash, xspiKeep_flash, setXspi_flash, bump_flash]

theorem opClosed_xspi (s : State) (o : FlashOp) (status : Nat) : (s.opClosed o status).xspi =
    { s.xspi with
      run := s.xspi.susp, susp := none,
      results := if s.xspi.results.length < 16 then s.xspi.results ++ [⟨o.tag, o.kind, status, s.gt⟩] else s.xspi.results } := by
  have hgt : (s.bump R.XSPI_CNT_OPS).gt = s.gt :=
    congrArg (fun g : GtuSt => BitVec.ofNat 64 (g.acc.toNat / 2 ^ 28)) (Within.bump (m := 1) (.refl s) ⟨rfl⟩ .gtu rfl)
  unfold State.opClosed
  split
  · rw [xspiKeep_xspi, setXspi_xspi, bump_xspi, hgt]
  · rw [raise_xspi, bump_xspi, xspiKeep_xspi, setXspi_xspi, bump_xspi, hgt]

theorem opClosed_counts (s : State) (o : FlashOp) (status : Nat) : Counted R.XSPI_CNT_OPS s (s.opClosed o status) := by
  unfold State.opClosed
  refine (counted_bump s R.XSPI_CNT_OPS).andThen (l := [R.XSPI_STAT, R.XSPI_CNT_FAIL]) (.ite ?_ ?_) (by decide)
  · exact .xspiKeep (.setXspi .refl) (by decide)
  · exact .raise (.bump (.xspiKeep (.setXspi .refl) (by decide)) (by decide)) (by decide)

theorem opClosed_counts_failure (s : State) (o : FlashOp) {status : Nat} (h : status ≠ St.OK) :
    Counted R.XSPI_CNT_FAIL s (s.opClosed o status) := by
  unfold State.opClosed
  rw [if_neg h]
  refine Counted.andThen (l := []) (.after (l := [R.XSPI_STAT, R.XSPI_CNT_OPS]) (counted_bump _ _) ?_ (by decide))
    (.raise .refl (by decide)) (by decide)
  exact .xspiKeep (.setXspi (.bump .refl (by decide))) (by decide)

theorem opClosed_byte (s : State) (o : FlashOp) (status a : Nat) : (s.opClosed o status).byte a = s.byte a :=
  sameBytes_of_mem (opClosed_mem s o status) a

theorem opClosed_flashByte (s : State) (o : FlashOp) (status a : Nat) : (s.opClosed o status).flashByte a = s.flashByte a :=
  flashByte_congr (opClosed_flash s o status) a

/-- What the end of an operation does to the queue, whatever the operation was (R511, R527). -/
theorem opEnded_queue (s : State) (o : FlashOp) (status : Nat) (data : List Byte) :
    let t := (s.opEffect o status data).opClosed o status
    t.xspi.run = s.xspi.susp ∧ t.xspi.susp = none ∧ t.xspi.queue = s.xspi.queue ∧ Counted R.XSPI_CNT_OPS s t ∧
      (status ≠ St.OK → Counted R.XSPI_CNT_FAIL s t) ∧
      t.xspi.results =
        (if s.xspi.results.length < 16 then s.xspi.results ++ [⟨o.tag, o.kind, status, s.gt⟩] else s.xspi.results) := by
  have h := opEffect_keeps s o status data
  have hgt : (s.opEffect o status data).gt = s.gt :=
    congrArg (fun g : GtuSt => BitVec.ofNat 64 (g.acc.toNat / 2 ^ 28)) h.gtu
  refine ⟨?_, ?_, ?_, (opClosed_counts _ o status).after h.regs (by decide),
    fun hst => (opClosed_counts_failure _ o hst).after h.regs (by decide), ?_⟩
  all_goals rw [opClosed_xspi]
  · exact h.susp
  · exact h.queue
  · rw [h.results, hgt]

theorem opEnded_read {s : State} {o : FlashOp} (data : List Byte) (hkind : o.kind = 1) :
    let t := (s.opEffect o St.OK data).opClosed o St.OK
    t.flash = s.flash ∧ t.bytes o.addr o.len = s.flashBytes o.off o.len ∧
      ∀ a, a < o.addr ∨ o.addr + o.len ≤ a → t.byte a = s.byte a := by
  have hlen : (s.flashBytes o.off o.len).length = o.len := length_flashBytes s _ _
  refine ⟨?_, ?_, fun a ha => ?_⟩
  · rw [opClosed_flash, opEffect_read data hkind]
    exact Within.store (m := 3145747) (.refl s) ⟨rfl⟩ .flash rfl
  · rw [bytes_congr (opClosed_mem _ o St.OK), opEffect_read data hkind]
    simpa only [hlen] using bytes_store s Ini.XSPI o.addr (s.flashBytes o.off o.len)
  · rw [opClosed_byte, opEffect_read data hkind]
    exact byte_store_of_outside (by rwa [hlen])

theorem opEnded_program {s : State} {o : FlashOp} (data : List Byte) (hkind : o.kind = 2) :
    let t := (s.opEffect o St.OK data).opClosed o St.OK
    SameBytes s t ∧
      (∀ k, k < o.len → t.flashByte (o.off + k) = s.flashByte (o.off + k) &&& s.byte (o.addr + k)) ∧
      ∀ a, a < o.off ∨ o.off + o.len ≤ a → t.flashByte a = s.flashByte a := by
  have hlen : (s.bytes o.addr o.len).length = o.len := length_bytes s _ _
  have hread : ∀ a, (s.eccRead Ini.XSPI o.addr o.len).flashByte a = s.flashByte a :=
    flashByte_congr (Within.eccRead (m := 3145745) (.refl s) ⟨rfl⟩ .flash rfl)
  refine ⟨fun a => ?_, fun k hk => ?_, fun a ha => ?_⟩
  · rw [opClosed_byte, opEffect_program data hkind]
    exact sameBytes_of_mem (Within.flashProgram (m := 70254609) (.eccRead (.refl s)) ⟨rfl⟩ .mem rfl) a
  · rw [opClosed_flashByte, opEffect_program data hkind, flashByte_flashProgram_of_inside (getElem?_bytes s hk), hread]
  · rw [opClosed_flashByte, opEffect_program data hkind, flashByte_flashProgram_of_outside (by rwa [hlen]), hread]

theorem opEnded_erase {s : State} {o : FlashOp} (data : List Byte) (hkind : o.kind = 3) :
    let t := (s.opEffect o St.OK data).opClosed o St.OK
    let b := o.off / 2 ^ o.len * 2 ^ o.len
    SameBytes s t ∧ (∀ a, b ≤ a → a < b + 2 ^ o.len → t.flashByte a = 0xFF) ∧
      ∀ a, a < b ∨ b + 2 ^ o.len ≤ a → t.flashByte a = s.flashByte a := by
  have hrange : opRange o = (o.off / 2 ^ o.len * 2 ^ o.len, 2 ^ o.len) := if_pos hkind
  refine ⟨fun a => ?_, fun a hlo hhi => ?_, fun a ha => ?_⟩
  · rw [opClosed_byte, opEffect_erase data hkind]
    rfl
  · rw [opClosed_flashByte, opEffect_erase data hkind, flashByte_flashErase, hrange, if_pos ⟨hlo, hhi⟩]
  · rw [opClosed_flashByte, opEffect_erase data hkind, flashByte_flashErase, hrange, if_neg (by omega)]

theorem opEnded_raw {s : State} {o : FlashOp} (data : List Byte) (hkind : o.kind = 4) :
    let t := (s.opEffect o St.OK data).opClosed o St.OK
    t.flash = s.flash ∧ SameBytes s t ∧ t.xspi.txf = s.xspi.txf.drop o.len ∧ t.xspi.rxf = s.xspi.rxf ++ data.take o.len := by
  have heffect := opEffect_raw (s := s) data (o := o) (by omega) (by omega) (by omega)
  refine ⟨?_, sameBytes_of_mem ?_, ?_, ?_⟩
  · rw [opClosed_flash, heffect, setXspi_flash]
  · rw [opClosed_mem, heffect, setXspi_mem]
  · rw [opClosed_xspi, heffect, setXspi_xspi]
  · rw [opClosed_xspi, heffect, setXspi_xspi]

theorem opEnded_failed {s : State} {o : FlashOp} {status : Nat} (data : List Byte) (hst : status ≠ St.OK) :
    let t := (s.opEffect o status data).opClosed o status
    SameBytes s t ∧ (∀ a, a < (opRange o).1 ∨ (opRange o).1 + (opRange o).2 ≤ a → t.flashByte a = s.flashByte a) ∧
      (status ≠ St.HW ∨ o.kind = 1 ∨ o.kind = 4 → t.flash = s.flash) := by
  refine ⟨sameBytes_of_mem ?_, fun a ha => ?_, fun hkept => ?_⟩
  · rw [opClosed_mem]
    exact opEffect_failed_within (m := 67108864) data hst ⟨rfl⟩ .mem rfl
  · rw [opClosed_flashByte, opEffect_failed_outside data hst ha]
  · rw [opClosed_flash, opEffect_failed data hst, if_neg (by omega)]

/-! ### The obligation -/

/-- The commands that take an operation from the queue, each with the kind it takes. -/
theorem exec_opStart (s : State) :
    ∀ p ∈ [(Instr.xspiRead, 1), (.xspiProgram, 2), (.xspiErase, 3), (.xspiRaw, 4)], exec p.1 s = .next (s.opStart p.2) := by
  simp only [List.forall_mem_cons, List.not_mem_nil, false_imp_iff, implies_true, and_true]
  exact ⟨rfl, rfl, rfl, rfl⟩

theorem xspiResultPop_empty {s : State} {i : Init} (hi : s.MayRead i R.XSPI_RES) (h : s.xspi.results = []) :
    exec (.xspiResultPop i) s = .next (s.answer i 0) := by
  refine congrArg Host.Outcome.next ((onRead_of_mayRead s i _ _ hi).trans ?_)
  rw [State.xspiPop, h]

theorem xspiResultPop_cons {s : State} {i : Init} {x : Res} {xs : List Res} (hi : s.MayRead i R.XSPI_RES)
    (h : s.xspi.results = x :: xs) : exec (.xspiResultPop i) s = .next ((s.setXspi (fun y => { y with results := xs })).answer i
      (BitVec.ofNat 32 (2 ^ 31 + x.tag * 2 ^ 16 + x.opc * 2 ^ 12 + x.status))) := by
  refine congrArg Host.Outcome.next ((onRead_of_mayRead s i _ _ hi).trans ?_)
  rw [State.xspiPop, h]

/-- Settles O60: a push by its check, a start by the queue and by what runs, an end by the kind and the status of the
operation, a read of XSPI_RES by the results that wait. -/
theorem flashOperations : Obligations.FlashOperations := by
  unfold Obligations.FlashOperations
  intro s i
  refine ⟨fun v hi => ⟨fun hv => ?_, xspiOpPush_refused hi, xspiOpPush_accepted hi⟩, fun o => opCheck_of_kind,
    fun p hp => ?_, fun fail data => ⟨fun hrun => ?_, fun o hrun => ?_⟩, fun hi => ⟨fun hnone => ?_, fun x xs hcons => ?_⟩⟩
  case refine_1 => rw [exec_xspiOpPush hi, opPush_of_clear hv]
  case refine_2 =>
    have hexec := exec_opStart s p hp
    refine ⟨fun hen => ?_, fun hen hrun => ⟨fun hempty => ?_, fun o ho => ⟨nextOp_highest ho, fun hkind => ?_, fun hkind => ?_⟩⟩,
      fun r hen hrun => ⟨fun hstays => ?_, fun o ho => ?_⟩⟩
    · rw [hexec, opStart_of_disabled _ hen]
    · rw [hexec, opStart_of_empty _ hen hrun hempty]
    · rw [hexec, opStart_of_next _ hen hrun ho, if_neg hkind]
    · exact opStart_runs hen hrun ho (hkind ▸ hexec)
    · rw [hexec, opStart_of_running _ hen hrun (suspender_eq_none hrun hstays)]
    · obtain ⟨hread, hprio⟩ := suspender_outranks hrun ho
      refine ⟨hread, hprio, fun hother => ?_, fun hone => ?_⟩
      · rw [hexec, opStart_of_suspender _ hen hrun ho, if_neg hother]
      · exact opStart_suspends hen hrun ho (hone ▸ hexec)
  case refine_3 =>
    have hexec : exec (.xspiOpDone fail data) s = execXspiOpDone fail data s := rfl
    rw [hexec, execXspiOpDone, hrun]
  case refine_4 =>
    intro st
    have hexec : exec (.xspiOpDone fail data) s = .next ((s.opEffect o st data).opClosed o st) := exec_xspiOpDone hrun fail data
    clear_value st
    obtain ⟨hran, hsusp, hqueue, hops, hfail, hresults⟩ := opEnded_queue s o st data
    refine ⟨_, hexec, hran, hsusp, hqueue, hops, hfail, hresults, fun hst hkind => ?_, fun hst hkind => ?_,
      fun hst hkind => ?_, fun hst hkind => ?_, opEnded_failed data⟩
    all_goals subst hst
    · exact opEnded_read data hkind
    · exact opEnded_program data hkind
    · exact opEnded_erase data hkind
    · exact opEnded_raw data hkind
  case refine_5 => exact ⟨_, xspiResultPop_empty hi hnone, rfl, rfl, rfl, sameBytes_of_mem rfl⟩
  case refine_6 => exact ⟨_, xspiResultPop_cons hi hcons, rfl, rfl, rfl, sameBytes_of_mem rfl⟩

end Sys2Proof.Machine
end

section
/-! PROOFS. Memory: what the initiators read and write (O12). -/

namespace Sys2Proof.Machine

/-! ### Reads through the code -/

theorem eccBad_of_eccKeys_nil {s : State} {a n : Nat} (h : s.eccKeys a n = []) : s.eccBad a n = false := by
  have hnone := List.filter_eq_nil_iff.mp (List.map_eq_nil_iff.mp h)
  refine List.any_eq_false.mpr fun e he hbad => ?_
  obtain ⟨-, hlo, hhi⟩ := of_decide_eq_true hbad
  exact hnone e he (decide_eq_true ⟨hlo, hhi⟩)

/-- A controller that is not in self-refresh is not touched by a request (R431). -/
theorem dramTouch_of_awake {s : State} {a : Nat} (h : isDram a = true → s.rf F.DRC_STAT_STATE = 2) : s.dramTouch a = s := by
  refine if_neg fun hasleep => ?_
  obtain ⟨hdram, hstate⟩ := Bool.and_eq_true_iff.mp hasleep
  rw [h hdram] at hstate
  cases hstate

theorem eccRead_of_clean {s : State} {a n : Nat} (reader : Nat) (hkeys : s.eccKeys a n = [])
    (hawake : isDram a = true → s.rf F.DRC_STAT_STATE = 2) : s.eccRead reader a n = s := by
  rw [State.eccRead, hkeys, State.eccWords, dramTouch_of_awake hawake, ite_self]

theorem memRead_of_clean {s : State} {i : Init} {a n : Nat} (hkeys : s.eccKeys a n = [])
    (hawake : isDram a = true → s.rf F.DRC_STAT_STATE = 2) : s.memRead i a n = s.emit (.memData i (s.bytes a n)) := by
  rw [State.memRead, eccBad_of_eccKeys_nil hkeys, eccRead_of_clean _ hkeys hawake]
  rfl

theorem memRead_of_bad {s : State} {i : Init} {a n : Nat} (hbad : s.eccBad a n = true) (hopen : inSecure a n = false) :
    s.memRead i a n = (s.eccRead i.val a n).busErr i a := by
  rw [State.memRead, hbad, hopen]
  rfl

/-! ### Accesses -/

section
variable {s : State} {i : Init} {a : BitVec 36}

theorem exec_read_of_readable {n : Nat} (hi : s.debugShut i.val = false) (h : s.readable a.toNat n = true) :
    exec (.memoryAccess i a (.read n)) s = .next (s.memRead i a.toNat n) := by
  have hrun : exec (.memoryAccess i a (.read n)) s = execMemoryAccess i a (.read n) s := rfl
  rw [hrun, execMemoryAccess, hi, h]
  rfl

theorem exec_read_of_unanswered {n : Nat} (h : s.readable a.toNat n = false) (hsecure : secureOf i.val a.toNat n = false) :
    exec (.memoryAccess i a (.read n)) s = .next (s.emit (.busError i a.toNat)) := by
  have hrun : exec (.memoryAccess i a (.read n)) s = execMemoryAccess i a (.read n) s := rfl
  rw [hrun, execMemoryAccess, h, hsecure, Bool.or_self, Bool.and_false]
  rfl

theorem exec_write_of_writable {d : List Byte} (hi : s.debugShut i.val = false)
    (h : s.writable i.val a.toNat d.length = true) :
    exec (.memoryAccess i a (.write d)) s = .next (s.store i.val a.toNat d) := by
  have hrun : exec (.memoryAccess i a (.write d)) s = execMemoryAccess i a (.write d) s := rfl
  rw [hrun, execMemoryAccess, hi, h]
  rfl

theorem exec_write_of_unanswered {d : List Byte} (h : s.writable i.val a.toNat d.length = false)
    (hsecure : secureOf i.val a.toNat d.length = false) :
    exec (.memoryAccess i a (.write d)) s = .next (s.emit (.busError i a.toNat)) := by
  have hrun : exec (.memoryAccess i a (.write d)) s = execMemoryAccess i a (.write d) s := rfl
  rw [hrun, execMemoryAccess, h, hsecure, Bool.or_self, Bool.and_false]
  rfl

end

/-- A byte after a store: inside the range the byte stored, outside it the byte that stood there (R413). -/
theorem byte_store (s : State) (writer a : Nat) (d : List Byte) (b : Nat) : (s.store writer a d).byte b =
    if a ≤ b ∧ b < a + d.length then d.getD (b - a) 0 else s.byte b := by
  split
  next hin =>
    have hplace : a + (b - a) = b := by omega
    have hget : d[b - a]? = some (d.getD (b - a) 0) := by
      rw [List.getD_eq_getElem?_getD, List.getElem?_eq_getElem (by omega), Option.getD_some]
    calc (s.store writer a d).byte b = (s.store writer a d).byte (a + (b - a)) := by rw [hplace]
      _ = d.getD (b - a) 0 := byte_store_of_inside hget
  next hout => exact byte_store_of_outside (by omega)

/-- Settles O12: the four cases of an access, by who answers its range and by what the code finds in it. -/
theorem memoryAccess : Obligations.MemoryAccess := by
  unfold Obligations.MemoryAccess
  intro s i a hi
  refine ⟨fun d h => ⟨_, exec_write_of_writable hi h, byte_store s _ _ d⟩, fun n h hkeys hawake => ?_,
    fun n h hopen hbad => ?_, fun n => exec_read_of_unanswered, fun d => exec_write_of_unanswered⟩
  · rw [exec_read_of_readable hi h, memRead_of_clean hkeys hawake]
  · exact ⟨_, (exec_read_of_readable hi h).trans (congrArg _ (memRead_of_bad hbad hopen)), rfl,
      sameBytes_of_mem (eccRead_mem ..)⟩

end Sys2Proof.Machine
end

section
/-! PROOFS. The care of memory: scrubbing, alarms, requests, refreshes, the basin and injection (O52). -/

namespace Sys2Proof.Machine

/-! ### The count of an event -/

theorem reg_pendAll_of_ge {n a : Nat} (hn : n < 256) (ha : 0x40010400 ≤ a) :
    ∀ (l : List Nat) (s : State), (∀ d ∈ l, d < 14) → (s.pendAll n l).reg a = s.reg a
  | [], _, _ => rfl
  | d :: l, s, hl => by
    obtain ⟨hd, hrest⟩ := List.forall_mem_cons.mp hl
    have hne : a ≠ R.EVR_PEND d (n / 32) := by
      unfold R.EVR_PEND
      omega
    rw [State.pendAll, reg_pendAll_of_ge hn ha l _ hrest]
    split
    · rw [reg_owePulse, State.pend, reg_setReg, if_neg hne]
    · rfl

theorem rf_cnt_raisePins (s : State) {n k : Nat} (hn : n < 256) : (s.raisePins n).rf (F.EVR_CNT_CNT k) =
    if k = n then (s.rf (F.EVR_CNT_CNT n) + 1) % 2 ^ 16 else s.rf (F.EVR_CNT_CNT k) := by
  have hplace : ∀ j, (F.EVR_CNT_CNT j).addr = 0x40010800 + 4 * j := fun _ => rfl
  have hpins : (s.raisePins n).rf (F.EVR_CNT_CNT k) = (s.countEvent n).rf (F.EVR_CNT_CNT k) := by
    rw [State.rf, State.raisePins, reg_pendAll_of_ge hn (by rw [hplace]; omega) _ _ dests_lt, State.rf]
  rw [hpins, State.countEvent]
  split
  next hk =>
    subst hk
    exact rf_wf_same s (F.EVR_CNT_CNT k) _ (Nat.zero_le 15) (by decide : 15 < 32)
  next hk =>
    exact rf_wf_apart s _ ⟨(by decide : 15 < 32), Nat.zero_le 15, Nat.zero_le 15, .inl (by rw [hplace, hplace]; omega)⟩

theorem rf_cnt_subscribe (s : State) {n k : Nat} (hlt : k < 256) (hk : k ≠ 11) :
    (s.subscribe n).rf (F.EVR_CNT_CNT k) = s.rf (F.EVR_CNT_CNT k) := by
  have hne : (F.EVR_CNT_CNT k).addr ≠ F.EVR_SUBSTAT_OVF.addr := by
    unfold F.EVR_CNT_CNT R.EVR_CNT F.EVR_SUBSTAT_OVF R.EVR_SUBSTAT
    dsimp only
    omega
  unfold State.subscribe
  split
  · rfl
  · split
    · rfl
    · rw [rf_cnt_raisePins _ (by decide), if_neg hk]
      exact rf_wf_apart s _ ⟨by decide, by decide, Nat.zero_le 15, .inl hne⟩

/-- Every occurrence of an event counts one in EVR_CNT, modulo 2^16 (R63). EV011 is left out: the FIFO's overflow may raise
it once more. -/
theorem rf_cnt_raise (s : State) {n : Nat} (hn : n < 256) (hovf : n ≠ 11) :
    (s.raise n).rf (F.EVR_CNT_CNT n) = (s.rf (F.EVR_CNT_CNT n) + 1) % 2 ^ 16 := by
  have hpins := (rf_cnt_raisePins s (k := n) hn).trans (if_pos rfl)
  unfold State.raise
  split
  · rw [rf_cnt_subscribe _ hn hovf, hpins]
  · exact hpins

/-! ### Words that a scrub read corrects -/

theorem exists_mem_of_get_ne {α : Type} {d : Nat → α} {k : Nat} : ∀ {t : Sparse α}, Sparse.get d t k ≠ d k → ∃ v, (k, v) ∈ t
  | [], h => absurd rfl h
  | (a, v) :: t, h => by
    rw [Sparse.get] at h
    split at h
    next hk => exact ⟨v, hk ▸ List.mem_cons_self⟩
    next =>
      obtain ⟨w, hw⟩ := exists_mem_of_get_ne h
      exact ⟨w, List.mem_cons_of_mem _ hw⟩

/-- A word whose code is not clean is among the words that a read of its place meets. -/
theorem mem_eccKeys {s : State} {a n : Nat} (hn : 0 < n) (h : s.eccOf a ≠ 0) : a / 8 ∈ s.eccKeys a n := by
  obtain ⟨v, hv⟩ := exists_mem_of_get_ne (d := fun _ => 0) (t := s.ecc) h
  exact List.mem_map.mpr ⟨_, List.mem_filter.mpr ⟨hv, decide_eq_true ⟨Nat.le_refl _, by omega⟩⟩, rfl⟩

theorem eccOf_congr {s t : State} (h : t.ecc = s.ecc) (a : Nat) : t.eccOf a = s.eccOf a := by rw [State.eccOf, h, State.eccOf]

theorem eccOf_eccWord (s : State) (reader k j : Nat) : (s.eccWord reader k).eccOf (8 * j) =
    if j = k ∧ s.eccOf (8 * k) = 1 then 0 else s.eccOf (8 * j) := by
  have hput : (s.setEcc (8 * k) 0).eccOf (8 * j) = if j = k then 0 else s.eccOf (8 * j) := by
    have hplace : 8 * j / 8 = 8 * k / 8 ↔ j = k := by omega
    simp only [State.eccOf, State.setEcc, Sparse.putN, Sparse.getN, Sparse.get_put, hplace]
  unfold State.eccWord
  split
  next hclean => rw [if_neg (by omega)]
  next =>
    split
    next hone =>
      rw [eccOf_congr (Within.noteCe (m := 2097153) (.refl _) ⟨rfl⟩ .ecc rfl), hput]
      simp only [hone, and_true]
    next hne => rw [eccOf_congr (Within.noteUe (m := 17) (.refl _) ⟨rfl⟩ .ecc rfl), if_neg (by omega)]

theorem eccOf_eccWords_of_clean (reader j : Nat) : ∀ (ks : List Nat) {s : State}, s.eccOf (8 * j) = 0 →
    (s.eccWords reader ks).eccOf (8 * j) = 0
  | [], _, h => h
  | k :: ks, s, h => eccOf_eccWords_of_clean reader j ks (by rw [eccOf_eccWord, h, ite_self])

/-- A correctable word that is read is written back corrected (R413, R416). -/
theorem eccOf_eccWords_of_correctable {reader j : Nat} {ks : List Nat} {s : State} (hmem : j ∈ ks)
    (h : s.eccOf (8 * j) = 1) : (s.eccWords reader ks).eccOf (8 * j) = 0 := by
  induction ks generalizing s with
  | nil => exact absurd hmem List.not_mem_nil
  | cons k ks ih =>
    have hword := eccOf_eccWord s reader k j
    rw [State.eccWords]
    by_cases hk : j = k
    · subst hk
      exact eccOf_eccWords_of_clean reader j ks (hword.trans (if_pos ⟨rfl, h⟩))
    · have hstands : (s.eccWord reader k).eccOf (8 * j) = 1 := by rw [hword, if_neg fun e => hk e.1, h]
      exact ih ((List.mem_cons.mp hmem).resolve_left hk) hstands

/-! ### Scrub reads -/

/-- A scrubber has read a range: corrections are counted, and the words corrected. -/
def State.scrubbed (s : State) (cnt a n : Nat) : State :=
  (s.bumpBy cnt (s.ceWords a n)).eccWords 0xFF (s.eccKeys a n)

theorem scrubbed_mem (s : State) (cnt a n : Nat) : (s.scrubbed cnt a n).mem = s.mem :=
  Within.eccWords (m := 3145745) (.bumpBy (.refl s)) ⟨rfl⟩ .mem rfl

theorem regsBut_scrubbed (s : State) (cnt a n : Nat) : RegsBut (cnt :: eccNoteRegs) s (s.scrubbed cnt a n) :=
  (RegsBut.refl.bumpBy List.mem_cons_self).trans ((regsBut_eccWords_notes _ _ _).weaken (List.subset_cons_self _ _))

theorem eccOf_scrubbed {s : State} {cnt a n : Nat} (hn : 0 < n) (h : s.eccOf a = 1) : (s.scrubbed cnt a n).eccOf a = 0 := by
  have hplace : ∀ t : State, t.eccOf (8 * (a / 8)) = t.eccOf a := fun t => by
    rw [State.eccOf, State.eccOf, Nat.mul_div_cancel_left _ (by decide)]
  have hdirty : s.eccOf a ≠ 0 := by rw [h]; decide
  rw [← hplace] at h ⊢
  exact eccOf_eccWords_of_correctable (mem_eccKeys hn hdirty) h

theorem scrubSram_of_inside {s : State} (h : s.rf F.SRM_POS_POS + 8 < sramSize) : s.scrubSram =
    ((s.scrubbed R.SRM_CNT_SCRUBCE (0x10000000 + s.rf F.SRM_POS_POS) 8).wf F.SRM_POS_POS (s.rf F.SRM_POS_POS + 8)).wf
      F.SRM_STAT_PROG ((s.rf F.SRM_POS_POS + 8) * 65536 / sramSize) := if_pos h

/-- The SRAM scrubber begins a pass: position and progress are zero, and the pass is not behind. -/
def State.sramPassBegins (s : State) : State := ((s.wf F.SRM_POS_POS 0).wf F.SRM_STAT_PROG 0).wb F.SRM_STAT_BEHIND false

theorem scrubSram_of_end {s : State} (h : sramSize ≤ s.rf F.SRM_POS_POS + 8) : ∃ f : DrcSt → DrcSt, s.scrubSram =
    ((s.scrubbed R.SRM_CNT_SCRUBCE (0x10000000 + s.rf F.SRM_POS_POS) 8).sramPassBegins.bump R.SRM_CNT_PASS).setDrc f :=
  ⟨_, if_neg (Nat.not_lt.mpr h)⟩

theorem scrubDram_by_place (s : State) : ∃ f : DrcSt → DrcSt, s.scrubDram =
    let u := s.scrubbed R.DRC_CNT_SCRUBCE (dramBase + 64 * s.rf F.DRC_SCRUBPOS_POS) 64
    if 64 * (s.rf F.DRC_SCRUBPOS_POS + 1) < u.fitted then u.wf F.DRC_SCRUBPOS_POS (s.rf F.DRC_SCRUBPOS_POS + 1)
    else ((u.wf F.DRC_SCRUBPOS_POS 0).wb F.DRC_STAT_BEHIND false).setDrc f := ⟨_, rfl⟩

namespace RegsBut

variable {l : List Nat} {s t : State}

theorem setDrc {f : DrcSt → DrcSt} (h : RegsBut l s t) : RegsBut l s (t.setDrc f) := h

end RegsBut

theorem fitted_scrubbed (s : State) (a n : Nat) : (s.scrubbed R.DRC_CNT_SCRUBCE a n).fitted = s.fitted := by
  have hdens : (s.scrubbed R.DRC_CNT_SCRUBCE a n).rf F.DRC_STAT_DENS = s.rf F.DRC_STAT_DENS :=
    RegsBut.rf (regsBut_scrubbed s R.DRC_CNT_SCRUBCE a n) (by decide) (not_evrAddr_of_ge (by decide))
  rw [State.fitted, State.usable, hdens, State.fitted, State.usable]

/-- What an SRAM scrub read leaves (R416, R417). -/
theorem scrubSram_moves (s : State) :
    s.scrubSram.rf F.SRM_POS_POS = (if s.rf F.SRM_POS_POS + 8 < sramSize then s.rf F.SRM_POS_POS + 8 else 0) ∧
      (s.eccOf (0x10000000 + s.rf F.SRM_POS_POS) = 1 → s.scrubSram.eccOf (0x10000000 + s.rf F.SRM_POS_POS) = 0) ∧
      (sramSize ≤ s.rf F.SRM_POS_POS + 8 → s.scrubSram.rb F.SRM_STAT_BEHIND = false ∧ Counted R.SRM_CNT_PASS s s.scrubSram) ∧
      SameBytes s s.scrubSram := by
  by_cases hin : s.rf F.SRM_POS_POS + 8 < sramSize
  · have hfits : s.rf F.SRM_POS_POS + 8 < 2 ^ 25 := Nat.lt_trans hin (by decide)
    rw [scrubSram_of_inside hin, if_pos hin]
    refine ⟨?_, fun h => eccOf_scrubbed (by decide) h, fun h => absurd hin (Nat.not_lt.mpr h),
      sameBytes_of_mem (scrubbed_mem ..)⟩
    rw [rf_wf_apart _ _ (by decide), rf_wf_same _ _ _ (by decide) (by decide)]
    exact Nat.mod_eq_of_lt hfits
  · obtain ⟨f, hend⟩ := scrubSram_of_end (Nat.not_lt.mp hin)
    rw [hend, if_neg hin]
    have hscrubbed := regsBut_scrubbed s R.SRM_CNT_SCRUBCE (0x10000000 + s.rf F.SRM_POS_POS) 8
    have hecc : s.eccOf (0x10000000 + s.rf F.SRM_POS_POS) = 1 → _ = _ := eccOf_scrubbed (cnt := R.SRM_CNT_SCRUBCE) (n := 8) (by decide)
    have hmem := scrubbed_mem s R.SRM_CNT_SCRUBCE (0x10000000 + s.rf F.SRM_POS_POS) 8
    generalize s.scrubbed R.SRM_CNT_SCRUBCE (0x10000000 + s.rf F.SRM_POS_POS) 8 = u at hscrubbed hecc hmem
    have hbegins : RegsBut [R.SRM_POS, R.SRM_STAT] u u.sramPassBegins :=
      ((RegsBut.refl.wf (by decide)).wf (by decide)).wb (by decide)
    have hcounted : RegsBut [R.SRM_CNT_PASS] u.sramPassBegins ((u.sramPassBegins.bump R.SRM_CNT_PASS).setDrc f) :=
      (RegsBut.refl.bump (List.mem_singleton_self _)).setDrc
    have hpass : Within 2097153 u ((u.sramPassBegins.bump R.SRM_CNT_PASS).setDrc f) :=
      .setDrc (.bump (.wb (.wf (.wf (.refl u)))))
    refine ⟨?_, fun h => ?_, fun _ => ⟨?_, ?_⟩, sameBytes_of_mem ((hpass .mem rfl).trans hmem)⟩
    · rw [hcounted.rf (by decide) (not_evrAddr_of_ge (by decide)), State.sramPassBegins, State.wb, rf_wf_apart _ _ (by decide),
        rf_wf_apart _ _ (by decide), rf_wf_same _ _ _ (by decide) (by decide)]
      rfl
    · rw [eccOf_congr (hpass .ecc rfl), hecc h]
    · rw [hcounted.rb (by decide) (not_evrAddr_of_ge (by decide)), State.sramPassBegins, rb_wb_same _ _ rfl (by decide)]
    · have hbump : Counted R.SRM_CNT_PASS u.sramPassBegins ((u.sramPassBegins.bump R.SRM_CNT_PASS).setDrc f) :=
        (counted_bump u.sramPassBegins R.SRM_CNT_PASS).andThen (l := []) (.setDrc .refl) (by decide)
      exact (hbump.after hbegins (by decide)).after hscrubbed (by decide)

/-- What a DRAM scrub read leaves (R416, R417). -/
theorem scrubDram_moves (s : State) :
    s.scrubDram.rf F.DRC_SCRUBPOS_POS =
        (if 64 * (s.rf F.DRC_SCRUBPOS_POS + 1) < s.fitted then (s.rf F.DRC_SCRUBPOS_POS + 1) % 2 ^ 28 else 0) ∧
      (s.eccOf (dramBase + 64 * s.rf F.DRC_SCRUBPOS_POS) = 1 → s.scrubDram.eccOf (dramBase + 64 * s.rf F.DRC_SCRUBPOS_POS) = 0) ∧
      SameBytes s s.scrubDram := by
  obtain ⟨f, hplace⟩ := scrubDram_by_place s
  rw [hplace]
  extract_lets u
  have hfitted : u.fitted = s.fitted := fitted_scrubbed ..
  have hecc : s.eccOf (dramBase + 64 * s.rf F.DRC_SCRUBPOS_POS) = 1 → u.eccOf (dramBase + 64 * s.rf F.DRC_SCRUBPOS_POS) = 0 :=
    eccOf_scrubbed (by decide)
  have hmem : u.mem = s.mem := scrubbed_mem ..
  clear_value u
  rw [hfitted]
  by_cases hin : 64 * (s.rf F.DRC_SCRUBPOS_POS + 1) < s.fitted
  · rw [if_pos hin, if_pos hin]
    exact ⟨rf_wf_same u F.DRC_SCRUBPOS_POS (s.rf F.DRC_SCRUBPOS_POS + 1) (by decide) (by decide), hecc, sameBytes_of_mem hmem⟩
  · rw [if_neg hin, if_neg hin]
    refine ⟨?_, hecc, sameBytes_of_mem hmem⟩
    have hset : ∀ v : State, (v.setDrc f).rf F.DRC_SCRUBPOS_POS = v.rf F.DRC_SCRUBPOS_POS := fun _ => rfl
    rw [hset, State.wb, rf_wf_apart _ _ (by decide), rf_wf_same _ _ _ (by decide) (by decide)]
    rfl

/-! ### Requests -/

/-- The activation table counts on while requests, open rows, results and training stand, and only the counts of neighbour
refreshes move (R426, R427). -/
structure ActivationOnly (s t : State) : Prop where
  reqs : t.drc.reqs = s.drc.reqs
  openRow : t.drc.openRow = s.drc.openRow
  results : t.drc.results = s.drc.results
  train : t.drc.train = s.drc.train
  regs : RegsBut [R.DRC_CNT_NREF, R.DRC_CNT_RFM] s t

namespace ActivationOnly

variable {s t u : State}

theorem trans (h : ActivationOnly s t) (g : ActivationOnly t u) : ActivationOnly s u :=
  ⟨g.reqs.trans h.reqs, g.openRow.trans h.openRow, g.results.trans h.results, g.train.trans h.train, h.regs.trans g.regs⟩

theorem ite {c : Prop} [Decidable c] (h : ActivationOnly s t) (g : ActivationOnly s u) : ActivationOnly s (if c then t else u) := by
  split
  · exact h
  · exact g

theorem raaCount (s : State) (bank row : Nat) : ActivationOnly s (s.raaCount bank row) := by
  unfold State.raaCount
  extract_lets l put m
  have hput : ∀ (v : State) (x : List (Nat × Nat)), ActivationOnly v (put v x) := fun _ _ => ⟨rfl, rfl, rfl, rfl, .setDrc .refl⟩
  clear_value put
  have hused : ActivationOnly s s.used := ⟨rfl, rfl, rfl, rfl, .used .refl⟩
  exact .ite (hput ..) (.ite (hput ..) (hused.trans (hput ..)))

theorem nrefs (s : State) {cnt : Nat} (n : Nat) (h : cnt ∈ [R.DRC_CNT_NREF, R.DRC_CNT_RFM]) :
    ActivationOnly s (s.nrefs cnt n) := ⟨rfl, rfl, rfl, rfl, (RegsBut.refl.bumpBy h).setDrc⟩

theorem raaServe (s : State) (bank row : Nat) : ActivationOnly s (s.raaServe bank row) := by
  unfold State.raaServe
  extract_lets l u
  have hu : ActivationOnly s u := .ite (.nrefs s _ (by decide)) (.nrefs s _ (by decide))
  clear_value u
  exact .ite (hu.trans ⟨rfl, rfl, rfl, rfl, .setDrc .refl⟩) ⟨rfl, rfl, rfl, rfl, .refl⟩

end ActivationOnly

theorem getN_putN (t : Sparse Nat) (k j v : Nat) :
    Sparse.getN (Sparse.putN t k v) j = if j = k then v else Sparse.getN t j := Sparse.get_put ..

/-- A request that is served has left the queue, and its row is open (R422). -/
theorem dramServe_opens (s : State) (r : DramReq) :
    (s.dramServe r).drc.reqs = s.drc.reqs.erase r ∧
      Sparse.getN (s.dramServe r).drc.openRow (bankKey r.offset) = dramRow r.offset + 1 ∧
      RegsBut [R.DRC_CNT_NREF, R.DRC_CNT_RFM] s (s.dramServe r) := by
  unfold State.dramServe
  extract_lets b hit taken opened
  split
  next hhit => exact ⟨rfl, beq_iff_eq.mp hhit, RegsBut.refl.setDrc.setDrc⟩
  next =>
    have hact := (ActivationOnly.raaCount opened b (dramRow r.offset)).trans (.raaServe _ b (dramRow r.offset))
    exact ⟨hact.reqs, by rw [hact.openRow]; exact (getN_putN ..).trans (if_pos rfl), RegsBut.refl.setDrc.setDrc.trans hact.regs⟩

theorem dramServe_stands (s : State) (r : DramReq) :
    (s.dramServe r).drc.results = s.drc.results ∧ (s.dramServe r).drc.train = s.drc.train := by
  unfold State.dramServe
  extract_lets b hit taken opened
  split
  · exact ⟨rfl, rfl⟩
  · have hact := (ActivationOnly.raaCount opened b (dramRow r.offset)).trans (.raaServe _ b (dramRow r.offset))
    exact ⟨hact.results, hact.train⟩

theorem exec_dramRequest_of_pick {s : State} {chan : Fin 4} {r : DramReq} (hrun : s.rf F.DRC_STAT_STATE = 2)
    (h : s.dramPick chan.val = some r) : exec (.dramRequest [] chan) s = .next (s.dramServe r) := by
  have hexec : exec (.dramRequest [] chan) s = execDramRequest [] chan s := rfl
  rw [hexec, execDramRequest, List.foldl_nil, h]
  exact if_pos hrun

theorem dramPick_of_empty {s : State} (h : s.drc.reqs = []) (chan : Nat) : s.dramPick chan = none := by
  rw [State.dramPick, h]
  rfl

/-- A controller that does not serve answers a request with a bus error, where its source takes one (R429). -/
theorem dramArrive_of_shut {s : State} (h : s.dramServes = false) (x : DramArrival) :
    s.dramArrive x = if hsrc : x.src.val < 21 then s.busErr ⟨x.src.val, hsrc⟩ (dramBase + x.offset.toNat) else s := by
  rw [State.dramArrive, h]
  rfl

theorem exec_dramRequest_of_shut {s : State} {chan : Fin 4} (hshut : s.dramServes = false) (hempty : s.drc.reqs = [])
    (x : DramArrival) : exec (.dramRequest [x] chan) s = .next (s.dramArrive x) := by
  have hexec : exec (.dramRequest [x] chan) s = execDramRequest [x] chan s := rfl
  have hreqs : (s.dramArrive x).drc.reqs = [] := by
    rw [dramArrive_of_shut hshut]
    split <;> exact hempty
  rw [hexec, execDramRequest, List.foldl_cons, List.foldl_nil, dramPick_of_empty hreqs]

/-! ### Registers written by initiators -/

/-- The register windows of the two memory controllers (R23). -/
def drcWindow : Window := ⟨6, 0x40060000, 0x4006FFFF, RegMap.drc⟩
def srmWindow : Window := ⟨7, 0x40070000, 0x4007FFFF, RegMap.srm⟩

/-- The row of DRC_DUMP (R439). -/
def dumpRow : RegRow := RegMap.row 0x68 [] [RegMap.f 31 31 .ro 0, RegMap.f 30 30 .w1c 0]

theorem writeReg_dump (s : State) (i : Nat) (v : Word) :
    s.writeReg i R.DRC_DUMP v = s.setReg R.DRC_DUMP (applyFields dumpRow.fields (s.reg R.DRC_DUMP) v (s.reg R.DRC_DUMP)) := by
  have hrow : findRow drcWindow.rows (R.DRC_DUMP - drcWindow.base) = some (dumpRow, []) := by decide
  have hkept : ∀ hi, absentField drcWindow.num (R.DRC_DUMP - drcWindow.base) hi = false := fun hi => by
    simp [absentField, drcWindow]
  rw [(writeReg_of_plain (s := s) (i := i) (v := v) rfl hrow hkept (by decide)).2]
  exact if_pos rfl

/-- A write of one to LOCK clears it and leaves RETAINED (R435). -/
theorem dumpUnlock_bits (s : State) (i : Nat) {v : Word} (hv : v.getLsbD 30 = true) :
    (s.writeReg i R.DRC_DUMP v).rf F.DRC_DUMP_LOCK = 0 ∧
      (s.writeReg i R.DRC_DUMP v).rf F.DRC_DUMP_RETAINED = s.rf F.DRC_DUMP_RETAINED := by
  have hwf : ∀ g ∈ dumpRow.fields, g.lo ≤ g.hi ∧ g.hi < 32 := by decide
  have hapart : dumpRow.fields.Pairwise RegField.Apart := by decide
  have hone : bits v 30 30 = 1 := beq_iff_eq.mp ((bits_bit_eq_one v 30).trans hv)
  have hold : bits (s.reg R.DRC_DUMP) 30 30 < 2 := Nat.mod_lt _ (by decide)
  have hret : bits (s.reg R.DRC_DUMP) 31 31 < 2 := Nat.mod_lt _ (by decide)
  have hfld : ∀ hi lo, (s.writeReg i R.DRC_DUMP v).rf ⟨R.DRC_DUMP, hi, lo⟩ =
      bits (applyFields dumpRow.fields (s.reg R.DRC_DUMP) v (s.reg R.DRC_DUMP)) hi lo := fun hi lo => by
    rw [writeReg_dump, State.rf, reg_setReg_same]
  rw [F.DRC_DUMP_LOCK, F.DRC_DUMP_RETAINED, hfld, hfld]
  constructor
  · refine (bits_applyFields (f := RegMap.f 30 30 .w1c 0) (by decide) hwf hapart).trans ?_
    simp only [RegField.after, RegMap.f, hone]
    rcases Nat.lt_or_eq_of_le (Nat.le_of_lt_succ hold) with h | h
    · rw [Nat.lt_one_iff.mp h]
      rfl
    · rw [h]
      rfl
  · refine (bits_applyFields (f := RegMap.f 31 31 .ro 0) (by decide) hwf hapart).trans ?_
    exact Nat.mod_eq_of_lt hret

/-- The control register of an injection. -/
def injCtrl (dram : Bool) : Nat := if dram then R.DRC_INJ_CTRL else R.SRM_INJ_CTRL

/-- The row of the control register of an injection (R438, R439). -/
def injRow (dram : Bool) : RegRow := RegMap.row (if dram then 0x8C else 0x34) []
  [RegMap.f 31 31 .w1s 0, RegMap.f 30 30 .rw 0, RegMap.fr 14 8 .rw 0 0 71, RegMap.fr 6 0 .rw 0 0 71]

theorem inRange_bit {hi lo : Nat} {v : Word} (h : bits v hi lo ≤ 71) : (RegMap.fr hi lo .rw 0 0 71).inRange v = true := by
  exact decide_eq_true ⟨Int.natCast_nonneg _, Int.ofNat_le.mpr h⟩

theorem injRow_inRange (dram : Bool) {v : Word} (h2 : bits v 14 8 ≤ 71) (h1 : bits v 6 0 ≤ 71) :
    fieldsInRange (injRow dram).fields v = true := by
  have hfree : ∀ hi lo acc, (RegMap.f hi lo acc 0).inRange v = true := fun _ _ _ => rfl
  simp only [injRow, RegMap.row, fieldsInRange, Bool.and_eq_true]
  exact ⟨hfree 31 31 .w1s, hfree 30 30 .rw, inRange_bit h2, inRange_bit h1, trivial⟩

theorem writeReg_inj (s : State) (i : Nat) (dram : Bool) {v : Word} (h2 : bits v 14 8 ≤ 71) (h1 : bits v 6 0 ≤ 71) :
    s.writeReg i (injCtrl dram) v =
      s.setReg (injCtrl dram) (applyFields (injRow dram).fields (s.reg (injCtrl dram)) v (s.reg (injCtrl dram))) := by
  have hranges := injRow_inRange dram h2 h1
  cases dram with
  | true =>
    have hrow : findRow drcWindow.rows (injCtrl true - drcWindow.base) = some (injRow true, []) := by decide
    have hkept : ∀ hi, absentField drcWindow.num (injCtrl true - drcWindow.base) hi = false := fun hi => by
      simp [absentField, drcWindow]
    rw [(writeReg_of_plain (s := s) (i := i) (v := v) rfl hrow hkept (by decide)).2, hranges]
    exact if_pos rfl
  | false =>
    have hrow : findRow srmWindow.rows (injCtrl false - srmWindow.base) = some (injRow false, []) := by decide
    have hkept : ∀ hi, absentField srmWindow.num (injCtrl false - srmWindow.base) hi = false := fun hi => by
      simp [absentField, srmWindow]
    rw [(writeReg_of_plain (s := s) (i := i) (v := v) rfl hrow hkept (by decide)).2, hranges]
    exact if_pos rfl

/-- An injection that may be armed is armed with its bits as written (R436). -/
theorem injArmed_bits (s : State) (i : Nat) (dram : Bool) {v : Word} (harm : v.getLsbD 31 = true) (h2 : bits v 14 8 ≤ 71)
    (h1 : bits v 6 0 ≤ 71) :
    let w := (s.writeReg i (injCtrl dram) v).reg (injCtrl dram)
    w.getLsbD 31 = true ∧ w.getLsbD 30 = v.getLsbD 30 ∧ bits w 6 0 = bits v 6 0 := by
  have hwf : ∀ g ∈ (injRow dram).fields, g.lo ≤ g.hi ∧ g.hi < 32 := by cases dram <;> decide
  have hapart : (injRow dram).fields.Pairwise RegField.Apart := by cases dram <;> decide
  rw [writeReg_inj s i dram h2 h1, reg_setReg_same]
  intro w
  have hfield : ∀ f ∈ (injRow dram).fields, bits w f.hi f.lo = f.after (s.reg (injCtrl dram)) v % 2 ^ (f.hi - f.lo + 1) :=
    fun f hf => bits_applyFields hf hwf hapart
  have hbit : ∀ (u : Word) (k : Nat), bits u k k = 1 ↔ u.getLsbD k = true := fun u k => by rw [← bits_bit_eq_one, beq_iff_eq]
  have hold : bits (s.reg (injCtrl dram)) 31 31 < 2 := Nat.mod_lt _ (by decide)
  refine ⟨?_, ?_, ?_⟩
  · refine (hbit w 31).mp ((hfield (RegMap.f 31 31 .w1s 0) List.mem_cons_self).trans ?_)
    simp only [RegField.after, RegMap.f, (hbit v 31).mpr harm]
    rcases Nat.lt_or_eq_of_le (Nat.le_of_lt_succ hold) with h | h
    · rw [Nat.lt_one_iff.mp h]
      rfl
    · rw [h]
      rfl
  · have hkept : bits w 30 30 = bits v 30 30 := (hfield (RegMap.f 30 30 .rw 0) (by cases dram <;> decide)).trans
      (Nat.mod_eq_of_lt (Nat.mod_lt _ (by decide)))
    rw [← bits_bit_eq_one, hkept, bits_bit_eq_one]
  · exact (hfield (RegMap.fr 6 0 .rw 0 0 71) (by cases dram <;> decide)).trans (Nat.mod_eq_of_lt (Nat.mod_lt _ (by decide)))

theorem injWrite_of_unusable {s : State} (i : Nat) {dram : Bool} {v : Word} (harm : v.getLsbD 31 = true)
    (h : s.injUnusable dram = true) : State.injWrite i dram v s =
      s.refuse (if dram then R.DRC_ERR else R.SRM_ERR) St.RANGE (if dram then 186 else 179) := by
  rw [State.injWrite, harm, h]
  rfl

theorem injWrite_of_usable {s : State} (i : Nat) {dram : Bool} (v : Word) (h : s.injUnusable dram = false) :
    State.injWrite i dram v s = s.writeReg i (injCtrl dram) v := by
  rw [State.injWrite, h, Bool.and_false]
  rfl

/-! ### The obligation -/

/-- An alarm clears what it counted, counts its event and changes nothing else (R418, R427). -/
theorem alarm_counts (s : State) (f : DrcSt → DrcSt) {n : Nat} (hn : n < 256) (hovf : n ≠ 11) :
    ((s.setDrc f).raise n).drc = f s.drc ∧
      ((s.setDrc f).raise n).rf (F.EVR_CNT_CNT n) = (s.rf (F.EVR_CNT_CNT n) + 1) % 2 ^ 16 ∧
      RegsBut [] s ((s.setDrc f).raise n) ∧ SameBytes s ((s.setDrc f).raise n) :=
  ⟨raise_drc .., rf_cnt_raise (s.setDrc f) hn hovf, (RegsBut.refl.setDrc).raise hn, sameBytes_of_mem (raise_mem ..)⟩

/-- A bit that is set before an event, in a register of its own (R417). -/
theorem wbRaise_sets (s : State) {f : Fld} {n : Nat} (hbit : f.hi = f.lo) (hwidth : f.hi < 32) (hf : ¬ evrAddr f.addr)
    (hn : n < 256) : ((s.wb f true).raise n).rb f = true ∧ RegsBut [f.addr] s ((s.wb f true).raise n) ∧
      SameBytes s ((s.wb f true).raise n) :=
  ⟨by rw [State.rb, rf_raise _ _ _ hn hf, ← State.rb, rb_wb_same _ _ hbit hwidth],
    (RegsBut.refl.wb (List.mem_singleton_self _)).raise hn, sameBytes_of_mem (raise_mem ..)⟩

/-- Settles O52: one lemma for each operation, cited under the condition that runs it. -/
theorem memoryCare : Obligations.MemoryCare := by
  unfold Obligations.MemoryCare
  refine fun s => ⟨fun dram h => if_pos (by rw [h]; rfl), fun h => ?sram, fun h => ?dram, fun h => ?overSram, fun h => ?overDram,
    ?window, fun h => ?ceSram, fun h => ?ceDram, fun h => ?nref, fun h => if_neg (Nat.not_lt.mpr h),
    fun h => if_neg (Nat.not_lt.mpr h), fun h => if_neg (Nat.not_lt.mpr h), fun chan r hrun hpick => ?served,
    fun chan x hshut hempty => ?shut, fun k r hk => ⟨fun hcls => ?promoted, fun hcls => ?kept⟩, fun chan bank hrun => ?refresh,
    fun codes hrun => ?mr4, ⟨_, rfl, rfl, rfl, fun _ => rfl⟩, fun i v hmay hv => ?unlock, fun i dram v => ?inject⟩
  case sram =>
    have hexec : exec (.scrubRead false) s = .next s.scrubSram := if_neg (by rw [h]; decide)
    exact ⟨_, hexec, scrubSram_moves s⟩
  case dram =>
    have hexec : exec (.scrubRead true) s = .next s.scrubDram := if_neg (by rw [h]; decide)
    exact ⟨_, hexec, scrubDram_moves s⟩
  case overSram => exact ⟨_, if_pos h, wbRaise_sets s rfl (by decide) (not_evrAddr_of_ge (by decide)) (by decide)⟩
  case overDram => exact ⟨_, if_pos h, wbRaise_sets s rfl (by decide) (not_evrAddr_of_ge (by decide)) (by decide)⟩
  case window =>
    intro p hp
    simp only [List.mem_cons, List.not_mem_nil, or_false] at hp
    rcases hp with rfl | rfl | rfl | rfl
    all_goals exact ⟨_, rfl, rb_wb_same _ _ rfl (by decide), RegsBut.refl.wb (List.mem_singleton_self _), rfl, fun _ => rfl⟩
  case ceSram => exact ⟨_, if_pos h, alarm_counts s _ (by decide) (by decide)⟩
  case ceDram => exact ⟨_, if_pos h, alarm_counts s _ (by decide) (by decide)⟩
  case nref => exact ⟨_, if_pos h, alarm_counts s _ (by decide) (by decide)⟩
  case served =>
    have hexec := exec_dramRequest_of_pick hrun hpick
    obtain ⟨hreqs, hrow, hregs⟩ := dramServe_opens s r
    exact ⟨_, hexec, hreqs, hrow, hregs, sameBytes_of_mem (Within.dramServe (m := 2097153) (.refl s) ⟨rfl⟩ .mem rfl)⟩
  case shut =>
    refine ⟨_, exec_dramRequest_of_shut hshut hempty x, ?_⟩
    rw [dramArrive_of_shut hshut]
    split
    next hsrc => exact ⟨rfl, rfl, fun _ => ⟨⟨x.src.val, hsrc⟩, rfl⟩, fun _ => rfl⟩
    next hsrc => exact ⟨rfl, rfl, fun h => absurd h hsrc, fun _ => rfl⟩
  case promoted =>
    let lowered := s.setDrc (fun d => { d with reqs := d.reqs.set k { r with cls := r.cls - 1 } })
    have hrun : exec (.requestPromote k) s = execRequestPromote k s := rfl
    have hexec : exec (.requestPromote k) s = .next (lowered.bump R.DRC_CNT_PROMOTE) := by
      rw [hrun, execRequestPromote, hk]
      exact if_pos hcls
    have hbump : Within 1 lowered (lowered.bump R.DRC_CNT_PROMOTE) := .bump (.refl _)
    exact ⟨_, hexec, hbump .drc rfl, (counted_bump lowered R.DRC_CNT_PROMOTE).after (l := []) (.setDrc .refl) (by decide),
      (RegsBut.setDrc .refl).bump (List.mem_singleton_self _), sameBytes_of_mem (hbump .mem rfl)⟩
  case kept =>
    have hrun : exec (.requestPromote k) s = execRequestPromote k s := rfl
    rw [hrun, execRequestPromote, hk]
    exact if_neg hcls
  case refresh =>
    have hexec : exec (.dramRefresh chan bank) s = .next (s.setDrc fun d => { d with
        openRow := Sparse.putN d.openRow (16 * chan.val + bank.val) 0,
        hits := Sparse.putN d.hits (16 * chan.val + bank.val) 0 }) := if_neg (not_not.mpr hrun)
    exact ⟨_, hexec, (getN_putN ..).trans (if_pos rfl), rfl, rfl, fun _ => rfl⟩
  case mr4 =>
    let u := s.setReg R.DRC_TEMP codes
    have hexec : exec (.mr4Poll codes) s = if rateAbove codes && codes != s.reg R.DRC_TEMP then .next (u.raise 187) else .next u :=
      if_neg (not_not.mpr hrun)
    have hset : u.reg R.DRC_TEMP = codes := reg_setReg_same ..
    have hregs : RegsBut [R.DRC_TEMP] s u := RegsBut.refl.setReg (List.mem_singleton_self _)
    split at hexec
    · exact ⟨_, hexec, (reg_raise _ _ _ (by decide) (not_evrAddr_of_ge (by decide))).trans hset, hregs.raise (by decide),
        sameBytes_of_mem (raise_mem ..)⟩
    · exact ⟨_, hexec, hset, hregs, fun _ => rfl⟩
  case unlock =>
    have hexec : exec (.dumpUnlock i v) s = .next (s.writeReg i.val R.DRC_DUMP v) :=
      congrArg Host.Outcome.next (onWrite_of_mayWrite s i _ _ hmay)
    obtain ⟨hlock, hretained⟩ := dumpUnlock_bits s i.val hv
    rw [writeReg_dump] at hexec hlock hretained
    exact ⟨_, hexec, by rw [State.rb, hlock]; rfl, by rw [State.rb, hretained, State.rb],
      RegsBut.refl.setReg (List.mem_singleton_self _), fun _ => rfl⟩
  case inject =>
    intro ctrl err hmay harm
    have hexec : exec (.injectArm i dram v) s = .next (State.injWrite i.val dram v s) :=
      congrArg Host.Outcome.next (onWrite_of_mayWrite s i _ _ hmay)
    refine ⟨fun hbad => ?_, fun hgood h2 h1 => ?_⟩
    · rw [injWrite_of_unusable _ harm hbad] at hexec
      have herr : ¬ evrAddr err := not_evrAddr_of_ge (by cases dram <;> decide)
      have hev : (if dram then 186 else 179) < 256 := by cases dram <;> decide
      obtain ⟨hset, hregs⟩ := refuse_records s herr (by decide : St.RANGE < 256) hev
      exact ⟨_, hexec, BitVec.eq_of_toNat_eq hset, hregs, sameBytes_of_mem (refuse_mem ..)⟩
    · rw [injWrite_of_usable _ v hgood] at hexec
      obtain ⟨hon, htwo, hbit1⟩ := injArmed_bits s i.val dram harm h2 h1
      have hregs : RegsBut [ctrl] s (s.writeReg i.val (injCtrl dram) v) ∧ SameBytes s (s.writeReg i.val (injCtrl dram) v) := by
        rw [writeReg_inj s _ dram h2 h1]
        exact ⟨RegsBut.refl.setReg (List.mem_singleton_self _), fun _ => rfl⟩
      exact ⟨_, hexec, hon, htwo, hbit1, hregs⟩

end Sys2Proof.Machine
end

section
/-! PROOFS. The DRAM controller: its commands, and training step by step (O53). -/

namespace Sys2Proof.Machine

/-! ### What a change of a start step leaves -/

/-- The states that follow readiness: those of the MACs and of Steppe (R35, R186). -/
def readyRegs : List Nat := [R.MAC_STAT .l, R.MAC_STAT .m, R.MAC_STAT .h, R.FMAC_STAT, R.STP_STAT]

/-- The registers that a change of start steps writes (R505). -/
def stepRegs : List Nat := R.SYS_STEPOK :: readyRegs

namespace RegsBut

variable {l : List Nat} {s t : State}

theorem syncState {k : Nat} {f : Fld} (h : RegsBut l s t) (ha : f.addr ∈ l) : RegsBut l s (t.syncState k f) :=
  ite (ite (h.wf ha) h) (ite h (h.wf ha))

theorem readyEvents (h : RegsBut l s t) (a b n : Nat) : RegsBut l s (t.readyEvents a b n) := by
  induction n with
  | zero => exact h
  | succ n ih => exact ite (ih.raise (by decide)) ih

theorem keepAllLim (h : RegsBut l s t) : RegsBut l s t.keepAllLim :=
  h.trans (.of_eq (Within.keepAllLim (m := 2) (.refl t) ⟨rfl⟩ .regs rfl))

end RegsBut

theorem regsBut_syncStates (s : State) : RegsBut readyRegs s s.syncStates := by
  have hmac : RegsBut readyRegs s (((s.syncState 14 (F.MAC_STAT_STATE .l)).syncState 15 (F.MAC_STAT_STATE .m)).syncState 16
      (F.MAC_STAT_STATE .h)) := ((RegsBut.refl.syncState (by decide)).syncState (by decide)).syncState (by decide)
  have hstp := (hmac.syncState (k := 18) (f := F.FMAC_STAT_STATE) (by decide)).syncState (k := 19) (f := F.STP_STAT_STATE)
    (by decide)
  exact .ite hstp (hstp.raise (by decide))

/-- What follows the write of the start steps leaves their register. -/
theorem regsBut_setSteps_written (s : State) (n : Nat) : RegsBut readyRegs (s.setRegN R.SYS_STEPOK n) (s.setSteps n) :=
  have hsync := regsBut_syncStates (s.setRegN R.SYS_STEPOK n)
  .ite (RegsBut.readyEvents hsync _ _ _) hsync

theorem regsBut_setSteps (s : State) (n : Nat) : RegsBut stepRegs s (s.setSteps n) :=
  (RegsBut.refl.setRegN List.mem_cons_self).trans ((regsBut_setSteps_written s n).weaken (List.subset_cons_self _ _))

/-- A start step that is set or cleared reads back. -/
theorem step1_setStep (s : State) {k : Nat} (hk : k < 32) (b : Bool) : (s.setStep k b).step1 k = b := by
  have hreg := (regsBut_setSteps_written s (setBits (s.reg R.SYS_STEPOK) k k (if b then 1 else 0)).toNat).reg
    (a := R.SYS_STEPOK) (by decide) (fun h => absurd h.2 (by decide))
  rw [State.step1, State.setStep, hreg, reg_setRegN, if_pos rfl, BitVec.ofNat_toNat, BitVec.setWidth_eq,
    getLsbD_setBits _ _ (Nat.le_refl k) hk, if_pos ⟨Nat.le_refl k, Nat.le_refl k⟩, Nat.sub_self]
  cases b <;> rfl

/-! ### A change of the controller's state -/

/-- The controller in its new state, before the start steps follow (R428). -/
def State.drcEntered (s : State) (st : Nat) : State :=
  let u := (s.wf F.DRC_STAT_STATE st).raise 185
  let v := if st = 2 ∨ st = 3 then u else u.setDrc (fun d => { d with openRow := [], hits := [], raa := [] })
  if st = 0 ∧ s.rf F.DRC_STAT_STATE ≠ 1 then v.dramLost else v

theorem drcEnter_of_ne {s : State} {st : Nat} (h : st ≠ s.rf F.DRC_STAT_STATE) :
    s.drcEnter st = ((s.drcEntered st).setStep Fn.DRAM (st == 2 || st == 3)).keepAllLim := if_neg h

theorem drcEnter_of_eq {s : State} {st : Nat} (h : st = s.rf F.DRC_STAT_STATE) : s.drcEnter st = s := if_pos h

/-- What the controller holds beside its banks, and grid time: results, training and requests (R422, R430, R432). -/
structure DrcHeld (s t : State) : Prop where
  results : t.drc.results = s.drc.results
  train : t.drc.train = s.drc.train
  reqs : t.drc.reqs = s.drc.reqs
  gtu : t.gtu = s.gtu

namespace DrcHeld

variable {s t u : State}

theorem refl : DrcHeld s s := ⟨rfl, rfl, rfl, rfl⟩

theorem trans (h : DrcHeld s t) (g : DrcHeld t u) : DrcHeld s u :=
  ⟨g.results.trans h.results, g.train.trans h.train, g.reqs.trans h.reqs, g.gtu.trans h.gtu⟩

theorem of_eq (hdrc : t.drc = s.drc) (hgtu : t.gtu = s.gtu) : DrcHeld s t := by
  refine ⟨?_, ?_, ?_, hgtu⟩
  all_goals rw [hdrc]

theorem gt (h : DrcHeld s t) : t.gt = s.gt := by rw [State.gt, h.gtu, State.gt]

end DrcHeld

theorem dramLost_drc (s : State) : s.dramLost.drc = s.drc := rfl

/-- What the change itself writes: the state, in DRC_STAT alone. -/
theorem drcEntered_holds (s : State) (st : Nat) :
    RegsBut [R.DRC_STAT] s (s.drcEntered st) ∧ DrcHeld s (s.drcEntered st) ∧
      ∀ g : Fld, g.addr = R.DRC_STAT → (s.drcEntered st).rf g = (s.wf F.DRC_STAT_STATE st).rf g := by
  unfold State.drcEntered
  extract_lets u v
  have hu : RegsBut [R.DRC_STAT] s u ∧ DrcHeld s u ∧ ∀ g : Fld, g.addr = R.DRC_STAT → u.rf g = (s.wf F.DRC_STAT_STATE st).rf g :=
    ⟨RegsBut.raise (n := 185) (.wf .refl (List.mem_singleton_self _)) (by decide), .of_eq (raise_drc ..) (raise_gtu ..), fun g hg =>
      rf_raise _ _ _ (by decide) (hg ▸ not_evrAddr_of_ge (by decide))⟩
  clear_value u
  have hv : RegsBut [R.DRC_STAT] s v ∧ DrcHeld s v ∧ ∀ g : Fld, g.addr = R.DRC_STAT → v.rf g = (s.wf F.DRC_STAT_STATE st).rf g := by
    obtain ⟨hregs, hheld, hfield⟩ := hu
    unfold v
    split
    · exact ⟨hregs, hheld, hfield⟩
    · exact ⟨hregs.setDrc, hheld.trans ⟨rfl, rfl, rfl, rfl⟩, hfield⟩
  clear_value v
  obtain ⟨hregs, hheld, hfield⟩ := hv
  split
  · exact ⟨hregs.trans (.of_eq rfl), hheld.trans ⟨rfl, rfl, rfl, rfl⟩, hfield⟩
  · exact ⟨hregs, hheld, hfield⟩

/-- A change of state is seen in DRC_STAT, whose other fields stand, and in the start steps (R428, R505). -/
structure DrcEnters (s t : State) (st : Nat) : Prop where
  state : t.rf F.DRC_STAT_STATE = st
  field : ∀ g : Fld, g.addr = R.DRC_STAT → g.lo ≤ g.hi ∧ g.hi < 29 → t.rf g = s.rf g
  regs : RegsBut (R.DRC_STAT :: stepRegs) s t
  held : DrcHeld s t

theorem drcEnter_enters (s : State) {st : Nat} (hst : st < 8) : DrcEnters s (s.drcEnter st) st := by
  by_cases h : st = s.rf F.DRC_STAT_STATE
  · rw [drcEnter_of_eq h]
    exact ⟨h.symm, fun _ _ _ => rfl, .refl, .refl⟩
  · rw [drcEnter_of_ne h]
    obtain ⟨hregs, hheld, hfield⟩ := drcEntered_holds s st
    generalize s.drcEntered st = u at hregs hheld hfield
    have hstep : RegsBut stepRegs u (u.setStep Fn.DRAM (st == 2 || st == 3)).keepAllLim := (regsBut_setSteps u _).keepAllLim
    have hframe : Within 19 u (u.setStep Fn.DRAM (st == 2 || st == 3)).keepAllLim := .keepAllLim (.setStep (.refl u))
    have hstat : ∀ g : Fld, g.addr = R.DRC_STAT →
        (u.setStep Fn.DRAM (st == 2 || st == 3)).keepAllLim.rf g = (s.wf F.DRC_STAT_STATE st).rf g := fun g hg => by
      rw [hstep.rf (hg ▸ by decide) (hg ▸ not_evrAddr_of_ge (by decide)), hfield g hg]
    refine ⟨?_, fun g hg hlow => ?_, ?_, hheld.trans (.of_eq (hframe .drc rfl) (hframe .gtu rfl))⟩
    · rw [hstat _ rfl, rf_wf_same _ _ _ (by decide) (by decide)]
      exact Nat.mod_eq_of_lt hst
    · rw [hstat g hg]
      exact rf_wf_apart s _ ⟨by decide, by decide, hlow.1, .inr (.inr hlow.2)⟩
    · exact (hregs.weaken (by decide)).trans (hstep.weaken (List.subset_cons_self _ _))

/-- The DRAM's start step holds in RUN and SRIDLE (R505). -/
theorem drcEnter_step1 {s : State} {st : Nat} (h : st ≠ s.rf F.DRC_STAT_STATE) :
    (s.drcEnter st).step1 Fn.DRAM = (st == 2 || st == 3) := by
  rw [drcEnter_of_ne h]
  have hlim : ∀ v : State, v.keepAllLim.step1 Fn.DRAM = v.step1 Fn.DRAM := fun v => by
    rw [State.step1, (RegsBut.refl.keepAllLim (l := [])).reg List.not_mem_nil (fun h => absurd h.2 (by decide)), State.step1]
  rw [hlim, step1_setStep _ (by decide)]

/-- Without records of Steppe no limit is rewritten with readiness. -/
theorem keepAllLim_of_no_recs {s : State} (h : s.stp.recs = []) : s.keepAllLim = s := by
  rw [State.keepAllLim, h, List.foldl_nil]

/-- Memory after a change of state: lost where the controller goes OFF from a state other than TRAIN (R428, R429). -/
theorem drcEnter_mem {s : State} {st : Nat} (hrecs : s.stp.recs = []) :
    (s.drcEnter st).mem = if st = 0 ∧ s.rf F.DRC_STAT_STATE ≠ 1 ∧ s.rf F.DRC_STAT_STATE ≠ 0 then s.dramLost.mem else s.mem := by
  by_cases h : st = s.rf F.DRC_STAT_STATE
  · rw [drcEnter_of_eq h, if_neg (by omega)]
  · have hentered : (s.drcEntered st).mem = if st = 0 ∧ s.rf F.DRC_STAT_STATE ≠ 1 then s.dramLost.mem else s.mem := by
      unfold State.drcEntered
      extract_lets u v
      have hu : u.mem = s.mem := raise_mem ..
      have hv : v.mem = s.mem := by
        unfold v
        split <;> exact hu
      split
      · exact congrArg (List.filter _) hv
      · exact hv
    have hstp : (s.drcEntered st).stp = s.stp := by
      unfold State.drcEntered
      extract_lets u v
      have hu : u.stp = s.stp := raise_stp ..
      have hv : v.stp = s.stp := by
        unfold v
        split <;> exact hu
      split <;> exact hv
    have hstep : Within 17 (s.drcEntered st) ((s.drcEntered st).setStep Fn.DRAM (st == 2 || st == 3)) := .setStep (.refl _)
    rw [drcEnter_of_ne h, keepAllLim_of_no_recs (by rw [hstep .stp rfl, hstp, hrecs]), hstep .mem rfl, hentered]
    split
    next hlost => rw [if_pos ⟨hlost.1, hlost.2, by omega⟩]
    next hkept => rw [if_neg (by omega)]

theorem byte_dramLost (s : State) {a : Nat} (h : a < dramBase) : s.dramLost.byte a = s.byte a :=
  (get_drop memDefault isDram a s.mem).trans (if_neg (by rw [isDram, decide_eq_false (Nat.not_le.mpr h)]; decide))

/-! ### Results -/

/-- A result is filed where the FIFO has room (R430). -/
def State.drcPosted (s : State) (tag opc status : Nat) : State :=
  if s.drc.results.length < 16 then s.setDrc (fun d => { d with results := d.results ++ [⟨tag, opc, status, s.gt⟩] }) else s

theorem drcDone_of_ne {s : State} {tag opc status : Nat} (h : status ≠ St.STATE) :
    s.drcDone tag opc status = s.drcPosted tag opc status := if_neg h

theorem drcDone_of_state (s : State) (tag opc : Nat) :
    s.drcDone tag opc St.STATE = ((s.drcPosted tag opc St.STATE).bump R.DRC_CNT_STATE).raise 186 := by
  rw [State.drcDone]
  exact if_pos rfl

/-- A result is in: it is filed, and counted where it is a rejection; the rest of the controller stands (R430). -/
structure DrcDone (s t : State) (tag opc status : Nat) : Prop where
  results : s.drc.results.length < 16 → t.drc.results = s.drc.results ++ [⟨tag, opc, status, s.gt⟩]
  train : t.drc.train = s.drc.train
  reqs : t.drc.reqs = s.drc.reqs
  mem : t.mem = s.mem
  regs : RegsBut [R.DRC_CNT_STATE] s t

theorem drcPosted_done (s : State) (tag opc status : Nat) :
    DrcDone s (s.drcPosted tag opc status) tag opc status ∧ (s.drcPosted tag opc status).regs = s.regs := by
  unfold State.drcPosted
  split
  next => exact ⟨⟨fun _ => rfl, rfl, rfl, rfl, .setDrc .refl⟩, rfl⟩
  next hfull => exact ⟨⟨fun h => absurd h hfull, rfl, rfl, rfl, .refl⟩, rfl⟩

theorem drcDone_done (s : State) (tag opc status : Nat) : DrcDone s (s.drcDone tag opc status) tag opc status := by
  obtain ⟨hdone, -⟩ := drcPosted_done s tag opc status
  by_cases h : status = St.STATE
  · subst h
    rw [drcDone_of_state]
    generalize s.drcPosted tag opc St.STATE = u at hdone
    have hcount : Within 17 u ((u.bump R.DRC_CNT_STATE).raise 186) := .raise (.bump (.refl u))
    have hdrc := hcount .drc rfl
    obtain ⟨hresults, htrain, hreqs, hmem, hregs⟩ := hdone
    refine ⟨fun hroom => ?_, ?_, ?_, (hcount .mem rfl).trans hmem,
      (hregs.bump (List.mem_singleton_self _)).raise (by decide)⟩
    · rw [hdrc, hresults hroom]
    · rw [hdrc, htrain]
    · rw [hdrc, hreqs]
  · rw [drcDone_of_ne h]
    exact hdone

theorem drcDone_regs (s : State) {tag opc status : Nat} (h : status ≠ St.STATE) : (s.drcDone tag opc status).regs = s.regs := by
  rw [drcDone_of_ne h]
  exact (drcPosted_done ..).2

/-- TRAIN or RESTORE is over: TRSTAT has its end, and the command its result (R432). -/
structure TrainOver (s t : State) (x : DrcTrain) (step chans status : Nat) : Prop where
  results : s.drc.results.length < 16 → t.drc.results = s.drc.results ++ [⟨x.tag, x.opc, status, s.gt⟩]
  train : t.drc.train = none
  reqs : t.drc.reqs = s.drc.reqs
  mem : t.mem = s.mem
  regs : RegsBut [R.DRC_TRSTAT, R.DRC_CNT_STATE] s t
  ended : status ≠ St.STATE → RegsBut [R.DRC_TRSTAT] s t
  trstat : t.reg R.DRC_TRSTAT = BitVec.ofNat 32 (step * 2 ^ 28 + chans * 2 ^ 24 + status)

theorem trainEnd_over {s : State} {x : DrcTrain} (h : s.drc.train = some x) (step chans status : Nat) :
    TrainOver s (s.trainEnd step chans status) x step chans status := by
  unfold State.trainEnd
  rw [h]
  dsimp only
  let u := (s.setDrc (fun d => { d with train := none })).setRegN R.DRC_TRSTAT (step * 2 ^ 28 + chans * 2 ^ 24 + status)
  have hdone : DrcDone u (u.drcDone x.tag x.opc status) x.tag x.opc status := drcDone_done ..
  have htrstat : u.reg R.DRC_TRSTAT = BitVec.ofNat 32 (step * 2 ^ 28 + chans * 2 ^ 24 + status) :=
    (reg_setRegN ..).trans (if_pos rfl)
  have hset : RegsBut [R.DRC_TRSTAT] s u := (RegsBut.setDrc .refl).setRegN (List.mem_singleton_self _)
  have hu : u.drc = { s.drc with train := none } ∧ u.mem = s.mem ∧ u.gt = s.gt := ⟨rfl, rfl, rfl⟩
  have hended : status ≠ St.STATE → (u.drcDone x.tag x.opc status).regs = u.regs := drcDone_regs u
  have hgoal : TrainOver s ((u.drcDone x.tag x.opc status).raise 184) x step chans status := by
    clear_value u
    obtain ⟨hdrc, hmem, hgt⟩ := hu
    generalize u.drcDone x.tag x.opc status = v at hdone hended
    obtain ⟨hresults, htrain, hreqs, hmemDone, hregs⟩ := hdone
    refine ⟨fun hroom => ?_, ?_, ?_, ?_, ?_, fun h => (hset.trans (.of_eq (hended h))).raise (by decide), ?_⟩
    · rw [raise_drc, hresults (by rw [hdrc]; exact hroom), hdrc, hgt]
    · rw [raise_drc, htrain, hdrc]
    · rw [raise_drc, hreqs, hdrc]
    · rw [raise_mem, hmemDone, hmem]
    · exact ((hset.weaken (by decide)).trans (hregs.weaken (by decide))).raise (by decide)
    · rw [reg_raise _ _ _ (by decide) (not_evrAddr_of_ge (by decide)),
        hregs.reg (by decide) (not_evrAddr_of_ge (by decide)), htrstat]
  exact hgoal

/-! ### Requests that wait -/

theorem dramPick_mem {s : State} {chan : Nat} {r : DramReq} (h : s.dramPick chan = some r) : r ∈ s.drc.reqs := by
  unfold State.dramPick at h
  extract_lets l at h
  have hl : ∀ x ∈ l, x ∈ s.drc.reqs := fun x hx => (List.mem_filter.mp (List.mem_filter.mp hx).1).1
  split at h
  next y hfind => exact Option.some.inj h ▸ hl y (List.mem_of_find?_eq_some hfind)
  next => exact hl r (List.mem_of_mem_head? h)

/-- Among requests there is one of the lowest class (R422). -/
theorem classFirst_ne_nil {l : List DramReq} (h : l ≠ []) : classFirst l ≠ [] := by
  obtain ⟨m, hm⟩ := Option.ne_none_iff_exists'.mp (mt List.argmin_eq_none.mp h : List.argmin DramReq.cls l ≠ none)
  refine List.ne_nil_of_mem (List.mem_filter.mpr ⟨List.argmin_mem hm, decide_eq_true fun x hx => ?_⟩)
  exact List.le_of_mem_argmin hx hm

theorem dramPick_isSome {s : State} {r : DramReq} (h : r ∈ s.drc.reqs) : (s.dramPick (dramChan r.offset)).isSome = true := by
  unfold State.dramPick
  extract_lets l
  have hl : l ≠ [] := classFirst_ne_nil (List.ne_nil_of_mem (List.mem_filter.mpr ⟨h, beq_self_eq_true _⟩))
  split
  · rfl
  · obtain ⟨x, xs, hx⟩ := List.exists_cons_of_ne_nil hl
    rw [hx]
    rfl

/-- As many services as requests empty the controller; registers but the counts of refreshes stand. -/
theorem dramDrain_empties : ∀ (n : Nat) (s : State), s.drc.reqs.length ≤ n →
    (s.dramDrain n).drc.reqs = [] ∧ (s.dramDrain n).drc.results = s.drc.results
  | 0, s, h => ⟨List.length_eq_zero_iff.mp (Nat.le_zero.mp h), rfl⟩
  | n + 1, s, h => by
    rw [State.dramDrain]
    split
    next hnil => exact ⟨hnil, rfl⟩
    next r rest hcons =>
      have hpick := dramPick_isSome (s := s) (r := r) (hcons ▸ List.mem_cons_self)
      obtain ⟨x, hx⟩ := Option.isSome_iff_exists.mp hpick
      obtain ⟨hreqs, -, -⟩ := dramServe_opens s x
      have hshorter : (s.dramServe x).drc.reqs.length ≤ n := by
        rw [hreqs, List.length_erase_of_mem (dramPick_mem hx)]
        omega
      obtain ⟨hempty, hresults⟩ := dramDrain_empties n (s.dramServe x) hshorter
      rw [hx]
      exact ⟨hempty, hresults.trans (dramServe_stands s x).1⟩

/-- Requests that STOP leaves unserved end with bus errors alone. -/
theorem dramAbort_only (s : State) : s.dramAbort.drc = { s.drc with reqs := [] } ∧ s.dramAbort.regs = s.regs ∧
    s.dramAbort.mem = s.mem ∧ s.dramAbort.gtu = s.gtu ∧ s.dramAbort.stp = s.stp := by
  unfold State.dramAbort
  extract_lets l u
  have hfold : Within 4 u (l.foldl (fun s r => if h : r.src < 21 then s.busErr ⟨r.src, h⟩ (dramBase + r.offset) else s) u) :=
    .foldl (fun h => .dite (fun _ => .busErr h) (fun _ => h)) (.refl u)
  exact ⟨hfold .drc rfl, hfold .regs rfl, hfold .mem rfl, hfold .gtu rfl, hfold .stp rfl⟩

/-! ### Commands by the table of R429 -/

theorem drcCmd_of_speed {s : State} (opc tag : Nat) {speed : Nat} (h : 2 < speed) :
    State.drcCmd opc tag speed s = s.refuse R.DRC_ERR St.RANGE 186 := if_pos (.inr (.inr h))

section
variable {s : State} {opc tag speed : Nat} (hopc : 0 < opc ∧ opc ≤ 5) (hspeed : speed ≤ 2)
include hopc hspeed

theorem drcCmd_by_table : State.drcCmd opc tag speed s =
    if drcTable opc (s.rf F.DRC_STAT_STATE) = 0 then s.drcDone tag opc St.STATE
    else if drcTable opc (s.rf F.DRC_STAT_STATE) = 2 then s.drcDone tag opc St.OK
    else s.drcAccept opc tag speed := if_neg (by omega)

theorem drcCmd_of_accepted (h : drcTable opc (s.rf F.DRC_STAT_STATE) = 1) :
    State.drcCmd opc tag speed s = s.drcAccept opc tag speed := by
  rw [drcCmd_by_table hopc hspeed, h]
  rfl

end

/-- The result of a command, where the FIFO has room for it (R430). -/
def DrcResult (s : State) (tag opc status : Nat) (t : State) : Prop :=
  s.drc.results.length < 16 → t.drc.results = s.drc.results ++ [⟨tag, opc, status, s.gt⟩]

/-- What every command does outside the states that act on it: the speed that is refused, the states that reject it and those
that accept it with no action (R429). -/
theorem drcCmd_unacting (s : State) {opc : Nat} (hopc : 0 < opc ∧ opc ≤ 5) (tag speed : Nat) {rejected idle : List Nat}
    (hrejected : ∀ st ∈ rejected, drcTable opc st = 0) (hidle : ∀ st ∈ idle, drcTable opc st = 2) :
    (speed = 3 → (State.drcCmd opc tag speed s).reg R.DRC_ERR = 0x102 ∧ (State.drcCmd opc tag speed s).drc = s.drc ∧
      RegsBut [R.DRC_ERR] s (State.drcCmd opc tag speed s) ∧ SameBytes s (State.drcCmd opc tag speed s)) ∧
    (speed ≤ 2 → s.rf F.DRC_STAT_STATE ∈ rejected → DrcResult s tag opc St.STATE (State.drcCmd opc tag speed s) ∧
      Counted R.DRC_CNT_STATE s (State.drcCmd opc tag speed s) ∧ RegsBut [R.DRC_CNT_STATE] s (State.drcCmd opc tag speed s) ∧
      SameBytes s (State.drcCmd opc tag speed s)) ∧
    (speed ≤ 2 → s.rf F.DRC_STAT_STATE ∈ idle → DrcResult s tag opc St.OK (State.drcCmd opc tag speed s) ∧
      (State.drcCmd opc tag speed s).regs = s.regs ∧ SameBytes s (State.drcCmd opc tag speed s)) := by
  refine ⟨fun h => ?_, fun hspeed hst => ?_, fun hspeed hst => ?_⟩
  · rw [drcCmd_of_speed _ _ (by omega)]
    obtain ⟨hset, hregs⟩ := refuse_records s (e := R.DRC_ERR) (code := St.RANGE) (ev := 186)
      (not_evrAddr_of_ge (by decide)) (by decide) (by decide)
    exact ⟨BitVec.eq_of_toNat_eq hset, raise_drc .., hregs, sameBytes_of_mem (refuse_mem ..)⟩
  · rw [drcCmd_by_table hopc hspeed, if_pos (hrejected _ hst)]
    obtain ⟨hresults, -, -, hmem, hregs⟩ := drcDone_done s tag opc St.STATE
    refine ⟨hresults, ?_, hregs, sameBytes_of_mem hmem⟩
    obtain ⟨-, hposted⟩ := drcPosted_done s tag opc St.STATE
    rw [drcDone_of_state]
    exact ((counted_bump _ _).andThen (l := []) (RegsBut.refl.raise (by decide)) (by decide)).after (l := [])
      (.of_eq hposted) (by decide)
  · have htable := hidle _ hst
    rw [drcCmd_by_table hopc hspeed, htable, if_neg (by decide), if_pos rfl]
    exact ⟨(drcDone_done ..).results, drcDone_regs s (by decide), sameBytes_of_mem (drcDone_done ..).mem⟩

/-! ### Commands in the states that act on them -/

theorem trainGo_enters (s : State) (opc tag speed : Nat) :
    (s.trainGo opc tag speed).rf F.DRC_STAT_STATE = 1 ∧ (s.trainGo opc tag speed).drc.train = some ⟨opc, tag, speed, 1⟩ ∧
      (s.trainGo opc tag speed).drc.results = s.drc.results := by
  unfold State.trainGo
  let u := s.setDrc (fun d => { d with train := some ⟨opc, tag, speed, 1⟩ })
  have henter : DrcEnters u (u.drcEnter 1) 1 := drcEnter_enters u (by decide)
  exact ⟨henter.state, henter.held.train, henter.held.results⟩

/-- A result after a change of state: it carries the grid time of before, which the change leaves. -/
theorem drcResult_of_held {s u t : State} {tag opc status : Nat} (hheld : DrcHeld s u) (hdone : DrcDone u t tag opc status) :
    DrcResult s tag opc status t := fun hroom => by
  rw [hdone.results (by rw [hheld.results]; exact hroom), hheld.results, hheld.gt]

/-- The DRAM's state as DRC_STAT tells it stands when a result is filed. -/
theorem state_drcDone (s : State) (tag opc status : Nat) :
    (s.drcDone tag opc status).rf F.DRC_STAT_STATE = s.rf F.DRC_STAT_STATE :=
  (drcDone_done ..).regs.rf (by decide) (not_evrAddr_of_ge (by decide))

section
variable {s : State} (tag : Nat) {speed : Nat} (hspeed : speed ≤ 2)
include hspeed

theorem srEnter_enters (h : s.rf F.DRC_STAT_STATE = 2 ∨ s.rf F.DRC_STAT_STATE = 3) :
    (State.drcCmd 3 tag speed s).rf F.DRC_STAT_STATE = 4 ∧ DrcResult s tag 3 St.OK (State.drcCmd 3 tag speed s) ∧
      (State.drcCmd 3 tag speed s).drc.reqs = [] ∧ (s.stp.recs = [] → SameBytes s (State.drcCmd 3 tag speed s)) := by
  have htable : drcTable 3 (s.rf F.DRC_STAT_STATE) = 1 := by
    rcases h with h | h <;> rw [h] <;> rfl
  have haccept : s.drcAccept 3 tag speed = ((s.dramDrain s.drc.reqs.length).drcEnter 4).drcDone tag 3 St.OK := rfl
  rw [drcCmd_of_accepted (by decide) hspeed htable, haccept]
  obtain ⟨hempty, hresults⟩ := dramDrain_empties s.drc.reqs.length s (Nat.le_refl _)
  have hdrain : Within 2097153 s (s.dramDrain s.drc.reqs.length) := .dramDrain (.refl s)
  generalize s.dramDrain s.drc.reqs.length = u at hempty hresults hdrain
  have henter := drcEnter_enters u (st := 4) (by decide)
  have hdone := drcDone_done (u.drcEnter 4) tag 3 St.OK
  refine ⟨by rw [state_drcDone, henter.state], fun hroom => ?_, by rw [hdone.reqs, henter.held.reqs, hempty], fun hrecs => ?_⟩
  · have hgt : u.gt = s.gt := by rw [State.gt, hdrain .gtu rfl, State.gt]
    rw [hdone.results (by rw [henter.held.results, hresults]; exact hroom), henter.held.results, hresults, henter.held.gt, hgt]
  · refine sameBytes_of_mem ?_
    rw [hdone.mem, drcEnter_mem (by rw [hdrain .stp rfl, hrecs]), if_neg (by omega), hdrain .mem rfl]

theorem srExit_enters (h : s.rf F.DRC_STAT_STATE = 4) :
    (State.drcCmd 4 tag speed s).rf F.DRC_STAT_STATE = 2 ∧ DrcResult s tag 4 St.OK (State.drcCmd 4 tag speed s) ∧
      Counted R.DRC_CNT_SREXIT s (State.drcCmd 4 tag speed s) ∧ (s.stp.recs = [] → SameBytes s (State.drcCmd 4 tag speed s)) := by
  have htable : drcTable 4 (s.rf F.DRC_STAT_STATE) = 1 := by rw [h]; rfl
  have haccept : s.drcAccept 4 tag speed = ((s.bump R.DRC_CNT_SREXIT).drcEnter 2).drcDone tag 4 St.OK := rfl
  rw [drcCmd_of_accepted (by decide) hspeed htable, haccept]
  have hcount := counted_bump s R.DRC_CNT_SREXIT
  have hbump : Within 1 s (s.bump R.DRC_CNT_SREXIT) := .bump (.refl s)
  generalize s.bump R.DRC_CNT_SREXIT = u at hcount hbump
  have henter := drcEnter_enters u (st := 2) (by decide)
  have hdone := drcDone_done (u.drcEnter 2) tag 4 St.OK
  refine ⟨by rw [state_drcDone, henter.state], ?_, ?_, fun hrecs => sameBytes_of_mem ?_⟩
  · exact drcResult_of_held ((DrcHeld.of_eq (hbump .drc rfl) (hbump .gtu rfl)).trans henter.held) hdone
  · exact (hcount.andThen henter.regs (by decide)).andThen hdone.regs (by decide)
  · rw [hdone.mem, drcEnter_mem (by rw [hbump .stp rfl, hrecs]), if_neg (by omega), hbump .mem rfl]

/-- STOP: what trains is over, what waits ends with bus errors, and the controller is off (R429). -/
theorem stop_enters (hst : s.rf F.DRC_STAT_STATE ≠ 0) (htrain : s.rf F.DRC_STAT_STATE ≠ 1 → s.drc.train = none) :
    (State.drcCmd 5 tag speed s).rf F.DRC_STAT_STATE = 0 ∧ (State.drcCmd 5 tag speed s).drc.train = none ∧
      (State.drcCmd 5 tag speed s).drc.reqs = [] ∧
      (s.rf F.DRC_STAT_STATE ≠ 1 → DrcResult s tag 5 St.OK (State.drcCmd 5 tag speed s)) ∧
      (s.stp.recs = [] → ∀ a, a < dramBase → (State.drcCmd 5 tag speed s).byte a = s.byte a) := by
  have htable : drcTable 5 (s.rf F.DRC_STAT_STATE) = 1 := by
    unfold drcTable
    simp [hst]
  let stopped := if s.rf F.DRC_STAT_STATE = 1 then s.trainEnd 0 0 St.ABORTED else s
  have haccept : s.drcAccept 5 tag speed = (stopped.dramAbort.drcEnter 0).drcDone tag 5 St.OK := rfl
  rw [drcCmd_of_accepted (by decide) hspeed htable, haccept]
  have hover : stopped.drc.train = none := by
    unfold stopped
    split
    · cases h : s.drc.train with
      | none => rw [State.trainEnd, h]; exact h
      | some x => exact (trainEnd_over h ..).train
    · next h => exact htrain h
  have hstays : s.rf F.DRC_STAT_STATE ≠ 1 → stopped = s := fun h => if_neg h
  have hframe : Within 2097169 s stopped := .ite (.trainEnd (.refl s)) (.refl s)
  clear_value stopped
  obtain ⟨hdrc, hregs, hmem, hgtu, hstp⟩ := dramAbort_only stopped
  generalize stopped.dramAbort = u at hdrc hregs hmem hgtu hstp
  have henter := drcEnter_enters u (st := 0) (by decide)
  have hdone := drcDone_done (u.drcEnter 0) tag 5 St.OK
  refine ⟨by rw [state_drcDone, henter.state], ?_, ?_, fun h hroom => ?_, fun hrecs a ha => ?_⟩
  · rw [hdone.train, henter.held.train, hdrc, ← hover]
  · rw [hdone.reqs, henter.held.reqs, hdrc]
  · have hresults : (u.drcEnter 0).drc.results = s.drc.results := by rw [henter.held.results, hdrc, hstays h]
    have hgt : (u.drcEnter 0).gt = s.gt := by rw [henter.held.gt, State.gt, hgtu, hstays h, State.gt]
    rw [hdone.results (by rw [hresults]; exact hroom), hresults, hgt]
  · have hbytes : u.mem = s.mem := hmem.trans (hframe .mem rfl)
    have hgoal : (u.drcEnter 0).byte a = s.byte a := by
      rw [State.byte, drcEnter_mem (by rw [hstp, hframe .stp rfl, hrecs])]
      split
      · exact (byte_dramLost u ha).trans (sameBytes_of_mem hbytes a)
      · exact sameBytes_of_mem hbytes a
    exact (sameBytes_of_mem hdone.mem a).trans hgoal

/-- RESTORE from a bad record ends with CHECK (R432). -/
theorem restore_of_bad (hst : s.rf F.DRC_STAT_STATE = 0) (hbad : s.trrecBad = true) :
    (State.drcCmd 2 tag speed s).rf F.DRC_STAT_STATE = 0 ∧ (State.drcCmd 2 tag speed s).reg R.DRC_TRSTAT = 0x0E ∧
      DrcResult s tag 2 St.CHECK (State.drcCmd 2 tag speed s) ∧ RegsBut [R.DRC_TRSTAT] s (State.drcCmd 2 tag speed s) ∧
      SameBytes s (State.drcCmd 2 tag speed s) := by
  have htable : drcTable 2 (s.rf F.DRC_STAT_STATE) = 1 := by rw [hst]; rfl
  let u := s.setDrc (fun d => { d with train := some ⟨2, tag, 0, 0⟩ })
  have haccept : s.drcAccept 2 tag speed = u.trainEnd 0 0 St.CHECK := by
    rw [State.drcAccept, if_neg (by decide), if_pos rfl, if_pos hbad]
  rw [drcCmd_of_accepted (by decide) hspeed htable, haccept]
  have hbegun : u.drc.train = some ⟨2, tag, 0, 0⟩ ∧ u.drc.results = s.drc.results ∧ u.gt = s.gt ∧ u.mem = s.mem ∧ u.regs = s.regs :=
    ⟨rfl, rfl, rfl, rfl, rfl⟩
  clear_value u
  obtain ⟨htrain, hresults, hgt, hmem, hregs⟩ := hbegun
  obtain ⟨hfiled, -, -, hsame, hset, hended, htrstat⟩ := trainEnd_over htrain 0 0 St.CHECK
  refine ⟨?_, htrstat, fun hroom => ?_, (RegsBut.of_eq hregs).trans (hended (by decide)), sameBytes_of_mem (hsame.trans hmem)⟩
  · rw [hset.rf (by decide) (not_evrAddr_of_ge (by decide)), State.rf, State.reg, hregs]
    exact hst
  · rw [hfiled (by rw [hresults]; exact hroom), hresults, hgt]

end

/-! ### Training steps -/

/-- How a training step that fails leaves the controller (R432): the channels that passed are known, the command has its
result, and a controller that trained is off. -/
theorem trainFail_ends {s : State} {x : DrcTrain} (h : s.drc.train = some x) (fail : BitVec 4) (code : Nat) :
    (s.rf F.DRC_STAT_STATE = 1 → (s.trainFail x fail.toNat code).rf F.DRC_STAT_STATE = 0) ∧
      (s.trainFail x fail.toNat code).drc.train = none ∧
      (s.trainFail x fail.toNat code).rf F.DRC_STAT_CHOK = 15 - fail.toNat ∧
      DrcResult s x.tag x.opc code (s.trainFail x fail.toNat code) := by
  have hlim : ∀ v : State, (v.limit Fn.DRAM true).drc = v.drc ∧ ∀ g, (v.limit Fn.DRAM true).rf g = v.rf g :=
    fun _ => ⟨rfl, fun _ => rfl⟩
  unfold State.trainFail
  rw [(hlim _).2, (hlim _).2, DrcResult, (hlim _).1]
  have hchok : (s.wf F.DRC_STAT_CHOK (15 - fail.toNat)).rf F.DRC_STAT_CHOK = 15 - fail.toNat :=
    (rf_wf_same s F.DRC_STAT_CHOK _ (by decide) (by decide)).trans (Nat.mod_eq_of_lt (by
      change 15 - fail.toNat < 16
      omega))
  have hset : (s.wf F.DRC_STAT_CHOK (15 - fail.toNat)).drc = s.drc ∧ (s.wf F.DRC_STAT_CHOK (15 - fail.toNat)).gt = s.gt :=
    ⟨rfl, rfl⟩
  generalize s.wf F.DRC_STAT_CHOK (15 - fail.toNat) = u at hchok hset
  obtain ⟨hdrc, hgt⟩ := hset
  have hover := trainEnd_over (s := u) (by rw [hdrc]; exact h) x.step fail.toNat code
  have henter := drcEnter_enters (u.trainEnd x.step fail.toNat code) (st := 0) (by decide)
  refine ⟨fun _ => henter.state, henter.held.train.trans hover.train, ?_, fun hroom => ?_⟩
  · rw [henter.field _ rfl (by decide), hover.regs.rf (by decide) (not_evrAddr_of_ge (by decide)), hchok]
  · rw [henter.held.results, hover.results (by rw [hdrc]; exact hroom), hdrc, hgt]

/-- All steps have passed: the controller runs, on every channel, and its start step holds (R432, R505). -/
theorem trainPass_ends {s : State} {x : DrcTrain} (h : s.drc.train = some x) (hst : s.rf F.DRC_STAT_STATE = 1) :
    (s.trainPass x).rf F.DRC_STAT_STATE = 2 ∧ (s.trainPass x).drc.train = none ∧ (s.trainPass x).rf F.DRC_STAT_CHOK = 15 ∧
      (s.trainPass x).step1 Fn.DRAM = true ∧ DrcResult s x.tag x.opc St.OK (s.trainPass x) := by
  have hlim : ∀ (v : State) (b : Bool), (v.limit Fn.DRAM b).drc = v.drc ∧ (∀ g, (v.limit Fn.DRAM b).rf g = v.rf g) ∧
      (v.limit Fn.DRAM b).step1 Fn.DRAM = v.step1 Fn.DRAM := fun _ _ => ⟨rfl, fun _ => rfl, rfl⟩
  unfold State.trainPass
  extract_lets u w
  rw [(hlim _ _).2.1, (hlim _ _).2.1, (hlim _ _).2.2, DrcResult, (hlim _ _).1]
  have hu : u.rf F.DRC_STAT_STATE = 1 ∧ u.rf F.DRC_STAT_CHOK = 15 ∧ u.drc = s.drc ∧ u.gt = s.gt := by
    refine ⟨?_, ?_, rfl, rfl⟩
    · unfold u
      rw [rf_wf_apart _ _ (by decide), rf_wf_apart _ _ (by decide), rf_wf_apart _ _ (by decide), hst]
    · unfold u
      rw [rf_wf_apart _ _ (by decide), rf_wf_apart _ _ (by decide), rf_wf_same _ _ _ (by decide) (by decide)]
      rfl
  clear_value u
  have hframe : Within 2 u w := .ite (.trrecWrite (.refl u)) (.refl u)
  clear_value w
  obtain ⟨hstate, hchok, hdrc, hgt⟩ := hu
  have hsame : ∀ g, w.rf g = u.rf g := fun g => by rw [State.rf, State.reg, hframe .regs rfl, State.rf, State.reg]
  have hwdrc : w.drc = s.drc := (hframe .drc rfl).trans hdrc
  have hwgt : w.gt = s.gt := by rw [State.gt, hframe .gtu rfl, ← State.gt, hgt]
  have hover : TrainOver w (w.trainEnd 0 0 St.OK) x 0 0 St.OK := trainEnd_over (by rw [hwdrc]; exact h) ..
  have henter := drcEnter_enters (w.trainEnd 0 0 St.OK) (st := 2) (by decide)
  have hbefore : (w.trainEnd 0 0 St.OK).rf F.DRC_STAT_STATE = 1 := by
    rw [hover.regs.rf (by decide) (not_evrAddr_of_ge (by decide)), hsame, hstate]
  refine ⟨henter.state, henter.held.train.trans hover.train, ?_, ?_, fun hroom => ?_⟩
  · rw [henter.field _ rfl (by decide), hover.regs.rf (by decide) (not_evrAddr_of_ge (by decide)), hsame, hchok]
  · exact drcEnter_step1 (by rw [hbefore]; decide)
  · rw [henter.held.results, hover.results (by rw [hwdrc]; exact hroom), hwdrc, hwgt]

/-- The step after one that has passed (R432). -/
def nextTrain (x : DrcTrain) : DrcTrain := { x with step := if x.opc = 2 ∧ x.step = 2 then 7 else x.step + 1 }

/-- A step that passes leads to the next; INIT notes what the devices report (R432). -/
theorem exec_trainStepDone_of_pass {s : State} {x : DrcTrain} (h : s.drc.train = some x) {fail : BitVec 4} {mismatch : Bool}
    (dens : Fin 6) (ranks : Bool) (hmatch : ¬ (x.step = 1 ∧ mismatch = true)) (hfail : fail = 0) (hlast : x.step ≠ 7) :
    exec (.trainStepDone fail mismatch dens ranks) s = .next ((if x.step = 1 then
      (s.wf F.DRC_STAT_DENS (dens.val + 1)).wb F.DRC_STAT_RANKS ranks else s).setDrc
        (fun d => { d with train := some (nextTrain x) })) := by
  have hrun : exec (.trainStepDone fail mismatch dens ranks) s = execTrainStepDone fail mismatch dens ranks s := rfl
  rw [hrun, execTrainStepDone, h]
  dsimp only
  rw [if_neg hmatch, if_neg (not_not.mpr hfail), if_neg hlast]
  rfl

/-- A step that fails, for a mismatch or on a channel (R432). -/
theorem exec_trainStepDone_of_fail {s : State} {x : DrcTrain} (h : s.drc.train = some x) (fail : BitVec 4) (mismatch : Bool)
    (dens : Fin 6) (ranks : Bool) :
    (x.step = 1 → mismatch = true →
      exec (.trainStepDone fail mismatch dens ranks) s = .next (s.trainFail x fail.toNat St.RANGE)) ∧
    (¬ (x.step = 1 ∧ mismatch = true) → fail ≠ 0 →
      exec (.trainStepDone fail mismatch dens ranks) s = .next (s.trainFail x fail.toNat St.HW)) := by
  have hrun : exec (.trainStepDone fail mismatch dens ranks) s = execTrainStepDone fail mismatch dens ranks s := rfl
  rw [hrun, execTrainStepDone, h]
  dsimp only
  exact ⟨fun hinit hbad => if_pos ⟨hinit, hbad⟩, fun hmatch hfail => by rw [if_neg hmatch, if_pos hfail]⟩

/-- The last step that passes (R432). -/
theorem exec_trainStepDone_of_last {s : State} {x : DrcTrain} (h : s.drc.train = some x) {fail : BitVec 4} (mismatch : Bool)
    (dens : Fin 6) (ranks : Bool) (hfail : fail = 0) (hlast : x.step = 7) :
    exec (.trainStepDone fail mismatch dens ranks) s = .next (s.trainPass x) := by
  have hrun : exec (.trainStepDone fail mismatch dens ranks) s = execTrainStepDone fail mismatch dens ranks s := rfl
  have hnot : x.step ≠ 1 := by rw [hlast]; decide
  rw [hrun, execTrainStepDone, h]
  dsimp only
  rw [if_neg fun e => hnot e.1, if_neg (not_not.mpr hfail), if_neg hnot, if_pos hlast]

/-- What a step that passes notes of the devices, in DRC_STAT beside the state (R432). -/
theorem trainNoted_fields (s : State) (x : DrcTrain) (dens : Fin 6) (ranks : Bool) :
    let t := (if x.step = 1 then (s.wf F.DRC_STAT_DENS (dens.val + 1)).wb F.DRC_STAT_RANKS ranks else s).setDrc
      (fun d => { d with train := some (nextTrain x) })
    (x.step = 1 → t.rf F.DRC_STAT_DENS = dens.val + 1 ∧ t.rb F.DRC_STAT_RANKS = ranks) ∧
      t.rf F.DRC_STAT_STATE = s.rf F.DRC_STAT_STATE ∧ RegsBut [R.DRC_STAT] s t ∧ SameBytes s t := by
  have hset : ∀ (v : State) (f : DrcSt → DrcSt), (∀ g, (v.setDrc f).rf g = v.rf g) ∧ (∀ g, (v.setDrc f).rb g = v.rb g) ∧
      (v.setDrc f).mem = v.mem := fun _ _ => ⟨fun _ => rfl, fun _ => rfl, rfl⟩
  intro t
  by_cases h : x.step = 1
  · have ht : t = ((s.wf F.DRC_STAT_DENS (dens.val + 1)).wb F.DRC_STAT_RANKS ranks).setDrc
        (fun d => { d with train := some (nextTrain x) }) := by
      unfold t
      rw [if_pos h]
    rw [ht]
    obtain ⟨hrf, hrb, hmem⟩ := hset ((s.wf F.DRC_STAT_DENS (dens.val + 1)).wb F.DRC_STAT_RANKS ranks)
      (fun d => { d with train := some (nextTrain x) })
    rw [hrf, hrf, hrb]
    refine ⟨fun _ => ⟨?_, rb_wb_same _ _ rfl (by decide)⟩, ?_, ((RegsBut.refl.wf (by decide)).wb (by decide)).setDrc,
      sameBytes_of_mem hmem⟩
    · rw [State.wb, rf_wf_apart _ _ (by decide), rf_wf_same _ _ _ (by decide) (by decide)]
      exact Nat.mod_eq_of_lt (show dens.val + 1 < 16 by omega)
    · rw [State.wb, rf_wf_apart _ _ (by decide), rf_wf_apart _ _ (by decide)]
  · have ht : t = s.setDrc (fun d => { d with train := some (nextTrain x) }) := by
      unfold t
      rw [if_neg h]
    rw [ht]
    exact ⟨fun e => absurd e h, rfl, .setDrc .refl, fun _ => rfl⟩

/-! ### The obligation -/

/-- Settles O53: a command by the row of its table, a training step by its outcome, a read of results and the idle entry by
one change of the state each. -/
theorem dramController : Obligations.DramController := by
  unfold Obligations.DramController
  intro s i st room
  refine ⟨fun tag speed hmay => ?commands, fun fail mismatch dens ranks => ⟨fun hnone => ?noTrain, fun x htrain => ?steps⟩,
    fun x xs hmay hres => ?pop, fun hen hst hreqs => ?idle, fun hnot => if_neg ?busy⟩
  case commands =>
    intro done
    have hgrant : ∀ opc, s.onWrite i R.DRC_CMD (State.drcCmd opc tag.toNat speed.val) =
        State.drcCmd opc tag.toNat speed.val s := fun _ => onWrite_of_mayWrite s i _ _ hmay
    have htrain : exec (.drcTrain i tag speed) s = .next (State.drcCmd 1 tag.toNat speed.val s) :=
      congrArg Host.Outcome.next (hgrant 1)
    have hrestore : exec (.drcRestore i tag speed) s = .next (State.drcCmd 2 tag.toNat speed.val s) :=
      congrArg Host.Outcome.next (hgrant 2)
    have henter : exec (.srEnter i tag speed) s = .next (State.drcCmd 3 tag.toNat speed.val s) :=
      congrArg Host.Outcome.next (hgrant 3)
    have hexit : exec (.srExit i tag speed) s = .next (State.drcCmd 4 tag.toNat speed.val s) :=
      congrArg Host.Outcome.next (hgrant 4)
    have hstop : exec (.drcStop i tag speed) s = .next (State.drcCmd 5 tag.toNat speed.val s) :=
      congrArg Host.Outcome.next (hgrant 5)
    refine ⟨fun p hp => ?table, fun hspeed hst => ?train, fun hspeed hst hgood => ?restore, fun hspeed hst hbad => ?bad,
      fun hspeed hst => ⟨_, henter, srEnter_enters tag.toNat hspeed hst⟩,
      fun hspeed hst => ⟨_, hexit, srExit_enters tag.toNat hspeed hst⟩,
      fun hspeed hst hidle => ⟨_, hstop, stop_enters tag.toNat hspeed hst hidle⟩⟩
    case table =>
      have hrow : ∃ hopc : 0 < p.2.1 ∧ p.2.1 ≤ 5, exec p.1 s = .next (State.drcCmd p.2.1 tag.toNat speed.val s) ∧
          (∀ k ∈ p.2.2.1, drcTable p.2.1 k = 0) ∧ ∀ k ∈ p.2.2.2, drcTable p.2.1 k = 2 := by
        simp only [List.mem_cons, List.not_mem_nil, or_false] at hp
        rcases hp with rfl | rfl | rfl | rfl | rfl
        · exact ⟨(by decide : 0 < 1 ∧ 1 ≤ 5), htrain, (by decide : ∀ k ∈ [1, 2, 3, 4], drcTable 1 k = 0),
            (by decide : ∀ k ∈ ([] : List Nat), drcTable 1 k = 2)⟩
        · exact ⟨(by decide : 0 < 2 ∧ 2 ≤ 5), hrestore, (by decide : ∀ k ∈ [1, 2, 3, 4], drcTable 2 k = 0),
            (by decide : ∀ k ∈ ([] : List Nat), drcTable 2 k = 2)⟩
        · exact ⟨(by decide : 0 < 3 ∧ 3 ≤ 5), henter, (by decide : ∀ k ∈ [0, 1], drcTable 3 k = 0),
            (by decide : ∀ k ∈ [4], drcTable 3 k = 2)⟩
        · exact ⟨(by decide : 0 < 4 ∧ 4 ≤ 5), hexit, (by decide : ∀ k ∈ [0, 1], drcTable 4 k = 0),
            (by decide : ∀ k ∈ [2, 3], drcTable 4 k = 2)⟩
        · exact ⟨(by decide : 0 < 5 ∧ 5 ≤ 5), hstop, (by decide : ∀ k ∈ ([] : List Nat), drcTable 5 k = 0),
            (by decide : ∀ k ∈ [0], drcTable 5 k = 2)⟩
      obtain ⟨hopc, hexec, hrejected, hidle⟩ := hrow
      obtain ⟨hspeed, hreject, hquiet⟩ := drcCmd_unacting s hopc tag.toNat speed.val hrejected hidle
      exact ⟨fun h => ⟨_, hexec, hspeed h⟩, fun h hst => ⟨_, hexec, hreject h hst⟩, fun h hst => ⟨_, hexec, hquiet h hst⟩⟩
    case train =>
      have htable : drcTable 1 (s.rf F.DRC_STAT_STATE) = 1 := by rw [show s.rf F.DRC_STAT_STATE = 0 from hst]; rfl
      rw [drcCmd_of_accepted (by decide) hspeed htable, State.drcAccept, if_pos rfl] at htrain
      exact ⟨_, htrain, trainGo_enters ..⟩
    case restore =>
      have htable : drcTable 2 (s.rf F.DRC_STAT_STATE) = 1 := by rw [show s.rf F.DRC_STAT_STATE = 0 from hst]; rfl
      rw [drcCmd_of_accepted (by decide) hspeed htable, State.drcAccept, if_neg (by decide), if_pos rfl,
        if_neg (by rw [hgood]; decide)] at hrestore
      obtain ⟨hstate, hrun, hresults⟩ := trainGo_enters s 2 tag.toNat (Config.trainSpeed (nats (s.bytes s.trrec 2044)))
      exact ⟨_, hrestore, hstate, by rw [hrun]; rfl, hresults⟩
    case bad => exact ⟨_, hrestore, restore_of_bad tag.toNat hspeed hst hbad⟩
  case noTrain =>
    have hrun : exec (.trainStepDone fail mismatch dens ranks) s = execTrainStepDone fail mismatch dens ranks s := rfl
    rw [hrun, execTrainStepDone, hnone]
  case steps =>
    intro bad
    obtain ⟨hmismatch, hfails⟩ := exec_trainStepDone_of_fail htrain fail mismatch dens ranks
    have hends : ∀ code, bad code (s.trainFail x fail.toNat code) := fun code => by
      obtain ⟨hoff, hover, hchok, hresult⟩ := trainFail_ends htrain fail code
      exact ⟨hoff, hover, hchok, fun hroom _ => hresult hroom⟩
    refine ⟨fun hinit hbad => ⟨_, hmismatch hinit hbad, hends _⟩, fun hmatch hfail => ⟨_, hfails hmatch hfail, hends _⟩,
      fun hmatch hfail hlast => ?next, fun hfail hlast hst => ?last⟩
    case next =>
      exact ⟨_, exec_trainStepDone_of_pass htrain dens ranks hmatch hfail hlast, rfl, trainNoted_fields s x dens ranks⟩
    case last => exact ⟨_, exec_trainStepDone_of_last htrain mismatch dens ranks hfail hlast, trainPass_ends htrain hst⟩
  case pop =>
    have hexec : exec (.drcResultPop i) s = .next (State.drcPop i s) :=
      congrArg Host.Outcome.next (onRead_of_mayRead s i _ _ hmay)
    rw [State.drcPop, hres] at hexec
    exact ⟨_, hexec, rfl, rfl, rfl, fun _ => rfl⟩
  case idle =>
    have hexec : exec .sridleEnter s = .next (s.drcEnter 3) := if_pos (by
      rw [hen, hreqs, (show s.rf F.DRC_STAT_STATE = 2 from hst)]
      rfl)
    exact ⟨_, hexec, (drcEnter_enters s (by decide)).state, drcEnter_step1 (by rw [(show s.rf F.DRC_STAT_STATE = 2 from hst)]; decide)⟩
  case busy =>
    intro hall
    simp only [Bool.and_eq_true, beq_iff_eq, List.isEmpty_iff] at hall
    obtain ⟨⟨hen, hst⟩, hreqs⟩ := hall
    rcases hnot with h | h | h
    · rw [hen] at h
      cases h
    · exact h hst
    · exact h hreqs

end Sys2Proof.Machine
end

section
/-! PROOFS. The public-key engine: a VERIFY whose input reads as uncorrectable (O51). -/

namespace Sys2Proof.Machine

/-- A VERIFY that reads its input from the first bytes of SRAM. -/
def verifyAtSram : PkeCmd := ⟨0, [0x07000000, 0, 0x10000000, 0, 0, 0, 0, 0]⟩

/-- PKE runs and `verifyAtSram` is at the head of its queue. The table of error codes, which is not in canonical form, lists
the first word of SRAM twice: as correctable, which is what a read of the word finds, and as uncorrectable. -/
def twofoldCode : State :=
  { (State.reset.setRegN R.SYS_STEPOK 0x3FFFFFF).setRegN R.PKE_CTRL (2 ^ 31) with
    pke := { PkeSt.reset with queue := [verifyAtSram] }, ecc := [(0x2000000, 1), (0x2000000, 2)] }

theorem verifyCode_twofoldCode : verifyCode (twofoldCode.pkeIn verifyAtSram.inp 240) = St.CHECK := by decide +kernel

/-- The read through the code repairs the word and with it drops both entries, so the check of the signature is made after
all, over zeros, and fails. -/
theorem verify_twofoldCode :
    (twofoldCode.pkeRun 7 State.pkeVerify).pke.results.map (fun r => r.status) = [St.AUTH] := by decide +kernel

/-- Refutes O51: in `twofoldCode` the input of a VERIFY reads as uncorrectable, yet the command ends with AUTH and not with
CHECK. The state is not a sensible one, but the statement speaks of every state. -/
theorem not_publicKeyEngine : ¬ Obligations.PublicKeyEngine := by
  unfold Obligations.PublicKeyEngine
  intro h
  obtain ⟨-, -, hhead, -⟩ := h twofoldCode 0
  obtain ⟨-, -, -, -, -, -, -, -, hverify, -⟩ := hhead verifyAtSram [] rfl (by decide +kernel) (by decide +kernel)
  obtain ⟨t, hexec, ⟨-, hresults⟩, -⟩ := hverify (by decide)
  have ht : t = twofoldCode.pkeRun 7 State.pkeVerify := (Host.Outcome.next.inj hexec).symm
  have hcheck : t.pke.results.map (fun r => r.status) = [St.CHECK] := by
    rw [hresults (by decide), verifyCode_twofoldCode]
    rfl
  rw [ht, verify_twofoldCode] at hcheck
  exact absurd hcheck (by decide)

end Sys2Proof.Machine
end

section
/-! PROOFS. The cipher engine's keys: the key commands, the erases, the security associations and the alarms (O49). -/

namespace Sys2Proof.Machine

/-! ### Results of commands -/

theorem bump_cry (s : State) (a : Nat) : (s.bump a).cry = s.cry := Within.bump (m := 1) (.refl s) ⟨rfl⟩ .cry rfl

theorem bump_pke (s : State) (a : Nat) : (s.bump a).pke = s.pke := Within.bump (m := 1) (.refl s) ⟨rfl⟩ .pke rfl

/-- A result of a command with a tag is posted, where the FIFO has room (R410). -/
def KeyPosted (s t : State) (tag opc st : Nat) : Prop :=
  s.cry.kres.length < 16 → t.cry.kres = s.cry.kres ++ [⟨tag, opc, st⟩]

/-- The registers that the end of a command writes when its outcome is not OK (R384, R410). -/
def cryDoneRegs : List Nat :=
  [R.CRY_CNT_AUTH, R.CRY_CNT_NOKEY, R.CRY_CNT_ABORT, R.CRY_CNT_STATE, R.CRY_ERR, R.CRY_CNT_RESOVF]

theorem cryCount_cry (s : State) (st : Nat) : (s.cryCount st).cry = s.cry :=
  Within.cryCount (m := 1) (.refl s) ⟨rfl⟩ .cry rfl

theorem regsBut_cryCount (s : State) (st : Nat) : RegsBut cryDoneRegs s (s.cryCount st) :=
  .ite (RegsBut.refl.bump (by decide)) (.ite (RegsBut.refl.bump (by decide)) (.ite (RegsBut.refl.bump (by decide))
    (.ite (RegsBut.refl.bump (by decide)) .refl)))

theorem postKey_cry (s : State) (tag opc st : Nat) :
    (s.postKey tag opc st).cry =
      { s.cry with kres := if s.cry.kres.length < 16 then s.cry.kres ++ [⟨tag, opc, st⟩] else s.cry.kres } := by
  unfold State.postKey
  split
  · rfl
  · rw [bump_cry]

theorem regsBut_postKey (s : State) (tag opc st : Nat) : RegsBut [R.CRY_CNT_RESOVF] s (s.postKey tag opc st) :=
  .ite .refl (RegsBut.refl.bump (List.mem_singleton_self _))

theorem keyDone_ok (s : State) (tag opc : Nat) : s.keyDone tag opc St.OK = s.postKey tag opc St.OK := rfl

theorem keyDone_failed (s : State) (tag opc : Nat) {st : Nat} (h : st ≠ St.OK) :
    s.keyDone tag opc st = (((s.cryCount st).errSet R.CRY_ERR st).raise 164).postKey tag opc st := by
  rw [State.keyDone, if_neg h]

/-- Of the cipher engine, the end of a command changes the results alone. -/
theorem keyDone_cry (s : State) (tag opc st : Nat) :
    (s.keyDone tag opc st).cry =
      { s.cry with kres := if s.cry.kres.length < 16 then s.cry.kres ++ [⟨tag, opc, st⟩] else s.cry.kres } := by
  by_cases h : st = St.OK
  · rw [h, keyDone_ok, postKey_cry]
  · rw [keyDone_failed _ _ _ h, postKey_cry, raise_cry]
    rw [State.errSet, show ((s.cryCount st).setRegN R.CRY_ERR (0x100 + st % 256)).cry = s.cry from cryCount_cry s st]

theorem keyDone_slots (s : State) (tag opc st : Nat) : (s.keyDone tag opc st).cry.slots = s.cry.slots := by rw [keyDone_cry]
theorem keyDone_sas (s : State) (tag opc st : Nat) : (s.keyDone tag opc st).cry.sas = s.cry.sas := by rw [keyDone_cry]
theorem keyDone_ops (s : State) (tag opc st : Nat) : (s.keyDone tag opc st).cry.ops = s.cry.ops := by rw [keyDone_cry]

theorem keyDone_mem (s : State) (tag opc st : Nat) : (s.keyDone tag opc st).mem = s.mem :=
  Within.keyDone (m := 262161) (.refl s) ⟨rfl⟩ .mem rfl

/-- The end of a command posts its result. -/
theorem keyPosted_keyDone {s u : State} (tag opc st : Nat) (h : u.cry.kres = s.cry.kres) :
    KeyPosted s (u.keyDone tag opc st) tag opc st := fun hroom => by
  rw [keyDone_cry, h]
  exact if_pos hroom

theorem regsBut_keyDone (s : State) (tag opc st : Nat) : RegsBut cryDoneRegs s (s.keyDone tag opc st) := by
  have hpost : ∀ u : State, RegsBut cryDoneRegs u (u.postKey tag opc st) := fun u =>
    (regsBut_postKey u tag opc st).weaken (by decide)
  exact (RegsBut.ite .refl (((regsBut_cryCount s st).setRegN (by decide)).raise (by decide))).trans (hpost _)

theorem regsBut_keyDone_ok (s : State) (tag opc : Nat) : RegsBut [R.CRY_CNT_RESOVF] s (s.keyDone tag opc St.OK) :=
  regsBut_postKey s tag opc St.OK

/-- An outcome other than OK is recorded (R384). -/
theorem cryErr_keyDone (s : State) (tag opc : Nat) {st : Nat} (h : st ≠ St.OK) :
    (s.keyDone tag opc st).reg R.CRY_ERR = BitVec.ofNat 32 (0x100 + st % 256) := by
  rw [keyDone_failed _ _ _ h, (regsBut_postKey _ tag opc st).reg (by decide) (not_evrAddr_of_ge (by decide)),
    reg_raise _ _ _ (by decide) (not_evrAddr_of_ge (by decide)), State.errSet, reg_setRegN, if_pos rfl]

/-! ### Slots -/

theorem slot_congr {s t : State} (h : t.cry.slots = s.cry.slots) (m : Nat) : t.slot m = s.slot m := by
  rw [State.slot, h, State.slot]

theorem slot_setSlot (s : State) (n m : Nat) (k : KeySlot) : (s.setSlot n k).slot m = if m = n then k else s.slot m :=
  Sparse.get_put _ _ _ _ _

theorem slot_setSlot_same (s : State) (n : Nat) (k : KeySlot) : (s.setSlot n k).slot n = k :=
  (slot_setSlot s n n k).trans (if_pos rfl)

theorem slot_setSlot_other (s : State) {n m : Nat} (k : KeySlot) (h : m ≠ n) : (s.setSlot n k).slot m = s.slot m :=
  (slot_setSlot s n m k).trans (if_neg h)

/-- A slot is loaded with a key of a type and a usage under the mask in CRY_KARG1, and no other slot and no byte of memory
changes (R382, R383). -/
def SlotLoaded (s t : State) (n typ usage : Nat) : Prop :=
  (t.slot n).st = Slot.LOADED ∧ (t.slot n).typ = typ ∧ (t.slot n).usage = usage ∧ (t.slot n).mask = s.reg R.CRY_KARG1 ∧
    (t.slot n).gen = (s.slot n).gen + 1 ∧ (∀ m, m ≠ n → t.slot m = s.slot m) ∧ SameBytes s t

/-- A command that loads a slot ends with OK. -/
theorem keyDone_loads {s u v : State} (n typ usage : Nat) (key : List Byte) (tag opc : Nat) (hu : u.cry = s.cry)
    (hv : v.cry = (u.loadSlot n typ usage (s.reg R.CRY_KARG1) key).cry) (hmem : v.mem = s.mem) :
    SlotLoaded s (v.keyDone tag opc St.OK) n typ usage ∧ KeyPosted s (v.keyDone tag opc St.OK) tag opc St.OK ∧
      ((v.keyDone tag opc St.OK).slot n).key = key := by
  have hslots : (v.keyDone tag opc St.OK).cry.slots = (u.loadSlot n typ usage (s.reg R.CRY_KARG1) key).cry.slots :=
    (keyDone_slots _ _ _ _).trans (congrArg CrySt.slots hv)
  have hslot : (v.keyDone tag opc St.OK).slot n = { u.slot n with
      st := Slot.LOADED, typ := typ, usage := usage, mask := s.reg R.CRY_KARG1, gen := (u.slot n).gen + 1, key := key } :=
    (slot_congr hslots n).trans (slot_setSlot_same _ _ _)
  have hother : ∀ m, m ≠ n → (v.keyDone tag opc St.OK).slot m = s.slot m := fun m hm =>
    ((slot_congr hslots m).trans (slot_setSlot_other _ _ hm)).trans (slot_congr (congrArg CrySt.slots hu) m)
  have hkres : (u.loadSlot n typ usage (s.reg R.CRY_KARG1) key).cry.kres = u.cry.kres := rfl
  refine ⟨?_, keyPosted_keyDone _ _ _ ((congrArg CrySt.kres hv).trans (hkres.trans (congrArg CrySt.kres hu))), by rw [hslot]⟩
  rw [SlotLoaded, hslot, slot_congr (congrArg CrySt.slots hu) n]
  exact ⟨rfl, rfl, rfl, rfl, rfl, hother, sameBytes_of_mem ((keyDone_mem _ _ _ _).trans hmem)⟩

/-! ### The gate -/

theorem keyRun_of_refused {s : State} {opc slot st : Nat} (tag : Nat) (f : State → Nat → State × Nat)
    (h : s.keyGate opc slot = some st) : s.keyRun tag opc slot f = s.keyDone tag opc st := by
  rw [State.keyRun, h]

theorem keyRun_of_admitted {s : State} {opc slot : Nat} (tag : Nat) (f : State → Nat → State × Nat)
    (h : s.keyGate opc slot = none) : s.keyRun tag opc slot f = (f s slot).1.keyDone tag opc (f s slot).2 := by
  rw [State.keyRun, h]

/-- A command that does not meet the gate ends with the gate's status. -/
theorem keyCmd_of_refused {s : State} {opc slot st : Nat} (tag : Nat) (hopc : opc ∈ [1, 2, 3, 4, 5, 6, 7])
    (h : s.keyGate opc slot = some st) : s.keyCmd opc tag slot = s.keyDone tag opc st := by
  have hrun : ∀ f : State → Nat → State × Nat, s.keyRun tag opc slot f = s.keyDone tag opc st := fun f => keyRun_of_refused tag f h
  simp only [List.mem_cons, List.not_mem_nil, or_false] at hopc
  obtain rfl | rfl | rfl | rfl | rfl | rfl | rfl := hopc
  case inr.inr.inr.inr.inl =>
    simp only [State.keyCmd, Nat.reduceEqDiff, if_true, if_false, h]
  all_goals simp only [State.keyCmd, Nat.reduceEqDiff, if_true, if_false, hrun]

theorem ite_some_ne_ok {c : Prop} [Decidable c] {n : Nat} {g : Option Nat} (hn : n ≠ St.OK) (hg : g ≠ some St.OK) :
    (if c then some n else g) ≠ some St.OK := by
  split
  · exact fun h => hn (Option.some.inj h)
  · exact hg

theorem keyGate_ne_ok {s : State} {opc slot st : Nat} (h : s.keyGate opc slot = some st) : st ≠ St.OK := by
  rintro rfl
  refine absurd h (?_ : s.keyGate opc slot ≠ some St.OK)
  iterate 6 refine ite_some_ne_ok (by decide) ?_
  exact nofun

/-- The key commands on a slot, with their OPC. -/
def keyCommands (i : Init) (tag : BitVec 8) (slot : Fin 1024) : List (Instr × Nat) :=
  [(.cryLoad i tag slot, 1), (.cryUnwrap i tag slot, 2), (.cryGen i tag slot, 3), (.cryExport i tag slot, 4),
    (.cryErase i tag slot, 5), (.cryAttr i tag slot, 6), (.cryInfo i tag slot, 7)]

theorem exec_keyCommand {s : State} {i : Init} {tag : BitVec 8} {slot : Fin 1024} {p : Instr × Nat}
    (hmay : s.MayWrite i R.CRY_KCMD) (hp : p ∈ keyCommands i tag slot) :
    exec p.1 s = .next (s.keyCmd p.2 tag.toNat slot.val) := by
  have hrun : ∀ opc, Host.Outcome.next (s.onWrite i R.CRY_KCMD (fun s => s.keyCmd opc tag.toNat slot.val)) =
      (.next (s.keyCmd opc tag.toNat slot.val) : Host.Outcome State Fault Refusal) := fun opc =>
    congrArg Host.Outcome.next (onWrite_of_mayWrite s i _ _ hmay)
  simp only [keyCommands, List.mem_cons, List.not_mem_nil, or_false] at hp
  obtain rfl | rfl | rfl | rfl | rfl | rfl | rfl := hp
  · exact hrun 1
  · exact hrun 2
  · exact hrun 3
  · exact hrun 4
  · exact hrun 5
  · exact hrun 6
  · exact hrun 7

/-- A key command that does not meet the gate completes with the gate's status and changes no slot (R384). -/
theorem keyCommand_refused {s : State} {i : Init} {tag : BitVec 8} {slot : Fin 1024} {p : Instr × Nat} {st : Nat}
    (hmay : s.MayWrite i R.CRY_KCMD) (hp : p ∈ keyCommands i tag slot) (h : s.keyGate p.2 slot.val = some st) :
    Runs p.1 s fun t => KeyPosted s t tag.toNat p.2 st ∧ t.reg R.CRY_ERR = BitVec.ofNat 32 (0x100 + st % 256) ∧
      t.cry.slots = s.cry.slots ∧ SameBytes s t := by
  have hopc : p.2 ∈ [1, 2, 3, 4, 5, 6, 7] := List.mem_map_of_mem (f := Prod.snd) hp
  refine ⟨_, exec_keyCommand hmay hp, ?_⟩
  rw [keyCmd_of_refused _ hopc h]
  exact ⟨keyPosted_keyDone _ _ _ rfl, cryErr_keyDone _ _ _ (keyGate_ne_ok h), keyDone_slots _ _ _ _,
    sameBytes_of_mem (keyDone_mem _ _ _ _)⟩

/-! ### LOAD, GEN and UNWRAP -/

theorem clearKdata_cry (s : State) : ∀ n, (s.clearKdata n).cry = s.cry
  | 0 => rfl
  | n + 1 => clearKdata_cry s n

theorem clearKdata_mem (s : State) : ∀ n, (s.clearKdata n).mem = s.mem
  | 0 => rfl
  | n + 1 => clearKdata_mem s n

/-- CRY_KDATA reads 0 once cleared (R410). -/
theorem kdata_clearKdata (s : State) : ∀ {n j : Nat}, j < n → (s.clearKdata n).reg (R.CRY_KDATA j) = 0
  | n + 1, j, h => by
    rw [State.clearKdata, reg_setReg]
    split
    · rfl
    · next hne => exact kdata_clearKdata s (Nat.lt_of_le_of_ne (Nat.le_of_lt_succ h) fun e => hne (e ▸ rfl))

section
variable {s : State} {i : Init} {tag : BitVec 8} {slot : Fin 1024}

theorem exec_cryLoad (hmay : s.MayWrite i R.CRY_KCMD) (hgate : s.keyGate 1 slot.val = none) :
    exec (.cryLoad i tag slot) s = .next ((s.keyLoad slot.val).1.keyDone tag.toNat 1 (s.keyLoad slot.val).2) :=
  (exec_keyCommand (p := (.cryLoad i tag slot, 1)) hmay (by simp [keyCommands])).trans
    (congrArg Host.Outcome.next (keyRun_of_admitted tag.toNat State.keyLoad hgate))

/-- LOAD takes the key from CRY_KDATA, which it clears (R383, R410). -/
theorem cryLoad_loads (hmay : s.MayWrite i R.CRY_KCMD) (hgate : s.keyGate 1 slot.val = none) (hargs : s.keyArgsOk = true) :
    Runs (.cryLoad i tag slot) s fun t =>
      SlotLoaded s t slot.val (s.rf F.CRY_KARG0_TYPE) (s.rf F.CRY_KARG0_USAGE) ∧ KeyPosted s t tag.toNat 1 St.OK ∧
        (t.slot slot.val).key = (s.kdata 16).take (keyLen (s.rf F.CRY_KARG0_TYPE) (8 * s.rf F.CRY_KARG0_KLEN8)) ∧
        ∀ j, j < 16 → t.reg (R.CRY_KDATA j) = 0 := by
  have hload : s.keyLoad slot.val = ((s.loadSlot slot.val (s.rf F.CRY_KARG0_TYPE) (s.rf F.CRY_KARG0_USAGE) (s.reg R.CRY_KARG1)
      ((s.kdata 16).take (keyLen (s.rf F.CRY_KARG0_TYPE) (8 * s.rf F.CRY_KARG0_KLEN8)))).clearKdata 16, St.OK) := by
    rw [State.keyLoad, hargs]
    rfl
  refine ⟨_, exec_cryLoad hmay hgate, ?_⟩
  rw [hload]
  obtain ⟨hloaded, hposted, hkey⟩ := keyDone_loads (s := s) slot.val _ _ _ tag.toNat 1 rfl (clearKdata_cry _ 16)
    (clearKdata_mem _ 16)
  refine ⟨hloaded, hposted, hkey, fun j hj => ?_⟩
  rw [(regsBut_keyDone_ok _ _ _).reg ?_ (not_evrAddr_of_ge ?_), kdata_clearKdata _ hj]
  · simp only [R.CRY_KDATA, R.CRY_CNT_RESOVF, List.mem_singleton]
    omega
  · simp only [R.CRY_KDATA]
    omega

/-- LOAD with arguments out of range loads nothing (R382). -/
theorem cryLoad_out_of_range (hmay : s.MayWrite i R.CRY_KCMD) (hgate : s.keyGate 1 slot.val = none)
    (hargs : s.keyArgsOk = false) :
    Runs (.cryLoad i tag slot) s fun t => t.cry.slots = s.cry.slots ∧ KeyPosted s t tag.toNat 1 St.RANGE := by
  have hload : s.keyLoad slot.val = (s.clearKdata 16, St.RANGE) := by
    rw [State.keyLoad, hargs]
    rfl
  refine ⟨_, exec_cryLoad hmay hgate, ?_⟩
  rw [hload]
  exact ⟨(keyDone_slots _ _ _ _).trans (congrArg CrySt.slots (clearKdata_cry _ 16)),
    keyPosted_keyDone _ _ _ (congrArg CrySt.kres (clearKdata_cry _ 16))⟩

theorem draw_cry (s : State) (n : Nat) : (s.draw n).1.cry = s.cry := Within.draw (m := 524289) (.refl s) ⟨rfl⟩ .cry rfl

theorem draw_mem (s : State) (n : Nat) : (s.draw n).1.mem = s.mem := Within.draw (m := 524289) (.refl s) ⟨rfl⟩ .mem rfl

theorem draw_length (s : State) (n : Nat) : (s.draw n).2.length = n := by
  unfold State.draw
  extract_lets d
  split <;> exact length_natBytes n _

theorem regsBut_draw (s : State) (n : Nat) : RegsBut [R.PKE_CNT_RESEED] s (s.draw n).1 := by
  unfold State.draw
  extract_lets d
  split
  · exact .refl
  · exact RegsBut.bumpTo (l := [R.PKE_CNT_RESEED]) (t := s.used.setPke fun p => { p with gens := 0 }) .refl (List.mem_singleton_self _)

/-- GEN fills the slot with random bytes (R383). -/
theorem cryGen_loads (hmay : s.MayWrite i R.CRY_KCMD) (hgate : s.keyGate 3 slot.val = none) (hargs : s.keyArgsOk = true)
    (htype : s.rf F.CRY_KARG0_TYPE ≠ 3) (hdrbg : s.rb F.PKE_STAT_DRBGOK = true) :
    Runs (.cryGen i tag slot) s fun t =>
      SlotLoaded s t slot.val (s.rf F.CRY_KARG0_TYPE) (s.rf F.CRY_KARG0_USAGE) ∧ KeyPosted s t tag.toNat 3 St.OK ∧
        (t.slot slot.val).key.length = keyLen (s.rf F.CRY_KARG0_TYPE) (8 * s.rf F.CRY_KARG0_KLEN8) := by
  have hgen : ∃ (u : State) (key : List Byte), u.cry = s.cry ∧ u.mem = s.mem ∧
      key.length = keyLen (s.rf F.CRY_KARG0_TYPE) (8 * s.rf F.CRY_KARG0_KLEN8) ∧
      s.keyGen slot.val = (u.loadSlot slot.val (s.rf F.CRY_KARG0_TYPE) (s.rf F.CRY_KARG0_USAGE) (s.reg R.CRY_KARG1) key, St.OK) := by
    refine ⟨(s.draw (keyLen (s.rf F.CRY_KARG0_TYPE) (8 * s.rf F.CRY_KARG0_KLEN8))).1, _, draw_cry _ _, draw_mem _ _,
      draw_length s _, ?_⟩
    rw [State.keyGen, if_neg (by simp [hargs, htype]), if_neg (by simp [hdrbg])]
  obtain ⟨u, key, hcry, hmem, hlen, hgen⟩ := hgen
  refine ⟨_, (exec_keyCommand (p := (.cryGen i tag slot, 3)) hmay (by simp [keyCommands])).trans
    (congrArg Host.Outcome.next (keyRun_of_admitted tag.toNat State.keyGen hgate)), ?_⟩
  rw [hgen]
  obtain ⟨hloaded, hposted, hkey⟩ := keyDone_loads slot.val (s.rf F.CRY_KARG0_TYPE) (s.rf F.CRY_KARG0_USAGE) key tag.toNat 3
    hcry rfl hmem
  exact ⟨hloaded, hposted, by rw [hkey, hlen]⟩

theorem exec_cryUnwrap (hmay : s.MayWrite i R.CRY_KCMD) (hgate : s.keyGate 2 slot.val = none) :
    exec (.cryUnwrap i tag slot) s =
      .next ((s.keyUnwrapCmd slot.val).1.keyDone tag.toNat 2 (s.keyUnwrapCmd slot.val).2) :=
  (exec_keyCommand (p := (.cryUnwrap i tag slot, 2)) hmay (by simp [keyCommands])).trans
    (congrArg Host.Outcome.next (keyRun_of_admitted tag.toNat State.keyUnwrapCmd hgate))

/-- UNWRAP without a usable key-encryption key ends with NOKEY (R383). -/
theorem cryUnwrap_without_kek (hmay : s.MayWrite i R.CRY_KCMD) (hgate : s.keyGate 2 slot.val = none)
    (hkek : s.kek (s.rf F.CRY_KARG0_KEK) = none) :
    Runs (.cryUnwrap i tag slot) s fun t => t.cry.slots = s.cry.slots ∧ KeyPosted s t tag.toNat 2 St.NOKEY := by
  refine ⟨_, exec_cryUnwrap hmay hgate, ?_⟩
  rw [State.keyUnwrapCmd, hkek]
  exact ⟨keyDone_slots _ _ _ _, keyPosted_keyDone _ _ _ rfl⟩

theorem eccRead_cry (s : State) (reader a len : Nat) : (s.eccRead reader a len).cry = s.cry :=
  Within.eccRead (m := 3145745) (.refl s) ⟨rfl⟩ .cry rfl

/-- A register of the cipher engine stands across a read of memory. -/
theorem reg_eccRead_of_ge (s : State) (reader a len : Nat) {b : Nat} (hb : b ∉ eccRegs) (hge : 0x40020000 ≤ b) :
    (s.eccRead reader a len).reg b = s.reg b := (regsBut_eccRead s reader a len).reg hb (not_evrAddr_of_ge hge)

/-- The bytes that UNWRAP reads. -/
def State.unwrapLen (s : State) : Nat := 16 + keyLen (s.rf F.CRY_KARG0_TYPE) (8 * s.rf F.CRY_KARG0_KLEN8)

theorem kaddr_eccRead (s : State) (reader a len : Nat) : (s.eccRead reader a len).kaddr = s.kaddr := by
  simp only [State.kaddr, State.reg64, State.regN, reg_eccRead_of_ge s reader a len (b := R.CRY_KADDR_LO) (by decide) (by decide),
    reg_eccRead_of_ge s reader a len (b := R.CRY_KADDR_HI) (by decide) (by decide)]

section
variable {kek : List Byte} (hkek : s.kek (s.rf F.CRY_KARG0_KEK) = some kek)
  (hread : s.readable s.kaddr s.unwrapLen = true) (hclean : s.eccBad s.kaddr s.unwrapLen = false)
include hkek hread hclean

/-- A blob that fails the integrity check gives AUTH. -/
theorem keyUnwrapCmd_of_forged (n : Nat) (h : Aes.keyUnwrap (nats kek) (nats (s.bytes s.kaddr s.unwrapLen)) = none) :
    s.keyUnwrapCmd n = (s.eccRead Ini.CRY s.kaddr s.unwrapLen, St.AUTH) := by
  unfold State.unwrapLen at *
  rw [State.keyUnwrapCmd, hkek]
  simp only [hread, hclean, kaddr_eccRead, bytes_congr (eccRead_mem s _ _ _), h, Bool.not_true, Bool.false_eq_true, if_false]

/-- The key of a blob whose attributes suit it is loaded. -/
theorem keyUnwrapCmd_of_good (n : Nat) {p : List Nat}
    (h : Aes.keyUnwrap (nats kek) (nats (s.bytes s.kaddr s.unwrapLen)) = some p) (htype : (Config.attrRead (p.take 8)).1 ≤ 4)
    (hsuits : suits (Config.attrRead (p.take 8)).1 ((Config.attrRead (p.take 8)).2.1 &&& s.rf F.CRY_KARG0_USAGE) = true)
    (hlen : keyLen (Config.attrRead (p.take 8)).1 (Config.attrRead (p.take 8)).2.2 =
      keyLen (s.rf F.CRY_KARG0_TYPE) (8 * s.rf F.CRY_KARG0_KLEN8)) :
    s.keyUnwrapCmd n = ((s.eccRead Ini.CRY s.kaddr s.unwrapLen).loadSlot n (Config.attrRead (p.take 8)).1
      ((Config.attrRead (p.take 8)).2.1 &&& s.rf F.CRY_KARG0_USAGE) (s.reg R.CRY_KARG1) (toBytes (p.drop 8)), St.OK) := by
  have hrf : ∀ l, (s.eccRead Ini.CRY s.kaddr l).rf F.CRY_KARG0_USAGE = s.rf F.CRY_KARG0_USAGE := fun l =>
    (regsBut_eccRead s _ _ _).rf (by decide) (not_evrAddr_of_ge (by decide))
  have hmask : ∀ l, (s.eccRead Ini.CRY s.kaddr l).reg R.CRY_KARG1 = s.reg R.CRY_KARG1 := fun l =>
    reg_eccRead_of_ge s _ _ _ (by decide) (by decide)
  unfold State.unwrapLen at *
  rw [State.keyUnwrapCmd, hkek]
  simp only [hread, hclean, kaddr_eccRead, bytes_congr (eccRead_mem s _ _ _), h, hrf, hmask, hsuits, hlen, Bool.not_true,
    Bool.false_eq_true, if_false, Nat.not_lt.mpr htype, ne_eq, not_true_eq_false, or_self]

end

/-- UNWRAP loads the key of a blob that passes its checks, with the usage that both sides grant (R383). -/
theorem cryUnwrap_of_read (hmay : s.MayWrite i R.CRY_KCMD) (hgate : s.keyGate 2 slot.val = none) {kek : List Byte}
    (hkek : s.kek (s.rf F.CRY_KARG0_KEK) = some kek) (hread : s.readable s.kaddr s.unwrapLen = true)
    (hclean : s.eccBad s.kaddr s.unwrapLen = false) :
    (Aes.keyUnwrap (nats kek) (nats (s.bytes s.kaddr s.unwrapLen)) = none → Runs (.cryUnwrap i tag slot) s fun t =>
      t.cry.slots = s.cry.slots ∧ KeyPosted s t tag.toNat 2 St.AUTH) ∧
    (∀ p, Aes.keyUnwrap (nats kek) (nats (s.bytes s.kaddr s.unwrapLen)) = some p →
      (Config.attrRead (p.take 8)).1 ≤ 4 →
      suits (Config.attrRead (p.take 8)).1 ((Config.attrRead (p.take 8)).2.1 &&& s.rf F.CRY_KARG0_USAGE) = true →
      keyLen (Config.attrRead (p.take 8)).1 (Config.attrRead (p.take 8)).2.2 =
        keyLen (s.rf F.CRY_KARG0_TYPE) (8 * s.rf F.CRY_KARG0_KLEN8) →
      Runs (.cryUnwrap i tag slot) s fun t =>
        SlotLoaded s t slot.val (Config.attrRead (p.take 8)).1 ((Config.attrRead (p.take 8)).2.1 &&& s.rf F.CRY_KARG0_USAGE) ∧
          (t.slot slot.val).key = toBytes (p.drop 8) ∧ KeyPosted s t tag.toNat 2 St.OK) := by
  refine ⟨fun h => ⟨_, exec_cryUnwrap hmay hgate, ?_⟩, fun p h htype hsuits hlen => ⟨_, exec_cryUnwrap hmay hgate, ?_⟩⟩
  · rw [keyUnwrapCmd_of_forged hkek hread hclean _ h]
    exact ⟨(keyDone_slots _ _ _ _).trans (congrArg CrySt.slots (eccRead_cry _ _ _ _)),
      keyPosted_keyDone _ _ _ (congrArg CrySt.kres (eccRead_cry _ _ _ _))⟩
  · rw [keyUnwrapCmd_of_good hkek hread hclean _ h htype hsuits hlen]
    obtain ⟨hloaded, hposted, hkey⟩ := keyDone_loads slot.val (Config.attrRead (p.take 8)).1 _ (toBytes (p.drop 8)) tag.toNat 2
      (eccRead_cry s Ini.CRY s.kaddr s.unwrapLen) rfl (eccRead_mem _ _ _ _)
    exact ⟨hloaded, hkey, hposted⟩

/-! ### EXPORT, ERASE, ATTR and INFO -/

theorem exec_cryExport (hmay : s.MayWrite i R.CRY_KCMD) (hgate : s.keyGate 4 slot.val = none) :
    exec (.cryExport i tag slot) s = .next ((s.keyExport slot.val).1.keyDone tag.toNat 4 (s.keyExport slot.val).2) :=
  (exec_keyCommand (p := (.cryExport i tag slot, 4)) hmay (by simp [keyCommands])).trans
    (congrArg Host.Outcome.next (keyRun_of_admitted tag.toNat State.keyExport hgate))

/-- EXPORT of a key without the usage ends with NOKEY (R383). -/
theorem cryExport_not_allowed (hmay : s.MayWrite i R.CRY_KCMD) (hgate : s.keyGate 4 slot.val = none) {kek : List Byte}
    (hkek : s.kek (s.rf F.CRY_KARG0_KEK) = some kek) (husage : (s.slot slot.val).usage &&& Usage.EXPORT = 0) :
    Runs (.cryExport i tag slot) s fun t =>
      KeyPosted s t tag.toNat 4 St.NOKEY ∧ t.cry.slots = s.cry.slots ∧ SameBytes s t := by
  refine ⟨_, exec_cryExport hmay hgate, ?_⟩
  rw [State.keyExport, hkek]
  simp only [husage, if_true]
  exact ⟨keyPosted_keyDone _ _ _ rfl, keyDone_slots _ _ _ _, sameBytes_of_mem (keyDone_mem _ _ _ _)⟩

theorem store_cry (s : State) (writer a : Nat) (l : List Byte) : (s.store writer a l).cry = s.cry :=
  Within.store (m := 3145747) (.refl s) ⟨rfl⟩ .cry rfl

/-- The blob that EXPORT writes of a key (R383). -/
def KeySlot.blob (k : KeySlot) (kek : List Byte) : List Byte :=
  toBytes (Aes.keyWrap (nats kek) (((Config.attrBlock k.typ k.usage k.key.length).take 8 ++
    List.replicate (8 - (Config.attrBlock k.typ k.usage k.key.length).length) 0) ++ nats k.key))

/-- EXPORT writes the wrapped blob and nothing else (R383). -/
theorem cryExport_writes (hmay : s.MayWrite i R.CRY_KCMD) (hgate : s.keyGate 4 slot.val = none) {kek : List Byte}
    (hkek : s.kek (s.rf F.CRY_KARG0_KEK) = some kek) (husage : (s.slot slot.val).usage &&& Usage.EXPORT ≠ 0)
    (hwrite : s.writable Ini.CRY s.kaddr (16 + (s.slot slot.val).key.length) = true) :
    Runs (.cryExport i tag slot) s fun t =>
      t.bytes s.kaddr ((s.slot slot.val).blob kek).length = (s.slot slot.val).blob kek ∧
        (∀ a, a < s.kaddr ∨ s.kaddr + ((s.slot slot.val).blob kek).length ≤ a → t.byte a = s.byte a) ∧
        KeyPosted s t tag.toNat 4 St.OK ∧ t.cry.slots = s.cry.slots := by
  have hexport : s.keyExport slot.val = (s.store Ini.CRY s.kaddr ((s.slot slot.val).blob kek), St.OK) := by
    rw [State.keyExport, hkek]
    simp only [husage, hwrite, if_false, Bool.not_true, Bool.false_eq_true]
    rfl
  refine ⟨_, exec_cryExport hmay hgate, ?_⟩
  rw [hexport]
  refine ⟨(bytes_congr (keyDone_mem _ _ _ _) _ _).trans (bytes_store _ _ _ _), fun a ha => ?_,
    keyPosted_keyDone _ _ _ (congrArg CrySt.kres (store_cry _ _ _ _)),
    (keyDone_slots _ _ _ _).trans (congrArg CrySt.slots (store_cry _ _ _ _))⟩
  exact (sameBytes_of_mem (keyDone_mem _ _ _ _) a).trans (byte_store_of_outside ha)

theorem exec_cryErase (hmay : s.MayWrite i R.CRY_KCMD) (hgate : s.keyGate 5 slot.val = none) :
    exec (.cryErase i tag slot) s = .next (s.keyErase tag.toNat slot.val) := by
  have hcmd : s.keyCmd 5 tag.toNat slot.val = s.keyErase tag.toNat slot.val := by
    simp only [State.keyCmd, Nat.reduceEqDiff, if_true, if_false, hgate]
  exact (exec_keyCommand (p := (.cryErase i tag slot, 5)) hmay (by simp [keyCommands])).trans (congrArg Host.Outcome.next hcmd)

/-- ERASE of a loaded slot begins, and its result waits; of another slot it is done (R384, R386). -/
theorem cryErase_erases (hmay : s.MayWrite i R.CRY_KCMD) (hgate : s.keyGate 5 slot.val = none) :
    (s.slotState slot.val = Slot.LOADED → Runs (.cryErase i tag slot) s fun t =>
      (t.slot slot.val).st = Slot.ERASING ∧ (t.slot slot.val).key = (s.slot slot.val).key ∧
        (t.slot slot.val).gen = (s.slot slot.val).gen ∧ (∀ m, m ≠ slot.val → t.slot m = s.slot m) ∧
        t.cry.kres = s.cry.kres ∧ t.regs = s.regs ∧ SameBytes s t) ∧
    (s.slotState slot.val ≠ Slot.LOADED → Runs (.cryErase i tag slot) s fun t =>
      t.cry.slots = s.cry.slots ∧ KeyPosted s t tag.toNat 5 St.OK ∧ SameBytes s t) := by
  refine ⟨fun h => ⟨_, exec_cryErase hmay hgate, ?_⟩, fun h => ⟨_, exec_cryErase hmay hgate, ?_⟩⟩
  · rw [State.keyErase, if_pos h]
    beta_reduce
    rw [slot_setSlot_same]
    exact ⟨rfl, rfl, rfl, fun m hm => slot_setSlot_other _ _ hm, rfl, rfl, sameBytes_of_mem rfl⟩
  · rw [State.keyErase, if_neg h]
    exact ⟨keyDone_slots _ _ _ _, keyPosted_keyDone _ _ _ rfl, sameBytes_of_mem (keyDone_mem _ _ _ _)⟩

/-- ATTR only clears bits of the usage and of the mask (R383). -/
theorem cryAttr_narrows (hmay : s.MayWrite i R.CRY_KCMD) (hgate : s.keyGate 6 slot.val = none) :
    Runs (.cryAttr i tag slot) s fun t =>
      t.slot slot.val = { s.slot slot.val with
        usage := (s.slot slot.val).usage &&& s.rf F.CRY_KARG0_USAGE, mask := (s.slot slot.val).mask &&& s.reg R.CRY_KARG1 } ∧
        (∀ m, m ≠ slot.val → t.slot m = s.slot m) ∧ KeyPosted s t tag.toNat 6 St.OK ∧ SameBytes s t := by
  refine ⟨_, (exec_keyCommand (p := (.cryAttr i tag slot, 6)) hmay (by simp [keyCommands])).trans
    (congrArg Host.Outcome.next (keyRun_of_admitted tag.toNat State.keyAttr hgate)), ?_⟩
  exact ⟨(slot_congr (keyDone_slots _ _ _ _) _).trans (slot_setSlot_same _ _ _),
    fun m hm => (slot_congr (keyDone_slots _ _ _ _) _).trans (slot_setSlot_other _ _ hm),
    keyPosted_keyDone _ _ _ rfl, sameBytes_of_mem (keyDone_mem _ _ _ _)⟩

theorem keyInfo_latches (s : State) (n : Nat) :
    (s.keyInfo n).1.reg R.CRY_KGEN = s.slotGen n ∧ (s.keyInfo n).1.reg R.CRY_KERASEGEN = s.slotEraseGen n ∧
      (s.keyInfo n).1.reg R.CRY_KINFO1 = (if s.slotState n = Slot.EMPTY then 0 else (s.slot n).mask) := by
  unfold State.keyInfo
  extract_lets k st shown head gens all
  have hmask : shown.mask = if s.slotState n = Slot.EMPTY then 0 else (s.slot n).mask := apply_ite KeySlot.mask _ _ _
  refine ⟨?_, ?_, ?_⟩
  · exact (reg_setReg_other _ _ (by decide)).trans ((reg_setReg_other _ _ (by decide)).trans (reg_setReg_same _ _ _))
  · exact (reg_setReg_other _ _ (by decide)).trans (reg_setReg_same _ _ _)
  · exact (reg_setReg_other _ _ (by decide)).trans ((reg_setReg_other _ _ (by decide)).trans
      ((reg_setReg_other _ _ (by decide)).trans ((reg_setReg_same _ _ _).trans hmask)))

/-- INFO shows the slot's generations, and its mask unless it is empty (R382, R383). -/
theorem cryInfo_latches (hmay : s.MayWrite i R.CRY_KCMD) (hgate : s.keyGate 7 slot.val = none) :
    Runs (.cryInfo i tag slot) s fun t =>
      t.reg R.CRY_KGEN = s.slotGen slot.val ∧ t.reg R.CRY_KERASEGEN = s.slotEraseGen slot.val ∧
        t.reg R.CRY_KINFO1 = (if s.slotState slot.val = Slot.EMPTY then 0 else (s.slot slot.val).mask) ∧
        t.cry.slots = s.cry.slots ∧ KeyPosted s t tag.toNat 7 St.OK ∧ SameBytes s t := by
  have hstands : ∀ u : State, ∀ a ∈ [R.CRY_KGEN, R.CRY_KERASEGEN, R.CRY_KINFO1], (u.keyDone tag.toNat 7 St.OK).reg a = u.reg a :=
    fun u a ha => (regsBut_keyDone_ok u tag.toNat 7).reg
      ((by decide : ∀ a ∈ [R.CRY_KGEN, R.CRY_KERASEGEN, R.CRY_KINFO1], a ∉ [R.CRY_CNT_RESOVF]) a ha)
      (not_evrAddr_of_ge ((by decide : ∀ a ∈ [R.CRY_KGEN, R.CRY_KERASEGEN, R.CRY_KINFO1], 0x40020000 ≤ a) a ha))
  refine ⟨_, (exec_keyCommand (p := (.cryInfo i tag slot, 7)) hmay (by simp [keyCommands])).trans
    (congrArg Host.Outcome.next (keyRun_of_admitted tag.toNat State.keyInfo hgate)), ?_⟩
  have hcry : (s.keyInfo slot.val).1.cry = s.cry := rfl
  have hmem : (s.keyInfo slot.val).1.mem = s.mem := rfl
  rw [show (s.keyInfo slot.val).2 = St.OK from rfl]
  dsimp only
  rw [hstands _ _ (by simp), hstands _ _ (by simp), hstands _ _ (by simp)]
  obtain ⟨hgen, herase, hmask⟩ := keyInfo_latches s slot.val
  exact ⟨hgen, herase, hmask, (keyDone_slots _ _ _ _).trans (congrArg CrySt.slots hcry),
    keyPosted_keyDone _ _ _ (congrArg CrySt.kres hcry), sameBytes_of_mem ((keyDone_mem _ _ _ _).trans hmem)⟩

end

end Sys2Proof.Machine
end

section
/-! PROOFS. The cipher engine's results, security associations and their commands (O49). -/

namespace Sys2Proof.Machine

/-! ### Words of memory -/

theorem getElem?_words (s : State) : ∀ (n a : Nat) {k : Nat}, k < n → (s.words a n)[k]? = some (s.read32 (a + 4 * k))
  | n + 1, a, 0, _ => rfl
  | n + 1, a, k + 1, h => by
    rw [State.words, List.getElem?_cons_succ, getElem?_words s n (a + 4) (Nat.lt_of_succ_lt_succ h),
      show a + 4 + 4 * k = a + 4 * (k + 1) from by omega]

theorem getD_words (s : State) (a : Nat) {n k : Nat} (h : k < n) : (s.words a n).getD k 0 = s.read32 (a + 4 * k) := by
  rw [List.getD_eq_getElem?_getD, getElem?_words s n a h, Option.getD_some]

theorem setBytes_words (s : State) (a : Nat) (ws : List Word) : s.setBytes a (wordBytes ws) = s.setWords a ws := by
  induction ws generalizing s a with
  | nil => rfl
  | cons w ws ih =>
    have hsplit : s.setBytes a (wordBytes (w :: ws)) = (s.setBytes a (wordBytes [w])).setBytes (a + 4) (wordBytes ws) := rfl
    rw [hsplit, setBytes_wordBytes, ih, State.setWords]

/-- A stored list of words reads back. -/
theorem read32_store_words (s : State) (writer a : Nat) {ws : List Word} {k : Nat} {w : Word} (h : ws[k]? = some w) :
    (s.store writer a (wordBytes ws)).read32 (a + 4 * k) = w := by
  rw [read32_congr (mem_store ..), setBytes_words, read32_setWords h]

/-! ### Results -/

theorem cryKeyResultPop_pops {s : State} {i : Init} (hmay : s.MayRead i R.CRY_KRES) :
    (s.cry.kres = [] → Runs (.cryKeyResultPop i) s fun t => t.out = .busData i 0 :: s.out ∧ t.cry = s.cry) ∧
    (∀ x xs, s.cry.kres = x :: xs → Runs (.cryKeyResultPop i) s fun t =>
      t.out = .busData i x.word :: s.out ∧ t.cry.kres = xs ∧ t.cry.slots = s.cry.slots ∧ t.regs = s.regs) := by
  have hexec : exec (.cryKeyResultPop i) s = .next (s.keyPop i) :=
    congrArg Host.Outcome.next (onRead_of_mayRead s i _ _ hmay)
  refine ⟨fun h => ⟨_, hexec, ?_⟩, fun x xs h => ⟨_, hexec, ?_⟩⟩
  · rw [State.keyPop, h]
    exact ⟨rfl, rfl⟩
  · rw [State.keyPop, h]
    exact ⟨rfl, rfl, rfl, rfl⟩

/-! ### Security associations -/

theorem sa_congr {s t : State} (h : t.cry.sas = s.cry.sas) (m : Nat) : t.sa m = s.sa m := by
  rw [State.sa, h, State.sa]

theorem sa_setSa (s : State) (n m : Nat) (x : Sa) : (s.setSa n x).sa m = if m = n then x else s.sa m :=
  Sparse.get_put _ _ _ _ _

theorem setSa_kres (s : State) (n : Nat) (x : Sa) : (s.setSa n x).cry.kres = s.cry.kres := rfl

theorem sa_setSa_same (s : State) (n : Nat) (x : Sa) : (s.setSa n x).sa n = x := (sa_setSa s n n x).trans (if_pos rfl)

theorem sa_setSa_other (s : State) {n m : Nat} (x : Sa) (h : m ≠ n) : (s.setSa n x).sa m = s.sa m :=
  (sa_setSa s n m x).trans (if_neg h)

section
variable {s : State} {i : Init} {tag : BitVec 8} {j : Fin 256} (hmay : s.MayWrite i R.CRY_SACMD) (hready : s.ready Fn.CRY = true)
include hmay hready

theorem exec_saLoad : exec (.saLoad i tag j) s = .next ((s.saLoad j.val).1.keyDone tag.toNat 0x81 (s.saLoad j.val).2) := by
  have hcmd : s.saCmd 1 tag.toNat j.val = (s.saLoad j.val).1.keyDone tag.toNat 0x81 (s.saLoad j.val).2 := by
    rw [State.saCmd, if_neg (by simp [hready]), if_pos rfl]
  exact (congrArg Host.Outcome.next (onWrite_of_mayWrite s i _ _ hmay)).trans (congrArg Host.Outcome.next hcmd)

theorem exec_saErase : exec (.saErase i tag j) s = .next ((s.saErase j.val).keyDone tag.toNat 0x82 St.OK) := by
  have hcmd : s.saCmd 2 tag.toNat j.val = (s.saErase j.val).keyDone tag.toNat 0x82 St.OK := by
    rw [State.saCmd, if_neg (by simp [hready]), if_neg (by decide), if_pos rfl]
  exact (congrArg Host.Outcome.next (onWrite_of_mayWrite s i _ _ hmay)).trans (congrArg Host.Outcome.next hcmd)

theorem exec_saRead : exec (.saRead i tag j) s = .next ((s.saRead j.val).1.keyDone tag.toNat 0x83 (s.saRead j.val).2) := by
  have hcmd : s.saCmd 3 tag.toNat j.val = (s.saRead j.val).1.keyDone tag.toNat 0x83 (s.saRead j.val).2 := by
    rw [State.saCmd, if_neg (by simp [hready]), if_neg (by decide), if_neg (by decide), if_pos rfl]
  exact (congrArg Host.Outcome.next (onWrite_of_mayWrite s i _ _ hmay)).trans (congrArg Host.Outcome.next hcmd)

/-- A valid SA is not loaded again (R392). -/
theorem saLoad_of_valid (hvalid : (s.sa j.val).valid = true) :
    Runs (.saLoad i tag j) s fun t => t.cry.sas = s.cry.sas ∧ KeyPosted s t tag.toNat 0x81 St.STATE ∧ SameBytes s t := by
  have hload : s.saLoad j.val = (s, St.STATE) := by rw [State.saLoad, if_pos hvalid]
  refine ⟨_, exec_saLoad hmay hready, ?_⟩
  rw [hload]
  exact ⟨keyDone_sas _ _ _ _, keyPosted_keyDone _ _ _ rfl, sameBytes_of_mem (keyDone_mem _ _ _ _)⟩

/-- ERASE leaves the SA invalid and every other as it was (R392). -/
theorem saErase_erases : Runs (.saErase i tag j) s fun t =>
    (t.sa j.val).valid = false ∧ (∀ m, m ≠ j.val → t.sa m = s.sa m) ∧ KeyPosted s t tag.toNat 0x82 St.OK ∧ SameBytes s t := by
  have hsa : ∀ m, (s.saErase j.val).sa m = (s.setSa j.val Sa.none).sa m := fun m => sa_congr rfl m
  refine ⟨_, exec_saErase hmay hready, ?_, fun m hm => ?_, keyPosted_keyDone _ _ _ rfl, sameBytes_of_mem (keyDone_mem _ _ _ _)⟩
  · rw [sa_congr (keyDone_sas _ _ _ _), hsa, sa_setSa_same]
    rfl
  · rw [sa_congr (keyDone_sas _ _ _ _), hsa, sa_setSa_other _ _ hm]

/-- READ stores the words of the SA at the image address and nothing else (R392). -/
theorem saRead_stores (hwrite : s.writable Ini.CRY s.saAddr 128 = true) : Runs (.saRead i tag j) s fun t =>
    (∀ m, m < 32 → t.read32 (s.saAddr + 4 * m) = (s.sa j.val).words.getD m 0) ∧
      (∀ b, b < s.saAddr ∨ s.saAddr + 128 ≤ b → t.byte b = s.byte b) ∧ KeyPosted s t tag.toNat 0x83 St.OK ∧
      t.cry.sas = s.cry.sas := by
  let image : List Word := (List.range 32).map fun k => (s.sa j.val).words.getD k 0
  have hread : s.saRead j.val = (s.store Ini.CRY s.saAddr (wordBytes image), St.OK) := by
    rw [State.saRead, if_neg (by simp [hwrite])]
  have hlen : (wordBytes image).length = 128 := by
    rw [length_wordBytes, List.length_map, List.length_range]
  refine ⟨_, exec_saRead hmay hready, ?_⟩
  rw [hread]
  refine ⟨fun m hm => ?_, fun b hb => ?_, keyPosted_keyDone _ _ _ (congrArg CrySt.kres (store_cry _ _ _ _)),
    (keyDone_sas _ _ _ _).trans (congrArg CrySt.sas (store_cry _ _ _ _))⟩
  · have himage : image[m]? = some ((s.sa j.val).words.getD m 0) := by
      rw [List.getElem?_map, List.getElem?_range hm, Option.map_some]
    exact (read32_congr (keyDone_mem _ _ _ _) _).trans (read32_store_words _ _ _ himage)
  · exact (sameBytes_of_mem (keyDone_mem _ _ _ _) b).trans (byte_store_of_outside (hlen ▸ hb))

end

/-- The word an SA takes from word `k` of its image (R392). -/
def saWord (s : State) (a k : Nat) : Word :=
  if k = 0 then (s.read32 a &&& 0x700003FF) ||| 0x80000000
  else if k = 3 then BitVec.ofNat 32 (bits (s.read32 (a + 12)) 10 0)
  else if k ≤ 10 then s.read32 (a + 4 * k) else 0

/-- The SA that an image gives. -/
def saImage (s : State) (a : Nat) : Sa := ⟨(List.range 32).map (saWord s a), 0, false, false⟩

theorem getD_saImage (s : State) (a : Nat) {m : Nat} (h : m < 32) : (saImage s a).words.getD m 0 = saWord s a m := by
  rw [saImage, List.getD_eq_getElem?_getD, List.getElem?_map, List.getElem?_range h, Option.map_some, Option.getD_some]

theorem saAddr_eccRead (s : State) (reader a len : Nat) : (s.eccRead reader a len).saAddr = s.saAddr := by
  simp only [State.saAddr, State.reg64, State.regN,
    reg_eccRead_of_ge s reader a len (b := R.CRY_SAADDR_LO) (by decide) (by decide),
    reg_eccRead_of_ge s reader a len (b := R.CRY_SAADDR_HI) (by decide) (by decide)]

/-- What LOAD makes of an image that it can read: the window decides (R392). -/
theorem saLoad_of_image {s : State} {n : Nat} (hvalid : (s.sa n).valid = false) (hread : s.readable s.saAddr 128 = true)
    (hclean : s.eccBad s.saAddr 128 = false) :
    s.saLoad n = if bits (s.read32 (s.saAddr + 12)) 10 0 % 64 ≠ 0 ∨ bits (s.read32 (s.saAddr + 12)) 10 0 < 64 ∨
        1024 < bits (s.read32 (s.saAddr + 12)) 10 0 then (s.eccRead Ini.CRY s.saAddr 128, St.RANGE)
      else ((s.eccRead Ini.CRY s.saAddr 128).setSa n (saImage s s.saAddr), St.OK) := by
  rw [State.saLoad, if_neg (by simp [hvalid]), if_neg (by simp [hread]), if_neg (by simp [hclean])]
  extract_lets u w win keep
  have hword : ∀ k, k < 32 → w.getD k 0 = s.read32 (s.saAddr + 4 * k) :=
    fun k hk => (getD_words _ _ hk).trans (read32_congr (eccRead_mem _ _ _ _) _)
  have hzero : w.getD 0 0 = s.read32 s.saAddr := by rw [hword 0 (by decide), Nat.mul_zero, Nat.add_zero]
  have hthree : w.getD 3 0 = s.read32 (s.saAddr + 12) := hword 3 (by decide)
  clear_value w
  have hwin : win = bits (s.read32 (s.saAddr + 12)) 10 0 := congrArg (bits · 10 0) hthree
  rw [← hwin]
  by_cases h : win % 64 ≠ 0 ∨ win < 64 ∨ 1024 < win
  · rw [if_pos h, if_pos h]
  · rw [if_neg h, if_neg h]
    have hkeep : (List.range 32).map keep = (List.range 32).map (saWord s s.saAddr) := List.map_congr_left fun k hk => by
      have hk' := List.mem_range.mp hk
      simp only [keep, saWord, hzero, hwin, hword k hk']
    rw [hkeep, saImage]

/-- LOAD takes an image whose window is in range, and no other (R392). -/
theorem saLoad_of_window {s : State} {i : Init} {tag : BitVec 8} {j : Fin 256} (hmay : s.MayWrite i R.CRY_SACMD)
    (hready : s.ready Fn.CRY = true) (hvalid : (s.sa j.val).valid = false) (hread : s.readable s.saAddr 128 = true)
    (hclean : s.eccBad s.saAddr 128 = false) :
    let win := bits (s.read32 (s.saAddr + 12)) 10 0
    (win % 64 = 0 ∧ 64 ≤ win ∧ win ≤ 1024 → Runs (.saLoad i tag j) s fun t =>
      (t.sa j.val).valid = true ∧ (t.sa j.val).bitmap = 0 ∧ (t.sa j.val).w 3 = win ∧
        (∀ m, 1 ≤ m → m ≤ 10 → m ≠ 3 → (t.sa j.val).w m = (s.read32 (s.saAddr + 4 * m)).toNat) ∧
        (∀ m, 11 ≤ m → m < 32 → (t.sa j.val).w m = 0) ∧ (∀ m, m ≠ j.val → t.sa m = s.sa m) ∧
        KeyPosted s t tag.toNat 0x81 St.OK ∧ SameBytes s t) ∧
    (¬ (win % 64 = 0 ∧ 64 ≤ win ∧ win ≤ 1024) → Runs (.saLoad i tag j) s fun t =>
      t.cry.sas = s.cry.sas ∧ KeyPosted s t tag.toNat 0x81 St.RANGE) := by
  intro win
  have hload := saLoad_of_image hvalid hread hclean
  refine ⟨fun hwin => ⟨_, exec_saLoad hmay hready, ?_⟩, fun hwin => ⟨_, exec_saLoad hmay hready, ?_⟩⟩
  · rw [hload, if_neg (show ¬ (win % 64 ≠ 0 ∨ win < 64 ∨ 1024 < win) by omega)]
    have hsa : ∀ m, (((s.eccRead Ini.CRY s.saAddr 128).setSa j.val (saImage s s.saAddr)).keyDone tag.toNat 0x81 St.OK).sa m =
        ((s.eccRead Ini.CRY s.saAddr 128).setSa j.val (saImage s s.saAddr)).sa m := sa_congr (keyDone_sas _ _ _ _)
    beta_reduce
    rw [hsa, sa_setSa_same]
    refine ⟨?_, rfl, ?_, fun m hlo hhi hne => ?_, fun m hlo hhi => ?_, fun m hm => ?_,
      keyPosted_keyDone _ _ _ ((setSa_kres _ _ _).trans (congrArg CrySt.kres (eccRead_cry _ _ _ _))),
      sameBytes_of_mem ((keyDone_mem _ _ _ _).trans (eccRead_mem _ _ _ _))⟩
    · rw [Sa.valid, getD_saImage _ _ (by decide), saWord, if_pos rfl, BitVec.getLsbD_or]
      exact Bool.or_true _
    · rw [Sa.w, getD_saImage _ _ (by decide), saWord, if_neg (by decide), if_pos rfl, BitVec.toNat_ofNat]
      exact Nat.mod_eq_of_lt (Nat.lt_of_le_of_lt hwin.2.2 (by decide))
    · rw [Sa.w, getD_saImage _ _ (by omega), saWord, if_neg (by omega), if_neg hne, if_pos hhi]
    · rw [Sa.w, getD_saImage _ _ hhi, saWord, if_neg (by omega), if_neg (by omega), if_neg (by omega)]
      rfl
    · rw [hsa, sa_setSa_other _ _ hm, sa_congr (congrArg CrySt.sas (eccRead_cry _ _ _ _))]
  · rw [hload, if_pos (show win % 64 ≠ 0 ∨ win < 64 ∨ 1024 < win by omega)]
    exact ⟨(keyDone_sas _ _ _ _).trans (congrArg CrySt.sas (eccRead_cry _ _ _ _)),
      keyPosted_keyDone _ _ _ (congrArg CrySt.kres (eccRead_cry _ _ _ _))⟩

end Sys2Proof.Machine
end

section
/-! PROOFS. The end of an erase: the operations in flight that use a key end, and none is left that does (O49). -/

namespace Sys2Proof.Machine

/-! ### What an end of an operation leaves of the keys -/

/-- The slots, the results and the mark of an alarm erase stand. -/
structure KeysStand (s t : State) : Prop where
  slots : t.cry.slots = s.cry.slots
  kres : t.cry.kres = s.cry.kres
  alm : t.cry.almErase = s.cry.almErase

namespace KeysStand

variable {s t u : State}

theorem of_cry (h : t.cry = s.cry) : KeysStand s t := by
  refine ⟨?_, ?_, ?_⟩ <;> rw [h]

theorem trans (h : KeysStand s t) (g : KeysStand t u) : KeysStand s u :=
  ⟨g.slots.trans h.slots, g.kres.trans h.kres, g.alm.trans h.alm⟩

end KeysStand

theorem pgHandBack_cry (s : State) (o : CryOp) (st bytes : Nat) : (s.pgHandBack o st bytes).cry = s.cry :=
  Within.pgHandBack (m := 19) (.refl s) ⟨rfl⟩ .cry rfl

theorem dropFirst_sublist (n : Nat) : ∀ l : List CryOp, (dropFirst n l).Sublist l
  | [] => .slnil
  | o :: os => by
    rw [dropFirst]
    split
    · exact List.sublist_cons_self o os
    · exact (dropFirst_sublist n os).cons_cons o

/-- A flush hands descriptors back: it takes operations out of the list, and the keys stand. -/
theorem pgFlush_cry (n : Nat) : ∀ (fuel : Nat) (s : State),
    (s.pgFlush n fuel).cry.ops.Sublist s.cry.ops ∧ KeysStand s (s.pgFlush n fuel)
  | 0, s => ⟨List.Sublist.refl _, .of_cry rfl⟩
  | fuel + 1, s => by
    rw [State.pgFlush]
    split
    · split
      · exact ⟨List.Sublist.refl _, rfl, rfl, rfl⟩
      · exact ⟨List.Sublist.refl _, .of_cry rfl⟩
    · next o _ =>
      split
      · exact ⟨List.Sublist.refl _, .of_cry rfl⟩
      · next r _ =>
        have hcry := pgHandBack_cry s o r.1 r.2
        have hkeys : KeysStand s ((s.pgHandBack o r.1 r.2).setCry fun c => { c with ops := dropFirst n c.ops }) :=
          (KeysStand.of_cry hcry).trans ⟨rfl, rfl, rfl⟩
        obtain ⟨hops, hstand⟩ :=
          pgFlush_cry n fuel ((s.pgHandBack o r.1 r.2).setCry fun c => { c with ops := dropFirst n c.ops })
        refine ⟨hops.trans ?_, hkeys.trans hstand⟩
        rw [setCry_cry, hcry]
        exact dropFirst_sublist n _

theorem crySync_cry (s : State) : s.crySync.cry = s.cry := rfl

theorem pgSettle_cry (s : State) (n : Nat) : (s.pgSettle n).cry.ops.Sublist s.cry.ops ∧ KeysStand s (s.pgSettle n) := by
  obtain ⟨hops, hstand⟩ := pgFlush_cry n (s.cry.ops.length + 1) s
  rw [State.pgSettle, crySync_cry]
  exact ⟨hops, hstand.trans (.of_cry (crySync_cry _))⟩

theorem opCount_cry (s : State) (o : CryOp) (st : Nat) : (s.opCount o st).cry = s.cry :=
  Within.opCount (m := 1) (.refl s) ⟨rfl⟩ .cry rfl

/-- The operations in flight once number `k` has ended, before descriptors are handed back. -/
def CryOp.ended (o : CryOp) (ops : List CryOp) (k : Nat) (r : Nat × Nat) : List CryOp :=
  if o.fw then ops.set k { o with core := none, final := some r } else ops.eraseIdx k

theorem opEnd_cry {s : State} {k : Nat} {o : CryOp} (h : s.cry.ops[k]? = some o) (st : Nat) (out tag : List Byte) :
    (s.opEnd k st out tag).cry.ops.Sublist (o.ended s.cry.ops k (st, out.length)) ∧ KeysStand s (s.opEnd k st out tag) := by
  have hcount := opCount_cry s o st
  have hset : ∀ f : List CryOp → List CryOp,
      ((s.opCount o st).setCry fun c => { c with ops := f c.ops }).cry = { s.cry with ops := f s.cry.ops } := fun f => by
    rw [setCry_cry, hcount]
  unfold State.opEnd
  simp only [h]
  split
  · next hfw =>
    obtain ⟨hops, hstand⟩ := pgSettle_cry ((s.opCount o st).setCry fun c =>
      { c with ops := c.ops.set k { o with core := none, final := some (st, out.length) } }) o.page
    rw [hset fun l => l.set k _] at hops
    have hfirst : KeysStand s ((s.opCount o st).setCry fun c =>
        { c with ops := c.ops.set k { o with core := none, final := some (st, out.length) } }) := by
      refine ⟨?_, ?_, ?_⟩ <;> rw [hset fun l => l.set k _]
    refine ⟨?_, hfirst.trans hstand⟩
    rw [CryOp.ended, if_pos hfw]
    exact hops
  · next hfw =>
    have herased : ((s.opCount o st).setCry fun c => { c with ops := c.ops.eraseIdx k }).crySync.cry =
        { s.cry with ops := s.cry.ops.eraseIdx k } := hset fun l => l.eraseIdx k
    have hfirst : KeysStand s ((s.opCount o st).setCry fun c => { c with ops := c.ops.eraseIdx k }).crySync := by
      refine ⟨?_, ?_, ?_⟩ <;> rw [herased]
    rw [CryOp.ended, if_neg hfw]
    split
    · refine ⟨?_, hfirst.trans ⟨rfl, rfl, rfl⟩⟩
      rw [setCry_cry, herased]
    · refine ⟨?_, hfirst.trans (.of_cry rfl)⟩
      rw [emit_cry, herased]

/-! ### Aborting all operations that a predicate names -/

/-- The operations that satisfy `p` and have no outcome, counted. -/
def unfinished (p : CryOp → Bool) (l : List CryOp) : Nat := l.countP fun o => p o && o.final.isNone

theorem lastOp_eq_some {p : CryOp → Bool} {l : List CryOp} {k : Nat} (h : lastOp p l = some k) :
    ∃ o, l[k]? = some o ∧ p o = true ∧ o.final = none := by
  unfold lastOp at h
  split at h
  · cases h
  · next j hj =>
    obtain rfl := Option.some.inj h
    obtain ⟨hlt, hp, -⟩ := List.findIdx?_eq_some_iff_getElem.mp hj
    have hlen : j < l.length := by rwa [List.length_reverse] at hlt
    refine ⟨l.reverse[j], ?_, ?_⟩
    · rw [← List.getElem?_reverse hlen, List.getElem?_eq_getElem hlt]
    · simpa using hp

theorem lastOp_eq_none {p : CryOp → Bool} {l : List CryOp} (h : lastOp p l = none) {o : CryOp} (ho : o ∈ l) (hp : p o = true) :
    o.final.isSome = true := by
  unfold lastOp at h
  split at h
  · next hnone =>
    have hfalse := List.findIdx?_eq_none_iff.mp hnone o (List.mem_reverse.mpr ho)
    rw [hp, Bool.true_and] at hfalse
    cases hfin : o.final with
    | none => simp [hfin] at hfalse
    | some r => rfl
  · cases h

/-- The end of an operation that `p` names leaves one less without an outcome. -/
theorem unfinished_ended {p : CryOp → Bool} {l : List CryOp} {k : Nat} {o : CryOp} (r : Nat × Nat) (ho : l[k]? = some o)
    (hp : p o = true) (hfin : o.final = none) : unfinished p (o.ended l k r) < unfinished p l := by
  obtain ⟨hlt, rfl⟩ := List.getElem?_eq_some_iff.mp ho
  have hone : (fun o : CryOp => p o && o.final.isNone) l[k] = true := by simp [hp, hfin]
  have hpos : 0 < unfinished p l := List.countP_pos_iff.mpr ⟨l[k], List.getElem_mem hlt, hone⟩
  unfold CryOp.ended unfinished
  split
  · rw [List.countP_set hlt, if_pos hone, if_neg (by simp)]
    exact Nat.sub_lt hpos Nat.one_pos
  · have hperm := (List.getElem_cons_eraseIdx_perm hlt).countP_eq fun o : CryOp => p o && o.final.isNone
    rw [List.countP_cons, if_pos hone] at hperm
    omega

theorem discard_cry (s : State) (o : CryOp) : (s.discard o).cry = s.cry := by
  unfold State.discard
  split
  · exact store_cry s.used _ _ _
  · rfl

theorem opAbort_of_running {s : State} {k : Nat} {o : CryOp} (ho : s.cry.ops[k]? = some o) (hfin : o.final = none) :
    s.opAbort k = (s.discard o).opEnd k St.ABORTED [] [] := by
  unfold State.opAbort
  simp only [ho]
  rw [if_neg (by simp [hfin])]

theorem opAbort_ends {s : State} {p : CryOp → Bool} {k : Nat} (h : lastOp p s.cry.ops = some k) :
    unfinished p (s.opAbort k).cry.ops < unfinished p s.cry.ops ∧ KeysStand s (s.opAbort k) := by
  obtain ⟨o, ho, hp, hfin⟩ := lastOp_eq_some h
  have hdiscard := discard_cry s o
  obtain ⟨hops, hstand⟩ := opEnd_cry (s := s.discard o) (by rw [hdiscard]; exact ho) St.ABORTED [] []
  rw [hdiscard] at hops
  rw [opAbort_of_running ho hfin]
  exact ⟨Nat.lt_of_le_of_lt hops.countP_le (unfinished_ended _ ho hp hfin), (KeysStand.of_cry hdiscard).trans hstand⟩

/-- After the aborts every operation that `p` names has an outcome, and the keys stand. -/
theorem abortAll_ends {p : CryOp → Bool} {cnt : State → State} (hcnt : ∀ u : State, (cnt u).cry = u.cry) :
    ∀ (fuel : Nat) (s : State), unfinished p s.cry.ops < fuel →
      (∀ o ∈ (s.abortAll p cnt fuel).cry.ops, p o = true → o.final.isSome = true) ∧ KeysStand s (s.abortAll p cnt fuel)
  | 0, _, h => absurd h (Nat.not_lt_zero _)
  | fuel + 1, s, h => by
    rw [State.abortAll]
    split
    · next hnone => exact ⟨fun o ho hp => lastOp_eq_none hnone ho hp, .of_cry rfl⟩
    · next k hk =>
      obtain ⟨hless, hstand⟩ := opAbort_ends hk
      obtain ⟨hdone, hrest⟩ := abortAll_ends (p := p) hcnt fuel (cnt (s.opAbort k)) (by rw [hcnt]; omega)
      exact ⟨hdone, (hstand.trans (.of_cry (hcnt _))).trans hrest⟩

theorem unfinished_lt_fuel (p : CryOp → Bool) (l : List CryOp) : unfinished p l < l.length + 1 :=
  Nat.lt_succ_of_le List.countP_le_length

/-! ### The end of an erase -/

theorem killCtx_slots (s : State) (p : CryCtx → Bool) : (s.killCtx p).cry.slots = s.cry.slots := rfl
theorem killCtx_ops (s : State) (p : CryCtx → Bool) : (s.killCtx p).cry.ops = s.cry.ops := rfl
theorem killCtx_kres (s : State) (p : CryCtx → Bool) : (s.killCtx p).cry.kres = s.cry.kres := rfl

/-- The end of an erase empties the slot, posts the result of the ERASE, and leaves no operation running under the slot
(R386). -/
theorem eraseComplete_empties {s : State} {slot : Fin 1024} (h : (s.slot slot.val).st = Slot.ERASING) :
    Runs (.eraseComplete slot) s fun t =>
      t.slot slot.val = { KeySlot.empty with gen := (s.slot slot.val).gen + 1, eraseGen := (s.slot slot.val).gen + 1 } ∧
        (∀ m, m ≠ slot.val → t.slot m = s.slot m) ∧
        (s.cry.kres.length < 16 → t.cry.kres = s.cry.kres ++ [⟨(s.slot slot.val).tag, 5, St.OK⟩]) ∧
        (∀ o ∈ t.cry.ops, o.started = true → o.slot = slot.val → o.final.isSome) := by
  let p : CryOp → Bool := fun o => o.started && o.slot == slot.val
  obtain ⟨hdone, hstand⟩ := abortAll_ends (p := p) (cnt := fun s => s.bump R.CRY_CNT_ERASEABORT) (fun u => bump_cry u _)
    (s.cry.ops.length + 1) s (unfinished_lt_fuel _ _)
  let u := s.abortAll p (fun s => s.bump R.CRY_CNT_ERASEABORT) (s.cry.ops.length + 1)
  let v := (u.killCtx fun c => c.slot == slot.val).setSlot slot.val
    { KeySlot.empty with gen := (s.slot slot.val).gen + 1, eraseGen := (s.slot slot.val).gen + 1 }
  have hexec : exec (.eraseComplete slot) s = .next ((v.keyDone (s.slot slot.val).tag 5 St.OK).raise 166) := by
    have hrun : exec (.eraseComplete slot) s = execEraseComplete slot s := rfl
    rw [hrun, execEraseComplete, if_neg (fun hne => hne h)]
  have hslot : ∀ m, ((v.keyDone (s.slot slot.val).tag 5 St.OK).raise 166).slot m = v.slot m := fun m =>
    slot_congr ((congrArg CrySt.slots (raise_cry _ _)).trans (keyDone_slots _ _ _ _)) m
  refine ⟨_, hexec, ?_, fun m hm => ?_, fun hroom => ?_, fun o ho hstarted hso => ?_⟩
  · exact (hslot _).trans (slot_setSlot_same _ _ _)
  · exact ((hslot m).trans (slot_setSlot_other _ _ hm)).trans (slot_congr hstand.slots m)
  · rw [raise_cry]
    exact keyPosted_keyDone _ _ _ hstand.kres hroom
  · rw [raise_cry, keyDone_ops] at ho
    exact hdone o ho (by simp [p, hstarted, hso])

theorem eraseComplete_otherwise {s : State} {slot : Fin 1024} (h : (s.slot slot.val).st ≠ Slot.ERASING) :
    exec (.eraseComplete slot) s = .next s := by
  have hrun : exec (.eraseComplete slot) s = execEraseComplete slot s := rfl
  rw [hrun, execEraseComplete, if_pos h]

end Sys2Proof.Machine
end

section
/-! PROOFS. The cipher engine's alarms (O49). -/

namespace Sys2Proof.Machine

/-! ### Registers that stand while operations are aborted -/

/-- The registers below the pages' windows that the end of an operation may write. -/
def opEndRegs : List Nat := R.CRY_STAT :: R.CRY_CNT_OPS :: R.CRY_CNT_ERASEABORT :: (cryDoneRegs ++ storeRegs)

/-- The registers below the pages' windows stand, but those that the end of an operation may write. -/
def StandsBelowPages (s t : State) : Prop := ∀ a, a < 0x40048000 → a ∉ opEndRegs → ¬ evrAddr a → t.reg a = s.reg a

namespace StandsBelowPages

variable {s t u : State}

theorem trans (h : StandsBelowPages s t) (g : StandsBelowPages t u) : StandsBelowPages s u := fun a hlt hnot hevr =>
  (g a hlt hnot hevr).trans (h a hlt hnot hevr)

theorem of_regsBut {l : List Nat} (h : RegsBut l s t) (hl : ∀ a ∈ l, 0x40048000 ≤ a ∨ a ∈ opEndRegs) : StandsBelowPages s t :=
  fun a hlt hnot hevr => h a (fun hmem => (hl a hmem).elim (fun hge => absurd hlt (Nat.not_lt.mpr hge)) hnot) hevr

theorem refl : StandsBelowPages s s := fun _ _ _ _ => rfl

theorem setCry {f : CrySt → CrySt} (h : StandsBelowPages s t) : StandsBelowPages s (t.setCry f) := h

theorem emit {o : Out} (h : StandsBelowPages s t) : StandsBelowPages s (t.emit o) := h

end StandsBelowPages

theorem regsBut_pageHalt (s : State) (n st : Nat) : RegsBut [R.PG_STAT n] s (s.pageHalt n st) :=
  have hmem : R.PG_STAT n ∈ [R.PG_STAT n] := List.mem_singleton_self _
  ((RegsBut.refl.wf hmem).wf hmem).wf hmem

theorem regsBut_pgHandBack (s : State) (o : CryOp) (st bytes : Nat) :
    RegsBut [R.PG_HEAD o.page, R.PG_STAT o.page] s (s.pgHandBack o st bytes) := by
  unfold State.pgHandBack
  extract_lets n ring head a code gen own moved done halted
  have hhead : R.PG_HEAD n ∈ [R.PG_HEAD n, R.PG_STAT n] := List.mem_cons_self
  have hstat : R.PG_STAT n ∈ [R.PG_HEAD n, R.PG_STAT n] := List.mem_cons_of_mem _ (List.mem_singleton_self _)
  have hown : RegsBut [R.PG_HEAD n, R.PG_STAT n] s own :=
    .of_eq (Within.wmf (m := 2) (.write32 (.write32 (.refl s))) ⟨rfl⟩ .regs rfl)
  have hmoved : RegsBut [R.PG_HEAD n, R.PG_STAT n] s moved := (hown.wf hhead).wf hstat
  have hdone : RegsBut [R.PG_HEAD n, R.PG_STAT n] s done := .ite (hmoved.wf hstat) hmoved
  have hhalted : RegsBut [R.PG_HEAD n, R.PG_STAT n] s halted :=
    .ite (hdone.trans ((regsBut_pageHalt _ _ _).weaken (List.subset_cons_self _ _))) hdone
  exact .ite (hhalted.raise (by decide)) hhalted

theorem pageRegs_ge (n : Nat) : ∀ a ∈ [R.PG_HEAD n, R.PG_STAT n, R.PG_CNT n], 0x40048000 ≤ a := by
  simp only [List.mem_cons, List.not_mem_nil, or_false, R.PG_HEAD, R.PG_STAT, R.PG_CNT]
  omega

theorem pgFlush_standsBelow (n : Nat) : ∀ (fuel : Nat) (s : State), StandsBelowPages s (s.pgFlush n fuel)
  | 0, _ => .refl
  | fuel + 1, s => by
    rw [State.pgFlush]
    split
    · split
      · have hoff : StandsBelowPages s (s.wf (F.PG_STAT_STATE n) Pg.OFF) :=
          .of_regsBut (l := [R.PG_STAT n]) (RegsBut.refl.wf (List.mem_singleton_self _)) fun a ha =>
            .inl (pageRegs_ge n a (by simp_all))
        exact hoff.setCry
      · exact .refl
    · next o _ =>
      split
      · exact .refl
      · next r _ =>
        have hback : StandsBelowPages s (s.pgHandBack o r.1 r.2) := .of_regsBut (regsBut_pgHandBack s o r.1 r.2)
          fun a ha => .inl (pageRegs_ge o.page a (by simp_all; tauto))
        exact hback.setCry.trans (pgFlush_standsBelow n fuel _)

theorem regsBut_crySync (s : State) : RegsBut [R.CRY_STAT] s s.crySync :=
  (RegsBut.refl.wb (f := F.CRY_STAT_IDLE) (List.mem_singleton_self _)).wf (f := F.CRY_STAT_CORES) (List.mem_singleton_self _)

theorem crySync_standsBelow (s : State) : StandsBelowPages s s.crySync :=
  .of_regsBut (l := [R.CRY_STAT]) (regsBut_crySync s) fun a ha => .inr (by simp_all [opEndRegs])

theorem pgSettle_standsBelow (s : State) (n : Nat) : StandsBelowPages s (s.pgSettle n) :=
  (pgFlush_standsBelow n _ s).trans (crySync_standsBelow _)

theorem opCount_standsBelow (s : State) (o : CryOp) (st : Nat) : StandsBelowPages s (s.opCount o st) := by
  have hcounted : StandsBelowPages s (if st = St.OK then s.bump R.CRY_CNT_OPS else s.cryCount st) :=
    .of_regsBut (l := R.CRY_CNT_OPS :: cryDoneRegs) (.ite (RegsBut.refl.bump List.mem_cons_self)
      ((regsBut_cryCount s st).weaken (List.subset_cons_self _ _))) fun a ha => .inr (by simp_all [opEndRegs]; tauto)
  have hpage : ∀ (u : State) (f : Fld) (k : Nat), f.addr = R.PG_CNT o.page → StandsBelowPages u (u.wf f k) := fun u f k hf =>
    .of_regsBut (l := [f.addr]) (RegsBut.refl.wf (List.mem_singleton_self _))
      fun a ha => .inl (pageRegs_ge o.page a (by simp_all))
  unfold State.opCount
  extract_lets u
  split
  · exact hcounted
  · split
    · exact hcounted.trans (hpage _ _ _ rfl)
    · split
      · exact hcounted.trans (hpage _ _ _ rfl)
      · exact hcounted

theorem opEnd_standsBelow (s : State) (k st : Nat) (out tag : List Byte) : StandsBelowPages s (s.opEnd k st out tag) := by
  unfold State.opEnd
  split
  · exact .refl
  · next o _ =>
    have hcount := opCount_standsBelow s o st
    split
    · exact hcount.setCry.trans (pgSettle_standsBelow _ _)
    · have hsync := hcount.setCry.trans
        (crySync_standsBelow ((s.opCount o st).setCry fun c => { c with ops := c.ops.eraseIdx k }))
      split
      · exact hsync.setCry
      · exact hsync.emit

theorem discard_standsBelow (s : State) (o : CryOp) : StandsBelowPages s (s.discard o) := by
  unfold State.discard
  split
  · exact .of_regsBut (regsBut_store s.used _ _ _) fun a ha => .inr (by simp [opEndRegs, ha])
  · exact .refl

theorem opAbort_standsBelow (s : State) (k : Nat) : StandsBelowPages s (s.opAbort k) := by
  unfold State.opAbort
  split
  · exact .refl
  · next o _ =>
    split
    · exact .refl
    · exact (discard_standsBelow s o).trans (opEnd_standsBelow _ _ _ _ _)

theorem abortAll_standsBelow {p : CryOp → Bool} {cnt : State → State} (hcnt : ∀ u : State, StandsBelowPages u (cnt u)) :
    ∀ (fuel : Nat) (s : State), StandsBelowPages s (s.abortAll p cnt fuel)
  | 0, _ => .refl
  | fuel + 1, s => by
    rw [State.abortAll]
    split
    · exact .refl
    · next k _ => exact ((opAbort_standsBelow s k).trans (hcnt _)).trans (abortAll_standsBelow hcnt fuel _)

end Sys2Proof.Machine
end

section
/-! PROOFS. The cipher engine's alarms, and the whole of its keys (O49). -/

namespace Sys2Proof.Machine

/-! ### What an alarm does outside the cipher engine -/

theorem regsBut_subRoutes (s : State) (m : Nat) : ∀ n, n ≤ 256 → RegsBut [] s (s.subRoutes m n)
  | 0, _ => .refl
  | n + 1, h => fun a ha hevr => by
    have hroute : a ≠ R.EVR_ROUTE n := fun e => hevr (e ▸ (by simp only [evrAddr, R.EVR_ROUTE]; omega))
    rw [State.subRoutes, reg_setReg_other _ _ hroute, regsBut_subRoutes s m n (Nat.le_of_succ_le h) a ha hevr]

theorem regsBut_odeKeep (s : State) : RegsBut [R.ODE_STAT] s s.odeKeep :=
  (RegsBut.refl.wb (f := F.ODE_STAT_IDLE) (List.mem_singleton_self _)).wf (f := F.ODE_STAT_SESS) (List.mem_singleton_self _)

theorem regsBut_setSessions (s : State) (f : List Session → List Session) : RegsBut [R.ODE_STAT] s (s.setSessions f) := by
  have hsubs : ∀ u : State, RegsBut [R.ODE_STAT] u u.syncSubs := fun u =>
    .ite ((regsBut_subRoutes u _ 256 (Nat.le_refl _)).weaken (List.nil_subset _)) .refl
  have hset : RegsBut [R.ODE_STAT] s (s.setOde fun o => { o with sessions := f o.sessions }) := fun _ _ _ => rfl
  exact (hset.trans (hsubs _)).trans (regsBut_odeKeep _)

theorem regsBut_setDev (s : State) (k : Nat) : RegsBut [R.ODE_STAT] s (s.setDev k) := by
  have hset : RegsBut [R.ODE_STAT] s ((s.wf F.ODE_STAT_STATE k).setOde fun o => { o with since := s.gt }) :=
    RegsBut.refl.wf (f := F.ODE_STAT_STATE) (t := s) (List.mem_singleton_self _)
  exact .ite .refl (hset.raise (by decide))

theorem regsBut_setOde {l : List Nat} {s t : State} {f : OdeSt → OdeSt} (h : RegsBut l s t) : RegsBut l s (t.setOde f) := h

theorem regsBut_cans {l : List Nat} {s t : State} {a b : CanSt} (h : RegsBut l s t) :
    RegsBut l s { t with can0 := a, can1 := b } := h

theorem regsBut_odeAlarm (s : State) : RegsBut [R.ODE_STAT] s s.odeAlarm := by
  have hclosed : RegsBut [R.ODE_STAT] s ((s.setSessions (fun _ => [])).setOde fun o =>
      { o with req := none, spiOut := [], mbxOut := [] }) := regsBut_setOde (regsBut_setSessions s _)
  unfold State.odeAlarm
  exact .ite (regsBut_cans (hclosed.trans (regsBut_odeKeep _)))
    ((regsBut_cans (hclosed.trans (regsBut_odeKeep _))).trans (regsBut_setDev _ _))

theorem odeAlarm_cry (s : State) : s.odeAlarm.cry = s.cry := Within.odeAlarm (m := 29360145) (.refl s) ⟨rfl⟩ .cry rfl

theorem pkeAbort_cry (s : State) : s.pkeAbort.cry = s.cry := Within.pkeAbort (m := 524305) (.refl s) ⟨rfl⟩ .cry rfl

/-- What the end of PKE's command leaves of the registers. -/
structure PkeAbortStands (s t : State) : Prop where
  regs : RegsBut [R.PKE_STAT, R.PKE_ERR, R.PKE_CNT_FAIL, R.PKE_CNT_RESOVF] s t
  drbg : t.rb F.PKE_STAT_DRBGOK = s.rb F.PKE_STAT_DRBGOK

theorem pkeAbort_stands (s : State) : PkeAbortStands s s.pkeAbort := by
  unfold State.pkeAbort
  split
  · exact ⟨.refl, rfl⟩
  · next c cs _ =>
    split
    · exact ⟨.refl, rfl⟩
    · extract_lets w0 taken level counted posted
      have hlevel : level.rb F.PKE_STAT_DRBGOK = s.rb F.PKE_STAT_DRBGOK := rb_wf_apart taken cs.length (by decide)
      have hposted : RegsBut [R.PKE_ERR, R.PKE_CNT_FAIL, R.PKE_CNT_RESOVF] level posted := by
        have hcounted : RegsBut [R.PKE_ERR, R.PKE_CNT_FAIL, R.PKE_CNT_RESOVF] level counted :=
          (RegsBut.setRegN .refl (by decide)).bump (by decide)
        exact .ite hcounted (hcounted.bump (by decide))
      have hraised := hposted.raise (n := 171) (by decide)
      have htaken : RegsBut [R.PKE_STAT] s level := RegsBut.wf (t := taken) (fun _ _ _ => rfl) (List.mem_singleton_self _)
      exact ⟨(htaken.weaken (by decide)).trans (hraised.weaken (by decide)),
        (hraised.rb (by decide) (not_evrAddr_of_ge (by decide))).trans hlevel⟩

/-! ### Watched conditions -/

/-- The watched condition's bit and event (R394). -/
def State.almNoted (s : State) (c : Nat) : State :=
  (s.setReg R.CRY_ALMSTAT (s.reg R.CRY_ALMSTAT ||| BitVec.ofNat 32 (2 ^ c))).raise (224 + c)

theorem almNoted_reg (s : State) {c : Nat} (hc : c < 10) :
    (s.almNoted c).reg R.CRY_ALMSTAT = s.reg R.CRY_ALMSTAT ||| BitVec.ofNat 32 (2 ^ c) := by
  rw [State.almNoted, reg_raise _ _ _ (by omega) (not_evrAddr_of_ge (by decide)), reg_setReg_same]

theorem regsBut_almNoted (s : State) {c : Nat} (hc : c < 10) : RegsBut [R.CRY_ALMSTAT] s (s.almNoted c) :=
  (RegsBut.refl.setReg (List.mem_singleton_self _)).raise (by omega)

theorem almPol_almNoted (s : State) {c : Nat} (hc : c < 10) : (s.almNoted c).reg R.CRY_ALMPOL = s.reg R.CRY_ALMPOL :=
  (regsBut_almNoted s hc).reg (by decide) (not_evrAddr_of_ge (by decide))

theorem exec_alarmCondition (s : State) (c : Fin 10) :
    exec (.alarmCondition c) s = .next (if (s.reg R.CRY_ALMPOL ||| 0x2C9#32).getLsbD c.val then
      (s.almNoted c.val).alarmErase.pkeAbort else s.almNoted c.val) := by
  have hrun : exec (.alarmCondition c) s = .next (if ((s.almNoted c.val).reg R.CRY_ALMPOL ||| 0x2C9#32).getLsbD c.val then
      (s.almNoted c.val).alarmErase.pkeAbort else s.almNoted c.val) := rfl
  rw [hrun, almPol_almNoted s c.isLt]

/-- A condition that the policy does not watch with an erase is reported alone (R394). -/
theorem alarmCondition_reports {s : State} {c : Fin 10} (h : (s.reg R.CRY_ALMPOL ||| 0x2C9#32).getLsbD c.val = false) :
    Runs (.alarmCondition c) s fun t =>
      t.reg R.CRY_ALMSTAT = s.reg R.CRY_ALMSTAT ||| BitVec.ofNat 32 (2 ^ c.val) ∧ t.cry = s.cry ∧ t.pke = s.pke ∧
        RegsBut [R.CRY_ALMSTAT] s t ∧ SameBytes s t := by
  refine ⟨s.almNoted c.val, ?_, almNoted_reg s c.isLt, raise_cry _ _, raise_pke _ _, regsBut_almNoted s c.isLt,
    sameBytes_of_mem (raise_mem _ _)⟩
  rw [exec_alarmCondition, h, if_neg Bool.false_ne_true]

/-- What the aborts of an alarm erase leave: steps 1 to 4 (R395). -/
def State.almAborted (s : State) : State :=
  (s.setCry fun c => { c with almErase := true }).abortAll (fun o => o.started) (fun s => s) (s.cry.ops.length + 1)

theorem almAborted_ends (s : State) :
    (∀ o ∈ s.almAborted.cry.ops, o.started = true → o.final.isSome = true) ∧ s.almAborted.cry.almErase = true := by
  obtain ⟨hdone, hstand⟩ := abortAll_ends (p := fun o => o.started) (cnt := fun s => s) (fun _ => rfl) (s.cry.ops.length + 1)
    (s.setCry fun c => { c with almErase := true }) (unfinished_lt_fuel _ _)
  exact ⟨hdone, hstand.alm⟩

theorem almAborted_almStat (s : State) : s.almAborted.reg R.CRY_ALMSTAT = s.reg R.CRY_ALMSTAT :=
  abortAll_standsBelow (fun _ => .refl) _ _ _ (by decide) (by decide) (not_evrAddr_of_ge (by decide))

/-- The alarm erase up to the end of the DRBG: no context key, and no operation that goes on. -/
def State.almStopped (s : State) : State :=
  (((s.almAborted).killCtx (fun _ => true)).setCry fun c => { c with ctxk := [] }).wf F.PKE_STAT_DRBGOK 0

theorem almStopped_almStat (s : State) : s.almStopped.reg R.CRY_ALMSTAT = s.reg R.CRY_ALMSTAT := by
  rw [State.almStopped, reg_wf, if_neg (by decide), setCry_reg, State.killCtx, setCry_reg, almAborted_almStat]

theorem almStopped_drbg (s : State) : s.almStopped.rb F.PKE_STAT_DRBGOK = false := by
  rw [State.almStopped, rb_wf_bit _ _ rfl (by decide)]
  rfl

theorem almStopped_ctxk (s : State) : s.almStopped.cry.ctxk = [] := rfl
theorem almStopped_ops (s : State) : s.almStopped.cry.ops = s.almAborted.cry.ops := rfl
theorem almStopped_alm (s : State) : s.almStopped.cry.almErase = s.almAborted.cry.almErase := rfl

theorem alarmErase_eq (s : State) : s.alarmErase = s.almStopped.odeAlarm := rfl

/-- A condition that the policy watches with an erase begins it: no slot is usable, no operation goes on (R395). -/
theorem alarmCondition_erases {s : State} {c : Fin 10} (h : (s.reg R.CRY_ALMPOL ||| 0x2C9#32).getLsbD c.val = true) :
    Runs (.alarmCondition c) s fun t =>
      t.reg R.CRY_ALMSTAT = s.reg R.CRY_ALMSTAT ||| BitVec.ofNat 32 (2 ^ c.val) ∧ t.cry.ctxk = [] ∧
        (∀ m, t.slotState m = Slot.ERASING) ∧ t.rb F.PKE_STAT_DRBGOK = false ∧
        ∀ o ∈ t.cry.ops, o.started = true → o.final.isSome := by
  obtain ⟨hdone, halm⟩ := almAborted_ends (s.almNoted c.val)
  have hstat := almStopped_almStat (s.almNoted c.val)
  have hdrbg := almStopped_drbg (s.almNoted c.val)
  have hctxk := almStopped_ctxk (s.almNoted c.val)
  rw [almNoted_reg s c.isLt] at hstat
  rw [← almStopped_alm] at halm
  rw [← almStopped_ops] at hdone
  have hexec : exec (.alarmCondition c) s = .next (s.almNoted c.val).almStopped.odeAlarm.pkeAbort := by
    rw [exec_alarmCondition, h, if_pos rfl, alarmErase_eq]
  generalize (s.almNoted c.val).almStopped = u at hexec hstat hdrbg hctxk halm hdone
  have hcry : u.odeAlarm.pkeAbort.cry = u.cry := (pkeAbort_cry _).trans (odeAlarm_cry _)
  have hregs := pkeAbort_stands u.odeAlarm
  refine ⟨_, hexec, ?_, ?_, fun m => ?_, ?_, fun o ho hstarted => ?_⟩
  · rw [hregs.regs.reg (by decide) (not_evrAddr_of_ge (by decide)),
      (regsBut_odeAlarm u).reg (by decide) (not_evrAddr_of_ge (by decide)), hstat]
  · rw [hcry, hctxk]
  · rw [State.slotState, hcry, halm, if_pos rfl]
  · rw [hregs.drbg, (regsBut_odeAlarm u).rb (by decide) (not_evrAddr_of_ge (by decide)), hdrbg]
  · rw [hcry] at ho
    exact hdone o ho hstarted

/-! ### The end of an alarm erase -/

/-- The slots after an alarm erase. -/
def wiped (l : Sparse KeySlot) : Sparse KeySlot := (l.map wipe).filter fun e => e.2 != KeySlot.empty

/-- What an alarm erase leaves of a slot: its generation counts. -/
def KeySlot.Wiped (k : KeySlot) : Prop := k.st = Slot.EMPTY ∧ k.key = [] ∧ k.eraseGen = k.gen

theorem get_of_forall {α : Type} {P : α → Prop} (d : Nat → α) (m : Nat) (hd : P (d m)) : ∀ l : Sparse α, (∀ e ∈ l, P e.2) →
    P (Sparse.get d l m)
  | [], _ => hd
  | (a, v) :: l, h => by
    rw [Sparse.get]
    split
    · exact h (a, v) List.mem_cons_self
    · exact get_of_forall d m hd l fun e he => h e (List.mem_cons_of_mem _ he)

theorem get_wiped (l : Sparse KeySlot) (m : Nat) : (Sparse.get (fun _ => KeySlot.empty) (wiped l) m).Wiped :=
  get_of_forall _ m ⟨rfl, rfl, rfl⟩ _ fun e he => by
    obtain ⟨x, -, rfl⟩ := List.mem_map.mp (List.mem_of_mem_filter he)
    exact ⟨rfl, rfl, rfl⟩

theorem get_of_no_key {α : Type} (d : Nat → α) (m : Nat) : ∀ l : Sparse α, (∀ e ∈ l, e.1 ≠ m) → Sparse.get d l m = d m
  | [], _ => rfl
  | (a, v) :: l, h => by
    rw [Sparse.get, if_neg fun e => h (a, v) List.mem_cons_self e.symm,
      get_of_no_key d m l fun e he => h e (List.mem_cons_of_mem _ he)]

theorem le_of_mem_wfFrom {α : Type} [DecidableEq α] (d : Nat → α) : ∀ (l : Sparse α) {b : Nat}, Sparse.wfFrom d b l = true →
    ∀ e ∈ l, b ≤ e.1
  | (a, v) :: l, b, h, e, he => by
    simp only [Sparse.wfFrom, Bool.and_eq_true, decide_eq_true_eq] at h
    obtain ⟨⟨hb, -⟩, hl⟩ := h
    obtain rfl | he := List.mem_cons.mp he
    · exact hb
    · exact Nat.le_trans hb (Nat.le_of_succ_le (le_of_mem_wfFrom d l hl e he))

/-- In a canonical table every generation survives the wipe. -/
theorem gen_wiped (m : Nat) : ∀ (l : Sparse KeySlot) {b : Nat}, Sparse.wfFrom (fun _ => KeySlot.empty) b l = true →
    (Sparse.get (fun _ => KeySlot.empty) (wiped l) m).gen = (Sparse.get (fun _ => KeySlot.empty) l m).gen
  | [], _, _ => rfl
  | (a, v) :: l, b, h => by
    simp only [Sparse.wfFrom, Bool.and_eq_true, decide_eq_true_eq] at h
    obtain ⟨-, hl⟩ := h
    have ih := gen_wiped m l hl
    have hcons : wiped ((a, v) :: l) = if (wipe (a, v)).2 != KeySlot.empty then wipe (a, v) :: wiped l else wiped l :=
      List.filter_cons
    rw [hcons, Sparse.get]
    by_cases hm : m = a
    · rw [if_pos hm]
      split
      · rw [wipe, Sparse.get, if_pos hm]
      · next hempty =>
        have hgone : Sparse.get (fun _ => KeySlot.empty) (wiped l) m = KeySlot.empty := get_of_no_key _ m _ fun e he => by
          obtain ⟨x, hx, rfl⟩ := List.mem_map.mp (List.mem_of_mem_filter he)
          have hle := le_of_mem_wfFrom _ l hl x hx
          exact fun e => absurd (e.trans hm) (by simp only [wipe]; omega)
        have hgen : (wipe (a, v)).2 = KeySlot.empty := by simpa using hempty
        rw [hgone]
        exact (congrArg KeySlot.gen hgen).symm
    · rw [if_neg hm, ← ih]
      split
      · rw [wipe, Sparse.get, if_neg hm]
      · rfl

/-- The state after an alarm erase, before the new context key is drawn. -/
def State.almWiped (s : State) : State :=
  (s.alarmWipe.setCry fun c => { c with almErase := false }).wf F.PKE_STAT_DRBGOK 1

/-- The state after an alarm erase with the new context key, before the marks are set. -/
def State.almRekeyed (s : State) : State :=
  (s.almWiped.draw 32).1.setCry fun c => { c with ctxk := (s.almWiped.draw 32).2 }

/-- The marks of a finished alarm erase. -/
def State.almMarked (s : State) : State :=
  (((s.wf F.CRY_STAT_ALARM 1).wf F.CRY_STAT_HUKBLK 1).bumpTo R.CRY_ALMCNT 0xFFFF).raise 168

theorem exec_alarmEraseDone {s : State} (h : s.cry.almErase = true) :
    exec .alarmEraseDone s = .next s.almRekeyed.almMarked := by
  have hrun : exec .alarmEraseDone s = execAlarmEraseDone s := rfl
  rw [hrun, execAlarmEraseDone, h]
  rfl

theorem regsBut_almMarks (s : State) : RegsBut [R.CRY_STAT, R.CRY_ALMCNT] s s.almMarked :=
  (((RegsBut.refl.wf (f := F.CRY_STAT_ALARM) (by decide)).wf (f := F.CRY_STAT_HUKBLK) (by decide)).bumpTo (by decide)).raise
    (by decide)

theorem almMarked_cry (s : State) : s.almMarked.cry = s.cry := by
  rw [State.almMarked, raise_cry]
  exact Within.bumpTo (m := 1) (.refl _) ⟨rfl⟩ .cry rfl

theorem almMarked_mem (s : State) : s.almMarked.mem = s.mem := by
  rw [State.almMarked, raise_mem]
  exact Within.bumpTo (m := 1) (.refl _) ⟨rfl⟩ .mem rfl

theorem almMarked_sets (s : State) : s.almMarked.rb F.CRY_STAT_ALARM = true ∧ s.almMarked.rb F.CRY_STAT_HUKBLK = true := by
  have hkeep : ∀ f : Fld, f.addr = R.CRY_STAT →
      s.almMarked.rb f = ((s.wf F.CRY_STAT_ALARM 1).wf F.CRY_STAT_HUKBLK 1).rb f := fun f hf => by
    have hregs : RegsBut [R.CRY_ALMCNT] ((s.wf F.CRY_STAT_ALARM 1).wf F.CRY_STAT_HUKBLK 1) s.almMarked :=
      (RegsBut.refl.bumpTo (List.mem_singleton_self _)).raise (by decide)
    exact hregs.rb (by rw [hf]; decide) (by rw [hf]; exact not_evrAddr_of_ge (by decide))
  rw [hkeep _ rfl, hkeep _ rfl, rb_wf_apart _ _ (by decide), rb_wf_bit _ _ rfl (by decide), rb_wf_bit _ _ rfl (by decide)]
  exact ⟨rfl, rfl⟩

theorem almWiped_slots (s : State) : s.almWiped.cry.slots = wiped s.cry.slots := rfl
theorem almWiped_sas (s : State) : s.almWiped.cry.sas = [] := rfl
theorem almWiped_alm (s : State) : s.almWiped.cry.almErase = false := rfl
theorem almWiped_genBase (s : State) : s.almWiped.cry.genBase = s.cry.genBase + 1 := rfl
theorem almWiped_mem (s : State) : s.almWiped.mem = s.mem := rfl

theorem almRekeyed_cry (s : State) : s.almRekeyed.cry = { s.almWiped.cry with ctxk := (s.almWiped.draw 32).2 } := by
  rw [State.almRekeyed, setCry_cry, draw_cry]

/-- The end of an alarm erase leaves every slot empty, its generations equal and one higher, no SA, and a new context key
(R395). -/
theorem alarmEraseDone_wipes {s : State} (h : s.cry.almErase = true) : Runs .alarmEraseDone s fun t =>
    (∀ m, t.slotState m = Slot.EMPTY ∧ (t.slot m).key = [] ∧ t.slotEraseGen m = t.slotGen m) ∧
      (Sparse.wf (fun _ => KeySlot.empty) s.cry.slots = true → ∀ m, t.slotGen m = s.slotGen m + 1) ∧ t.cry.sas = [] ∧
      t.rb F.CRY_STAT_ALARM = true ∧ t.rb F.CRY_STAT_HUKBLK = true ∧ t.rb F.PKE_STAT_DRBGOK = true ∧ t.cry.ctxk.length = 32 ∧
      SameBytes s t := by
  refine ⟨_, exec_alarmEraseDone h, ?_⟩
  have hcry : s.almRekeyed.almMarked.cry = { s.almWiped.cry with ctxk := (s.almWiped.draw 32).2 } :=
    (almMarked_cry _).trans (almRekeyed_cry s)
  have hmem : s.almRekeyed.almMarked.mem = s.mem := (almMarked_mem _).trans ((draw_mem s.almWiped 32).trans (almWiped_mem s))
  have hdrbg : s.almRekeyed.almMarked.rb F.PKE_STAT_DRBGOK = true := by
    rw [(regsBut_almMarks _).rb (by decide) (not_evrAddr_of_ge (by decide)), State.almRekeyed, setCry_rb,
      (regsBut_draw _ _).rb (by decide) (not_evrAddr_of_ge (by decide)), State.almWiped, rb_wf_bit _ _ rfl (by decide)]
    rfl
  obtain ⟨halarm, hhuk⟩ := almMarked_sets s.almRekeyed
  generalize s.almRekeyed.almMarked = t at hcry hmem hdrbg halarm hhuk
  have hslot : ∀ m, t.slot m = Sparse.get (fun _ => KeySlot.empty) (wiped s.cry.slots) m := fun m => by
    rw [State.slot, hcry, almWiped_slots]
  have hwiped : ∀ m, (t.slot m).Wiped := fun m => hslot m ▸ get_wiped _ m
  refine ⟨fun m => ?_, fun hwf m => ?_, ?_, halarm, hhuk, hdrbg, ?_, sameBytes_of_mem hmem⟩
  · obtain ⟨hst, hkey, hgen⟩ := hwiped m
    refine ⟨?_, hkey, by rw [State.slotEraseGen, hgen, State.slotGen]⟩
    rw [State.slotState, hcry, almWiped_alm, if_neg Bool.false_ne_true, hst]
  · rw [State.slotGen, hslot, gen_wiped m _ hwf, hcry, almWiped_genBase, State.slotGen, State.slot]
    exact add_right_comm _ _ _
  · rw [hcry, almWiped_sas]
  · rw [hcry]
    exact draw_length _ _

theorem alarmEraseDone_otherwise {s : State} (h : s.cry.almErase = false) : exec .alarmEraseDone s = .next s := by
  have hrun : exec .alarmEraseDone s = execAlarmEraseDone s := rfl
  rw [hrun, execAlarmEraseDone, h]
  rfl

/-! ### Clearing and locking -/

/-- ALARM_CLEAR is MC5's alone (R395). -/
theorem alarmClear_acts {s : State} {i : Init} (v : Word) (hmay : s.MayWrite i R.CRY_ALMCLR) :
    (i.val = Ini.MC5 → v.getLsbD 0 = true → Runs (.alarmClear i v) s fun t =>
      t.rb F.CRY_STAT_ALARM = false ∧ RegsBut [R.CRY_STAT] s t ∧ t.cry = s.cry ∧ SameBytes s t) ∧
    (i.val ≠ Ini.MC5 → Runs (.alarmClear i v) s fun t =>
      t.reg R.CRY_ERR = 0x104 ∧ RegsBut [R.CRY_ERR] s t ∧ t.cry = s.cry ∧ SameBytes s t) := by
  have hexec : exec (.alarmClear i v) s = .next (if i.val ≠ Ini.MC5 then s.refuse R.CRY_ERR St.RIGHTS 164
      else if v.getLsbD 0 then s.wf F.CRY_STAT_ALARM 0 else s) :=
    congrArg Host.Outcome.next (onWrite_of_mayWrite s i _ _ hmay)
  refine ⟨fun hi hv => ⟨s.wf F.CRY_STAT_ALARM 0, ?_, ?_, RegsBut.refl.wf (List.mem_singleton_self _), rfl, fun _ => rfl⟩,
    fun hi => ⟨s.refuse R.CRY_ERR St.RIGHTS 164, ?_, ?_, ?_, raise_cry _ _, sameBytes_of_mem (refuse_mem _ _ _ _)⟩⟩
  · rw [hexec, if_neg (fun hne => hne hi), if_pos hv]
  · exact rb_wf_bit _ _ rfl (by decide)
  · rw [hexec, if_pos hi]
  · rw [reg_refuse _ _ _ _ _ (by decide) (not_evrAddr_of_ge (by decide)), if_pos rfl]
    rfl
  · exact (refuse_records s (not_evrAddr_of_ge (by decide)) (by decide) (by decide)).2

/-- ALARM_LOCK only sets its bit (R394). -/
theorem alarmLock_locks {s : State} {i : Init} (v : Word) (hmay : s.MayWrite i R.CRY_ALMLOCK) : Runs (.alarmLock i v) s fun t =>
    t.reg R.CRY_ALMLOCK = s.reg R.CRY_ALMLOCK ||| (v &&& 1) ∧ RegsBut [R.CRY_ALMLOCK] s t ∧ t.cry = s.cry ∧ SameBytes s t :=
  ⟨_, congrArg Host.Outcome.next (onWrite_of_mayWrite s i _ _ hmay), reg_setReg_same _ _ _,
    RegsBut.refl.setReg (List.mem_singleton_self _), rfl, fun _ => rfl⟩

/-! ### The obligation -/

/-- Settles O49, from what each key command, each end of an erase, each SA command and each alarm does. -/
theorem cipherKeys : Obligations.CipherKeys := by
  unfold Obligations.CipherKeys
  intro s i tag slot n k others posted loaded
  refine ⟨fun hmay => ⟨?refused, ?load, ?gen, ?unwrap, ?exported, ?erase, ?attr, ?info⟩, fun h => eraseComplete_empties h,
    fun h => eraseComplete_otherwise h, fun hmay => cryKeyResultPop_pops hmay, ?sa, fun c => ⟨fun h => alarmCondition_reports h,
      fun h => alarmCondition_erases h⟩, fun h => alarmEraseDone_wipes h, fun h => alarmEraseDone_otherwise h,
    fun v hmay => alarmClear_acts v hmay, fun v hmay => alarmLock_locks v hmay⟩
  case refused => exact fun p hp st h => keyCommand_refused hmay hp h
  case load => exact fun hgate => ⟨fun hargs => cryLoad_loads hmay hgate hargs, fun hargs => cryLoad_out_of_range hmay hgate hargs⟩
  case gen => exact fun hgate hargs htype hdrbg => cryGen_loads hmay hgate hargs htype hdrbg
  case unwrap =>
    refine fun hgate => ⟨fun hkek => cryUnwrap_without_kek hmay hgate hkek, fun kek hkek hread hclean => ?_⟩
    obtain ⟨hforged, hgood⟩ := cryUnwrap_of_read (tag := tag) (slot := slot) hmay hgate hkek hread hclean
    exact ⟨hforged, hgood⟩
  case exported =>
    exact fun hgate kek hkek => ⟨fun husage => cryExport_not_allowed hmay hgate hkek husage,
      fun husage hwrite => cryExport_writes hmay hgate hkek husage hwrite⟩
  case erase => exact fun hgate => cryErase_erases hmay hgate
  case attr => exact fun hgate => cryAttr_narrows hmay hgate
  case info => exact fun hgate => cryInfo_latches hmay hgate
  case sa =>
    exact fun j hmay hready => ⟨fun hvalid => saLoad_of_valid hmay hready hvalid,
      fun hvalid hread hclean => saLoad_of_window hmay hready hvalid hread hclean, saErase_erases hmay hready,
      fun hwrite => saRead_stores hmay hready hwrite⟩

end Sys2Proof.Machine
end

section
/-! PROOFS. The cipher engine's pages: their results, doorbells and commands (O50). -/

namespace Sys2Proof.Machine

/-! ### Pages and contexts -/

theorem page_congr {s t : State} (h : t.cry.pages = s.cry.pages) (m : Nat) : t.page m = s.page m := by
  rw [State.page, h, State.page]

theorem page_setPage_same (s : State) (n : Nat) (f : CryPage → CryPage) : (s.setPage n f).page n = f (s.page n) :=
  (Sparse.get_put _ _ _ _ _).trans (if_pos rfl)

theorem setPage_ops (s : State) (n : Nat) (f : CryPage → CryPage) : (s.setPage n f).cry.ops = s.cry.ops := rfl
theorem setPage_ctx (s : State) (n : Nat) (f : CryPage → CryPage) : (s.setPage n f).cry.ctx = s.cry.ctx := rfl
theorem setPage_mem (s : State) (n : Nat) (f : CryPage → CryPage) : (s.setPage n f).mem = s.mem := rfl
theorem setPage_rf (s : State) (n : Nat) (f : CryPage → CryPage) (g : Fld) : (s.setPage n f).rf g = s.rf g := rfl

theorem ctx_congr {s t : State} (h : t.cry.ctx = s.cry.ctx) (n c : Nat) : t.ctx n c = s.ctx n c := by
  rw [State.ctx, h, State.ctx]

theorem ctx_setCtx_same (s : State) (n c : Nat) (x : CryCtx) : (s.setCtx n c x).ctx n c = x :=
  (Sparse.get_put _ _ _ _ _).trans (if_pos rfl)

/-- A page has four contexts: another context of it, or one of another page, stands. -/
theorem ctx_setCtx_other (s : State) {n c q d : Nat} (x : CryCtx) (hc : c < 4) (hd : d < 4) (h : q ≠ n ∨ d ≠ c) :
    (s.setCtx n c x).ctx q d = s.ctx q d :=
  (Sparse.get_put _ _ _ _ _).trans (if_neg (by omega))

theorem setCtx_pages (s : State) (n c : Nat) (x : CryCtx) : (s.setCtx n c x).cry.pages = s.cry.pages := rfl

/-! ### Results of page commands -/

/-- A result of a page command with a tag is posted, where the FIFO has room (R410). -/
def PagePosted (s t : State) (n tag opc code : Nat) : Prop :=
  (s.page n).results.length < 16 → (t.page n).results = (s.page n).results ++ [⟨tag, opc, code⟩]

/-- The registers that the end of a page command writes (R390, R410). -/
def pgDoneRegs (n : Nat) : List Nat := R.PG_ERR n :: cryDoneRegs

theorem not_mem_pgDoneRegs {n a : Nat} (h : a ≠ R.PG_ERR n) (hge : 0x40048000 ≤ a) : a ∉ pgDoneRegs n := by
  simp only [pgDoneRegs, cryDoneRegs, List.mem_cons, List.not_mem_nil, or_false, R.CRY_CNT_AUTH, R.CRY_CNT_NOKEY,
    R.CRY_CNT_ABORT, R.CRY_CNT_STATE, R.CRY_ERR, R.CRY_CNT_RESOVF]
  omega

/-- The state in which a page command's result is posted: an outcome other than OK is counted and recorded. -/
def State.pgNoted (s : State) (n st ev : Nat) : State :=
  if st = St.OK then s else ((s.cryCount st).errSet (R.PG_ERR n) st).raise ev

theorem pgNoted_cry (s : State) (n st ev : Nat) : (s.pgNoted n st ev).cry = s.cry := by
  unfold State.pgNoted
  split
  · rfl
  · rw [raise_cry]
    exact cryCount_cry s st

theorem pgNoted_mem (s : State) (n st ev : Nat) : (s.pgNoted n st ev).mem = s.mem := by
  unfold State.pgNoted
  split
  · rfl
  · rw [raise_mem]
    exact Within.cryCount (m := 1) (.refl s) ⟨rfl⟩ .mem rfl

theorem regsBut_pgNoted (s : State) (n st : Nat) {ev : Nat} (hev : ev < 256) : RegsBut (pgDoneRegs n) s (s.pgNoted n st ev) :=
  .ite .refl ((((regsBut_cryCount s st).weaken (List.subset_cons_self _ _)).setRegN List.mem_cons_self).raise hev)

theorem pgDone_eq (s : State) (n tag opc st ev : Nat) :
    s.pgDone n tag opc st ev =
      if (s.page n).results.length < 16 then
        (s.pgNoted n st ev).setPage n fun p => { p with results := p.results ++ [⟨tag, opc, st⟩] }
      else (s.pgNoted n st ev).bump R.CRY_CNT_RESOVF := by
  rw [← page_congr (congrArg CrySt.pages (pgNoted_cry s n st ev)) n]
  rfl

section
variable (s : State) (n tag opc st ev : Nat)

theorem pgDone_ops : (s.pgDone n tag opc st ev).cry.ops = s.cry.ops := by
  rw [pgDone_eq, ← congrArg CrySt.ops (pgNoted_cry s n st ev)]
  split
  · rfl
  · rw [bump_cry]

theorem pgDone_ctx : (s.pgDone n tag opc st ev).cry.ctx = s.cry.ctx := by
  rw [pgDone_eq, ← congrArg CrySt.ctx (pgNoted_cry s n st ev)]
  split
  · rfl
  · rw [bump_cry]

theorem pgDone_mem : (s.pgDone n tag opc st ev).mem = s.mem := by
  rw [pgDone_eq, ← pgNoted_mem s n st ev]
  split
  · rfl
  · rw [bump_mem]

theorem regsBut_pgDone (hev : ev < 256) : RegsBut (pgDoneRegs n) s (s.pgDone n tag opc st ev) := by
  have hnoted := regsBut_pgNoted s n st hev
  have hpushed : RegsBut (pgDoneRegs n) s
      ((s.pgNoted n st ev).setPage n fun p => { p with results := p.results ++ [⟨tag, opc, st⟩] }) := hnoted
  rw [pgDone_eq]
  exact .ite hpushed (hnoted.bump (by simp [pgDoneRegs, cryDoneRegs]))

/-- Of the page, the end of a command changes the results alone. -/
theorem page_pgDone : (s.pgDone n tag opc st ev).page n =
    { s.page n with results := if (s.page n).results.length < 16 then (s.page n).results ++ [⟨tag, opc, st⟩] else (s.page n).results } := by
  have hnoted := page_congr (congrArg CrySt.pages (pgNoted_cry s n st ev)) n
  rw [pgDone_eq]
  split
  · rw [page_setPage_same, hnoted]
  · rw [page_congr (congrArg CrySt.pages (bump_cry _ _)), hnoted]

end

theorem pagePosted_pgDone {s u : State} {n : Nat} (tag opc st ev : Nat) (h : (u.page n).results = (s.page n).results) :
    PagePosted s (u.pgDone n tag opc st ev) n tag opc st := fun hroom => by
  rw [page_pgDone, h]
  exact if_pos hroom

/-- The state of a page stands when a command's result is posted. -/
theorem pgStat_pgDone (s : State) (n tag opc st : Nat) {ev : Nat} (hev : ev < 256) (f : Fld) (hf : f.addr = R.PG_STAT n) :
    (s.pgDone n tag opc st ev).rf f = s.rf f :=
  (regsBut_pgDone s n tag opc st ev hev).rf
    (hf ▸ not_mem_pgDoneRegs (by simp only [R.PG_STAT, R.PG_ERR]; omega) (by simp only [R.PG_STAT]; omega))
    (hf ▸ not_evrAddr_of_ge (by simp only [R.PG_STAT]; omega))

/-! ### Doorbells and results -/

theorem pageDoorbell_rings {s : State} {i : Init} {n : Fin 32} {v : Word} (hmay : s.MayWrite i (R.PG_DOORBELL n.val))
    (hv : v.getLsbD 0 = true) (hn : 6 ≤ n.val) : Runs (.pageDoorbell i n v) s fun t =>
      (t.page n.val).parked = false ∧ (t.page n.val).results = (s.page n.val).results ∧ t.regs = s.regs ∧ SameBytes s t := by
  have hexec : exec (.pageDoorbell i n v) s = .next (if v.getLsbD 0 && decide (6 ≤ n.val) then
      s.setPage n.val (fun p => { p with parked := false }) else s) := congrArg Host.Outcome.next (onWrite_of_mayWrite s i _ _ hmay)
  refine ⟨s.setPage n.val fun p => { p with parked := false }, ?_, ?_, ?_, rfl, fun _ => rfl⟩
  · rw [hexec, if_pos (by simp [hv, hn])]
  · rw [page_setPage_same]
  · rw [page_setPage_same]

theorem pageResultPop_pops {s : State} {i : Init} {n : Fin 32} {x : KRes} {xs : List KRes} (hmay : s.MayRead i (R.PG_RES n.val))
    (h : (s.page n.val).results = x :: xs) : Runs (.pageResultPop i n) s fun t =>
      t.out = .busData i x.word :: s.out ∧ (t.page n.val).results = xs ∧ t.regs = s.regs ∧ SameBytes s t := by
  have hexec : exec (.pageResultPop i n) s = .next (s.pgPop i n.val) := congrArg Host.Outcome.next (onRead_of_mayRead s i _ _ hmay)
  refine ⟨(s.setPage n.val fun p => { p with results := xs }).answer i x.word, ?_, rfl, ?_, rfl, fun _ => rfl⟩
  · rw [hexec, State.pgPop, h]
  · have hpage : ((s.setPage n.val fun p => { p with results := xs }).answer i x.word).page n.val =
        (s.setPage n.val fun p => { p with results := xs }).page n.val := page_congr rfl _
    rw [hpage, page_setPage_same]

/-! ### Page commands -/

/-- The commands of a page, with their OPC. -/
noncomputable def pageCommands (i : Init) (n : Fin 32) (tag : BitVec 8) (d : Fin 4) : List (Instr × Nat) :=
  [(.pageEnable i n tag, 1), (.pageStop i n tag, 2), (.pageClear i n tag, 3), (.ctxSave i n tag d, 4), (.ctxRestore i n tag d, 5),
    (.ctxDrop i n tag d, 6)]

/-- The context a page command names: the first three name none. -/
def pageCommandCtx (opc : Nat) (d : Fin 4) : Nat := if opc < 4 then 0 else d.val

theorem exec_pageCommand {s : State} {i : Init} {n : Fin 32} {tag : BitVec 8} {d : Fin 4} {c : Instr × Nat}
    (hmay : s.MayWrite i (R.PG_CMD n.val)) (hc : c ∈ pageCommands i n tag d) :
    exec c.1 s = .next (s.pgCmd n.val c.2 tag.toNat (pageCommandCtx c.2 d)) := by
  have hrun : ∀ opc k, Host.Outcome.next (s.onWrite i (R.PG_CMD n.val) (fun s => s.pgCmd n.val opc tag.toNat k)) =
      (.next (s.pgCmd n.val opc tag.toNat k) : Host.Outcome State Fault Refusal) := fun opc k =>
    congrArg Host.Outcome.next (onWrite_of_mayWrite s i _ _ hmay)
  simp only [pageCommands, List.mem_cons, List.not_mem_nil, or_false] at hc
  obtain rfl | rfl | rfl | rfl | rfl | rfl := hc
  · exact hrun 1 0
  · exact hrun 2 0
  · exact hrun 3 0
  · exact hrun 4 d.val
  · exact hrun 5 d.val
  · exact hrun 6 d.val

/-- An inline page takes no command (R373). -/
theorem pageCommand_on_inline {s : State} {i : Init} {n : Fin 32} {tag : BitVec 8} {d : Fin 4} {c : Instr × Nat}
    (hmay : s.MayWrite i (R.PG_CMD n.val)) (hn : n.val < 6) (hc : c ∈ pageCommands i n tag d) : Runs c.1 s fun t =>
      PagePosted s t n.val tag.toNat c.2 St.RIGHTS ∧ t.cry.ops = s.cry.ops ∧ t.cry.ctx = s.cry.ctx ∧ SameBytes s t := by
  refine ⟨_, exec_pageCommand hmay hc, ?_⟩
  rw [State.pgCmd, if_pos hn]
  exact ⟨pagePosted_pgDone _ _ _ _ rfl, pgDone_ops _ _ _ _ _ _, pgDone_ctx _ _ _ _ _ _, sameBytes_of_mem (pgDone_mem _ _ _ _ _ _)⟩

theorem pgState_wf (s : State) (n v : Nat) : (s.wf (F.PG_STAT_STATE n) v).rf (F.PG_STAT_STATE n) = v % 4 :=
  rf_wf_same _ _ _ (Nat.le_succ 30) (Nat.lt_succ_self 31)

/-- The page in RUN, about to fetch at HEAD. -/
def State.pgStarted (s : State) (n : Nat) : State :=
  (s.wf (F.PG_STAT_STATE n) Pg.RUN).setPage n fun p => { p with parked := false, stopping := false }

theorem pgEnable_of_halt {s : State} {n : Nat} (tag : Nat) (h : s.rf (F.PG_STAT_STATE n) = Pg.HALT) :
    s.pgEnable n tag = s.pgDone n tag 1 St.STATE 164 := by rw [State.pgEnable, if_pos h]

theorem pgEnable_of_off {s : State} {n : Nat} (tag : Nat) (h : s.rf (F.PG_STAT_STATE n) = Pg.OFF) :
    s.pgEnable n tag = (s.pgStarted n).pgDone n tag 1 St.OK 164 := by
  rw [State.pgEnable, if_neg (h ▸ by decide), if_pos h, State.pgStarted]

theorem pgEnable_of_run {s : State} {n : Nat} (tag : Nat) (hhalt : s.rf (F.PG_STAT_STATE n) ≠ Pg.HALT)
    (hoff : s.rf (F.PG_STAT_STATE n) ≠ Pg.OFF) : s.pgEnable n tag = s.pgDone n tag 1 St.OK 164 := by
  rw [State.pgEnable, if_neg hhalt, if_neg hoff]

theorem page_pgStarted (s : State) (n : Nat) : (s.pgStarted n).page n = { s.page n with parked := false, stopping := false } := by
  have hwf : (s.wf (F.PG_STAT_STATE n) Pg.RUN).page n = s.page n := page_congr rfl n
  rw [State.pgStarted, page_setPage_same, hwf]

theorem pgState_pgStarted (s : State) (n : Nat) : (s.pgStarted n).rf (F.PG_STAT_STATE n) = Pg.RUN := by
  rw [State.pgStarted, setPage_rf, pgState_wf, Pg.RUN]

section
variable {s : State} {i : Init} {n : Fin 32} {tag : BitVec 8} (hmay : s.MayWrite i (R.PG_CMD n.val)) (hn : 6 ≤ n.val)
  (hready : s.ready Fn.CRY = true)
include hmay hn hready

theorem exec_pageEnable : exec (.pageEnable i n tag) s = .next (s.pgEnable n.val tag.toNat) := by
  have hcmd : s.pgCmd n.val 1 tag.toNat 0 = s.pgEnable n.val tag.toNat := by
    rw [State.pgCmd, if_neg (Nat.not_lt.mpr hn), if_neg (by simp [hready]), if_pos rfl]
  exact (congrArg Host.Outcome.next (onWrite_of_mayWrite s i _ _ hmay)).trans (congrArg Host.Outcome.next hcmd)

theorem exec_pageStop : exec (.pageStop i n tag) s = .next (s.pgStop n.val tag.toNat) := by
  have hcmd : s.pgCmd n.val 2 tag.toNat 0 = s.pgStop n.val tag.toNat := by
    rw [State.pgCmd, if_neg (Nat.not_lt.mpr hn), if_neg (by simp [hready]), if_neg (by decide), if_pos rfl]
  exact (congrArg Host.Outcome.next (onWrite_of_mayWrite s i _ _ hmay)).trans (congrArg Host.Outcome.next hcmd)

theorem exec_pageClear : exec (.pageClear i n tag) s = .next (s.pgClear n.val tag.toNat) := by
  have hcmd : s.pgCmd n.val 3 tag.toNat 0 = s.pgClear n.val tag.toNat := by
    rw [State.pgCmd, if_neg (Nat.not_lt.mpr hn), if_neg (by simp [hready]), if_neg (by decide), if_neg (by decide), if_pos rfl]
  exact (congrArg Host.Outcome.next (onWrite_of_mayWrite s i _ _ hmay)).trans (congrArg Host.Outcome.next hcmd)

theorem exec_ctxSave (d : Fin 4) : exec (.ctxSave i n tag d) s = .next (s.ctxSave n.val tag.toNat d.val) := by
  have hcmd : s.pgCmd n.val 4 tag.toNat d.val = s.ctxSave n.val tag.toNat d.val := by
    rw [State.pgCmd, if_neg (Nat.not_lt.mpr hn), if_neg (by simp [hready]), if_neg (by decide), if_neg (by decide), if_neg (by decide), if_pos rfl]
  exact (congrArg Host.Outcome.next (onWrite_of_mayWrite s i _ _ hmay)).trans (congrArg Host.Outcome.next hcmd)

theorem exec_ctxRestore (d : Fin 4) : exec (.ctxRestore i n tag d) s = .next (s.ctxRestore n.val tag.toNat d.val) := by
  have hcmd : s.pgCmd n.val 5 tag.toNat d.val = s.ctxRestore n.val tag.toNat d.val := by
    rw [State.pgCmd, if_neg (Nat.not_lt.mpr hn), if_neg (by simp [hready]), if_neg (by decide), if_neg (by decide), if_neg (by decide), if_neg (by decide), if_pos rfl]
  exact (congrArg Host.Outcome.next (onWrite_of_mayWrite s i _ _ hmay)).trans (congrArg Host.Outcome.next hcmd)

theorem exec_ctxDrop (d : Fin 4) : exec (.ctxDrop i n tag d) s = .next (s.ctxDrop n.val tag.toNat d.val) := by
  have hcmd : s.pgCmd n.val 6 tag.toNat d.val = s.ctxDrop n.val tag.toNat d.val := by
    rw [State.pgCmd, if_neg (Nat.not_lt.mpr hn), if_neg (by simp [hready]), if_neg (by decide), if_neg (by decide), if_neg (by decide), if_neg (by decide), if_neg (by decide), if_pos rfl]
  exact (congrArg Host.Outcome.next (onWrite_of_mayWrite s i _ _ hmay)).trans (congrArg Host.Outcome.next hcmd)

/-- ENABLE takes a page from OFF to RUN and rejects one in HALT (R390). -/
theorem pageEnable_enables : Runs (.pageEnable i n tag) s fun t =>
    t.rf (F.PG_STAT_STATE n.val) = (if s.rf (F.PG_STAT_STATE n.val) = Pg.OFF then Pg.RUN else s.rf (F.PG_STAT_STATE n.val)) ∧
      PagePosted s t n.val tag.toNat 1 (if s.rf (F.PG_STAT_STATE n.val) = Pg.HALT then St.STATE else St.OK) ∧
      (s.rf (F.PG_STAT_STATE n.val) = Pg.OFF → (t.page n.val).parked = false) ∧ t.cry.ops = s.cry.ops ∧ SameBytes s t := by
  refine ⟨_, exec_pageEnable hmay hn hready, ?_⟩
  by_cases hhalt : s.rf (F.PG_STAT_STATE n.val) = Pg.HALT
  · have hoff : s.rf (F.PG_STAT_STATE n.val) ≠ Pg.OFF := hhalt ▸ (by decide)
    rw [pgEnable_of_halt _ hhalt, if_neg hoff, if_pos hhalt]
    exact ⟨pgStat_pgDone _ _ _ _ _ (by decide) _ rfl, pagePosted_pgDone _ _ _ _ rfl, fun h => absurd h hoff, pgDone_ops _ _ _ _ _ _,
      sameBytes_of_mem (pgDone_mem _ _ _ _ _ _)⟩
  · rw [if_neg hhalt]
    by_cases hoff : s.rf (F.PG_STAT_STATE n.val) = Pg.OFF
    · rw [pgEnable_of_off _ hoff, if_pos hoff]
      have hpage := page_pgStarted s n.val
      exact ⟨(pgStat_pgDone _ _ _ _ _ (by decide) _ rfl).trans (pgState_pgStarted s n.val),
        pagePosted_pgDone _ _ _ _ (by rw [hpage]), fun _ => by rw [page_pgDone, hpage], pgDone_ops _ _ _ _ _ _,
        sameBytes_of_mem (pgDone_mem _ _ _ _ _ _)⟩
    · rw [pgEnable_of_run _ hhalt hoff, if_neg hoff]
      exact ⟨pgStat_pgDone _ _ _ _ _ (by decide) _ rfl, pagePosted_pgDone _ _ _ _ rfl, fun h => absurd h hoff,
        pgDone_ops _ _ _ _ _ _, sameBytes_of_mem (pgDone_mem _ _ _ _ _ _)⟩

/-- CLEAR leaves HALT, and only HALT (R390). -/
theorem pageClear_clears : Runs (.pageClear i n tag) s fun t =>
    t.rf (F.PG_STAT_STATE n.val) = (if s.rf (F.PG_STAT_STATE n.val) = Pg.HALT then Pg.RUN else s.rf (F.PG_STAT_STATE n.val)) ∧
      PagePosted s t n.val tag.toNat 3 (if s.rf (F.PG_STAT_STATE n.val) = Pg.HALT then St.OK else St.STATE) ∧
      t.cry.ops = s.cry.ops ∧ SameBytes s t := by
  refine ⟨_, exec_pageClear hmay hn hready, ?_⟩
  unfold State.pgClear
  by_cases hhalt : s.rf (F.PG_STAT_STATE n.val) = Pg.HALT
  · rw [if_pos hhalt, if_pos hhalt, if_pos hhalt]
    refine ⟨?_, pagePosted_pgDone _ _ _ _ (by rw [page_setPage_same]; rfl), (pgDone_ops _ _ _ _ _ _).trans (setPage_ops _ _ _),
      sameBytes_of_mem ((pgDone_mem _ _ _ _ _ _).trans (setPage_mem _ _ _))⟩
    rw [pgStat_pgDone _ _ _ _ _ (by decide) _ rfl, setPage_rf, pgState_wf, Pg.RUN]
  · rw [if_neg hhalt, if_neg hhalt, if_neg hhalt]
    exact ⟨pgStat_pgDone _ _ _ _ _ (by decide) _ rfl, pagePosted_pgDone _ _ _ _ rfl, pgDone_ops _ _ _ _ _ _,
      sameBytes_of_mem (pgDone_mem _ _ _ _ _ _)⟩

end

end Sys2Proof.Machine
end

section
/-! PROOFS. The cipher engine's pages: STOP, and the commands on contexts (O50). -/

namespace Sys2Proof.Machine

/-! ### The flush of a page -/

theorem pgFlush_of_stopping {s : State} {n : Nat} (fuel : Nat) (hfirst : s.pgFirst n = none) (hstop : (s.page n).stopping = true) :
    s.pgFlush n (fuel + 1) = (s.wf (F.PG_STAT_STATE n) Pg.OFF).setPage n fun p => { p with stopping := false } := by
  rw [State.pgFlush, hfirst]
  exact if_pos hstop

theorem pgFlush_of_empty {s : State} {n : Nat} (fuel : Nat) (hfirst : s.pgFirst n = none) (hstop : (s.page n).stopping = false) :
    s.pgFlush n (fuel + 1) = s := by
  rw [State.pgFlush, hfirst]
  exact if_neg (by simp [hstop])

theorem pgFlush_of_waiting {s : State} {n : Nat} {f : CryOp} (fuel : Nat) (hfirst : s.pgFirst n = some f) (hfin : f.final = none) :
    s.pgFlush n (fuel + 1) = s := by
  rw [State.pgFlush, hfirst]
  simp only [hfin]

/-- A page whose first descriptor in flight has no outcome hands nothing back. -/
theorem pgSettle_of_waiting {s : State} {n : Nat} {f : CryOp} (hfirst : s.pgFirst n = some f) (hfin : f.final = none) :
    s.pgSettle n = s.crySync := by
  rw [State.pgSettle, pgFlush_of_waiting _ hfirst hfin]

theorem pgFirst_congr {s t : State} (h : t.cry.ops = s.cry.ops) (n : Nat) : t.pgFirst n = s.pgFirst n := by
  rw [State.pgFirst, h, State.pgFirst]

/-- The fields of a page's state stand when CRY_STAT follows the operations. -/
theorem pgStat_crySync (s : State) (n : Nat) (f : Fld) (hf : f.addr = R.PG_STAT n) : s.crySync.rf f = s.rf f :=
  (regsBut_crySync s).rf (by rw [hf, List.mem_singleton]; simp only [R.PG_STAT, R.CRY_STAT]; omega)
    (hf ▸ not_evrAddr_of_ge (by simp only [R.PG_STAT]; omega))

theorem page_crySync (s : State) (n : Nat) : s.crySync.page n = s.page n := page_congr rfl n

section
variable {s : State} {i : Init} {n : Fin 32} {tag : BitVec 8} (hmay : s.MayWrite i (R.PG_CMD n.val)) (hn : 6 ≤ n.val)
  (hready : s.ready Fn.CRY = true)
include hmay hn hready

/-! ### STOP -/

/-- STOP of a page with no descriptor in flight turns it off at once (R390). -/
theorem pageStop_stops (hst : s.rf (F.PG_STAT_STATE n.val) ≠ Pg.OFF) (hfirst : s.pgFirst n.val = none) :
    Runs (.pageStop i n tag) s fun t => t.rf (F.PG_STAT_STATE n.val) = Pg.OFF ∧ (t.page n.val).stopping = false ∧
      PagePosted s t n.val tag.toNat 2 St.OK ∧ SameBytes s t := by
  let u := s.setPage n.val fun p => { p with stopping := true }
  have hstop : (u.page n.val).stopping = true := by rw [page_setPage_same]
  have hsettle : u.pgSettle n.val =
      ((u.wf (F.PG_STAT_STATE n.val) Pg.OFF).setPage n.val fun p => { p with stopping := false }).crySync := by
    rw [State.pgSettle, pgFlush_of_stopping (s := u) _ ((pgFirst_congr rfl _).trans hfirst) hstop]
  have hwf : (u.wf (F.PG_STAT_STATE n.val) Pg.OFF).page n.val = u.page n.val := page_congr rfl _
  have hpage : (u.pgSettle n.val).page n.val = { s.page n.val with stopping := false } := by
    rw [hsettle, page_crySync, page_setPage_same, hwf, page_setPage_same]
  have hstate : (u.pgSettle n.val).rf (F.PG_STAT_STATE n.val) = Pg.OFF := by
    rw [hsettle, pgStat_crySync _ _ _ rfl, setPage_rf, pgState_wf, Pg.OFF]
  have hmem : (u.pgSettle n.val).mem = s.mem := by
    rw [hsettle]
    rfl
  refine ⟨_, exec_pageStop hmay hn hready, ?_⟩
  rw [State.pgStop, if_neg hst]
  exact ⟨(pgStat_pgDone _ _ _ _ _ (by decide) _ rfl).trans hstate, by rw [page_pgDone, hpage],
    pagePosted_pgDone _ _ _ _ (by rw [hpage]), sameBytes_of_mem ((pgDone_mem _ _ _ _ _ _).trans hmem)⟩

/-- STOP of a page with a descriptor in flight waits for it (R390). -/
theorem pageStop_waits {f : CryOp} (hst : s.rf (F.PG_STAT_STATE n.val) ≠ Pg.OFF) (hfirst : s.pgFirst n.val = some f)
    (hfin : f.final = none) : Runs (.pageStop i n tag) s fun t =>
      t.rf (F.PG_STAT_STATE n.val) = s.rf (F.PG_STAT_STATE n.val) ∧ (t.page n.val).stopping = true ∧ t.cry.ops = s.cry.ops ∧
        PagePosted s t n.val tag.toNat 2 St.OK ∧ SameBytes s t := by
  let u := s.setPage n.val fun p => { p with stopping := true }
  have hsettle : u.pgSettle n.val = u.crySync := pgSettle_of_waiting ((pgFirst_congr rfl _).trans hfirst) hfin
  have hpage : u.crySync.page n.val = { s.page n.val with stopping := true } := by rw [page_crySync, page_setPage_same]
  refine ⟨_, exec_pageStop hmay hn hready, ?_⟩
  rw [State.pgStop, if_neg hst, hsettle]
  exact ⟨(pgStat_pgDone _ _ _ _ _ (by decide) _ rfl).trans ((pgStat_crySync _ _ _ rfl).trans (setPage_rf _ _ _ _)),
    by rw [page_pgDone, hpage], (pgDone_ops _ _ _ _ _ _).trans rfl, pagePosted_pgDone _ _ _ _ (by rw [hpage]),
    sameBytes_of_mem ((pgDone_mem _ _ _ _ _ _).trans rfl)⟩

/-! ### Contexts -/

/-- The other contexts stand. -/
def OtherCtxStand (s t : State) (n c : Nat) : Prop := ∀ q d, (q ≠ n ∨ d ≠ c) → d < 4 → t.ctx q d = s.ctx q d

omit hmay hn hready in
theorem otherCtxStand_setCtx (s : State) (m : Nat) {c : Nat} (x : CryCtx) (hc : c < 4) : OtherCtxStand s (s.setCtx m c x) m c :=
  fun _ _ h hd => ctx_setCtx_other s x hc hd h

omit hmay hn hready in
/-- A page command that puts a context in place and ends with OK. -/
theorem setCtx_done {s u : State} (m : Nat) {c : Nat} (x : CryCtx) (tag opc ev : Nat) (hc : c < 4) (hu : u.cry = s.cry) :
    ((u.setCtx m c x).pgDone m tag opc St.OK ev).ctx m c = x ∧
      OtherCtxStand s ((u.setCtx m c x).pgDone m tag opc St.OK ev) m c ∧
      PagePosted s ((u.setCtx m c x).pgDone m tag opc St.OK ev) m tag opc St.OK := by
  have hctx := ctx_congr (pgDone_ctx (u.setCtx m c x) m tag opc St.OK ev)
  refine ⟨(hctx m c).trans (ctx_setCtx_same _ _ _ _), fun q d h hd => ?_, pagePosted_pgDone _ _ _ _ ?_⟩
  · rw [hctx, otherCtxStand_setCtx u m x hc q d h hd, ctx_congr (congrArg CrySt.ctx hu)]
  · rw [page_congr (setCtx_pages _ _ _ _), page_congr (congrArg CrySt.pages hu)]

omit hmay hn hready in
/-- A page command that ends without action. -/
theorem pgDone_only {s u : State} (m tag opc code ev : Nat) (hcry : u.cry = s.cry) (hmem : u.mem = s.mem) :
    PagePosted s (u.pgDone m tag opc code ev) m tag opc code ∧ (u.pgDone m tag opc code ev).cry.ctx = s.cry.ctx ∧
      SameBytes s (u.pgDone m tag opc code ev) :=
  ⟨pagePosted_pgDone _ _ _ _ (by rw [page_congr (congrArg CrySt.pages hcry)]), (pgDone_ctx _ _ _ _ _ _).trans (congrArg CrySt.ctx hcry),
    sameBytes_of_mem ((pgDone_mem _ _ _ _ _ _).trans hmem)⟩

/-- A context that a descriptor in flight uses is neither saved nor dropped. -/
theorem ctxSave_of_busy {d : Fin 4} (hbusy : s.ctxBusy n.val d.val = true) : Runs (.ctxSave i n tag d) s fun t =>
    PagePosted s t n.val tag.toNat 4 St.BUSY ∧ t.cry.ctx = s.cry.ctx ∧ SameBytes s t := by
  refine ⟨_, exec_ctxSave hmay hn hready d, ?_⟩
  rw [State.ctxSave, if_pos hbusy]
  exact pgDone_only _ _ _ _ _ rfl rfl

theorem ctxDrop_of_busy {d : Fin 4} (hbusy : s.ctxBusy n.val d.val = true) : Runs (.ctxDrop i n tag d) s fun t =>
    PagePosted s t n.val tag.toNat 6 St.BUSY ∧ t.cry.ctx = s.cry.ctx ∧ SameBytes s t := by
  refine ⟨_, exec_ctxDrop hmay hn hready d, ?_⟩
  rw [State.ctxDrop, if_pos hbusy]
  exact pgDone_only _ _ _ _ _ rfl rfl

/-- CTX_DROP frees the context (R390). -/
theorem ctxDrop_frees {d : Fin 4} (hidle : s.ctxBusy n.val d.val = false) : Runs (.ctxDrop i n tag d) s fun t =>
    t.ctx n.val d.val = CryCtx.free ∧ OtherCtxStand s t n.val d.val ∧ PagePosted s t n.val tag.toNat 6 St.OK ∧ SameBytes s t := by
  refine ⟨_, exec_ctxDrop hmay hn hready d, ?_⟩
  rw [State.ctxDrop, if_neg (by simp [hidle])]
  obtain ⟨hctx, hothers, hposted⟩ := setCtx_done (s := s) n.val CryCtx.free tag.toNat 6 164 d.isLt rfl
  exact ⟨hctx, hothers, hposted, sameBytes_of_mem (pgDone_mem _ _ _ _ _ _)⟩

/-- The clear form needs the page's right (R388). -/
theorem ctxSave_without_right {d : Fin 4} (hidle : s.ctxBusy n.val d.val = false) (hfmt : s.rb (F.PG_CTXFMT_WRAPPED n.val) = false)
    (hright : s.rb (F.CRY_PGCFG_CLRCTX n.val) = false) : Runs (.ctxSave i n tag d) s fun t =>
      PagePosted s t n.val tag.toNat 4 St.RIGHTS ∧ t.cry.ctx = s.cry.ctx ∧ SameBytes s t := by
  refine ⟨_, exec_ctxSave hmay hn hready d, ?_⟩
  rw [State.ctxSave, if_neg (by simp [hidle]), if_pos (by simp [hfmt, hright])]
  exact pgDone_only _ _ _ _ _ rfl rfl

omit hmay hn hready in
theorem length_clearRecord (m : Nat) (x : CryCtx) : (clearRecord m x).length = 64 := by
  rw [clearRecord, List.length_append, length_wordBytes, length_natBytes]
  rfl

/-- CTX_SAVE writes the clear form and frees the context (R388). -/
theorem ctxSave_saves {d : Fin 4} (hidle : s.ctxBusy n.val d.val = false) (hfmt : s.rb (F.PG_CTXFMT_WRAPPED n.val) = false)
    (hright : s.rb (F.CRY_PGCFG_CLRCTX n.val) = true) (hst : (s.ctx n.val d.val).st = 1)
    (hwin : s.pgInWindow n.val (s.ctxAddr n.val) 64 = true) (hwrite : s.writable Ini.CRY (s.ctxAddr n.val) 64 = true) :
    Runs (.ctxSave i n tag d) s fun t =>
      t.bytes (s.ctxAddr n.val) 64 = clearRecord n.val (s.ctx n.val d.val) ∧
        (∀ b, b < s.ctxAddr n.val ∨ s.ctxAddr n.val + 64 ≤ b → t.byte b = s.byte b) ∧ t.ctx n.val d.val = CryCtx.free ∧
        OtherCtxStand s t n.val d.val ∧ PagePosted s t n.val tag.toNat 4 St.OK := by
  have hlen := length_clearRecord n.val (s.ctx n.val d.val)
  have hsave : s.ctxSave n.val tag.toNat d.val = ((s.store Ini.CRY (s.ctxAddr n.val) (clearRecord n.val (s.ctx n.val d.val))).setCtx
      n.val d.val CryCtx.free).pgDone n.val tag.toNat 4 St.OK 164 := by
    rw [State.ctxSave]
    simp only [hidle, hfmt, hright, hst, hwin, hwrite, Bool.false_eq_true, if_false, Bool.not_false, Bool.not_true, Bool.and_false,
      ne_eq, not_true_eq_false]
  refine ⟨_, exec_ctxSave hmay hn hready d, ?_⟩
  rw [hsave]
  obtain ⟨hctx, hothers, hposted⟩ := setCtx_done (s := s) (u := s.store Ini.CRY (s.ctxAddr n.val) (clearRecord n.val (s.ctx n.val d.val)))
    n.val CryCtx.free tag.toNat 4 164 d.isLt (store_cry _ _ _ _)
  refine ⟨?_, fun b hb => ?_, hctx, hothers, hposted⟩
  · refine (bytes_congr (pgDone_mem _ _ _ _ _ _) _ _).trans ?_
    have hbytes := bytes_store s Ini.CRY (s.ctxAddr n.val) (clearRecord n.val (s.ctx n.val d.val))
    rw [hlen] at hbytes
    exact hbytes
  · exact (sameBytes_of_mem (pgDone_mem _ _ _ _ _ _) b).trans (byte_store_of_outside (hlen.symm ▸ hb))

/-- CTX_RESTORE needs a free context (R389). -/
theorem ctxRestore_of_used {d : Fin 4} (hst : (s.ctx n.val d.val).st ≠ 0) : Runs (.ctxRestore i n tag d) s fun t =>
    PagePosted s t n.val tag.toNat 5 St.STATE ∧ t.cry.ctx = s.cry.ctx ∧ SameBytes s t := by
  refine ⟨_, exec_ctxRestore hmay hn hready d, ?_⟩
  rw [State.ctxRestore, if_pos hst]
  exact pgDone_only _ _ _ _ _ rfl rfl

/-- The checks of a record, and the context it gives, by its form (R389). -/
def State.restore (s : State) (wrapped : Bool) (m : Nat) (b : List Byte) : Except Nat CryCtx :=
  if wrapped then s.restoreWrapped b else s.restoreClear m b

omit hmay hn hready in
/-- The checks of a record ask the cipher engine's state alone. -/
theorem restore_congr {s t : State} (hcry : t.cry = s.cry) (wrapped : Bool) (m : Nat) (b : List Byte) :
    t.restore wrapped m b = s.restore wrapped m b := by
  have honly : t.restore wrapped m b = ({ s with cry := t.cry } : State).restore wrapped m b := rfl
  rw [honly, hcry]

/-- The end of a CTX_RESTORE by what its checks gave. -/
def State.restoreEnd (s : State) (m tag c : Nat) : Except Nat CryCtx → State
  | .error st => s.pgDone m tag 5 st 169
  | .ok x => (s.setCtx m c x).pgDone m tag 5 St.OK 169

/-- The bytes of a record by its form (R388). -/
def State.recLen (s : State) (m : Nat) : Nat := if s.rb (F.PG_CTXFMT_WRAPPED m) then 144 else 64

/-- The record that PG_CTXADDR names. -/
def State.savedRecord (s : State) (m : Nat) : List Byte := s.bytes (s.ctxAddr m) (s.recLen m)

section
variable {d : Fin 4} (hst : (s.ctx n.val d.val).st = 0) (hwin : s.pgInWindow n.val (s.ctxAddr n.val) (s.recLen n.val) = true)
  (hread : s.readable (s.ctxAddr n.val) (s.recLen n.val) = true) (hclean : s.eccBad (s.ctxAddr n.val) (s.recLen n.val) = false)
include hst hwin hread hclean

omit hmay hn hready in
/-- CTX_RESTORE once it can read the record. -/
theorem ctxRestore_of_read (k : Nat) : s.ctxRestore n.val k d.val =
    if bytesNat ((s.savedRecord n.val).take 4) / 2 ^ 16 % 32 ≠ n.val then
      (s.eccRead Ini.CRY (s.ctxAddr n.val) (s.recLen n.val)).pgDone n.val k 5 St.RIGHTS 169
    else (s.eccRead Ini.CRY (s.ctxAddr n.val) (s.recLen n.val)).restoreEnd n.val k d.val
      (s.restore (s.rb (F.PG_CTXFMT_WRAPPED n.val)) n.val (s.savedRecord n.val)) := by
  have hbytes : (s.eccRead Ini.CRY (s.ctxAddr n.val) (s.recLen n.val)).bytes (s.ctxAddr n.val) (s.recLen n.val) =
      s.savedRecord n.val := bytes_congr (eccRead_mem _ _ _ _) _ _
  rw [← restore_congr (eccRead_cry s Ini.CRY (s.ctxAddr n.val) (s.recLen n.val))]
  unfold State.ctxRestore
  extract_lets a wrapped len u b
  rw [if_neg (by simp [hst]), if_neg (by simp [show s.pgInWindow n.val a len = true from hwin]),
    if_neg (by simp [show s.readable a len = true from hread]), if_neg (by simp [show s.eccBad a len = false from hclean])]
  have hb : b = s.savedRecord n.val := hbytes
  rw [hb]
  split
  · rfl
  · split <;> next heq => exact (congrArg (u.restoreEnd n.val k d.val) heq).symm

/-- A record of another page is refused (R389). -/
theorem ctxRestore_of_other_page (hpage : bytesNat ((s.savedRecord n.val).take 4) / 2 ^ 16 % 32 ≠ n.val) :
    Runs (.ctxRestore i n tag d) s fun t =>
      PagePosted s t n.val tag.toNat 5 St.RIGHTS ∧ t.cry.ctx = s.cry.ctx ∧ SameBytes s t := by
  refine ⟨_, exec_ctxRestore hmay hn hready d, ?_⟩
  rw [ctxRestore_of_read hst hwin hread hclean, if_pos hpage]
  exact pgDone_only _ _ _ _ _ (eccRead_cry _ _ _ _) (eccRead_mem _ _ _ _)

/-- A record that fails a check leaves the contexts; one that passes gives its context (R389). -/
theorem ctxRestore_of_own_page (hpage : bytesNat ((s.savedRecord n.val).take 4) / 2 ^ 16 % 32 = n.val) :
    (∀ code, s.restore (s.rb (F.PG_CTXFMT_WRAPPED n.val)) n.val (s.savedRecord n.val) = .error code →
      Runs (.ctxRestore i n tag d) s fun t =>
        PagePosted s t n.val tag.toNat 5 code ∧ t.cry.ctx = s.cry.ctx ∧ SameBytes s t) ∧
    (∀ y, s.restore (s.rb (F.PG_CTXFMT_WRAPPED n.val)) n.val (s.savedRecord n.val) = .ok y →
      Runs (.ctxRestore i n tag d) s fun t =>
        t.ctx n.val d.val = y ∧ OtherCtxStand s t n.val d.val ∧ PagePosted s t n.val tag.toNat 5 St.OK ∧ SameBytes s t) := by
  refine ⟨fun code h => ⟨_, exec_ctxRestore hmay hn hready d, ?_⟩, fun y h => ⟨_, exec_ctxRestore hmay hn hready d, ?_⟩⟩
  · rw [ctxRestore_of_read hst hwin hread hclean, if_neg (fun hne => hne hpage), h, State.restoreEnd]
    exact pgDone_only _ _ _ _ _ (eccRead_cry _ _ _ _) (eccRead_mem _ _ _ _)
  · rw [ctxRestore_of_read hst hwin hread hclean, if_neg (fun hne => hne hpage), h, State.restoreEnd]
    obtain ⟨hctx, hothers, hposted⟩ := setCtx_done (s := s) n.val y tag.toNat 5 169 d.isLt
      (eccRead_cry s Ini.CRY (s.ctxAddr n.val) (s.recLen n.val))
    exact ⟨hctx, hothers, hposted, sameBytes_of_mem ((pgDone_mem _ _ _ _ _ _).trans (eccRead_mem _ _ _ _))⟩

end

end

end Sys2Proof.Machine
end

section
/-! PROOFS. The cipher engine's pages: the fetch of a descriptor, and the hand-back of a refused one (O50). -/

namespace Sys2Proof.Machine

/-! ### What a read of memory leaves of a page -/

theorem eccRegs_ge : ∀ a ∈ eccRegs, 0x40060000 ≤ a := by decide

/-- The registers of CRY, of its pages and of PKE stand across a read of memory. -/
theorem reg_eccRead_cry (s : State) (reader a len : Nat) {b : Nat} (hge : 0x40040000 ≤ b) (hlt : b < 0x40060000) :
    (s.eccRead reader a len).reg b = s.reg b :=
  reg_eccRead_of_ge s reader a len (fun hmem => absurd (eccRegs_ge b hmem) (Nat.not_le.mpr hlt)) (Nat.le_trans (by decide) hge)

theorem rf_eccRead_cry (s : State) (reader a len : Nat) {f : Fld} (hge : 0x40040000 ≤ f.addr) (hlt : f.addr < 0x40060000) :
    (s.eccRead reader a len).rf f = s.rf f := by
  rw [State.rf, reg_eccRead_cry s reader a len hge hlt, State.rf]

theorem ready_eccRead (s : State) (reader a len k : Nat) : (s.eccRead reader a len).ready k = s.ready k :=
  ready_congr (reg_eccRead_of_ge s reader a len (by decide) (by decide)) k

theorem pgInWindow_eccRead (s : State) (reader a len : Nat) {n : Nat} (hn : n < 32) :
    (s.eccRead reader a len).pgInWindow n = s.pgInWindow n := by
  funext b m
  rw [State.pgInWindow, State.pgInWindow]
  have hfield : ∀ f : Fld, 0x40040000 ≤ f.addr → f.addr < 0x40060000 → (s.eccRead reader a len).rf f = s.rf f := fun f =>
    rf_eccRead_cry s reader a len
  rw [hfield (F.CRY_PGMW_BASE0_BASE n), hfield (F.CRY_PGMW_BASE1_BASE n), hfield (F.CRY_PGMW_SIZE0_SIZE n),
    hfield (F.CRY_PGMW_SIZE1_SIZE n)]
  all_goals
    simp only [F.CRY_PGMW_BASE0_BASE, F.CRY_PGMW_BASE1_BASE, F.CRY_PGMW_SIZE0_SIZE, F.CRY_PGMW_SIZE1_SIZE, R.CRY_PGMW_BASE0,
      R.CRY_PGMW_BASE1, R.CRY_PGMW_SIZE0, R.CRY_PGMW_SIZE1]
    omega

theorem descCheck_eccRead (s : State) (reader a len : Nat) {o : CryOp} (w : List Word) (ho : o.page < 32) :
    (s.eccRead reader a len).descCheck o w = s.descCheck o w := by
  have hwin := pgInWindow_eccRead s reader a len ho
  unfold State.descCheck
  dsimp only
  rw [hwin]

/-! ### A fetch that goes nowhere -/

theorem cryDescriptorFetch_idle {s : State} {n : Fin 32} (h : s.pgCanFetch n.val = false) :
    exec (.cryDescriptorFetch n) s = .next s := by
  have hrun : exec (.cryDescriptorFetch n) s = execCryDescriptorFetch n s := rfl
  rw [hrun, execCryDescriptorFetch, h]
  rfl

theorem not_evrAddr_pgStat (n : Nat) : ¬ evrAddr (R.PG_STAT n) := not_evrAddr_of_ge (by simp only [R.PG_STAT]; omega)

/-- What a halt with an event leaves in the page's status: the state, the error and the status (R377). -/
theorem pageHalt_halts (s : State) (n : Nat) {st : Nat} (hst : st < 256) :
    ((s.pageHalt n st).raise 165).rf (F.PG_STAT_STATE n) = Pg.HALT ∧ ((s.pageHalt n st).raise 165).rf (F.PG_STAT_LSTATUS n) = st ∧
      ((s.pageHalt n st).raise 165).rb (F.PG_STAT_ERRC n) = true := by
  have hraise : ∀ f : Fld, f.addr = R.PG_STAT n → ((s.pageHalt n st).raise 165).rf f = (s.pageHalt n st).rf f := fun f hf =>
    rf_raise _ _ _ (by decide) (hf ▸ not_evrAddr_pgStat n)
  have hapart : ∀ {f g : Fld}, f.hi < 32 ∧ f.lo ≤ f.hi ∧ g.lo ≤ g.hi ∧ (f.hi < g.lo ∨ g.hi < f.lo) → ∀ (u : State) (v : Nat),
      (u.wf f v).rf g = u.rf g := fun h u v => rf_wf_apart u v ⟨h.1, h.2.1, h.2.2.1, .inr h.2.2.2⟩
  refine ⟨?_, ?_, ?_⟩
  · rw [hraise _ rfl, State.pageHalt, hapart (by simp [F.PG_STAT_STATE, F.PG_STAT_LSTATUS]),
      hapart (by simp [F.PG_STAT_STATE, F.PG_STAT_ERRC]), pgState_wf, Pg.HALT]
  · rw [hraise _ rfl, State.pageHalt, rf_wf_same _ _ _ (by simp [F.PG_STAT_LSTATUS]) (by simp [F.PG_STAT_LSTATUS])]
    exact Nat.mod_eq_of_lt hst
  · rw [State.rb, hraise _ rfl, State.pageHalt, hapart (by simp [F.PG_STAT_ERRC, F.PG_STAT_LSTATUS]),
      rf_wf_same _ _ _ (Nat.le_refl _) (by simp [F.PG_STAT_ERRC])]
    rfl

/-- A ring outside the page's windows halts the page with RANGE (R374). -/
theorem cryDescriptorFetch_outside {s : State} {n : Fin 32} (hcan : s.pgCanFetch n.val = true)
    (hwin : s.pgInWindow n.val (s.pgRing n.val).1 (64 * (s.pgRing n.val).2) = false) : Runs (.cryDescriptorFetch n) s fun t =>
      t.rf (F.PG_STAT_STATE n.val) = Pg.HALT ∧ t.rf (F.PG_STAT_LSTATUS n.val) = St.RANGE ∧ t.rb (F.PG_STAT_ERRC n.val) = true ∧
        t.cry = s.cry ∧ RegsBut [R.PG_STAT n.val] s t ∧ SameBytes s t := by
  have hexec : exec (.cryDescriptorFetch n) s = .next ((s.pageHalt n.val St.RANGE).raise 165) := by
    have hrun : exec (.cryDescriptorFetch n) s = execCryDescriptorFetch n s := rfl
    rw [hrun, execCryDescriptorFetch, if_neg (by simp [hcan])]
    exact if_pos (by simp [hwin])
  obtain ⟨hstate, hstatus, herr⟩ := pageHalt_halts s n.val (st := St.RANGE) (by decide)
  exact ⟨_, hexec, hstate, hstatus, herr, raise_cry _ _, (regsBut_pageHalt s n.val St.RANGE).raise (by decide),
    sameBytes_of_mem (raise_mem _ _)⟩

/-! ### A fetch that reads a descriptor -/

/-- The address of the descriptor at HEAD (R376). -/
def State.headAt (s : State) (n : Nat) : Nat := (s.pgRing n).1 + 64 * (s.rf (F.PG_HEAD_HEAD n) % (s.pgRing n).2)

section
variable {s : State} {n : Fin 32} (hcan : s.pgCanFetch n.val = true)
  (hwin : s.pgInWindow n.val (s.pgRing n.val).1 (64 * (s.pgRing n.val).2) = true) (hops : s.cry.ops = [])
  (hread : s.readable (s.headAt n.val) 64 = true) (hclean : s.eccBad (s.headAt n.val) 64 = false)
include hcan hwin hops hread hclean

theorem exec_cryDescriptorFetch :
    exec (.cryDescriptorFetch n) s = .next ((s.eccRead Ini.CRY (s.headAt n.val) 64).pgTake n.val (s.headAt n.val)) := by
  have hrun : exec (.cryDescriptorFetch n) s = execCryDescriptorFetch n s := rfl
  rw [hrun, execCryDescriptorFetch, if_neg (by simp [hcan])]
  extract_lets ring inFlight a
  have ha : a = s.headAt n.val := by simp only [a, inFlight, hops, List.filter_nil, List.length_nil, Nat.add_zero, ring, State.headAt]
  rw [if_neg (by simp [ring, hwin]), ha, if_neg (by simp [hread]), if_neg (by simp [hclean])]

/-- A descriptor that firmware owns parks the page (R376). -/
theorem cryDescriptorFetch_parks (hown : (s.read32 (s.headAt n.val)).getLsbD 31 = false) : Runs (.cryDescriptorFetch n) s fun t =>
    (t.page n.val).parked = true ∧ t.cry.ops = [] ∧ SameBytes s t := by
  let u := s.eccRead Ini.CRY (s.headAt n.val) 64
  have hmem : u.mem = s.mem := eccRead_mem _ _ _ _
  have hword : (u.words (s.headAt n.val) 16).getD 0 0 = s.read32 (s.headAt n.val) := by
    rw [getD_words _ _ (by decide), read32_congr hmem, Nat.mul_zero, Nat.add_zero]
  have htake : u.pgTake n.val (s.headAt n.val) = u.setPage n.val fun p => { p with parked := true } := by
    rw [State.pgTake, hword, hown]
    rfl
  refine ⟨_, exec_cryDescriptorFetch hcan hwin hops hread hclean, ?_⟩
  rw [htake]
  refine ⟨by rw [page_setPage_same], ?_, sameBytes_of_mem hmem⟩
  rw [setPage_ops, show u.cry = s.cry from eccRead_cry _ _ _ _, hops]

/-- The operation that a fetched descriptor becomes: it has an outcome where a check refuses it. -/
def State.fetchedOp (s : State) (n : Nat) : CryOp :=
  { descOp n (s.words (s.headAt n) 16) with
    final := (s.descCheck (descOp n (s.words (s.headAt n) 16)) (s.words (s.headAt n) 16)).map fun st => (st, 0) }

/-- The state that a fetched descriptor joins. -/
def State.fetched (s : State) (n : Nat) : State :=
  (s.eccRead Ini.CRY (s.headAt n) 64).setCry fun c => { c with ops := c.ops ++ [s.fetchedOp n] }

omit hcan hwin hread hclean in
theorem fetched_ops : (s.fetched n.val).cry.ops = [s.fetchedOp n.val] := by
  rw [State.fetched, setCry_cry, show (s.eccRead Ini.CRY (s.headAt n.val) 64).cry = s.cry from eccRead_cry _ _ _ _, hops]
  rfl

theorem cryDescriptorFetch_takes (hready : s.ready Fn.CRY = true) (hown : (s.read32 (s.headAt n.val)).getLsbD 31 = true) :
    exec (.cryDescriptorFetch n) s = .next ((s.fetched n.val).pgSettle n.val) := by
  let u := s.eccRead Ini.CRY (s.headAt n.val) 64
  have hwords : u.words (s.headAt n.val) 16 = s.words (s.headAt n.val) 16 := words_congr (eccRead_mem _ _ _ _) _ _
  have hword : (s.words (s.headAt n.val) 16).getD 0 0 = s.read32 (s.headAt n.val) := by
    rw [getD_words _ _ (by decide), Nat.mul_zero, Nat.add_zero]
  have hcheck : u.descCheck (descOp n.val (s.words (s.headAt n.val) 16)) (s.words (s.headAt n.val) 16) =
      s.descCheck (descOp n.val (s.words (s.headAt n.val) 16)) (s.words (s.headAt n.val) 16) := descCheck_eccRead s _ _ _ _ n.isLt
  have htake : u.pgTake n.val (s.headAt n.val) = (s.fetched n.val).pgSettle n.val := by
    rw [State.pgTake, hwords, hword, if_neg (by simp [hown])]
    extract_lets o f taken
    have hf : f = s.descCheck o (s.words (s.headAt n.val) 16) := (if_neg (by simp [u, ready_eccRead, hready])).trans hcheck
    have htaken : taken = s.fetchedOp n.val := by
      rw [State.fetchedOp, ← hf]
    rw [htaken]
    rfl
  rw [exec_cryDescriptorFetch hcan hwin hops hread hclean, htake]

omit hcan hwin hops hread hclean in
theorem pgFirst_singleton {t : State} {m : Nat} {o : CryOp} (h : t.cry.ops = [o]) (hfw : o.fw = true) (hpage : o.page = m) :
    t.pgFirst m = some o := by
  rw [State.pgFirst, h, List.find?_cons_of_pos (by simp [hfw, hpage])]

/-- A descriptor that passes its checks waits for a core (R376). -/
theorem cryDescriptorFetch_queues (hready : s.ready Fn.CRY = true) (hown : (s.read32 (s.headAt n.val)).getLsbD 31 = true)
    (hcheck : s.descCheck (descOp n.val (s.words (s.headAt n.val) 16)) (s.words (s.headAt n.val) 16) = none) :
    Runs (.cryDescriptorFetch n) s fun t => t.cry.ops = [descOp n.val (s.words (s.headAt n.val) 16)] ∧ SameBytes s t := by
  have hop : s.fetchedOp n.val = descOp n.val (s.words (s.headAt n.val) 16) := by
    rw [State.fetchedOp, hcheck]
    rfl
  have hfetched := fetched_ops (n := n) hops
  refine ⟨_, cryDescriptorFetch_takes hcan hwin hops hread hclean hready hown, ?_⟩
  rw [pgSettle_of_waiting (n := n.val) (pgFirst_singleton hfetched rfl rfl) (by rw [hop]; rfl)]
  exact ⟨hfetched.trans (by rw [hop]), sameBytes_of_mem (eccRead_mem _ _ _ _)⟩

omit hcan hwin hops hread hclean in
theorem setOps_pages (t : State) (f : List CryOp → List CryOp) :
    (t.setCry fun c => { c with ops := f c.ops }).cry.pages = t.cry.pages := rfl

omit hcan hwin hops hread hclean in
/-- A refused descriptor that is alone in flight is handed back at once (R377). -/
theorem pgSettle_of_refused {t : State} {m : Nat} {o : CryOp} {r : Nat × Nat} (h : t.cry.ops = [o]) (hfw : o.fw = true)
    (hpage : o.page = m) (hfin : o.final = some r) (hstop : (t.page m).stopping = false) :
    t.pgSettle m = ((t.pgHandBack o r.1 r.2).setCry fun c => { c with ops := dropFirst m c.ops }).crySync := by
  let v := (t.pgHandBack o r.1 r.2).setCry fun c => { c with ops := dropFirst m c.ops }
  have hcry := pgHandBack_cry t o r.1 r.2
  have hnone : v.cry.ops = [] := by
    rw [setCry_cry, hcry, h, dropFirst, if_pos (by simp [hfw, hpage])]
  have hfirst : v.pgFirst m = none := by rw [State.pgFirst, hnone, List.find?_nil]
  have hpages : v.cry.pages = t.cry.pages := (setOps_pages _ _).trans (congrArg CrySt.pages hcry)
  have hgoing : (v.page m).stopping = false := by rw [page_congr hpages, hstop]
  rw [State.pgSettle, h, State.pgFlush, pgFirst_singleton h hfw hpage]
  simp only [hfin]
  rw [List.length_singleton, pgFlush_of_empty (s := v) _ hfirst hgoing]

/-! ### The hand-back -/

omit hcan hwin hops hread hclean in
/-- The three words that a hand-back writes (R337, R376). -/
def State.pgWritten (s : State) (a : Nat) (o : CryOp) (st bytes : Nat) : State :=
  ((s.write32 (a + 56) (BitVec.ofNat 32 (bytes * 256 + st))).write32 (a + 60) o.gen).wmf a 31 31 0

/-- The address of the descriptor that is handed back. -/
def State.backAt (s : State) (n : Nat) : Nat := (s.pgRing n).1 + 64 * s.rf (F.PG_HEAD_HEAD n)

/-- The page's registers after the words of a hand-back: HEAD advances. -/
def State.pgAdvanced (s : State) (o : CryOp) (st bytes : Nat) : State :=
  ((s.pgWritten (s.backAt o.page) o st bytes).wf (F.PG_HEAD_HEAD o.page)
    ((s.rf (F.PG_HEAD_HEAD o.page) + 1) % (s.pgRing o.page).2)).wf (F.PG_STAT_LSTATUS o.page) st

/-- The mark of a descriptor that asks for an event. -/
def State.pgMarked (s : State) (o : CryOp) : State := if o.int then s.wf (F.PG_STAT_DONE o.page) 1 else s

/-- The halt of a status that halts. -/
def State.pgHalted (s : State) (n st : Nat) : State := if halts st then s.pageHalt n st else s

omit hcan hwin hops hread hclean in
theorem pgHandBack_eq (s : State) (o : CryOp) (st bytes : Nat) :
    s.pgHandBack o st bytes = if o.int || halts st then (((s.pgAdvanced o st bytes).pgMarked o).pgHalted o.page st).raise 165
      else ((s.pgAdvanced o st bytes).pgMarked o).pgHalted o.page st := rfl

end

theorem pgMarked_mem (s : State) (o : CryOp) : (s.pgMarked o).mem = s.mem := by
  unfold State.pgMarked
  split <;> rfl

theorem pgHalted_mem (s : State) (n st : Nat) : (s.pgHalted n st).mem = s.mem := by
  unfold State.pgHalted
  split <;> rfl

theorem pgHandBack_mem (s : State) (o : CryOp) (st bytes : Nat) :
    (s.pgHandBack o st bytes).mem = (s.pgWritten (s.backAt o.page) o st bytes).mem := by
  have hadvanced : (s.pgAdvanced o st bytes).mem = (s.pgWritten (s.backAt o.page) o st bytes).mem := by
    rw [State.pgAdvanced, State.wf, setReg_mem, State.wf, setReg_mem]
  have hmem : (((s.pgAdvanced o st bytes).pgMarked o).pgHalted o.page st).mem = (s.pgWritten (s.backAt o.page) o st bytes).mem :=
    (pgHalted_mem _ _ _).trans ((pgMarked_mem _ _).trans hadvanced)
  rw [pgHandBack_eq]
  by_cases hev : (o.int || halts st) = true
  · rw [if_pos hev, raise_mem, hmem]
  · rw [if_neg hev, hmem]

/-- The words of a hand-back, and the bytes it leaves (R337). -/
theorem pgWritten_words (s : State) (a : Nat) (o : CryOp) (st bytes : Nat) :
    (s.pgWritten a o st bytes).read32 (a + 56) = BitVec.ofNat 32 (bytes * 256 + st) ∧
      (s.pgWritten a o st bytes).read32 a = setBits (s.read32 a) 31 31 0 ∧
      ∀ b, b < a ∨ (a + 4 ≤ b ∧ b < a + 56) ∨ a + 64 ≤ b → (s.pgWritten a o st bytes).byte b = s.byte b := by
  unfold State.pgWritten State.wmf
  refine ⟨?_, ?_, fun b hb => ?_⟩
  · rw [read32_write32_apart (by omega), read32_write32_apart (by omega), read32_write32]
  · rw [read32_write32, read32_write32_apart (by omega), read32_write32_apart (by omega)]
  · have hout : ∀ (u : State) (c : Nat) (v : Word), b < c ∨ c + 4 ≤ b → (u.write32 c v).byte b = u.byte b := fun u c v h =>
      byte_writeN_of_outside h
    rw [hout _ _ _ (by omega), hout _ _ _ (by omega), hout _ _ _ (by omega)]

theorem setBits_clear_top (w : Word) : setBits w 31 31 0 = w &&& 0x7FFFFFFF := by
  refine BitVec.eq_of_getLsbD_eq fun k hk => ?_
  rw [getLsbD_setBits _ _ (Nat.le_refl _) hk, BitVec.getLsbD_and]
  by_cases h : 31 ≤ k ∧ k ≤ 31
  · obtain rfl : k = 31 := by omega
    rw [if_pos h, Nat.zero_testBit, (by decide : (0x7FFFFFFF : Word).getLsbD 31 = false), Bool.and_false]
  · rw [if_neg h, (by decide : ∀ k < 31, (0x7FFFFFFF : Word).getLsbD k = true) k (by omega), Bool.and_true]

/-- The page's registers after a hand-back: HEAD advances, and a status that halts halts (R376, R377). -/
theorem pgHandBack_page (s : State) (o : CryOp) (st bytes : Nat) :
    (s.pgHandBack o st bytes).rf (F.PG_HEAD_HEAD o.page) = (s.rf (F.PG_HEAD_HEAD o.page) + 1) % (s.pgRing o.page).2 % 2 ^ 11 ∧
      (s.pgHandBack o st bytes).rf (F.PG_STAT_STATE o.page) =
        if halts st then Pg.HALT else s.rf (F.PG_STAT_STATE o.page) := by
  have hraise : ∀ (u : State) (f : Fld), ¬ evrAddr f.addr → (if o.int || halts st then u.raise 165 else u).rf f = u.rf f :=
    fun u f hf => by
      split
      · exact rf_raise _ _ _ (by decide) hf
      · rfl
  have hheadEvr : ¬ evrAddr (F.PG_HEAD_HEAD o.page).addr := not_evrAddr_of_ge (by simp only [F.PG_HEAD_HEAD, R.PG_HEAD]; omega)
  have hstatEvr : ¬ evrAddr (F.PG_STAT_STATE o.page).addr := not_evrAddr_pgStat _
  have hother : R.PG_HEAD o.page ≠ R.PG_STAT o.page := by simp only [R.PG_HEAD, R.PG_STAT]; omega
  have hkeep : ∀ u : State, RegsBut [R.PG_STAT o.page] u ((u.pgMarked o).pgHalted o.page st) := fun u => by
    have hmarked : RegsBut [R.PG_STAT o.page] u (u.pgMarked o) :=
      .ite (RegsBut.refl.wf (f := F.PG_STAT_DONE o.page) (List.mem_singleton_self _)) .refl
    exact .ite (hmarked.trans (regsBut_pageHalt _ _ _)) hmarked
  rw [pgHandBack_eq, hraise _ _ hheadEvr, hraise _ _ hstatEvr]
  constructor
  · rw [(hkeep _).rf (by simpa [F.PG_HEAD_HEAD] using hother) hheadEvr, State.pgAdvanced,
      rf_wf_apart _ _ (by simp [F.PG_STAT_LSTATUS, F.PG_HEAD_HEAD, hother]), rf_wf_same _ _ _ (by simp [F.PG_HEAD_HEAD]) (by simp [F.PG_HEAD_HEAD])]
    rfl
  · have hhalted : ∀ u : State, (u.pgHalted o.page st).rf (F.PG_STAT_STATE o.page) =
        if halts st then Pg.HALT else u.rf (F.PG_STAT_STATE o.page) := fun u => by
      unfold State.pgHalted
      split
      · rw [State.pageHalt, rf_wf_apart _ _ (by simp [F.PG_STAT_STATE, F.PG_STAT_LSTATUS]),
          rf_wf_apart _ _ (by simp [F.PG_STAT_STATE, F.PG_STAT_ERRC]), pgState_wf, Pg.HALT]
      · rfl
    have hmarked : ∀ u : State, (u.pgMarked o).rf (F.PG_STAT_STATE o.page) = u.rf (F.PG_STAT_STATE o.page) := fun u => by
      unfold State.pgMarked
      split
      · exact rf_wf_apart _ _ (by simp [F.PG_STAT_STATE, F.PG_STAT_DONE])
      · rfl
    have hwritten : (s.pgWritten (s.backAt o.page) o st bytes).rf (F.PG_STAT_STATE o.page) = s.rf (F.PG_STAT_STATE o.page) :=
      (RegsBut.of_eq (l := []) (Within.wmf (m := 2) (.write32 (.write32 (.refl s))) ⟨rfl⟩ .regs rfl)).rf List.not_mem_nil hstatEvr
    rw [hhalted, hmarked, State.pgAdvanced, rf_wf_apart _ _ (by simp [F.PG_STAT_STATE, F.PG_STAT_LSTATUS]),
      rf_wf_apart _ _ (by simp [F.PG_STAT_STATE, F.PG_HEAD_HEAD]), hwritten]

/-! ### A refused descriptor -/

theorem headAt_of_lt {s : State} {n : Nat} (h : s.rf (F.PG_HEAD_HEAD n) < (s.pgRing n).2) : s.headAt n = s.backAt n := by
  rw [State.headAt, Nat.mod_eq_of_lt h, State.backAt]

theorem pageField_eccRead (s : State) (reader a len : Nat) {n : Nat} (hn : n < 32) {f : Fld}
    (hf : f.addr ∈ [R.PG_RING_LO n, R.PG_RING_HI n, R.PG_HEAD n, R.PG_STAT n]) : (s.eccRead reader a len).rf f = s.rf f := by
  simp only [List.mem_cons, List.not_mem_nil, or_false, R.PG_RING_LO, R.PG_RING_HI, R.PG_HEAD, R.PG_STAT] at hf
  exact rf_eccRead_cry s reader a len (by omega) (by omega)

theorem pgRing_eccRead (s : State) (reader a len : Nat) {n : Nat} (hn : n < 32) :
    (s.eccRead reader a len).pgRing n = s.pgRing n := by
  have hlo : (s.eccRead reader a len).reg (R.PG_RING_LO n) = s.reg (R.PG_RING_LO n) :=
    reg_eccRead_cry s reader a len (by simp only [R.PG_RING_LO]; omega) (by simp only [R.PG_RING_LO]; omega)
  rw [State.pgRing, State.pgRing, State.regN, State.regN, hlo,
    pageField_eccRead s reader a len hn (f := F.PG_RING_HI_BASE n) (by simp [F.PG_RING_HI_BASE]),
    pageField_eccRead s reader a len hn (f := F.PG_RING_HI_SIZE n) (by simp [F.PG_RING_HI_SIZE])]

theorem stopping_of_canFetch {s : State} {n : Nat} (h : s.pgCanFetch n = true) : (s.page n).stopping = false := by
  simp only [State.pgCanFetch, Bool.and_eq_true, Bool.not_eq_true'] at h
  obtain ⟨⟨⟨⟨-, hstop⟩, -⟩, -⟩, -⟩ := h
  exact hstop

/-- A refused descriptor is handed back with its status; nothing else in memory changes (R376, R377). -/
theorem cryDescriptorFetch_refuses {s : State} {n : Fin 32} {st : Nat} (hcan : s.pgCanFetch n.val = true)
    (hwin : s.pgInWindow n.val (s.pgRing n.val).1 (64 * (s.pgRing n.val).2) = true) (hops : s.cry.ops = [])
    (hread : s.readable (s.headAt n.val) 64 = true) (hclean : s.eccBad (s.headAt n.val) 64 = false)
    (hready : s.ready Fn.CRY = true) (hown : (s.read32 (s.headAt n.val)).getLsbD 31 = true)
    (hcheck : s.descCheck (descOp n.val (s.words (s.headAt n.val) 16)) (s.words (s.headAt n.val) 16) = some st)
    (hhead : s.rf (F.PG_HEAD_HEAD n.val) < (s.pgRing n.val).2) : Runs (.cryDescriptorFetch n) s fun t =>
      t.read32 (s.headAt n.val + 56) = BitVec.ofNat 32 st ∧ t.read32 (s.headAt n.val) = s.read32 (s.headAt n.val) &&& 0x7FFFFFFF ∧
        t.rf (F.PG_HEAD_HEAD n.val) = (s.rf (F.PG_HEAD_HEAD n.val) + 1) % (s.pgRing n.val).2 % 2 ^ 11 ∧
        t.rf (F.PG_STAT_STATE n.val) = (if halts st then Pg.HALT else s.rf (F.PG_STAT_STATE n.val)) ∧ t.cry.ops = [] ∧
        ∀ b, b < s.headAt n.val ∨ (s.headAt n.val + 4 ≤ b ∧ b < s.headAt n.val + 56) ∨ s.headAt n.val + 64 ≤ b →
          t.byte b = s.byte b := by
  let u := s.fetched n.val
  let o := s.fetchedOp n.val
  have hfinal : o.final = some (st, 0) := by
    rw [show o = s.fetchedOp n.val from rfl, State.fetchedOp, hcheck]
    rfl
  have hcry : (s.eccRead Ini.CRY (s.headAt n.val) 64).cry = s.cry := eccRead_cry _ _ _ _
  have hstop : (u.page n.val).stopping = false := by
    have hpages : u.cry.pages = s.cry.pages := (setOps_pages _ (· ++ [o])).trans (congrArg CrySt.pages hcry)
    rw [page_congr hpages, stopping_of_canFetch hcan]
  have hfield : ∀ {f : Fld}, f.addr ∈ [R.PG_RING_LO n.val, R.PG_RING_HI n.val, R.PG_HEAD n.val, R.PG_STAT n.val] → u.rf f = s.rf f :=
    fun {f} => pageField_eccRead s _ _ _ n.isLt
  have hring : u.pgRing n.val = s.pgRing n.val := pgRing_eccRead s _ _ _ n.isLt
  have hhead' : u.rf (F.PG_HEAD_HEAD n.val) = s.rf (F.PG_HEAD_HEAD n.val) := hfield (by simp [F.PG_HEAD_HEAD])
  have hstate : u.rf (F.PG_STAT_STATE n.val) = s.rf (F.PG_STAT_STATE n.val) := hfield (by simp [F.PG_STAT_STATE])
  have hat : u.backAt n.val = s.headAt n.val := by rw [headAt_of_lt hhead, State.backAt, hring, hhead', State.backAt]
  have hmem : u.mem = s.mem := eccRead_mem _ _ _ _
  have hsettle := pgSettle_of_refused (t := u) (m := n.val) (o := o) (fetched_ops hops) rfl rfl hfinal hstop
  obtain ⟨hadvance, hhalt⟩ := pgHandBack_page u o st 0
  obtain ⟨hstatus, howner, hout⟩ := pgWritten_words u (s.headAt n.val) o st 0
  have hback := pgHandBack_mem u o st 0
  rw [show o.page = n.val from rfl] at hadvance hhalt hback
  rw [hat] at hback
  rw [hhead', hring] at hadvance
  rw [hstate] at hhalt
  let w := u.pgHandBack o st 0
  let t := (w.setCry fun c => { c with ops := dropFirst n.val c.ops }).crySync
  have htmem : t.mem = (u.pgWritten (s.headAt n.val) o st 0).mem := hback
  have htrf : ∀ f : Fld, f.addr ∈ [R.PG_HEAD n.val, R.PG_STAT n.val] → t.rf f = w.rf f := fun f hf =>
    (regsBut_crySync (w.setCry fun c => { c with ops := dropFirst n.val c.ops })).rf
      (by simp only [List.mem_cons, List.not_mem_nil, or_false, R.PG_HEAD, R.PG_STAT, R.CRY_STAT] at hf ⊢; omega)
      (not_evrAddr_of_ge (by simp only [List.mem_cons, List.not_mem_nil, or_false, R.PG_HEAD, R.PG_STAT] at hf; omega))
  have htops : t.cry.ops = [] := by
    have hwops : w.cry.ops = [o] := (congrArg CrySt.ops (pgHandBack_cry _ _ _ _)).trans (fetched_ops hops)
    rw [show t.cry.ops = dropFirst n.val w.cry.ops from rfl, hwops, dropFirst, if_pos]
    exact Bool.and_eq_true_iff.mpr ⟨rfl, beq_iff_eq.mpr rfl⟩
  refine ⟨t, ?_, ?_, ?_, ?_, ?_, htops, fun b hb => ?_⟩
  · rw [cryDescriptorFetch_takes hcan hwin hops hread hclean hready hown, hsettle]
  · rw [read32_congr htmem, hstatus, Nat.zero_mul, Nat.zero_add]
  · rw [read32_congr htmem, howner, setBits_clear_top, read32_congr hmem]
  · rw [htrf _ (by simp [F.PG_HEAD_HEAD]), hadvance]
  · rw [htrf _ (by simp [F.PG_STAT_STATE]), hhalt]
  · rw [sameBytes_of_mem htmem b, hout b hb, sameBytes_of_mem hmem b]

end Sys2Proof.Machine
end

section
/-! PROOFS. The cipher engine's operations: their start, the cores and their end (O50). -/

namespace Sys2Proof.Machine

/-! ### Inline operations -/

section
variable {s : State} {n : Fin 6} {op : InlineOp} (hn : n.val ≠ 4)
include hn

/-- The lengths of an inline operation suit its mode (R378). -/
def CryOp.fits (o : CryOp) : Bool := tagLenOk o.mode o.tagLen && nLenOk o.mode (if o.mode ≤ 2 then 0 else o.iv.length) && o.lenOk

theorem exec_inlineOperation : exec (.inlineOperation n op) s =
    if !s.ready Fn.CRY then .next (s.emit (.cryResult n.val St.NOTREADY [] []))
    else if !(inlineOp n.val op).fits then .next (s.emit (.cryResult n.val St.RANGE [] []))
    else .next (s.setCry fun c => { c with ops := c.ops ++ [inlineOp n.val op] }).crySync := by
  have hrun : exec (.inlineOperation n op) s = execInlineOperation n op s := rfl
  have hfits : (!(inlineOp n.val op).fits) = (!tagLenOk (inlineOp n.val op).mode (inlineOp n.val op).tagLen ||
      !nLenOk (inlineOp n.val op).mode (if (inlineOp n.val op).mode ≤ 2 then 0 else (inlineOp n.val op).iv.length) ||
      !(inlineOp n.val op).lenOk) := by rw [CryOp.fits, Bool.not_and, Bool.not_and]
  rw [hrun, execInlineOperation, if_neg hn, hfits]

theorem inlineOperation_waits (hready : s.ready Fn.CRY = true) (hfits : (inlineOp n.val op).fits = true) :
    Runs (.inlineOperation n op) s fun t =>
      t.cry.ops = s.cry.ops ++ [inlineOp n.val op] ∧ t.out = s.out ∧ RegsBut [R.CRY_STAT] s t ∧ SameBytes s t := by
  let u := s.setCry fun c => { c with ops := c.ops ++ [inlineOp n.val op] }
  refine ⟨u.crySync, ?_, rfl, rfl, regsBut_crySync u, fun _ => rfl⟩
  rw [exec_inlineOperation hn, if_neg (by simp [hready]), if_neg (by simp [hfits])]

theorem inlineOperation_notReady (hready : s.ready Fn.CRY = false) :
    exec (.inlineOperation n op) s = .next (s.emit (.cryResult n.val St.NOTREADY [] [])) := by
  rw [exec_inlineOperation hn, if_pos (by simp [hready])]

theorem inlineOperation_unfit (hready : s.ready Fn.CRY = true) (hfits : (inlineOp n.val op).fits = false) :
    exec (.inlineOperation n op) s = .next (s.emit (.cryResult n.val St.RANGE [] [])) := by
  rw [exec_inlineOperation hn, if_neg (by simp [hready]), if_pos (by simp [hfits])]

end

/-! ### The end of an inline operation -/

theorem opCount_mem (s : State) (o : CryOp) (st : Nat) : (s.opCount o st).mem = s.mem :=
  Within.opCount (m := 1) (.refl s) ⟨rfl⟩ .mem rfl

theorem opCount_out (s : State) (o : CryOp) (st : Nat) : (s.opCount o st).out = s.out :=
  Within.opCount (m := 1) (.refl s) ⟨rfl⟩ .out rfl

theorem opCount_inline {s : State} {o : CryOp} (st : Nat) (hfw : o.fw = false) :
    s.opCount o st = if st = St.OK then s.bump R.CRY_CNT_OPS else s.cryCount st := by
  rw [State.opCount]
  exact if_pos (by simp [hfw])

theorem opEnd_inline {s : State} {k : Nat} {o : CryOp} (st : Nat) (out tag : List Byte) (ho : s.cry.ops[k]? = some o)
    (hfw : o.fw = false) (hesp : o.esp = none) :
    s.opEnd k st out tag =
      ((s.opCount o st).setCry fun c => { c with ops := c.ops.eraseIdx k }).crySync.emit (.cryResult o.page st out tag) := by
  unfold State.opEnd
  simp only [ho, hfw, hesp, Bool.false_eq_true, if_false]

theorem crySync_out (s : State) : s.crySync.out = s.out := rfl
theorem crySync_mem (s : State) : s.crySync.mem = s.mem := rfl

/-- The end of an inline operation gives its result, takes it out of the list and counts. -/
theorem opEnd_inline_gives {s u : State} {k a : Nat} {o : CryOp} (st : Nat) (out tag : List Byte) (hu : u.cry.ops = s.cry.ops)
    (hout : u.out = s.out) (hregs : u.regs = s.regs) (hmem : u.mem = s.mem) (ho : s.cry.ops[k]? = some o) (hfw : o.fw = false)
    (hesp : o.esp = none) (hcount : Counted a u (u.opCount o st)) (ha : a ∉ [R.CRY_STAT] ∧ 0x40020000 ≤ a) :
    (u.opEnd k st out tag).out = .cryResult o.page st out tag :: s.out ∧
      (u.opEnd k st out tag).cry.ops = s.cry.ops.eraseIdx k ∧ Counted a s (u.opEnd k st out tag) ∧
      SameBytes s (u.opEnd k st out tag) := by
  rw [opEnd_inline st out tag (by rw [hu, ho]) hfw hesp]
  have hsync : RegsBut [R.CRY_STAT] (u.opCount o st)
      (((u.opCount o st).setCry fun c => { c with ops := c.ops.eraseIdx k }).crySync.emit (.cryResult o.page st out tag)) :=
    fun b hb he => by rw [emit_reg, regsBut_crySync _ b hb he, setCry_reg]
  refine ⟨?_, ?_, (hcount.andThen hsync ha).after (RegsBut.of_eq (l := []) hregs) ⟨List.not_mem_nil, ha.2⟩, sameBytes_of_mem ?_⟩
  · rw [emit_out, crySync_out, setCry_out, opCount_out, hout]
  · rw [emit_cry, crySync_cry, setCry_cry, opCount_cry, hu]
  · rw [emit_mem, crySync_mem, setCry_mem, opCount_mem, hmem]

/-! ### Cores -/

theorem opPick_mem (s : State) (sus : Bool) : ∀ {l : List (CryOp × Nat)} {x : CryOp × Nat}, s.opPick sus l = some x → x ∈ l
  | [], _, h => by cases h
  | (o, k) :: t, x, h => by
    rw [State.opPick] at h
    split at h
    · split at h
      · obtain rfl := Option.some.inj h
        exact List.mem_cons_self
      · next b j hbest =>
        split at h
        · obtain rfl := Option.some.inj h
          exact List.mem_cons_of_mem _ (opPick_mem s sus hbest)
        · obtain rfl := Option.some.inj h
          exact List.mem_cons_self
    · exact List.mem_cons_of_mem _ (opPick_mem s sus h)

/-- The operation picked is the one of its number. -/
theorem getElem?_of_opPick {s : State} {sus : Bool} {o : CryOp} {k : Nat} (h : s.opPick sus s.cry.ops.zipIdx = some (o, k)) :
    s.cry.ops[k]? = some o := List.mem_zipIdx_iff_getElem?.mp (opPick_mem s sus h)

/-- The page of the operation is noted as the one served last at its priority (R375). -/
def State.served (s : State) (o : CryOp) : State := s.setCry fun y => { y with rr := Sparse.putN y.rr (s.opPrio o) o.page }

theorem opKey_served (s : State) (o x : CryOp) : (s.served o).opKey x = s.opKey x := rfl

theorem giveCore_new {s : State} {k c : Nat} {o : CryOp} (ho : s.cry.ops[k]? = some o) (hnew : o.started = false) {key : List Byte}
    {gen : Word} (hkey : s.opKey o = .ok (key, gen)) :
    s.giveCore k c = ((s.served o).setCry fun y =>
      { y with ops := y.ops.set k { o with core := some c, started := true, key := key, gen := gen } }).crySync := by
  unfold State.giveCore
  simp only [ho, hnew, Bool.false_eq_true, if_false]
  rw [show (s.setCry fun y => { y with rr := Sparse.putN y.rr (s.opPrio o) o.page }) = s.served o from rfl]
  simp only [opKey_served, hkey]

theorem giveCore_nokey {s : State} {k c : Nat} {o : CryOp} (ho : s.cry.ops[k]? = some o) (hnew : o.started = false)
    (hkey : s.opKey o = .error St.NOKEY) : s.giveCore k c = (s.served o).opEnd k St.NOKEY [] [] := by
  unfold State.giveCore
  simp only [ho, hnew, Bool.false_eq_true, if_false]
  rw [show (s.setCry fun y => { y with rr := Sparse.putN y.rr (s.opPrio o) o.page }) = s.served o from rfl]
  simp only [opKey_served, hkey]
  rw [if_neg (by decide)]

section
variable {s : State} {c : Nat} (hfree : s.freeCore = some c)
include hfree

theorem coreAssign_idle (hpick : s.opPick true s.cry.ops.zipIdx = none) : exec .coreAssign s = .next s := by
  have hrun : exec .coreAssign s = execCoreAssign s := rfl
  rw [hrun, execCoreAssign, hfree]
  simp only [hpick]

theorem exec_coreAssign {o : CryOp} {k : Nat} (hpick : s.opPick true s.cry.ops.zipIdx = some (o, k)) :
    exec .coreAssign s = .next (s.giveCore k c) := by
  have hrun : exec .coreAssign s = execCoreAssign s := rfl
  rw [hrun, execCoreAssign, hfree]
  simp only [hpick]

/-- A free core takes the operation picked, under a snapshot of its key (R375, R385). -/
theorem coreAssign_starts {o : CryOp} {k : Nat} {key : List Byte} {gen : Word}
    (hpick : s.opPick true s.cry.ops.zipIdx = some (o, k)) (hnew : o.started = false) (hkey : s.opKey o = .ok (key, gen)) :
    Runs .coreAssign s fun t =>
      t.cry.ops = s.cry.ops.set k { o with core := some c, started := true, key := key, gen := gen } ∧
        RegsBut [R.CRY_STAT] s t ∧ SameBytes s t := by
  refine ⟨_, exec_coreAssign hfree hpick, ?_⟩
  rw [giveCore_new (getElem?_of_opPick hpick) hnew hkey]
  exact ⟨rfl, regsBut_crySync ((s.served o).setCry fun y =>
    { y with ops := y.ops.set k { o with core := some c, started := true, key := key, gen := gen } }), fun _ => rfl⟩

/-- An inline operation without a usable key ends with NOKEY (R385). -/
theorem coreAssign_without_key {o : CryOp} {k : Nat} (hpick : s.opPick true s.cry.ops.zipIdx = some (o, k)) (hfw : o.fw = false)
    (hesp : o.esp = none) (hnew : o.started = false) (hkey : s.opKey o = .error St.NOKEY) : Runs .coreAssign s fun t =>
      t.cry.ops = s.cry.ops.eraseIdx k ∧ t.out = .cryResult o.page St.NOKEY [] [] :: s.out ∧
        Counted R.CRY_CNT_NOKEY s t ∧ SameBytes s t := by
  have ho := getElem?_of_opPick hpick
  refine ⟨_, exec_coreAssign hfree hpick, ?_⟩
  have hcount : (s.served o).opCount o St.NOKEY = (s.served o).bump R.CRY_CNT_NOKEY := by
    rw [opCount_inline _ hfw, if_neg (by decide), State.cryCount, if_neg (by decide), if_pos rfl]
  rw [giveCore_nokey ho hnew hkey]
  obtain ⟨hout, hops, hcounted, hbytes⟩ := opEnd_inline_gives (s := s) (u := s.served o) (a := R.CRY_CNT_NOKEY) St.NOKEY [] [] rfl rfl
    rfl rfl ho hfw hesp (hcount ▸ counted_bump _ _) (by decide)
  exact ⟨hops, hout, hcounted, hbytes⟩

end

/-! ### The end of an operation on a core -/

theorem cryOperationComplete_idle {s : State} {c : Fin 12} (h : s.cry.ops.all (fun o => o.core != some c.val) = true) :
    exec (.cryOperationComplete c) s = .next s := by
  have hrun : exec (.cryOperationComplete c) s = execCryOperationComplete c s := rfl
  have hnone : s.cry.ops.findIdx? (fun o => o.core == some c.val) = none := by
    refine List.findIdx?_eq_none_iff.mpr fun o ho => ?_
    have hne := List.all_eq_true.mp h o ho
    simpa using hne
  rw [hrun, execCryOperationComplete, hnone]

section
variable {s : State} {c : Fin 12} {k : Nat} {o : CryOp}
  (hcore : s.cry.ops.findIdx? (fun o => o.core == some c.val) = some k) (ho : s.cry.ops[k]? = some o) (hesp : o.esp = none)
include hcore ho hesp

theorem exec_cryOperationComplete :
    exec (.cryOperationComplete c) s = .next (if o.fw then s.fwRun k o else s.inlineRun k o) := by
  have hrun : exec (.cryOperationComplete c) s = execCryOperationComplete c s := rfl
  rw [hrun, execCryOperationComplete, hcore]
  simp only [ho, hesp]

/-- What an inline operation yields. -/
def CryOp.inlineYield (o : CryOp) : OpYield := o.yield CryCtx.free (nats o.aad) (nats o.data)

/-- The tag an inline operation computes. -/
def CryOp.inlineTag (o : CryOp) : List Byte := toBytes (o.inlineYield.tag.take o.tagLen)

/-- A completed inline operation gives its result; one whose tag differs gives AUTH and no byte (R380, R391). -/
theorem cryOperationComplete_inline (hfw : o.fw = false) (hok : o.inlineYield.status = St.OK) :
    ((o.compares && o.inlineTag != o.tag) = false → Runs (.cryOperationComplete c) s fun t =>
      t.out = .cryResult o.page St.OK (toBytes o.inlineYield.out) o.inlineTag :: s.out ∧ t.cry.ops = s.cry.ops.eraseIdx k ∧
        Counted R.CRY_CNT_OPS s t ∧ SameBytes s t) ∧
    ((o.compares && o.inlineTag != o.tag) = true → Runs (.cryOperationComplete c) s fun t =>
      t.out = .cryResult o.page St.AUTH [] [] :: s.out ∧ t.cry.ops = s.cry.ops.eraseIdx k ∧
        Counted R.CRY_CNT_AUTH s t ∧ SameBytes s t) := by
  have hexec := exec_cryOperationComplete hcore ho hesp
  rw [if_neg (by simp [hfw])] at hexec
  refine ⟨fun htag => ⟨_, hexec, ?_⟩, fun htag => ⟨_, hexec, ?_⟩⟩
  · have hend : s.inlineRun k o = s.opEnd k St.OK (toBytes o.inlineYield.out) o.inlineTag := by
      rw [State.inlineRun]
      exact (if_neg (fun hne => hne hok)).trans (if_neg fun hne => Bool.false_ne_true (htag.symm.trans hne))
    rw [hend]
    refine opEnd_inline_gives _ _ _ rfl rfl rfl rfl ho hfw hesp ?_ (by decide)
    rw [opCount_inline _ hfw, if_pos rfl]
    exact counted_bump _ _
  · have hend : s.inlineRun k o = s.opEnd k St.AUTH [] [] := by
      rw [State.inlineRun]
      exact (if_neg (fun hne => hne hok)).trans (if_pos htag)
    rw [hend]
    refine opEnd_inline_gives _ _ _ rfl rfl rfl rfl ho hfw hesp ?_ (by decide)
    rw [opCount_inline _ hfw, if_neg (by decide), State.cryCount, if_pos rfl]
    exact counted_bump _ _

end

end Sys2Proof.Machine
end

section
/-! PROOFS. The cipher engine's operations: the end of a descriptor's operation, and the whole of its pages (O50). -/

namespace Sys2Proof.Machine

/-! ### The end of a descriptor's operation -/

theorem find?_set_of_ne {α : Type} {p : α → Bool} {f o x : α} : ∀ {l : List α} {k : Nat}, l.find? p = some f → l[k]? = some o →
    p o = true → f ≠ o → (l.set k x).find? p = some f
  | y :: l, 0, hfind, ho, hp, hne => by
    obtain rfl : y = o := Option.some.inj ho
    rw [List.find?_cons_of_pos hp] at hfind
    exact absurd (Option.some.inj hfind).symm hne
  | y :: l, k + 1, hfind, ho, hp, hne => by
    rw [List.set_cons_succ]
    by_cases hy : p y = true
    · rw [List.find?_cons_of_pos hy] at hfind ⊢
      exact hfind
    · rw [List.find?_cons_of_neg hy] at hfind ⊢
      exact find?_set_of_ne hfind ho hp hne

theorem opEnd_fw {s : State} {k : Nat} {o : CryOp} (st : Nat) (out tag : List Byte) (ho : s.cry.ops[k]? = some o) (hfw : o.fw = true) :
    s.opEnd k st out tag = ((s.opCount o st).setCry fun c =>
      { c with ops := c.ops.set k { o with core := none, final := some (st, out.length) } }).pgSettle o.page := by
  unfold State.opEnd
  simp only [ho, hfw, if_true]

/-- The operation waits for its turn behind another of its page. -/
theorem opEnd_fw_waits {s : State} {k : Nat} {o f : CryOp} (st : Nat) (out tag : List Byte) (ho : s.cry.ops[k]? = some o)
    (hfw : o.fw = true) (hfirst : s.pgFirst o.page = some f) (hfin : f.final = none) (hne : f ≠ o) :
    (s.opEnd k st out tag).cry.ops = s.cry.ops.set k { o with core := none, final := some (st, out.length) } ∧
      (s.opEnd k st out tag).mem = s.mem := by
  let u := (s.opCount o st).setCry fun c => { c with ops := c.ops.set k { o with core := none, final := some (st, out.length) } }
  have hops : u.cry.ops = s.cry.ops.set k { o with core := none, final := some (st, out.length) } := by
    rw [setCry_cry, opCount_cry]
  have hwaits : u.pgFirst o.page = some f := by
    rw [State.pgFirst, hops]
    exact find?_set_of_ne hfirst ho (by simp [hfw]) hne
  rw [opEnd_fw _ _ _ ho hfw, pgSettle_of_waiting hwaits hfin, crySync_cry, crySync_mem, hops, setCry_mem, opCount_mem]
  exact ⟨rfl, rfl⟩

section
variable {s : State} {c : Fin 12} {k : Nat} {o : CryOp}

theorem core_of_findIdx? (hcore : s.cry.ops.findIdx? (fun o => o.core == some c.val) = some k) (ho : s.cry.ops[k]? = some o) :
    o.core = some c.val := by
  obtain ⟨hlt, hp, -⟩ := List.findIdx?_eq_some_iff_getElem.mp hcore
  obtain ⟨-, rfl⟩ := List.getElem?_eq_some_iff.mp ho
  simpa using hp

/-- What a block-mode operation of a descriptor yields. -/
def State.fwYield (s : State) (o : CryOp) : OpYield := o.yield CryCtx.free [] (nats (s.bytes o.src o.len))

/-- A block-mode operation of a single piece reads its data, stores what it yields and ends (R378, R379). -/
theorem fwRun_of_block (hmode : o.mode ≤ 2) (hchain : o.chain = 0) (haad : o.aadLen = 0)
    (hread : o.len ≠ 0 → s.readable o.src o.len = true ∧ s.eccBad o.src o.len = false)
    (hwrite : o.outLen ≠ 0 → s.writable Ini.CRY o.dst o.outLen = true) (hok : (s.fwYield o).status = St.OK) :
    s.fwRun k o = ((s.eccRead Ini.CRY o.src o.len).store Ini.CRY o.dst (toBytes (s.fwYield o).out)).opEnd k St.OK
      (toBytes (s.fwYield o).out) (toBytes ((s.fwYield o).tag.take o.tagLen)) := by
  have hmode3 : decide (3 ≤ o.mode) = false := decide_eq_false (by omega)
  have hcompares : o.compares = false := by rw [CryOp.compares, hmode3, Bool.and_false, Bool.false_and, Bool.false_and]
  have hwrites : o.writesTag = false := by rw [CryOp.writesTag, hmode3, Bool.and_false, Bool.false_and, Bool.false_and]
  have hbytes : (s.eccRead Ini.CRY o.src o.len).bytes o.src o.len = s.bytes o.src o.len := bytes_congr (eccRead_mem _ _ _ _) _ _
  have hnone : ∀ (u : State) (a : Nat), u.eccRead Ini.CRY a 0 = u := fun u a => if_pos rfl
  have hreadable : (o.len != 0 && !s.readable o.src o.len) = false := by
    by_cases h : o.len = 0
    · simp [h]
    · simp [(hread h).1]
  have hgood : (o.len != 0 && s.eccBad o.src o.len) = false := by
    by_cases h : o.len = 0
    · simp [h]
    · simp [(hread h).2]
  have hwritable : (o.outLen != 0 && !s.writable Ini.CRY o.dst o.outLen) = false := by
    by_cases h : o.outLen = 0
    · simp [h]
    · simp [hwrite h]
  have hyield : o.yield CryCtx.free (nats ((s.eccRead Ini.CRY o.src o.len).bytes o.aadAt 0))
      (nats ((s.eccRead Ini.CRY o.src o.len).bytes o.src o.len)) = s.fwYield o := by rw [hbytes]; rfl
  unfold State.fwRun
  simp only [hcompares, hwrites, haad, hchain, State.pieceCtx, List.any_cons, List.any_nil, List.foldl_cons, List.foldl_nil, hnone,
    hreadable, hgood, hwritable, hyield, hok, Bool.false_eq_true, if_false, if_true, Nat.zero_le, bne_self_eq_false, Bool.false_and,
    Bool.or_false, ne_eq, not_true_eq_false]

/-- A completed block-mode operation stores what it yields and nothing else, and waits for its turn (R376 to R379). -/
theorem cryOperationComplete_fw {f : CryOp} (hcore : s.cry.ops.findIdx? (fun o => o.core == some c.val) = some k)
    (ho : s.cry.ops[k]? = some o) (hesp : o.esp = none) (hfw : o.fw = true) (hmode : o.mode ≤ 2) (hchain : o.chain = 0)
    (haad : o.aadLen = 0) (hfirst : s.pgFirst o.page = some f) (hfin : f.final = none) (hfcore : f.core ≠ some c.val)
    (hread : o.len ≠ 0 → s.readable o.src o.len = true ∧ s.eccBad o.src o.len = false)
    (hwrite : o.outLen ≠ 0 → s.writable Ini.CRY o.dst o.outLen = true) (hok : (s.fwYield o).status = St.OK) :
    Runs (.cryOperationComplete c) s fun t =>
      t.bytes o.dst (s.fwYield o).out.length = toBytes (s.fwYield o).out ∧
        (∀ b, b < o.dst ∨ o.dst + (s.fwYield o).out.length ≤ b → t.byte b = s.byte b) ∧
        t.cry.ops = s.cry.ops.set k { o with core := none, final := some (St.OK, (s.fwYield o).out.length) } := by
  have hexec := exec_cryOperationComplete hcore ho hesp
  rw [if_pos hfw, fwRun_of_block hmode hchain haad hread hwrite hok] at hexec
  have hlen : (toBytes (s.fwYield o).out).length = (s.fwYield o).out.length := List.length_map _
  have hcry : ((s.eccRead Ini.CRY o.src o.len).store Ini.CRY o.dst (toBytes (s.fwYield o).out)).cry = s.cry :=
    (store_cry _ _ _ _).trans (eccRead_cry _ _ _ _)
  have hne : f ≠ o := fun e => hfcore (e ▸ core_of_findIdx? hcore ho)
  obtain ⟨hops, hmem⟩ := opEnd_fw_waits (s := (s.eccRead Ini.CRY o.src o.len).store Ini.CRY o.dst (toBytes (s.fwYield o).out))
    (k := k) (o := o) St.OK (toBytes (s.fwYield o).out) (toBytes ((s.fwYield o).tag.take o.tagLen)) (by rw [hcry, ho]) hfw
    ((pgFirst_congr (congrArg CrySt.ops hcry) _).trans hfirst) hfin hne
  refine ⟨_, hexec, ?_, fun b hb => ?_, ?_⟩
  · have hstored := bytes_store (s.eccRead Ini.CRY o.src o.len) Ini.CRY o.dst (toBytes (s.fwYield o).out)
    rw [hlen] at hstored
    rw [bytes_congr hmem, hstored]
  · rw [sameBytes_of_mem hmem b, byte_store_of_outside (hlen.symm ▸ hb), sameBytes_of_mem (eccRead_mem _ _ _ _) b]
  · rw [hops, hcry, hlen]

end

/-! ### The obligation -/

/-- Settles O50, from what each fetch, each start and end of an operation and each page command does. -/
theorem cipherPages : Obligations.CipherPages := by
  unfold Obligations.CipherPages
  intro s i
  refine ⟨fun n => ?fetch, fun n op hn => ?inline, fun c hfree => ?core, fun c => ?complete, fun n tag hmay => ?command,
    fun n x xs hmay h => pageResultPop_pops hmay h⟩
  case fetch =>
    refine ⟨fun v hmay hv hn => pageDoorbell_rings hmay hv hn, fun hcan => cryDescriptorFetch_idle hcan,
      fun hcan hwin => cryDescriptorFetch_outside hcan hwin, fun hcan hwin hops hread hclean hready => ⟨?_, ?_, ?_⟩⟩
    · exact fun hown => cryDescriptorFetch_parks hcan hwin hops hread hclean hown
    · exact fun hown hcheck => cryDescriptorFetch_queues hcan hwin hops hread hclean hready hown hcheck
    · exact fun st hown hcheck hhead => cryDescriptorFetch_refuses hcan hwin hops hread hclean hready hown hcheck hhead
  case inline =>
    exact ⟨fun hready hfits => inlineOperation_waits hn hready hfits, fun hready => inlineOperation_notReady hn hready,
      fun hready hfits => inlineOperation_unfit hn hready hfits⟩
  case core =>
    exact ⟨fun hpick => coreAssign_idle hfree hpick, fun o k key gen hpick hnew hkey => coreAssign_starts hfree hpick hnew hkey,
      fun o k hpick hfw hesp hnew hkey => coreAssign_without_key hfree hpick hfw hesp hnew hkey⟩
  case complete =>
    refine ⟨fun h => cryOperationComplete_idle h, fun k o hcore ho hesp => ⟨fun hfw => ?_, ?_⟩⟩
    · exact ⟨fun hok htag => (cryOperationComplete_inline hcore ho hesp hfw hok).1 htag,
        fun hok htag => (cryOperationComplete_inline hcore ho hesp hfw hok).2 htag⟩
    · exact fun f hfw hmode hchain haad hfirst hfin hfcore hread hwrite hok =>
        cryOperationComplete_fw hcore ho hesp hfw hmode hchain haad hfirst hfin hfcore hread hwrite hok
  case command =>
    refine ⟨fun hn d c hc => pageCommand_on_inline hmay hn hc, fun hn hready => ⟨pageEnable_enables hmay hn hready,
      pageClear_clears hmay hn hready, fun hst hfirst => pageStop_stops hmay hn hready hst hfirst,
      fun f hst hfirst hfin => pageStop_waits hmay hn hready hst hfirst hfin, fun d => ⟨fun hbusy y hy => ?_, fun hidle => ?_, ?_, ?_⟩⟩⟩
    · simp only [List.mem_cons, List.not_mem_nil, or_false] at hy
      obtain rfl | rfl := hy
      · exact ctxSave_of_busy hmay hn hready hbusy
      · exact ctxDrop_of_busy hmay hn hready hbusy
    · exact ⟨ctxDrop_frees hmay hn hready hidle, fun hfmt hright => ctxSave_without_right hmay hn hready hidle hfmt hright,
        fun hfmt hright hst hwin hwrite => ctxSave_saves hmay hn hready hidle hfmt hright hst hwin hwrite⟩
    · exact fun hst => ctxRestore_of_used hmay hn hready hst
    · exact fun hst hwin hread hclean => ⟨fun hpage => ctxRestore_of_other_page hmay hn hready hst hwin hread hclean hpage,
        fun hpage => ctxRestore_of_own_page hmay hn hready hst hwin hread hclean hpage⟩

end Sys2Proof.Machine
end

section
/-! PROOFS. What a reset records and leaves (O58). -/

namespace Sys2Proof.Machine

/-! ### Registers and memory after a reset -/

/-- A register stands when the reset keeps it, and else has its reset value (R497). -/
theorem reg_resetKeep (s : State) (keep : Nat → Bool) (dram warm : Bool) (a : Nat) :
    (s.resetKeep keep dram warm).reg a = if keep a = true then s.reg a else regDefault a := by
  have hdrop : (s.resetKeep keep dram warm).reg a = Sparse.get regDefault (Sparse.drop (fun a => !keep a) s.regs) a := rfl
  rw [hdrop, get_drop, State.reg]
  cases keep a <;> rfl

/-- Memory without the cells of some places reads 0 there and as before elsewhere. -/
theorem byte_of_mem_filter {s t : State} {p : Nat → Bool} (h : t.mem = s.mem.filter (fun c => !p c.1)) (a : Nat) :
    t.byte a = if p a = true then 0 else s.byte a := by
  rw [State.byte, h]
  exact get_drop memDefault p a s.mem

/-- The reset with its cause, before a controller that holds data goes into self-refresh (R497, R526). -/
def State.resetNoted (s : State) (keep : Nat → Bool) (dram warm : Bool) (cause : Nat) : State :=
  ((s.resetKeep keep dram warm).wf F.SYS_OTPCNT_BUSY 0).rstCause cause (s.rf F.SYS_RSTCAUSE_THIS)

/-- The causes that the register names after a reset (R526). -/
def State.CausesNoted (s : State) (cause : Nat) (t : State) : Prop :=
  t.reg R.SYS_RSTCAUSE =
    BitVec.ofNat 32 (cause * 2 ^ 24 + (if cause = 1 then 0 else s.rf F.SYS_RSTCAUSE_THIS) * 2 ^ 16)

/-- What is new after every reset, and what every reset keeps (R497). -/
def State.Fresh (s t : State) : Prop :=
  t.sys.phase = 0 ∧ t.sys.mc5 = false ∧ t.sys.limited = 0 ∧ t.cry = State.reset.cry ∧
    t.ode = State.reset.ode ∧ t.gtu = State.reset.gtu ∧ t.flash = s.flash ∧ t.rb F.SYS_OTPCNT_BUSY = false ∧
    t.rf F.SYS_OTPCNT_EPOCH = s.rf F.SYS_OTPCNT_EPOCH ∧ (∀ a, isDram a = false → t.byte a = s.byte a)

section

variable (s : State) {keep : Nat → Bool} {dram warm : Bool} {cause : Nat}

theorem reg_resetNoted (a : Nat) (ha : a ≠ R.SYS_RSTCAUSE) (hotp : a ≠ R.SYS_OTPCNT) :
    (s.resetNoted keep dram warm cause).reg a = if keep a = true then s.reg a else regDefault a :=
  (reg_setReg_other _ _ ha).trans ((reg_setReg_other _ _ hotp).trans (reg_resetKeep ..))

theorem causesNoted_resetNoted : s.CausesNoted cause (s.resetNoted keep dram warm cause) := reg_setReg_same ..

theorem mem_resetNoted :
    (s.resetNoted keep dram warm cause).mem = if dram = true then s.mem else s.mem.filter (fun c => !isDram c.1) := rfl

theorem byte_resetNoted_of_sram {a : Nat} (ha : isDram a = false) :
    (s.resetNoted keep dram warm cause).byte a = s.byte a := by
  cases dram with
  | true => rfl
  | false => exact (byte_of_mem_filter (mem_resetNoted s) a).trans (if_neg (by rw [ha]; decide))

theorem byte_resetNoted_of_dram {a : Nat} (ha : isDram a = true) :
    (s.resetNoted keep false warm cause).byte a = 0 :=
  (byte_of_mem_filter (mem_resetNoted s) a).trans (if_pos ha)

theorem fresh_resetNoted (hkeep : keep R.SYS_OTPCNT = true) : s.Fresh (s.resetNoted keep dram warm cause) := by
  have hfield : ∀ f : Fld, f.addr = R.SYS_OTPCNT →
      (s.resetNoted keep dram warm cause).rf f = ((s.resetKeep keep dram warm).wf F.SYS_OTPCNT_BUSY 0).rf f :=
    fun f hf => rf_setRegN_other _ _ _ f (by rw [hf]; decide)
  have hbusy : (s.resetNoted keep dram warm cause).rb F.SYS_OTPCNT_BUSY = false := by
    rw [State.rb, hfield _ rfl]
    exact rb_wf_bit _ 0 rfl (by decide)
  have hepoch : (s.resetNoted keep dram warm cause).rf F.SYS_OTPCNT_EPOCH = s.rf F.SYS_OTPCNT_EPOCH := by
    rw [hfield _ rfl, rf_wf_apart _ _ (by decide)]
    exact congrArg (bits · _ _) ((reg_resetKeep s ..).trans (if_pos hkeep))
  exact ⟨rfl, rfl, rfl, rfl, rfl, rfl, rfl, hbusy, hepoch, fun a ha => byte_resetNoted_of_sram s ha⟩

theorem sys_resetNoted : (s.resetNoted keep dram warm cause).sys =
    { SysSt.reset with cold := !warm, rlyNc := s.sys.rlyNc, rlyOut := warm && s.sys.rlyOut } := rfl

end

/-! ### Cold resets -/

/-- What a cold reset leaves (R497). -/
def State.ColdBy (s : State) (cause : Nat) (t : State) : Prop :=
  s.CausesNoted cause t ∧ s.Fresh t ∧ t.sys.cold = true ∧ t.sys.rlyOut = false ∧
    (∀ a, isDram a = true → t.byte a = 0) ∧ (∀ a, keptCold a = false → t.reg a = regDefault a) ∧
    (∀ n, n < 128 → t.reg (R.PKE_OTP n) = s.reg (R.PKE_OTP n))

/-- The fuses of PKE stand in the range that every reset keeps. -/
theorem pkeOtp_bounds {n : Nat} (hn : n < 128) : 0x40050400 ≤ R.PKE_OTP n ∧ R.PKE_OTP n < 0x40050600 := by
  unfold R.PKE_OTP
  omega

theorem reset_drops {a : Nat} {keep : Nat → Bool} (hcause : keep R.SYS_RSTCAUSE = true) (hotp : keep R.SYS_OTPCNT = true)
    (ha : keep a = false) : a ≠ R.SYS_RSTCAUSE ∧ a ≠ R.SYS_OTPCNT :=
  ⟨fun h => Bool.false_ne_true (ha.symm.trans (h ▸ hcause)), fun h => Bool.false_ne_true (ha.symm.trans (h ▸ hotp))⟩

theorem coldBy_coldReset (s : State) (cause : Nat) : s.ColdBy cause (s.coldReset cause) := by
  have hreset : s.coldReset cause = s.resetNoted keptCold false false cause := rfl
  rw [hreset]
  refine ⟨causesNoted_resetNoted s, fresh_resetNoted s (by decide), rfl, rfl, fun a ha => byte_resetNoted_of_dram s ha,
    fun a ha => ?_, fun n hn => ?_⟩
  · obtain ⟨hcause, hotp⟩ := reset_drops (by decide) (by decide) ha
    rw [reg_resetNoted s a hcause hotp, ha, if_neg Bool.false_ne_true]
  · obtain ⟨hlow, hhigh⟩ := pkeOtp_bounds hn
    have hkept : keptCold (R.PKE_OTP n) = true := by simp [keptCold, hlow, hhigh]
    have hcause : R.PKE_OTP n ≠ R.SYS_RSTCAUSE := fun h => absurd (h ▸ hhigh) (by decide)
    have hotp : R.PKE_OTP n ≠ R.SYS_OTPCNT := fun h => absurd (h ▸ hhigh) (by decide)
    rw [reg_resetNoted s _ hcause hotp, if_pos hkept]

/-! ### Warm resets -/

/-- The DRAM controller holds data (R434). -/
def State.holdsDram (s : State) : Bool := decide (2 ≤ s.rf F.DRC_STAT_STATE)

/-- What a warm reset leaves (R497, R434). -/
def State.WarmBy (s : State) (cause : Nat) (t : State) : Prop :=
  s.CausesNoted cause t ∧ s.Fresh t ∧ t.sys.cold = false ∧ t.sys.rlyOut = s.sys.rlyOut ∧
    (∀ a, keptWarm s.holdsDram a = false → t.reg a = regDefault a) ∧
    (∀ n, n < 4 → t.reg (R.SYS_AONSCR n) = s.reg (R.SYS_AONSCR n)) ∧
    t.reg R.CRY_ALMCNT = s.reg R.CRY_ALMCNT ∧
    (s.holdsDram = true → t.rf F.DRC_STAT_STATE = 4 ∧ t.rb F.DRC_DUMP_RETAINED = true ∧ t.rb F.DRC_DUMP_LOCK = true ∧
      t.mem = s.mem) ∧
    (s.holdsDram = false → ∀ a, isDram a = true → t.byte a = 0)

/-- The controller in self-refresh, its basin retained and locked (R434). -/
def State.dumpRetain (s : State) : State :=
  ((s.setRegN R.DRC_STAT (s.regN R.DRC_STAT % 2 ^ 28 / 2 ^ 25 * 2 ^ 25 + s.regN R.DRC_STAT % 2 ^ 24)).wf F.DRC_STAT_STATE 4
    |>.wb F.DRC_DUMP_RETAINED true).wb F.DRC_DUMP_LOCK true

theorem reg_dumpRetain (s : State) {a : Nat} (hstat : a ≠ R.DRC_STAT) (hdump : a ≠ R.DRC_DUMP) :
    s.dumpRetain.reg a = s.reg a :=
  (reg_setReg_other _ _ hdump).trans ((reg_setReg_other _ _ hdump).trans
    ((reg_setReg_other _ _ hstat).trans (reg_setReg_other _ _ hstat)))

theorem dumpRetain_drc (s : State) : s.dumpRetain.rf F.DRC_STAT_STATE = 4 ∧ s.dumpRetain.rb F.DRC_DUMP_RETAINED = true ∧
    s.dumpRetain.rb F.DRC_DUMP_LOCK = true := by
  unfold State.dumpRetain
  refine ⟨?_, ?_, rb_wb_same _ _ rfl (by decide)⟩
  · rw [State.wb, State.wb, rf_wf_apart _ _ (by decide), rf_wf_apart _ _ (by decide),
      rf_wf_same _ _ _ (by decide) (by decide)]
    rfl
  · rw [rb_wb_apart _ _ (by decide), rb_wb_same _ _ rfl (by decide)]

theorem regsBut_dumpRetain (s : State) : RegsBut [R.DRC_STAT, R.DRC_DUMP] s s.dumpRetain := fun a ha _ => by
  simp only [List.mem_cons, List.not_mem_nil, or_false, not_or] at ha
  exact reg_dumpRetain s ha.1 ha.2

@[simp] theorem dumpRetain_sys (s : State) : s.dumpRetain.sys = s.sys := rfl
@[simp] theorem dumpRetain_cry (s : State) : s.dumpRetain.cry = s.cry := rfl
@[simp] theorem dumpRetain_ode (s : State) : s.dumpRetain.ode = s.ode := rfl
@[simp] theorem dumpRetain_gtu (s : State) : s.dumpRetain.gtu = s.gtu := rfl
@[simp] theorem dumpRetain_flash (s : State) : s.dumpRetain.flash = s.flash := rfl
@[simp] theorem dumpRetain_mem (s : State) : s.dumpRetain.mem = s.mem := rfl
@[simp] theorem dumpRetain_byte (s : State) (a : Nat) : s.dumpRetain.byte a = s.byte a := rfl

/-- Self-refresh leaves what every reset leaves. -/
theorem fresh_dumpRetain {s t : State} (h : s.Fresh t) : s.Fresh t.dumpRetain := by
  have hbusy : t.dumpRetain.rb F.SYS_OTPCNT_BUSY = t.rb F.SYS_OTPCNT_BUSY :=
    (regsBut_dumpRetain t).rb (by decide) (not_evrAddr_of_ge (by decide))
  have hepoch : t.dumpRetain.rf F.SYS_OTPCNT_EPOCH = t.rf F.SYS_OTPCNT_EPOCH :=
    (regsBut_dumpRetain t).rf (by decide) (not_evrAddr_of_ge (by decide))
  simpa only [State.Fresh, dumpRetain_sys, dumpRetain_cry, dumpRetain_ode, dumpRetain_gtu, dumpRetain_flash,
    dumpRetain_byte, hbusy, hepoch] using h

/-- A warm reset before self-refresh. -/
def State.warmNoted (s : State) (cause : Nat) : State := s.resetNoted (keptWarm s.holdsDram) s.holdsDram true cause

theorem warmReset_eq (s : State) (cause : Nat) :
    s.warmReset cause = if s.holdsDram = true then (s.warmNoted cause).dumpRetain else s.warmNoted cause := rfl

theorem warmNoted_sys (s : State) (cause : Nat) :
    (s.warmNoted cause).sys.cold = false ∧ (s.warmNoted cause).sys.rlyOut = s.sys.rlyOut := ⟨rfl, rfl⟩

theorem keptWarm_kept : ∀ b : Bool, keptWarm b R.SYS_OTPCNT = true ∧ keptWarm b R.SYS_RSTCAUSE = true ∧
    keptWarm b R.CRY_ALMCNT = true := by decide

theorem aonScr_places : ∀ n : Fin 4, (∀ b, keptWarm b (R.SYS_AONSCR n) = true) ∧ R.SYS_AONSCR n ≠ R.SYS_RSTCAUSE ∧
    R.SYS_AONSCR n ≠ R.SYS_OTPCNT ∧ R.SYS_AONSCR n ≠ R.DRC_STAT ∧ R.SYS_AONSCR n ≠ R.DRC_DUMP := by decide

theorem keptWarm_drc : keptWarm true R.DRC_STAT = true ∧ keptWarm true R.DRC_DUMP = true := by decide

section

variable (s : State) (cause : Nat)

theorem reg_warmNoted_dropped {a : Nat} (ha : keptWarm s.holdsDram a = false) :
    (s.warmNoted cause).reg a = regDefault a := by
  obtain ⟨hotp, hcause, -⟩ := keptWarm_kept s.holdsDram
  obtain ⟨hne, hne'⟩ := reset_drops hcause hotp ha
  exact (reg_resetNoted s a hne hne').trans (if_neg (by rw [ha]; exact Bool.false_ne_true))

theorem reg_warmNoted_aonScr {n : Nat} (hn : n < 4) :
    (s.warmNoted cause).reg (R.SYS_AONSCR n) = s.reg (R.SYS_AONSCR n) := by
  obtain ⟨hkept, hne, hne', -⟩ := aonScr_places ⟨n, hn⟩
  exact (reg_resetNoted s _ hne hne').trans (if_pos (hkept _))

theorem reg_warmNoted_almcnt : (s.warmNoted cause).reg R.CRY_ALMCNT = s.reg R.CRY_ALMCNT := by
  obtain ⟨-, -, hkept⟩ := keptWarm_kept s.holdsDram
  exact (reg_resetNoted s _ (by decide) (by decide)).trans (if_pos hkept)

theorem causesNoted_warmNoted : s.CausesNoted cause (s.warmNoted cause) := causesNoted_resetNoted s

theorem fresh_warmNoted : s.Fresh (s.warmNoted cause) := by
  obtain ⟨hotp, -⟩ := keptWarm_kept s.holdsDram
  exact fresh_resetNoted s hotp

theorem mem_warmNoted (hholds : s.holdsDram = true) : (s.warmNoted cause).mem = s.mem :=
  (mem_resetNoted s).trans (if_pos hholds)

theorem byte_warmNoted_of_dram (hholds : s.holdsDram = false) {a : Nat} (ha : isDram a = true) :
    (s.warmNoted cause).byte a = 0 := by
  have hmem : (s.warmNoted cause).mem = s.mem.filter (fun c => !isDram c.1) :=
    (mem_resetNoted s).trans (if_neg (by rw [hholds]; exact Bool.false_ne_true))
  exact (byte_of_mem_filter hmem a).trans (if_pos ha)

theorem warmBy_warmNoted (hholds : s.holdsDram = false) : s.WarmBy cause (s.warmNoted cause) := by
  obtain ⟨hcold, hrelay⟩ := warmNoted_sys s cause
  exact ⟨causesNoted_warmNoted s cause, fresh_warmNoted s cause, hcold, hrelay, fun a => reg_warmNoted_dropped s cause,
    fun n => reg_warmNoted_aonScr s cause, reg_warmNoted_almcnt s cause,
    fun h => absurd (hholds.symm.trans h) Bool.false_ne_true, fun _ a => byte_warmNoted_of_dram s cause hholds⟩

theorem reg_dumpRetain_dropped (hholds : s.holdsDram = true) {a : Nat} (ha : keptWarm s.holdsDram a = false) :
    (s.warmNoted cause).dumpRetain.reg a = regDefault a := by
  obtain ⟨hstat, hdump⟩ := keptWarm_drc
  have hne : ∀ b, keptWarm true b = true → a ≠ b := by
    rintro b hb rfl
    exact Bool.false_ne_true ((hholds ▸ ha).symm.trans hb)
  rw [reg_dumpRetain _ (hne _ hstat) (hne _ hdump), reg_warmNoted_dropped s cause ha]

theorem reg_dumpRetain_aonScr {n : Nat} (hn : n < 4) :
    (s.warmNoted cause).dumpRetain.reg (R.SYS_AONSCR n) = s.reg (R.SYS_AONSCR n) := by
  obtain ⟨-, -, -, hne, hne'⟩ := aonScr_places ⟨n, hn⟩
  rw [reg_dumpRetain _ hne hne', reg_warmNoted_aonScr s cause hn]

theorem causesNoted_dumpRetain {t : State} (h : s.CausesNoted cause t) : s.CausesNoted cause t.dumpRetain :=
  (reg_dumpRetain t (by decide) (by decide)).trans h

theorem warmBy_dumpRetain (hholds : s.holdsDram = true) : s.WarmBy cause (s.warmNoted cause).dumpRetain := by
  obtain ⟨hcold, hrelay⟩ := warmNoted_sys s cause
  obtain ⟨hstate, hretained, hlock⟩ := dumpRetain_drc (s.warmNoted cause)
  have halm : (s.warmNoted cause).dumpRetain.reg R.CRY_ALMCNT = s.reg R.CRY_ALMCNT :=
    (reg_dumpRetain _ (by decide) (by decide)).trans (reg_warmNoted_almcnt s cause)
  have hmem : (s.warmNoted cause).dumpRetain.mem = s.mem :=
    (dumpRetain_mem _).trans (mem_warmNoted s cause hholds)
  rw [← dumpRetain_sys] at hcold hrelay
  exact ⟨causesNoted_dumpRetain s cause (causesNoted_warmNoted s cause), fresh_dumpRetain (fresh_warmNoted s cause), hcold,
    hrelay, fun a => reg_dumpRetain_dropped s cause hholds, fun n => reg_dumpRetain_aonScr s cause, halm,
    fun _ => ⟨hstate, hretained, hlock, hmem⟩, fun h => absurd (hholds.symm.trans h) Bool.false_ne_true.symm⟩

theorem warmBy_warmReset : s.WarmBy cause (s.warmReset cause) := by
  rw [warmReset_eq]
  split
  next hholds => exact warmBy_dumpRetain s cause hholds
  next hholds => exact warmBy_warmNoted s cause (Bool.not_eq_true _ ▸ hholds)

end

end Sys2Proof.Machine
end

section
/-! PROOFS. The reset commands, the watchdog and the release of a reset (O58). -/

namespace Sys2Proof.Machine

/-! ### Reset commands (R496) -/

/-- A command that SYS refuses leaves all but its status register. -/
theorem sysRefuse (s : State) : (s.refuse R.SYS_ERR St.RANGE 217).reg R.SYS_ERR = 0x102 ∧
    RegsBut [R.SYS_ERR] s (s.refuse R.SYS_ERR St.RANGE 217) ∧ (s.refuse R.SYS_ERR St.RANGE 217).sys = s.sys ∧
    SameBytes s (s.refuse R.SYS_ERR St.RANGE 217) :=
  ⟨(reg_refuse s _ _ _ _ (by decide) (not_evrAddr_of_ge (by decide))).trans (if_pos rfl),
    (refuse_records s (not_evrAddr_of_ge (by decide)) (by decide) (by decide)).2,
    Within.refuse (m := 17) (.refl s) ⟨rfl⟩ .sys rfl, sameBytes_of_mem (refuse_mem ..)⟩

theorem rstCmd_cold (s : State) : s.rstCmd 0x5253 2 = s.coldReset 3 := rfl

theorem rstCmd_warm (s : State) : s.rstCmd 0x5253 1 = s.warmReset (if s.rf F.ODE_STAT_STATE = 5 then 6 else 4) := rfl

theorem rstCmd_of_wrong_key (s : State) {key : Nat} (opc : Nat) (hkey : key ≠ 0x5253) :
    s.rstCmd key opc = s.refuse R.SYS_ERR St.RANGE 217 := if_pos (.inl hkey)

section

variable {s : State} {i : Init} (hmay : s.MayWrite i R.SYS_RSTCMD)
include hmay

theorem exec_coldResetCmd (key : BitVec 16) : exec (.coldResetCmd i key) s = .next (s.rstCmd key.toNat 2) :=
  congrArg Host.Outcome.next (onWrite_of_mayWrite s i _ _ hmay)

theorem exec_warmResetCmd (key : BitVec 16) : exec (.warmResetCmd i key) s = .next (s.rstCmd key.toNat 1) :=
  congrArg Host.Outcome.next (onWrite_of_mayWrite s i _ _ hmay)

theorem coldResetCmd_runs : Runs (.coldResetCmd i 0x5253) s (s.ColdBy 3) :=
  ⟨_, (exec_coldResetCmd hmay 0x5253).trans (congrArg Host.Outcome.next (rstCmd_cold s)), coldBy_coldReset s 3⟩

theorem warmResetCmd_runs :
    Runs (.warmResetCmd i 0x5253) s (s.WarmBy (if s.rf F.ODE_STAT_STATE = 5 then 6 else 4)) :=
  ⟨_, (exec_warmResetCmd hmay 0x5253).trans (congrArg Host.Outcome.next (rstCmd_warm s)), warmBy_warmReset s _⟩

theorem resetCmd_refused {key : BitVec 16} (hkey : key ≠ 0x5253) :
    ∀ c ∈ [Instr.coldResetCmd i key, .warmResetCmd i key], Runs c s fun t =>
      t.reg R.SYS_ERR = 0x102 ∧ RegsBut [R.SYS_ERR] s t ∧ t.sys = s.sys ∧ SameBytes s t := by
  have hnat : key.toNat ≠ 0x5253 := fun h => hkey (BitVec.eq_of_toNat_eq h)
  intro c hc
  rcases List.mem_cons.mp hc with rfl | hc
  · exact ⟨_, (exec_coldResetCmd hmay key).trans (congrArg Host.Outcome.next (rstCmd_of_wrong_key s 2 hnat)), sysRefuse s⟩
  · obtain rfl := List.mem_singleton.mp hc
    exact ⟨_, (exec_warmResetCmd hmay key).trans (congrArg Host.Outcome.next (rstCmd_of_wrong_key s 1 hnat)), sysRefuse s⟩

end

/-! ### Watchdog (R498) -/

/-- The register window of SYS and the row of the watchdog's control register (R526). -/
def sysWindow : Window := ⟨29, 0x407F0000, 0x407FFFFF, RegMap.sys⟩
def wdtRow : RegRow := RegMap.row 0x20 [] [RegMap.f 31 31 .w1s 0, RegMap.fr 15 0 .rw 0x1F40 100 60000]

theorem wdtRow_inRange (v : Word) :
    fieldsInRange wdtRow.fields v = decide (100 ≤ bits v 15 0 ∧ bits v 15 0 ≤ 60000) := by
  have hms : (RegMap.fr 15 0 .rw 0x1F40 100 60000).inRange v = decide (100 ≤ bits v 15 0 ∧ bits v 15 0 ≤ 60000) := by
    refine decide_eq_decide.mpr ?_
    show ((100 : Int) ≤ (bits v 15 0 : Nat) ∧ ((bits v 15 0 : Nat) : Int) ≤ 60000) ↔ _
    omega
  rw [← hms]
  exact (Bool.true_and _).trans (Bool.and_true _)

theorem writeReg_wdt (s : State) (i : Nat) (v : Word) :
    s.writeReg i R.SYS_WDT v = if 100 ≤ bits v 15 0 ∧ bits v 15 0 ≤ 60000 then
      s.setReg R.SYS_WDT (applyFields wdtRow.fields (s.reg R.SYS_WDT) v (s.reg R.SYS_WDT))
    else s.refuse R.SYS_ERR St.RANGE 217 := by
  have hrow : findRow sysWindow.rows (R.SYS_WDT - sysWindow.base) = some (wdtRow, []) := by decide
  have hkept : ∀ hi, absentField sysWindow.num (R.SYS_WDT - sysWindow.base) hi = false := fun hi => by
    simp [absentField, sysWindow]
  have hextra : s.extraOk sysWindow.num (R.SYS_WDT - sysWindow.base) v = true := rfl
  rw [(writeReg_of_plain (s := s) (i := i) (v := v) rfl hrow hkept (by decide)).2, hextra, Bool.and_true, wdtRow_inRange]
  simp only [decide_eq_true_eq]
  rfl

/-- A timeout in range is written, and EN once set stays (R498). -/
theorem wdt_fields (s : State) (v : Word) :
    let t := s.setReg R.SYS_WDT (applyFields wdtRow.fields (s.reg R.SYS_WDT) v (s.reg R.SYS_WDT))
    t.rb F.SYS_WDT_EN = (v.getLsbD 31 || s.rb F.SYS_WDT_EN) ∧ t.rf F.SYS_WDT_MS = bits v 15 0 := by
  have hwf : ∀ g ∈ wdtRow.fields, g.lo ≤ g.hi ∧ g.hi < 32 := by decide
  have hapart : wdtRow.fields.Pairwise RegField.Apart := by decide
  have hold : bits (s.reg R.SYS_WDT) 31 31 < 2 := Nat.mod_lt _ (by decide)
  have hnew : bits v 31 31 < 2 := Nat.mod_lt _ (by decide)
  have hms : bits v 15 0 < 2 ^ 16 := Nat.mod_lt _ (by decide)
  intro t
  have hfld : ∀ hi lo, t.rf ⟨R.SYS_WDT, hi, lo⟩ =
      bits (applyFields wdtRow.fields (s.reg R.SYS_WDT) v (s.reg R.SYS_WDT)) hi lo := fun hi lo => by
    rw [State.rf, reg_setReg_same]
  have hen : t.rf F.SYS_WDT_EN = (bits (s.reg R.SYS_WDT) 31 31 ||| bits v 31 31) % 2 :=
    (hfld ..).trans (bits_applyFields (f := RegMap.f 31 31 .w1s 0) (by decide) hwf hapart)
  refine ⟨?_, ?_⟩
  · have hwas : s.rb F.SYS_WDT_EN = (bits (s.reg R.SYS_WDT) 31 31 == 1) := rfl
    rw [State.rb, hen, hwas, ← bits_bit_eq_one v 31]
    generalize bits (s.reg R.SYS_WDT) 31 31 = x at hold ⊢
    generalize bits v 31 31 = y at hnew ⊢
    interval_cases x <;> interval_cases y <;> rfl
  · exact (hfld ..).trans ((bits_applyFields (f := RegMap.fr 15 0 .rw 0x1F40 100 60000) (by decide) hwf hapart).trans
      (Nat.mod_eq_of_lt hms))

section

variable {s : State} {i : Init} {v : Word}

theorem exec_wdtEnable (hmay : s.MayWrite i R.SYS_WDT) : exec (.wdtEnable i v) s = .next (s.wdtWrite i.val v) :=
  congrArg Host.Outcome.next (onWrite_of_mayWrite s i _ _ hmay)

/-- A write of the watchdog's register takes its timeout at once only while the watchdog is off. -/
theorem wdtWrite_eq : s.wdtWrite i.val v = if s.rb F.SYS_WDT_EN = true then s.writeReg i.val R.SYS_WDT v
    else (s.writeReg i.val R.SYS_WDT v).setSys
      (fun y => { y with wdtMs := (s.writeReg i.val R.SYS_WDT v).rf F.SYS_WDT_MS }) := rfl

theorem wdtEnable_runs (hmay : s.MayWrite i R.SYS_WDT) (hlow : 100 ≤ bits v 15 0) (hhigh : bits v 15 0 ≤ 60000) :
    Runs (.wdtEnable i v) s fun t =>
      t.sys.wdtMs = (if s.rb F.SYS_WDT_EN = true then s.sys.wdtMs else bits v 15 0) ∧
        t.rb F.SYS_WDT_EN = (v.getLsbD 31 || s.rb F.SYS_WDT_EN) ∧ t.rf F.SYS_WDT_MS = bits v 15 0 ∧
        RegsBut [R.SYS_WDT] s t ∧ SameBytes s t := by
  obtain ⟨hen, hms⟩ := wdt_fields s v
  have hwrite := (writeReg_wdt s i.val v).trans (if_pos ⟨hlow, hhigh⟩)
  have hregs : RegsBut [R.SYS_WDT] s (s.writeReg i.val R.SYS_WDT v) :=
    hwrite ▸ RegsBut.refl.setReg (List.mem_singleton_self _)
  have hmem : (s.writeReg i.val R.SYS_WDT v).mem = s.mem := by rw [hwrite]; rfl
  have hsys : (s.writeReg i.val R.SYS_WDT v).sys = s.sys := by rw [hwrite, setReg_sys]
  rw [← hwrite] at hen hms
  refine ⟨_, exec_wdtEnable hmay, ?_⟩
  rw [wdtWrite_eq]
  generalize s.writeReg i.val R.SYS_WDT v = u at *
  split
  · exact ⟨congrArg SysSt.wdtMs hsys, hen, hms, hregs, sameBytes_of_mem hmem⟩
  · exact ⟨hms, hen, hms, hregs, sameBytes_of_mem hmem⟩

theorem wdtEnable_refused (hmay : s.MayWrite i R.SYS_WDT) (hms : bits v 15 0 < 100 ∨ 60000 < bits v 15 0) :
    Runs (.wdtEnable i v) s fun t => t.reg R.SYS_ERR = 0x102 ∧ RegsBut [R.SYS_ERR] s t ∧ SameBytes s t := by
  have hwrite := (writeReg_wdt s i.val v).trans (if_neg (by omega))
  obtain ⟨herr, hregs, -, hbytes⟩ := sysRefuse s
  refine ⟨_, exec_wdtEnable hmay, ?_⟩
  rw [wdtWrite_eq, hwrite]
  generalize s.refuse R.SYS_ERR St.RANGE 217 = u at *
  split
  · exact ⟨herr, hregs, hbytes⟩
  · exact ⟨herr, hregs, hbytes⟩

theorem exec_wdtKick (hmay : s.MayWrite i R.SYS_WDT_KICK) : exec (.wdtKick i v) s = .next (s.wdtKick v) :=
  congrArg Host.Outcome.next (onWrite_of_mayWrite s i _ _ hmay)

theorem wdtKick_runs (hmay : s.MayWrite i R.SYS_WDT_KICK) (hv : v = 0xA5A5) : Runs (.wdtKick i v) s fun t =>
    t.sys = { s.sys with wdtMs := s.rf F.SYS_WDT_MS } ∧ t.regs = s.regs ∧ SameBytes s t :=
  ⟨_, (exec_wdtKick hmay).trans (congrArg Host.Outcome.next (if_pos hv)), rfl, rfl, fun _ => rfl⟩

theorem wdtKick_refused (hmay : s.MayWrite i R.SYS_WDT_KICK) (hv : v ≠ 0xA5A5) : Runs (.wdtKick i v) s fun t =>
    t.reg R.SYS_ERR = 0x102 ∧ RegsBut [R.SYS_ERR] s t ∧ t.sys = s.sys ∧ SameBytes s t :=
  ⟨_, (exec_wdtKick hmay).trans (congrArg Host.Outcome.next (if_neg hv)), sysRefuse s⟩

end

/-- An expiry resets a device whose watchdog runs, and does nothing else (R498). -/
theorem exec_watchdogExpiry (s : State) :
    exec .watchdogExpiry s = if s.rb F.SYS_WDT_EN = true then .next (s.warmReset 5) else .next s := rfl

/-! ### The release of a reset (R501) -/

theorem resetRelease_runs (s : State) (nc : Bool) :
    (s.sys.phase ≠ 0 → exec (.resetRelease nc) s = .next s) ∧
      (s.sys.phase = 0 → Runs (.resetRelease nc) s fun t =>
        t.sys = { s.sys with phase := 1, rlyNc := if s.sys.cold then nc else s.sys.rlyNc } ∧ t.regs = s.regs ∧
          SameBytes s t) :=
  ⟨fun h => if_pos h, fun h => ⟨_, if_neg (fun hne => hne h), rfl, rfl, fun _ => rfl⟩⟩

end Sys2Proof.Machine
end

section
/-! PROOFS. Start steps that pass, the boot ROM and recovery (O58). -/

namespace Sys2Proof.Machine

/-! ### Start steps that pass (R501, R505) -/

/-- Every start step that has passed in one state has passed in another. -/
def GainsSteps (s t : State) : Prop := ∀ j, s.step1 j = true → t.step1 j = true

theorem radios_gain {s t : State} (h : GainsSteps s t) : ∀ k ∈ [14, 15, 16, 18], s.ready k = true → t.ready k = true := by
  have hwifi : ∀ u : State, ∀ k ∈ [14, 15, 16], u.ready k = (u.step1 k && u.step1 2 && u.step1 4 && u.step1 0) := by
    intro u k hk
    simp only [List.mem_cons, List.not_mem_nil, or_false] at hk
    rcases hk with rfl | rfl | rfl <;> rfl
  have hfield : ∀ u : State, u.ready 18 = (u.step1 18 && u.step1 17 && u.step1 2 && u.step1 4 && u.step1 0) := fun _ => rfl
  intro k hk
  rcases List.mem_append.mp (show k ∈ [14, 15, 16] ++ [18] from hk) with hradio | hfmac
  · simp only [hwifi _ k hradio, Bool.and_eq_true]
    exact fun ⟨⟨⟨hown, hmem⟩, hcry⟩, hgtu⟩ => ⟨⟨⟨h _ hown, h _ hmem⟩, h _ hcry⟩, h _ hgtu⟩
  · obtain rfl := List.mem_singleton.mp hfmac
    simp only [hfield, Bool.and_eq_true]
    exact fun ⟨⟨⟨⟨hown, hrf⟩, hmem⟩, hcry⟩, hgtu⟩ => ⟨⟨⟨⟨h _ hown, h _ hrf⟩, h _ hmem⟩, h _ hcry⟩, h _ hgtu⟩

/-- The start-step register after a write of it. -/
theorem reg_stepok_setSteps (s : State) (n : Nat) : (s.setSteps n).reg R.SYS_STEPOK = BitVec.ofNat 32 n :=
  ((regsBut_setSteps_written s n).reg (by decide) (not_evrAddr_of_ge (by decide))).trans
    ((reg_setRegN ..).trans (if_pos rfl))

theorem gainsSteps_setSteps_or (s : State) (m : Nat) : GainsSteps s (s.setSteps (s.regN R.SYS_STEPOK ||| m)) := by
  intro j hj
  have hlt : j < 32 := by
    by_contra hge
    exact Bool.false_ne_true ((BitVec.getLsbD_of_ge _ _ (Nat.le_of_not_lt hge)).symm.trans hj)
  rw [State.step1, BitVec.getLsbD] at hj
  rw [State.step1, reg_stepok_setSteps, BitVec.getLsbD_ofNat, decide_eq_true hlt, Bool.true_and, Nat.testBit_or, State.regN, hj,
    Bool.true_or]

/-- When steps only pass, no radio is lost: Steppe's records alone follow (R194). -/
theorem stepsTo_of_gains {s : State} {n : Nat} (h : GainsSteps s (s.setSteps n)) :
    s.stepsTo n = if (s.ready 19 != (s.setSteps n).ready 19) = true then (s.setSteps n).keepAllLim else s.setSteps n := by
  have hlost : ∀ k ∈ [14, 15, 16, 18], ¬ (s.ready k && !(s.setSteps n).ready k) = true := fun k hk hkeep => by
    obtain ⟨hwas, hnot⟩ := Bool.and_eq_true_iff.mp hkeep
    rw [radios_gain h k hk hwas] at hnot
    exact absurd hnot Bool.false_ne_true
  have hl := hlost 14 (by decide)
  have hm := hlost 15 (by decide)
  have hh := hlost 16 (by decide)
  have hf := hlost 18 (by decide)
  unfold State.stepsTo
  dsimp only
  rw [if_neg hl, if_neg hm, if_neg hh, if_neg hf]

section

variable (s : State) (m : Nat)

/-- The state once more steps have passed. -/
def State.stepsPassed : State := s.stepsTo (s.regN R.SYS_STEPOK ||| m)

theorem stepsPassed_eq : s.stepsPassed m = if (s.ready 19 != (s.setSteps (s.regN R.SYS_STEPOK ||| m)).ready 19) = true then
    (s.setSteps (s.regN R.SYS_STEPOK ||| m)).keepAllLim else s.setSteps (s.regN R.SYS_STEPOK ||| m) :=
  stepsTo_of_gains (gainsSteps_setSteps_or s m)

theorem regsBut_stepsPassed :
    RegsBut readyRegs (s.setRegN R.SYS_STEPOK (s.regN R.SYS_STEPOK ||| m)) (s.stepsPassed m) := by
  rw [stepsPassed_eq]
  exact .ite (RegsBut.keepAllLim (regsBut_setSteps_written s _)) (regsBut_setSteps_written s _)

theorem regN_stepok_stepsPassed (hm : m < 2 ^ 32) :
    (s.stepsPassed m).regN R.SYS_STEPOK = s.regN R.SYS_STEPOK ||| m := by
  have hreg := (regsBut_stepsPassed s m).reg (a := R.SYS_STEPOK) (by decide) (not_evrAddr_of_ge (by decide))
  rw [State.regN, hreg, reg_setRegN, if_pos rfl, BitVec.toNat_ofNat]
  exact Nat.mod_eq_of_lt (Nat.or_lt_two_pow (s.reg R.SYS_STEPOK).isLt hm)

theorem sys_stepsPassed : (s.stepsPassed m).sys = s.sys := Within.stepsTo (m := 18707) (.refl s) ⟨rfl⟩ .sys rfl

theorem mem_stepsPassed (hrecs : s.stp.recs = []) : (s.stepsPassed m).mem = s.mem := by
  have hmem : ∀ n, (s.setSteps n).mem = s.mem := fun n => Within.setSteps (m := 17) (.refl s) ⟨rfl⟩ .mem rfl
  have hstp : ∀ n, (s.setSteps n).stp = s.stp := fun n => Within.setSteps (m := 17) (.refl s) ⟨rfl⟩ .stp rfl
  rw [stepsPassed_eq, keepAllLim_of_no_recs ((congrArg StpSt.recs (hstp _)).trans hrecs), ite_self, hmem]

end

/-! ### The verifier (R404) -/

section

variable (s : State) (g : Nat → Byte) (target : Nat)

theorem verifyHeader_lt : s.verifyHeader g target < 256 := by
  have hite : ∀ {c : Prop} [Decidable c] {a b : Nat}, a < 256 → b < 256 → (if c then a else b) < 256 :=
    fun ha hb => by split <;> assumption
  exact hite (by decide) (hite (by decide) (hite (by decide) (hite (by decide) (hite (by decide)
    (hite (by decide) (by decide))))))

/-- What the verifier leaves: it stores the payload and extends a measurement, and its status is a byte. -/
theorem verifyImage_keeps : RegsBut storeRegs s (s.verifyImage g target).1 ∧
    (s.verifyImage g target).1.sys = s.sys ∧ (s.verifyImage g target).1.xspi = s.xspi ∧
    (s.verifyImage g target).2 < 256 := by
  refine ⟨?_, Within.verifyImage (m := 3670035) (.refl s) ⟨rfl⟩ .sys rfl,
    Within.verifyImage (m := 3670035) (.refl s) ⟨rfl⟩ .xspi rfl, ?_⟩
  · unfold State.verifyImage
    dsimp only
    split
    · exact .refl
    · split
      · exact (regsBut_store s _ _ _).trans
          (.of_eq (Within.extendMr (m := 524288) (.refl _) ⟨rfl⟩ .regs rfl))
      · exact regsBut_store s _ _ _
  · unfold State.verifyImage
    dsimp only
    split
    · exact verifyHeader_lt s g target
    · split
      · exact (by decide : St.OK < 256)
      · exact (by decide : St.AUTH < 256)

end

theorem bootTry_keeps (s : State) (k : Nat) : RegsBut storeRegs s (s.bootTry k).1 ∧ (s.bootTry k).1.sys = s.sys ∧
    (s.bootTry k).1.xspi = s.xspi ∧ (s.bootTry k).2 < 256 := by
  unfold State.bootTry
  split
  · exact ⟨.refl, rfl, rfl, (by decide : St.TYPE < 256)⟩
  · exact verifyImage_keeps s _ 0

/-! ### The boot ROM (R502) -/

/-- The field of SYS_BOOTSTAT that records the outcome of a slot. -/
def slotFld (k : Nat) : Fld := if k = 0 then F.SYS_BOOTSTAT_SLOTA else F.SYS_BOOTSTAT_SLOTB

theorem bootNote_eq (s : State) (k status : Nat) : s.bootNote k status = s.wf (slotFld k) status := by
  unfold State.bootNote slotFld
  split <;> rfl

/-- One slot tried: the image verified, and the outcome recorded. -/
def State.slotTried (s : State) (k : Nat) : State := (s.bootTry k).1.bootNote k (s.bootTry k).2

section

variable (s : State) {k : Nat} (hk : k < 2)
include hk

theorem slotFld_places : (slotFld k).addr = R.SYS_BOOTSTAT ∧ (slotFld k).hi = (slotFld k).lo + 7 ∧ (slotFld k).hi < 32 ∧
    ((slotFld k).hi < (slotFld (1 - k)).lo ∨ (slotFld (1 - k)).hi < (slotFld k).lo) := by
  have hall : ∀ k : Fin 2, (slotFld k).addr = R.SYS_BOOTSTAT ∧ (slotFld k).hi = (slotFld k).lo + 7 ∧ (slotFld k).hi < 32 ∧
      ((slotFld k).hi < (slotFld (1 - k)).lo ∨ (slotFld (1 - k)).hi < (slotFld k).lo) := by decide
  exact hall ⟨k, hk⟩

theorem slotTried_keeps : RegsBut (R.SYS_BOOTSTAT :: storeRegs) s (s.slotTried k) ∧ (s.slotTried k).sys = s.sys ∧
    (s.slotTried k).xspi = s.xspi := by
  obtain ⟨hregs, hsys, hxspi, -⟩ := bootTry_keeps s k
  obtain ⟨haddr, -⟩ := slotFld_places hk
  rw [State.slotTried, bootNote_eq]
  exact ⟨(hregs.weaken (List.subset_cons_self _ _)).wf (by rw [haddr]; exact List.mem_cons_self), hsys, hxspi⟩

/-- The outcome of the slot stands in its field. -/
theorem slotTried_status : (s.slotTried k).rf (slotFld k) = (s.bootTry k).2 := by
  obtain ⟨-, -, -, hlt⟩ := bootTry_keeps s k
  obtain ⟨-, hwide, hhi, -⟩ := slotFld_places hk
  rw [State.slotTried, bootNote_eq, rf_wf_same _ _ _ (by omega) hhi, hwide, Nat.add_sub_cancel_left]
  exact Nat.mod_eq_of_lt hlt

/-- The outcome of the other slot stands when one is tried. -/
theorem slotTried_other : (s.slotTried k).rf (slotFld (1 - k)) = s.rf (slotFld (1 - k)) := by
  obtain ⟨hregs, -⟩ := bootTry_keeps s k
  obtain ⟨-, hwide, hhi, hapart⟩ := slotFld_places hk
  obtain ⟨haddr, hwide', -, -⟩ := slotFld_places (k := 1 - k) (by omega)
  have hbefore : (s.bootTry k).1.rf (slotFld (1 - k)) = s.rf (slotFld (1 - k)) :=
    hregs.rf (by rw [haddr]; decide) (by rw [haddr]; exact not_evrAddr_of_ge (by decide))
  rw [State.slotTried, bootNote_eq, rf_wf_apart _ _ ⟨hhi, by omega, by omega, .inr hapart⟩, hbefore]

end

theorem reg_mc5Runs (s : State) (src a : Nat) : (s.mc5Runs src).reg a = (s.wf F.SYS_BOOTSTAT_SRC src).reg a := rfl

theorem sys_mc5Runs (s : State) (src : Nat) : (s.mc5Runs src).sys = { s.sys with mc5 := true, recovery := false } := rfl

theorem mc5Runs_held (s : State) (src : Nat) : (s.mc5Runs src).xspi = s.xspi ∧ (s.mc5Runs src).mem = s.mem := ⟨rfl, rfl⟩

theorem rf_mc5Runs (s : State) (src : Nat) (f : Fld) : (s.mc5Runs src).rf f = (s.wf F.SYS_BOOTSTAT_SRC src).rf f :=
  congrArg (bits · f.hi f.lo) (reg_mc5Runs s src f.addr)

theorem regsBut_mc5Runs (s : State) (src : Nat) : RegsBut [R.SYS_BOOTSTAT] s (s.mc5Runs src) := fun a ha _ =>
  (reg_mc5Runs s src a).trans (reg_setReg_other _ _ fun h => ha (List.mem_singleton.mpr h))

theorem rf_src_mc5Runs (s : State) {src : Nat} (hsrc : src < 4) : (s.mc5Runs src).rf F.SYS_BOOTSTAT_SRC = src := by
  rw [rf_mc5Runs, rf_wf_same _ _ _ (by decide) (by decide)]
  exact Nat.mod_eq_of_lt hsrc

theorem rf_slot_mc5Runs (s : State) (src : Nat) {k : Nat} (hk : k < 2) :
    (s.mc5Runs src).rf (slotFld k) = s.rf (slotFld k) := by
  have hslot : ∀ k : Fin 2, F.SYS_BOOTSTAT_SRC.hi < 32 ∧ F.SYS_BOOTSTAT_SRC.lo ≤ F.SYS_BOOTSTAT_SRC.hi ∧
      (slotFld k).lo ≤ (slotFld k).hi ∧ ((slotFld k).addr ≠ F.SYS_BOOTSTAT_SRC.addr ∨
        F.SYS_BOOTSTAT_SRC.hi < (slotFld k).lo ∨ (slotFld k).hi < F.SYS_BOOTSTAT_SRC.lo) := by decide
  rw [rf_mc5Runs, rf_wf_apart _ _ (hslot ⟨k, hk⟩)]

end Sys2Proof.Machine
end

section
/-! PROOFS. The end of the SRAM clear, and an image that recovery serves (O58). -/

namespace Sys2Proof.Machine

/-! ### The outcome of the boot ROM (R502) -/

/-- MC5 runs the image of slot A or of slot B, or recovery is served and both outcomes are failures. -/
def BootEnds (s t : State) : Prop :=
  (t.sys = { s.sys with mc5 := true, recovery := false } ∧
    ((t.rf F.SYS_BOOTSTAT_SRC = 0 ∧ t.rf F.SYS_BOOTSTAT_SLOTA = 0) ∨
      (t.rf F.SYS_BOOTSTAT_SRC = 1 ∧ t.rf F.SYS_BOOTSTAT_SLOTB = 0))) ∨
  (t.sys = { s.sys with recovery := true } ∧ t.rf F.SYS_BOOTSTAT_SLOTA ≠ 0 ∧ t.rf F.SYS_BOOTSTAT_SLOTB ≠ 0)

/-- What the boot ROM leaves beside SYS and memory. -/
def RomKeeps (s t : State) : Prop := RegsBut (R.SYS_BOOTSTAT :: storeRegs) s t ∧ t.xspi = s.xspi

theorem RomKeeps.trans {s t u : State} (h : RomKeeps s t) (g : RomKeeps t u) : RomKeeps s u :=
  ⟨h.1.trans g.1, g.2.trans h.2⟩

theorem romKeeps_mc5Runs (s : State) (src : Nat) : RomKeeps s (s.mc5Runs src) :=
  ⟨(regsBut_mc5Runs s src).weaken (List.cons_subset_cons _ (List.nil_subset _)), (mc5Runs_held s src).1⟩

theorem recover_held (s : State) : s.recover.sys = { s.sys with recovery := true } ∧ s.recover.xspi = s.xspi ∧
    s.recover.mem = s.mem := ⟨rfl, rfl, rfl⟩

theorem reg_recover (s : State) (a : Nat) : s.recover.reg a = s.reg a := rfl

theorem rf_recover (s : State) (f : Fld) : s.recover.rf f = s.rf f := congrArg (bits · f.hi f.lo) (reg_recover s f.addr)

theorem romKeeps_recover (s : State) : RomKeeps s s.recover := ⟨fun a _ _ => reg_recover s a, (recover_held s).2.1⟩

theorem romKeeps_slotTried (s : State) {k : Nat} (hk : k < 2) : RomKeeps s (s.slotTried k) := by
  obtain ⟨hregs, -, hxspi⟩ := slotTried_keeps s hk
  exact ⟨hregs, hxspi⟩

/-- A slot whose image is verified runs. -/
theorem bootEnds_of_verified (s : State) {k : Nat} (hk : k < 2) (hok : (s.bootTry k).2 = St.OK) :
    BootEnds s ((s.slotTried k).mc5Runs k) := by
  obtain ⟨-, hsys, -⟩ := slotTried_keeps s hk
  have hslot : ((s.slotTried k).mc5Runs k).rf (slotFld k) = 0 :=
    (rf_slot_mc5Runs _ k hk).trans ((slotTried_status s hk).trans hok)
  have hsrc := rf_src_mc5Runs (s.slotTried k) (src := k) (by omega)
  refine .inl ⟨(sys_mc5Runs ..).trans (by rw [hsys]), ?_⟩
  rcases Nat.lt_succ_iff_lt_or_eq.mp hk with h0 | h1
  · obtain rfl := Nat.lt_one_iff.mp h0
    exact .inl ⟨hsrc, hslot⟩
  · subst h1
    exact .inr ⟨hsrc, hslot⟩

/-- The ROM tries one slot, then the other, then serves recovery. -/
def State.slotsTried (s : State) (k : Nat) : State :=
  if (s.bootTry k).2 = St.OK then (s.slotTried k).mc5Runs k
  else if ((s.slotTried k).bootTry (1 - k)).2 = St.OK then ((s.slotTried k).slotTried (1 - k)).mc5Runs (1 - k)
  else ((s.slotTried k).slotTried (1 - k)).recover

theorem slotsTried_ends (s : State) {k : Nat} (hk : k < 2) :
    BootEnds s (s.slotsTried k) ∧ RomKeeps s (s.slotsTried k) := by
  have hother : 1 - k < 2 := by omega
  have hfirst := romKeeps_slotTried s hk
  have hboth := hfirst.trans (romKeeps_slotTried (s.slotTried k) hother)
  obtain ⟨-, hsys, -⟩ := slotTried_keeps s hk
  obtain ⟨-, hsys', -⟩ := slotTried_keeps (s.slotTried k) hother
  unfold State.slotsTried
  split
  next hok => exact ⟨bootEnds_of_verified s hk hok, hfirst.trans (romKeeps_mc5Runs _ _)⟩
  next hbad =>
    split
    next hok =>
      refine ⟨?_, hboth.trans (romKeeps_mc5Runs _ _)⟩
      have hends := bootEnds_of_verified (s.slotTried k) hother hok
      rwa [BootEnds, hsys] at hends
    next hbad' =>
      refine ⟨.inr ⟨(recover_held _).1.trans (by rw [hsys', hsys]), ?_⟩, hboth.trans (romKeeps_recover _)⟩
      have hlast := (rf_recover _ _).trans (slotTried_status (s.slotTried k) hother)
      have hkept := slotTried_other (s.slotTried k) hother
      have hone : 1 - (1 - k) = k := by omega
      rw [hone] at hkept
      have hprev := (rf_recover _ _).trans (hkept.trans (slotTried_status s hk))
      rw [← hprev] at hbad
      rw [← hlast] at hbad'
      rcases Nat.lt_succ_iff_lt_or_eq.mp hk with h0 | h1
      · obtain rfl := Nat.lt_one_iff.mp h0
        exact ⟨hbad, hbad'⟩
      · subst h1
        exact ⟨hbad', hbad⟩

/-- The flash's size known, and no slot tried. -/
def State.romEntered (s : State) (size : Nat) : State :=
  (s.setXspi (fun x => { x with size := size })).setReg R.SYS_BOOTSTAT 0x00FFFF00

theorem reg_romEntered (s : State) (size : Nat) {a : Nat} (ha : a ≠ R.SYS_BOOTSTAT) : (s.romEntered size).reg a = s.reg a :=
  reg_setReg_other _ _ ha

theorem romEntered_held (s : State) (size : Nat) : (s.romEntered size).sys = s.sys ∧ (s.romEntered size).mem = s.mem ∧
    (s.romEntered size).xspi.size = size := ⟨rfl, rfl, rfl⟩

theorem lifecycle_romEntered (s : State) (size : Nat) : (s.romEntered size).lifecycle = s.lifecycle :=
  congrArg (bits · 7 0) (reg_romEntered s size (by decide))

/-- The active slot stands in one bit of the ledger (R512). -/
def State.activeSlot (s : State) : Nat := s.ledgerBits 2 31 31 0

theorem activeSlot_lt (s : State) : s.activeSlot < 2 := by
  unfold State.activeSlot State.ledgerBits
  split
  · decide
  · exact Nat.mod_lt _ (by decide)

/-- The state in which the ROM tries the slots. -/
def State.romTries (s : State) (size : Nat) : State :=
  (s.romEntered size).wb F.SYS_BOOTSTAT_LVALID (s.romEntered size).ledger.isSome

theorem bootRom_eq (s : State) (size : Nat) : s.bootRom size =
    if s.lifecycle = 0 then (s.romEntered size).recover
    else (s.romTries size).slotsTried (s.romTries size).activeSlot := by
  rw [← lifecycle_romEntered s size]
  rfl

section

variable (s : State) (size : Nat)

theorem wb_held (s : State) (f : Fld) (b : Bool) : (s.wb f b).sys = s.sys ∧ (s.wb f b).xspi = s.xspi ∧
    (s.wb f b).mem = s.mem := ⟨rfl, rfl, rfl⟩

theorem romTries_held : (s.romTries size).sys = s.sys ∧ (s.romTries size).xspi.size = size := by
  obtain ⟨hsys, -, hsize⟩ := romEntered_held s size
  obtain ⟨hsys', hxspi, -⟩ := wb_held (s.romEntered size) F.SYS_BOOTSTAT_LVALID (s.romEntered size).ledger.isSome
  exact ⟨hsys'.trans hsys, (congrArg XspiSt.size hxspi).trans hsize⟩

theorem regsBut_romEntered : RegsBut (R.SYS_BOOTSTAT :: storeRegs) s (s.romEntered size) := fun _ ha _ =>
  reg_romEntered s size fun h => ha (h ▸ List.mem_cons_self)

theorem regsBut_romTries : RegsBut (R.SYS_BOOTSTAT :: storeRegs) s (s.romTries size) :=
  (regsBut_romEntered s size).wb List.mem_cons_self

theorem regsBut_bootRom : RegsBut (R.SYS_BOOTSTAT :: storeRegs) s (s.bootRom size) ∧ (s.bootRom size).xspi.size = size := by
  obtain ⟨-, -, hsize⟩ := romEntered_held s size
  obtain ⟨-, hsize'⟩ := romTries_held s size
  obtain ⟨-, hregs, hxspi⟩ := slotsTried_ends (s.romTries size) (activeSlot_lt _)
  rw [bootRom_eq]
  split
  · obtain ⟨hregs, hxspi⟩ := romKeeps_recover (s.romEntered size)
    exact ⟨(regsBut_romEntered s size).trans hregs, (congrArg XspiSt.size hxspi).trans hsize⟩
  · exact ⟨(regsBut_romTries s size).trans hregs, (congrArg XspiSt.size hxspi).trans hsize'⟩

/-- A blank device serves recovery, and nothing in memory changes. -/
theorem bootRom_of_blank (hblank : s.lifecycle = 0) :
    (s.bootRom size).sys = { s.sys with recovery := true } ∧ (s.bootRom size).mem = s.mem := by
  obtain ⟨hsys, hmem, -⟩ := romEntered_held s size
  obtain ⟨hrec, -, hmem'⟩ := recover_held (s.romEntered size)
  rw [bootRom_eq, if_pos hblank]
  exact ⟨hrec.trans (by rw [hsys]), hmem'.trans hmem⟩

theorem bootRom_ends (hlife : s.lifecycle ≠ 0) : BootEnds s (s.bootRom size) := by
  obtain ⟨hsys, -⟩ := romTries_held s size
  obtain ⟨hends, -⟩ := slotsTried_ends (s.romTries size) (activeSlot_lt _)
  rw [bootRom_eq, if_neg hlife]
  rwa [BootEnds, hsys] at hends

end

/-! ### The end of the SRAM clear (R501) -/

/-- SRAM reads 0 after its clear. -/
theorem byte_clearSram_of_sram (s : State) {a : Nat} (ha : isDram a = false) : s.clearSram.byte a = 0 := by
  have hmem : s.clearSram.mem = s.mem.filter (fun c => !(fun k => !isDram k) c.1) := by
    simp only [Bool.not_not]
    rfl
  have hp : (fun k => !isDram k) a = true := Bool.not_eq_true' _ |>.mpr ha
  exact (byte_of_mem_filter (p := fun k => !isDram k) hmem a).trans (if_pos hp)

/-- SRAM is clear, and its start steps and those of CRY have passed. -/
def State.sramCleared (s : State) : State :=
  (s.clearSram.setSys (fun y => { y with phase := 3 })).stepsPassed (2 ^ 2 + 2 ^ 4)

/-- MC5 is released at the boot ROM, its watchdog enabled. -/
def State.romReleased (s : State) : State := s.sramCleared.wb F.SYS_WDT_EN true

theorem exec_sramClearDone (s : State) (size : Word) : exec (.sramClearDone size) s =
    if s.sys.phase ≠ 2 then .next s else .next (s.romReleased.bootRom size.toNat) := rfl

/-- SRAM clear and the phase advanced, before the start steps. -/
def State.sramZeroed (s : State) : State := s.clearSram.setSys (fun y => { y with phase := 3 })

theorem sramZeroed_held (s : State) : s.sramZeroed.sys = { s.sys with phase := 3 } ∧ s.sramZeroed.stp = s.stp ∧
    s.sramZeroed.mem = s.clearSram.mem ∧ (∀ a, s.sramZeroed.reg a = s.reg a) := ⟨rfl, rfl, rfl, fun _ => rfl⟩

theorem sramCleared_eq (s : State) : s.sramCleared = s.sramZeroed.stepsPassed 0x14 := rfl

section

variable (s : State)

theorem romReleased_held : s.romReleased.sys = { s.sys with phase := 3 } ∧
    s.romReleased.regN R.SYS_STEPOK = s.regN R.SYS_STEPOK ||| 0x14 ∧ s.romReleased.rb F.SYS_WDT_EN = true ∧
    s.romReleased.lifecycle = s.lifecycle ∧
    (s.stp.recs = [] → ∀ a, isDram a = false → s.romReleased.byte a = 0) := by
  obtain ⟨hsys, hstp, hmem, hreg⟩ := sramZeroed_held s
  have hok := regN_stepok_stepsPassed s.sramZeroed 0x14 (by decide)
  have hpassed := regsBut_stepsPassed s.sramZeroed 0x14
  have hsysp := sys_stepsPassed s.sramZeroed 0x14
  have hmemp := mem_stepsPassed s.sramZeroed 0x14
  rw [← sramCleared_eq] at hok hpassed hsysp hmemp
  have hotp : s.sramCleared.reg (R.PKE_OTP 0) = s.reg (R.PKE_OTP 0) :=
    (hpassed.reg (by decide) (not_evrAddr_of_ge (by decide))).trans
      ((reg_setRegN ..).trans ((if_neg (by decide)).trans (hreg _)))
  have hwb : ∀ a, a ≠ R.SYS_WDT → s.romReleased.reg a = s.sramCleared.reg a := fun a ha => reg_setReg_other _ _ ha
  have hsteps : s.sramZeroed.regN R.SYS_STEPOK = s.regN R.SYS_STEPOK := congrArg BitVec.toNat (hreg _)
  refine ⟨hsysp.trans hsys, ?_, rb_wb_same _ _ rfl (by decide), ?_, fun hrecs a ha => ?_⟩
  · rw [State.regN, hwb _ (by decide), ← State.regN, hok, hsteps]
  · rw [State.lifecycle, hwb _ (by decide), hotp, State.lifecycle]
  · have hbytes : s.romReleased.mem = s.clearSram.mem :=
      (wf_mem ..).trans ((hmemp ((congrArg StpSt.recs hstp).trans hrecs)).trans hmem)
    exact (sameBytes_of_mem hbytes a).trans (byte_clearSram_of_sram s ha)

theorem sramClearDone_runs (size : Word) (hphase : s.sys.phase = 2) : Runs (.sramClearDone size) s fun t =>
    t.sys.phase = 3 ∧ t.regN R.SYS_STEPOK = s.regN R.SYS_STEPOK ||| 0x14 ∧ t.rb F.SYS_WDT_EN = true ∧
      t.xspi.size = size.toNat ∧
      (s.lifecycle = 0 → t.sys.recovery = true ∧ t.sys.mc5 = s.sys.mc5 ∧
        (s.stp.recs = [] → ∀ a, isDram a = false → t.byte a = 0)) ∧
      (s.lifecycle ≠ 0 →
        (t.sys.mc5 = true ∧ t.sys.recovery = false ∧ ((t.rf F.SYS_BOOTSTAT_SRC = 0 ∧ t.rf F.SYS_BOOTSTAT_SLOTA = 0) ∨
          (t.rf F.SYS_BOOTSTAT_SRC = 1 ∧ t.rf F.SYS_BOOTSTAT_SLOTB = 0))) ∨
        (t.sys.mc5 = s.sys.mc5 ∧ t.sys.recovery = true ∧ t.rf F.SYS_BOOTSTAT_SLOTA ≠ 0 ∧ t.rf F.SYS_BOOTSTAT_SLOTB ≠ 0)) := by
  obtain ⟨hsys, hok, hwdt, hlife, hbytes⟩ := romReleased_held s
  have hexec := (exec_sramClearDone s size).trans (if_neg (fun h => h hphase))
  generalize s.romReleased = u at *
  obtain ⟨hregs, hsize⟩ := regsBut_bootRom u size.toNat
  have hstep : (u.bootRom size.toNat).regN R.SYS_STEPOK = u.regN R.SYS_STEPOK :=
    congrArg BitVec.toNat (hregs.reg (by decide) (not_evrAddr_of_ge (by decide)))
  have hen : (u.bootRom size.toNat).rb F.SYS_WDT_EN = u.rb F.SYS_WDT_EN :=
    hregs.rb (by decide) (not_evrAddr_of_ge (by decide))
  have hblank := bootRom_of_blank u size.toNat
  have hends := bootRom_ends u size.toNat
  rw [hlife, hsys] at hblank
  rw [hlife, BootEnds, hsys] at hends
  refine ⟨_, hexec, ?_⟩
  generalize u.bootRom size.toNat = t at *
  by_cases hzero : s.lifecycle = 0
  · obtain ⟨hsyst, hmem⟩ := hblank hzero
    exact ⟨congrArg SysSt.phase hsyst, hstep.trans hok, hen.trans hwdt, hsize,
      fun _ => ⟨congrArg SysSt.recovery hsyst, by rw [hsyst],
        fun hrecs a ha => (sameBytes_of_mem hmem a).trans (hbytes hrecs a ha)⟩, fun h => absurd hzero h⟩
  · rcases hends hzero with ⟨hsyst, hslot⟩ | ⟨hsyst, hslots⟩
    · exact ⟨congrArg SysSt.phase hsyst, hstep.trans hok, hen.trans hwdt, hsize, fun h => absurd h hzero,
        fun _ => .inl ⟨congrArg SysSt.mc5 hsyst, congrArg SysSt.recovery hsyst, hslot⟩⟩
    · exact ⟨congrArg SysSt.phase hsyst, hstep.trans hok, hen.trans hwdt, hsize, fun h => absurd h hzero,
        fun _ => .inr ⟨by rw [hsyst], congrArg SysSt.recovery hsyst, hslots⟩⟩

end

/-! ### A valid reference (R501) -/

theorem refValid_runs (s : State) (hphase : s.sys.phase = 1) : Runs .refValid s fun t =>
    t.sys = { s.sys with phase := 2 } ∧ t.regN R.SYS_STEPOK = s.regN R.SYS_STEPOK ||| 3 := by
  have hexec : exec .refValid s = .next ((s.setSys (fun y => { y with phase := 2 })).stepsPassed 3) :=
    if_neg (fun h => h hphase)
  have hreg : (s.setSys (fun y => { y with phase := 2 })).regN R.SYS_STEPOK = s.regN R.SYS_STEPOK := rfl
  have hsys : (s.setSys (fun y => { y with phase := 2 })).sys = { s.sys with phase := 2 } := rfl
  generalize s.setSys (fun y => { y with phase := 2 }) = u at *
  exact ⟨_, hexec, (sys_stepsPassed u 3).trans hsys, (regN_stepok_stepsPassed u 3 (by decide)).trans (by rw [hreg])⟩

/-! ### Recovery (R503) -/

section

variable {s : State} {d : List Byte}

/-- The image of a recovery frame is verified. -/
def State.recovered (s : State) (d : List Byte) : State × Nat := s.verifyImage (fun o => d.getD (4 + o) 0) 0

theorem exec_recoveryImage (s : State) (d : List Byte) : exec (.recoveryImage d) s =
    if (!s.sys.recovery) = true then .next s
    else if d.length ≠ bytesNat (d.take 4) + 8 ∨
        d.drop (4 + bytesNat (d.take 4)) ≠ natBytes 4 (crc32c (d.take (4 + bytesNat (d.take 4)))) then
      .next (s.setSys (fun y => { y with refused := true }))
    else if (s.recovered d).2 = St.OK then .next (((s.recovered d).1.setSys (fun y => { y with refused := false })).mc5Runs 2)
    else .next ((s.recovered d).1.setSys (fun y => { y with refused := true })) := rfl

theorem setSys_refused (s : State) (b : Bool) : (s.setSys (fun y => { y with refused := b })).sys = { s.sys with refused := b } ∧
    (s.setSys (fun y => { y with refused := b })).regs = s.regs ∧
    (s.setSys (fun y => { y with refused := b })).mem = s.mem := ⟨rfl, rfl, rfl⟩

/-- A frame whose length or check fails is refused. -/
theorem recoveryImage_bad (hrec : s.sys.recovery = true)
    (hbad : ¬ (d.length = bytesNat (d.take 4) + 8 ∧
      d.drop (4 + bytesNat (d.take 4)) = natBytes 4 (crc32c (d.take (4 + bytesNat (d.take 4)))))) :
    Runs (.recoveryImage d) s fun t => t.sys = { s.sys with refused := true } ∧ t.regs = s.regs ∧ SameBytes s t := by
  obtain ⟨hsys, hregs, hmem⟩ := setSys_refused s true
  rw [not_and_or] at hbad
  exact ⟨_, (exec_recoveryImage s d).trans ((if_neg (by rw [hrec]; decide)).trans (if_pos hbad)), hsys, hregs,
    sameBytes_of_mem hmem⟩

section

variable (hrec : s.sys.recovery = true) (hgood : d.length = bytesNat (d.take 4) + 8 ∧
      d.drop (4 + bytesNat (d.take 4)) = natBytes 4 (crc32c (d.take (4 + bytesNat (d.take 4)))))
include hrec hgood

theorem exec_recoveryImage_good : exec (.recoveryImage d) s =
    if (s.recovered d).2 = St.OK then .next (((s.recovered d).1.setSys (fun y => { y with refused := false })).mc5Runs 2)
    else .next ((s.recovered d).1.setSys (fun y => { y with refused := true })) := by
  obtain ⟨hlen, hcrc⟩ := hgood
  exact (exec_recoveryImage s d).trans ((if_neg (by rw [hrec]; decide)).trans
    (if_neg (not_or.mpr ⟨not_not.mpr hlen, not_not.mpr hcrc⟩)))

theorem recoveryImage_runs (hok : (s.recovered d).2 = St.OK) : Runs (.recoveryImage d) s fun t =>
    t.sys.mc5 = true ∧ t.sys.recovery = false ∧ t.rf F.SYS_BOOTSTAT_SRC = 2 ∧ t.mem = (s.recovered d).1.mem := by
  obtain ⟨-, -, hmem⟩ := setSys_refused (s.recovered d).1 false
  have hsys := sys_mc5Runs ((s.recovered d).1.setSys (fun y => { y with refused := false })) 2
  have hsrc := rf_src_mc5Runs ((s.recovered d).1.setSys (fun y => { y with refused := false })) (src := 2) (by decide)
  obtain ⟨-, hmem'⟩ := mc5Runs_held ((s.recovered d).1.setSys (fun y => { y with refused := false })) 2
  exact ⟨_, (exec_recoveryImage_good hrec hgood).trans (if_pos hok), congrArg SysSt.mc5 hsys, congrArg SysSt.recovery hsys,
    hsrc, hmem'.trans hmem⟩

theorem recoveryImage_refused (hbad : (s.recovered d).2 ≠ St.OK) : Runs (.recoveryImage d) s fun t =>
    t.sys = { s.sys with refused := true } ∧ t.mem = (s.recovered d).1.mem := by
  obtain ⟨hsys, -, hmem⟩ := setSys_refused (s.recovered d).1 true
  obtain ⟨-, hkept, -⟩ := verifyImage_keeps s (fun o => d.getD (4 + o) 0) 0
  exact ⟨_, (exec_recoveryImage_good hrec hgood).trans (if_neg hbad), hsys.trans (congrArg (fun y => { y with refused := true }) hkept),
    hmem⟩

end

end

end Sys2Proof.Machine
end

section
/-! PROOFS. The end of BOOT, and the obligation on resets and the start (O58). -/

namespace Sys2Proof.Machine

/-! ### Marks of late functions (R508, R509) -/

theorem bit_iff_testBit (n k : Nat) : n / 2 ^ k % 2 = 1 ↔ n.testBit k = true := by
  rw [Nat.testBit_eq_decide_div_mod_eq, decide_eq_true_eq]

/-- A mark set is read back, and the others stand. -/
theorem limited_limit (s : State) {j k : Nat} (hj : j < 32) (hk : k < 32) (h : j = k ∨ s.sys.limited / 2 ^ j % 2 = 1) :
    (s.limit k true).sys.limited / 2 ^ j % 2 = 1 := by
  have hlim : (s.limit k true).sys.limited = (setBits (BitVec.ofNat 32 s.sys.limited) k k 1).toNat := rfl
  rw [hlim, bit_iff_testBit]
  show (setBits (BitVec.ofNat 32 s.sys.limited) k k 1).getLsbD j = true
  rw [getLsbD_setBits _ _ (Nat.le_refl k) hj]
  by_cases hjk : j = k
  · subst hjk
    rw [if_pos ⟨Nat.le_refl j, Nat.le_refl j⟩, Nat.sub_self]
    rfl
  · rw [if_neg (by omega), BitVec.getLsbD_ofNat, decide_eq_true hj, Bool.true_and, ← bit_iff_testBit]
    exact h.resolve_left hjk

theorem limited_limits {j : Nat} (hj : j < 32) : ∀ {ks : List Nat} {s : State}, (∀ k ∈ ks, k < 32) →
    j ∈ ks ∨ s.sys.limited / 2 ^ j % 2 = 1 → (ks.foldl (fun s k => s.limit k true) s).sys.limited / 2 ^ j % 2 = 1
  | [], _, _, h => h.resolve_left List.not_mem_nil
  | k :: ks, s, hks, h => by
    rw [List.foldl_cons]
    refine limited_limits hj (fun x hx => hks x (List.mem_cons_of_mem _ hx)) ?_
    rcases h with hmem | hset
    · rcases List.mem_cons.mp hmem with heq | htail
      · exact .inr (limited_limit s hj (hks k List.mem_cons_self) (.inl heq))
      · exact .inl htail
    · exact .inr (limited_limit s hj (hks k List.mem_cons_self) (.inr hset))

theorem limits_held (ks : List Nat) (s : State) : (ks.foldl (fun s k => s.limit k true) s).regs = s.regs ∧
    (ks.foldl (fun s k => s.limit k true) s).mem = s.mem := by
  induction ks generalizing s with
  | nil => exact ⟨rfl, rfl⟩
  | cons k ks ih => exact ih (s.limit k true)

/-! ### The ledger that MC5 writes (R512) -/

/-- The registers that a write of the ledger counts in. -/
def ledgerRegs : List Nat := [R.SYS_OTPCNT, R.XSPI_CNT_OPS]

theorem regsBut_flashOps {s t : State} (h : RegsBut ledgerRegs s t) (n : Nat) : RegsBut ledgerRegs s (t.flashOps n) :=
  h.setReg (by decide)

theorem regsBut_flash {l : List Nat} {s t u : State} (h : RegsBut l s t) (hu : Within 67108864 t u) : RegsBut l s u :=
  h.trans (.of_eq (hu .regs rfl))

theorem regsBut_ledgerPut (s : State) (data : List Nat) : RegsBut ledgerRegs s (s.ledgerPut data) := by
  have herase : ∀ a n, RegsBut ledgerRegs s (s.flashErase a n) := fun a n => regsBut_flash .refl (.flashErase (.refl s))
  unfold State.ledgerPut
  dsimp only
  split
  · exact regsBut_flash (regsBut_flashOps (herase _ _) 4) (.pairWrite (.refl _))
  · split
    · exact regsBut_flash (regsBut_flashOps .refl 2) (.pairWrite (.refl _))
    · exact regsBut_flash (regsBut_flashOps (herase _ _) 4) (.pairWrite (.refl _))

theorem regsBut_ledgerAfterFuse (s : State) (data : List Nat) : RegsBut ledgerRegs s (s.ledgerAfterFuse data) := by
  have hwf : ∀ n, RegsBut ledgerRegs s (s.wf F.SYS_OTPCNT_EPOCH n) := fun n => RegsBut.refl.wf List.mem_cons_self
  unfold State.ledgerAfterFuse
  extract_lets c
  refine RegsBut.trans ?_ (regsBut_ledgerPut _ data)
  split
  · exact hwf _
  · exact .refl

/-- What a write of the ledger leaves. -/
theorem ledgerAfterFuse_keeps (s : State) (data : List Nat) : (s.ledgerAfterFuse data).sys = s.sys ∧
    (s.ledgerAfterFuse data).mem = s.mem ∧ (s.ledgerAfterFuse data).dev = s.dev :=
  ⟨Within.ledgerAfterFuse (m := 67108865) (.refl s) ⟨rfl⟩ .sys rfl,
    Within.ledgerAfterFuse (m := 67108865) (.refl s) ⟨rfl⟩ .mem rfl,
    (regsBut_ledgerAfterFuse s data).rf (by decide) (not_evrAddr_of_ge (by decide))⟩

/-! ### Device states (R449) -/

theorem opTarget_cases (s : State) : s.opTarget = Dev.OPERATIONAL ∨ s.opTarget = Dev.LIMITED := by
  unfold State.opTarget
  dsimp only
  split
  · exact .inl rfl
  · exact .inr rfl

/-- A device state of the table is entered. -/
theorem dev_setDev (s : State) {k : Nat} (hk : k < 8) : (s.setDev k).dev = k := by
  unfold State.setDev
  split
  next h => exact h
  next =>
    have hraise : ∀ u : State, (u.raise 195).dev = u.dev := fun u => rf_raise u 195 F.ODE_STAT_STATE (by decide) (not_evrAddr_of_ge (by decide))
    have hode : ∀ (u : State) (f : OdeSt → OdeSt), (u.setOde f).dev = u.dev := fun _ _ => rfl
    rw [hraise, hode, State.dev, rf_wf_same _ _ _ (by decide) (by decide)]
    exact Nat.mod_eq_of_lt hk

theorem setDev_held (s : State) (k : Nat) : (s.setDev k).sys = s.sys ∧ (s.setDev k).mem = s.mem ∧
    (s.setDev k).flash = s.flash :=
  ⟨Within.setDev (m := 4194321) (.refl s) ⟨rfl⟩ .sys rfl, Within.setDev (m := 4194321) (.refl s) ⟨rfl⟩ .mem rfl,
    Within.setDev (m := 4194321) (.refl s) ⟨rfl⟩ .flash rfl⟩

/-! ### BOOT_TIMEOUT (R509) -/

/-- The ledger with the steps of the late functions. -/
def State.lateLedger (s : State) : List Nat :=
  (s.stillRuns.filterMap stepOfFn).eraseDups.foldl (fun d k => ledgerStep d k St.LATE) s.ledgerNow

/-- The ledger of late steps written, if there are any. -/
def State.lateNoted (s : State) : State := if s.stillRuns.isEmpty = true then s else s.ledgerAfterFuse s.lateLedger

/-- The late functions marked LIMITED. -/
def State.lateLimited (s : State) : State := s.stillRuns.foldl (fun s k => s.limit k true) s.lateNoted

/-- The ledger of a boot that did not reach the dictionary. -/
def State.stuckLedger (s : State) (journal : Bool) (status : Option Byte) : List Nat :=
  ledgerStep s.ledgerNow (if journal then 6 else 5) ((status.map (fun x => x.toNat)).getD St.LATE)

theorem exec_bootTimeout (journal : Bool) (status : Option Byte) (s : State) : exec (.bootTimeout journal status) s =
    if (!s.sys.mc5 || s.dev != Dev.BOOT) = true then .next s
    else if s.ready Fn.DICT = true then .next (s.lateLimited.setDev s.lateLimited.opTarget)
    else if failRun (s.stuckLedger journal status) (if journal then 6 else 5) < 3 then
      .next ((s.ledgerAfterFuse (s.stuckLedger journal status)).warmReset 4)
    else .next (s.ledgerAfterFuse (s.stuckLedger journal status)) := rfl

theorem stillRuns_lt (s : State) : ∀ k ∈ s.stillRuns, k < 32 := fun k hk => by
  have hrange := List.mem_range.mp (List.mem_filter.mp hk).1
  omega

theorem lateLimited_mem (s : State) : s.lateLimited.mem = s.mem := by
  have hnoted : s.lateNoted.mem = s.mem := by
    unfold State.lateNoted
    split
    · rfl
    · exact (ledgerAfterFuse_keeps s _).2.1
  exact (limits_held _ _).2.trans hnoted

section

variable {s : State} (journal : Bool) (status : Option Byte)

theorem bootTimeout_idle (h : s.sys.mc5 = false ∨ s.dev ≠ Dev.BOOT) : exec (.bootTimeout journal status) s = .next s :=
  (exec_bootTimeout journal status s).trans (if_pos (by
    rcases h with hmc5 | hdev
    · rw [hmc5]
      rfl
    · rw [bne_iff_ne.mpr hdev, Bool.or_true]))

variable (hmc5 : s.sys.mc5 = true) (hdev : s.dev = Dev.BOOT)
include hmc5 hdev

theorem exec_bootTimeout_boot : exec (.bootTimeout journal status) s =
    if s.ready Fn.DICT = true then .next (s.lateLimited.setDev s.lateLimited.opTarget)
    else if failRun (s.stuckLedger journal status) (if journal then 6 else 5) < 3 then
      .next ((s.ledgerAfterFuse (s.stuckLedger journal status)).warmReset 4)
    else .next (s.ledgerAfterFuse (s.stuckLedger journal status)) :=
  (exec_bootTimeout journal status s).trans (if_neg (by rw [hmc5, hdev]; decide))

/-- With the dictionary ready BOOT ends, and the late functions are LIMITED. -/
theorem bootTimeout_ready (hready : s.ready Fn.DICT = true) : Runs (.bootTimeout journal status) s fun t =>
    (t.dev = Dev.OPERATIONAL ∨ t.dev = Dev.LIMITED) ∧ (s.stillRuns = [] → t.dev = s.opTarget ∧ t.flash = s.flash) ∧
      (∀ k ∈ s.stillRuns, t.sys.limited / 2 ^ k % 2 = 1) ∧ SameBytes s t := by
  have hcases := opTarget_cases s.lateLimited
  have hsmall : s.lateLimited.opTarget < 8 := by rcases hcases with h | h <;> rw [h] <;> decide
  have hentered := dev_setDev s.lateLimited hsmall
  obtain ⟨hsys, hmem, -⟩ := setDev_held s.lateLimited s.lateLimited.opTarget
  refine ⟨_, (exec_bootTimeout_boot journal status hmc5 hdev).trans (if_pos hready), ?_, fun hnone => ?_, fun k hk => ?_,
    sameBytes_of_mem (hmem.trans (lateLimited_mem s))⟩
  · rw [hentered]
    exact hcases
  · have hsame : s.lateLimited = s := by rw [State.lateLimited, State.lateNoted, hnone, List.foldl_nil]; rfl
    rw [hsame] at hentered ⊢
    exact ⟨hentered, (setDev_held s s.opTarget).2.2⟩
  · rw [hsys]
    exact limited_limits (stillRuns_lt s k hk) (stillRuns_lt s) (.inl hk)

variable (hready : s.ready Fn.DICT = false)
include hready

theorem exec_bootTimeout_stuck : exec (.bootTimeout journal status) s =
    if failRun (s.stuckLedger journal status) (if journal then 6 else 5) < 3 then
      .next ((s.ledgerAfterFuse (s.stuckLedger journal status)).warmReset 4)
    else .next (s.ledgerAfterFuse (s.stuckLedger journal status)) :=
  (exec_bootTimeout_boot journal status hmc5 hdev).trans (if_neg (by rw [hready]; exact Bool.false_ne_true))

/-- A third failure leaves the device in BOOT. -/
theorem bootTimeout_stays (hthird : 3 ≤ failRun (s.stuckLedger journal status) (if journal then 6 else 5)) :
    Runs (.bootTimeout journal status) s fun t => t.sys = s.sys ∧ t.dev = Dev.BOOT ∧ SameBytes s t := by
  obtain ⟨hsys, hmem, hdev'⟩ := ledgerAfterFuse_keeps s (s.stuckLedger journal status)
  exact ⟨_, (exec_bootTimeout_stuck journal status hmc5 hdev hready).trans (if_neg (Nat.not_lt.mpr hthird)), hsys,
    hdev'.trans hdev, sameBytes_of_mem hmem⟩

end

/-- A warm reset leaves the device in BOOT, and names its cause. -/
theorem warmBy_boot {s t : State} {cause : Nat} (hcause : cause < 256) (h : s.WarmBy cause t) :
    t.sys.phase = 0 ∧ t.rf F.SYS_RSTCAUSE_THIS = cause ∧ t.dev = Dev.BOOT := by
  obtain ⟨hnoted, ⟨hphase, -⟩, -, -, hdropped, -⟩ := h
  have hlost : ∀ b, keptWarm b R.ODE_STAT = false := by decide
  have hold : s.rf F.SYS_RSTCAUSE_THIS < 2 ^ 8 := Nat.mod_lt _ (by decide)
  refine ⟨hphase, ?_, ?_⟩
  · have hprev : (if cause = 1 then 0 else s.rf F.SYS_RSTCAUSE_THIS) < 2 ^ 8 := by
      split
      · decide
      · exact hold
    generalize hp : (if cause = 1 then 0 else s.rf F.SYS_RSTCAUSE_THIS) = prev at hprev
    rw [State.CausesNoted, hp] at hnoted
    show bits (t.reg R.SYS_RSTCAUSE) 31 24 = cause
    rw [hnoted, bits, BitVec.toNat_ofNat]
    norm_num at hprev ⊢
    omega
  · show bits (t.reg R.ODE_STAT) F.ODE_STAT_STATE.hi F.ODE_STAT_STATE.lo = Dev.BOOT
    rw [hdropped _ (hlost _)]
    decide

theorem bootTimeout_resets {s : State} (journal : Bool) (status : Option Byte) (hmc5 : s.sys.mc5 = true)
    (hdev : s.dev = Dev.BOOT) (hready : s.ready Fn.DICT = false)
    (hfew : failRun (s.stuckLedger journal status) (if journal then 6 else 5) < 3) :
    Runs (.bootTimeout journal status) s fun t => t.sys.phase = 0 ∧ t.rf F.SYS_RSTCAUSE_THIS = 4 ∧ t.dev = Dev.BOOT :=
  ⟨_, (exec_bootTimeout_stuck journal status hmc5 hdev hready).trans (if_pos hfew),
    warmBy_boot (by decide) (warmBy_warmReset _ 4)⟩

/-! ### The obligation -/

/-- Settles O58, clause by clause: the resets by `coldBy_coldReset` and `warmBy_warmReset`; a start step that passes loses no
radio, since readiness only grows (`stepsTo_of_gains`); the boot ROM tries the active slot, the other, and recovery
(`slotsTried_ends`); the late functions are marked one by one (`limited_limits`). -/
theorem resetsAndStart : Obligations.ResetsAndStart := by
  unfold Obligations.ResetsAndStart
  intro s i causes fresh cold holds warm
  refine ⟨⟨_, rfl, coldBy_coldReset s 1⟩, ⟨_, rfl, coldBy_coldReset s 2⟩, fun key hmay => ⟨?_, resetCmd_refused hmay⟩,
    fun hen => ⟨_, (exec_watchdogExpiry s).trans (if_pos hen), warmBy_warmReset s 5⟩,
    fun hoff => (exec_watchdogExpiry s).trans (if_neg (by rw [hoff]; exact Bool.false_ne_true)),
    fun v hmay => ⟨wdtEnable_runs hmay, wdtEnable_refused hmay⟩, fun v hmay => ⟨wdtKick_runs hmay, wdtKick_refused hmay⟩,
    resetRelease_runs s, fun hphase => if_pos hphase, refValid_runs s,
    fun size => ⟨fun hphase => (exec_sramClearDone s size).trans (if_pos hphase), sramClearDone_runs s size⟩, fun d => ?_,
    fun journal status => ⟨bootTimeout_idle journal status, fun hmc5 hdev => ⟨bootTimeout_ready journal status hmc5 hdev,
      bootTimeout_resets journal status hmc5 hdev, bootTimeout_stays journal status hmc5 hdev⟩⟩⟩
  · rintro rfl
    exact ⟨coldResetCmd_runs hmay, warmResetCmd_runs hmay⟩
  · exact ⟨fun hrec => (exec_recoveryImage s d).trans (if_pos (by rw [hrec]; rfl)), recoveryImage_bad, recoveryImage_runs,
      recoveryImage_refused⟩

end Sys2Proof.Machine
end

section
/-! PROOFS. The ODE's own operations: its status register, sessions, responses (O54 to O56). -/

namespace Sys2Proof.Machine

/-! ### The parts that the ODE's operations leave -/

theorem odeKeep_ode (s : State) : s.odeKeep.ode = s.ode := Within.odeKeep (m := 1) (.refl s) ⟨rfl⟩ .ode rfl

theorem reg_setOde (s : State) (f : OdeSt → OdeSt) (a : Nat) : (s.setOde f).reg a = s.reg a := rfl

theorem bump_ode (s : State) (a : Nat) : (s.bump a).ode = s.ode := Within.bump (m := 1) (.refl s) ⟨rfl⟩ .ode rfl

theorem noteStatus_ode (s : State) (st : Nat) : (s.noteStatus st).ode = s.ode :=
  Within.noteStatus (m := 17) (.refl s) ⟨rfl⟩ .ode rfl

theorem setSessions_ode (s : State) (f : List Session → List Session) :
    (s.setSessions f).ode = { s.ode with sessions := f s.ode.sessions } := by
  have hsubs : ∀ u : State, u.syncSubs.ode = u.ode := fun u => Within.syncSubs (m := 1) (.refl u) ⟨rfl⟩ .ode rfl
  rw [State.setSessions, odeKeep_ode, hsubs, setOde_ode]

theorem setSession_ode (s : State) (sid : Nat) (f : Session → Session) : (s.setSession sid f).ode =
    { s.ode with sessions := s.ode.sessions.map (fun x => if x.sid = sid then f x else x) } := setSessions_ode ..

theorem endSession_ode (s : State) (sid : Nat) : (s.endSession sid).ode =
    { s.ode with sessions := s.ode.sessions.filter (fun x => x.sid != sid) } := setSessions_ode ..

theorem reqDone_ode (s : State) : s.reqDone.ode = { s.ode with req := none } := by
  rw [State.reqDone, odeKeep_ode, setOde_ode]

theorem reqStart_ode (s : State) (r : OdeReq) : (s.reqStart r).ode = { s.ode with req := some r } := by
  rw [State.reqStart, odeKeep_ode, setOde_ode]

/-- A PDU that goes out joins the queue of its transport. -/
theorem pduOut_ode (s : State) (src : Nat) (l : List Byte) : (s.pduOut src l).ode =
    if src = 0 then { s.ode with spiOut := s.ode.spiOut ++ [l] }
    else if src ≤ 2 then s.ode else { s.ode with mbxOut := s.ode.mbxOut ++ [(src - 3, l)] } := by
  unfold State.pduOut
  split
  · rfl
  · split
    · unfold State.setCan
      split <;> rfl
    · rfl

theorem reg_pduOut (s : State) (src : Nat) (l : List Byte) (a : Nat) : (s.pduOut src l).reg a = s.reg a :=
  congrArg (Sparse.get regDefault · a) (Within.pduOut (m := 29360128) (.refl s) ⟨rfl⟩ .regs rfl)

/-- What a PDU that goes out leaves of the ODE's state. -/
theorem pduOut_held (s : State) (src : Nat) (l : List Byte) : (s.pduOut src l).ode.sessions = s.ode.sessions ∧
    (s.pduOut src l).ode.req = s.ode.req ∧ (s.pduOut src l).ode.fwq = s.ode.fwq ∧
    (s.pduOut src l).ode.locked = s.ode.locked ∧ (s.pduOut src l).ode.fails = s.ode.fails ∧
    (s.pduOut src l).ode.rxq = s.ode.rxq := by
  rw [pduOut_ode]
  split
  · exact ⟨rfl, rfl, rfl, rfl, rfl, rfl⟩
  · split
    · exact ⟨rfl, rfl, rfl, rfl, rfl, rfl⟩
    · exact ⟨rfl, rfl, rfl, rfl, rfl, rfl⟩

/-! ### Sessions by their SID -/

theorem sid_of_session {s : State} {sid : Nat} {x : Session} (h : s.session sid = some x) : x.sid = sid :=
  beq_iff_eq.mp (List.find?_some (p := fun y : Session => y.sid == sid) h)

theorem session_congr {s t : State} (h : t.ode.sessions = s.ode.sessions) (sid : Nat) : t.session sid = s.session sid := by
  rw [State.session, h, State.session]

theorem find?_map_of_key {f : Session → Session} {sid : Nat} (hf : ∀ x, (f x).sid = x.sid) (l : List Session) :
    (l.map (fun x => if x.sid = sid then f x else x)).find? (fun x => x.sid == sid) =
      (l.find? (fun x => x.sid == sid)).map f := by
  induction l with
  | nil => rfl
  | cons x xs ih =>
    rw [List.map_cons]
    by_cases h : x.sid = sid
    · have hx : (x.sid == sid) = true := beq_iff_eq.mpr h
      have hfx : ((f x).sid == sid) = true := beq_iff_eq.mpr ((hf x).trans h)
      rw [if_pos h, List.find?_cons, hfx, List.find?_cons, hx]
      rfl
    · have hx : (x.sid == sid) = false := beq_false_of_ne h
      rw [if_neg h, List.find?_cons, hx, List.find?_cons, hx]
      exact ih

/-- A session that is changed reads back changed. -/
theorem session_setSession (s : State) {sid : Nat} {f : Session → Session} (hf : ∀ x, (f x).sid = x.sid) :
    (s.setSession sid f).session sid = (s.session sid).map f := by
  rw [State.session, setSession_ode]
  exact find?_map_of_key hf _

theorem session_endSession (s : State) (sid : Nat) : (s.endSession sid).session sid = none := by
  rw [State.session, endSession_ode, List.find?_eq_none]
  intro x hx
  have hne := (List.mem_filter.mp hx).2
  simpa using hne

/-! ### Registers that the ODE's operations write -/

/-- The registers that an answer counts and shows itself in (R451, R473). -/
def answerRegs : List Nat := [R.ODE_CNT_REQ, R.ODE_CNT_STATE, R.ODE_CNT_RIGHTS, R.ODE_STAT]

namespace RegsBut

variable {l : List Nat} {s t : State}

theorem odeKeep (h : RegsBut l s t) (ha : R.ODE_STAT ∈ l) : RegsBut l s t.odeKeep :=
  h.trans ((regsBut_odeKeep t).weaken (List.cons_subset.mpr ⟨ha, List.nil_subset _⟩))

theorem setSessions {f : List Session → List Session} (h : RegsBut l s t) (ha : R.ODE_STAT ∈ l) :
    RegsBut l s (t.setSessions f) :=
  h.trans ((regsBut_setSessions t f).weaken (List.cons_subset.mpr ⟨ha, List.nil_subset _⟩))

theorem setSession {sid : Nat} {f : Session → Session} (h : RegsBut l s t) (ha : R.ODE_STAT ∈ l) :
    RegsBut l s (t.setSession sid f) := h.setSessions ha

theorem endSession {sid : Nat} (h : RegsBut l s t) (ha : R.ODE_STAT ∈ l) : RegsBut l s (t.endSession sid) := h.setSessions ha

theorem pduOut {src : Nat} {d : List Byte} (h : RegsBut l s t) : RegsBut l s (t.pduOut src d) := fun a ha he =>
  (reg_pduOut t src d a).trans (h a ha he)

theorem reqDone (h : RegsBut l s t) (ha : R.ODE_STAT ∈ l) : RegsBut l s t.reqDone := (regsBut_setOde h).odeKeep ha

theorem reqStart {r : OdeReq} (h : RegsBut l s t) (ha : R.ODE_STAT ∈ l) : RegsBut l s (t.reqStart r) :=
  (regsBut_setOde h).odeKeep ha

theorem noteStatus {st : Nat} (h : RegsBut l s t) (hstate : R.ODE_CNT_STATE ∈ l) (hrights : R.ODE_CNT_RIGHTS ∈ l) :
    RegsBut l s (t.noteStatus st) :=
  ite ((h.bump hstate).raise (by decide)) (ite (h.raise (by decide)) (ite (h.bump hrights) h))

end RegsBut

/-- The device state and DIRTY, which stand beside the bits of ODE_STAT that follow requests and sessions. -/
structure StatStands (s t : State) : Prop where
  dev : t.dev = s.dev
  dirty : t.rb F.ODE_STAT_DIRTY = s.rb F.ODE_STAT_DIRTY

namespace StatStands

variable {s t u : State}

theorem refl : StatStands s s := ⟨rfl, rfl⟩

theorem trans (h : StatStands s t) (g : StatStands t u) : StatStands s u := ⟨g.dev.trans h.dev, g.dirty.trans h.dirty⟩

theorem ite {c : Prop} [Decidable c] (ht : StatStands s t) (hu : StatStands s u) : StatStands s (if c then t else u) := by
  split
  · exact ht
  · exact hu

theorem of_reg (h : t.reg R.ODE_STAT = s.reg R.ODE_STAT) : StatStands s t :=
  ⟨congrArg (bits · F.ODE_STAT_STATE.hi F.ODE_STAT_STATE.lo) h,
    congrArg (fun v => bits v F.ODE_STAT_DIRTY.hi F.ODE_STAT_DIRTY.lo == 1) h⟩

theorem of_regsBut {l : List Nat} (h : RegsBut l s t) (ha : R.ODE_STAT ∉ l) : StatStands s t :=
  .of_reg (h.reg ha (not_evrAddr_of_ge (by decide)))

theorem odeKeep : StatStands s s.odeKeep :=
  ⟨(rf_wf_apart _ _ (by decide)).trans (rf_wf_apart s _ (by decide)),
    (rb_wf_apart _ _ (by decide)).trans (rb_wb_apart s _ (by decide))⟩

theorem setOde {f : OdeSt → OdeSt} : StatStands s (s.setOde f) := .of_reg (reg_setOde s f _)

theorem syncSubs : StatStands s s.syncSubs :=
  .of_regsBut (l := []) (.ite (regsBut_subRoutes s _ 256 (Nat.le_refl _)) .refl) List.not_mem_nil

theorem setSessions {f : List Session → List Session} : StatStands s (s.setSessions f) :=
  (setOde.trans syncSubs).trans odeKeep

theorem reqDone : StatStands s s.reqDone := setOde.trans odeKeep

theorem reqStart {r : OdeReq} : StatStands s (s.reqStart r) := setOde.trans odeKeep

theorem pduOut {src : Nat} {d : List Byte} : StatStands s (s.pduOut src d) := .of_reg (reg_pduOut ..)

theorem bump {a : Nat} (ha : R.ODE_STAT ≠ a) : StatStands s (s.bump a) :=
  .of_regsBut (RegsBut.refl.bump (List.mem_singleton_self a)) (fun h => ha (List.mem_singleton.mp h))

theorem raise {n : Nat} (hn : n < 256) : StatStands s (s.raise n) :=
  .of_regsBut (l := []) (RegsBut.refl.raise hn) List.not_mem_nil

theorem noteStatus {st : Nat} : StatStands s (s.noteStatus st) :=
  .of_regsBut (l := [R.ODE_CNT_STATE, R.ODE_CNT_RIGHTS]) (RegsBut.refl.noteStatus (by decide) (by decide)) (by decide)

end StatStands

/-! ### Keys and PDUs of a session -/

/-- K depends on the cipher engine's slots alone (R455). -/
theorem hdpKey_congr {s t : State} (h : t.cry = s.cry) (slot : Nat) : t.hdpKey slot = s.hdpKey slot := by
  have honly : t.hdpKey slot = ({ s with cry := t.cry } : State).hdpKey slot := rfl
  rw [honly, h]

theorem sessionPdu_congr {s t : State} (h : t.cry = s.cry) (x : Session) (flags op rtag status detail : Nat)
    (payload : List Byte) : t.sessionPdu x flags op rtag status detail payload =
      s.sessionPdu x flags op rtag status detail payload := by
  simp only [State.sessionPdu, hdpKey_congr h]

/-! ### Responses -/

/-- What a response leaves (R448, R456): the request is done with, and memory, keys and the queues stand. -/
structure Answered (s t : State) : Prop where
  req : t.ode.req = none
  fwq : t.ode.fwq = s.ode.fwq
  regs : RegsBut answerRegs s t
  stat : StatStands s t
  parts : Within 29360145 s t

namespace Answered

variable {s t : State}

theorem mem (h : Answered s t) : t.mem = s.mem := h.parts .mem rfl

theorem cry (h : Answered s t) : t.cry = s.cry := h.parts .cry rfl

theorem sameBytes (h : Answered s t) : SameBytes s t := sameBytes_of_mem h.mem

end Answered

/-- A response before it is given its SEQ. -/
def State.noted (s : State) (status : Nat) : State := ((s.bump R.ODE_CNT_REQ).noteStatus status).reqDone

theorem noted_ode (s : State) (status : Nat) : (s.noted status).ode = { s.ode with req := none } := by
  rw [State.noted, reqDone_ode, noteStatus_ode, bump_ode]

theorem noted_cry (s : State) (status : Nat) : (s.noted status).cry = s.cry :=
  Within.reqDone (m := 4194321) (.noteStatus (.bump (.refl s) ⟨rfl⟩) ⟨rfl⟩) ⟨rfl⟩ .cry rfl

theorem regsBut_noted (s : State) (status : Nat) : RegsBut answerRegs s (s.noted status) :=
  ((RegsBut.refl.bump (by decide)).noteStatus (by decide) (by decide)).reqDone (by decide)

theorem statStands_noted (s : State) (status : Nat) : StatStands s (s.noted status) :=
  ((StatStands.bump (by decide)).trans .noteStatus).trans .reqDone

/-- A session whose response is stored. -/
def Session.stored (x : Session) (pdu : List Byte) : Session := { x with seqOut := x.seqOut + 1, last := pdu }

/-- A response whose session has a key: the next SEQ, stored, and sent to the request's address. -/
def State.respond (s : State) (r : OdeReq) (pdu : List Byte) : State :=
  (s.setSession r.sid (fun y => y.stored pdu)).pduOut r.src pdu

theorem reply_eq (s : State) (r : OdeReq) (status detail : Nat) (payload : List Byte) :
    s.reply r status detail payload =
      match (s.session r.sid).bind (fun x => s.sessionPdu x 0x18 r.op r.rtag status detail payload) with
      | none => s.noted status
      | some pdu => (s.noted status).respond r pdu := by
  have hsession : (s.noted status).session r.sid = s.session r.sid := session_congr (by rw [noted_ode]) _
  have hreply : s.reply r status detail payload =
      match (s.noted status).session r.sid with
      | none => s.noted status
      | some x =>
        match (s.noted status).sessionPdu x 0x18 r.op r.rtag status detail payload with
        | none => s.noted status
        | some pdu => (s.noted status).respond r pdu := rfl
  rw [hreply, hsession]
  cases s.session r.sid with
  | none => rfl
  | some x =>
    show (match (s.noted status).sessionPdu x 0x18 r.op r.rtag status detail payload with
      | none => s.noted status
      | some pdu => (s.noted status).respond r pdu) = _
    rw [sessionPdu_congr (noted_cry s status)]
    rfl

theorem reply_answered (s : State) (r : OdeReq) (status detail : Nat) (payload : List Byte) :
    Answered s (s.reply r status detail payload) := by
  have hparts : Within 29360145 s (s.reply r status detail payload) := .reply (.refl s) ⟨rfl⟩
  rw [reply_eq] at hparts ⊢
  split
  next hnone =>
    rw [hnone] at hparts
    exact ⟨by rw [noted_ode], by rw [noted_ode], regsBut_noted s status, statStands_noted s status, hparts⟩
  next pdu hsome =>
    rw [hsome] at hparts
    obtain ⟨-, hreq, hfwq, -⟩ := pduOut_held
      ((s.noted status).setSession r.sid (fun y => y.stored pdu)) r.src pdu
    refine ⟨hreq.trans ?_, hfwq.trans ?_, ((regsBut_noted s status).setSession (by decide)).pduOut,
      ((statStands_noted s status).trans .setSessions).trans .pduOut, hparts⟩
    · rw [setSession_ode, noted_ode]
    · rw [setSession_ode, noted_ode]

/-- The response is stored with the next SEQ (R456). -/
theorem reply_stored {s : State} {r : OdeReq} {x : Session} (hx : s.session r.sid = some x) {status detail : Nat}
    {payload pdu : List Byte} (hpdu : s.sessionPdu x 0x18 r.op r.rtag status detail payload = some pdu) :
    (s.reply r status detail payload).session r.sid = some (x.stored pdu) := by
  have hnoted : (s.noted status).session r.sid = some x := (session_congr (by rw [noted_ode]) _).trans hx
  obtain ⟨hsessions, -⟩ := pduOut_held
    ((s.noted status).setSession r.sid (fun y => y.stored pdu)) r.src pdu
  have hreply : s.reply r status detail payload = (s.noted status).respond r pdu := by
    rw [reply_eq, hx, Option.bind_some, hpdu]
  rw [hreply, State.respond, session_congr hsessions, session_setSession (f := fun y => y.stored pdu) _ fun _ => rfl, hnoted,
    Option.map_some]

/-- A response changes no session but in its SEQ and its stored response. -/
theorem reply_session {s : State} {r : OdeReq} {x : Session} (hx : s.session r.sid = some x) (status detail : Nat)
    (payload : List Byte) : ∃ y, (s.reply r status detail payload).session r.sid = some y ∧ y.mask = x.mask ∧ y.up = x.up ∧
      y.sent = x.sent := by
  cases hpdu : s.sessionPdu x 0x18 r.op r.rtag status detail payload with
  | some pdu => exact ⟨_, reply_stored hx hpdu, rfl, rfl, rfl⟩
  | none =>
    have hreply : s.reply r status detail payload = s.noted status := by rw [reply_eq, hx, Option.bind_some, hpdu]
    refine ⟨x, ?_, rfl, rfl, rfl⟩
    rw [hreply]
    exact (session_congr (by rw [noted_ode]) _).trans hx

end Sys2Proof.Machine
end

section
/-! PROOFS. The mailbox, the SPI target port, and the queues to the cores (O55). -/

namespace Sys2Proof.Machine

/-! ### What the transports use -/

/-- What ODE refuses it records in its status register alone. -/
theorem odeRefuse (s : State) {code : Nat} (hcode : code < 256) :
    (s.refuse R.ODE_ERR code 192).reg R.ODE_ERR = BitVec.ofNat 32 (0x100 + code) ∧
      RegsBut [R.ODE_ERR] s (s.refuse R.ODE_ERR code 192) ∧ (s.refuse R.ODE_ERR code 192).ode = s.ode ∧
      SameBytes s (s.refuse R.ODE_ERR code 192) :=
  ⟨(reg_refuse s _ _ _ _ (by decide) (not_evrAddr_of_ge (by decide))).trans
      ((if_pos rfl).trans (by rw [Nat.mod_eq_of_lt hcode])),
    (refuse_records s (not_evrAddr_of_ge (by decide)) hcode (by decide)).2,
    Within.refuse (m := 17) (.refl s) ⟨rfl⟩ .ode rfl, sameBytes_of_mem (refuse_mem ..)⟩

theorem eccRead_ode (s : State) (reader a len : Nat) : (s.eccRead reader a len).ode = s.ode :=
  Within.eccRead (m := 3145745) (.refl s) ⟨rfl⟩ .ode rfl

theorem store_ode (s : State) (writer a : Nat) (l : List Byte) : (s.store writer a l).ode = s.ode :=
  Within.store (m := 3145747) (.refl s) ⟨rfl⟩ .ode rfl

theorem store_outputs (s : State) (writer a : Nat) (l : List Byte) : (s.store writer a l).out = s.out :=
  Within.store (m := 3145747) (.refl s) ⟨rfl⟩ .out rfl

theorem answer_outputs (s : State) (i : Init) (v : Word) : (s.answer i v).out = .busData i v :: s.out := rfl

theorem answer_ode (s : State) (i : Init) (v : Word) : (s.answer i v).ode = s.ode := rfl

theorem answer_mem (s : State) (i : Init) (v : Word) : (s.answer i v).mem = s.mem := rfl

theorem answer_regs (s : State) (i : Init) (v : Word) : (s.answer i v).regs = s.regs := rfl

theorem reg_answer (s : State) (i : Init) (v : Word) (a : Nat) : (s.answer i v).reg a = s.reg a := rfl

theorem pduIn_ode (s : State) (src : Nat) (l : List Byte) :
    (s.pduIn src l).ode = { s.ode with rxq := s.ode.rxq ++ [(src, l)] } := by
  rw [State.pduIn, odeKeep_ode, setOde_ode]

theorem pduIn_mem (s : State) (src : Nat) (l : List Byte) : (s.pduIn src l).mem = s.mem :=
  Within.pduIn (m := 4194305) (.refl s) ⟨rfl⟩ .mem rfl

/-! ### Mailbox (R458) -/

section

variable {s : State} {i : Init} {v : Word}

theorem exec_mbxinPush (hmay : s.MayWrite i R.ODE_MBXIN_PUSH) : exec (.mbxinPush i v) s = .next (s.mbxPush v) :=
  congrArg Host.Outcome.next (onWrite_of_mayWrite s i _ _ hmay)

theorem mbxPush_of_outside
    (h : bits v 10 0 < 12 ∨ 1400 < bits v 10 0 ∨ inShared (s.regN R.ODE_MBXIN_ADDR) (bits v 10 0) = false) :
    s.mbxPush v = s.refuse R.ODE_ERR St.RANGE 192 :=
  if_pos (h.imp_right (.imp_right fun hout => (Bool.not_eq_true' _).mpr hout))

theorem mbxPush_of_good (hlow : 12 ≤ bits v 10 0) (hhigh : bits v 10 0 ≤ 1400)
    (hin : inShared (s.regN R.ODE_MBXIN_ADDR) (bits v 10 0) = true)
    (hclean : s.eccBad (s.regN R.ODE_MBXIN_ADDR) (bits v 10 0) = false) (hudp : s.rb F.ODE_CTRL_UDP = true) :
    s.mbxPush v = (s.eccRead Ini.ODE (s.regN R.ODE_MBXIN_ADDR) (bits v 10 0)).pduIn (3 + bits v 31 16)
      (s.bytes (s.regN R.ODE_MBXIN_ADDR) (bits v 10 0)) := by
  unfold State.mbxPush
  dsimp only
  rw [if_neg (by rw [hin]; simp; omega), if_neg (by rw [hclean]; exact Bool.false_ne_true), if_neg (by rw [hudp]; decide)]

theorem mbxinPush_refused (hmay : s.MayWrite i R.ODE_MBXIN_PUSH)
    (h : bits v 10 0 < 12 ∨ 1400 < bits v 10 0 ∨ inShared (s.regN R.ODE_MBXIN_ADDR) (bits v 10 0) = false) :
    Runs (.mbxinPush i v) s fun t =>
      t.reg R.ODE_ERR = 0x102 ∧ t.ode = s.ode ∧ RegsBut [R.ODE_ERR] s t ∧ SameBytes s t := by
  obtain ⟨herr, hregs, hode, hbytes⟩ := odeRefuse s (code := St.RANGE) (by decide)
  exact ⟨_, (exec_mbxinPush hmay).trans (congrArg Host.Outcome.next (mbxPush_of_outside h)), herr, hode, hregs, hbytes⟩

theorem mbxinPush_taken (hmay : s.MayWrite i R.ODE_MBXIN_PUSH) (hlow : 12 ≤ bits v 10 0) (hhigh : bits v 10 0 ≤ 1400)
    (hin : inShared (s.regN R.ODE_MBXIN_ADDR) (bits v 10 0) = true)
    (hclean : s.eccBad (s.regN R.ODE_MBXIN_ADDR) (bits v 10 0) = false) (hudp : s.rb F.ODE_CTRL_UDP = true) :
    Runs (.mbxinPush i v) s fun t => t.ode.rxq = s.ode.rxq ++
      [(3 + bits v 31 16, s.bytes (s.regN R.ODE_MBXIN_ADDR) (bits v 10 0))] ∧ SameBytes s t := by
  have hrun := (exec_mbxinPush hmay).trans (congrArg Host.Outcome.next (mbxPush_of_good hlow hhigh hin hclean hudp))
  have hode := eccRead_ode s Ini.ODE (s.regN R.ODE_MBXIN_ADDR) (bits v 10 0)
  have hmem := eccRead_mem s Ini.ODE (s.regN R.ODE_MBXIN_ADDR) (bits v 10 0)
  generalize s.eccRead Ini.ODE (s.regN R.ODE_MBXIN_ADDR) (bits v 10 0) = u at *
  refine ⟨_, hrun, ?_, sameBytes_of_mem ((pduIn_mem ..).trans hmem)⟩
  rw [pduIn_ode, hode]

end

section

variable {s : State} {i : Init}

theorem exec_mbxoutPop (hmay : s.MayRead i R.ODE_MBXOUT) : exec (.mbxoutPop i) s = .next (s.mbxPop i) :=
  congrArg Host.Outcome.next (onRead_of_mayRead s i _ _ hmay)

theorem mbxoutPop_empty (hmay : s.MayRead i R.ODE_MBXOUT) (hnone : s.ode.mbxOut = []) :
    Runs (.mbxoutPop i) s fun t => t.out = .busData i 0 :: s.out ∧ t.ode = s.ode ∧ SameBytes s t := by
  have hpop : s.mbxPop i = s.answer i 0 := by rw [State.mbxPop, hnone]
  exact ⟨_, (exec_mbxoutPop hmay).trans (congrArg Host.Outcome.next hpop), answer_outputs .., answer_ode ..,
    sameBytes_of_mem (answer_mem ..)⟩

/-- The buffer that a reply goes to (R458). -/
def State.mbxBufAt (s : State) : Nat := 0x11370000 + 1024 * (Config.mbxBuf s.freeCtr % 62)

/-- The reply is taken from the queue and stored in its buffer. -/
def State.mbxStored (s : State) (l : List Byte) (rest : List (Nat × List Byte)) : State :=
  (s.used.setOde (fun o => { o with mbxOut := rest })).store Ini.ODE s.mbxBufAt l

theorem mbxPop_of_cons {src : Nat} {l : List Byte} {rest : List (Nat × List Byte)}
    (hout : s.ode.mbxOut = (src, l) :: rest) : s.mbxPop i =
      ((s.mbxStored l rest).setRegN R.ODE_MBXOUT_ADDR s.mbxBufAt).answer i
        (BitVec.ofNat 32 (2 ^ 31 + src % 2 ^ 15 * 2 ^ 16 + l.length)) := by
  rw [State.mbxPop, hout]
  rfl

theorem mbxBufAt_bounds (s : State) : 0x11370000 ≤ s.mbxBufAt ∧ s.mbxBufAt < 0x11380000 := by
  unfold State.mbxBufAt
  omega

theorem mbxStored_held (s : State) (l : List Byte) (rest : List (Nat × List Byte)) :
    (s.mbxStored l rest).ode.mbxOut = rest ∧ (s.mbxStored l rest).out = s.out ∧
      (s.mbxStored l rest).bytes s.mbxBufAt l.length = l ∧
      (∀ b, b < s.mbxBufAt ∨ s.mbxBufAt + l.length ≤ b → (s.mbxStored l rest).byte b = s.byte b) := by
  unfold State.mbxStored
  exact ⟨by rw [store_ode, setOde_ode], store_outputs .., bytes_store .., fun b hb => byte_store_of_outside hb⟩

theorem mbxoutPop_pops (hmay : s.MayRead i R.ODE_MBXOUT) {src : Nat} {l : List Byte} {rest : List (Nat × List Byte)}
    (hout : s.ode.mbxOut = (src, l) :: rest) : Runs (.mbxoutPop i) s fun t =>
      let a := t.regN R.ODE_MBXOUT_ADDR
      t.ode.mbxOut = rest ∧ t.out = .busData i (BitVec.ofNat 32 (2 ^ 31 + src % 2 ^ 15 * 2 ^ 16 + l.length)) :: s.out ∧
        t.bytes a l.length = l ∧ (∀ b, b < a ∨ a + l.length ≤ b → t.byte b = s.byte b) ∧ 0x11370000 ≤ a ∧
        a < 0x11380000 := by
  obtain ⟨hrest, hdata, hbytes, hother⟩ := mbxStored_held s l rest
  obtain ⟨hlow, hhigh⟩ := mbxBufAt_bounds s
  have hrun := (exec_mbxoutPop hmay).trans (congrArg Host.Outcome.next (mbxPop_of_cons (i := i) hout))
  generalize s.mbxStored l rest = u at *
  generalize s.mbxBufAt = a at *
  generalize hv : BitVec.ofNat 32 (2 ^ 31 + src % 2 ^ 15 * 2 ^ 16 + l.length) = v at *
  have haddr : ((u.setRegN R.ODE_MBXOUT_ADDR a).answer i v).regN R.ODE_MBXOUT_ADDR = a := by
    rw [State.regN, reg_answer, reg_setRegN, if_pos rfl, BitVec.toNat_ofNat]
    omega
  have hmem : ((u.setRegN R.ODE_MBXOUT_ADDR a).answer i v).mem = u.mem := answer_mem ..
  refine ⟨_, hrun, ?_⟩
  dsimp only
  rw [haddr]
  exact ⟨(congrArg OdeSt.mbxOut (answer_ode ..)).trans hrest, (answer_outputs ..).trans (congrArg (List.cons _) hdata),
    (bytes_congr hmem l.length a).trans hbytes,
    fun b hb => (sameBytes_of_mem hmem b).trans (hother b hb), hlow, hhigh⟩

end

/-! ### SPI target port (R460) -/

section

variable {s : State}

theorem exec_spiPduWrite (len : BitVec 16) (pdu : List Byte) (crc : BitVec 32) (s : State) :
    exec (.spiPduWrite len pdu crc) s = if (!s.spiOn) = true then .next s
      else if crc.toNat ≠ crc32c (natBytes 2 len.toNat ++ pdu) ∨ len.toNat ≠ pdu.length then
        .next ((s.bump R.ODE_CNT_SPICRC).raise 205)
      else .next (s.pduIn 0 pdu) := rfl

theorem exec_spiPduRead (s : State) : exec .spiPduRead s = if (!s.spiOn) = true then .next s
    else match s.ode.spiOut with
      | [] => .next (s.emit (.spi (spiForm [])))
      | l :: ls => .next ((s.setOde (fun o => { o with spiOut := ls })).emit (.spi (spiForm l))) := rfl

theorem exec_spiStatusRead (s : State) : exec .spiStatusRead s = if (!s.spiOn) = true then .next s
    else .next (s.emit (.spi (natBytes 1 ((if s.ode.spiOut.isEmpty then 0 else 1) +
      (if s.ode.rxq.any (fun x => x.1 == 0) then 2 else 0))))) := rfl

theorem spi_off (hoff : s.spiOn = false) : exec .spiPduRead s = .next s ∧ exec .spiStatusRead s = .next s ∧
    ∀ len pdu crc, exec (.spiPduWrite len pdu crc) s = .next s := by
  have hnot : (!s.spiOn) = true := by rw [hoff]; rfl
  exact ⟨(exec_spiPduRead s).trans (if_pos hnot), (exec_spiStatusRead s).trans (if_pos hnot),
    fun len pdu crc => (exec_spiPduWrite len pdu crc s).trans (if_pos hnot)⟩

variable (hon : s.spiOn = true)
include hon

theorem not_spi_off : ¬ (!s.spiOn) = true := by rw [hon]; decide

theorem spiPduWrite_good {len : BitVec 16} {pdu : List Byte} {crc : BitVec 32}
    (hgood : crc.toNat = crc32c (natBytes 2 len.toNat ++ pdu) ∧ len.toNat = pdu.length) :
    Runs (.spiPduWrite len pdu crc) s fun t => t.ode.rxq = s.ode.rxq ++ [(0, pdu)] ∧ SameBytes s t := by
  obtain ⟨hcrc, hlen⟩ := hgood
  refine ⟨_, (exec_spiPduWrite len pdu crc s).trans ((if_neg (not_spi_off hon)).trans
    (if_neg (not_or.mpr ⟨not_not.mpr hcrc, not_not.mpr hlen⟩))), ?_, sameBytes_of_mem (pduIn_mem ..)⟩
  rw [pduIn_ode]

theorem spiPduWrite_bad {len : BitVec 16} {pdu : List Byte} {crc : BitVec 32}
    (hbad : ¬ (crc.toNat = crc32c (natBytes 2 len.toNat ++ pdu) ∧ len.toNat = pdu.length)) :
    Runs (.spiPduWrite len pdu crc) s fun t =>
      t.ode = s.ode ∧ Counted R.ODE_CNT_SPICRC s t ∧ RegsBut [R.ODE_CNT_SPICRC] s t ∧ SameBytes s t :=
  ⟨_, (exec_spiPduWrite len pdu crc s).trans ((if_neg (not_spi_off hon)).trans (if_pos (not_and_or.mp hbad))),
    Within.raise (m := 17) (.bump (.refl s) ⟨rfl⟩) ⟨rfl⟩ .ode rfl,
    (counted_bump s _).andThen (l := []) (RegsBut.refl.raise (by decide)) (by decide),
    (RegsBut.refl.bump (List.mem_singleton_self _)).raise (by decide),
    sameBytes_of_mem (Within.raise (m := 17) (.bump (.refl s) ⟨rfl⟩) ⟨rfl⟩ .mem rfl)⟩

theorem spiPduRead_empty (hnone : s.ode.spiOut = []) : exec .spiPduRead s = .next (s.emit (.spi (spiForm []))) := by
  rw [exec_spiPduRead, if_neg (not_spi_off hon), hnone]

theorem spiPduRead_pops {l : List Byte} {ls : List (List Byte)} (hout : s.ode.spiOut = l :: ls) :
    Runs .spiPduRead s fun t =>
      t.out = .spi (spiForm l) :: s.out ∧ t.ode = { s.ode with spiOut := ls } ∧ t.regs = s.regs ∧ SameBytes s t := by
  have hrun : exec .spiPduRead s = .next ((s.setOde (fun o => { o with spiOut := ls })).emit (.spi (spiForm l))) := by
    rw [exec_spiPduRead, if_neg (not_spi_off hon), hout]
  exact ⟨_, hrun, rfl, rfl, rfl, fun _ => rfl⟩

theorem spiStatusRead_runs : Runs .spiStatusRead s fun t =>
    t.out = .spi (natBytes 1 ((if s.ode.spiOut.isEmpty then 0 else 1) +
      (if s.ode.rxq.any (fun x => x.1 == 0) then 2 else 0))) :: s.out ∧ t.ode = s.ode ∧ t.regs = s.regs ∧ SameBytes s t :=
  ⟨_, (exec_spiStatusRead s).trans (if_neg (not_spi_off hon)), rfl, rfl, rfl, fun _ => rfl⟩

end

/-! ### The queues to the cores (R448) -/

section

variable {s : State} {i : Init} {c : Fin 6}

theorem exec_fwRequestPop (hmay : s.MayRead i (R.ODE_FWREQ c.val)) :
    exec (.fwRequestPop i c) s = .next (s.fwPop c.val i) :=
  congrArg Host.Outcome.next (onRead_of_mayRead s i _ _ hmay)

theorem fwRequestPop_empty (hmay : s.MayRead i (R.ODE_FWREQ c.val))
    (hnone : s.ode.fwq.find? (fun r => r.core == c.val && !r.taken) = none) : Runs (.fwRequestPop i c) s fun t =>
      t.out = .busData i 0 :: s.out ∧ t.ode = s.ode ∧ t.regs = s.regs ∧ SameBytes s t := by
  have hpop : s.fwPop c.val i = s.answer i 0 := by rw [State.fwPop, hnone]
  exact ⟨_, (exec_fwRequestPop hmay).trans (congrArg Host.Outcome.next hpop), answer_outputs .., answer_ode ..,
    answer_regs .., sameBytes_of_mem (answer_mem ..)⟩

/-- The access popped is marked, and its reference and buffer are shown. -/
def State.fwShown (s : State) (r : FwReq) : State :=
  (((s.setOde (fun o => { o with fwq := o.fwq.map (fun x => if x.num = r.num then { x with taken := true } else x) })).setRegN
    R.ODE_FWREF r.ref).setRegN R.ODE_FWBUF (fwBufAt r.num)).setRegN R.ODE_FWLEN r.value.length

theorem fwShown_held (s : State) (r : FwReq) :
    (s.fwShown r).ode.fwq = s.ode.fwq.map (fun x => if x.num = r.num then { x with taken := true } else x) ∧
      (s.fwShown r).regN R.ODE_FWREF = r.ref % 2 ^ 32 ∧ (∀ b, (s.fwShown r).byte b = s.byte b) := by
  refine ⟨rfl, ?_, fun _ => rfl⟩
  unfold State.fwShown
  rw [State.regN, reg_setRegN, if_neg (by decide), reg_setRegN, if_neg (by decide), reg_setRegN, if_pos rfl,
    BitVec.toNat_ofNat]

theorem fwPop_of_find {r : FwReq} (hfind : s.ode.fwq.find? (fun r => r.core == c.val && !r.taken) = some r) :
    s.fwPop c.val i = ((s.fwShown r).store Ini.ODE (fwBufAt r.num) r.value).answer i
      (BitVec.ofNat 32 (2 ^ 31 + r.kind * 2 ^ 28 + r.num * 2 ^ 16 + r.handler)) := by
  rw [State.fwPop, hfind]
  rfl

theorem fwRequestPop_pops (hmay : s.MayRead i (R.ODE_FWREQ c.val)) {r : FwReq}
    (hfind : s.ode.fwq.find? (fun r => r.core == c.val && !r.taken) = some r) : Runs (.fwRequestPop i c) s fun t =>
      t.ode.fwq = s.ode.fwq.map (fun x => if x.num = r.num then { x with taken := true } else x) ∧
        t.regN R.ODE_FWREF = r.ref % 2 ^ 32 ∧ t.bytes (fwBufAt r.num) r.value.length = r.value ∧
        (∀ b, b < fwBufAt r.num ∨ fwBufAt r.num + r.value.length ≤ b → t.byte b = s.byte b) := by
  obtain ⟨hfwq, href, hbyte⟩ := fwShown_held s r
  have hrun := (exec_fwRequestPop hmay).trans (congrArg Host.Outcome.next (fwPop_of_find (i := i) hfind))
  generalize s.fwShown r = u at *
  generalize BitVec.ofNat 32 (2 ^ 31 + r.kind * 2 ^ 28 + r.num * 2 ^ 16 + r.handler) = v at *
  have hregs : (u.store Ini.ODE (fwBufAt r.num) r.value).reg R.ODE_FWREF = u.reg R.ODE_FWREF :=
    (regsBut_store u _ _ _).reg (by decide) (not_evrAddr_of_ge (by decide))
  have hmem := answer_mem (u.store Ini.ODE (fwBufAt r.num) r.value) i v
  refine ⟨_, hrun, ?_, ?_, (bytes_congr hmem _ _).trans (bytes_store ..),
    fun b hb => (sameBytes_of_mem hmem b).trans ((byte_store_of_outside hb).trans (hbyte b))⟩
  · rw [answer_ode, store_ode, hfwq]
  · rw [State.regN, reg_answer, hregs, ← State.regN, href]

end

/-! ### Answers of the cores (R448) -/

theorem fwDrop_ode (s : State) (num : Nat) : (s.fwDrop num).ode = { s.ode with
    fwq := s.ode.fwq.filter (fun r => r.num != num), fwQuiet := s.ode.fwQuiet.filter (fun k => k != num) } := rfl

theorem waiter_congr {s t : State} (h : t.ode.req = s.ode.req) (num : Nat) : t.waiter num = s.waiter num := by
  rw [State.waiter, h, State.waiter]

theorem waiter_fwDrop (s : State) (n num : Nat) : (s.fwDrop n).waiter num = s.waiter num := rfl

/-- The session that waits for an access is asked again without waiting. -/
def OdeReq.awake (r : OdeReq) : OdeReq := { r with waits := none }

theorem fwDone_of_no_waiter {s : State} {q : FwReq} (hnone : s.waiter q.num = none) (status : Nat) (v : List Byte) :
    s.fwDone q status v = if status = St.OK ∧ q.kind = Acc.WRITE then (s.fwDrop q.num).fwTook q false else s.fwDrop q.num := by
  unfold State.fwDone
  dsimp only
  rw [waiter_fwDrop, hnone]

/-- An access that is no read and that fails answers its request. -/
theorem fwDone_of_fail {s : State} {q : FwReq} {r : OdeReq} (hsome : s.waiter q.num = some r) (hkind : q.kind ≠ Acc.READ)
    {status : Nat} (hst : status ≠ St.OK) (v : List Byte) :
    s.fwDone q status v = (s.fwDrop q.num).replySt r.awake status := by
  unfold State.fwDone
  dsimp only
  rw [waiter_fwDrop, hsome]
  dsimp only
  rw [if_neg hkind, if_pos hst]
  rfl

/-- A command that a core has carried out answers its request. -/
theorem fwDone_of_invoke {s : State} {q : FwReq} {r : OdeReq} (hsome : s.waiter q.num = some r) (hkind : q.kind = Acc.INVOKE)
    (v : List Byte) : s.fwDone q St.OK v = (s.fwDrop q.num).replyInvoke r.awake q.typ v := by
  unfold State.fwDone
  dsimp only
  rw [waiter_fwDrop, hsome]
  dsimp only
  rw [if_neg (by rw [hkind]; decide), if_neg (not_not.mpr rfl), if_neg (by rw [hkind]; decide)]
  rfl

/-- What the end of an access leaves: it is in no queue, the request that waited is answered, memory and keys stand. -/
structure AccessEnds (s : State) (q : FwReq) (t : State) : Prop where
  fwq : t.ode.fwq = s.ode.fwq.filter (fun x => x.num != q.num)
  idle : (s.waiter q.num).isSome → t.ode.req = none
  kept : s.waiter q.num = none → t.ode.req = s.ode.req
  regs : RegsBut answerRegs s t
  stat : StatStands s t
  parts : Within 29360145 s t

namespace AccessEnds

variable {s t : State} {q : FwReq}

theorem sameBytes (h : AccessEnds s q t) : SameBytes s t := sameBytes_of_mem (h.parts .mem rfl)

theorem of_fwDrop (hnone : s.waiter q.num = none) : AccessEnds s q (s.fwDrop q.num) :=
  ⟨rfl, fun h => absurd h (by rw [hnone]; exact Bool.false_ne_true), fun _ => rfl, fun _ _ _ => rfl, .setOde,
    .setOde (.refl s) ⟨rfl⟩⟩

theorem of_answered {r : OdeReq} (hsome : s.waiter q.num = some r) (h : Answered (s.fwDrop q.num) t) : AccessEnds s q t :=
  ⟨h.fwq, fun _ => h.req, fun hnone => absurd (hsome.symm.trans hnone) (Option.some_ne_none r), h.regs,
    StatStands.setOde.trans h.stat, .trans (.setOde (.refl s) ⟨rfl⟩) h.parts⟩

end AccessEnds

/-- A command ends with any status. -/
theorem accessEnds_invoke {s : State} {q : FwReq} (hkind : q.kind = Acc.INVOKE) (status : Nat) (v : List Byte) :
    AccessEnds s q (s.fwDone q status v) := by
  have hread : q.kind ≠ Acc.READ := by rw [hkind]; decide
  cases hwait : s.waiter q.num with
  | none =>
    have hnot : ¬ (status = St.OK ∧ q.kind = Acc.WRITE) := fun h => absurd (hkind.symm.trans h.2) (by decide)
    rw [fwDone_of_no_waiter hwait, if_neg hnot]
    exact .of_fwDrop hwait
  | some r =>
    by_cases hst : status = St.OK
    · subst hst
      rw [fwDone_of_invoke hwait hkind]
      exact .of_answered hwait (reply_answered ..)
    · rw [fwDone_of_fail hwait hread hst]
      exact .of_answered hwait (reply_answered ..)

end Sys2Proof.Machine
end

section
/-! PROOFS. Answers of the cores, the timers of sessions, and the event queues (O55). -/

namespace Sys2Proof.Machine

/-! ### Answers and their time limit (R448) -/

section

variable {s : State} {i : Init} {c : Fin 6} {v : Word}

theorem exec_fwAnswer (hmay : s.MayWrite i (R.ODE_FWRES c.val)) : exec (.fwAnswer i c v) s = .next (s.fwAnswer c.val v) :=
  congrArg Host.Outcome.next (onWrite_of_mayWrite s i _ _ hmay)

theorem fwAnswer_refused (hmay : s.MayWrite i (R.ODE_FWRES c.val)) (hbad : bits v 31 28 ≠ 0) :
    Runs (.fwAnswer i c v) s fun t => t.reg R.ODE_ERR = 0x102 ∧ t.ode = s.ode ∧ SameBytes s t := by
  obtain ⟨herr, -, hode, hbytes⟩ := odeRefuse s (code := St.RANGE) (by decide)
  have hanswer : s.fwAnswer c.val v = s.refuse R.ODE_ERR St.RANGE 192 := if_pos hbad
  exact ⟨_, (exec_fwAnswer hmay).trans (congrArg Host.Outcome.next hanswer), herr, hode, hbytes⟩

variable (hgood : bits v 31 28 = 0)
include hgood

theorem fwAnswer_late (hmay : s.MayWrite i (R.ODE_FWRES c.val))
    (hnone : s.ode.fwq.find? (fun r => r.core == c.val && r.taken && r.num == bits v 27 16) = none) :
    Runs (.fwAnswer i c v) s fun t => Counted R.ODE_CNT_FWLATE s t ∧ t.ode = s.ode ∧ SameBytes s t := by
  have hanswer : s.fwAnswer c.val v = s.bump R.ODE_CNT_FWLATE := by
    rw [State.fwAnswer, if_neg (not_not.mpr hgood), hnone]
  exact ⟨_, (exec_fwAnswer hmay).trans (congrArg Host.Outcome.next hanswer), counted_bump s _, bump_ode ..,
    sameBytes_of_mem (bump_mem ..)⟩

/-- The bytes that a core answers with. -/
def State.answerBytes (s : State) (r : FwReq) : List Byte :=
  if r.kind = Acc.WRITE then [] else s.bytes (fwBufAt r.num) (min (s.rf F.ODE_FWLEN_LEN) 1024)

/-- The state in which the answer is read. -/
def State.answerRead (s : State) (r : FwReq) : State :=
  s.eccRead Ini.ODE (fwBufAt r.num) (min (s.rf F.ODE_FWLEN_LEN) 1024)

theorem fwAnswer_of_find {r : FwReq}
    (hfind : s.ode.fwq.find? (fun r => r.core == c.val && r.taken && r.num == bits v 27 16) = some r) :
    s.fwAnswer c.val v = (s.answerRead r).fwDone r (bits v 7 0) (s.answerBytes r) := by
  rw [State.fwAnswer, if_neg (not_not.mpr hgood), hfind]
  rfl

end

theorem answerRead_held (s : State) (r : FwReq) : (s.answerRead r).ode = s.ode ∧ (s.answerRead r).mem = s.mem :=
  ⟨eccRead_ode .., eccRead_mem ..⟩

theorem answerRead_waiter (s : State) (r : FwReq) (n : Nat) : (s.answerRead r).waiter n = s.waiter n :=
  waiter_congr (congrArg OdeSt.req (answerRead_held s r).1) n

section

variable {s : State} {i : Init} {c : Fin 6} {v : Word} {r : FwReq}

/-- An answer that no request waits for ends its access. -/
theorem fwAnswer_quiet (hmay : s.MayWrite i (R.ODE_FWRES c.val)) (hgood : bits v 31 28 = 0)
    (hfind : s.ode.fwq.find? (fun r => r.core == c.val && r.taken && r.num == bits v 27 16) = some r)
    (hnone : s.waiter r.num = none) (hkind : r.kind ≠ Acc.WRITE) : Runs (.fwAnswer i c v) s fun t =>
      t.ode.fwq = s.ode.fwq.filter (fun x => x.num != r.num) ∧ SameBytes s t := by
  obtain ⟨hode, hmem⟩ := answerRead_held s r
  have hrun := (exec_fwAnswer hmay).trans (congrArg Host.Outcome.next (fwAnswer_of_find hgood hfind))
  have hdone := fwDone_of_no_waiter (q := r) ((answerRead_waiter s r r.num).trans hnone) (bits v 7 0) (s.answerBytes r)
  rw [if_neg fun h => hkind h.2] at hdone
  refine ⟨_, hrun.trans (congrArg Host.Outcome.next hdone), ?_, sameBytes_of_mem hmem⟩
  rw [fwDrop_ode, hode]

theorem fwAnswer_invoke (hmay : s.MayWrite i (R.ODE_FWRES c.val)) (hgood : bits v 31 28 = 0)
    (hfind : s.ode.fwq.find? (fun r => r.core == c.val && r.taken && r.num == bits v 27 16) = some r) {q : OdeReq}
    (hsome : s.waiter r.num = some q) (hkind : r.kind = Acc.INVOKE) : Runs (.fwAnswer i c v) s fun t =>
      t.ode.req = none ∧ t.ode.fwq = s.ode.fwq.filter (fun x => x.num != r.num) ∧ SameBytes s t := by
  obtain ⟨hode, hmem⟩ := answerRead_held s r
  have hends := accessEnds_invoke (s := s.answerRead r) (q := r) hkind (bits v 7 0) (s.answerBytes r)
  refine ⟨_, (exec_fwAnswer hmay).trans (congrArg Host.Outcome.next (fwAnswer_of_find hgood hfind)),
    hends.idle (by rw [answerRead_waiter, hsome]; rfl), hends.fwq.trans (by rw [hode]),
    fun a => (hends.sameBytes a).trans (sameBytes_of_mem hmem a)⟩

end

/-! #### The count of EV206 -/

/-- A register of the event counters keeps its value. -/
def CntStands (n : Nat) (s t : State) : Prop := t.rf (F.EVR_CNT_CNT n) = s.rf (F.EVR_CNT_CNT n)

theorem cntStands_setReg (s : State) {a n : Nat} (v : Word) (ha : a < 0x40010800 ∨ 0x40020000 ≤ a) (hn : n < 256) :
    CntStands n s (s.setReg a v) := by
  have hne : R.EVR_CNT n ≠ a := by
    unfold R.EVR_CNT
    omega
  exact congrArg (bits · 15 0) (reg_setReg_other s v hne)

theorem cntStands_subRoutes (s : State) (m : Nat) {n : Nat} (hn : n < 256) : ∀ k, k ≤ 256 → CntStands n s (s.subRoutes m k)
  | 0, _ => rfl
  | k + 1, hk => by
    have hplace : R.EVR_ROUTE k < 0x40010800 := by
      unfold R.EVR_ROUTE
      omega
    exact (cntStands_setReg _ _ (.inl hplace) hn).trans (cntStands_subRoutes s m hn k (Nat.le_of_succ_le hk))

theorem cntStands_odeKeep (s : State) {n : Nat} (hn : n < 256) : CntStands n s s.odeKeep :=
  (cntStands_setReg _ _ (.inr (by decide)) hn).trans (cntStands_setReg s _ (.inr (by decide)) hn)

theorem cntStands_setSessions (s : State) (f : List Session → List Session) {n : Nat} (hn : n < 256) :
    CntStands n s (s.setSessions f) := by
  have hsubs : ∀ u : State, CntStands n u u.syncSubs := fun u => by
    unfold State.syncSubs
    split
    · exact cntStands_subRoutes u _ hn 256 (Nat.le_refl _)
    · rfl
  exact (cntStands_odeKeep _ hn).trans (hsubs _)

theorem cntStands_bump (s : State) {a n : Nat} (ha : 0x40020000 ≤ a) (hn : n < 256) : CntStands n s (s.bump a) := by
  unfold State.bump State.bumpTo
  split
  · exact cntStands_setReg s _ (.inr ha) hn
  · rfl

/-- A response with a status that raises no event leaves the counts of the events. -/
theorem cntStands_reply (s : State) (r : OdeReq) {status : Nat} (hstate : status ≠ St.STATE) (hready : status ≠ St.NOTREADY)
    (detail : Nat) (payload : List Byte) {n : Nat} (hn : n < 256) : CntStands n s (s.reply r status detail payload) := by
  have hcounted : CntStands n s ((s.bump R.ODE_CNT_REQ).noteStatus status) := by
    have hreq := cntStands_bump s (a := R.ODE_CNT_REQ) (by decide) hn
    unfold State.noteStatus
    rw [if_neg hstate, if_neg hready]
    split
    · exact (cntStands_bump _ (by decide) hn).trans hreq
    · exact hreq
  have hnoted : CntStands n s (s.noted status) := (cntStands_odeKeep _ hn).trans hcounted
  rw [reply_eq]
  split
  · exact hnoted
  · next pdu _ =>
    have hset := cntStands_setSessions (s.noted status)
      (fun l => l.map (fun x => if x.sid = r.sid then x.stored pdu else x)) hn
    exact (congrArg (bits · 15 0) (reg_pduOut _ r.src pdu (R.EVR_CNT n))).trans (hset.trans hnoted)

theorem exec_fwTimeout_empty {s : State} (hnone : s.ode.fwq = []) : exec .fwTimeout s = .next s := by
  have hrun : exec .fwTimeout s = match s.ode.fwq with
    | [] => .next s
    | r :: _ => .next ((s.raise 206).fwDone r St.HW []) := rfl
  rw [hrun, hnone]

theorem exec_fwTimeout_cons {s : State} {r : FwReq} {rs : List FwReq} (hq : s.ode.fwq = r :: rs) :
    exec .fwTimeout s = .next ((s.raise 206).fwDone r St.HW []) := by
  have hrun : exec .fwTimeout s = match s.ode.fwq with
    | [] => .next s
    | r :: _ => .next ((s.raise 206).fwDone r St.HW []) := rfl
  rw [hrun, hq]

/-- An access that is not answered in time fails, unless a READ waits for it. -/
theorem accessEnds_fail {s : State} {q : FwReq} (hwait : s.waiter q.num = none ∨ q.kind ≠ Acc.READ) (v : List Byte) :
    AccessEnds s q (s.fwDone q St.HW v) ∧ CntStands 206 s (s.fwDone q St.HW v) := by
  have hfail : St.HW ≠ St.OK := by decide
  cases hnone : s.waiter q.num with
  | none =>
    rw [fwDone_of_no_waiter hnone, if_neg fun h => hfail h.1]
    exact ⟨.of_fwDrop hnone, rfl⟩
  | some r =>
    have hread : q.kind ≠ Acc.READ := hwait.resolve_left (by rw [hnone]; exact Option.some_ne_none r)
    rw [fwDone_of_fail hnone hread hfail]
    exact ⟨.of_answered hnone (reply_answered ..), cntStands_reply (s.fwDrop q.num) _ (by decide) (by decide) _ _ (by decide)⟩

theorem fwTimeout_runs {s : State} {r : FwReq} {rs : List FwReq} (hq : s.ode.fwq = r :: rs)
    (hwait : s.waiter r.num = none ∨ r.kind ≠ Acc.READ) : Runs .fwTimeout s fun t =>
      t.ode.fwq = s.ode.fwq.filter (fun x => x.num != r.num) ∧
        t.rf (F.EVR_CNT_CNT 206) = (s.rf (F.EVR_CNT_CNT 206) + 1) % 2 ^ 16 ∧
        (s.waiter r.num = none → t.ode.req = s.ode.req) ∧ ((s.waiter r.num).isSome → t.ode.req = none) ∧ SameBytes s t := by
  have hode : (s.raise 206).ode = s.ode := raise_ode ..
  have hmem : (s.raise 206).mem = s.mem := raise_mem ..
  have hcnt := rf_cnt_raise s (n := 206) (by decide) (by decide)
  have hwaiter : (s.raise 206).waiter r.num = s.waiter r.num := waiter_congr (congrArg OdeSt.req hode) _
  have hrun := exec_fwTimeout_cons hq
  generalize s.raise 206 = u at *
  rw [← hwaiter] at hwait
  obtain ⟨hends, hstands⟩ := accessEnds_fail hwait []
  exact ⟨_, hrun, hends.fwq.trans (by rw [hode]), hstands.trans hcnt,
    fun h => (hends.kept (hwaiter.trans h)).trans (by rw [hode]), fun h => hends.idle (by rw [hwaiter]; exact h),
    fun a => (hends.sameBytes a).trans (sameBytes_of_mem hmem a)⟩

/-! ### Timers of sessions (R456, R457) -/

theorem exec_sessionTimeout (s : State) (sid : Fin 256) : exec (.sessionTimeout sid) s =
    if s.ode.req.any (fun r => r.sid == sid.val) = true then .next s else .next (s.endSession sid.val) := rfl

theorem sessionTimeout_ends {s : State} {sid : Fin 256} (hidle : s.ode.req.any (fun r => r.sid == sid.val) = false) :
    Runs (.sessionTimeout sid) s fun t =>
      t.ode.sessions = s.ode.sessions.filter (fun x => x.sid != sid.val) ∧ RegsBut [R.ODE_STAT] s t ∧ SameBytes s t := by
  refine ⟨_, (exec_sessionTimeout s sid).trans (if_neg (by rw [hidle]; exact Bool.false_ne_true)), ?_,
    regsBut_setSessions s _, sameBytes_of_mem (Within.endSession (m := 4194305) (.refl s) ⟨rfl⟩ .mem rfl)⟩
  rw [endSession_ode]

/-! ### EVENT (R461, R462) -/

theorem setSession_mem (s : State) (sid : Nat) (f : Session → Session) : (s.setSession sid f).mem = s.mem :=
  Within.setSession (m := 4194305) (.refl s) ⟨rfl⟩ .mem rfl

theorem pduOut_mem (s : State) (src : Nat) (l : List Byte) : (s.pduOut src l).mem = s.mem :=
  Within.pduOut (m := 29360128) (.refl s) ⟨rfl⟩ .mem rfl

/-- A session whose oldest events leave. -/
def Session.eventsSent (x : Session) (l : List EvRec) : Session :=
  { x with seqOut := x.seqOut + 1, evq := x.evq.drop 32, sent := some ⟨x.seqOut + 1, l, 0⟩ }

/-- A session with another outstanding EVENT, or none. -/
def Session.withSent (x : Session) (e : Option EvSent) : Session := { x with sent := e }

section

variable {s : State} {sid : Fin 256} {x : Session} (hx : s.session sid.val = some x)
include hx

theorem exec_eventSend : exec (.eventSend sid) s =
    if (!x.up || x.sent.isSome || (x.evq.take 32).isEmpty) = true then .next s
    else match s.evPdu x (x.seqOut + 1) (x.evq.take 32) with
      | none => .next s
      | some pdu => .next ((s.setSession x.sid (fun y => y.eventsSent (x.evq.take 32))).pduOut x.src pdu) := by
  have hrun : exec (.eventSend sid) s = match s.session sid.val with
    | none => .next s
    | some x =>
      if (!x.up || x.sent.isSome || (x.evq.take 32).isEmpty) = true then .next s
      else match s.evPdu x (x.seqOut + 1) (x.evq.take 32) with
        | none => .next s
        | some pdu => .next ((s.setSession x.sid (fun y => y.eventsSent (x.evq.take 32))).pduOut x.src pdu) := rfl
  rw [hrun, hx]

/-- A change of the session, and what it leaves, whether or not a PDU then leaves. -/
theorem session_changed {f : Session → Session} (hf : ∀ y, (f y).sid = y.sid) :
    (s.setSession x.sid f).session sid.val = some (f x) := by
  rw [sid_of_session hx, session_setSession s hf, hx, Option.map_some]

theorem session_changed_sent {f : Session → Session} (hf : ∀ y, (f y).sid = y.sid) (src : Nat) (pdu : List Byte) :
    ((s.setSession x.sid f).pduOut src pdu).session sid.val = some (f x) :=
  (session_congr (pduOut_held ..).1 _).trans (session_changed hx hf)

theorem eventSend_runs {pdu : List Byte} (hup : x.up = true) (hidle : x.sent = none) (hsome : x.evq ≠ [])
    (hpdu : s.evPdu x (x.seqOut + 1) (x.evq.take 32) = some pdu) : Runs (.eventSend sid) s fun t =>
      (t.session sid.val).map (fun y => (y.seqOut, y.evq, y.sent.map (fun e => e.recs))) =
        some (x.seqOut + 1, x.evq.drop 32, some (x.evq.take 32)) ∧ SameBytes s t := by
  have hgo : ¬ (!x.up || x.sent.isSome || (x.evq.take 32).isEmpty) = true := by
    cases hq : x.evq with
    | nil => exact absurd hq hsome
    | cons e es =>
      rw [hup, hidle]
      exact Bool.false_ne_true
  have hrun := (exec_eventSend hx).trans (if_neg hgo)
  rw [hpdu] at hrun
  refine ⟨_, hrun, ?_, sameBytes_of_mem ((pduOut_mem ..).trans (setSession_mem ..))⟩
  rw [session_changed_sent hx (f := fun y => y.eventsSent (x.evq.take 32)) (fun _ => rfl), Option.map_some]
  rfl

theorem eventSend_outstanding (hsent : x.sent.isSome = true) : exec (.eventSend sid) s = .next s :=
  (exec_eventSend hx).trans (if_pos (by rw [hsent, Bool.or_true, Bool.true_or]))

theorem exec_eventAckTimeout {e : EvSent} (hsent : x.sent = some e) : exec (.eventAckTimeout sid) s =
    if 3 ≤ e.tries then .next ((s.setSession x.sid (fun y => y.withSent none)).evLost e.recs.length)
    else match s.evPdu x e.seq e.recs with
      | none => .next (s.setSession x.sid (fun y => y.withSent (some { e with tries := e.tries + 1 })))
      | some pdu =>
        .next ((s.setSession x.sid (fun y => y.withSent (some { e with tries := e.tries + 1 }))).pduOut x.src pdu) := by
  have hrun : exec (.eventAckTimeout sid) s = match s.session sid.val with
    | none => .next s
    | some x =>
      match x.sent with
      | none => .next s
      | some e =>
        if 3 ≤ e.tries then .next ((s.setSession x.sid (fun y => y.withSent none)).evLost e.recs.length)
        else match s.evPdu x e.seq e.recs with
          | none => .next (s.setSession x.sid (fun y => y.withSent (some { e with tries := e.tries + 1 })))
          | some pdu =>
            .next ((s.setSession x.sid (fun y => y.withSent (some { e with tries := e.tries + 1 }))).pduOut x.src pdu) := rfl
  rw [hrun, hx]
  dsimp only
  rw [hsent]

/-- After the last attempt the EVENT ends, and its records are lost. -/
theorem eventAckTimeout_ends {e : EvSent} (hsent : x.sent = some e) (hlast : 3 ≤ e.tries) :
    Runs (.eventAckTimeout sid) s fun t => (t.session sid.val).map (fun y => y.sent) = some none ∧ SameBytes s t := by
  have hode : ∀ u : State, (u.evLost e.recs.length).ode = u.ode := fun u => Within.evLost (m := 17) (.refl u) ⟨rfl⟩ .ode rfl
  have hmem : ∀ u : State, (u.evLost e.recs.length).mem = u.mem := fun u => Within.evLost (m := 17) (.refl u) ⟨rfl⟩ .mem rfl
  refine ⟨_, (exec_eventAckTimeout hx hsent).trans (if_pos hlast), ?_, sameBytes_of_mem ((hmem _).trans (setSession_mem ..))⟩
  rw [session_congr (congrArg OdeSt.sessions (hode _)), session_changed hx (f := fun y => y.withSent none) (fun _ => rfl),
    Option.map_some]
  rfl

theorem eventAckTimeout_again {e : EvSent} (hsent : x.sent = some e) (hfew : e.tries < 3) :
    Runs (.eventAckTimeout sid) s fun t =>
      (t.session sid.val).map (fun y => y.sent) = some (some { e with tries := e.tries + 1 }) ∧ SameBytes s t := by
  have hrun := (exec_eventAckTimeout hx hsent).trans (if_neg (Nat.not_le.mpr hfew))
  have hf : ∀ y : Session, (y.withSent (some { e with tries := e.tries + 1 })).sid = y.sid := fun _ => rfl
  cases hpdu : s.evPdu x e.seq e.recs with
  | none =>
    rw [hpdu] at hrun
    refine ⟨_, hrun, ?_, sameBytes_of_mem (setSession_mem ..)⟩
    rw [session_changed hx hf, Option.map_some]
    rfl
  | some pdu =>
    rw [hpdu] at hrun
    refine ⟨_, hrun, ?_, sameBytes_of_mem ((pduOut_mem ..).trans (setSession_mem ..))⟩
    rw [session_changed_sent hx hf, Option.map_some]
    rfl

end

theorem event_of_no_session {s : State} {sid : Fin 256} (hnone : s.session sid.val = none) :
    exec (.eventSend sid) s = .next s ∧ exec (.eventAckTimeout sid) s = .next s := by
  have hsend : exec (.eventSend sid) s = execEventSend sid s := rfl
  have hack : exec (.eventAckTimeout sid) s = execEventAckTimeout sid s := rfl
  rw [hsend, hack, execEventSend, execEventAckTimeout, hnone]
  exact ⟨rfl, rfl⟩

/-! ### Delivery (R461) -/

/-- A session whose queue takes a record. -/
def Session.queued (x : Session) (r : EvRec) : Session := { x with evq := x.evq ++ [r] }

theorem evDeliver_one (s : State) (r : EvRec) (x : Session) : s.evDeliver r [x] =
    if x.mask / 2 ^ r.event % 2 = 0 then s
    else if 64 ≤ x.evq.length then s.evLost 1 else s.setSession x.sid (fun y => y.queued r) := rfl

theorem exec_subscriptionDeliver_off {s : State} (hoff : s.rb F.EVR_SUBSTAT_SUBEN = false) :
    exec .subscriptionDeliver s = .next s := if_pos (by rw [hoff]; rfl)

theorem counted_evLost (s : State) : Counted R.ODE_CNT_EVLOST s (s.evLost 1) := fun hroom => by
  have hraise : (s.evLost 1).reg R.ODE_CNT_EVLOST = (s.bumpBy R.ODE_CNT_EVLOST 1).reg R.ODE_CNT_EVLOST :=
    reg_raise _ _ _ (by decide) (not_evrAddr_of_ge (by decide))
  rw [State.regN, hraise, State.bumpBy, reg_setRegN, if_pos rfl, BitVec.toNat_ofNat]
  omega

/-- The oldest entry of the FIFO is taken. -/
def State.fifoTaken (s : State) (es : List SubEntry) : State := { s with evr := { s.evr with fifo := es } }

theorem fifoTaken_held (s : State) (es : List SubEntry) : (s.fifoTaken es).evr.fifo = es ∧ (s.fifoTaken es).ode = s.ode ∧
    (s.fifoTaken es).mem = s.mem ∧ (s.fifoTaken es).regs = s.regs := ⟨rfl, rfl, rfl, rfl⟩

theorem exec_subscriptionDeliver_cons {s : State} {e : SubEntry} {es : List SubEntry} {x : Session}
    (hon : s.rb F.EVR_SUBSTAT_SUBEN = true) (hfifo : s.evr.fifo = e :: es) (hone : s.ode.sessions = [x]) :
    exec .subscriptionDeliver s = .next ((s.fifoTaken es).evDeliver ⟨e.event, e.count, e.stamp⟩ [x]) := by
  have hrun : exec .subscriptionDeliver s = execSubscriptionDeliver s := rfl
  rw [hrun, execSubscriptionDeliver, if_neg (by rw [hon]; decide), hfifo, ← hone]
  rfl

theorem subscriptionDeliver_runs {s : State} {e : SubEntry} {es : List SubEntry} {x : Session}
    (hon : s.rb F.EVR_SUBSTAT_SUBEN = true) (hfifo : s.evr.fifo = e :: es) (hone : s.ode.sessions = [x]) :
    Runs .subscriptionDeliver s fun t =>
      (x.mask / 2 ^ e.event % 2 = 0 → t.evr.fifo = es ∧ t.ode.sessions = [x]) ∧
        (x.mask / 2 ^ e.event % 2 = 1 → x.evq.length < 64 → t.evr.fifo = es ∧
          t.ode.sessions = [{ x with evq := x.evq ++ [⟨e.event, e.count, e.stamp⟩] }]) ∧
        (x.mask / 2 ^ e.event % 2 = 1 → 64 ≤ x.evq.length → t.ode.sessions = [x] ∧ Counted R.ODE_CNT_EVLOST s t) ∧
        SameBytes s t := by
  obtain ⟨htaken, hode, hmem, hregs⟩ := fifoTaken_held s es
  have hrun := exec_subscriptionDeliver_cons hon hfifo hone
  rw [← hode] at hone
  have hcounted : Counted R.ODE_CNT_EVLOST s ((s.fifoTaken es).evLost 1) := fun hroom => by
    have hreg : (s.fifoTaken es).regN R.ODE_CNT_EVLOST = s.regN R.ODE_CNT_EVLOST :=
      congrArg (fun l => (Sparse.get regDefault l _).toNat) hregs
    rw [counted_evLost _ (by rw [hreg]; exact hroom), hreg]
  generalize s.fifoTaken es = u at *
  refine ⟨_, hrun, ?_⟩
  rw [evDeliver_one]
  dsimp only
  by_cases hmask : x.mask / 2 ^ e.event % 2 = 0
  · rw [if_pos hmask]
    exact ⟨fun _ => ⟨htaken, hone⟩, fun h => absurd (hmask.symm.trans h) (by decide),
      fun h => absurd (hmask.symm.trans h) (by decide), sameBytes_of_mem hmem⟩
  · rw [if_neg hmask]
    by_cases hfull : 64 ≤ x.evq.length
    · rw [if_pos hfull]
      refine ⟨fun h => absurd h hmask, fun _ h => absurd hfull (Nat.not_le.mpr h), fun _ _ => ⟨?_, hcounted⟩,
        sameBytes_of_mem ((Within.evLost (m := 17) (.refl u) ⟨rfl⟩ .mem rfl : (u.evLost 1).mem = u.mem).trans hmem)⟩
      have hodel : (u.evLost 1).ode = u.ode := Within.evLost (m := 17) (.refl u) ⟨rfl⟩ .ode rfl
      rw [hodel, hone]
    · rw [if_neg hfull]
      refine ⟨fun h => absurd h hmask, fun _ _ => ⟨?_, ?_⟩, fun _ h => absurd h hfull,
        sameBytes_of_mem ((setSession_mem ..).trans hmem)⟩
      · have hevr : (u.setSession x.sid (fun y => y.queued ⟨e.event, e.count, e.stamp⟩)).evr = u.evr :=
          Within.setSession (m := 4194305) (.refl u) ⟨rfl⟩ .evr rfl
        rw [hevr, htaken]
      · rw [setSession_ode, hone, List.map_cons, if_pos rfl, List.map_nil]
        rfl

end Sys2Proof.Machine
end

section
/-! PROOFS. The CAN ports, and the obligation on the transports (O55). -/

namespace Sys2Proof.Machine

/-! ### Segments of HDP (R459) -/

theorem setSeg_ode (s : State) (p : Nat) (x : Option (List Byte × Nat)) : (s.setSeg p x).ode =
    { s.ode with canIn := Sparse.put (fun _ => none) s.ode.canIn p x } := rfl

theorem segDrop_ode (s : State) (p : Nat) : (s.segDrop p).ode =
    { s.ode with canIn := Sparse.put (fun _ => none) s.ode.canIn p none } := by
  rw [State.segDrop, bump_ode, setSeg_ode]

theorem segDrop_mem (s : State) (p : Nat) : (s.segDrop p).mem = s.mem :=
  Within.segDrop (m := 4194305) (.refl s) ⟨rfl⟩ .mem rfl

theorem regsBut_segDrop (s : State) (p : Nat) : RegsBut [R.ODE_CNT_CANSEG] s (s.segDrop p) :=
  (regsBut_setOde (f := fun o => { o with canIn := Sparse.put (fun _ => none) o.canIn p none }) .refl).bump
    (List.mem_singleton_self _)

theorem counted_segDrop (s : State) (p : Nat) : Counted R.ODE_CNT_CANSEG s (s.segDrop p) := counted_bump (s.setSeg p none) _

/-- A segment with header byte `b` joins a transfer: the PDU is complete, or the next segment is awaited. -/
def SegJoins (p b : Nat) (sofar tail : List Byte) (num : Nat) (s t : State) : Prop :=
  SameBytes s t ∧
    (if b / 64 % 2 = 1 then t.ode.rxq = s.ode.rxq ++ [(1 + p, sofar ++ tail)] ∧ Sparse.getO t.ode.canIn p = none
     else Sparse.getO t.ode.canIn p = some (sofar ++ tail, (num + 1) % 64) ∧ t.ode.rxq = s.ode.rxq)

theorem segJoin_joins (s : State) (p b : Nat) (sofar tail : List Byte) (num : Nat) :
    SegJoins p b sofar tail num s (s.segJoin p sofar num (b / 64 % 2 == 1) tail) := by
  refine ⟨sameBytes_of_mem (Within.segJoin (m := 4194305) (.refl s) ⟨rfl⟩ .mem rfl), ?_⟩
  by_cases hlast : b / 64 % 2 = 1
  · have hjoin : s.segJoin p sofar num true tail = (s.setSeg p none).pduIn (1 + p) (sofar ++ tail) := rfl
    rw [if_pos hlast, beq_iff_eq.mpr hlast, hjoin, pduIn_ode, setSeg_ode]
    exact ⟨rfl, getO_put_same ..⟩
  · have hjoin : s.segJoin p sofar num false tail = s.setSeg p (some (sofar ++ tail, (num + 1) % 64)) := rfl
    rw [if_neg hlast, beq_false_of_ne hlast, hjoin, setSeg_ode]
    exact ⟨getO_put_same .., rfl⟩

/-- A transfer that starts over what counts only registers. -/
theorem SegJoins.of_counted {p b : Nat} {sofar tail : List Byte} {num : Nat} {s u t : State} (hode : u.ode = s.ode)
    (hmem : u.mem = s.mem) (h : SegJoins p b sofar tail num u t) : SegJoins p b sofar tail num s t := by
  obtain ⟨hbytes, hjoin⟩ := h
  rw [hode] at hjoin
  exact ⟨fun a => (hbytes a).trans (sameBytes_of_mem hmem a), hjoin⟩

section

variable {s : State} {p : Fin 2} {fd : Bool} {data : List Byte}

/-- A frame on the HDP identifier is counted. -/
def State.segCounted (s : State) (p : Nat) : State := s.bump (R.CAN_CNT_RXOK p)

theorem segCounted_held (s : State) (p : Nat) : (s.segCounted p).ode = s.ode ∧ (s.segCounted p).mem = s.mem :=
  ⟨bump_ode .., bump_mem ..⟩

theorem counted_after_segCounted {p : Fin 2} {t : State} (h : Counted R.ODE_CNT_CANSEG (s.segCounted p.val) t) :
    Counted R.ODE_CNT_CANSEG s t := by
  have hplaces : ∀ p : Fin 2, R.ODE_CNT_CANSEG ∉ [R.CAN_CNT_RXOK p.val] := by decide
  exact h.after (RegsBut.refl.bump (List.mem_singleton_self _)) ⟨hplaces p, by decide⟩

theorem exec_canSegmentReceive : exec (.canSegmentReceive p fd data) s =
    if (!s.canOn p.val || !s.canServes p.val) = true then .next s
    else if (!fd || data.isEmpty) = true then .next ((s.segCounted p.val).bump R.ODE_CNT_CANSEG)
    else if 128 ≤ (data.headD 0).toNat then
      if (data.headD 0).toNat % 64 = 0 then
        .next ((if (Sparse.getO (s.segCounted p.val).ode.canIn p.val).isSome = true then
          (s.segCounted p.val).bump R.ODE_CNT_CANSEG else s.segCounted p.val).segJoin p.val [] 0
            ((data.headD 0).toNat / 64 % 2 == 1) data.tail)
      else .next ((if (Sparse.getO (s.segCounted p.val).ode.canIn p.val).isSome = true then
          (s.segCounted p.val).bump R.ODE_CNT_CANSEG else s.segCounted p.val).segDrop p.val)
    else
      match Sparse.getO (s.segCounted p.val).ode.canIn p.val with
      | none => .next ((s.segCounted p.val).bump R.ODE_CNT_CANSEG)
      | some (l, n) =>
        if (data.headD 0).toNat % 64 = n then
          .next ((s.segCounted p.val).segJoin p.val l n ((data.headD 0).toNat / 64 % 2 == 1) data.tail)
        else .next ((s.segCounted p.val).segDrop p.val) := rfl

theorem canSegment_idle (h : s.canOn p.val = false ∨ s.canServes p.val = false) :
    exec (.canSegmentReceive p fd data) s = .next s :=
  exec_canSegmentReceive.trans (if_pos (by
    rcases h with h | h
    · rw [h]; rfl
    · rw [h, Bool.not_false, Bool.or_true]))

variable (hon : s.canOn p.val = true) (hserves : s.canServes p.val = true) (hfd : fd = true) (hdata : data ≠ [])
include hon hserves hfd hdata

theorem exec_canSegment_taken : exec (.canSegmentReceive p fd data) s =
    if 128 ≤ (data.headD 0).toNat then
      if (data.headD 0).toNat % 64 = 0 then
        .next ((if (Sparse.getO (s.segCounted p.val).ode.canIn p.val).isSome = true then
          (s.segCounted p.val).bump R.ODE_CNT_CANSEG else s.segCounted p.val).segJoin p.val [] 0
            ((data.headD 0).toNat / 64 % 2 == 1) data.tail)
      else .next ((if (Sparse.getO (s.segCounted p.val).ode.canIn p.val).isSome = true then
          (s.segCounted p.val).bump R.ODE_CNT_CANSEG else s.segCounted p.val).segDrop p.val)
    else
      match Sparse.getO (s.segCounted p.val).ode.canIn p.val with
      | none => .next ((s.segCounted p.val).bump R.ODE_CNT_CANSEG)
      | some (l, n) =>
        if (data.headD 0).toNat % 64 = n then
          .next ((s.segCounted p.val).segJoin p.val l n ((data.headD 0).toNat / 64 % 2 == 1) data.tail)
        else .next ((s.segCounted p.val).segDrop p.val) := by
  have hempty : ¬ (!fd || data.isEmpty) = true := by
    rw [hfd, Bool.not_true, Bool.false_or, List.isEmpty_iff]
    exact hdata
  rw [exec_canSegmentReceive, if_neg (by rw [hon, hserves]; decide), if_neg hempty]

/-- A first segment starts a transfer, whatever was under way. -/
theorem canSegment_first (hfirst : 128 ≤ (data.headD 0).toNat) (hnum : (data.headD 0).toNat % 64 = 0) :
    Runs (.canSegmentReceive p fd data) s
      (SegJoins p.val (data.headD 0).toNat [] data.tail 0 s) := by
  obtain ⟨hode, hmem⟩ := segCounted_held s p.val
  refine ⟨_, (exec_canSegment_taken hon hserves hfd hdata).trans ((if_pos hfirst).trans (if_pos hnum)), ?_⟩
  split
  · exact (segJoin_joins _ _ _ _ _ _).of_counted ((bump_ode ..).trans hode) ((bump_mem ..).trans hmem)
  · exact (segJoin_joins _ _ _ _ _ _).of_counted hode hmem

variable (hlater : (data.headD 0).toNat < 128)
include hlater

theorem exec_canSegment_later : exec (.canSegmentReceive p fd data) s =
    match Sparse.getO s.ode.canIn p.val with
      | none => .next ((s.segCounted p.val).bump R.ODE_CNT_CANSEG)
      | some (l, n) =>
        if (data.headD 0).toNat % 64 = n then
          .next ((s.segCounted p.val).segJoin p.val l n ((data.headD 0).toNat / 64 % 2 == 1) data.tail)
        else .next ((s.segCounted p.val).segDrop p.val) := by
  obtain ⟨hode, -⟩ := segCounted_held s p.val
  rw [exec_canSegment_taken hon hserves hfd hdata, if_neg (Nat.not_le.mpr hlater), hode]

/-- The next segment joins the transfer. -/
theorem canSegment_next {l : List Byte} (hold : Sparse.getO s.ode.canIn p.val = some (l, (data.headD 0).toNat % 64)) :
    Runs (.canSegmentReceive p fd data) s
      (SegJoins p.val (data.headD 0).toNat l data.tail ((data.headD 0).toNat % 64) s) := by
  obtain ⟨hode, hmem⟩ := segCounted_held s p.val
  have hrun := exec_canSegment_later hon hserves hfd hdata hlater
  rw [hold] at hrun
  exact ⟨_, hrun.trans (if_pos rfl), (segJoin_joins _ _ _ _ _ _).of_counted hode hmem⟩

/-- Another segment than the next discards the transfer. -/
theorem canSegment_gap {l : List Byte} {n : Nat} (hold : Sparse.getO s.ode.canIn p.val = some (l, n))
    (hgap : (data.headD 0).toNat % 64 ≠ n) : Runs (.canSegmentReceive p fd data) s fun t =>
      Sparse.getO t.ode.canIn p.val = none ∧ t.ode.rxq = s.ode.rxq ∧ Counted R.ODE_CNT_CANSEG s t ∧ SameBytes s t := by
  obtain ⟨hode, hmem⟩ := segCounted_held s p.val
  have hcounted := counted_after_segCounted (counted_segDrop (s.segCounted p.val) p.val)
  have hrun := exec_canSegment_later hon hserves hfd hdata hlater
  rw [hold] at hrun
  refine ⟨_, hrun.trans (if_neg hgap), ?_, ?_, hcounted,
    sameBytes_of_mem ((segDrop_mem ..).trans hmem)⟩
  · rw [segDrop_ode]
    exact getO_put_same ..
  · rw [segDrop_ode, hode]

theorem canSegment_stray (hold : Sparse.getO s.ode.canIn p.val = none) : Runs (.canSegmentReceive p fd data) s fun t =>
    t.ode = s.ode ∧ Counted R.ODE_CNT_CANSEG s t ∧ SameBytes s t := by
  obtain ⟨hode, hmem⟩ := segCounted_held s p.val
  have hrun := exec_canSegment_later hon hserves hfd hdata hlater
  rw [hold] at hrun
  exact ⟨_, hrun, (bump_ode ..).trans hode,
    counted_after_segCounted (counted_bump (s.segCounted p.val) _), sameBytes_of_mem ((bump_mem ..).trans hmem)⟩

end

theorem exec_canSegmentTimeout (s : State) (p : Fin 2) : exec (.canSegmentTimeout p) s =
    if (Sparse.getO s.ode.canIn p.val).isSome = true then .next (s.segDrop p.val) else .next s := rfl

theorem canSegmentTimeout_idle {s : State} {p : Fin 2} (hold : Sparse.getO s.ode.canIn p.val = none) :
    exec (.canSegmentTimeout p) s = .next s :=
  (exec_canSegmentTimeout s p).trans (if_neg (by rw [hold]; exact Bool.false_ne_true))

theorem canSegmentTimeout_runs {s : State} {p : Fin 2} (hold : (Sparse.getO s.ode.canIn p.val).isSome = true) :
    Runs (.canSegmentTimeout p) s fun t =>
      Sparse.getO t.ode.canIn p.val = none ∧ Counted R.ODE_CNT_CANSEG s t ∧ RegsBut [R.ODE_CNT_CANSEG] s t ∧
        SameBytes s t := by
  refine ⟨_, (exec_canSegmentTimeout s p).trans (if_pos hold), ?_, counted_segDrop s _, regsBut_segDrop s _,
    sameBytes_of_mem (segDrop_mem ..)⟩
  rw [segDrop_ode]
  exact getO_put_same ..

/-! ### Frames of firmware (R474) -/

theorem can_setCan (s : State) (p : Nat) (f : CanSt → CanSt) : (s.setCan p f).can p = f (s.can p) := by
  unfold State.setCan State.can
  split
  · rfl
  · rfl

theorem setCan_held (s : State) (p : Nat) (f : CanSt → CanSt) : (s.setCan p f).regs = s.regs ∧ (s.setCan p f).mem = s.mem ∧
    (s.setCan p f).out = s.out := by
  unfold State.setCan
  split
  · exact ⟨rfl, rfl, rfl⟩
  · exact ⟨rfl, rfl, rfl⟩

theorem can_of_parts {s t : State} (h0 : t.can0 = s.can0) (h1 : t.can1 = s.can1) (p : Nat) : t.can p = s.can p := by
  rw [State.can, h0, h1, State.can]

theorem can_bump (s : State) (a p : Nat) : (s.bump a).can p = s.can p :=
  can_of_parts (Within.bump (m := 1) (.refl s) ⟨rfl⟩ .can0 rfl) (Within.bump (m := 1) (.refl s) ⟨rfl⟩ .can1 rfl) p

theorem regsBut_setCan {l : List Nat} {s t : State} {p : Nat} {f : CanSt → CanSt} (h : RegsBut l s t) :
    RegsBut l s (t.setCan p f) := h.trans (.of_eq (setCan_held t p f).1)

section

variable {s : State} {i : Init} {p : Fin 2} {v : Word}

theorem exec_canTxfPush (hmay : s.MayWrite i (R.CAN_TXF_PUSH p.val)) :
    exec (.canTxfPush i p v) s = .next (s.canPush p.val v) :=
  congrArg Host.Outcome.next (onWrite_of_mayWrite s i _ _ hmay)

theorem canTxfPush_full (hmay : s.MayWrite i (R.CAN_TXF_PUSH p.val)) (hpush : v.getLsbD 0 = true)
    (hfull : 16 ≤ (s.can p.val).tx.length) : Runs (.canTxfPush i p v) s fun t =>
      t.reg (R.CAN_ERR p.val) = 0x105 ∧ t.can p.val = s.can p.val ∧ SameBytes s t := by
  have herr : ∀ p : Fin 2, 0x40020000 ≤ R.CAN_ERR p.val := by decide
  have hrun : s.canPush p.val v = s.refuse (R.CAN_ERR p.val) St.BUSY 192 := by
    unfold State.canPush
    rw [if_neg (by rw [hpush]; decide), if_pos hfull]
  refine ⟨_, (exec_canTxfPush hmay).trans (congrArg Host.Outcome.next hrun), ?_, ?_, sameBytes_of_mem (refuse_mem ..)⟩
  · exact (reg_refuse s _ _ _ _ (by decide) (not_evrAddr_of_ge (herr p))).trans (if_pos rfl)
  · exact can_of_parts (Within.refuse (m := 17) (.refl s) ⟨rfl⟩ .can0 rfl)
      (Within.refuse (m := 17) (.refl s) ⟨rfl⟩ .can1 rfl) _

theorem canTxfPush_queued (hmay : s.MayWrite i (R.CAN_TXF_PUSH p.val)) (hpush : v.getLsbD 0 = true)
    (hroom : (s.can p.val).tx.length < 16) : Runs (.canTxfPush i p v) s fun t => t.regs = s.regs ∧ SameBytes s t ∧
      (t.can p.val).tx = (s.can p.val).tx ++ [⟨s.regN (R.CAN_TXF_HDR p.val), s.regN (R.CAN_TXF_INFO p.val),
        wordBytes ((List.range 16).map (fun k => s.reg (R.CAN_TXF_DATA p.val k)))⟩] := by
  have hrun : s.canPush p.val v = s.setCan p.val (fun c => { c with tx := c.tx ++ [⟨s.regN (R.CAN_TXF_HDR p.val),
      s.regN (R.CAN_TXF_INFO p.val), wordBytes ((List.range 16).map (fun k => s.reg (R.CAN_TXF_DATA p.val k)))⟩] }) := by
    unfold State.canPush
    rw [if_neg (by rw [hpush]; decide), if_neg (Nat.not_le.mpr hroom)]
  obtain ⟨hregs, hmem, -⟩ := setCan_held s p.val (fun c => { c with tx := c.tx ++ [⟨s.regN (R.CAN_TXF_HDR p.val),
      s.regN (R.CAN_TXF_INFO p.val), wordBytes ((List.range 16).map (fun k => s.reg (R.CAN_TXF_DATA p.val k)))⟩] })
  exact ⟨_, (exec_canTxfPush hmay).trans (congrArg Host.Outcome.next hrun), hregs, sameBytes_of_mem hmem,
    congrArg CanSt.tx (can_setCan ..)⟩

/-! #### A frame leaves -/

theorem exec_canFrameSent : exec (.canFrameSent p) s =
    if (!s.canOn p.val || s.rb (F.CAN_CTRL_LISTEN p.val) || s.rf (F.CAN_STAT_STATE p.val) == 2) = true then .next s
    else match (s.can p.val).hdp, (s.can p.val).tx with
      | f :: fs, _ => .next ((s.setCan p.val (fun c => { c with hdp := fs })).canSentOne p.val f)
      | [], f :: fs => .next ((s.setCan p.val (fun c => { c with tx := fs })).canSentOne p.val f)
      | [], [] => .next s := rfl

theorem canFrameSent_idle
    (h : s.canOn p.val = false ∨ s.rb (F.CAN_CTRL_LISTEN p.val) = true ∨ s.rf (F.CAN_STAT_STATE p.val) = 2) :
    exec (.canFrameSent p) s = .next s :=
  exec_canFrameSent.trans (if_pos (by
    rcases h with h | h | h
    · rw [h]; rfl
    · rw [h, Bool.or_true, Bool.true_or]
    · rw [h, beq_self_eq_true, Bool.or_true]))

/-- A frame that has left its queue is counted and seen on the bus. -/
theorem canSentOne_leaves (s : State) (p : Fin 2) (g : CanSt → CanSt) (f : CanFrame) :
    ((s.setCan p.val g).canSentOne p.val f).out = .canTx p.val f.hdr f.bytes :: s.out ∧
      ((s.setCan p.val g).canSentOne p.val f).can p.val = g (s.can p.val) ∧
      Counted (R.CAN_CNT_TXOK p.val) s ((s.setCan p.val g).canSentOne p.val f) ∧
      SameBytes s ((s.setCan p.val g).canSentOne p.val f) := by
  have hplace : ∀ p : Fin 2, 0x40020000 ≤ R.CAN_CNT_TXOK p.val := by decide
  obtain ⟨hregs, hmem, hout⟩ := setCan_held s p.val g
  have hcan := can_setCan s p.val g
  generalize s.setCan p.val g = u at *
  have hbumped : Counted (R.CAN_CNT_TXOK p.val) s (u.bump (R.CAN_CNT_TXOK p.val)) :=
    (counted_bump u _).after (l := []) (.of_eq hregs) ⟨List.not_mem_nil, hplace p⟩
  have hbout : (u.bump (R.CAN_CNT_TXOK p.val)).out = u.out := Within.bump (m := 1) (.refl u) ⟨rfl⟩ .out rfl
  have hbcan := can_bump u (R.CAN_CNT_TXOK p.val) p.val
  have hbmem := bump_mem u (R.CAN_CNT_TXOK p.val)
  unfold State.canSentOne
  generalize u.bump (R.CAN_CNT_TXOK p.val) = w at *
  exact ⟨congrArg (List.cons _) (hbout.trans hout), hbcan.trans hcan, hbumped, sameBytes_of_mem (hbmem.trans hmem)⟩

variable (hon : s.canOn p.val = true) (hlisten : s.rb (F.CAN_CTRL_LISTEN p.val) = false)
  (hbus : s.rf (F.CAN_STAT_STATE p.val) ≠ 2)
include hon hlisten hbus

theorem exec_canFrameSent_on : exec (.canFrameSent p) s =
    match (s.can p.val).hdp, (s.can p.val).tx with
      | f :: fs, _ => .next ((s.setCan p.val (fun c => { c with hdp := fs })).canSentOne p.val f)
      | [], f :: fs => .next ((s.setCan p.val (fun c => { c with tx := fs })).canSentOne p.val f)
      | [], [] => .next s :=
  exec_canFrameSent.trans (if_neg (by rw [hon, hlisten, beq_false_of_ne hbus]; decide))

theorem canFrameSent_hdp {f : CanFrame} {fs : List CanFrame} (hq : (s.can p.val).hdp = f :: fs) :
    Runs (.canFrameSent p) s fun t => t.out = .canTx p.val f.hdr f.bytes :: s.out ∧
      t.can p.val = { s.can p.val with hdp := fs } ∧ Counted (R.CAN_CNT_TXOK p.val) s t ∧ SameBytes s t := by
  refine ⟨(s.setCan p.val (fun c => { c with hdp := fs })).canSentOne p.val f, ?_, canSentOne_leaves ..⟩
  rw [exec_canFrameSent_on hon hlisten hbus, hq]

theorem canFrameSent_tx {f : CanFrame} {fs : List CanFrame} (hnone : (s.can p.val).hdp = [])
    (hq : (s.can p.val).tx = f :: fs) : Runs (.canFrameSent p) s fun t => t.out = .canTx p.val f.hdr f.bytes :: s.out ∧
      t.can p.val = { s.can p.val with tx := fs } ∧ Counted (R.CAN_CNT_TXOK p.val) s t ∧ SameBytes s t := by
  refine ⟨(s.setCan p.val (fun c => { c with tx := fs })).canSentOne p.val f, ?_, canSentOne_leaves ..⟩
  rw [exec_canFrameSent_on hon hlisten hbus, hnone, hq]

end

/-! #### A frame arrives -/

section

variable {s : State} {p : Fin 2} {hdr : BitVec 31} {info : BitVec 6} {data : List Byte}

theorem exec_canFrameReceive (hon : s.canOn p.val = true) (hother : s.hdpId p.val hdr.toNat = false) :
    exec (.canFrameReceive p hdr info data) s =
      if 32 ≤ ((s.bump (R.CAN_CNT_RXOK p.val)).can p.val).rx.length then
        .next ((s.bump (R.CAN_CNT_RXOK p.val)).bump (R.CAN_CNT_RXOVF p.val))
      else .next ((s.bump (R.CAN_CNT_RXOK p.val)).setCan p.val
        (fun c => { c with rx := c.rx ++ [⟨hdr.toNat, info.toNat, data⟩] })) := by
  have hrun : exec (.canFrameReceive p hdr info data) s = execCanFrameReceive p hdr info data s := rfl
  rw [hrun, execCanFrameReceive, if_neg (by rw [hon]; decide)]
  dsimp only
  rw [if_neg (by rw [hother]; exact Bool.false_ne_true)]

theorem canFrameReceive_queued (hon : s.canOn p.val = true) (hother : s.hdpId p.val hdr.toNat = false)
    (hroom : (s.can p.val).rx.length < 32) : Runs (.canFrameReceive p hdr info data) s fun t =>
      (t.can p.val).rx = (s.can p.val).rx ++ [⟨hdr.toNat, info.toNat, data⟩] ∧ Counted (R.CAN_CNT_RXOK p.val) s t ∧
        SameBytes s t := by
  have hplace : ∀ p : Fin 2, 0x40020000 ≤ R.CAN_CNT_RXOK p.val := by decide
  have hcan := can_bump s (R.CAN_CNT_RXOK p.val) p.val
  have hmem := bump_mem s (R.CAN_CNT_RXOK p.val)
  have hcounted := counted_bump s (R.CAN_CNT_RXOK p.val)
  have hrun := exec_canFrameReceive (info := info) (data := data) hon hother
  generalize s.bump (R.CAN_CNT_RXOK p.val) = u at *
  rw [hcan, if_neg (Nat.not_le.mpr hroom)] at hrun
  obtain ⟨hregs, hmem', -⟩ := setCan_held u p.val (fun c => { c with rx := c.rx ++ [⟨hdr.toNat, info.toNat, data⟩] })
  refine ⟨_, hrun, ?_, hcounted.andThen (l := []) (.of_eq hregs) ⟨List.not_mem_nil, hplace p⟩,
    sameBytes_of_mem (hmem'.trans hmem)⟩
  rw [can_setCan, hcan]

theorem canFrameReceive_lost (hon : s.canOn p.val = true) (hother : s.hdpId p.val hdr.toNat = false)
    (hfull : 32 ≤ (s.can p.val).rx.length) : Runs (.canFrameReceive p hdr info data) s fun t =>
      t.can p.val = s.can p.val ∧ Counted (R.CAN_CNT_RXOVF p.val) s t ∧ SameBytes s t := by
  have hplace : ∀ p : Fin 2, R.CAN_CNT_RXOVF p.val ∉ [R.CAN_CNT_RXOK p.val] ∧ 0x40020000 ≤ R.CAN_CNT_RXOVF p.val := by decide
  have hcan := can_bump s (R.CAN_CNT_RXOK p.val) p.val
  have hmem := bump_mem s (R.CAN_CNT_RXOK p.val)
  have hbut : RegsBut [R.CAN_CNT_RXOK p.val] s (s.bump (R.CAN_CNT_RXOK p.val)) := RegsBut.refl.bump (List.mem_singleton_self _)
  have hrun := exec_canFrameReceive (info := info) (data := data) hon hother
  generalize s.bump (R.CAN_CNT_RXOK p.val) = u at *
  rw [hcan, if_pos hfull] at hrun
  exact ⟨_, hrun, (can_bump ..).trans hcan, (counted_bump u _).after hbut (hplace p),
    sameBytes_of_mem ((bump_mem ..).trans hmem)⟩

/-! #### The state of the bus -/

theorem canStat_places : ∀ p : Fin 2, 0x40020000 ≤ R.CAN_STAT p.val ∧ R.CAN_STAT p.val ≠ R.CAN_CNT_BUSOFF p.val := by decide

theorem canStat_apart (s : State) {p : Nat} (n : Nat) :
    (s.wf (F.CAN_STAT_TEC p) n).rf (F.CAN_STAT_STATE p) = s.rf (F.CAN_STAT_STATE p) ∧
      (s.wf (F.CAN_STAT_REC p) n).rf (F.CAN_STAT_STATE p) = s.rf (F.CAN_STAT_STATE p) ∧
      (s.wf (F.CAN_STAT_REC p) n).rf (F.CAN_STAT_TEC p) = s.rf (F.CAN_STAT_TEC p) ∧
      (s.wf (F.CAN_STAT_STATE p) n).rf (F.CAN_STAT_TEC p) = s.rf (F.CAN_STAT_TEC p) ∧
      (s.wf (F.CAN_STAT_STATE p) n).rf (F.CAN_STAT_REC p) = s.rf (F.CAN_STAT_REC p) :=
  ⟨rf_wf_apart s n (by simp [F.CAN_STAT_TEC, F.CAN_STAT_STATE]), rf_wf_apart s n (by simp [F.CAN_STAT_REC, F.CAN_STAT_STATE]),
    rf_wf_apart s n (by simp [F.CAN_STAT_REC, F.CAN_STAT_TEC]), rf_wf_apart s n (by simp [F.CAN_STAT_STATE, F.CAN_STAT_TEC]),
    rf_wf_apart s n (by simp [F.CAN_STAT_STATE, F.CAN_STAT_REC])⟩

/-- The error counters are shown. -/
def State.canCounters (s : State) (p tec rec : Nat) : State := (s.wf (F.CAN_STAT_TEC p) tec).wf (F.CAN_STAT_REC p) rec

theorem canCounters_fields (s : State) (p : Nat) {tec rec : Nat} (htec : tec < 256) (hrec : rec < 256) :
    (s.canCounters p tec rec).rf (F.CAN_STAT_STATE p) = s.rf (F.CAN_STAT_STATE p) ∧
      (s.canCounters p tec rec).rf (F.CAN_STAT_TEC p) = tec ∧ (s.canCounters p tec rec).rf (F.CAN_STAT_REC p) = rec := by
  obtain ⟨hstate, -⟩ := canStat_apart s (p := p) tec
  obtain ⟨-, hstate', htec', -⟩ := canStat_apart (s.wf (F.CAN_STAT_TEC p) tec) (p := p) rec
  have hwide : ∀ (u : State) (n : Nat), n < 256 → (u.wf (F.CAN_STAT_TEC p) n).rf (F.CAN_STAT_TEC p) = n ∧
      (u.wf (F.CAN_STAT_REC p) n).rf (F.CAN_STAT_REC p) = n := fun u n hn =>
    ⟨(rf_wf_same u (F.CAN_STAT_TEC p) n (by simp [F.CAN_STAT_TEC]) (by simp [F.CAN_STAT_TEC])).trans (Nat.mod_eq_of_lt hn),
      (rf_wf_same u (F.CAN_STAT_REC p) n (by simp [F.CAN_STAT_REC]) (by simp [F.CAN_STAT_REC])).trans (Nat.mod_eq_of_lt hn)⟩
  exact ⟨hstate'.trans hstate, htec'.trans (hwide s tec htec).1, (hwide _ rec hrec).2⟩

/-- The new bus state, counted where it is bus-off, with its event. -/
def State.canEntered (s : State) (p code : Nat) : State :=
  (if code = 2 then (s.wf (F.CAN_STAT_STATE p) code).bump (R.CAN_CNT_BUSOFF p) else s.wf (F.CAN_STAT_STATE p) code).raise (203 + p)

theorem exec_canBusState (s : State) (p : Fin 2) (code : Fin 3) (tec rec : BitVec 8) : exec (.canBusState p code tec rec) s =
    if s.rf (F.CAN_STAT_STATE p.val) = code.val then .next (s.canCounters p.val tec.toNat rec.toNat)
    else .next ((s.canCounters p.val tec.toNat rec.toNat).canEntered p.val code.val) := rfl

theorem regsBut_canEntered (s : State) (p : Fin 2) (code : Nat) :
    RegsBut [R.CAN_STAT p.val, R.CAN_CNT_BUSOFF p.val] s (s.canEntered p.val code) ∧ (s.canEntered p.val code).mem = s.mem ∧
      (s.canEntered p.val code).reg (R.CAN_STAT p.val) = (s.wf (F.CAN_STAT_STATE p.val) code).reg (R.CAN_STAT p.val) := by
  obtain ⟨hstat, hne⟩ := canStat_places p
  have hwf : RegsBut [R.CAN_STAT p.val, R.CAN_CNT_BUSOFF p.val] s (s.wf (F.CAN_STAT_STATE p.val) code) :=
    RegsBut.refl.wf List.mem_cons_self
  have hafter : RegsBut [R.CAN_CNT_BUSOFF p.val] (s.wf (F.CAN_STAT_STATE p.val) code) (s.canEntered p.val code) :=
    RegsBut.raise (.ite (RegsBut.refl.bump (List.mem_singleton_self _)) .refl) (by omega)
  refine ⟨hwf.trans (hafter.weaken (List.subset_cons_self _ _)), ?_,
    hafter.reg (fun h => hne (List.mem_singleton.mp h)) (not_evrAddr_of_ge hstat)⟩
  unfold State.canEntered
  rw [raise_mem]
  split
  · exact (bump_mem ..).trans (wf_mem ..)
  · exact wf_mem ..

theorem canBusState_runs (s : State) (p : Fin 2) (code : Fin 3) (tec rec : BitVec 8) :
    Runs (.canBusState p code tec rec) s fun t =>
      t.rf (F.CAN_STAT_STATE p.val) = code.val ∧ t.rf (F.CAN_STAT_TEC p.val) = tec.toNat ∧
        t.rf (F.CAN_STAT_REC p.val) = rec.toNat ∧ RegsBut [R.CAN_STAT p.val, R.CAN_CNT_BUSOFF p.val] s t ∧ SameBytes s t := by
  obtain ⟨hstate, htec, hrec⟩ := canCounters_fields s p.val tec.isLt rec.isLt
  have hcounters : RegsBut [R.CAN_STAT p.val, R.CAN_CNT_BUSOFF p.val] s (s.canCounters p.val tec.toNat rec.toNat) :=
    (RegsBut.refl.wf (f := F.CAN_STAT_TEC p.val) List.mem_cons_self).wf (f := F.CAN_STAT_REC p.val) List.mem_cons_self
  have hmem : (s.canCounters p.val tec.toNat rec.toNat).mem = s.mem := (wf_mem ..).trans (wf_mem ..)
  have hrun := exec_canBusState s p code tec rec
  generalize s.canCounters p.val tec.toNat rec.toNat = u at *
  by_cases hold : s.rf (F.CAN_STAT_STATE p.val) = code.val
  · exact ⟨_, hrun.trans (if_pos hold), hstate.trans hold, htec, hrec, hcounters, sameBytes_of_mem hmem⟩
  · obtain ⟨hregs, hmem', hreg⟩ := regsBut_canEntered u p code.val
    obtain ⟨-, -, -, htec', hrec'⟩ := canStat_apart u (p := p.val) code.val
    have hrf : ∀ hi lo, (u.canEntered p.val code.val).rf ⟨R.CAN_STAT p.val, hi, lo⟩ =
        (u.wf (F.CAN_STAT_STATE p.val) code.val).rf ⟨R.CAN_STAT p.val, hi, lo⟩ := fun hi lo => congrArg (bits · hi lo) hreg
    have hcode : (u.wf (F.CAN_STAT_STATE p.val) code.val).rf (F.CAN_STAT_STATE p.val) = code.val :=
      (rf_wf_same u _ _ (by simp [F.CAN_STAT_STATE]) (by simp [F.CAN_STAT_STATE])).trans (Nat.mod_eq_of_lt
        (Nat.lt_of_lt_of_le code.isLt (by simp [F.CAN_STAT_STATE])))
    exact ⟨_, hrun.trans (if_neg hold), (hrf _ _).trans hcode, (hrf _ _).trans (htec'.trans htec),
      (hrf _ _).trans (hrec'.trans hrec), hcounters.trans hregs, sameBytes_of_mem (hmem'.trans hmem)⟩

end

/-! #### A frame is read -/

theorem reg_canData_of_outside {s : State} {p a : Nat} {l : List Byte} :
    ∀ {n : Nat}, (∀ k, k < n → a ≠ R.CAN_RXF_DATA p k) → (s.canData p l n).reg a = s.reg a
  | 0, _ => rfl
  | n + 1, h => (reg_setReg_other _ _ (h n (Nat.lt_succ_self n))).trans
      (reg_canData_of_outside fun k hk => h k (Nat.lt_succ_of_lt hk))

theorem canData_held (s : State) (p : Nat) (l : List Byte) : ∀ n, (s.canData p l n).out = s.out ∧
    (s.canData p l n).mem = s.mem ∧ (s.canData p l n).can0 = s.can0 ∧ (s.canData p l n).can1 = s.can1
  | 0 => ⟨rfl, rfl, rfl, rfl⟩
  | n + 1 => canData_held s p l n

/-- The oldest frame is taken, and its info word shown. -/
def State.canTaken (s : State) (p : Nat) (f : CanFrame) (fs : List CanFrame) : State :=
  (s.setCan p (fun c => { c with rx := fs })).setRegN (R.CAN_RXF_INFO p) f.info

theorem canTaken_held (s : State) (p : Nat) (f : CanFrame) (fs : List CanFrame) :
    ((s.canTaken p f fs).can p).rx = fs ∧ (s.canTaken p f fs).regN (R.CAN_RXF_INFO p) = f.info % 2 ^ 32 ∧
      (s.canTaken p f fs).out = s.out ∧ (s.canTaken p f fs).mem = s.mem := by
  obtain ⟨-, hmem, hout⟩ := setCan_held s p (fun c => { c with rx := fs })
  have hcan := can_setCan s p (fun c => { c with rx := fs })
  unfold State.canTaken
  generalize s.setCan p (fun c => { c with rx := fs }) = u at *
  have hset : ∀ a n, (u.setRegN a n).can p = u.can p := fun _ _ => rfl
  refine ⟨?_, ?_, hout, hmem⟩
  · rw [hset, hcan]
  · rw [State.regN, reg_setRegN, if_pos rfl, BitVec.toNat_ofNat]

theorem canRxfPop_runs {s : State} {i : Init} {p : Fin 2} {f : CanFrame} {fs : List CanFrame}
    (hmay : s.MayRead i (R.CAN_RXF_HDR p.val)) (hq : (s.can p.val).rx = f :: fs) : Runs (.canRxfPop i p) s fun t =>
      t.out = .busData i (BitVec.ofNat 32 (2 ^ 31 + f.hdr % 2 ^ 31)) :: s.out ∧ (t.can p.val).rx = fs ∧
        t.regN (R.CAN_RXF_INFO p.val) = f.info % 2 ^ 32 ∧ SameBytes s t := by
  have hpop : s.canPop p.val i = ((s.canTaken p.val f fs).canData p.val f.bytes 16).answer i
      (BitVec.ofNat 32 (2 ^ 31 + f.hdr % 2 ^ 31)) := by
    rw [State.canPop, hq]
    rfl
  have hexec : exec (.canRxfPop i p) s = .next (s.canPop p.val i) :=
    congrArg Host.Outcome.next (onRead_of_mayRead s i _ _ hmay)
  have hplaces : ∀ (p : Fin 2) (k : Fin 16), R.CAN_RXF_INFO p.val ≠ R.CAN_RXF_DATA p.val k.val := by decide
  obtain ⟨hrx, hinfo, hout, hmem⟩ := canTaken_held s p.val f fs
  have hrun := hexec.trans (congrArg Host.Outcome.next hpop)
  generalize s.canTaken p.val f fs = u at *
  generalize BitVec.ofNat 32 (2 ^ 31 + f.hdr % 2 ^ 31) = v at *
  obtain ⟨hout', hmem', h0, h1⟩ := canData_held u p.val f.bytes 16
  have hreg : (u.canData p.val f.bytes 16).reg (R.CAN_RXF_INFO p.val) = u.reg (R.CAN_RXF_INFO p.val) :=
    reg_canData_of_outside fun k hk => hplaces p ⟨k, hk⟩
  have hcan := can_of_parts h0 h1 p.val
  generalize u.canData p.val f.bytes 16 = w at *
  have hacan : (w.answer i v).can p.val = w.can p.val := rfl
  refine ⟨_, hrun, (answer_outputs ..).trans (congrArg (List.cons _) (hout'.trans hout)), ?_, ?_,
    sameBytes_of_mem ((answer_mem ..).trans (hmem'.trans hmem))⟩
  · rw [hacan, hcan, hrx]
  · rw [State.regN, reg_answer, hreg, ← State.regN, hinfo]

/-! ### The obligation -/

/-- Settles O55, transport by transport: the mailbox, the SPI target port, the queues to the cores (`AccessEnds`), the timers
and queues of sessions (`session_changed`), the delivery of events, and the CAN ports (`SegJoins`). -/
theorem dictionaryTransports : Obligations.DictionaryTransports := by
  unfold Obligations.DictionaryTransports
  intro s i
  refine ⟨fun v hmay => ⟨mbxinPush_refused hmay, mbxinPush_taken hmay⟩,
    fun hmay => ⟨mbxoutPop_empty hmay, fun src l rest => mbxoutPop_pops hmay⟩, spi_off,
    fun hon => ⟨fun len pdu crc => ⟨spiPduWrite_good hon, spiPduWrite_bad hon⟩, spiPduRead_empty hon,
      fun l ls => spiPduRead_pops hon, spiStatusRead_runs hon⟩,
    fun c hmay => ⟨fwRequestPop_empty hmay, fun r => fwRequestPop_pops hmay⟩,
    fun c v hmay => ⟨fwAnswer_refused hmay, fun hgood => fwAnswer_late hgood hmay, fun r hgood hfind =>
      ⟨fwAnswer_quiet hmay hgood hfind, fun q => fwAnswer_invoke hmay hgood hfind⟩⟩,
    exec_fwTimeout_empty, fun r rs => fwTimeout_runs, fun sid => ⟨fun hbusy => (exec_sessionTimeout s sid).trans (if_pos hbusy),
      sessionTimeout_ends, fun x pdu hx => eventSend_runs hx, fun x => eventSend_outstanding, event_of_no_session,
      fun x e hx hsent => ⟨eventAckTimeout_ends hx hsent, eventAckTimeout_again hx hsent⟩⟩,
    ⟨_, rfl, rfl, rfl, fun _ => rfl⟩, exec_subscriptionDeliver_off, fun e es x => subscriptionDeliver_runs,
    fun p fd data => ⟨canSegment_idle, fun hon hserves hfd hdata => ⟨canSegment_first hon hserves hfd hdata,
      fun l hlater => canSegment_next hon hserves hfd hdata hlater, fun l n hlater => canSegment_gap hon hserves hfd hdata hlater,
      canSegment_stray hon hserves hfd hdata⟩, canSegmentTimeout_idle, canSegmentTimeout_runs⟩,
    fun p v hmay hpush => ⟨canTxfPush_full hmay hpush, canTxfPush_queued hmay hpush⟩,
    fun p => ⟨canFrameSent_idle, fun hon hlisten hbus => ⟨fun f fs => canFrameSent_hdp hon hlisten hbus,
      fun f fs => canFrameSent_tx hon hlisten hbus⟩, fun hdr info data hon hother =>
        ⟨canFrameReceive_queued hon hother, canFrameReceive_lost hon hother⟩, canBusState_runs s p,
      fun f fs => canRxfPop_runs⟩⟩

end Sys2Proof.Machine
end

section
/-! PROOFS. Taking a PDU (O54): what is dropped, repeated, counted and accepted. -/

namespace Sys2Proof.Machine

/-! ### What a request needs to be heard -/

theorem turnedAway_congr {s t : State} (hstep : t.reg R.SYS_STEPOK = s.reg R.SYS_STEPOK)
    (hlocked : t.ode.locked = s.ode.locked) (src : Nat) : t.turnedAway src = s.turnedAway src := by
  rw [State.turnedAway, State.turnedAway, hlocked, ready_congr hstep, ready_congr hstep]

theorem heldApply_of_none {s : State} (h : s.ode.held = []) : s.heldApply = s := by
  have hsame : ({ s.ode with held := [] } : OdeSt) = s.ode := by rw [← h]
  have hset : s.setOde (fun o => { o with held := [] }) = { s with ode := { s.ode with held := [] } } := rfl
  unfold State.heldApply
  simp only [h, List.map_nil, List.filter_nil, List.foldl_nil]
  rw [hset, hsame]

/-- The oldest PDU is taken from the queue. -/
def State.pduTaken (s : State) (rest : List (Nat × List Byte)) : State := s.setOde (fun o => { o with rxq := rest })

section

variable (s : State) (rest : List (Nat × List Byte))

theorem pduTaken_ode : (s.pduTaken rest).ode = { s.ode with rxq := rest } := rfl

theorem reg_pduTaken (a : Nat) : (s.pduTaken rest).reg a = s.reg a := rfl

theorem pduTaken_mem : (s.pduTaken rest).mem = s.mem := rfl

theorem pduTaken_session (sid : Nat) : (s.pduTaken rest).session sid = s.session sid := rfl

theorem hdpKey_pduTaken (slot : Nat) : (s.pduTaken rest).hdpKey slot = s.hdpKey slot := hdpKey_congr rfl slot

theorem turnedAway_pduTaken (src : Nat) : (s.pduTaken rest).turnedAway src = s.turnedAway src :=
  turnedAway_congr (reg_pduTaken ..) rfl src

theorem regsBut_pduTaken : RegsBut [] s (s.pduTaken rest) := fun _ _ _ => rfl

end

theorem exec_hdpPduReceive_idle {s : State} (h : s.ode.req.isSome = true ∨ s.rb F.ODE_CTRL_EN = false ∨ s.ode.rxq = []) :
    exec .hdpPduReceive s = .next s := by
  have hrun : exec .hdpPduReceive s = execHdpPduReceive s := rfl
  rw [hrun, execHdpPduReceive]
  split
  · rfl
  · next hgo =>
    rcases h with hreq | hen | hnone
    · exact absurd (by rw [hreq, Bool.true_or]) hgo
    · exact absurd (by rw [hen, Bool.not_false, Bool.or_true]) hgo
    · rw [hnone]

section

variable {s : State} {src : Nat} {l : List Byte} {rest : List (Nat × List Byte)} (hidle : s.ode.req = none)
  (hen : s.rb F.ODE_CTRL_EN = true) (hq : s.ode.rxq = (src, l) :: rest) (hheld : s.ode.held = [])
include hidle hen hq hheld

theorem exec_hdpPduReceive : exec .hdpPduReceive s = .next (((s.pduTaken rest).pduTake src l).odeKeep) := by
  have hrun : exec .hdpPduReceive s = execHdpPduReceive s := rfl
  have hgo : ¬ (s.ode.req.isSome || !s.rb F.ODE_CTRL_EN) = true := by
    rw [hidle, hen]
    exact Bool.false_ne_true
  have happly : (s.pduTaken rest).heldApply = s.pduTaken rest := heldApply_of_none hheld
  rw [hrun, execHdpPduReceive, if_neg hgo, hq]
  exact congrArg (fun u : State => Host.Outcome.next ((u.pduTake src l).odeKeep)) happly

/-- What is taken and done is what the PDU leads to. -/
theorem pduReceive_runs {u : State} (htake : (s.pduTaken rest).pduTake src l = u) {P : State → Prop} (h : P u.odeKeep) :
    Runs .hdpPduReceive s P :=
  ⟨_, (exec_hdpPduReceive hidle hen hq hheld).trans (by rw [htake]), h⟩

end

theorem odeKeep_mem (s : State) : s.odeKeep.mem = s.mem := Within.odeKeep (m := 1) (.refl s) ⟨rfl⟩ .mem rfl

/-- A PDU is dropped: it leaves the queue, and nothing else of the ODE or of memory changes. -/
def Dropped (s : State) (rest : List (Nat × List Byte)) (t : State) : Prop :=
  t.ode = { s.ode with rxq := rest } ∧ SameBytes s t

theorem Dropped.of_counts {s u : State} {rest : List (Nat × List Byte)} (hode : u.ode = (s.pduTaken rest).ode)
    (hmem : u.mem = s.mem) : Dropped s rest u.odeKeep :=
  ⟨(odeKeep_ode u).trans (hode.trans (pduTaken_ode s rest)), sameBytes_of_mem ((odeKeep_mem u).trans hmem)⟩

/-! ### The cases of a PDU (R452, R456) -/

section

variable {s : State} {src : Nat} {l : List Byte}

theorem pduTake_of_short (h : l.length < 12) : s.pduTake src l = s := if_pos h

theorem pduTake_of_open (hlen : 12 ≤ l.length) (hop : (reqOf src l 0).op = Hdp.OPEN) :
    s.pduTake src l = s.takeFirst l (firstReq src l) := (if_neg (Nat.not_lt.mpr hlen)).trans (if_pos hop)

/-- A first request has the header of the PDU, whether or not a tag stands at its end. -/
theorem firstReq_head (src : Nat) (l : List Byte) : (firstReq src l).op = (reqOf src l 0).op ∧
    (firstReq src l).sid = (reqOf src l 0).sid ∧ (firstReq src l).src = src := ⟨rfl, rfl, rfl⟩

theorem takeFirst_of_named {r : OdeReq} (hop : r.op = Hdp.OPEN) (hsid : r.sid ≠ 0) : s.takeFirst l r = s :=
  if_pos ⟨hop, hsid⟩

theorem takeFirst_of_open {r : OdeReq} (hsid : r.sid = 0) (hformat : formatOk l r = true) (hturn : s.turnedAway r.src = none) :
    s.takeFirst l r = s.reqStart r := by
  unfold State.takeFirst
  rw [if_neg fun h => h.2 hsid, if_neg (by rw [hformat]; decide), hturn]

theorem pduTake_of_no_session (hlen : 12 ≤ l.length) (hop : (reqOf src l 0).op ≠ Hdp.OPEN)
    (hnone : s.session (reqOf src l 0).sid = none) : s.pduTake src l = s := by
  unfold State.pduTake
  dsimp only
  rw [if_neg (Nat.not_lt.mpr hlen), if_neg hop, hnone]

variable {x : Session} (hlen : 12 ≤ l.length) (hop : (reqOf src l 0).op ≠ Hdp.OPEN)
  (hx : s.session (reqOf src l 0).sid = some x) (hsrc : x.src = src) (hup : x.up = true)
include hlen hop hx hsrc hup

theorem pduTake_of_plain (hauth : x.auth = false) : s.pduTake src l = s.takeOpen x l (reqOf src l 0) := by
  unfold State.pduTake
  dsimp only
  rw [if_neg (Nat.not_lt.mpr hlen), if_neg hop, hx]
  dsimp only
  rw [if_neg (not_not.mpr hsrc), if_neg (by rw [hup]; decide), if_pos (by rw [hauth]; rfl)]

theorem pduTake_of_keyless (hauth : x.auth = true) (hkey : s.hdpKey x.slot = none) : s.pduTake src l = s.tagFail := by
  unfold State.pduTake
  dsimp only
  rw [if_neg (Nat.not_lt.mpr hlen), if_neg hop, hx]
  dsimp only
  rw [if_neg (not_not.mpr hsrc), if_neg (by rw [hup]; decide), if_neg (by rw [hauth]; decide), hkey]

theorem pduTake_of_untagged (hauth : x.auth = true) {k : List Byte} (hkey : s.hdpKey x.slot = some k)
    (htag : l.drop (l.length - 16) ≠ x.tag k 0 (l.take (l.length - 16))) : s.pduTake src l = s.tagFail := by
  unfold State.pduTake
  dsimp only
  rw [if_neg (Nat.not_lt.mpr hlen), if_neg hop, hx]
  dsimp only
  rw [if_neg (not_not.mpr hsrc), if_neg (by rw [hup]; decide), if_neg (by rw [hauth]; decide), hkey]
  exact if_neg fun h => htag h.2.2

end

section

variable {s : State} {x : Session} {l : List Byte} {r : OdeReq} (hformat : formatOk l r = true)
include hformat

theorem takeOpen_of_repeat (hseq : r.seq = x.seqIn) (hnot : x.seqIn ≠ 0) : s.takeOpen x l r = s.pduOut r.src x.last :=
  (if_neg (by rw [hformat]; decide)).trans (if_pos ⟨hseq, hnot⟩)

theorem takeOpen_of_older (hseq : r.seq < x.seqIn) : s.takeOpen x l r = (s.bump R.ODE_CNT_REPLAY).raise 194 :=
  (if_neg (by rw [hformat]; decide)).trans ((if_neg fun h => absurd h.1 (Nat.ne_of_lt hseq)).trans
    (if_pos (Nat.le_of_lt hseq)))

/-- A session whose last SEQ is another. -/
def Session.withSeqIn (x : Session) (n : Nat) : Session := { x with seqIn := n }

theorem takeOpen_of_newer (hseq : x.seqIn < r.seq) (hturn : s.turnedAway r.src = none) (hop : hdpOps.contains r.op = true)
    (hauth : (r.flags / 2 % 2 == 1) = x.auth) :
    s.takeOpen x l r = (s.setSession x.sid (fun y => y.withSeqIn r.seq)).reqStart r := by
  have hturn' : (s.setSession x.sid (fun y => y.withSeqIn r.seq)).turnedAway r.src = none := by
    have hstep : (s.setSession x.sid (fun y => y.withSeqIn r.seq)).reg R.SYS_STEPOK = s.reg R.SYS_STEPOK :=
      (regsBut_setSessions s _).reg (by decide) (not_evrAddr_of_ge (by decide))
    rw [turnedAway_congr hstep (by rw [setSession_ode]), hturn]
  have htake : s.takeOpen x l r =
      match (s.setSession x.sid (fun y => y.withSeqIn r.seq)).turnedAway r.src with
      | some st => (s.setSession x.sid (fun y => y.withSeqIn r.seq)).replySt r st
      | none =>
        if (!hdpOps.contains r.op || (r.flags / 2 % 2 == 1) != x.auth) = true then
          (s.setSession x.sid (fun y => y.withSeqIn r.seq)).replySt r St.TYPE
        else (s.setSession x.sid (fun y => y.withSeqIn r.seq)).reqStart r :=
    (if_neg (by rw [hformat]; decide)).trans ((if_neg fun h => absurd h.1 (Nat.ne_of_gt hseq)).trans
      (if_neg (Nat.not_le.mpr hseq)))
  rw [htake, hturn']
  exact if_neg (by rw [hop, hauth, bne_self_eq_false]; exact Bool.false_ne_true)

end

/-! ### Runs of HDP_PDU_RECEIVE -/

theorem pduTaken_held (s : State) (rest : List (Nat × List Byte)) : (s.pduTaken rest).ode.sessions = s.ode.sessions ∧
    (s.pduTaken rest).ode.req = s.ode.req ∧ (s.pduTaken rest).ode.spiOut = s.ode.spiOut := ⟨rfl, rfl, rfl⟩

theorem reqStart_mem (s : State) (r : OdeReq) : (s.reqStart r).mem = s.mem :=
  Within.reqStart (m := 4194305) (.refl s) ⟨rfl⟩ .mem rfl

/-- A failed tag is counted, and its PDU dropped. -/
theorem tagFail_drops (s : State) (rest : List (Nat × List Byte)) :
    Dropped s rest ((s.pduTaken rest).tagFail).odeKeep ∧
      Counted R.ODE_CNT_AUTH s ((s.pduTaken rest).tagFail).odeKeep := by
  have hcounted : Counted R.ODE_CNT_AUTH s ((s.pduTaken rest).bump R.ODE_CNT_AUTH) :=
    (counted_bump (s.pduTaken rest) _).after (regsBut_pduTaken s rest) (by decide)
  have hafter : RegsBut [R.ODE_STAT] ((s.pduTaken rest).bump R.ODE_CNT_AUTH) ((s.pduTaken rest).tagFail).odeKeep :=
    (RegsBut.refl.raise (by decide)).odeKeep (by decide)
  exact ⟨.of_counts (Within.tagFail (m := 17) (.refl _) ⟨rfl⟩ .ode rfl)
    ((Within.tagFail (m := 17) (.refl _) ⟨rfl⟩ .mem rfl).trans (pduTaken_mem s rest)),
    hcounted.andThen hafter (by decide)⟩

section

variable {s : State} {src : Nat} {l : List Byte} {rest : List (Nat × List Byte)} (hidle : s.ode.req = none)
  (hen : s.rb F.ODE_CTRL_EN = true) (hq : s.ode.rxq = (src, l) :: rest) (hheld : s.ode.held = [])
include hidle hen hq hheld

theorem pduReceive_dropped (htake : (s.pduTaken rest).pduTake src l = s.pduTaken rest) :
    Runs .hdpPduReceive s (Dropped s rest) :=
  pduReceive_runs hidle hen hq hheld htake (.of_counts rfl (pduTaken_mem s rest))

theorem pduReceive_open (hlen : 12 ≤ l.length) (hop : (reqOf src l 0).op = Hdp.OPEN) (hsid : (reqOf src l 0).sid = 0)
    (hformat : formatOk l (firstReq src l) = true) (hturn : s.turnedAway src = none) : Runs .hdpPduReceive s fun t =>
      t.ode.req = some (firstReq src l) ∧ t.ode.rxq = rest ∧ t.ode.sessions = s.ode.sessions ∧ SameBytes s t := by
  obtain ⟨-, hsid', hsrc'⟩ := firstReq_head src l
  have htake : (s.pduTaken rest).pduTake src l = (s.pduTaken rest).reqStart (firstReq src l) :=
    (pduTake_of_open hlen hop).trans (takeFirst_of_open (hsid'.trans hsid) hformat (by
      rw [hsrc', turnedAway_pduTaken, hturn]))
  refine pduReceive_runs hidle hen hq hheld htake ?_
  rw [odeKeep_ode, reqStart_ode]
  exact ⟨rfl, rfl, rfl, sameBytes_of_mem ((odeKeep_mem _).trans ((reqStart_mem ..).trans (pduTaken_mem ..)))⟩

theorem pduReceive_open_named (hlen : 12 ≤ l.length) (hop : (reqOf src l 0).op = Hdp.OPEN) (hsid : (reqOf src l 0).sid ≠ 0) :
    Runs .hdpPduReceive s (Dropped s rest) := by
  obtain ⟨hop', hsid', -⟩ := firstReq_head src l
  exact pduReceive_dropped hidle hen hq hheld ((pduTake_of_open hlen hop).trans
    (takeFirst_of_named (hop'.trans hop) (by rw [hsid']; exact hsid)))

section

variable {x : Session} (hlen : 12 ≤ l.length) (hop : (reqOf src l 0).op ≠ Hdp.OPEN)
  (hx : s.session (reqOf src l 0).sid = some x) (hsrc : x.src = src) (hup : x.up = true)
include hlen hop hx hsrc hup

theorem pduReceive_older (hauth : x.auth = false) (hseq : (reqOf src l 0).seq < x.seqIn)
    (hformat : formatOk l (reqOf src l 0) = true) :
    Runs .hdpPduReceive s fun t => Dropped s rest t ∧ Counted R.ODE_CNT_REPLAY s t := by
  have htake := (pduTake_of_plain (s := s.pduTaken rest) hlen hop hx hsrc hup hauth).trans (takeOpen_of_older hformat hseq)
  have hcounted : Counted R.ODE_CNT_REPLAY s ((s.pduTaken rest).bump R.ODE_CNT_REPLAY) :=
    (counted_bump (s.pduTaken rest) _).after (regsBut_pduTaken s rest) (by decide)
  have hafter : RegsBut [R.ODE_STAT] ((s.pduTaken rest).bump R.ODE_CNT_REPLAY)
      (((s.pduTaken rest).bump R.ODE_CNT_REPLAY).raise 194).odeKeep := (RegsBut.refl.raise (by decide)).odeKeep (by decide)
  exact pduReceive_runs hidle hen hq hheld htake
    ⟨.of_counts ((raise_ode ..).trans (bump_ode ..)) ((raise_mem ..).trans ((bump_mem ..).trans (pduTaken_mem ..))),
      hcounted.andThen hafter (by decide)⟩

theorem pduReceive_repeat (hauth : x.auth = false) (hseq : (reqOf src l 0).seq = x.seqIn) (hnot : x.seqIn ≠ 0)
    (hformat : formatOk l (reqOf src l 0) = true) : Runs .hdpPduReceive s fun t =>
      t.ode.req = none ∧ t.ode.sessions = s.ode.sessions ∧ (src = 0 → t.ode.spiOut = s.ode.spiOut ++ [x.last]) := by
  have htake := (pduTake_of_plain (s := s.pduTaken rest) hlen hop hx hsrc hup hauth).trans
    (takeOpen_of_repeat hformat hseq hnot)
  have hout : (reqOf src l 0).src = src := rfl
  obtain ⟨hsessions, hreq, -⟩ := pduOut_held (s.pduTaken rest) (reqOf src l 0).src x.last
  have hspi := pduOut_ode (s.pduTaken rest) (reqOf src l 0).src x.last
  refine pduReceive_runs hidle hen hq hheld htake ?_
  rw [odeKeep_ode, hreq, hsessions]
  refine ⟨hidle, rfl, fun hzero => ?_⟩
  rw [hspi, if_pos (hout.trans hzero)]
  rfl

theorem pduReceive_newer (hauth : x.auth = false) (hseq : x.seqIn < (reqOf src l 0).seq) (hturn : s.turnedAway src = none)
    (hformat : formatOk l (reqOf src l 0) = true) (hops : hdpOps.contains (reqOf src l 0).op = true)
    (hflag : (reqOf src l 0).flags / 2 % 2 = 0) : Runs .hdpPduReceive s fun t =>
      t.ode.req = some (reqOf src l 0) ∧
        (t.session (reqOf src l 0).sid).map (fun y => y.seqIn) = some (reqOf src l 0).seq := by
  have hout : (reqOf src l 0).src = src := rfl
  have htake := (pduTake_of_plain (s := s.pduTaken rest) hlen hop hx hsrc hup hauth).trans
    (takeOpen_of_newer hformat hseq (by rw [hout, turnedAway_pduTaken, hturn]) hops (by rw [hflag, hauth]; rfl))
  refine pduReceive_runs hidle hen hq hheld htake ⟨?_, ?_⟩
  · rw [odeKeep_ode, reqStart_ode]
  · have hsame : ((((s.pduTaken rest).setSession x.sid (fun y => y.withSeqIn (reqOf src l 0).seq)).reqStart
        (reqOf src l 0)).odeKeep).ode.sessions =
        ((s.pduTaken rest).setSession x.sid (fun y => y.withSeqIn (reqOf src l 0).seq)).ode.sessions := by
      rw [odeKeep_ode, reqStart_ode]
    rw [session_congr hsame, sid_of_session hx,
      session_setSession (f := fun y => y.withSeqIn (reqOf src l 0).seq) _ fun _ => rfl, pduTaken_session, hx]
    rfl

theorem pduReceive_untagged (hauth : x.auth = true) {k : List Byte} (hkey : s.hdpKey x.slot = some k)
    (htag : l.drop (l.length - 16) ≠ x.tag k 0 (l.take (l.length - 16))) : Runs .hdpPduReceive s fun t =>
      Dropped s rest t ∧ Counted R.ODE_CNT_AUTH s t :=
  pduReceive_runs hidle hen hq hheld (pduTake_of_untagged (s := s.pduTaken rest) hlen hop hx hsrc hup hauth
    (by rw [hdpKey_pduTaken, hkey]) htag) (tagFail_drops s rest)

theorem pduReceive_keyless (hauth : x.auth = true) (hkey : s.hdpKey x.slot = none) : Runs .hdpPduReceive s fun t =>
    Dropped s rest t ∧ Counted R.ODE_CNT_AUTH s t :=
  pduReceive_runs hidle hen hq hheld (pduTake_of_keyless (s := s.pduTaken rest) hlen hop hx hsrc hup hauth
    (by rw [hdpKey_pduTaken, hkey])) (tagFail_drops s rest)

end

end

/-! ### No request, no operation (R448) -/

theorem withReq_of_idle {s : State} (hidle : s.ode.req = none) (op : Nat) (f : State → OdeReq → State) : s.withReq op f = s := by
  rw [State.withReq, hidle]

theorem withReq_of_taken {s : State} {r : OdeReq} (hreq : s.ode.req = some r) (hwait : r.waits = none) {op : Nat}
    (hop : r.op = op) (f : State → OdeReq → State) : s.withReq op f = f s r := by
  rw [State.withReq, hreq]
  exact if_pos ⟨hop, by rw [hwait]; rfl⟩

theorem exec_op_of_idle {s : State} (hidle : s.ode.req = none) : ∀ c ∈ [Instr.hdpOpen, .hdpAuth, .hdpClose, .hdpPing, .hdpRead,
    .hdpWrite, .hdpWriteMulti, .hdpInvoke, .hdpDescribe, .hdpSubscribe, .hdpEventAck, .hdpDigest, .hdpReadNet],
    exec c s = .next s := by
  have hnone : ∀ op f, Host.Outcome.next (s.withReq op f) = (Host.Outcome.next s : Host.Outcome State Fault Refusal) :=
    fun op f => congrArg Host.Outcome.next (withReq_of_idle hidle op f)
  intro c hc
  simp only [List.mem_cons, List.not_mem_nil, or_false] at hc
  rcases hc with rfl | rfl | rfl | rfl | rfl | rfl | rfl | rfl | rfl | rfl | rfl | rfl | rfl
  all_goals exact hnone _ _

end Sys2Proof.Machine
end

section
/-! PROOFS. OPEN and AUTH (O54). -/

namespace Sys2Proof.Machine

/-! ### Responses before a session is open -/

/-- What a response before a session is open leaves. -/
structure PlainAnswered (s t : State) : Prop where
  req : t.ode.req = none
  sessions : t.ode.sessions = s.ode.sessions
  locked : t.ode.locked = s.ode.locked
  fails : t.ode.fails = s.ode.fails
  mem : t.mem = s.mem
  regs : RegsBut answerRegs s t

/-- A request that is counted and done with. -/
def State.plainNoted (s : State) (status : Nat) : State := ((s.used.bump R.ODE_CNT_REQ).noteStatus status).reqDone

theorem plainNoted_ode (s : State) (status : Nat) : (s.plainNoted status).ode = { s.ode with req := none } := by
  rw [State.plainNoted, reqDone_ode, noteStatus_ode, bump_ode, used_ode]

theorem plainNoted_mem (s : State) (status : Nat) : (s.plainNoted status).mem = s.mem :=
  (Within.reqDone (m := 4194321) (.noteStatus (.bump (.refl s.used) ⟨rfl⟩) ⟨rfl⟩) ⟨rfl⟩ .mem rfl).trans (used_mem s)

theorem regsBut_plainNoted (s : State) (status : Nat) : RegsBut answerRegs s (s.plainNoted status) := by
  have hused : RegsBut answerRegs s s.used := fun a _ _ => used_reg s a
  exact ((hused.bump (by decide)).noteStatus (by decide) (by decide)).reqDone (by decide)

theorem replyPlain_answered (s : State) (r : OdeReq) (sid status : Nat) (payload : List Byte) :
    PlainAnswered s (s.replyPlain r sid status payload) := by
  have hode := plainNoted_ode s status
  have hmem := plainNoted_mem s status
  have hregs := regsBut_plainNoted s status
  have hplain : s.replyPlain r sid status payload = (s.plainNoted status).pduOut r.src
      (hdpHead 0x18 r.op sid r.rtag s.free payload.length status 0 ++ payload) := rfl
  rw [hplain]
  generalize s.plainNoted status = u at *
  generalize hdpHead 0x18 r.op sid r.rtag s.free payload.length status 0 ++ payload = pdu
  obtain ⟨hsessions, hreq, -, hlocked, hfails, -⟩ := pduOut_held u r.src pdu
  rw [hode] at hsessions hreq hlocked hfails
  exact ⟨hreq, hsessions, hlocked, hfails, (pduOut_mem ..).trans hmem, hregs.pduOut⟩

/-! ### A new SID (R455) -/

/-- The SIDs that may be given, in the order in which they are tried. -/
def State.sidChoices (s : State) : List Nat := (List.range 255).map (fun k => (s.free + k) % 255 + 1)

theorem nodup_sidChoices (s : State) : s.sidChoices.Nodup := by
  refine List.nodup_range.map_on fun a ha b hb h => ?_
  rw [List.mem_range] at ha hb
  omega

/-- With fewer than 255 sessions one SID is unused. -/
theorem session_newSid {s : State} (hfew : s.ode.sessions.length < 255) : s.session s.newSid = none := by
  have hnew : s.newSid = (s.sidChoices.find? (fun n => (s.session n).isNone)).getD 0 := rfl
  cases hfind : s.sidChoices.find? (fun n => (s.session n).isNone) with
  | some n =>
    rw [hnew, hfind, Option.getD_some]
    exact Option.isNone_iff_eq_none.mp (List.find?_some (p := fun n => (s.session n).isNone) hfind)
  | none =>
    have hused : s.sidChoices ⊆ s.ode.sessions.map Session.sid := fun n hn => by
      have htaken := List.find?_eq_none.mp hfind n hn
      obtain ⟨x, hx⟩ := Option.ne_none_iff_exists'.mp fun h => htaken (Option.isNone_iff_eq_none.mpr h)
      exact List.mem_map.mpr ⟨x, List.mem_of_find?_eq_some hx, sid_of_session hx⟩
    have hlen := ((nodup_sidChoices s).subperm hused).length_le
    rw [State.sidChoices, List.length_map, List.length_range, List.length_map] at hlen
    exact absurd hlen (Nat.not_le.mpr hfew)

/-! ### OPEN (R455, R457) -/

section

variable {s : State} {r : OdeReq}

/-- The session that OPEN adds. -/
def State.opened (s : State) (r : OdeReq) (cls slot : Nat) (net auth : Bool) : Session :=
  ⟨s.newSid, cls, r.src, net, auth, !auth, slot, r.payload.drop 1, (s.used.draw 16).2, 0, 0, [], 0, [], none⟩

theorem openSession_eq (cls slot : Nat) (net auth : Bool) : s.openSession r cls slot net auth =
    ((s.used.draw 16).1.setSessions (fun l => l ++ [s.opened r cls slot net auth])).replyPlain r s.newSid St.OK
      ((s.used.draw 16).2 ++ natBytes 2 1400) := rfl

/-- A session is added, and its OPEN answered. -/
theorem openSession_adds (cls slot : Nat) (net auth : Bool) :
    (s.openSession r cls slot net auth).ode.req = none ∧ SameBytes s (s.openSession r cls slot net auth) ∧
      (s.openSession r cls slot net auth).ode.sessions = s.ode.sessions ++ [s.opened r cls slot net auth] := by
  have hode : (s.used.draw 16).1.ode = s.ode :=
    (Within.draw (m := 524289) (.refl s.used) ⟨rfl⟩ .ode rfl).trans (used_ode s)
  have hmem : (s.used.draw 16).1.mem = s.mem := (draw_mem ..).trans (used_mem s)
  rw [openSession_eq]
  generalize s.opened r cls slot net auth = x
  generalize (s.used.draw 16).2 ++ natBytes 2 1400 = payload
  generalize (s.used.draw 16).1 = u at *
  have hset := setSessions_ode u (fun l => l ++ [x])
  have hsmem : (u.setSessions (fun l => l ++ [x])).mem = u.mem := Within.setSessions (m := 4194305) (.refl u) ⟨rfl⟩ .mem rfl
  generalize u.setSessions (fun l => l ++ [x]) = w at *
  have hplain := replyPlain_answered w r s.newSid St.OK payload
  exact ⟨hplain.req, sameBytes_of_mem (hplain.mem.trans (hsmem.trans hmem)), hplain.sessions.trans (by rw [hset, hode])⟩

theorem opened_nonce (cls slot : Nat) (net auth : Bool) : (s.opened r cls slot net auth).nd.length = 16 := draw_length ..

/-- The reasons to refuse an OPEN. -/
def State.openBad (s : State) (r : OdeReq) : Prop :=
  let b := bytesNat (r.payload.take 1)
  let net := decide (128 ≤ b)
  let auth := r.flags / 2 % 2 == 1
  r.payload.length ≠ 17 ∨ b / 4 % 32 ≠ 0 ∨ (net = true ∧ b % 4 ≠ 0) ∨ 16 ≤ s.ode.sessions.length ∨
    (auth = true ∧ s.hdpKey (s.slotOfClass (b % 4) net) = none) ∨ (auth = false ∧ s.openFree r.src (b % 4) net = false)

theorem hdpOpen_of_bad (hbad : s.openBad r) : ∃ st, s.hdpOpen r = s.replyPlain r 0 st [] := by
  unfold State.hdpOpen
  dsimp only
  split
  · exact ⟨_, rfl⟩
  · next htype =>
    split
    · exact ⟨_, rfl⟩
    · next hrights =>
      split
      · exact ⟨_, rfl⟩
      · next hroom =>
        have hlast := hbad
        unfold State.openBad at hlast
        dsimp only at hlast
        rw [not_or, not_not] at htype
        obtain ⟨hlen, hzero⟩ := htype
        rcases hlast with h | h | h | h | ⟨hauth, hkey⟩ | ⟨hauth, hfree⟩
        · exact absurd hlen h
        · exact absurd h hzero
        · exact absurd h hrights
        · exact absurd h hroom
        · rw [if_pos hauth, if_pos (by rw [hkey]; rfl)]
          exact ⟨_, rfl⟩
        · rw [if_neg (by rw [hauth]; exact Bool.false_ne_true), if_neg (by rw [hfree]; exact Bool.false_ne_true)]
          exact ⟨_, rfl⟩

theorem hdpOpen_of_good (hgood : ¬ s.openBad r) : s.hdpOpen r =
    s.openSession r (bytesNat (r.payload.take 1) % 4)
      (s.slotOfClass (bytesNat (r.payload.take 1) % 4) (decide (128 ≤ bytesNat (r.payload.take 1))))
      (decide (128 ≤ bytesNat (r.payload.take 1))) (r.flags / 2 % 2 == 1) := by
  unfold State.openBad at hgood
  dsimp only at hgood
  simp only [not_or] at hgood
  obtain ⟨hlen, hzero, hrights, hroom, hkey, hfree⟩ := hgood
  unfold State.hdpOpen
  dsimp only
  rw [if_neg (not_or.mpr ⟨hlen, hzero⟩), if_neg hrights, if_neg hroom]
  cases hauth : r.flags / 2 % 2 == 1 with
  | true =>
    rw [if_pos rfl, if_neg fun h => hkey ⟨hauth, Option.isNone_iff_eq_none.mp h⟩]
  | false =>
    rw [if_neg Bool.false_ne_true, if_pos (Bool.eq_true_of_not_eq_false fun h => hfree ⟨hauth, h⟩)]

variable (hreq : s.ode.req = some r) (hwait : r.waits = none) (hop : r.op = Hdp.OPEN)
include hreq hwait hop

theorem exec_hdpOpen : exec .hdpOpen s = .next (s.hdpOpen r) :=
  congrArg Host.Outcome.next (withReq_of_taken hreq hwait hop State.hdpOpen)

theorem hdpOpen_refused (hbad : s.openBad r) :
    Runs .hdpOpen s fun t => t.ode.req = none ∧ t.ode.sessions = s.ode.sessions ∧ SameBytes s t := by
  obtain ⟨st, hst⟩ := hdpOpen_of_bad hbad
  have hplain := replyPlain_answered s r 0 st []
  exact ⟨_, (exec_hdpOpen hreq hwait hop).trans (congrArg Host.Outcome.next hst), hplain.req, hplain.sessions,
    sameBytes_of_mem hplain.mem⟩

theorem hdpOpen_opens (hgood : ¬ s.openBad r) : Runs .hdpOpen s fun t =>
    t.ode.req = none ∧ SameBytes s t ∧ ∃ y : Session, t.ode.sessions = s.ode.sessions ++ [y] ∧ s.session y.sid = none ∧
      y.cls = bytesNat (r.payload.take 1) % 4 ∧ y.src = r.src ∧ y.auth = (r.flags / 2 % 2 == 1) ∧
      y.up = !(r.flags / 2 % 2 == 1) ∧ y.nc = r.payload.drop 1 ∧ y.nd.length = 16 ∧ y.mask = 0 := by
  have hfew : s.ode.sessions.length < 255 := by
    have hroom : ¬ 16 ≤ s.ode.sessions.length := fun h => hgood (.inr (.inr (.inr (.inl h))))
    omega
  obtain ⟨hdone, hbytes, hsessions⟩ := openSession_adds (s := s) (r := r) (bytesNat (r.payload.take 1) % 4)
    (s.slotOfClass (bytesNat (r.payload.take 1) % 4) (decide (128 ≤ bytesNat (r.payload.take 1))))
    (decide (128 ≤ bytesNat (r.payload.take 1))) (r.flags / 2 % 2 == 1)
  exact ⟨_, (exec_hdpOpen hreq hwait hop).trans (congrArg Host.Outcome.next (hdpOpen_of_good hgood)), hdone, hbytes, _,
    hsessions, session_newSid hfew, rfl, rfl, rfl, rfl, rfl, opened_nonce .., rfl⟩

end

/-! ### AUTH (R455, R456) -/

/-- The outcome of an AUTH is noted for its address: the failures in a row, and the addresses locked. -/
def State.failsNoted (s : State) (src n : Nat) (locked : List Nat) : State :=
  s.setOde (fun o => { o with fails := Sparse.putN o.fails src n, locked := locked })

theorem failsNoted_ode (s : State) (src n : Nat) (locked : List Nat) : (s.failsNoted src n locked).ode =
    { s.ode with fails := Sparse.putN s.ode.fails src n, locked := locked } := rfl

theorem failsNoted_mem (s : State) (src n : Nat) (locked : List Nat) : (s.failsNoted src n locked).mem = s.mem := rfl

theorem regsBut_failsNoted (s : State) (src n : Nat) (locked : List Nat) : RegsBut [] s (s.failsNoted src n locked) :=
  fun _ _ _ => rfl

/-- A failed AUTH drops its session and counts; the fifth in a row locks the address. -/
theorem authFail_eq (s : State) (r : OdeReq) : s.authFail r =
    (((s.failsNoted r.src (if Sparse.getN s.ode.fails r.src + 1 < 5 then Sparse.getN s.ode.fails r.src + 1 else 0)
      (if Sparse.getN s.ode.fails r.src + 1 < 5 then s.ode.locked else s.ode.locked ++ [r.src])).tagFail).endSession
        r.sid).replyPlain r r.sid St.AUTH [] := rfl

theorem authFail_drops (s : State) (r : OdeReq) :
    (s.authFail r).session r.sid = none ∧ (s.authFail r).ode.req = none ∧ Counted R.ODE_CNT_AUTH s (s.authFail r) ∧
      (s.authFail r).ode.locked = (if Sparse.getN s.ode.fails r.src + 1 < 5 then s.ode.locked else s.ode.locked ++ [r.src]) ∧
      Sparse.getN (s.authFail r).ode.fails r.src =
        (if Sparse.getN s.ode.fails r.src + 1 < 5 then Sparse.getN s.ode.fails r.src + 1 else 0) ∧
      SameBytes s (s.authFail r) := by
  rw [authFail_eq]
  generalize (if Sparse.getN s.ode.fails r.src + 1 < 5 then Sparse.getN s.ode.fails r.src + 1 else 0) = n
  generalize (if Sparse.getN s.ode.fails r.src + 1 < 5 then s.ode.locked else s.ode.locked ++ [r.src]) = locked
  have hode := failsNoted_ode s r.src n locked
  have hmem := failsNoted_mem s r.src n locked
  have hregs := regsBut_failsNoted s r.src n locked
  generalize s.failsNoted r.src n locked = u at *
  have htode : u.tagFail.ode = u.ode := Within.tagFail (m := 17) (.refl u) ⟨rfl⟩ .ode rfl
  have htmem : u.tagFail.mem = u.mem := Within.tagFail (m := 17) (.refl u) ⟨rfl⟩ .mem rfl
  have hcounted : Counted R.ODE_CNT_AUTH s u.tagFail :=
    ((counted_bump u _).after hregs (by decide)).andThen (l := []) (RegsBut.refl.raise (by decide)) (by decide)
  generalize u.tagFail = w at *
  have heode := endSession_ode w r.sid
  have hnone := session_endSession w r.sid
  have hemem : (w.endSession r.sid).mem = w.mem := Within.endSession (m := 4194305) (.refl w) ⟨rfl⟩ .mem rfl
  have heregs : RegsBut [R.ODE_STAT] w (w.endSession r.sid) := regsBut_setSessions w _
  generalize w.endSession r.sid = x at *
  have hplain := replyPlain_answered x r r.sid St.AUTH []
  refine ⟨(session_congr hplain.sessions _).trans hnone, hplain.req, ?_, ?_, ?_,
    sameBytes_of_mem (hplain.mem.trans (hemem.trans (htmem.trans hmem)))⟩
  · exact (hcounted.andThen heregs (by decide)).andThen hplain.regs (by decide)
  · rw [hplain.locked, heode, htode, hode]
  · rw [hplain.fails, heode, htode, hode, getN_putN, if_pos rfl]

/-- The proof that a client gives of its key (R455). -/
def Session.clientProof (x : Session) (k : List Byte) : List Byte :=
  macOf k (proofText 0x48 0x44 0x50 0x63 ++ [BitVec.ofNat 8 (if x.net then 128 else x.cls), BitVec.ofNat 8 x.sid] ++ x.nc ++
    x.nd)

/-- The proof that the device gives. -/
def Session.deviceProof (x : Session) (k : List Byte) : List Byte :=
  macOf k (proofText 0x48 0x44 0x50 0x64 ++ [BitVec.ofNat 8 (if x.net then 128 else x.cls), BitVec.ofNat 8 x.sid] ++ x.nd ++
    x.nc)

/-- A session that is open. -/
def Session.opened (x : Session) : Session := { x with up := true }

section

variable {s : State} {r : OdeReq} {x : Session} (hreq : s.ode.req = some r) (hwait : r.waits = none)
  (hx : s.session r.sid = some x) (hop : r.op = Hdp.AUTH) (hup : x.up = false) (hlen : r.payload.length = 16)
  {k : List Byte} (hkey : s.hdpKey x.slot = some k)
include hreq hwait hx hop hup hlen hkey

theorem exec_hdpAuth : exec .hdpAuth s = .next (if r.payload = x.clientProof k then
      ((s.failsNoted r.src 0 s.ode.locked).replyPlain r x.sid St.OK (x.deviceProof k)).setSession x.sid (fun y => y.opened)
    else s.authFail r) := by
  have hrun : exec .hdpAuth s = .next (s.hdpAuth r) :=
    congrArg Host.Outcome.next (withReq_of_taken hreq hwait hop State.hdpAuth)
  rw [hrun, State.hdpAuth, hx]
  dsimp only
  rw [if_neg (by rw [hup]; exact Bool.false_ne_true), if_neg (not_not.mpr hlen), hkey]
  rfl

/-- The right proof opens the session. -/
theorem hdpAuth_opens (hproof : r.payload = x.clientProof k) : Runs .hdpAuth s fun t =>
    (t.session r.sid).map (fun y => y.up) = some true ∧ Sparse.getN t.ode.fails r.src = 0 ∧ t.ode.req = none ∧
      SameBytes s t := by
  have hrun := (exec_hdpAuth hreq hwait hx hop hup hlen hkey).trans (congrArg Host.Outcome.next (if_pos hproof))
  have hode := failsNoted_ode s r.src 0 s.ode.locked
  have hmem := failsNoted_mem s r.src 0 s.ode.locked
  generalize s.failsNoted r.src 0 s.ode.locked = u at *
  have hplain := replyPlain_answered u r x.sid St.OK (x.deviceProof k)
  generalize u.replyPlain r x.sid St.OK (x.deviceProof k) = w at *
  have hsame : w.session r.sid = some x := (session_congr (by rw [hplain.sessions, hode]) _).trans hx
  refine ⟨_, hrun, ?_, ?_, ?_, sameBytes_of_mem ((setSession_mem ..).trans (hplain.mem.trans hmem))⟩
  · rw [sid_of_session hx, session_setSession (f := fun y => y.opened) _ fun _ => rfl, hsame]
    rfl
  · rw [setSession_ode]
    dsimp only
    rw [hplain.fails, hode, getN_putN, if_pos rfl]
  · rw [setSession_ode]
    exact hplain.req

/-- Another proof drops it. -/
theorem hdpAuth_fails (hproof : r.payload ≠ x.clientProof k) : Runs .hdpAuth s fun t =>
    t.session r.sid = none ∧ t.ode.req = none ∧ Counted R.ODE_CNT_AUTH s t ∧
      t.ode.locked = (if Sparse.getN s.ode.fails r.src + 1 < 5 then s.ode.locked else s.ode.locked ++ [r.src]) ∧
      Sparse.getN t.ode.fails r.src =
        (if Sparse.getN s.ode.fails r.src + 1 < 5 then Sparse.getN s.ode.fails r.src + 1 else 0) ∧ SameBytes s t :=
  ⟨_, (exec_hdpAuth hreq hwait hx hop hup hlen hkey).trans (congrArg Host.Outcome.next (if_neg hproof)), authFail_drops s r⟩

end

end Sys2Proof.Machine
end

section
/-! PROOFS. Requests of an open session that are answered at once (O54). -/

namespace Sys2Proof.Machine

/-! ### An answer on a session -/

/-- The request is done with, and its response stored with the session's next SEQ. -/
def Responds (s : State) (r : OdeReq) (x : Session) (status detail : Nat) (payload : List Byte) (t : State) : Prop :=
  t.ode.req = none ∧ ∀ pdu, s.sessionPdu x 0x18 r.op r.rtag status detail payload = some pdu →
    (t.session r.sid).map (fun y => (y.seqOut, y.last)) = some (x.seqOut + 1, pdu)

/-- No byte of memory changes, and no register but those that count and show an answer. -/
def Still (s t : State) : Prop := SameBytes s t ∧ RegsBut answerRegs s t

theorem Still.of_mem {s t : State} (hmem : t.mem = s.mem) (hregs : RegsBut answerRegs s t) : Still s t :=
  ⟨sameBytes_of_mem hmem, hregs⟩

theorem Still.reply {s u : State} {r : OdeReq} {status detail : Nat} {payload : List Byte} (hmem : u.mem = s.mem)
    (hregs : RegsBut answerRegs s u) : Still s (u.reply r status detail payload) :=
  have hans := reply_answered u r status detail payload
  .of_mem (hans.mem.trans hmem) (hregs.trans hans.regs)

/-- What a session's responses depend on stands. -/
structure Session.SpeaksAs (y x : Session) : Prop where
  sid : y.sid = x.sid
  auth : y.auth = x.auth
  slot : y.slot = x.slot
  seqOut : y.seqOut = x.seqOut
  nc : y.nc = x.nc
  nd : y.nd = x.nd

theorem sessionPdu_session {s : State} {x y : Session} (h : y.SpeaksAs x) (flags op rtag status detail : Nat)
    (payload : List Byte) : s.sessionPdu y flags op rtag status detail payload =
      s.sessionPdu x flags op rtag status detail payload := by
  obtain ⟨hsid, hauth, hslot, hseq, hnc, hnd⟩ := h
  unfold State.sessionPdu Session.tag
  rw [hsid, hauth, hslot, hseq, hnc, hnd]

/-- The answer of an operation that kept the keys and what the response of its session depends on. -/
theorem responds_of {s u : State} {r : OdeReq} {x y : Session} (hcry : u.cry = s.cry) (hy : u.session r.sid = some y)
    (hspeaks : y.SpeaksAs x) (status detail : Nat) (payload : List Byte) :
    Responds s r x status detail payload (u.reply r status detail payload) := by
  refine ⟨(reply_answered ..).req, fun pdu hpdu => ?_⟩
  have hpdu' : u.sessionPdu y 0x18 r.op r.rtag status detail payload = some pdu := by
    rw [sessionPdu_congr hcry, sessionPdu_session hspeaks, hpdu]
  rw [reply_stored hy hpdu', ← hspeaks.seqOut]
  rfl

/-- The answer of an operation that left the keys and the session alone. -/
theorem responds_same {s u : State} {r : OdeReq} {x : Session} (hcry : u.cry = s.cry) (hx : u.session r.sid = some x)
    (status detail : Nat) (payload : List Byte) : Responds s r x status detail payload (u.reply r status detail payload) :=
  responds_of hcry hx ⟨rfl, rfl, rfl, rfl, rfl, rfl⟩ status detail payload

/-- An EVENT is acknowledged by its SEQ. -/
def Session.acked (x : Session) (seq : Nat) : Session :=
  match x.sent with
  | some e => if e.seq = seq then { x with sent := none } else x
  | none => x

theorem acked_sid (x : Session) (seq : Nat) : (x.acked seq).sid = x.sid := by
  unfold Session.acked
  split
  · split <;> rfl
  · rfl

theorem acked_of_sent {x : Session} {e : EvSent} (hsent : x.sent = some e) : x.acked e.seq = { x with sent := none } := by
  rw [Session.acked, hsent]
  exact if_pos rfl

section

variable {s : State} {r : OdeReq} {x : Session} (hreq : s.ode.req = some r) (hwait : r.waits = none)
  (hx : s.session r.sid = some x)

include hx in
theorem responds_reply (status detail : Nat) (payload : List Byte) :
    Responds s r x status detail payload (s.reply r status detail payload) ∧ Still s (s.reply r status detail payload) :=
  ⟨responds_same rfl hx .., .reply rfl .refl⟩

include hreq hwait in
/-- An operation runs on the request that was taken for it. -/
theorem runs_of_taken {c : Instr} {op : Nat} {f : State → OdeReq → State} (hexec : exec c s = .next (s.withReq op f))
    (hop : r.op = op) {P : State → Prop} (h : P (f s r)) : Runs c s P :=
  ⟨_, hexec.trans (congrArg Host.Outcome.next (withReq_of_taken hreq hwait hop f)), h⟩

include hreq hwait in
/-- The response to a CLOSE leaves before the session ends (R453). -/
theorem hdpClose_ends (hop : r.op = Hdp.CLOSE) (hbare : r.payload = []) : Runs .hdpClose s fun t =>
    t.session r.sid = none ∧ t.ode.req = none ∧ Still s t := by
  have hclose : s.bare r (fun s => (s.replySt r St.OK).endSession r.sid) = (s.reply r St.OK 0 []).endSession r.sid :=
    if_pos (by rw [hbare]; rfl)
  refine runs_of_taken hreq hwait (op := Hdp.CLOSE) rfl hop ?_
  rw [hclose]
  have hans := reply_answered s r St.OK 0 []
  generalize s.reply r St.OK 0 [] = u at *
  have hmem : (u.endSession r.sid).mem = u.mem := Within.endSession (m := 4194305) (.refl u) ⟨rfl⟩ .mem rfl
  refine ⟨session_endSession .., ?_, .of_mem (hmem.trans hans.mem) (hans.regs.endSession (by decide))⟩
  rw [endSession_ode]
  exact hans.req

include hreq hwait hx

/-- An operation whose whole effect is its answer. -/
theorem runs_answered {c : Instr} {op : Nat} {f : State → OdeReq → State} (hexec : exec c s = .next (s.withReq op f))
    (hop : r.op = op) {status detail : Nat} {payload : List Byte} (hf : f s r = s.reply r status detail payload) :
    Runs c s fun t => Responds s r x status detail payload t ∧ Still s t := by
  refine runs_of_taken hreq hwait hexec hop ?_
  rw [hf]
  exact responds_reply hx ..

/-! ### PING (R453) -/

theorem hdpPing_ok (hop : r.op = Hdp.PING) (hbare : r.payload = []) : Runs .hdpPing s fun t =>
    Responds s r x St.OK 0 [] t ∧ Still s t :=
  runs_answered hreq hwait hx (op := Hdp.PING) rfl hop (if_pos (by rw [hbare]; rfl))

theorem hdpPing_type (hop : r.op = Hdp.PING) (hbare : r.payload ≠ []) : Runs .hdpPing s fun t =>
    Responds s r x St.TYPE 0 [] t ∧ Still s t :=
  runs_answered hreq hwait hx (op := Hdp.PING) rfl hop (if_neg fun h => hbare (List.isEmpty_iff.mp h))

/-! ### DESCRIBE, DIGEST and READ_NET (R453, R467) -/

theorem hdpDescribe_refused (hop : r.op = Hdp.DESCRIBE) (hlen : r.payload.length = 4) {st : Nat}
    (href : s.refCheck (bytesNat r.payload) = .error st) : Runs .hdpDescribe s fun t =>
      Responds s r x st 0 [] t ∧ Still s t := by
  refine runs_answered hreq hwait hx (op := Hdp.DESCRIBE) (f := State.hdpDescribe) rfl hop ?_
  unfold State.hdpDescribe
  dsimp only
  rw [if_neg (not_not.mpr hlen), href]
  rfl

theorem hdpDescribe_ok (hop : r.op = Hdp.DESCRIBE) (hlen : r.payload.length = 4) {d : Desc} {l : List Nat} {a : Nat}
    (href : s.refCheck (bytesNat r.payload) = .ok (d, l)) (haddr : s.descAddr d.area d.item = some a) :
    Runs .hdpDescribe s fun t => Responds s r x St.OK 0
      (s.bytes a 16 ++ (if d.ridx = 0xFFFF then List.replicate 24 0 else s.bytes (imgRange + 24 * d.ridx) 24)) t ∧
        Still s t := by
  refine runs_answered hreq hwait hx (op := Hdp.DESCRIBE) (f := State.hdpDescribe) rfl hop ?_
  unfold State.hdpDescribe
  dsimp only
  rw [if_neg (not_not.mpr hlen), href]
  dsimp only
  rw [haddr]

theorem hdpDigest_ok (hop : r.op = Hdp.DIGEST) (hbare : r.payload = []) : Runs .hdpDigest s fun t =>
    Responds s r x St.OK 0 (natBytes 4 (s.regN R.ODE_GEN) ++ s.digest ++
      natBytes 1 (if s.rb F.ODE_STAT_DIRTY then 1 else 0) ++ natBytes 1 s.netAreas.length ++
        s.netAreas.flatMap (fun a => natBytes 1 a ++ (s.areaDigest a).take 8)) t ∧ Still s t :=
  runs_answered hreq hwait hx (op := Hdp.DIGEST) rfl hop (if_pos (by rw [hbare]; rfl))

theorem hdpReadNet_type (hop : r.op = Hdp.READ_NET) (hlen : r.payload.length ≠ 3) : Runs .hdpReadNet s fun t =>
    Responds s r x St.TYPE 0 [] t ∧ Still s t :=
  runs_answered hreq hwait hx (op := Hdp.READ_NET) (f := State.hdpReadNet) rfl hop (if_pos hlen)

/-- The payload of a READ_NET: the next cursor, and the records that fit. -/
def State.netPage (s : State) (r : OdeReq) : List Byte :=
  let cur := bytesNat (r.payload.drop 1)
  let recs := netRecords s.valueNow (s.netArea (bytesNat (r.payload.take 1)))
  let f := fitRecords 1370 (recs.drop cur)
  natBytes 2 (if recs.length ≤ cur + f.2 then 0xFFFF else cur + f.2) ++ f.1

theorem hdpReadNet_ok (hop : r.op = Hdp.READ_NET) (hlen : r.payload.length = 3) : Runs .hdpReadNet s fun t =>
    Responds s r x St.OK 0 (s.netPage r) t ∧ Still s t :=
  runs_answered hreq hwait hx (op := Hdp.READ_NET) (f := State.hdpReadNet) rfl hop (if_neg (not_not.mpr hlen))

/-! ### SUBSCRIBE and EVENT_ACK (R461, R462) -/

theorem hdpSubscribe_state (hop : r.op = Hdp.SUBSCRIBE) (hlen : r.payload.length = 32)
    (hoff : s.rb F.EVR_SUBSTAT_SUBEN = false) : Runs .hdpSubscribe s fun t =>
      Responds s r x St.STATE 0 [] t ∧ Still s t :=
  runs_answered hreq hwait hx (op := Hdp.SUBSCRIBE) (f := State.hdpSubscribe) rfl hop
    ((if_neg (not_not.mpr hlen)).trans (if_pos (by rw [hoff]; rfl)))

/-- A session whose subscription is another. -/
def Session.subscribed (x : Session) (mask : Nat) : Session := { x with mask := mask }

theorem hdpSubscribe_ok (hop : r.op = Hdp.SUBSCRIBE) (hlen : r.payload.length = 32)
    (hon : s.rb F.EVR_SUBSTAT_SUBEN = true) : Runs .hdpSubscribe s fun t =>
      (t.session r.sid).map (fun y => y.mask) = some (bytesNat r.payload) ∧ Responds s r x St.OK 0 [] t ∧ Still s t := by
  have hrun : s.hdpSubscribe r = (s.setSession r.sid (fun y => y.subscribed (bytesNat r.payload))).reply r St.OK 0 [] :=
    (if_neg (not_not.mpr hlen)).trans (if_neg (by rw [hon]; exact Bool.false_ne_true))
  refine runs_of_taken hreq hwait (op := Hdp.SUBSCRIBE) (f := State.hdpSubscribe) rfl hop ?_
  rw [hrun]
  have hset : (s.setSession r.sid (fun y => y.subscribed (bytesNat r.payload))).session r.sid =
      some (x.subscribed (bytesNat r.payload)) := by
    rw [session_setSession (f := fun y => y.subscribed (bytesNat r.payload)) _ fun _ => rfl, hx, Option.map_some]
  obtain ⟨y, hy, hmask, -⟩ := reply_session hset St.OK 0 []
  refine ⟨?_, responds_of ?_ hset ⟨rfl, rfl, rfl, rfl, rfl, rfl⟩ .., .reply (setSession_mem ..) (RegsBut.refl.setSession (by decide))⟩
  · rw [hy, Option.map_some, hmask]
    rfl
  · exact Within.setSession (m := 4194305) (.refl s) ⟨rfl⟩ .cry rfl

theorem hdpEventAck_ok (hop : r.op = Hdp.EVENT_ACK) (hlen : r.payload.length = 4) {e : EvSent} (hsent : x.sent = some e)
    (hseq : e.seq = bytesNat r.payload) : Runs .hdpEventAck s fun t =>
      (t.session r.sid).map (fun y => y.sent) = some none ∧ Responds s r x St.OK 0 [] t ∧ Still s t := by
  have hrun : s.hdpEventAck r = (s.setSession r.sid (fun y => y.acked (bytesNat r.payload))).reply r St.OK 0 [] :=
    if_neg (not_not.mpr hlen)
  refine runs_of_taken hreq hwait (op := Hdp.EVENT_ACK) (f := State.hdpEventAck) rfl hop ?_
  rw [hrun]
  have hset : (s.setSession r.sid (fun y => y.acked (bytesNat r.payload))).session r.sid = some { x with sent := none } := by
    rw [session_setSession (f := fun y => y.acked (bytesNat r.payload)) _ fun _ => acked_sid .., hx, Option.map_some, ← hseq,
      acked_of_sent hsent]
  obtain ⟨y, hy, -, -, hnone⟩ := reply_session hset St.OK 0 []
  refine ⟨?_, responds_of ?_ hset ⟨rfl, rfl, rfl, rfl, rfl, rfl⟩ ..,
    .reply (setSession_mem ..) (RegsBut.refl.setSession (by decide))⟩
  · rw [hy, Option.map_some, hnone]
  · exact Within.setSession (m := 4194305) (.refl s) ⟨rfl⟩ .cry rfl

end

end Sys2Proof.Machine
end

section
/-! PROOFS. READ, WRITE, WRITE_MULTI and INVOKE of an open session (O54). -/

namespace Sys2Proof.Machine

/-! ### Numbers and entries -/

theorem bytesNat_natBytes : ∀ n v : Nat, v < 256 ^ n → bytesNat (natBytes n v) = v
  | 0, v, h => by
    rw [Nat.pow_zero, Nat.lt_one_iff] at h
    rw [h]
    rfl
  | n + 1, v, h => by
    have hrest : bytesNat (natBytes n (v / 256)) = v / 256 := bytesNat_natBytes n _ (by rw [Nat.pow_succ] at h; omega)
    have hbyte : (BitVec.ofNat 8 v).toNat = v % 256 := BitVec.toNat_ofNat v 8
    have hcons : bytesNat (natBytes (n + 1) v) = (BitVec.ofNat 8 v).toNat + 256 * bytesNat (natBytes n (v / 256)) := rfl
    rw [hcons, hrest, hbyte]
    exact Nat.mod_add_div v 256

theorem refsOf_natBytes {ref : Nat} (h : ref < 2 ^ 32) : refsOf (natBytes 4 ref) = [ref] :=
  congrArg (fun n => [n]) (bytesNat_natBytes 4 ref h)

theorem length_readEntry (status typ : Nat) (v : List Byte) : (readEntry status typ v).length = 4 + v.length := by
  rw [readEntry, List.length_append, List.length_append, length_natBytes]
  rfl

/-! ### A checked access names an element (R440, R446) -/

theorem count_pos_of_find {s : State} {area item : Nat} {d : Desc} (h : s.findDesc area item = some d) : 0 < d.count := by
  obtain ⟨k, -, rfl⟩ := List.mem_map.mp (List.mem_of_find?_eq_some h)
  exact Nat.succ_pos _

theorem length_splitElems {typ : Nat} : ∀ {n : Nat} {l : List Byte} {t : List (List Byte)}, splitElems typ n l = some t →
    t.length = n
  | 0, l, t, h => by
    rw [splitElems] at h
    split at h
    · rw [← Option.some.inj h]
      rfl
    · cases h
  | n + 1, l, t, h => by
    unfold splitElems at h
    extract_lets k rest at h
    clear_value k rest
    split at h
    · obtain ⟨u, hu, rfl⟩ := Option.map_eq_some_iff.mp h
      rw [List.length_cons, length_splitElems hu]
    · cases h

/-- The elements that a reference names, and one at least. -/
theorem refCheck_pos {s : State} {ref : Nat} {d : Desc} {es : List Nat} (h : s.refCheck ref = .ok (d, es)) :
    0 < d.count ∧ 0 < es.length := by
  unfold State.refCheck at h
  split at h
  · cases h
  · next d' hfind =>
    have hpos := count_pos_of_find hfind
    dsimp only at h
    split at h
    · obtain ⟨rfl, rfl⟩ := Prod.mk.inj (Except.ok.inj h)
      refine ⟨hpos, ?_⟩
      rw [List.length_range, Desc.elems]
      split
      · exact hpos
      · exact Nat.one_pos
    · split at h
      · obtain ⟨rfl, rfl⟩ := Prod.mk.inj (Except.ok.inj h)
        exact ⟨hpos, Nat.one_pos⟩
      · cases h

theorem split_pos {d : Desc} {ref typ : Nat} {v : List Byte} {l : List (List Byte)} (hpos : 0 < d.count)
    (h : d.split ref typ v = .ok l) : 0 < l.length := by
  unfold Desc.split at h
  extract_lets ok at h
  clear_value ok
  split at h
  · cases h
  · split at h
    · cases h
    · next l' hl' =>
      split at h
      · obtain rfl := Except.ok.inj h
        split at hl'
        · rwa [length_splitElems hl']
        · rw [← Option.some.inj hl']
          exact Nat.one_pos
      · cases h

theorem checkValue_pos {s : State} {op ref typ : Nat} {v : List Byte} {d : Desc} {l : List (Nat × List Byte)}
    (h : s.checkValue op ref typ v = .ok (d, l)) : 0 < l.length := by
  unfold State.checkValue at h
  split at h
  · cases h
  · next d' es href =>
    obtain ⟨hcount, hes⟩ := refCheck_pos href
    split at h
    · obtain ⟨-, rfl⟩ := Prod.mk.inj (Except.ok.inj h)
      rwa [List.length_map]
    · split at h
      · cases h
      · next vs hvs =>
        split at h
        · obtain ⟨-, rfl⟩ := Prod.mk.inj (Except.ok.inj h)
          rw [List.length_zip]
          exact Nat.lt_min.mpr ⟨hes, split_pos hcount hvs⟩
        · cases h

theorem checkValue_of_access {s : State} {op cls ref typ : Nat} {v : List Byte} {d : Desc} {l : List (Nat × List Byte)}
    (h : s.accessCheck op cls ref typ v = .ok (d, l)) : s.checkValue op ref typ v = .ok (d, l) := by
  unfold State.accessCheck at h
  split at h
  · cases h
  · split at h
    · cases h
    · split at h
      · cases h
      · next d' l' hvalue =>
        rw [hvalue]
        split at h
        · cases h
        · split at h
          · cases h
          · split at h
            · split at h
              · cases h
              · exact h
            · exact h

theorem accessCheck_pos {s : State} {op cls ref typ : Nat} {v : List Byte} {d : Desc} {l : List (Nat × List Byte)}
    (h : s.accessCheck op cls ref typ v = .ok (d, l)) : 0 < l.length := checkValue_pos (checkValue_of_access h)

/-! ### READ (R453) -/

/-- A store-bound element is read without an effect. -/
theorem readElems_of_store {s : State} {d : Desc} (hbind : d.bind = 1) : ∀ es : List Nat, (s.readElems d es).1 = s
  | [] => rfl
  | e :: es => by
    have hfirst : (if d.bind = 2 then s.fwRead d e else s.elemRead d e).1 = s := by
      rw [if_neg (by rw [hbind]; decide), State.elemRead, if_neg (by rw [hbind]; decide)]
    unfold State.readElems
    extract_lets first rest
    have hrest : rest.1 = s := by
      show (first.1.readElems d es).1 = s
      rw [show first.1 = s from hfirst]
      exact readElems_of_store hbind es
    split
    · exact hrest
    · exact hrest

theorem readParam_of_store {s : State} {d : Desc} {ref : Nat} {es : List Nat} (hbind : d.bind = 1) {v : List Byte}
    (h : (s.readParam d ref es).2 = .val v) : s.readParam d ref es = (s, .val v) := by
  refine Prod.ext ?_ h
  unfold State.readParam at h ⊢
  dsimp only at h ⊢
  split
  · exact readElems_of_store hbind es
  · rw [if_neg (by rw [hbind]; decide)]
    exact readElems_of_store hbind es

theorem readRefs_end {s : State} {r : OdeReq} {acc : List Byte} (hfits : acc.length ≤ 1372) :
    s.readRefs r acc [] = s.reply r St.OK 0 acc := if_neg (Nat.not_lt.mpr hfits)

theorem readRefs_refused {s : State} {r : OdeReq} {ref st : Nat}
    (hcheck : s.accessCheck Acc.READ (s.clsOf r) ref 0 [] = .error st) :
    s.readRefs r [] [ref] = (s.noteStatus st).reply r St.OK 0 (readEntry st 0 []) := by
  rw [State.readRefs, hcheck]
  exact readRefs_end (by rw [List.nil_append, length_readEntry]; decide)

theorem readRefs_value {s : State} {r : OdeReq} {ref : Nat} {d : Desc} {l : List (Nat × List Byte)} {v : List Byte}
    (hcheck : s.accessCheck Acc.READ (s.clsOf r) ref 0 [] = .ok (d, l)) (hbind : d.bind = 1)
    (hval : (s.readParam d ref (l.map (fun y => y.1))).2 = .val v) (hfits : 4 + v.length ≤ 1372) :
    s.readRefs r [] [ref] = s.reply r St.OK 0 (readEntry St.OK d.typ v) := by
  rw [State.readRefs, hcheck]
  dsimp only
  rw [readParam_of_store hbind hval]
  exact readRefs_end (by rw [List.nil_append, length_readEntry]; exact hfits)

theorem hdpRead_of_one {s : State} {r : OdeReq} {ref : Nat} (href : ref < 2 ^ 32)
    (hpayload : r.payload = natBytes 1 1 ++ natBytes 4 ref) : s.hdpRead r = s.readRefs r [] [ref] := by
  have hcount : bytesNat (r.payload.take 1) = 1 := by rw [hpayload]; rfl
  have htail : r.payload.tail = natBytes 4 ref := by rw [hpayload]; rfl
  have hlen : r.payload.length = 1 + 4 * 1 := by rw [hpayload, List.length_append, length_natBytes, length_natBytes]
  unfold State.hdpRead
  rw [hcount, htail, refsOf_natBytes href]
  exact if_neg (not_not.mpr hlen)

section

variable {s : State} {r : OdeReq} {x : Session} (hreq : s.ode.req = some r) (hwait : r.waits = none)
  (hx : s.session r.sid = some x)
include hreq hwait hx

theorem hdpRead_refused (hop : r.op = Hdp.READ) {ref st : Nat} (href : ref < 2 ^ 32)
    (hpayload : r.payload = natBytes 1 1 ++ natBytes 4 ref)
    (hcheck : s.accessCheck Acc.READ (s.clsOf r) ref 0 [] = .error st) : Runs .hdpRead s fun t =>
      Responds s r x St.OK 0 (readEntry st 0 []) t ∧ Still s t := by
  refine runs_of_taken hreq hwait (op := Hdp.READ) (f := State.hdpRead) rfl hop ?_
  rw [hdpRead_of_one href hpayload, readRefs_refused hcheck]
  have hnote : Within 17 s (s.noteStatus st) := .noteStatus (.refl s) ⟨rfl⟩
  have hsession : (s.noteStatus st).session r.sid = some x := (session_congr (by rw [noteStatus_ode]) _).trans hx
  exact ⟨responds_same (hnote .cry rfl) hsession .., .reply (hnote .mem rfl)
    (RegsBut.refl.noteStatus (by decide) (by decide))⟩

theorem hdpRead_value (hop : r.op = Hdp.READ) {ref : Nat} (href : ref < 2 ^ 32)
    (hpayload : r.payload = natBytes 1 1 ++ natBytes 4 ref) {d : Desc} {l : List (Nat × List Byte)} {v : List Byte}
    (hcheck : s.accessCheck Acc.READ (s.clsOf r) ref 0 [] = .ok (d, l)) (hbind : d.bind = 1)
    (hval : (s.readParam d ref (l.map (fun y => y.1))).2 = .val v) (hfits : 4 + v.length ≤ 1372) :
    Runs .hdpRead s fun t => Responds s r x St.OK 0 (readEntry St.OK d.typ v) t ∧ Still s t :=
  runs_answered hreq hwait hx (op := Hdp.READ) (f := State.hdpRead) rfl hop
    ((hdpRead_of_one href hpayload).trans (readRefs_value hcheck hbind hval hfits))

end

/-! ### Values in force (R447, R464, R468) -/

theorem jKeep_ode (s : State) : s.jKeep.ode = s.ode := rfl

/-- The journal changes its buffer, and no session, request or queue. -/
theorem journal_leaves (s : State) (l : List (Desc × Nat × List Byte)) :
    (s.journal l).ode.sessions = s.ode.sessions ∧ (s.journal l).ode.req = s.ode.req ∧
      (s.journal l).ode.fwq = s.ode.fwq ∧ RegsBut [R.ODE_JSTAT] s (s.journal l) := by
  unfold State.journal
  extract_lets new g
  clear_value new
  split
  · exact ⟨rfl, rfl, rfl, .refl⟩
  · rw [jKeep_ode]
    exact ⟨rfl, rfl, rfl, RegsBut.wf (regsBut_setOde .refl) (by decide)⟩

theorem wrote_sessions (s : State) (l : List (Desc × Nat × List Byte)) : (s.wrote l).ode.sessions = s.ode.sessions := by
  unfold State.wrote
  split
  · exact (journal_leaves ..).1
  · exact (journal_leaves ..).1

/-- A NET parameter among the values sets DIRTY. -/
theorem wrote_dirty (s : State) {l : List (Desc × Nat × List Byte)} (hnet : l.any (fun x => x.1.net) = true) :
    (s.wrote l).rb F.ODE_STAT_DIRTY = true := by
  have hset : (s.wb F.ODE_STAT_DIRTY true).rb F.ODE_STAT_DIRTY = true := rb_wb_same s true rfl (by decide)
  obtain ⟨-, -, -, hkept⟩ := journal_leaves (s.wb F.ODE_STAT_DIRTY true) (l ++ s.ownVal 3 [1])
  unfold State.wrote
  rw [if_pos hnet]
  rw [(StatStands.of_regsBut hkept (by decide)).dirty, hset]

/-- What an operation leaves until it answers: the sessions and the keys. -/
structure Kept (s t : State) : Prop where
  sessions : t.ode.sessions = s.ode.sessions
  cry : t.cry = s.cry

theorem Kept.responds {s t : State} (h : Kept s t) {r : OdeReq} {x : Session} (hx : s.session r.sid = some x)
    (status detail : Nat) (payload : List Byte) : Responds s r x status detail payload (t.reply r status detail payload) :=
  responds_same h.cry ((session_congr h.sessions _).trans hx) ..

theorem Kept.applyStore (s : State) (l : List (Desc × Nat × List Byte)) : Kept s (s.applyStore l) :=
  have hstore : Within 2 s (s.applyStore l) := .applyStore (.refl s) ⟨rfl⟩
  ⟨congrArg OdeSt.sessions (hstore .ode rfl), hstore .cry rfl⟩

theorem Kept.wrote {s t : State} (h : Kept s t) (l : List (Desc × Nat × List Byte)) : Kept s (t.wrote l) :=
  ⟨(wrote_sessions t l).trans h.sessions, (Within.wrote (m := 4194305) (.refl t) ⟨rfl⟩ .cry rfl).trans h.cry⟩

theorem wrote_mem (s : State) (l : List (Desc × Nat × List Byte)) : (s.wrote l).mem = s.mem :=
  Within.wrote (m := 4194305) (.refl s) ⟨rfl⟩ .mem rfl

/-- Entries of store-bound parameters write no register: they apply at once. -/
theorem applyAll_of_store {s : State} {l : Entries} (hbind : ∀ e ∈ l, e.2.1.bind = 1) :
    s.applyAll l = (s.applyStore l.vals, none) := by
  have hops : l.ops = [] := List.flatMap_eq_nil_iff.mpr fun e he => if_neg (by rw [hbind e he]; decide)
  unfold State.applyAll
  rw [hops]
  rfl

/-! ### WRITE (R447) -/

section

variable {s : State} {r : OdeReq} {x : Session} (hreq : s.ode.req = some r) (hwait : r.waits = none)
  (hx : s.session r.sid = some x)
include hreq hwait hx

theorem hdpWrite_type (hop : r.op = Hdp.WRITE) (hnone : takeWrites 1 r.payload = none) : Runs .hdpWrite s fun t =>
    Responds s r x St.TYPE 0 [] t ∧ Still s t := by
  refine runs_answered hreq hwait hx (op := Hdp.WRITE) (f := State.hdpWrite) rfl hop ?_
  unfold State.hdpWrite
  rw [hnone]
  rfl

variable {ref typ : Nat} {v : List Byte} (htake : takeWrites 1 r.payload = some [(ref, typ, v)])
include htake

theorem hdpWrite_refused (hop : r.op = Hdp.WRITE) {st : Nat}
    (hcheck : s.accessCheck Acc.WRITE (s.clsOf r) ref typ v = .error st) : Runs .hdpWrite s fun t =>
      Responds s r x st 0 [] t ∧ Still s t := by
  refine runs_answered hreq hwait hx (op := Hdp.WRITE) (f := State.hdpWrite) rfl hop ?_
  unfold State.hdpWrite
  rw [htake]
  dsimp only
  rw [hcheck]
  rfl

variable {d : Desc} {l : List (Nat × List Byte)}

theorem hdpWrite_stores (hop : r.op = Hdp.WRITE) (hcheck : s.accessCheck Acc.WRITE (s.clsOf r) ref typ v = .ok (d, l))
    (hbind : d.bind = 1) : Runs .hdpWrite s fun t => t.mem = (s.applyStore (entryVals d l)).mem ∧
      (d.net = true → t.rb F.ODE_STAT_DIRTY = true) ∧ Responds s r x St.OK 0 [] t := by
  have hvals : Entries.vals [(0, d, l)] = entryVals d l := List.flatMap_singleton ..
  have hrun : s.hdpWrite r = ((s.applyStore (entryVals d l)).wrote (entryVals d l)).reply r St.OK 0 [] := by
    unfold State.hdpWrite
    rw [htake]
    dsimp only
    rw [hcheck]
    dsimp only
    unfold State.writeParam
    dsimp only
    rw [if_neg (by rw [hbind]; decide), applyAll_of_store (List.forall_mem_singleton.mpr hbind), hvals]
    rfl
  have hkept := (Kept.applyStore s (entryVals d l)).wrote (entryVals d l)
  refine runs_of_taken hreq hwait (op := Hdp.WRITE) (f := State.hdpWrite) rfl hop ?_
  rw [hrun]
  have hans := reply_answered ((s.applyStore (entryVals d l)).wrote (entryVals d l)) r St.OK 0 []
  refine ⟨hans.mem.trans (wrote_mem ..), fun hnet => ?_, hkept.responds hx ..⟩
  rw [hans.stat.dirty]
  refine wrote_dirty _ (List.any_eq_true.mpr ?_)
  obtain ⟨e, he⟩ := List.exists_mem_of_length_pos (accessCheck_pos hcheck)
  exact ⟨_, List.mem_map_of_mem he, hnet⟩

/-! ### INVOKE (R448, R453) -/

theorem hdpInvoke_refused (hop : r.op = Hdp.INVOKE) {st : Nat}
    (hcheck : s.accessCheck Acc.INVOKE (s.clsOf r) ref typ v = .error st) : Runs .hdpInvoke s fun t =>
      Responds s r x st 0 [] t ∧ Still s t := by
  refine runs_answered hreq hwait hx (op := Hdp.INVOKE) (f := State.hdpInvoke) rfl hop ?_
  unfold State.hdpInvoke
  rw [htake]
  dsimp only
  rw [hcheck]
  rfl

end

/-- The access that a post makes, and the queue it joins. -/
theorem fwPost_ode (s : State) (d : Desc) (kind ref typ : Nat) (v : List Byte) : (s.fwPost d kind ref typ v).1.ode.fwq =
    s.ode.fwq ++ [⟨s.ode.fwNum, d.core, kind, d.target % 2 ^ 16, ref, typ, v, false⟩] ∧
      (s.fwPost d kind ref typ v).2 = s.ode.fwNum := ⟨rfl, rfl⟩

theorem regsBut_fwPost (s : State) (d : Desc) (kind ref typ : Nat) (v : List Byte) (l : List Nat) :
    RegsBut l s (s.fwPost d kind ref typ v).1 := fun _ _ _ => rfl

theorem hdpInvoke_posts {s : State} {r : OdeReq} (hreq : s.ode.req = some r) (hwait : r.waits = none) (hop : r.op = Hdp.INVOKE)
    {ref typ : Nat} {v : List Byte} (htake : takeWrites 1 r.payload = some [(ref, typ, v)]) {d : Desc}
    {l : List (Nat × List Byte)} (hcheck : s.accessCheck Acc.INVOKE (s.clsOf r) ref typ v = .ok (d, l)) (hbind : d.bind = 2)
    (hlen : v.length ≤ 1024) : Runs .hdpInvoke s fun t =>
      t.ode.fwq = s.ode.fwq ++ [⟨s.ode.fwNum, d.core, Acc.INVOKE, d.target % 2 ^ 16, ref, typ, v, false⟩] ∧
        t.ode.req.map (fun q => q.waits) = some (some s.ode.fwNum) ∧ Still s t := by
  obtain ⟨hfwq, hnum⟩ := fwPost_ode s d Acc.INVOKE ref typ v
  have hrun : s.hdpInvoke r = (s.fwPost d Acc.INVOKE ref typ v).1.reqStart { r with waits := some s.ode.fwNum } := by
    unfold State.hdpInvoke
    rw [htake]
    dsimp only
    rw [hcheck]
    dsimp only
    rw [if_pos hbind, State.postReq, if_neg (Nat.not_lt.mpr hlen)]
    rfl
  have hmem : (s.fwPost d Acc.INVOKE ref typ v).1.mem = s.mem := Within.fwPost (m := 4194304) (.refl s) ⟨rfl⟩ .mem rfl
  have hregs := regsBut_fwPost s d Acc.INVOKE ref typ v answerRegs
  refine runs_of_taken hreq hwait (op := Hdp.INVOKE) (f := State.hdpInvoke) rfl hop ?_
  rw [hrun]
  generalize (s.fwPost d Acc.INVOKE ref typ v).1 = u at *
  refine ⟨?_, ?_, .of_mem ((reqStart_mem ..).trans hmem) (hregs.reqStart (by decide))⟩
  · rw [reqStart_ode, hfwq]
  · rw [reqStart_ode]
    rfl

/-! ### WRITE_MULTI (R454) -/

theorem foldl_keeps {α β γ : Type} {g : β → γ} {f : β → α → β} (h : ∀ b a, g (f b a) = g b) (l : List α) (b : β) :
    g (l.foldl f b) = g b := by
  induction l generalizing b with
  | nil => rfl
  | cons a l ih => rw [List.foldl_cons, ih, h]

theorem anchorWrite_sessions (s : State) (l : Entries) : (s.anchorWrite l).ode.sessions = s.ode.sessions := by
  have hset : ∀ (u : State) (d : Desc) (vs : List (Nat × List Byte)),
      (vs.foldl (fun u v => u.setFwVal d v.1 v.2) u).ode.sessions = u.ode.sessions := fun u d vs =>
    foldl_keeps (g := fun u : State => u.ode.sessions)
      (f := fun u (v : Nat × List Byte) => u.setFwVal d v.1 v.2) (fun _ _ => rfl) vs u
  have hfold := foldl_keeps (g := fun u : State => u.ode.sessions)
    (f := fun u (e : Nat × Desc × List (Nat × List Byte)) => e.2.2.foldl (fun u v => u.setFwVal e.2.1 v.1 v.2) u)
    (fun u e => hset u e.2.1 e.2.2) (l.filter (fun e => e.2.1.isAnchor)) s
  unfold State.anchorWrite
  extract_lets a u
  have hu : u.ode.sessions = s.ode.sessions := hfold
  clear_value u
  split
  · exact hu
  · exact hu

theorem Kept.anchorWrite {s t : State} (h : Kept s t) (l : Entries) : Kept s (t.anchorWrite l) :=
  ⟨(anchorWrite_sessions t l).trans h.sessions, (Within.anchorWrite (m := 4194304) (.refl t) ⟨rfl⟩ .cry rfl).trans h.cry⟩

section

variable {s : State} {r : OdeReq} {x : Session} (hreq : s.ode.req = some r) (hwait : r.waits = none)
  (hx : s.session r.sid = some x) (hop : r.op = Hdp.WRITE_MULTI)
include hreq hwait hx hop

theorem hdpWriteMulti_type (hbad : takeWrites (bytesNat (r.payload.take 1)) r.payload.tail = none ∨
    bytesNat (r.payload.take 1) < 1 ∨ 32 < bytesNat (r.payload.take 1)) : Runs .hdpWriteMulti s fun t =>
      Responds s r x St.TYPE 0 [] t ∧ Still s t := by
  refine runs_answered hreq hwait hx (op := Hdp.WRITE_MULTI) (f := State.hdpWriteMulti) rfl hop ?_
  unfold State.hdpWriteMulti
  dsimp only
  split
  · rfl
  · next ws hws => exact if_pos (hbad.resolve_left fun h => by rw [h] at hws; cases hws)

variable {ws : List (Nat × Nat × List Byte)}
  (htake : takeWrites (bytesNat (r.payload.take 1)) r.payload.tail = some ws)
  (hlow : 1 ≤ bytesNat (r.payload.take 1)) (hhigh : bytesNat (r.payload.take 1) ≤ 32)
include htake hlow hhigh

theorem hdpWriteMulti_refused {k st : Nat} (hcheck : s.checkMulti (s.clsOf r) 0 ws = .error (k, st)) :
    Runs .hdpWriteMulti s fun t => Responds s r x st k [] t ∧ Still s t := by
  refine runs_answered hreq hwait hx (op := Hdp.WRITE_MULTI) (f := State.hdpWriteMulti) rfl hop ?_
  unfold State.hdpWriteMulti
  dsimp only
  rw [htake]
  dsimp only
  rw [if_neg (by omega), hcheck]

theorem hdpWriteMulti_stores {l : Entries} (hcheck : s.checkMulti (s.clsOf r) 0 ws = .ok l)
    (hbusy : s.multiBusy l = false) (hbind : ∀ e ∈ l, e.2.1.bind = 1) : Runs .hdpWriteMulti s fun t =>
      t.mem = (s.applyStore (Entries.vals l)).mem ∧ Responds s r x St.OK 0 [] t := by
  have hrun : s.hdpWriteMulti r = (((s.applyStore l.vals).anchorWrite l).wrote l.vals).reply r St.OK 0 [] := by
    unfold State.hdpWriteMulti
    dsimp only
    rw [htake]
    dsimp only
    rw [if_neg (by omega), hcheck]
    dsimp only
    rw [if_neg (by rw [hbusy]; exact Bool.false_ne_true), applyAll_of_store hbind]
    rfl
  have hkept := ((Kept.applyStore s l.vals).anchorWrite l).wrote l.vals
  refine runs_of_taken hreq hwait (op := Hdp.WRITE_MULTI) (f := State.hdpWriteMulti) rfl hop ?_
  rw [hrun]
  refine ⟨?_, hkept.responds hx ..⟩
  have hanchor : ((s.applyStore l.vals).anchorWrite l).mem = (s.applyStore l.vals).mem :=
    Within.anchorWrite (m := 4194304) (.refl _) ⟨rfl⟩ .mem rfl
  exact (reply_answered ..).mem.trans ((wrote_mem ..).trans hanchor)

end

end Sys2Proof.Machine
end

section
/-! PROOFS. The dictionary's protocol (O54). -/

namespace Sys2Proof.Machine

/-- Settles O54, by a lemma per case of a PDU and per operation on the request that was taken: each response is the one
reply, which is counted, stored with the session's next SEQ and sent, and leaves memory and every other register. -/
theorem dictionaryProtocol : Obligations.DictionaryProtocol := by
  refine ⟨fun s src l rest hidle hen hq hheld => ⟨?short, ?nosession, ?opened, ?named, ?plain, ?authd⟩,
    fun s h => exec_hdpPduReceive_idle h, fun s h => exec_op_of_idle h,
    fun s r hreq hwait hop => ⟨hdpOpen_refused hreq hwait hop, hdpOpen_opens hreq hwait hop⟩,
    fun s r x hreq hwait hx => ⟨?auth, ?close, ?ping, ?pingType, ?read, ?write, ?writeType, ?multi, ?invoke, ?describe,
      ?subscribe, ?ack, ?digest, ?netType, ?net⟩⟩
  case short => exact fun hlen => pduReceive_dropped hidle hen hq hheld (pduTake_of_short hlen)
  case nosession =>
    exact fun hlen hop hnone => pduReceive_dropped hidle hen hq hheld (pduTake_of_no_session hlen hop hnone)
  case opened => exact fun hlen hop hsid hformat hturn => pduReceive_open hidle hen hq hheld hlen hop hsid hformat hturn
  case named => exact fun hlen hop hsid => pduReceive_open_named hidle hen hq hheld hlen hop hsid
  case plain =>
    exact fun x hlen hop hx hsrc hup hauth =>
      ⟨fun hseq hformat => pduReceive_older hidle hen hq hheld hlen hop hx hsrc hup hauth hseq hformat,
        fun hseq hnot hformat => pduReceive_repeat hidle hen hq hheld hlen hop hx hsrc hup hauth hseq hnot hformat,
        fun hseq hturn hformat hops hflag =>
          pduReceive_newer hidle hen hq hheld hlen hop hx hsrc hup hauth hseq hturn hformat hops hflag⟩
  case authd =>
    exact fun x hlen hop hx hsrc hup hauth =>
      ⟨fun k hkey htag => pduReceive_untagged hidle hen hq hheld hlen hop hx hsrc hup hauth hkey htag,
        fun hkey => pduReceive_keyless hidle hen hq hheld hlen hop hx hsrc hup hauth hkey⟩
  case auth =>
    exact fun hop hup hlen k hkey => ⟨hdpAuth_opens hreq hwait hx hop hup hlen hkey,
      hdpAuth_fails hreq hwait hx hop hup hlen hkey⟩
  case close => exact fun hop hbare => hdpClose_ends hreq hwait hop hbare
  case ping => exact fun hop hbare => hdpPing_ok hreq hwait hx hop hbare
  case pingType => exact fun hop hbare => hdpPing_type hreq hwait hx hop hbare
  case read =>
    exact fun ref hop href hpayload => ⟨fun st hcheck => hdpRead_refused hreq hwait hx hop href hpayload hcheck,
      fun d l v hcheck hbind hval hfits => hdpRead_value hreq hwait hx hop href hpayload hcheck hbind hval hfits⟩
  case write =>
    exact fun ref typ v hop htake => ⟨fun st hcheck => hdpWrite_refused hreq hwait hx htake hop hcheck,
      fun d l hcheck hbind => hdpWrite_stores hreq hwait hx htake hop hcheck hbind⟩
  case writeType => exact fun hop hnone => hdpWrite_type hreq hwait hx hop hnone
  case multi =>
    exact fun hop => ⟨fun hbad => hdpWriteMulti_type hreq hwait hx hop hbad,
      fun ws htake hlow hhigh =>
        ⟨fun k st hcheck => hdpWriteMulti_refused hreq hwait hx hop htake hlow hhigh hcheck,
          fun l hcheck hbusy hbind => hdpWriteMulti_stores hreq hwait hx hop htake hlow hhigh hcheck hbusy hbind⟩⟩
  case invoke =>
    exact fun ref typ v hop htake => ⟨fun st hcheck => hdpInvoke_refused hreq hwait hx htake hop hcheck,
      fun d l hcheck hbind hlen => hdpInvoke_posts hreq hwait hop htake hcheck hbind hlen⟩
  case describe =>
    exact fun hop hlen => ⟨fun st href => hdpDescribe_refused hreq hwait hx hop hlen href,
      fun d l a href haddr => hdpDescribe_ok hreq hwait hx hop hlen href haddr⟩
  case subscribe =>
    exact fun hop hlen => ⟨fun hoff => hdpSubscribe_state hreq hwait hx hop hlen hoff,
      fun hon => hdpSubscribe_ok hreq hwait hx hop hlen hon⟩
  case ack => exact fun hop hlen e hsent hseq => hdpEventAck_ok hreq hwait hx hop hlen hsent hseq
  case digest => exact fun hop hbare => hdpDigest_ok hreq hwait hx hop hbare
  case netType => exact fun hop hlen => hdpReadNet_type hreq hwait hx hop hlen
  case net => exact fun hop hlen => hdpReadNet_ok hreq hwait hx hop hlen

end Sys2Proof.Machine
end

section
/-! PROOFS. The image load, held values and the journal (O56). -/

namespace Sys2Proof.Machine

/-! ### The image load (R445) -/

section

variable {s : State}

theorem exec_dictionaryImageLoad_idle (h : s.sys.mc5 = false ∨ s.step1 Fn.DICT = true) :
    exec .dictionaryImageLoad s = .next s := by
  refine if_pos ?_
  rcases h with hoff | hdone
  · rw [hoff, Bool.not_false, Bool.true_or]
  · rw [hdone, Bool.or_true]

/-- A refusal whose STATUS is not given. -/
theorem odeRefuse_free (s : State) (code : Nat) : (s.used.refuse R.ODE_ERR code 192).rb F.ODE_ERR_ERR = true ∧
    RegsBut [R.ODE_ERR] s (s.used.refuse R.ODE_ERR code 192) ∧ SameBytes s (s.used.refuse R.ODE_ERR code 192) := by
  have hread : ∀ a, ¬ evrAddr a → (s.used.refuse R.ODE_ERR code 192).reg a =
      if a = R.ODE_ERR then BitVec.ofNat 32 (0x100 + code % 256) else s.reg a := fun a ha =>
    reg_refuse s.used _ _ _ _ (by decide) ha
  have herr := (hread R.ODE_ERR (not_evrAddr_of_ge (by decide))).trans (if_pos rfl)
  refine ⟨?_, fun a ha hevr => (hread a hevr).trans (if_neg fun h => ha (List.mem_singleton.mpr h)),
    sameBytes_of_mem ((refuse_mem ..).trans (used_mem s))⟩
  have hset : bits (BitVec.ofNat 32 (0x100 + code % 256)) 8 8 = 1 := by
    unfold bits
    rw [BitVec.toNat_ofNat]
    omega
  rw [State.rb, State.rf]
  exact (congrArg (fun v => bits v 8 8 == 1) herr).trans (beq_iff_eq.mpr hset)

variable (hrun : s.sys.mc5 = true) (hstep : s.step1 Fn.DICT = false)
include hrun hstep

theorem imageLoad_refused (hbad : s.imageGood = false) : Runs .dictionaryImageLoad s fun t =>
    t.rb F.ODE_ERR_ERR = true ∧ t.step1 Fn.DICT = false ∧ RegsBut [R.ODE_ERR] s t ∧ SameBytes s t := by
  have hexec : exec .dictionaryImageLoad s = .next (s.used.refuse R.ODE_ERR s.free 192) :=
    (if_neg (by rw [hrun, hstep]; decide)).trans (if_pos (by rw [hbad]; rfl))
  obtain ⟨herr, hregs, hbytes⟩ := odeRefuse_free s s.free
  have hkept := hregs.reg (a := R.SYS_STEPOK) (by decide) (not_evrAddr_of_ge (by decide))
  exact ⟨_, hexec, herr, (congrArg (fun v => BitVec.getLsbD v Fn.DICT) hkept).trans hstep, hregs, hbytes⟩

theorem imageLoad_passes (hgood : s.imageGood = true) : Runs .dictionaryImageLoad s fun t => t.step1 Fn.DICT = true := by
  have hlast : ∃ u : State, exec .dictionaryImageLoad s = .next (u.stepsPassed (2 ^ Fn.DICT)) :=
    ⟨_, (if_neg (by rw [hrun, hstep]; decide)).trans (if_neg (by rw [hgood]; decide))⟩
  obtain ⟨u, hexec⟩ := hlast
  refine ⟨_, hexec, ?_⟩
  have hsteps := regN_stepok_stepsPassed u (2 ^ Fn.DICT) (by decide)
  have hbit : ((u.stepsPassed (2 ^ Fn.DICT)).regN R.SYS_STEPOK).testBit Fn.DICT = true := by
    rw [hsteps, Nat.testBit_or, Nat.testBit_two_pow_self, Bool.or_true]
  exact hbit

end

/-! ### Held values (R465) -/

/-- The held values of the dictionary are taken. -/
def State.heldTaken (s : State) : State := s.setOde (fun o => { o with held := [] })

theorem applyStore_mem_congr {s t : State} (h : t.mem = s.mem) (l : List (Desc × Nat × List Byte)) :
    (t.applyStore l).mem = (s.applyStore l).mem := by
  induction l generalizing s t with
  | nil => exact h
  | cons x xs ih =>
    have hstep : (if x.1.bind = 1 then t.storeWrite x.1 x.2.1 x.2.2 else t).mem =
        (if x.1.bind = 1 then s.storeWrite x.1 x.2.1 x.2.2 else s).mem := by
      split
      · unfold State.storeWrite
        split
        · exact setBytes_mem_congr h
        · exact setBytes_mem_congr h
      · exact h
    exact ih hstep

theorem exec_heldValuesApply_idle {s : State} (h : s.ode.req.isSome = true) : exec .heldValuesApply s = .next s := if_pos h

section

variable {s : State} {x : JVal} {d : Desc} {es : List Nat} {l : List (Nat × List Byte)}

/-- A group of one store-bound value that passes its checks is stored. -/
theorem jApply_of_store (hown : ownRef x.ref = false) (href : s.refCheck x.ref = .ok (d, es))
    (hmay : d.permits Acc.WRITE 3 = true) (hvalue : s.checkValue Acc.WRITE x.ref x.typ x.value = .ok (d, l))
    (hbind : d.bind = 1) : s.jApply [x] = s.applyStore (entryVals d l) := by
  have hchecked : s.jCheck [x] = (s, [(x.ref, d, l)]) := by
    unfold State.jCheck
    rw [href]
    dsimp only
    rw [if_pos hmay, hvalue]
    rfl
  have hnone : [x].filter (fun y => ownRef y.ref) = [] := by
    rw [List.filter_cons, if_neg (by rw [hown]; exact Bool.false_ne_true), List.filter_nil]
  have hall : [x].filter (fun y => !ownRef y.ref) = [x] := by
    rw [List.filter_cons, if_pos (by rw [hown]; rfl), List.filter_nil]
  have hvals : Entries.vals [(x.ref, d, l)] = entryVals d l := List.flatMap_singleton ..
  have hcore : [(x.ref, d, l)].filter (fun e => e.2.1.bind == 2) = [] := by
    rw [List.filter_cons, if_neg (by rw [hbind]; decide), List.filter_nil]
  unfold State.jApply
  dsimp only
  rw [hnone, hall, List.foldl_nil, hchecked]
  dsimp only
  rw [applyAll_of_store (List.forall_mem_singleton.mpr hbind), hvals, hcore]
  rfl

theorem heldApply_of_one (hheld : s.ode.held = [[x]]) (hmust : s.mustHold x = false) :
    s.heldApply = s.heldTaken.jApply [x] := by
  have hnow : [x].filter (fun y => !s.mustHold y) = [x] := by
    rw [List.filter_cons, if_pos (by rw [hmust]; rfl), List.filter_nil]
  have hrest : [x].filter (fun y => s.mustHold y) = [] := by
    rw [List.filter_cons, if_neg (by rw [hmust]; exact Bool.false_ne_true), List.filter_nil]
  unfold State.heldApply
  simp only [hheld, List.map_cons, List.map_nil, hnow, hrest]
  rfl

theorem heldTaken_checks (s : State) (x : JVal) : s.heldTaken.refCheck x.ref = s.refCheck x.ref ∧
    s.heldTaken.checkValue Acc.WRITE x.ref x.typ x.value = s.checkValue Acc.WRITE x.ref x.typ x.value := ⟨rfl, rfl⟩

theorem heldValuesApply_stores (hidle : s.ode.req = none) (hheld : s.ode.held = [[x]]) (hmust : s.mustHold x = false)
    (hown : ownRef x.ref = false) (href : s.refCheck x.ref = .ok (d, es)) (hmay : d.permits Acc.WRITE 3 = true)
    (hvalue : s.checkValue Acc.WRITE x.ref x.typ x.value = .ok (d, l)) (hbind : d.bind = 1) :
    Runs .heldValuesApply s fun t =>
      t.ode.held = [] ∧ t.mem = (s.applyStore (entryVals d l)).mem ∧ t.regs = s.regs := by
  obtain ⟨href', hvalue'⟩ := heldTaken_checks s x
  have hexec : exec .heldValuesApply s = .next (s.heldTaken.applyStore (entryVals d l)) := by
    rw [← jApply_of_store (s := s.heldTaken) hown (href'.trans href) hmay (hvalue'.trans hvalue) hbind,
      ← heldApply_of_one hheld hmust]
    exact if_neg (by rw [hidle]; exact Bool.false_ne_true)
  have hstore : Within 2 s.heldTaken (s.heldTaken.applyStore (entryVals d l)) := .applyStore (.refl _) ⟨rfl⟩
  have hmem : s.heldTaken.mem = s.mem := rfl
  exact ⟨_, hexec, congrArg OdeSt.held (hstore .ode rfl), applyStore_mem_congr hmem _, hstore .regs rfl⟩

end

/-! ### The journal's records (R463) -/

theorem length_wordsOf : ∀ (n : Nat) (l : List Byte), l.length = 4 * n → (wordsOf l).length = n
  | 0, l, h => by
    rw [List.length_eq_zero_iff.mp h]
    rfl
  | n + 1, a :: b :: c :: d :: l, h => by
    have hrest := length_wordsOf n l (by simp only [List.length_cons] at h; omega)
    rw [wordsOf, List.length_cons, hrest]
  | n + 1, [], h => by simp only [List.length_nil] at h; omega
  | n + 1, [_], h => by simp only [List.length_cons, List.length_nil] at h; omega
  | n + 1, [_, _], h => by simp only [List.length_cons, List.length_nil] at h; omega
  | n + 1, [_, _, _], h => by simp only [List.length_cons, List.length_nil] at h; omega

theorem length_words (x : JVal) : x.words.length = 2 + (x.value.length + 3) / 4 := by
  have hpad : (wordsOf (x.value ++ List.replicate ((4 - x.value.length % 4) % 4) 0)).length = (x.value.length + 3) / 4 :=
    length_wordsOf _ _ (by rw [List.length_append, List.length_replicate]; omega)
  rw [JVal.words, List.length_append, hpad]
  rfl

/-- What a record of the journal leaves. -/
theorem jPut_keeps (s : State) (typ : Nat) (data : List Nat) : (s.jPut typ data).ode.joff = s.ode.joff + recSize data.length ∧
    (s.jPut typ data).ode.jbuf = s.ode.jbuf ∧ (s.jPut typ data).ode.jpair = s.ode.jpair ∧
    RegsBut [R.XSPI_CNT_OPS] s (s.jPut typ data) := by
  unfold State.jPut
  extract_lets p u
  have hpair : Within 67108864 s (s.pairWrite (s.jSeg (2 * p)) (s.jSeg (2 * p + 1)) s.ode.joff
      ⟨typ, s.ode.jseq % 2 ^ 32, data⟩) := .pairWrite (.refl s) ⟨rfl⟩
  have hops : u.ode = (s.pairWrite (s.jSeg (2 * p)) (s.jSeg (2 * p + 1)) s.ode.joff ⟨typ, s.ode.jseq % 2 ^ 32, data⟩).ode :=
    Within.flashOps (m := 1) (.refl _) ⟨rfl⟩ .ode rfl
  have hode : u.ode = s.ode := hops.trans (hpair .ode rfl)
  have hregs : RegsBut [R.XSPI_CNT_OPS] s u := (RegsBut.of_eq (hpair .regs rfl)).setReg (List.mem_singleton_self _)
  clear_value u
  rw [setOde_ode, hode]
  exact ⟨rfl, rfl, rfl, regsBut_setOde hregs⟩

theorem jPutAll_keeps (l : List JVal) (s : State) :
    (l.foldl (fun s x => s.jPut Jr.VALUE x.words) s).ode.joff = s.ode.joff + (l.map (fun x => valSize x.value.length)).sum ∧
    (l.foldl (fun s x => s.jPut Jr.VALUE x.words) s).ode.jbuf = s.ode.jbuf ∧
    (l.foldl (fun s x => s.jPut Jr.VALUE x.words) s).ode.jpair = s.ode.jpair ∧
    RegsBut [R.XSPI_CNT_OPS] s (l.foldl (fun s x => s.jPut Jr.VALUE x.words) s) := by
  induction l generalizing s with
  | nil => exact ⟨rfl, rfl, rfl, .refl⟩
  | cons x xs ih =>
    obtain ⟨hoff, hbuf, hpair, hregs⟩ := jPut_keeps s Jr.VALUE x.words
    obtain ⟨hoff', hbuf', hpair', hregs'⟩ := ih (s.jPut Jr.VALUE x.words)
    rw [List.foldl_cons]
    refine ⟨?_, hbuf'.trans hbuf, hpair'.trans hpair, hregs.trans hregs'⟩
    rw [hoff', hoff, length_words, List.map_cons, List.sum_cons, Nat.add_assoc, valSize]

/-- A group takes its size of the pair. -/
theorem jPutGroup_keeps (s : State) (g : List JVal) : (s.jPutGroup g).ode.joff = s.ode.joff + groupSize g ∧
    RegsBut [R.XSPI_CNT_OPS] s (s.jPutGroup g) := by
  obtain ⟨hoff, -, -, hregs⟩ := jPutAll_keeps g s
  unfold State.jPutGroup groupSize
  dsimp only
  split
  · obtain ⟨hend, -, -, hregs'⟩ := jPut_keeps (g.foldl (fun s x => s.jPut Jr.VALUE x.words) s) Jr.GROUP [g.length]
    exact ⟨by rw [hend, hoff, Nat.add_assoc]; rfl, hregs.trans hregs'⟩
  · exact ⟨hoff, hregs⟩

theorem jPutGroup_mem (s : State) (g : List JVal) : (s.jPutGroup g).mem = s.mem :=
  Within.jPutGroup (m := 71303169) (.refl s) ⟨rfl⟩ .mem rfl

/-! ### JOURNAL_COMMIT (R464, R466) -/

theorem rf_jstate_wf (s : State) {n : Nat} (hn : n < 4) : (s.wf F.ODE_JSTAT_STATE n).rf F.ODE_JSTAT_STATE = n :=
  (rf_wf_same s _ n (by decide) (by decide)).trans (Nat.mod_eq_of_lt hn)

theorem jKeep_state (s : State) : s.jKeep.rf F.ODE_JSTAT_STATE = s.rf F.ODE_JSTAT_STATE := rf_wf_apart s _ (by decide)

theorem jKeep_wait (s : State) (h : s.ode.jbuf = []) : s.jKeep.rf F.ODE_JSTAT_WAIT = 0 := by
  rw [State.jKeep, h]
  exact rf_wf_same s _ 0 (by decide) (by decide)

theorem jKeep_mem (s : State) : s.jKeep.mem = s.mem := rfl

theorem jKeep_flash (s : State) : s.jKeep.flash = s.flash := rfl

theorem exec_journalCommit_idle {s : State} (h : s.rf F.ODE_JSTAT_STATE ≠ Js.RUN ∨ s.ode.jbuf = []) (f : Bool) :
    exec (.journalCommit f) s = .next s :=
  if_pos (h.imp_right List.isEmpty_iff.mpr)

section

variable {s : State} (hrun : s.rf F.ODE_JSTAT_STATE = Js.RUN) (hpair : s.ode.jpair ≠ 0)

include hrun hpair in
theorem journalCommit_fails (hbuf : s.ode.jbuf ≠ []) : Runs (.journalCommit true) s fun t =>
    t.rf F.ODE_JSTAT_STATE = Js.COMPACT ∧ t.ode.retired = s.rf F.ODE_JSTAT_PAIR :: s.ode.retired ∧ t.ode.jbuf = s.ode.jbuf ∧
      Counted R.ODE_CNT_JRETIRE s t ∧ t.flash = s.flash ∧ SameBytes s t := by
  have hexec : exec (.journalCommit true) s = .next ((s.retire (s.rf F.ODE_JSTAT_PAIR)).wf F.ODE_JSTAT_STATE Js.COMPACT) :=
    (if_neg (not_or.mpr ⟨not_not.mpr hrun, fun h => hbuf (List.isEmpty_iff.mp h)⟩)).trans (if_pos ⟨rfl, hpair⟩)
  have hode : ∀ p, (s.retire p).ode.retired = p :: s.ode.retired ∧ (s.retire p).ode.jbuf = s.ode.jbuf := fun p =>
    have hbump : (s.retire p).ode = { s.ode with retired := p :: s.ode.retired } := bump_ode ..
    ⟨congrArg OdeSt.retired hbump, (congrArg OdeSt.jbuf hbump :)⟩
  have hparts : ∀ p, Within 4194305 s (s.retire p) := fun p => .retire (.refl s) ⟨rfl⟩
  have hcount : ∀ p, Counted R.ODE_CNT_JRETIRE s (s.retire p) := fun p =>
    (counted_bump _ _).after (l := []) (regsBut_setOde .refl) (by decide)
  refine ⟨_, hexec, rf_jstate_wf _ (by decide), ?_⟩
  obtain ⟨hretired, hbuf'⟩ := hode (s.rf F.ODE_JSTAT_PAIR)
  have hparts' := hparts (s.rf F.ODE_JSTAT_PAIR)
  have hcount' := hcount (s.rf F.ODE_JSTAT_PAIR)
  generalize s.retire (s.rf F.ODE_JSTAT_PAIR) = u at *
  have hwf : Within 1 u (u.wf F.ODE_JSTAT_STATE Js.COMPACT) := .wf (.refl u) ⟨rfl⟩
  refine ⟨(congrArg OdeSt.retired (hwf .ode rfl)).trans hretired, (congrArg OdeSt.jbuf (hwf .ode rfl)).trans hbuf',
    hcount'.andThen (l := [R.ODE_JSTAT]) (RegsBut.refl.wf (by decide)) (by decide), (hwf .flash rfl).trans (hparts' .flash rfl),
    sameBytes_of_mem ((hwf .mem rfl).trans (hparts' .mem rfl))⟩

variable {g : List JVal} (hbuf : s.ode.jbuf = [g])
include hrun hbuf

theorem exec_journalCommit : exec (.journalCommit false) s = .next (s.jDrain [g]).jKeep := by
  rw [← hbuf]
  exact (if_neg (not_or.mpr ⟨not_not.mpr hrun, by rw [hbuf]; exact Bool.false_ne_true⟩)).trans
    (if_neg fun h => Bool.false_ne_true h.1)

include hpair in
theorem journalCommit_drains (hroom : s.ode.joff + groupSize g ≤ s.jSize) : Runs (.journalCommit false) s fun t =>
    t.ode.jbuf = [] ∧ t.ode.joff = s.ode.joff + groupSize g ∧ t.rf F.ODE_JSTAT_WAIT = 0 ∧
      t.rf F.ODE_JSTAT_STATE = Js.RUN ∧ SameBytes s t := by
  have hdrain : s.jDrain [g] = (s.jPutGroup g).setOde (fun o => { o with jbuf := [] }) :=
    if_neg (not_or.mpr ⟨hpair, Nat.not_lt.mpr hroom⟩)
  obtain ⟨hoff, hregs⟩ := jPutGroup_keeps s g
  have hmem := jPutGroup_mem s g
  have hstate : (s.jPutGroup g).rf F.ODE_JSTAT_STATE = s.rf F.ODE_JSTAT_STATE :=
    hregs.rf (by decide) (not_evrAddr_of_ge (by decide))
  refine ⟨_, exec_journalCommit hrun hbuf, ?_⟩
  rw [hdrain]
  generalize s.jPutGroup g = u at *
  refine ⟨rfl, hoff, jKeep_wait _ rfl, (jKeep_state _).trans ?_, sameBytes_of_mem hmem⟩
  rw [← hrun, ← hstate]
  rfl

theorem journalCommit_compacts (hroom : s.jSize < s.ode.joff + groupSize g) : Runs (.journalCommit false) s fun t =>
    t.ode.jbuf = [g] ∧ t.rf F.ODE_JSTAT_STATE = Js.COMPACT ∧ t.flash = s.flash ∧ SameBytes s t := by
  have hdrain : s.jDrain [g] = s.wf F.ODE_JSTAT_STATE Js.COMPACT := if_pos (.inr hroom)
  have hwf : Within 1 s (s.wf F.ODE_JSTAT_STATE Js.COMPACT) := .wf (.refl s) ⟨rfl⟩
  have hstate := rf_jstate_wf s (n := Js.COMPACT) (by decide)
  refine ⟨_, exec_journalCommit hrun hbuf, ?_⟩
  rw [hdrain]
  generalize s.wf F.ODE_JSTAT_STATE Js.COMPACT = u at *
  exact ⟨(congrArg OdeSt.jbuf ((jKeep_ode u).trans (hwf .ode rfl))).trans hbuf, (jKeep_state u).trans hstate,
    (jKeep_flash u).trans (hwf .flash rfl), sameBytes_of_mem ((jKeep_mem u).trans (hwf .mem rfl))⟩

end

/-! ### JOURNAL_COMPACT (R466) -/

/-- A compaction ends in RUN, and the buffer still waits. -/
theorem jStart_runs (s : State) (p : Nat) : (s.jStart p).rf F.ODE_JSTAT_STATE = Js.RUN ∧
    (s.jStart p).ode.jbuf = s.ode.jbuf := by
  unfold State.jStart
  extract_lets n next vals wear alarm erased fresh header values snap known last
  have herased : erased.ode.jbuf = s.ode.jbuf := by
    have hparts : Within 67108865 s erased := .wf (.flashOps (.flashErase (.refl s) ⟨rfl⟩) ⟨rfl⟩) ⟨rfl⟩
    exact congrArg OdeSt.jbuf (hparts .ode rfl)
  clear_value erased
  have hfresh : fresh.ode.jbuf = s.ode.jbuf := (congrArg OdeSt.jbuf (setOde_ode erased _)).trans herased
  clear_value fresh
  have hheader : header.ode.jbuf = s.ode.jbuf := (jPut_keeps ..).2.1.trans hfresh
  clear_value header
  have hvalues : values.ode.jbuf = s.ode.jbuf := (jPutAll_keeps ..).2.1.trans hheader
  clear_value values
  have hsnap : snap.ode.jbuf = s.ode.jbuf := (jPut_keeps ..).2.1.trans hvalues
  clear_value snap
  have hknown : known.ode.jbuf = s.ode.jbuf := (congrArg OdeSt.jbuf (setOde_ode snap _)).trans hsnap
  have hlast : last.ode.jbuf = s.ode.jbuf := by
    have hparts : Within 1 known last := .wf (.setRegN (.refl known) ⟨rfl⟩) ⟨rfl⟩
    exact (congrArg OdeSt.jbuf (hparts .ode rfl)).trans hknown
  have hrun : last.rf F.ODE_JSTAT_STATE = Js.RUN := rf_jstate_wf _ (by decide)
  clear_value last
  split
  · exact ⟨((RegsBut.refl (l := [])).raise (by decide)).rf (by decide) (not_evrAddr_of_ge (by decide)) |>.trans hrun,
      (congrArg OdeSt.jbuf (raise_ode ..)).trans hlast⟩
  · exact ⟨hrun, hlast⟩

theorem exec_journalCompact_idle {s : State} (h : s.rf F.ODE_JSTAT_STATE ≠ Js.COMPACT) (bad : Nat) :
    exec (.journalCompact bad) s = .next s := if_neg h

section

variable {s : State} (hstate : s.rf F.ODE_JSTAT_STATE = Js.COMPACT)
include hstate

/-- The pair whose turn it is becomes active. -/
theorem journalCompact_starts {p : Nat} (hnext : s.jNext = some p)
    (hfits : recSize 2 + (s.snapVals.map (fun x => valSize x.value.length)).sum + recSize 1 ≤ s.jSize) :
    Runs (.journalCompact 0) s fun t => t.rf F.ODE_JSTAT_STATE = Js.RUN ∧ t.ode.jbuf = s.ode.jbuf := by
  have hstart : s.jCompact 0 = s.jStart p := by
    rw [State.jCompact, hnext]
    exact if_neg (Nat.not_lt.mpr hfits)
  have hexec : exec (.journalCompact 0) s = .next (s.jCompact 0).jKeep := if_pos hstate
  obtain ⟨hrun, hbuf⟩ := jStart_runs s p
  rw [hstart] at hexec
  refine ⟨_, hexec, ?_⟩
  generalize s.jStart p = u at *
  exact ⟨(jKeep_state u).trans hrun, (congrArg OdeSt.jbuf (jKeep_ode u)).trans hbuf⟩

theorem journalCompact_fails (hnone : s.jNext = none) (bad : Nat) : Runs (.journalCompact bad) s fun t =>
    t.rf F.ODE_JSTAT_STATE = Js.FAIL ∧ t.flash = s.flash ∧ SameBytes s t := by
  have hfail : s.jCompact bad = s.jFail := by
    cases bad with
    | zero => rw [State.jCompact, hnone]
    | succ n => rw [State.jCompact, hnone]
  have hexec : exec (.journalCompact bad) s = .next (s.jCompact bad).jKeep := if_pos hstate
  have hparts : Within 17 s s.jFail := .jFail (.refl s) ⟨rfl⟩
  have hrf : s.jFail.rf F.ODE_JSTAT_STATE = Js.FAIL :=
    ((RegsBut.refl (l := [])).raise (t := s.wf F.ODE_JSTAT_STATE Js.FAIL) (by decide)).rf (by decide)
      (not_evrAddr_of_ge (by decide)) |>.trans (rf_jstate_wf s (by decide))
  rw [hfail] at hexec
  refine ⟨_, hexec, ?_⟩
  generalize s.jFail = u at *
  exact ⟨(jKeep_state u).trans hrf, (jKeep_flash u).trans (hparts .flash rfl),
    sameBytes_of_mem ((jKeep_mem u).trans (hparts .mem rfl))⟩

end

end Sys2Proof.Machine
end

section
/-! PROOFS. Commits of the configuration and pulls (O56). -/

namespace Sys2Proof.Machine

/-! ### A commit (R468) -/

/-- The digest registers hold a digest. -/
def State.digPut (s : State) (dig : List Byte) (n : Nat) : State :=
  (List.range n).foldl (fun s k => s.setRegN (R.ODE_DIG k) (bytesNat ((dig.drop (4 * k)).take 4))) s

theorem digPut_succ (s : State) (dig : List Byte) (n : Nat) : s.digPut dig (n + 1) =
    (s.digPut dig n).setRegN (R.ODE_DIG n) (bytesNat ((dig.drop (4 * n)).take 4)) := by
  rw [State.digPut, List.range_succ, List.foldl_append, List.foldl_cons, List.foldl_nil]
  rfl

theorem digPut_within (s : State) (dig : List Byte) (n : Nat) : Within 1 s (s.digPut dig n) :=
  .foldl (fun h => .setRegN h ⟨rfl⟩) (.refl s)

theorem digAddr_inj {k m : Nat} (h : R.ODE_DIG k = R.ODE_DIG m) : k = m := by
  unfold R.ODE_DIG at h
  omega

theorem reg_digPut (s : State) (dig : List Byte) : ∀ {n m : Nat}, m < n →
    (s.digPut dig n).regN (R.ODE_DIG m) = bytesNat ((dig.drop (4 * m)).take 4) % 2 ^ 32
  | n + 1, m, h => by
    rw [digPut_succ, State.regN, reg_setRegN]
    split
    · next heq =>
      rw [BitVec.toNat_ofNat, digAddr_inj heq]
    · next hne =>
      exact reg_digPut s dig (Nat.lt_of_le_of_ne (Nat.le_of_lt_succ h) fun heq => hne (congrArg R.ODE_DIG heq))

theorem bytesNat_lt : ∀ {n : Nat} {l : List Byte}, l.length ≤ n → bytesNat l < 256 ^ n
  | n, [], _ => Nat.pow_pos (by decide)
  | n + 1, b :: l, h => by
    have hrest : bytesNat l < 256 ^ n := bytesNat_lt (Nat.le_of_succ_le_succ h)
    have hbyte : b.toNat < 256 := b.isLt
    rw [bytesNat, Nat.pow_succ]
    omega

/-- The registers of a commit hold the generation and a clear DIRTY. -/
def State.genPut (s : State) (gen : Nat) : State := (s.setRegN R.ODE_GEN gen).wb F.ODE_STAT_DIRTY false

theorem genPut_keeps (s : State) (gen : Nat) : (s.genPut gen).regN R.ODE_GEN = gen % 2 ^ 32 ∧
    (s.genPut gen).rb F.ODE_STAT_DIRTY = false ∧ RegsBut [R.ODE_GEN, R.ODE_STAT] s (s.genPut gen) ∧
    Within 1 s (s.genPut gen) := by
  have hset : (s.setRegN R.ODE_GEN gen).regN R.ODE_GEN = gen % 2 ^ 32 := by
    rw [State.regN, reg_setRegN, if_pos rfl, BitVec.toNat_ofNat]
  have hregs : RegsBut [R.ODE_GEN] s (s.setRegN R.ODE_GEN gen) := RegsBut.refl.setRegN (by decide)
  have hparts : Within 1 s (s.setRegN R.ODE_GEN gen) := .setRegN (.refl s) ⟨rfl⟩
  unfold State.genPut
  generalize s.setRegN R.ODE_GEN gen = u at *
  refine ⟨?_, rb_wb_same u false rfl (by decide), (hregs.weaken (by decide)).wb (by decide),
    hparts.trans (.wb (.refl u) ⟨rfl⟩)⟩
  rw [← hset]
  exact congrArg BitVec.toNat ((RegsBut.refl (l := [R.ODE_STAT])).wb (s := u) (t := u) (by decide)
    |>.reg (by decide) (not_evrAddr_of_ge (by decide)))

/-- What is journaled of a commit. -/
def State.commitVals (s : State) (gen : Nat) (dig : List Byte) : List (Desc × Nat × List Byte) :=
  s.ownVal 0 dig ++ s.ownVal 1 (natBytes 4 gen) ++ s.ownVal 3 [0]

theorem commitTo_eq (s : State) (gen : Nat) (dig : List Byte) : s.commitTo gen dig =
    ((((s.digPut dig 12).genPut gen).journal (((s.digPut dig 12).genPut gen).commitVals gen dig)).raise 199).extendMr 4 dig :=
  rfl

/-- What a commit writes, and what it leaves. -/
structure Committed (s : State) (gen : Nat) (dig : List Byte) (t : State) : Prop where
  gen : t.regN R.ODE_GEN = gen % 2 ^ 32
  dirty : t.rb F.ODE_STAT_DIRTY = false
  words : ∀ m, m < 12 → t.regN (R.ODE_DIG m) = bytesNat ((dig.drop (4 * m)).take 4)
  mr : t.mr 4 = sha384b (s.mr 4 ++ dig)
  req : t.ode.req = s.ode.req
  fwq : t.ode.fwq = s.ode.fwq
  parts : Within 4718609 s t

theorem mr_extendMr (s : State) (k : Nat) (v : List Byte) : (s.extendMr k v).mr k = sha384b (s.mr k ++ v) :=
  (Sparse.get_put ..).trans (if_pos rfl)

theorem commitTo_commits (s : State) (gen : Nat) (dig : List Byte) : Committed s gen dig (s.commitTo gen dig) := by
  have hparts : Within 4718609 s (s.commitTo gen dig) := .commitTo (.refl s) ⟨rfl⟩
  rw [commitTo_eq] at hparts ⊢
  have hdig : Within 1 s (s.digPut dig 12) := digPut_within s dig 12
  have hwords : ∀ m, m < 12 → (s.digPut dig 12).regN (R.ODE_DIG m) = bytesNat ((dig.drop (4 * m)).take 4) := fun m hm => by
    rw [reg_digPut s dig hm]
    exact Nat.mod_eq_of_lt (bytesNat_lt (n := 4) (List.length_take_le 4 _))
  generalize s.digPut dig 12 = u at *
  obtain ⟨hgen, hdirty, hregs, hgparts⟩ := genPut_keeps u gen
  generalize u.genPut gen = v at *
  obtain ⟨-, hreq, hfwq, hjregs⟩ := journal_leaves v (v.commitVals gen dig)
  have hjparts : Within 4194305 v (v.journal (v.commitVals gen dig)) := .journal (.refl v) ⟨rfl⟩
  generalize v.journal (v.commitVals gen dig) = w at *
  have hrregs : RegsBut [R.ODE_JSTAT] v (w.raise 199) := hjregs.raise (by decide)
  have hrparts : Within 17 w (w.raise 199) := .raise (.refl w) ⟨rfl⟩
  generalize w.raise 199 = z at *
  have hxparts : Within 524288 z (z.extendMr 4 dig) := .extendMr (.refl z) ⟨rfl⟩
  have hxregs : RegsBut [R.ODE_JSTAT] v (z.extendMr 4 dig) := hrregs.trans (.of_eq (hxparts .regs rfl))
  have hode : z.ode = w.ode := hrparts .ode rfl
  have hpke : z.pke = s.pke :=
    ((hrparts .pke rfl).trans (hjparts .pke rfl)).trans ((hgparts .pke rfl).trans (hdig .pke rfl))
  have hbefore : v.ode = s.ode := (hgparts .ode rfl).trans (hdig .ode rfl)
  have hmr : (z.extendMr 4 dig).mr 4 = sha384b (z.mr 4 ++ dig) := mr_extendMr ..
  have hmr' : z.mr 4 = s.mr 4 := congrArg (fun p : PkeSt => Sparse.get (fun _ => List.replicate 48 0) p.mr 4) hpke
  refine ⟨?_, ?_, fun m hm => ?_, hmr.trans (by rw [hmr']), ?_, ?_, hparts⟩
  · rw [← hgen]
    exact congrArg BitVec.toNat (hxregs.reg (by decide) (not_evrAddr_of_ge (by decide)))
  · rw [← hdirty]
    exact (StatStands.of_regsBut hxregs (by decide)).dirty
  · rw [← hwords m hm]
    refine congrArg BitVec.toNat ((hxregs.reg ?_ ?_).trans (hregs.reg ?_ ?_))
    · unfold R.ODE_DIG; simp only [List.mem_singleton, R.ODE_JSTAT]; omega
    · exact not_evrAddr_of_ge (by unfold R.ODE_DIG; omega)
    · unfold R.ODE_DIG; simp only [List.mem_cons, List.not_mem_nil, or_false, R.ODE_GEN, R.ODE_STAT]; omega
    · exact not_evrAddr_of_ge (by unfold R.ODE_DIG; omega)
  · rw [(hxparts .ode rfl), hode, hreq, hbefore]
  · rw [(hxparts .ode rfl), hode, hfwq, hbefore]

end Sys2Proof.Machine
end

section
/-! PROOFS. Pulls from a neighbour (O56). -/

namespace Sys2Proof.Machine

/-! ### The end of a pull (R471) -/

theorem pullEnd_retry (s : State) (ok : Bool) (j : Nat) :
    (s.pullEnd ok j).ode.retry = if ok then none else some j := by
  have hraise : (s.pullEnd ok j).ode = ((s.setOde (fun o => { o with retry := if ok then none else some j })).bump
      (if ok then R.ODE_CNT_PULLOK else R.ODE_CNT_PULLFAIL)).ode := raise_ode ..
  rw [hraise, bump_ode]
  rfl

theorem regsBut_pullEnd (s : State) (ok : Bool) (j : Nat) :
    RegsBut [if ok then R.ODE_CNT_PULLOK else R.ODE_CNT_PULLFAIL] s (s.pullEnd ok j) := by
  have hset : RegsBut [if ok then R.ODE_CNT_PULLOK else R.ODE_CNT_PULLFAIL] s
      (s.setOde (fun o => { o with retry := if ok then none else some j })) := regsBut_setOde .refl
  exact (hset.bump (List.mem_singleton_self _)).raise (by decide)

theorem pullEnd_mem (s : State) (ok : Bool) (j : Nat) : (s.pullEnd ok j).mem = s.mem :=
  Within.pullEnd (m := 4194321) (.refl s) ⟨rfl⟩ .mem rfl

/-- A pull that fails leaves the generation, is counted, and is tried again. -/
theorem pullEnd_fails (s : State) (j : Nat) : (s.pullEnd false j).reg R.ODE_GEN = s.reg R.ODE_GEN ∧
    (s.pullEnd false j).ode.retry = some j ∧ Counted R.ODE_CNT_PULLFAIL s (s.pullEnd false j) ∧
      SameBytes s (s.pullEnd false j) := by
  have hset : RegsBut [] s (s.setOde (fun o => { o with retry := some j })) := regsBut_setOde .refl
  have hcount : Counted R.ODE_CNT_PULLFAIL s ((s.setOde (fun o => { o with retry := some j })).bump R.ODE_CNT_PULLFAIL) :=
    (counted_bump _ _).after hset (by decide)
  exact ⟨(regsBut_pullEnd s false j).reg (by decide) (not_evrAddr_of_ge (by decide)), pullEnd_retry s false j,
    hcount.andThen (l := []) (RegsBut.refl.raise (by decide)) (by decide), sameBytes_of_mem (pullEnd_mem s false j)⟩

/-- A neighbour that does not answer. -/
theorem pull_of_unanswered (s : State) (j : Nat) {p : PullIn} (h : p.answered = false) : s.pull j p = s.pullEnd false j := by
  unfold State.pull
  dsimp only
  split
  · rfl
  · exact if_pos (by rw [h]; rfl)

/-- The areas whose digests differ from a neighbour's (R471). -/
def State.differing (s : State) (p : PullIn) : List Nat :=
  (p.areas.filter (fun y => (s.areaDigest y.1.toNat).take 8 != y.2)).map (fun y => y.1.toNat)

/-- The records of a neighbour that stand in those areas. -/
def State.wanted (s : State) (p : PullIn) (l : List (Nat × Nat × List Byte)) : List (Nat × Nat × List Byte) :=
  l.filter (fun x => (s.differing p).contains (x.1 / 2 ^ 24))

section

variable {s : State} {j : Nat} {p : PullIn} {l : List (Nat × Nat × List Byte)}

theorem pull_of_match (hanswered : p.answered = true) (hrecs : takeRecords p.records.length p.records = some l)
    (hkey : (s.snapshot 6 (s.paramN 0x30 0x014 0 1020) Usage.MAC).isSome = true)
    (hmatch : s.digestOf p.gen.toNat (s.stagedVal (s.wanted p l)) = p.digest) :
    ∃ u : State, s.pull j p = (u.commitTo p.gen.toNat p.digest).pullEnd true j := by
  have hgo : ¬ (!p.answered || (s.snapshot 6 (s.paramN 0x30 0x014 0 1020) Usage.MAC).isNone) = true := by
    rw [hanswered, Option.isNone_eq_false_iff.mpr hkey]
    exact Bool.false_ne_true
  unfold State.pull
  dsimp only
  rw [hrecs]
  exact ⟨_, (if_neg hgo).trans (if_neg (not_not.mpr hmatch))⟩

/-- A pull whose digest matches sets the neighbour's generation and clears DIRTY. -/
theorem pull_succeeds (hanswered : p.answered = true) (hrecs : takeRecords p.records.length p.records = some l)
    (hkey : (s.snapshot 6 (s.paramN 0x30 0x014 0 1020) Usage.MAC).isSome = true)
    (hmatch : s.digestOf p.gen.toNat (s.stagedVal (s.wanted p l)) = p.digest) :
    (s.pull j p).reg R.ODE_GEN = p.gen ∧ (s.pull j p).rb F.ODE_STAT_DIRTY = false ∧ (s.pull j p).ode.retry = none := by
  obtain ⟨u, hpull⟩ := pull_of_match (j := j) hanswered hrecs hkey hmatch
  have hcommit := commitTo_commits u p.gen.toNat p.digest
  rw [hpull]
  generalize u.commitTo p.gen.toNat p.digest = v at *
  have hregs := regsBut_pullEnd v true j
  refine ⟨(hregs.reg (by decide) (not_evrAddr_of_ge (by decide))).trans (BitVec.eq_of_toNat_eq ?_),
    (StatStands.of_regsBut hregs (by decide)).dirty.trans hcommit.dirty, pullEnd_retry v true j⟩
  exact hcommit.gen.trans (Nat.mod_eq_of_lt p.gen.isLt)

end

/-! ### DIGEST_PULL and PULL_RETRY (R471) -/

/-- The oldest NEWER report is taken. -/
def State.pullTaken (s : State) (js : List Nat) : State := s.setOde (fun o => { o with pulls := js })

/-- The pull that failed is taken again. -/
def State.retryTaken (s : State) : State := s.setOde (fun o => { o with retry := none })

theorem regsBut_pullTaken (s : State) (js : List Nat) : RegsBut [] s (s.pullTaken js) := regsBut_setOde .refl

theorem regsBut_retryTaken (s : State) : RegsBut [] s s.retryTaken := regsBut_setOde .refl

theorem exec_digestPull_idle {s : State} (h : s.ode.pulls = []) (p : PullIn) : exec (.digestPull p) s = .next s := by
  have hexec : exec (.digestPull p) s = execDigestPull p s := rfl
  rw [hexec, execDigestPull, h]

theorem exec_pullRetry_idle {s : State} (h : s.ode.retry = none) (p : PullIn) : exec (.pullRetry p) s = .next s := by
  have hexec : exec (.pullRetry p) s = execPullRetry p s := rfl
  rw [hexec, execPullRetry, h]

section

variable {s : State} {j : Nat} {js : List Nat} {p : PullIn} (hidle : s.ode.req = none)
include hidle

theorem exec_digestPull (hpulls : s.ode.pulls = j :: js) : exec (.digestPull p) s =
    if (s.pullTaken js).pullMay j = true then .next ((s.pullTaken js).pull j p) else .next (s.pullTaken js) := by
  have hexec : exec (.digestPull p) s = execDigestPull p s := rfl
  rw [hexec, execDigestPull, hpulls]
  exact if_neg (by rw [hidle]; exact Bool.false_ne_true)

theorem digestPull_fails (hpulls : s.ode.pulls = j :: js) (hmay : (s.pullTaken js).pullMay j = true)
    (hanswered : p.answered = false) : Runs (.digestPull p) s fun t =>
      t.reg R.ODE_GEN = s.reg R.ODE_GEN ∧ t.ode.retry = some j ∧ Counted R.ODE_CNT_PULLFAIL s t ∧ SameBytes s t := by
  have hrun := (exec_digestPull (p := p) hidle hpulls).trans (if_pos hmay)
  rw [pull_of_unanswered _ _ hanswered] at hrun
  obtain ⟨hgen, hretry, hcount, hbytes⟩ := pullEnd_fails (s.pullTaken js) j
  exact ⟨_, hrun, hgen, hretry, hcount.after (regsBut_pullTaken s js) (by decide), hbytes⟩

theorem exec_pullRetry (hretry : s.ode.retry = some j) : exec (.pullRetry p) s =
    if (s.retryTaken.pullMay j && s.retryTaken.rf (F.ODE_NBR_INFO_CLASS j) == 1) = true then .next (s.retryTaken.pull j p)
    else .next s.retryTaken := by
  have hexec : exec (.pullRetry p) s = execPullRetry p s := rfl
  rw [hexec, execPullRetry, hretry]
  exact if_neg (by rw [hidle]; exact Bool.false_ne_true)

theorem pullRetry_drops (hretry : s.ode.retry = some j)
    (hnot : s.retryTaken.pullMay j = false ∨ s.retryTaken.rf (F.ODE_NBR_INFO_CLASS j) ≠ 1) :
    exec (.pullRetry p) s = .next s.retryTaken := by
  refine (exec_pullRetry hidle hretry).trans (if_neg fun h => ?_)
  obtain ⟨hmay, hclass⟩ := Bool.and_eq_true_iff.mp h
  rcases hnot with hoff | hother
  · exact Bool.false_ne_true (hoff.symm.trans hmay)
  · exact hother (beq_iff_eq.mp hclass)

theorem pullRetry_fails (hretry : s.ode.retry = some j) (hmay : s.retryTaken.pullMay j = true)
    (hclass : s.retryTaken.rf (F.ODE_NBR_INFO_CLASS j) = 1) (hanswered : p.answered = false) :
    Runs (.pullRetry p) s fun t =>
      t.reg R.ODE_GEN = s.reg R.ODE_GEN ∧ t.ode.retry = some j ∧ Counted R.ODE_CNT_PULLFAIL s t ∧ SameBytes s t := by
  have hrun := (exec_pullRetry (p := p) hidle hretry).trans
    (if_pos (by rw [hmay, beq_iff_eq.mpr hclass]; rfl))
  rw [pull_of_unanswered _ _ hanswered] at hrun
  obtain ⟨hgen, hagain, hcount, hbytes⟩ := pullEnd_fails s.retryTaken j
  exact ⟨_, hrun, hgen, hagain, hcount.after (regsBut_retryTaken s) (by decide), hbytes⟩

end

end Sys2Proof.Machine
end

section
/-! PROOFS. Device states, and the commands that answer an invoke (O56). -/

namespace Sys2Proof.Machine

/-! ### Device states (R449) -/

theorem opTarget_lt (s : State) : s.opTarget < 8 := by
  rcases opTarget_cases s with h | h <;> rw [h] <;> decide

/-- A device state that is entered leaves the request and the queues to the cores. -/
theorem setDev_queues (s : State) (k : Nat) : (s.setDev k).ode.req = s.ode.req ∧ (s.setDev k).ode.fwq = s.ode.fwq := by
  have hode : ((s.wf F.ODE_STAT_STATE k).setOde (fun o => { o with since := s.gt })).ode.req = s.ode.req ∧
      ((s.wf F.ODE_STAT_STATE k).setOde (fun o => { o with since := s.gt })).ode.fwq = s.ode.fwq := ⟨rfl, rfl⟩
  unfold State.setDev
  split
  · exact ⟨rfl, rfl⟩
  · rw [raise_ode]
    exact hode

/-- A device state of the table is entered, and nothing else changes. -/
theorem setDev_enters (s : State) {k : Nat} (hk : k < 8) :
    (s.setDev k).dev = k ∧ RegsBut [R.ODE_STAT] s (s.setDev k) ∧ SameBytes s (s.setDev k) :=
  ⟨dev_setDev s hk, regsBut_setDev s k, sameBytes_of_mem (setDev_held s k).2.1⟩

theorem stateCmd_of_two {s : State} {i : Init} {v : Word} (hi : i.val = Ini.MC5) (hv : bits v 2 0 = 2) :
    s.stateCmd i.val v =
      if s.dev ≠ Dev.BOOT ∨ (!s.ready Fn.DICT) = true then s.refuse R.ODE_ERR St.STATE 192 else s.setDev s.opTarget :=
  (if_neg (not_not.mpr hi)).trans ((if_neg (by rw [hv]; decide)).trans (if_neg (not_not.mpr hv)))

section

variable {s : State} {i : Init} {v : Word} (hmay : s.MayWrite i R.ODE_STATECMD)
include hmay

theorem exec_statecmd : exec (.statecmd i v) s = .next (s.stateCmd i.val v) :=
  congrArg Host.Outcome.next (onWrite_of_mayWrite s i _ _ hmay)

theorem statecmd_refused {code : Nat} (hcode : code < 256) (h : s.stateCmd i.val v = s.refuse R.ODE_ERR code 192) :
    Runs (.statecmd i v) s fun t =>
      t.reg R.ODE_ERR = BitVec.ofNat 32 (0x100 + code) ∧ t.dev = s.dev ∧ SameBytes s t := by
  obtain ⟨herr, hregs, -, hbytes⟩ := odeRefuse s hcode
  exact ⟨_, (exec_statecmd hmay).trans (congrArg Host.Outcome.next h), herr, (StatStands.of_regsBut hregs (by decide)).dev,
    hbytes⟩

theorem statecmd_rights (hi : i.val ≠ Ini.MC5) : Runs (.statecmd i v) s fun t =>
    t.reg R.ODE_ERR = 0x104 ∧ t.dev = s.dev ∧ SameBytes s t :=
  statecmd_refused hmay (code := St.RIGHTS) (by decide) (if_pos hi)

variable (hi : i.val = Ini.MC5)
include hi

theorem statecmd_dump (hv : bits v 2 0 = 5) : Runs (.statecmd i v) s fun t =>
    t.dev = Dev.DUMP ∧ RegsBut [R.ODE_STAT] s t ∧ SameBytes s t :=
  ⟨_, (exec_statecmd hmay).trans (congrArg Host.Outcome.next ((if_neg (not_not.mpr hi)).trans (if_pos hv))),
    setDev_enters s (by decide)⟩

variable (hv : bits v 2 0 = 2)
include hv

theorem statecmd_operates (hdev : s.dev = Dev.BOOT) (hready : s.ready Fn.DICT = true) : Runs (.statecmd i v) s fun t =>
    t.dev = s.opTarget ∧ RegsBut [R.ODE_STAT] s t ∧ SameBytes s t := by
  have hgo : ¬ (s.dev ≠ Dev.BOOT ∨ (!s.ready Fn.DICT) = true) := by
    rw [hready]
    exact not_or.mpr ⟨not_not.mpr hdev, Bool.false_ne_true⟩
  exact ⟨_, (exec_statecmd hmay).trans (congrArg Host.Outcome.next ((stateCmd_of_two hi hv).trans (if_neg hgo))),
    setDev_enters s (opTarget_lt s)⟩

theorem statecmd_state (h : s.dev ≠ Dev.BOOT ∨ s.ready Fn.DICT = false) : Runs (.statecmd i v) s fun t =>
    t.reg R.ODE_ERR = 0x101 ∧ t.dev = s.dev ∧ SameBytes s t :=
  statecmd_refused hmay (code := St.STATE) (by decide)
    ((stateCmd_of_two hi hv).trans (if_pos (h.imp_right fun hoff => by rw [hoff]; rfl)))

end

theorem stateAutoChange_acts {s : State} (hidle : s.ode.req = none) (hdev : s.dev = Dev.OPERATIONAL ∨ s.dev = Dev.LIMITED) :
    Runs .stateAutoChange s fun t => t.dev = s.opTarget ∧ RegsBut [R.ODE_STAT] s t ∧ SameBytes s t := by
  have hgo : (s.ode.req.isNone && (s.dev == Dev.OPERATIONAL || s.dev == Dev.LIMITED)) = true := by
    rw [hidle, Option.isNone_none, Bool.true_and, Bool.or_eq_true, beq_iff_eq, beq_iff_eq]
    exact hdev
  exact ⟨_, if_pos hgo, setDev_enters s (opTarget_lt s)⟩

theorem stateAutoChange_idle {s : State}
    (h : s.ode.req.isSome = true ∨ (s.dev ≠ Dev.OPERATIONAL ∧ s.dev ≠ Dev.LIMITED)) : exec .stateAutoChange s = .next s := by
  refine if_neg fun hgo => ?_
  rw [Bool.and_eq_true, Bool.or_eq_true, beq_iff_eq, beq_iff_eq] at hgo
  rcases h with hbusy | ⟨hop, hlim⟩
  · rw [Option.isNone_iff_eq_none] at hgo
    rw [hgo.1] at hbusy
    exact Bool.false_ne_true hbusy
  · exact hgo.2.elim hop hlim

/-! ### Invokes (R448) -/

/-- An access is in no queue, and the request that waited for it is answered. -/
def State.Gone (s : State) (q : FwReq) (t : State) : Prop :=
  t.ode.fwq = s.ode.fwq.filter (fun x => x.num != q.num) ∧ ((s.waiter q.num).isSome → t.ode.req = none)

/-- What a command leaves of the request and the queues until it answers. -/
structure RequestStands (s t : State) : Prop where
  req : t.ode.req = s.ode.req
  fwq : t.ode.fwq = s.ode.fwq

theorem RequestStands.of_ode {s t : State} (h : t.ode = s.ode) : RequestStands s t :=
  ⟨congrArg OdeSt.req h, congrArg OdeSt.fwq h⟩

theorem RequestStands.gone {s u : State} (h : RequestStands s u) {q : FwReq} (hkind : q.kind = Acc.INVOKE) (status : Nat)
    (v : List Byte) : s.Gone q (u.fwDone q status v) := by
  have hends := accessEnds_invoke (s := u) hkind status v
  exact ⟨by rw [hends.fwq, h.fwq], fun hwait => hends.idle (by rw [waiter_congr h.req, hwait])⟩

theorem onInvoke_idle {s : State} {area item : Nat} (h : s.fwOf area item = none)
    (f : State → List Byte → State × Nat × List Byte) : s.onInvoke area item f = s := by
  rw [State.onInvoke, h]

section

variable {s : State} {q : FwReq}

/-- A command answers the oldest invoke of its parameter. -/
theorem runs_invoke {c : Instr} {area item : Nat} {f : State → List Byte → State × Nat × List Byte}
    (hexec : exec c s = .next (s.onInvoke area item f)) (hq : s.fwOf area item = some q) {u : State} {status : Nat}
    {v : List Byte} (hf : f s q.value = (u, status, v)) {P : State → Prop} (h : P (u.fwDone q status v)) : Runs c s P := by
  refine ⟨_, hexec.trans ?_, h⟩
  rw [State.onInvoke, hq]
  dsimp only
  rw [hf]

variable (hkind : q.kind = Acc.INVOKE)
include hkind

/-! ### STATE_REQ (R450) -/

/-- A command that ends in a device state. -/
theorem entered_gone {u : State} (hstand : RequestStands s u) (hmem : u.mem = s.mem) {k : Nat} (hk : k < 8) :
    ((u.setDev k).fwDone q St.OK []).dev = k ∧ s.Gone q ((u.setDev k).fwDone q St.OK []) ∧
      SameBytes s ((u.setDev k).fwDone q St.OK []) := by
  have hends := accessEnds_invoke (s := u.setDev k) hkind St.OK []
  obtain ⟨hreq, hfwq⟩ := setDev_queues u k
  have hstands : RequestStands s (u.setDev k) := ⟨hreq.trans hstand.req, hfwq.trans hstand.fwq⟩
  exact ⟨hends.stat.dev.trans (dev_setDev u hk), hstands.gone hkind St.OK [],
    sameBytes_of_mem ((hends.parts .mem rfl).trans ((setDev_held u k).2.1.trans hmem))⟩

variable (hq : s.fwOf 0x01 0x001 = some q)
include hq

theorem stateReq_maintains (hk : bytesNat q.value = 1) (hdev : s.dev = Dev.OPERATIONAL ∨ s.dev = Dev.LIMITED) :
    Runs .stateReq s fun t => t.dev = Dev.MAINTENANCE ∧ s.Gone q t ∧ SameBytes s t :=
  runs_invoke (f := State.stateReq) rfl hq (if_pos ⟨hk, hdev⟩) (entered_gone hkind ⟨rfl, rfl⟩ rfl (by decide))

theorem stateReq_operates (hk : bytesNat q.value = 2) (hdev : s.dev = Dev.MAINTENANCE) :
    Runs .stateReq s fun t => t.dev = s.opTarget ∧ s.Gone q t ∧ SameBytes s t :=
  runs_invoke (f := State.stateReq) rfl hq
    ((if_neg fun h => absurd (hk.symm.trans h.1) (by decide)).trans (if_pos ⟨hk, hdev⟩))
    (entered_gone hkind ⟨rfl, rfl⟩ rfl (opTarget_lt s))

theorem stateReq_refused (hone : bytesNat q.value ≠ 1) (htwo : bytesNat q.value ≠ 2) :
    Runs .stateReq s fun t => t.dev = s.dev ∧ s.Gone q t ∧ SameBytes s t := by
  have hends := accessEnds_invoke (s := s) hkind St.STATE []
  exact runs_invoke (f := State.stateReq) rfl hq
    ((if_neg fun h => hone h.1).trans ((if_neg fun h => htwo h.1).trans (if_neg fun h => hone h.1)))
    ⟨hends.stat.dev, RequestStands.gone ⟨rfl, rfl⟩ hkind .., hends.sameBytes⟩

/-- MC5 clears the alarm first. -/
theorem stateReq_clears (hk : bytesNat q.value = 1) (hdev : s.dev = Dev.ALARM) (hmay : s.MayWrite mc5 R.CRY_ALMCLR) :
    Runs .stateReq s fun t =>
      t.dev = Dev.MAINTENANCE ∧ t.rb F.CRY_STAT_ALARM = false ∧ s.Gone q t ∧ SameBytes s t := by
  obtain ⟨u, hclear, hoff, -⟩ := (alarmClear_acts (s := s) 1 hmay).1 rfl (by decide)
  have hu : s.wf F.CRY_STAT_ALARM 0 = u := by
    have hexec : exec (.alarmClear mc5 1) s = .next (s.wf F.CRY_STAT_ALARM 0) :=
      congrArg Host.Outcome.next ((onWrite_of_mayWrite s mc5 _ _ hmay).trans rfl)
    exact Host.Outcome.next.inj (hexec.symm.trans hclear)
  have hparts : Within 1 s (s.wf F.CRY_STAT_ALARM 0) := .wf (.refl s) ⟨rfl⟩
  have hnext : nextOr s (execAlarmClear mc5 1 s) = u := congrArg (nextOr s) (show execAlarmClear mc5 1 s = .next u from hclear)
  rw [hu] at hparts
  have hf : s.stateReq q.value = (u.setDev Dev.MAINTENANCE, St.OK, []) := by
    unfold State.stateReq
    dsimp only
    rw [if_neg fun h => absurd h.2 (by rw [hdev]; decide), if_neg fun h => absurd (hk.symm.trans h.1) (by decide),
      if_pos ⟨hk, hdev⟩, hnext,
      if_neg (by rw [hoff]; exact Bool.false_ne_true)]
  refine runs_invoke (f := State.stateReq) rfl hq hf ?_
  obtain ⟨hdev', hgone, hsame⟩ := entered_gone hkind (RequestStands.of_ode (hparts .ode rfl)) (hparts .mem rfl)
    (k := Dev.MAINTENANCE) (by decide)
  have hends := accessEnds_invoke (s := u.setDev Dev.MAINTENANCE) hkind St.OK []
  have hkept : ((u.setDev Dev.MAINTENANCE).fwDone q St.OK []).rb F.CRY_STAT_ALARM = u.rb F.CRY_STAT_ALARM :=
    congrArg (fun v => bits v F.CRY_STAT_ALARM.hi F.CRY_STAT_ALARM.lo == 1)
      ((hends.regs.reg (by decide) (not_evrAddr_of_ge (by decide))).trans
        ((regsBut_setDev u _).reg (by decide) (not_evrAddr_of_ge (by decide))))
  exact ⟨hdev', hkept.trans hoff, hgone, hsame⟩

end

end Sys2Proof.Machine
end

section
/-! PROOFS. SAVE, RESTART, FALLBACK_CLEAR, ATTEST and COMMIT (O56). -/

namespace Sys2Proof.Machine

/-! ### The causes of a reset (R526) -/

theorem rstcauseThis_of_noted {s t : State} {cause : Nat} (hcause : cause < 256) (h : s.CausesNoted cause t) :
    t.rf F.SYS_RSTCAUSE_THIS = cause := by
  have hprev : (if cause = 1 then 0 else s.rf F.SYS_RSTCAUSE_THIS) < 2 ^ 8 := by
    split
    · decide
    · exact Nat.mod_lt _ (by decide)
  have hreg : t.rf F.SYS_RSTCAUSE_THIS = bits (t.reg R.SYS_RSTCAUSE) 31 24 := rfl
  rw [State.CausesNoted] at h
  generalize (if cause = 1 then 0 else s.rf F.SYS_RSTCAUSE_THIS) = prev at h hprev
  rw [hreg, h, bits, BitVec.toNat_ofNat]
  omega

/-- The state after a reset. -/
def ResetTo (cause : Nat) (t : State) : Prop := t.rf F.SYS_RSTCAUSE_THIS = cause ∧ t.sys.phase = 0 ∧ t.ode.sessions = []

theorem resetTo_of_fresh {s t : State} {cause : Nat} (hcause : cause < 256) (hnoted : s.CausesNoted cause t)
    (hfresh : s.Fresh t) : ResetTo cause t := by
  obtain ⟨hphase, -, -, -, hode, -⟩ := hfresh
  exact ⟨rstcauseThis_of_noted hcause hnoted, hphase, by rw [hode]; rfl⟩

theorem resetTo_cold (s : State) : ResetTo 3 (s.rstCmd 0x5253 2) := by
  rw [rstCmd_cold]
  obtain ⟨hnoted, hfresh, -⟩ := coldBy_coldReset s 3
  exact resetTo_of_fresh (by decide) hnoted hfresh

theorem resetTo_warm (s : State) : ResetTo (if s.dev = Dev.DUMP then 6 else 4) (s.rstCmd 0x5253 1) := by
  have hcause : (if s.dev = Dev.DUMP then 6 else 4) < 256 := by split <;> decide
  have hwarm : s.rstCmd 0x5253 1 = s.warmReset (if s.dev = Dev.DUMP then 6 else 4) := rstCmd_warm s
  rw [hwarm]
  obtain ⟨hnoted, hfresh, -⟩ := warmBy_warmReset s (if s.dev = Dev.DUMP then 6 else 4)
  exact resetTo_of_fresh hcause hnoted hfresh

section

variable {s : State} {q : FwReq} (hkind : q.kind = Acc.INVOKE)

include hkind in
/-- RESTART answers, and then resets (R496). -/
theorem restart_resets (hq : s.fwOf 0x01 0x003 = some q) : Runs .restart s
    (ResetTo (if bytesNat q.value = 1 then 3 else if s.dev = Dev.DUMP then 6 else 4)) := by
  have hexec : exec .restart s =
      .next ((s.fwDone q St.OK []).rstCmd 0x5253 (if bytesNat q.value = 1 then 2 else 1)) := by
    have hrun : exec .restart s = execRestart s := rfl
    rw [hrun, execRestart, hq]
  refine ⟨_, hexec, ?_⟩
  have hdev := (accessEnds_invoke (s := s) hkind St.OK []).stat.dev
  by_cases hk : bytesNat q.value = 1
  · rw [if_pos hk, if_pos hk]
    exact resetTo_cold _
  · rw [if_neg hk, if_neg hk, ← hdev]
    exact resetTo_warm _

/-! ### SAVE (R464) -/

theorem exec_save_waits (h : s.ode.jbuf ≠ []) : exec .save s = .next s := if_neg fun he => h (List.isEmpty_iff.mp he)

include hkind in
theorem save_completes (hq : s.fwOf 0x01 0x002 = some q) (hbuf : s.ode.jbuf = []) : Runs .save s fun t =>
    s.Gone q t ∧ t.flash = s.flash ∧ SameBytes s t := by
  have hends := accessEnds_invoke (s := s) hkind St.OK []
  have hexec : exec .save s = .next (s.onInvoke 0x01 0x002 (fun s _ => (s, St.OK, []))) :=
    if_pos (List.isEmpty_iff.mpr hbuf)
  exact runs_invoke hexec hq rfl ⟨RequestStands.gone ⟨rfl, rfl⟩ hkind .., hends.parts .flash rfl, hends.sameBytes⟩

/-! ### FALLBACK_CLEAR (R513, R516) -/

/-- The ledger with every fallback cleared is written. -/
def State.fallbackLedger (s : State) : State :=
  s.ledgerAfterFuse (clearedLedger s.ledgerNow (min 256 (s.ledgerBits 0 8 0 (s.rf F.SYS_OTPCNT_EPOCH) + 1)))

theorem fallbackClear_eq : s.fallbackClear =
    if s.ledgerBits 0 8 0 (s.rf F.SYS_OTPCNT_EPOCH) < 256 then s.fallbackLedger.otpStart else s.fallbackLedger := rfl

theorem otpStart_busy (s : State) : s.otpStart.rb F.SYS_OTPCNT_BUSY = true := rb_wb_same s true rfl (by decide)

theorem fallbackClear_busy (h : s.ledgerBits 0 8 0 (s.rf F.SYS_OTPCNT_EPOCH) < 256) :
    s.fallbackClear.rb F.SYS_OTPCNT_BUSY = true := by
  rw [fallbackClear_eq, if_pos h]
  exact otpStart_busy _

include hkind in
theorem fallbackClear_acts (hq : s.fwOf 0x02 0x004 = some q) : Runs .fallbackClear s fun t => s.Gone q t ∧
    (s.ledgerBits 0 8 0 (s.rf F.SYS_OTPCNT_EPOCH) < 256 → t.rb F.SYS_OTPCNT_BUSY = true) ∧ SameBytes s t := by
  have hbusy := fallbackClear_busy (s := s)
  have hparts : Within 67108865 s s.fallbackClear := .fallbackClear (.refl s) ⟨rfl⟩
  refine runs_invoke (f := State.fallbackArg) rfl hq (u := s.fallbackClear) rfl ?_
  generalize s.fallbackClear = u at *
  have hends := accessEnds_invoke (s := u) hkind St.OK []
  have hkept : (u.fwDone q St.OK []).rb F.SYS_OTPCNT_BUSY = u.rb F.SYS_OTPCNT_BUSY :=
    congrArg (fun v => bits v F.SYS_OTPCNT_BUSY.hi F.SYS_OTPCNT_BUSY.lo == 1)
      (hends.regs.reg (by decide) (not_evrAddr_of_ge (by decide)))
  exact ⟨(RequestStands.of_ode (hparts .ode rfl)).gone hkind .., fun h => hkept.trans (hbusy h),
    sameBytes_of_mem ((hends.parts .mem rfl).trans (hparts .mem rfl))⟩

/-! ### ATTEST (R405) -/

theorem attest_range (hq : s.fwOf 0x30 0x003 = some q) (hlen : q.value.length ≠ 48) :
    exec .attest s = .next (s.fwDone q St.RANGE []) := by
  obtain ⟨t, hexec, ht⟩ := runs_invoke (c := .attest) (f := State.attestArg) rfl hq (if_pos hlen)
    (P := fun t => t = s.fwDone q St.RANGE []) rfl
  rw [hexec, ht]

include hkind in
theorem attest_signs (hq : s.fwOf 0x30 0x003 = some q) (hlen : q.value.length = 48) (hready : s.ready Fn.PKE = true)
    (hgo : s.attestStop = false) : Runs .attest s fun t => s.Gone q t ∧ SameBytes s t ∧
      exec .attest s = .next ((s.attested q.value).1.fwDone q St.OK (s.attested q.value).2) := by
  have hf : s.attestArg q.value = ((s.attested q.value).1, St.OK, (s.attested q.value).2) :=
    (if_neg (not_not.mpr hlen)).trans ((if_neg (by rw [hready]; decide)).trans (if_neg (by rw [hgo]; decide)))
  have hparts : Within 524289 s (s.attested q.value).1 := .attested (.refl s) ⟨rfl⟩
  obtain ⟨t, hexec, ht⟩ := runs_invoke (c := .attest) (f := State.attestArg) rfl hq hf
    (P := fun t => t = (s.attested q.value).1.fwDone q St.OK (s.attested q.value).2) rfl
  rw [ht] at hexec
  refine ⟨_, hexec, ?_, ?_, hexec⟩
  · exact (RequestStands.of_ode (hparts .ode rfl)).gone hkind ..
  · have hends := accessEnds_invoke (s := (s.attested q.value).1) hkind St.OK (s.attested q.value).2
    exact sameBytes_of_mem ((hends.parts .mem rfl).trans (hparts .mem rfl))

/-! ### COMMIT (R468) -/

include hkind in
theorem commit_commits (hq : s.fwOf 0x40 0x002 = some q) (hok : s.genOk (bytesNat q.value) = true)
    (hlt : bytesNat q.value < 2 ^ 32) : Runs .commit s fun t =>
      t.regN R.ODE_GEN = bytesNat q.value ∧ t.rb F.ODE_STAT_DIRTY = false ∧ s.Gone q t ∧ SameBytes s t ∧
        (∀ m, m < 12 → t.regN (R.ODE_DIG m) =
          bytesNat (((s.digestOf (bytesNat q.value) s.valueNow).drop (4 * m)).take 4)) ∧
        t.mr 4 = sha384b (s.mr 4 ++ s.digestOf (bytesNat q.value) s.valueNow) := by
  generalize hk : bytesNat q.value = k at *
  generalize hd : s.digestOf k s.valueNow = dig
  have hcommit : s.commit k = (s.commitTo k dig, St.OK) := by rw [← hd]; exact if_pos hok
  have hf : s.commitArg q.value = (s.commitTo k dig, St.OK, []) := by
    rw [State.commitArg, hk, hcommit]
  have hdone := commitTo_commits s k dig
  refine runs_invoke (f := State.commitArg) rfl hq hf ?_
  generalize s.commitTo k dig = u at *
  have hends := accessEnds_invoke (s := u) hkind St.OK []
  refine ⟨?_, hends.stat.dirty.trans hdone.dirty, RequestStands.gone ⟨hdone.req, hdone.fwq⟩ hkind ..,
    sameBytes_of_mem ((hends.parts .mem rfl).trans (hdone.parts .mem rfl)), fun m hm => ?_, ?_⟩
  · exact (congrArg BitVec.toNat (hends.regs.reg (by decide) (not_evrAddr_of_ge (by decide)))).trans
      (hdone.gen.trans (Nat.mod_eq_of_lt hlt))
  · refine (congrArg BitVec.toNat (hends.regs.reg ?_ ?_)).trans (hdone.words m hm)
    · unfold R.ODE_DIG
      simp only [answerRegs, List.mem_cons, List.not_mem_nil, or_false, R.ODE_CNT_REQ, R.ODE_CNT_STATE, R.ODE_CNT_RIGHTS,
        R.ODE_STAT]
      omega
    · exact not_evrAddr_of_ge (by unfold R.ODE_DIG; omega)
  · exact (congrArg (fun p : PkeSt => Sparse.get (fun _ => List.replicate 48 0) p.mr 4) (hends.parts .pke rfl)).trans hdone.mr

include hkind in
theorem commit_refused (hq : s.fwOf 0x40 0x002 = some q) (hbad : s.genOk (bytesNat q.value) = false) :
    Runs .commit s fun t => t.reg R.ODE_GEN = s.reg R.ODE_GEN ∧ t.rb F.ODE_STAT_DIRTY = s.rb F.ODE_STAT_DIRTY ∧
      s.Gone q t ∧ SameBytes s t := by
  have hcommit : s.commit (bytesNat q.value) = (s, St.RANGE) := if_neg (by rw [hbad]; exact Bool.false_ne_true)
  have hf : s.commitArg q.value = (s, St.RANGE, []) := by rw [State.commitArg, hcommit]
  have hends := accessEnds_invoke (s := s) hkind St.RANGE []
  exact runs_invoke (f := State.commitArg) rfl hq hf
    ⟨hends.regs.reg (by decide) (not_evrAddr_of_ge (by decide)), hends.stat.dirty, RequestStands.gone ⟨rfl, rfl⟩ hkind ..,
      hends.sameBytes⟩

end

/-! ### No invoke, no effect -/

theorem exec_invoke_idle {s : State} : ∀ p ∈ [(Instr.stateReq, 0x01, 0x001), (.restart, 0x01, 0x003),
    (.fallbackClear, 0x02, 0x004), (.attest, 0x30, 0x003), (.keyUnwrap, 0x30, 0x015), (.keyLoad, 0x30, 0x016),
    (.commit, 0x40, 0x002)], s.fwOf p.2.1 p.2.2 = none → exec p.1 s = .next s := by
  have hidle : ∀ {a i : Nat} (f : State → List Byte → State × Nat × List Byte), s.fwOf a i = none →
      Host.Outcome.next (s.onInvoke a i f) = (Host.Outcome.next s : Host.Outcome State Fault Refusal) :=
    fun f h => congrArg Host.Outcome.next (onInvoke_idle h f)
  have hrestart : s.fwOf 0x01 0x003 = none → exec .restart s = .next s := fun h => by
    have hrun : exec .restart s = execRestart s := rfl
    rw [hrun, execRestart, h]
  intro p hp
  simp only [List.mem_cons, List.not_mem_nil, or_false] at hp
  rcases hp with rfl | rfl | rfl | rfl | rfl | rfl | rfl
  · exact hidle State.stateReq
  · exact hrestart
  · exact hidle State.fallbackArg
  · exact hidle State.attestArg
  · exact hidle State.keyUnwrapArg
  · exact hidle State.keyLoadArg
  · exact hidle State.commitArg

end Sys2Proof.Machine
end

section
/-! PROOFS. KEY_LOAD and KEY_UNWRAP (O56). -/

namespace Sys2Proof.Machine

/-! ### Bytes of words -/

theorem wordBytes_of_four {l : List Byte} (h : l.length = 4) : wordBytes [BitVec.ofNat 32 (bytesNat l)] = l := by
  match l, h with
  | [a, b, c, d], _ =>
    have hsum : bytesNat [a, b, c, d] = a.toNat + 256 * (b.toNat + 256 * (c.toNat + 256 * d.toNat)) := rfl
    have hlt : bytesNat [a, b, c, d] < 2 ^ 32 := bytesNat_lt (n := 4) (l := [a, b, c, d]) (Nat.le_refl 4)
    have hbyte : ∀ (k : Nat) (x : Byte), bytesNat [a, b, c, d] / 2 ^ k % 2 ^ 8 = x.toNat →
        (BitVec.ofNat 32 (bytesNat [a, b, c, d])).extractLsb' k 8 = x := fun k x hx => by
      refine BitVec.eq_of_toNat_eq ?_
      rw [BitVec.extractLsb'_toNat, BitVec.toNat_ofNat, Nat.shiftRight_eq_div_pow,
        Nat.mod_eq_of_lt hlt, hx]
    have ha := a.isLt
    have hb := b.isLt
    have hc := c.isLt
    have hd := d.isLt
    rw [wordBytes, wordBytes, hbyte 0 a (by omega), hbyte 8 b (by omega), hbyte 16 c (by omega), hbyte 24 d (by omega)]

/-! ### The key in CRY_KDATA (R410) -/

theorem kdata_inj {k m : Nat} (h : R.CRY_KDATA k = R.CRY_KDATA m) : k = m := by
  unfold R.CRY_KDATA at h
  omega

theorem reg_putKdata (s : State) (key : List Byte) : ∀ {n m : Nat}, m < n →
    (s.putKdata key n).reg (R.CRY_KDATA m) = BitVec.ofNat 32 (bytesNat ((key.drop (4 * m)).take 4))
  | n + 1, m, h => by
    rw [State.putKdata, reg_setRegN]
    split
    · next heq => rw [kdata_inj heq]
    · next hne => exact reg_putKdata s key (Nat.lt_of_le_of_ne (Nat.le_of_lt_succ h) fun heq => hne (congrArg R.CRY_KDATA heq))

theorem reg_putKdata_other (s : State) (key : List Byte) {a : Nat} : ∀ {n : Nat}, (∀ k, k < n → a ≠ R.CRY_KDATA k) →
    (s.putKdata key n).reg a = s.reg a
  | 0, _ => rfl
  | n + 1, h => by
    rw [State.putKdata, reg_setRegN, if_neg (h n (Nat.lt_succ_self n)),
      reg_putKdata_other s key fun k hk => h k (Nat.lt_succ_of_lt hk)]

theorem length_kdata (s : State) : ∀ n, (s.kdata n).length = 4 * n
  | 0 => rfl
  | n + 1 => by
    rw [State.kdata, List.length_append, length_kdata s n, length_wordBytes, List.length_singleton]
    rfl

/-- The words of CRY_KDATA spell the key. -/
theorem take_kdata {s : State} {key : List Byte} : ∀ {n j : Nat}, j ≤ n → 4 * j ≤ key.length →
    (∀ m, m < n → s.reg (R.CRY_KDATA m) = BitVec.ofNat 32 (bytesNat ((key.drop (4 * m)).take 4))) →
    (s.kdata n).take (4 * j) = key.take (4 * j)
  | 0, j, hj, _, _ => by
    rw [Nat.le_zero.mp hj]
    rfl
  | n + 1, j, hj, hlen, hregs => by
    have hbefore := fun {i : Nat} (hi : i ≤ n) (hi' : 4 * i ≤ key.length) =>
      take_kdata (n := n) hi hi' fun m hm => hregs m (Nat.lt_succ_of_lt hm)
    rw [State.kdata]
    rcases Nat.lt_or_ge n j with hlast | hearly
    · obtain rfl : j = n + 1 := Nat.le_antisymm hj hlast
      have hfour : ((key.drop (4 * n)).take 4).length = 4 := by
        rw [List.length_take, List.length_drop]
        omega
      have hall : s.kdata n = key.take (4 * n) := by
        rw [← hbefore (Nat.le_refl n) (by omega), List.take_of_length_le (Nat.le_of_eq (length_kdata s n))]
      rw [hregs n (Nat.lt_succ_self n), wordBytes_of_four hfour, hall, ← List.take_add]
      exact List.take_of_length_le (by rw [List.length_take]; omega)
    · rw [List.take_append_of_le_length (by rw [length_kdata]; omega), hbefore hearly hlen]

/-! ### The arguments of a key command (R410) -/

section

variable (s v : State) (typ usage klen8 kek mask : Nat)

/-- CRY_KARG0 as it is put together. -/
def State.kargs : State :=
  ((((s.setRegN R.CRY_KARG0 0).wf F.CRY_KARG0_TYPE typ).wf F.CRY_KARG0_USAGE usage).wf F.CRY_KARG0_KLEN8 klen8).wf
    F.CRY_KARG0_KEK kek

theorem karg0_eq : s.karg0 typ usage klen8 kek = (s.kargs typ usage klen8 kek).regN R.CRY_KARG0 := rfl

theorem kargs_fields : (s.kargs typ usage klen8 kek).rf F.CRY_KARG0_TYPE = typ % 16 ∧
    (s.kargs typ usage klen8 kek).rf F.CRY_KARG0_USAGE = usage % 256 ∧
    (s.kargs typ usage klen8 kek).rf F.CRY_KARG0_KLEN8 = klen8 % 32 ∧
    (s.kargs typ usage klen8 kek).rf F.CRY_KARG0_KEK = kek % 1024 := by
  unfold State.kargs
  generalize s.setRegN R.CRY_KARG0 0 = u
  refine ⟨?_, ?_, ?_, rf_wf_same _ _ _ (by decide) (by decide)⟩
  · rw [rf_wf_apart _ _ (by decide), rf_wf_apart _ _ (by decide), rf_wf_apart _ _ (by decide)]
    exact rf_wf_same _ _ _ (by decide) (by decide)
  · rw [rf_wf_apart _ _ (by decide), rf_wf_apart _ _ (by decide)]
    exact rf_wf_same _ _ _ (by decide) (by decide)
  · rw [rf_wf_apart _ _ (by decide)]
    exact rf_wf_same _ _ _ (by decide) (by decide)

/-- The state in which a key command of MC5 runs. -/
def State.withKargs (v : State) (arg0 mask : Nat) : State := (v.setRegN R.CRY_KARG0 arg0).setRegN R.CRY_KARG1 mask

theorem reg_withKargs {a : Nat} (h0 : a ≠ R.CRY_KARG0) (h1 : a ≠ R.CRY_KARG1) (arg0 : Nat) :
    (v.withKargs arg0 mask).reg a = v.reg a := by
  rw [State.withKargs, reg_setRegN, if_neg h1, reg_setRegN, if_neg h0]

theorem reg_karg0_withKargs :
    (v.withKargs (s.karg0 typ usage klen8 kek) mask).reg R.CRY_KARG0 = (s.kargs typ usage klen8 kek).reg R.CRY_KARG0 := by
  rw [State.withKargs, reg_setRegN, if_neg (by decide), reg_setRegN, if_pos rfl, karg0_eq, State.regN, BitVec.ofNat_toNat,
    BitVec.setWidth_eq]

theorem withKargs_fields : (v.withKargs (s.karg0 typ usage klen8 kek) mask).rf F.CRY_KARG0_TYPE = typ % 16 ∧
    (v.withKargs (s.karg0 typ usage klen8 kek) mask).rf F.CRY_KARG0_USAGE = usage % 256 ∧
    (v.withKargs (s.karg0 typ usage klen8 kek) mask).rf F.CRY_KARG0_KLEN8 = klen8 % 32 ∧
    (v.withKargs (s.karg0 typ usage klen8 kek) mask).rf F.CRY_KARG0_KEK = kek % 1024 := by
  have hreg := reg_karg0_withKargs s v typ usage klen8 kek mask
  obtain ⟨htyp, husage, hklen, hkek⟩ := kargs_fields s typ usage klen8 kek
  generalize s.kargs typ usage klen8 kek = w at *
  generalize v.withKargs (s.karg0 typ usage klen8 kek) mask = u at *
  have hrf : ∀ hi lo, bits (u.reg R.CRY_KARG0) hi lo = bits (w.reg R.CRY_KARG0) hi lo := fun hi lo => by rw [hreg]
  exact ⟨(hrf 31 28).trans htyp, (hrf 23 16).trans husage, (hrf 14 10).trans hklen, (hrf 9 0).trans hkek⟩

theorem withKargs_parts (arg0 : Nat) : Within 1 v (v.withKargs arg0 mask) := .setRegN (.setRegN (.refl v) ⟨rfl⟩) ⟨rfl⟩

end

/-! ### Key commands of MC5 (R384, R490) -/

theorem keyGate_congr {s t : State} (hcry : t.cry = s.cry) (hstep : t.reg R.SYS_STEPOK = s.reg R.SYS_STEPOK)
    (hstat : t.reg R.CRY_STAT = s.reg R.CRY_STAT) (opc n : Nat) : t.keyGate opc n = s.keyGate opc n := by
  have hslot : t.slotState n = s.slotState n := by
    unfold State.slotState State.slot
    rw [hcry]
  have halarm : t.rb F.CRY_STAT_ALARM = s.rb F.CRY_STAT_ALARM :=
    congrArg (fun v => bits v F.CRY_STAT_ALARM.hi F.CRY_STAT_ALARM.lo == 1) hstat
  have herase : t.rb F.CRY_STAT_DBGERASE = s.rb F.CRY_STAT_DBGERASE :=
    congrArg (fun v => bits v F.CRY_STAT_DBGERASE.hi F.CRY_STAT_DBGERASE.lo == 1) hstat
  unfold State.keyGate
  rw [hslot, ready_congr hstep, halarm, herase]

theorem kek_congr {s t : State} (hcry : t.cry = s.cry) (n : Nat) : t.kek n = s.kek n := by
  unfold State.kek State.slotState State.slot
  rw [hcry]

theorem keyNote_cry (s : State) (st : Nat) : (s.keyNote st).cry = s.cry := Within.keyNote (m := 17) (.refl s) ⟨rfl⟩ .cry rfl

theorem keyArg_of_refused {s : State} {opc n st : Nat} (hgate : s.keyGate opc n = some st) (arg0 mask : Nat)
    (f : State → Nat → State × Nat) :
    s.keyArg opc n arg0 mask f = ((if opc = 1 then s.clearKdata 16 else s).keyNote st, st, []) := by
  rw [State.keyArg, hgate]

theorem keyArg_of_admitted {s w : State} {opc n : Nat} (hgate : s.keyGate opc n = none) {arg0 mask : Nat}
    {f : State → Nat → State × Nat} (hf : f (s.withKargs arg0 mask) n = (w, St.OK)) :
    s.keyArg opc n arg0 mask f = (w, St.OK, []) := by
  have hrun : s.keyArg opc n arg0 mask f = ((f (s.withKargs arg0 mask) n).1.keyNote (f (s.withKargs arg0 mask) n).2,
      (f (s.withKargs arg0 mask) n).2, []) := by
    rw [State.keyArg, hgate]
    rfl
  rw [hrun, hf]
  exact congrArg (fun u => (u, St.OK, [])) (if_pos rfl)

/-- A slot holds a new key, and no other slot changes. -/
structure NewKey (s : State) (n typ usage : Nat) (key : List Byte) (t : State) : Prop where
  st : (t.slot n).st = Slot.LOADED
  typ : (t.slot n).typ = typ
  usage : (t.slot n).usage = usage
  key : (t.slot n).key = key
  gen : (t.slot n).gen = (s.slot n).gen + 1
  others : ∀ m, m ≠ n → t.slot m = s.slot m

theorem newKey_of_loadSlot {s u t : State} {n typ usage : Nat} {mask : Word} {key : List Byte} (hu : u.cry = s.cry)
    (ht : t.cry = (u.loadSlot n typ usage mask key).cry) : NewKey s n typ usage key t := by
  have hslot : t.slot n = { u.slot n with
      st := Slot.LOADED, typ := typ, usage := usage, mask := mask, gen := (u.slot n).gen + 1, key := key } :=
    (slot_congr (congrArg CrySt.slots ht) n).trans (slot_setSlot_same ..)
  have hgen : (u.slot n).gen = (s.slot n).gen := congrArg KeySlot.gen (slot_congr (congrArg CrySt.slots hu) n)
  refine ⟨by rw [hslot], by rw [hslot], by rw [hslot], by rw [hslot], by rw [hslot, hgen], fun m hm => ?_⟩
  exact (slot_congr (congrArg CrySt.slots ht) m).trans ((slot_setSlot_other u _ hm).trans
    (slot_congr (congrArg CrySt.slots hu) m))

end Sys2Proof.Machine
end

section
/-! PROOFS. KEY_LOAD and KEY_UNWRAP carried out for an invoke (O56). -/

namespace Sys2Proof.Machine

theorem bytesNat_take_lt (l : List Byte) (n : Nat) : bytesNat (l.take n) < 256 ^ n := bytesNat_lt (List.length_take_le n l)

/-- A key of a TYPE that has its length is its length long in CRY_KARG0. -/
theorem keyLen_eight {typ n : Nat} (h : n = keyLen typ n) (height : n % 8 = 0) : keyLen typ (8 * (n / 8)) = n := by
  rw [Nat.mul_div_cancel' (Nat.dvd_of_mod_eq_zero height), ← h]

theorem putKdata_cry (s : State) (key : List Byte) : (s.putKdata key 16).cry = s.cry :=
  Within.putKdata (m := 1) (.refl s) ⟨rfl⟩ .cry rfl

theorem keyGate_putKdata (s : State) (key : List Byte) (opc n : Nat) :
    (s.putKdata key 16).keyGate opc n = s.keyGate opc n :=
  keyGate_congr (putKdata_cry s key)
    (reg_putKdata_other s key fun k hk => by unfold R.SYS_STEPOK R.CRY_KDATA; omega)
    (reg_putKdata_other s key fun k hk => by unfold R.CRY_STAT R.CRY_KDATA; omega) opc n

/-- LOAD of a key that CRY_KDATA and CRY_KARG0 spell (R383). -/
theorem keyLoad_of_kdata {v : State} {n typ usage : Nat} {key : List Byte} (hvtyp : v.rf F.CRY_KARG0_TYPE = typ)
    (hvusage : v.rf F.CRY_KARG0_USAGE = usage) (hvlen : v.rf F.CRY_KARG0_KLEN8 = key.length / 8)
    (hsuits : suits typ usage = true) (htyp : typ ≤ 4) (hlow : 16 ≤ key.length) (hhigh : key.length ≤ 64)
    (hlen : key.length = keyLen typ key.length) (height : key.length % 8 = 0)
    (hregs : ∀ m, m < 16 → v.reg (R.CRY_KDATA m) = BitVec.ofNat 32 (bytesNat ((key.drop (4 * m)).take 4))) :
    v.keyLoad n = ((v.loadSlot n typ usage (v.reg R.CRY_KARG1) key).clearKdata 16, St.OK) := by
  have hargs : v.keyArgsOk = true := by
    have hrange : decide (2 ≤ key.length / 8 ∧ key.length / 8 ≤ 8) = true := decide_eq_true (by omega)
    unfold State.keyArgsOk
    dsimp only
    rw [hvtyp, hvusage, hvlen, hsuits, decide_eq_true htyp, hrange, Bool.or_true]
    rfl
  have hkey : (v.kdata 16).take key.length = key := by
    have hwords := take_kdata (s := v) (key := key) (n := 16) (j := key.length / 4) (by omega) (by omega) hregs
    have hfour : 4 * (key.length / 4) = key.length := by omega
    rw [hfour, List.take_length] at hwords
    exact hwords
  unfold State.keyLoad
  rw [hargs]
  dsimp only
  rw [hvtyp, hvusage, hvlen, keyLen_eight hlen height, hkey]
  rfl

section

variable {s : State} {q : FwReq} (hkind : q.kind = Acc.INVOKE)
include hkind

/-! ### KEY_LOAD (R383, R490) -/

section

variable (hq : s.fwOf 0x30 0x016 = some q)
include hq

/-- KEY_LOAD is answered, and leaves memory. -/
theorem keyLoad_runs {u : State} {st : Nat} (hf : s.keyLoadArg q.value = (u, st, [])) {P : State → Prop}
    (h : ∀ t, t.cry = u.cry → P t) : Runs .keyLoad s fun t => P t ∧ s.Gone q t ∧ SameBytes s t := by
  have hparts : Within 262161 s (s.keyLoadArg q.value).1 := .keyLoadArg (.refl s) ⟨rfl⟩
  rw [hf] at hparts
  have hends := accessEnds_invoke (s := u) hkind st []
  exact runs_invoke (f := State.keyLoadArg) rfl hq hf ⟨h _ (hends.parts .cry rfl),
    (RequestStands.of_ode (hparts .ode rfl)).gone hkind .., sameBytes_of_mem ((hends.parts .mem rfl).trans (hparts .mem rfl))⟩

theorem keyLoad_range (hshort : q.value.length < 24) : Runs .keyLoad s fun t =>
    t.cry.slots = s.cry.slots ∧ s.Gone q t ∧ SameBytes s t :=
  keyLoad_runs hkind hq (if_pos (.inl hshort)) fun _ h => congrArg CrySt.slots h

variable (hlow : 24 ≤ q.value.length) (hhigh : q.value.length ≤ 72) (hn : bytesNat (q.value.take 2) ≤ 1023)
  (htyp : bytesNat ((q.value.drop 2).take 1) ≤ 4)
  (hlen : (q.value.drop 8).length = keyLen (bytesNat ((q.value.drop 2).take 1)) (q.value.drop 8).length)
  (height : (q.value.drop 8).length % 8 = 0)
include hlow hhigh hn htyp hlen height

omit hkind hq in
theorem keyLoadArg_of_good : s.keyLoadArg q.value = (s.putKdata (q.value.drop 8) 16).keyArg 1 (bytesNat (q.value.take 2))
    (s.karg0 (bytesNat ((q.value.drop 2).take 1)) (bytesNat ((q.value.drop 3).take 1)) ((q.value.drop 8).length / 8) 0)
    (bytesNat ((q.value.drop 4).take 4)) State.keyLoad := by
  refine if_neg ?_
  rintro (h | h | h | h | h | h)
  · exact absurd hlow (Nat.not_le.mpr h)
  · exact absurd hhigh (Nat.not_le.mpr h)
  · exact absurd hn (Nat.not_le.mpr h)
  · exact absurd htyp (Nat.not_le.mpr h)
  · exact h hlen
  · exact h height

theorem keyLoad_gated {st : Nat} (hgate : s.keyGate 1 (bytesNat (q.value.take 2)) = some st) :
    Runs .keyLoad s fun t => t.cry.slots = s.cry.slots ∧ s.Gone q t ∧ SameBytes s t := by
  have hf := (keyLoadArg_of_good hlow hhigh hn htyp hlen height).trans
    (keyArg_of_refused ((keyGate_putKdata ..).trans hgate) _ _ _)
  refine keyLoad_runs hkind hq hf fun t ht => ?_
  rw [ht, keyNote_cry, if_pos rfl, clearKdata_cry, putKdata_cry]

theorem keyLoad_loads (hgate : s.keyGate 1 (bytesNat (q.value.take 2)) = none)
    (hsuits : suits (bytesNat ((q.value.drop 2).take 1)) (bytesNat ((q.value.drop 3).take 1)) = true) :
    Runs .keyLoad s fun t => NewKey s (bytesNat (q.value.take 2)) (bytesNat ((q.value.drop 2).take 1))
      (bytesNat ((q.value.drop 3).take 1)) (q.value.drop 8) t ∧ s.Gone q t ∧ SameBytes s t := by
  have hgood := keyLoadArg_of_good (s := s) hlow hhigh hn htyp hlen height
  have husage : bytesNat ((q.value.drop 3).take 1) < 256 := bytesNat_take_lt ..
  have hsize : (q.value.drop 8).length = q.value.length - 8 := List.length_drop
  generalize bytesNat (q.value.take 2) = n at *
  generalize bytesNat ((q.value.drop 2).take 1) = typ at *
  generalize bytesNat ((q.value.drop 3).take 1) = usage at *
  generalize bytesNat ((q.value.drop 4).take 4) = mask at *
  generalize hkey : q.value.drop 8 = key at *
  have hload := keyLoad_of_kdata (v := (s.putKdata key 16).withKargs (s.karg0 typ usage (key.length / 8) 0) mask) (n := n)
    (typ := typ) (usage := usage) (key := key) ?_ ?_ ?_ hsuits htyp (by omega) (by omega) hlen height ?_
  · have hf := hgood.trans (keyArg_of_admitted ((keyGate_putKdata ..).trans hgate) hload)
    have hv : ((s.putKdata key 16).withKargs (s.karg0 typ usage (key.length / 8) 0) mask).cry = s.cry :=
      (withKargs_parts _ _ _ .cry rfl).trans (putKdata_cry s key)
    exact keyLoad_runs hkind hq hf fun t ht => newKey_of_loadSlot hv (ht.trans (clearKdata_cry _ 16))
  · rw [(withKargs_fields ..).1]
    exact Nat.mod_eq_of_lt (by omega)
  · rw [(withKargs_fields ..).2.1]
    exact Nat.mod_eq_of_lt husage
  · rw [(withKargs_fields ..).2.2.1]
    exact Nat.mod_eq_of_lt (by omega)
  · intro m hm
    rw [reg_withKargs _ _ (by unfold R.CRY_KDATA R.CRY_KARG0; omega) (by unfold R.CRY_KDATA R.CRY_KARG1; omega)]
    exact reg_putKdata s key hm

end

end

end Sys2Proof.Machine
end

section
/-! PROOFS. KEY_UNWRAP carried out for an invoke (O56). -/

namespace Sys2Proof.Machine

/-! ### The blob in the work area (R383, R414) -/

theorem isDram_fwBufAt (num : Nat) : isDram (fwBufAt num) = false := by
  refine decide_eq_false ?_
  unfold dramBase fwBufAt
  omega

theorem inSram_fwBufAt (num : Nat) {n : Nat} (hn : n ≤ 1024) : inSram (fwBufAt num) n = true := by
  have hrange : 0x10000000 ≤ fwBufAt num ∧ fwBufAt num + n ≤ 0x11380000 := by
    unfold fwBufAt
    omega
  rw [inSram, decide_eq_true hrange, Bool.true_or]

/-- A store in clean SRAM leaves every word clean, unless an injection is armed (R414, R436). -/
theorem ecc_store_of_clean {s : State} {writer a : Nat} {l : List Byte} (hecc : s.ecc = [])
    (harm : s.rb F.SRM_INJ_CTRL_ARM = false) (hsram : isDram a = false) : (s.store writer a l).ecc = [] := by
  have hkeys : s.rmwKeys a l.length = [] := by
    unfold State.rmwKeys State.eccKeys
    rw [hecc]
    rfl
  have htouch : s.dramTouch a = s := if_neg (by rw [hsram]; exact Bool.false_ne_true)
  have hwritten : Within 2 s (s.setBytes a l) := .setBytes (.refl s) ⟨rfl⟩
  unfold State.store
  split
  · exact hecc
  · rw [htouch, hkeys, hsram]
    unfold State.eccRmw
    generalize s.setBytes a l = u at *
    have hcleaned : (u.eccClean a l.length).ecc = [] := by
      have hdrop : (u.eccClean a l.length).ecc = Sparse.drop (covers a l.length) u.ecc := rfl
      rw [hdrop, show u.ecc = [] from (hwritten .ecc rfl).trans hecc]
      rfl
    have hctrl : (u.eccClean a l.length).reg R.SRM_INJ_CTRL = s.reg R.SRM_INJ_CTRL :=
      congrArg (Sparse.get regDefault · R.SRM_INJ_CTRL) (hwritten .regs rfl)
    generalize u.eccClean a l.length = v at *
    have hoff : bits (v.reg R.SRM_INJ_CTRL) 31 31 ≠ 1 := by
      rw [hctrl]
      exact fun h => Bool.false_ne_true (harm.symm.trans (beq_iff_eq.mpr h))
    exact (congrArg State.ecc (if_neg fun h => hoff h.1)).trans hcleaned

/-- The blob of an UNWRAP stands in a buffer of the work area, and CRY_KADDR points at it. -/
def State.blobPut (s : State) (blob : List Byte) : State :=
  (s.store mc5.val (fwBufAt s.ode.fwNum) blob).setReg64 R.CRY_KADDR_LO R.CRY_KADDR_HI (fwBufAt s.ode.fwNum)

section

variable (s : State) (blob : List Byte)

theorem blobPut_cry : (s.blobPut blob).cry = s.cry := by
  have hset : Within 1 (s.store mc5.val (fwBufAt s.ode.fwNum) blob) (s.blobPut blob) :=
    .setRegN (.setRegN (.refl _) ⟨rfl⟩) ⟨rfl⟩
  exact (hset .cry rfl).trans (store_cry ..)

theorem blobPut_bytes : (s.blobPut blob).bytes (fwBufAt s.ode.fwNum) blob.length = blob := by
  have hset : Within 1 (s.store mc5.val (fwBufAt s.ode.fwNum) blob) (s.blobPut blob) :=
    .setRegN (.setRegN (.refl _) ⟨rfl⟩) ⟨rfl⟩
  exact (bytes_congr (hset .mem rfl) _ _).trans (bytes_store ..)

theorem blobPut_ecc (hecc : s.ecc = []) (harm : s.rb F.SRM_INJ_CTRL_ARM = false) : (s.blobPut blob).ecc = [] := by
  have hset : Within 1 (s.store mc5.val (fwBufAt s.ode.fwNum) blob) (s.blobPut blob) :=
    .setRegN (.setRegN (.refl _) ⟨rfl⟩) ⟨rfl⟩
  exact (hset .ecc rfl).trans (ecc_store_of_clean hecc harm (isDram_fwBufAt _))

theorem regsBut_blobPut : RegsBut (R.CRY_KADDR_LO :: R.CRY_KADDR_HI :: storeRegs) s (s.blobPut blob) :=
  (((regsBut_store s _ _ _).weaken (List.Subset.trans (List.subset_cons_self ..) (List.subset_cons_self ..))).setRegN
    (by simp)).setRegN (by simp)

theorem blobPut_kaddr : (s.blobPut blob).kaddr = fwBufAt s.ode.fwNum := by
  have hlt : fwBufAt s.ode.fwNum < 2 ^ 32 := by
    unfold fwBufAt
    omega
  unfold State.kaddr State.reg64 State.regN State.blobPut State.setReg64
  generalize fwBufAt s.ode.fwNum = a at *
  rw [reg_setRegN, if_neg (by decide), reg_setRegN, if_pos rfl, reg_setRegN, if_pos rfl, BitVec.toNat_ofNat, BitVec.toNat_ofNat]
  omega

theorem keyGate_blobPut (opc n : Nat) : (s.blobPut blob).keyGate opc n = s.keyGate opc n :=
  keyGate_congr (blobPut_cry s blob) ((regsBut_blobPut s blob).reg (by decide) (not_evrAddr_of_ge (by decide)))
    ((regsBut_blobPut s blob).reg (by decide) (not_evrAddr_of_ge (by decide))) opc n

end

/-! ### The key's length gives a TYPE (R490) -/

/-- A TYPE whose key has a length. -/
def unwrapTyp (klen : Nat) : Nat := if klen = 16 then 0 else if klen = 48 then 3 else if klen = 32 then 1 else 2

theorem unwrapTyp_lt (klen : Nat) : unwrapTyp klen < 16 := by
  unfold unwrapTyp
  split
  · decide
  · split
    · decide
    · split <;> decide

theorem keyLen_unwrapTyp {klen : Nat} (h : klen % 8 = 0) : keyLen (unwrapTyp klen) (8 * (klen / 8)) = klen := by
  refine keyLen_eight ?_ h
  unfold unwrapTyp
  split
  · assumption
  · split
    · assumption
    · split
      · assumption
      · rfl

/-- UNWRAP of a blob in clean memory (R383). -/
theorem keyUnwrapCmd_of_blob {v : State} {n typ usage klen8 kekAt : Nat} {blob kek : List Byte} {p : List Nat}
    (hvtyp : v.rf F.CRY_KARG0_TYPE = typ) (hvusage : v.rf F.CRY_KARG0_USAGE = usage) (hvlen : v.rf F.CRY_KARG0_KLEN8 = klen8)
    (hvkek : v.rf F.CRY_KARG0_KEK = kekAt) (hkek : v.kek kekAt = some kek) (hklen : 16 + keyLen typ (8 * klen8) = blob.length)
    (hread : v.readable v.kaddr blob.length = true) (hclean : v.ecc = []) (hbytes : v.bytes v.kaddr blob.length = blob)
    (hblob : Aes.keyUnwrap (nats kek) (nats blob) = some p) (htype : (Config.attrRead (p.take 8)).1 ≤ 4)
    (hsuits : suits (Config.attrRead (p.take 8)).1 ((Config.attrRead (p.take 8)).2.1 &&& usage) = true)
    (hlen : keyLen (Config.attrRead (p.take 8)).1 (Config.attrRead (p.take 8)).2.2 = blob.length - 16) :
    v.keyUnwrapCmd n = ((v.eccRead Ini.CRY v.kaddr blob.length).loadSlot n (Config.attrRead (p.take 8)).1
      ((Config.attrRead (p.take 8)).2.1 &&& usage) (v.reg R.CRY_KARG1) (toBytes (p.drop 8)), St.OK) := by
  have hunwrap : v.unwrapLen = blob.length := by
    unfold State.unwrapLen
    rw [hvtyp, hvlen, hklen]
  have hbad : v.eccBad v.kaddr v.unwrapLen = false := by
    unfold State.eccBad
    rw [hclean]
    rfl
  rw [← hvusage] at hsuits ⊢
  rw [← hunwrap]
  exact keyUnwrapCmd_of_good (by rw [hvkek, hkek]) (by rw [hunwrap, hread]) hbad n (by rw [hunwrap, hbytes, hblob]) htype hsuits
    (by rw [hlen, hvtyp, hvlen, ← hklen, Nat.add_sub_cancel_left])

/-- The state in which UNWRAP of a blob runs for an invoke. -/
def State.unwrapReady (s : State) (blob : List Byte) (usage kekAt mask : Nat) : State :=
  (s.blobPut blob).withKargs ((s.blobPut blob).karg0 (unwrapTyp (blob.length - 16)) usage ((blob.length - 16) / 8) kekAt) mask

section

variable (s : State) (blob : List Byte) (usage kekAt mask : Nat)

theorem unwrapReady_parts : Within 1 (s.blobPut blob) (s.unwrapReady blob usage kekAt mask) :=
  withKargs_parts _ _ _

theorem unwrapReady_cry : (s.unwrapReady blob usage kekAt mask).cry = s.cry :=
  (unwrapReady_parts s blob usage kekAt mask .cry rfl).trans (blobPut_cry s blob)

theorem unwrapReady_kaddr : (s.unwrapReady blob usage kekAt mask).kaddr = fwBufAt s.ode.fwNum := by
  rw [← blobPut_kaddr s blob]
  unfold State.kaddr State.reg64 State.regN State.unwrapReady
  rw [reg_withKargs _ _ (by decide) (by decide), reg_withKargs _ _ (by decide) (by decide)]

theorem unwrapReady_bytes : (s.unwrapReady blob usage kekAt mask).bytes (fwBufAt s.ode.fwNum) blob.length = blob :=
  (bytes_congr (unwrapReady_parts s blob usage kekAt mask .mem rfl) _ _).trans (blobPut_bytes s blob)

theorem unwrapReady_karg1 : (s.unwrapReady blob usage kekAt mask).reg R.CRY_KARG1 = BitVec.ofNat 32 mask :=
  (reg_setRegN ..).trans (if_pos rfl)

end

/-- The blob that was put in the work area is unwrapped. -/
theorem keyUnwrapCmd_of_blobPut {s : State} {n usage kekAt mask : Nat} {blob kek : List Byte} {p : List Nat}
    (hlow : 16 ≤ blob.length) (hhigh : blob.length ≤ 80) (height : blob.length % 8 = 0) (husage : usage < 256)
    (hkekAt : kekAt < 1024) (hecc : s.ecc = []) (harm : s.rb F.SRM_INJ_CTRL_ARM = false) (hkek : s.kek kekAt = some kek)
    (hblob : Aes.keyUnwrap (nats kek) (nats blob) = some p) (htype : (Config.attrRead (p.take 8)).1 ≤ 4)
    (hsuits : suits (Config.attrRead (p.take 8)).1 ((Config.attrRead (p.take 8)).2.1 &&& usage) = true)
    (hlen : keyLen (Config.attrRead (p.take 8)).1 (Config.attrRead (p.take 8)).2.2 = blob.length - 16) :
    ∃ x : State, x.cry = s.cry ∧ (s.unwrapReady blob usage kekAt mask).keyUnwrapCmd n =
      (x.loadSlot n (Config.attrRead (p.take 8)).1 ((Config.attrRead (p.take 8)).2.1 &&& usage) (BitVec.ofNat 32 mask)
        (toBytes (p.drop 8)), St.OK) := by
  have hfields := withKargs_fields (s.blobPut blob) (s.blobPut blob) (unwrapTyp (blob.length - 16)) usage
    ((blob.length - 16) / 8) kekAt mask
  rw [Nat.mod_eq_of_lt (unwrapTyp_lt _), Nat.mod_eq_of_lt husage, Nat.mod_eq_of_lt (a := (blob.length - 16) / 8) (by omega),
    Nat.mod_eq_of_lt hkekAt] at hfields
  obtain ⟨hvtyp, hvusage, hvlen, hvkek⟩ : _ ∧ _ ∧ _ ∧ (s.unwrapReady blob usage kekAt mask).rf F.CRY_KARG0_KEK = kekAt :=
    hfields
  have hvcry := unwrapReady_cry s blob usage kekAt mask
  have hvecc : (s.unwrapReady blob usage kekAt mask).ecc = [] :=
    (unwrapReady_parts s blob usage kekAt mask .ecc rfl).trans (blobPut_ecc s blob hecc harm)
  have hread : (s.unwrapReady blob usage kekAt mask).readable (fwBufAt s.ode.fwNum) blob.length = true := by
    rw [State.readable, inSram_fwBufAt _ (by omega), Bool.or_true, Bool.true_or]
  have hklen : 16 + keyLen (unwrapTyp (blob.length - 16)) (8 * ((blob.length - 16) / 8)) = blob.length := by
    rw [keyLen_unwrapTyp (by omega)]
    omega
  rw [← unwrapReady_karg1 s blob usage kekAt mask]
  exact ⟨_, (eccRead_cry ..).trans hvcry, keyUnwrapCmd_of_blob (n := n) hvtyp hvusage hvlen hvkek
    ((kek_congr hvcry kekAt).trans hkek) hklen (by rw [unwrapReady_kaddr, hread]) hvecc
    (by rw [unwrapReady_kaddr, unwrapReady_bytes]) hblob htype hsuits hlen⟩

section

variable {s : State} {q : FwReq} (hkind : q.kind = Acc.INVOKE) (hq : s.fwOf 0x30 0x015 = some q)

include hkind hq in
theorem keyUnwrap_range (hshort : q.value.length < 32) : Runs .keyUnwrap s fun t =>
    t.cry.slots = s.cry.slots ∧ s.Gone q t ∧ SameBytes s t := by
  have hends := accessEnds_invoke (s := s) hkind St.RANGE []
  exact runs_invoke (f := State.keyUnwrapArg) rfl hq (if_pos (.inl hshort))
    ⟨congrArg CrySt.slots (hends.parts .cry rfl), RequestStands.gone ⟨rfl, rfl⟩ hkind .., hends.sameBytes⟩

variable (hlow : 32 ≤ q.value.length) (hzero : bytesNat ((q.value.drop 5).take 3) = 0) (hn : bytesNat (q.value.take 2) ≤ 1023)
  (hkekAt : bytesNat ((q.value.drop 2).take 2) ≤ 1022) (height : (q.value.drop 12).length % 8 = 0)

include hlow hzero hn hkekAt height in
theorem keyUnwrapArg_of_good : s.keyUnwrapArg q.value = (s.blobPut (q.value.drop 12)).keyArg 2 (bytesNat (q.value.take 2))
    ((s.blobPut (q.value.drop 12)).karg0 (unwrapTyp ((q.value.drop 12).length - 16)) (bytesNat ((q.value.drop 4).take 1))
      (((q.value.drop 12).length - 16) / 8) (bytesNat ((q.value.drop 2).take 2)))
    (bytesNat ((q.value.drop 8).take 4)) State.keyUnwrapCmd := by
  have hsize : (q.value.drop 12).length = q.value.length - 12 := List.length_drop
  refine if_neg ?_
  rintro (h | h | h | h | h)
  · exact absurd hlow (Nat.not_le.mpr h)
  · exact h hzero
  · exact absurd hn (Nat.not_le.mpr h)
  · exact absurd hkekAt (Nat.not_le.mpr h)
  · exact h (by omega)

include hkind hq hlow hzero hn hkekAt height in
theorem keyUnwrap_loads {kek : List Byte} {p : List Nat} (hshort : (q.value.drop 12).length ≤ 80) (hecc : s.ecc = [])
    (harm : s.rb F.SRM_INJ_CTRL_ARM = false) (hgate : s.keyGate 2 (bytesNat (q.value.take 2)) = none)
    (hkek : s.kek (bytesNat ((q.value.drop 2).take 2)) = some kek)
    (hblob : Aes.keyUnwrap (nats kek) (nats (q.value.drop 12)) = some p) (htype : (Config.attrRead (p.take 8)).1 ≤ 4)
    (hsuits : suits (Config.attrRead (p.take 8)).1
      ((Config.attrRead (p.take 8)).2.1 &&& bytesNat ((q.value.drop 4).take 1)) = true)
    (hlen : keyLen (Config.attrRead (p.take 8)).1 (Config.attrRead (p.take 8)).2.2 = (q.value.drop 12).length - 16) :
    Runs .keyUnwrap s fun t => NewKey s (bytesNat (q.value.take 2)) (Config.attrRead (p.take 8)).1
      ((Config.attrRead (p.take 8)).2.1 &&& bytesNat ((q.value.drop 4).take 1)) (toBytes (p.drop 8)) t ∧ s.Gone q t := by
  have hsize : (q.value.drop 12).length = q.value.length - 12 := List.length_drop
  have hparts : Within 3407891 s (s.keyUnwrapArg q.value).1 := .keyUnwrapArg (.refl s) ⟨rfl⟩
  obtain ⟨x, hcry, hload⟩ := keyUnwrapCmd_of_blobPut (s := s) (n := bytesNat (q.value.take 2))
    (mask := bytesNat ((q.value.drop 8).take 4)) (by omega) hshort height (bytesNat_take_lt (q.value.drop 4) 1)
    (Nat.lt_of_le_of_lt hkekAt (by decide)) hecc harm hkek hblob htype hsuits hlen
  have hf := (keyUnwrapArg_of_good (s := s) hlow hzero hn hkekAt height).trans
    (keyArg_of_admitted ((keyGate_blobPut ..).trans hgate) hload)
  rw [hf] at hparts
  have hends := accessEnds_invoke (q := q) hkind St.OK [] (s := x.loadSlot (bytesNat (q.value.take 2))
    (Config.attrRead (p.take 8)).1 ((Config.attrRead (p.take 8)).2.1 &&& bytesNat ((q.value.drop 4).take 1))
    (BitVec.ofNat 32 (bytesNat ((q.value.drop 8).take 4))) (toBytes (p.drop 8)))
  exact runs_invoke (f := State.keyUnwrapArg) rfl hq hf
    ⟨newKey_of_loadSlot hcry (hends.parts .cry rfl), (RequestStands.of_ode (hparts .ode rfl)).gone hkind ..⟩

end

end Sys2Proof.Machine
end

section
/-! PROOFS. The state of the dictionary (O56). -/

namespace Sys2Proof.Machine

/-- Settles O56, by a lemma per command and case: what the command writes is computed from its definition, and every
invoke ends in the one answer, which leaves memory, keys, flash and the device state. -/
theorem dictionaryState : Obligations.DictionaryState := by
  intro s
  refine ⟨exec_dictionaryImageLoad_idle, fun hrun hstep => ⟨imageLoad_refused hrun hstep, imageLoad_passes hrun hstep⟩,
    exec_heldValuesApply_idle, ?held, exec_journalCommit_idle, fun hrun hbuf hpair => journalCommit_fails hrun hpair hbuf,
    fun g hrun hbuf hpair => ⟨journalCommit_drains hrun hpair hbuf, journalCommit_compacts hrun hbuf⟩,
    exec_journalCompact_idle, fun hstate => ⟨fun hnone bad => journalCompact_fails hstate hnone bad,
      fun p hnext hfits => journalCompact_starts hstate hnext hfits⟩,
    fun p => ⟨fun h => exec_digestPull_idle h p, fun h => exec_pullRetry_idle h p⟩, ?pull, ?retry, ?statecmd,
    stateAutoChange_acts, stateAutoChange_idle, exec_invoke_idle, exec_save_waits,
    fun q hkind => ⟨?stateReq, save_completes hkind, restart_resets hkind, fallbackClear_acts hkind, ?attest, ?load, ?unwrap,
      ?commit⟩⟩
  case held =>
    exact fun x d es l hidle hheld hmust hown href hmay hvalue hbind =>
      heldValuesApply_stores hidle hheld hmust hown href hmay hvalue hbind
  case pull =>
    intro p j js hidle hpulls
    refine ⟨fun hmay => ?_, fun hmay hanswered => digestPull_fails hidle hpulls hmay hanswered,
      fun l hmay hanswered hrecs hkey hmatch => ?_⟩
    · exact (exec_digestPull hidle hpulls).trans (if_neg fun h => Bool.false_ne_true (hmay.symm.trans h))
    · exact ⟨_, (exec_digestPull hidle hpulls).trans (if_pos hmay), pull_succeeds hanswered hrecs hkey hmatch⟩
  case retry =>
    exact fun p j hidle hretry => ⟨pullRetry_drops hidle hretry,
      fun hmay hclass hanswered => pullRetry_fails hidle hretry hmay hclass hanswered⟩
  case statecmd =>
    exact fun i v hmay => ⟨statecmd_rights hmay, statecmd_dump hmay,
      fun hi hv hdev hready => statecmd_operates hmay hi hv hdev hready, fun hi hv h => statecmd_state hmay hi hv h⟩
  case stateReq =>
    exact fun hq => ⟨stateReq_maintains hkind hq, stateReq_operates hkind hq, stateReq_clears hkind hq,
      stateReq_refused hkind hq⟩
  case attest => exact fun hq => ⟨attest_range hq, attest_signs hkind hq⟩
  case load =>
    intro hq
    refine ⟨fun hlow hhigh hn htyp hlen height =>
      ⟨fun st hgate => keyLoad_gated hkind hq hlow hhigh hn htyp hlen height hgate, fun hgate hsuits => ?_⟩,
      keyLoad_range hkind hq⟩
    obtain ⟨t, hexec, hnew, hgone, hbytes⟩ := keyLoad_loads hkind hq hlow hhigh hn htyp hlen height hgate hsuits
    exact ⟨t, hexec, hnew.st, hnew.typ, hnew.usage, hnew.key, hnew.gen, hnew.others, hgone, hbytes⟩
  case unwrap =>
    intro hq
    refine ⟨keyUnwrap_range hkind hq,
      fun kek p hlow _ hzero hn hkekAt height hshort hecc harm hgate hkek hblob htype hsuits hlen => ?_⟩
    obtain ⟨t, hexec, hnew, hgone⟩ := keyUnwrap_loads hkind hq hlow hzero hn hkekAt height hshort hecc harm hgate hkek hblob
      htype hsuits hlen
    exact ⟨t, hexec, hnew.st, hnew.typ, hnew.usage, hnew.key, hnew.others, hgone⟩
  case commit => exact fun hq => ⟨commit_commits hkind hq, commit_refused hkind hq⟩

end Sys2Proof.Machine
end
